-- ==== Sys2Proof/Word.lean ====
section
/-!
DEFINITION. The words of the block: bytes and the register widths the manual uses (00 R12).
-/
namespace Sys2Proof

abbrev Byte := BitVec 8
abbrev W16 := BitVec 16
abbrev W32 := BitVec 32
abbrev W64 := BitVec 64

end Sys2Proof
end

