-- ==== Sys2Proof/Machine/AirState.lean ====
section
/-!
DEFINITION. What the signal paths take in from outside the digital part: the codes of the converters and the bits of the input ports, as data that a command carries (notes/assumptions/4.md).
-/
namespace Sys2Proof.Machine

/-- The corrected 14-bit codes of a course's leading converter, by converter index from `first` (04 R103). -/
structure Codes where
  course : Nat
  first : Int
  words : List Int
  deriving DecidableEq, Repr

/-- The bits of one channel of an input port, by bit number from `first`; frame n of the port is its bits 64 n on, or 128 n on at 6.144 MHz (09 R251). -/
structure PortBits where
  die : Nat
  channel : Nat
  first : Int
  bits : List Bool
  deriving DecidableEq, Repr

/-- The SYSTIME at which frames of an input port that runs its follower began, by frame number from `first` (09 R254). -/
structure FrameStarts where
  die : Nat
  first : Int
  at_ : List Nat
  deriving DecidableEq, Repr

/-- What came in over the spans that a command's samples depend on. -/
structure Air where
  codes : List Codes := []
  ports : List PortBits := []
  frames : List FrameStarts := []
  deriving DecidableEq, Repr

/-- The code of a course at a converter index; 0 where none came in. -/
def Air.code (a : Air) (j : Nat) (n : Int) : Int :=
  match a.codes.find? fun x => x.course == j && decide (x.first ≤ n) && decide (n < x.first + x.words.length) with
  | some x => x.words.getD (n - x.first).toNat 0
  | none => 0

/-- A bit of an input port's channel; the idle pattern's 0 where none came in. -/
def Air.bit (a : Air) (d ch : Nat) (n : Int) : Bool :=
  match a.ports.find? fun x => x.die == d && x.channel == ch && decide (x.first ≤ n) && decide (n < x.first + x.bits.length) with
  | some x => x.bits.getD (n - x.first).toNat false
  | none => false

/-- The frame of an input port in progress at an instant in 1/3 count, and how far it has run: its number, the counts since its start times 3, its length times 3. -/
def Air.frameAt (a : Air) (d : Nat) (t3 : Nat) : Option (Int × Nat × Nat) :=
  a.frames.findSome? fun x => if x.die = d then
      ((List.range (x.at_.length - 1)).findSome? fun (i : Nat) =>
        let u := x.at_.getD i 0 * 3
        let v := x.at_.getD (i + 1) 0 * 3
        if u ≤ t3 && t3 < v then some (x.first + i, t3 - u, v - u) else none)
    else none

end Sys2Proof.Machine
end

