-- ==== Sys2Proof/Machine/EventNames.lean ====
section
/-!
DEFINITION. The events of the part by name, their codes (10 R305) and which of them the fault log receives (14 R389).
-/
namespace Sys2Proof.Machine

/-- The events of the chapters' events tables, in the order of their codes (R305). -/
inductive EvName where
  | segmentLate
  | refLost
  | refReturn
  | pllUnlock
  | pllRelock
  | pllHeld
  | driftMute
  | coreOnRoot
  | coreRestored
  | planHopDone
  | syncDeviation
  | syncLost
  | ppsDeviation
  | ppsLost
  | systimeMismatch
  | realignDone
  | courseFailover
  | courseLeader
  | courseContested
  | courseStandbyReady
  | courseLost
  | converterFailed
  | sliceMismatch
  | sliceRetired
  | sliceRestored
  | agcLimit
  | antFeedOpen
  | antFeedOver
  | bandtapMismatch
  | auditMismatch
  | bandtapReplaced
  | exportMoved
  | auditRetired
  | laneSaturated
  | laneAssayMismatch
  | spareCharged
  | laneReplaced
  | spareRetired
  | laneRestored
  | rdsPiChange
  | rdsAlert
  | rdsSyncLost
  | rdsSyncGained
  | pilotLost
  | pilotLocked
  | mpxPowerOver
  | surveyPreempted
  | ofdmSyncGained
  | ofdmSyncLost
  | mciComplete
  | ensembleReconfig
  | ofdmAlert
  | tiiNew
  | tiiGone
  | engineMismatch
  | engineMoved
  | engineUnserved
  | engineRestored
  | followSwitch
  | followStandby
  | followVerified
  | followUnverified
  | followDelayLocked
  | followDelayLost
  | followOutOfRange
  | followNoStandby
  | followFadeHeld
  | slotResync
  | codecUnsupported
  | codecChange
  | silenceStart
  | silenceEnd
  | nonAudioStart
  | nonAudioEnd
  | matchGained
  | matchLost
  | ringMaskChanged
  | slotRetired
  | contextRetired
  | portStarted
  | portStopped
  | portFrozen
  | portResumed
  | portUnderrun
  | portOverrun
  | portSlip
  | portResync
  | portLineFault
  | inputLineStuck
  | amclkStop
  | amclkReturn
  | amclkRateChange
  | amclkGlitches
  | ringError
  | ringOverrun
  | deliveryCheckFail
  | captureEnded
  | capturePreempted
  | linkState
  | calCheckFailed
  | calAbandoned
  | calUnreachable
  | calOverdue
  | calinSuspect
  | calStored
  | calStoreFailed
  | calLoaded
  | monSeqRejected
  | monLoopbackFail
  | sramUncorrectable
  | sramRowRemapped
  | sramRowsExhausted
  | linkLaneRetired
  | linkFailed
  | linkRestored
  | supplyTrip
  | lockstepFault
  | dieFenced
  | faultLasting
  | unitRetired
  | unitRestored
  | faultCleared
  | degradedChange
  | taskOverdue
  | logSuppressed
  | flashFault
  | fwFallback
  | rollbackRaised
  | updateAbandoned
  | ownerEnrolled
  | hallmarkKeyNew
  | debugOpened
  | debugDenied
  | mbBusStuck
  | mbTargetTimeout
  | mbErrors
  | mbWake
  | modeChanged
  | watchAlert
  | dieSelftestFailed
  | tempHigh
  | tempNormal
  deriving DecidableEq, Repr

/-- The event's code: 0xCC00 + k, CC the chapter in binary-coded decimal, k its place in the chapter's table (R305). -/
def EvName.code : EvName → Nat
  | .segmentLate => 0x0100
  | .refLost => 0x0200
  | .refReturn => 0x0201
  | .pllUnlock => 0x0202
  | .pllRelock => 0x0203
  | .pllHeld => 0x0204
  | .driftMute => 0x0205
  | .coreOnRoot => 0x0206
  | .coreRestored => 0x0207
  | .planHopDone => 0x0208
  | .syncDeviation => 0x0209
  | .syncLost => 0x020A
  | .ppsDeviation => 0x020B
  | .ppsLost => 0x020C
  | .systimeMismatch => 0x020D
  | .realignDone => 0x020E
  | .courseFailover => 0x0300
  | .courseLeader => 0x0301
  | .courseContested => 0x0302
  | .courseStandbyReady => 0x0303
  | .courseLost => 0x0304
  | .converterFailed => 0x0305
  | .sliceMismatch => 0x0306
  | .sliceRetired => 0x0307
  | .sliceRestored => 0x0308
  | .agcLimit => 0x0309
  | .antFeedOpen => 0x030A
  | .antFeedOver => 0x030B
  | .bandtapMismatch => 0x0400
  | .auditMismatch => 0x0401
  | .bandtapReplaced => 0x0402
  | .exportMoved => 0x0403
  | .auditRetired => 0x0404
  | .laneSaturated => 0x0405
  | .laneAssayMismatch => 0x0500
  | .spareCharged => 0x0501
  | .laneReplaced => 0x0502
  | .spareRetired => 0x0503
  | .laneRestored => 0x0504
  | .rdsPiChange => 0x0505
  | .rdsAlert => 0x0506
  | .rdsSyncLost => 0x0507
  | .rdsSyncGained => 0x0508
  | .pilotLost => 0x0509
  | .pilotLocked => 0x050A
  | .mpxPowerOver => 0x050B
  | .surveyPreempted => 0x050C
  | .ofdmSyncGained => 0x0600
  | .ofdmSyncLost => 0x0601
  | .mciComplete => 0x0602
  | .ensembleReconfig => 0x0603
  | .ofdmAlert => 0x0604
  | .tiiNew => 0x0605
  | .tiiGone => 0x0606
  | .engineMismatch => 0x0607
  | .engineMoved => 0x0608
  | .engineUnserved => 0x0609
  | .engineRestored => 0x060A
  | .followSwitch => 0x0700
  | .followStandby => 0x0701
  | .followVerified => 0x0702
  | .followUnverified => 0x0703
  | .followDelayLocked => 0x0704
  | .followDelayLost => 0x0705
  | .followOutOfRange => 0x0706
  | .followNoStandby => 0x0707
  | .followFadeHeld => 0x0708
  | .slotResync => 0x0800
  | .codecUnsupported => 0x0801
  | .codecChange => 0x0802
  | .silenceStart => 0x0803
  | .silenceEnd => 0x0804
  | .nonAudioStart => 0x0805
  | .nonAudioEnd => 0x0806
  | .matchGained => 0x0807
  | .matchLost => 0x0808
  | .ringMaskChanged => 0x0809
  | .slotRetired => 0x080A
  | .contextRetired => 0x080B
  | .portStarted => 0x0900
  | .portStopped => 0x0901
  | .portFrozen => 0x0902
  | .portResumed => 0x0903
  | .portUnderrun => 0x0904
  | .portOverrun => 0x0905
  | .portSlip => 0x0906
  | .portResync => 0x0907
  | .portLineFault => 0x0908
  | .inputLineStuck => 0x0909
  | .amclkStop => 0x090A
  | .amclkReturn => 0x090B
  | .amclkRateChange => 0x090C
  | .amclkGlitches => 0x090D
  | .ringError => 0x1000
  | .ringOverrun => 0x1001
  | .deliveryCheckFail => 0x1002
  | .captureEnded => 0x1003
  | .capturePreempted => 0x1004
  | .linkState => 0x1005
  | .calCheckFailed => 0x1200
  | .calAbandoned => 0x1201
  | .calUnreachable => 0x1202
  | .calOverdue => 0x1203
  | .calinSuspect => 0x1204
  | .calStored => 0x1205
  | .calStoreFailed => 0x1206
  | .calLoaded => 0x1207
  | .monSeqRejected => 0x1300
  | .monLoopbackFail => 0x1301
  | .sramUncorrectable => 0x1400
  | .sramRowRemapped => 0x1401
  | .sramRowsExhausted => 0x1402
  | .linkLaneRetired => 0x1403
  | .linkFailed => 0x1404
  | .linkRestored => 0x1405
  | .supplyTrip => 0x1406
  | .lockstepFault => 0x1407
  | .dieFenced => 0x1408
  | .faultLasting => 0x1409
  | .unitRetired => 0x140A
  | .unitRestored => 0x140B
  | .faultCleared => 0x140C
  | .degradedChange => 0x140D
  | .taskOverdue => 0x140E
  | .logSuppressed => 0x140F
  | .flashFault => 0x1410
  | .fwFallback => 0x1500
  | .rollbackRaised => 0x1501
  | .updateAbandoned => 0x1502
  | .ownerEnrolled => 0x1503
  | .hallmarkKeyNew => 0x1504
  | .debugOpened => 0x1505
  | .debugDenied => 0x1506
  | .mbBusStuck => 0x1600
  | .mbTargetTimeout => 0x1601
  | .mbErrors => 0x1602
  | .mbWake => 0x1603
  | .modeChanged => 0x1700
  | .watchAlert => 0x1701
  | .dieSelftestFailed => 0x1702
  | .tempHigh => 0x1800
  | .tempNormal => 0x1801

/-- Whether the fault log receives the event: every event of chapter 14, and the listed ones of other chapters (R389). -/
def EvName.logged : EvName → Bool
  | .segmentLate => true
  | .refLost => true
  | .refReturn => false
  | .pllUnlock => true
  | .pllRelock => false
  | .pllHeld => true
  | .driftMute => false
  | .coreOnRoot => false
  | .coreRestored => false
  | .planHopDone => false
  | .syncDeviation => false
  | .syncLost => false
  | .ppsDeviation => false
  | .ppsLost => false
  | .systimeMismatch => true
  | .realignDone => false
  | .courseFailover => true
  | .courseLeader => false
  | .courseContested => false
  | .courseStandbyReady => false
  | .courseLost => true
  | .converterFailed => true
  | .sliceMismatch => false
  | .sliceRetired => true
  | .sliceRestored => true
  | .agcLimit => false
  | .antFeedOpen => false
  | .antFeedOver => false
  | .bandtapMismatch => true
  | .auditMismatch => true
  | .bandtapReplaced => true
  | .exportMoved => true
  | .auditRetired => true
  | .laneSaturated => false
  | .laneAssayMismatch => true
  | .spareCharged => true
  | .laneReplaced => true
  | .spareRetired => true
  | .laneRestored => true
  | .rdsPiChange => false
  | .rdsAlert => false
  | .rdsSyncLost => false
  | .rdsSyncGained => false
  | .pilotLost => false
  | .pilotLocked => false
  | .mpxPowerOver => false
  | .surveyPreempted => false
  | .ofdmSyncGained => false
  | .ofdmSyncLost => false
  | .mciComplete => false
  | .ensembleReconfig => false
  | .ofdmAlert => false
  | .tiiNew => false
  | .tiiGone => false
  | .engineMismatch => true
  | .engineMoved => true
  | .engineUnserved => true
  | .engineRestored => true
  | .followSwitch => false
  | .followStandby => false
  | .followVerified => false
  | .followUnverified => false
  | .followDelayLocked => false
  | .followDelayLost => false
  | .followOutOfRange => false
  | .followNoStandby => false
  | .followFadeHeld => false
  | .slotResync => false
  | .codecUnsupported => false
  | .codecChange => false
  | .silenceStart => false
  | .silenceEnd => false
  | .nonAudioStart => false
  | .nonAudioEnd => false
  | .matchGained => false
  | .matchLost => false
  | .ringMaskChanged => false
  | .slotRetired => true
  | .contextRetired => true
  | .portStarted => false
  | .portStopped => false
  | .portFrozen => false
  | .portResumed => false
  | .portUnderrun => false
  | .portOverrun => false
  | .portSlip => false
  | .portResync => false
  | .portLineFault => false
  | .inputLineStuck => false
  | .amclkStop => false
  | .amclkReturn => false
  | .amclkRateChange => false
  | .amclkGlitches => false
  | .ringError => true
  | .ringOverrun => false
  | .deliveryCheckFail => true
  | .captureEnded => false
  | .capturePreempted => false
  | .linkState => false
  | .calCheckFailed => false
  | .calAbandoned => false
  | .calUnreachable => false
  | .calOverdue => false
  | .calinSuspect => false
  | .calStored => false
  | .calStoreFailed => true
  | .calLoaded => false
  | .monSeqRejected => false
  | .monLoopbackFail => false
  | .sramUncorrectable => true
  | .sramRowRemapped => true
  | .sramRowsExhausted => true
  | .linkLaneRetired => true
  | .linkFailed => true
  | .linkRestored => true
  | .supplyTrip => true
  | .lockstepFault => true
  | .dieFenced => true
  | .faultLasting => true
  | .unitRetired => true
  | .unitRestored => true
  | .faultCleared => true
  | .degradedChange => true
  | .taskOverdue => true
  | .logSuppressed => true
  | .flashFault => true
  | .fwFallback => false
  | .rollbackRaised => false
  | .updateAbandoned => false
  | .ownerEnrolled => false
  | .hallmarkKeyNew => false
  | .debugOpened => false
  | .debugDenied => false
  | .mbBusStuck => false
  | .mbTargetTimeout => false
  | .mbErrors => false
  | .mbWake => false
  | .modeChanged => false
  | .watchAlert => false
  | .dieSelftestFailed => false
  | .tempHigh => false
  | .tempNormal => false

end Sys2Proof.Machine
end

