-- ==== Sys2Proof/Machine/Names.lean ====
section
/-!
DEFINITION. The fixed sets of names of the block: parts, modes, status codes, loops, units, delivery classes, and the records that commands bring in from outside.
-/
namespace Sys2Proof.Machine

/-- The three parts (00 R1). -/
inductive Part where
  | pd2064 | pd4128 | pd8256
  deriving DecidableEq, Repr

/-- Receiver dies N (R1). -/
def Part.dies : Part → Nat
  | .pd2064 => 2
  | .pd4128 => 4
  | .pd8256 => 8

/-- The PCI Express Device ID (10 R276). -/
def Part.deviceId : Part → Nat
  | .pd2064 => 0x2064
  | .pd4128 => 0x4128
  | .pd8256 => 0x8256

/-- SILICON_REV of every part of the ordering codes (18 R469). -/
def Part.siliconRev : Part → Nat
  | .pd2064 | .pd4128 | .pd8256 => 0x01

/-- PDM input ports: dies 0 to 3 only (R1). -/
def Part.inPorts : Part → Nat
  | .pd2064 => 2
  | .pd4128 => 4
  | .pd8256 => 4

/-- Operating modes (11 R316). -/
inductive OpMode where
  | off | sleep | boot | recovery | idle | run | runDegraded | holdover | watch | systemCal | update | diagnostic | halted
  deriving DecidableEq, Repr

/-- Mode codes (R316). -/
def OpMode.code : OpMode → Nat
  | .off => 0 | .sleep => 1 | .boot => 2 | .recovery => 3 | .idle => 4 | .run => 5 | .runDegraded => 6
  | .holdover => 7 | .watch => 8 | .systemCal => 9 | .update => 10 | .diagnostic => 11 | .halted => 12

/-- The mode of a code; 13 to 15 are reserved (R316). -/
def OpMode.ofCode : Nat → Option OpMode
  | 0 => some .off | 1 => some .sleep | 2 => some .boot | 3 => some .recovery | 4 => some .idle | 5 => some .run
  | 6 => some .runDegraded | 7 => some .holdover | 8 => some .watch | 9 => some .systemCal | 10 => some .update
  | 11 => some .diagnostic | 12 => some .halted
  | _ => none

/-- The reception modes (17 R437). -/
def OpMode.reception : OpMode → Bool
  | .run | .runDegraded | .holdover => true
  | _ => false

/-- The reception modes and DIAGNOSTIC: the modes in which the active set is in force (17 R433, R436). -/
def OpMode.receiving : OpMode → Bool
  | .run | .runDegraded | .holdover | .diagnostic => true
  | _ => false

/-- The modes in which hallmark intervals are sealed (15 R405). -/
def OpMode.sealing : OpMode → Bool
  | .off | .sleep | .boot | .recovery | .halted => false
  | _ => true

/-- Status codes of a completion (11 R315). -/
inductive Status where
  | ok | okDeferred | badOpcode | stateRefused | badParam | checkFail | notInConfig | resourceBusy
  | stageInvalid | calImplausible | denied | abortedFault | timeout | unitRetired
  deriving DecidableEq, Repr

/-- The codes of R315. -/
def Status.code : Status → Nat
  | .ok => 0x0000 | .okDeferred => 0x0001 | .badOpcode => 0x0100 | .stateRefused => 0x0101 | .badParam => 0x0102
  | .checkFail => 0x0103 | .notInConfig => 0x0104 | .resourceBusy => 0x0105 | .stageInvalid => 0x0106
  | .calImplausible => 0x0107 | .denied => 0x0108 | .abortedFault => 0x0109 | .timeout => 0x010A | .unitRetired => 0x010B

/-- OK and OK_DEFERRED are the successes (R315, R318). -/
def Status.success : Status → Bool
  | .ok | .okDeferred => true
  | _ => false

/-- The commands of the opcode list (11 R329). -/
inductive Cmd where
  | nop | identify | timeSet | realign | stageLane | stageCluster | stageEngine | stageSlot
  | stagePort | stageFollow | stageBank | stagePlan | stageCopy | commit | discardStage | portStart
  | portStop | captureStart | captureStop | calStart | calQuery | calStore | syscalStep | monInject
  | monRead | faultQuery | faultClear | unitRetire | unitRestore | modeSet | attest | hallmarkConfig
  | keyInfo | updateBegin | updateChunk | updateFinish | logRead
  deriving DecidableEq, Repr

/-- The opcode of a command (R329). -/
def Cmd.opcode : Cmd → Nat
  | .nop => 0x01 | .identify => 0x02 | .timeSet => 0x03 | .realign => 0x04 | .stageLane => 0x10
  | .stageCluster => 0x11 | .stageEngine => 0x12 | .stageSlot => 0x13 | .stagePort => 0x14 | .stageFollow => 0x15
  | .stageBank => 0x16 | .stagePlan => 0x17 | .stageCopy => 0x18 | .commit => 0x1E | .discardStage => 0x1F
  | .portStart => 0x20 | .portStop => 0x21 | .captureStart => 0x28 | .captureStop => 0x29 | .calStart => 0x30
  | .calQuery => 0x31 | .calStore => 0x32 | .syscalStep => 0x33 | .monInject => 0x38 | .monRead => 0x39
  | .faultQuery => 0x40 | .faultClear => 0x41 | .unitRetire => 0x42 | .unitRestore => 0x43 | .modeSet => 0x48
  | .attest => 0x50 | .hallmarkConfig => 0x51 | .keyInfo => 0x52 | .updateBegin => 0x58 | .updateChunk => 0x59
  | .updateFinish => 0x5A | .logRead => 0x60

/-- Every command. -/
def Cmd.all : List Cmd :=
  [.nop, .identify, .timeSet, .realign, .stageLane, .stageCluster, .stageEngine, .stageSlot, .stagePort, .stageFollow,
   .stageBank, .stagePlan, .stageCopy, .commit, .discardStage, .portStart, .portStop, .captureStart, .captureStop, .calStart,
   .calQuery, .calStore, .syscalStep, .monInject, .monRead, .faultQuery, .faultClear, .unitRetire, .unitRestore, .modeSet,
   .attest, .hallmarkConfig, .keyInfo, .updateBegin, .updateChunk, .updateFinish, .logRead]

/-- The command of an opcode; every other opcode is none (R329). -/
def Cmd.ofOpcode (n : Nat) : Option Cmd := Cmd.all.find? fun c => c.opcode == n

/-- A die's three synthesizers (02 R39). -/
inductive DieLoop where
  | samp | sys | aud
  deriving DecidableEq, Repr

/-- The loop's number, as UNIT SUB and the events carry it (11 R339). -/
def DieLoop.code : DieLoop → Nat
  | .samp => 0 | .sys => 1 | .aud => 2

/-- The loops of the part: the reference PLL of the anchor die and three synthesizers per die (02 R39). -/
inductive LoopId where
  | ref
  | die (d : Nat) (l : DieLoop)
  deriving DecidableEq, Repr

/-- The kinds of units that occurrences and retirements name (11 R339), and SRAM words (14 R378). -/
inductive UnitKind where
  | lane | spare | bandTap | exportTap | audit | converter | slice | engine | context | slot | watchTap | linkLane | clockLoop | sramWord
  deriving DecidableEq, Repr

/-- TYPE of a unit (R339). A memory word has none; it is given the next number, which no descriptor can name. -/
def UnitKind.type : UnitKind → Nat
  | .lane => 0 | .spare => 1 | .bandTap => 2 | .exportTap => 3 | .audit => 4 | .converter => 5 | .slice => 6 | .engine => 7
  | .context => 8 | .slot => 9 | .watchTap => 10 | .linkLane => 11 | .clockLoop => 12 | .sramWord => 13

/-- The unit kind of a TYPE (R339). -/
def UnitKind.ofType : Nat → Option UnitKind
  | 0 => some .lane | 1 => some .spare | 2 => some .bandTap | 3 => some .exportTap | 4 => some .audit | 5 => some .converter
  | 6 => some .slice | 7 => some .engine | 8 => some .context | 9 => some .slot | 10 => some .watchTap | 11 => some .linkLane
  | 12 => some .clockLoop
  | _ => none

/-- A physical unit: TYPE, DIE, LOCAL, SUB (R339). -/
structure UnitRef where
  kind : UnitKind
  die : Nat
  loc : Nat
  sub : Nat
  deriving DecidableEq, Repr

/-- Where a command comes from: a command ring (10) or the mailbox of the management bus (16). -/
inductive CmdSrc where
  | ring (r : Nat)
  | mailbox
  deriving DecidableEq, Repr

/-- A chain that carries RDS: a lane or a watch tap, by global index (05). -/
inductive Rx where
  | lane (i : Nat)
  | watch (w : Nat)
  deriving DecidableEq, Repr

/-- A PDM port: output or input, by die (09). -/
inductive PortId where
  | out (d : Nat)
  | inp (d : Nat)
  deriving DecidableEq, Repr

/-- The classes of delivery (10 R293, R330). -/
inductive DelClass where
  | pcm | pdmIn | accessUnits | sideData | measurement | events | hallmark | telemetry
  deriving DecidableEq, Repr

/-- CLASS of a route entry (11 R330). -/
def DelClass.code : DelClass → Nat
  | .pcm => 1 | .pdmIn => 2 | .accessUnits => 3 | .sideData => 4 | .measurement => 5 | .events => 6 | .hallmark => 7 | .telemetry => 8

/-- Items of an event's ARGS: one 32-bit word, or 8 bytes aligned to 8 (10 R305). -/
inductive EvArg where
  | w (v : Int)
  | q (v : Int)
  deriving DecidableEq, Repr

/-- The record whose sticky saturation flag is written: a band tap, or a stage group of a lane or spare lane, 0 halving, 1 resampler, 2 channel filter (04 R129). -/
inductive SatTarget where
  | bandTap (c : Nat)
  | lane (l stage : Nat)
  | spare (c stage : Nat)
  deriving DecidableEq, Repr

/-- What a 2 ms sample block is of: a lane's or spare lane's chain, a band tap's segment, a lane's MPX (10 R308). -/
inductive StreamId where
  | lane (l : Nat)
  | spare (c : Nat)
  | segment (c : Nat)
  | mpx (l : Nat)
  deriving DecidableEq, Repr

/-- What an output port renders on one channel of a frame: the idle pattern, the modulator on zero, the modulator on a sample of 24 bits (09 R260). -/
inductive Rendered where
  | idle | zero
  | sample (v : Int)
  deriving DecidableEq, Repr

/-- SRAM regions of a die (14 R383, 01 R16). -/
inductive SramRegion where
  | delayPool | engine | context | slot | staging | ring | control
  deriving DecidableEq, Repr

/-- The number of a region, in the order of R383's table. -/
def SramRegion.code : SramRegion → Nat
  | .delayPool => 0 | .engine => 1 | .context => 2 | .slot => 3 | .staging => 4 | .ring => 5 | .control => 6

/-- The data that an uncorrectable SRAM word held, by the region and its owner (14 R383): samples of a lane's coarse delay or of a follow set's alignment buffers, cells or control state of an engine position, an access unit or the codec state of a context, audio or measurement state of a slot, a ring's block in staging, what a flit of a ring buffer carried, a word of control memory. Spans are in SYSTIME. -/
inductive SramOwner where
  | delayLane (l e1 e2 : Nat)
  | delayFollow (f t0 t1 : Nat)
  | engineCells (e p : Nat)
  | engineControl (e p : Nat)
  | accessUnit (k : Nat)
  | codecState (k : Nat)
  | slotAudio (x t0 t1 : Nat)
  | slotMeasure (x : Nat)
  | staging (r : Nat)
  | flitSegment (c e1 e2 : Nat)
  | flitAudio (x t0 t1 : Nat)
  | flitBlock (r : Nat)
  | flitControl
  | controlMemory
  deriving DecidableEq, Repr

/-- The region in which an owner's word lies (R383). -/
def SramOwner.region : SramOwner → SramRegion
  | .delayLane .. | .delayFollow .. => .delayPool
  | .engineCells .. | .engineControl .. => .engine
  | .accessUnit _ | .codecState _ => .context
  | .slotAudio .. | .slotMeasure _ => .slot
  | .staging _ => .staging
  | .flitSegment .. | .flitAudio .. | .flitBlock _ | .flitControl => .ring
  | .controlMemory => .control

/-- Background tasks in the order of TASK_OVERDUE's item and of the task ages word (R387, R388); per die or per input where the table says so. -/
inductive Task where
  | planish (d : Nat)
  | level (n : Nat)
  | monitor (d : Nat)
  | store
  | flashRefresh
  | telemetry (d : Nat)
  | hallmark
  | log
  deriving DecidableEq, Repr

end Sys2Proof.Machine
end

