-- ==== Sys2Proof/Machine/Table.lean ====
section
/-!
DEFINITION. Tables of like units, keyed by global index (00 R5): a default value and the entries that differ from it, in one canonical form.
-/
namespace Sys2Proof.Machine

/-- A table of like units: what an unlisted key holds, and the listed keys in rising order. -/
structure Tbl (α : Type) where
  dflt : α
  cells : List (Nat × α)
  deriving DecidableEq, Repr

/-- A table that lists nothing. -/
def Tbl.empty {α : Type} (d : α) : Tbl α := ⟨d, []⟩

/-- The first entry of key `k` in a list of cells. -/
def cellsFind {α : Type} (k : Nat) : List (Nat × α) → Option α
  | [] => none
  | (j, v) :: rest => if j = k then some v else cellsFind k rest

/-- The list of cells without key `k`. -/
def cellsErase {α : Type} (k : Nat) : List (Nat × α) → List (Nat × α)
  | [] => []
  | (j, v) :: rest => if j = k then cellsErase k rest else (j, v) :: cellsErase k rest

/-- The list of cells with `(k, v)` put before the first greater key. -/
def cellsInsert {α : Type} (k : Nat) (v : α) : List (Nat × α) → List (Nat × α)
  | [] => [(k, v)]
  | (j, w) :: rest => if k < j then (k, v) :: (j, w) :: rest else (j, w) :: cellsInsert k v rest

/-- What the table holds for key `k`. -/
def Tbl.get {α : Type} (t : Tbl α) (k : Nat) : α := (cellsFind k t.cells).getD t.dflt

/-- The table with `v` at key `k`; writing the default removes the entry, so that equal tables are equal data. -/
def Tbl.set {α : Type} [DecidableEq α] (t : Tbl α) (k : Nat) (v : α) : Tbl α :=
  if v = t.dflt then { t with cells := cellsErase k t.cells }
  else { t with cells := cellsInsert k v (cellsErase k t.cells) }

/-- The table with key `k` changed by `f`. -/
def Tbl.modify {α : Type} [DecidableEq α] (t : Tbl α) (k : Nat) (f : α → α) : Tbl α := t.set k (f (t.get k))

/-- Every listed key changed by `f`, and the keys below `n` too: what changes all units of a class at once. -/
def Tbl.mapAll {α : Type} [DecidableEq α] (t : Tbl α) (n : Nat) (f : Nat → α → α) : Tbl α :=
  (List.range n).foldl (fun acc k => acc.set k (f k (t.get k))) t

/-- The keys below `n` whose entry satisfies `p`. -/
def Tbl.keysWhere {α : Type} (t : Tbl α) (n : Nat) (p : Nat → α → Bool) : List Nat :=
  (List.range n).filter (fun k => p k (t.get k))

/-- Keys strictly rising from above `b`. -/
def cellsRising {α : Type} (b : Nat) : List (Nat × α) → Bool
  | [] => true
  | (j, _) :: rest => decide (b < j) && cellsRising j rest

/-- The canonical form: keys strictly rising, no entry equal to the default. -/
def Tbl.wf {α : Type} [DecidableEq α] (t : Tbl α) : Bool :=
  (match t.cells with
    | [] => true
    | (j, _) :: rest => cellsRising j rest)
  && t.cells.all (fun c => decide (c.2 ≠ t.dflt))

end Sys2Proof.Machine
end

