-- ==== Sys2Proof/Machine/Sets.lean ====
section
/-!
DEFINITION. The entries of the configuration sets (11 R320, R321): every parameter that is staged, as its STAGE_* table lays it out.
-/
namespace Sys2Proof.Machine

/-- Course modes (03 R75). -/
inductive CourseMode where
  | off | simplex | duplex
  deriving DecidableEq, Repr

/-- MODE of a course entry (R330). -/
def CourseMode.code : CourseMode → Nat
  | .off => 0 | .simplex => 1 | .duplex => 2

/-- A course entry (11 R330); reset values are the defaults of R93 with the mode OFF. -/
structure CourseEntry where
  mode : CourseMode := .off
  preferB : Bool := false
  agcOn : Bool := false
  gain : Int := 0
  gainMax : Int := 14
  gainMin : Int := -31
  attack : Int := -3
  target : Int := -12
  release : Int := -18
  hold : Nat := 20
  releaseInterval : Nat := 10
  deriving DecidableEq, Repr

/-- A route entry (11 R330); no class: the ring has no route. -/
structure RouteEntry where
  die : Nat := 0
  cls : Option DelClass := none
  laneMask : Nat := 0
  watchMask : Nat := 0
  slotMask : Nat := 0
  followMask : Nat := 0
  engineMask : Nat := 0
  inputPort : Bool := false
  deriving DecidableEq, Repr

/-- A cluster entry without its watch taps (11 R331). -/
structure ClusterEntry where
  btOn : Bool := false
  segCode : Nat := 0
  course : Nat := 0
  fBt : Nat := 0
  holdCover : Bool := false
  deriving DecidableEq, Repr

/-- Watch-tap modes (05 R158). -/
inductive WatchMode where
  | off | level | fm | survey
  deriving DecidableEq, Repr

/-- MODE code of a watch tap (R158). -/
def WatchMode.code : WatchMode → Nat
  | .off => 0 | .level => 1 | .fm => 2 | .survey => 3

/-- A watch-tap entry (11 R331). -/
structure WatchEntry where
  mode : WatchMode := .off
  rateHigh : Bool := false
  period : Nat := 0
  freqCount : Nat := 0
  dwell : Nat := 0
  bank : Nat := 0
  filter : Nat := 0
  freqs : List Nat := []
  deriving DecidableEq, Repr

/-- Lane modes (05 R135). -/
inductive LaneMode where
  | off | amEnv | amSync | fmMono | fmStereo | ofdmFeed | branch
  deriving DecidableEq, Repr

/-- MODE code of a lane (R135). -/
def LaneMode.code : LaneMode → Nat
  | .off => 0 | .amEnv => 1 | .amSync => 2 | .fmMono => 3 | .fmStereo => 4 | .ofdmFeed => 5 | .branch => 6

/-- AM modes (R135). -/
def LaneMode.am : LaneMode → Bool
  | .amEnv | .amSync => true
  | _ => false

/-- FM modes (R135). -/
def LaneMode.fm : LaneMode → Bool
  | .fmMono | .fmStereo => true
  | _ => false

/-- A lane entry (11 R332). -/
structure LaneEntry where
  mode : LaneMode := .off
  branchCount : Nat := 0
  measPeriod : Nat := 0
  syncBw : Nat := 0
  amssOn : Bool := false
  deemph : Nat := 0
  rdsNrsc : Bool := false
  fLane : Nat := 0
  bank : Nat := 0
  filter : Nat := 0
  phaseDelay : Nat := 0
  coarseDelay : Nat := 0
  branches : List Nat := []
  audioBw : Nat := 0
  devLimit : Nat := 0
  pilotMin : Nat := 0
  rdsStreams : Nat := 0
  correctMax : Nat := 0
  acceptMax : Nat := 0
  deriving DecidableEq, Repr

/-- Engine classes (06 R167). -/
inductive EngineClass where
  | off | dab | drm
  deriving DecidableEq, Repr

/-- CLASS code of an engine (R333). -/
def EngineClass.code : EngineClass → Nat
  | .off => 0 | .dab => 1 | .drm => 2

/-- One signal position's feed (11 R333): the local lane, if present. -/
abbrev Feed := Option Nat

/-- An engine entry (11 R333). -/
structure EngineEntry where
  cls : EngineClass := .off
  ctrlDelivery : Nat := 0
  tiiOn : Bool := false
  tiiPeriod : Nat := 0
  measLong : Bool := false
  freqSearch : Nat := 0
  feeds : List Feed := []
  drmModes : List Nat := []
  pathThreshold : Int := 0
  tiiThreshold : Nat := 0
  auMask : Nat := 0
  dataMask : Nat := 0
  padMask : Nat := 0
  deriving DecidableEq, Repr

/-- Slot sources (08 R224). -/
inductive SlotSource where
  | none | lane | decode | follow
  deriving DecidableEq, Repr

/-- SOURCE of a slot (R334). -/
def SlotSource.code : SlotSource → Nat
  | .none => 0 | .lane => 1 | .decode => 2 | .follow => 3

/-- A slot entry (11 R334); of a slot without a source only MEAS_PERIOD applies (08 R224). -/
structure SlotEntry where
  source : SlotSource := .none
  channels : Nat := 0
  measLong : Bool := true
  classify : Nat := 0
  integReset : Bool := false
  muteClasses : Nat := 0
  srcIndex : Nat := 0
  srcPos : Nat := 0
  srcSub : Nat := 0
  context : Nat := 0
  slotDelay : Nat := 0
  silenceLevel : Int := 0
  silenceMin : Nat := 0
  matchKind : Nat := 0
  matchChannel : Nat := 0
  matchRange : Nat := 0
  matchWindow : Nat := 0
  matchMin : Nat := 0
  deriving DecidableEq, Repr

/-- A port entry, output or input (11 R335). -/
structure PortEntry where
  bclkFast : Bool := false
  amclk : Bool := false
  amclkNom : Nat := 1
  autoRate : Bool := false
  gapSilence : Bool := false
  glitchWidth : Nat := 0
  sampleDelay : Nat := 0
  preRoll : Nat := 0
  postRoll : Nat := 0
  lineMask : Nat := 0
  mask : Nat := 0
  deriving DecidableEq, Repr

/-- A member of a follow set (11 R336). -/
structure FollowMember where
  lane : Option Nat := none
  engine : Option Nat := none
  position : Nat := 0
  context : Option Nat := none
  deriving DecidableEq, Repr

/-- An identifier of a service: REF_TYPE (0 PI, 1 SId of 16 bits, 2 SId of 32 bits, 3 DRM service identifier, 4 AMSS SID) and value (07 R198, 11 R336). -/
structure Ident where
  kind : Nat
  val : Nat
  deriving DecidableEq, Repr

/-- A station a follow entry names: INITIAL or STATIC (11 R336). -/
structure FollowStation where
  freq : Nat := 0
  sigType : Nat := 0
  trusted : Bool := false
  ident : Nat := 0
  deriving DecidableEq, Repr

/-- A follow-set entry (11 R336); reset values are the defaults of 07 R198, disabled. -/
structure FollowEntry where
  enable : Bool := false
  linkSoft : Bool := false
  allowUnaligned : Bool := false
  equalPower : Bool := false
  autoSources : Nat := 31
  refType : Nat := 0
  pref : Nat := 164
  refId : Nat := 0
  piMask : Nat := 65535
  latency : Nat := 1250
  alignPages : Nat := 11
  corrWindow : Nat := 1
  corrMin : Nat := 50
  margin : Nat := 6
  hysteresis : Nat := 6
  badHold : Nat := 3
  prefHold : Nat := 5
  betterHold : Nat := 10
  minInterval : Nat := 20
  standbyMin : Nat := 5
  candDwell : Nat := 5
  verifyAge : Nat := 60
  fade : Nat := 50
  fadeFast : Nat := 10
  fmLevelMin : Nat := 3000
  amLevelMin : Nat := 4000
  digLevelMin : Nat := 3000
  mpRef : Int := -1400
  merMin : Nat := 1000
  filters : List Nat := []
  members : List FollowMember := []
  watches : List Nat := []
  initial : FollowStation := {}
  statics : List FollowStation := []
  deriving DecidableEq, Repr

/-- A symmetric filter: its coefficients from the outermost tap to the centre; L = 2 × their number − 1 (11 R337). -/
structure Filter where
  coefs : List Int := [131072]
  deriving DecidableEq, Repr

/-- The filter length L (R130, R337). -/
def Filter.length (f : Filter) : Nat := 2 * f.coefs.length - 1

/-- The key of a bank's filter: bank `b`, filter `f` of die `d`. -/
def filterKey (d b f : Nat) : Nat := (d * 8 + b) * 32 + f

/-- A configuration set (11 R320). Every table is keyed by global index, routes by ring, filters by `filterKey`. -/
structure ConfigSet where
  plan : Nat
  courses : Tbl CourseEntry
  routes : Tbl RouteEntry
  clusters : Tbl ClusterEntry
  watches : Tbl WatchEntry
  lanes : Tbl LaneEntry
  engines : Tbl EngineEntry
  slots : Tbl SlotEntry
  outPorts : Tbl PortEntry
  inPorts : Tbl PortEntry
  follows : Tbl FollowEntry
  filters : Tbl Filter
  deriving DecidableEq, Repr

/-- fs in kS/s of a plan code: 1.575, 1.600 or 1.625 GS/s (02 R43, 11 R330). -/
def planKsps : Nat → Nat
  | 0 => 1575000
  | 1 => 1600000
  | _ => 1625000

/-- S, the samples of a plan frame: 504, 512 or 520 (R43). -/
def planFrameSamples : Nat → Nat
  | 0 => 504
  | 1 => 512
  | _ => 520

end Sys2Proof.Machine
end

