-- ==== Sys2Proof/Machine/FrontState.lean ====
section
/-!
DEFINITION. The state of antenna inputs, courses and converters (03), of band taps, export taps, audit taps and lane chains (04).
-/
namespace Sys2Proof.Machine

/-- The causes of R473, numbered from 0 in this order. -/
inductive ConvCause where
  | sliceClock | refVoltage | supply | bufferBias | codeBits | shadowing | spareCount | simplexShadow | secondRetirement
  | dieFenced | incompleteHop | command
  deriving DecidableEq, Repr

/-- The number of a cause (R473). -/
def ConvCause.code : ConvCause → Nat
  | .sliceClock => 0 | .refVoltage => 1 | .supply => 2 | .bufferBias => 3 | .codeBits => 4 | .shadowing => 5 | .spareCount => 6
  | .simplexShadow => 7 | .secondRetirement => 8 | .dieFenced => 9 | .incompleteHop => 10 | .command => 11

/-- Why a planned splice moves leadership, numbered from 0 in this order (R81). -/
inductive PlannedReason where
  | commit | coasting | withoutSpare
  deriving DecidableEq, Repr

/-- The number of a reason (R81). -/
def PlannedReason.code : PlannedReason → Nat
  | .commit => 0 | .coasting => 1 | .withoutSpare => 2

/-- A splice that waits for its edge: to the converter, after a fault (with the cause and the first-mismatch SYSTIME) or as planned. -/
inductive Splice where
  | fault (conv : Nat) (cause : ConvCause) (firstMismatch : Nat)
  | planned (conv : Nat) (reason : PlannedReason)
  deriving DecidableEq, Repr

/-- One course with its front end (03 register table of ANTn). Converters are named 0 for A, 1 for B. -/
structure Course where
  mode : CourseMode := .off
  /-- g in force, dB -/
  gain : Int := 0
  /-- the step attenuator in dB, and the low-noise amplifier on or bypassed: as R71 realises g -/
  attenuator : Nat := 0
  lnaOn : Bool := false
  /-- 0 off, 1 coupled, 2 through (R72) -/
  inject : Nat := 0
  agcOn : Bool := false
  leader : Option Nat := none
  standbyReady : Bool := false
  contested : Bool := false
  lost : Bool := false
  feedOpen : Bool := false
  feedOver : Bool := false
  agcAtLimit : Bool := false
  /-- SYSTIME of the last AGC_LIMIT of this condition (R93) -/
  agcLimitAt : Nat := 0
  feedCurrent : Nat := 0xFFFF
  openLimit : Nat := 20
  overLimit : Nat := 3000
  gainStepTotal : W32 := 0
  spliceCount : W16 := 0
  /-- consecutive feed conversions below OPEN_LIMIT, above OVER_LIMIT, and with each condition absent (R73) -/
  openRun : Nat := 0
  overRun : Nat := 0
  openClear : Nat := 0
  overClear : Nat := 0
  /-- mismatching positions of the last check window, and its start (R78) -/
  lastMask : Nat := 0
  lastWindow : Nat := 0
  /-- powers of A and B over the check windows since D of the standby was last brought up to date, and when that was (12 R342) -/
  checkPower : Nat × Nat := (0, 0)
  driftedAt : Nat := 0
  /-- attribution by shadowing in progress: the mask of the two deciding windows and the start of the first (R79) -/
  attributing : Option (Nat × Nat) := none
  /-- consecutive clean windows of a contested course (R82) -/
  cleanRun : Nat := 0
  splice : Option Splice := none
  /-- SYSTIME from which the course's segment samples are zero-substituted (R84, R85, R62) -/
  zeroFrom : Option Nat := none
  /-- SYSTIME of the last gain rise, and of the last window at or above RELEASE_LEVEL (R93) -/
  riseAt : Nat := 0
  loudAt : Nat := 0
  deriving DecidableEq, Repr

/-- The signatures of a duplex course's two converters at one slice position over a check window: the sums of squared samples and the projections of A and of B (R78). -/
structure CheckSig where
  powA : Nat := 0
  powB : Nat := 0
  projA : Int := 0
  projB : Int := 0
  deriving DecidableEq, Repr

/-- A latched converter record (R99). -/
structure ConvRecord where
  pwrSum : W64 := 0
  pwrCount : W32 := 0
  tickNum : W32 := 0
  lo : W16 := 0
  hi : W16 := 0
  clipCount : W32 := 0
  gainEnd : Int := 0
  gainSteps : Nat := 0
  sliceLevels : List W16 := List.replicate 9 0x8000
  deriving DecidableEq, Repr

/-- One code of a converter: the physical slice that took it, its corrected and uncompensated 14-bit value, and whether it is in the converter's output; a shadowing spare's are not (R87, R99). -/
structure SliceCode where
  slice : Nat
  code : Int
  output : Bool
  deriving DecidableEq, Repr

/-- The four parameters of a slice's background correction (R88), in the units of CAL_QUERY (12 R354): gain in 0.001 dB, offset in 2^−16 of full scale, skew in 0.001 ps, three bandwidth taps in 2^−15. -/
structure SliceCoef where
  gain : Int := 0
  offset : Int := 0
  skew : Int := 0
  bw : List Int := [0, 0, 0]
  deriving DecidableEq, Repr

/-- One converter (03 converter record). -/
structure Converter where
  powered : Bool := false
  poweredAt : Nat := 0
  /-- samples since power-up (R84) -/
  sampling : Bool := false
  failed : Bool := false
  /-- physical index of the spare slice; none: used up or retired (R90) -/
  spareSlice : Option Nat := some 8
  /-- mask of retired physical slices -/
  retired : Nat := 0
  /-- the physical slice in each position 0 to 7 (R87, R90) -/
  slices : List Nat := [0, 1, 2, 3, 4, 5, 6, 7]
  rotPosition : Nat := 0
  rotStandin : Bool := false
  rotSuspended : Bool := false
  /-- steps of the rotation in which every slice was shadowed since power-up; 8 or more: a full rotation (R81, R84) -/
  rotSteps : Nat := 0
  /-- positions that mismatched in this rotation, and the SYSTIME at which it began (R89) -/
  rotMismatch : Nat := 0
  rotStart : Nat := 0
  /-- UNIT_RESTORE runs its checks (R474) -/
  restoring : Bool := false
  /-- slice on probation and shadow phases it still has to pass (R91) -/
  probation : Option (Nat × Nat) := none
  /-- a slice coefficient was updated in this rotation (12 R354) -/
  slicesUpdated : Bool := false
  latched : ConvRecord := {}
  snap : ConvRecord := {}
  stickyMin : W16 := 0x7FFF
  stickyMax : W16 := 0x8000
  stickyClip : W32 := 0
  /-- SYSTIME from which the sticky fields gather: power-up or CLEAR_STICKY (R100) -/
  stickyFrom : Nat := 0
  /-- end of the last tick whose record was latched -/
  latchedTo : Nat := 0
  deriving DecidableEq, Repr

/-- What suppresses samples of a chain (04 R120, R121). -/
inductive Disturb where
  /-- an event at an instant, of band-tap or lane level; `fresh`: a new stream begins with it (R125) -/
  | instant (e : Nat) (band fresh : Bool)
  /-- a disturbed span of band-tap level, which may still be open -/
  | span (e1 : Nat) (e2 : Option Nat)
  /-- represented time lost in the delay pool (14 R383) -/
  | hole (e1 e2 : Nat)
  /-- grid samples that a grown coarse delay leaves out (R128) -/
  | grid (n count : Nat)
  deriving DecidableEq, Repr

/-- A band tap (04 band tap record). -/
structure BandTap where
  assigned : Bool := false
  segCode : Nat := 0
  course : Nat := 0
  satSticky : Bool := false
  /-- W (R107) -/
  ncoWord : Nat := 0
  ncoHiSnap : W16 := 0
  mismatches : W16 := 0
  lastCleanTick : W32 := 0
  deriving DecidableEq, Repr

/-- Why the audit tap's sub-slot runs (R131). -/
inductive AuditTarget where
  | bandTap (c : Nat)
  | exportTap (i : Nat)
  /-- known-answer test of the band tap named (R131) -/
  | kat (c : Nat)
  /-- known-answer test of the audit tap itself (R131) -/
  | selfKat (i : Nat)
  deriving DecidableEq, Repr

/-- A die's audit band tap (04). -/
structure AuditTap where
  target : Option AuditTarget := none
  /-- the 2 ms verification runs: first mismatching SYSTIME and the target (R133) -/
  verifying : Option (Nat × AuditTarget) := none
  /-- the tap that the audit tap verifies itself against (R133) -/
  second : Option AuditTarget := none
  slot : Nat := 0
  subSlot : Nat := 0
  /-- a lasting fault of this unit waits for its replacement splice (R134) -/
  replace : Option UnitRef := none
  mismatches : W16 := 0
  deriving DecidableEq, Repr

/-- An export tap (04). -/
structure ExportTap where
  /-- the cluster (global) whose band tap it serves -/
  dest : Option Nat := none
  /-- 0 A, 1 B -/
  converter : Nat := 0
  segCode : Nat := 0
  mismatches : W16 := 0
  deriving DecidableEq, Repr

/-- What fixes the samples of a chain: plan, course, band tap, oscillator, rate, filter and delays (04 R107 to R114, R127, R128). -/
structure Tune where
  plan : Nat := 1
  course : Nat := 0
  segCode : Nat := 0
  ncoWord : Nat := 0
  freq : Nat := 0
  rateClass : Nat := 0
  filter : Filter := {}
  phaseDelay : Nat := 0
  coarseDelay : Nat := 0
  deriving DecidableEq, Repr

/-- The chain of a lane, a spare lane or a watch tap (04 lane chain record). -/
structure Chain where
  active : Bool := false
  rateClass : Nat := 0
  halvings : Nat := 0
  satHalving : Bool := false
  satResampler : Bool := false
  satFilter : Bool := false
  bank : Nat := 0
  filter : Nat := 0
  filterLen : Nat := 1
  phaseDelay : Nat := 0
  coarseDelay : Nat := 0
  lastEventTick : W32 := 0
  disturbs : List Disturb := []
  /-- what the chain ran and from which SYSTIME, newest first (R121: a sample before an event belongs to the configuration before it) -/
  tunes : List (Nat × Tune) := []
  /-- `disturbs` and `tunes` for the blocks that the last armed edge or reload ended (02 R42, R67) -/
  pastDisturbs : List Disturb := []
  pastTunes : List (Nat × Tune) := []
  deriving DecidableEq, Repr

end Sys2Proof.Machine
end

