-- ==== Sys2Proof/Machine/CalState.lean ====
section
/-!
DEFINITION. The state of calibration and traceability (12): coefficients, items, the CALIN tone table, steps in progress, stores.
-/
namespace Sys2Proof.Machine

/-- LEVEL of an input: the shape table Cs at the 49 table points and the drift terms, 0.01 dB (12 R341). -/
structure LevelCoef where
  cs : List Int := List.replicate 49 0
  dA : Int := 0
  dB : Int := 0
  deriving DecidableEq, Repr

/-- TRANSFER of an input: Through and Coupled transfer, 0.01 dB (R341). -/
structure TransferCoef where
  i : List Int := List.replicate 49 (-1000)
  q : List Int := List.replicate 49 (-3600)
  deriving DecidableEq, Repr

/-- GAIN_STEPS of an input: S(g) for g = −31 to +14 in 0.01 dB, the delay in 1/1,024 converter sample (R341, R354). -/
structure GainStepCoef where
  steps : List Int := (List.range 46).map fun (k : Nat) => ((k : Int) - 45) * 100
  delay : Int := 0
  deriving DecidableEq, Repr

/-- MONITOR of a die: offset in 1/256 LSB, gain in 0.001 %, the two reference values as 16-bit codes, at the factory those of the nominal 1.000 V (R341, R354, 13 R361; notes/assumptions/34.md). -/
structure MonCoef where
  offset : Int := 0
  gain : Int := 0
  ref0 : Int := 26214
  ref1 : Int := 26214
  deriving DecidableEq, Repr

/-- Every coefficient: LEVEL, TRANSFER and GAIN_STEPS by input, PATH_TRIM by converter in 1/1,024 sample, MONITOR by die, SLICES by converter × 27 + plan × 9 + physical slice. -/
structure CalCoefs where
  level : Tbl LevelCoef := Tbl.empty {}
  transfer : Tbl TransferCoef := Tbl.empty {}
  gainSteps : Tbl GainStepCoef := Tbl.empty {}
  trim : Tbl Int := Tbl.empty 0
  monitor : Tbl MonCoef := Tbl.empty {}
  slices : Tbl SliceCoef := Tbl.empty {}
  deriving DecidableEq, Repr

/-- What is kept of a calibrated item, by item × 16 + index (R354). ORIGIN: 0 factory, 1 system calibration, 2 background, 3 loaded. -/
structure CalItem where
  count : W32 := 0
  lastSystime : Nat := 0
  lastTai : Nat := 0
  lastFail : Nat := 0
  failCount : W16 := 0
  origin : Nat := 0
  /-- succeeded since load -/
  fresh : Bool := false
  deriving DecidableEq, Repr

/-- A stored snapshot: the coefficients and every item (R355). -/
structure CalSnap where
  coefs : CalCoefs := {}
  items : Tbl CalItem := Tbl.empty {}
  deriving DecidableEq, Repr

/-- A calibration slot of package flash (R355). -/
structure CalSlot where
  seq : W32 := 0
  valid : Bool := false
  snap : CalSnap := {}
  deriving DecidableEq, Repr

/-- A CALIN tone (R343): frequency, level in 0.01 dBm if declared, applied. -/
structure Tone where
  freq : Nat := 0
  level : Option Int := none
  en : Bool := false
  deriving DecidableEq, Repr

/-- How the measuring lane of a step was had (R344). -/
inductive CoverKind where
  | offLane | native | hold
  deriving DecidableEq, Repr

/-- Phases of a background step (R345). -/
inductive LevelPhase where
  | retune | offWindow | switch | on1 | on2 | evaluate | return_
  deriving DecidableEq, Repr

/-- A background level step in progress on an input (R345 to R347). Levels in 0.01 dBµV. -/
structure LevelStep where
  lane : Nat
  kind : CoverKind
  tone : Nat
  toneFreq : Nat
  toneLevel : Int
  /-- the Coupled transfer at the tone as the step began, 0.01 dB (R348) -/
  coupled : Int := 0
  start : Nat
  /-- start of the present pass of windows -/
  passStart : Nat
  phase : LevelPhase := .retune
  pOff : Int := 0
  pOn1 : Int := 0
  pOn2 : Int := 0
  /-- sum and number of |x|² over each window (R345, R346) -/
  offPower : Nat × Nat := (0, 0)
  on1Power : Nat × Nat := (0, 0)
  on2Power : Nat × Nat := (0, 0)
  /-- a window of this pass held a gain step or a splice (R347) -/
  spoiled : Bool := false
  repeated : Bool := false
  deriving DecidableEq, Repr

/-- A store in progress (R355). -/
structure StoreSt where
  slot : Nat
  seq : W32
  /-- the block boundary at which the store begins: what is in force there is stored -/
  begin_ : Nat
  snap : CalSnap
  automatic : Bool
  rewritten : Bool := false
  /-- SYSTIME of the first change since the store began -/
  changed : Option Nat := none
  /-- a CAL_STORE waits for this automatic store and then makes its own -/
  again : Bool := false
  deriving DecidableEq, Repr

/-- Calibration (12). -/
structure CalSt where
  coefs : CalCoefs := {}
  /-- LEVEL and GAIN_STEPS of an input as changes have replaced them: the SYSTIME until which they were in force, and what they were; newest first (R348) -/
  levelPast : Tbl (List (Nat × LevelCoef)) := Tbl.empty []
  stepsPast : Tbl (List (Nat × GainStepCoef)) := Tbl.empty []
  items : Tbl CalItem := Tbl.empty {}
  tones : List Tone := List.replicate 8 {}
  levelInterval : Nat := 10
  autoStore : Bool := true
  suspect : Bool := false
  suspectUntil : Nat := 0
  /-- TONE_ABSENT occurrences: input and SYSTIME (R352) -/
  toneAbsent : List (Nat × Nat) := []
  steps : Tbl (Option LevelStep) := Tbl.empty none
  /-- cover windows a step has used without completing (R347) -/
  windowsUsed : Tbl Nat := Tbl.empty 0
  /-- last use of a tone on an input, key input × 8 + tone, as a running number (R343) -/
  toneUse : Tbl Nat := Tbl.empty 0
  toneClock : Nat := 0
  /-- position last used in a cluster (R344) -/
  lastPos : Tbl Nat := Tbl.empty 7
  unreachable : List Nat := []
  store : Option StoreSt := none
  storeSlot : Nat := 0
  storeValid : Bool := false
  storeSeq : W32 := 0
  /-- SYSTIME of the first change since the last store (R357); UNSAVED -/
  unsavedSince : Option Nat := none
  /-- ANT_DIRECT done in this SYSTEM_CAL session: input and table point (R349) -/
  antDirect : List (Nat × Nat) := []
  deriving DecidableEq, Repr

/-- What a system calibration step takes in (R349): the codes of the converters, by converter index in place of a course; for AUX_ZERO and AUX_FULL the conversions of the AUXIN channel and of channels 18 and 19 before correction, in 1/256 LSB. -/
structure SyscalMeas where
  air : Air := {}
  aux : Int := 0
  ref0 : Int := 0
  ref1 : Int := 0
  deriving DecidableEq, Repr

end Sys2Proof.Machine
end

