-- ==== Sys2Proof/Machine/FollowState.lean ====
section
/-!
DEFINITION. The state of follow sets (07), and what the DSP measured of their members.
-/
namespace Sys2Proof.Machine

/-- A member of a follow set as it is tuned, and its condition (07 R213): 0 GOOD, 1 MARGINAL, 2 BAD, 3 LOST. -/
structure MemberSt where
  /-- frequency in Hz, 0 when the member is not tuned, and signal type (R223) -/
  freq : Nat := 0
  typ : Nat := 0
  trusted : Bool := false
  /-- the ensemble and the identifier that its candidate names, if it names them (R202, R203) -/
  eid : Option Nat := none
  named : Option Ident := none
  /-- the identifier accepted on its own lane, and when last (R202) -/
  ident : Nat := 0
  verifiedAt : Option Nat := none
  cond : Nat := 0
  fom : Option Int := none
  /-- consecutive periods in the present condition, and in BAD or LOST -/
  condRun : Nat := 0
  badRun : Nat := 0
  /-- a STALE sample lay in the last period (R212, R220) -/
  stale : Bool := false
  /-- SYSTIME since which it has delivered valid audio (R210) -/
  validSince : Option Nat := none
  /-- tick, as SYSTIME, of the last COMMIT that changed its lane (R219) -/
  changedAt : Option Nat := none
  deriving DecidableEq, Repr

/-- A candidate (07 R205 to R208). Sources: 0 static, 1 AF method A, 2 method B, 3 FIG 0/21, 4 FIG 0/24, 5 DRM SDC. -/
structure Cand where
  freq : Nat
  typ : Nat
  source : Nat
  regional : Bool := false
  trusted : Bool := false
  /-- the identifier that a STATIC entry names -/
  named : Option Ident := none
  /-- the ensemble it names, if it names one -/
  eid : Option Nat := none
  ident : Nat := 0
  verifiedAt : Option Nat := none
  fom : Option Int := none
  unreachable : Bool := false
  /-- SYSTIME at which its source last gave it (R207) -/
  seenAt : Nat := 0
  deriving DecidableEq, Repr

/-- Switching reasons, in the order of the rules (R214). -/
inductive FadeReason where
  | emergency | quality | preference | better
  deriving DecidableEq, Repr

/-- The number of a reason, counted from 0 in the order of the table. -/
def FadeReason.code : FadeReason → Nat
  | .emergency => 0 | .quality => 1 | .preference => 2 | .better => 3

/-- A fade decided: from and to members with their delays in 1/16 sample (R214 to R216). -/
structure Fade where
  reason : FadeReason
  f0 : Nat
  f1 : Nat
  aligned : Bool
  started : Bool := false
  from_ : Nat := 0
  to_ : Nat := 0
  dFrom : Nat := 0
  dTo : Nat := 0
  deriving DecidableEq, Repr

/-- One follow set (07). Delays and Δ in 1/16 sample at 48 kHz, ρ in 0.0001. -/
structure FollowSt where
  /-- 0 off, 1 starting, 2 following -/
  stage : Nat := 0
  playing : Nat := 0
  standby : Option Nat := none
  trial : Bool := false
  members : List MemberSt := List.replicate 4 {}
  cands : List Cand := []
  locked : Bool := false
  delta : Int := 0
  rho : Option Nat := none
  /-- the last non-void estimates, newest first: lag and ρ (R211) -/
  ests : List (Int × Nat) := []
  dPlaying : Nat := 0
  dStandby : Nat := 0
  aligned : Bool := false
  /-- FOLLOW_OUT_OF_RANGE has been raised for the present Δ -/
  outRaised : Bool := false
  fade : Option Fade := none
  /-- the last fade, whose samples lie before its F1 -/
  faded : Option Fade := none
  /-- a fade is held: the COMMIT's tick number (R219) -/
  held : Option Nat := none
  noStandby : Bool := false
  /-- SYSTIME since which the standby is ready (R212) -/
  readySince : Option Nat := none
  /-- periods for which the standby's figure stayed HYSTERESIS above the playing's, and the first-ranked candidate stayed above the standby -/
  betterRun : Nat := 0
  rankRun : Nat := 0
  standbyAt : Nat := 0
  lastF0 : Nat := 0
  switches : W32 := 0
  lastSwitchTick : W32 := 0
  /-- what each watch tap of the set measures: tap, frequency, type -/
  measuring : List (Nat × Nat × Nat) := []
  /-- end of the last 100 ms period, of the last estimate's second, of the last record's second -/
  periodTo : Nat := 0
  estimatedTo : Nat := 0
  recordedTo : Nat := 0
  deriving DecidableEq, Repr

/-- What the DSP measured of a member over a 100 ms period of air time (R213): levels in 0.01 dBµV, MP_INDEX and MER in 0.01 dB. -/
structure MemberMeas where
  anyValid : Bool
  level : Int
  mp : Int
  mer : Int
  /-- an access unit without CRC_OK or with ERASED_INPUT -/
  badUnit : Bool
  stale : Bool
  deriving DecidableEq, Repr

end Sys2Proof.Machine
end

