-- ==== Sys2Proof/Machine/LaneState.lean ====
section
/-!
DEFINITION. The state of demodulators, RDS, AMSS, spares and watch taps (05), and what the DSP measures of them.
-/
namespace Sys2Proof.Machine

/-- A field accepted from RDS: the accepted value and the last reception (R156). -/
structure Fld where
  acc : Option Nat := none
  cand : Option Nat := none
  deriving DecidableEq, Repr

/-- A method-B list as it is assembled (07 R206): the code count, the tuned frequency's code, the pairs with how often each was received, AM codes after the filler. -/
structure AfB where
  count : Nat := 0
  tuned : Nat := 0
  pairs : List (Nat × Nat × Nat) := []
  am : List Nat := []
  deriving DecidableEq, Repr

/-- The fields decoded from stream 0 (05 decoded state record). Segments hold their characters as one number, first character lowest. -/
structure RdsFields where
  pi : Fld := {}
  pty : Fld := {}
  tp : Fld := {}
  ta : Fld := {}
  ms : Fld := {}
  ecc : Fld := {}
  lic : Fld := {}
  pin : Fld := {}
  ps : List Fld := List.replicate 4 {}
  rt : List Fld := List.replicate 16 {}
  /-- the text in progress comes in groups 2B: two characters a segment -/
  rtShort : Bool := false
  rtAb : Nat := 0
  ptyn : List Fld := List.replicate 2 {}
  ptynAb : Nat := 0
  /-- clock time: MJD, hour, minute, local offset -/
  ct : Option (Nat × Nat × Nat × Nat) := none
  afCount : Nat := 0
  afList : List Nat := []
  /-- the method-A list in progress -/
  afNext : List Nat := []
  afB : AfB := {}
  /-- SYSTIME of the latest acceptance of a PI (07 R202) -/
  piAt : Nat := 0
  /-- CHANGED of the next decoded state record -/
  changed : Nat := 0
  acceptedAt : Nat := 0
  deriving DecidableEq, Repr

/-- One block position as received: information word, flag, offset code (R153, R154). -/
structure RdsPos where
  info : Nat
  flag : Nat
  offset : Nat
  deriving DecidableEq, Repr

/-- One RDS stream (R153, R154). -/
structure RdsStream where
  synced : Bool := false
  /-- the preceding block while unsynchronised, if it held a valid offset word -/
  prev : Option RdsPos := none
  /-- of the last 50 positions, newest first, whether each was uncorrectable -/
  last50 : List Bool := []
  /-- the positions of the group in progress -/
  group : List RdsPos := []
  firstBit : Nat := 0
  seq : W16 := 0
  slips : Nat := 0
  /-- number of the bit, since the restart, with which the next block position begins (R153) -/
  bit : Nat := 0
  /-- SYSTIME of the first block synchronisation since the restart (R138) -/
  validAt : Option Nat := none
  /-- RDS_GOOD and RDS_TOTAL of the period in progress (R151) -/
  good : Nat := 0
  total : Nat := 0
  deriving DecidableEq, Repr

/-- The RDS state of a chain: four streams, the fields of stream 0, the records waiting for the span (R157). -/
structure RdsSt where
  streams : List RdsStream := List.replicate 4 {}
  fields : RdsFields := {}
  /-- the records that wait for the end of the span in which their last bit fell (R157) -/
  records : List (Nat × List Byte) := []
  /-- end of the last span whose block was formed, and of the last with a decoded state record -/
  spanTo : Nat := 0
  deriving DecidableEq, Repr

/-- A lane's demodulator (05 demodulator status; R137). Weights are pairs of the real and imaginary part in units of 2^−20. -/
structure Demod where
  pilot : Bool := false
  stereo : Bool := false
  /-- stereo throughout the period so far -/
  stereoAll : Bool := true
  carrierLock : Bool := false
  amssSync : Bool := false
  rds : RdsSt := {}
  rdsBlocks : W32 := 0
  rdsUncorr : W32 := 0
  amssSid : Nat := 0
  amssSidValid : Bool := false
  /-- SYSTIME of the latest block that carried the identifier (07 R202) -/
  amssAt : Nat := 0
  amssGood : Nat := 0
  amssTotal : Nat := 0
  weights : List (Int × Int) := [(1048576, 0), (0, 0), (0, 0), (0, 0)]
  /-- the weights by run of 64 samples, newest first, from the run that each entry names (R147) -/
  runs : List (Int × List (Int × Int)) := []
  /-- the carrier offset carried forward, in 1/256 Hz, newest first, from the SYSTIME that each entry names (R142) -/
  offsets : List (Nat × Int) := []
  /-- stereo in force, newest first, from the SYSTIME that each entry names (R143) -/
  stereoLog : List (Nat × Bool) := []
  /-- end of the last measurement period whose record was formed (R150) -/
  measuredTo : Nat := 0
  /-- check results of the AMSS blocks received since the restart, newest first (R141) -/
  amssChecks : List Nat := []
  /-- MPX_POWER_OVER may be raised again (R150) -/
  powerArmed : Bool := true
  /-- SYSTIME of the restart, none while the chain has no valid sample yet (R137) -/
  restartAt : Option Nat := none
  charges : W16 := 0
  lastAssayTick : W32 := 0
  lastCoverTick : W32 := 0
  /-- the last measurement record, which HOLD cover repeats (00 R9) -/
  lastRecord : List Byte := []
  deriving DecidableEq, Repr

/-- A step of assay in progress (R161, R162). -/
structure AssaySt where
  start : Nat
  /-- the demodulator state copied from the lane, from which the spare runs on (R161) -/
  copied : Bool := false
  /-- the state was copied and the comparison runs -/
  comparing : Bool := false
  /-- known-answer test in progress: the SYSTIME of the first differing sample and the output that differed; none: the step itself is a test (R161) -/
  testing : Bool := false
  firstDiff : Option (Nat × Nat) := none
  /-- the step of UNIT_RESTORE on a retired lane (R165) -/
  restore : Bool := false
  deriving DecidableEq, Repr

/-- A cover window of a cluster (R164, R29): the position, HOLD or native, its start B. -/
structure CoverSt where
  pos : Nat
  hold : Bool
  start : Nat
  deriving DecidableEq, Repr

/-- A span in which the index of a position is under cover: the spare delivers (native, replacement), or the last values are held (R163, R164, 00 R9). -/
structure CoverSpan where
  pos : Nat
  hold : Bool
  start : Nat
  stop : Option Nat := none
  deriving DecidableEq, Repr

/-- A cluster's spare lane (05 spare register; R161 to R165). -/
structure SpareSt where
  position : Nat := 0
  /-- position of the next step (R161) -/
  nextAssay : Nat := 0
  /-- SYSTIME at which the rotation in progress began (R162) -/
  rotStart : Nat := 0
  /-- SYSTIME from which the spare has run what it runs now (R126, R161) -/
  loadedAt : Nat := 0
  /-- UNIT_RESTORE asks for a step on the replaced position (R165) -/
  restoreAsked : Bool := false
  assay : Option AssaySt := none
  cover : Option CoverSt := none
  /-- a cover window was taken since the last complete rotation (R29) -/
  coverTaken : Bool := false
  lastCoverStart : Option Nat := none
  /-- cover of the last seconds, newest first, for the flags of blocks and records -/
  log : List CoverSpan := []
  /-- positions charged in this rotation, oldest first (R162) -/
  rotCharged : List Nat := []
  /-- position the spare carries permanently (R163) -/
  spareCharges : W16 := 0
  rotations : W32 := 0
  lastRotationTick : W32 := 0
  deriving DecidableEq, Repr

/-- A watch tap (05 watch-tap register; R158 to R160). -/
structure WatchSt where
  rds : RdsSt := {}
  /-- SYSTIME of the restart, none while the chain has no valid sample yet (R137) -/
  restartAt : Option Nat := none
  preempted : Bool := false
  listIndex : Nat := 0
  freq : Nat := 0
  /-- start of the dwell in progress (R160), and end of the last period whose record was formed (R159) -/
  dwellStart : Nat := 0
  measuredTo : Nat := 0
  deriving DecidableEq, Repr

/-- What the DSP measured of an FM lane over a period; levels in 0.01 dBFS (R150, R151). -/
structure FmMeas where
  validCount : Nat
  partSuppressed : Bool
  /-- the sum of |x|² over the valid samples -/
  power : Nat
  rfMean : Int
  rfMin : Int
  rfMax : Int
  mpIndex : Int
  mpxSumsq : Nat
  devPos : Int
  devNeg : Int
  devOver : Nat
  carrierOffset : Int
  mpxPower60s : Option Int
  pilotDev : Nat
  pilotFreqErr : Int
  rdsDev : List Nat
  divWeight : List (Int × Nat)
  deriving DecidableEq, Repr

/-- What the DSP measured of an AM lane over a period (R150, R151). -/
structure AmMeas where
  validCount : Nat
  partSuppressed : Bool
  carrierLock : Bool
  /-- the sum of the carrier's power over the valid samples -/
  power : Nat
  carrierMean : Int
  carrierMin : Int
  carrierMax : Int
  quadResidual : Int
  modSumsq : Nat
  modPos : Nat
  modNeg : Nat
  overmod : Nat
  carrierOffset : Int
  amssPhaseDev : Nat
  divWeight : List (Int × Nat)
  deriving DecidableEq, Repr

/-- The measurement of a lane's period. -/
inductive LaneMeas where
  | fm (m : FmMeas)
  | am (m : AmMeas)
  deriving DecidableEq, Repr

/-- What the DSP measured of a watch tap over a period or dwell (R159). -/
structure WatchMeas where
  validCount : Nat
  partSuppressed : Bool
  rfMean : Int
  rfMin : Int
  rfMax : Int
  mpIndex : Int
  devPeak : Nat
  carrierOffset : Int
  rdsDev : Nat
  deriving DecidableEq, Repr

/-- One branch's sums over the last 64 samples: Σ x·conj(y) (real, imaginary), Σ |y|², Σ |x − h·y|² (R147). -/
structure BranchSums where
  xyRe : Int
  xyIm : Int
  yy : Int
  err : Int
  deriving DecidableEq, Repr

end Sys2Proof.Machine
end

