-- ==== Sys2Proof/Machine/LinkState.lean ====
section
/-!
DEFINITION. The state of the host link, rings and events (10), of commands in execution (11), and what the block sends to the host.
-/
namespace Sys2Proof.Machine

/-- ERR_CODE of a ring (10 R283). -/
inductive RingErr where
  | none | doorbell | owner | bufSize | dma | size | cqInUse
  deriving DecidableEq, Repr

/-- The code of a ring error (R283). -/
def RingErr.code : RingErr → Nat
  | .none => 0 | .doorbell => 1 | .owner => 2 | .bufSize => 3 | .dma => 4 | .size => 5 | .cqInUse => 6

/-- A completion entry without its PHASE, which it takes when it is written (10 R290). -/
structure Cpl where
  tag : Nat
  ring : Nat
  opcode : Nat
  status : Status
  descIndex : Nat
  result : Nat
  deriving DecidableEq, Repr

/-- Gain and splice marks of a block (10 R298 bytes 36 to 39). -/
structure GainMark where
  gainStep : Bool := false
  multi : Bool := false
  splice : Bool := false
  gainDb : Int := 0
  stepOffset : Nat := 0xFFFF
  deriving DecidableEq, Repr

/-- A formed block: the header's fields that are fixed when it is formed, and the payload (10 R298). DROPPED and GAP are set when it is written. -/
structure Block where
  format : Nat
  srcType : Nat
  srcIndex : Nat
  ring : Nat
  die : Nat
  timestamp : Nat
  sequence : Nat
  sampleCount : Nat
  flags : Nat
  sigma : Nat := 0
  gain : GainMark := {}
  configGen : Nat
  payload : List Byte
  /-- SYSTIME at which the block was ready in delivery staging (R295) -/
  readyAt : Nat := 0
  /-- the block is band IQ capture (R311) -/
  capture : Bool := false
  deriving DecidableEq, Repr

/-- What a waiting command waits for (11 R329 "Completion written"). -/
inductive Wait where
  | commit
  | portStart (p : PortId) (tick : Nat)
  | portStop (p : PortId) (tick : Nat)
  | capture (ring tick : Nat)
  | level (input : Nat)
  /-- CAL_START on MONITOR (12 R357) -/
  | monitor (die : Nat)
  | calStore
  | injection (die : Nat)
  | mode
  | retire (u : UnitRef)
  | restore (u : UnitRef)
  deriving DecidableEq, Repr

/-- A command in execution or fetched: its descriptor and its index in the ring. -/
structure Fetched where
  desc : List Byte
  index : Nat
  /-- the descriptor's CRC-32C held at fetch (R287) -/
  good : Bool
  deriving DecidableEq, Repr

/-- A command that has begun and waits (R287). -/
structure Exec where
  desc : List Byte
  index : Nat
  wait : Wait
  deriving DecidableEq, Repr

/-- One ring (10 R283 and what it implies). -/
structure Ring where
  baseLo : W32 := 0
  baseHi : W32 := 0
  sizeLog2 : Nat := 6
  enable : Bool := false
  vector : Nat := 0
  cq : Nat := 0
  bufLog2 : Nat := 14
  holdLimit : Nat := 10
  modCount : Nat := 1
  modTime : Nat := 0
  devIndex : Nat := 0
  /-- a write to the ring or its buffers is still in flight: RUNNING stays 1 (R284) -/
  inFlight : Bool := false
  fenced : Bool := false
  err : Bool := false
  errCode : RingErr := .none
  discards : W32 := 0
  written : W32 := 0
  /-- host's doorbell index (R285) -/
  doorbell : Nat := 0
  /-- PHASE of the current pass of a completion ring (R290) -/
  phase : Bool := true
  /-- SEQUENCE of the next block (R294) -/
  sequence : W64 := 0
  /-- blocks waiting in delivery staging, oldest first, at most two (R295) -/
  waiting : List Block := []
  /-- blocks discarded since the last one written (R296) -/
  dropped : Nat := 0
  /-- PCM: mask and die in force, and a committed change with the SYSTIME from which blocks take it (08 R246) -/
  pcmMask : Nat := 0
  pcmDie : Nat := 0
  pcmNext : Option (Nat × Nat × Nat) := none
  /-- start of the next PCM block to be formed, and the armed edges and reloads of the die that the stream has passed (02 R42, R67) -/
  pcmFrom : Nat := 0
  pcmEdges : Nat := 0
  /-- discards in the second in progress (R296) -/
  discardsSec : Nat := 0
  /-- entries written since the vector was last signalled, and the SYSTIME of the first (R297) -/
  unsignalled : Nat := 0
  firstUnsignalled : Nat := 0
  /-- the descriptor read in progress was re-requested once (R279) -/
  retried : Bool := false
  /-- completions due to this completion ring and held while it is full (R288) -/
  held : List Cpl := []
  /-- descriptors fetched and not yet begun (R287) -/
  fetched : List Fetched := []
  /-- the command that has begun and waits -/
  executing : Option Exec := none
  /-- the completion of this command ring's last command is held, so the next may not begin (R287) -/
  cplDue : Bool := false
  deriving DecidableEq, Repr

/-- The kind of a capture's source (11 R338 CAPTURE_START). -/
inductive CapKind where
  | bandTap | lane | mpx
  deriving DecidableEq, Repr

/-- A capture stream on a ring (10 R308). -/
structure Capture where
  kind : CapKind
  source : Nat
  tick : Nat
  started : Bool := false
  /-- start of the next block to be formed: a stream forms each of its blocks once -/
  nextBlock : Nat := 0
  /-- armed edges and reloads of the source's die that the stream has passed (02 R42, R67) -/
  edges : Nat := 0
  deriving DecidableEq, Repr

/-- An event record (10 R305). -/
structure Ev where
  name : EvName
  origin : Nat
  seq : W32
  raised : Nat
  args : List EvArg
  deriving DecidableEq, Repr

/-- What the block sends to the host and to the bus: the model's log of its outputs. -/
inductive Sent where
  | completion (ring index : Nat) (phase : Bool) (c : Cpl)
  | block (ring index : Nat) (gap : Bool) (dropped : Nat) (b : Block)
  | buffer (addr : Nat) (bytes : List Byte)
  | msix (vector : Nat)
  | aer (bar offset : Nat)
  | aerFault
  | mbRead (bytes : List Byte) (pec : Option Byte)
  | mbWrite (addr : Nat) (bytes : List Byte)
  | regRead (value : Nat)
  | debugOut (bytes : List Byte)
  | syncOut (systime : Nat)
  | frame (die grid : Nat) (channels : List (List Bool))
  deriving DecidableEq, Repr

/-- What a register write without a row of its own goes to: a word of BAR0 by its offset, or the function's enables in configuration space (10 R276 to R280). -/
inductive RegTarget where
  | bar0 (offset : Nat)
  | msixEnable
  | relaxedOrdering
  | ecrcGeneration
  | ecrcCheck
  deriving DecidableEq, Repr

/-- An entry of the MSI-X table but for its mask bit (R276, R277). -/
structure MsixEntry where
  addrLo : W32 := 0
  addrHi : W32 := 0
  data : W32 := 0
  deriving DecidableEq, Repr

/-- MSI-X and link state of the function (10 R276, R278, R279, R297). -/
structure PcieSt where
  relaxed : Bool := true
  ecrcGen : Bool := false
  ecrcCheck : Bool := false
  msixTable : Tbl MsixEntry := Tbl.empty {}
  msixEnabled : Bool := false
  masked : Nat := 0xFFFFFFFFFFFFFFFF
  pbaPending : Nat := 0
  linkUp : Bool := false
  linkWidth : Nat := 0
  linkRate : Nat := 0
  deriving DecidableEq, Repr

/-- The host link: rings, captures, MSI-X, events in progress, outputs (10). -/
structure LinkSt where
  rings : Tbl Ring := Tbl.empty {}
  captures : Tbl (Option Capture) := Tbl.empty none
  pcie : PcieSt := {}
  eventSeq : W32 := 0
  /-- events of the span in progress, oldest first -/
  events : List Ev := []
  /-- SYSTIME of the start of the last event block formed per die (R306) -/
  lastEventBlock : Tbl Nat := Tbl.empty 0
  configGen : W32 := 0
  /-- tick numbers of the swaps, newest first (11 R340, R298) -/
  swaps : List Nat := []
  /-- input instants of gain steps and splices per course, newest first: (course, SYSTIME, dB change, splice) -/
  marks : List (Nat × Nat × Int × Bool) := []
  sent : List Sent := []
  deriving DecidableEq, Repr

/-- A COMMIT that is pending (11 R322 to R326). -/
structure PendingCommit where
  set : ConfigSet
  /-- T by its tick number -/
  tick : Nat
  /-- effective tick, once confirmed (R324) -/
  effective : Nat
  confirmed : Bool := false
  /-- dies that have acknowledged, mask -/
  acks : Nat := 0
  /-- dies that asked for the set once more after a CRC mismatch, and dies that found a second one, masks (14 R392) -/
  retried : Nat := 0
  withheld : Nat := 0
  /-- latest F1 of fades that hold the COMMIT, as a tick number (R326) -/
  holdTick : Nat := 0
  /-- after the swap: the dies whose hops it waits for, mask (R326) -/
  hopsLeft : Nat := 0
  /-- latest tick of a re-phase on a coasting die (R62) -/
  lateTick : Nat := 0
  hopFailed : Bool := false
  /-- the commit changes the plan: latest re-phase and the dies that used a fresh search, mask (PLAN_HOP_DONE) -/
  planHop : Bool := false
  latestRephase : Nat := 0
  freshMask : Nat := 0
  /-- where its completion goes; none after a reset of the function (10 R280) -/
  src : Option CmdSrc
  deriving DecidableEq, Repr

end Sys2Proof.Machine
end

