-- ==== Sys2Proof/Machine/MbState.lean ====
section
/-!
DEFINITION. The state of the management bus: target, controller, mailbox (16).
-/
namespace Sys2Proof.Machine

/-- STATE of the mailbox but for UNAVAILABLE, which the mode gives (16 R422). -/
inductive MboxPhase where
  | idle | busy | done
  deriving DecidableEq, Repr

/-- How the bytes of a controller transfer were acknowledged. -/
inductive BusAck where
  | all | addressNack | dataNack
  deriving DecidableEq, Repr

/-- The four counts at pointers 0x0028 and 0x002C (16). -/
structure MbCounts where
  pecErrors : W16 := 0
  timeouts : W16 := 0
  arbLost : W16 := 0
  stuck : W16 := 0
  deriving DecidableEq, Repr

/-- A target transaction in progress: the pointer and the bytes received so far (16 R417, R429). -/
structure MbTarget where
  pointer : Nat
  received : Nat
  deriving DecidableEq, Repr

/-- The management bus (16 "Registers"). -/
structure MbSt where
  pecReq : Bool := false
  timeoutEn : Bool := true
  ctrlEnable : Bool := false
  arbRetries : Nat := 3
  target : Option MbTarget := none
  ctrlBusy : Bool := false
  sdaLow : Bool := false
  sclLow : Bool := false
  sclLowT : Nat := 500
  sclHighT : Nat := 425
  sdaHold : Nat := 30
  glitch : Nat := 10
  counts : MbCounts := {}
  /-- rises of the counts in the second in progress (MB_ERRORS) -/
  rises : MbCounts := {}
  targetAddr : Nat := 0
  usePec : Bool := false
  wlen : Nat := 0
  rlen : Nat := 0
  go : Bool := false
  result : Nat := 0
  done : Bool := false
  ctrlData : List Byte := List.replicate 32 0
  /-- the bus was recovered before the first transfer since reset (R430) -/
  recovered : Bool := false
  retriesLeft : Nat := 0
  /-- a transfer, or its repetition, has yet to start: the part is addressed as target (R426), or the bus is not yet free (R424, R425) -/
  goWaiting : Bool := false
  mboxDesc : List Byte := List.replicate 64 0
  mboxPhase : MboxPhase := .idle
  mboxOverrun : Bool := false
  mboxSeq : BitVec 8 := 0
  /-- the descriptor as it stood at GO, before its command begins (R421, R423) -/
  mboxCmd : Option Fetched := none
  mboxCpl : List Byte := List.replicate 16 0
  mboxOut : List Byte := List.replicate 512 0
  /-- the completion entry of a command that has ended, before it is written (R422) -/
  mboxDue : Option (List Byte) := none
  /-- the mailbox command in execution waits -/
  executing : Option Exec := none
  /-- in SLEEP: the management logic was woken (R428) -/
  awake : Bool := false
  lastTransaction : Nat := 0
  deriving DecidableEq, Repr

end Sys2Proof.Machine
end

