-- ==== Sys2Proof/Machine/OfdmState.lean ====
section
/-!
DEFINITION. The state of OFDM engines (06), and what the demodulators and decoders hand over: frames, entries of the MCI and of SDC, access units, data groups, TII combinations.
-/
namespace Sys2Proof.Machine

/-- Whose frequencies a FIG 0/21 entry gives. -/
inductive FreqOwner where
  | ensemble (eid : Nat)
  | service (id : Ident)
  deriving DecidableEq, Repr

/-- An entry that an engine interprets or keeps (06 R172): the FIGs of a DAB ensemble, the SDC entities of a DRM signal. -/
inductive Fig where
  /-- FIG 0/1: a sub-channel's start address, size and protection -/
  | subch (id start size protection : Nat)
  /-- FIG 0/2: a component of a service in a sub-channel -/
  | component (sid comp subch : Nat) (audio dabPlus scrambled : Bool)
  /-- FIG 0/2: a packet-mode component of a service, by its SCId -/
  | servicePacket (sid comp scid : Nat) (scrambled : Bool)
  /-- FIG 0/3: a packet-mode component -/
  | packet (scid subch address : Nat)
  /-- FIG 0/8: a component's number within its service -/
  | componentId (sid scids subch : Nat)
  /-- FIG 0/19: an announcement in a cluster -/
  | announcement (cluster subch : Nat) (flags : Nat) (alarm : Bool)
  /-- FIG 0/6: a linkage set by its number, its LA flag, hard or soft, its identifiers (07 R201) -/
  | linkage (lsn : Nat) (active hard : Bool) (ids : List Ident)
  /-- FIG 0/21: frequencies of an ensemble by EId, or of a service; each with its signal type (07 R205, R223) -/
  | frequency (key : Nat) (owner : FreqOwner) (freqs : List (Nat × Nat))
  /-- FIG 0/24: the ensembles that carry an SId -/
  | otherEnsembles (sid : Ident) (eids : List Nat)
  /-- SDC type 0: the multiplex: bytes of each stream in the higher and the lower protected part -/
  | drmMultiplex (streams : List (Nat × Nat))
  /-- SDC type 9: the audio codec of a stream, as CODEC of an access unit (R189) -/
  | drmAudio (stream codec : Nat)
  /-- an SDC service identifier -/
  | drmService (id : Nat)
  /-- SDC type 3: alternative frequencies of the service, each with its signal type -/
  | drmFrequencies (key : Nat) (freqs : List (Nat × Nat))
  /-- SDC type 11: a service that carries the same programme, and its frequencies -/
  | drmOther (key : Nat) (id : Ident) (freqs : List (Nat × Nat))
  /-- an SDC announcement entity: announcement data, whether it is an alarm -/
  | drmAnnouncement (data : Nat) (alarm : Bool)
  /-- any other SDC entity -/
  | entity (kind key : Nat) (content : List Byte)
  deriving DecidableEq, Repr

/-- What tells one entry from another: its kind and its key. -/
def Fig.key : Fig → Nat × Nat × Nat
  | .subch id .. => (1, id, 0)
  | .component sid c .. => (2, sid, c)
  | .servicePacket sid c .. => (2, sid, c)
  | .packet scid .. => (3, scid, 0)
  | .componentId sid sc _ => (8, sid, sc)
  | .announcement cl .. => (19, cl, 0)
  | .linkage lsn .. => (6, lsn, 0)
  | .frequency k .. => (21, k, 0)
  | .otherEnsembles sid _ => (24, sid.kind, sid.val)
  | .drmMultiplex _ => (302, 0, 0)
  | .drmAudio s _ => (309, s, 0)
  | .drmService id => (301, id, 0)
  | .drmFrequencies k _ => (303, k, 0)
  | .drmOther k .. => (311, k, 0)
  | .drmAnnouncement .. => (300, 0, 0)
  | .entity k x _ => (400 + k, x, 0)

/-- A FIB as decoded (R174). -/
structure Fib where
  crcOk : Bool
  erased : Bool
  bytes : List Byte
  deriving DecidableEq, Repr

/-- What acquisition and tracking make of a DAB feed since the restart (R172, R173): a signal is present and of which transmission mode, where among the samples the null symbol of its latest frame begins, the carrier offset in 0.01 Hz. -/
structure DabTiming where
  present : Bool := false
  mode : Nat := 0
  start : Nat := 0
  offset : Int := 0
  deriving DecidableEq, Repr, Inhabited

/-- The same of a DRM feed (R185): the robustness mode, 1 A to 5 E, and where its latest transmission frame begins. -/
structure DrmTiming where
  present : Bool := false
  mode : Nat := 0
  start : Nat := 0
  offset : Int := 0
  deriving DecidableEq, Repr, Inhabited

/-- A data group or text message that a decoder has completed (R178, R184). -/
structure GroupOut where
  origin : Nat
  address : Nat
  crcOk : Bool
  allPackets : Bool
  bytes : List Byte
  deriving DecidableEq, Repr

/-- A decoded access unit (06 access unit record). -/
structure AccessUnit where
  codec : Nat
  airTime : Nat
  /-- SubChId, or stream number for DRM -/
  sub : Nat
  auIndex : Nat
  crcOk : Bool
  rsCorrected : Bool
  rsFailed : Bool
  erased : Bool
  /-- byte 20 of the record -/
  aacFlags : Nat
  payload : List Byte
  /-- completion instant (R187) -/
  doneAt : Nat
  /-- flags of the feed blocks that it was made from (R188) -/
  flags : Nat := 0
  /-- conditional access, as the record's SCRAMBLED -/
  scrambled : Bool := false
  deriving DecidableEq, Repr

/-- A data group (06 data group record). -/
structure DataGroup where
  origin : Nat
  airTime : Nat
  sub : Nat
  address : Nat
  crcOk : Bool
  allPackets : Bool
  rsCorrected : Bool
  rsFailed : Bool
  erased : Bool
  group : List Byte
  doneAt : Nat
  flags : Nat := 0
  deriving DecidableEq, Repr

/-- One entry of a TII record (R182); delay in ns, levels in 0.01 dB. -/
structure TiiEntry where
  delay : Int
  pathPower : Option Int
  snr : Option Int
  main : Nat
  sub : Nat
  shared : Bool
  beyondGuard : Bool
  deriving DecidableEq, Repr

/-- Acceptance by two agreeing CRC-good receptions (R174, R179, R186). -/
structure FigSet where
  accepted : List Fig := []
  candidates : List Fig := []
  deriving DecidableEq, Repr

/-- A logical frame of a sub-channel: its bytes, its AIR_TIME, the instant of the last sample that contributed, whether an erased symbol did, the flags of the feed blocks (R176, R187, R188). -/
structure LogicalFrame where
  bytes : List Byte
  airTime : Nat
  doneAt : Nat
  erased : Bool
  flags : Nat
  deriving DecidableEq, Repr

/-- A data group in assembly, by packet address (R178): the continuity index due next, the bytes so far, its first packet's AIR_TIME. -/
structure PacketAsm where
  address : Nat
  index : Nat
  bytes : List Byte
  airTime : Nat
  lost : Bool
  erased : Bool
  /-- a group is in progress -/
  live : Bool
  deriving DecidableEq, Repr

/-- One sub-channel or stream: its numbering, its counts over a measurement period, and what its decoders hold (R176 to R178). -/
structure SubCount where
  id : Nat
  auSeq : Nat := 0
  auTotal : Nat := 0
  auFail : Nat := 0
  rsFail : Nat := 0
  /-- the next record carries RECONFIG (R175) -/
  reconfig : Bool := false
  /-- number of the CIF, since frame synchronisation, with which its organisation began (R175) -/
  since : Nat := 0
  /-- DAB+: superframe alignment is held; superframes in succession that failed both tests (R177) -/
  aligned : Bool := false
  badRun : Nat := 0
  /-- logical frames of the superframe in progress, oldest first (R177) -/
  frames : List LogicalFrame := []
  /-- packet mode: groups in assembly (R178) -/
  packets : List PacketAsm := []
  /-- enhanced packet mode: its FEC packets have been seen, the application data and the FEC packets' data of the frame in progress (R178) -/
  fec : Bool := false
  fecData : List Byte := []
  fecParity : List Byte := []
  /-- memory of the X-PAD or DRM data decoder, whose content the manual does not lay out (R178, R184) -/
  memory : List Byte := []
  deriving DecidableEq, Repr

/-- One CIF in the time de-interleaver (R176, R190): the feed sample at which its first symbol begins, its 55,296 soft decisions, the mask of its erased symbols, the flags of the feed blocks it came in. -/
structure CifSlot where
  first : Int
  soft : List Int
  erased : Nat
  flags : Nat
  deriving DecidableEq, Repr

/-- The power of a TII combination summed over a period, and the sum behind its phase slope (R181). -/
structure TiiSum where
  power : Nat := 0
  re : Int := 0
  im : Int := 0
  deriving DecidableEq, Repr

/-- Impulse response and TII integration of a period (R180, R181, R190). -/
structure TiiAcc where
  /-- frames integrated, and the SYSTIME of the start of the first one's null symbol -/
  frames : Nat := 0
  start : Nat := 0
  /-- feed sample at which the latest frame's null symbol begins -/
  last : Int := 0
  /-- power profile of 2,048 taps, summed -/
  profile : List Nat := []
  /-- by combination, main × 24 + sub -/
  sums : List TiiSum := []
  noise : Nat := 0
  erased : Bool := false
  flags : Nat := 0
  doneAt : Nat := 0
  deriving DecidableEq, Repr

/-- A transmission frame of a DRM signal in its interleavers (R184, R190): the feed sample at which it begins, its cells with those of erased symbols 0, whether a symbol is erased, the flags of the feed blocks. -/
structure DrmSlot where
  first : Int
  cells : List (Int × Int)
  erased : Bool
  flags : Nat
  deriving DecidableEq, Repr

/-- One signal position (06). -/
structure SignalSt where
  /-- SYSTIME from whose first valid feed sample acquisition begins (R171) -/
  acqFrom : Nat := 0
  synced : Bool := false
  /-- feed sample at which the frame in progress begins, once one was synchronised -/
  frameAt : Option Int := none
  /-- frames taken since frame synchronisation, and DAB: CIFs decoded of the frame in progress and since frame synchronisation -/
  frameCount : Nat := 0
  cifsDone : Nat := 4
  cifTotal : Nat := 0
  /-- FIC or FAC good; MCI or SDC complete; outputs delivered -/
  ctrlGood : Bool := false
  complete : Bool := false
  decoding : Bool := false
  /-- consecutive frames without synchronisation (R171) -/
  lostFrames : Nat := 0
  current : FigSet := {}
  next_ : FigSet := {}
  reconfigAt : Option Nat := none
  /-- the last reconfiguration came before its configuration was complete: what describes it is gathered in `next_` (R175) -/
  awaiting : Bool := false
  /-- FIG 0/19 or SDC alarms in force, by cluster or announcement data (R179, R186) -/
  alarms : List Nat := []
  eid : Option Nat := none
  /-- CIF count of the frame's first CIF, by FIG 0/0 (R174) -/
  frameCif : Option Nat := none
  /-- time de-interleaver: CIFs, newest first, at most 20 (R190) -/
  cifs : List CifSlot := []
  /-- DRM: frames, newest first, at most 6 (R184) -/
  drmFrames : List DrmSlot := []
  mode : Nat := 0
  occupancy : Nat := 0
  /-- DRM: the last CRC-good FAC, and the feed sample at which the superframe in progress began -/
  fac : List Bool := []
  superAt : Option Int := none
  freqOffset : Int := 0
  /-- signal and error power of the data cells of the latest frame, and of the period (MER) -/
  merNow : Nat × Nat := (0, 0)
  merSum : Nat × Nat := (0, 0)
  /-- signal and error power since the last 100 ms period of a follow set (07 R213) -/
  merFollow : Nat × Nat := (0, 0)
  subs : List SubCount := []
  /-- services named by accepted entries, with the SYSTIME of the latest reception (07 R202) -/
  heard : List (Ident × Nat) := []
  /-- counts of the period: control blocks, failures, SDC, failures; control bits re-encoded and in error -/
  ctrlTotal : Nat := 0
  ctrlFail : Nat := 0
  sdcTotal : Nat := 0
  sdcFail : Nat := 0
  berBits : Nat := 0
  berErrors : Nat := 0
  erasedSeen : Bool := false
  restartSeen : Bool := false
  reconfigSeen : Bool := false
  deriving DecidableEq, Repr

/-- A record that waits for its span's end: completion instant, position, erased input, flags of its feed blocks, bytes (R187, R188). -/
structure EngineRec where
  doneAt : Nat
  position : Nat
  erased : Bool
  flags : Nat := 0
  bytes : List Byte
  deriving DecidableEq, Repr

/-- A TII combination seen: main and sub-identifier, and periods since it was last detected (R183). -/
structure TiiSeen where
  main : Nat
  sub : Nat
  absent : Nat
  deriving DecidableEq, Repr

/-- An engine index with what is assigned to it (06 engine registers). -/
structure EngineSt where
  signals : Tbl SignalSt := Tbl.empty {}
  side : List EngineRec := []
  units : List EngineRec := []
  tiiSeen : List TiiSeen := []
  tii : TiiAcc := {}
  /-- entries that COMMITs have replaced, newest first, each with the tick, as SYSTIME, before which outputs complete under it (R171) -/
  past : List (Nat × EngineEntry) := []
  /-- end of the last span whose blocks were formed, and of the last measurement period (R187) -/
  spanTo : Nat := 0
  measuredTo : Nat := 0
  restarts : W32 := 0
  deriving DecidableEq, Repr

/-- The function units that known-answer vectors pass through (R192). -/
inductive EngineUnit where
  | fft | equaliser | demapper | viterbi | rs120 | rs204 | deinterleaver | fibSdc | splitter | tiiCorrelator
  deriving DecidableEq, Repr

/-- A difference found and not yet resolved: checker and partner (local physical engines), window start, whether held inputs exist (R193). -/
structure EngineDiff where
  checker : Nat
  partner : Nat
  window : Nat
  deriving DecidableEq, Repr

/-- A region's cross-assay (R191 to R195), by die × 2 + region. -/
structure RegionSt where
  /-- a window runs: checker and its start -/
  checking : Option (Nat × Nat) := none
  /-- the state that the checked engine copied to the checker at the window start (R191) -/
  copy : Option EngineSt := none
  difference : Option EngineDiff := none
  /-- UNIT_RESTORE waits: the physical engine, whether its vectors have passed (R195) -/
  restore : Option (Nat × Bool) := none
  deriving DecidableEq, Repr

/-- Charges and the last clean window of a physical engine. -/
structure PhysEngine where
  charges : W16 := 0
  lastCheckTick : W32 := 0
  /-- number of the 1 s period after the last in which its vectors ran (R192) -/
  katNext : Nat := 0
  deriving DecidableEq, Repr

/-- OFDM engines by global index, physical engines by die × 4 + p, regions by die × 2 + region. -/
structure OfdmSt where
  engines : Tbl EngineSt := Tbl.empty {}
  phys : Tbl PhysEngine := Tbl.empty {}
  regions : Tbl RegionSt := Tbl.empty {}
  deriving DecidableEq, Repr

end Sys2Proof.Machine
end

