-- ==== Sys2Proof/Machine/SecState.lean ====
section
/-!
DEFINITION. The state of secure boot, updates, attestation, hallmark records and the debug port (15). What flash and OTP hold of it is in NvState.
-/
namespace Sys2Proof.Machine

/-- What a leaf's note is of (15 R407): side-data records, access-unit records, input frame words, a slot's words, an identifier change, a class declared, the period values of a record, loudness at a whole second, a silence window. -/
inductive NoteTag where
  | side | au | input | words | idChange | cls | period | loud | silence
  deriving DecidableEq, Repr

/-- A contribution to a leaf: KIND, SOURCE_INDEX and position, the SYSTIME by which it belongs to an interval, numbers and bytes (R407). -/
structure HallNote where
  kind : Nat
  index : Nat
  position : Nat := 0
  at_ : Nat
  tag : NoteTag
  vals : List Int := []
  bytes : List Byte := []
  deriving DecidableEq, Repr

/-- A leaf's unit: KIND, SOURCE_INDEX, position (R406). -/
structure HallUnit where
  kind : Nat
  index : Nat
  position : Nat := 0
  deriving DecidableEq, Repr

/-- An interval in progress (R405 to R408). -/
structure HallAcc where
  start : Nat
  genStart : Nat
  /-- the summary, the mode code and the debug level at its beginning; what follows is in its events -/
  faultStart : Nat := 0
  modeStart : Nat := 0
  debugStart : Nat := 0
  ppsThroughout : Bool := true
  units : List HallUnit := []
  events : List Ev := []
  notes : List HallNote := []
  deriving DecidableEq, Repr

/-- A seal as the next one names it: BOOT_NUM, RECORD_NUM, seal digest (R409). -/
structure SealRef where
  boot : Nat
  num : Nat
  digest : List Byte
  deriving DecidableEq, Repr

/-- A hallmark key: its number for `Config.sm2Sign`, its public key, its SYSTIME of generation, its certificate record (R410). -/
structure HallKey where
  number : Nat
  pub : List Byte
  since : Nat
  cert : List Byte
  deriving DecidableEq, Repr

/-- A setting of HALLMARK_CONFIG that waits for its boundary (R405). -/
structure HallNext where
  at_ : Nat
  interval : Nat
  enable : Bool
  deriving DecidableEq, Repr

/-- The hallmark chain (R405 to R412). -/
structure HallSt where
  enable : Bool := true
  interval : Nat := 10
  next_ : Option HallNext := none
  acc : Option HallAcc := none
  /-- SYSTIME at which an interval begins while none is in progress -/
  startDue : Nat := 0
  /-- an interval that an armed SYNC edge ended: its end on the old count, the step (R412) -/
  cut : Option (HallAcc × Nat × Int) := none
  recordNum : Nat := 0
  /-- the latest seal of this boot -/
  last : Option SealRef := none
  /-- the next seal follows a boot or a re-enable (R409) -/
  resumed : Bool := true
  key : Option HallKey := none
  /-- the key's certificate has not yet been delivered with a seal -/
  keyNew : Bool := false
  /-- debug level 2 erased the key (R412) -/
  erased : Bool := false
  checkpointAt : Nat := 0
  deriving DecidableEq, Repr

/-- An update in progress (R399): slot B, IMAGE_LEN, DIGEST, the chunks written, the mode it came from. -/
structure UpdateSt where
  slotB : Bool
  len : Nat
  digest : List Byte
  chunks : List (Nat × List Byte) := []
  from_ : OpMode
  deriving DecidableEq, Repr

/-- A challenge read at the debug port: its 48 bytes, its level, its SYSTIME (R413). -/
structure Challenge where
  bytes : List Byte
  level : Nat
  at_ : Nat
  deriving DecidableEq, Repr

/-- The stages of the boot ROM (15 R397, 17 R448). -/
inductive RomStage where
  | check | image | load | test | init | done
  deriving DecidableEq, Repr

/-- Security of this boot (15). -/
structure SecSt where
  stage : RomStage := .check
  /-- the slot that the ROM tries, and whether the other has been tried -/
  tryingB : Bool := false
  triedOther : Bool := false
  /-- why the preferred slot failed: 0 an R396 check, 1 its failed-boot count (R397) -/
  failReason : Nat := 0
  runningB : Bool := false
  fallback : Bool := false
  /-- the running image: FW_VERSION, ROLLBACK_LEVEL, digest -/
  fwVersion : Nat := 0
  fwLevel : Nat := 0
  fwDigest : List Byte := List.replicate 32 0
  bootedAt : Nat := 0
  debugLevel : Nat := 0
  debugAttempts : Nat := 0
  debugLocked : Bool := false
  challenge : Option Challenge := none
  update : Option UpdateSt := none
  hall : HallSt := {}
  deriving DecidableEq, Repr

end Sys2Proof.Machine
end

