-- ==== Sys2Proof/Machine/SlotState.lean ====
section
/-!
DEFINITION. The state of programme slots and decode contexts (08).
-/
namespace Sys2Proof.Machine

/-- A span of output time whose samples carry flags; `zero`: the samples are zero. -/
structure SlotSpan where
  start : Nat
  stop : Option Nat
  flags : Nat
  zero : Bool
  deriving DecidableEq, Repr

/-- Match states (R242). -/
inductive MatchSt where
  | unknown | matched | mismatched
  deriving DecidableEq, Repr

/-- The number of a match state (R243). -/
def MatchSt.code : MatchSt → Nat
  | .unknown => 0 | .matched => 1 | .mismatched => 2

/-- A result of the programme match: λ in 1/16 sample, ρ in 0.0001, gain in 0.01 dB (R242). -/
structure MatchEst where
  lag : Int
  rho : Nat
  gain : Int
  deriving DecidableEq, Repr

/-- One sample of programme audio: L and R of 24 bits, and its flags (R237). -/
structure PcmSample where
  left : Int
  right : Int
  flags : Nat
  deriving DecidableEq, Repr

/-- One slot (08 slot registers and record). z in units of 2^−32. -/
structure SlotSt where
  satSticky : Bool := false
  /-- the audio before any muting with the flags as delivered, oldest first, up to the grid point before `pcmTo` (R237, R238, R242) -/
  pcm : List PcmSample := []
  pcmTo : Nat := 0
  /-- the last 10 ms window judged, the last gating block, classifier window and estimate: their ends as SYSTIME (R238 to R243) -/
  silentTo : Nat := 0
  loudTo : Nat := 0
  classTo : Nat := 0
  matchTo : Nat := 0
  measuredTo : Nat := 0
  /-- the last 30 gating blocks, newest first; none: not formed (R238) -/
  recent : List (Option Nat) := []
  /-- z of every block since the restart above the absolute gate -/
  integ : List Nat := []
  integRestarted : Bool := false
  /-- an uncorrectable measurement-state word voids the period (14 R383) -/
  voided : Bool := false
  /-- z of the last block formed, of the period's loudest, sum and count of the period's gated blocks -/
  zLast : Option Nat := none
  zMax : Option Nat := none
  zSum : Nat := 0
  zCount : Nat := 0
  /-- silent windows in succession and the run's first output and air instants (R239) -/
  silentRun : Nat := 0
  runOut : Nat := 0
  runAir : Nat := 0
  silent : Bool := false
  silentWindows : Nat := 0
  unknownWindows : Nat := 0
  silenceMap : Nat := 0
  /-- class declared: 0 PROGRAMME, 1 TONE, 2 NOISE, 3 DATA, 4 SCRAMBLED; windows in succession of a class (R240) -/
  cls : Nat := 0
  clsCand : Nat := 0
  clsRun : Nat := 0
  /-- the class mute ends at this block boundary (R241) -/
  muteEnds : Option Nat := none
  spans : List SlotSpan := []
  matchSt : MatchSt := .unknown
  matchEsts : List MatchEst := []
  matchLast : Option MatchEst := none
  resyncSeen : Bool := false
  auTotal : Nat := 0
  auLost : Nat := 0
  auLate : Nat := 0
  contentLead : Option Nat := none
  deriving DecidableEq, Repr

/-- A unit of a context's sub-channel that waits for its samples to be due: whether it was lost since it came in, its first sample's index in its decode unit, its output rate, channels and samples (R228, R230). -/
structure HeldUnit where
  unit : AccessUnit
  lost : Bool := false
  first : Nat
  rate : Nat
  channels : Nat
  length : Nat
  deriving DecidableEq, Repr

/-- Decoded samples of one unit, or what stands in their place. Places in the decoded stream are in 10^−9 of a 48 kHz sample: where it begins; the completion instant of its decode unit and the index of its first sample there; the output rate; its samples and their flags; how many of the first carry FILL besides (R228, R231). -/
structure PcmUnit where
  start : Int
  base : Nat
  first : Nat
  rate : Nat
  samples : List (Int × Int)
  flags : Nat
  overlap : Nat := 0
  deriving DecidableEq, Repr

/-- The follower from a grid point on: the place it reads there and e in 10^−9 (R233). -/
structure FollowerSeg where
  at_ : Int
  place : Int
  corr : Int
  deriving DecidableEq, Repr

/-- What a slot measured over a period: valid samples, stereo at its end, sample peaks in 0.01 dBFS, t − a at the first valid sample, samples with FILL and with MUTED, the flags of all (R243). -/
structure SlotMeas where
  validCount : Nat
  stereo : Bool
  peakL : Int
  peakR : Int
  latency : Option Nat
  fill : Nat
  muted : Nat
  flags : Nat
  deriving DecidableEq, Repr

/-- One decode context (08 context registers). -/
structure ContextSt where
  codec : Option Nat := none
  decoding : Bool := false
  unsupported : Bool := false
  fOut : Nat := 0
  channels : Nat := 0
  auDecoded : W32 := 0
  auLate : W32 := 0
  /-- units that the engine gave and the context has not yet taken, and those that wait to be due, oldest first (R230) -/
  inbox : List AccessUnit := []
  queue : List HeldUnit := []
  /-- state of the codec (R231) -/
  memory : List Byte := []
  /-- the last unit was lost or missing; lost or late, so that the next one's overlap is FILL (R231, R235) -/
  inRun : Bool := false
  afterLoss : Bool := false
  /-- decoded units and follower, newest first; none before the follower has anchored (R233, R236) -/
  units : List PcmUnit := []
  segs : List FollowerSeg := []
  /-- ε and its sum in 10^−9 of a 48 kHz sample, e in 0.001 ppm (R233) -/
  eps : Int := 0
  epsSum : Int := 0
  corr : Int := 0
  /-- the unit last due has not updated the follower yet -/
  fresh : Bool := false
  /-- a re-anchor waits for its block boundary (R234) -/
  resync : Bool := false
  /-- since the last period of its follow set: a unit without CRC_OK or with ERASED_INPUT (07 R213) -/
  badSeen : Bool := false
  deriving DecidableEq, Repr

end Sys2Proof.Machine
end

