-- ==== Sys2Proof/Syntax.lean ====
section
/-!
DEFINITION. The commands of the block: one constructor per row of the opcode table, in the table's order. The table gives its rows no operands; an operand names the unit concerned, or carries what the outside world, a measurement or a signal path contributes (notes/assumptions/2.md, 4.md). A row that is a command of 11 carries its source, and the bytes of its input buffer where it reads one.
-/
namespace Sys2Proof
open Machine

/-- The commands. Each docstring is the row's summary and rule. -/
inductive Instr where
  /-- Release of PERST_N latches the straps and starts boot on every die (R448). -/
  | perstNRelease (refsel : Bool) (syncpos mbAddr : Nat) (refin : Bool)
  /-- Assertion of PERST_N ends any activity and puts the part in OFF (R447). -/
  | perstNAssert
  /-- Loss of the supplies puts the part in OFF (R437). -/
  | suppliesAbsent
  /-- The boot ROM finishes checking its own digest and the OTP, and enters HALTED on failure (R397). -/
  | romCheckDone (romOk otpOk : Bool)
  /-- Verification of a slot's image ends; the ROM boots it, tries the other slot or enters RECOVERY (R396). -/
  | imageCheckDone
  /-- Dies 1 to N-1 have been powered, loaded and started (R448). -/
  | dieLoadDone
  /-- A die's lockstep, march, known-answer and ring-training self-test ends, and a failing die is fenced or HALTED entered (R449). -/
  | dieSelfTestDone (d : Nat) (lockstep mem data rising falling : Bool) (temp : Int) (bands : List Nat)
  /-- Configuration sets are initialised on every die and the part enters IDLE (R448). -/
  | bootComplete
  /-- A switched domain finishes its ramp and its window comparators are armed (R435). -/
  | domainRampDone (d dom : Nat)
  /-- A switched domain finishes clearing its SRAM and enters service (R435). -/
  | domainInService (d dom : Nat) (temp : Int) (band : Nat)
  /-- A supply window comparator trips, fencing die d or sending the part to HALTED (R376). -/
  | supplyTrip (d dom : Nat) (tooHigh : Bool)
  /-- A lockstep pair disagrees, fencing its die or sending the part to HALTED (R33). -/
  | lockstepDisagreement (d : Nat)
  /-- Loss of REFIN is detected; the reference PLL coasts and the HOLDOVER condition holds (R56). -/
  | refinLoss
  /-- Loss of the root at one die makes all its synthesizers coast (R56). -/
  | rootLossAtDie (d : Nat)
  /-- A loop's lock detector trips; the loop coasts on its hold DAC and the unlock counts toward the lasting rule (R56). -/
  | lossOfLock (l : LoopId)
  /-- A coasting loop with its reference present starts a relock attempt 100 us after coast entry (R472). -/
  | relockAttempt (l : LoopId) (phase : Int)
  /-- A relock attempt has not reached frequency lock within 10 ms; the loop coasts again and counts a further unlock (R472). -/
  | relockAttemptFailed (l : LoopId)
  /-- A lost REFIN returns; the phase build-out is set and the loop closes (R64). -/
  | refinReturn (phase : Int)
  /-- A loop relocks in frequency without a phase step and reports its build-out (R64). -/
  | pllRelock (l : LoopId) (temp : Int) (band : Nat)
  /-- No PPS edge arrives within 1.5 s of the reference relock, so REF_RETURN is raised (R65). -/
  | refReturnTimeout
  /-- Every 10 ms the drift of a coasting sampling clock is evaluated and slots are muted beyond 20 ppm (R58). -/
  | sampDriftEval (d : Nat) (drift : Int)
  /-- Every 96 us the drift of a coasting system clock is evaluated and core clocks move to the root beyond 2,000 ppm (R59). -/
  | sysDriftEval (d : Nat) (drift : Int)
  /-- After the system synthesizer relocks, the die switches back at a block boundary and its units resume (R60). -/
  | coreRestored (d : Nat)
  /-- At each tick a die compares the anchor's SYSTIME with its replica and raises SYSTIME_MISMATCH on a difference (R42). -/
  | systimeCompare (d : Nat)
  /-- At the tick boundary after a mismatch the die reloads its replica, ending blocks as at an armed edge (R42). -/
  | replicaReload (d : Nat)
  /-- An armed SYNC edge loads SYSTIME with the designated value and re-phases every divider (R50). -/
  | syncEdgeArmed
  /-- An unarmed SYNC edge is compared with its designated value and SYNC_DEVIATION raised on a difference (R51). -/
  | syncEdgeUnarmed
  /-- No SYNC edge has arrived for 1.5 s (R51). -/
  | syncLost
  /-- A PPS_IN edge is captured and compared with the expected second (R54). -/
  | ppsEdge (falling : Bool)
  /-- No PPS edge has arrived for 1.5 s while PPS is enabled (R54). -/
  | ppsLost
  /-- The sampling synthesizer locks on the new plan after a hop (R45). -/
  | hopLock (d : Nat) (temp : Int) (band : Nat)
  /-- A hop on the stored band has not locked within 50 us, so a fresh band search starts (R44). -/
  | hopStoredBandTimeout (d : Nat)
  /-- A fresh band search has not locked within 3 ms and becomes a loss of lock (R45). -/
  | hopSearchTimeout (d : Nat)
  /-- At the next plan frame after hop lock the dividers re-phase, causing a synchronising reset (R46). -/
  | dividerRephase (d : Nat)
  /-- The 1,000 ms wait for a coasting die ends without relock; its converters fail and the COMMIT aborts (R63). -/
  | hopWaitTimeout (d : Nat)
  /-- A converter fast check trips, marking the converter failed and starting fail-over or fall-back (R77). -/
  | fastCheckTrip (k check : Nat)
  /-- A duplex cross-check window ends, signatures are compared and a course mismatch may be decided (R78). -/
  | checkWindowEnd (j : Nat) (sigs : List CheckSig)
  /-- Spare-slice shadowing of the mismatching position ends and the faulty converter is attributed (R79). -/
  | shadowAttributionEnd (j : Nat) (aDisagrees bDisagrees : Bool)
  /-- At the splice edge the standby becomes leader and taps restart on its history (R80). -/
  | leaderSplice (j : Nat)
  /-- Leadership moves by a planned splice for a commit, a coasting leader or a leader without spare (R81). -/
  | plannedSplice (j : Nat)
  /-- A newly powered converter samples and taps restart on it at the next plan-frame boundary (R84). -/
  | converterSampling (k : Nat)
  /-- The spare slice moves to its next position or phase every 640 plan frames (R87). -/
  | sliceRotationStep (k : Nat)
  /-- A shadow phase ends and a slice mismatch may be raised and counted (R89). -/
  | shadowPhaseEnd (k : Nat) (rms mean : Int) (inAuthority convFault : Bool)
  /-- A new slice correction estimate takes effect at the block boundary (R88). -/
  | sliceCoeffUpdate (k i : Nat) (coef : SliceCoef)
  /-- An AGC window of 64 plan frames ends and the gain may step (R93). -/
  | agcWindow (j : Nat) (peak : Int)
  /-- Once per second while gain is at GAIN_MIN and peaks still reach ATTACK_LEVEL, AGC_LIMIT is raised (R93). -/
  | agcLimit (j : Nat) (peak : Int)
  /-- At the end of each tick the converter power, min-max and clip record is latched (R99). -/
  | converterRecordLatch (k : Nat) (codes : List SliceCode)
  /-- A read of PWR_SUM_LO snapshots the whole latched converter record (R100). -/
  | pwrSumLoRead (k : Nat)
  /-- Writing CLEAR_STICKY resets the converter's sticky min, max and clip fields (R100). -/
  | clearSticky (k : Nat)
  /-- A write of OPEN_LIMIT and OVER_LIMIT takes effect at the next feed conversion, or is ignored if not ordered (R73). -/
  | feedLimitsWrite (n openLimit overLimit : Nat)
  /-- A segment sample misses its entry time; zero is substituted and the fed lanes are suppressed (R20). -/
  | segmentLate (c e1 e2 : Nat)
  /-- An audit sub-slot begins and the audit tap compares a target or runs a known-answer test (R131). -/
  | auditSubslot (d : Nat) (katFails : Bool)
  /-- The 2 ms self-verification ends and the mismatch is charged to the target or to the audit tap (R133). -/
  | auditVerifyEnd (d : Nat) (agrees : Bool)
  /-- After a lasting band-tap or export-tap fault the replacement takes over at a splice edge (R134). -/
  | auditReplacementSplice (d : Nat)
  /-- A read of NCO_WORD_LO snapshots NCO_WORD_HI (R107). -/
  | ncoWordLoRead (c : Nat)
  /-- Writing 1 to a sticky saturation flag clears it (R129). -/
  | satStickyClear (x : SatTarget)
  /-- A 100 ms assay step begins and the spare loads the lane's configuration (R161). -/
  | assayStep (c : Nat)
  /-- At 4 ms the lane's demodulator state is copied to the spare and bit comparison begins (R161). -/
  | assayStateCopy (c : Nat)
  /-- The spare's 2 ms known-answer test ends and the lane or the spare is charged (R162). -/
  | assayKatEnd (c : Nat) (fails : Bool)
  /-- At block boundary B the spare takes the lane's state and delivers COVERED (R164). -/
  | coverStart (c pos : Nat)
  /-- At B' the lane takes back its station from the spare (R164). -/
  | coverEnd (c : Nat)
  /-- At the first valid chain sample after an event the demodulator restarts from fixed values (R137). -/
  | demodRestart (r : Rx) (at_ : Nat)
  /-- After each run of 64 samples the diversity weights are updated (R147). -/
  | combinerUpdate (l : Nat) (air : Air)
  /-- The 19 kHz pilot is judged locked or lost (R143). -/
  | pilotLockChange (l : Nat) (air : Air)
  /-- At the block boundary after a pilot lock change the lane forms stereo or mono (R143). -/
  | stereoSwitch (l : Nat)
  /-- A 26-bit RDS block position passes and is checked, corrected and flagged (R153). -/
  | rdsBlock (r : Rx) (stream : Nat) (air : Air) (k : Nat)
  /-- A 47-bit AMSS block is received, checked and delivered (R141). -/
  | amssBlock (l : Nat) (air : Air) (k : Nat)
  /-- A lane's measurement period ends and its record is formed (R150). -/
  | measurementPeriodEnd (l : Nat) (air : Air) (late : Bool)
  /-- A 100 ms side-data span ends and its block is formed (R157). -/
  | sideDataSpanEnd (r : Rx) (air : Air)
  /-- A watch tap's period ends and its record is formed (R159). -/
  | watchTapPeriodEnd (w : Nat) (air : Air) (late : Bool)
  /-- A survey dwell ends, its record is formed and the tap retunes to the next list entry (R160). -/
  | surveyDwellEnd (w : Nat) (air : Air) (late : Bool)
  /-- A watch tap runs its once-per-second known-answer vector and is retired after two failures (R375). -/
  | watchTapKat (w : Nat) (fails repeatFails : Bool)
  /-- A 2 ms sample block of a lane, capture or other stream is formed with its flags (R121). -/
  | streamBlockFormed (x : StreamId) (t0 : Nat) (air : Air) (fault : Nat) (old late choked : Bool)
  /-- A DAB transmission frame is processed: synchronisation, FIBs and MCI acceptance (R174). -/
  | dabFrame (e : Nat) (air : Air)
  /-- A CIF is de-interleaved and decoded into sub-channel outputs (R176). -/
  | cifDecoded (e : Nat) (air : Air)
  /-- A TII period ends and the TII record is delivered (R183). -/
  | tiiPeriodEnd (e : Nat)
  /-- A DRM transmission frame is processed: FAC, SDC, MSC and reconfiguration (R186). -/
  | drmFrame (e p : Nat) (air : Air)
  /-- Missing feed samples for more than 400 ms restart the signal (R171). -/
  | feedMissingTimeout (e p : Nat)
  /-- A 100 ms engine span ends and its side-data and access-unit blocks are formed (R187). -/
  | engineRecordSpanEnd (e : Nat) (late : Bool)
  /-- An engine measurement period ends and its records are formed (R187). -/
  | engineMeasPeriodEnd (e : Nat) (air : Air) (late : Bool)
  /-- A 24 ms cross-assay window starts and the checked engine copies its state to the checker (R191). -/
  | crossAssayWindow (d p : Nat)
  /-- The checker finishes repeating and comparing the partner's window (R191). -/
  | crossAssayCompareEnd (d region : Nat) (differs : Bool)
  /-- An engine passes its per-period known-answer vectors through each function unit (R192). -/
  | engineKatVectors (d p : Nat) (failed : List EngineUnit)
  /-- Known-answer vectors and the repeat after a difference end and an engine is charged (R193). -/
  | engineDifferenceResolved (d region : Nat) (checkerFailed partnerFailed : List EngineUnit) (repeatDiffers : Bool)
  /-- A follow set's 100 ms period ends; conditions are evaluated, the standby ranked and switching rules applied (R214). -/
  | followPeriodEnd (f : Nat) (air : Air)
  /-- Every second a delay estimate of the standby is formed and the lock updated (R210). -/
  | delayEstimate (f : Nat) (air : Air)
  /-- At F0 a cross-fade between the playing and standby members begins (R216). -/
  | fadeStart (f : Nat)
  /-- At F1 the standby becomes the playing lane (R216). -/
  | fadeEnd (f : Nat)
  /-- A watch tap's candidate dwell ends and it moves to the next candidate (R208). -/
  | candidateDwellEnd (f w : Nat) (air : Air)
  /-- VERIFY_AGE passes without a new acceptance and the verification lapses (R204). -/
  | verificationLapse (f : Nat)
  /-- Each second a follow record is formed (R223). -/
  | followRecord (f : Nat)
  /-- A decode context takes an access unit of its sub-channel (R230). -/
  | accessUnitReceived (k : Nat)
  /-- An access unit's first sample falls due; an unfinished decode is discarded as LATE (R235). -/
  | auDue (k : Nat) (finished : Bool)
  /-- Once per decode unit the slot's rate follower updates its correction (R233). -/
  | rateFollowerUpdate (k : Nat)
  /-- At the block boundary the follower re-anchors after an error over 20 ms (R234). -/
  | slotResync (k : Nat)
  /-- Every 100 ms a 400 ms gating block ends and loudness is updated (R238). -/
  | loudnessBlock (x : Nat) (air : Air)
  /-- A 10 ms window ends and silence is judged (R239). -/
  | silenceWindow (x : Nat) (air : Air)
  /-- A 200 ms classifier window ends and a content class may be declared (R240). -/
  | classifierWindow (x : Nat) (air : Air)
  /-- At the block boundary after the return to PROGRAMME the class mute ends (R241). -/
  | nonAudioMuteEnd (x : Nat)
  /-- Each second the slot is compared with its studio reference and the match state updated (R242). -/
  | matchEstimate (x : Nat) (air : Air)
  /-- A slot's measurement period ends and its record is formed (R243). -/
  | slotMeasPeriodEnd (x : Nat) (air : Air) (late : Bool)
  /-- A 2 ms PCM block of the ring's selected slots is formed (R245). -/
  | pcmBlockFormed (r t0 : Nat) (air : Air) (old : Bool)
  /-- A slot or context runs its known-answer vector and is retired after a second failure (R248). -/
  | slotKat (context : Bool) (i : Nat) (fails repeatFails : Bool)
  /-- At T_s the port clock starts with every channel idle (R264). -/
  | portStartTick (p : PortId)
  /-- Pre-roll ends at B and data begin with the frame of grid instant B (R264). -/
  | portPrerollEnd (p : PortId)
  /-- At T_p the port emits idle from B_p for POST_ROLL (R265). -/
  | portStopTick (p : PortId)
  /-- Post-roll ends; clock and lines are held low and PORT_STOPPED is raised (R265). -/
  | portPostrollEnd (p : PortId)
  /-- At each frame start the output port emits the due frame, a fill frame on underrun, and checks read-back (R261). -/
  | portFrameStart (d : Nat) (air : Air) (present : Bool) (late : Nat) (diffs : List Nat)
  /-- The port rate follower steers to the FIFO level and may slip a frame (R254). -/
  | portFollowerUpdate (p : PortId) (err : Int)
  /-- After the audio synthesizer relocks, an internal port leaves the follower at a block boundary (R256). -/
  | portLeaveFollower (p : PortId)
  /-- An input frame is decimated and lines are checked for being stuck (R266). -/
  | inputFrameReceived (d : Nat) (frame : Int) (air : Air)
  /-- A 2 ms PDM input block is formed (R269). -/
  | inputBlockFormed (d : Nat) (air : Air)
  /-- No AMCLK edge arrives for 4 us; ports on AMCLK freeze (R272). -/
  | amclkStop (d : Nat)
  /-- A returned AMCLK runs one 100 us window within tolerance and qualifies (R272). -/
  | amclkQualified (d freq : Nat)
  /-- At the next block boundary after qualification frozen ports restart with a full pre-roll (R273). -/
  | portResume (p : PortId)
  /-- The AMCLK frequency is measured per block and a rate change may be declared (R272). -/
  | amclkBlockRate (d freq : Nat)
  /-- At the next block boundary after an automatic rate change the port takes the new divider (R273). -/
  | portRateSwitch (p : PortId)
  /-- At the end of a second with rejected pulses their count is reported (R272). -/
  | amclkGlitches (d count : Nat)
  /-- Writing CLEAR_COUNTS clears the port's fill, discard, glitch, stop and slip counts (R261). -/
  | portClearCounts (p : PortId)
  /-- A function level reset, hot reset or link-down disables rings and discards the shadow set (R280). -/
  | pcieReset
  /-- The PCI Express link trains, retrains or goes down (R276). -/
  | linkState (up : Bool) (width rate : Nat)
  /-- A received write failing ECRC is discarded and reported through AER (R279). -/
  | receivedWriteEcrcFail (bar offset : Nat)
  /-- A write to a ring register is taken or ignored according to ENABLE (R283). -/
  | ringConfigWrite (r offset v : Nat)
  /-- Setting ENABLE starts a ring at index 0, or leaves it disabled with an error code (R292). -/
  | ringEnable (r v : Nat)
  /-- Clearing ENABLE stops a ring and clears its error state (R284). -/
  | ringDisable (r v : Nat)
  /-- The last write to a disabled ring has been sent and RUNNING clears (R284). -/
  | ringWritesDrained (r : Nat)
  /-- A doorbell write sets a ring's outstanding entries or halts it on a bad index (R285). -/
  | doorbellWrite (r index : Nat)
  /-- A doorbell write with RESUME releases a fenced command ring (R289). -/
  | doorbellResume (r index : Nat)
  /-- The part fetches the next outstanding descriptor and checks its CRC-32C (R287). -/
  | descriptorFetch (r : Nat) (desc : Option (List Byte))
  /-- A held completion is written once its completion ring has room (R288). -/
  | completionWrite (q : Nat)
  /-- A staged block is verified and written into a credit of its delivery ring (R295). -/
  | blockWrite (r : Nat) (good owner : Bool)
  /-- A waiting block reaches HOLD_LIMIT and is discarded (R295). -/
  | blockHoldExpiry (r : Nat)
  /-- MOD_TIME passes after the first unsignalled entry and the vector is signalled (R297). -/
  | interruptModTimer (r : Nat)
  /-- Unmasking a vector sends a pending signal (R297). -/
  | msixUnmask (v : Nat)
  /-- At the end of a second with discards the ring's count is reported (R296). -/
  | ringOverrun (r : Nat)
  /-- An event block is formed for a 2 ms span, or empty after a silent second (R306). -/
  | eventBlock (x : Nat)
  /-- Each second a die's telemetry block is formed (R307). -/
  | telemetryRecord (d : Nat)
  /-- Completes at once with no effect (R329). -/
  | nop (src : CmdSrc)
  /-- Writes the identification record (R340). -/
  | identify (src : CmdSrc)
  /-- Gives the wall time of a PPS edge or SYSTIME value (R54). -/
  | timeSet (src : CmdSrc)
  /-- Arms SYNC for the next edge (R66). -/
  | realign (src : CmdSrc)
  /-- Writes one lane entry of the shadow set (R332). -/
  | stageLane (src : CmdSrc)
  /-- Writes a cluster's band tap, HOLD-cover selection and selected watch-tap entries (R331). -/
  | stageCluster (src : CmdSrc) (buf : Option (List Byte))
  /-- Writes one engine entry of the shadow set (R333). -/
  | stageEngine (src : CmdSrc)
  /-- Writes one slot entry of the shadow set (R334). -/
  | stageSlot (src : CmdSrc)
  /-- Writes one port entry of the shadow set (R335). -/
  | stagePort (src : CmdSrc)
  /-- Writes one follow-set entry from its 264-byte buffer (R336). -/
  | stageFollow (src : CmdSrc) (buf : Option (List Byte))
  /-- Writes selected filters of one coefficient bank of one die (R337). -/
  | stageBank (src : CmdSrc) (buf : Option (List Byte))
  /-- Writes the plan, course entries and route entries (R330). -/
  | stagePlan (src : CmdSrc) (buf : Option (List Byte))
  /-- Copies one shadow entry to another index, or a bank to several dies (R327). -/
  | stageCopy (src : CmdSrc)
  /-- Resets the shadow set to the pending or active set (R327). -/
  | discardStage (src : CmdSrc)
  /-- Validates the shadow set and makes it pending for its effective tick (R323). -/
  | commit (src : CmdSrc)
  /-- A die receives the pending set, checks its CRC and acknowledges (R324). -/
  | pendingSetReceived (d : Nat) (good : Bool)
  /-- At tick T-1 the anchor confirms the tick, or withdraws the set with TIMEOUT (R324). -/
  | commitAckDeadline
  /-- At the effective tick every die swaps to the pending set (R36). -/
  | configSwap (temps : List Int)
  /-- Schedules a port start at T_s (R264). -/
  | portStart (src : CmdSrc)
  /-- Schedules a port stop at T_p (R265). -/
  | portStop (src : CmdSrc)
  /-- Admits a capture stream to an unrouted ring (R308). -/
  | captureStart (src : CmdSrc)
  /-- Capture begins with the first block at or after its start tick (R308). -/
  | captureStartTick (r : Nat)
  /-- Ends a capture stream after its last block (R308). -/
  | captureStop (src : CmdSrc)
  /-- Makes LEVEL or MONITOR overdue and completes when the step ends (R357). -/
  | calStart (src : CmdSrc)
  /-- Writes the record of a calibrated item (R354). -/
  | calQuery (src : CmdSrc)
  /-- Snapshots coefficients and writes them to a flash slot (R355). -/
  | calStore (src : CmdSrc)
  /-- A calibration slot write and read-back end; failure leads to a rewrite or CAL_STORE_FAILED (R355). -/
  | calStoreWriteDone (ok : Bool)
  /-- An automatic calibration store falls due (R357). -/
  | autoStore
  /-- Runs one system calibration step (R349). -/
  | syscalStep (src : CmdSrc) (meas : Option SyscalMeas)
  /-- At B the measuring lane is taken under cover and tuned to the tone (R344). -/
  | levelStepStart (n : Nat)
  /-- A phase or window of a level step ends (R345). -/
  | levelPhaseEnd (n : Nat) (air : Air)
  /-- At B+64 ms the tone level is evaluated and D updated if plausible (R346). -/
  | levelStepEval (n : Nat)
  /-- Each second D of the duplex standby is updated (R342). -/
  | standbyDUpdate (j : Nat)
  /-- The 10 min pause of background level steps ends (R352). -/
  | calinSuspectHoldEnd
  /-- The monitor converter re-measures reference channels and the loop-back, then corrects offset and gain (R353). -/
  | monitorBackgroundCal (d : Nat) (ref0 ref1 loop100 loop300 : Int)
  /-- Queues an injected conversion (R367). -/
  | monInject (src : CmdSrc)
  /-- Writes the latched and running monitor record (R370). -/
  | monRead (src : CmdSrc)
  /-- A regular conversion ends, feeds accumulators and trackers, and is compared with feed and temperature limits (R368). -/
  | monConversionEnd (d : Nat) (raw : Int)
  /-- A sequence pass begins at the next PASS_PERIOD multiple (R364). -/
  | monPassStart (d : Nat)
  /-- An injected conversion ends and the next injection or the interrupted entry runs (R367). -/
  | monInjectionEnd (d : Nat) (raw : Int)
  /-- At each second the accumulators and trackers are latched (R368). -/
  | monSecondLatch
  /-- Writing APPLY brings the staged sequence into force or rejects it (R365). -/
  | monApply (d : Nat)
  /-- Writing CLEAR clears accumulators and trackers at the next conversion boundary (R369). -/
  | monClear (d : Nat)
  /-- Setting RUN starts the sequence at entry 0 (R372). -/
  | monRunSet (d : Nat)
  /-- Clearing RUN stops the sequence after the current conversion (R372). -/
  | monRunClear (d : Nat)
  /-- A read of SUM_LO snapshots SUM_HI and COUNT (R370). -/
  | sumLoRead (d i : Nat)
  /-- Writes the package summary or die detail (R391). -/
  | faultQuery (src : CmdSrc)
  /-- Erases a unit's recorded occurrences and releases a held loop (R380). -/
  | faultClear (src : CmdSrc)
  /-- Retires a physical unit as if a lasting fault had been declared (R339). -/
  | unitRetire (src : CmdSrc)
  /-- Runs a retired unit's checks and returns it if they pass (R474). -/
  | unitRestore (src : CmdSrc) (pass : Bool)
  /-- Requests a mode change, completing when the new mode is in force (R438). -/
  | modeSet (src : CmdSrc)
  /-- At tick T the active set comes into force and units start as if committed (R439). -/
  | receptionEntryTick
  /-- At exit tick T streams end, ports stop and the new mode takes effect (R440). -/
  | receptionExitTick
  /-- Writes a signed attestation report (R404). -/
  | attest (src : CmdSrc)
  /-- Sets the hallmark interval and enable (R405). -/
  | hallmarkConfig (src : CmdSrc)
  /-- Writes the record of a key (R402). -/
  | keyInfo (src : CmdSrc)
  /-- Erases the inactive slot and enters UPDATE (R399). -/
  | updateBegin (src : CmdSrc)
  /-- Writes and reads back one image chunk (R399). -/
  | updateChunk (src : CmdSrc) (buf : Option (List Byte)) (ok : Bool)
  /-- Verifies the image, validates the slot or enrols an owner key, and returns to the earlier mode (R399). -/
  | updateFinish (src : CmdSrc)
  /-- Writes fault-log entries from FIRST (R390). -/
  | logRead (src : CmdSrc)
  /-- A read corrects a single-bit error, writes it back and counts it (R382). -/
  | sramSingleBitError (d array row word : Nat)
  /-- A double-bit error is treated by the word's owner per region (R383). -/
  | sramUncorrectable (d word : Nat) (o : SramOwner)
  /-- Every 8 s a die starts its SRAM scrub pass (R384). -/
  | planishPassStart (d : Nat)
  /-- A scrub pass finishes (R384). -/
  | planishPassComplete (d : Nat)
  /-- A background task becomes due or overdue and may pre-empt discretionary work (R387). -/
  | backgroundTaskAgeing (t : Task) (overdue : Bool)
  /-- A flash block is refreshed and wear-levelled (R387). -/
  | flashRefresh (fails : Bool)
  /-- A flit fails its CRC, is replayed and charged to link lanes (R385). -/
  | flitCrcError (d dir : Nat) (lanes : List Nat) (consecutive replayed : Bool)
  /-- Every 10 s a failed link is probed by training (R385). -/
  | linkProbe (d dir : Nat) (trained : Bool)
  /-- After 1 s of clean test flits a link returns to service (R385). -/
  | linkRestored (d dir : Nat)
  /-- A write of COUNT and WINDOW is taken within limits and applies from the next occurrence (R379). -/
  | lastingRuleWrite (i v : Nat)
  /-- A waiting fault-log entry is written to flash (R389). -/
  | faultLogWrite (fails : Bool)
  /-- At the end of a minute the count of suppressed events of one code is logged (R389). -/
  | logSuppressed (code : Nat)
  /-- After 24 h the OTP counter is raised to the running image's level (R398). -/
  | antiRollbackRaise
  /-- An interval ends and its leaves, tree and chained seal are formed (R408). -/
  | hallmarkIntervalEnd
  /-- After 86,400 s a new hallmark key and its certificate are generated (R410). -/
  | hallmarkKeyRotation
  /-- A read of CHALLENGE returns a fresh nonce (R413). -/
  | debugChallengeRead (level : Nat)
  /-- A response opens the requested debug level or counts a denial (R413). -/
  | debugResponseWrite (r : List Byte)
  /-- A management-bus write is applied at STOP or discarded (R419). -/
  | mbWriteTransaction (addr : Nat) (bytes : List Byte)
  /-- A management-bus read snapshots and returns COUNT bytes with PEC (R420). -/
  | mbReadTransaction (addr : Nat) (hdr : List Byte) (ackLast sda scl : Bool)
  /-- An address match in SLEEP restarts the management clocks (R428). -/
  | mbWake (byte : Byte)
  /-- After 1 s without an addressed transaction the woken clocks stop (R428). -/
  | mbSleepClockStop
  /-- SCL low for 35 ms resets the target and releases the lines (R429). -/
  | mbTargetTimeout (pointer received : Nat) (write : Bool)
  /-- Writing GO starts a controller transfer after bus recovery if needed (R424). -/
  | mbControllerGo (w : Option Nat) (stuck freed : Bool)
  /-- Arbitration is lost; the part may become target and retries later (R425). -/
  | mbArbitrationLost (byte : Option Byte)
  /-- A controller transfer ends and DONE is set with its result (R424). -/
  | mbControllerDone (ack : BusAck) (data : List Byte) (pec : Byte)
  /-- SCL held low for 35 ms ends a controller transfer with RESULT 6 (R430). -/
  | mbControllerTimeout
  /-- A write of the timing word is taken or ignored (R431). -/
  | mbTimingWrite (v : Nat)
  /-- At the end of a second in which bus counters rose, their rises are reported (R419). -/
  | mbErrorsReport
  /-- Writing GO executes the mailbox descriptor (R421). -/
  | mboxGo
  /-- The mailbox command completes and its completion is written (R422). -/
  | mboxComplete
  /-- Writing 1 to ALERT_LATCHED clears it while no alert is active (R442). -/
  | alertLatchedClear
  /-- Writing 1 to WAKE_LATCHED releases WAKE_N (R442). -/
  | wakeLatchedClear
  /-- After 1 s without access in SLEEP die 0 stops its CONTROL clocks (R445). -/
  | sleepClockStop
  /-- A doorbell or BAR0 access in SLEEP restarts the clocks (R445). -/
  | sleepWakeAccess
  /-- A write of CLK_CTRL updates spread only in IDLE and PPS and SYNC_OUT fields in any mode (R48). -/
  | clkCtrlWrite (v : Nat)
  /-- A read of SYSTIME_LO snapshots both halves (R55). -/
  | systimeLoRead
  /-- A write to a register without its own row sets, clears or is ignored per its access type (R13). -/
  | registerWrite (t : RegTarget) (v : Nat)
  /-- The root returns at a die that had lost it, and the die's coasting loops set their phase build-out and close (R64). -/
  | rootReturnAtDie (d : Nat) (phases : List Int)
  /-- A ring link receiver loses lock and the link is declared failed and rerouted (R385). -/
  | linkReceiverLockLoss (d dir : Nat)
  /-- A fault in the anchor die's host link is detected and the part enters HALTED with HALT_CAUSE 2 (R34). -/
  | hostLinkFault
  /-- During an assay step the spare finds the first value that differs from the lane, stops comparing and starts its 2 ms known-answer test (R162). -/
  | firstDifferingValue (c output : Nat)
  /-- In its sub-slot the audit tap finds a segment sample that differs from its target and starts its 2 ms self-verification (R133). -/
  | auditCompareMismatch (d : Nat)
  deriving DecidableEq, Repr

end Sys2Proof
end

