-- ==== Sys2Proof/Decode.lean ====
section
/-!
DEFINITION. The opcode table's bits: its rows give none (every row's list of fields is empty), so no word spells a command (notes/assumptions/2.md).
-/
namespace Sys2Proof

/-- The command that a word of `nbits` bits spells by the table: none, for any word. -/
def decodeTableWord (_nbits _w : Nat) : Option Instr := none

end Sys2Proof
end

