-- ==== Sys2Proof/Machine/Bits.lean ====
section
/-!
DEFINITION. Bits, bytes and byte order (00 R12), signed fields, saturating and wrapping counts, ticks and blocks (02), CRC-32C (10 R299).
-/
namespace Sys2Proof.Machine

/-- `n` bytes of `v`, little-endian (R12). -/
def le : Nat → Nat → List Byte
  | 0, _ => []
  | n + 1, v => BitVec.ofNat 8 v :: le n (v / 256)

/-- The little-endian value of bytes (R12). -/
def leNat : List Byte → Nat
  | [] => 0
  | b :: rest => b.toNat + 256 * leNat rest

/-- An integer reduced to `w` bits of two's complement. -/
def wrapInt (w : Nat) (v : Int) : Nat := (v % (2 ^ w : Int)).toNat

/-- The signed value of `w` bits. -/
def signedOf (w v : Nat) : Int := if v % 2 ^ w < 2 ^ (w - 1) then (v % 2 ^ w : Int) else (v % 2 ^ w : Int) - 2 ^ w

/-- `n` bytes of a signed value, little-endian (R12). -/
def leInt (n : Nat) (v : Int) : List Byte := le n (wrapInt (8 * n) v)

/-- `n` zero bytes. -/
def zeros (n : Nat) : List Byte := List.replicate n 0

/-- Bytes cut or zero-filled to exactly `n`. -/
def padTo (n : Nat) (bs : List Byte) : List Byte := (bs ++ zeros (n - bs.length)).take n

/-- Bytes padded with zeros to a multiple of 4 (R302). -/
def pad4 (bs : List Byte) : List Byte := bs ++ zeros ((4 - bs.length % 4) % 4)

/-- The field of `width` bits that begins at `bit` of `byte`, little-endian (R12). -/
def field (d : List Byte) (byte bit width : Nat) : Nat := (leNat ((d.drop byte).take 17) >>> bit) % 2 ^ width

/-- The signed field of `width` bits (R12). -/
def sfield (d : List Byte) (byte bit width : Nat) : Int := signedOf width (field d byte bit width)

/-- One bit of a descriptor or buffer. -/
def bitAt (d : List Byte) (byte bit : Nat) : Bool := field d byte bit 1 == 1

/-- Bit `i` of a mask. -/
def maskBit (m i : Nat) : Bool := (m >>> i) % 2 == 1

/-- The indices below `n` whose bit of the mask is set. -/
def maskList (n m : Nat) : List Nat := (List.range n).filter (maskBit m)

/-- The mask of the indices below `n` that satisfy `p`. -/
def maskOf (n : Nat) (p : Nat → Bool) : Nat := (List.range n).foldl (fun acc i => if p i then acc + 2 ^ i else acc) 0

/-- 1 for true. -/
def b2n (b : Bool) : Nat := if b then 1 else 0

/-- A 16-bit count that saturates. -/
def satInc (x : W16) : W16 := if x.toNat = 0xFFFF then x else x + 1

/-- A 16-bit count raised by `n`, saturating. -/
def satAdd (x : W16) (n : Nat) : W16 := if x.toNat + n ≥ 0xFFFF then 0xFFFF else BitVec.ofNat 16 (x.toNat + n)

/-- SYSTIME counts in a tick (02 "SYSTIME, ticks and blocks"). -/
def countsPerTick : Nat := 100000
/-- SYSTIME counts in a second at 100 MHz. -/
def countsPerSecond : Nat := 100000000
/-- SYSTIME counts in a block: a block begins on an even tick (02). -/
def countsPerBlock : Nat := 200000
/-- SYSTIME counts in a plan frame (R43). -/
def countsPerFrame : Nat := 32

/-- The tick in which a SYSTIME lies (R10). -/
def tickOf (t : Nat) : Nat := t / countsPerTick
/-- The tick number of a SYSTIME as SYSTIME_TICK fields of 32 bits carry it. -/
def tick32 (t : Nat) : W32 := BitVec.ofNat 32 (tickOf t)
/-- The first multiple of `m` that is not below `t`. -/
def ceilTo (m t : Nat) : Nat := ((t + m - 1) / m) * m
/-- The first multiple of `m` above `t`. -/
def nextOf (m t : Nat) : Nat := (t / m + 1) * m
/-- The multiple of `m` nearest to `t`, a tie upward (R50). -/
def nearestMul (m : Nat) (t : Int) : Int := ((2 * t + m) / (2 * m)) * m

/-- One bit of CRC-32C, reflected, polynomial 0x82F6_3B78 (R299). -/
def crcBit (c : Nat) : Nat := if c % 2 = 1 then (c / 2) ^^^ 0x82F63B78 else c / 2

/-- One byte of CRC-32C (R299). -/
def crcByte (c : Nat) (b : Byte) : Nat :=
  crcBit (crcBit (crcBit (crcBit (crcBit (crcBit (crcBit (crcBit (c ^^^ b.toNat))))))))

/-- CRC-32C over bytes from a running value. -/
def crcRun : Nat → List Byte → Nat
  | c, [] => c
  | c, b :: rest => crcRun (crcByte c b) rest

/-- CRC-32C: the Castagnoli code, initial value and final exclusive-or 0xFFFF_FFFF (R299). -/
def crc32c (bs : List Byte) : W32 := BitVec.ofNat 32 (crcRun 0xFFFFFFFF bs ^^^ 0xFFFFFFFF)

/-- The least of a list, `d` when it is empty. -/
def minD (d : Nat) : List Nat → Nat
  | [] => d
  | x :: xs => xs.foldl Nat.min x

/-- The greatest of a list, 0 when it is empty. -/
def maxL (xs : List Nat) : Nat := xs.foldl Nat.max 0

end Sys2Proof.Machine
end

