-- ==== Sys2Proof/Machine/ClockState.lean ====
section
/-!
DEFINITION. The state of clocks, synchronisation and system time (02), package and per die.
-/
namespace Sys2Proof.Machine

/-- One synthesizer of a die (02 R56, R57, R64, R472). -/
structure LoopSt where
  /-- lock detector: locked -/
  locked : Bool := false
  /-- on the hold DAC -/
  coasting : Bool := false
  /-- lasting unlock: no attempts until FAULT_CLEAR (R57) -/
  held : Bool := false
  /-- SYSTIME of the last coast entry -/
  coastAt : Nat := 0
  /-- SYSTIME at which a running relock attempt began (R472) -/
  attempt : Option Nat := none
  /-- phase build-out in ps (R64) -/
  buildOut : Int := 0
  deriving DecidableEq, Repr

/-- The stored band-search result of a plan: the band and the die temperature in 0.01 °C (R44). -/
structure BandResult where
  band : Nat
  temp : Int
  deriving DecidableEq, Repr

/-- Where a die stands in a plan hop (R44 to R46, R62, R63). -/
inductive HopPhase where
  /-- no hop in progress -/
  | idle
  /-- locking on the stored band -/
  | stored
  /-- locking after a fresh band search -/
  | search
  /-- locked, waiting for the next plan frame to re-phase -/
  | locked
  /-- the synthesizer coasts: the hop waits for its relock (R62) -/
  | waiting
  /-- the wait ended without a relock (R63): the re-phase still comes when the loop relocks -/
  | incomplete
  deriving DecidableEq, Repr

/-- A die's plan hop. -/
structure HopSt where
  phase : HopPhase := .idle
  /-- the hop used a fresh search -/
  fresh : Bool := false
  /-- the hop waited for the relock of a coasting synthesizer (R62) -/
  late : Bool := false
  /-- commit SYSTIME of the hop -/
  since : Nat := 0
  /-- TEMP2 taken at the commit tick, 0.01 °C (R44) -/
  temp : Int := 0
  /-- SYSTIME of the re-phase -/
  rephasedAt : Nat := 0
  deriving DecidableEq, Repr

/-- The clocks of one die (02 tables of the per-die window). -/
structure DieClk where
  samp : LoopSt := {}
  sys : LoopSt := {}
  aud : LoopSt := {}
  /-- the root is present at the die (R56) -/
  rootPresent : Bool := true
  /-- core clocks on the root, units frozen (R59) -/
  onRoot : Bool := false
  onRootAt : Nat := 0
  /-- R58 mute in force; after the relock it ends at the block boundary named -/
  driftMuted : Bool := false
  mutedAt : Nat := 0
  muteEnds : Option Nat := none
  plan : Nat := 1
  sampDrift : Int := 0
  sysDrift : Int := 0
  /-- replica of SYSTIME (R42) -/
  replica : W64 := 0
  /-- a mismatch was found: the replica is reloaded at this tick boundary (R42) -/
  reloadAt : Option Nat := none
  band0 : Option BandResult := none
  band1 : Option BandResult := none
  band2 : Option BandResult := none
  hop : HopSt := {}
  /-- the last armed edge or reload: the count at which the die's blocks in progress ended, and the count at which the next ones began (R42, R67) -/
  edge : Option (Nat × Nat) := none
  /-- how many of them there were -/
  edges : Nat := 0
  /-- SYSTIME at which the spread modulation last began its period (R47, R50) -/
  spreadFrom : Nat := 0
  deriving DecidableEq, Repr

/-- The loop of a die by name. -/
def DieClk.loop (c : DieClk) : DieLoop → LoopSt
  | .samp => c.samp
  | .sys => c.sys
  | .aud => c.aud

/-- The die's clocks with one loop replaced. -/
def DieClk.setLoop (c : DieClk) (l : DieLoop) (x : LoopSt) : DieClk :=
  match l with
  | .samp => { c with samp := x }
  | .sys => { c with sys := x }
  | .aud => { c with aud := x }

/-- The stored band of a plan (R44). -/
def DieClk.band (c : DieClk) : Nat → Option BandResult
  | 0 => c.band0
  | 1 => c.band1
  | _ => c.band2

/-- The die's clocks with the band result of a plan stored (R44). -/
def DieClk.setBand (c : DieClk) (p : Nat) (b : BandResult) : DieClk :=
  match p with
  | 0 => { c with band0 := some b }
  | 1 => { c with band1 := some b }
  | _ => { c with band2 := some b }

/-- The reference PLL of the anchor die (R56, R64, R65). -/
structure RefSt where
  present : Bool := false
  locked : Bool := false
  coasting : Bool := false
  coastAt : Nat := 0
  attempt : Option Nat := none
  buildOut : Int := 0
  /-- phases of the returns that no relock has followed yet, oldest first (R65) -/
  returned : List Int := []
  /-- returns whose REF_RETURN waits for a PPS edge: the SYSTIME of the relock and the phase, oldest first (R65) -/
  ppsWait : List (Nat × Int) := []
  deriving DecidableEq, Repr

/-- What armed SYNC (R50, R66). -/
inductive SyncArm where
  | none | boot | realign
  deriving DecidableEq, Repr

/-- Wall time given by TIME_SET: TAI seconds at a SYSTIME, and UTC − TAI (R54). -/
structure WallTime where
  ref : Nat
  tai : Nat
  utcTai : Int
  deriving DecidableEq, Repr

/-- Package time, SYNC, PPS and CLK_CTRL (02 "Clock registers"). -/
structure TimeSt where
  systime : W64 := 0
  /-- SYSTIME_HI as the last read of SYSTIME_LO snapped it (R55) -/
  snapHi : W32 := 0
  snapLo : W32 := 0
  armed : SyncArm := .boot
  /-- SYNC_ALIGNED: an armed edge has been taken since reset -/
  aligned : Bool := false
  /-- SYSTIME of the last SYNC edge; 0 if none since reset (R51) -/
  lastSync : Nat := 0
  /-- SYNC_LOST has been raised since the last edge -/
  syncLost : Bool := false
  /-- SYSTIME of the last PPS capture; 0 if none since reset (R54) -/
  lastPps : Nat := 0
  ppsLost : Bool := false
  /-- the last 16 PPS captures, newest first (11 R338) -/
  captures : List Nat := []
  wall : Option WallTime := none
  spreadMode : Nat := 0
  spreadDepth : Nat := 0
  ppsEnable : Bool := false
  ppsFalling : Bool := false
  syncOutEn : Bool := true
  /-- SYNC_SKEW, signed root counts (R52) -/
  syncSkew : Int := 0
  deriving DecidableEq, Repr

end Sys2Proof.Machine
end

