-- ==== Sys2Proof/Machine/MonState.lean ====
section
/-!
DEFINITION. The state of the monitor converters (13), by die.
-/
namespace Sys2Proof.Machine

/-- A sequence entry (13 "staged sequence entry"). -/
structure MonEntry where
  channel : Nat
  acq : Nat
  accEn : Bool
  trk : Nat
  trkEn : Bool
  deriving DecidableEq, Repr

/-- The default of entry `i` (R366). -/
def MonEntry.default (i : Nat) : MonEntry :=
  let trk := if i < 4 then some 0 else if i = 14 then some 1 else if i = 15 then some 2 else none
  ⟨i, 1, true, trk.getD 0, trk.isSome⟩

/-- The staged registers of R365. -/
structure MonCfg where
  lowPower : Bool := false
  align : Bool := false
  diff01 : Bool := false
  diff23 : Bool := false
  seqLast : Nat := 15
  entries : List MonEntry := (List.range 16).map MonEntry.default
  deriving DecidableEq, Repr

/-- The entry `i` of a sequence. -/
def MonCfg.entry (c : MonCfg) (i : Nat) : MonEntry := c.entries.getD i (MonEntry.default i)

/-- An accumulator (R368). -/
structure MonAcc where
  sum : W64 := 0
  count : W32 := 0
  deriving DecidableEq, Repr

/-- A tracker pair (R369). -/
structure MonTrk where
  low : Int := 0
  high : Int := 0
  valid : Bool := false
  deriving DecidableEq, Repr

/-- An injected conversion: what is converted, and the command that waits for it (R367). -/
structure MonInj where
  channel : Nat
  acq : Nat
  testDac : Bool
  dacCode : Nat
  /-- none: the part's own, of TEMP2 at a lock or at the commit tick of a hop (02 R44) -/
  src : Option CmdSrc
  deriving DecidableEq, Repr

/-- The monitor converter of a die (13). -/
structure MonSt where
  run : Bool := true
  staged : MonCfg := {}
  active : MonCfg := {}
  applyPending : Bool := false
  clearPending : Bool := false
  /-- PASS_PERIOD as written, and as in force in this pass (R372) -/
  passPeriod : Nat := 0
  periodNow : Nat := 0
  entry : Nat := 0
  /-- a regular conversion runs, since `convStart` -/
  converting : Bool := true
  convStart : Nat := 0
  /-- RUN was cleared during this conversion: the sequence stops after it (R372) -/
  stopping : Bool := false
  /-- the entry was interrupted and is repeated after the injections (R367) -/
  repeats : Bool := false
  passStart : Nat := 0
  /-- SYSTIME at which the next pass begins -/
  passDue : Option Nat := none
  queue : List MonInj := []
  injStart : Nat := 0
  seqRejected : Bool := false
  paceOverrun : Bool := false
  accs : Tbl MonAcc := Tbl.empty {}
  trks : Tbl MonTrk := Tbl.empty {}
  /-- the sets of the second in progress (R368) -/
  secAccs : Tbl MonAcc := Tbl.empty {}
  secTrks : Tbl MonTrk := Tbl.empty {}
  /-- the record of the last completed second (R307) -/
  latched : List Byte := List.replicate 320 0
  /-- snapshots of SUM_HI and COUNT taken by reads of SUM_LO (R370) -/
  snaps : Tbl (Nat × Nat) := Tbl.empty (0, 0)
  /-- last codes of channels 0 to 3, 16-bit right-aligned (18 R463) -/
  temps : List (Option Int) := [none, none, none, none]
  tempHigh : Bool := false
  /-- MONITOR offset and gain in force before `corrFrom`, those of the coefficients after it (12 R348) -/
  oldOffset : Int := 0
  oldGain : Int := 0
  corrFrom : Nat := 0
  /-- the latch whose telemetry block was formed last (10 R307) -/
  telemetered : Nat := 0
  deriving DecidableEq, Repr

/-- The monitor converters, and the SYSTIME of the last second latch (R368). -/
structure MonsSt where
  dies : Tbl MonSt := Tbl.empty {}
  lastLatch : Nat := 0
  deriving DecidableEq, Repr

end Sys2Proof.Machine
end

