-- ==== Sys2Proof/Machine/IntegState.lean ====
section
/-!
DEFINITION. The state of fault handling and background work (14), of modes, alerts, power domains and pins (17), and the fault log.
-/
namespace Sys2Proof.Machine

/-- One recorded occurrence of a fault class against a unit (14 R378). -/
structure Occ where
  cls : Nat
  unit : UnitRef
  at_ : Nat
  deriving DecidableEq, Repr

/-- A lasting rule: COUNT, and WINDOW in 10 ms units (R379). -/
structure LastRule where
  count : Nat
  window : Nat
  deriving DecidableEq, Repr

/-- A task that is due or overdue, with the SYSTIME at which it became overdue (R387). -/
structure TaskAge where
  task : Task
  overdue : Option Nat
  deriving DecidableEq, Repr

/-- Flash areas of FLASH_FAULT (14 events table). -/
inductive FlashArea where
  | calibration | log | retirement | refresh
  deriving DecidableEq, Repr

/-- The number of an area, in the order listed. -/
def FlashArea.code : FlashArea → Nat
  | .calibration => 0 | .log => 1 | .retirement => 2 | .refresh => 3

/-- One die's memory, flit and check counts (14 die detail). -/
structure DieInteg where
  secCount : W32 := 0
  dedCount : W16 := 0
  passRunning : Bool := false
  passStart : Nat := 0
  passAge : Nat := 0
  lastPassMs : W16 := 0
  passCount : W32 := 0
  flitErrRising : W32 := 0
  flitErrFalling : W32 := 0
  replays : W32 := 0
  descCheckFails : W32 := 0
  deliveryCheckFails : W32 := 0
  lastingDeclared : W32 := 0
  deriving DecidableEq, Repr

/-- An outbound ring link: die × 2, plus 1 for the falling direction (14 R385). -/
structure LinkDir where
  failed : Bool := false
  /-- consecutive flits whose CRC failed, and failures of one replayed flit -/
  badRun : Nat := 0
  replayFails : Nat := 0
  /-- SYSTIME of the failure or the last probe -/
  probeAt : Nat := 0
  /-- the link trained at this SYSTIME and carries test flits -/
  cleanSince : Option Nat := none
  deriving DecidableEq, Repr

/-- Events of one code in the minute in progress: logged, and suppressed (14 R389). -/
structure CodeCount where
  logged : Nat := 0
  suppressed : Nat := 0
  deriving DecidableEq, Repr

/-- Faults and background work (14). -/
structure IntegSt where
  occs : List Occ := []
  rules : List LastRule := [⟨3, 6000⟩, ⟨4, 100⟩, ⟨2, 1000⟩, ⟨2, 1000⟩, ⟨2, 1000⟩, ⟨16, 100⟩, ⟨3, 1000⟩]
  /-- the summary as last reported (R386) -/
  summary : Nat := 0
  lastChange : Nat := 0
  lastingTotal : W32 := 0
  windowPeak : Tbl Nat := Tbl.empty 0
  fenced : List Nat := []
  haltCause : Nat := 0
  dies : Tbl DieInteg := Tbl.empty {}
  links : Tbl LinkDir := Tbl.empty {}
  tasks : List TaskAge := []
  flashFaults : List FlashArea := []
  /-- arrays (die × 112 + array) with no spare row left (R382) -/
  exhausted : List Nat := []
  /-- fault-log entries that wait to be written, oldest first (R389) -/
  logWaiting : List Ev := []
  codeCounts : Tbl CodeCount := Tbl.empty {}
  /-- self-test failures that are reported at IDLE: die, and 0 lockstep, 1 memory, 2 datapath, 3 ring (17 R449) -/
  selfTest : List (Nat × Nat) := []
  deriving DecidableEq, Repr

/-- A fault-log entry in flash (14 R389). -/
structure LogEntry where
  num : W32
  boot : W32
  tai : Nat
  ev : Ev
  deriving DecidableEq, Repr

/-- Why a mode changed, in the order of MODE_CHANGED (17 events table). -/
inductive ModeCause where
  | command | mailbox | alert | degradation | holdover | update | fault
  /-- the end of boot, for which the list has no cause: its number is a free value -/
  | unstated (n : Nat)
  deriving DecidableEq, Repr

/-- The number of a cause, counted from 0 in the order listed. -/
def ModeCause.code : ModeCause → Nat
  | .command => 0 | .mailbox => 1 | .alert => 2 | .degradation => 3 | .holdover => 4 | .update => 5 | .fault => 6 | .unstated n => n

/-- A mode change in progress (17 R438 to R440): target, tick, cause, and the command that waits for it. -/
structure ModeChange where
  target : OpMode
  tick : Nat
  cause : ModeCause
  src : Option CmdSrc
  deriving DecidableEq, Repr

/-- An alert condition in force (17 R442): PTY 31 or TA of a watch tap, an alarm of an engine position. -/
inductive AlertCond where
  | pty31 (w : Nat)
  | ta (w : Nat)
  | dab (e p : Nat)
  | drm (e p : Nat)
  deriving DecidableEq, Repr

/-- Modes and alerts (17 registers at 0x0_0900). -/
structure ModeSt where
  mode : OpMode := .boot
  prev : OpMode := .off
  bootPhase : Nat := 0
  change : Option ModeChange := none
  autoRun : Bool := false
  alertPty31 : Bool := true
  alertTa : Bool := true
  alertDab : Bool := true
  alertDrm : Bool := true
  alertInRun : Bool := false
  /-- conditions in force -/
  alerts : List AlertCond := []
  alertLatched : Bool := false
  wakeLatched : Bool := false
  lastSource : Nat := 0
  lastIndex : Nat := 0
  lastPosition : Nat := 0
  alertCount : W32 := 0
  /-- die 0's CONTROL clocks run in SLEEP (R445) -/
  clocksRun : Bool := true
  lastAccess : Nat := 0
  /-- in SLEEP: the dies' fault detail sent to the anchor die on entry, SCOPE 1 records in die order (R445) -/
  sleepDetail : List (List Byte) := []
  deriving DecidableEq, Repr

/-- The power domains of a die: masks of 14 bits (17 R433, registers at 0x3700). -/
structure DomainSt where
  on : Nat := 0
  ready : Nat := 0
  /-- ramp ended, comparators armed (R435) -/
  armed : Nat := 0
  tripped : Nat := 0
  /-- SYSTIME at which each domain was last switched on, or will be (R435) -/
  onAt : List Nat := List.replicate 14 0
  deriving DecidableEq, Repr

/-- The straps and pins (17 R447). -/
structure PinSt where
  perstHigh : Bool := true
  suppliesPresent : Bool := true
  refsel : Bool := false
  syncpos : Nat := 0
  mbAddr : Nat := 0
  deriving DecidableEq, Repr

end Sys2Proof.Machine
end

