-- ==== Sys2Proof/Machine/NvState.lean ====
section
/-!
DEFINITION. What package flash and OTP hold: it survives reset and loss of the supplies (14 R381, R389).
-/
namespace Sys2Proof.Machine

/-- A firmware slot: valid, and the image's bytes (15 R395, R399). -/
structure ImageSlot where
  valid : Bool := false
  image : List Byte := []
  deriving DecidableEq, Repr

/-- What OTP and flash hold for security (15 R394, R395, R409). -/
structure NvSec where
  slotA : ImageSlot := {}
  slotB : ImageSlot := {}
  /-- the boot record: its sequence number, the preferred slot, failed boots of A and B (R395) -/
  bootSeq : W32 := 0
  preferB : Bool := false
  failsA : Nat := 0
  failsB : Nat := 0
  vendorHash : List Byte := List.replicate 32 0
  ownerHash : Option (List Byte) := none
  /-- the bits of the anti-rollback counter (R394) -/
  rollbackBits : W64 := 0
  serial : W64 := 0
  identityPub : List Byte := List.replicate 64 0
  identityCert : List Byte := []
  checkpoint : Option SealRef := none
  /-- the slot that an update in progress has left invalid, B if true (R399) -/
  updating : Option Bool := none
  deriving DecidableEq, Repr

/-- The value of the anti-rollback counter: the number of its bits that are set (R394). -/
def NvSec.rollback (v : NvSec) : Nat := ((List.range 64).filter v.rollbackBits.getLsbD).length

/-- Flash and OTP. -/
structure NvSt where
  /-- retirement record, in the order of retirement (14 R381) -/
  retired : List UnitRef := []
  /-- per cluster, the position its spare carries permanently (05 R163) -/
  replaced : Tbl (Option Nat) := Tbl.empty none
  /-- per die, the band tap or export tap the audit tap carries permanently (04 R134) -/
  auditCarries : Tbl (Option UnitRef) := Tbl.empty none
  /-- per engine index (global), the physical engine of its die behind it, when not its own (06 R194) -/
  engineMap : Tbl (Option Nat) := Tbl.empty none
  /-- spare rows left per array (die × 112 + array) (14 R382) -/
  spareRows : Tbl Nat := Tbl.empty 4
  /-- remapped rows: die, array, row -/
  remapped : List (Nat × Nat × Nat) := []
  /-- calibration slots A and B, and the factory record (12 R355, R356) -/
  calA : CalSlot := {}
  calB : CalSlot := {}
  factory : CalSnap := {}
  log : List LogEntry := []
  logNext : W32 := 0
  bootNum : W32 := 1
  sec : NvSec := {}
  deriving DecidableEq, Repr

end Sys2Proof.Machine
end

