-- ==== Sys2Proof/Machine/PortState.lean ====
section
/-!
DEFINITION. The state of the audio ports and of their external clocks (09).
-/
namespace Sys2Proof.Machine

/-- STATE of a port (09 "Port registers"). -/
inductive PortPhase where
  | stopped | preRoll | running | postRoll | frozen | stoppedRate | reconfiguring | awaitingClock
  deriving DecidableEq, Repr

/-- The code of a phase. -/
def PortPhase.code : PortPhase → Nat
  | .stopped => 0 | .preRoll => 1 | .running => 2 | .postRoll => 3 | .frozen => 4 | .stoppedRate => 5 | .reconfiguring => 6
  | .awaitingClock => 7

/-- The phases in which the bit clock runs. -/
def PortPhase.clocked : PortPhase → Bool
  | .preRoll | .running | .postRoll | .reconfiguring => true
  | _ => false

/-- The phases in which a port is stopped (R265, R273). -/
def PortPhase.isStopped : PortPhase → Bool
  | .stopped | .stoppedRate => true
  | _ => false

/-- Why a port stopped, in the order in which R265, R273 and R275 name the reasons. -/
inductive PortReason where
  | command | postRollCut | rate | fence
  deriving DecidableEq, Repr

/-- The number of a reason. -/
def PortReason.code : PortReason → Nat
  | .command => 0 | .postRollCut => 1 | .rate => 2 | .fence => 3

/-- A span of SYSTIME, open while it has no end. -/
structure TimeSpan where
  start : Nat
  stop : Option Nat
  deriving DecidableEq, Repr

/-- A run of frames filled for want of content: its first grid instant and its length so far (R261). -/
structure FrameRun where
  first : Nat
  count : Nat
  deriving DecidableEq, Repr

/-- A stuck input line and the span in which it is stuck (R270). -/
structure StuckLine where
  line : Nat
  span : TimeSpan
  deriving DecidableEq, Repr

/-- A channel's modulator: its five internal states, and the last samples at its interpolator, newest first (R259). -/
structure Modulator where
  states : List Int := [0, 0, 0, 0, 0]
  inputs : List Int := []
  deriving DecidableEq, Repr

/-- One port (09 "Port registers"). -/
structure PortSt where
  phase : PortPhase := .stopped
  /-- parameters in force (R257) -/
  entry : PortEntry := { glitchWidth := 4, preRoll := 64, postRoll := 64 }
  /-- AMCLK_NOM in force, which an automatic rate change moves (R273) -/
  nom : Nat := 1
  onFollower : Bool := false
  locked : Bool := false
  atLimit : Bool := false
  /-- the alignment error has been within ±5 µs since (R254) -/
  goodSince : Option Nat := none
  fifoLevel : Nat := 0
  rateCorr : Int := 0
  /-- sum of the alignment errors, in counts (R254) -/
  errSum : Int := 0
  filled : W32 := 0
  discarded : W32 := 0
  slips : W16 := 0
  /-- B of the last start or resume, as SYSTIME (R264) -/
  dataStart : Nat := 0
  /-- T_s, T_p of commands that wait (R264, R265) -/
  startAt : Option Nat := none
  stopAt : Option Nat := none
  /-- the pre-roll follows a freeze: PORT_RESUMED comes in place of PORT_STARTED (R273) -/
  resuming : Bool := false
  /-- B_p and the end of the post-roll (R265) -/
  stopFrom : Nat := 0
  postEnd : Nat := 0
  /-- the divider to take at the next block boundary, the phase to return to, and the SYSTIME of the change (R273) -/
  switchTo : Option (Nat × PortPhase × Nat) := none
  /-- MASK in force, and a committed one with the SYSTIME from whose content it applies (R258) -/
  mask : Nat := 0
  nextMask : Option (Nat × Nat) := none
  /-- frames to insert at the next frame starts: slips and armed edges (R255, R274) -/
  fillLeft : Nat := 0
  underrun : Option FrameRun := none
  /-- faulty output lines (bit 8: the clock) and their clean frames since (R263) -/
  lineFault : Nat := 0
  cleanFrames : List Nat := List.replicate 9 0
  /-- the channels' modulators of an output port (R259) -/
  mods : List Modulator := List.replicate 16 {}
  /-- levels of the input lines at the end of the last frame (R270) -/
  levels : List Bool := List.replicate 4 false
  /-- input lines: frames without a transition, and stuck spans (R270) -/
  quietFrames : List Nat := List.replicate 4 0
  stuck : List StuckLine := []
  /-- SYSTIME of the next input block to be formed (R269) -/
  nextBlock : Nat := 0
  /-- a block that an armed edge ended: its start, and the edge on the old count (02 R67) -/
  cut : Option (Nat × Nat) := none
  /-- spans in which input samples are suppressed, in which the follower is unlocked, and grid instants of inserted frames (R268, R256, R255) -/
  suppressed : List TimeSpan := []
  unlocked : List TimeSpan := []
  inserted : List Nat := []
  deriving DecidableEq, Repr

/-- The external clock of a die (R272). -/
structure AmclkSt where
  qualified : Bool := false
  qualifiedAt : Nat := 0
  /-- it ran and stopped -/
  stopped : Bool := false
  freq : Nat := 0
  /-- consecutive blocks out of tolerance -/
  outRun : Nat := 0
  glitches : W16 := 0
  stops : W16 := 0
  deriving DecidableEq, Repr

/-- Ports by `PortId.key` and external clocks by die. -/
structure PortsSt where
  ports : Tbl PortSt := Tbl.empty {}
  amclks : Tbl AmclkSt := Tbl.empty {}
  deriving DecidableEq, Repr

/-- The key of a port: output ports 0 to 7, input ports 8 to 11. -/
def PortId.key : PortId → Nat
  | .out d => d
  | .inp d => 8 + d

/-- The die of a port. -/
def PortId.die : PortId → Nat
  | .out d | .inp d => d

/-- The port is an input port. -/
def PortId.isInput : PortId → Bool
  | .out _ => false
  | .inp _ => true

/-- The word that names a port in an event: PORT and INPUT as STAGE_PORT lays them out (11 R335). -/
def PortId.word (p : PortId) : Nat := p.die + if p.isInput then 256 else 0

end Sys2Proof.Machine
end

