-- ==== Sys2Proof/Machine/State.lean ====
section
/-!
DEFINITION. The state of the block, as plain data, and its reset state.
-/
namespace Sys2Proof.Machine

/-- Antenna inputs, courses and converters (03), by course j and by converter index die × 2 + x. -/
structure FrontSt where
  courses : Tbl Course := Tbl.empty {}
  convs : Tbl Converter := Tbl.empty {}
  deriving DecidableEq, Repr

/-- Band taps by cluster, audit taps by die, export taps by die × 16 + i, chains by lane, by cluster (spares) and by watch tap (04). -/
structure TapSt where
  bandTaps : Tbl BandTap := Tbl.empty {}
  audits : Tbl AuditTap := Tbl.empty {}
  exports : Tbl ExportTap := Tbl.empty {}
  lanes : Tbl Chain := Tbl.empty {}
  spares : Tbl Chain := Tbl.empty {}
  watches : Tbl Chain := Tbl.empty {}
  /-- what each lane under calibration runs meanwhile: the tone, then its station again (05 R164), by lane -/
  tones : Tbl Chain := Tbl.empty {}
  /-- the segment of each cluster: its disturbances and what its band tap ran (R121) -/
  segments : Tbl Chain := Tbl.empty {}
  deriving DecidableEq, Repr

/-- Demodulators by lane, spares by cluster, watch taps (05). -/
structure LaneSt where
  demods : Tbl Demod := Tbl.empty {}
  spares : Tbl SpareSt := Tbl.empty {}
  watches : Tbl WatchSt := Tbl.empty {}
  deriving DecidableEq, Repr

/-- The reset contents of a configuration set (11 R320): everything OFF, NONE or disabled, no routes, 1.600 GS/s, pass-through filters, port defaults of 09 R257. -/
def ConfigSet.initial : ConfigSet where
  plan := 1
  courses := Tbl.empty {}
  routes := Tbl.empty {}
  clusters := Tbl.empty {}
  watches := Tbl.empty {}
  lanes := Tbl.empty {}
  engines := Tbl.empty {}
  slots := Tbl.empty {}
  outPorts := Tbl.empty { glitchWidth := 4, preRoll := 64, postRoll := 64 }
  inPorts := Tbl.empty { glitchWidth := 4, preRoll := 64, postRoll := 64, lineMask := 15 }
  follows := Tbl.empty {}
  filters := Tbl.empty {}

/-- Whose blocks carry CLOCK_SUSPECT and why: a coasting reference PLL (the package), no armed SYNC edge yet (the package), a coasting sampling clock (streams drawing on the die's converters), a coasting system clock (the die's units), a replica that disagrees (the die's streams) (02 R42, R51, R56). -/
inductive SuspectScope where
  | refCoast
  | unaligned
  | convs (d : Nat)
  | units (d : Nat)
  | replica (d : Nat)
  /-- the die's core clocks run on the root and its units are frozen (02 R59) -/
  | frozen (d : Nat)
  deriving DecidableEq, Repr

/-- A span in which blocks carry CLOCK_SUSPECT, or, with no scope, in which the HOLDOVER condition holds (R56, R57). -/
structure ClockSpan where
  scope : Option SuspectScope
  start : Nat
  stop : Option Nat
  deriving DecidableEq, Repr

/-- The configuration sets (11 R320) and the commit that waits. `active` is the active set with what the follow sets have set of their members (07 R200); `committed` is the active set as it was committed. -/
structure CfgSt where
  active : ConfigSet := ConfigSet.initial
  committed : ConfigSet := ConfigSet.initial
  shadow : ConfigSet := ConfigSet.initial
  commit : Option PendingCommit := none
  /-- COMMITs that have swapped and wait for plan hops, oldest first (11 R326) -/
  hopping : List PendingCommit := []
  deriving DecidableEq, Repr

/-- Follow sets, slots and decode contexts by global index (07, 08). -/
structure AudioSt where
  follows : Tbl FollowSt := Tbl.empty {}
  slots : Tbl SlotSt := Tbl.empty {}
  contexts : Tbl ContextSt := Tbl.empty {}
  deriving DecidableEq, Repr

/-- The state of one package. A field's default is its reset value: the one the manual states, or one that notes/assumptions/11.md names. -/
structure State where
  /-- which part of the family (00 R1) -/
  part : Part := .pd8256
  /-- straps and pins (17 R447) -/
  pins : PinSt := {}
  /-- SYSTIME, SYNC, PPS and CLK_CTRL (02) -/
  time : TimeSt := {}
  /-- the reference PLL (02 R56, R64) -/
  ref : RefSt := {}
  /-- clocks by die (02) -/
  clk : Tbl DieClk := Tbl.empty {}
  /-- spans of CLOCK_SUSPECT and of the HOLDOVER condition (02 R51, R56, R57); reset begins one that the first armed SYNC edge ends -/
  spans : List ClockSpan := [⟨some .unaligned, 0, none⟩]
  /-- antenna inputs, courses and converters (03) -/
  front : FrontSt := {}
  /-- band taps, chains and audit taps (04) -/
  taps : TapSt := {}
  /-- demodulators, spare lanes and watch taps (05) -/
  lanes : LaneSt := {}
  /-- OFDM engines (06) -/
  ofdm : OfdmSt := {}
  /-- follow sets, programme slots and decode contexts (07, 08) -/
  audio : AudioSt := {}
  /-- PDM ports (09) -/
  ports : PortsSt := {}
  /-- the host link, its rings and events, and what the block has sent (10) -/
  link : LinkSt := {}
  /-- configuration sets and COMMITs (11) -/
  cfg : CfgSt := {}
  /-- calibration (12) -/
  cal : CalSt := {}
  /-- monitor converters (13) -/
  mon : MonsSt := {}
  /-- faults, occurrences, background tasks (14) -/
  integ : IntegSt := {}
  /-- mode, alerts, the clocks of SLEEP (17) -/
  mode : ModeSt := {}
  /-- power domains by die (17 R433 to R436) -/
  domains : Tbl DomainSt := Tbl.empty {}
  /-- the management bus and the mailbox (16) -/
  mb : MbSt := {}
  /-- security of this boot, hallmark records (15) -/
  sec : SecSt := {}
  /-- what package flash and OTP hold (14, 15); reset leaves it alone -/
  nv : NvSt := {}
  /-- the model's own: how many free values have been drawn (notes/assumptions/8.md) -/
  freeCount : Nat := 0
  /-- the model's own: the commands that wait, first in, first out -/
  pending : List Instr := []
  deriving DecidableEq, Repr

/-- What stops the block with a fault: nothing. Faults of the hardware are states (HALTED, a fenced die), and no access of the manual ends in none. -/
inductive Fault where
  deriving DecidableEq, Repr

/-- What the model refuses. -/
inductive Refusal where
  /-- A command that has no meaning yet, by its mnemonic: raised by no arm, since every row has its meaning. Safe. -/
  | notModelled (mnemonic : String)
  deriving DecidableEq, Repr

/-- The block right after the release of PERST_N, with the straps of `PinSt`, before anything has happened: mode BOOT, every register at its reset value. -/
def State.reset : State := {}

end Sys2Proof.Machine
end

