-- ==== Sys2Proof/Machine/Flags.lean ====
section
/-!
DEFINITION. Where units lie (00 R5, R6), what the state derives: leaders, retirements, the HOLDOVER condition, the fault summary (14 R386), and the flags of blocks and samples (10 R301).
-/
namespace Sys2Proof.Machine

/-! ### Indices -/

/-- SYSTIME as a count. -/
def State.now (s : State) : Nat := s.time.systime.toNat
/-- The number of populated dies (R1). -/
def State.dies (s : State) : Nat := s.part.dies
/-- A die that is populated and not fenced (R36). -/
def State.dieUp (s : State) (d : Nat) : Bool := decide (d < s.dies) && !s.integ.fenced.contains d
/-- A die whose units run: up, and not frozen on the root (02 R59). -/
def State.dieRuns (s : State) (d : Nat) : Bool := s.dieUp d && !(s.clk.get d).onRoot
/-- A die that its ring neighbours route around: its ring node is unpowered, or its core clocks are on the root (01 R33, 02 R59). -/
def State.nodeLost (s : State) (d : Nat) : Bool := (s.clk.get d).onRoot || !maskBit (s.domains.get d).ready 1

/-- The converter of course `j` named `x` (0 A, 1 B): A on die j, B on die (j + 1) mod N (R6). -/
def State.convOf (s : State) (j x : Nat) : Nat := if x = 0 then j * 2 else ((j + 1) % s.dies) * 2 + 1
/-- The course of a converter (R6). -/
def State.courseOf (s : State) (k : Nat) : Nat := if k % 2 = 0 then k / 2 else (k / 2 + s.dies - 1) % s.dies
/-- The die on which a course's leader sits, if it has one. -/
def State.leaderDie (s : State) (j : Nat) : Option Nat := (s.front.courses.get j).leader.map fun x => s.convOf j x / 2
/-- The cluster of a lane, and of a watch tap (R5). -/
def laneCluster (l : Nat) : Nat := l / 8
def watchCluster (w : Nat) : Nat := w / 16
/-- The die of a lane, a cluster, a watch tap, an engine, a slot, a context, a follow set (R5). -/
def laneDie (l : Nat) : Nat := l / 32
def clusterDie (c : Nat) : Nat := c / 4
def watchDie (w : Nat) : Nat := w / 64
def engineDie (e : Nat) : Nat := e / 4
def slotDie (x : Nat) : Nat := x / 64
def contextDie (k : Nat) : Nat := k / 48
def followDie (f : Nat) : Nat := f / 16

/-- The die and the number with which a chain's events carry it: 0 lane, 1 watch tap. -/
def Rx.die : Rx → Nat
  | .lane i => laneDie i
  | .watch w => watchDie w
def Rx.kind : Rx → Nat
  | .lane _ => 0
  | .watch _ => 1
def Rx.index : Rx → Nat
  | .lane i => i
  | .watch w => w

/-- The links from die `a` to die `b`, rising or falling: die × 2, plus 1 falling (01 R21). -/
def risingPath (n a b : Nat) : List Nat := (List.range ((b + n - a) % n)).map fun i => (a + i) % n * 2
def fallingPath (n a b : Nat) : List Nat := (List.range ((a + n - b) % n)).map fun i => (a + n - i) % n * 2 + 1

/-- The path of traffic: the shorter direction, rising when equal; the other way where it meets a dead link (01 R21, R23). -/
def ringPath (n a b : Nat) (dead : List Nat) : List Nat :=
  let up := risingPath n a b
  let down := fallingPath n a b
  let clear := fun (p : List Nat) => !p.any dead.contains
  if up.length ≤ down.length then (if clear up then up else if clear down then down else [])
  else if clear down then down else if clear up then up else []

/-- The links that traffic of die `d` cannot use: failed ones, and those that leave another die that the ring routes around (01 R23, R33, 02 R59). -/
def State.deadLinks (s : State) (d : Nat) : List Nat :=
  (List.range (2 * s.dies)).filter fun i => (s.integ.links.get i).failed || (i / 2 != d && s.nodeLost (i / 2))

/-- The links that delivery traffic of die `d` takes to the anchor (01 R21, R23). -/
def State.deliveryPath (s : State) (d : Nat) : List Nat := ringPath s.dies d 0 (s.deadLinks d)

/-! ### Units -/

/-- A unit in the retirement record (14 R381). -/
def State.retired (s : State) (u : UnitRef) : Bool := s.nv.retired.contains u
def laneRef (l : Nat) : UnitRef := ⟨.lane, laneDie l, l % 32, 0⟩
def spareRef (c : Nat) : UnitRef := ⟨.spare, clusterDie c, c % 4, 0⟩
def bandTapRef (c : Nat) : UnitRef := ⟨.bandTap, clusterDie c, c % 4, 0⟩
def exportRef (i : Nat) : UnitRef := ⟨.exportTap, i / 16, i % 16, 0⟩
def auditRef (d : Nat) : UnitRef := ⟨.audit, d, 0, 0⟩
def convRef (k : Nat) : UnitRef := ⟨.converter, k / 2, k % 2, 0⟩
def sliceRef (k i : Nat) : UnitRef := ⟨.slice, k / 2, k % 2, i⟩
def engineRef (d p : Nat) : UnitRef := ⟨.engine, d, p, 0⟩
def contextRef (k : Nat) : UnitRef := ⟨.context, contextDie k, k % 48, 0⟩
def slotRef (x : Nat) : UnitRef := ⟨.slot, slotDie x, x % 64, 0⟩
def watchRef (w : Nat) : UnitRef := ⟨.watchTap, watchDie w, w % 64, 0⟩
def linkLaneRef (d dir lane : Nat) : UnitRef := ⟨.linkLane, d, dir, lane⟩
def loopRef (d : Nat) (l : DieLoop) : UnitRef := ⟨.clockLoop, d, 0, l.code⟩
def wordRef (d w : Nat) : UnitRef := ⟨.sramWord, d, w, 0⟩

/-- The position a cluster's spare carries permanently (05 R163). -/
def State.replacedPos (s : State) (c : Nat) : Option Nat := s.nv.replaced.get c
/-- A cluster without assay: its spare carries a lane or is retired (01 R30). -/
def State.unassayed (s : State) (c : Nat) : Bool := (s.replacedPos c).isSome || s.retired (spareRef c)
/-- The cluster is under HOLD cover, selected or forced (00 R9, 05 R163). -/
def State.holdCover (s : State) (c : Nat) : Bool := (s.cfg.active.clusters.get c).holdCover || s.unassayed c
/-- A lane index whose unit is the spare, covering or replacing (05 R163, R164). -/
def State.spareDelivers (s : State) (l : Nat) : Bool :=
  s.replacedPos (laneCluster l) == some (l % 8)
  || (match (s.lanes.spares.get (laneCluster l)).cover with
      | some c => !c.hold && c.pos == l % 8
      | none => false)
/-- A cover span of a lane index that meets [t0, t1). -/
def State.coverSpanIn (s : State) (hold : Bool) (l t0 t1 : Nat) : Bool :=
  (s.lanes.spares.get (laneCluster l)).log.any fun v => v.hold == hold && v.pos == l % 8 && decide (v.start < t1) && (match v.stop with
    | some e => decide (t0 < e)
    | none => true)
/-- The spare delivers under the index somewhere in [t0, t1): COVERED (05 R163, R164). -/
def State.coveredIn (s : State) (l t0 t1 : Nat) : Bool := s.coverSpanIn false l t0 t1
/-- The index is under HOLD cover somewhere in [t0, t1): STALE (00 R9). -/
def State.heldIn (s : State) (l t0 t1 : Nat) : Bool := s.coverSpanIn true l t0 t1
/-- A cover span begins at `t`, and the open ones of a position end there; those older than 5 s are dropped. -/
def SpareSt.endCover (x : SpareSt) (pos t : Nat) : SpareSt :=
  { x with log := x.log.map fun v => if v.pos = pos && v.stop.isNone then { v with stop := some t } else v }
def SpareSt.beginCover (x : SpareSt) (pos : Nat) (hold : Bool) (t : Nat) : SpareSt :=
  let y := x.endCover pos t
  { y with log := ⟨pos, hold, t, none⟩ :: (y.log.filter fun v => match v.stop with
      | some e => decide (t < e + 500000000)
      | none => true) }
/-- A rotation is over and the next has not begun (01 R29); the step on position 7 has run its 100 ms. -/
def SpareSt.betweenRotations (x : SpareSt) (now : Nat) : Bool :=
  match x.assay with
  | none => x.nextAssay == 0
  | some a => x.nextAssay == 0 && decide (a.start + 10000000 ≤ now) && !a.testing
/-- A lane index with no unit behind it: the lane is retired and no spare carries it (05 R163). -/
def State.laneDead (s : State) (l : Nat) : Bool :=
  s.retired (laneRef l) && s.replacedPos (laneCluster l) != some (l % 8)
/-- A band tap with no unit behind it: retired, and the audit tap does not carry it (04 R134). -/
def State.tapDead (s : State) (c : Nat) : Bool :=
  s.retired (bandTapRef c) && s.nv.auditCarries.get (clusterDie c) != some (bandTapRef c)
/-- The engine index of a die's physical engine and the physical engine behind an index (06 R194). -/
def State.physEngine (s : State) (e : Nat) : Nat := (s.nv.engineMap.get e).getD (e % 4)

/-- Work left undecoded: a configured index behind which a retired engine stands (06 R194). -/
def State.engineUnserved (s : State) (e : Nat) : Bool :=
  (s.cfg.active.engines.get e).cls != .off && s.retired (engineRef (engineDie e) (s.physEngine e))

/-- A level measurement is in progress on a course (12 R345, 03 R96). -/
def State.levelMeasuring (s : State) (n : Nat) : Bool := (s.cal.steps.get n).isSome

/-- The mute of R58 is in force at SYSTIME `t`. -/
def DieClk.mutedNow (c : DieClk) (t : Nat) : Bool :=
  c.driftMuted && decide (c.mutedAt ≤ t) && (match c.muteEnds with
    | some e => decide (t < e)
    | none => true)

/-- PPS_PRESENT: a PPS edge within the last 1.5 s (02 CLK_STAT). -/
def State.ppsPresent (s : State) : Bool := s.time.lastPps != 0 && decide (s.now < s.time.lastPps + 150000000)

/-! ### The HOLDOVER condition and the fault summary -/

/-- Some loop of a die is held (02 R57). -/
def DieClk.anyHeld (c : DieClk) : Bool := c.samp.held || c.sys.held || c.aud.held

/-- The HOLDOVER condition: the reference PLL coasts, or some loop's unlock is lasting (R57). -/
def State.holdoverCond (s : State) : Bool :=
  s.ref.coasting || (List.range s.dies).any fun d => (s.clk.get d).anyHeld

/-- The bits of the fault summary that belong to one die (14 R386, R391). -/
def State.dieSummary (s : State) (d : Nat) : List Nat :=
  let up := decide (d < s.dies)
  let clk := s.clk.get d
  let course := s.front.courses.get d
  let clusters := (List.range 4).map (d * 4 + ·)
  let convs := [d * 2, d * 2 + 1]
  if !up then [] else
  (if clk.anyHeld then [1, 15] else [])
  ++ (if s.integ.fenced.contains d then [2] else [])
  ++ (if (s.integ.links.get (d * 2)).failed || (s.integ.links.get (d * 2 + 1)).failed then [3] else [])
  ++ (if s.nv.retired.any (fun u => u.kind = .linkLane && u.die == d) then [4] else [])
  ++ (if s.mode.mode.receiving && course.mode = .duplex && course.leader.isSome
        && (match course.leader with
            | some x => (s.front.convs.get (s.convOf d (1 - x))).failed || s.integ.fenced.contains (s.convOf d (1 - x) / 2)
            | none => false) then [5] else [])
  ++ (if course.lost then [6] else [])
  ++ (if course.contested then [7] else [])
  ++ (if convs.any (fun k => (s.front.convs.get k).spareSlice.isNone) then [8] else [])
  ++ (if clusters.any s.unassayed then [9] else [])
  ++ (if (s.nv.auditCarries.get d).isSome || s.retired (auditRef d) then [10] else [])
  ++ (if s.nv.retired.any (fun u => u.kind = .engine && u.die == d) then [11] else [])
  ++ (if s.mode.mode.receiving && (List.range 4).any (fun i => s.engineUnserved (d * 4 + i)) then [12] else [])
  ++ (if s.nv.retired.any (fun u => (u.kind = .slot || u.kind = .context || u.kind = .watchTap || u.kind = .exportTap) && u.die == d)
        then [13] else [])
  ++ (if s.integ.exhausted.any (fun a => a / 112 == d) then [14] else [])
  ++ (if clk.reloadAt.isSome then [19] else [])

/-- The D bits: the degradation conditions (R386). -/
def degradedBits : List Nat := [2, 3, 4, 5, 6, 8, 9, 10, 11, 12, 13, 14]

/-- The bits set in the fault summary but bit 0 (R386). -/
def State.summaryBits (s : State) : List Nat :=
  (List.range s.dies).flatMap s.dieSummary
  ++ (if s.holdoverCond then [1] else [])
  ++ (if s.integ.tasks.any (·.overdue.isSome) then [16] else [])
  ++ (if s.cal.suspect then [17] else [])
  ++ (if s.integ.flashFaults.isEmpty then [] else [18])

/-- Some D bit is set (R386). -/
def State.degraded (s : State) : Bool := s.summaryBits.any degradedBits.contains

/-- A mask from the list of its bits. -/
def bitsMask (bs : List Nat) : Nat := maskOf 32 fun i => bs.contains i

/-- The 32-bit fault summary (R386). -/
def State.faultSummary (s : State) : Nat := bitsMask (s.summaryBits ++ if s.degraded then [0] else [])

/-- DIE_SUMMARY: the bits of R386 that belong to a die (R391). -/
def State.dieSummaryMask (s : State) (d : Nat) : Nat :=
  let bs := s.dieSummary d
  bitsMask (bs ++ if bs.any degradedBits.contains then [0] else [])

/-! ### Header flags (10 R301) -/

def flSuppressed : Nat := 0x1
def flSaturated : Nat := 0x2
def flStale : Nat := 0x4
def flSuspect : Nat := 0x8
def flLate : Nat := 0x10
def flFill : Nat := 0x20
def flNonAudio : Nat := 0x40
def flMuted : Nat := 0x80
def flCovered : Nat := 0x100
def flGap : Nat := 0x200
def flHoldover : Nat := 0x400

/-- The flag where the condition holds. -/
def flagIf (c : Bool) (f : Nat) : Nat := if c then f else 0

/-- A span of time that meets [t0, t1). -/
def ClockSpan.meets (x : ClockSpan) (t0 t1 : Nat) : Bool :=
  decide (x.start < t1) && (match x.stop with
    | some e => decide (t0 ≤ e)
    | none => true)

/-- CLOCK_SUSPECT and HOLDOVER of a block over [t0, t1) of units on die `d` that draws on converters of `src` (02 R51, R56, R57, 01 R35). -/
def State.clockFlags (s : State) (d : Nat) (src : List Nat) (t0 t1 : Nat) : Nat :=
  let suspect := s.spans.any fun x => x.meets t0 t1 && (match x.scope with
    | some .refCoast | some .unaligned => true
    | some (.units e) | some (.replica e) | some (.frozen e) => e == d
    | some (.convs e) => src.contains e
    | none => false)
  let hold := s.spans.any fun x => x.scope = none && x.meets t0 (t0 + 1)
  flagIf suspect flSuspect + flagIf hold flHoldover

/-- Units of die `d` were frozen somewhere in [t0, t1): their blocks are flagged SUPPRESSED (02 R59). -/
def State.frozenIn (s : State) (d t0 t1 : Nat) : Bool := s.spans.any fun x => x.scope = some (.frozen d) && x.meets t0 t1

/-! ### Blocks and armed edges (02 R42, R67) -/

/-- Where the block of a die's streams that begins at `t0` ends: at the next multiple of 200,000 counts, or, of the count before the last armed edge or reload (`old`), at that edge. None: no block begins there. The first block after an edge begins at the designated value and, where that is no multiple, has the samples up to the next one and zeros for the rest: DESIGN CHOICE (notes/assumptions/51.md). -/
def State.blockEnd (s : State) (d t0 : Nat) (old : Bool) : Option Nat :=
  let full := nextOf countsPerBlock t0
  let grid := decide (t0 % countsPerBlock = 0)
  match (s.clk.get d).edge with
  | some (o, v) =>
    if old then (if decide (t0 < o) && grid then some (min o full) else none)
    else if decide (t0 = v) || (grid && decide (v ≤ t0)) then some full else none
  | none => if !old && grid then some full else none

/-- The chains as they stood when the last armed edge or reload ended their blocks. -/
def Chain.beforeEdge (c : Chain) : Chain := { c with disturbs := c.pastDisturbs, tunes := c.pastTunes }

/-! ### Suppression (04 R121 to R124) -/

/-- H_bt in converter samples for a segment of n halvings: 16.25 × 2^n − 5 (R123). -/
def halfBt (n : Nat) : Nat := 65 * 2 ^ n / 4 - 5

/-- H_lane in converter samples for n halvings of the band tap and m of the intermediate rate (R123). -/
def halfLane (n m : Nat) : Nat :=
  let u := 2 ^ m
  let h := m - n
  if h = 0 then 63 * u / 2 else if h = 1 then 43 * u else if h = 2 then 183 * u / 4 else 191 * u / 4 - 5 * 2 ^ n

/-- Halvings n of a segment code (R109). -/
def segHalvings (code : Nat) : Nat := code + 4

/-- m of a rate class: 48 kS/s 15, 192 kS/s 13, 512 kS/s 11, 2.048 MS/s 9 (R115). -/
def rateM : Nat → Nat
  | 0 => 15
  | 1 => 13
  | 2 => 11
  | _ => 9

/-- Working rate of a rate class in S/s (R115). -/
def rateHz : Nat → Nat
  | 0 => 48000
  | 1 => 192000
  | 2 => 512000
  | _ => 2048000

/-- Samples of a block at a rate class (R106). -/
def rateBlock : Nat → Nat
  | 0 => 96
  | 1 => 384
  | 2 => 1024
  | _ => 4096

/-- P of a rate class in 1/192 count: 10^8 / Fw × 192 (R106). -/
def rateP192 : Nat → Nat
  | 0 => 400000
  | 1 => 100000
  | 2 => 37500
  | _ => 9375

/-- Total delay D_c in 1/12,288 count (R106): (d + q/64) × P. -/
def Chain.delay12288 (c : Chain) : Nat := (c.coarseDelay * 64 + c.phaseDelay) * rateP192 c.rateClass

/-- What a chain ran at SYSTIME `t`, in 1/12,288 count: the newest configuration that is not later (R121). -/
def Chain.tuneAt (c : Chain) (t : Int) : Tune :=
  match c.tunes.find? fun x => decide (((x.1 * 12288 : Nat) : Int) ≤ t) with
  | some x => x.2
  | none => (c.tunes.getLast?.getD (0, {})).2

/-- Grid point `n` in 1/12,288 count (R105). -/
def Chain.gridPoint (c : Chain) (n : Int) : Int := n * 64 * (rateP192 c.rateClass : Nat)

/-- The delays of grid point `n`, in 1/12,288 count: those in force on the grid there (R127, R128). -/
def Chain.delayAt (c : Chain) (n : Int) : Int :=
  let t := c.tuneAt (c.gridPoint n)
  ((t.coarseDelay * 64 + t.phaseDelay) * rateP192 c.rateClass : Nat)

/-- c_n, the represented instant of grid point `n`, in 1/12,288 count (R106). -/
def Chain.instantAt (c : Chain) (n : Int) : Int := c.gridPoint n - c.delayAt n

/-- A half-span of `h` converter samples and a channel filter of length `l`, in 1/12,288 count times S (R123, R124): S samples last 32 counts. -/
def halfScaled (S rateClass h l : Nat) : Int := (h * 32 * 12288 + (l - 1) / 2 * rateP192 rateClass * 64 * S : Nat)

/-- The half-span of a configuration for an event of band-tap or lane level, in 1/12,288 count times S (R123, R124). -/
def Tune.half (t : Tune) (band : Bool) : Int :=
  let n := segHalvings t.segCode
  halfScaled (planFrameSamples t.plan) t.rateClass ((if band then halfBt n else 0) + halfLane n (rateM t.rateClass)) t.filter.length

/-- Whether a disturbance suppresses grid point `n`, which represents `cs` in 1/12,288 count times S, by the half-spans of its configuration; `other`: there the chain ran another working rate, or nothing (R121, R125). -/
def Disturb.hits (x : Disturb) (S : Nat) (half : Bool → Int) (other : Bool) (n cs : Int) : Bool :=
  let at_ := fun (e : Nat) => ((e * 12288 * S : Nat) : Int)
  match x with
  | .instant e band fresh => if cs < at_ e then (fresh && other) || decide (at_ e - half band ≤ cs) else decide (cs < at_ e + half band)
  | .span e1 e2 => decide (at_ e1 ≤ cs + half true) && (match e2 with
      | some e => decide (cs - half true < at_ e)
      | none => true)
  | .hole e1 e2 => decide (at_ e1 ≤ cs) && decide (cs < at_ e2)
  | .grid n0 k => decide ((n0 : Int) ≤ n) && decide (n < n0 + k)

/-- A chain's sample at grid point `n` is suppressed, by the configuration that its represented instant belongs to (R121). -/
def Chain.deadAt (c : Chain) (n : Int) : Bool :=
  let i := c.instantAt n
  let t := c.tuneAt i
  let S := planFrameSamples t.plan
  let other := decide (t.rateClass ≠ c.rateClass) || !c.tunes.any fun x => decide (((x.1 * 12288 : Nat) : Int) ≤ i)
  c.disturbs.any fun x => x.hits S t.half other n (i * S)

/-- The chain as it forms the block that begins at `t0`: with the working rate of the block's end, for a new stream begins with the block that contains its tick (R125). -/
def Chain.forBlock (c : Chain) (t0 : Nat) : Chain := { c with rateClass := (c.tuneAt (((nextOf countsPerBlock t0 - 1) * 12288 : Nat) : Int)).rateClass }

/-- Segment sample `k` of a cluster is suppressed: it represents converter index k × D (R105, R121). -/
def Chain.segmentDead (c : Chain) (S k : Nat) (t : Tune) : Bool :=
  let n := segHalvings t.segCode
  c.disturbs.any fun x => x.hits S (fun _ => halfScaled S 0 (halfBt n) 1) true k ((k * 2 ^ n * 32 * 12288 : Nat) : Int)

/-- The chains that a lane's combined signal is made of: its own and its branches' (05 R147). -/
def State.combined (s : State) (l : Nat) : List Chain :=
  s.taps.lanes.get l :: (s.cfg.active.lanes.get l).branches.map s.taps.lanes.get

/-- Sample `n` of a lane's combined signal is invalid: that of one of its branches is (R124). -/
def State.combinedDead (s : State) (l : Nat) (n : Int) : Bool := (s.combined l).any fun c => !c.active || c.deadAt n

/-- Grid points of a chain in [t0, t1). -/
def Chain.gridIn (c : Chain) (t0 t1 : Nat) : List Int :=
  let p := rateP192 c.rateClass
  let n0 := (t0 * 192 + p - 1) / p
  let n1 := (t1 * 192 + p - 1) / p
  (List.range (n1 - n0)).map fun i => ((n0 + i : Nat) : Int)

/-- The grid point at or before a SYSTIME. -/
def Chain.pointAt (c : Chain) (t : Nat) : Nat := t * 192 / rateP192 c.rateClass

/-- Whether the chain's present output is suppressed, for SUPPRESSING and SETTLING. -/
def Chain.suppressingAt (c : Chain) (t : Nat) : Bool := c.deadAt (c.pointAt t)

end Sys2Proof.Machine
end

