-- ==== Sys2Proof/Machine/Ops.lean ====
section
/-!
DEFINITION. The named operations that the commands share: outcomes, events, occurrences and retirements, the fault summary and the mode code, interrupts, completions, blocks.
-/
namespace Sys2Proof.Machine

/-- The outcome of a meaning. -/
abbrev Res := Host.Outcome State Fault Refusal

/-- The effect `t` where the event can occur, nothing otherwise (notes/assumptions/3.md). -/
def onlyIf (c : Bool) (s t : State) : Res := .next (if c then t else s)

/-! ### Groups of the state -/

def State.setConv (s : State) (k : Nat) (f : Converter → Converter) : State :=
  { s with front := { s.front with convs := s.front.convs.modify k f } }
def State.setCourse (s : State) (j : Nat) (f : Course → Course) : State :=
  { s with front := { s.front with courses := s.front.courses.modify j f } }
def State.setClk (s : State) (d : Nat) (f : DieClk → DieClk) : State := { s with clk := s.clk.modify d f }
def State.setRing (s : State) (r : Nat) (f : Ring → Ring) : State :=
  { s with link := { s.link with rings := s.link.rings.modify r f } }
def State.setDemod (s : State) (l : Nat) (f : Demod → Demod) : State :=
  { s with lanes := { s.lanes with demods := s.lanes.demods.modify l f } }
def State.setSpare (s : State) (c : Nat) (f : SpareSt → SpareSt) : State :=
  { s with lanes := { s.lanes with spares := s.lanes.spares.modify c f } }
def State.setWatch (s : State) (w : Nat) (f : WatchSt → WatchSt) : State :=
  { s with lanes := { s.lanes with watches := s.lanes.watches.modify w f } }
def State.setDieInteg (s : State) (d : Nat) (f : DieInteg → DieInteg) : State :=
  { s with integ := { s.integ with dies := s.integ.dies.modify d f } }
def State.setEngine (s : State) (e : Nat) (f : EngineSt → EngineSt) : State :=
  { s with ofdm := { s.ofdm with engines := s.ofdm.engines.modify e f } }
def State.setSignal (s : State) (e p : Nat) (f : SignalSt → SignalSt) : State :=
  s.setEngine e fun x => { x with signals := x.signals.modify p f }
def State.setRegion (s : State) (g : Nat) (f : RegionSt → RegionSt) : State :=
  { s with ofdm := { s.ofdm with regions := s.ofdm.regions.modify g f } }
def State.setPhys (s : State) (d p : Nat) (f : PhysEngine → PhysEngine) : State :=
  { s with ofdm := { s.ofdm with phys := s.ofdm.phys.modify (d * 4 + p) f } }
def State.signal (s : State) (e p : Nat) : SignalSt := (s.ofdm.engines.get e).signals.get p

/-- The positions of an engine entry that are assigned (06 registers). -/
def EngineEntry.positions (e : EngineEntry) : List Nat :=
  (List.range 8).filter fun i => decide (e.cls ≠ .off) && (e.feeds.getD i none).isSome

/-- The feed lane of a position, by global index. -/
def State.feedLane (s : State) (e p : Nat) : Option Nat :=
  ((s.cfg.active.engines.get e).feeds.getD p none).map (engineDie e * 32 + ·)

def State.setFollow (s : State) (f : Nat) (g : FollowSt → FollowSt) : State :=
  { s with audio := { s.audio with follows := s.audio.follows.modify f g } }
def State.setSlot (s : State) (x : Nat) (g : SlotSt → SlotSt) : State :=
  { s with audio := { s.audio with slots := s.audio.slots.modify x g } }
def State.setContext (s : State) (k : Nat) (g : ContextSt → ContextSt) : State :=
  { s with audio := { s.audio with contexts := s.audio.contexts.modify k g } }
def State.setMon (s : State) (d : Nat) (f : MonSt → MonSt) : State :=
  { s with mon := { s.mon with dies := s.mon.dies.modify d f } }
def State.setMb (s : State) (f : MbSt → MbSt) : State := { s with mb := f s.mb }

/-! ### Outputs, interrupts, events -/

/-- What goes out to the host or the bus. -/
def send (x : Sent) (s : State) : State := { s with link := { s.link with sent := s.link.sent ++ [x] } }

/-- Signal an MSI-X vector: sent, or pending while masked; nothing while MSI-X is disabled (10 R297, R280). -/
def signalVector (v : Nat) (s : State) : State :=
  if s.link.pcie.msixEnabled then
    if maskBit s.link.pcie.masked v then
      { s with link := { s.link with pcie := { s.link.pcie with pbaPending := s.link.pcie.pbaPending ||| 2 ^ v } } }
    else send (.msix v) s
  else s

/-- Count one entry written to a ring and signal its vector when MOD_COUNT is reached (R297); MOD_COUNT 0 is treated as 1 (R283). -/
def countEntry (r : Nat) (s : State) : State :=
  let g := s.link.rings.get r
  let n := g.unsignalled + 1
  if n ≥ max 1 g.modCount then
    signalVector g.vector (s.setRing r fun g => { g with unsignalled := 0, firstUnsignalled := 0 })
  else
    s.setRing r fun g => { g with unsignalled := n, firstUnsignalled := if g.unsignalled = 0 then s.now else g.firstUnsignalled }

/-- Put an event of the log's list among the entries that wait to be written: at most 16 of one code in a minute, the rest counted (14 R389). -/
def queueLog (ev : Ev) (s : State) : State :=
  let k := ev.name.code
  let n := s.integ.codeCounts.get k
  if n.logged < 16 then
    { s with integ := { s.integ with logWaiting := s.integ.logWaiting ++ [ev], codeCounts := s.integ.codeCounts.set k { n with logged := n.logged + 1 } } }
  else
    { s with integ := { s.integ with codeCounts := s.integ.codeCounts.set k { n with suppressed := n.suppressed + 1 } } }

/-- A change of the hallmark chain. -/
def State.setHall (s : State) (f : HallSt → HallSt) : State := { s with sec := { s.sec with hall := f s.sec.hall } }

/-- A contribution to a leaf of the interval in progress (15 R407). -/
def note (x : HallNote) (s : State) : State :=
  s.setHall fun h => { h with acc := h.acc.map fun a => { a with notes := a.notes ++ [x] } }

/-- Raise an event: the next EVENT_SEQ, the present SYSTIME, the items of its Content column (10 R305); the fault log takes it if R389 lists it. -/
def raise (n : EvName) (origin : Nat) (args : List EvArg) (s : State) : State :=
  let ev : Ev := ⟨n, origin, s.link.eventSeq, s.now, args⟩
  let s := { s with link := { s.link with eventSeq := s.link.eventSeq + 1, events := s.link.events ++ [ev] } }
  let s := s.setHall fun h => { h with acc := h.acc.map fun a => { a with events := a.events ++ [ev] } }
  if n.logged then queueLog ev s else s

/-- ORIGIN of the package's events (R305). -/
def pkg : Nat := 0xFF

/-- ARGS bytes: 32-bit words, 64-bit items aligned to 8 with a zero word before them where needed (R305). -/
def evArgBytes : List EvArg → Nat → List Byte
  | [], _ => []
  | .w v :: rest, n => leInt 4 v ++ evArgBytes rest (n + 4)
  | .q v :: rest, n => if n % 8 = 0 then leInt 8 v ++ evArgBytes rest (n + 8) else zeros 4 ++ leInt 8 v ++ evArgBytes rest (n + 12)

/-- The 64-byte event record (R305). -/
def Ev.bytes (e : Ev) : List Byte :=
  le 2 e.name.code ++ zeros 1 ++ le 1 e.origin ++ le 4 e.seq.toNat ++ le 8 e.raised ++ padTo 48 (evArgBytes e.args 0)

/-! ### Modes and the fault summary -/

/-- The hallmark interval as the mode code becomes `m`: a mode that seals nothing ends it unsealed; a return waits for the next boundary (15 R405, R412). -/
def hallMode (m : OpMode) (s : State) : State :=
  s.setHall fun h =>
    if m.sealing then
      { h with startDue := if s.mode.mode.sealing then h.startDue else ceilTo (h.interval * countsPerSecond) s.now }
    else { h with acc := none, cut := none }

/-- Change the mode code and raise MODE_CHANGED (17 R437). -/
def setMode (m : OpMode) (c : ModeCause) (s : State) : State :=
  raise .modeChanged pkg [.w s.mode.mode.code, .w m.code, .w c.code]
    { hallMode m s with mode := { s.mode with mode := m, prev := s.mode.mode } }

/-- Within the reception modes the code follows the HOLDOVER condition, then the D bits (14 R386, 17 R437). -/
def receptionCode (s : State) : OpMode :=
  if s.holdoverCond then .holdover else if s.degraded then .runDegraded else .run

/-- The mode code brought to what R386 gives. -/
def reconcileMode (s : State) : State :=
  let m := receptionCode s
  if s.mode.mode.reception && m != s.mode.mode then
    setMode m (if m = .holdover || s.mode.mode = .holdover then .holdover else .degradation) s
  else s

/-- The span of the HOLDOVER condition opened or closed as the condition now stands (R57). -/
def holdSpan (s : State) : State :=
  let isOpen := s.spans.any fun x => x.scope = none && x.stop = none
  if s.holdoverCond && !isOpen then { s with spans := s.spans ++ [⟨none, s.now, none⟩] }
  else if !s.holdoverCond && isOpen then
    { s with spans := s.spans.map fun x => if x.scope = none && x.stop = none then { x with stop := some s.now } else x }
  else s

/-- The summary brought up to date: the mode code first, then DEGRADED_CHANGE on any change of the summary (14 R386, R392). -/
def refresh (s : State) : State :=
  let s := reconcileMode (holdSpan s)
  let new := s.faultSummary
  if new = s.integ.summary then s
  else
    raise .degradedChange pkg [.w s.integ.summary, .w new]
      { s with integ := { s.integ with summary := new, lastChange := s.now } }

/-- Begin a span of CLOCK_SUSPECT unless one of its scope is open. -/
def openSuspect (sc : SuspectScope) (s : State) : State :=
  if s.spans.any fun x => x.scope = some sc && x.stop = none then s
  else { s with spans := s.spans ++ [⟨some sc, s.now, none⟩] }

/-- End the span of CLOCK_SUSPECT of a scope. -/
def closeSuspect (sc : SuspectScope) (s : State) : State :=
  { s with spans := s.spans.map fun x => if x.scope = some sc && x.stop = none then { x with stop := some s.now } else x }

/-! ### Occurrences, lasting faults, retirements -/

/-- The rule of a class (14 R379). -/
def State.rule (s : State) (cls : Nat) : LastRule := s.integ.rules.getD cls ⟨0xFFFF, 0⟩

/-- Occurrences of a class against a unit within WINDOW, the present one not counted (R378). -/
def State.recentOccs (s : State) (cls : Nat) (u : UnitRef) : Nat :=
  (s.integ.occs.filter fun o => o.cls = cls && o.unit = u && s.now < o.at_ + (s.rule cls).window * 1000000).length

/-- One occurrence recorded against a unit. -/
def addOcc (cls : Nat) (u : UnitRef) (s : State) : State :=
  { s with integ := { s.integ with
      occs := s.integ.occs ++ [⟨cls, u, s.now⟩]
      windowPeak := s.integ.windowPeak.modify (u.die * 8 + cls) (max (s.recentOccs cls u + 1)) } }

/-- A fault declared lasting: the unit's occurrences of the class are cleared, it is counted, FAULT_LASTING is raised (R378, R391). -/
def declareLasting (cls : Nat) (u : UnitRef) (n : Nat) (s : State) : State :=
  raise .faultLasting u.die [.w cls, .w u.die, .w u.loc, .w n, .w (s.rule cls).window]
    ({ s with integ := { s.integ with
        occs := s.integ.occs.filter fun o => !(o.cls = cls && o.unit = u)
        lastingTotal := s.integ.lastingTotal + 1 } }.setDieInteg u.die fun x => { x with lastingDeclared := x.lastingDeclared + 1 })

/-- Record an occurrence; it is lasting when it brings the count in the preceding WINDOW to COUNT (R378). The class's action is the caller's. -/
def occur (cls : Nat) (u : UnitRef) (s : State) : Bool × State :=
  let n := s.recentOccs cls u + 1
  let s1 := addOcc cls u s
  if n ≥ (s.rule cls).count then (true, declareLasting cls u n s1) else (false, s1)

/-- A flash write failed its read-back twice: FLASH_FAULT and its summary bit (14 R386, events table). -/
def flashFault (a : FlashArea) (s : State) : State :=
  if s.integ.flashFaults.contains a then s
  else raise .flashFault pkg [.w a.code] { s with integ := { s.integ with flashFaults := s.integ.flashFaults ++ [a] } }

/-- Record a retirement in package flash (14 R381). -/
def retireUnit (u : UnitRef) (s : State) : State :=
  if s.retired u then s else { s with nv := { s.nv with retired := s.nv.retired ++ [u] } }

/-- Lift a retirement: UNIT_RESTORE alone does so (R381). -/
def unretireUnit (u : UnitRef) (s : State) : State :=
  { s with nv := { s.nv with retired := s.nv.retired.filter (· != u) } }

/-- Erase every occurrence recorded against a unit (14 R380). -/
def eraseOccs (u : UnitRef) (s : State) : State :=
  { s with integ := { s.integ with occs := s.integ.occs.filter fun o => o.unit != u } }

/-! ### Calibrated items -/

/-- The TAI second at a SYSTIME, once wall time is known (02 R54). -/
def State.taiAt (s : State) (t : Nat) : Nat :=
  match s.time.wall with
  | some w => ((w.tai : Int) + ((t : Int) - w.ref) / 100000000).toNat
  | none => 0

/-- A coefficient changed: UNSAVED, from the first change since the last store; a store that begins at a block boundary still to come holds it (12 R355, R357). -/
def calChanged (s : State) : State :=
  let first := fun (x : Option Nat) => some (x.getD s.now)
  { s with cal := { s.cal with
      unsavedSince := first s.cal.unsavedSince
      store := s.cal.store.map fun x => if s.now ≤ x.begin_ then { x with snap := ⟨s.cal.coefs, s.cal.items⟩ } else { x with changed := first x.changed } } }

/-- A success of an item: its count rises, LAST_SYSTIME is the block boundary at which it takes effect, LAST_TAI its TAI second (R354); the task is normal again. -/
def calSuccessOf (item index origin : Nat) (s : State) : State :=
  let at_ := ceilTo countsPerBlock s.now
  calChanged { s with cal := { s.cal with items := s.cal.items.modify (item * 16 + index) fun x =>
    { x with count := x.count + 1, lastSystime := at_, lastTai := s.taiAt at_, origin := origin, fresh := true } } }

/-- A background success (R354). -/
def calSuccess (item index : Nat) (s : State) : State := calSuccessOf item index 2 s

/-- A failed check: LAST_FAIL and FAIL_COUNT; count and times are kept (R352, R354). -/
def calFailed (item index reason : Nat) (s : State) : State :=
  { s with cal := { s.cal with items := s.cal.items.modify (item * 16 + index) fun x =>
    { x with lastFail := reason, failCount := satInc x.failCount } } }

/-- A slice's coefficients for the plan in force (03 R88). -/
def setSliceCoef (k i : Nat) (c : SliceCoef) (s : State) : State :=
  calChanged { s with cal := { s.cal with coefs := { s.cal.coefs with
    slices := s.cal.coefs.slices.set (k * 27 + (s.clk.get (k / 2)).plan * 9 + i) c } } }

/-! ### Completions -/

/-- A completion ring is full when writing one more entry would reach the host's last consumed index (10 R288). -/
def Ring.cqFull (g : Ring) : Bool := (g.devIndex + 1) % 2 ^ g.sizeLog2 == g.doorbell % 2 ^ g.sizeLog2

/-- Write one completion entry into completion ring `q`: one 16-byte write, PHASE as of this pass (R290), counted toward the interrupt (R297). -/
def writeCpl (q : Nat) (c : Cpl) (s : State) : State :=
  let g := s.link.rings.get q
  let wrap := g.devIndex + 1 ≥ 2 ^ g.sizeLog2
  let s := send (.completion q g.devIndex g.phase c) s
  let s := s.setRing q fun g => { g with devIndex := if wrap then 0 else g.devIndex + 1, phase := if wrap then !g.phase else g.phase, written := g.written + 1 }
  countEntry q (s.setRing c.ring fun g => { g with cplDue := false })

/-- A completion due to ring `q`: written at once if there is room and none is held before it, held otherwise (R288, R328). -/
def postCpl (q : Nat) (c : Cpl) (s : State) : State :=
  let g := s.link.rings.get q
  let s := s.setRing c.ring fun g => { g with cplDue := true }
  if g.enable && !g.err && g.held.isEmpty && !g.cqFull then writeCpl q c s
  else s.setRing q fun g => { g with held := g.held ++ [c] }

/-- The 16 bytes of a completion entry with its PHASE (R290). -/
def Cpl.bytes (c : Cpl) (phase : Bool) : List Byte :=
  le 2 c.tag ++ le 1 c.ring ++ le 1 c.opcode ++ le 2 c.status.code ++ le 1 (b2n phase) ++ zeros 1 ++ le 2 c.descIndex ++ le 6 c.result

/-- A command completes. A ring's command writes its completion (R290) and, with FENCE set and any status but OK or OK_DEFERRED, halts its ring and signals its vector; fetching resumes at the descriptor after it (11 R318, 10 R289). A mailbox command's entry, with PHASE 1 and DESC_INDEX MBOX_SEQ, waits to be written into MBOX_CPL (16 R422). -/
def completeOne (src : CmdSrc) (desc : List Byte) (index : Nat) (st : Status) (result : Nat) (s : State) : State :=
  match src with
  | .ring r =>
    let g := s.link.rings.get r
    let fence := bitAt desc 1 0 && !st.success
    let c : Cpl := ⟨field desc 2 0 16, r, field desc 0 0 8, st, index, result % 2 ^ 48⟩
    let s := s.setRing r fun g =>
      let g := { g with executing := none }
      if fence then { g with fenced := true, fetched := [], devIndex := (index + 1) % 2 ^ g.sizeLog2 } else g
    let s := postCpl (16 + g.cq) c s
    if fence then signalVector g.vector s else s
  | .mailbox =>
    let c : Cpl := ⟨field desc 2 0 16, 0, field desc 0 0 8, st, index, result % 2 ^ 48⟩
    s.setMb fun m => { m with executing := none, mboxDue := some (c.bytes true) }

/-- Descriptors at the head of a ring that failed their check, or whose opcode is none, complete in their turn (10 R287, 11 R315); at most `n`. -/
def pump (r : Nat) : Nat → State → State
  | 0, s => s
  | n + 1, s =>
    let g := s.link.rings.get r
    match g.fetched with
    | f :: rest =>
      if g.executing.isSome || g.cplDue || g.fenced then s
      else
        let t := s.setRing r fun g => { g with fetched := rest }
        if !f.good then pump r n (completeOne (.ring r) f.desc f.index .checkFail 0 t)
        else if (Cmd.ofOpcode (field f.desc 0 0 8)).isNone then pump r n (completeOne (.ring r) f.desc f.index .badOpcode 0 t)
        else s
    | [] => s

/-- A command completes; on a ring, descriptors behind it that cannot execute complete with it. -/
def complete (src : CmdSrc) (desc : List Byte) (index : Nat) (st : Status) (result : Nat) (s : State) : State :=
  let s := completeOne src desc index st result s
  match src with
  | .ring r => pump r 16 s
  | .mailbox => s

/-- The commands in execution that wait, by source. -/
def State.execOf (s : State) : CmdSrc → Option Exec
  | .ring r => (s.link.rings.get r).executing
  | .mailbox => s.mb.executing

/-- The sources in whose order commands are looked through: rings 0 to 15, then the mailbox. -/
def cmdSources : List CmdSrc := (List.range 16).map .ring ++ [.mailbox]

/-- The waiting command with `w`, if one waits so. -/
def State.findWait (s : State) (w : Wait → Bool) : Option (CmdSrc × Exec) :=
  cmdSources.findSome? fun src => match s.execOf src with
    | some e => if w e.wait then some (src, e) else none
    | none => none

/-- Complete the command that waits with `w`; nothing if none does. -/
def completeWait (w : Wait → Bool) (st : Status) (result : Nat) (s : State) : State :=
  match s.findWait w with
  | some (src, e) => complete src e.desc e.index st result s
  | none => s

/-- Complete every command that waits with `w`. -/
def completeAll (w : Wait → Bool) (st : Status) (result : Nat) (s : State) : State :=
  cmdSources.foldl (fun acc src => match acc.execOf src with
    | some e => if w e.wait then complete src e.desc e.index st result acc else acc
    | none => acc) s

/-- RESULT of ABORTED_FAULT: the fault summary in bits [47:16] (11 R315). -/
def State.abortResult (s : State) : Nat := s.faultSummary * 65536

/-- Let a command wait. -/
def waitFor (src : CmdSrc) (desc : List Byte) (index : Nat) (w : Wait) (s : State) : State :=
  match src with
  | .ring r => s.setRing r fun g => { g with executing := some ⟨desc, index, w⟩ }
  | .mailbox => s.setMb fun m => { m with executing := some ⟨desc, index, w⟩, mboxPhase := .busy }

/-! ### COMMITs after their swap (11 R326) -/

/-- A mask without a bit. -/
def clearBit (m i : Nat) : Nat := if maskBit m i then m - 2 ^ i else m

/-- The completion of a COMMIT: ABORTED_FAULT after an incomplete hop, OK_DEFERRED after a late one or a deferred tick, OK otherwise (R326). -/
def PendingCommit.outcome (c : PendingCommit) (s : State) : Status × Nat :=
  if c.hopFailed then (.abortedFault, s.abortResult)
  else if 0 < c.lateTick then (.okDeferred, c.lateTick)
  else if c.tick < c.effective then (.okDeferred, c.effective)
  else (.ok, c.effective)

/-- The COMMIT's command completes, if it still waits for it. -/
def answerCommit (c : PendingCommit) (st : Status) (result : Nat) (s : State) : State :=
  match c.src, c.src.bind s.execOf with
  | some src, some e => if e.wait = .commit then complete src e.desc e.index st result s else s
  | _, _ => s

/-- COMMITs that waited for their hops complete; PLAN_HOP_DONE when a hop is complete on every die (R326, 02 R46, R62, R63). -/
def finishCommits (s : State) : State :=
  let ended := s.cfg.hopping.filter fun c => c.hopsLeft == 0
  let s := { s with cfg := { s.cfg with hopping := s.cfg.hopping.filter fun c => c.hopsLeft != 0 } }
  ended.foldl (fun acc c =>
    let acc := if c.planHop && !c.hopFailed then raise .planHopDone pkg [.w c.set.plan, .q c.latestRephase, .q c.freshMask] acc else acc
    let x := c.outcome acc
    answerCommit c x.1 x.2 acc) s

/-- The hop of a die ends, for every COMMIT that waits for it. -/
def endHop (d : Nat) (f : PendingCommit → PendingCommit) (s : State) : State :=
  let g := fun (c : PendingCommit) => if maskBit c.hopsLeft d then { f c with hopsLeft := clearBit c.hopsLeft d } else c
  finishCommits { s with cfg := { s.cfg with hopping := s.cfg.hopping.map g } }

/-! ### Blocks -/

/-- What a stream gives the block former: the fields of the header that are its own (10 R298). -/
structure BlockIn where
  format : Nat
  srcType : Nat
  srcIndex : Nat
  die : Nat
  timestamp : Nat
  sampleCount : Nat
  flags : Nat
  payload : List Byte
  sigma : Nat := 0
  gain : GainMark := {}
  capture : Bool := false
  deriving DecidableEq, Repr

/-- One block of a ring discarded (10 R296). -/
def discardBlock (r : Nat) (s : State) : State :=
  s.setRing r fun g => { g with discards := g.discards + 1, dropped := g.dropped + 1, discardsSec := g.discardsSec + 1 }

/-- CONFIG_GEN in force at a timestamp: the swaps so far less those after it (R298). -/
def State.configGenAt (s : State) (t : Nat) : Nat :=
  (s.link.configGen - BitVec.ofNat 32 (s.link.swaps.takeWhile fun k => decide (t < k * countsPerTick)).length).toNat

/-- A ring that takes blocks: enabled and not halted (R284, R286). -/
def Ring.takes (g : Ring) : Bool := g.enable && !g.err

/-- A block is formed for ring `r`: it takes the next SEQUENCE (R294) and waits in staging; a third waiting block discards the oldest (R295); a ring that is halted or disabled discards it (R296). In HALTED all delivery stops (01 R34). -/
def formBlock (r : Nat) (b : BlockIn) (s : State) : State :=
  if s.mode.mode = .halted then s else
  let g := s.link.rings.get r
  let blk : Block :=
    { format := b.format, srcType := b.srcType, srcIndex := b.srcIndex, ring := r, die := b.die
      timestamp := b.timestamp, sequence := g.sequence.toNat, sampleCount := b.sampleCount, flags := b.flags, sigma := b.sigma
      gain := b.gain, configGen := s.configGenAt b.timestamp, payload := b.payload, readyAt := s.now, capture := b.capture }
  let s := s.setRing r fun g => { g with sequence := g.sequence + 1 }
  if g.takes then
    if g.waiting.length ≥ 2 then
      discardBlock r (s.setRing r fun g => { g with waiting := g.waiting.drop 1 ++ [blk] })
    else s.setRing r fun g => { g with waiting := g.waiting ++ [blk] }
  else discardBlock r s

/-- The header of a block as it is written: GAP and DROPPED as of the write, then its two check values (R298, R299). -/
def Block.header (b : Block) (gap : Bool) (dropped : Nat) : List Byte :=
  let h := le 2 b.format ++ le 1 1 ++ le 1 b.srcType ++ le 2 b.srcIndex ++ le 1 b.ring ++ le 1 b.die ++ le 8 b.timestamp
    ++ le 8 b.sequence ++ le 4 b.sampleCount ++ le 4 b.payload.length ++ le 2 (b.flags + if gap then flGap else 0) ++ le 2 b.sigma
    ++ le 1 (b2n b.gain.gainStep + 2 * b2n b.gain.multi + 4 * b2n b.gain.splice) ++ leInt 1 b.gain.gainDb ++ le 2 b.gain.stepOffset
    ++ le 4 (if gap then min dropped 0xFFFFFFFF else 0) ++ le 4 b.configGen ++ zeros 8
    ++ (if b.payload.isEmpty then zeros 4 else le 4 (crc32c b.payload).toNat)
  h ++ le 4 (crc32c h).toNat

/-- The rings that a route of the active set gives a source of a class on a die (R293). -/
def State.routeRings (s : State) (cls : DelClass) (die : Nat) (sel : RouteEntry → Bool) : List Nat :=
  ((List.range 64).map (· + 32)).filter fun r =>
    let e := s.cfg.active.routes.get r
    e.cls = some cls && e.die == die && sel e

/-- Form a block on each ring that a route gives it; none: the block is not formed (R293). A fenced die forms none (01 R33). -/
def formRouted (cls : DelClass) (sel : RouteEntry → Bool) (b : BlockIn) (s : State) : State :=
  if s.dieUp b.die then (s.routeRings cls b.die sel).foldl (fun acc r => formBlock r b acc) s else s

/-- Records of a span in chunks whose bytes stay within a bound, in order (R304); an empty span gives one empty chunk. -/
def chunkRecords (bound : Nat) : List (List Byte) → List (List Byte) → Nat → List (List (List Byte))
  | [], cur, _ => [cur]
  | r :: rest, cur, n =>
    if n + r.length > bound && !cur.isEmpty then cur :: chunkRecords bound rest [r] r.length
    else chunkRecords bound rest (cur ++ [r]) (n + r.length)

/-- Blocks of one span from its records: all but the last carry bit 31 of SAMPLE_COUNT (R304). -/
def formRecordBlocks (cls : DelClass) (sel : RouteEntry → Bool) (bound : Nat) (recs : List (List Byte)) (b : BlockIn) (s : State) : State :=
  let chunks := chunkRecords bound recs [] 0
  let n := chunks.length
  (chunks.zipIdx).foldl (fun acc (c, i) =>
    formRouted cls sel { b with sampleCount := c.length + (if i + 1 < n then 2 ^ 31 else 0), payload := pad4 c.flatten } acc) s

/-! ### Accesses over the host link -/

/-- An access over the host link, which in SLEEP keeps the clocks running (17 R445). -/
def hostAccess (s : State) : State := { s with mode := { s.mode with lastAccess := s.now } }

/-- The registers of BAR0 and BAR2 answer: not in OFF, nor while the clocks of SLEEP stand. -/
def State.barUp (s : State) : Bool := s.mode.mode != .off && s.mode.clocksRun

/-- A write to a register in the window of a die, which an absent die ignores (00 R4); a fenced one too: DESIGN CHOICE (notes/assumptions/50.md). `takes`: the register takes it. -/
def dieWrite (d : Nat) (takes : Bool) (f : State → State) (s : State) : Res :=
  onlyIf s.barUp s (if s.dieUp d && takes then f (hostAccess s) else hostAccess s)

/-- A read of a register in the window of a die that returns `v` and does something besides; an absent die's reads as 0 (00 R4). -/
def dieRead (d v : Nat) (f : State → State) (s : State) : Res :=
  onlyIf s.barUp s (if d < s.dies then send (.regRead v) (f (hostAccess s)) else send (.regRead 0) (hostAccess s))

end Sys2Proof.Machine
end

