-- ==== Sys2Proof/Machine/Courses.lean ====
section
/-!
DEFINITION. What several families do to chains and courses: chain events (04 R120 to R125), power of converters, converter failures and their consequences (03 R80 to R86), and the delivery of a lane's state to what consumes it.
-/
namespace Sys2Proof.Machine

/-! ### Background tasks (14 R387, R388) -/

/-- TASK_OVERDUE's number of a task, in the order of the ages word (R388). -/
def Task.code : Task → Nat
  | .planish _ => 0 | .level _ => 1 | .monitor _ => 2 | .store => 3 | .flashRefresh => 4 | .telemetry _ => 5 | .hallmark => 6 | .log => 7

/-- The die of a task, or 0xFF for the package (14 events table). -/
def Task.die : Task → Nat
  | .planish d | .monitor d | .telemetry d => d
  | .level n => n
  | _ => 0xFF

/-- Age of a task: 0 normal, 1 due, 2 overdue (R388). -/
def State.taskAge (s : State) (t : Task) : Nat :=
  match s.integ.tasks.find? (·.task = t) with
  | some a => if a.overdue.isSome then 2 else 1
  | none => 0

/-- A task is normal again. -/
def taskNormal (t : Task) (s : State) : State :=
  { s with integ := { s.integ with tasks := s.integ.tasks.filter fun a => a.task != t } }

/-- A task becomes due. -/
def taskDue (t : Task) (s : State) : State :=
  if s.taskAge t = 0 then { s with integ := { s.integ with tasks := s.integ.tasks ++ [⟨t, none⟩] } } else s

/-- A task becomes overdue: TASK_OVERDUE once at each entry (R388). -/
def taskOverdue (t : Task) (s : State) : State :=
  if s.taskAge t = 2 then s
  else
    let s := taskNormal t s
    raise .taskOverdue t.die [.w t.code, .w t.die] { s with integ := { s.integ with tasks := s.integ.tasks ++ [⟨t, some s.now⟩] } }

/-! ### What a configuration set says of a lane -/

/-- The engine position that a lane feeds: engine index and position (06 R168). -/
def ConfigSet.feedOf (c : ConfigSet) (l : Nat) : Option (Nat × Nat) :=
  ((List.range 4).map (laneDie l * 4 + ·)).findSome? fun e =>
    ((List.range 8).find? fun i => (c.engines.get e).cls != .off && ((c.engines.get e).feeds.getD i none) == some (l % 32)).map fun i => (e, i)

/-- The lane that names `l` as a branch (05 R146): the lanes of the die are looked through in order. -/
def ConfigSet.combinerOf (c : ConfigSet) (l : Nat) : Option Nat :=
  ((List.range 32).map (laneDie l * 32 + ·)).find? fun k => (c.lanes.get k).branches.contains l

/-- Rate class of an engine position's feed: DAB 2.048 MS/s, DRM mode E 192 kS/s, other DRM 48 kS/s (04 R115, 06 R167). -/
def EngineEntry.feedRate (e : EngineEntry) (i : Nat) : Nat :=
  match e.cls with
  | .dab => 3
  | _ => if e.drmModes.getD i 0 = 5 then 1 else 0

/-- Rate class of a lane but for a branch: of its mode, or of the position it feeds (05 R135, 06 R169). -/
def ConfigSet.ownRate (c : ConfigSet) (l : Nat) : Option Nat :=
  let e := c.lanes.get l
  if e.mode.am then some 0 else if e.mode.fm then some 2
  else if e.mode = .ofdmFeed then (c.feedOf l).map fun p => (c.engines.get p.1).feedRate p.2
  else none

/-- Rate class of a lane; none where it runs no chain (04 R128). -/
def ConfigSet.laneRate (c : ConfigSet) (l : Nat) : Option Nat :=
  if (c.lanes.get l).mode = .branch then (c.combinerOf l).bind c.ownRate else c.ownRate l

/-- The filter of a die's bank. -/
def ConfigSet.filterOf (c : ConfigSet) (d bank f : Nat) : Filter := c.filters.get (filterKey d bank f)

/-- The chain a lane entry asks for (04 lane chain record). Sticky flags and disturbances are the old chain's. -/
def ConfigSet.laneChain (c : ConfigSet) (l : Nat) (old : Chain) : Chain :=
  let e := c.lanes.get l
  let n := segHalvings (c.clusters.get (laneCluster l)).segCode
  match c.laneRate l with
  | some rc =>
    { old with
      active := true, rateClass := rc, halvings := rateM rc - n, bank := e.bank, filter := e.filter
      filterLen := (c.filterOf (laneDie l) e.bank e.filter).length, phaseDelay := e.phaseDelay, coarseDelay := e.coarseDelay }
  | none => { old with active := false, rateClass := 0, halvings := 0, bank := 0, filter := 0, filterLen := 1, phaseDelay := 0, coarseDelay := 0, disturbs := [] }

/-- Rate class of a watch tap (R158). -/
def WatchEntry.rate (e : WatchEntry) : Nat := if e.rateHigh then 3 else 2

/-- The chain a watch-tap entry asks for: no coarse delay, phase delay 0 (R119). -/
def ConfigSet.watchChain (c : ConfigSet) (w : Nat) (old : Chain) : Chain :=
  let e := c.watches.get w
  let n := segHalvings (c.clusters.get (watchCluster w)).segCode
  if e.mode = .off then { old with active := false, rateClass := 0, halvings := 0, bank := 0, filter := 0, filterLen := 1, phaseDelay := 0, coarseDelay := 0, disturbs := [] }
  else
    { old with
      active := true, rateClass := e.rate, halvings := rateM e.rate - n, bank := e.bank, filter := e.filter
      filterLen := (c.filterOf (watchDie w) e.bank e.filter).length, phaseDelay := 0, coarseDelay := 0 }

/-! ### Chain events -/

/-- Disturbances older than the longest delay can carry are dropped: 5 s. -/
def keepDisturbs (now : Nat) (xs : List Disturb) : List Disturb :=
  xs.filter fun x => match x with
    | .instant e .. => decide (now < e + 5 * countsPerSecond)
    | .span _ none => true
    | .span _ (some e) | .hole _ e => decide (now < e + 5 * countsPerSecond)
    | .grid .. => true

/-- A disturbance put on an active chain; LAST_EVENT_TICK is the tick of the last event that suppressed output. -/
def Chain.disturb (c : Chain) (now : Nat) (x : Disturb) : Chain :=
  if c.active then { c with disturbs := keepDisturbs now c.disturbs ++ [x], lastEventTick := tick32 now } else c

/-- A chain goes on with a configuration from SYSTIME `now`: what it ran before is kept for 5 s (R121). -/
def Chain.goOn (c : Chain) (now : Nat) (t : Tune) : Chain :=
  if !c.active then { c with tunes := [] }
  else if c.tunes.head?.map (·.2) = some t then c
  else
    let recent := fun (x : Nat × Tune) => decide (now < x.1 + 5 * countsPerSecond)
    { c with tunes := (now, t) :: c.tunes.takeWhile recent ++ (c.tunes.dropWhile recent).take 1 }

/-- Every chain of a cluster changed: its segment, its eight lanes, its spare, its sixteen watch taps. -/
def mapCluster (c : Nat) (f : Chain → Chain) (s : State) : State :=
  { s with taps := { s.taps with
      segments := s.taps.segments.modify c f
      lanes := (List.range 8).foldl (fun t p => t.modify (c * 8 + p) f) s.taps.lanes
      tones := (List.range 8).foldl (fun t p => t.modify (c * 8 + p) f) s.taps.tones
      spares := s.taps.spares.modify c f
      watches := (List.range 16).foldl (fun t w => t.modify (c * 16 + w) f) s.taps.watches } }

/-- A span that is still open. -/
def isOpenSpan : Disturb → Bool
  | .span _ none => true
  | _ => false

/-- A cluster's segment samples are zero at present (01 R20, R84, R85). -/
def State.clusterZero (s : State) (c : Nat) : Bool := (s.taps.segments.get c).disturbs.any isOpenSpan

/-- Halvings of the segment a cluster's band tap forms. -/
def State.segN (s : State) (c : Nat) : Nat := segHalvings (s.taps.bandTaps.get c).segCode

/-- The configuration of a chain of cluster `c` on a station (R107, R114). -/
def State.tuneOf (s : State) (c freq : Nat) (f : Filter) (ch : Chain) : Tune :=
  let b := s.taps.bandTaps.get c
  { plan := s.cfg.active.plan, course := b.course, segCode := b.segCode, ncoWord := b.ncoWord, freq := freq, rateClass := ch.rateClass
    filter := f, phaseDelay := ch.phaseDelay, coarseDelay := ch.coarseDelay }

/-- The configuration of a lane, and of a watch tap. -/
def State.laneTune (s : State) (l : Nat) : Tune :=
  let e := s.cfg.active.lanes.get l
  s.tuneOf (laneCluster l) e.fLane (s.cfg.active.filterOf (laneDie l) e.bank e.filter) (s.taps.lanes.get l)
def State.watchTune (s : State) (w : Nat) : Tune :=
  let e := s.cfg.active.watches.get w
  s.tuneOf (watchCluster w) (s.lanes.watches.get w).freq (s.cfg.active.filterOf (watchDie w) e.bank e.filter) (s.taps.watches.get w)

/-- A lane's chain, and a watch tap's, goes on with the configuration that the set in force gives it. -/
def goOnLane (l : Nat) (s : State) : State :=
  { s with taps := { s.taps with lanes := s.taps.lanes.modify l fun c => c.goOn s.now (s.laneTune l) } }
def goOnWatch (w : Nat) (s : State) : State :=
  { s with taps := { s.taps with watches := s.taps.watches.modify w fun c => c.goOn s.now (s.watchTune w) } }

/-- Every chain of a cluster goes on with the configuration that the set in force gives it. -/
def goOnCluster (c : Nat) (s : State) : State :=
  let s := { s with taps := { s.taps with segments := s.taps.segments.modify c fun x =>
    ({ x with active := (s.taps.bandTaps.get c).assigned }).goOn s.now (s.tuneOf c 0 {} {}) } }
  let s := (List.range 8).foldl (fun acc p => goOnLane (c * 8 + p) acc) s
  (List.range 16).foldl (fun acc w => goOnWatch (c * 16 + w) acc) s

/-- The lane-level span of a configuration, rounded up to whole counts: what a chain runs before a handover (04 R126). -/
def Tune.laneSpan (t : Tune) : Nat := ((2 * t.half false) / (12288 * planFrameSamples t.plan : Nat)).toNat + 1

/-- The chain of a lane under calibration has reloaded its station and run it for the lane-level span (R164, 04 R126). -/
def State.stationRuns (s : State) (l : Nat) : Bool :=
  let c := s.taps.tones.get l
  !c.active || (match c.tunes.head? with
    | some x => decide (x.2 = s.laneTune l) && decide (x.1 + x.2.laneSpan ≤ s.now)
    | none => true)

/-- A band-tap-level event at the instant `e` on one cluster (R120): its segment and every chain fed by it. -/
def bandTapInstant (e : Nat) (c : Nat) (s : State) : State := mapCluster c (fun ch => ch.disturb s.now (.instant e true false)) s

/-- A disturbed span begins on one cluster (R20, R84, R85): zero samples from `e1` on. -/
def bandTapSpanOpen (e1 : Nat) (c : Nat) (s : State) : State :=
  if s.clusterZero c then s else mapCluster c (fun ch => ch.disturb s.now (.span e1 none)) s

/-- The open spans of a chain end at `e2`. -/
def Chain.closeSpans (c : Chain) (e2 : Nat) : Chain :=
  { c with disturbs := c.disturbs.map fun x => match x with
      | .span e1 none => .span e1 (some e2)
      | y => y }

/-- The open spans of one cluster end at `e2`. -/
def bandTapSpanClose (e2 : Nat) (c : Nat) (s : State) : State := mapCluster c (fun ch => ch.closeSpans e2) s

/-- A chain of cluster `c` changed at the present instant; of a stream of a new working rate every sample before the event is suppressed; a zero span that is open goes on (R121, R124, R125). -/
def State.chainTo (s : State) (c : Nat) (band : Bool) (old new : Chain) : Chain :=
  let x := new.disturb s.now (.instant s.now band !(old.active && decide (old.rateClass = new.rateClass)))
  if x.active && s.clusterZero c && !x.disturbs.any isOpenSpan then { x with disturbs := x.disturbs ++ [.span s.now none] } else x

/-- A closed disturbed span on one cluster (R20). -/
def bandTapSpan (e1 e2 : Nat) (c : Nat) (s : State) : State := mapCluster c (fun ch => ch.disturb s.now (.span e1 (some e2))) s

/-- The clusters whose band tap is in force on a course. -/
def State.clustersOn (s : State) (j : Nat) : List Nat :=
  (List.range (s.dies * 4)).filter fun c => (s.taps.bandTaps.get c).assigned && (s.taps.bandTaps.get c).course == j

/-- The clusters of a die whose band tap is in force. -/
def State.clustersOfDie (s : State) (d : Nat) : List Nat :=
  ((List.range 4).map (d * 4 + ·)).filter fun c => (s.taps.bandTaps.get c).assigned

/-- A synchronising reset at `e` of every lane, watch tap and branch of a die (R42, R46, R66). -/
def dieInstant (e d : Nat) (s : State) : State := (s.clustersOfDie d).foldl (fun acc c => bandTapInstant e c acc) s

/-- A chain keeps what it is for the blocks that end now. -/
def Chain.keepPast (c : Chain) : Chain := { c with pastDisturbs := c.disturbs, pastTunes := c.tunes }

/-- A chain across an armed edge at count `old`, designated `new`: a synchronising reset on both sides; of the new count no sample represents an instant before `new` (R66, R67). -/
def Chain.rebase (old new : Nat) (c : Chain) : Chain :=
  if !c.active then { c with pastDisturbs := [], pastTunes := [] }
  else
    { c with
      pastDisturbs := c.disturbs ++ [.instant old true false], pastTunes := c.tunes
      disturbs := (if c.disturbs.any isOpenSpan then [.span new none] else []) ++ [.instant new true true]
      tunes := (c.tunes.take 1).map fun x => (new, x.2), lastEventTick := tick32 new }

/-- An armed edge for every chain of a die (R66, R67). -/
def dieEdge (old new d : Nat) (s : State) : State :=
  let s := s.setClk d fun c => { c with edge := some (old, new), edges := c.edges + 1, spreadFrom := new }
  (s.clustersOfDie d).foldl (fun acc c => mapCluster c (Chain.rebase old new) acc) s

/-- The state as blocks of the count before the last armed edge or reload see it: every chain of the die before that edge (02 R42, R67). -/
def State.beforeEdge (s : State) (d : Nat) : State :=
  (List.range 4).foldl (fun acc i => mapCluster (d * 4 + i) Chain.beforeEdge acc) s

/-- The reload of a die's replica for every chain of the die: a synchronising reset, and the end of the blocks in progress (R42). -/
def dieReload (d : Nat) (s : State) : State :=
  let s := dieInstant s.now d (s.setClk d fun c => { c with edge := some (s.now, s.now), edges := c.edges + 1 })
  (s.clustersOfDie d).foldl (fun acc c => mapCluster c Chain.keepPast acc) s

/-- The segment samples of a course are zero from now on (R84, R85, R62). -/
def zeroCourse (j : Nat) (s : State) : State :=
  if (s.front.courses.get j).zeroFrom.isSome then s else
  let s := s.setCourse j fun c => { c with zeroFrom := some s.now }
  (s.clustersOn j).foldl (fun acc c => bandTapSpanOpen s.now c acc) s

/-! ### Export taps -/

/-- The export tap that a cluster's band tap needs: the die and converter of the course's leader, if that is another die (01 R18). -/
def State.exportNeed (s : State) (c : Nat) : Option (Nat × Nat) :=
  let b := s.taps.bandTaps.get c
  match (s.front.courses.get b.course).leader with
  | some x =>
    let k := s.convOf b.course x
    if b.assigned && k / 2 != clusterDie c then some (k / 2, k % 2) else none
  | none => none

/-- An export tap carries the segment of cluster `c`: itself, or through its die's audit tap (01 R18, 04 R134). -/
def State.exportServes (s : State) (i c : Nat) : Bool :=
  (s.taps.exports.get i).dest == some c && (!s.retired (exportRef i) || s.nv.auditCarries.get (i / 16) == some (exportRef i))

/-- The samples of a course are zero: it is OFF, or it has no converter that samples (03 R84, R471). -/
def State.courseZero (s : State) (j : Nat) : Bool :=
  let c := s.front.courses.get j
  decide (c.mode = .off) || c.zeroFrom.isSome

/-- A cluster whose segment samples are zero: its course gives none, no unit forms or exports its segment, or the die that forms it or leads its course is frozen, which the ring treats as a lost die (02 R59). -/
def State.clusterDry (s : State) (c : Nat) : Bool :=
  s.courseZero (s.taps.bandTaps.get c).course || s.tapDead c || (s.clk.get (clusterDie c)).onRoot
  || (match s.exportNeed c with
      | some (d, _) => (s.clk.get d).onRoot || !(List.range 16).any fun i => s.exportServes (d * 16 + i) c
      | none => false)

/-- The disturbed spans of the clusters as they now stand; those that end do so at `e`. -/
def matchZeroSpans (e : Nat) (s : State) : State :=
  (List.range (s.dies * 4)).foldl (fun acc c =>
    if !(acc.taps.bandTaps.get c).assigned then acc
    else if acc.clusterDry c then bandTapSpanOpen acc.now c acc
    else if acc.clusterZero c then bandTapSpanClose e c acc
    else acc) s

/-- The course supplies samples again from the plan frame at `e` (R84); a frozen die's clusters wait for its core clocks (02 R59). -/
def unzeroCourse (j e : Nat) (s : State) : State :=
  if (s.front.courses.get j).zeroFrom.isNone then s
  else matchZeroSpans e (s.setCourse j fun c => { c with zeroFrom := none })

/-- An export tap that can carry a stream: it is not retired, or the audit tap carries it permanently (01 R18, 04 R134). -/
def State.exportUsable (s : State) (i : Nat) : Bool :=
  !s.retired (exportRef i) || s.nv.auditCarries.get (i / 16) == some (exportRef i)

/-- The lowest free export tap of a die. -/
def freeExport (s : State) (d : Nat) (t : Tbl ExportTap) : Option Nat :=
  ((List.range 16).map (d * 16 + ·)).find? fun i => (t.get i).dest.isNone && s.exportUsable i

/-- The part assigns export taps itself (01 R18): taps in use keep their band tap, those no longer needed are freed, others take the lowest free tap in cluster order. -/
def assignExports (s : State) : State :=
  let keep : Tbl ExportTap := s.taps.exports.mapAll (s.dies * 16) fun i e =>
    match e.dest with
    | some c => if s.exportNeed c = some (i / 16, e.converter) && s.exportServes i c then { e with segCode := (s.taps.bandTaps.get c).segCode } else { e with dest := none }
    | none => e
  let full := (List.range (s.dies * 4)).foldl (fun t c =>
    match s.exportNeed c with
    | some (d, x) =>
      if (List.range 16).any fun i => (t.get (d * 16 + i)).dest == some c then t
      else match freeExport s d t with
        | some i => t.modify i fun e => { e with dest := some c, converter := x, segCode := (s.taps.bandTaps.get c).segCode }
        | none => t
    | none => t) keep
  { s with taps := { s.taps with exports := full } }

/-! ### Converters -/

/-- The power-domain bit of a converter: CONV_A 3, CONV_B 4 (17 R433). -/
def convDomain (k : Nat) : Nat := 3 + k % 2

/-- The earliest switch-on of one more domain: 20 µs after the die's last one (17 R435). -/
def DomainSt.nextOn (x : DomainSt) (now : Nat) : Nat :=
  if x.on = 0 then now else max now (maxL ((maskList 14 x.on).map fun b => x.onAt.getD b 0) + 2000)

/-- Switch a domain of a die on, 20 µs after the last one of the die; a switched-on domain is not in service until its ramp and clear end (17 R435). -/
def domainOn (d bit : Nat) (s : State) : State :=
  let x := s.domains.get d
  if maskBit x.on bit then s
  else { s with domains := s.domains.set d { x with on := x.on ||| 2 ^ bit, onAt := x.onAt.set bit (x.nextOn s.now) } }

/-- A synthesizer whose domain goes off: it neither locks nor coasts; a lasting unlock stays declared (02 R57). -/
def stopLoop (d : Nat) (l : DieLoop) (s : State) : State :=
  let s := s.setClk d fun c => { c.setLoop l { held := (c.loop l).held } with hop := if l = .samp then {} else c.hop }
  match l with
  | .samp => closeSuspect (.convs d) s
  | .sys => closeSuspect (.frozen d) (closeSuspect (.units d) (s.setClk d fun c => { c with onRoot := false }))
  | .aud => s

/-- Switch a domain of a die off: it loses its state, its synthesizer stops (17 R433, R435). -/
def domainOff (d bit : Nat) (s : State) : State :=
  let x := s.domains.get d
  let s := if !maskBit x.on bit then s else match bit with
    | 0 => stopLoop d .sys s
    | 2 => stopLoop d .samp s
    | 13 => stopLoop d .aud s
    | _ => s
  { s with domains := s.domains.set d { x with on := clearBit x.on bit, ready := clearBit x.ready bit, armed := clearBit x.armed bit } }

/-- Power a converter: its rotation starts at position 0, its slice coefficients are those stored for the plan in force (R84, R86). -/
def powerConv (k : Nat) (s : State) : State :=
  let s := domainOn (k / 2) (convDomain k) s
  s.setConv k fun c => if c.powered then c else
    { c with powered := true, poweredAt := s.now, sampling := false, rotPosition := 0, rotStandin := false, rotSuspended := false, rotSteps := 0, rotMismatch := 0, rotStart := s.now }

/-- Power a converter down; its last record stays latched (R100). -/
def unpowerConv (k : Nat) (s : State) : State :=
  (domainOff (k / 2) (convDomain k) s).setConv k fun c => { c with powered := false, sampling := false, rotSteps := 0 }

/-- A converter that can run: on a die that is not fenced, and not failed (R84). -/
def State.convUsable (s : State) (k : Nat) : Bool := s.dieUp (k / 2) && !(s.front.convs.get k).failed

/-- A full slice rotation since power-up (R81, R84). -/
def Converter.rotated (c : Converter) : Bool := decide (8 ≤ c.rotSteps)

/-- An attribution ends: both rotations resume at the step they left, but for a converter whose die hops (R79, R86). -/
def endAttribution (j : Nat) (s : State) : State :=
  if (s.front.courses.get j).attributing.isNone then s
  else
    let resume := fun (s : State) (k : Nat) =>
      if (s.clk.get (k / 2)).hop.phase = .idle || (s.clk.get (k / 2)).hop.phase = .incomplete then s.setConv k fun c => { c with rotSuspended := false } else s
    resume (resume (s.setCourse j fun c => { c with attributing := none }) (s.convOf j 0)) (s.convOf j 1)

/-- A window of a level step that holds a gain step or a splice is discarded (R96, R86, 12 R347). -/
def spoilLevel (j : Nat) (s : State) : State :=
  { s with cal := { s.cal with steps := s.cal.steps.modify j fun o => o.map fun x =>
      match x.phase with
      | .offWindow | .on1 | .on2 => { x with spoiled := true }
      | _ => x } }

/-- The gain marks that blocks of a course carry: a step of `db`, or a splice, at the present instant (R94, R298). -/
def markCourse (j : Nat) (db : Int) (splice : Bool) (s : State) : State :=
  spoilLevel j { s with link := { s.link with marks := ((j, s.now, db, splice) :: s.link.marks).take 256 } }

/-- The attenuator that realises g: 14 − g dB behind the amplifier for g of +1 and more, −g dB with the amplifier bypassed otherwise (R71). -/
def attenuatorOf (g : Int) : Nat := if 0 < g then (14 - g).toNat else (-g).toNat

/-- A change of g at a plan-frame boundary: attenuator and amplifier switch together, the step is counted and marked in the blocks that draw on the course (R71, R94). -/
def setGain (j : Nat) (g : Int) (s : State) : State :=
  let old := (s.front.courses.get j).gain
  if g = old then s
  else markCourse j (g - old) false (s.setCourse j fun c =>
    { c with gain := g, attenuator := attenuatorOf g, lnaOn := decide (0 < g), gainStepTotal := c.gainStepTotal + 1 })

/-- A course is lost: COURSE_LOST, no leader, zero samples (R85, R471). -/
def loseCourse (j : Nat) (s : State) : State :=
  if (s.front.courses.get j).lost then s else
  let s := s.setCourse j fun c => { c with lost := true, leader := none, standbyReady := false, splice := none }
  raise .courseLost j [.w j] (assignExports (zeroCourse j s))

/-- Converter `x` takes the lead of course `j` (R80, R81): a splice without suppression, counted and marked. -/
def spliceTo (j x : Nat) (s : State) : State :=
  assignExports (markCourse j 0 true (s.setCourse j fun c => { c with leader := some x, splice := none, spliceCount := satInc c.spliceCount, checkPower := (0, 0) }))

/-- The dividers of a die wait for their re-phase after a hop that its coasting clock held up: its converters' samples are zero until then (02 R62). -/
def State.dieWaits (s : State) (d : Nat) : Bool :=
  let h := (s.clk.get d).hop
  decide (h.phase = .waiting) || (decide (h.phase = .locked) && h.late)

/-- The course supplies samples from its converter `x` from `e` on; zeros while that one's die waits to re-phase (02 R62, R63). -/
def supplied (j x e : Nat) (s : State) : State :=
  if s.dieWaits (s.convOf j x / 2) then zeroCourse j s else unzeroCourse j e s

/-- The taps of a course without a leader start on its converter `x`, which samples, at the next plan-frame boundary (R84, R471); the commands that waited for the switch complete. -/
def startOn (j x : Nat) (s : State) : State :=
  let s := supplied j x (nextOf countsPerFrame s.now) (spliceTo j x s)
  completeWait (fun w => w = .retire (convRef (s.convOf j (1 - x)))) .ok 0 s

/-- A course that gives no samples falls back to converter `x`: powered if it is not, and leader at once if it already samples; LEVEL of a simplex course's input is due at once (R84, 12 R342). -/
def fallBackTo (j x : Nat) (cause : ConvCause) (s : State) : State :=
  let k := s.convOf j x
  let s := powerConv k (zeroCourse j s)
  let s := s.setCourse j fun c => { c with leader := none, splice := some (.fault x cause s.now), standbyReady := false }
  let s := assignExports (raise .courseFailover j [.w j, .w (s.convOf j (1 - x)), .w cause.code, .q s.now, .q s.now] s)
  let s := if (s.front.courses.get j).mode = .simplex then taskDue (.level j) s else s
  if (s.front.convs.get k).sampling && !(s.front.convs.get k).restoring then startOn j x s else s

/-- What a course does when its converter `x` has been marked failed: the ready standby takes over at a splice edge; without one the course falls back to the other converter, also where the failed one was only to lead; a converter that is neither leader nor about to lead leaves the lead alone (R80, R81, R83, R84, R85). The failed converter of a simplex course stays powered: DESIGN CHOICE (notes/assumptions/50.md). -/
def courseAfterFailure (j x : Nat) (cause : ConvCause) (firstMismatch : Nat) (s : State) : State :=
  let s := endAttribution j s
  let c := s.front.courses.get j
  let other := s.convOf j (1 - x)
  if c.mode = .off then s
  else if !s.convUsable other then loseCourse j s
  else if c.leader = some x then
    if c.mode = .duplex && c.standbyReady then
      s.setCourse j fun c => { c with splice := some (.fault (1 - x) cause firstMismatch) }
    else fallBackTo j (1 - x) cause s
  else if c.leader.isNone then (if c.lost then s else fallBackTo j (1 - x) cause s)
  else
    s.setCourse j fun c => { c with standbyReady := false, splice := match c.splice with
      | some (.planned y r) => if y = x then none else some (.planned y r)
      | y => y }

/-- A converter marked failed: CONVERTER_FAILED with its cause, then its course's handling, then the summary (R77, R473). -/
def failConverter (k : Nat) (cause : ConvCause) (firstMismatch : Nat) (s : State) : State :=
  if (s.front.convs.get k).failed then s else
  let s := s.setConv k fun c => { c with failed := true, sampling := false }
  let s := raise .converterFailed (k / 2) [.w k, .w cause.code] s
  refresh (courseAfterFailure (s.courseOf k) (k % 2) cause firstMismatch s)

end Sys2Proof.Machine
end

