-- ==== Sys2Proof/Machine/PortOps.lean ====
section
/-!
DEFINITION. What several families do to ports (09): frames and grid instants, starts and stops, spans of input samples, the follower's use, fences, armed edges.
-/
namespace Sys2Proof.Machine

def State.setPort (s : State) (p : PortId) (f : PortSt → PortSt) : State :=
  { s with ports := { s.ports with ports := s.ports.ports.modify p.key f } }
def State.portSt (s : State) (p : PortId) : PortSt := s.ports.ports.get p.key
def State.setAmclk (s : State) (d : Nat) (f : AmclkSt → AmclkSt) : State :=
  { s with ports := { s.ports with amclks := s.ports.amclks.modify d f } }

/-- A port that exists on the part (00 R1, R8). -/
def State.hasPort (s : State) (p : PortId) : Bool :=
  decide (p.die < s.dies) && (!p.isInput || decide (p.die < s.part.inPorts))

/-- The ports of a die. -/
def State.portsOf (s : State) (d : Nat) : List PortId := [PortId.out d, PortId.inp d].filter s.hasPort

/-- The grid index nearest to a SYSTIME: 48 kHz, 6,250 counts for 3 samples (04 R105). -/
def gridIndex (t : Nat) : Nat := (t * 3 + 3125) / 6250
/-- The grid instant of an index, rounded down to a whole count. -/
def gridInstant (n : Nat) : Nat := n * 6250 / 3

/-- Content is rendered 3.000 ms after its grid instant (R260). -/
def renderDelay : Nat := 300000
/-- SYSTIME counts of a millisecond. -/
def countsPerMs : Nat := 100000

/-- B: the first block boundary with B + 3.000 ms at or after the pre-roll's end (R264). -/
def dataStartFor (t : Nat) (e : PortEntry) : Nat := ceilTo countsPerBlock (t + e.preRoll * countsPerMs - renderDelay)

/-- Open a span. -/
def openSpan (t : Nat) (xs : List TimeSpan) : List TimeSpan :=
  if xs.any (·.stop.isNone) then xs else (xs.filter fun x => match x.stop with
    | some e => decide (t < e + countsPerSecond)
    | none => true) ++ [⟨t, none⟩]
/-- Close the open span. -/
def closeSpan (t : Nat) (xs : List TimeSpan) : List TimeSpan :=
  xs.map fun x => if x.stop.isNone then { x with stop := some t } else x

/-- The pre-roll begins at `t` (R264, R271). -/
def beginPreRoll (p : PortId) (t : Nat) (resuming : Bool) (s : State) : State :=
  let coast := (s.clk.get p.die).aud.coasting
  s.setPort p fun x =>
    let b := dataStartFor t x.entry
    let follow := x.entry.amclk || coast
    { x with
      phase := .preRoll, dataStart := b, resuming := resuming, onFollower := follow, locked := false, goodSince := none, errSum := 0
      suppressed := closeSpan b (openSpan t x.suppressed), unlocked := if follow then openSpan t x.unlocked else x.unlocked }

/-- A port stops: clock and lines low (R265, R273, R275). -/
def stopPort (p : PortId) (ph : PortPhase) (bp : Nat) (r : PortReason) (s : State) : State :=
  let s := s.setPort p fun x =>
    { x with phase := ph, onFollower := false, locked := false, atLimit := false, rateCorr := 0, errSum := 0, fifoLevel := 0, goodSince := none, mods := List.replicate 16 {}
             switchTo := none, fillLeft := 0, underrun := none, stopFrom := bp, resuming := false
             unlocked := closeSpan s.now x.unlocked }
  raise .portStopped p.die [.w p.word, .q bp, .w r.code] s

/-- The last block boundary at or before `t` (R265). -/
def blockFloor (t : Nat) : Nat := t / countsPerBlock * countsPerBlock

/-- PORT_STOP takes effect with stop tick at `t` (R265, R271, R275): at once without post-roll where the clock has frozen or is awaited, else idle for POST_ROLL. -/
def stopPortAt (p : PortId) (t : Nat) (s : State) : State :=
  let x := s.portSt p
  let bp := blockFloor t
  match x.phase with
  | .frozen | .awaitingClock => stopPort p .stopped bp .command s
  | .preRoll | .running | .reconfiguring =>
    let cancelled := decide (bp ≤ x.dataStart)
    let endAt := if cancelled then t + x.entry.postRoll * countsPerMs
      else bp + x.entry.postRoll * countsPerMs + if p.isInput then 0 else renderDelay
    s.setPort p fun x => { x with phase := .postRoll, stopFrom := bp, postEnd := endAt, switchTo := none }
  | _ => s

/-- A fenced die drives its ports low at once (R275, 01 R33). -/
def fencePorts (d : Nat) (s : State) : State :=
  (s.portsOf d).foldl (fun acc p =>
    let t := acc.setPort p fun x => { x with startAt := none, stopAt := none }
    if (acc.portSt p).phase.isStopped then t else stopPort p .stopped (blockFloor acc.now) .fence t) s

/-- The audio synthesizer coasts: internally clocked ports run the follower (R256). -/
def portsToFollower (d : Nat) (s : State) : State :=
  (s.portsOf d).foldl (fun acc p =>
    let x := acc.portSt p
    if !x.entry.amclk && x.phase.clocked then
      acc.setPort p fun x => { x with onFollower := true, locked := false, goodSince := none, unlocked := openSpan acc.now x.unlocked }
    else acc) s

/-- An armed edge moves every port in whole frames (R274): `old` is the count reached, `new` the designated value. PORT_RESYNC gives the frames inserted, or discarded as a negative number. -/
def resyncPorts (old new : Nat) (s : State) : State :=
  (List.range s.dies).foldl (fun acc d => (acc.portsOf d).foldl (fun acc p =>
    let x := acc.portSt p
    if !x.phase.clocked then acc else
    let n : Int := (gridIndex old : Int) - gridIndex new
    let acc := acc.setPort p fun x =>
      { x with
        fillLeft := x.fillLeft + if p.isInput then 0 else n.toNat
        discarded := x.discarded + BitVec.ofNat 32 (-n).toNat
        cut := if p.isInput && x.phase = .running && decide (x.nextBlock < old) then some (x.nextBlock, old) else x.cut
        nextBlock := if p.isInput then new else x.nextBlock
        suppressed := closeSpan new (openSpan new x.suppressed) }
    raise .portResync p.die [.w p.word, .w n] acc) acc) s

/-- The reload of a die's replica ends its input block in progress; the next begins on the reloaded count (02 R42). -/
def reloadPorts (d : Nat) (s : State) : State :=
  let p := PortId.inp d
  let x := s.portSt p
  if s.hasPort p && x.phase = .running && decide (x.nextBlock < s.now) then
    s.setPort p fun x => { x with cut := some (x.nextBlock, s.now), nextBlock := s.now }
  else s

/-- Some port of the die is on AMCLK: the clock is supervised (R272). -/
def State.supervised (s : State) (d : Nat) : Bool := (s.portsOf d).any fun p => (s.portSt p).entry.amclk

/-- A clock that no port uses any more is not supervised: what was found of it goes, its counts stay (R272). -/
def endSupervision (d : Nat) (s : State) : State :=
  if s.supervised d then s else s.setAmclk d fun a => { glitches := a.glitches, stops := a.stops }

/-- A committed port entry comes into force at SYSTIME `t` (R257, R258): what may change while a port runs, MASK with the first port block that begins at or after it, and everything on a stopped one. -/
def commitPort (p : PortId) (e : PortEntry) (t : Nat) (s : State) : State :=
  endSupervision p.die <| s.setPort p fun x =>
    { x with
      entry := e
      nom := if e = { x.entry with mask := e.mask, lineMask := e.lineMask, preRoll := e.preRoll, postRoll := e.postRoll, gapSilence := e.gapSilence }
        then x.nom else e.amclkNom
      mask := if x.phase = .running then x.mask else e.mask
      nextMask := if x.phase = .running && x.mask != e.mask then some (ceilTo countsPerBlock t, e.mask) else none }

end Sys2Proof.Machine
end

