-- ==== Sys2Proof/Machine/Units.lean ====
section
/-!
DEFINITION. What switching domains off does to the units in them (17 R435).
-/
namespace Sys2Proof.Machine

/-- A course without power: its settings and counts stay readable, nothing of it runs. -/
def Course.stopped (c : Course) : Course :=
  { c with mode := .off, inject := 0, agcOn := false, leader := none, standbyReady := false, contested := false, lost := false
           agcAtLimit := false, attributing := none, splice := none, zeroFrom := none, cleanRun := 0, lastMask := 0 }

/-- Every converter powered down: its last record stays latched (03 R100). -/
def stopConverters (s : State) : State :=
  { s with front :=
      { courses := s.front.courses.mapAll s.dies fun _ c => c.stopped
        convs := s.front.convs.mapAll (2 * s.dies) fun _ c => { c with powered := false, sampling := false, rotSteps := 0 } } }

/-- Every unit stopped: the clusters, audit taps, regions and audio of all dies lose their state (17 R435). -/
def stopUnits (s : State) : State :=
  { stopConverters s with taps := {}, lanes := {}, ports := {}, ofdm := {}, audio := {} }

end Sys2Proof.Machine
end

