-- ==== Sys2Proof/Machine/Domains.lean ====
section
/-!
DEFINITION. Which domains a configuration set or a mode needs (17 R433, R435, R436, R441), the start of a reception change, and the alert conditions (17 R442, R443).
-/
namespace Sys2Proof.Machine

/-- Bits of a list. -/
def orBits (bs : List Nat) : Nat := bs.foldl (fun acc b => acc ||| 2 ^ b) 0

/-- The region of an engine index: that of the physical engine behind it (R433, 06 R194). -/
def State.engineRegion (s : State) (e : Nat) : Nat := s.physEngine e / 2
/-- The region of a slot and of a decode context within their die (R433). -/
def slotRegion (x : Nat) : Nat := x % 64 / 32
def contextRegion (k : Nat) : Nat := k % 48 / 24

/-- The member engines of the enabled follow sets. -/
def ConfigSet.followEngines (c : ConfigSet) : List Nat :=
  (List.range 128).flatMap fun f => if (c.follows.get f).enable then (c.follows.get f).members.filterMap (·.engine) else []

/-- The decode contexts of the enabled follow sets. -/
def ConfigSet.followContexts (c : ConfigSet) : List Nat :=
  (List.range 128).flatMap fun f => if (c.follows.get f).enable then (c.follows.get f).members.filterMap (·.context) else []

/-- A set assigns an engine, a decode context or a slot of a region (R433). -/
def State.regionNeeded (s : State) (c : ConfigSet) (d g : Nat) : Bool :=
  (List.range 4).any (fun i =>
      ((c.engines.get (d * 4 + i)).cls != .off || c.followEngines.contains (d * 4 + i)) && s.engineRegion (d * 4 + i) == g)
  || c.followContexts.any (fun k => contextDie k == d && contextRegion k == g)
  || (List.range 64).any (fun i =>
      let e := c.slots.get (d * 64 + i)
      e.source != .none && (slotRegion i == g || (e.source = .decode && contextRegion e.context == g)))

/-- The digital domains that a set needs on a die in the reception modes (R433). -/
def State.digitalNeeded (s : State) (c : ConfigSet) (d : Nat) : Nat :=
  orBits ([0, 1, 2, 9, 12, 13]
    ++ ((List.range 4).filter fun i => (c.clusters.get (d * 4 + i)).btOn).map (· + 5)
    ++ ((List.range 2).filter (s.regionNeeded c d)).map (· + 10))

/-! ### What WATCH keeps (R441) -/

/-- The watch engine of a die: its lowest-indexed engine in class DAB or DRM. -/
def ConfigSet.watchEngine (c : ConfigSet) (d : Nat) : Option Nat :=
  ((List.range 4).map (d * 4 + ·)).find? fun e => (c.engines.get e).cls != .off

/-- The lanes of a die that WATCH keeps: the feeds of the watch engine and their branches. -/
def ConfigSet.watchLanes (c : ConfigSet) (d : Nat) : List Nat :=
  match c.watchEngine d with
  | some e =>
    let feeds := (c.engines.get e).feeds.filterMap fun f => f.map (d * 32 + ·)
    feeds ++ feeds.flatMap fun l => (c.lanes.get l).branches
  | none => []

/-- The watch taps of the enabled follow sets. -/
def ConfigSet.followTaps (c : ConfigSet) : List Nat :=
  (List.range 128).flatMap fun f => if (c.follows.get f).enable then (c.follows.get f).watches else []

/-- The watch taps that WATCH keeps: those in mode FM that no follow set has. -/
def ConfigSet.watchKept (c : ConfigSet) (w : Nat) : Bool :=
  (c.watches.get w).mode = .fm && !c.followTaps.contains w

/-- The clusters of a die that WATCH powers. -/
def ConfigSet.watchClusters (c : ConfigSet) (d : Nat) : List Nat :=
  ((List.range 4).map (d * 4 + ·)).filter fun k =>
    (c.clusters.get k).btOn
    && ((List.range 16).any (fun i => c.watchKept (k * 16 + i)) || (c.watchLanes d).any fun l => laneCluster l == k)

/-- The courses that kept units draw on. -/
def State.watchCourses (s : State) : List Nat :=
  (List.range s.dies).filter fun j => (List.range s.dies).any fun d =>
    (s.cfg.active.watchClusters d).any fun k => (s.cfg.active.clusters.get k).course == j

/-- The converter of a course that leads it, or would. -/
def State.courseConv (s : State) (j : Nat) : Nat :=
  s.convOf j ((s.front.courses.get j).leader.getD (if (s.cfg.active.courses.get j).preferB then 1 else 0))

/-- Domains of a die in WATCH (R436, R441). -/
def State.watchDomains (s : State) (d : Nat) : Nat :=
  let cl := s.cfg.active.watchClusters d
  orBits ([0, 1, 12] ++ cl.map (fun k => k % 4 + 5) ++ (if cl.isEmpty then [] else [2, 9])
    ++ (match s.cfg.active.watchEngine d with
        | some e => [s.engineRegion e + 10]
        | none => [])
    ++ (s.watchCourses.filterMap fun j => if s.courseConv j / 2 = d then some (convDomain (s.courseConv j)) else none)
    ++ (if s.watchCourses.any fun j => s.courseConv j / 2 == d then [2] else []))

/-- Domains of die `d` in a mode but for the reception modes (R436). -/
def State.modeDomains (s : State) (m : OpMode) (d : Nat) : Nat :=
  match m with
  | .off => 0
  | .boot => orBits [0, 1, 12]
  | .recovery | .halted | .sleep => if d = 0 then 1 else 0
  | .idle => orBits [0, 1, 2, 12]
  | .update => if s.mode.prev = .recovery then (if d = 0 then 1 else 0) else orBits [0, 1, 2, 12]
  | .watch => s.watchDomains d
  | .systemCal => orBits [0, 1, 2, 3, 4, 5, 6, 12]
  | .run | .runDegraded | .holdover | .diagnostic => s.digitalNeeded s.cfg.active d

/-- Switch on the domains of a mask on a die that is not fenced. -/
def powerMask (d m : Nat) (s : State) : State :=
  if s.dieUp d then (maskList 14 m).foldl (fun acc b => domainOn d b acc) s else s

/-- Switch off the domains of a die outside a mask; a fenced die keeps what its fence left (R435, R436). -/
def unpowerOutside (d m : Nat) (s : State) : State :=
  if s.dieUp d then ((List.range 14).filter fun b => !maskBit m b).foldl (fun acc b => domainOff d b acc) s else s

/-- Between validation and the tick the part powers every digital domain that the new set needs (R435). -/
def powerDigital (c : ConfigSet) (s : State) : State :=
  (List.range s.dies).foldl (fun acc d => powerMask d (s.digitalNeeded c d) acc) s

/-- The tick of a change that begins now: at least 2 ticks more than the present one (R439, R440). -/
def State.changeTick (s : State) : Nat := tickOf s.now + 2

/-- A change into reception begins: its tick, and power for the active set (R435, R439). -/
def beginReception (target : OpMode) (cause : ModeCause) (src : Option CmdSrc) (s : State) : State :=
  powerDigital s.cfg.committed { s with mode := { s.mode with change := some ⟨target, s.changeTick, cause, src⟩ } }

/-! ### Alerts -/

/-- LAST_SOURCE of a condition (17 "Registers"). -/
def AlertCond.source : AlertCond → Nat
  | .pty31 _ => 0 | .ta _ => 1 | .dab _ _ => 2 | .drm _ _ => 3
def AlertCond.index : AlertCond → Nat
  | .pty31 w | .ta w => w
  | .dab e _ | .drm e _ => e
def AlertCond.position : AlertCond → Nat
  | .pty31 _ | .ta _ => 0
  | .dab _ p | .drm _ p => p

/-- A condition counts: its kind is enabled, and it is a kept unit's in WATCH, or any unit's in the reception modes with ALERT_IN_RUN (R442). -/
def State.alertCounts (s : State) (a : AlertCond) : Bool :=
  let kind := match a with
    | .pty31 _ => s.mode.alertPty31
    | .ta _ => s.mode.alertTa
    | .dab _ _ => s.mode.alertDab
    | .drm _ _ => s.mode.alertDrm
  let unit := match s.mode.mode, a with
    | .watch, .pty31 w | .watch, .ta w => s.cfg.active.watchKept w
    | .watch, .dab e _ | .watch, .drm e _ => s.cfg.active.watchEngine (engineDie e) == some e
    | m, _ => m.reception && s.mode.alertInRun
  kind && unit

/-- WATCH_ALERT's items: asserted or released, source, index, position. -/
def AlertCond.args (a : AlertCond) (released : Nat) : List EvArg := [.w released, .w a.source, .w a.index, .w a.position]

/-- An alert condition holds or not (R442): one that begins latches the alert, and in WATCH the wake; the first in WATCH with AUTO_RUN starts reception unless a change has begun (R443). -/
def setAlert (a : AlertCond) (holds : Bool) (s : State) : State :=
  let inForce := s.mode.alerts.contains a
  if holds && s.alertCounts a && !inForce then
    let first := s.mode.alerts.isEmpty
    let watch := decide (s.mode.mode = .watch)
    let s := { s with mode := { s.mode with
      alerts := s.mode.alerts ++ [a], alertLatched := true, wakeLatched := s.mode.wakeLatched || watch
      lastSource := a.source, lastIndex := a.index, lastPosition := a.position, alertCount := s.mode.alertCount + 1 } }
    let s := raise .watchAlert pkg (a.args 0) s
    if watch && first && s.mode.autoRun && s.mode.change.isNone then beginReception .run .alert none s else s
  else if inForce && !(holds && s.alertCounts a) then
    raise .watchAlert pkg (a.args 1) { s with mode := { s.mode with alerts := s.mode.alerts.filter (· != a) } }
  else s

end Sys2Proof.Machine
end

