-- ==== Sys2Proof/Machine/Fences.lean ====
section
/-!
DEFINITION. Faults that reach a whole die or the part: the fault log's entries, the end of level steps, fences (01 R33), HALTED (01 R34, 17 R446), held loops (02 R57).
-/
namespace Sys2Proof.Machine

/-- One entry written to the fault log in flash: the next ENTRY_NUM, the boot number, TAI; the ring keeps 8,192 entries (14 R389). -/
def writeLog (ev : Ev) (s : State) : State :=
  let e : LogEntry := ⟨s.nv.logNext, s.nv.bootNum, s.taiAt ev.raised, ev⟩
  let log := s.nv.log ++ [e]
  { s with nv := { s.nv with log := if log.length > 8192 then log.drop 1 else log, logNext := s.nv.logNext + 1 } }

/-- Every waiting entry written, as before HALTED (R389, 17 R446). -/
def flushLog (s : State) : State :=
  let t := s.integ.logWaiting.foldl (fun acc ev => writeLog ev acc) s
  { t with integ := { t.integ with logWaiting := [] } }

/-! ### Level steps -/

/-- The injection switch of an input (03 R72). -/
def setInject (n v : Nat) (s : State) : State := s.setCourse n fun c => { c with inject := v }

/-- After 4 cover windows without completing, a step is abandoned; its item stays due (12 R347, R357). -/
def abandonStep (n lane : Nat) (s : State) : State :=
  let used := s.cal.windowsUsed.get n
  if 4 ≤ used then
    completeAll (fun w => w = .level n) .timeout (laneDie lane)
      (raise .calAbandoned pkg [.w n, .w used] { s with cal := { s.cal with windowsUsed := s.cal.windowsUsed.set n 0 } })
  else s

/-- A background level step ends: injection Off, its cover window closed, the step gone (12 R345, R358). -/
def endLevelStep (n : Nat) (s : State) : State :=
  match s.cal.steps.get n with
  | none => s
  | some st =>
    let c := laneCluster st.lane
    let s := { setInject n 0 s with cal := { s.cal with steps := s.cal.steps.set n none } }
    abandonStep n st.lane (if st.kind = .offLane then s
    else
      let s := s.setSpare c fun x =>
        let y := x.endCover (st.lane % 8) s.now
        { y with cover := none, rotStart := s.now, log := if s.nv.replaced.get c = some (st.lane % 8) then ⟨st.lane % 8, false, s.now, none⟩ :: y.log else y.log }
      { s with taps := { s.taps with tones := s.taps.tones.set st.lane {} } }.setDemod st.lane fun x => { x with lastCoverTick := tick32 s.now })

/-- A level step that a fault ends: its command completes with ABORTED_FAULT (12 R358, 02 R62). -/
def abortLevelStep (n : Nat) (s : State) : State :=
  if (s.cal.steps.get n).isSome then endLevelStep n (completeAll (fun w => w = .level n) .abortedFault s.abortResult s) else s

/-- The level steps whose lane lies on the clusters of a die. -/
def endStepsOfDie (d : Nat) (s : State) : State :=
  (List.range s.dies).foldl (fun acc n =>
    match acc.cal.steps.get n with
    | some st => if laneDie st.lane = d then endLevelStep n acc else acc
    | none => acc) s

/-! ### Fences and HALTED -/

/-- What fenced a die, in the order of DIE_FENCED (14 events table). -/
inductive FenceCause where
  | lockstep | supply | controlMemory
  /-- a failed self-test that the event's list does not name (17 R449): its number is a free value -/
  | unstated (n : Nat)
  deriving DecidableEq, Repr

/-- The number of a fence cause. -/
def FenceCause.code : FenceCause → Nat
  | .lockstep => 0 | .supply => 1 | .controlMemory => 2 | .unstated n => n

/-- A die's checks end with it (14 R392): planish pass, assay, audit. -/
def endDieWork (d : Nat) (s : State) : State :=
  let s := s.setDieInteg d fun x => { x with passRunning := false, passAge := 0 }
  let s := { s with taps := { s.taps with audits := s.taps.audits.modify d fun a => { a with target := none, verifying := none } } }
  let s := taskNormal (.planish d) s
  ((List.range 4).map (d * 4 + ·)).foldl (fun acc c => acc.setSpare c fun x =>
    { ((List.range 8).foldl (fun y p => y.endCover p acc.now) x) with assay := none, cover := none }) s

/-- The die of the unit that a command waits for. -/
def Wait.die (s : State) : Wait → Option Nat
  | .portStart p _ | .portStop p _ => some p.die
  | .capture r _ => (s.link.captures.get r).map fun x => if x.kind = .bandTap then clusterDie x.source else laneDie x.source
  | .level n => (s.cal.steps.get n).map fun x => laneDie x.lane
  | .monitor d | .injection d => some d
  | .retire u | .restore u => some u.die
  | _ => none

/-- The commands that wait so complete with ABORTED_FAULT: a fault ended them (11 R315). -/
def abortWaits (p : Wait → Bool) (s : State) : State :=
  cmdSources.foldl (fun acc src => match acc.execOf src with
    | some e => if p e.wait then complete src e.desc e.index .abortedFault acc.abortResult acc else acc
    | none => acc) s

/-- A capture from die `d` that has not started. -/
def dropsCapture (d : Nat) : Option Capture → Bool
  | some x => !x.started && (if x.kind = .bandTap then clusterDie x.source else laneDie x.source) == d
  | none => false

/-- A set without the follow sets of fenced dies, which are ignored (01 R36). -/
def State.liveFollows (s : State) (c : ConfigSet) : ConfigSet :=
  s.integ.fenced.foldl (fun c d =>
    { c with follows := (List.range 16).foldl (fun t i => t.modify (d * 16 + i) fun e => { e with enable := false }) c.follows }) c

/-- Fence a die (01 R33): no delivery any more, its converters failed, RUN_DEGRADED by the summary. It keeps RING while RING's supplies pass (17 R436). -/
def fenceDie (d : Nat) (cause : FenceCause) (ringOk : Bool) (s : State) : State :=
  if s.integ.fenced.contains d then s else
  let s := abortWaits (fun w => w.die s == some d) s
  let s := endDieWork d (endStepsOfDie d s)
  let s := { s with integ := { s.integ with fenced := s.integ.fenced ++ [d] } }
  let s := { s with cfg := { s.cfg with active := s.liveFollows s.cfg.active } }
  let s := { s with domains := s.domains.modify d fun x =>
    { x with on := if ringOk then x.on &&& 2 else 0, ready := if ringOk then x.ready &&& 2 else 0, armed := if ringOk then x.armed &&& 2 else 0 } }
  let caps := ((List.range 64).map (· + 32)).foldl (fun (t : Tbl (Option Capture)) r => if dropsCapture d (t.get r) then t.set r none else t) s.link.captures
  let convs := s.front.convs.mapAll (2 * s.dies) fun k c => if k / 2 = d then { c with restoring := false } else c
  let s := { s with link := { s.link with captures := caps }, front := { s.front with convs := convs } }
  let s := fencePorts d (raise .dieFenced pkg [.w d, .w cause.code] s)
  let s := endHop d id s
  let s := failConverter (d * 2) .dieFenced s.now s
  refresh (failConverter (d * 2 + 1) .dieFenced s.now s)

/-- Every executing command completes with ABORTED_FAULT where the link still operates, and internally where it does not (11 R319, 16 R432). -/
def abortCommands (s : State) : State :=
  let s := (List.range 16).foldl (fun acc r =>
    match (acc.link.rings.get r).executing with
    | some e => if acc.link.pcie.linkUp then complete (.ring r) e.desc e.index .abortedFault acc.abortResult acc
                else acc.setRing r fun g => { g with executing := none }
    | none => acc) s
  match s.mb.executing with
  | some e => complete .mailbox e.desc e.index .abortedFault s.abortResult s
  | none => s

/-- An update in progress ends with its slot left invalid: UPDATE_ABANDONED with the slot and its cause, 0 MODE_SET, 1 power failure, 2 fault (15 R399). -/
def abandonUpdate (cause : Nat) (s : State) : State :=
  match s.sec.update with
  | none => s
  | some u => raise .updateAbandoned pkg [.w (b2n u.slotB), .w cause] { s with sec := { s.sec with update := none }, nv := { s.nv with sec := { s.nv.sec with updating := none } } }

/-- All domains off but die 0's CONTROL (17 R436, R446). -/
def haltDomains (s : State) : State :=
  { s with domains := (List.range s.dies).foldl (fun t d => t.modify d fun x =>
      if d = 0 then { x with on := x.on &&& 1, ready := x.ready &&& 1, armed := x.armed &&& 1 } else { x with on := 0, ready := 0, armed := 0 }) s.domains }

/-- What ends as the part enters HALTED: waiting commands, an update, COMMITs, a mode change, the work of every domain (01 R34, 11 R322). -/
def endForHalted (cause : Nat) (s : State) : State :=
  let s := flushLog s
  let s := abortCommands (abandonUpdate 2 s)
  let s := { s with cfg := { s.cfg with commit := none, hopping := [] }, integ := { s.integ with haltCause := cause } }
  let s := haltDomains s
  { s with mode := { s.mode with change := none, clocksRun := true, wakeLatched := s.mode.wakeLatched && s.mode.mode != .watch } }

/-- Enter HALTED (01 R34, 17 R446): waiting log entries written, commands aborted, the pending COMMIT in force on no die, domains off, alert conditions and the wake latch of WATCH gone (17 R442), AER where the link operates. HALT_CAUSE as R391 numbers it. -/
def enterHalted (cause : Nat) (s : State) : State :=
  if s.mode.mode = .halted then s else
  let s := setMode .halted .fault (endForHalted cause s)
  let s := stopUnits (s.mode.alerts.foldl (fun acc a => setAlert a false acc) s)
  refresh (if s.link.pcie.linkUp then send .aerFault s else s)

/-! ### Held loops -/

/-- An unlock of a die loop counted toward class 6; once lasting, the loop is held and PLL_HELD raised (02 R57, R472). -/
def countUnlock (d : Nat) (l : DieLoop) (s : State) : State :=
  let s := raise .pllUnlock d [.w d, .w l.code, .q s.now] s
  let r := occur 6 (loopRef d l) s
  if r.1 then
    raise .pllHeld d [.w d, .w l.code] (r.2.setClk d fun c => c.setLoop l { c.loop l with held := true })
  else r.2

end Sys2Proof.Machine
end

