-- ==== Sys2Proof/Config.lean ====
section
/-!
DEFINITION. What the manual leaves open or takes from outside: uninterpreted constants with no body. Nothing can evaluate them, so no claim rests on a value of them. Filters, loops and codecs of which the manual gives limits but no coefficients are functions of what they were given since they restarted (notes/assumptions/49.md).
-/
namespace Sys2Proof.Config
open Sys2Proof.Machine

/-- The SM3 digest of a byte string (15 R393): 32 bytes, uninterpreted (notes/assumptions/5.md). -/
opaque sm3 : List Byte → List Byte

/-- The SM2 signature of a digest under a key number (15 R393): 64 bytes, uninterpreted (notes/assumptions/5.md). -/
opaque sm2Sign : Nat → List Byte → List Byte

/-- Whether a signature of a digest verifies under a public key (15 R393), uninterpreted (notes/assumptions/5.md). -/
opaque sm2Verify : List Byte → List Byte → List Byte → Bool

/-- A value the manual leaves open, by the count of free values drawn so far: nonces, generated keys (notes/assumptions/8.md). -/
opaque freeValue : Nat → Nat

/-- A table of R341 beyond its last point, at 240 MHz: by table and frequency in Hz; the manual states no value there (notes/assumptions/9.md). -/
opaque beyondTable : List Int → Nat → Int

/-! ### Chains (04) -/

/-- Cosine and sine of a 20-bit phase in units of 2^−17, 18 bits each (R107). -/
opaque bandOscillator : Nat → Int × Int

/-- Cosine and sine of a 32-bit phase in units of 2^−17 (R114). -/
opaque fineOscillator : Nat → Int × Int

/-- 10^(x / 2000), x in 0.01 dB, in units of 2^−16: the calibrated inverse of a gain step (03 R94). -/
opaque dbFactor : Int → Int

/-- The coefficients of the half-band stages HB-A, HB-B and HB-C in units of 2^−17: the centre, then the distinct ones outward (R113). -/
opaque halfBandA : List Int
opaque halfBandB : List Int
opaque halfBandC : List Int

/-- Bits of a band-tap stage word (R113). -/
opaque bandTapBits : Nat

/-- The coefficient of a phase (0 to 1,024, the last being phase 0 of the next sample) and a tap (0 to 63) of the resampler, in units of 2^−17 (R114). -/
opaque resampler : Nat → Nat → Int

/-- v_floor: the converter noise in the passband of a lane of a rate class on a course at g = +14 dB, from calibration, as a mean of |x|² (05 R147). -/
opaque noiseFloor : Nat → Nat → Int

/-! ### Demodulators (05) -/

/-- The argument of a complex number in units of 2^−32 turn, signed (R142). -/
opaque arg : Int → Int → Int

/-- The carrier loop of an AM lane with a loop bandwidth code over the samples since the restart: the carrier's phase at the last of them in units of 2^−32 turn, whether the loop is locked, and the carrier's frequency in 0.01 Hz (R139). -/
opaque carrierLoop : Nat → List (Int × Int) → Nat × Bool × Int

/-- The mean of the modulation that the audio of an AM lane is freed of, and its low-pass for an AUDIO_BW code, over the input since the restart (R140). -/
opaque amMean : List Int → Int
opaque amLowPass : Nat → List Int → Int

/-- AMSS: the bits demodulated at 46.875 bit/s from the carrier phase since the restart, by their number, each with the represented SYSTIME at which it began (R141). -/
opaque amssBits : List (Int × Int) → Nat → Bool × Int

/-- The check bits of a 47-bit AMSS block as ETSI TS 102 386 defines them: the corrected block, the result 0, 1 or 3, and the service identifier that the block carries (R141). -/
opaque amssBlock : Nat → Nat × Nat × Option Nat

/-- Block synchronisation of AMSS over the blocks' check results so far, newest first (R141). -/
opaque amssSynced : List Nat → Bool

/-- RMS deviation of an AM carrier's phase about its tracked mean, in 0.01°, over a period's samples (R150). -/
opaque amssPhaseDev : List (Int × Int) → Nat

/-- The quadrature component of an AM carrier after its loop over the samples since the restart (R150). -/
opaque carrierQuadrature : Nat → List (Int × Int) → Int

/-- The MPX low-pass over Δf less the carrier offset since the restart, in 1/256 Hz (R142). -/
opaque mpxLowPass : List Int → Int

/-- |x| high-passed at 500 Hz over the samples since the restart (R150). -/
opaque highPass500 : List Nat → Int

/-- The pilot loop over the MPX since the restart: whether it is in lock, and the regenerated 38 kHz at the last sample in units of 2^−17 (R143). -/
opaque pilotLoop : List Int → Bool × Int

/-- Peak deviation in Hz and frequency less 19,000 Hz in 0.01 Hz of the 19 kHz component of a period's MPX (R150). -/
opaque pilotDeviation : List Int → Nat
opaque pilotFrequency : List Int → Int

/-- The MPX within ±2.4 kHz of a subcarrier in Hz, over the input since the restart (R150). -/
opaque rdsBand : Nat → List Int → Int

/-- RDS: the bits that carrier and bit-clock recovery on a subcarrier in Hz give of the MPX since the restart, by their number, each with the represented SYSTIME at which it began (R152). -/
opaque rdsBits : Nat → List Int → Nat → Bool × Int

/-- The audio low-pass and de-emphasis (none, 50 µs, 75 µs) of FM over the input since the restart (R143, R144). -/
opaque fmLowPass : List Int → Int
opaque deemphasis : Nat → List Int → Int

/-- Resampling from the 512 kS/s grid to a 48 or 192 kS/s grid point: the input since the restart, and how far the grid point lies behind its last sample in 1/12,288 count (R144, R145). -/
opaque resampleAudio : List Int → Int → Int
opaque resampleMpx : List Int → Int → Int

/-- A quantity whose formula divides by zero or takes the level of nothing, where the manual states no value: by what it is a quantity of (R139, R150). -/
opaque levelOfNothing : Int

/-! ### OFDM engines (06)

Acquisition, equalisers, soft decisions and decoders, of which the manual gives inputs, outputs and limits; the tables of the broadcast standards that it names and does not print (notes/assumptions/52.md). -/

/-- DAB acquisition and tracking over the feed since the restart, missing samples none, with a search range in Hz (R173). -/
opaque dabReceiver : Nat → List (Option (Int × Int)) → DabTiming

/-- DRM acquisition and tracking, with the robustness mode sought, 0 any of A to D, and a search range in Hz (R185). -/
opaque drmReceiver : Nat → Nat → List (Option (Int × Int)) → DrmTiming

/-- The 1,536 carriers of a DAB symbol from its useful part, corrected for a carrier offset in 0.01 Hz (R172). -/
opaque dabCells : Int → List (Int × Int) → List (Int × Int)

/-- The 3,072 soft decisions of a symbol from the carriers of the symbol before it and its own (R172). -/
opaque softDecisions : List (Int × Int) → List (Int × Int) → List Int

/-- Signal and error power over data cells (06 MER). -/
opaque cellPowers : List (Int × Int) → List (Int × Int) → Nat × Nat

/-- Which bits of the mother code are sent of the FIC's 768 bits, and of a sub-channel by its protection and its size in CUs (EN 300 401, R172, R176). -/
opaque ficPuncturing : List Bool
opaque mscPuncturing : Nat → Nat → List Bool

/-- Size in CUs of a sub-channel by its UEP table entry (EN 300 401). -/
opaque uepSize : Nat → Nat

/-- The Viterbi decoder: the information bits of a depunctured word (R176). -/
opaque viterbi : List Int → List Bool

/-- The symbols that a Reed-Solomon decoder of so many check symbols would change: place and value. They count only where they give a word of the code (R177, R178). -/
opaque rsErrors : Nat → List Byte → List (Nat × Byte)

/-- The header CRC of a Layer II frame (R177). -/
opaque layer2Crc : List Byte → Bool

/-- CRC_OK of a unit of a stream-mode data sub-channel, which has no CRC (R189). -/
opaque streamCrcOk : Bool

/-- F-PAD and X-PAD extraction: the memory and an audio frame give the memory and the data groups completed (R178). -/
opaque padGroups : List Byte → List Byte → List Byte × List GroupOut

/-- The power profile of 2,048 taps from the useful part of a PRS (R180). -/
opaque prsProfile : List (Int × Int) → List Nat

/-- Where between the neighbours of a maximum a path lies, in 1/8 sample: the tap before, the maximum, the tap after (R180). -/
opaque tapFraction : Nat → Nat → Nat → Int

/-- A null symbol carries TII; the power of each combination and what it adds to its phase slope; the noise floor (R181). -/
opaque carriesTii : List (Int × Int) → Bool
opaque tiiSums : List (Int × Int) → List (Int × Int) → List TiiSum
opaque tiiNoise : List (Int × Int) → Nat

/-- The delay of a phase slope in 1/8 sample (R181). -/
opaque slopeDelay : Int → Int → Int

/-- The cells of a DRM symbol by robustness mode, from its useful part and a carrier offset in 0.01 Hz (R184). -/
opaque drmCells : Nat → Int → List (Int × Int) → List (Int × Int)

/-- FAC: its bits from the cells of a frame, and the bits in error by re-encoding (R186). -/
opaque drmFac : Nat → List (Int × Int) → List Bool × Nat

/-- Symbols of a frame up to the last FAC cell, and symbols of a superframe that carry the SDC (ES 201 980). -/
opaque facSymbols : Nat → Nat
opaque sdcSymbols : Nat → Nat

/-- SDC: its bytes from the cells of the first frame of a superframe, by mode and the FAC (R184, R186). -/
opaque drmSdc : Nat → List Bool → List (Int × Int) → List Byte

/-- The data entities of an SDC, each with whether it describes the next configuration (ES 201 980, R186). -/
opaque sdcEntities : List Byte → List (Bool × Fig)

/-- MSC: the multiplex frame from the cells of the frames in its interleaver, oldest first, by mode, FAC and multiplex (R184). -/
opaque drmMsc : Nat → List Bool → List (Nat × Nat) → List (List (Int × Int)) → List Byte

/-- The access units of a stream's part of a multiplex frame, by codec, each with whether its CRC passed (R184). -/
opaque drmUnits : Nat → List Byte → List (List Byte × Bool)

/-- Text messages and data groups of a DRM stream: the memory and the stream's part of a frame give the memory and what was completed (R184). -/
opaque drmGroups : List Byte → List Byte → List Byte × List GroupOut

/-! ### Programme audio and ports (07 to 09)

Codecs, filters and loops of which the manual gives limits but no coefficients (notes/assumptions/53.md). -/

/-- Output rate, channels and samples of an access unit, by codec and payload (08 R228, R230). -/
opaque audioFormat : Nat → List Byte → Nat × Nat × Nat

/-- The codec: its memory and an access unit give the memory and the unit's samples, left and right, a mono source in both (R230, R232). -/
opaque audioDecode : Nat → List Byte → List Byte → List Byte × List (Int × Int)

/-- The codec's concealment of a unit of so many samples, which fades to zero across it (R231). -/
opaque audioConceal : Nat → List Byte → Nat → List Byte × List (Int × Int)

/-- Samples of a good unit, by codec and rate, whose transform overlap reaches into the unit before (R231). -/
opaque audioOverlap : Nat → Nat → Nat

/-- The gains kp and ki of the rate follower, and of a port's, in units of 2^−40 (R233, 09 R254). -/
opaque followerGains : Int × Int
opaque portGains : Int × Int

/-- K-weighting of a channel at 48 kHz, sample by sample (08 R238). -/
opaque kWeighted : List Int → List Int

/-- Tests of a classifier window: 90 % of the power within ±20 Hz of one frequency; spectral flatness of at least 0.70 from 100 Hz to 15 kHz; 90 % of the power in at most four bands of 200 Hz with a dominant band that changes at a steady rate between 100 and 4,800 per second (R240). -/
opaque isTone : List (Int × Int) → Bool
opaque isNoise : List (Int × Int) → Bool
opaque isData : List (Int × Int) → Bool

/-- The band-pass from 300 Hz to 3,400 Hz at 48 kHz, sample by sample (07 R210, 08 R242). -/
opaque speechBand : List Int → List Int

/-- The alignment interpolator: the coefficient of a phase (0 to 15) and a tap (0 to 31) in units of 2^−17 (07 R212). -/
opaque alignFilter : Nat → Nat → Int

/-- Interpolation to the bit rate: the last samples at 48 kHz, newest first, give the next frame's 64 or 128 values (09 R259). -/
opaque pdmInterpolate : Nat → List Int → List Int

/-- One bit of the fifth-order modulator: its states and the density in units of 2^−25 give the bit and the states; the bound within which the states are held (R259). -/
opaque pdmModulate : List Int → Int → Bool × List Int
opaque pdmLimit : Nat

/-! ### Cross-check and calibration (03, 12) -/

/-- The standard deviation that two converters' independent noise gives the difference of their projections over a check window, from the two powers (03 R78). -/
opaque projectionSd : Nat → Nat → Nat

/-- Of the samples of a lane tuned to a tone: the power within 500 Hz of it and that of the rest of the passband (12 R351). -/
opaque toneSplit : List (Int × Int) → Nat × Nat
/-- The front-end delay that gain steps on a tone show, in 1/1,024 converter sample (12 R349). -/
opaque frontEndDelay : List (Int × Int) → Int
/-- The change of trim, in 1/1,024 sample, that brings a tone's samples (second) into phase with others (first), at its frequency and the converters' rate in kS/s (12 R349). -/
opaque trimBetween : List (Int × Int) → List (Int × Int) → Nat → Nat → Int
/-- Offset and gain that bring a monitor's two reference channels toward their recorded values, from the two conversions in 1/256 LSB and the two values (12 R353). -/
opaque towardRefs : Int → Int → Int → Int → Int × Int

end Sys2Proof.Config
end

