-- ==== Sys2Proof/Machine/Hallmark.lean ====
section
/-!
DEFINITION. Hallmark intervals (15 R405, R406, R412): the units that have a leaf, the beginning of an interval, the end at an armed SYNC edge, free values and keys.
-/
namespace Sys2Proof.Machine

/-- A value that the manual leaves open; each use takes a new one (notes/assumptions/8.md). -/
def State.freeNat (s : State) : Nat := Config.freeValue s.freeCount
def advanceFree (s : State) : State := { s with freeCount := s.freeCount + 1 }

/-- The units with a leaf at this instant (R406). -/
def State.hallUnits (s : State) : List HallUnit :=
  let c := s.cfg.active
  let force := s.mode.mode.receiving
  let watch := decide (s.mode.mode = .watch)
  ((List.range (s.dies * 32)).filter fun l => (s.taps.lanes.get l).active && decide (1 ≤ (c.lanes.get l).mode.code) && decide ((c.lanes.get l).mode.code ≤ 5)).map (⟨1, ·, 0⟩)
  ++ ((List.range (s.dies * 4)).flatMap fun g =>
      if force || (watch && c.watchEngine (engineDie g) == some g) then (c.engines.get g).positions.map (⟨2, g, ·⟩) else [])
  ++ (if force then ((List.range (s.dies * 64)).filter fun x => (c.slots.get x).source != .none).map (⟨3, ·, 0⟩) else [])
  ++ (if force then ((List.range (s.dies * 16)).filter fun f => (c.follows.get f).enable).map (⟨4, ·, 0⟩) else [])
  ++ ((List.range s.part.inPorts).filter fun d => decide ((s.ports.ports.get (8 + d)).phase = .running)).map (⟨5, ·, 0⟩)

/-- The units of this instant join those of the interval in progress (R406). -/
def seeUnits (s : State) : State :=
  let us := s.hallUnits
  s.setHall fun h => { h with acc := h.acc.map fun a => { a with units := a.units ++ us.filter fun u => !a.units.contains u } }

/-- An interval begins at `t` (R405). -/
def beginInterval (t : Nat) (s : State) : State :=
  let a : HallAcc :=
    { start := t, genStart := s.link.configGen.toNat, faultStart := s.faultSummary, modeStart := s.mode.mode.code
      debugStart := s.sec.debugLevel, ppsThroughout := s.ppsPresent, units := s.hallUnits }
  s.setHall fun h => { h with acc := some a }

/-- The numbers of an item list. -/
def EvArg.num : EvArg → Int
  | .w v | .q v => v

/-- The item `i` of the events of a name. -/
def itemsOf (es : List Ev) (n : EvName) (i : Nat) : List Nat := (es.filter fun e => decide (e.name = n)).map fun e => (e.args.getD i (.w 0)).num.toNat

/-- What a reported value was before the first report of its change: item 0 is the old value, `now` the value where there is none. -/
def valueBefore (es : List Ev) (n : EvName) (now : Nat) : Nat := (itemsOf es n 0).headD now

/-- The interval in progress with what belongs to it when it ends at `stop` (R407). -/
def HallAcc.upTo (a : HallAcc) (stop : Nat) : HallAcc :=
  { a with events := a.events.filter fun e => decide (e.raised < stop), notes := a.notes.filter fun n => decide (n.at_ < stop) }

/-- What is reported after an interval's end at `stop` and before its seal: it is of the next. -/
def HallAcc.eventsAfter (a : HallAcc) (stop : Nat) : List Ev := a.events.filter fun e => decide (stop ≤ e.raised)

/-- The mode code and the summary at `stop`. -/
def HallAcc.modeAt (a : HallAcc) (stop : Nat) (s : State) : Nat := valueBefore (a.eventsAfter stop) .modeChanged s.mode.mode.code
def HallAcc.faultAt (a : HallAcc) (stop : Nat) (s : State) : Nat := valueBefore (a.eventsAfter stop) .degradedChange s.faultSummary

/-- FAULT_UNION, MODES_SEEN and the highest debug level of an interval, from what held at its beginning and what it reported (R407, R408). -/
def HallAcc.faultUnion (a : HallAcc) : Nat := (itemsOf a.events .degradedChange 1).foldl (fun acc v => acc ||| v) a.faultStart
def HallAcc.modesSeen (a : HallAcc) : Nat := (itemsOf a.events .modeChanged 1).foldl (fun acc v => acc ||| 2 ^ v) (2 ^ a.modeStart)
def HallAcc.debugLevel (a : HallAcc) : Nat := (itemsOf a.events .debugOpened 0).foldl max a.debugStart

/-- The interval that follows one that ended at `stop` takes what came since. -/
def carryInterval (a : HallAcc) (stop : Nat) (s : State) : State :=
  s.setHall fun h => { h with acc := h.acc.map fun b =>
    { b with genStart := s.configGenAt stop, faultStart := a.faultAt stop s, modeStart := a.modeAt stop s
             debugStart := (a.upTo stop).debugLevel
             events := a.eventsAfter stop, notes := a.notes.filter fun n => decide (stop ≤ n.at_) } }

/-- SYSTIME counts of an interval. -/
def HallSt.counts (h : HallSt) : Nat := h.interval * countsPerSecond

/-- The end of an interval that began at `t` (R405). -/
def HallSt.endOf (h : HallSt) (t : Nat) : Nat := nextOf h.counts t

/-- An armed SYNC edge ends the interval in progress on the old count; the next runs from the edge to the next boundary (R412). -/
def cutInterval (old v : Nat) (s : State) : State :=
  match s.sec.hall.acc with
  | some a => beginInterval v (s.setHall fun h => { h with cut := some (a, old, (v : Int) - old) })
  | none => s.setHall fun h => { h with startDue := ceilTo h.counts v }

end Sys2Proof.Machine
end

