-- ==== Sys2Proof/Machine/Clocks.lean ====
section
/-!
DEFINITION. Clocks, synchronisation and system time (02): loss and return of the reference, coasting loops, drift, SYSTIME and its replicas, SYNC and PPS, plan hops.
-/
namespace Sys2Proof.Machine

/-! ### The die temperature (R44) -/

/-- The part's own conversion of TEMP2, an injected conversion ahead of any that is queued (R44, 13 R367); acquisition as the manual leaves it open: the default of entry 2 (notes/assumptions/51.md). -/
def convertTemp2 (d : Nat) (s : State) : State :=
  if !maskBit (s.domains.get d).ready 0 then s else
  s.setMon d fun m =>
    let x : MonInj := { channel := 2, acq := 1, testDac := false, dacCode := 0, src := none }
    match m.queue with
    | [] => { m with queue := [x], injStart := s.now, repeats := m.repeats || m.converting, converting := false }
    | y :: rest => { m with queue := y :: x :: rest }

/-! ### Loops -/

/-- A phase in ps taken modulo a period, from minus half of it to plus half exclusive (R64). -/
def wrapPs (period : Int) (x : Int) : Int := (x + period / 2) % period - period / 2

/-- The PFD period of a die loop in ps (R64). -/
def DieLoop.pfdPs : DieLoop → Int
  | .samp | .sys => 10000
  | .aud => 31250000

/-- The REFIN period in ps (R40). -/
def State.refPs (s : State) : Int := if s.pins.refsel then 10000 else 100000

/-- What a converter clock that starts coasting ends: leadership moves where the standby's clock is locked (03 R81), a level calibration of the converter aborts (R62). -/
def sampCoastWork (d : Nat) (s : State) : State :=
  (List.range s.dies).foldl (fun acc j =>
    if acc.leaderDie j = some d then
      let c := acc.front.courses.get j
      let x := c.leader.getD 0
      let other := acc.convOf j (1 - x)
      let acc := abortLevelStep j acc
      if c.mode = .duplex && c.standbyReady && c.splice.isNone && acc.convUsable other && (acc.clk.get (other / 2)).samp.locked then
        acc.setCourse j fun c => { c with splice := some (.planned (1 - x) .coasting) }
      else acc
    else acc) s

/-- A die loop goes on its hold DAC at once (R56). -/
def coastLoop (d : Nat) (l : DieLoop) (s : State) : State :=
  let s := s.setClk d fun c => c.setLoop l { c.loop l with locked := false, coasting := true, coastAt := s.now, attempt := none }
  match l with
  | .samp => sampCoastWork d (openSuspect (.convs d) s)
  | .sys => openSuspect (.units d) s
  | .aud => portsToFollower d s

/-- The reference PLL goes on its hold DAC: the HOLDOVER condition (R56, R57). -/
def coastRef (s : State) : State :=
  openSuspect .refCoast { s with ref := { s.ref with locked := false, coasting := true, coastAt := s.now, attempt := none } }

/-- REFIN loss detected (R56). -/
def execRefinLoss (s : State) : Res :=
  onlyIf s.ref.present s
    (let t := coastRef { s with ref := { s.ref with present := false } }
     refresh (raise .refLost pkg [.q s.now] t))

/-- Root loss detected at one die: all its synthesizers coast (R56). -/
def execRootLossAtDie (d : Nat) (s : State) : Res :=
  onlyIf (decide (d < s.dies) && (s.clk.get d).rootPresent) s
    (refresh (coastLoop d .aud (coastLoop d .sys (coastLoop d .samp (s.setClk d fun c => { c with rootPresent := false })))))

/-- The sampling lock detector is masked during a hop (R45). -/
def HopSt.masked (h : HopSt) : Bool :=
  match h.phase with
  | .stored | .search | .locked => true
  | _ => false

/-- A lock detector trips: the loop coasts; a die loop's unlock counts toward its lasting rule (R56, R57). -/
def execLossOfLock (l : LoopId) (s : State) : Res :=
  match l with
  | .ref => onlyIf (s.ref.locked && !s.ref.coasting) s (refresh (coastRef s))
  | .die d l =>
    let c := s.clk.get d
    onlyIf (decide (d < s.dies) && (c.loop l).locked && !(c.loop l).coasting && !(decide (l = .samp) && c.hop.masked)) s
      (refresh (countUnlock d l (coastLoop d l s)))

/-- 100 µs after coast entry, with its reference present, a loop that is not held attempts to relock; the phase then measured is the build-out (R64, R472). So does the reference PLL after the failed attempt of a boot. -/
def execRelockAttempt (l : LoopId) (phase : Int) (s : State) : Res :=
  match l with
  | .ref =>
    onlyIf (!s.ref.locked && s.ref.present && s.ref.attempt.isNone && decide (s.ref.coastAt + 10000 ≤ s.now)) s
      { s with ref := { s.ref with attempt := some s.now, buildOut := wrapPs s.refPs phase } }
  | .die d l =>
    let c := s.clk.get d
    let x := c.loop l
    onlyIf (decide (d < s.dies) && x.coasting && !x.held && c.rootPresent && x.attempt.isNone && decide (x.coastAt + 10000 ≤ s.now)) s
      (s.setClk d fun c => c.setLoop l { c.loop l with attempt := some s.now, buildOut := wrapPs l.pfdPs phase })

/-! ### Plan hops -/

/-- The hop is incomplete on a die: both converters failed, the COMMIT aborts, the swap stands (R63). -/
def incompleteHop (d : Nat) (s : State) : State :=
  let s := s.setClk d fun c => { c with hop := { c.hop with phase := .incomplete } }
  let s := failConverter (d * 2) .incompleteHop s.now s
  let s := failConverter (d * 2 + 1) .incompleteHop s.now s
  endHop d (fun c => { c with hopFailed := true }) s

/-- A wait of R62 on a die whose loop has just been held ends (R63). -/
def endWaitIfHeld (d : Nat) (s : State) : State :=
  let c := s.clk.get d
  if c.samp.held && c.hop.phase = .waiting then incompleteHop d s else s

/-- An attempt has not reached lock in 10 ms: the loop coasts again and counts a further unlock (R472). -/
def execRelockAttemptFailed (l : LoopId) (s : State) : Res :=
  match l with
  | .ref =>
    match s.ref.attempt with
    | some t => onlyIf (decide (t + 1000000 ≤ s.now)) s (refresh (coastRef s))
    | none => .next s
  | .die d l =>
    match ((s.clk.get d).loop l).attempt with
    | some t =>
      onlyIf (decide (d < s.dies) && decide (t + 1000000 ≤ s.now)) s
        (let u := s.setClk d fun c => c.setLoop l { c.loop l with attempt := none, coastAt := s.now }
         refresh (endWaitIfHeld d (countUnlock d l u)))
    | none => .next s

/-- A lost REFIN returns: the phase build-out is set and the loop closes (R64). -/
def execRefinReturn (phase : Int) (s : State) : Res :=
  let p := wrapPs s.refPs phase
  onlyIf (!s.ref.present && s.mode.mode != .off) s
    { s with ref := { s.ref with present := true, attempt := some s.now, buildOut := p, returned := s.ref.returned ++ [p] } }

/-- The mute of R58 ends at the first block boundary after the relock. -/
def endMute (now : Nat) (refCoasts : Bool) (c : DieClk) : DieClk :=
  if c.samp.coasting || refCoasts then c
  else { c with sampDrift := 0, muteEnds := if c.driftMuted && c.muteEnds.isNone then some (nextOf countsPerBlock now) else c.muteEnds }

/-- No PPS difference is known (R65). -/
def noPps : Int := 0x80000000

/-- REF_RETURN for each of the returns named, with the PPS difference (R65). -/
def raiseReturns (phases : List Int) (diff : Int) (s : State) : State :=
  phases.foldl (fun acc p => raise .refReturn pkg [.w p, .w diff] acc) s

/-- The reference PLL relocks: the coast ends; REF_RETURN once for each return, at once with PPS disabled, else at the next PPS edge (R64, R65). -/
def relockRef (s : State) : State :=
  let s := closeSuspect .refCoast { s with ref := { s.ref with locked := true, coasting := false, attempt := none } }
  let s := { s with clk := s.clk.mapAll s.dies fun _ c => endMute s.now false c }
  let ps := s.ref.returned
  if s.time.ppsEnable then { s with ref := { s.ref with returned := [], ppsWait := s.ref.ppsWait ++ ps.map fun p => (s.now, p) } }
  else raiseReturns ps noPps { s with ref := { s.ref with returned := [] } }

/-- A die loop relocks in frequency without a phase step and reports its build-out; the sampling synthesizer's band result is stored with the die temperature (R44, R64). After a hop that waited, CLOCK_SUSPECT goes on to the re-phase (R62). -/
def relockLoop (d : Nat) (l : DieLoop) (temp : Int) (band : Nat) (s : State) : State :=
  let s := s.setClk d fun c => c.setLoop l { c.loop l with locked := true, coasting := false, attempt := none }
  let s := raise .pllRelock d [.w d, .w l.code, .w ((s.clk.get d).loop l).buildOut] s
  match l with
  | .samp =>
    let late := decide ((s.clk.get d).hop.phase = .waiting) || decide ((s.clk.get d).hop.phase = .incomplete)
    let s := convertTemp2 d (if late then s else closeSuspect (.convs d) s)
    s.setClk d fun c =>
      let c := endMute s.now s.ref.coasting (c.setBand s.cfg.active.plan ⟨band, temp⟩)
      if late then { c with hop := { c.hop with phase := .locked, late := true } } else c
  | .sys => closeSuspect (.units d) (s.setClk d fun c => { c with sysDrift := 0 })
  | .aud => s

/-- A loop whose attempt is running relocks (R64, R65). -/
def execPllRelock (l : LoopId) (temp : Int) (band : Nat) (s : State) : Res :=
  match l with
  | .ref => onlyIf (s.ref.present && s.ref.attempt.isSome) s (refresh (relockRef s))
  | .die d l => onlyIf (decide (d < s.dies) && ((s.clk.get d).loop l).coasting && ((s.clk.get d).loop l).attempt.isSome) s
      (refresh (relockLoop d l temp band s))

/-- No PPS edge within 1.5 s of a relock: REF_RETURN of its returns without a PPS difference (R65). -/
def execRefReturnTimeout (s : State) : Res :=
  let due := fun (x : Nat × Int) => decide (x.1 + 150000000 ≤ s.now)
  onlyIf (s.ref.ppsWait.any due) s
    (raiseReturns ((s.ref.ppsWait.filter due).map (·.2)) noPps { s with ref := { s.ref with ppsWait := s.ref.ppsWait.filter fun x => !due x } })

/-- The root returns at a die that had lost it: its coasting loops set their build-out and close, but for held ones (R57, R64). -/
def execRootReturnAtDie (d : Nat) (phases : List Int) (s : State) : Res :=
  let close := fun (l : DieLoop) (c : DieClk) =>
    let x := c.loop l
    if x.coasting && !x.held then c.setLoop l { x with attempt := some s.now, buildOut := wrapPs l.pfdPs (phases.getD l.code 0) } else c
  onlyIf (decide (d < s.dies) && !(s.clk.get d).rootPresent) s
    (s.setClk d fun c => close .aud (close .sys (close .samp { c with rootPresent := true })))

/-! ### Drift -/

/-- The drift of a sampling clock that coasts, or follows a coasting root, in 0.1 ppm; beyond 20 ppm the slots that draw on the die are muted at once (R58). -/
def execSampDriftEval (d : Nat) (drift : Int) (s : State) : Res :=
  let c := s.clk.get d
  onlyIf (decide (d < s.dies) && (c.samp.coasting || s.ref.coasting)) s
    (let t := s.setClk d fun c => { c with sampDrift := drift }
     if decide (200 < drift.natAbs) && !c.mutedNow s.now then
       raise .driftMute d [.w d, .w drift] (t.setClk d fun c => { c with driftMuted := true, mutedAt := s.now, muteEnds := none })
     else t)

/-- The drift of a coasting system clock in ppm; beyond 2,000 ppm the die's core clocks move to the root, its units freeze and the ring routes around it (R59). -/
def execSysDriftEval (d : Nat) (drift : Int) (s : State) : Res :=
  let c := s.clk.get d
  onlyIf (decide (d < s.dies) && c.sys.coasting) s
    (let t := s.setClk d fun c => { c with sysDrift := drift }
     if decide (2000 < drift.natAbs) && !c.onRoot then
       let t := openSuspect (.frozen d) (t.setClk d fun c => { c with onRoot := true, onRootAt := s.now })
       matchZeroSpans s.now (raise .coreOnRoot d [.w d, .q s.now] t)
     else t)

/-- After the relock the die switches back at a block boundary; its units resume from where they stood and settle again (R60). -/
def execCoreRestored (d : Nat) (s : State) : Res :=
  let c := s.clk.get d
  onlyIf (decide (d < s.dies) && c.onRoot && c.sys.locked && decide (s.now % countsPerBlock = 0)) s
    (matchZeroSpans s.now (raise .coreRestored d [.w d, .q s.now] (closeSuspect (.frozen d) (s.setClk d fun c => { c with onRoot := false }))))

/-! ### SYSTIME and its replicas -/

/-- One root count with no command: SYSTIME and the replica of every die that has the root count on (02 R42, R56); in OFF nothing does (notes/assumptions/7.md). It counts on also while the root is lost at the anchor die, of which R53 says nothing: DESIGN CHOICE (notes/assumptions/50.md). -/
def idle (s : State) : State :=
  if s.mode.mode = .off then s
  else { s with
    time := { s.time with systime := s.time.systime + 1 }
    clk := s.clk.mapAll s.dies fun _ c => if c.rootPresent then { c with replica := c.replica + 1 } else c }

/-- A die compares its replica with the anchor's SYSTIME (R42): a difference is replica minus anchor. -/
def execSystimeCompare (d : Nat) (s : State) : Res :=
  let c := s.clk.get d
  let diff : Int := (c.replica.toNat : Int) - s.now
  onlyIf (s.dieUp d && decide (diff ≠ 0)) s
    (refresh (raise .systimeMismatch d [.w d, .w diff]
      (openSuspect (.replica d) (s.setClk d fun c => { c with reloadAt := some (nextOf countsPerTick s.now) }))))

/-- The tick boundary after a mismatch: the replica takes the anchor's count; for the die's streams as at an armed edge (R42). -/
def execReplicaReload (d : Nat) (s : State) : Res :=
  match (s.clk.get d).reloadAt with
  | none => .next s
  | some t =>
    onlyIf (decide (d < s.dies) && decide (t ≤ s.now)) s
      (let u := s.setClk d fun c => { c with replica := s.time.systime, reloadAt := none }
       refresh (reloadPorts d (dieReload d (closeSuspect (.replica d) u))))

/-- 4p + SYNC_SKEW (R50). -/
def State.syncOffset (s : State) : Int := 4 * (s.pins.syncpos : Int) + s.time.syncSkew

/-- The designated value nearest to the present count, a tie upward (R50). -/
def State.nearestDesignated (s : State) : Int :=
  nearestMul countsPerSecond ((s.now : Int) - s.syncOffset) + s.syncOffset

/-- The smallest designated value that is not below the present count (R50). -/
def State.bootDesignated (s : State) : Int :=
  let x : Int := (s.now : Int) - s.syncOffset
  (x + (countsPerSecond - 1)) / countsPerSecond * countsPerSecond + s.syncOffset

/-- SYNC_OUT passes an edge on four root counts later, while it is driven (02 "Divider phase and SYNC_IN"). -/
def passSync (s : State) : State := if s.time.syncOutEn then send (.syncOut (s.now + 4)) s else s

/-- A loop without its build-out (R66). -/
def LoopSt.noBuildOut (x : LoopSt) : LoopSt := { x with buildOut := 0 }

/-- After an armed edge every rotation and round restarts from its first step, at the next whole second (14 R377). -/
def restartRotations (s : State) : State :=
  { s with
    lanes := { s.lanes with spares := s.lanes.spares.mapAll (s.dies * 4) fun _ x => { x with nextAssay := 0, assay := none, rotCharged := [], rotStart := s.now } }
    taps := { s.taps with audits := s.taps.audits.mapAll s.dies fun _ a => { a with target := none, verifying := none } } }

/-- An armed SYNC edge loads SYSTIME with the designated value, on the root edge that also phases every divider and restarts the spread modulation; the blocks in progress end, the next begin at the designated value (R50, R66, R67). -/
def execSyncEdgeArmed (s : State) : Res :=
  let old := s.now
  let v := (if s.time.armed = .boot then s.bootDesignated else s.nearestDesignated).toNat
  let realign := decide (s.time.armed = .realign)
  onlyIf (decide (s.time.armed ≠ .none) && s.mode.mode != .off) s
    (let t := { s with time := { s.time with systime := BitVec.ofNat 64 v, armed := .none, aligned := true, lastSync := v, syncLost := false } }
     let t := { t with clk := t.clk.mapAll t.dies fun _ c =>
       let c := { c with replica := BitVec.ofNat 64 v, reloadAt := none }
       if realign then { c with samp := c.samp.noBuildOut, sys := c.sys.noBuildOut, aud := c.aud.noBuildOut } else c }
     let t := if realign then { t with ref := { t.ref with buildOut := 0 } } else t
     let t := closeSuspect .unaligned t
     let t := raise .realignDone pkg [.w ((v : Int) - old)] t
     let t := (List.range t.dies).foldl (fun acc d => closeSuspect (.replica d) (dieEdge old v d acc)) t
     let t := restartRotations ((List.range t.dies).foldl (fun acc n => endLevelStep n acc) t)
     refresh (passSync (resyncPorts old v (cutInterval old v t))))

/-- The spread modulation of a die at SYSTIME `t`, in 10^−6 of the programmed frequency: a triangle of 31.25 kHz, 3,200 counts, begun at each SYNC edge; downward from 0, or centred about 0 (R47). Where in its period the triangle begins at an edge the manual leaves open: at its highest point, DESIGN CHOICE (notes/assumptions/51.md). -/
def State.spreadAt (s : State) (d t : Nat) : Int :=
  let k := (t - (s.clk.get d).spreadFrom) % 3200
  let depth := s.time.spreadDepth * 100
  let down : Int := ((depth * (if k < 1600 then k else 3200 - k) / 1600 : Nat) : Int)
  if s.time.spreadMode = 1 then -down else if s.time.spreadMode = 2 then (depth : Int) - 2 * down else 0

/-- An unarmed SYNC edge changes nothing but the phase of the spread modulation (R47); a difference of more than 1 count raises SYNC_DEVIATION, actual minus designated (R51). -/
def execSyncEdgeUnarmed (s : State) : Res :=
  let diff := (s.now : Int) - s.nearestDesignated
  onlyIf (decide (s.time.armed = .none) && s.mode.mode != .off) s
    (let t := passSync { s with
       time := { s.time with lastSync := s.now, syncLost := false }, clk := s.clk.mapAll s.dies fun _ c => { c with spreadFrom := s.now } }
     if 1 < diff.natAbs then raise .syncDeviation pkg [.w diff] t else t)

/-- No SYNC edge for 1.5 s (R51). -/
def execSyncLost (s : State) : Res :=
  onlyIf (s.mode.mode != .off && !s.time.syncLost && decide (s.time.lastSync + 150000000 ≤ s.now)) s
    (raise .syncLost pkg [.q s.time.lastSync] { s with time := { s.time with syncLost := true } })

/-- A PPS_IN edge of the chosen polarity is captured; more than 1 count from the nearest whole second raises PPS_DEVIATION (R54); it ends the wait of R65. -/
def execPpsEdge (falling : Bool) (s : State) : Res :=
  let diff := (s.now : Int) - nearestMul countsPerSecond s.now
  onlyIf (s.time.ppsEnable && (falling == s.time.ppsFalling)) s
    (let t := { s with time := { s.time with lastPps := s.now, captures := (s.now :: s.time.captures).take 16, ppsLost := false } }
     let t := if 1 < diff.natAbs then raise .ppsDeviation pkg [.w diff] t else t
     raiseReturns (s.ref.ppsWait.map (·.2)) diff { t with ref := { t.ref with ppsWait := [] } })

/-- No PPS edge for 1.5 s while PPS is enabled (R54). -/
def execPpsLost (s : State) : Res :=
  onlyIf (s.time.ppsEnable && !s.time.ppsLost && decide (s.time.lastPps + 150000000 ≤ s.now)) s
    (raise .ppsLost pkg [.q s.time.lastPps] { s with time := { s.time with ppsLost := true } })

/-! ### Hop steps -/

/-- The sampling synthesizer locks on the new plan: its band result is stored with the temperature converted at the lock (R44, R45). -/
def execHopLock (d : Nat) (temp : Int) (band : Nat) (s : State) : Res :=
  let h := (s.clk.get d).hop
  onlyIf (decide (d < s.dies) && (decide (h.phase = .stored) || decide (h.phase = .search))) s
    (convertTemp2 d (s.setClk d fun c => { (c.setBand s.cfg.active.plan ⟨band, temp⟩) with samp := { c.samp with locked := true }, hop := { c.hop with phase := .locked } }))

/-- 50 µs without lock on the stored band: a fresh search (R44). -/
def execHopStoredBandTimeout (d : Nat) (s : State) : Res :=
  let h := (s.clk.get d).hop
  onlyIf (decide (d < s.dies) && decide (h.phase = .stored) && decide (h.since + 5000 ≤ s.now)) s
    (s.setClk d fun c => { c with hop := { c.hop with phase := .search, fresh := true } })

/-- 3 ms without lock: a loss of lock, and the hop is incomplete (R45). -/
def execHopSearchTimeout (d : Nat) (s : State) : Res :=
  let h := (s.clk.get d).hop
  onlyIf (decide (d < s.dies) && decide (h.phase = .search) && decide (h.since + 300000 ≤ s.now)) s
    (refresh (incompleteHop d (countUnlock d .samp (coastLoop d .samp s))))

/-- The rotations of a die's converters restart at position 0 with the new plan's coefficients (03 R86). -/
def restartSlices (d : Nat) (s : State) : State :=
  [2 * d, 2 * d + 1].foldl (fun acc k => acc.setConv k fun c =>
    { c with rotSuspended := false, rotPosition := 0, rotStandin := false, rotMismatch := 0, rotStart := s.now
             rotSteps := if 8 ≤ c.rotSteps then c.rotSteps else 0 }) s

/-- The next plan frame after the lock: the dividers re-phase, a synchronising reset of the die; the COMMIT is told (R46, R62). -/
def execDividerRephase (d : Nat) (s : State) : Res :=
  let h := (s.clk.get d).hop
  onlyIf (decide (d < s.dies) && decide (h.phase = .locked) && decide (s.now % countsPerFrame = 0)) s
    (let t := if h.late then closeSuspect (.convs d) s else s
     let t := t.setClk d fun c => { c with plan := s.cfg.active.plan, hop := { c.hop with phase := .idle, rephasedAt := s.now, late := false } }
     let t := dieInstant s.now d (endStepsOfDie d (restartSlices d t))
     let t := (List.range t.dies).foldl (fun acc j => if acc.leaderDie j = some d then unzeroCourse j s.now (endLevelStep j acc) else acc) t
     endHop d (fun c =>
       { c with latestRephase := max c.latestRephase s.now
                freshMask := if h.fresh then c.freshMask ||| 2 ^ d else c.freshMask
                lateTick := if h.late then max c.lateTick (tickOf s.now) else c.lateTick }) t)

/-- 1,000 ms after the commit tick the wait for a coasting die ends (R63). -/
def execHopWaitTimeout (d : Nat) (s : State) : Res :=
  let h := (s.clk.get d).hop
  onlyIf (decide (d < s.dies) && decide (h.phase = .waiting) && decide (h.since + 100000000 ≤ s.now)) s (refresh (incompleteHop d s))

end Sys2Proof.Machine
end

