-- ==== Sys2Proof/Machine/Levels.lean ====
section
/-!
DEFINITION. Calibrated levels (05 R149, 12 R341, R342), gain marks of blocks (10 R298), and the replacement of lanes and spares (05 R163), which several families use.
-/
namespace Sys2Proof.Machine

/-! ### Calibrated levels -/

/-- The table points: 0.1 MHz, then 5 MHz × k to 240 MHz (12 R341). -/
def tablePoint (k : Nat) : Nat := if k = 0 then 100000 else 5000000 * k

/-- x / y rounded to nearest, ties away from zero, for y > 0. -/
def roundDiv (x y : Int) : Int := if 0 ≤ x then (2 * x + y) / (2 * y) else -((-2 * x + y) / (2 * y))

/-- A table of the 49 points at a frequency: linear in dB between points, flat below the first (R341). -/
def tableAt (t : List Int) (f : Nat) : Int :=
  if f ≤ 100000 then t.getD 0 0
  else if 240000000 < f then Config.beyondTable t f
  else
    let k := min 47 (f / 5000000)
    let f0 := tablePoint k
    let f1 := tablePoint (k + 1)
    let a := t.getD k 0
    let b := t.getD (k + 1) 0
    a + roundDiv ((b - a) * ((f : Int) - f0)) ((f1 : Int) - f0)

/-- What was in force at `t`, of a present value and what changes have replaced, newest first (R348). -/
def inForceAt {α : Type} (past : List (Nat × α)) (now : α) (t : Int) : α :=
  match (past.filter fun x => decide (t < (x.1 : Int))).getLast? with
  | some x => x.2
  | none => now

/-- LEVEL of input `n`, and GAIN_STEPS, in force at SYSTIME `t` (R348). -/
def State.levelAt (s : State) (n t : Nat) : LevelCoef := inForceAt (s.cal.levelPast.get n) (s.cal.coefs.level.get n) t
def State.gainStepsAt (s : State) (n : Nat) (t : Int) : GainStepCoef := inForceAt (s.cal.stepsPast.get n) (s.cal.coefs.gainSteps.get n) t

/-- C(f, n, x) in 0.01 dB at SYSTIME `t`: the correction of input `n` read through converter `x` (R342, R348). -/
def State.correction (s : State) (n x f t : Nat) : Int :=
  let l := s.levelAt n t
  tableAt l.cs f + if x = 0 then l.dA else l.dB

/-- L_dBµV from L_dBFS, both in 0.01 dB, with the C in force at `t` (R149, R348). -/
def State.levelUv (s : State) (n x f t : Nat) (dbfs : Int) : Int := dbfs + 9800 + s.correction n x f t

/-- New LEVEL coefficients, from the next block boundary on (R348). -/
def setLevelCoef (n : Nat) (f : LevelCoef → LevelCoef) (s : State) : State :=
  let l := s.cal.coefs.level.get n
  calChanged { s with cal := { s.cal with
    coefs := { s.cal.coefs with level := s.cal.coefs.level.set n (f l) }
    levelPast := s.cal.levelPast.set n (((ceilTo countsPerBlock s.now, l) :: s.cal.levelPast.get n).take 8) } }

/-- New drift terms (R342, R348). -/
def setDrift (n : Nat) (dA dB : Int) (s : State) : State := setLevelCoef n (fun l => { l with dA := dA, dB := dB }) s

/-- New gain steps from the next block boundary on, where the compensation is rescaled and the blocks of the course carry GAIN_STEP with GAIN_DB 0 (R348). -/
def setGainSteps (n : Nat) (c : GainStepCoef) (s : State) : State :=
  let at_ := ceilTo countsPerBlock s.now
  let old := s.cal.coefs.gainSteps.get n
  calChanged { s with
    cal := { s.cal with
      coefs := { s.cal.coefs with gainSteps := s.cal.coefs.gainSteps.set n c }
      stepsPast := s.cal.stepsPast.set n (((at_, old) :: s.cal.stepsPast.get n).take 8) }
    link := { s.link with marks := ((n, at_, 0, false) :: s.link.marks).take 256 } }

/-! ### Courses of a lane, gain marks -/

/-- The course that a cluster's band tap sources. -/
def State.clusterCourse (s : State) (c : Nat) : Nat := (s.taps.bandTaps.get c).course

/-- The courses that a lane's samples draw on: its own and its branches' (05 R147). -/
def State.laneCourses (s : State) (l : Nat) : List Nat :=
  s.clusterCourse (laneCluster l) :: (s.cfg.active.lanes.get l).branches.map fun b => s.clusterCourse (laneCluster b)

/-- The dies of the leaders of courses, for CLOCK_SUSPECT (01 R35). -/
def State.leaderDies (s : State) (js : List Nat) : List Nat := js.filterMap s.leaderDie

/-- The marks of a block of `n` samples drawing on courses `js`: `contains i t` says that the input span of sample `i` contains SYSTIME `t` (R298). -/
def State.gainMark (s : State) (js : List Nat) (n : Nat) (contains : Nat → Nat → Bool) : GainMark :=
  let hits := s.link.marks.filterMap fun m =>
    if js.contains m.1 then ((List.range n).find? fun i => contains i m.2.1).map fun i => (i, m) else none
  let steps := hits.filter fun h => !h.2.2.2.2
  let first := minD 0xFFFF (hits.map (·.1))
  let firstStep := minD 0xFFFF (steps.map (·.1))
  { gainStep := !steps.isEmpty, multi := decide (1 < steps.length), splice := hits.any fun h => h.2.2.2.2
    gainDb := ((steps.reverse.find? fun h => h.1 = firstStep).map fun h => h.2.2.2.1).getD 0
    stepOffset := if hits.isEmpty then 0xFFFF else first }

/-- The marks of a record over [t0, t1). -/
def State.spanMark (s : State) (js : List Nat) (t0 t1 : Nat) : GainMark :=
  s.gainMark js 1 fun _ t => decide (t0 ≤ t) && decide (t < t1)

/-! ### Replacement of lanes and spares (05 R163, R165) -/

/-- The level steps under cover in a cluster end without update, to run again (12 R358). -/
def endStepsOfCluster (c : Nat) (s : State) : State :=
  (List.range s.dies).foldl (fun acc n =>
    match acc.cal.steps.get n with
    | some st => if laneCluster st.lane = c && st.kind ≠ .offLane then endLevelStep n acc else acc
    | none => acc) s

/-- The spare delivers under the lane's index from the next block boundary; the lane is retired, HOLD cover is forced (R163, 01 R28, R30). -/
def replaceLane (l : Nat) (s : State) : State :=
  let c := laneCluster l
  let s := retireUnit (laneRef l) (endStepsOfCluster c s)
  let s := { s with nv := { s.nv with replaced := s.nv.replaced.set c (some (l % 8)) } }
  let s := s.setSpare c fun x => { (x.beginCover (l % 8) false (nextOf countsPerBlock s.now)) with position := l % 8, assay := none, cover := none }
  refresh (raise .laneReplaced (clusterDie c) [.w l, .q (nextOf countsPerBlock s.now)] s)

/-- The spare is retired: no assay, no cover, HOLD cover forced (R163). -/
def retireSpare (c : Nat) (s : State) : State :=
  let s := retireUnit (spareRef c) (endStepsOfCluster c s)
  let s := s.setSpare c fun x => { ((List.range 8).foldl (fun y p => y.endCover p s.now) x) with assay := none, cover := none }
  refresh (raise .spareRetired (clusterDie c) [.w (clusterDie c), .w (c % 4)] s)

/-- The lane takes its station back at the next block boundary; the spare returns to its rotation (R165). -/
def restoreLane (l : Nat) (s : State) : State :=
  let c := laneCluster l
  let s := unretireUnit (laneRef l) s
  let s := { s with nv := { s.nv with replaced := s.nv.replaced.set c none } }
  let s := s.setSpare c fun x => { (x.endCover (l % 8) (nextOf countsPerBlock s.now)) with assay := none, restoreAsked := false, rotStart := s.now }
  refresh (raise .laneRestored (clusterDie c) [.w l, .w 0, .q (nextOf countsPerBlock s.now)] s)

end Sys2Proof.Machine
end

