-- ==== Sys2Proof/Machine/Signal.lean ====
section
/-!
DEFINITION. The samples of band taps, segments and chains (04 R103 to R119): each stage as a function from the signal at its input to the signal at its output. A signal gives a sample at every index; nothing here depends on when a tap or chain was started.
-/
namespace Sys2Proof.Machine

/-- One sample: I and Q, and whether a clipped converter sample, a saturated band-tap stage or a saturated channel filter lies in its input span (03 R97, R129). -/
structure Smp where
  re : Int := 0
  im : Int := 0
  clip : Bool := false
  tapSat : Bool := false
  filterSat : Bool := false
  deriving DecidableEq, Repr

/-- A sample at every index. -/
abbrev Sig := Int → Smp

/-- `v` held within `w` bits of two's complement (R113). -/
def satWord (w : Nat) (v : Int) : Int := max (-(2 ^ (w - 1))) (min (2 ^ (w - 1) - 1) v)

/-- Σ c·x over pairs of a coefficient and a sample, in units of 1/`den`, rounded to nearest with ties away from zero; it keeps what lay in its input span (R113). -/
def weigh (den : Int) (xs : List (Int × Smp)) : Smp :=
  { re := roundDiv (xs.foldl (fun acc p => acc + p.1 * p.2.re) 0) den
    im := roundDiv (xs.foldl (fun acc p => acc + p.1 * p.2.im) 0) den
    clip := xs.any fun p => p.2.clip
    tapSat := xs.any fun p => p.2.tapSat
    filterSat := xs.any fun p => p.2.filterSat }

/-- A product with the complex number (c + j·d) / 2^17. -/
def Smp.turn (x : Smp) (c d : Int) : Smp :=
  { x with re := roundDiv (x.re * c - x.im * d) 131072, im := roundDiv (x.re * d + x.im * c) 131072 }

/-! ### The half-band library (R113) -/

/-- The stages of R113. -/
inductive HalfBand where
  | a | b | c
  deriving DecidableEq, Repr

/-- The coefficients of a stage: the centre, then the distinct ones outward. -/
def HalfBand.coefs : HalfBand → List Int
  | .a => Config.halfBandA
  | .b => Config.halfBandB
  | .c => Config.halfBandC

/-- Distinct non-zero coefficients beside the centre (R113). -/
def HalfBand.distinct : HalfBand → Nat
  | .a => 3 | .b => 6 | .c => 12

/-- One stage: half the rate; of a half-band filter only the centre and the odd places are not zero; stage words satWord (R113). -/
def HalfBand.run (k : HalfBand) (bits : Nat) (tap : Bool) (x : Sig) : Sig := fun i =>
  let side := (List.range k.distinct).flatMap fun (j : Nat) =>
    [(k.coefs.getD (j + 1) 0, x (2 * i + (2 * j + 1 : Nat))), (k.coefs.getD (j + 1) 0, x (2 * i - (2 * j + 1 : Nat)))]
  let y := weigh 131072 ((k.coefs.getD 0 0, x (2 * i)) :: side)
  let r := satWord bits y.re
  let q := satWord bits y.im
  { y with re := r, im := q, tapSat := y.tapSat || (tap && (r != y.re || q != y.im)) }

/-- The stages of a band tap of `n` halvings: n − 3 HB-A, two HB-B, one HB-C (R110). -/
def bandStages (n : Nat) : List HalfBand := List.replicate (n - 3) .a ++ [.b, .b, .c]

/-- The stages of a lane of `h` halvings: HB-C last, HB-B in the two places before it, HB-A in any earlier one (R114). -/
def laneStages (h : Nat) : List HalfBand :=
  if h = 0 then [] else if h = 1 then [.c] else if h = 2 then [.b, .c] else List.replicate (h - 3) .a ++ [.b, .b, .c]

/-- Stages one after another. -/
def runStages (bits : Nat) (tap : Bool) (ks : List HalfBand) (x : Sig) : Sig := ks.foldl (fun y k => k.run bits tap y) x

/-! ### Band taps and segments (R107, R110 to R112) -/

/-- The phase of a band tap's oscillator at converter sample N, of 48 bits (R107). -/
def bandPhase (w : Nat) (n : Int) : Nat := ((w : Int) * n % 2 ^ 48).toNat

/-- The real-to-complex stage: sample N times exp(−j2π·phase / 2^48), and 2 (R107); the oscillator's values are those of a 20-bit phase. -/
def mixed (w : Nat) (x : Sig) : Sig := fun n =>
  let o := Config.bandOscillator (bandPhase w n / 2 ^ 28)
  ({ x n with re := 2 * (x n).re, im := 0 }).turn o.1 (-o.2)

/-- The exponent of a plan frame's samples: the smallest that keeps every rounded mantissa within ±32,767 (R111). -/
def blockExponent (vs : List Int) : Nat :=
  ((List.range 32).find? fun e => vs.all fun v => decide ((roundDiv v (2 ^ e)).natAbs ≤ 32767)).getD 31

/-- A value as a mantissa with exponent `e` carries it. -/
def atExponent (e : Nat) (v : Int) : Int := roundDiv v (2 ^ e) * 2 ^ e

/-- x / p rounded up. -/
def ceilDiv (x p : Int) : Int := -((-x) / p)

/-- The samples k of decimation D that plan frame F holds: those with F × S ≤ k × D < (F + 1) × S (R103, R105). -/
def frameSamples (S D : Nat) (f : Int) : List Int :=
  let k0 := ceilDiv (f * S) D
  let k1 := ceilDiv ((f + 1) * S) D
  (List.range (k1 - k0).toNat).map fun (i : Nat) => k0 + i

/-- Block floating point: one exponent per plan frame (R111). -/
def blockFloat (S D : Nat) (x : Sig) : Sig := fun k =>
  let xs := (frameSamples S D (k * D / S)).map x
  let e := blockExponent (xs.flatMap fun v => [v.re, v.im])
  { x k with re := atExponent e (x k).re, im := atExponent e (x k).im }

/-- The segment of a band tap, or of the export tap that runs its computation, from its course's compensated samples (R107, R110 to R112). -/
def Tune.segment (t : Tune) (x : Sig) : Sig :=
  let n := segHalvings t.segCode
  blockFloat (planFrameSamples t.plan) (2 ^ n) (runStages Config.bandTapBits true (bandStages n) (mixed t.ncoWord x))

/-! ### Lane chains (R114 to R119) -/

/-- W_l = round((f_lane − f_bt applied) × 2^32 / Fseg), f_bt applied = W × fs / 2^48 (R114). -/
def Tune.laneWord (t : Tune) : Int :=
  let fs := planKsps t.plan * 1000
  roundDiv (((t.freq : Int) * 2 ^ 48 - (t.ncoWord : Int) * fs) * 2 ^ segHalvings t.segCode) ((fs : Int) * 65536)

/-- The fine oscillator: phase (W_l × k) mod 2^32 at segment sample k (R114). -/
def fineShift (w : Int) (x : Sig) : Sig := fun k =>
  let o := Config.fineOscillator ((w * k % 2 ^ 32).toNat)
  (x k).turn o.1 (-o.2)

/-- The resampler: output n at the grid instant of R105 shifted by the phase delay, from input samples that represent N = i × 2^m; 64 taps, 1,024 phases, linear between adjacent phases (R114). -/
def resample (S m rateClass q : Nat) (x : Sig) : Sig := fun n =>
  let num : Int := (n * 64 - q) * (rateP192 rateClass : Nat) * S
  let den : Int := 12288 * 32 * 2 ^ m
  let i0 := num / den
  let fine := num % den * 1024
  let ph := (fine / den).toNat
  let r := fine % den
  weigh (131072 * den) ((List.range 64).map fun (j : Nat) =>
    (Config.resampler ph j * (den - r) + Config.resampler (ph + 1) j * r, x (i0 - 31 + j)))

/-- The channel filter: L symmetric taps, held from the outermost to the centre in units of 2^−17; its 32-bit words satWord (R114, R118, R130). -/
def channelFilter (f : Filter) (x : Sig) : Sig := fun n =>
  let c := f.coefs.length - 1
  let y := weigh 131072 ((List.range f.length).map fun (j : Nat) => (f.coefs.getD (if j ≤ c then j else 2 * c - j) 0, x (n + j - c)))
  let r := satWord 32 y.re
  let q := satWord 32 y.im
  { y with re := r, im := q, filterSat := y.filterSat || r != y.re || q != y.im }

/-- The delay pool: sample n is that of n − d, stored as 16-bit mantissas with one exponent for each 64 samples (R128). -/
def delayPool (d : Nat) (x : Sig) : Sig := fun n =>
  if d = 0 then x n else
  let g := (n - d) / 64 * 64
  let xs := (List.range 64).map fun (i : Nat) => x (g + i)
  let e := blockExponent (xs.flatMap fun v => [v.re, v.im])
  { x (n - d) with re := atExponent e (x (n - d)).re, im := atExponent e (x (n - d)).im }

/-- A lane chain from its segment to its output on the working-rate grid, in the order of R114. -/
def Tune.chain (t : Tune) (seg : Sig) : Sig :=
  let n := segHalvings t.segCode
  let m := rateM t.rateClass
  delayPool t.coarseDelay <| channelFilter t.filter <| resample (planFrameSamples t.plan) m t.rateClass t.phaseDelay <|
    runStages 32 false (laneStages (m - n)) <| fineShift t.laneWord seg

/-! ### Converter samples (03 R94, R95) -/

/-- g in force on a course at SYSTIME `t`: today's, less the steps since. -/
def State.gainAt (s : State) (j : Nat) (t : Int) : Int :=
  s.link.marks.foldl (fun g m => if m.1 = j && !m.2.2.2 && t < (m.2.1 : Int) then g - m.2.2.1 else g) (s.front.courses.get j).gain

/-- A code times the calibrated inverse of its gain step, scaled so that full scale at g = +14 dB is 2^22 (R94, R95, R118). -/
def GainStepCoef.sample (cal : GainStepCoef) (g c : Int) : Smp :=
  let x := cal.steps.getD 45 0 - cal.steps.getD (g + 31).toNat 0
  { re := roundDiv (c * 512 * Config.dbFactor x) 65536, clip := decide (c ≤ -8192) || decide (8191 ≤ c) }

/-- The compensated samples of a course: each code with the gain that its instant had, from the edge plus the calibrated front-end delay on (R94, R95). -/
def State.courseSamples (s : State) (plan j : Nat) (a : Air) : Sig := fun n =>
  let cal := s.gainStepsAt j (n * 32 / planFrameSamples plan)
  cal.sample (s.gainAt j ((n * 1024 - cal.delay) * 32 / (planFrameSamples plan * 1024 : Nat))) (a.code j n)

/-- The output of a chain with a configuration. -/
def State.tuneOutput (s : State) (a : Air) (t : Tune) : Sig := t.chain (t.segment (s.courseSamples t.plan t.course a))

/-! ### A chain over time (R121, R125, R127, R128) -/

/-- The chain's output at grid point `n`: the configuration in force at its represented instant, with the delays of the grid (R121, R127). -/
def State.chainOutput (s : State) (a : Air) (c : Chain) (n : Int) : Smp :=
  let d := c.tuneAt (c.gridPoint n)
  s.tuneOutput a { c.tuneAt (c.instantAt n) with phaseDelay := d.phaseDelay, coarseDelay := d.coarseDelay } n

/-- The segment sample `k` of a cluster. -/
def State.segmentOutput (s : State) (a : Air) (c : Nat) (k : Int) : Smp :=
  let b := s.taps.bandTaps.get c
  let t : Tune := { plan := s.cfg.active.plan, course := b.course, segCode := b.segCode, ncoWord := b.ncoWord }
  t.segment (s.courseSamples t.plan t.course a) k

end Sys2Proof.Machine
end

