-- ==== Sys2Proof/Machine/Demod.lean ====
section
/-!
DEFINITION. What AM and FM demodulators make of a chain's output (05 R139 to R150, R470): modulation, MPX, audio, measurements. Each is a function of the samples since the demodulator's restart (R137); arithmetic is exact to the rounding of 04 R113.
-/
namespace Sys2Proof.Machine

/-! ### Numbers -/

/-- The square root rounded to nearest (04 R113). -/
def nearestSqrt (v : Nat) : Nat :=
  let r := Nat.sqrt v
  if r * r + r < v then r + 1 else r

/-- 10^e × q^k ≤ p^k, for an exponent of either sign. -/
def powLe (e : Int) (k p q : Nat) : Bool :=
  if 0 ≤ e then decide (10 ^ e.toNat * q ^ k ≤ p ^ k) else decide (q ^ k ≤ p ^ k * 10 ^ (-e).toNat)

/-- A level kept off the value that means "no reading" (00 R11). -/
def offNoReading (v : Int) : Int := max (-32767) (min 32767 v)

/-- 10 log10(p / q) in 0.01 dB, rounded to nearest, never the value that means "no reading" (00 R11); a free value where it is the level of nothing. -/
def db100 (p q : Nat) : Int :=
  if p = 0 || q = 0 then offNoReading Config.levelOfNothing
  else offNoReading (-32768 + ((List.range 65536).countP fun (i : Nat) => powLe (2 * ((i : Int) - 32767) - 1) 2000 p q : Nat))

/-- |x|² of a sample. -/
def Smp.power (x : Smp) : Nat := (x.re * x.re + x.im * x.im).toNat

/-- |x| of a sample. -/
def Smp.envelope (x : Smp) : Nat := nearestSqrt x.power

/-- 0 dBFS: a complex tone of magnitude 2^22 (04 R118). -/
def fullScale : Nat := 2 ^ 44

/-- Level of the mean power of samples in 0.01 dBFS. -/
def meanLevel (ps : List Nat) : Int := db100 ps.sum (fullScale * ps.length)

/-- Successive runs of 64 samples: the values whose sample number has the same quotient by 64. -/
def runs64 (xs : List (Int × Nat)) : List (List Nat) :=
  ((xs.map fun x => x.1 / 64).eraseDups).map fun r => (xs.filter fun x => x.1 / 64 = r).map (·.2)

/-- The least and the greatest of a list of levels. -/
def levelMin (xs : List Int) : Int := xs.foldl min (xs.headD 0)
def levelMax (xs : List Int) : Int := xs.foldl max (xs.headD 0)

/-! ### The input of a demodulator -/

/-- The configured working rate of a lane, in samples a second. -/
def State.laneHz (s : State) (l : Nat) : Nat := rateHz (s.taps.lanes.get l).rateClass

/-- The samples of a plan frame under the plan in force. -/
def State.frameS (s : State) : Nat := planFrameSamples s.cfg.active.plan

/-- A chain's sample as it is delivered: zero where it is suppressed (04 R121). -/
def State.chainSample (s : State) (a : Air) (c : Chain) (n : Int) : Smp :=
  if !c.active || c.deadAt n then {} else s.chainOutput a c n

/-- The combiner's weights in the run of sample `n` (R147). -/
def Demod.weightsAt (d : Demod) (n : Int) : List (Int × Int) :=
  match d.runs.find? fun r => decide (r.1 ≤ n / 64) with
  | some r => r.2
  | none => [(1048576, 0)]

/-- y[n] = Σ w[i] × x[i][n], with weights in units of 2^−20 (R147). -/
def combine (ws : List (Int × Int)) (xs : List Smp) : Smp :=
  let p := xs.zip ws
  { re := roundDiv (p.foldl (fun acc z => acc + (z.1.re * z.2.1 - z.1.im * z.2.2)) 0) 1048576
    im := roundDiv (p.foldl (fun acc z => acc + (z.1.re * z.2.2 + z.1.im * z.2.1)) 0) 1048576
    clip := xs.any (·.clip), tapSat := xs.any (·.tapSat), filterSat := xs.any (·.filterSat) }

/-- A sample at the input of a lane's demodulator: of its chain, or the combined signal of its branches, which is valid where every branch's is (R124, R147, R148). -/
def State.demodInput (s : State) (a : Air) (l : Nat) (n : Int) : Smp :=
  let cs := s.combined l
  if s.combinedDead l n then {}
  else if cs.length ≤ 1 then s.chainOutput a (s.taps.lanes.get l) n
  else combine ((s.lanes.demods.get l).weightsAt n) (cs.map fun c => s.chainOutput a c n)

/-- The grid point whose sample represents `at_`, the first not before it. -/
def Chain.indexAt (c : Chain) (at_ : Int) : Int :=
  ceilDiv (at_ * 12288 + (c.delay12288 : Int)) (64 * (rateP192 c.rateClass : Nat))

/-- The grid points since a demodulator's restart, up to `n`. -/
def sinceRestart (c : Chain) (restart : Option Nat) (n : Int) : List Int :=
  match restart with
  | some r => (List.range (n + 1 - c.indexAt r).toNat).map fun (i : Nat) => c.indexAt r + i
  | none => []

/-- The demodulator's samples since its restart, up to grid point `n`. -/
def State.demodHistory (s : State) (a : Air) (l : Nat) (n : Int) : List Smp :=
  (sinceRestart (s.taps.lanes.get l) (s.lanes.demods.get l).restartAt n).map (s.demodInput a l)

/-! ### AM (R139, R140) -/

/-- SYNC_BW's loop over the samples since the restart. -/
def amLoop (bw : Nat) (xs : List Smp) : Nat × Bool × Int := Config.carrierLoop bw (xs.map fun x => (x.re, x.im))

/-- The detected signal at the last of the samples: the envelope, or the in-phase component after the carrier loop (R139). -/
def detected (sync : Bool) (bw : Nat) (xs : List Smp) : Int :=
  let x := xs.getLastD {}
  if sync then
    let o := Config.fineOscillator (amLoop bw xs).1
    (x.turn o.1 (-o.2)).re
  else x.envelope

/-- The samples of 200 ms at 48 kS/s. -/
def carrierWindow : Nat := 9600

/-- A_c as a fraction: the sum of the envelope over the last 200 ms, and how many samples it is over (R139). -/
def carrierSum (xs : List Smp) : Nat × Nat :=
  let w := xs.drop (xs.length - carrierWindow)
  ((w.map Smp.envelope).sum, w.length)

/-- m(n) = s(n)/A_c − 1 as a fraction (R139). -/
def modulation (sync : Bool) (bw : Nat) (xs : List Smp) : Int × Nat :=
  let c := carrierSum xs
  (detected sync bw xs * c.2 - c.1, c.1)

/-- A modulation in units of 1/`u`, rounded; a free value where A_c is 0 (R139). -/
def inUnits (u : Int) (m : Int × Nat) : Int := if m.2 = 0 then Config.levelOfNothing else roundDiv (m.1 * u) m.2

/-- The prefixes of the samples since the restart: what a demodulator had received at each of them. -/
def prefixes {α : Type} (xs : List α) : List (List α) := (List.range xs.length).map fun i => xs.take (i + 1)

/-- AM audio at the last of the samples: m less its mean, low-passed to AUDIO_BW, scaled so that ±2^23 is m = ±2.0; saturated (R140). The second result: it saturated. -/
def amAudio (e : LaneEntry) (xs : List Smp) : Int × Bool :=
  let ms := (prefixes xs).map fun p => inUnits 4194304 (modulation (decide (e.mode = .amSync)) e.syncBw p)
  let v := Config.amLowPass e.audioBw ((prefixes ms).map fun p => p.getLastD 0 - Config.amMean p)
  (satWord 24 v, satWord 24 v != v)

/-! ### FM (R142 to R144) -/

/-- Δf in 1/256 Hz between successive samples of a chain at rate `hz` (R142). -/
def frequency (hz : Nat) (x y : Smp) : Int :=
  roundDiv (Config.arg (x.re * y.re + x.im * y.im) (x.im * y.re - x.re * y.im) * (hz * 256 : Nat)) (2 ^ 32)

/-- Δf of successive samples: none for the first (R138). -/
def frequencies (hz : Nat) : List Smp → List Int
  | x :: y :: rest => frequency hz y x :: frequencies hz (y :: rest)
  | _ => []

/-- The carrier offset carried forward to SYSTIME `t`, in 1/256 Hz (R142). -/
def Demod.offsetAt (d : Demod) (t : Int) : Int :=
  match d.offsets.find? fun x => decide ((x.1 : Int) ≤ t) with
  | some x => x.2
  | none => 0

/-- The grid instant of sample `n`, as a whole count. -/
def Chain.gridCount (c : Chain) (n : Int) : Int := n * (rateP192 c.rateClass : Nat) / 192

/-- Δf less the offset, since the restart up to grid point `n`, in 1/256 Hz (R142). -/
def State.mpxInput (s : State) (a : Air) (l : Nat) (n : Int) : List Int :=
  let c := s.taps.lanes.get l
  let d := s.lanes.demods.get l
  let idx := (sinceRestart c d.restartAt n).drop 1
  (frequencies (s.laneHz l) (s.demodHistory a l n)).zipWith (fun f i => f - d.offsetAt (c.gridCount i)) idx

/-- The MPX since the restart up to grid point `n`, in 1/256 Hz (R142). -/
def State.mpx (s : State) (a : Air) (l : Nat) (n : Int) : List Int := (prefixes (s.mpxInput a l n)).map Config.mpxLowPass

/-- L − R at each sample: the MPX times the regenerated 38 kHz, twice (R143). -/
def difference (mpx : List Int) : List Int := (prefixes mpx).map fun p => roundDiv (2 * p.getLastD 0 * (Config.pilotLoop p).2) 131072

/-- Stereo is in force at SYSTIME `t` (R143). -/
def Demod.stereoAt (d : Demod) (t : Int) : Bool :=
  match d.stereoLog.find? fun x => decide ((x.1 : Int) ≤ t) with
  | some x => x.2
  | none => false

/-- One audio channel of FM: low-pass, DEEMPH, resampled to the 48 kS/s grid, scaled so that ±2^23 is a deviation of 150 kHz; saturated (R143, R144). `late`: how far the grid point lies behind the last sample. -/
def fmChannel (deemph : Nat) (late : Int) (xs : List Int) : Int × Bool :=
  let y := (prefixes ((prefixes xs).map Config.fmLowPass)).map (Config.deemphasis deemph)
  let v := roundDiv (Config.resampleAudio y late * 8388608) (150000 * 256)
  (satWord 24 v, satWord 24 v != v)

/-- A stereo sample of programme audio. -/
structure Audio where
  left : Int := 0
  right : Int := 0
  sat : Bool := false
  deriving DecidableEq, Repr

/-- The lane sample at or before a point of a 48 or 192 kS/s grid, and how far the point lies behind it, in 1/12,288 count. -/
def Chain.before (c : Chain) (rateClass : Nat) (g : Int) : Int × Int :=
  let t := g * (rateP192 rateClass : Nat)
  (t / (rateP192 c.rateClass : Nat), t % (rateP192 c.rateClass : Nat) * 64)

/-- A lane's audio at point `g` of the 48 kS/s grid (R140, R143, R144); both channels of AM and mono carry the same. -/
def State.laneAudio (s : State) (a : Air) (l : Nat) (g : Int) : Audio :=
  let e := s.cfg.active.lanes.get l
  let c := s.taps.lanes.get l
  let p := c.before 0 g
  let sat := fun (xs : List Smp) => xs.any fun x => x.clip || x.tapSat || x.filterSat
  if e.mode.am then
    let xs := s.demodHistory a l p.1
    let r := amAudio e xs
    { left := r.1, right := r.1, sat := r.2 || sat (xs.drop (xs.length - 1)) }
  else
    let m := s.mpx a l p.1
    let last := sat [s.demodInput a l p.1]
    if decide (e.mode = .fmStereo) && (s.lanes.demods.get l).stereoAt (g * 6250 / 3) then
      let d := difference m
      let x := fmChannel e.deemph p.2 (m.zipWith (· + ·) d)
      let y := fmChannel e.deemph p.2 (m.zipWith (· - ·) d)
      { left := x.1, right := y.1, sat := x.2 || y.2 || last }
    else
      let x := fmChannel e.deemph p.2 m
      { left := x.1, right := x.1, sat := x.2 || last }

/-- A captured MPX sample at point `g` of the 192 kS/s grid (R145). -/
def State.mpxSample (s : State) (a : Air) (l : Nat) (g : Int) : Smp :=
  let p := (s.taps.lanes.get l).before 1 g
  let x := s.demodInput a l p.1
  { x with re := Config.resampleMpx (s.mpx a l p.1) p.2, im := 0 }

/-! ### Measurements of a period (R149, R150, R470) -/

/-- The grid points of [t0, t1) whose combined sample is valid, `settle` samples after the restart (R138, R150). -/
def State.validPoints (s : State) (l settle t0 t1 : Nat) : List Int :=
  let c := s.taps.lanes.get l
  match (s.lanes.demods.get l).restartAt with
  | none => []
  | some r => (c.gridIn t0 t1).filter fun n => decide (c.indexAt r + settle ≤ n) && !s.combinedDead l n

/-- Mean, rounded. -/
def meanOf (xs : List Int) : Int := if xs.isEmpty then 0 else roundDiv (xs.foldl (· + ·) 0) xs.length

/-- 1/256 Hz to whole Hz, rounded. -/
def wholeHz (v : Int) : Int := roundDiv v 256

/-- MPX_POWER_60S over the valid samples before `t1`, once there are 60 s of them (R150). -/
def mpxPower60 (hz : Nat) (xs : List Int) : Option Int :=
  let w := xs.drop (xs.length - 60 * hz)
  if w.length < 60 * hz then none else some (db100 (w.map fun v => (v * v).toNat).sum (180500000 * 65536 * (60 * hz)))

/-- |w| in 0.01 dB and arg w in 1/65,536 turn (R151). -/
def weightField (w : Int × Int) : Int × Nat :=
  (db100 (w.1 * w.1 + w.2 * w.2).toNat (2 ^ 40), ((roundDiv (Config.arg w.1 w.2) 65536) % 65536).toNat)

/-- What an FM lane measures over [t0, t1) (R150). -/
def State.fmMeasured (s : State) (a : Air) (l t0 t1 : Nat) : FmMeas :=
  let e := s.cfg.active.lanes.get l
  let c := s.taps.lanes.get l
  let d := s.lanes.demods.get l
  let hz := s.laneHz l
  let pts := s.validPoints l 1 t0 t1
  let own := pts.map fun n => s.chainOutput a c n
  let powers := own.map Smp.power
  let rf := (runs64 (pts.zip powers)).map meanLevel
  let envs := fun (n : Int) => (s.demodHistory a l n).map Smp.envelope
  let hp := pts.map fun n => let v := Config.highPass500 (envs n); (v * v).toNat
  let env := pts.map fun n => (s.demodInput a l n).envelope
  let f := pts.map fun n => (frequencies hz (s.demodHistory a l n)).getLastD 0
  let mpx := pts.map fun n => (s.mpx a l n).getLastD 0
  let whole := mpx.map wholeHz
  { validCount := pts.length, partSuppressed := decide (pts.length < (c.gridIn t0 t1).length)
    power := powers.sum, rfMean := meanLevel powers, rfMin := levelMin rf, rfMax := levelMax rf
    mpIndex := db100 (hp.sum * env.length) (env.sum * env.sum)
    mpxSumsq := (whole.map fun v => (v * v).toNat).sum
    devPos := levelMax whole, devNeg := levelMin whole
    devOver := mpx.countP fun v => decide (e.devLimit * 1000 * 256 < v.natAbs)
    carrierOffset := roundDiv (meanOf f * 100) 256
    mpxPower60s := mpxPower60 hz (((sinceRestart c d.restartAt (c.gridIn t0 t1 |>.getLastD 0)).filter fun n =>
      !s.combinedDead l n).map fun n => (s.mpx a l n).getLastD 0)
    pilotDev := Config.pilotDeviation mpx, pilotFreqErr := Config.pilotFrequency mpx
    rdsDev := [57000, 66500, 71250, 76000].map fun fc =>
      let b := pts.map fun n => let v := Config.rdsBand fc (s.mpx a l n); (v * v).toNat
      nearestSqrt (if b.isEmpty then 0 else 2 * b.sum / b.length)
    divWeight := d.weights.map weightField }

/-- What an AM lane measures over [t0, t1) (R150). -/
def State.amMeasured (s : State) (a : Air) (l t0 t1 : Nat) : AmMeas :=
  let e := s.cfg.active.lanes.get l
  let c := s.taps.lanes.get l
  let sync := decide (e.mode = .amSync)
  let pts := s.validPoints l 480 t0 t1
  let carrier := pts.map fun n => let w := carrierSum ((sinceRestart c (s.lanes.demods.get l).restartAt n).map fun i => s.chainOutput a c i)
    roundDiv (w.1 * w.1 : Nat) (max 1 (w.2 * w.2) : Nat) |>.toNat
  let lv := (runs64 (pts.zip carrier)).map meanLevel
  let m := pts.map fun n => modulation sync e.syncBw (s.demodHistory a l n)
  let ten := m.map (inUnits 10000)
  let last := s.demodHistory a l (pts.getLastD 0)
  let quad := pts.map fun n => let v := Config.carrierQuadrature e.syncBw ((s.demodHistory a l n).map fun x => (x.re, x.im)); (v * v).toNat
  { validCount := pts.length, partSuppressed := decide (pts.length < (c.gridIn t0 t1).length)
    carrierLock := (amLoop e.syncBw (s.demodHistory a l ((c.gridIn t0 t1).getLastD 0))).2.1
    power := carrier.sum, carrierMean := meanLevel carrier, carrierMin := levelMin lv, carrierMax := levelMax lv
    quadResidual := db100 quad.sum carrier.sum
    modSumsq := (ten.map fun v => (v * v).toNat).sum
    modPos := (levelMax ten).toNat, modNeg := (-(levelMin ten)).toNat
    overmod := m.countP fun x => decide (x.1 + (x.2 : Int) ≤ 0)
    carrierOffset := (amLoop e.syncBw last).2.2
    amssPhaseDev := Config.amssPhaseDev (pts.map fun n => let x := s.demodInput a l n; (x.re, x.im))
    divWeight := (s.lanes.demods.get l).weights.map weightField }

/-- What a watch tap measures over [t0, t1) (R159): its own discriminator and level detector, from its chain's output. -/
def State.watchMeasured (s : State) (a : Air) (w t0 t1 : Nat) : WatchMeas :=
  let c := s.taps.watches.get w
  let hz := rateHz c.rateClass
  let pts := (c.gridIn t0 t1).filter fun n => c.active && !c.deadAt n
  let xs := pts.map fun n => s.chainOutput a c n
  let powers := xs.map Smp.power
  let rf := (runs64 (pts.zip powers)).map meanLevel
  let f := frequencies hz xs
  let mpx := (prefixes (f.map fun v => v - meanOf f)).map Config.mpxLowPass
  let env := xs.map Smp.envelope
  let hp := (prefixes env).map fun p => let v := Config.highPass500 p; (v * v).toNat
  let b := (prefixes mpx).map fun p => let v := Config.rdsBand 57000 p; (v * v).toNat
  { validCount := pts.length, partSuppressed := decide (pts.length < (c.gridIn t0 t1).length)
    rfMean := meanLevel powers, rfMin := levelMin rf, rfMax := levelMax rf
    mpIndex := db100 (hp.sum * env.length) (env.sum * env.sum)
    devPeak := maxL (f.map fun v => (wholeHz v).natAbs)
    carrierOffset := roundDiv (meanOf f * 100) 256
    rdsDev := nearestSqrt (if b.isEmpty then 0 else 2 * b.sum / b.length) }

end Sys2Proof.Machine
end

