-- ==== Sys2Proof/Machine/FollowOps.lean ====
section
/-!
DEFINITION. What several families do to follow sets (07): the reach of a band tap (04 R116), identity and verification (R201 to R204), figures of merit of candidates (R208, R213).
-/
namespace Sys2Proof.Machine

/-! ### Reach and rates -/

/-- A frequency at a working rate lies within a cluster's band tap: n ≤ m, and |f − f_bt| + 0.38 × Fw ≤ 0.38 × Fseg with Fseg = fs / 2^n (04 R116). -/
def ConfigSet.reaches (c : ConfigSet) (cluster f rc : Nat) : Bool :=
  let k := c.clusters.get cluster
  let n := segHalvings k.segCode
  k.btOn && decide (n ≤ rateM rc)
    && decide (((f : Int) - k.fBt).natAbs * 100 * 2 ^ n + 38 * rateHz rc * 2 ^ n ≤ 38 * planKsps c.plan * 1000)

/-- Rate class of a member lane by signal type: AM 48 kS/s, FM 512 kS/s, DAB 2.048 MS/s, DRM A to D 48 kS/s, DRM E 192 kS/s (R200, 04 R115). -/
def sigRate : Nat → Nat
  | 1 => 2
  | 2 => 3
  | 4 => 1
  | _ => 0

/-- Rate class of a watch tap by signal type: DAB 2.048 MS/s, others 512 kS/s (R208). -/
def sigWatchRate (t : Nat) : Nat := if t = 2 then 3 else 2

/-- Digital signal types. -/
def sigDigital (t : Nat) : Bool := decide (2 ≤ t)

/-- The identifier of a signal type: AMSS SID, PI, SId of 16 or 32 bits, DRM service identifier. -/
def sigIdent (t v : Nat) : Ident :=
  match t with
  | 0 => ⟨4, v⟩
  | 1 => ⟨0, v⟩
  | 2 => if v < 65536 then ⟨1, v⟩ else ⟨2, v⟩
  | _ => ⟨3, v⟩

/-! ### Identity (R201, R203) -/

/-- Identifiers match: a PI with a PI or a 16-bit SId in the bits that PI_MASK sets; DRM and AMSS identifiers when equal; any other exactly (R201, R203). -/
def Ident.agrees (mask : Nat) (a b : Ident) : Bool :=
  if decide (a.kind ≤ 1) && decide (b.kind ≤ 1) && (a.kind == 0 || b.kind == 0) then a.val &&& mask == b.val &&& mask
  else if (a.kind == 3 || a.kind == 4) && (b.kind == 3 || b.kind == 4) then a.val == b.val
  else a == b

/-- The member lanes of a follow set. -/
def FollowEntry.lanes (e : FollowEntry) : List Nat := e.members.filterMap (·.lane)

/-- The signal positions that give linkage: those that decode a member lane, and DAB ensembles on a candidate's frequency (R201, R202). -/
def State.linkSignals (s : State) (f : Nat) : List (Nat × Nat) :=
  let e := s.cfg.active.follows.get f
  let freqs := (s.audio.follows.get f).cands.filterMap fun c => if c.typ = 2 then some c.freq else none
  (List.range (s.dies * 4)).flatMap fun k =>
    let x := s.cfg.active.engines.get k
    (x.positions.filter fun p => match s.feedLane k p with
      | some l => e.lanes.contains l || (decide (x.cls = .dab) && freqs.contains (s.cfg.active.lanes.get l).fLane)
      | none => false).map fun p => (k, p)

/-- One pass of linkage over a set of identifiers (R201). -/
def linkPass (e : FollowEntry) (figs : List Fig) (ids : List Ident) : List Ident :=
  figs.foldl (fun acc g =>
    let add := fun (xs : List Ident) => acc ++ xs.filter fun x => !acc.contains x
    match g with
    | .linkage _ la hard xs => if la && (hard || e.linkSoft) && xs.any (fun x => acc.any (x.agrees e.piMask)) then add xs else acc
    | .drmOther _ id _ => add [id]
    | _ => acc) ids

/-- The identity set: REF_ID and what linkage joins to it (R201). -/
def State.identitySet (s : State) (f : Nat) : List Ident :=
  let e := s.cfg.active.follows.get f
  let figs := (s.linkSignals f).flatMap fun k => (s.signal k.1 k.2).current.accepted
  figs.foldl (fun ids _ => linkPass e figs ids) [⟨e.refType, e.refId⟩]

/-- An identifier is in the identity set of a follow set. -/
def State.inIdentity (s : State) (f : Nat) (i : Ident) : Bool :=
  (s.identitySet f).any (i.agrees (s.cfg.active.follows.get f).piMask)

/-! ### Verification (R202, R204) -/

/-- VERIFY_AGE in counts. -/
def FollowEntry.age (e : FollowEntry) : Nat := e.verifyAge * countsPerSecond

/-- An acceptance still holds (R202, R204). -/
def verifiedNow (now age : Nat) (at_ : Option Nat) : Bool :=
  match at_ with
  | some t => decide (now < t + age)
  | none => false

/-- A candidate is verified: a trusted static entry always (R202). -/
def State.candVerified (s : State) (f : Nat) (c : Cand) : Bool :=
  c.trusted || verifiedNow s.now (s.cfg.active.follows.get f).age c.verifiedAt

/-- A member is verified on its own lane, or trusted (R202, R212). -/
def State.memberVerified (s : State) (f : Nat) (m : MemberSt) : Bool :=
  m.trusted || verifiedNow s.now (s.cfg.active.follows.get f).age m.verifiedAt

/-- Signal types that one frequency's identifier names: DRM modes A to D and E alike. -/
def sameSignal (a b : Nat) : Bool := a == b || (decide (3 ≤ a) && decide (3 ≤ b))

/-- FOLLOW_VERIFIED or FOLLOW_UNVERIFIED (07 events table). -/
def verifyEvent (f freq id : Nat) (ok : Bool) (s : State) : State :=
  raise (if ok then .followVerified else .followUnverified) (followDie f) [.w f, .w freq, .w id] s

/-- An identifier heard on a frequency, for one follow set: its candidates there, and the member `own` if the reception was its lane's. `lapses`: one outside the identity set ends a verification (R204). -/
def followHears (f freq typ : Nat) (i : Ident) (eid : Option Nat) (own : Option Nat) (lapses : Bool) (s : State) : State :=
  let x := s.audio.follows.get f
  let inSet := s.inIdentity f i
  let namedOk := fun (c : Cand) => match c.named with
    | some n => s.inIdentity f n
    | none => true
  let eidOk := fun (c : Cand) => c.eid.isNone || c.eid == eid
  let hits := fun (c : Cand) => c.freq == freq && sameSignal c.typ typ && namedOk c && eidOk c
  let gained := inSet && x.cands.any fun c => hits c && !s.candVerified f c
  let lost := !inSet && lapses && x.cands.any fun c => hits c && c.verifiedAt.isSome
  let upd := fun (c : Cand) =>
    if hits c && inSet then { c with ident := i.val, verifiedAt := some s.now } else if hits c && lapses then { c with verifiedAt := none } else c
  let s := s.setFollow f fun x => { x with cands := x.cands.map upd }
  let s := if gained then verifyEvent f freq i.val true s else if lost then verifyEvent f freq i.val false s else s
  match own with
  | none => s
  | some k =>
    let m := x.members.getD k {}
    let fits := (m.eid.isNone || m.eid == eid) && (match m.named with
      | some n => s.inIdentity f n
      | none => true)
    if m.freq = freq && sameSignal m.typ typ && fits then
      let was := s.memberVerified f m
      let set := fun (v : Option Nat) (u : State) => u.setFollow f fun y => { y with members := y.members.set k { m with ident := i.val, verifiedAt := v } }
      if inSet then
        let s := set (some s.now) s
        if was then s else verifyEvent f freq i.val true s
      else if lapses && m.verifiedAt.isSome then verifyEvent f freq i.val false (set none s)
      else s
    else s

/-- An identifier accepted on a lane or a watch tap, or by a reference engine: every enabled follow set that it concerns (R202, R204). -/
def followsHear (lane tap : Option Nat) (reference : Bool) (freq typ : Nat) (i : Ident) (eid : Option Nat) (lapses : Bool) (s : State) : State :=
  (List.range (s.dies * 16)).foldl (fun acc f =>
    let e := acc.cfg.active.follows.get f
    let own := lane.bind fun l => (List.range 4).find? fun k => (e.members.getD k {}).lane == some l
    let mine := own.isSome || (match tap with
      | some w => e.watches.contains w
      | none => false)
    if e.enable && (acc.audio.follows.get f).stage != 0 && (mine || reference) then followHears f freq typ i eid own lapses acc else acc) s

/-! ### Decode contexts (08 R225, R230) -/

/-- The slot that a decode context serves: the slot that names it, or the slot of the follow set that owns it (08 R225, R230). -/
def State.contextSlot (s : State) (k : Nat) : Option Nat :=
  let c := s.cfg.active
  ((List.range 64).map (contextDie k * 64 + ·)).find? fun x =>
    let e := c.slots.get x
    match e.source with
    | .decode => e.context == k
    | .follow => (c.follows.get e.srcIndex).enable && (c.follows.get e.srcIndex).members.any fun m => m.context == some k
    | _ => false

/-- The signal position that feeds a context. -/
def State.contextSignal (s : State) (k : Nat) : Option (Nat × Nat) :=
  (s.contextSlot k).bind fun x =>
    let e := s.cfg.active.slots.get x
    match e.source with
    | .decode => some (e.srcIndex, e.srcPos)
    | _ => ((s.cfg.active.follows.get e.srcIndex).members.find? fun m => m.context == some k).bind fun m => m.engine.map fun g => (g, m.position)

/-- The sub-channel or stream of a signal that carries the programme of a follow set: the audio component of a service of its identity set, or a DRM multiplex's first audio stream (notes/assumptions/53.md). -/
def State.followSub (s : State) (f g p : Nat) : Option Nat :=
  let acc := (s.signal g p).current.accepted
  if (s.cfg.active.engines.get g).cls = .dab then
    acc.findSome? fun x => match x with
      | .component sid _ c audio .. => if audio && s.inIdentity f (sigIdent 2 sid) then some c else none
      | _ => none
  else (List.range 4).find? fun i => acc.any fun x => match x with
    | .drmAudio j _ => j == i
    | _ => false

/-- The sub-channel or stream that a context takes: the slot's, or the one that carries its follow set's programme. -/
def State.contextTakes (s : State) (k sub : Nat) : Bool :=
  match s.contextSlot k, s.contextSignal k with
  | some x, some (g, p) =>
    let e := s.cfg.active.slots.get x
    if e.source = .decode then e.srcSub == sub else s.followSub e.srcIndex g p == some sub
  | _, _ => false

/-- The decode contexts that take units of a signal's sub-channel or stream. -/
def State.contextsOf (s : State) (e p sub : Nat) : List Nat :=
  (List.range (s.dies * 48)).filter fun k => s.contextSignal k == some (e, p) && s.contextTakes k sub

/-! ### Candidates measured on watch taps (R208, R213) -/

/-- FOM of a candidate measured on a watch tap: level in 0.01 dBµV, MP_INDEX (R208, R213). -/
def FollowEntry.tapFom (e : FollowEntry) (typ : Nat) (level mp : Int) : Int :=
  match typ with
  | 0 => level - e.amLevelMin
  | 1 => level - e.fmLevelMin - max 0 (mp - e.mpRef)
  | _ => level - e.digLevelMin

/-- A measurement of a watch tap of a follow set: the candidate that it measures takes the figure (R208); `t0`: where the measurement began. -/
def followTapMeasured (w t0 : Nat) (rfMean mp : Int) (s : State) : State :=
  (List.range (s.dies * 16)).foldl (fun acc f =>
    let e := acc.cfg.active.follows.get f
    match (acc.audio.follows.get f).measuring.find? (fun m => m.1 = w) with
    | some (_, freq, typ) =>
      let n := acc.clusterCourse (watchCluster w)
      let conv := ((acc.front.courses.get n).leader).getD 0
      let fom := e.tapFom typ (acc.levelUv n conv freq t0 rfMean) mp
      acc.setFollow f fun x => { x with cands := x.cands.map fun c => if c.freq = freq && c.typ = typ then { c with fom := some fom } else c }
    | none => acc) s

end Sys2Proof.Machine
end

