-- ==== Sys2Proof/Machine/Rds.lean ====
section
/-!
DEFINITION. RDS and AMSS (05 R152 to R157, R141, R475): block synchronisation, group records, accepted fields, side-data blocks. Where R156 names a field without its place in a group, the group layout is that of IEC 62106 (notes/assumptions/14.md).
-/
namespace Sys2Proof.Machine

/-! ### The chain that carries RDS -/

def State.rdsOf (s : State) : Rx → RdsSt
  | .lane l => (s.lanes.demods.get l).rds
  | .watch w => (s.lanes.watches.get w).rds
def State.setRds (s : State) (r : Rx) (f : RdsSt → RdsSt) : State :=
  match r with
  | .lane l => s.setDemod l fun x => { x with rds := f x.rds }
  | .watch w => s.setWatch w fun x => { x with rds := f x.rds }

/-- NRSC-4 in force (R155); watch taps follow IEC 62106 (R158). -/
def State.rdsNrsc (s : State) : Rx → Bool
  | .lane l => (s.cfg.active.lanes.get l).rdsNrsc
  | .watch _ => false
/-- The longest burst that the corrector corrects: CORRECT_MAX of 0, 2 or 5 bits (R136, R153); a watch tap has the default of R136. -/
def State.rdsCorrect (s : State) : Rx → Nat
  | .lane l => match (s.cfg.active.lanes.get l).correctMax with
    | 0 => 0
    | 1 => 2
    | _ => 5
  | .watch _ => 2
/-- The highest flag of a block that is used (R156); a watch tap has the default of R136. -/
def State.rdsAccept (s : State) : Rx → Nat
  | .lane l => (s.cfg.active.lanes.get l).acceptMax
  | .watch _ => 1

/-- The chain demodulates a stream (R152, R158, R159). -/
def State.rdsRuns (s : State) (r : Rx) (stream : Nat) : Bool :=
  match r with
  | .lane l => decide (l < s.dies * 32) && (s.taps.lanes.get l).active && (s.cfg.active.lanes.get l).mode.fm
      && decide (stream < 4) && maskBit (s.cfg.active.lanes.get l).rdsStreams stream
  | .watch w =>
    let e := s.cfg.active.watches.get w
    decide (w < s.dies * 64) && (s.taps.watches.get w).active && decide (stream = 0) && !e.rateHigh && decide (e.mode ≠ .level)

/-- A chain's SYSTIME of restart. -/
def State.rxRestart (s : State) : Rx → Option Nat
  | .lane l => (s.lanes.demods.get l).restartAt
  | .watch w => (s.lanes.watches.get w).restartAt

/-- The MPX of a chain since its restart, up to the present: a lane's, or that of a watch tap's discriminator (R142, R158). -/
def State.rxMpx (s : State) (a : Air) : Rx → List Int
  | .lane l => s.mpx a l ((s.taps.lanes.get l).pointAt s.now)
  | .watch w =>
    let c := s.taps.watches.get w
    let f := frequencies (rateHz c.rateClass) ((sinceRestart c (s.lanes.watches.get w).restartAt (c.pointAt s.now)).map (s.chainSample a c))
    (prefixes (f.map fun v => v - meanOf f)).map Config.mpxLowPass

/-- The subcarrier of a stream in Hz (R152). -/
def subcarrier : Nat → Nat
  | 0 => 57000 | 1 => 66500 | 2 => 71250 | _ => 76000

/-! ### Blocks: syndromes and the burst corrector (R153; offset words and generator of IEC 62106, notes/assumptions/14.md) -/

/-- The remainder of a 26-bit word by x^10 + x^8 + x^7 + x^5 + x^4 + x^3 + 1. -/
def rdsRemainder (w : Nat) : Nat :=
  (List.range 16).foldl (fun acc i => if maskBit acc (25 - i) then acc ^^^ (0x5B9 <<< (15 - i)) else acc) w

/-- The offset words by offset code: A, B, C, C′, D, and E of NRSC-4 (R154). -/
def offsetWord : Nat → Nat
  | 0 => 0x0FC | 1 => 0x198 | 2 => 0x168 | 3 => 0x350 | 4 => 0x1B4 | _ => 0

/-- The syndrome of a received block is that of an offset word: it is a code word with that offset word added. -/
def hasOffset (w code : Nat) : Bool := rdsRemainder (w ^^^ offsetWord code) == 0

/-- The error patterns of bursts of exactly `b` bits. -/
def bursts (b : Nat) : List Nat :=
  if b = 0 then [0] else
  (List.range (27 - b)).flatMap fun p =>
    ((List.range (2 ^ (b - 2))).map fun i => if b = 1 then 2 ^ p else (2 ^ (b - 1) + 2 * i + 1) * 2 ^ p).eraseDups

/-- The shortest burst of up to `most` bits that makes a block one of the offset codes: its length, the corrected block, the code. -/
def correctBurst (most : Nat) (codes : List Nat) (w : Nat) : Option (Nat × Nat × Nat) :=
  (List.range (most + 1)).findSome? fun b => (bursts b).findSome? fun e =>
    (codes.find? fun c => hasOffset (w ^^^ e) c).map fun c => (b, w ^^^ e, c)

/-- A block as it is flagged: 0 no error, 1 for 1 or 2 bits corrected, 2 for 3 to 5, 3 uncorrectable with the information word as received, which is no recognisable block (R153, R154). -/
def receiveBlock (most : Nat) (codes : List Nat) (w : Nat) : RdsPos :=
  match correctBurst most codes w with
  | some (b, v, c) => ⟨v / 1024, if b = 0 then 0 else if b ≤ 2 then 1 else 2, c⟩
  | none => ⟨w / 1024, 3, 7⟩

/-- The offset codes that a group position can carry; under NRSC-4 E blocks at any (R155). -/
def positionCodes (nrsc : Bool) (pos : Nat) : List Nat :=
  (match pos with
   | 0 => [0]
   | 1 => [1]
   | 2 => [2, 3]
   | _ => [4]) ++ if nrsc then [5] else []

/-- The 26 bits from bit `k`, the first received highest. -/
def wordAt (bits : Nat → Bool × Int) (k : Nat) : Nat := (List.range 26).foldl (fun acc i => acc * 2 + b2n (bits (k + i)).1) 0

/-! ### Synchronisation -/

/-- The block position that an offset word marks; E blocks have none (R154). -/
def offsetPos : Nat → Option Nat
  | 0 => some 0
  | 1 => some 1
  | 2 | 3 => some 2
  | 4 => some 3
  | _ => none

/-- The order of offset words that IEC 62106 allows: A, B, C or C′, D; under NRSC-4 E blocks follow D or E and precede A. -/
def offsetOrder (nrsc : Bool) (a b : Nat) : Bool :=
  match offsetPos a, offsetPos b with
  | some p, some q => (p + 1) % 4 == q
  | some 3, none => nrsc && b == 5
  | none, some 0 => nrsc && a == 5
  | none, none => nrsc && a == 5 && b == 5
  | _, _ => false

/-- SYSTIME counts of 26 bits at 1,187.5 bit/s, times 19. -/
def blockCounts19 : Nat := 41600000

/-- A position at which nothing recognisable was received (R154). -/
def noBlock : RdsPos := ⟨0, 3, 7⟩

/-! ### Fields -/

/-- One reception of a field: the same value twice in succession accepts it (R156). The second result: newly accepted. -/
def Fld.take (f : Fld) (v : Nat) : Fld × Bool :=
  if f.cand = some v then ({ f with acc := some v }, decide (f.acc ≠ some v)) else ({ f with cand := some v }, false)

/-- Bits of CHANGED (05 decoded state record). -/
def chPi : Nat := 0
def chPty : Nat := 1
def chTp : Nat := 2
def chTa : Nat := 3
def chMs : Nat := 4
def chPs : Nat := 5
def chRt : Nat := 6
def chAf : Nat := 7
def chEcc : Nat := 8
def chLic : Nat := 9
def chPin : Nat := 10
def chCt : Nat := 11
def chPtyn : Nat := 12

/-- Mark a field as newly accepted. -/
def RdsFields.mark (f : RdsFields) (bit : Nat) (isNew : Bool) : RdsFields :=
  if isNew then { f with changed := f.changed ||| 2 ^ bit } else f

def RdsFields.takePi (f : RdsFields) (v : Nat) : RdsFields :=
  let r := f.pi.take v
  ({ f with pi := r.1 }).mark chPi r.2
def RdsFields.takePty (f : RdsFields) (v : Nat) : RdsFields :=
  let r := f.pty.take v
  ({ f with pty := r.1 }).mark chPty r.2
def RdsFields.takeTp (f : RdsFields) (v : Nat) : RdsFields :=
  let r := f.tp.take v
  ({ f with tp := r.1 }).mark chTp r.2
def RdsFields.takeTa (f : RdsFields) (v : Nat) : RdsFields :=
  let r := f.ta.take v
  ({ f with ta := r.1 }).mark chTa r.2
def RdsFields.takeMs (f : RdsFields) (v : Nat) : RdsFields :=
  let r := f.ms.take v
  ({ f with ms := r.1 }).mark chMs r.2
def RdsFields.takeEcc (f : RdsFields) (v : Nat) : RdsFields :=
  let r := f.ecc.take v
  ({ f with ecc := r.1 }).mark chEcc r.2
def RdsFields.takeLic (f : RdsFields) (v : Nat) : RdsFields :=
  let r := f.lic.take v
  ({ f with lic := r.1 }).mark chLic r.2
def RdsFields.takePin (f : RdsFields) (v : Nat) : RdsFields :=
  let r := f.pin.take v
  ({ f with pin := r.1 }).mark chPin r.2
def RdsFields.takePs (f : RdsFields) (i v : Nat) : RdsFields :=
  let r := (f.ps.getD i {}).take v
  ({ f with ps := f.ps.set i r.1 }).mark chPs r.2
def RdsFields.takePtyn (f : RdsFields) (ab i v : Nat) : RdsFields :=
  let f := if f.ptynAb = ab then f else { f with ptyn := List.replicate 2 {}, ptynAb := ab }
  let r := (f.ptyn.getD i {}).take v
  ({ f with ptyn := f.ptyn.set i r.1 }).mark chPtyn r.2
/-- A text segment; a change of the A/B flag clears the text (R156). -/
def RdsFields.takeRt (f : RdsFields) (short : Bool) (ab i v : Nat) : RdsFields :=
  let f := if f.rtAb = ab && f.rtShort == short then f else { f with rt := List.replicate 16 {}, rtAb := ab, rtShort := short }
  let r := (f.rt.getD i {}).take v
  ({ f with rt := f.rt.set i r.1 }).mark chRt r.2

/-- One AF code counted into the method-A list in progress; the list is accepted when it is whole, newly where it is not the one accepted before (R156). -/
def RdsFields.takeAfCode (f : RdsFields) (code : Nat) : RdsFields :=
  if code = 224 || code = 205 || 225 ≤ code && code ≤ 250 || f.afCount = 0 || f.afCount ≤ f.afNext.length || f.afNext.contains code then f
  else
    let l := f.afNext ++ [code]
    if l.length = f.afCount then ({ f with afNext := l, afList := l }).mark chAf (decide (l ≠ f.afList)) else { f with afNext := l }

/-- A pair of AF codes of a type 0A group: codes 224 + n announce a list of n. One announced with the tuned frequency is of method B, which is assembled elsewhere (R156, 07 R206). -/
def RdsFields.takeAfPair (f : RdsFields) (tuned a b : Nat) : RdsFields :=
  if 225 ≤ a && a ≤ 249 then
    if b = tuned && a ≠ 225 then { f with afCount := 0, afNext := [] }
    else if f.afCount = a - 224 && f.afNext.head? = some b then f
    else ({ f with afCount := a - 224, afNext := [] }).takeAfCode b
  else (f.takeAfCode a).takeAfCode b

/-- Two bytes of a block as characters in order of reception: the first lowest. -/
def chars2 (w : Nat) : Nat := w / 256 + w % 256 * 256

/-- The block of a group at a position, if it may be used (R156). -/
def usable (acceptMax : Nat) (g : List RdsPos) (i : Nat) : Option RdsPos :=
  match g[i]? with
  | some p => if p.flag ≤ acceptMax && p.offset != 5 && p.offset != 7 then some p else none
  | none => none

/-- Fields of block B (R156): PTY, TP; TA and MS of types 0 and 15B. -/
def RdsFields.blockB (f : RdsFields) (b : Nat) : RdsFields :=
  let f := (f.takePty (b / 32 % 32)).takeTp (b / 1024 % 2)
  let ty := b / 2048
  if ty = 0 || ty = 1 || ty = 31 then (f.takeTa (b / 16 % 2)).takeMs (b / 8 % 2) else f

/-- Fields of block C, given block B: AF of type 0A, ECC and LIC of type 1A. -/
def RdsFields.blockC (f : RdsFields) (tuned b c : Nat) : RdsFields :=
  let ty := b / 2048
  if ty = 0 then f.takeAfPair tuned (c / 256) (c % 256)
  else if ty = 2 then
    (if c / 4096 % 8 = 0 then f.takeEcc (c % 256) else if c / 4096 % 8 = 3 then f.takeLic (c % 4096 % 256) else f)
  else f

/-- Fields of block D, given block B and, where it could be used, block C: PS, PIN, RT, PTYN. -/
def RdsFields.blockD (f : RdsFields) (b : Nat) (c : Option Nat) (d : Nat) : RdsFields :=
  let ty := b / 2048
  if ty = 0 || ty = 1 then f.takePs (b % 4) (chars2 d)
  else if ty = 2 || ty = 3 then f.takePin d
  else if ty = 5 then f.takeRt true (b / 16 % 2) (b % 16) (chars2 d)
  else match c with
    | some c =>
      if ty = 4 then f.takeRt false (b / 16 % 2) (b % 16) (chars2 c + chars2 d * 65536)
      else if ty = 20 then f.takePtyn (b / 16 % 2) (b % 2) (chars2 c + chars2 d * 65536)
      else f
    | none => f

/-- Clock time of a type 4A group in which every block has flag 0 (R156). CT_OFFSET holds the six bits as broadcast, a sign and five bits of magnitude: DESIGN CHOICE (notes/assumptions/50.md). -/
def RdsFields.clockTime (f : RdsFields) (g : List RdsPos) : RdsFields :=
  match g with
  | [_, b, c, d] =>
    if g.all (fun p => p.flag = 0) && b.info / 2048 = 8 then
      ({ f with ct := some (b.info % 4 * 32768 + c.info / 2, c.info % 2 * 16 + d.info / 4096, d.info / 64 % 64, d.info % 64) }).mark chCt true
    else f
  | _ => f

/-- What a block position adds to the fields of stream 0: `g` is the group with that position last (R156, R475). -/
def RdsFields.take (f : RdsFields) (acceptMax tuned : Nat) (g : List RdsPos) : RdsFields :=
  let i := g.length - 1
  let b := (usable acceptMax g 1).map (·.info)
  match usable acceptMax g i with
  | none => f
  | some p =>
    if i = 0 then (if p.offset = 0 then f.takePi p.info else f)
    else if i = 1 then f.blockB p.info
    else if i = 2 then
      (if p.offset = 3 then f.takePi p.info else match b with
        | some b => f.blockC tuned b p.info
        | none => f)
    else
      let f := match b with
        | some b => f.blockD b ((usable acceptMax g 2).bind fun q => if q.offset = 2 then some q.info else none) p.info
        | none => f
      f.clockTime g

/-! ### Records -/

/-- The characters of segments of `n` characters, 0 where not received. -/
def segChars (n : Nat) (fs : List Fld) : List Byte := fs.flatMap fun f => le n (f.acc.getD 0)

/-- The length of the text: characters up to the end marker 0x0D, or all of them. -/
def textLen (bs : List Byte) : Nat := (bs.takeWhile fun b => b.toNat != 0x0D).length

/-- Every segment of a field is accepted. -/
def complete? (fs : List Fld) : Bool := fs.all fun f => f.acc.isSome

/-- RT is complete: every segment up to the end marker is accepted. -/
def RdsFields.rtComplete (f : RdsFields) : Bool :=
  let n := if f.rtShort then 2 else 4
  let got := f.rt.takeWhile fun x => x.acc.isSome
  got.length == 16 || (segChars n got).any fun b => b.toNat == 0x0D

/-- The decoded state record, type 0x02, 144 bytes (R157). -/
def RdsFields.record (f : RdsFields) : List Byte :=
  let v := fun (x : Fld) => x.acc.getD 0
  let rt := padTo 64 (segChars (if f.rtShort then 2 else 4) f.rt)
  let ct := f.ct.getD (0, 0, 0, 0)
  le 1 2 ++ zeros 1 ++ le 2 144 ++ le 8 f.acceptedAt ++ le 4 f.changed ++ le 2 (v f.pi)
  ++ le 1 (v f.pty + v f.tp * 32 + v f.ta * 64 + v f.ms * 128)
  ++ le 1 (b2n f.pi.acc.isSome + 2 * b2n (complete? f.ps) + 4 * b2n f.rtComplete + 8 * b2n f.ct.isSome + 16 * b2n (complete? f.ptyn))
  ++ segChars 2 f.ps ++ rt ++ le 1 (f.rtAb + 2 * (min 64 (textLen rt))) ++ le 1 (v f.ecc) ++ le 1 (v f.lic)
  ++ le 1 f.afList.length ++ padTo 25 (f.afList.map (BitVec.ofNat 8)) ++ zeros 1 ++ le 2 (v f.pin)
  ++ le 4 ct.1 ++ le 4 (ct.2.1 + ct.2.2.1 * 32 + ct.2.2.2 * 2048) ++ segChars 4 f.ptyn ++ zeros 4

/-- The group record, type 0x01, 32 bytes (R154, R157). -/
def groupRecord (stream : Nat) (nrsc : Bool) (x : RdsStream) (g : List RdsPos) : List Byte :=
  let at_ := fun i => g.getD i noBlock
  le 1 1 ++ le 1 (stream + 4 * b2n nrsc) ++ le 2 32 ++ le 8 x.firstBit
  ++ ((List.range 4).flatMap fun i => le 2 (at_ i).info)
  ++ le 1 ((List.range 4).foldl (fun acc i => acc + (at_ i).flag * 4 ^ i) 0)
  ++ le 2 ((List.range 4).foldl (fun acc i => acc + (at_ i).offset * 8 ^ i) 0)
  ++ zeros 1 ++ le 2 x.seq.toNat ++ le 1 (min 255 x.slips) ++ zeros 5

/-- A side-data record whose last bit fell at SYSTIME `t` (R157). -/
def RdsSt.push (r : RdsSt) (t : Nat) (bytes : List Byte) : RdsSt := { r with records := r.records ++ [(t, bytes)] }

/-! ### A block position -/

/-- The AF code of an FM frequency in Hz: 87.5 MHz + code × 100 kHz (07 R206, notes/assumptions/14.md). -/
def afCodeOf (f : Nat) : Nat := (f - 87500000) / 100000

/-- A pair of AF codes of type 0A as a method-B list takes it: a count code with the tuned frequency begins a list, later pairs contain it; after the filler 250 comes an AM code (07 R206). -/
def AfB.take (x : AfB) (tuned a b : Nat) : AfB :=
  if 225 ≤ a && a ≤ 249 then
    if b ≠ tuned then {} else if x.count = a - 224 && x.tuned = b then x else { count := a - 224, tuned := b }
  else if x.count = 0 then x
  else if a = 250 then { x with am := if x.am.contains b then x.am else x.am ++ [b] }
  else if a = tuned || b = tuned then
    if x.pairs.any fun p => p.1 = a && p.2.1 = b then
      { x with pairs := x.pairs.map fun p => if p.1 = a && p.2.1 = b then (p.1, p.2.1, p.2.2 + 1) else p }
    else { x with pairs := x.pairs ++ [(a, b, 1)] }
  else {}

/-- A method-B list is complete once every pair has been received twice (07 R206). -/
def AfB.complete (x : AfB) : Bool :=
  decide (1 < x.count) && x.pairs.length == (x.count - 1) / 2 && x.pairs.all fun p => decide (2 ≤ p.2.2)

/-- The frequency to which a chain is tuned. -/
def State.rxFreq (s : State) : Rx → Nat
  | .lane l => (s.cfg.active.lanes.get l).fLane
  | .watch w => (s.lanes.watches.get w).freq

/-- The lane, or the watch tap, of a chain. -/
def Rx.laneOf : Rx → Option Nat
  | .lane l => some l
  | .watch _ => none
def Rx.tapOf : Rx → Option Nat
  | .lane _ => none
  | .watch w => some w

/-- The method-B assembly of a member lane after a position (07 R206). -/
def takeAfB (r : Rx) (acceptMax : Nat) (g : List RdsPos) (s : State) : State :=
  match usable acceptMax g 1, usable acceptMax g 2 with
  | some b, some c =>
    if g.length = 3 && b.info / 2048 = 0 && c.offset = 2 then
      s.setRds r fun x => { x with fields := { x.fields with afB := x.fields.afB.take (afCodeOf (s.rxFreq r)) (c.info / 256) (c.info % 256) } }
    else s
  | _, _ => s

/-- A PI accepted again or anew by this position: the follow sets hear it (07 R202, R204). -/
def hearPi (r : Rx) (acceptMax : Nat) (g : List RdsPos) (old : RdsFields) (s : State) : State :=
  let i := g.length - 1
  match usable acceptMax g i with
  | some p =>
    if (i = 0 || (i = 2 && p.offset = 3)) && old.pi.cand == some p.info then
      followsHear r.laneOf r.tapOf false (s.rxFreq r) 1 ⟨0, p.info⟩ none true
        (s.setRds r fun x => { x with fields := { x.fields with piAt := s.now } })
    else s
  | none => s

/-- Events and alerts that a change of the accepted fields brings (R156, 17 R442). -/
def fieldEvents (r : Rx) (old new : RdsFields) (s : State) : State :=
  let ta := fun (f : RdsFields) => decide (f.ta.acc = some 1) && decide (f.tp.acc = some 1)
  let p31 := fun (f : RdsFields) => decide (f.pty.acc = some 31)
  let alert : List EvArg := [.w r.kind, .w r.index, .w (new.pi.acc.getD 0), .w (new.pty.acc.getD 0), .w (new.ta.acc.getD 0)]
  let s := match old.pi.acc, new.pi.acc with
    | some a, some b => if a ≠ b then raise .rdsPiChange r.die [.w r.kind, .w r.index, .w a, .w b] s else s
    | _, _ => s
  let s := if (p31 new && !p31 old) || (ta new && !ta old) then raise .rdsAlert r.die alert s else s
  match r with
  | .watch w => setAlert (.ta w) (ta new) (setAlert (.pty31 w) (p31 new) s)
  | .lane _ => s

/-- The fields of stream 0 after a position, with a decoded state record where one is newly accepted (R157). -/
def takeFields (r : Rx) (g : List RdsPos) (s : State) : State :=
  let old := (s.rdsOf r).fields
  let new := old.take (s.rdsAccept r) (afCodeOf (s.rxFreq r)) g
  let s := if new.changed = 0 then s.setRds r fun x => { x with fields := new }
    else
      let new := { new with acceptedAt := s.now }
      fieldEvents r old new (s.setRds r fun x => { (x.push s.now new.record) with fields := { new with changed := 0 } })
  hearPi r (s.rdsAccept r) g old (takeAfB r (s.rdsAccept r) g s)

/-- Change one stream. -/
def RdsSt.setStream (r : RdsSt) (i : Nat) (f : RdsStream → RdsStream) : RdsSt :=
  { r with streams := r.streams.set i (f (r.streams.getD i {})) }

/-- Stream-0 positions of a lane counted for its registers (05 "Demodulator registers"). -/
def countPosition (r : Rx) (stream flag : Nat) (s : State) : State :=
  match r with
  | .lane l => if stream = 0 then s.setDemod l fun x => { x with rdsBlocks := x.rdsBlocks + 1, rdsUncorr := if flag = 3 then x.rdsUncorr + 1 else x.rdsUncorr } else s
  | .watch _ => s

/-- A position of a synchronised stream: into its group, its fields taken; the fourth forms the group record; 20 uncorrectable of the last 50 lose synchronisation (R153, R154). -/
def syncedPosition (r : Rx) (i : Nat) (p : RdsPos) (slip : Bool) (k firstBit : Nat) (s : State) : State :=
  let x := (s.rdsOf r).streams.getD i {}
  let g := x.group ++ [p]
  let first := if x.group.isEmpty then firstBit else x.firstBit
  let last50 := (decide (p.flag = 3) :: x.last50).take 50
  let s := countPosition r i p.flag (s.setRds r fun q => q.setStream i fun x =>
    { x with group := g, firstBit := first, last50 := last50, slips := x.slips + b2n slip, bit := k + 26 })
  let s := if i = 0 then takeFields r g s else s
  let s := if g.length < 4 then s else
    s.setRds r fun q =>
      let x := q.streams.getD i {}
      (q.push (firstBit + blockCounts19 / 19) (groupRecord i (s.rdsNrsc r) x g)).setStream i fun x =>
        { x with group := [], seq := x.seq + 1, slips := 0, total := x.total + 1, good := if g.all (fun p => decide (p.flag ≤ 1)) then x.good + 1 else x.good }
  if 20 ≤ (last50.filter id).length then
    raise .rdsSyncLost r.die [.w r.kind, .w r.index, .w i]
      (s.setRds r fun q => q.setStream i fun x => { x with synced := false, prev := none, group := [], last50 := [] })
  else s

/-- The group position that a block of an offset code takes when synchronisation is acquired on it: that of its offset word; an E block the first: DESIGN CHOICE (notes/assumptions/50.md). -/
def acquiredPos (code : Nat) : Nat := (offsetPos code).getD 0

/-- A stream that looks for synchronisation takes the block from bit `k`: two consecutive blocks without error, 26 bits apart, in an order that IEC 62106 allows acquire it (R153). -/
def unsyncedPosition (r : Rx) (i : Nat) (p : RdsPos) (k firstBit : Nat) (s : State) : State :=
  let x := (s.rdsOf r).streams.getD i {}
  let follows := decide (p.flag = 0) && decide (k = x.bit) && (match x.prev with
    | some a => offsetOrder (s.rdsNrsc r) a.offset p.offset
    | none => false)
  if follows then
    let pos := acquiredPos p.offset
    let t := s.setRds r fun q => q.setStream i fun x =>
      { x with synced := true, prev := none, last50 := [], slips := 0, validAt := some (x.validAt.getD s.now)
               group := (List.replicate (pos - 1) noBlock) ++ (if pos = 0 then [] else x.prev.toList)
               firstBit := firstBit - pos * blockCounts19 / 19 }
    syncedPosition r i p false k firstBit (raise .rdsSyncGained r.die [.w r.kind, .w r.index, .w i] t)
  else if p.flag = 0 then s.setRds r fun q => q.setStream i fun x => { x with prev := some p, bit := k + 26 }
  else if x.bit ≤ k then s.setRds r fun q => q.setStream i fun x => { x with prev := none }
  else s

/-- The bits of a stream, and the SYSTIME of each: what its carrier and bit-clock recovery gives of the MPX (R152). -/
def State.rdsBits (s : State) (air : Air) (r : Rx) (stream : Nat) : Nat → Bool × Int := Config.rdsBits (subcarrier stream) (s.rxMpx air r)

/-- The block from bit `k` in the stream's timing, with its next position's offset words: corrected up to `most` (R153). -/
def State.rdsAt (s : State) (air : Air) (r : Rx) (stream most k : Nat) : RdsPos :=
  receiveBlock most (positionCodes (s.rdsNrsc r) ((s.rdsOf r).streams.getD stream {}).group.length) (wordAt (s.rdsBits air r stream) k)

/-- The block from bit `k` of a stream that looks for synchronisation: any offset word, without error (R153). -/
def State.rdsSought (s : State) (air : Air) (r : Rx) (stream k : Nat) : RdsPos :=
  receiveBlock 0 ([0, 1, 2, 3, 4] ++ if s.rdsNrsc r then [5] else []) (wordAt (s.rdsBits air r stream) k)

/-- A 26-bit block position of a stream passes, with bit `k` since the restart: its bits are those that the stream's carrier and bit-clock recovery gives of the MPX; it is checked and corrected. A synchronised stream keeps its timing, but for a slip of one bit where only the slipped block is without error (R152, R153). -/
def execRdsBlock (r : Rx) (stream : Nat) (air : Air) (k : Nat) (s : State) : Res :=
  let x := (s.rdsOf r).streams.getD stream {}
  let firstBit := ((s.rdsBits air r stream k).2).toNat
  let slip := decide (k ≠ x.bit)
  let inTime := !slip || (decide (k = x.bit + 1 ∨ k + 1 = x.bit) && decide ((s.rdsAt air r stream 0 k).flag = 0)
    && decide ((s.rdsAt air r stream (s.rdsCorrect r) x.bit).flag = 3))
  onlyIf (s.rdsRuns r stream && s.dieRuns r.die && (s.rxRestart r).isSome && (!x.synced || inTime)) s
    (if x.synced then syncedPosition r stream (s.rdsAt air r stream (s.rdsCorrect r) k) slip k firstBit s
     else unsyncedPosition r stream (s.rdsSought air r stream k) k firstBit s)

/-! ### AMSS -/

/-- The bits of AMSS in a lane's carrier, and the SYSTIME of each (R141). -/
def State.amssBits (s : State) (air : Air) (l : Nat) : Nat → Bool × Int :=
  Config.amssBits ((s.demodHistory air l ((s.taps.lanes.get l).pointAt s.now)).map fun x => (x.re, x.im))

/-- The 47 bits from bit `k` as a block: what its check gives, 3 where uncorrectable, and the service identifier it completes (R141). -/
def State.amssAt (s : State) (air : Air) (l k : Nat) : Nat × Nat × Option Nat :=
  Config.amssBlock ((List.range 47).foldl (fun acc i => acc * 2 + b2n (s.amssBits air l (k + i)).1) 0)

/-- A 47-bit AMSS block, from bit `k` since the restart of the bits that the carrier's phase gives: checked and corrected, delivered in its record while block synchronisation holds, and the service identifier once a block that carries it has been received without uncorrectable errors (R141). -/
def execAmssBlock (l : Nat) (air : Air) (k : Nat) (s : State) : Res :=
  let e := s.cfg.active.lanes.get l
  let d := s.lanes.demods.get l
  let bits := s.amssBits air l
  let (block, check, sid) := s.amssAt air l k
  let firstBit := ((bits k).2).toNat
  let checks := check :: d.amssChecks
  let synced := Config.amssSynced checks
  let good := decide (check ≠ 3)
  let id := match sid with
    | some v => if good then some (v % 2 ^ 24) else if d.amssSidValid then some d.amssSid else none
    | none => if d.amssSidValid then some d.amssSid else none
  let record := le 1 3 ++ zeros 1 ++ le 2 24 ++ le 8 firstBit ++ le 6 (block % 2 ^ 47) ++ le 1 (check % 4) ++ zeros 1
    ++ le 4 (id.getD 0 + if id.isSome then 2 ^ 31 else 0)
  let heard := fun (u : State) => match sid with
    | some v => if good then
        followsHear (some l) none false e.fLane 0 ⟨4, v % 2 ^ 24⟩ none true (u.setDemod l fun x => { x with amssAt := u.now }) else u
    | none => u
  let changed := match id with
    | some v => d.amssSidValid && v != d.amssSid
    | none => false
  onlyIf (decide (l < s.dies * 32) && s.dieRuns (laneDie l) && (s.taps.lanes.get l).active && e.mode.am && e.amssOn && d.restartAt.isSome) s
    ((fun u => if changed then note { kind := 1, index := l, at_ := u.now, tag := .idChange } u else u) <| heard <| s.setDemod l fun x =>
      { x with amssSync := synced, amssChecks := checks, amssSid := id.getD 0, amssSidValid := id.isSome, amssTotal := x.amssTotal + 1
               amssGood := x.amssGood + b2n good, rds := if synced then x.rds.push ((bits (k + 46)).2).toNat record else x.rds })

/-! ### Side-data blocks -/

/-- Side data of a chain is formed: lanes in AM and FM modes, watch taps that decode RDS (R157, R159). -/
def State.hasSideData (s : State) : Rx → Bool
  | .lane l => decide (l < s.dies * 32) && (s.taps.lanes.get l).active && !s.laneDead l
      && ((s.cfg.active.lanes.get l).mode.am || (s.cfg.active.lanes.get l).mode.fm)
  | .watch w => s.rdsRuns (.watch w) 0

/-- Whether a chain's output in [t0, t1) holds suppressed samples, for the flags of record blocks. -/
def Chain.spanSuppressed (c : Chain) (t0 t1 : Nat) : Bool :=
  c.disturbs.any fun x => match x with
    | .instant e .. => decide (t0 ≤ e) && decide (e < t1)
    | .span e1 e2 => decide (e1 < t1) && (match e2 with
        | some e => decide (t0 < e)
        | none => true)
    | .hole e1 e2 => decide (e1 < t1) && decide (t0 < e2)
    | .grid n k => (c.gridIn t0 t1).any fun i => decide ((n : Int) ≤ i) && decide (i < (n + k : Nat))

/-- The side-data records of a lane's span, for its leaf (15 R407). -/
def sideNote (r : Rx) (t0 : Nat) (bytes : List Byte) (s : State) : State :=
  match r with
  | .lane l => note { kind := 1, index := l, at_ := t0, tag := .side, bytes := bytes } s
  | .watch _ => s

/-- Records of a restarted chain are not yet valid: a selected stream, or AMSS, has not reached block synchronisation since the restart, or did so within the span that began at `t0` (R138). -/
def State.sideUnsettled (s : State) (r : Rx) (t0 : Nat) : Bool :=
  let late := fun (x : RdsStream) => match x.validAt with
    | some t => decide (t0 ≤ t)
    | none => true
  match r with
  | .lane l =>
    let e := s.cfg.active.lanes.get l
    if e.mode.am then e.amssOn && !(s.lanes.demods.get l).amssSync
    else (List.range 4).any fun i => maskBit e.rdsStreams i && late ((s.rdsOf r).streams.getD i {})
  | .watch _ => late ((s.rdsOf r).streams.getD 0 {})

/-- Some valid sample of a chain in [t0, t1) passed through a clip or a saturated stage (03 R97, 04 R129). -/
def State.rxSaturated (s : State) (a : Air) (r : Rx) (t0 t1 : Nat) : Bool :=
  let cs := match r with
    | .lane l => s.combined l
    | .watch w => [s.taps.watches.get w]
  cs.any fun c => (c.gridIn t0 t1).any fun n =>
    let x := s.chainSample a c n
    x.clip || x.tapSat || x.filterSat

/-- A 100 ms span ends, at a SYSTIME multiple of 10,000,000: its side-data block, even when empty, with the records whose last bit fell in it, in that order; every 10 s a decoded state record joins it (R157). -/
def execSideDataSpanEnd (r : Rx) (air : Air) (s : State) : Res :=
  let t1 := s.now
  let t0 := t1 - 10000000
  let q := s.rdsOf r
  let stream0 := match r with
    | .lane l => (s.cfg.active.lanes.get l).mode.fm && maskBit (s.cfg.active.lanes.get l).rdsStreams 0
    | .watch _ => true
  let due := q.records.filter fun x => decide (x.1 < t1)
  let recs := (due.mergeSort fun x y => decide (x.1 ≤ y.1)).map (·.2) ++ if stream0 && t1 % 1000000000 = 0 then [q.fields.record] else []
  let cl := match r with
    | .lane l => laneCluster l
    | .watch w => watchCluster w
  let chain := match r with
    | .lane l => s.taps.lanes.get l
    | .watch w => s.taps.watches.get w
  let js := match r with
    | .lane l => s.laneCourses l
    | .watch _ => [s.clusterCourse cl]
  let covered := match r with
    | .lane l => s.coveredIn l t0 t1
    | .watch _ => false
  let fl := s.clockFlags r.die (s.leaderDies js) t0 t1 + flagIf (chain.spanSuppressed t0 t1 || s.sideUnsettled r t0 || s.frozenIn r.die t0 t1) flSuppressed
    + flagIf (s.rxSaturated air r t0 t1) flSaturated + flagIf covered flCovered
  let sel := match r with
    | .lane l => fun (e : RouteEntry) => maskBit e.laneMask (l % 32)
    | .watch w => fun (e : RouteEntry) => maskBit e.watchMask (w % 64)
  onlyIf (s.hasSideData r && s.dieUp r.die && decide (s.now % 10000000 = 0) && decide (q.spanTo < s.now)) s
    (formRecordBlocks .sideData sel 16384 recs
      { format := 0x0301, srcType := if r.kind = 0 then 1 else 2, srcIndex := r.index, die := r.die, timestamp := t0, sampleCount := 0, flags := fl, payload := []
        gain := s.spanMark js t0 t1 }
      (sideNote r t0 recs.flatten <| s.setRds r fun x =>
        { x with spanTo := s.now, records := x.records.filter fun y => decide (t1 ≤ y.1), fields := { x.fields with changed := 0 } }))

end Sys2Proof.Machine
end

