-- ==== Sys2Proof/Machine/Lanes.lean ====
section
/-!
DEFINITION. Lanes, spare lanes and watch taps: assay and cover, demodulator restarts, combining, pilot and stereo, measurement records, surveys (05).
-/
namespace Sys2Proof.Machine

/-! ### Assay (R161, R162, R165) -/

/-- The cluster's spare can be put to use: its die is up and its domain in service. -/
def State.spareUp (s : State) (c : Nat) : Bool :=
  decide (c < s.dies * 4) && s.dieRuns (clusterDie c) && maskBit (s.domains.get (clusterDie c)).ready (5 + c % 4) && !s.retired (spareRef c)

/-- A step on this lane has nothing to compare: OFF, or a feed or branch that nothing names (R161). -/
def State.nothingToCompare (s : State) (l : Nat) : Bool := (s.cfg.active.laneRate l).isNone

/-- A rotation ends with the step on position 7. -/
def SpareSt.endRotation (x : SpareSt) (now : Nat) : SpareSt :=
  { x with rotations := x.rotations + 1, lastRotationTick := tick32 now, coverTaken := false, rotCharged := [], rotStart := now }

/-- A restored lane's step was clean, or not (R165). -/
def endRestore (l : Nat) (clean : Bool) (s : State) : State :=
  let w := fun (x : Wait) => decide (x = .restore (laneRef l))
  if clean then completeWait w .ok 0 (restoreLane l s)
  else
    let s := s.setSpare (laneCluster l) fun x => { x with assay := none, restoreAsked := false }
    completeWait w .ok 1 (raise .laneRestored (laneDie l) [.w l, .w 1, .q 0] s)

/-- The step in progress ends: a clean comparison gives LAST_ASSAY_TICK; position 7 completes the rotation; a clean restore hands back. -/
def endAssay (c : Nat) (s : State) : State :=
  let x := s.lanes.spares.get c
  match x.assay with
  | none => s
  | some a =>
    let l := c * 8 + x.position
    let clean := a.comparing && a.firstDiff.isNone
    if a.restore then endRestore l clean s
    else
      let s := if clean then s.setDemod l fun d => { d with lastAssayTick := tick32 s.now } else s
      s.setSpare c fun x => if x.position = 7 then { (x.endRotation s.now) with assay := none } else { x with assay := none }

/-- The spare loads the configuration of a position and runs its chain on the cluster's segment: by 04 R122 the output is that of the lane's own chain (R161). -/
def loadSpare (c p : Nat) (s : State) : State :=
  let s := s.setSpare c fun x => { x with position := p, loadedAt := s.now }
  { s with taps := { s.taps with spares := s.taps.spares.set c (s.taps.lanes.get (c * 8 + p)) } }

/-- A 100 ms step begins, at a SYSTIME multiple of 10,000,000: the spare loads the next position, or runs its own test; on a replaced cluster only the step of UNIT_RESTORE runs (R161, R165). -/
def execAssayStep (c : Nat) (s : State) : Res :=
  let s0 := endAssay c s
  let x := s0.lanes.spares.get c
  onlyIf (s.spareUp c && (s.lanes.spares.get c).cover.isNone && decide (s.now % 10000000 = 0)
      && !((s.lanes.spares.get c).assay.any fun a => a.start == s.now)) s
    (match s0.replacedPos c with
     | some p =>
       if x.restoreAsked then
         s0.setSpare c fun x => { x with position := p, restoreAsked := false, assay := some { start := s.now, restore := true } }
       else s0
     | none =>
       let p := x.nextAssay
       (loadSpare c p s0).setSpare c fun x => { x with nextAssay := (p + 1) % 8, assay := some { start := s.now, testing := s.nothingToCompare (c * 8 + p) } })

/-- 4 ms into the step the lane's state is copied and the comparison begins (R161). -/
def execAssayStateCopy (c : Nat) (s : State) : Res :=
  match (s.lanes.spares.get c).assay with
  | none => .next s
  | some a =>
    onlyIf (s.spareUp c && !a.comparing && !a.testing && a.firstDiff.isNone && decide (a.start + 400000 ≤ s.now) && decide (s.now % countsPerBlock = 0)) s
      (s.setSpare c fun x => { x with assay := some { a with comparing := true, copied := true } })

/-- The first differing value, with the number of the output that differed: comparing stops, the spare's 2 ms test starts (R162). -/
def execFirstDifferingValue (c output : Nat) (s : State) : Res :=
  match (s.lanes.spares.get c).assay with
  | none => .next s
  | some a =>
    onlyIf (s.spareUp c && a.comparing) s
      (s.setSpare c fun x => { x with assay := some { a with comparing := false, testing := true, firstDiff := some (s.now, output) } })

/-- The spare charged: counted, and retired once lasting (R162, R163). -/
def chargeSpare (c at_ : Nat) (s : State) : State :=
  let d := clusterDie c
  let s := s.setSpare c fun x => { x with spareCharges := satInc x.spareCharges }
  let r := occur 2 (spareRef c) (raise .spareCharged d [.w d, .w (c % 4), .q at_] s)
  if r.1 then retireSpare c r.2 else r.2

/-- The charges of this rotation moved from the cluster's lanes to its spare (R162); lasting there once they reach COUNT. -/
def moveCharges (c since : Nat) (s : State) : State :=
  let moved := fun (o : Occ) => decide (o.cls = 2) && decide (o.unit.kind = .lane) && o.unit.die == clusterDie c && o.unit.loc / 8 == c % 4 && decide (since ≤ o.at_)
  let n := (s.integ.occs.filter moved).length
  let s := { s with integ := { s.integ with occs := s.integ.occs.map fun o => if moved o then { o with unit := spareRef c } else o } }
  let s := s.setSpare c fun x => { x with spareCharges := satAdd x.spareCharges n }
  let k := s.recentOccs 2 (spareRef c)
  if (s.rule 2).count ≤ k then retireSpare c (declareLasting 2 (spareRef c) k s) else s

/-- The lane charged (R162): its replacement once lasting; with a third lane charged in one rotation the charges go to the spare. -/
def chargeLane (l at_ output : Nat) (s : State) : State :=
  let c := laneCluster l
  let x := s.lanes.spares.get c
  let charged := if x.rotCharged.contains (l % 8) then x.rotCharged else x.rotCharged ++ [l % 8]
  let s := s.setDemod l fun d => { d with charges := satInc d.charges }
  let s := raise .laneAssayMismatch (laneDie l) [.w l, .q at_, .w output] s
  let s := s.setSpare c fun x => { x with rotCharged := charged }
  if 3 ≤ charged.length then moveCharges c x.rotStart (addOcc 2 (laneRef l) s)
  else
    let r := occur 2 (laneRef l) s
    if r.1 then replaceLane l r.2 else r.2

/-- The 2 ms test ends: the spare is charged if it fails, else the lane that differed (R161, R162); a restored lane's step was not clean (R165). -/
def execAssayKatEnd (c : Nat) (fails : Bool) (s : State) : Res :=
  let x := s.lanes.spares.get c
  match x.assay with
  | none => .next s
  | some a =>
    let l := c * 8 + x.position
    let due := match a.firstDiff with
      | some d => d.1 + 200000
      | none => a.start + 600000
    onlyIf (s.spareUp c && a.testing && decide (due ≤ s.now)) s
      (let t := s.setSpare c fun x => { x with assay := some { a with testing := false } }
       match a.firstDiff with
       | some (at_, output) =>
         if a.restore then endRestore l false t
         else if fails then chargeSpare c at_ t else chargeLane l at_ output t
       | none => if fails then chargeSpare c s.now t else t)

/-! ### Cover (R164) -/

/-- At the block boundary B the spare, which has run the lane's configuration for its lane-level span since the rotation ended, takes the lane's state and delivers under its index: native cover, at most one window between rotations (R164, 01 R29, 04 R126). -/
def execCoverStart (c pos : Nat) (s : State) : Res :=
  let x := s.lanes.spares.get c
  let l := c * 8 + pos
  let ended := match x.assay with
    | some a => a.start + 10000000
    | none => x.rotStart
  onlyIf (s.spareUp c && decide (pos < 8) && !s.holdCover c && x.cover.isNone && !x.coverTaken && x.betweenRotations s.now
      && decide (s.now % countsPerBlock = 0) && decide (ended + (s.laneTune l).laneSpan ≤ s.now)) s
    ((loadSpare c pos (endAssay c s)).setSpare c fun x =>
      { (x.beginCover pos false s.now) with assay := none, coverTaken := true, lastCoverStart := some s.now, cover := some ⟨pos, false, s.now⟩ })

/-- At the block boundary B′ the lane takes the spare's state and back its station, which its chain has run for the lane-level span; at the latest 300 ms after B, when a level step under the cover ends without update (R164, 01 R29, 12 R358). -/
def execCoverEnd (c : Nat) (s : State) : Res :=
  match (s.lanes.spares.get c).cover with
  | none => .next s
  | some v =>
    let l := c * 8 + v.pos
    let busy := (List.range s.dies).any fun n => match s.cal.steps.get n with
      | some st => st.lane == l && decide (st.phase ≠ .return_)
      | none => false
    let pastEnd := decide (v.start + 30000000 ≤ s.now)
    onlyIf (decide (c < s.dies * 4) && s.dieRuns (clusterDie c) && decide (s.now % countsPerBlock = 0) && (pastEnd || (!busy && s.stationRuns l && decide (v.start < s.now)))) s
      (let s := if pastEnd then endStepsOfCluster c s else s
       let t := { s with taps := { s.taps with tones := s.taps.tones.set l {} } }
       (t.setSpare c fun x => { (x.endCover v.pos s.now) with cover := none, rotStart := s.now }).setDemod l fun d => { d with lastCoverTick := tick32 s.now })

/-! ### Demodulators -/

/-- A stream is unsynchronised after a restart (R137). -/
def RdsStream.restart (x : RdsStream) : RdsStream :=
  { x with synced := false, prev := none, last50 := [], group := [], slips := 0, bit := 0, validAt := none }

/-- A restart: fixed initial values; what loops, filters and estimates hold is what the samples since `restartAt` give; what is counted since reset, and the period's accumulators, stay (R137). -/
def Demod.restart (d : Demod) (at_ : Nat) : Demod :=
  { d with
    pilot := false, stereo := false, stereoAll := false, carrierLock := false, amssSync := false, amssSid := 0, amssSidValid := false
    rds := { d.rds with streams := d.rds.streams.map fun x => x.restart, fields := {} }
    weights := [(1048576, 0), (0, 0), (0, 0), (0, 0)], runs := [], offsets := [], stereoLog := [], amssChecks := [], restartAt := some at_ }

/-- A chain's sample that represents the count `at_` is valid; it is the first valid one after suppressed ones (R122). -/
def Chain.validAt (c : Chain) (at_ : Nat) : Bool :=
  let n := c.indexAt at_
  c.active && decide (c.instantAt n / 12288 = at_) && !c.deadAt n
def Chain.firstValid (c : Chain) (at_ : Nat) : Bool := c.validAt at_ && c.deadAt (c.indexAt at_ - 1)

/-- The first valid chain sample after an event, or after a delay step, with its represented instant: the demodulator restarts; a branch restarts its combination (R137, R148). -/
def execDemodRestart (r : Rx) (at_ : Nat) (s : State) : Res :=
  match r with
  | .lane l =>
    onlyIf (decide (l < s.dies * 32) && s.dieRuns (laneDie l) && ((s.taps.lanes.get l).firstValid at_ || (s.lanes.demods.get l).restartAt.isNone && (s.taps.lanes.get l).validAt at_)) s
      (let t := s.setDemod l fun d => d.restart at_
       match s.cfg.active.combinerOf l with
       | some k => t.setDemod k fun d => d.restart at_
       | none => t)
  | .watch w =>
    onlyIf (decide (w < s.dies * 64) && s.dieRuns (watchDie w) && ((s.taps.watches.get w).firstValid at_ || (s.lanes.watches.get w).restartAt.isNone && (s.taps.watches.get w).validAt at_)) s
      (setAlert (.ta w) false (setAlert (.pty31 w) false
        (s.setWatch w fun x => { x with rds := { x.rds with
            streams := x.rds.streams.map fun y => y.restart, fields := {} }, restartAt := some at_ })))

/-- A value that the manual leaves open is drawn, and counted (notes/assumptions/8.md). -/
def draw (s : State) : Nat × State := (Config.freeValue s.freeCount, { s with freeCount := s.freeCount + 1 })

/-- The numbers of R147 for one component: weight `w`, with the ratio conj(h) / (v × Σ |h|²/v) given as num / den, both in units of 2^−20; the sixteenth of the difference, rounded. -/
def weightStep (w num den : Int) : Int := roundDiv (15 * w * den + 1048576 * num) (16 * den)

/-- Σ_j |xy_j|² × Π_{k≠j} V_k over the branches, and Π V_k (R147). -/
def combinerSums (bs : List BranchSums) (vfloor : Int) : Int × Int :=
  let v := fun (b : BranchSums) => max b.err (64 * vfloor)
  let p := bs.foldl (fun acc b => acc * v b) 1
  (bs.foldl (fun acc b => acc + (b.xyRe * b.xyRe + b.xyIm * b.xyIm) * (if v b = 0 then 0 else p / v b)) 0, p)

/-- New weights after a run of 64 samples (R147); none where the formula divides by zero. -/
def newWeights (ws : List (Int × Int)) (bs : List BranchSums) (vfloor : Int) : Option (List (Int × Int)) :=
  let (t, p) := combinerSums bs vfloor
  let v := fun (b : BranchSums) => max b.err (64 * vfloor)
  if t ≤ 0 || bs.any (fun b => v b ≤ 0) then none
  else some ((ws.zipIdx).map fun (w, i) =>
    match bs[i]? with
    | some b =>
      let den := v b * t
      (weightStep w.1 (b.xyRe * b.yy * p) den, weightStep w.2 (-b.xyIm * b.yy * p) den)
    | none => w)

/-- Weights drawn as free values: the manual states none where the sums of R147 vanish. -/
def drawWeights (n : Nat) (s : State) : List (Int × Int) × State :=
  (List.range n).foldl (fun (ws, s) _ =>
    let (a, s) := draw s
    let (b, s) := draw s
    (ws ++ [((a : Int), (b : Int))], s)) ([], s)

/-- Σ (x × conj y), Σ |y|² and Σ |x − h·y|² of a branch over the run, with h their quotient (R147). -/
def branchSums (xs ys : List Smp) : BranchSums :=
  let p := xs.zip ys
  let re := p.foldl (fun acc z => acc + (z.1.re * z.2.re + z.1.im * z.2.im)) 0
  let im := p.foldl (fun acc z => acc + (z.1.im * z.2.re - z.1.re * z.2.im)) 0
  let yy : Int := (ys.map Smp.power).sum
  let xx : Int := (xs.map Smp.power).sum
  { xyRe := re, xyIm := im, yy := yy, err := if yy = 0 then 0 else roundDiv (xx * yy - (re * re + im * im)) yy }

/-- The run of 64 samples in progress now, by its number in the lane's grid, and the 64 points of the one before it (R147). -/
def State.runNow (s : State) (l : Nat) : Int := (((s.taps.lanes.get l).pointAt s.now / 64 : Nat) : Int)
def State.runPoints (s : State) (l : Nat) : List Int := (List.range 64).map fun (i : Nat) => (s.runNow l - 1) * 64 + i

/-- The sums of every branch of a lane over the run of 64 samples that has ended (R147). -/
def State.branchRun (s : State) (air : Air) (l : Nat) : List BranchSums :=
  let ys := (s.runPoints l).map (s.demodInput air l)
  (s.combined l).map fun x => branchSums ((s.runPoints l).map (s.chainOutput air x)) ys

/-- v_floor of a lane: of its course's noise at its rate class (R147). -/
def State.noiseOf (s : State) (l : Nat) : Int := Config.noiseFloor (s.clusterCourse (laneCluster l)) (s.taps.lanes.get l).rateClass

/-- After each run of 64 valid samples the combiner's weights are updated from the branches' samples and the combined output of that run; they hold from the run in progress on (R147). -/
def execCombinerUpdate (l : Nat) (air : Air) (s : State) : Res :=
  let e := s.cfg.active.lanes.get l
  let d := s.lanes.demods.get l
  let bs := s.branchRun air l
  onlyIf (decide (l < s.dies * 32) && s.dieRuns (laneDie l) && (s.taps.lanes.get l).active && decide (0 < e.branchCount) && d.restartAt.isSome
      && (s.runPoints l).all (fun n => !s.combinedDead l n) && !((d.runs.head?.map (·.1)) == some (s.runNow l))) s
    (let (ws, t) := match newWeights d.weights bs (s.noiseOf l) with
       | some ws => (ws, s)
       | none => let (ws, t) := drawWeights bs.length s; (ws ++ d.weights.drop bs.length, t)
     t.setDemod l fun d => { d with weights := ws, runs := (s.runNow l, ws) :: d.runs })

/-- The loop over the MPX is in lock and the pilot's deviation, in Hz, reaches PILOT_MIN (R143). -/
def State.pilotInLock (s : State) (air : Air) (l : Nat) : Bool :=
  let mpx := s.mpx air l ((s.taps.lanes.get l).pointAt s.now)
  (Config.pilotLoop mpx).1 && decide ((s.cfg.active.lanes.get l).pilotMin * 100 ≤ Config.pilotDeviation mpx)

/-- The pilot is judged: PILOT_LOCK changes with the lock (R143). -/
def execPilotLockChange (l : Nat) (air : Air) (s : State) : Res :=
  let e := s.cfg.active.lanes.get l
  let locked := s.pilotInLock air l
  onlyIf (decide (l < s.dies * 32) && s.dieRuns (laneDie l) && (s.taps.lanes.get l).active && e.mode.fm && (s.lanes.demods.get l).restartAt.isSome && (locked != (s.lanes.demods.get l).pilot)) s
    (raise (if locked then .pilotLocked else .pilotLost) (laneDie l) [.w l] (s.setDemod l fun d => { d with pilot := locked }))

/-- The block boundary after a change of pilot lock: FM_STEREO forms stereo or mono (R143). -/
def execStereoSwitch (l : Nat) (s : State) : Res :=
  let d := s.lanes.demods.get l
  onlyIf (decide (l < s.dies * 32) && s.dieRuns (laneDie l) && (s.taps.lanes.get l).active && decide ((s.cfg.active.lanes.get l).mode = .fmStereo)
      && decide (s.now % countsPerBlock = 0) && (d.stereo != d.pilot)) s
    (s.setDemod l fun d => { d with stereo := d.pilot, stereoAll := d.stereoAll && d.pilot, stereoLog := (s.now, d.pilot) :: d.stereoLog.take 63 })

/-! ### Measurement records (R149 to R151) -/

/-- Counts of a measurement period: 2, 10, 100, 1,000 ms (11 R332). -/
def measCounts : Nat → Nat
  | 0 => 200000
  | 1 => 1000000
  | 2 => 10000000
  | _ => 100000000

/-- "No value" of a level field (R150). -/
def noLevel : Int := -32768

/-- A level field of a period from `t`: calibrated with the C in force there and kept off 0x8000, which without a valid sample it is (R149, R150, 00 R11, 12 R348). -/
def State.levelField (s : State) (n x f valid t : Nat) (dbfs : Int) : Int := if valid = 0 then noLevel else offNoReading (s.levelUv n x f t dbfs)

/-- A quantity, 0 without a valid sample (R150). -/
def ifValid (valid : Nat) (v : Int) : Int := if valid = 0 then 0 else v

/-- DIV_WEIGHT of four branches: |w| in 0.01 dB and arg w; 0 for absent branches (R151). -/
def divWeights (valid branches : Nat) (ws : List (Int × Nat)) : List Byte :=
  (List.range 4).flatMap fun i =>
    if i ≤ branches && 0 < branches then
      (if valid = 0 then leInt 2 noLevel ++ le 2 0 else leInt 2 (ws.getD i (0, 0)).1 ++ le 2 (ws.getD i (0, 0)).2)
    else zeros 4

/-- RDS_SYNC of the four streams. -/
def RdsSt.syncMask (r : RdsSt) : Nat := maskOf 4 fun i => (r.streams.getD i {}).synced

/-- A level field of a lane: on the path of its course's leader (R149). -/
def State.laneLevel (s : State) (l valid t : Nat) (dbfs : Int) : Int :=
  let n := s.clusterCourse (laneCluster l)
  s.levelField n (((s.front.courses.get n).leader).getD 0) (s.cfg.active.lanes.get l).fLane valid t dbfs

/-- The FM record, 96 bytes (R151). -/
def State.fmRecord (s : State) (l t0 : Nat) (m : FmMeas) : List Byte :=
  let e := s.cfg.active.lanes.get l
  let d := s.lanes.demods.get l
  let v := m.validCount
  let lv := s.laneLevel l v t0
  let q := ifValid v
  le 4 v
  ++ le 2 (b2n d.pilot + 2 * b2n (d.stereo && d.stereoAll) + 4 * d.rds.syncMask + 64 * b2n (decide (0 < e.branchCount)) + 128 * b2n m.partSuppressed
      + 256 * b2n (decide (m.devOver ≠ 0) && decide (v ≠ 0)))
  ++ le 1 e.mode.code ++ zeros 1
  ++ leInt 2 (lv m.rfMean) ++ leInt 2 (lv m.rfMin) ++ leInt 2 (lv m.rfMax) ++ leInt 2 (if v = 0 then noLevel else m.mpIndex)
  ++ leInt 8 (q m.mpxSumsq) ++ leInt 4 (q m.devPos) ++ leInt 4 (q m.devNeg) ++ leInt 4 (q m.devOver) ++ leInt 4 (q m.carrierOffset)
  ++ leInt 2 (if v = 0 then noLevel else m.mpxPower60s.getD noLevel) ++ leInt 2 (q m.pilotDev) ++ leInt 2 (q m.pilotFreqErr) ++ zeros 2
  ++ ((List.range 4).flatMap fun i => leInt 2 (q (m.rdsDev.getD i 0)))
  ++ ((List.range 4).flatMap fun i => leInt 1 (q (min 255 (d.rds.streams.getD i {}).good)))
  ++ ((List.range 4).flatMap fun i => leInt 1 (q (min 255 (d.rds.streams.getD i {}).total)))
  ++ divWeights v e.branchCount m.divWeight ++ zeros 16

/-- The AM record, 96 bytes (R151). -/
def State.amRecord (s : State) (l t0 : Nat) (m : AmMeas) : List Byte :=
  let e := s.cfg.active.lanes.get l
  let d := s.lanes.demods.get l
  let v := m.validCount
  let lv := s.laneLevel l v t0
  let q := ifValid v
  le 4 v
  ++ le 2 (b2n m.carrierLock + 2 * b2n d.amssSync + 4 * b2n (decide (0 < e.branchCount)) + 8 * b2n m.partSuppressed
      + 16 * b2n (decide (m.overmod ≠ 0) && decide (v ≠ 0)))
  ++ le 1 e.mode.code ++ zeros 1
  ++ leInt 2 (lv m.carrierMean) ++ leInt 2 (lv m.carrierMin) ++ leInt 2 (lv m.carrierMax)
  ++ leInt 2 (if v = 0 || e.mode ≠ .amSync then noLevel else m.quadResidual)
  ++ leInt 8 (q m.modSumsq) ++ leInt 2 (q m.modPos) ++ leInt 2 (q m.modNeg) ++ leInt 4 (q m.overmod) ++ leInt 4 (q m.carrierOffset)
  ++ leInt 2 (q m.amssPhaseDev) ++ leInt 1 (q (min 255 d.amssGood)) ++ leInt 1 (q (min 255 d.amssTotal))
  ++ divWeights v e.branchCount m.divWeight ++ zeros 40

/-- MPX_POWER_OVER: when MPX_POWER_60S first rises above 0 dBr, and again only after it has fallen below −0.50 dBr (05 events table). -/
def mpxPower (l : Nat) (v : Option Int) (s : State) : State :=
  match v with
  | none => s
  | some p =>
    if 0 < p && (s.lanes.demods.get l).powerArmed then
      raise .mpxPowerOver (laneDie l) [.w l, .w p] (s.setDemod l fun d => { d with powerArmed := false })
    else if p < -50 then s.setDemod l fun d => { d with powerArmed := true } else s

/-- The period's counts start again. -/
def Demod.endPeriod (d : Demod) : Demod :=
  { d with stereoAll := d.stereo, amssGood := 0, amssTotal := 0, carrierLock := d.carrierLock
           rds := { d.rds with streams := d.rds.streams.map fun x => { x with good := 0, total := 0 } } }

/-- The record of a lane over [t0, t1), in 96 bytes (R151). -/
def LaneMeas.bytes (m : LaneMeas) (s : State) (l t0 : Nat) : List Byte :=
  match m with
  | .fm x => s.fmRecord l t0 x
  | .am x => s.amRecord l t0 x

/-- The power sum, the lowest and the highest level of a measurement: the RF's, of AM the carrier's (15 R407). -/
def LaneMeas.levels : LaneMeas → Nat × Int × Int
  | .fm m => (m.power, m.rfMin, m.rfMax)
  | .am m => (m.power, m.carrierMin, m.carrierMax)

/-- Valid samples of a measurement. -/
def LaneMeas.valid : LaneMeas → Nat
  | .fm m => m.validCount
  | .am m => m.validCount

/-- What a lane measures over [t0, t1) from what came in (R150). -/
def State.laneMeasured (s : State) (a : Air) (l t0 t1 : Nat) : LaneMeas :=
  if (s.cfg.active.lanes.get l).mode.fm then .fm (s.fmMeasured a l t0 t1) else .am (s.amMeasured a l t0 t1)

/-- Some valid sample of a lane in [t0, t1) passed through a clip or a saturated stage (03 R97, 04 R129). -/
def State.laneSaturated (s : State) (a : Air) (l t0 t1 : Nat) : Bool :=
  (s.combined l).any fun c => (c.gridIn t0 t1).any fun n =>
    let x := s.chainSample a c n
    x.clip || x.tapSat || x.filterSat

/-- The carrier offset of an FM lane's period, in 1/256 Hz, carried forward into the next (R142). -/
def State.periodOffset (s : State) (a : Air) (l t0 t1 : Nat) : Int :=
  meanOf ((s.validPoints l 1 t0 t1).map fun n => (frequencies (s.laneHz l) (s.demodHistory a l n)).getLastD 0)

/-- A lane's measurement period ends, at a SYSTIME multiple of it, and its one record is formed in a measurement block; under HOLD cover the last record repeats, STALE (R150, R151, 00 R9). `late`: the lane exhausted its budget (01 R27). -/
def execMeasurementPeriodEnd (l : Nat) (air : Air) (late : Bool) (s : State) : Res :=
  let e := s.cfg.active.lanes.get l
  let p := measCounts e.measPeriod
  let t1 := s.now
  let t0 := t1 - p
  let held := s.heldIn l t0 t1
  let js := s.laneCourses l
  let m := s.laneMeasured air l t0 t1
  let last := (s.lanes.demods.get l).lastRecord
  let record := if held && !last.isEmpty then last else m.bytes s l t0
  let fl := s.clockFlags (laneDie l) (s.leaderDies js) t0 t1 + flagIf (m.valid = 0) flSuppressed + flagIf (s.laneSaturated air l t0 t1) flSaturated
    + flagIf late flLate + flagIf held flStale + flagIf (s.coveredIn l t0 t1) flCovered
  onlyIf (decide (l < s.dies * 32) && (s.taps.lanes.get l).active && (e.mode.fm || e.mode.am) && !s.laneDead l && s.dieUp (laneDie l)
      && decide (s.now % p = 0) && decide ((s.lanes.demods.get l).measuredTo < s.now)) s
    (let t := s.setDemod l fun d => { d.endPeriod with
       lastRecord := record, measuredTo := s.now
       carrierLock := (match m with
         | .am x => x.carrierLock
         | .fm _ => false)
       offsets := if e.mode.fm then (s.now, s.periodOffset air l t0 t1) :: d.offsets.take 4095 else d.offsets }
     let t := match m with
       | .fm x => mpxPower l x.mpxPower60s t
       | .am _ => t
     let lv := s.laneLevel l m.valid t0
     let t := note { kind := 1, index := l, at_ := t0, tag := .period
                     vals := [(fl : Nat), (m.valid : Nat), (m.levels.1 : Nat), lv m.levels.2.1, lv m.levels.2.2] } t
     formRouted .measurement (fun r => maskBit r.laneMask (l % 32))
       { format := if e.mode.fm then 0x0401 else 0x0402, srcType := 1, srcIndex := l, die := laneDie l, timestamp := t0, sampleCount := 1
         flags := fl, payload := record, gain := s.spanMark js t0 t1 } t)

/-! ### Watch taps (R158 to R160) -/

/-- The watch tap is assigned to a follow set (R158). -/
def State.watchFollowed (s : State) (w : Nat) : Bool := s.cfg.active.followTaps.contains w

/-- The watch-tap record, 64 bytes (R159). -/
def State.watchRecord (s : State) (w t0 : Nat) (m : WatchMeas) (preempted : Bool) : List Byte :=
  let e := s.cfg.active.watches.get w
  let x := s.lanes.watches.get w
  let n := s.clusterCourse (watchCluster w)
  let conv := ((s.front.courses.get n).leader).getD 0
  let v := if preempted then 0 else m.validCount
  let lv := s.levelField n conv x.freq v t0
  let fm := decide (e.mode = .fm) || (decide (e.mode = .survey) && !e.rateHigh)
  let q := fun (z : Int) => if fm then ifValid v z else 0
  let st := x.rds.streams.getD 0 {}
  let f := x.rds.fields
  let acc := fun (y : Fld) => if fm then y.acc.getD 0 else 0
  le 4 x.freq ++ le 4 v ++ leInt 2 (lv m.rfMean) ++ leInt 2 (lv m.rfMin) ++ leInt 2 (lv m.rfMax)
  ++ leInt 2 (if v = 0 || !fm then noLevel else m.mpIndex) ++ le 2 (acc f.pi)
  ++ le 1 (acc f.pty + acc f.tp * 32 + acc f.ta * 64 + 128 * b2n (fm && f.pi.acc.isSome))
  ++ le 1 (b2n (fm && st.synced) + 2 * b2n preempted + 4 * b2n m.partSuppressed + 8 * b2n (s.watchFollowed w) + 16 * b2n (decide (e.mode = .survey)))
  ++ leInt 4 (q m.devPeak) ++ leInt 4 (q m.carrierOffset) ++ leInt 2 (q m.rdsDev) ++ leInt 1 (q (min 255 st.good)) ++ leInt 1 (q (min 255 st.total))
  ++ le 2 (if e.mode = .survey then x.listIndex else 0) ++ zeros 30

/-- Some valid sample of a watch tap in [t0, t1) passed through a clip or a saturated stage (03 R97, 04 R129). -/
def State.watchSaturated (s : State) (a : Air) (w t0 t1 : Nat) : Bool :=
  ((s.taps.watches.get w).gridIn t0 t1).any fun n =>
    let x := s.chainSample a (s.taps.watches.get w) n
    x.clip || x.tapSat || x.filterSat

/-- A watch-tap record delivered in its measurement block; the period's counts start again (R150, R159). `late`: the tap exhausted its budget (01 R27). -/
def formWatchRecord (w t0 t1 : Nat) (air : Air) (preempted late : Bool) (s : State) : State :=
  let js := [s.clusterCourse (watchCluster w)]
  let m := s.watchMeasured air w t0 t1
  let fl := s.clockFlags (watchDie w) (s.leaderDies js) t0 t1 + flagIf (preempted || m.validCount = 0) flSuppressed
    + flagIf (!preempted && s.watchSaturated air w t0 t1) flSaturated + flagIf late flLate
  formRouted .measurement (fun r => maskBit r.watchMask (w % 64))
    { format := 0x0403, srcType := 2, srcIndex := w, die := watchDie w, timestamp := t0, sampleCount := 1, flags := fl
      payload := s.watchRecord w t0 m preempted, gain := s.spanMark js t0 t1 }
    (s.setWatch w fun x => { x with measuredTo := t1, rds := { x.rds with streams := x.rds.streams.map fun y => { y with good := 0, total := 0 } } })

/-- Counts of a watch tap's period: 10, 100, 1,000 ms (11 R331). -/
def watchCounts : Nat → Nat
  | 0 => 1000000
  | 1 => 10000000
  | _ => 100000000

/-- A watch tap that runs: active, not retired, on a die that is up. -/
def State.watchRuns (s : State) (w : Nat) : Bool :=
  decide (w < s.dies * 64) && (s.taps.watches.get w).active && !s.retired (watchRef w) && s.dieUp (watchDie w)

/-- A watch tap's period ends in modes LEVEL and FM, at a SYSTIME multiple of it (R159). -/
def execWatchTapPeriodEnd (w : Nat) (air : Air) (late : Bool) (s : State) : Res :=
  let e := s.cfg.active.watches.get w
  let p := watchCounts e.period
  let m := s.watchMeasured air w (s.now - p) s.now
  onlyIf (s.watchRuns w && (decide (e.mode = .level) || decide (e.mode = .fm)) && decide (s.now % p = 0) && decide ((s.lanes.watches.get w).measuredTo < s.now)) s
    (followTapMeasured w (s.now - p) m.rfMean m.mpIndex (formWatchRecord w (s.now - p) s.now air false late s))

/-- The tap retuned: a lane-level event, settling again (R120, R160). -/
def retuneWatch (w f : Nat) (s : State) : State :=
  let s := s.setWatch w fun x => { x with freq := f, restartAt := none }
  goOnWatch w { s with taps := { s.taps with watches := s.taps.watches.modify w fun c => c.disturb s.now (.instant s.now false false) } }

/-- A survey dwell ends, on a multiple of 10 ms: its record, without measurements if it was pre-empted; the tap retunes to the next frequency of the list (R160). -/
def execSurveyDwellEnd (w : Nat) (air : Air) (late : Bool) (s : State) : Res :=
  let e := s.cfg.active.watches.get w
  let x := s.lanes.watches.get w
  let nxt := if e.freqs.length ≤ x.listIndex + 1 then 0 else x.listIndex + 1
  onlyIf (s.watchRuns w && decide (e.mode = .survey) && s.dieRuns (watchDie w) && decide (s.now % 1000000 = 0) && decide (x.dwellStart + e.dwell * 1000000 ≤ s.now)) s
    (let t := formWatchRecord w x.dwellStart s.now air x.preempted late s
     retuneWatch w (e.freqs.getD nxt x.freq) (t.setWatch w fun x => { x with listIndex := nxt, preempted := false, dwellStart := s.now }))

/-- A unit retired that has no retirement event of its own: UNIT_RETIRED with its cause, 0 known-answer, 1 lasting, 2 command (14 events table). -/
def retirePlain (u : UnitRef) (cause : Nat) (s : State) : State :=
  refresh (raise .unitRetired u.die [.w u.kind.type, .w u.die, .w u.loc, .w cause] (retireUnit u s))

/-- The watch tap's known-answer vector, once per second; a failure is repeated at once, and a second failure retires the tap (14 R375). -/
def execWatchTapKat (w : Nat) (fails repeatFails : Bool) (s : State) : Res :=
  onlyIf (s.watchRuns w && s.dieRuns (watchDie w) && fails && repeatFails) s (retirePlain (watchRef w) 0 s)

end Sys2Proof.Machine
end

