-- ==== Sys2Proof/Machine/OfdmCode.lean ====
section
/-!
DEFINITION. Codes and structures of the broadcast standards that 06 R172 names: CRC-16, energy dispersal, fire code, Reed-Solomon checks, FIGs, packets, data groups. The layouts are those of ETSI EN 300 401 and TS 102 563: PRESUMED (notes/assumptions/52.md).
-/
namespace Sys2Proof.Machine

/-! ### Bits -/

/-- The bits of bytes, first transmitted first. -/
def bitsOf (bs : List Byte) : List Bool := bs.flatMap fun b => (List.range 8).map fun i => b.getLsbD (7 - i)

/-- The number that bits spell, first transmitted most significant. -/
def numOf (bs : List Bool) : Nat := bs.foldl (fun acc b => 2 * acc + b2n b) 0

/-- `w` bits from place `i`. -/
def bitsAt (bs : List Bool) (i w : Nat) : Nat := numOf ((bs.drop i).take w)

/-- The byte that eight bits spell. -/
def byteOf (bs : List Bool) : Byte := BitVec.ofNat 8 (numOf bs)

/-- Bytes of bits, in order. -/
def bytesOf (bs : List Bool) : List Byte := (List.range (bs.length / 8)).map fun i => byteOf ((bs.drop (8 * i)).take 8)

/-- Division by a generator of degree `w` without its leading term: the register after the bits. -/
def crcOver (w poly : Nat) : Nat → List Bool → Nat
  | r, [] => r
  | r, b :: bs => crcOver w poly (if (r / 2 ^ (w - 1) % 2 == 1) != b then (2 * r % 2 ^ w) ^^^ poly else 2 * r % 2 ^ w) bs

/-- The last 16 bits of a structure are the CRC of what stands before them: x^16 + x^12 + x^5 + 1, all ones at first, complemented. -/
def crc16Ok (bs : List Byte) : Bool :=
  let n := bs.length - 2
  decide (2 ≤ bs.length) && crcOver 16 0x1021 0xFFFF (bitsOf (bs.take n)) ^^^ 0xFFFF == numOf (bitsOf (bs.drop n))

/-- The energy dispersal sequence x^9 + x^5 + 1, all ones at first. -/
def dispersal : Nat → Nat → List Bool
  | 0, _ => []
  | n + 1, r =>
    let b := (r / 256 % 2 == 1) != (r / 16 % 2 == 1)
    b :: dispersal n ((2 * r + b2n b) % 512)

/-- Energy dispersal taken off (R176). -/
def undisperse (bs : List Bool) : List Bool := (bs.zip (dispersal bs.length 511)).map fun x => x.1 != x.2

/-- Soft decisions of the sent bits put in their places, with 0 where the mother code's bit is not sent (R176). -/
def depuncture : List Bool → List Int → List Int
  | [], _ => []
  | true :: ps, xs => xs.headD 0 :: depuncture ps xs.tail
  | false :: ps, xs => 0 :: depuncture ps xs

/-- The mother code of rate 1/4 and constraint length 7: generators 133, 171, 145, 133 (octal) over a register with the newest bit highest. -/
def motherCode : Nat → List Bool → List Bool
  | _, [] => []
  | r, b :: bs =>
    let v := r + 64 * b2n b
    let par := fun (g : Nat) => ((List.range 7).countP fun i => maskBit (v &&& g) i) % 2 == 1
    [par 0o133, par 0o171, par 0o145, par 0o133] ++ motherCode (v / 2) bs

/-- Sent bits, and those whose soft decision has the other sign than re-encoding gives (CHANNEL_BER). -/
def reencode (pattern : List Bool) (soft : List Int) (info : List Bool) : Nat × Nat :=
  let sent := ((motherCode 0 (info ++ List.replicate 6 false)).zip pattern).filterMap fun x => if x.2 then some x.1 else none
  (sent.length, ((sent.zip soft).filter fun x => (x.1 && decide (0 < x.2)) || (!x.1 && decide (x.2 < 0))).length)

/-! ### Reed-Solomon checks (R177, R178) -/

/-- Product in GF(2^8) by x^8 + x^4 + x^3 + x^2 + 1. -/
def gfMul (a b : Nat) : Nat :=
  (List.range 8).foldl (fun acc i =>
    let acc := if acc / 128 % 2 = 1 then (2 * acc % 256) ^^^ 0x1D else 2 * acc
    if maskBit b (7 - i) then acc ^^^ a else acc) 0

/-- A polynomial, highest coefficient first, at a point. -/
def gfEval (p : Nat) (bs : List Byte) : Nat := bs.foldl (fun acc b => gfMul acc p ^^^ b.toNat) 0

/-- The first `n` powers of the primitive element. -/
def gfPowers (n : Nat) : List Nat := (List.range n).map fun i => (List.range i).foldl (fun acc _ => gfMul acc 2) 1

/-- A word of the code with `n` check symbols: zero at each of the first `n` powers. -/
def rsWord (n : Nat) (bs : List Byte) : Bool := (gfPowers n).all fun p => gfEval p bs == 0

/-- A codeword corrected: the word, whether errors were corrected, whether it is uncorrectable. Errors are corrected only up to half the check symbols and only into a word of the code (R177). -/
def rsCorrect (n : Nat) (bs : List Byte) : List Byte × Bool × Bool :=
  if rsWord n bs then (bs, false, false) else
  let es := Config.rsErrors n bs
  let out := es.foldl (fun acc e => acc.set e.1 e.2) bs
  if es.length ≤ n / 2 && rsWord n out then (out, true, false) else (bs, false, true)

/-! ### FIGs (R172, R174) -/

/-- An identifier of a linkage list by its qualifier: DAB SId, RDS PI, AM or FM, DRM or AMSS. -/
def linkIdent (lq v : Nat) : Ident := if lq = 0 then (if v < 65536 then ⟨1, v⟩ else ⟨2, v⟩) else if lq = 1 then ⟨0, v % 65536⟩ else if lq = 3 then ⟨3, v⟩ else ⟨4, v⟩

/-- `n` numbers of `w` bits. -/
def numbers (w : Nat) : Nat → List Bool → List Nat
  | 0, _ => []
  | n + 1, bs => numOf (bs.take w) :: numbers w n (bs.drop w)

/-- The sub-channels of a FIG 0/1: short form by the UEP table, long form by option and level. -/
def fig01 : Nat → List Bool → List Fig
  | 0, _ => []
  | n + 1, bs =>
    if bs.length < 24 then [] else
    let id := bitsAt bs 0 6
    let start := bitsAt bs 6 10
    if bitsAt bs 16 1 = 0 then .subch id start (Config.uepSize (bitsAt bs 18 6)) (bitsAt bs 17 7) :: fig01 n (bs.drop 24)
    else .subch id start (bitsAt bs 22 10) (128 + bitsAt bs 17 5) :: fig01 n (bs.drop 32)

/-- A component of a service: by TMId an audio or data stream in a sub-channel, or a packet-mode component. ASCTy 63 is DAB+. -/
def component (sid j : Nat) (bs : List Bool) : List Fig :=
  let ty := bitsAt bs 2 6
  match bitsAt bs 0 2 with
  | 0 => [.component sid j (bitsAt bs 8 6) true (ty == 63) (bitsAt bs 15 1 == 1)]
  | 1 => [.component sid j (bitsAt bs 8 6) false false (bitsAt bs 15 1 == 1)]
  | 3 => [.servicePacket sid j (bitsAt bs 2 12) (bitsAt bs 15 1 == 1)]
  | _ => []

/-- The services of a FIG 0/2; `w`: 16 or 32 bits of SId. -/
def fig02 (w : Nat) : Nat → List Bool → List Fig
  | 0, _ => []
  | n + 1, bs =>
    if bs.length < w + 8 then [] else
    let k := bitsAt bs (w + 4) 4
    ((List.range k).flatMap fun j => component (bitsAt bs 0 w) j (bs.drop (w + 8 + 16 * j))) ++ fig02 w n (bs.drop (w + 8 + 16 * k))

/-- The packet-mode components of a FIG 0/3. -/
def fig03 : Nat → List Bool → List Fig
  | 0, _ => []
  | n + 1, bs =>
    if bs.length < 40 then [] else
    .packet (bitsAt bs 0 12) (bitsAt bs 24 6) (bitsAt bs 30 10) :: fig03 n (bs.drop (if bitsAt bs 15 1 = 1 then 56 else 40))

/-- The component numbers of a FIG 0/8. A component named by its SCId has its sub-channel in FIG 0/3. -/
def fig08 (w : Nat) : Nat → List Bool → List Fig
  | 0, _ => []
  | n + 1, bs =>
    if bs.length < w + 16 then [] else
    let long := bitsAt bs (w + 8) 1 = 1
    let ext := if bitsAt bs w 1 = 1 then 8 else 0
    if long then fig08 w n (bs.drop (w + 24 + ext))
    else .componentId (bitsAt bs 0 w) (bitsAt bs (w + 4) 4) (bitsAt bs (w + 10) 6) :: fig08 w n (bs.drop (w + 16 + ext))

/-- The announcements of a FIG 0/19; the alarm flag is flag 0. -/
def fig19 : Nat → List Bool → List Fig
  | 0, _ => []
  | n + 1, bs =>
    if bs.length < 32 then [] else
    .announcement (bitsAt bs 0 8) (bitsAt bs 26 6) (bitsAt bs 8 16) (bitsAt bs 23 1 == 1) :: fig19 n (bs.drop (if bitsAt bs 25 1 = 1 then 40 else 32))

/-- The linkage sets of a FIG 0/6; `w`: bits of an identifier. -/
def fig06 (w : Nat) : Nat → List Bool → List Fig
  | 0, _ => []
  | n + 1, bs =>
    if bs.length < 16 then [] else
    let lsn := bitsAt bs 4 12
    let la := bitsAt bs 1 1 == 1
    let hard := bitsAt bs 2 1 == 1
    let ids := bitsAt bs 0 1 = 1
    let wide := if w = 32 then 32 else if bitsAt bs 3 1 = 1 then 24 else 16
    let k := if ids then bitsAt bs 20 4 else 0
    .linkage lsn la hard ((numbers wide k (bs.drop 24)).map (linkIdent (bitsAt bs 17 2)))
      :: fig06 w n (bs.drop (if ids then 24 + wide * k else 16))

/-- The frequencies of a list by R&M: DAB in 16 kHz, FM in 100 kHz from 87.5 MHz, DRM and AMSS in 1 kHz or 10 kHz; each with its signal type (07 R223). -/
def figFreqs (rm : Nat) (bs : List Bool) : List (Nat × Nat) :=
  match rm with
  | 0 => (numbers 24 (bs.length / 24) bs).map fun v => (v % 2 ^ 19 * 16000, 2)
  | 8 => (numbers 8 (bs.length / 8) bs).map fun v => (87500000 + v * 100000, 1)
  | 6 => (numbers 16 ((bs.length - 8) / 16) (bs.drop 8)).map fun v => (v % 32768 * (if v < 32768 then 1000 else 10000), if v < 32768 then 3 else 4)
  | 14 => (numbers 16 ((bs.length - 8) / 16) (bs.drop 8)).map fun v => (v % 32768 * 1000, 0)
  | _ => []

/-- The frequency lists of one region of a FIG 0/21. -/
def freqLists : Nat → List Bool → List Fig
  | 0, _ => []
  | n + 1, bs =>
    if bs.length < 24 then [] else
    let id := bitsAt bs 0 16
    let rm := bitsAt bs 16 4
    let k := 8 * bitsAt bs 21 3
    let body := (bs.drop 24).take k
    let owner : FreqOwner := match rm with
      | 0 => .ensemble id
      | 8 => .service ⟨0, id⟩
      | 6 => .service ⟨3, 65536 * bitsAt body 0 8 + id⟩
      | _ => .service ⟨4, 65536 * bitsAt body 0 8 + id⟩
    .frequency (id * 16 + rm) owner (figFreqs rm body) :: freqLists n (bs.drop (24 + k))

/-- FIG 0/21: regions of frequency lists. -/
def fig21 : Nat → List Bool → List Fig
  | 0, _ => []
  | n + 1, bs =>
    if bs.length < 16 then [] else
    let k := 8 * bitsAt bs 11 5
    freqLists 32 ((bs.drop 16).take k) ++ fig21 n (bs.drop (16 + k))

/-- FIG 0/24: the other ensembles that carry a service. -/
def fig24 (w : Nat) : Nat → List Bool → List Fig
  | 0, _ => []
  | n + 1, bs =>
    if bs.length < w + 8 then [] else
    let k := bitsAt bs (w + 4) 4
    .otherEnsembles (if w = 16 then ⟨1, bitsAt bs 0 w⟩ else ⟨2, bitsAt bs 0 w⟩) (numbers 16 k (bs.drop (w + 8))) :: fig24 w n (bs.drop (w + 8 + 16 * k))

/-- What FIG 0/0 says: EId, the CIF count of the frame's first CIF, an announced reconfiguration at a CIF count. -/
structure EnsembleInfo where
  eid : Nat
  cif : Nat
  reconfigAt : Option Nat
  deriving DecidableEq, Repr

/-- FIG 0/0. The occurrence of a change gives the lower 8 bits of the count at which it applies. -/
def fig00 (bs : List Bool) : Option EnsembleInfo :=
  if bs.length < 32 then none else
  let cif := bitsAt bs 19 5 * 250 + bitsAt bs 24 8
  let occ := bitsAt bs 32 8
  some ⟨bitsAt bs 0 16, cif, if bitsAt bs 16 2 = 0 || bs.length < 40 then none else some ((cif / 250 * 250 + (if occ < cif % 250 then 250 else 0) + occ) % 5000)⟩

/-- One FIG of type 0 after its header: what it says of the ensemble; entries with whether they describe the next configuration. Entries of other ensembles are not interpreted, but for FIG 0/24 (R172). -/
def fig0 (bs : List Bool) : Option EnsembleInfo × List (Bool × Fig) :=
  let cn := bitsAt bs 0 1 == 1
  let oe := bitsAt bs 1 1 == 1
  let w := if bitsAt bs 2 1 = 1 then 32 else 16
  let body := bs.drop 8
  let tag := fun (fs : List Fig) => fs.map fun f => (cn, f)
  let now := fun (fs : List Fig) => fs.map fun f => (false, f)
  match bitsAt bs 3 5 with
  | 0 => (fig00 body, [])
  | 1 => (none, if oe then [] else tag (fig01 32 body))
  | 2 => (none, if oe then [] else tag (fig02 w 32 body))
  | 3 => (none, if oe then [] else tag (fig03 32 body))
  | 8 => (none, if oe then [] else tag (fig08 w 32 body))
  | 6 => (none, if oe then [] else now (fig06 w 32 body))
  | 19 => (none, if oe then [] else now (fig19 32 body))
  | 21 => (none, now (fig21 32 body))
  | 24 => (none, now (fig24 w 32 body))
  | _ => (none, [])

/-- The FIGs of a FIB's 30 data bytes, up to the end marker. -/
def figsOf : Nat → List Byte → List (Option EnsembleInfo × List (Bool × Fig))
  | 0, _ => []
  | _, [] => []
  | n + 1, h :: rest =>
    let len := h.toNat % 32
    if h.toNat = 0xFF || len = 0 then []
    else (if h.toNat / 32 = 0 then [fig0 (bitsOf (rest.take len))] else []) ++ figsOf n (rest.drop len)

/-- A sub-channel's place, size in CUs and protection. -/
def Fig.place : Fig → Option (Nat × Nat × Nat × Nat)
  | .subch id start size prot => some (id, start, size, prot)
  | _ => none

/-- An entry of the multiplex configuration, which a reconfiguration replaces: FIG 0/1, 0/2, 0/3, 0/8; SDC types 0 and 9. -/
def Fig.isMci : Fig → Bool
  | .subch .. | .component .. | .servicePacket .. | .packet .. | .componentId .. | .drmMultiplex _ | .drmAudio .. => true
  | _ => false

end Sys2Proof.Machine
end

