-- ==== Sys2Proof/Machine/Dab.lean ====
section
/-!
DEFINITION. What an OFDM engine makes of its feeds (06): feed samples and missing ones, erased symbols, the symbols of DAB and DRM frames, the time de-interleaver, TII and paths.
-/
namespace Sys2Proof.Machine

/-! ### Feed samples (R170, R171) -/

/-- The grid point of a lane whose sample came out last at SYSTIME `t`. -/
def State.feedNow (s : State) (l t : Nat) : Int := ((s.taps.lanes.get l).pointAt t : Nat)

/-- SYSTIME of the lane block in which a grid point comes out. -/
def State.feedBlock (s : State) (l : Nat) (n : Int) : Nat := ((s.taps.lanes.get l).gridCount n).toNat / countsPerBlock * countsPerBlock

/-- A feed sample is missing: suppressed, or in a block flagged STALE (R170). -/
def State.feedMissing (s : State) (l : Nat) (n : Int) : Bool :=
  let b := s.feedBlock l n
  s.combinedDead l n || s.laneDead l || s.heldIn l b (b + countsPerBlock) || s.frozenIn (laneDie l) b (b + 1)

/-- A feed sample; none where it is missing. -/
def State.feedSample (s : State) (a : Air) (l : Nat) (n : Int) : Option Smp := if s.feedMissing l n then none else some (s.demodInput a l n)

/-- `k` feed samples from grid point `n`. -/
def State.feedSamples (s : State) (a : Air) (l : Nat) (n : Int) (k : Nat) : List (Option Smp) :=
  (List.range k).map fun (i : Nat) => s.feedSample a l (n + i)

/-- The grid point from which a signal's acquisition may begin (R171). -/
def State.acqPoint (s : State) (l : Nat) (x : SignalSt) : Int := (s.taps.lanes.get l).indexAt x.acqFrom

/-- The feed of a signal since its restart up to a SYSTIME, from the first valid sample on, and the grid point at which it begins (R171). -/
def State.feedHistory (s : State) (a : Air) (l : Nat) (x : SignalSt) (t : Nat) : Int × List (Option Smp) :=
  let n0 := s.acqPoint l x
  let xs := s.feedSamples a l n0 (s.feedNow l t + 1 - n0).toNat
  let ys := xs.dropWhile (·.isNone)
  (n0 + (xs.length - ys.length : Nat), ys)

/-- A sample as the receivers take it. -/
def Smp.pair (x : Smp) : Int × Int := (x.re, x.im)

/-- Feed samples as the receivers take them. -/
def feedPairs (xs : List (Option Smp)) : List (Option (Int × Int)) := xs.map fun x => x.map Smp.pair

/-- The feed has been missing for longer than 400 ms, after valid samples (R171). -/
def State.feedGone (s : State) (l : Nat) (x : SignalSt) : Bool :=
  let n := s.feedNow l s.now
  let k := rateHz (s.taps.lanes.get l).rateClass * 2 / 5 + 1
  let n0 := s.acqPoint l x
  ((List.range k).all fun (i : Nat) => s.feedMissing l (n - i))
    && (List.range (n + 1 - n0).toNat).any fun (i : Nat) => !s.feedMissing l (n0 + i)

/-- The represented SYSTIME of a feed sample, rounded down (R189). -/
def State.feedInstant (s : State) (l : Nat) (n : Int) : Nat := ((s.taps.lanes.get l).instantAt n / 12288).toNat

/-- The flags of the lane blocks that the samples from `n0` to `n1` came in, and SATURATED where one of them is clipped or saturated (R188, 03 R97). -/
def State.feedFlagsOf (s : State) (a : Air) (l : Nat) (n0 n1 : Int) : Nat :=
  let b0 := s.feedBlock l n0
  let k := (s.feedBlock l n1 - b0) / countsPerBlock + 1
  (List.range k).foldl (fun acc i =>
    let t := b0 + i * countsPerBlock
    acc ||| (s.clockFlags (laneDie l) (s.leaderDies (s.laneCourses l)) t (t + countsPerBlock)
      + flagIf (s.heldIn l t (t + countsPerBlock)) flStale + flagIf (s.coveredIn l t (t + countsPerBlock)) flCovered))
    (flagIf ((s.feedSamples a l n0 (n1 + 1 - n0).toNat).any fun x => match x with
      | some y => y.clip || y.tapSat || y.filterSat
      | none => false) flSaturated)

/-! ### DAB symbols (R172) -/

/-- Samples of a DAB transmission frame, of its null symbol, of a symbol and of its guard (R172). -/
def dabFrameLen : Nat := 196608
def dabNull : Nat := 2656
def dabSymbol : Nat := 2552
def dabGuard : Nat := 504

/-- Where symbol `k` of a frame begins: the null symbol is symbol 0 (R172). -/
def dabOffset (k : Nat) : Nat := if k = 0 then 0 else dabNull + (k - 1) * dabSymbol

/-- The samples of a symbol of the frame that begins at grid point `n0`. -/
def dabLen (k : Nat) : Nat := if k = 0 then dabNull else dabSymbol

/-- A symbol is erased: one of its samples, guard included, is missing (R170). -/
def State.dabErased (s : State) (l : Nat) (n0 : Int) (k : Nat) : Bool :=
  (List.range (dabLen k)).any fun (i : Nat) => s.feedMissing l (n0 + (dabOffset k + i : Nat))

/-- The useful part of a symbol of the frame that begins at `n0`; of the null symbol, its last 2,048 samples. -/
def State.dabUseful (s : State) (a : Air) (l : Nat) (n0 : Int) (k : Nat) : List (Int × Int) :=
  (s.feedSamples a l (n0 + (dabOffset k + (dabLen k - 2048) : Nat)) 2048).map fun x => match x with
    | some y => y.pair
    | none => (0, 0)

/-- The carriers of a symbol; those of an erased symbol are 0 (R170). -/
def State.dabCells (s : State) (a : Air) (l : Nat) (offset : Int) (n0 : Int) (k : Nat) : List (Int × Int) :=
  if s.dabErased l n0 k then List.replicate 1536 (0, 0) else Config.dabCells offset (s.dabUseful a l n0 k)

/-- Soft decisions of symbol `k`, 0 where it is erased (R170). -/
def State.dabSoft (s : State) (a : Air) (l : Nat) (offset : Int) (n0 : Int) (k : Nat) : List Int :=
  if s.dabErased l n0 k then List.replicate 3072 0
  else Config.softDecisions (s.dabCells a l offset n0 (k - 1)) (s.dabCells a l offset n0 k)

/-- An erased symbol contributes to what symbols `k` to `k'` carry: one of them, or the one before, which is their phase reference. -/
def State.dabErasedIn (s : State) (l : Nat) (n0 : Int) (k k' : Nat) : Bool :=
  (List.range (k' + 2 - k)).any fun i => s.dabErased l n0 (k - 1 + i)

/-- The symbol, 2 to 4, that carries the last bit of a FIB: 9,216 bits in three symbols give four groups of three FIBs (R172, EN 300 401). -/
def fibSymbol (i : Nat) : Nat := min 4 (2 + i / 3)

/-- The first symbol that carries a bit of a FIB. -/
def fibFirst (i : Nat) : Nat := 2 + 2304 * (i / 3) / 3072

/-- The FIC of a frame: 12 FIBs with their CRCs, control bits re-encoded and in error (R174). -/
def State.ficOf (s : State) (a : Air) (l : Nat) (offset : Int) (n0 : Int) : List Fib × Nat × Nat :=
  let soft := [2, 3, 4].flatMap (s.dabSoft a l offset n0)
  let groups := (List.range 4).map fun g =>
    let xs := (soft.drop (2304 * g)).take 2304
    let info := Config.viterbi (depuncture Config.ficPuncturing xs)
    (undisperse info, reencode Config.ficPuncturing xs info)
  (((List.range 12).map fun i =>
      let bs := padTo 32 (bytesOf (((groups.getD (i / 3) ([], 0, 0)).1.drop (256 * (i % 3))).take 256))
      ⟨crc16Ok bs, s.dabErasedIn l n0 (fibFirst i) (fibSymbol i), bs⟩),
    (groups.map (·.2.1)).sum, (groups.map (·.2.2)).sum)

/-- Where CIF `j` of a frame begins: symbols 5 + 18 j to 22 + 18 j (R172). -/
def cifSymbol (j : Nat) : Nat := 5 + 18 * j

/-- A CIF of the frame that begins at `n0`, as the time de-interleaver stores it (R176, R190). -/
def State.cifOf (s : State) (a : Air) (l : Nat) (offset : Int) (n0 : Int) (j : Nat) : CifSlot :=
  let k := cifSymbol j
  { first := n0 + (dabOffset k : Nat)
    soft := (List.range 18).flatMap fun i => s.dabSoft a l offset n0 (k + i)
    erased := maskOf 18 fun i => s.dabErasedIn l n0 (k + i) (k + i)
    flags := s.feedFlagsOf a l (n0 + (dabOffset (k - 1) : Nat)) (n0 + (dabOffset (k + 18) : Nat) - 1) }

/-! ### Time de-interleaving (R176, R189) -/

/-- How many CIFs after its logical frame's a bit is sent, by its number in the sub-channel: four bits reversed (EN 300 401). -/
def cifDelay (i : Nat) : Nat := [0, 8, 4, 12, 2, 10, 6, 14, 1, 9, 5, 13, 3, 11, 7, 15].getD (i % 16) 0

/-- The soft decisions of the logical frame that the newest of 16 CIFs completes, of a sub-channel of `size` CUs from `start` (R176). -/
def logicalSoft (cifs : List CifSlot) (start size : Nat) : List Int :=
  (List.range (64 * size)).map fun i =>
    match cifs[15 - cifDelay i]? with
    | some c => c.soft.getD (64 * start + i) 0
    | none => 0

/-- The symbols of a CIF that carry a sub-channel. -/
def subSymbols (start size : Nat) : Nat := maskOf 18 fun i => decide (64 * start / 3072 ≤ i) && decide (3072 * i < 64 * (start + size))

/-- The logical frame of a sub-channel that the newest CIF completes. Its AIR_TIME is the start of the CIF that carries its undelayed bits (R176, R189). -/
def State.logicalFrame (s : State) (l : Nat) (cifs : List CifSlot) (start size prot : Nat) : LogicalFrame :=
  let used := cifs.take 16
  let last := (64 * (start + size) - 1) / 3072
  { bytes := bytesOf (undisperse (Config.viterbi (depuncture (Config.mscPuncturing prot size) (logicalSoft cifs start size))))
    airTime := s.feedInstant l ((used.getLastD ⟨0, [], 0, 0⟩).first)
    doneAt := s.feedInstant l ((used.headD ⟨0, [], 0, 0⟩).first + (dabSymbol * (last + 1) : Nat) - 1)
    erased := used.any fun c => c.erased &&& subSymbols start size != 0
    flags := used.foldl (fun acc c => acc ||| c.flags) 0 }

/-! ### DAB+ (R177) -/

/-- The fire code of a superframe's header: 16 bits over the 9 bytes after them (TS 102 563). -/
def fireOk (bs : List Byte) : Bool := decide (11 ≤ bs.length) && crcOver 16 0x782F 0 (bitsOf ((bs.drop 2).take 9)) == numOf (bitsOf (bs.take 2))

/-- Access units of a superframe by DAC_RATE and SBR, and the byte at which the first begins (TS 102 563). -/
def auCount (dac sbr : Bool) : Nat := if dac then (if sbr then 3 else 6) else if sbr then 2 else 4
def auFirst (dac sbr : Bool) : Nat := if dac then (if sbr then 6 else 11) else if sbr then 5 else 8

/-- A superframe with errors corrected by RS(120,110) over every column of its virtual interleaving; whether some were corrected, and how many codewords are uncorrectable (R177). -/
def superframe (bs : List Byte) : List Byte × Bool × Nat :=
  let w := bs.length / 120
  let rows := (List.range w).map fun i => rsCorrect 10 ((List.range 120).map fun j => bs.getD (i + j * w) 0)
  ((List.range (110 * w)).map fun k => ((rows.getD (k % w) ([], false, false)).1).getD (k / w) 0, rows.any (·.2.1), rows.countP (·.2.2))

/-- The access units of a corrected superframe: payload and whether its CRC passed (R177). -/
def accessUnitsOf (bs : List Byte) : List (List Byte × Bool) :=
  let h := bitsOf (bs.take 16)
  let dac := bitsAt h 17 1 == 1
  let sbr := bitsAt h 18 1 == 1
  let n := auCount dac sbr
  let starts := auFirst dac sbr :: (List.range (n - 1)).map fun i => bitsAt h (24 + 12 * i) 12
  (List.range n).map fun i =>
    let b := starts.getD i 0
    let e := if i + 1 < n then starts.getD (i + 1) 0 else bs.length
    let u := (bs.drop b).take (e - b)
    (u.take (u.length - 2), crc16Ok u)

/-- Byte 20 of a DAB+ record: SBR, PS, STEREO, DAC_48K, SURROUND (06 access unit record). -/
def aacFlags (bs : List Byte) : Nat :=
  let h := bitsOf (bs.take 3)
  bitsAt h 18 1 + 2 * bitsAt h 20 1 + 4 * bitsAt h 19 1 + 8 * bitsAt h 17 1 + 16 * bitsAt h 21 3

/-! ### Packet mode (R178) -/

/-- A packet as received: whether its CRC passed, continuity index, first and last flags, address, useful data; of a FEC packet the counter in place of the index. -/
structure Packet where
  good : Bool
  index : Nat
  first : Bool
  last : Bool
  address : Nat
  data : List Byte
  deriving DecidableEq, Repr

/-- The address of FEC packets (EN 300 401). -/
def fecAddress : Nat := 1022

/-- The packets of a logical frame, each with its bytes; one whose CRC fails is taken to be 24 bytes long, and is none of the packets that count (R178). -/
def packetsOf : Nat → List Byte → List (Packet × List Byte)
  | 0, _ => []
  | n + 1, bs =>
    if bs.length < 24 then [] else
    let h := bitsOf (bs.take 3)
    let len := 24 * (bitsAt h 0 2 + 1)
    let p := bs.take len
    if bitsAt h 6 10 = fecAddress then (⟨true, bitsAt h 2 4, false, false, fecAddress, (bs.drop 2).take 22⟩, bs.take 24) :: packetsOf n (bs.drop 24)
    else if len ≤ bs.length && crc16Ok p then
      (⟨true, bitsAt h 2 2, bitsAt h 4 1 == 1, bitsAt h 5 1 == 1, bitsAt h 6 10, (p.drop 3).take (bitsAt h 17 7)⟩, p) :: packetsOf n (bs.drop len)
    else (⟨false, 0, false, false, 0, []⟩, bs.take 24) :: packetsOf n (bs.drop 24)

/-- The CRC of an MSC data group, where its header says it has one (R178). -/
def groupCrcOk (bs : List Byte) : Bool := !maskBit ((bs.headD 0).toNat) 6 || crc16Ok bs

/-- One packet added to the groups in assembly: those in assembly after it, and a group that it completes (R178). -/
def takePacket (lf : LogicalFrame) (xs : List PacketAsm) (p : Packet) : List PacketAsm × Option PacketAsm :=
  let old := (xs.find? fun x => x.address = p.address).getD ⟨p.address, p.index, [], lf.airTime, false, false, false⟩
  let rest := xs.filter fun x => x.address ≠ p.address
  let gap := decide (old.index ≠ p.index)
  let now : PacketAsm :=
    if p.first then ⟨p.address, (p.index + 1) % 4, p.data, lf.airTime, false, lf.erased, true⟩
    else { old with index := (p.index + 1) % 4, bytes := old.bytes ++ p.data, lost := old.lost || gap, erased := old.erased || lf.erased }
  if p.last && now.live then ({ now with bytes := [], live := false, lost := false, erased := false } :: rest, some now) else (now :: rest, none)

/-- A FEC frame: 2,256 bytes of packets in a table of 12 rows, RS(204,188) by rows; the corrected bytes, whether errors were corrected, whether a row is uncorrectable (R178). -/
def fecFrame (data parity : List Byte) : List Byte × Bool × Bool :=
  let rows := (List.range 12).map fun r =>
    rsCorrect 16 (((List.range 188).map fun j => data.getD (r + 12 * j) 0) ++ (List.range 16).map fun j => parity.getD (r + 12 * j) 0)
  ((List.range 2256).map fun k => ((rows.getD (k % 12) ([], false, false)).1).getD (k / 12) 0, rows.any (·.2.1), rows.any (·.2.2))

/-! ### Impulse response and TII (R180 to R183) -/

/-- The median of a profile: of the two values in the middle, the mean. -/
def median (xs : List Nat) : Nat :=
  let ys := xs.mergeSort
  let n := ys.length
  (ys.getD ((n - 1) / 2) 0 + ys.getD (n / 2) 0) / 2

/-- A path: its delay in 1/8 sample after the frame timing, its power. -/
structure SfnPath where
  delay : Int
  power : Nat
  deriving DecidableEq, Repr

/-- p / q is at least x hundredths of a dB. -/
def atLeastDb (x : Int) (p q : Nat) : Bool := powLe x 1000 p q

/-- The paths of an averaged profile: local maxima at or above the threshold relative to the strongest, and 10 dB above the median; the 16 strongest, in order of delay (R180). -/
def pathsOf (threshold : Int) (p : List Nat) : List SfnPath :=
  let at_ := fun (k : Nat) => p.getD k 0
  let top := p.foldl max 0
  let floor_ := median p
  let found := (List.range p.length).filter fun k =>
    decide (0 < at_ k) && (k = 0 || decide (at_ (k - 1) < at_ k)) && decide (at_ (k + 1) ≤ at_ k)
      && atLeastDb (100 * threshold) (at_ k) top && atLeastDb 1000 (at_ k) floor_
  let strong := (found.mergeSort fun a b => decide (at_ b ≤ at_ a)).take 16
  (strong.mergeSort fun a b => decide (a ≤ b)).map fun (k : Nat) =>
    ⟨8 * k + max (-4) (min 4 (Config.tapFraction (if k = 0 then 0 else at_ (k - 1)) (at_ k) (at_ (k + 1)))), at_ k⟩

/-- A combination detected: main and sub-identifier, its delay in 1/8 sample, its power. -/
structure Combination where
  main : Nat
  sub : Nat
  delay : Int
  power : Nat
  deriving DecidableEq, Repr

/-- The combinations whose power exceeds the noise floor by the threshold in 0.5 dB; each delay lies within ±512 samples (R181). -/
def combinationsOf (threshold : Nat) (sums : List TiiSum) (noise : Nat) : List Combination :=
  (sums.zipIdx).filterMap fun (x, i) =>
    if atLeastDb (50 * threshold) x.power noise && decide (noise < x.power) then
      some ⟨i / 24, i % 24, max (-4096) (min 4096 (Config.slopeDelay x.re x.im)), x.power⟩
    else none

/-- The path that a combination is paired with: the nearest within 2 samples, the earlier of two equally near (R182). -/
def Combination.path (c : Combination) (ps : List SfnPath) : Option SfnPath :=
  (ps.filter fun p => decide ((p.delay - c.delay).natAbs ≤ 16)).foldl (fun best p => match best with
    | none => some p
    | some b => if (p.delay - c.delay).natAbs < (b.delay - c.delay).natAbs then some p else best) none

/-- 1/8 sample at 2.048 MS/s in ns, rounded to nearest. -/
def eighthsNs (d : Int) : Int := roundDiv (d * 15625) 256

/-- An entry put in its place by delay. -/
def insertTii (x : TiiEntry) : List TiiEntry → List TiiEntry
  | [] => [x]
  | y :: ys => if x.delay < y.delay then x :: y :: ys else y :: insertTii x ys

/-- The entries of a TII record: each combination with its path or without, and each path with no combination, in order of delay relative to the earliest path (R180, R182). -/
def tiiEntries (ps : List SfnPath) (cs : List Combination) (noise : Nat) : List TiiEntry :=
  let first := match ps with
    | p :: _ => p.delay
    | [] => (cs.map (·.delay)).foldl min ((cs.map (·.delay)).headD 0)
  let top := (ps.map (·.power)).foldl max 0
  let entry := fun (d : Int) (pw : Option Nat) (snr : Option Int) (m u : Nat) (sh : Bool) =>
    ({ delay := eighthsNs (d - first), pathPower := pw.map fun v => db100 v top, snr := snr, main := m, sub := u, shared := sh
       beyondGuard := decide (8 * (dabGuard : Int) < d - first) } : TiiEntry)
  let paired := cs.map fun c => (c, c.path ps)
  let a := paired.map fun (c, p) =>
    let snr := some (db100 c.power noise)
    match p with
    | some q => entry q.delay (some q.power) snr c.main c.sub (decide (1 < paired.countP fun z => z.2 = some q))
    | none => entry c.delay none snr c.main c.sub false
  let b := (ps.filter fun p => paired.all fun z => z.2 ≠ some p).map fun p => entry p.delay (some p.power) none 0xFF 0xFF false
  (a ++ b).foldl (fun acc x => insertTii x acc) []

/-! ### DRM frames (R184, R185) -/

/-- Useful part, guard and symbols per frame of a robustness mode, 1 A to 5 E (R184). -/
def drmGeometry : Nat → Nat × Nat × Nat
  | 1 => (1152, 128, 15)
  | 2 => (1024, 256, 15)
  | 3 => (704, 256, 20)
  | 4 => (448, 352, 24)
  | _ => (432, 48, 40)

/-- Samples of a transmission frame: 400 ms at 48 kS/s, 100 ms at 192 kS/s (R184). -/
def drmFrameLen : Nat := 19200

/-- Counts of a transmission frame (R184). -/
def drmFrameCounts (mode : Nat) : Nat := if mode = 5 then 10000000 else 40000000

/-- Frames of a superframe, and of the long interleaving (R184). -/
def drmSuper (mode : Nat) : Nat := if mode = 5 then 4 else 3
def drmLong (mode : Nat) : Nat := if mode = 5 then 6 else 5

/-- A symbol of the frame that begins at `n0` is erased (R170). -/
def State.drmErased (s : State) (l mode : Nat) (n0 : Int) (k : Nat) : Bool :=
  let g := drmGeometry mode
  (List.range (g.1 + g.2.1)).any fun (i : Nat) => s.feedMissing l (n0 + (k * (g.1 + g.2.1) + i : Nat))

/-- The cells of a frame; those of an erased symbol are 0 (R170). -/
def State.drmCells (s : State) (a : Air) (l mode : Nat) (offset : Int) (n0 : Int) : List (Int × Int) :=
  let g := drmGeometry mode
  (List.range g.2.2).flatMap fun k =>
    let cells := Config.drmCells mode offset ((s.feedSamples a l (n0 + (k * (g.1 + g.2.1) + g.2.1 : Nat)) g.1).map fun x => match x with
      | some y => y.pair
      | none => (0, 0))
    if s.drmErased l mode n0 k then cells.map fun _ => (0, 0) else cells

/-- An erased symbol lies among the first `k` of a frame. -/
def State.drmErasedTo (s : State) (l mode : Nat) (n0 : Int) (k : Nat) : Bool := (List.range k).any (s.drmErased l mode n0)

/-- The FAC's CRC: 8 bits, x^8 + x^4 + x^3 + x^2 + 1, all ones at first, complemented. -/
def facCrcOk (bs : List Bool) : Bool :=
  decide (8 < bs.length) && crcOver 8 0x1D 0xFF (bs.take (bs.length - 8)) ^^^ 0xFF == numOf (bs.drop (bs.length - 8))

/-- Fields of the FAC's channel parameters: place in the superframe, spectrum occupancy, short interleaving, superframes to a reconfiguration (ES 201 980). -/
def facPlace (bs : List Bool) : Nat := bitsAt bs 1 2
def facOccupancy (bs : List Bool) : Nat := bitsAt bs 4 3
def facShort (bs : List Bool) : Bool := bitsAt bs 7 1 == 1
def facReconfig (bs : List Bool) : Nat := bitsAt bs 15 3

end Sys2Proof.Machine
end

