-- ==== Sys2Proof/Machine/Engines.lean ====
section
/-!
DEFINITION. OFDM engines (06): frames, accepted entries, reconfigurations, records, TII, restarts, cross-assay and moves.
-/
namespace Sys2Proof.Machine

/-- The engine decodes: configured for the class, on a die that is up, its region in service, not left unserved. -/
def State.engineRuns (s : State) (e : Nat) (c : EngineClass) : Bool :=
  decide (e < s.dies * 4) && s.dieRuns (engineDie e) && decide ((s.cfg.active.engines.get e).cls = c) && !s.engineUnserved e
    && maskBit (s.domains.get (engineDie e)).ready (10 + s.engineRegion e)

/-! ### Engine memory (R190) -/

/-- The areas of an engine's memory in KiB: for each class its own, and per capacity unit (R190). -/
def engineAreas : EngineClass → List Nat × Nat
  | .off => ([], 0)
  | .dab => ([540, 192, 192, 64, 36], 0)
  | .drm => ([256], 96)

/-- KiB that a configuration of a class with so many capacity units takes of the engine's 1,024 (R190). -/
def engineKib (c : EngineClass) (units : Nat) : Nat := (engineAreas c).1.sum + (engineAreas c).2 * units

/-! ### Restarts -/

/-- An alarm of a position begins or ends for WATCH (17 R442). -/
def engineAlert (e p : Nat) (on : Bool) (s : State) : State :=
  match (s.cfg.active.engines.get e).cls with
  | .dab => setAlert (.dab e p) on s
  | .drm => setAlert (.drm e p) on s
  | .off => s

/-- A signal restarts: all its state goes, acquisition begins again with the first valid feed sample from `from_` on (R171). -/
def restartSignal (e p from_ : Nat) (s : State) : State :=
  let was := s.signal e p
  let s := engineAlert e p false s
  let s := s.setSignal e p fun x => { acqFrom := from_, restartSeen := true, erasedSeen := x.erasedSeen, reconfigSeen := x.reconfigSeen }
  let s := s.setEngine e fun x => { x with restarts := x.restarts + 1, tiiSeen := if p = 0 then [] else x.tiiSeen, tii := if p = 0 then {} else x.tii }
  if was.synced then raise .ofdmSyncLost (engineDie e) [.w e, .w p] s else s

/-- The represented SYSTIME of the first feed sample from now on. -/
def State.feedAhead (s : State) (e p : Nat) : Nat := match s.feedLane e p with
  | some l => s.feedInstant l (ceilDiv (s.now * 192) (rateP192 (s.taps.lanes.get l).rateClass))
  | none => s.now

/-- A signal restarts from the next feed sample: after a delay step, a run of missing samples, a move to another engine or the loss of its state (R171). -/
def restartHere (e p : Nat) (s : State) : State := restartSignal e p (s.feedAhead e p) s

/-- Synchronisation of one transmission frame, which ends at `stop`: gained, kept, or lost in three frames in succession (R171). -/
def frameSync (e p stop : Nat) (synced : Bool) (s : State) : State :=
  let x := s.signal e p
  if synced then
    let t := s.setSignal e p fun x => { x with synced := true, lostFrames := 0 }
    if x.synced then t else raise .ofdmSyncGained (engineDie e) [.w e, .w p] t
  else if x.synced && 2 ≤ x.lostFrames then restartSignal e p stop s
  else if x.synced then s.setSignal e p fun x => { x with lostFrames := x.lostFrames + 1 } else s

/-- More than 400 ms without feed samples: the signal restarts (R171). -/
def execFeedMissingTimeout (e p : Nat) (s : State) : Res :=
  onlyIf (decide (e < s.dies * 4) && s.dieRuns (engineDie e) && ((s.cfg.active.engines.get e).positions.contains p)
      && (match s.feedLane e p with
          | some l => s.feedGone l (s.signal e p)
          | none => false)) s (restartHere e p s)

/-! ### Entries -/

/-- One CRC-good reception of an entry: accepted when two agree (R174, R179, R186). -/
def FigSet.take (x : FigSet) (f : Fig) : FigSet :=
  if x.candidates.contains f then
    { x with accepted := if x.accepted.contains f then x.accepted else x.accepted.filter (fun g => g.key ≠ f.key) ++ [f] }
  else { x with candidates := x.candidates.filter (fun g => g.key ≠ f.key) ++ [f] }

/-- The entries of the multiplex configuration, and the others. -/
def FigSet.mci (x : FigSet) : FigSet := ⟨x.accepted.filter Fig.isMci, x.candidates.filter Fig.isMci⟩
def FigSet.other (x : FigSet) : FigSet := ⟨x.accepted.filter fun f => !f.isMci, x.candidates.filter fun f => !f.isMci⟩
/-- Two sets together. -/
def FigSet.join (x y : FigSet) : FigSet := ⟨x.accepted ++ y.accepted, x.candidates ++ y.candidates⟩

/-- The sub-channels that accepted FIG 0/2 entries name, those of packet-mode components through FIG 0/3; none stands for one not yet known. -/
def FigSet.named (x : FigSet) : List (Option Nat) :=
  x.accepted.filterMap fun f => match f with
    | .component _ _ sub .. => some (some sub)
    | .servicePacket _ _ scid _ => some (x.accepted.findSome? fun g => match g with
        | .packet k sub _ => if k = scid then some sub else none
        | _ => none)
    | _ => none

/-- The sub-channels with an accepted FIG 0/1 entry. -/
def FigSet.subchs (x : FigSet) : List Nat := x.accepted.filterMap fun f => f.place.map (·.1)

/-- The MCI is complete: every sub-channel named has its FIG 0/1 entry, and at least one is named (R174). -/
def FigSet.complete (x : FigSet) : Bool := !x.named.isEmpty && x.named.all fun n => match n with
  | some id => x.subchs.contains id
  | none => false

/-- The organisation of a sub-channel: its start address, size and protection. -/
def FigSet.organisation (x : FigSet) (id : Nat) : Option (Nat × Nat × Nat × Nat) := x.accepted.findSome? fun f =>
  match f.place with
  | some q => if q.1 = id then some q else none
  | none => none

/-- The streams of a DRM multiplex: bytes in its higher and lower protected part (R184). -/
def FigSet.multiplex (x : FigSet) : List (Nat × Nat) := (x.accepted.findSome? fun f => match f with
  | .drmMultiplex ls => some ls
  | _ => none).getD []

/-- The audio codec of a DRM stream; none: it carries data. -/
def FigSet.codec (x : FigSet) (stream : Nat) : Option Nat := x.accepted.findSome? fun f => match f with
  | .drmAudio i c => if i = stream then some c else none
  | _ => none

/-- Alarms in force: clusters of accepted announcements with the alarm flag, or in cluster 0xFF (R179); the data of an SDC alarm (R186). -/
def FigSet.alarms (x : FigSet) : List Nat :=
  x.accepted.filterMap fun f => match f with
    | .announcement cl _ fl alarm => if fl ≠ 0 && (alarm || cl = 0xFF) then some cl else none
    | .drmAnnouncement d alarm => if alarm then some d else none
    | _ => none

/-- OFDM_ALERT for the alarms that start and end (R179, R186). -/
def alarmEvents (e p : Nat) (old new : List Nat) (s : State) : State :=
  let s := (new.filter fun c => !old.contains c).foldl (fun acc (c : Nat) => raise .ofdmAlert (engineDie e) [.w e, .w p, .w 0, .w c] acc) s
  let s := (old.filter fun c => !new.contains c).foldl (fun acc (c : Nat) => raise .ofdmAlert (engineDie e) [.w e, .w p, .w 1, .w c] acc) s
  engineAlert e p (!new.isEmpty) (s.setSignal e p fun x => { x with alarms := new })

/-- The service that an entry names: an SId by its width, a DRM service identifier (07 R202). -/
def Fig.service : Fig → Option (Nat × Ident)
  | .component sid .. | .servicePacket sid .. => some (2, sigIdent 2 sid)
  | .drmService id => some (3, ⟨3, id⟩)
  | _ => none

/-- Accepted services received again or anew: noted with the time, and heard by the follow sets (07 R202). A multiplex names other services beside, so one outside an identity set ends nothing. -/
def hearServices (e p : Nat) (figs : List Fig) (s : State) : State :=
  let x := s.signal e p
  let freq := match s.feedLane e p with
    | some l => (s.cfg.active.lanes.get l).fLane
    | none => 0
  (figs.filter x.current.accepted.contains).foldl (fun acc g => match g.service with
    | some (typ, i) =>
      let acc := acc.setSignal e p fun y => { y with heard := (y.heard.filter fun h => h.1 ≠ i) ++ [(i, acc.now)] }
      followsHear (s.feedLane e p) none true freq typ i x.eid false acc
    | none => acc) s

/-- One reception taken by a signal: of the next configuration, or of the present one; after an incomplete reconfiguration what describes the multiplex is gathered apart until it is complete (R174, R175). -/
def SignalSt.takeFig (x : SignalSt) (f : Bool × Fig) : SignalSt :=
  if f.1 || (x.awaiting && f.2.isMci) then
    let y := { x with next_ := x.next_.take f.2 }
    if y.awaiting && y.next_.complete then { y with awaiting := false, current := y.current.other.join y.next_, next_ := {} } else y
  else { x with current := x.current.take f.2 }

/-- The accepted entries of a position after a frame's receptions; MCI_COMPLETE once after each restart. -/
def takeEntries (e p : Nat) (figs : List (Bool × Fig)) (done : SignalSt → Bool) (count : SignalSt → Nat) (s : State) : State :=
  let old := s.signal e p
  let s := s.setSignal e p fun x => figs.foldl SignalSt.takeFig x
  let new := s.signal e p
  let s := hearServices e p (figs.filterMap fun f => if f.1 then none else some f.2) s
  let s := alarmEvents e p old.alarms new.current.alarms s
  if done new && !old.complete then
    raise .mciComplete (engineDie e) [.w e, .w p, .w (count new)] (s.setSignal e p fun x => { x with complete := true })
  else s

/-! ### Records (R187 to R189) -/

/-- A record padded to a multiple of 4 bytes, with its length in bytes 2 and 3 (R187). -/
def engineRecord (type sub : Nat) (rest : List Byte) : List Byte :=
  let n := (4 + rest.length + 3) / 4 * 4
  padTo n (le 1 type ++ le 1 sub ++ le 2 n ++ rest)

/-- The entry by which an output that completes at `t` is delivered: a COMMIT's masks, thresholds and TII parameters apply from its tick on (R171). -/
def State.engineEntryAt (s : State) (e t : Nat) : EngineEntry :=
  match (((s.ofdm.engines.get e).past.filter fun x => decide (t < x.1)).getLast?) with
  | some x => x.2
  | none => s.cfg.active.engines.get e

/-- The FIB record (type 0x10). -/
def fibRecord (nullStart doneAt flags count i : Nat) (f : Fib) : EngineRec :=
  { doneAt := doneAt, position := 0, erased := f.erased, flags := flags
    bytes := engineRecord 0x10 i (le 8 nullStart ++ le 2 count ++ le 1 (b2n f.crcOk + 2 * b2n f.erased) ++ zeros 1 ++ padTo 32 f.bytes) }

/-- Records that CTRL_DELIVERY selects: 0 none, 1 good, 2 all (R167). -/
def deliverCtrl (mode : Nat) (ok : Bool) : Bool := decide (mode = 2) || (decide (mode = 1) && ok)

/-- Add records to those of the span in progress. -/
def addSide (e : Nat) (rs : List EngineRec) (s : State) : State := s.setEngine e fun x => { x with side := x.side ++ rs }
def addUnits (e : Nat) (rs : List EngineRec) (s : State) : State := s.setEngine e fun x => { x with units := x.units ++ rs }

/-- Whether tracking gives the frame after the one at `f`, within half a frame of its place, and where that frame begins: there, or in its place (R173, R185). -/
def frameAfter (f : Int) (len : Nat) (present : Bool) (start : Int) : Bool × Int :=
  let found := present && decide ((start - (f + len)).natAbs ≤ len / 2)
  (found, if found then start else f + len)

/-! ### DAB frames (R173, R174, R180, R181) -/

/-- What acquisition and tracking give of a DAB engine's feed by now, and the grid point at which the latest frame begins (R173). -/
def State.dabTiming (s : State) (a : Air) (e l : Nat) : DabTiming × Int :=
  let h := s.feedHistory a l (s.signal e 0) s.now
  let r := Config.dabReceiver ((s.cfg.active.engines.get e).freqSearch * 100) (feedPairs h.2)
  (r, h.1 + (r.start : Nat))

/-- Frame synchronisation may be gained: a signal of transmission mode I with its carrier within ±FREQ_SEARCH (R172, R173). -/
def DabTiming.acquires (r : DabTiming) (search : Nat) : Bool := r.present && decide (r.mode = 1) && decide (r.offset.natAbs ≤ search * 10000)

/-- The impulse response and the TII powers of a frame added to the period's (R180, R181). -/
def State.integrated (s : State) (a : Air) (l : Nat) (offset n0 : Int) (x : TiiAcc) : TiiAcc :=
  let prs := s.dabUseful a l n0 1
  let null := s.dabUseful a l n0 0
  let lost := s.dabErased l n0 1
  let tii := !s.dabErased l n0 0 && !lost && Config.carriesTii null
  let add := fun (xs ys : List Nat) => (List.range 2048).map fun i => xs.getD i 0 + ys.getD i 0
  { frames := x.frames + 1
    start := if x.frames = 0 then s.feedInstant l n0 else x.start
    last := n0
    profile := if lost then x.profile else add x.profile (Config.prsProfile (s.dabCells a l offset n0 1))
    sums := if tii then
        let ys := Config.tiiSums null prs
        (List.range 1680).map fun i =>
          let p := x.sums.getD i {}
          let q := ys.getD i {}
          ⟨p.power + q.power, p.re + q.re, p.im + q.im⟩
      else x.sums
    noise := if tii then x.noise + Config.tiiNoise null else x.noise
    erased := x.erased || lost || s.dabErased l n0 0
    flags := x.flags ||| s.feedFlagsOf a l n0 (n0 + (dabOffset 2 : Nat) - 1)
    doneAt := s.feedInstant l (n0 + (dabOffset 2 : Nat) - 1) }

/-- Frames of a TII period (R167). -/
def EngineEntry.tiiFrames (c : EngineEntry) : Nat := 16 * 2 ^ c.tiiPeriod

/-- A frame's FIC, PRS and null symbol are taken (R174, R179 to R181). -/
def takeDabFrame (e l : Nat) (a : Air) (r : DabTiming) (n0 : Int) (s : State) : State :=
  let c := s.cfg.active.engines.get e
  let (fibs, bits, errors) := s.ficOf a l r.offset n0
  let read := (fibs.filter (·.crcOk)).flatMap fun f => figsOf 30 (f.bytes.take 30)
  let info := (read.filterMap (·.1)).getLast?
  let x := s.signal e 0
  let cif := match info with
    | some i => some i.cif
    | none => x.frameCif.map fun n => (n + 4) % 5000
  let powers := ([2, 3, 4].map fun k => Config.cellPowers (s.dabCells a l r.offset n0 (k - 1)) (s.dabCells a l r.offset n0 k)).foldl
    (fun acc q => (acc.1 + q.1, acc.2 + q.2)) (0, 0)
  let t := s.setSignal e 0 fun x =>
    { x with
      frameAt := some n0, frameCount := x.frameCount + 1, cifsDone := 0, freqOffset := r.offset
      ctrlGood := x.ctrlGood || fibs.any (·.crcOk), ctrlTotal := x.ctrlTotal + fibs.length, ctrlFail := x.ctrlFail + fibs.countP fun f => !f.crcOk
      berBits := x.berBits + bits, berErrors := x.berErrors + errors
      merNow := powers, merSum := (x.merSum.1 + powers.1, x.merSum.2 + powers.2)
      merFollow := (x.merFollow.1 + powers.1, x.merFollow.2 + powers.2)
      eid := match info with
        | some i => some i.eid
        | none => x.eid
      frameCif := cif
      reconfigAt := match info.bind (·.reconfigAt) with
        | some n => some n
        | none => x.reconfigAt
      erasedSeen := x.erasedSeen || fibs.any (·.erased) }
  let t := if c.tiiOn then t.setEngine e fun y => { y with tii := s.integrated a l r.offset n0 y.tii } else t.setEngine e fun y => { y with tii := {} }
  let null := s.feedInstant l n0
  let recs := fibs.zipIdx.filterMap fun (f, i) =>
    let done := s.feedInstant l (n0 + (dabOffset (fibSymbol i + 1) : Nat) - 1)
    if deliverCtrl (s.engineEntryAt e done).ctrlDelivery f.crcOk then
      some (fibRecord null done (s.feedFlagsOf a l (n0 + (dabOffset (fibFirst i - 1) : Nat)) (n0 + (dabOffset (fibSymbol i + 1) : Nat) - 1)) (cif.getD 0x1FFF) i f)
    else none
  takeEntries e 0 (read.flatMap (·.2)) (fun x => x.current.complete) (fun x => x.current.subchs.length) (addSide e recs t)

/-- A DAB transmission frame, once its FIC has come in: synchronisation, FIBs, accepted entries, impulse response and TII (R171 to R175, R179 to R181). While its null symbol or its PRS is erased the frame timing runs on (R170). -/
def execDabFrame (e : Nat) (air : Air) (s : State) : Res :=
  let c := s.cfg.active.engines.get e
  let x := s.signal e 0
  match s.feedLane e 0 with
  | none => .next s
  | some l =>
    let r := s.dabTiming air e l
    let here := fun (n0 : Int) => decide (n0 + (dabOffset 5 : Nat) ≤ s.feedNow l s.now + 1)
    onlyIf (s.engineRuns e .dab && c.positions.contains 0 && decide (x.cifsDone = 4) && (!c.tiiOn || decide ((s.ofdm.engines.get e).tii.frames < c.tiiFrames))) s
      (match x.synced, x.frameAt with
       | true, some f =>
         let (found, n0) := frameAfter f dabFrameLen r.1.present r.2
         if !here n0 then s else
         let kept := found || s.dabErased l n0 0 || s.dabErased l n0 1
         let t := frameSync e 0 (s.feedInstant l (n0 + (dabFrameLen : Nat))) kept s
         if (t.signal e 0).synced then takeDabFrame e l air (if found then r.1 else { r.1 with offset := x.freqOffset }) n0 t else t
       | _, _ =>
         if r.1.acquires c.freqSearch && here r.2 then takeDabFrame e l air r.1 r.2 (frameSync e 0 0 true s) else s)

/-! ### Outputs -/

/-- What is kept of a sub-channel or stream. -/
def SignalSt.sub (x : SignalSt) (id : Nat) : SubCount := (x.subs.find? fun y => y.id = id).getD { id := id }

/-- A sub-channel or stream changed by `g`; it is listed if it was not. -/
def updSub (id : Nat) (g : SubCount → SubCount) (xs : List SubCount) : List SubCount :=
  if xs.any fun x => x.id = id then xs.map fun x => if x.id = id then g x else x else xs ++ [g { id := id }]

/-- The same in a position's state. -/
def setSub (e p id : Nat) (g : SubCount → SubCount) (s : State) : State := s.setSignal e p fun x => { x with subs := updSub id g x.subs }

/-- The bit of a delivery mask: SubChId for DAB, 4 bits per position for DRM (R167, 11 R333). -/
def maskIndex (c : EngineClass) (p sub : Nat) : Nat := if c = .dab then sub else 4 * p + sub

/-- A sub-channel under conditional access: a component says so (06 R172). -/
def FigSet.scrambled (x : FigSet) (id : Nat) : Bool :=
  x.accepted.any fun f => match f with
    | .component _ _ sub _ _ scr => sub == id && scr
    | .servicePacket _ _ scid scr => scr && x.accepted.any fun g => match g with
        | .packet k sub _ => k == scid && sub == id
        | _ => false
    | _ => false

/-- SUBCH of a record: SubChId, or position and stream (06 access unit record). -/
def subField (c : EngineClass) (p sub : Nat) : Nat := if c = .dab then sub else p + 16 * sub

/-- One access unit: counted, numbered, and a record where AU_MASK selects it (R177, R189). Decode contexts take it whatever the mask. -/
def takeUnit (e p : Nat) (s : State) (u : AccessUnit) : State :=
  let c := s.engineEntryAt e u.doneAt
  let x := s.signal e p
  let sc := x.sub u.sub
  let s := (s.contextsOf e p u.sub).foldl (fun acc k => acc.setContext k fun y =>
    { y with inbox := y.inbox ++ [{ u with scrambled := x.current.scrambled u.sub }], badSeen := y.badSeen || !u.crcOk || u.erased }) s
  let s := s.setSignal e p fun x =>
    { x with
      decoding := true, erasedSeen := x.erasedSeen || u.erased
      subs := updSub u.sub (fun y => { y with auSeq := (y.auSeq + 1) % 65536, auTotal := y.auTotal + 1, auFail := if u.crcOk then y.auFail else y.auFail + 1, reconfig := false }) x.subs }
  if maskBit c.auMask (maskIndex c.cls p u.sub) then
    let fl := b2n u.crcOk + 2 * b2n u.rsCorrected + 4 * b2n u.rsFailed + 8 * b2n u.erased + 16 * b2n (x.current.scrambled u.sub) + 32 * b2n sc.reconfig
    addUnits e [{ doneAt := u.doneAt, position := p, erased := u.erased, flags := u.flags
                  bytes := engineRecord 0x20 u.codec (le 8 u.airTime ++ le 2 (subField c.cls p u.sub) ++ le 2 sc.auSeq ++ le 2 u.payload.length
                    ++ le 1 fl ++ le 1 u.auIndex ++ le 1 u.aacFlags ++ zeros 11 ++ u.payload) }] s
  else s

/-- One data group: counted where it is packet mode, and a record where DATA_MASK, or PAD_MASK for PAD, selects it (R178). -/
def takeGroup (e p : Nat) (s : State) (g : DataGroup) : State :=
  let c := s.engineEntryAt e g.doneAt
  let x := s.signal e p
  let s := if g.origin = 1 then s else setSub e p g.sub (fun y => { y with auTotal := y.auTotal + 1, auFail := if g.crcOk then y.auFail else y.auFail + 1 }) s
  let s := s.setSignal e p fun x => { x with decoding := x.decoding || g.origin != 1, erasedSeen := x.erasedSeen || g.erased }
  let mask := if g.origin = 1 then c.padMask else c.dataMask
  if maskBit mask (maskIndex c.cls p g.sub) then
    let fl := b2n g.crcOk + 2 * b2n g.allPackets + 4 * b2n g.rsCorrected + 8 * b2n g.rsFailed + 16 * b2n g.erased + 32 * b2n (x.current.scrambled g.sub)
    addSide e [{ doneAt := g.doneAt, position := p, erased := g.erased, flags := g.flags
                 bytes := engineRecord 0x13 (g.origin % 4) (le 8 g.airTime ++ le 2 (subField c.cls p g.sub) ++ le 2 (g.address % 1024) ++ le 2 g.group.length ++ le 1 fl ++ zeros 1 ++ g.group) }] s
  else s

/-- What an audio frame's PAD completes, for a sub-channel in PAD_MASK (R178). -/
def takePad (e : Nat) (u : AccessUnit) (s : State) : State :=
  if !maskBit (s.engineEntryAt e u.doneAt).padMask u.sub then s else
  let r := Config.padGroups ((s.signal e 0).sub u.sub).memory u.payload
  r.2.foldl (fun acc g => takeGroup e 0 acc
    { origin := 1, airTime := u.airTime, sub := u.sub, address := 0, crcOk := g.crcOk, allPackets := g.allPackets, rsCorrected := false, rsFailed := false
      erased := u.erased, group := g.bytes, doneAt := u.doneAt, flags := u.flags }) (setSub e 0 u.sub (fun y => { y with memory := r.1 }) s)

/-- Units of an audio sub-channel, each with its PAD (R177, R178). -/
def takeAudio (e : Nat) (us : List AccessUnit) (s : State) : State := us.foldl (fun acc u => takePad e u (takeUnit e 0 acc u)) s

/-- What a logical frame says of alignment: searched by the fire code on each logical frame, then held; the superframe that it completes (R177). -/
def SubCount.align (x : SubCount) (lf : LogicalFrame) : SubCount × Option (List LogicalFrame) :=
  let fs := x.frames ++ [lf]
  if fs.length < 5 then ({ x with frames := fs }, none)
  else if x.aligned then ({ x with frames := [] }, some fs)
  else match fs with
    | f :: rest => if fireOk f.bytes then ({ x with frames := [], aligned := true, badRun := 0 }, some fs) else ({ x with frames := rest }, none)
    | [] => (x, none)

/-- A superframe's tests: alignment is given up after three in succession in which the fire code fails and a codeword is uncorrectable (R177). -/
def SubCount.judge (x : SubCount) (fire : Bool) (bad : Nat) : SubCount :=
  let run := if fire || bad = 0 then 0 else x.badRun + 1
  { x with rsFail := if bad = 0 then x.rsFail else x.rsFail + 1, aligned := x.aligned && decide (run < 3), badRun := if run < 3 then run else 0 }

/-- A logical frame of a DAB+ sub-channel (R177, R189). -/
def takeDabPlus (e id : Nat) (lf : LogicalFrame) (s : State) : State :=
  let r := ((s.signal e 0).sub id).align lf
  let s := setSub e 0 id (fun _ => r.1) s
  match r.2 with
  | none => s
  | some fs =>
    let (bs, corrected, bad) := superframe (fs.flatMap (·.bytes))
    let us := accessUnitsOf bs
    let first := fs.headD lf
    let flags := fs.foldl (fun acc f => acc ||| f.flags) 0
    takeAudio e (us.zipIdx.map fun (u, i) =>
      { codec := 1, airTime := first.airTime + i * 12000000 / us.length, sub := id, auIndex := i, crcOk := u.2, rsCorrected := corrected, rsFailed := bad != 0
        erased := fs.any (·.erased), aacFlags := aacFlags bs, payload := u.1, doneAt := lf.doneAt, flags := flags })
      (setSub e 0 id (fun y => y.judge (fireOk first.bytes) bad) s)

/-- A logical frame that is a unit of its own: a Layer II frame, or one of a stream-mode data sub-channel (R176, R177). -/
def takeWhole (e id codec : Nat) (lf : LogicalFrame) (s : State) : State :=
  let u : AccessUnit := { codec := codec, airTime := lf.airTime, sub := id, auIndex := 0, crcOk := if codec = 0 then Config.layer2Crc lf.bytes else Config.streamCrcOk
                          rsCorrected := false, rsFailed := false, erased := lf.erased, aacFlags := 0, payload := lf.bytes, doneAt := lf.doneAt, flags := lf.flags }
  if codec = 0 then takeAudio e [u] s else takeUnit e 0 s u

/-- Packets assembled into data groups; of FEC packets, those of their frame (R178). -/
def takePackets (e id : Nat) (lf : LogicalFrame) (corrected failed : Bool) (ps : List Packet) (s : State) : State :=
  ps.foldl (fun acc q =>
    if q.address = 0 || q.address = fecAddress then acc else
    let r := takePacket lf ((acc.signal e 0).sub id).packets q
    let acc := setSub e 0 id (fun y => { y with packets := r.1 }) acc
    match r.2 with
    | some g => takeGroup e 0 acc { origin := 0, airTime := g.airTime, sub := id, address := g.address, crcOk := groupCrcOk g.bytes, allPackets := !g.lost, rsCorrected := corrected
                                    rsFailed := failed, erased := g.erased, group := g.bytes, doneAt := lf.doneAt, flags := lf.flags }
    | none => acc) s

/-- One packet of a sub-channel in the enhanced packet mode: gathered, and with the last FEC packet the frame is corrected and its packets taken (R178). -/
def takeFec (e id : Nat) (lf : LogicalFrame) (s : State) (q : Packet × List Byte) : State :=
  let x := (s.signal e 0).sub id
  if q.1.address ≠ fecAddress then setSub e 0 id (fun y => { y with fecData := y.fecData ++ q.2, fecParity := [] }) s
  else
    let parity := x.fecParity ++ q.1.data
    if q.1.index = 8 then
      let s := setSub e 0 id (fun y => { y with fec := true, fecData := [], fecParity := [] }) s
      if x.fecData.length = 2256 && parity.length = 198 then
        let (bs, corrected, failed) := fecFrame x.fecData parity
        takePackets e id lf corrected failed ((packetsOf 94 bs).filterMap fun q => if q.1.good then some q.1 else none) (setSub e 0 id (fun y => { y with rsFail := if failed then y.rsFail + 1 else y.rsFail }) s)
      else s
    else setSub e 0 id (fun y => { y with fec := true, fecParity := parity }) s

/-- A logical frame of a packet-mode sub-channel (R178). -/
def takePacketFrame (e id : Nat) (lf : LogicalFrame) (s : State) : State :=
  let ps := packetsOf lf.bytes.length lf.bytes
  let s := ps.foldl (takeFec e id lf) s
  if ((s.signal e 0).sub id).fec then s else takePackets e id lf false false (ps.filterMap fun q => if q.1.good then some q.1 else none) s

/-- What a sub-channel carries, by the FIG 0/2 and 0/3 entries that name it (R172). -/
inductive SubKind where
  | dabPlus | layer2 | stream | packet
  deriving DecidableEq, Repr

def FigSet.kind (x : FigSet) (id : Nat) : Option SubKind :=
  x.accepted.findSome? fun f => match f with
    | .component _ _ sub audio dabPlus _ => if sub = id then some (if audio then (if dabPlus then .dabPlus else .layer2) else .stream) else none
    | .packet _ sub _ => if sub = id then some .packet else none
    | _ => none

/-- A logical frame of a sub-channel taken by what the sub-channel carries (R176). -/
def takeLogical (e id : Nat) (lf : LogicalFrame) (s : State) : State :=
  match (s.signal e 0).current.kind id with
  | some .dabPlus => takeDabPlus e id lf s
  | some .layer2 => takeWhole e id 0 lf s
  | some .stream => takeWhole e id 5 lf s
  | some .packet => takePacketFrame e id lf s
  | none => s

/-- The next configuration comes into force at its CIF: unchanged sub-channels continue, changed ones begin again with RECONFIG, removed ones end; entries that are none of the multiplex configuration stay. Without a complete next configuration only the unchanged sub-channels go on until it is (R175). -/
def reconfigure (e : Nat) (count : Nat) (s : State) : State :=
  let x := s.signal e 0
  let complete := x.next_.complete
  let changed := (x.current.subchs ++ x.next_.subchs).eraseDups.filter fun id => x.current.organisation id ≠ x.next_.organisation id
  let keep : FigSet := { accepted := x.current.accepted.filter fun f => match f with
      | .subch id .. => !changed.contains id
      | .component _ _ sub .. => !changed.contains sub
      | .packet _ sub _ => !changed.contains sub
      | _ => true }
  let s := s.setSignal e 0 fun x =>
    { x with
      current := if complete then x.current.other.join x.next_ else { keep with candidates := x.current.other.candidates }
      next_ := if complete then {} else x.next_, awaiting := !complete, reconfigAt := none, reconfigSeen := true
      subs := changed.foldl (fun acc id => updSub id (fun y => { id := id, auSeq := y.auSeq, auTotal := y.auTotal, auFail := y.auFail, rsFail := y.rsFail
                                                                 reconfig := true, since := x.cifTotal - 1 }) acc) x.subs }
  raise .ensembleReconfig (engineDie e) [.w e, .w 0, .w count, .q (maskOf 64 changed.contains)] s

/-- The CIF that comes next is decoded: it enters the time de-interleaver; a reconfiguration announced for its count applies; each sub-channel of the MCI in force gives its logical frame once 16 CIFs of its organisation are stored (R175 to R178). -/
def execCifDecoded (e : Nat) (air : Air) (s : State) : Res :=
  let x := s.signal e 0
  match s.feedLane e 0, x.frameAt with
  | some l, some n0 =>
    onlyIf (s.engineRuns e .dab && x.synced && decide (x.cifsDone < 4) && decide (n0 + (dabOffset (cifSymbol (x.cifsDone + 1)) : Nat) ≤ s.feedNow l s.now + 1)) s
      (let k := cifSymbol x.cifsDone
       let powers := ((List.range 18).map fun i => Config.cellPowers (s.dabCells air l x.freqOffset n0 (k + i - 1)) (s.dabCells air l x.freqOffset n0 (k + i))).foldl
         (fun acc q => (acc.1 + q.1, acc.2 + q.2)) (0, 0)
       let t := s.setSignal e 0 fun x =>
         { x with cifs := (s.cifOf air l x.freqOffset n0 x.cifsDone :: x.cifs).take 20, cifsDone := x.cifsDone + 1, cifTotal := x.cifTotal + 1
                  merNow := (x.merNow.1 + powers.1, x.merNow.2 + powers.2), merSum := (x.merSum.1 + powers.1, x.merSum.2 + powers.2)
                  merFollow := (x.merFollow.1 + powers.1, x.merFollow.2 + powers.2) }
       let t := match x.frameCif with
         | some c => if x.reconfigAt = some ((c + x.cifsDone) % 5000) then reconfigure e ((c + x.cifsDone) % 5000) t else t
         | none => t
       let y := t.signal e 0
       if !y.complete then t else
       (y.current.accepted.filterMap Fig.place).foldl (fun acc (id, start, size, prot) =>
         if (y.sub id).since + 16 ≤ y.cifTotal then takeLogical e id (s.logicalFrame l y.cifs start size prot) acc else acc) t)
  | _, _ => .next s

/-! ### DRM (R184 to R186) -/

/-- What acquisition and tracking give of a DRM signal's feed by now, in the robustness mode named or found among A to D, and the grid point at which the latest frame begins (R185). -/
def State.drmTiming (s : State) (a : Air) (e p l : Nat) : DrmTiming × Int :=
  let c := s.cfg.active.engines.get e
  let named := c.drmModes.getD p 0
  let h := s.feedHistory a l (s.signal e p) s.now
  let r := Config.drmReceiver named (c.freqSearch * 100) (feedPairs h.2)
  ({ r with mode := if named = 0 then r.mode else named, present := r.present && (named != 0 || (decide (1 ≤ r.mode) && decide (r.mode ≤ 4))) }, h.1 + (r.start : Nat))

/-- The streams whose parameters a reconfiguration changes: their lengths or their codec (R186). -/
def FigSet.streamChanges (x y : FigSet) : Nat := maskOf 4 fun i => x.multiplex[i]? ≠ y.multiplex[i]? || x.codec i ≠ y.codec i

/-- A DRM reconfiguration comes into force at frame `n`: streams whose parameters are unchanged continue (R186). -/
def reconfigureDrm (e p n : Nat) (s : State) : State :=
  let x := s.signal e p
  let next_ := x.current.other.join x.next_.mci
  let changed := x.current.streamChanges next_
  let s := s.setSignal e p fun x =>
    { x with current := next_, next_ := {}, reconfigAt := none, reconfigSeen := true
             subs := (maskList 4 changed).foldl (fun acc id => updSub id (fun y => { y with reconfig := true, memory := [] }) acc) x.subs }
  raise .ensembleReconfig (engineDie e) [.w e, .w p, .w n, .q changed] s

/-- A stream's part of a multiplex frame: its bytes of the higher protected part, then of the lower (R184). -/
def streamPart (lens : List (Nat × Nat)) (bs : List Byte) (i : Nat) : List Byte :=
  let a := ((lens.take i).map (·.1)).sum
  let b := (lens.map (·.1)).sum + ((lens.take i).map (·.2)).sum
  let w := lens.getD i (0, 0)
  (bs.drop a).take w.1 ++ (bs.drop b).take w.2

/-- What one stream of a multiplex frame gives: access units, or text messages and data groups (R184, R189). `air`: AIR_TIME of the frame that carries the undelayed part. -/
def takeStream (e p i airTime doneAt flags : Nat) (erased : Bool) (part : List Byte) (s : State) : State :=
  let x := s.signal e p
  let s := match x.current.codec i with
    | some c =>
      let us := Config.drmUnits c part
      us.zipIdx.foldl (fun acc (u, j) => takeUnit e p acc
        { codec := c, airTime := airTime + j * drmFrameCounts x.mode / us.length, sub := i, auIndex := j, crcOk := u.2, rsCorrected := false, rsFailed := false
          erased := erased, aacFlags := 0, payload := u.1, doneAt := doneAt, flags := flags }) s
    | none => s
  let r := Config.drmGroups (x.sub i).memory part
  r.2.foldl (fun acc g => takeGroup e p acc
    { origin := g.origin, airTime := airTime, sub := i, address := g.address, crcOk := g.crcOk, allPackets := g.allPackets, rsCorrected := false, rsFailed := false
      erased := erased, group := g.bytes, doneAt := doneAt, flags := flags }) (setSub e p i (fun y => { y with memory := r.1 }) s)

/-- The multiplex frame that a transmission frame completes: every stream's outputs, once the interleaver holds its frames (R184). -/
def takeMultiplex (e p l doneAt : Nat) (s : State) : State :=
  let x := s.signal e p
  let depth := if facShort x.fac then 1 else drmLong x.mode
  let used := x.drmFrames.take depth
  let lens := x.current.multiplex
  if !x.complete || used.length < depth then s else
  let bs := Config.drmMsc x.mode x.fac lens (used.reverse.map (·.cells))
  let air := s.feedInstant l ((used.getLastD ⟨0, [], false, 0⟩).first)
  (List.range lens.length).foldl (fun acc i =>
    takeStream e p i air doneAt (used.foldl (fun f u => f ||| u.flags) 0) (used.any (·.erased)) (streamPart lens bs i) acc) s

/-- A DRM frame's FAC and SDC are taken, a reconfiguration announced for it applies, its multiplex frame is taken (R184 to R186). -/
def takeDrmFrame (e p l : Nat) (a : Air) (r : DrmTiming) (n0 : Int) (s : State) : State :=
  let m := r.mode
  let g := drmGeometry m
  let sym := g.1 + g.2.1
  let cells := s.drmCells a l m r.offset n0
  let last := n0 + (drmFrameLen : Nat) - 1
  let (fac, errors) := Config.drmFac m cells
  let ok := facCrcOk fac
  let x := s.signal e p
  let first := if ok then decide (facPlace fac = 0 || facPlace fac = 3)
    else match x.superAt with
      | some q => (n0 - q) / (drmFrameLen : Nat) % (drmSuper m : Nat) == 0
      | none => false
  let kept := if ok then fac else x.fac
  let n := x.frameCount
  let flagsTo := fun (k : Nat) => s.feedFlagsOf a l n0 (n0 + (k * sym : Nat) - 1)
  let doneTo := fun (k : Nat) => s.feedInstant l (n0 + (k * sym : Nat) - 1)
  let facN := Config.facSymbols m
  let sdcN := Config.sdcSymbols m
  let sdc := if first && !kept.isEmpty then some (Config.drmSdc m kept cells) else none
  let sdcOk := match sdc with
    | some b => crc16Ok b
    | none => false
  let t := s.setSignal e p fun x =>
    { x with
      mode := m, frameAt := some n0, frameCount := n + 1, freqOffset := r.offset, fac := kept
      occupancy := if ok then facOccupancy fac else x.occupancy
      superAt := if first then some n0 else x.superAt
      drmFrames := (⟨n0, cells, s.drmErasedTo l m n0 g.2.2, s.feedFlagsOf a l n0 last⟩ :: x.drmFrames).take 6
      ctrlGood := x.ctrlGood || ok, ctrlTotal := x.ctrlTotal + 1, ctrlFail := x.ctrlFail + b2n (!ok)
      sdcTotal := x.sdcTotal + b2n sdc.isSome, sdcFail := x.sdcFail + b2n (sdc.isSome && !sdcOk)
      berBits := x.berBits + fac.length, berErrors := x.berErrors + errors
      merNow := Config.cellPowers [] cells
      merSum := (x.merSum.1 + (Config.cellPowers [] cells).1, x.merSum.2 + (Config.cellPowers [] cells).2)
      merFollow := (x.merFollow.1 + (Config.cellPowers [] cells).1, x.merFollow.2 + (Config.cellPowers [] cells).2)
      reconfigAt := if ok && first && facReconfig fac ≠ 0 then some (n + facReconfig fac * drmSuper m) else x.reconfigAt
      erasedSeen := x.erasedSeen || s.drmErasedTo l m n0 facN }
  let t := if x.reconfigAt = some n then reconfigureDrm e p n t else t
  let facRec : List EngineRec := if deliverCtrl (s.engineEntryAt e (doneTo facN)).ctrlDelivery ok then
    [{ doneAt := doneTo facN, position := p, erased := s.drmErasedTo l m n0 facN, flags := flagsTo facN
       bytes := engineRecord 0x11 p (le 8 (s.feedInstant l n0) ++ le 1 (b2n ok + 2 * b2n (s.drmErasedTo l m n0 facN)) ++ le 1 fac.length ++ le 2 0
         ++ padTo 16 (bytesOf (fac ++ List.replicate ((8 - fac.length % 8) % 8) false))) }] else []
  let sdcRec : List EngineRec := match sdc with
    | some b => if deliverCtrl (s.engineEntryAt e (doneTo sdcN)).ctrlDelivery sdcOk then
        [{ doneAt := doneTo sdcN, position := p, erased := s.drmErasedTo l m n0 sdcN, flags := flagsTo sdcN
           bytes := engineRecord 0x12 p (le 8 (s.feedInstant l n0) ++ le 1 (b2n sdcOk + 2 * b2n (s.drmErasedTo l m n0 sdcN)) ++ le 1 0 ++ le 2 b.length ++ b) }] else []
    | none => []
  let figs := match sdc with
    | some b => if sdcOk then Config.sdcEntities b else []
    | none => []
  let t := takeEntries e p figs (fun x => !x.current.accepted.isEmpty) (fun x => x.current.multiplex.length) (addSide e (facRec ++ sdcRec) t)
  takeMultiplex e p l (s.feedInstant l last) t

/-- A DRM transmission frame, once it has come in: synchronisation, FAC, SDC, reconfiguration, MSC outputs (R171, R184 to R186). -/
def execDrmFrame (e p : Nat) (air : Air) (s : State) : Res :=
  let c := s.cfg.active.engines.get e
  let x := s.signal e p
  match s.feedLane e p with
  | none => .next s
  | some l =>
    let r := s.drmTiming air e p l
    let here := fun (n0 : Int) => decide (n0 + (drmFrameLen : Nat) ≤ s.feedNow l s.now + 1)
    onlyIf (s.engineRuns e .drm && c.positions.contains p) s
      (match x.synced, x.frameAt with
       | true, some f =>
         let (found, n0) := frameAfter f drmFrameLen (r.1.present && decide (r.1.mode = x.mode)) r.2
         if !here n0 then s else
         let kept := found || s.drmErased l x.mode n0 0
         let t := frameSync e p (s.feedInstant l (n0 + (drmFrameLen : Nat))) kept s
         if (t.signal e p).synced then takeDrmFrame e p l air (if found then r.1 else { r.1 with mode := x.mode, offset := x.freqOffset }) n0 t else t
       | _, _ =>
         if r.1.present && decide (r.1.offset.natAbs ≤ c.freqSearch * 10000) && here r.2 then takeDrmFrame e p l air r.1 r.2 (frameSync e p 0 true s) else s)

/-! ### TII (R181 to R183) -/

/-- The bytes of one TII entry. -/
def TiiEntry.bytes (x : TiiEntry) : List Byte :=
  leInt 4 x.delay ++ leInt 2 (x.pathPower.getD noLevel) ++ leInt 2 (x.snr.getD noLevel) ++ le 1 x.main ++ le 1 x.sub
  ++ le 1 (b2n x.pathPower.isSome + 2 * b2n x.snr.isSome + 4 * b2n x.shared + 8 * b2n x.beyondGuard) ++ zeros 5

/-- TII_NEW when a combination is first detected, TII_GONE after two periods without it (R183). -/
def tiiEvents (e : Nat) (found : List TiiEntry) (s : State) : State :=
  let seen := (s.ofdm.engines.get e).tiiSeen
  let s := (found.filter fun x => !seen.any fun y => y.main == x.main && y.sub == x.sub).foldl
    (fun acc x => raise .tiiNew (engineDie e) [.w e, .w x.main, .w x.sub, .w x.delay] acc) s
  let aged := seen.map fun y => if found.any fun x => x.main == y.main && x.sub == y.sub then { y with absent := 0 } else { y with absent := y.absent + 1 }
  let s := (aged.filter fun y => 2 ≤ y.absent).foldl (fun acc y => raise .tiiGone (engineDie e) [.w e, .w y.main, .w y.sub, .w 0] acc) s
  let fresh := found.filterMap fun x => if seen.any fun y => y.main == x.main && y.sub == x.sub then none else some ⟨x.main, x.sub, 0⟩
  s.setEngine e fun z => { z with tiiSeen := aged.filter (fun y => y.absent < 2) ++ fresh }

/-- The entries of a TII record, at most 40: the paths of the averaged profile and the combinations of the averaged powers (R180 to R182). -/
def EngineEntry.tiiFound (c : EngineEntry) (y : TiiAcc) : List TiiEntry :=
  (tiiEntries (pathsOf c.pathThreshold (y.profile.map (· / y.frames))) (combinationsOf c.tiiThreshold y.sums y.noise) y.noise).take 40

/-- ARRIVAL in units of 1/65,536 count: the represented instant of the null symbol of the last frame, later by the earliest path's delay in 1/8 sample (R183). -/
def State.arrival (s : State) (l : Nat) (last delay8 : Int) : Nat :=
  let c := s.taps.lanes.get l
  ((c.instantAt last * 8 + delay8 * 64 * (rateP192 c.rateClass : Nat)) * 65536 / (12288 * 8)).toNat

/-- A TII period ends with its last frame: the TII record from the averaged profile and powers (R180 to R183). -/
def execTiiPeriodEnd (e : Nat) (s : State) : Res :=
  let x := s.signal e 0
  let y := (s.ofdm.engines.get e).tii
  let c := s.engineEntryAt e y.doneAt
  match s.feedLane e 0 with
  | none => .next s
  | some l =>
    onlyIf (s.engineRuns e .dab && c.tiiOn && x.synced && decide (c.tiiFrames ≤ y.frames)) s
      (let profile := y.profile.map (· / y.frames)
       let ps := pathsOf c.pathThreshold profile
       let es := c.tiiFound y
       let at_ := s.arrival l y.last (match ps with
         | p :: _ => p.delay
         | [] => 0)
       let r : EngineRec := { doneAt := y.doneAt, position := 0, erased := y.erased, flags := y.flags
                              bytes := engineRecord 0x14 0 (le 8 y.start ++ le 8 (at_ / 65536) ++ le 2 (at_ % 65536) ++ le 1 es.length ++ le 1 y.frames
                                ++ le 2 (x.eid.getD 0) ++ leInt 2 (db100 (median profile) (profile.foldl max 0)) ++ zeros 4 ++ es.flatMap TiiEntry.bytes) }
       tiiEvents e (es.filter fun z => z.snr.isSome) (addSide e [r] (s.setEngine e fun z => { z with tii := {} })))

/-! ### Blocks (R187, R188) -/

/-- Insert a record in order of completion instant, then of position (R187). -/
def insertRec (r : EngineRec) : List EngineRec → List EngineRec
  | [] => [r]
  | x :: xs => if r.doneAt < x.doneAt || (r.doneAt = x.doneAt && r.position < x.position) then r :: x :: xs else x :: insertRec r xs

def sortRecs (rs : List EngineRec) : List EngineRec := rs.foldl (fun acc r => insertRec r acc) []

/-- The feed lanes of an engine. -/
def State.feedLanes (s : State) (e : Nat) : List Nat := (s.cfg.active.engines.get e).positions.filterMap (s.feedLane e)

/-- The records of a span by position, for the leaves (15 R407). -/
def recNotes (e t0 : Nat) (tag : NoteTag) (rs : List EngineRec) (s : State) : State :=
  (sortRecs rs).foldl (fun acc r => note { kind := 2, index := e, position := r.position, at_ := t0, tag := tag, bytes := r.bytes } acc) s

/-- The earliest completion instant that a record not yet made may have (R187): that of the first symbol of what comes next. -/
def State.nextDone (s : State) (e p l : Nat) : Option Nat :=
  let x := s.signal e p
  match x.synced, x.frameAt with
  | true, some f =>
    some (if (s.cfg.active.engines.get e).cls = .dab then
        (if x.cifsDone < 4 then s.feedInstant l (f + (dabOffset (cifSymbol x.cifsDone + 1) : Nat) - 1) else s.feedInstant l (f + (dabFrameLen + dabOffset 3 : Nat) - 1))
      else s.feedInstant l (f + (drmFrameLen + (drmGeometry x.mode).1 : Nat)))
  | _, _ => none

/-- Every record that completes before `t1` has been made: the feed has come in up to it and what it completes is taken (R187). -/
def State.engineCaughtUp (s : State) (e t1 : Nat) : Bool :=
  (s.cfg.active.engines.get e).positions.all fun p => match s.feedLane e p with
    | some l => decide (t1 ≤ s.feedInstant l (s.feedNow l s.now)) && (match s.nextDone e p l with
        | some t => decide (t1 ≤ t)
        | none => true)
    | none => true

/-- The end of the span of an engine's records that is next (R187). -/
def State.engineSpanEnd (s : State) (e : Nat) : Nat :=
  let x := (s.ofdm.engines.get e).spanTo
  if x = 0 then s.now / 10000000 * 10000000 else min (x + 10000000) (s.now / 10000000 * 10000000)

/-- A 100 ms span ends: side-data and access-unit blocks of the records completed in it, even when empty; `late`: the engine exhausted its budget (R187, R188, 01 R27). -/
def execEngineRecordSpanEnd (e : Nat) (late : Bool) (s : State) : Res :=
  let x := s.ofdm.engines.get e
  let t1 := s.engineSpanEnd e
  let t0 := t1 - 10000000
  let c := s.cfg.active.engines.get e
  let inSpan := fun (r : EngineRec) => decide (r.doneAt < t1)
  let base := s.clockFlags (engineDie e) [] t0 t1 + flagIf late flLate
  let sel := fun (r : RouteEntry) => maskBit r.engineMask (e % 4)
  let blk := fun (cls : DelClass) (format : Nat) (rs : List EngineRec) (u : State) =>
    formRecordBlocks cls sel 65536 ((sortRecs rs).map (·.bytes))
      { format := format, srcType := 3, srcIndex := e, die := engineDie e, timestamp := t0, sampleCount := 0
        flags := rs.foldl (fun acc r => acc ||| r.flags) (base ||| flagIf (rs.any (·.erased) || s.frozenIn (engineDie e) t0 t1) flSuppressed), payload := []
        gain := s.spanMark ((s.feedLanes e).flatMap s.laneCourses) t0 t1 } u
  onlyIf (decide (e < s.dies * 4) && decide (c.cls ≠ .off) && s.dieUp (engineDie e) && s.mode.mode != .idle && decide (x.spanTo < t1)
      && (s.engineUnserved e || s.engineCaughtUp e t1)) s
    (let side := if s.engineUnserved e then [] else x.side.filter inSpan
     let units := if s.engineUnserved e then [] else x.units.filter inSpan
     let t := s.setEngine e fun z => { z with side := z.side.filter (fun r => !inSpan r), units := z.units.filter (fun r => !inSpan r), spanTo := t1 }
     blk .accessUnits 0x0201 units (blk .sideData 0x0302 side (recNotes e t0 .au units (recNotes e t0 .side side t))))

/-- STATE of an engine measurement record. -/
def SignalSt.stateCode (x : SignalSt) : Nat :=
  if x.decoding then 4 else if x.complete then 3 else if x.ctrlGood then 2 else if x.synced then 1 else 0

/-- Flags of a sub-channel's entry in the measurement record. -/
def FigSet.subFlags (x : FigSet) (id : Nat) : Nat :=
  let has := fun (p : Fig → Bool) => x.accepted.any p
  b2n (has fun f => match f with
    | .component _ _ sub a .. => sub == id && a
    | _ => false)
  + 2 * b2n (has fun f => match f with
    | .packet _ sub _ => sub == id
    | _ => false)
  + 4 * b2n (x.scrambled id)
  + 8 * b2n (has fun f => match f with
    | .component _ _ sub _ dp _ => sub == id && dp
    | _ => false)

/-- What an engine measured of a position over [t0, t1): valid feed samples and their powers (R150, 06 engine measurement record). -/
def State.feedPowers (s : State) (a : Air) (l t0 t1 : Nat) : List Nat :=
  let c := s.taps.lanes.get l
  let n0 := c.indexAt t0
  (s.feedSamples a l n0 (c.indexAt t1 - n0).toNat).filterMap fun x => x.map Smp.power

/-- CHANNEL_BER in 10^−6. -/
def SignalSt.channelBer (x : SignalSt) : Nat := if x.berBits = 0 then 0 else x.berErrors * 1000000 / x.berBits

/-- A MER in 0.01 dB; none without data cells. -/
def merOf (p : Nat × Nat) : Option Int := if p = (0, 0) then none else some (db100 p.1 p.2)

/-- The measurement record of a position (06). -/
def State.engineRecordOf (s : State) (e p t0 : Nat) (powers : List Nat) : List Byte :=
  let c := s.cfg.active.engines.get e
  let x := s.signal e p
  let l := (s.feedLane e p).getD 0
  let n := s.clusterCourse (laneCluster l)
  let conv := ((s.front.courses.get n).leader).getD 0
  let v := powers.length
  let q := fun (k : Nat) => if v = 0 then 0 else k
  let ids := if c.cls = .dab then x.current.subchs else List.range x.current.multiplex.length
  let mode := if c.cls = .dab then 0 else x.mode
  le 4 v ++ le 1 p ++ le 1 x.stateCode ++ le 1 (mode + 8 * x.occupancy) ++ le 1 (b2n x.erasedSeen + 2 * b2n x.restartSeen + 4 * b2n x.reconfigSeen)
  ++ leInt 2 (s.levelField n conv (s.cfg.active.lanes.get l).fLane v t0 (meanLevel powers)) ++ leInt 2 (if v = 0 then noLevel else (merOf x.merSum).getD noLevel)
  ++ leInt 4 (ifValid v x.freqOffset) ++ le 2 (q x.ctrlTotal) ++ le 2 (q x.ctrlFail)
  ++ le 2 (if c.cls = .dab then 0 else q x.sdcTotal) ++ le 2 (if c.cls = .dab then 0 else q x.sdcFail) ++ le 4 (q x.channelBer)
  ++ le 1 ids.length ++ zeros 3
  ++ ids.flatMap fun id =>
    let y := x.sub id
    le 1 id ++ le 1 (if c.cls = .dab then x.current.subFlags id else b2n (x.current.codec id).isSome) ++ le 2 (q y.auTotal) ++ le 2 (q y.auFail) ++ le 2 (q y.rsFail)

/-- The period's counts start again. -/
def SignalSt.endPeriod (x : SignalSt) : SignalSt :=
  { x with ctrlTotal := 0, ctrlFail := 0, sdcTotal := 0, sdcFail := 0, berBits := 0, berErrors := 0, merSum := (0, 0)
           erasedSeen := false, restartSeen := false, reconfigSeen := false
           subs := x.subs.map fun y => { y with auTotal := 0, auFail := 0, rsFail := 0 } }

/-- Flags that an engine's measurement block takes from its feed blocks over [t0, t1) (R188). -/
def State.feedFlags (s : State) (a : Air) (e t0 t1 : Nat) : Nat :=
  (s.feedLanes e).foldl (fun acc l =>
    let c := s.taps.lanes.get l
    acc ||| s.feedFlagsOf a l (c.indexAt t0) (c.indexAt t1 - 1)) (s.clockFlags (engineDie e) [] t0 t1)

/-- Counts of an engine's measurement period: 100 ms or 1 s (R167). -/
def EngineEntry.measCounts (c : EngineEntry) : Nat := if c.measLong then 100000000 else 10000000

/-- The end of an engine's measurement period that is next. -/
def State.engineMeasEnd (s : State) (e : Nat) : Nat :=
  let p := (s.cfg.active.engines.get e).measCounts
  let y := (s.ofdm.engines.get e).measuredTo
  if y = 0 then s.now / p * p else min (y / p * p + p) (s.now / p * p)

/-- An engine's measurement period ends: one record per assigned position, none of an index left unserved (R187, R194). -/
def execEngineMeasPeriodEnd (e : Nat) (air : Air) (late : Bool) (s : State) : Res :=
  let c := s.cfg.active.engines.get e
  let t1 := s.engineMeasEnd e
  let t0 := t1 - c.measCounts
  let pos := if s.engineUnserved e then [] else c.positions
  let of := fun (k : Nat) => match s.feedLane e k with
    | some l => s.feedPowers air l t0 t1
    | none => []
  let recs := pos.map fun k => s.engineRecordOf e k t0 (of k)
  let flags := s.feedFlags air e t0 t1 ||| flagIf late flLate ||| flagIf (pos.all fun k => (of k).isEmpty) flSuppressed
  onlyIf (decide (e < s.dies * 4) && decide (c.cls ≠ .off) && s.dieUp (engineDie e) && decide ((s.ofdm.engines.get e).measuredTo < t1)
      && (s.engineUnserved e || s.engineCaughtUp e t1)) s
    (formRouted .measurement (fun r => maskBit r.engineMask (e % 4))
      { format := 0x0404, srcType := 3, srcIndex := e, die := engineDie e, timestamp := t0, sampleCount := pos.length
        flags := flags, payload := recs.flatten
        gain := s.spanMark ((s.feedLanes e).flatMap s.laneCourses) t0 t1 }
      (pos.foldl (fun acc k =>
        let y := s.signal e k
        let vals : List Int := [y.ctrlTotal, y.ctrlFail, (y.subs.map (·.auTotal)).sum, (y.subs.map (·.auFail)).sum, (merOf y.merSum).getD noLevel, ((of k).length : Nat), (flags : Nat)]
        note { kind := 2, index := e, position := k, at_ := t0, tag := .period, vals := vals } (acc.setSignal e k SignalSt.endPeriod))
        (s.setEngine e fun z => { z with measuredTo := t1 })))

/-! ### Cross-assay, charges, moves (R191 to R195) -/

/-- The index behind which a die's physical engine stands. -/
def State.indexOfPhys (s : State) (d p : Nat) : Nat :=
  (((List.range 4).map (d * 4 + ·)).find? fun e => s.physEngine e = p).getD (d * 4 + p)

/-- The other engine of a region. -/
def partnerOf (p : Nat) : Nat := if p % 2 = 0 then p + 1 else p - 1

/-- An entry of the active set, of an engine or of a follow set, assigns something to the index (01 R32). -/
def ConfigSet.assignsEngine (c : ConfigSet) (e : Nat) : Bool := (c.engines.get e).cls != .off || c.followEngines.contains e

/-- A free index of a die: nothing assigned, its physical engine in service (01 R32). -/
def State.freeEngine (s : State) (d : Nat) : Option Nat :=
  ((List.range 4).map (d * 4 + ·)).find? fun e => !s.cfg.active.assignsEngine e && !s.retired (engineRef d (s.physEngine e))

/-- The physical engines behind two indices exchanged (R194). -/
def exchangeEngines (a b : Nat) (s : State) : State :=
  let pa := s.physEngine a
  let pb := s.physEngine b
  let norm := fun (e p : Nat) => if e % 4 = p then none else some p
  { s with nv := { s.nv with engineMap := (s.nv.engineMap.set a (norm a pb)).set b (norm b pa) } }

/-- A physical engine retired, for a lasting fault (1) or by command (2): its work moves to a free engine of the die and restarts there, or stays undecoded (R194). -/
def retireEngine (d p cause : Nat) (s : State) : State :=
  let e := s.indexOfPhys d p
  let pos := (s.cfg.active.engines.get e).positions
  let s := raise .unitRetired d [.w UnitKind.engine.type, .w d, .w p, .w cause] (retireUnit (engineRef d p) s)
  let s := s.setRegion (d * 2 + p / 2) fun x => { x with checking := none, copy := none, difference := none }
  if !s.cfg.active.assignsEngine e then refresh s
  else match s.freeEngine d with
    | some f =>
      let q := s.physEngine f
      let s := exchangeEngines e f s
      let s := powerMask d (2 ^ (10 + q / 2)) s
      let s := pos.foldl (fun acc k => restartHere e k acc) s
      refresh (raise .engineMoved d [.w p, .w q, .w e] s)
    | none => refresh (raise .engineUnserved d [.w e, .w (maskOf 8 pos.contains)] (s.setEngine e fun x => { x with side := [], units := [] }))

/-- A charge against a physical engine found by its checker (R193); lasting charges retire it. -/
def chargeEngine (d p checker window : Nat) (s : State) : State :=
  if s.retired (engineRef d p) then s else
  let s := s.setPhys d p fun x => { x with charges := satInc x.charges }
  let s := raise .engineMismatch d [.w (d * 4 + p), .w (d * 4 + checker), .q window] s
  let r := occur 4 (engineRef d p) s
  if r.1 then retireEngine d p 1 r.2 else r.2

/-- The region's cross-assay runs: both engines in service (R195), but for a restore under way. Vectors and windows are checked by the partner. -/
def State.crossAssays (s : State) (d p : Nat) : Bool :=
  let g := d * 2 + p / 2
  let bad := fun q => s.retired (engineRef d q) && !((s.ofdm.regions.get g).restore == some (q, true))
  decide (d < s.dies) && decide (p < 4) && s.dieRuns d && !bad p && !bad (partnerOf p)

/-- Where in each second of SYSTIME the windows begin in which a physical engine checks its partner: the even one at 100 ms, the odd one at 600 ms (R191). -/
def windowAt (p : Nat) : Nat := if p % 2 = 0 then 10000000 else 60000000

/-- Engine `p` has a partner to check: one with an assignment, or one whose UNIT_RESTORE waits for its window; an engine with none is checked by its vectors only (R192, R195). -/
def State.checksPartner (s : State) (d p : Nat) : Bool :=
  s.cfg.active.assignsEngine (s.indexOfPhys d (partnerOf p)) || (s.ofdm.regions.get (d * 2 + p / 2)).restore == some (partnerOf p, true)

/-- A 24 ms window starts, at 100 ms of the second for the engine with the even index and at 600 ms for the odd: the checked engine copies its state to the checker `p` (R191). -/
def execCrossAssayWindow (d p : Nat) (s : State) : Res :=
  onlyIf (s.crossAssays d p && s.checksPartner d p && decide (s.now % countsPerSecond = windowAt p)) s
    (s.setRegion (d * 2 + p / 2) fun x => { x with checking := some (p, s.now), copy := some (s.ofdm.engines.get (s.indexOfPhys d (partnerOf p))), difference := none })

/-- UNIT_RESTORE of an engine ends: free under the index it holds, or retired again (R195). -/
def endEngineRestore (d p : Nat) (clean : Bool) (s : State) : State :=
  let s := s.setRegion (d * 2 + p / 2) fun x => { x with restore := none }
  let e := s.indexOfPhys d p
  let w := fun (x : Wait) => decide (x = .restore (engineRef d p))
  let s := if clean then unretireUnit (engineRef d p) s else s
  let s := raise .engineRestored d [.w (if clean then e else 0xFFFFFFFF)] s
  completeWait w .ok (b2n (!clean)) (refresh s)

/-- The checker has repeated the window: clean, or a difference (R191, R193). -/
def execCrossAssayCompareEnd (d region : Nat) (differs : Bool) (s : State) : Res :=
  let g := d * 2 + region
  let x := s.ofdm.regions.get g
  match x.checking with
  | none => .next s
  | some (p, start) =>
    onlyIf (decide (d < s.dies) && s.dieRuns d && decide (region < 2) && decide (start + 2400000 ≤ s.now)) s
      (let t := s.setRegion g fun x => { x with checking := none, copy := none }
       let q := partnerOf p
       match x.restore with
       | some (r, true) =>
         if r = q then endEngineRestore d q (!differs) t
         else if differs then t.setRegion g fun x => { x with difference := some ⟨p, q, start⟩ } else t.setPhys d q fun y => { y with lastCheckTick := tick32 s.now }
       | _ =>
         if differs then t.setRegion g fun x => { x with difference := some ⟨p, q, start⟩ }
         else t.setPhys d q fun y => { y with lastCheckTick := tick32 s.now })

/-- An engine's known-answer vectors, once in each 1 s period, or those of UNIT_RESTORE: a function unit that fails is a difference that its partner finds (R192, R193, R195). -/
def execEngineKatVectors (d p : Nat) (failed : List EngineUnit) (s : State) : Res :=
  let g := d * 2 + p / 2
  let x := s.ofdm.regions.get g
  let period := s.now / countsPerSecond
  onlyIf (decide (d < s.dies) && decide (p < 4) && s.dieRuns d) s
    (if x.restore = some (p, false) then
       (if failed.isEmpty then s.setRegion g fun x => { x with restore := some (p, true) } else endEngineRestore d p false s)
     else if !s.crossAssays d p || decide (period < (s.ofdm.phys.get (d * 4 + p)).katNext) then s
     else
       let s := s.setPhys d p fun y => { y with katNext := period + 1 }
       if !failed.isEmpty && x.difference.isNone then s.setRegion g fun x => { x with difference := some ⟨partnerOf p, p, s.now⟩ } else s)

/-- The vectors of both engines and the repeat end: an engine whose vectors fail is charged; if both pass, the checker where its repeat differs from its own first result, else the partner (R193). -/
def execEngineDifferenceResolved (d region : Nat) (checkerFailed partnerFailed : List EngineUnit) (repeatDiffers : Bool) (s : State) : Res :=
  let g := d * 2 + region
  match (s.ofdm.regions.get g).difference with
  | none => .next s
  | some f =>
    onlyIf (decide (d < s.dies) && s.dieRuns d && decide (region < 2)) s
      (let t := s.setRegion g fun x => { x with difference := none }
       if checkerFailed.isEmpty && partnerFailed.isEmpty then
         (if repeatDiffers then chargeEngine d f.checker f.checker f.window t else chargeEngine d f.partner f.checker f.window t)
       else
         let t := if checkerFailed.isEmpty then t else chargeEngine d f.checker f.partner f.window t
         if partnerFailed.isEmpty then t else chargeEngine d f.partner f.checker f.window t)

end Sys2Proof.Machine
end

