-- ==== Sys2Proof/Machine/PortAudio.lean ====
section
/-!
DEFINITION. What an input port makes of its bits (09 R266 to R270): decimation, samples on the 48 kS/s grid, suppressed ones.
-/
namespace Sys2Proof.Machine

/-! ### Suppressed samples (R268, R270) -/

/-- Half the input window in 1/128 frame: 1,035 bit periods at 3.072 MHz, 2,073 at 6.144 MHz, and the follower's 32 frames under AMCLK (R266, R268). -/
def PortSt.window128 (x : PortSt) : Nat :=
  (if x.entry.bclkFast then 2073 else 2070) + if x.entry.amclk then 32 * 128 else 0

/-- The sample of index `n` lies in a suppressed span, or its window reaches back before the end of one (R268). -/
def PortSt.isSuppressed (x : PortSt) (n : Nat) : Bool :=
  x.suppressed.any fun sp => decide (sp.start * 3 ≤ n * 6250) && (match sp.stop with
    | some e => decide (n * 128 * 3125 < e * 192 + x.window128 * 3125)
    | none => true)

/-- Grid index `n` lies in a span. -/
def inSpan (n : Nat) (sp : TimeSpan) : Bool :=
  decide (sp.start * 3 ≤ n * 6250) && (match sp.stop with
    | some e => decide (n * 6250 < e * 3)
    | none => true)

/-- A line is stuck at grid index `n` (R270). -/
def PortSt.stuckAt (x : PortSt) (line n : Nat) : Bool := x.stuck.any fun q => q.line == line && inSpan n q.span

/-! ### Decimation (R266) -/

/-- Received bits as a signal: +1 or −1, times 2^23. -/
def bitSignal (b : Int → Bool) : Sig := fun n => { re := if b n then 8388608 else -8388608 }

/-- The seven-tap binomial pre-decimator of 6.144 MHz (R266). -/
def preDecimate (x : Sig) : Sig := fun i =>
  weigh 64 (([1, 6, 15, 20, 15, 6, 1] : List Int).zipIdx.map fun c => (c.1, x (2 * i + (c.2 : Int) - 3)))

/-- The decimation to 48 kHz: three HB-A, two HB-B and one HB-C stage (R266); words wide enough that none saturates. -/
def decimated (fast : Bool) (b : Int → Bool) : Sig :=
  runStages 40 false [.a, .a, .a, .b, .b, .c] (if fast then preDecimate (bitSignal b) else bitSignal b)

/-! ### Samples on the grid (R254, R267) -/

/-- A resampler of 64 taps and 1,024 phases with linear interpolation between adjacent ones, as 04 R114 gives it: the value `rem`/`den` of a sample behind place `i0` of `x`. -/
def resampledAt (den rem : Int) (x : Int → Int) (i0 : Int) : Int :=
  let ph := (rem * 1024 / den).toNat
  let r := rem * 1024 % den
  roundDiv (((List.range 64).map fun (j : Nat) => (Config.resampler ph j * (den - r) + Config.resampler (ph + 1) j * r) * x (i0 - 31 + j)).foldl (· + ·) 0) (131072 * den)

/-- The sample of a channel of input port `d` at grid index `n`, before it saturates: the decimated stream there, or, on the follower, interpolated between the frames in progress (R254, R266, R267). -/
def State.portInput (s : State) (a : Air) (d ch n : Nat) : Int :=
  let x := s.portSt (.inp d)
  let y : Int → Int := fun k => (decimated x.entry.bclkFast (a.bit d ch) k).re
  if x.onFollower then
    match a.frameAt d (n * 6250) with
    | some (k, into, len) => resampledAt len into y k
    | none => y n
  else y n

/-- The sample saturated, and whether it was (R266). -/
def inputSat (v : Int) : Int × Bool :=
  let r := max (-8388607) (min 8388607 v)
  (r, r != v)

/-- A valid sample of an input channel at grid index `n`; none where it is suppressed or its line is stuck (R268, R270). -/
def State.inputSample (s : State) (a : Air) (d ch n : Nat) : Option Int :=
  let x := s.portSt (.inp d)
  if !s.hasPort (.inp d) || !decide (x.dataStart * 3 ≤ n * 6250) || x.isSuppressed n || x.stuckAt (ch / 2) n then none
  else some (inputSat (s.portInput a d ch n)).1

end Sys2Proof.Machine
end

