-- ==== Sys2Proof/Machine/Audio.lean ====
section
/-!
DEFINITION. Programme audio (07, 08): lane audio at a slot, decoded units and the rate follower, members of a follow set and its fades, a slot's samples, correlation.
-/
namespace Sys2Proof.Machine

/-! ### The 48 kS/s grid -/

/-- The last grid index at or before a SYSTIME, and the first at or after it. -/
def gridFloor (t : Nat) : Nat := t * 3 / 6250
def gridCeil (t : Nat) : Nat := (t * 3 + 6249) / 6250

/-- A sample that is zero and carries SUPPRESSED. -/
def PcmSample.dead (fl : Nat) : PcmSample := ⟨0, 0, flSuppressed ||| fl⟩

/-! ### Lane audio (R226, R227, R244) -/

/-- D_mode: 96 samples of AM, 72 of FM (R227). -/
def laneLag (am : Bool) : Nat := if am then 96 else 72

/-- Lane audio at grid point `g` is suppressed: the sample of its air instant, of the lane or of a branch, or the demodulator has not settled (R227, 05 R138). -/
def State.laneAudioSuppressed (s : State) (l : Nat) (g : Int) : Bool :=
  let ch := s.taps.lanes.get l
  let am := (s.cfg.active.lanes.get l).mode.am
  let i := g - laneLag am
  let p := ch.before 0 i
  let a : Int := i * 25600000 - ch.delayAt p.1
  s.combinedDead l p.1 || (match (s.lanes.demods.get l).restartAt with
    | some r => decide (a < ((r + if am then 1000000 else 50000) * 12288 : Nat))
    | none => true)

/-- B of the HOLD cover that an index is under at `t` (R244). -/
def State.holdStart (s : State) (l t : Nat) : Option Nat :=
  (s.lanes.spares.get (laneCluster l)).log.findSome? fun v =>
    if v.hold && v.pos == l % 8 && decide (v.start ≤ t) && (match v.stop with
      | some e => decide (t < e)
      | none => true) then some v.start else none

/-- The grid point of a lane's last valid audio sample before `b` (R244). -/
def State.lastAudio (s : State) (l b : Nat) : Option Int :=
  ((List.range (gridCeil b)).find? fun (k : Nat) => !s.laneAudioSuppressed l ((gridCeil b : Int) - 1 - k)).map fun k => (gridCeil b : Int) - 1 - k

/-- The lane audio sample of grid point `g` with its flags: none delivers, HOLD cover repeats the last valid one, or its own (R226, R237, R244). -/
def State.laneSample (s : State) (a : Air) (l : Nat) (g : Int) : PcmSample :=
  let t := gridInstant g.toNat
  let clock := s.clockFlags (laneDie l) (s.leaderDies (s.laneCourses l)) t (t + 1)
  let of := fun (h : Int) (fl : Nat) =>
    let x := s.laneAudio a l h
    (⟨x.left, x.right, fl ||| clock ||| flagIf x.sat flSaturated⟩ : PcmSample)
  let cover := flagIf (s.coveredIn l t (t + 1)) flCovered
  if s.laneDead l || !s.dieUp (laneDie l) then .dead clock
  else match s.holdStart l t with
    | some b => match s.lastAudio l b with
      | some h => of h flStale
      | none => .dead (clock ||| flStale)
    | none => if s.frozenIn (laneDie l) t (t + 1) || s.laneAudioSuppressed l g then .dead (clock ||| cover) else of g cover

/-! ### Decoded units and the follower (R228, R229, R233)

Places in a decoded stream, delays and air instants are in 10^−9 of a 48 kHz sample. -/

/-- One 48 kHz sample, one count, one millisecond. -/
def placeStep : Int := 1000000000
def placeCount : Int := 480000
def placeMs : Int := 48000000000

/-- `n` samples at rate `f`. -/
def placeSpan (n f : Nat) : Int := if f = 0 then 0 else (n * 48000000000000 / f : Nat)

/-- The end of a unit in the stream. -/
def PcmUnit.stop (u : PcmUnit) : Int := u.start + placeSpan u.samples.length u.rate

/-- The air instant C_u + j / F_out of a unit's first sample (R228). -/
def PcmUnit.air (u : PcmUnit) : Int := u.base * placeCount + placeSpan u.first u.rate

/-- The same of a unit that waits. -/
def HeldUnit.air (u : HeldUnit) : Int := u.unit.doneAt * placeCount + placeSpan u.first u.rate

/-- x_n: the place that the follower reads at grid point `n`; none before it has anchored (R233). -/
def ContextSt.placeAt (y : ContextSt) (n : Int) : Option Int :=
  (y.segs.find? fun q => decide (q.at_ ≤ n)).map fun q => q.place + (n - q.at_) * (placeStep + q.corr)

/-- The unit that holds a place. -/
def ContextSt.unitAt (y : ContextSt) (z : Int) : Option PcmUnit := y.units.find? fun u => decide (u.start ≤ z) && decide (z < u.stop)

/-- The end of what is decoded. -/
def ContextSt.stop (y : ContextSt) : Int := (y.units.head?.map PcmUnit.stop).getD 0

/-- Samples of the kept units in order, and the index of a unit's first among them. -/
def ContextSt.stream (y : ContextSt) : List (Int × Int) := y.units.reverse.flatMap (·.samples)
def ContextSt.indexOf (y : ContextSt) (u : PcmUnit) : Nat := ((y.units.filter fun v => decide (v.start < u.start)).map (·.samples.length)).sum

/-- The stream's sample at a place, by the resampler of 04 R114: saturated, with its flags; FILL where no unit fills the place (R231, R233, R234). -/
def ContextSt.sampleAt (y : ContextSt) (z : Int) : PcmSample :=
  match y.unitAt z with
  | none => ⟨0, 0, flFill⟩
  | some u =>
    let num := (z - u.start) * u.rate
    let den : Int := 48000000000000
    let xs := y.stream
    let i0 : Int := y.indexOf u + num / den
    let at_ := fun (g : Int × Int → Int) => resampledAt den (num % den) (fun k => if k < 0 then 0 else g (xs.getD k.toNat (0, 0))) i0
    let l := at_ (·.1)
    let r := at_ (·.2)
    let fl := u.flags ||| flagIf (decide (num / den < u.overlap)) flFill
    if u.flags &&& (flLate ||| flMuted) != 0 then ⟨0, 0, fl⟩
    else ⟨satWord 24 l, satWord 24 r, fl ||| flagIf (satWord 24 l != l || satWord 24 r != r) flSaturated⟩

/-- The decoded sample at grid point `n`: SUPPRESSED before the follower has anchored (R236). -/
def State.contextSample (s : State) (k : Nat) (n : Int) : PcmSample :=
  match (s.audio.contexts.get k).placeAt n with
  | some z => (s.audio.contexts.get k).sampleAt z
  | none => .dead 0

/-- Availability span of a codec in counts (R229). -/
def codecSpan : Nat → Nat
  | 0 => 3200000
  | 2 => 8200000
  | _ => 6200000

/-- The delay in 1/16 sample of the member of a follow set that has a context. -/
def State.memberDelayOf (s : State) (f k : Nat) : Nat :=
  let x := s.audio.follows.get f
  let m := (List.range 4).find? fun m => ((s.cfg.active.follows.get f).members.getD m {}).context == some k
  if m = some x.playing then x.dPlaying else x.dStandby

/-- The effective delay of a context's follower: the larger of SLOT_DELAY, or its member's delay, and the span of the codec in force (R229, R233). -/
def State.contextDelay (s : State) (k : Nat) : Int :=
  let span : Int := match (s.audio.contexts.get k).codec with
    | some c => codecSpan c * placeCount
    | none => 0
  match s.contextSlot k with
  | none => span
  | some x =>
    let e := s.cfg.active.slots.get x
    if e.source = .decode then max (e.slotDelay * placeMs) span else max (s.memberDelayOf e.srcIndex k * (placeStep / 16)) span

/-- ε at grid point `n`, which reads place `z` of unit `u` (R233). -/
def State.followerError (s : State) (k : Nat) (n z : Int) (u : PcmUnit) : Int := n * placeStep - (u.air + (z - u.start)) - s.contextDelay k

/-! ### Members and fades (07 R210, R212, R216, R217) -/

/-- A member's output sample at grid point `n` with delay `d16`: of its context's follower, or of its lane through the alignment buffer and interpolator (R212, 08 R233). -/
def State.memberSample (s : State) (a : Air) (f k d16 : Nat) (n : Int) : PcmSample :=
  let fm := (s.cfg.active.follows.get f).members.getD k {}
  let typ := ((s.audio.follows.get f).members.getD k {}).typ
  if sigDigital typ then (match fm.context with
    | some c => s.contextSample c n
    | none => .dead 0)
  else match fm.lane with
    | none => .dead 0
    | some l =>
      let q : Int := 16 * (n + laneLag (decide (typ = 0))) - d16
      let g := q / 16
      let ph := (q % 16).toNat
      if ph = 0 then s.laneSample a l g
      else
        let xs := (List.range 32).map fun (i : Nat) => (Config.alignFilter ph i, s.laneSample a l (g - 15 + i))
        let sum := fun (h : PcmSample → Int) => satWord 24 (roundDiv (xs.foldl (fun acc x => acc + x.1 * h x.2) 0) 131072)
        ⟨sum (·.left), sum (·.right), xs.foldl (fun acc x => acc ||| x.2.flags) 0⟩

/-- A member's sample of the air instant of grid point `m`, for correlation (R210). -/
def State.memberAir (s : State) (a : Air) (f k : Nat) (m : Int) : PcmSample :=
  let fm := (s.cfg.active.follows.get f).members.getD k {}
  let typ := ((s.audio.follows.get f).members.getD k {}).typ
  if sigDigital typ then (match fm.context with
    | some c =>
      let y := s.audio.contexts.get c
      let at_ := m * placeStep
      match y.units.find? fun u => decide (u.air ≤ at_) && decide (at_ < u.air + (u.stop - u.start)) with
      | some u => y.sampleAt (u.start + (at_ - u.air))
      | none => .dead 0
    | none => .dead 0)
  else match fm.lane with
    | some l => s.laneSample a l (m + laneLag (decide (typ = 0)))
    | none => .dead 0

/-- sin(π a / 2 b) for 0 ≤ a ≤ b, rounded to 2^−30: its power series with 100 fractional bits. -/
def quarterSine (a b : Nat) : Int :=
  let x : Int := 3141592653589793238462643383280 * 2 ^ 100 * a / (2 * b * 10 ^ 30)
  let terms := (List.range 20).foldl (fun (acc : Int × Int) k =>
    let t := acc.2
    (acc.1 + t, -(t * x / 2 ^ 100) * x / 2 ^ 100 / ((2 * k + 2) * (2 * k + 3) : Nat))) (0, x)
  roundDiv terms.1 (2 ^ 70)

/-- The gains of sample `i` of a fade of `n` samples: out, in, and what they are in units of (R216). -/
def fadeGains (equalPower : Bool) (n i : Nat) : Int × Int × Int :=
  if equalPower then (quarterSine (2 * n - (2 * i + 1)) (2 * n), quarterSine (2 * i + 1) (2 * n), 2 ^ 30)
  else ((2 * n : Int) - (2 * i + 1), 2 * i + 1, 2 * n)

/-- The flags that an output sample takes of a member's: SUPPRESSED, SATURATED, STALE, CLOCK_SUSPECT, LATE, FILL, COVERED, HOLDOVER, and MUTED of an unsupported codec (R217, R237). -/
def sourceFlags : Nat := 0x5BF

/-- A sample of a fade (R216, R217). -/
def State.fadeSample (s : State) (a : Air) (f : Nat) (d : Fade) (n : Nat) : PcmSample :=
  let i := n - gridCeil d.f0
  let g := fadeGains (s.cfg.active.follows.get f).equalPower (gridCeil d.f1 - gridCeil d.f0) i
  let p := s.memberSample a f d.from_ d.dFrom n
  let q := s.memberSample a f d.to_ d.dTo n
  let live := fun (x : PcmSample) => if x.flags &&& flSuppressed != 0 then (0, 0) else (x.left, x.right)
  let mix := fun (x y : Int) => roundDiv (g.1 * x + g.2.1 * y) g.2.2
  let l := mix (live p).1 (live q).1
  let r := mix (live p).2 (live q).2
  ⟨satWord 24 l, satWord 24 r, (p.flags ||| q.flags) ||| flagIf (satWord 24 l != l || satWord 24 r != r) flSaturated⟩

/-- A follow set's output sample: the playing member's at its delay, or a fade's (R212, R216). -/
def State.followSample (s : State) (a : Air) (f n : Nat) : PcmSample :=
  let x := s.audio.follows.get f
  let before := fun (t : Nat) => decide (n < gridCeil t)
  let now := match x.fade with
    | some d => if before d.f0 then none else if before d.f1 then some (s.fadeSample a f d n) else some (s.memberSample a f d.to_ d.dTo n)
    | none => none
  match now, x.faded with
  | some p, _ => p
  | none, some d => if before d.f0 then s.memberSample a f d.from_ d.dFrom n else if before d.f1 then s.fadeSample a f d n else s.memberSample a f x.playing x.dPlaying n
  | none, none => s.memberSample a f x.playing x.dPlaying n

/-! ### A slot's samples (R237 to R248) -/

/-- The lanes behind a slot: its source lane, the feed of its engine position, or the playing member's lane and, in a fade, the standby's. -/
def State.slotLanes (s : State) (x : Nat) : List Nat :=
  let e := s.cfg.active.slots.get x
  match e.source with
  | .none => []
  | .lane => [e.srcIndex]
  | .decode => (s.feedLane e.srcIndex e.srcPos).toList
  | .follow =>
    let f := s.cfg.active.follows.get e.srcIndex
    let y := s.audio.follows.get e.srcIndex
    let ks := y.playing :: (if y.fade.isSome then y.standby.toList else [])
    ks.filterMap fun k => (f.members.getD k {}).lane

/-- The dies whose converters a slot draws on (02 R58). -/
def State.slotSources (s : State) (x : Nat) : List Nat := s.leaderDies ((s.slotLanes x).flatMap s.laneCourses)

/-- The context that a slot's audio comes from now. -/
def State.slotContext (s : State) (x : Nat) : Option Nat :=
  let e := s.cfg.active.slots.get x
  match e.source with
  | .decode => some e.context
  | .follow =>
    let y := s.audio.follows.get e.srcIndex
    if sigDigital (y.members.getD y.playing {}).typ then ((s.cfg.active.follows.get e.srcIndex).members.getD y.playing {}).context else none
  | _ => none

/-- A slot on a populated die that is up, in a mode in which slots run. -/
def State.slotUp (s : State) (x : Nat) : Bool := s.mode.mode.receiving && decide (x < s.dies * 64) && s.dieUp (slotDie x)

/-- A slot with a source, on a die whose units run. -/
def State.slotOn (s : State) (x : Nat) : Bool := s.slotUp x && s.dieRuns (slotDie x) && decide ((s.cfg.active.slots.get x).source ≠ .none)

/-- A span of a slot that holds grid point n. -/
def SlotSpan.holds (p : SlotSpan) (n : Nat) : Bool :=
  decide (p.start ≤ gridInstant n) && (match p.stop with
    | some e => decide (gridInstant n < e)
    | none => true)

/-- CHANNELS: stereo, (L + R)/2 in both, or one half in both (R224). -/
def channelMode (mode : Nat) (p : PcmSample) : PcmSample :=
  match mode with
  | 1 => let m := roundDiv (p.left + p.right) 2
         { p with left := m, right := m }
  | 2 => { p with right := p.left }
  | 3 => { p with left := p.right }
  | _ => p

/-- What a slot's source gives it at grid point `n` (R226, R227, R233, 07 R212). -/
def State.slotSource (s : State) (a : Air) (x n : Nat) : PcmSample :=
  let e := s.cfg.active.slots.get x
  match e.source with
  | .none => .dead 0
  | .lane => s.laneSample a e.srcIndex ((n : Int) - 6)
  | .decode => s.contextSample e.context n
  | .follow => s.followSample a e.srcIndex n

/-- The flags that the state puts on grid point `n` of a slot besides its source's: lost audio (14 R383), a frozen die (02 R59), the clocks; retirement, drift mute and declared classes (R240, R241, R248, 02 R58). The second: the sample is lost. -/
def State.slotDerived (s : State) (x n : Nat) : Nat × Bool :=
  let t := gridInstant n
  let src := s.slotSources x
  let spans := (s.audio.slots.get x).spans.filter (·.holds n)
  let retired := s.retired (slotRef x) || (match s.slotContext x with
    | some k => s.retired (contextRef k)
    | none => false)
  let drift := src.any fun d => (s.clk.get d).mutedNow t
  let lost := s.frozenIn (slotDie x) t (t + 1) || spans.any fun p => p.zero && p.flags &&& flMuted == 0
  (spans.foldl (fun acc p => acc ||| p.flags) 0 ||| flagIf (s.frozenIn (slotDie x) t (t + 1)) flSuppressed ||| flagIf (retired || drift) flMuted
    ||| s.clockFlags (slotDie x) src t (t + 1), lost)

/-- A slot's sample at grid point `n`: the audio before any muting, and the flags as delivered (R237, R238). -/
def State.slotSample (s : State) (a : Air) (x n : Nat) : PcmSample :=
  let p := channelMode (s.cfg.active.slots.get x).channels (s.slotSource a x n)
  let d := s.slotDerived x n
  let fl := (p.flags &&& sourceFlags) ||| d.1
  if d.2 || fl &&& flSuppressed != 0 then ⟨0, 0, fl⟩ else { p with flags := fl }

/-- Samples kept of a slot: those behind the longest match (R242). -/
def heardMax : Nat := 48000 * 43

/-- The slot's audio taken up to SYSTIME `t`. -/
def hearSlot (a : Air) (x t : Nat) (s : State) : State :=
  let y := s.audio.slots.get x
  let n := gridCeil t
  let new := (List.range (n - y.pcmTo)).map fun i => s.slotSample a x (y.pcmTo + i)
  let xs := y.pcm ++ new
  s.setSlot x fun y => { y with pcm := xs.drop (xs.length - heardMax), pcmTo := max n y.pcmTo, satSticky := y.satSticky || new.any fun p => p.flags &&& flSaturated != 0 }

/-- The kept samples of grid points n0 to n1 − 1; SUPPRESSED where none is kept. -/
def SlotSt.between (y : SlotSt) (n0 n1 : Nat) : List PcmSample :=
  let from_ := y.pcmTo - y.pcm.length
  (List.range (n1 - n0)).map fun i =>
    if from_ ≤ n0 + i && n0 + i < y.pcmTo then y.pcm.getD (n0 + i - from_) (.dead 0) else .dead 0

/-- A sample that measurements use (R237 to R242). -/
def PcmSample.valid (p : PcmSample) : Bool := p.flags &&& (flSuppressed ||| flStale ||| flLate ||| flFill) == 0

/-- One delivered sample: audio in bits [31:8], flag bits [7:0] in the L word, [15:8] in the R word; muted or suppressed, it is zero (R237, R241). -/
def PcmSample.words (p : PcmSample) : List Byte :=
  let z := p.flags &&& (flSuppressed ||| flMuted) != 0
  le 1 p.flags ++ leInt 3 (if z then 0 else p.left) ++ le 1 (p.flags / 256) ++ leInt 3 (if z then 0 else p.right)

/-- t − a of a slot's sample at grid point `n`, in counts (R227, R233, R243). -/
def State.slotLatency (s : State) (x n : Nat) : Option Nat :=
  let e := s.cfg.active.slots.get x
  let decoded := fun (k : Nat) => let y := s.audio.contexts.get k
    (y.placeAt n).bind fun z => (y.unitAt z).map fun u => ((n * placeStep - (u.air + (z - u.start))) / placeCount).toNat
  match e.source with
  | .none => none
  | .lane =>
    let am := (s.cfg.active.lanes.get e.srcIndex).mode.am
    let c := s.taps.lanes.get e.srcIndex
    some ((6 + laneLag am) * 6250 / 3 + (c.tuneAt (c.gridPoint (c.before 0 ((n : Int) - 6 - laneLag am)).1)).coarseDelay * rateP192 c.rateClass / 192)
  | .decode => decoded e.context
  | .follow =>
    let y := s.audio.follows.get e.srcIndex
    match s.slotContext x with
    | some k => decoded k
    | none => if y.stage = 0 then none else some (y.dPlaying * 6250 / 48)

/-! ### Correlation (07 R210, 08 R242) -/

/-- Every sixth sample: 48 kHz to 8 kHz. -/
def everySixth (xs : List Int) : List Int := (List.range (xs.length / 6)).map fun i => xs.getD (6 * i) 0

/-- Σ x·y. -/
def dot (xs ys : List Int) : Int := (xs.zipWith (· * ·) ys).foldl (· + ·) 0

/-- r of a window against the samples of `b` from `off` on, in 10^−9; 0 where a power is 0. -/
def corrAt (a b : List Int) (off : Nat) : Int :=
  let w := (b.drop off).take a.length
  let num := dot a w
  let e := (dot a a * dot w w).toNat
  if e = 0 then 0
  else
    let r : Int := nearestSqrt (num.natAbs * num.natAbs * 10 ^ 18 / e)
    if num < 0 then -r else r

/-- The first of the indices below `n` at which `f` is greatest. -/
def argMax (n : Nat) (f : Nat → Int) : Nat := ((List.range n).foldl (fun (best : Nat × Int) i => if best.2 < f i then (i, f i) else best) (0, f 0)).1

/-- The offset of `a` in `b`, both band-passed at 48 kHz: the greatest r at 8 kHz over `range` + 1 offsets, refined at 48 kHz within ±12 samples; a parabola through the peak gives 1/16 sample and ρ in 0.0001. The third: the offset in whole samples (R210). -/
def correlate (a b : List Int) (range : Nat) : Int × Int × Nat :=
  let k0 := argMax (range + 1) (corrAt (everySixth a) (everySixth b))
  let from_ := 6 * k0 - 12
  let o := from_ + argMax 25 fun i => corrAt a b (from_ + i)
  let r0 := corrAt a b o
  let r1 := corrAt a b (o - 1)
  let r2 := corrAt a b (o + 1)
  let den := 2 * r0 - r1 - r2
  let frac := if den ≤ 0 then 0 else roundDiv (8 * (r2 - r1)) den
  let peak := if den ≤ 0 then r0 else r0 + (r2 - r1) * (r2 - r1) / (8 * den)
  (16 * o + frac, roundDiv peak 100000, o)

/-- The mono signal of samples. -/
def mono (xs : List PcmSample) : List Int := xs.map fun p => roundDiv (p.left + p.right) 2

/-- A window makes an estimate void: more than 10 % of it suppressed, erased or stale, or its RMS below −50 dBFS (R210). -/
def voidWindow (xs : List (Option Int)) : Bool :=
  let v := xs.filterMap id
  decide (xs.length < 10 * (xs.length - v.length)) || decide ((dot v v).toNat * 100000 < v.length * 2 ^ 46)

/-- Samples as a window takes them. -/
def corrWindow (xs : List PcmSample) : List (Option Int) := xs.map fun p => if p.valid then some (roundDiv (p.left + p.right) 2) else none

/-- Their values, 0 where there is none. -/
def valuesOf (xs : List (Option Int)) : List Int := xs.map (·.getD 0)

end Sys2Proof.Machine
end

