-- ==== Sys2Proof/Machine/Follow.lean ====
section
/-!
DEFINITION. Follow sets (07): tuning of members and watch taps, candidates, conditions, the standby, delay lock, fades, records.
-/
namespace Sys2Proof.Machine

/-! ### Tuning (R200) -/

/-- A lane-level event that takes a chain of cluster `c` from `old` to `new` (04 R120, R124). -/
def State.laneEvent (s : State) (c : Nat) (old new : Chain) : Chain := s.chainTo c false old new

/-- A lane takes the chain of its entry in the set in force: a lane-level event; its demodulator waits for the first valid sample (05 R137). -/
def retuneLane (l : Nat) (s : State) : State :=
  let old := s.taps.lanes.get l
  let new := s.laneEvent (laneCluster l) old (s.cfg.active.laneChain l old)
  goOnLane l ({ s with taps := { s.taps with lanes := s.taps.lanes.set l new } }.setDemod l fun d => { d with restartAt := none })

/-- A watch tap takes the chain of its entry and its first frequency. -/
def retuneTap (w : Nat) (s : State) : State :=
  let old := s.taps.watches.get w
  let new := s.laneEvent (watchCluster w) old (s.cfg.active.watchChain w old)
  goOnWatch w ({ s with taps := { s.taps with watches := s.taps.watches.set w new } }.setWatch w fun x =>
    { x with freq := (s.cfg.active.watches.get w).freqs.getD 0 0, listIndex := 0, preempted := false, restartAt := none, dwellStart := ceilTo 1000000 s.now })

/-- The set in force changed. -/
def modActive (f : ConfigSet → ConfigSet) (s : State) : State := { s with cfg := { s.cfg with active := f s.cfg.active } }

/-- The entry of a member lane: the mode of the signal type, the set's filter for it, every other parameter at its default (R200, 05 R136). -/
def FollowEntry.laneEntry (e : FollowEntry) (typ freq : Nat) : LaneEntry :=
  let b := e.filters.getD typ 0
  let base : LaneEntry := { fLane := freq, bank := b % 8, filter := b / 8 }
  match typ with
  | 0 => { base with mode := .amEnv, measPeriod := 2, amssOn := true, audioBw := 9 }
  | 1 => { base with mode := .fmStereo, measPeriod := 2, deemph := 1, devLimit := 75, pilotMin := 20, rdsStreams := 1, correctMax := 1, acceptMax := 1 }
  | _ => { base with mode := .ofdmFeed }

/-- Eight positions. -/
def pad8 {α : Type} (d : α) (xs : List α) : List α := (xs ++ List.replicate 8 d).take 8

/-- The entry of a member engine with position `p` on lane `l` for a digital signal, or without it for another (R200). -/
def memberEngine (p : Nat) (l : Option Nat) (typ : Nat) (x : EngineEntry) : EngineEntry :=
  let feeds := (pad8 none x.feeds).set p (l.map (· % 32))
  { x with
    cls := if l.isSome then (if typ = 2 then .dab else .drm) else if feeds.all (·.isNone) then .off else x.cls
    feeds := feeds, drmModes := (pad8 0 x.drmModes).set p (if l.isSome && typ = 4 then 5 else 0) }

/-- A member tuned: its lane, its engine position, its context, nothing known of it yet (R200). `eid`, `named`: what its candidate names. -/
def tuneMember (f k freq typ : Nat) (trusted : Bool) (eid : Option Nat) (named : Option Ident) (s : State) : State :=
  let e := s.cfg.active.follows.get f
  let m := e.members.getD k {}
  match m.lane with
  | none => s
  | some l =>
    let s := match m.context with
      | some c => s.setContext c fun _ => {}
      | none => s
    let s := retuneLane l (modActive (fun c => { c with lanes := c.lanes.set l (e.laneEntry typ freq) }) s)
    let s := match m.engine with
      | some g =>
        let s := modActive (fun c => { c with engines := c.engines.modify g (memberEngine m.position (if sigDigital typ then some l else none) typ) }) s
        restartSignal g m.position s.now (powerMask (engineDie g) (2 ^ (10 + s.engineRegion g)) s)
      | none => s
    seeUnits (s.setFollow f fun x => { x with members := x.members.set k { freq := freq, typ := typ, trusted := trusted, eid := eid, named := named } })

/-! ### Candidates (R205 to R208) -/

/-- The frequency of an AF code: FM 87.5 MHz + 100 kHz × code (notes/assumptions/14.md). -/
def afHz (code : Nat) : Nat := 87500000 + 100000 * code
/-- The frequency of an AF code after the filler: LF 153 kHz and MF 531 kHz in steps of 9 kHz (notes/assumptions/14.md). -/
def afAmHz (code : Nat) : Nat := if code < 16 then 153000 + 9000 * (code - 1) else 531000 + 9000 * (code - 16)

/-- The entries that one source gives through one member (R205). -/
def State.sourceCands (s : State) (f k src : Nat) : List Cand :=
  let e := s.cfg.active.follows.get f
  let m := e.members.getD k {}
  let x := (s.audio.follows.get f).members.getD k {}
  let rds := match m.lane with
    | some l => (s.lanes.demods.get l).rds.fields
    | none => {}
  let sig := match m.engine with
    | some g => s.signal g m.position
    | none => {}
  let mk := fun (freq typ : Nat) (eid : Option Nat) => ({ freq := freq, typ := typ, source := src, eid := eid, seenAt := s.now } : Cand)
  let acc := sig.current.accepted
  if !maskBit e.autoSources (src - 1) then [] else
  match src with
  | 1 => if x.typ = 1 && rds.afCount = rds.afList.length then rds.afList.map fun c => mk (afHz c) 1 none else []
  | 2 =>
    if x.typ = 1 && rds.afB.complete then
      (rds.afB.pairs.map fun p =>
        { mk (afHz (if p.1 = rds.afB.tuned then p.2.1 else p.1)) 1 none with regional := decide (p.2.1 < p.1) })
      ++ rds.afB.am.map fun c => mk (afAmHz c) 0 none
    else []
  | 3 => acc.flatMap fun g => match g with
    | .frequency _ (.ensemble n) fs => if sig.eid = some n then fs.map fun q => mk q.1 q.2 (some n) else []
    | .frequency _ (.service i) fs => if s.inIdentity f i then fs.map fun q => mk q.1 q.2 none else []
    | _ => []
  | 4 => acc.flatMap fun g => match g with
    | .otherEnsembles i eids => if s.inIdentity f i then
        eids.flatMap fun n => acc.flatMap fun h => match h with
          | .frequency _ (.ensemble k) fs => if k = n then fs.map fun q => mk q.1 q.2 (some n) else []
          | _ => []
        else []
    | _ => []
  | _ => acc.flatMap fun g => match g with
    | .drmFrequencies _ fs => fs.map fun q => mk q.1 q.2 none
    | .drmOther _ i fs => if s.inIdentity f i then fs.map fun q => mk q.1 q.2 none else []
    | _ => []

/-- Static entries. -/
def FollowEntry.staticCands (e : FollowEntry) (now : Nat) : List Cand :=
  e.statics.map fun t => { freq := t.freq, typ := t.sigType, source := 0, trusted := t.trusted, named := some (sigIdent t.sigType t.ident), seenAt := now }

/-- The identifier last accepted on a candidate's frequency, with the SYSTIME: by a member lane or watch tap of the set in FM, a member lane's AMSS in AM, an engine on that frequency in DAB and DRM, the ensemble the one that the candidate names (R202). -/
def State.heardOn (s : State) (f : Nat) (c : Cand) : Option (Nat × Nat) :=
  let e := s.cfg.active.follows.get f
  let mine := e.lanes.filter fun l => (s.cfg.active.lanes.get l).fLane == c.freq
  let fits := fun (i : Ident) => s.inIdentity f i && (match c.named with
    | some n => s.inIdentity f n
    | none => true)
  let found : List (Ident × Nat) :=
    if c.typ = 1 then
      (mine.map fun l => (s.lanes.demods.get l).rds.fields) ++ ((e.watches.filter fun w => (s.lanes.watches.get w).freq == c.freq).map fun w => (s.lanes.watches.get w).rds.fields)
        |>.filterMap fun x => x.pi.acc.map fun p => (⟨0, p⟩, x.piAt)
    else if c.typ = 0 then mine.filterMap fun l => let d := s.lanes.demods.get l
      if d.amssSidValid then some (⟨4, d.amssSid⟩, d.amssAt) else none
    else (List.range (s.dies * 4)).flatMap fun g => (s.cfg.active.engines.get g).positions.flatMap fun p =>
      let x := s.signal g p
      let on := match s.feedLane g p with
        | some l => (s.cfg.active.lanes.get l).fLane == c.freq
        | none => false
      let same := decide (((s.cfg.active.engines.get g).cls = .dab) = (c.typ = 2))
      if on && same && (c.eid.isNone || c.eid == x.eid) then x.heard else []
  (found.find? fun h => fits h.1 && decide (s.now < h.2 + e.age)).map fun h => (h.1.val, h.2)

/-- The same frequency and signal type. -/
def Cand.same (a b : Cand) : Bool := a.freq == b.freq && a.typ == b.typ

/-- Duplicates removed, keeping the first (R207). -/
def dedupCands (xs : List Cand) : List Cand := xs.foldl (fun acc c => if acc.any c.same then acc else acc ++ [c]) []

/-- A tap of the set that can measure a candidate (R208). -/
def State.tapReaches (s : State) (c : Cand) (w : Nat) : Bool :=
  s.dieRuns (watchDie w) && !s.retired (watchRef w) && s.cfg.active.reaches (watchCluster w) c.freq (sigWatchRate c.typ)

/-- The candidate list at the end of a period: by source, then in order of reception, what is known of an entry kept, a withdrawn one kept for VERIFY_AGE, at most 12 (R205, R207). -/
def State.buildCands (s : State) (f : Nat) : List Cand :=
  let e := s.cfg.active.follows.get f
  let x := s.audio.follows.get f
  let ks := x.playing :: x.standby.toList
  let play := (x.members.getD x.playing {}).freq
  let known := fun (c : Cand) => match x.cands.find? (fun o => o.same c && o.source = c.source) with
    | some o => { c with ident := o.ident, verifiedAt := o.verifiedAt, fom := o.fom }
    | none => match s.heardOn f c with
      | some h => { c with ident := h.1, verifiedAt := some h.2 }
      | none => c
  let statics := (e.staticCands s.now).map known
  let ofSource := fun (src : Nat) =>
    let fresh := ks.flatMap fun k => s.sourceCands f k src
    let stay := (x.cands.filter fun o => o.source = src).filterMap fun o =>
      match fresh.find? o.same with
      | some c => some (known c)
      | none => if s.now < o.seenAt + e.age then some o else none
    stay ++ (fresh.filter fun c => !stay.any c.same).map known
  let all := dedupCands (statics ++ [1, 2, 3, 4, 5].flatMap ofSource)
  ((all.filter fun c => c.freq != play).take 12).map fun c => { c with unreachable := !e.watches.any (s.tapReaches c) }

/-- A tap set to measure a candidate: FM mode for FM, LEVEL for others, its filter that of the type (R208). -/
def measureCand (f w : Nat) (c : Cand) (s : State) : State :=
  let b := (s.cfg.active.follows.get f).filters.getD c.typ 0
  let e : WatchEntry :=
    { mode := if c.typ = 1 then .fm else .level, rateHigh := decide (c.typ = 2), period := 1, freqCount := 1, bank := b % 8, filter := b / 8, freqs := [c.freq] }
  let s := retuneTap w (modActive (fun a => { a with watches := a.watches.set w e }) s)
  s.setFollow f fun x => { x with measuring := (x.measuring.filter fun m => m.1 ≠ w) ++ [(w, c.freq, c.typ)] }

/-- The candidate that a tap measures. -/
def FollowSt.measuredBy (x : FollowSt) (w : Nat) : Option Cand :=
  (x.measuring.find? fun m => m.1 = w).bind fun m => x.cands.find? fun c => c.freq = m.2.1 && c.typ = m.2.2

/-- The first candidate from place `i` on, round the list, that the tap reaches and no tap measures. -/
def State.nextCand (s : State) (f w i : Nat) : Option Cand :=
  let x := s.audio.follows.get f
  let n := x.cands.length
  ((List.range n).filterMap fun k => x.cands[(i + k) % n]?).find? fun c =>
    s.tapReaches c w && !x.measuring.any fun m => m.2.1 == c.freq && m.2.2 == c.typ

/-- Taps without a candidate take one, in list order (R208). -/
def assignTaps (f : Nat) (s : State) : State :=
  let s := s.setFollow f fun x => { x with measuring := x.measuring.filter fun m => x.cands.any fun c => c.freq = m.2.1 && c.typ = m.2.2 }
  (s.cfg.active.follows.get f).watches.foldl (fun acc w =>
    if ((acc.audio.follows.get f).measuredBy w).isSome then acc
    else match acc.nextCand f w 0 with
      | some c => measureCand f w c acc
      | none => acc) s

/-! ### Conditions (R213) -/

/-- The lane of a member delivers: its course is not lost, its die not fenced, a unit stands behind it. -/
def State.memberUp (s : State) (m : FollowMember) : Bool :=
  match m.lane with
  | some l => s.dieRuns (laneDie l) && !s.laneDead l && !(s.front.courses.get (s.clusterCourse (laneCluster l))).lost
  | none => false

/-- Codecs that a context decodes: 0 Layer II, 1 HE-AAC v2, 2 xHE-AAC (08 R230). -/
def codecSupported (c : Nat) : Bool := decide (c ≤ 2)

/-- A unit that gives valid audio (08 R231). -/
def AccessUnit.good (u : AccessUnit) : Bool := u.crcOk && !u.erased && !u.rsFailed && codecSupported u.codec

/-- A context has had audio of air instants in [t0, t1) (R213). -/
def ContextSt.validIn (y : ContextSt) (t0 t1 : Nat) : Bool :=
  let meets := fun (at_ span : Int) => decide (at_ < t1 * placeCount) && decide (t0 * placeCount < at_ + span)
  y.units.any (fun u => u.flags &&& (flFill ||| flLate ||| flMuted) == 0 && meets u.air (u.stop - u.start))
  || y.queue.any (fun h => h.unit.good && !h.lost && meets h.air (placeSpan h.length h.rate))
  || y.inbox.any fun u => u.good && decide (u.doneAt < t1)

/-- What is measured of a member over a period of its air time (R213). -/
def State.memberMeasured (s : State) (a : Air) (f k t0 t1 : Nat) : MemberMeas :=
  let fm := (s.cfg.active.follows.get f).members.getD k {}
  let x := (s.audio.follows.get f).members.getD k {}
  match fm.lane with
  | none => ⟨false, 0, 0, 0, false, false⟩
  | some l =>
    let n := s.clusterCourse (laneCluster l)
    let conv := ((s.front.courses.get n).leader).getD 0
    let held := s.heldIn l t0 t1
    let audio := (List.range (gridCeil t1 - gridCeil t0)).any fun (i : Nat) =>
      let g : Int := (gridCeil t0 + i + laneLag (decide (x.typ = 0)) : Nat)
      (s.holdStart l (gridInstant g.toNat)).isNone && !s.laneAudioSuppressed l g
    match x.typ with
    | 0 => ⟨audio, s.levelUv n conv x.freq t0 (s.amMeasured a l t0 t1).carrierMean, 0, 0, false, held⟩
    | 1 =>
      let m := s.fmMeasured a l t0 t1
      ⟨audio, s.levelUv n conv x.freq t0 m.rfMean, m.mpIndex, 0, false, held⟩
    | _ => match fm.context, fm.engine with
      | some c, some g =>
        let y := s.audio.contexts.get c
        let z := s.signal g fm.position
        ⟨y.validIn t0 t1, 0, 0, ((merOf z.merFollow).or (merOf z.merNow)).getD 0, y.badSeen, held⟩
      | _, _ => ⟨false, 0, 0, 0, false, held⟩

/-- The period's own counts of a member start again. -/
def endMemberPeriod (f k : Nat) (s : State) : State :=
  let fm := (s.cfg.active.follows.get f).members.getD k {}
  let s := match fm.context with
    | some c => s.setContext c fun y => { y with badSeen := false }
    | none => s
  match fm.engine with
  | some g => s.setSignal g fm.position fun z => { z with merFollow := (0, 0) }
  | none => s

/-- FOM of a member in 0.01 dB (R213). -/
def FollowEntry.memberFom (e : FollowEntry) (typ : Nat) (m : MemberMeas) : Int :=
  match typ with
  | 0 => m.level - e.amLevelMin
  | 1 => m.level - e.fmLevelMin - max 0 (m.mp - e.mpRef)
  | _ => m.mer - e.merMin

/-- A member after a period: condition, figure, runs (R213). -/
def State.judgeMember (s : State) (f k t0 : Nat) (m : MemberMeas) : MemberSt :=
  let e := s.cfg.active.follows.get f
  let fm := e.members.getD k {}
  let x := (s.audio.follows.get f).members.getD k {}
  let decoding := match fm.engine with
    | some g => !sigDigital x.typ || ((s.signal g fm.position).decoding && (s.followSub f g fm.position).isSome)
    | none => !sigDigital x.typ
  let lost := !m.anyValid || !s.memberUp fm || !decoding
  let fom := e.memberFom x.typ m
  let lapsed := !s.memberVerified f x && x.ident != 0
  let c := if lost then 3 else if fom < 0 || m.badUnit || lapsed then 2 else if fom < e.margin * 100 then 1 else 0
  { x with
    cond := c, fom := if lost then none else some fom
    condRun := if c = x.cond then x.condRun + 1 else 1
    badRun := if 2 ≤ c then x.badRun + 1 else 0
    stale := m.stale
    validSince := if m.anyValid then some (x.validSince.getD t0) else none }

/-! ### Delays (R212, R229) -/

/-- Pool pages of a delay in 1/16 sample (R212). -/
def delayPages (d16 : Nat) : Nat := (((d16 + 15) / 16 + 96) * 6 + 65535) / 65536

/-- Availability span of a member in 1/16 sample (R229): AM 102 samples, FM 78, Layer II 32 ms, HE-AAC 62 ms, xHE-AAC 82 ms. -/
def State.memberSpan (s : State) (f k : Nat) : Nat :=
  let m := (s.cfg.active.follows.get f).members.getD k {}
  match ((s.audio.follows.get f).members.getD k {}).typ with
  | 0 => 102 * 16
  | 1 => 78 * 16
  | _ =>
    match m.context.bind fun c => (s.audio.contexts.get c).codec with
    | some 0 => 1536 * 16
    | some 2 => 3936 * 16
    | _ => 2976 * 16

/-- The standby can be aligned at delay `ds` (R212, R229). -/
def State.alignable (s : State) (f k : Nat) (ds : Int) : Bool :=
  let e := s.cfg.active.follows.get f
  let x := s.audio.follows.get f
  decide (0 ≤ ds) && decide (ds ≤ 1920000) && decide (delayPages x.dPlaying + delayPages ds.toNat ≤ e.alignPages)
    && decide ((s.memberSpan f k : Int) ≤ ds)

/-- The standby's delay set from Δ, or FOLLOW_OUT_OF_RANGE once (R212). -/
def alignStandby (f : Nat) (s : State) : State :=
  let x := s.audio.follows.get f
  match x.standby with
  | some k =>
    if !x.locked || x.fade.isSome then s
    else
      let ds : Int := x.dPlaying - x.delta
      if s.alignable f k ds then s.setFollow f fun x => { x with dStandby := ds.toNat, aligned := true, outRaised := false }
      else
        let t := s.setFollow f fun x => { x with aligned := false, outRaised := true }
        if x.outRaised then t
        else raise .followOutOfRange (followDie f) [.w f, .w x.delta, .w (delayPages x.dPlaying + delayPages ds.toNat)] t
  | none => s

/-- The standby is ready (R212). -/
def State.standbyReady (s : State) (f : Nat) : Bool :=
  let x := s.audio.follows.get f
  match x.standby with
  | some k =>
    let m := x.members.getD k {}
    s.memberVerified f m && x.locked && x.aligned && !m.stale
  | none => false

/-- The time since which the standby is ready brought up to date. -/
def noteReady (f : Nat) (s : State) : State :=
  let r := s.standbyReady f
  s.setFollow f fun x => { x with readySince := if r then some (x.readySince.getD s.now) else none }

/-! ### The standby (R209) -/

/-- Preference class of a signal type (R198). -/
def FollowEntry.prefOf (e : FollowEntry) (typ : Nat) : Nat := e.pref / 4 ^ (min typ 3) % 4

/-- The member lane that can take a candidate as standby (R209, R221). -/
def State.standbyLane (s : State) (f : Nat) (c : Cand) : Option Nat :=
  let e := s.cfg.active.follows.get f
  let x := s.audio.follows.get f
  (List.range 4).find? fun k =>
    let m := e.members.getD k {}
    k != x.playing && s.memberUp m && (!sigDigital c.typ || m.engine.isSome) && (match m.lane with
      | some l => s.cfg.active.reaches (laneCluster l) c.freq (sigRate c.typ)
      | none => false)

/-- `a` ranks above `b`: preference class, then figure of merit (R209). -/
def FollowEntry.above (e : FollowEntry) (a b : Cand) : Bool :=
  let key := fun (c : Cand) => (e.prefOf c.typ : Int) * 1000000 + c.fom.getD (-400000)
  decide (key b < key a)

/-- The first-ranked of candidates, the earlier in a tie. -/
def FollowEntry.best (e : FollowEntry) : List Cand → Option Cand
  | [] => none
  | c :: cs => match e.best cs with
    | some d => if e.above d c then some d else some c
    | none => some c

/-- The standby lane retuned: FOLLOW_STANDBY, the delay lock cleared (R209). -/
def retuneStandby (f k : Nat) (c : Cand) (trial : Bool) (s : State) : State :=
  let s := tuneMember f k c.freq c.typ c.trusted c.eid c.named s
  let s := s.setFollow f fun x =>
    { x with standby := some k, trial := trial, locked := false, ests := [], rho := none, delta := 0, dStandby := 0, aligned := false
             outRaised := false, readySince := none, betterRun := 0, rankRun := 0, standbyAt := s.now }
  raise .followStandby (followDie f) [.w f, .w k, .w c.freq, .w c.typ, .w (b2n trial)] s

/-- The ranking at the end of a period and what it does to the standby (R209). -/
def rankStandby (f : Nat) (s : State) : State :=
  let e := s.cfg.active.follows.get f
  let x := s.audio.follows.get f
  let usable := x.cands.filter fun c => !c.unreachable && (s.standbyLane f c).isSome
  let first := e.best (usable.filter (s.candVerified f))
  match x.standby, first with
  | none, some c => (match s.standbyLane f c with
      | some k => retuneStandby f k c false s
      | none => s)
  | none, none => (match usable[0]? with
      | some c => (match s.standbyLane f c with
          | some k => retuneStandby f k c true s
          | none => s)
      | none => s)
  | some _, none => s
  | some k, some c =>
    let m := x.members.getD k {}
    if m.freq = c.freq && m.typ = c.typ then s.setFollow f fun x => { x with rankRun := 0, trial := false }
    else
      let higher := match m.fom, c.fom with
        | some a, some b => decide (a + e.hysteresis * 100 ≤ b)
        | none, some _ => true
        | _, _ => false
      let run := if higher then x.rankRun + 1 else 0
      let bad := decide (e.badHold ≤ m.badRun)
      let lapsed := !s.memberVerified f m && m.ident != 0
      let better := decide (e.betterHold * 10 ≤ run) && decide (x.standbyAt + e.standbyMin * countsPerSecond ≤ s.now)
      let s := s.setFollow f fun x => { x with rankRun := run }
      if bad || lapsed || better || x.trial then (match s.standbyLane f c with
        | some j => retuneStandby f j c false s
        | none => s)
      else s

/-! ### Switching (R214, R215, R218, R219) -/

/-- A COMMIT of `new` touches a member lane: its channel filter, its band tap, its own entry, its engine signal (R218). -/
def State.commitTouches (s : State) (new : ConfigSet) (f k : Nat) : Bool :=
  let old := s.cfg.committed
  let m := (s.cfg.active.follows.get f).members.getD k {}
  match m.lane with
  | some l =>
    let a := s.cfg.active.lanes.get l
    let key := filterKey (laneDie l) a.bank a.filter
    let c := laneCluster l
    old.filters.get key != new.filters.get key || old.clusters.get c != new.clusters.get c || old.plan != new.plan
      || old.courses.get (old.clusters.get c).course != new.courses.get (old.clusters.get c).course
      || old.lanes.get l != new.lanes.get l || (match m.engine with
        | some g => old.engines.get g != new.engines.get g
        | none => false)
  | none => false

/-- A COMMIT of `new` affects a follow set in the sense of R218. -/
def State.commitAffects (s : State) (new : ConfigSet) (f : Nat) : Bool :=
  let x := s.audio.follows.get f
  (x.playing :: x.standby.toList).any (s.commitTouches new f) || s.cfg.committed.follows.get f != new.follows.get f

/-- A delay of 1/16 sample in counts. -/
def delayCounts (d16 : Nat) : Nat := d16 * 6250 / 48

/-- The tick number of a COMMIT that holds a fade over [f0, f1) with standby delay `ds`: one that waits and affects the set, or one that has changed a member within the fade's air span (R219). -/
def State.fadeHeldBy (s : State) (f f0 f1 ds : Nat) : Option Nat :=
  let x := s.audio.follows.get f
  match s.cfg.commit with
  | some p => if s.commitAffects p.set f then some p.effective else heldByMember x
  | none => heldByMember x
where
  /-- A member whose lane a COMMIT changed at T holds a fade whose air span T cuts. -/
  heldByMember (x : FollowSt) : Option Nat :=
    let cut := fun (k d : Nat) => (x.members.getD k {}).changedAt.bind fun t =>
      if t + delayCounts d ≤ f0 || f1 ≤ t + delayCounts d then none else some (tickOf t)
    match cut x.playing x.dPlaying, x.standby with
    | some t, _ => some t
    | none, some k => cut k ds
    | none, none => none

/-- The largest delay that fits beside the playing member's (R212, R215). -/
def State.largestDelay (s : State) (f : Nat) : Nat :=
  let e := s.cfg.active.follows.get f
  let x := s.audio.follows.get f
  let p := e.alignPages - delayPages x.dPlaying
  min 1920000 ((p * 65536 / 6 - 96) * 16)

/-- The first rule of R214 that holds, judged as if the standby were ready. -/
def State.switchRule (s : State) (f : Nat) : Option FadeReason :=
  let e := s.cfg.active.follows.get f
  let x := s.audio.follows.get f
  match x.standby with
  | none => none
  | some k =>
    let p := x.members.getD x.playing {}
    let m := x.members.getD k {}
    let elapsed := x.switches = 0 || decide (x.lastF0 + e.minInterval * countsPerSecond ≤ s.now)
    let long := fun (since : Option Nat) (hold : Nat) => match since with
      | some t => decide (t + hold ≤ s.now)
      | none => false
    if p.cond = 3 && m.cond ≠ 3 then some .emergency
    else if p.cond = 2 && e.badHold ≤ p.condRun && m.cond = 0 then some .quality
    else if e.prefOf p.typ < e.prefOf m.typ && m.cond = 0 && e.prefHold * 10 ≤ m.condRun && long x.readySince (e.prefHold * countsPerSecond) && elapsed then some .preference
    else if e.prefOf p.typ = e.prefOf m.typ && e.betterHold * 10 ≤ x.betterRun && elapsed then some .better
    else none

/-- A switch decided: its fade, held by a COMMIT or set (R214, R215, R219, R220). -/
def decideFade (f : Nat) (r : FadeReason) (aligned : Bool) (s : State) : State :=
  let e := s.cfg.active.follows.get f
  let x := s.audio.follows.get f
  let f0 := ceilTo countsPerBlock (s.now + countsPerBlock)
  let f1 := f0 + (if r = .emergency then e.fadeFast else e.fade) * countsPerBlock
  let ds := if aligned then x.dStandby else min x.dPlaying (s.largestDelay f)
  match s.fadeHeldBy f f0 f1 ds with
  | some t =>
    let u := s.setFollow f fun x => { x with held := some t }
    if x.held = some t then u else raise .followFadeHeld (followDie f) [.w f, .w t] u
  | none =>
    s.setFollow f fun x =>
      { x with held := none, fade := some { reason := r, f0 := f0, f1 := f1, aligned := aligned, from_ := x.playing, to_ := x.standby.getD 0, dFrom := x.dPlaying, dTo := ds }, dStandby := ds }

/-- The switching rules at the end of a period (R214, R215). -/
def applyRules (f : Nat) (s : State) : State :=
  let e := s.cfg.active.follows.get f
  let x := s.audio.follows.get f
  let p := x.members.getD x.playing {}
  let stale := p.stale || (match x.standby with
    | some k => (x.members.getD k {}).stale
    | none => false)
  let ready := s.standbyReady f
  let verified := match x.standby with
    | some k => s.memberVerified f (x.members.getD k {})
    | none => false
  let needs := p.cond = 3 || (p.cond = 2 && e.badHold ≤ p.condRun)
  let s := if needs && !ready then
      (let t := s.setFollow f fun x => { x with noStandby := true }
       if x.noStandby then t else raise .followNoStandby (followDie f) [.w f, .w p.cond] t)
    else if needs then s else s.setFollow f fun x => { x with noStandby := false }
  match s.switchRule f with
  | some r =>
    if stale then s
    else if ready then decideFade f r true s
    else if e.allowUnaligned && (r = .emergency || r = .quality) && verified && !x.locked then decideFade f r false s
    else s
  | none => s.setFollow f fun x => { x with held := none }

/-- A follow set that runs. -/
def State.followRuns (s : State) (f : Nat) : Bool :=
  decide (f < s.dies * 16) && (s.cfg.active.follows.get f).enable && s.dieRuns (followDie f) && decide ((s.audio.follows.get f).stage ≠ 0)

/-- A follow set's 100 ms period ends: conditions, candidates, switching rules, the standby (R205 to R215). -/
def execFollowPeriodEnd (f : Nat) (air : Air) (s : State) : Res :=
  let e := s.cfg.active.follows.get f
  let x := s.audio.follows.get f
  let active := x.playing :: x.standby.toList
  let t1 := s.now / 10000000 * 10000000
  let t0 := t1 - 10000000
  onlyIf (s.followRuns f && decide (x.periodTo < t1)) s
    (let t := active.foldl (fun acc k =>
       let m := acc.judgeMember f k t0 (acc.memberMeasured air f k t0 t1)
       endMemberPeriod f k (acc.setFollow f fun y => { y with members := y.members.set k m })) (s.setFollow f fun y => { y with periodTo := t1 })
     let t := t.setFollow f fun y =>
       let p := y.members.getD y.playing {}
       let b := match y.standby with
         | some k => (match p.fom, (y.members.getD k {}).fom with
           | some a, some b => decide (a + e.hysteresis * 100 ≤ b)
           | none, some _ => true
           | _, none => false)
         | none => false
       { y with stage := if p.cond = 3 then y.stage else 2, betterRun := if b then y.betterRun + 1 else 0 }
     let t := t.setFollow f fun y => { y with cands := t.buildCands f }
     let t := noteReady f (alignStandby f (assignTaps f t))
     if x.fade.isSome then t
     else
       let t := applyRules f t
       if (t.audio.follows.get f).fade.isSome then t else rankStandby f t)

/-! ### Delay estimates (R210, R211) -/

/-- The median of three. -/
def median3 (a b c : Int) : Int := max (min a b) (min (max a b) c)

/-- Correlation window W in seconds. -/
def corrSeconds : Nat → Nat
  | 0 => 4
  | 1 => 8
  | _ => 16

/-- The lock after a non-void estimate (R211). -/
def FollowSt.estimate (e : FollowEntry) (x : FollowSt) : FollowSt :=
  let good := fun (q : Int × Nat) => decide (e.corrMin * 100 ≤ q.2)
  match x.ests with
  | q0 :: rest =>
    let three := match rest with
      | q1 :: q2 :: _ => some (q1, q2)
      | _ => none
    if !x.locked then
      match three with
      | some (q1, q2) =>
        let m := median3 q0.1 q1.1 q2.1
        let near := fun (q : Int × Nat) => decide ((q.1 - m).natAbs ≤ 32)
        if [q0, q1, q2].all fun q => good q && near q then { x with locked := true, delta := m } else x
      | none => x
    else
      let far := fun (q : Int × Nat) => (q.1 - x.delta).natAbs
      if far q0 ≤ 32 && good q0 then { x with delta := q0.1 }
      else match three with
        | some (q1, q2) =>
          if [q0, q1, q2].all fun q => !good q || decide (768 < far q) then { x with locked := false, aligned := false, readySince := none }
          else if [q0, q1, q2].all fun q => good q && decide (32 < far q) && decide (far q ≤ 768) then { x with delta := median3 q0.1 q1.1 q2.1 }
          else x
        | none => x
  | [] => x

/-- The estimate of Δ at `t`: the playing member's W s that ended 2.5 s before, found in the standby's W + 5 s that end there; lag in 1/16 sample and ρ in 0.0001, none where it is void (R210). -/
def State.delayEstimate (s : State) (air : Air) (f k t : Nat) : Option (Int × Nat) :=
  let w := 48000 * corrSeconds (s.cfg.active.follows.get f).corrWindow
  let n1 := gridCeil t
  let xs := fun (j from_ len : Nat) => corrWindow ((List.range len).map fun (i : Nat) => s.memberAir air f j ((from_ : Int) + i))
  let a := xs (s.audio.follows.get f).playing (n1 - 120000 - w) w
  let b := xs k (n1 - 240000 - w) (w + 240000)
  if voidWindow a || voidWindow b then none
  else
    let r := correlate (Config.speechBand (valuesOf a)) (Config.speechBand (valuesOf b)) 40000
    some (r.1 - 16 * 120000, r.2.1.toNat)

/-- Every whole second an estimate of Δ (R210, R211). -/
def execDelayEstimate (f : Nat) (air : Air) (s : State) : Res :=
  let e := s.cfg.active.follows.get f
  let x := s.audio.follows.get f
  let span := (corrSeconds e.corrWindow + 5) * countsPerSecond
  let long := fun (k : Nat) => match (x.members.getD k {}).validSince with
    | some t => decide (t + span ≤ s.now)
    | none => false
  let both := match x.standby with
    | some k => long x.playing && long k
    | none => false
  let at_ := s.now / countsPerSecond * countsPerSecond
  onlyIf (s.followRuns f && both && decide (x.estimatedTo < at_)) s
    (match s.delayEstimate air f (x.standby.getD 0) at_ with
     | none => s.setFollow f fun y => { y with rho := none, estimatedTo := at_ }
     | some q =>
       let t := s.setFollow f fun y => FollowSt.estimate e { y with rho := some q.2, ests := (q :: y.ests).take 3, estimatedTo := at_ }
       let z := t.audio.follows.get f
       let t := if z.locked && !x.locked then raise .followDelayLocked (followDie f) [.w f, .w z.delta, .w q.2] t
         else if x.locked && !z.locked then raise .followDelayLost (followDie f) [.w f, .w x.delta, .w q.2] t else t
       noteReady f (alignStandby f t))

/-! ### Fades (R216) -/

/-- At F0 the fade begins: FOLLOW_SWITCH (R216). -/
def execFadeStart (f : Nat) (s : State) : Res :=
  let x := s.audio.follows.get f
  match x.fade, x.standby with
  | some d, some k =>
    onlyIf (s.followRuns f && !d.started && decide (d.f0 ≤ s.now)) s
      (raise .followSwitch (followDie f)
        [.w f, .w d.reason.code, .w x.playing, .w k, .q d.f0, .q d.f1, .w (if x.locked then x.delta else 0x80000000), .w (b2n (!d.aligned))]
        (s.setFollow f fun x => { x with fade := some { d with started := true }, lastF0 := d.f0, switches := x.switches + 1, lastSwitchTick := tick32 d.f0 }))
  | _, _ => .next s

/-- At F1 the standby plays with its own delay; the old playing lane is the standby, Δ negated, the lock kept (R215, R216). -/
def execFadeEnd (f : Nat) (s : State) : Res :=
  let x := s.audio.follows.get f
  match x.fade, x.standby with
  | some d, some k =>
    onlyIf (s.followRuns f && d.started && decide (d.f1 ≤ s.now)) s
      (noteReady f (s.setFollow f fun x =>
        { x with playing := k, standby := some x.playing, trial := false, fade := none, faded := some d, dPlaying := x.dStandby, dStandby := x.dPlaying
                 delta := -x.delta, ests := x.ests.map fun q => (-q.1, q.2), betterRun := 0, rankRun := 0, readySince := none }))
  | _, _ => .next s

/-! ### Dwells, lapses, records -/

/-- A watch tap's candidate dwell ends: its figure, and the next candidate in list order (R208). -/
def execCandidateDwellEnd (f w : Nat) (air : Air) (s : State) : Res :=
  let e := s.cfg.active.follows.get f
  let x := s.audio.follows.get f
  let t0 := (s.lanes.watches.get w).dwellStart
  onlyIf (s.followRuns f && (x.measuring.any fun m => m.1 = w) && decide (s.now % 1000000 = 0) && decide (t0 + e.candDwell * 10000000 ≤ s.now)) s
    (let m := s.watchMeasured air w t0 (t0 + e.candDwell * 10000000)
     let t := (followTapMeasured w t0 m.rfMean m.mpIndex s).setWatch w fun z => { z with dwellStart := s.now }
     match x.measuredBy w with
     | some c =>
       (match t.nextCand f w (x.cands.idxOf c + 1) with
        | some d => measureCand f w d t
        | none => t)
     | none => t)

/-- VERIFY_AGE passes without a new acceptance: every verification of the set that is so old lapses (R204). -/
def execVerificationLapse (f : Nat) (s : State) : Res :=
  let e := s.cfg.active.follows.get f
  let x := s.audio.follows.get f
  let old := fun (at_ : Option Nat) => match at_ with
    | some t => decide (t + e.age ≤ s.now)
    | none => false
  onlyIf (s.followRuns f) s
    (let t := s.setFollow f fun y =>
       { y with
         cands := y.cands.map fun c => if old c.verifiedAt then { c with verifiedAt := none } else c
         members := y.members.map fun m => if old m.verifiedAt then { m with verifiedAt := none } else m }
     let t := (x.cands.filter fun c => old c.verifiedAt).foldl (fun acc c => verifyEvent f c.freq c.ident false acc) t
     noteReady f ((x.members.filter fun m => old m.verifiedAt && !x.cands.any fun c => c.freq == m.freq).foldl
       (fun acc m => verifyEvent f m.freq m.ident false acc) t))

/-- The bytes of a candidate (R223). -/
def Cand.bytes (s : State) (f : Nat) (c : Cand) : List Byte :=
  let e := s.cfg.active.follows.get f
  le 4 c.freq ++ le 4 c.ident ++ le 1 (c.typ + 8 * c.source + 64 * b2n (s.candVerified f c) + 128 * b2n c.unreachable)
  ++ le 1 (e.prefOf c.typ + 4 * b2n c.regional) ++ leInt 2 (c.fom.getD 0x8000) ++ le 4 (match c.verifiedAt with
    | some t => (tick32 t).toNat
    | none => 0)

/-- Pages of the alignment buffer in use. -/
def FollowSt.pages (x : FollowSt) : Nat :=
  (if x.stage = 0 then 0 else delayPages x.dPlaying) + if x.standby.isSome then delayPages x.dStandby else 0

/-- The follow record (R223). -/
def State.followRecord (s : State) (f : Nat) : List Byte :=
  let x := s.audio.follows.get f
  let p := x.members.getD x.playing {}
  let k := x.standby.getD 0
  let m := x.members.getD k {}
  let has := x.standby.isSome
  let st := fun (n : Nat) => if has then n else 0
  let ready := s.standbyReady f
  let fading := match x.fade with
    | some d => d.started
    | none => false
  le 1 (x.stage + 4 * b2n fading + 8 * b2n x.locked + 16 * b2n ready + 32 * b2n (has && x.trial))
  ++ le 1 (x.playing + 4 * st k + 16 * b2n has) ++ le 1 (p.cond + 4 * st m.cond) ++ le 1 x.cands.length
  ++ le 4 p.freq ++ le 4 (st m.freq) ++ le 4 p.ident ++ le 4 (st m.ident)
  ++ leInt 4 (if x.locked then x.delta else 0x80000000) ++ le 2 (x.rho.getD 0xFFFF)
  ++ leInt 2 (p.fom.getD 0x8000) ++ leInt 2 (if has then m.fom.getD 0x8000 else 0x8000) ++ zeros 2
  ++ le 4 x.dPlaying ++ le 4 x.dStandby ++ le 8 x.lastF0 ++ le 4 x.switches.toNat ++ le 1 x.pages ++ zeros 11
  ++ x.cands.flatMap (Cand.bytes s f)

/-- Each second a follow record is formed in the measurement class (R223). -/
def execFollowRecord (f : Nat) (s : State) : Res :=
  let x := s.audio.follows.get f
  let t1 := s.now / countsPerSecond * countsPerSecond
  let t0 := t1 - countsPerSecond
  onlyIf (decide (f < s.dies * 16) && (s.cfg.active.follows.get f).enable && s.dieUp (followDie f) && decide (x.recordedTo < t1)) s
    (formRouted .measurement (fun r => maskBit r.followMask (f % 16))
      { format := 0x0406, srcType := 5, srcIndex := f, die := followDie f, timestamp := t0, sampleCount := 1
        flags := s.clockFlags (followDie f) [] t0 t1, payload := s.followRecord f } (s.setFollow f fun y => { y with recordedTo := t1 }))

/-! ### Restart and stop (R222) -/

/-- A restart: candidates, verifications and lock cleared, a member lane tuned to INITIAL as the playing lane with d_p = L, no standby (R222). -/
def restartFollow (f : Nat) (s : State) : State :=
  let e := s.cfg.active.follows.get f
  let i := e.initial
  let find := fun (any : Bool) => (List.range 4).find? fun k => match (e.members.getD k {}).lane with
    | some l => s.cfg.active.reaches (laneCluster l) i.freq (sigRate i.sigType) && (any || !sigDigital i.sigType || (e.members.getD k {}).engine.isSome)
    | none => false
  let k := ((find false).or (find true)).getD 0
  let second := s.now / countsPerSecond * countsPerSecond
  let s := s.setFollow f fun _ => { stage := 1, playing := k, dPlaying := e.latency * 48 * 16, periodTo := s.now / 10000000 * 10000000, estimatedTo := second, recordedTo := second }
  tuneMember f k i.freq i.sigType i.trusted none none s

/-- The set stops and releases what it had (R222). -/
def stopFollow (f : Nat) (s : State) : State := s.setFollow f fun _ => {}

end Sys2Proof.Machine
end

