-- ==== Sys2Proof/Machine/FrontEnd.lean ====
section
/-!
DEFINITION. Antenna inputs, courses and converters: fast checks, cross-check, leadership, slice rotation, gain control, converter records (03).
-/
namespace Sys2Proof.Machine

/-! ### Fast checks, cross-check, attribution -/

/-- The fast checks in the order of R77 and R473. -/
def fastCause : Nat → ConvCause
  | 0 => .sliceClock
  | 1 => .refVoltage
  | 2 => .supply
  | 3 => .bufferBias
  | _ => .codeBits

/-- A leader that has lost its spare slice gives way to a ready standby that has not, by a planned splice (R81). -/
def leadWithSpare (j : Nat) (s : State) : State :=
  let c := s.front.courses.get j
  match c.leader with
  | some x =>
    let other := s.convOf j (1 - x)
    if c.mode = .duplex && c.standbyReady && c.splice.isNone && (s.front.convs.get (s.convOf j x)).spareSlice.isNone
        && (s.front.convs.get other).spareSlice.isSome && s.convUsable other then
      s.setCourse j fun c => { c with splice := some (.planned (1 - x) .withoutSpare) }
    else s
  | none => s

/-- COURSE_STANDBY_READY: the new standby joins the cross-check after a full rotation (R84). -/
def standbyReady (k : Nat) (s : State) : State :=
  let j := s.courseOf k
  let c := s.front.courses.get j
  if c.mode = .duplex && !c.standbyReady && c.leader == some (1 - k % 2) && s.convUsable k then
    leadWithSpare j (raise .courseStandbyReady j [.w j, .w k] (s.setCourse j fun c => { c with standbyReady := true, lastMask := 0 }))
  else s

/-- The checks of UNIT_RESTORE on a converter end (R474). Passed: it leads a lost course, is the standby of a DUPLEX course, or is powered down. Failed, by the check named: marked failed again without counting, powered down. -/
def endConvRestore (k : Nat) (failed : Option ConvCause) (s : State) : State :=
  let j := s.courseOf k
  let w := fun (x : Wait) => decide (x = .restore (convRef k))
  match failed with
  | some cause =>
    let s := unpowerConv k (s.setConv k fun c => { c with failed := true, restoring := false })
    completeWait w .ok 1 (refresh (raise .converterFailed (k / 2) [.w k, .w cause.code] s))
  | none =>
    let s := unretireUnit (convRef k) (s.setConv k fun c => { c with failed := false, restoring := false })
    let c := s.front.courses.get j
    let s := if c.mode = .off then unpowerConv k s
      else if c.lost then supplied j (k % 2) (nextOf countsPerFrame s.now) (spliceTo j (k % 2) (s.setCourse j fun c => { c with lost := false }))
      else if c.mode = .duplex then standbyReady k s
      else unpowerConv k s
    let s := raise .unitRestored (k / 2) [.w UnitKind.converter.type, .w (k / 2), .w (k % 2), .w 2] s
    completeWait w .ok 0 (refresh s)

/-- The start of the first mismatching window of the mismatch in progress on a course, or the present instant without one (R80). -/
def Course.mismatchSince (c : Course) (now : Nat) : Nat :=
  match c.attributing with
  | some (_, first) => first
  | none => if c.lastMask = 0 then now else c.lastWindow

/-- A fast check of a powered converter trips: the converter is failed in every course mode (R77), and a mismatch in progress is its (R79, R80); the checks of UNIT_RESTORE end with it (R474). -/
def execFastCheckTrip (k check : Nat) (s : State) : Res :=
  let c := s.front.convs.get k
  onlyIf (decide (k < 2 * s.dies) && c.powered && (!c.failed || c.restoring)) s
    (if c.restoring then endConvRestore k (some (fastCause check)) s
     else failConverter k (fastCause check) ((s.front.courses.get (s.courseOf k)).mismatchSince s.now) s)

/-- A position mismatches: the powers differ by more than 0.5 dB, a ratio of 10^(1/20), or the projections by more than 8 times the standard deviation that independent noise gives (R78). -/
def CheckSig.mismatches (g : CheckSig) : Bool :=
  decide (10 * g.powB ^ 20 < g.powA ^ 20) || decide (10 * g.powA ^ 20 < g.powB ^ 20)
    || decide (8 * Config.projectionSd g.powA g.powB < (g.projA - g.projB).natAbs)

/-- The positions that mismatch (R78). -/
def mismatchMask (sigs : List CheckSig) : Nat := maskOf 8 fun i => (sigs[i]?).any CheckSig.mismatches

/-- The powers of a check window join those from which D of the standby is formed (12 R342). -/
def gatherPowers (j : Nat) (sigs : List CheckSig) (s : State) : State :=
  s.setCourse j fun c => { c with checkPower := (c.checkPower.1 + (sigs.map (·.powA)).sum, c.checkPower.2 + (sigs.map (·.powB)).sum) }

/-- SYSTIME counts of a check window: 12 plan frames (R78). -/
def checkWindow : Nat := 12 * countsPerFrame

/-- Both converters of a course are clear of a plan hop by two check windows (R86). -/
def State.crossCheckRuns (s : State) (j : Nat) : Bool :=
  [s.convOf j 0 / 2, s.convOf j 1 / 2].all fun d =>
    let h := (s.clk.get d).hop
    decide (h.phase = .idle) && (h.rephasedAt == 0 || decide (h.rephasedAt + 2 * checkWindow ≤ s.now))

/-- Spares of both converters of a course interrupted in their rotation to shadow one position (R79). -/
def suspendSpares (j : Nat) (s : State) : State :=
  (s.setConv (s.convOf j 0) fun c => { c with rotSuspended := true }).setConv (s.convOf j 1) fun c => { c with rotSuspended := true }

/-- A mismatch that no step of R79 attributes: CONTESTED (R82). -/
def contest (j mask : Nat) (s : State) : State :=
  let was := (s.front.courses.get j).contested
  let s := s.setCourse j fun c => { c with contested := true, cleanRun := 0, attributing := none }
  refresh (if was then s else raise .courseContested j [.w j, .w mask] s)

/-- A course mismatch decided: attribution by shadowing, or CONTESTED at once where neither converter has a spare (R79, R82). -/
def decideMismatch (j mask first : Nat) (s : State) : State :=
  let a := (s.front.convs.get (s.convOf j 0)).spareSlice.isSome
  let b := (s.front.convs.get (s.convOf j 1)).spareSlice.isSome
  if a || b then suspendSpares j (s.setCourse j fun c => { c with attributing := some (mask, first), lastMask := 0 })
  else contest j mask (s.setCourse j fun c => { c with lastMask := 0 })

/-- A clean window: 64 in succession clear CONTESTED (R82). -/
def cleanWindow (j : Nat) (s : State) : State :=
  let c := s.front.courses.get j
  if c.contested then
    if c.cleanRun + 1 ≥ 64 then refresh (s.setCourse j fun c => { c with contested := false, cleanRun := 0, lastMask := 0 })
    else s.setCourse j fun c => { c with cleanRun := c.cleanRun + 1, lastMask := 0 }
  else s.setCourse j fun c => { c with lastMask := 0 }

/-- A duplex check window ends: mismatches at any position in two consecutive windows decide a course mismatch (R78). -/
def execCheckWindowEnd (j : Nat) (sigs : List CheckSig) (s : State) : Res :=
  let c := s.front.courses.get j
  let mask := mismatchMask sigs
  onlyIf (decide (j < s.dies) && decide (c.mode = .duplex) && c.standbyReady && c.attributing.isNone && c.splice.isNone && s.crossCheckRuns j) s
    (let s := gatherPowers j sigs s
     if mask = 0 then cleanWindow j s
     else if c.lastMask = 0 then s.setCourse j fun c => { c with lastMask := mask, lastWindow := s.now - checkWindow, cleanRun := 0 }
     else decideMismatch j (c.lastMask ||| mask) c.lastWindow s)

/-- Shadowing ends: the converter whose spare disagrees is faulty; else the only one without a spare; else CONTESTED. Rotation resumes (R79, R82). -/
def execShadowAttributionEnd (j : Nat) (aDisagrees bDisagrees : Bool) (s : State) : Res :=
  let c := s.front.courses.get j
  match c.attributing with
  | none => .next s
  | some (mask, first) =>
    let ka := s.convOf j 0
    let kb := s.convOf j 1
    let sa := (s.front.convs.get ka).spareSlice.isSome
    let sb := (s.front.convs.get kb).spareSlice.isSome
    let a := aDisagrees && sa
    let b := bDisagrees && sb
    let s := endAttribution j s
    .next (if a && !b then failConverter ka .shadowing first s
      else if b && !a then failConverter kb .shadowing first s
      else if sa && !sb then failConverter kb .spareCount first s
      else if sb && !sa then failConverter ka .spareCount first s
      else contest j mask s)

/-! ### Leadership -/

/-- The splice edge of a fail-over: the standby leads, COURSE_FAILOVER gives the faulty span (R80). -/
def execLeaderSplice (j : Nat) (s : State) : Res :=
  let c := s.front.courses.get j
  match c.splice, c.leader with
  | some (.fault x cause first), some y =>
    onlyIf (decide (j < s.dies) && x != y && s.convUsable (s.convOf j x)) s
      (let t := supplied j x s.now (spliceTo j x s)
       let t := t.setCourse j fun c => { c with standbyReady := false }
       let t := raise .courseFailover j [.w j, .w (s.convOf j y), .w cause.code, .q first, .q s.now] t
       completeWait (fun w => w = .retire (convRef (s.convOf j y))) .ok 0 (refresh t))
  | _, _ => .next s

/-- A planned splice: to a converter that samples and has rotated fully; in SIMPLEX the old leader is powered down (R81). -/
def execPlannedSplice (j : Nat) (s : State) : Res :=
  let c := s.front.courses.get j
  match c.splice, c.leader with
  | some (.planned x reason), some y =>
    let k := s.convOf j x
    let conv := s.front.convs.get k
    let honoured := (s.cfg.active.courses.get j).preferB == (x == 1)
    onlyIf (decide (j < s.dies) && x != y && s.convUsable k && conv.sampling && conv.rotated) s
      (let t := supplied j x s.now (spliceTo j x s)
       let t := if c.mode = .simplex then unpowerConv (s.convOf j y) t
         else t.setCourse j fun c => { c with standbyReady := s.convUsable (s.convOf j y) && (s.front.convs.get (s.convOf j y)).rotated }
       refresh (raise .courseLeader j [.w j, .w k, .w reason.code, .q s.now, .w (if honoured then 0 else 1)] t))
  | _, _ => .next s

/-- The converter that is to lead a course without a leader: after a fall-back the one it names; else the preferred one, or the other if that cannot run (R75, R84, 01 R25). -/
def State.nextLeader (s : State) (j : Nat) : Nat :=
  match (s.front.courses.get j).splice with
  | some (.fault x _ _) => x
  | _ =>
    let p := if (s.cfg.active.courses.get j).preferB then 1 else 0
    if s.convUsable (s.convOf j p) then p else 1 - p

/-- A newly powered converter samples; where its course waits for it, the taps start on it at the next plan-frame boundary (R84, R471). -/
def execConverterSampling (k : Nat) (s : State) : Res :=
  let conv := s.front.convs.get k
  let j := s.courseOf k
  let c := s.front.courses.get j
  onlyIf (decide (k < 2 * s.dies) && conv.powered && !conv.sampling && !conv.failed) s
    (let t := s.setConv k fun c => { c with sampling := true }
     if c.mode != .off && c.leader.isNone && !c.lost && s.nextLeader j == k % 2 then
       let t := match c.mode, c.splice with
         | .simplex, some (.fault ..) => taskDue (.level j) t
         | _, _ => t
       refresh (startOn j (k % 2) t)
     else t)

/-! ### Slices -/

/-- The physical slice in a position (R87). -/
def Converter.sliceAt (c : Converter) (p : Nat) : Nat := c.slices.getD p 8

/-- The slices in the positions once the spare has taken the place of slice `i` (R90). -/
def Converter.withSpareFor (c : Converter) (i : Nat) : List Nat :=
  c.slices.map fun x => if x = i then c.spareSlice.getD x else x

/-- The spare moves to its next phase: shadow, then stand-in, then the next position; a full rotation passes positions 0 to 7 (R87). -/
def execSliceRotationStep (k : Nat) (s : State) : Res :=
  let conv := s.front.convs.get k
  onlyIf (decide (k < 2 * s.dies) && conv.sampling && conv.spareSlice.isSome && !conv.rotSuspended) s
    (if !conv.rotStandin then s.setConv k fun c => { c with rotStandin := true }
     else
       let wrap := conv.rotPosition ≥ 7
       let t := s.setConv k fun c =>
         { c with rotStandin := false, rotPosition := if wrap then 0 else c.rotPosition + 1, rotSteps := c.rotSteps + 1
                  rotMismatch := if wrap then 0 else c.rotMismatch, rotStart := if wrap then s.now else c.rotStart }
       let t := if wrap && conv.slicesUpdated then calSuccess 5 k (t.setConv k fun c => { c with slicesUpdated := false }) else t
       if conv.rotSteps + 1 ≥ 8 then (if conv.restoring then endConvRestore k none t else standbyReady k t) else t)

/-- A retired slice: the spare takes its place, or leaves the rotation if it is the spare; a second retirement fails the converter (R90). Where the leader is then without a spare and the standby is not, leadership moves as planned (R81). -/
def retireSlice (k i : Nat) (s : State) : State :=
  let conv := s.front.convs.get k
  let j := s.courseOf k
  let s := retireUnit (sliceRef k i) s
  if conv.spareSlice.isNone then
    failConverter k .secondRetirement s.now (raise .sliceRetired (k / 2) [.w k, .w i] (s.setConv k fun c => { c with retired := c.retired ||| 2 ^ i }))
  else
    let s := s.setConv k fun c => { c with retired := c.retired ||| 2 ^ i, slices := c.withSpareFor i, spareSlice := none, rotStandin := false, probation := none }
    refresh (leadWithSpare j (raise .sliceRetired (k / 2) [.w k, .w i] s))

/-- Occurrences that this rotation charged to a converter's slices, charged to its spare instead (R89). -/
def moveToSpare (k spare since : Nat) (s : State) : State :=
  { s with integ := { s.integ with occs := s.integ.occs.map fun o =>
      if o.cls = 1 && o.unit.kind = .slice && o.unit.die == k / 2 && o.unit.loc == k % 2 && decide (since ≤ o.at_)
      then { o with unit := sliceRef k spare } else o } }

/-- A slice mismatch counted: against the slice, or against the spare once three positions mismatched in one rotation; retirement once lasting (R89, 14 R378). -/
def sliceMismatch (k : Nat) (s : State) : State :=
  let conv := s.front.convs.get k
  let m := conv.rotMismatch ||| 2 ^ conv.rotPosition
  let s := s.setConv k fun c => { c with rotMismatch := m }
  match conv.spareSlice, conv.probation with
  | some sp, some _ => retireSlice k sp s
  | some sp, none =>
    let many := decide (3 ≤ (maskList 8 m).length)
    let s := if many then moveToSpare k sp conv.rotStart s else s
    let target := if many then sp else conv.sliceAt conv.rotPosition
    let r := occur 1 (sliceRef k target) s
    if r.1 then retireSlice k target r.2 else r.2
  | none, _ => s

/-- A phase passed on probation: two end it (R91). -/
def probationPassed (c : Converter) : Converter :=
  { c with probation := match c.probation with
      | some (sl, n + 2) => some (sl, n + 1)
      | _ => none }

/-- The probation of a restored slice ends with its UNIT_RESTORE: 0 passed, 1 retired again (R91). -/
def completeProbation (k result : Nat) (s : State) : State :=
  completeWait (fun w => match w with
    | .restore u => decide (u.kind = .slice) && u.die == k / 2 && u.loc == k % 2
    | _ => false) .ok result s

/-- A shadow phase ends. RMS and mean differences in 0.01 dBFS; a mismatch above −60 dBFS, above −66 dBFS or outside the authority (R89). `convFault`: the comparison shows the converter itself at fault, which in a course without a ready standby is its detection (R84). -/
def execShadowPhaseEnd (k : Nat) (rms mean : Int) (inAuthority convFault : Bool) (s : State) : Res :=
  let conv := s.front.convs.get k
  let c := s.front.courses.get (s.courseOf k)
  let bad := decide (-6000 < rms) || decide (-6600 < mean) || !inAuthority
  onlyIf (decide (k < 2 * s.dies) && conv.sampling && conv.spareSlice.isSome && !conv.rotStandin && !conv.rotSuspended) s
    (let t := if bad then
         let t := raise .sliceMismatch (k / 2) [.w k, .w (conv.sliceAt conv.rotPosition), .w rms, .w mean] s
         if conv.restoring then endConvRestore k (some .simplexShadow) t
         else sliceMismatch k (completeProbation k 1 t)
       else
         let t := s.setConv k probationPassed
         if (t.front.convs.get k).probation.isNone then completeProbation k 0 t else t
     if convFault && c.leader == some (k % 2) && !c.standbyReady then failConverter k .simplexShadow s.now t else t)

/-- An estimate within the correction authority: ±0.5 dB, ±2 %, ±5 ps (R88). -/
def SliceCoef.inAuthority (c : SliceCoef) : Bool :=
  decide (c.gain.natAbs ≤ 500) && decide (c.offset.natAbs * 50 ≤ 65536) && decide (c.skew.natAbs ≤ 5000)

/-- A new slice correction takes effect at the block boundary, for the active plan only; estimation stops without a spare (R88, R90). -/
def execSliceCoeffUpdate (k i : Nat) (coef : SliceCoef) (s : State) : Res :=
  let conv := s.front.convs.get k
  onlyIf (decide (k < 2 * s.dies) && decide (i < 9) && conv.sampling && conv.spareSlice.isSome && coef.inAuthority) s
    (setSliceCoef k i coef (s.setConv k fun c => { c with slicesUpdated := true }))

/-! ### Gain -/

/-- The smallest whole number of dB not below a level difference in 0.01 dB. -/
def ceilDb (x : Int) : Int := (x + 99) / 100

/-- An AGC window ends with its peak in 0.01 dBFS; the tracker runs under manual gain too, so that peak_over(HOLD) is known when AGC starts. With AGC on: attack at once, release after HOLD and RELEASE_INTERVAL, held while a level measurement runs on the course (R93, R96). -/
def execAgcWindow (j : Nat) (peak : Int) (s : State) : Res :=
  let c := s.front.courses.get j
  let e := s.cfg.active.courses.get j
  let attack := decide (e.attack * 100 ≤ peak)
  let loudAt := if e.release * 100 ≤ peak then s.now else c.loudAt
  onlyIf (decide (j < s.dies) && c.leader.isSome) s
    (if !c.agcOn then s.setCourse j fun c => { c with loudAt := loudAt } else
     let t := s.setCourse j fun c => { c with loudAt := loudAt, agcAtLimit := attack && decide (c.gain = e.gainMin), agcLimitAt := if attack && decide (c.gain = e.gainMin) then c.agcLimitAt else 0 }
     if attack then setGain j (max e.gainMin (c.gain - ceilDb (peak - e.target * 100))) t
     else if decide (loudAt + e.hold * 10000000 ≤ s.now) && decide (c.riseAt + e.releaseInterval * 1000000 ≤ s.now) && !s.levelMeasuring j then
       setGain j (min e.gainMax (c.gain + 1)) (t.setCourse j fun c => { c with riseAt := s.now })
     else t)

/-- AGC_LIMIT, once per second while the gain is at GAIN_MIN and the peaks still reach ATTACK_LEVEL (R93). -/
def execAgcLimit (j : Nat) (peak : Int) (s : State) : Res :=
  let c := s.front.courses.get j
  onlyIf (decide (j < s.dies) && c.agcAtLimit && (c.agcLimitAt == 0 || decide (c.agcLimitAt + countsPerSecond ≤ s.now))) s
    (raise .agcLimit j [.w j, .w peak] (s.setCourse j fun c => { c with agcLimitAt := s.now }))

/-! ### Records and registers -/

/-- Gain steps of a course within a tick, saturating at 255 (R99). -/
def State.gainStepsIn (s : State) (j tick : Nat) : Nat :=
  min 255 (s.link.marks.filter fun m => m.1 == j && !m.2.2.2 && tickOf m.2.1 == tick).length

/-- A signed 16-bit value. -/
def W16.int (x : W16) : Int := x.toInt

/-- The record of a tick from the codes taken in it (R99). -/
def tickRecord (xs : List SliceCode) (tick : Nat) (gainEnd : Int) (steps : Nat) : ConvRecord :=
  let out := (xs.filter (·.output)).map (·.code)
  { pwrSum := BitVec.ofNat 64 ((out.map fun c => (c * c).toNat).sum)
    pwrCount := BitVec.ofNat 32 out.length
    tickNum := BitVec.ofNat 32 tick
    lo := BitVec.ofInt 16 (levelMin out), hi := BitVec.ofInt 16 (levelMax out)
    clipCount := BitVec.ofNat 32 (out.countP fun c => decide (c ≤ -8192) || decide (8191 ≤ c))
    gainEnd := gainEnd, gainSteps := steps
    sliceLevels := (List.range 9).map fun i =>
      let ys := (xs.filter fun x => x.slice = i).map (·.code)
      if ys.isEmpty then 0x8000 else BitVec.ofInt 16 (db100 (2 * (ys.map fun c => (c * c).toNat).sum) (8192 * 8192 * ys.length)) }

/-- At the end of a tick the converter's record is latched from the codes of the tick: as many in the output as the plan gives a full tick, fewer only where the converter was powered within it. The sticky fields take in the codes taken since they were cleared (R99, R100). -/
def execConverterRecordLatch (k : Nat) (codes : List SliceCode) (s : State) : Res :=
  let conv := s.front.convs.get k
  let j := s.courseOf k
  let start := s.now - countsPerTick
  let S := planFrameSamples (s.clk.get (k / 2)).plan
  let full := 3125 * S
  let out := codes.filter (·.output)
  let since := ((out.zipIdx).filter fun x => decide (conv.stickyFrom ≤ start + (full - out.length + x.2) * 32 / S)).map (·.1.code)
  let clips := since.countP fun c => decide (c ≤ -8192) || decide (8191 ≤ c)
  onlyIf (decide (k < 2 * s.dies) && conv.powered && decide (s.now % countsPerTick = 0) && decide (conv.latchedTo < s.now)
      && (decide (out.length = full) || (decide (start < conv.poweredAt) && decide (out.length ≤ full)))) s
    (s.setConv k fun c =>
      { c with
        latched := tickRecord codes (tickOf start) (s.gainAt j (s.now - 1 : Nat)) (s.gainStepsIn j (tickOf start)), latchedTo := s.now
        stickyMin := since.foldl (fun m x => if x < m.toInt then BitVec.ofInt 16 x else m) c.stickyMin
        stickyMax := since.foldl (fun m x => if m.toInt < x then BitVec.ofInt 16 x else m) c.stickyMax
        stickyClip := if c.stickyClip.toNat + clips ≥ 0xFFFFFFFF then 0xFFFFFFFF else BitVec.ofNat 32 (c.stickyClip.toNat + clips) })

/-- A read of PWR_SUM_LO snapshots the whole latched record (R100); of an absent die it returns 0 (00 R4). -/
def execPwrSumLoRead (k : Nat) (s : State) : Res :=
  dieRead (k / 2) ((s.front.convs.get k).latched.pwrSum.toNat % 2 ^ 32) (fun t => t.setConv k fun c => { c with snap := c.latched }) s

/-- CLEAR_STICKY resets STICKY_MIN, STICKY_MAX and STICKY_CLIP (R100). -/
def execClearSticky (k : Nat) (s : State) : Res :=
  dieWrite (k / 2) true (fun t => t.setConv k fun c => { c with stickyMin := 0x7FFF, stickyMax := 0x8000, stickyClip := 0, stickyFrom := s.now }) s

/-- A write of FEED_LIMITS, ignored when OVER_LIMIT is not above OPEN_LIMIT (R73, 03 "Front-end registers"). -/
def execFeedLimitsWrite (n openLimit overLimit : Nat) (s : State) : Res :=
  onlyIf s.barUp s
    (let t := hostAccess s
     if n < s.dies ∧ openLimit < overLimit ∧ overLimit < 65536 then t.setCourse n fun c => { c with openLimit := openLimit, overLimit := overLimit } else t)

end Sys2Proof.Machine
end

