-- ==== Sys2Proof/Machine/Slots.lean ====
section
/-!
DEFINITION. Programme slots and decode contexts (08): access units, the rate follower, loudness, silence, classes, the programme match, records, PCM blocks, known-answer vectors.
-/
namespace Sys2Proof.Machine

/-! ### Spans -/

/-- Spans that ended more than 2 s ago are dropped. -/
def keepSpans (now : Nat) (xs : List SlotSpan) : List SlotSpan :=
  xs.filter fun p => match p.stop with
    | some e => decide (now < e + 2 * countsPerSecond)
    | none => true

/-- A span put on a slot. -/
def addSpan (x : Nat) (p : SlotSpan) (s : State) : State :=
  s.setSlot x fun y => { y with spans := keepSpans s.now y.spans ++ [p] }

/-! ### Classes (R240, R241) -/

/-- A class is muted on a slot. -/
def SlotEntry.mutes (e : SlotEntry) (cls : Nat) : Bool := e.classify == 2 && decide (0 < cls) && maskBit e.muteClasses (cls - 1)

/-- The open class spans of a slot end at `t`. -/
def closeClass (t : Nat) (xs : List SlotSpan) : List SlotSpan :=
  xs.map fun p => if p.stop.isNone then { p with stop := some t } else p

/-- A class is declared from output instant `t` on (R240, R241). -/
def declareClass (x cls t : Nat) (s : State) : State :=
  let e := s.cfg.active.slots.get x
  let y := s.audio.slots.get x
  if e.classify = 0 || y.cls = cls then s
  else
    let m := e.mutes cls
    let s := if y.cls = 0 then s else raise .nonAudioEnd (slotDie x) [.w x, .w y.cls, .q t] s
    let s := s.setSlot x fun y =>
      { y with cls := cls, clsRun := 0, muteEnds := none
               spans := closeClass t y.spans ++ [⟨t, none, flNonAudio + flagIf m flMuted, m⟩] }
    raise .nonAudioStart (slotDie x) [.w x, .w cls, .q t] s

/-- The return to PROGRAMME at `t`: NON_AUDIO ends, a class mute lasts to the next block boundary (R241). -/
def endClass (x t : Nat) (s : State) : State :=
  let y := s.audio.slots.get x
  if y.cls = 0 then s
  else
    let m := (s.cfg.active.slots.get x).mutes y.cls
    let s := raise .nonAudioEnd (slotDie x) [.w x, .w y.cls, .q t] s
    s.setSlot x fun y =>
      { y with cls := 0, clsRun := 0, muteEnds := if m then some (nextOf countsPerBlock t) else none
               spans := closeClass t y.spans ++ if m then [⟨t, none, flMuted, true⟩] else [] }

/-- The class of a window's valid samples: 1 TONE, 2 NOISE, 3 DATA, else 0 PROGRAMME; the first test that holds (R240). -/
def windowClass (xs : List PcmSample) : Nat :=
  let ys := xs.map fun p => (p.left, p.right)
  if Config.isTone ys then 1 else if Config.isNoise ys then 2 else if Config.isData ys then 3 else 0

/-- Peak of both channels of the valid samples in 0.01 dBFS; none without one. -/
def peakOf (xs : List PcmSample) : Option Int :=
  let v := xs.filter PcmSample.valid
  if v.isEmpty then none else some (db100 ((v.map fun (p : PcmSample) => max (p.left * p.left) (p.right * p.right)).foldl max 0).toNat (2 ^ 46))

/-- The class of the 200 ms window that ends at `t1`; none where nothing is kept, where it is silent or void (R240, R244). -/
def State.classHeard (s : State) (x t1 : Nat) : Option Nat :=
  if (s.audio.slots.get x).pcm.isEmpty then none else
  let xs := (s.audio.slots.get x).between (gridCeil t1 - 9600) (gridCeil t1)
  let silent := match peakOf xs with
    | some p => decide (p ≤ (s.cfg.active.slots.get x).silenceLevel)
    | none => true
  if silent || xs.any (fun p => !p.valid) then none else some (windowClass xs)

/-- A window's class counted: five in succession declare a class, ten of PROGRAMME end it (R240). -/
def judgeClass (x c : Nat) (s : State) : State :=
  let y := s.audio.slots.get x
  let run := if c = y.clsCand then y.clsRun + 1 else 1
  let t := s.setSlot x fun y => { y with clsCand := c, clsRun := run }
  if c ≠ 0 && 5 ≤ run then declareClass x c s.now t
  else if c = 0 && 10 ≤ run then endClass x s.now t
  else t

/-- The window that ends at `t1` judged, unless it is silent or void (R240, R244). -/
def judgeWindow (x t1 : Nat) (s : State) : State :=
  match s.classHeard x t1 with
  | none => s
  | some c => judgeClass x c s

/-- A 200 ms classifier window ends; a silent window leaves the state as it is, and one with an excluded sample is void (R240, R244). -/
def execClassifierWindow (x : Nat) (air : Air) (s : State) : Res :=
  let e := s.cfg.active.slots.get x
  let t1 := s.now / 20000000 * 20000000
  onlyIf (s.slotOn x && decide (e.classify ≠ 0) && decide ((s.audio.slots.get x).classTo < t1)) s
    (judgeWindow x t1 ((hearSlot air x t1 s).setSlot x fun y => { y with classTo := t1 }))

/-- At the block boundary after the return to PROGRAMME the class mute ends (R241). -/
def execNonAudioMuteEnd (x : Nat) (s : State) : Res :=
  match (s.audio.slots.get x).muteEnds with
  | some t => onlyIf (s.slotUp x && s.dieRuns (slotDie x) && decide (t ≤ s.now)) s (s.setSlot x fun y => { y with muteEnds := none, spans := closeClass t y.spans })
  | none => .next s

/-! ### Access units (R230 to R235) -/

/-- A unit that came in damaged (R231). -/
def AccessUnit.damaged (u : AccessUnit) : Bool := !u.crcOk || u.erased || u.rsFailed

/-- A unit that waits for its samples to be due, with what its codec says of it (R228, R230). -/
def AccessUnit.held (u : AccessUnit) : HeldUnit :=
  let f := Config.audioFormat u.codec u.payload
  { unit := u, first := u.auIndex * f.2.2, rate := f.1, channels := f.2.1, length := f.2.2 }

/-- Output rate and channels before a unit that comes in: those of the last unit that waits, or those in force (R230). -/
def ContextSt.lastFormat (y : ContextSt) : Nat × Nat := (y.queue.getLast?.map fun q => (q.rate, q.channels)).getD (y.fOut, y.channels)

/-- A context takes the next access unit of its sub-channel: an unsupported codec is reported once a run, a change of rate or channels at each (R228, R230, R232). -/
def execAccessUnitReceived (k : Nat) (s : State) : Res :=
  let y := s.audio.contexts.get k
  match s.contextSlot k, y.inbox with
  | some x, u :: rest =>
    onlyIf (decide (k < s.dies * 48) && s.slotOn x && !s.retired (contextRef k)) s
      (let h := u.held
       let ok := codecSupported u.codec
       let args : List EvArg := [.w x, .w k, .w u.codec, .w h.rate, .w h.channels]
       let t := s.setContext k fun z => { z with inbox := rest, queue := z.queue ++ [h], codec := some u.codec, unsupported := !ok }
       let t := if !ok && !y.unsupported then raise .codecUnsupported (slotDie x) args t else t
       if ok && !u.damaged && y.lastFormat.1 ≠ 0 && y.lastFormat ≠ (h.rate, h.channels) then raise .codecChange (slotDie x) args t else t)
  | _, _ => .next s

/-- The first grid point at which a place is read. -/
def ContextSt.whenAt (y : ContextSt) (z : Int) : Option Int :=
  y.segs.head?.map fun q => q.at_ + ceilDiv (z - q.place) (placeStep + q.corr)

/-- The grid point at which the next unit's first sample is due: where the follower comes to the end of what is decoded, or, before it has anchored, at the unit's air instant and the effective delay (R230, R233, R236). -/
def State.unitDue (s : State) (k : Nat) : Option Int :=
  let y := s.audio.contexts.get k
  match y.whenAt y.stop, y.queue with
  | some n, _ => some n
  | none, h :: _ => some (ceilDiv (h.air + s.contextDelay k) placeStep)
  | none, [] => none

/-- What stands next in the stream: the first unit that waits, or, where its air instant is more than half a unit later than the stream's end, none: a missing unit (R231, R233). -/
def ContextSt.nextUnit (y : ContextSt) : Option HeldUnit :=
  match y.queue, y.units with
  | h :: _, u :: _ => if 2 * (h.air - (u.air + (u.stop - u.start))) > u.stop - u.start then none else some h
  | h :: _, [] => some h
  | [], _ => none

/-- Flags of a unit's feed that its samples carry: STALE, CLOCK_SUSPECT, COVERED, HOLDOVER (R237). -/
def feedCarried : Nat := 0x50C

/-- A unit put at the end of the stream; those older than 30 s are dropped. -/
def ContextSt.push (y : ContextSt) (u : PcmUnit) : ContextSt :=
  { y with units := u :: y.units.filter fun v => decide (u.stop < v.stop + 30 * 48000 * placeStep) }

/-- The follower begins on the first decodable unit with ε = 0 (R236). -/
def ContextSt.anchor (y : ContextSt) (air delay : Int) : ContextSt :=
  let n := ceilDiv (air + delay) placeStep
  { y with segs := [⟨n, y.stop + (n * placeStep - air - delay), 0⟩], eps := 0, epsSum := 0, corr := 0 }

/-- What stands next is lost or missing (R231). -/
def unitLost (next : Option HeldUnit) : Bool :=
  match next with
  | some h => h.lost || h.unit.damaged
  | none => true

/-- Flags that a unit's samples carry from its feed: its own, or, where it is missing, STALE of a feed lane under HOLD (R237). -/
def State.unitCarried (s : State) (x : Nat) (next : Option HeldUnit) : Nat :=
  (next.map fun h => h.unit.flags &&& feedCarried).getD (flagIf ((s.slotLanes x).any fun l => s.heldIn l s.now (s.now + 1)) flStale)

/-- A unit of samples put at the end of the stream in the place of `h`, or, where none stands there, after the last unit (R228, R231). -/
def ContextSt.put (y : ContextSt) (h : Option HeldUnit) (rate : Nat) (samples : List (Int × Int)) (fl overlap : Nat) : ContextSt :=
  let last := y.units.head?
  y.push
    { start := y.stop, rate := rate, samples := samples, flags := fl, overlap := overlap
      base := (h.map (·.unit.doneAt)).getD ((last.map (·.base)).getD 0)
      first := (h.map (·.first)).getD ((last.map fun u => u.first + u.samples.length).getD 0) }

/-- What stands next leaves the wait. -/
def ContextSt.take (y : ContextSt) (next : Option HeldUnit) : ContextSt := if next.isSome then { y with queue := y.queue.drop 1 } else y

/-- A unit leaves the wait, and the follower begins on it if it has not begun (R236). -/
def ContextSt.begin_ (y : ContextSt) (h : HeldUnit) (delay : Int) : ContextSt :=
  if y.segs.isEmpty then (y.take (some h)).anchor h.air delay else y.take (some h)

/-- A lost or missing unit: as long as the last one, by the codec's concealment, zero when the one before was lost too; FILL (R231, R235). -/
def ContextSt.fill (y : ContextSt) (next : Option HeldUnit) (carried : Nat) : ContextSt :=
  let last := (y.units.head?.map fun u => (u.samples.length, u.rate)).getD (0, 0)
  let r := if y.inRun then (y.memory, List.replicate last.1 ((0, 0) : Int × Int)) else Config.audioConceal (y.codec.getD 0) y.memory last.1
  { (y.take next).put next last.2 r.2 (flFill ||| carried) 0 with memory := r.1, inRun := true, afterLoss := true }

/-- A unit whose codec the context lacks: zero, MUTED (R232). -/
def ContextSt.mutedUnit (y : ContextSt) (h : HeldUnit) (delay : Int) (carried : Nat) : ContextSt :=
  { (y.begin_ h delay).put (some h) h.rate (List.replicate h.length (0, 0)) (flMuted ||| carried) 0 with decoding := false, fresh := true }

/-- A unit not decoded in time: zero, LATE (R235). -/
def ContextSt.lateUnit (y : ContextSt) (h : HeldUnit) (carried : Nat) : ContextSt :=
  { (y.take (some h)).put (some h) h.rate (List.replicate h.length (0, 0)) (flLate ||| carried) 0 with auLate := y.auLate + 1, afterLoss := true, fresh := true }

/-- A unit decoded; after a loss or a late unit its overlap carries FILL (R230, R231, R235). -/
def ContextSt.decodedUnit (y : ContextSt) (h : HeldUnit) (delay : Int) (carried : Nat) : ContextSt :=
  let r := Config.audioDecode h.unit.codec y.memory h.unit.payload
  { (y.begin_ h delay).put (some h) h.rate r.2 carried (if y.afterLoss then Config.audioOverlap h.unit.codec h.rate else 0) with
    memory := r.1, decoding := true, fOut := h.rate, channels := h.channels, auDecoded := y.auDecoded + 1, inRun := false, afterLoss := false, fresh := true }

/-- A unit counted on its slot, with the lead of its content where it is the period's first (R243). -/
def SlotSt.countUnit (z : SlotSt) (next : Option HeldUnit) : SlotSt :=
  { z with auTotal := z.auTotal + 1, contentLead := match z.contentLead, next with
      | none, some h => some (h.unit.doneAt - h.unit.airTime)
      | c, _ => c }

/-- An access unit's first sample falls due: decoded, concealed as lost or missing, zero for want of a codec, or discarded as LATE. `finished`: decoded in time (R231, R232, R235, R236). -/
def execAuDue (k : Nat) (finished : Bool) (s : State) : Res :=
  let y := s.audio.contexts.get k
  match s.contextSlot k, s.unitDue k with
  | some x, some n =>
    let next_ := y.nextUnit
    let lost := unitLost next_
    let ok := !lost && (next_.all fun h => !codecSupported h.unit.codec || finished)
    let carried := s.unitCarried x next_
    onlyIf (decide (k < s.dies * 48) && s.slotOn x && !s.retired (contextRef k) && decide (n ≤ gridFloor s.now)) s
      (let t := s.setSlot x fun z => z.countUnit next_
       let class_ := fun (t : State) => if next_.any (·.unit.scrambled) then declareClass x 4 (gridInstant n.toNat) t else t
       if y.segs.isEmpty && !ok then
         (t.setContext k fun z => z.take next_).setSlot x fun z => { z with auLost := if lost then z.auLost + 1 else z.auLost }
       else if lost then
         (t.setContext k fun z => z.fill next_ carried).setSlot x fun z => { z with auLost := z.auLost + 1 }
       else match next_ with
         | none => t
         | some h =>
           if !codecSupported h.unit.codec then class_ (t.setContext k fun z => z.mutedUnit h (s.contextDelay k) carried)
           else if !finished then class_ ((t.setContext k fun z => z.lateUnit h carried).setSlot x fun z => { z with auLate := z.auLate + 1 })
           else class_ (t.setContext k fun z => z.decodedUnit h (s.contextDelay k) carried))
  | _, _ => .next s

/-! ### The rate follower (R233, R234) -/

/-- A clamp. -/
def clampInt (lo hi v : Int) : Int := max lo (min hi v)

/-- 20 ms as a place (R234). -/
def resyncLimit : Int := 20 * placeMs

/-- Once per unit: ε where the unit's samples begin, and e = kp·ε + ki·Σε held within ±1,000 ppm; beyond 20 ms a re-anchor follows at the block boundary (R233, R234). -/
def execRateFollowerUpdate (k : Nat) (s : State) : Res :=
  let y := s.audio.contexts.get k
  match s.contextSlot k, y.units, y.segs with
  | some x, u :: _, q :: _ =>
    let n := gridFloor s.now
    let z := q.place + ((n : Int) - q.at_) * (placeStep + q.corr)
    onlyIf (s.slotOn x && y.fresh) s
      (let eps := s.followerError k n z u
       if resyncLimit < eps.natAbs then s.setContext k fun y => { y with fresh := false, eps := eps, resync := true }
       else s.setContext k fun y =>
         let sum := y.epsSum + eps
         let e := clampInt (-1000000) 1000000 (roundDiv (Config.followerGains.1 * eps + Config.followerGains.2 * sum) (2 ^ 40))
         { y with fresh := false, eps := eps, epsSum := sum, corr := e, segs := (⟨n, z, e⟩ :: y.segs).take 256 })
  | _, _, _ => .next s

/-- At the block boundary the follower re-anchors: ε is 0, what it does not fill carries FILL, content is skipped or repeated by the step (R234). -/
def execSlotResync (k : Nat) (s : State) : Res :=
  let y := s.audio.contexts.get k
  match s.contextSlot k, y.units with
  | some x, u :: _ =>
    let n : Int := gridCeil s.now
    onlyIf (s.slotOn x && y.resync && decide (s.now % countsPerBlock = 0)) s
      (let place := u.start + (n * placeStep - s.contextDelay k - u.air)
       raise .slotResync (slotDie x) [.w x, .w (y.eps / placeCount), .q s.now]
         ((s.setContext k fun y => { y with resync := false, eps := 0, epsSum := 0, segs := (⟨n, place, y.corr⟩ :: y.segs).take 256 }).setSlot x fun z =>
           { z with resyncSeen := true }))
  | _, _ => .next s

/-! ### Loudness (R238) -/

/-- Whether the loudness −0.691 + 10 log10 z of a power z in units of 2^−32 is at least n − 1/2 hundredths: 10^(10 n + 686) ≤ z^10000 with z relative to full scale. -/
def loudAtLeast (z : Nat) (n : Int) : Bool :=
  let a := 10 * n + 686
  let full := ((2 ^ 200) ^ 40) ^ 40
  let p := (z ^ 100) ^ 100
  if 0 ≤ a then decide (10 ^ a.toNat * full ≤ p) else decide (full ≤ p * 10 ^ (-a).toNat)

/-- The greatest n in [lo, lo + 2^k) that holds, by halving. -/
def loudSearch (z : Nat) : Nat → Int → Int
  | 0, lo => lo
  | k + 1, lo => if loudAtLeast z (lo + 2 ^ k) then loudSearch z k (lo + 2 ^ k) else loudSearch z k lo

/-- Loudness in 0.01 LUFS, rounded to nearest; from −16,384 (R238). -/
def loudOf (z : Nat) : Int := loudSearch z 15 (-16384)

/-- Short-term loudness: the power mean of the last 30 blocks, once all 30 are formed (R238). -/
def SlotSt.loudS (y : SlotSt) : Option Int :=
  if y.recent.length = 30 && y.recent.all (·.isSome) then some (loudOf ((y.recent.filterMap id).foldl (· + ·) 0 / 30)) else none

/-- The blocks that pass both gates of integrated loudness: above −70 LUFS, and within 10 LU below their mean (R238). -/
def SlotSt.gated (y : SlotSt) : List Nat :=
  let sum := y.integ.foldl (· + ·) 0
  y.integ.filter fun z => decide (sum < z * 10 * y.integ.length)

/-- Integrated loudness (R238). -/
def SlotSt.loudI (y : SlotSt) : Option Int :=
  let g := y.gated
  if g.isEmpty then none else some (loudOf (g.foldl (· + ·) 0 / g.length))

/-- The short-term loudness at a whole second, 0x8000 if none, for the slot's leaf (15 R407). -/
def loudNote (x t : Nat) (s : State) : State :=
  if t % countsPerSecond = 0 then
    note { kind := 3, index := x, at_ := t - 1, tag := .loud, vals := [((s.audio.slots.get x).loudS).getD 0x8000] } s
  else s

/-- z of a gating block in units of 2^−32: the sum over both channels of the mean square of the K-weighted samples; none where a sample is excluded (R238). The weighting runs on the samples kept. -/
def SlotSt.blockPower (y : SlotSt) (n0 n1 : Nat) : Option Nat :=
  let xs := y.between n0 n1
  if y.pcm.isEmpty || xs.any (fun p => !p.valid) then none
  else
    let all := y.between (y.pcmTo - y.pcm.length) n1
    let w := fun (h : PcmSample → Int) => let ys := (Config.kWeighted (all.map h)).drop (all.length - xs.length)
      (dot ys ys).toNat
    some ((w (·.left) + w (·.right)) / (xs.length * 2 ^ 14))

/-- A gating block taken: above −70 LUFS it counts for integrated loudness and the period's sum (R238, R243). -/
def SlotSt.addBlock (y : SlotSt) (z : Option Nat) : SlotSt :=
  let y := { y with recent := (z :: y.recent).take 30 }
  match z with
  | none => y
  | some v =>
    let gate := decide (-7000 < loudOf v)
    { y with
      zLast := some v, zMax := some (max v (y.zMax.getD 0))
      integ := if gate then y.integ ++ [v] else y.integ, zSum := if gate then y.zSum + v else y.zSum, zCount := if gate then y.zCount + 1 else y.zCount }

/-- Every 100 ms a 400 ms gating block ends (R238). -/
def execLoudnessBlock (x : Nat) (air : Air) (s : State) : Res :=
  let t1 := s.now / 10000000 * 10000000
  onlyIf (s.slotOn x && decide ((s.audio.slots.get x).loudTo < t1)) s
    (loudNote x t1 (((hearSlot air x t1 s).setSlot x fun y => { y with loudTo := t1 }).setSlot x fun y =>
      y.addBlock (y.blockPower (gridCeil t1 - 19200) (gridCeil t1))))

/-! ### Silence (R239) -/

/-- A slot's measurement period in counts. -/
def SlotEntry.period (e : SlotEntry) : Nat := if e.measLong then 100000000 else 10000000

/-- A 10 ms window counted: unknown without a valid sample, silent at or below SILENCE_LEVEL, else sounding (R239). -/
def SlotSt.addWindow (y : SlotSt) (e : SlotEntry) (t0 at_ : Nat) (peak : Option Int) : SlotSt :=
  match peak with
  | none => { y with unknownWindows := y.unknownWindows + 1 }
  | some p =>
    if p ≤ e.silenceLevel then
      { y with silentRun := y.silentRun + 1, runOut := if y.silentRun = 0 then t0 else y.runOut, runAir := if y.silentRun = 0 then at_ else y.runAir
               silentWindows := y.silentWindows + 1, silenceMap := y.silenceMap ||| 2 ^ (t0 % e.period / 1000000)
               silent := y.silent || decide (e.silenceMin * 10 ≤ y.silentRun + 1) }
    else { y with silentRun := 0, silent := false }

/-- A 10 ms window from `t0` to `t1` judged: silent, sounding, or unknown without a valid sample (R239); its words go to the slot's leaf (15 R407). -/
def judgeSilence (x t0 t1 : Nat) (s : State) : State :=
  let e := s.cfg.active.slots.get x
  let y := s.audio.slots.get x
  let n0 := gridCeil t0
  let xs := y.between n0 (gridCeil t1)
  let at_ := t0 - (s.slotLatency x n0).getD 0
  let peak := peakOf xs
  let t := s.setSlot x fun y => y.addWindow e t0 at_ peak
  let z := t.audio.slots.get x
  let t := note { kind := 3, index := x, at_ := t0, tag := .silence, vals := [if peak.any (· ≤ e.silenceLevel) then 1 else 0] }
    (note { kind := 3, index := x, at_ := t0, tag := .words, bytes := xs.flatMap PcmSample.words } t)
  if !y.silent && z.silent then raise .silenceStart (slotDie x) [.w x, .q z.runOut, .q z.runAir] t
  else if y.silent && !z.silent then raise .silenceEnd (slotDie x) [.w x, .q t0, .q at_] t
  else t

/-- A 10 ms window ends (R239). -/
def execSilenceWindow (x : Nat) (air : Air) (s : State) : Res :=
  let t1 := s.now / 1000000 * 1000000
  onlyIf (s.slotOn x && decide ((s.audio.slots.get x).silentTo < t1)) s
    (judgeSilence x (t1 - 1000000) t1 ((hearSlot air x t1 s).setSlot x fun y => { y with silentTo := t1 }))

/-! ### The programme match (R242) -/

/-- The match state after non-void estimates, newest first (R242). -/
def matchAfter (min : Nat) (old : MatchSt) (es : List MatchEst) : MatchSt :=
  match es with
  | [a, b, c] =>
    let m := median3 a.lag b.lag c.lag
    if es.all fun e => decide (min * 100 ≤ e.rho) && decide ((e.lag - m).natAbs ≤ 32) then .matched
    else if es.all fun e => decide (e.rho < min * 100) then .mismatched
    else old
  | _ => old

/-- The reference of a slot at grid index `n`: one input channel, or an even and odd pair mixed to mono (R242). -/
def State.reference (s : State) (a : Air) (x n : Nat) : Option Int :=
  let e := s.cfg.active.slots.get x
  let one := fun (c : Nat) => s.inputSample a (c / 8) (c % 8) n
  if e.matchKind = 2 then (match one e.matchChannel, one (e.matchChannel + 1) with
    | some l, some r => some (roundDiv (l + r) 2)
    | _, _ => none)
  else one e.matchChannel

/-- MATCH_WINDOW in seconds. -/
def SlotEntry.matchSeconds (e : SlotEntry) : Nat := corrSeconds e.matchWindow

/-- The comparison at `t`: W_m s of the reference, which end MATCH_RANGE before the air instant of the slot's latest sample, found in the slot's audio from 1 s earlier to MATCH_RANGE later; none where it is void (R242). -/
def State.matchFound (s : State) (a : Air) (x t : Nat) : Option MatchEst :=
  let e := s.cfg.active.slots.get x
  let y := s.audio.slots.get x
  let n1 := gridCeil t
  let w := 48000 * e.matchSeconds
  let range := 48000 * e.matchRange
  let lat16 : Int := roundDiv (((s.slotLatency x (n1 - 1)).getD 0 : Nat) * 48) 6250
  let latN := (lat16 / 16).toNat
  let refEnd := n1 - latN - range
  let ref := (List.range w).map fun i => s.reference a x (refEnd - w + i)
  let own := corrWindow (y.between (n1 - range - w - 48000) n1)
  if voidWindow ref || voidWindow own then none
  else
    let rs := Config.speechBand (valuesOf ref)
    let os := Config.speechBand (valuesOf own)
    let r := correlate rs os ((range + 48000) / 6)
    let part := (os.drop r.2.2).take w
    some { lag := r.1 - 16 * 48000 + 16 * latN - lat16, rho := r.2.1.toNat, gain := db100 (dot part part).toNat (dot rs rs).toNat }

/-- A non-void estimate counted, with the events of a change (R242). -/
def judgeMatch (x : Nat) (q : MatchEst) (s : State) : State :=
  let y := s.audio.slots.get x
  let es := (q :: y.matchEsts).take 3
  let m := matchAfter (s.cfg.active.slots.get x).matchMin y.matchSt es
  let t := s.setSlot x fun y => { y with matchEsts := es, matchLast := some q, matchSt := m }
  let args : List EvArg := [.w x, .w q.lag, .w q.rho, .w q.gain]
  if m = .matched && y.matchSt ≠ .matched then raise .matchGained (slotDie x) args t
  else if m = .mismatched && y.matchSt ≠ .mismatched then raise .matchLost (slotDie x) args t
  else t

/-- The comparison at `t1`; a void one leaves the estimates as they are (R242). -/
def judgeEstimate (air : Air) (x t1 : Nat) (s : State) : State :=
  match s.matchFound air x t1 with
  | none => s.setSlot x fun y => { y with matchLast := none }
  | some q => judgeMatch x q s

/-- Each whole second the slot is compared with its studio reference (R242). -/
def execMatchEstimate (x : Nat) (air : Air) (s : State) : Res :=
  let e := s.cfg.active.slots.get x
  let t1 := s.now / countsPerSecond * countsPerSecond
  onlyIf (s.slotOn x && decide (e.matchKind ≠ 0) && decide ((s.audio.slots.get x).matchTo < t1)) s
    (judgeEstimate air x t1 ((hearSlot air x t1 s).setSlot x fun y => { y with matchTo := t1 }))

/-! ### Records (R243) -/

/-- CODEC of a slot record: the codec, 0xFE for lane audio, 0xFF for none (R243). -/
def State.slotCodec (s : State) (x : Nat) : Nat :=
  match (s.cfg.active.slots.get x).source with
  | .none => 0xFF
  | .lane => 0xFE
  | _ => match s.slotContext x with
    | some k => ((s.audio.contexts.get k).codec).getD 0xFF
    | none => 0xFE

/-- The source is stereo (R243): FM with stereo in force, or a codec of two channels. -/
def State.slotStereo (s : State) (x : Nat) : Bool :=
  let e := s.cfg.active.slots.get x
  let lane := fun (l : Nat) => decide ((s.cfg.active.lanes.get l).mode = .fmStereo) && (s.lanes.demods.get l).stereoAt s.now
  match s.slotContext x with
  | some k => decide ((s.audio.contexts.get k).channels = 2)
  | none => match e.source with
    | .lane => lane e.srcIndex
    | .follow => (((s.cfg.active.follows.get e.srcIndex).members.getD (s.audio.follows.get e.srcIndex).playing {}).lane.map lane).getD false
    | _ => false

/-- What a slot measured over grid points n0 to n1 − 1 (R243). -/
def State.slotMeasured (s : State) (x n0 n1 : Nat) : SlotMeas :=
  let xs := (s.audio.slots.get x).between n0 n1
  let v := xs.filter PcmSample.valid
  let peak := fun (h : PcmSample → Int) => if v.isEmpty then noLevel else db100 ((v.map fun p => h p * h p).foldl max 0).toNat (2 ^ 46)
  let first := (List.range (n1 - n0)).find? fun i => (xs.getD i (.dead 0)).valid
  { validCount := v.length, stereo := s.slotStereo x, peakL := peak (·.left), peakR := peak (·.right)
    latency := first.bind fun i => s.slotLatency x (n0 + i)
    fill := xs.countP fun p => p.flags &&& flFill != 0, muted := xs.countP fun p => p.flags &&& flMuted != 0
    flags := xs.foldl (fun acc p => acc ||| p.flags) 0 }

/-- The slot measurement record, 96 bytes (R243). -/
def State.slotRecord (s : State) (x : Nat) (m : SlotMeas) : List Byte :=
  let e := s.cfg.active.slots.get x
  let y := s.audio.slots.get x
  let (corr, eps) := match s.slotContext x with
    | some k => ((s.audio.contexts.get k).corr, roundDiv (s.audio.contexts.get k).eps 48000000)
    | none => (0, 0)
  le 4 m.validCount
  ++ le 2 (e.source.code + 4 * b2n m.stereo + 8 * y.cls + 64 * b2n (decide (0 < m.muted)) + 128 * b2n y.silent + 256 * y.matchSt.code
      + 1024 * b2n y.resyncSeen + 2048 * b2n y.integRestarted)
  ++ le 1 (s.slotCodec x) ++ zeros 1 ++ le 4 (m.latency.getD 0xFFFFFFFF) ++ leInt 4 corr ++ leInt 2 eps ++ zeros 2
  ++ leInt 2 ((y.zMax.map loudOf).getD 0x8000) ++ leInt 2 (y.loudS.getD 0x8000) ++ leInt 2 (y.loudI.getD 0x8000)
  ++ leInt 2 m.peakL ++ leInt 2 m.peakR ++ zeros 2 ++ le 8 y.zSum ++ le 4 y.zCount ++ le 4 y.gated.length
  ++ le 2 y.silentWindows ++ le 2 y.unknownWindows ++ le 16 y.silenceMap
  ++ leInt 4 ((y.matchLast.map (·.lag)).getD 0x80000000) ++ le 2 ((y.matchLast.map (·.rho)).getD 0xFFFF) ++ leInt 2 ((y.matchLast.map (·.gain)).getD 0x8000)
  ++ le 2 y.auTotal ++ le 2 y.auLost ++ le 2 y.auLate ++ zeros 2 ++ le 4 m.fill ++ le 4 m.muted ++ le 4 (y.contentLead.getD 0)

/-- The period's counts start again. -/
def SlotSt.endPeriod (y : SlotSt) : SlotSt :=
  { y with zMax := none, zSum := 0, zCount := 0, silentWindows := 0, unknownWindows := 0, silenceMap := 0, resyncSeen := false
           integRestarted := false, voided := false, auTotal := 0, auLost := 0, auLate := 0, contentLead := none }

/-- A slot's measurement period ends, also for a slot without a source, which has no valid sample (R224, R243). -/
def execSlotMeasPeriodEnd (x : Nat) (air : Air) (late : Bool) (s : State) : Res :=
  let p := (s.cfg.active.slots.get x).period
  let t1 := s.now / p * p
  let t0 := t1 - p
  onlyIf (s.slotUp x && decide ((s.audio.slots.get x).measuredTo < t1)) s
    (let s := (if s.slotOn x then hearSlot air x t1 s else s).setSlot x fun y => { y with measuredTo := t1 }
     let m := if s.slotOn x then s.slotMeasured x (gridCeil t0) (gridCeil t1) else ⟨0, false, noLevel, noLevel, none, 0, 0, 0⟩
     let fl := s.clockFlags (slotDie x) (s.slotSources x) t0 t1 ||| flagIf (m.validCount = 0 || (s.audio.slots.get x).voided) flSuppressed ||| flagIf late flLate
       ||| (m.flags &&& (flSaturated ||| flStale ||| flCovered))
     formRouted .measurement (fun r => maskBit r.slotMask (x % 64))
      { format := 0x0405, srcType := 4, srcIndex := x, die := slotDie x, timestamp := t0, sampleCount := 1
        flags := fl, payload := s.slotRecord x m, gain := s.spanMark ((s.slotLanes x).flatMap s.laneCourses) t0 t1 }
      (note { kind := 3, index := x, at_ := t0, tag := .period, vals := [(fl : Int), (m.validCount : Nat), m.peakL, m.peakR] }
        (s.setSlot x SlotSt.endPeriod)))

/-! ### PCM blocks (R237, R245, R246) -/

/-- The sample of grid point `n`: as taken, or from the state where it is not kept. -/
def State.slotOut (s : State) (a : Air) (x n : Nat) : PcmSample :=
  let y := s.audio.slots.get x
  if y.pcmTo - y.pcm.length ≤ n && n < y.pcmTo then y.pcm.getD (n - (y.pcmTo - y.pcm.length)) (.dead 0) else s.slotSample a x n

/-- One slot's 96 samples of a block; those from `stop` on are zero and SUPPRESSED (R245, 02 R67). -/
def State.slotBlock (s : State) (a : Air) (x n0 stop : Nat) : List PcmSample :=
  (List.range 96).map fun i => if stop * 3 ≤ (n0 + i) * 6250 then .dead 0 else s.slotOut a x (n0 + i)

/-- A mask change that has taken effect by block `t0`: RING_MASK_CHANGED with the sequence number of that block (R246). -/
def takeMask (r t0 : Nat) (s : State) : State :=
  let g := s.link.rings.get r
  match g.pcmNext with
  | some (t, mask, die) =>
    if t ≤ t0 then
      raise .ringMaskChanged die [.w r, .q g.sequence.toNat] (s.setRing r fun g => { g with pcmNext := none, pcmMask := mask, pcmDie := die })
    else s
  | none => s

/-- The PCM blocks of a ring go on after one that ended at `stop`: at an armed edge or reload with the designated value (02 R42, R67). -/
def Ring.passPcm (g : Ring) (edge : Option (Nat × Nat)) (edges stop : Nat) (old : Bool) : Ring :=
  match old, edge with
  | true, some (o, v) => if stop = o then { g with pcmEdges := edges, pcmFrom := v } else { g with pcmFrom := stop }
  | _, _ => { g with pcmEdges := edges, pcmFrom := stop }

/-- A 2 ms PCM block of a ring's selected slots is formed, once. `old`: of the count before the last armed edge or reload, which ends the block in progress (R237, R245, R246, 02 R42, R67). -/
def execPcmBlockFormed (r t0 : Nat) (air : Air) (old : Bool) (s : State) : Res :=
  let t := takeMask r t0 s
  let g := t.link.rings.get r
  let d := g.pcmDie
  let c := s.clk.get d
  match s.blockEnd d t0 old with
  | none => .next s
  | some stop =>
    let u := if old then t.beforeEdge d else t
    let xs := (maskList 64 g.pcmMask).map (d * 64 + ·)
    let n0 := (t0 * 3 + 6249) / 6250
    let cols := xs.map fun x => u.slotBlock air x n0 stop
    let payload := (List.range 96).flatMap fun i => cols.flatMap fun c => (c.getD i (.dead 0)).words
    let fl := cols.foldl (fun acc c => c.foldl (fun a p => a ||| p.flags) acc) 0
    let mark := fun (u : State) => (xs.zip cols).foldl (fun acc (x, c) =>
      if c.any fun p => p.flags &&& flSaturated != 0 then acc.setSlot x fun y => { y with satSticky := true } else acc) u
    let js := xs.flatMap fun x => (t.slotLanes x).flatMap t.laneCourses
    let first := if old then decide (g.pcmEdges + 1 = c.edges) && decide (g.pcmFrom ≤ t0) else decide (g.pcmEdges < c.edges) || decide (g.pcmFrom ≤ t0)
    onlyIf (s.mode.mode.receiving && decide (32 ≤ r) && decide (r < 96) && s.dieUp (if g.pcmMask = 0 then 0 else d) && first && (old || decide (stop ≤ s.now))) s
      (let t := t.setRing r fun g => g.passPcm c.edge c.edges stop old
       if g.pcmMask = 0 then t
       else formBlock r
         { format := 0x0101, srcType := 4, srcIndex := xs.headD 0, die := d, timestamp := t0, sampleCount := 96, flags := fl, payload := payload
           gain := t.gainMark js 96 fun i u => decide (gridInstant (n0 + i) ≤ u) && decide (u < gridInstant (n0 + i + 1)) } (mark t))

/-! ### Known-answer vectors (R248) -/

/-- A slot or context retired: its own event, RUN_DEGRADED by the summary (R248). -/
def retireAudio (u : UnitRef) (s : State) : State :=
  let s := retireUnit u s
  let ctx := decide (u.kind = .context)
  let g := if ctx then u.die * 48 + u.loc else u.die * 64 + u.loc
  refresh (raise (if ctx then .contextRetired else .slotRetired) u.die [.w g, .q s.now] s)

/-- Once per second a slot or a context runs its vector; after two failures it is retired (R248). -/
def execSlotKat (context : Bool) (i : Nat) (fails repeatFails : Bool) (s : State) : Res :=
  let u := if context then contextRef i else slotRef i
  onlyIf (decide (i < s.dies * (if context then 48 else 64)) && s.dieRuns u.die && !s.retired u && fails && repeatFails) s (retireAudio u s)

end Sys2Proof.Machine
end

