-- ==== Sys2Proof/Machine/Ports.lean ====
section
/-!
DEFINITION. The audio ports: start and stop, frames, followers, input blocks, external clocks (09).
-/
namespace Sys2Proof.Machine

/-! ### Start and stop -/

/-- T_s: the clock runs idle and the pre-roll begins, or the port waits for its external clock; the PORT_START completes (R264, R271). -/
def execPortStartTick (p : PortId) (s : State) : Res :=
  let x := s.portSt p
  match x.startAt with
  | none => .next s
  | some t =>
    onlyIf (s.hasPort p && decide (t ≤ s.now) && x.phase.isStopped) s
      (let u := s.setPort p fun x => { x with startAt := none, nom := x.entry.amclkNom, mask := x.entry.mask, nextMask := none }
       let u := if x.entry.amclk && !(s.ports.amclks.get p.die).qualified then u.setPort p fun x => { x with phase := .awaitingClock }
         else beginPreRoll p t false u
       completeWait (fun w => match w with
         | .portStart q _ => q = p
         | _ => false) .ok (tickOf t) u)

/-- Data begin at B: PORT_STARTED, or PORT_RESUMED after a freeze (R264, R271, R273). -/
def execPortPrerollEnd (p : PortId) (s : State) : Res :=
  let x := s.portSt p
  let due := x.dataStart + if p.isInput then 0 else renderDelay
  onlyIf (s.hasPort p && decide (x.phase = .preRoll) && decide (due ≤ s.now)) s
    (let u := seeUnits (s.setPort p fun x => { x with phase := .running, resuming := false, nextBlock := if x.resuming then x.nextBlock else x.dataStart })
     if x.resuming then raise .portResumed p.die [.w p.word, .q s.now, .q x.dataStart] u
     else raise .portStarted p.die [.w p.word, .q x.dataStart, .w PortReason.command.code] u)

/-- T_p: data end before B_p and the post-roll follows (R265); the PORT_STOP completes. -/
def execPortStopTick (p : PortId) (s : State) : Res :=
  match (s.portSt p).stopAt with
  | none => .next s
  | some t =>
    onlyIf (s.hasPort p && decide (t ≤ s.now)) s
      (completeWait (fun w => match w with
         | .portStop q _ => q = p
         | _ => false) .ok (tickOf t)
        (stopPortAt p t (s.setPort p fun x => { x with stopAt := none })))

/-- No port of a die runs. -/
def State.portsQuiet (s : State) (d : Nat) : Bool := (s.portsOf d).all fun p => (s.portSt p).phase.isStopped

/-- The post-roll ends: clock and lines low, PORT_STOPPED (R265). After an exit from reception AUDIO then switches off (17 R440). -/
def execPortPostrollEnd (p : PortId) (s : State) : Res :=
  let x := s.portSt p
  onlyIf (s.hasPort p && decide (x.phase = .postRoll) && decide (x.postEnd ≤ s.now)) s
    (let u := stopPort p .stopped x.stopFrom .command s
     if !s.mode.mode.receiving && u.portsQuiet p.die then domainOff p.die 13 u else u)

/-! ### Output frames -/

/-- How a channel renders a sample by its flags (R260). -/
def renderOf (fl : Nat) (v : Int) : Rendered :=
  if maskBit fl 2 then .idle else if maskBit fl 0 || maskBit fl 7 then .zero else .sample v

/-- The density 0.5 + 0.25 × x / 2^23 of a 24-bit value, in units of 2^−25 (R259). -/
def density (x : Int) : Int := 2 ^ 24 + x

/-- Bits of a frame: 64 periods at 3.072 MHz, 128 at 6.144 MHz (R251). -/
def PortSt.frameBits (x : PortSt) : Nat := if x.entry.bclkFast then 128 else 64

/-- The idle pattern of a frame: 1, 0, 1, 0 on an even channel, 0, 1, 0, 1 on an odd one (R252). -/
def idleBits (ch n : Nat) : List Bool := (List.range n).map fun i => decide ((i + ch) % 2 = 0)

/-- Samples that the interpolator looks back on. -/
def pdmMemory : Nat := 64

/-- The modulator takes one sample: interpolated to the bit rate, each value's density modulated, the states held within their bound (R259). -/
def Modulator.run (m : Modulator) (bits : Nat) (x : Int) : Modulator × List Bool :=
  let inputs := (x :: m.inputs).take pdmMemory
  let hold := fun (v : Int) => max (-(Config.pdmLimit : Int)) (min Config.pdmLimit v)
  let r := (Config.pdmInterpolate bits inputs).foldl (fun (acc : List Int × List Bool) v =>
    let q := Config.pdmModulate acc.1 (density v)
    (q.2.map hold, acc.2 ++ [q.1])) (m.states, [])
  ({ states := r.1, inputs := inputs }, r.2)

/-- One channel's frame: the modulator runs on the sample, or on zero, and the idle pattern takes the place of its bits (R260). -/
def Modulator.render (m : Modulator) (bits ch : Nat) : Rendered → Modulator × List Bool
  | .idle => ((m.run bits 0).1, idleBits ch bits)
  | .zero => m.run bits 0
  | .sample v => m.run bits v

/-- The read-back of a line, 8 for the clock: 8 or more differing bits mark it faulty; 48,000 clean frames clear it (R263). -/
def checkLine (d : Nat) (diffs : List Nat) (s : State) (i : Nat) : State :=
  let p := PortId.out d
  let x := s.portSt p
  let bad := decide (8 ≤ diffs.getD i 0)
  let marked := maskBit x.lineFault i
  if bad then
    let s := s.setPort p fun x => { x with lineFault := x.lineFault ||| 2 ^ i, cleanFrames := x.cleanFrames.set i 0 }
    if marked then s else raise .portLineFault d [.w p.word, .w i] s
  else if marked then
    let n := x.cleanFrames.getD i 0 + 1
    s.setPort p fun x => { x with lineFault := if 48000 ≤ n then clearBit x.lineFault i else x.lineFault, cleanFrames := x.cleanFrames.set i (if 48000 ≤ n then 0 else n) }
  else s

/-- A run of underrun ends with the next frame that has its content: PORT_UNDERRUN (R261). -/
def endUnderrun (p : PortId) (s : State) : State :=
  match (s.portSt p).underrun with
  | some r => raise .portUnderrun p.die [.w p.word, .q (gridInstant r.first), .w r.count] (s.setPort p fun x => { x with underrun := none })
  | none => s

/-- The mask in force for the content of grid instant `g` (R258). -/
def PortSt.maskAt (x : PortSt) (g : Nat) : Nat :=
  match x.nextMask with
  | some (t, m) => if t ≤ g then m else x.mask
  | none => x.mask

/-- The content of grid instant index `n` is data: at or after B, and before B_p once stopping (R264, R265). -/
def PortSt.dataDue (x : PortSt) (n : Nat) : Bool :=
  match x.phase with
  | .running => decide (x.dataStart * 3 ≤ n * 6250)
  | .postRoll => decide (x.dataStart * 3 ≤ n * 6250) && decide (n * 6250 < x.stopFrom * 3)
  | _ => false

/-- The sixteen channels of a frame: the selected words in mask order, idle beyond them (R258). -/
def packChannels (mask : Nat) (r : Nat → Rendered) : List Rendered :=
  let n := (maskList 128 mask).length
  (List.range 16).map fun i => if i < n then r i else .idle

/-- The word of a slot that bit `b` of MASK selects, as rendered: L of slot b/2 where b is even, R where it is odd; on the follower the slot's audio interpolated at the instant at which the frame is due (R254, R258, R260). -/
def State.portWord (s : State) (a : Air) (d b n : Nat) : Rendered :=
  let side := fun (k : Int) => let p := s.slotOut a (d * 64 + b / 2) k.toNat
    if b % 2 = 0 then p.left else p.right
  let t3 := (s.now - renderDelay) * 3
  renderOf (s.slotOut a (d * 64 + b / 2) n).flags
    (if (s.portSt (.out d)).onFollower then satWord 24 (resampledAt 6250 (t3 % 6250 : Nat) side (t3 / 6250 : Nat)) else side n)

/-- A fill frame takes the place of content that is due: it is missing, or a frame is to be inserted (R255, R261). -/
def PortSt.fills (x : PortSt) (due present : Bool) : Bool := due && (!present || decide (0 < x.fillLeft))

/-- What the sixteen channels of the frame for grid instant index `n` render (R258 to R261, R264). -/
def State.frameOf (s : State) (a : Air) (d n : Nat) (present : Bool) : List Rendered :=
  let x := s.portSt (.out d)
  let due := x.dataDue n
  let m := x.maskAt (gridInstant n)
  if !due then packChannels 0 fun _ => .idle
  else if x.fills due present then packChannels m fun _ => if x.entry.gapSilence then .zero else .idle
  else packChannels m fun i => s.portWord a d ((maskList 128 m).getD i 0) n

/-- Every channel rendered by its modulator (R259, R260). -/
def PortSt.renderAll (x : PortSt) (chans : List Rendered) : List (Modulator × List Bool) :=
  (List.range 16).map fun i => (x.mods.getD i {}).render x.frameBits i (chans.getD i .idle)

/-- A frame starts: the content due is rendered, a fill frame takes the place of content that is missing, overrun content is discarded, and every line is read back. `present`: the due content is in the FIFO; `late`: frames of content that passed their due instants; `diffs`: differing bits of lines 0 to 7 and of the clock (R258 to R263). -/
def execPortFrameStart (d : Nat) (air : Air) (present : Bool) (late : Nat) (diffs : List Nat) (s : State) : Res :=
  let p := PortId.out d
  let x := s.portSt p
  let n := gridIndex (s.now - renderDelay)
  let m := x.maskAt (gridInstant n)
  let due := x.dataDue n
  let fill := x.fills due present
  let frame := x.renderAll (s.frameOf air d n present)
  onlyIf (s.hasPort p && x.phase.clocked) s
    (let t := send (.frame d n (frame.map (·.2))) s
     let t := t.setPort p fun x =>
       { x with
         mods := frame.map (·.1)
         mask := if due then m else x.mask, nextMask := if due && m == x.entry.mask then none else x.nextMask
         fillLeft := if due then x.fillLeft - 1 else x.fillLeft
         filled := x.filled + BitVec.ofNat 32 (b2n fill), discarded := x.discarded + BitVec.ofNat 32 late
         underrun := if due && !present then some (match x.underrun with
             | some r => { r with count := r.count + 1 }
             | none => ⟨n, 1⟩) else x.underrun }
     let t := if due && present then endUnderrun p t else t
     let t := if late = 0 then t else raise .portOverrun d [.w p.word, .q (gridInstant (n - late)), .w late] t
     (List.range 9).foldl (checkLine d diffs) t)

/-- One whole frame of content moved: inserted when content falls behind, dropped when it runs ahead (R255). -/
def slipPort (p : PortId) (behind : Bool) (s : State) : State :=
  let s := s.setPort p fun x =>
    { x with
      slips := satInc x.slips
      fillLeft := if behind && !p.isInput then x.fillLeft + 1 else x.fillLeft
      filled := if behind && p.isInput then x.filled + 1 else x.filled
      discarded := if behind then x.discarded else x.discarded + 1
      inserted := if behind && p.isInput then gridIndex s.now :: x.inserted.take 15 else x.inserted }
  raise .portSlip p.die [.w p.word, .w (b2n (!behind)), .q (gridInstant (gridIndex (s.now - if p.isInput then 0 else renderDelay)))] s

/-- The follower steers to the FIFO level, which equals the alignment error: `err` in counts, positive where content is behind. Its correction kp·err + ki·Σerr is held within ±1,000 ppm. Locked after 1 s within ±5 µs, unlocked beyond ±20 µs; a slip at the limit with half a frame of error (R254, R255). -/
def execPortFollowerUpdate (p : PortId) (err : Int) (s : State) : Res :=
  let x := s.portSt p
  let sum := x.errSum + err
  let c := clampInt (-1000000) 1000000 (roundDiv (Config.portGains.1 * err + Config.portGains.2 * sum) (2 ^ 40))
  let limit := decide (c.natAbs = 1000000)
  let good := decide (err.natAbs ≤ 500)
  let since : Option Nat := if good then some (x.goodSince.getD s.now) else none
  let locked := if x.locked then decide (err.natAbs ≤ 2000) else match since with
    | some t => decide (t + countsPerSecond ≤ s.now)
    | none => false
  onlyIf (s.hasPort p && x.onFollower && x.phase.clocked) s
    (let t := s.setPort p fun x =>
       { x with rateCorr := c, errSum := sum, atLimit := limit, fifoLevel := wrapInt 16 (roundDiv (err * 48) 6250), goodSince := since, locked := locked
                unlocked := if locked then closeSpan s.now x.unlocked else openSpan s.now x.unlocked }
     if limit && decide (6250 ≤ 6 * err.natAbs) then slipPort p (decide (0 < err)) t else t)

/-- The audio synthesizer has relocked: an internally clocked port leaves the follower at the block boundary (R256). -/
def execPortLeaveFollower (p : PortId) (s : State) : Res :=
  let x := s.portSt p
  let l := (s.clk.get p.die).aud
  onlyIf (s.hasPort p && x.onFollower && !x.entry.amclk && l.locked && !l.coasting && decide (s.now % countsPerBlock = 0)) s
    (s.setPort p fun x => { x with onFollower := false, locked := false, atLimit := false, rateCorr := 0, goodSince := none, unlocked := closeSpan s.now x.unlocked })

/-! ### Input -/

/-- One line of an input frame: 64 frames without a transition make it stuck, a transition frees it (R270). -/
def checkQuiet (d : Nat) (moved : List Bool) (s : State) (i : Nat) : State :=
  let p := PortId.inp d
  let x := s.portSt p
  let isStuck := x.stuck.any fun k => k.line == i && k.span.stop.isNone
  if moved.getD i true then
    let s := s.setPort p fun x =>
      { x with quietFrames := x.quietFrames.set i 0
               stuck := x.stuck.map fun k => if k.line = i && k.span.stop.isNone then { k with span := { k.span with stop := some s.now } } else k }
    if isStuck then raise .inputLineStuck d [.w p.word, .w i, .w 1] s else s
  else
    let n := x.quietFrames.getD i 0 + 1
    let s := s.setPort p fun x => { x with quietFrames := x.quietFrames.set i n }
    if 64 ≤ n && !isStuck then
      raise .inputLineStuck d [.w p.word, .w i, .w 0]
        (s.setPort p fun x => { x with stuck := (x.stuck.filter fun k => match k.span.stop with
            | some e => decide (s.now < e + countsPerSecond)
            | none => true) ++ [⟨i, ⟨s.now, none⟩⟩] })
    else s

/-- A line's level changes within frame `n` of its port, or against the frame before: its A and B bits in the order in which they are valid (R251, R270). -/
def PortSt.movedIn (x : PortSt) (a : Air) (d : Nat) (n : Int) (line : Nat) : Bool × Bool :=
  let w := x.frameBits
  let xs := (List.range w).flatMap fun (i : Nat) => [a.bit d (2 * line) (n * w + i), a.bit d (2 * line + 1) (n * w + i)]
  let last := x.levels.getD line false
  (xs.any (· != last), xs.getLastD last)

/-- An input frame, of number `frame` on its port's clock, has come in: every line, selected or not, is watched for transitions (R266, R270). -/
def execInputFrameReceived (d : Nat) (frame : Int) (air : Air) (s : State) : Res :=
  let x := s.portSt (.inp d)
  let r := (List.range 4).map (x.movedIn air d frame)
  onlyIf (s.hasPort (.inp d) && x.phase.clocked) s
    ((List.range 4).foldl (checkQuiet d (r.map (·.1))) (s.setPort (.inp d) fun x => { x with levels := r.map (·.2) }))

/-- One word of an input frame: audio in bits [31:8], a byte of flags below (R269). -/
def inputWord (v : Int) (flagByte : Nat) : List Byte := leInt 4 (v * 256 + flagByte)

/-- The flags and the bytes of grid index `n` of an input block; frames from SYSTIME `stop` on are zero (R267 to R270, 02 R67). -/
def State.inputFrame (s : State) (a : Air) (d blockFlags stop n : Nat) : Nat × List Byte :=
  let x := s.portSt (.inp d)
  let sup := decide (stop * 3 ≤ n * 6250) || x.isSuppressed n
  let common := blockFlags + flagIf (x.unlocked.any (inSpan n) && !maskBit blockFlags 3) flSuspect + flagIf (x.inserted.contains n) flFill
  let words := (maskList 4 x.entry.lineMask).map fun line =>
    let dead := sup || x.stuckAt line n
    let p := if dead then (0, false) else inputSat (s.portInput a d (2 * line) n)
    let q := if dead then (0, false) else inputSat (s.portInput a d (2 * line + 1) n)
    let fl := common + flagIf dead flSuppressed + flagIf (p.2 || q.2) flSaturated
    (fl, inputWord p.1 (fl % 256) ++ inputWord q.1 (fl / 256 % 256))
  (words.foldl (fun acc w => acc ||| w.1) common, (words.map (·.2)).flatten)

/-- A 2 ms input block is formed (R266 to R269). -/
def execInputBlockFormed (d : Nat) (air : Air) (s : State) : Res :=
  let p := PortId.inp d
  let x := s.portSt p
  let t0 := match x.cut with
    | some c => c.1
    | none => x.nextBlock
  let stop := match x.cut with
    | some c => min c.2 (nextOf countsPerBlock t0)
    | none => nextOf countsPerBlock t0
  let active := match x.phase with
    | .stopped | .stoppedRate | .awaitingClock => false
    | .postRoll => decide (t0 < x.stopFrom)
    | .preRoll => x.resuming
    | _ => true
  let fl := s.clockFlags d [] t0 stop
  let frames := (List.range 96).map fun i => s.inputFrame air d fl stop (gridCeil t0 + i)
  let flags := frames.foldl (fun acc f => acc ||| f.1) fl
  onlyIf (s.hasPort p && s.dieUp d && active && (x.cut.isSome || decide (stop ≤ s.now))) s
    (formRouted .pdmIn (·.inputPort)
      { format := 0x0102, srcType := 6, srcIndex := d, die := d, timestamp := t0, sampleCount := 96, flags := flags, payload := (frames.map (·.2)).flatten }
      (note { kind := 5, index := d, at_ := t0, tag := .input, bytes := (frames.map (·.2)).flatten
              vals := [(flags : Nat), ((frames.filter fun f => f.1 &&& flSuppressed = 0).length : Nat)] } <|
       s.setPort p fun x => { x with cut := none, nextBlock := if x.cut.isSome then x.nextBlock else nextOf countsPerBlock x.nextBlock }))

/-! ### External clocks -/

/-- Apply `f` to each port of the die on AMCLK. -/
def onAmclkPorts (d : Nat) (f : PortId → State → State) (s : State) : State :=
  (s.portsOf d).foldl (fun acc p => if (acc.portSt p).entry.amclk then f p acc else acc) s

/-- A port whose external clock has stopped freezes; in its post-roll it stops at once (R273, R275). -/
def freezePort (p : PortId) (s : State) : State :=
  let x := s.portSt p
  match x.phase with
  | .preRoll | .running | .reconfiguring =>
    let t := s.setPort p fun x =>
      { x with phase := .frozen, switchTo := none, locked := false, goodSince := none
               suppressed := openSpan s.now x.suppressed, unlocked := openSpan s.now x.unlocked }
    raise .portFrozen p.die [.w p.word, .q s.now, .q 0] t
  | .postRoll => stopPort p .stopped x.stopFrom .postRollCut s
  | _ => s

/-- No edge for 4 µs: AMCLK_STOP, ports on AMCLK freeze (R272, R273). -/
def execAmclkStop (d : Nat) (s : State) : Res :=
  onlyIf (decide (d < s.dies) && s.supervised d && (s.ports.amclks.get d).qualified) s
    (let t := s.setAmclk d fun a => { a with qualified := false, stopped := true, freq := 0, outRun := 0, stops := satInc a.stops }
     onAmclkPorts d freezePort (raise .amclkStop d [.w d, .q s.now] t))

/-- Nominal frequencies of AMCLK (R253). -/
def amclkHz : Nat → Nat
  | 0 => 12288000
  | 1 => 24576000
  | _ => 49152000

/-- A measured frequency within ±0.5 % of a nominal (R272). -/
def nearNominal (freq nom : Nat) : Bool := decide (amclkHz nom * 995 ≤ freq * 1000) && decide (freq * 1000 ≤ amclkHz nom * 1005)

/-- The supported nominal a frequency lies near, if any. -/
def nominalOf (freq : Nat) : Option Nat := [0, 1, 2].find? (nearNominal freq)

/-- One 100 µs window within ±0.5 % of a supported nominal: the clock qualifies (R272, R273). -/
def execAmclkQualified (d freq : Nat) (s : State) : Res :=
  let a := s.ports.amclks.get d
  onlyIf (decide (d < s.dies) && s.supervised d && !a.qualified && (nominalOf freq).isSome) s
    (let t := s.setAmclk d fun a => { a with qualified := true, qualifiedAt := s.now, freq := freq, outRun := 0, stopped := false }
     if a.stopped then raise .amclkReturn d [.w d, .q s.now] t else t)

/-- At the block boundary after qualification a port that froze, or waited for its clock, begins its pre-roll in full (R264, R273). -/
def execPortResume (p : PortId) (s : State) : Res :=
  let x := s.portSt p
  let a := s.ports.amclks.get p.die
  onlyIf (s.hasPort p && (decide (x.phase = .frozen) || decide (x.phase = .awaitingClock)) && a.qualified
      && decide (nextOf countsPerBlock a.qualifiedAt ≤ s.now)) s
    (beginPreRoll p s.now (decide (x.phase = .frozen)) (s.setPort p fun x => { x with suppressed := closeSpan s.now x.suppressed }))

/-- What a declared rate change does to a port: the new divider at the next block boundary, or a stop for RATE (R273). -/
def rateChangePort (new : Option Nat) (p : PortId) (s : State) : State :=
  let x := s.portSt p
  match new with
  | some n =>
    if x.phase.clocked then
      s.setPort p fun x => { x with phase := .reconfiguring, switchTo := some (n, x.phase, s.now), suppressed := openSpan s.now x.suppressed }
    else s.setPort p fun x => { x with nom := n }
  | none => if x.phase.clocked || x.phase = .frozen then stopPort p .stoppedRate (blockFloor s.now) .rate s else s

/-- The measured frequency of a block; out of tolerance in two consecutive blocks a rate change is declared. The event's action is the new AMCLK_NOM, or 3 where the ports stop (R272, R273). -/
def execAmclkBlockRate (d freq : Nat) (s : State) : Res :=
  let a := s.ports.amclks.get d
  let ps := (s.portsOf d).filter fun p => (s.portSt p).entry.amclk
  let nom := (ps.head?.map fun p => (s.portSt p).nom).getD 1
  let auto := ps.any fun p => (s.portSt p).entry.autoRate
  let switching := ps.any fun p => (s.portSt p).switchTo.isSome
  let out := !nearNominal freq nom
  let new := if auto then nominalOf freq else none
  onlyIf (decide (d < s.dies) && s.supervised d && a.qualified) s
    (if out && !switching && decide (1 ≤ a.outRun) then
       let t := s.setAmclk d fun a => { a with freq := freq, outRun := 0 }
       onAmclkPorts d (rateChangePort new) (raise .amclkRateChange d [.w d, .w freq, .w (new.getD 3)] t)
     else s.setAmclk d fun a => { a with freq := freq, outRun := if out && !switching then a.outRun + 1 else 0 })

/-- The block boundary after an automatic rate change: the port takes the new divider and relocks its follower without a pre-roll (R273). -/
def execPortRateSwitch (p : PortId) (s : State) : Res :=
  match (s.portSt p).switchTo with
  | none => .next s
  | some (n, back, since) =>
    onlyIf (s.hasPort p && decide ((s.portSt p).phase = .reconfiguring) && decide (nextOf countsPerBlock since ≤ s.now)) s
      (s.setPort p fun x =>
        { x with phase := back, nom := n, switchTo := none, locked := false, goodSince := none
                 suppressed := closeSpan s.now x.suppressed, unlocked := openSpan s.now x.unlocked })

/-- The end of a second with rejected pulses: AMCLK_GLITCHES with their count (R272). -/
def execAmclkGlitches (d count : Nat) (s : State) : Res :=
  onlyIf (decide (d < s.dies) && s.supervised d && decide (0 < count)) s
    (raise .amclkGlitches d [.w d, .w count] (s.setAmclk d fun a => { a with glitches := satAdd a.glitches count }))

/-- CLEAR_COUNTS of a port (09 "Port registers"). -/
def execPortClearCounts (p : PortId) (s : State) : Res :=
  dieWrite p.die (s.hasPort p)
    (fun t => (t.setPort p fun x => { x with filled := 0, discarded := 0, slips := 0 }).setAmclk p.die fun a => { a with glitches := 0, stops := 0 }) s

end Sys2Proof.Machine
end

