-- ==== Sys2Proof/Machine/Taps.lean ====
section
/-!
DEFINITION. Band taps, export taps and the audit band tap (04): late segments, audit and replacement, snapshots, sticky saturation flags.
-/
namespace Sys2Proof.Machine

def State.setBandTap (s : State) (c : Nat) (f : BandTap → BandTap) : State :=
  { s with taps := { s.taps with bandTaps := s.taps.bandTaps.modify c f } }
def State.setAudit (s : State) (d : Nat) (f : AuditTap → AuditTap) : State :=
  { s with taps := { s.taps with audits := s.taps.audits.modify d f } }
def State.setExport (s : State) (i : Nat) (f : ExportTap → ExportTap) : State :=
  { s with taps := { s.taps with exports := s.taps.exports.modify i f } }

/-- A segment sample misses its entry time: zeros from SYSTIME `e1` to `e2`, a synchronising event of what the band tap feeds (01 R20). -/
def execSegmentLate (c e1 e2 : Nat) (s : State) : Res :=
  onlyIf (decide (c < s.dies * 4) && (s.taps.bandTaps.get c).assigned && decide (e1 ≤ e2)
      && (s.front.courses.get (s.taps.bandTaps.get c).course).leader.isSome) s
    (raise .segmentLate (clusterDie c) [.w c, .q e1, .q e2] (bandTapSpan e1 e2 c s))

/-! ### The audit band tap -/

/-- The audit rotation of a die runs: the tap is neither retired nor carrying (R131, R134). -/
def State.auditRuns (s : State) (d : Nat) : Bool :=
  s.dieRuns d && !s.retired (auditRef d) && (s.nv.auditCarries.get d).isNone && (s.taps.audits.get d).replace.isNone
    && maskBit (s.domains.get d).ready 9

/-- A band tap fed by an export tap of another die (R131). -/
def State.remoteTap (s : State) (c : Nat) : Bool := (s.exportNeed c).isSome

/-- The target of sub-slot `sub` of slot `slot` (R131). -/
def State.auditTargetOf (s : State) (d slot sub : Nat) : AuditTarget :=
  if sub = 0 then
    let c := d * 4 + slot
    if (s.taps.bandTaps.get c).assigned && !s.remoteTap c && !s.retired (bandTapRef c) then .bandTap c else .kat c
  else
    let i := d * 16 + slot * 4 + (sub - 1)
    if (s.taps.exports.get i).dest.isSome && !s.retired (exportRef i) then .exportTap i else .selfKat i

/-- The unit that a target's charge names; a test of the audit tap charges the audit tap. -/
def AuditTarget.unit : AuditTarget → UnitRef
  | .bandTap c | .kat c => bandTapRef c
  | .exportTap i => exportRef i
  | .selfKat i => auditRef (i / 16)

/-- How BANDTAP_MISMATCH names a tap: band taps 0 to 3, export taps 4 to 19. -/
def tapNumber (u : UnitRef) : Nat := if u.kind = .exportTap then 4 + u.loc else u.loc

/-- The tap against which the audit tap verifies itself (R133): the next assigned band tap of the die after the target, if there is none the next assigned export tap, if there is neither an unassigned band tap, which runs the target's configuration without lanes. -/
def State.secondTap (s : State) (d : Nat) (t : AuditTarget) : AuditTarget :=
  let me := match t with
    | .bandTap c | .kat c => c % 4
    | .exportTap i | .selfKat i => i / 4 % 4
  let bands := (List.range 4).map fun k => d * 4 + (me + 1 + k) % 4
  let usable := fun (c : Nat) => (s.taps.bandTaps.get c).assigned && !s.remoteTap c && !s.retired (bandTapRef c) && decide (t ≠ .bandTap c)
  let own := match t with
    | .exportTap i => i % 16
    | _ => 15
  let exports := (List.range 16).map fun k => d * 16 + (own + 1 + k) % 16
  match bands.find? usable with
  | some c => .bandTap c
  | none => match exports.find? fun i => (s.taps.exports.get i).dest.isSome && !s.retired (exportRef i) && decide (t ≠ .exportTap i) with
    | some i => .exportTap i
    | none => .bandTap ((bands.find? fun c => !s.retired (bandTapRef c) && decide (t ≠ .bandTap c)).getD (d * 4 + (me + 1) % 4))

/-- The cluster whose segment a target gives. -/
def State.targetCluster (s : State) : AuditTarget → Nat
  | .bandTap c | .kat c => c
  | .exportTap i | .selfKat i => ((s.taps.exports.get i).dest).getD 0

/-- The segment sample of the present instant is compared: the audit tap has settled for 2 × H_bt since the sub-slot began, and the sample is not suppressed (R125, R132, "Audit timing"). -/
def State.auditCompares (s : State) (t : AuditTarget) : Bool :=
  let c := s.targetCluster t
  let S := planFrameSamples s.cfg.active.plan
  let ch := s.taps.segments.get c
  let start := s.now / 5000000 * 5000000
  decide (start + 2 * halfBt (s.segN c) * 32 / S ≤ s.now) && !ch.segmentDead S (s.now * S / 32 / 2 ^ s.segN c) (s.tuneOf c 0 {} {})

/-- The replacement of a retired band tap or export tap (R134): the audit tap in a band tap's place; a free export tap, or the audit tap, for an export tap. An export tap that serves no stream is retired and nothing moves: DESIGN CHOICE (notes/assumptions/50.md). -/
def replaceTap (u : UnitRef) (s : State) : State :=
  let d := u.die
  let s := retireUnit u s
  let s := s.setAudit d fun a => { a with replace := none, target := none, verifying := none }
  let carry := fun (s : State) => { s with nv := { s.nv with auditCarries := s.nv.auditCarries.set d (some u) } }
  refresh (match u.kind with
  | .exportTap =>
    let i := d * 16 + u.loc
    let e := s.taps.exports.get i
    if e.dest.isNone then s
    else match freeExport s d s.taps.exports with
      | some j =>
        let s := (s.setExport j fun x => { x with dest := e.dest, converter := e.converter, segCode := e.segCode }).setExport i fun x => { x with dest := none }
        raise .exportMoved d [.w d, .w u.loc, .w (j % 16), .q s.now] s
      | none => carry s
  | _ => raise .bandtapReplaced d [.w d, .w u.loc, .q s.now] (carry s))

/-- The audit tap retired: its die's taps are no longer audited (R134). -/
def retireAudit (d : Nat) (s : State) : State :=
  let s := retireUnit (auditRef d) s
  let s := s.setAudit d fun a => { a with replace := none, target := none, verifying := none }
  refresh (raise .auditRetired d [.w d] s)

/-- A charge against a tap (R133): counted, its event raised, and its replacement due once lasting (R134). -/
def chargeTap (u : UnitRef) (first : Nat) (s : State) : State :=
  let d := u.die
  let s := match u.kind with
    | .exportTap => s.setExport (d * 16 + u.loc) fun x => { x with mismatches := satInc x.mismatches }
    | .audit => s.setAudit d fun x => { x with mismatches := satInc x.mismatches }
    | _ => s.setBandTap (d * 4 + u.loc) fun x => { x with mismatches := satInc x.mismatches }
  let s := if u.kind = .audit then raise .auditMismatch d [.w d, .q first] s
    else raise .bandtapMismatch d [.w d, .w (tapNumber u), .q first] s
  let r := occur 3 u s
  if !r.1 then r.2
  else if u.kind = .audit then retireAudit d r.2
  else r.2.setAudit d fun a => { a with replace := some u }

/-- The sub-slot in progress ends clean: LAST_CLEAN_TICK of a band tap that was compared. -/
def endSubslot (d : Nat) (s : State) : State :=
  match (s.taps.audits.get d).target with
  | some (.bandTap c) => s.setBandTap c fun b => { b with lastCleanTick := tick32 s.now }
  | _ => s

/-- A sub-slot begins, at a SYSTIME multiple of 50 ms; a test that fails gives this instant as its first mismatching SYSTIME: DESIGN CHOICE (notes/assumptions/50.md). `katFails`: where it is a known-answer test, whether the test fails (R131 to R133). -/
def execAuditSubslot (d : Nat) (katFails : Bool) (s : State) : Res :=
  let ms := s.now % countsPerSecond / 100000
  let slot := ms / 250
  let sub := ms % 250 / 50
  let t := s.auditTargetOf d slot sub
  onlyIf (decide (d < s.dies) && s.auditRuns d && decide (s.now % 5000000 = 0)) s
    (let s1 := (endSubslot d s).setAudit d fun a => { a with target := some t, slot := slot, subSlot := sub }
     match t with
     | .kat _ | .selfKat _ => if katFails && !s.retired t.unit then chargeTap t.unit s.now s1 else s1
     | _ => s1)

/-- A segment sample differs from the target's: the 2 ms self-verification starts (R132, R133). -/
def execAuditCompareMismatch (d : Nat) (s : State) : Res :=
  let a := s.taps.audits.get d
  match a.target with
  | some (.bandTap c) => onlyIf (decide (d < s.dies) && s.auditRuns d && a.verifying.isNone && s.auditCompares (.bandTap c)) s
      (s.setAudit d fun a => { a with verifying := some (s.now, .bandTap c), target := none, second := some (s.secondTap d (.bandTap c)) })
  | some (.exportTap i) => onlyIf (decide (d < s.dies) && s.auditRuns d && a.verifying.isNone && s.auditCompares (.exportTap i)) s
      (s.setAudit d fun a => { a with verifying := some (s.now, .exportTap i), target := none, second := some (s.secondTap d (.exportTap i)) })
  | _ => .next s

/-- The verification against the second tap ends: the target is charged if it agrees, the audit tap if not (R133). What is left of the sub-slot compares nothing: DESIGN CHOICE (notes/assumptions/50.md). -/
def execAuditVerifyEnd (d : Nat) (agrees : Bool) (s : State) : Res :=
  match (s.taps.audits.get d).verifying with
  | none => .next s
  | some (first, t) =>
    onlyIf (decide (d < s.dies) && s.dieRuns d && decide (first + countsPerBlock ≤ s.now)) s
      (chargeTap (if agrees then t.unit else auditRef d) first (s.setAudit d fun a => { a with verifying := none, second := none }))

/-- The replacement takes over at a splice edge, without suppression (R134). -/
def execAuditReplacementSplice (d : Nat) (s : State) : Res :=
  match (s.taps.audits.get d).replace with
  | none => .next s
  | some u => onlyIf (decide (d < s.dies) && decide (s.now % countsPerFrame = 0)) s (completeWait (fun w => w = .retire u) .ok 0 (replaceTap u s))

/-! ### Registers -/

/-- W of a band tap: round(f × 2^48 / fs), ties away from zero (R107). -/
def tuningWord (plan f : Nat) : Nat := (2 * f * 2 ^ 48 + planKsps plan * 1000) / (2 * (planKsps plan * 1000))

/-- A read of NCO_WORD_LO snapshots NCO_WORD_HI (04 band tap record); of an absent die it returns 0 (00 R4). -/
def execNcoWordLoRead (c : Nat) (s : State) : Res :=
  let w := (s.taps.bandTaps.get c).ncoWord
  dieRead (clusterDie c) (w % 2 ^ 32) (fun t => t.setBandTap c fun b => { b with ncoHiSnap := BitVec.ofNat 16 (w / 2 ^ 32) }) s

/-- One sticky flag of a chain cleared: 0 halving, 1 resampler, 2 channel filter. -/
def Chain.clearSat (c : Chain) : Nat → Chain
  | 0 => { c with satHalving := false }
  | 1 => { c with satResampler := false }
  | 2 => { c with satFilter := false }
  | _ => c

/-- Writing 1 to a sticky saturation flag clears it (R129). -/
def execSatStickyClear (x : SatTarget) (s : State) : Res :=
  match x with
  | .bandTap c => dieWrite (clusterDie c) true (fun t => t.setBandTap c fun b => { b with satSticky := false }) s
  | .lane l g => dieWrite (laneDie l) true (fun t => { t with taps := { t.taps with lanes := t.taps.lanes.modify l (·.clearSat g) } }) s
  | .spare c g => dieWrite (clusterDie c) true (fun t => { t with taps := { t.taps with spares := t.taps.spares.modify c (·.clearSat g) } }) s

end Sys2Proof.Machine
end

