-- ==== Sys2Proof/Machine/Link.lean ====
section
/-!
DEFINITION. The host link (10): the PCI Express function, ring registers, doorbells, descriptor fetch, completions, delivery of blocks, interrupts, event blocks.
-/
namespace Sys2Proof.Machine

/-- The kinds of rings (R282). -/
def isCommandRing (r : Nat) : Bool := decide (r < 16)
def isCplRing (r : Nat) : Bool := decide (16 ≤ r) && decide (r < 32)
def isDeliveryRing (r : Nat) : Bool := decide (32 ≤ r) && decide (r < 96)

/-- Modes in which command rings run (11 R317). -/
def State.ringsRun (s : State) : Bool := s.barUp && s.mode.mode != .boot

/-- A ring halts with an error: RING_ERROR; a command ring signals its vector (R286, R297). -/
def haltRing (r : Nat) (e : RingErr) (s : State) : State :=
  let g := s.link.rings.get r
  let s := s.setRing r fun g => { g with err := true, errCode := e }
  let s := raise .ringError pkg [.w r, .w e.code, .w g.devIndex] s
  if isCommandRing r then signalVector g.vector s else s

/-! ### Reset of the function, link state -/

/-- A ring's registers at reset; its numbering goes on, and what was formed and not written counts as discarded (R280, R294). -/
def Ring.reset (g : Ring) : Ring :=
  { sequence := g.sequence, dropped := g.dropped + g.waiting.length, discards := BitVec.ofNat 32 g.waiting.length
    discardsSec := g.discardsSec + g.waiting.length, pcmMask := g.pcmMask, pcmDie := g.pcmDie, pcmNext := g.pcmNext
    pcmFrom := g.pcmFrom, pcmEdges := g.pcmEdges }

/-- A function level reset, hot reset or link-down: every ring at its reset values, MSI-X disabled, the shadow set discarded, executing commands complete without an entry (R280). -/
def resetFunction (s : State) : State :=
  { s with
    link := { s.link with
      rings := s.link.rings.mapAll 96 fun _ g => g.reset
      pcie := { s.link.pcie with msixEnabled := false, masked := 0xFFFFFFFFFFFFFFFF, pbaPending := 0 } }
    cfg := { s.cfg with
      shadow := (match s.cfg.commit with
        | some c => c.set
        | none => s.cfg.committed)
      commit := s.cfg.commit.map fun c => { c with src := none }
      hopping := s.cfg.hopping.map fun c => { c with src := none } }
    mon := { s.mon with dies := s.mon.dies.mapAll s.dies fun _ m => { m with queue := m.queue.map fun x => { x with src := match x.src with
      | some (.ring _) => none
      | y => y } } }
    mode := { s.mode with change := s.mode.change.map fun c => { c with src := match c.src with
      | some (.ring _) => none
      | y => y } } }

/-- The attributes of a posted write on the link: Relaxed Ordering, No Snoop, ECRC (R278, R279). -/
structure TlpAttr where
  relaxed : Bool
  noSnoop : Bool
  ecrc : Bool
  deriving DecidableEq, Repr

/-- The writes of an output on the link, in their order: a block's header, its payload and its entry; one for a completion entry, an output buffer or an MSI-X message. Relaxed Ordering stands on payloads alone, where it is enabled (R278, R279, R291). -/
def PcieSt.writes (p : PcieSt) : Sent → List TlpAttr
  | .block .. => [⟨false, false, p.ecrcGen⟩, ⟨p.relaxed, false, p.ecrcGen⟩, ⟨false, false, p.ecrcGen⟩]
  | .completion .. | .buffer .. | .msix _ => [⟨false, false, p.ecrcGen⟩]
  | _ => []

/-- Bytes 8 to 15 of a delivery entry as the part fills it (R291). -/
def Block.entry (b : Block) (gap : Bool) : List Byte := le 4 (64 + b.payload.length) ++ le 2 b.sequence ++ le 1 (b2n gap) ++ zeros 1

/-- A function level reset, a hot reset or a link-down event (R280). -/
def execPcieReset (s : State) : Res := onlyIf (s.mode.mode != .off) s (resetFunction s)

/-- The link trains or retrains to a width and rate in GT/s, or goes down, which resets the function (R276, R280). -/
def execLinkState (up : Bool) (width rate : Nat) (s : State) : Res :=
  onlyIf (s.mode.mode != .off) s
    (let t := { s with link := { s.link with pcie := { s.link.pcie with
        linkUp := up, linkWidth := if up then width else 0, linkRate := if up then rate else 0 } } }
     let t := raise .linkState pkg [.w (if up then 0 else 1), .w (if up then width else 0), .w (if up then rate else 0)] t
     if up then t else resetFunction t)

/-- A received write that fails ECRC is discarded and reported through AER (R279). -/
def execReceivedWriteEcrcFail (bar offset : Nat) (s : State) : Res :=
  onlyIf (s.mode.mode != .off && s.link.pcie.linkUp && s.link.pcie.ecrcCheck) s (send (.aer bar offset) s)

/-! ### Ring registers -/

/-- The largest block that a route can form, header included (R292, R303). -/
def RouteEntry.largestBlock (e : RouteEntry) : Nat :=
  let has := fun (m n : Nat) => if m = 0 then 0 else n
  match e.cls with
  | none => 0
  | some .pcm => 64 + 768 * (maskList 64 e.slotMask).length
  | some .pdmIn => 3136
  | some .accessUnits => 65600
  | some .sideData => max (has (e.laneMask + e.watchMask) 16448) (has e.engineMask 65600)
  | some .measurement => maxL [has e.laneMask 160, has e.watchMask 128, has e.engineMask 4416, has e.slotMask 160, has e.followMask 320]
  | some .events => 16448
  | some .hallmark => 65600
  | some .telemetry => 384

/-- A delivery ring's buffers hold the largest block of its route in a set (R292). -/
def ConfigSet.bufferHolds (c : ConfigSet) (r bufLog2 : Nat) : Bool := decide ((c.routes.get r).largestBlock ≤ 2 ^ bufLog2)

/-- The fields of +0x08 that take a write while ENABLE is 0, and VECTOR (R283). -/
def Ring.takeCtrl (g : Ring) (v : Nat) : Ring :=
  let g := { g with vector := v / 2 ^ 6 % 64 }
  if g.enable then g else { g with sizeLog2 := v % 32, cq := v / 2 ^ 12 % 16, bufLog2 := v / 2 ^ 16 % 32 }

/-- A write to BASE_LO, BASE_HI, HOLD_LIMIT or the moderation word, or to +0x08 with ENABLE as it stands (R283). -/
def execRingConfigWrite (r offset v : Nat) (s : State) : Res :=
  let t := hostAccess s
  onlyIf (s.barUp && decide (r < 96)) s
    (match offset with
     | 0x00 => t.setRing r fun g => if g.enable then g else { g with baseLo := BitVec.ofNat 32 v }
     | 0x04 => t.setRing r fun g => if g.enable then g else { g with baseHi := BitVec.ofNat 32 v }
     | 0x08 => t.setRing r fun g => if maskBit v 5 == g.enable then g.takeCtrl v else g
     | 0x0C => if isDeliveryRing r && v % 128 ≤ 100 then t.setRing r fun g => { g with holdLimit := v % 128 } else t
     | 0x10 => t.setRing r fun g => { g with modCount := v % 65536, modTime := v / 65536 % 65536 }
     | _ => t)

/-- The error that keeps a ring disabled as ENABLE is set, if there is one (R283, R292). -/
def State.enableError (s : State) (r : Nat) (g : Ring) : RingErr :=
  if g.sizeLog2 < 6 || 16 < g.sizeLog2 then .size
  else if isDeliveryRing r && (g.bufLog2 < 12 || 22 < g.bufLog2 || !s.cfg.active.bufferHolds r g.bufLog2) then .bufSize
  else .none

/-- ENABLE set, with the fields of its word: the ring starts at index 0, or stays disabled with an error code (R283, R292). Before the end of BOOT the write is ignored (17 R451). -/
def execRingEnable (r v : Nat) (s : State) : Res :=
  let g := (s.link.rings.get r).takeCtrl v
  let e := s.enableError r g
  onlyIf (s.barUp && decide (r < 96) && !(s.link.rings.get r).enable && maskBit v 5) s
    ((hostAccess s).setRing r fun _ =>
      if s.mode.mode = .boot then s.link.rings.get r
      else if e = .none then { g with enable := true, errCode := .none, devIndex := 0, doorbell := 0, phase := true, unsignalled := 0, firstUnsignalled := 0, retried := false }
      else { g with errCode := e })

/-- An enabled command ring names completion ring `q` in CQ (R284). -/
def State.cqInUse (s : State) (q : Nat) : Bool := (List.range 16).any fun r => (s.link.rings.get r).enable && 16 + (s.link.rings.get r).cq == q

/-- ENABLE cleared: a command ring fetches nothing further, a completion ring in use stays, a delivery ring writes no block that has not begun; error state cleared (R284). -/
def execRingDisable (r v : Nat) (s : State) : Res :=
  let g := s.link.rings.get r
  let t := hostAccess s
  onlyIf (s.barUp && decide (r < 96) && g.enable && !maskBit v 5) s
    (if isCplRing r && s.cqInUse r then t.setRing r fun g => { g with errCode := .cqInUse }
     else
       let t := t.setRing r fun g => { g with vector := v / 2 ^ 6 % 64 }
       let off := fun (g : Ring) => { g with enable := false, inFlight := true, err := false, fenced := false, errCode := .none }
       if isDeliveryRing r then g.waiting.foldl (fun acc _ => discardBlock r acc) (t.setRing r fun g => { off g with waiting := [] })
       else t.setRing r off)

/-- The last write to a disabled ring and its buffers has been sent: RUNNING clears (R284). -/
def execRingWritesDrained (r : Nat) (s : State) : Res :=
  let g := s.link.rings.get r
  onlyIf (decide (r < 96) && !g.enable && g.inFlight && g.fetched.isEmpty && g.executing.isNone && !g.cplDue) s
    (s.setRing r fun g => { g with inFlight := false })

/-! ### Doorbells -/

/-- INDEX applied, or the ring halted for an index beyond it (R285, R286). -/
def doorbell (r index : Nat) (resume : Bool) (s : State) : State :=
  let g := s.link.rings.get r
  if index < 2 ^ g.sizeLog2 then s.setRing r fun g => { g with doorbell := index, fenced := g.fenced && !resume }
  else haltRing r .doorbell s

/-- A doorbell write without RESUME (R285, R286); a disabled or halted ring takes none. -/
def execDoorbellWrite (r index : Nat) (s : State) : Res :=
  let g := s.link.rings.get r
  onlyIf (s.barUp && decide (r < 96) && g.enable && !g.err) s (doorbell r (index % 65536) false (hostAccess s))

/-- A doorbell write with RESUME releases a fenced command ring and applies INDEX at once (R289); on the other rings the bit is reserved and only INDEX is taken (R285). -/
def execDoorbellResume (r index : Nat) (s : State) : Res :=
  let g := s.link.rings.get r
  onlyIf (s.barUp && decide (r < 96) && g.enable && !g.err) s (doorbell r (index % 65536) true (hostAccess s))

/-! ### Command and completion rings -/

/-- A command ring may fetch: it runs, an entry is outstanding, fewer than 8 wait behind the one executing, its completion ring holds nothing back (R285, R287 to R289). -/
def State.mayFetch (s : State) (r : Nat) : Bool :=
  let g := s.link.rings.get r
  let q := s.link.rings.get (16 + g.cq)
  s.ringsRun && isCommandRing r && g.enable && !g.err && !g.fenced && g.devIndex != g.doorbell
  && decide (g.fetched.length + b2n g.executing.isSome ≤ 8) && !q.cqFull && q.held.isEmpty

/-- The next outstanding descriptor is fetched and checked; `desc` none: its read failed ECRC or was refused, once re-requested, then the ring halts (R279, R287). -/
def execDescriptorFetch (r : Nat) (desc : Option (List Byte)) (s : State) : Res :=
  let g := s.link.rings.get r
  onlyIf (s.mayFetch r) s
    (match desc with
     | none => if g.retried then haltRing r .dma (s.setRing r fun g => { g with retried := false }) else s.setRing r fun g => { g with retried := true }
     | some d =>
       let b := padTo 64 d
       let good := field b 60 0 32 == (crc32c (b.take 60)).toNat
       let t := if good then s else s.setDieInteg 0 fun x => { x with descCheckFails := x.descCheckFails + 1 }
       pump r 16 (t.setRing r fun g =>
         { g with devIndex := (g.devIndex + 1) % 2 ^ g.sizeLog2, written := g.written + 1, retried := false, fetched := g.fetched ++ [⟨b, g.devIndex, good⟩] }))

/-- A held completion is written once its ring has room (R288). -/
def execCompletionWrite (q : Nat) (s : State) : Res :=
  let g := s.link.rings.get q
  match g.held with
  | [] => .next s
  | c :: rest =>
    onlyIf (s.barUp && isCplRing q && g.enable && !g.err && !g.cqFull) s
      (pump c.ring 16 (writeCpl q c (s.setRing q fun g => { g with held := rest })))

/-! ### Delivery -/

/-- The oldest waiting block leaves staging unwritten (R295, R296). -/
def dropOldest (r : Nat) (s : State) : State := discardBlock r (s.setRing r fun g => { g with waiting := g.waiting.drop 1 })

/-- A waiting block is verified and written into the next posted entry, unless it has waited HOLD_LIMIT; `good`: both check values hold, `owner`: the entry's OWNER bit (R291, R295, R296, R300). In HALTED none is (01 R34). -/
def execBlockWrite (r : Nat) (good owner : Bool) (s : State) : Res :=
  let g := s.link.rings.get r
  match g.waiting with
  | [] => .next s
  | b :: rest =>
    onlyIf (s.barUp && s.mode.mode != .halted && isDeliveryRing r && g.takes && g.devIndex != g.doorbell
        && decide (s.now ≤ b.readyAt + g.holdLimit * countsPerTick)) s
      (if !good then
         raise .deliveryCheckFail b.die [.w r, .w b.die, .q b.sequence]
           ((dropOldest r s).setDieInteg b.die fun x => { x with deliveryCheckFails := x.deliveryCheckFails + 1 })
       else if !owner then haltRing r .owner s
       else
         let gap := decide (0 < g.dropped)
         let t := send (.block r g.devIndex gap (min g.dropped 0xFFFFFFFF) b) s
         let t := t.setRing r fun g => { g with waiting := rest, dropped := 0, devIndex := (g.devIndex + 1) % 2 ^ g.sizeLog2, written := g.written + 1 }
         countEntry r t)

/-- A waiting block has waited HOLD_LIMIT (R295). -/
def execBlockHoldExpiry (r : Nat) (s : State) : Res :=
  let g := s.link.rings.get r
  match g.waiting with
  | [] => .next s
  | b :: _ => onlyIf (isDeliveryRing r && decide (b.readyAt + g.holdLimit * countsPerTick ≤ s.now)) s (dropOldest r s)

/-- MOD_TIME has passed since the first unsignalled entry (R297). -/
def execInterruptModTimer (r : Nat) (s : State) : Res :=
  let g := s.link.rings.get r
  onlyIf (s.barUp && decide (16 ≤ r) && decide (r < 96) && decide (0 < g.unsignalled) && decide (0 < g.modTime)
      && decide (g.firstUnsignalled + g.modTime * 100 ≤ s.now)) s
    (signalVector g.vector (s.setRing r fun g => { g with unsignalled := 0, firstUnsignalled := 0 }))

/-- Unmasking a vector sends a pending signal (R297). -/
def execMsixUnmask (v : Nat) (s : State) : Res :=
  let p := s.link.pcie
  let pend := maskBit p.pbaPending v
  onlyIf (s.barUp && decide (v < 64) && maskBit p.masked v) s
    (let s := hostAccess s
     let t := { s with link := { s.link with pcie := { p with masked := clearBit p.masked v, pbaPending := clearBit p.pbaPending v } } }
     if pend && p.msixEnabled then send (.msix v) t else t)

/-- The end of a second in which a ring discarded blocks (R296). -/
def execRingOverrun (r : Nat) (s : State) : Res :=
  let n := (s.link.rings.get r).discardsSec
  onlyIf (isDeliveryRing r && decide (0 < n) && decide (s.now % countsPerSecond = 0)) s
    (raise .ringOverrun pkg [.w r, .w n] (s.setRing r fun g => { g with discardsSec := 0 }))

/-! ### Event blocks -/

/-- The die whose events route carries the events of a source: a die's own, or die 0's for the package (R293). -/
def eventDie (x : Nat) : Nat := if x = pkg then 0 else x

/-- The oldest span that has ended and holds an event of source `x`, by its even tick. -/
def State.eventSpan (s : State) (x : Nat) : Option Nat :=
  ((s.link.events.map fun e => (e.origin, e.raised / countsPerBlock * countsPerBlock)).find? fun e => e.1 == x && decide (e.2 + countsPerBlock ≤ s.now)).map (·.2)

/-- One event block of a source, a die or the package (R294, R304 to R306). -/
def formEvents (x t0 : Nat) (es : List Ev) (s : State) : State :=
  formRecordBlocks .events (fun _ => true) 16384 (es.map Ev.bytes)
    { format := 0x0501, srcType := if x = pkg then 9 else 8, srcIndex := eventDie x, die := eventDie x, timestamp := t0, sampleCount := 0
      flags := s.clockFlags (eventDie x) [] t0 (t0 + countsPerBlock), payload := [] }
    { s with link := { s.link with lastEventBlock := s.link.lastEventBlock.set x s.now } }

/-- A span of 2 ms with events of a source has ended, or it is a whole second of SYSTIME after a second without a block of it: an empty one, stamped with that second: DESIGN CHOICE (R306, notes/assumptions/50.md). The source is a die, or 0xFF for the package. -/
def execEventBlock (x : Nat) (s : State) : Res :=
  match s.eventSpan x with
  | some t0 =>
    let inSpan := fun (e : Ev) => e.origin == x && decide (e.raised < t0 + countsPerBlock)
    onlyIf (s.dieUp (eventDie x) && s.mode.mode != .halted) s
      (formEvents x t0 (s.link.events.filter inSpan) { s with link := { s.link with events := s.link.events.filter fun e => !inSpan e } })
  | none =>
    onlyIf (s.dieUp (eventDie x) && s.mode.mode != .halted && decide (s.now % countsPerSecond = 0) && decide (s.link.lastEventBlock.get x + countsPerSecond ≤ s.now)) s
      (formEvents x s.now [] s)

end Sys2Proof.Machine
end

