-- ==== Sys2Proof/Machine/Stage.lean ====
section
/-!
DEFINITION. Descriptors as they are laid out (11 R312 to R338): the fields of every command and staged entry with their ranges, the first bad field, and the entries that descriptors and buffers spell.
-/
namespace Sys2Proof.Machine

/-! ### Fields -/

/-- A field: its byte offset, its bits from there on, its range; `zero`: 0 stands for "does not apply"; `step`: only its multiples. -/
structure FSpec where
  off : Nat
  bit : Nat
  width : Nat
  lo : Int
  hi : Int
  sgn : Bool := false
  zero : Bool := false
  step : Nat := 1

/-- A field that takes any value. -/
def anyF (off bit width : Nat) : FSpec := ⟨off, bit, width, 0, 2 ^ width - 1, false, false, 1⟩
/-- An unsigned field with a range. -/
def rangeF (off bit width : Nat) (lo hi : Int) : FSpec := ⟨off, bit, width, lo, hi, false, false, 1⟩
/-- A signed field with a range. -/
def signF (off bit width : Nat) (lo hi : Int) : FSpec := ⟨off, bit, width, lo, hi, true, false, 1⟩

/-- What a field holds. -/
def FSpec.value (f : FSpec) (d : List Byte) : Int :=
  if f.sgn then sfield d f.off f.bit f.width else (field d f.off f.bit f.width : Int)

/-- A value out of the field's range, or reserved (R14, R321). -/
def FSpec.bad (d : List Byte) (f : FSpec) : Bool :=
  let v := f.value d
  !(f.zero && decide (v = 0)) && !(decide (f.lo ≤ v) && decide (v ≤ f.hi) && decide (v % f.step = 0))

/-- The field covers a bit, counted from bit 0 of byte 0. -/
def FSpec.covers (i : Nat) (f : FSpec) : Bool := decide (f.off * 8 + f.bit ≤ i) && decide (i < f.off * 8 + f.bit + f.width)

/-- The offsets of fields out of range, and of bytes from `a` on, `n` of them, with a reserved bit set (R14, R315). -/
def badFields (fs : List FSpec) (a n : Nat) (d : List Byte) : List Nat :=
  (fs.filter (FSpec.bad d)).map (·.off)
  ++ ((List.range n).map (a + ·)).filter fun b => (List.range 8).any fun i => bitAt d b i && !fs.any (FSpec.covers (8 * b + i))

/-- Offsets that are bad where the condition holds. -/
def badIf (c : Bool) (off : Nat) : List Nat := if c then [off] else []

/-- Offsets of fields that must be 0 and are not. -/
def nonZero (fs : List FSpec) (d : List Byte) : List Nat := (fs.filter fun f => decide (f.value d ≠ 0)).map (·.off)

/-- Bytes `a` to `a + n − 1` of a buffer. -/
def part (bs : List Byte) (a n : Nat) : List Byte := padTo n (bs.drop a)

/-! ### Parameters of the commands -/

/-- TYPE, DIE, LOCAL and SUB of a unit (R338, R339). -/
def unitFields : List FSpec := [rangeF 4 0 8 0 12, anyF 5 0 3, anyF 6 0 16, anyF 8 0 8]
/-- The parameters of STAGE_LANE (R332, R136). -/
def laneFields : List FSpec :=
  [anyF 4 0 16, rangeF 6 0 3 0 6, anyF 6 3 2, anyF 7 0 2, anyF 7 2 2, anyF 7 4 1, rangeF 7 5 2 0 2, anyF 7 7 1, anyF 8 0 32, anyF 12 0 3, anyF 12 3 5,
   anyF 14 0 14, rangeF 16 0 32 0 5120000, anyF 20 0 16, anyF 22 0 16, anyF 24 0 16,
   { rangeF 26 0 8 5 20 with zero := true }, { rangeF 27 0 8 10 200 with zero := true }, { rangeF 28 0 8 10 80 with zero := true },
   anyF 29 0 4, rangeF 29 4 2 0 2, anyF 29 6 1]
/-- The parameters of STAGE_CLUSTER (R331). -/
def clusterFields : List FSpec :=
  [anyF 4 0 16, anyF 6 0 1, rangeF 6 1 3 0 5, anyF 6 4 1, anyF 7 0 3, anyF 8 0 32, anyF 12 0 16]
/-- FEED[i] and DRM_MODE[i] of STAGE_ENGINE, each at the byte in which it begins (R333). -/
def feedField (i : Nat) : FSpec := anyF (8 + 6 * i / 8) (6 * i % 8) 6
def drmField (i : Nat) : FSpec := rangeF (14 + 3 * i / 8) (3 * i % 8) 3 0 5
/-- The parameters of STAGE_ENGINE (R333, R167). -/
def engineFields : List FSpec :=
  [anyF 4 0 16, rangeF 6 0 2 0 2, rangeF 6 2 2 0 2, anyF 6 4 1, anyF 6 5 2, anyF 6 7 1, rangeF 7 0 8 0 100]
  ++ (List.range 8).map feedField ++ (List.range 8).map drmField
  ++ [{ signF 17 0 8 (-40) (-10) with zero := true }, { rangeF 18 0 8 6 40 with zero := true }, anyF 20 0 64, anyF 28 0 64, anyF 36 0 64]
/-- The parameters of STAGE_SLOT (R334, R224). -/
def slotFields : List FSpec :=
  [anyF 4 0 16, anyF 6 0 2, anyF 6 2 2, anyF 6 4 1, rangeF 6 5 2 0 2, anyF 6 7 1, anyF 7 0 4, anyF 8 0 16, anyF 10 0 3, anyF 11 0 6, anyF 12 0 16,
   { rangeF 14 0 16 32 500 with zero := true }, { signF 16 0 16 (-9000) (-3000) with zero := true }, { rangeF 18 0 16 1 600 with zero := true },
   rangeF 20 0 2 0 2, anyF 21 0 5, { rangeF 22 0 8 1 10 with zero := true }, rangeF 23 0 2 0 2, { rangeF 24 0 8 30 90 with zero := true }]
/-- The parameters of STAGE_PORT (R335, R257). -/
def portFields : List FSpec :=
  [anyF 4 0 3, anyF 5 0 1, anyF 5 1 1, anyF 5 2 1, rangeF 5 3 2 0 2, anyF 5 5 1, anyF 5 6 1, rangeF 6 0 8 2 8, rangeF 7 0 8 0 15,
   { rangeF 8 0 16 8 512 with step := 2 }, { rangeF 10 0 16 8 512 with step := 2 }, anyF 12 0 4, anyF 16 0 128]

/-- The parameter fields of every command (R330 to R338). -/
def Cmd.fields : Cmd → List FSpec
  | .nop | .identify | .realign | .discardStage | .calStore => []
  | .timeSet => [anyF 4 0 64, anyF 12 0 64, anyF 20 0 32, anyF 24 0 1]
  | .stageLane => laneFields
  | .stageCluster => clusterFields
  | .stageEngine => engineFields
  | .stageSlot => slotFields
  | .stagePort => portFields
  | .stageFollow => [anyF 4 0 16]
  | .stageBank => [anyF 4 0 3, anyF 5 0 3, anyF 6 0 32]
  | .stagePlan => [rangeF 4 0 2 0 2, anyF 4 2 1, anyF 5 0 8, rangeF 6 0 7 0 64]
  | .stageCopy => [anyF 4 0 3, anyF 6 0 16, anyF 8 0 16]
  | .commit => [anyF 4 0 48, anyF 10 0 1]
  | .portStart | .portStop => [anyF 4 0 3, anyF 5 0 1, anyF 6 0 48]
  | .captureStart => [rangeF 4 0 8 32 95, rangeF 5 0 2 0 2, anyF 6 0 16, anyF 8 0 48]
  | .captureStop => [rangeF 4 0 8 32 95]
  | .calStart | .calQuery => [rangeF 4 0 8 0 5, anyF 6 0 16]
  | .syscalStep => [rangeF 4 0 8 1 8, anyF 5 0 8, anyF 8 0 32, anyF 12 0 32]
  | .monInject => [anyF 4 0 3, anyF 5 0 5, anyF 6 0 2, anyF 7 0 1, anyF 8 0 10]
  | .monRead => [anyF 4 0 3]
  | .faultQuery => [rangeF 4 0 8 0 1, anyF 5 0 3]
  | .faultClear | .unitRestore => unitFields
  | .unitRetire => unitFields ++ [anyF 9 0 1]
  | .modeSet => [rangeF 4 0 4 0 12]
  | .attest => [anyF 4 0 128, anyF 20 0 128]
  | .hallmarkConfig => [rangeF 4 0 8 1 60, anyF 5 0 1]
  | .keyInfo => [rangeF 4 0 8 0 3]
  | .updateBegin => [{ rangeF 4 0 32 512 8388608 with step := 4 }, anyF 8 0 128, anyF 24 0 128]
  | .updateChunk => [{ anyF 4 0 32 with step := 4 }]
  | .updateFinish => [anyF 4 0 1]
  | .logRead => [anyF 4 0 32, anyF 8 0 16]

/-- What a command does with the buffer that its descriptor names (R329). -/
inductive BufUse where
  | none_ | input | output (min : Nat)
  deriving DecidableEq, Repr

/-- The buffer use of a descriptor: minima of 11 R340, 12 R354, 13 R370, 14 R390, R391, 15 R402, R404; an input command whose masks select nothing takes none (R330, R331, R337). -/
def Cmd.bufUse (c : Cmd) (d : List Byte) : BufUse :=
  match c with
  | .identify | .calQuery => .output 256
  | .monRead => .output 512
  | .faultQuery => .output (if field d 4 0 8 = 1 then 256 else 128)
  | .attest => .output 288
  | .keyInfo => .output 2048
  | .logRead => .output 112
  | .stageFollow | .updateChunk => .input
  | .stagePlan => if field d 5 0 8 = 0 && field d 6 0 7 = 0 then .none_ else .input
  | .stageCluster => if field d 12 0 16 = 0 then .none_ else .input
  | .stageBank => if field d 6 0 32 = 0 then .none_ else .input
  | _ => .none_

/-- BUF_ADDR, BUF_LEN, BUF_CRC (R312). -/
def bufAddr (d : List Byte) : Nat := field d 44 0 64
def bufLen (d : List Byte) : Nat := field d 52 0 32
def bufCrc (d : List Byte) : Nat := field d 56 0 32

/-- A buffer that can be read or written: aligned to 64 bytes and named, its length a multiple of 4, at most 65,536 (R312). -/
def bufSound (d : List Byte) : Bool :=
  decide (bufAddr d ≠ 0) && decide (bufAddr d % 64 = 0) && decide (bufLen d ≠ 0) && decide (bufLen d % 4 = 0) && decide (bufLen d ≤ 65536)

/-- Bad offsets among bytes 44 to 59 (R312 to R314). -/
def badBuffer (u : BufUse) (d : List Byte) : List Nat :=
  match u with
  | .none_ => badIf (bufAddr d != 0) 44 ++ badIf (bufLen d != 0) 52 ++ badIf (bufCrc d != 0) 56
  | .input => badIf (bufAddr d == 0 || bufAddr d % 64 != 0) 44 ++ badIf (bufLen d == 0 || bufLen d % 4 != 0 || 65536 < bufLen d) 52
  | .output m =>
    badIf (bufAddr d == 0 || bufAddr d % 64 != 0) 44 ++ badIf (bufLen d % 4 != 0 || 65536 < bufLen d || bufLen d < m) 52
    ++ badIf (bufCrc d != 0) 56

/-! ### Entries -/

/-- A field of a buffer is named by 64 plus its offset in the buffer (notes/assumptions/31.md). -/
def inBuffer (a : Nat) (xs : List Nat) : List Nat := xs.map (64 + a + ·)

/-- The course mode of a code. -/
def CourseMode.ofCode : Nat → CourseMode
  | 1 => .simplex
  | 2 => .duplex
  | _ => .off

/-- The fields of a course entry (R330, R93). -/
def courseFields : List FSpec :=
  [rangeF 0 0 2 0 2, anyF 0 2 1, anyF 0 3 1, signF 1 0 8 (-31) 14, signF 2 0 8 (-31) 14, signF 3 0 8 (-31) 14, signF 4 0 8 (-12) 0,
   signF 5 0 8 (-24) (-3), signF 6 0 8 (-40) (-6), rangeF 8 0 16 1 600, rangeF 10 0 16 1 1000]

/-- The course entry of 12 bytes (R330). -/
def CourseEntry.ofBytes (b : List Byte) : CourseEntry :=
  { mode := CourseMode.ofCode (field b 0 0 2), preferB := bitAt b 0 2, agcOn := bitAt b 0 3, gain := sfield b 1 0 8, gainMax := sfield b 2 0 8
    gainMin := sfield b 3 0 8, attack := sfield b 4 0 8, target := sfield b 5 0 8, release := sfield b 6 0 8, hold := field b 8 0 16
    releaseInterval := field b 10 0 16 }

/-- The delivery class of a code; 0 removes a route (R330). -/
def DelClass.ofCode : Nat → Option DelClass
  | 1 => some .pcm | 2 => some .pdmIn | 3 => some .accessUnits | 4 => some .sideData | 5 => some .measurement | 6 => some .events
  | 7 => some .hallmark | 8 => some .telemetry
  | _ => none

/-- The mask fields of a route entry: lanes, watch taps, slots, follow sets, engines, input port (R330). -/
def routeMasks : List FSpec := [anyF 4 0 32, anyF 8 0 64, anyF 16 0 64, anyF 24 0 16, anyF 26 0 4, anyF 26 4 1]
/-- The fields of a route entry (R330). -/
def routeFields : List FSpec := [rangeF 0 0 8 32 95, anyF 1 0 3, rangeF 2 0 8 0 8] ++ routeMasks
/-- The places in `routeMasks` that a class uses (10 R293). -/
def DelClass.uses : Option DelClass → List Nat
  | some .pcm => [2]
  | some .pdmIn => [5]
  | some .accessUnits => [4]
  | some .sideData => [0, 1, 4]
  | some .measurement => [0, 1, 2, 3, 4]
  | _ => []

/-- Bad offsets of a route entry: masks that its class does not use must be 0 (R330). -/
def badRoute (b : List Byte) : List Nat :=
  let used := DelClass.uses (DelClass.ofCode (field b 2 0 8))
  badFields routeFields 0 32 b ++ nonZero ((routeMasks.zipIdx.filter fun x => !used.contains x.2).map (·.1)) b

/-- The route entry of 32 bytes (R330). -/
def RouteEntry.ofBytes (b : List Byte) : RouteEntry :=
  match DelClass.ofCode (field b 2 0 8) with
  | none => {}
  | some c =>
    { die := field b 1 0 3, cls := some c, laneMask := field b 4 0 32, watchMask := field b 8 0 64, slotMask := field b 16 0 64
      followMask := field b 24 0 16, engineMask := field b 26 0 4, inputPort := bitAt b 26 4 }

/-- Offsets of the entries of STAGE_PLAN's buffer: course entries with their course, and route entries (R330). -/
def planCourses (d : List Byte) : List (Nat × Nat) := (maskList 8 (field d 5 0 8)).zipIdx.map fun x => (12 * x.2, x.1)
def planRoutes (d : List Byte) : List Nat :=
  let n := 12 * (maskList 8 (field d 5 0 8)).length
  (List.range (field d 6 0 7)).map fun i => n + 32 * i

/-- Bad offsets of STAGE_PLAN beyond its own fields (R330). -/
def badPlan (d buf : List Byte) : List Nat :=
  let need := 12 * (planCourses d).length + 32 * (planRoutes d).length
  badIf (!bitAt d 4 2 && field d 4 0 2 != 0) 4
  ++ badIf (bufLen d != need) 52
  ++ if bufLen d != need then [] else
     ((planCourses d).flatMap fun x => inBuffer x.1 (badFields courseFields 0 12 (part buf x.1 12)))
     ++ (planRoutes d).flatMap fun a => inBuffer a (badRoute (part buf a 32))

/-- The watch-tap mode of a code (05 R158). -/
def WatchMode.ofCode : Nat → WatchMode
  | 1 => .level
  | 2 => .fm
  | 3 => .survey
  | _ => .off

/-- The fields of a watch-tap entry (R331). -/
def watchFields : List FSpec :=
  [anyF 0 0 2, anyF 0 2 1, rangeF 0 3 2 0 2, rangeF 1 0 8 0 32, rangeF 2 0 8 0 100, anyF 3 0 3, anyF 3 3 5] ++ (List.range 32).map fun i => anyF (8 + 4 * i) 0 32

/-- Bad offsets of a watch-tap entry: FREQ_COUNT and DWELL as the mode takes them, what does not apply 0, unused frequencies 0 (R331, 05 R158 to R160). -/
def badWatch (b : List Byte) : List Nat :=
  let n := field b 1 0 8
  badFields watchFields 0 136 b
  ++ (match WatchMode.ofCode (field b 0 0 2) with
      | .off => nonZero [anyF 0 2 3, anyF 1 0 8, anyF 2 0 8, anyF 3 0 8] b
      | .survey => badIf (n == 0) 1 ++ badIf (field b 2 0 8 == 0) 2 ++ nonZero [anyF 0 3 2] b
      | _ => badIf (n != 1) 1 ++ nonZero [anyF 2 0 8] b)
  ++ ((List.range 32).filter fun i => decide (n ≤ i) && field b (8 + 4 * i) 0 32 != 0).map fun i => 8 + 4 * i

/-- The watch-tap entry of 136 bytes (R331). -/
def WatchEntry.ofBytes (b : List Byte) : WatchEntry :=
  { mode := WatchMode.ofCode (field b 0 0 2), rateHigh := bitAt b 0 2, period := field b 0 3 2, freqCount := field b 1 0 8, dwell := field b 2 0 8
    bank := field b 3 0 3, filter := field b 3 3 5, freqs := (List.range (field b 1 0 8)).map fun i => field b (8 + 4 * i) 0 32 }

/-- The cluster entry of a descriptor (R331). -/
def ClusterEntry.ofDesc (d : List Byte) : ClusterEntry :=
  { btOn := bitAt d 6 0, segCode := field d 6 1 3, course := field d 7 0 3, fBt := field d 8 0 32, holdCover := bitAt d 6 4 }

/-- The watch taps that WATCH_MASK selects, with the offset of each entry. -/
def clusterTaps (d : List Byte) : List (Nat × Nat) := (maskList 16 (field d 12 0 16)).zipIdx.map fun x => (136 * x.2, x.1)

/-- Bad offsets of STAGE_CLUSTER beyond its own fields (R331). -/
def badCluster (d buf : List Byte) : List Nat :=
  let need := 136 * (clusterTaps d).length
  (if bitAt d 6 0 then [] else nonZero [anyF 6 1 3, anyF 7 0 3, anyF 8 0 32] d)
  ++ badIf (bufLen d != need) 52
  ++ if bufLen d != need then [] else (clusterTaps d).flatMap fun x => inBuffer x.1 (badWatch (part buf x.1 136))

/-- The lane mode of a code (05 R135). -/
def LaneMode.ofCode : Nat → LaneMode
  | 1 => .amEnv | 2 => .amSync | 3 => .fmMono | 4 => .fmStereo | 5 => .ofdmFeed | 6 => .branch
  | _ => .off

/-- The lane entry of a descriptor (R332). -/
def LaneEntry.ofDesc (d : List Byte) : LaneEntry :=
  { mode := LaneMode.ofCode (field d 6 0 3), branchCount := field d 6 3 2, measPeriod := field d 7 0 2, syncBw := field d 7 2 2, amssOn := bitAt d 7 4
    deemph := field d 7 5 2, rdsNrsc := bitAt d 7 7, fLane := field d 8 0 32, bank := field d 12 0 3, filter := field d 12 3 5
    phaseDelay := field d 14 0 14, coarseDelay := field d 16 0 32, branches := (List.range (field d 6 3 2)).map fun i => field d (20 + 2 * i) 0 16
    audioBw := field d 26 0 8, devLimit := field d 27 0 8, pilotMin := field d 28 0 8, rdsStreams := field d 29 0 4, correctMax := field d 29 4 2
    acceptMax := field d 29 6 1 }

/-- Bad offsets of STAGE_LANE: what does not apply to the mode must be 0, what applies and has no 0 in its range must not (R136). -/
def badLane (d : List Byte) : List Nat :=
  let m := LaneMode.ofCode (field d 6 0 3)
  let n := field d 6 3 2
  (if m = .off then nonZero [anyF 8 0 32, anyF 12 0 8, anyF 14 0 14, anyF 16 0 32] d else [])
  ++ (if m = .off || m = .branch then nonZero [anyF 6 3 2] d else [])
  ++ (if m.am || m.fm then [] else nonZero [anyF 7 0 2] d)
  ++ (if m = .amSync then [] else nonZero [anyF 7 2 2] d)
  ++ (if m.am then badIf (field d 26 0 8 == 0) 26 else nonZero [anyF 7 4 1, anyF 26 0 8] d)
  ++ (if m.fm then badIf (field d 27 0 8 == 0) 27 ++ badIf (field d 28 0 8 == 0) 28
      else nonZero [anyF 7 5 3, anyF 27 0 8, anyF 28 0 8, anyF 29 0 7] d)
  ++ ((List.range 3).filter fun i => decide (n ≤ i) && field d (20 + 2 * i) 0 16 != 0).map fun i => 20 + 2 * i

/-- The engine class of a code. -/
def EngineClass.ofCode : Nat → EngineClass
  | 1 => .dab
  | 2 => .drm
  | _ => .off

/-- The engine entry of a descriptor (R333). -/
def EngineEntry.ofDesc (d : List Byte) : EngineEntry :=
  { cls := EngineClass.ofCode (field d 6 0 2), ctrlDelivery := field d 6 2 2, tiiOn := bitAt d 6 4, tiiPeriod := field d 6 5 2, measLong := bitAt d 6 7
    freqSearch := field d 7 0 8
    feeds := (List.range 8).map fun i => if bitAt d (8 + (6 * i + 5) / 8) ((6 * i + 5) % 8) then some ((feedField i).value d % 32).toNat else none
    drmModes := (List.range 8).map fun i => ((drmField i).value d).toNat
    pathThreshold := sfield d 17 0 8, tiiThreshold := field d 18 0 8, auMask := field d 20 0 64, dataMask := field d 28 0 64, padMask := field d 36 0 64 }

/-- Bad offsets of STAGE_ENGINE: what does not apply to the class must be 0 (R167, R333). -/
def badEngine (d : List Byte) : List Nat :=
  let c := EngineClass.ofCode (field d 6 0 2)
  (if c = .off then nonZero [anyF 6 2 2, anyF 6 7 1, anyF 7 0 8, anyF 20 0 64, anyF 28 0 64, anyF 36 0 64] d else [])
  ++ (if c = .dab then badIf (field d 17 0 8 == 0) 17 ++ badIf (field d 18 0 8 == 0) 18 else nonZero [anyF 6 4 3, anyF 17 0 8, anyF 18 0 8] d)
  ++ (if c = .drm then badIf (field d 24 0 32 != 0) 20 ++ badIf (field d 32 0 32 != 0) 28 ++ badIf (field d 40 0 32 != 0) 36 else [])
  ++ (((List.range 8).filter fun i => !(c = .drm || (c = .dab && i == 0)) && (feedField i).value d != 0).map fun i => (feedField i).off)
  ++ ((List.range 8).filter fun i => c ≠ .drm && (drmField i).value d != 0).map fun i => (drmField i).off

/-- The slot source of a code. -/
def SlotSource.ofCode : Nat → SlotSource
  | 1 => .lane
  | 2 => .decode
  | 3 => .follow
  | _ => .none

/-- The slot entry of a descriptor (R334). -/
def SlotEntry.ofDesc (d : List Byte) : SlotEntry :=
  { source := SlotSource.ofCode (field d 6 0 2), channels := field d 6 2 2, measLong := bitAt d 6 4, classify := field d 6 5 2, integReset := bitAt d 6 7
    muteClasses := field d 7 0 4, srcIndex := field d 8 0 16, srcPos := field d 10 0 3, srcSub := field d 11 0 6, context := field d 12 0 16
    slotDelay := field d 14 0 16, silenceLevel := sfield d 16 0 16, silenceMin := field d 18 0 16, matchKind := field d 20 0 2
    matchChannel := field d 21 0 5, matchRange := field d 22 0 8, matchWindow := field d 23 0 2, matchMin := field d 24 0 8 }

/-- Bad offsets of STAGE_SLOT: what does not apply to the source must be 0; a pair begins on its even channel (R224, R334). -/
def badSlot (d : List Byte) : List Nat :=
  let x := SlotSource.ofCode (field d 6 0 2)
  (if x = .none then nonZero [anyF 6 2 2, anyF 6 5 3, anyF 7 0 4, anyF 8 0 16, anyF 16 0 16, anyF 18 0 16, anyF 20 0 2, anyF 21 0 5, anyF 22 0 8, anyF 23 0 2, anyF 24 0 8] d
   else badIf (field d 16 0 16 == 0) 16 ++ badIf (field d 18 0 16 == 0) 18 ++ badIf (field d 22 0 8 == 0) 22 ++ badIf (field d 24 0 8 == 0) 24
     ++ badIf (field d 20 0 2 == 2 && bitAt d 21 0) 21)
  ++ (if x = .decode then badIf (field d 14 0 16 == 0) 14 else nonZero [anyF 10 0 3, anyF 11 0 6, anyF 12 0 16, anyF 14 0 16] d)

/-- The port entry of a descriptor (R335). -/
def PortEntry.ofDesc (d : List Byte) : PortEntry :=
  { bclkFast := bitAt d 5 1, amclk := bitAt d 5 2, amclkNom := field d 5 3 2, autoRate := bitAt d 5 5, gapSilence := bitAt d 5 6
    glitchWidth := field d 6 0 8, sampleDelay := field d 7 0 8, preRoll := field d 8 0 16, postRoll := field d 10 0 16, lineMask := field d 12 0 4
    mask := field d 16 0 128 }

/-- Bad offsets of STAGE_PORT: fields of the other direction must be 0 (R335). -/
def badPort (d : List Byte) : List Nat :=
  if bitAt d 5 0 then nonZero [anyF 5 6 1, anyF 16 0 128] d else nonZero [anyF 7 0 8, anyF 12 0 4] d

/-- The fields of STAGE_FOLLOW's buffer but for members, watch taps and stations (R336, R198). -/
def followFields : List FSpec :=
  [anyF 0 0 4, anyF 1 0 5, rangeF 2 0 8 0 4, anyF 3 0 8, anyF 4 0 32, anyF 8 0 16, rangeF 10 0 16 0 2500, rangeF 12 0 8 2 22, rangeF 13 0 2 0 2,
   rangeF 14 0 8 30 90, rangeF 15 0 8 1 20, rangeF 16 0 8 1 20, rangeF 17 0 8 1 20, rangeF 18 0 8 1 60, rangeF 19 0 8 1 60, rangeF 20 0 16 0 600,
   rangeF 22 0 8 1 60, rangeF 23 0 8 3 20, rangeF 24 0 16 10 600, rangeF 26 0 8 10 250, rangeF 27 0 8 10 250, rangeF 28 0 16 0 8000,
   rangeF 30 0 16 0 8000, rangeF 32 0 16 0 8000, signF 34 0 16 (-4000) 0, rangeF 36 0 16 0 3000, rangeF 38 0 4 0 12, rangeF 39 0 4 0 12,
   anyF 40 0 40]
  ++ ((List.range 4).flatMap fun i => [anyF (52 + 8 * i) 0 16, anyF (54 + 8 * i) 0 16, rangeF (56 + 8 * i) 0 8 0 7, anyF (57 + 8 * i) 0 3, anyF (58 + 8 * i) 0 16])
  ++ ((List.range 12).map fun i => anyF (84 + 2 * i) 0 16)
  ++ [anyF 108 0 32, rangeF 112 0 3 0 4, anyF 116 0 32]
  ++ (List.range 12).flatMap fun k => [anyF (120 + 12 * k) 0 32, rangeF (124 + 12 * k) 0 3 0 4, anyF (124 + 12 * k) 3 1, anyF (128 + 12 * k) 0 32]

/-- A member of the buffer (R336). -/
def FollowMember.ofBytes (b : List Byte) : FollowMember :=
  { lane := if bitAt b 5 0 then some (field b 0 0 16) else none, engine := if bitAt b 5 1 then some (field b 2 0 16) else none, position := field b 4 0 8
    context := if bitAt b 5 2 then some (field b 6 0 16) else none }

/-- A station of the buffer (R336). -/
def FollowStation.ofBytes (b : List Byte) : FollowStation :=
  { freq := field b 0 0 32, sigType := field b 4 0 3, trusted := bitAt b 4 3, ident := field b 8 0 32 }

/-- Bad offsets of STAGE_FOLLOW beyond its own fields: parts of a member that are not present, and what lies beyond the counts, must be 0; an engine or a context needs its lane (R336, R198). -/
def badFollow (d buf : List Byte) : List Nat :=
  if bufLen d != 264 then [52] else
  let w := field buf 38 0 4
  let n := field buf 39 0 4
  inBuffer 0 (badFields followFields 0 264 buf
    ++ ((List.range 4).flatMap fun i =>
        let a := 52 + 8 * i
        (if bitAt buf (a + 5) 0 then [] else nonZero [anyF a 0 16, anyF (a + 5) 1 2] buf)
        ++ (if bitAt buf (a + 5) 1 then [] else nonZero [anyF (a + 2) 0 16, anyF (a + 4) 0 8] buf)
        ++ (if bitAt buf (a + 5) 2 then [] else nonZero [anyF (a + 6) 0 16] buf))
    ++ nonZero (((List.range 12).filter fun i => decide (w ≤ i)).map fun i => anyF (84 + 2 * i) 0 16) buf
    ++ nonZero (((List.range 12).filter fun k => decide (n ≤ k)).map fun k => anyF (120 + 12 * k) 0 96) buf)

/-- A list without the empty members at its end. -/
def trimMembers (ms : List FollowMember) : List FollowMember := (ms.reverse.dropWhile fun m => m == {}).reverse

/-- The follow-set entry of the buffer (R336). -/
def FollowEntry.ofBytes (b : List Byte) : FollowEntry :=
  { enable := bitAt b 0 0, linkSoft := bitAt b 0 1, allowUnaligned := bitAt b 0 2, equalPower := bitAt b 0 3, autoSources := field b 1 0 5
    refType := field b 2 0 8, pref := field b 3 0 8, refId := field b 4 0 32, piMask := field b 8 0 16, latency := field b 10 0 16
    alignPages := field b 12 0 8, corrWindow := field b 13 0 2, corrMin := field b 14 0 8, margin := field b 15 0 8, hysteresis := field b 16 0 8
    badHold := field b 17 0 8, prefHold := field b 18 0 8, betterHold := field b 19 0 8, minInterval := field b 20 0 16, standbyMin := field b 22 0 8
    candDwell := field b 23 0 8, verifyAge := field b 24 0 16, fade := field b 26 0 8, fadeFast := field b 27 0 8, fmLevelMin := field b 28 0 16
    amLevelMin := field b 30 0 16, digLevelMin := field b 32 0 16, mpRef := sfield b 34 0 16, merMin := field b 36 0 16
    filters := (List.range 5).map fun i => field b (40 + i) 0 8
    members := trimMembers ((List.range 4).map fun i => FollowMember.ofBytes (part b (52 + 8 * i) 8))
    watches := (List.range (field b 38 0 4)).map fun i => field b (84 + 2 * i) 0 16
    initial := FollowStation.ofBytes (part b 108 12)
    statics := (List.range (field b 39 0 4)).map fun k => FollowStation.ofBytes (part b (120 + 12 * k) 12) }

/-- The filters of STAGE_BANK's buffer: filter number, offset and length of each, as far as the lengths are odd and from 1 to 127 (R337). -/
def bankWalk (buf : List Byte) : List Nat → Nat → List (Nat × Nat × Nat)
  | [], _ => []
  | f :: rest, a =>
    let l := field buf a 0 16
    (f, a, l) :: if l % 2 = 1 && l ≤ 127 then bankWalk buf rest (a + 4 + 2 * (l + 1)) else []

/-- The filters that a descriptor and its buffer spell. -/
def bankFilters (d buf : List Byte) : List (Nat × Nat × Nat) := bankWalk buf (maskList 32 (field d 6 0 32)) 0

/-- Bad offsets of STAGE_BANK beyond its own fields (R337). -/
def badBank (d buf : List Byte) : List Nat :=
  let fs := bankFilters d buf
  let sound := fs.all fun x => x.2.2 % 2 == 1 && decide (x.2.2 ≤ 127)
  let need := fs.foldl (fun acc x => acc + 4 + 2 * (x.2.2 + 1)) 0
  if field d 6 0 32 = 0 then []
  else badIf (sound && bufLen d != need) 52
    ++ fs.flatMap fun x => inBuffer x.2.1
        (badIf (x.2.2 % 2 == 0 || 127 < x.2.2) 0 ++ nonZero [anyF 2 0 16] (part buf x.2.1 4)
          ++ if x.2.2 % 2 == 0 || 127 < x.2.2 then [] else
             ((List.range ((x.2.2 + 1) / 2)).filter fun i => FSpec.bad (part buf (x.2.1 + 4 + 4 * i) 4) (signF 0 0 32 (-131072) 131072)).map fun i => 4 + 4 * i)

/-- A filter of the buffer: its coefficients from the outermost tap to the centre (R337). -/
def filterAt (buf : List Byte) (a l : Nat) : Filter := ⟨(List.range ((l + 1) / 2)).map fun i => sfield buf (a + 4 + 4 * i) 0 19⟩

/-! ### The first bad field -/

/-- A table frequency of R341: 0.1 MHz, or a multiple of 5 MHz up to 240 MHz. -/
def isTablePoint (f : Nat) : Bool := f == 100000 || (f % 5000000 == 0 && decide (0 < f) && decide (f ≤ 240000000))

/-- Bad offsets of SYSCAL_STEP: TARGET, VALUE_A and VALUE_B as the step takes them (12 R349, R351). -/
def badSyscal (d : List Byte) : List Nat :=
  let a := field d 8 0 32
  let b := sfield d 12 0 32
  let level := fun (lo : Int) => badIf (!(decide (lo ≤ b) && decide (b ≤ 1000))) 12
  match field d 4 0 8 with
  | 1 => badIf (!isTablePoint a) 8 ++ level (-6000)
  | 2 | 3 | 4 => badIf (!isTablePoint a) 8 ++ level (-4000)
  | 5 => level (-4000)
  | 6 => badIf (field d 5 0 8 != 0xFF) 5 ++ badIf (!(decide (200000000 ≤ a) && decide (a ≤ 240000000))) 8 ++ level (-4000)
  | 7 => badIf (field d 5 5 3 != 0) 5 ++ badIf (a != 0) 8 ++ badIf (b != 0) 12
  | 8 => badIf (field d 5 5 3 != 0) 5 ++ badIf (!(decide (2250000 ≤ a) && decide (a ≤ 2500000))) 8 ++ badIf (b != 0) 12
  | _ => []

/-- Bad offsets that a command's own rules add to its field table, from the descriptor and its buffer alone. -/
def Cmd.badOwn (c : Cmd) (d buf : List Byte) : List Nat :=
  match c with
  | .stageLane => badLane d
  | .stageCluster => badCluster d buf
  | .stageEngine => badEngine d
  | .stageSlot => badSlot d
  | .stagePort => badPort d
  | .stageFollow => badFollow d buf
  | .stageBank => badBank d buf
  | .stagePlan => badPlan d buf
  | .stageCopy => if field d 4 0 3 = 7 then badIf (field d 6 3 5 != 0 || field d 7 3 5 != 0) 6 ++ badIf (field d 9 0 8 != 0) 8 else []
  | .unitRetire | .unitRestore => badIf (field d 4 0 8 == 12) 4
  | .calStart => badIf (field d 4 0 8 != 0 && field d 4 0 8 != 4) 4
  | .syscalStep => badSyscal d
  | .monInject => badIf (bitAt d 7 0 && !([20, 28, 29, 30, 31].contains (field d 5 0 5))) 7
  | _ => []

/-- LOCAL and SUB of a unit lie within what R339 gives its TYPE. -/
def unitRange : Nat → Nat × Nat
  | 0 => (32, 1) | 1 => (4, 1) | 2 => (4, 1) | 3 => (16, 1) | 4 => (1, 1) | 5 => (2, 1) | 6 => (2, 9) | 7 => (4, 1) | 8 => (48, 1) | 9 => (64, 1)
  | 10 => (64, 1) | 11 => (2, 8)
  | _ => (1, 3)

/-- Bad offsets of LOCAL and SUB (R339). -/
def badUnit (d : List Byte) : List Nat :=
  let r := unitRange (field d 4 0 8)
  badIf (decide (r.1 ≤ field d 6 0 16)) 6 ++ badIf (decide (r.2 ≤ field d 8 0 8)) 8

/-- Every bad offset of a descriptor and its buffer (R14, R312 to R315). -/
def Cmd.badOffsets (c : Cmd) (d buf : List Byte) : List Nat :=
  badIf (field d 1 1 7 != 0) 1 ++ badFields c.fields 4 40 d ++ badBuffer (c.bufUse d) d ++ c.badOwn d buf
  ++ match c with
     | .faultClear | .unitRetire | .unitRestore => badUnit d
     | _ => []

end Sys2Proof.Machine
end

