-- ==== Sys2Proof/Machine/Cmds.lean ====
section
/-!
DEFINITION. How a command runs (11 R312 to R319): the descriptor at the front of its ring or mailbox, the checks in their order, its buffers, its completion.
-/
namespace Sys2Proof.Machine

/-! ### The descriptor that begins -/

/-- The descriptor that a source has ready to begin: the oldest fetched one of a ring none of whose commands is unfinished, or the mailbox's after GO (10 R287, 16 R423). -/
def State.ready (s : State) : CmdSrc → Option Fetched
  | .ring r =>
    let g := s.link.rings.get r
    if s.ringsRun && isCommandRing r && g.executing.isNone && !g.cplDue && !g.fenced && !g.err then g.fetched.head? else none
  | .mailbox =>
    if s.mode.mode != .off && s.mode.mode != .boot then s.mb.mboxCmd else none

/-- The descriptor has begun. -/
def takeFront (src : CmdSrc) (s : State) : State :=
  match src with
  | .ring r => s.setRing r fun g => { g with fetched := g.fetched.drop 1 }
  | .mailbox => s.setMb fun m => { m with mboxCmd := none }

/-- A begun command completes. -/
def finish (src : CmdSrc) (f : Fetched) (st : Status) (result : Nat) (s : State) : State := complete src f.desc f.index st result s

/-- A begun command waits. -/
def await (src : CmdSrc) (f : Fetched) (w : Wait) (s : State) : State := waitFor src f.desc f.index w s

/-! ### Buffers -/

/-- The input buffer's bytes as they were read; `none` where its read failed twice (R313). -/
def inputBytes (d : List Byte) (buf : Option (List Byte)) : List Byte := padTo (bufLen d) (buf.getD [])

/-- The input buffer failed its check value or its read (R313). -/
def inputFails (c : Cmd) (d : List Byte) (buf : Option (List Byte)) : Bool :=
  decide (c.bufUse d = .input) && bufSound d && (match buf with
    | some b => (crc32c (padTo (bufLen d) b)).toNat != bufCrc d
    | none => true)

/-- RESULT of a command with an output buffer: words written and their CRC-32C (R314). -/
def outputResult (bytes : List Byte) : Nat := bytes.length / 4 + (crc32c bytes).toNat * 65536

/-- A command writes its output, at most BUF_LEN bytes, and completes (R314); the mailbox's output goes to MBOX_OUT (16 R421). -/
def finishOutput (src : CmdSrc) (f : Fetched) (bytes : List Byte) (s : State) : State :=
  let out := bytes.take (bufLen f.desc)
  let s := match src with
    | .ring _ => send (.buffer (bufAddr f.desc) out) s
    | .mailbox => s.setMb fun m => { m with mboxOut := out ++ m.mboxOut.drop out.length }
  finish src f .ok (outputResult out) s

/-! ### Acceptance by mode -/

/-- The modes in which a command is accepted (R317). COMMIT with DRY_RUN is accepted wherever staging is (notes/assumptions/32.md). -/
def Cmd.accepted (c : Cmd) (d : List Byte) (m : OpMode) : Bool :=
  let staging := m.receiving || m = .idle || m = .watch || m = .systemCal
  match c with
  | .nop | .identify | .faultQuery | .logRead => m != .off && m != .boot
  | .modeSet => m != .off && m != .boot && m != .halted
  | .attest | .keyInfo => staging || m = .recovery || m = .update
  | .timeSet | .realign | .stageLane | .stageCluster | .stageEngine | .stageSlot | .stagePort | .stageFollow | .stageBank | .stagePlan
  | .stageCopy | .discardStage | .calQuery | .monInject | .monRead => staging
  | .commit => m.receiving || (bitAt d 10 0 && staging)
  | .portStart | .portStop | .captureStart | .captureStop => m.receiving
  | .calStart => m = .run || m = .runDegraded || m = .systemCal || m = .diagnostic
  | .calStore => m.receiving || m = .idle || m = .systemCal
  | .syscalStep => m = .systemCal
  | .faultClear | .unitRetire | .unitRestore => m.receiving || m = .idle
  | .hallmarkConfig => m.reception || m = .idle || m = .watch
  | .updateBegin => m = .recovery || m = .idle
  | .updateChunk | .updateFinish => m = .update

/-- The commands that the mailbox takes (16 R421). -/
def Cmd.mailbox : Cmd → Bool
  | .nop | .identify | .faultQuery | .logRead | .modeSet | .monInject | .monRead | .attest => true
  | _ => false

/-! ### Ticks -/

/-- The first tick at least 2 above the present one (R323). -/
def State.nextPossible (s : State) : Nat := tickOf s.now + 2

/-- A named tick lies from "next possible" to 60,000 above it; 0 is "next possible" (R323). -/
def State.tickOk (s : State) (t : Nat) : Bool := t == 0 || (decide (s.nextPossible ≤ t) && decide (t ≤ s.nextPossible + 60000))

/-- The tick that a field asks for. -/
def State.tickOf0 (s : State) (t : Nat) : Nat := if t = 0 then s.nextPossible else t

/-! ### Checks -/

/-- Items of CAL_START and CAL_QUERY: how many there are of each class on a part of `n` dies (12 R354): by input, input, input, converter, die, converter. -/
def calItemCount (n : Nat) : Nat → Nat
  | 3 | 5 => 2 * n
  | _ => n

/-- Bad offsets that depend on the state: ticks and PPS captures (R323, R338). -/
def Cmd.badState (c : Cmd) (d : List Byte) (s : State) : List Nat :=
  match c with
  | .commit => badIf (!bitAt d 10 0 && !s.tickOk (field d 4 0 48)) 4
  | .timeSet =>
    let r := field d 4 0 64
    badIf (!bitAt d 24 0 && !s.time.captures.any fun c => decide (c ≤ r + 1) && decide (r ≤ c + 1)) 4
  | .syscalStep => badIf (field d 4 0 8 == 2 && !s.cal.antDirect.contains (field d 5 0 8, field d 8 0 32)) 8
  | .updateChunk => (match s.sec.update with
      | some u =>
        let a := field d 4 0 32
        badIf (decide (u.len < a + bufLen d) || u.chunks.any fun c => decide (a < c.1 + c.2.length) && decide (c.1 < a + bufLen d)) 4
      | none => [])
  | .portStart | .portStop => badIf (!s.tickOk (field d 6 0 48)) 6
  | .captureStart => badIf (!s.tickOk (field d 8 0 48)) 8
  | _ => []

/-- A command from the mailbox: BUF_ADDR 0, and an output of at most 512 bytes (16 R421). -/
def badMailbox (u : BufUse) (d : List Byte) : List Nat :=
  match u with
  | .output m => badIf (bufAddr d != 0) 44 ++ badIf (bufLen d % 4 != 0 || 512 < bufLen d || bufLen d < m) 52 ++ badIf (bufCrc d != 0) 56
  | _ => badBuffer .none_ d

/-- The first bad field's offset (R315). -/
def State.firstBad (s : State) (c : Cmd) (src : CmdSrc) (d buf : List Byte) : Option Nat :=
  let own := match src with
    | .ring _ => c.badOffsets d buf
    | .mailbox => badIf (field d 1 1 7 != 0) 1 ++ badFields c.fields 4 40 d ++ badMailbox (c.bufUse d) d ++ c.badOwn d buf
  (own ++ c.badState d s).min?

/-- An index lies beyond the part (00 R8). The DIE of a route entry is judged where a class is given; of one with CLASS 0, which removes the route, it is not: DESIGN CHOICE (notes/assumptions/50.md). -/
def Cmd.beyond (c : Cmd) (d buf : List Byte) (s : State) : Bool :=
  let n := s.dies
  let above := fun (x m : Nat) => decide (m ≤ x)
  match c with
  | .stageLane => above (field d 4 0 16) (32 * n) || (LaneEntry.ofDesc d).branches.any fun b => above b (32 * n)
  | .stageCluster => above (field d 4 0 16) (4 * n) || above (field d 7 0 3) n
  | .stageEngine => above (field d 4 0 16) (4 * n)
  | .stageSlot =>
    let e := SlotEntry.ofDesc d
    above (field d 4 0 16) (64 * n)
    || (match e.source with
        | .none => false
        | .lane => above e.srcIndex (32 * n)
        | .decode => above e.srcIndex (4 * n) || above e.context (48 * n)
        | .follow => above e.srcIndex (16 * n))
    || (e.matchKind != 0 && above e.matchChannel (8 * s.part.inPorts))
  | .stagePort | .portStart | .portStop => above (field d 4 0 3) (if bitAt d 5 0 then s.part.inPorts else n)
  | .stageFollow =>
    let e := FollowEntry.ofBytes buf
    above (field d 4 0 16) (16 * n)
    || e.members.any (fun m => (m.lane.any fun l => above l (32 * n)) || (m.engine.any fun g => above g (4 * n)) || m.context.any fun k => above k (48 * n))
    || e.watches.any fun w => above w (64 * n)
  | .stageBank | .monInject | .monRead => above (field d 4 0 3) n
  | .stagePlan =>
    (planCourses d).any (fun x => above x.2 n)
    || (planRoutes d).any fun a =>
        let e := RouteEntry.ofBytes (part buf a 32)
        e.cls.isSome && (above e.die n || (e.inputPort && above e.die s.part.inPorts))
  | .stageCopy =>
    let a := field d 6 0 16
    let b := field d 8 0 16
    (match field d 4 0 3 with
     | 0 => above a (32 * n) || above b (32 * n)
     | 1 | 2 => above a (4 * n) || above b (4 * n)
     | 3 => above a (64 * n) || above b (64 * n)
     | 4 => above a n || above b n
     | 5 => above a s.part.inPorts || above b s.part.inPorts
     | 6 => above a (16 * n) || above b (16 * n)
     | _ => above (a % 8) n || (maskList 8 b).any fun x => above x n)
  | .captureStart => above (field d 6 0 16) (if field d 5 0 2 = 0 then 4 * n else 32 * n)
  | .calStart | .calQuery => above (field d 6 0 16) (calItemCount n (field d 4 0 8))
  | .syscalStep => (match field d 4 0 8 with
      | 6 => false
      | 7 | 8 => above (field d 5 0 3) n
      | _ => above (field d 5 0 8) n)
  | .faultQuery => field d 4 0 8 == 1 && above (field d 5 0 3) n
  | .faultClear | .unitRetire | .unitRestore => above (field d 5 0 3) n
  | _ => false

/-- The unit that FAULT_CLEAR, UNIT_RETIRE and UNIT_RESTORE name (R339). -/
def unitOf (d : List Byte) : UnitRef := ⟨(UnitKind.ofType (field d 4 0 8)).getD .clockLoop, field d 5 0 3, field d 6 0 16, field d 8 0 8⟩

/-- The dies of the units that a command names (01 R36). -/
def Cmd.diesNamed (c : Cmd) (d buf : List Byte) : List Nat :=
  match c with
  | .stageLane => laneDie (field d 4 0 16) :: (LaneEntry.ofDesc d).branches.map laneDie
  | .stageCluster => [clusterDie (field d 4 0 16)]
  | .stageEngine => [engineDie (field d 4 0 16)]
  | .stageSlot =>
    let e := SlotEntry.ofDesc d
    slotDie (field d 4 0 16) :: (match e.source with
      | .none => []
      | .lane => [laneDie e.srcIndex]
      | .decode => [engineDie e.srcIndex, contextDie e.context]
      | .follow => [followDie e.srcIndex])
  | .stagePort | .portStart | .portStop | .stageBank | .monInject | .monRead => [field d 4 0 3]
  | .stageFollow =>
    let e := FollowEntry.ofBytes buf
    followDie (field d 4 0 16) :: e.lanes.map laneDie ++ (e.members.filterMap (·.engine)).map engineDie
      ++ (e.members.filterMap (·.context)).map contextDie ++ e.watches.map watchDie
  | .stageCopy =>
    let ab := [field d 6 0 16, field d 8 0 16]
    (match field d 4 0 3 with
     | 0 => ab.map laneDie
     | 1 => ab.map clusterDie
     | 2 => ab.map engineDie
     | 3 => ab.map slotDie
     | 4 | 5 => ab
     | 6 => ab.map followDie
     | _ => field d 6 0 3 :: maskList 8 (field d 8 0 8))
  | .captureStart => [if field d 5 0 2 = 0 then clusterDie (field d 6 0 16) else laneDie (field d 6 0 16)]
  | .faultClear | .unitRetire | .unitRestore => [field d 5 0 3]
  | .calStart | .calQuery => (match field d 4 0 8 with
      | 3 | 5 => [field d 6 0 16 / 2]
      | 4 => [field d 6 0 16]
      | _ => [])
  | .syscalStep => (match field d 4 0 8 with
      | 6 => []
      | 7 | 8 => [field d 5 0 3]
      | _ => [field d 5 0 8])
  | _ => []

/-- A named unit is retired (R315): a lane that its cluster's spare does not carry, a band tap that the audit tap does not carry, an engine index by the engine behind it (06 R168), a watch tap, a slot, a decode context (08 R248), a converter, a unit to be retired. FAULT_CLEAR and UNIT_RESTORE are for retired units. -/
def Cmd.namesRetired (c : Cmd) (d buf : List Byte) (s : State) : Bool :=
  let engine := fun (e : Nat) => s.retired (engineRef (engineDie e) (s.physEngine e))
  let bandTap := fun (k : Nat) => s.retired (bandTapRef k) && s.nv.auditCarries.get (clusterDie k) != some (bandTapRef k)
  let context := fun (k : Nat) => s.retired (contextRef k)
  match c with
  | .stageLane => s.laneDead (field d 4 0 16) || (LaneEntry.ofDesc d).branches.any s.laneDead
  | .stageCluster => bandTap (field d 4 0 16) || (clusterTaps d).any fun x => s.retired (watchRef (field d 4 0 16 * 16 + x.2))
  | .stageEngine => engine (field d 4 0 16) || (EngineEntry.ofDesc d).feeds.any fun x => x.any fun l => s.laneDead (engineDie (field d 4 0 16) * 32 + l)
  | .stageSlot =>
    let e := SlotEntry.ofDesc d
    s.retired (slotRef (field d 4 0 16)) || (match e.source with
      | .none | .follow => false
      | .lane => s.laneDead e.srcIndex
      | .decode => engine e.srcIndex || context e.context)
  | .stageFollow =>
    let e := FollowEntry.ofBytes buf
    e.lanes.any s.laneDead || (e.members.filterMap (·.engine)).any engine || (e.members.filterMap (·.context)).any context
      || e.watches.any fun w => s.retired (watchRef w)
  | .stageCopy => [field d 6 0 16, field d 8 0 16].any fun i => (match field d 4 0 3 with
      | 0 => s.laneDead i
      | 1 => bandTap i
      | 2 => engine i
      | 3 => s.retired (slotRef i)
      | _ => false)
  | .captureStart => if field d 5 0 2 = 0 then bandTap (field d 6 0 16) else s.laneDead (field d 6 0 16)
  | .calQuery => (field d 4 0 8 == 3 || field d 4 0 8 == 5) && s.retired (convRef (field d 6 0 16))
  | .unitRetire => s.retired (unitOf d)
  | _ => false

/-- The status that the checks of R315 give before the command's own conditions, and its RESULT. -/
def State.refuse (s : State) (c : Cmd) (src : CmdSrc) (f : Fetched) (buf : Option (List Byte)) : Option (Status × Nat) :=
  let d := f.desc
  let b := inputBytes d buf
  if !f.good || (match src with
      | .ring _ => inputFails c d buf
      | .mailbox => false) then some (.checkFail, 0)
  else if src = .mailbox && !c.mailbox then some (.denied, 0)
  else match s.firstBad c src d b with
    | some off => some (.badParam, off)
    | none =>
      if c.beyond d b s then some (.notInConfig, 0)
      else if !c.accepted d s.mode.mode then some (.stateRefused, s.mode.mode.code)
      else if (c.diesNamed d b).any s.integ.fenced.contains || c.namesRetired d b s then some (.unitRetired, 0)
      else none

/-- A command begins: the front descriptor of `src`, if it is of this command, is checked and then does `own` (R315, R317). -/
def runCmd (c : Cmd) (src : CmdSrc) (buf : Option (List Byte)) (own : Fetched → State → State) (s : State) : Res :=
  match s.ready src with
  | none => .next s
  | some f =>
    onlyIf (decide (Cmd.ofOpcode (field f.desc 0 0 8) = some c)) s
      (match s.refuse c src f buf with
       | some (st, r) => finish src f st r (takeFront src s)
       | none => own f (takeFront src s))

end Sys2Proof.Machine
end

