-- ==== Sys2Proof/Machine/Validate.lean ====
section
/-!
DEFINITION. Validation at COMMIT (11 R325): one check per reason over the snapshot, each giving the die and the entry of its breaches. A fenced die's entries are ignored (01 R36).
-/
namespace Sys2Proof.Machine

/-- A breach: the die or 0xFF, the entry's index or 0xFFFF (R325). -/
abbrev Breach := Nat × Nat
/-- The index of a breach that lies in a total (R325). -/
def noEntry : Nat := 0xFFFF

/-- The keys of the entries of dies that are not fenced, `per` a die. -/
def State.liveKeys (s : State) (per : Nat) : List Nat := (List.range (s.dies * per)).filter fun i => s.dieUp (i / per)

/-- The breach of an entry, `per` a die. -/
def entryBreach (per : Nat) (xs : List Nat) : List Breach := xs.map fun i => (i / per, i)

/-! ### Leaders and ring loads (01 R18, R21 to R25) -/

/-- A converter that can lead as staged: not failed, not retired, on a die that is not fenced (01 R25). -/
def State.convStaged (s : State) (k : Nat) : Bool := s.convUsable k && !s.retired (convRef k)

/-- The die of a course's leader as staged: its preferred converter, or the other (01 R25, R471). -/
def ConfigSet.stagedLeader (c : ConfigSet) (s : State) (j : Nat) : Option Nat :=
  let e := c.courses.get j
  let p := if e.preferB then 1 else 0
  if e.mode = .off then none
  else if s.convStaged (s.convOf j p) then some (s.convOf j p / 2)
  else if s.convStaged (s.convOf j (1 - p)) then some (s.convOf j (1 - p) / 2)
  else none

/-- The leader's die after a course's leadership moves to its other converter, where it moves or can move (01 R25). -/
def ConfigSet.movedLeader (c : ConfigSet) (s : State) (j : Nat) : Option Nat :=
  let e := c.courses.get j
  let p := if e.preferB then 1 else 0
  let moves := decide (e.mode = .duplex) || (match (s.front.courses.get j).leader with
    | some x => x != p
    | none => false)
  if e.mode != .off && moves && s.convStaged (s.convOf j p) && s.convStaged (s.convOf j (1 - p)) then some (s.convOf j (1 - p) / 2) else none

/-- The leader dies as staged, then with one course's leadership moved at a time. -/
def ConfigSet.leaderCases (c : ConfigSet) (s : State) : List (List (Option Nat)) :=
  let base := (List.range s.dies).map (c.stagedLeader s)
  base :: (List.range s.dies).filterMap fun j => (c.movedLeader s j).map fun d => base.set j (some d)

/-- The segment streams: destination die, course, units of R22. -/
def ConfigSet.streams (c : ConfigSet) (s : State) : List (Nat × Nat × Nat) :=
  (s.liveKeys 4).filterMap fun k =>
    let e := c.clusters.get k
    if e.btOn then some (clusterDie k, e.course, 2 ^ (5 - e.segCode)) else none

/-- The links that a lost die takes with it: its own and those into it (01 R25). -/
def linksOfDie (n d : Nat) : List Nat := [d * 2, d * 2 + 1, (d + n - 1) % n * 2, (d + 1) % n * 2 + 1]

/-- Units on every link in one case: leaders, dead links, a lost die whose traffic is removed (01 R25). -/
def linkLoads (n : Nat) (streams : List (Nat × Nat × Nat)) (lead : List (Option Nat)) (dead : List Nat) (lost : Option Nat) : List Nat :=
  let used := streams.flatMap fun x =>
    match lead.getD x.2.1 none with
    | some a => if a = x.1 || lost == some a || lost == some x.1 then [] else (ringPath n a x.1 dead).map fun l => (l, x.2.2)
    | none => []
  (List.range (2 * n)).map fun l => used.foldl (fun acc y => if y.1 = l then acc + y.2 else acc) 0

/-- RING_LOAD: every load of every case within 630 units: the intact ring, one failed link, one lost die, one moved leadership (01 R25). -/
def ConfigSet.ringLoad (c : ConfigSet) (s : State) : List Breach :=
  let n := s.dies
  let xs := c.streams s
  let base := (List.range n).map (c.stagedLeader s)
  let cases := (c.leaderCases s).map (fun l => linkLoads n xs l [] none)
    ++ (List.range (2 * n)).map (fun l => linkLoads n xs base [l] none)
    ++ (List.range n).map fun d => linkLoads n xs base (linksOfDie n d) (some d)
  if xs.isEmpty then [] else
  cases.flatMap fun loads => ((List.range (2 * n)).filter fun l => decide (630 < loads.getD l 0)).map fun l => (l / 2, noEntry)

/-- Export taps available on a die: those not retired, and the audit band tap while it carries an export stream (01 R18). -/
def State.exportsAvailable (s : State) (d : Nat) : Nat :=
  ((List.range 16).filter fun i => !s.retired (exportRef (d * 16 + i))).length
  + (match s.nv.auditCarries.get d with
     | some u => b2n (decide (u.kind = .exportTap))
     | none => 0)

/-- EXPORT_TAPS (01 R18). -/
def ConfigSet.exportTaps (c : ConfigSet) (s : State) : List Breach :=
  let xs := c.streams s
  (c.leaderCases s).flatMap fun lead => ((List.range s.dies).filter fun d => s.dieUp d
    && decide (s.exportsAvailable d < (xs.filter fun x => lead.getD x.2.1 none == some d && x.1 != d).length)).map fun d => (d, noEntry)

/-! ### Delay pool (01 R16, 04 R128, 07 R212, 08 R242) -/

/-- Pool pages of a slot's match histories (08 R242). -/
def SlotEntry.matchPages (e : SlotEntry) : Nat :=
  if e.source = .none || e.matchKind = 0 then 0
  else ((e.matchRange + 1 + 2 * (4 * 2 ^ e.matchWindow)) * 16000 + 65535) / 65536

/-- Pool pages that a die's entries take: coarse delays, alignment buffers, match histories. -/
def ConfigSet.poolPages (c : ConfigSet) (d : Nat) : Nat :=
  ((List.range 32).foldl (fun acc i => acc + if (c.laneRate (d * 32 + i)).isSome then (4 * (c.lanes.get (d * 32 + i)).coarseDelay + 65535) / 65536 else 0) 0)
  + ((List.range 16).foldl (fun acc i => acc + if (c.follows.get (d * 16 + i)).enable then (c.follows.get (d * 16 + i)).alignPages else 0) 0)
  + (List.range 64).foldl (fun acc i => acc + (c.slots.get (d * 64 + i)).matchPages) 0

/-- SRAM: a coarse delay within 2.5 × Fw, and the die's 192 pages (01 R16, 04 R128). -/
def ConfigSet.sram (c : ConfigSet) (s : State) : List Breach :=
  entryBreach 32 ((s.liveKeys 32).filter fun l => match c.laneRate l with
    | some rc => decide (5 * rateHz rc < 2 * (c.lanes.get l).coarseDelay)
    | none => false)
  ++ ((List.range s.dies).filter fun d => s.dieUp d && decide (192 < c.poolPages d)).map fun d => (d, noEntry)

/-! ### Band taps, lanes, branches, engines -/

/-- BANDTAP_RANGE: 0.38 × Fseg ≤ f_bt ≤ fs/2 − 0.38 × Fseg (04 R108). -/
def ConfigSet.bandTapRange (c : ConfigSet) (s : State) : List Breach :=
  entryBreach 4 ((s.liveKeys 4).filter fun k =>
    let e := c.clusters.get k
    let fs := planKsps c.plan * 1000
    let n := 2 ^ segHalvings e.segCode
    e.btOn && !(decide (38 * fs ≤ e.fBt * 100 * n) && decide (e.fBt * 100 * n + 38 * fs ≤ 50 * fs * n)))

/-- LANE_REACH: every lane and watch tap reaches its frequencies through its band tap (04 R116). -/
def ConfigSet.laneReach (c : ConfigSet) (s : State) : List Breach :=
  entryBreach 32 ((s.liveKeys 32).filter fun l =>
    let e := c.lanes.get l
    e.mode != .off && !(match c.laneRate l with
      | some rc => c.reaches (laneCluster l) e.fLane rc
      | none => (c.clusters.get (laneCluster l)).btOn))
  ++ entryBreach 64 ((s.liveKeys 64).filter fun w =>
    let e := c.watches.get w
    let rc := if e.mode = .fm then 2 else e.rate
    e.mode != .off && !((c.clusters.get (watchCluster w)).btOn && e.freqs.all fun f => c.reaches (watchCluster w) f rc))

/-- A branch meets the conditions of R146 beside those on the other branches: same die, other cluster and course, BRANCH mode, same frequency and filter, no combining lane before this one names it. -/
def ConfigSet.branchOk (c : ConfigSet) (l b : Nat) : Bool :=
  let e := c.lanes.get l
  let x := c.lanes.get b
  laneDie b == laneDie l && laneCluster b != laneCluster l && (c.clusters.get (laneCluster b)).course != (c.clusters.get (laneCluster l)).course
  && decide (x.mode = .branch) && x.fLane == e.fLane && x.bank == e.bank && x.filter == e.filter && c.combinerOf b == some l

/-- No two of a list are equal. -/
def distinct (xs : List Nat) : Bool := xs.eraseDups.length == xs.length

/-- BRANCH (05 R146). -/
def ConfigSet.branchRules (c : ConfigSet) (s : State) : List Breach :=
  entryBreach 32 ((s.liveKeys 32).filter fun l =>
    let bs := (c.lanes.get l).branches
    !(bs.all (c.branchOk l) && distinct (bs.map laneCluster) && distinct (bs.map fun b => (c.clusters.get (laneCluster b)).course)))

/-- Capacity units of an engine entry (06 R166). -/
def EngineEntry.units (e : EngineEntry) : Nat :=
  match e.cls with
  | .off => 0
  | .dab => 8
  | .drm => e.positions.foldl (fun acc i => acc + if e.drmModes.getD i 0 = 5 then 2 else 1) 0

/-- ENGINE, except a retired engine: feeds in OFDM_FEED mode that no position before names, at most 8 units (06 R168). -/
def ConfigSet.engineRules (c : ConfigSet) (s : State) : List Breach :=
  entryBreach 4 ((s.liveKeys 4).filter fun g =>
    let e := c.engines.get g
    decide (8 < e.units) || e.positions.any fun i => match e.feeds.getD i none with
      | some l =>
        let lane := engineDie g * 32 + l
        !(decide ((c.lanes.get lane).mode = .ofdmFeed) && c.feedOf lane == some (g, i))
      | none => false)

/-- WATCH: mode FM runs at 512 kS/s; a watch tap of a follow set takes no survey (05 R158). -/
def ConfigSet.watchRules (c : ConfigSet) (s : State) : List Breach :=
  let taps := c.followTaps
  entryBreach 64 ((s.liveKeys 64).filter fun w =>
    let e := c.watches.get w
    (decide (e.mode = .fm) && e.rateHigh) || (decide (e.mode = .survey) && taps.contains w))

/-! ### Follow sets and slots -/

/-- What an enabled follow set names: kind (0 lane, 1 engine position, 2 context, 3 watch tap) and index. -/
def FollowEntry.named (e : FollowEntry) : List (Nat × Nat) :=
  e.lanes.map (0, ·) ++ e.members.filterMap (fun m => m.engine.map fun g => (1, g * 8 + m.position)) ++ (e.members.filterMap (·.context)).map (2, ·)
  ++ e.watches.map (3, ·)

/-- FOLLOW (07 R197, R199): of the sets that name one thing, the later ones are in breach. -/
def ConfigSet.followRules (c : ConfigSet) (s : State) : List Breach :=
  entryBreach 16 ((s.liveKeys 16).filter fun f =>
    let e := c.follows.get f
    let before := ((List.range f).filter fun k => (c.follows.get k).enable && s.dieUp (followDie k)).flatMap fun k => (c.follows.get k).named
    e.enable && (
      e.named.any before.contains
      || decide (e.lanes.length < 2) || decide (e.fade < e.fadeFast)
      || e.lanes.any (fun l => (c.lanes.get l).mode != .off || !(c.lanes.get l).branches.isEmpty)
      || e.members.any (fun m => match m.engine with
          | some g => ((c.engines.get g).feeds.getD m.position none).isSome || (match m.lane with
              | some l => engineDie g != laneDie l
              | none => true)
          | none => false)
      || e.members.any (fun m => match m.context with
          | some k => contextDie k != followDie f
          | none => false)
      || e.watches.any (fun w => decide ((c.watches.get w).mode = .survey))
      || !e.members.any fun m => match m.lane with
          | some l => c.reaches (laneCluster l) e.initial.freq (sigRate e.initial.sigType)
          | none => false))

/-- The decode contexts that enabled follow sets have. -/
def ConfigSet.contextsOfFollows (c : ConfigSet) : List Nat := c.followContexts

/-- SLOT (08 R225): of the slots that name one context or follow set, the later ones are in breach. -/
def ConfigSet.slotRules (c : ConfigSet) (s : State) : List Breach :=
  let ctx := c.contextsOfFollows
  entryBreach 64 ((s.liveKeys 64).filter fun x =>
    let e := c.slots.get x
    match e.source with
    | .none => false
    | .lane => !((c.lanes.get e.srcIndex).mode.am || (c.lanes.get e.srcIndex).mode.fm)
    | .decode =>
      let g := c.engines.get e.srcIndex
      let span := match g.cls with
        | .dab => 32
        | .drm => 62
        | .off => 0
      contextDie e.context != slotDie x || ctx.contains e.context || !g.positions.contains e.srcPos || !s.dieUp (engineDie e.srcIndex)
      || decide (e.slotDelay < span) || (List.range x).any fun y => decide ((c.slots.get y).source = .decode) && (c.slots.get y).context == e.context
    | .follow =>
      !(c.follows.get e.srcIndex).enable || followDie e.srcIndex != slotDie x
      || (List.range x).any fun y => decide ((c.slots.get y).source = .follow) && (c.slots.get y).srcIndex == e.srcIndex)

/-! ### Ports, routes, staging -/

/-- What may change while a port runs made equal, to compare the rest (09 R257). -/
def PortEntry.fixed (e : PortEntry) : PortEntry := { e with mask := 0, lineMask := 0, preRoll := 0, postRoll := 0, gapSilence := false }

/-- A running port keeps its fixed parameters (09 R257). -/
def PortSt.keeps (x : PortSt) (e : PortEntry) : Bool := x.phase.isStopped || x.entry.fixed == e.fixed

/-- PORT (09 R257, R258). -/
def ConfigSet.portRules (c : ConfigSet) (s : State) : List Breach :=
  entryBreach 1 ((s.liveKeys 1).filter fun d =>
    let o := c.outPorts.get d
    let i := c.inPorts.get d
    decide (16 < (maskList 128 o.mask).length) || !(s.portSt (.out d)).keeps o
    || (s.hasPort (.inp d) && (!(s.portSt (.inp d)).keeps i || o.amclkNom != i.amclkNom || o.autoRate != i.autoRate || o.glitchWidth != i.glitchWidth)))

/-- The rings that carry a route of a die that is not fenced. -/
def ConfigSet.routed (c : ConfigSet) (s : State) : List Nat :=
  ((List.range 64).map (· + 32)).filter fun r => (c.routes.get r).cls.isSome && s.dieUp (c.routes.get r).die

/-- Two routes of one class and die name a common source, or are both of a class whose source is the die (10 R293). -/
def RouteEntry.overlaps (a b : RouteEntry) : Bool :=
  a.cls.isSome && a.cls == b.cls && a.die == b.die
  && (match a.cls with
      | some .events | some .hallmark | some .telemetry => true
      | _ => (a.laneMask &&& b.laneMask) + (a.watchMask &&& b.watchMask) + (a.slotMask &&& b.slotMask) + (a.followMask &&& b.followMask)
          + (a.engineMask &&& b.engineMask) + b2n (a.inputPort && b.inputPort) != 0)

/-- ROUTE: a source goes to one ring per class, a capture ring carries no route, hallmark records come from die 0 (10 R293); of two rings the later is in breach. -/
def ConfigSet.routeRules (c : ConfigSet) (s : State) : List Breach :=
  let rs := c.routed s
  (rs.filter fun r =>
    let e := c.routes.get r
    (s.link.captures.get r).isSome || (decide (e.cls = some .hallmark) && e.die != 0) || rs.any fun q => decide (q < r) && e.overlaps (c.routes.get q)).map
    fun r => ((c.routes.get r).die, r)

/-- The die of a capture's source. -/
def Capture.die (x : Capture) : Nat := if x.kind = .bandTap then clusterDie x.source else laneDie x.source

/-- The largest block of a capture stream (10 R295, R303, R310). -/
def ConfigSet.captureBlock (c : ConfigSet) (x : Capture) : Nat :=
  match x.kind with
  | .bandTap => 64 + 25000 + (3250000 + 2 ^ segHalvings (c.clusters.get x.source).segCode - 1) / 2 ^ segHalvings (c.clusters.get x.source).segCode * 4
  | .lane => 64 + 8 * rateBlock ((c.laneRate x.source).getD 0)
  | .mpx => 1600

/-- Bytes of delivery staging that a die's routes and capture streams take (10 R295). -/
def ConfigSet.stagingBytes (c : ConfigSet) (s : State) (caps : List Capture) (d : Nat) : Nat :=
  (((c.routed s).filter fun r => (c.routes.get r).die == d).foldl (fun acc r => acc + 2 * (c.routes.get r).largestBlock) 0)
  + (caps.filter fun x => x.die == d).foldl (fun acc x => acc + 2 * c.captureBlock x) 0

/-- The capture streams. -/
def State.captureList (s : State) : List Capture := ((List.range 64).map (· + 32)).filterMap s.link.captures.get

/-- STAGING: a die's 4 MiB (10 R295). -/
def ConfigSet.stagingRules (c : ConfigSet) (s : State) : List Breach :=
  ((List.range s.dies).filter fun d => s.dieUp d && decide (4194304 < c.stagingBytes s s.captureList d)).map fun d => (d, noEntry)

/-- BUF_SIZE: an enabled ring's buffers hold its largest block (10 R292). -/
def ConfigSet.bufSizes (c : ConfigSet) (s : State) : List Breach :=
  ((c.routed s).filter fun r => (s.link.rings.get r).enable && !c.bufferHolds r (s.link.rings.get r).bufLog2).map fun r => ((c.routes.get r).die, r)

/-- COURSE: the order of the gain fields (03 R93). -/
def ConfigSet.courseRules (c : ConfigSet) (s : State) : List Breach :=
  ((List.range s.dies).filter fun j =>
    let e := c.courses.get j
    !(decide (e.gainMin ≤ e.gainMax) && decide (e.gainMin ≤ e.gain) && decide (e.gain ≤ e.gainMax)
      && decide (e.target ≤ e.attack - 3) && decide (e.release ≤ e.target - 3))).map fun j => (0xFF, j)

/-- RETIRED: an engine index whose physical engine is retired, a retired slot, a slot with a retired context (06 R168, 08 R248). -/
def ConfigSet.retiredRules (c : ConfigSet) (s : State) : List Breach :=
  entryBreach 4 ((s.liveKeys 4).filter fun g => (c.engines.get g).cls != .off && s.retired (engineRef (engineDie g) (s.physEngine g)))
  ++ entryBreach 64 ((s.liveKeys 64).filter fun x =>
    let e := c.slots.get x
    e.source != .none && (s.retired (slotRef x) || (decide (e.source = .decode) && s.retired (contextRef e.context))))

/-! ### The first breach -/

/-- The reasons in the order of their codes, 1 first (R325). The capture limit of 01 R38 is checked at CAPTURE_START alone: a COMMIT that raises a running capture's rate is not held to it: DESIGN CHOICE (notes/assumptions/50.md). -/
def ConfigSet.checks (c : ConfigSet) (s : State) : List (Unit → List Breach) :=
  [fun _ => c.sram s, fun _ => c.exportTaps s, fun _ => c.ringLoad s, fun _ => c.bandTapRange s, fun _ => c.laneReach s, fun _ => c.branchRules s,
   fun _ => c.engineRules s, fun _ => c.watchRules s, fun _ => c.followRules s, fun _ => c.slotRules s, fun _ => c.portRules s,
   fun _ => c.routeRules s, fun _ => c.stagingRules s, fun _ => c.bufSizes s, fun _ => c.courseRules s, fun _ => c.retiredRules s]

/-- The least of a list of breaches: lowest die, then lowest index. -/
def leastBreach (bs : List Breach) : Option Nat := (bs.map fun b => b.1 * 65536 + b.2).min?

/-- RESULT of STAGE_INVALID for the first breach: the reason, the die, the index; none: the set is valid (R325). -/
def ConfigSet.invalid (c : ConfigSet) (s : State) : Option Nat :=
  ((c.checks s).zipIdx).findSome? fun x => (leastBreach (x.1 ())).map fun b => x.2 + 1 + (b / 65536) * 256 + (b % 65536) * 65536

end Sys2Proof.Machine
end

