-- ==== Sys2Proof/Machine/Apply.lean ====
section
/-!
DEFINITION. A configuration set comes into force (01 R36, 11 R326, 17 R439): what each unit does at the tick, by comparing the set with the one that was in force.
-/
namespace Sys2Proof.Machine

/-! ### What follow sets have tuned (07 R200, R222) -/

/-- A COMMIT from entry `a` to `b` restarts the follow set (R222). -/
def FollowEntry.restarts (a b : FollowEntry) : Bool :=
  b.enable && (!a.enable || a.members != b.members || a.refType != b.refType || a.refId != b.refId || a.piMask != b.piMask
    || a.initial != b.initial || a.latency != b.latency || a.alignPages != b.alignPages)

/-- The members and watch taps of a set that goes on keep what the set has tuned, under the new entry's filters (R200). -/
def State.overlayFollow (s : State) (b : FollowEntry) (f : Nat) (c : ConfigSet) : ConfigSet :=
  let x := s.audio.follows.get f
  let c := (b.members.zipIdx).foldl (fun (c : ConfigSet) (m, k) =>
    let y := x.members.getD k {}
    match m.lane with
    | some l =>
      if y.freq = 0 then c else
      let c := { c with lanes := c.lanes.set l (b.laneEntry y.typ y.freq) }
      match m.engine with
      | some g => { c with engines := c.engines.modify g (memberEngine m.position (if sigDigital y.typ then some l else none) y.typ) }
      | none => c
    | none => c) c
  x.measuring.foldl (fun (c : ConfigSet) m => { c with watches := c.watches.set m.1 (s.cfg.active.watches.get m.1) }) c

/-- The set in force once `new` has been committed over `old`: `new` with what the follow sets that go on have tuned; the follow sets of fenced dies are ignored (01 R36). -/
def State.overlay (s : State) (old new : ConfigSet) : ConfigSet :=
  (List.range (s.dies * 16)).foldl (fun c f =>
    let b := new.follows.get f
    if b.enable && s.dieUp (followDie f) && !(old.follows.get f).restarts b then s.overlayFollow b f c else c) (s.liveFollows new)

/-! ### Courses (03 R75, R81, R84, R93, R471) -/

/-- A course switched off: both converters powered down. -/
def stopCourse (j : Nat) (s : State) : State :=
  unpowerConv (s.convOf j 1) (unpowerConv (s.convOf j 0) (s.setCourse j Course.stopped))

/-- A COMMIT names a converter that cannot lead as preferred: COURSE_LEADER reports that the preference was not honoured (R86). -/
def refuseLeader (j p : Nat) (s : State) : State :=
  if s.convUsable (s.convOf j p) then s
  else raise .courseLeader j [.w j, .w (s.convOf j (1 - p)), .w PlannedReason.commit.code, .q s.now, .w 1] s

/-- A course in mode OFF begins: its converters are powered at the tick, its samples are zero until one samples (R84, R471). -/
def startCourse (j : Nat) (b : CourseEntry) (s : State) : State :=
  let p := if b.preferB then 1 else 0
  let kp := s.convOf j p
  let ko := s.convOf j (1 - p)
  let s := s.setCourse j fun c => { c with mode := b.mode, agcOn := b.agcOn, riseAt := s.now, loudAt := s.now }
  let s := if b.agcOn then s else setGain j b.gain s
  if !s.convUsable kp && !s.convUsable ko then loseCourse j s
  else
    let s := refuseLeader j p s
    let s := if s.convUsable kp then powerConv kp s else s
    let s := if s.convUsable ko && (b.mode = .duplex || !s.convUsable kp) then powerConv ko s else s
    s.setCourse j fun c => { c with zeroFrom := some s.now }

/-- The preferred converter of a running course is not its leader: leadership moves as soon as that converter is ready; a fault switch that waits stands (R81, R86). -/
def preferLeader (j p : Nat) (b : CourseEntry) (s : State) : State :=
  let faulty := match (s.front.courses.get j).splice with
    | some (.fault ..) => true
    | _ => false
  if faulty then s
  else if s.convUsable (s.convOf j p) then
    powerConv (s.convOf j p) (s.setCourse j fun c => { c with splice := some (.planned p .commit) })
  else if b.mode = .simplex then unpowerConv (s.convOf j p) s
  else s

/-- A running course takes its new entry: gain, AGC, the other converter powered or not, leadership (R75, R81, R93). -/
def runCourse (b : CourseEntry) (j : Nat) (s : State) : State :=
  let p := if b.preferB then 1 else 0
  let duplex := decide (b.mode = .duplex)
  let s := if duplex then s else endAttribution j s
  let s := s.setCourse j fun c =>
    { c with mode := b.mode, agcOn := b.agcOn, agcAtLimit := c.agcAtLimit && b.agcOn, standbyReady := c.standbyReady && duplex
             contested := c.contested && duplex, lastMask := if duplex then c.lastMask else 0 }
  let s := if b.agcOn then s else setGain j b.gain s
  let c := s.front.courses.get j
  if c.lost then s else
  let s := refuseLeader j p s
  match c.leader with
  | none =>
    let x := s.nextLeader j
    let s := powerConv (s.convOf j x) s
    let other := s.convOf j (1 - x)
    if b.mode = .duplex then (if s.convUsable other then powerConv other s else s) else unpowerConv other s
  | some y =>
    let other := s.convOf j (1 - y)
    let s := if b.mode = .duplex && s.convUsable other then powerConv other s else s
    if y ≠ p then preferLeader j p b s
    else
      let s := s.setCourse j fun c => { c with splice := match c.splice with
        | some (.planned _ .commit) => none
        | x => x }
      let keep := match (s.front.courses.get j).splice with
        | some _ => true
        | none => false
      if b.mode = .simplex && !keep then unpowerConv other s
      else s

/-- Course `j` at the tick. -/
def applyCourse (a b : CourseEntry) (j : Nat) (s : State) : State :=
  match a.mode, b.mode with
  | .off, .off => s
  | _, .off => stopCourse j s
  | .off, _ => startCourse j b s
  | _, _ => runCourse b j s

/-! ### Band taps and chains (04 R107, R120 to R128) -/

/-- A COMMIT changes the centre, segment code or course of a band tap, or assigns it (R120). -/
def bandTapChanges (a b : ClusterEntry) : Bool :=
  b.btOn && (!a.btOn || a.segCode != b.segCode || a.course != b.course || a.fBt != b.fBt)

/-- A band tap takes its entry (R107). -/
def applyBandTap (a b : ClusterEntry) (plan c : Nat) (s : State) : State :=
  let s := s.setBandTap c fun t =>
    if b.btOn then { t with assigned := true, segCode := b.segCode, course := b.course, ncoWord := tuningWord plan b.fBt }
    else { t with assigned := false, segCode := 0, course := 0, ncoWord := 0 }
  { s with taps := { s.taps with segments := s.taps.segments.modify c fun x =>
      if !b.btOn then {} else if bandTapChanges a b then ({ x with active := true }).disturb s.now (.instant s.now true !a.btOn) else x } }

/-- A chain takes a new configuration: a band-tap-level event, a lane-level event, or none of either (R120, R127). -/
def State.newChain (s : State) (c : Nat) (bandEvent laneEvent : Bool) (old new : Chain) : Chain :=
  if new.active && (bandEvent || laneEvent) then s.chainTo c bandEvent old new else new

/-- A coarse delay that grew by Δ at `t` leaves out the Δ grid samples from `t` on (R128). -/
def growDelay (t : Nat) (old new : Chain) : Chain :=
  if old.active && new.active && decide (old.rateClass = new.rateClass) && decide (old.coarseDelay < new.coarseDelay) then
    new.disturb t (.grid ((t * 192 + rateP192 new.rateClass - 1) / rateP192 new.rateClass) (new.coarseDelay - old.coarseDelay))
  else new

/-- A delay step on a chain that goes on (R127, R128). -/
def delayStep (old new : Chain) : Bool :=
  old.active && new.active && (old.phaseDelay != new.phaseDelay || old.coarseDelay != new.coarseDelay)

/-- What a COMMIT to `new` does to a lane: a change of frequency, mode, rate or channel filter (R120, 05 R135). -/
def laneChanges (old new : ConfigSet) (l : Nat) (c0 c1 : Chain) : Bool :=
  let a := old.lanes.get l
  let b := new.lanes.get l
  a.mode != b.mode || a.fLane != b.fLane || c0.active != c1.active || c0.rateClass != c1.rateClass || c0.bank != c1.bank || c0.filter != c1.filter
    || old.filterOf (laneDie l) a.bank a.filter != new.filterOf (laneDie l) b.bank b.filter

/-- A demodulator whose lane is off keeps what is counted since reset. -/
def Demod.off (d : Demod) : Demod := { d.restart 0 with restartAt := none, lastRecord := [] }

/-- A lane takes its entry; its demodulator waits for the first valid sample after an event or a delay step (05 R137). -/
def applyLane (old : ConfigSet) (bandEvent : Bool) (l : Nat) (s : State) : State :=
  let new := s.cfg.active
  let c0 := s.taps.lanes.get l
  let c1 := new.laneChain l c0
  let ev := laneChanges old new l c0 c1
  let c2 := growDelay s.now c0 (s.newChain (laneCluster l) bandEvent ev c0 c1)
  let s := { s with taps := { s.taps with lanes := s.taps.lanes.set l c2 } }
  if !c1.active then (if c0.active then s.setDemod l Demod.off else s)
  else if bandEvent || ev || delayStep c0 c1 then s.setDemod l fun d => { d with restartAt := none }
  else s

/-- A watch tap takes its entry (05 R158, R160). -/
def applyWatch (old : ConfigSet) (bandEvent : Bool) (w : Nat) (s : State) : State :=
  let new := s.cfg.active
  let a := old.watches.get w
  let b := new.watches.get w
  let c0 := s.taps.watches.get w
  let c1 := new.watchChain w c0
  let retune := a.freqs != b.freqs || a.mode != b.mode || !c0.active
  let f := if retune then b.freqs.getD 0 0 else (s.lanes.watches.get w).freq
  let ev := f != (s.lanes.watches.get w).freq || c0.active != c1.active || c0.rateClass != c1.rateClass || c0.bank != c1.bank || c0.filter != c1.filter
    || old.filterOf (watchDie w) a.bank a.filter != new.filterOf (watchDie w) b.bank b.filter
  let s := { s with taps := { s.taps with watches := s.taps.watches.set w (s.newChain (watchCluster w) bandEvent ev c0 c1) } }
  if !c1.active then (if c0.active then setAlert (.ta w) false (setAlert (.pty31 w) false (s.setWatch w fun _ => {})) else s)
  else if retune then s.setWatch w fun x =>
    { x with freq := f, listIndex := 0, preempted := false, dwellStart := ceilTo 1000000 s.now, restartAt := if ev then none else x.restartAt }
  else s

/-- The spare of a cluster follows the position it covers, carries or assays (R125, R126, 05 R161). -/
def followSpare (c : Nat) (s : State) : State :=
  let pos := (s.replacedPos c).getD (s.lanes.spares.get c).position
  let old := s.taps.spares.get c
  let new := s.cfg.active.laneChain (c * 8 + pos) old
  { s with taps := { s.taps with spares := s.taps.spares.set c { new with disturbs := (s.taps.lanes.get (c * 8 + pos)).disturbs } } }

/-- A cluster whose domain goes off loses its state (17 R435). -/
def clearCluster (c : Nat) (s : State) : State :=
  let s := s.setSpare c fun _ => {}
  { s with taps := { s.taps with spares := s.taps.spares.set c {} } }

/-- A cluster at the tick: its band tap, its lanes, its watch taps, its spare. -/
def applyCluster (old : ConfigSet) (c : Nat) (s : State) : State :=
  let a := old.clusters.get c
  let b := s.cfg.active.clusters.get c
  let ev := bandTapChanges a b
  let s := applyBandTap a b s.cfg.active.plan c s
  let s := (List.range 8).foldl (fun acc p => applyLane old ev (c * 8 + p) acc) s
  let s := (List.range 16).foldl (fun acc w => applyWatch old ev (c * 16 + w) acc) s
  goOnCluster c (if !b.btOn && a.btOn then clearCluster c s else followSpare c s)

/-! ### Engines and slots (06 R171, 08 R236) -/

/-- A COMMIT restarts the signal of a position (R171). -/
def signalRestarts (old new : ConfigSet) (e p : Nat) : Bool :=
  let a := old.engines.get e
  let b := new.engines.get e
  let la := (a.feeds.getD p none).map (engineDie e * 32 + ·)
  a.cls != b.cls || a.feeds.getD p none != b.feeds.getD p none || a.drmModes.getD p 0 != b.drmModes.getD p 0
    || (match la with
        | some l => (old.lanes.get l).fLane != (new.lanes.get l).fLane || (old.lanes.get l).branches != (new.lanes.get l).branches
        | none => false)

/-- The feed lane of a position has a delay step. -/
def feedStepped (new : ConfigSet) (steps : List Nat) (e p : Nat) : Bool := match (new.engines.get e).feeds.getD p none with
  | some l => steps.contains (engineDie e * 32 + l)
  | none => false

/-- The entry that was in force, for outputs completed before the tick (R171); an engine given its class at the tick has its spans and periods from there. -/
def keepEntry (old : ConfigSet) (e : Nat) (s : State) : State :=
  let a := old.engines.get e
  if a = s.cfg.active.engines.get e then s else s.setEngine e fun x =>
    { x with past := ((s.now, a) :: x.past).take 8, side := if a.cls = .off then [] else x.side, units := if a.cls = .off then [] else x.units
             spanTo := if a.cls = .off then s.now / 10000000 * 10000000 else x.spanTo
             measuredTo := if a.cls = .off then s.now / 10000000 * 10000000 else x.measuredTo }

/-- The engine at the tick. `steps`: lanes with a delay step. -/
def applyEngine (old : ConfigSet) (steps : List Nat) (e : Nat) (s : State) : State :=
  let new := s.cfg.active
  let was := (old.engines.get e).positions
  let is := (new.engines.get e).positions
  if was.isEmpty && is.isEmpty then keepEntry old e s else
  (List.range 8).foldl (fun acc p =>
    if is.contains p then (if signalRestarts old new e p then restartSignal e p acc.now acc else if feedStepped new steps e p then restartHere e p acc else acc)
    else if was.contains p then setAlert (.drm e p) false (setAlert (.dab e p) false (acc.setSignal e p fun _ => {}))
    else acc) (keepEntry old e s)

/-- The slot at the tick: a change of source or delay restarts it, INTEG_RESET restarts integration alone (R236). -/
def applySlot (old : ConfigSet) (x : Nat) (s : State) : State :=
  let a := old.slots.get x
  let b := s.cfg.active.slots.get x
  let keep := (s.audio.slots.get x).satSticky
  let restart := a.source != b.source || a.srcIndex != b.srcIndex || a.srcPos != b.srcPos || a.srcSub != b.srcSub || a.context != b.context
    || a.slotDelay != b.slotDelay
  if a = b && !b.integReset then s
  else if restart then
    let s := s.setSlot x fun _ => { satSticky := keep, pcmTo := gridCeil s.now }
    let s := if a.source = .decode then s.setContext a.context fun _ => {} else s
    if b.source = .decode then s.setContext b.context fun _ => {} else s
  else if b.integReset then s.setSlot x fun y => { y with integ := [], integRestarted := true }
  else s

/-! ### Rings and captures (08 R246, 10 R308) -/

/-- The PCM mask of a ring's route, which blocks that begin at or after the tick take (R246). -/
def applyMask (r : Nat) (s : State) : State :=
  let e := s.cfg.active.routes.get r
  let g := s.link.rings.get r
  let mask := if e.cls = some .pcm then e.slotMask else 0
  let die := if mask = 0 then g.pcmDie else e.die
  if mask = g.pcmMask && die = g.pcmDie then (if g.pcmNext.isSome then s.setRing r fun g => { g with pcmNext := none } else s)
  else s.setRing r fun g => { g with pcmNext := some (s.now, mask, die) }

/-- The source of a capture qualifies in a set (R308). -/
def ConfigSet.captureOk (c : ConfigSet) (x : Capture) : Bool :=
  let m := (c.lanes.get x.source).mode
  match x.kind with
  | .bandTap => (c.clusters.get x.source).btOn
  | .lane => m != .off && m != .branch
  | .mpx => m.fm

/-- SOURCE_TYPE of a captured stream (10 R298): band tap 7, lane 1. -/
def CapKind.sourceType : CapKind → Nat
  | .bandTap => 7
  | _ => 1

/-- A capture ends: CAPTURE_ENDED with the last SEQUENCE (R308). -/
def endCapture (r : Nat) (s : State) : State :=
  match s.link.captures.get r with
  | none => s
  | some x =>
    raise .captureEnded x.die [.w r, .w x.kind.sourceType, .w x.source, .q ((s.link.rings.get r).sequence - 1).toNat]
      { s with link := { s.link with captures := s.link.captures.set r none } }

/-- Started captures whose source no longer qualifies end (R308). -/
def endCaptures (all : Bool) (s : State) : State :=
  ((List.range 64).map (· + 32)).foldl (fun acc r =>
    match acc.link.captures.get r with
    | some x => if all || (x.started && !acc.cfg.active.captureOk x) then endCapture r acc else acc
    | none => acc) s

/-! ### Level steps (12 R358, 05 R164) -/

/-- A level step in progress ends at the tick: its tone out of the band tap's reach, its course or an OFF lane it used changed, the plan changed (12 R358). -/
def stepEnds (old new : ConfigSet) (st : LevelStep) : Bool :=
  let c := laneCluster st.lane
  old.plan != new.plan || !new.reaches c st.toneFreq 0 || (old.clusters.get c).course != (new.clusters.get c).course
    || (decide (st.kind = .offLane) && (new.lanes.get st.lane).mode != .off)

/-- Level steps at the tick. -/
def applySteps (old new : ConfigSet) (s : State) : State :=
  (List.range s.dies).foldl (fun acc n => match acc.cal.steps.get n with
    | some st => if stepEnds old new st then endLevelStep n acc else acc
    | none => acc) s

/-! ### Plan hops (02 R44 to R46, R62) -/

/-- From the commit tick of a hop the rotations of a die's converters stop, and so do the cross-check and any attribution of their courses (03 R86). -/
def stopRotations (d : Nat) (s : State) : State :=
  [2 * d, 2 * d + 1].foldl (fun acc k =>
    (acc.setConv k fun c => { c with rotSuspended := true }).setCourse (acc.courseOf k) fun c => { c with attributing := none, lastMask := 0 }) s

/-- A die's hop begins at the commit tick; `temp`: TEMP2 converted there (R44, R62). -/
def beginHop (plan : Nat) (temps : List Int) (d : Nat) (s : State) : State :=
  if !s.dieUp d then s else
  let t := temps.getD d 0
  let c := s.clk.get d
  let near := match c.band plan with
    | some b => decide ((t - b.temp).natAbs ≤ 3000)
    | none => false
  let phase : HopPhase := if c.samp.coasting then .waiting else if near then .stored else .search
  let s := convertTemp2 d (s.setClk d fun c => { c with hop := { phase := phase, fresh := !near && !c.samp.coasting, since := s.now, temp := t } })
  let s := stopRotations d s
  let s := if phase = .waiting then (List.range s.dies).foldl (fun acc j => if acc.leaderDie j = some d then zeroCourse j acc else acc) s else s
  endWaitIfHeld d s

/-! ### The whole set -/

/-- Lanes with a delay step between two sets. -/
def delayStepLanes (old new : ConfigSet) (n : Nat) : List Nat :=
  (List.range (32 * n)).filter fun l =>
    let a := old.lanes.get l
    let b := new.lanes.get l
    (old.laneRate l).isSome && (new.laneRate l).isSome && (a.phaseDelay != b.phaseDelay || a.coarseDelay != b.coarseDelay)

/-- Domains at the tick: what is needed on, the digital rest off; converters follow their courses (17 R435). -/
def applyDomains (need : State → Nat → Nat) (s : State) : State :=
  (List.range s.dies).foldl (fun acc d => unpowerOutside d (need acc d ||| 24) (powerMask d (need acc d) acc)) s

/-- The digital domains that the set in force needs in reception (17 R433). -/
def State.setDomains (s : State) (d : Nat) : Nat := s.digitalNeeded s.cfg.active d

/-- Follow sets at the tick (07 R222). -/
def applyFollows (old new : ConfigSet) (touched : List (Nat × Nat)) (s : State) : State :=
  (List.range (s.dies * 16)).foldl (fun acc f =>
    let a := old.follows.get f
    let b := new.follows.get f
    if a.enable && !b.enable then stopFollow f acc
    else if a.restarts b then (if acc.dieUp (followDie f) then restartFollow f acc else acc)
    else if b.enable then
      (touched.filter fun x => x.1 = f).foldl (fun acc x => acc.setFollow f fun y =>
        { y with members := y.members.set x.2 { y.members.getD x.2 {} with changedAt := some s.now } }) acc
    else acc) s

/-- Members whose lane a COMMIT of `new` changes (07 R218, R219). -/
def State.touchedMembers (s : State) (new : ConfigSet) : List (Nat × Nat) :=
  (List.range (s.dies * 16)).flatMap fun f =>
    if (s.cfg.active.follows.get f).enable then ((List.range 4).filter fun k => s.commitTouches new f k).map fun k => (f, k) else []

/-- The set `new` comes into force over `old`, which is what was in force, with the domains that `need` gives (R36, R439). `touched`: members whose lanes the change touches. -/
def bringSet (need : State → Nat → Nat) (old new : ConfigSet) (touched : List (Nat × Nat)) (s : State) : State :=
  let act := s.overlay old new
  let s := applySteps old act s
  let s := { s with cfg := { s.cfg with active := act } }
  let s := applyDomains need s
  let s := (List.range s.dies).foldl (fun acc j => applyCourse (old.courses.get j) (act.courses.get j) j acc) s
  let s := (List.range (s.dies * 4)).foldl (fun acc c => if acc.dieUp (clusterDie c) then applyCluster old c acc else acc) s
  let s := (let t := assignExports s; matchZeroSpans t.now t)
  let steps := delayStepLanes old act s.dies
  let s := (List.range (s.dies * 4)).foldl (fun acc e => if acc.dieUp (engineDie e) then applyEngine old steps e acc else acc) s
  let s := (List.range (s.dies * 64)).foldl (fun acc x => if acc.dieUp (slotDie x) then applySlot old x acc else acc) s
  let s := (List.range s.dies).foldl (fun acc d => commitPort (.out d) (act.outPorts.get d) s.now acc) s
  let s := (List.range s.part.inPorts).foldl (fun acc d => commitPort (.inp d) (act.inPorts.get d) s.now acc) s
  let s := ((List.range 64).map (· + 32)).foldl (fun acc r => applyMask r acc) s
  applyFollows old new touched (endCaptures false s)

end Sys2Proof.Machine
end

