-- ==== Sys2Proof/Machine/Streams.lean ====
section
/-!
DEFINITION. The 2 ms sample blocks of chains and segments: suppression, flags, sticky saturation, band IQ capture (04 R121, R129, 10 R308 to R311).
-/
namespace Sys2Proof.Machine

/-- The chain behind a stream's block that begins at `t0`. -/
def State.streamChain (s : State) (t0 : Nat) : StreamId → Chain
  | .lane l | .mpx l => (s.taps.lanes.get l).forBlock t0
  | .spare c => (s.taps.spares.get c).forBlock t0
  | .segment _ => {}

/-- The cluster of a stream. -/
def StreamId.cluster : StreamId → Nat
  | .lane l | .mpx l => laneCluster l
  | .spare c | .segment c => c

/-- The courses a stream draws on. -/
def State.streamCourses (s : State) : StreamId → List Nat
  | .lane l | .mpx l => s.laneCourses l
  | .spare c | .segment c => [s.clusterCourse c]

/-- The stream runs. -/
def State.streamRuns (s : State) (x : StreamId) : Bool :=
  let c := x.cluster
  decide (c < s.dies * 4) && s.dieUp (clusterDie c) && (match x with
    | .segment k => (s.taps.bandTaps.get k).assigned
    | .lane l => (s.taps.lanes.get l).active && !s.laneDead l
    | .mpx l => (s.taps.lanes.get l).active && !s.laneDead l && (s.cfg.active.lanes.get l).mode.fm
    | .spare k => (s.taps.spares.get k).active)

/-- The die that forms a stream's blocks. -/
def StreamId.die (x : StreamId) : Nat := clusterDie x.cluster

/-- The capture rings that take the block of a stream that begins at `t0`: the first at or after the start tick, and all after it, each once (R308). `old`: of the count before the die's last armed edge or reload. -/
def State.captureRings (s : State) (x : StreamId) (t0 : Nat) (old : Bool) : List Nat :=
  let edges := (s.clk.get x.die).edges
  ((List.range 64).map (· + 32)).filter fun r => match s.link.captures.get r with
    | some c => c.started && decide (c.tick * countsPerTick ≤ t0)
      && (if old then decide (c.edges + 1 = edges) && decide (c.nextBlock ≤ t0) else decide (c.edges < edges) || decide (c.nextBlock ≤ t0)) && (match x with
        | .segment k => decide (c.kind = .bandTap) && c.source == k
        | .lane l => decide (c.kind = .lane) && c.source == l
        | .mpx l => decide (c.kind = .mpx) && c.source == l
        | .spare _ => false)
    | none => false

/-- First converter index of a segment's block, and its decimation (04 R105, R109). -/
def firstIndex (S D t0 : Nat) : Nat := ceilTo D ((t0 * S + countsPerFrame - 1) / countsPerFrame)

/-- Samples of a segment's block. -/
def segmentCount (S D t0 : Nat) : Nat := (firstIndex S D (t0 + countsPerBlock) - firstIndex S D t0) / D

/-- P of a stream in 1/192 count. -/
def State.streamP192 (s : State) (x : StreamId) (t0 : Nat) : Nat :=
  match x with
  | .mpx _ => 100000
  | _ => rateP192 (s.streamChain t0 x).rateClass

/-- Grid index of sample `i` of a stream's block that begins at `t0`. -/
def State.sampleIndex (s : State) (x : StreamId) (S t0 i : Nat) : Nat :=
  match x with
  | .segment c => firstIndex S (2 ^ s.segN c) t0 / 2 ^ s.segN c + i
  | _ => let p := s.streamP192 x t0
    (t0 * 192 + p - 1) / p + i

/-- Sample `k` of a stream lies at or after SYSTIME `t` on its grid (R105). -/
def State.sampleFrom (s : State) (x : StreamId) (t0 S k t : Nat) : Bool :=
  match x with
  | .segment c => decide (t * S ≤ k * 2 ^ s.segN c * countsPerFrame)
  | _ => decide (t * 192 ≤ k * s.streamP192 x t0)

/-- The instant that sample `k` of a stream represents, in 1/12,288 count times S (R105, R106, 05 R145). -/
def State.sampleInstant (s : State) (x : StreamId) (t0 S k : Nat) : Int :=
  match x with
  | .segment c => ((k * 2 ^ s.segN c) * countsPerFrame * 12288 : Nat)
  | .mpx l =>
    let ch := s.taps.lanes.get l
    ((k * 100000 * 64 : Nat) - ch.delayAt (ch.before 1 k).1) * S
  | _ => (s.streamChain t0 x).instantAt k * S

/-- Samples of a stream's block (R106, R145). -/
def State.streamCount (s : State) (x : StreamId) (S t0 : Nat) : Nat :=
  match x with
  | .segment c => segmentCount S (2 ^ s.segN c) t0
  | .mpx _ => 384
  | _ => rateBlock (s.streamChain t0 x).rateClass

/-- Sample `k` of a stream is suppressed (R121); MPX also until 64 samples after the demodulator's restart (05 R138). -/
def State.sampleSuppressed (s : State) (x : StreamId) (t0 S k : Nat) : Bool :=
  match x with
  | .segment c =>
    let ch := s.taps.segments.get c
    ch.segmentDead S k (ch.tuneAt (s.sampleInstant x t0 S k / S))
  | .mpx l =>
    s.combinedDead l ((s.taps.lanes.get l).before 1 k).1
    || (match (s.lanes.demods.get l).restartAt with
        | some r => decide (s.sampleInstant x t0 S k < ((r * 12288 + 64 * 64 * 100000 : Nat) : Int) * S)
        | none => true)
  | _ => (s.streamChain t0 x).deadAt k

/-- Sample `k` of a stream (R112, R114, R145). -/
def State.streamSample (s : State) (a : Air) (x : StreamId) (t0 k : Nat) : Smp :=
  match x with
  | .segment c => s.segmentOutput a c k
  | .mpx l => s.mpxSample a l k
  | _ => s.chainOutput a (s.streamChain t0 x) k

/-- The half-span of sample `k` in 1/12,288 count times S (R123, R124). -/
def State.streamHalf (s : State) (x : StreamId) (t0 S k : Nat) : Int :=
  match x with
  | .segment c => halfScaled S 0 (halfBt (s.segN c)) 1
  | _ => ((s.streamChain t0 x).tuneAt (s.sampleInstant x t0 S k / S)).half true

/-- Whether the input span of sample `k` contains SYSTIME `t`. -/
def State.sampleContains (s : State) (x : StreamId) (t0 S k t : Nat) : Bool :=
  decide ((s.sampleInstant x t0 S k - ((t * 12288 * S : Nat) : Int)).natAbs ≤ (s.streamHalf x t0 S k).toNat)

/-- Every suppression that can reach sample `k` is known: its input span lies behind the present (R121). -/
def State.sampleKnown (s : State) (x : StreamId) (t0 S k : Nat) : Bool :=
  decide (s.sampleInstant x t0 S k + s.streamHalf x t0 S k ≤ ((s.now * 12288 * S : Nat) : Int))

/-- Every suppression that can reach the stream's block at `t0` is known (R121). -/
def State.blockKnown (s : State) (x : StreamId) (t0 : Nat) : Bool :=
  s.sampleKnown x t0 s.frameS (s.sampleIndex x s.frameS t0 0 + s.streamCount x s.frameS t0 - 1)

/-- Sample `i` of a stream's block of [t0, stop) is suppressed: behind the block's end, of frozen units, or by what disturbed its input span (R121, 02 R59, R67). -/
def State.blockDead (s u : State) (x : StreamId) (t0 stop i : Nat) : Bool :=
  let k := u.sampleIndex x u.frameS t0 0 + i
  u.sampleFrom x t0 u.frameS k stop || s.frozenIn x.die t0 stop || u.sampleSuppressed x t0 u.frameS k

/-- The samples of a stream's block of [t0, stop), suppressed ones zero; `u`: the state as of the count that the block belongs to (R112, R114, R121). -/
def State.blockSamples (s u : State) (air : Air) (x : StreamId) (t0 stop : Nat) : List Smp :=
  (List.range (u.streamCount x u.frameS t0)).map fun i =>
    if s.blockDead u x t0 stop i then {} else u.streamSample air x t0 (u.sampleIndex x u.frameS t0 0 + i)

/-- Stages that saturated set their sticky flags; LANE_SATURATED when a lane's flag changes from 0 to 1, and for a spare's flag none: DESIGN CHOICE (R129, notes/assumptions/50.md). `sat`: bits 0 halving, 1 resampler, 2 channel filter, 3 band tap. -/
def markSaturation (x : StreamId) (sat : Nat) (s : State) : State :=
  let ch := s.streamChain s.now x
  let upd := fun (c : Chain) =>
    { c with satHalving := c.satHalving || maskBit sat 0, satResampler := c.satResampler || maskBit sat 1, satFilter := c.satFilter || maskBit sat 2 }
  let s := if maskBit sat 3 then
      { s with taps := { s.taps with bandTaps := s.taps.bandTaps.modify x.cluster fun b => { b with satSticky := true } } }
    else s
  match x with
  | .lane l =>
    let t := { s with taps := { s.taps with lanes := s.taps.lanes.modify l upd } }
    let rises := ([ch.satHalving, ch.satResampler, ch.satFilter].zipIdx).filterMap fun (was, g) => if maskBit sat g && !was then some g else none
    rises.foldl (fun acc g => raise .laneSaturated (laneDie l) [.w l, .w g] acc) t
  | .spare c => { s with taps := { s.taps with spares := s.taps.spares.modify c upd } }
  | _ => s

/-- One group of format 0x0601: a word with exponent and count, then I and Q mantissas (R309). -/
def segmentGroup (vs : List (Int × Int)) : List Byte :=
  let e := blockExponent (vs.flatMap fun v => [v.1, v.2])
  le 4 (e + vs.length % 256 * 256) ++ vs.flatMap fun v => leInt 2 (roundDiv v.1 (2 ^ e)) ++ leInt 2 (roundDiv v.2 (2 ^ e))

/-- The groups of a segment block, one for each plan frame that holds a sample (R309). -/
def segmentPayload (S D first : Nat) (vs : List (Int × Int)) : List Byte :=
  let idx := vs.zipIdx.map fun (v, i) => ((first + i * D) / S, v)
  let frames := (idx.map (·.1)).eraseDups
  frames.flatMap fun f => segmentGroup ((idx.filter fun p => p.1 = f).map (·.2))

/-- A link on the way from die `d` to the anchor runs on fewer than 8 lanes (01 R24). -/
def State.narrowed (s : State) (d : Nat) : Bool :=
  (s.deliveryPath d).any fun i => s.nv.retired.any fun u => decide (u.kind = .linkLane) && u.die == i / 2 && u.loc == i % 2

/-- What samples of a block saturated: bit 2 the channel filter, bit 3 the band tap (R129). -/
def satMask (xs : List Smp) : Nat := (if xs.any (·.filterSat) then 4 else 0) + (if xs.any (·.tapSat) then 8 else 0)

/-- The stages that saturated in a block: by its samples, and by a hardware fault of bits 0 and 1 while the die is in service (R129). -/
def State.blockSat (s : State) (x : StreamId) (fault : Nat) (xs : List Smp) : Nat := satMask xs + if s.dieRuns x.die then fault % 4 else 0

/-- The stream behind a capture goes on after a block that ended at `stop`: at an armed edge or reload with the designated value (R308, 02 R67). -/
def Capture.pass (c : Capture) (edge : Option (Nat × Nat)) (edges stop : Nat) (old : Bool) : Capture :=
  match old, edge with
  | true, some (o, v) => if stop = o then { c with edges := edges, nextBlock := v } else { c with nextBlock := stop }
  | _, _ => { c with edges := edges, nextBlock := stop }

/-- A 2 ms sample block of a stream is formed, once, when every suppression that applies to it is known: its samples from what came in over their input spans, suppressed ones zero, its flags set; a captured stream's block goes to its ring. `fault`: a hardware fault saturated the halving (bit 0) or resampler stages (bit 1); `old`: of the count before the last armed edge or reload, which ends the block in progress; `late`: the lane exhausted its budget (R121, R129, 03 R97, 02 R42, R67, 01 R27, 10 R298, R308). Captured blocks are discarded while a background task is overdue (R311, 14 R388), and where delivery exceeds its class on a link that has lost a lane (`choked`, 01 R24). A die with frozen units forms zero blocks (02 R59). -/
def execStreamBlockFormed (x : StreamId) (t0 : Nat) (air : Air) (fault : Nat) (old late choked : Bool) (s : State) : Res :=
  let d := x.die
  match s.blockEnd d t0 old with
  | none => .next s
  | some stop =>
    let u := if old then s.beforeEdge d else s
    let S := u.frameS
    let n := u.streamCount x S t0
    let k0 := u.sampleIndex x S t0 0
    let vals := s.blockSamples u air x t0 stop
    let sat := s.blockSat x fault vals
    let js := s.streamCourses x
    let covered := match x with
      | .lane l | .mpx l => s.coveredIn l t0 stop
      | _ => false
    let fl := s.clockFlags d (s.leaderDies js) t0 stop + flagIf ((List.range n).any (s.blockDead u x t0 stop)) flSuppressed
      + flagIf (sat != 0 || vals.any (·.clip)) flSaturated + flagIf covered flCovered
      + flagIf (late && !(match x with
          | .segment _ => true
          | _ => false)) flLate
    let c0 := u.sampleInstant x t0 S k0 / S
    let blk := fun (r : Nat) (format : Nat) (payload : List Byte) (u : State) =>
      if s.integ.tasks.any (·.overdue.isSome) || (choked && s.narrowed d) then discardBlock r (u.setRing r fun g => { g with sequence := g.sequence + 1 })
      else formBlock r
        { format := format, srcType := (match x with
            | .segment _ => 7
            | _ => 1), srcIndex := (match x with
            | .lane l | .mpx l => l
            | .spare c | .segment c => c)
          die := d, timestamp := wrapInt 64 (c0 / 12288), sampleCount := n, flags := fl
          sigma := match x with
            | .segment _ => 0
            | _ => (c0 % 12288).toNat * 65536 / 12288
          gain := s.gainMark js n fun i t => s.sampleContains x t0 S (k0 + i) t, payload := payload, capture := true } u
    onlyIf (s.streamRuns x && (old || s.frozenIn d t0 stop || s.blockKnown x t0)) s
      ((s.captureRings x t0 old).foldl (fun t r =>
        let c := s.clk.get d
        let t := { t with link := { t.link with captures := t.link.captures.modify r fun x => x.map fun x => x.pass c.edge c.edges stop old } }
        match x with
        | .segment c =>
          let D := 2 ^ s.segN c
          blk r 0x0601 (segmentPayload S D (firstIndex S D t0) (vals.map fun v => (v.re, v.im))) t
        | .mpx _ => blk r 0x0603 (vals.flatMap fun v => leInt 4 v.re) t
        | _ => blk r 0x0602 (vals.flatMap fun v => leInt 4 v.re ++ leInt 4 v.im) t) (markSaturation x sat s))

end Sys2Proof.Machine
end

