-- ==== Sys2Proof/Machine/Tones.lean ====
section
/-!
DEFINITION. CALIN tones and the lanes that may measure them (12 R343, R344, R357).
-/
namespace Sys2Proof.Machine

/-- A chain at frequency `f` and rate `rc` keeps a tone at `t` from use: |f − t| ≤ 0.62 × Fw (R343). -/
def nearTone (t f rc : Nat) : Bool := decide (((f : Int) - t).natAbs * 100 ≤ 62 * rateHz rc)

/-- A lane, branch or watch tap fed by a band tap that sources course `n`, other than lane `except_`, lies within 0.62 × Fw of `t` (R343). -/
def State.toneBlocked (s : State) (n t : Nat) (except_ : Option Nat) : Bool :=
  let c := s.cfg.active
  let fed := fun (k : Nat) => (c.clusters.get k).btOn && (c.clusters.get k).course == n && s.dieUp (clusterDie k)
  ((List.range (s.dies * 4)).filter fed).any fun k =>
    ((List.range 8).any fun p =>
      let l := k * 8 + p
      except_ != some l && (c.lanes.get l).mode != .off && (match c.laneRate l with
        | some rc => nearTone t (c.lanes.get l).fLane rc
        | none => false))
    || (List.range 16).any fun i =>
        let w := c.watches.get (k * 16 + i)
        w.mode != .off && w.freqs.any fun f => nearTone t f (if w.mode = .fm then 2 else w.rate)

/-- A tone is usable on course `n` through cluster `k`, with `lane` measuring (R343). -/
def State.toneUsable (s : State) (n k lane i : Nat) : Bool :=
  let t := s.cal.tones.getD i {}
  let c := s.cfg.active
  t.en && t.level.isSome && (c.clusters.get k).course == n && c.reaches k t.freq 0 && s.dieUp (clusterDie k) && !s.tapDead k
  && !s.toneBlocked n t.freq (some lane)

/-- Of the usable tones, the one least recently used on the input (R343). -/
def State.chooseTone (s : State) (n k lane : Nat) : Option Nat :=
  let usable := (List.range 8).filter (s.toneUsable n k lane)
  usable.find? fun i => usable.all fun j => decide (s.cal.toneUse.get (n * 8 + i) ≤ s.cal.toneUse.get (n * 8 + j))

/-- A follow set that has this lane is fading (07 R220). -/
def State.laneFades (s : State) (l : Nat) : Bool :=
  (List.range (s.dies * 16)).any fun f =>
    (s.audio.follows.get f).fade.isSome && (s.cfg.active.follows.get f).lanes.contains l

/-- A lane that a step already uses. -/
def State.laneInStep (s : State) (l : Nat) : Bool :=
  (List.range s.dies).any fun m => (s.cal.steps.get m).any fun x => x.lane == l

/-- The OFF lane of the first cluster that has one for a step on input `n`, with its tone (R344 case 1). -/
def State.offLaneFor (s : State) (n : Nat) : Option (Nat × Nat) :=
  (List.range (s.dies * 32)).findSome? fun l =>
    if (s.cfg.active.lanes.get l).mode = .off && !(s.cfg.active.follows.cells.any fun f => f.2.enable && f.2.lanes.contains l) && !s.laneDead l && !s.laneInStep l then
      (s.chooseTone n (laneCluster l) l).map fun t => (l, t)
    else none

/-- The next position of a cluster after the one last used that can measure for input `n`, with its tone (R344 case 2). -/
def State.coverLaneFor (s : State) (n k : Nat) : Option (Nat × Nat) :=
  (List.range 8).findSome? fun i =>
    let l := k * 8 + (s.cal.lastPos.get k + 1 + i) % 8
    if s.laneFades l || s.laneDead l then none else (s.chooseTone n k l).map fun t => (l, t)

/-- Some cluster reaches a usable tone for the input (R357). -/
def State.levelReachable (s : State) (n : Nat) : Bool :=
  (List.range (s.dies * 32)).any fun l => (s.chooseTone n (laneCluster l) l).isSome

/-- LEVEL of an input found unreachable: CAL_UNREACHABLE once; reachable again: the mark goes (R357). -/
def noteReach (n : Nat) (s : State) : State :=
  if s.levelReachable n then { s with cal := { s.cal with unreachable := s.cal.unreachable.filter (· != n) } }
  else if s.cal.unreachable.contains n then s
  else raise .calUnreachable pkg [.w n] { s with cal := { s.cal with unreachable := s.cal.unreachable ++ [n] } }

/-- A fade on a cluster of the input's course holds its windows: ageing stops at "due" (07 R220, R357). -/
def State.levelHeld (s : State) (n : Nat) : Bool :=
  (List.range (s.dies * 32)).any fun l => (s.cfg.active.clusters.get (laneCluster l)).course == n && s.laneFades l

/-- The clusters of the input's course whose cover window stands open to a step: native, the lane that cover has just taken; HOLD, a window of R29 (01 R29, R344). -/
def State.windowFor (s : State) (n k : Nat) : Option (Nat × Nat × CoverKind) :=
  let x := s.lanes.spares.get k
  match s.coverLaneFor n k with
  | none => none
  | some (l, t) =>
    if s.holdCover k then
      let free := if s.unassayed k then (match x.lastCoverStart with
          | some b => b / 110000000 != s.now / 110000000
          | none => true)
        else !x.coverTaken && x.betweenRotations s.now
      if x.cover.isNone && free then some (l, t, .hold) else none
    else match x.cover with
      | some v => if !v.hold && v.pos == l % 8 && v.start == s.now && !s.laneInStep l then some (l, t, .native) else none
      | none => none

/-- The lane, tone and cover of a step on input `n` that begins now (R344). -/
def State.levelChoice (s : State) (n : Nat) : Option (Nat × Nat × CoverKind) :=
  match s.offLaneFor n with
  | some (l, t) => some (l, t, .offLane)
  | none => (List.range (s.dies * 4)).findSome? (s.windowFor n)

/-- Input `m` goes before input `n`: overdue first, then by LAST_SYSTIME, then by index (R357). -/
def State.levelBefore (s : State) (m n : Nat) : Bool :=
  let a := s.taskAge (.level m)
  let b := s.taskAge (.level n)
  let ta := (s.cal.items.get m).lastSystime
  let tb := (s.cal.items.get n).lastSystime
  decide (b < a) || (a == b && (decide (ta < tb) || (ta == tb && decide (m < n))))

/-- No input that goes before `n` wants the same cluster's window (R357). -/
def State.levelTurn (s : State) (n lane : Nat) : Bool :=
  !(List.range s.dies).any fun m =>
    m != n && decide (0 < s.taskAge (.level m)) && (s.cal.steps.get m).isNone && s.levelBefore m n
    && (match s.levelChoice m with
        | some (l, _, _) => laneCluster l == laneCluster lane
        | none => false)

end Sys2Proof.Machine
end

