-- ==== Sys2Proof/Machine/Faults.lean ====
section
/-!
DEFINITION. Faults and background work (14): supplies and lockstep pairs, memory, ring links, planish passes, ageing, the fault log.
-/
namespace Sys2Proof.Machine

/-! ### Supplies and lockstep (R33, R34, R376) -/

/-- A domain of a die is in service. -/
def State.domainReady (s : State) (d bit : Nat) : Bool := maskBit (s.domains.get d).ready bit

/-- A lockstep pair disagrees: the anchor's halts the part, another die's fences its die (01 R33, R34). -/
def execLockstepDisagreement (d : Nat) (s : State) : Res :=
  onlyIf (s.dieUp d && s.domainReady d 0 && s.mode.mode != .halted) s
    (if d = 0 then enterHalted 1 s
     else fenceDie d .lockstep true (raise .lockstepFault d [.w d, .q s.now] s))

/-- An armed window comparator of a domain trips, under or over its window: die d ≠ 0 is fenced, without RING if RING's supply tripped; the anchor halts, without CONTROL if CONTROL's tripped (R376, 17 R436). -/
def execSupplyTrip (d dom : Nat) (tooHigh : Bool) (s : State) : Res :=
  onlyIf (decide (d < s.dies) && decide (dom < 14) && maskBit (s.domains.get d).armed dom) s
    (let t := { s with domains := s.domains.modify d fun x => { x with tripped := x.tripped ||| 2 ^ dom } }
     let t := raise .supplyTrip d [.w d, .w dom, .w (b2n tooHigh)] t
     if d ≠ 0 then
       let t := fenceDie d .supply (dom != 1) t
       if dom = 1 then domainOff d 1 t else t
     else
       let t := enterHalted 4 t
       if dom = 0 then domainOff 0 0 t else t)

/-- A fault of the anchor's host link (01 R34). -/
def execHostLinkFault (s : State) : Res := onlyIf (s.mode.mode != .off && s.mode.mode != .halted) s (enterHalted 2 s)

/-! ### Memory (R382, R383) -/

/-- Spare rows left in an array. -/
def State.rowsLeft (s : State) (d a : Nat) : Nat := s.nv.spareRows.get (d * 112 + a)

/-- A lasting word's row is copied to a spare row; the array's last one gone, SRAM_ROWS_EXHAUSTED (R382). -/
def remapRow (d array row : Nat) (s : State) : State :=
  let n := s.rowsLeft d array
  if n = 0 then s else
  let k := d * 112 + array
  let s := { s with nv := { s.nv with spareRows := s.nv.spareRows.set k (n - 1), remapped := s.nv.remapped ++ [(d, array, row)] } }
  let s := raise .sramRowRemapped d [.w d, .w array, .w row, .w ((n : Int) - 1)] s
  if n = 1 then
    refresh (raise .sramRowsExhausted d [.w d, .w array] { s with integ := { s.integ with exhausted := s.integ.exhausted ++ [k] } })
  else s

/-- A read corrects a single-bit error of a word of an array's row, writes it back and counts it (R378, R382). -/
def execSramSingleBitError (d array row word : Nat) (s : State) : Res :=
  onlyIf (s.dieUp d && decide (array < 112) && s.mode.mode != .off) s
    (let r := occur 0 (wordRef d word) (s.setDieInteg d fun x => { x with secCount := x.secCount + 1 })
     if r.1 then remapRow d array row r.2 else r.2)

/-- What the owner of an uncorrectable word does (R383). -/
def loseData (d : Nat) (o : SramOwner) (s : State) : State :=
  match o with
  | .delayLane l e1 e2 => { s with taps := { s.taps with lanes := s.taps.lanes.modify l fun c => c.disturb s.now (.hole e1 e2) } }
  | .delayFollow f t0 t1 =>
    ((List.range (s.dies * 64)).filter fun x => decide ((s.cfg.active.slots.get x).source = .follow) && (s.cfg.active.slots.get x).srcIndex == f).foldl
      (fun acc x => addSpan x ⟨t0, some t1, flSuppressed, true⟩ acc) s
  | .engineCells e p => s.setSignal e p fun x => { x with erasedSeen := true }
  | .engineControl e p => if (s.cfg.active.engines.get e).positions.contains p then restartHere e p s else s
  | .accessUnit k => s.setContext k fun c => { c with queue := match c.queue with
      | u :: rest => { u with lost := true } :: rest
      | [] => [] }
  | .codecState k => s.setContext k fun c => { c with afterLoss := true }
  | .slotAudio x t0 t1 => addSpan x ⟨t0, some t1, flFill, true⟩ s
  | .slotMeasure x => s.setSlot x fun y => { y with voided := true }
  | .staging r =>
    let g := s.link.rings.get r
    (match g.waiting with
     | b :: _ => raise .deliveryCheckFail b.die [.w r, .w b.die, .q b.sequence]
         ((dropOldest r s).setDieInteg b.die fun x => { x with deliveryCheckFails := x.deliveryCheckFails + 1 })
     | [] => s)
  | .flitSegment c e1 e2 => raise .segmentLate (clusterDie c) [.w c, .q e1, .q e2] (bandTapSpan e1 e2 c s)
  | .flitAudio x t0 t1 => addSpan x ⟨t0, some t1, flSuppressed, true⟩ s
  | .flitBlock r => if (s.link.rings.get r).waiting.isEmpty then discardBlock r s else dropOldest r s
  | .flitControl => s
  | .controlMemory => if d = 0 then enterHalted 5 s else fenceDie d .controlMemory true s

/-- A read finds a double-bit error: SRAM_UNCORRECTABLE, and the owner's treatment (R383). -/
def execSramUncorrectable (d word : Nat) (o : SramOwner) (s : State) : Res :=
  onlyIf (s.dieUp d && s.mode.mode != .off && s.mode.mode != .halted) s
    (loseData d o (raise .sramUncorrectable d [.w d, .w o.region.code, .w word, .q s.now]
      (s.setDieInteg d fun x => { x with dedCount := satInc x.dedCount })))

/-- A planish pass begins at a SYSTIME multiple of 8 s (R384), but in BOOT and RECOVERY (R377). -/
def execPlanishPassStart (d : Nat) (s : State) : Res :=
  onlyIf (s.dieUp d && s.domainReady d 0 && s.mode.mode != .boot && s.mode.mode != .recovery && !(s.integ.dies.get d).passRunning
      && decide (s.now % (8 * countsPerSecond) = 0)) s
    (s.setDieInteg d fun x => { x with passRunning := true, passStart := s.now, passAge := 0 })

/-- A planish pass ends: its duration in ms, the task normal again (R384). -/
def execPlanishPassComplete (d : Nat) (s : State) : Res :=
  let x := s.integ.dies.get d
  onlyIf (s.dieUp d && x.passRunning) s
    (refresh (taskNormal (.planish d) (s.setDieInteg d fun x =>
      { x with passRunning := false, passAge := 0, lastPassMs := BitVec.ofNat 16 ((s.now - x.passStart) / countsPerMs), passCount := x.passCount + 1 })))

/-! ### Ring links (R378, R385) -/

/-- The outbound link of die `d` in direction 0 rising or 1 falling. -/
def State.linkDir (s : State) (d dir : Nat) : LinkDir := s.integ.links.get (d * 2 + dir)
def State.setLink (s : State) (d dir : Nat) (f : LinkDir → LinkDir) : State :=
  { s with integ := { s.integ with links := s.integ.links.modify (d * 2 + dir) f } }

/-- A link is declared failed and its traffic rerouted (R385, 01 R23); one under test is not clean. -/
def failLink (d dir : Nat) (s : State) : State :=
  if (s.linkDir d dir).failed then s.setLink d dir fun x => { x with cleanSince := none }
  else refresh (raise .linkFailed d [.w d, .w dir, .q s.now]
    (s.setLink d dir fun _ => { failed := true, probeAt := s.now }))

/-- Retire a link lane: the link runs on the others (01 R24). -/
def retireLinkLane (u : UnitRef) (s : State) : State :=
  if s.retired u then s
  else refresh (raise .linkLaneRetired u.die [.w u.die, .w u.loc, .w u.sub] (retireUnit u s))

/-- The die at the receiving end of a link. -/
def State.linkEnd (s : State) (d dir : Nat) : Nat := if dir = 0 then (d + 1) % s.dies else (d + s.dies - 1) % s.dies

/-- A flit fails its CRC: it is replayed and charged to the lanes whose parity fails, or to all eight. `consecutive`: the flit before it failed too; `replayed`: it is a replay (R385). -/
def execFlitCrcError (d dir : Nat) (lanes : List Nat) (consecutive replayed : Bool) (s : State) : Res :=
  let x := s.linkDir d dir
  onlyIf (decide (d < s.dies) && decide (dir < 2) && s.domainReady d 1) s
    (let t := s.setDieInteg (s.linkEnd d dir) fun y =>
       if dir = 0 then { y with flitErrRising := y.flitErrRising + 1 } else { y with flitErrFalling := y.flitErrFalling + 1 }
     let t := t.setDieInteg d fun y => { y with replays := y.replays + 1 }
     let t := (if lanes.isEmpty then List.range 8 else lanes.filter (decide <| · < 8)).foldl (fun acc l =>
       let u := linkLaneRef d dir l
       let r := occur 5 u acc
       if r.1 then retireLinkLane u r.2 else r.2) t
     let bad := if consecutive then x.badRun + 1 else 1
     let rep := if replayed then x.replayFails + 1 else 0
     let t := t.setLink d dir fun y => { y with badRun := bad, replayFails := rep }
     if 4 ≤ bad || 3 ≤ rep || x.failed then failLink d dir t else t)

/-- A link's receiver loses lock (R385). -/
def execLinkReceiverLockLoss (d dir : Nat) (s : State) : Res :=
  onlyIf (decide (d < s.dies) && decide (dir < 2) && s.mode.mode != .off) s (failLink d dir s)

/-- A failed link is probed by training every 10 s (R385). -/
def execLinkProbe (d dir : Nat) (trained : Bool) (s : State) : Res :=
  let x := s.linkDir d dir
  onlyIf (decide (d < s.dies) && decide (dir < 2) && x.failed && x.cleanSince.isNone && decide (x.probeAt + 10 * countsPerSecond ≤ s.now)) s
    (s.setLink d dir fun y => { y with probeAt := s.now, cleanSince := if trained then some s.now else none })

/-- A trained link has carried 1 s of clean test flits and returns to service (R385). -/
def execLinkRestored (d dir : Nat) (s : State) : Res :=
  match (s.linkDir d dir).cleanSince with
  | none => .next s
  | some t =>
    onlyIf (decide (d < s.dies) && decide (dir < 2) && (s.linkDir d dir).failed && decide (t + countsPerSecond ≤ s.now)) s
      (refresh (raise .linkRestored d [.w d, .w dir, .q s.now] (s.setLink d dir fun _ => {})))

/-! ### Rules, ageing (R379, R387, R388) -/

/-- COUNT and WINDOW limits of a class (R379). -/
def ruleLimits : Nat → (Nat × Nat) × (Nat × Nat)
  | 0 => ((2, 8), (1000, 60000))
  | 1 => ((2, 16), (10, 1000))
  | 5 => ((4, 255), (10, 1000))
  | 6 => ((1, 8), (100, 60000))
  | _ => ((2, 4), (200, 6000))

/-- A write of a lasting rule is taken within its limits (R379). -/
def execLastingRuleWrite (i v : Nat) (s : State) : Res :=
  let c := v % 256
  let w := v / 256 % 65536
  let l := ruleLimits i
  onlyIf (s.barUp && decide (i < 7)) s
    (let t := hostAccess s
     if l.1.1 ≤ c && c ≤ l.1.2 && l.2.1 ≤ w && w ≤ l.2.2 then { t with integ := { t.integ with rules := t.integ.rules.set i ⟨c, w⟩ } } else t)

/-- When a task becomes due and overdue; none: it does not age at present (R387, 12 R357). Flash blocks age over years that the state does not count. -/
def State.taskTimes (s : State) : Task → Option (Nat × Nat)
  | .planish d =>
    let x := s.integ.dies.get d
    if x.passRunning then some (x.passStart + 6 * countsPerSecond, x.passStart + 7 * countsPerSecond) else none
  | .level n =>
    let i := s.cal.levelInterval * 60 * countsPerSecond
    let t := (s.cal.items.get (0 * 16 + n)).lastSystime
    if s.mode.mode.receiving then some (t + i, t + 3 * i) else none
  | .monitor d =>
    let t := (s.cal.items.get (4 * 16 + d)).lastSystime
    some (t + 60 * countsPerSecond, t + 600 * countsPerSecond)
  | .store => match s.cal.unsavedSince with
    | some t => if s.cal.autoStore then some (t + 86400 * countsPerSecond, t + 172800 * countsPerSecond) else none
    | none => none
  | .flashRefresh => some (0, 0)
  | .telemetry d => if (s.mon.dies.get d).telemetered < s.mon.lastLatch then some (s.mon.lastLatch, s.mon.lastLatch + 50000000) else none
  | .hallmark => match s.sec.hall.acc with
    | some a => some (s.sec.hall.endOf a.start, s.sec.hall.endOf a.start + countsPerSecond)
    | none => none
  | .log => match s.integ.logWaiting with
    | e :: _ => some (e.raised, e.raised + 50000000)
    | [] => none

/-- An overdue task takes from discretionary work: whole capture blocks first, and, where nothing is captured, survey dwells, which are abandoned with SURVEY_PREEMPTED (R311, R388, 05 R160). -/
def preempt (s : State) : State :=
  let rings := ((List.range 64).map (· + 32)).filter fun r => (s.link.captures.get r).any (·.started)
  if rings.isEmpty then
    (List.range (s.dies * 64)).foldl (fun acc w =>
      if (acc.cfg.active.watches.get w).mode = .survey && !acc.watchFollowed w && (acc.taps.watches.get w).active && !(acc.lanes.watches.get w).preempted then
        raise .surveyPreempted (watchDie w) [.w w, .w (acc.lanes.watches.get w).listIndex] (acc.setWatch w fun x => { x with preempted := true })
      else acc) s
  else rings.foldl (fun acc r =>
    let n := (acc.link.rings.get r).waiting.length
    let acc := (List.range n).foldl (fun a _ => dropOldest r a) acc
    raise .capturePreempted (((acc.link.captures.get r).map Capture.die).getD 0) [.w r, .w n] acc) s

/-- A task that ages is overdue: from `b` on, a level step unless a fade holds it (R387, 12 R357); of flash refresh, whose age the state does not count, `overdue` says which. -/
def State.taskOver (s : State) (t : Task) (overdue : Bool) (b : Nat) : Bool :=
  match t with
  | .flashRefresh => overdue
  | .level n => decide (b ≤ s.now) && !s.levelHeld n
  | _ => decide (b ≤ s.now)

/-- A background task becomes due or overdue (R387, R388). `overdue`: for flash refresh, whose age the state does not count, which of the two. -/
def execBackgroundTaskAgeing (t : Task) (overdue : Bool) (s : State) : Res :=
  match s.taskTimes t with
  | none => .next s
  | some (a, b) =>
    let isOver := s.taskOver t overdue b
    onlyIf (s.mode.mode != .off && decide (a ≤ s.now) && (if isOver then s.taskAge t != 2 else s.taskAge t == 0)) s
      (let u := match t with
         | .planish d => s.setDieInteg d fun x => { x with passAge := if isOver then 2 else 1 }
         | .level n => noteReach n s
         | _ => s
       if isOver then
         let u := match t with
           | .level n => raise .calOverdue pkg [.w 0, .w n] u
           | .monitor d => raise .calOverdue d [.w 4, .w d] u
           | _ => u
         refresh (preempt (taskOverdue t u))
       else taskDue t u)

/-- A flash block is rewritten; `fails`: its read-back failed twice (R386, R387). -/
def execFlashRefresh (fails : Bool) (s : State) : Res :=
  onlyIf (s.mode.mode != .off) s
    (if fails then refresh (flashFault .refresh s)
     else refresh (taskNormal .flashRefresh { s with integ := { s.integ with flashFaults := s.integ.flashFaults.filter (· != .refresh) } }))

/-! ### Fault log (R389) -/

/-- The oldest waiting entry is written; `fails`: its read-back failed twice. -/
def execFaultLogWrite (fails : Bool) (s : State) : Res :=
  match s.integ.logWaiting with
  | [] => .next s
  | ev :: rest =>
    onlyIf (s.mode.mode != .off) s
      (let t := { s with integ := { s.integ with logWaiting := rest } }
       let t := if rest.isEmpty then taskNormal .log t else t
       refresh (if fails then flashFault .log t
         else writeLog ev { t with integ := { t.integ with flashFaults := t.integ.flashFaults.filter (· != .log) } }))

/-- A minute of SYSTIME ends for an event code: what was suppressed of it is one entry (R389). -/
def execLogSuppressed (code : Nat) (s : State) : Res :=
  let n := (s.integ.codeCounts.get code).suppressed
  onlyIf (decide (s.now % (60 * countsPerSecond) = 0)) s
    (let t := { s with integ := { s.integ with codeCounts := s.integ.codeCounts.set code {} } }
     if n = 0 then t else raise .logSuppressed pkg [.w code, .w n] t)

end Sys2Proof.Machine
end

