-- ==== Sys2Proof/Machine/Repair.lean ====
section
/-!
DEFINITION. The commands on faults and units (11 R339, 14 R380, R390, R391): FAULT_QUERY, LOG_READ, FAULT_CLEAR, UNIT_RETIRE, UNIT_RESTORE.
-/
namespace Sys2Proof.Machine

/-! ### FAULT_QUERY (R391) -/

/-- Retired units of a kind on a die, as a mask of `n` local indices. -/
def State.retiredMask (s : State) (k : UnitKind) (d n : Nat) : Nat := maskOf n fun i => s.retired ⟨k, d, i, 0⟩

/-- The mask of the dies on which a bit of the summary is set. -/
def State.summaryDies (s : State) (bit : Nat) : Nat := maskOf 8 fun d => (s.dieSummary d).contains bit

/-- The retired lanes of an outbound link of a die. -/
def State.linkLanesOut (s : State) (d dir : Nat) : Nat := maskOf 8 fun l => s.retired (linkLaneRef d dir l)

/-- The fewest spare rows left in an array of a die. -/
def State.spareRowsMin (s : State) (d : Nat) : Nat := minD 4 ((s.nv.spareRows.cells.filter fun c => c.1 / 112 == d).map (·.2))

/-- Rows of a die remapped since manufacture. -/
def State.rowsRemapped (s : State) (d : Nat) : Nat := (s.nv.remapped.filter fun r => r.1 == d).length

/-- The package summary, SCOPE 0, 128 bytes (R391). -/
def State.packageSummary (s : State) : List Byte :=
  padTo 128 (le 4 s.faultSummary ++ le 1 s.mode.mode.code ++ le 1 (maskOf 8 s.integ.fenced.contains) ++ le 1 s.integ.haltCause ++ zeros 1
    ++ le 2 (maskOf 16 fun i => (s.integ.links.get i).failed) ++ le 2 (maskOf 16 fun i => s.linkLanesOut (i / 2) (i % 2) != 0)
    ++ le 1 (s.summaryDies 5) ++ le 1 (s.summaryDies 6) ++ le 1 (s.summaryDies 7) ++ zeros 1
    ++ ((List.range 8).flatMap fun d => le 4 (s.dieSummaryMask d))
    ++ le 4 s.integ.lastingTotal.toNat ++ le 4 s.nv.logNext.toNat ++ le 8 s.integ.lastChange)

/-- The die detail, SCOPE 1, 256 bytes (R391). -/
def State.dieDetail (s : State) (d : Nat) : List Byte :=
  let x := s.integ.dies.get d
  padTo 256 (le 4 (s.dieSummaryMask d) ++ le 4 (s.retiredMask .lane d 32)
    ++ le 1 (s.retiredMask .spare d 4 + 16 * s.retiredMask .bandTap d 4)
    ++ le 1 (b2n (s.retired (auditRef d)) + 2 * b2n (s.nv.auditCarries.get d).isSome + 4 * b2n (s.front.convs.get (d * 2)).failed
        + 8 * b2n (s.front.convs.get (d * 2 + 1)).failed)
    ++ le 2 (s.retiredMask .exportTap d 16) ++ le 2 (s.front.convs.get (d * 2)).retired ++ le 2 (s.front.convs.get (d * 2 + 1)).retired
    ++ le 2 ((List.range 4).foldl (fun acc c => acc + ((s.replacedPos (d * 4 + c)).getD 15) * 16 ^ c) 0) ++ zeros 2
    ++ le 1 (s.retiredMask .engine d 4) ++ le 1 ((List.range 4).foldl (fun acc e => acc + s.physEngine (d * 4 + e) * 4 ^ e) 0) ++ zeros 2
    ++ le 6 (s.retiredMask .context d 48) ++ zeros 2 ++ le 8 (s.retiredMask .slot d 64) ++ le 8 (s.retiredMask .watchTap d 64)
    ++ le 1 (s.linkLanesOut d 0) ++ le 1 (s.linkLanesOut d 1) ++ le 1 (b2n (s.linkDir d 0).failed + 2 * b2n (s.linkDir d 1).failed)
    ++ le 1 (s.spareRowsMin d) ++ le 4 x.secCount.toNat ++ le 2 x.dedCount.toNat ++ le 2 (s.rowsRemapped d) ++ le 4 x.passCount.toNat
    ++ le 4 x.flitErrRising.toNat ++ le 4 x.flitErrFalling.toNat ++ le 4 x.replays.toNat ++ le 4 x.descCheckFails.toNat
    ++ le 4 x.deliveryCheckFails.toNat ++ le 4 x.lastingDeclared.toNat
    ++ (List.range 7).flatMap fun i => le 1 (min 255 (s.integ.windowPeak.get (d * 8 + i))))

/-- The detail that answers for a die: in SLEEP the one it sent on entry (17 R445). -/
def State.detailOf (s : State) (d : Nat) : List Byte :=
  if s.mode.mode = .sleep then padTo 256 (s.mode.sleepDetail.getD d []) else s.dieDetail d

/-- FAULT_QUERY: the package summary or a die's detail (R391). -/
def execFaultQuery (src : CmdSrc) (s : State) : Res :=
  runCmd .faultQuery src none (fun f s => finishOutput src f (if field f.desc 4 0 8 = 0 then s.packageSummary else s.detailOf (field f.desc 5 0 3)) s) s

/-! ### LOG_READ (R390) -/

/-- A fault-log entry, 96 bytes (R389). -/
def LogEntry.bytes (e : LogEntry) : List Byte :=
  let b := le 4 e.num.toNat ++ le 4 e.boot.toNat ++ le 8 e.tai ++ e.ev.bytes ++ zeros 12
  b ++ le 4 (crc32c b).toNat

/-- What LOG_READ writes: its header, then the entries from FIRST, at most MAX and as many as the buffer holds (R390). -/
def State.logOutput (s : State) (first most : Nat) : List Byte :=
  let log := s.nv.log
  let oldest := (log.head?.map (·.num)).getD s.nv.logNext
  let es := (log.filter fun e => decide (first ≤ e.num.toNat)).take most
  le 4 oldest.toNat ++ le 4 s.nv.logNext.toNat ++ le 2 es.length ++ zeros 6 ++ es.flatMap LogEntry.bytes

/-- LOG_READ (R390). -/
def execLogRead (src : CmdSrc) (s : State) : Res :=
  runCmd .logRead src none (fun f s =>
    finishOutput src f (s.logOutput (field f.desc 4 0 32) (min (field f.desc 8 0 16) ((bufLen f.desc - 16) / 96))) s) s

/-! ### FAULT_CLEAR (R380) -/

/-- A held loop is released and attempts to relock again (02 R57). -/
def releaseLoop (u : UnitRef) (s : State) : State :=
  if u.kind != .clockLoop then s else s.setClk u.die fun c =>
    let l : DieLoop := match u.sub with
      | 0 => .samp
      | 1 => .sys
      | _ => .aud
    if (c.loop l).held then c.setLoop l { c.loop l with held := false, attempt := none } else c

/-- FAULT_CLEAR erases the unit's occurrences of every class and releases a held loop (R380, 11 R339). -/
def execFaultClear (src : CmdSrc) (s : State) : Res :=
  runCmd .faultClear src none (fun f s =>
    let u := unitOf f.desc
    let t := releaseLoop u (eraseOccs u s)
    let t := raise .faultCleared u.die [.w u.kind.type, .w u.die, .w u.loc] t
    finish src f .ok 0 (refresh t)) s

/-! ### UNIT_RETIRE (11 R339, 14 R392) -/

/-- The global index of a unit of `per` a die. -/
def UnitRef.global (u : UnitRef) (per : Nat) : Nat := u.die * per + u.loc

/-- The die's audit band tap is free to take a stream (04 R134). -/
def State.auditFree (s : State) (d : Nat) : Bool :=
  !s.retired (auditRef d) && (s.nv.auditCarries.get d).isNone && (s.taps.audits.get d).replace.isNone

/-- The unit carries work of the active set. -/
def State.unitWorks (s : State) (u : UnitRef) : Bool :=
  let c := s.cfg.active
  match u.kind with
  | .slot => (c.slots.get (u.global 64)).source != .none
  | .context =>
    c.followContexts.contains (u.global 48)
      || (List.range 64).any fun i => decide ((c.slots.get (u.die * 64 + i)).source = .decode) && (c.slots.get (u.die * 64 + i)).context == u.global 48
  | .watchTap => (c.watches.get (u.global 64)).mode != .off
  | .bandTap => (s.taps.bandTaps.get (u.global 4)).assigned
  | .exportTap => (s.taps.exports.get (u.global 16)).dest.isSome
  | .engine => (c.engines.get (s.indexOfPhys u.die u.loc)).cls != .off
  | .spare => (s.replacedPos (u.global 4)).isSome
  | .audit => (s.nv.auditCarries.get u.die).isSome
  | .linkLane => ((List.range 8).filter fun l => !s.retired (linkLaneRef u.die u.loc l)).length == 1
  | .lane | .converter | .slice | .clockLoop | .sramWord => true

/-- A replacement for the unit is left, or it carries nothing that needs one (11 R339). -/
def State.replaceable (s : State) (u : UnitRef) : Bool :=
  !s.unitWorks u || (match u.kind with
    | .lane => !s.unassayed (laneCluster (u.global 32))
    | .bandTap => s.auditFree u.die
    | .exportTap => (freeExport s u.die s.taps.exports).isSome || s.auditFree u.die
    | .converter =>
      let c := s.front.courses.get (s.courseOf (u.global 2))
      c.mode = .off || c.leader != some u.loc || s.convUsable (s.convOf (s.courseOf (u.global 2)) (1 - u.loc))
    | .slice => (s.front.convs.get (u.global 2)).spareSlice.isSome
    | .engine => (s.freeEngine u.die).isSome
    | _ => false)

/-- A unit whose work stops with it, as after an unmasked fault (11 R339, 05 R163). -/
def retireForced (u : UnitRef) (s : State) : State :=
  match u.kind with
  | .bandTap => matchZeroSpans s.now (retirePlain u 2 s)
  | .exportTap => matchZeroSpans s.now (retirePlain u 2 (s.setExport (u.global 16) fun x => { x with dest := none }))
  | .spare =>
    let s := { s with nv := { s.nv with replaced := s.nv.replaced.set (u.global 4) none } }
    retireSpare (u.global 4) s
  | .audit =>
    matchZeroSpans s.now (retireAudit u.die { s with nv := { s.nv with auditCarries := s.nv.auditCarries.set u.die none } })
  | .linkLane => failLink u.die u.loc (retireLinkLane u s)
  | _ => retirePlain u 2 s

/-- The unit is retired as for a lasting fault, with the replacement of its class; true while the replacement waits for its splice edge or its converter (R392, 11 R339). -/
def retireByCommand (u : UnitRef) (s : State) : Bool × State :=
  match u.kind with
  | .lane => (false, replaceLane (u.global 32) s)
  | .spare => (false, retireSpare (u.global 4) s)
  | .bandTap | .exportTap =>
    if s.unitWorks u then (true, s.setAudit u.die fun a => { a with replace := some u }) else (false, retirePlain u 2 s)
  | .audit => (false, retireAudit u.die s)
  | .converter =>
    let k := u.global 2
    let t := failConverter k .command s.now (retireUnit u s)
    let waits := match (t.front.courses.get (t.courseOf k)).splice with
      | some (.fault x ..) => x != u.loc
      | _ => false
    (waits, t)
  | .slice => (false, retireSlice (u.global 2) u.sub s)
  | .engine => (false, retireEngine u.die u.loc 2 s)
  | .context | .slot => (false, retireAudio u s)
  | .linkLane => (false, retireLinkLane u s)
  | .watchTap | .clockLoop | .sramWord => (false, retirePlain u 2 s)

/-- UNIT_RETIRE retires a physical unit (11 R339). -/
def execUnitRetire (src : CmdSrc) (s : State) : Res :=
  runCmd .unitRetire src none (fun f s =>
    let u := unitOf f.desc
    if !s.replaceable u then
      (if bitAt f.desc 9 0 then
        (match u.kind with
         | .converter | .slice | .engine | .context | .slot => finish src f .ok 0 (retireByCommand u s).2
         | _ => finish src f .ok 0 (retireForced u s))
       else finish src f .resourceBusy 0 s)
    else
      let r := retireByCommand u s
      if r.1 then await src f (.retire u) r.2 else finish src f .ok 0 r.2) s

/-! ### UNIT_RESTORE (R381, 11 R339) -/

/-- A unit that UNIT_RESTORE can return: one that is retired, or a failed converter (03 R85). -/
def State.restorable (s : State) (u : UnitRef) : Bool :=
  s.retired u || (decide (u.kind = .converter) && (s.front.convs.get (u.global 2)).failed)

/-- The converter's die has an incomplete hop and has not re-phased since (02 R63). -/
def State.hopHolds (s : State) (d : Nat) : Bool :=
  let h := (s.clk.get d).hop
  decide (h.phase = .incomplete) || (decide (h.phase = .locked) && h.late)

/-- A retirement lifted: UNIT_RESTORED with cause command. -/
def restorePlain (u : UnitRef) (s : State) : State :=
  refresh (raise .unitRestored u.die [.w u.kind.type, .w u.die, .w u.loc, .w 2] (unretireUnit u s))

/-- A retired tap takes its stream back, and the audit rotation goes on. -/
def restoreTap (u : UnitRef) (s : State) : State :=
  let carried := s.nv.auditCarries.get u.die == some u
  let s := if carried then { s with nv := { s.nv with auditCarries := s.nv.auditCarries.set u.die none } } else s
  matchZeroSpans s.now (restorePlain u s)

/-- A restored slice returns to the rotation as a spare, on probation for two shadow phases (03 R91); on a converter that lacks another slice it takes that place. -/
def restoreSlice (k i : Nat) (s : State) : State :=
  let s := unretireUnit (sliceRef k i) s
  let s := s.setConv k fun c =>
    let left := clearBit c.retired i
    if left = 0 then { c with retired := 0, spareSlice := some i, probation := some (i, 2), rotStandin := false } else { c with retired := left }
  refresh (raise .sliceRestored (k / 2) [.w k, .w i] s)

/-- UNIT_RESTORE runs a retired unit's checks and returns it if they pass; a converter without a spare, which can make no rotation, passes at once: DESIGN CHOICE (notes/assumptions/50.md); `pass`: the outcome of the vectors or tests of a unit that has no checks of its own in a schedule (11 R339, 03 R91, R474, 05 R165, 06 R195, 08 R248). -/
def execUnitRestore (src : CmdSrc) (pass : Bool) (s : State) : Res :=
  runCmd .unitRestore src none (fun f s =>
    let u := unitOf f.desc
    let plain := fun (t : State) => if pass then finish src f .ok 0 t else finish src f .ok 1 s
    if !s.restorable u then finish src f .badParam 6 s
    else match u.kind with
      | .lane =>
        let l := u.global 32
        let c := laneCluster l
        if s.replacedPos c == some (l % 8) && s.spareUp c then await src f (.restore u) (s.setSpare c fun x => { x with restoreAsked := true })
        else if !pass then finish src f .ok 1 (raise .laneRestored u.die [.w l, .w 1, .q 0] s)
        else if s.replacedPos c == some (l % 8) then finish src f .ok 0 (restoreLane l s)
        else finish src f .ok 0 (refresh (raise .laneRestored u.die [.w l, .w 0, .q (nextOf countsPerBlock s.now)] (unretireUnit u s)))
      | .engine => await src f (.restore u) (s.setRegion (u.die * 2 + u.loc / 2) fun x => { x with restore := some (u.loc, false) })
      | .converter =>
        let k := u.global 2
        if s.hopHolds u.die then finish src f .unitRetired 0 s
        else
          let t := (powerConv k s).setConv k fun c => 
            { c with failed := true, sampling := true, restoring := true, rotSteps := 0, rotSuspended := false
                     rotPosition := 0, rotStandin := false, rotMismatch := 0, rotStart := s.now }
          if (s.front.convs.get k).spareSlice.isNone then endConvRestore k none (await src f (.restore u) t) else await src f (.restore u) t
      | .slice =>
        let t := restoreSlice (u.global 2) u.sub s
        let c := t.front.convs.get (u.global 2)
        if c.sampling && c.probation.isSome then await src f (.restore u) t else finish src f .ok 0 t
      | .bandTap | .exportTap => plain (restoreTap u s)
      | .spare => plain ((restorePlain u s).setSpare (u.global 4) fun _ => { rotStart := s.now })
      | .audit | .context | .slot | .watchTap | .linkLane | .clockLoop | .sramWord => plain (restorePlain u s)) s

end Sys2Proof.Machine
end

