-- ==== Sys2Proof/Machine/Modes.lean ====
section
/-!
DEFINITION. Operating modes (17): MODE_SET, the ticks at which reception begins and ends, SLEEP, SYSTEM_CAL, the alert latches.
-/
namespace Sys2Proof.Machine

/-! ### What is in force outside the reception modes (R436, R441) -/

/-- What stays of a set in the modes without reception: plan, routes, filters and port entries; every unit is off (R436). -/
def ConfigSet.idleSet (c : ConfigSet) : ConfigSet :=
  { ConfigSet.initial with plan := c.plan, routes := c.routes, filters := c.filters, outPorts := c.outPorts, inPorts := c.inPorts }

/-- What WATCH keeps of a set on a part of `n` dies: the watch taps in mode FM and the watch engines, with their lanes, clusters and courses (R441). -/
def ConfigSet.watchSet (c : ConfigSet) (n : Nat) : ConfigSet :=
  let dies := List.range n
  let clusters := dies.flatMap c.watchClusters
  { c.idleSet with
    clusters := clusters.foldl (fun t k => t.set k (c.clusters.get k)) (Tbl.empty {})
    courses := (clusters.map fun k => (c.clusters.get k).course).foldl (fun t j => t.set j (c.courses.get j)) (Tbl.empty {})
    watches := ((List.range (64 * n)).filter c.watchKept).foldl (fun t w => t.set w (c.watches.get w)) (Tbl.empty {})
    lanes := (dies.flatMap c.watchLanes).foldl (fun t l => t.set l (c.lanes.get l)) (Tbl.empty {})
    engines := (dies.filterMap c.watchEngine).foldl (fun t e => t.set e (c.engines.get e)) (Tbl.empty {}) }

/-- The set in force in a mode, of the active set `c` (R436). -/
def ConfigSet.forceSet (c : ConfigSet) (n : Nat) (m : OpMode) : ConfigSet :=
  if m.receiving then c else if m = .watch then c.watchSet n else c.idleSet

/-- Domains after an exit: those of the mode, and AUDIO until the ports of the die have stopped (R436, R440). -/
def State.exitDomains (m : OpMode) (s : State) (d : Nat) : Nat :=
  s.modeDomains m d ||| (if s.portsQuiet d then 0 else 2 ^ 13)

/-! ### A change takes effect -/

/-- A fade in progress reaches beyond the present instant (R440, 07 R218). -/
def State.fadeRuns (s : State) : Bool :=
  (List.range (s.dies * 16)).any fun f => match (s.audio.follows.get f).fade with
    | some x => x.started && decide (s.now < x.f1)
    | none => false

/-- The conditions of R442 that units hold at present. -/
def State.heldAlerts (s : State) : List AlertCond :=
  let c := s.cfg.active
  ((List.range (64 * s.dies)).filter fun w => (c.watches.get w).mode = .fm).flatMap (fun w =>
    let f := (s.lanes.watches.get w).rds.fields
    (if f.pty.acc = some 31 then [AlertCond.pty31 w] else []) ++ (if f.ta.acc = some 1 && f.tp.acc = some 1 then [AlertCond.ta w] else []))
  ++ (List.range (4 * s.dies)).flatMap fun e =>
    ((c.engines.get e).positions.filter fun p => !(s.signal e p).alarms.isEmpty).map fun p => if (c.engines.get e).cls = .dab then AlertCond.dab e p else .drm e p

/-- Alert conditions as a new mode counts them (R442). -/
def reviewAlerts (s : State) : State :=
  let held := s.heldAlerts
  let s := s.mode.alerts.foldl (fun acc a => setAlert a (held.contains a) acc) s
  held.foldl (fun acc a => setAlert a true acc) s

/-- The new mode is in force: its code, the wake latch, the alerts; the MODE_SET that waits completes with the code (R437, R438, R442). -/
def modeInForce (m : OpMode) (cause : ModeCause) (s : State) : State :=
  let was := s.mode.mode
  let s := setMode m cause { s with mode := { s.mode with change := none, wakeLatched := s.mode.wakeLatched && was != .watch } }
  let s := refresh (seeUnits (reviewAlerts s))
  completeWait (fun w => w = .mode) .ok s.mode.mode.code s

/-- The mode code of a target: within the reception modes that of R386 (R437, R452). -/
def State.targetCode (s : State) (m : OpMode) : OpMode :=
  if m = .run then receptionCode { s with mode := { s.mode with mode := .run } } else m

/-- The change leads out of the units in force (R440). -/
def ModeChange.isExit (c : ModeChange) (m : OpMode) : Bool := (m.receiving || m = .watch) && !c.target.receiving

/-- The tick at which reception, or WATCH from IDLE, comes into force: units start as if a COMMIT had changed them; RUN and DIAGNOSTIC change only the code between them (R439, R452). -/
def execReceptionEntryTick (s : State) : Res :=
  match s.mode.change with
  | none => .next s
  | some c =>
    onlyIf (!c.isExit s.mode.mode && decide (c.tick * countsPerTick ≤ s.now)) s
      (let t := if s.mode.mode.receiving then s
         else bringSet (if c.target.receiving then State.setDomains else State.exitDomains c.target) s.cfg.active (s.cfg.committed.forceSet s.dies c.target) [] s
       modeInForce (t.targetCode c.target) c.cause t)

/-- Waits that the end of reception ends: ports, captures, calibration steps, restores (R440). -/
def endsWithReception : Wait → Bool
  | .portStart .. | .portStop .. | .capture .. | .level _ | .restore _ => true
  | _ => false

/-- Ports stop as if PORT_STOP had named this instant (R440). -/
def stopAllPorts (s : State) : State :=
  (List.range s.dies).foldl (fun acc d => (acc.portsOf d).foldl (fun acc p =>
    stopPortAt p acc.now (acc.setPort p fun x => { x with startAt := none, stopAt := none })) acc) s

/-- Captures that have not started go; the others end (R440, 10 R308). -/
def stopCaptures (s : State) : State :=
  let caps := ((List.range 64).map (· + 32)).foldl (fun (t : Tbl (Option Capture)) r => if (t.get r).any (!·.started) then t.set r none else t) s.link.captures
  endCaptures true { s with link := { s.link with captures := caps } }

/-- Audit taps stop with their domain; a replacement that waits is made (04 R134). -/
def stopAudits (s : State) : State :=
  (List.range s.dies).foldl (fun acc d =>
    let acc := match (acc.taps.audits.get d).replace with
      | some u => completeWait (fun w => w = .retire u) .ok 0 (replaceTap u acc)
      | none => acc
    if maskBit (acc.domains.get d).on 9 then acc else acc.setAudit d fun a => { mismatches := a.mismatches }) s

/-- Of each course that WATCH keeps, only the leading converter stays powered (R441). -/
def keepLeaders (s : State) : State :=
  (List.range s.dies).foldl (fun acc j =>
    let c := acc.front.courses.get j
    match c.mode, c.leader with
    | .off, _ | _, none => acc
    | _, some x => unpowerConv (acc.convOf j (1 - x)) (acc.setCourse j fun c => { c with standbyReady := false, attributing := none, contested := false })) s

/-- The exit tick: streams that the new mode does not keep end, ports stop, captures and calibration steps end (R440). A fade in progress holds it until its F1. -/
def execReceptionExitTick (s : State) : Res :=
  match s.mode.change with
  | none => .next s
  | some c =>
    onlyIf (c.isExit s.mode.mode && decide (c.tick * countsPerTick ≤ s.now) && !s.fadeRuns) s
      (let t := stopCaptures (stopAllPorts (abortWaits endsWithReception s))
       let t := (List.range t.dies).foldl (fun acc n => endLevelStep n acc) t
       let t := bringSet (State.exitDomains c.target) t.cfg.active (t.cfg.committed.forceSet t.dies c.target) [] t
       let t := if c.target = .watch then keepLeaders t else t
       modeInForce c.target c.cause (stopAudits t))

/-! ### SYSTEM_CAL, SLEEP, UPDATE (R444, R445, 15 R399) -/

/-- Into SYSTEM_CAL: both converters of every course are powered (R444). -/
def enterSystemCal (s : State) : State :=
  let s := applyDomains (State.modeDomains · .systemCal) s
  (List.range (2 * s.dies)).foldl (fun acc k => if acc.convUsable k then powerConv k acc else acc) s

/-- Out of SYSTEM_CAL: injection switches Off, converters off (R444, 12 R358). -/
def leaveSystemCal (s : State) : State :=
  let s := (List.range s.dies).foldl (fun acc n => setInject n 0 acc) s
  let s := (List.range (2 * s.dies)).foldl (fun acc k => unpowerConv k acc) s
  applyDomains (State.modeDomains · .idle) { s with cal := { s.cal with antDirect := [] } }

/-- Into SLEEP: each die's fault detail to the anchor die, then every domain off but die 0's CONTROL (R445). -/
def enterSleep (s : State) : State :=
  let s := { s with mode := { s.mode with sleepDetail := (List.range s.dies).map s.dieDetail, lastAccess := s.now, clocksRun := true } }
  applyDomains (State.modeDomains · .sleep) s

/-- Out of SLEEP: the domains of IDLE return (R445). -/
def leaveSleep (s : State) : State :=
  applyDomains (State.modeDomains · .idle) { s with mode := { s.mode with sleepDetail := [], clocksRun := true } }

/-! ### MODE_SET (R437, R438) -/

/-- The targets that MODE_SET may select (R437); RUN stands for the reception modes. -/
def State.mayGo (s : State) (target : OpMode) : Bool :=
  match s.mode.mode with
  | .idle => [.run, .watch, .systemCal, .diagnostic, .sleep].contains target
  | .run | .runDegraded | .holdover => [.idle, .watch, .diagnostic].contains target
  | .watch => [.idle, .run].contains target
  | .systemCal | .sleep => target == .idle
  | .update => s.sec.update.any (·.from_ == target)
  | .diagnostic => [.idle, .run].contains target
  | .off | .boot | .recovery | .halted => false

/-- A change without a tick takes effect at once. -/
def changeNow (target : OpMode) (s : State) : State :=
  match s.mode.mode, target with
  | .idle, .systemCal => enterSystemCal s
  | .idle, .sleep => enterSleep s
  | .systemCal, _ => leaveSystemCal s
  | .sleep, _ => leaveSleep s
  | .update, _ => abandonUpdate 0 s
  | _, _ => s

/-- The change has a tick: it brings units into force, or ends them (R439, R440). -/
def State.ticked (s : State) (target : OpMode) : Bool := s.mode.mode.receiving || s.mode.mode = .watch || target.receiving || target = .watch

/-- What MODE_CHANGED names as the cause of a MODE_SET (R438). -/
def CmdSrc.cause : CmdSrc → ModeCause
  | .ring _ => .command
  | .mailbox => .mailbox

/-- The digital domains that WATCH will need are switched on before its tick (R435, R441). -/
def powerWatch (s : State) : State :=
  let w := { s with cfg := { s.cfg with active := s.cfg.committed.forceSet s.dies .watch } }
  (List.range s.dies).foldl (fun acc d => powerMask d (clearBit (clearBit (w.watchDomains d) 3) 4) acc) s

/-- MODE_SET (R438). -/
def execModeSet (src : CmdSrc) (s : State) : Res :=
  runCmd .modeSet src none (fun f s =>
    let m := (OpMode.ofCode (field f.desc 4 0 4)).getD .off
    let target := if m.reception then OpMode.run else m
    let code := s.mode.mode.code
    let cause := src.cause
    if src = .mailbox && (List.range 16).any (fun r => (s.link.rings.get r).enable) then finish src f .denied 0 s
    else if m = s.mode.mode || (m.reception && s.mode.mode.reception) then finish src f .ok code s
    else if !s.mayGo target then finish src f .stateRefused code s
    else if s.mode.change.isSome then finish src f .resourceBusy 0 s
    else if s.cfg.commit.isSome && !target.receiving then finish src f .resourceBusy 0 s
    else if s.ticked target then
      let t := if target.receiving && !s.mode.mode.receiving then beginReception target cause (some src) s
        else
          let t := { s with mode := { s.mode with change := some ⟨target, s.changeTick, cause, some src⟩ } }
          if s.mode.mode = .idle then powerWatch t else t
      await src f .mode t
    else
      let t := modeInForce target cause (changeNow target s)
      finish src f .ok t.mode.mode.code t) s

/-! ### Latches and the clocks of SLEEP (R442, R445) -/

/-- A write of 1 to ALERT_LATCHED clears it while no condition is in force (R442). -/
def execAlertLatchedClear (s : State) : Res :=
  onlyIf s.barUp s
    (let t := hostAccess s
     if s.mode.alerts.isEmpty then { t with mode := { t.mode with alertLatched := false } } else t)

/-- A write of 1 to WAKE_LATCHED clears it (R442). -/
def execWakeLatchedClear (s : State) : Res :=
  onlyIf s.barUp s
    (let t := hostAccess s
     { t with mode := { t.mode with wakeLatched := false } })

/-- Die 0 stops its CONTROL clocks after 1 s of SLEEP without access or command (R445). -/
def execSleepClockStop (s : State) : Res :=
  onlyIf (cmdSources.all (fun src => (s.execOf src).isNone) && s.mb.mboxCmd.isNone && decide (s.mode.mode = .sleep) && s.mode.clocksRun && decide (s.mode.lastAccess + countsPerSecond ≤ s.now)
      && decide (s.mb.lastTransaction + countsPerSecond ≤ s.now)) s
    { s with mode := { s.mode with clocksRun := false }, mb := { s.mb with awake := false } }

/-- A doorbell write or BAR0 access restarts the clocks (R445). -/
def execSleepWakeAccess (s : State) : Res :=
  onlyIf (decide (s.mode.mode = .sleep) && !s.mode.clocksRun) s { s with mode := { s.mode with clocksRun := true, lastAccess := s.now } }

end Sys2Proof.Machine
end

