-- ==== Sys2Proof/Machine/Canon.lean ====
section
/-!
DEFINITION. The byte images of staged entries (11 R330 to R337) and the canonical form of the active set, whose SM3 is its digest (15 R403).
-/
namespace Sys2Proof.Machine

/-- The set bits of a byte from its least significant. -/
def bitsByte (bs : List Bool) : Nat := (bs.zipIdx).foldl (fun acc (b, i) => if b then acc + 2 ^ i else acc) 0

/-- A course entry, 12 bytes (R330). -/
def CourseEntry.image (e : CourseEntry) : List Byte :=
  le 1 (e.mode.code + 4 * b2n e.preferB + 8 * b2n e.agcOn) ++ leInt 1 e.gain ++ leInt 1 e.gainMax ++ leInt 1 e.gainMin ++ leInt 1 e.attack
  ++ leInt 1 e.target ++ leInt 1 e.release ++ zeros 1 ++ le 2 e.hold ++ le 2 e.releaseInterval

/-- A route entry of a ring, 32 bytes (R330). -/
def RouteEntry.image (ring : Nat) (e : RouteEntry) : List Byte :=
  le 1 ring ++ le 1 e.die ++ le 1 ((e.cls.map DelClass.code).getD 0) ++ zeros 1 ++ le 4 e.laneMask ++ le 8 e.watchMask ++ le 8 e.slotMask
  ++ le 2 e.followMask ++ le 1 (e.engineMask + 16 * b2n e.inputPort) ++ zeros 5

/-- Bytes 4 to 13 of STAGE_CLUSTER with the mask of the watch-tap entries carried (R331). -/
def ClusterEntry.image (c watchMask : Nat) (e : ClusterEntry) : List Byte :=
  le 2 c ++ le 1 (b2n e.btOn + 2 * e.segCode + 16 * b2n e.holdCover) ++ le 1 e.course ++ le 4 e.fBt ++ le 2 watchMask

/-- A watch-tap entry, 136 bytes (R331). -/
def WatchEntry.image (e : WatchEntry) : List Byte :=
  le 1 (e.mode.code + 4 * b2n e.rateHigh + 8 * e.period) ++ le 1 e.freqCount ++ le 1 e.dwell ++ le 1 (e.bank + 8 * e.filter) ++ zeros 4
  ++ padTo 128 (e.freqs.flatMap (le 4))

/-- Bytes 4 to 29 of STAGE_LANE (R332). -/
def LaneEntry.image (l : Nat) (e : LaneEntry) : List Byte :=
  le 2 l ++ le 1 (e.mode.code + 8 * e.branchCount) ++ le 1 (e.measPeriod + 4 * e.syncBw + 16 * b2n e.amssOn + 32 * e.deemph + 128 * b2n e.rdsNrsc)
  ++ le 4 e.fLane ++ le 1 (e.bank + 8 * e.filter) ++ zeros 1 ++ le 2 e.phaseDelay ++ le 4 e.coarseDelay
  ++ padTo 6 (e.branches.flatMap (le 2)) ++ le 1 e.audioBw ++ le 1 e.devLimit ++ le 1 e.pilotMin
  ++ le 1 (e.rdsStreams + 16 * e.correctMax + 64 * e.acceptMax)

/-- Fields of `w` bits each, packed from bit 0. -/
def packBits (w : Nat) (vs : List Nat) : Nat := (vs.zipIdx).foldl (fun acc (v, i) => acc + v * 2 ^ (w * i)) 0

/-- Bytes 4 to 43 of STAGE_ENGINE (R333). -/
def EngineEntry.image (g : Nat) (e : EngineEntry) : List Byte :=
  le 2 g ++ le 1 (e.cls.code + 4 * e.ctrlDelivery + 16 * b2n e.tiiOn + 32 * e.tiiPeriod + 128 * b2n e.measLong) ++ le 1 e.freqSearch
  ++ le 6 (packBits 6 (e.feeds.map fun f => match f with
      | some l => l + 32
      | none => 0))
  ++ le 3 (packBits 3 e.drmModes) ++ leInt 1 e.pathThreshold ++ le 1 e.tiiThreshold ++ zeros 1 ++ le 8 e.auMask ++ le 8 e.dataMask ++ le 8 e.padMask

/-- Bytes 4 to 24 of STAGE_SLOT (R334). -/
def SlotEntry.image (x : Nat) (e : SlotEntry) : List Byte :=
  le 2 x ++ le 1 (e.source.code + 4 * e.channels + 16 * b2n e.measLong + 32 * e.classify + 128 * b2n e.integReset) ++ le 1 e.muteClasses
  ++ le 2 e.srcIndex ++ le 1 e.srcPos ++ le 1 e.srcSub ++ le 2 e.context ++ le 2 e.slotDelay ++ leInt 2 e.silenceLevel ++ le 2 e.silenceMin
  ++ le 1 e.matchKind ++ le 1 e.matchChannel ++ le 1 e.matchRange ++ le 1 e.matchWindow ++ le 1 e.matchMin

/-- Bytes 4 to 31 of STAGE_PORT (R335). -/
def PortEntry.image (p : Nat) (input : Bool) (e : PortEntry) : List Byte :=
  le 1 p ++ le 1 (b2n input + 2 * b2n e.bclkFast + 4 * b2n e.amclk + 8 * e.amclkNom + 32 * b2n e.autoRate + 64 * b2n e.gapSilence)
  ++ le 1 e.glitchWidth ++ le 1 e.sampleDelay ++ le 2 e.preRoll ++ le 2 e.postRoll ++ le 1 e.lineMask ++ zeros 3 ++ le 16 e.mask

/-- A member of a follow set, 8 bytes (R336). -/
def FollowMember.image (m : FollowMember) : List Byte :=
  le 2 (m.lane.getD 0) ++ le 2 (m.engine.getD 0) ++ le 1 m.position ++ le 1 (b2n m.lane.isSome + 2 * b2n m.engine.isSome + 4 * b2n m.context.isSome)
  ++ le 2 (m.context.getD 0)

/-- A station of a follow set, 12 bytes (R336). -/
def FollowStation.image (x : FollowStation) : List Byte := le 4 x.freq ++ le 1 (x.sigType + 8 * b2n x.trusted) ++ zeros 3 ++ le 4 x.ident

/-- The buffer of STAGE_FOLLOW, 264 bytes (R336). -/
def FollowEntry.image (e : FollowEntry) : List Byte :=
  le 1 (bitsByte [e.enable, e.linkSoft, e.allowUnaligned, e.equalPower]) ++ le 1 e.autoSources ++ le 1 e.refType ++ le 1 e.pref ++ le 4 e.refId
  ++ le 2 e.piMask ++ le 2 e.latency ++ le 1 e.alignPages ++ le 1 e.corrWindow ++ le 1 e.corrMin ++ le 1 e.margin ++ le 1 e.hysteresis
  ++ le 1 e.badHold ++ le 1 e.prefHold ++ le 1 e.betterHold ++ le 2 e.minInterval ++ le 1 e.standbyMin ++ le 1 e.candDwell ++ le 2 e.verifyAge
  ++ le 1 e.fade ++ le 1 e.fadeFast ++ le 2 e.fmLevelMin ++ le 2 e.amLevelMin ++ le 2 e.digLevelMin ++ leInt 2 e.mpRef ++ le 2 e.merMin
  ++ le 1 e.watches.length ++ le 1 e.statics.length ++ padTo 5 (e.filters.flatMap (le 1)) ++ zeros 7
  ++ padTo 32 (e.members.flatMap FollowMember.image) ++ padTo 24 (e.watches.flatMap (le 2)) ++ e.initial.image
  ++ padTo 144 (e.statics.flatMap FollowStation.image)

/-- One filter in the buffer format of STAGE_BANK (R337). -/
def Filter.image (f : Filter) : List Byte := le 2 f.length ++ zeros 2 ++ f.coefs.flatMap (leInt 4)

/-- The canonical form of a set on a part of `n` dies with `inp` input ports, its routes those of `routeDie` (15 R403). -/
def ConfigSet.canonical (c : ConfigSet) (n inp : Nat) : List Byte :=
  le 1 (c.plan + 4) ++ le 1 0xFF ++ le 1 64 ++ ((List.range 8).flatMap fun j => (c.courses.get j).image)
  ++ ((List.range 64).flatMap fun r => (c.routes.get (r + 32)).image (r + 32))
  ++ ((List.range (n * 4)).flatMap fun k => (c.clusters.get k).image k 0xFFFF ++ (List.range 16).flatMap fun i => (c.watches.get (k * 16 + i)).image)
  ++ ((List.range (n * 32)).flatMap fun l => (c.lanes.get l).image l)
  ++ ((List.range (n * 4)).flatMap fun g => (c.engines.get g).image g)
  ++ ((List.range (n * 64)).flatMap fun x => (c.slots.get x).image x)
  ++ ((List.range n).flatMap fun p => (c.outPorts.get p).image p false)
  ++ ((List.range inp).flatMap fun p => (c.inPorts.get p).image p true)
  ++ ((List.range (n * 16)).flatMap fun f => le 2 f ++ (c.follows.get f).image)
  ++ (List.range (n * 8)).flatMap fun b => (List.range 32).flatMap fun f => (c.filters.get (b * 32 + f)).image

/-- ACTIVE_DIGEST: SM3 over the canonical form of the active set (15 R403). -/
def State.activeDigest (s : State) : List Byte := padTo 32 (Config.sm3 (s.cfg.committed.canonical s.dies s.part.inPorts))

end Sys2Proof.Machine
end

