-- ==== Sys2Proof/Machine/Security.lean ====
section
/-!
DEFINITION. Secure boot's acceptance of images, hallmark leaves, seals and keys, anti-rollback, the debug port (15). SM3 and SM2 are uninterpreted (notes/assumptions/5.md).
-/
namespace Sys2Proof.Machine

/-! ### Images -/

/-- Bytes `a` to `a + n − 1`. -/
def slice (bs : List Byte) (a n : Nat) : List Byte := padTo n (bs.drop a)

/-- All bytes of a span are 0. -/
def allZero (bs : List Byte) (a n : Nat) : Bool := (slice bs a n).all fun b => b == 0

/-- The checks of R396 that boot and UPDATE_FINISH share. -/
def State.imageSound (s : State) (img : List Byte) : Bool :=
  let v := s.nv.sec
  field img 0 0 32 == 0x5044494D && field img 4 0 16 == 1
  && allZero img 7 1 && allZero img 13 3 && allZero img 28 4 && allZero img 320 192
  && decide (field img 6 0 8 ≤ 1) && decide (field img 12 0 8 ≤ 64)
  && field img 16 0 32 % 4 == 0 && decide (field img 16 0 32 ≤ 8388096) && img.length == 512 + field img 16 0 32
  && Config.sm3 (slice img 64 64) == v.vendorHash
  && Config.sm2Verify (slice img 64 64) (Config.sm3 (slice img 0 192)) (slice img 192 64)
  && Config.sm3 (img.drop 512) == slice img 32 32
  && (field img 20 0 64 == 0 || field img 20 0 64 == v.serial.toNat)
  && decide (v.rollback ≤ field img 12 0 8)
  && (match v.ownerHash with
      | some h => Config.sm3 (slice img 128 64) == h && Config.sm2Verify (slice img 128 64) (Config.sm3 (slice img 0 192)) (slice img 256 64)
      | none => true)

/-- An image that the ROM boots: sound, and firmware (R396). -/
def State.imageBoots (s : State) (img : List Byte) : Bool := s.imageSound img && field img 6 0 8 == 0

/-- An owner enrolment: sound, names the part, signed by the key it enrols (R400). -/
def State.enrols (s : State) (img : List Byte) : Bool :=
  s.imageSound img && field img 6 0 8 == 1 && field img 20 0 64 == s.nv.sec.serial.toNat
  && Config.sm2Verify (slice img 128 64) (Config.sm3 (slice img 0 192)) (slice img 256 64)

/-- The slot of an image (R395). -/
def NvSec.slot (v : NvSec) (b : Bool) : ImageSlot := if b then v.slotB else v.slotA

/-- FW_VERSION of a slot, 0 where it is not valid (11 R340). -/
def ImageSlot.version (x : ImageSlot) : Nat := if x.valid then field x.image 8 0 32 else 0

/-- An image's digest, 0 where the slot is not valid (R396, R404). -/
def ImageSlot.digest (x : ImageSlot) : List Byte := if x.valid then padTo 32 (Config.sm3 x.image) else zeros 32

/-! ### Anti-rollback -/

/-- Set `n` more bits of the counter. Which of the bits not set is open: free values from `k` on choose (R398, notes/assumptions/8.md). -/
def setCounterBits : Nat → Nat → W64 → W64
  | 0, _, m => m
  | n + 1, k, m =>
    let clear := (List.range 64).filter fun i => !m.getLsbD i
    setCounterBits n (k + 1) (m ||| BitVec.ofNat 64 (2 ^ clear.getD (Config.freeValue k % clear.length) 0))

/-- After 24 h of SYSTIME the counter is raised to the running image's level (R398). -/
def execAntiRollbackRaise (s : State) : Res :=
  let x := s.sec
  onlyIf (decide (x.stage = .done) && decide (s.mode.mode ≠ .recovery) && decide (s.mode.mode ≠ .halted) && decide (s.mode.mode ≠ .off)
      && decide (x.bootedAt + 86400 * countsPerSecond ≤ s.now) && decide (s.nv.sec.rollback < x.fwLevel)) s
    (let n := x.fwLevel - s.nv.sec.rollback
     raise .rollbackRaised pkg [.w x.fwLevel]
       { s with freeCount := s.freeCount + n, nv := { s.nv with sec := { s.nv.sec with rollbackBits := setCounterBits n s.freeCount s.nv.sec.rollbackBits } } })

/-! ### Leaves (R406, R407) -/

/-- The notes of a unit in an interval. -/
def HallAcc.of (a : HallAcc) (stop : Nat) (u : HallUnit) (tag : NoteTag) : List HallNote :=
  a.notes.filter fun n => n.kind == u.kind && n.index == u.index && n.position == u.position && decide (n.tag = tag)
    && decide (a.start ≤ n.at_) && decide (n.at_ < stop)

/-- SM3 over the bytes of notes, in the order in which they were formed. -/
def noteHash (ns : List HallNote) : List Byte := padTo 32 (Config.sm3 (ns.flatMap (·.bytes)))

/-- Events of one name in an interval whose first item is `x`. -/
def HallAcc.eventsOf (a : HallAcc) (n : EvName) (x : Nat) : List Ev :=
  a.events.filter fun e => decide (e.name = n) && e.args.head? == some (.w x)

/-- The union of flags and the sum of a number over period notes. -/
def flagUnion (ns : List HallNote) (i : Nat) : Nat := ns.foldl (fun acc n => acc ||| (n.vals.getD i 0).toNat) 0
def sumOf (ns : List HallNote) (i : Nat) : Nat := ns.foldl (fun acc n => acc + (n.vals.getD i 0).toNat) 0

/-- A leaf record: its head, and its body cut or filled to LENGTH (R407). -/
def leafRecord (u : HallUnit) (len : Nat) (body : List Byte) : List Byte :=
  padTo len (le 1 0x41 ++ le 1 u.kind ++ le 2 len ++ le 2 u.index ++ body)

/-- The package's leaf. -/
def State.packageLeaf (s : State) (a : HallAcc) (stop : Nat) : List Byte :=
  leafRecord ⟨0, 0, 0⟩ 96
    (le 1 s.cfg.active.plan ++ zeros 1 ++ le 4 a.faultUnion ++ le 2 a.modesSeen ++ zeros 2 ++ le 4 a.genStart ++ le 4 (s.configGenAt stop)
      ++ le 4 a.events.length ++ zeros 4 ++ s.activeDigest ++ padTo 32 (Config.sm3 (a.events.flatMap Ev.bytes)))

/-- The accepted identifier of a lane: PI, or AMSS SID. -/
def State.laneIdent (s : State) (l : Nat) : Option Nat :=
  let d := s.lanes.demods.get l
  if (s.cfg.active.lanes.get l).mode.am then (if d.amssSidValid then some d.amssSid else none) else d.rds.fields.pi.acc

/-- A lane's leaf. ID_CHANGES: changes of the accepted PI or of the AMSS identifier. RF_MEAN: the level of the mean power over the interval's valid samples; RF_MIN and RF_MAX: the extremes of its periods. -/
def State.laneLeaf (s : State) (a : HallAcc) (stop : Nat) (u : HallUnit) : List Byte :=
  let e := s.cfg.active.lanes.get u.index
  let ns := a.of stop u .period
  let id := s.laneIdent u.index
  let piChanges := (a.events.filter fun x => decide (x.name = .rdsPiChange) && x.args.take 2 == [EvArg.w 0, EvArg.w u.index]).length
  let changes := piChanges + (a.of stop u .idChange).length
  let valid := sumOf ns 1
  let heard := ns.filter fun n => decide (0 < n.vals.getD 1 0)
  let low := heard.map (·.vals.getD 3 0)
  let high := heard.map (·.vals.getD 4 0)
  let mean := s.laneLevel u.index valid a.start (db100 (sumOf ns 2) (fullScale * valid))
  leafRecord u 64
    (le 1 e.mode.code ++ zeros 1 ++ le 4 e.fLane ++ le 4 (id.getD 0) ++ le 1 (b2n id.isSome) ++ le 1 (min 255 changes)
      ++ le 2 (flagUnion ns 0) ++ le 4 valid ++ leInt 2 mean
      ++ leInt 2 (if valid = 0 then noLevel else levelMin low) ++ leInt 2 (if valid = 0 then noLevel else levelMax high) ++ zeros 2 ++ noteHash (a.of stop u .side))

/-- ENSEMBLE_ID of a position: the EId, or the first DRM service identifier. -/
def SignalSt.ensembleId (x : SignalSt) : Nat :=
  x.eid.getD ((x.current.accepted.findSome? fun f => match f with
    | .drmService id => some id
    | _ => none).getD 0)

/-- An engine position's leaf. -/
def State.engineLeaf (s : State) (a : HallAcc) (stop : Nat) (u : HallUnit) : List Byte :=
  let x := s.signal u.index u.position
  let ns := a.of stop u .period
  let mers := (ns.filter fun n => (n.vals.getD 5 0) != 0).map fun n => n.vals.getD 4 0
  let mer : Int := if mers.isEmpty then -32768 else mers.sum / mers.length
  leafRecord u 96
    (le 1 (u.position + 8 * (s.cfg.active.engines.get u.index).cls.code) ++ le 1 x.stateCode ++ le 4 x.ensembleId ++ leInt 2 mer ++ le 2 (flagUnion ns 6)
      ++ le 2 (sumOf ns 0) ++ le 2 (sumOf ns 1) ++ le 2 (sumOf ns 2) ++ le 2 (sumOf ns 3) ++ zeros 8
      ++ noteHash (a.of stop u .side) ++ noteHash (a.of stop u .au))

/-- The identifier that a slot's source carries: of its lane, of the service of its sub-channel, of the playing member. -/
def State.slotIdent (s : State) (x : Nat) : Nat :=
  let e := s.cfg.active.slots.get x
  match e.source with
  | .none => 0
  | .lane => (s.laneIdent e.srcIndex).getD 0
  | .decode =>
    ((s.signal e.srcIndex e.srcPos).current.accepted.findSome? fun f => match f with
      | .component sid _ c .. => if c = e.srcSub then some sid else none
      | .drmService id => some id
      | _ => none).getD 0
  | .follow => ((s.audio.follows.get e.srcIndex).members.getD (s.audio.follows.get e.srcIndex).playing {}).ident

/-- CLASSES_SEEN of a slot: the class at the end, those that began or ended, and PROGRAMME unless every class followed another at once. -/
def State.classesSeen (s : State) (a : HallAcc) (x : Nat) : Nat :=
  let cur := (s.audio.slots.get x).cls
  let starts := a.eventsOf .nonAudioStart x
  let ends := a.eventsOf .nonAudioEnd x
  let cls := fun (e : Ev) => ((e.args.getD 1 (.w 0)).num).toNat
  let at_ := fun (e : Ev) => (e.args.getD 2 (.w 0)).num
  let seen := cur :: (starts ++ ends).map cls
  let prog := starts.any (fun e => !ends.any fun z => at_ z == at_ e) || ends.any fun e => !starts.any fun z => at_ z == at_ e
  maskOf 5 fun i => seen.contains i || (i == 0 && prog)

/-- A slot's leaf. SILENCE_MAP: bit i set when every window of the i-th 100 ms is silent. -/
def State.slotLeaf (s : State) (a : HallAcc) (stop : Nat) (u : HallUnit) : List Byte :=
  let x := u.index
  let y := s.audio.slots.get x
  let ns := a.of stop u .period
  let secs := stop / countsPerSecond - a.start / countsPerSecond
  let bits := 10 * secs
  let wins := a.of stop u .silence
  let quiet := fun (i : Nat) =>
    let ws := wins.filter fun w => (w.at_ - a.start) / 10000000 == i
    ws.length == 10 && ws.all fun w => w.vals.head? == some 1
  let words := (bits + 31) / 32
  let louds := (List.range secs).map fun k =>
    ((a.of stop u .loud).find? fun n => (n.at_ - a.start) / countsPerSecond == k).map (fun n => n.vals.getD 0 0x8000) |>.getD 0x8000
  let silentAny := y.silent || !(a.eventsOf .silenceStart x).isEmpty || !(a.eventsOf .silenceEnd x).isEmpty
  let peaks := ns.flatMap fun n => [n.vals.getD 2 (-32768), n.vals.getD 3 (-32768)]
  leafRecord u (ceilTo 4 (64 + 2 * secs + 4 * words))
    (le 1 (s.cfg.active.slots.get x).source.code ++ le 1 (s.slotCodec x) ++ le 4 (s.slotIdent x) ++ le 4 (sumOf ns 1) ++ le 2 (flagUnion ns 0)
      ++ le 1 (s.classesSeen a x) ++ le 1 (y.matchSt.code + 4 * b2n silentAny) ++ leInt 2 (y.loudI.getD 0x8000) ++ leInt 2 (peaks.foldl max (-32768))
      ++ le 2 secs ++ le 2 bits ++ zeros 4 ++ noteHash (a.of stop u .words) ++ louds.flatMap (leInt 2)
      ++ le (4 * words) (maskOf bits quiet))

/-- A follow set's leaf. -/
def State.followLeaf (s : State) (a : HallAcc) (u : HallUnit) : List Byte :=
  let x := s.audio.follows.get u.index
  let p := x.members.getD x.playing {}
  leafRecord u 32
    (le 1 (x.stage + 4 * x.playing) ++ le 1 (min 255 (a.eventsOf .followSwitch u.index).length) ++ le 4 p.freq ++ le 4 p.ident
      ++ leInt 4 (if x.locked then x.delta else 0x80000000) ++ le 8 x.lastF0)

/-- An input port's leaf. -/
def State.inputLeaf (s : State) (a : HallAcc) (stop : Nat) (u : HallUnit) : List Byte :=
  let ns := a.of stop u .input
  leafRecord u 64
    (le 1 (s.ports.ports.get (8 + u.index)).entry.lineMask ++ zeros 1 ++ le 4 (sumOf ns 1) ++ le 2 (flagUnion ns 0) ++ zeros 18 ++ noteHash ns)

/-- Insert a unit in the order of leaves: KIND, SOURCE_INDEX, position (R406). -/
def insertUnit (u : HallUnit) : List HallUnit → List HallUnit
  | [] => [u]
  | v :: rest =>
    if u.kind < v.kind || (u.kind = v.kind && (u.index < v.index || (u.index = v.index && u.position < v.position))) then u :: v :: rest
    else v :: insertUnit u rest

/-- The leaves of an interval in tree order (R406). -/
def State.leaves (s : State) (a : HallAcc) (stop : Nat) : List (List Byte) :=
  s.packageLeaf a stop :: (a.units.foldl (fun acc u => insertUnit u acc) []).map fun u =>
    match u.kind with
    | 1 => s.laneLeaf a stop u
    | 2 => s.engineLeaf a stop u
    | 3 => s.slotLeaf a stop u
    | 4 => s.followLeaf a u
    | _ => s.inputLeaf a stop u

/-- The largest power of two below `n`, from `k` up, for n ≥ 2 (R406). -/
def powBelow (n : Nat) : Nat → Nat → Nat
  | 0, k => k
  | fuel + 1, k => if 2 * k < n then powBelow n fuel (2 * k) else k

/-- The tree hash over leaf hashes (R406); `fuel` bounds its depth. -/
def treeHash : Nat → List (List Byte) → List Byte
  | 0, _ => []
  | _ + 1, [] => []
  | _ + 1, [h] => h
  | fuel + 1, hs =>
    let k := powBelow hs.length 32 1
    Config.sm3 (le 1 1 ++ treeHash fuel (hs.take k) ++ treeHash fuel (hs.drop k))

/-- ROOT of an interval's leaves (R406). -/
def rootOf (leaves : List (List Byte)) : List Byte := padTo 32 (treeHash 32 (leaves.map fun r => Config.sm3 (le 1 0 ++ r)))

/-! ### Keys (R410) -/

/-- The key certificate record, 160 bytes (R410). -/
def State.keyCert (s : State) (pub : List Byte) (firstNum validFrom : Nat) : List Byte :=
  let b := le 1 0x42 ++ le 1 0 ++ le 2 160 ++ le 4 s.nv.bootNum.toNat ++ le 8 firstNum ++ le 8 validFrom ++ le 8 s.nv.sec.serial.toNat ++ padTo 64 pub
  b ++ padTo 64 (Config.sm2Sign 0 (Config.sm3 b))

/-- KEY_ID of a public key (R408). -/
def keyId (pub : List Byte) : List Byte := padTo 8 (Config.sm3 pub)

/-- A new hallmark key pair: HALLMARK_KEY_NEW (R410). Its number is the count of free values drawn, counted from 1; number 0 is the identity key. -/
def newHallKey (validFrom : Nat) (s : State) : State :=
  let n := s.freeCount + 1
  let pub := le 64 s.freeNat
  let s := advanceFree s
  let cert := s.keyCert pub s.sec.hall.recordNum validFrom
  raise .hallmarkKeyNew pkg [.w (leNat ((keyId pub).take 4)), .w s.sec.hall.recordNum]
    (s.setHall fun h => { h with key := some ⟨n, pub, s.now, cert⟩, keyNew := true })

/-- At the first interval boundary after 86,400 s under one key a new key is generated, for the interval that begins there; none after an erasure (R410). -/
def execHallmarkKeyRotation (s : State) : Res :=
  match s.sec.hall.key, s.sec.hall.acc with
  | some k, some a =>
    onlyIf (decide (k.since + 86400 * countsPerSecond ≤ a.start) && !s.sec.hall.erased) s (newHallKey a.start s)
  | _, _ => .next s

/-! ### Seals (R408 to R411) -/

/-- What a seal names as its predecessor: the latest of this boot, else the last checkpoint (R409). -/
def State.prevSeal (s : State) : Option SealRef :=
  match s.sec.hall.last with
  | some r => some r
  | none => s.nv.sec.checkpoint

/-- TIME_STATE of a seal (R408). -/
def State.timeState (s : State) (a : HallAcc) (stop : Nat) (realign : Bool) : Nat :=
  let pps := a.ppsThroughout && !a.events.any fun e => decide (e.name = .ppsLost) && (realign || decide (e.raised < stop))
  bitsByte [s.time.wall.isSome, pps, s.spans.any fun x => x.scope.isNone && x.meets a.start stop,
    s.spans.any fun x => x.scope.isSome && x.meets a.start stop, realign, s.time.aligned]

/-- The seal record, 256 bytes (R408). -/
def State.sealRecord (s : State) (a : HallAcc) (stop : Nat) (step : Option Int) (leaves : List (List Byte)) : List Byte :=
  let h := s.sec.hall
  let key := if h.erased then none else h.key
  let p := s.prevSeal
  let b := le 1 0x40 ++ le 1 1 ++ le 2 256 ++ le 4 s.nv.bootNum.toNat ++ le 8 h.recordNum ++ le 8 a.start ++ le 8 stop ++ le 8 (s.taiAt a.start)
    ++ leInt 4 ((s.time.wall.map (·.utcTai)).getD 0) ++ le 2 (s.timeState a stop step.isSome) ++ le 1 (if step.isSome then s.mode.mode.code else a.modeAt stop s)
    ++ le 1 ((if step.isSome then a else a.upTo stop).debugLevel + 4 * b2n key.isNone + 8 * b2n (h.keyNew && key.isSome) + 16 * b2n h.resumed) ++ leInt 8 (step.getD 0)
    ++ le 4 (if step.isSome then s.faultSummary else a.faultAt stop s) ++ le 4 leaves.length ++ rootOf leaves
    ++ le 4 ((p.map (·.boot)).getD 0xFFFFFFFF) ++ zeros 4 ++ le 8 ((p.map (·.num)).getD 0xFFFFFFFFFFFFFFFF) ++ padTo 32 ((p.map (·.digest)).getD [])
    ++ padTo 32 s.sec.fwDigest ++ le 8 s.nv.sec.serial.toNat ++ (match key with
        | some k => keyId k.pub
        | none => zeros 8)
  b ++ (match key with
    | some k => padTo 64 (Config.sm2Sign k.number (Config.sm3 b))
    | none => zeros 64)

/-- An interval is sealed: its records are delivered, the chain advances, every 600 s a checkpoint goes to flash (R409, R411). -/
def sealInterval (a : HallAcc) (stop : Nat) (step : Option Int) (s : State) : State :=
  let h := s.sec.hall
  let s := s.setHall fun h => { h with key := h.key.map fun k => if h.keyNew then { k with cert := s.keyCert k.pub h.recordNum a.start } else k }
  let leaves := s.leaves (if step.isSome then a else a.upTo stop) stop
  let rec_ := s.sealRecord a stop step leaves
  let cert := if h.keyNew && !h.erased then (s.sec.hall.key.map (·.cert)).toList else []
  let last : SealRef := ⟨s.nv.bootNum.toNat, h.recordNum, padTo 32 (Config.sm3 rec_)⟩
  let s := formRecordBlocks .hallmark (fun _ => true) 65536 (cert ++ rec_ :: leaves)
    { format := 0x0701, srcType := 9, srcIndex := 0, die := 0, timestamp := a.start, sampleCount := 0, flags := s.clockFlags 0 [] a.start stop, payload := [] } s
  let save := decide (h.checkpointAt + 600 * countsPerSecond ≤ s.now)
  let s := if save then { s with nv := { s.nv with sec := { s.nv.sec with checkpoint := some last } } } else s
  s.setHall fun h => { h with recordNum := h.recordNum + 1, last := some last, resumed := false, keyNew := false, checkpointAt := if save then s.now else h.checkpointAt }

/-- A setting of HALLMARK_CONFIG whose boundary has come is in force (R405, R409). -/
def takeSetting (s : State) : State :=
  s.setHall fun h => match h.next_ with
    | some n => if n.at_ ≤ s.now then
        { h with next_ := none, interval := n.interval, enable := n.enable, resumed := h.resumed || (n.enable && !h.enable) } else h
    | none => h

/-- From a boundary on: the next interval, or none until a waiting setting comes into force (R405, R412). -/
def nextInterval (t : Nat) (s : State) : State :=
  let s := takeSetting s
  let h := s.sec.hall
  match h.next_ with
  | some n => if n.enable && h.enable && t + h.counts ≤ n.at_ then beginInterval t s else s.setHall fun h => { h with acc := none, startDue := n.at_ }
  | none => if h.enable then beginInterval t s else s.setHall fun h => { h with acc := none }

/-- An interval ends: leaves, tree and chained seal (R405 to R411); an interval that an armed edge ended first (R412). What came since its end is the next one's. With none in progress the next one begins at its boundary. -/
def execHallmarkIntervalEnd (s : State) : Res :=
  let h := s.sec.hall
  match h.cut, h.acc with
  | some (a, stop, step), _ => onlyIf s.mode.mode.sealing s (sealInterval a stop (some step) (s.setHall fun h => { h with cut := none }))
  | none, some a =>
    let stop := h.endOf a.start
    onlyIf (s.mode.mode.sealing && decide (stop ≤ s.now)) s (carryInterval a stop (nextInterval stop (sealInterval a stop none s)))
  | none, none =>
    let s1 := takeSetting s
    let t := s.now / s1.sec.hall.counts * s1.sec.hall.counts
    onlyIf (s.mode.mode.sealing && s1.sec.hall.enable && decide (h.startDue ≤ t)) s (nextInterval t s1)

/-! ### Debug port (R413) -/

/-- A read of CHALLENGE: 48 bytes with a new nonce (R413). -/
def execDebugChallengeRead (level : Nat) (s : State) : Res :=
  let b := le 8 s.nv.sec.serial.toNat ++ le 4 s.nv.bootNum.toNat ++ le 1 level ++ zeros 3 ++ le 32 s.freeNat
  onlyIf (!s.sec.debugLocked && decide (s.mode.mode ≠ .off)) s
    (send (.debugOut b) (advanceFree { s with sec := { s.sec with challenge := some ⟨b, level, s.now⟩ } }))

/-- A response answers the challenge of the last 60 s under the owner's key, or the vendor's where none is enrolled (R413). -/
def State.responseValid (s : State) (r : List Byte) : Bool :=
  match s.sec.challenge with
  | some c =>
    decide (s.now < c.at_ + 60 * countsPerSecond) && (c.level == 1 || c.level == 2)
    && Config.sm3 (slice r 0 64) == s.nv.sec.ownerHash.getD s.nv.sec.vendorHash
    && Config.sm2Verify (slice r 0 64) (Config.sm3 c.bytes) (slice r 64 64)
  | none => false

/-- A level opens; level 2 erases the hallmark key (R412, R413). -/
def openDebug (level : Nat) (s : State) : State :=
  let top := max s.sec.debugLevel level
  let s := { s with sec := { s.sec with debugLevel := top, challenge := none } }
  let s := s.setHall fun h =>
    if level = 2 then { h with key := none, keyNew := false, erased := true } else h
  raise .debugOpened pkg [.w level] s

/-- A write of RESPONSE (R413): a valid one opens its level, level 2 only in DIAGNOSTIC; the third invalid one of a boot locks the port. -/
def execDebugResponseWrite (r : List Byte) (s : State) : Res :=
  let level := (s.sec.challenge.map (·.level)).getD 0
  onlyIf (!s.sec.debugLocked && decide (s.mode.mode ≠ .off)) s
    (if s.responseValid r then
       (if level = 2 && s.mode.mode ≠ .diagnostic then { s with sec := { s.sec with challenge := none } } else openDebug level s)
     else
       let n := s.sec.debugAttempts + 1
       raise .debugDenied pkg [.w n] { s with sec := { s.sec with debugAttempts := n, debugLocked := decide (3 ≤ n), challenge := none } })

end Sys2Proof.Machine
end

