-- ==== Sys2Proof/Machine/Boot.lean ====
section
/-!
DEFINITION. Reset, boot and power domains (17 R433 to R435, R447 to R450, 15 R397, 12 R356, 14 R381).
-/
namespace Sys2Proof.Machine

/-! ### Domains (R433, R435) -/

/-- A synthesizer starts as its domain enters service: it locks where the root is present and its unlock is not lasting, and coasts otherwise (02 R39, R56, R57). -/
def startLoop (d : Nat) (l : DieLoop) (s : State) : State :=
  let c := s.clk.get d
  if c.rootPresent && !(c.loop l).held then
    s.setClk d fun c =>
      let c := c.setLoop l { c.loop l with locked := true, coasting := false, attempt := none }
      if l = .samp then { c with plan := s.cfg.active.plan } else c
  else
    let s := s.setClk d fun c => c.setLoop l { c.loop l with locked := false, coasting := true, coastAt := s.now, attempt := none }
    match l with
    | .samp => openSuspect (.convs d) s
    | .sys => openSuspect (.units d) s
    | .aud => s

/-- A domain enters service: its synthesizer or its monitor converter starts (R433, R435). -/
def serveDomain (d bit : Nat) (s : State) : State :=
  let s := { s with domains := s.domains.modify d fun x => { x with ready := x.ready ||| 2 ^ bit } }
  match bit with
  | 0 => (startLoop d .sys s).setMon d fun _ => { convStart := s.now }
  | 2 => startLoop d .samp s
  | 13 => startLoop d .aud s
  | _ => s

/-- The ramp of a domain ends: its comparators are armed (R435). -/
def execDomainRampDone (d dom : Nat) (s : State) : Res :=
  let x := s.domains.get d
  onlyIf (decide (d < s.dies) && decide (dom < 14) && maskBit x.on dom && !maskBit x.armed dom && decide (x.onAt.getD dom 0 ≤ s.now)) s
    { s with domains := s.domains.modify d fun x => { x with armed := x.armed ||| 2 ^ dom } }

/-- The SRAM of a domain is cleared: it is in service (R435). Where the sampling synthesizer locks with it, with the stored band result or, without one, the one found, that is stored with the die temperature (02 R44, R445). -/
def execDomainInService (d dom : Nat) (temp : Int) (band : Nat) (s : State) : Res :=
  let x := s.domains.get d
  onlyIf (decide (d < s.dies) && decide (dom < 14) && maskBit x.armed dom && !maskBit x.ready dom) s
    (let t := serveDomain d dom s
     if dom = 2 && (t.clk.get d).samp.locked then
       convertTemp2 d (t.setClk d fun c => c.setBand c.plan ⟨((c.band c.plan).map (·.band)).getD band, temp⟩)
     else t)

/-- The domains of BOOT of a die are on and in service (R436, R448). -/
def bootDomains (d : Nat) (s : State) : State :=
  [0, 1, 12].foldl (fun acc b =>
    let acc := domainOn d b acc
    serveDomain d b { acc with domains := acc.domains.modify d fun x => { x with armed := x.armed ||| 2 ^ b } }) s

/-! ### OFF (R437, R447) -/

/-- OFF: flash, OTP and what the block has sent remain; nothing else does (R437, R447). -/
def State.offState (s : State) (pins : PinSt) : State :=
  { part := s.part, pins := pins, time := { armed := .none, syncLost := true }, spans := [], link := { sent := s.link.sent }, mode := { mode := .off }
    nv := s.nv, freeCount := s.freeCount, pending := s.pending }

/-- PERST_N goes low: OFF from any mode; an update's slot stays invalid (R437, R447, 15 R399). -/
def execPerstNAssert (s : State) : Res :=
  onlyIf s.pins.perstHigh s (s.offState { perstHigh := false, suppliesPresent := s.pins.suppliesPresent })

/-- The supplies are absent: OFF (R437). -/
def execSuppliesAbsent (s : State) : Res :=
  onlyIf s.pins.suppliesPresent s (s.offState { perstHigh := s.pins.perstHigh, suppliesPresent := false })

/-- PERST_N is released with the supplies in range: straps latched, every register at its reset value, BOOT (R447, R448). With REFIN absent the reference PLL coasts at the tuning of its last lock (R450). -/
def execPerstNRelease (refsel : Bool) (syncpos mbAddr : Nat) (refin : Bool) (s : State) : Res :=
  onlyIf (decide (s.mode.mode = .off) && !s.pins.perstHigh) s
    (let t : State :=
       { part := s.part, pins := { refsel := refsel, syncpos := syncpos % 16, mbAddr := mbAddr % 4 }, link := { sent := s.link.sent }
         nv := { s.nv with bootNum := s.nv.bootNum + 1 }, freeCount := s.freeCount, pending := s.pending }
     if refin then { t with ref := { t.ref with present := true, attempt := some 0 } }
     else refresh (raise .refLost pkg [.q 0] (coastRef t)))

/-! ### The boot ROM (15 R397) -/

/-- Failed boots of a slot. -/
def NvSec.fails (v : NvSec) (b : Bool) : Nat := if b then v.failsB else v.failsA
def NvSec.setFails (v : NvSec) (b : Bool) (n : Nat) : NvSec := if b then { v with failsB := n } else { v with failsA := n }

/-- The ROM has checked its digest and the OTP: HALTED, or the preferred slot is tried, the other at once where that one has failed twice (R397). -/
def execRomCheckDone (romOk otpOk : Bool) (s : State) : Res :=
  onlyIf (decide (s.mode.mode = .boot) && decide (s.sec.stage = .check)) s
    (let t := bootDomains 0 s
     if !(romOk && otpOk) then enterHalted 3 t
     else
       let skip := decide (2 ≤ s.nv.sec.fails s.nv.sec.preferB)
       { t with
         sec := { t.sec with stage := .image, tryingB := s.nv.sec.preferB != skip, triedOther := skip, failReason := b2n skip }
         mode := { t.mode with bootPhase := 1 } })

/-- An image boots: its failed boot is recorded before it runs, and it is loaded into the other dies (R397, R448). -/
def bootImage (b : Bool) (s : State) : State :=
  let v := s.nv.sec
  let img := (v.slot b).image
  { s with
    nv := { s.nv with sec := v.setFails b (v.fails b + 1) }
    sec := { s.sec with
      stage := .load, runningB := b, fallback := b != v.preferB, fwVersion := field img 8 0 32, fwLevel := field img 12 0 8
      fwDigest := padTo 32 (Config.sm3 img) }
    mode := { s.mode with bootPhase := 2 } }

/-- Neither slot is accepted: RECOVERY, run from the ROM (R397, R436). -/
def enterRecovery (s : State) : State :=
  let s := { s with sec := { s.sec with stage := .done } }
  refresh (setMode .recovery .fault (unpowerOutside 0 1 s))

/-- The image in the slot that the ROM tries has been verified: it boots, or the other slot is tried, or RECOVERY (R396, R397). -/
def execImageCheckDone (s : State) : Res :=
  let b := s.sec.tryingB
  let x := s.nv.sec.slot b
  onlyIf (decide (s.mode.mode = .boot) && decide (s.sec.stage = .image)) s
    (if x.valid && s.imageBoots x.image then bootImage b s
     else if !s.sec.triedOther then { s with sec := { s.sec with tryingB := !b, triedOther := true, failReason := 0 } }
     else enterRecovery s)

/-- Dies 1 to N − 1 have been powered, loaded and started: the self-tests begin, with SAMPLING on for the band search (R436, R448). -/
def execDieLoadDone (s : State) : Res :=
  onlyIf (decide (s.mode.mode = .boot) && decide (s.sec.stage = .load)) s
    (let t := ((List.range s.dies).filter (· != 0)).foldl (fun acc d => bootDomains d acc) s
     let t := (List.range t.dies).foldl (fun acc d => domainOn d 2 acc) t
     { t with sec := { t.sec with stage := .test }, mode := { t.mode with bootPhase := 3 } })

/-- A die that fails its self-test: HALTED for die 0, a fence for another; DIE_SELFTEST_FAILED waits for IDLE. Tests: 0 lockstep, 1 memory, 2 datapath, 3 ring (R449). -/
def failSelfTest (d test : Nat) (s : State) : State :=
  if d = 0 then enterHalted (if test = 0 then 1 else if test = 1 then 5 else 6) s
  else
    let s := { s with integ := { s.integ with selfTest := s.integ.selfTest ++ [(d, test)] } }
    match test with
    | 0 => fenceDie d .lockstep true s
    | 1 => fenceDie d .controlMemory true s
    | _ => fenceDie d (.unstated s.freeNat) true (advanceFree s)

/-- A die's self-test ends: the results of its lockstep, memory and datapath tests, of the training of its links, and of the band searches of the three plans with the die temperature in 0.01 °C (R449, 02 R44). After the last one state is restored: BOOT_PHASE 4. -/
def execDieSelfTestDone (d : Nat) (lockstep mem data rising falling : Bool) (temp : Int) (bands : List Nat) (s : State) : Res :=
  onlyIf (decide (s.mode.mode = .boot) && decide (s.sec.stage = .test) && decide (d < s.dies) && (s.clk.get d).band0.isNone) s
    (let t := s.setClk d fun c => (List.range 3).foldl (fun c p => c.setBand p ⟨bands.getD p 0, temp⟩) c
     let t := if rising then t else failLink d 0 t
     let t := if falling then t else failLink d 1 t
     let t := if !lockstep then failSelfTest d 0 t else if !mem then failSelfTest d 1 t else if !data then failSelfTest d 2 t else t
     let t := domainOff d 2 t
     if t.mode.mode = .boot && (List.range t.dies).all fun e => (t.clk.get e).band0.isSome then { t with mode := { t.mode with bootPhase := 4 } } else t)

/-! ### The end of boot (R448, R381, 12 R356) -/

/-- A die that failed links leave with no route to die 0 (R449). -/
def State.cutOff (s : State) (d : Nat) : Bool :=
  d != 0 && (s.deliveryPath d).isEmpty

/-- The newer valid calibration slot: B if true (R356). -/
def NvSt.newerSlot (v : NvSt) : Option Bool :=
  match v.calA.valid, v.calB.valid with
  | true, true => some (decide (v.calA.seq.toNat < v.calB.seq.toNat))
  | true, false => some false
  | false, true => some true
  | false, false => none

/-- The calibration slot of a name. -/
def NvSt.calSlot (v : NvSt) (b : Bool) : CalSlot := if b then v.calB else v.calA

/-- Items as boot loads them: ORIGIN loaded, LAST_SYSTIME 0, none succeeded since; counts as stored, or 0 from the factory record (R356). -/
def loadItems (t : Tbl CalItem) (factory : Bool) : Tbl CalItem :=
  ((List.range 6).flatMap fun i => (List.range 16).map (i * 16 + ·)).foldl (fun (acc : Tbl CalItem) k =>
    let x := t.get k
    acc.set k (if factory then {} else { count := x.count, lastTai := x.lastTai, origin := 3 })) (Tbl.empty {})

/-- Calibration as boot loads it: CAL_LOADED (R356). -/
def loadCal (s : State) : State :=
  match s.nv.newerSlot with
  | some b =>
    let x := s.nv.calSlot b
    raise .calLoaded pkg [.w (b2n b), .w x.seq.toNat]
      { s with cal := { s.cal with coefs := x.snap.coefs, items := loadItems x.snap.items false, storeSlot := b2n b, storeValid := true, storeSeq := x.seq } }
  | none =>
    raise .calLoaded pkg [.w 2, .w 0] { s with cal := { s.cal with coefs := s.nv.factory.coefs, items := loadItems s.nv.factory.items true } }

/-- The retirement record applied again: converters, slices, spares, memory rows (R381). -/
def applyRetired (s : State) : State :=
  let s := (List.range (2 * s.dies)).foldl (fun acc k =>
    let gone := maskOf 9 fun i => acc.retired (sliceRef k i)
    acc.setConv k fun c =>
      { c with failed := c.failed || acc.retired (convRef k) || decide (2 ≤ (maskList 9 gone).length), retired := gone
               slices := (List.range 8).map fun i => if maskBit gone i then 8 else i
               spareSlice := if gone = 0 then some 8 else none }) s
  let s := (List.range (4 * s.dies)).foldl (fun acc c => match acc.replacedPos c with
    | some p => acc.setSpare c fun x => { (x.beginCover p false 0) with position := p }
    | none => acc) s
  { s with integ := { s.integ with exhausted := (s.nv.spareRows.cells.filter fun c => c.2 == 0).map (·.1) } }

/-- What boot reports at IDLE: a fall-back, failed self-tests, an update that a power failure cut (R397, R399, R449). -/
def reportBoot (s : State) : State :=
  let s := if s.sec.fallback then raise .fwFallback pkg [.w (b2n s.sec.runningB), .w (b2n (!s.sec.runningB)), .w s.sec.failReason] s else s
  let s := s.integ.selfTest.foldl (fun acc x => raise .dieSelftestFailed x.1 [.w x.1, .w x.2] acc) s
  match s.nv.sec.updating with
  | some b => raise .updateAbandoned pkg [.w (b2n b), .w 1] { s with nv := { s.nv with sec := { s.nv.sec with updating := none } } }
  | none => s

/-- Boot ends: state restored from flash, dies without a route fenced, a hallmark key, the configuration sets initialised, IDLE (R448, R449, R381, 15 R397, R410). -/
def execBootComplete (s : State) : Res :=
  onlyIf (decide (s.mode.mode = .boot) && decide (s.sec.stage = .test) && (List.range s.dies).all fun d => (s.clk.get d).band0.isSome) s
    (let t := applyRetired (loadCal s)
     let t := (List.range t.dies).foldl (fun acc d => if acc.dieUp d && acc.cutOff d then failSelfTest d 3 acc else acc) t
     let t := newHallKey t.now t
     let t := { t with
       nv := { t.nv with sec := t.nv.sec.setFails t.sec.runningB 0 }
       sec := { t.sec with stage := .done, bootedAt := t.now }
       mode := { t.mode with bootPhase := 5 } }
     let t := applyDomains (State.modeDomains · .idle) t
     refresh (reportBoot (setMode .idle (.unstated t.freeNat) (advanceFree t))))

end Sys2Proof.Machine
end

