-- ==== Sys2Proof/Machine/Monitor.lean ====
section
/-!
DEFINITION. The monitor converters (13): conversions and their presentation, the regular sequence, injected conversions, accumulators and trackers, telemetry (10 R307), the feed limits (03 R73) and the temperature limits (18 R463).
-/
namespace Sys2Proof.Machine

/-- The monitor converter of a die: its CONTROL domain is in service, and in SLEEP its clocks run (17 R433, R445). -/
def State.monUp (s : State) (d : Nat) : Bool :=
  s.dieUp d && maskBit (s.domains.get d).ready 0 && (s.mode.mode != .sleep || s.mode.clocksRun)

/-- SYSTIME counts of a conversion with its acquisition (R360). -/
def monTime (lowPower : Bool) (acq : Nat) : Nat :=
  if lowPower then [800, 1600, 4000, 16000].getD acq 16000 else [100, 200, 500, 2000].getD acq 2000

/-- Channels whose result is signed (R361, R362). -/
def MonCfg.signed (c : MonCfg) (channel : Nat) : Bool :=
  channel == 14 || channel == 15 || (channel == 28 && c.diff01) || (channel == 30 && c.diff23)

/-- `v` cut to a signed or unsigned format of `n` bits (R363). -/
def saturate (sgn : Bool) (n : Nat) (v : Int) : Int :=
  if sgn then max (-(2 ^ (n - 1) : Int)) (min v (2 ^ (n - 1) - 1)) else max 0 (min v (2 ^ n - 1))

/-- A quotient rounded to nearest, a tie upward. -/
def roundHalfUp (a b : Int) : Int := (2 * a + b) / (2 * b)

/-- The offset in 1/256 LSB and gain in 0.001 % in force for a conversion that began at `t` (12 R348). -/
def State.monCorr (s : State) (d t : Nat) : Int × Int :=
  let m := s.mon.dies.get d
  if m.corrFrom < t then ((s.cal.coefs.monitor.get d).offset, (s.cal.coefs.monitor.get d).gain) else (m.oldOffset, m.oldGain)

/-- The result of a conversion at the converter's resolution: the input as converted, in 1/256 LSB of 16 bits, with the offset taken off and the gain put on, rounded, saturated (R363; notes/assumptions/30.md). -/
def monResult (c : MonCfg) (corr : Int × Int) (channel : Nat) (raw : Int) : Int :=
  let n := if c.lowPower then 12 else 16
  let unit : Int := 25600000 * (if c.lowPower then 16 else 1)
  saturate (c.signed channel) n (roundHalfUp ((raw - corr.1) * (100000 + corr.2)) unit)

/-- A result in the presentation in force: left-aligned, the bits below a 12-bit result are 0 (R363). -/
def MonCfg.present (c : MonCfg) (r : Int) : Int := if c.align && c.lowPower then r * 16 else r

/-- A result as a 16-bit right-aligned code of the normal mode (R361). -/
def MonCfg.code16 (c : MonCfg) (r : Int) : Int := if c.lowPower then r * 16 else r

/-! ### Feed and temperature limits -/

/-- The course whose antenna feed channel 14 or 15 of die `d` sees: ANTd, or ANT((d − 1) mod N) (R361). -/
def State.feedCourse (s : State) (d channel : Nat) : Nat := if channel = 14 then d else (d + s.dies - 1) % s.dies

/-- FEED_CURRENT in 0.1 mA, negative values read as 0 (R361). -/
def feedTenths (code : Int) : Nat := (roundHalfUp (code * 6250) 32768).toNat

/-- A feed conversion of the regular sequence: each flag is set and cleared by 3 consecutive conversions, counted over both dies' channels together: DESIGN CHOICE (notes/assumptions/50.md) (03 R73). -/
def feedMeasured (d channel : Nat) (code : Int) (s : State) : State :=
  let j := s.feedCourse d channel
  let i := feedTenths code
  let c := s.front.courses.get j
  let low := decide (i < c.openLimit)
  let high := decide (c.overLimit < i)
  let n1 := if low then c.openRun + 1 else 0
  let n2 := if high then c.overRun + 1 else 0
  let z1 := if low then 0 else c.openClear + 1
  let z2 := if high then 0 else c.overClear + 1
  let opens := decide (3 ≤ n1) && !c.feedOpen
  let overs := decide (3 ≤ n2) && !c.feedOver
  let s := s.setCourse j fun c =>
    { c with feedCurrent := i, openRun := min n1 3, overRun := min n2 3, openClear := min z1 3, overClear := min z2 3
             feedOpen := (c.feedOpen || opens) && !decide (3 ≤ z1), feedOver := (c.feedOver || overs) && !decide (3 ≤ z2) }
  let s := if opens then raise .antFeedOpen d [.w j, .w i, .w d] s else s
  if overs then raise .antFeedOver d [.w j, .w i, .w d] s else s

/-- The channels of the entries that a sequence runs. -/
def MonCfg.channels (c : MonCfg) : List Nat := (c.entries.take (c.seqLast + 1)).map (·.channel)

/-- FEED_CURRENT reads 0xFFFF where neither die's sequence includes the channel (03 R73). -/
def feedPresence (d : Nat) (s : State) : State :=
  [d, (d + s.dies - 1) % s.dies].foldl (fun acc j =>
    if (s.mon.dies.get j).active.channels.contains 14 || (s.mon.dies.get ((j + 1) % s.dies)).active.channels.contains 15 then acc
    else acc.setCourse j fun c => { c with feedCurrent := 0xFFFF, openRun := 0, overRun := 0, openClear := 0, overClear := 0 }) s

/-- A temperature in 0.01 °C from its code (R361). -/
def tempCenti (code : Int) : Int := roundHalfUp (code * 100) 128 - 25600

/-- A temperature conversion: TEMP_HIGH at 105.0 °C or above, TEMP_NORMAL below 100.0 °C on every channel that the sequence has (18 R463). -/
def tempMeasured (d channel : Nat) (code : Int) (s : State) : State :=
  let m := s.mon.dies.get d
  let temps := m.temps.set channel (some code)
  let present := [0, 1, 2, 3].filter m.active.channels.contains
  let below := present.all fun k => match temps.getD k none with
    | some v => decide (v < 45568)
    | none => false
  let s := s.setMon d fun m => { m with temps := temps }
  if !m.tempHigh && decide (46208 ≤ code) then
    raise .tempHigh d [.w d, .w channel, .w (tempCenti code)] (s.setMon d fun m => { m with tempHigh := true })
  else if m.tempHigh && below then
    let top := (temps.filterMap id).foldl max (-32768)
    raise .tempNormal d [.w d, .w (tempCenti top)] (s.setMon d fun m => { m with tempHigh := false })
  else s

/-! ### Accumulators and trackers -/

/-- One conversion summed; at COUNT 0xFFFF_FFFF both values hold (R368). -/
def MonAcc.add (a : MonAcc) (v : Int) : MonAcc :=
  if a.count.toNat = 0xFFFFFFFF then a else ⟨a.sum + BitVec.ofInt 64 v, a.count + 1⟩

/-- One result tracked (R369). -/
def MonTrk.add (t : MonTrk) (v : Int) : MonTrk :=
  if t.valid then ⟨min t.low v, max t.high v, true⟩ else ⟨v, v, true⟩

/-- A result of entry `i` into the running sets and the second's (R364, R368, R369). -/
def MonSt.take (m : MonSt) (i : Nat) (e : MonEntry) (v : Int) : MonSt :=
  let m := if e.accEn then { m with accs := m.accs.modify i (·.add v), secAccs := m.secAccs.modify i (·.add v) } else m
  if e.trkEn then { m with trks := m.trks.modify e.trk (·.add v), secTrks := m.secTrks.modify e.trk (·.add v) } else m

/-- CLEAR at a conversion boundary (R369). -/
def MonSt.clearIfPending (m : MonSt) : MonSt :=
  if m.clearPending then { m with clearPending := false, accs := Tbl.empty {}, trks := Tbl.empty {} } else m

/-- One value in 16 bits of a tracker, 0 until the pair has received a result. -/
def MonTrk.bytes (t : MonTrk) : List Byte := leInt 2 t.low ++ leInt 2 t.high

/-- The record of the second that ends: 16 entries, 8 pairs, the fault summary, the mode (10 R307). -/
def State.monRecord (s : State) (d : Nat) : List Byte :=
  let m := s.mon.dies.get d
  padTo 320 (((List.range 16).flatMap fun i =>
      le 1 (m.active.entry i).channel ++ le 1 (b2n (decide (i ≤ m.active.seqLast))) ++ zeros 2
      ++ le 4 (m.secAccs.get i).count.toNat ++ le 8 (m.secAccs.get i).sum.toNat)
    ++ ((List.range 8).flatMap fun j => (m.secTrks.get j).bytes)
    ++ le 4 s.faultSummary ++ le 1 s.mode.mode.code)

/-- The record MON_READ writes: the latched record, then each accumulator since its last clear (R370). -/
def MonSt.readRecord (m : MonSt) : List Byte :=
  m.latched ++ (List.range 16).flatMap fun i => le 8 (m.accs.get i).sum.toNat ++ le 4 (m.accs.get i).count.toNat

/-! ### The staged sequence -/

/-- The tracker pairs named by running entries whose formats differ (R365). -/
def MonCfg.mixedPairs (c : MonCfg) : List Nat :=
  let run := (c.entries.take (c.seqLast + 1)).filter (·.trkEn)
  (List.range 8).filter fun j =>
    let es := run.filter (·.trk == j)
    es.any (fun e => c.signed e.channel) && es.any fun e => !c.signed e.channel

/-- The accumulators and the tracker pairs that an apply of `new` over `old` affects (R365). -/
def MonCfg.affects (old new : MonCfg) : List Nat × List Nat :=
  let all := old.lowPower != new.lowPower || old.align != new.align
  let hit := (List.range 16).filter fun i =>
    let a := old.entry i
    let b := new.entry i
    all || a.channel != b.channel || (old.diff01 != new.diff01 && b.channel == 28) || (old.diff23 != new.diff23 && b.channel == 30)
  let pairs := (List.range 8).filter fun j => all || hit.any fun i =>
    ((old.entry i).trkEn && (old.entry i).trk == j) || ((new.entry i).trkEn && (new.entry i).trk == j)
  (hit, pairs)

/-- Keys of a table put back to its default. -/
def Tbl.clearKeys {α : Type} [DecidableEq α] (t : Tbl α) (ks : List Nat) : Tbl α := ks.foldl (fun acc k => acc.set k t.dflt) t

/-- The staged registers come into force, or are refused with SEQ_REJECTED (R365). -/
def applyMon (d : Nat) (s : State) : State :=
  let m := s.mon.dies.get d
  match m.staged.mixedPairs with
  | j :: _ =>
    raise .monSeqRejected d [.w d, .w j] (s.setMon d fun m => { m with applyPending := false, seqRejected := true })
  | [] =>
    let (as_, ts) := m.active.affects m.staged
    feedPresence d (s.setMon d fun m =>
      { m with applyPending := false, active := m.staged, accs := m.accs.clearKeys as_, secAccs := m.secAccs.clearKeys as_
               trks := m.trks.clearKeys ts, secTrks := m.secTrks.clearKeys ts })

/-! ### Sequence and injections -/

/-- The conversion of an entry begins. -/
def startConv (d i : Nat) (s : State) : State :=
  s.setMon d fun m => { m with entry := i, converting := true, convStart := s.now, repeats := false, passDue := none }

/-- A pass begins: PASS_PERIOD as now written is in force (R364, R372). -/
def startPass (d : Nat) (s : State) : State :=
  startConv d 0 (s.setMon d fun m => { m with periodNow := m.passPeriod, passStart := s.now })

/-- The next pass begins at `t`: at once where that is now and no injection runs. -/
def duePass (d t : Nat) (s : State) : State :=
  if t ≤ s.now && (s.mon.dies.get d).queue.isEmpty then startPass d s
  else s.setMon d fun m => { m with converting := false, entry := 0, passDue := some t }

/-- The sequence starts at entry 0: at the next PASS_PERIOD multiple, or at once with PASS_PERIOD 0 (R372). -/
def startSequence (d : Nat) (s : State) : State :=
  let p := (s.mon.dies.get d).passPeriod * 100
  duePass d (if p = 0 then s.now else ceilTo p s.now) s

/-- A pass ends: a waiting apply takes effect; the next pass follows at once or at its multiple, and one that ran past it sets PACE_OVERRUN (R364, R365). -/
def passEnd (d : Nat) (s : State) : State :=
  let s := if (s.mon.dies.get d).applyPending then applyMon d s else s
  let m := s.mon.dies.get d
  let p := m.periodNow * 100
  if p = 0 then duePass d s.now s
  else if s.now ≤ nextOf p m.passStart then duePass d (nextOf p m.passStart) s
  else duePass d (ceilTo p s.now) (s.setMon d fun m => { m with paceOverrun := true })

/-- The sequence stops; a waiting apply takes effect (R365, R372). -/
def stopSequence (d : Nat) (s : State) : State :=
  let s := s.setMon d fun m => { m with converting := false, stopping := false, repeats := false, passDue := none }
  if (s.mon.dies.get d).applyPending then applyMon d s else s

/-- The head of the injection queue starts; a regular conversion that runs is aborted and repeated later (R367). -/
def startInjection (d : Nat) (s : State) : State :=
  s.setMon d fun m => { m with injStart := s.now, repeats := m.repeats || m.converting, converting := false }

/-- Queue an injected conversion; it starts at once when none runs (R367). -/
def queueInjection (d : Nat) (x : MonInj) (s : State) : State :=
  let first := (s.mon.dies.get d).queue.isEmpty
  let s := s.setMon d fun m => { m with queue := m.queue ++ [x] }
  if first then startInjection d s else s

/-- The queue is empty: the interrupted entry is repeated, or a pass that became due begins (R367). -/
def resumeSequence (d : Nat) (s : State) : State :=
  let m := s.mon.dies.get d
  if m.repeats then startConv d m.entry s
  else match m.passDue with
    | some t => if t ≤ s.now then startPass d s else s
    | none => s

/-! ### Meanings -/

/-- A regular conversion ends (R364, R368, R369, R372). `raw` is its result before correction, in 1/256 LSB of 16 bits. -/
def execMonConversionEnd (d : Nat) (raw : Int) (s : State) : Res :=
  let m := s.mon.dies.get d
  let e := m.active.entry m.entry
  let r := monResult m.active (s.monCorr d m.convStart) e.channel raw
  let code := m.active.code16 r
  onlyIf (s.monUp d && m.converting && decide (m.convStart + monTime m.active.lowPower e.acq ≤ s.now)) s
    (let t := s.setMon d fun m => (m.take m.entry e (m.active.present r)).clearIfPending
     let t := if e.channel = 14 || e.channel = 15 then feedMeasured d e.channel code t else t
     let t := if e.channel < 4 then tempMeasured d e.channel code t else t
     if m.stopping then (if m.run then startSequence d (stopSequence d t) else stopSequence d t)
     else if m.entry = m.active.seqLast then passEnd d t
     else startConv d (m.entry + 1) t)

/-- A pass begins at its PASS_PERIOD multiple (R364). -/
def execMonPassStart (d : Nat) (s : State) : Res :=
  let m := s.mon.dies.get d
  let due := match m.passDue with
    | some t => decide (t ≤ s.now)
    | none => false
  onlyIf (s.monUp d && m.run && m.queue.isEmpty && !m.converting && due) s (startPass d s)

/-- An injected conversion ends: its command completes with the result and the start SYSTIME; the next injection or the sequence goes on (R367, 11 R329). -/
def execMonInjectionEnd (d : Nat) (raw : Int) (s : State) : Res :=
  let m := s.mon.dies.get d
  match m.queue with
  | [] => .next s
  | x :: rest =>
    let r := m.active.present (monResult m.active (s.monCorr d m.injStart) x.channel raw)
    let result := wrapInt 16 r + (m.injStart % 2 ^ 32) * 65536
    onlyIf (s.monUp d && decide (m.injStart + monTime m.active.lowPower x.acq ≤ s.now)) s
      (let t := s.setMon d fun m => ({ m with queue := rest } : MonSt).clearIfPending
       let t := if rest.isEmpty then resumeSequence d t else startInjection d t
       match x.src, x.src.bind s.execOf with
       | some src, some ex => if ex.wait = .injection d then complete src ex.desc ex.index .ok result t else t
       | _, _ => t)

/-- Every accumulator and tracker of each die is latched over the second that ends, and the latch sets restart (R368). -/
def execMonSecondLatch (s : State) : Res :=
  let t := s.now / countsPerSecond * countsPerSecond
  onlyIf (decide (s.mon.lastLatch < t)) s
    { s with mon :=
        { dies := s.mon.dies.mapAll s.dies fun d m => if s.monUp d then { m with latched := s.monRecord d, secAccs := Tbl.empty {}, secTrks := Tbl.empty {} } else m
          lastLatch := t } }

/-- Writing 1 to APPLY: at the end of the pass in progress, at once if RUN is 0 (R365). -/
def execMonApply (d : Nat) (s : State) : Res :=
  let m := s.mon.dies.get d
  dieWrite d (s.monUp d) (fun t => if !m.run && !m.converting then applyMon d t else t.setMon d fun m => { m with applyPending := true }) s

/-- Writing 1 to CLEAR: at the next conversion boundary, at once where no conversion runs (R369). -/
def execMonClear (d : Nat) (s : State) : Res :=
  dieWrite d (s.monUp d)
    (fun t => t.setMon d fun m =>
      let m : MonSt := { m with clearPending := true }
      if m.converting || !m.queue.isEmpty then m else m.clearIfPending) s

/-- RUN set: the sequence starts at entry 0 (R372); a conversion that still runs from before completes first. -/
def execMonRunSet (d : Nat) (s : State) : Res :=
  let m := s.mon.dies.get d
  dieWrite d (s.monUp d && !m.run)
    (fun t =>
      let t := t.setMon d fun m => { m with run := true }
      if m.stopping then t else startSequence d t) s

/-- RUN cleared: the conversion that runs completes and is accumulated, then the sequence stops (R372). -/
def execMonRunClear (d : Nat) (s : State) : Res :=
  let m := s.mon.dies.get d
  dieWrite d (s.monUp d && m.run)
    (fun t =>
      let t := t.setMon d fun m => { m with run := false }
      if m.converting then t.setMon d fun m => { m with stopping := true } else stopSequence d t) s

/-- A read of SUM_LO returns it and snapshots SUM_HI and COUNT of the accumulator (R370); of an absent die it returns 0 (00 R4). -/
def execSumLoRead (d i : Nat) (s : State) : Res :=
  let a := (s.mon.dies.get d).accs.get i
  if 16 ≤ i then .next s
  else dieRead d (a.sum.toNat % 2 ^ 32) (fun t => t.setMon d fun m => { m with snaps := m.snaps.set i (a.sum.toNat / 2 ^ 32, a.count.toNat) }) s

/-- The telemetry block of the last latched second (10 R307). -/
def execTelemetryRecord (d : Nat) (s : State) : Res :=
  let m := s.mon.dies.get d
  let t1 := s.mon.lastLatch
  let t0 := t1 - countsPerSecond
  onlyIf (s.monUp d && decide (m.telemetered < t1)) s
    (formRouted .telemetry (fun _ => true)
      { format := 0x0801, srcType := 8, srcIndex := d, die := d, timestamp := t0, sampleCount := 1
        flags := s.clockFlags d [] t0 t1, payload := m.latched }
      (s.setMon d fun m => { m with telemetered := t1 }))

end Sys2Proof.Machine
end

