-- ==== Sys2Proof/Machine/Cal.lean ====
section
/-!
DEFINITION. Calibration (12): background level steps, the standby's drift term, the monitor's background calibration, queries and stores.
-/
namespace Sys2Proof.Machine

/-- The present count of an item. -/
def State.calCount (s : State) (item index : Nat) : Nat := (s.cal.items.get (item * 16 + index)).count.toNat

/-- RESULT of CAL_IMPLAUSIBLE: the deviation in bits [15:0], the reason in bits [23:16] (R352). -/
def implausible (dev : Int) (reason : Nat) : Nat := wrapInt 16 dev + reason * 65536

/-- RESULT of a SYSCAL_STEP: the change in bits [15:0], the item's new count in bits [47:16] (R350). -/
def sysResult (change : Int) (count : Nat) : Nat := wrapInt 16 change + count * 65536

/-- A background check failed: CAL_CHECK_FAILED, the item stays due; a command that waits completes with CAL_IMPLAUSIBLE (R352, R357). -/
def checkFailed (item index reason origin : Nat) (dev : Int) (w : Wait → Bool) (s : State) : State :=
  let s := calFailed item index reason s
  completeAll w .calImplausible (implausible dev reason) (raise .calCheckFailed origin [.w item, .w index, .w reason, .w dev] s)

/-! ### Background level steps (R344 to R347) -/

/-- Offsets of the ends of a pass's phases from its start, 2, 22, 24, 44 and 64 ms (R345). -/
def LevelPhase.ends : LevelPhase → Nat
  | .retune => 200000
  | .offWindow => 2200000
  | .switch => 2400000
  | .on1 => 4400000
  | .on2 | .evaluate | .return_ => 6400000

/-- Background level steps may begin: a reception mode or DIAGNOSTIC, no CALIN_SUSPECT, a block boundary (R352, R357). -/
def State.levelAllowed (s : State) : Bool := s.mode.mode.receiving && !s.cal.suspect && decide (s.now % countsPerBlock = 0)

/-- The leading converter's path of an input can be measured: a leader that samples, its sampling clock not coasting (R344, R358). -/
def State.pathRuns (s : State) (n : Nat) : Bool :=
  let c := s.front.courses.get n
  match c.leader with
  | some x => c.mode != .off && !c.lost && (s.front.convs.get (s.convOf n x)).sampling && !(s.clk.get (s.convOf n x / 2)).samp.coasting
  | none => false

/-- The cover of a step: native cover stands already; HOLD cover is taken, and uses the window (R344, 01 R29). -/
def takeWindow (k lane : Nat) (kind : CoverKind) (s : State) : State :=
  let s := { s with cal := { s.cal with lastPos := if kind = .offLane then s.cal.lastPos else s.cal.lastPos.set k (lane % 8) } }
  if kind = .hold then
    (endAssay k s).setSpare k fun x => { (x.beginCover (lane % 8) true s.now) with assay := none, coverTaken := true, lastCoverStart := some s.now, cover := some ⟨lane % 8, true, s.now⟩ }
  else s

/-- The measuring lane runs on a tone at 48 kS/s with its channel filter bypassed: a lane-level event (R345, 05 R164). -/
def tuneTone (l f : Nat) (s : State) : State :=
  let c0 : Chain := { (s.taps.lanes.get l) with active := true, rateClass := 0, filter := 0, bank := 0, filterLen := 1, phaseDelay := 0, coarseDelay := 0, disturbs := [], tunes := [] }
  let c1 := (c0.disturb s.now (.instant s.now false true)).goOn s.now (s.tuneOf (laneCluster l) f {} c0)
  { s with taps := { s.taps with tones := s.taps.tones.set l c1 } }

/-- The measuring lane reloads its station: a lane-level event (R345, 05 R164). -/
def reloadStation (l : Nat) (s : State) : State :=
  let old := s.taps.tones.get l
  let c0 : Chain := { (s.taps.lanes.get l) with disturbs := old.disturbs, tunes := old.tunes }
  { s with taps := { s.taps with tones := s.taps.tones.set l ((c0.disturb s.now (.instant s.now false true)).goOn s.now (s.laneTune l)) } }

/-- At B the measuring lane is taken and tuned to the tone; the tone table is read (R343 to R345). -/
def execLevelStepStart (n : Nat) (s : State) : Res :=
  let u := if decide (n < s.dies) && s.levelAllowed && decide (0 < s.taskAge (.level n)) then noteReach n s else s
  match s.levelChoice n with
  | none => .next u
  | some (l, i, kind) =>
    let t := s.cal.tones.getD i {}
    onlyIf (decide (n < s.dies) && s.levelAllowed && decide (0 < s.taskAge (.level n)) && (s.cal.steps.get n).isNone && s.pathRuns n && s.levelTurn n l) u
      (let v := tuneTone l t.freq (takeWindow (laneCluster l) l kind u)
       { v with cal := { v.cal with
           steps := v.cal.steps.set n (some { lane := l, kind := kind, tone := i, toneFreq := t.freq, toneLevel := t.level.getD 0, coupled := tableAt (v.cal.coefs.transfer.get n).q t.freq, start := s.now, passStart := s.now })
           windowsUsed := v.cal.windowsUsed.modify n (· + 1), toneUse := v.cal.toneUse.set (n * 8 + i) (v.cal.toneClock + 1), toneClock := v.cal.toneClock + 1 } })

/-- The step of an input changed by `f`. -/
def setStep (n : Nat) (f : LevelStep → LevelStep) (s : State) : State := { s with cal := { s.cal with steps := s.cal.steps.modify n fun o => o.map f } }

/-- Sum and number of |x|² of the measuring lane over [t0, t1) (R345). -/
def State.tonePower (s : State) (air : Air) (l t0 t1 : Nat) : Nat × Nat :=
  let c := s.taps.tones.get l
  let ps := (c.gridIn t0 t1).map fun n => (s.chainSample air c n).power
  (ps.sum, ps.length)

/-- The level of a window in 0.01 dBFS. -/
def powerLevel (p : Nat × Nat) : Int := db100 p.1 (fullScale * p.2)

/-- A phase or window of a step ends (R345): a window's level is the mean of |x|² of its lane, brought to dBµV with the C in force at B. -/
def execLevelPhaseEnd (n : Nat) (air : Air) (s : State) : Res :=
  match s.cal.steps.get n with
  | none => .next s
  | some st =>
    let x := ((s.front.courses.get n).leader).getD 0
    let t1 := st.passStart + st.phase.ends
    let w := s.tonePower air st.lane (t1 - 2000000) t1
    let p := s.levelUv n x st.toneFreq st.start (powerLevel w)
    onlyIf (decide (st.phase ≠ .evaluate) && decide (t1 ≤ s.now)
        && (decide (st.phase ≠ .return_) || (decide (s.now % countsPerBlock = 0) && s.stationRuns st.lane))) s
      (match st.phase with
       | .retune => setStep n (fun y => { y with phase := .offWindow }) s
       | .offWindow => setInject n 1 (setStep n (fun y => { y with phase := .switch, pOff := p, offPower := w }) s)
       | .switch => setStep n (fun y => { y with phase := .on1 }) s
       | .on1 => setStep n (fun y => { y with phase := .on2, pOn1 := p, on1Power := w }) s
       | .on2 => setStep n (fun y => { y with phase := .evaluate, pOn2 := p, on2Power := w }) s
       | .evaluate => s
       | .return_ => endLevelStep n s)

/-- TONE_ABSENT on two inputs within 60 s: no background level step for 10 min (R352). -/
def noteAbsent (n : Nat) (s : State) : State :=
  let recent := s.cal.toneAbsent.filter fun x => decide (s.now < x.2 + 60 * countsPerSecond)
  let s := { s with cal := { s.cal with toneAbsent := (n, s.now) :: recent } }
  if (recent.any fun x => x.1 != n) && !s.cal.suspect then
    refresh (raise .calinSuspect pkg [.q s.now] { s with cal := { s.cal with suspect := true, suspectUntil := s.now + 600 * countsPerSecond } })
  else s

/-- X: the tone's expected level in 0.01 dBµV at the balls (R346). -/
def LevelStep.expected (st : LevelStep) : Int := st.toneLevel + st.coupled + 11000

/-- The first background check that fails, with its reason and deviation (R351). `mean`: of the two on windows, `m`: M of R346, both in 0.01 dBµV. -/
def levelCheck (st : LevelStep) (x mean m : Int) : Option (Nat × Int) :=
  if mean < st.pOff + 2000 then some (1, m)
  else if 200 < (m - x).natAbs then some (2, m - x)
  else if x - 3000 < st.pOff then some (5, st.pOff - x)
  else if 10 < (st.pOn2 - st.pOn1).natAbs then some (6, st.pOn2 - st.pOn1)
  else none

/-- Injection Off, the measuring lane reloads its station (R345). -/
def toReturn (n : Nat) (st : LevelStep) (s : State) : State :=
  reloadStation st.lane (setInject n 0 (setStep n (fun y => { y with phase := .return_ }) s))

/-- The mean level of two on windows, and that of what they hold beyond the off window, 10 log10(mean(P_on1, P_on2) − P_off), in 0.01 dBFS (R346). -/
def meanOn (a b : Nat × Nat) : Int := powerLevel (a.1 + b.1, a.2 + b.2)
def netOn (off a b : Nat × Nat) : Int := db100 ((a.1 + b.1) * off.2 - off.1 * (a.2 + b.2)) (fullScale * (a.2 + b.2) * off.2)

/-- The step is evaluated: D of the leader takes the error off, or a check fails (R346, R352). -/
def evaluateStep (n : Nat) (st : LevelStep) (mean m : Int) (s : State) : State :=
  let x := st.expected
  let s := toReturn n st { s with cal := { s.cal with windowsUsed := s.cal.windowsUsed.set n 0 } }
  match levelCheck st x mean m with
  | some (reason, dev) =>
    let s := if reason = 1 then noteAbsent n s else s
    checkFailed 0 n reason pkg dev (fun w => w = .level n) s
  | none =>
    let l := s.cal.coefs.level.get n
    let e := m - x
    let s := if (s.front.courses.get n).leader = some 1 then setDrift n l.dA (l.dB - e) s else setDrift n (l.dA - e) l.dB s
    let s := taskNormal (.level n) (calSuccess 0 n s)
    refresh (completeAll (fun w => w = .level n) .ok (s.calCount 0 n) s)

/-- At B + 64 ms: a pass with a discarded window is repeated once while B′ stays within B + 300 ms, else the step ends without an update; a sound pass is evaluated (R346, R347). -/
def execLevelStepEval (n : Nat) (s : State) : Res :=
  match s.cal.steps.get n with
  | none => .next s
  | some st =>
    let x := ((s.front.courses.get n).leader).getD 0
    let uv := s.levelUv n x st.toneFreq st.start
    onlyIf (decide (st.phase = .evaluate) && decide (st.passStart + 6400000 ≤ s.now)) s
      (if st.spoiled then
         if !st.repeated && decide (s.now + 6600000 ≤ st.start + 30000000) then
           setInject n 0 (setStep n (fun y => { y with phase := .offWindow, passStart := s.now - 200000, spoiled := false, repeated := true }) s)
         else toReturn n st s
       else evaluateStep n st (uv (meanOn st.on1Power st.on2Power)) (uv (netOn st.offPower st.on1Power st.on2Power)) s)

/-- Each second D of a duplex course's standby is brought to the leader's by the powers of the check windows since; a change of more than 0.50 dB is not made (R342). -/
def execStandbyDUpdate (j : Nat) (s : State) : Res :=
  let c := s.front.courses.get j
  let l := s.cal.coefs.level.get j
  match c.leader with
  | none => .next s
  | some x =>
    let p := if x = 0 then c.checkPower else (c.checkPower.2, c.checkPower.1)
    let new := (if x = 0 then l.dA else l.dB) + db100 p.2 p.1
    let old := if x = 0 then l.dB else l.dA
    onlyIf (decide (j < s.dies) && decide (c.mode = .duplex) && decide (c.driftedAt + countsPerSecond ≤ s.now) && decide (0 < p.1) && decide (0 < p.2)) s
      (let s := s.setCourse j fun c => { c with checkPower := (0, 0), driftedAt := s.now }
       if 50 < (new - old).natAbs then s else if x = 0 then setDrift j l.dA new s else setDrift j new l.dB s)

/-- The 10 min after CALIN_SUSPECT end (R352). -/
def execCalinSuspectHoldEnd (s : State) : Res :=
  onlyIf (s.cal.suspect && decide (s.cal.suspectUntil ≤ s.now)) s
    (refresh { s with cal := { s.cal with suspect := false, toneAbsent := [] } })

/-! ### MONITOR (R353, 13 R371) -/

/-- New offset and gain of a monitor converter, from the first conversion that begins after the next block boundary (R348). -/
def setMonitor (d : Nat) (c : MonCoef) (s : State) : State :=
  let old := s.monCorr d s.now
  let s := s.setMon d fun m => { m with oldOffset := old.1, oldGain := old.2, corrFrom := ceilTo countsPerBlock s.now }
  calChanged { s with cal := { s.cal with coefs := { s.cal.coefs with monitor := s.cal.coefs.monitor.set d c } } }

/-- A conversion of a die's monitor as a 16-bit code of the normal mode (13 R361). -/
def State.monCode (s : State) (d : Nat) (corr : Int × Int) (channel : Nat) (raw : Int) : Int :=
  let c := (s.mon.dies.get d).active
  c.code16 (monResult c corr channel raw)

/-- A loop-back reading differs from its code's voltage by more than 4 mV (13 R371). -/
def loopFails (dac : Nat) (code : Int) : Bool := decide (262144 < (code - 64 * dac).natAbs * 2500)

/-- A reference channel's deviation from its value at AUX_FULL, 0.001 % (R351). -/
def refDeviation (code ref : Int) : Int := if ref = 0 then 0 else roundDiv ((code - ref) * 100000) ref

/-- The background calibration of a monitor converter ends (R353, 13 R371). `ref0`, `ref1`, `loop100`, `loop300`: conversions before correction in 1/256 LSB. It follows an injected conversion that was in progress, goes before those queued, and the interrupted regular entry is repeated. -/
def execMonitorBackgroundCal (d : Nat) (ref0 ref1 loop100 loop300 : Int) (s : State) : Res :=
  let m := s.mon.dies.get d
  let corr := s.monCorr d s.now
  let c := s.cal.coefs.monitor.get d
  let w := fun (x : Wait) => decide (x = .monitor d)
  let a := s.monCode d corr 20 loop100
  let b := s.monCode d corr 20 loop300
  let v0 := refDeviation (s.monCode d corr 18 ref0) c.ref0
  let v1 := refDeviation (s.monCode d corr 19 ref1) c.ref1
  onlyIf (s.monUp d && decide (0 < s.taskAge (.monitor d)) && (m.queue.isEmpty || m.injStart == s.now)) s
    (let t := if m.converting then startConv d m.entry s else s
     if loopFails 0x100 a || loopFails 0x300 b then
       let t := raise .monLoopbackFail d (if loopFails 0x100 a then [.w d, .w 0x100, .w a] else [.w d, .w 0x300, .w b]) t
       completeAll w .calImplausible (t.freeNat % 2 ^ 24) (advanceFree t)
     else if 1000 < v0.natAbs then checkFailed 4 d 2 d v0 w t
     else if 1000 < v1.natAbs then checkFailed 4 d 2 d v1 w t
     else
       let o := Config.towardRefs ref0 ref1 c.ref0 c.ref1
       let t := taskNormal (.monitor d) (calSuccess 4 d (setMonitor d { c with offset := o.1, gain := o.2 } t))
       refresh (completeAll w .ok (t.calCount 4 d) t))

/-! ### CAL_START, CAL_QUERY (R354, R357) -/

/-- CAL_START: LEVEL or MONITOR is overdue from this moment; LEVEL unreachable is RESOURCE_BUSY (R357). -/
def execCalStart (src : CmdSrc) (s : State) : Res :=
  runCmd .calStart src none (fun f s =>
    let i := field f.desc 6 0 16
    if field f.desc 4 0 8 = 0 then
      let s := noteReach i s
      if s.cal.unreachable.contains i then finish src f .resourceBusy 0 s
      else
        let s := if s.taskAge (.level i) = 2 then s else refresh (preempt (taskOverdue (.level i) (raise .calOverdue pkg [.w 0, .w i] s)))
        await src f (.level i) s
    else
      let s := if s.taskAge (.monitor i) = 2 then s else refresh (preempt (taskOverdue (.monitor i) (raise .calOverdue i [.w 4, .w i] s)))
      await src f (.monitor i) s) s

/-- STATE of an item: 0 never since load, 1 normal, 2 due, 3 overdue, 4 unreachable (R354). -/
def State.calStateCode (s : State) (item index : Nat) : Nat :=
  let age := match item with
    | 0 => s.taskAge (.level index)
    | 4 => s.taskAge (.monitor index)
    | _ => 0
  if item = 0 && s.cal.unreachable.contains index then 4
  else if age = 2 then 3
  else if age = 1 then 2
  else if (s.cal.items.get (item * 16 + index)).fresh then 1
  else 0

/-- The coefficients of an item as CAL_QUERY lays them out (R354). -/
def State.calCoefBytes (s : State) (item index : Nat) : List Byte :=
  let c := s.cal.coefs
  match item with
  | 0 =>
    let x := c.level.get index
    x.cs.flatMap (leInt 2) ++ leInt 2 x.dA ++ leInt 2 x.dB
  | 1 =>
    let x := c.transfer.get index
    x.i.flatMap (leInt 2) ++ x.q.flatMap (leInt 2)
  | 2 =>
    let x := c.gainSteps.get index
    x.steps.flatMap (leInt 2) ++ leInt 2 x.delay
  | 3 => leInt 4 (c.trim.get index)
  | 4 =>
    let x := c.monitor.get index
    leInt 4 x.offset ++ leInt 4 x.gain ++ leInt 2 x.ref0 ++ leInt 2 x.ref1
  | _ =>
    (List.range 9).flatMap fun i =>
      let x := c.slices.get (index * 27 + (s.clk.get (index / 2)).plan * 9 + i)
      leInt 2 x.gain ++ leInt 2 x.offset ++ leInt 2 x.skew ++ x.bw.flatMap (leInt 2) ++ zeros 4

/-- The record of CAL_QUERY (R354). -/
def State.calRecord (s : State) (item index : Nat) : List Byte :=
  let x := s.cal.items.get (item * 16 + index)
  let coef := s.calCoefBytes item index
  le 1 item ++ le 1 (s.calStateCode item index + 8 * x.origin) ++ le 1 x.lastFail ++ zeros 1 ++ le 4 x.count.toNat ++ le 8 x.lastSystime ++ le 8 x.lastTai
  ++ le 2 x.failCount.toNat ++ le 2 coef.length ++ zeros 4 ++ coef

/-- CAL_QUERY (R354). -/
def execCalQuery (src : CmdSrc) (s : State) : Res :=
  runCmd .calQuery src none (fun f s => finishOutput src f (s.calRecord (field f.desc 4 0 8) (field f.desc 6 0 16)) s) s

/-! ### Stores (R355, R357) -/

/-- A slot of package flash replaced. -/
def NvSt.setCalSlot (v : NvSt) (b : Bool) (x : CalSlot) : NvSt := if b then { v with calB := x } else { v with calA := x }

/-- A store begins, at the next block boundary: a snapshot of what is in force there for the slot that does not hold the newest valid store, with the next sequence number; that slot holds nothing valid until it ends (R355). -/
def beginStore (automatic : Bool) (s : State) : State :=
  let b := match s.nv.newerSlot with
    | some x => !x
    | none => false
  { s with
    cal := { s.cal with store := some { slot := b2n b, seq := s.cal.storeSeq + 1, begin_ := ceilTo countsPerBlock s.now, snap := ⟨s.cal.coefs, s.cal.items⟩, automatic := automatic } }
    nv := s.nv.setCalSlot b { s.nv.calSlot b with valid := false } }

/-- CAL_STORE; one issued during an automatic store waits for it and then makes its own; one issued during another is occupied (R355, notes/assumptions/35.md). -/
def execCalStore (src : CmdSrc) (s : State) : Res :=
  runCmd .calStore src none (fun f s =>
    match s.cal.store with
    | none => await src f .calStore (beginStore false s)
    | some st =>
      if st.automatic && !st.again then await src f .calStore { s with cal := { s.cal with store := some { st with again := true } } }
      else finish src f .resourceBusy 0 s) s

/-- An automatic store begins, 24 h after the first change since the last store (R357). -/
def execAutoStore (s : State) : Res :=
  let due := match s.cal.unsavedSince with
    | some t => decide (t + 86400 * countsPerSecond ≤ s.now)
    | none => false
  let m := s.mode.mode
  onlyIf (s.cal.autoStore && due && s.cal.store.isNone && m != .off && m != .boot && m != .recovery && m != .halted) s (beginStore true s)

/-- A slot's write and read-back end: a failure is followed by one rewrite, a second one ends the store with CAL_STORE_FAILED (R355, 14 R386). -/
def execCalStoreWriteDone (ok : Bool) (s : State) : Res :=
  match s.cal.store with
  | none => .next s
  | some st =>
    let w := fun (x : Wait) => decide (x = .calStore)
    .next (
      if ok then
        let t := { s with
          cal := { s.cal with store := none, storeSlot := st.slot, storeValid := true, storeSeq := st.seq, unsavedSince := st.changed }
          nv := s.nv.setCalSlot (st.slot == 1) ⟨st.seq, true, st.snap⟩
          integ := { s.integ with flashFaults := s.integ.flashFaults.filter (· != .calibration) } }
        let t := refresh (taskNormal .store (raise .calStored pkg [.w st.slot, .w st.seq.toNat, .w (b2n (!st.automatic))] t))
        if st.again then beginStore false t
        else if st.automatic then t else completeWait w .ok st.seq.toNat t
      else if !st.rewritten then { s with cal := { s.cal with store := some { st with rewritten := true } } }
      else
        let t := raise .calStoreFailed pkg [.w st.slot] { s with cal := { s.cal with store := none } }
        let t := refresh (flashFault .calibration t)
        if st.again then beginStore false t
        else if st.automatic then t else completeWait w .timeout 0xFF t)

end Sys2Proof.Machine
end

