-- ==== Sys2Proof/Machine/Commit.lean ====
section
/-!
DEFINITION. COMMIT from its validation to its tick (11 R322 to R326).
-/
namespace Sys2Proof.Machine

/-- COMMIT: the snapshot is validated; with DRY_RUN nothing is kept; else it becomes the pending set, and what it needs is powered (R322 to R325, 17 R435). -/
def execCommit (src : CmdSrc) (s : State) : Res :=
  runCmd .commit src none (fun f s =>
    let dry := bitAt f.desc 10 0
    let snap := s.cfg.shadow
    if !dry && s.cfg.commit.isSome then finish src f .resourceBusy 0 s
    else match (s.liveFollows snap).invalid s with
      | some r => finish src f .stageInvalid r s
      | none =>
        if dry then finish src f .ok 0 s
        else
          let t := s.tickOf0 (field f.desc 4 0 48)
          await src f .commit (powerDigital snap { s with cfg := { s.cfg with commit := some { set := snap, tick := t, effective := t, src := some src } } })) s

/-- The latest F1, as a tick number, of the fades on die `d` that hold the pending COMMIT; 0 if none (07 R218). -/
def State.holdOf (s : State) (p : PendingCommit) (d : Nat) : Nat :=
  maxL ((List.range 16).map fun i =>
    let f := d * 16 + i
    match (s.audio.follows.get f).fade with
    | some x => if decide (x.f0 ≤ p.tick * countsPerTick) && decide (p.tick * countsPerTick < x.f1) && s.commitAffects p.set f then x.f1 / countsPerTick else 0
    | none => 0)

/-- The pending COMMIT changed by `f`. -/
def setCommit (f : PendingCommit → PendingCommit) (s : State) : State := { s with cfg := { s.cfg with commit := s.cfg.commit.map f } }

/-- A die has received the pending set: it acknowledges with the fades that hold the COMMIT; a CRC mismatch (`good` false) asks once more, a second one withholds the acknowledgement (R324, 14 R392). -/
def execPendingSetReceived (d : Nat) (good : Bool) (s : State) : Res :=
  match s.cfg.commit with
  | none => .next s
  | some p =>
    onlyIf (decide (d < s.dies) && s.dieUp d && !p.confirmed && !maskBit p.acks d && !maskBit p.withheld d && decide (s.now < (p.tick - 1) * countsPerTick)) s
      (setCommit (fun c =>
        if good then { c with acks := c.acks ||| 2 ^ d, holdTick := max c.holdTick (s.holdOf p d) }
        else if maskBit c.retried d then { c with withheld := c.withheld ||| 2 ^ d }
        else { c with retried := c.retried ||| 2 ^ d }) s)

/-- Tick T − 1: the effective tick is confirmed, or the set is withdrawn with TIMEOUT and the first die that has not acknowledged (R324, R326). -/
def execCommitAckDeadline (s : State) : Res :=
  match s.cfg.commit with
  | none => .next s
  | some p =>
    onlyIf (!p.confirmed && decide ((p.tick - 1) * countsPerTick ≤ s.now)) s
      (match (List.range s.dies).find? fun d => s.dieUp d && !maskBit p.acks d with
       | some d => answerCommit p .timeout d { s with cfg := { s.cfg with commit := none } }
       | none => setCommit (fun c => { c with confirmed := true, effective := max c.tick c.holdTick }) s)

/-- A COMMIT's effective tick on every die: the pending set comes into force, CONFIG_GEN counts, hops begin where the plan changes; without hops the COMMIT completes (R326, 02 R44). `temps`: TEMP2 of each die at the tick in 0.01 °C. -/
def execConfigSwap (temps : List Int) (s : State) : Res :=
  match s.cfg.commit with
  | none => .next s
  | some p =>
    onlyIf (p.confirmed && decide (p.effective * countsPerTick ≤ s.now)) s
      (let m := s.mode.mode
       let hop := p.set.plan != s.cfg.active.plan
       let t := bringSet (if m.receiving then State.setDomains else State.exitDomains m) s.cfg.active (p.set.forceSet s.dies m) (s.touchedMembers p.set) s
       let t := { t with cfg := { t.cfg with committed := p.set } }
       let t := { t with link := { t.link with configGen := t.link.configGen + 1, swaps := tickOf t.now :: t.link.swaps } }
       let dies := (List.range t.dies).filter t.dieUp
       let t := { t with cfg := { t.cfg with commit := none, hopping := t.cfg.hopping ++ [{ p with planHop := hop, hopsLeft := if hop then orBits dies else 0 }] } }
       let t := if hop then dies.foldl (fun acc d => beginHop p.set.plan temps d acc) t else t
       refresh (finishCommits (seeUnits t)))

end Sys2Proof.Machine
end

