-- ==== Sys2Proof/Machine/Mb.lean ====
section
/-!
DEFINITION. The management bus (16): the window, target transactions, the controller role, the mailbox. The commands that name a transaction carry its bytes as they stood on the bus (notes/assumptions/36.md).
-/
namespace Sys2Proof.Machine

/-! ### PEC, address, counts -/

/-- One bit of the CRC-8 of SMBus, x⁸ + x² + x + 1, not reflected (R418). -/
def pecBit (c : Nat) : Nat := if 128 ≤ c then (c * 2 % 256) ^^^ 7 else c * 2

/-- PEC over bytes: initial value 0, no final exclusive-or (R418). -/
def pecOf (bs : List Byte) : Byte :=
  BitVec.ofNat 8 (bs.foldl (fun c b => pecBit (pecBit (pecBit (pecBit (pecBit (pecBit (pecBit (pecBit (c ^^^ b.toNat)))))))) ) 0)

/-- The part's 7-bit target address (R415). -/
def State.mbAddr (s : State) : Nat := 0x4C + s.pins.mbAddr % 4

/-- An address byte: the 7-bit address and the direction bit. -/
def addrByte (a : Nat) (read : Bool) : Byte := BitVec.ofNat 8 (a * 2 + b2n read)

/-- The target answers: not in OFF, nor while the clocks of SLEEP stand (R416, R428). -/
def State.mbUp (s : State) : Bool := s.mode.mode != .off && (s.mode.mode != .sleep || s.mode.clocksRun)

/-- The counts of the management bus, by the place of their rise in MB_ERRORS. -/
inductive MbCount where
  | pec | timeout | arb | stuck
  deriving DecidableEq, Repr

/-- A count one higher. -/
def MbCounts.bump (k : MbCount) (c : MbCounts) : MbCounts :=
  match k with
  | .pec => { c with pecErrors := satInc c.pecErrors }
  | .timeout => { c with timeouts := satInc c.timeouts }
  | .arb => { c with arbLost := satInc c.arbLost }
  | .stuck => { c with stuck := satInc c.stuck }

/-- A count rises, saturating; the rise counts toward MB_ERRORS. -/
def bumpMb (k : MbCount) (s : State) : State :=
  s.setMb fun m =>
    let c := m.counts.bump k
    { m with counts := c, rises := if c = m.counts then m.rises else m.rises.bump k }

/-! ### The window (16 "Management window", "Registers") -/

/-- The word at 0x0020; `busy`: a transaction addressed to the part is in progress. -/
def MbSt.word20 (m : MbSt) (addr : Nat) (busy : Bool) : Nat :=
  addr % 4 + 4 * b2n m.pecReq + 8 * b2n m.timeoutEn + 16 * b2n m.ctrlEnable + 32 * (m.arbRetries % 8) + 256 * b2n busy
    + 512 * b2n m.ctrlBusy + 1024 * b2n m.sdaLow + 2048 * b2n m.sclLow
/-- The timing word at 0x0024 (R431). -/
def MbSt.word24 (m : MbSt) : Nat := m.sclLowT + 1024 * m.sclHighT + 2 ^ 20 * m.sdaHold + 2 ^ 27 * m.glitch
/-- The fields of the transfer word at 0x0040 that hold what is written. -/
def MbSt.fields40 (m : MbSt) : Nat := m.targetAddr + 128 * b2n m.usePec + 256 * m.wlen + 2 ^ 14 * m.rlen
/-- The transfer word at 0x0040; GO reads 1 until DONE (R424). -/
def MbSt.word40 (m : MbSt) : Nat := m.fields40 + 2 ^ 20 * b2n m.go + 2 ^ 21 * m.result + 2 ^ 24 * b2n m.done

/-- STATE of MBOX_CTRL (R422). -/
def State.mboxState (s : State) : Nat :=
  if s.mode.mode = .boot then 3
  else match s.mb.mboxPhase with
    | .idle => 0
    | .busy => 1
    | .done => 2

/-- The word MBOX_CTRL at 0x0150. -/
def State.mboxWord (s : State) : Nat := 2 * s.mboxState + 8 * b2n s.mb.mboxOverrun + 256 * s.mb.mboxSeq.toNat

/-- The package identification word (10 R281). -/
def State.idWord (s : State) : Nat := s.dies + 256 * s.part.siliconRev + 65536 * s.part.deviceId

/-- Pointers 0x0000 to 0x001F of the window. -/
def State.mbHead (s : State) : List Byte :=
  le 4 s.idWord ++ le 1 s.mode.mode.code ++ le 1 s.integ.haltCause ++ le 1 (maskOf 8 s.integ.fenced.contains) ++ zeros 1
    ++ le 4 s.faultSummary ++ zeros 4 ++ le 8 s.now ++ le 8 s.nv.sec.serial.toNat

/-- Pointers 0x0020 to 0x0063. -/
def State.mbRegs (s : State) (busy : Bool) : List Byte :=
  let m := s.mb
  le 4 (m.word20 s.pins.mbAddr busy) ++ le 4 m.word24
    ++ le 2 m.counts.pecErrors.toNat ++ le 2 m.counts.timeouts.toNat ++ le 2 m.counts.arbLost.toNat ++ le 2 m.counts.stuck.toNat
    ++ zeros 16 ++ le 4 m.word40 ++ m.ctrlData

/-- A byte of the window as a target transaction reads it; reserved areas, absent dies and bytes beyond 0x0FFF read 0 (R420). -/
def State.mbByte (s : State) (p : Nat) : Byte :=
  if p < 0x20 then s.mbHead.getD p 0
  else if p < 0x64 then (s.mbRegs true).getD (p - 0x20) 0
  else if p < 0x100 then 0
  else if p < 0x140 then s.mb.mboxDesc.getD (p - 0x100) 0
  else if p < 0x150 then s.mb.mboxCpl.getD (p - 0x140) 0
  else if p < 0x154 then (le 4 s.mboxWord).getD (p - 0x150) 0
  else if p < 0x200 then 0
  else if p < 0x400 then s.mb.mboxOut.getD (p - 0x200) 0
  else if p < 0x400 + 0x140 * s.dies then (s.mon.dies.get ((p - 0x400) / 0x140)).latched.getD ((p - 0x400) % 0x140) 0
  else 0

/-! ### Register writes, from the bus or from the host -/

/-- The bus control word (16 "pointer 0x0020"). -/
def writeBusCtrl (v : Nat) (s : State) : State :=
  s.setMb fun m =>
    let m := { m with pecReq := maskBit v 2, timeoutEn := maskBit v 3, ctrlEnable := maskBit v 4, arbRetries := v / 32 % 8 }
    if maskBit v 12 then { m with counts := {} } else m

/-- The timing word, ignored unless every field lies in its range and SDA_HOLD + GLITCH is below SCL_LOW (R431). -/
def writeTiming (v : Nat) (s : State) : State :=
  let lo := v % 1024
  let hi := v / 1024 % 1024
  let hold := v / 2 ^ 20 % 128
  let gl := v / 2 ^ 27 % 32
  if 50 ≤ lo && lo ≤ 1000 && 26 ≤ hi && hi ≤ 1000 && hold ≤ 100 && decide (hold + gl < lo) then
    s.setMb fun m => { m with sclLowT := lo, sclHighT := hi, sdaHold := hold, glitch := gl }
  else s

/-- A controller transfer ends: DONE with its RESULT (R424, R425, R430). -/
def endTransfer (result : Nat) (s : State) : State :=
  s.setMb fun m => { m with go := false, goWaiting := false, ctrlBusy := false, result := result, done := true }

/-- GO of the transfer word: ignored with CTRL_ENABLE clear, with nothing to transfer, in HALTED or before DONE; the part's own address ends at once with RESULT 1 (R424, R432). -/
def requestGo (s : State) : State :=
  let m := s.mb
  if s.mode.mode = .halted || !m.ctrlEnable || m.go || (m.wlen == 0 && m.rlen == 0) then s
  else if m.targetAddr = s.mbAddr then endTransfer 1 s
  else s.setMb fun m => { m with go := true, goWaiting := true, retriesLeft := m.arbRetries }

/-- The transfer word, with DONE cleared by a 1 and GO by `requestGo` (16 "pointer 0x0040"). -/
def writeTransfer (v : Nat) (s : State) : State :=
  let s := s.setMb fun m => { m with targetAddr := v % 128, usePec := maskBit v 7, wlen := v / 256 % 64, rlen := v / 2 ^ 14 % 64, done := m.done && !maskBit v 24 }
  if maskBit v 20 then requestGo s else s

/-- GO of the mailbox: ignored in BOOT; while BUSY it sets MBOX_OVERRUN; else the descriptor is taken and checked, and its command begins in its turn (R421 to R423). -/
def mboxGo (s : State) : State :=
  let d := s.mb.mboxDesc
  let good := field d 60 0 32 == (crc32c (d.take 60)).toNat
  if s.mode.mode = .boot then s
  else if s.mb.mboxPhase = .busy then s.setMb fun m => { m with mboxOverrun := true }
  else
    let t := s.setMb fun m => { m with mboxPhase := .busy, mboxSeq := m.mboxSeq + 1 }
    let n := t.mb.mboxSeq.toNat
    if !good then completeOne .mailbox d n .checkFail 0 t
    else if (Cmd.ofOpcode (field d 0 0 8)).isNone then completeOne .mailbox d n .badOpcode 0 t
    else t.setMb fun m => { m with mboxCmd := some ⟨d, n, true⟩ }

/-- MBOX_CTRL written (16 "pointer 0x0150"). -/
def writeMboxCtrl (v : Nat) (s : State) : State :=
  let s := s.setMb fun m => { m with mboxOverrun := m.mboxOverrun && !maskBit v 3 }
  if maskBit v 0 then mboxGo s else s

/-- Data bytes from a pointer on. -/
structure MbData where
  pointer : Nat
  bytes : List Byte
  deriving DecidableEq, Repr

/-- Some byte lies in the `n` bytes from `base`. -/
def MbData.touches (w : MbData) (base n : Nat) : Bool := decide (w.pointer < base + n) && decide (base < w.pointer + w.bytes.length)

/-- The byte at a pointer: the one written, `old` elsewhere. -/
def MbData.byte (w : MbData) (p : Nat) (old : Byte) : Byte :=
  if w.pointer ≤ p && decide (p < w.pointer + w.bytes.length) then w.bytes.getD (p - w.pointer) old else old

/-- A word with the bytes written over `old`: its RW fields as they stand, its other bits 0. -/
def MbData.word (w : MbData) (base old : Nat) : Nat := leNat (((le 4 old).zipIdx).map fun x => w.byte (base + x.2) x.1)

/-- A field of bytes with the bytes written. -/
def MbData.written (w : MbData) (base : Nat) (old : List Byte) : List Byte := (old.zipIdx).map fun x => w.byte (base + x.2) x.1

/-- What a write's data changes at STOP, each field as one value, data before the GO bits (R419, R420). -/
def applyData (w : MbData) (s : State) : State :=
  let s := if w.touches 0x20 4 then
      writeBusCtrl (w.word 0x20 (4 * b2n s.mb.pecReq + 8 * b2n s.mb.timeoutEn + 16 * b2n s.mb.ctrlEnable + 32 * s.mb.arbRetries)) s else s
  let s := if w.touches 0x24 4 then writeTiming (w.word 0x24 s.mb.word24) s else s
  let s := s.setMb fun m => { m with ctrlData := w.written 0x44 m.ctrlData, mboxDesc := w.written 0x100 m.mboxDesc }
  let s := if w.touches 0x40 4 then writeTransfer (w.word 0x40 s.mb.fields40) s else s
  if w.touches 0x150 4 then writeMboxCtrl (w.word 0x150 0) s else s

/-! ### Target transactions -/

/-- PTR and COUNT of the three bytes that follow the address, with the READ bit; none where CTL is not acknowledged (R417). -/
def mbHeader (bs : List Byte) : Option (Nat × Nat × Bool) :=
  match bs with
  | [lo, hi, ctl] =>
    let n := ctl.toNat % 64
    if n = 0 || 32 < n || maskBit ctl.toNat 6 then none else some (lo.toNat + 256 * hi.toNat, n, maskBit ctl.toNat 7)
  | _ => none

/-- A transaction addressed to the part has ended. -/
def mbStop (s : State) : State := s.setMb fun m => { m with target := none, lastTransaction := s.now }

/-- A write is judged at STOP: applied whole, or discarded with PEC_ERRORS (R417, R419). `bytes`: all that followed the address byte. -/
def execMbWriteTransaction (addr : Nat) (bytes : List Byte) (s : State) : Res :=
  onlyIf (s.mbUp && addr == s.mbAddr) s
    (let t := mbStop s
     match mbHeader (bytes.take 3) with
     | some (p, n, false) =>
       let rest := bytes.drop 3
       let data := rest.take n
       let whole := rest.length == n && !s.mb.pecReq
       let checked := rest.length == n + 1 && rest.getD n 0 == pecOf (addrByte addr false :: bytes.take (3 + n))
       if whole || checked then applyData ⟨p, data⟩ t else bumpMb .pec t
     | _ => t)

/-- A read snapshots its range and returns it with a PEC byte, unless the controller does not acknowledge the last data byte (R417, R418, R420). `hdr`: the three bytes after the first address byte; `sda`, `scl`: the lines are low at the snapshot. -/
def execMbReadTransaction (addr : Nat) (hdr : List Byte) (ackLast sda scl : Bool) (s : State) : Res :=
  onlyIf (s.mbUp && addr == s.mbAddr) s
    (let t := mbStop (s.setMb fun m => { m with sdaLow := sda, sclLow := scl })
     match mbHeader hdr with
     | some (p, n, true) =>
       let data := (List.range n).map fun i => t.mbByte (p + i)
       let pec := pecOf (addrByte addr false :: hdr ++ addrByte addr true :: data)
       send (.mbRead data (if ackLast then some pec else none)) t
     | _ => t)

/-- In SLEEP with the clocks stopped, an address byte that matches is acknowledged and starts them; the transaction goes on (R428). -/
def execMbWake (byte : Byte) (s : State) : Res :=
  onlyIf (decide (s.mode.mode = .sleep) && !s.mode.clocksRun && byte.toNat / 2 == s.mbAddr) s
    (raise .mbWake pkg [.q s.now]
      { s with mode := { s.mode with clocksRun := true }, mb := { s.mb with awake := true, target := some ⟨0, 0⟩, lastTransaction := s.now } })

/-- After 1 s with no transaction addressed to the part, the clocks that a match started stop again (R428), unless an access over the host link keeps them (17 R445). -/
def execMbSleepClockStop (s : State) : Res :=
  onlyIf (decide (s.mode.mode = .sleep) && s.mb.awake && decide (s.mb.lastTransaction + countsPerSecond ≤ s.now)) s
    { s with
      mode := { s.mode with clocksRun := s.mode.clocksRun && decide (s.now < s.mode.lastAccess + countsPerSecond) }
      mb := { s.mb with awake := false, target := none } }

/-- SCL low for 35 ms within a transaction: the target releases the lines; a write cut off is discarded (R429). The command gives the pointer at the time, the bytes received and whether a write was cut off. -/
def execMbTargetTimeout (pointer received : Nat) (write : Bool) (s : State) : Res :=
  onlyIf (s.mbUp && s.mb.timeoutEn) s
    (let t := bumpMb .timeout (mbStop s)
     raise .mbTargetTimeout pkg [.w pointer, .w received] (if write then bumpMb .pec t else t))

/-! ### Controller -/

/-- The transfer's write phase as it goes onto the bus (R424 step 1). -/
def MbSt.writePhase (m : MbSt) : List Byte :=
  let d := m.ctrlData.take m.wlen
  if m.usePec then d ++ [pecOf (addrByte m.targetAddr false :: d)] else d

/-- The transfer starts, after recovery of the bus where it is the first since reset or finds SDA stuck low (`stuck`); `freed`: SDA went high within the nine pulses (R424, R430). -/
def startTransfer (stuck freed : Bool) (s : State) : State :=
  let m := s.mb
  if (!m.recovered || stuck) && !freed then
    raise .mbBusStuck pkg [.q s.now] (bumpMb .stuck (endTransfer 4 s))
  else
    let t := s.setMb fun m => { m with recovered := true, goWaiting := false, ctrlBusy := true }
    if m.wlen = 0 then t else send (.mbWrite m.targetAddr m.writePhase) t

/-- A transfer that waits may start: the part is not addressed as target (R426). -/
def State.mayStart (s : State) : Bool := s.mb.goWaiting && s.mb.target.isNone

/-- A host write of the transfer word with GO (`w`), or the start of a transfer that waited for the bus (`none`) (R424, R426, R430). -/
def execMbControllerGo (w : Option Nat) (stuck freed : Bool) (s : State) : Res :=
  match w with
  | some v =>
    onlyIf (s.barUp && maskBit v 20) s
      (let t := writeTransfer v (hostAccess s)
       if t.mayStart && !s.mb.goWaiting then startTransfer stuck freed t else t)
  | none => onlyIf (s.mbUp && s.mayStart) s (startTransfer stuck freed s)

/-- Arbitration is lost: the transfer is repeated up to ARB_RETRIES times, then RESULT is 3; `byte`: the address byte received, where the loss fell within it (R425). -/
def execMbArbitrationLost (byte : Option Byte) (s : State) : Res :=
  onlyIf s.mb.ctrlBusy s
    (let t := bumpMb .arb s
     let t := if byte.any fun b => b.toNat / 2 == s.mbAddr then t.setMb fun m => { m with target := some ⟨0, 0⟩ } else t
     if s.mb.retriesLeft = 0 then endTransfer 3 t
     else t.setMb fun m => { m with retriesLeft := m.retriesLeft - 1, goWaiting := true, ctrlBusy := false })

/-- RESULT of a transfer (16 "pointer 0x0040"): the PEC of the read phase is over every byte but the PEC bytes (R418). -/
def MbSt.outcome (m : MbSt) (ack : BusAck) (data : List Byte) (pec : Byte) : Nat :=
  let w := if m.wlen = 0 then [] else addrByte m.targetAddr false :: m.ctrlData.take m.wlen
  match ack with
  | .addressNack => 1
  | .dataNack => 2
  | .all => if m.usePec && m.rlen != 0 && pec != pecOf (w ++ addrByte m.targetAddr true :: data) then 5 else 0

/-- A transfer ends: the bytes read lie in CTRL_DATA, DONE is set with its RESULT (R424). -/
def execMbControllerDone (ack : BusAck) (data : List Byte) (pec : Byte) (s : State) : Res :=
  onlyIf s.mb.ctrlBusy s
    (let d := padTo (min 32 s.mb.rlen) data
     let t := if ack = .all then s.setMb fun m => { m with ctrlData := d ++ m.ctrlData.drop d.length } else s
     endTransfer (s.mb.outcome ack d pec) t)

/-- SCL held low for 35 ms: the transfer ends with RESULT 6, the lines are released (R430). -/
def execMbControllerTimeout (s : State) : Res := onlyIf (s.mb.ctrlBusy && s.mb.timeoutEn) s (endTransfer 6 s)

/-- The host writes the timing word (R431). -/
def execMbTimingWrite (v : Nat) (s : State) : Res := onlyIf s.barUp s (writeTiming v (hostAccess s))

/-- The end of a second in which a count rose (16 events table). -/
def execMbErrorsReport (s : State) : Res :=
  let r := s.mb.rises
  onlyIf (s.mode.mode != .off && decide (s.now % countsPerSecond = 0) && decide (r ≠ {})) s
    (raise .mbErrors pkg [.w r.pecErrors.toNat, .w r.timeouts.toNat, .w r.arbLost.toNat, .w r.stuck.toNat] (s.setMb fun m => { m with rises := {} }))

/-! ### Mailbox -/

/-- A board controller writes 1 to GO of MBOX_CTRL (R421, R422). -/
def execMboxGo (s : State) : Res := onlyIf s.mbUp s (mboxGo (mbStop s))

/-- The mailbox command completes: its entry is written, STATE is DONE (R422). -/
def execMboxComplete (s : State) : Res :=
  match s.mb.mboxDue with
  | none => .next s
  | some c => .next (s.setMb fun m => { m with mboxCpl := c, mboxDue := none, mboxPhase := .done })

end Sys2Proof.Machine
end

