-- ==== Sys2Proof/Machine/Regs.lean ====
section
/-!
DEFINITION. Register accesses of the host that no other chapter's command covers: CLK_CTRL, SYSTIME, and the writes of registers without a row of their own (00 R13 and access types, 02, 12, 13, 16, 17).
-/
namespace Sys2Proof.Machine

/-! ### Clock and time words (02) -/

/-- SPREAD_MODE and SPREAD_DEPTH of a written word are in range (R48). -/
def spreadOk (mode depth : Nat) : Bool :=
  match mode with
  | 0 => depth == 0
  | 1 => decide (depth ≤ 100)
  | 2 => decide (depth ≤ 50)
  | _ => false

/-- CLK_CTRL: the spread fields in IDLE and in range only, the other fields in any mode (R48). -/
def execClkCtrlWrite (v : Nat) (s : State) : Res :=
  onlyIf s.barUp s
    (let t := hostAccess s
     let mode := v % 4
     let depth := v / 4 % 128
     let take := decide (s.mode.mode = .idle) && spreadOk mode depth
     { t with time := { t.time with
         spreadMode := if take then mode else t.time.spreadMode, spreadDepth := if take then depth else t.time.spreadDepth
         ppsEnable := maskBit v 9, ppsFalling := maskBit v 10, syncOutEn := maskBit v 11 } })

/-- A read of SYSTIME_LO returns it and snapshots both halves (R55). -/
def execSystimeLoRead (s : State) : Res :=
  onlyIf s.barUp s
    (let t := hostAccess s
     send (.regRead (s.now % 2 ^ 32))
       { t with time := { t.time with snapLo := BitVec.ofNat 32 (s.now % 2 ^ 32), snapHi := BitVec.ofNat 32 (s.now / 2 ^ 32) } })

/-! ### Words of the package window -/

/-- A CALIN tone's words (12 R343): TONE_FREQ, then TONE_LEVEL and TONE_EN. -/
def writeTone (t : Nat) (second : Bool) (v : Nat) (s : State) : State :=
  let f := fun (x : Tone) =>
    if second then { x with level := if v % 65536 = 0x8000 then none else some (signedOf 16 v), en := maskBit v 16 } else { x with freq := v % 2 ^ 32 }
  { s with cal := { s.cal with tones := s.cal.tones.zipIdx.map fun x => if x.2 = t then f x.1 else x.1 } }

/-- Calibration control (12): an interval outside 1 to 1,440 minutes is ignored. -/
def writeCalCtrl (v : Nat) (s : State) : State :=
  let n := v % 2048
  { s with cal := { s.cal with levelInterval := if 1 ≤ n && n ≤ 1440 then n else s.cal.levelInterval, autoStore := maskBit v 11 } }

/-- WATCH_CTRL (17): AUTO_RUN and the enables of the alert conditions, which count from now on (R442). -/
def writeWatchCtrl (v : Nat) (s : State) : State :=
  reviewAlerts { s with mode := { s.mode with
    autoRun := maskBit v 0, alertPty31 := maskBit v 1, alertTa := maskBit v 2, alertDab := maskBit v 3, alertDrm := maskBit v 4, alertInRun := maskBit v 5 } }

/-- A word of the MSI-X table: address, data, or the mask set; its clearing has a row of its own (10 R277, R297). -/
def writeMsix (o v : Nat) (s : State) : State :=
  let k := o / 16
  let f := fun (x : MsixEntry) =>
    (match o % 16 / 4 with
     | 0 => { x with addrLo := BitVec.ofNat 32 v }
     | 1 => { x with addrHi := BitVec.ofNat 32 v }
     | 2 => { x with data := BitVec.ofNat 32 v }
     | _ => x : MsixEntry)
  let p := s.link.pcie
  let p := { p with msixTable := p.msixTable.modify k f }
  let p := if o % 16 / 4 = 3 && maskBit v 0 && !maskBit p.masked k then { p with masked := p.masked + 2 ^ k } else p
  { s with link := { s.link with pcie := p } }

/-- A write to the package window (02, 10, 12, 16, 17): words that are read-only, and words with rows of their own, take nothing here. -/
def writePackage (o v : Nat) (s : State) : State :=
  if o = 0x0208 then { s with time := { s.time with syncSkew := signedOf 16 v } }
  else if 0x0600 ≤ o && o < 0x0640 then writeTone ((o - 0x0600) / 8) (o % 8 == 4) v s
  else if o = 0x0640 then writeCalCtrl v s
  else if o = 0x0904 then writeWatchCtrl v s
  else if o = 0x0A20 then writeBusCtrl v s
  else if o = 0x0A40 then (if maskBit v 20 then s else writeTransfer v s)
  else if 0x0A44 ≤ o && o < 0x0A64 then s.setMb fun m => { m with ctrlData := (⟨o - 0x0A00, le 4 v⟩ : MbData).written 0x44 m.ctrlData }
  else if 0xE000 ≤ o && o < 0xE400 then writeMsix (o - 0xE000) v s
  else s

/-! ### Words of a per-die window: the monitor converter (13) -/

/-- The staged fields of the monitor control word; RUN, APPLY and CLEAR have rows of their own (R365). -/
def MonSt.stageCtrl (m : MonSt) (v : Nat) : MonSt :=
  { m with staged := { m.staged with lowPower := maskBit v 1, align := maskBit v 2, diff01 := maskBit v 3, diff23 := maskBit v 4, seqLast := v / 32 % 16 } }

/-- A staged sequence entry (R364, R365). -/
def MonSt.stageEntry (m : MonSt) (i v : Nat) : MonSt :=
  let e : MonEntry := ⟨v % 32, v / 32 % 4, maskBit v 7, v / 256 % 8, maskBit v 11⟩
  { m with staged := { m.staged with entries := m.staged.entries.zipIdx.map fun x => if x.2 = i then e else x.1 } }

/-- A write to the window of die `d` (13 registers). -/
def writeDie (d o v : Nat) (s : State) : State :=
  if o = 0x3400 then s.setMon d (·.stageCtrl v)
  else if o = 0x3404 then
    let n := v % 2 ^ 14
    if n = 0 || (10 ≤ n && n ≤ 10000) then s.setMon d fun m => { m with passPeriod := n } else s
  else if o = 0x3408 then s.setMon d fun m => { m with seqRejected := m.seqRejected && !maskBit v 10, paceOverrun := m.paceOverrun && !maskBit v 11 }
  else if 0x3410 ≤ o && o < 0x3450 then s.setMon d fun m => m.stageEntry ((o - 0x3410) / 4) v
  else s

/-! ### REGISTER_WRITE -/

/-- A write of an aligned 32-bit word; windows of absent dies ignore it (00 R4); a fenced die's too: DESIGN CHOICE (notes/assumptions/50.md). -/
def writeBar0 (offset v : Nat) (s : State) : State :=
  let d := offset / 0x10000
  if offset % 4 != 0 then s
  else if d = 0 then writePackage offset v s
  else if s.dieUp (d - 1) then writeDie (d - 1) (offset % 0x10000) v s
  else s

/-- A write to a register without a row of its own sets, clears or is ignored by its access type (00 R13 and the access types). -/
def execRegisterWrite (t : RegTarget) (v : Nat) (s : State) : Res :=
  let pcie := fun (f : PcieSt → PcieSt) => { s with link := { s.link with pcie := f s.link.pcie } }
  match t with
  | .bar0 offset => onlyIf s.barUp s (writeBar0 offset v (hostAccess s))
  | .msixEnable => onlyIf (s.mode.mode != .off) s (pcie fun p => { p with msixEnabled := maskBit v 0 })
  | .relaxedOrdering => onlyIf (s.mode.mode != .off) s (pcie fun p => { p with relaxed := maskBit v 0 })
  | .ecrcGeneration => onlyIf (s.mode.mode != .off) s (pcie fun p => { p with ecrcGen := maskBit v 0 })
  | .ecrcCheck => onlyIf (s.mode.mode != .off) s (pcie fun p => { p with ecrcCheck := maskBit v 0 })

end Sys2Proof.Machine
end

