-- ==== Sys2Proof/Machine/Staging.lean ====
section
/-!
DEFINITION. The commands that name no unit of the active set: NOP, IDENTIFY, time, and the shadow set (11 R320 to R340).
-/
namespace Sys2Proof.Machine

/-! ### Identification and time -/

/-- NOP completes at once with no effect (R329). -/
def execNop (src : CmdSrc) (s : State) : Res := runCmd .nop src none (fun f s => finish src f .ok 0 s) s

/-- The tick number of the pending COMMIT; 0 if none (R340). -/
def State.pendingTick (s : State) : Nat :=
  match s.cfg.commit with
  | some p => p.tick
  | none => 0

/-- The record that IDENTIFY writes (R340). -/
def State.identity (s : State) : List Byte :=
  let v := s.nv.sec
  padTo 256
    (le 2 s.part.deviceId ++ le 1 s.dies ++ le 1 s.part.siliconRev
      ++ le 1 (s.pins.syncpos % 16 + 16 * b2n s.pins.refsel + 32 * b2n v.ownerHash.isSome + 64 * b2n s.sec.runningB)
      ++ le 1 s.mode.mode.code ++ le 1 (maskOf 8 s.integ.fenced.contains) ++ le 1 s.cfg.active.plan ++ le 8 v.serial.toNat
      ++ le 4 v.slotA.version ++ le 4 v.slotB.version ++ le 8 v.rollbackBits.toNat ++ le 4 s.link.configGen.toNat ++ le 6 s.pendingTick
      ++ le 6 (s.link.swaps.headD 0) ++ s.activeDigest)

/-- IDENTIFY (R340). -/
def execIdentify (src : CmdSrc) (s : State) : Res := runCmd .identify src none (fun f s => finishOutput src f s.identity s) s

/-- TIME_SET gives wall time as TAI seconds and UTC − TAI at a SYSTIME (02 R54). -/
def execTimeSet (src : CmdSrc) (s : State) : Res :=
  runCmd .timeSet src none (fun f s =>
    finish src f .ok 0 { s with time := { s.time with wall := some ⟨field f.desc 4 0 64, field f.desc 12 0 64, sfield f.desc 20 0 32⟩ } }) s

/-- REALIGN arms SYNC for the next edge (02 R66); the first armed edge after boot stays the first (R50). -/
def execRealign (src : CmdSrc) (s : State) : Res :=
  runCmd .realign src none (fun f s =>
    finish src f .ok 0 { s with time := { s.time with armed := if s.time.armed = .boot then .boot else .realign } }) s

/-! ### The shadow set -/

/-- The shadow set changed by `f` (R320). -/
def State.stage (s : State) (f : ConfigSet → ConfigSet) : State := { s with cfg := { s.cfg with shadow := f s.cfg.shadow } }

/-- The entries that STAGE_* and STAGE_COPY put into a set (R321). -/
def ConfigSet.putLane (d : List Byte) (c : ConfigSet) : ConfigSet := { c with lanes := c.lanes.set (field d 4 0 16) (LaneEntry.ofDesc d) }
def ConfigSet.putEngine (d : List Byte) (c : ConfigSet) : ConfigSet := { c with engines := c.engines.set (field d 4 0 16) (EngineEntry.ofDesc d) }
def ConfigSet.putSlot (d : List Byte) (c : ConfigSet) : ConfigSet := { c with slots := c.slots.set (field d 4 0 16) (SlotEntry.ofDesc d) }
def ConfigSet.putFollow (d buf : List Byte) (c : ConfigSet) : ConfigSet :=
  { c with follows := c.follows.set (field d 4 0 16) (FollowEntry.ofBytes buf) }

/-- A cluster's band tap and HOLD cover, and the watch taps that WATCH_MASK selects (R331). -/
def ConfigSet.putCluster (d buf : List Byte) (c : ConfigSet) : ConfigSet :=
  let k := field d 4 0 16
  { c with
    clusters := c.clusters.set k (ClusterEntry.ofDesc d)
    watches := (clusterTaps d).foldl (fun t x => t.set (k * 16 + x.2) (WatchEntry.ofBytes (part buf x.1 136))) c.watches }

/-- An output or input port (R335). -/
def ConfigSet.putPort (d : List Byte) (c : ConfigSet) : ConfigSet :=
  let p := field d 4 0 3
  if bitAt d 5 0 then { c with inPorts := c.inPorts.set p (PortEntry.ofDesc d) } else { c with outPorts := c.outPorts.set p (PortEntry.ofDesc d) }

/-- The filters that FILTER_MASK selects (R337). -/
def ConfigSet.putBank (d buf : List Byte) (c : ConfigSet) : ConfigSet :=
  { c with filters := (bankFilters d buf).foldl (fun t x => t.set (filterKey (field d 4 0 3) (field d 5 0 3) x.1) (filterAt buf x.2.1 x.2.2)) c.filters }

/-- Plan, course entries, routes (R330). -/
def ConfigSet.putPlan (d buf : List Byte) (c : ConfigSet) : ConfigSet :=
  { c with
    plan := if bitAt d 4 2 then field d 4 0 2 else c.plan
    courses := (planCourses d).foldl (fun t x => t.set x.2 (CourseEntry.ofBytes (part buf x.1 12))) c.courses
    routes := (planRoutes d).foldl (fun t a => t.set (field buf a 0 8) (RouteEntry.ofBytes (part buf a 32))) c.routes }

/-- An entry copied to another index of its kind (R327). -/
def ConfigSet.copyEntry (kind a b : Nat) (c : ConfigSet) : ConfigSet :=
  match kind with
  | 0 => { c with lanes := c.lanes.set b (c.lanes.get a) }
  | 1 => { c with clusters := c.clusters.set b (c.clusters.get a)
                  watches := (List.range 16).foldl (fun t i => t.set (b * 16 + i) (c.watches.get (a * 16 + i))) c.watches }
  | 2 => { c with engines := c.engines.set b (c.engines.get a) }
  | 3 => { c with slots := c.slots.set b (c.slots.get a) }
  | 4 => { c with outPorts := c.outPorts.set b (c.outPorts.get a) }
  | 5 => { c with inPorts := c.inPorts.set b (c.inPorts.get a) }
  | 6 => { c with follows := c.follows.set b (c.follows.get a) }
  | _ =>
    let bank := a / 256 % 8
    let copy := fun (t : Tbl Filter) (die : Nat) =>
      (List.range 32).foldl (fun t f => t.set (filterKey die bank f) (c.filters.get (filterKey (a % 8) bank f))) t
    { c with filters := (maskList 8 b).foldl copy c.filters }

/-- The effect that the STAGE_* commands share: the shadow set is written, the command completes with 0 (R329). -/
def stageWith (src : CmdSrc) (put : List Byte → ConfigSet → ConfigSet) (f : Fetched) (s : State) : State :=
  finish src f .ok 0 (s.stage (put f.desc))

/-- STAGE_LANE (R332). -/
def execStageLane (src : CmdSrc) (s : State) : Res := runCmd .stageLane src none (stageWith src ConfigSet.putLane) s
/-- STAGE_CLUSTER (R331). -/
def execStageCluster (src : CmdSrc) (buf : Option (List Byte)) (s : State) : Res :=
  runCmd .stageCluster src buf (stageWith src fun d => ConfigSet.putCluster d (inputBytes d buf)) s
/-- STAGE_ENGINE (R333). -/
def execStageEngine (src : CmdSrc) (s : State) : Res := runCmd .stageEngine src none (stageWith src ConfigSet.putEngine) s
/-- STAGE_SLOT (R334). -/
def execStageSlot (src : CmdSrc) (s : State) : Res := runCmd .stageSlot src none (stageWith src ConfigSet.putSlot) s
/-- STAGE_PORT (R335). -/
def execStagePort (src : CmdSrc) (s : State) : Res := runCmd .stagePort src none (stageWith src ConfigSet.putPort) s
/-- STAGE_FOLLOW (R336). -/
def execStageFollow (src : CmdSrc) (buf : Option (List Byte)) (s : State) : Res :=
  runCmd .stageFollow src buf (stageWith src fun d => ConfigSet.putFollow d (inputBytes d buf)) s
/-- STAGE_BANK (R337). -/
def execStageBank (src : CmdSrc) (buf : Option (List Byte)) (s : State) : Res :=
  runCmd .stageBank src buf (stageWith src fun d => ConfigSet.putBank d (inputBytes d buf)) s
/-- STAGE_PLAN (R330). -/
def execStagePlan (src : CmdSrc) (buf : Option (List Byte)) (s : State) : Res :=
  runCmd .stagePlan src buf (stageWith src fun d => ConfigSet.putPlan d (inputBytes d buf)) s
/-- STAGE_COPY (R327). -/
def execStageCopy (src : CmdSrc) (s : State) : Res :=
  runCmd .stageCopy src none (stageWith src fun d => ConfigSet.copyEntry (field d 4 0 3) (field d 6 0 16) (field d 8 0 16)) s

/-- DISCARD_STAGE: the shadow set becomes a copy of the pending set, or of the active set when nothing is pending (R327). -/
def execDiscardStage (src : CmdSrc) (s : State) : Res :=
  runCmd .discardStage src none (fun f s =>
    finish src f .ok 0 (s.stage fun _ => match s.cfg.commit with
      | some p => p.set
      | none => s.cfg.committed)) s

end Sys2Proof.Machine
end

