-- ==== Sys2Proof/Machine/SysCal.lean ====
section
/-!
DEFINITION. System calibration (12 R349 to R352), MON_INJECT and MON_READ (13 R367, R370).
-/
namespace Sys2Proof.Machine

/-! ### Steps -/

/-- What a step does when its checks pass: the change made, in the units of R350, and the state; or the reason and deviation of the check that fails. -/
inductive StepEnd where
  | fails (reason : Nat) (dev : Int)
  /-- a failed delay check of GAIN_STEPS, for which R350 gives no unit -/
  | failsDelay
  | sets (change : Int) (after : State)

/-- The member of a list that lies furthest from 0, the first of equals. -/
def furthest (xs : List Int) : Int := xs.foldl (fun a x => if a.natAbs < x.natAbs then x else a) 0

/-- Index of a table point (R341). -/
def pointIndex (f : Nat) : Nat := if f = 100000 then 0 else f / 5000000

/-! ### What a step reads (R345, R349, 17 R444) -/

/-- The configuration of a step's lane: segment code 5, the band tap centred on the greater of f and 0.38 × Fseg, 48 kS/s, its filter bypassed (17 R444). -/
def State.stepTune (s : State) (j f : Nat) : Tune :=
  let p := s.cfg.active.plan
  { plan := p, course := j, segCode := 5, ncoWord := tuningWord p (max f (planKsps p * 380 / 2 ^ segHalvings 5)), freq := f }

/-- The samples of a step's lane on converter `k` over [t0, t1), compensated as for gain `g`; codes come from the converter itself (R349, 17 R444). -/
def State.stepSamples (s : State) (a : Air) (k f : Nat) (g : Int) (t0 t1 : Nat) : List Smp :=
  let j := s.courseOf k
  let t := s.stepTune j f
  (({ active := true } : Chain).gridIn t0 t1).map (t.chain (t.segment fun n => (s.gainStepsAt j (n * 32 / planFrameSamples t.plan)).sample g (a.code k n)))

/-- A reading through one converter: sum and number of |x|² in the off window and in each on window; of the on windows, the power within 500 Hz of the tone and the rest (R345, R351). -/
structure ToneRead where
  off : Nat × Nat
  on1 : Nat × Nat
  on2 : Nat × Nat
  split : Nat × Nat

/-- The reading of a measurement whose on windows end at `e` (R345). -/
def State.readTone (s : State) (a : Air) (k f : Nat) (g : Int) (e : Nat) : ToneRead :=
  let w := fun (t0 t1 : Nat) => s.stepSamples a k f g (e - t0 * countsPerTick) (e - t1 * countsPerTick)
  let p := fun (xs : List Smp) => ((xs.map Smp.power).sum, xs.length)
  ⟨p (w 62 42), p (w 40 20), p (w 20 0), Config.toneSplit ((w 40 0).map fun x => (x.re, x.im))⟩

/-- Its level in 0.01 dBFS, as it stands and less the off window (R349). -/
def ToneRead.level (r : ToneRead) : Int := meanOn r.on1 r.on2
def ToneRead.net (r : ToneRead) : Int := netOn r.off r.on1 r.on2

/-- The tone does not stand 40 dB above the rest of the passband in a reading: its level in dBµV with the C in force (R351, R352). -/
def State.toneAbsent (s : State) (k f : Nat) (r : ToneRead) : Option Int :=
  if 10000 * r.split.2 ≤ r.split.1 && 0 < r.split.1 then none
  else some (s.levelUv (s.courseOf k) (k % 2) f s.now (powerLevel (r.split.1, r.on1.2 + r.on2.2)))

/-- The first on windows that differ by more than 0.10 dB (R351). -/
def unstable (rs : List ToneRead) : Option (Nat × Int) :=
  (rs.map fun r => powerLevel r.on2 - powerLevel r.on1).findSome? fun v => if 10 < v.natAbs then some (6, v) else none

/-- A step that succeeds counts the item and, for LEVEL, ends its ageing (R354, R357). -/
def stepDone (item index : Nat) (s : State) : State :=
  let s := calSuccessOf item index 1 s
  if item = 0 then taskNormal (.level index) s else if item = 4 then taskNormal (.monitor index) s else s

/-- LEVEL of an input set at a table point: Cs through converter A, D_A 0, D_B the B reading less the A reading (R349). -/
def setLevel (n k : Nat) (cs dB : Int) (rs : List ToneRead) (s : State) : StepEnd :=
  let l := s.cal.coefs.level.get n
  if 300 < cs.natAbs then .fails 2 cs
  else if 50 < dB.natAbs then .fails 2 dB
  else match unstable rs with
    | some (r, dev) => .fails r dev
    | none => .sets (cs - l.cs.getD k 0) (stepDone 0 n (setLevelCoef n (fun x => { x with cs := x.cs.set k cs, dA := 0, dB := dB }) s))

/-- The readings of input `n` through A and through B by a measurement that ends at `e`; RF steps measure at g = 0 and are referred to g = +14 dB (R349). -/
def State.readBoth (s : State) (a : Air) (n f e : Nat) : ToneRead × ToneRead := (s.readTone a (s.convOf n 0) f 0 e, s.readTone a (s.convOf n 1) f 0 e)

/-- ANT_DIRECT: Cs from the tone at the balls, without the off window (R349). -/
def antDirect (n f : Nat) (level : Int) (a b : ToneRead) (s : State) : StepEnd :=
  match setLevel n (pointIndex f) (level + 11000 - (a.level + 9800)) (b.level - a.level) [a, b] s with
  | .sets c t => .sets c { t with cal := { t.cal with antDirect := (n, f) :: t.cal.antDirect.filter (· != (n, f)) } }
  | x => x

/-- THROUGH_TRANSFER: Cs from the Through transfer (R349). -/
def throughTransfer (n f : Nat) (level : Int) (a b : ToneRead) (s : State) : StepEnd :=
  let k := pointIndex f
  setLevel n k (level + (s.cal.coefs.transfer.get n).i.getD k 0 + 11000 - (a.net + 9800)) (b.net - a.net) [a, b] s

/-- A transfer of an input changed. -/
def setTransfer (n : Nat) (f : TransferCoef → TransferCoef) (s : State) : State :=
  calChanged { s with cal := { s.cal with coefs := { s.cal.coefs with transfer := s.cal.coefs.transfer.modify n f } } }

/-- THROUGH: the Through transfer from Cs, without the off window (R349). -/
def through (n f : Nat) (level : Int) (a b : ToneRead) (s : State) : StepEnd :=
  let k := pointIndex f
  let v := a.level + 9800 + (s.cal.coefs.level.get n).cs.getD k 0 - (level + 11000)
  if 300 < (v + 1000).natAbs then .fails 2 (v + 1000)
  else match unstable [a, b] with
    | some (r, dev) => .fails r dev
    | none => .sets (v - (s.cal.coefs.transfer.get n).i.getD k 0) (stepDone 1 n (setTransfer n (fun x => { x with i := x.i.set k v }) s))

/-- COUPLING: the Coupled transfer from the Through readings `p` and the Coupled readings `q` of one tone (R349). -/
def coupling (n f : Nat) (p q : ToneRead × ToneRead) (s : State) : StepEnd :=
  let k := pointIndex f
  let t := s.cal.coefs.transfer.get n
  let v := t.i.getD k 0 + q.1.net - p.1.net
  let dev := v - t.i.getD k 0 + 2600
  if 200 < dev.natAbs then .fails 2 dev
  else match unstable [p.1, p.2, q.1, q.2] with
    | some (r, dev) => .fails r dev
    | none => .sets (v - t.q.getD k 0) (stepDone 1 n (setTransfer n (fun x => { x with q := x.q.set k v }) s))

/-- GAIN_STEPS: every S(g) or none, and the front-end delay; `rs`: the readings through A at g = −31 to +14 as the codes stand (R349, R350). -/
def gainSteps (n : Nat) (rs : List ToneRead) (delay : Int) (s : State) : StepEnd :=
  let old := s.cal.coefs.gainSteps.get n
  let top := (rs.map ToneRead.net).getLastD 0
  let new := rs.map fun r => r.net - top
  let dev := furthest (new.zipIdx.map fun x => x.1 - ((x.2 : Int) - 45) * 100)
  if 150 < dev.natAbs then .fails 2 dev
  else if delay < 0 || 65536 < delay then .failsDelay
  else match unstable rs with
    | some (r, dev) => .fails r dev
    | none => .sets (furthest (new.zipIdx.map fun x => x.1 - old.steps.getD x.2 0)) (stepDone 2 n (setGainSteps n ⟨new, delay⟩ s))

/-- Every band tap, export tap and branch that draws on a converter whose trim changes has a band-tap-level event at the next block boundary (R348). -/
def trimEvent (k : Nat) (s : State) : State :=
  ((List.range (s.dies * 4)).filter fun c => (s.taps.bandTaps.get c).assigned && s.convOf (s.clusterCourse c) (((s.front.courses.get (s.clusterCourse c)).leader).getD 0) == k).foldl
    (fun acc c => bandTapInstant (ceilTo countsPerBlock s.now) c acc) s

/-- PATH_TRIM: the trims of the powered converters, each within its authority, ±0.4 sample of change and ±8 samples in all (R349, R351, 03 R101). -/
def pathTrim (xs : List (Nat × Int)) (rs : List ToneRead) (s : State) : StepEnd :=
  let change := fun (x : Nat × Int) => x.2 - s.cal.coefs.trim.get x.1
  let most := furthest (xs.map change)
  if xs.any fun x => decide (2048 < (change x).natAbs * 5) || decide (8192 < x.2.natAbs) then .fails 4 most
  else match unstable rs with
    | some (r, dev) => .fails r dev
    | none =>
      let s := calChanged { s with cal := { s.cal with coefs := { s.cal.coefs with trim := xs.foldl (fun t x => t.set x.1 x.2) s.cal.coefs.trim } } }
      .sets most (xs.foldl (fun acc x => stepDone 3 x.1 (if change x = 0 then acc else trimEvent x.1 acc)) s)

/-- AUX_ZERO: the offset is the reading, within 0.5 % of full scale (R351, R353). -/
def auxZero (d : Nat) (m : SyscalMeas) (s : State) : StepEnd :=
  let c := s.cal.coefs.monitor.get d
  if 16777216 < m.aux.natAbs * 200 then .fails 3 m.aux
  else .sets (m.aux - c.offset) (stepDone 4 d (setMonitor d { c with offset := m.aux } s))

/-- AUX_FULL: the gain brings the reading to the applied voltage, within 2 %; the reference channels are read with it (R351, R353). -/
def auxFull (d uv : Nat) (m : SyscalMeas) (s : State) : StepEnd :=
  let c := s.cal.coefs.monitor.get d
  let ideal : Int := roundDiv ((uv : Int) * 16777216) 2500000
  let r := m.aux - c.offset
  let dev := roundDiv ((r - ideal) * 100000) ideal
  if 2000 < dev.natAbs then .fails 2 dev
  else
    let gain := roundDiv (ideal * 100000) r - 100000
    let corr := (c.offset, gain)
    .sets (gain - c.gain)
      (stepDone 4 d (setMonitor d { c with gain := gain, ref0 := s.monCode d corr 18 m.ref0, ref1 := s.monCode d corr 19 m.ref1 } s))

/-- A tone check that fails ends a step before its own check (R351). -/
def State.withTone (s : State) (f : Nat) (rs : List (Nat × ToneRead)) (e : StepEnd) : StepEnd :=
  match rs.findSome? fun x => s.toneAbsent x.1 f x.2 with
  | some dev => .fails 1 dev
  | none => e

/-- The converters that PATH_TRIM measures (R349). -/
def State.poweredConvs (s : State) : List Nat := (List.range (2 * s.dies)).filter fun k => (s.front.convs.get k).powered

/-- The step of a descriptor, as its measurement ends. A measurement takes the 64 ms of R345; COUPLING makes two, Through and then Coupled, and GAIN_STEPS one at each g, rising: DESIGN CHOICE (notes/assumptions/54.md). -/
def sysStep (step target a : Nat) (b : Int) (m : SyscalMeas) (s : State) : StepEnd :=
  let r := s.readBoth m.air target a s.now
  let ka := s.convOf target 0
  let kb := s.convOf target 1
  let both := [(ka, r.1), (kb, r.2)]
  match step with
  | 1 => s.withTone a both (antDirect target a b r.1 r.2 s)
  | 2 => s.withTone a both (through target a b r.1 r.2 s)
  | 3 => s.withTone a both (throughTransfer target a b r.1 r.2 s)
  | 4 =>
    let p := s.readBoth m.air target a (s.now - 64 * countsPerTick)
    s.withTone a ((ka, p.1) :: (kb, p.2) :: both) (coupling target a p r s)
  | 5 =>
    let rs := (List.range 46).map fun i => s.readTone m.air ka a 14 (s.now - (45 - i) * 64 * countsPerTick)
    let xs := s.stepSamples m.air ka a 14 (s.now - 46 * 64 * countsPerTick) s.now
    s.withTone a (rs.map fun x => (ka, x)) (gainSteps target rs (Config.frontEndDelay (xs.map fun x => (x.re, x.im))) s)
  | 6 =>
    let ks := s.poweredConvs
    let rs := ks.map fun k => s.readTone m.air k a 0 s.now
    let on := fun (k : Nat) => (s.stepSamples m.air k a 0 (s.now - 40 * countsPerTick) s.now).map fun x => (x.re, x.im)
    let xs := ks.map fun k => (k, s.cal.coefs.trim.get k + if k = 0 then 0 else Config.trimBetween (on 0) (on k) a (planKsps s.cfg.active.plan))
    s.withTone a (ks.zip rs) (pathTrim xs rs s)
  | 7 => auxZero (target % 8) m s
  | _ => auxFull (target % 8) a m s

/-- Item and index that a step counts (R349, R350). -/
def stepItem (step target : Nat) : Nat × Nat :=
  match step with
  | 1 | 3 => (0, target)
  | 2 | 4 => (1, target)
  | 5 => (2, target)
  | 6 => (3, 0)
  | _ => (4, target % 8)

/-- The injection switch of the courses that a step measures while it measures (03 R72, R349): Through, or for COUPLING Through and then Coupled; Off for a step whose tone is at the balls and for the monitor's steps. PATH_TRIM measures every course. -/
def stepInject (step : Nat) : List Nat :=
  match step with
  | 2 | 3 | 5 | 6 => [2]
  | 4 => [2, 1]
  | _ => [0]
def State.stepCourses (s : State) (step target : Nat) : List Nat := if step = 6 then List.range s.dies else if step ≤ 5 then [target] else []

/-- A step's injection: each position of the switch in turn, as the step measures. -/
def injectFor (step target : Nat) (s : State) : State :=
  (stepInject step).foldl (fun acc i => (acc.stepCourses step target).foldl (fun acc n => setInject n i acc) acc) s

/-- Every injection switch Off. -/
def injectOff (s : State) : State := (List.range s.dies).foldl (fun acc n => setInject n 0 acc) s

/-- SYSCAL_STEP with what it measures while its courses' injection switches stand as the step asks; `none`: SYSTEM_CAL was left, or a fault came, before the measurement ended (R349 to R352, R358). Every injection switch is Off when it ends. -/
def execSyscalStep (src : CmdSrc) (meas : Option SyscalMeas) (s : State) : Res :=
  runCmd .syscalStep src none (fun f s =>
    let step := field f.desc 4 0 8
    let target := field f.desc 5 0 8
    let item := stepItem step target
    let s := injectFor step target s
    match meas with
    | none => finish src f .abortedFault s.abortResult (injectOff s)
    | some m =>
      match sysStep step target (field f.desc 8 0 32) (sfield f.desc 12 0 32) m s with
      | .fails reason dev => finish src f .calImplausible (implausible dev reason) (injectOff (calFailed item.1 item.2 reason s))
      | .failsDelay => finish src f .calImplausible (implausible s.freeNat 2) (injectOff (calFailed item.1 item.2 2 (advanceFree s)))
      | .sets change t => finish src f .ok (sysResult change (t.calCount item.1 item.2)) (refresh (injectOff t))) s

/-! ### MON_INJECT, MON_READ -/

/-- MON_INJECT joins the die's queue of at most 4 injected conversions (13 R367). -/
def execMonInject (src : CmdSrc) (s : State) : Res :=
  runCmd .monInject src none (fun f s =>
    let d := field f.desc 4 0 3
    if 4 ≤ (s.mon.dies.get d).queue.length then finish src f .resourceBusy 0 s
    else
      await src f (.injection d)
        (queueInjection d { channel := field f.desc 5 0 5, acq := field f.desc 6 0 2, testDac := bitAt f.desc 7 0, dacCode := field f.desc 8 0 10, src := some src } s)) s

/-- MON_READ (13 R370). -/
def execMonRead (src : CmdSrc) (s : State) : Res :=
  runCmd .monRead src none (fun f s => finishOutput src f (s.mon.dies.get (field f.desc 4 0 3)).readRecord s) s

end Sys2Proof.Machine
end

