-- ==== Sys2Proof/Machine/Update.lean ====
section
/-!
DEFINITION. The commands of security: updates and owner enrolment (15 R399, R400), keys (R402), attestation (R404), hallmark settings (R405).
-/
namespace Sys2Proof.Machine

/-! ### Updates -/

/-- What flash and OTP hold for security, changed by `f`. -/
def State.setNvSec (s : State) (f : NvSec → NvSec) : State := { s with nv := { s.nv with sec := f s.nv.sec } }

/-- A slot replaced. -/
def NvSec.setSlot (v : NvSec) (b : Bool) (x : ImageSlot) : NvSec := if b then { v with slotB := x } else { v with slotA := x }

/-- The slot that UPDATE_BEGIN erases: the one that is not running; in RECOVERY neither runs, and which it is is a free value (R399, notes/assumptions/8.md). -/
def State.updateSlot (s : State) : Bool := if s.mode.mode = .recovery then s.freeNat % 2 == 1 else !s.sec.runningB

/-- UPDATE_BEGIN erases the slot, marks it invalid and enters UPDATE; one that begins during a mode change is occupied (R399). -/
def execUpdateBegin (src : CmdSrc) (s : State) : Res :=
  runCmd .updateBegin src none (fun f s =>
    if s.mode.change.isSome then finish src f .resourceBusy 0 s
    else
      let b := s.updateSlot
      let t := if s.mode.mode = .recovery then advanceFree s else s
      let u : UpdateSt := { slotB := b, len := field f.desc 4 0 32, digest := part f.desc 8 32, from_ := s.mode.mode }
      let t := { t with sec := { t.sec with update := some u } }.setNvSec fun v => { v.setSlot b {} with updating := some b }
      finish src f .ok (b2n b) (refresh (setMode .update .update t))) s

/-- UPDATE_CHUNK writes a chunk and reads it back; `ok`: the read-back did not fail twice (R399). -/
def execUpdateChunk (src : CmdSrc) (buf : Option (List Byte)) (ok : Bool) (s : State) : Res :=
  runCmd .updateChunk src buf (fun f s =>
    if !ok then finish src f .timeout 0xFF s
    else
      let c := (field f.desc 4 0 32, inputBytes f.desc buf)
      finish src f .ok 0 { s with sec := { s.sec with update := s.sec.update.map fun u => { u with chunks := u.chunks ++ [c] } } }) s

/-- Every byte of the image is written: chunks do not overlap, so their lengths add up (R399). -/
def UpdateSt.complete (u : UpdateSt) : Bool := (u.chunks.map (·.2.length)).sum == u.len

/-- A chunk put before the first that begins after it. -/
def insertChunk (c : Nat × List Byte) : List (Nat × List Byte) → List (Nat × List Byte)
  | [] => [c]
  | x :: rest => if c.1 < x.1 then c :: x :: rest else x :: insertChunk c rest

/-- The image that the chunks spell. -/
def UpdateSt.image (u : UpdateSt) : List Byte := (u.chunks.foldl (fun acc c => insertChunk c acc) []).flatMap (·.2)

/-- What a verified image does: an owner enrolment writes the owner's hash into OTP, firmware makes its slot valid and, with ACTIVATE, preferred (R399, R400). -/
def takeImage (u : UpdateSt) (activate : Bool) (s : State) : State :=
  let img := u.image
  if field img 6 0 8 = 1 then
    raise .ownerEnrolled pkg [.q s.now] (s.setNvSec fun v => { v with ownerHash := some (padTo 32 (Config.sm3 (slice img 128 64))) })
  else
    s.setNvSec fun v =>
      let v := v.setSlot u.slotB ⟨true, img⟩
      let v := if u.slotB then { v with failsB := if activate then 0 else v.failsB } else { v with failsA := if activate then 0 else v.failsA }
      if activate then { v with preferB := u.slotB, bootSeq := v.bootSeq + 1 } else v

/-- The image is accepted: an enrolment on a part without an owner, or firmware that passes R396 (R399, R400). -/
def State.accepts (s : State) (img : List Byte) : Bool :=
  if field img 6 0 8 = 1 then s.nv.sec.ownerHash.isNone && s.enrols img else s.imageBoots img

/-- The update ends: the part returns to the mode from which it came (R399). -/
def endUpdate (u : UpdateSt) (s : State) : State :=
  refresh (setMode u.from_ .update ({ s with sec := { s.sec with update := none } }.setNvSec fun v => { v with updating := none }))

/-- UPDATE_FINISH (R399, R400). The offset of BAD_PARAM for an unwritten byte is a free value (notes/assumptions/8.md). -/
def execUpdateFinish (src : CmdSrc) (s : State) : Res :=
  runCmd .updateFinish src none (fun f s =>
    match s.sec.update with
    | none => finish src f .stateRefused s.mode.mode.code s
    | some u =>
      if !u.complete then finish src f .badParam s.freeNat (endUpdate u (advanceFree s))
      else if padTo 32 (Config.sm3 u.image) != u.digest then finish src f .checkFail 0 (endUpdate u s)
      else if !s.accepts u.image then finish src f .denied 0 (endUpdate u s)
      else finish src f .ok 0 (endUpdate u (takeImage u (bitAt f.desc 4 0) s))) s

/-! ### Keys and attestation -/

/-- The record of a key, 2,048 bytes (R402). -/
def State.keyRecord (s : State) (k : Nat) : List Byte :=
  let v := s.nv.sec
  let hall := if s.sec.hall.erased then none else s.sec.hall.key
  let x : Bool × List Byte × List Byte := match k with
    | 0 => (true, v.identityPub, v.identityCert.take 1980)
    | 1 => (hall.isSome, (hall.map (·.pub)).getD [], (hall.map (·.cert)).getD [])
    | 2 => (true, v.vendorHash, [])
    | _ => (v.ownerHash.isSome, v.ownerHash.getD [], [])
  padTo 2048 (le 1 k ++ le 1 (b2n x.1) ++ le 2 x.2.2.length ++ padTo 64 x.2.1 ++ x.2.2)

/-- KEY_INFO (R402). -/
def execKeyInfo (src : CmdSrc) (s : State) : Res :=
  runCmd .keyInfo src none (fun f s => finishOutput src f (s.keyRecord (field f.desc 4 0 8)) s) s

/-- The report of ATTEST, 288 bytes, signed by the identity key (R404). -/
def State.attestation (s : State) (nonce : List Byte) : List Byte :=
  let v := s.nv.sec
  let last := s.sec.hall.last
  let b := le 2 1 ++ le 1 s.mode.mode.code
    ++ le 1 (s.sec.debugLevel + 4 * b2n v.ownerHash.isSome + 8 * b2n s.sec.runningB + 16 * b2n v.slotA.valid + 32 * b2n v.slotB.valid
        + 64 * b2n s.cfg.commit.isSome)
    ++ le 4 s.faultSummary ++ le 8 v.serial.toNat ++ padTo 32 nonce ++ v.slotA.digest ++ v.slotB.digest ++ le 8 v.rollbackBits.toNat ++ le 4 s.sec.fwVersion
    ++ le 4 s.link.configGen.toNat ++ s.activeDigest ++ le 8 s.now ++ le 8 (s.taiAt s.now) ++ le 4 s.nv.bootNum.toNat ++ zeros 4
    ++ le 8 ((last.map (·.num)).getD 0xFFFFFFFFFFFFFFFF) ++ padTo 32 ((last.map (·.digest)).getD [])
  b ++ padTo 64 (Config.sm2Sign 0 (Config.sm3 b))

/-- ATTEST (R404). -/
def execAttest (src : CmdSrc) (s : State) : Res := runCmd .attest src none (fun f s => finishOutput src f (s.attestation (part f.desc 4 32)) s) s

/-! ### Hallmark settings -/

/-- The boundary at which a setting made now takes effect: the first of the new length at or after the end of the interval in progress (R405). -/
def State.settingAt (s : State) (interval : Nat) : Nat :=
  let e := match s.sec.hall.acc with
    | some a => s.sec.hall.endOf a.start
    | none => s.now
  ceilTo (interval * countsPerSecond) e

/-- HALLMARK_CONFIG (R405). -/
def execHallmarkConfig (src : CmdSrc) (s : State) : Res :=
  runCmd .hallmarkConfig src none (fun f s =>
    let i := field f.desc 4 0 8
    let t := s.settingAt i
    finish src f .ok (tickOf t) (s.setHall fun h => { h with next_ := some ⟨t, i, bitAt f.desc 5 0⟩ })) s

end Sys2Proof.Machine
end

