-- ==== Sys2Proof/Machine/Work.lean ====
section
/-!
DEFINITION. The commands that start and stop ports and captures (09 R264, R265, R271, 10 R308, R310).
-/
namespace Sys2Proof.Machine

/-! ### Ports -/

/-- The port that PORT_START and PORT_STOP name (11 R338). -/
def portOf (d : List Byte) : PortId := if bitAt d 5 0 then .inp (field d 4 0 3) else .out (field d 4 0 3)

/-- PORT_START: a port that runs refuses it; one whose start already waits is occupied (R264, R265, notes/assumptions/33.md). -/
def execPortStart (src : CmdSrc) (s : State) : Res :=
  runCmd .portStart src none (fun f s =>
    let p := portOf f.desc
    let x := s.portSt p
    let t := s.tickOf0 (field f.desc 6 0 48)
    if !x.phase.isStopped then finish src f .stateRefused s.mode.mode.code s
    else if x.startAt.isSome then finish src f .resourceBusy 0 s
    else await src f (.portStart p t) (s.setPort p fun x => { x with startAt := some (t * countsPerTick) })) s

/-- PORT_STOP: a port that is stopped or stopping refuses it; one whose stop already waits is occupied (R265, notes/assumptions/33.md). -/
def execPortStop (src : CmdSrc) (s : State) : Res :=
  runCmd .portStop src none (fun f s =>
    let p := portOf f.desc
    let x := s.portSt p
    let t := s.tickOf0 (field f.desc 6 0 48)
    if x.phase.isStopped || x.phase = .postRoll then finish src f .stateRefused s.mode.mode.code s
    else if x.stopAt.isSome then finish src f .resourceBusy 0 s
    else await src f (.portStop p t) (s.setPort p fun x => { x with stopAt := some (t * countsPerTick) })) s

/-! ### Captures -/

/-- The rate of a capture stream at 1.625 GS/s in bytes per second, with its headers (R310). -/
def ConfigSet.captureRate (c : ConfigSet) (x : Capture) : Nat :=
  32000 + match x.kind with
    | .bandTap => [418750000, 215625000, 114063000, 63281000, 37891000, 25195000].getD (c.clusters.get x.source).segCode 0
    | .lane => [384000, 1536000, 4096000, 16384000].getD ((c.laneRate x.source).getD 0) 0
    | .mpx => 768000

/-- The capture that a CAPTURE_START asks for, at tick `t` (11 R338). -/
def captureOf (d : List Byte) (t : Nat) : Capture :=
  { kind := (match field d 5 0 2 with
      | 0 => .bandTap
      | 1 => .lane
      | _ => .mpx), source := field d 6 0 16, tick := t }

/-- The ring is free, the staging of the source's die and the package's capture load hold the stream as well (R295, R308, R310). -/
def State.captureFits (s : State) (r : Nat) (x : Capture) : Bool :=
  let c := s.cfg.active
  let all := x :: s.captureList
  (c.routes.get r).cls.isNone && (s.link.captures.get r).isNone && decide (c.stagingBytes s all x.die ≤ 4194304)
  && decide ((all.map c.captureRate).sum ≤ 4000000000)

/-- CAPTURE_START: a source that does not qualify is BAD_PARAM at SOURCE; a ring, staging or load without room is RESOURCE_BUSY (R308, R310). -/
def execCaptureStart (src : CmdSrc) (s : State) : Res :=
  runCmd .captureStart src none (fun f s =>
    let r := field f.desc 4 0 8
    let t := s.tickOf0 (field f.desc 8 0 48)
    let x := captureOf f.desc t
    if !s.cfg.active.captureOk x then finish src f .badParam 6 s
    else if !s.captureFits r x then finish src f .resourceBusy 0 s
    else await src f (.capture r t) { s with link := { s.link with captures := s.link.captures.set r (some x) } }) s

/-- The start tick of a capture: its command completes with the tick number; a source that no longer qualifies ends it at once (R308). -/
def execCaptureStartTick (r : Nat) (s : State) : Res :=
  match s.link.captures.get r with
  | none => .next s
  | some x =>
    onlyIf (!x.started && decide (x.tick * countsPerTick ≤ s.now)) s
      (let t := { s with link := { s.link with captures := s.link.captures.set r (some { x with started := true, edges := (s.clk.get x.die).edges }) } }
       let t := completeWait (fun w => w = .capture r x.tick) .ok x.tick t
       if t.cfg.active.captureOk x then t else endCapture r t)

/-- CAPTURE_STOP: the stream ends with the last block formed, whose SEQUENCE is RESULT; a ring without a capture that has begun is BAD_PARAM at RING (R308, 11 R328, R329). -/
def execCaptureStop (src : CmdSrc) (s : State) : Res :=
  runCmd .captureStop src none (fun f s =>
    let r := field f.desc 4 0 8
    if (s.link.captures.get r).any (·.started) then finish src f .ok ((s.link.rings.get r).sequence - 1).toNat (endCapture r s)
    else finish src f .badParam 4 s) s

end Sys2Proof.Machine
end

