-- ==== Sys2Proof/Machine/Dispatch.lean ====
section
/-!
DEFINITION. What each command does: one meaning per row of the opcode table.
-/
namespace Sys2Proof.Machine

/-- The effect of a command on everything but the queue. -/
def exec (i : Instr) (s : State) : Host.Outcome State Fault Refusal :=
  match i with
  | .perstNRelease refsel syncpos mbAddr refin => Sys2Proof.Machine.execPerstNRelease refsel syncpos mbAddr refin s
  | .perstNAssert => Sys2Proof.Machine.execPerstNAssert s
  | .suppliesAbsent => Sys2Proof.Machine.execSuppliesAbsent s
  | .romCheckDone romOk otpOk => Sys2Proof.Machine.execRomCheckDone romOk otpOk s
  | .imageCheckDone => Sys2Proof.Machine.execImageCheckDone s
  | .dieLoadDone => Sys2Proof.Machine.execDieLoadDone s
  | .dieSelfTestDone d lockstep mem data rising falling temp bands => Sys2Proof.Machine.execDieSelfTestDone d lockstep mem data rising falling temp bands s
  | .bootComplete => Sys2Proof.Machine.execBootComplete s
  | .domainRampDone d dom => Sys2Proof.Machine.execDomainRampDone d dom s
  | .domainInService d dom temp band => Sys2Proof.Machine.execDomainInService d dom temp band s
  | .supplyTrip d dom tooHigh => Sys2Proof.Machine.execSupplyTrip d dom tooHigh s
  | .lockstepDisagreement d => Sys2Proof.Machine.execLockstepDisagreement d s
  | .refinLoss => Sys2Proof.Machine.execRefinLoss s
  | .rootLossAtDie d => Sys2Proof.Machine.execRootLossAtDie d s
  | .lossOfLock l => Sys2Proof.Machine.execLossOfLock l s
  | .relockAttempt l phase => Sys2Proof.Machine.execRelockAttempt l phase s
  | .relockAttemptFailed l => Sys2Proof.Machine.execRelockAttemptFailed l s
  | .refinReturn phase => Sys2Proof.Machine.execRefinReturn phase s
  | .pllRelock l temp band => Sys2Proof.Machine.execPllRelock l temp band s
  | .refReturnTimeout => Sys2Proof.Machine.execRefReturnTimeout s
  | .sampDriftEval d drift => Sys2Proof.Machine.execSampDriftEval d drift s
  | .sysDriftEval d drift => Sys2Proof.Machine.execSysDriftEval d drift s
  | .coreRestored d => Sys2Proof.Machine.execCoreRestored d s
  | .systimeCompare d => Sys2Proof.Machine.execSystimeCompare d s
  | .replicaReload d => Sys2Proof.Machine.execReplicaReload d s
  | .syncEdgeArmed => Sys2Proof.Machine.execSyncEdgeArmed s
  | .syncEdgeUnarmed => Sys2Proof.Machine.execSyncEdgeUnarmed s
  | .syncLost => Sys2Proof.Machine.execSyncLost s
  | .ppsEdge falling => Sys2Proof.Machine.execPpsEdge falling s
  | .ppsLost => Sys2Proof.Machine.execPpsLost s
  | .hopLock d temp band => Sys2Proof.Machine.execHopLock d temp band s
  | .hopStoredBandTimeout d => Sys2Proof.Machine.execHopStoredBandTimeout d s
  | .hopSearchTimeout d => Sys2Proof.Machine.execHopSearchTimeout d s
  | .dividerRephase d => Sys2Proof.Machine.execDividerRephase d s
  | .hopWaitTimeout d => Sys2Proof.Machine.execHopWaitTimeout d s
  | .fastCheckTrip k check => Sys2Proof.Machine.execFastCheckTrip k check s
  | .checkWindowEnd j sigs => Sys2Proof.Machine.execCheckWindowEnd j sigs s
  | .shadowAttributionEnd j aDisagrees bDisagrees => Sys2Proof.Machine.execShadowAttributionEnd j aDisagrees bDisagrees s
  | .leaderSplice j => Sys2Proof.Machine.execLeaderSplice j s
  | .plannedSplice j => Sys2Proof.Machine.execPlannedSplice j s
  | .converterSampling k => Sys2Proof.Machine.execConverterSampling k s
  | .sliceRotationStep k => Sys2Proof.Machine.execSliceRotationStep k s
  | .shadowPhaseEnd k rms mean inAuthority convFault => Sys2Proof.Machine.execShadowPhaseEnd k rms mean inAuthority convFault s
  | .sliceCoeffUpdate k slice coef => Sys2Proof.Machine.execSliceCoeffUpdate k slice coef s
  | .agcWindow j peak => Sys2Proof.Machine.execAgcWindow j peak s
  | .agcLimit j peak => Sys2Proof.Machine.execAgcLimit j peak s
  | .converterRecordLatch k codes => Sys2Proof.Machine.execConverterRecordLatch k codes s
  | .pwrSumLoRead k => Sys2Proof.Machine.execPwrSumLoRead k s
  | .clearSticky k => Sys2Proof.Machine.execClearSticky k s
  | .feedLimitsWrite n openLimit overLimit => Sys2Proof.Machine.execFeedLimitsWrite n openLimit overLimit s
  | .segmentLate c e1 e2 => Sys2Proof.Machine.execSegmentLate c e1 e2 s
  | .auditSubslot d katFails => Sys2Proof.Machine.execAuditSubslot d katFails s
  | .auditVerifyEnd d agrees => Sys2Proof.Machine.execAuditVerifyEnd d agrees s
  | .auditReplacementSplice d => Sys2Proof.Machine.execAuditReplacementSplice d s
  | .ncoWordLoRead c => Sys2Proof.Machine.execNcoWordLoRead c s
  | .satStickyClear x => Sys2Proof.Machine.execSatStickyClear x s
  | .assayStep c => Sys2Proof.Machine.execAssayStep c s
  | .assayStateCopy c => Sys2Proof.Machine.execAssayStateCopy c s
  | .assayKatEnd c fails => Sys2Proof.Machine.execAssayKatEnd c fails s
  | .coverStart c pos => Sys2Proof.Machine.execCoverStart c pos s
  | .coverEnd c => Sys2Proof.Machine.execCoverEnd c s
  | .demodRestart r at_ => Sys2Proof.Machine.execDemodRestart r at_ s
  | .combinerUpdate l air => Sys2Proof.Machine.execCombinerUpdate l air s
  | .pilotLockChange l air => Sys2Proof.Machine.execPilotLockChange l air s
  | .stereoSwitch l => Sys2Proof.Machine.execStereoSwitch l s
  | .rdsBlock r stream air k => Sys2Proof.Machine.execRdsBlock r stream air k s
  | .amssBlock l air k => Sys2Proof.Machine.execAmssBlock l air k s
  | .measurementPeriodEnd l air late => Sys2Proof.Machine.execMeasurementPeriodEnd l air late s
  | .sideDataSpanEnd r air => Sys2Proof.Machine.execSideDataSpanEnd r air s
  | .watchTapPeriodEnd w air late => Sys2Proof.Machine.execWatchTapPeriodEnd w air late s
  | .surveyDwellEnd w air late => Sys2Proof.Machine.execSurveyDwellEnd w air late s
  | .watchTapKat w fails repeatFails => Sys2Proof.Machine.execWatchTapKat w fails repeatFails s
  | .streamBlockFormed x t0 air fault old late choked => Sys2Proof.Machine.execStreamBlockFormed x t0 air fault old late choked s
  | .dabFrame e air => Sys2Proof.Machine.execDabFrame e air s
  | .cifDecoded e air => Sys2Proof.Machine.execCifDecoded e air s
  | .tiiPeriodEnd e => Sys2Proof.Machine.execTiiPeriodEnd e s
  | .drmFrame e p air => Sys2Proof.Machine.execDrmFrame e p air s
  | .feedMissingTimeout e p => Sys2Proof.Machine.execFeedMissingTimeout e p s
  | .engineRecordSpanEnd e late => Sys2Proof.Machine.execEngineRecordSpanEnd e late s
  | .engineMeasPeriodEnd e air late => Sys2Proof.Machine.execEngineMeasPeriodEnd e air late s
  | .crossAssayWindow d p => Sys2Proof.Machine.execCrossAssayWindow d p s
  | .crossAssayCompareEnd d region differs => Sys2Proof.Machine.execCrossAssayCompareEnd d region differs s
  | .engineKatVectors d p failed => Sys2Proof.Machine.execEngineKatVectors d p failed s
  | .engineDifferenceResolved d region checkerFailed partnerFailed repeatDiffers => Sys2Proof.Machine.execEngineDifferenceResolved d region checkerFailed partnerFailed repeatDiffers s
  | .followPeriodEnd f air => Sys2Proof.Machine.execFollowPeriodEnd f air s
  | .delayEstimate f air => Sys2Proof.Machine.execDelayEstimate f air s
  | .fadeStart f => Sys2Proof.Machine.execFadeStart f s
  | .fadeEnd f => Sys2Proof.Machine.execFadeEnd f s
  | .candidateDwellEnd f w air => Sys2Proof.Machine.execCandidateDwellEnd f w air s
  | .verificationLapse f => Sys2Proof.Machine.execVerificationLapse f s
  | .followRecord f => Sys2Proof.Machine.execFollowRecord f s
  | .accessUnitReceived k => Sys2Proof.Machine.execAccessUnitReceived k s
  | .auDue k finished => Sys2Proof.Machine.execAuDue k finished s
  | .rateFollowerUpdate k => Sys2Proof.Machine.execRateFollowerUpdate k s
  | .slotResync k => Sys2Proof.Machine.execSlotResync k s
  | .loudnessBlock x air => Sys2Proof.Machine.execLoudnessBlock x air s
  | .silenceWindow x air => Sys2Proof.Machine.execSilenceWindow x air s
  | .classifierWindow x air => Sys2Proof.Machine.execClassifierWindow x air s
  | .nonAudioMuteEnd x => Sys2Proof.Machine.execNonAudioMuteEnd x s
  | .matchEstimate x air => Sys2Proof.Machine.execMatchEstimate x air s
  | .slotMeasPeriodEnd x air late => Sys2Proof.Machine.execSlotMeasPeriodEnd x air late s
  | .pcmBlockFormed r t0 air old => Sys2Proof.Machine.execPcmBlockFormed r t0 air old s
  | .slotKat context idx fails repeatFails => Sys2Proof.Machine.execSlotKat context idx fails repeatFails s
  | .portStartTick p => Sys2Proof.Machine.execPortStartTick p s
  | .portPrerollEnd p => Sys2Proof.Machine.execPortPrerollEnd p s
  | .portStopTick p => Sys2Proof.Machine.execPortStopTick p s
  | .portPostrollEnd p => Sys2Proof.Machine.execPortPostrollEnd p s
  | .portFrameStart d air present late diffs => Sys2Proof.Machine.execPortFrameStart d air present late diffs s
  | .portFollowerUpdate p err => Sys2Proof.Machine.execPortFollowerUpdate p err s
  | .portLeaveFollower p => Sys2Proof.Machine.execPortLeaveFollower p s
  | .inputFrameReceived d frame air => Sys2Proof.Machine.execInputFrameReceived d frame air s
  | .inputBlockFormed d air => Sys2Proof.Machine.execInputBlockFormed d air s
  | .amclkStop d => Sys2Proof.Machine.execAmclkStop d s
  | .amclkQualified d freq => Sys2Proof.Machine.execAmclkQualified d freq s
  | .portResume p => Sys2Proof.Machine.execPortResume p s
  | .amclkBlockRate d freq => Sys2Proof.Machine.execAmclkBlockRate d freq s
  | .portRateSwitch p => Sys2Proof.Machine.execPortRateSwitch p s
  | .amclkGlitches d count => Sys2Proof.Machine.execAmclkGlitches d count s
  | .portClearCounts p => Sys2Proof.Machine.execPortClearCounts p s
  | .pcieReset => Sys2Proof.Machine.execPcieReset s
  | .linkState up width rate => Sys2Proof.Machine.execLinkState up width rate s
  | .receivedWriteEcrcFail bar offset => Sys2Proof.Machine.execReceivedWriteEcrcFail bar offset s
  | .ringConfigWrite r offset v => Sys2Proof.Machine.execRingConfigWrite r offset v s
  | .ringEnable r v => Sys2Proof.Machine.execRingEnable r v s
  | .ringDisable r v => Sys2Proof.Machine.execRingDisable r v s
  | .ringWritesDrained r => Sys2Proof.Machine.execRingWritesDrained r s
  | .doorbellWrite r index => Sys2Proof.Machine.execDoorbellWrite r index s
  | .doorbellResume r index => Sys2Proof.Machine.execDoorbellResume r index s
  | .descriptorFetch r desc => Sys2Proof.Machine.execDescriptorFetch r desc s
  | .completionWrite q => Sys2Proof.Machine.execCompletionWrite q s
  | .blockWrite r good owner => Sys2Proof.Machine.execBlockWrite r good owner s
  | .blockHoldExpiry r => Sys2Proof.Machine.execBlockHoldExpiry r s
  | .interruptModTimer r => Sys2Proof.Machine.execInterruptModTimer r s
  | .msixUnmask v => Sys2Proof.Machine.execMsixUnmask v s
  | .ringOverrun r => Sys2Proof.Machine.execRingOverrun r s
  | .eventBlock x => Sys2Proof.Machine.execEventBlock x s
  | .telemetryRecord d => Sys2Proof.Machine.execTelemetryRecord d s
  | .nop src => Sys2Proof.Machine.execNop src s
  | .identify src => Sys2Proof.Machine.execIdentify src s
  | .timeSet src => Sys2Proof.Machine.execTimeSet src s
  | .realign src => Sys2Proof.Machine.execRealign src s
  | .stageLane src => Sys2Proof.Machine.execStageLane src s
  | .stageCluster src buf => Sys2Proof.Machine.execStageCluster src buf s
  | .stageEngine src => Sys2Proof.Machine.execStageEngine src s
  | .stageSlot src => Sys2Proof.Machine.execStageSlot src s
  | .stagePort src => Sys2Proof.Machine.execStagePort src s
  | .stageFollow src buf => Sys2Proof.Machine.execStageFollow src buf s
  | .stageBank src buf => Sys2Proof.Machine.execStageBank src buf s
  | .stagePlan src buf => Sys2Proof.Machine.execStagePlan src buf s
  | .stageCopy src => Sys2Proof.Machine.execStageCopy src s
  | .discardStage src => Sys2Proof.Machine.execDiscardStage src s
  | .commit src => Sys2Proof.Machine.execCommit src s
  | .pendingSetReceived d good => Sys2Proof.Machine.execPendingSetReceived d good s
  | .commitAckDeadline => Sys2Proof.Machine.execCommitAckDeadline s
  | .configSwap temps => Sys2Proof.Machine.execConfigSwap temps s
  | .portStart src => Sys2Proof.Machine.execPortStart src s
  | .portStop src => Sys2Proof.Machine.execPortStop src s
  | .captureStart src => Sys2Proof.Machine.execCaptureStart src s
  | .captureStartTick r => Sys2Proof.Machine.execCaptureStartTick r s
  | .captureStop src => Sys2Proof.Machine.execCaptureStop src s
  | .calStart src => Sys2Proof.Machine.execCalStart src s
  | .calQuery src => Sys2Proof.Machine.execCalQuery src s
  | .calStore src => Sys2Proof.Machine.execCalStore src s
  | .calStoreWriteDone ok => Sys2Proof.Machine.execCalStoreWriteDone ok s
  | .autoStore => Sys2Proof.Machine.execAutoStore s
  | .syscalStep src meas => Sys2Proof.Machine.execSyscalStep src meas s
  | .levelStepStart n => Sys2Proof.Machine.execLevelStepStart n s
  | .levelPhaseEnd n air => Sys2Proof.Machine.execLevelPhaseEnd n air s
  | .levelStepEval n => Sys2Proof.Machine.execLevelStepEval n s
  | .standbyDUpdate j => Sys2Proof.Machine.execStandbyDUpdate j s
  | .calinSuspectHoldEnd => Sys2Proof.Machine.execCalinSuspectHoldEnd s
  | .monitorBackgroundCal d ref0 ref1 loop100 loop300 => Sys2Proof.Machine.execMonitorBackgroundCal d ref0 ref1 loop100 loop300 s
  | .monInject src => Sys2Proof.Machine.execMonInject src s
  | .monRead src => Sys2Proof.Machine.execMonRead src s
  | .monConversionEnd d raw => Sys2Proof.Machine.execMonConversionEnd d raw s
  | .monPassStart d => Sys2Proof.Machine.execMonPassStart d s
  | .monInjectionEnd d raw => Sys2Proof.Machine.execMonInjectionEnd d raw s
  | .monSecondLatch => Sys2Proof.Machine.execMonSecondLatch s
  | .monApply d => Sys2Proof.Machine.execMonApply d s
  | .monClear d => Sys2Proof.Machine.execMonClear d s
  | .monRunSet d => Sys2Proof.Machine.execMonRunSet d s
  | .monRunClear d => Sys2Proof.Machine.execMonRunClear d s
  | .sumLoRead d idx => Sys2Proof.Machine.execSumLoRead d idx s
  | .faultQuery src => Sys2Proof.Machine.execFaultQuery src s
  | .faultClear src => Sys2Proof.Machine.execFaultClear src s
  | .unitRetire src => Sys2Proof.Machine.execUnitRetire src s
  | .unitRestore src pass => Sys2Proof.Machine.execUnitRestore src pass s
  | .modeSet src => Sys2Proof.Machine.execModeSet src s
  | .receptionEntryTick => Sys2Proof.Machine.execReceptionEntryTick s
  | .receptionExitTick => Sys2Proof.Machine.execReceptionExitTick s
  | .attest src => Sys2Proof.Machine.execAttest src s
  | .hallmarkConfig src => Sys2Proof.Machine.execHallmarkConfig src s
  | .keyInfo src => Sys2Proof.Machine.execKeyInfo src s
  | .updateBegin src => Sys2Proof.Machine.execUpdateBegin src s
  | .updateChunk src buf ok => Sys2Proof.Machine.execUpdateChunk src buf ok s
  | .updateFinish src => Sys2Proof.Machine.execUpdateFinish src s
  | .logRead src => Sys2Proof.Machine.execLogRead src s
  | .sramSingleBitError d array row word => Sys2Proof.Machine.execSramSingleBitError d array row word s
  | .sramUncorrectable d word o => Sys2Proof.Machine.execSramUncorrectable d word o s
  | .planishPassStart d => Sys2Proof.Machine.execPlanishPassStart d s
  | .planishPassComplete d => Sys2Proof.Machine.execPlanishPassComplete d s
  | .backgroundTaskAgeing t overdue => Sys2Proof.Machine.execBackgroundTaskAgeing t overdue s
  | .flashRefresh fails => Sys2Proof.Machine.execFlashRefresh fails s
  | .flitCrcError d dir lanes consecutive replayed => Sys2Proof.Machine.execFlitCrcError d dir lanes consecutive replayed s
  | .linkProbe d dir trained => Sys2Proof.Machine.execLinkProbe d dir trained s
  | .linkRestored d dir => Sys2Proof.Machine.execLinkRestored d dir s
  | .lastingRuleWrite idx v => Sys2Proof.Machine.execLastingRuleWrite idx v s
  | .faultLogWrite fails => Sys2Proof.Machine.execFaultLogWrite fails s
  | .logSuppressed code => Sys2Proof.Machine.execLogSuppressed code s
  | .antiRollbackRaise => Sys2Proof.Machine.execAntiRollbackRaise s
  | .hallmarkIntervalEnd => Sys2Proof.Machine.execHallmarkIntervalEnd s
  | .hallmarkKeyRotation => Sys2Proof.Machine.execHallmarkKeyRotation s
  | .debugChallengeRead level => Sys2Proof.Machine.execDebugChallengeRead level s
  | .debugResponseWrite r => Sys2Proof.Machine.execDebugResponseWrite r s
  | .mbWriteTransaction addr bytes => Sys2Proof.Machine.execMbWriteTransaction addr bytes s
  | .mbReadTransaction addr hdr ackLast sda scl => Sys2Proof.Machine.execMbReadTransaction addr hdr ackLast sda scl s
  | .mbWake byte => Sys2Proof.Machine.execMbWake byte s
  | .mbSleepClockStop => Sys2Proof.Machine.execMbSleepClockStop s
  | .mbTargetTimeout pointer received write => Sys2Proof.Machine.execMbTargetTimeout pointer received write s
  | .mbControllerGo w stuck freed => Sys2Proof.Machine.execMbControllerGo w stuck freed s
  | .mbArbitrationLost byte => Sys2Proof.Machine.execMbArbitrationLost byte s
  | .mbControllerDone ack data pec => Sys2Proof.Machine.execMbControllerDone ack data pec s
  | .mbControllerTimeout => Sys2Proof.Machine.execMbControllerTimeout s
  | .mbTimingWrite v => Sys2Proof.Machine.execMbTimingWrite v s
  | .mbErrorsReport => Sys2Proof.Machine.execMbErrorsReport s
  | .mboxGo => Sys2Proof.Machine.execMboxGo s
  | .mboxComplete => Sys2Proof.Machine.execMboxComplete s
  | .alertLatchedClear => Sys2Proof.Machine.execAlertLatchedClear s
  | .wakeLatchedClear => Sys2Proof.Machine.execWakeLatchedClear s
  | .sleepClockStop => Sys2Proof.Machine.execSleepClockStop s
  | .sleepWakeAccess => Sys2Proof.Machine.execSleepWakeAccess s
  | .clkCtrlWrite v => Sys2Proof.Machine.execClkCtrlWrite v s
  | .systimeLoRead => Sys2Proof.Machine.execSystimeLoRead s
  | .registerWrite t v => Sys2Proof.Machine.execRegisterWrite t v s
  | .rootReturnAtDie d phases => Sys2Proof.Machine.execRootReturnAtDie d phases s
  | .linkReceiverLockLoss d dir => Sys2Proof.Machine.execLinkReceiverLockLoss d dir s
  | .hostLinkFault => Sys2Proof.Machine.execHostLinkFault s
  | .firstDifferingValue c output => Sys2Proof.Machine.execFirstDifferingValue c output s
  | .auditCompareMismatch d => Sys2Proof.Machine.execAuditCompareMismatch d s

end Sys2Proof.Machine
end

