-- ==== Sys2Proof/Machine/ReadRegs.lean ====
section
/-!
DEFINITION. What a read of a register returns (00 R4, R13): every word of BAR0 and BAR2, from the register tables of 02 to 10 and 12 to 17. Reserved bits, words that no table gives, and the windows of absent dies read 0. A fenced die's window reads as it stands: DESIGN CHOICE (notes/assumptions/50.md).
-/
namespace Sys2Proof.Machine

/-- A word from its fields: lowest bit, width, value; bits of no field read 0 (00 R13). -/
def regWord (fs : List (Nat × Nat × Int)) : Nat := (fs.foldl (fun acc f => acc + wrapInt f.2.1 f.2.2 * 2 ^ f.1) 0) % 2 ^ 32

/-- A field of one bit. -/
def bitField (b : Nat) (v : Bool) : Nat × Nat × Int := (b, 1, (b2n v : Nat))

/-- A field of `w` bits. -/
def natField (b w v : Nat) : Nat × Nat × Int := (b, w, (v : Int))

/-- A field of `w` bits whose value is signed. -/
def intField (b w : Nat) (v : Int) : Nat × Nat × Int := (b, w, v)

/-- The 32-bit word at a byte of a register block that is laid out as bytes. -/
def byteWord (bs : List Byte) (o : Nat) : Nat := leNat (padTo 4 (bs.drop o))

/-! ### Package window -/

/-- Clock and time words (02). -/
def State.readClocks (s : State) (o : Nat) : Nat :=
  let t := s.time
  match o with
  | 0x0200 => regWord [natField 0 2 t.spreadMode, natField 2 7 t.spreadDepth, bitField 9 t.ppsEnable, bitField 10 t.ppsFalling, bitField 11 t.syncOutEn]
  | 0x0204 => regWord [bitField 0 s.pins.refsel, natField 1 4 s.pins.syncpos]
  | 0x0208 => regWord [intField 0 16 t.syncSkew]
  | 0x0210 => s.now % 2 ^ 32
  | 0x0214 => t.snapHi.toNat
  | 0x0220 => regWord [bitField 0 s.ref.present, bitField 1 s.ref.locked, bitField 2 s.holdoverCond, bitField 3 s.ppsPresent, bitField 4 t.aligned,
      bitField 5 (decide (t.armed = .realign))]
  | _ => 0

/-- Front end and course of an input (03). -/
def State.readCourse (s : State) (n o : Nat) : Nat :=
  let c := s.front.courses.get n
  match o with
  | 0x00 => regWord [intField 0 8 c.gain, natField 8 5 c.attenuator, bitField 13 c.lnaOn, natField 14 2 c.inject, bitField 16 c.agcOn, natField 17 2 c.mode.code,
      bitField 19 (c.leader == some 1), bitField 20 c.standbyReady, bitField 21 c.contested, bitField 22 c.lost, bitField 23 c.feedOpen,
      bitField 24 c.feedOver, bitField 25 c.agcAtLimit]
  | 0x04 => regWord [natField 0 16 c.feedCurrent]
  | 0x08 => regWord [natField 0 16 c.openLimit, natField 16 16 c.overLimit]
  | 0x0C => c.gainStepTotal.toNat
  | 0x10 => regWord [natField 0 16 c.spliceCount.toNat]
  | _ => 0

/-- A CALIN tone, calibration control and status (12). -/
def State.readCal (s : State) (o : Nat) : Nat :=
  let c := s.cal
  if o < 0x0640 then
    let t := c.tones.getD ((o - 0x0600) / 8) {}
    if o % 8 = 0 then t.freq % 2 ^ 32 else regWord [intField 0 16 (t.level.getD 0x8000), bitField 16 t.en]
  else match o with
    | 0x0640 => regWord [natField 0 11 c.levelInterval, bitField 11 c.autoStore, bitField 12 c.suspect]
    | 0x0644 => regWord [natField 0 1 c.storeSlot, bitField 1 c.storeValid, bitField 2 c.unsavedSince.isSome, bitField 3 c.store.isSome]
    | 0x0648 => c.storeSeq.toNat
    | _ => 0

/-- The worst age of a kind of task over the indices below `n`. -/
def State.worstAge (s : State) (n : Nat) (t : Nat → Task) : Nat := maxL ((List.range n).map fun i => s.taskAge (t i))

/-- Lasting rules, fault summary, NEXT of the fault log, task ages (14). -/
def State.readFaults (s : State) (o : Nat) : Nat :=
  if o < 0x071C then
    let r := s.integ.rules.getD ((o - 0x0700) / 4) ⟨0, 0⟩
    regWord [natField 0 8 r.count, natField 8 16 r.window]
  else match o with
    | 0x0720 => s.faultSummary
    | 0x0724 => s.nv.logNext.toNat
    | 0x0728 => regWord [natField 0 2 (s.worstAge s.dies .planish), natField 2 2 (s.worstAge s.dies .level), natField 4 2 (s.worstAge s.dies .monitor),
        natField 6 2 (s.taskAge .store), natField 8 2 (s.taskAge .flashRefresh), natField 10 2 (s.worstAge s.dies .telemetry),
        natField 12 2 (s.taskAge .hallmark), natField 14 2 (s.taskAge .log)]
    | _ => 0

/-- Security status (15). -/
def State.readSecurity (s : State) (o : Nat) : Nat :=
  let x := s.sec
  let v := s.nv.sec
  match o with
  | 0x0800 => regWord [bitField 0 x.runningB, bitField 1 v.slotA.valid, bitField 2 v.slotB.valid, bitField 3 v.preferB, bitField 4 v.ownerHash.isSome,
      natField 5 2 x.debugLevel, bitField 7 x.fallback, natField 8 7 v.rollback, bitField 15 (decide (v.rollback < x.fwLevel)),
      bitField 16 x.hall.enable, natField 17 6 x.hall.interval, bitField 23 x.hall.erased]
  | 0x0804 => ((x.hall.last.map fun (r : SealRef) => r.num).getD 0) % 2 ^ 32
  | 0x0808 => s.nv.bootNum.toNat
  | _ => 0

/-- Mode and alert words (17). -/
def State.readMode (s : State) (o : Nat) : Nat :=
  let m := s.mode
  match o with
  | 0x0900 => regWord [natField 0 4 m.mode.code, natField 4 4 m.prev.code, natField 8 3 m.bootPhase, bitField 11 m.change.isSome]
  | 0x0904 => regWord [bitField 0 m.autoRun, bitField 1 m.alertPty31, bitField 2 m.alertTa, bitField 3 m.alertDab, bitField 4 m.alertDrm, bitField 5 m.alertInRun]
  | 0x0908 => regWord [bitField 0 (!m.alerts.isEmpty), bitField 1 m.alertLatched, bitField 2 m.wakeLatched, natField 3 2 m.lastSource, natField 5 9 m.lastIndex,
      natField 14 3 m.lastPosition]
  | 0x090C => m.alertCount.toNat
  | _ => 0

/-- A ring's words (10 R283). Fields of another kind of ring are reserved in it. -/
def State.readRing (s : State) (r o : Nat) : Nat :=
  let g := s.link.rings.get r
  let command := decide (r < 16)
  let delivery := decide (32 ≤ r)
  match o with
  | 0x00 => g.baseLo.toNat
  | 0x04 => g.baseHi.toNat
  | 0x08 => regWord [natField 0 5 g.sizeLog2, bitField 5 g.enable, natField 6 6 g.vector, natField 12 4 (if command then g.cq else 0),
      natField 16 5 (if delivery then g.bufLog2 else 0)]
  | 0x0C => if delivery then regWord [natField 0 7 g.holdLimit] else 0
  | 0x10 => regWord [natField 0 16 g.modCount, natField 16 16 g.modTime]
  | 0x14 => regWord [natField 0 16 g.devIndex, bitField 16 (g.enable || g.inFlight), bitField 17 g.fenced, bitField 18 g.err, natField 19 3 g.errCode.code,
      bitField 22 (delivery && (s.cfg.active.routes.get (r - 32)).cls.isSome)]
  | 0x18 => g.discards.toNat
  | 0x1C => g.written.toNat
  | _ => 0

/-- The MSI-X table, with each vector's mask bit, and the pending bits (10 R276, R277, R297). -/
def State.readMsix (s : State) (o : Nat) : Nat :=
  let p := s.link.pcie
  if o < 0xE400 then
    let k := (o - 0xE000) / 16
    let e := p.msixTable.get k
    match o % 16 / 4 with
    | 0 => e.addrLo.toNat
    | 1 => e.addrHi.toNat
    | 2 => e.data.toNat
    | _ => b2n (maskBit p.masked k)
  else if o = 0xE800 then p.pbaPending % 2 ^ 32
  else if o = 0xE804 then p.pbaPending / 2 ^ 32
  else 0

/-- A word of the package window (10 "BARs"). -/
def State.readPackage (s : State) (o : Nat) : Nat :=
  if o = 0 then s.idWord
  else if o < 0x0400 then s.readClocks o
  else if o < 0x0400 + 0x20 * s.dies then s.readCourse ((o - 0x0400) / 0x20) (o % 0x20)
  else if o < 0x0600 then 0
  else if o < 0x0700 then s.readCal o
  else if o < 0x0800 then s.readFaults o
  else if o < 0x0900 then s.readSecurity o
  else if o < 0x0A00 then s.readMode o
  else if 0x0A20 ≤ o && o < 0x0A64 then byteWord (s.mbRegs s.mb.target.isSome) (o - 0x0A20)
  else if 0x1000 ≤ o && o < 0x1C00 then s.readRing ((o - 0x1000) / 0x20) (o % 0x20)
  else if 0xE000 ≤ o && o < 0xF000 then s.readMsix o
  else 0

/-! ### Per-die window -/

/-- Clock status and drift of a die (02). -/
def State.readDieClocks (s : State) (d o : Nat) : Nat :=
  let c := s.clk.get d
  if o = 0x0200 then
    regWord [bitField 0 c.samp.locked, bitField 1 c.samp.coasting, bitField 2 c.sys.locked, bitField 3 c.sys.coasting, bitField 4 c.onRoot, bitField 5 c.aud.locked,
      bitField 6 c.aud.coasting, bitField 7 (c.mutedNow s.now), natField 8 2 c.plan, bitField 10 c.samp.held, bitField 11 c.sys.held, bitField 12 c.aud.held]
  else if o = 0x0204 then regWord [intField 0 16 c.sampDrift, intField 16 16 c.sysDrift]
  else 0

/-- A converter's record (03): the words of the latched record come from the snapshot (R100). -/
def State.readConverter (s : State) (k o : Nat) : Nat :=
  let c := s.front.convs.get k
  let r := c.snap
  match o with
  | 0x00 => regWord [bitField 0 c.powered, bitField 1 ((s.front.courses.get (s.courseOf k)).leader == some (k % 2)), bitField 2 c.failed, bitField 3 c.spareSlice.isNone,
      natField 4 4 (c.spareSlice.getD 0xF), natField 8 9 c.retired, natField 17 3 c.rotPosition, bitField 20 c.rotStandin, bitField 21 c.rotSuspended]
  | 0x08 => c.latched.pwrSum.toNat % 2 ^ 32
  | 0x0C => r.pwrSum.toNat / 2 ^ 32
  | 0x10 => r.pwrCount.toNat
  | 0x14 => r.tickNum.toNat
  | 0x18 => regWord [natField 0 16 r.lo.toNat, natField 16 16 r.hi.toNat]
  | 0x1C => r.clipCount.toNat
  | 0x20 => regWord [intField 0 8 r.gainEnd, natField 8 8 r.gainSteps]
  | 0x24 => regWord [natField 0 16 c.stickyMin.toNat, natField 16 16 c.stickyMax.toNat]
  | 0x28 => c.stickyClip.toNat
  | _ => if 0x40 ≤ o && o < 0x64 then (r.sliceLevels.getD ((o - 0x40) / 4) 0x8000).toNat else 0

/-- A band tap's record (04). -/
def State.readBandTap (s : State) (c o : Nat) : Nat :=
  let b := s.taps.bandTaps.get c
  let S := planFrameSamples s.cfg.active.plan
  match o with
  | 0x00 => regWord [bitField 0 b.assigned, natField 1 3 b.segCode, natField 4 3 b.course, bitField 7 (s.remoteTap c),
      bitField 8 (s.nv.auditCarries.get (clusterDie c) == some (bandTapRef c)),
      bitField 9 ((s.taps.segments.get c).segmentDead S (s.now * S / 32 / 2 ^ s.segN c) (s.tuneOf c 0 {} {})), bitField 10 b.satSticky]
  | 0x04 => b.ncoWord % 2 ^ 32
  | 0x08 => regWord [natField 0 16 b.ncoHiSnap.toNat]
  | 0x0C => regWord [natField 0 16 b.mismatches.toNat]
  | 0x10 => b.lastCleanTick.toNat
  | _ => 0

/-- TARGET_EXPORT and TARGET of an audit sub-slot; a test of the audit tap itself stands under the export tap whose sub-slot it takes: DESIGN CHOICE (notes/assumptions/50.md). -/
def AuditTarget.number : AuditTarget → Bool × Nat
  | .bandTap c | .kat c => (false, c % 4)
  | .exportTap i | .selfKat i => (true, i % 16)

/-- The audit band tap (04). -/
def State.readAudit (s : State) (d : Nat) : Nat :=
  let a := s.taps.audits.get d
  let t := ((a.verifying.map (·.2)).or a.target).map AuditTarget.number
  regWord [bitField 0 (s.auditRuns d), bitField 1 ((t.map (·.1)).getD false), natField 2 4 ((t.map (·.2)).getD 0), bitField 6 a.verifying.isSome,
    bitField 7 (s.nv.auditCarries.get d).isSome, bitField 8 (s.retired (auditRef d)), natField 9 2 a.slot, natField 11 3 a.subSlot]

/-- An export tap (04). -/
def State.readExport (s : State) (i o : Nat) : Nat :=
  let x := s.taps.exports.get i
  match o with
  | 0x0 => regWord [bitField 0 x.dest.isSome, natField 1 1 x.converter, natField 2 3 ((x.dest.map clusterDie).getD 0), natField 5 2 ((x.dest.getD 0) % 4),
      natField 7 3 x.segCode, bitField 10 (s.retired (exportRef i))]
  | 0x4 => regWord [natField 0 16 x.mismatches.toNat]
  | _ => 0

/-- A chain's record (04). -/
def Chain.readWord (c : Chain) (now o : Nat) : Nat :=
  match o with
  | 0x0 => regWord [bitField 0 c.active, natField 1 2 c.rateClass, natField 3 4 c.halvings, bitField 7 (c.active && c.suppressingAt now), bitField 8 c.satHalving,
      bitField 9 c.satResampler, bitField 10 c.satFilter, natField 11 3 c.bank, natField 14 5 c.filter, natField 19 7 c.filterLen]
  | 0x4 => regWord [natField 0 14 c.phaseDelay]
  | 0x8 => c.coarseDelay % 2 ^ 32
  | 0xC => c.lastEventTick.toNat
  | _ => 0

/-- STATE of a lane index (05): a later state of the table over an earlier one. -/
def State.laneState (s : State) (l : Nat) : Nat :=
  let c := laneCluster l
  let x := s.lanes.spares.get c
  let here := fun (hold : Bool) => match x.cover with
    | some v => v.hold == hold && v.pos == l % 8
    | none => false
  if s.laneDead l then 5
  else if here true then 4
  else if s.replacedPos c == some (l % 8) then 3
  else if here false then 2
  else if x.assay.isSome && x.position == l % 8 then 1
  else 0

/-- A demodulator's status (05). -/
def State.readDemod (s : State) (l o : Nat) : Nat :=
  let x := s.lanes.demods.get l
  let e := s.cfg.active.lanes.get l
  let f := x.rds.fields
  let sync := fun (i : Nat) => (x.rds.streams.getD i {}).synced
  match o with
  | 0x00 => regWord [natField 0 3 e.mode.code, bitField 3 x.pilot, bitField 4 x.stereo, bitField 5 x.carrierLock, natField 6 4 (maskOf 4 sync), bitField 10 x.amssSync,
      natField 11 2 e.branchCount, natField 13 3 (s.laneState l)]
  | 0x04 => regWord [natField 0 16 (f.pi.acc.getD 0), bitField 16 f.pi.acc.isSome, natField 17 5 (f.pty.acc.getD 0), natField 22 1 (f.tp.acc.getD 0),
      natField 23 1 (f.ta.acc.getD 0)]
  | 0x08 => x.rdsBlocks.toNat
  | 0x0C => x.rdsUncorr.toNat
  | 0x10 => regWord [natField 0 16 x.charges.toNat]
  | 0x14 => x.lastAssayTick.toNat
  | 0x18 => x.lastCoverTick.toNat
  | _ => 0

/-- A cluster's spare lane (05). -/
def State.readSpare (s : State) (c o : Nat) : Nat :=
  let x := s.lanes.spares.get c
  let covering := x.cover.any fun v => !v.hold
  let duty := if s.retired (spareRef c) then 3 else if (s.replacedPos c).isSome then 2 else if covering then 1 else 0
  match o with
  | 0x0 => regWord [natField 0 2 duty, natField 2 3 (match s.replacedPos c, x.cover with
        | some p, _ => p
        | none, some v => v.pos
        | none, none => x.position),
      bitField 5 (x.assay.any (·.testing)), bitField 6 (s.unassayed c), bitField 7 (s.cfg.active.clusters.get c).holdCover]
  | 0x4 => regWord [natField 0 16 x.spareCharges.toNat]
  | 0x8 => x.rotations.toNat
  | 0xC => x.lastRotationTick.toNat
  | _ => 0

/-- A watch tap (05). -/
def State.readWatch (s : State) (w o : Nat) : Nat :=
  let x := s.lanes.watches.get w
  let e := s.cfg.active.watches.get w
  if o = 0 then
    regWord [natField 0 2 e.mode.code, bitField 2 (decide (e.mode ≠ .off) && e.rateHigh), bitField 3 (s.cfg.active.followTaps.contains w),
      bitField 4 (x.rds.streams.getD 0 {}).synced, bitField 5 x.preempted, natField 6 5 x.listIndex]
  else x.freq % 2 ^ 32

/-- An engine index (06). -/
def State.readEngine (s : State) (e o : Nat) : Nat :=
  let x := s.ofdm.engines.get e
  let c := s.cfg.active.engines.get e
  let d := engineDie e
  let p := s.physEngine e
  let y := s.ofdm.phys.get (d * 4 + p)
  let z := x.signals.get 0
  let having := fun (f : SignalSt → Bool) => maskOf 8 fun i => c.positions.contains i && f (x.signals.get i)
  match o with
  | 0x00 => regWord [natField 0 2 c.cls.code, natField 2 4 c.units, bitField 6 (s.retired (engineRef d p)), bitField 7 (s.nv.engineMap.get e).isSome, natField 8 2 p,
      bitField 10 ((s.ofdm.regions.get (d * 2 + p / 2)).checking.any fun v => v.1 == p), bitField 11 (s.retired (engineRef d (partnerOf p)))]
  | 0x04 => regWord [natField 0 8 (maskOf 8 c.positions.contains), natField 8 8 (having (·.synced)), natField 16 8 (having (·.complete))]
  | 0x08 => regWord [natField 0 16 (z.eid.getD 0), natField 16 13 (match z.frameCif with
      | some n => (n + z.cifsDone + 4999) % 5000
      | none => 0x1FFF)]
  | 0x0C => regWord [natField 0 7 (z.current.accepted.filter fun f => f.key.1 == 1).length]
  | 0x10 => regWord [intField 0 32 z.freqOffset]
  | 0x14 => regWord [intField 0 16 ((merOf z.merNow).getD 0x8000)]
  | 0x18 => regWord [natField 0 16 y.charges.toNat]
  | 0x1C => y.lastCheckTick.toNat
  | 0x20 => x.restarts.toNat
  | _ => 0

/-- A COMMIT waits for the fade of a follow set (07 DEFER_PENDING): it was deferred past the fade's F1 and has not taken effect. -/
def State.deferPending (s : State) (f : Nat) : Bool :=
  match s.cfg.commit, (s.audio.follows.get f).fade with
  | some p, some x => decide (x.f0 ≤ p.tick * countsPerTick) && decide (p.tick * countsPerTick < x.f1) && s.commitAffects p.set f
  | _, _ => false

/-- A follow set (07). -/
def State.readFollow (s : State) (f o : Nat) : Nat :=
  let x := s.audio.follows.get f
  let p := x.members.getD x.playing {}
  let k := x.standby.getD 0
  let m := x.members.getD k {}
  let has := x.standby.isSome
  match o with
  | 0x00 => regWord [natField 0 2 x.stage, natField 2 2 x.playing, natField 4 2 k, bitField 6 has, bitField 7 (s.standbyReady f), bitField 8 x.locked,
      bitField 9 (x.fade.any (·.started)), bitField 10 x.held.isSome, bitField 11 (s.deferPending f), natField 12 2 p.cond, natField 14 2 (if has then m.cond else 0),
      natField 16 4 x.cands.length]
  | 0x04 => regWord [intField 0 32 (if x.locked then x.delta else 0x80000000)]
  | 0x08 => regWord [natField 0 22 x.dPlaying]
  | 0x0C => regWord [natField 0 22 x.dStandby]
  | 0x10 => regWord [natField 0 16 (x.rho.getD 0xFFFF), natField 16 5 x.pages]
  | 0x14 => x.switches.toNat
  | 0x18 => x.lastSwitchTick.toNat
  | _ => 0

/-- The slot's latest output sample: the one at the last grid point heard. -/
def SlotSt.latest (y : SlotSt) : PcmSample := y.pcm.getLastD (.dead 0)

/-- A programme slot (08). -/
def State.readSlot (s : State) (x o : Nat) : Nat :=
  let y := s.audio.slots.get x
  let e := s.cfg.active.slots.get x
  let fl := y.latest.flags
  let on := decide (e.source ≠ .none)
  match o with
  | 0x00 => regWord [natField 0 2 e.source.code, bitField 2 (on && y.latest.valid), natField 3 3 y.cls, bitField 6 (decide (y.cls ≠ 0)),
      bitField 7 (on && fl &&& flMuted != 0), bitField 8 y.silent, natField 9 2 y.matchSt.code, bitField 11 (s.retired (slotRef x)), bitField 12 y.satSticky]
  | 0x04 => regWord [natField 0 16 e.srcIndex]
  | 0x08 => ((s.slotLatency x (y.pcmTo - 1)).getD 0xFFFFFFFF) % 2 ^ 32
  | 0x0C => regWord [intField 0 32 (((s.slotContext x).map fun k => (s.audio.contexts.get k).corr).getD 0)]
  | 0x10 => regWord [intField 0 16 (y.loudS.getD 0x8000), intField 16 16 ((y.zLast.map loudOf).getD 0x8000)]
  | 0x14 => regWord [intField 0 16 (y.loudI.getD 0x8000)]
  | 0x18 => regWord [intField 0 32 ((y.matchLast.map (·.lag)).getD 0x80000000)]
  | 0x1C => regWord [natField 0 16 ((y.matchLast.map (·.rho)).getD 0xFFFF)]
  | _ => 0

/-- A decode context (08). -/
def State.readContext (s : State) (k o : Nat) : Nat :=
  let x := s.audio.contexts.get k
  let slot := s.contextSlot k
  match o with
  | 0x0 => regWord [bitField 0 slot.isSome, natField 1 3 (x.codec.getD 0), bitField 4 x.decoding, bitField 5 x.unsupported, bitField 6 (s.retired (contextRef k)),
      bitField 7 (slot.any fun i => decide ((s.cfg.active.slots.get i).source = .follow)), natField 8 6 ((slot.getD 0) % 64)]
  | 0x4 => regWord [natField 0 16 x.fOut, natField 16 2 x.channels]
  | 0x8 => x.auDecoded.toNat
  | 0xC => x.auLate.toNat
  | _ => 0

/-- Channels of a port: the selected ones of an output, two for each selected line of an input (09). -/
def portChannels (p : PortId) (x : PortSt) : Nat := if p.isInput then 2 * (maskList 4 x.entry.lineMask).length else (maskList 128 x.mask).length

/-- A port's words (09). -/
def State.readPort (s : State) (p : PortId) (o : Nat) : Nat :=
  let x := s.ports.ports.get p.key
  let a := s.ports.amclks.get p.die
  let fault := if p.isInput then maskOf 4 (fun i => x.stuck.any fun v => v.line == i && v.span.stop.isNone) else x.lineFault % 256
  match o with
  | 0x00 => regWord [natField 0 3 x.phase.code, bitField 3 x.entry.amclk, bitField 4 x.entry.bclkFast, bitField 5 x.onFollower, bitField 6 x.locked, bitField 7 x.atLimit,
      natField 8 2 x.nom, bitField 10 x.entry.autoRate, natField 11 5 (portChannels p x), natField 16 8 fault, bitField 24 (!p.isInput && maskBit x.lineFault 8)]
  | 0x04 => regWord [natField 0 16 x.fifoLevel]
  | 0x08 => regWord [intField 0 32 x.rateCorr]
  | 0x0C => if a.stopped then 0 else a.freq % 2 ^ 32
  | 0x10 => x.filled.toNat
  | 0x14 => x.discarded.toNat
  | 0x18 => regWord [natField 0 16 a.glitches.toNat, natField 16 16 a.stops.toNat]
  | 0x1C => regWord [natField 0 16 x.slips.toNat]
  | 0x20 => if p.isInput then regWord [natField 0 4 x.entry.lineMask] else x.mask % 2 ^ 32
  | 0x24 => if p.isInput then 0 else x.mask / 2 ^ 32 % 2 ^ 32
  | 0x28 => if p.isInput then 0 else x.mask / 2 ^ 64 % 2 ^ 32
  | 0x2C => if p.isInput then 0 else x.mask / 2 ^ 96 % 2 ^ 32
  | 0x30 => (tick32 x.dataStart).toNat
  | _ => 0

/-- The monitor converter (13). -/
def State.readMonitor (s : State) (d o : Nat) : Nat :=
  let m := s.mon.dies.get d
  let g := m.staged
  if o = 0x3400 then
    regWord [bitField 0 m.run, bitField 1 g.lowPower, bitField 2 g.align, bitField 3 g.diff01, bitField 4 g.diff23, natField 5 4 g.seqLast, bitField 9 m.applyPending,
      bitField 10 m.clearPending]
  else if o = 0x3404 then regWord [natField 0 14 m.passPeriod]
  else if o = 0x3408 then
    regWord [natField 0 4 m.entry, bitField 4 (!m.queue.isEmpty && !m.converting), natField 5 3 m.queue.length, bitField 9 m.applyPending, bitField 10 m.seqRejected,
      bitField 11 m.paceOverrun, bitField 12 m.active.lowPower, bitField 13 m.active.align]
  else if o < 0x3410 then 0
  else if o < 0x3450 then
    let e := g.entry ((o - 0x3410) / 4)
    regWord [natField 0 5 e.channel, natField 5 2 e.acq, bitField 7 e.accEn, natField 8 3 e.trk, bitField 11 e.trkEn]
  else if o < 0x3550 then
    let i := (o - 0x3450) / 0x10
    match o % 0x10 with
    | 0x0 => (m.accs.get i).sum.toNat % 2 ^ 32
    | 0x4 => (m.snaps.get i).1 % 2 ^ 32
    | 0x8 => (m.snaps.get i).2 % 2 ^ 32
    | _ => 0
  else
    let t := m.trks.get ((o - 0x3550) / 8)
    if o % 8 = 0 then regWord [intField 0 16 t.low, intField 16 16 t.high] else b2n t.valid

/-- Memory and link status (14). -/
def State.readMemory (s : State) (d o : Nat) : Nat :=
  let x := s.integ.dies.get d
  match o with
  | 0x3600 => regWord [bitField 0 x.passRunning, natField 1 2 (s.taskAge (.planish d))]
  | 0x3604 => regWord [natField 0 16 x.lastPassMs.toNat]
  | 0x3608 => x.secCount.toNat
  | 0x360C => regWord [natField 0 16 x.dedCount.toNat, natField 16 16 (s.rowsRemapped d)]
  | 0x3610 => regWord [natField 0 8 (s.spareRowsMin d), natField 8 8 (s.integ.exhausted.filter fun a => a / 112 == d).length]
  | 0x3614 => regWord [natField 0 8 (s.linkLanesOut d 0), natField 8 8 (s.linkLanesOut d 1), bitField 16 (s.linkDir d 0).failed, bitField 17 (s.linkDir d 1).failed]
  | _ => 0

/-- Power domains (17): a domain whose switch-on waits for its turn is not yet on (R435). -/
def State.readDomains (s : State) (d o : Nat) : Nat :=
  let x := s.domains.get d
  match o with
  | 0x3700 => maskOf 14 fun i => maskBit x.on i && decide (x.onAt.getD i 0 ≤ s.now)
  | 0x3704 => x.ready % 2 ^ 14
  | 0x3708 => x.tripped % 2 ^ 14
  | _ => 0

/-- A word of the window of a populated die. -/
def State.readDie (s : State) (d o : Nat) : Nat :=
  if o < 0x0300 then s.readDieClocks d o
  else if o < 0x0400 then s.readConverter (d * 2 + (o - 0x0300) / 0x80) (o % 0x80)
  else if o < 0x0480 then s.readBandTap (d * 4 + (o - 0x0400) / 0x20) (o % 0x20)
  else if o = 0x0480 then s.readAudit d
  else if o < 0x0500 then 0
  else if o < 0x0600 then s.readExport (d * 16 + (o - 0x0500) / 0x10) (o % 0x10)
  else if o < 0x0800 then 0
  else if o < 0x0A00 then (s.taps.lanes.get (d * 32 + (o - 0x0800) / 0x10)).readWord s.now (o % 0x10)
  else if o < 0x0A40 then (s.taps.spares.get (d * 4 + (o - 0x0A00) / 0x10)).readWord s.now (o % 0x10)
  else if o < 0x0C00 then 0
  else if o < 0x1000 then s.readDemod (d * 32 + (o - 0x0C00) / 0x20) (o % 0x20)
  else if o < 0x1040 then s.readSpare (d * 4 + (o - 0x1000) / 0x10) (o % 0x10)
  else if o < 0x1100 then 0
  else if o < 0x1300 then s.readWatch (d * 64 + (o - 0x1100) / 8) (o % 8)
  else if o < 0x1400 then 0
  else if o < 0x1500 then s.readEngine (d * 4 + (o - 0x1400) / 0x40) (o % 0x40)
  else if o < 0x1800 then 0
  else if o < 0x1A00 then s.readFollow (d * 16 + (o - 0x1800) / 0x20) (o % 0x20)
  else if o < 0x2000 then 0
  else if o < 0x2800 then s.readSlot (d * 64 + (o - 0x2000) / 0x20) (o % 0x20)
  else if o < 0x2B00 then s.readContext (d * 48 + (o - 0x2800) / 0x10) (o % 0x10)
  else if o < 0x3000 then 0
  else if o < 0x3080 then s.readPort (.out d) (o - 0x3000)
  else if o < 0x3100 then (if d < s.part.inPorts then s.readPort (.inp d) (o - 0x3080) else 0)
  else if 0x3400 ≤ o && o < 0x3590 then s.readMonitor d o
  else if 0x3600 ≤ o && o < 0x3618 then s.readMemory d o
  else if 0x3700 ≤ o && o < 0x370C then s.readDomains d o
  else 0

/-! ### BARs -/

/-- What a read of the aligned word at an offset of BAR0 returns (00 R4, R13, 10 "BARs"). What the read does besides, where it does something, is the meaning of its row: SYSTIME_LO_READ, PWR_SUM_LO_READ, NCO_WORD_LO_READ, SUM_LO_READ. -/
def State.readBar0 (s : State) (offset : Nat) : Nat :=
  if offset < 0x10000 then s.readPackage offset
  else if offset / 0x10000 ≤ s.dies then s.readDie (offset / 0x10000 - 1) (offset % 0x10000)
  else 0

/-- What a read of BAR2 returns: DEV_INDEX of the ring (10 R285). -/
def State.readBar2 (s : State) (offset : Nat) : Nat :=
  if offset < 0x300 && offset % 8 = 0 then (s.link.rings.get (offset / 8)).devIndex % 2 ^ 16 else 0

end Sys2Proof.Machine
end

