-- ==== Sys2Proof/WellFormed.lean ====
section
/-!
DEFINITION. Well-formed commands: every index below what the largest part has (00 R1, R5, R6, 10 R282), every written word 32 bits, every field of a fixed width within it. Numbers that a measurement or a signal path gives are not limited here. Meanings are total: what a smaller part lacks they leave unchanged or answer as the rules say.
-/
namespace Sys2Proof
open Machine

/-! ### Indices of the largest part (R1, R5, R6, R282) -/

def isDie (d : Nat) : Bool := decide (d < 8)
def isInput (n : Nat) : Bool := decide (n < 8)
def isConverter (k : Nat) : Bool := decide (k < 16)
def isCluster (c : Nat) : Bool := decide (c < 32)
def isLane (l : Nat) : Bool := decide (l < 256)
def isWatch (w : Nat) : Bool := decide (w < 512)
def isEngine (e : Nat) : Bool := decide (e < 32)
def isSlot (x : Nat) : Bool := decide (x < 512)
def isContext (k : Nat) : Bool := decide (k < 384)
def isFollow (f : Nat) : Bool := decide (f < 128)
def isRing (r : Nat) : Bool := decide (r < 96)
/-- The kinds of rings (R282). -/
def isCmdIx (r : Nat) : Bool := decide (r < 16)
def isCplIx (r : Nat) : Bool := decide (16 ≤ r) && decide (r < 32)
def isDlvIx (r : Nat) : Bool := decide (32 ≤ r) && decide (r < 96)
/-- A written register word has 32 bits. -/
def isWord (v : Nat) : Bool := decide (v < 2 ^ 32)
/-- A source of event blocks: a die, or 0xFF for the package (10 R293, R305). -/
def isEventSource (x : Nat) : Bool := isDie x || x == 0xFF

/-! ### Operands that name a unit -/

/-- A command comes from a command ring or the mailbox. -/
def Machine.CmdSrc.wf : CmdSrc → Bool
  | .ring r => isCmdIx r
  | .mailbox => true
def Machine.LoopId.wf : LoopId → Bool
  | .ref => true
  | .die d _ => isDie d
def Machine.Rx.wf : Rx → Bool
  | .lane l => isLane l
  | .watch w => isWatch w
/-- Input ports lie on dies 0 to 3 (00 R1). -/
def Machine.PortId.wf : PortId → Bool
  | .out d => isDie d
  | .inp d => decide (d < 4)
def Machine.SatTarget.wf : SatTarget → Bool
  | .bandTap c => isCluster c
  | .lane l stage => isLane l && decide (stage < 3)
  | .spare c stage => isCluster c && decide (stage < 3)
def Machine.StreamId.wf : StreamId → Bool
  | .lane l | .mpx l => isLane l
  | .spare c | .segment c => isCluster c
def Machine.Task.wf : Task → Bool
  | .planish d | .monitor d | .telemetry d => isDie d
  | .level n => isInput n
  | .store | .flashRefresh | .hallmark | .log => true
def Machine.SramOwner.wf : SramOwner → Bool
  | .delayLane l _ _ => isLane l
  | .delayFollow f _ _ => isFollow f
  | .engineCells e p | .engineControl e p => isEngine e && decide (p < 8)
  | .accessUnit k | .codecState k => isContext k
  | .slotAudio x _ _ | .slotMeasure x | .flitAudio x _ _ => isSlot x
  | .staging r | .flitBlock r => isDlvIx r
  | .flitSegment c _ _ => isCluster c
  | .flitControl | .controlMemory => true
/-- A register write goes to an aligned word of BAR0, or to an enable (10 R277). -/
def Machine.RegTarget.wf : RegTarget → Bool
  | .bar0 offset => decide (offset < 2 ^ 20) && offset % 4 == 0
  | .msixEnable | .relaxedOrdering | .ecrcGeneration | .ecrcCheck => true

/-! ### Commands -/

/-- The command is well formed. -/
def Instr.wf (i : Instr) : Bool :=
  match i with
  | .perstNRelease _ syncpos mbAddr _ => decide (syncpos < 16) && decide (mbAddr < 4)
  | .perstNAssert => true
  | .suppliesAbsent => true
  | .romCheckDone _ _ => true
  | .imageCheckDone => true
  | .dieLoadDone => true
  | .dieSelfTestDone d _ _ _ _ _ _ _ => isDie d
  | .bootComplete => true
  | .domainRampDone d dom => isDie d && decide (dom < 14)
  | .domainInService d dom _ _ => isDie d && decide (dom < 14)
  | .supplyTrip d dom _ => isDie d && decide (dom < 14)
  | .lockstepDisagreement d => isDie d
  | .refinLoss => true
  | .rootLossAtDie d => isDie d
  | .lossOfLock l => l.wf
  | .relockAttempt l _ => l.wf
  | .relockAttemptFailed l => l.wf
  | .refinReturn _ => true
  | .pllRelock l _ _ => l.wf
  | .refReturnTimeout => true
  | .sampDriftEval d _ => isDie d
  | .sysDriftEval d _ => isDie d
  | .coreRestored d => isDie d
  | .systimeCompare d => isDie d
  | .replicaReload d => isDie d
  | .syncEdgeArmed => true
  | .syncEdgeUnarmed => true
  | .syncLost => true
  | .ppsEdge _ => true
  | .ppsLost => true
  | .hopLock d _ _ => isDie d
  | .hopStoredBandTimeout d => isDie d
  | .hopSearchTimeout d => isDie d
  | .dividerRephase d => isDie d
  | .hopWaitTimeout d => isDie d
  | .fastCheckTrip k check => isConverter k && decide (check < 5)
  | .checkWindowEnd j _ => isInput j
  | .shadowAttributionEnd j _ _ => isInput j
  | .leaderSplice j => isInput j
  | .plannedSplice j => isInput j
  | .converterSampling k => isConverter k
  | .sliceRotationStep k => isConverter k
  | .shadowPhaseEnd k _ _ _ _ => isConverter k
  | .sliceCoeffUpdate k i _ => isConverter k && decide (i < 9)
  | .agcWindow j _ => isInput j
  | .agcLimit j _ => isInput j
  | .converterRecordLatch k _ => isConverter k
  | .pwrSumLoRead k => isConverter k
  | .clearSticky k => isConverter k
  | .feedLimitsWrite n openLimit overLimit => isInput n && decide (openLimit < 65536) && decide (overLimit < 65536)
  | .segmentLate c _ _ => isCluster c
  | .auditSubslot d _ => isDie d
  | .auditVerifyEnd d _ => isDie d
  | .auditReplacementSplice d => isDie d
  | .ncoWordLoRead c => isCluster c
  | .satStickyClear x => x.wf
  | .assayStep c => isCluster c
  | .assayStateCopy c => isCluster c
  | .assayKatEnd c _ => isCluster c
  | .coverStart c pos => isCluster c && decide (pos < 8)
  | .coverEnd c => isCluster c
  | .demodRestart r _ => r.wf
  | .combinerUpdate l _ => isLane l
  | .pilotLockChange l _ => isLane l
  | .stereoSwitch l => isLane l
  | .rdsBlock r stream _ _ => r.wf && decide (stream < 4)
  | .amssBlock l _ _ => isLane l
  | .measurementPeriodEnd l _ _ => isLane l
  | .sideDataSpanEnd r _ => r.wf
  | .watchTapPeriodEnd w _ _ => isWatch w
  | .surveyDwellEnd w _ _ => isWatch w
  | .watchTapKat w _ _ => isWatch w
  | .streamBlockFormed x _ _ _ _ _ _ => x.wf
  | .dabFrame e _ => isEngine e
  | .cifDecoded e _ => isEngine e
  | .tiiPeriodEnd e => isEngine e
  | .drmFrame e p _ => isEngine e && decide (p < 8)
  | .feedMissingTimeout e p => isEngine e && decide (p < 8)
  | .engineRecordSpanEnd e _ => isEngine e
  | .engineMeasPeriodEnd e _ _ => isEngine e
  | .crossAssayWindow d p => isDie d && decide (p < 4)
  | .crossAssayCompareEnd d _ _ => isDie d
  | .engineKatVectors d p _ => isDie d && decide (p < 4)
  | .engineDifferenceResolved d _ _ _ _ => isDie d
  | .followPeriodEnd f _ => isFollow f
  | .delayEstimate f _ => isFollow f
  | .fadeStart f => isFollow f
  | .fadeEnd f => isFollow f
  | .candidateDwellEnd f w _ => isFollow f && isWatch w
  | .verificationLapse f => isFollow f
  | .followRecord f => isFollow f
  | .accessUnitReceived k => isContext k
  | .auDue k _ => isContext k
  | .rateFollowerUpdate x => isSlot x
  | .slotResync x => isSlot x
  | .loudnessBlock x _ => isSlot x
  | .silenceWindow x _ => isSlot x
  | .classifierWindow x _ => isSlot x
  | .nonAudioMuteEnd x => isSlot x
  | .matchEstimate x _ => isSlot x
  | .slotMeasPeriodEnd x _ _ => isSlot x
  | .pcmBlockFormed r _ _ _ => isDlvIx r
  | .slotKat context i _ _ => (if context then isContext i else isSlot i)
  | .portStartTick p => p.wf
  | .portPrerollEnd p => p.wf
  | .portStopTick p => p.wf
  | .portPostrollEnd p => p.wf
  | .portFrameStart d _ _ _ _ => isDie d
  | .portFollowerUpdate p _ => p.wf
  | .portLeaveFollower p => p.wf
  | .inputFrameReceived d _ _ => isDie d
  | .inputBlockFormed d _ => isDie d
  | .amclkStop d => isDie d
  | .amclkQualified d _ => isDie d
  | .portResume p => p.wf
  | .amclkBlockRate d _ => isDie d
  | .portRateSwitch p => p.wf
  | .amclkGlitches d _ => isDie d
  | .portClearCounts p => p.wf
  | .pcieReset => true
  | .linkState _ _ _ => true
  | .receivedWriteEcrcFail bar _ => (bar == 0 || bar == 2)
  | .ringConfigWrite r offset v => isRing r && decide (offset < 32) && isWord v
  | .ringEnable r v => isRing r && isWord v
  | .ringDisable r v => isRing r && isWord v
  | .ringWritesDrained r => isRing r
  | .doorbellWrite r index => isRing r && decide (index < 65536)
  | .doorbellResume r index => isCmdIx r && decide (index < 65536)
  | .descriptorFetch r desc => isCmdIx r && desc.all (fun b => decide (b.length = 64))
  | .completionWrite q => isCplIx q
  | .blockWrite r _ _ => isDlvIx r
  | .blockHoldExpiry r => isDlvIx r
  | .interruptModTimer r => isRing r
  | .msixUnmask v => decide (v < 64)
  | .ringOverrun r => isDlvIx r
  | .eventBlock x => isEventSource x
  | .telemetryRecord d => isDie d
  | .nop src => src.wf
  | .identify src => src.wf
  | .timeSet src => src.wf
  | .realign src => src.wf
  | .stageLane src => src.wf
  | .stageCluster src _ => src.wf
  | .stageEngine src => src.wf
  | .stageSlot src => src.wf
  | .stagePort src => src.wf
  | .stageFollow src _ => src.wf
  | .stageBank src _ => src.wf
  | .stagePlan src _ => src.wf
  | .stageCopy src => src.wf
  | .discardStage src => src.wf
  | .commit src => src.wf
  | .pendingSetReceived d _ => isDie d
  | .commitAckDeadline => true
  | .configSwap _ => true
  | .portStart src => src.wf
  | .portStop src => src.wf
  | .captureStart src => src.wf
  | .captureStartTick r => isDlvIx r
  | .captureStop src => src.wf
  | .calStart src => src.wf
  | .calQuery src => src.wf
  | .calStore src => src.wf
  | .calStoreWriteDone _ => true
  | .autoStore => true
  | .syscalStep src _ => src.wf
  | .levelStepStart n => isInput n
  | .levelPhaseEnd n _ => isInput n
  | .levelStepEval n => isInput n
  | .standbyDUpdate j => isInput j
  | .calinSuspectHoldEnd => true
  | .monitorBackgroundCal d _ _ _ _ => isDie d
  | .monInject src => src.wf
  | .monRead src => src.wf
  | .monConversionEnd d _ => isDie d
  | .monPassStart d => isDie d
  | .monInjectionEnd d _ => isDie d
  | .monSecondLatch => true
  | .monApply d => isDie d
  | .monClear d => isDie d
  | .monRunSet d => isDie d
  | .monRunClear d => isDie d
  | .sumLoRead d i => isDie d && decide (i < 16)
  | .faultQuery src => src.wf
  | .faultClear src => src.wf
  | .unitRetire src => src.wf
  | .unitRestore src _ => src.wf
  | .modeSet src => src.wf
  | .receptionEntryTick => true
  | .receptionExitTick => true
  | .attest src => src.wf
  | .hallmarkConfig src => src.wf
  | .keyInfo src => src.wf
  | .updateBegin src => src.wf
  | .updateChunk src _ _ => src.wf
  | .updateFinish src => src.wf
  | .logRead src => src.wf
  | .sramSingleBitError d array _ _ => isDie d && decide (array < 112)
  | .sramUncorrectable d _ o => isDie d && o.wf
  | .planishPassStart d => isDie d
  | .planishPassComplete d => isDie d
  | .backgroundTaskAgeing t _ => t.wf
  | .flashRefresh _ => true
  | .flitCrcError d dir _ _ _ => isDie d && decide (dir < 2)
  | .linkProbe d dir _ => isDie d && decide (dir < 2)
  | .linkRestored d dir => isDie d && decide (dir < 2)
  | .lastingRuleWrite i v => decide (i < 7) && isWord v
  | .faultLogWrite _ => true
  | .logSuppressed _ => true
  | .antiRollbackRaise => true
  | .hallmarkIntervalEnd => true
  | .hallmarkKeyRotation => true
  | .debugChallengeRead level => decide (level < 256)
  | .debugResponseWrite r => decide (r.length = 64)
  | .mbWriteTransaction addr _ => decide (addr < 128)
  | .mbReadTransaction addr hdr _ _ _ => decide (addr < 128) && decide (hdr.length = 3)
  | .mbWake _ => true
  | .mbSleepClockStop => true
  | .mbTargetTimeout _ _ _ => true
  | .mbControllerGo w _ _ => w.all isWord
  | .mbArbitrationLost _ => true
  | .mbControllerDone _ _ _ => true
  | .mbControllerTimeout => true
  | .mbTimingWrite v => isWord v
  | .mbErrorsReport => true
  | .mboxGo => true
  | .mboxComplete => true
  | .alertLatchedClear => true
  | .wakeLatchedClear => true
  | .sleepClockStop => true
  | .sleepWakeAccess => true
  | .clkCtrlWrite v => isWord v
  | .systimeLoRead => true
  | .registerWrite t v => t.wf && isWord v
  | .rootReturnAtDie d _ => isDie d
  | .linkReceiverLockLoss d dir => isDie d && decide (dir < 2)
  | .hostLinkFault => true
  | .firstDifferingValue c _ => isCluster c
  | .auditCompareMismatch d => isDie d

end Sys2Proof
end

