-- ==== Sys2Proof/Safety.lean ====
section
/-!
DEFINITION. What claims say of a state and of two states: completion, what a command leaves alone, and the ranges that registers keep because a write outside them is ignored.
-/
namespace Sys2Proof.Machine

/-- A command completes on a state: it gives a next state, no fault and no refusal. -/
def Completes (c : Instr) (s : State) : Prop := ∃ t, exec c s = .next t

/-! ### What a command leaves alone -/

/-- What OTP holds after `w` follows what it held as `v`: serial, identity and vendor key as they were, an owner key enrolled once, bits of the anti-rollback counter only ever set (15 R394, R401). -/
def OtpKept (v w : NvSec) : Prop :=
  w.serial = v.serial ∧ w.vendorHash = v.vendorHash ∧ w.identityPub = v.identityPub
  ∧ (∀ h, v.ownerHash = some h → w.ownerHash = some h) ∧ v.rollbackBits &&& w.rollbackBits = v.rollbackBits

/-- The parts of the state that a frame names: each field, and within some fields what fewer commands change. -/
inductive Aspect where
  | part | pins | time | ref | clk | spans | front | taps | lanes | ofdm | audio | ports | link | cfg | cal | mon | integ | mode | domains | mb | sec | nv | freeCount | pending
  /-- SYSTIME -/
  | systime
  /-- the spread fields of CLK_CTRL (02 R48) -/
  | spread
  /-- LEVEL_INTERVAL (12) -/
  | levelInterval
  /-- the timing word of the management bus (16 R431) -/
  | busTiming
  /-- what OTP holds: no bit of it goes back (15 R394) -/
  | otp
  /-- the retirement record loses no unit (14 R381) -/
  | retirement
  /-- no fenced die returns (01 R36) -/
  | fences
  /-- the active set as it was committed (11 R320) -/
  | committed
  /-- the shadow set (11 R320) -/
  | shadow
  /-- the lasting rules (14 R379) -/
  | rules
  /-- the debug level (15 R413) -/
  | debugLevel
  /-- the mode code (17 R437) -/
  | modeCode
  /-- the firmware slots and the boot record (15 R395) -/
  | firmware
  /-- the events of the span in progress: none is lost (10 R306) -/
  | events
  deriving DecidableEq, Repr

/-- The part of the state named is the same before and after, or went the one way it may go. -/
def Aspect.kept (s t : State) : Aspect → Prop
  | .part => t.part = s.part
  | .pins => t.pins = s.pins
  | .time => t.time = s.time
  | .ref => t.ref = s.ref
  | .clk => t.clk = s.clk
  | .spans => t.spans = s.spans
  | .front => t.front = s.front
  | .taps => t.taps = s.taps
  | .lanes => t.lanes = s.lanes
  | .ofdm => t.ofdm = s.ofdm
  | .audio => t.audio = s.audio
  | .ports => t.ports = s.ports
  | .link => t.link = s.link
  | .cfg => t.cfg = s.cfg
  | .cal => t.cal = s.cal
  | .mon => t.mon = s.mon
  | .integ => t.integ = s.integ
  | .mode => t.mode = s.mode
  | .domains => t.domains = s.domains
  | .mb => t.mb = s.mb
  | .sec => t.sec = s.sec
  | .nv => t.nv = s.nv
  | .freeCount => t.freeCount = s.freeCount
  | .pending => t.pending = s.pending
  | .systime => t.time.systime = s.time.systime
  | .spread => t.time.spreadMode = s.time.spreadMode ∧ t.time.spreadDepth = s.time.spreadDepth
  | .levelInterval => t.cal.levelInterval = s.cal.levelInterval
  | .busTiming => t.mb.sclLowT = s.mb.sclLowT ∧ t.mb.sclHighT = s.mb.sclHighT ∧ t.mb.sdaHold = s.mb.sdaHold ∧ t.mb.glitch = s.mb.glitch
  | .otp => OtpKept s.nv.sec t.nv.sec
  | .retirement => ∀ u, s.nv.retired.contains u = true → t.nv.retired.contains u = true
  | .fences => ∀ d, s.integ.fenced.contains d = true → t.integ.fenced.contains d = true
  | .committed => t.cfg.committed = s.cfg.committed
  | .shadow => t.cfg.shadow = s.cfg.shadow
  | .rules => t.integ.rules = s.integ.rules
  | .debugLevel => t.sec.debugLevel = s.sec.debugLevel
  | .modeCode => t.mode.mode = s.mode.mode
  | .firmware => t.nv.sec.slotA = s.nv.sec.slotA ∧ t.nv.sec.slotB = s.nv.sec.slotB ∧ t.nv.sec.bootSeq = s.nv.sec.bootSeq
  | .events => s.link.events <+: t.link.events

/-- The state `t` differs from `s` in the parts named only: the frame of a command. -/
def Only (as : List Aspect) (s t : State) : Prop := ∀ a, as.contains a = false → a.kept s t

/-- Between `s` and `t` the event is raised, at the SYSTIME of `s`: it is among the events that `t` has beyond those of `s`. -/
def Raises (s t : State) (n : EvName) (origin : Nat) (args : List EvArg) : Prop :=
  ∃ l q, t.link.events = s.link.events ++ l ∧ (⟨n, origin, q, s.now, args⟩ : Ev) ∈ l

/-! ### After a reset -/

/-- Every unit, its configuration and its power domains are as after a reset (17 R437, R447). -/
def State.unitsReset (t : State) : Prop :=
  t.clk = Tbl.empty {} ∧ t.front = {} ∧ t.taps = {} ∧ t.lanes = {} ∧ t.ofdm = {} ∧ t.audio = {} ∧ t.ports = {} ∧ t.cfg = {} ∧ t.cal = {} ∧ t.mon = {}
  ∧ t.domains = Tbl.empty {} ∧ t.mb = {}

/-! ### Commands and their answers -/

/-- The command at the front of its queue is `c`, and none of the checks of 11 R317 to R319 and R329 refuses it. -/
def State.begins (s : State) (c : Cmd) (src : CmdSrc) (f : Fetched) (buf : Option (List Byte)) : Prop :=
  s.ready src = some f ∧ Cmd.ofOpcode (field f.desc 0 0 8) = some c ∧ s.refuse c src f buf = none

/-- The command at the front of its queue is `c`, and it is refused with this status and this RESULT. -/
def State.turnsAway (s : State) (c : Cmd) (src : CmdSrc) (f : Fetched) (buf : Option (List Byte)) (st : Status) (result : Nat) : Prop :=
  s.ready src = some f ∧ Cmd.ofOpcode (field f.desc 0 0 8) = some c ∧ s.refuse c src f buf = some (st, result)

/-- The completion of the command (10 R290; 16 for the mailbox). -/
def Fetched.answer (f : Fetched) (src : CmdSrc) (st : Status) (result : Nat) : Cpl :=
  ⟨field f.desc 2 0 16, (match src with | .ring r => r | .mailbox => 0), field f.desc 0 0 8, st, f.index, result % 2 ^ 48⟩

/-- Between `s` and `t` the command is answered: its completion follows the output `before` on its completion ring, or is held there behind those that wait while the ring takes none; a mailbox command's completion is what MBOX_CPL will read (10 R288, R290). -/
def Answered (s t : State) (src : CmdSrc) (f : Fetched) (st : Status) (result : Nat) (before : List Sent) : Prop :=
  match src with
  | .ring r =>
    let q := 16 + (s.link.rings.get r).cq
    let g := s.link.rings.get q
    if g.enable && !g.err && g.held.isEmpty && !g.cqFull then s.link.sent ++ before ++ [.completion q g.devIndex g.phase (f.answer src st result)] <+: t.link.sent
    else g.held ++ [f.answer src st result] <+: (t.link.rings.get q).held ∧ s.link.sent ++ before <+: t.link.sent
  | .mailbox => t.mb.mboxDue = some ((f.answer src st result).bytes true)

/-- Between `s` and `t` an output command is answered: as much of its record as the buffer takes is written before the completion, on a ring into the host's buffer, else into MBOX_OUT, and RESULT is its length and CRC (10 R288, 11 R329, 16 R421). -/
def Outputs (s t : State) (src : CmdSrc) (f : Fetched) (bytes : List Byte) : Prop :=
  let out := bytes.take (bufLen f.desc)
  Answered s t src f .ok (outputResult out) (match src with | .ring _ => [.buffer (bufAddr f.desc) out] | .mailbox => [])
  ∧ (src = .mailbox → out <+: t.mb.mboxOut)

/-- In `t` the command has begun and waits for `w`: no further command of its ring begins (10 R287). -/
def Waits (t : State) (src : CmdSrc) (f : Fetched) (w : Wait) : Prop :=
  match src with
  | .ring r => (t.link.rings.get r).executing = some ⟨f.desc, f.index, w⟩
  | .mailbox => t.mb.executing = some ⟨f.desc, f.index, w⟩ ∧ t.mb.mboxPhase = .busy

/-- The commands of the opcode table of 11 R329: which command a constructor runs, from which queue, with which input buffer. -/
def commandOf : Instr → Option (Cmd × CmdSrc × Option (List Byte))
  | .nop src => some (.nop, src, none)
  | .identify src => some (.identify, src, none)
  | .timeSet src => some (.timeSet, src, none)
  | .realign src => some (.realign, src, none)
  | .stageLane src => some (.stageLane, src, none)
  | .stageCluster src buf => some (.stageCluster, src, buf)
  | .stageEngine src => some (.stageEngine, src, none)
  | .stageSlot src => some (.stageSlot, src, none)
  | .stagePort src => some (.stagePort, src, none)
  | .stageFollow src buf => some (.stageFollow, src, buf)
  | .stageBank src buf => some (.stageBank, src, buf)
  | .stagePlan src buf => some (.stagePlan, src, buf)
  | .stageCopy src => some (.stageCopy, src, none)
  | .commit src => some (.commit, src, none)
  | .discardStage src => some (.discardStage, src, none)
  | .portStart src => some (.portStart, src, none)
  | .portStop src => some (.portStop, src, none)
  | .captureStart src => some (.captureStart, src, none)
  | .captureStop src => some (.captureStop, src, none)
  | .calStart src => some (.calStart, src, none)
  | .calQuery src => some (.calQuery, src, none)
  | .calStore src => some (.calStore, src, none)
  | .syscalStep src _ => some (.syscalStep, src, none)
  | .monInject src => some (.monInject, src, none)
  | .monRead src => some (.monRead, src, none)
  | .faultQuery src => some (.faultQuery, src, none)
  | .faultClear src => some (.faultClear, src, none)
  | .unitRetire src => some (.unitRetire, src, none)
  | .unitRestore src _ => some (.unitRestore, src, none)
  | .modeSet src => some (.modeSet, src, none)
  | .attest src => some (.attest, src, none)
  | .hallmarkConfig src => some (.hallmarkConfig, src, none)
  | .keyInfo src => some (.keyInfo, src, none)
  | .updateBegin src => some (.updateBegin, src, none)
  | .updateChunk src buf _ => some (.updateChunk, src, buf)
  | .updateFinish src => some (.updateFinish, src, none)
  | .logRead src => some (.logRead, src, none)
  | _ => none

/-! ### Ranges -/

/-- The timing word of the management bus lies in its ranges (16 R431). -/
def MbSt.timingLegal (m : MbSt) : Bool :=
  decide (50 ≤ m.sclLowT) && decide (m.sclLowT ≤ 1000) && decide (26 ≤ m.sclHighT) && decide (m.sclHighT ≤ 1000)
  && decide (m.sdaHold ≤ 100) && decide (m.glitch ≤ 31) && decide (m.sdaHold + m.glitch < m.sclLowT)

/-- Registers whose writes outside a range are ignored hold values within it: the spread fields (02 R48), LEVEL_INTERVAL (12), the timing word (16 R431); the straps fit their fields (17 R447, 02 R50, 16 R415). -/
def State.legal (s : State) : Bool :=
  spreadOk s.time.spreadMode s.time.spreadDepth
  && decide (1 ≤ s.cal.levelInterval) && decide (s.cal.levelInterval ≤ 1440)
  && s.mb.timingLegal
  && decide (s.pins.syncpos < 16) && decide (s.pins.mbAddr < 4)

end Sys2Proof.Machine
end

