-- ==== Sys2Proof/Certificates/Slice0/Obligations.lean ====
section
/-! DEFINITION. The statements: what the rules of the manual say of the commands, their effects and the machine. -/

open Sys2Proof Sys2Proof.Machine

/-! ### The whole machine -/

/-- A step runs the command at the front of the queue on the state with the queue's rest. -/
def Obligations.StepRunsFront : Prop :=
  ∀ (c : Instr) (rest : List Instr) (s : State), s.pending = c :: rest → step s = exec c { s with pending := rest }

/-- With nothing waiting, a step is one root count (notes/assumptions/7.md): SYSTIME and the replica of every populated die that has the root count on by one, but for OFF, where nothing moves; nothing else of the state changes (02 R42, R56). -/
def Obligations.IdleStepCounts : Prop :=
  ∀ s : State, s.pending = [] →
    ∃ t, step s = .next t ∧ Only [.time, .clk, .systime] s t
      ∧ (s.mode.mode = .off → t = s)
      ∧ (s.mode.mode ≠ .off →
          t.time = { s.time with systime := s.time.systime + 1 }
          ∧ ∀ d, t.clk.get d = if d < s.dies ∧ (s.clk.get d).rootPresent = true then { s.clk.get d with replica := (s.clk.get d).replica + 1 } else s.clk.get d)

/-- Every command answers a next state on every state: no meaning faults or refuses (an event that cannot occur changes nothing: notes/assumptions/3.md); and none touches the queue or the part. -/
def Obligations.EveryCommandCompletes : Prop :=
  ∀ (c : Instr) (s : State), ∃ t, exec c s = .next t ∧ t.pending = s.pending ∧ t.part = s.part

/-- Registers whose writes outside a range are ignored hold values within it at reset. -/
def Obligations.LegalAtReset : Prop := State.reset.legal = true

/-- Registers whose writes outside a range are ignored stay within it over every step: the spread fields of CLK_CTRL (02 R48), LEVEL_INTERVAL (12), the timing word of the management bus (16 R431), the straps (17 R447). -/
def Obligations.LegalKept : Prop := ∀ s t : State, s.legal = true → step s = .next t → t.legal = true

/-- OTP bits are only ever set: over every step the serial, the identity key and the vendor key hash stay, an owner key hash once written stays, and no bit of the anti-rollback counter is cleared (15 R394). -/
def Obligations.OtpOnlySet : Prop := ∀ s t : State, step s = .next t → OtpKept s.nv.sec t.nv.sec

/-- A unit in the retirement record stays there over every command but UNIT_RESTORE and the events in which a UNIT_RESTORE that waits ends its check (14 R381; which events those are follows 05 R163, 06 R194, 03 R91 and R474). -/
def Obligations.RetirementKept : Prop :=
  ∀ (c : Instr) (s t : State) (u : UnitRef), exec c s = .next t → s.retired u = true →
    (match c with
     | .unitRestore .. | .assayStep .. | .assayKatEnd .. | .coverStart .. | .levelStepStart .. | .crossAssayCompareEnd .. | .engineKatVectors ..
     | .sliceRotationStep .. | .shadowPhaseEnd .. | .fastCheckTrip .. => True
     | _ => t.retired u = true)

/-- SYSTIME changes only at an armed SYNC edge, at a reset, and as it counts on (02 R42, R50). -/
def Obligations.SystimeMovers : Prop :=
  ∀ (c : Instr) (s t : State), exec c s = .next t →
    (match c with
     | .syncEdgeArmed | .perstNRelease .. | .perstNAssert | .suppliesAbsent => True
     | _ => t.time.systime = s.time.systime)

/-- A fenced die stays fenced until the next reset of the part (01 R33, R36). -/
def Obligations.FencesKept : Prop :=
  ∀ (c : Instr) (s t : State) (d : Nat), exec c s = .next t → s.integ.fenced.contains d = true →
    (match c with
     | .perstNRelease .. | .perstNAssert | .suppliesAbsent => True
     | _ => t.integ.fenced.contains d = true)

/-- The committed configuration changes only at a swap and at a reset; the lasting rules only by a write of them and at a reset; the debug level only by a debug response and at a reset (11 R320, R325, 14 R379, 15 R413). -/
def Obligations.ConfigurationMovers : Prop :=
  ∀ (c : Instr) (s t : State), exec c s = .next t →
    (match c with
     | .perstNRelease .. | .perstNAssert | .suppliesAbsent => True
     | .configSwap .. => t.integ.rules = s.integ.rules ∧ t.sec.debugLevel = s.sec.debugLevel
     | .lastingRuleWrite .. => t.cfg.committed = s.cfg.committed ∧ t.sec.debugLevel = s.sec.debugLevel
     | .debugResponseWrite .. => t.cfg.committed = s.cfg.committed ∧ t.integ.rules = s.integ.rules
     | _ => t.cfg.committed = s.cfg.committed ∧ t.integ.rules = s.integ.rules ∧ t.sec.debugLevel = s.sec.debugLevel)

/-! ### Power, reset and boot (17) -/

/-- PERST_N low from any mode, and the loss of the supplies, lead to OFF: what flash and OTP hold and what has been sent stay, nothing else does; every unit, register and queue is as after a reset, and SYNC is not armed. The release of PERST_N in OFF enters BOOT, latches the straps, counts BOOT_NUM on and leaves every unit, the configuration, the mode and the time as after reset; with REFIN present the reference PLL begins to lock, with it absent it coasts and REF_LOST is raised (17 R437, R447, R448, R450). -/
def Obligations.ResetAndPower : Prop :=
  (∀ s : State, s.pins.perstHigh = true →
    ∃ t, exec .perstNAssert s = .next t ∧ t.mode = { mode := .off } ∧ t.pins = { perstHigh := false, suppliesPresent := s.pins.suppliesPresent }
      ∧ t.nv = s.nv ∧ t.part = s.part ∧ t.link = { sent := s.link.sent } ∧ t.unitsReset ∧ t.ref = {} ∧ t.time = { armed := .none, syncLost := true } ∧ t.integ = {} ∧ t.sec = {})
  ∧ (∀ s : State, s.pins.suppliesPresent = true →
    ∃ t, exec .suppliesAbsent s = .next t ∧ t.mode = { mode := .off } ∧ t.pins = { perstHigh := s.pins.perstHigh, suppliesPresent := false }
      ∧ t.nv = s.nv ∧ t.part = s.part ∧ t.link = { sent := s.link.sent } ∧ t.unitsReset ∧ t.ref = {} ∧ t.time = { armed := .none, syncLost := true } ∧ t.integ = {} ∧ t.sec = {})
  ∧ (∀ (s : State) (refsel refin : Bool) (syncpos mbAddr : Nat), s.mode.mode = .off → s.pins.perstHigh = false →
    ∃ t, exec (.perstNRelease refsel syncpos mbAddr refin) s = .next t
      ∧ t.pins = { refsel := refsel, syncpos := syncpos % 16, mbAddr := mbAddr % 4 } ∧ t.nv = { s.nv with bootNum := s.nv.bootNum + 1 } ∧ t.part = s.part
      ∧ t.mode = {} ∧ t.mode.mode = .boot ∧ t.time = {} ∧ t.unitsReset ∧ t.link.sent = s.link.sent ∧ t.link.rings = ({} : LinkSt).rings
      ∧ (refin = true → t.ref = { present := true, attempt := some 0 } ∧ t.spans = State.reset.spans ∧ t.link = { sent := s.link.sent } ∧ t.integ = {} ∧ t.sec = {})
      ∧ (refin = false → t.ref.present = false ∧ t.ref.coasting = true ∧ ∃ q ∈ t.link.events, q.name = .refLost))

/-- The boot ROM runs in stages: a ROM or OTP that fails its check halts the part, else a slot is tried, the other one at once where the preferred one has failed to boot twice; an accepted image has its failed boot counted before it runs, a refused one sends the ROM to the other slot, and two refused ones to RECOVERY; then the other dies are loaded, each die is tested, and the last test ends in BOOT_PHASE 4; boot ends in IDLE with BOOT_PHASE 5 and the failed boots of the running slot forgotten (15 R397, 17 R448, R449). -/
def Obligations.BootStages : Prop :=
  (∀ s : State, s.mode.mode = .boot → s.sec.stage = .check →
    (∃ t, exec (.romCheckDone true true) s = .next t ∧ Only [.clk, .spans, .mon, .domains, .sec, .mode] s t
      ∧ t.sec.stage = .image ∧ t.mode.bootPhase = 1 ∧ t.mode.mode = .boot
      ∧ t.sec.tryingB = (if 2 ≤ s.nv.sec.fails s.nv.sec.preferB then !s.nv.sec.preferB else s.nv.sec.preferB))
    ∧ ∀ romOk otpOk, (romOk && otpOk) = false → ∃ t, exec (.romCheckDone romOk otpOk) s = .next t ∧ t.mode.mode = .halted)
  ∧ (∀ s : State, s.mode.mode = .boot → s.sec.stage = .image →
    ((s.nv.sec.slot s.sec.tryingB).valid = true → s.imageBoots (s.nv.sec.slot s.sec.tryingB).image = true →
      ∃ t, exec .imageCheckDone s = .next t ∧ Only [.sec, .nv, .mode] s t
        ∧ t.sec.stage = .load ∧ t.sec.runningB = s.sec.tryingB ∧ t.mode.bootPhase = 2 ∧ t.mode.mode = .boot
        ∧ t.nv.sec.fails s.sec.tryingB = s.nv.sec.fails s.sec.tryingB + 1 ∧ t.nv.sec.fails (!s.sec.tryingB) = s.nv.sec.fails (!s.sec.tryingB))
    ∧ ((s.nv.sec.slot s.sec.tryingB).valid = false → s.sec.triedOther = false →
      ∃ t, exec .imageCheckDone s = .next t ∧ Only [.sec] s t ∧ t.sec.stage = .image ∧ t.sec.tryingB = !s.sec.tryingB ∧ t.sec.triedOther = true)
    ∧ ((s.nv.sec.slot s.sec.tryingB).valid = false → s.sec.triedOther = true →
      ∃ t, exec .imageCheckDone s = .next t ∧ t.mode.mode = .recovery ∧ t.nv = s.nv))
  ∧ (∀ s : State, s.mode.mode = .boot → s.sec.stage = .load →
    ∃ t, exec .dieLoadDone s = .next t ∧ Only [.clk, .spans, .mon, .domains, .sec, .mode] s t ∧ t.sec.stage = .test ∧ t.mode.bootPhase = 3 ∧ t.mode.mode = .boot)
  ∧ (∀ (s : State) (d : Nat) (temp : Int) (bands : List Nat), s.mode.mode = .boot → s.sec.stage = .test → d < s.dies → (s.clk.get d).band0 = none →
    ∃ t, exec (.dieSelfTestDone d true true true true true temp bands) s = .next t ∧ Only [.clk, .spans, .mode, .domains] s t ∧ maskBit (t.domains.get d).on 2 = false
      ∧ (t.clk.get d).band0 = some ⟨bands.getD 0 0, temp⟩ ∧ (t.clk.get d).band1 = some ⟨bands.getD 1 0, temp⟩
      ∧ (t.clk.get d).band2 = some ⟨bands.getD 2 0, temp⟩ ∧ (∀ e, e ≠ d → t.clk.get e = s.clk.get e)
      ∧ ((∀ e < s.dies, e ≠ d → (s.clk.get e).band0.isSome = true) → t.mode.bootPhase = 4))
  ∧ (∀ s : State, s.mode.mode = .boot → s.sec.stage = .test → (∀ d < s.dies, (s.clk.get d).band0.isSome = true) →
    (∀ d < s.dies, s.cutOff d = false) →
    ∃ t, exec .bootComplete s = .next t ∧ t.mode.mode = .idle ∧ t.mode.bootPhase = 5 ∧ t.sec.stage = .done ∧ t.sec.bootedAt = s.now
      ∧ t.nv.sec.fails s.sec.runningB = 0 ∧ t.nv.sec.updating = none ∧ t.time = s.time)

/-- A power domain that is on has its comparators armed when its ramp ends, and is in service when its SRAM is cleared; a supply out of range in an armed domain of a die fences a die but die 0 and halts the part for die 0, and so does a lockstep disagreement (17 R435, 01 R33, R34, 14 R378). -/
def Obligations.DomainsAndFences : Prop :=
  (∀ (s : State) (d dom : Nat), d < s.dies → dom < 14 → maskBit (s.domains.get d).on dom = true → maskBit (s.domains.get d).armed dom = false →
    (s.domains.get d).onAt.getD dom 0 ≤ s.now →
    ∃ t, exec (.domainRampDone d dom) s = .next t ∧ Only [.domains] s t
      ∧ t.domains.get d = { s.domains.get d with armed := (s.domains.get d).armed ||| 2 ^ dom } ∧ ∀ e, e ≠ d → t.domains.get e = s.domains.get e)
  ∧ (∀ (s : State) (d dom band : Nat) (temp : Int), d < s.dies → dom < 14 → maskBit (s.domains.get d).armed dom = true → maskBit (s.domains.get d).ready dom = false →
    ∃ t, exec (.domainInService d dom temp band) s = .next t ∧ Only [.clk, .spans, .mon, .domains] s t
      ∧ t.domains.get d = { s.domains.get d with ready := (s.domains.get d).ready ||| 2 ^ dom } ∧ (∀ e, e ≠ d → t.domains.get e = s.domains.get e)
      ∧ (dom ≠ 0 → dom ≠ 2 → dom ≠ 13 → t.clk = s.clk ∧ t.mon = s.mon ∧ t.spans = s.spans))
  ∧ (∀ (s : State) (d dom : Nat) (tooHigh : Bool), d < s.dies → dom < 14 → maskBit (s.domains.get d).armed dom = true →
    ∃ t, exec (.supplyTrip d dom tooHigh) s = .next t ∧ Raises s t .supplyTrip d [.w d, .w dom, .w (b2n tooHigh)]
      ∧ (d ≠ 0 → t.integ.fenced.contains d = true) ∧ (d = 0 → t.mode.mode = .halted) ∧ t.time = s.time ∧ t.ref = s.ref)
  ∧ (∀ (s : State) (d : Nat), s.dieUp d = true → maskBit (s.domains.get d).ready 0 = true → s.mode.mode ≠ .halted →
    ∃ t, exec (.lockstepDisagreement d) s = .next t
      ∧ (d ≠ 0 → t.integ.fenced.contains d = true ∧ Raises s t .lockstepFault d [.w d, .q s.now] ∧ t.ref = s.ref ∧ t.time = s.time ∧ t.nv = s.nv)
      ∧ (d = 0 → t.mode.mode = .halted ∧ t.integ.haltCause = 1 ∧ t.ref = s.ref ∧ t.time = s.time))

/-! ### Clocks and time (02) -/

/-- The reference: its loss puts the reference PLL on its hold DAC, opens the CLOCK_SUSPECT span of the package and raises REF_LOST; its return sets the phase build-out, starts the attempt and is remembered until it is reported; a root lost at one die puts all its synthesizers on their hold DACs and its return sets the build-out of those that coast and are not held; without a PPS edge within 1.5 s of the relock REF_RETURN is raised for each return that waits so long, without a PPS difference (02 R56, R57, R64, R65). -/
def Obligations.ReferenceLossAndReturn : Prop :=
  (∀ s : State, s.ref.present = true →
    ∃ t, exec .refinLoss s = .next t ∧ Only [.ref, .spans, .link, .integ, .mode, .sec, .modeCode] s t
      ∧ t.ref = { s.ref with present := false, locked := false, coasting := true, coastAt := s.now, attempt := none }
      ∧ (∃ x ∈ t.spans, x.scope = some .refCoast ∧ x.stop = none)
      ∧ Raises s t .refLost pkg [.q s.now])
  ∧ (∀ (s : State) (phase : Int), s.ref.present = false → s.mode.mode ≠ .off →
    ∃ t, exec (.refinReturn phase) s = .next t ∧ Only [.ref] s t
      ∧ t.ref = { s.ref with present := true, attempt := some s.now, buildOut := wrapPs s.refPs phase, returned := s.ref.returned ++ [wrapPs s.refPs phase] })
  ∧ (∀ (s : State) (d : Nat), d < s.dies → (s.clk.get d).rootPresent = true →
    ∃ t, exec (.rootLossAtDie d) s = .next t ∧ Only [.clk, .spans, .front, .taps, .lanes, .ports, .link, .cal, .integ, .mode, .mb, .sec, .modeCode] s t
      ∧ (t.clk.get d).rootPresent = false
      ∧ (∀ l, ((t.clk.get d).loop l).coasting = true ∧ ((t.clk.get d).loop l).locked = false ∧ ((t.clk.get d).loop l).coastAt = s.now)
      ∧ ∀ e, e ≠ d → t.clk.get e = s.clk.get e)
  ∧ (∀ (s : State) (d : Nat) (phases : List Int), d < s.dies → (s.clk.get d).rootPresent = false →
    ∃ t, exec (.rootReturnAtDie d phases) s = .next t ∧ Only [.clk] s t
      ∧ (t.clk.get d).rootPresent = true
      ∧ (∀ l, (t.clk.get d).loop l = if ((s.clk.get d).loop l).coasting = true ∧ ((s.clk.get d).loop l).held = false
          then { (s.clk.get d).loop l with attempt := some s.now, buildOut := wrapPs l.pfdPs (phases.getD l.code 0) } else (s.clk.get d).loop l)
      ∧ ∀ e, e ≠ d → t.clk.get e = s.clk.get e)
  ∧ (∀ s : State, (∃ x ∈ s.ref.ppsWait, x.1 + 150000000 ≤ s.now) →
    ∃ t, exec .refReturnTimeout s = .next t ∧ Only [.ref, .link, .integ, .sec] s t
      ∧ t.ref = { s.ref with ppsWait := s.ref.ppsWait.filter fun x => decide (s.now < x.1 + 150000000) }
      ∧ ∀ x ∈ s.ref.ppsWait, x.1 + 150000000 ≤ s.now → Raises s t .refReturn pkg [.w x.2, .w (2 ^ 31)])

/-- The loops: a lock detector that trips puts its loop on the hold DAC (a die loop also raises PLL_UNLOCK); 100 µs later it tries to relock with the phase measured as its build-out; an attempt that has not locked in 10 ms lets the loop coast again; one that locks ends the coast; a die loop then reports its build-out and keeps its band with the temperature, the reference reports each return at once where PPS is disabled, else leaves it to the next PPS edge (02 R44, R56, R57, R64, R65, R472). -/
def Obligations.LoopLock : Prop :=
  (∀ s : State, s.ref.locked = true → s.ref.coasting = false →
    ∃ t, exec (.lossOfLock .ref) s = .next t ∧ Only [.ref, .spans, .link, .integ, .mode, .sec, .modeCode] s t
      ∧ t.ref = { s.ref with locked := false, coasting := true, coastAt := s.now, attempt := none })
  ∧ (∀ (s : State) (d : Nat) (l : DieLoop), d < s.dies → ((s.clk.get d).loop l).locked = true → ((s.clk.get d).loop l).coasting = false →
    (l = .samp → (s.clk.get d).hop.masked = false) →
    ∃ t, exec (.lossOfLock (.die d l)) s = .next t ∧ Only [.clk, .spans, .front, .taps, .lanes, .ports, .link, .cal, .integ, .mode, .mb, .sec, .modeCode] s t
      ∧ ((t.clk.get d).loop l).locked = false ∧ ((t.clk.get d).loop l).coasting = true ∧ ((t.clk.get d).loop l).coastAt = s.now
      ∧ Raises s t .pllUnlock d [.w d, .w l.code, .q s.now] ∧ ∀ e, e ≠ d → t.clk.get e = s.clk.get e)
  ∧ (∀ (s : State) (phase : Int), s.ref.locked = false → s.ref.present = true → s.ref.attempt = none → s.ref.coastAt + 10000 ≤ s.now →
    ∃ t, exec (.relockAttempt .ref phase) s = .next t ∧ Only [.ref] s t
      ∧ t.ref = { s.ref with attempt := some s.now, buildOut := wrapPs s.refPs phase })
  ∧ (∀ (s : State) (d : Nat) (l : DieLoop) (phase : Int), d < s.dies → ((s.clk.get d).loop l).coasting = true → ((s.clk.get d).loop l).held = false →
    (s.clk.get d).rootPresent = true → ((s.clk.get d).loop l).attempt = none → ((s.clk.get d).loop l).coastAt + 10000 ≤ s.now →
    ∃ t, exec (.relockAttempt (.die d l) phase) s = .next t ∧ Only [.clk] s t
      ∧ (t.clk.get d).loop l = { (s.clk.get d).loop l with attempt := some s.now, buildOut := wrapPs l.pfdPs phase }
      ∧ ∀ e, e ≠ d → t.clk.get e = s.clk.get e)
  ∧ (∀ (s : State) (a : Nat), s.ref.attempt = some a → a + 1000000 ≤ s.now →
    ∃ t, exec (.relockAttemptFailed .ref) s = .next t ∧ Only [.ref, .spans, .link, .integ, .mode, .sec, .modeCode] s t
      ∧ t.ref = { s.ref with locked := false, coasting := true, attempt := none, coastAt := s.now })
  ∧ (∀ (s : State) (d : Nat) (l : DieLoop) (a : Nat), d < s.dies → ((s.clk.get d).loop l).attempt = some a → a + 1000000 ≤ s.now →
    ∃ t, exec (.relockAttemptFailed (.die d l)) s = .next t
      ∧ Only [.clk, .spans, .front, .taps, .link, .cfg, .cal, .integ, .mode, .domains, .mb, .sec, .modeCode] s t
      ∧ ((t.clk.get d).loop l).attempt = none ∧ ((t.clk.get d).loop l).coastAt = s.now
      ∧ Raises s t .pllUnlock d [.w d, .w l.code, .q s.now] ∧ ∀ e, e ≠ d → t.clk.get e = s.clk.get e)
  ∧ (∀ (s : State) (temp : Int) (band : Nat), s.ref.present = true → s.ref.attempt.isSome = true →
    ∃ t, exec (.pllRelock .ref temp band) s = .next t ∧ Only [.ref, .clk, .spans, .link, .integ, .mode, .sec, .modeCode] s t
      ∧ t.ref = { s.ref with locked := true, coasting := false, attempt := none, returned := []
                             ppsWait := if s.time.ppsEnable then s.ref.ppsWait ++ s.ref.returned.map fun p => (s.now, p) else s.ref.ppsWait }
      ∧ (s.time.ppsEnable = false → ∀ p ∈ s.ref.returned, Raises s t .refReturn pkg [.w p, .w (2 ^ 31)]))
  ∧ (∀ (s : State) (d : Nat) (l : DieLoop) (temp : Int) (band : Nat), d < s.dies → ((s.clk.get d).loop l).coasting = true →
    ((s.clk.get d).loop l).attempt.isSome = true →
    ∃ t, exec (.pllRelock (.die d l) temp band) s = .next t ∧ Only [.clk, .spans, .link, .mon, .integ, .mode, .sec, .modeCode] s t
      ∧ (t.clk.get d).loop l = { (s.clk.get d).loop l with locked := true, coasting := false, attempt := none }
      ∧ Raises s t .pllRelock d [.w d, .w l.code, .w ((s.clk.get d).loop l).buildOut]
      ∧ (l = .samp → (t.clk.get d).band s.cfg.active.plan = some ⟨band, temp⟩) ∧ ∀ e, e ≠ d → t.clk.get e = s.clk.get e)

/-- Drift: a sampling clock beyond 20 ppm mutes what draws on the die at once and raises DRIFT_MUTE; a system clock beyond 2,000 ppm moves the die's core clocks to the root and raises CORE_ON_ROOT; after the relock a block boundary ends that with CORE_RESTORED; within the limits only the drift is taken (02 R58, R59, R60). -/
def Obligations.DriftHandled : Prop :=
  (∀ (s : State) (d : Nat) (drift : Int), d < s.dies → ((s.clk.get d).samp.coasting || s.ref.coasting) = true →
    ∃ t, exec (.sampDriftEval d drift) s = .next t ∧ Only [.clk, .link, .integ, .sec] s t ∧ (t.clk.get d).sampDrift = drift
      ∧ (drift.natAbs ≤ 200 → t.clk.get d = { s.clk.get d with sampDrift := drift } ∧ t.link = s.link)
      ∧ (200 < drift.natAbs → (t.clk.get d).mutedNow s.now = true)
      ∧ (200 < drift.natAbs → (s.clk.get d).mutedNow s.now = false → Raises s t .driftMute d [.w d, .w drift])
      ∧ ∀ e, e ≠ d → t.clk.get e = s.clk.get e)
  ∧ (∀ (s : State) (d : Nat) (drift : Int), d < s.dies → (s.clk.get d).sys.coasting = true →
    ∃ t, exec (.sysDriftEval d drift) s = .next t ∧ Only [.clk, .spans, .taps, .link, .integ, .sec] s t ∧ (t.clk.get d).sysDrift = drift
      ∧ (drift.natAbs ≤ 2000 → t.clk.get d = { s.clk.get d with sysDrift := drift } ∧ t.link = s.link ∧ t.taps = s.taps)
      ∧ (2000 < drift.natAbs → (t.clk.get d).onRoot = true)
      ∧ (2000 < drift.natAbs → (s.clk.get d).onRoot = false → Raises s t .coreOnRoot d [.w d, .q s.now])
      ∧ ∀ e, e ≠ d → t.clk.get e = s.clk.get e)
  ∧ (∀ (s : State) (d : Nat), d < s.dies → (s.clk.get d).onRoot = true → (s.clk.get d).sys.locked = true → s.now % 200000 = 0 →
    ∃ t, exec (.coreRestored d) s = .next t ∧ Only [.clk, .spans, .taps, .link, .integ, .sec] s t
      ∧ t.clk.get d = { s.clk.get d with onRoot := false } ∧ (∀ e, e ≠ d → t.clk.get e = s.clk.get e) ∧ Raises s t .coreRestored d [.w d, .q s.now])

/-- SYSTIME: a replica that differs raises SYSTIME_MISMATCH with the difference and is reloaded at the next tick boundary, which ends the die's blocks in progress; an armed SYNC edge loads SYSTIME and every replica with the designated value, ends every block in progress there, restarts the spread modulation and raises REALIGN_DONE with the step, a REALIGN sets every build-out to zero; an unarmed edge is noted and restarts the spread modulation, nothing more, but is passed on while SYNC_OUT is driven, and a difference of more than one count is reported; 1.5 s without an edge are reported (02 R42, R47, R50, R51, R66). -/
def Obligations.SystimeKeeping : Prop :=
  (∀ (s : State) (d : Nat), s.dieUp d = true → (s.clk.get d).replica ≠ s.time.systime →
    ∃ t, exec (.systimeCompare d) s = .next t ∧ Only [.clk, .spans, .link, .integ, .mode, .sec, .modeCode] s t
      ∧ t.clk.get d = { s.clk.get d with reloadAt := some ((s.now / 100000 + 1) * 100000) } ∧ (∀ e, e ≠ d → t.clk.get e = s.clk.get e)
      ∧ Raises s t .systimeMismatch d [.w d, .w (((s.clk.get d).replica.toNat : Int) - s.now)])
  ∧ (∀ (s : State) (d r : Nat), d < s.dies → (s.clk.get d).reloadAt = some r → r ≤ s.now →
    ∃ t, exec (.replicaReload d) s = .next t ∧ Only [.clk, .spans, .taps, .ports, .link, .integ, .mode, .sec, .modeCode] s t
      ∧ t.clk.get d = { s.clk.get d with replica := s.time.systime, reloadAt := none, edge := some (s.now, s.now), edges := (s.clk.get d).edges + 1 }
      ∧ ∀ e, e ≠ d → t.clk.get e = s.clk.get e)
  ∧ (∀ s : State, s.time.armed ≠ .none → s.mode.mode ≠ .off →
    ∃ t, exec .syncEdgeArmed s = .next t
      ∧ Only [.time, .ref, .clk, .spans, .front, .taps, .lanes, .ports, .link, .cal, .integ, .mode, .mb, .sec, .systime, .modeCode] s t
      ∧ (∃ v : Nat, v = (if s.time.armed = .boot then s.bootDesignated else s.nearestDesignated).toNat
          ∧ t.time = { s.time with systime := BitVec.ofNat 64 v, armed := .none, aligned := true, lastSync := v, syncLost := false }
          ∧ (∀ d, d < s.dies → (t.clk.get d).replica = BitVec.ofNat 64 v ∧ (t.clk.get d).reloadAt = none ∧ (t.clk.get d).edge = some (s.now, v)
              ∧ (t.clk.get d).edges = (s.clk.get d).edges + 1 ∧ (t.clk.get d).spreadFrom = v)
          ∧ ∃ l q, t.link.events = s.link.events ++ l ∧ (⟨.realignDone, pkg, q, v % 2 ^ 64, [.w ((v : Int) - s.now)]⟩ : Ev) ∈ l)
      ∧ (s.time.armed = .realign → t.ref.buildOut = 0 ∧ ∀ d, d < s.dies → ∀ l, ((t.clk.get d).loop l).buildOut = 0)
      ∧ (s.time.armed = .boot → t.ref = s.ref ∧ ∀ d, d < s.dies → ∀ l, (t.clk.get d).loop l = (s.clk.get d).loop l))
  ∧ (∀ s : State, s.time.armed = .none → s.mode.mode ≠ .off →
    ∃ t, exec .syncEdgeUnarmed s = .next t ∧ Only [.time, .clk, .link, .integ, .sec] s t ∧ t.time = { s.time with lastSync := s.now, syncLost := false }
      ∧ (∀ d, t.clk.get d = if d < s.dies then { s.clk.get d with spreadFrom := s.now } else s.clk.get d)
      ∧ t.link.sent = (if s.time.syncOutEn then s.link.sent ++ [.syncOut (s.now + 4)] else s.link.sent)
      ∧ (1 < ((s.now : Int) - s.nearestDesignated).natAbs → Raises s t .syncDeviation pkg [.w ((s.now : Int) - s.nearestDesignated)])
      ∧ (((s.now : Int) - s.nearestDesignated).natAbs ≤ 1 → t.link.events = s.link.events))
  ∧ (∀ s : State, s.mode.mode ≠ .off → s.time.syncLost = false → s.time.lastSync + 150000000 ≤ s.now →
    ∃ t, exec .syncLost s = .next t ∧ Only [.time, .link, .integ, .sec] s t ∧ t.time = { s.time with syncLost := true }
      ∧ Raises s t .syncLost pkg [.q s.time.lastSync])

/-- PPS and CLK_CTRL: an edge of the polarity chosen is captured, before the captures of the last 15; one more than a count from the nearest whole second raises PPS_DEVIATION with the difference, one within it nothing; it ends the wait of every return, each reported with the difference; an edge of the other polarity, or with PPS disabled, changes nothing; 1.5 s without one raise PPS_LOST; the spread fields of CLK_CTRL take a write in IDLE within their ranges only, its other fields any; a read of SYSTIME_LO gives the low half and snapshots both (02 R48, R54, R55, R65). -/
def Obligations.PpsAndClockRegisters : Prop :=
  (∀ (s : State) (falling : Bool), s.time.ppsEnable = true → falling = s.time.ppsFalling →
    ∃ t, exec (.ppsEdge falling) s = .next t ∧ Only [.time, .ref, .link, .integ, .sec] s t
      ∧ t.time = { s.time with lastPps := s.now, captures := (s.now :: s.time.captures).take 16, ppsLost := false }
      ∧ (1 < ((s.now : Int) - nearestMul 100000000 s.now).natAbs → Raises s t .ppsDeviation pkg [.w ((s.now : Int) - nearestMul 100000000 s.now)])
      ∧ (((s.now : Int) - nearestMul 100000000 s.now).natAbs ≤ 1 → s.ref.ppsWait = [] → t.link = s.link)
      ∧ t.ref = { s.ref with ppsWait := [] }
      ∧ ∀ x ∈ s.ref.ppsWait, Raises s t .refReturn pkg [.w x.2, .w ((s.now : Int) - nearestMul 100000000 s.now)])
  ∧ (∀ (s : State) (falling : Bool), (s.time.ppsEnable = false ∨ falling ≠ s.time.ppsFalling) → exec (.ppsEdge falling) s = .next s)
  ∧ (∀ s : State, s.time.ppsEnable = true → s.time.ppsLost = false → s.time.lastPps + 150000000 ≤ s.now →
    ∃ t, exec .ppsLost s = .next t ∧ Only [.time, .link, .integ, .sec] s t ∧ t.time = { s.time with ppsLost := true } ∧ Raises s t .ppsLost pkg [.q s.time.lastPps])
  ∧ (∀ (s : State) (v : Nat), s.barUp = true →
    ∃ t, exec (.clkCtrlWrite v) s = .next t ∧ Only [.time, .mode, .spread] s t
      ∧ t.mode = { s.mode with lastAccess := s.now }
      ∧ t.time = { s.time with
          spreadMode := if s.mode.mode = .idle ∧ spreadOk (v % 4) (v / 4 % 128) = true then v % 4 else s.time.spreadMode
          spreadDepth := if s.mode.mode = .idle ∧ spreadOk (v % 4) (v / 4 % 128) = true then v / 4 % 128 else s.time.spreadDepth
          ppsEnable := maskBit v 9, ppsFalling := maskBit v 10, syncOutEn := maskBit v 11 })
  ∧ (∀ s : State, s.barUp = true →
    ∃ t, exec .systimeLoRead s = .next t ∧ Only [.time, .link, .mode] s t
      ∧ t.mode = { s.mode with lastAccess := s.now }
      ∧ t.time = { s.time with snapLo := BitVec.ofNat 32 (s.now % 2 ^ 32), snapHi := BitVec.ofNat 32 (s.now / 2 ^ 32) }
      ∧ t.link = { s.link with sent := s.link.sent ++ [.regRead (s.now % 2 ^ 32)] })

/-- Plan hops: a lock stores its band result with the temperature; 50 µs on the stored band start a fresh search; a search of 3 ms and a wait of 1,000 ms end the hop incomplete; the re-phase, at the next plan frame, brings the new plan into force on the die (02 R44, R45, R46, R62, R63). -/
def Obligations.PlanHops : Prop :=
  (∀ (s : State) (d : Nat) (temp : Int) (band : Nat), d < s.dies → ((s.clk.get d).hop.phase = .stored ∨ (s.clk.get d).hop.phase = .search) →
    ∃ t, exec (.hopLock d temp band) s = .next t ∧ Only [.clk, .mon] s t
      ∧ (t.clk.get d).hop = { (s.clk.get d).hop with phase := .locked } ∧ (t.clk.get d).samp = { (s.clk.get d).samp with locked := true }
      ∧ (t.clk.get d).band s.cfg.active.plan = some ⟨band, temp⟩ ∧ ∀ e, e ≠ d → t.clk.get e = s.clk.get e)
  ∧ (∀ (s : State) (d : Nat), d < s.dies → (s.clk.get d).hop.phase = .stored → (s.clk.get d).hop.since + 5000 ≤ s.now →
    ∃ t, exec (.hopStoredBandTimeout d) s = .next t ∧ Only [.clk] s t
      ∧ t.clk.get d = { s.clk.get d with hop := { (s.clk.get d).hop with phase := .search, fresh := true } } ∧ ∀ e, e ≠ d → t.clk.get e = s.clk.get e)
  ∧ (∀ (s : State) (d : Nat), d < s.dies → (s.clk.get d).hop.phase = .search → (s.clk.get d).hop.since + 300000 ≤ s.now →
    ∃ t, exec (.hopSearchTimeout d) s = .next t ∧ (t.clk.get d).hop.phase = .incomplete ∧ (t.clk.get d).samp.coasting = true
      ∧ (t.front.convs.get (2 * d)).failed = true ∧ (t.front.convs.get (2 * d + 1)).failed = true
      ∧ Raises s t .pllUnlock d [.w d, .w 0, .q s.now] ∧ ∀ e, e ≠ d → t.clk.get e = s.clk.get e)
  ∧ (∀ (s : State) (d : Nat), d < s.dies → (s.clk.get d).hop.phase = .waiting → (s.clk.get d).hop.since + 100000000 ≤ s.now →
    ∃ t, exec (.hopWaitTimeout d) s = .next t ∧ (t.clk.get d).hop.phase = .incomplete
      ∧ (t.front.convs.get (2 * d)).failed = true ∧ (t.front.convs.get (2 * d + 1)).failed = true ∧ ∀ e, e ≠ d → t.clk.get e = s.clk.get e)
  ∧ (∀ (s : State) (d : Nat), d < s.dies → (s.clk.get d).hop.phase = .locked → s.now % 32 = 0 →
    ∃ t, exec (.dividerRephase d) s = .next t
      ∧ t.clk.get d = { s.clk.get d with plan := s.cfg.active.plan, hop := { (s.clk.get d).hop with phase := .idle, rephasedAt := s.now, late := false } }
      ∧ ∀ e, e ≠ d → t.clk.get e = s.clk.get e)

/-! ### Antenna inputs, courses and converters (03) -/

/-- Converter faults: a fast check that trips fails the converter (or ends its restore) and raises CONVERTER_FAILED; a check window of a duplex course remembers a mismatch, two in succession decide it: shadowing attributes it where a converter has a spare, else the course is contested, and 64 clean windows clear that; shadowing fails the converter whose spare disagrees, else the one that has none while the other agrees, else the course is contested (03 R77, R78, R79, R82, R474). -/
def Obligations.ConverterFaults : Prop :=
  (∀ (s : State) (k check : Nat), k < 2 * s.dies → (s.front.convs.get k).powered = true → ((s.front.convs.get k).failed = false ∨ (s.front.convs.get k).restoring = true) →
    ∃ t, exec (.fastCheckTrip k check) s = .next t
      ∧ Only [.clk, .spans, .front, .taps, .link, .cal, .integ, .mode, .domains, .mb, .sec, .nv, .retirement, .modeCode] s t
      ∧ (t.front.convs.get k).failed = true
      ∧ ((s.front.convs.get k).restoring = true → (t.front.convs.get k).restoring = false ∧ (t.front.convs.get k).powered = false)
      ∧ Raises s t .converterFailed (k / 2) [.w k, .w (fastCause check).code])
  ∧ (∀ (s : State) (j : Nat) (sigs : List CheckSig), j < s.dies → (s.front.courses.get j).mode = .duplex → (s.front.courses.get j).standbyReady = true →
    (s.front.courses.get j).attributing = none → (s.front.courses.get j).splice = none → s.crossCheckRuns j = true →
    ∃ t, exec (.checkWindowEnd j sigs) s = .next t ∧ Only [.spans, .front, .link, .integ, .mode, .sec, .modeCode] s t
      ∧ (mismatchMask sigs = 0 → (s.front.courses.get j).contested = false → t.front.courses.get j = { s.front.courses.get j with lastMask := 0, checkPower := ((s.front.courses.get j).checkPower.1 + (sigs.map (·.powA)).sum, (s.front.courses.get j).checkPower.2 + (sigs.map (·.powB)).sum) })
      ∧ (mismatchMask sigs = 0 → (s.front.courses.get j).contested = true → (s.front.courses.get j).cleanRun + 1 < 64 →
          t.front.courses.get j = { s.front.courses.get j with
            cleanRun := (s.front.courses.get j).cleanRun + 1, lastMask := 0, checkPower := ((s.front.courses.get j).checkPower.1 + (sigs.map (·.powA)).sum, (s.front.courses.get j).checkPower.2 + (sigs.map (·.powB)).sum) })
      ∧ (mismatchMask sigs = 0 → (s.front.courses.get j).contested = true → 64 ≤ (s.front.courses.get j).cleanRun + 1 → (t.front.courses.get j).contested = false)
      ∧ (mismatchMask sigs ≠ 0 → (s.front.courses.get j).lastMask = 0 →
          t.front.courses.get j = { s.front.courses.get j with
            lastMask := mismatchMask sigs, lastWindow := s.now - 384, cleanRun := 0, checkPower := ((s.front.courses.get j).checkPower.1 + (sigs.map (·.powA)).sum, (s.front.courses.get j).checkPower.2 + (sigs.map (·.powB)).sum) })
      ∧ (mismatchMask sigs ≠ 0 → (s.front.courses.get j).lastMask ≠ 0 →
          ((s.front.convs.get (s.convOf j 0)).spareSlice.isSome || (s.front.convs.get (s.convOf j 1)).spareSlice.isSome) = true →
          (t.front.courses.get j).attributing = some ((s.front.courses.get j).lastMask ||| mismatchMask sigs, (s.front.courses.get j).lastWindow)
          ∧ (t.front.convs.get (s.convOf j 0)).rotSuspended = true ∧ (t.front.convs.get (s.convOf j 1)).rotSuspended = true)
      ∧ (mismatchMask sigs ≠ 0 → (s.front.courses.get j).lastMask ≠ 0 → (s.front.convs.get (s.convOf j 0)).spareSlice = none →
          (s.front.convs.get (s.convOf j 1)).spareSlice = none → (t.front.courses.get j).contested = true)
      ∧ ∀ i, i ≠ j → t.front.courses.get i = s.front.courses.get i)
  ∧ (∀ (s : State) (j mask first : Nat) (aDisagrees bDisagrees sa sb : Bool), (s.front.courses.get j).attributing = some (mask, first) →
    (s.front.convs.get (s.convOf j 0)).spareSlice.isSome = sa → (s.front.convs.get (s.convOf j 1)).spareSlice.isSome = sb →
    ∃ t, exec (.shadowAttributionEnd j aDisagrees bDisagrees) s = .next t
      ∧ Only [.spans, .front, .taps, .link, .cal, .integ, .mode, .domains, .mb, .sec, .modeCode] s t
      ∧ ((aDisagrees && sa) = true → (bDisagrees && sb) = false → (t.front.convs.get (s.convOf j 0)).failed = true)
      ∧ ((bDisagrees && sb) = true → (aDisagrees && sa) = false → (t.front.convs.get (s.convOf j 1)).failed = true)
      ∧ (sa = true → aDisagrees = false → sb = false → (t.front.convs.get (s.convOf j 1)).failed = true)
      ∧ (sb = true → bDisagrees = false → sa = false → (t.front.convs.get (s.convOf j 0)).failed = true)
      ∧ (sa = sb → (aDisagrees && sa) = (bDisagrees && sb) → (t.front.courses.get j).contested = true ∧ (t.front.courses.get j).attributing = none))

/-- Leadership: at the splice edge after a fault the standby leads and COURSE_FAILOVER gives the faulty span; a planned splice waits for a converter that samples and has rotated fully, powers the old leader down in SIMPLEX, and raises COURSE_LEADER; a converter that begins to sample leads its course where that waits for it (03 R80, R81, R84, R471). -/
def Obligations.CourseLeadership : Prop :=
  (∀ (s : State) (j x y first : Nat) (cause : ConvCause), j < s.dies → (s.front.courses.get j).splice = some (.fault x cause first) →
    (s.front.courses.get j).leader = some y → x ≠ y → s.convUsable (s.convOf j x) = true →
    ∃ t, exec (.leaderSplice j) s = .next t ∧ Only [.spans, .front, .taps, .link, .cal, .integ, .mode, .mb, .sec, .modeCode] s t
      ∧ (t.front.courses.get j).leader = some x ∧ (t.front.courses.get j).splice = none ∧ (t.front.courses.get j).standbyReady = false
      ∧ Raises s t .courseFailover j [.w j, .w (s.convOf j y), .w cause.code, .q first, .q s.now])
  ∧ (∀ (s : State) (j x y : Nat) (reason : PlannedReason), j < s.dies → (s.front.courses.get j).splice = some (.planned x reason) →
    (s.front.courses.get j).leader = some y → x ≠ y → s.convUsable (s.convOf j x) = true →
    (s.front.convs.get (s.convOf j x)).sampling = true → (s.front.convs.get (s.convOf j x)).rotated = true →
    ∃ t, exec (.plannedSplice j) s = .next t ∧ Only [.clk, .spans, .front, .taps, .link, .cal, .integ, .mode, .domains, .sec, .modeCode] s t
      ∧ (t.front.courses.get j).leader = some x ∧ (t.front.courses.get j).splice = none
      ∧ ((s.front.courses.get j).mode = .simplex → (t.front.convs.get (s.convOf j y)).powered = false)
      ∧ Raises s t .courseLeader j [.w j, .w (s.convOf j x), .w reason.code, .q s.now, .w (if (s.cfg.active.courses.get j).preferB == (x == 1) then 0 else 1)])
  ∧ (∀ (s : State) (k : Nat), k < 2 * s.dies → (s.front.convs.get k).powered = true → (s.front.convs.get k).sampling = false → (s.front.convs.get k).failed = false →
    ∃ t, exec (.converterSampling k) s = .next t ∧ Only [.spans, .front, .taps, .link, .cal, .integ, .mode, .mb, .sec, .modeCode] s t
      ∧ (t.front.convs.get k).sampling = true
      ∧ ((s.front.courses.get (s.courseOf k)).mode ≠ .off → (s.front.courses.get (s.courseOf k)).leader = none → (s.front.courses.get (s.courseOf k)).lost = false →
          s.nextLeader (s.courseOf k) = k % 2 → (t.front.courses.get (s.courseOf k)).leader = some (k % 2)))

/-- The rotation of the spare slice: shadow phase, stand-in phase, next position, and from position 7 back to 0; a mismatch above −60 dBFS, above −66 dBFS in the mean or outside the authority raises SLICE_MISMATCH, a phase without one counts for a probation; a fault of the converter itself fails a leader without a ready standby; corrections within the authority take effect for the plan in force (03 R84, R87, R88, R89, R91). -/
def Obligations.SliceRotation : Prop :=
  (∀ (s : State) (k : Nat), k < 2 * s.dies → (s.front.convs.get k).sampling = true → (s.front.convs.get k).spareSlice.isSome = true → (s.front.convs.get k).rotSuspended = false →
    ((s.front.convs.get k).rotStandin = false →
      ∃ t, exec (.sliceRotationStep k) s = .next t ∧ Only [.front] s t ∧ t.front.convs.get k = { s.front.convs.get k with rotStandin := true }
        ∧ (∀ i, i ≠ k → t.front.convs.get i = s.front.convs.get i) ∧ t.front.courses = s.front.courses)
    ∧ ((s.front.convs.get k).rotStandin = true → (s.front.convs.get k).rotPosition < 7 → (s.front.convs.get k).rotSteps + 1 < 8 →
      ∃ t, exec (.sliceRotationStep k) s = .next t ∧ Only [.front] s t
        ∧ t.front.convs.get k = { s.front.convs.get k with
            rotStandin := false, rotPosition := (s.front.convs.get k).rotPosition + 1, rotSteps := (s.front.convs.get k).rotSteps + 1 }
        ∧ (∀ i, i ≠ k → t.front.convs.get i = s.front.convs.get i) ∧ t.front.courses = s.front.courses)
    ∧ ((s.front.convs.get k).rotStandin = true → 7 ≤ (s.front.convs.get k).rotPosition → (s.front.convs.get k).restoring = false →
      ∃ t, exec (.sliceRotationStep k) s = .next t
        ∧ t.front.convs.get k = { s.front.convs.get k with
            rotStandin := false, rotPosition := 0, rotSteps := (s.front.convs.get k).rotSteps + 1, rotMismatch := 0, rotStart := s.now, slicesUpdated := false }
        ∧ ∀ i, i ≠ k → t.front.convs.get i = s.front.convs.get i))
  ∧ (∀ (s : State) (k : Nat) (rms mean : Int) (inAuthority convFault : Bool), k < 2 * s.dies → (s.front.convs.get k).sampling = true →
    (s.front.convs.get k).spareSlice.isSome = true → (s.front.convs.get k).rotStandin = false → (s.front.convs.get k).rotSuspended = false →
    (convFault = true → (s.front.courses.get (s.courseOf k)).leader = some (k % 2) → (s.front.courses.get (s.courseOf k)).standbyReady = false →
      ∃ t, exec (.shadowPhaseEnd k rms mean inAuthority convFault) s = .next t ∧ (t.front.convs.get k).failed = true)
    ∧ ((-6000 < rms ∨ -6600 < mean ∨ inAuthority = false) →
      ∃ t, exec (.shadowPhaseEnd k rms mean inAuthority convFault) s = .next t
        ∧ Raises s t .sliceMismatch (k / 2) [.w k, .w ((s.front.convs.get k).sliceAt (s.front.convs.get k).rotPosition), .w rms, .w mean])
    ∧ (convFault = false → rms ≤ -6000 → mean ≤ -6600 → inAuthority = true →
      ∃ t, exec (.shadowPhaseEnd k rms mean inAuthority convFault) s = .next t ∧ Only [.front, .link, .mb] s t
        ∧ t.front.convs.get k = probationPassed (s.front.convs.get k) ∧ ∀ i, i ≠ k → t.front.convs.get i = s.front.convs.get i))
  ∧ (∀ (s : State) (k i : Nat) (coef : SliceCoef), k < 2 * s.dies → i < 9 → (s.front.convs.get k).sampling = true → (s.front.convs.get k).spareSlice.isSome = true → coef.inAuthority = true →
    ∃ t, exec (.sliceCoeffUpdate k i coef) s = .next t ∧ Only [.front, .cal] s t
      ∧ t.cal.coefs.slices = s.cal.coefs.slices.set (k * 27 + (s.clk.get (k / 2)).plan * 9 + i) coef
      ∧ t.front.convs = s.front.convs.modify k fun c => { c with slicesUpdated := true })

/-- The gain of a course under AGC: a peak at or above ATTACK_LEVEL lowers it at once by the whole dB that bring the peak to TARGET_LEVEL, not below GAIN_MIN; otherwise it rises by 1 dB, not above GAIN_MAX, once HOLD has passed since a window at or above RELEASE_LEVEL, RELEASE_INTERVAL since the last rise, and no level is measured; a changed gain sets attenuator and amplifier; under manual gain only the window at or above RELEASE_LEVEL is remembered; AGC_LIMIT is raised once per second while the peaks stay up at GAIN_MIN (03 R71, R93, R96). -/
def Obligations.GainControl : Prop :=
  (∀ (s : State) (j : Nat) (peak : Int), j < s.dies → (s.front.courses.get j).agcOn = true → (s.front.courses.get j).leader.isSome = true →
    ∃ t, exec (.agcWindow j peak) s = .next t ∧ Only [.front, .link, .cal] s t
      ∧ ((s.cfg.active.courses.get j).attack * 100 ≤ peak →
          (t.front.courses.get j).gain = max (s.cfg.active.courses.get j).gainMin ((s.front.courses.get j).gain - ceilDb (peak - (s.cfg.active.courses.get j).target * 100)))
      ∧ (peak < (s.cfg.active.courses.get j).attack * 100 →
          (t.front.courses.get j).gain =
            if (if (s.cfg.active.courses.get j).release * 100 ≤ peak then s.now else (s.front.courses.get j).loudAt) + (s.cfg.active.courses.get j).hold * 10000000 ≤ s.now
              ∧ (s.front.courses.get j).riseAt + (s.cfg.active.courses.get j).releaseInterval * 1000000 ≤ s.now ∧ s.levelMeasuring j = false
            then min (s.cfg.active.courses.get j).gainMax ((s.front.courses.get j).gain + 1) else (s.front.courses.get j).gain)
      ∧ ((t.front.courses.get j).gain ≠ (s.front.courses.get j).gain →
          (t.front.courses.get j).attenuator = (if 0 < (t.front.courses.get j).gain then (14 - (t.front.courses.get j).gain).toNat else (-(t.front.courses.get j).gain).toNat)
          ∧ (t.front.courses.get j).lnaOn = decide (0 < (t.front.courses.get j).gain)
          ∧ (t.front.courses.get j).gainStepTotal = (s.front.courses.get j).gainStepTotal + 1)
      ∧ ∀ i, i ≠ j → t.front.courses.get i = s.front.courses.get i)
  ∧ (∀ (s : State) (j : Nat) (peak : Int), j < s.dies → (s.front.courses.get j).agcOn = false → (s.front.courses.get j).leader.isSome = true →
    ∃ t, exec (.agcWindow j peak) s = .next t ∧ Only [.front] s t
      ∧ t.front.courses.get j = { s.front.courses.get j with
          loudAt := if (s.cfg.active.courses.get j).release * 100 ≤ peak then s.now else (s.front.courses.get j).loudAt }
      ∧ ∀ i, i ≠ j → t.front.courses.get i = s.front.courses.get i)
  ∧ (∀ (s : State) (j : Nat) (peak : Int), j < s.dies → (s.front.courses.get j).agcAtLimit = true →
    ((s.front.courses.get j).agcLimitAt = 0 ∨ (s.front.courses.get j).agcLimitAt + 100000000 ≤ s.now) →
    ∃ t, exec (.agcLimit j peak) s = .next t ∧ Only [.front, .link, .integ, .sec] s t ∧ t.front.courses.get j = { s.front.courses.get j with agcLimitAt := s.now }
      ∧ (∀ i, i ≠ j → t.front.courses.get i = s.front.courses.get i) ∧ Raises s t .agcLimit j [.w j, .w peak])

/-- The records of a converter: at the end of a tick the record is latched from the codes of its output, as many as the plan gives a tick: power sum and count, extremes, clips, the gain at the end and the gain steps; the sticky fields take in the codes taken since they were cleared, and none from before; a read of PWR_SUM_LO snapshots the whole record, and of an absent die gives 0; CLEAR_STICKY resets the sticky fields; FEED_LIMITS, whose write is ignored unless OVER_LIMIT is above OPEN_LIMIT (00 R4, 03 R73, R99, R100). -/
def Obligations.ConverterRecords : Prop :=
  (∀ (s : State) (k : Nat) (codes : List SliceCode), k < 2 * s.dies → (s.front.convs.get k).powered = true → s.now % 100000 = 0 → (s.front.convs.get k).latchedTo < s.now →
    (codes.filter (·.output)).length = 3125 * planFrameSamples (s.clk.get (k / 2)).plan →
    ∃ t, exec (.converterRecordLatch k codes) s = .next t ∧ Only [.front] s t
      ∧ (t.front.convs.get k).latched.pwrSum = BitVec.ofNat 64 (((codes.filter (·.output)).map fun x => (x.code * x.code).toNat).sum)
      ∧ (t.front.convs.get k).latched.pwrCount = BitVec.ofNat 32 (3125 * planFrameSamples (s.clk.get (k / 2)).plan)
      ∧ (t.front.convs.get k).latched.tickNum = BitVec.ofNat 32 (tickOf (s.now - 100000))
      ∧ (t.front.convs.get k).latched.lo = BitVec.ofInt 16 (levelMin ((codes.filter (·.output)).map (·.code)))
      ∧ (t.front.convs.get k).latched.hi = BitVec.ofInt 16 (levelMax ((codes.filter (·.output)).map (·.code)))
      ∧ (t.front.convs.get k).latched.clipCount = BitVec.ofNat 32 ((codes.filter (·.output)).countP fun x => decide (x.code ≤ -8192) || decide (8191 ≤ x.code))
      ∧ (t.front.convs.get k).latched.gainEnd = s.gainAt (s.courseOf k) (s.now - 1 : Nat)
      ∧ (t.front.convs.get k).latched.gainSteps = s.gainStepsIn (s.courseOf k) (tickOf (s.now - 100000))
      ∧ ((∀ x ∈ codes, -8192 ≤ x.code ∧ x.code ≤ 8191) → (s.front.convs.get k).stickyFrom + 100000 ≤ s.now →
          (t.front.convs.get k).stickyMin.toInt = (codes.filter (·.output)).foldl (fun m x => min m x.code) (s.front.convs.get k).stickyMin.toInt
          ∧ (t.front.convs.get k).stickyMax.toInt = (codes.filter (·.output)).foldl (fun m x => max m x.code) (s.front.convs.get k).stickyMax.toInt
          ∧ (t.front.convs.get k).stickyClip.toNat = min 0xFFFFFFFF ((s.front.convs.get k).stickyClip.toNat
              + (codes.filter (·.output)).countP fun x => decide (x.code ≤ -8192) || decide (8191 ≤ x.code)))
      ∧ (s.now ≤ (s.front.convs.get k).stickyFrom →
          (t.front.convs.get k).stickyMin = (s.front.convs.get k).stickyMin ∧ (t.front.convs.get k).stickyMax = (s.front.convs.get k).stickyMax
          ∧ (t.front.convs.get k).stickyClip = (s.front.convs.get k).stickyClip)
      ∧ (t.front.convs.get k).snap = (s.front.convs.get k).snap ∧ (∀ i, i ≠ k → t.front.convs.get i = s.front.convs.get i) ∧ t.front.courses = s.front.courses)
  ∧ (∀ (s : State) (k a : Nat), s.barUp = true → k < 2 * s.dies → a = 0x10000 * (k / 2 + 1) + 0x300 + 0x80 * (k % 2) →
    ∃ t, exec (.pwrSumLoRead k) s = .next t ∧ Only [.front, .link, .mode] s t ∧ t.mode = { s.mode with lastAccess := s.now } ∧ t.front.convs.get k = { s.front.convs.get k with snap := (s.front.convs.get k).latched }
      ∧ (∀ i, i ≠ k → t.front.convs.get i = s.front.convs.get i) ∧ t.front.courses = s.front.courses
      ∧ t.link = { s.link with sent := s.link.sent ++ [.regRead ((s.front.convs.get k).latched.pwrSum.toNat % 2 ^ 32)] }
      ∧ s.readBar0 (a + 0x08) = (s.front.convs.get k).latched.pwrSum.toNat % 2 ^ 32 ∧ t.readBar0 (a + 0x0C) = (s.front.convs.get k).latched.pwrSum.toNat / 2 ^ 32
      ∧ t.readBar0 (a + 0x10) = (s.front.convs.get k).latched.pwrCount.toNat ∧ t.readBar0 (a + 0x14) = (s.front.convs.get k).latched.tickNum.toNat)
  ∧ (∀ (s : State) (k : Nat), s.barUp = true → 2 * s.dies ≤ k →
    exec (.pwrSumLoRead k) s = .next { s with mode := { s.mode with lastAccess := s.now }, link := { s.link with sent := s.link.sent ++ [.regRead 0] } })
  ∧ (∀ (s : State) (k : Nat), s.barUp = true → s.dieUp (k / 2) = true →
    ∃ t, exec (.clearSticky k) s = .next t ∧ Only [.front, .mode] s t ∧ t.mode = { s.mode with lastAccess := s.now }
      ∧ t.front.convs.get k = { s.front.convs.get k with stickyMin := 0x7FFF, stickyMax := 0x8000, stickyClip := 0, stickyFrom := s.now }
      ∧ (∀ i, i ≠ k → t.front.convs.get i = s.front.convs.get i) ∧ t.front.courses = s.front.courses)
  ∧ (∀ (s : State) (n lo hi : Nat), s.barUp = true → n < s.dies → hi < 65536 →
    ∃ t, exec (.feedLimitsWrite n lo hi) s = .next t ∧ Only [.front, .mode] s t ∧ t.mode = { s.mode with lastAccess := s.now } ∧ (hi ≤ lo → t.front = s.front)
      ∧ (lo < hi → t.front.courses.get n = { s.front.courses.get n with openLimit := lo, overLimit := hi })
      ∧ (∀ i, i ≠ n → t.front.courses.get i = s.front.courses.get i) ∧ t.front.convs = s.front.convs)

/-! ### Band taps, lanes and watch taps (04, 05) -/

/-- Band taps: a segment sample that misses its entry time raises SEGMENT_LATE; the audit tap takes at each multiple of 50 ms the target of its sub-slot, a known-answer failure charges the tap tested; a difference starts the self-verification, which charges the target if it agrees and the audit tap if not; a lasting fault is replaced at its splice edge; a read of NCO_WORD_LO snapshots NCO_WORD_HI, of an absent die it returns 0; a sticky saturation flag is cleared by a write (01 R20, 04 R129, R131, R132, R133, R134). -/
def Obligations.BandTapAudit : Prop :=
  (∀ (s : State) (c e1 e2 : Nat), c < s.dies * 4 → (s.taps.bandTaps.get c).assigned = true → (s.front.courses.get (s.taps.bandTaps.get c).course).leader.isSome = true → e1 ≤ e2 →
    ∃ t, exec (.segmentLate c e1 e2) s = .next t ∧ Only [.taps, .link, .integ, .sec] s t ∧ Raises s t .segmentLate (clusterDie c) [.w c, .q e1, .q e2]
      ∧ t.taps.bandTaps = s.taps.bandTaps
      ∧ t.taps.segments.get c = (s.taps.segments.get c).disturb s.now (.span e1 (some e2))
      ∧ (∀ l, l / 8 = c → t.taps.lanes.get l = (s.taps.lanes.get l).disturb s.now (.span e1 (some e2))) ∧ ∀ l, l / 8 ≠ c → t.taps.lanes.get l = s.taps.lanes.get l)
  ∧ (∀ (s : State) (d : Nat) (katFails : Bool), d < s.dies → s.auditRuns d = true → s.now % 5000000 = 0 →
    ∃ t, exec (.auditSubslot d katFails) s = .next t ∧ Only [.spans, .taps, .link, .integ, .mode, .sec, .nv, .modeCode] s t
      ∧ (katFails = false → (t.taps.audits.get d).target = some (s.auditTargetOf d (s.now % 100000000 / 100000 / 250) (s.now % 100000000 / 100000 % 250 / 50)) ∧ t.link = s.link ∧ t.nv = s.nv)
      ∧ (katFails = true → (∀ c, s.auditTargetOf d (s.now % 100000000 / 100000 / 250) (s.now % 100000000 / 100000 % 250 / 50) = .kat c → s.retired (bandTapRef c) = false →
          Raises s t .bandtapMismatch (c / 4) [.w (c / 4), .w (c % 4 : Nat), .q s.now])))
  ∧ (∀ (s : State) (d : Nat) (x : AuditTarget), d < s.dies → s.auditRuns d = true → (s.taps.audits.get d).verifying = none → (s.taps.audits.get d).target = some x →
    (∀ c, x ≠ .kat c) → (∀ i, x ≠ .selfKat i) → s.auditCompares x = true →
    ∃ t, exec (.auditCompareMismatch d) s = .next t ∧ Only [.taps] s t
      ∧ t.taps.audits.get d = { s.taps.audits.get d with verifying := some (s.now, x), target := none, second := some (s.secondTap d x) }
      ∧ ∀ e, e ≠ d → t.taps.audits.get e = s.taps.audits.get e)
  ∧ (∀ (s : State) (d first : Nat) (x : AuditTarget) (agrees : Bool), d < s.dies → s.dieRuns d = true → (s.taps.audits.get d).verifying = some (first, x) → first + 200000 ≤ s.now →
    ∃ t, exec (.auditVerifyEnd d agrees) s = .next t ∧ Only [.spans, .taps, .link, .integ, .mode, .sec, .nv, .modeCode] s t
      ∧ (agrees = false → Raises s t .auditMismatch d [.w d, .q first])
      ∧ (agrees = true → ∀ c, x = .bandTap c → Raises s t .bandtapMismatch (c / 4) [.w (c / 4), .w (c % 4 : Nat), .q first])
      ∧ (agrees = true → ∀ i, x = .exportTap i → Raises s t .bandtapMismatch (i / 16) [.w (i / 16), .w (4 + i % 16 : Nat), .q first]))
  ∧ (∀ (s : State) (d : Nat) (u : UnitRef), d < s.dies → (s.taps.audits.get d).replace = some u → u.die = d → s.now % 32 = 0 →
    ∃ t, exec (.auditReplacementSplice d) s = .next t ∧ Only [.spans, .taps, .link, .integ, .mode, .mb, .sec, .nv, .modeCode] s t
      ∧ t.retired u = true ∧ (t.taps.audits.get d).replace = none
      ∧ (u.kind = .bandTap → t.nv.auditCarries.get d = some u ∧ Raises s t .bandtapReplaced d [.w d, .w u.loc, .q s.now]))
  ∧ (∀ (s : State) (c a : Nat), s.barUp = true → c < s.dies * 4 → a = 0x10000 * (c / 4 + 1) + 0x400 + 0x20 * (c % 4) →
    ∃ t, exec (.ncoWordLoRead c) s = .next t ∧ Only [.taps, .link, .mode] s t ∧ t.mode = { s.mode with lastAccess := s.now }
      ∧ s.readBar0 (a + 0x04) = (s.taps.bandTaps.get c).ncoWord % 2 ^ 32 ∧ t.readBar0 (a + 0x08) = (s.taps.bandTaps.get c).ncoWord / 2 ^ 32 % 2 ^ 16
      ∧ t.taps.bandTaps.get c = { s.taps.bandTaps.get c with ncoHiSnap := BitVec.ofNat 16 ((s.taps.bandTaps.get c).ncoWord / 2 ^ 32) }
      ∧ (∀ e, e ≠ c → t.taps.bandTaps.get e = s.taps.bandTaps.get e) ∧ t.link.sent = s.link.sent ++ [.regRead ((s.taps.bandTaps.get c).ncoWord % 2 ^ 32)])
  ∧ (∀ (s : State) (c : Nat), s.barUp = true → s.dies * 4 ≤ c → exec (.ncoWordLoRead c) s = .next (send (.regRead 0) (hostAccess s)))
  ∧ (∀ (s : State) (c : Nat), s.barUp = true → s.dieUp (c / 4) = true →
    ∃ t, exec (.satStickyClear (.bandTap c)) s = .next t ∧ Only [.taps, .mode] s t ∧ t.mode = { s.mode with lastAccess := s.now } ∧ t.taps.bandTaps.get c = { s.taps.bandTaps.get c with satSticky := false }
      ∧ ∀ e, e ≠ c → t.taps.bandTaps.get e = s.taps.bandTaps.get e)
  ∧ (∀ (s : State) (l g : Nat), s.barUp = true → s.dieUp (l / 32) = true →
    ∃ t, exec (.satStickyClear (.lane l g)) s = .next t ∧ Only [.taps, .mode] s t ∧ t.mode = { s.mode with lastAccess := s.now }
      ∧ t.taps.lanes.get l = { s.taps.lanes.get l with
          satHalving := (s.taps.lanes.get l).satHalving && g != 0, satResampler := (s.taps.lanes.get l).satResampler && g != 1, satFilter := (s.taps.lanes.get l).satFilter && g != 2 })
  ∧ (∀ (s : State) (c g : Nat), s.barUp = true → s.dieUp (c / 4) = true →
    ∃ t, exec (.satStickyClear (.spare c g)) s = .next t ∧ Only [.taps, .mode] s t ∧ t.mode = { s.mode with lastAccess := s.now }
      ∧ t.taps.spares.get c = { s.taps.spares.get c with
          satHalving := (s.taps.spares.get c).satHalving && g != 0, satResampler := (s.taps.spares.get c).satResampler && g != 1, satFilter := (s.taps.spares.get c).satFilter && g != 2 })

/-- The spare lane: a step, at a multiple of 100 ms, loads the next position and its chain and counts a rotation after position 7; 4 ms on the comparison runs; the first difference stops it and starts the test, which charges the spare if it fails and else the lane; a cover window puts the spare under a lane's index between rotations, at a block boundary once it has run the lane's chain for its span, at most once a rotation, and ends with the lane taking its station back, after 300 ms at the latest (05 R161, R162, R164, R165, 01 R29). -/
def Obligations.SpareLaneAssay : Prop :=
  (∀ (s : State) (c : Nat), s.spareUp c = true → (s.lanes.spares.get c).cover = none → s.replacedPos c = none → s.now % 10000000 = 0 →
    (∀ a, (s.lanes.spares.get c).assay = some a → a.restore = false ∧ a.start ≠ s.now) →
    ∃ t, exec (.assayStep c) s = .next t ∧ Only [.taps, .lanes] s t
      ∧ (t.lanes.spares.get c).position = (s.lanes.spares.get c).nextAssay ∧ (t.lanes.spares.get c).nextAssay = ((s.lanes.spares.get c).nextAssay + 1) % 8
      ∧ (t.lanes.spares.get c).loadedAt = s.now ∧ t.taps.spares.get c = s.taps.lanes.get (c * 8 + (s.lanes.spares.get c).nextAssay)
      ∧ (t.lanes.spares.get c).assay = some { start := s.now, testing := s.nothingToCompare (c * 8 + (s.lanes.spares.get c).nextAssay) }
      ∧ (t.lanes.spares.get c).rotations = (if (s.lanes.spares.get c).assay.isSome ∧ (s.lanes.spares.get c).position = 7 then (s.lanes.spares.get c).rotations + 1 else (s.lanes.spares.get c).rotations)
      ∧ t.taps.lanes = s.taps.lanes ∧ ∀ e, e ≠ c → t.lanes.spares.get e = s.lanes.spares.get e ∧ t.taps.spares.get e = s.taps.spares.get e)
  ∧ (∀ (s : State) (c p : Nat), s.spareUp c = true → (s.lanes.spares.get c).cover = none → s.replacedPos c = some p → s.now % 10000000 = 0 → (s.lanes.spares.get c).assay = none →
    (s.lanes.spares.get c).restoreAsked = true →
    ∃ t, exec (.assayStep c) s = .next t ∧ Only [.lanes] s t
      ∧ t.lanes.spares.get c = { s.lanes.spares.get c with position := p, restoreAsked := false, assay := some { start := s.now, restore := true } }
      ∧ ∀ e, e ≠ c → t.lanes.spares.get e = s.lanes.spares.get e)
  ∧ (∀ (s : State) (c : Nat) (a : AssaySt), s.spareUp c = true → (s.lanes.spares.get c).assay = some a → a.comparing = false → a.testing = false → a.firstDiff = none →
    a.start + 400000 ≤ s.now → s.now % 200000 = 0 →
    ∃ t, exec (.assayStateCopy c) s = .next t ∧ Only [.lanes] s t ∧ t.lanes.spares.get c = { s.lanes.spares.get c with assay := some { a with comparing := true, copied := true } }
      ∧ ∀ e, e ≠ c → t.lanes.spares.get e = s.lanes.spares.get e)
  ∧ (∀ (s : State) (c output : Nat) (a : AssaySt), s.spareUp c = true → (s.lanes.spares.get c).assay = some a → a.comparing = true →
    ∃ t, exec (.firstDifferingValue c output) s = .next t ∧ Only [.lanes] s t
      ∧ t.lanes.spares.get c = { s.lanes.spares.get c with assay := some { a with comparing := false, testing := true, firstDiff := some (s.now, output) } }
      ∧ ∀ e, e ≠ c → t.lanes.spares.get e = s.lanes.spares.get e)
  ∧ (∀ (s : State) (c : Nat) (fails : Bool) (a : AssaySt), s.spareUp c = true → (s.lanes.spares.get c).position < 8 → (s.lanes.spares.get c).assay = some a → a.testing = true →
    (a.firstDiff = none → a.start + 600000 ≤ s.now →
      ∃ t, exec (.assayKatEnd c fails) s = .next t
        ∧ (fails = false → Only [.lanes] s t ∧ t.lanes.spares.get c = { s.lanes.spares.get c with assay := some { a with testing := false } })
        ∧ (fails = true → Raises s t .spareCharged (clusterDie c) [.w (clusterDie c), .w (c % 4 : Nat), .q s.now]))
    ∧ (∀ at_ output, a.firstDiff = some (at_, output) → at_ + 200000 ≤ s.now →
      ∃ t, exec (.assayKatEnd c fails) s = .next t
        ∧ (a.restore = true → (t.lanes.spares.get c).assay = none
            ∧ Raises s t .laneRestored (laneDie (c * 8 + (s.lanes.spares.get c).position)) [.w (c * 8 + (s.lanes.spares.get c).position), .w 1, .q 0])
        ∧ (a.restore = false → fails = true → Raises s t .spareCharged (clusterDie c) [.w (clusterDie c), .w (c % 4 : Nat), .q at_])
        ∧ (a.restore = false → fails = false →
            Raises s t .laneAssayMismatch (laneDie (c * 8 + (s.lanes.spares.get c).position)) [.w (c * 8 + (s.lanes.spares.get c).position), .q at_, .w output])))
  ∧ (∀ (s : State) (c pos : Nat), s.spareUp c = true → pos < 8 → s.holdCover c = false → (s.lanes.spares.get c).cover = none → (s.lanes.spares.get c).coverTaken = false →
    (s.lanes.spares.get c).betweenRotations s.now = true → s.now % 200000 = 0 →
    (∀ a, (s.lanes.spares.get c).assay = some a → a.start + 10000000 + (s.laneTune (c * 8 + pos)).laneSpan ≤ s.now) →
    ((s.lanes.spares.get c).assay = none → (s.lanes.spares.get c).rotStart + (s.laneTune (c * 8 + pos)).laneSpan ≤ s.now) →
    ∃ t, exec (.coverStart c pos) s = .next t ∧ Only [.spans, .taps, .lanes, .link, .integ, .mode, .mb, .sec, .nv, .retirement, .modeCode] s t
      ∧ (t.lanes.spares.get c).position = pos ∧ (t.lanes.spares.get c).assay = none ∧ (t.lanes.spares.get c).coverTaken = true
      ∧ (t.lanes.spares.get c).cover = some ⟨pos, false, s.now⟩ ∧ (t.lanes.spares.get c).lastCoverStart = some s.now
      ∧ ((∀ a, (s.lanes.spares.get c).assay = some a → a.restore = false) → t.taps.spares.get c = s.taps.lanes.get (c * 8 + pos)))
  ∧ (∀ (s : State) (c : Nat) (v : CoverSt), c < s.dies * 4 → s.dieRuns (clusterDie c) = true → (s.lanes.spares.get c).cover = some v → s.now % 200000 = 0 → v.start < s.now →
    s.now < v.start + 30000000 → s.stationRuns (c * 8 + v.pos) = true →
    (∀ n st, n < s.dies → s.cal.steps.get n = some st → st.lane = c * 8 + v.pos → st.phase = .return_) →
    ∃ t, exec (.coverEnd c) s = .next t ∧ Only [.taps, .lanes] s t ∧ t.lanes.spares.get c = { (s.lanes.spares.get c).endCover v.pos s.now with cover := none, rotStart := s.now }
      ∧ (t.lanes.demods.get (c * 8 + v.pos)).lastCoverTick = tick32 s.now ∧ (∀ l, l ≠ c * 8 + v.pos → t.lanes.demods.get l = s.lanes.demods.get l)
      ∧ t.taps.tones = s.taps.tones.set (c * 8 + v.pos) {} ∧ t.taps.lanes = s.taps.lanes)
  ∧ (∀ (s : State) (c : Nat) (v : CoverSt), c < s.dies * 4 → s.dieRuns (clusterDie c) = true → (s.lanes.spares.get c).cover = some v → s.now % 200000 = 0 → v.start + 30000000 ≤ s.now →
    ∃ t, exec (.coverEnd c) s = .next t ∧ Only [.front, .taps, .lanes, .link, .cal, .integ, .mb, .sec] s t ∧ (t.lanes.spares.get c).cover = none
      ∧ (t.lanes.demods.get (c * 8 + v.pos)).lastCoverTick = tick32 s.now)

/-- Demodulators: at the first valid sample after suppressed ones, or the first valid one of a chain that has had none, a restart puts a lane's demodulator and the combination that it is a branch of at their initial values, a watch tap's RDS out of synchronisation; after each run of 64 valid samples the combiner's weights follow R147 and are free values where its sums vanish (the spec states none there: notes/assumptions/8.md); the pilot is locked while the loop is in lock and its deviation reaches PILOT_MIN, and FM_STEREO follows at the block boundary; two RDS blocks without error, 26 bits apart and in order, synchronise a stream, 20 uncorrectable ones of 50 lose it; an AMSS block counts, is delivered while block synchronisation holds and gives its identifier (05 R137, R141, R143, R147, R148, R152, R153, R154). -/
def Obligations.Demodulators : Prop :=
  (∀ (s : State) (l at_ : Nat), l < s.dies * 32 → s.dieRuns (laneDie l) = true →
    ((s.taps.lanes.get l).firstValid at_ = true ∨ ((s.lanes.demods.get l).restartAt = none ∧ (s.taps.lanes.get l).validAt at_ = true)) →
    ∃ t, exec (.demodRestart (.lane l) at_) s = .next t ∧ Only [.lanes] s t
      ∧ (∀ k, s.cfg.active.combinerOf l = some k → k ≠ l → t.lanes.demods.get k = (s.lanes.demods.get k).restart at_)
      ∧ ((∀ k, s.cfg.active.combinerOf l = some k → k ≠ l) → t.lanes.demods.get l = (s.lanes.demods.get l).restart at_)
      ∧ ∀ i, i ≠ l → s.cfg.active.combinerOf l ≠ some i → t.lanes.demods.get i = s.lanes.demods.get i)
  ∧ (∀ (s : State) (w at_ : Nat), w < s.dies * 64 → s.dieRuns (watchDie w) = true →
    ((s.taps.watches.get w).firstValid at_ = true ∨ ((s.lanes.watches.get w).restartAt = none ∧ (s.taps.watches.get w).validAt at_ = true)) →
    ∃ t, exec (.demodRestart (.watch w) at_) s = .next t ∧ Only [.lanes, .link, .integ, .mode, .domains, .sec] s t
      ∧ (t.lanes.watches.get w).rds.fields = {} ∧ (∀ x ∈ (t.lanes.watches.get w).rds.streams, x.synced = false) ∧ (t.lanes.watches.get w).restartAt = some at_
      ∧ ∀ i, i ≠ w → t.lanes.watches.get i = s.lanes.watches.get i)
  ∧ (∀ (s : State) (l : Nat) (air : Air), l < s.dies * 32 → s.dieRuns (laneDie l) = true → (s.taps.lanes.get l).active = true → 0 < (s.cfg.active.lanes.get l).branchCount →
    (s.lanes.demods.get l).restartAt.isSome = true → (∀ n ∈ s.runPoints l, s.combinedDead l n = false) → (∀ w, ((s.lanes.demods.get l).runs.head?) = some w → w.1 ≠ s.runNow l) →
    ∃ t, exec (.combinerUpdate l air) s = .next t ∧ Only [.lanes, .freeCount] s t
      ∧ (∀ ws, newWeights (s.lanes.demods.get l).weights (s.branchRun air l) (s.noiseOf l) = some ws →
          t.lanes.demods.get l = { s.lanes.demods.get l with weights := ws, runs := (s.runNow l, ws) :: (s.lanes.demods.get l).runs } ∧ t.freeCount = s.freeCount)
      ∧ (newWeights (s.lanes.demods.get l).weights (s.branchRun air l) (s.noiseOf l) = none →
          (t.lanes.demods.get l).weights.drop (s.branchRun air l).length = (s.lanes.demods.get l).weights.drop (s.branchRun air l).length
          ∧ t.freeCount = s.freeCount + 2 * (s.branchRun air l).length)
      ∧ ∀ i, i ≠ l → t.lanes.demods.get i = s.lanes.demods.get i)
  ∧ (∀ (s : State) (l : Nat) (air : Air), l < s.dies * 32 → s.dieRuns (laneDie l) = true → (s.taps.lanes.get l).active = true → (s.cfg.active.lanes.get l).mode.fm = true →
    (s.lanes.demods.get l).restartAt.isSome = true →
    ∃ t, exec (.pilotLockChange l air) s = .next t ∧ Only [.lanes, .link, .integ, .sec] s t
      ∧ t.lanes.demods.get l = { s.lanes.demods.get l with pilot := s.pilotInLock air l }
      ∧ ((s.lanes.demods.get l).pilot = false → s.pilotInLock air l = true → Raises s t .pilotLocked (laneDie l) [.w l])
      ∧ ((s.lanes.demods.get l).pilot = true → s.pilotInLock air l = false → Raises s t .pilotLost (laneDie l) [.w l])
      ∧ ∀ i, i ≠ l → t.lanes.demods.get i = s.lanes.demods.get i)
  ∧ (∀ (s : State) (l : Nat), l < s.dies * 32 → s.dieRuns (laneDie l) = true → (s.taps.lanes.get l).active = true → (s.cfg.active.lanes.get l).mode = .fmStereo → s.now % 200000 = 0 →
    (s.lanes.demods.get l).stereo ≠ (s.lanes.demods.get l).pilot →
    ∃ t, exec (.stereoSwitch l) s = .next t ∧ Only [.lanes] s t
      ∧ t.lanes.demods.get l = { s.lanes.demods.get l with
          stereo := (s.lanes.demods.get l).pilot, stereoAll := (s.lanes.demods.get l).stereoAll && (s.lanes.demods.get l).pilot
          stereoLog := (s.now, (s.lanes.demods.get l).pilot) :: (s.lanes.demods.get l).stereoLog.take 63 }
      ∧ ∀ i, i ≠ l → t.lanes.demods.get i = s.lanes.demods.get i)
  ∧ (∀ (s : State) (r : Rx) (stream k : Nat) (air : Air), s.rdsRuns r stream = true → s.dieRuns r.die = true → (s.rxRestart r).isSome = true →
    (((s.rdsOf r).streams.getD stream {}).synced = false →
      exec (.rdsBlock r stream air k) s = .next (unsyncedPosition r stream (s.rdsSought air r stream k) k ((s.rdsBits air r stream k).2).toNat s))
    ∧ (((s.rdsOf r).streams.getD stream {}).synced = true → k = ((s.rdsOf r).streams.getD stream {}).bit →
      exec (.rdsBlock r stream air k) s = .next (syncedPosition r stream (s.rdsAt air r stream (s.rdsCorrect r) k) false k ((s.rdsBits air r stream k).2).toNat s))
    ∧ (((s.rdsOf r).streams.getD stream {}).synced = true → k = ((s.rdsOf r).streams.getD stream {}).bit + 1 ∨ k + 1 = ((s.rdsOf r).streams.getD stream {}).bit →
      exec (.rdsBlock r stream air k) s = .next (if (s.rdsAt air r stream 0 k).flag = 0 ∧ (s.rdsAt air r stream (s.rdsCorrect r) ((s.rdsOf r).streams.getD stream {}).bit).flag = 3
        then syncedPosition r stream (s.rdsAt air r stream (s.rdsCorrect r) k) true k ((s.rdsBits air r stream k).2).toNat s else s)))
  ∧ (∀ (s : State) (r : Rx) (i k firstBit : Nat) (p : RdsPos), i < (s.rdsOf r).streams.length → p.flag = 0 →
    Only [.lanes, .audio, .link, .integ, .mode, .domains, .sec] s (unsyncedPosition r i p k firstBit s)
    ∧ (((s.rdsOf r).streams.getD i {}).prev = none →
        (unsyncedPosition r i p k firstBit s).link = s.link ∧ ((unsyncedPosition r i p k firstBit s).rdsOf r).streams.getD i {} = { (s.rdsOf r).streams.getD i {} with prev := some p, bit := k + 26 })
    ∧ (∀ a, ((s.rdsOf r).streams.getD i {}).prev = some a → k = ((s.rdsOf r).streams.getD i {}).bit → offsetOrder (s.rdsNrsc r) a.offset p.offset = true →
        Raises s (unsyncedPosition r i p k firstBit s) .rdsSyncGained r.die [.w r.kind, .w r.index, .w i]
        ∧ (((unsyncedPosition r i p k firstBit s).rdsOf r).streams.getD i {}).synced = true))
  ∧ (∀ (s : State) (r : Rx) (i k firstBit : Nat) (slip : Bool) (p : RdsPos), i < (s.rdsOf r).streams.length →
    Only [.lanes, .audio, .link, .integ, .mode, .domains, .sec] s (syncedPosition r i p slip k firstBit s)
    ∧ (p.flag = 3 → 20 ≤ (((true :: ((s.rdsOf r).streams.getD i {}).last50).take 50).filter id).length →
        (((syncedPosition r i p slip k firstBit s).rdsOf r).streams.getD i {}).synced = false
        ∧ Raises s (syncedPosition r i p slip k firstBit s) .rdsSyncLost r.die [.w r.kind, .w r.index, .w i]))
  ∧ (∀ (s : State) (l k : Nat) (air : Air), l < s.dies * 32 → s.dieRuns (laneDie l) = true → (s.taps.lanes.get l).active = true →
    (s.cfg.active.lanes.get l).mode.am = true → (s.cfg.active.lanes.get l).amssOn = true → (s.lanes.demods.get l).restartAt.isSome = true →
    ∃ t, exec (.amssBlock l air k) s = .next t ∧ Only [.lanes, .audio, .link, .integ, .sec] s t
      ∧ (t.lanes.demods.get l).amssSync = Config.amssSynced ((s.amssAt air l k).2.1 :: (s.lanes.demods.get l).amssChecks)
      ∧ (t.lanes.demods.get l).amssTotal = (s.lanes.demods.get l).amssTotal + 1
      ∧ (t.lanes.demods.get l).amssGood = (s.lanes.demods.get l).amssGood + (if (s.amssAt air l k).2.1 = 3 then 0 else 1)
      ∧ (t.lanes.demods.get l).rds.records.length = (s.lanes.demods.get l).rds.records.length + b2n (Config.amssSynced ((s.amssAt air l k).2.1 :: (s.lanes.demods.get l).amssChecks))
      ∧ (∀ v, (s.amssAt air l k).2.2 = some v → (s.amssAt air l k).2.1 ≠ 3 →
          (t.lanes.demods.get l).amssSid = v % 2 ^ 24 ∧ (t.lanes.demods.get l).amssSidValid = true ∧ (t.lanes.demods.get l).amssAt = s.now)
      ∧ (((s.amssAt air l k).2.2 = none ∨ (s.amssAt air l k).2.1 = 3) → (t.lanes.demods.get l).amssSidValid = (s.lanes.demods.get l).amssSidValid)
      ∧ ∀ i, i ≠ l → t.lanes.demods.get i = s.lanes.demods.get i)

/-- Records: the end of a measurement period gives the one record of what the lane measured of what came in, under HOLD cover the last one again, and starts the counts anew; an FM lane carries its mean offset forward; MPX_POWER_OVER is raised when the power rises above 0 dBr; a side-data span delivers the records whose last bit fell in it and keeps the others; a watch tap's period and a survey dwell do likewise, and the tap retunes to the next frequency of its list; a watch tap that fails its vector twice is retired (00 R9, 05 R142, R150, R157, R159, R160, 14 R375). -/
def Obligations.LaneRecords : Prop :=
  (∀ (s : State) (l : Nat) (air : Air) (late : Bool), l < s.dies * 32 → (s.taps.lanes.get l).active = true → s.laneDead l = false → s.dieUp (laneDie l) = true →
    ((s.cfg.active.lanes.get l).mode.fm = true ∨ (s.cfg.active.lanes.get l).mode.am = true) →
    s.now % measCounts (s.cfg.active.lanes.get l).measPeriod = 0 → (s.lanes.demods.get l).measuredTo < s.now →
    ∃ t, exec (.measurementPeriodEnd l air late) s = .next t ∧ Only [.lanes, .link, .integ, .sec] s t
      ∧ (t.lanes.demods.get l).lastRecord =
          (if s.heldIn l (s.now - measCounts (s.cfg.active.lanes.get l).measPeriod) s.now = true ∧ (s.lanes.demods.get l).lastRecord ≠ [] then (s.lanes.demods.get l).lastRecord
           else (s.laneMeasured air l (s.now - measCounts (s.cfg.active.lanes.get l).measPeriod) s.now).bytes s l (s.now - measCounts (s.cfg.active.lanes.get l).measPeriod))
      ∧ (t.lanes.demods.get l).measuredTo = s.now ∧ (t.lanes.demods.get l).amssGood = 0 ∧ (t.lanes.demods.get l).amssTotal = 0
      ∧ (∀ x ∈ (t.lanes.demods.get l).rds.streams, x.good = 0 ∧ x.total = 0)
      ∧ ((s.cfg.active.lanes.get l).mode.fm = true → (t.lanes.demods.get l).offsets =
          (s.now, s.periodOffset air l (s.now - measCounts (s.cfg.active.lanes.get l).measPeriod) s.now) :: (s.lanes.demods.get l).offsets.take 4095)
      ∧ ((s.cfg.active.lanes.get l).mode.fm = true → (s.lanes.demods.get l).powerArmed = true →
          ∀ p, (s.fmMeasured air l (s.now - measCounts (s.cfg.active.lanes.get l).measPeriod) s.now).mpxPower60s = some p → 0 < p → Raises s t .mpxPowerOver (laneDie l) [.w l, .w p])
      ∧ ((s.cfg.active.lanes.get l).mode.fm = false →
          (t.lanes.demods.get l).carrierLock = (s.amMeasured air l (s.now - measCounts (s.cfg.active.lanes.get l).measPeriod) s.now).carrierLock)
      ∧ ∀ i, i ≠ l → t.lanes.demods.get i = s.lanes.demods.get i)
  ∧ (∀ (s : State) (r : Rx) (air : Air), s.hasSideData r = true → s.dieUp r.die = true → s.now % 10000000 = 0 → (s.rdsOf r).spanTo < s.now →
    ∃ t, exec (.sideDataSpanEnd r air) s = .next t ∧ Only [.lanes, .link, .sec] s t
      ∧ t.rdsOf r = { s.rdsOf r with
          spanTo := s.now, records := (s.rdsOf r).records.filter fun y => decide (s.now ≤ y.1), fields := { (s.rdsOf r).fields with changed := 0 } })
  ∧ (∀ (s : State) (w : Nat) (air : Air) (late : Bool), s.watchRuns w = true → ((s.cfg.active.watches.get w).mode = .level ∨ (s.cfg.active.watches.get w).mode = .fm) →
    s.now % watchCounts (s.cfg.active.watches.get w).period = 0 → (s.lanes.watches.get w).measuredTo < s.now →
    ∃ t, exec (.watchTapPeriodEnd w air late) s = .next t ∧ Only [.lanes, .audio, .link] s t ∧ (∀ x ∈ (t.lanes.watches.get w).rds.streams, x.good = 0 ∧ x.total = 0)
      ∧ (t.lanes.watches.get w).measuredTo = s.now ∧ (t.lanes.watches.get w).freq = (s.lanes.watches.get w).freq ∧ ∀ i, i ≠ w → t.lanes.watches.get i = s.lanes.watches.get i)
  ∧ (∀ (s : State) (w : Nat) (air : Air) (late : Bool), s.watchRuns w = true → (s.cfg.active.watches.get w).mode = .survey → s.dieRuns (watchDie w) = true → s.now % 1000000 = 0 →
    (s.lanes.watches.get w).dwellStart + (s.cfg.active.watches.get w).dwell * 1000000 ≤ s.now →
    ∃ t, exec (.surveyDwellEnd w air late) s = .next t ∧ Only [.taps, .lanes, .link] s t
      ∧ (t.lanes.watches.get w).listIndex = (if (s.cfg.active.watches.get w).freqs.length ≤ (s.lanes.watches.get w).listIndex + 1 then 0 else (s.lanes.watches.get w).listIndex + 1)
      ∧ (t.lanes.watches.get w).freq = (s.cfg.active.watches.get w).freqs.getD (t.lanes.watches.get w).listIndex (s.lanes.watches.get w).freq
      ∧ (t.lanes.watches.get w).preempted = false ∧ (t.lanes.watches.get w).dwellStart = s.now ∧ (t.lanes.watches.get w).restartAt = none
      ∧ ∀ i, i ≠ w → t.lanes.watches.get i = s.lanes.watches.get i)
  ∧ (∀ (s : State) (w : Nat), s.watchRuns w = true → s.dieRuns (watchDie w) = true →
    (∃ t, exec (.watchTapKat w true true) s = .next t ∧ Only [.spans, .link, .integ, .mode, .sec, .nv, .modeCode] s t ∧ t.retired (watchRef w) = true
      ∧ Raises s t .unitRetired (watchRef w).die [.w (watchRef w).kind.type, .w (watchRef w).die, .w (watchRef w).loc, .w 0])
    ∧ ∀ b, exec (.watchTapKat w false b) s = .next s ∧ exec (.watchTapKat w b false) s = .next s)

/-! ### Sample blocks, OFDM engines (06, 10) -/

/-- Blocks of streams, of PCM rings and of inputs: a stream's block is formed once every suppression that can reach it is known, or at once where an armed edge or reload ends it; the block of each captured stream takes its ring's next sequence number, a stage that saturated sets its sticky flag; a PCM ring's block takes the next number, after a changed mask has come into force at its block boundary, and each block is formed once; an input's block lets the next one begin 2 ms later, and a block cut short by an armed edge leaves the next one where the edge put it (02 R42, R67, 03 R97, 04 R121, R129, 09 R266, 10 R298, R304, R308). -/
def Obligations.SampleBlocks : Prop :=
  (∀ (s : State) (x : StreamId) (t0 stop fault : Nat) (air : Air) (old late choked : Bool), s.streamRuns x = true → s.blockEnd x.die t0 old = some stop →
    (old = true ∨ s.frozenIn x.die t0 stop = true ∨ s.blockKnown x t0 = true) →
    ∃ t, exec (.streamBlockFormed x t0 air fault old late choked) s = .next t ∧ Only [.taps, .link, .integ, .sec] s t
      ∧ (s.mode.mode ≠ .halted → ∀ r, r ∈ s.captureRings x t0 old → (t.link.rings.get r).sequence = (s.link.rings.get r).sequence + 1)
      ∧ (∀ r, r ∉ s.captureRings x t0 old → t.link.rings.get r = s.link.rings.get r)
      ∧ (t.taps.bandTaps.get x.cluster).satSticky =
          ((s.taps.bandTaps.get x.cluster).satSticky || maskBit (s.blockSat x fault (s.blockSamples (if old then s.beforeEdge x.die else s) air x t0 stop)) 3)
      ∧ (∀ l, x = .lane l → maskBit (s.blockSat x fault (s.blockSamples (if old then s.beforeEdge x.die else s) air x t0 stop)) 0 = true →
          ((s.taps.lanes.get l).forBlock s.now).satHalving = false → (t.taps.lanes.get l).satHalving = true ∧ Raises s t .laneSaturated (laneDie l) [.w l, .w 0]))
  ∧ (∀ (s : State) (r t0 stop : Nat) (air : Air), s.mode.mode.receiving = true → 32 ≤ r → r < 96 → (s.link.rings.get r).pcmNext = none → (s.link.rings.get r).pcmMask ≠ 0 →
    s.dieUp (s.link.rings.get r).pcmDie = true → s.blockEnd (s.link.rings.get r).pcmDie t0 false = some stop → stop ≤ s.now →
    ((s.link.rings.get r).pcmEdges < (s.clk.get (s.link.rings.get r).pcmDie).edges ∨ (s.link.rings.get r).pcmFrom ≤ t0) →
    ∃ t, exec (.pcmBlockFormed r t0 air false) s = .next t ∧ Only [.audio, .link] s t
      ∧ (t.link.rings.get r).sequence = (s.link.rings.get r).sequence + 1 ∧ (t.link.rings.get r).pcmMask = (s.link.rings.get r).pcmMask
      ∧ (t.link.rings.get r).pcmFrom = stop ∧ (t.link.rings.get r).pcmEdges = (s.clk.get (s.link.rings.get r).pcmDie).edges
      ∧ ∀ i, i ≠ r → t.link.rings.get i = s.link.rings.get i)
  ∧ (∀ (s : State) (r t0 o v : Nat) (air : Air), s.mode.mode.receiving = true → 32 ≤ r → r < 96 → (s.link.rings.get r).pcmNext = none → (s.link.rings.get r).pcmMask ≠ 0 →
    s.dieUp (s.link.rings.get r).pcmDie = true → (s.clk.get (s.link.rings.get r).pcmDie).edge = some (o, v) → t0 < o → o ≤ nextOf countsPerBlock t0 → t0 % 200000 = 0 →
    (s.link.rings.get r).pcmEdges + 1 = (s.clk.get (s.link.rings.get r).pcmDie).edges → (s.link.rings.get r).pcmFrom ≤ t0 →
    ∃ t, exec (.pcmBlockFormed r t0 air true) s = .next t ∧ Only [.taps, .audio, .link, .integ, .sec] s t
      ∧ (t.link.rings.get r).sequence = (s.link.rings.get r).sequence + 1 ∧ (t.link.rings.get r).pcmFrom = v
      ∧ (t.link.rings.get r).pcmEdges = (s.clk.get (s.link.rings.get r).pcmDie).edges ∧ ∀ i, i ≠ r → t.link.rings.get i = s.link.rings.get i)
  ∧ (∀ (s : State) (r t0 stop at_ mask die : Nat) (air : Air), s.mode.mode.receiving = true → 32 ≤ r → r < 96 → (s.link.rings.get r).pcmNext = some (at_, mask, die) → at_ ≤ t0 →
    s.dieUp die = true → s.dieUp 0 = true → s.blockEnd die t0 false = some stop → stop ≤ s.now →
    ((s.link.rings.get r).pcmEdges < (s.clk.get die).edges ∨ (s.link.rings.get r).pcmFrom ≤ t0) →
    ∃ t, exec (.pcmBlockFormed r t0 air false) s = .next t ∧ Only [.audio, .link, .integ, .sec] s t
      ∧ (t.link.rings.get r).pcmMask = mask ∧ (t.link.rings.get r).pcmDie = die ∧ (t.link.rings.get r).pcmNext = none
      ∧ Raises s t .ringMaskChanged die [.w r, .q (s.link.rings.get r).sequence.toNat]
      ∧ (mask = 0 → (t.link.rings.get r).sequence = (s.link.rings.get r).sequence))
  ∧ (∀ (s : State) (d : Nat) (air : Air), s.hasPort (.inp d) = true → s.dieUp d = true → (s.portSt (.inp d)).phase = .running → (s.portSt (.inp d)).cut = none →
    nextOf 200000 (s.portSt (.inp d)).nextBlock ≤ s.now →
    ∃ t, exec (.inputBlockFormed d air) s = .next t ∧ Only [.ports, .link, .sec] s t
      ∧ t.portSt (.inp d) = { s.portSt (.inp d) with nextBlock := nextOf 200000 (s.portSt (.inp d)).nextBlock }
      ∧ ∀ i, i ≠ (PortId.inp d).key → t.ports.ports.get i = s.ports.ports.get i)
  ∧ (∀ (s : State) (d : Nat) (air : Air) (c : Nat × Nat), s.hasPort (.inp d) = true → s.dieUp d = true → (s.portSt (.inp d)).phase = .running → (s.portSt (.inp d)).cut = some c →
    ∃ t, exec (.inputBlockFormed d air) s = .next t ∧ Only [.ports, .link, .sec] s t
      ∧ t.portSt (.inp d) = { s.portSt (.inp d) with cut := none } ∧ ∀ i, i ≠ (PortId.inp d).key → t.ports.ports.get i = s.ports.ports.get i)

/-- OFDM reception: a DAB signal is synchronised by a frame of transmission mode I within ±FREQ_SEARCH, whose control blocks then count; a frame where tracking expects one keeps it, the third in succession without loses it; a CIF is decoded once its symbols are in, and one with the count announced brings the reconfiguration into force; a TII period delivers one record and reports what it finds for the first time; a DRM frame likewise, with its FAC counted; a feed that has been missing for 400 ms restarts the signal (06 R171, R172, R173, R174, R175, R177, R180, R184, R185, R186). -/
def Obligations.OfdmReception : Prop :=
  (∀ (s : State) (e l : Nat) (air : Air), s.engineRuns e .dab = true → (s.cfg.active.engines.get e).positions.contains 0 = true → s.feedLane e 0 = some l → (s.signal e 0).cifsDone = 4 →
    ((s.cfg.active.engines.get e).tiiOn = true → (s.ofdm.engines.get e).tii.frames < (s.cfg.active.engines.get e).tiiFrames) →
    ((s.signal e 0).synced = false →
      exec (.dabFrame e air) s = .next (if (s.dabTiming air e l).1.acquires (s.cfg.active.engines.get e).freqSearch = true ∧ (s.dabTiming air e l).2 + (dabOffset 5 : Nat) ≤ s.feedNow l s.now + 1
        then takeDabFrame e l air (s.dabTiming air e l).1 (s.dabTiming air e l).2 (frameSync e 0 0 true s) else s))
    ∧ (∀ f n0 found, (s.signal e 0).synced = true → (s.signal e 0).frameAt = some f → frameAfter f dabFrameLen (s.dabTiming air e l).1.present (s.dabTiming air e l).2 = (found, n0) →
      n0 + (dabOffset 5 : Nat) ≤ s.feedNow l s.now + 1 → (s.signal e 0).lostFrames < 2 ∨ (found || s.dabErased l n0 0 || s.dabErased l n0 1) = true →
      exec (.dabFrame e air) s = .next (takeDabFrame e l air (if found then (s.dabTiming air e l).1 else { (s.dabTiming air e l).1 with offset := (s.signal e 0).freqOffset }) n0
        (frameSync e 0 (s.feedInstant l (n0 + (dabFrameLen : Nat))) (found || s.dabErased l n0 0 || s.dabErased l n0 1) s)))
    ∧ (∀ f n0 found, (s.signal e 0).synced = true → (s.signal e 0).frameAt = some f → frameAfter f dabFrameLen (s.dabTiming air e l).1.present (s.dabTiming air e l).2 = (found, n0) →
      n0 + (dabOffset 5 : Nat) ≤ s.feedNow l s.now + 1 → 2 ≤ (s.signal e 0).lostFrames → (found || s.dabErased l n0 0 || s.dabErased l n0 1) = false →
      exec (.dabFrame e air) s = .next (restartSignal e 0 (s.feedInstant l (n0 + (dabFrameLen : Nat))) s)))
  ∧ (∀ (s : State) (e p stop : Nat),
    ((frameSync e p stop true s).signal e p).synced = true ∧ ((frameSync e p stop true s).signal e p).lostFrames = 0
    ∧ ((s.signal e p).synced = false → Raises s (frameSync e p stop true s) .ofdmSyncGained (engineDie e) [.w e, .w p])
    ∧ ((s.signal e p).synced = true → (s.signal e p).lostFrames < 2 → frameSync e p stop false s = s.setSignal e p fun x => { x with lostFrames := x.lostFrames + 1 })
    ∧ ((restartSignal e p stop s).signal e p).synced = false ∧ ((restartSignal e p stop s).signal e p).restartSeen = true ∧ ((restartSignal e p stop s).signal e p).acqFrom = stop
    ∧ ((restartSignal e p stop s).ofdm.engines.get e).restarts = (s.ofdm.engines.get e).restarts + 1
    ∧ ((s.signal e p).synced = true → Raises s (restartSignal e p stop s) .ofdmSyncLost (engineDie e) [.w e, .w p]))
  ∧ (∀ (s : State) (e l : Nat) (air : Air) (r : DabTiming) (n0 : Int),
    let t := takeDabFrame e l air r n0 s
    Only [.ofdm, .audio, .link, .integ, .mode, .domains, .mb, .sec] s t
    ∧ (t.signal e 0).synced = (s.signal e 0).synced ∧ (t.signal e 0).lostFrames = (s.signal e 0).lostFrames ∧ (t.signal e 0).frameAt = some n0 ∧ (t.signal e 0).cifsDone = 0
    ∧ (t.signal e 0).ctrlTotal = (s.signal e 0).ctrlTotal + (s.ficOf air l r.offset n0).1.length
    ∧ (t.signal e 0).ctrlFail = (s.signal e 0).ctrlFail + (s.ficOf air l r.offset n0).1.countP (fun f => !f.crcOk))
  ∧ (∀ (s : State) (e l : Nat) (n0 : Int) (air : Air), s.engineRuns e .dab = true → (s.signal e 0).synced = true → s.feedLane e 0 = some l → (s.signal e 0).frameAt = some n0 →
    (s.signal e 0).cifsDone < 4 → n0 + (dabOffset (cifSymbol ((s.signal e 0).cifsDone + 1)) : Nat) ≤ s.feedNow l s.now + 1 →
    ∃ t, exec (.cifDecoded e air) s = .next t ∧ Only [.ofdm, .audio, .link, .integ, .mb, .sec] s t
      ∧ (t.signal e 0).cifsDone = (s.signal e 0).cifsDone + 1 ∧ (t.signal e 0).cifTotal = (s.signal e 0).cifTotal + 1 ∧ (t.signal e 0).synced = true
      ∧ (∀ c, (s.signal e 0).frameCif = some c → (s.signal e 0).reconfigAt = some ((c + (s.signal e 0).cifsDone) % 5000) →
          (t.signal e 0).reconfigAt = none ∧ (t.signal e 0).reconfigSeen = true
          ∧ ∃ m, Raises s t .ensembleReconfig (engineDie e) [.w e, .w (0 : Nat), .w ((c + (s.signal e 0).cifsDone) % 5000 : Nat), .q m])
      ∧ ((∀ c, (s.signal e 0).frameCif = some c → (s.signal e 0).reconfigAt ≠ some ((c + (s.signal e 0).cifsDone) % 5000)) →
          (t.signal e 0).reconfigAt = (s.signal e 0).reconfigAt ∧ (t.signal e 0).current = (s.signal e 0).current))
  ∧ (∀ (s : State) (e l : Nat), s.engineRuns e .dab = true → (s.engineEntryAt e (s.ofdm.engines.get e).tii.doneAt).tiiOn = true → (s.signal e 0).synced = true → s.feedLane e 0 = some l →
    (s.engineEntryAt e (s.ofdm.engines.get e).tii.doneAt).tiiFrames ≤ (s.ofdm.engines.get e).tii.frames →
    ∃ t, exec (.tiiPeriodEnd e) s = .next t ∧ Only [.ofdm, .link, .integ, .sec] s t ∧ (t.ofdm.engines.get e).tii = {}
      ∧ (∃ r : EngineRec, (t.ofdm.engines.get e).side = (s.ofdm.engines.get e).side ++ [r] ∧ r.doneAt = (s.ofdm.engines.get e).tii.doneAt ∧ r.erased = (s.ofdm.engines.get e).tii.erased)
      ∧ (∀ y ∈ (s.engineEntryAt e (s.ofdm.engines.get e).tii.doneAt).tiiFound (s.ofdm.engines.get e).tii, y.snr.isSome = true →
          (∀ z ∈ (s.ofdm.engines.get e).tiiSeen, z.main = y.main → z.sub ≠ y.sub) → Raises s t .tiiNew (engineDie e) [.w e, .w y.main, .w y.sub, .w y.delay]))
  ∧ (∀ (s : State) (e p l : Nat) (air : Air), s.engineRuns e .drm = true → (s.cfg.active.engines.get e).positions.contains p = true → s.feedLane e p = some l →
    ((s.signal e p).synced = false →
      exec (.drmFrame e p air) s = .next (if (s.drmTiming air e p l).1.present = true ∧ (s.drmTiming air e p l).1.offset.natAbs ≤ (s.cfg.active.engines.get e).freqSearch * 10000
          ∧ (s.drmTiming air e p l).2 + (drmFrameLen : Nat) ≤ s.feedNow l s.now + 1
        then takeDrmFrame e p l air (s.drmTiming air e p l).1 (s.drmTiming air e p l).2 (frameSync e p 0 true s) else s))
    ∧ (∀ f n0 found, (s.signal e p).synced = true → (s.signal e p).frameAt = some f →
      frameAfter f drmFrameLen ((s.drmTiming air e p l).1.present && decide ((s.drmTiming air e p l).1.mode = (s.signal e p).mode)) (s.drmTiming air e p l).2 = (found, n0) →
      n0 + (drmFrameLen : Nat) ≤ s.feedNow l s.now + 1 → (s.signal e p).lostFrames < 2 ∨ (found || s.drmErased l (s.signal e p).mode n0 0) = true →
      exec (.drmFrame e p air) s = .next (takeDrmFrame e p l air
        (if found then (s.drmTiming air e p l).1 else { (s.drmTiming air e p l).1 with mode := (s.signal e p).mode, offset := (s.signal e p).freqOffset }) n0
        (frameSync e p (s.feedInstant l (n0 + (drmFrameLen : Nat))) (found || s.drmErased l (s.signal e p).mode n0 0) s))))
  ∧ (∀ (s : State) (e p l : Nat) (air : Air) (r : DrmTiming) (n0 : Int),
    let t := takeDrmFrame e p l air r n0 s
    let ok := facCrcOk (Config.drmFac r.mode (s.drmCells air l r.mode r.offset n0)).1
    Only [.ofdm, .audio, .link, .integ, .mode, .domains, .mb, .sec] s t
    ∧ (t.signal e p).synced = (s.signal e p).synced ∧ (t.signal e p).lostFrames = (s.signal e p).lostFrames ∧ (t.signal e p).frameAt = some n0
    ∧ (t.signal e p).ctrlTotal = (s.signal e p).ctrlTotal + 1 ∧ (t.signal e p).ctrlFail = (s.signal e p).ctrlFail + (if ok then 0 else 1)
    ∧ ((s.signal e p).reconfigAt = some (s.signal e p).frameCount → ∃ m, Raises s t .ensembleReconfig (engineDie e) [.w e, .w p, .w (s.signal e p).frameCount, .q m]))
  ∧ (∀ (s : State) (e p l : Nat), e < s.dies * 4 → s.dieRuns (engineDie e) = true → (s.cfg.active.engines.get e).positions.contains p = true → s.feedLane e p = some l →
    s.feedGone l (s.signal e p) = true →
    ∃ t, exec (.feedMissingTimeout e p) s = .next t ∧ Only [.ofdm, .link, .integ, .mode, .domains, .sec] s t
      ∧ (t.signal e p).synced = false ∧ (t.signal e p).restartSeen = true ∧ (t.signal e p).acqFrom = s.feedAhead e p ∧ (t.ofdm.engines.get e).restarts = (s.ofdm.engines.get e).restarts + 1
      ∧ ((s.signal e p).synced = true → Raises s t .ofdmSyncLost (engineDie e) [.w e, .w p]) ∧ ∀ i, i ≠ e → t.ofdm.engines.get i = s.ofdm.engines.get i)

/-- Records of the engines and the check of engines against one another: once all that completes in a span has been made, its end delivers it, and a measurement period's end starts the counts anew; of an index left unserved neither gives records; a window of the cross-assay, at 100 ms or 600 ms of the second, copies the partner's state to the checker and ends with the partner's check time or with a difference, which the vectors resolve: an engine that fails them is charged, with both passing the one whose repeat differs; the vectors and one clean window end a restoration (06 R182, R187, R190, R191, R193, R194, R195, 14 R375). -/
def Obligations.EngineChecks : Prop :=
  (∀ (s : State) (e : Nat) (late : Bool), e < s.dies * 4 → (s.cfg.active.engines.get e).cls ≠ .off → s.dieUp (engineDie e) = true → s.mode.mode ≠ .idle →
    (s.ofdm.engines.get e).spanTo < s.engineSpanEnd e → (s.engineUnserved e = true ∨ s.engineCaughtUp e (s.engineSpanEnd e) = true) →
    ∃ t, exec (.engineRecordSpanEnd e late) s = .next t ∧ Only [.ofdm, .link, .sec] s t
      ∧ (t.ofdm.engines.get e).side = (s.ofdm.engines.get e).side.filter (fun r => decide (s.engineSpanEnd e ≤ r.doneAt))
      ∧ (t.ofdm.engines.get e).units = (s.ofdm.engines.get e).units.filter (fun r => decide (s.engineSpanEnd e ≤ r.doneAt))
      ∧ (t.ofdm.engines.get e).spanTo = s.engineSpanEnd e
      ∧ (t.ofdm.engines.get e).signals = (s.ofdm.engines.get e).signals ∧ ∀ i, i ≠ e → t.ofdm.engines.get i = s.ofdm.engines.get i)
  ∧ (∀ (s : State) (e : Nat) (air : Air) (late : Bool), e < s.dies * 4 → (s.cfg.active.engines.get e).cls ≠ .off → s.dieUp (engineDie e) = true →
    (s.ofdm.engines.get e).measuredTo < s.engineMeasEnd e → (s.engineUnserved e = true ∨ s.engineCaughtUp e (s.engineMeasEnd e) = true) →
    ∃ t, exec (.engineMeasPeriodEnd e air late) s = .next t ∧ Only [.ofdm, .link, .sec] s t ∧ (t.ofdm.engines.get e).measuredTo = s.engineMeasEnd e
      ∧ (s.engineUnserved e = false → ∀ k ∈ (s.cfg.active.engines.get e).positions, t.signal e k = (s.signal e k).endPeriod)
      ∧ (∀ k, (s.engineUnserved e = true ∨ k ∉ (s.cfg.active.engines.get e).positions) → t.signal e k = s.signal e k))
  ∧ (∀ x : SignalSt, x.endPeriod.ctrlTotal = 0 ∧ x.endPeriod.ctrlFail = 0 ∧ x.endPeriod.sdcTotal = 0 ∧ x.endPeriod.berBits = 0 ∧ x.endPeriod.merSum = (0, 0)
    ∧ x.endPeriod.synced = x.synced ∧ x.endPeriod.current = x.current ∧ ∀ y ∈ x.endPeriod.subs, y.auTotal = 0 ∧ y.auFail = 0 ∧ y.rsFail = 0)
  ∧ (∀ (s : State) (d p : Nat), s.crossAssays d p = true → s.checksPartner d p = true → s.now % 100000000 = windowAt p →
    ∃ t, exec (.crossAssayWindow d p) s = .next t ∧ Only [.ofdm] s t
      ∧ t.ofdm.regions.get (d * 2 + p / 2) = { s.ofdm.regions.get (d * 2 + p / 2) with
          checking := some (p, s.now), copy := some (s.ofdm.engines.get (s.indexOfPhys d (partnerOf p))), difference := none }
      ∧ t.ofdm.engines = s.ofdm.engines ∧ ∀ g, g ≠ d * 2 + p / 2 → t.ofdm.regions.get g = s.ofdm.regions.get g)
  ∧ (∀ (s : State) (d region p start : Nat) (differs : Bool), d < s.dies → s.dieRuns d = true → region < 2 → (s.ofdm.regions.get (d * 2 + region)).checking = some (p, start) →
    start + 2400000 ≤ s.now → (s.ofdm.regions.get (d * 2 + region)).restore = none →
    ∃ t, exec (.crossAssayCompareEnd d region differs) s = .next t ∧ Only [.ofdm] s t
      ∧ (t.ofdm.regions.get (d * 2 + region)).checking = none ∧ (t.ofdm.regions.get (d * 2 + region)).copy = none
      ∧ (differs = true → (t.ofdm.regions.get (d * 2 + region)).difference = some ⟨p, partnerOf p, start⟩ ∧ t.ofdm.phys = s.ofdm.phys)
      ∧ (differs = false → (t.ofdm.phys.get (d * 4 + partnerOf p)).lastCheckTick = tick32 s.now ∧ (t.ofdm.regions.get (d * 2 + region)).difference = (s.ofdm.regions.get (d * 2 + region)).difference))
  ∧ (∀ (s : State) (d p start : Nat) (differs : Bool), d < s.dies → s.dieRuns d = true → p < 4 → (s.ofdm.regions.get (d * 2 + p / 2)).checking = some (p, start) → start + 2400000 ≤ s.now →
    (s.ofdm.regions.get (d * 2 + p / 2)).restore = some (partnerOf p, true) →
    ∃ t, exec (.crossAssayCompareEnd d (p / 2) differs) s = .next t ∧ Only [.spans, .ofdm, .link, .integ, .mode, .mb, .sec, .nv, .retirement, .modeCode] s t
      ∧ (t.ofdm.regions.get (d * 2 + p / 2)).restore = none
      ∧ (differs = false → t.retired (engineRef d (partnerOf p)) = false)
      ∧ (differs = true → t.nv = s.nv ∧ Raises s t .engineRestored d [.w (0xFFFFFFFF : Nat)]))
  ∧ (∀ (s : State) (d p : Nat) (failed : List EngineUnit), d < s.dies → p < 4 → s.dieRuns d = true → (s.ofdm.regions.get (d * 2 + p / 2)).restore = some (p, false) →
    ∃ t, exec (.engineKatVectors d p failed) s = .next t
      ∧ (failed = [] → Only [.ofdm] s t ∧ t.ofdm.regions.get (d * 2 + p / 2) = { s.ofdm.regions.get (d * 2 + p / 2) with restore := some (p, true) })
      ∧ (failed ≠ [] → t.nv = s.nv ∧ (t.ofdm.regions.get (d * 2 + p / 2)).restore = none ∧ Raises s t .engineRestored d [.w (0xFFFFFFFF : Nat)]))
  ∧ (∀ (s : State) (d p : Nat) (failed : List EngineUnit), d < s.dies → p < 4 → s.dieRuns d = true → (s.ofdm.regions.get (d * 2 + p / 2)).restore = none → s.crossAssays d p = true →
    (s.ofdm.phys.get (d * 4 + p)).katNext ≤ s.now / 100000000 → (s.ofdm.regions.get (d * 2 + p / 2)).difference = none →
    ∃ t, exec (.engineKatVectors d p failed) s = .next t ∧ Only [.ofdm] s t ∧ (t.ofdm.phys.get (d * 4 + p)).katNext = s.now / 100000000 + 1
      ∧ (t.ofdm.regions.get (d * 2 + p / 2)).difference = (if failed = [] then none else some ⟨partnerOf p, p, s.now⟩))
  ∧ (∀ (s : State) (d region : Nat) (f : EngineDiff) (cf pf : List EngineUnit) (rd : Bool), d < s.dies → s.dieRuns d = true → region < 2 →
    (s.ofdm.regions.get (d * 2 + region)).difference = some f → s.retired (engineRef d f.checker) = false → s.retired (engineRef d f.partner) = false →
    ∃ t, exec (.engineDifferenceResolved d region cf pf rd) s = .next t ∧ Only [.spans, .ofdm, .link, .integ, .mode, .domains, .sec, .nv, .modeCode] s t
      ∧ (cf ≠ [] → Raises s t .engineMismatch d [.w (d * 4 + f.checker), .w (d * 4 + f.partner), .q f.window])
      ∧ (cf = [] → pf ≠ [] → Raises s t .engineMismatch d [.w (d * 4 + f.partner), .w (d * 4 + f.checker), .q f.window])
      ∧ (cf = [] → pf = [] → rd = true → Raises s t .engineMismatch d [.w (d * 4 + f.checker), .w (d * 4 + f.checker), .q f.window])
      ∧ (cf = [] → pf = [] → rd = false → Raises s t .engineMismatch d [.w (d * 4 + f.partner), .w (d * 4 + f.checker), .q f.window]))

/-! ### Follow sets and slots (07, 08) -/

/-- Follow sets: a 100 ms period ends once and neither switches nor touches a fade that runs; an estimate of the delay is made once a second when both members have had valid audio for its span, a void one counts for nothing, three good ones near their median lock it, one within 2 samples follows it; a fade starts at F0 with FOLLOW_SWITCH and ends at F1 with playing and standby exchanged and the delay turned round; a measured candidate takes the figure of merit of its measurement and the tap's dwell begins anew; a verification older than VERIFY_AGE lapses; a record is formed each second (07 R204, R208, R210, R211, R214, R216, R223). -/
def Obligations.FollowSets : Prop :=
  (∀ (s : State) (f : Nat) (air : Air), s.followRuns f = true → (s.audio.follows.get f).periodTo < s.now / 10000000 * 10000000 →
    ∃ t, exec (.followPeriodEnd f air) s = .next t ∧ Only [.taps, .lanes, .ofdm, .audio, .link, .cfg, .integ, .mode, .domains, .sec] s t
      ∧ (t.audio.follows.get f).periodTo = s.now / 10000000 * 10000000
      ∧ (t.audio.follows.get f).playing = (s.audio.follows.get f).playing ∧ (t.audio.follows.get f).switches = (s.audio.follows.get f).switches
      ∧ (∀ d, (s.audio.follows.get f).fade = some d → (t.audio.follows.get f).fade = some d ∧ (t.audio.follows.get f).standby = (s.audio.follows.get f).standby))
  ∧ (∀ (s : State) (f k a b : Nat) (air : Air), s.followRuns f = true → (s.audio.follows.get f).standby = some k →
    ((s.audio.follows.get f).members.getD (s.audio.follows.get f).playing {}).validSince = some a → ((s.audio.follows.get f).members.getD k {}).validSince = some b →
    a + (corrSeconds (s.cfg.active.follows.get f).corrWindow + 5) * 100000000 ≤ s.now → b + (corrSeconds (s.cfg.active.follows.get f).corrWindow + 5) * 100000000 ≤ s.now →
    (s.audio.follows.get f).estimatedTo < s.now / 100000000 * 100000000 →
    ∃ t, exec (.delayEstimate f air) s = .next t ∧ Only [.audio, .link, .integ, .sec] s t
      ∧ (t.audio.follows.get f).estimatedTo = s.now / 100000000 * 100000000
      ∧ (s.delayEstimate air f k (s.now / 100000000 * 100000000) = none →
          t.audio.follows.get f = { s.audio.follows.get f with rho := none, estimatedTo := s.now / 100000000 * 100000000 } ∧ t.link = s.link)
      ∧ (∀ q q1 q2 rest, s.delayEstimate air f k (s.now / 100000000 * 100000000) = some q → (s.audio.follows.get f).locked = false → (s.audio.follows.get f).ests = q1 :: q2 :: rest →
          (∀ e ∈ [q, q1, q2], (s.cfg.active.follows.get f).corrMin * 100 ≤ e.2 ∧ (e.1 - median3 q.1 q1.1 q2.1).natAbs ≤ 32) →
          (t.audio.follows.get f).locked = true ∧ (t.audio.follows.get f).delta = median3 q.1 q1.1 q2.1
          ∧ Raises s t .followDelayLocked (followDie f) [.w f, .w (median3 q.1 q1.1 q2.1), .w q.2])
      ∧ (∀ q, s.delayEstimate air f k (s.now / 100000000 * 100000000) = some q → (s.audio.follows.get f).locked = true →
          (q.1 - (s.audio.follows.get f).delta).natAbs ≤ 32 → (s.cfg.active.follows.get f).corrMin * 100 ≤ q.2 →
          (t.audio.follows.get f).locked = true ∧ (t.audio.follows.get f).delta = q.1)
      ∧ ∀ i, i ≠ f → t.audio.follows.get i = s.audio.follows.get i)
  ∧ (∀ (s : State) (f k : Nat) (d : Fade), s.followRuns f = true → (s.audio.follows.get f).fade = some d → (s.audio.follows.get f).standby = some k → d.started = false → d.f0 ≤ s.now →
    ∃ t, exec (.fadeStart f) s = .next t ∧ Only [.audio, .link, .integ, .sec] s t
      ∧ t.audio.follows.get f = { s.audio.follows.get f with
          fade := some { d with started := true }, lastF0 := d.f0, switches := (s.audio.follows.get f).switches + 1, lastSwitchTick := tick32 d.f0 }
      ∧ Raises s t .followSwitch (followDie f) [.w f, .w d.reason.code, .w (s.audio.follows.get f).playing, .w k, .q d.f0, .q d.f1,
          .w (if (s.audio.follows.get f).locked then (s.audio.follows.get f).delta else 0x80000000), .w (b2n (!d.aligned))]
      ∧ ∀ i, i ≠ f → t.audio.follows.get i = s.audio.follows.get i)
  ∧ (∀ (s : State) (f k : Nat) (d : Fade), s.followRuns f = true → (s.audio.follows.get f).fade = some d → (s.audio.follows.get f).standby = some k → d.started = true → d.f1 ≤ s.now →
    ∃ t, exec (.fadeEnd f) s = .next t ∧ Only [.audio] s t
      ∧ (t.audio.follows.get f).playing = k ∧ (t.audio.follows.get f).standby = some (s.audio.follows.get f).playing ∧ (t.audio.follows.get f).fade = none
      ∧ (t.audio.follows.get f).faded = some d ∧ (t.audio.follows.get f).locked = (s.audio.follows.get f).locked
      ∧ (t.audio.follows.get f).delta = -(s.audio.follows.get f).delta ∧ (t.audio.follows.get f).dPlaying = (s.audio.follows.get f).dStandby
      ∧ (t.audio.follows.get f).dStandby = (s.audio.follows.get f).dPlaying ∧ ∀ i, i ≠ f → t.audio.follows.get i = s.audio.follows.get i)
  ∧ (∀ (s : State) (f w freq typ : Nat) (air : Air), s.followRuns f = true → (s.audio.follows.get f).measuring.find? (fun m => m.1 = w) = some (w, freq, typ) →
    s.now % 1000000 = 0 → (s.lanes.watches.get w).dwellStart + (s.cfg.active.follows.get f).candDwell * 10000000 ≤ s.now →
    ∃ t, exec (.candidateDwellEnd f w air) s = .next t ∧ Only [.taps, .lanes, .audio, .cfg] s t
      ∧ (∀ c ∈ (t.audio.follows.get f).cands, c.freq = freq → c.typ = typ →
          c.fom = some ((s.cfg.active.follows.get f).tapFom typ
            (s.levelUv (s.clusterCourse (watchCluster w)) (((s.front.courses.get (s.clusterCourse (watchCluster w))).leader).getD 0) freq (s.lanes.watches.get w).dwellStart
              (s.watchMeasured air w (s.lanes.watches.get w).dwellStart ((s.lanes.watches.get w).dwellStart + (s.cfg.active.follows.get f).candDwell * 10000000)).rfMean)
            (s.watchMeasured air w (s.lanes.watches.get w).dwellStart ((s.lanes.watches.get w).dwellStart + (s.cfg.active.follows.get f).candDwell * 10000000)).mpIndex))
      ∧ (t.audio.follows.get f).cands.map (fun c => (c.freq, c.typ, c.verifiedAt)) = (s.audio.follows.get f).cands.map (fun c => (c.freq, c.typ, c.verifiedAt))
      ∧ (t.lanes.watches.get w).dwellStart = s.now)
  ∧ (∀ (s : State) (f : Nat), s.followRuns f = true →
    ∃ t, exec (.verificationLapse f) s = .next t ∧ Only [.audio, .link, .integ, .sec] s t
      ∧ (∀ c ∈ (t.audio.follows.get f).cands, ∀ v, c.verifiedAt = some v → s.now < v + (s.cfg.active.follows.get f).age)
      ∧ (∀ m ∈ (t.audio.follows.get f).members, ∀ v, m.verifiedAt = some v → s.now < v + (s.cfg.active.follows.get f).age)
      ∧ (∀ c ∈ (s.audio.follows.get f).cands, ∀ v, c.verifiedAt = some v → v + (s.cfg.active.follows.get f).age ≤ s.now →
          Raises s t .followUnverified (followDie f) [.w f, .w c.freq, .w c.ident]))
  ∧ (∀ (s : State) (f : Nat), f < s.dies * 16 → (s.cfg.active.follows.get f).enable = true → s.dieUp (followDie f) = true → s.mode.mode ≠ .halted →
    (s.audio.follows.get f).recordedTo < s.now / 100000000 * 100000000 →
    ∃ t, exec (.followRecord f) s = .next t ∧ Only [.audio, .link] s t
      ∧ t.audio.follows.get f = { s.audio.follows.get f with recordedTo := s.now / 100000000 * 100000000 }
      ∧ (∀ i, i ≠ f → t.audio.follows.get i = s.audio.follows.get i)
      ∧ (∀ r ∈ s.routeRings .measurement (followDie f) (fun e => maskBit e.followMask (f % 16)), (t.link.rings.get r).sequence = (s.link.rings.get r).sequence + 1)
      ∧ (∀ r, r ∉ s.routeRings .measurement (followDie f) (fun e => maskBit e.followMask (f % 16)) → t.link.rings.get r = s.link.rings.get r))

/-- Decode contexts: a received unit joins the wait with what its codec says of it; one with a codec the part does not decode raises CODEC_UNSUPPORTED once, a change of rate or channels CODEC_CHANGE; when its first sample is due a good unit that is finished is decoded, one that is missing or lost is filled, one that is not finished is late and zero, one without a codec is muted; a slot or context that fails its vector twice is retired (08 R228, R230, R231, R232, R235, R248). -/
def Obligations.DecodeContexts : Prop :=
  (∀ (s : State) (k x : Nat) (u : AccessUnit) (rest : List AccessUnit), s.contextSlot k = some x → (s.audio.contexts.get k).inbox = u :: rest → k < s.dies * 48 → s.slotOn x = true →
    s.retired (contextRef k) = false →
    ∃ t, exec (.accessUnitReceived k) s = .next t ∧ Only [.audio, .link, .integ, .sec] s t
      ∧ t.audio.contexts.get k = { s.audio.contexts.get k with
          inbox := rest, codec := some u.codec, unsupported := !codecSupported u.codec
          queue := (s.audio.contexts.get k).queue ++ [⟨u, false, u.auIndex * (Config.audioFormat u.codec u.payload).2.2,
            (Config.audioFormat u.codec u.payload).1, (Config.audioFormat u.codec u.payload).2.1, (Config.audioFormat u.codec u.payload).2.2⟩] }
      ∧ (codecSupported u.codec = false → (s.audio.contexts.get k).unsupported = false →
          Raises s t .codecUnsupported (slotDie x) [.w x, .w k, .w u.codec, .w (Config.audioFormat u.codec u.payload).1, .w (Config.audioFormat u.codec u.payload).2.1])
      ∧ (codecSupported u.codec = true → u.crcOk = true → u.erased = false → u.rsFailed = false → (s.audio.contexts.get k).lastFormat.1 ≠ 0 →
          (s.audio.contexts.get k).lastFormat ≠ ((Config.audioFormat u.codec u.payload).1, (Config.audioFormat u.codec u.payload).2.1) →
          Raises s t .codecChange (slotDie x) [.w x, .w k, .w u.codec, .w (Config.audioFormat u.codec u.payload).1, .w (Config.audioFormat u.codec u.payload).2.1])
      ∧ ∀ i, i ≠ k → t.audio.contexts.get i = s.audio.contexts.get i)
  ∧ (∀ (s : State) (k x : Nat) (n : Int) (finished : Bool) (h : HeldUnit) (rest : List HeldUnit), s.contextSlot k = some x → k < s.dies * 48 → s.slotOn x = true →
    s.retired (contextRef k) = false → s.unitDue k = some n → n ≤ gridFloor s.now → (s.audio.contexts.get k).nextUnit = some h → (s.audio.contexts.get k).queue = h :: rest →
    ∃ t, exec (.auDue k finished) s = .next t ∧ Only [.audio, .link, .integ, .sec] s t ∧ (t.audio.contexts.get k).queue = rest
      ∧ (t.audio.slots.get x).auTotal = (s.audio.slots.get x).auTotal + 1
      ∧ ((h.lost = false ∧ h.unit.crcOk = true ∧ h.unit.erased = false ∧ h.unit.rsFailed = false) → codecSupported h.unit.codec = true → finished = true →
          (t.audio.contexts.get k).auDecoded = (s.audio.contexts.get k).auDecoded + 1 ∧ (t.audio.contexts.get k).afterLoss = false ∧ (t.audio.contexts.get k).inRun = false
          ∧ (t.audio.contexts.get k).fOut = h.rate ∧ (t.audio.contexts.get k).channels = h.channels ∧ (t.audio.contexts.get k).decoding = true
          ∧ (t.audio.contexts.get k).memory = (Config.audioDecode h.unit.codec (s.audio.contexts.get k).memory h.unit.payload).1
          ∧ (t.audio.contexts.get k).units.head? = some
              { start := (s.audio.contexts.get k).stop, base := h.unit.doneAt, first := h.first, rate := h.rate
                samples := (Config.audioDecode h.unit.codec (s.audio.contexts.get k).memory h.unit.payload).2, flags := h.unit.flags &&& feedCarried
                overlap := if (s.audio.contexts.get k).afterLoss then Config.audioOverlap h.unit.codec h.rate else 0 }
          ∧ (t.audio.slots.get x).auLost = (s.audio.slots.get x).auLost ∧ (t.audio.slots.get x).auLate = (s.audio.slots.get x).auLate)
      ∧ ((h.lost = false ∧ h.unit.crcOk = true ∧ h.unit.erased = false ∧ h.unit.rsFailed = false) → codecSupported h.unit.codec = true → finished = false →
          (s.audio.contexts.get k).segs ≠ [] →
          (t.audio.contexts.get k).auLate = (s.audio.contexts.get k).auLate + 1 ∧ (t.audio.slots.get x).auLate = (s.audio.slots.get x).auLate + 1
          ∧ (t.audio.contexts.get k).afterLoss = true
          ∧ (t.audio.contexts.get k).units.head? = some
              { start := (s.audio.contexts.get k).stop, base := h.unit.doneAt, first := h.first, rate := h.rate
                samples := List.replicate h.length (0, 0), flags := flLate ||| (h.unit.flags &&& feedCarried) })
      ∧ ((h.lost = false ∧ h.unit.crcOk = true ∧ h.unit.erased = false ∧ h.unit.rsFailed = false) → codecSupported h.unit.codec = false →
          (t.audio.contexts.get k).decoding = false ∧ (t.audio.contexts.get k).units.head? = some
              { start := (s.audio.contexts.get k).stop, base := h.unit.doneAt, first := h.first, rate := h.rate
                samples := List.replicate h.length (0, 0), flags := flMuted ||| (h.unit.flags &&& feedCarried) })
      ∧ ((h.lost = true ∨ h.unit.crcOk = false ∨ h.unit.erased = true ∨ h.unit.rsFailed = true) →
          (t.audio.slots.get x).auLost = (s.audio.slots.get x).auLost + 1
          ∧ ((s.audio.contexts.get k).segs ≠ [] → (t.audio.contexts.get k).inRun = true ∧ (t.audio.contexts.get k).afterLoss = true
              ∧ ((t.audio.contexts.get k).units.head?.map (·.flags)) = some (flFill ||| (h.unit.flags &&& feedCarried)))
          ∧ ((s.audio.contexts.get k).segs = [] → (t.audio.contexts.get k).units = (s.audio.contexts.get k).units))
      ∧ (∀ i, i ≠ k → t.audio.contexts.get i = s.audio.contexts.get i) ∧ ∀ i, i ≠ x → t.audio.slots.get i = s.audio.slots.get i)
  ∧ (∀ (s : State) (k x : Nat) (n : Int) (finished : Bool) (u : PcmUnit), s.contextSlot k = some x → k < s.dies * 48 → s.slotOn x = true → s.retired (contextRef k) = false →
    s.unitDue k = some n → n ≤ gridFloor s.now → (s.audio.contexts.get k).nextUnit = none → (s.audio.contexts.get k).segs ≠ [] → (s.audio.contexts.get k).units.head? = some u →
    ∃ t, exec (.auDue k finished) s = .next t ∧ Only [.audio] s t ∧ (t.audio.slots.get x).auLost = (s.audio.slots.get x).auLost + 1
      ∧ (t.audio.contexts.get k).queue = (s.audio.contexts.get k).queue ∧ (t.audio.contexts.get k).inRun = true ∧ (t.audio.contexts.get k).afterLoss = true
      ∧ (t.audio.contexts.get k).units.head? = some
          { start := (s.audio.contexts.get k).stop, base := u.base, first := u.first + u.samples.length, rate := u.rate
            samples := if (s.audio.contexts.get k).inRun then List.replicate u.samples.length (0, 0)
              else (Config.audioConceal ((s.audio.contexts.get k).codec.getD 0) (s.audio.contexts.get k).memory u.samples.length).2
            flags := flFill ||| s.unitCarried x none })
  ∧ (∀ (s : State) (i : Nat), i < s.dies * 48 → s.dieRuns (contextRef i).die = true → s.retired (contextRef i) = false →
    (∃ t, exec (.slotKat true i true true) s = .next t ∧ Only [.spans, .link, .integ, .mode, .sec, .nv, .modeCode] s t ∧ t.retired (contextRef i) = true
      ∧ Raises s t .contextRetired (contextRef i).die [.w ((contextRef i).die * 48 + (contextRef i).loc : Nat), .q s.now])
    ∧ ∀ b, exec (.slotKat true i false b) s = .next s ∧ exec (.slotKat true i b false) s = .next s)
  ∧ (∀ (s : State) (i : Nat), i < s.dies * 64 → s.dieRuns (slotRef i).die = true → s.retired (slotRef i) = false →
    (∃ t, exec (.slotKat false i true true) s = .next t ∧ Only [.spans, .link, .integ, .mode, .sec, .nv, .modeCode] s t ∧ t.retired (slotRef i) = true
      ∧ Raises s t .slotRetired (slotRef i).die [.w ((slotRef i).die * 64 + (slotRef i).loc : Nat), .q s.now])
    ∧ ∀ b, exec (.slotKat false i false b) s = .next s ∧ exec (.slotKat false i b false) s = .next s)

/-- Slot measurements: each window judges the slot's audio heard up to its end, once; the rate follower corrects within ±1,000 ppm up to 20 ms of error and else re-anchors at the block boundary with SLOT_RESYNC; loudness blocks above −70 LUFS are gated in; SILENCE_MIN silent windows in succession start silence, a louder one ends it; five windows of a class declare it, ten of PROGRAMME end it; three estimates decide the match; a record's period starts anew (08 R233, R234, R238, R239, R240, R241, R242, R243). -/
def Obligations.SlotMeasurements : Prop :=
  (∀ (s : State) (k x : Nat) (u : PcmUnit) (us : List PcmUnit) (q : FollowerSeg) (qs : List FollowerSeg) (z eps : Int), s.contextSlot k = some x → s.slotOn x = true →
    (s.audio.contexts.get k).fresh = true → (s.audio.contexts.get k).units = u :: us → (s.audio.contexts.get k).segs = q :: qs →
    z = q.place + ((gridFloor s.now : Nat) - q.at_) * (1000000000 + q.corr) → eps = s.followerError k (gridFloor s.now : Nat) z u →
    ∃ t, exec (.rateFollowerUpdate k) s = .next t ∧ Only [.audio] s t
      ∧ (960000000000 < eps.natAbs → t.audio.contexts.get k = { s.audio.contexts.get k with fresh := false, eps := eps, resync := true })
      ∧ (eps.natAbs ≤ 960000000000 →
          (t.audio.contexts.get k).fresh = false ∧ (t.audio.contexts.get k).eps = eps ∧ (t.audio.contexts.get k).epsSum = (s.audio.contexts.get k).epsSum + eps
          ∧ -1000000 ≤ (t.audio.contexts.get k).corr ∧ (t.audio.contexts.get k).corr ≤ 1000000 ∧ (t.audio.contexts.get k).resync = (s.audio.contexts.get k).resync
          ∧ (t.audio.contexts.get k).segs.head? = some ⟨(gridFloor s.now : Nat), z, (t.audio.contexts.get k).corr⟩)
      ∧ ∀ i, i ≠ k → t.audio.contexts.get i = s.audio.contexts.get i)
  ∧ (∀ (s : State) (k x : Nat) (u : PcmUnit) (us : List PcmUnit), s.contextSlot k = some x → s.slotOn x = true → (s.audio.contexts.get k).resync = true →
    (s.audio.contexts.get k).units = u :: us → s.now % 200000 = 0 →
    ∃ t, exec (.slotResync k) s = .next t ∧ Only [.audio, .link, .integ, .sec] s t
      ∧ (t.audio.contexts.get k).resync = false ∧ (t.audio.contexts.get k).eps = 0 ∧ (t.audio.contexts.get k).epsSum = 0 ∧ (t.audio.slots.get x).resyncSeen = true
      ∧ (∃ place, (t.audio.contexts.get k).segs.head? = some ⟨(gridCeil s.now : Nat), place, (s.audio.contexts.get k).corr⟩
          ∧ t.followerError k (gridCeil s.now : Nat) place u = 0)
      ∧ Raises s t .slotResync (slotDie x) [.w x, .w ((s.audio.contexts.get k).eps / 480000), .q s.now]
      ∧ (∀ i, i ≠ k → t.audio.contexts.get i = s.audio.contexts.get i) ∧ ∀ i, i ≠ x → t.audio.slots.get i = s.audio.slots.get i)
  ∧ (∀ (s : State) (x t1 : Nat) (air : Air) (y : SlotSt) (z : Option Nat), s.slotOn x = true → t1 = s.now / 10000000 * 10000000 → (s.audio.slots.get x).loudTo < t1 →
    y = (hearSlot air x t1 s).audio.slots.get x → z = y.blockPower (gridCeil t1 - 19200) (gridCeil t1) →
    ∃ t, exec (.loudnessBlock x air) s = .next t ∧ Only [.audio, .sec] s t
      ∧ (t.audio.slots.get x).recent = (z :: y.recent).take 30 ∧ (t.audio.slots.get x).loudTo = t1
      ∧ (z = none → t.audio.slots.get x = { y with recent := (none :: y.recent).take 30, loudTo := t1 })
      ∧ (∀ v, z = some v → (t.audio.slots.get x).zLast = some v ∧ (t.audio.slots.get x).zMax = some (max v (y.zMax.getD 0)))
      ∧ (∀ v, z = some v → -7000 < loudOf v → (t.audio.slots.get x).integ = y.integ ++ [v] ∧ (t.audio.slots.get x).zCount = y.zCount + 1 ∧ (t.audio.slots.get x).zSum = y.zSum + v)
      ∧ (∀ v, z = some v → loudOf v ≤ -7000 → (t.audio.slots.get x).integ = y.integ ∧ (t.audio.slots.get x).zCount = y.zCount ∧ (t.audio.slots.get x).zSum = y.zSum)
      ∧ ∀ i, i ≠ x → t.audio.slots.get i = s.audio.slots.get i)
  ∧ (∀ (s : State) (x t1 at_ : Nat) (air : Air) (y : SlotSt) (peak : Option Int), s.slotOn x = true → t1 = s.now / 1000000 * 1000000 → (s.audio.slots.get x).silentTo < t1 →
    y = (hearSlot air x t1 s).audio.slots.get x → peak = peakOf (y.between (gridCeil (t1 - 1000000)) (gridCeil t1)) →
    at_ = t1 - 1000000 - ((hearSlot air x t1 s).slotLatency x (gridCeil (t1 - 1000000))).getD 0 →
    ∃ t, exec (.silenceWindow x air) s = .next t ∧ Only [.audio, .link, .integ, .sec] s t ∧ (t.audio.slots.get x).silentTo = t1
      ∧ (peak = none → t.audio.slots.get x = { y with silentTo := t1, unknownWindows := y.unknownWindows + 1 })
      ∧ (∀ p, peak = some p → p ≤ (s.cfg.active.slots.get x).silenceLevel →
          (t.audio.slots.get x).silentRun = y.silentRun + 1 ∧ (t.audio.slots.get x).silentWindows = y.silentWindows + 1
          ∧ (y.silent = false → (s.cfg.active.slots.get x).silenceMin * 10 ≤ y.silentRun + 1 →
              (t.audio.slots.get x).silent = true ∧ Raises s t .silenceStart (slotDie x) [.w x, .q (t.audio.slots.get x).runOut, .q (t.audio.slots.get x).runAir])
          ∧ (y.silent = false → y.silentRun + 1 < (s.cfg.active.slots.get x).silenceMin * 10 → (t.audio.slots.get x).silent = false ∧ t.link = s.link))
      ∧ (∀ p, peak = some p → (s.cfg.active.slots.get x).silenceLevel < p → (t.audio.slots.get x).silentRun = 0 ∧ (t.audio.slots.get x).silent = false
          ∧ (y.silent = true → Raises s t .silenceEnd (slotDie x) [.w x, .q (t1 - 1000000 : Nat), .q at_]))
      ∧ ∀ i, i ≠ x → t.audio.slots.get i = s.audio.slots.get i)
  ∧ (∀ (s : State) (x t1 : Nat) (air : Air) (y : SlotSt) (cls : Option Nat), s.slotOn x = true → (s.cfg.active.slots.get x).classify ≠ 0 → t1 = s.now / 20000000 * 20000000 →
    (s.audio.slots.get x).classTo < t1 → y = (hearSlot air x t1 s).audio.slots.get x → cls = (hearSlot air x t1 s).classHeard x t1 →
    ∃ t, exec (.classifierWindow x air) s = .next t ∧ Only [.audio, .link, .integ, .sec] s t ∧ (t.audio.slots.get x).classTo = t1
      ∧ (cls = none → t.audio.slots.get x = { y with classTo := t1 } ∧ t.link = s.link)
      ∧ (∀ c, cls = some c → (t.audio.slots.get x).clsCand = c)
      ∧ (∀ c, cls = some c → 0 < c → c = y.clsCand → 4 ≤ y.clsRun →
          (t.audio.slots.get x).cls = c ∧ (y.cls ≠ c → Raises s t .nonAudioStart (slotDie x) [.w x, .w c, .q s.now]))
      ∧ (∀ c, cls = some c → 0 < c → (c ≠ y.clsCand ∨ y.clsRun < 4) → (t.audio.slots.get x).cls = y.cls ∧ t.link = s.link)
      ∧ (cls = some 0 → y.clsCand = 0 → 9 ≤ y.clsRun →
          (t.audio.slots.get x).cls = 0 ∧ (y.cls ≠ 0 → Raises s t .nonAudioEnd (slotDie x) [.w x, .w y.cls, .q s.now]))
      ∧ ∀ i, i ≠ x → t.audio.slots.get i = s.audio.slots.get i)
  ∧ (∀ (s : State) (x e : Nat), s.slotUp x = true → s.dieRuns (slotDie x) = true → (s.audio.slots.get x).muteEnds = some e → e ≤ s.now →
    ∃ t, exec (.nonAudioMuteEnd x) s = .next t ∧ Only [.audio] s t
      ∧ t.audio.slots.get x = { s.audio.slots.get x with muteEnds := none, spans := closeClass e (s.audio.slots.get x).spans } ∧ ∀ i, i ≠ x → t.audio.slots.get i = s.audio.slots.get i)
  ∧ (∀ (s : State) (x t1 : Nat) (air : Air) (y : SlotSt) (est : Option MatchEst), s.slotOn x = true → (s.cfg.active.slots.get x).matchKind ≠ 0 → t1 = s.now / 100000000 * 100000000 →
    (s.audio.slots.get x).matchTo < t1 → y = (hearSlot air x t1 s).audio.slots.get x →
    est = ((hearSlot air x t1 s).setSlot x fun y => { y with matchTo := t1 }).matchFound air x t1 →
    ∃ t, exec (.matchEstimate x air) s = .next t ∧ Only [.audio, .link, .integ, .sec] s t ∧ (t.audio.slots.get x).matchTo = t1
      ∧ (est = none → t.audio.slots.get x = { y with matchTo := t1, matchLast := none })
      ∧ (∀ a, est = some a → (t.audio.slots.get x).matchLast = some a)
      ∧ (∀ a b c rest, est = some a → y.matchEsts = b :: c :: rest →
          (∀ e ∈ [a, b, c], (s.cfg.active.slots.get x).matchMin * 100 ≤ e.rho ∧ (e.lag - median3 a.lag b.lag c.lag).natAbs ≤ 32) →
          (t.audio.slots.get x).matchSt = .matched ∧ (y.matchSt ≠ .matched → Raises s t .matchGained (slotDie x) [.w x, .w a.lag, .w a.rho, .w a.gain]))
      ∧ (∀ a b c rest, est = some a → y.matchEsts = b :: c :: rest → (∀ e ∈ [a, b, c], e.rho < (s.cfg.active.slots.get x).matchMin * 100) →
          (t.audio.slots.get x).matchSt = .mismatched ∧ (y.matchSt ≠ .mismatched → Raises s t .matchLost (slotDie x) [.w x, .w a.lag, .w a.rho, .w a.gain]))
      ∧ ∀ i, i ≠ x → t.audio.slots.get i = s.audio.slots.get i)
  ∧ (∀ (s : State) (x p : Nat) (air : Air) (late : Bool), s.slotUp x = true → s.mode.mode ≠ .halted → p = (if (s.cfg.active.slots.get x).measLong then 100000000 else 10000000) →
    (s.audio.slots.get x).measuredTo < s.now / p * p →
    ∃ t, exec (.slotMeasPeriodEnd x air late) s = .next t ∧ Only [.audio, .link, .sec] s t ∧ (t.audio.slots.get x).measuredTo = s.now / p * p
      ∧ (t.audio.slots.get x).auTotal = 0 ∧ (t.audio.slots.get x).silentWindows = 0 ∧ (t.audio.slots.get x).zMax = none ∧ (t.audio.slots.get x).zCount = 0
      ∧ (t.audio.slots.get x).resyncSeen = false ∧ (t.audio.slots.get x).integ = (s.audio.slots.get x).integ
      ∧ (∀ r ∈ s.routeRings .measurement (slotDie x) (fun e => maskBit e.slotMask (x % 64)), (t.link.rings.get r).sequence = (s.link.rings.get r).sequence + 1)
      ∧ (∀ r, r ∉ s.routeRings .measurement (slotDie x) (fun e => maskBit e.slotMask (x % 64)) → t.link.rings.get r = s.link.rings.get r)
      ∧ ∀ i, i ≠ x → t.audio.slots.get i = s.audio.slots.get i)

/-! ### Audio ports and their clocks (09) -/

/-- A port from its start to its stop: at its tick a stopped port takes its staged mask and begins the pre-roll, or waits for its clock; at the pre-roll's end it runs and says so; a stop begins the post-roll, at whose end the port is stopped with PORT_STOPPED; a frozen port resumes with its clock; a rate switch and a return from the follower take effect at their boundaries; its counts are cleared (09 R257, R260, R264, R265, R267, R268, R273). -/
def Obligations.PortLifecycle : Prop :=
  (∀ (s : State) (p : PortId) (at_ : Nat), s.hasPort p = true → (s.portSt p).startAt = some at_ → at_ ≤ s.now → (s.portSt p).phase.isStopped = true →
    ∃ t, exec (.portStartTick p) s = .next t ∧ Only [.ports, .link, .mb] s t ∧ (t.portSt p).startAt = none ∧ (t.portSt p).mask = (s.portSt p).entry.mask
      ∧ ((s.portSt p).entry.amclk = true → (s.ports.amclks.get p.die).qualified = false → (t.portSt p).phase = .awaitingClock)
      ∧ (((s.portSt p).entry.amclk = false ∨ (s.ports.amclks.get p.die).qualified = true) →
          (t.portSt p).phase = .preRoll ∧ (t.portSt p).dataStart = dataStartFor at_ (s.portSt p).entry ∧ (t.portSt p).resuming = false)
      ∧ ∀ i, i ≠ p.key → t.ports.ports.get i = s.ports.ports.get i)
  ∧ (∀ (s : State) (p : PortId), s.hasPort p = true → (s.portSt p).phase = .preRoll → (s.portSt p).dataStart + (if p.isInput = true then 0 else renderDelay) ≤ s.now →
    ∃ t, exec (.portPrerollEnd p) s = .next t ∧ Only [.ports, .link, .integ, .sec] s t
      ∧ (t.portSt p).phase = .running ∧ (t.portSt p).resuming = false
      ∧ ((s.portSt p).resuming = false → (t.portSt p).nextBlock = (s.portSt p).dataStart ∧ Raises s t .portStarted p.die [.w p.word, .q (s.portSt p).dataStart, .w (0 : Nat)])
      ∧ ((s.portSt p).resuming = true → (t.portSt p).nextBlock = (s.portSt p).nextBlock ∧ Raises s t .portResumed p.die [.w p.word, .q s.now, .q (s.portSt p).dataStart])
      ∧ ∀ i, i ≠ p.key → t.ports.ports.get i = s.ports.ports.get i)
  ∧ (∀ (s : State) (p : PortId) (at_ : Nat), s.hasPort p = true → (s.portSt p).stopAt = some at_ → at_ ≤ s.now →
    ∃ t, exec (.portStopTick p) s = .next t ∧ Only [.ports, .link, .integ, .mb, .sec] s t ∧ (t.portSt p).stopAt = none
      ∧ ((s.portSt p).phase = .running → blockFloor at_ ≤ (s.portSt p).dataStart →
          (t.portSt p).phase = .postRoll ∧ (t.portSt p).stopFrom = blockFloor at_ ∧ (t.portSt p).postEnd = at_ + (s.portSt p).entry.postRoll * 100000)
      ∧ ((s.portSt p).phase = .running → (s.portSt p).dataStart < blockFloor at_ →
          (t.portSt p).phase = .postRoll ∧ (t.portSt p).stopFrom = blockFloor at_
          ∧ (t.portSt p).postEnd = blockFloor at_ + (s.portSt p).entry.postRoll * 100000 + (if p.isInput = true then 0 else renderDelay))
      ∧ ((s.portSt p).phase = .frozen → (t.portSt p).phase = .stopped ∧ Raises s t .portStopped p.die [.w p.word, .q (blockFloor at_), .w (0 : Nat)])
      ∧ ∀ i, i ≠ p.key → t.ports.ports.get i = s.ports.ports.get i)
  ∧ (∀ (s : State) (p : PortId), s.hasPort p = true → (s.portSt p).phase = .postRoll → (s.portSt p).postEnd ≤ s.now →
    ∃ t, exec (.portPostrollEnd p) s = .next t ∧ Only [.clk, .spans, .ports, .link, .integ, .domains, .sec] s t ∧ (t.portSt p).phase = .stopped
      ∧ Raises s t .portStopped p.die [.w p.word, .q (s.portSt p).stopFrom, .w (0 : Nat)] ∧ ∀ i, i ≠ p.key → t.ports.ports.get i = s.ports.ports.get i)
  ∧ (∀ (s : State) (p : PortId), s.hasPort p = true → ((s.portSt p).phase = .frozen ∨ (s.portSt p).phase = .awaitingClock) → (s.ports.amclks.get p.die).qualified = true →
    nextOf 200000 (s.ports.amclks.get p.die).qualifiedAt ≤ s.now →
    ∃ t, exec (.portResume p) s = .next t ∧ Only [.ports] s t ∧ (t.portSt p).phase = .preRoll ∧ (t.portSt p).dataStart = dataStartFor s.now (s.portSt p).entry
      ∧ ((t.portSt p).resuming = true ↔ (s.portSt p).phase = .frozen) ∧ (t.portSt p).mask = (s.portSt p).mask ∧ ∀ i, i ≠ p.key → t.ports.ports.get i = s.ports.ports.get i)
  ∧ (∀ (s : State) (p : PortId) (n since : Nat) (back : PortPhase), s.hasPort p = true → (s.portSt p).phase = .reconfiguring → (s.portSt p).switchTo = some (n, back, since) →
    nextOf 200000 since ≤ s.now →
    ∃ t, exec (.portRateSwitch p) s = .next t ∧ Only [.ports] s t ∧ (t.portSt p).phase = back ∧ (t.portSt p).nom = n ∧ (t.portSt p).switchTo = none ∧ (t.portSt p).locked = false
      ∧ (t.portSt p).filled = (s.portSt p).filled ∧ ∀ i, i ≠ p.key → t.ports.ports.get i = s.ports.ports.get i)
  ∧ (∀ (s : State) (p : PortId), s.hasPort p = true → (s.portSt p).onFollower = true → (s.portSt p).entry.amclk = false → (s.clk.get p.die).aud.locked = true →
    (s.clk.get p.die).aud.coasting = false → s.now % 200000 = 0 →
    ∃ t, exec (.portLeaveFollower p) s = .next t ∧ Only [.ports] s t ∧ (t.portSt p).onFollower = false ∧ (t.portSt p).rateCorr = 0 ∧ (t.portSt p).locked = false
      ∧ (t.portSt p).phase = (s.portSt p).phase ∧ ∀ i, i ≠ p.key → t.ports.ports.get i = s.ports.ports.get i)
  ∧ (∀ (s : State) (p : PortId), s.barUp = true → s.dieUp p.die = true → s.hasPort p = true →
    ∃ t, exec (.portClearCounts p) s = .next t ∧ Only [.ports, .mode] s t ∧ t.mode = { s.mode with lastAccess := s.now } ∧ t.portSt p = { s.portSt p with filled := 0, discarded := 0, slips := 0 }
      ∧ t.ports.amclks.get p.die = { s.ports.amclks.get p.die with glitches := 0, stops := 0 })

/-- What a port carries: each frame start of a clocked output sends a frame of sixteen channels, each rendered by its own modulator: the slots' words where content is due and there, idle before B, from B_p on and beyond the mask, zero or idle where a fill frame takes the place of content that is missing; it opens an underrun, counts what came too late, and marks a line whose read-back differs; the follower's correction stays within ±1,000 ppm, it locks and unlocks, and slips a frame at its limit; an input line that does not move for 64 frames is stuck (09 R254, R255, R256, R258, R260, R262, R263, R264, R265, R270). -/
def Obligations.PortTraffic : Prop :=
  (∀ (s : State) (d late n m : Nat) (air : Air) (present due : Bool) (diffs : List Nat), s.hasPort (.out d) = true → (s.portSt (.out d)).phase.clocked = true →
    n = gridIndex (s.now - 300000) → m = (s.portSt (.out d)).maskAt (gridInstant n) → due = (s.portSt (.out d)).dataDue n →
    ∃ t, exec (.portFrameStart d air present late diffs) s = .next t ∧ Only [.ports, .link, .integ, .sec] s t
      ∧ (∃ bits, t.link.sent = s.link.sent ++ [.frame d n bits] ∧ bits.length = 16
          ∧ (∀ i < 16, (due = false ∨ (maskList 128 m).length ≤ i) →
              bits.getD i [] = idleBits i (s.portSt (.out d)).frameBits)
          ∧ (∀ i < 16, due = true → present = true → (s.portSt (.out d)).fillLeft = 0 → i < (maskList 128 m).length →
              ((t.portSt (.out d)).mods.getD i {}, bits.getD i []) =
                ((s.portSt (.out d)).mods.getD i {}).render (s.portSt (.out d)).frameBits i (s.portWord air d ((maskList 128 m).getD i 0) n))
          ∧ (∀ i < 16, due = true → (present = false ∨ 0 < (s.portSt (.out d)).fillLeft) → i < (maskList 128 m).length →
              ((t.portSt (.out d)).mods.getD i {}, bits.getD i []) =
                ((s.portSt (.out d)).mods.getD i {}).render (s.portSt (.out d)).frameBits i (if (s.portSt (.out d)).entry.gapSilence then .zero else .idle)))
      ∧ (t.portSt (.out d)).phase = (s.portSt (.out d)).phase
      ∧ (t.portSt (.out d)).discarded = (s.portSt (.out d)).discarded + BitVec.ofNat 32 late
      ∧ (due = false → (t.portSt (.out d)).filled = (s.portSt (.out d)).filled)
      ∧ (due = true → present = true → (s.portSt (.out d)).fillLeft = 0 → (t.portSt (.out d)).filled = (s.portSt (.out d)).filled)
      ∧ (due = true → present = false → (t.portSt (.out d)).filled = (s.portSt (.out d)).filled + 1 ∧ (t.portSt (.out d)).underrun.isSome = true)
      ∧ (late ≠ 0 → Raises s t .portOverrun d [.w (PortId.out d).word, .q (gridInstant (n - late)), .w late])
      ∧ (∀ i, i < 9 → (s.portSt (.out d)).lineFault = 0 → 8 ≤ diffs.getD i 0 → (∀ j, j < i → diffs.getD j 0 < 8) → Raises s t .portLineFault d [.w (PortId.out d).word, .w i]))
  ∧ (∀ (s : State) (p : PortId) (err : Int), s.hasPort p = true → (s.portSt p).onFollower = true → (s.portSt p).phase.clocked = true →
    ∃ t, exec (.portFollowerUpdate p err) s = .next t ∧ Only [.ports, .link, .integ, .sec] s t
      ∧ -1000000 ≤ (t.portSt p).rateCorr ∧ (t.portSt p).rateCorr ≤ 1000000 ∧ (t.portSt p).errSum = (s.portSt p).errSum + err
      ∧ (t.portSt p).fifoLevel = wrapInt 16 (roundDiv (err * 48) 6250) ∧ (t.portSt p).atLimit = decide ((t.portSt p).rateCorr.natAbs = 1000000)
      ∧ ((s.portSt p).locked = true → ((t.portSt p).locked = true ↔ err.natAbs ≤ 2000))
      ∧ ((s.portSt p).locked = false → 500 < err.natAbs → (t.portSt p).locked = false ∧ (t.portSt p).goodSince = none)
      ∧ ((s.portSt p).locked = false → err.natAbs ≤ 500 → ∀ g, (s.portSt p).goodSince = some g → ((t.portSt p).locked = true ↔ g + 100000000 ≤ s.now))
      ∧ ((s.portSt p).locked = false → err.natAbs ≤ 500 → (s.portSt p).goodSince = none → (t.portSt p).goodSince = some s.now)
      ∧ ((t.portSt p).atLimit = true → 6250 ≤ 6 * err.natAbs → (t.portSt p).slips = satInc (s.portSt p).slips
          ∧ Raises s t .portSlip p.die [.w p.word, .w (b2n (!decide (0 < err))), .q (gridInstant (gridIndex (s.now - if p.isInput then 0 else 300000)))])
      ∧ (((t.portSt p).atLimit = false ∨ 6 * err.natAbs < 6250) → (t.portSt p).slips = (s.portSt p).slips ∧ t.link = s.link)
      ∧ ∀ i, i ≠ p.key → t.ports.ports.get i = s.ports.ports.get i)
  ∧ (∀ (s : State) (d : Nat) (frame : Int) (air : Air), s.hasPort (.inp d) = true → (s.portSt (.inp d)).phase.clocked = true →
    ∃ t, exec (.inputFrameReceived d frame air) s = .next t ∧ Only [.ports, .link, .integ, .sec] s t ∧ (t.portSt (.inp d)).phase = (s.portSt (.inp d)).phase
      ∧ (∀ i, i < 4 → (t.portSt (.inp d)).levels.getD i false = ((s.portSt (.inp d)).movedIn air d frame i).2)
      ∧ (∀ i, i < 4 → ((s.portSt (.inp d)).movedIn air d frame i).1 = true → (t.portSt (.inp d)).quietFrames.getD i 0 = 0)
      ∧ (∀ i, i < 4 → ((s.portSt (.inp d)).movedIn air d frame i).1 = false → i < (s.portSt (.inp d)).quietFrames.length →
          (t.portSt (.inp d)).quietFrames.getD i 0 = (s.portSt (.inp d)).quietFrames.getD i 0 + 1)
      ∧ (∀ i, i < 4 → ((s.portSt (.inp d)).movedIn air d frame i).1 = false → 64 ≤ (s.portSt (.inp d)).quietFrames.getD i 0 + 1 →
          (∀ k ∈ (s.portSt (.inp d)).stuck, k.line = i → k.span.stop.isSome = true) →
          Raises s t .inputLineStuck d [.w (PortId.inp d).word, .w i, .w (0 : Nat)]))

/-- External audio clocks: a clock that stops is no longer qualified, is counted and freezes the ports that run on it, internally clocked ones stay as they are; one that qualifies again returns; the second block out of tolerance changes the rate: with AUTO_RATE every clocked port on it goes to the new nominal's divider at the next block boundary, without it, or away from every nominal, it stops for RATE; glitches are counted with saturation (09 R271, R272, R273, R275). -/
def Obligations.AudioClocks : Prop :=
  (∀ (s : State) (d : Nat), d < s.dies → s.supervised d = true → (s.ports.amclks.get d).qualified = true →
    ∃ t, exec (.amclkStop d) s = .next t ∧ Only [.ports, .link, .integ, .sec] s t
      ∧ t.ports.amclks.get d = { s.ports.amclks.get d with qualified := false, stopped := true, freq := 0, outRun := 0, stops := satInc (s.ports.amclks.get d).stops }
      ∧ Raises s t .amclkStop d [.w d, .q s.now]
      ∧ (∀ p ∈ s.portsOf d, (s.portSt p).entry.amclk = true → (s.portSt p).phase = .running →
          (t.portSt p).phase = .frozen ∧ Raises s t .portFrozen p.die [.w p.word, .q s.now, .q (0 : Nat)])
      ∧ (∀ p ∈ s.portsOf d, (s.portSt p).entry.amclk = false → t.portSt p = s.portSt p)
      ∧ ∀ i, i ≠ d → t.ports.amclks.get i = s.ports.amclks.get i)
  ∧ (∀ (s : State) (d freq : Nat), d < s.dies → s.supervised d = true → (s.ports.amclks.get d).qualified = false → (nominalOf freq).isSome = true →
    ∃ t, exec (.amclkQualified d freq) s = .next t ∧ Only [.ports, .link, .integ, .sec] s t
      ∧ t.ports.amclks.get d = { s.ports.amclks.get d with qualified := true, qualifiedAt := s.now, freq := freq, outRun := 0, stopped := false }
      ∧ t.ports.ports = s.ports.ports ∧ ((s.ports.amclks.get d).stopped = true → Raises s t .amclkReturn d [.w d, .q s.now])
      ∧ ((s.ports.amclks.get d).stopped = false → t.link = s.link) ∧ ∀ i, i ≠ d → t.ports.amclks.get i = s.ports.amclks.get i)
  ∧ (∀ (s : State) (d freq nom : Nat), d < s.dies → s.supervised d = true → (s.ports.amclks.get d).qualified = true →
    (∃ p ∈ s.portsOf d, (s.portSt p).entry.amclk = true) → (∀ p ∈ s.portsOf d, (s.portSt p).entry.amclk = true → (s.portSt p).nom = nom ∧ (s.portSt p).switchTo = none) →
    ∃ t, exec (.amclkBlockRate d freq) s = .next t ∧ Only [.ports, .link, .integ, .sec] s t ∧ (t.ports.amclks.get d).freq = freq
      ∧ (nearNominal freq nom = true → (t.ports.amclks.get d).outRun = 0 ∧ t.ports.ports = s.ports.ports ∧ t.link = s.link)
      ∧ (nearNominal freq nom = false → (s.ports.amclks.get d).outRun = 0 → (t.ports.amclks.get d).outRun = 1 ∧ t.ports.ports = s.ports.ports ∧ t.link = s.link)
      ∧ (nearNominal freq nom = false → 1 ≤ (s.ports.amclks.get d).outRun → (t.ports.amclks.get d).outRun = 0
          ∧ (∀ n, nominalOf freq = some n → (∃ p ∈ s.portsOf d, (s.portSt p).entry.amclk = true ∧ (s.portSt p).entry.autoRate = true) →
              Raises s t .amclkRateChange d [.w d, .w freq, .w n]
              ∧ ∀ p ∈ s.portsOf d, (s.portSt p).entry.amclk = true → (s.portSt p).phase.clocked = true →
                  (t.portSt p).phase = .reconfiguring ∧ (t.portSt p).switchTo = some (n, (s.portSt p).phase, s.now))
          ∧ ((nominalOf freq = none ∨ ∀ p ∈ s.portsOf d, (s.portSt p).entry.amclk = true → (s.portSt p).entry.autoRate = false) →
              Raises s t .amclkRateChange d [.w d, .w freq, .w (3 : Nat)]
              ∧ ∀ p ∈ s.portsOf d, (s.portSt p).entry.amclk = true → (s.portSt p).phase.clocked = true →
                  (t.portSt p).phase = .stoppedRate ∧ Raises s t .portStopped p.die [.w p.word, .q (blockFloor s.now), .w (2 : Nat)]))
      ∧ (∀ p ∈ s.portsOf d, (s.portSt p).entry.amclk = false → t.portSt p = s.portSt p))
  ∧ (∀ (s : State) (d count : Nat), d < s.dies → s.supervised d = true → 0 < count →
    ∃ t, exec (.amclkGlitches d count) s = .next t ∧ Only [.ports, .link, .integ, .sec] s t
      ∧ t.ports.amclks.get d = { s.ports.amclks.get d with glitches := satAdd (s.ports.amclks.get d).glitches count }
      ∧ t.ports.ports = s.ports.ports ∧ Raises s t .amclkGlitches d [.w d, .w count] ∧ ∀ i, i ≠ d → t.ports.amclks.get i = s.ports.amclks.get i)

/-! ### Host link, rings and blocks (10) -/

/-- The PCI Express function: a reset of it disables every ring, keeps each ring's SEQUENCE, counts its waiting blocks as discarded, disables MSI-X and discards the shadow set, and leaves mode, active set and events alone; a link going down does the same and reports LINK_STATE; a write that fails ECRC is reported through AER; unmasking a vector sends what it holds; the moderation timer signals; a host link fault ends in HALTED with HALT_CAUSE 2 (10 R276, R279, R280, R294, R297, 01 R34). -/
def Obligations.HostLink : Prop :=
  (∀ s : State, s.mode.mode ≠ .off →
    ∃ t, exec .pcieReset s = .next t ∧ Only [.link, .cfg, .mon, .mode, .shadow] s t ∧ t.mode.mode = s.mode.mode ∧ t.cfg.active = s.cfg.active
      ∧ t.link.events = s.link.events ∧ t.link.sent = s.link.sent ∧ t.link.pcie.msixEnabled = false
      ∧ (s.cfg.commit = none → t.cfg.shadow = s.cfg.committed) ∧ (∀ c, s.cfg.commit = some c → t.cfg.shadow = c.set)
      ∧ ∀ r, r < 96 → (t.link.rings.get r).enable = false ∧ (t.link.rings.get r).err = false ∧ (t.link.rings.get r).waiting = [] ∧ (t.link.rings.get r).held = []
          ∧ (t.link.rings.get r).fetched = [] ∧ (t.link.rings.get r).executing = none
          ∧ (t.link.rings.get r).sequence = (s.link.rings.get r).sequence ∧ (t.link.rings.get r).dropped = (s.link.rings.get r).dropped + (s.link.rings.get r).waiting.length)
  ∧ (∀ (s : State) (width rate : Nat), s.mode.mode ≠ .off →
    ∃ t, exec (.linkState true width rate) s = .next t ∧ Only [.link, .integ, .sec] s t ∧ t.link.pcie.linkUp = true ∧ t.link.pcie.linkWidth = width
      ∧ t.link.pcie.linkRate = rate ∧ t.link.rings = s.link.rings ∧ Raises s t .linkState pkg [.w (0 : Nat), .w width, .w rate])
  ∧ (∀ (s : State) (width rate : Nat), s.mode.mode ≠ .off →
    ∃ t, exec (.linkState false width rate) s = .next t ∧ Only [.link, .cfg, .mon, .integ, .mode, .sec, .shadow] s t ∧ t.link.pcie.linkUp = false
      ∧ t.link.pcie.msixEnabled = false ∧ t.mode.mode = s.mode.mode ∧ t.cfg.active = s.cfg.active ∧ Raises s t .linkState pkg [.w (1 : Nat), .w (0 : Nat), .w (0 : Nat)]
      ∧ ∀ r, r < 96 → (t.link.rings.get r).enable = false ∧ (t.link.rings.get r).sequence = (s.link.rings.get r).sequence)
  ∧ (∀ (s : State) (bar offset : Nat), s.mode.mode ≠ .off → s.link.pcie.linkUp = true → s.link.pcie.ecrcCheck = true →
    ∃ t, exec (.receivedWriteEcrcFail bar offset) s = .next t ∧ Only [.link] s t ∧ t.link = { s.link with sent := s.link.sent ++ [.aer bar offset] })
  ∧ (∀ (s : State) (v : Nat), s.barUp = true → v < 64 → maskBit s.link.pcie.masked v = true →
    ∃ t, exec (.msixUnmask v) s = .next t ∧ Only [.link, .mode] s t ∧ t.mode = { s.mode with lastAccess := s.now } ∧ t.link.rings = s.link.rings
      ∧ (∀ i, maskBit t.link.pcie.masked i = (maskBit s.link.pcie.masked i && i != v))
      ∧ (∀ i, maskBit t.link.pcie.pbaPending i = (maskBit s.link.pcie.pbaPending i && i != v))
      ∧ (maskBit s.link.pcie.pbaPending v = true → s.link.pcie.msixEnabled = true → t.link.sent = s.link.sent ++ [.msix v])
      ∧ (maskBit s.link.pcie.pbaPending v = false → t.link.sent = s.link.sent))
  ∧ (∀ (s : State) (r : Nat), s.barUp = true → 16 ≤ r → r < 96 → 0 < (s.link.rings.get r).unsignalled → 0 < (s.link.rings.get r).modTime →
    (s.link.rings.get r).firstUnsignalled + (s.link.rings.get r).modTime * 100 ≤ s.now →
    ∃ t, exec (.interruptModTimer r) s = .next t ∧ Only [.link] s t ∧ t.link.rings.get r = { s.link.rings.get r with unsignalled := 0, firstUnsignalled := 0 }
      ∧ (∀ i, i ≠ r → t.link.rings.get i = s.link.rings.get i)
      ∧ (s.link.pcie.msixEnabled = true → maskBit s.link.pcie.masked (s.link.rings.get r).vector = false → t.link.sent = s.link.sent ++ [.msix (s.link.rings.get r).vector])
      ∧ (s.link.pcie.msixEnabled = true → maskBit s.link.pcie.masked (s.link.rings.get r).vector = true →
          maskBit t.link.pcie.pbaPending (s.link.rings.get r).vector = true ∧ t.link.sent = s.link.sent))
  ∧ (∀ s : State, s.mode.mode ≠ .off → s.mode.mode ≠ .halted →
    ∃ t, exec .hostLinkFault s = .next t ∧ Only [.spans, .front, .taps, .lanes, .ofdm, .audio, .ports, .link, .cfg, .integ, .mode, .domains, .mb, .sec, .nv, .modeCode] s t
      ∧ t.mode.mode = .halted ∧ t.integ.haltCause = 2)

/-- Ring registers and doorbells: base, size, queue and buffer take a write only while the ring is disabled; ENABLE starts a ring at index 0 or leaves it disabled with its error code; a completion ring in use is not disabled; a disabled delivery ring discards what waits; a doorbell sets the outstanding entries or halts the ring, and RESUME releases a fenced one; a fetch takes the descriptor at the device index with its CRC-32C found good or not, and a second failed read halts the ring; a held completion is written in its place once there is room (10 R279, R283, R284, R285, R286, R287, R288, R289, R292). -/
def Obligations.RingCommands : Prop :=
  (∀ (s : State) (r offset v : Nat), s.barUp = true → r < 96 →
    ∃ t, exec (.ringConfigWrite r offset v) s = .next t ∧ Only [.link, .mode] s t ∧ (∀ i, i ≠ r → t.link.rings.get i = s.link.rings.get i)
      ∧ (offset = 0 → (s.link.rings.get r).enable = false → t.link.rings.get r = { s.link.rings.get r with baseLo := BitVec.ofNat 32 v })
      ∧ (offset = 4 → (s.link.rings.get r).enable = false → t.link.rings.get r = { s.link.rings.get r with baseHi := BitVec.ofNat 32 v })
      ∧ ((offset = 0 ∨ offset = 4) → (s.link.rings.get r).enable = true → t.link.rings.get r = s.link.rings.get r)
      ∧ (offset = 8 → maskBit v 5 = true → (s.link.rings.get r).enable = true → t.link.rings.get r = { s.link.rings.get r with vector := v / 64 % 64 })
      ∧ (offset = 8 → maskBit v 5 = false → (s.link.rings.get r).enable = false →
          t.link.rings.get r = { s.link.rings.get r with sizeLog2 := v % 32, vector := v / 64 % 64, cq := v / 4096 % 16, bufLog2 := v / 65536 % 32 })
      ∧ (offset = 12 → 32 ≤ r → v % 128 ≤ 100 → t.link.rings.get r = { s.link.rings.get r with holdLimit := v % 128 })
      ∧ (offset = 12 → (r < 32 ∨ 100 < v % 128) → t.link.rings.get r = s.link.rings.get r)
      ∧ (offset = 16 → t.link.rings.get r = { s.link.rings.get r with modCount := v % 65536, modTime := v / 65536 % 65536 }))
  ∧ (∀ (s : State) (r v : Nat), s.barUp = true → s.mode.mode ≠ .boot → r < 96 → (s.link.rings.get r).enable = false → maskBit v 5 = true →
    ∃ t, exec (.ringEnable r v) s = .next t ∧ Only [.link, .mode] s t ∧ (∀ i, i ≠ r → t.link.rings.get i = s.link.rings.get i)
      ∧ (t.link.rings.get r).sequence = (s.link.rings.get r).sequence ∧ (t.link.rings.get r).dropped = (s.link.rings.get r).dropped
      ∧ ((v % 32 < 6 ∨ 16 < v % 32) → (t.link.rings.get r).enable = false ∧ (t.link.rings.get r).errCode = .size)
      ∧ (6 ≤ v % 32 → v % 32 ≤ 16 → 32 ≤ r → (v / 65536 % 32 < 12 ∨ 22 < v / 65536 % 32 ∨ 2 ^ (v / 65536 % 32) < (s.cfg.active.routes.get r).largestBlock) →
          (t.link.rings.get r).enable = false ∧ (t.link.rings.get r).errCode = .bufSize)
      ∧ (6 ≤ v % 32 → v % 32 ≤ 16 → (32 ≤ r → 12 ≤ v / 65536 % 32 ∧ v / 65536 % 32 ≤ 22 ∧ (s.cfg.active.routes.get r).largestBlock ≤ 2 ^ (v / 65536 % 32)) →
          (t.link.rings.get r).enable = true ∧ (t.link.rings.get r).devIndex = 0 ∧ (t.link.rings.get r).phase = true ∧ (t.link.rings.get r).errCode = .none
          ∧ (t.link.rings.get r).sizeLog2 = v % 32 ∧ (t.link.rings.get r).cq = v / 4096 % 16))
  ∧ (∀ (s : State) (r v : Nat), s.barUp = true → r < 96 → (s.link.rings.get r).enable = true → maskBit v 5 = false →
    ∃ t, exec (.ringDisable r v) s = .next t ∧ Only [.link, .mode] s t ∧ (∀ i, i ≠ r → t.link.rings.get i = s.link.rings.get i)
      ∧ (16 ≤ r → r < 32 → (∃ c, c < 16 ∧ (s.link.rings.get c).enable = true ∧ 16 + (s.link.rings.get c).cq = r) →
          t.link.rings.get r = { s.link.rings.get r with errCode := .cqInUse })
      ∧ ((r < 16 ∨ 32 ≤ r ∨ ∀ c, c < 16 → (s.link.rings.get c).enable = true → 16 + (s.link.rings.get c).cq ≠ r) →
          (t.link.rings.get r).enable = false ∧ (t.link.rings.get r).err = false ∧ (t.link.rings.get r).fenced = false ∧ (t.link.rings.get r).errCode = .none
          ∧ (t.link.rings.get r).inFlight = true ∧ (t.link.rings.get r).vector = v / 64 % 64 ∧ (t.link.rings.get r).sequence = (s.link.rings.get r).sequence)
      ∧ (32 ≤ r → (t.link.rings.get r).waiting = [] ∧ (t.link.rings.get r).dropped = (s.link.rings.get r).dropped + (s.link.rings.get r).waiting.length))
  ∧ (∀ (s : State) (r : Nat), r < 96 → (s.link.rings.get r).enable = false → (s.link.rings.get r).inFlight = true → (s.link.rings.get r).fetched = [] →
    (s.link.rings.get r).executing = none → (s.link.rings.get r).cplDue = false →
    ∃ t, exec (.ringWritesDrained r) s = .next t ∧ Only [.link] s t ∧ t.link.rings.get r = { s.link.rings.get r with inFlight := false }
      ∧ ∀ i, i ≠ r → t.link.rings.get i = s.link.rings.get i)
  ∧ (∀ (s : State) (r index : Nat), s.barUp = true → r < 96 → (s.link.rings.get r).enable = true → (s.link.rings.get r).err = false →
    ∃ t, exec (.doorbellWrite r index) s = .next t ∧ Only [.link, .integ, .mode, .sec] s t ∧ (∀ i, i ≠ r → t.link.rings.get i = s.link.rings.get i)
      ∧ (index % 65536 < 2 ^ (s.link.rings.get r).sizeLog2 → t.link.rings.get r = { s.link.rings.get r with doorbell := index % 65536 })
      ∧ (2 ^ (s.link.rings.get r).sizeLog2 ≤ index % 65536 → t.link.rings.get r = { s.link.rings.get r with err := true, errCode := .doorbell }
          ∧ Raises s t .ringError pkg [.w r, .w (1 : Nat), .w (s.link.rings.get r).devIndex]))
  ∧ (∀ (s : State) (r index : Nat), s.barUp = true → r < 96 → (s.link.rings.get r).enable = true → (s.link.rings.get r).err = false →
    ∃ t, exec (.doorbellResume r index) s = .next t ∧ Only [.link, .integ, .mode, .sec] s t ∧ (∀ i, i ≠ r → t.link.rings.get i = s.link.rings.get i)
      ∧ (index % 65536 < 2 ^ (s.link.rings.get r).sizeLog2 → t.link.rings.get r = { s.link.rings.get r with doorbell := index % 65536, fenced := false })
      ∧ (2 ^ (s.link.rings.get r).sizeLog2 ≤ index % 65536 → (t.link.rings.get r).err = true ∧ (t.link.rings.get r).errCode = .doorbell))
  ∧ (∀ (s : State) (r : Nat), s.mayFetch r = true →
    ∃ t, exec (.descriptorFetch r none) s = .next t ∧ Only [.link, .integ, .mb, .sec] s t ∧ (t.link.rings.get r).devIndex = (s.link.rings.get r).devIndex
      ∧ ((s.link.rings.get r).retried = false → t.link.rings.get r = { s.link.rings.get r with retried := true })
      ∧ ((s.link.rings.get r).retried = true → (t.link.rings.get r).err = true ∧ (t.link.rings.get r).errCode = .dma
          ∧ Raises s t .ringError pkg [.w r, .w (4 : Nat), .w (s.link.rings.get r).devIndex]))
  ∧ (∀ (s : State) (r : Nat) (d : List Byte), s.mayFetch r = true → (s.link.rings.get r).executing.isSome = true →
    ∃ t, exec (.descriptorFetch r (some d)) s = .next t ∧ Only [.link, .integ, .mb, .sec] s t ∧ (∀ i, i ≠ r → t.link.rings.get i = s.link.rings.get i)
      ∧ t.link.rings.get r = { s.link.rings.get r with
          devIndex := ((s.link.rings.get r).devIndex + 1) % 2 ^ (s.link.rings.get r).sizeLog2, written := (s.link.rings.get r).written + 1, retried := false
          fetched := (s.link.rings.get r).fetched ++ [⟨padTo 64 d, (s.link.rings.get r).devIndex, field (padTo 64 d) 60 0 32 == (crc32c ((padTo 64 d).take 60)).toNat⟩] }
      ∧ ((field (padTo 64 d) 60 0 32 == (crc32c ((padTo 64 d).take 60)).toNat) = false →
          (t.integ.dies.get 0).descCheckFails = (s.integ.dies.get 0).descCheckFails + 1))
  ∧ (∀ (s : State) (q : Nat) (c : Cpl) (rest : List Cpl), s.barUp = true → 16 ≤ q → q < 32 → (s.link.rings.get q).held = c :: rest → (s.link.rings.get q).enable = true →
    (s.link.rings.get q).err = false → (s.link.rings.get q).cqFull = false →
    ∃ t, exec (.completionWrite q) s = .next t ∧ Only [.link, .mb] s t
      ∧ s.link.sent ++ [.completion q (s.link.rings.get q).devIndex (s.link.rings.get q).phase c] <+: t.link.sent)

/-- Blocks and records: a verified block is written whole into the next credit with GAP and DROPPED, one whose check fails is discarded and reported, an entry that the host still owns halts the ring; a block that waits past HOLD_LIMIT is discarded; in HALTED no block is written; each second's discards are reported; a span's events leave in one block, and a die's telemetry in one block per second (10 R295, R296, R306, R307, 14 R366, 01 R34). -/
def Obligations.RingBlocks : Prop :=
  (∀ (s : State) (r : Nat) (b : Block) (rest : List Block) (good owner : Bool), s.barUp = true → 32 ≤ r → r < 96 → (s.link.rings.get r).waiting = b :: rest →
    (s.link.rings.get r).takes = true → (s.link.rings.get r).devIndex ≠ (s.link.rings.get r).doorbell →
    s.mode.mode ≠ .halted → s.now ≤ b.readyAt + (s.link.rings.get r).holdLimit * 100000 →
    ∃ t, exec (.blockWrite r good owner) s = .next t ∧ Only [.link, .integ, .sec] s t ∧ (∀ i, i ≠ r → t.link.rings.get i = s.link.rings.get i)
      ∧ (good = true → owner = true →
          s.link.sent ++ [.block r (s.link.rings.get r).devIndex (decide (0 < (s.link.rings.get r).dropped)) (min (s.link.rings.get r).dropped 0xFFFFFFFF) b] <+: t.link.sent
          ∧ (t.link.rings.get r).waiting = rest ∧ (t.link.rings.get r).dropped = 0
          ∧ (t.link.rings.get r).devIndex = ((s.link.rings.get r).devIndex + 1) % 2 ^ (s.link.rings.get r).sizeLog2
          ∧ (t.link.rings.get r).written = (s.link.rings.get r).written + 1 ∧ (t.link.rings.get r).sequence = (s.link.rings.get r).sequence)
      ∧ (good = false → (t.link.rings.get r).waiting = rest ∧ (t.link.rings.get r).dropped = (s.link.rings.get r).dropped + 1
          ∧ (t.link.rings.get r).discards = (s.link.rings.get r).discards + 1 ∧ (t.link.rings.get r).devIndex = (s.link.rings.get r).devIndex
          ∧ Raises s t .deliveryCheckFail b.die [.w r, .w b.die, .q b.sequence])
      ∧ (good = true → owner = false → t.link.rings.get r = { s.link.rings.get r with err := true, errCode := .owner }
          ∧ Raises s t .ringError pkg [.w r, .w (2 : Nat), .w (s.link.rings.get r).devIndex]))
  ∧ (∀ (s : State) (r x : Nat) (good owner : Bool), s.mode.mode = .halted → exec (.blockWrite r good owner) s = .next s ∧ exec (.eventBlock x) s = .next s)
  ∧ (∀ (s : State) (r : Nat) (b : Block) (rest : List Block), 32 ≤ r → r < 96 → (s.link.rings.get r).waiting = b :: rest →
    b.readyAt + (s.link.rings.get r).holdLimit * 100000 ≤ s.now →
    ∃ t, exec (.blockHoldExpiry r) s = .next t ∧ Only [.link] s t ∧ (t.link.rings.get r).waiting = rest
      ∧ (t.link.rings.get r).dropped = (s.link.rings.get r).dropped + 1 ∧ (t.link.rings.get r).discards = (s.link.rings.get r).discards + 1
      ∧ (t.link.rings.get r).discardsSec = (s.link.rings.get r).discardsSec + 1 ∧ t.link.sent = s.link.sent ∧ ∀ i, i ≠ r → t.link.rings.get i = s.link.rings.get i)
  ∧ (∀ (s : State) (r : Nat), 32 ≤ r → r < 96 → 0 < (s.link.rings.get r).discardsSec → s.now % 100000000 = 0 →
    ∃ t, exec (.ringOverrun r) s = .next t ∧ Only [.link, .integ, .sec] s t ∧ t.link.rings.get r = { s.link.rings.get r with discardsSec := 0 }
      ∧ (∀ i, i ≠ r → t.link.rings.get i = s.link.rings.get i) ∧ Raises s t .ringOverrun pkg [.w r, .w (s.link.rings.get r).discardsSec])
  ∧ (∀ (s : State) (x t0 : Nat), s.eventSpan x = some t0 → s.dieUp (eventDie x) = true → s.mode.mode ≠ .halted →
    ∃ t, exec (.eventBlock x) s = .next t ∧ Only [.link, .events] s t ∧ t.link.lastEventBlock.get x = s.now
      ∧ (∀ e ∈ s.link.events, (e.origin ≠ x ∨ t0 + 200000 ≤ e.raised) → e ∈ t.link.events)
      ∧ (∀ e ∈ t.link.events, e ∈ s.link.events ∧ (e.origin ≠ x ∨ t0 + 200000 ≤ e.raised)))
  ∧ (∀ (s : State) (d : Nat), s.monUp d = true → (s.mon.dies.get d).telemetered < s.mon.lastLatch → s.mode.mode ≠ .halted →
    ∃ t, exec (.telemetryRecord d) s = .next t ∧ Only [.link, .mon] s t ∧ t.mon.dies.get d = { s.mon.dies.get d with telemetered := s.mon.lastLatch }
      ∧ (∀ i, i ≠ d → t.mon.dies.get i = s.mon.dies.get i)
      ∧ (∀ r, 32 ≤ r → r < 96 → (s.cfg.active.routes.get r).cls = some .telemetry → (s.cfg.active.routes.get r).die = d →
          (t.link.rings.get r).sequence = (s.link.rings.get r).sequence + 1)
      ∧ ∀ i, (i < 32 ∨ 96 ≤ i ∨ (s.cfg.active.routes.get i).cls ≠ some .telemetry ∨ (s.cfg.active.routes.get i).die ≠ d) → t.link.rings.get i = s.link.rings.get i)

/-- A write that sets ENABLE while the part is still in BOOT, before MODE reads IDLE, RECOVERY or HALTED, is ignored: no ring changes (17 R451). -/
def Obligations.EnableBeforeBootEnds : Prop :=
  ∀ (s : State) (r v : Nat), s.mode.mode = .boot → maskBit v 5 = true →
    ∃ t, exec (.ringEnable r v) s = .next t ∧ Only [.link, .mode] s t ∧ t.mode.mode = .boot
      ∧ t.link.sent = s.link.sent ∧ ∀ i, t.link.rings.get i = s.link.rings.get i

/-! ### Commands from rings and mailbox (11) -/

/-- A command that a check refuses has no effect but its answer: it leaves its queue, its completion gives the status and the RESULT of the first check that fails, and nothing outside its rings and the mailbox changes; this holds of every command of the opcode table (11 R317, R318, R319, R329). -/
def Obligations.RefusedCommands : Prop :=
  ∀ (i : Instr) (c : Cmd) (src : CmdSrc) (buf : Option (List Byte)) (s : State) (f : Fetched) (st : Status) (r : Nat),
    commandOf i = some (c, src, buf) → s.turnsAway c src f buf st r →
    ∃ t, exec i s = .next t ∧ Only [.link, .mb] s t ∧ Answered s t src f st r []

/-- NOP, IDENTIFY, TIME_SET and REALIGN: NOP is answered with OK; IDENTIFY writes its 256-byte record, as much as the buffer takes, and answers with its length and CRC; TIME_SET pairs the SYSTIME given with wall-clock time and offset; REALIGN arms SYNC, unless the boot arming still stands (11 R314, R329, 02 R52, R66). -/
def Obligations.SimpleCommands : Prop :=
  (∀ (s : State) (src : CmdSrc) (f : Fetched), s.begins .nop src f none →
    ∃ t, exec (.nop src) s = .next t ∧ Only [.link, .mb] s t ∧ Answered s t src f .ok 0 [])
  ∧ (∀ (s : State) (src : CmdSrc) (f : Fetched), s.begins .identify src f none →
    ∃ t, exec (.identify src) s = .next t ∧ Only [.link, .mb] s t ∧ Outputs s t src f s.identity ∧ s.identity.length = 256
      ∧ s.identity.take 4 = le 2 s.part.deviceId ++ le 1 s.part.dies ++ le 1 s.part.siliconRev)
  ∧ (∀ (s : State) (src : CmdSrc) (f : Fetched), s.begins .timeSet src f none →
    ∃ t, exec (.timeSet src) s = .next t ∧ Only [.time, .link, .mb] s t ∧ Answered s t src f .ok 0 []
      ∧ t.time = { s.time with wall := some ⟨field f.desc 4 0 64, field f.desc 12 0 64, sfield f.desc 20 0 32⟩ })
  ∧ (∀ (s : State) (src : CmdSrc) (f : Fetched), s.begins .realign src f none →
    ∃ t, exec (.realign src) s = .next t ∧ Only [.time, .link, .mb] s t ∧ Answered s t src f .ok 0 []
      ∧ (s.time.armed = .boot → t.time = s.time) ∧ (s.time.armed ≠ .boot → t.time = { s.time with armed := .realign }))

/-- The staging commands write the shadow set and nothing else: the entry named takes the fields of the descriptor or of its buffer and every other entry stays; STAGE_COPY copies an entry to another index of its kind; DISCARD_STAGE copies the pending set, or the active one; the sets in force, committed and pending stay as they are (11 R320, R321, R327, R330, R331, R332, R333, R334, R335, R336, R337). -/
def Obligations.Staging : Prop :=
  (∀ (s : State) (src : CmdSrc) (f : Fetched), s.begins .stageLane src f none →
    ∃ t, exec (.stageLane src) s = .next t ∧ Only [.link, .cfg, .mb, .shadow] s t ∧ Answered s t src f .ok 0 []
      ∧ t.cfg = { s.cfg with shadow := { s.cfg.shadow with lanes := t.cfg.shadow.lanes } }
      ∧ t.cfg.shadow.lanes.get (field f.desc 4 0 16) = LaneEntry.ofDesc f.desc ∧ ∀ i, i ≠ field f.desc 4 0 16 → t.cfg.shadow.lanes.get i = s.cfg.shadow.lanes.get i)
  ∧ (∀ (s : State) (src : CmdSrc) (f : Fetched) (buf : Option (List Byte)), s.begins .stageCluster src f buf →
    ∃ t, exec (.stageCluster src buf) s = .next t ∧ Only [.link, .cfg, .mb, .shadow] s t ∧ Answered s t src f .ok 0 []
      ∧ t.cfg = { s.cfg with shadow := { s.cfg.shadow with clusters := t.cfg.shadow.clusters, watches := t.cfg.shadow.watches } }
      ∧ t.cfg.shadow.clusters.get (field f.desc 4 0 16) = ClusterEntry.ofDesc f.desc
      ∧ (∀ i, i ≠ field f.desc 4 0 16 → t.cfg.shadow.clusters.get i = s.cfg.shadow.clusters.get i)
      ∧ (∀ x ∈ clusterTaps f.desc, t.cfg.shadow.watches.get (field f.desc 4 0 16 * 16 + x.2) = WatchEntry.ofBytes (part (inputBytes f.desc buf) x.1 136))
      ∧ ∀ i, (∀ x ∈ clusterTaps f.desc, i ≠ field f.desc 4 0 16 * 16 + x.2) → t.cfg.shadow.watches.get i = s.cfg.shadow.watches.get i)
  ∧ (∀ (s : State) (src : CmdSrc) (f : Fetched), s.begins .stageEngine src f none →
    ∃ t, exec (.stageEngine src) s = .next t ∧ Only [.link, .cfg, .mb, .shadow] s t ∧ Answered s t src f .ok 0 []
      ∧ t.cfg = { s.cfg with shadow := { s.cfg.shadow with engines := t.cfg.shadow.engines } }
      ∧ t.cfg.shadow.engines.get (field f.desc 4 0 16) = EngineEntry.ofDesc f.desc ∧ ∀ i, i ≠ field f.desc 4 0 16 → t.cfg.shadow.engines.get i = s.cfg.shadow.engines.get i)
  ∧ (∀ (s : State) (src : CmdSrc) (f : Fetched), s.begins .stageSlot src f none →
    ∃ t, exec (.stageSlot src) s = .next t ∧ Only [.link, .cfg, .mb, .shadow] s t ∧ Answered s t src f .ok 0 []
      ∧ t.cfg = { s.cfg with shadow := { s.cfg.shadow with slots := t.cfg.shadow.slots } }
      ∧ t.cfg.shadow.slots.get (field f.desc 4 0 16) = SlotEntry.ofDesc f.desc ∧ ∀ i, i ≠ field f.desc 4 0 16 → t.cfg.shadow.slots.get i = s.cfg.shadow.slots.get i)
  ∧ (∀ (s : State) (src : CmdSrc) (f : Fetched), s.begins .stagePort src f none →
    ∃ t, exec (.stagePort src) s = .next t ∧ Only [.link, .cfg, .mb, .shadow] s t ∧ Answered s t src f .ok 0 []
      ∧ (bitAt f.desc 5 0 = false → t.cfg = { s.cfg with shadow := { s.cfg.shadow with outPorts := t.cfg.shadow.outPorts } }
          ∧ t.cfg.shadow.outPorts.get (field f.desc 4 0 3) = PortEntry.ofDesc f.desc ∧ ∀ i, i ≠ field f.desc 4 0 3 → t.cfg.shadow.outPorts.get i = s.cfg.shadow.outPorts.get i)
      ∧ (bitAt f.desc 5 0 = true → t.cfg = { s.cfg with shadow := { s.cfg.shadow with inPorts := t.cfg.shadow.inPorts } }
          ∧ t.cfg.shadow.inPorts.get (field f.desc 4 0 3) = PortEntry.ofDesc f.desc ∧ ∀ i, i ≠ field f.desc 4 0 3 → t.cfg.shadow.inPorts.get i = s.cfg.shadow.inPorts.get i))
  ∧ (∀ (s : State) (src : CmdSrc) (f : Fetched) (buf : Option (List Byte)), s.begins .stageFollow src f buf →
    ∃ t, exec (.stageFollow src buf) s = .next t ∧ Only [.link, .cfg, .mb, .shadow] s t ∧ Answered s t src f .ok 0 []
      ∧ t.cfg = { s.cfg with shadow := { s.cfg.shadow with follows := t.cfg.shadow.follows } }
      ∧ t.cfg.shadow.follows.get (field f.desc 4 0 16) = FollowEntry.ofBytes (inputBytes f.desc buf)
      ∧ ∀ i, i ≠ field f.desc 4 0 16 → t.cfg.shadow.follows.get i = s.cfg.shadow.follows.get i)
  ∧ (∀ (s : State) (src : CmdSrc) (f : Fetched) (buf : Option (List Byte)), s.begins .stageBank src f buf →
    ∃ t, exec (.stageBank src buf) s = .next t ∧ Only [.link, .cfg, .mb, .shadow] s t ∧ Answered s t src f .ok 0 []
      ∧ t.cfg = { s.cfg with shadow := { s.cfg.shadow with filters := t.cfg.shadow.filters } }
      ∧ ∀ i, (∀ x ∈ bankFilters f.desc (inputBytes f.desc buf), i ≠ filterKey (field f.desc 4 0 3) (field f.desc 5 0 3) x.1) →
          t.cfg.shadow.filters.get i = s.cfg.shadow.filters.get i)
  ∧ (∀ (s : State) (src : CmdSrc) (f : Fetched) (buf : Option (List Byte)), s.begins .stagePlan src f buf →
    ∃ t, exec (.stagePlan src buf) s = .next t ∧ Only [.link, .cfg, .mb, .shadow] s t ∧ Answered s t src f .ok 0 []
      ∧ t.cfg = { s.cfg with shadow := { s.cfg.shadow with plan := t.cfg.shadow.plan, courses := t.cfg.shadow.courses, routes := t.cfg.shadow.routes } }
      ∧ t.cfg.shadow.plan = (if bitAt f.desc 4 2 = true then field f.desc 4 0 2 else s.cfg.shadow.plan)
      ∧ (∀ x ∈ planCourses f.desc, t.cfg.shadow.courses.get x.2 = CourseEntry.ofBytes (part (inputBytes f.desc buf) x.1 12))
      ∧ (∀ i, (∀ x ∈ planCourses f.desc, i ≠ x.2) → t.cfg.shadow.courses.get i = s.cfg.shadow.courses.get i)
      ∧ ∀ i, (∀ a ∈ planRoutes f.desc, i ≠ field (inputBytes f.desc buf) a 0 8) → t.cfg.shadow.routes.get i = s.cfg.shadow.routes.get i)
  ∧ (∀ (s : State) (src : CmdSrc) (f : Fetched), s.begins .stageCopy src f none →
    ∃ t, exec (.stageCopy src) s = .next t ∧ Only [.link, .cfg, .mb, .shadow] s t ∧ Answered s t src f .ok 0 []
      ∧ (field f.desc 4 0 3 = 0 → t.cfg.shadow.lanes.get (field f.desc 8 0 16) = s.cfg.shadow.lanes.get (field f.desc 6 0 16))
      ∧ (field f.desc 4 0 3 = 1 → t.cfg.shadow.clusters.get (field f.desc 8 0 16) = s.cfg.shadow.clusters.get (field f.desc 6 0 16)
          ∧ ∀ w, w < 16 → t.cfg.shadow.watches.get (field f.desc 8 0 16 * 16 + w) = s.cfg.shadow.watches.get (field f.desc 6 0 16 * 16 + w))
      ∧ (field f.desc 4 0 3 = 2 → t.cfg.shadow.engines.get (field f.desc 8 0 16) = s.cfg.shadow.engines.get (field f.desc 6 0 16))
      ∧ (field f.desc 4 0 3 = 3 → t.cfg.shadow.slots.get (field f.desc 8 0 16) = s.cfg.shadow.slots.get (field f.desc 6 0 16))
      ∧ (field f.desc 4 0 3 = 4 → t.cfg.shadow.outPorts.get (field f.desc 8 0 16) = s.cfg.shadow.outPorts.get (field f.desc 6 0 16))
      ∧ (field f.desc 4 0 3 = 5 → t.cfg.shadow.inPorts.get (field f.desc 8 0 16) = s.cfg.shadow.inPorts.get (field f.desc 6 0 16))
      ∧ (field f.desc 4 0 3 = 6 → t.cfg.shadow.follows.get (field f.desc 8 0 16) = s.cfg.shadow.follows.get (field f.desc 6 0 16))
      ∧ (field f.desc 4 0 3 = 7 → ∀ d x, d < 8 → maskBit (field f.desc 8 0 16) d = true → x < 32 →
          t.cfg.shadow.filters.get (filterKey d (field f.desc 6 0 16 / 256 % 8) x) = s.cfg.shadow.filters.get (filterKey (field f.desc 6 0 16 % 8) (field f.desc 6 0 16 / 256 % 8) x)))
  ∧ (∀ (s : State) (src : CmdSrc) (f : Fetched), s.begins .discardStage src f none →
    ∃ t, exec (.discardStage src) s = .next t ∧ Only [.link, .cfg, .mb, .shadow] s t ∧ Answered s t src f .ok 0 []
      ∧ (s.cfg.commit = none → t.cfg = { s.cfg with shadow := s.cfg.committed }) ∧ (∀ p, s.cfg.commit = some p → t.cfg = { s.cfg with shadow := p.set }))

/-- Traffic between two dies takes the shorter direction round the ring: the rising distance is (t - s) mod N, the falling one (s - t) mod N, each direction passes the links of the dies on its way, and where both distances are equal the traffic rises (01 R21). -/
def Obligations.RingDirection : Prop :=
  ∀ (p : Part) (s t : Nat), s < p.dies → t < p.dies →
    (risingPath p.dies s t).length = (t + p.dies - s) % p.dies ∧ (fallingPath p.dies s t).length = (s + p.dies - t) % p.dies
    ∧ ringPath p.dies s t [] = (if (t + p.dies - s) % p.dies ≤ (s + p.dies - t) % p.dies then risingPath p.dies s t else fallingPath p.dies s t)
    ∧ (∀ i, i < (t + p.dies - s) % p.dies → (risingPath p.dies s t).getD i 0 = (s + i) % p.dies * 2)
    ∧ ∀ i, i < (s + p.dies - t) % p.dies → (fallingPath p.dies s t).getD i 0 = (s + p.dies - i) % p.dies * 2 + 1

/-- COMMIT takes the shadow set as it stands: a dry run answers and keeps nothing; while one is pending it is RESOURCE_BUSY; a snapshot that breaks a rule is STAGE_INVALID with the first breach; else the snapshot becomes the pending set and the command waits. Dies acknowledge it, ask for it once more, or withhold; at the deadline it is confirmed for the later of T and the fades that hold it, or withdrawn with the shadow set kept; at its tick it becomes the committed set (11 R320, R322, R323, R324, R325, R326, 14 R392). -/
def Obligations.CommitSwap : Prop :=
  (∀ (s : State) (src : CmdSrc) (f : Fetched), s.begins .commit src f none →
    ∃ t, exec (.commit src) s = .next t ∧ Only [.link, .cfg, .domains, .mb] s t
      ∧ (bitAt f.desc 10 0 = true → t.cfg = s.cfg ∧ t.domains = s.domains
          ∧ (((takeFront src s).liveFollows s.cfg.shadow).invalid (takeFront src s) = none → Answered s t src f .ok 0 [])
          ∧ ∀ r, ((takeFront src s).liveFollows s.cfg.shadow).invalid (takeFront src s) = some r → Answered s t src f .stageInvalid r [])
      ∧ (bitAt f.desc 10 0 = false → s.cfg.commit.isSome = true → t.cfg = s.cfg ∧ Answered s t src f .resourceBusy 0 [])
      ∧ (bitAt f.desc 10 0 = false → s.cfg.commit = none → ∀ r, ((takeFront src s).liveFollows s.cfg.shadow).invalid (takeFront src s) = some r → t.cfg = s.cfg ∧ Answered s t src f .stageInvalid r [])
      ∧ (bitAt f.desc 10 0 = false → s.cfg.commit = none → ((takeFront src s).liveFollows s.cfg.shadow).invalid (takeFront src s) = none →
          Waits t src f .commit
          ∧ t.cfg = { s.cfg with commit := some { set := s.cfg.shadow, tick := s.tickOf0 (field f.desc 4 0 48), effective := s.tickOf0 (field f.desc 4 0 48), src := some src } }))
  ∧ (∀ (s : State) (d : Nat) (good : Bool) (p : PendingCommit), s.cfg.commit = some p → s.dieUp d = true → p.confirmed = false → maskBit p.acks d = false →
    maskBit p.withheld d = false → s.now < (p.tick - 1) * 100000 →
    ∃ t, exec (.pendingSetReceived d good) s = .next t ∧ Only [.cfg] s t ∧ t.cfg.active = s.cfg.active ∧ t.cfg.committed = s.cfg.committed ∧ t.cfg.shadow = s.cfg.shadow
      ∧ ∃ q, t.cfg.commit = some q ∧ q.set = p.set ∧ q.tick = p.tick ∧ q.confirmed = false
        ∧ (good = true → maskBit q.acks d = true ∧ q.holdTick = max p.holdTick (s.holdOf p d) ∧ q.withheld = p.withheld)
        ∧ (good = false → maskBit p.retried d = false → maskBit q.retried d = true ∧ q.acks = p.acks ∧ q.withheld = p.withheld)
        ∧ (good = false → maskBit p.retried d = true → maskBit q.withheld d = true ∧ q.acks = p.acks))
  ∧ (∀ (s : State) (p : PendingCommit), s.cfg.commit = some p → p.confirmed = false → (p.tick - 1) * 100000 ≤ s.now →
    ∃ t, exec .commitAckDeadline s = .next t ∧ Only [.link, .cfg, .mb] s t ∧ t.cfg.active = s.cfg.active ∧ t.cfg.committed = s.cfg.committed ∧ t.cfg.shadow = s.cfg.shadow
      ∧ ((∀ d, d < s.dies → s.dieUp d = true → maskBit p.acks d = true) → t.cfg.commit = some { p with confirmed := true, effective := max p.tick p.holdTick } ∧ t.link = s.link)
      ∧ (∀ d, d < s.dies → s.dieUp d = true → maskBit p.acks d = false → t.cfg.commit = none))
  ∧ (∀ (s : State) (p : PendingCommit) (temps : List Int), s.cfg.commit = some p → p.confirmed = true → p.effective * 100000 ≤ s.now →
    ∃ t, exec (.configSwap temps) s = .next t
      ∧ Only [.clk, .spans, .front, .taps, .lanes, .ofdm, .audio, .ports, .link, .cfg, .cal, .mon, .integ, .mode, .domains, .mb, .sec, .committed, .modeCode] s t
      ∧ t.cfg.committed = p.set ∧ t.cfg.commit = none ∧ t.cfg.shadow = s.cfg.shadow)

/-- Commands that start and stop ports and captures: a start is taken at its tick and waits until then, refused where the port already runs or a start already waits; a capture takes its ring if staging and link have room, begins at its tick, and ends with CAPTURE_ENDED and its last sequence number (09 R264, R265, 10 R295, R308). -/
def Obligations.PortAndCaptureCommands : Prop :=
  (∀ (s : State) (src : CmdSrc) (f : Fetched), s.begins .portStart src f none →
    ∃ t, exec (.portStart src) s = .next t ∧ Only [.ports, .link, .mb] s t
      ∧ ((s.portSt (portOf f.desc)).phase.isStopped = false → t.ports = s.ports ∧ Answered s t src f .stateRefused s.mode.mode.code [])
      ∧ ((s.portSt (portOf f.desc)).phase.isStopped = true → (s.portSt (portOf f.desc)).startAt.isSome = true → t.ports = s.ports ∧ Answered s t src f .resourceBusy 0 [])
      ∧ ((s.portSt (portOf f.desc)).phase.isStopped = true → (s.portSt (portOf f.desc)).startAt = none →
          Waits t src f (.portStart (portOf f.desc) (s.tickOf0 (field f.desc 6 0 48)))
          ∧ t.portSt (portOf f.desc) = { s.portSt (portOf f.desc) with startAt := some (s.tickOf0 (field f.desc 6 0 48) * 100000) }
          ∧ ∀ i, i ≠ (portOf f.desc).key → t.ports.ports.get i = s.ports.ports.get i))
  ∧ (∀ (s : State) (src : CmdSrc) (f : Fetched), s.begins .portStop src f none →
    ∃ t, exec (.portStop src) s = .next t ∧ Only [.ports, .link, .mb] s t
      ∧ (((s.portSt (portOf f.desc)).phase.isStopped = true ∨ (s.portSt (portOf f.desc)).phase = .postRoll) → t.ports = s.ports ∧ Answered s t src f .stateRefused s.mode.mode.code [])
      ∧ ((s.portSt (portOf f.desc)).phase.isStopped = false → (s.portSt (portOf f.desc)).phase ≠ .postRoll → (s.portSt (portOf f.desc)).stopAt.isSome = true →
          t.ports = s.ports ∧ Answered s t src f .resourceBusy 0 [])
      ∧ ((s.portSt (portOf f.desc)).phase.isStopped = false → (s.portSt (portOf f.desc)).phase ≠ .postRoll → (s.portSt (portOf f.desc)).stopAt = none →
          Waits t src f (.portStop (portOf f.desc) (s.tickOf0 (field f.desc 6 0 48)))
          ∧ t.portSt (portOf f.desc) = { s.portSt (portOf f.desc) with stopAt := some (s.tickOf0 (field f.desc 6 0 48) * 100000) }
          ∧ ∀ i, i ≠ (portOf f.desc).key → t.ports.ports.get i = s.ports.ports.get i))
  ∧ (∀ (s : State) (src : CmdSrc) (f : Fetched), s.begins .captureStart src f none →
    ∃ t, exec (.captureStart src) s = .next t ∧ Only [.link, .mb] s t
      ∧ (s.cfg.active.captureOk (captureOf f.desc (s.tickOf0 (field f.desc 8 0 48))) = false → t.link.captures = s.link.captures ∧ Answered s t src f .badParam 6 [])
      ∧ (s.cfg.active.captureOk (captureOf f.desc (s.tickOf0 (field f.desc 8 0 48))) = true →
          s.captureFits (field f.desc 4 0 8) (captureOf f.desc (s.tickOf0 (field f.desc 8 0 48))) = false → t.link.captures = s.link.captures ∧ Answered s t src f .resourceBusy 0 [])
      ∧ (s.cfg.active.captureOk (captureOf f.desc (s.tickOf0 (field f.desc 8 0 48))) = true →
          s.captureFits (field f.desc 4 0 8) (captureOf f.desc (s.tickOf0 (field f.desc 8 0 48))) = true →
          Waits t src f (.capture (field f.desc 4 0 8) (s.tickOf0 (field f.desc 8 0 48)))
          ∧ t.link.captures.get (field f.desc 4 0 8) = some (captureOf f.desc (s.tickOf0 (field f.desc 8 0 48)))
          ∧ ∀ i, i ≠ field f.desc 4 0 8 → t.link.captures.get i = s.link.captures.get i))
  ∧ (∀ (s : State) (r : Nat) (x : Capture), s.link.captures.get r = some x → x.started = false → x.tick * 100000 ≤ s.now →
    ∃ t, exec (.captureStartTick r) s = .next t ∧ Only [.link, .integ, .mb, .sec] s t
      ∧ (s.cfg.active.captureOk x = true → t.link.captures.get r = some { x with started := true, edges := (s.clk.get x.die).edges })
      ∧ (s.cfg.active.captureOk x = false → t.link.captures.get r = none)
      ∧ ∀ i, i ≠ r → t.link.captures.get i = s.link.captures.get i)
  ∧ (∀ (s : State) (src : CmdSrc) (f : Fetched) (x : Capture), s.begins .captureStop src f none → s.link.captures.get (field f.desc 4 0 8) = some x → x.started = true →
    ∃ t, exec (.captureStop src) s = .next t ∧ Only [.link, .integ, .mb, .sec] s t ∧ t.link.captures.get (field f.desc 4 0 8) = none
      ∧ (∀ i, i ≠ field f.desc 4 0 8 → t.link.captures.get i = s.link.captures.get i)
      ∧ Answered s t src f .ok ((s.link.rings.get (field f.desc 4 0 8)).sequence - 1).toNat []
      ∧ Raises s t .captureEnded x.die [.w (field f.desc 4 0 8), .w x.kind.sourceType, .w x.source, .q ((s.link.rings.get (field f.desc 4 0 8)).sequence - 1).toNat])

/-! ### Calibration (12) -/

/-- Calibration commands and stores: CAL_START makes its item overdue and waits, or is RESOURCE_BUSY where no tone can reach it; CAL_QUERY writes the item's record; CAL_STORE snapshots coefficients and items, marks the older slot as being written and waits, once more behind an automatic store, and is RESOURCE_BUSY behind another command's; a slot read back well is in force with CAL_STORED, one that fails is rewritten once and then reported; a store falls due a day after the first unsaved change; SYSCAL_STEP sets coefficients or keeps them with its reason, an interrupted one keeps everything, and each leaves every injection switch Off (03 R72, 12 R349, R350, R352, R354, R355, R357). -/
def Obligations.CalibrationCommands : Prop :=
  (∀ (s : State) (src : CmdSrc) (f : Fetched), s.begins .calStart src f none →
    ∃ t, exec (.calStart src) s = .next t ∧ Only [.spans, .lanes, .link, .cal, .integ, .mode, .mb, .sec, .modeCode] s t
      ∧ (field f.desc 4 0 8 = 0 → (takeFront src s).levelReachable (field f.desc 6 0 16) = false →
          Answered s t src f .resourceBusy 0 [] ∧ t.cal.unreachable.contains (field f.desc 6 0 16) = true)
      ∧ (field f.desc 4 0 8 = 0 → (takeFront src s).levelReachable (field f.desc 6 0 16) = true → Waits t src f (.level (field f.desc 6 0 16)))
      ∧ (field f.desc 4 0 8 ≠ 0 → Waits t src f (.monitor (field f.desc 6 0 16))
          ∧ (s.taskAge (.monitor (field f.desc 6 0 16)) ≠ 2 → Raises s t .calOverdue (field f.desc 6 0 16) [.w (4 : Nat), .w (field f.desc 6 0 16)])))
  ∧ (∀ (s : State) (src : CmdSrc) (f : Fetched), s.begins .calQuery src f none →
    ∃ t, exec (.calQuery src) s = .next t ∧ Only [.link, .mb] s t ∧ Outputs s t src f (s.calRecord (field f.desc 4 0 8) (field f.desc 6 0 16)))
  ∧ (∀ (s : State) (src : CmdSrc) (f : Fetched), s.begins .calStore src f none →
    ∃ t, exec (.calStore src) s = .next t ∧ Only [.link, .cal, .mb, .nv] s t ∧ t.cal.coefs = s.cal.coefs
      ∧ (s.cal.store = none → Waits t src f .calStore
          ∧ ∃ st, t.cal.store = some st ∧ st.seq = s.cal.storeSeq + 1 ∧ st.snap = ⟨s.cal.coefs, s.cal.items⟩ ∧ st.automatic = false ∧ (t.nv.calSlot (st.slot == 1)).valid = false
            ∧ t.nv.calSlot (st.slot != 1) = s.nv.calSlot (st.slot != 1))
      ∧ (∀ st, s.cal.store = some st → st.automatic = true → st.again = false → Waits t src f .calStore ∧ t.cal = { s.cal with store := some { st with again := true } } ∧ t.nv = s.nv)
      ∧ (∀ st, s.cal.store = some st → (st.automatic = false ∨ st.again = true) → Answered s t src f .resourceBusy 0 [] ∧ t.cal = s.cal ∧ t.nv = s.nv))
  ∧ (∀ (s : State) (ok : Bool) (st : StoreSt), s.cal.store = some st → st.again = false →
    ∃ t, exec (.calStoreWriteDone ok) s = .next t ∧ Only [.spans, .link, .cal, .integ, .mode, .mb, .sec, .nv, .modeCode] s t ∧ t.cal.coefs = s.cal.coefs
      ∧ (ok = true → t.nv = s.nv.setCalSlot (st.slot == 1) ⟨st.seq, true, st.snap⟩ ∧ t.cal.store = none ∧ t.cal.storeValid = true ∧ t.cal.storeSlot = st.slot ∧ t.cal.storeSeq = st.seq
          ∧ t.cal.unsavedSince = st.changed ∧ Raises s t .calStored pkg [.w st.slot, .w st.seq.toNat, .w (b2n (!st.automatic))])
      ∧ (ok = false → st.rewritten = false → t.cal = { s.cal with store := some { st with rewritten := true } } ∧ t.nv = s.nv ∧ t.link = s.link)
      ∧ (ok = false → st.rewritten = true → t.cal.store = none ∧ t.nv = s.nv ∧ Raises s t .calStoreFailed pkg [.w st.slot]))
  ∧ (∀ (s : State) (since : Nat), s.cal.autoStore = true → s.cal.unsavedSince = some since → since + 86400 * 100000000 ≤ s.now → s.cal.store = none →
    s.mode.mode ≠ .off → s.mode.mode ≠ .boot → s.mode.mode ≠ .recovery → s.mode.mode ≠ .halted →
    ∃ t, exec .autoStore s = .next t ∧ Only [.cal, .nv] s t ∧ t.cal.coefs = s.cal.coefs ∧ ∃ st, t.cal.store = some st ∧ st.automatic = true ∧ st.seq = s.cal.storeSeq + 1 ∧ st.snap = ⟨s.cal.coefs, s.cal.items⟩)
  ∧ (∀ (s u : State) (src : CmdSrc) (f : Fetched) (m : SyscalMeas) (e : StepEnd), s.begins .syscalStep src f none →
    u = injectFor (field f.desc 4 0 8) (field f.desc 5 0 8) (takeFront src s) →
    e = sysStep (field f.desc 4 0 8) (field f.desc 5 0 8) (field f.desc 8 0 32) (sfield f.desc 12 0 32) m u →
    ∃ t, exec (.syscalStep src (some m)) s = .next t ∧ Only [.spans, .front, .taps, .lanes, .link, .cal, .mon, .integ, .mode, .mb, .sec, .freeCount, .modeCode] s t
      ∧ (∀ n, n < s.dies → (t.front.courses.get n).inject = 0)
      ∧ (∀ reason dev, e = .fails reason dev → Answered s t src f .calImplausible (implausible dev reason) [] ∧ t.cal.coefs = s.cal.coefs ∧ t.mon = s.mon
          ∧ t.cal.items.get ((stepItem (field f.desc 4 0 8) (field f.desc 5 0 8)).1 * 16 + (stepItem (field f.desc 4 0 8) (field f.desc 5 0 8)).2)
            = { s.cal.items.get ((stepItem (field f.desc 4 0 8) (field f.desc 5 0 8)).1 * 16 + (stepItem (field f.desc 4 0 8) (field f.desc 5 0 8)).2) with
                lastFail := reason
                failCount := satInc (s.cal.items.get ((stepItem (field f.desc 4 0 8) (field f.desc 5 0 8)).1 * 16 + (stepItem (field f.desc 4 0 8) (field f.desc 5 0 8)).2)).failCount })
      ∧ (e = .failsDelay → Answered s t src f .calImplausible (implausible u.freeNat 2) [] ∧ t.cal.coefs = s.cal.coefs ∧ t.mon = s.mon)
      ∧ (∀ change v, e = .sets change v →
          Answered s t src f .ok (sysResult change (v.calCount (stepItem (field f.desc 4 0 8) (field f.desc 5 0 8)).1 (stepItem (field f.desc 4 0 8) (field f.desc 5 0 8)).2)) []
          ∧ t.cal = v.cal ∧ t.mon = v.mon))
  ∧ (∀ (s u : State) (src : CmdSrc) (f : Fetched), s.begins .syscalStep src f none → u = injectFor (field f.desc 4 0 8) (field f.desc 5 0 8) (takeFront src s) →
    ∃ t, exec (.syscalStep src none) s = .next t ∧ Only [.spans, .front, .taps, .lanes, .link, .cal, .mon, .integ, .mode, .mb, .sec, .freeCount, .modeCode] s t
      ∧ Answered s t src f .abortedFault u.abortResult [] ∧ t.cal = s.cal ∧ t.mon = s.mon ∧ ∀ n, n < s.dies → (t.front.courses.get n).inject = 0)

/-- The background level step: it takes its lane at a block boundary, its windows follow one another at their instants, each read over the lane's own samples, with injection coupled from the end of the off window, and at the end the tone level is judged: a plausible error corrects D of the leading converter, an implausible one is reported and keeps it; a spoiled pass repeats once within B + 300 ms; the step ends once its lane has reloaded; D of a duplex standby follows the leader's each second, but for a change of more than 0.50 dB; the pause after CALIN_SUSPECT ends (12 R342, R344, R345, R346, R347, R351, R352). -/
def Obligations.LevelSteps : Prop :=
  (∀ (s : State) (n l i : Nat) (kind : CoverKind), s.levelChoice n = some (l, i, kind) → n < s.dies → s.levelAllowed = true → 0 < s.taskAge (.level n) →
    s.cal.steps.get n = none → s.pathRuns n = true → s.levelTurn n l = true →
    ∃ t, exec (.levelStepStart n) s = .next t ∧ Only [.spans, .taps, .lanes, .link, .cal, .integ, .mode, .mb, .sec, .nv, .retirement, .modeCode] s t
      ∧ t.cal.steps.get n = some { lane := l, kind := kind, tone := i, toneFreq := (s.cal.tones.getD i {}).freq, toneLevel := (s.cal.tones.getD i {}).level.getD 0,
                                   coupled := tableAt (s.cal.coefs.transfer.get n).q (s.cal.tones.getD i {}).freq, start := s.now, passStart := s.now }
      ∧ t.cal.coefs = s.cal.coefs)
  ∧ (∀ (s : State) (n t1 : Nat) (air : Air) (st : LevelStep) (w : Nat × Nat) (p : Int), s.cal.steps.get n = some st → st.phase ≠ .evaluate → st.phase ≠ .return_ →
    t1 = st.passStart + st.phase.ends → t1 ≤ s.now → w = s.tonePower air st.lane (t1 - 2000000) t1 →
    p = s.levelUv n ((s.front.courses.get n).leader.getD 0) st.toneFreq st.start (powerLevel w) →
    ∃ t, exec (.levelPhaseEnd n air) s = .next t ∧ Only [.front, .taps, .lanes, .link, .cal, .integ, .mb, .sec] s t ∧ t.cal.coefs = s.cal.coefs
      ∧ (st.phase = .retune → t.cal.steps.get n = some { st with phase := .offWindow } ∧ t.front = s.front)
      ∧ (st.phase = .offWindow → (t.front.courses.get n).inject = 1 ∧ t.cal.steps.get n = some { st with phase := .switch, pOff := p, offPower := w })
      ∧ (st.phase = .switch → t.cal.steps.get n = some { st with phase := .on1 } ∧ t.front = s.front)
      ∧ (st.phase = .on1 → t.cal.steps.get n = some { st with phase := .on2, pOn1 := p, on1Power := w })
      ∧ (st.phase = .on2 → t.cal.steps.get n = some { st with phase := .evaluate, pOn2 := p, on2Power := w })
      ∧ ∀ k, k ≠ n → t.cal.steps.get k = s.cal.steps.get k)
  ∧ (∀ (s : State) (n : Nat) (air : Air) (st : LevelStep), s.cal.steps.get n = some st → st.phase = .return_ → st.passStart + 6400000 ≤ s.now → s.now % 200000 = 0 → s.stationRuns st.lane = true →
    ∃ t, exec (.levelPhaseEnd n air) s = .next t ∧ Only [.front, .taps, .lanes, .link, .cal, .integ, .mb, .sec] s t ∧ t.cal.coefs = s.cal.coefs ∧ t.cal.steps.get n = none)
  ∧ (∀ (s : State) (n : Nat) (mean m : Int) (st : LevelStep), s.cal.steps.get n = some st → st.phase = .evaluate → st.passStart + 6400000 ≤ s.now →
    mean = s.levelUv n ((s.front.courses.get n).leader.getD 0) st.toneFreq st.start (meanOn st.on1Power st.on2Power) →
    m = s.levelUv n ((s.front.courses.get n).leader.getD 0) st.toneFreq st.start (netOn st.offPower st.on1Power st.on2Power) →
    ∃ t, exec (.levelStepEval n) s = .next t ∧ Only [.spans, .front, .taps, .link, .cal, .integ, .mode, .mb, .sec, .modeCode] s t
      ∧ (t.front.courses.get n).inject = 0
      ∧ (st.spoiled = true → st.repeated = false → s.now + 6600000 ≤ st.start + 30000000 → t.cal.coefs = s.cal.coefs
          ∧ t.cal.steps.get n = some { st with phase := .offWindow, passStart := s.now - 200000, spoiled := false, repeated := true })
      ∧ (st.spoiled = true → (st.repeated = true ∨ st.start + 30000000 < s.now + 6600000) → t.cal.coefs = s.cal.coefs ∧ t.cal.steps.get n = some { st with phase := .return_ })
      ∧ (∀ reason dev, st.spoiled = false → levelCheck st st.expected mean m = some (reason, dev) → t.cal.coefs = s.cal.coefs
          ∧ t.cal.steps.get n = some { st with phase := .return_ } ∧ Raises s t .calCheckFailed pkg [.w (0 : Nat), .w n, .w reason, .w dev])
      ∧ (st.spoiled = false → levelCheck st st.expected mean m = none → t.cal.steps.get n = some { st with phase := .return_ }
          ∧ t.cal.coefs = { s.cal.coefs with level := t.cal.coefs.level } ∧ (∀ k, k ≠ n → t.cal.coefs.level.get k = s.cal.coefs.level.get k)
          ∧ ((s.front.courses.get n).leader = some 1 → t.cal.coefs.level.get n = { s.cal.coefs.level.get n with dB := (s.cal.coefs.level.get n).dB - (m - st.expected) })
          ∧ ((s.front.courses.get n).leader ≠ some 1 → t.cal.coefs.level.get n = { s.cal.coefs.level.get n with dA := (s.cal.coefs.level.get n).dA - (m - st.expected) })))
  ∧ (∀ (s : State) (j x : Nat) (lead stand : Nat) (new old : Int), j < s.dies → (s.front.courses.get j).leader = some x → (s.front.courses.get j).mode = .duplex →
    (s.front.courses.get j).driftedAt + 100000000 ≤ s.now →
    (lead, stand) = (if x = 0 then (s.front.courses.get j).checkPower else ((s.front.courses.get j).checkPower.2, (s.front.courses.get j).checkPower.1)) → 0 < lead → 0 < stand →
    new = (if x = 0 then (s.cal.coefs.level.get j).dA else (s.cal.coefs.level.get j).dB) + db100 stand lead →
    old = (if x = 0 then (s.cal.coefs.level.get j).dB else (s.cal.coefs.level.get j).dA) →
    ∃ t, exec (.standbyDUpdate j) s = .next t ∧ Only [.front, .cal] s t ∧ t.front.courses.get j = { s.front.courses.get j with checkPower := (0, 0), driftedAt := s.now }
      ∧ (∀ k, k ≠ j → t.front.courses.get k = s.front.courses.get k ∧ t.cal.coefs.level.get k = s.cal.coefs.level.get k)
      ∧ ((new - old).natAbs ≤ 50 → x = 0 → t.cal.coefs.level.get j = { s.cal.coefs.level.get j with dB := new })
      ∧ ((new - old).natAbs ≤ 50 → x ≠ 0 → t.cal.coefs.level.get j = { s.cal.coefs.level.get j with dA := new })
      ∧ (50 < (new - old).natAbs → t.cal = s.cal))
  ∧ (∀ s : State, s.cal.suspect = true → s.cal.suspectUntil ≤ s.now →
    ∃ t, exec .calinSuspectHoldEnd s = .next t ∧ Only [.spans, .link, .cal, .integ, .mode, .sec, .modeCode] s t ∧ t.cal = { s.cal with suspect := false, toneAbsent := [] })

/-! ### Monitor converters (13) -/

/-- Monitor conversions and their commands: the background calibration stores offset and gain, or reports a loop-back or reference failure and keeps them, and a regular conversion it interrupted begins again; MON_INJECT joins its die's queue of four and waits, starting at once on an empty queue and aborting the regular conversion; MON_READ writes the latched record; a conversion that ends is accumulated and the next entry begins, or the pass ends; an injected conversion completes its command with the result and its start, and the next one, or the interrupted entry, follows; each second latches the record and restarts its sets (12 R353, 13 R363, R364, R367, R368, R369, R370). -/
def Obligations.MonitorConversions : Prop :=
  (∀ (s : State) (d : Nat) (ref0 ref1 loop100 loop300 : Int), s.monUp d = true → 0 < s.taskAge (.monitor d) →
    ((s.mon.dies.get d).queue = [] ∨ (s.mon.dies.get d).injStart = s.now) →
    ∃ t, exec (.monitorBackgroundCal d ref0 ref1 loop100 loop300) s = .next t
      ∧ Only [.spans, .link, .cal, .mon, .integ, .mode, .mb, .sec, .freeCount, .modeCode] s t
      ∧ (loopFails 0x100 (s.monCode d (s.monCorr d s.now) 20 loop100) = true → t.cal.coefs = s.cal.coefs
          ∧ Raises s t .monLoopbackFail d [.w d, .w (0x100 : Nat), .w (s.monCode d (s.monCorr d s.now) 20 loop100)])
      ∧ (loopFails 0x100 (s.monCode d (s.monCorr d s.now) 20 loop100) = false → loopFails 0x300 (s.monCode d (s.monCorr d s.now) 20 loop300) = true →
          t.cal.coefs = s.cal.coefs ∧ Raises s t .monLoopbackFail d [.w d, .w (0x300 : Nat), .w (s.monCode d (s.monCorr d s.now) 20 loop300)])
      ∧ (loopFails 0x100 (s.monCode d (s.monCorr d s.now) 20 loop100) = false → loopFails 0x300 (s.monCode d (s.monCorr d s.now) 20 loop300) = false →
          (refDeviation (s.monCode d (s.monCorr d s.now) 18 ref0) (s.cal.coefs.monitor.get d).ref0).natAbs ≤ 1000 →
          (refDeviation (s.monCode d (s.monCorr d s.now) 19 ref1) (s.cal.coefs.monitor.get d).ref1).natAbs ≤ 1000 →
          t.cal.coefs = { s.cal.coefs with monitor := s.cal.coefs.monitor.set d { s.cal.coefs.monitor.get d with
            offset := (Config.towardRefs ref0 ref1 (s.cal.coefs.monitor.get d).ref0 (s.cal.coefs.monitor.get d).ref1).1
            gain := (Config.towardRefs ref0 ref1 (s.cal.coefs.monitor.get d).ref0 (s.cal.coefs.monitor.get d).ref1).2 } })
      ∧ (loopFails 0x100 (s.monCode d (s.monCorr d s.now) 20 loop100) = false → loopFails 0x300 (s.monCode d (s.monCorr d s.now) 20 loop300) = false →
          1000 < (refDeviation (s.monCode d (s.monCorr d s.now) 18 ref0) (s.cal.coefs.monitor.get d).ref0).natAbs →
          t.cal.coefs = s.cal.coefs ∧ Raises s t .calCheckFailed d
            [.w (4 : Nat), .w d, .w (2 : Nat), .w (refDeviation (s.monCode d (s.monCorr d s.now) 18 ref0) (s.cal.coefs.monitor.get d).ref0)])
      ∧ (loopFails 0x100 (s.monCode d (s.monCorr d s.now) 20 loop100) = false → loopFails 0x300 (s.monCode d (s.monCorr d s.now) 20 loop300) = false →
          (refDeviation (s.monCode d (s.monCorr d s.now) 18 ref0) (s.cal.coefs.monitor.get d).ref0).natAbs ≤ 1000 →
          1000 < (refDeviation (s.monCode d (s.monCorr d s.now) 19 ref1) (s.cal.coefs.monitor.get d).ref1).natAbs →
          t.cal.coefs = s.cal.coefs ∧ Raises s t .calCheckFailed d
            [.w (4 : Nat), .w d, .w (2 : Nat), .w (refDeviation (s.monCode d (s.monCorr d s.now) 19 ref1) (s.cal.coefs.monitor.get d).ref1)])
      ∧ ((s.mon.dies.get d).converting = true → (t.mon.dies.get d).converting = true ∧ (t.mon.dies.get d).entry = (s.mon.dies.get d).entry ∧ (t.mon.dies.get d).convStart = s.now)
      ∧ ∀ k, k ≠ d → t.mon.dies.get k = s.mon.dies.get k)
  ∧ (∀ (s : State) (src : CmdSrc) (f : Fetched), s.begins .monInject src f none →
    ∃ t, exec (.monInject src) s = .next t ∧ Only [.link, .mon, .mb] s t
      ∧ (4 ≤ (s.mon.dies.get (field f.desc 4 0 3)).queue.length → t.mon = s.mon ∧ Answered s t src f .resourceBusy 0 [])
      ∧ ((s.mon.dies.get (field f.desc 4 0 3)).queue.length < 4 → Waits t src f (.injection (field f.desc 4 0 3))
          ∧ (t.mon.dies.get (field f.desc 4 0 3)).queue = (s.mon.dies.get (field f.desc 4 0 3)).queue ++
              [{ channel := field f.desc 5 0 5, acq := field f.desc 6 0 2, testDac := bitAt f.desc 7 0, dacCode := field f.desc 8 0 10, src := some src }]
          ∧ ((s.mon.dies.get (field f.desc 4 0 3)).queue = [] → (t.mon.dies.get (field f.desc 4 0 3)).injStart = s.now ∧ (t.mon.dies.get (field f.desc 4 0 3)).converting = false
              ∧ ((s.mon.dies.get (field f.desc 4 0 3)).converting = true → (t.mon.dies.get (field f.desc 4 0 3)).repeats = true))
          ∧ ∀ k, k ≠ field f.desc 4 0 3 → t.mon.dies.get k = s.mon.dies.get k))
  ∧ (∀ (s : State) (src : CmdSrc) (f : Fetched), s.begins .monRead src f none →
    ∃ t, exec (.monRead src) s = .next t ∧ Only [.link, .mb] s t ∧ Outputs s t src f (s.mon.dies.get (field f.desc 4 0 3)).readRecord)
  ∧ (∀ (s : State) (d : Nat) (raw : Int) (m : MonSt) (e : MonEntry), s.mon.dies.get d = m → m.active.entry m.entry = e → s.monUp d = true → m.converting = true →
    m.convStart + monTime m.active.lowPower e.acq ≤ s.now →
    ∃ t, exec (.monConversionEnd d raw) s = .next t ∧ Only [.front, .link, .mon, .integ, .sec] s t ∧ (∀ k, k ≠ d → t.mon.dies.get k = s.mon.dies.get k)
      ∧ (m.stopping = false → m.entry ≠ m.active.seqLast →
          (t.mon.dies.get d).converting = true ∧ (t.mon.dies.get d).entry = m.entry + 1 ∧ (t.mon.dies.get d).convStart = s.now
          ∧ (m.clearPending = true → (t.mon.dies.get d).accs = Tbl.empty {} ∧ (t.mon.dies.get d).trks = Tbl.empty {} ∧ (t.mon.dies.get d).clearPending = false)
          ∧ (m.clearPending = false → (t.mon.dies.get d).accs
              = (if e.accEn then m.accs.modify m.entry (·.add (m.active.present (monResult m.active (s.monCorr d m.convStart) e.channel raw))) else m.accs)
            ∧ (t.mon.dies.get d).trks
              = if e.trkEn then m.trks.modify e.trk (·.add (m.active.present (monResult m.active (s.monCorr d m.convStart) e.channel raw))) else m.trks))
      ∧ (m.stopping = false → m.entry = m.active.seqLast → m.applyPending = false → m.periodNow = 0 → m.queue = [] →
          (t.mon.dies.get d).converting = true ∧ (t.mon.dies.get d).entry = 0 ∧ (t.mon.dies.get d).convStart = s.now)
      ∧ (m.stopping = true → m.run = false → (t.mon.dies.get d).converting = false ∧ (t.mon.dies.get d).stopping = false))
  ∧ (∀ (s : State) (d at_ : Nat), s.monUp d = true → (s.mon.dies.get d).run = true → (s.mon.dies.get d).queue = [] → (s.mon.dies.get d).converting = false →
    (s.mon.dies.get d).passDue = some at_ → at_ ≤ s.now →
    ∃ t, exec (.monPassStart d) s = .next t ∧ Only [.mon] s t ∧ (∀ k, k ≠ d → t.mon.dies.get k = s.mon.dies.get k)
      ∧ t.mon.dies.get d = { s.mon.dies.get d with periodNow := (s.mon.dies.get d).passPeriod, passStart := s.now, entry := 0, converting := true, convStart := s.now, repeats := false, passDue := none })
  ∧ (∀ (s : State) (d : Nat) (raw : Int) (x : MonInj) (rest : List MonInj), (s.mon.dies.get d).queue = x :: rest → s.monUp d = true →
    (s.mon.dies.get d).injStart + monTime (s.mon.dies.get d).active.lowPower x.acq ≤ s.now →
    ∃ t, exec (.monInjectionEnd d raw) s = .next t ∧ Only [.link, .mon, .mb] s t ∧ (∀ k, k ≠ d → t.mon.dies.get k = s.mon.dies.get k)
      ∧ (t.mon.dies.get d).queue = rest
      ∧ (rest ≠ [] → (t.mon.dies.get d).injStart = s.now)
      ∧ (rest = [] → (s.mon.dies.get d).repeats = true → (t.mon.dies.get d).converting = true ∧ (t.mon.dies.get d).entry = (s.mon.dies.get d).entry ∧ (t.mon.dies.get d).convStart = s.now)
      ∧ ∀ src ex, x.src = some src → s.execOf src = some ex → ex.wait = .injection d → (∀ r, src = .ring r → r < 16) →
          Answered s t src ⟨ex.desc, ex.index, true⟩ .ok
            (wrapInt 16 ((s.mon.dies.get d).active.present (monResult (s.mon.dies.get d).active (s.monCorr d (s.mon.dies.get d).injStart) x.channel raw))
              + ((s.mon.dies.get d).injStart % 2 ^ 32) * 65536) [])
  ∧ (∀ s : State, s.mon.lastLatch < s.now / 100000000 * 100000000 →
    ∃ t, exec .monSecondLatch s = .next t ∧ Only [.mon] s t ∧ t.mon.lastLatch = s.now / 100000000 * 100000000
      ∧ (∀ d, d < s.dies → s.monUp d = true → t.mon.dies.get d = { s.mon.dies.get d with latched := s.monRecord d, secAccs := Tbl.empty {}, secTrks := Tbl.empty {} })
      ∧ (∀ d, (s.dies ≤ d ∨ s.monUp d = false) → t.mon.dies.get d = s.mon.dies.get d))

/-- Monitor registers: APPLY on a stopped sequence brings the staged registers into force, or refuses them with MON_SEQ_REJECTED where entries of both formats share a pair; else it waits for the pass to end. CLEAR clears at once where no conversion runs. RUN starts the sequence at entry 0, at once or at the next PASS_PERIOD multiple, and its clearing lets the conversion end first. A read of SUM_LO returns it and snapshots SUM_HI and COUNT; of an absent die it returns 0 (00 R4, 13 R365, R369, R370, R372). -/
def Obligations.MonitorRegisters : Prop :=
  (∀ (s : State) (d : Nat) (m : MonSt), s.mon.dies.get d = m → s.barUp = true → s.monUp d = true →
    ∃ t, exec (.monApply d) s = .next t ∧ Only [.front, .link, .mon, .integ, .mode, .sec] s t ∧ t.mode = { s.mode with lastAccess := s.now } ∧ (∀ k, k ≠ d → t.mon.dies.get k = s.mon.dies.get k)
      ∧ (m.run = true ∨ m.converting = true → t.mon.dies.get d = { m with applyPending := true } ∧ t.front = s.front ∧ t.link = s.link)
      ∧ (m.run = false → m.converting = false → m.staged.mixedPairs = [] → (t.mon.dies.get d).active = m.staged ∧ (t.mon.dies.get d).applyPending = false
          ∧ (∀ i, (t.mon.dies.get d).accs.get i = if i ∈ (m.active.affects m.staged).1 then m.accs.dflt else m.accs.get i)
          ∧ ∀ j, (t.mon.dies.get d).trks.get j = if j ∈ (m.active.affects m.staged).2 then m.trks.dflt else m.trks.get j)
      ∧ ∀ j l, m.run = false → m.converting = false → m.staged.mixedPairs = j :: l →
          t.mon.dies.get d = { m with applyPending := false, seqRejected := true } ∧ Raises s t .monSeqRejected d [.w d, .w j])
  ∧ (∀ (s : State) (d : Nat) (m : MonSt), s.mon.dies.get d = m → s.barUp = true → s.monUp d = true →
    ∃ t, exec (.monClear d) s = .next t ∧ Only [.mon, .mode] s t ∧ t.mode = { s.mode with lastAccess := s.now } ∧ (∀ k, k ≠ d → t.mon.dies.get k = s.mon.dies.get k)
      ∧ (m.converting = true ∨ m.queue ≠ [] → t.mon.dies.get d = { m with clearPending := true })
      ∧ (m.converting = false → m.queue = [] → t.mon.dies.get d = { m with clearPending := false, accs := Tbl.empty {}, trks := Tbl.empty {} }))
  ∧ (∀ (s : State) (d : Nat) (m : MonSt), s.mon.dies.get d = m → s.barUp = true → s.monUp d = true → m.run = false →
    ∃ t, exec (.monRunSet d) s = .next t ∧ Only [.mon, .mode] s t ∧ t.mode = { s.mode with lastAccess := s.now } ∧ (∀ k, k ≠ d → t.mon.dies.get k = s.mon.dies.get k) ∧ (t.mon.dies.get d).run = true
      ∧ (m.stopping = true → t.mon.dies.get d = { m with run := true })
      ∧ (m.stopping = false → m.passPeriod = 0 → m.queue = [] →
          t.mon.dies.get d = { m with run := true, periodNow := 0, passStart := s.now, entry := 0, converting := true, convStart := s.now, repeats := false, passDue := none })
      ∧ (m.stopping = false → m.passPeriod ≠ 0 → s.now < ceilTo (m.passPeriod * 100) s.now →
          t.mon.dies.get d = { m with run := true, converting := false, entry := 0, passDue := some (ceilTo (m.passPeriod * 100) s.now) }))
  ∧ (∀ (s : State) (d : Nat) (m : MonSt), s.mon.dies.get d = m → s.barUp = true → s.monUp d = true → m.run = true →
    ∃ t, exec (.monRunClear d) s = .next t ∧ Only [.front, .link, .mon, .integ, .mode, .sec] s t ∧ t.mode = { s.mode with lastAccess := s.now } ∧ (∀ k, k ≠ d → t.mon.dies.get k = s.mon.dies.get k) ∧ (t.mon.dies.get d).run = false
      ∧ (m.converting = true → t.mon.dies.get d = { m with run := false, stopping := true } ∧ t.front = s.front ∧ t.link = s.link)
      ∧ (m.converting = false → (t.mon.dies.get d).converting = false ∧ (t.mon.dies.get d).passDue = none)
      ∧ (m.converting = false → m.applyPending = false → t.mon.dies.get d = { m with run := false, stopping := false, repeats := false, passDue := none })
      ∧ ∀ j l, m.converting = false → m.applyPending = true → m.staged.mixedPairs = j :: l → Raises s t .monSeqRejected d [.w d, .w j])
  ∧ (∀ (s : State) (d i : Nat), s.barUp = true → s.dies ≤ d → i < 16 →
    exec (.sumLoRead d i) s = .next { s with mode := { s.mode with lastAccess := s.now }, link := { s.link with sent := s.link.sent ++ [.regRead 0] } })
  ∧ (∀ (s : State) (d i a : Nat), s.barUp = true → d < s.dies → i < 16 → a = 0x10000 * (d + 1) + 0x3450 + 0x10 * i →
    ∃ t, exec (.sumLoRead d i) s = .next t ∧ Only [.link, .mon, .mode] s t ∧ t.mode = { s.mode with lastAccess := s.now }
      ∧ s.readBar0 a = ((s.mon.dies.get d).accs.get i).sum.toNat % 2 ^ 32 ∧ t.readBar0 (a + 4) = ((s.mon.dies.get d).accs.get i).sum.toNat / 2 ^ 32
      ∧ t.readBar0 (a + 8) = ((s.mon.dies.get d).accs.get i).count.toNat ∧ (∀ k, k ≠ d → t.mon.dies.get k = s.mon.dies.get k)
      ∧ t.link = { s.link with sent := s.link.sent ++ [.regRead (((s.mon.dies.get d).accs.get i).sum.toNat % 2 ^ 32)] }
      ∧ t.mon.dies.get d = { s.mon.dies.get d with
          snaps := (s.mon.dies.get d).snaps.set i (((s.mon.dies.get d).accs.get i).sum.toNat / 2 ^ 32, ((s.mon.dies.get d).accs.get i).count.toNat) })

/-! ### Faults, units and modes (14, 17) -/

/-- Fault commands: FAULT_QUERY writes the package summary or a die's detail; FAULT_CLEAR erases a unit's occurrences and reports it; UNIT_RETIRE is RESOURCE_BUSY where the unit carries work that nothing can take over and FORCE is 0, retires the unit, and waits where its replacement is made later; UNIT_RESTORE refuses a unit that is not retired, answers 1 and changes nothing where the trial fails, waits where the trial runs, and else returns the unit; LOG_READ writes the entries asked for (14 R380, R381, R389, 11 R329). -/
def Obligations.FaultCommands : Prop :=
  (∀ (s : State) (src : CmdSrc) (f : Fetched), s.begins .faultQuery src f none →
    ∃ t, exec (.faultQuery src) s = .next t ∧ Only [.link, .mb] s t
      ∧ Outputs s t src f (if field f.desc 4 0 8 = 0 then (takeFront src s).packageSummary else (takeFront src s).detailOf (field f.desc 5 0 3)))
  ∧ (∀ (s : State) (src : CmdSrc) (f : Fetched), s.begins .faultClear src f none →
    ∃ t, exec (.faultClear src) s = .next t ∧ Only [.clk, .spans, .link, .integ, .mode, .mb, .sec, .modeCode] s t ∧ Answered s t src f .ok 0 []
      ∧ t.integ.occs = s.integ.occs.filter (fun o => o.unit != unitOf f.desc)
      ∧ ((unitOf f.desc).kind ≠ .clockLoop → t.clk = s.clk)
      ∧ Raises s t .faultCleared (unitOf f.desc).die [.w (unitOf f.desc).kind.type, .w (unitOf f.desc).die, .w (unitOf f.desc).loc])
  ∧ (∀ (s : State) (src : CmdSrc) (f : Fetched) (u : UnitRef), s.begins .unitRetire src f none → unitOf f.desc = u →
    ∃ t, exec (.unitRetire src) s = .next t ∧ Only [.spans, .front, .taps, .lanes, .ofdm, .link, .cal, .integ, .mode, .domains, .mb, .sec, .nv, .modeCode] s t
      ∧ ((takeFront src s).replaceable u = false → bitAt f.desc 9 0 = false → Only [.link, .mb] s t ∧ Answered s t src f .resourceBusy 0 [])
      ∧ ((takeFront src s).replaceable u = false → bitAt f.desc 9 0 = true → u.kind = .watchTap ∨ u.kind = .bandTap ∨ u.kind = .context ∨ u.kind = .slot →
          t.retired u = true)
      ∧ ((takeFront src s).replaceable u = true → u.kind = .bandTap ∨ u.kind = .exportTap → (takeFront src s).unitWorks u = true →
          Waits t src f (.retire u) ∧ (t.taps.audits.get u.die).replace = some u ∧ t.nv = s.nv)
      ∧ ((takeFront src s).replaceable u = true → u.kind = .watchTap ∨ u.kind = .clockLoop ∨ u.kind = .sramWord →
          t.retired u = true ∧ Raises s t .unitRetired u.die [.w u.kind.type, .w u.die, .w u.loc, .w (2 : Nat)] ∧ Answered s t src f .ok 0 []))
  ∧ (∀ (s : State) (src : CmdSrc) (f : Fetched) (u : UnitRef) (pass : Bool), s.begins .unitRestore src f none → unitOf f.desc = u →
    ∃ t, exec (.unitRestore src pass) s = .next t
      ∧ Only [.clk, .spans, .front, .taps, .lanes, .ofdm, .link, .cal, .integ, .mode, .domains, .mb, .sec, .nv, .retirement, .modeCode] s t
      ∧ ((takeFront src s).restorable u = false → Only [.link, .mb] s t ∧ Answered s t src f .badParam 6 [])
      ∧ ((takeFront src s).restorable u = true → u.kind = .engine → Waits t src f (.restore u)
          ∧ (t.ofdm.regions.get (u.die * 2 + u.loc / 2)).restore = some (u.loc, false) ∧ t.nv = s.nv)
      ∧ ((takeFront src s).restorable u = true → u.kind = .audit ∨ u.kind = .context ∨ u.kind = .slot ∨ u.kind = .watchTap ∨ u.kind = .linkLane ∨ u.kind = .clockLoop ∨ u.kind = .sramWord →
          (pass = false → Only [.link, .mb] s t ∧ Answered s t src f .ok 1 [])
          ∧ (pass = true → t.nv = { s.nv with retired := s.nv.retired.filter (· != u) } ∧ t.retired u = false ∧ Answered s t src f .ok 0 []
              ∧ Raises s t .unitRestored u.die [.w u.kind.type, .w u.die, .w u.loc, .w (2 : Nat)]))
      ∧ ((takeFront src s).restorable u = true → u.kind = .lane → (takeFront src s).replacedPos (laneCluster (u.global 32)) ≠ some (u.global 32 % 8) →
          (pass = false → Answered s t src f .ok 1 [] ∧ t.nv = s.nv ∧ Raises s t .laneRestored u.die [.w (u.global 32), .w (1 : Nat), .q (0 : Nat)])
          ∧ (pass = true → Answered s t src f .ok 0 [] ∧ t.nv = { s.nv with retired := s.nv.retired.filter (· != u) }
              ∧ Raises s t .laneRestored u.die [.w (u.global 32), .w (0 : Nat), .q (nextOf 200000 s.now)])))
  ∧ (∀ (s : State) (src : CmdSrc) (f : Fetched), s.begins .logRead src f none →
    ∃ t, exec (.logRead src) s = .next t ∧ Only [.link, .mb] s t
      ∧ Outputs s t src f (s.logOutput (field f.desc 4 0 32) (min (field f.desc 8 0 16) ((bufLen f.desc - 16) / 96))))

/-- MODE_SET and the ticks of reception: the mailbox is DENIED while a ring is enabled; the mode already in force is answered with its code; a target that the mode does not allow is STATE_REFUSED; a change or a pending set makes it RESOURCE_BUSY; a change to or from reception or WATCH waits for its tick, any other is in force at once, with MODE_CHANGED naming both modes and the cause. At the entry tick reception begins in the mode code that its faults give; at the exit tick, once no fade runs, the target is in force (17 R437, R438, R439, R440, R452). -/
def Obligations.ModeChanges : Prop :=
  (∀ (s : State) (src : CmdSrc) (f : Fetched) (m target : OpMode), s.begins .modeSet src f none → OpMode.ofCode (field f.desc 4 0 4) = some m →
    target = (if m.reception then .run else m) →
    ∃ t, exec (.modeSet src) s = .next t ∧ Only [.clk, .spans, .front, .link, .cal, .integ, .mode, .domains, .mb, .sec, .nv, .modeCode] s t
      ∧ (src = .mailbox → (∃ r, r < 16 ∧ (s.link.rings.get r).enable = true) → Only [.link, .mb] s t ∧ Answered s t src f .denied 0 [])
      ∧ ((src = .mailbox → ∀ r, r < 16 → (s.link.rings.get r).enable = false) →
          ((m = s.mode.mode ∨ (m.reception = true ∧ s.mode.mode.reception = true)) → Only [.link, .mb] s t ∧ Answered s t src f .ok s.mode.mode.code [])
          ∧ (m ≠ s.mode.mode → (m.reception = false ∨ s.mode.mode.reception = false) →
              (s.mayGo target = false → Only [.link, .mb] s t ∧ Answered s t src f .stateRefused s.mode.mode.code [])
              ∧ (s.mayGo target = true → (s.mode.change.isSome = true ∨ (s.cfg.commit.isSome = true ∧ target.receiving = false)) →
                  Only [.link, .mb] s t ∧ Answered s t src f .resourceBusy 0 [])
              ∧ (s.mayGo target = true → s.mode.change = none → (s.cfg.commit = none ∨ target.receiving = true) → s.ticked target = true →
                  Waits t src f .mode ∧ t.mode = { s.mode with change := some ⟨target, s.now / 100000 + 2, src.cause, some src⟩ })
              ∧ (s.mayGo target = true → s.mode.change = none → s.cfg.commit = none → s.ticked target = false →
                  t.mode.mode = target ∧ Raises s t .modeChanged pkg [.w s.mode.mode.code, .w target.code, .w src.cause.code]
                  ∧ ((∀ c e, s.execOf c = some e → e.wait ≠ .mode) → Answered s t src f .ok target.code [])))))
  ∧ (∀ (s : State) (c : ModeChange), s.mode.change = some c → c.isExit s.mode.mode = false → c.tick * 100000 ≤ s.now →
    ∃ t, exec .receptionEntryTick s = .next t
      ∧ Only [.clk, .spans, .front, .taps, .lanes, .ofdm, .audio, .ports, .link, .cfg, .cal, .integ, .mode, .domains, .mb, .sec, .modeCode] s t
      ∧ (c.target = .run → t.mode.mode.reception = true)
      ∧ (c.target.reception = false → t.mode.mode = c.target ∧ Raises s t .modeChanged pkg [.w s.mode.mode.code, .w c.target.code, .w c.cause.code])
      ∧ (s.mode.mode.receiving = true → t.cfg = s.cfg ∧ t.front = s.front ∧ t.ports = s.ports ∧ t.audio = s.audio))
  ∧ (∀ (s : State) (c : ModeChange), s.mode.change = some c → c.isExit s.mode.mode = true → c.tick * 100000 ≤ s.now → s.fadeRuns = false →
    ∃ t, exec .receptionExitTick s = .next t
      ∧ Only [.clk, .spans, .front, .taps, .lanes, .ofdm, .audio, .ports, .link, .cfg, .cal, .integ, .mode, .domains, .mb, .sec, .nv, .modeCode] s t
      ∧ t.mode.mode = c.target ∧ ∃ old : OpMode, Raises s t .modeChanged pkg [.w old.code, .w c.target.code, .w c.cause.code])

/-! ### Security (15) -/

/-- Security commands: ATTEST and KEY_INFO write their records; HALLMARK_CONFIG waits for its boundary, whose tick is its RESULT; UPDATE_BEGIN erases the slot that is not running and enters UPDATE; UPDATE_CHUNK writes a chunk; UPDATE_FINISH ends the update in the mode from which it came and, only where every byte is written, the digest agrees and the image is accepted, makes the slot valid, preferred with ACTIVATE, or enrols the owner; the outcome is its status (15 R399, R400, R402, R404, R405). -/
def Obligations.SecurityCommands : Prop :=
  (∀ (s : State) (src : CmdSrc) (f : Fetched), s.begins .attest src f none →
    ∃ t, exec (.attest src) s = .next t ∧ Only [.link, .mb] s t ∧ Outputs s t src f ((takeFront src s).attestation (part f.desc 4 32)))
  ∧ (∀ (s : State) (src : CmdSrc) (f : Fetched), s.begins .keyInfo src f none →
    ∃ t, exec (.keyInfo src) s = .next t ∧ Only [.link, .mb] s t ∧ Outputs s t src f (s.keyRecord (field f.desc 4 0 8)))
  ∧ (∀ (s : State) (src : CmdSrc) (f : Fetched), s.begins .hallmarkConfig src f none →
    ∃ t, exec (.hallmarkConfig src) s = .next t ∧ Only [.link, .mb, .sec] s t ∧ Answered s t src f .ok (s.settingAt (field f.desc 4 0 8) / 100000) []
      ∧ t.sec = { s.sec with hall := { s.sec.hall with next_ := some ⟨s.settingAt (field f.desc 4 0 8), field f.desc 4 0 8, bitAt f.desc 5 0⟩ } })
  ∧ (∀ (s : State) (src : CmdSrc) (f : Fetched), s.begins .updateBegin src f none →
    ∃ t, exec (.updateBegin src) s = .next t ∧ Only [.spans, .audio, .link, .integ, .mode, .mb, .sec, .nv, .freeCount, .modeCode, .firmware] s t
      ∧ (s.mode.change.isSome = true → Only [.link, .mb] s t ∧ Answered s t src f .resourceBusy 0 [])
      ∧ (s.mode.change = none → ∃ b, (s.mode.mode ≠ .recovery → b = !s.sec.runningB) ∧ Answered s t src f .ok (b2n b) [] ∧ t.mode.mode = .update
          ∧ t.nv = { s.nv with sec := { s.nv.sec.setSlot b {} with updating := some b } }
          ∧ t.sec.update = some { slotB := b, len := field f.desc 4 0 32, digest := part f.desc 8 32, from_ := s.mode.mode }
          ∧ Raises s t .modeChanged pkg [.w s.mode.mode.code, .w OpMode.update.code, .w ModeCause.update.code]))
  ∧ (∀ (s : State) (src : CmdSrc) (f : Fetched) (buf : Option (List Byte)) (ok : Bool), s.begins .updateChunk src f buf →
    ∃ t, exec (.updateChunk src buf ok) s = .next t ∧ Only [.link, .mb, .sec] s t
      ∧ (ok = false → t.sec = s.sec ∧ Answered s t src f .timeout 0xFF [])
      ∧ (ok = true → Answered s t src f .ok 0 []
          ∧ t.sec = { s.sec with update := s.sec.update.map fun u => { u with chunks := u.chunks ++ [(field f.desc 4 0 32, inputBytes f.desc buf)] } }))
  ∧ (∀ (s : State) (src : CmdSrc) (f : Fetched) (u : UpdateSt), s.begins .updateFinish src f none → s.sec.update = some u →
    ∃ t, exec (.updateFinish src) s = .next t ∧ Only [.spans, .audio, .link, .integ, .mode, .mb, .sec, .nv, .freeCount, .modeCode, .firmware] s t
      ∧ t.sec.update = none ∧ t.nv.sec.updating = none ∧ (u.from_.reception = false → t.mode.mode = u.from_)
      ∧ (u.complete = false → t.nv = { s.nv with sec := { s.nv.sec with updating := none } } ∧ ∃ r, Answered s t src f .badParam r [])
      ∧ (u.complete = true → padTo 32 (Config.sm3 u.image) ≠ u.digest → t.nv = { s.nv with sec := { s.nv.sec with updating := none } } ∧ Answered s t src f .checkFail 0 [])
      ∧ (u.complete = true → padTo 32 (Config.sm3 u.image) = u.digest → s.accepts u.image = false →
          t.nv = { s.nv with sec := { s.nv.sec with updating := none } } ∧ Answered s t src f .denied 0 [])
      ∧ (u.complete = true → padTo 32 (Config.sm3 u.image) = u.digest → s.accepts u.image = true → Answered s t src f .ok 0 []
          ∧ (field u.image 6 0 8 = 1 → t.nv.sec.ownerHash = some (padTo 32 (Config.sm3 (slice u.image 128 64))) ∧ t.nv.sec.slotA = s.nv.sec.slotA ∧ t.nv.sec.slotB = s.nv.sec.slotB
              ∧ Raises s t .ownerEnrolled pkg [.q s.now])
          ∧ (field u.image 6 0 8 ≠ 1 → t.nv.sec.slot u.slotB = ⟨true, u.image⟩ ∧ t.nv.sec.slot (!u.slotB) = s.nv.sec.slot (!u.slotB) ∧ t.nv.sec.ownerHash = s.nv.sec.ownerHash
              ∧ (bitAt f.desc 4 0 = true → t.nv.sec.preferB = u.slotB ∧ t.nv.sec.bootSeq = s.nv.sec.bootSeq + 1)
              ∧ (bitAt f.desc 4 0 = false → t.nv.sec.preferB = s.nv.sec.preferB ∧ t.nv.sec.bootSeq = s.nv.sec.bootSeq))))

/-- Security events: after 24 hours the anti-rollback counter is raised to the running image's level, with ROLLBACK_RAISED, and no bit of it goes back; an interval that ends is sealed, its record numbered in order and chained to the seal before it, delivered with its leaves, and the next one begins at its end with what came since; an interval that an armed edge ended is sealed with that step; with none in progress one begins at its boundary; a key is replaced at the first boundary after a day; a read of CHALLENGE takes a new nonce; a response opens its level, level 2 only in DIAGNOSTIC and at the price of the key, and the third wrong one locks the port (15 R398, R405, R408, R409, R410, R411, R412, R413). -/
def Obligations.SecurityEvents : Prop :=
  (∀ s : State, s.sec.stage = .done → s.mode.mode ≠ .recovery → s.mode.mode ≠ .halted → s.mode.mode ≠ .off → s.sec.bootedAt + 86400 * 100000000 ≤ s.now →
    s.nv.sec.rollback < s.sec.fwLevel →
    ∃ t, exec .antiRollbackRaise s = .next t ∧ Only [.link, .integ, .sec, .nv, .freeCount] s t
      ∧ t.nv = { s.nv with sec := { s.nv.sec with rollbackBits := t.nv.sec.rollbackBits } }
      ∧ (s.sec.fwLevel ≤ 64 → t.nv.sec.rollback = s.sec.fwLevel) ∧ Raises s t .rollbackRaised pkg [.w s.sec.fwLevel])
  ∧ (∀ (s : State) (a : HallAcc) (stop : Nat) (ls : List (List Byte)), s.sec.hall.cut = none → s.sec.hall.acc = some a → s.mode.mode.sealing = true → stop = s.sec.hall.endOf a.start → stop ≤ s.now →
    ls = s.leaves (a.upTo stop) stop →
    ∃ t, exec .hallmarkIntervalEnd s = .next t ∧ Only [.link, .sec, .nv] s t
      ∧ t.sec.hall.recordNum = s.sec.hall.recordNum + 1 ∧ t.sec.hall.keyNew = false ∧ t.sec.hall.cut = none
      ∧ (∃ last, t.sec.hall.last = some last ∧ last.boot = s.nv.bootNum.toNat ∧ last.num = s.sec.hall.recordNum
          ∧ (s.sec.hall.keyNew = false → last.digest = padTo 32 (Config.sm3 (s.sealRecord a stop none ls)))
          ∧ (s.sec.hall.checkpointAt + 600 * 100000000 ≤ s.now → t.nv.sec.checkpoint = some last)
          ∧ (s.now < s.sec.hall.checkpointAt + 600 * 100000000 → t.nv = s.nv))
      ∧ (s.sec.hall.keyNew = false → t.link = (formRecordBlocks .hallmark (fun _ => true) 65536 (s.sealRecord a stop none ls :: ls)
          { format := 0x0701, srcType := 9, srcIndex := 0, die := 0, timestamp := a.start, sampleCount := 0, flags := s.clockFlags 0 [] a.start stop, payload := [] } s).link)
      ∧ (s.sec.hall.next_ = none → s.sec.hall.enable = true → ∃ b, t.sec.hall.acc = some b ∧ b.start = stop ∧ b.events = a.eventsAfter stop)
      ∧ (s.sec.hall.next_ = none → s.sec.hall.enable = false → t.sec.hall.acc = none))
  ∧ (∀ (s u : State) (a : HallAcc) (stop : Nat) (step : Int), s.sec.hall.cut = some (a, stop, step) → s.mode.mode.sealing = true → u = s.setHall (fun h => { h with cut := none }) →
    ∃ t, exec .hallmarkIntervalEnd s = .next t ∧ Only [.link, .sec, .nv] s t ∧ t.sec.hall.cut = none ∧ t.sec.hall.acc = s.sec.hall.acc ∧ t.sec.hall.recordNum = s.sec.hall.recordNum + 1
      ∧ ∃ last, t.sec.hall.last = some last ∧ last.boot = s.nv.bootNum.toNat ∧ last.num = s.sec.hall.recordNum
        ∧ (s.sec.hall.keyNew = false → last.digest = padTo 32 (Config.sm3 (u.sealRecord a stop (some step) (u.leaves a stop)))))
  ∧ (∀ s : State, s.sec.hall.cut = none → s.sec.hall.acc = none → s.sec.hall.next_ = none → s.sec.hall.enable = true → s.mode.mode.sealing = true →
    s.sec.hall.startDue ≤ s.now / s.sec.hall.counts * s.sec.hall.counts →
    ∃ t b, exec .hallmarkIntervalEnd s = .next t ∧ t.sec.hall.acc = some b ∧ b.start = s.now / s.sec.hall.counts * s.sec.hall.counts ∧ b.events = [] ∧ t.link = s.link ∧ t.nv = s.nv)
  ∧ (∀ (s : State) (k : HallKey) (a : HallAcc), s.sec.hall.key = some k → s.sec.hall.acc = some a → k.since + 86400 * 100000000 ≤ a.start → s.sec.hall.erased = false →
    ∃ t, exec .hallmarkKeyRotation s = .next t ∧ Only [.link, .integ, .sec, .freeCount] s t ∧ t.sec.hall.keyNew = true
      ∧ ∃ k', t.sec.hall.key = some k' ∧ k'.since = s.now ∧ k'.number = s.freeCount + 1
        ∧ Raises s t .hallmarkKeyNew pkg [.w (leNat ((keyId k'.pub).take 4)), .w s.sec.hall.recordNum])
  ∧ (∀ (s : State) (level : Nat), s.sec.debugLocked = false → s.mode.mode ≠ .off →
    ∃ t, exec (.debugChallengeRead level) s = .next t ∧ Only [.link, .sec, .freeCount] s t ∧ t.freeCount = s.freeCount + 1
      ∧ ∃ b, t.sec = { s.sec with challenge := some ⟨b, level, s.now⟩ } ∧ t.link = { s.link with sent := s.link.sent ++ [.debugOut b] }
        ∧ b = le 8 s.nv.sec.serial.toNat ++ le 4 s.nv.bootNum.toNat ++ le 1 level ++ zeros 3 ++ le 32 (Config.freeValue s.freeCount))
  ∧ (∀ (s : State) (r : List Byte) (level : Nat), s.sec.debugLocked = false → s.mode.mode ≠ .off → level = (s.sec.challenge.map (·.level)).getD 0 →
    ∃ t, exec (.debugResponseWrite r) s = .next t ∧ Only [.link, .integ, .sec, .debugLevel] s t ∧ t.sec.challenge = none
      ∧ (s.responseValid r = true → level = 2 → s.mode.mode ≠ .diagnostic → t.sec = { s.sec with challenge := none } ∧ t.link = s.link)
      ∧ (s.responseValid r = true → (level ≠ 2 ∨ s.mode.mode = .diagnostic) → t.sec.debugLevel = max s.sec.debugLevel level ∧ t.sec.debugAttempts = s.sec.debugAttempts
          ∧ t.sec.hall.key = (if level = 2 then none else s.sec.hall.key) ∧ (level = 2 → t.sec.hall.erased = true) ∧ Raises s t .debugOpened pkg [.w level])
      ∧ (s.responseValid r = false → t.sec.debugLevel = s.sec.debugLevel ∧ t.sec.debugAttempts = s.sec.debugAttempts + 1
          ∧ t.sec.debugLocked = decide (3 ≤ s.sec.debugAttempts + 1) ∧ t.sec.hall.key = s.sec.hall.key
          ∧ Raises s t .debugDenied pkg [.w (s.sec.debugAttempts + 1 : Nat)]))

/-! ### Repair and background work (14) -/

/-- Memory, tasks and records: a corrected error is counted and, once lasting, remaps its row to a spare one; an uncorrectable word is reported and its owner treats it, controller memory by halting the part or fencing its die; planish passes begin at their multiples and report their length; a task that falls behind becomes due and then, with TASK_OVERDUE, overdue; a flash block that cannot be rewritten is reported; a lasting rule is written within its limits; the oldest waiting entry joins the log, which keeps 8,192; what a minute suppressed is one entry (14 R378, R379, R382, R383, R384, R386, R387, R388, R389). -/
def Obligations.RepairEvents : Prop :=
  (∀ (s : State) (d array row word : Nat), s.dieUp d = true → array < 112 → s.mode.mode ≠ .off →
    ∃ t, exec (.sramSingleBitError d array row word) s = .next t ∧ Only [.spans, .link, .integ, .mode, .sec, .nv, .modeCode] s t
      ∧ (t.integ.dies.get d).secCount = (s.integ.dies.get d).secCount + 1
      ∧ (s.recentOccs 0 (wordRef d word) + 1 < (s.rule 0).count → t.nv = s.nv)
      ∧ ((s.rule 0).count ≤ s.recentOccs 0 (wordRef d word) + 1 → s.rowsLeft d array = 0 → t.nv = s.nv)
      ∧ ((s.rule 0).count ≤ s.recentOccs 0 (wordRef d word) + 1 → 0 < s.rowsLeft d array →
          t.nv = { s.nv with spareRows := s.nv.spareRows.set (d * 112 + array) (s.rowsLeft d array - 1), remapped := s.nv.remapped ++ [(d, array, row)] }
          ∧ Raises s t .sramRowRemapped d [.w d, .w array, .w row, .w ((s.rowsLeft d array : Int) - 1)]
          ∧ (s.rowsLeft d array = 1 → Raises s t .sramRowsExhausted d [.w d, .w array])))
  ∧ (∀ (s : State) (d word : Nat) (o : SramOwner), s.dieUp d = true → s.mode.mode ≠ .off → s.mode.mode ≠ .halted →
    ∃ t, exec (.sramUncorrectable d word o) s = .next t
      ∧ Only [.spans, .front, .taps, .lanes, .ofdm, .audio, .ports, .link, .cfg, .cal, .integ, .mode, .domains, .mb, .sec, .nv, .modeCode] s t
      ∧ Raises s t .sramUncorrectable d [.w d, .w o.region.code, .w word, .q s.now]
      ∧ (o = .flitControl → (t.integ.dies.get d).dedCount = satInc (s.integ.dies.get d).dedCount ∧ Only [.link, .integ, .sec] s t)
      ∧ (o = .controlMemory → d = 0 → t.mode.mode = .halted)
      ∧ (o = .controlMemory → d ≠ 0 → t.integ.fenced.contains d = true))
  ∧ (∀ (s : State) (d : Nat), s.dieUp d = true → s.domainReady d 0 = true → s.mode.mode ≠ .boot → s.mode.mode ≠ .recovery → (s.integ.dies.get d).passRunning = false →
    s.now % 800000000 = 0 →
    ∃ t, exec (.planishPassStart d) s = .next t ∧ Only [.integ] s t
      ∧ t.integ = { s.integ with dies := s.integ.dies.set d { s.integ.dies.get d with passRunning := true, passStart := s.now, passAge := 0 } })
  ∧ (∀ (s : State) (d : Nat), s.dieUp d = true → (s.integ.dies.get d).passRunning = true →
    ∃ t, exec (.planishPassComplete d) s = .next t ∧ Only [.spans, .link, .integ, .mode, .sec, .modeCode] s t
      ∧ t.integ.dies.get d = { s.integ.dies.get d with passRunning := false, passAge := 0, lastPassMs := BitVec.ofNat 16 ((s.now - (s.integ.dies.get d).passStart) / 100000), passCount := (s.integ.dies.get d).passCount + 1 }
      ∧ t.integ.tasks = s.integ.tasks.filter (fun a => a.task != .planish d) ∧ ∀ k, k ≠ d → t.integ.dies.get k = s.integ.dies.get k)
  ∧ (∀ (s : State) (x : Task) (overdue isOver : Bool) (a b : Nat), s.taskTimes x = some (a, b) → s.mode.mode ≠ .off → a ≤ s.now →
    isOver = s.taskOver x overdue b →
    (isOver = true → s.taskAge x ≠ 2) → (isOver = false → s.taskAge x = 0) →
    ∃ t, exec (.backgroundTaskAgeing x overdue) s = .next t ∧ Only [.spans, .lanes, .link, .cal, .integ, .mode, .sec, .modeCode] s t
      ∧ (isOver = true → Raises s t .taskOverdue x.die [.w x.code, .w x.die] ∧ ∀ d, x = .monitor d → Raises s t .calOverdue d [.w (4 : Nat), .w d])
      ∧ (isOver = false → t.integ.tasks = s.integ.tasks ++ [⟨x, none⟩]))
  ∧ (∀ (s : State) (fails : Bool), s.mode.mode ≠ .off →
    ∃ t, exec (.flashRefresh fails) s = .next t ∧ Only [.spans, .link, .integ, .mode, .sec, .modeCode] s t
      ∧ (fails = false → t.integ.tasks = s.integ.tasks.filter (fun a => a.task != .flashRefresh) ∧ t.integ.flashFaults = s.integ.flashFaults.filter (· != .refresh))
      ∧ (fails = true → t.integ.flashFaults.contains .refresh = true ∧ t.integ.tasks = s.integ.tasks
          ∧ (s.integ.flashFaults.contains .refresh = false → Raises s t .flashFault pkg [.w FlashArea.refresh.code])))
  ∧ (∀ (s : State) (i v : Nat), s.barUp = true → i < 7 →
    ∃ t, exec (.lastingRuleWrite i v) s = .next t ∧ Only [.integ, .mode, .rules] s t ∧ t.mode = { s.mode with lastAccess := s.now }
      ∧ ((ruleLimits i).1.1 ≤ v % 256 ∧ v % 256 ≤ (ruleLimits i).1.2 ∧ (ruleLimits i).2.1 ≤ v / 256 % 65536 ∧ v / 256 % 65536 ≤ (ruleLimits i).2.2 →
          t.integ = { s.integ with rules := s.integ.rules.set i ⟨v % 256, v / 256 % 65536⟩ })
      ∧ (¬((ruleLimits i).1.1 ≤ v % 256 ∧ v % 256 ≤ (ruleLimits i).1.2 ∧ (ruleLimits i).2.1 ≤ v / 256 % 65536 ∧ v / 256 % 65536 ≤ (ruleLimits i).2.2) → t.integ = s.integ))
  ∧ (∀ (s : State) (fails : Bool) (ev : Ev) (rest : List Ev), s.integ.logWaiting = ev :: rest → s.mode.mode ≠ .off →
    ∃ t, exec (.faultLogWrite fails) s = .next t ∧ Only [.spans, .link, .integ, .mode, .sec, .nv, .modeCode] s t ∧ rest <+: t.integ.logWaiting
      ∧ (fails = false → t.nv = { s.nv with log := (if (s.nv.log.length + 1) > 8192 then (s.nv.log ++ [(⟨s.nv.logNext, s.nv.bootNum, s.taiAt ev.raised, ev⟩ : LogEntry)]).drop 1 else s.nv.log ++ [⟨s.nv.logNext, s.nv.bootNum, s.taiAt ev.raised, ev⟩]), logNext := s.nv.logNext + 1 })
      ∧ (fails = true → t.nv = s.nv ∧ t.integ.flashFaults.contains .log = true))
  ∧ (∀ (s : State) (code : Nat), s.now % 6000000000 = 0 →
    ∃ t, exec (.logSuppressed code) s = .next t ∧ Only [.link, .integ, .sec] s t
      ∧ ((s.integ.codeCounts.get code).suppressed = 0 → t.integ = { s.integ with codeCounts := s.integ.codeCounts.set code {} } ∧ t.link = s.link)
      ∧ ((s.integ.codeCounts.get code).suppressed ≠ 0 → Raises s t .logSuppressed pkg [.w code, .w (s.integ.codeCounts.get code).suppressed]))

/-- Ring links: a flit that fails its CRC is counted at the receiver, and its replay at the sender; the fourth in a row, the third failed replay, a loss of lock, or a further failure under test declares the link failed, with LINK_FAILED where it was not; a failed link is probed every ten seconds and, after a clean second, returns with LINK_RESTORED (14 R378, R385, 01 R23, R24). -/
def Obligations.LinkEvents : Prop :=
  (∀ (s : State) (d dir bad rep : Nat) (lanes : List Nat) (consecutive replayed : Bool), d < s.dies → dir < 2 → s.domainReady d 1 = true →
    bad = (if consecutive then (s.linkDir d dir).badRun + 1 else 1) → rep = (if replayed then (s.linkDir d dir).replayFails + 1 else 0) →
    ∃ t, exec (.flitCrcError d dir lanes consecutive replayed) s = .next t ∧ Only [.spans, .link, .integ, .mode, .sec, .nv, .modeCode] s t
      ∧ (dir = 0 → (t.integ.dies.get (s.linkEnd d dir)).flitErrRising = (s.integ.dies.get (s.linkEnd d dir)).flitErrRising + 1)
      ∧ (dir = 1 → (t.integ.dies.get (s.linkEnd d dir)).flitErrFalling = (s.integ.dies.get (s.linkEnd d dir)).flitErrFalling + 1)
      ∧ (t.integ.dies.get d).replays = (s.integ.dies.get d).replays + 1
      ∧ (bad < 4 → rep < 3 → (s.linkDir d dir).failed = false → t.linkDir d dir = { s.linkDir d dir with badRun := bad, replayFails := rep })
      ∧ ((4 ≤ bad ∨ 3 ≤ rep) → (s.linkDir d dir).failed = false → t.linkDir d dir = { failed := true, probeAt := s.now } ∧ Raises s t .linkFailed d [.w d, .w dir, .q s.now])
      ∧ ((s.linkDir d dir).failed = true → (t.linkDir d dir).failed = true ∧ (t.linkDir d dir).cleanSince = none)
      ∧ ∀ k, k ≠ d * 2 + dir → t.integ.links.get k = s.integ.links.get k)
  ∧ (∀ (s : State) (d dir : Nat) (trained : Bool), d < s.dies → dir < 2 → (s.linkDir d dir).failed = true → (s.linkDir d dir).cleanSince = none →
    (s.linkDir d dir).probeAt + 1000000000 ≤ s.now →
    ∃ t, exec (.linkProbe d dir trained) s = .next t ∧ Only [.integ] s t
      ∧ t.linkDir d dir = { s.linkDir d dir with probeAt := s.now, cleanSince := if trained then some s.now else none } ∧ ∀ k, k ≠ d * 2 + dir → t.integ.links.get k = s.integ.links.get k)
  ∧ (∀ (s : State) (d dir since : Nat), d < s.dies → dir < 2 → (s.linkDir d dir).failed = true → (s.linkDir d dir).cleanSince = some since → since + 100000000 ≤ s.now →
    ∃ t, exec (.linkRestored d dir) s = .next t ∧ Only [.spans, .link, .integ, .mode, .sec, .modeCode] s t
      ∧ t.linkDir d dir = {} ∧ Raises s t .linkRestored d [.w d, .w dir, .q s.now] ∧ ∀ k, k ≠ d * 2 + dir → t.integ.links.get k = s.integ.links.get k)
  ∧ (∀ (s : State) (d dir : Nat), d < s.dies → dir < 2 → s.mode.mode ≠ .off →
    ∃ t, exec (.linkReceiverLockLoss d dir) s = .next t ∧ Only [.spans, .link, .integ, .mode, .sec, .modeCode] s t
      ∧ ((s.linkDir d dir).failed = false → t.linkDir d dir = { failed := true, probeAt := s.now } ∧ Raises s t .linkFailed d [.w d, .w dir, .q s.now])
      ∧ ((s.linkDir d dir).failed = true → t.linkDir d dir = { s.linkDir d dir with cleanSince := none } ∧ t.link = s.link)
      ∧ ∀ k, k ≠ d * 2 + dir → t.integ.links.get k = s.integ.links.get k)

/-! ### Management bus, mailbox, register words (16, 17) -/

/-- The management bus: a write with its exact count, and a matching PEC where one is given or required, takes effect at STOP, any other counts as a PEC error and changes nothing else; a read answers the range and a PEC over every byte; an address match in SLEEP starts the clocks, which stop again after a second; a timeout counts and is reported; a GO for nothing or while disabled is ignored, one for the part itself ends with RESULT 1, a bus that stays stuck with RESULT 4, any other starts its transfer; a lost arbitration is repeated as often as ARB_RETRIES allows; a finished transfer leaves its bytes and its RESULT; a timing word out of range is ignored; the end of a second in which a count rose reports the rises (16 R417, R418, R419, R420, R424, R425, R426, R428, R429, R430, R431). -/
def Obligations.ManagementBus : Prop :=
  (∀ (s : State) (addr : Nat) (bytes : List Byte), s.mbUp = true → addr = s.mbAddr →
    ∃ t, exec (.mbWriteTransaction addr bytes) s = .next t ∧ Only [.link, .mb, .busTiming] s t
      ∧ (mbHeader (bytes.take 3) = none → t.mb = { s.mb with target := none, lastTransaction := s.now } ∧ t.link = s.link)
      ∧ ∀ p n, mbHeader (bytes.take 3) = some (p, n, false) →
          (bytes.length ≠ n + 3 ∨ s.mb.pecReq = true → bytes.length ≠ n + 4 ∨ bytes.getD (n + 3) 0 ≠ pecOf (addrByte addr false :: bytes.take (n + 3)) →
            t.mb = { s.mb with target := none, lastTransaction := s.now, counts := s.mb.counts.bump .pec, rises := t.mb.rises } ∧ t.link = s.link)
          ∧ (bytes.length = n + 3 ∧ s.mb.pecReq = false ∨ bytes.length = n + 4 ∧ bytes.getD (n + 3) 0 = pecOf (addrByte addr false :: bytes.take (n + 3)) →
            (∀ i, i < s.mb.mboxDesc.length → t.mb.mboxDesc.getD i 0 = (if p ≤ 0x100 + i ∧ 0x100 + i < p + n then bytes.getD (0x100 + i - p + 3) 0 else s.mb.mboxDesc.getD i 0))
            ∧ (∀ i, i < s.mb.ctrlData.length → t.mb.ctrlData.getD i 0 = (if p ≤ 0x44 + i ∧ 0x44 + i < p + n then bytes.getD (0x44 + i - p + 3) 0 else s.mb.ctrlData.getD i 0))
            ∧ (p + n ≤ 0x20 → t.mb = { s.mb with target := none, lastTransaction := s.now } ∧ t.link = s.link)))
  ∧ (∀ (s : State) (addr : Nat) (hdr : List Byte) (ackLast sda scl : Bool), s.mbUp = true → addr = s.mbAddr →
    ∃ t, exec (.mbReadTransaction addr hdr ackLast sda scl) s = .next t ∧ Only [.link, .mb] s t
      ∧ t.mb = { s.mb with sdaLow := sda, sclLow := scl, target := none, lastTransaction := s.now }
      ∧ (mbHeader hdr = none → t.link = s.link)
      ∧ (∀ p n, mbHeader hdr = some (p, n, true) →
          t.link = { s.link with sent := s.link.sent ++ [.mbRead ((List.range n).map fun i => t.mbByte (p + i))
            (if ackLast then some (pecOf (addrByte addr false :: hdr ++ addrByte addr true :: (List.range n).map fun i => t.mbByte (p + i))) else none)] })
      ∧ ∀ q, 0x1000 ≤ q → t.mbByte q = 0)
  ∧ (∀ (s : State) (byte : Byte), s.mode.mode = .sleep → s.mode.clocksRun = false → byte.toNat / 2 = s.mbAddr →
    ∃ t, exec (.mbWake byte) s = .next t ∧ Only [.link, .integ, .mode, .mb, .sec, .modeCode] s t ∧ t.mbUp = true ∧ t.mode = { s.mode with clocksRun := true }
      ∧ t.mb = { s.mb with awake := true, target := some ⟨0, 0⟩, lastTransaction := s.now } ∧ Raises s t .mbWake pkg [.q s.now])
  ∧ (∀ s : State, s.mode.mode = .sleep → s.mb.awake = true → s.mb.lastTransaction + 100000000 ≤ s.now →
    ∃ t, exec .mbSleepClockStop s = .next t ∧ Only [.mode, .mb] s t ∧ t.mb = { s.mb with awake := false, target := none }
      ∧ t.mode = { s.mode with clocksRun := s.mode.clocksRun && decide (s.now < s.mode.lastAccess + 100000000) })
  ∧ (∀ (s : State) (pointer received : Nat) (write : Bool), s.mbUp = true → s.mb.timeoutEn = true →
    ∃ t, exec (.mbTargetTimeout pointer received write) s = .next t ∧ Only [.link, .integ, .mb, .sec] s t
      ∧ t.mb = { s.mb with target := none, lastTransaction := s.now, counts := (if write then (s.mb.counts.bump .timeout).bump .pec else s.mb.counts.bump .timeout), rises := t.mb.rises }
      ∧ Raises s t .mbTargetTimeout pkg [.w pointer, .w received])
  ∧ (∀ (s : State) (v : Nat) (stuck freed : Bool), s.barUp = true → v / 1048576 % 2 = 1 → s.mb.go = false → s.mb.goWaiting = false →
    ∃ t, exec (.mbControllerGo (some v) stuck freed) s = .next t ∧ Only [.link, .integ, .mode, .mb, .sec] s t ∧ t.mode = { s.mode with lastAccess := s.now }
      ∧ t.mb.targetAddr = v % 128 ∧ t.mb.usePec = maskBit v 7 ∧ t.mb.wlen = v / 256 % 64 ∧ t.mb.rlen = v / 16384 % 64 ∧ t.mb.ctrlData = s.mb.ctrlData
      ∧ (s.mb.ctrlEnable = false ∨ s.mode.mode = .halted ∨ v / 256 % 4096 = 0 → t.mb.go = false ∧ t.mb.ctrlBusy = s.mb.ctrlBusy ∧ t.link = s.link)
      ∧ (s.mb.ctrlEnable = true → s.mode.mode ≠ .halted → v / 256 % 4096 ≠ 0 →
          (v % 128 = s.mbAddr → t.mb.done = true ∧ t.mb.result = 1 ∧ t.mb.go = false ∧ t.link = s.link)
          ∧ (v % 128 ≠ s.mbAddr →
              (s.mb.target ≠ none → t.mb.go = true ∧ t.mb.goWaiting = true ∧ t.link = s.link)
              ∧ (s.mb.target = none → stuck = true ∨ s.mb.recovered = false → freed = false →
                  t.mb.done = true ∧ t.mb.result = 4 ∧ t.mb.go = false ∧ t.mb.counts = s.mb.counts.bump .stuck ∧ Raises s t .mbBusStuck pkg [.q s.now])
              ∧ (s.mb.target = none → freed = true ∨ stuck = false ∧ s.mb.recovered = true →
                  t.mb.go = true ∧ t.mb.ctrlBusy = true ∧ t.mb.goWaiting = false ∧ t.mb.retriesLeft = s.mb.arbRetries
                  ∧ (v / 256 % 64 = 0 → t.link = s.link) ∧ (v / 256 % 64 ≠ 0 → t.link = { s.link with sent := s.link.sent ++ [.mbWrite (v % 128) t.mb.writePhase] })))))
  ∧ (∀ (s : State) (stuck freed : Bool), s.mbUp = true → s.mb.goWaiting = true → s.mb.target = none →
    ∃ t, exec (.mbControllerGo none stuck freed) s = .next t ∧ Only [.link, .integ, .mb, .sec] s t ∧ t.mb.goWaiting = false
      ∧ ((stuck = true ∨ s.mb.recovered = false) → freed = false → t.mb.done = true ∧ t.mb.result = 4 ∧ t.mb.counts = s.mb.counts.bump .stuck ∧ Raises s t .mbBusStuck pkg [.q s.now])
      ∧ (freed = true ∨ stuck = false ∧ s.mb.recovered = true → t.mb = { s.mb with recovered := true, goWaiting := false, ctrlBusy := true }
          ∧ (s.mb.wlen ≠ 0 → t.link = { s.link with sent := s.link.sent ++ [.mbWrite s.mb.targetAddr s.mb.writePhase] })))
  ∧ (∀ (s : State) (byte : Option Byte), s.mb.ctrlBusy = true →
    ∃ t, exec (.mbArbitrationLost byte) s = .next t ∧ Only [.mb] s t ∧ t.mb.counts = s.mb.counts.bump .arb
      ∧ (∀ b, byte = some b → b.toNat / 2 = s.mbAddr → t.mb.target = some ⟨0, 0⟩)
      ∧ (s.mb.retriesLeft = 0 → t.mb.done = true ∧ t.mb.result = 3 ∧ t.mb.ctrlBusy = false ∧ t.mb.go = false)
      ∧ (s.mb.retriesLeft ≠ 0 → t.mb.retriesLeft = s.mb.retriesLeft - 1 ∧ t.mb.goWaiting = true ∧ t.mb.ctrlBusy = false ∧ t.mb.done = s.mb.done))
  ∧ (∀ (s : State) (ack : BusAck) (data : List Byte) (pec : Byte), s.mb.ctrlBusy = true →
    ∃ t, exec (.mbControllerDone ack data pec) s = .next t ∧ Only [.mb] s t ∧ t.mb.done = true ∧ t.mb.go = false ∧ t.mb.ctrlBusy = false
      ∧ (ack = .addressNack → t.mb.result = 1 ∧ t.mb.ctrlData = s.mb.ctrlData) ∧ (ack = .dataNack → t.mb.result = 2 ∧ t.mb.ctrlData = s.mb.ctrlData)
      ∧ (ack = .all → data.length = s.mb.rlen → s.mb.rlen ≤ 32 →
          t.mb.ctrlData = data ++ s.mb.ctrlData.drop s.mb.rlen
          ∧ (s.mb.usePec = false ∨ s.mb.rlen = 0 → t.mb.result = 0)
          ∧ (s.mb.usePec = true → s.mb.rlen ≠ 0 → s.mb.wlen ≠ 0 →
              t.mb.result = if pec = pecOf (addrByte s.mb.targetAddr false :: s.mb.ctrlData.take s.mb.wlen ++ addrByte s.mb.targetAddr true :: data) then 0 else 5)))
  ∧ (∀ s : State, s.mb.ctrlBusy = true → s.mb.timeoutEn = true →
    ∃ t, exec .mbControllerTimeout s = .next t ∧ Only [.mb] s t ∧ t.mb = { s.mb with go := false, goWaiting := false, ctrlBusy := false, result := 6, done := true })
  ∧ (∀ (s : State) (v : Nat), s.barUp = true →
    ∃ t, exec (.mbTimingWrite v) s = .next t ∧ Only [.mode, .mb, .busTiming] s t ∧ t.mode = { s.mode with lastAccess := s.now }
      ∧ (50 ≤ v % 1024 ∧ v % 1024 ≤ 1000 ∧ 26 ≤ v / 1024 % 1024 ∧ v / 1024 % 1024 ≤ 1000 ∧ v / 1048576 % 128 ≤ 100 ∧ v / 1048576 % 128 + v / 134217728 % 32 < v % 1024 →
          t.mb = { s.mb with sclLowT := v % 1024, sclHighT := v / 1024 % 1024, sdaHold := v / 1048576 % 128, glitch := v / 134217728 % 32 })
      ∧ (¬(50 ≤ v % 1024 ∧ v % 1024 ≤ 1000 ∧ 26 ≤ v / 1024 % 1024 ∧ v / 1024 % 1024 ≤ 1000 ∧ v / 1048576 % 128 ≤ 100 ∧ v / 1048576 % 128 + v / 134217728 % 32 < v % 1024) → t.mb = s.mb))
  ∧ (∀ s : State, s.mode.mode ≠ .off → s.now % 100000000 = 0 → s.mb.rises ≠ {} →
    ∃ t, exec .mbErrorsReport s = .next t ∧ Only [.link, .integ, .mb, .sec] s t ∧ t.mb = { s.mb with rises := {} }
      ∧ Raises s t .mbErrors pkg [.w s.mb.rises.pecErrors.toNat, .w s.mb.rises.timeouts.toNat, .w s.mb.rises.arbLost.toNat, .w s.mb.rises.stuck.toNat])

/-- The mailbox, latches, sleep clocks and the registers without a row of their own: a GO takes the descriptor, with the next MBOX_SEQ, and answers a bad CRC or an unlisted opcode; while BUSY it sets MBOX_OVERRUN, in BOOT it does nothing; a completion shows as DONE; ALERT_LATCHED stays while an alert holds; SLEEP's clocks stop after a second without access while no command runs; a register write takes its fields and no others, and a word that is read-only takes nothing; a read gives what was written, with reserved bits 0, and the window of an absent die reads as 0 (00 R4, R13, 02 R60, 10 R277, R297, 12 R343, 13 R364, R365, 16 R421, R422, R424, 17 R442, R445). -/
def Obligations.MailboxAndRegisters : Prop :=
  (∀ s : State, s.mbUp = true →
    ∃ t, exec .mboxGo s = .next t ∧ Only [.link, .mb] s t
      ∧ (s.mode.mode = .boot → t.mb = { s.mb with target := none, lastTransaction := s.now })
      ∧ (s.mode.mode ≠ .boot → s.mb.mboxPhase = .busy → t.mb = { s.mb with target := none, lastTransaction := s.now, mboxOverrun := true })
      ∧ (s.mode.mode ≠ .boot → s.mb.mboxPhase ≠ .busy → t.mb.mboxPhase = .busy ∧ t.mb.mboxSeq = s.mb.mboxSeq + 1
          ∧ (field s.mb.mboxDesc 60 0 32 ≠ (crc32c (s.mb.mboxDesc.take 60)).toNat →
              t.mb.mboxDue = some ((Cpl.mk (field s.mb.mboxDesc 2 0 16) 0 (field s.mb.mboxDesc 0 0 8) .checkFail (s.mb.mboxSeq + 1).toNat 0).bytes true) ∧ t.mb.mboxCmd = s.mb.mboxCmd)
          ∧ (field s.mb.mboxDesc 60 0 32 = (crc32c (s.mb.mboxDesc.take 60)).toNat → Cmd.ofOpcode (field s.mb.mboxDesc 0 0 8) = none →
              t.mb.mboxDue = some ((Cpl.mk (field s.mb.mboxDesc 2 0 16) 0 (field s.mb.mboxDesc 0 0 8) .badOpcode (s.mb.mboxSeq + 1).toNat 0).bytes true) ∧ t.mb.mboxCmd = s.mb.mboxCmd)
          ∧ (field s.mb.mboxDesc 60 0 32 = (crc32c (s.mb.mboxDesc.take 60)).toNat → Cmd.ofOpcode (field s.mb.mboxDesc 0 0 8) ≠ none →
              t.mb.mboxCmd = some ⟨s.mb.mboxDesc, (s.mb.mboxSeq + 1).toNat, true⟩ ∧ t.mb.mboxDue = s.mb.mboxDue)))
  ∧ (∀ (s : State) (c : List Byte), s.mb.mboxDue = some c →
    ∃ t, exec .mboxComplete s = .next t ∧ Only [.mb] s t ∧ t.mb = { s.mb with mboxCpl := c, mboxDue := none, mboxPhase := .done })
  ∧ (∀ s : State, s.barUp = true →
    ∃ t, exec .alertLatchedClear s = .next t ∧ Only [.mode] s t
      ∧ t.mode = { s.mode with lastAccess := s.now, alertLatched := s.mode.alertLatched && !s.mode.alerts.isEmpty })
  ∧ (∀ s : State, s.barUp = true →
    ∃ t, exec .wakeLatchedClear s = .next t ∧ Only [.mode] s t ∧ t.mode = { s.mode with lastAccess := s.now, wakeLatched := false })
  ∧ (∀ s : State, s.mode.mode = .sleep → s.mode.clocksRun = true → (∀ src, s.execOf src = none) → s.mb.mboxCmd = none → s.mode.lastAccess + 100000000 ≤ s.now → s.mb.lastTransaction + 100000000 ≤ s.now →
    ∃ t, exec .sleepClockStop s = .next t ∧ Only [.mode, .mb] s t ∧ t.mode = { s.mode with clocksRun := false } ∧ t.mb = { s.mb with awake := false })
  ∧ (∀ s : State, s.mode.mode = .sleep → s.mode.clocksRun = false →
    ∃ t, exec .sleepWakeAccess s = .next t ∧ Only [.mode] s t ∧ t.mode = { s.mode with clocksRun := true, lastAccess := s.now })
  ∧ (∀ (s : State) (r : RegTarget) (v : Nat), s.mode.mode ≠ .off → (∀ o, r ≠ .bar0 o) →
    ∃ t, exec (.registerWrite r v) s = .next t ∧ Only [.link] s t
      ∧ t.link = { s.link with pcie := { s.link.pcie with
          msixEnabled := (if r = .msixEnable then maskBit v 0 else s.link.pcie.msixEnabled)
          relaxed := (if r = .relaxedOrdering then maskBit v 0 else s.link.pcie.relaxed)
          ecrcGen := (if r = .ecrcGeneration then maskBit v 0 else s.link.pcie.ecrcGen)
          ecrcCheck := (if r = .ecrcCheck then maskBit v 0 else s.link.pcie.ecrcCheck) } })
  ∧ (∀ (s : State) (o v : Nat), s.barUp = true → o % 4 = 0 → o < 0x10000 →
    ∃ t, exec (.registerWrite (.bar0 o) v) s = .next t ∧ Only [.time, .link, .cal, .integ, .mode, .domains, .mb, .sec, .levelInterval] s t
      ∧ (o ≠ 0x904 → t.mode = { s.mode with lastAccess := s.now } ∧ t.integ = s.integ ∧ t.domains = s.domains ∧ t.sec = s.sec)
      ∧ (o = 0x208 → t.time = { s.time with syncSkew := signedOf 16 v }) ∧ (o ≠ 0x208 → t.time = s.time)
      ∧ (∀ k, k < 8 → o = 0x600 + 8 * k → t.cal = { s.cal with tones := t.cal.tones }
          ∧ ∀ i x, s.cal.tones[i]? = some x → t.cal.tones[i]? = some (if i = k then { x with freq := v % 4294967296 } else x))
      ∧ (∀ k, k < 8 → o = 0x604 + 8 * k → t.cal = { s.cal with tones := t.cal.tones }
          ∧ ∀ i x, s.cal.tones[i]? = some x →
              t.cal.tones[i]? = some (if i = k then { x with level := if v % 65536 = 0x8000 then none else some (signedOf 16 v), en := maskBit v 16 } else x))
      ∧ (o = 0x640 → t.cal = { s.cal with levelInterval := (if 1 ≤ v % 2048 ∧ v % 2048 ≤ 1440 then v % 2048 else s.cal.levelInterval), autoStore := maskBit v 11 })
      ∧ (o < 0x600 ∨ 0x644 ≤ o → t.cal = s.cal)
      ∧ (o = 0x904 → t.mode.autoRun = maskBit v 0 ∧ t.mode.alertPty31 = maskBit v 1 ∧ t.mode.alertTa = maskBit v 2 ∧ t.mode.alertDab = maskBit v 3
          ∧ t.mode.alertDrm = maskBit v 4 ∧ t.mode.alertInRun = maskBit v 5 ∧ t.mode.mode = s.mode.mode)
      ∧ (o = 0xA20 → t.mb = { s.mb with pecReq := maskBit v 2, timeoutEn := maskBit v 3, ctrlEnable := maskBit v 4, arbRetries := v / 32 % 8
                                        counts := if maskBit v 12 then {} else s.mb.counts })
      ∧ (o = 0xA40 → maskBit v 20 = false → t.mb = { s.mb with targetAddr := v % 128, usePec := maskBit v 7, wlen := v / 256 % 64, rlen := v / 16384 % 64, done := s.mb.done && !maskBit v 24 })
      ∧ (∀ p, p < 32 → o = 0xA44 + p → t.mb = { s.mb with ctrlData := t.mb.ctrlData }
          ∧ ∀ i, i < s.mb.ctrlData.length → t.mb.ctrlData.getD i 0 = (if p ≤ i ∧ i < p + 4 then (le 4 v).getD (i - p) 0 else s.mb.ctrlData.getD i 0))
      ∧ (o < 0xA20 ∨ 0xA64 ≤ o → t.mb = s.mb)
      ∧ (∀ p, p < 1024 → o = 0xE000 + p → t.link.sent = s.link.sent ∧ t.link.rings = s.link.rings ∧ t.link.events = s.link.events
          ∧ (∀ i, i ≠ p / 16 → t.link.pcie.msixTable.get i = s.link.pcie.msixTable.get i)
          ∧ (p % 16 = 0 → t.link.pcie.msixTable.get (p / 16) = { s.link.pcie.msixTable.get (p / 16) with addrLo := BitVec.ofNat 32 v })
          ∧ (p % 16 = 4 → t.link.pcie.msixTable.get (p / 16) = { s.link.pcie.msixTable.get (p / 16) with addrHi := BitVec.ofNat 32 v })
          ∧ (p % 16 = 8 → t.link.pcie.msixTable.get (p / 16) = { s.link.pcie.msixTable.get (p / 16) with data := BitVec.ofNat 32 v })
          ∧ ∀ i, maskBit t.link.pcie.masked i = (maskBit s.link.pcie.masked i || (p % 16 == 12 && maskBit v 0 && i == p / 16)))
      ∧ (o < 0xE000 ∨ 0xE400 ≤ o → o ≠ 0x904 → t.link = s.link))
  ∧ (∀ (s : State) (d o v : Nat), s.barUp = true → o % 4 = 0 → o < 0x10000 → s.dieUp d = true →
    ∃ t, exec (.registerWrite (.bar0 (0x10000 * (d + 1) + o)) v) s = .next t ∧ Only [.mon, .mode] s t ∧ t.mode = { s.mode with lastAccess := s.now }
      ∧ (∀ k, k ≠ d → t.mon.dies.get k = s.mon.dies.get k)
      ∧ (o = 0x3400 → t.mon.dies.get d = { s.mon.dies.get d with staged := { (s.mon.dies.get d).staged with
          lowPower := maskBit v 1, align := maskBit v 2, diff01 := maskBit v 3, diff23 := maskBit v 4, seqLast := v / 32 % 16 } })
      ∧ (o = 0x3404 → t.mon.dies.get d = { s.mon.dies.get d with
          passPeriod := if v % 16384 = 0 ∨ 10 ≤ v % 16384 ∧ v % 16384 ≤ 10000 then v % 16384 else (s.mon.dies.get d).passPeriod })
      ∧ (o = 0x3408 → t.mon.dies.get d = { s.mon.dies.get d with
          seqRejected := (s.mon.dies.get d).seqRejected && !maskBit v 10, paceOverrun := (s.mon.dies.get d).paceOverrun && !maskBit v 11 })
      ∧ (∀ k, k < 16 → o = 0x3410 + 4 * k →
          t.mon.dies.get d = { s.mon.dies.get d with staged := { (s.mon.dies.get d).staged with entries := (t.mon.dies.get d).staged.entries } }
          ∧ ∀ i x, (s.mon.dies.get d).staged.entries[i]? = some x → (t.mon.dies.get d).staged.entries[i]? = some (
              if i = k then ⟨v % 32, v / 32 % 4, maskBit v 7, v / 256 % 8, maskBit v 11⟩ else x))
      ∧ (o < 0x3400 ∨ 0x340C ≤ o ∧ o < 0x3410 ∨ 0x3450 ≤ o → t.mon = s.mon))
  ∧ (∀ (s : State) (o : Nat), 0x10000 * (s.dies + 1) ≤ o → s.readBar0 o = 0)
  ∧ (∀ (s : State) (v : Nat), s.barUp = true →
    ∃ t, exec (.registerWrite (.bar0 0x208) v) s = .next t ∧ t.readBar0 0x208 = v % 65536)
  ∧ (∀ (s : State) (v : Nat), s.barUp = true → 1 ≤ v % 2048 → v % 2048 ≤ 1440 →
    ∃ t, exec (.registerWrite (.bar0 0x640) v) s = .next t ∧ t.readBar0 0x640 = v % 4096 + if s.cal.suspect then 4096 else 0)
  ∧ (∀ (s : State) (k v : Nat), s.barUp = true → k < 8 → k < s.cal.tones.length →
    ∃ t u, exec (.registerWrite (.bar0 (0x600 + 8 * k)) v) s = .next t ∧ t.readBar0 (0x600 + 8 * k) = v % 2 ^ 32
      ∧ exec (.registerWrite (.bar0 (0x604 + 8 * k)) v) s = .next u ∧ u.readBar0 (0x604 + 8 * k) = v % 2 ^ 17)
  ∧ (∀ (s : State) (d v : Nat), s.barUp = true → s.dieUp d = true → (s.mon.dies.get d).run = true → (s.mon.dies.get d).applyPending = false →
    (s.mon.dies.get d).clearPending = false →
    ∃ t, exec (.registerWrite (.bar0 (0x10000 * (d + 1) + 0x3400)) v) s = .next t ∧ t.readBar0 (0x10000 * (d + 1) + 0x3400) = v % 512 / 2 * 2 + 1)

/-- The target answers in every mode but OFF, in SLEEP once a matching address byte has started its clocks; a function level reset, a hot reset and a link that goes down leave the bus as it was: every register of it, its mailbox, its address and whether it answers (16 R416). -/
def Obligations.BusUntouched : Prop :=
  (∀ (s : State) (hdr : List Byte) (p n : Nat) (ackLast sda scl : Bool), s.mode.mode ≠ .off → (s.mode.mode = .sleep → s.mode.clocksRun = true) →
    mbHeader hdr = some (p, n, true) →
    ∃ t data pec, exec (.mbReadTransaction s.mbAddr hdr ackLast sda scl) s = .next t ∧ data.length = n ∧ t.link.sent = s.link.sent ++ [.mbRead data pec])
  ∧ (∀ (s : State) (b : Byte), s.mode.mode = .sleep → s.mode.clocksRun = false → b.toNat / 2 = s.mbAddr →
    ∃ t, exec (.mbWake b) s = .next t ∧ t.mode.mode = .sleep ∧ t.mode.clocksRun = true ∧ t.mbAddr = s.mbAddr)
  ∧ (∀ (s : State) (addr : Nat) (hdr bytes : List Byte) (ackLast sda scl : Bool), s.mode.mode = .off →
    exec (.mbReadTransaction addr hdr ackLast sda scl) s = .next s ∧ exec (.mbWriteTransaction addr bytes) s = .next s)
  ∧ (∀ s : State, ∃ t, exec .pcieReset s = .next t ∧ t.mb = s.mb ∧ t.mbAddr = s.mbAddr ∧ t.mbUp = s.mbUp)
  ∧ (∀ (s : State) (up : Bool) (width rate : Nat), ∃ t, exec (.linkState up width rate) s = .next t ∧ t.mb = s.mb ∧ t.mbAddr = s.mbAddr ∧ t.mbUp = s.mbUp)
end

