-- ==== Sys2Proof/Laws/Only.lean ====
section
/-!
SUPPORT. How frames compose: `Only` is reflexive, chains, widens, and passes through folds and choices.
-/
namespace Sys2Proof.Machine

theorem OtpKept.refl (v : NvSec) : OtpKept v v := ⟨rfl, rfl, rfl, fun _ h => h, BitVec.and_self⟩

theorem OtpKept.trans {u v w : NvSec} (h : OtpKept u v) (k : OtpKept v w) : OtpKept u w := by
  obtain ⟨a, b, c, d, e⟩ := h
  obtain ⟨a', b', c', d', e'⟩ := k
  refine ⟨a'.trans a, b'.trans b, c'.trans c, fun x hx => d' x (d x hx), ?_⟩
  rw [← e, BitVec.and_assoc, e']

theorem Aspect.kept_refl (s : State) (a : Aspect) : a.kept s s := by
  cases a <;> simp [Aspect.kept, OtpKept.refl]

theorem Aspect.kept_trans {s t u : State} {a : Aspect} (h : a.kept s t) (k : a.kept t u) : a.kept s u := by
  cases a
  case otp => exact OtpKept.trans h k
  case events => exact List.IsPrefix.trans h k
  case retirement => exact fun x hx => k x (h x hx)
  case fences => exact fun x hx => k x (h x hx)
  case spread => exact ⟨k.1.trans h.1, k.2.trans h.2⟩
  case busTiming => exact ⟨k.1.trans h.1, k.2.1.trans h.2.1, k.2.2.1.trans h.2.2.1, k.2.2.2.trans h.2.2.2⟩
  case firmware => exact ⟨k.1.trans h.1, k.2.1.trans h.2.1, k.2.2.trans h.2.2⟩
  all_goals exact Eq.trans k h

theorem Aspect.kept_of_eq {s t : State} (h : t = s) (a : Aspect) : a.kept s t := h ▸ a.kept_refl s

namespace Only

theorem refl (as : List Aspect) (s : State) : Only as s s := fun a _ => a.kept_refl s

theorem trans {as : List Aspect} {s t u : State} (h : Only as s t) (k : Only as t u) : Only as s u :=
  fun a ha => Aspect.kept_trans (h a ha) (k a ha)

/-- A frame widens. -/
theorem mono {as bs : List Aspect} {s t : State} (h : Only as s t) (sub : as.all bs.contains = true) : Only bs s t := by
  intro a ha
  refine h a ?_
  cases hc : as.contains a with
  | false => rfl
  | true =>
    have hm := List.all_eq_true.mp sub a (by simpa using hc)
    rw [ha] at hm
    exact absurd hm (by decide)

/-- A further change within the frame. -/
theorem andThen {as bs : List Aspect} {s t u : State} (k : Only as t u) (sub : as.all bs.contains = true) (h : Only bs s t) : Only bs s u :=
  h.trans (k.mono sub)

theorem foldl {α : Type} {as : List Aspect} {f : State → α → State} (h : ∀ s a, Only as s (f s a)) (xs : List α) (s : State) :
    Only as s (xs.foldl f s) := by
  induction xs generalizing s with
  | nil => exact refl as s
  | cons x xs ih => exact (h s x).trans (ih _)

theorem foldlFrom {α : Type} {as : List Aspect} {f : State → α → State} {s t : State} {xs : List α} (h : ∀ s a, Only as s (f s a))
    (h0 : Only as s t) : Only as s (xs.foldl f t) := h0.trans (foldl h xs t)

theorem foldlMem {α : Type} {as : List Aspect} {f : State → α → State} (xs : List α) (h : ∀ s, ∀ a ∈ xs, Only as s (f s a)) (s : State) :
    Only as s (xs.foldl f s) := by
  induction xs generalizing s with
  | nil => exact refl as s
  | cons x xs ih => exact (h s x (by simp)).trans (ih (fun s a ha => h s a (by simp [ha])) _)

theorem ite {as : List Aspect} {s t u : State} {c : Prop} [Decidable c] (h : Only as s t) (k : Only as s u) :
    Only as s (if c then t else u) := by
  split
  · exact h
  · exact k

/-- A part within the frame needs no proof. -/
theorem touched {p : Prop} (h : true = false) : p := absurd h (by decide)

/-- A record update: the state it starts from is found by its queue; what the update leaves alone holds by reduction. -/
theorem ofMk {as : List Aspect} {s x : State} {x0 x1 x2 x3 x4 x5 x6 x7 x8 x9 x10 x11 x12 x13 x14 x15 x16 x17 x18 x19 x20 x21 x22 x23} (_ : x23 = x.pending) (h : Only as s x)
    (k0 : as.contains .part = false → x0 = x.part := by first | exact fun h => Only.touched h | exact fun _ => rfl)
    (k1 : as.contains .pins = false → x1 = x.pins := by first | exact fun h => Only.touched h | exact fun _ => rfl)
    (k2 : as.contains .time = false → x2 = x.time := by first | exact fun h => Only.touched h | exact fun _ => rfl)
    (k3 : as.contains .ref = false → x3 = x.ref := by first | exact fun h => Only.touched h | exact fun _ => rfl)
    (k4 : as.contains .clk = false → x4 = x.clk := by first | exact fun h => Only.touched h | exact fun _ => rfl)
    (k5 : as.contains .spans = false → x5 = x.spans := by first | exact fun h => Only.touched h | exact fun _ => rfl)
    (k6 : as.contains .front = false → x6 = x.front := by first | exact fun h => Only.touched h | exact fun _ => rfl)
    (k7 : as.contains .taps = false → x7 = x.taps := by first | exact fun h => Only.touched h | exact fun _ => rfl)
    (k8 : as.contains .lanes = false → x8 = x.lanes := by first | exact fun h => Only.touched h | exact fun _ => rfl)
    (k9 : as.contains .ofdm = false → x9 = x.ofdm := by first | exact fun h => Only.touched h | exact fun _ => rfl)
    (k10 : as.contains .audio = false → x10 = x.audio := by first | exact fun h => Only.touched h | exact fun _ => rfl)
    (k11 : as.contains .ports = false → x11 = x.ports := by first | exact fun h => Only.touched h | exact fun _ => rfl)
    (k12 : as.contains .link = false → x12 = x.link := by first | exact fun h => Only.touched h | exact fun _ => rfl)
    (k13 : as.contains .cfg = false → x13 = x.cfg := by first | exact fun h => Only.touched h | exact fun _ => rfl)
    (k14 : as.contains .cal = false → x14 = x.cal := by first | exact fun h => Only.touched h | exact fun _ => rfl)
    (k15 : as.contains .mon = false → x15 = x.mon := by first | exact fun h => Only.touched h | exact fun _ => rfl)
    (k16 : as.contains .integ = false → x16 = x.integ := by first | exact fun h => Only.touched h | exact fun _ => rfl)
    (k17 : as.contains .mode = false → x17 = x.mode := by first | exact fun h => Only.touched h | exact fun _ => rfl)
    (k18 : as.contains .domains = false → x18 = x.domains := by first | exact fun h => Only.touched h | exact fun _ => rfl)
    (k19 : as.contains .mb = false → x19 = x.mb := by first | exact fun h => Only.touched h | exact fun _ => rfl)
    (k20 : as.contains .sec = false → x20 = x.sec := by first | exact fun h => Only.touched h | exact fun _ => rfl)
    (k21 : as.contains .nv = false → x21 = x.nv := by first | exact fun h => Only.touched h | exact fun _ => rfl)
    (k22 : as.contains .freeCount = false → x22 = x.freeCount := by first | exact fun h => Only.touched h | exact fun _ => rfl)
    (k23 : as.contains .pending = false → x23 = x.pending := by first | exact fun h => Only.touched h | exact fun _ => rfl)
    (k_systime : as.contains .systime = false → x2.systime = x.time.systime := by first | exact fun h => Only.touched h | exact fun _ => rfl)
    (k_spread : as.contains .spread = false → x2.spreadMode = x.time.spreadMode ∧ x2.spreadDepth = x.time.spreadDepth := by first | exact fun h => Only.touched h | exact fun _ => ⟨rfl, rfl⟩)
    (k_levelInterval : as.contains .levelInterval = false → x14.levelInterval = x.cal.levelInterval := by first | exact fun h => Only.touched h | exact fun _ => rfl)
    (k_busTiming : as.contains .busTiming = false → x19.sclLowT = x.mb.sclLowT ∧ x19.sclHighT = x.mb.sclHighT ∧ x19.sdaHold = x.mb.sdaHold ∧ x19.glitch = x.mb.glitch := by first | exact fun h => Only.touched h | exact fun _ => ⟨rfl, rfl, rfl, rfl⟩)
    (k_otp : as.contains .otp = false → OtpKept x.nv.sec x21.sec := by first | exact fun h => Only.touched h | exact fun _ => OtpKept.refl _ | exact fun _ => ⟨rfl, rfl, rfl, fun _ h => h, BitVec.and_self⟩)
    (k_retirement : as.contains .retirement = false → ∀ u, x.nv.retired.contains u = true → x21.retired.contains u = true := by first | exact fun h => Only.touched h | exact fun _ _ h => h)
    (k_fences : as.contains .fences = false → ∀ d, x.integ.fenced.contains d = true → x16.fenced.contains d = true := by first | exact fun h => Only.touched h | exact fun _ _ h => h | exact fun _ _ h => by simpa using Or.inl (by simpa using h))
    (k_committed : as.contains .committed = false → x13.committed = x.cfg.committed := by first | exact fun h => Only.touched h | exact fun _ => rfl)
    (k_shadow : as.contains .shadow = false → x13.shadow = x.cfg.shadow := by first | exact fun h => Only.touched h | exact fun _ => rfl)
    (k_rules : as.contains .rules = false → x16.rules = x.integ.rules := by first | exact fun h => Only.touched h | exact fun _ => rfl)
    (k_debugLevel : as.contains .debugLevel = false → x20.debugLevel = x.sec.debugLevel := by first | exact fun h => Only.touched h | exact fun _ => rfl)
    (k_modeCode : as.contains .modeCode = false → x17.mode = x.mode.mode := by first | exact fun h => Only.touched h | exact fun _ => rfl)
    (k_firmware : as.contains .firmware = false → x21.sec.slotA = x.nv.sec.slotA ∧ x21.sec.slotB = x.nv.sec.slotB ∧ x21.sec.bootSeq = x.nv.sec.bootSeq := by first | exact fun h => Only.touched h | exact fun _ => ⟨rfl, rfl, rfl⟩)
    (k_events : as.contains .events = false → x.link.events <+: x12.events := by first | exact fun h => Only.touched h | exact fun _ => List.prefix_rfl | exact fun _ => List.prefix_append _ _) :
    Only as s (State.mk x0 x1 x2 x3 x4 x5 x6 x7 x8 x9 x10 x11 x12 x13 x14 x15 x16 x17 x18 x19 x20 x21 x22 x23) := by
  refine h.trans fun a ha => ?_
  cases a <;> revert ha <;> assumption

end Only

/-- A command's frame: it answers a next state, in which only the parts named differ. -/
def Frames (as : List Aspect) (s : State) (r : Res) : Prop := ∃ t, r = .next t ∧ Only as s t

theorem Frames.next {as : List Aspect} {s t : State} (h : Only as s t) : Frames as s (.next t) := ⟨t, rfl, h⟩

theorem Frames.onlyIf {as : List Aspect} {s t : State} {c : Bool} (h : c = true → Only as s t) : Frames as s (onlyIf c s t) := by
  unfold Machine.onlyIf
  refine ⟨_, rfl, ?_⟩
  split
  · exact h ‹_›
  · exact Only.refl as s

theorem Frames.mono {as bs : List Aspect} {s : State} {r : Res} (h : Frames as s r) (sub : as.all bs.contains = true) : Frames bs s r := by
  obtain ⟨t, ht, ho⟩ := h
  exact ⟨t, ht, ho.mono sub⟩

end Sys2Proof.Machine
end

