-- ==== Sys2Proof/Laws/Frames1.lean ====
section
/-!
SUPPORT. Frames of the shared operations: events, occurrences, completions, blocks, courses, ports, fences: which parts of the state each operation and each command leaves alone. `x_only` speaks of an operation, `x_frames` of a command: it answers a next state, and only the parts named differ.
-/
/- One proof at a time: the default arguments of `Only.ofMk` are tactics, and a proof that runs them beside others waits for those, a thread each. -/
set_option Elab.async false

namespace Sys2Proof.Machine

/-! ### Ops -/

theorem State.setConv_only (s : State) (k : Nat) (f : Converter → Converter) : Only [.front] s (State.setConv s k f) := Only.ofMk rfl (Only.refl _ _)

theorem State.setCourse_only (s : State) (j : Nat) (f : Course → Course) : Only [.front] s (State.setCourse s j f) := Only.ofMk rfl (Only.refl _ _)

theorem State.setClk_only (s : State) (d : Nat) (f : DieClk → DieClk) : Only [.clk] s (State.setClk s d f) := Only.ofMk rfl (Only.refl _ _)

theorem State.setRing_only (s : State) (r : Nat) (f : Ring → Ring) : Only [.link] s (State.setRing s r f) := Only.ofMk rfl (Only.refl _ _)

theorem State.setDemod_only (s : State) (l : Nat) (f : Demod → Demod) : Only [.lanes] s (State.setDemod s l f) := Only.ofMk rfl (Only.refl _ _)

theorem State.setSpare_only (s : State) (c : Nat) (f : SpareSt → SpareSt) : Only [.lanes] s (State.setSpare s c f) := Only.ofMk rfl (Only.refl _ _)

theorem State.setWatch_only (s : State) (w : Nat) (f : WatchSt → WatchSt) : Only [.lanes] s (State.setWatch s w f) := Only.ofMk rfl (Only.refl _ _)

theorem State.setDieInteg_only (s : State) (d : Nat) (f : DieInteg → DieInteg) : Only [.integ] s (State.setDieInteg s d f) := Only.ofMk rfl (Only.refl _ _)

theorem State.setEngine_only (s : State) (e : Nat) (f : EngineSt → EngineSt) : Only [.ofdm] s (State.setEngine s e f) := Only.ofMk rfl (Only.refl _ _)

theorem State.setSignal_only (s : State) (e p : Nat) (f : SignalSt → SignalSt) : Only [.ofdm] s (State.setSignal s e p f) := by
  unfold State.setSignal
  dsimp -failIfUnchanged only
  repeat' (first
    | with_reducible exact Only.refl _ _
    | ((with_reducible refine (State.setEngine_only _ _ _).andThen ?_ ?_); exact rfl)
    | refine Only.ofMk rfl ?_)

theorem State.setRegion_only (s : State) (g : Nat) (f : RegionSt → RegionSt) : Only [.ofdm] s (State.setRegion s g f) := Only.ofMk rfl (Only.refl _ _)

theorem State.setPhys_only (s : State) (d p : Nat) (f : PhysEngine → PhysEngine) : Only [.ofdm] s (State.setPhys s d p f) := Only.ofMk rfl (Only.refl _ _)

theorem State.setFollow_only (s : State) (f : Nat) (g : FollowSt → FollowSt) : Only [.audio] s (State.setFollow s f g) := Only.ofMk rfl (Only.refl _ _)

theorem State.setSlot_only (s : State) (x : Nat) (g : SlotSt → SlotSt) : Only [.audio] s (State.setSlot s x g) := Only.ofMk rfl (Only.refl _ _)

theorem State.setContext_only (s : State) (k : Nat) (g : ContextSt → ContextSt) : Only [.audio] s (State.setContext s k g) := Only.ofMk rfl (Only.refl _ _)

theorem State.setMon_only (s : State) (d : Nat) (f : MonSt → MonSt) : Only [.mon] s (State.setMon s d f) := Only.ofMk rfl (Only.refl _ _)

theorem State.setMb_only (s : State) (f : MbSt → MbSt) (h : ∀ m, (f m).sclLowT = m.sclLowT ∧ (f m).sclHighT = m.sclHighT ∧ (f m).sdaHold = m.sdaHold ∧ (f m).glitch = m.glitch) : Only [.mb] s (s.setMb f) := by
  unfold State.setMb
  exact Only.ofMk rfl (Only.refl _ _) (k_busTiming := fun _ => h _)

theorem send_only (x : Sent) (s : State) : Only [.link] s (send x s) := Only.ofMk rfl (Only.refl _ _)

theorem hostAccess_only (s : State) : Only [.mode] s (hostAccess s) := Only.ofMk rfl (Only.refl _ _)

theorem dieWrite_frames {as : List Aspect} {f : State → State} (hm : as.contains .mode = true) (h : ∀ t, Only as t (f t)) (d : Nat) (b : Bool) (s : State) :
    Frames as s (dieWrite d b f s) := by
  have ha : Only as s (hostAccess s) := (hostAccess_only s).mono (by rw [List.all_cons, hm]; rfl)
  exact Frames.onlyIf fun _ => Only.ite (ha.trans (h _)) ha

theorem dieRead_frames {as : List Aspect} {f : State → State} (hm : as.contains .mode = true) (hl : as.contains .link = true) (h : ∀ t, Only as t (f t))
    (d v : Nat) (s : State) : Frames as s (dieRead d v f s) := by
  have ha : Only as s (hostAccess s) := (hostAccess_only s).mono (by rw [List.all_cons, hm]; rfl)
  have hs : ∀ x t, Only as t (send x t) := fun x t => (send_only x t).mono (by rw [List.all_cons, hl]; rfl)
  exact Frames.onlyIf fun _ => Only.ite ((ha.trans (h _)).trans (hs _ _)) (ha.trans (hs _ _))

theorem signalVector_only (v : Nat) (s : State) : Only [.link] s (signalVector v s) := by
  unfold signalVector
  dsimp -failIfUnchanged only
  repeat' (first
    | with_reducible exact Only.refl _ _
    | ((with_reducible refine (send_only _ _).andThen ?_ ?_); exact rfl)
    | with_reducible refine Only.ite ?_ ?_
    | refine Only.ofMk rfl ?_)

theorem countEntry_only (r : Nat) (s : State) : Only [.link] s (countEntry r s) := by
  unfold countEntry
  dsimp -failIfUnchanged only
  repeat' (first
    | with_reducible exact Only.refl _ _
    | ((with_reducible refine (State.setRing_only _ _ _).andThen ?_ ?_); exact rfl)
    | ((with_reducible refine (signalVector_only _ _).andThen ?_ ?_); exact rfl)
    | with_reducible refine Only.ite ?_ ?_
    | refine Only.ofMk rfl ?_)

theorem queueLog_only (ev : Ev) (s : State) : Only [.integ] s (queueLog ev s) := by
  unfold queueLog
  dsimp -failIfUnchanged only
  repeat' (first
    | with_reducible exact Only.refl _ _
    | with_reducible refine Only.ite ?_ ?_
    | refine Only.ofMk rfl ?_)

theorem State.setHall_only (s : State) (f : HallSt → HallSt) : Only [.sec] s (State.setHall s f) := Only.ofMk rfl (Only.refl _ _)

theorem note_only (x : HallNote) (s : State) : Only [.sec] s (note x s) := by
  unfold note
  dsimp -failIfUnchanged only
  repeat' (first
    | with_reducible exact Only.refl _ _
    | ((with_reducible refine (State.setHall_only _ _).andThen ?_ ?_); exact rfl)
    | refine Only.ofMk rfl ?_)

theorem raise_only (n : EvName) (origin : Nat) (args : List EvArg) (s : State) : Only [.link, .integ, .sec] s (raise n origin args s) := by
  unfold raise
  dsimp -failIfUnchanged only
  repeat' (first
    | with_reducible exact Only.refl _ _
    | ((with_reducible refine (State.setHall_only _ _).andThen ?_ ?_); exact rfl)
    | ((with_reducible refine (queueLog_only _ _).andThen ?_ ?_); exact rfl)
    | with_reducible refine Only.ite ?_ ?_
    | refine Only.ofMk rfl ?_)

theorem hallMode_only (m : OpMode) (s : State) : Only [.sec] s (hallMode m s) := by
  unfold hallMode
  dsimp -failIfUnchanged only
  repeat' (first
    | with_reducible exact Only.refl _ _
    | ((with_reducible refine (State.setHall_only _ _).andThen ?_ ?_); exact rfl)
    | with_reducible refine Only.ite ?_ ?_
    | refine Only.ofMk rfl ?_)

theorem setMode_only (m : OpMode) (c : ModeCause) (s : State) : Only [.link, .integ, .mode, .sec, .modeCode] s (setMode m c s) := by
  unfold setMode
  dsimp -failIfUnchanged only
  repeat' (first
    | with_reducible exact Only.refl _ _
    | ((with_reducible refine (hallMode_only _ _).andThen ?_ ?_); exact rfl)
    | ((with_reducible refine (raise_only _ _ _ _).andThen ?_ ?_); exact rfl)
    | refine Only.ofMk rfl ?_)

theorem reconcileMode_only (s : State) : Only [.link, .integ, .mode, .sec, .modeCode] s (reconcileMode s) := by
  unfold reconcileMode
  dsimp -failIfUnchanged only
  repeat' (first
    | with_reducible exact Only.refl _ _
    | ((with_reducible refine (setMode_only _ _ _).andThen ?_ ?_); exact rfl)
    | with_reducible refine Only.ite ?_ ?_
    | refine Only.ofMk rfl ?_)

theorem holdSpan_only (s : State) : Only [.spans] s (holdSpan s) := by
  unfold holdSpan
  dsimp -failIfUnchanged only
  repeat' (first
    | with_reducible exact Only.refl _ _
    | with_reducible refine Only.ite ?_ ?_
    | refine Only.ofMk rfl ?_)

theorem refresh_only (s : State) : Only [.spans, .link, .integ, .mode, .sec, .modeCode] s (refresh s) := by
  unfold refresh
  dsimp -failIfUnchanged only
  repeat' (first
    | with_reducible exact Only.refl _ _
    | ((with_reducible refine (holdSpan_only _).andThen ?_ ?_); exact rfl)
    | ((with_reducible refine (raise_only _ _ _ _).andThen ?_ ?_); exact rfl)
    | ((with_reducible refine (reconcileMode_only _).andThen ?_ ?_); exact rfl)
    | with_reducible refine Only.ite ?_ ?_
    | refine Only.ofMk rfl ?_)

theorem openSuspect_only (sc : SuspectScope) (s : State) : Only [.spans] s (openSuspect sc s) := by
  unfold openSuspect
  dsimp -failIfUnchanged only
  repeat' (first
    | with_reducible exact Only.refl _ _
    | with_reducible refine Only.ite ?_ ?_
    | refine Only.ofMk rfl ?_)

theorem closeSuspect_only (sc : SuspectScope) (s : State) : Only [.spans] s (closeSuspect sc s) := by
  unfold closeSuspect
  dsimp -failIfUnchanged only
  repeat' (first
    | with_reducible exact Only.refl _ _
    | with_reducible refine Only.ite ?_ ?_
    | refine Only.ofMk rfl ?_)

theorem addOcc_only (cls : Nat) (u : UnitRef) (s : State) : Only [.integ] s (addOcc cls u s) := Only.ofMk rfl (Only.refl _ _)

theorem declareLasting_only (cls : Nat) (u : UnitRef) (n : Nat) (s : State) : Only [.link, .integ, .sec] s (declareLasting cls u n s) := by
  unfold declareLasting
  dsimp -failIfUnchanged only
  repeat' (first
    | with_reducible exact Only.refl _ _
    | ((with_reducible refine (State.setDieInteg_only _ _ _).andThen ?_ ?_); exact rfl)
    | ((with_reducible refine (raise_only _ _ _ _).andThen ?_ ?_); exact rfl)
    | refine Only.ofMk rfl ?_)

theorem occur_only (cls : Nat) (u : UnitRef) (s : State) : Only [.link, .integ, .sec] s (occur cls u s).2 := by
  unfold occur
  dsimp -failIfUnchanged only
  repeat' (first
    | with_reducible exact Only.refl _ _
    | ((with_reducible refine (addOcc_only _ _ _).andThen ?_ ?_); exact rfl)
    | ((with_reducible refine (declareLasting_only _ _ _ _).andThen ?_ ?_); exact rfl)
    | with_reducible refine Only.ite ?_ ?_
    | split
    | refine Only.ofMk rfl ?_)

theorem flashFault_only (a : FlashArea) (s : State) : Only [.link, .integ, .sec] s (flashFault a s) := by
  unfold flashFault
  dsimp -failIfUnchanged only
  repeat' (first
    | with_reducible exact Only.refl _ _
    | ((with_reducible refine (raise_only _ _ _ _).andThen ?_ ?_); exact rfl)
    | with_reducible refine Only.ite ?_ ?_
    | refine Only.ofMk rfl ?_)

theorem retireUnit_only (u : UnitRef) (s : State) : Only [.nv] s (retireUnit u s) := by
  unfold retireUnit
  split
  · exact Only.refl _ _
  · exact Only.ofMk rfl (Only.refl _ _) (k_retirement := fun _ x hx => by simp_all)

theorem unretireUnit_only (u : UnitRef) (s : State) : Only [.nv, .retirement] s (unretireUnit u s) := Only.ofMk rfl (Only.refl _ _)

theorem eraseOccs_only (u : UnitRef) (s : State) : Only [.integ] s (eraseOccs u s) := Only.ofMk rfl (Only.refl _ _)

theorem calChanged_only (s : State) : Only [.cal] s (calChanged s) := by
  unfold calChanged
  dsimp -failIfUnchanged only
  repeat' (first
    | with_reducible exact Only.refl _ _
    | with_reducible refine Only.ite ?_ ?_
    | split
    | refine Only.ofMk rfl ?_)

theorem calSuccessOf_only (item index origin : Nat) (s : State) : Only [.cal] s (calSuccessOf item index origin s) := by
  unfold calSuccessOf
  dsimp -failIfUnchanged only
  repeat' (first
    | with_reducible exact Only.refl _ _
    | ((with_reducible refine (calChanged_only _).andThen ?_ ?_); exact rfl)
    | refine Only.ofMk rfl ?_)

theorem calSuccess_only (item index : Nat) (s : State) : Only [.cal] s (calSuccess item index s) := by
  unfold calSuccess
  dsimp -failIfUnchanged only
  repeat' (first
    | with_reducible exact Only.refl _ _
    | ((with_reducible refine (calSuccessOf_only _ _ _ _).andThen ?_ ?_); exact rfl)
    | refine Only.ofMk rfl ?_)

theorem calFailed_only (item index reason : Nat) (s : State) : Only [.cal] s (calFailed item index reason s) := Only.ofMk rfl (Only.refl _ _)

theorem setSliceCoef_only (k i : Nat) (c : SliceCoef) (s : State) : Only [.cal] s (setSliceCoef k i c s) := by
  unfold setSliceCoef
  dsimp -failIfUnchanged only
  repeat' (first
    | with_reducible exact Only.refl _ _
    | ((with_reducible refine (calChanged_only _).andThen ?_ ?_); exact rfl)
    | refine Only.ofMk rfl ?_)

theorem writeCpl_only (q : Nat) (c : Cpl) (s : State) : Only [.link] s (writeCpl q c s) := by
  unfold writeCpl
  dsimp -failIfUnchanged only
  repeat' (first
    | with_reducible exact Only.refl _ _
    | ((with_reducible refine (State.setRing_only _ _ _).andThen ?_ ?_); exact rfl)
    | ((with_reducible refine (countEntry_only _ _).andThen ?_ ?_); exact rfl)
    | ((with_reducible refine (send_only _ _).andThen ?_ ?_); exact rfl)
    | with_reducible refine Only.ite ?_ ?_
    | refine Only.ofMk rfl ?_)

theorem postCpl_only (q : Nat) (c : Cpl) (s : State) : Only [.link] s (postCpl q c s) := by
  unfold postCpl
  dsimp -failIfUnchanged only
  repeat' (first
    | with_reducible exact Only.refl _ _
    | ((with_reducible refine (State.setRing_only _ _ _).andThen ?_ ?_); exact rfl)
    | ((with_reducible refine (writeCpl_only _ _ _).andThen ?_ ?_); exact rfl)
    | with_reducible refine Only.ite ?_ ?_
    | refine Only.ofMk rfl ?_)

theorem completeOne_only (src : CmdSrc) (desc : List Byte) (index : Nat) (st : Status) (result : Nat) (s : State) : Only [.link, .mb] s (completeOne src desc index st result s) := by
  unfold completeOne
  dsimp -failIfUnchanged only
  repeat' (first
    | with_reducible exact Only.refl _ _
    | ((with_reducible refine (State.setMb_only _ _ ?_).andThen ?_ ?_); (intro m; (repeat' split) <;> exact ⟨rfl, rfl, rfl, rfl⟩); exact rfl)
    | ((with_reducible refine (State.setRing_only _ _ _).andThen ?_ ?_); exact rfl)
    | ((with_reducible refine (postCpl_only _ _ _).andThen ?_ ?_); exact rfl)
    | ((with_reducible refine (signalVector_only _ _).andThen ?_ ?_); exact rfl)
    | with_reducible refine Only.ite ?_ ?_
    | split
    | refine Only.ofMk rfl ?_)

theorem pump_only (r n : Nat) (s : State) : Only [.link, .mb] s (pump r n s) := by
  induction n generalizing s with
  | zero => exact Only.refl _ _
  | succ n ih =>
    unfold pump
    dsimp only
    repeat' (first
    | with_reducible exact Only.refl _ _
    | ((with_reducible refine Only.trans ?_ (ih _)))
    | ((with_reducible refine (completeOne_only _ _ _ _ _ _).andThen ?_ ?_); exact rfl)
    | ((with_reducible refine (State.setRing_only _ _ _).andThen ?_ ?_); exact rfl)
    | split)

theorem complete_only (src : CmdSrc) (desc : List Byte) (index : Nat) (st : Status) (result : Nat) (s : State) : Only [.link, .mb] s (complete src desc index st result s) := by
  unfold complete
  dsimp -failIfUnchanged only
  repeat' (first
    | with_reducible exact Only.refl _ _
    | ((with_reducible refine (completeOne_only _ _ _ _ _ _).andThen ?_ ?_); exact rfl)
    | ((with_reducible refine (pump_only _ _ _).andThen ?_ ?_); exact rfl)
    | split
    | refine Only.ofMk rfl ?_)

theorem completeWait_only (w : Wait → Bool) (st : Status) (result : Nat) (s : State) : Only [.link, .mb] s (completeWait w st result s) := by
  unfold completeWait
  dsimp -failIfUnchanged only
  repeat' (first
    | with_reducible exact Only.refl _ _
    | ((with_reducible refine (complete_only _ _ _ _ _ _).andThen ?_ ?_); exact rfl)
    | split
    | refine Only.ofMk rfl ?_)

theorem completeAll_only (w : Wait → Bool) (st : Status) (result : Nat) (s : State) : Only [.link, .mb] s (completeAll w st result s) := by
  unfold completeAll
  dsimp -failIfUnchanged only
  repeat' (first
    | with_reducible exact Only.refl _ _
    | ((with_reducible refine (complete_only _ _ _ _ _ _).andThen ?_ ?_); exact rfl)
    | ((with_reducible refine Only.foldlFrom ?_ ?_); intro _ _)
    | with_reducible refine Only.ite ?_ ?_
    | split
    | refine Only.ofMk rfl ?_)

theorem waitFor_only (src : CmdSrc) (desc : List Byte) (index : Nat) (w : Wait) (s : State) : Only [.link, .mb] s (waitFor src desc index w s) := by
  unfold waitFor
  dsimp -failIfUnchanged only
  repeat' (first
    | with_reducible exact Only.refl _ _
    | ((with_reducible refine (State.setMb_only _ _ ?_).andThen ?_ ?_); (intro m; (repeat' split) <;> exact ⟨rfl, rfl, rfl, rfl⟩); exact rfl)
    | ((with_reducible refine (State.setRing_only _ _ _).andThen ?_ ?_); exact rfl)
    | split
    | refine Only.ofMk rfl ?_)

theorem answerCommit_only (c : PendingCommit) (st : Status) (result : Nat) (s : State) : Only [.link, .mb] s (answerCommit c st result s) := by
  unfold answerCommit
  dsimp -failIfUnchanged only
  repeat' (first
    | with_reducible exact Only.refl _ _
    | ((with_reducible refine (complete_only _ _ _ _ _ _).andThen ?_ ?_); exact rfl)
    | with_reducible refine Only.ite ?_ ?_
    | split
    | refine Only.ofMk rfl ?_)

theorem finishCommits_only (s : State) : Only [.link, .cfg, .integ, .mb, .sec] s (finishCommits s) := by
  unfold finishCommits
  dsimp -failIfUnchanged only
  repeat' (first
    | with_reducible exact Only.refl _ _
    | ((with_reducible refine (answerCommit_only _ _ _ _).andThen ?_ ?_); exact rfl)
    | ((with_reducible refine (raise_only _ _ _ _).andThen ?_ ?_); exact rfl)
    | ((with_reducible refine Only.foldlFrom ?_ ?_); intro _ _)
    | with_reducible refine Only.ite ?_ ?_
    | refine Only.ofMk rfl ?_)

theorem endHop_only (d : Nat) (f : PendingCommit → PendingCommit) (s : State) : Only [.link, .cfg, .integ, .mb, .sec] s (endHop d f s) := by
  unfold endHop
  dsimp -failIfUnchanged only
  repeat' (first
    | with_reducible exact Only.refl _ _
    | ((with_reducible refine (finishCommits_only _).andThen ?_ ?_); exact rfl)
    | with_reducible refine Only.ite ?_ ?_
    | split
    | refine Only.ofMk rfl ?_)

theorem discardBlock_only (r : Nat) (s : State) : Only [.link] s (discardBlock r s) := by
  unfold discardBlock
  dsimp -failIfUnchanged only
  repeat' (first
    | with_reducible exact Only.refl _ _
    | ((with_reducible refine (State.setRing_only _ _ _).andThen ?_ ?_); exact rfl)
    | refine Only.ofMk rfl ?_)

theorem formBlock_only (r : Nat) (b : BlockIn) (s : State) : Only [.link] s (formBlock r b s) := by
  unfold formBlock
  dsimp -failIfUnchanged only
  repeat' (first
    | with_reducible exact Only.refl _ _
    | ((with_reducible refine (State.setRing_only _ _ _).andThen ?_ ?_); exact rfl)
    | ((with_reducible refine (discardBlock_only _ _).andThen ?_ ?_); exact rfl)
    | with_reducible refine Only.ite ?_ ?_
    | refine Only.ofMk rfl ?_)

theorem formRouted_only (cls : DelClass) (sel : RouteEntry → Bool) (b : BlockIn) (s : State) : Only [.link] s (formRouted cls sel b s) := by
  unfold formRouted
  dsimp -failIfUnchanged only
  repeat' (first
    | with_reducible exact Only.refl _ _
    | ((with_reducible refine (formBlock_only _ _ _).andThen ?_ ?_); exact rfl)
    | ((with_reducible refine Only.foldlFrom ?_ ?_); intro _ _)
    | with_reducible refine Only.ite ?_ ?_
    | refine Only.ofMk rfl ?_)

theorem formRecordBlocks_only (cls : DelClass) (sel : RouteEntry → Bool) (bound : Nat) (recs : List (List Byte)) (b : BlockIn) (s : State) : Only [.link] s (formRecordBlocks cls sel bound recs b s) := by
  unfold formRecordBlocks
  dsimp -failIfUnchanged only
  repeat' (first
    | with_reducible exact Only.refl _ _
    | ((with_reducible refine (formRouted_only _ _ _ _).andThen ?_ ?_); exact rfl)
    | ((with_reducible refine Only.foldlFrom ?_ ?_); intro _ _)
    | with_reducible refine Only.ite ?_ ?_
    | split
    | refine Only.ofMk rfl ?_)

/-! ### Courses -/

theorem taskNormal_only (t : Task) (s : State) : Only [.integ] s (taskNormal t s) := Only.ofMk rfl (Only.refl _ _)

theorem taskDue_only (t : Task) (s : State) : Only [.integ] s (taskDue t s) := by
  unfold taskDue
  dsimp -failIfUnchanged only
  repeat' (first
    | with_reducible exact Only.refl _ _
    | with_reducible refine Only.ite ?_ ?_
    | refine Only.ofMk rfl ?_)

theorem taskOverdue_only (t : Task) (s : State) : Only [.link, .integ, .sec] s (taskOverdue t s) := by
  unfold taskOverdue
  dsimp -failIfUnchanged only
  repeat' (first
    | with_reducible exact Only.refl _ _
    | ((with_reducible refine (raise_only _ _ _ _).andThen ?_ ?_); exact rfl)
    | ((with_reducible refine (taskNormal_only _ _).andThen ?_ ?_); exact rfl)
    | with_reducible refine Only.ite ?_ ?_
    | refine Only.ofMk rfl ?_)

theorem mapCluster_only (c : Nat) (f : Chain → Chain) (s : State) : Only [.taps] s (mapCluster c f s) := by
  unfold mapCluster
  dsimp -failIfUnchanged only
  repeat' (first
    | with_reducible exact Only.refl _ _
    | ((with_reducible refine Only.foldlFrom ?_ ?_); intro _ _)
    | refine Only.ofMk rfl ?_)

theorem goOnLane_only (l : Nat) (s : State) : Only [.taps] s (goOnLane l s) := Only.ofMk rfl (Only.refl _ _)

theorem goOnWatch_only (w : Nat) (s : State) : Only [.taps] s (goOnWatch w s) := Only.ofMk rfl (Only.refl _ _)

theorem goOnCluster_only (c : Nat) (s : State) : Only [.taps] s (goOnCluster c s) := by
  unfold goOnCluster
  dsimp -failIfUnchanged only
  repeat' (first
    | with_reducible exact Only.refl _ _
    | ((with_reducible refine (goOnLane_only _ _).andThen ?_ ?_); exact rfl)
    | ((with_reducible refine (goOnWatch_only _ _).andThen ?_ ?_); exact rfl)
    | ((with_reducible refine Only.foldlFrom ?_ ?_); intro _ _)
    | refine Only.ofMk rfl ?_)

theorem bandTapInstant_only (e : Nat) (c : Nat) (s : State) : Only [.taps] s (bandTapInstant e c s) := by
  unfold bandTapInstant
  dsimp -failIfUnchanged only
  repeat' (first
    | with_reducible exact Only.refl _ _
    | ((with_reducible refine (mapCluster_only _ _ _).andThen ?_ ?_); exact rfl)
    | refine Only.ofMk rfl ?_)

theorem bandTapSpanOpen_only (e1 : Nat) (c : Nat) (s : State) : Only [.taps] s (bandTapSpanOpen e1 c s) := by
  unfold bandTapSpanOpen
  dsimp -failIfUnchanged only
  repeat' (first
    | with_reducible exact Only.refl _ _
    | ((with_reducible refine (mapCluster_only _ _ _).andThen ?_ ?_); exact rfl)
    | with_reducible refine Only.ite ?_ ?_
    | refine Only.ofMk rfl ?_)

theorem bandTapSpanClose_only (e2 : Nat) (c : Nat) (s : State) : Only [.taps] s (bandTapSpanClose e2 c s) := by
  unfold bandTapSpanClose
  dsimp -failIfUnchanged only
  repeat' (first
    | with_reducible exact Only.refl _ _
    | ((with_reducible refine (mapCluster_only _ _ _).andThen ?_ ?_); exact rfl)
    | refine Only.ofMk rfl ?_)

theorem bandTapSpan_only (e1 e2 : Nat) (c : Nat) (s : State) : Only [.taps] s (bandTapSpan e1 e2 c s) := by
  unfold bandTapSpan
  dsimp -failIfUnchanged only
  repeat' (first
    | with_reducible exact Only.refl _ _
    | ((with_reducible refine (mapCluster_only _ _ _).andThen ?_ ?_); exact rfl)
    | refine Only.ofMk rfl ?_)

theorem dieInstant_only (e d : Nat) (s : State) : Only [.taps] s (dieInstant e d s) := by
  unfold dieInstant
  dsimp -failIfUnchanged only
  repeat' (first
    | with_reducible exact Only.refl _ _
    | ((with_reducible refine (bandTapInstant_only _ _ _).andThen ?_ ?_); exact rfl)
    | ((with_reducible refine Only.foldlFrom ?_ ?_); intro _ _)
    | refine Only.ofMk rfl ?_)

theorem dieEdge_only (old new d : Nat) (s : State) : Only [.clk, .taps] s (dieEdge old new d s) := by
  unfold dieEdge
  dsimp -failIfUnchanged only
  repeat' (first
    | with_reducible exact Only.refl _ _
    | ((with_reducible refine (State.setClk_only _ _ _).andThen ?_ ?_); exact rfl)
    | ((with_reducible refine (mapCluster_only _ _ _).andThen ?_ ?_); exact rfl)
    | ((with_reducible refine Only.foldlFrom ?_ ?_); intro _ _)
    | refine Only.ofMk rfl ?_)

theorem State.beforeEdge_only (s : State) (d : Nat) : Only [.taps] s (State.beforeEdge s d) := by
  unfold State.beforeEdge
  dsimp -failIfUnchanged only
  repeat' (first
    | with_reducible exact Only.refl _ _
    | ((with_reducible refine (mapCluster_only _ _ _).andThen ?_ ?_); exact rfl)
    | ((with_reducible refine Only.foldlFrom ?_ ?_); intro _ _)
    | refine Only.ofMk rfl ?_)

theorem dieReload_only (d : Nat) (s : State) : Only [.clk, .taps] s (dieReload d s) := by
  unfold dieReload
  dsimp -failIfUnchanged only
  repeat' (first
    | with_reducible exact Only.refl _ _
    | ((with_reducible refine (State.setClk_only _ _ _).andThen ?_ ?_); exact rfl)
    | ((with_reducible refine (dieInstant_only _ _ _).andThen ?_ ?_); exact rfl)
    | ((with_reducible refine (mapCluster_only _ _ _).andThen ?_ ?_); exact rfl)
    | ((with_reducible refine Only.foldlFrom ?_ ?_); intro _ _)
    | refine Only.ofMk rfl ?_)

theorem zeroCourse_only (j : Nat) (s : State) : Only [.front, .taps] s (zeroCourse j s) := by
  unfold zeroCourse
  dsimp -failIfUnchanged only
  repeat' (first
    | with_reducible exact Only.refl _ _
    | ((with_reducible refine (State.setCourse_only _ _ _).andThen ?_ ?_); exact rfl)
    | ((with_reducible refine (bandTapSpanOpen_only _ _ _).andThen ?_ ?_); exact rfl)
    | ((with_reducible refine Only.foldlFrom ?_ ?_); intro _ _)
    | with_reducible refine Only.ite ?_ ?_
    | refine Only.ofMk rfl ?_)

theorem matchZeroSpans_only (e : Nat) (s : State) : Only [.taps] s (matchZeroSpans e s) := by
  unfold matchZeroSpans
  dsimp -failIfUnchanged only
  repeat' (first
    | with_reducible exact Only.refl _ _
    | ((with_reducible refine (bandTapSpanClose_only _ _ _).andThen ?_ ?_); exact rfl)
    | ((with_reducible refine (bandTapSpanOpen_only _ _ _).andThen ?_ ?_); exact rfl)
    | ((with_reducible refine Only.foldlFrom ?_ ?_); intro _ _)
    | with_reducible refine Only.ite ?_ ?_
    | refine Only.ofMk rfl ?_)

theorem unzeroCourse_only (j e : Nat) (s : State) : Only [.front, .taps] s (unzeroCourse j e s) := by
  unfold unzeroCourse
  dsimp -failIfUnchanged only
  repeat' (first
    | with_reducible exact Only.refl _ _
    | ((with_reducible refine (State.setCourse_only _ _ _).andThen ?_ ?_); exact rfl)
    | ((with_reducible refine (matchZeroSpans_only _ _).andThen ?_ ?_); exact rfl)
    | with_reducible refine Only.ite ?_ ?_
    | split
    | refine Only.ofMk rfl ?_)

theorem assignExports_only (s : State) : Only [.taps] s (assignExports s) := by
  unfold assignExports
  dsimp -failIfUnchanged only
  repeat' (first
    | with_reducible exact Only.refl _ _
    | ((with_reducible refine Only.foldlFrom ?_ ?_); intro _ _)
    | with_reducible refine Only.ite ?_ ?_
    | split
    | refine Only.ofMk rfl ?_)

theorem domainOn_only (d bit : Nat) (s : State) : Only [.domains] s (domainOn d bit s) := by
  unfold domainOn
  dsimp -failIfUnchanged only
  repeat' (first
    | with_reducible exact Only.refl _ _
    | with_reducible refine Only.ite ?_ ?_
    | refine Only.ofMk rfl ?_)

theorem stopLoop_only (d : Nat) (l : DieLoop) (s : State) : Only [.clk, .spans] s (stopLoop d l s) := by
  unfold stopLoop
  dsimp -failIfUnchanged only
  repeat' (first
    | with_reducible exact Only.refl _ _
    | ((with_reducible refine (State.setClk_only _ _ _).andThen ?_ ?_); exact rfl)
    | ((with_reducible refine (closeSuspect_only _ _).andThen ?_ ?_); exact rfl)
    | with_reducible refine Only.ite ?_ ?_
    | split
    | refine Only.ofMk rfl ?_)

theorem domainOff_only (d bit : Nat) (s : State) : Only [.clk, .spans, .domains] s (domainOff d bit s) := by
  unfold domainOff
  dsimp -failIfUnchanged only
  repeat' (first
    | with_reducible exact Only.refl _ _
    | ((with_reducible refine (stopLoop_only _ _ _).andThen ?_ ?_); exact rfl)
    | with_reducible refine Only.ite ?_ ?_
    | split
    | refine Only.ofMk rfl ?_)

theorem powerConv_only (k : Nat) (s : State) : Only [.front, .domains] s (powerConv k s) := by
  unfold powerConv
  dsimp -failIfUnchanged only
  repeat' (first
    | with_reducible exact Only.refl _ _
    | ((with_reducible refine (State.setConv_only _ _ _).andThen ?_ ?_); exact rfl)
    | ((with_reducible refine (domainOn_only _ _ _).andThen ?_ ?_); exact rfl)
    | with_reducible refine Only.ite ?_ ?_
    | split
    | refine Only.ofMk rfl ?_)

theorem unpowerConv_only (k : Nat) (s : State) : Only [.clk, .spans, .front, .domains] s (unpowerConv k s) := by
  unfold unpowerConv
  dsimp -failIfUnchanged only
  repeat' (first
    | with_reducible exact Only.refl _ _
    | ((with_reducible refine (State.setConv_only _ _ _).andThen ?_ ?_); exact rfl)
    | ((with_reducible refine (domainOff_only _ _ _).andThen ?_ ?_); exact rfl)
    | refine Only.ofMk rfl ?_)

theorem endAttribution_only (j : Nat) (s : State) : Only [.front] s (endAttribution j s) := by
  unfold endAttribution
  dsimp -failIfUnchanged only
  repeat' (first
    | with_reducible exact Only.refl _ _
    | ((with_reducible refine (State.setConv_only _ _ _).andThen ?_ ?_); exact rfl)
    | ((with_reducible refine (State.setCourse_only _ _ _).andThen ?_ ?_); exact rfl)
    | with_reducible refine Only.ite ?_ ?_
    | split
    | refine Only.ofMk rfl ?_)

theorem spoilLevel_only (j : Nat) (s : State) : Only [.cal] s (spoilLevel j s) := Only.ofMk rfl (Only.refl _ _)

theorem markCourse_only (j : Nat) (db : Int) (splice : Bool) (s : State) : Only [.link, .cal] s (markCourse j db splice s) := by
  unfold markCourse
  dsimp -failIfUnchanged only
  repeat' (first
    | with_reducible exact Only.refl _ _
    | ((with_reducible refine (spoilLevel_only _ _).andThen ?_ ?_); exact rfl)
    | refine Only.ofMk rfl ?_)

theorem setGain_only (j : Nat) (g : Int) (s : State) : Only [.front, .link, .cal] s (setGain j g s) := by
  unfold setGain
  dsimp -failIfUnchanged only
  repeat' (first
    | with_reducible exact Only.refl _ _
    | ((with_reducible refine (State.setCourse_only _ _ _).andThen ?_ ?_); exact rfl)
    | ((with_reducible refine (markCourse_only _ _ _ _).andThen ?_ ?_); exact rfl)
    | with_reducible refine Only.ite ?_ ?_
    | refine Only.ofMk rfl ?_)

theorem loseCourse_only (j : Nat) (s : State) : Only [.front, .taps, .link, .integ, .sec] s (loseCourse j s) := by
  unfold loseCourse
  dsimp -failIfUnchanged only
  repeat' (first
    | with_reducible exact Only.refl _ _
    | ((with_reducible refine (State.setCourse_only _ _ _).andThen ?_ ?_); exact rfl)
    | ((with_reducible refine (assignExports_only _).andThen ?_ ?_); exact rfl)
    | ((with_reducible refine (raise_only _ _ _ _).andThen ?_ ?_); exact rfl)
    | ((with_reducible refine (standbyReady_only _ _).andThen ?_ ?_); exact rfl)
    | ((with_reducible refine (zeroCourse_only _ _).andThen ?_ ?_); exact rfl)
    | with_reducible refine Only.ite ?_ ?_
    | refine Only.ofMk rfl ?_)

theorem spliceTo_only (j x : Nat) (s : State) : Only [.front, .taps, .link, .cal] s (spliceTo j x s) := by
  unfold spliceTo
  dsimp -failIfUnchanged only
  repeat' (first
    | with_reducible exact Only.refl _ _
    | ((with_reducible refine (State.setCourse_only _ _ _).andThen ?_ ?_); exact rfl)
    | ((with_reducible refine (assignExports_only _).andThen ?_ ?_); exact rfl)
    | ((with_reducible refine (markCourse_only _ _ _ _).andThen ?_ ?_); exact rfl)
    | refine Only.ofMk rfl ?_)

theorem supplied_only (j x e : Nat) (s : State) : Only [.front, .taps] s (supplied j x e s) := by
  unfold supplied
  dsimp -failIfUnchanged only
  repeat' (first
    | with_reducible exact Only.refl _ _
    | ((with_reducible refine (unzeroCourse_only _ _ _).andThen ?_ ?_); exact rfl)
    | ((with_reducible refine (zeroCourse_only _ _).andThen ?_ ?_); exact rfl)
    | with_reducible refine Only.ite ?_ ?_
    | refine Only.ofMk rfl ?_)

theorem startOn_only (j x : Nat) (s : State) : Only [.front, .taps, .link, .cal, .mb] s (startOn j x s) := by
  unfold startOn
  dsimp -failIfUnchanged only
  repeat' (first
    | with_reducible exact Only.refl _ _
    | ((with_reducible refine (completeWait_only _ _ _ _).andThen ?_ ?_); exact rfl)
    | ((with_reducible refine (spliceTo_only _ _ _).andThen ?_ ?_); exact rfl)
    | ((with_reducible refine (supplied_only _ _ _ _).andThen ?_ ?_); exact rfl)
    | refine Only.ofMk rfl ?_)

theorem fallBackTo_only (j x : Nat) (cause : ConvCause) (s : State) : Only [.front, .taps, .link, .cal, .integ, .domains, .mb, .sec] s (fallBackTo j x cause s) := by
  unfold fallBackTo
  dsimp -failIfUnchanged only
  repeat' (first
    | with_reducible exact Only.refl _ _
    | ((with_reducible refine (State.setCourse_only _ _ _).andThen ?_ ?_); exact rfl)
    | ((with_reducible refine (assignExports_only _).andThen ?_ ?_); exact rfl)
    | ((with_reducible refine (powerConv_only _ _).andThen ?_ ?_); exact rfl)
    | ((with_reducible refine (raise_only _ _ _ _).andThen ?_ ?_); exact rfl)
    | ((with_reducible refine (standbyReady_only _ _).andThen ?_ ?_); exact rfl)
    | ((with_reducible refine (startOn_only _ _ _).andThen ?_ ?_); exact rfl)
    | ((with_reducible refine (taskDue_only _ _).andThen ?_ ?_); exact rfl)
    | ((with_reducible refine (zeroCourse_only _ _).andThen ?_ ?_); exact rfl)
    | with_reducible refine Only.ite ?_ ?_
    | refine Only.ofMk rfl ?_)

theorem courseAfterFailure_only (j x : Nat) (cause : ConvCause) (firstMismatch : Nat) (s : State) : Only [.front, .taps, .link, .cal, .integ, .domains, .mb, .sec] s (courseAfterFailure j x cause firstMismatch s) := by
  unfold courseAfterFailure
  dsimp -failIfUnchanged only
  repeat' (first
    | with_reducible exact Only.refl _ _
    | ((with_reducible refine (State.setCourse_only _ _ _).andThen ?_ ?_); exact rfl)
    | ((with_reducible refine (endAttribution_only _ _).andThen ?_ ?_); exact rfl)
    | ((with_reducible refine (fallBackTo_only _ _ _ _).andThen ?_ ?_); exact rfl)
    | ((with_reducible refine (loseCourse_only _ _).andThen ?_ ?_); exact rfl)
    | ((with_reducible refine (standbyReady_only _ _).andThen ?_ ?_); exact rfl)
    | with_reducible refine Only.ite ?_ ?_
    | split
    | refine Only.ofMk rfl ?_)

theorem failConverter_only (k : Nat) (cause : ConvCause) (firstMismatch : Nat) (s : State) : Only [.spans, .front, .taps, .link, .cal, .integ, .mode, .domains, .mb, .sec, .modeCode] s (failConverter k cause firstMismatch s) := by
  unfold failConverter
  dsimp -failIfUnchanged only
  repeat' (first
    | with_reducible exact Only.refl _ _
    | ((with_reducible refine (State.setConv_only _ _ _).andThen ?_ ?_); exact rfl)
    | ((with_reducible refine (courseAfterFailure_only _ _ _ _ _).andThen ?_ ?_); exact rfl)
    | ((with_reducible refine (raise_only _ _ _ _).andThen ?_ ?_); exact rfl)
    | ((with_reducible refine (refresh_only _).andThen ?_ ?_); exact rfl)
    | with_reducible refine Only.ite ?_ ?_
    | split
    | refine Only.ofMk rfl ?_)

/-! ### PortOps -/

theorem State.setPort_only (s : State) (p : PortId) (f : PortSt → PortSt) : Only [.ports] s (State.setPort s p f) := Only.ofMk rfl (Only.refl _ _)

theorem State.setAmclk_only (s : State) (d : Nat) (f : AmclkSt → AmclkSt) : Only [.ports] s (State.setAmclk s d f) := Only.ofMk rfl (Only.refl _ _)

theorem beginPreRoll_only (p : PortId) (t : Nat) (resuming : Bool) (s : State) : Only [.ports] s (beginPreRoll p t resuming s) := by
  unfold beginPreRoll
  dsimp -failIfUnchanged only
  repeat' (first
    | with_reducible exact Only.refl _ _
    | ((with_reducible refine (State.setPort_only _ _ _).andThen ?_ ?_); exact rfl)
    | with_reducible refine Only.ite ?_ ?_
    | refine Only.ofMk rfl ?_)

theorem stopPort_only (p : PortId) (ph : PortPhase) (bp : Nat) (r : PortReason) (s : State) : Only [.ports, .link, .integ, .sec] s (stopPort p ph bp r s) := by
  unfold stopPort
  dsimp -failIfUnchanged only
  repeat' (first
    | with_reducible exact Only.refl _ _
    | ((with_reducible refine (State.setPort_only _ _ _).andThen ?_ ?_); exact rfl)
    | ((with_reducible refine (raise_only _ _ _ _).andThen ?_ ?_); exact rfl)
    | refine Only.ofMk rfl ?_)

theorem stopPortAt_only (p : PortId) (t : Nat) (s : State) : Only [.ports, .link, .integ, .sec] s (stopPortAt p t s) := by
  unfold stopPortAt
  dsimp -failIfUnchanged only
  repeat' (first
    | with_reducible exact Only.refl _ _
    | ((with_reducible refine (State.setPort_only _ _ _).andThen ?_ ?_); exact rfl)
    | ((with_reducible refine (stopPort_only _ _ _ _ _).andThen ?_ ?_); exact rfl)
    | with_reducible refine Only.ite ?_ ?_
    | split
    | refine Only.ofMk rfl ?_)

theorem fencePorts_only (d : Nat) (s : State) : Only [.ports, .link, .integ, .sec] s (fencePorts d s) := by
  unfold fencePorts
  dsimp -failIfUnchanged only
  repeat' (first
    | with_reducible exact Only.refl _ _
    | ((with_reducible refine (State.setPort_only _ _ _).andThen ?_ ?_); exact rfl)
    | ((with_reducible refine (stopPort_only _ _ _ _ _).andThen ?_ ?_); exact rfl)
    | ((with_reducible refine Only.foldlFrom ?_ ?_); intro _ _)
    | with_reducible refine Only.ite ?_ ?_
    | refine Only.ofMk rfl ?_)

theorem portsToFollower_only (d : Nat) (s : State) : Only [.ports] s (portsToFollower d s) := by
  unfold portsToFollower
  dsimp -failIfUnchanged only
  repeat' (first
    | with_reducible exact Only.refl _ _
    | ((with_reducible refine (State.setPort_only _ _ _).andThen ?_ ?_); exact rfl)
    | ((with_reducible refine Only.foldlFrom ?_ ?_); intro _ _)
    | with_reducible refine Only.ite ?_ ?_
    | refine Only.ofMk rfl ?_)

theorem resyncPorts_only (old new : Nat) (s : State) : Only [.ports, .link, .integ, .sec] s (resyncPorts old new s) := by
  unfold resyncPorts
  dsimp -failIfUnchanged only
  repeat' (first
    | with_reducible exact Only.refl _ _
    | ((with_reducible refine (State.setPort_only _ _ _).andThen ?_ ?_); exact rfl)
    | ((with_reducible refine (raise_only _ _ _ _).andThen ?_ ?_); exact rfl)
    | ((with_reducible refine Only.foldlFrom ?_ ?_); intro _ _)
    | with_reducible refine Only.ite ?_ ?_
    | refine Only.ofMk rfl ?_)

theorem reloadPorts_only (d : Nat) (s : State) : Only [.ports] s (reloadPorts d s) := by
  unfold reloadPorts
  dsimp -failIfUnchanged only
  repeat' (first
    | with_reducible exact Only.refl _ _
    | ((with_reducible refine (State.setPort_only _ _ _).andThen ?_ ?_); exact rfl)
    | with_reducible refine Only.ite ?_ ?_
    | refine Only.ofMk rfl ?_)

theorem endSupervision_only (d : Nat) (s : State) : Only [.ports] s (endSupervision d s) := by
  unfold endSupervision
  dsimp -failIfUnchanged only
  repeat' (first
    | with_reducible exact Only.refl _ _
    | ((with_reducible refine (State.setAmclk_only _ _ _).andThen ?_ ?_); exact rfl)
    | with_reducible refine Only.ite ?_ ?_
    | refine Only.ofMk rfl ?_)

theorem commitPort_only (p : PortId) (e : PortEntry) (t : Nat) (s : State) : Only [.ports] s (commitPort p e t s) := by
  unfold commitPort
  dsimp -failIfUnchanged only
  repeat' (first
    | with_reducible exact Only.refl _ _
    | ((with_reducible refine (State.setPort_only _ _ _).andThen ?_ ?_); exact rfl)
    | ((with_reducible refine (endSupervision_only _ _).andThen ?_ ?_); exact rfl)
    | with_reducible refine Only.ite ?_ ?_
    | refine Only.ofMk rfl ?_)

/-! ### Units -/

theorem stopConverters_only (s : State) : Only [.front] s (stopConverters s) := Only.ofMk rfl (Only.refl _ _)

theorem stopUnits_only (s : State) : Only [.front, .taps, .lanes, .ofdm, .audio, .ports] s (stopUnits s) := by
  unfold stopUnits
  dsimp -failIfUnchanged only
  repeat' (first
    | with_reducible exact Only.refl _ _
    | ((with_reducible refine (stopConverters_only _).andThen ?_ ?_); exact rfl)
    | refine Only.ofMk rfl ?_)

/-! ### Domains -/

theorem powerMask_only (d m : Nat) (s : State) : Only [.domains] s (powerMask d m s) := by
  unfold powerMask
  dsimp -failIfUnchanged only
  repeat' (first
    | with_reducible exact Only.refl _ _
    | ((with_reducible refine (domainOn_only _ _ _).andThen ?_ ?_); exact rfl)
    | ((with_reducible refine Only.foldlFrom ?_ ?_); intro _ _)
    | with_reducible refine Only.ite ?_ ?_
    | refine Only.ofMk rfl ?_)

theorem unpowerOutside_only (d m : Nat) (s : State) : Only [.clk, .spans, .domains] s (unpowerOutside d m s) := by
  unfold unpowerOutside
  dsimp -failIfUnchanged only
  repeat' (first
    | with_reducible exact Only.refl _ _
    | ((with_reducible refine (domainOff_only _ _ _).andThen ?_ ?_); exact rfl)
    | ((with_reducible refine Only.foldlFrom ?_ ?_); intro _ _)
    | with_reducible refine Only.ite ?_ ?_
    | refine Only.ofMk rfl ?_)

theorem powerDigital_only (c : ConfigSet) (s : State) : Only [.domains] s (powerDigital c s) := by
  unfold powerDigital
  dsimp -failIfUnchanged only
  repeat' (first
    | with_reducible exact Only.refl _ _
    | ((with_reducible refine (powerMask_only _ _ _).andThen ?_ ?_); exact rfl)
    | ((with_reducible refine Only.foldlFrom ?_ ?_); intro _ _)
    | refine Only.ofMk rfl ?_)

theorem beginReception_only (target : OpMode) (cause : ModeCause) (src : Option CmdSrc) (s : State) : Only [.mode, .domains] s (beginReception target cause src s) := by
  unfold beginReception
  dsimp -failIfUnchanged only
  repeat' (first
    | with_reducible exact Only.refl _ _
    | ((with_reducible refine (powerDigital_only _ _).andThen ?_ ?_); exact rfl)
    | refine Only.ofMk rfl ?_)

theorem setAlert_only (a : AlertCond) (holds : Bool) (s : State) : Only [.link, .integ, .mode, .domains, .sec] s (setAlert a holds s) := by
  unfold setAlert
  dsimp -failIfUnchanged only
  repeat' (first
    | with_reducible exact Only.refl _ _
    | ((with_reducible refine (beginReception_only _ _ _ _).andThen ?_ ?_); exact rfl)
    | ((with_reducible refine (raise_only _ _ _ _).andThen ?_ ?_); exact rfl)
    | with_reducible refine Only.ite ?_ ?_
    | refine Only.ofMk rfl ?_)

/-! ### Fences -/

theorem writeLog_only (ev : Ev) (s : State) : Only [.nv] s (writeLog ev s) := by
  unfold writeLog
  dsimp -failIfUnchanged only
  repeat' (first
    | with_reducible exact Only.refl _ _
    | with_reducible refine Only.ite ?_ ?_
    | refine Only.ofMk rfl ?_)

theorem flushLog_only (s : State) : Only [.integ, .nv] s (flushLog s) := by
  unfold flushLog
  dsimp -failIfUnchanged only
  repeat' (first
    | with_reducible exact Only.refl _ _
    | ((with_reducible refine (writeLog_only _ _).andThen ?_ ?_); exact rfl)
    | ((with_reducible refine Only.foldlFrom ?_ ?_); intro _ _)
    | refine Only.ofMk rfl ?_)

theorem setInject_only (n v : Nat) (s : State) : Only [.front] s (setInject n v s) := by
  unfold setInject
  dsimp -failIfUnchanged only
  repeat' (first
    | with_reducible exact Only.refl _ _
    | ((with_reducible refine (State.setCourse_only _ _ _).andThen ?_ ?_); exact rfl)
    | refine Only.ofMk rfl ?_)

theorem abandonStep_only (n lane : Nat) (s : State) : Only [.link, .cal, .integ, .mb, .sec] s (abandonStep n lane s) := by
  unfold abandonStep
  dsimp -failIfUnchanged only
  repeat' (first
    | with_reducible exact Only.refl _ _
    | ((with_reducible refine (completeAll_only _ _ _ _).andThen ?_ ?_); exact rfl)
    | ((with_reducible refine (raise_only _ _ _ _).andThen ?_ ?_); exact rfl)
    | with_reducible refine Only.ite ?_ ?_
    | refine Only.ofMk rfl ?_)

theorem endLevelStep_only (n : Nat) (s : State) : Only [.front, .taps, .lanes, .link, .cal, .integ, .mb, .sec] s (endLevelStep n s) := by
  unfold endLevelStep
  dsimp -failIfUnchanged only
  repeat' (first
    | with_reducible exact Only.refl _ _
    | ((with_reducible refine (State.setDemod_only _ _ _).andThen ?_ ?_); exact rfl)
    | ((with_reducible refine (State.setSpare_only _ _ _).andThen ?_ ?_); exact rfl)
    | ((with_reducible refine (abandonStep_only _ _ _).andThen ?_ ?_); exact rfl)
    | ((with_reducible refine (setInject_only _ _ _).andThen ?_ ?_); exact rfl)
    | with_reducible refine Only.ite ?_ ?_
    | split
    | refine Only.ofMk rfl ?_)

theorem abortLevelStep_only (n : Nat) (s : State) : Only [.front, .taps, .lanes, .link, .cal, .integ, .mb, .sec] s (abortLevelStep n s) := by
  unfold abortLevelStep
  dsimp -failIfUnchanged only
  repeat' (first
    | with_reducible exact Only.refl _ _
    | ((with_reducible refine (completeAll_only _ _ _ _).andThen ?_ ?_); exact rfl)
    | ((with_reducible refine (endLevelStep_only _ _).andThen ?_ ?_); exact rfl)
    | with_reducible refine Only.ite ?_ ?_
    | refine Only.ofMk rfl ?_)

theorem endStepsOfDie_only (d : Nat) (s : State) : Only [.front, .taps, .lanes, .link, .cal, .integ, .mb, .sec] s (endStepsOfDie d s) := by
  unfold endStepsOfDie
  dsimp -failIfUnchanged only
  repeat' (first
    | with_reducible exact Only.refl _ _
    | ((with_reducible refine (endLevelStep_only _ _).andThen ?_ ?_); exact rfl)
    | ((with_reducible refine Only.foldlFrom ?_ ?_); intro _ _)
    | with_reducible refine Only.ite ?_ ?_
    | split
    | refine Only.ofMk rfl ?_)

theorem endDieWork_only (d : Nat) (s : State) : Only [.taps, .lanes, .integ] s (endDieWork d s) := by
  unfold endDieWork
  dsimp -failIfUnchanged only
  repeat' (first
    | with_reducible exact Only.refl _ _
    | ((with_reducible refine (State.setDieInteg_only _ _ _).andThen ?_ ?_); exact rfl)
    | ((with_reducible refine (State.setSpare_only _ _ _).andThen ?_ ?_); exact rfl)
    | ((with_reducible refine (taskNormal_only _ _).andThen ?_ ?_); exact rfl)
    | ((with_reducible refine Only.foldlFrom ?_ ?_); intro _ _)
    | refine Only.ofMk rfl ?_)

theorem abortWaits_only (p : Wait → Bool) (s : State) : Only [.link, .mb] s (abortWaits p s) := by
  unfold abortWaits
  dsimp -failIfUnchanged only
  repeat' (first
    | with_reducible exact Only.refl _ _
    | ((with_reducible refine (complete_only _ _ _ _ _ _).andThen ?_ ?_); exact rfl)
    | ((with_reducible refine Only.foldlFrom ?_ ?_); intro _ _)
    | with_reducible refine Only.ite ?_ ?_
    | split
    | refine Only.ofMk rfl ?_)

theorem fenceDie_only (d : Nat) (cause : FenceCause) (ringOk : Bool) (s : State) : Only [.spans, .front, .taps, .lanes, .ports, .link, .cfg, .cal, .integ, .mode, .domains, .mb, .sec, .modeCode] s (fenceDie d cause ringOk s) := by
  unfold fenceDie
  refine Only.ite (Only.refl _ _) ?_
  extract_lets s1 s2 srcA s3 srcB s4 s5 caps convs srcC srcD s6 s7 s8 s9
  have h2 : Only [.spans, .front, .taps, .lanes, .link, .cal, .integ, .mb, .mode, .sec] s s2 :=
    (endDieWork_only _ _).andThen rfl ((endStepsOfDie_only _ _).andThen rfl ((abortWaits_only _ _).mono rfl))
  clear_value s2
  have h3 : Only [.integ] s2 s3 := Only.ofMk rfl (Only.refl _ _)
  clear_value s3
  have h4 : Only [.cfg] s3 s4 := Only.ofMk rfl (Only.refl _ _)
  clear_value s4
  have h5 : Only [.domains] s4 s5 := Only.ofMk rfl (Only.refl _ _)
  clear_value s5
  have h6 : Only [.front, .link] s5 s6 := Only.ofMk rfl (Only.refl _ _)
  clear_value s6
  refine (refresh_only _).andThen rfl ?_
  refine (failConverter_only _ _ _ _).andThen rfl ?_
  refine (failConverter_only _ _ _ _).andThen rfl ?_
  refine (endHop_only _ _ _).andThen rfl ?_
  refine (fencePorts_only _ _).andThen rfl ?_
  refine (raise_only _ _ _ _).andThen rfl ?_
  exact h6.andThen rfl (h5.andThen rfl (h4.andThen rfl (h3.andThen rfl (h2.mono rfl))))

theorem abortCommands_only (s : State) : Only [.link, .mb] s (abortCommands s) := by
  unfold abortCommands
  dsimp -failIfUnchanged only
  repeat' (first
    | with_reducible exact Only.refl _ _
    | ((with_reducible refine (State.setRing_only _ _ _).andThen ?_ ?_); exact rfl)
    | ((with_reducible refine (complete_only _ _ _ _ _ _).andThen ?_ ?_); exact rfl)
    | ((with_reducible refine Only.foldlFrom ?_ ?_); intro _ _)
    | with_reducible refine Only.ite ?_ ?_
    | split
    | refine Only.ofMk rfl ?_)

theorem abandonUpdate_only (cause : Nat) (s : State) : Only [.link, .integ, .sec, .nv] s (abandonUpdate cause s) := by
  unfold abandonUpdate
  dsimp -failIfUnchanged only
  repeat' (first
    | with_reducible exact Only.refl _ _
    | ((with_reducible refine (raise_only _ _ _ _).andThen ?_ ?_); exact rfl)
    | split
    | refine Only.ofMk rfl ?_)

theorem haltDomains_only (s : State) : Only [.domains] s (haltDomains s) := by
  unfold haltDomains
  dsimp -failIfUnchanged only
  repeat' (first
    | with_reducible exact Only.refl _ _
    | ((with_reducible refine Only.foldlFrom ?_ ?_); intro _ _)
    | with_reducible refine Only.ite ?_ ?_
    | refine Only.ofMk rfl ?_)

theorem endForHalted_only (cause : Nat) (s : State) : Only [.link, .cfg, .integ, .mode, .domains, .mb, .sec, .nv] s (endForHalted cause s) := by
  unfold endForHalted
  extract_lets s1 s2 srcA srcB s3 s4
  have h2 : Only [.link, .cfg, .integ, .mode, .domains, .mb, .sec, .nv] s s2 := (abortCommands_only _).andThen rfl ((abandonUpdate_only _ _).andThen rfl ((flushLog_only _).mono rfl))
  clear_value s2
  have h3 : Only [.link, .cfg, .integ, .mode, .domains, .mb, .sec, .nv] s s3 := Only.ofMk rfl h2
  clear_value s3
  have h4 : Only [.link, .cfg, .integ, .mode, .domains, .mb, .sec, .nv] s s4 := (haltDomains_only _).andThen rfl h3
  clear_value s4
  exact Only.ofMk rfl h4

theorem enterHalted_only (cause : Nat) (s : State) : Only [.spans, .front, .taps, .lanes, .ofdm, .audio, .ports, .link, .cfg, .integ, .mode, .domains, .mb, .sec, .nv, .modeCode] s (enterHalted cause s) := by
  unfold enterHalted
  dsimp -failIfUnchanged only
  repeat' (first
    | with_reducible exact Only.refl _ _
    | ((with_reducible refine (endForHalted_only _ _).andThen ?_ ?_); exact rfl)
    | ((with_reducible refine (refresh_only _).andThen ?_ ?_); exact rfl)
    | ((with_reducible refine (send_only _ _).andThen ?_ ?_); exact rfl)
    | ((with_reducible refine (setAlert_only _ _ _).andThen ?_ ?_); exact rfl)
    | ((with_reducible refine (setMode_only _ _ _).andThen ?_ ?_); exact rfl)
    | ((with_reducible refine (stopUnits_only _).andThen ?_ ?_); exact rfl)
    | ((with_reducible refine Only.foldlFrom ?_ ?_); intro _ _)
    | with_reducible refine Only.ite ?_ ?_
    | refine Only.ofMk rfl ?_)

theorem countUnlock_only (d : Nat) (l : DieLoop) (s : State) : Only [.clk, .link, .integ, .sec] s (countUnlock d l s) := by
  unfold countUnlock
  dsimp -failIfUnchanged only
  repeat' (first
    | with_reducible exact Only.refl _ _
    | ((with_reducible refine (State.setClk_only _ _ _).andThen ?_ ?_); exact rfl)
    | ((with_reducible refine (occur_only _ _ _).andThen ?_ ?_); exact rfl)
    | ((with_reducible refine (raise_only _ _ _ _).andThen ?_ ?_); exact rfl)
    | with_reducible refine Only.ite ?_ ?_
    | refine Only.ofMk rfl ?_)

/-! ### Levels -/

theorem setLevelCoef_only (n : Nat) (f : LevelCoef → LevelCoef) (s : State) : Only [.cal] s (setLevelCoef n f s) := by
  unfold setLevelCoef
  dsimp -failIfUnchanged only
  repeat' (first
    | with_reducible exact Only.refl _ _
    | ((with_reducible refine (calChanged_only _).andThen ?_ ?_); exact rfl)
    | refine Only.ofMk rfl ?_)

theorem setDrift_only (n : Nat) (dA dB : Int) (s : State) : Only [.cal] s (setDrift n dA dB s) := by
  unfold setDrift
  dsimp -failIfUnchanged only
  repeat' (first
    | with_reducible exact Only.refl _ _
    | ((with_reducible refine (setLevelCoef_only _ _ _).andThen ?_ ?_); exact rfl)
    | refine Only.ofMk rfl ?_)

theorem setGainSteps_only (n : Nat) (c : GainStepCoef) (s : State) : Only [.link, .cal] s (setGainSteps n c s) := by
  unfold setGainSteps
  dsimp -failIfUnchanged only
  repeat' (first
    | with_reducible exact Only.refl _ _
    | ((with_reducible refine (calChanged_only _).andThen ?_ ?_); exact rfl)
    | refine Only.ofMk rfl ?_)

theorem endStepsOfCluster_only (c : Nat) (s : State) : Only [.front, .taps, .lanes, .link, .cal, .integ, .mb, .sec] s (endStepsOfCluster c s) := by
  unfold endStepsOfCluster
  dsimp -failIfUnchanged only
  repeat' (first
    | with_reducible exact Only.refl _ _
    | ((with_reducible refine (endLevelStep_only _ _).andThen ?_ ?_); exact rfl)
    | ((with_reducible refine Only.foldlFrom ?_ ?_); intro _ _)
    | with_reducible refine Only.ite ?_ ?_
    | split
    | refine Only.ofMk rfl ?_)

theorem replaceLane_only (l : Nat) (s : State) : Only [.spans, .front, .taps, .lanes, .link, .cal, .integ, .mode, .mb, .sec, .nv, .modeCode] s (replaceLane l s) := by
  unfold replaceLane
  dsimp -failIfUnchanged only
  repeat' (first
    | with_reducible exact Only.refl _ _
    | ((with_reducible refine (State.setSpare_only _ _ _).andThen ?_ ?_); exact rfl)
    | ((with_reducible refine (endStepsOfCluster_only _ _).andThen ?_ ?_); exact rfl)
    | ((with_reducible refine (raise_only _ _ _ _).andThen ?_ ?_); exact rfl)
    | ((with_reducible refine (refresh_only _).andThen ?_ ?_); exact rfl)
    | ((with_reducible refine (retireUnit_only _ _).andThen ?_ ?_); exact rfl)
    | refine Only.ofMk rfl ?_)

theorem retireSpare_only (c : Nat) (s : State) : Only [.spans, .front, .taps, .lanes, .link, .cal, .integ, .mode, .mb, .sec, .nv, .modeCode] s (retireSpare c s) := by
  unfold retireSpare
  dsimp -failIfUnchanged only
  repeat' (first
    | with_reducible exact Only.refl _ _
    | ((with_reducible refine (State.setSpare_only _ _ _).andThen ?_ ?_); exact rfl)
    | ((with_reducible refine (endStepsOfCluster_only _ _).andThen ?_ ?_); exact rfl)
    | ((with_reducible refine (raise_only _ _ _ _).andThen ?_ ?_); exact rfl)
    | ((with_reducible refine (refresh_only _).andThen ?_ ?_); exact rfl)
    | ((with_reducible refine (retireUnit_only _ _).andThen ?_ ?_); exact rfl)
    | ((with_reducible refine Only.foldlFrom ?_ ?_); intro _ _)
    | refine Only.ofMk rfl ?_)

theorem restoreLane_only (l : Nat) (s : State) : Only [.spans, .lanes, .link, .integ, .mode, .sec, .nv, .retirement, .modeCode] s (restoreLane l s) := by
  unfold restoreLane
  dsimp -failIfUnchanged only
  repeat' (first
    | with_reducible exact Only.refl _ _
    | ((with_reducible refine (State.setSpare_only _ _ _).andThen ?_ ?_); exact rfl)
    | ((with_reducible refine (raise_only _ _ _ _).andThen ?_ ?_); exact rfl)
    | ((with_reducible refine (refresh_only _).andThen ?_ ?_); exact rfl)
    | ((with_reducible refine (unretireUnit_only _ _).andThen ?_ ?_); exact rfl)
    | refine Only.ofMk rfl ?_)

/-! ### FollowOps -/

theorem verifyEvent_only (f freq id : Nat) (ok : Bool) (s : State) : Only [.link, .integ, .sec] s (verifyEvent f freq id ok s) := by
  unfold verifyEvent
  dsimp -failIfUnchanged only
  repeat' (first
    | with_reducible exact Only.refl _ _
    | ((with_reducible refine (raise_only _ _ _ _).andThen ?_ ?_); exact rfl)
    | with_reducible refine Only.ite ?_ ?_
    | refine Only.ofMk rfl ?_)

theorem followHears_only (f freq typ : Nat) (i : Ident) (eid : Option Nat) (own : Option Nat) (lapses : Bool) (s : State) : Only [.audio, .link, .integ, .sec] s (followHears f freq typ i eid own lapses s) := by
  unfold followHears
  dsimp -failIfUnchanged only
  repeat' (first
    | with_reducible exact Only.refl _ _
    | ((with_reducible refine (State.setFollow_only _ _ _).andThen ?_ ?_); exact rfl)
    | ((with_reducible refine (verifyEvent_only _ _ _ _ _).andThen ?_ ?_); exact rfl)
    | with_reducible refine Only.ite ?_ ?_
    | split
    | refine Only.ofMk rfl ?_)

theorem followsHear_only (lane tap : Option Nat) (reference : Bool) (freq typ : Nat) (i : Ident) (eid : Option Nat) (lapses : Bool) (s : State) : Only [.audio, .link, .integ, .sec] s (followsHear lane tap reference freq typ i eid lapses s) := by
  unfold followsHear
  dsimp -failIfUnchanged only
  repeat' (first
    | with_reducible exact Only.refl _ _
    | ((with_reducible refine (followHears_only _ _ _ _ _ _ _ _).andThen ?_ ?_); exact rfl)
    | ((with_reducible refine Only.foldlFrom ?_ ?_); intro _ _)
    | with_reducible refine Only.ite ?_ ?_
    | split
    | refine Only.ofMk rfl ?_)

theorem followTapMeasured_only (w t0 : Nat) (rfMean mp : Int) (s : State) : Only [.audio] s (followTapMeasured w t0 rfMean mp s) := by
  unfold followTapMeasured
  dsimp -failIfUnchanged only
  repeat' (first
    | with_reducible exact Only.refl _ _
    | ((with_reducible refine (State.setFollow_only _ _ _).andThen ?_ ?_); exact rfl)
    | ((with_reducible refine Only.foldlFrom ?_ ?_); intro _ _)
    | with_reducible refine Only.ite ?_ ?_
    | split
    | refine Only.ofMk rfl ?_)

end Sys2Proof.Machine
end

