-- ==== Sys2Proof/Laws/Frames2.lean ====
section
/-!
SUPPORT. Frames of lanes, engines, audio, hallmarks, follow sets: which parts of the state each operation and each command leaves alone. `x_only` speaks of an operation, `x_frames` of a command: it answers a next state, and only the parts named differ.
-/
/- One proof at a time: the default arguments of `Only.ofMk` are tactics, and a proof that runs them beside others waits for those, a thread each. -/
set_option Elab.async false

namespace Sys2Proof.Machine

/-! ### Rds -/

theorem State.setRds_only (s : State) (r : Rx) (f : RdsSt → RdsSt) : Only [.lanes] s (State.setRds s r f) := by
  unfold State.setRds
  dsimp -failIfUnchanged only
  repeat' (first
    | with_reducible exact Only.refl _ _
    | ((with_reducible refine (State.setDemod_only _ _ _).andThen ?_ ?_); exact rfl)
    | ((with_reducible refine (State.setWatch_only _ _ _).andThen ?_ ?_); exact rfl)
    | split
    | refine Only.ofMk rfl ?_)

theorem takeAfB_only (r : Rx) (acceptMax : Nat) (g : List RdsPos) (s : State) : Only [.lanes] s (takeAfB r acceptMax g s) := by
  unfold takeAfB
  dsimp -failIfUnchanged only
  repeat' (first
    | with_reducible exact Only.refl _ _
    | ((with_reducible refine (State.setRds_only _ _ _).andThen ?_ ?_); exact rfl)
    | with_reducible refine Only.ite ?_ ?_
    | split
    | refine Only.ofMk rfl ?_)

theorem hearPi_only (r : Rx) (acceptMax : Nat) (g : List RdsPos) (old : RdsFields) (s : State) : Only [.lanes, .audio, .link, .integ, .sec] s (hearPi r acceptMax g old s) := by
  unfold hearPi
  dsimp -failIfUnchanged only
  repeat' (first
    | with_reducible exact Only.refl _ _
    | ((with_reducible refine (State.setRds_only _ _ _).andThen ?_ ?_); exact rfl)
    | ((with_reducible refine (followsHear_only _ _ _ _ _ _ _ _ _).andThen ?_ ?_); exact rfl)
    | with_reducible refine Only.ite ?_ ?_
    | split
    | refine Only.ofMk rfl ?_)

theorem fieldEvents_only (r : Rx) (old new : RdsFields) (s : State) : Only [.link, .integ, .mode, .domains, .sec] s (fieldEvents r old new s) := by
  unfold fieldEvents
  dsimp -failIfUnchanged only
  repeat' (first
    | with_reducible exact Only.refl _ _
    | ((with_reducible refine (raise_only _ _ _ _).andThen ?_ ?_); exact rfl)
    | ((with_reducible refine (setAlert_only _ _ _).andThen ?_ ?_); exact rfl)
    | with_reducible refine Only.ite ?_ ?_
    | split
    | refine Only.ofMk rfl ?_)

theorem takeFields_only (r : Rx) (g : List RdsPos) (s : State) : Only [.lanes, .audio, .link, .integ, .mode, .domains, .sec] s (takeFields r g s) := by
  unfold takeFields
  dsimp -failIfUnchanged only
  repeat' (first
    | with_reducible exact Only.refl _ _
    | ((with_reducible refine (State.setRds_only _ _ _).andThen ?_ ?_); exact rfl)
    | ((with_reducible refine (fieldEvents_only _ _ _ _).andThen ?_ ?_); exact rfl)
    | ((with_reducible refine (hearPi_only _ _ _ _ _).andThen ?_ ?_); exact rfl)
    | ((with_reducible refine (takeAfB_only _ _ _ _).andThen ?_ ?_); exact rfl)
    | with_reducible refine Only.ite ?_ ?_
    | refine Only.ofMk rfl ?_)

theorem countPosition_only (r : Rx) (stream flag : Nat) (s : State) : Only [.lanes] s (countPosition r stream flag s) := by
  unfold countPosition
  dsimp -failIfUnchanged only
  repeat' (first
    | with_reducible exact Only.refl _ _
    | ((with_reducible refine (State.setDemod_only _ _ _).andThen ?_ ?_); exact rfl)
    | with_reducible refine Only.ite ?_ ?_
    | split
    | refine Only.ofMk rfl ?_)

theorem syncedPosition_only (r : Rx) (i : Nat) (p : RdsPos) (slip : Bool) (k firstBit : Nat) (s : State) : Only [.lanes, .audio, .link, .integ, .mode, .domains, .sec] s (syncedPosition r i p slip k firstBit s) := by
  unfold syncedPosition
  dsimp -failIfUnchanged only
  repeat' (first
    | with_reducible exact Only.refl _ _
    | ((with_reducible refine (State.setRds_only _ _ _).andThen ?_ ?_); exact rfl)
    | ((with_reducible refine (countPosition_only _ _ _ _).andThen ?_ ?_); exact rfl)
    | ((with_reducible refine (raise_only _ _ _ _).andThen ?_ ?_); exact rfl)
    | ((with_reducible refine (takeFields_only _ _ _).andThen ?_ ?_); exact rfl)
    | with_reducible refine Only.ite ?_ ?_
    | refine Only.ofMk rfl ?_)

theorem unsyncedPosition_only (r : Rx) (i : Nat) (p : RdsPos) (k firstBit : Nat) (s : State) : Only [.lanes, .audio, .link, .integ, .mode, .domains, .sec] s (unsyncedPosition r i p k firstBit s) := by
  unfold unsyncedPosition
  dsimp -failIfUnchanged only
  repeat' (first
    | with_reducible exact Only.refl _ _
    | ((with_reducible refine (State.setRds_only _ _ _).andThen ?_ ?_); exact rfl)
    | ((with_reducible refine (raise_only _ _ _ _).andThen ?_ ?_); exact rfl)
    | ((with_reducible refine (syncedPosition_only _ _ _ _ _ _ _).andThen ?_ ?_); exact rfl)
    | with_reducible refine Only.ite ?_ ?_
    | split
    | refine Only.ofMk rfl ?_)

theorem execRdsBlock_frames (r : Rx) (stream : Nat) (air : Air) (k : Nat) (s : State) : Frames [.lanes, .audio, .link, .integ, .mode, .domains, .sec] s (execRdsBlock r stream air k s) := by
  unfold execRdsBlock
  dsimp -failIfUnchanged only
  repeat' (first
    | with_reducible exact Only.refl _ _
    | ((with_reducible refine Frames.onlyIf ?_); intro hg)
    | with_reducible refine Frames.next ?_
    | ((with_reducible refine (syncedPosition_only _ _ _ _ _ _ _).andThen ?_ ?_); exact rfl)
    | ((with_reducible refine (unsyncedPosition_only _ _ _ _ _ _).andThen ?_ ?_); exact rfl)
    | with_reducible refine Only.ite ?_ ?_
    | split
    | refine Only.ofMk rfl ?_)

theorem execAmssBlock_frames (l : Nat) (air : Air) (k : Nat) (s : State) : Frames [.lanes, .audio, .link, .integ, .sec] s (execAmssBlock l air k s) := by
  unfold execAmssBlock
  dsimp -failIfUnchanged only
  repeat' (first
    | with_reducible exact Only.refl _ _
    | ((with_reducible refine Frames.onlyIf ?_); intro hg)
    | with_reducible refine Frames.next ?_
    | ((with_reducible refine (State.setDemod_only _ _ _).andThen ?_ ?_); exact rfl)
    | ((with_reducible refine (followsHear_only _ _ _ _ _ _ _ _ _).andThen ?_ ?_); exact rfl)
    | ((with_reducible refine (note_only _ _).andThen ?_ ?_); exact rfl)
    | ((with_reducible refine Only.foldlFrom ?_ ?_); intro _ _)
    | with_reducible refine Only.ite ?_ ?_
    | split
    | refine Only.ofMk rfl ?_)

theorem sideNote_only (r : Rx) (t0 : Nat) (bytes : List Byte) (s : State) : Only [.sec] s (sideNote r t0 bytes s) := by
  unfold sideNote
  dsimp -failIfUnchanged only
  repeat' (first
    | with_reducible exact Only.refl _ _
    | ((with_reducible refine (note_only _ _).andThen ?_ ?_); exact rfl)
    | split
    | refine Only.ofMk rfl ?_)

theorem execSideDataSpanEnd_frames (r : Rx) (air : Air) (s : State) : Frames [.lanes, .link, .sec] s (execSideDataSpanEnd r air s) := by
  unfold execSideDataSpanEnd
  dsimp -failIfUnchanged only
  repeat' (first
    | with_reducible exact Only.refl _ _
    | ((with_reducible refine Frames.onlyIf ?_); intro hg)
    | with_reducible refine Frames.next ?_
    | ((with_reducible refine (State.setRds_only _ _ _).andThen ?_ ?_); exact rfl)
    | ((with_reducible refine (formRecordBlocks_only _ _ _ _ _ _).andThen ?_ ?_); exact rfl)
    | ((with_reducible refine (sideNote_only _ _ _ _).andThen ?_ ?_); exact rfl)
    | with_reducible refine Only.ite ?_ ?_
    | split
    | refine Only.ofMk rfl ?_)

/-! ### Lanes -/

theorem endRestore_only (l : Nat) (clean : Bool) (s : State) : Only [.spans, .lanes, .link, .integ, .mode, .mb, .sec, .nv, .retirement, .modeCode] s (endRestore l clean s) := by
  unfold endRestore
  dsimp -failIfUnchanged only
  repeat' (first
    | with_reducible exact Only.refl _ _
    | ((with_reducible refine (State.setSpare_only _ _ _).andThen ?_ ?_); exact rfl)
    | ((with_reducible refine (completeWait_only _ _ _ _).andThen ?_ ?_); exact rfl)
    | ((with_reducible refine (raise_only _ _ _ _).andThen ?_ ?_); exact rfl)
    | ((with_reducible refine (restoreLane_only _ _).andThen ?_ ?_); exact rfl)
    | with_reducible refine Only.ite ?_ ?_
    | split
    | refine Only.ofMk rfl ?_)

theorem endAssay_only (c : Nat) (s : State) : Only [.spans, .lanes, .link, .integ, .mode, .mb, .sec, .nv, .retirement, .modeCode] s (endAssay c s) := by
  unfold endAssay
  dsimp -failIfUnchanged only
  repeat' (first
    | with_reducible exact Only.refl _ _
    | ((with_reducible refine (State.setDemod_only _ _ _).andThen ?_ ?_); exact rfl)
    | ((with_reducible refine (State.setSpare_only _ _ _).andThen ?_ ?_); exact rfl)
    | ((with_reducible refine (endRestore_only _ _ _).andThen ?_ ?_); exact rfl)
    | with_reducible refine Only.ite ?_ ?_
    | split
    | refine Only.ofMk rfl ?_)

theorem loadSpare_only (c p : Nat) (s : State) : Only [.taps, .lanes] s (loadSpare c p s) := by
  unfold loadSpare
  dsimp -failIfUnchanged only
  repeat' (first
    | with_reducible exact Only.refl _ _
    | ((with_reducible refine (State.setSpare_only _ _ _).andThen ?_ ?_); exact rfl)
    | refine Only.ofMk rfl ?_)

theorem execAssayStep_frames (c : Nat) (s : State) : Frames [.spans, .taps, .lanes, .link, .integ, .mode, .mb, .sec, .nv, .retirement, .modeCode] s (execAssayStep c s) := by
  unfold execAssayStep
  dsimp -failIfUnchanged only
  repeat' (first
    | with_reducible exact Only.refl _ _
    | ((with_reducible refine Frames.onlyIf ?_); intro hg)
    | with_reducible refine Frames.next ?_
    | ((with_reducible refine (State.setSpare_only _ _ _).andThen ?_ ?_); exact rfl)
    | ((with_reducible refine (endAssay_only _ _).andThen ?_ ?_); exact rfl)
    | ((with_reducible refine (loadSpare_only _ _ _).andThen ?_ ?_); exact rfl)
    | with_reducible refine Only.ite ?_ ?_
    | split
    | refine Only.ofMk rfl ?_)

theorem execAssayStateCopy_frames (c : Nat) (s : State) : Frames [.lanes] s (execAssayStateCopy c s) := by
  unfold execAssayStateCopy
  dsimp -failIfUnchanged only
  repeat' (first
    | with_reducible exact Only.refl _ _
    | ((with_reducible refine Frames.onlyIf ?_); intro hg)
    | with_reducible refine Frames.next ?_
    | ((with_reducible refine (State.setSpare_only _ _ _).andThen ?_ ?_); exact rfl)
    | split
    | refine Only.ofMk rfl ?_)

theorem execFirstDifferingValue_frames (c output : Nat) (s : State) : Frames [.lanes] s (execFirstDifferingValue c output s) := by
  unfold execFirstDifferingValue
  dsimp -failIfUnchanged only
  repeat' (first
    | with_reducible exact Only.refl _ _
    | ((with_reducible refine Frames.onlyIf ?_); intro hg)
    | with_reducible refine Frames.next ?_
    | ((with_reducible refine (State.setSpare_only _ _ _).andThen ?_ ?_); exact rfl)
    | split
    | refine Only.ofMk rfl ?_)

theorem chargeSpare_only (c at_ : Nat) (s : State) : Only [.spans, .front, .taps, .lanes, .link, .cal, .integ, .mode, .mb, .sec, .nv, .modeCode] s (chargeSpare c at_ s) := by
  unfold chargeSpare
  dsimp -failIfUnchanged only
  repeat' (first
    | with_reducible exact Only.refl _ _
    | ((with_reducible refine (State.setSpare_only _ _ _).andThen ?_ ?_); exact rfl)
    | ((with_reducible refine (occur_only _ _ _).andThen ?_ ?_); exact rfl)
    | ((with_reducible refine (raise_only _ _ _ _).andThen ?_ ?_); exact rfl)
    | ((with_reducible refine (retireSpare_only _ _).andThen ?_ ?_); exact rfl)
    | with_reducible refine Only.ite ?_ ?_
    | refine Only.ofMk rfl ?_)

theorem moveCharges_only (c since : Nat) (s : State) : Only [.spans, .front, .taps, .lanes, .link, .cal, .integ, .mode, .mb, .sec, .nv, .modeCode] s (moveCharges c since s) := by
  unfold moveCharges
  dsimp -failIfUnchanged only
  repeat' (first
    | with_reducible exact Only.refl _ _
    | ((with_reducible refine (State.setSpare_only _ _ _).andThen ?_ ?_); exact rfl)
    | ((with_reducible refine (declareLasting_only _ _ _ _).andThen ?_ ?_); exact rfl)
    | ((with_reducible refine (retireSpare_only _ _).andThen ?_ ?_); exact rfl)
    | with_reducible refine Only.ite ?_ ?_
    | split
    | refine Only.ofMk rfl ?_)

theorem chargeLane_only (l at_ output : Nat) (s : State) : Only [.spans, .front, .taps, .lanes, .link, .cal, .integ, .mode, .mb, .sec, .nv, .modeCode] s (chargeLane l at_ output s) := by
  unfold chargeLane
  dsimp -failIfUnchanged only
  repeat' (first
    | with_reducible exact Only.refl _ _
    | ((with_reducible refine (State.setDemod_only _ _ _).andThen ?_ ?_); exact rfl)
    | ((with_reducible refine (State.setSpare_only _ _ _).andThen ?_ ?_); exact rfl)
    | ((with_reducible refine (addOcc_only _ _ _).andThen ?_ ?_); exact rfl)
    | ((with_reducible refine (moveCharges_only _ _ _).andThen ?_ ?_); exact rfl)
    | ((with_reducible refine (occur_only _ _ _).andThen ?_ ?_); exact rfl)
    | ((with_reducible refine (raise_only _ _ _ _).andThen ?_ ?_); exact rfl)
    | ((with_reducible refine (replaceLane_only _ _).andThen ?_ ?_); exact rfl)
    | with_reducible refine Only.ite ?_ ?_
    | split
    | refine Only.ofMk rfl ?_)

theorem execAssayKatEnd_frames (c : Nat) (fails : Bool) (s : State) : Frames [.spans, .front, .taps, .lanes, .link, .cal, .integ, .mode, .mb, .sec, .nv, .retirement, .modeCode] s (execAssayKatEnd c fails s) := by
  unfold execAssayKatEnd
  dsimp -failIfUnchanged only
  repeat' (first
    | with_reducible exact Only.refl _ _
    | ((with_reducible refine Frames.onlyIf ?_); intro hg)
    | with_reducible refine Frames.next ?_
    | ((with_reducible refine (State.setSpare_only _ _ _).andThen ?_ ?_); exact rfl)
    | ((with_reducible refine (chargeLane_only _ _ _ _).andThen ?_ ?_); exact rfl)
    | ((with_reducible refine (chargeSpare_only _ _ _).andThen ?_ ?_); exact rfl)
    | ((with_reducible refine (endRestore_only _ _ _).andThen ?_ ?_); exact rfl)
    | with_reducible refine Only.ite ?_ ?_
    | split
    | refine Only.ofMk rfl ?_)

theorem execCoverStart_frames (c pos : Nat) (s : State) : Frames [.spans, .taps, .lanes, .link, .integ, .mode, .mb, .sec, .nv, .retirement, .modeCode] s (execCoverStart c pos s) := by
  unfold execCoverStart
  dsimp -failIfUnchanged only
  repeat' (first
    | with_reducible exact Only.refl _ _
    | ((with_reducible refine Frames.onlyIf ?_); intro hg)
    | with_reducible refine Frames.next ?_
    | ((with_reducible refine (State.setSpare_only _ _ _).andThen ?_ ?_); exact rfl)
    | ((with_reducible refine (endAssay_only _ _).andThen ?_ ?_); exact rfl)
    | ((with_reducible refine (loadSpare_only _ _ _).andThen ?_ ?_); exact rfl)
    | split
    | refine Only.ofMk rfl ?_)

theorem execCoverEnd_frames (c : Nat) (s : State) : Frames [.front, .taps, .lanes, .link, .cal, .integ, .mb, .sec] s (execCoverEnd c s) := by
  unfold execCoverEnd
  dsimp -failIfUnchanged only
  repeat' (first
    | with_reducible exact Only.refl _ _
    | ((with_reducible refine Frames.onlyIf ?_); intro hg)
    | with_reducible refine Frames.next ?_
    | ((with_reducible refine (State.setDemod_only _ _ _).andThen ?_ ?_); exact rfl)
    | ((with_reducible refine (State.setSpare_only _ _ _).andThen ?_ ?_); exact rfl)
    | ((with_reducible refine (endStepsOfCluster_only _ _).andThen ?_ ?_); exact rfl)
    | with_reducible refine Only.ite ?_ ?_
    | split
    | refine Only.ofMk rfl ?_)

theorem execDemodRestart_frames (r : Rx) (at_ : Nat) (s : State) : Frames [.lanes, .link, .integ, .mode, .domains, .sec] s (execDemodRestart r at_ s) := by
  unfold execDemodRestart
  dsimp -failIfUnchanged only
  repeat' (first
    | with_reducible exact Only.refl _ _
    | ((with_reducible refine Frames.onlyIf ?_); intro hg)
    | with_reducible refine Frames.next ?_
    | ((with_reducible refine (State.setDemod_only _ _ _).andThen ?_ ?_); exact rfl)
    | ((with_reducible refine (State.setWatch_only _ _ _).andThen ?_ ?_); exact rfl)
    | ((with_reducible refine (setAlert_only _ _ _).andThen ?_ ?_); exact rfl)
    | split
    | refine Only.ofMk rfl ?_)

theorem draw_only (s : State) : Only [.freeCount] s (draw s).2 := by
  unfold draw
  dsimp -failIfUnchanged only
  repeat' (first
    | with_reducible exact Only.refl _ _
    | split
    | refine Only.ofMk rfl ?_)

theorem drawWeights_only (n : Nat) (s : State) : Only [.freeCount] s (drawWeights n s).2 := by
  unfold drawWeights
  have gen : ∀ (xs : List Nat) (p : List (Int × Int) × State), Only [.freeCount] p.2
      (xs.foldl (fun (ws, s) _ => let (a, s) := draw s; let (b, s) := draw s; (ws ++ [((a : Int), (b : Int))], s)) p).2 := by
    intro xs
    induction xs with
    | nil => exact fun p => Only.refl _ _
    | cons x xs ih => exact fun p => ((draw_only _).trans (draw_only _)).trans (ih _)
  exact gen _ ([], s)

theorem execCombinerUpdate_frames (l : Nat) (air : Air) (s : State) : Frames [.lanes, .freeCount] s (execCombinerUpdate l air s) := by
  unfold execCombinerUpdate
  dsimp -failIfUnchanged only
  repeat' (first
    | with_reducible exact Only.refl _ _
    | ((with_reducible refine Frames.onlyIf ?_); intro hg)
    | with_reducible refine Frames.next ?_
    | ((with_reducible refine (State.setDemod_only _ _ _).andThen ?_ ?_); exact rfl)
    | ((with_reducible refine (drawWeights_only _ _).andThen ?_ ?_); exact rfl)
    | split
    | refine Only.ofMk rfl ?_)

theorem execPilotLockChange_frames (l : Nat) (air : Air) (s : State) : Frames [.lanes, .link, .integ, .sec] s (execPilotLockChange l air s) := by
  unfold execPilotLockChange
  dsimp -failIfUnchanged only
  repeat' (first
    | with_reducible exact Only.refl _ _
    | ((with_reducible refine Frames.onlyIf ?_); intro hg)
    | with_reducible refine Frames.next ?_
    | ((with_reducible refine (State.setDemod_only _ _ _).andThen ?_ ?_); exact rfl)
    | ((with_reducible refine (raise_only _ _ _ _).andThen ?_ ?_); exact rfl)
    | with_reducible refine Only.ite ?_ ?_
    | refine Only.ofMk rfl ?_)

theorem execStereoSwitch_frames (l : Nat) (s : State) : Frames [.lanes] s (execStereoSwitch l s) := by
  unfold execStereoSwitch
  dsimp -failIfUnchanged only
  repeat' (first
    | with_reducible exact Only.refl _ _
    | ((with_reducible refine Frames.onlyIf ?_); intro hg)
    | with_reducible refine Frames.next ?_
    | ((with_reducible refine (State.setDemod_only _ _ _).andThen ?_ ?_); exact rfl)
    | refine Only.ofMk rfl ?_)

theorem mpxPower_only (l : Nat) (v : Option Int) (s : State) : Only [.lanes, .link, .integ, .sec] s (mpxPower l v s) := by
  unfold mpxPower
  dsimp -failIfUnchanged only
  repeat' (first
    | with_reducible exact Only.refl _ _
    | ((with_reducible refine (State.setDemod_only _ _ _).andThen ?_ ?_); exact rfl)
    | ((with_reducible refine (raise_only _ _ _ _).andThen ?_ ?_); exact rfl)
    | with_reducible refine Only.ite ?_ ?_
    | split
    | refine Only.ofMk rfl ?_)

theorem execMeasurementPeriodEnd_frames (l : Nat) (air : Air) (late : Bool) (s : State) : Frames [.lanes, .link, .integ, .sec] s (execMeasurementPeriodEnd l air late s) := by
  unfold execMeasurementPeriodEnd
  dsimp -failIfUnchanged only
  repeat' (first
    | with_reducible exact Only.refl _ _
    | ((with_reducible refine Frames.onlyIf ?_); intro hg)
    | with_reducible refine Frames.next ?_
    | ((with_reducible refine (State.setDemod_only _ _ _).andThen ?_ ?_); exact rfl)
    | ((with_reducible refine (formRouted_only _ _ _ _).andThen ?_ ?_); exact rfl)
    | ((with_reducible refine (mpxPower_only _ _ _).andThen ?_ ?_); exact rfl)
    | ((with_reducible refine (note_only _ _).andThen ?_ ?_); exact rfl)
    | with_reducible refine Only.ite ?_ ?_
    | split
    | refine Only.ofMk rfl ?_)

theorem formWatchRecord_only (w t0 t1 : Nat) (air : Air) (preempted late : Bool) (s : State) : Only [.lanes, .link] s (formWatchRecord w t0 t1 air preempted late s) := by
  unfold formWatchRecord
  dsimp -failIfUnchanged only
  repeat' (first
    | with_reducible exact Only.refl _ _
    | ((with_reducible refine (State.setWatch_only _ _ _).andThen ?_ ?_); exact rfl)
    | ((with_reducible refine (formRouted_only _ _ _ _).andThen ?_ ?_); exact rfl)
    | refine Only.ofMk rfl ?_)

theorem execWatchTapPeriodEnd_frames (w : Nat) (air : Air) (late : Bool) (s : State) : Frames [.lanes, .audio, .link] s (execWatchTapPeriodEnd w air late s) := by
  unfold execWatchTapPeriodEnd
  dsimp -failIfUnchanged only
  repeat' (first
    | with_reducible exact Only.refl _ _
    | ((with_reducible refine Frames.onlyIf ?_); intro hg)
    | with_reducible refine Frames.next ?_
    | ((with_reducible refine (followTapMeasured_only _ _ _ _ _).andThen ?_ ?_); exact rfl)
    | ((with_reducible refine (formWatchRecord_only _ _ _ _ _ _ _).andThen ?_ ?_); exact rfl)
    | refine Only.ofMk rfl ?_)

theorem retuneWatch_only (w f : Nat) (s : State) : Only [.taps, .lanes] s (retuneWatch w f s) := by
  unfold retuneWatch
  dsimp -failIfUnchanged only
  repeat' (first
    | with_reducible exact Only.refl _ _
    | ((with_reducible refine (State.setWatch_only _ _ _).andThen ?_ ?_); exact rfl)
    | ((with_reducible refine (goOnWatch_only _ _).andThen ?_ ?_); exact rfl)
    | refine Only.ofMk rfl ?_)

theorem execSurveyDwellEnd_frames (w : Nat) (air : Air) (late : Bool) (s : State) : Frames [.taps, .lanes, .link] s (execSurveyDwellEnd w air late s) := by
  unfold execSurveyDwellEnd
  dsimp -failIfUnchanged only
  repeat' (first
    | with_reducible exact Only.refl _ _
    | ((with_reducible refine Frames.onlyIf ?_); intro hg)
    | with_reducible refine Frames.next ?_
    | ((with_reducible refine (State.setWatch_only _ _ _).andThen ?_ ?_); exact rfl)
    | ((with_reducible refine (formWatchRecord_only _ _ _ _ _ _ _).andThen ?_ ?_); exact rfl)
    | ((with_reducible refine (retuneWatch_only _ _ _).andThen ?_ ?_); exact rfl)
    | with_reducible refine Only.ite ?_ ?_
    | refine Only.ofMk rfl ?_)

theorem retirePlain_only (u : UnitRef) (cause : Nat) (s : State) : Only [.spans, .link, .integ, .mode, .sec, .nv, .modeCode] s (retirePlain u cause s) := by
  unfold retirePlain
  dsimp -failIfUnchanged only
  repeat' (first
    | with_reducible exact Only.refl _ _
    | ((with_reducible refine (raise_only _ _ _ _).andThen ?_ ?_); exact rfl)
    | ((with_reducible refine (refresh_only _).andThen ?_ ?_); exact rfl)
    | ((with_reducible refine (retireUnit_only _ _).andThen ?_ ?_); exact rfl)
    | refine Only.ofMk rfl ?_)

theorem execWatchTapKat_frames (w : Nat) (fails repeatFails : Bool) (s : State) : Frames [.spans, .link, .integ, .mode, .sec, .nv, .modeCode] s (execWatchTapKat w fails repeatFails s) := by
  unfold execWatchTapKat
  dsimp -failIfUnchanged only
  repeat' (first
    | with_reducible exact Only.refl _ _
    | ((with_reducible refine Frames.onlyIf ?_); intro hg)
    | with_reducible refine Frames.next ?_
    | ((with_reducible refine (retirePlain_only _ _ _).andThen ?_ ?_); exact rfl)
    | refine Only.ofMk rfl ?_)

/-! ### Engines -/

theorem engineAlert_only (e p : Nat) (on : Bool) (s : State) : Only [.link, .integ, .mode, .domains, .sec] s (engineAlert e p on s) := by
  unfold engineAlert
  dsimp -failIfUnchanged only
  repeat' (first
    | with_reducible exact Only.refl _ _
    | ((with_reducible refine (setAlert_only _ _ _).andThen ?_ ?_); exact rfl)
    | split
    | refine Only.ofMk rfl ?_)

theorem restartSignal_only (e p from_ : Nat) (s : State) : Only [.ofdm, .link, .integ, .mode, .domains, .sec] s (restartSignal e p from_ s) := by
  unfold restartSignal
  dsimp -failIfUnchanged only
  repeat' (first
    | with_reducible exact Only.refl _ _
    | ((with_reducible refine (State.setEngine_only _ _ _).andThen ?_ ?_); exact rfl)
    | ((with_reducible refine (State.setSignal_only _ _ _ _).andThen ?_ ?_); exact rfl)
    | ((with_reducible refine (engineAlert_only _ _ _ _).andThen ?_ ?_); exact rfl)
    | ((with_reducible refine (raise_only _ _ _ _).andThen ?_ ?_); exact rfl)
    | with_reducible refine Only.ite ?_ ?_
    | refine Only.ofMk rfl ?_)

theorem restartHere_only (e p : Nat) (s : State) : Only [.ofdm, .link, .integ, .mode, .domains, .sec] s (restartHere e p s) := by
  unfold restartHere
  dsimp -failIfUnchanged only
  repeat' (first
    | with_reducible exact Only.refl _ _
    | ((with_reducible refine (restartSignal_only _ _ _ _).andThen ?_ ?_); exact rfl)
    | refine Only.ofMk rfl ?_)

theorem frameSync_only (e p stop : Nat) (synced : Bool) (s : State) : Only [.ofdm, .link, .integ, .mode, .domains, .sec] s (frameSync e p stop synced s) := by
  unfold frameSync
  dsimp -failIfUnchanged only
  repeat' (first
    | with_reducible exact Only.refl _ _
    | ((with_reducible refine (State.setSignal_only _ _ _ _).andThen ?_ ?_); exact rfl)
    | ((with_reducible refine (raise_only _ _ _ _).andThen ?_ ?_); exact rfl)
    | ((with_reducible refine (restartSignal_only _ _ _ _).andThen ?_ ?_); exact rfl)
    | with_reducible refine Only.ite ?_ ?_
    | refine Only.ofMk rfl ?_)

theorem execFeedMissingTimeout_frames (e p : Nat) (s : State) : Frames [.ofdm, .link, .integ, .mode, .domains, .sec] s (execFeedMissingTimeout e p s) := by
  unfold execFeedMissingTimeout
  dsimp -failIfUnchanged only
  repeat' (first
    | with_reducible exact Only.refl _ _
    | ((with_reducible refine Frames.onlyIf ?_); intro hg)
    | with_reducible refine Frames.next ?_
    | ((with_reducible refine (restartHere_only _ _ _).andThen ?_ ?_); exact rfl)
    | split
    | refine Only.ofMk rfl ?_)

theorem alarmEvents_only (e p : Nat) (old new : List Nat) (s : State) : Only [.ofdm, .link, .integ, .mode, .domains, .sec] s (alarmEvents e p old new s) := by
  unfold alarmEvents
  dsimp -failIfUnchanged only
  repeat' (first
    | with_reducible exact Only.refl _ _
    | ((with_reducible refine (State.setSignal_only _ _ _ _).andThen ?_ ?_); exact rfl)
    | ((with_reducible refine (engineAlert_only _ _ _ _).andThen ?_ ?_); exact rfl)
    | ((with_reducible refine (raise_only _ _ _ _).andThen ?_ ?_); exact rfl)
    | ((with_reducible refine Only.foldlFrom ?_ ?_); intro _ _)
    | refine Only.ofMk rfl ?_)

theorem hearServices_only (e p : Nat) (figs : List Fig) (s : State) : Only [.ofdm, .audio, .link, .integ, .sec] s (hearServices e p figs s) := by
  unfold hearServices
  dsimp -failIfUnchanged only
  repeat' (first
    | with_reducible exact Only.refl _ _
    | ((with_reducible refine (State.setSignal_only _ _ _ _).andThen ?_ ?_); exact rfl)
    | ((with_reducible refine (followsHear_only _ _ _ _ _ _ _ _ _).andThen ?_ ?_); exact rfl)
    | ((with_reducible refine Only.foldlFrom ?_ ?_); intro _ _)
    | split
    | refine Only.ofMk rfl ?_)

theorem takeEntries_only (e p : Nat) (figs : List (Bool × Fig)) (done : SignalSt → Bool) (count : SignalSt → Nat) (s : State) : Only [.ofdm, .audio, .link, .integ, .mode, .domains, .mb, .sec] s (takeEntries e p figs done count s) := by
  unfold takeEntries
  dsimp -failIfUnchanged only
  repeat' (first
    | with_reducible exact Only.refl _ _
    | ((with_reducible refine (State.setSignal_only _ _ _ _).andThen ?_ ?_); exact rfl)
    | ((with_reducible refine (alarmEvents_only _ _ _ _ _).andThen ?_ ?_); exact rfl)
    | ((with_reducible refine (complete_only _ _ _ _ _ _).andThen ?_ ?_); exact rfl)
    | ((with_reducible refine (hearServices_only _ _ _ _).andThen ?_ ?_); exact rfl)
    | ((with_reducible refine (raise_only _ _ _ _).andThen ?_ ?_); exact rfl)
    | ((with_reducible refine Only.foldlFrom ?_ ?_); intro _ _)
    | with_reducible refine Only.ite ?_ ?_
    | refine Only.ofMk rfl ?_)

theorem addSide_only (e : Nat) (rs : List EngineRec) (s : State) : Only [.ofdm] s (addSide e rs s) := by
  unfold addSide
  dsimp -failIfUnchanged only
  repeat' (first
    | with_reducible exact Only.refl _ _
    | ((with_reducible refine (State.setEngine_only _ _ _).andThen ?_ ?_); exact rfl)
    | refine Only.ofMk rfl ?_)

theorem addUnits_only (e : Nat) (rs : List EngineRec) (s : State) : Only [.ofdm] s (addUnits e rs s) := by
  unfold addUnits
  dsimp -failIfUnchanged only
  repeat' (first
    | with_reducible exact Only.refl _ _
    | ((with_reducible refine (State.setEngine_only _ _ _).andThen ?_ ?_); exact rfl)
    | refine Only.ofMk rfl ?_)

theorem takeDabFrame_only (e l : Nat) (a : Air) (r : DabTiming) (n0 : Int) (s : State) : Only [.ofdm, .audio, .link, .integ, .mode, .domains, .mb, .sec] s (takeDabFrame e l a r n0 s) := by
  unfold takeDabFrame
  dsimp -failIfUnchanged only
  repeat' (first
    | with_reducible exact Only.refl _ _
    | ((with_reducible refine (State.setEngine_only _ _ _).andThen ?_ ?_); exact rfl)
    | ((with_reducible refine (State.setSignal_only _ _ _ _).andThen ?_ ?_); exact rfl)
    | ((with_reducible refine (addSide_only _ _ _).andThen ?_ ?_); exact rfl)
    | ((with_reducible refine (takeEntries_only _ _ _ _ _ _).andThen ?_ ?_); exact rfl)
    | ((with_reducible refine Only.foldlFrom ?_ ?_); intro _ _)
    | with_reducible refine Only.ite ?_ ?_
    | split
    | refine Only.ofMk rfl ?_)

theorem execDabFrame_frames (e : Nat) (air : Air) (s : State) : Frames [.ofdm, .audio, .link, .integ, .mode, .domains, .mb, .sec] s (execDabFrame e air s) := by
  unfold execDabFrame
  dsimp -failIfUnchanged only
  repeat' (first
    | with_reducible exact Only.refl _ _
    | ((with_reducible refine Frames.onlyIf ?_); intro hg)
    | with_reducible refine Frames.next ?_
    | ((with_reducible refine (frameSync_only _ _ _ _ _).andThen ?_ ?_); exact rfl)
    | ((with_reducible refine (takeDabFrame_only _ _ _ _ _ _).andThen ?_ ?_); exact rfl)
    | with_reducible refine Only.ite ?_ ?_
    | split
    | refine Only.ofMk rfl ?_)

theorem setSub_only (e p id : Nat) (g : SubCount → SubCount) (s : State) : Only [.ofdm] s (setSub e p id g s) := by
  unfold setSub
  dsimp -failIfUnchanged only
  repeat' (first
    | with_reducible exact Only.refl _ _
    | ((with_reducible refine (State.setSignal_only _ _ _ _).andThen ?_ ?_); exact rfl)
    | refine Only.ofMk rfl ?_)

theorem takeUnit_only (e p : Nat) (s : State) (u : AccessUnit) : Only [.ofdm, .audio] s (takeUnit e p s u) := by
  unfold takeUnit
  dsimp -failIfUnchanged only
  repeat' (first
    | with_reducible exact Only.refl _ _
    | ((with_reducible refine (State.setContext_only _ _ _).andThen ?_ ?_); exact rfl)
    | ((with_reducible refine (State.setSignal_only _ _ _ _).andThen ?_ ?_); exact rfl)
    | ((with_reducible refine (addUnits_only _ _ _).andThen ?_ ?_); exact rfl)
    | ((with_reducible refine Only.foldlFrom ?_ ?_); intro _ _)
    | with_reducible refine Only.ite ?_ ?_
    | refine Only.ofMk rfl ?_)

theorem takeGroup_only (e p : Nat) (s : State) (g : DataGroup) : Only [.ofdm] s (takeGroup e p s g) := by
  unfold takeGroup
  dsimp -failIfUnchanged only
  repeat' (first
    | with_reducible exact Only.refl _ _
    | ((with_reducible refine (State.setSignal_only _ _ _ _).andThen ?_ ?_); exact rfl)
    | ((with_reducible refine (addSide_only _ _ _).andThen ?_ ?_); exact rfl)
    | ((with_reducible refine (setSub_only _ _ _ _ _).andThen ?_ ?_); exact rfl)
    | with_reducible refine Only.ite ?_ ?_
    | refine Only.ofMk rfl ?_)

theorem takePad_only (e : Nat) (u : AccessUnit) (s : State) : Only [.ofdm] s (takePad e u s) := by
  unfold takePad
  dsimp -failIfUnchanged only
  repeat' (first
    | with_reducible exact Only.refl _ _
    | ((with_reducible refine (setSub_only _ _ _ _ _).andThen ?_ ?_); exact rfl)
    | ((with_reducible refine (takeGroup_only _ _ _ _).andThen ?_ ?_); exact rfl)
    | ((with_reducible refine Only.foldlFrom ?_ ?_); intro _ _)
    | with_reducible refine Only.ite ?_ ?_
    | refine Only.ofMk rfl ?_)

theorem takeAudio_only (e : Nat) (us : List AccessUnit) (s : State) : Only [.ofdm, .audio] s (takeAudio e us s) := by
  unfold takeAudio
  dsimp -failIfUnchanged only
  repeat' (first
    | with_reducible exact Only.refl _ _
    | ((with_reducible refine (takePad_only _ _ _).andThen ?_ ?_); exact rfl)
    | ((with_reducible refine (takeUnit_only _ _ _ _).andThen ?_ ?_); exact rfl)
    | ((with_reducible refine Only.foldlFrom ?_ ?_); intro _ _)
    | refine Only.ofMk rfl ?_)

theorem takeDabPlus_only (e id : Nat) (lf : LogicalFrame) (s : State) : Only [.ofdm, .audio] s (takeDabPlus e id lf s) := by
  unfold takeDabPlus
  dsimp -failIfUnchanged only
  repeat' (first
    | with_reducible exact Only.refl _ _
    | ((with_reducible refine (setSub_only _ _ _ _ _).andThen ?_ ?_); exact rfl)
    | ((with_reducible refine (takeAudio_only _ _ _).andThen ?_ ?_); exact rfl)
    | ((with_reducible refine Only.foldlFrom ?_ ?_); intro _ _)
    | split
    | refine Only.ofMk rfl ?_)

theorem takeWhole_only (e id codec : Nat) (lf : LogicalFrame) (s : State) : Only [.ofdm, .audio] s (takeWhole e id codec lf s) := by
  unfold takeWhole
  dsimp -failIfUnchanged only
  repeat' (first
    | with_reducible exact Only.refl _ _
    | ((with_reducible refine (takeAudio_only _ _ _).andThen ?_ ?_); exact rfl)
    | ((with_reducible refine (takeUnit_only _ _ _ _).andThen ?_ ?_); exact rfl)
    | with_reducible refine Only.ite ?_ ?_
    | refine Only.ofMk rfl ?_)

theorem takePackets_only (e id : Nat) (lf : LogicalFrame) (corrected failed : Bool) (ps : List Packet) (s : State) : Only [.ofdm] s (takePackets e id lf corrected failed ps s) := by
  unfold takePackets
  dsimp -failIfUnchanged only
  repeat' (first
    | with_reducible exact Only.refl _ _
    | ((with_reducible refine (setSub_only _ _ _ _ _).andThen ?_ ?_); exact rfl)
    | ((with_reducible refine (takeGroup_only _ _ _ _).andThen ?_ ?_); exact rfl)
    | ((with_reducible refine Only.foldlFrom ?_ ?_); intro _ _)
    | with_reducible refine Only.ite ?_ ?_
    | split
    | refine Only.ofMk rfl ?_)

theorem takeFec_only (e id : Nat) (lf : LogicalFrame) (s : State) (q : Packet × List Byte) : Only [.ofdm] s (takeFec e id lf s q) := by
  unfold takeFec
  dsimp -failIfUnchanged only
  repeat' (first
    | with_reducible exact Only.refl _ _
    | ((with_reducible refine (setSub_only _ _ _ _ _).andThen ?_ ?_); exact rfl)
    | ((with_reducible refine (takePackets_only _ _ _ _ _ _ _).andThen ?_ ?_); exact rfl)
    | with_reducible refine Only.ite ?_ ?_
    | split
    | refine Only.ofMk rfl ?_)

theorem takePacketFrame_only (e id : Nat) (lf : LogicalFrame) (s : State) : Only [.ofdm] s (takePacketFrame e id lf s) := by
  unfold takePacketFrame
  dsimp -failIfUnchanged only
  repeat' (first
    | with_reducible exact Only.refl _ _
    | ((with_reducible refine (takeFec_only _ _ _ _ _).andThen ?_ ?_); exact rfl)
    | ((with_reducible refine (takePackets_only _ _ _ _ _ _ _).andThen ?_ ?_); exact rfl)
    | ((with_reducible refine Only.foldlFrom ?_ ?_); intro _ _)
    | with_reducible refine Only.ite ?_ ?_
    | refine Only.ofMk rfl ?_)

theorem takeLogical_only (e id : Nat) (lf : LogicalFrame) (s : State) : Only [.ofdm, .audio] s (takeLogical e id lf s) := by
  unfold takeLogical
  dsimp -failIfUnchanged only
  repeat' (first
    | with_reducible exact Only.refl _ _
    | ((with_reducible refine (takeDabPlus_only _ _ _ _).andThen ?_ ?_); exact rfl)
    | ((with_reducible refine (takePacketFrame_only _ _ _ _).andThen ?_ ?_); exact rfl)
    | ((with_reducible refine (takeWhole_only _ _ _ _ _).andThen ?_ ?_); exact rfl)
    | split
    | refine Only.ofMk rfl ?_)

theorem reconfigure_only (e : Nat) (count : Nat) (s : State) : Only [.ofdm, .link, .integ, .mb, .sec] s (reconfigure e count s) := by
  unfold reconfigure
  dsimp -failIfUnchanged only
  repeat' (first
    | with_reducible exact Only.refl _ _
    | ((with_reducible refine (State.setSignal_only _ _ _ _).andThen ?_ ?_); exact rfl)
    | ((with_reducible refine (complete_only _ _ _ _ _ _).andThen ?_ ?_); exact rfl)
    | ((with_reducible refine (raise_only _ _ _ _).andThen ?_ ?_); exact rfl)
    | ((with_reducible refine Only.foldlFrom ?_ ?_); intro _ _)
    | with_reducible refine Only.ite ?_ ?_
    | split
    | refine Only.ofMk rfl ?_)

theorem execCifDecoded_frames (e : Nat) (air : Air) (s : State) : Frames [.ofdm, .audio, .link, .integ, .mb, .sec] s (execCifDecoded e air s) := by
  unfold execCifDecoded
  dsimp -failIfUnchanged only
  repeat' (first
    | with_reducible exact Only.refl _ _
    | ((with_reducible refine Frames.onlyIf ?_); intro hg)
    | with_reducible refine Frames.next ?_
    | ((with_reducible refine (State.setSignal_only _ _ _ _).andThen ?_ ?_); exact rfl)
    | ((with_reducible refine (reconfigure_only _ _ _).andThen ?_ ?_); exact rfl)
    | ((with_reducible refine (takeLogical_only _ _ _ _).andThen ?_ ?_); exact rfl)
    | ((with_reducible refine Only.foldlFrom ?_ ?_); intro _ _)
    | with_reducible refine Only.ite ?_ ?_
    | split
    | refine Only.ofMk rfl ?_)

theorem reconfigureDrm_only (e p n : Nat) (s : State) : Only [.ofdm, .link, .integ, .sec] s (reconfigureDrm e p n s) := by
  unfold reconfigureDrm
  dsimp -failIfUnchanged only
  repeat' (first
    | with_reducible exact Only.refl _ _
    | ((with_reducible refine (State.setSignal_only _ _ _ _).andThen ?_ ?_); exact rfl)
    | ((with_reducible refine (raise_only _ _ _ _).andThen ?_ ?_); exact rfl)
    | ((with_reducible refine Only.foldlFrom ?_ ?_); intro _ _)
    | refine Only.ofMk rfl ?_)

theorem takeStream_only (e p i airTime doneAt flags : Nat) (erased : Bool) (part : List Byte) (s : State) : Only [.ofdm, .audio] s (takeStream e p i airTime doneAt flags erased part s) := by
  unfold takeStream
  dsimp -failIfUnchanged only
  repeat' (first
    | with_reducible exact Only.refl _ _
    | ((with_reducible refine (setSub_only _ _ _ _ _).andThen ?_ ?_); exact rfl)
    | ((with_reducible refine (takeGroup_only _ _ _ _).andThen ?_ ?_); exact rfl)
    | ((with_reducible refine (takeUnit_only _ _ _ _).andThen ?_ ?_); exact rfl)
    | ((with_reducible refine Only.foldlFrom ?_ ?_); intro _ _)
    | split
    | refine Only.ofMk rfl ?_)

theorem takeMultiplex_only (e p l doneAt : Nat) (s : State) : Only [.ofdm, .audio] s (takeMultiplex e p l doneAt s) := by
  unfold takeMultiplex
  dsimp -failIfUnchanged only
  repeat' (first
    | with_reducible exact Only.refl _ _
    | ((with_reducible refine (takeStream_only _ _ _ _ _ _ _ _ _).andThen ?_ ?_); exact rfl)
    | ((with_reducible refine Only.foldlFrom ?_ ?_); intro _ _)
    | with_reducible refine Only.ite ?_ ?_
    | refine Only.ofMk rfl ?_)

theorem takeDrmFrame_only (e p l : Nat) (a : Air) (r : DrmTiming) (n0 : Int) (s : State) : Only [.ofdm, .audio, .link, .integ, .mode, .domains, .mb, .sec] s (takeDrmFrame e p l a r n0 s) := by
  unfold takeDrmFrame
  dsimp -failIfUnchanged only
  repeat' (first
    | with_reducible exact Only.refl _ _
    | ((with_reducible refine (State.setSignal_only _ _ _ _).andThen ?_ ?_); exact rfl)
    | ((with_reducible refine (addSide_only _ _ _).andThen ?_ ?_); exact rfl)
    | ((with_reducible refine (reconfigureDrm_only _ _ _ _).andThen ?_ ?_); exact rfl)
    | ((with_reducible refine (takeEntries_only _ _ _ _ _ _).andThen ?_ ?_); exact rfl)
    | ((with_reducible refine (takeMultiplex_only _ _ _ _ _).andThen ?_ ?_); exact rfl)
    | with_reducible refine Only.ite ?_ ?_
    | split
    | refine Only.ofMk rfl ?_)

theorem execDrmFrame_frames (e p : Nat) (air : Air) (s : State) : Frames [.ofdm, .audio, .link, .integ, .mode, .domains, .mb, .sec] s (execDrmFrame e p air s) := by
  unfold execDrmFrame
  dsimp -failIfUnchanged only
  repeat' (first
    | with_reducible exact Only.refl _ _
    | ((with_reducible refine Frames.onlyIf ?_); intro hg)
    | with_reducible refine Frames.next ?_
    | ((with_reducible refine (frameSync_only _ _ _ _ _).andThen ?_ ?_); exact rfl)
    | ((with_reducible refine (takeDrmFrame_only _ _ _ _ _ _ _).andThen ?_ ?_); exact rfl)
    | with_reducible refine Only.ite ?_ ?_
    | split
    | refine Only.ofMk rfl ?_)

theorem tiiEvents_only (e : Nat) (found : List TiiEntry) (s : State) : Only [.ofdm, .link, .integ, .sec] s (tiiEvents e found s) := by
  unfold tiiEvents
  dsimp -failIfUnchanged only
  repeat' (first
    | with_reducible exact Only.refl _ _
    | ((with_reducible refine (State.setEngine_only _ _ _).andThen ?_ ?_); exact rfl)
    | ((with_reducible refine (raise_only _ _ _ _).andThen ?_ ?_); exact rfl)
    | ((with_reducible refine Only.foldlFrom ?_ ?_); intro _ _)
    | with_reducible refine Only.ite ?_ ?_
    | refine Only.ofMk rfl ?_)

theorem execTiiPeriodEnd_frames (e : Nat) (s : State) : Frames [.ofdm, .link, .integ, .sec] s (execTiiPeriodEnd e s) := by
  unfold execTiiPeriodEnd
  dsimp -failIfUnchanged only
  repeat' (first
    | with_reducible exact Only.refl _ _
    | ((with_reducible refine Frames.onlyIf ?_); intro hg)
    | with_reducible refine Frames.next ?_
    | ((with_reducible refine (State.setEngine_only _ _ _).andThen ?_ ?_); exact rfl)
    | ((with_reducible refine (addSide_only _ _ _).andThen ?_ ?_); exact rfl)
    | ((with_reducible refine (tiiEvents_only _ _ _).andThen ?_ ?_); exact rfl)
    | ((with_reducible refine Only.foldlFrom ?_ ?_); intro _ _)
    | split
    | refine Only.ofMk rfl ?_)

theorem recNotes_only (e t0 : Nat) (tag : NoteTag) (rs : List EngineRec) (s : State) : Only [.sec] s (recNotes e t0 tag rs s) := by
  unfold recNotes
  dsimp -failIfUnchanged only
  repeat' (first
    | with_reducible exact Only.refl _ _
    | ((with_reducible refine (note_only _ _).andThen ?_ ?_); exact rfl)
    | ((with_reducible refine Only.foldlFrom ?_ ?_); intro _ _)
    | refine Only.ofMk rfl ?_)

theorem execEngineRecordSpanEnd_frames (e : Nat) (late : Bool) (s : State) : Frames [.ofdm, .link, .sec] s (execEngineRecordSpanEnd e late s) := by
  unfold execEngineRecordSpanEnd
  dsimp -failIfUnchanged only
  repeat' (first
    | with_reducible exact Only.refl _ _
    | ((with_reducible refine Frames.onlyIf ?_); intro hg)
    | with_reducible refine Frames.next ?_
    | ((with_reducible refine (State.setEngine_only _ _ _).andThen ?_ ?_); exact rfl)
    | ((with_reducible refine (formRecordBlocks_only _ _ _ _ _ _).andThen ?_ ?_); exact rfl)
    | ((with_reducible refine (recNotes_only _ _ _ _ _).andThen ?_ ?_); exact rfl)
    | ((with_reducible refine Only.foldlFrom ?_ ?_); intro _ _)
    | with_reducible refine Only.ite ?_ ?_
    | split
    | refine Only.ofMk rfl ?_)

theorem execEngineMeasPeriodEnd_frames (e : Nat) (air : Air) (late : Bool) (s : State) : Frames [.ofdm, .link, .sec] s (execEngineMeasPeriodEnd e air late s) := by
  unfold execEngineMeasPeriodEnd
  dsimp -failIfUnchanged only
  repeat' (first
    | with_reducible exact Only.refl _ _
    | ((with_reducible refine Frames.onlyIf ?_); intro hg)
    | with_reducible refine Frames.next ?_
    | ((with_reducible refine (State.setEngine_only _ _ _).andThen ?_ ?_); exact rfl)
    | ((with_reducible refine (State.setSignal_only _ _ _ _).andThen ?_ ?_); exact rfl)
    | ((with_reducible refine (formRouted_only _ _ _ _).andThen ?_ ?_); exact rfl)
    | ((with_reducible refine (note_only _ _).andThen ?_ ?_); exact rfl)
    | ((with_reducible refine Only.foldlFrom ?_ ?_); intro _ _)
    | with_reducible refine Only.ite ?_ ?_
    | split
    | refine Only.ofMk rfl ?_)

theorem exchangeEngines_only (a b : Nat) (s : State) : Only [.nv] s (exchangeEngines a b s) := by
  unfold exchangeEngines
  dsimp -failIfUnchanged only
  repeat' (first
    | with_reducible exact Only.refl _ _
    | with_reducible refine Only.ite ?_ ?_
    | split
    | refine Only.ofMk rfl ?_)

theorem retireEngine_only (d p cause : Nat) (s : State) : Only [.spans, .ofdm, .link, .integ, .mode, .domains, .sec, .nv, .modeCode] s (retireEngine d p cause s) := by
  unfold retireEngine
  dsimp -failIfUnchanged only
  repeat' (first
    | with_reducible exact Only.refl _ _
    | ((with_reducible refine (State.setEngine_only _ _ _).andThen ?_ ?_); exact rfl)
    | ((with_reducible refine (State.setRegion_only _ _ _).andThen ?_ ?_); exact rfl)
    | ((with_reducible refine (exchangeEngines_only _ _ _).andThen ?_ ?_); exact rfl)
    | ((with_reducible refine (powerMask_only _ _ _).andThen ?_ ?_); exact rfl)
    | ((with_reducible refine (raise_only _ _ _ _).andThen ?_ ?_); exact rfl)
    | ((with_reducible refine (refresh_only _).andThen ?_ ?_); exact rfl)
    | ((with_reducible refine (restartHere_only _ _ _).andThen ?_ ?_); exact rfl)
    | ((with_reducible refine (retireUnit_only _ _).andThen ?_ ?_); exact rfl)
    | ((with_reducible refine Only.foldlFrom ?_ ?_); intro _ _)
    | with_reducible refine Only.ite ?_ ?_
    | split
    | refine Only.ofMk rfl ?_)

theorem chargeEngine_only (d p checker window : Nat) (s : State) : Only [.spans, .ofdm, .link, .integ, .mode, .domains, .sec, .nv, .modeCode] s (chargeEngine d p checker window s) := by
  unfold chargeEngine
  dsimp -failIfUnchanged only
  repeat' (first
    | with_reducible exact Only.refl _ _
    | ((with_reducible refine (State.setPhys_only _ _ _ _).andThen ?_ ?_); exact rfl)
    | ((with_reducible refine (occur_only _ _ _).andThen ?_ ?_); exact rfl)
    | ((with_reducible refine (raise_only _ _ _ _).andThen ?_ ?_); exact rfl)
    | ((with_reducible refine (retireEngine_only _ _ _ _).andThen ?_ ?_); exact rfl)
    | with_reducible refine Only.ite ?_ ?_
    | split
    | refine Only.ofMk rfl ?_)

theorem execCrossAssayWindow_frames (d p : Nat) (s : State) : Frames [.ofdm] s (execCrossAssayWindow d p s) := by
  unfold execCrossAssayWindow
  dsimp -failIfUnchanged only
  repeat' (first
    | with_reducible exact Only.refl _ _
    | ((with_reducible refine Frames.onlyIf ?_); intro hg)
    | with_reducible refine Frames.next ?_
    | ((with_reducible refine (State.setRegion_only _ _ _).andThen ?_ ?_); exact rfl)
    | refine Only.ofMk rfl ?_)

theorem endEngineRestore_only (d p : Nat) (clean : Bool) (s : State) : Only [.spans, .ofdm, .link, .integ, .mode, .mb, .sec, .nv, .retirement, .modeCode] s (endEngineRestore d p clean s) := by
  unfold endEngineRestore
  dsimp -failIfUnchanged only
  repeat' (first
    | with_reducible exact Only.refl _ _
    | ((with_reducible refine (State.setRegion_only _ _ _).andThen ?_ ?_); exact rfl)
    | ((with_reducible refine (completeWait_only _ _ _ _).andThen ?_ ?_); exact rfl)
    | ((with_reducible refine (raise_only _ _ _ _).andThen ?_ ?_); exact rfl)
    | ((with_reducible refine (refresh_only _).andThen ?_ ?_); exact rfl)
    | ((with_reducible refine (unretireUnit_only _ _).andThen ?_ ?_); exact rfl)
    | with_reducible refine Only.ite ?_ ?_
    | split
    | refine Only.ofMk rfl ?_)

theorem execCrossAssayCompareEnd_frames (d region : Nat) (differs : Bool) (s : State) : Frames [.spans, .ofdm, .link, .integ, .mode, .mb, .sec, .nv, .retirement, .modeCode] s (execCrossAssayCompareEnd d region differs s) := by
  unfold execCrossAssayCompareEnd
  dsimp -failIfUnchanged only
  repeat' (first
    | with_reducible exact Only.refl _ _
    | ((with_reducible refine Frames.onlyIf ?_); intro hg)
    | with_reducible refine Frames.next ?_
    | ((with_reducible refine (State.setPhys_only _ _ _ _).andThen ?_ ?_); exact rfl)
    | ((with_reducible refine (State.setRegion_only _ _ _).andThen ?_ ?_); exact rfl)
    | ((with_reducible refine (endEngineRestore_only _ _ _ _).andThen ?_ ?_); exact rfl)
    | with_reducible refine Only.ite ?_ ?_
    | split
    | refine Only.ofMk rfl ?_)

theorem execEngineKatVectors_frames (d p : Nat) (failed : List EngineUnit) (s : State) : Frames [.spans, .ofdm, .link, .integ, .mode, .mb, .sec, .nv, .retirement, .modeCode] s (execEngineKatVectors d p failed s) := by
  unfold execEngineKatVectors
  dsimp -failIfUnchanged only
  repeat' (first
    | with_reducible exact Only.refl _ _
    | ((with_reducible refine Frames.onlyIf ?_); intro hg)
    | with_reducible refine Frames.next ?_
    | ((with_reducible refine (State.setPhys_only _ _ _ _).andThen ?_ ?_); exact rfl)
    | ((with_reducible refine (State.setRegion_only _ _ _).andThen ?_ ?_); exact rfl)
    | ((with_reducible refine (endEngineRestore_only _ _ _ _).andThen ?_ ?_); exact rfl)
    | with_reducible refine Only.ite ?_ ?_
    | refine Only.ofMk rfl ?_)

theorem execEngineDifferenceResolved_frames (d region : Nat) (checkerFailed partnerFailed : List EngineUnit) (repeatDiffers : Bool) (s : State) : Frames [.spans, .ofdm, .link, .integ, .mode, .domains, .sec, .nv, .modeCode] s (execEngineDifferenceResolved d region checkerFailed partnerFailed repeatDiffers s) := by
  unfold execEngineDifferenceResolved
  dsimp -failIfUnchanged only
  repeat' (first
    | with_reducible exact Only.refl _ _
    | ((with_reducible refine Frames.onlyIf ?_); intro hg)
    | with_reducible refine Frames.next ?_
    | ((with_reducible refine (State.setRegion_only _ _ _).andThen ?_ ?_); exact rfl)
    | ((with_reducible refine (chargeEngine_only _ _ _ _ _).andThen ?_ ?_); exact rfl)
    | with_reducible refine Only.ite ?_ ?_
    | split
    | refine Only.ofMk rfl ?_)

/-! ### Audio -/

theorem hearSlot_only (a : Air) (x t : Nat) (s : State) : Only [.audio] s (hearSlot a x t s) := by
  unfold hearSlot
  dsimp -failIfUnchanged only
  repeat' (first
    | with_reducible exact Only.refl _ _
    | ((with_reducible refine (State.setSlot_only _ _ _).andThen ?_ ?_); exact rfl)
    | refine Only.ofMk rfl ?_)

/-! ### Hallmark -/

theorem advanceFree_only (s : State) : Only [.freeCount] s (advanceFree s) := Only.ofMk rfl (Only.refl _ _)

theorem seeUnits_only (s : State) : Only [.sec] s (seeUnits s) := by
  unfold seeUnits
  dsimp -failIfUnchanged only
  repeat' (first
    | with_reducible exact Only.refl _ _
    | ((with_reducible refine (State.setHall_only _ _).andThen ?_ ?_); exact rfl)
    | refine Only.ofMk rfl ?_)

theorem beginInterval_only (t : Nat) (s : State) : Only [.sec] s (beginInterval t s) := by
  unfold beginInterval
  dsimp -failIfUnchanged only
  repeat' (first
    | with_reducible exact Only.refl _ _
    | ((with_reducible refine (State.setHall_only _ _).andThen ?_ ?_); exact rfl)
    | refine Only.ofMk rfl ?_)

theorem carryInterval_only (a : HallAcc) (stop : Nat) (s : State) : Only [.sec] s (carryInterval a stop s) := by
  unfold carryInterval
  dsimp -failIfUnchanged only
  repeat' (first
    | with_reducible exact Only.refl _ _
    | ((with_reducible refine (State.setHall_only _ _).andThen ?_ ?_); exact rfl)
    | refine Only.ofMk rfl ?_)

theorem cutInterval_only (old v : Nat) (s : State) : Only [.sec] s (cutInterval old v s) := by
  unfold cutInterval
  dsimp -failIfUnchanged only
  repeat' (first
    | with_reducible exact Only.refl _ _
    | ((with_reducible refine (State.setHall_only _ _).andThen ?_ ?_); exact rfl)
    | ((with_reducible refine (beginInterval_only _ _).andThen ?_ ?_); exact rfl)
    | split
    | refine Only.ofMk rfl ?_)

/-! ### Follow -/

theorem retuneLane_only (l : Nat) (s : State) : Only [.taps, .lanes] s (retuneLane l s) := by
  unfold retuneLane
  dsimp -failIfUnchanged only
  repeat' (first
    | with_reducible exact Only.refl _ _
    | ((with_reducible refine (State.setDemod_only _ _ _).andThen ?_ ?_); exact rfl)
    | ((with_reducible refine (goOnLane_only _ _).andThen ?_ ?_); exact rfl)
    | refine Only.ofMk rfl ?_)

theorem retuneTap_only (w : Nat) (s : State) : Only [.taps, .lanes] s (retuneTap w s) := by
  unfold retuneTap
  dsimp -failIfUnchanged only
  repeat' (first
    | with_reducible exact Only.refl _ _
    | ((with_reducible refine (State.setWatch_only _ _ _).andThen ?_ ?_); exact rfl)
    | ((with_reducible refine (goOnWatch_only _ _).andThen ?_ ?_); exact rfl)
    | refine Only.ofMk rfl ?_)

theorem modActive_only (f : ConfigSet → ConfigSet) (s : State) : Only [.cfg] s (modActive f s) := Only.ofMk rfl (Only.refl _ _)

theorem tuneMember_only (f k freq typ : Nat) (trusted : Bool) (eid : Option Nat) (named : Option Ident) (s : State) : Only [.taps, .lanes, .ofdm, .audio, .link, .cfg, .integ, .mode, .domains, .sec] s (tuneMember f k freq typ trusted eid named s) := by
  unfold tuneMember
  dsimp -failIfUnchanged only
  repeat' (first
    | with_reducible exact Only.refl _ _
    | ((with_reducible refine (State.setContext_only _ _ _).andThen ?_ ?_); exact rfl)
    | ((with_reducible refine (State.setFollow_only _ _ _).andThen ?_ ?_); exact rfl)
    | ((with_reducible refine (modActive_only _ _).andThen ?_ ?_); exact rfl)
    | ((with_reducible refine (powerMask_only _ _ _).andThen ?_ ?_); exact rfl)
    | ((with_reducible refine (restartSignal_only _ _ _ _).andThen ?_ ?_); exact rfl)
    | ((with_reducible refine (retuneLane_only _ _).andThen ?_ ?_); exact rfl)
    | ((with_reducible refine (seeUnits_only _).andThen ?_ ?_); exact rfl)
    | with_reducible refine Only.ite ?_ ?_
    | split
    | refine Only.ofMk rfl ?_)

theorem measureCand_only (f w : Nat) (c : Cand) (s : State) : Only [.taps, .lanes, .audio, .cfg] s (measureCand f w c s) := by
  unfold measureCand
  dsimp -failIfUnchanged only
  repeat' (first
    | with_reducible exact Only.refl _ _
    | ((with_reducible refine (State.setFollow_only _ _ _).andThen ?_ ?_); exact rfl)
    | ((with_reducible refine (modActive_only _ _).andThen ?_ ?_); exact rfl)
    | ((with_reducible refine (retuneTap_only _ _).andThen ?_ ?_); exact rfl)
    | with_reducible refine Only.ite ?_ ?_
    | refine Only.ofMk rfl ?_)

theorem assignTaps_only (f : Nat) (s : State) : Only [.taps, .lanes, .audio, .cfg] s (assignTaps f s) := by
  unfold assignTaps
  dsimp -failIfUnchanged only
  repeat' (first
    | with_reducible exact Only.refl _ _
    | ((with_reducible refine (State.setFollow_only _ _ _).andThen ?_ ?_); exact rfl)
    | ((with_reducible refine (measureCand_only _ _ _ _).andThen ?_ ?_); exact rfl)
    | ((with_reducible refine Only.foldlFrom ?_ ?_); intro _ _)
    | with_reducible refine Only.ite ?_ ?_
    | split
    | refine Only.ofMk rfl ?_)

theorem endMemberPeriod_only (f k : Nat) (s : State) : Only [.ofdm, .audio] s (endMemberPeriod f k s) := by
  unfold endMemberPeriod
  dsimp -failIfUnchanged only
  repeat' (first
    | with_reducible exact Only.refl _ _
    | ((with_reducible refine (State.setContext_only _ _ _).andThen ?_ ?_); exact rfl)
    | ((with_reducible refine (State.setSignal_only _ _ _ _).andThen ?_ ?_); exact rfl)
    | split
    | refine Only.ofMk rfl ?_)

theorem alignStandby_only (f : Nat) (s : State) : Only [.audio, .link, .integ, .sec] s (alignStandby f s) := by
  unfold alignStandby
  dsimp -failIfUnchanged only
  repeat' (first
    | with_reducible exact Only.refl _ _
    | ((with_reducible refine (State.setFollow_only _ _ _).andThen ?_ ?_); exact rfl)
    | ((with_reducible refine (raise_only _ _ _ _).andThen ?_ ?_); exact rfl)
    | with_reducible refine Only.ite ?_ ?_
    | split
    | refine Only.ofMk rfl ?_)

theorem noteReady_only (f : Nat) (s : State) : Only [.audio] s (noteReady f s) := by
  unfold noteReady
  dsimp -failIfUnchanged only
  repeat' (first
    | with_reducible exact Only.refl _ _
    | ((with_reducible refine (State.setFollow_only _ _ _).andThen ?_ ?_); exact rfl)
    | with_reducible refine Only.ite ?_ ?_
    | refine Only.ofMk rfl ?_)

theorem retuneStandby_only (f k : Nat) (c : Cand) (trial : Bool) (s : State) : Only [.taps, .lanes, .ofdm, .audio, .link, .cfg, .integ, .mode, .domains, .sec] s (retuneStandby f k c trial s) := by
  unfold retuneStandby
  dsimp -failIfUnchanged only
  repeat' (first
    | with_reducible exact Only.refl _ _
    | ((with_reducible refine (State.setFollow_only _ _ _).andThen ?_ ?_); exact rfl)
    | ((with_reducible refine (raise_only _ _ _ _).andThen ?_ ?_); exact rfl)
    | ((with_reducible refine (tuneMember_only _ _ _ _ _ _ _ _).andThen ?_ ?_); exact rfl)
    | refine Only.ofMk rfl ?_)

theorem rankStandby_only (f : Nat) (s : State) : Only [.taps, .lanes, .ofdm, .audio, .link, .cfg, .integ, .mode, .domains, .sec] s (rankStandby f s) := by
  unfold rankStandby
  dsimp -failIfUnchanged only
  repeat' (first
    | with_reducible exact Only.refl _ _
    | ((with_reducible refine (State.setFollow_only _ _ _).andThen ?_ ?_); exact rfl)
    | ((with_reducible refine (retuneStandby_only _ _ _ _ _).andThen ?_ ?_); exact rfl)
    | with_reducible refine Only.ite ?_ ?_
    | split
    | refine Only.ofMk rfl ?_)

theorem decideFade_only (f : Nat) (r : FadeReason) (aligned : Bool) (s : State) : Only [.audio, .link, .integ, .sec] s (decideFade f r aligned s) := by
  unfold decideFade
  dsimp -failIfUnchanged only
  repeat' (first
    | with_reducible exact Only.refl _ _
    | ((with_reducible refine (State.setFollow_only _ _ _).andThen ?_ ?_); exact rfl)
    | ((with_reducible refine (raise_only _ _ _ _).andThen ?_ ?_); exact rfl)
    | with_reducible refine Only.ite ?_ ?_
    | split
    | refine Only.ofMk rfl ?_)

theorem applyRules_only (f : Nat) (s : State) : Only [.audio, .link, .integ, .sec] s (applyRules f s) := by
  unfold applyRules
  dsimp -failIfUnchanged only
  repeat' (first
    | with_reducible exact Only.refl _ _
    | ((with_reducible refine (State.setFollow_only _ _ _).andThen ?_ ?_); exact rfl)
    | ((with_reducible refine (decideFade_only _ _ _ _).andThen ?_ ?_); exact rfl)
    | ((with_reducible refine (raise_only _ _ _ _).andThen ?_ ?_); exact rfl)
    | with_reducible refine Only.ite ?_ ?_
    | split
    | refine Only.ofMk rfl ?_)

theorem execFollowPeriodEnd_frames (f : Nat) (air : Air) (s : State) : Frames [.taps, .lanes, .ofdm, .audio, .link, .cfg, .integ, .mode, .domains, .sec] s (execFollowPeriodEnd f air s) := by
  unfold execFollowPeriodEnd
  dsimp -failIfUnchanged only
  repeat' (first
    | with_reducible exact Only.refl _ _
    | ((with_reducible refine Frames.onlyIf ?_); intro hg)
    | with_reducible refine Frames.next ?_
    | ((with_reducible refine (State.setFollow_only _ _ _).andThen ?_ ?_); exact rfl)
    | ((with_reducible refine (alignStandby_only _ _).andThen ?_ ?_); exact rfl)
    | ((with_reducible refine (applyRules_only _ _).andThen ?_ ?_); exact rfl)
    | ((with_reducible refine (assignTaps_only _ _).andThen ?_ ?_); exact rfl)
    | ((with_reducible refine (endMemberPeriod_only _ _ _).andThen ?_ ?_); exact rfl)
    | ((with_reducible refine (noteReady_only _ _).andThen ?_ ?_); exact rfl)
    | ((with_reducible refine (rankStandby_only _ _).andThen ?_ ?_); exact rfl)
    | ((with_reducible refine Only.foldlFrom ?_ ?_); intro _ _)
    | with_reducible refine Only.ite ?_ ?_
    | split
    | refine Only.ofMk rfl ?_)

theorem execDelayEstimate_frames (f : Nat) (air : Air) (s : State) : Frames [.audio, .link, .integ, .sec] s (execDelayEstimate f air s) := by
  unfold execDelayEstimate
  dsimp -failIfUnchanged only
  repeat' (first
    | with_reducible exact Only.refl _ _
    | ((with_reducible refine Frames.onlyIf ?_); intro hg)
    | with_reducible refine Frames.next ?_
    | ((with_reducible refine (State.setFollow_only _ _ _).andThen ?_ ?_); exact rfl)
    | ((with_reducible refine (alignStandby_only _ _).andThen ?_ ?_); exact rfl)
    | ((with_reducible refine (noteReady_only _ _).andThen ?_ ?_); exact rfl)
    | ((with_reducible refine (raise_only _ _ _ _).andThen ?_ ?_); exact rfl)
    | with_reducible refine Only.ite ?_ ?_
    | split
    | refine Only.ofMk rfl ?_)

theorem execFadeStart_frames (f : Nat) (s : State) : Frames [.audio, .link, .integ, .sec] s (execFadeStart f s) := by
  unfold execFadeStart
  dsimp -failIfUnchanged only
  repeat' (first
    | with_reducible exact Only.refl _ _
    | ((with_reducible refine Frames.onlyIf ?_); intro hg)
    | with_reducible refine Frames.next ?_
    | ((with_reducible refine (State.setFollow_only _ _ _).andThen ?_ ?_); exact rfl)
    | ((with_reducible refine (raise_only _ _ _ _).andThen ?_ ?_); exact rfl)
    | with_reducible refine Only.ite ?_ ?_
    | split
    | refine Only.ofMk rfl ?_)

theorem execFadeEnd_frames (f : Nat) (s : State) : Frames [.audio] s (execFadeEnd f s) := by
  unfold execFadeEnd
  dsimp -failIfUnchanged only
  repeat' (first
    | with_reducible exact Only.refl _ _
    | ((with_reducible refine Frames.onlyIf ?_); intro hg)
    | with_reducible refine Frames.next ?_
    | ((with_reducible refine (State.setFollow_only _ _ _).andThen ?_ ?_); exact rfl)
    | ((with_reducible refine (noteReady_only _ _).andThen ?_ ?_); exact rfl)
    | split
    | refine Only.ofMk rfl ?_)

theorem execCandidateDwellEnd_frames (f w : Nat) (air : Air) (s : State) : Frames [.taps, .lanes, .audio, .cfg] s (execCandidateDwellEnd f w air s) := by
  unfold execCandidateDwellEnd
  dsimp -failIfUnchanged only
  repeat' (first
    | with_reducible exact Only.refl _ _
    | ((with_reducible refine Frames.onlyIf ?_); intro hg)
    | with_reducible refine Frames.next ?_
    | ((with_reducible refine (State.setWatch_only _ _ _).andThen ?_ ?_); exact rfl)
    | ((with_reducible refine (followTapMeasured_only _ _ _ _ _).andThen ?_ ?_); exact rfl)
    | ((with_reducible refine (measureCand_only _ _ _ _).andThen ?_ ?_); exact rfl)
    | split
    | refine Only.ofMk rfl ?_)

theorem execVerificationLapse_frames (f : Nat) (s : State) : Frames [.audio, .link, .integ, .sec] s (execVerificationLapse f s) := by
  unfold execVerificationLapse
  dsimp -failIfUnchanged only
  repeat' (first
    | with_reducible exact Only.refl _ _
    | ((with_reducible refine Frames.onlyIf ?_); intro hg)
    | with_reducible refine Frames.next ?_
    | ((with_reducible refine (State.setFollow_only _ _ _).andThen ?_ ?_); exact rfl)
    | ((with_reducible refine (noteReady_only _ _).andThen ?_ ?_); exact rfl)
    | ((with_reducible refine (verifyEvent_only _ _ _ _ _).andThen ?_ ?_); exact rfl)
    | ((with_reducible refine Only.foldlFrom ?_ ?_); intro _ _)
    | with_reducible refine Only.ite ?_ ?_
    | split
    | refine Only.ofMk rfl ?_)

theorem execFollowRecord_frames (f : Nat) (s : State) : Frames [.audio, .link] s (execFollowRecord f s) := by
  unfold execFollowRecord
  dsimp -failIfUnchanged only
  repeat' (first
    | with_reducible exact Only.refl _ _
    | ((with_reducible refine Frames.onlyIf ?_); intro hg)
    | with_reducible refine Frames.next ?_
    | ((with_reducible refine (State.setFollow_only _ _ _).andThen ?_ ?_); exact rfl)
    | ((with_reducible refine (formRouted_only _ _ _ _).andThen ?_ ?_); exact rfl)
    | refine Only.ofMk rfl ?_)

theorem restartFollow_only (f : Nat) (s : State) : Only [.taps, .lanes, .ofdm, .audio, .link, .cfg, .integ, .mode, .domains, .sec] s (restartFollow f s) := by
  unfold restartFollow
  dsimp -failIfUnchanged only
  repeat' (first
    | with_reducible exact Only.refl _ _
    | ((with_reducible refine (State.setFollow_only _ _ _).andThen ?_ ?_); exact rfl)
    | ((with_reducible refine (tuneMember_only _ _ _ _ _ _ _ _).andThen ?_ ?_); exact rfl)
    | split
    | refine Only.ofMk rfl ?_)

theorem stopFollow_only (f : Nat) (s : State) : Only [.audio] s (stopFollow f s) := by
  unfold stopFollow
  dsimp -failIfUnchanged only
  repeat' (first
    | with_reducible exact Only.refl _ _
    | ((with_reducible refine (State.setFollow_only _ _ _).andThen ?_ ?_); exact rfl)
    | refine Only.ofMk rfl ?_)

end Sys2Proof.Machine
end

