-- ==== Sys2Proof/Laws/Frames3.lean ====
section
/-!
SUPPORT. Frames of the front end, slots, ports, clocks, taps: which parts of the state each operation and each command leaves alone. `x_only` speaks of an operation, `x_frames` of a command: it answers a next state, and only the parts named differ.
-/
/- One proof at a time: the default arguments of `Only.ofMk` are tactics, and a proof that runs them beside others waits for those, a thread each. -/
set_option Elab.async false

namespace Sys2Proof.Machine

/-! ### FrontEnd -/

theorem leadWithSpare_only (j : Nat) (s : State) : Only [.front] s (leadWithSpare j s) := by
  unfold leadWithSpare
  dsimp -failIfUnchanged only
  repeat' (first
    | with_reducible exact Only.refl _ _
    | ((with_reducible refine (State.setCourse_only _ _ _).andThen ?_ ?_); exact rfl)
    | with_reducible refine Only.ite ?_ ?_
    | split
    | refine Only.ofMk rfl ?_)

theorem standbyReady_only (k : Nat) (s : State) : Only [.front, .link, .integ, .sec] s (standbyReady k s) := by
  unfold standbyReady
  dsimp -failIfUnchanged only
  repeat' (first
    | with_reducible exact Only.refl _ _
    | ((with_reducible refine (State.setCourse_only _ _ _).andThen ?_ ?_); exact rfl)
    | ((with_reducible refine (leadWithSpare_only _ _).andThen ?_ ?_); exact rfl)
    | ((with_reducible refine (raise_only _ _ _ _).andThen ?_ ?_); exact rfl)
    | with_reducible refine Only.ite ?_ ?_
    | refine Only.ofMk rfl ?_)

theorem endConvRestore_only (k : Nat) (failed : Option ConvCause) (s : State) : Only [.clk, .spans, .front, .taps, .link, .cal, .integ, .mode, .domains, .mb, .sec, .nv, .retirement, .modeCode] s (endConvRestore k failed s) := by
  unfold endConvRestore
  dsimp -failIfUnchanged only
  repeat' (first
    | with_reducible exact Only.refl _ _
    | ((with_reducible refine (State.setConv_only _ _ _).andThen ?_ ?_); exact rfl)
    | ((with_reducible refine (State.setCourse_only _ _ _).andThen ?_ ?_); exact rfl)
    | ((with_reducible refine (completeWait_only _ _ _ _).andThen ?_ ?_); exact rfl)
    | ((with_reducible refine (raise_only _ _ _ _).andThen ?_ ?_); exact rfl)
    | ((with_reducible refine (refresh_only _).andThen ?_ ?_); exact rfl)
    | ((with_reducible refine (spliceTo_only _ _ _).andThen ?_ ?_); exact rfl)
    | ((with_reducible refine (standbyReady_only _ _).andThen ?_ ?_); exact rfl)
    | ((with_reducible refine (supplied_only _ _ _ _).andThen ?_ ?_); exact rfl)
    | ((with_reducible refine (unpowerConv_only _ _).andThen ?_ ?_); exact rfl)
    | ((with_reducible refine (unretireUnit_only _ _).andThen ?_ ?_); exact rfl)
    | with_reducible refine Only.ite ?_ ?_
    | split
    | refine Only.ofMk rfl ?_)

theorem execFastCheckTrip_frames (k check : Nat) (s : State) : Frames [.clk, .spans, .front, .taps, .link, .cal, .integ, .mode, .domains, .mb, .sec, .nv, .retirement, .modeCode] s (execFastCheckTrip k check s) := by
  unfold execFastCheckTrip
  dsimp -failIfUnchanged only
  repeat' (first
    | with_reducible exact Only.refl _ _
    | ((with_reducible refine Frames.onlyIf ?_); intro hg)
    | with_reducible refine Frames.next ?_
    | ((with_reducible refine (endConvRestore_only _ _ _).andThen ?_ ?_); exact rfl)
    | ((with_reducible refine (failConverter_only _ _ _ _).andThen ?_ ?_); exact rfl)
    | with_reducible refine Only.ite ?_ ?_
    | split
    | refine Only.ofMk rfl ?_)

theorem gatherPowers_only (j : Nat) (sigs : List CheckSig) (s : State) : Only [.front] s (gatherPowers j sigs s) := by
  unfold gatherPowers
  dsimp -failIfUnchanged only
  repeat' (first
    | with_reducible exact Only.refl _ _
    | ((with_reducible refine (State.setCourse_only _ _ _).andThen ?_ ?_); exact rfl)
    | refine Only.ofMk rfl ?_)

theorem suspendSpares_only (j : Nat) (s : State) : Only [.front] s (suspendSpares j s) := by
  unfold suspendSpares
  dsimp -failIfUnchanged only
  repeat' (first
    | with_reducible exact Only.refl _ _
    | ((with_reducible refine (State.setConv_only _ _ _).andThen ?_ ?_); exact rfl)
    | refine Only.ofMk rfl ?_)

theorem contest_only (j mask : Nat) (s : State) : Only [.spans, .front, .link, .integ, .mode, .sec, .modeCode] s (contest j mask s) := by
  unfold contest
  dsimp -failIfUnchanged only
  repeat' (first
    | with_reducible exact Only.refl _ _
    | ((with_reducible refine (State.setCourse_only _ _ _).andThen ?_ ?_); exact rfl)
    | ((with_reducible refine (raise_only _ _ _ _).andThen ?_ ?_); exact rfl)
    | ((with_reducible refine (refresh_only _).andThen ?_ ?_); exact rfl)
    | with_reducible refine Only.ite ?_ ?_
    | refine Only.ofMk rfl ?_)

theorem decideMismatch_only (j mask first : Nat) (s : State) : Only [.spans, .front, .link, .integ, .mode, .sec, .modeCode] s (decideMismatch j mask first s) := by
  unfold decideMismatch
  dsimp -failIfUnchanged only
  repeat' (first
    | with_reducible exact Only.refl _ _
    | ((with_reducible refine (State.setCourse_only _ _ _).andThen ?_ ?_); exact rfl)
    | ((with_reducible refine (contest_only _ _ _).andThen ?_ ?_); exact rfl)
    | ((with_reducible refine (suspendSpares_only _ _).andThen ?_ ?_); exact rfl)
    | with_reducible refine Only.ite ?_ ?_
    | refine Only.ofMk rfl ?_)

theorem cleanWindow_only (j : Nat) (s : State) : Only [.spans, .front, .link, .integ, .mode, .sec, .modeCode] s (cleanWindow j s) := by
  unfold cleanWindow
  dsimp -failIfUnchanged only
  repeat' (first
    | with_reducible exact Only.refl _ _
    | ((with_reducible refine (State.setCourse_only _ _ _).andThen ?_ ?_); exact rfl)
    | ((with_reducible refine (refresh_only _).andThen ?_ ?_); exact rfl)
    | with_reducible refine Only.ite ?_ ?_
    | refine Only.ofMk rfl ?_)

theorem execCheckWindowEnd_frames (j : Nat) (sigs : List CheckSig) (s : State) : Frames [.spans, .front, .link, .integ, .mode, .sec, .modeCode] s (execCheckWindowEnd j sigs s) := by
  unfold execCheckWindowEnd
  dsimp -failIfUnchanged only
  repeat' (first
    | with_reducible exact Only.refl _ _
    | ((with_reducible refine Frames.onlyIf ?_); intro hg)
    | with_reducible refine Frames.next ?_
    | ((with_reducible refine (State.setCourse_only _ _ _).andThen ?_ ?_); exact rfl)
    | ((with_reducible refine (cleanWindow_only _ _).andThen ?_ ?_); exact rfl)
    | ((with_reducible refine (decideMismatch_only _ _ _ _).andThen ?_ ?_); exact rfl)
    | ((with_reducible refine (gatherPowers_only _ _ _).andThen ?_ ?_); exact rfl)
    | with_reducible refine Only.ite ?_ ?_
    | split
    | refine Only.ofMk rfl ?_)

theorem execShadowAttributionEnd_frames (j : Nat) (aDisagrees bDisagrees : Bool) (s : State) : Frames [.spans, .front, .taps, .link, .cal, .integ, .mode, .domains, .mb, .sec, .modeCode] s (execShadowAttributionEnd j aDisagrees bDisagrees s) := by
  unfold execShadowAttributionEnd
  dsimp -failIfUnchanged only
  repeat' (first
    | with_reducible exact Only.refl _ _
    | ((with_reducible refine Frames.onlyIf ?_); intro hg)
    | with_reducible refine Frames.next ?_
    | ((with_reducible refine (contest_only _ _ _).andThen ?_ ?_); exact rfl)
    | ((with_reducible refine (endAttribution_only _ _).andThen ?_ ?_); exact rfl)
    | ((with_reducible refine (failConverter_only _ _ _ _).andThen ?_ ?_); exact rfl)
    | with_reducible refine Only.ite ?_ ?_
    | split
    | refine Only.ofMk rfl ?_)

theorem execLeaderSplice_frames (j : Nat) (s : State) : Frames [.spans, .front, .taps, .link, .cal, .integ, .mode, .mb, .sec, .modeCode] s (execLeaderSplice j s) := by
  unfold execLeaderSplice
  dsimp -failIfUnchanged only
  repeat' (first
    | with_reducible exact Only.refl _ _
    | ((with_reducible refine Frames.onlyIf ?_); intro hg)
    | with_reducible refine Frames.next ?_
    | ((with_reducible refine (State.setCourse_only _ _ _).andThen ?_ ?_); exact rfl)
    | ((with_reducible refine (completeWait_only _ _ _ _).andThen ?_ ?_); exact rfl)
    | ((with_reducible refine (raise_only _ _ _ _).andThen ?_ ?_); exact rfl)
    | ((with_reducible refine (refresh_only _).andThen ?_ ?_); exact rfl)
    | ((with_reducible refine (spliceTo_only _ _ _).andThen ?_ ?_); exact rfl)
    | ((with_reducible refine (standbyReady_only _ _).andThen ?_ ?_); exact rfl)
    | ((with_reducible refine (supplied_only _ _ _ _).andThen ?_ ?_); exact rfl)
    | split
    | refine Only.ofMk rfl ?_)

theorem execPlannedSplice_frames (j : Nat) (s : State) : Frames [.clk, .spans, .front, .taps, .link, .cal, .integ, .mode, .domains, .sec, .modeCode] s (execPlannedSplice j s) := by
  unfold execPlannedSplice
  dsimp -failIfUnchanged only
  repeat' (first
    | with_reducible exact Only.refl _ _
    | ((with_reducible refine Frames.onlyIf ?_); intro hg)
    | with_reducible refine Frames.next ?_
    | ((with_reducible refine (State.setCourse_only _ _ _).andThen ?_ ?_); exact rfl)
    | ((with_reducible refine (raise_only _ _ _ _).andThen ?_ ?_); exact rfl)
    | ((with_reducible refine (refresh_only _).andThen ?_ ?_); exact rfl)
    | ((with_reducible refine (spliceTo_only _ _ _).andThen ?_ ?_); exact rfl)
    | ((with_reducible refine (standbyReady_only _ _).andThen ?_ ?_); exact rfl)
    | ((with_reducible refine (supplied_only _ _ _ _).andThen ?_ ?_); exact rfl)
    | ((with_reducible refine (unpowerConv_only _ _).andThen ?_ ?_); exact rfl)
    | with_reducible refine Only.ite ?_ ?_
    | split
    | refine Only.ofMk rfl ?_)

theorem execConverterSampling_frames (k : Nat) (s : State) : Frames [.spans, .front, .taps, .link, .cal, .integ, .mode, .mb, .sec, .modeCode] s (execConverterSampling k s) := by
  unfold execConverterSampling
  dsimp -failIfUnchanged only
  repeat' (first
    | with_reducible exact Only.refl _ _
    | ((with_reducible refine Frames.onlyIf ?_); intro hg)
    | with_reducible refine Frames.next ?_
    | ((with_reducible refine (State.setConv_only _ _ _).andThen ?_ ?_); exact rfl)
    | ((with_reducible refine (refresh_only _).andThen ?_ ?_); exact rfl)
    | ((with_reducible refine (startOn_only _ _ _).andThen ?_ ?_); exact rfl)
    | ((with_reducible refine (taskDue_only _ _).andThen ?_ ?_); exact rfl)
    | with_reducible refine Only.ite ?_ ?_
    | split
    | refine Only.ofMk rfl ?_)

theorem execSliceRotationStep_frames (k : Nat) (s : State) : Frames [.clk, .spans, .front, .taps, .link, .cal, .integ, .mode, .domains, .mb, .sec, .nv, .retirement, .modeCode] s (execSliceRotationStep k s) := by
  unfold execSliceRotationStep
  dsimp -failIfUnchanged only
  repeat' (first
    | with_reducible exact Only.refl _ _
    | ((with_reducible refine Frames.onlyIf ?_); intro hg)
    | with_reducible refine Frames.next ?_
    | ((with_reducible refine (State.setConv_only _ _ _).andThen ?_ ?_); exact rfl)
    | ((with_reducible refine (calSuccess_only _ _ _).andThen ?_ ?_); exact rfl)
    | ((with_reducible refine (endConvRestore_only _ _ _).andThen ?_ ?_); exact rfl)
    | ((with_reducible refine (standbyReady_only _ _).andThen ?_ ?_); exact rfl)
    | with_reducible refine Only.ite ?_ ?_
    | split
    | refine Only.ofMk rfl ?_)

theorem retireSlice_only (k i : Nat) (s : State) : Only [.spans, .front, .taps, .link, .cal, .integ, .mode, .domains, .mb, .sec, .nv, .modeCode] s (retireSlice k i s) := by
  unfold retireSlice
  dsimp -failIfUnchanged only
  repeat' (first
    | with_reducible exact Only.refl _ _
    | ((with_reducible refine (State.setConv_only _ _ _).andThen ?_ ?_); exact rfl)
    | ((with_reducible refine (failConverter_only _ _ _ _).andThen ?_ ?_); exact rfl)
    | ((with_reducible refine (leadWithSpare_only _ _).andThen ?_ ?_); exact rfl)
    | ((with_reducible refine (raise_only _ _ _ _).andThen ?_ ?_); exact rfl)
    | ((with_reducible refine (refresh_only _).andThen ?_ ?_); exact rfl)
    | ((with_reducible refine (retireUnit_only _ _).andThen ?_ ?_); exact rfl)
    | with_reducible refine Only.ite ?_ ?_
    | refine Only.ofMk rfl ?_)

theorem moveToSpare_only (k spare since : Nat) (s : State) : Only [.integ] s (moveToSpare k spare since s) := by
  unfold moveToSpare
  dsimp -failIfUnchanged only
  repeat' (first
    | with_reducible exact Only.refl _ _
    | with_reducible refine Only.ite ?_ ?_
    | refine Only.ofMk rfl ?_)

theorem sliceMismatch_only (k : Nat) (s : State) : Only [.spans, .front, .taps, .link, .cal, .integ, .mode, .domains, .mb, .sec, .nv, .modeCode] s (sliceMismatch k s) := by
  unfold sliceMismatch
  dsimp -failIfUnchanged only
  repeat' (first
    | with_reducible exact Only.refl _ _
    | ((with_reducible refine (State.setConv_only _ _ _).andThen ?_ ?_); exact rfl)
    | ((with_reducible refine (moveToSpare_only _ _ _ _).andThen ?_ ?_); exact rfl)
    | ((with_reducible refine (occur_only _ _ _).andThen ?_ ?_); exact rfl)
    | ((with_reducible refine (retireSlice_only _ _ _).andThen ?_ ?_); exact rfl)
    | with_reducible refine Only.ite ?_ ?_
    | split
    | refine Only.ofMk rfl ?_)

theorem completeProbation_only (k result : Nat) (s : State) : Only [.link, .mb] s (completeProbation k result s) := by
  unfold completeProbation
  dsimp -failIfUnchanged only
  repeat' (first
    | with_reducible exact Only.refl _ _
    | ((with_reducible refine (completeWait_only _ _ _ _).andThen ?_ ?_); exact rfl)
    | split
    | refine Only.ofMk rfl ?_)

theorem execShadowPhaseEnd_frames (k : Nat) (rms mean : Int) (inAuthority convFault : Bool) (s : State) : Frames [.clk, .spans, .front, .taps, .link, .cal, .integ, .mode, .domains, .mb, .sec, .nv, .retirement, .modeCode] s (execShadowPhaseEnd k rms mean inAuthority convFault s) := by
  unfold execShadowPhaseEnd
  dsimp -failIfUnchanged only
  repeat' (first
    | with_reducible exact Only.refl _ _
    | ((with_reducible refine Frames.onlyIf ?_); intro hg)
    | with_reducible refine Frames.next ?_
    | ((with_reducible refine (State.setConv_only _ _ _).andThen ?_ ?_); exact rfl)
    | ((with_reducible refine (completeProbation_only _ _ _).andThen ?_ ?_); exact rfl)
    | ((with_reducible refine (endConvRestore_only _ _ _).andThen ?_ ?_); exact rfl)
    | ((with_reducible refine (failConverter_only _ _ _ _).andThen ?_ ?_); exact rfl)
    | ((with_reducible refine (raise_only _ _ _ _).andThen ?_ ?_); exact rfl)
    | ((with_reducible refine (sliceMismatch_only _ _).andThen ?_ ?_); exact rfl)
    | with_reducible refine Only.ite ?_ ?_
    | split
    | refine Only.ofMk rfl ?_)

theorem execSliceCoeffUpdate_frames (k i : Nat) (coef : SliceCoef) (s : State) : Frames [.front, .cal] s (execSliceCoeffUpdate k i coef s) := by
  unfold execSliceCoeffUpdate
  dsimp -failIfUnchanged only
  repeat' (first
    | with_reducible exact Only.refl _ _
    | ((with_reducible refine Frames.onlyIf ?_); intro hg)
    | with_reducible refine Frames.next ?_
    | ((with_reducible refine (State.setConv_only _ _ _).andThen ?_ ?_); exact rfl)
    | ((with_reducible refine (setSliceCoef_only _ _ _ _).andThen ?_ ?_); exact rfl)
    | refine Only.ofMk rfl ?_)

theorem execAgcWindow_frames (j : Nat) (peak : Int) (s : State) : Frames [.front, .link, .cal] s (execAgcWindow j peak s) := by
  unfold execAgcWindow
  dsimp -failIfUnchanged only
  repeat' (first
    | with_reducible exact Only.refl _ _
    | ((with_reducible refine Frames.onlyIf ?_); intro hg)
    | with_reducible refine Frames.next ?_
    | ((with_reducible refine (State.setCourse_only _ _ _).andThen ?_ ?_); exact rfl)
    | ((with_reducible refine (setGain_only _ _ _).andThen ?_ ?_); exact rfl)
    | with_reducible refine Only.ite ?_ ?_
    | refine Only.ofMk rfl ?_)

theorem execAgcLimit_frames (j : Nat) (peak : Int) (s : State) : Frames [.front, .link, .integ, .sec] s (execAgcLimit j peak s) := by
  unfold execAgcLimit
  dsimp -failIfUnchanged only
  repeat' (first
    | with_reducible exact Only.refl _ _
    | ((with_reducible refine Frames.onlyIf ?_); intro hg)
    | with_reducible refine Frames.next ?_
    | ((with_reducible refine (State.setCourse_only _ _ _).andThen ?_ ?_); exact rfl)
    | ((with_reducible refine (raise_only _ _ _ _).andThen ?_ ?_); exact rfl)
    | refine Only.ofMk rfl ?_)

theorem execConverterRecordLatch_frames (k : Nat) (codes : List SliceCode) (s : State) : Frames [.front] s (execConverterRecordLatch k codes s) := by
  unfold execConverterRecordLatch
  dsimp -failIfUnchanged only
  repeat' (first
    | with_reducible exact Only.refl _ _
    | ((with_reducible refine Frames.onlyIf ?_); intro hg)
    | with_reducible refine Frames.next ?_
    | ((with_reducible refine (State.setConv_only _ _ _).andThen ?_ ?_); exact rfl)
    | ((with_reducible refine Only.foldlFrom ?_ ?_); intro _ _)
    | with_reducible refine Only.ite ?_ ?_
    | refine Only.ofMk rfl ?_)

theorem execPwrSumLoRead_frames (k : Nat) (s : State) : Frames [.front, .link, .mode] s (execPwrSumLoRead k s) :=
  dieRead_frames rfl rfl (fun _ => (State.setConv_only _ _ _).mono rfl) _ _ _

theorem execClearSticky_frames (k : Nat) (s : State) : Frames [.front, .mode] s (execClearSticky k s) :=
  dieWrite_frames rfl (fun _ => (State.setConv_only _ _ _).mono rfl) _ _ _

theorem execFeedLimitsWrite_frames (n openLimit overLimit : Nat) (s : State) : Frames [.front, .mode] s (execFeedLimitsWrite n openLimit overLimit s) :=
  Frames.onlyIf fun _ => Only.ite ((State.setCourse_only _ _ _).andThen rfl ((hostAccess_only s).mono rfl)) ((hostAccess_only s).mono rfl)

/-! ### Slots -/

theorem addSpan_only (x : Nat) (p : SlotSpan) (s : State) : Only [.audio] s (addSpan x p s) := by
  unfold addSpan
  dsimp -failIfUnchanged only
  repeat' (first
    | with_reducible exact Only.refl _ _
    | ((with_reducible refine (State.setSlot_only _ _ _).andThen ?_ ?_); exact rfl)
    | refine Only.ofMk rfl ?_)

theorem declareClass_only (x cls t : Nat) (s : State) : Only [.audio, .link, .integ, .sec] s (declareClass x cls t s) := by
  unfold declareClass
  dsimp -failIfUnchanged only
  repeat' (first
    | with_reducible exact Only.refl _ _
    | ((with_reducible refine (State.setSlot_only _ _ _).andThen ?_ ?_); exact rfl)
    | ((with_reducible refine (raise_only _ _ _ _).andThen ?_ ?_); exact rfl)
    | with_reducible refine Only.ite ?_ ?_
    | refine Only.ofMk rfl ?_)

theorem endClass_only (x t : Nat) (s : State) : Only [.audio, .link, .integ, .sec] s (endClass x t s) := by
  unfold endClass
  dsimp -failIfUnchanged only
  repeat' (first
    | with_reducible exact Only.refl _ _
    | ((with_reducible refine (State.setSlot_only _ _ _).andThen ?_ ?_); exact rfl)
    | ((with_reducible refine (raise_only _ _ _ _).andThen ?_ ?_); exact rfl)
    | with_reducible refine Only.ite ?_ ?_
    | refine Only.ofMk rfl ?_)

theorem judgeClass_only (x c : Nat) (s : State) : Only [.audio, .link, .integ, .sec] s (judgeClass x c s) := by
  unfold judgeClass
  dsimp -failIfUnchanged only
  repeat' (first
    | with_reducible exact Only.refl _ _
    | ((with_reducible refine (declareClass_only _ _ _ _).andThen ?_ ?_); exact rfl)
    | ((with_reducible refine (endClass_only _ _ _).andThen ?_ ?_); exact rfl)
    | ((with_reducible refine (State.setSlot_only _ _ _).andThen ?_ ?_); exact rfl)
    | with_reducible refine Only.ite ?_ ?_
    | refine Only.ofMk rfl ?_)

theorem judgeWindow_only (x t1 : Nat) (s : State) : Only [.audio, .link, .integ, .sec] s (judgeWindow x t1 s) := by
  unfold judgeWindow
  cases s.classHeard x t1 with
  | none => exact Only.refl _ _
  | some c => exact judgeClass_only _ _ _

theorem execClassifierWindow_frames (x : Nat) (air : Air) (s : State) : Frames [.audio, .link, .integ, .sec] s (execClassifierWindow x air s) := by
  unfold execClassifierWindow
  refine Frames.onlyIf fun _ => ?_
  refine (judgeWindow_only _ _ _).andThen rfl ((State.setSlot_only _ _ _).andThen rfl ?_)
  exact (hearSlot_only _ _ _ _).mono rfl

theorem execNonAudioMuteEnd_frames (x : Nat) (s : State) : Frames [.audio] s (execNonAudioMuteEnd x s) := by
  unfold execNonAudioMuteEnd
  dsimp -failIfUnchanged only
  repeat' (first
    | with_reducible exact Only.refl _ _
    | ((with_reducible refine Frames.onlyIf ?_); intro hg)
    | with_reducible refine Frames.next ?_
    | ((with_reducible refine (State.setSlot_only _ _ _).andThen ?_ ?_); exact rfl)
    | split
    | refine Only.ofMk rfl ?_)

theorem execAccessUnitReceived_frames (k : Nat) (s : State) : Frames [.audio, .link, .integ, .sec] s (execAccessUnitReceived k s) := by
  unfold execAccessUnitReceived
  dsimp -failIfUnchanged only
  repeat' (first
    | with_reducible exact Only.refl _ _
    | ((with_reducible refine Frames.onlyIf ?_); intro hg)
    | with_reducible refine Frames.next ?_
    | ((with_reducible refine (State.setContext_only _ _ _).andThen ?_ ?_); exact rfl)
    | ((with_reducible refine (raise_only _ _ _ _).andThen ?_ ?_); exact rfl)
    | with_reducible refine Only.ite ?_ ?_
    | split
    | refine Only.ofMk rfl ?_)

theorem execAuDue_frames (k : Nat) (finished : Bool) (s : State) : Frames [.audio, .link, .integ, .sec] s (execAuDue k finished s) := by
  unfold execAuDue
  dsimp -failIfUnchanged only
  repeat' (first
    | with_reducible exact Only.refl _ _
    | ((with_reducible refine Frames.onlyIf ?_); intro hg)
    | with_reducible refine Frames.next ?_
    | ((with_reducible refine (State.setContext_only _ _ _).andThen ?_ ?_); exact rfl)
    | ((with_reducible refine (State.setSlot_only _ _ _).andThen ?_ ?_); exact rfl)
    | ((with_reducible refine (declareClass_only _ _ _ _).andThen ?_ ?_); exact rfl)
    | with_reducible refine Only.ite ?_ ?_
    | split
    | refine Only.ofMk rfl ?_)

theorem execRateFollowerUpdate_frames (k : Nat) (s : State) : Frames [.audio] s (execRateFollowerUpdate k s) := by
  unfold execRateFollowerUpdate
  dsimp -failIfUnchanged only
  repeat' (first
    | with_reducible exact Only.refl _ _
    | ((with_reducible refine Frames.onlyIf ?_); intro hg)
    | with_reducible refine Frames.next ?_
    | ((with_reducible refine (State.setContext_only _ _ _).andThen ?_ ?_); exact rfl)
    | with_reducible refine Only.ite ?_ ?_
    | split
    | refine Only.ofMk rfl ?_)

theorem execSlotResync_frames (k : Nat) (s : State) : Frames [.audio, .link, .integ, .sec] s (execSlotResync k s) := by
  unfold execSlotResync
  dsimp -failIfUnchanged only
  repeat' (first
    | with_reducible exact Only.refl _ _
    | ((with_reducible refine Frames.onlyIf ?_); intro hg)
    | with_reducible refine Frames.next ?_
    | ((with_reducible refine (State.setContext_only _ _ _).andThen ?_ ?_); exact rfl)
    | ((with_reducible refine (State.setSlot_only _ _ _).andThen ?_ ?_); exact rfl)
    | ((with_reducible refine (raise_only _ _ _ _).andThen ?_ ?_); exact rfl)
    | split
    | refine Only.ofMk rfl ?_)

theorem loudNote_only (x t : Nat) (s : State) : Only [.sec] s (loudNote x t s) := by
  unfold loudNote
  dsimp -failIfUnchanged only
  repeat' (first
    | with_reducible exact Only.refl _ _
    | ((with_reducible refine (note_only _ _).andThen ?_ ?_); exact rfl)
    | with_reducible refine Only.ite ?_ ?_
    | refine Only.ofMk rfl ?_)

theorem execLoudnessBlock_frames (x : Nat) (air : Air) (s : State) : Frames [.audio, .sec] s (execLoudnessBlock x air s) := by
  unfold execLoudnessBlock
  refine Frames.onlyIf fun _ => ?_
  refine (loudNote_only _ _ _).andThen rfl ((State.setSlot_only _ _ _).andThen rfl ?_)
  exact (State.setSlot_only _ _ _).andThen rfl ((hearSlot_only _ _ _ _).mono rfl)

theorem judgeSilence_only (x t0 t1 : Nat) (s : State) : Only [.audio, .link, .integ, .sec] s (judgeSilence x t0 t1 s) := by
  unfold judgeSilence
  dsimp -failIfUnchanged only
  repeat' (first
    | with_reducible exact Only.refl _ _
    | ((with_reducible refine (State.setSlot_only _ _ _).andThen ?_ ?_); exact rfl)
    | ((with_reducible refine (note_only _ _).andThen ?_ ?_); exact rfl)
    | ((with_reducible refine (raise_only _ _ _ _).andThen ?_ ?_); exact rfl)
    | with_reducible refine Only.ite ?_ ?_
    | split
    | refine Only.ofMk rfl ?_)

theorem execSilenceWindow_frames (x : Nat) (air : Air) (s : State) : Frames [.audio, .link, .integ, .sec] s (execSilenceWindow x air s) := by
  unfold execSilenceWindow
  dsimp -failIfUnchanged only
  repeat' (first
    | with_reducible exact Only.refl _ _
    | ((with_reducible refine Frames.onlyIf ?_); intro hg)
    | with_reducible refine Frames.next ?_
    | ((with_reducible refine (State.setSlot_only _ _ _).andThen ?_ ?_); exact rfl)
    | ((with_reducible refine (hearSlot_only _ _ _ _).andThen ?_ ?_); exact rfl)
    | ((with_reducible refine (judgeSilence_only _ _ _ _).andThen ?_ ?_); exact rfl)
    | refine Only.ofMk rfl ?_)

theorem judgeMatch_only (x : Nat) (q : MatchEst) (s : State) : Only [.audio, .link, .integ, .sec] s (judgeMatch x q s) := by
  unfold judgeMatch
  dsimp -failIfUnchanged only
  repeat' (first
    | with_reducible exact Only.refl _ _
    | ((with_reducible refine (raise_only _ _ _ _).andThen ?_ ?_); exact rfl)
    | ((with_reducible refine (State.setSlot_only _ _ _).andThen ?_ ?_); exact rfl)
    | with_reducible refine Only.ite ?_ ?_
    | refine Only.ofMk rfl ?_)

theorem judgeEstimate_only (air : Air) (x t1 : Nat) (s : State) : Only [.audio, .link, .integ, .sec] s (judgeEstimate air x t1 s) := by
  unfold judgeEstimate
  cases s.matchFound air x t1 with
  | none => exact (State.setSlot_only _ _ _).mono rfl
  | some q => exact judgeMatch_only _ _ _

theorem execMatchEstimate_frames (x : Nat) (air : Air) (s : State) : Frames [.audio, .link, .integ, .sec] s (execMatchEstimate x air s) := by
  unfold execMatchEstimate
  refine Frames.onlyIf fun _ => ?_
  refine (judgeEstimate_only _ _ _ _).andThen rfl ((State.setSlot_only _ _ _).andThen rfl ?_)
  exact (hearSlot_only _ _ _ _).mono rfl

theorem execSlotMeasPeriodEnd_frames (x : Nat) (air : Air) (late : Bool) (s : State) : Frames [.audio, .link, .sec] s (execSlotMeasPeriodEnd x air late s) := by
  unfold execSlotMeasPeriodEnd
  dsimp -failIfUnchanged only
  repeat' (first
    | with_reducible exact Only.refl _ _
    | ((with_reducible refine Frames.onlyIf ?_); intro hg)
    | with_reducible refine Frames.next ?_
    | ((with_reducible refine (State.setSlot_only _ _ _).andThen ?_ ?_); exact rfl)
    | ((with_reducible refine (formRouted_only _ _ _ _).andThen ?_ ?_); exact rfl)
    | ((with_reducible refine (hearSlot_only _ _ _ _).andThen ?_ ?_); exact rfl)
    | ((with_reducible refine (note_only _ _).andThen ?_ ?_); exact rfl)
    | with_reducible refine Only.ite ?_ ?_
    | refine Only.ofMk rfl ?_)

theorem takeMask_only (r t0 : Nat) (s : State) : Only [.link, .integ, .sec] s (takeMask r t0 s) := by
  unfold takeMask
  dsimp -failIfUnchanged only
  repeat' (first
    | with_reducible exact Only.refl _ _
    | ((with_reducible refine (State.setRing_only _ _ _).andThen ?_ ?_); exact rfl)
    | ((with_reducible refine (raise_only _ _ _ _).andThen ?_ ?_); exact rfl)
    | with_reducible refine Only.ite ?_ ?_
    | split
    | refine Only.ofMk rfl ?_)

theorem execPcmBlockFormed_frames (r t0 : Nat) (air : Air) (old : Bool) (s : State) : Frames [.taps, .audio, .link, .integ, .sec] s (execPcmBlockFormed r t0 air old s) := by
  unfold execPcmBlockFormed
  dsimp -failIfUnchanged only
  repeat' (first
    | with_reducible exact Only.refl _ _
    | ((with_reducible refine Frames.onlyIf ?_); intro hg)
    | with_reducible refine Frames.next ?_
    | ((with_reducible refine (State.beforeEdge_only _ _).andThen ?_ ?_); exact rfl)
    | ((with_reducible refine (State.setRing_only _ _ _).andThen ?_ ?_); exact rfl)
    | ((with_reducible refine (State.setSlot_only _ _ _).andThen ?_ ?_); exact rfl)
    | ((with_reducible refine (formBlock_only _ _ _).andThen ?_ ?_); exact rfl)
    | ((with_reducible refine (takeMask_only _ _ _).andThen ?_ ?_); exact rfl)
    | ((with_reducible refine Only.foldlFrom ?_ ?_); intro _ _)
    | with_reducible refine Only.ite ?_ ?_
    | split
    | refine Only.ofMk rfl ?_)

theorem retireAudio_only (u : UnitRef) (s : State) : Only [.spans, .link, .integ, .mode, .sec, .nv, .modeCode] s (retireAudio u s) := by
  unfold retireAudio
  dsimp -failIfUnchanged only
  repeat' (first
    | with_reducible exact Only.refl _ _
    | ((with_reducible refine (raise_only _ _ _ _).andThen ?_ ?_); exact rfl)
    | ((with_reducible refine (refresh_only _).andThen ?_ ?_); exact rfl)
    | ((with_reducible refine (retireUnit_only _ _).andThen ?_ ?_); exact rfl)
    | with_reducible refine Only.ite ?_ ?_
    | refine Only.ofMk rfl ?_)

theorem execSlotKat_frames (context : Bool) (i : Nat) (fails repeatFails : Bool) (s : State) : Frames [.spans, .link, .integ, .mode, .sec, .nv, .modeCode] s (execSlotKat context i fails repeatFails s) := by
  unfold execSlotKat
  dsimp -failIfUnchanged only
  repeat' (first
    | with_reducible exact Only.refl _ _
    | ((with_reducible refine Frames.onlyIf ?_); intro hg)
    | with_reducible refine Frames.next ?_
    | ((with_reducible refine (retireAudio_only _ _).andThen ?_ ?_); exact rfl)
    | with_reducible refine Only.ite ?_ ?_
    | refine Only.ofMk rfl ?_)

/-! ### Ports -/

theorem execPortStartTick_frames (p : PortId) (s : State) : Frames [.ports, .link, .mb] s (execPortStartTick p s) := by
  unfold execPortStartTick
  dsimp -failIfUnchanged only
  repeat' (first
    | with_reducible exact Only.refl _ _
    | ((with_reducible refine Frames.onlyIf ?_); intro hg)
    | with_reducible refine Frames.next ?_
    | ((with_reducible refine (State.setPort_only _ _ _).andThen ?_ ?_); exact rfl)
    | ((with_reducible refine (beginPreRoll_only _ _ _ _).andThen ?_ ?_); exact rfl)
    | ((with_reducible refine (completeWait_only _ _ _ _).andThen ?_ ?_); exact rfl)
    | with_reducible refine Only.ite ?_ ?_
    | split
    | refine Only.ofMk rfl ?_)

theorem execPortPrerollEnd_frames (p : PortId) (s : State) : Frames [.ports, .link, .integ, .sec] s (execPortPrerollEnd p s) := by
  unfold execPortPrerollEnd
  dsimp -failIfUnchanged only
  repeat' (first
    | with_reducible exact Only.refl _ _
    | ((with_reducible refine Frames.onlyIf ?_); intro hg)
    | with_reducible refine Frames.next ?_
    | ((with_reducible refine (State.setPort_only _ _ _).andThen ?_ ?_); exact rfl)
    | ((with_reducible refine (raise_only _ _ _ _).andThen ?_ ?_); exact rfl)
    | ((with_reducible refine (seeUnits_only _).andThen ?_ ?_); exact rfl)
    | with_reducible refine Only.ite ?_ ?_
    | refine Only.ofMk rfl ?_)

theorem execPortStopTick_frames (p : PortId) (s : State) : Frames [.ports, .link, .integ, .mb, .sec] s (execPortStopTick p s) := by
  unfold execPortStopTick
  dsimp -failIfUnchanged only
  repeat' (first
    | with_reducible exact Only.refl _ _
    | ((with_reducible refine Frames.onlyIf ?_); intro hg)
    | with_reducible refine Frames.next ?_
    | ((with_reducible refine (State.setPort_only _ _ _).andThen ?_ ?_); exact rfl)
    | ((with_reducible refine (completeWait_only _ _ _ _).andThen ?_ ?_); exact rfl)
    | ((with_reducible refine (stopPortAt_only _ _ _).andThen ?_ ?_); exact rfl)
    | split
    | refine Only.ofMk rfl ?_)

theorem execPortPostrollEnd_frames (p : PortId) (s : State) : Frames [.clk, .spans, .ports, .link, .integ, .domains, .sec] s (execPortPostrollEnd p s) := by
  unfold execPortPostrollEnd
  dsimp -failIfUnchanged only
  repeat' (first
    | with_reducible exact Only.refl _ _
    | ((with_reducible refine Frames.onlyIf ?_); intro hg)
    | with_reducible refine Frames.next ?_
    | ((with_reducible refine (domainOff_only _ _ _).andThen ?_ ?_); exact rfl)
    | ((with_reducible refine (stopPort_only _ _ _ _ _).andThen ?_ ?_); exact rfl)
    | with_reducible refine Only.ite ?_ ?_
    | refine Only.ofMk rfl ?_)

theorem checkLine_only (d : Nat) (diffs : List Nat) (s : State) (i : Nat) : Only [.ports, .link, .integ, .sec] s (checkLine d diffs s i) := by
  unfold checkLine
  dsimp -failIfUnchanged only
  repeat' (first
    | with_reducible exact Only.refl _ _
    | ((with_reducible refine (State.setPort_only _ _ _).andThen ?_ ?_); exact rfl)
    | ((with_reducible refine (raise_only _ _ _ _).andThen ?_ ?_); exact rfl)
    | with_reducible refine Only.ite ?_ ?_
    | refine Only.ofMk rfl ?_)

theorem endUnderrun_only (p : PortId) (s : State) : Only [.ports, .link, .integ, .sec] s (endUnderrun p s) := by
  unfold endUnderrun
  dsimp -failIfUnchanged only
  repeat' (first
    | with_reducible exact Only.refl _ _
    | ((with_reducible refine (State.setPort_only _ _ _).andThen ?_ ?_); exact rfl)
    | ((with_reducible refine (raise_only _ _ _ _).andThen ?_ ?_); exact rfl)
    | split
    | refine Only.ofMk rfl ?_)

theorem execPortFrameStart_frames (d : Nat) (air : Air) (present : Bool) (late : Nat) (diffs : List Nat) (s : State) : Frames [.ports, .link, .integ, .sec] s (execPortFrameStart d air present late diffs s) := by
  unfold execPortFrameStart
  dsimp -failIfUnchanged only
  repeat' (first
    | with_reducible exact Only.refl _ _
    | ((with_reducible refine Frames.onlyIf ?_); intro hg)
    | with_reducible refine Frames.next ?_
    | ((with_reducible refine (State.setPort_only _ _ _).andThen ?_ ?_); exact rfl)
    | ((with_reducible refine (checkLine_only _ _ _ _).andThen ?_ ?_); exact rfl)
    | ((with_reducible refine (endUnderrun_only _ _).andThen ?_ ?_); exact rfl)
    | ((with_reducible refine (raise_only _ _ _ _).andThen ?_ ?_); exact rfl)
    | ((with_reducible refine (send_only _ _).andThen ?_ ?_); exact rfl)
    | ((with_reducible refine Only.foldlFrom ?_ ?_); intro _ _)
    | with_reducible refine Only.ite ?_ ?_
    | split
    | refine Only.ofMk rfl ?_)

theorem slipPort_only (p : PortId) (behind : Bool) (s : State) : Only [.ports, .link, .integ, .sec] s (slipPort p behind s) := by
  unfold slipPort
  dsimp -failIfUnchanged only
  repeat' (first
    | with_reducible exact Only.refl _ _
    | ((with_reducible refine (State.setPort_only _ _ _).andThen ?_ ?_); exact rfl)
    | ((with_reducible refine (raise_only _ _ _ _).andThen ?_ ?_); exact rfl)
    | with_reducible refine Only.ite ?_ ?_
    | refine Only.ofMk rfl ?_)

theorem execPortFollowerUpdate_frames (p : PortId) (err : Int) (s : State) : Frames [.ports, .link, .integ, .sec] s (execPortFollowerUpdate p err s) := by
  unfold execPortFollowerUpdate
  dsimp -failIfUnchanged only
  repeat' (first
    | with_reducible exact Only.refl _ _
    | ((with_reducible refine Frames.onlyIf ?_); intro hg)
    | with_reducible refine Frames.next ?_
    | ((with_reducible refine (State.setPort_only _ _ _).andThen ?_ ?_); exact rfl)
    | ((with_reducible refine (slipPort_only _ _ _).andThen ?_ ?_); exact rfl)
    | with_reducible refine Only.ite ?_ ?_
    | split
    | refine Only.ofMk rfl ?_)

theorem execPortLeaveFollower_frames (p : PortId) (s : State) : Frames [.ports] s (execPortLeaveFollower p s) := by
  unfold execPortLeaveFollower
  dsimp -failIfUnchanged only
  repeat' (first
    | with_reducible exact Only.refl _ _
    | ((with_reducible refine Frames.onlyIf ?_); intro hg)
    | with_reducible refine Frames.next ?_
    | ((with_reducible refine (State.setPort_only _ _ _).andThen ?_ ?_); exact rfl)
    | refine Only.ofMk rfl ?_)

theorem checkQuiet_only (d : Nat) (moved : List Bool) (s : State) (i : Nat) : Only [.ports, .link, .integ, .sec] s (checkQuiet d moved s i) := by
  unfold checkQuiet
  dsimp -failIfUnchanged only
  repeat' (first
    | with_reducible exact Only.refl _ _
    | ((with_reducible refine (State.setPort_only _ _ _).andThen ?_ ?_); exact rfl)
    | ((with_reducible refine (raise_only _ _ _ _).andThen ?_ ?_); exact rfl)
    | with_reducible refine Only.ite ?_ ?_
    | split
    | refine Only.ofMk rfl ?_)

theorem execInputFrameReceived_frames (d : Nat) (frame : Int) (air : Air) (s : State) : Frames [.ports, .link, .integ, .sec] s (execInputFrameReceived d frame air s) := by
  unfold execInputFrameReceived
  dsimp -failIfUnchanged only
  repeat' (first
    | with_reducible exact Only.refl _ _
    | ((with_reducible refine Frames.onlyIf ?_); intro hg)
    | with_reducible refine Frames.next ?_
    | ((with_reducible refine (State.setPort_only _ _ _).andThen ?_ ?_); exact rfl)
    | ((with_reducible refine (checkQuiet_only _ _ _ _).andThen ?_ ?_); exact rfl)
    | ((with_reducible refine Only.foldlFrom ?_ ?_); intro _ _)
    | refine Only.ofMk rfl ?_)

theorem execInputBlockFormed_frames (d : Nat) (air : Air) (s : State) : Frames [.ports, .link, .sec] s (execInputBlockFormed d air s) := by
  unfold execInputBlockFormed
  dsimp -failIfUnchanged only
  repeat' (first
    | with_reducible exact Only.refl _ _
    | ((with_reducible refine Frames.onlyIf ?_); intro hg)
    | with_reducible refine Frames.next ?_
    | ((with_reducible refine (State.setPort_only _ _ _).andThen ?_ ?_); exact rfl)
    | ((with_reducible refine (formRouted_only _ _ _ _).andThen ?_ ?_); exact rfl)
    | ((with_reducible refine (note_only _ _).andThen ?_ ?_); exact rfl)
    | ((with_reducible refine Only.foldlFrom ?_ ?_); intro _ _)
    | with_reducible refine Only.ite ?_ ?_
    | split
    | refine Only.ofMk rfl ?_)

theorem onAmclkPorts_only {as : List Aspect} (d : Nat) (f : PortId → State → State) (s : State) (h : ∀ p t, Only as t (f p t)) :
    Only as s (onAmclkPorts d f s) := by
  unfold onAmclkPorts
  refine Only.foldl (fun t p => ?_) _ _
  split
  · exact h p t
  · exact Only.refl _ _

theorem freezePort_only (p : PortId) (s : State) : Only [.ports, .link, .integ, .sec] s (freezePort p s) := by
  unfold freezePort
  dsimp -failIfUnchanged only
  repeat' (first
    | with_reducible exact Only.refl _ _
    | ((with_reducible refine (State.setPort_only _ _ _).andThen ?_ ?_); exact rfl)
    | ((with_reducible refine (raise_only _ _ _ _).andThen ?_ ?_); exact rfl)
    | ((with_reducible refine (stopPort_only _ _ _ _ _).andThen ?_ ?_); exact rfl)
    | split
    | refine Only.ofMk rfl ?_)

theorem execAmclkStop_frames (d : Nat) (s : State) : Frames [.ports, .link, .integ, .sec] s (execAmclkStop d s) := by
  unfold execAmclkStop
  dsimp -failIfUnchanged only
  repeat' (first
    | with_reducible exact Only.refl _ _
    | ((with_reducible refine Frames.onlyIf ?_); intro hg)
    | with_reducible refine Frames.next ?_
    | ((with_reducible refine (State.setAmclk_only _ _ _).andThen ?_ ?_); exact rfl)
    | ((with_reducible refine (freezePort_only _ _).andThen ?_ ?_); exact rfl)
    | ((with_reducible refine Only.trans ?_ (onAmclkPorts_only _ _ _ ?_)); (rotate_left; intro p t))
    | ((with_reducible refine (raise_only _ _ _ _).andThen ?_ ?_); exact rfl)
    | refine Only.ofMk rfl ?_)

theorem execAmclkQualified_frames (d freq : Nat) (s : State) : Frames [.ports, .link, .integ, .sec] s (execAmclkQualified d freq s) := by
  unfold execAmclkQualified
  dsimp -failIfUnchanged only
  repeat' (first
    | with_reducible exact Only.refl _ _
    | ((with_reducible refine Frames.onlyIf ?_); intro hg)
    | with_reducible refine Frames.next ?_
    | ((with_reducible refine (State.setAmclk_only _ _ _).andThen ?_ ?_); exact rfl)
    | ((with_reducible refine (raise_only _ _ _ _).andThen ?_ ?_); exact rfl)
    | with_reducible refine Only.ite ?_ ?_
    | refine Only.ofMk rfl ?_)

theorem execPortResume_frames (p : PortId) (s : State) : Frames [.ports] s (execPortResume p s) := by
  unfold execPortResume
  dsimp -failIfUnchanged only
  repeat' (first
    | with_reducible exact Only.refl _ _
    | ((with_reducible refine Frames.onlyIf ?_); intro hg)
    | with_reducible refine Frames.next ?_
    | ((with_reducible refine (State.setPort_only _ _ _).andThen ?_ ?_); exact rfl)
    | ((with_reducible refine (beginPreRoll_only _ _ _ _).andThen ?_ ?_); exact rfl)
    | refine Only.ofMk rfl ?_)

theorem rateChangePort_only (new : Option Nat) (p : PortId) (s : State) : Only [.ports, .link, .integ, .sec] s (rateChangePort new p s) := by
  unfold rateChangePort
  dsimp -failIfUnchanged only
  repeat' (first
    | with_reducible exact Only.refl _ _
    | ((with_reducible refine (State.setPort_only _ _ _).andThen ?_ ?_); exact rfl)
    | ((with_reducible refine (stopPort_only _ _ _ _ _).andThen ?_ ?_); exact rfl)
    | with_reducible refine Only.ite ?_ ?_
    | split
    | refine Only.ofMk rfl ?_)

theorem execAmclkBlockRate_frames (d freq : Nat) (s : State) : Frames [.ports, .link, .integ, .sec] s (execAmclkBlockRate d freq s) := by
  unfold execAmclkBlockRate
  dsimp -failIfUnchanged only
  repeat' (first
    | with_reducible exact Only.refl _ _
    | ((with_reducible refine Frames.onlyIf ?_); intro hg)
    | with_reducible refine Frames.next ?_
    | ((with_reducible refine (State.setAmclk_only _ _ _).andThen ?_ ?_); exact rfl)
    | ((with_reducible refine Only.trans ?_ (onAmclkPorts_only _ _ _ ?_)); (rotate_left; intro p t))
    | ((with_reducible refine (raise_only _ _ _ _).andThen ?_ ?_); exact rfl)
    | ((with_reducible refine (rateChangePort_only _ _ _).andThen ?_ ?_); exact rfl)
    | with_reducible refine Only.ite ?_ ?_
    | refine Only.ofMk rfl ?_)

theorem execPortRateSwitch_frames (p : PortId) (s : State) : Frames [.ports] s (execPortRateSwitch p s) := by
  unfold execPortRateSwitch
  dsimp -failIfUnchanged only
  repeat' (first
    | with_reducible exact Only.refl _ _
    | ((with_reducible refine Frames.onlyIf ?_); intro hg)
    | with_reducible refine Frames.next ?_
    | ((with_reducible refine (State.setPort_only _ _ _).andThen ?_ ?_); exact rfl)
    | split
    | refine Only.ofMk rfl ?_)

theorem execAmclkGlitches_frames (d count : Nat) (s : State) : Frames [.ports, .link, .integ, .sec] s (execAmclkGlitches d count s) := by
  unfold execAmclkGlitches
  dsimp -failIfUnchanged only
  repeat' (first
    | with_reducible exact Only.refl _ _
    | ((with_reducible refine Frames.onlyIf ?_); intro hg)
    | with_reducible refine Frames.next ?_
    | ((with_reducible refine (State.setAmclk_only _ _ _).andThen ?_ ?_); exact rfl)
    | ((with_reducible refine (raise_only _ _ _ _).andThen ?_ ?_); exact rfl)
    | refine Only.ofMk rfl ?_)

theorem execPortClearCounts_frames (p : PortId) (s : State) : Frames [.ports, .mode] s (execPortClearCounts p s) :=
  dieWrite_frames rfl (fun _ => (State.setAmclk_only _ _ _).andThen rfl ((State.setPort_only _ _ _).mono rfl)) _ _ _

/-! ### Clocks -/

theorem convertTemp2_only (d : Nat) (s : State) : Only [.mon] s (convertTemp2 d s) := by
  unfold convertTemp2
  dsimp -failIfUnchanged only
  repeat' (first
    | with_reducible exact Only.refl _ _
    | ((with_reducible refine (State.setMon_only _ _ _).andThen ?_ ?_); exact rfl)
    | with_reducible refine Only.ite ?_ ?_
    | split
    | refine Only.ofMk rfl ?_)

theorem sampCoastWork_only (d : Nat) (s : State) : Only [.front, .taps, .lanes, .link, .cal, .integ, .mb, .sec] s (sampCoastWork d s) := by
  unfold sampCoastWork
  dsimp -failIfUnchanged only
  repeat' (first
    | with_reducible exact Only.refl _ _
    | ((with_reducible refine (State.setCourse_only _ _ _).andThen ?_ ?_); exact rfl)
    | ((with_reducible refine (abortLevelStep_only _ _).andThen ?_ ?_); exact rfl)
    | ((with_reducible refine Only.foldlFrom ?_ ?_); intro _ _)
    | with_reducible refine Only.ite ?_ ?_
    | refine Only.ofMk rfl ?_)

theorem coastLoop_only (d : Nat) (l : DieLoop) (s : State) : Only [.clk, .spans, .front, .taps, .lanes, .ports, .link, .cal, .integ, .mb, .sec] s (coastLoop d l s) := by
  unfold coastLoop
  dsimp -failIfUnchanged only
  repeat' (first
    | with_reducible exact Only.refl _ _
    | ((with_reducible refine (State.setClk_only _ _ _).andThen ?_ ?_); exact rfl)
    | ((with_reducible refine (openSuspect_only _ _).andThen ?_ ?_); exact rfl)
    | ((with_reducible refine (portsToFollower_only _ _).andThen ?_ ?_); exact rfl)
    | ((with_reducible refine (sampCoastWork_only _ _).andThen ?_ ?_); exact rfl)
    | split
    | refine Only.ofMk rfl ?_)

theorem coastRef_only (s : State) : Only [.ref, .spans] s (coastRef s) := by
  unfold coastRef
  dsimp -failIfUnchanged only
  repeat' (first
    | with_reducible exact Only.refl _ _
    | ((with_reducible refine (openSuspect_only _ _).andThen ?_ ?_); exact rfl)
    | refine Only.ofMk rfl ?_)

theorem execRefinLoss_frames (s : State) : Frames [.ref, .spans, .link, .integ, .mode, .sec, .modeCode] s (execRefinLoss s) := by
  unfold execRefinLoss
  dsimp -failIfUnchanged only
  repeat' (first
    | with_reducible exact Only.refl _ _
    | ((with_reducible refine Frames.onlyIf ?_); intro hg)
    | with_reducible refine Frames.next ?_
    | ((with_reducible refine (coastRef_only _).andThen ?_ ?_); exact rfl)
    | ((with_reducible refine (raise_only _ _ _ _).andThen ?_ ?_); exact rfl)
    | ((with_reducible refine (refresh_only _).andThen ?_ ?_); exact rfl)
    | refine Only.ofMk rfl ?_)

theorem execRootLossAtDie_frames (d : Nat) (s : State) : Frames [.clk, .spans, .front, .taps, .lanes, .ports, .link, .cal, .integ, .mode, .mb, .sec, .modeCode] s (execRootLossAtDie d s) := by
  unfold execRootLossAtDie
  dsimp -failIfUnchanged only
  repeat' (first
    | with_reducible exact Only.refl _ _
    | ((with_reducible refine Frames.onlyIf ?_); intro hg)
    | with_reducible refine Frames.next ?_
    | ((with_reducible refine (State.setClk_only _ _ _).andThen ?_ ?_); exact rfl)
    | ((with_reducible refine (coastLoop_only _ _ _).andThen ?_ ?_); exact rfl)
    | ((with_reducible refine (refresh_only _).andThen ?_ ?_); exact rfl)
    | refine Only.ofMk rfl ?_)

theorem execLossOfLock_frames (l : LoopId) (s : State) : Frames [.ref, .clk, .spans, .front, .taps, .lanes, .ports, .link, .cal, .integ, .mode, .mb, .sec, .modeCode] s (execLossOfLock l s) := by
  unfold execLossOfLock
  dsimp -failIfUnchanged only
  repeat' (first
    | with_reducible exact Only.refl _ _
    | ((with_reducible refine Frames.onlyIf ?_); intro hg)
    | with_reducible refine Frames.next ?_
    | ((with_reducible refine (coastLoop_only _ _ _).andThen ?_ ?_); exact rfl)
    | ((with_reducible refine (coastRef_only _).andThen ?_ ?_); exact rfl)
    | ((with_reducible refine (countUnlock_only _ _ _).andThen ?_ ?_); exact rfl)
    | ((with_reducible refine (refresh_only _).andThen ?_ ?_); exact rfl)
    | split
    | refine Only.ofMk rfl ?_)

theorem execRelockAttempt_frames (l : LoopId) (phase : Int) (s : State) : Frames [.ref, .clk] s (execRelockAttempt l phase s) := by
  unfold execRelockAttempt
  dsimp -failIfUnchanged only
  repeat' (first
    | with_reducible exact Only.refl _ _
    | ((with_reducible refine Frames.onlyIf ?_); intro hg)
    | with_reducible refine Frames.next ?_
    | ((with_reducible refine (State.setClk_only _ _ _).andThen ?_ ?_); exact rfl)
    | split
    | refine Only.ofMk rfl ?_)

theorem incompleteHop_only (d : Nat) (s : State) : Only [.clk, .spans, .front, .taps, .link, .cfg, .cal, .integ, .mode, .domains, .mb, .sec, .modeCode] s (incompleteHop d s) := by
  unfold incompleteHop
  dsimp -failIfUnchanged only
  repeat' (first
    | with_reducible exact Only.refl _ _
    | ((with_reducible refine (State.setClk_only _ _ _).andThen ?_ ?_); exact rfl)
    | ((with_reducible refine (endHop_only _ _ _).andThen ?_ ?_); exact rfl)
    | ((with_reducible refine (failConverter_only _ _ _ _).andThen ?_ ?_); exact rfl)
    | refine Only.ofMk rfl ?_)

theorem endWaitIfHeld_only (d : Nat) (s : State) : Only [.clk, .spans, .front, .taps, .link, .cfg, .cal, .integ, .mode, .domains, .mb, .sec, .modeCode] s (endWaitIfHeld d s) := by
  unfold endWaitIfHeld
  dsimp -failIfUnchanged only
  repeat' (first
    | with_reducible exact Only.refl _ _
    | ((with_reducible refine (incompleteHop_only _ _).andThen ?_ ?_); exact rfl)
    | with_reducible refine Only.ite ?_ ?_
    | refine Only.ofMk rfl ?_)

theorem execRelockAttemptFailed_frames (l : LoopId) (s : State) : Frames [.ref, .clk, .spans, .front, .taps, .link, .cfg, .cal, .integ, .mode, .domains, .mb, .sec, .modeCode] s (execRelockAttemptFailed l s) := by
  unfold execRelockAttemptFailed
  dsimp -failIfUnchanged only
  repeat' (first
    | with_reducible exact Only.refl _ _
    | ((with_reducible refine Frames.onlyIf ?_); intro hg)
    | with_reducible refine Frames.next ?_
    | ((with_reducible refine (State.setClk_only _ _ _).andThen ?_ ?_); exact rfl)
    | ((with_reducible refine (coastRef_only _).andThen ?_ ?_); exact rfl)
    | ((with_reducible refine (countUnlock_only _ _ _).andThen ?_ ?_); exact rfl)
    | ((with_reducible refine (endWaitIfHeld_only _ _).andThen ?_ ?_); exact rfl)
    | ((with_reducible refine (refresh_only _).andThen ?_ ?_); exact rfl)
    | split
    | refine Only.ofMk rfl ?_)

theorem execRefinReturn_frames (phase : Int) (s : State) : Frames [.ref] s (execRefinReturn phase s) := by
  unfold execRefinReturn
  dsimp -failIfUnchanged only
  repeat' (first
    | with_reducible exact Only.refl _ _
    | ((with_reducible refine Frames.onlyIf ?_); intro hg)
    | with_reducible refine Frames.next ?_
    | refine Only.ofMk rfl ?_)

theorem raiseReturns_only (phases : List Int) (diff : Int) (s : State) : Only [.link, .integ, .sec] s (raiseReturns phases diff s) := by
  unfold raiseReturns
  dsimp -failIfUnchanged only
  repeat' (first
    | with_reducible exact Only.refl _ _
    | ((with_reducible refine (raise_only _ _ _ _).andThen ?_ ?_); exact rfl)
    | ((with_reducible refine Only.foldlFrom ?_ ?_); intro _ _)
    | refine Only.ofMk rfl ?_)

theorem relockRef_only (s : State) : Only [.ref, .clk, .spans, .link, .integ, .sec] s (relockRef s) := by
  unfold relockRef
  dsimp -failIfUnchanged only
  repeat' (first
    | with_reducible exact Only.refl _ _
    | ((with_reducible refine (closeSuspect_only _ _).andThen ?_ ?_); exact rfl)
    | ((with_reducible refine (raiseReturns_only _ _ _).andThen ?_ ?_); exact rfl)
    | with_reducible refine Only.ite ?_ ?_
    | refine Only.ofMk rfl ?_)

theorem relockLoop_only (d : Nat) (l : DieLoop) (temp : Int) (band : Nat) (s : State) : Only [.clk, .spans, .link, .mon, .integ, .sec] s (relockLoop d l temp band s) := by
  unfold relockLoop
  dsimp -failIfUnchanged only
  repeat' (first
    | with_reducible exact Only.refl _ _
    | ((with_reducible refine (State.setClk_only _ _ _).andThen ?_ ?_); exact rfl)
    | ((with_reducible refine (closeSuspect_only _ _).andThen ?_ ?_); exact rfl)
    | ((with_reducible refine (convertTemp2_only _ _).andThen ?_ ?_); exact rfl)
    | ((with_reducible refine (raise_only _ _ _ _).andThen ?_ ?_); exact rfl)
    | with_reducible refine Only.ite ?_ ?_
    | split
    | refine Only.ofMk rfl ?_)

theorem execPllRelock_frames (l : LoopId) (temp : Int) (band : Nat) (s : State) : Frames [.ref, .clk, .spans, .link, .mon, .integ, .mode, .sec, .modeCode] s (execPllRelock l temp band s) := by
  unfold execPllRelock
  dsimp -failIfUnchanged only
  repeat' (first
    | with_reducible exact Only.refl _ _
    | ((with_reducible refine Frames.onlyIf ?_); intro hg)
    | with_reducible refine Frames.next ?_
    | ((with_reducible refine (refresh_only _).andThen ?_ ?_); exact rfl)
    | ((with_reducible refine (relockLoop_only _ _ _ _ _).andThen ?_ ?_); exact rfl)
    | ((with_reducible refine (relockRef_only _).andThen ?_ ?_); exact rfl)
    | split
    | refine Only.ofMk rfl ?_)

theorem execRefReturnTimeout_frames (s : State) : Frames [.ref, .link, .integ, .sec] s (execRefReturnTimeout s) := by
  unfold execRefReturnTimeout
  dsimp -failIfUnchanged only
  repeat' (first
    | with_reducible exact Only.refl _ _
    | ((with_reducible refine Frames.onlyIf ?_); intro hg)
    | with_reducible refine Frames.next ?_
    | ((with_reducible refine (raiseReturns_only _ _ _).andThen ?_ ?_); exact rfl)
    | split
    | refine Only.ofMk rfl ?_)

theorem execRootReturnAtDie_frames (d : Nat) (phases : List Int) (s : State) : Frames [.clk] s (execRootReturnAtDie d phases s) := by
  unfold execRootReturnAtDie
  dsimp -failIfUnchanged only
  repeat' (first
    | with_reducible exact Only.refl _ _
    | ((with_reducible refine Frames.onlyIf ?_); intro hg)
    | with_reducible refine Frames.next ?_
    | ((with_reducible refine (State.setClk_only _ _ _).andThen ?_ ?_); exact rfl)
    | with_reducible refine Only.ite ?_ ?_
    | split
    | refine Only.ofMk rfl ?_)

theorem execSampDriftEval_frames (d : Nat) (drift : Int) (s : State) : Frames [.clk, .link, .integ, .sec] s (execSampDriftEval d drift s) := by
  unfold execSampDriftEval
  dsimp -failIfUnchanged only
  repeat' (first
    | with_reducible exact Only.refl _ _
    | ((with_reducible refine Frames.onlyIf ?_); intro hg)
    | with_reducible refine Frames.next ?_
    | ((with_reducible refine (State.setClk_only _ _ _).andThen ?_ ?_); exact rfl)
    | ((with_reducible refine (raise_only _ _ _ _).andThen ?_ ?_); exact rfl)
    | with_reducible refine Only.ite ?_ ?_
    | refine Only.ofMk rfl ?_)

theorem execSysDriftEval_frames (d : Nat) (drift : Int) (s : State) : Frames [.clk, .spans, .taps, .link, .integ, .sec] s (execSysDriftEval d drift s) := by
  unfold execSysDriftEval
  dsimp -failIfUnchanged only
  repeat' (first
    | with_reducible exact Only.refl _ _
    | ((with_reducible refine Frames.onlyIf ?_); intro hg)
    | with_reducible refine Frames.next ?_
    | ((with_reducible refine (State.setClk_only _ _ _).andThen ?_ ?_); exact rfl)
    | ((with_reducible refine (matchZeroSpans_only _ _).andThen ?_ ?_); exact rfl)
    | ((with_reducible refine (openSuspect_only _ _).andThen ?_ ?_); exact rfl)
    | ((with_reducible refine (raise_only _ _ _ _).andThen ?_ ?_); exact rfl)
    | with_reducible refine Only.ite ?_ ?_
    | split
    | refine Only.ofMk rfl ?_)

theorem execCoreRestored_frames (d : Nat) (s : State) : Frames [.clk, .spans, .taps, .link, .integ, .sec] s (execCoreRestored d s) := by
  unfold execCoreRestored
  dsimp -failIfUnchanged only
  repeat' (first
    | with_reducible exact Only.refl _ _
    | ((with_reducible refine Frames.onlyIf ?_); intro hg)
    | with_reducible refine Frames.next ?_
    | ((with_reducible refine (State.setClk_only _ _ _).andThen ?_ ?_); exact rfl)
    | ((with_reducible refine (closeSuspect_only _ _).andThen ?_ ?_); exact rfl)
    | ((with_reducible refine (matchZeroSpans_only _ _).andThen ?_ ?_); exact rfl)
    | ((with_reducible refine (raise_only _ _ _ _).andThen ?_ ?_); exact rfl)
    | split
    | refine Only.ofMk rfl ?_)

theorem idle_only (s : State) : Only [.time, .clk, .systime] s (idle s) := by
  unfold idle
  dsimp -failIfUnchanged only
  repeat' (first
    | with_reducible exact Only.refl _ _
    | with_reducible refine Only.ite ?_ ?_
    | refine Only.ofMk rfl ?_)

theorem execSystimeCompare_frames (d : Nat) (s : State) : Frames [.clk, .spans, .link, .integ, .mode, .sec, .modeCode] s (execSystimeCompare d s) := by
  unfold execSystimeCompare
  dsimp -failIfUnchanged only
  repeat' (first
    | with_reducible exact Only.refl _ _
    | ((with_reducible refine Frames.onlyIf ?_); intro hg)
    | with_reducible refine Frames.next ?_
    | ((with_reducible refine (State.setClk_only _ _ _).andThen ?_ ?_); exact rfl)
    | ((with_reducible refine (openSuspect_only _ _).andThen ?_ ?_); exact rfl)
    | ((with_reducible refine (raise_only _ _ _ _).andThen ?_ ?_); exact rfl)
    | ((with_reducible refine (refresh_only _).andThen ?_ ?_); exact rfl)
    | split
    | refine Only.ofMk rfl ?_)

theorem execReplicaReload_frames (d : Nat) (s : State) : Frames [.clk, .spans, .taps, .ports, .link, .integ, .mode, .sec, .modeCode] s (execReplicaReload d s) := by
  unfold execReplicaReload
  dsimp -failIfUnchanged only
  repeat' (first
    | with_reducible exact Only.refl _ _
    | ((with_reducible refine Frames.onlyIf ?_); intro hg)
    | with_reducible refine Frames.next ?_
    | ((with_reducible refine (State.setClk_only _ _ _).andThen ?_ ?_); exact rfl)
    | ((with_reducible refine (closeSuspect_only _ _).andThen ?_ ?_); exact rfl)
    | ((with_reducible refine (dieReload_only _ _).andThen ?_ ?_); exact rfl)
    | ((with_reducible refine (refresh_only _).andThen ?_ ?_); exact rfl)
    | ((with_reducible refine (reloadPorts_only _ _).andThen ?_ ?_); exact rfl)
    | split
    | refine Only.ofMk rfl ?_)

theorem passSync_only (s : State) : Only [.link] s (passSync s) := by
  unfold passSync
  dsimp -failIfUnchanged only
  repeat' (first
    | with_reducible exact Only.refl _ _
    | ((with_reducible refine (send_only _ _).andThen ?_ ?_); exact rfl)
    | with_reducible refine Only.ite ?_ ?_
    | refine Only.ofMk rfl ?_)

theorem restartRotations_only (s : State) : Only [.taps, .lanes] s (restartRotations s) := Only.ofMk rfl (Only.refl _ _)

theorem execSyncEdgeArmed_frames (s : State) : Frames [.time, .ref, .clk, .spans, .front, .taps, .lanes, .ports, .link, .cal, .integ, .mode, .mb, .sec, .systime, .modeCode] s (execSyncEdgeArmed s) := by
  unfold execSyncEdgeArmed
  dsimp -failIfUnchanged only
  repeat' (first
    | with_reducible exact Only.refl _ _
    | ((with_reducible refine Frames.onlyIf ?_); intro hg)
    | with_reducible refine Frames.next ?_
    | ((with_reducible refine (closeSuspect_only _ _).andThen ?_ ?_); exact rfl)
    | ((with_reducible refine (cutInterval_only _ _ _).andThen ?_ ?_); exact rfl)
    | ((with_reducible refine (dieEdge_only _ _ _ _).andThen ?_ ?_); exact rfl)
    | ((with_reducible refine (endLevelStep_only _ _).andThen ?_ ?_); exact rfl)
    | ((with_reducible refine (passSync_only _).andThen ?_ ?_); exact rfl)
    | ((with_reducible refine (raise_only _ _ _ _).andThen ?_ ?_); exact rfl)
    | ((with_reducible refine (refresh_only _).andThen ?_ ?_); exact rfl)
    | ((with_reducible refine (restartRotations_only _).andThen ?_ ?_); exact rfl)
    | ((with_reducible refine (resyncPorts_only _ _ _).andThen ?_ ?_); exact rfl)
    | ((with_reducible refine Only.foldlFrom ?_ ?_); intro _ _)
    | with_reducible refine Only.ite ?_ ?_
    | refine Only.ofMk rfl ?_)

theorem execSyncEdgeUnarmed_frames (s : State) : Frames [.time, .clk, .link, .integ, .sec] s (execSyncEdgeUnarmed s) := by
  unfold execSyncEdgeUnarmed
  dsimp -failIfUnchanged only
  repeat' (first
    | with_reducible exact Only.refl _ _
    | ((with_reducible refine Frames.onlyIf ?_); intro hg)
    | with_reducible refine Frames.next ?_
    | ((with_reducible refine (passSync_only _).andThen ?_ ?_); exact rfl)
    | ((with_reducible refine (raise_only _ _ _ _).andThen ?_ ?_); exact rfl)
    | with_reducible refine Only.ite ?_ ?_
    | refine Only.ofMk rfl ?_)

theorem execSyncLost_frames (s : State) : Frames [.time, .link, .integ, .sec] s (execSyncLost s) := by
  unfold execSyncLost
  dsimp -failIfUnchanged only
  repeat' (first
    | with_reducible exact Only.refl _ _
    | ((with_reducible refine Frames.onlyIf ?_); intro hg)
    | with_reducible refine Frames.next ?_
    | ((with_reducible refine (raise_only _ _ _ _).andThen ?_ ?_); exact rfl)
    | refine Only.ofMk rfl ?_)

theorem execPpsEdge_frames (falling : Bool) (s : State) : Frames [.time, .ref, .link, .integ, .sec] s (execPpsEdge falling s) := by
  unfold execPpsEdge
  dsimp -failIfUnchanged only
  repeat' (first
    | with_reducible exact Only.refl _ _
    | ((with_reducible refine Frames.onlyIf ?_); intro hg)
    | with_reducible refine Frames.next ?_
    | ((with_reducible refine (raise_only _ _ _ _).andThen ?_ ?_); exact rfl)
    | ((with_reducible refine (raiseReturns_only _ _ _).andThen ?_ ?_); exact rfl)
    | with_reducible refine Only.ite ?_ ?_
    | refine Only.ofMk rfl ?_)

theorem execPpsLost_frames (s : State) : Frames [.time, .link, .integ, .sec] s (execPpsLost s) := by
  unfold execPpsLost
  dsimp -failIfUnchanged only
  repeat' (first
    | with_reducible exact Only.refl _ _
    | ((with_reducible refine Frames.onlyIf ?_); intro hg)
    | with_reducible refine Frames.next ?_
    | ((with_reducible refine (raise_only _ _ _ _).andThen ?_ ?_); exact rfl)
    | refine Only.ofMk rfl ?_)

theorem execHopLock_frames (d : Nat) (temp : Int) (band : Nat) (s : State) : Frames [.clk, .mon] s (execHopLock d temp band s) := by
  unfold execHopLock
  dsimp -failIfUnchanged only
  repeat' (first
    | with_reducible exact Only.refl _ _
    | ((with_reducible refine Frames.onlyIf ?_); intro hg)
    | with_reducible refine Frames.next ?_
    | ((with_reducible refine (State.setClk_only _ _ _).andThen ?_ ?_); exact rfl)
    | ((with_reducible refine (convertTemp2_only _ _).andThen ?_ ?_); exact rfl)
    | refine Only.ofMk rfl ?_)

theorem execHopStoredBandTimeout_frames (d : Nat) (s : State) : Frames [.clk] s (execHopStoredBandTimeout d s) := by
  unfold execHopStoredBandTimeout
  dsimp -failIfUnchanged only
  repeat' (first
    | with_reducible exact Only.refl _ _
    | ((with_reducible refine Frames.onlyIf ?_); intro hg)
    | with_reducible refine Frames.next ?_
    | ((with_reducible refine (State.setClk_only _ _ _).andThen ?_ ?_); exact rfl)
    | refine Only.ofMk rfl ?_)

theorem execHopSearchTimeout_frames (d : Nat) (s : State) : Frames [.clk, .spans, .front, .taps, .lanes, .ports, .link, .cfg, .cal, .integ, .mode, .domains, .mb, .sec, .modeCode] s (execHopSearchTimeout d s) := by
  unfold execHopSearchTimeout
  dsimp -failIfUnchanged only
  repeat' (first
    | with_reducible exact Only.refl _ _
    | ((with_reducible refine Frames.onlyIf ?_); intro hg)
    | with_reducible refine Frames.next ?_
    | ((with_reducible refine (coastLoop_only _ _ _).andThen ?_ ?_); exact rfl)
    | ((with_reducible refine (countUnlock_only _ _ _).andThen ?_ ?_); exact rfl)
    | ((with_reducible refine (incompleteHop_only _ _).andThen ?_ ?_); exact rfl)
    | ((with_reducible refine (refresh_only _).andThen ?_ ?_); exact rfl)
    | refine Only.ofMk rfl ?_)

theorem restartSlices_only (d : Nat) (s : State) : Only [.front] s (restartSlices d s) := by
  unfold restartSlices
  dsimp -failIfUnchanged only
  repeat' (first
    | with_reducible exact Only.refl _ _
    | ((with_reducible refine (State.setConv_only _ _ _).andThen ?_ ?_); exact rfl)
    | ((with_reducible refine Only.foldlFrom ?_ ?_); intro _ _)
    | with_reducible refine Only.ite ?_ ?_
    | split
    | refine Only.ofMk rfl ?_)

theorem execDividerRephase_frames (d : Nat) (s : State) : Frames [.clk, .spans, .front, .taps, .lanes, .link, .cfg, .cal, .integ, .mb, .sec] s (execDividerRephase d s) := by
  unfold execDividerRephase
  dsimp -failIfUnchanged only
  repeat' (first
    | with_reducible exact Only.refl _ _
    | ((with_reducible refine Frames.onlyIf ?_); intro hg)
    | with_reducible refine Frames.next ?_
    | ((with_reducible refine (State.setClk_only _ _ _).andThen ?_ ?_); exact rfl)
    | ((with_reducible refine (closeSuspect_only _ _).andThen ?_ ?_); exact rfl)
    | ((with_reducible refine (dieInstant_only _ _ _).andThen ?_ ?_); exact rfl)
    | ((with_reducible refine (endHop_only _ _ _).andThen ?_ ?_); exact rfl)
    | ((with_reducible refine (endLevelStep_only _ _).andThen ?_ ?_); exact rfl)
    | ((with_reducible refine (endStepsOfDie_only _ _).andThen ?_ ?_); exact rfl)
    | ((with_reducible refine (restartSlices_only _ _).andThen ?_ ?_); exact rfl)
    | ((with_reducible refine (unzeroCourse_only _ _ _).andThen ?_ ?_); exact rfl)
    | ((with_reducible refine Only.foldlFrom ?_ ?_); intro _ _)
    | with_reducible refine Only.ite ?_ ?_
    | refine Only.ofMk rfl ?_)

theorem execHopWaitTimeout_frames (d : Nat) (s : State) : Frames [.clk, .spans, .front, .taps, .link, .cfg, .cal, .integ, .mode, .domains, .mb, .sec, .modeCode] s (execHopWaitTimeout d s) := by
  unfold execHopWaitTimeout
  dsimp -failIfUnchanged only
  repeat' (first
    | with_reducible exact Only.refl _ _
    | ((with_reducible refine Frames.onlyIf ?_); intro hg)
    | with_reducible refine Frames.next ?_
    | ((with_reducible refine (incompleteHop_only _ _).andThen ?_ ?_); exact rfl)
    | ((with_reducible refine (refresh_only _).andThen ?_ ?_); exact rfl)
    | refine Only.ofMk rfl ?_)

/-! ### Taps -/

theorem State.setBandTap_only (s : State) (c : Nat) (f : BandTap → BandTap) : Only [.taps] s (State.setBandTap s c f) := Only.ofMk rfl (Only.refl _ _)

theorem State.setAudit_only (s : State) (d : Nat) (f : AuditTap → AuditTap) : Only [.taps] s (State.setAudit s d f) := Only.ofMk rfl (Only.refl _ _)

theorem State.setExport_only (s : State) (i : Nat) (f : ExportTap → ExportTap) : Only [.taps] s (State.setExport s i f) := Only.ofMk rfl (Only.refl _ _)

theorem execSegmentLate_frames (c e1 e2 : Nat) (s : State) : Frames [.taps, .link, .integ, .sec] s (execSegmentLate c e1 e2 s) := by
  unfold execSegmentLate
  dsimp -failIfUnchanged only
  repeat' (first
    | with_reducible exact Only.refl _ _
    | ((with_reducible refine Frames.onlyIf ?_); intro hg)
    | with_reducible refine Frames.next ?_
    | ((with_reducible refine (bandTapSpan_only _ _ _ _).andThen ?_ ?_); exact rfl)
    | ((with_reducible refine (raise_only _ _ _ _).andThen ?_ ?_); exact rfl)
    | refine Only.ofMk rfl ?_)

theorem replaceTap_only (u : UnitRef) (s : State) : Only [.spans, .taps, .link, .integ, .mode, .sec, .nv, .modeCode] s (replaceTap u s) := by
  unfold replaceTap
  dsimp -failIfUnchanged only
  repeat' (first
    | with_reducible exact Only.refl _ _
    | ((with_reducible refine (State.setAudit_only _ _ _).andThen ?_ ?_); exact rfl)
    | ((with_reducible refine (State.setExport_only _ _ _).andThen ?_ ?_); exact rfl)
    | ((with_reducible refine (raise_only _ _ _ _).andThen ?_ ?_); exact rfl)
    | ((with_reducible refine (refresh_only _).andThen ?_ ?_); exact rfl)
    | ((with_reducible refine (retireUnit_only _ _).andThen ?_ ?_); exact rfl)
    | with_reducible refine Only.ite ?_ ?_
    | split
    | refine Only.ofMk rfl ?_)

theorem retireAudit_only (d : Nat) (s : State) : Only [.spans, .taps, .link, .integ, .mode, .sec, .nv, .modeCode] s (retireAudit d s) := by
  unfold retireAudit
  dsimp -failIfUnchanged only
  repeat' (first
    | with_reducible exact Only.refl _ _
    | ((with_reducible refine (State.setAudit_only _ _ _).andThen ?_ ?_); exact rfl)
    | ((with_reducible refine (raise_only _ _ _ _).andThen ?_ ?_); exact rfl)
    | ((with_reducible refine (refresh_only _).andThen ?_ ?_); exact rfl)
    | ((with_reducible refine (retireUnit_only _ _).andThen ?_ ?_); exact rfl)
    | refine Only.ofMk rfl ?_)

theorem chargeTap_only (u : UnitRef) (first : Nat) (s : State) : Only [.spans, .taps, .link, .integ, .mode, .sec, .nv, .modeCode] s (chargeTap u first s) := by
  unfold chargeTap
  dsimp -failIfUnchanged only
  repeat' (first
    | with_reducible exact Only.refl _ _
    | ((with_reducible refine (State.setAudit_only _ _ _).andThen ?_ ?_); exact rfl)
    | ((with_reducible refine (State.setBandTap_only _ _ _).andThen ?_ ?_); exact rfl)
    | ((with_reducible refine (State.setExport_only _ _ _).andThen ?_ ?_); exact rfl)
    | ((with_reducible refine (occur_only _ _ _).andThen ?_ ?_); exact rfl)
    | ((with_reducible refine (raise_only _ _ _ _).andThen ?_ ?_); exact rfl)
    | ((with_reducible refine (retireAudit_only _ _).andThen ?_ ?_); exact rfl)
    | with_reducible refine Only.ite ?_ ?_
    | split
    | refine Only.ofMk rfl ?_)

theorem endSubslot_only (d : Nat) (s : State) : Only [.taps] s (endSubslot d s) := by
  unfold endSubslot
  dsimp -failIfUnchanged only
  repeat' (first
    | with_reducible exact Only.refl _ _
    | ((with_reducible refine (State.setBandTap_only _ _ _).andThen ?_ ?_); exact rfl)
    | split
    | refine Only.ofMk rfl ?_)

theorem execAuditSubslot_frames (d : Nat) (katFails : Bool) (s : State) : Frames [.spans, .taps, .link, .integ, .mode, .sec, .nv, .modeCode] s (execAuditSubslot d katFails s) := by
  unfold execAuditSubslot
  dsimp -failIfUnchanged only
  repeat' (first
    | with_reducible exact Only.refl _ _
    | ((with_reducible refine Frames.onlyIf ?_); intro hg)
    | with_reducible refine Frames.next ?_
    | ((with_reducible refine (State.setAudit_only _ _ _).andThen ?_ ?_); exact rfl)
    | ((with_reducible refine (chargeTap_only _ _ _).andThen ?_ ?_); exact rfl)
    | ((with_reducible refine (endSubslot_only _ _).andThen ?_ ?_); exact rfl)
    | with_reducible refine Only.ite ?_ ?_
    | split
    | refine Only.ofMk rfl ?_)

theorem execAuditCompareMismatch_frames (d : Nat) (s : State) : Frames [.taps] s (execAuditCompareMismatch d s) := by
  unfold execAuditCompareMismatch
  dsimp -failIfUnchanged only
  repeat' (first
    | with_reducible exact Only.refl _ _
    | ((with_reducible refine Frames.onlyIf ?_); intro hg)
    | with_reducible refine Frames.next ?_
    | ((with_reducible refine (State.setAudit_only _ _ _).andThen ?_ ?_); exact rfl)
    | split
    | refine Only.ofMk rfl ?_)

theorem execAuditVerifyEnd_frames (d : Nat) (agrees : Bool) (s : State) : Frames [.spans, .taps, .link, .integ, .mode, .sec, .nv, .modeCode] s (execAuditVerifyEnd d agrees s) := by
  unfold execAuditVerifyEnd
  dsimp -failIfUnchanged only
  repeat' (first
    | with_reducible exact Only.refl _ _
    | ((with_reducible refine Frames.onlyIf ?_); intro hg)
    | with_reducible refine Frames.next ?_
    | ((with_reducible refine (State.setAudit_only _ _ _).andThen ?_ ?_); exact rfl)
    | ((with_reducible refine (chargeTap_only _ _ _).andThen ?_ ?_); exact rfl)
    | with_reducible refine Only.ite ?_ ?_
    | split
    | refine Only.ofMk rfl ?_)

theorem execAuditReplacementSplice_frames (d : Nat) (s : State) : Frames [.spans, .taps, .link, .integ, .mode, .mb, .sec, .nv, .modeCode] s (execAuditReplacementSplice d s) := by
  unfold execAuditReplacementSplice
  dsimp -failIfUnchanged only
  repeat' (first
    | with_reducible exact Only.refl _ _
    | ((with_reducible refine Frames.onlyIf ?_); intro hg)
    | with_reducible refine Frames.next ?_
    | ((with_reducible refine (completeWait_only _ _ _ _).andThen ?_ ?_); exact rfl)
    | ((with_reducible refine (replaceTap_only _ _).andThen ?_ ?_); exact rfl)
    | split
    | refine Only.ofMk rfl ?_)

theorem execNcoWordLoRead_frames (c : Nat) (s : State) : Frames [.taps, .link, .mode] s (execNcoWordLoRead c s) :=
  dieRead_frames rfl rfl (fun _ => (State.setBandTap_only _ _ _).mono rfl) _ _ _

theorem execSatStickyClear_frames (x : SatTarget) (s : State) : Frames [.taps, .mode] s (execSatStickyClear x s) := by
  cases x
  · exact dieWrite_frames rfl (fun _ => (State.setBandTap_only _ _ _).mono rfl) _ _ _
  · exact dieWrite_frames rfl (fun _ => Only.ofMk rfl (Only.refl _ _)) _ _ _
  · exact dieWrite_frames rfl (fun _ => Only.ofMk rfl (Only.refl _ _)) _ _ _

end Sys2Proof.Machine
end

