-- ==== Sys2Proof/Laws/Frames4.lean ====
section
/-!
SUPPORT. Frames of the host link, how commands begin and end, what a set brings into force: which parts of the state each operation and each command leaves alone. `x_only` speaks of an operation, `x_frames` of a command: it answers a next state, and only the parts named differ.
-/
/- One proof at a time: the default arguments of `Only.ofMk` are tactics, and a proof that runs them beside others waits for those, a thread each. -/
set_option Elab.async false

namespace Sys2Proof.Machine

/-! ### Link -/

theorem haltRing_only (r : Nat) (e : RingErr) (s : State) : Only [.link, .integ, .sec] s (haltRing r e s) := by
  unfold haltRing
  dsimp -failIfUnchanged only
  repeat' (first
    | with_reducible exact Only.refl _ _
    | ((with_reducible refine (State.setRing_only _ _ _).andThen ?_ ?_); exact rfl)
    | ((with_reducible refine (raise_only _ _ _ _).andThen ?_ ?_); exact rfl)
    | ((with_reducible refine (signalVector_only _ _).andThen ?_ ?_); exact rfl)
    | with_reducible refine Only.ite ?_ ?_
    | refine Only.ofMk rfl ?_)

theorem resetFunction_only (s : State) : Only [.link, .cfg, .mon, .mode, .shadow] s (resetFunction s) := by
  unfold resetFunction
  dsimp -failIfUnchanged only
  repeat' (first
    | with_reducible exact Only.refl _ _
    | ((with_reducible refine (State.reset_only).andThen ?_ ?_); exact rfl)
    | split
    | refine Only.ofMk rfl ?_)

theorem execPcieReset_frames (s : State) : Frames [.link, .cfg, .mon, .mode, .shadow] s (execPcieReset s) := by
  unfold execPcieReset
  dsimp -failIfUnchanged only
  repeat' (first
    | with_reducible exact Only.refl _ _
    | ((with_reducible refine Frames.onlyIf ?_); intro hg)
    | with_reducible refine Frames.next ?_
    | ((with_reducible refine (resetFunction_only _).andThen ?_ ?_); exact rfl)
    | refine Only.ofMk rfl ?_)

theorem execLinkState_frames (up : Bool) (width rate : Nat) (s : State) : Frames [.link, .cfg, .mon, .integ, .mode, .sec, .shadow] s (execLinkState up width rate s) := by
  unfold execLinkState
  dsimp -failIfUnchanged only
  repeat' (first
    | with_reducible exact Only.refl _ _
    | ((with_reducible refine Frames.onlyIf ?_); intro hg)
    | with_reducible refine Frames.next ?_
    | ((with_reducible refine (raise_only _ _ _ _).andThen ?_ ?_); exact rfl)
    | ((with_reducible refine (resetFunction_only _).andThen ?_ ?_); exact rfl)
    | with_reducible refine Only.ite ?_ ?_
    | refine Only.ofMk rfl ?_)

theorem execReceivedWriteEcrcFail_frames (bar offset : Nat) (s : State) : Frames [.link] s (execReceivedWriteEcrcFail bar offset s) := by
  unfold execReceivedWriteEcrcFail
  dsimp -failIfUnchanged only
  repeat' (first
    | with_reducible exact Only.refl _ _
    | ((with_reducible refine Frames.onlyIf ?_); intro hg)
    | with_reducible refine Frames.next ?_
    | ((with_reducible refine (send_only _ _).andThen ?_ ?_); exact rfl)
    | refine Only.ofMk rfl ?_)

theorem execRingConfigWrite_frames (r offset v : Nat) (s : State) : Frames [.link, .mode] s (execRingConfigWrite r offset v s) := by
  unfold execRingConfigWrite
  dsimp -failIfUnchanged only
  repeat' (first
    | with_reducible exact Only.refl _ _
    | ((with_reducible refine Frames.onlyIf ?_); intro hg)
    | with_reducible refine Frames.next ?_
    | ((with_reducible refine (State.setRing_only _ _ _).andThen ?_ ?_); exact rfl)
    | ((with_reducible refine (hostAccess_only _).andThen ?_ ?_); exact rfl)
    | with_reducible refine Only.ite ?_ ?_
    | split
    | refine Only.ofMk rfl ?_)

theorem execRingEnable_frames (r v : Nat) (s : State) : Frames [.link, .integ, .mode, .sec] s (execRingEnable r v s) := by
  unfold execRingEnable
  dsimp -failIfUnchanged only
  repeat' (first
    | with_reducible exact Only.refl _ _
    | ((with_reducible refine Frames.onlyIf ?_); intro hg)
    | with_reducible refine Frames.next ?_
    | ((with_reducible refine (State.setRing_only _ _ _).andThen ?_ ?_); exact rfl)
    | ((with_reducible refine (doorbell_only _ _ _ _).andThen ?_ ?_); exact rfl)
    | ((with_reducible refine (hostAccess_only _).andThen ?_ ?_); exact rfl)
    | with_reducible refine Only.ite ?_ ?_
    | refine Only.ofMk rfl ?_)

theorem execRingDisable_frames (r v : Nat) (s : State) : Frames [.link, .mode] s (execRingDisable r v s) := by
  unfold execRingDisable
  dsimp -failIfUnchanged only
  repeat' (first
    | with_reducible exact Only.refl _ _
    | ((with_reducible refine Frames.onlyIf ?_); intro hg)
    | with_reducible refine Frames.next ?_
    | ((with_reducible refine (State.setRing_only _ _ _).andThen ?_ ?_); exact rfl)
    | ((with_reducible refine (discardBlock_only _ _).andThen ?_ ?_); exact rfl)
    | ((with_reducible refine (hostAccess_only _).andThen ?_ ?_); exact rfl)
    | ((with_reducible refine Only.foldlFrom ?_ ?_); intro _ _)
    | with_reducible refine Only.ite ?_ ?_
    | split
    | refine Only.ofMk rfl ?_)

theorem execRingWritesDrained_frames (r : Nat) (s : State) : Frames [.link] s (execRingWritesDrained r s) := by
  unfold execRingWritesDrained
  dsimp -failIfUnchanged only
  repeat' (first
    | with_reducible exact Only.refl _ _
    | ((with_reducible refine Frames.onlyIf ?_); intro hg)
    | with_reducible refine Frames.next ?_
    | ((with_reducible refine (State.setRing_only _ _ _).andThen ?_ ?_); exact rfl)
    | refine Only.ofMk rfl ?_)

theorem doorbell_only (r index : Nat) (resume : Bool) (s : State) : Only [.link, .integ, .sec] s (doorbell r index resume s) := by
  unfold doorbell
  dsimp -failIfUnchanged only
  repeat' (first
    | with_reducible exact Only.refl _ _
    | ((with_reducible refine (State.setRing_only _ _ _).andThen ?_ ?_); exact rfl)
    | ((with_reducible refine (haltRing_only _ _ _).andThen ?_ ?_); exact rfl)
    | with_reducible refine Only.ite ?_ ?_
    | refine Only.ofMk rfl ?_)

theorem execDoorbellWrite_frames (r index : Nat) (s : State) : Frames [.link, .integ, .mode, .sec] s (execDoorbellWrite r index s) := by
  unfold execDoorbellWrite
  dsimp -failIfUnchanged only
  repeat' (first
    | with_reducible exact Only.refl _ _
    | ((with_reducible refine Frames.onlyIf ?_); intro hg)
    | with_reducible refine Frames.next ?_
    | ((with_reducible refine (doorbell_only _ _ _ _).andThen ?_ ?_); exact rfl)
    | ((with_reducible refine (hostAccess_only _).andThen ?_ ?_); exact rfl)
    | refine Only.ofMk rfl ?_)

theorem execDoorbellResume_frames (r index : Nat) (s : State) : Frames [.link, .integ, .mode, .sec] s (execDoorbellResume r index s) := by
  unfold execDoorbellResume
  dsimp -failIfUnchanged only
  repeat' (first
    | with_reducible exact Only.refl _ _
    | ((with_reducible refine Frames.onlyIf ?_); intro hg)
    | with_reducible refine Frames.next ?_
    | ((with_reducible refine (doorbell_only _ _ _ _).andThen ?_ ?_); exact rfl)
    | ((with_reducible refine (hostAccess_only _).andThen ?_ ?_); exact rfl)
    | refine Only.ofMk rfl ?_)

theorem execDescriptorFetch_frames (r : Nat) (desc : Option (List Byte)) (s : State) : Frames [.link, .integ, .mb, .sec] s (execDescriptorFetch r desc s) := by
  unfold execDescriptorFetch
  dsimp -failIfUnchanged only
  repeat' (first
    | with_reducible exact Only.refl _ _
    | ((with_reducible refine Frames.onlyIf ?_); intro hg)
    | with_reducible refine Frames.next ?_
    | ((with_reducible refine (State.setDieInteg_only _ _ _).andThen ?_ ?_); exact rfl)
    | ((with_reducible refine (State.setRing_only _ _ _).andThen ?_ ?_); exact rfl)
    | ((with_reducible refine (haltRing_only _ _ _).andThen ?_ ?_); exact rfl)
    | ((with_reducible refine (pump_only _ _ _).andThen ?_ ?_); exact rfl)
    | with_reducible refine Only.ite ?_ ?_
    | split
    | refine Only.ofMk rfl ?_)

theorem execCompletionWrite_frames (q : Nat) (s : State) : Frames [.link, .mb] s (execCompletionWrite q s) := by
  unfold execCompletionWrite
  dsimp -failIfUnchanged only
  repeat' (first
    | with_reducible exact Only.refl _ _
    | ((with_reducible refine Frames.onlyIf ?_); intro hg)
    | with_reducible refine Frames.next ?_
    | ((with_reducible refine (State.setRing_only _ _ _).andThen ?_ ?_); exact rfl)
    | ((with_reducible refine (pump_only _ _ _).andThen ?_ ?_); exact rfl)
    | ((with_reducible refine (writeCpl_only _ _ _).andThen ?_ ?_); exact rfl)
    | split
    | refine Only.ofMk rfl ?_)

theorem dropOldest_only (r : Nat) (s : State) : Only [.link] s (dropOldest r s) := by
  unfold dropOldest
  dsimp -failIfUnchanged only
  repeat' (first
    | with_reducible exact Only.refl _ _
    | ((with_reducible refine (State.setRing_only _ _ _).andThen ?_ ?_); exact rfl)
    | ((with_reducible refine (discardBlock_only _ _).andThen ?_ ?_); exact rfl)
    | refine Only.ofMk rfl ?_)

theorem execBlockWrite_frames (r : Nat) (good owner : Bool) (s : State) : Frames [.link, .integ, .sec] s (execBlockWrite r good owner s) := by
  unfold execBlockWrite
  dsimp -failIfUnchanged only
  repeat' (first
    | with_reducible exact Only.refl _ _
    | ((with_reducible refine Frames.onlyIf ?_); intro hg)
    | with_reducible refine Frames.next ?_
    | ((with_reducible refine (State.setDieInteg_only _ _ _).andThen ?_ ?_); exact rfl)
    | ((with_reducible refine (State.setRing_only _ _ _).andThen ?_ ?_); exact rfl)
    | ((with_reducible refine (countEntry_only _ _).andThen ?_ ?_); exact rfl)
    | ((with_reducible refine (dropOldest_only _ _).andThen ?_ ?_); exact rfl)
    | ((with_reducible refine (haltRing_only _ _ _).andThen ?_ ?_); exact rfl)
    | ((with_reducible refine (raise_only _ _ _ _).andThen ?_ ?_); exact rfl)
    | ((with_reducible refine (send_only _ _).andThen ?_ ?_); exact rfl)
    | with_reducible refine Only.ite ?_ ?_
    | split
    | refine Only.ofMk rfl ?_)

theorem execBlockHoldExpiry_frames (r : Nat) (s : State) : Frames [.link] s (execBlockHoldExpiry r s) := by
  unfold execBlockHoldExpiry
  dsimp -failIfUnchanged only
  repeat' (first
    | with_reducible exact Only.refl _ _
    | ((with_reducible refine Frames.onlyIf ?_); intro hg)
    | with_reducible refine Frames.next ?_
    | ((with_reducible refine (dropOldest_only _ _).andThen ?_ ?_); exact rfl)
    | split
    | refine Only.ofMk rfl ?_)

theorem execInterruptModTimer_frames (r : Nat) (s : State) : Frames [.link] s (execInterruptModTimer r s) := by
  unfold execInterruptModTimer
  dsimp -failIfUnchanged only
  repeat' (first
    | with_reducible exact Only.refl _ _
    | ((with_reducible refine Frames.onlyIf ?_); intro hg)
    | with_reducible refine Frames.next ?_
    | ((with_reducible refine (State.setRing_only _ _ _).andThen ?_ ?_); exact rfl)
    | ((with_reducible refine (signalVector_only _ _).andThen ?_ ?_); exact rfl)
    | refine Only.ofMk rfl ?_)

theorem execMsixUnmask_frames (v : Nat) (s : State) : Frames [.link, .mode] s (execMsixUnmask v s) := by
  unfold execMsixUnmask
  dsimp -failIfUnchanged only
  repeat' (first
    | with_reducible exact Only.refl _ _
    | ((with_reducible refine Frames.onlyIf ?_); intro hg)
    | with_reducible refine Frames.next ?_
    | ((with_reducible refine (hostAccess_only _).andThen ?_ ?_); exact rfl)
    | ((with_reducible refine (send_only _ _).andThen ?_ ?_); exact rfl)
    | with_reducible refine Only.ite ?_ ?_
    | refine Only.ofMk rfl ?_)

theorem execRingOverrun_frames (r : Nat) (s : State) : Frames [.link, .integ, .sec] s (execRingOverrun r s) := by
  unfold execRingOverrun
  dsimp -failIfUnchanged only
  repeat' (first
    | with_reducible exact Only.refl _ _
    | ((with_reducible refine Frames.onlyIf ?_); intro hg)
    | with_reducible refine Frames.next ?_
    | ((with_reducible refine (State.setRing_only _ _ _).andThen ?_ ?_); exact rfl)
    | ((with_reducible refine (raise_only _ _ _ _).andThen ?_ ?_); exact rfl)
    | refine Only.ofMk rfl ?_)

theorem formEvents_only (x t0 : Nat) (es : List Ev) (s : State) : Only [.link] s (formEvents x t0 es s) := by
  unfold formEvents
  dsimp -failIfUnchanged only
  repeat' (first
    | with_reducible exact Only.refl _ _
    | ((with_reducible refine (formRecordBlocks_only _ _ _ _ _ _).andThen ?_ ?_); exact rfl)
    | with_reducible refine Only.ite ?_ ?_
    | refine Only.ofMk rfl ?_)

theorem execEventBlock_frames (x : Nat) (s : State) : Frames [.link, .events] s (execEventBlock x s) := by
  unfold execEventBlock
  dsimp -failIfUnchanged only
  repeat' (first
    | with_reducible exact Only.refl _ _
    | ((with_reducible refine Frames.onlyIf ?_); intro hg)
    | with_reducible refine Frames.next ?_
    | ((with_reducible refine (formEvents_only _ _ _ _).andThen ?_ ?_); exact rfl)
    | split
    | refine Only.ofMk rfl ?_)

/-! ### Cmds -/

theorem takeFront_only (src : CmdSrc) (s : State) : Only [.link, .mb] s (takeFront src s) := by
  unfold takeFront
  dsimp -failIfUnchanged only
  repeat' (first
    | with_reducible exact Only.refl _ _
    | ((with_reducible refine (State.setMb_only _ _ ?_).andThen ?_ ?_); (intro m; (repeat' split) <;> exact ⟨rfl, rfl, rfl, rfl⟩); exact rfl)
    | ((with_reducible refine (State.setRing_only _ _ _).andThen ?_ ?_); exact rfl)
    | split
    | refine Only.ofMk rfl ?_)

theorem finish_only (src : CmdSrc) (f : Fetched) (st : Status) (result : Nat) (s : State) : Only [.link, .mb] s (finish src f st result s) := by
  unfold finish
  dsimp -failIfUnchanged only
  repeat' (first
    | with_reducible exact Only.refl _ _
    | ((with_reducible refine (complete_only _ _ _ _ _ _).andThen ?_ ?_); exact rfl)
    | refine Only.ofMk rfl ?_)

theorem await_only (src : CmdSrc) (f : Fetched) (w : Wait) (s : State) : Only [.link, .mb] s (await src f w s) := by
  unfold await
  dsimp -failIfUnchanged only
  repeat' (first
    | with_reducible exact Only.refl _ _
    | ((with_reducible refine (waitFor_only _ _ _ _ _).andThen ?_ ?_); exact rfl)
    | refine Only.ofMk rfl ?_)

theorem finishOutput_only (src : CmdSrc) (f : Fetched) (bytes : List Byte) (s : State) : Only [.link, .mb] s (finishOutput src f bytes s) := by
  unfold finishOutput
  dsimp -failIfUnchanged only
  repeat' (first
    | with_reducible exact Only.refl _ _
    | ((with_reducible refine (State.setMb_only _ _ ?_).andThen ?_ ?_); (intro m; (repeat' split) <;> exact ⟨rfl, rfl, rfl, rfl⟩); exact rfl)
    | ((with_reducible refine (finish_only _ _ _ _ _).andThen ?_ ?_); exact rfl)
    | ((with_reducible refine (send_only _ _).andThen ?_ ?_); exact rfl)
    | split
    | refine Only.ofMk rfl ?_)

theorem runCmd_frames {as : List Aspect} (c : Cmd) (src : CmdSrc) (buf : Option (List Byte)) (own : Fetched → State → State) (s : State)
    (h : ∀ f t, Only as t (own f t)) (sub : [Aspect.link, Aspect.mb].all as.contains = true) : Frames as s (runCmd c src buf own s) := by
  unfold runCmd
  split
  · exact Frames.next (Only.refl _ _)
  · refine Frames.onlyIf fun _ => ?_
    split
    · exact ((takeFront_only _ _).trans (finish_only _ _ _ _ _)).mono sub
    · exact ((takeFront_only _ _).mono sub).trans (h _ _)

/-! ### Apply -/

theorem stopCourse_only (j : Nat) (s : State) : Only [.clk, .spans, .front, .domains] s (stopCourse j s) := by
  unfold stopCourse
  dsimp -failIfUnchanged only
  repeat' (first
    | with_reducible exact Only.refl _ _
    | ((with_reducible refine (State.setCourse_only _ _ _).andThen ?_ ?_); exact rfl)
    | ((with_reducible refine (unpowerConv_only _ _).andThen ?_ ?_); exact rfl)
    | refine Only.ofMk rfl ?_)

theorem refuseLeader_only (j p : Nat) (s : State) : Only [.link, .integ, .sec] s (refuseLeader j p s) := by
  unfold refuseLeader
  dsimp -failIfUnchanged only
  repeat' (first
    | with_reducible exact Only.refl _ _
    | ((with_reducible refine (raise_only _ _ _ _).andThen ?_ ?_); exact rfl)
    | with_reducible refine Only.ite ?_ ?_
    | refine Only.ofMk rfl ?_)

theorem startCourse_only (j : Nat) (b : CourseEntry) (s : State) : Only [.front, .taps, .link, .cal, .integ, .domains, .sec] s (startCourse j b s) := by
  unfold startCourse
  dsimp -failIfUnchanged only
  repeat' (first
    | with_reducible exact Only.refl _ _
    | ((with_reducible refine (State.setCourse_only _ _ _).andThen ?_ ?_); exact rfl)
    | ((with_reducible refine (loseCourse_only _ _).andThen ?_ ?_); exact rfl)
    | ((with_reducible refine (powerConv_only _ _).andThen ?_ ?_); exact rfl)
    | ((with_reducible refine (refuseLeader_only _ _ _).andThen ?_ ?_); exact rfl)
    | ((with_reducible refine (setGain_only _ _ _).andThen ?_ ?_); exact rfl)
    | with_reducible refine Only.ite ?_ ?_
    | refine Only.ofMk rfl ?_)

theorem preferLeader_only (j p : Nat) (b : CourseEntry) (s : State) : Only [.clk, .spans, .front, .domains] s (preferLeader j p b s) := by
  unfold preferLeader
  dsimp -failIfUnchanged only
  repeat' (first
    | with_reducible exact Only.refl _ _
    | ((with_reducible refine (State.setCourse_only _ _ _).andThen ?_ ?_); exact rfl)
    | ((with_reducible refine (powerConv_only _ _).andThen ?_ ?_); exact rfl)
    | ((with_reducible refine (unpowerConv_only _ _).andThen ?_ ?_); exact rfl)
    | with_reducible refine Only.ite ?_ ?_
    | split
    | refine Only.ofMk rfl ?_)

theorem runCourse_only (b : CourseEntry) (j : Nat) (s : State) : Only [.clk, .spans, .front, .link, .cal, .integ, .domains, .sec] s (runCourse b j s) := by
  unfold runCourse
  dsimp -failIfUnchanged only
  repeat' (first
    | with_reducible exact Only.refl _ _
    | ((with_reducible refine (State.setCourse_only _ _ _).andThen ?_ ?_); exact rfl)
    | ((with_reducible refine (endAttribution_only _ _).andThen ?_ ?_); exact rfl)
    | ((with_reducible refine (powerConv_only _ _).andThen ?_ ?_); exact rfl)
    | ((with_reducible refine (preferLeader_only _ _ _ _).andThen ?_ ?_); exact rfl)
    | ((with_reducible refine (refuseLeader_only _ _ _).andThen ?_ ?_); exact rfl)
    | ((with_reducible refine (setGain_only _ _ _).andThen ?_ ?_); exact rfl)
    | ((with_reducible refine (standbyReady_only _ _).andThen ?_ ?_); exact rfl)
    | ((with_reducible refine (unpowerConv_only _ _).andThen ?_ ?_); exact rfl)
    | with_reducible refine Only.ite ?_ ?_
    | split
    | refine Only.ofMk rfl ?_)

theorem applyCourse_only (a b : CourseEntry) (j : Nat) (s : State) : Only [.clk, .spans, .front, .taps, .link, .cal, .integ, .domains, .sec] s (applyCourse a b j s) := by
  unfold applyCourse
  dsimp -failIfUnchanged only
  repeat' (first
    | with_reducible exact Only.refl _ _
    | ((with_reducible refine (runCourse_only _ _ _).andThen ?_ ?_); exact rfl)
    | ((with_reducible refine (startCourse_only _ _ _).andThen ?_ ?_); exact rfl)
    | ((with_reducible refine (stopCourse_only _ _).andThen ?_ ?_); exact rfl)
    | split
    | refine Only.ofMk rfl ?_)

theorem applyBandTap_only (a b : ClusterEntry) (plan c : Nat) (s : State) : Only [.taps] s (applyBandTap a b plan c s) := by
  unfold applyBandTap
  dsimp -failIfUnchanged only
  repeat' (first
    | with_reducible exact Only.refl _ _
    | ((with_reducible refine (State.setBandTap_only _ _ _).andThen ?_ ?_); exact rfl)
    | with_reducible refine Only.ite ?_ ?_
    | refine Only.ofMk rfl ?_)

theorem applyLane_only (old : ConfigSet) (bandEvent : Bool) (l : Nat) (s : State) : Only [.taps, .lanes] s (applyLane old bandEvent l s) := by
  unfold applyLane
  dsimp -failIfUnchanged only
  repeat' (first
    | with_reducible exact Only.refl _ _
    | ((with_reducible refine (State.setDemod_only _ _ _).andThen ?_ ?_); exact rfl)
    | with_reducible refine Only.ite ?_ ?_
    | refine Only.ofMk rfl ?_)

theorem applyWatch_only (old : ConfigSet) (bandEvent : Bool) (w : Nat) (s : State) : Only [.taps, .lanes, .link, .integ, .mode, .domains, .sec] s (applyWatch old bandEvent w s) := by
  unfold applyWatch
  dsimp -failIfUnchanged only
  repeat' (first
    | with_reducible exact Only.refl _ _
    | ((with_reducible refine (State.setWatch_only _ _ _).andThen ?_ ?_); exact rfl)
    | ((with_reducible refine (setAlert_only _ _ _).andThen ?_ ?_); exact rfl)
    | with_reducible refine Only.ite ?_ ?_
    | refine Only.ofMk rfl ?_)

theorem followSpare_only (c : Nat) (s : State) : Only [.taps] s (followSpare c s) := Only.ofMk rfl (Only.refl _ _)

theorem clearCluster_only (c : Nat) (s : State) : Only [.taps, .lanes] s (clearCluster c s) := by
  unfold clearCluster
  dsimp -failIfUnchanged only
  repeat' (first
    | with_reducible exact Only.refl _ _
    | ((with_reducible refine (State.setSpare_only _ _ _).andThen ?_ ?_); exact rfl)
    | refine Only.ofMk rfl ?_)

theorem applyCluster_only (old : ConfigSet) (c : Nat) (s : State) : Only [.taps, .lanes, .link, .integ, .mode, .domains, .sec] s (applyCluster old c s) := by
  unfold applyCluster
  dsimp -failIfUnchanged only
  repeat' (first
    | with_reducible exact Only.refl _ _
    | ((with_reducible refine (applyBandTap_only _ _ _ _ _).andThen ?_ ?_); exact rfl)
    | ((with_reducible refine (applyLane_only _ _ _ _).andThen ?_ ?_); exact rfl)
    | ((with_reducible refine (applyWatch_only _ _ _ _).andThen ?_ ?_); exact rfl)
    | ((with_reducible refine (clearCluster_only _ _).andThen ?_ ?_); exact rfl)
    | ((with_reducible refine (followSpare_only _ _).andThen ?_ ?_); exact rfl)
    | ((with_reducible refine (goOnCluster_only _ _).andThen ?_ ?_); exact rfl)
    | ((with_reducible refine Only.foldlFrom ?_ ?_); intro _ _)
    | with_reducible refine Only.ite ?_ ?_
    | refine Only.ofMk rfl ?_)

theorem keepEntry_only (old : ConfigSet) (e : Nat) (s : State) : Only [.ofdm] s (keepEntry old e s) := by
  unfold keepEntry
  dsimp -failIfUnchanged only
  repeat' (first
    | with_reducible exact Only.refl _ _
    | ((with_reducible refine (State.setEngine_only _ _ _).andThen ?_ ?_); exact rfl)
    | with_reducible refine Only.ite ?_ ?_
    | refine Only.ofMk rfl ?_)

theorem applyEngine_only (old : ConfigSet) (steps : List Nat) (e : Nat) (s : State) : Only [.ofdm, .link, .integ, .mode, .domains, .sec] s (applyEngine old steps e s) := by
  unfold applyEngine
  dsimp -failIfUnchanged only
  repeat' (first
    | with_reducible exact Only.refl _ _
    | ((with_reducible refine (State.setSignal_only _ _ _ _).andThen ?_ ?_); exact rfl)
    | ((with_reducible refine (keepEntry_only _ _ _).andThen ?_ ?_); exact rfl)
    | ((with_reducible refine (restartHere_only _ _ _).andThen ?_ ?_); exact rfl)
    | ((with_reducible refine (restartSignal_only _ _ _ _).andThen ?_ ?_); exact rfl)
    | ((with_reducible refine (setAlert_only _ _ _).andThen ?_ ?_); exact rfl)
    | ((with_reducible refine Only.foldlFrom ?_ ?_); intro _ _)
    | with_reducible refine Only.ite ?_ ?_
    | refine Only.ofMk rfl ?_)

theorem applySlot_only (old : ConfigSet) (x : Nat) (s : State) : Only [.audio] s (applySlot old x s) := by
  unfold applySlot
  dsimp -failIfUnchanged only
  repeat' (first
    | with_reducible exact Only.refl _ _
    | ((with_reducible refine (State.setContext_only _ _ _).andThen ?_ ?_); exact rfl)
    | ((with_reducible refine (State.setSlot_only _ _ _).andThen ?_ ?_); exact rfl)
    | with_reducible refine Only.ite ?_ ?_
    | refine Only.ofMk rfl ?_)

theorem applyMask_only (r : Nat) (s : State) : Only [.link] s (applyMask r s) := by
  unfold applyMask
  dsimp -failIfUnchanged only
  repeat' (first
    | with_reducible exact Only.refl _ _
    | ((with_reducible refine (State.setRing_only _ _ _).andThen ?_ ?_); exact rfl)
    | with_reducible refine Only.ite ?_ ?_
    | refine Only.ofMk rfl ?_)

theorem endCapture_only (r : Nat) (s : State) : Only [.link, .integ, .sec] s (endCapture r s) := by
  unfold endCapture
  dsimp -failIfUnchanged only
  repeat' (first
    | with_reducible exact Only.refl _ _
    | ((with_reducible refine (raise_only _ _ _ _).andThen ?_ ?_); exact rfl)
    | split
    | refine Only.ofMk rfl ?_)

theorem endCaptures_only (all : Bool) (s : State) : Only [.link, .integ, .sec] s (endCaptures all s) := by
  unfold endCaptures
  dsimp -failIfUnchanged only
  repeat' (first
    | with_reducible exact Only.refl _ _
    | ((with_reducible refine (endCapture_only _ _).andThen ?_ ?_); exact rfl)
    | ((with_reducible refine Only.foldlFrom ?_ ?_); intro _ _)
    | with_reducible refine Only.ite ?_ ?_
    | split
    | refine Only.ofMk rfl ?_)

theorem applySteps_only (old new : ConfigSet) (s : State) : Only [.front, .taps, .lanes, .link, .cal, .integ, .mb, .sec] s (applySteps old new s) := by
  unfold applySteps
  dsimp -failIfUnchanged only
  repeat' (first
    | with_reducible exact Only.refl _ _
    | ((with_reducible refine (endLevelStep_only _ _).andThen ?_ ?_); exact rfl)
    | ((with_reducible refine Only.foldlFrom ?_ ?_); intro _ _)
    | with_reducible refine Only.ite ?_ ?_
    | split
    | refine Only.ofMk rfl ?_)

theorem stopRotations_only (d : Nat) (s : State) : Only [.front] s (stopRotations d s) := by
  unfold stopRotations
  dsimp -failIfUnchanged only
  repeat' (first
    | with_reducible exact Only.refl _ _
    | ((with_reducible refine (State.setConv_only _ _ _).andThen ?_ ?_); exact rfl)
    | ((with_reducible refine (State.setCourse_only _ _ _).andThen ?_ ?_); exact rfl)
    | ((with_reducible refine Only.foldlFrom ?_ ?_); intro _ _)
    | refine Only.ofMk rfl ?_)

theorem beginHop_only (plan : Nat) (temps : List Int) (d : Nat) (s : State) : Only [.clk, .spans, .front, .taps, .link, .cfg, .cal, .mon, .integ, .mode, .domains, .mb, .sec, .modeCode] s (beginHop plan temps d s) := by
  unfold beginHop
  dsimp -failIfUnchanged only
  repeat' (first
    | with_reducible exact Only.refl _ _
    | ((with_reducible refine (State.setClk_only _ _ _).andThen ?_ ?_); exact rfl)
    | ((with_reducible refine (convertTemp2_only _ _).andThen ?_ ?_); exact rfl)
    | ((with_reducible refine (endWaitIfHeld_only _ _).andThen ?_ ?_); exact rfl)
    | ((with_reducible refine (stopRotations_only _ _).andThen ?_ ?_); exact rfl)
    | ((with_reducible refine (zeroCourse_only _ _).andThen ?_ ?_); exact rfl)
    | ((with_reducible refine Only.foldlFrom ?_ ?_); intro _ _)
    | with_reducible refine Only.ite ?_ ?_
    | split
    | refine Only.ofMk rfl ?_)

theorem applyDomains_only (need : State → Nat → Nat) (s : State) : Only [.clk, .spans, .domains] s (applyDomains need s) := by
  unfold applyDomains
  dsimp -failIfUnchanged only
  repeat' (first
    | with_reducible exact Only.refl _ _
    | ((with_reducible refine (powerMask_only _ _ _).andThen ?_ ?_); exact rfl)
    | ((with_reducible refine (unpowerOutside_only _ _ _).andThen ?_ ?_); exact rfl)
    | ((with_reducible refine Only.foldlFrom ?_ ?_); intro _ _)
    | refine Only.ofMk rfl ?_)

theorem applyFollows_only (old new : ConfigSet) (touched : List (Nat × Nat)) (s : State) : Only [.taps, .lanes, .ofdm, .audio, .link, .cfg, .integ, .mode, .domains, .sec] s (applyFollows old new touched s) := by
  unfold applyFollows
  dsimp -failIfUnchanged only
  repeat' (first
    | with_reducible exact Only.refl _ _
    | ((with_reducible refine (State.setFollow_only _ _ _).andThen ?_ ?_); exact rfl)
    | ((with_reducible refine (restartFollow_only _ _).andThen ?_ ?_); exact rfl)
    | ((with_reducible refine (stopFollow_only _ _).andThen ?_ ?_); exact rfl)
    | ((with_reducible refine Only.foldlFrom ?_ ?_); intro _ _)
    | with_reducible refine Only.ite ?_ ?_
    | refine Only.ofMk rfl ?_)

theorem bringSet_only (need : State → Nat → Nat) (old new : ConfigSet) (touched : List (Nat × Nat)) (s : State) : Only [.clk, .spans, .front, .taps, .lanes, .ofdm, .audio, .ports, .link, .cfg, .cal, .integ, .mode, .domains, .mb, .sec] s (bringSet need old new touched s) := by
  unfold bringSet
  dsimp -failIfUnchanged only
  repeat' (first
    | with_reducible exact Only.refl _ _
    | ((with_reducible refine (applyCluster_only _ _ _).andThen ?_ ?_); exact rfl)
    | ((with_reducible refine (applyCourse_only _ _ _ _).andThen ?_ ?_); exact rfl)
    | ((with_reducible refine (applyDomains_only _ _).andThen ?_ ?_); exact rfl)
    | ((with_reducible refine (applyEngine_only _ _ _ _).andThen ?_ ?_); exact rfl)
    | ((with_reducible refine (applyFollows_only _ _ _ _).andThen ?_ ?_); exact rfl)
    | ((with_reducible refine (applyMask_only _ _).andThen ?_ ?_); exact rfl)
    | ((with_reducible refine (applySlot_only _ _ _).andThen ?_ ?_); exact rfl)
    | ((with_reducible refine (applySteps_only _ _ _).andThen ?_ ?_); exact rfl)
    | ((with_reducible refine (assignExports_only _).andThen ?_ ?_); exact rfl)
    | ((with_reducible refine (commitPort_only _ _ _ _).andThen ?_ ?_); exact rfl)
    | ((with_reducible refine (endCaptures_only _ _).andThen ?_ ?_); exact rfl)
    | ((with_reducible refine (matchZeroSpans_only _ _).andThen ?_ ?_); exact rfl)
    | ((with_reducible refine Only.foldlFrom ?_ ?_); intro _ _)
    | with_reducible refine Only.ite ?_ ?_
    | split
    | refine Only.ofMk rfl ?_)

/-! ### Streams -/

theorem markSaturation_only (x : StreamId) (sat : Nat) (s : State) : Only [.taps, .link, .integ, .sec] s (markSaturation x sat s) := by
  unfold markSaturation
  dsimp -failIfUnchanged only
  repeat' (first
    | with_reducible exact Only.refl _ _
    | ((with_reducible refine (raise_only _ _ _ _).andThen ?_ ?_); exact rfl)
    | ((with_reducible refine Only.foldlFrom ?_ ?_); intro _ _)
    | with_reducible refine Only.ite ?_ ?_
    | split
    | refine Only.ofMk rfl ?_)

theorem execStreamBlockFormed_frames (x : StreamId) (t0 : Nat) (air : Air) (fault : Nat) (old late choked : Bool) (s : State) : Frames [.taps, .link, .integ, .sec] s (execStreamBlockFormed x t0 air fault old late choked s) := by
  unfold execStreamBlockFormed
  dsimp -failIfUnchanged only
  repeat' (first
    | with_reducible exact Only.refl _ _
    | ((with_reducible refine Frames.onlyIf ?_); intro hg)
    | with_reducible refine Frames.next ?_
    | ((with_reducible refine (State.beforeEdge_only _ _).andThen ?_ ?_); exact rfl)
    | ((with_reducible refine (State.setRing_only _ _ _).andThen ?_ ?_); exact rfl)
    | ((with_reducible refine (discardBlock_only _ _).andThen ?_ ?_); exact rfl)
    | ((with_reducible refine (formBlock_only _ _ _).andThen ?_ ?_); exact rfl)
    | ((with_reducible refine (markSaturation_only _ _ _).andThen ?_ ?_); exact rfl)
    | ((with_reducible refine Only.foldlFrom ?_ ?_); intro _ _)
    | with_reducible refine Only.ite ?_ ?_
    | split
    | refine Only.ofMk rfl ?_)

/-! ### Tones -/

theorem noteReach_only (n : Nat) (s : State) : Only [.link, .cal, .integ, .sec] s (noteReach n s) := by
  unfold noteReach
  dsimp -failIfUnchanged only
  repeat' (first
    | with_reducible exact Only.refl _ _
    | ((with_reducible refine (raise_only _ _ _ _).andThen ?_ ?_); exact rfl)
    | with_reducible refine Only.ite ?_ ?_
    | refine Only.ofMk rfl ?_)

end Sys2Proof.Machine
end

