-- ==== Sys2Proof/Laws/Frames5.lean ====
section
/-!
SUPPORT. Frames of faults, repair, modes, security, boot, the monitor: which parts of the state each operation and each command leaves alone. `x_only` speaks of an operation, `x_frames` of a command: it answers a next state, and only the parts named differ.
-/
/- One proof at a time: the default arguments of `Only.ofMk` are tactics, and a proof that runs them beside others waits for those, a thread each. -/
set_option Elab.async false

namespace Sys2Proof.Machine

/-! ### Faults -/

theorem execLockstepDisagreement_frames (d : Nat) (s : State) : Frames [.spans, .front, .taps, .lanes, .ofdm, .audio, .ports, .link, .cfg, .cal, .integ, .mode, .domains, .mb, .sec, .nv, .modeCode] s (execLockstepDisagreement d s) := by
  unfold execLockstepDisagreement
  dsimp -failIfUnchanged only
  repeat' (first
    | with_reducible exact Only.refl _ _
    | ((with_reducible refine Frames.onlyIf ?_); intro hg)
    | with_reducible refine Frames.next ?_
    | ((with_reducible refine (enterHalted_only _ _).andThen ?_ ?_); exact rfl)
    | ((with_reducible refine (fenceDie_only _ _ _ _).andThen ?_ ?_); exact rfl)
    | ((with_reducible refine (raise_only _ _ _ _).andThen ?_ ?_); exact rfl)
    | with_reducible refine Only.ite ?_ ?_
    | refine Only.ofMk rfl ?_)

theorem execSupplyTrip_frames (d dom : Nat) (tooHigh : Bool) (s : State) : Frames [.clk, .spans, .front, .taps, .lanes, .ofdm, .audio, .ports, .link, .cfg, .cal, .integ, .mode, .domains, .mb, .sec, .nv, .modeCode] s (execSupplyTrip d dom tooHigh s) := by
  unfold execSupplyTrip
  dsimp -failIfUnchanged only
  repeat' (first
    | with_reducible exact Only.refl _ _
    | ((with_reducible refine Frames.onlyIf ?_); intro hg)
    | with_reducible refine Frames.next ?_
    | ((with_reducible refine (domainOff_only _ _ _).andThen ?_ ?_); exact rfl)
    | ((with_reducible refine (enterHalted_only _ _).andThen ?_ ?_); exact rfl)
    | ((with_reducible refine (fenceDie_only _ _ _ _).andThen ?_ ?_); exact rfl)
    | ((with_reducible refine (raise_only _ _ _ _).andThen ?_ ?_); exact rfl)
    | with_reducible refine Only.ite ?_ ?_
    | refine Only.ofMk rfl ?_)

theorem execHostLinkFault_frames (s : State) : Frames [.spans, .front, .taps, .lanes, .ofdm, .audio, .ports, .link, .cfg, .integ, .mode, .domains, .mb, .sec, .nv, .modeCode] s (execHostLinkFault s) := by
  unfold execHostLinkFault
  dsimp -failIfUnchanged only
  repeat' (first
    | with_reducible exact Only.refl _ _
    | ((with_reducible refine Frames.onlyIf ?_); intro hg)
    | with_reducible refine Frames.next ?_
    | ((with_reducible refine (enterHalted_only _ _).andThen ?_ ?_); exact rfl)
    | refine Only.ofMk rfl ?_)

theorem remapRow_only (d array row : Nat) (s : State) : Only [.spans, .link, .integ, .mode, .sec, .nv, .modeCode] s (remapRow d array row s) := by
  unfold remapRow
  dsimp -failIfUnchanged only
  repeat' (first
    | with_reducible exact Only.refl _ _
    | ((with_reducible refine (raise_only _ _ _ _).andThen ?_ ?_); exact rfl)
    | ((with_reducible refine (refresh_only _).andThen ?_ ?_); exact rfl)
    | with_reducible refine Only.ite ?_ ?_
    | refine Only.ofMk rfl ?_)

theorem execSramSingleBitError_frames (d array row word : Nat) (s : State) : Frames [.spans, .link, .integ, .mode, .sec, .nv, .modeCode] s (execSramSingleBitError d array row word s) := by
  unfold execSramSingleBitError
  dsimp -failIfUnchanged only
  repeat' (first
    | with_reducible exact Only.refl _ _
    | ((with_reducible refine Frames.onlyIf ?_); intro hg)
    | with_reducible refine Frames.next ?_
    | ((with_reducible refine (State.setDieInteg_only _ _ _).andThen ?_ ?_); exact rfl)
    | ((with_reducible refine (occur_only _ _ _).andThen ?_ ?_); exact rfl)
    | ((with_reducible refine (remapRow_only _ _ _ _).andThen ?_ ?_); exact rfl)
    | with_reducible refine Only.ite ?_ ?_
    | refine Only.ofMk rfl ?_)

theorem loseData_only (d : Nat) (o : SramOwner) (s : State) : Only [.spans, .front, .taps, .lanes, .ofdm, .audio, .ports, .link, .cfg, .cal, .integ, .mode, .domains, .mb, .sec, .nv, .modeCode] s (loseData d o s) := by
  unfold loseData
  dsimp -failIfUnchanged only
  repeat' (first
    | with_reducible exact Only.refl _ _
    | ((with_reducible refine (State.setContext_only _ _ _).andThen ?_ ?_); exact rfl)
    | ((with_reducible refine (State.setDieInteg_only _ _ _).andThen ?_ ?_); exact rfl)
    | ((with_reducible refine (State.setSignal_only _ _ _ _).andThen ?_ ?_); exact rfl)
    | ((with_reducible refine (State.setSlot_only _ _ _).andThen ?_ ?_); exact rfl)
    | ((with_reducible refine (addSpan_only _ _ _).andThen ?_ ?_); exact rfl)
    | ((with_reducible refine (bandTapSpan_only _ _ _ _).andThen ?_ ?_); exact rfl)
    | ((with_reducible refine (discardBlock_only _ _).andThen ?_ ?_); exact rfl)
    | ((with_reducible refine (dropOldest_only _ _).andThen ?_ ?_); exact rfl)
    | ((with_reducible refine (enterHalted_only _ _).andThen ?_ ?_); exact rfl)
    | ((with_reducible refine (fenceDie_only _ _ _ _).andThen ?_ ?_); exact rfl)
    | ((with_reducible refine (raise_only _ _ _ _).andThen ?_ ?_); exact rfl)
    | ((with_reducible refine (restartHere_only _ _ _).andThen ?_ ?_); exact rfl)
    | ((with_reducible refine Only.foldlFrom ?_ ?_); intro _ _)
    | with_reducible refine Only.ite ?_ ?_
    | split
    | refine Only.ofMk rfl ?_)

theorem execSramUncorrectable_frames (d word : Nat) (o : SramOwner) (s : State) : Frames [.spans, .front, .taps, .lanes, .ofdm, .audio, .ports, .link, .cfg, .cal, .integ, .mode, .domains, .mb, .sec, .nv, .modeCode] s (execSramUncorrectable d word o s) := by
  unfold execSramUncorrectable
  dsimp -failIfUnchanged only
  repeat' (first
    | with_reducible exact Only.refl _ _
    | ((with_reducible refine Frames.onlyIf ?_); intro hg)
    | with_reducible refine Frames.next ?_
    | ((with_reducible refine (State.setDieInteg_only _ _ _).andThen ?_ ?_); exact rfl)
    | ((with_reducible refine (loseData_only _ _ _).andThen ?_ ?_); exact rfl)
    | ((with_reducible refine (raise_only _ _ _ _).andThen ?_ ?_); exact rfl)
    | refine Only.ofMk rfl ?_)

theorem execPlanishPassStart_frames (d : Nat) (s : State) : Frames [.integ] s (execPlanishPassStart d s) := by
  unfold execPlanishPassStart
  dsimp -failIfUnchanged only
  repeat' (first
    | with_reducible exact Only.refl _ _
    | ((with_reducible refine Frames.onlyIf ?_); intro hg)
    | with_reducible refine Frames.next ?_
    | ((with_reducible refine (State.setDieInteg_only _ _ _).andThen ?_ ?_); exact rfl)
    | refine Only.ofMk rfl ?_)

theorem execPlanishPassComplete_frames (d : Nat) (s : State) : Frames [.spans, .link, .integ, .mode, .sec, .modeCode] s (execPlanishPassComplete d s) := by
  unfold execPlanishPassComplete
  dsimp -failIfUnchanged only
  repeat' (first
    | with_reducible exact Only.refl _ _
    | ((with_reducible refine Frames.onlyIf ?_); intro hg)
    | with_reducible refine Frames.next ?_
    | ((with_reducible refine (State.setDieInteg_only _ _ _).andThen ?_ ?_); exact rfl)
    | ((with_reducible refine (refresh_only _).andThen ?_ ?_); exact rfl)
    | ((with_reducible refine (taskNormal_only _ _).andThen ?_ ?_); exact rfl)
    | refine Only.ofMk rfl ?_)

theorem State.setLink_only (s : State) (d dir : Nat) (f : LinkDir → LinkDir) : Only [.integ] s (State.setLink s d dir f) := Only.ofMk rfl (Only.refl _ _)

theorem failLink_only (d dir : Nat) (s : State) : Only [.spans, .link, .integ, .mode, .sec, .modeCode] s (failLink d dir s) := by
  unfold failLink
  dsimp -failIfUnchanged only
  repeat' (first
    | with_reducible exact Only.refl _ _
    | ((with_reducible refine (State.setLink_only _ _ _ _).andThen ?_ ?_); exact rfl)
    | ((with_reducible refine (raise_only _ _ _ _).andThen ?_ ?_); exact rfl)
    | ((with_reducible refine (refresh_only _).andThen ?_ ?_); exact rfl)
    | with_reducible refine Only.ite ?_ ?_
    | refine Only.ofMk rfl ?_)

theorem retireLinkLane_only (u : UnitRef) (s : State) : Only [.spans, .link, .integ, .mode, .sec, .nv, .modeCode] s (retireLinkLane u s) := by
  unfold retireLinkLane
  dsimp -failIfUnchanged only
  repeat' (first
    | with_reducible exact Only.refl _ _
    | ((with_reducible refine (raise_only _ _ _ _).andThen ?_ ?_); exact rfl)
    | ((with_reducible refine (refresh_only _).andThen ?_ ?_); exact rfl)
    | ((with_reducible refine (retireUnit_only _ _).andThen ?_ ?_); exact rfl)
    | with_reducible refine Only.ite ?_ ?_
    | refine Only.ofMk rfl ?_)

theorem execFlitCrcError_frames (d dir : Nat) (lanes : List Nat) (consecutive replayed : Bool) (s : State) : Frames [.spans, .link, .integ, .mode, .sec, .nv, .modeCode] s (execFlitCrcError d dir lanes consecutive replayed s) := by
  unfold execFlitCrcError
  dsimp -failIfUnchanged only
  repeat' (first
    | with_reducible exact Only.refl _ _
    | ((with_reducible refine Frames.onlyIf ?_); intro hg)
    | with_reducible refine Frames.next ?_
    | ((with_reducible refine (State.setDieInteg_only _ _ _).andThen ?_ ?_); exact rfl)
    | ((with_reducible refine (State.setLink_only _ _ _ _).andThen ?_ ?_); exact rfl)
    | ((with_reducible refine (failLink_only _ _ _).andThen ?_ ?_); exact rfl)
    | ((with_reducible refine (occur_only _ _ _).andThen ?_ ?_); exact rfl)
    | ((with_reducible refine (retireLinkLane_only _ _).andThen ?_ ?_); exact rfl)
    | ((with_reducible refine Only.foldlFrom ?_ ?_); intro _ _)
    | with_reducible refine Only.ite ?_ ?_
    | refine Only.ofMk rfl ?_)

theorem execLinkReceiverLockLoss_frames (d dir : Nat) (s : State) : Frames [.spans, .link, .integ, .mode, .sec, .modeCode] s (execLinkReceiverLockLoss d dir s) := by
  unfold execLinkReceiverLockLoss
  dsimp -failIfUnchanged only
  repeat' (first
    | with_reducible exact Only.refl _ _
    | ((with_reducible refine Frames.onlyIf ?_); intro hg)
    | with_reducible refine Frames.next ?_
    | ((with_reducible refine (failLink_only _ _ _).andThen ?_ ?_); exact rfl)
    | refine Only.ofMk rfl ?_)

theorem execLinkProbe_frames (d dir : Nat) (trained : Bool) (s : State) : Frames [.integ] s (execLinkProbe d dir trained s) := by
  unfold execLinkProbe
  dsimp -failIfUnchanged only
  repeat' (first
    | with_reducible exact Only.refl _ _
    | ((with_reducible refine Frames.onlyIf ?_); intro hg)
    | with_reducible refine Frames.next ?_
    | ((with_reducible refine (State.setLink_only _ _ _ _).andThen ?_ ?_); exact rfl)
    | with_reducible refine Only.ite ?_ ?_
    | refine Only.ofMk rfl ?_)

theorem execLinkRestored_frames (d dir : Nat) (s : State) : Frames [.spans, .link, .integ, .mode, .sec, .modeCode] s (execLinkRestored d dir s) := by
  unfold execLinkRestored
  dsimp -failIfUnchanged only
  repeat' (first
    | with_reducible exact Only.refl _ _
    | ((with_reducible refine Frames.onlyIf ?_); intro hg)
    | with_reducible refine Frames.next ?_
    | ((with_reducible refine (State.setLink_only _ _ _ _).andThen ?_ ?_); exact rfl)
    | ((with_reducible refine (raise_only _ _ _ _).andThen ?_ ?_); exact rfl)
    | ((with_reducible refine (refresh_only _).andThen ?_ ?_); exact rfl)
    | split
    | refine Only.ofMk rfl ?_)

theorem execLastingRuleWrite_frames (i v : Nat) (s : State) : Frames [.integ, .mode, .rules] s (execLastingRuleWrite i v s) := by
  unfold execLastingRuleWrite
  dsimp -failIfUnchanged only
  repeat' (first
    | with_reducible exact Only.refl _ _
    | ((with_reducible refine Frames.onlyIf ?_); intro hg)
    | with_reducible refine Frames.next ?_
    | ((with_reducible refine (hostAccess_only _).andThen ?_ ?_); exact rfl)
    | with_reducible refine Only.ite ?_ ?_
    | refine Only.ofMk rfl ?_)

theorem preempt_only (s : State) : Only [.lanes, .link, .integ, .sec] s (preempt s) := by
  unfold preempt
  dsimp -failIfUnchanged only
  repeat' (first
    | with_reducible exact Only.refl _ _
    | ((with_reducible refine (State.setWatch_only _ _ _).andThen ?_ ?_); exact rfl)
    | ((with_reducible refine (dropOldest_only _ _).andThen ?_ ?_); exact rfl)
    | ((with_reducible refine (raise_only _ _ _ _).andThen ?_ ?_); exact rfl)
    | ((with_reducible refine Only.foldlFrom ?_ ?_); intro _ _)
    | with_reducible refine Only.ite ?_ ?_
    | refine Only.ofMk rfl ?_)

theorem execBackgroundTaskAgeing_frames (t : Task) (overdue : Bool) (s : State) : Frames [.spans, .lanes, .link, .cal, .integ, .mode, .sec, .modeCode] s (execBackgroundTaskAgeing t overdue s) := by
  unfold execBackgroundTaskAgeing
  dsimp -failIfUnchanged only
  repeat' (first
    | with_reducible exact Only.refl _ _
    | ((with_reducible refine Frames.onlyIf ?_); intro hg)
    | with_reducible refine Frames.next ?_
    | ((with_reducible refine (State.setDieInteg_only _ _ _).andThen ?_ ?_); exact rfl)
    | ((with_reducible refine (noteReach_only _ _).andThen ?_ ?_); exact rfl)
    | ((with_reducible refine (preempt_only _).andThen ?_ ?_); exact rfl)
    | ((with_reducible refine (raise_only _ _ _ _).andThen ?_ ?_); exact rfl)
    | ((with_reducible refine (refresh_only _).andThen ?_ ?_); exact rfl)
    | ((with_reducible refine (taskDue_only _ _).andThen ?_ ?_); exact rfl)
    | ((with_reducible refine (taskOverdue_only _ _).andThen ?_ ?_); exact rfl)
    | with_reducible refine Only.ite ?_ ?_
    | split
    | refine Only.ofMk rfl ?_)

theorem execFlashRefresh_frames (fails : Bool) (s : State) : Frames [.spans, .link, .integ, .mode, .sec, .modeCode] s (execFlashRefresh fails s) := by
  unfold execFlashRefresh
  dsimp -failIfUnchanged only
  repeat' (first
    | with_reducible exact Only.refl _ _
    | ((with_reducible refine Frames.onlyIf ?_); intro hg)
    | with_reducible refine Frames.next ?_
    | ((with_reducible refine (flashFault_only _ _).andThen ?_ ?_); exact rfl)
    | ((with_reducible refine (refresh_only _).andThen ?_ ?_); exact rfl)
    | ((with_reducible refine (taskNormal_only _ _).andThen ?_ ?_); exact rfl)
    | with_reducible refine Only.ite ?_ ?_
    | refine Only.ofMk rfl ?_)

theorem execFaultLogWrite_frames (fails : Bool) (s : State) : Frames [.spans, .link, .integ, .mode, .sec, .nv, .modeCode] s (execFaultLogWrite fails s) := by
  unfold execFaultLogWrite
  dsimp -failIfUnchanged only
  repeat' (first
    | with_reducible exact Only.refl _ _
    | ((with_reducible refine Frames.onlyIf ?_); intro hg)
    | with_reducible refine Frames.next ?_
    | ((with_reducible refine (flashFault_only _ _).andThen ?_ ?_); exact rfl)
    | ((with_reducible refine (refresh_only _).andThen ?_ ?_); exact rfl)
    | ((with_reducible refine (taskNormal_only _ _).andThen ?_ ?_); exact rfl)
    | ((with_reducible refine (writeLog_only _ _).andThen ?_ ?_); exact rfl)
    | with_reducible refine Only.ite ?_ ?_
    | split
    | refine Only.ofMk rfl ?_)

theorem execLogSuppressed_frames (code : Nat) (s : State) : Frames [.link, .integ, .sec] s (execLogSuppressed code s) := by
  unfold execLogSuppressed
  dsimp -failIfUnchanged only
  repeat' (first
    | with_reducible exact Only.refl _ _
    | ((with_reducible refine Frames.onlyIf ?_); intro hg)
    | with_reducible refine Frames.next ?_
    | ((with_reducible refine (raise_only _ _ _ _).andThen ?_ ?_); exact rfl)
    | with_reducible refine Only.ite ?_ ?_
    | refine Only.ofMk rfl ?_)

/-! ### Repair -/

theorem execFaultQuery_frames (src : CmdSrc) (s : State) : Frames [.link, .mb] s (execFaultQuery src s) := by
  unfold execFaultQuery
  dsimp -failIfUnchanged only
  repeat' (first
    | with_reducible exact Only.refl _ _
    | ((with_reducible refine Frames.onlyIf ?_); intro hg)
    | with_reducible refine Frames.next ?_
    | (refine runCmd_frames _ _ _ _ _ ?_ rfl; intro f s)
    | ((with_reducible refine (finishOutput_only _ _ _ _).andThen ?_ ?_); exact rfl)
    | with_reducible refine Only.ite ?_ ?_
    | split
    | refine Only.ofMk rfl ?_)

theorem execLogRead_frames (src : CmdSrc) (s : State) : Frames [.link, .mb] s (execLogRead src s) := by
  unfold execLogRead
  dsimp -failIfUnchanged only
  repeat' (first
    | with_reducible exact Only.refl _ _
    | ((with_reducible refine Frames.onlyIf ?_); intro hg)
    | with_reducible refine Frames.next ?_
    | (refine runCmd_frames _ _ _ _ _ ?_ rfl; intro f s)
    | ((with_reducible refine (finishOutput_only _ _ _ _).andThen ?_ ?_); exact rfl)
    | split
    | refine Only.ofMk rfl ?_)

theorem releaseLoop_only (u : UnitRef) (s : State) : Only [.clk] s (releaseLoop u s) := by
  unfold releaseLoop
  dsimp -failIfUnchanged only
  repeat' (first
    | with_reducible exact Only.refl _ _
    | ((with_reducible refine (State.setClk_only _ _ _).andThen ?_ ?_); exact rfl)
    | with_reducible refine Only.ite ?_ ?_
    | split
    | refine Only.ofMk rfl ?_)

theorem execFaultClear_frames (src : CmdSrc) (s : State) : Frames [.clk, .spans, .link, .integ, .mode, .mb, .sec, .modeCode] s (execFaultClear src s) := by
  unfold execFaultClear
  dsimp -failIfUnchanged only
  repeat' (first
    | with_reducible exact Only.refl _ _
    | ((with_reducible refine Frames.onlyIf ?_); intro hg)
    | with_reducible refine Frames.next ?_
    | (refine runCmd_frames _ _ _ _ _ ?_ rfl; intro f s)
    | ((with_reducible refine (eraseOccs_only _ _).andThen ?_ ?_); exact rfl)
    | ((with_reducible refine (finish_only _ _ _ _ _).andThen ?_ ?_); exact rfl)
    | ((with_reducible refine (raise_only _ _ _ _).andThen ?_ ?_); exact rfl)
    | ((with_reducible refine (refresh_only _).andThen ?_ ?_); exact rfl)
    | ((with_reducible refine (releaseLoop_only _ _).andThen ?_ ?_); exact rfl)
    | split
    | refine Only.ofMk rfl ?_)

theorem retireForced_only (u : UnitRef) (s : State) : Only [.spans, .front, .taps, .lanes, .link, .cal, .integ, .mode, .mb, .sec, .nv, .modeCode] s (retireForced u s) := by
  unfold retireForced
  dsimp -failIfUnchanged only
  repeat' (first
    | with_reducible exact Only.refl _ _
    | ((with_reducible refine (State.setExport_only _ _ _).andThen ?_ ?_); exact rfl)
    | ((with_reducible refine (failLink_only _ _ _).andThen ?_ ?_); exact rfl)
    | ((with_reducible refine (matchZeroSpans_only _ _).andThen ?_ ?_); exact rfl)
    | ((with_reducible refine (retireAudit_only _ _).andThen ?_ ?_); exact rfl)
    | ((with_reducible refine (retireLinkLane_only _ _).andThen ?_ ?_); exact rfl)
    | ((with_reducible refine (retirePlain_only _ _ _).andThen ?_ ?_); exact rfl)
    | ((with_reducible refine (retireSpare_only _ _).andThen ?_ ?_); exact rfl)
    | split
    | refine Only.ofMk rfl ?_)

theorem retireByCommand_only (u : UnitRef) (s : State) : Only [.spans, .front, .taps, .lanes, .ofdm, .link, .cal, .integ, .mode, .domains, .mb, .sec, .nv, .modeCode] s (retireByCommand u s).2 := by
  unfold retireByCommand
  dsimp -failIfUnchanged only
  repeat' (first
    | with_reducible exact Only.refl _ _
    | ((with_reducible refine (State.setAudit_only _ _ _).andThen ?_ ?_); exact rfl)
    | ((with_reducible refine (failConverter_only _ _ _ _).andThen ?_ ?_); exact rfl)
    | ((with_reducible refine (replaceLane_only _ _).andThen ?_ ?_); exact rfl)
    | ((with_reducible refine (retireAudio_only _ _).andThen ?_ ?_); exact rfl)
    | ((with_reducible refine (retireAudit_only _ _).andThen ?_ ?_); exact rfl)
    | ((with_reducible refine (retireEngine_only _ _ _ _).andThen ?_ ?_); exact rfl)
    | ((with_reducible refine (retireLinkLane_only _ _).andThen ?_ ?_); exact rfl)
    | ((with_reducible refine (retirePlain_only _ _ _).andThen ?_ ?_); exact rfl)
    | ((with_reducible refine (retireSlice_only _ _ _).andThen ?_ ?_); exact rfl)
    | ((with_reducible refine (retireSpare_only _ _).andThen ?_ ?_); exact rfl)
    | ((with_reducible refine (retireUnit_only _ _).andThen ?_ ?_); exact rfl)
    | with_reducible refine Only.ite ?_ ?_
    | split
    | refine Only.ofMk rfl ?_)

theorem execUnitRetire_frames (src : CmdSrc) (s : State) : Frames [.spans, .front, .taps, .lanes, .ofdm, .link, .cal, .integ, .mode, .domains, .mb, .sec, .nv, .modeCode] s (execUnitRetire src s) := by
  unfold execUnitRetire
  dsimp -failIfUnchanged only
  repeat' (first
    | with_reducible exact Only.refl _ _
    | ((with_reducible refine Frames.onlyIf ?_); intro hg)
    | with_reducible refine Frames.next ?_
    | (refine runCmd_frames _ _ _ _ _ ?_ rfl; intro f s)
    | ((with_reducible refine (await_only _ _ _ _).andThen ?_ ?_); exact rfl)
    | ((with_reducible refine (finish_only _ _ _ _ _).andThen ?_ ?_); exact rfl)
    | ((with_reducible refine (retireByCommand_only _ _).andThen ?_ ?_); exact rfl)
    | ((with_reducible refine (retireForced_only _ _).andThen ?_ ?_); exact rfl)
    | with_reducible refine Only.ite ?_ ?_
    | split
    | refine Only.ofMk rfl ?_)

theorem restorePlain_only (u : UnitRef) (s : State) : Only [.spans, .link, .integ, .mode, .sec, .nv, .retirement, .modeCode] s (restorePlain u s) := by
  unfold restorePlain
  dsimp -failIfUnchanged only
  repeat' (first
    | with_reducible exact Only.refl _ _
    | ((with_reducible refine (raise_only _ _ _ _).andThen ?_ ?_); exact rfl)
    | ((with_reducible refine (refresh_only _).andThen ?_ ?_); exact rfl)
    | ((with_reducible refine (unretireUnit_only _ _).andThen ?_ ?_); exact rfl)
    | refine Only.ofMk rfl ?_)

theorem restoreTap_only (u : UnitRef) (s : State) : Only [.spans, .taps, .link, .integ, .mode, .sec, .nv, .retirement, .modeCode] s (restoreTap u s) := by
  unfold restoreTap
  dsimp -failIfUnchanged only
  repeat' (first
    | with_reducible exact Only.refl _ _
    | ((with_reducible refine (matchZeroSpans_only _ _).andThen ?_ ?_); exact rfl)
    | ((with_reducible refine (restorePlain_only _ _).andThen ?_ ?_); exact rfl)
    | with_reducible refine Only.ite ?_ ?_
    | split
    | refine Only.ofMk rfl ?_)

theorem restoreSlice_only (k i : Nat) (s : State) : Only [.spans, .front, .link, .integ, .mode, .sec, .nv, .retirement, .modeCode] s (restoreSlice k i s) := by
  unfold restoreSlice
  dsimp -failIfUnchanged only
  repeat' (first
    | with_reducible exact Only.refl _ _
    | ((with_reducible refine (State.setConv_only _ _ _).andThen ?_ ?_); exact rfl)
    | ((with_reducible refine (raise_only _ _ _ _).andThen ?_ ?_); exact rfl)
    | ((with_reducible refine (refresh_only _).andThen ?_ ?_); exact rfl)
    | ((with_reducible refine (unretireUnit_only _ _).andThen ?_ ?_); exact rfl)
    | with_reducible refine Only.ite ?_ ?_
    | refine Only.ofMk rfl ?_)

theorem execUnitRestore_frames (src : CmdSrc) (pass : Bool) (s : State) : Frames [.clk, .spans, .front, .taps, .lanes, .ofdm, .link, .cal, .integ, .mode, .domains, .mb, .sec, .nv, .retirement, .modeCode] s (execUnitRestore src pass s) := by
  unfold execUnitRestore
  dsimp -failIfUnchanged only
  repeat' (first
    | with_reducible exact Only.refl _ _
    | ((with_reducible refine Frames.onlyIf ?_); intro hg)
    | with_reducible refine Frames.next ?_
    | (refine runCmd_frames _ _ _ _ _ ?_ rfl; intro f s)
    | ((with_reducible refine (State.setConv_only _ _ _).andThen ?_ ?_); exact rfl)
    | ((with_reducible refine (State.setRegion_only _ _ _).andThen ?_ ?_); exact rfl)
    | ((with_reducible refine (State.setSpare_only _ _ _).andThen ?_ ?_); exact rfl)
    | ((with_reducible refine (await_only _ _ _ _).andThen ?_ ?_); exact rfl)
    | ((with_reducible refine (endConvRestore_only _ _ _).andThen ?_ ?_); exact rfl)
    | ((with_reducible refine (finish_only _ _ _ _ _).andThen ?_ ?_); exact rfl)
    | ((with_reducible refine (powerConv_only _ _).andThen ?_ ?_); exact rfl)
    | ((with_reducible refine (raise_only _ _ _ _).andThen ?_ ?_); exact rfl)
    | ((with_reducible refine (refresh_only _).andThen ?_ ?_); exact rfl)
    | ((with_reducible refine (restoreLane_only _ _).andThen ?_ ?_); exact rfl)
    | ((with_reducible refine (restorePlain_only _ _).andThen ?_ ?_); exact rfl)
    | ((with_reducible refine (restoreSlice_only _ _ _).andThen ?_ ?_); exact rfl)
    | ((with_reducible refine (restoreTap_only _ _).andThen ?_ ?_); exact rfl)
    | ((with_reducible refine (unretireUnit_only _ _).andThen ?_ ?_); exact rfl)
    | with_reducible refine Only.ite ?_ ?_
    | split
    | refine Only.ofMk rfl ?_)

/-! ### Modes -/

theorem reviewAlerts_only (s : State) : Only [.link, .integ, .mode, .domains, .sec] s (reviewAlerts s) := by
  unfold reviewAlerts
  dsimp -failIfUnchanged only
  repeat' (first
    | with_reducible exact Only.refl _ _
    | ((with_reducible refine (setAlert_only _ _ _).andThen ?_ ?_); exact rfl)
    | ((with_reducible refine Only.foldlFrom ?_ ?_); intro _ _)
    | refine Only.ofMk rfl ?_)

theorem modeInForce_only (m : OpMode) (cause : ModeCause) (s : State) : Only [.spans, .link, .integ, .mode, .domains, .mb, .sec, .modeCode] s (modeInForce m cause s) := by
  unfold modeInForce
  dsimp -failIfUnchanged only
  repeat' (first
    | with_reducible exact Only.refl _ _
    | ((with_reducible refine (completeWait_only _ _ _ _).andThen ?_ ?_); exact rfl)
    | ((with_reducible refine (refresh_only _).andThen ?_ ?_); exact rfl)
    | ((with_reducible refine (reviewAlerts_only _).andThen ?_ ?_); exact rfl)
    | ((with_reducible refine (seeUnits_only _).andThen ?_ ?_); exact rfl)
    | ((with_reducible refine (setMode_only _ _ _).andThen ?_ ?_); exact rfl)
    | refine Only.ofMk rfl ?_)

theorem execReceptionEntryTick_frames (s : State) : Frames [.clk, .spans, .front, .taps, .lanes, .ofdm, .audio, .ports, .link, .cfg, .cal, .integ, .mode, .domains, .mb, .sec, .modeCode] s (execReceptionEntryTick s) := by
  unfold execReceptionEntryTick
  dsimp -failIfUnchanged only
  repeat' (first
    | with_reducible exact Only.refl _ _
    | ((with_reducible refine Frames.onlyIf ?_); intro hg)
    | with_reducible refine Frames.next ?_
    | ((with_reducible refine (bringSet_only _ _ _ _ _).andThen ?_ ?_); exact rfl)
    | ((with_reducible refine (modeInForce_only _ _ _).andThen ?_ ?_); exact rfl)
    | with_reducible refine Only.ite ?_ ?_
    | split
    | refine Only.ofMk rfl ?_)

theorem stopAllPorts_only (s : State) : Only [.ports, .link, .integ, .sec] s (stopAllPorts s) := by
  unfold stopAllPorts
  dsimp -failIfUnchanged only
  repeat' (first
    | with_reducible exact Only.refl _ _
    | ((with_reducible refine (State.setPort_only _ _ _).andThen ?_ ?_); exact rfl)
    | ((with_reducible refine (stopPortAt_only _ _ _).andThen ?_ ?_); exact rfl)
    | ((with_reducible refine Only.foldlFrom ?_ ?_); intro _ _)
    | refine Only.ofMk rfl ?_)

theorem stopCaptures_only (s : State) : Only [.link, .integ, .sec] s (stopCaptures s) := by
  unfold stopCaptures
  dsimp -failIfUnchanged only
  repeat' (first
    | with_reducible exact Only.refl _ _
    | ((with_reducible refine (endCaptures_only _ _).andThen ?_ ?_); exact rfl)
    | ((with_reducible refine Only.foldlFrom ?_ ?_); intro _ _)
    | with_reducible refine Only.ite ?_ ?_
    | split
    | refine Only.ofMk rfl ?_)

theorem stopAudits_only (s : State) : Only [.spans, .taps, .link, .integ, .mode, .mb, .sec, .nv, .modeCode] s (stopAudits s) := by
  unfold stopAudits
  dsimp -failIfUnchanged only
  repeat' (first
    | with_reducible exact Only.refl _ _
    | ((with_reducible refine (State.setAudit_only _ _ _).andThen ?_ ?_); exact rfl)
    | ((with_reducible refine (completeWait_only _ _ _ _).andThen ?_ ?_); exact rfl)
    | ((with_reducible refine (replaceTap_only _ _).andThen ?_ ?_); exact rfl)
    | ((with_reducible refine Only.foldlFrom ?_ ?_); intro _ _)
    | with_reducible refine Only.ite ?_ ?_
    | split
    | refine Only.ofMk rfl ?_)

theorem keepLeaders_only (s : State) : Only [.clk, .spans, .front, .link, .integ, .domains, .sec] s (keepLeaders s) := by
  unfold keepLeaders
  dsimp -failIfUnchanged only
  repeat' (first
    | with_reducible exact Only.refl _ _
    | ((with_reducible refine (State.setCourse_only _ _ _).andThen ?_ ?_); exact rfl)
    | ((with_reducible refine (standbyReady_only _ _).andThen ?_ ?_); exact rfl)
    | ((with_reducible refine (unpowerConv_only _ _).andThen ?_ ?_); exact rfl)
    | ((with_reducible refine Only.foldlFrom ?_ ?_); intro _ _)
    | split
    | refine Only.ofMk rfl ?_)

theorem execReceptionExitTick_frames (s : State) : Frames [.clk, .spans, .front, .taps, .lanes, .ofdm, .audio, .ports, .link, .cfg, .cal, .integ, .mode, .domains, .mb, .sec, .nv, .modeCode] s (execReceptionExitTick s) := by
  unfold execReceptionExitTick
  dsimp -failIfUnchanged only
  repeat' (first
    | with_reducible exact Only.refl _ _
    | ((with_reducible refine Frames.onlyIf ?_); intro hg)
    | with_reducible refine Frames.next ?_
    | ((with_reducible refine (abortWaits_only _ _).andThen ?_ ?_); exact rfl)
    | ((with_reducible refine (bringSet_only _ _ _ _ _).andThen ?_ ?_); exact rfl)
    | ((with_reducible refine (endLevelStep_only _ _).andThen ?_ ?_); exact rfl)
    | ((with_reducible refine (keepLeaders_only _).andThen ?_ ?_); exact rfl)
    | ((with_reducible refine (modeInForce_only _ _ _).andThen ?_ ?_); exact rfl)
    | ((with_reducible refine (stopAllPorts_only _).andThen ?_ ?_); exact rfl)
    | ((with_reducible refine (stopAudits_only _).andThen ?_ ?_); exact rfl)
    | ((with_reducible refine (stopCaptures_only _).andThen ?_ ?_); exact rfl)
    | ((with_reducible refine Only.foldlFrom ?_ ?_); intro _ _)
    | with_reducible refine Only.ite ?_ ?_
    | split
    | refine Only.ofMk rfl ?_)

theorem enterSystemCal_only (s : State) : Only [.clk, .spans, .front, .domains] s (enterSystemCal s) := by
  unfold enterSystemCal
  dsimp -failIfUnchanged only
  repeat' (first
    | with_reducible exact Only.refl _ _
    | ((with_reducible refine (applyDomains_only _ _).andThen ?_ ?_); exact rfl)
    | ((with_reducible refine (powerConv_only _ _).andThen ?_ ?_); exact rfl)
    | ((with_reducible refine Only.foldlFrom ?_ ?_); intro _ _)
    | with_reducible refine Only.ite ?_ ?_
    | refine Only.ofMk rfl ?_)

theorem leaveSystemCal_only (s : State) : Only [.clk, .spans, .front, .cal, .domains] s (leaveSystemCal s) := by
  unfold leaveSystemCal
  dsimp -failIfUnchanged only
  repeat' (first
    | with_reducible exact Only.refl _ _
    | ((with_reducible refine (applyDomains_only _ _).andThen ?_ ?_); exact rfl)
    | ((with_reducible refine (setInject_only _ _ _).andThen ?_ ?_); exact rfl)
    | ((with_reducible refine (unpowerConv_only _ _).andThen ?_ ?_); exact rfl)
    | ((with_reducible refine Only.foldlFrom ?_ ?_); intro _ _)
    | refine Only.ofMk rfl ?_)

theorem enterSleep_only (s : State) : Only [.clk, .spans, .mode, .domains] s (enterSleep s) := by
  unfold enterSleep
  dsimp -failIfUnchanged only
  repeat' (first
    | with_reducible exact Only.refl _ _
    | ((with_reducible refine (applyDomains_only _ _).andThen ?_ ?_); exact rfl)
    | refine Only.ofMk rfl ?_)

theorem leaveSleep_only (s : State) : Only [.clk, .spans, .mode, .domains] s (leaveSleep s) := by
  unfold leaveSleep
  dsimp -failIfUnchanged only
  repeat' (first
    | with_reducible exact Only.refl _ _
    | ((with_reducible refine (applyDomains_only _ _).andThen ?_ ?_); exact rfl)
    | refine Only.ofMk rfl ?_)

theorem changeNow_only (target : OpMode) (s : State) : Only [.clk, .spans, .front, .link, .cal, .integ, .mode, .domains, .sec, .nv] s (changeNow target s) := by
  unfold changeNow
  dsimp -failIfUnchanged only
  repeat' (first
    | with_reducible exact Only.refl _ _
    | ((with_reducible refine (abandonUpdate_only _ _).andThen ?_ ?_); exact rfl)
    | ((with_reducible refine (enterSleep_only _).andThen ?_ ?_); exact rfl)
    | ((with_reducible refine (enterSystemCal_only _).andThen ?_ ?_); exact rfl)
    | ((with_reducible refine (leaveSleep_only _).andThen ?_ ?_); exact rfl)
    | ((with_reducible refine (leaveSystemCal_only _).andThen ?_ ?_); exact rfl)
    | split
    | refine Only.ofMk rfl ?_)

theorem powerWatch_only (s : State) : Only [.domains] s (powerWatch s) := by
  unfold powerWatch
  dsimp -failIfUnchanged only
  repeat' (first
    | with_reducible exact Only.refl _ _
    | ((with_reducible refine (powerMask_only _ _ _).andThen ?_ ?_); exact rfl)
    | ((with_reducible refine Only.foldlFrom ?_ ?_); intro _ _)
    | refine Only.ofMk rfl ?_)

theorem execModeSet_frames (src : CmdSrc) (s : State) : Frames [.clk, .spans, .front, .link, .cal, .integ, .mode, .domains, .mb, .sec, .nv, .modeCode] s (execModeSet src s) := by
  unfold execModeSet
  dsimp -failIfUnchanged only
  repeat' (first
    | with_reducible exact Only.refl _ _
    | ((with_reducible refine Frames.onlyIf ?_); intro hg)
    | with_reducible refine Frames.next ?_
    | (refine runCmd_frames _ _ _ _ _ ?_ rfl; intro f s)
    | ((with_reducible refine (await_only _ _ _ _).andThen ?_ ?_); exact rfl)
    | ((with_reducible refine (beginReception_only _ _ _ _).andThen ?_ ?_); exact rfl)
    | ((with_reducible refine (changeNow_only _ _).andThen ?_ ?_); exact rfl)
    | ((with_reducible refine (finish_only _ _ _ _ _).andThen ?_ ?_); exact rfl)
    | ((with_reducible refine (modeInForce_only _ _ _).andThen ?_ ?_); exact rfl)
    | ((with_reducible refine (powerWatch_only _).andThen ?_ ?_); exact rfl)
    | with_reducible refine Only.ite ?_ ?_
    | split
    | refine Only.ofMk rfl ?_)

theorem execAlertLatchedClear_frames (s : State) : Frames [.mode] s (execAlertLatchedClear s) := by
  unfold execAlertLatchedClear
  dsimp -failIfUnchanged only
  repeat' (first
    | with_reducible exact Only.refl _ _
    | ((with_reducible refine Frames.onlyIf ?_); intro hg)
    | with_reducible refine Frames.next ?_
    | ((with_reducible refine (hostAccess_only _).andThen ?_ ?_); exact rfl)
    | with_reducible refine Only.ite ?_ ?_
    | refine Only.ofMk rfl ?_)

theorem execWakeLatchedClear_frames (s : State) : Frames [.mode] s (execWakeLatchedClear s) := by
  unfold execWakeLatchedClear
  dsimp -failIfUnchanged only
  repeat' (first
    | with_reducible exact Only.refl _ _
    | ((with_reducible refine Frames.onlyIf ?_); intro hg)
    | with_reducible refine Frames.next ?_
    | ((with_reducible refine (hostAccess_only _).andThen ?_ ?_); exact rfl)
    | refine Only.ofMk rfl ?_)

theorem execSleepClockStop_frames (s : State) : Frames [.mode, .mb] s (execSleepClockStop s) := by
  unfold execSleepClockStop
  dsimp -failIfUnchanged only
  repeat' (first
    | with_reducible exact Only.refl _ _
    | ((with_reducible refine Frames.onlyIf ?_); intro hg)
    | with_reducible refine Frames.next ?_
    | refine Only.ofMk rfl ?_)

theorem execSleepWakeAccess_frames (s : State) : Frames [.mode] s (execSleepWakeAccess s) := by
  unfold execSleepWakeAccess
  dsimp -failIfUnchanged only
  repeat' (first
    | with_reducible exact Only.refl _ _
    | ((with_reducible refine Frames.onlyIf ?_); intro hg)
    | with_reducible refine Frames.next ?_
    | refine Only.ofMk rfl ?_)

/-! ### Security -/

theorem setCounterBits_keeps (n k : Nat) (m : W64) : m &&& setCounterBits n k m = m := by
  induction n generalizing k m with
  | zero => exact BitVec.and_self
  | succ n ih =>
    unfold setCounterBits
    dsimp only
    generalize BitVec.ofNat 64 _ = b
    have h := ih (k + 1) (m ||| b)
    have e : m &&& (m ||| b) = m := by
      ext i
      simp
      exact Or.inl
    calc m &&& setCounterBits n (k + 1) (m ||| b) = (m &&& (m ||| b)) &&& setCounterBits n (k + 1) (m ||| b) := by rw [e]
      _ = m &&& ((m ||| b) &&& setCounterBits n (k + 1) (m ||| b)) := by rw [BitVec.and_assoc]
      _ = m := by rw [h, e]

theorem execAntiRollbackRaise_frames (s : State) : Frames [.link, .integ, .sec, .nv, .freeCount] s (execAntiRollbackRaise s) := by
  unfold execAntiRollbackRaise
  refine Frames.onlyIf fun _ => ?_
  refine (raise_only _ _ _ _).andThen rfl ?_
  exact Only.ofMk rfl (Only.refl _ _) (k_otp := fun _ => ⟨rfl, rfl, rfl, fun _ h => h, setCounterBits_keeps _ _ _⟩)

theorem newHallKey_only (validFrom : Nat) (s : State) : Only [.link, .integ, .sec, .freeCount] s (newHallKey validFrom s) := by
  unfold newHallKey
  dsimp -failIfUnchanged only
  repeat' (first
    | with_reducible exact Only.refl _ _
    | ((with_reducible refine (State.setHall_only _ _).andThen ?_ ?_); exact rfl)
    | ((with_reducible refine (advanceFree_only _).andThen ?_ ?_); exact rfl)
    | ((with_reducible refine (raise_only _ _ _ _).andThen ?_ ?_); exact rfl)
    | refine Only.ofMk rfl ?_)

theorem execHallmarkKeyRotation_frames (s : State) : Frames [.link, .integ, .sec, .freeCount] s (execHallmarkKeyRotation s) := by
  unfold execHallmarkKeyRotation
  dsimp -failIfUnchanged only
  repeat' (first
    | with_reducible exact Only.refl _ _
    | ((with_reducible refine Frames.onlyIf ?_); intro hg)
    | with_reducible refine Frames.next ?_
    | ((with_reducible refine (newHallKey_only _ _).andThen ?_ ?_); exact rfl)
    | split
    | refine Only.ofMk rfl ?_)

theorem sealInterval_only (a : HallAcc) (stop : Nat) (step : Option Int) (s : State) : Only [.link, .sec, .nv] s (sealInterval a stop step s) := by
  unfold sealInterval
  dsimp -failIfUnchanged only
  repeat' (first
    | with_reducible exact Only.refl _ _
    | ((with_reducible refine (State.setHall_only _ _).andThen ?_ ?_); exact rfl)
    | ((with_reducible refine (formRecordBlocks_only _ _ _ _ _ _).andThen ?_ ?_); exact rfl)
    | with_reducible refine Only.ite ?_ ?_
    | refine Only.ofMk rfl ?_)

theorem takeSetting_only (s : State) : Only [.sec] s (takeSetting s) := by
  unfold takeSetting
  dsimp -failIfUnchanged only
  repeat' (first
    | with_reducible exact Only.refl _ _
    | ((with_reducible refine (State.setHall_only _ _).andThen ?_ ?_); exact rfl)
    | with_reducible refine Only.ite ?_ ?_
    | split
    | refine Only.ofMk rfl ?_)

theorem nextInterval_only (t : Nat) (s : State) : Only [.sec] s (nextInterval t s) := by
  unfold nextInterval
  dsimp -failIfUnchanged only
  repeat' (first
    | with_reducible exact Only.refl _ _
    | ((with_reducible refine (State.setHall_only _ _).andThen ?_ ?_); exact rfl)
    | ((with_reducible refine (beginInterval_only _ _).andThen ?_ ?_); exact rfl)
    | ((with_reducible refine (takeSetting_only _).andThen ?_ ?_); exact rfl)
    | with_reducible refine Only.ite ?_ ?_
    | split
    | refine Only.ofMk rfl ?_)

theorem execHallmarkIntervalEnd_frames (s : State) : Frames [.link, .sec, .nv] s (execHallmarkIntervalEnd s) := by
  unfold execHallmarkIntervalEnd
  dsimp -failIfUnchanged only
  repeat' (first
    | with_reducible exact Only.refl _ _
    | ((with_reducible refine Frames.onlyIf ?_); intro hg)
    | with_reducible refine Frames.next ?_
    | ((with_reducible refine (State.setHall_only _ _).andThen ?_ ?_); exact rfl)
    | ((with_reducible refine (carryInterval_only _ _ _).andThen ?_ ?_); exact rfl)
    | ((with_reducible refine (nextInterval_only _ _).andThen ?_ ?_); exact rfl)
    | ((with_reducible refine (sealInterval_only _ _ _ _).andThen ?_ ?_); exact rfl)
    | ((with_reducible refine (takeSetting_only _).andThen ?_ ?_); exact rfl)
    | split
    | refine Only.ofMk rfl ?_)

theorem execDebugChallengeRead_frames (level : Nat) (s : State) : Frames [.link, .sec, .freeCount] s (execDebugChallengeRead level s) := by
  unfold execDebugChallengeRead
  dsimp -failIfUnchanged only
  repeat' (first
    | with_reducible exact Only.refl _ _
    | ((with_reducible refine Frames.onlyIf ?_); intro hg)
    | with_reducible refine Frames.next ?_
    | ((with_reducible refine (advanceFree_only _).andThen ?_ ?_); exact rfl)
    | ((with_reducible refine (send_only _ _).andThen ?_ ?_); exact rfl)
    | refine Only.ofMk rfl ?_)

theorem openDebug_only (level : Nat) (s : State) : Only [.link, .integ, .sec, .debugLevel] s (openDebug level s) := by
  unfold openDebug
  dsimp -failIfUnchanged only
  repeat' (first
    | with_reducible exact Only.refl _ _
    | ((with_reducible refine (State.setHall_only _ _).andThen ?_ ?_); exact rfl)
    | ((with_reducible refine (raise_only _ _ _ _).andThen ?_ ?_); exact rfl)
    | with_reducible refine Only.ite ?_ ?_
    | refine Only.ofMk rfl ?_)

theorem execDebugResponseWrite_frames (r : List Byte) (s : State) : Frames [.link, .integ, .sec, .debugLevel] s (execDebugResponseWrite r s) := by
  unfold execDebugResponseWrite
  dsimp -failIfUnchanged only
  repeat' (first
    | with_reducible exact Only.refl _ _
    | ((with_reducible refine Frames.onlyIf ?_); intro hg)
    | with_reducible refine Frames.next ?_
    | ((with_reducible refine (openDebug_only _ _).andThen ?_ ?_); exact rfl)
    | ((with_reducible refine (raise_only _ _ _ _).andThen ?_ ?_); exact rfl)
    | with_reducible refine Only.ite ?_ ?_
    | refine Only.ofMk rfl ?_)

/-! ### Boot -/

theorem startLoop_only (d : Nat) (l : DieLoop) (s : State) : Only [.clk, .spans] s (startLoop d l s) := by
  unfold startLoop
  dsimp -failIfUnchanged only
  repeat' (first
    | with_reducible exact Only.refl _ _
    | ((with_reducible refine (State.setClk_only _ _ _).andThen ?_ ?_); exact rfl)
    | ((with_reducible refine (openSuspect_only _ _).andThen ?_ ?_); exact rfl)
    | with_reducible refine Only.ite ?_ ?_
    | split
    | refine Only.ofMk rfl ?_)

theorem serveDomain_only (d bit : Nat) (s : State) : Only [.clk, .spans, .mon, .domains] s (serveDomain d bit s) := by
  unfold serveDomain
  dsimp -failIfUnchanged only
  repeat' (first
    | with_reducible exact Only.refl _ _
    | ((with_reducible refine (State.setMon_only _ _ _).andThen ?_ ?_); exact rfl)
    | ((with_reducible refine (startLoop_only _ _ _).andThen ?_ ?_); exact rfl)
    | split
    | refine Only.ofMk rfl ?_)

theorem execDomainRampDone_frames (d dom : Nat) (s : State) : Frames [.domains] s (execDomainRampDone d dom s) := by
  unfold execDomainRampDone
  dsimp -failIfUnchanged only
  repeat' (first
    | with_reducible exact Only.refl _ _
    | ((with_reducible refine Frames.onlyIf ?_); intro hg)
    | with_reducible refine Frames.next ?_
    | refine Only.ofMk rfl ?_)

theorem execDomainInService_frames (d dom : Nat) (temp : Int) (band : Nat) (s : State) : Frames [.clk, .spans, .mon, .domains] s (execDomainInService d dom temp band s) := by
  unfold execDomainInService
  dsimp -failIfUnchanged only
  repeat' (first
    | with_reducible exact Only.refl _ _
    | ((with_reducible refine Frames.onlyIf ?_); intro hg)
    | with_reducible refine Frames.next ?_
    | ((with_reducible refine (State.setClk_only _ _ _).andThen ?_ ?_); exact rfl)
    | ((with_reducible refine (convertTemp2_only _ _).andThen ?_ ?_); exact rfl)
    | ((with_reducible refine (serveDomain_only _ _ _).andThen ?_ ?_); exact rfl)
    | with_reducible refine Only.ite ?_ ?_
    | refine Only.ofMk rfl ?_)

theorem bootDomains_only (d : Nat) (s : State) : Only [.clk, .spans, .mon, .domains] s (bootDomains d s) := by
  unfold bootDomains
  dsimp -failIfUnchanged only
  repeat' (first
    | with_reducible exact Only.refl _ _
    | ((with_reducible refine (domainOn_only _ _ _).andThen ?_ ?_); exact rfl)
    | ((with_reducible refine (serveDomain_only _ _ _).andThen ?_ ?_); exact rfl)
    | ((with_reducible refine Only.foldlFrom ?_ ?_); intro _ _)
    | refine Only.ofMk rfl ?_)

theorem State.offState_only (s : State) (pins : PinSt) : Only [.pins, .time, .ref, .clk, .spans, .front, .taps, .lanes, .ofdm, .audio, .ports, .link, .cfg, .cal, .mon, .integ, .mode, .domains, .mb, .sec, .systime, .spread, .levelInterval, .busTiming, .fences, .committed, .shadow, .rules, .debugLevel, .modeCode, .events] s (s.offState pins) := by
  unfold State.offState
  exact Only.ofMk rfl (Only.refl _ _)

theorem execPerstNAssert_frames (s : State) : Frames [.pins, .time, .ref, .clk, .spans, .front, .taps, .lanes, .ofdm, .audio, .ports, .link, .cfg, .cal, .mon, .integ, .mode, .domains, .mb, .sec, .systime, .spread, .levelInterval, .busTiming, .fences, .committed, .shadow, .rules, .debugLevel, .modeCode, .events] s (execPerstNAssert s) := by
  unfold execPerstNAssert
  dsimp -failIfUnchanged only
  repeat' (first
    | with_reducible exact Only.refl _ _
    | ((with_reducible refine Frames.onlyIf ?_); intro hg)
    | with_reducible refine Frames.next ?_
    | ((with_reducible refine (State.offState_only _ _).andThen ?_ ?_); exact rfl)
    | refine Only.ofMk rfl ?_)

theorem execSuppliesAbsent_frames (s : State) : Frames [.pins, .time, .ref, .clk, .spans, .front, .taps, .lanes, .ofdm, .audio, .ports, .link, .cfg, .cal, .mon, .integ, .mode, .domains, .mb, .sec, .systime, .spread, .levelInterval, .busTiming, .fences, .committed, .shadow, .rules, .debugLevel, .modeCode, .events] s (execSuppliesAbsent s) := by
  unfold execSuppliesAbsent
  dsimp -failIfUnchanged only
  repeat' (first
    | with_reducible exact Only.refl _ _
    | ((with_reducible refine Frames.onlyIf ?_); intro hg)
    | with_reducible refine Frames.next ?_
    | ((with_reducible refine (State.offState_only _ _).andThen ?_ ?_); exact rfl)
    | refine Only.ofMk rfl ?_)

theorem execPerstNRelease_frames (refsel : Bool) (syncpos mbAddr : Nat) (refin : Bool) (s : State) :
    Frames [.pins, .time, .ref, .clk, .spans, .front, .taps, .lanes, .ofdm, .audio, .ports, .link, .cfg, .cal, .mon, .integ, .mode, .domains, .mb, .sec, .nv, .systime, .spread, .levelInterval, .busTiming, .fences, .committed, .shadow, .rules, .debugLevel, .modeCode, .events] s (execPerstNRelease refsel syncpos mbAddr refin s) := by
  unfold execPerstNRelease
  refine Frames.onlyIf fun _ => ?_
  have h : Only [.pins, .time, .ref, .clk, .spans, .front, .taps, .lanes, .ofdm, .audio, .ports, .link, .cfg, .cal, .mon, .integ, .mode, .domains, .mb, .sec, .nv, .systime, .spread, .levelInterval, .busTiming, .fences, .committed, .shadow, .rules, .debugLevel, .modeCode, .events] s { part := s.part, pins := { refsel := refsel, syncpos := syncpos % 16, mbAddr := mbAddr % 4 }, link := { sent := s.link.sent }, nv := { s.nv with bootNum := s.nv.bootNum + 1 }, freeCount := s.freeCount, pending := s.pending } := Only.ofMk rfl (Only.refl _ _)
  dsimp only
  refine Only.ite (Only.ofMk rfl (Only.refl _ _)) ?_
  exact (refresh_only _).andThen rfl ((raise_only _ _ _ _).andThen rfl ((coastRef_only _).andThen rfl h))

theorem execRomCheckDone_frames (romOk otpOk : Bool) (s : State) : Frames [.clk, .spans, .front, .taps, .lanes, .ofdm, .audio, .ports, .link, .cfg, .mon, .integ, .mode, .domains, .mb, .sec, .nv, .modeCode] s (execRomCheckDone romOk otpOk s) := by
  unfold execRomCheckDone
  dsimp -failIfUnchanged only
  repeat' (first
    | with_reducible exact Only.refl _ _
    | ((with_reducible refine Frames.onlyIf ?_); intro hg)
    | with_reducible refine Frames.next ?_
    | ((with_reducible refine (bootDomains_only _ _).andThen ?_ ?_); exact rfl)
    | ((with_reducible refine (enterHalted_only _ _).andThen ?_ ?_); exact rfl)
    | with_reducible refine Only.ite ?_ ?_
    | refine Only.ofMk rfl ?_)

theorem NvSec.setFails_keeps (v : NvSec) (b : Bool) (n : Nat) :
    OtpKept v (v.setFails b n) ∧ (v.setFails b n).slotA = v.slotA ∧ (v.setFails b n).slotB = v.slotB ∧ (v.setFails b n).bootSeq = v.bootSeq := by
  unfold NvSec.setFails
  split <;> exact ⟨⟨rfl, rfl, rfl, fun _ h => h, BitVec.and_self⟩, rfl, rfl, rfl⟩

theorem bootImage_only (b : Bool) (s : State) : Only [.mode, .sec, .nv] s (bootImage b s) := by
  unfold bootImage
  exact Only.ofMk rfl (Only.refl _ _) (k_otp := fun _ => (NvSec.setFails_keeps _ _ _).1) (k_firmware := fun _ => (NvSec.setFails_keeps _ _ _).2)

theorem enterRecovery_only (s : State) : Only [.clk, .spans, .link, .integ, .mode, .domains, .sec, .modeCode] s (enterRecovery s) := by
  unfold enterRecovery
  dsimp -failIfUnchanged only
  repeat' (first
    | with_reducible exact Only.refl _ _
    | ((with_reducible refine (refresh_only _).andThen ?_ ?_); exact rfl)
    | ((with_reducible refine (setMode_only _ _ _).andThen ?_ ?_); exact rfl)
    | ((with_reducible refine (unpowerOutside_only _ _ _).andThen ?_ ?_); exact rfl)
    | refine Only.ofMk rfl ?_)

theorem execImageCheckDone_frames (s : State) : Frames [.clk, .spans, .link, .integ, .mode, .domains, .sec, .nv, .modeCode] s (execImageCheckDone s) := by
  unfold execImageCheckDone
  dsimp -failIfUnchanged only
  repeat' (first
    | with_reducible exact Only.refl _ _
    | ((with_reducible refine Frames.onlyIf ?_); intro hg)
    | with_reducible refine Frames.next ?_
    | ((with_reducible refine (bootImage_only _ _).andThen ?_ ?_); exact rfl)
    | ((with_reducible refine (enterRecovery_only _).andThen ?_ ?_); exact rfl)
    | with_reducible refine Only.ite ?_ ?_
    | refine Only.ofMk rfl ?_)

theorem execDieLoadDone_frames (s : State) : Frames [.clk, .spans, .mon, .mode, .domains, .sec] s (execDieLoadDone s) := by
  unfold execDieLoadDone
  dsimp -failIfUnchanged only
  repeat' (first
    | with_reducible exact Only.refl _ _
    | ((with_reducible refine Frames.onlyIf ?_); intro hg)
    | with_reducible refine Frames.next ?_
    | ((with_reducible refine (bootDomains_only _ _).andThen ?_ ?_); exact rfl)
    | ((with_reducible refine (domainOn_only _ _ _).andThen ?_ ?_); exact rfl)
    | ((with_reducible refine Only.foldlFrom ?_ ?_); intro _ _)
    | refine Only.ofMk rfl ?_)

theorem failSelfTest_only (d test : Nat) (s : State) : Only [.spans, .front, .taps, .lanes, .ofdm, .audio, .ports, .link, .cfg, .cal, .integ, .mode, .domains, .mb, .sec, .nv, .freeCount, .modeCode] s (failSelfTest d test s) := by
  unfold failSelfTest
  dsimp -failIfUnchanged only
  repeat' (first
    | with_reducible exact Only.refl _ _
    | ((with_reducible refine (advanceFree_only _).andThen ?_ ?_); exact rfl)
    | ((with_reducible refine (enterHalted_only _ _).andThen ?_ ?_); exact rfl)
    | ((with_reducible refine (fenceDie_only _ _ _ _).andThen ?_ ?_); exact rfl)
    | with_reducible refine Only.ite ?_ ?_
    | split
    | refine Only.ofMk rfl ?_)

theorem execDieSelfTestDone_frames (d : Nat) (lockstep mem data rising falling : Bool) (temp : Int) (bands : List Nat) (s : State) : Frames [.clk, .spans, .front, .taps, .lanes, .ofdm, .audio, .ports, .link, .cfg, .cal, .integ, .mode, .domains, .mb, .sec, .nv, .freeCount, .modeCode] s (execDieSelfTestDone d lockstep mem data rising falling temp bands s) := by
  unfold execDieSelfTestDone
  dsimp -failIfUnchanged only
  repeat' (first
    | with_reducible exact Only.refl _ _
    | ((with_reducible refine Frames.onlyIf ?_); intro hg)
    | with_reducible refine Frames.next ?_
    | ((with_reducible refine (State.setClk_only _ _ _).andThen ?_ ?_); exact rfl)
    | ((with_reducible refine (domainOff_only _ _ _).andThen ?_ ?_); exact rfl)
    | ((with_reducible refine (failLink_only _ _ _).andThen ?_ ?_); exact rfl)
    | ((with_reducible refine (failSelfTest_only _ _ _).andThen ?_ ?_); exact rfl)
    | ((with_reducible refine Only.foldlFrom ?_ ?_); intro _ _)
    | with_reducible refine Only.ite ?_ ?_
    | refine Only.ofMk rfl ?_)

theorem loadCal_only (s : State) : Only [.link, .cal, .integ, .sec] s (loadCal s) := by
  unfold loadCal
  dsimp -failIfUnchanged only
  repeat' (first
    | with_reducible exact Only.refl _ _
    | ((with_reducible refine (raise_only _ _ _ _).andThen ?_ ?_); exact rfl)
    | split
    | refine Only.ofMk rfl ?_)

theorem applyRetired_only (s : State) : Only [.front, .lanes, .integ] s (applyRetired s) := by
  unfold applyRetired
  dsimp -failIfUnchanged only
  repeat' (first
    | with_reducible exact Only.refl _ _
    | ((with_reducible refine (State.setConv_only _ _ _).andThen ?_ ?_); exact rfl)
    | ((with_reducible refine (State.setSpare_only _ _ _).andThen ?_ ?_); exact rfl)
    | ((with_reducible refine Only.foldlFrom ?_ ?_); intro _ _)
    | with_reducible refine Only.ite ?_ ?_
    | split
    | refine Only.ofMk rfl ?_)

theorem reportBoot_only (s : State) : Only [.link, .integ, .sec, .nv] s (reportBoot s) := by
  unfold reportBoot
  dsimp -failIfUnchanged only
  repeat' (first
    | with_reducible exact Only.refl _ _
    | ((with_reducible refine (raise_only _ _ _ _).andThen ?_ ?_); exact rfl)
    | ((with_reducible refine Only.foldlFrom ?_ ?_); intro _ _)
    | with_reducible refine Only.ite ?_ ?_
    | split
    | refine Only.ofMk rfl ?_)

theorem execBootComplete_frames (s : State) : Frames [.clk, .spans, .front, .taps, .lanes, .ofdm, .audio, .ports, .link, .cfg, .cal, .integ, .mode, .domains, .mb, .sec, .nv, .freeCount, .modeCode] s (execBootComplete s) := by
  unfold execBootComplete
  refine Frames.onlyIf fun _ => ?_
  refine (refresh_only _).andThen rfl ?_
  refine (reportBoot_only _).andThen rfl ?_
  refine (setMode_only _ _ _).andThen rfl ?_
  refine (advanceFree_only _).andThen rfl ?_
  refine (applyDomains_only _ _).andThen rfl ?_
  refine Only.ofMk rfl ?_ (k_otp := fun _ => (NvSec.setFails_keeps _ _ _).1) (k_firmware := fun _ => (NvSec.setFails_keeps _ _ _).2)
  refine (newHallKey_only _ _).andThen rfl ?_
  refine Only.foldlFrom (fun t d => ?_) ?_
  · exact Only.ite ((failSelfTest_only _ _ _).mono rfl) (Only.refl _ _)
  · exact (applyRetired_only _).andThen rfl ((loadCal_only _).mono rfl)

/-! ### Monitor -/

theorem feedMeasured_only (d channel : Nat) (code : Int) (s : State) : Only [.front, .link, .integ, .sec] s (feedMeasured d channel code s) := by
  unfold feedMeasured
  dsimp -failIfUnchanged only
  repeat' (first
    | with_reducible exact Only.refl _ _
    | ((with_reducible refine (State.setCourse_only _ _ _).andThen ?_ ?_); exact rfl)
    | ((with_reducible refine (raise_only _ _ _ _).andThen ?_ ?_); exact rfl)
    | with_reducible refine Only.ite ?_ ?_
    | refine Only.ofMk rfl ?_)

theorem feedPresence_only (d : Nat) (s : State) : Only [.front] s (feedPresence d s) := by
  unfold feedPresence
  dsimp -failIfUnchanged only
  repeat' (first
    | with_reducible exact Only.refl _ _
    | ((with_reducible refine (State.setCourse_only _ _ _).andThen ?_ ?_); exact rfl)
    | ((with_reducible refine Only.foldlFrom ?_ ?_); intro _ _)
    | with_reducible refine Only.ite ?_ ?_
    | refine Only.ofMk rfl ?_)

theorem tempMeasured_only (d channel : Nat) (code : Int) (s : State) : Only [.link, .mon, .integ, .sec] s (tempMeasured d channel code s) := by
  unfold tempMeasured
  dsimp -failIfUnchanged only
  repeat' (first
    | with_reducible exact Only.refl _ _
    | ((with_reducible refine (State.setMon_only _ _ _).andThen ?_ ?_); exact rfl)
    | ((with_reducible refine (raise_only _ _ _ _).andThen ?_ ?_); exact rfl)
    | ((with_reducible refine Only.foldlFrom ?_ ?_); intro _ _)
    | with_reducible refine Only.ite ?_ ?_
    | split
    | refine Only.ofMk rfl ?_)

theorem applyMon_only (d : Nat) (s : State) : Only [.front, .link, .mon, .integ, .sec] s (applyMon d s) := by
  unfold applyMon
  dsimp -failIfUnchanged only
  repeat' (first
    | with_reducible exact Only.refl _ _
    | ((with_reducible refine (State.setMon_only _ _ _).andThen ?_ ?_); exact rfl)
    | ((with_reducible refine (feedPresence_only _ _).andThen ?_ ?_); exact rfl)
    | ((with_reducible refine (raise_only _ _ _ _).andThen ?_ ?_); exact rfl)
    | split
    | refine Only.ofMk rfl ?_)

theorem startConv_only (d i : Nat) (s : State) : Only [.mon] s (startConv d i s) := by
  unfold startConv
  dsimp -failIfUnchanged only
  repeat' (first
    | with_reducible exact Only.refl _ _
    | ((with_reducible refine (State.setMon_only _ _ _).andThen ?_ ?_); exact rfl)
    | refine Only.ofMk rfl ?_)

theorem startPass_only (d : Nat) (s : State) : Only [.mon] s (startPass d s) := by
  unfold startPass
  dsimp -failIfUnchanged only
  repeat' (first
    | with_reducible exact Only.refl _ _
    | ((with_reducible refine (State.setMon_only _ _ _).andThen ?_ ?_); exact rfl)
    | ((with_reducible refine (startConv_only _ _ _).andThen ?_ ?_); exact rfl)
    | refine Only.ofMk rfl ?_)

theorem duePass_only (d t : Nat) (s : State) : Only [.mon] s (duePass d t s) := by
  unfold duePass
  dsimp -failIfUnchanged only
  repeat' (first
    | with_reducible exact Only.refl _ _
    | ((with_reducible refine (State.setMon_only _ _ _).andThen ?_ ?_); exact rfl)
    | ((with_reducible refine (startPass_only _ _).andThen ?_ ?_); exact rfl)
    | with_reducible refine Only.ite ?_ ?_
    | refine Only.ofMk rfl ?_)

theorem startSequence_only (d : Nat) (s : State) : Only [.mon] s (startSequence d s) := by
  unfold startSequence
  dsimp -failIfUnchanged only
  repeat' (first
    | with_reducible exact Only.refl _ _
    | ((with_reducible refine (duePass_only _ _ _).andThen ?_ ?_); exact rfl)
    | with_reducible refine Only.ite ?_ ?_
    | refine Only.ofMk rfl ?_)

theorem passEnd_only (d : Nat) (s : State) : Only [.front, .link, .mon, .integ, .sec] s (passEnd d s) := by
  unfold passEnd
  dsimp -failIfUnchanged only
  repeat' (first
    | with_reducible exact Only.refl _ _
    | ((with_reducible refine (State.setMon_only _ _ _).andThen ?_ ?_); exact rfl)
    | ((with_reducible refine (applyMon_only _ _).andThen ?_ ?_); exact rfl)
    | ((with_reducible refine (duePass_only _ _ _).andThen ?_ ?_); exact rfl)
    | with_reducible refine Only.ite ?_ ?_
    | refine Only.ofMk rfl ?_)

theorem stopSequence_only (d : Nat) (s : State) : Only [.front, .link, .mon, .integ, .sec] s (stopSequence d s) := by
  unfold stopSequence
  dsimp -failIfUnchanged only
  repeat' (first
    | with_reducible exact Only.refl _ _
    | ((with_reducible refine (State.setMon_only _ _ _).andThen ?_ ?_); exact rfl)
    | ((with_reducible refine (applyMon_only _ _).andThen ?_ ?_); exact rfl)
    | with_reducible refine Only.ite ?_ ?_
    | refine Only.ofMk rfl ?_)

theorem startInjection_only (d : Nat) (s : State) : Only [.mon] s (startInjection d s) := by
  unfold startInjection
  dsimp -failIfUnchanged only
  repeat' (first
    | with_reducible exact Only.refl _ _
    | ((with_reducible refine (State.setMon_only _ _ _).andThen ?_ ?_); exact rfl)
    | refine Only.ofMk rfl ?_)

theorem queueInjection_only (d : Nat) (x : MonInj) (s : State) : Only [.mon] s (queueInjection d x s) := by
  unfold queueInjection
  dsimp -failIfUnchanged only
  repeat' (first
    | with_reducible exact Only.refl _ _
    | ((with_reducible refine (State.setMon_only _ _ _).andThen ?_ ?_); exact rfl)
    | ((with_reducible refine (startInjection_only _ _).andThen ?_ ?_); exact rfl)
    | with_reducible refine Only.ite ?_ ?_
    | refine Only.ofMk rfl ?_)

theorem resumeSequence_only (d : Nat) (s : State) : Only [.mon] s (resumeSequence d s) := by
  unfold resumeSequence
  dsimp -failIfUnchanged only
  repeat' (first
    | with_reducible exact Only.refl _ _
    | ((with_reducible refine (startConv_only _ _ _).andThen ?_ ?_); exact rfl)
    | ((with_reducible refine (startPass_only _ _).andThen ?_ ?_); exact rfl)
    | with_reducible refine Only.ite ?_ ?_
    | split
    | refine Only.ofMk rfl ?_)

theorem execMonConversionEnd_frames (d : Nat) (raw : Int) (s : State) : Frames [.front, .link, .mon, .integ, .sec] s (execMonConversionEnd d raw s) := by
  unfold execMonConversionEnd
  dsimp -failIfUnchanged only
  repeat' (first
    | with_reducible exact Only.refl _ _
    | ((with_reducible refine Frames.onlyIf ?_); intro hg)
    | with_reducible refine Frames.next ?_
    | ((with_reducible refine (State.setMon_only _ _ _).andThen ?_ ?_); exact rfl)
    | ((with_reducible refine (feedMeasured_only _ _ _ _).andThen ?_ ?_); exact rfl)
    | ((with_reducible refine (passEnd_only _ _).andThen ?_ ?_); exact rfl)
    | ((with_reducible refine (startConv_only _ _ _).andThen ?_ ?_); exact rfl)
    | ((with_reducible refine (startSequence_only _ _).andThen ?_ ?_); exact rfl)
    | ((with_reducible refine (stopSequence_only _ _).andThen ?_ ?_); exact rfl)
    | ((with_reducible refine (tempMeasured_only _ _ _ _).andThen ?_ ?_); exact rfl)
    | with_reducible refine Only.ite ?_ ?_
    | refine Only.ofMk rfl ?_)

theorem execMonPassStart_frames (d : Nat) (s : State) : Frames [.mon] s (execMonPassStart d s) := by
  unfold execMonPassStart
  dsimp -failIfUnchanged only
  repeat' (first
    | with_reducible exact Only.refl _ _
    | ((with_reducible refine Frames.onlyIf ?_); intro hg)
    | with_reducible refine Frames.next ?_
    | ((with_reducible refine (startPass_only _ _).andThen ?_ ?_); exact rfl)
    | split
    | refine Only.ofMk rfl ?_)

theorem execMonInjectionEnd_frames (d : Nat) (raw : Int) (s : State) : Frames [.link, .mon, .mb] s (execMonInjectionEnd d raw s) := by
  unfold execMonInjectionEnd
  dsimp -failIfUnchanged only
  repeat' (first
    | with_reducible exact Only.refl _ _
    | ((with_reducible refine Frames.onlyIf ?_); intro hg)
    | with_reducible refine Frames.next ?_
    | ((with_reducible refine (State.setMon_only _ _ _).andThen ?_ ?_); exact rfl)
    | ((with_reducible refine (complete_only _ _ _ _ _ _).andThen ?_ ?_); exact rfl)
    | ((with_reducible refine (resumeSequence_only _ _).andThen ?_ ?_); exact rfl)
    | ((with_reducible refine (startInjection_only _ _).andThen ?_ ?_); exact rfl)
    | with_reducible refine Only.ite ?_ ?_
    | split
    | refine Only.ofMk rfl ?_)

theorem execMonSecondLatch_frames (s : State) : Frames [.mon] s (execMonSecondLatch s) := by
  unfold execMonSecondLatch
  dsimp -failIfUnchanged only
  repeat' (first
    | with_reducible exact Only.refl _ _
    | ((with_reducible refine Frames.onlyIf ?_); intro hg)
    | with_reducible refine Frames.next ?_
    | with_reducible refine Only.ite ?_ ?_
    | refine Only.ofMk rfl ?_)

theorem execMonApply_frames (d : Nat) (s : State) : Frames [.front, .link, .mon, .integ, .mode, .sec] s (execMonApply d s) :=
  dieWrite_frames rfl (fun _ => Only.ite ((applyMon_only _ _).mono rfl) ((State.setMon_only _ _ _).mono rfl)) _ _ _

theorem execMonClear_frames (d : Nat) (s : State) : Frames [.mon, .mode] s (execMonClear d s) :=
  dieWrite_frames rfl (fun _ => (State.setMon_only _ _ _).mono rfl) _ _ _

theorem execMonRunSet_frames (d : Nat) (s : State) : Frames [.mon, .mode] s (execMonRunSet d s) :=
  dieWrite_frames rfl (fun _ => Only.ite ((State.setMon_only _ _ _).mono rfl) ((startSequence_only _ _).andThen rfl ((State.setMon_only _ _ _).mono rfl))) _ _ _

theorem execMonRunClear_frames (d : Nat) (s : State) : Frames [.front, .link, .mon, .integ, .mode, .sec] s (execMonRunClear d s) :=
  dieWrite_frames rfl (fun _ => Only.ite ((State.setMon_only _ _ _).andThen rfl ((State.setMon_only _ _ _).mono rfl))
    ((stopSequence_only _ _).andThen rfl ((State.setMon_only _ _ _).mono rfl))) _ _ _

theorem execSumLoRead_frames (d i : Nat) (s : State) : Frames [.link, .mon, .mode] s (execSumLoRead d i s) := by
  unfold execSumLoRead
  split
  · exact Frames.next (Only.refl _ _)
  · exact dieRead_frames rfl rfl (fun _ => (State.setMon_only _ _ _).mono rfl) _ _ _

theorem execTelemetryRecord_frames (d : Nat) (s : State) : Frames [.link, .mon] s (execTelemetryRecord d s) := by
  unfold execTelemetryRecord
  dsimp -failIfUnchanged only
  repeat' (first
    | with_reducible exact Only.refl _ _
    | ((with_reducible refine Frames.onlyIf ?_); intro hg)
    | with_reducible refine Frames.next ?_
    | ((with_reducible refine (State.setMon_only _ _ _).andThen ?_ ?_); exact rfl)
    | ((with_reducible refine (formRouted_only _ _ _ _).andThen ?_ ?_); exact rfl)
    | refine Only.ofMk rfl ?_)

end Sys2Proof.Machine
end

