-- ==== Sys2Proof/Laws/Frames6.lean ====
section
/-!
SUPPORT. Frames of the opcode commands, calibration, updates, the management bus, registers: which parts of the state each operation and each command leaves alone. `x_only` speaks of an operation, `x_frames` of a command: it answers a next state, and only the parts named differ.
-/
/- One proof at a time: the default arguments of `Only.ofMk` are tactics, and a proof that runs them beside others waits for those, a thread each. -/
set_option Elab.async false

namespace Sys2Proof.Machine

/-! ### Cal -/

theorem checkFailed_only (item index reason origin : Nat) (dev : Int) (w : Wait → Bool) (s : State) : Only [.link, .cal, .integ, .mb, .sec] s (checkFailed item index reason origin dev w s) := by
  unfold checkFailed
  dsimp -failIfUnchanged only
  repeat' (first
    | with_reducible exact Only.refl _ _
    | ((with_reducible refine (calFailed_only _ _ _ _).andThen ?_ ?_); exact rfl)
    | ((with_reducible refine (completeAll_only _ _ _ _).andThen ?_ ?_); exact rfl)
    | ((with_reducible refine (raise_only _ _ _ _).andThen ?_ ?_); exact rfl)
    | refine Only.ofMk rfl ?_)

theorem takeWindow_only (k lane : Nat) (kind : CoverKind) (s : State) : Only [.spans, .lanes, .link, .cal, .integ, .mode, .mb, .sec, .nv, .retirement, .modeCode] s (takeWindow k lane kind s) := by
  unfold takeWindow
  dsimp -failIfUnchanged only
  repeat' (first
    | with_reducible exact Only.refl _ _
    | ((with_reducible refine (State.setSpare_only _ _ _).andThen ?_ ?_); exact rfl)
    | ((with_reducible refine (endAssay_only _ _).andThen ?_ ?_); exact rfl)
    | with_reducible refine Only.ite ?_ ?_
    | refine Only.ofMk rfl ?_)

theorem tuneTone_only (l f : Nat) (s : State) : Only [.taps] s (tuneTone l f s) := Only.ofMk rfl (Only.refl _ _)

theorem reloadStation_only (l : Nat) (s : State) : Only [.taps] s (reloadStation l s) := Only.ofMk rfl (Only.refl _ _)

theorem execLevelStepStart_frames (n : Nat) (s : State) : Frames [.spans, .taps, .lanes, .link, .cal, .integ, .mode, .mb, .sec, .nv, .retirement, .modeCode] s (execLevelStepStart n s) := by
  have h : Only [.spans, .taps, .lanes, .link, .cal, .integ, .mode, .mb, .sec, .nv, .retirement, .modeCode] s (if decide (n < s.dies) && s.levelAllowed && decide (0 < s.taskAge (.level n)) then noteReach n s else s) :=
    Only.ite ((noteReach_only _ _).mono rfl) (Only.refl _ _)
  unfold execLevelStepStart
  dsimp only
  split
  · exact Frames.next h
  · refine ⟨_, rfl, ?_⟩
    refine Only.ite ?_ h
    refine Only.ofMk rfl ?_
    exact (tuneTone_only _ _ _).andThen rfl ((takeWindow_only _ _ _ _).andThen rfl h)

theorem setStep_only (n : Nat) (f : LevelStep → LevelStep) (s : State) : Only [.cal] s (setStep n f s) := Only.ofMk rfl (Only.refl _ _)

theorem execLevelPhaseEnd_frames (n : Nat) (air : Air) (s : State) : Frames [.front, .taps, .lanes, .link, .cal, .integ, .mb, .sec] s (execLevelPhaseEnd n air s) := by
  unfold execLevelPhaseEnd
  dsimp -failIfUnchanged only
  repeat' (first
    | with_reducible exact Only.refl _ _
    | ((with_reducible refine Frames.onlyIf ?_); intro hg)
    | with_reducible refine Frames.next ?_
    | ((with_reducible refine (endLevelStep_only _ _).andThen ?_ ?_); exact rfl)
    | ((with_reducible refine (setInject_only _ _ _).andThen ?_ ?_); exact rfl)
    | ((with_reducible refine (setStep_only _ _ _).andThen ?_ ?_); exact rfl)
    | split
    | refine Only.ofMk rfl ?_)

theorem noteAbsent_only (n : Nat) (s : State) : Only [.spans, .link, .cal, .integ, .mode, .sec, .modeCode] s (noteAbsent n s) := by
  unfold noteAbsent
  dsimp -failIfUnchanged only
  repeat' (first
    | with_reducible exact Only.refl _ _
    | ((with_reducible refine (raise_only _ _ _ _).andThen ?_ ?_); exact rfl)
    | ((with_reducible refine (refresh_only _).andThen ?_ ?_); exact rfl)
    | with_reducible refine Only.ite ?_ ?_
    | refine Only.ofMk rfl ?_)

theorem toReturn_only (n : Nat) (st : LevelStep) (s : State) : Only [.front, .taps, .cal] s (toReturn n st s) := by
  unfold toReturn
  dsimp -failIfUnchanged only
  repeat' (first
    | with_reducible exact Only.refl _ _
    | ((with_reducible refine (reloadStation_only _ _).andThen ?_ ?_); exact rfl)
    | ((with_reducible refine (setInject_only _ _ _).andThen ?_ ?_); exact rfl)
    | ((with_reducible refine (setStep_only _ _ _).andThen ?_ ?_); exact rfl)
    | refine Only.ofMk rfl ?_)

theorem evaluateStep_only (n : Nat) (st : LevelStep) (mean m : Int) (s : State) : Only [.spans, .front, .taps, .link, .cal, .integ, .mode, .mb, .sec, .modeCode] s (evaluateStep n st mean m s) := by
  unfold evaluateStep
  dsimp -failIfUnchanged only
  repeat' (first
    | with_reducible exact Only.refl _ _
    | ((with_reducible refine (calSuccess_only _ _ _).andThen ?_ ?_); exact rfl)
    | ((with_reducible refine (checkFailed_only _ _ _ _ _ _ _).andThen ?_ ?_); exact rfl)
    | ((with_reducible refine (completeAll_only _ _ _ _).andThen ?_ ?_); exact rfl)
    | ((with_reducible refine (noteAbsent_only _ _).andThen ?_ ?_); exact rfl)
    | ((with_reducible refine (refresh_only _).andThen ?_ ?_); exact rfl)
    | ((with_reducible refine (setDrift_only _ _ _ _).andThen ?_ ?_); exact rfl)
    | ((with_reducible refine (taskNormal_only _ _).andThen ?_ ?_); exact rfl)
    | ((with_reducible refine (toReturn_only _ _ _).andThen ?_ ?_); exact rfl)
    | with_reducible refine Only.ite ?_ ?_
    | split
    | refine Only.ofMk rfl ?_)

theorem execLevelStepEval_frames (n : Nat) (s : State) : Frames [.spans, .front, .taps, .link, .cal, .integ, .mode, .mb, .sec, .modeCode] s (execLevelStepEval n s) := by
  unfold execLevelStepEval
  dsimp -failIfUnchanged only
  repeat' (first
    | with_reducible exact Only.refl _ _
    | ((with_reducible refine Frames.onlyIf ?_); intro hg)
    | with_reducible refine Frames.next ?_
    | ((with_reducible refine (evaluateStep_only _ _ _ _ _).andThen ?_ ?_); exact rfl)
    | ((with_reducible refine (setInject_only _ _ _).andThen ?_ ?_); exact rfl)
    | ((with_reducible refine (setStep_only _ _ _).andThen ?_ ?_); exact rfl)
    | ((with_reducible refine (toReturn_only _ _ _).andThen ?_ ?_); exact rfl)
    | with_reducible refine Only.ite ?_ ?_
    | split
    | refine Only.ofMk rfl ?_)

theorem execStandbyDUpdate_frames (j : Nat) (s : State) : Frames [.front, .cal] s (execStandbyDUpdate j s) := by
  unfold execStandbyDUpdate
  dsimp -failIfUnchanged only
  repeat' (first
    | with_reducible exact Only.refl _ _
    | ((with_reducible refine Frames.onlyIf ?_); intro hg)
    | with_reducible refine Frames.next ?_
    | ((with_reducible refine (State.setCourse_only _ _ _).andThen ?_ ?_); exact rfl)
    | ((with_reducible refine (setDrift_only _ _ _ _).andThen ?_ ?_); exact rfl)
    | with_reducible refine Only.ite ?_ ?_
    | split
    | refine Only.ofMk rfl ?_)

theorem execCalinSuspectHoldEnd_frames (s : State) : Frames [.spans, .link, .cal, .integ, .mode, .sec, .modeCode] s (execCalinSuspectHoldEnd s) := by
  unfold execCalinSuspectHoldEnd
  dsimp -failIfUnchanged only
  repeat' (first
    | with_reducible exact Only.refl _ _
    | ((with_reducible refine Frames.onlyIf ?_); intro hg)
    | with_reducible refine Frames.next ?_
    | ((with_reducible refine (refresh_only _).andThen ?_ ?_); exact rfl)
    | refine Only.ofMk rfl ?_)

theorem setMonitor_only (d : Nat) (c : MonCoef) (s : State) : Only [.cal, .mon] s (setMonitor d c s) := by
  unfold setMonitor
  dsimp -failIfUnchanged only
  repeat' (first
    | with_reducible exact Only.refl _ _
    | ((with_reducible refine (State.setMon_only _ _ _).andThen ?_ ?_); exact rfl)
    | ((with_reducible refine (calChanged_only _).andThen ?_ ?_); exact rfl)
    | refine Only.ofMk rfl ?_)

theorem execMonitorBackgroundCal_frames (d : Nat) (ref0 ref1 loop100 loop300 : Int) (s : State) : Frames [.spans, .link, .cal, .mon, .integ, .mode, .mb, .sec, .freeCount, .modeCode] s (execMonitorBackgroundCal d ref0 ref1 loop100 loop300 s) := by
  unfold execMonitorBackgroundCal
  dsimp -failIfUnchanged only
  repeat' (first
    | with_reducible exact Only.refl _ _
    | ((with_reducible refine Frames.onlyIf ?_); intro hg)
    | with_reducible refine Frames.next ?_
    | ((with_reducible refine (advanceFree_only _).andThen ?_ ?_); exact rfl)
    | ((with_reducible refine (calSuccess_only _ _ _).andThen ?_ ?_); exact rfl)
    | ((with_reducible refine (checkFailed_only _ _ _ _ _ _ _).andThen ?_ ?_); exact rfl)
    | ((with_reducible refine (completeAll_only _ _ _ _).andThen ?_ ?_); exact rfl)
    | ((with_reducible refine (raise_only _ _ _ _).andThen ?_ ?_); exact rfl)
    | ((with_reducible refine (refresh_only _).andThen ?_ ?_); exact rfl)
    | ((with_reducible refine (setMonitor_only _ _ _).andThen ?_ ?_); exact rfl)
    | ((with_reducible refine (startConv_only _ _ _).andThen ?_ ?_); exact rfl)
    | ((with_reducible refine (taskNormal_only _ _).andThen ?_ ?_); exact rfl)
    | with_reducible refine Only.ite ?_ ?_
    | split
    | refine Only.ofMk rfl ?_)

theorem execCalStart_frames (src : CmdSrc) (s : State) : Frames [.spans, .lanes, .link, .cal, .integ, .mode, .mb, .sec, .modeCode] s (execCalStart src s) := by
  unfold execCalStart
  dsimp -failIfUnchanged only
  repeat' (first
    | with_reducible exact Only.refl _ _
    | ((with_reducible refine Frames.onlyIf ?_); intro hg)
    | with_reducible refine Frames.next ?_
    | (refine runCmd_frames _ _ _ _ _ ?_ rfl; intro f s)
    | ((with_reducible refine (await_only _ _ _ _).andThen ?_ ?_); exact rfl)
    | ((with_reducible refine (finish_only _ _ _ _ _).andThen ?_ ?_); exact rfl)
    | ((with_reducible refine (noteReach_only _ _).andThen ?_ ?_); exact rfl)
    | ((with_reducible refine (preempt_only _).andThen ?_ ?_); exact rfl)
    | ((with_reducible refine (raise_only _ _ _ _).andThen ?_ ?_); exact rfl)
    | ((with_reducible refine (refresh_only _).andThen ?_ ?_); exact rfl)
    | ((with_reducible refine (taskOverdue_only _ _).andThen ?_ ?_); exact rfl)
    | with_reducible refine Only.ite ?_ ?_
    | split
    | refine Only.ofMk rfl ?_)

theorem execCalQuery_frames (src : CmdSrc) (s : State) : Frames [.link, .mb] s (execCalQuery src s) := by
  unfold execCalQuery
  dsimp -failIfUnchanged only
  repeat' (first
    | with_reducible exact Only.refl _ _
    | ((with_reducible refine Frames.onlyIf ?_); intro hg)
    | with_reducible refine Frames.next ?_
    | (refine runCmd_frames _ _ _ _ _ ?_ rfl; intro f s)
    | ((with_reducible refine (finishOutput_only _ _ _ _).andThen ?_ ?_); exact rfl)
    | split
    | refine Only.ofMk rfl ?_)

theorem NvSt.setCalSlot_keeps (v : NvSt) (b : Bool) (x : CalSlot) :
    (v.setCalSlot b x).sec = v.sec ∧ (v.setCalSlot b x).retired = v.retired := by
  unfold NvSt.setCalSlot
  split <;> exact ⟨rfl, rfl⟩

theorem beginStore_only (automatic : Bool) (s : State) : Only [.cal, .nv] s (beginStore automatic s) := by
  unfold beginStore
  refine Only.ofMk rfl (Only.refl _ _) (k_otp := fun _ => ?_) (k_retirement := fun _ u h => ?_) (k_firmware := fun _ => ?_)
  · rw [(NvSt.setCalSlot_keeps _ _ _).1]
    exact OtpKept.refl _
  · rw [(NvSt.setCalSlot_keeps _ _ _).2]
    exact h
  · rw [(NvSt.setCalSlot_keeps _ _ _).1]
    exact ⟨rfl, rfl, rfl⟩

theorem execCalStore_frames (src : CmdSrc) (s : State) : Frames [.link, .cal, .mb, .nv] s (execCalStore src s) := by
  unfold execCalStore
  dsimp -failIfUnchanged only
  repeat' (first
    | with_reducible exact Only.refl _ _
    | ((with_reducible refine Frames.onlyIf ?_); intro hg)
    | with_reducible refine Frames.next ?_
    | (refine runCmd_frames _ _ _ _ _ ?_ rfl; intro f s)
    | ((with_reducible refine (await_only _ _ _ _).andThen ?_ ?_); exact rfl)
    | ((with_reducible refine (beginStore_only _ _).andThen ?_ ?_); exact rfl)
    | ((with_reducible refine (finish_only _ _ _ _ _).andThen ?_ ?_); exact rfl)
    | with_reducible refine Only.ite ?_ ?_
    | split
    | refine Only.ofMk rfl ?_)

theorem execAutoStore_frames (s : State) : Frames [.cal, .nv] s (execAutoStore s) := by
  unfold execAutoStore
  dsimp -failIfUnchanged only
  repeat' (first
    | with_reducible exact Only.refl _ _
    | ((with_reducible refine Frames.onlyIf ?_); intro hg)
    | with_reducible refine Frames.next ?_
    | ((with_reducible refine (beginStore_only _ _).andThen ?_ ?_); exact rfl)
    | split
    | refine Only.ofMk rfl ?_)

theorem execCalStoreWriteDone_frames (ok : Bool) (s : State) : Frames [.spans, .link, .cal, .integ, .mode, .mb, .sec, .nv, .modeCode] s (execCalStoreWriteDone ok s) := by
  unfold execCalStoreWriteDone
  split
  · exact Frames.next (Only.refl _ _)
  · refine Frames.next ?_
    dsimp only
    refine Only.ite ?_ (Only.ite (Only.ofMk rfl (Only.refl _ _)) ?_)
    · have h : ∀ st : StoreSt, Only [.spans, .link, .cal, .integ, .mode, .mb, .sec, .nv, .modeCode] s (refresh (taskNormal .store (raise .calStored pkg [.w st.slot, .w st.seq.toNat, .w (b2n (!st.automatic))]
          { s with
            cal := { s.cal with store := none, storeSlot := st.slot, storeValid := true, storeSeq := st.seq, unsavedSince := st.changed }
            nv := s.nv.setCalSlot (st.slot == 1) ⟨st.seq, true, st.snap⟩
            integ := { s.integ with flashFaults := s.integ.flashFaults.filter (· != .calibration) } }))) := by
        intro st
        refine (refresh_only _).andThen rfl ((taskNormal_only _ _).andThen rfl ((raise_only _ _ _ _).andThen rfl ?_))
        refine Only.ofMk rfl (Only.refl _ _) (k_otp := fun _ => ?_) (k_retirement := fun _ u h => ?_) (k_firmware := fun _ => ?_)
        · rw [(NvSt.setCalSlot_keeps _ _ _).1]
          exact OtpKept.refl _
        · rw [(NvSt.setCalSlot_keeps _ _ _).2]
          exact h
        · rw [(NvSt.setCalSlot_keeps _ _ _).1]
          exact ⟨rfl, rfl, rfl⟩
      exact Only.ite ((beginStore_only _ _).andThen rfl (h _)) (Only.ite (h _) ((completeWait_only _ _ _ _).andThen rfl (h _)))
    · have h : ∀ st : StoreSt, Only [.spans, .link, .cal, .integ, .mode, .mb, .sec, .nv, .modeCode] s (refresh (flashFault .calibration (raise .calStoreFailed pkg [.w st.slot] { s with cal := { s.cal with store := none } }))) := by
        intro st
        refine (refresh_only _).andThen rfl ((flashFault_only _ _).andThen rfl ((raise_only _ _ _ _).andThen rfl ?_))
        exact Only.ofMk rfl (Only.refl _ _)
      exact Only.ite ((beginStore_only _ _).andThen rfl (h _)) (Only.ite (h _) ((completeWait_only _ _ _ _).andThen rfl (h _)))

/-! ### Commit -/

theorem execCommit_frames (src : CmdSrc) (s : State) : Frames [.link, .cfg, .domains, .mb] s (execCommit src s) := by
  unfold execCommit
  dsimp -failIfUnchanged only
  repeat' (first
    | with_reducible exact Only.refl _ _
    | ((with_reducible refine Frames.onlyIf ?_); intro hg)
    | with_reducible refine Frames.next ?_
    | (refine runCmd_frames _ _ _ _ _ ?_ rfl; intro f s)
    | ((with_reducible refine (await_only _ _ _ _).andThen ?_ ?_); exact rfl)
    | ((with_reducible refine (finish_only _ _ _ _ _).andThen ?_ ?_); exact rfl)
    | ((with_reducible refine (powerDigital_only _ _).andThen ?_ ?_); exact rfl)
    | with_reducible refine Only.ite ?_ ?_
    | split
    | refine Only.ofMk rfl ?_)

theorem setCommit_only (f : PendingCommit → PendingCommit) (s : State) : Only [.cfg] s (setCommit f s) := Only.ofMk rfl (Only.refl _ _)

theorem execPendingSetReceived_frames (d : Nat) (good : Bool) (s : State) : Frames [.cfg] s (execPendingSetReceived d good s) := by
  unfold execPendingSetReceived
  dsimp -failIfUnchanged only
  repeat' (first
    | with_reducible exact Only.refl _ _
    | ((with_reducible refine Frames.onlyIf ?_); intro hg)
    | with_reducible refine Frames.next ?_
    | ((with_reducible refine (setCommit_only _ _).andThen ?_ ?_); exact rfl)
    | with_reducible refine Only.ite ?_ ?_
    | split
    | refine Only.ofMk rfl ?_)

theorem execCommitAckDeadline_frames (s : State) : Frames [.link, .cfg, .mb] s (execCommitAckDeadline s) := by
  unfold execCommitAckDeadline
  dsimp -failIfUnchanged only
  repeat' (first
    | with_reducible exact Only.refl _ _
    | ((with_reducible refine Frames.onlyIf ?_); intro hg)
    | with_reducible refine Frames.next ?_
    | ((with_reducible refine (answerCommit_only _ _ _ _).andThen ?_ ?_); exact rfl)
    | ((with_reducible refine (setCommit_only _ _).andThen ?_ ?_); exact rfl)
    | split
    | refine Only.ofMk rfl ?_)

theorem execConfigSwap_frames (temps : List Int) (s : State) : Frames [.clk, .spans, .front, .taps, .lanes, .ofdm, .audio, .ports, .link, .cfg, .cal, .mon, .integ, .mode, .domains, .mb, .sec, .committed, .modeCode] s (execConfigSwap temps s) := by
  unfold execConfigSwap
  split
  · exact Frames.next (Only.refl _ _)
  · refine Frames.onlyIf fun _ => ?_
    extract_lets m hop t1 srcA t2 srcB t3 dies srcC t4 t5
    have h1 : Only [.clk, .spans, .front, .taps, .lanes, .ofdm, .audio, .ports, .link, .cfg, .cal, .mon, .integ, .mode, .domains, .mb, .sec, .committed, .modeCode] s t1 := (bringSet_only _ _ _ _ _).mono rfl
    clear_value t1
    have h2 : Only [.clk, .spans, .front, .taps, .lanes, .ofdm, .audio, .ports, .link, .cfg, .cal, .mon, .integ, .mode, .domains, .mb, .sec, .committed, .modeCode] s t2 := Only.ofMk rfl h1
    clear_value t2
    have h3 : Only [.link] t2 t3 := Only.ofMk rfl (Only.refl _ _)
    clear_value t3
    have h4 : Only [.cfg] t3 t4 := Only.ofMk rfl (Only.refl _ _)
    clear_value t4
    have h5 : Only [.clk, .spans, .front, .taps, .lanes, .ofdm, .audio, .ports, .link, .cfg, .cal, .mon, .integ, .mode, .domains, .mb, .sec, .committed, .modeCode] t4 t5 := Only.ite (Only.foldl (fun a d => (beginHop_only _ _ _ _).mono rfl) _ _) (Only.refl _ _)
    clear_value t5
    exact (refresh_only _).andThen rfl ((finishCommits_only _).andThen rfl ((seeUnits_only _).andThen rfl
      (h5.andThen rfl (h4.andThen rfl (h3.andThen rfl h2)))))

/-! ### Mb -/

theorem bumpMb_only (k : MbCount) (s : State) : Only [.mb] s (bumpMb k s) := by
  unfold bumpMb
  dsimp -failIfUnchanged only
  repeat' (first
    | with_reducible exact Only.refl _ _
    | ((with_reducible refine (State.setMb_only _ _ ?_).andThen ?_ ?_); (intro m; (repeat' split) <;> exact ⟨rfl, rfl, rfl, rfl⟩); exact rfl)
    | with_reducible refine Only.ite ?_ ?_
    | refine Only.ofMk rfl ?_)

theorem writeBusCtrl_only (v : Nat) (s : State) : Only [.mb] s (writeBusCtrl v s) := by
  unfold writeBusCtrl
  dsimp -failIfUnchanged only
  repeat' (first
    | with_reducible exact Only.refl _ _
    | ((with_reducible refine (State.setMb_only _ _ ?_).andThen ?_ ?_); (intro m; (repeat' split) <;> exact ⟨rfl, rfl, rfl, rfl⟩); exact rfl)
    | with_reducible refine Only.ite ?_ ?_
    | refine Only.ofMk rfl ?_)

theorem writeTiming_only (v : Nat) (s : State) : Only [.mb, .busTiming] s (writeTiming v s) := by
  unfold writeTiming
  dsimp only
  split
  · exact Only.ofMk rfl (Only.refl _ _)
  · exact Only.refl _ _

theorem endTransfer_only (result : Nat) (s : State) : Only [.mb] s (endTransfer result s) := by
  unfold endTransfer
  dsimp -failIfUnchanged only
  repeat' (first
    | with_reducible exact Only.refl _ _
    | ((with_reducible refine (State.setMb_only _ _ ?_).andThen ?_ ?_); (intro m; (repeat' split) <;> exact ⟨rfl, rfl, rfl, rfl⟩); exact rfl)
    | refine Only.ofMk rfl ?_)

theorem requestGo_only (s : State) : Only [.mb] s (requestGo s) := by
  unfold requestGo
  dsimp -failIfUnchanged only
  repeat' (first
    | with_reducible exact Only.refl _ _
    | ((with_reducible refine (State.setMb_only _ _ ?_).andThen ?_ ?_); (intro m; (repeat' split) <;> exact ⟨rfl, rfl, rfl, rfl⟩); exact rfl)
    | ((with_reducible refine (endTransfer_only _ _).andThen ?_ ?_); exact rfl)
    | with_reducible refine Only.ite ?_ ?_
    | refine Only.ofMk rfl ?_)

theorem writeTransfer_only (v : Nat) (s : State) : Only [.mb] s (writeTransfer v s) := by
  unfold writeTransfer
  dsimp -failIfUnchanged only
  repeat' (first
    | with_reducible exact Only.refl _ _
    | ((with_reducible refine (State.setMb_only _ _ ?_).andThen ?_ ?_); (intro m; (repeat' split) <;> exact ⟨rfl, rfl, rfl, rfl⟩); exact rfl)
    | ((with_reducible refine (requestGo_only _).andThen ?_ ?_); exact rfl)
    | with_reducible refine Only.ite ?_ ?_
    | refine Only.ofMk rfl ?_)

theorem mboxGo_only (s : State) : Only [.link, .mb] s (mboxGo s) := by
  unfold mboxGo
  dsimp -failIfUnchanged only
  repeat' (first
    | with_reducible exact Only.refl _ _
    | ((with_reducible refine (State.setMb_only _ _ ?_).andThen ?_ ?_); (intro m; (repeat' split) <;> exact ⟨rfl, rfl, rfl, rfl⟩); exact rfl)
    | ((with_reducible refine (completeOne_only _ _ _ _ _ _).andThen ?_ ?_); exact rfl)
    | with_reducible refine Only.ite ?_ ?_
    | refine Only.ofMk rfl ?_)

theorem writeMboxCtrl_only (v : Nat) (s : State) : Only [.link, .mb] s (writeMboxCtrl v s) := by
  unfold writeMboxCtrl
  dsimp -failIfUnchanged only
  repeat' (first
    | with_reducible exact Only.refl _ _
    | ((with_reducible refine (State.setMb_only _ _ ?_).andThen ?_ ?_); (intro m; (repeat' split) <;> exact ⟨rfl, rfl, rfl, rfl⟩); exact rfl)
    | ((with_reducible refine (mboxGo_only _).andThen ?_ ?_); exact rfl)
    | with_reducible refine Only.ite ?_ ?_
    | refine Only.ofMk rfl ?_)

theorem applyData_only (w : MbData) (s : State) : Only [.link, .mb, .busTiming] s (applyData w s) := by
  unfold applyData
  dsimp -failIfUnchanged only
  repeat' (first
    | with_reducible exact Only.refl _ _
    | ((with_reducible refine (State.setMb_only _ _ ?_).andThen ?_ ?_); (intro m; (repeat' split) <;> exact ⟨rfl, rfl, rfl, rfl⟩); exact rfl)
    | ((with_reducible refine (writeBusCtrl_only _ _).andThen ?_ ?_); exact rfl)
    | ((with_reducible refine (writeMboxCtrl_only _ _).andThen ?_ ?_); exact rfl)
    | ((with_reducible refine (writeTiming_only _ _).andThen ?_ ?_); exact rfl)
    | ((with_reducible refine (writeTransfer_only _ _).andThen ?_ ?_); exact rfl)
    | with_reducible refine Only.ite ?_ ?_
    | refine Only.ofMk rfl ?_)

theorem mbStop_only (s : State) : Only [.mb] s (mbStop s) := by
  unfold mbStop
  dsimp -failIfUnchanged only
  repeat' (first
    | with_reducible exact Only.refl _ _
    | ((with_reducible refine (State.setMb_only _ _ ?_).andThen ?_ ?_); (intro m; (repeat' split) <;> exact ⟨rfl, rfl, rfl, rfl⟩); exact rfl)
    | refine Only.ofMk rfl ?_)

theorem execMbWriteTransaction_frames (addr : Nat) (bytes : List Byte) (s : State) : Frames [.link, .mb, .busTiming] s (execMbWriteTransaction addr bytes s) := by
  unfold execMbWriteTransaction
  dsimp -failIfUnchanged only
  repeat' (first
    | with_reducible exact Only.refl _ _
    | ((with_reducible refine Frames.onlyIf ?_); intro hg)
    | with_reducible refine Frames.next ?_
    | ((with_reducible refine (applyData_only _ _).andThen ?_ ?_); exact rfl)
    | ((with_reducible refine (bumpMb_only _ _).andThen ?_ ?_); exact rfl)
    | ((with_reducible refine (mbStop_only _).andThen ?_ ?_); exact rfl)
    | with_reducible refine Only.ite ?_ ?_
    | split
    | refine Only.ofMk rfl ?_)

theorem execMbReadTransaction_frames (addr : Nat) (hdr : List Byte) (ackLast sda scl : Bool) (s : State) : Frames [.link, .mb] s (execMbReadTransaction addr hdr ackLast sda scl s) := by
  unfold execMbReadTransaction
  dsimp -failIfUnchanged only
  repeat' (first
    | with_reducible exact Only.refl _ _
    | ((with_reducible refine Frames.onlyIf ?_); intro hg)
    | with_reducible refine Frames.next ?_
    | ((with_reducible refine (State.setMb_only _ _ ?_).andThen ?_ ?_); (intro m; (repeat' split) <;> exact ⟨rfl, rfl, rfl, rfl⟩); exact rfl)
    | ((with_reducible refine (mbStop_only _).andThen ?_ ?_); exact rfl)
    | ((with_reducible refine (send_only _ _).andThen ?_ ?_); exact rfl)
    | with_reducible refine Only.ite ?_ ?_
    | split
    | refine Only.ofMk rfl ?_)

theorem execMbWake_frames (byte : Byte) (s : State) : Frames [.link, .integ, .mode, .mb, .sec] s (execMbWake byte s) := by
  unfold execMbWake
  dsimp -failIfUnchanged only
  repeat' (first
    | with_reducible exact Only.refl _ _
    | ((with_reducible refine Frames.onlyIf ?_); intro hg)
    | with_reducible refine Frames.next ?_
    | ((with_reducible refine (raise_only _ _ _ _).andThen ?_ ?_); exact rfl)
    | refine Only.ofMk rfl ?_)

theorem execMbSleepClockStop_frames (s : State) : Frames [.mode, .mb] s (execMbSleepClockStop s) := by
  unfold execMbSleepClockStop
  dsimp -failIfUnchanged only
  repeat' (first
    | with_reducible exact Only.refl _ _
    | ((with_reducible refine Frames.onlyIf ?_); intro hg)
    | with_reducible refine Frames.next ?_
    | refine Only.ofMk rfl ?_)

theorem execMbTargetTimeout_frames (pointer received : Nat) (write : Bool) (s : State) : Frames [.link, .integ, .mb, .sec] s (execMbTargetTimeout pointer received write s) := by
  unfold execMbTargetTimeout
  dsimp -failIfUnchanged only
  repeat' (first
    | with_reducible exact Only.refl _ _
    | ((with_reducible refine Frames.onlyIf ?_); intro hg)
    | with_reducible refine Frames.next ?_
    | ((with_reducible refine (bumpMb_only _ _).andThen ?_ ?_); exact rfl)
    | ((with_reducible refine (mbStop_only _).andThen ?_ ?_); exact rfl)
    | ((with_reducible refine (raise_only _ _ _ _).andThen ?_ ?_); exact rfl)
    | with_reducible refine Only.ite ?_ ?_
    | refine Only.ofMk rfl ?_)

theorem startTransfer_only (stuck freed : Bool) (s : State) : Only [.link, .integ, .mb, .sec] s (startTransfer stuck freed s) := by
  unfold startTransfer
  dsimp -failIfUnchanged only
  repeat' (first
    | with_reducible exact Only.refl _ _
    | ((with_reducible refine (State.setMb_only _ _ ?_).andThen ?_ ?_); (intro m; (repeat' split) <;> exact ⟨rfl, rfl, rfl, rfl⟩); exact rfl)
    | ((with_reducible refine (bumpMb_only _ _).andThen ?_ ?_); exact rfl)
    | ((with_reducible refine (endTransfer_only _ _).andThen ?_ ?_); exact rfl)
    | ((with_reducible refine (raise_only _ _ _ _).andThen ?_ ?_); exact rfl)
    | ((with_reducible refine (send_only _ _).andThen ?_ ?_); exact rfl)
    | with_reducible refine Only.ite ?_ ?_
    | refine Only.ofMk rfl ?_)

theorem execMbControllerGo_frames (w : Option Nat) (stuck freed : Bool) (s : State) : Frames [.link, .integ, .mode, .mb, .sec] s (execMbControllerGo w stuck freed s) := by
  unfold execMbControllerGo
  dsimp -failIfUnchanged only
  repeat' (first
    | with_reducible exact Only.refl _ _
    | ((with_reducible refine Frames.onlyIf ?_); intro hg)
    | with_reducible refine Frames.next ?_
    | ((with_reducible refine (hostAccess_only _).andThen ?_ ?_); exact rfl)
    | ((with_reducible refine (startTransfer_only _ _ _).andThen ?_ ?_); exact rfl)
    | ((with_reducible refine (writeTransfer_only _ _).andThen ?_ ?_); exact rfl)
    | with_reducible refine Only.ite ?_ ?_
    | split
    | refine Only.ofMk rfl ?_)

theorem execMbArbitrationLost_frames (byte : Option Byte) (s : State) : Frames [.mb] s (execMbArbitrationLost byte s) := by
  unfold execMbArbitrationLost
  dsimp -failIfUnchanged only
  repeat' (first
    | with_reducible exact Only.refl _ _
    | ((with_reducible refine Frames.onlyIf ?_); intro hg)
    | with_reducible refine Frames.next ?_
    | ((with_reducible refine (State.setMb_only _ _ ?_).andThen ?_ ?_); (intro m; (repeat' split) <;> exact ⟨rfl, rfl, rfl, rfl⟩); exact rfl)
    | ((with_reducible refine (bumpMb_only _ _).andThen ?_ ?_); exact rfl)
    | ((with_reducible refine (endTransfer_only _ _).andThen ?_ ?_); exact rfl)
    | with_reducible refine Only.ite ?_ ?_
    | refine Only.ofMk rfl ?_)

theorem execMbControllerDone_frames (ack : BusAck) (data : List Byte) (pec : Byte) (s : State) : Frames [.mb] s (execMbControllerDone ack data pec s) := by
  unfold execMbControllerDone
  dsimp -failIfUnchanged only
  repeat' (first
    | with_reducible exact Only.refl _ _
    | ((with_reducible refine Frames.onlyIf ?_); intro hg)
    | with_reducible refine Frames.next ?_
    | ((with_reducible refine (State.setMb_only _ _ ?_).andThen ?_ ?_); (intro m; (repeat' split) <;> exact ⟨rfl, rfl, rfl, rfl⟩); exact rfl)
    | ((with_reducible refine (endTransfer_only _ _).andThen ?_ ?_); exact rfl)
    | with_reducible refine Only.ite ?_ ?_
    | refine Only.ofMk rfl ?_)

theorem execMbControllerTimeout_frames (s : State) : Frames [.mb] s (execMbControllerTimeout s) := by
  unfold execMbControllerTimeout
  dsimp -failIfUnchanged only
  repeat' (first
    | with_reducible exact Only.refl _ _
    | ((with_reducible refine Frames.onlyIf ?_); intro hg)
    | with_reducible refine Frames.next ?_
    | ((with_reducible refine (endTransfer_only _ _).andThen ?_ ?_); exact rfl)
    | refine Only.ofMk rfl ?_)

theorem execMbTimingWrite_frames (v : Nat) (s : State) : Frames [.mode, .mb, .busTiming] s (execMbTimingWrite v s) := by
  unfold execMbTimingWrite
  dsimp -failIfUnchanged only
  repeat' (first
    | with_reducible exact Only.refl _ _
    | ((with_reducible refine Frames.onlyIf ?_); intro hg)
    | with_reducible refine Frames.next ?_
    | ((with_reducible refine (hostAccess_only _).andThen ?_ ?_); exact rfl)
    | ((with_reducible refine (writeTiming_only _ _).andThen ?_ ?_); exact rfl)
    | refine Only.ofMk rfl ?_)

theorem execMbErrorsReport_frames (s : State) : Frames [.link, .integ, .mb, .sec] s (execMbErrorsReport s) := by
  unfold execMbErrorsReport
  dsimp -failIfUnchanged only
  repeat' (first
    | with_reducible exact Only.refl _ _
    | ((with_reducible refine Frames.onlyIf ?_); intro hg)
    | with_reducible refine Frames.next ?_
    | ((with_reducible refine (State.setMb_only _ _ ?_).andThen ?_ ?_); (intro m; (repeat' split) <;> exact ⟨rfl, rfl, rfl, rfl⟩); exact rfl)
    | ((with_reducible refine (raise_only _ _ _ _).andThen ?_ ?_); exact rfl)
    | refine Only.ofMk rfl ?_)

theorem execMboxGo_frames (s : State) : Frames [.link, .mb] s (execMboxGo s) := by
  unfold execMboxGo
  dsimp -failIfUnchanged only
  repeat' (first
    | with_reducible exact Only.refl _ _
    | ((with_reducible refine Frames.onlyIf ?_); intro hg)
    | with_reducible refine Frames.next ?_
    | ((with_reducible refine (mbStop_only _).andThen ?_ ?_); exact rfl)
    | ((with_reducible refine (mboxGo_only _).andThen ?_ ?_); exact rfl)
    | refine Only.ofMk rfl ?_)

theorem execMboxComplete_frames (s : State) : Frames [.mb] s (execMboxComplete s) := by
  unfold execMboxComplete
  dsimp -failIfUnchanged only
  repeat' (first
    | with_reducible exact Only.refl _ _
    | ((with_reducible refine Frames.onlyIf ?_); intro hg)
    | with_reducible refine Frames.next ?_
    | ((with_reducible refine (State.setMb_only _ _ ?_).andThen ?_ ?_); (intro m; (repeat' split) <;> exact ⟨rfl, rfl, rfl, rfl⟩); exact rfl)
    | split
    | refine Only.ofMk rfl ?_)

/-! ### Regs -/

theorem execClkCtrlWrite_frames (v : Nat) (s : State) : Frames [.time, .mode, .spread] s (execClkCtrlWrite v s) := by
  unfold execClkCtrlWrite
  dsimp -failIfUnchanged only
  repeat' (first
    | with_reducible exact Only.refl _ _
    | ((with_reducible refine Frames.onlyIf ?_); intro hg)
    | with_reducible refine Frames.next ?_
    | ((with_reducible refine (hostAccess_only _).andThen ?_ ?_); exact rfl)
    | with_reducible refine Only.ite ?_ ?_
    | refine Only.ofMk rfl ?_)

theorem execSystimeLoRead_frames (s : State) : Frames [.time, .link, .mode] s (execSystimeLoRead s) := by
  unfold execSystimeLoRead
  dsimp -failIfUnchanged only
  repeat' (first
    | with_reducible exact Only.refl _ _
    | ((with_reducible refine Frames.onlyIf ?_); intro hg)
    | with_reducible refine Frames.next ?_
    | ((with_reducible refine (hostAccess_only _).andThen ?_ ?_); exact rfl)
    | ((with_reducible refine (send_only _ _).andThen ?_ ?_); exact rfl)
    | refine Only.ofMk rfl ?_)

theorem writeTone_only (t : Nat) (second : Bool) (v : Nat) (s : State) : Only [.cal] s (writeTone t second v s) := by
  unfold writeTone
  dsimp -failIfUnchanged only
  repeat' (first
    | with_reducible exact Only.refl _ _
    | with_reducible refine Only.ite ?_ ?_
    | split
    | refine Only.ofMk rfl ?_)

theorem writeCalCtrl_only (v : Nat) (s : State) : Only [.cal, .levelInterval] s (writeCalCtrl v s) := by
  unfold writeCalCtrl
  dsimp -failIfUnchanged only
  repeat' (first
    | with_reducible exact Only.refl _ _
    | with_reducible refine Only.ite ?_ ?_
    | refine Only.ofMk rfl ?_)

theorem writeWatchCtrl_only (v : Nat) (s : State) : Only [.link, .integ, .mode, .domains, .sec] s (writeWatchCtrl v s) := by
  unfold writeWatchCtrl
  dsimp -failIfUnchanged only
  repeat' (first
    | with_reducible exact Only.refl _ _
    | ((with_reducible refine (reviewAlerts_only _).andThen ?_ ?_); exact rfl)
    | refine Only.ofMk rfl ?_)

theorem writeMsix_only (o v : Nat) (s : State) : Only [.link] s (writeMsix o v s) := by
  unfold writeMsix
  dsimp -failIfUnchanged only
  repeat' (first
    | with_reducible exact Only.refl _ _
    | with_reducible refine Only.ite ?_ ?_
    | split
    | refine Only.ofMk rfl ?_)

theorem writePackage_only (o v : Nat) (s : State) : Only [.time, .link, .cal, .integ, .mode, .domains, .mb, .sec, .levelInterval] s (writePackage o v s) := by
  unfold writePackage
  dsimp -failIfUnchanged only
  repeat' (first
    | with_reducible exact Only.refl _ _
    | ((with_reducible refine (State.setMb_only _ _ ?_).andThen ?_ ?_); (intro m; (repeat' split) <;> exact ⟨rfl, rfl, rfl, rfl⟩); exact rfl)
    | ((with_reducible refine (writeBusCtrl_only _ _).andThen ?_ ?_); exact rfl)
    | ((with_reducible refine (writeCalCtrl_only _ _).andThen ?_ ?_); exact rfl)
    | ((with_reducible refine (writeMsix_only _ _ _).andThen ?_ ?_); exact rfl)
    | ((with_reducible refine (writeTone_only _ _ _ _).andThen ?_ ?_); exact rfl)
    | ((with_reducible refine (writeTransfer_only _ _).andThen ?_ ?_); exact rfl)
    | ((with_reducible refine (writeWatchCtrl_only _ _).andThen ?_ ?_); exact rfl)
    | with_reducible refine Only.ite ?_ ?_
    | refine Only.ofMk rfl ?_)

theorem writeDie_only (d o v : Nat) (s : State) : Only [.mon] s (writeDie d o v s) := by
  unfold writeDie
  dsimp -failIfUnchanged only
  repeat' (first
    | with_reducible exact Only.refl _ _
    | ((with_reducible refine (State.setMon_only _ _ _).andThen ?_ ?_); exact rfl)
    | with_reducible refine Only.ite ?_ ?_
    | refine Only.ofMk rfl ?_)

theorem writeBar0_only (offset v : Nat) (s : State) : Only [.time, .link, .cal, .mon, .integ, .mode, .domains, .mb, .sec, .levelInterval] s (writeBar0 offset v s) := by
  unfold writeBar0
  dsimp -failIfUnchanged only
  repeat' (first
    | with_reducible exact Only.refl _ _
    | ((with_reducible refine (writeDie_only _ _ _ _).andThen ?_ ?_); exact rfl)
    | ((with_reducible refine (writePackage_only _ _ _).andThen ?_ ?_); exact rfl)
    | with_reducible refine Only.ite ?_ ?_
    | refine Only.ofMk rfl ?_)

theorem execRegisterWrite_frames (t : RegTarget) (v : Nat) (s : State) : Frames [.time, .link, .cal, .mon, .integ, .mode, .domains, .mb, .sec, .levelInterval] s (execRegisterWrite t v s) := by
  unfold execRegisterWrite
  dsimp -failIfUnchanged only
  repeat' (first
    | with_reducible exact Only.refl _ _
    | ((with_reducible refine Frames.onlyIf ?_); intro hg)
    | with_reducible refine Frames.next ?_
    | ((with_reducible refine (hostAccess_only _).andThen ?_ ?_); exact rfl)
    | ((with_reducible refine (writeBar0_only _ _ _).andThen ?_ ?_); exact rfl)
    | split
    | refine Only.ofMk rfl ?_)

/-! ### Staging -/

theorem execNop_frames (src : CmdSrc) (s : State) : Frames [.link, .mb] s (execNop src s) := by
  unfold execNop
  dsimp -failIfUnchanged only
  repeat' (first
    | with_reducible exact Only.refl _ _
    | ((with_reducible refine Frames.onlyIf ?_); intro hg)
    | with_reducible refine Frames.next ?_
    | (refine runCmd_frames _ _ _ _ _ ?_ rfl; intro f s)
    | ((with_reducible refine (finish_only _ _ _ _ _).andThen ?_ ?_); exact rfl)
    | split
    | refine Only.ofMk rfl ?_)

theorem execIdentify_frames (src : CmdSrc) (s : State) : Frames [.link, .mb] s (execIdentify src s) := by
  unfold execIdentify
  dsimp -failIfUnchanged only
  repeat' (first
    | with_reducible exact Only.refl _ _
    | ((with_reducible refine Frames.onlyIf ?_); intro hg)
    | with_reducible refine Frames.next ?_
    | (refine runCmd_frames _ _ _ _ _ ?_ rfl; intro f s)
    | ((with_reducible refine (finishOutput_only _ _ _ _).andThen ?_ ?_); exact rfl)
    | split
    | refine Only.ofMk rfl ?_)

theorem execTimeSet_frames (src : CmdSrc) (s : State) : Frames [.time, .link, .mb] s (execTimeSet src s) := by
  unfold execTimeSet
  dsimp -failIfUnchanged only
  repeat' (first
    | with_reducible exact Only.refl _ _
    | ((with_reducible refine Frames.onlyIf ?_); intro hg)
    | with_reducible refine Frames.next ?_
    | (refine runCmd_frames _ _ _ _ _ ?_ rfl; intro f s)
    | ((with_reducible refine (finish_only _ _ _ _ _).andThen ?_ ?_); exact rfl)
    | split
    | refine Only.ofMk rfl ?_)

theorem execRealign_frames (src : CmdSrc) (s : State) : Frames [.time, .link, .mb] s (execRealign src s) := by
  unfold execRealign
  dsimp -failIfUnchanged only
  repeat' (first
    | with_reducible exact Only.refl _ _
    | ((with_reducible refine Frames.onlyIf ?_); intro hg)
    | with_reducible refine Frames.next ?_
    | (refine runCmd_frames _ _ _ _ _ ?_ rfl; intro f s)
    | ((with_reducible refine (finish_only _ _ _ _ _).andThen ?_ ?_); exact rfl)
    | with_reducible refine Only.ite ?_ ?_
    | split
    | refine Only.ofMk rfl ?_)

theorem State.stage_only (s : State) (f : ConfigSet → ConfigSet) : Only [.cfg, .shadow] s (State.stage s f) := Only.ofMk rfl (Only.refl _ _)

theorem stageWith_only (src : CmdSrc) (put : List Byte → ConfigSet → ConfigSet) (f : Fetched) (s : State) : Only [.link, .cfg, .mb, .shadow] s (stageWith src put f s) := by
  unfold stageWith
  dsimp -failIfUnchanged only
  repeat' (first
    | with_reducible exact Only.refl _ _
    | ((with_reducible refine (State.stage_only _ _).andThen ?_ ?_); exact rfl)
    | ((with_reducible refine (finish_only _ _ _ _ _).andThen ?_ ?_); exact rfl)
    | refine Only.ofMk rfl ?_)

theorem execStageLane_frames (src : CmdSrc) (s : State) : Frames [.link, .cfg, .mb, .shadow] s (execStageLane src s) := by
  unfold execStageLane
  dsimp -failIfUnchanged only
  repeat' (first
    | with_reducible exact Only.refl _ _
    | ((with_reducible refine Frames.onlyIf ?_); intro hg)
    | with_reducible refine Frames.next ?_
    | (refine runCmd_frames _ _ _ _ _ ?_ rfl; intro f s)
    | ((with_reducible refine (stageWith_only _ _ _ _).andThen ?_ ?_); exact rfl)
    | split
    | refine Only.ofMk rfl ?_)

theorem execStageCluster_frames (src : CmdSrc) (buf : Option (List Byte)) (s : State) : Frames [.link, .cfg, .mb, .shadow] s (execStageCluster src buf s) := by
  unfold execStageCluster
  dsimp -failIfUnchanged only
  repeat' (first
    | with_reducible exact Only.refl _ _
    | ((with_reducible refine Frames.onlyIf ?_); intro hg)
    | with_reducible refine Frames.next ?_
    | (refine runCmd_frames _ _ _ _ _ ?_ rfl; intro f s)
    | ((with_reducible refine (stageWith_only _ _ _ _).andThen ?_ ?_); exact rfl)
    | split
    | refine Only.ofMk rfl ?_)

theorem execStageEngine_frames (src : CmdSrc) (s : State) : Frames [.link, .cfg, .mb, .shadow] s (execStageEngine src s) := by
  unfold execStageEngine
  dsimp -failIfUnchanged only
  repeat' (first
    | with_reducible exact Only.refl _ _
    | ((with_reducible refine Frames.onlyIf ?_); intro hg)
    | with_reducible refine Frames.next ?_
    | (refine runCmd_frames _ _ _ _ _ ?_ rfl; intro f s)
    | ((with_reducible refine (stageWith_only _ _ _ _).andThen ?_ ?_); exact rfl)
    | split
    | refine Only.ofMk rfl ?_)

theorem execStageSlot_frames (src : CmdSrc) (s : State) : Frames [.link, .cfg, .mb, .shadow] s (execStageSlot src s) := by
  unfold execStageSlot
  dsimp -failIfUnchanged only
  repeat' (first
    | with_reducible exact Only.refl _ _
    | ((with_reducible refine Frames.onlyIf ?_); intro hg)
    | with_reducible refine Frames.next ?_
    | (refine runCmd_frames _ _ _ _ _ ?_ rfl; intro f s)
    | ((with_reducible refine (stageWith_only _ _ _ _).andThen ?_ ?_); exact rfl)
    | split
    | refine Only.ofMk rfl ?_)

theorem execStagePort_frames (src : CmdSrc) (s : State) : Frames [.link, .cfg, .mb, .shadow] s (execStagePort src s) := by
  unfold execStagePort
  dsimp -failIfUnchanged only
  repeat' (first
    | with_reducible exact Only.refl _ _
    | ((with_reducible refine Frames.onlyIf ?_); intro hg)
    | with_reducible refine Frames.next ?_
    | (refine runCmd_frames _ _ _ _ _ ?_ rfl; intro f s)
    | ((with_reducible refine (stageWith_only _ _ _ _).andThen ?_ ?_); exact rfl)
    | split
    | refine Only.ofMk rfl ?_)

theorem execStageFollow_frames (src : CmdSrc) (buf : Option (List Byte)) (s : State) : Frames [.link, .cfg, .mb, .shadow] s (execStageFollow src buf s) := by
  unfold execStageFollow
  dsimp -failIfUnchanged only
  repeat' (first
    | with_reducible exact Only.refl _ _
    | ((with_reducible refine Frames.onlyIf ?_); intro hg)
    | with_reducible refine Frames.next ?_
    | (refine runCmd_frames _ _ _ _ _ ?_ rfl; intro f s)
    | ((with_reducible refine (stageWith_only _ _ _ _).andThen ?_ ?_); exact rfl)
    | split
    | refine Only.ofMk rfl ?_)

theorem execStageBank_frames (src : CmdSrc) (buf : Option (List Byte)) (s : State) : Frames [.link, .cfg, .mb, .shadow] s (execStageBank src buf s) := by
  unfold execStageBank
  dsimp -failIfUnchanged only
  repeat' (first
    | with_reducible exact Only.refl _ _
    | ((with_reducible refine Frames.onlyIf ?_); intro hg)
    | with_reducible refine Frames.next ?_
    | (refine runCmd_frames _ _ _ _ _ ?_ rfl; intro f s)
    | ((with_reducible refine (stageWith_only _ _ _ _).andThen ?_ ?_); exact rfl)
    | split
    | refine Only.ofMk rfl ?_)

theorem execStagePlan_frames (src : CmdSrc) (buf : Option (List Byte)) (s : State) : Frames [.link, .cfg, .mb, .shadow] s (execStagePlan src buf s) := by
  unfold execStagePlan
  dsimp -failIfUnchanged only
  repeat' (first
    | with_reducible exact Only.refl _ _
    | ((with_reducible refine Frames.onlyIf ?_); intro hg)
    | with_reducible refine Frames.next ?_
    | (refine runCmd_frames _ _ _ _ _ ?_ rfl; intro f s)
    | ((with_reducible refine (stageWith_only _ _ _ _).andThen ?_ ?_); exact rfl)
    | split
    | refine Only.ofMk rfl ?_)

theorem execStageCopy_frames (src : CmdSrc) (s : State) : Frames [.link, .cfg, .mb, .shadow] s (execStageCopy src s) := by
  unfold execStageCopy
  dsimp -failIfUnchanged only
  repeat' (first
    | with_reducible exact Only.refl _ _
    | ((with_reducible refine Frames.onlyIf ?_); intro hg)
    | with_reducible refine Frames.next ?_
    | (refine runCmd_frames _ _ _ _ _ ?_ rfl; intro f s)
    | ((with_reducible refine (stageWith_only _ _ _ _).andThen ?_ ?_); exact rfl)
    | split
    | refine Only.ofMk rfl ?_)

theorem execDiscardStage_frames (src : CmdSrc) (s : State) : Frames [.link, .cfg, .mb, .shadow] s (execDiscardStage src s) := by
  unfold execDiscardStage
  dsimp -failIfUnchanged only
  repeat' (first
    | with_reducible exact Only.refl _ _
    | ((with_reducible refine Frames.onlyIf ?_); intro hg)
    | with_reducible refine Frames.next ?_
    | (refine runCmd_frames _ _ _ _ _ ?_ rfl; intro f s)
    | ((with_reducible refine (State.stage_only _ _).andThen ?_ ?_); exact rfl)
    | ((with_reducible refine (finish_only _ _ _ _ _).andThen ?_ ?_); exact rfl)
    | split
    | refine Only.ofMk rfl ?_)

/-! ### SysCal -/

theorem stepDone_only (item index : Nat) (s : State) : Only [.cal, .integ] s (stepDone item index s) := by
  unfold stepDone
  dsimp -failIfUnchanged only
  repeat' (first
    | with_reducible exact Only.refl _ _
    | ((with_reducible refine (calSuccessOf_only _ _ _ _).andThen ?_ ?_); exact rfl)
    | ((with_reducible refine (taskNormal_only _ _).andThen ?_ ?_); exact rfl)
    | with_reducible refine Only.ite ?_ ?_
    | refine Only.ofMk rfl ?_)

theorem setTransfer_only (n : Nat) (f : TransferCoef → TransferCoef) (s : State) : Only [.cal] s (setTransfer n f s) := by
  unfold setTransfer
  dsimp -failIfUnchanged only
  repeat' (first
    | with_reducible exact Only.refl _ _
    | ((with_reducible refine (calChanged_only _).andThen ?_ ?_); exact rfl)
    | refine Only.ofMk rfl ?_)

theorem trimEvent_only (k : Nat) (s : State) : Only [.taps] s (trimEvent k s) := by
  unfold trimEvent
  dsimp -failIfUnchanged only
  repeat' (first
    | with_reducible exact Only.refl _ _
    | ((with_reducible refine (bandTapInstant_only _ _ _).andThen ?_ ?_); exact rfl)
    | ((with_reducible refine Only.foldlFrom ?_ ?_); intro _ _)
    | refine Only.ofMk rfl ?_)

theorem injectFor_only (step target : Nat) (s : State) : Only [.front] s (injectFor step target s) := by
  unfold injectFor
  dsimp -failIfUnchanged only
  repeat' (first
    | with_reducible exact Only.refl _ _
    | ((with_reducible refine (setInject_only _ _ _).andThen ?_ ?_); exact rfl)
    | ((with_reducible refine Only.foldlFrom ?_ ?_); intro _ _)
    | refine Only.ofMk rfl ?_)

theorem injectOff_only (s : State) : Only [.front] s (injectOff s) := by
  unfold injectOff
  dsimp -failIfUnchanged only
  repeat' (first
    | with_reducible exact Only.refl _ _
    | ((with_reducible refine (setInject_only _ _ _).andThen ?_ ?_); exact rfl)
    | ((with_reducible refine Only.foldlFrom ?_ ?_); intro _ _)
    | refine Only.ofMk rfl ?_)

theorem setLevel_only {n k : Nat} {cs dB : Int} {rs : List ToneRead} {s : State} {c : Int} {t : State} (h : setLevel n k cs dB rs s = .sets c t) :
    Only [.cal, .integ] s t := by
  unfold setLevel at h
  dsimp only at h
  repeat' split at h
  all_goals simp only [StepEnd.sets.injEq, reduceCtorEq] at h
  rw [← h.2]
  exact (stepDone_only _ _ _).andThen rfl ((setLevelCoef_only _ _ _).mono rfl)

theorem State.withTone_sets {s : State} {f : Nat} {rs : List (Nat × ToneRead)} {e : StepEnd} {c : Int} {t : State} (h : s.withTone f rs e = .sets c t) :
    e = .sets c t := by
  unfold State.withTone at h
  split at h
  · exact absurd h (by simp)
  · exact h

theorem antDirect_only {n f : Nat} {level : Int} {a b : ToneRead} {s : State} {c : Int} {t : State} (h : antDirect n f level a b s = .sets c t) :
    Only [.cal, .integ] s t := by
  unfold antDirect at h
  split at h
  · rename_i hc
    simp only [StepEnd.sets.injEq] at h
    rw [← h.2]
    exact Only.ofMk rfl (setLevel_only hc)
  · exact setLevel_only h

theorem throughTransfer_only {n f : Nat} {level : Int} {a b : ToneRead} {s : State} {c : Int} {t : State} (h : throughTransfer n f level a b s = .sets c t) :
    Only [.cal, .integ] s t := setLevel_only h

theorem through_only {n f : Nat} {level : Int} {a b : ToneRead} {s : State} {c : Int} {t : State} (h : through n f level a b s = .sets c t) :
    Only [.cal, .integ] s t := by
  unfold through at h
  dsimp only at h
  repeat' split at h
  all_goals simp only [StepEnd.sets.injEq, reduceCtorEq] at h
  rw [← h.2]
  exact (stepDone_only _ _ _).andThen rfl ((setTransfer_only _ _ _).mono rfl)

theorem coupling_only {n f : Nat} {p q : ToneRead × ToneRead} {s : State} {c : Int} {t : State} (h : coupling n f p q s = .sets c t) :
    Only [.cal, .integ] s t := by
  unfold coupling at h
  dsimp only at h
  repeat' split at h
  all_goals simp only [StepEnd.sets.injEq, reduceCtorEq] at h
  rw [← h.2]
  exact (stepDone_only _ _ _).andThen rfl ((setTransfer_only _ _ _).mono rfl)

theorem gainSteps_only {n : Nat} {rs : List ToneRead} {delay : Int} {s : State} {c : Int} {t : State} (h : gainSteps n rs delay s = .sets c t) :
    Only [.link, .cal, .integ] s t := by
  unfold gainSteps at h
  dsimp only at h
  repeat' split at h
  all_goals simp only [StepEnd.sets.injEq, reduceCtorEq] at h
  rw [← h.2]
  exact (stepDone_only _ _ _).andThen rfl ((setGainSteps_only _ _ _).mono rfl)

theorem pathTrim_only {xs : List (Nat × Int)} {rs : List ToneRead} {s : State} {c : Int} {t : State} (h : pathTrim xs rs s = .sets c t) :
    Only [.taps, .lanes, .cal, .integ] s t := by
  unfold pathTrim at h
  dsimp only at h
  repeat' split at h
  all_goals simp only [StepEnd.sets.injEq, reduceCtorEq] at h
  rw [← h.2]
  refine Only.foldlFrom (fun u x => (stepDone_only _ _ _).andThen rfl (Only.ite (Only.refl _ _) ((trimEvent_only _ _).mono rfl))) ?_
  exact (calChanged_only _).andThen rfl (Only.ofMk rfl (Only.refl _ _))

theorem auxZero_only {d : Nat} {m : SyscalMeas} {s : State} {c : Int} {t : State} (h : auxZero d m s = .sets c t) : Only [.cal, .mon, .integ] s t := by
  unfold auxZero at h
  dsimp only at h
  split at h
  · exact absurd h (by simp)
  · simp only [StepEnd.sets.injEq] at h
    rw [← h.2]
    exact (stepDone_only _ _ _).andThen rfl ((setMonitor_only _ _ _).mono rfl)

theorem auxFull_only {d uv : Nat} {m : SyscalMeas} {s : State} {c : Int} {t : State} (h : auxFull d uv m s = .sets c t) : Only [.cal, .mon, .integ] s t := by
  unfold auxFull at h
  dsimp only at h
  split at h
  · exact absurd h (by simp)
  · simp only [StepEnd.sets.injEq] at h
    rw [← h.2]
    exact (stepDone_only _ _ _).andThen rfl ((setMonitor_only _ _ _).mono rfl)

theorem sysStep_only {step target a : Nat} {b : Int} {m : SyscalMeas} {s : State} {c : Int} {t : State} (h : sysStep step target a b m s = .sets c t) :
    Only [.taps, .lanes, .link, .cal, .mon, .integ] s t := by
  unfold sysStep at h
  extract_lets r ka kb both at h
  split at h
  · exact (antDirect_only (State.withTone_sets h)).mono rfl
  · exact (through_only (State.withTone_sets h)).mono rfl
  · exact (throughTransfer_only (State.withTone_sets h)).mono rfl
  · exact (coupling_only (State.withTone_sets h)).mono rfl
  · exact (gainSteps_only (State.withTone_sets h)).mono rfl
  · exact (pathTrim_only (State.withTone_sets h)).mono rfl
  · exact (auxZero_only h).mono rfl
  · exact (auxFull_only h).mono rfl

theorem execSyscalStep_frames (src : CmdSrc) (meas : Option SyscalMeas) (s : State) : Frames [.spans, .front, .taps, .lanes, .link, .cal, .mon, .integ, .mode, .mb, .sec, .freeCount, .modeCode] s (execSyscalStep src meas s) := by
  unfold execSyscalStep
  refine runCmd_frames _ _ _ _ _ (fun f t => ?_) rfl
  extract_lets step target item u
  have hu : Only [.spans, .front, .taps, .lanes, .link, .cal, .mon, .integ, .mode, .mb, .sec, .freeCount, .modeCode] t u := (injectFor_only _ _ _).mono rfl
  clear_value u
  split
  · exact (finish_only _ _ _ _ _).andThen rfl ((injectOff_only _).andThen rfl hu)
  · split
    · exact (finish_only _ _ _ _ _).andThen rfl ((injectOff_only _).andThen rfl ((calFailed_only _ _ _ _).andThen rfl hu))
    · exact (finish_only _ _ _ _ _).andThen rfl ((injectOff_only _).andThen rfl ((calFailed_only _ _ _ _).andThen rfl ((advanceFree_only _).andThen rfl hu)))
    · rename_i hr
      exact (finish_only _ _ _ _ _).andThen rfl ((refresh_only _).andThen rfl ((injectOff_only _).andThen rfl ((sysStep_only hr).andThen rfl hu)))

theorem execMonInject_frames (src : CmdSrc) (s : State) : Frames [.link, .mon, .mb] s (execMonInject src s) := by
  unfold execMonInject
  dsimp -failIfUnchanged only
  repeat' (first
    | with_reducible exact Only.refl _ _
    | ((with_reducible refine Frames.onlyIf ?_); intro hg)
    | with_reducible refine Frames.next ?_
    | (refine runCmd_frames _ _ _ _ _ ?_ rfl; intro f s)
    | ((with_reducible refine (await_only _ _ _ _).andThen ?_ ?_); exact rfl)
    | ((with_reducible refine (finish_only _ _ _ _ _).andThen ?_ ?_); exact rfl)
    | ((with_reducible refine (queueInjection_only _ _ _).andThen ?_ ?_); exact rfl)
    | with_reducible refine Only.ite ?_ ?_
    | split
    | refine Only.ofMk rfl ?_)

theorem execMonRead_frames (src : CmdSrc) (s : State) : Frames [.link, .mb] s (execMonRead src s) := by
  unfold execMonRead
  dsimp -failIfUnchanged only
  repeat' (first
    | with_reducible exact Only.refl _ _
    | ((with_reducible refine Frames.onlyIf ?_); intro hg)
    | with_reducible refine Frames.next ?_
    | (refine runCmd_frames _ _ _ _ _ ?_ rfl; intro f s)
    | ((with_reducible refine (finishOutput_only _ _ _ _).andThen ?_ ?_); exact rfl)
    | split
    | refine Only.ofMk rfl ?_)

/-! ### Update -/

theorem State.setNvSec_only (s : State) (f : NvSec → NvSec) (h : OtpKept s.nv.sec (f s.nv.sec)) : Only [.nv, .firmware] s (s.setNvSec f) := by
  unfold State.setNvSec
  exact Only.ofMk rfl (Only.refl _ _) (k_otp := fun _ => h)

theorem NvSec.setSlot_otp (v : NvSec) (b : Bool) (x : ImageSlot) : OtpKept v (v.setSlot b x) := by
  unfold NvSec.setSlot
  split <;> exact ⟨rfl, rfl, rfl, fun _ h => h, BitVec.and_self⟩

theorem execUpdateBegin_frames (src : CmdSrc) (s : State) : Frames [.spans, .audio, .link, .integ, .mode, .mb, .sec, .nv, .freeCount, .modeCode, .firmware] s (execUpdateBegin src s) := by
  unfold execUpdateBegin
  refine runCmd_frames _ _ _ _ _ (fun f t => ?_) rfl
  dsimp only
  split
  · exact (finish_only _ _ _ _ _).mono rfl
  · refine (finish_only _ _ _ _ _).andThen rfl ?_
    refine (refresh_only _).andThen rfl ?_
    refine (setMode_only _ _ _).andThen rfl ?_
    refine (State.setNvSec_only _ _ ?_).andThen rfl ?_
    · exact (NvSec.setSlot_otp _ _ _).trans ⟨rfl, rfl, rfl, fun _ h => h, BitVec.and_self⟩
    · refine Only.ofMk rfl ?_
      split
      · exact (advanceFree_only _).mono rfl
      · exact Only.refl _ _

theorem execUpdateChunk_frames (src : CmdSrc) (buf : Option (List Byte)) (ok : Bool) (s : State) : Frames [.link, .mb, .sec] s (execUpdateChunk src buf ok s) := by
  unfold execUpdateChunk
  dsimp -failIfUnchanged only
  repeat' (first
    | with_reducible exact Only.refl _ _
    | ((with_reducible refine Frames.onlyIf ?_); intro hg)
    | with_reducible refine Frames.next ?_
    | (refine runCmd_frames _ _ _ _ _ ?_ rfl; intro f s)
    | ((with_reducible refine (finish_only _ _ _ _ _).andThen ?_ ?_); exact rfl)
    | with_reducible refine Only.ite ?_ ?_
    | split
    | refine Only.ofMk rfl ?_)

theorem takeImage_only (u : UpdateSt) (activate : Bool) (s : State) (h : s.accepts u.image = true) : Only [.audio, .link, .integ, .sec, .nv, .firmware] s (takeImage u activate s) := by
  unfold takeImage
  dsimp only
  split
  · rename_i he
    refine (raise_only _ _ _ _).andThen rfl ((State.setNvSec_only _ _ ?_).mono rfl)
    have hn : s.nv.sec.ownerHash = none := by
      unfold State.accepts at h
      rw [if_pos he] at h
      simp only [Bool.and_eq_true, Option.isNone_iff_eq_none] at h
      exact h.1
    exact ⟨rfl, rfl, rfl, fun x hx => by rw [hn] at hx; exact absurd hx (by simp), BitVec.and_self⟩
  · refine (State.setNvSec_only _ _ ?_).mono rfl
    refine (NvSec.setSlot_otp s.nv.sec u.slotB ⟨true, u.image⟩).trans ?_
    repeat' split
    all_goals exact ⟨rfl, rfl, rfl, fun _ h => h, BitVec.and_self⟩

theorem endUpdate_only (u : UpdateSt) (s : State) : Only [.spans, .link, .integ, .mode, .sec, .nv, .modeCode, .firmware] s (endUpdate u s) := by
  unfold endUpdate
  refine (refresh_only _).andThen rfl ?_
  refine (setMode_only _ _ _).andThen rfl ?_
  refine (State.setNvSec_only _ _ ⟨rfl, rfl, rfl, fun _ h => h, BitVec.and_self⟩).andThen rfl ?_
  exact Only.ofMk rfl (Only.refl _ _)

theorem execUpdateFinish_frames (src : CmdSrc) (s : State) : Frames [.spans, .audio, .link, .integ, .mode, .mb, .sec, .nv, .freeCount, .modeCode, .firmware] s (execUpdateFinish src s) := by
  unfold execUpdateFinish
  refine runCmd_frames _ _ _ _ _ (fun f t => ?_) rfl
  split
  · exact (finish_only _ _ _ _ _).mono rfl
  · refine Only.ite ?_ (Only.ite ?_ ?_)
    · exact (finish_only _ _ _ _ _).andThen rfl ((endUpdate_only _ _).andThen rfl ((advanceFree_only _).mono rfl))
    · exact (finish_only _ _ _ _ _).andThen rfl ((endUpdate_only _ _).mono rfl)
    · split
      · exact (finish_only _ _ _ _ _).andThen rfl ((endUpdate_only _ _).mono rfl)
      · rename_i ha
        exact (finish_only _ _ _ _ _).andThen rfl ((endUpdate_only _ _).andThen rfl ((takeImage_only _ _ _ (by simpa using ha)).mono rfl))

theorem execKeyInfo_frames (src : CmdSrc) (s : State) : Frames [.link, .mb] s (execKeyInfo src s) := by
  unfold execKeyInfo
  dsimp -failIfUnchanged only
  repeat' (first
    | with_reducible exact Only.refl _ _
    | ((with_reducible refine Frames.onlyIf ?_); intro hg)
    | with_reducible refine Frames.next ?_
    | (refine runCmd_frames _ _ _ _ _ ?_ rfl; intro f s)
    | ((with_reducible refine (finishOutput_only _ _ _ _).andThen ?_ ?_); exact rfl)
    | split
    | refine Only.ofMk rfl ?_)

theorem execAttest_frames (src : CmdSrc) (s : State) : Frames [.link, .mb] s (execAttest src s) := by
  unfold execAttest
  dsimp -failIfUnchanged only
  repeat' (first
    | with_reducible exact Only.refl _ _
    | ((with_reducible refine Frames.onlyIf ?_); intro hg)
    | with_reducible refine Frames.next ?_
    | (refine runCmd_frames _ _ _ _ _ ?_ rfl; intro f s)
    | ((with_reducible refine (finishOutput_only _ _ _ _).andThen ?_ ?_); exact rfl)
    | split
    | refine Only.ofMk rfl ?_)

theorem execHallmarkConfig_frames (src : CmdSrc) (s : State) : Frames [.link, .mb, .sec] s (execHallmarkConfig src s) := by
  unfold execHallmarkConfig
  dsimp -failIfUnchanged only
  repeat' (first
    | with_reducible exact Only.refl _ _
    | ((with_reducible refine Frames.onlyIf ?_); intro hg)
    | with_reducible refine Frames.next ?_
    | (refine runCmd_frames _ _ _ _ _ ?_ rfl; intro f s)
    | ((with_reducible refine (State.setHall_only _ _).andThen ?_ ?_); exact rfl)
    | ((with_reducible refine (finish_only _ _ _ _ _).andThen ?_ ?_); exact rfl)
    | split
    | refine Only.ofMk rfl ?_)

/-! ### Work -/

theorem execPortStart_frames (src : CmdSrc) (s : State) : Frames [.ports, .link, .mb] s (execPortStart src s) := by
  unfold execPortStart
  dsimp -failIfUnchanged only
  repeat' (first
    | with_reducible exact Only.refl _ _
    | ((with_reducible refine Frames.onlyIf ?_); intro hg)
    | with_reducible refine Frames.next ?_
    | (refine runCmd_frames _ _ _ _ _ ?_ rfl; intro f s)
    | ((with_reducible refine (State.setPort_only _ _ _).andThen ?_ ?_); exact rfl)
    | ((with_reducible refine (await_only _ _ _ _).andThen ?_ ?_); exact rfl)
    | ((with_reducible refine (finish_only _ _ _ _ _).andThen ?_ ?_); exact rfl)
    | with_reducible refine Only.ite ?_ ?_
    | split
    | refine Only.ofMk rfl ?_)

theorem execPortStop_frames (src : CmdSrc) (s : State) : Frames [.ports, .link, .mb] s (execPortStop src s) := by
  unfold execPortStop
  dsimp -failIfUnchanged only
  repeat' (first
    | with_reducible exact Only.refl _ _
    | ((with_reducible refine Frames.onlyIf ?_); intro hg)
    | with_reducible refine Frames.next ?_
    | (refine runCmd_frames _ _ _ _ _ ?_ rfl; intro f s)
    | ((with_reducible refine (State.setPort_only _ _ _).andThen ?_ ?_); exact rfl)
    | ((with_reducible refine (await_only _ _ _ _).andThen ?_ ?_); exact rfl)
    | ((with_reducible refine (finish_only _ _ _ _ _).andThen ?_ ?_); exact rfl)
    | with_reducible refine Only.ite ?_ ?_
    | split
    | refine Only.ofMk rfl ?_)

theorem execCaptureStart_frames (src : CmdSrc) (s : State) : Frames [.link, .mb] s (execCaptureStart src s) := by
  unfold execCaptureStart
  dsimp -failIfUnchanged only
  repeat' (first
    | with_reducible exact Only.refl _ _
    | ((with_reducible refine Frames.onlyIf ?_); intro hg)
    | with_reducible refine Frames.next ?_
    | (refine runCmd_frames _ _ _ _ _ ?_ rfl; intro f s)
    | ((with_reducible refine (await_only _ _ _ _).andThen ?_ ?_); exact rfl)
    | ((with_reducible refine (finish_only _ _ _ _ _).andThen ?_ ?_); exact rfl)
    | with_reducible refine Only.ite ?_ ?_
    | split
    | refine Only.ofMk rfl ?_)

theorem execCaptureStartTick_frames (r : Nat) (s : State) : Frames [.link, .integ, .mb, .sec] s (execCaptureStartTick r s) := by
  unfold execCaptureStartTick
  dsimp -failIfUnchanged only
  repeat' (first
    | with_reducible exact Only.refl _ _
    | ((with_reducible refine Frames.onlyIf ?_); intro hg)
    | with_reducible refine Frames.next ?_
    | ((with_reducible refine (completeWait_only _ _ _ _).andThen ?_ ?_); exact rfl)
    | ((with_reducible refine (endCapture_only _ _).andThen ?_ ?_); exact rfl)
    | with_reducible refine Only.ite ?_ ?_
    | split
    | refine Only.ofMk rfl ?_)

theorem execCaptureStop_frames (src : CmdSrc) (s : State) : Frames [.link, .integ, .mb, .sec] s (execCaptureStop src s) := by
  unfold execCaptureStop
  dsimp -failIfUnchanged only
  repeat' (first
    | with_reducible exact Only.refl _ _
    | ((with_reducible refine Frames.onlyIf ?_); intro hg)
    | with_reducible refine Frames.next ?_
    | (refine runCmd_frames _ _ _ _ _ ?_ rfl; intro f s)
    | ((with_reducible refine (endCapture_only _ _).andThen ?_ ?_); exact rfl)
    | ((with_reducible refine (finish_only _ _ _ _ _).andThen ?_ ?_); exact rfl)
    | with_reducible refine Only.ite ?_ ?_
    | split
    | refine Only.ofMk rfl ?_)

end Sys2Proof.Machine
end

