-- ==== Sys2Proof/Laws/Table.lean ====
section
/-!
SUPPORT. Laws of tables: reading after writing, and the canonical form that every writing operation keeps.
-/
namespace Sys2Proof.Machine

theorem cellsFind_erase_self {α : Type} (k : Nat) (l : List (Nat × α)) : cellsFind k (cellsErase k l) = none := by
  induction l with
  | nil => rfl
  | cons h l ih =>
    obtain ⟨j, v⟩ := h
    by_cases e : j = k <;> simp [cellsErase, cellsFind, e, ih]

theorem cellsFind_erase_of_ne {α : Type} {i k : Nat} (h : i ≠ k) (l : List (Nat × α)) :
    cellsFind i (cellsErase k l) = cellsFind i l := by
  induction l with
  | nil => rfl
  | cons hd l ih =>
    obtain ⟨j, v⟩ := hd
    by_cases e : j = k
    · subst e
      simp [cellsErase, cellsFind, ih, Ne.symm h]
    · simp [cellsErase, cellsFind, e, ih]

theorem cellsFind_insert_of_ne {α : Type} {i k : Nat} (h : i ≠ k) (v : α) (l : List (Nat × α)) :
    cellsFind i (cellsInsert k v l) = cellsFind i l := by
  induction l with
  | nil => simp [cellsInsert, cellsFind, Ne.symm h]
  | cons hd l ih =>
    obtain ⟨j, w⟩ := hd
    by_cases e : k < j
    · simp [cellsInsert, cellsFind, e, Ne.symm h]
    · simp [cellsInsert, cellsFind, e, ih]

theorem cellsFind_insert_self {α : Type} {k : Nat} (v : α) (l : List (Nat × α)) (h : cellsFind k l = none) :
    cellsFind k (cellsInsert k v l) = some v := by
  induction l with
  | nil => simp [cellsInsert, cellsFind]
  | cons hd l ih =>
    obtain ⟨j, w⟩ := hd
    by_cases e2 : j = k
    · simp [cellsFind, e2] at h
    · simp only [cellsFind, e2, if_false] at h
      by_cases e : k < j <;> simp [cellsInsert, cellsFind, e, e2, ih h]

theorem cellsErase_of_find {α : Type} {k : Nat} (l : List (Nat × α)) (h : cellsFind k l = none) : cellsErase k l = l := by
  induction l with
  | nil => rfl
  | cons hd l ih =>
    obtain ⟨j, v⟩ := hd
    by_cases e : j = k
    · simp [cellsFind, e] at h
    · simp only [cellsFind, e, if_false] at h
      simp [cellsErase, e, ih h]

namespace Tbl
variable {α : Type}

@[simp] theorem get_empty (d : α) (k : Nat) : (Tbl.empty d).get k = d := rfl

theorem get_ext {t u : Tbl α} (hd : t.dflt = u.dflt) {k : Nat} (h : cellsFind k t.cells = cellsFind k u.cells) :
    t.get k = u.get k := by simp [Tbl.get, hd, h]

variable [DecidableEq α]

@[simp] theorem set_dflt (t : Tbl α) (k : Nat) (v : α) : (t.set k v).dflt = t.dflt := by
  unfold Tbl.set
  split <;> rfl

@[simp] theorem get_set_self (t : Tbl α) (k : Nat) (v : α) : (t.set k v).get k = v := by
  unfold Tbl.set Tbl.get
  split
  · rename_i h
    simp [cellsFind_erase_self, h]
  · simp [cellsFind_insert_self v _ (cellsFind_erase_self k t.cells)]

theorem get_set_of_ne (t : Tbl α) {i k : Nat} (h : i ≠ k) (v : α) : (t.set k v).get i = t.get i := by
  unfold Tbl.set Tbl.get
  split
  · simp [cellsFind_erase_of_ne h]
  · simp [cellsFind_insert_of_ne h, cellsFind_erase_of_ne h]

theorem get_set (t : Tbl α) (i k : Nat) (v : α) : (t.set k v).get i = if i = k then v else t.get i := by
  by_cases h : i = k
  · subst h
    simp
  · simp [h, get_set_of_ne t h]

@[simp] theorem modify_dflt (t : Tbl α) (k : Nat) (f : α → α) : (t.modify k f).dflt = t.dflt := set_dflt t k _

@[simp] theorem get_modify_self (t : Tbl α) (k : Nat) (f : α → α) : (t.modify k f).get k = f (t.get k) := get_set_self t k _

theorem get_modify_of_ne (t : Tbl α) {i k : Nat} (h : i ≠ k) (f : α → α) : (t.modify k f).get i = t.get i := get_set_of_ne t h _

theorem get_modify (t : Tbl α) (i k : Nat) (f : α → α) : (t.modify k f).get i = if i = k then f (t.get k) else t.get i := get_set t i k _

theorem get_foldl_set (t u : Tbl α) (f : Nat → α → α) (ks : List Nat) (i : Nat) :
    (ks.foldl (fun acc k => acc.set k (f k (t.get k))) u).get i = if i ∈ ks then f i (t.get i) else u.get i := by
  induction ks generalizing u with
  | nil => simp
  | cons k ks ih =>
    rw [List.foldl_cons, ih]
    by_cases h : i ∈ ks
    · simp [h]
    · by_cases e : i = k
      · subst e
        simp [h]
      · simp [h, e, get_set_of_ne]

/-- Every key below `n` is changed, no other. -/
theorem get_mapAll (t : Tbl α) (n : Nat) (f : Nat → α → α) (i : Nat) :
    (t.mapAll n f).get i = if i < n then f i (t.get i) else t.get i := by
  unfold Tbl.mapAll
  rw [get_foldl_set]
  simp

/-! ### The canonical form -/

end Tbl

/-- Keys strictly rising, whatever the first. -/
def CellsSorted {α : Type} : List (Nat × α) → Prop
  | [] => True
  | (j, _) :: rest => cellsRising j rest = true

theorem cellsSorted_tail {α : Type} {j : Nat} {l : List (Nat × α)} (h : cellsRising j l = true) : CellsSorted l := by
  cases l with
  | nil => trivial
  | cons hd l => simp_all [cellsRising, CellsSorted]

theorem cellsRising_mono {α : Type} {b c : Nat} (hbc : b ≤ c) (l : List (Nat × α)) (h : cellsRising c l = true) :
    cellsRising b l = true := by
  cases l with
  | nil => rfl
  | cons hd l =>
    simp only [cellsRising, Bool.and_eq_true, decide_eq_true_eq] at h ⊢
    exact ⟨by omega, h.2⟩

theorem cellsErase_rising {α : Type} (b k : Nat) (l : List (Nat × α)) (h : cellsRising b l = true) :
    cellsRising b (cellsErase k l) = true := by
  induction l generalizing b with
  | nil => rfl
  | cons hd l ih =>
    obtain ⟨j, v⟩ := hd
    simp only [cellsRising, Bool.and_eq_true, decide_eq_true_eq] at h
    by_cases e : j = k
    · simpa [cellsErase, e] using ih b (cellsRising_mono (Nat.le_of_lt h.1) l h.2)
    · simpa [cellsErase, e, cellsRising, h.1] using ih j h.2

theorem cellsInsert_rising {α : Type} (b k : Nat) (v : α) (l : List (Nat × α)) (hb : b < k) (h : cellsRising b l = true)
    (hk : cellsFind k l = none) : cellsRising b (cellsInsert k v l) = true := by
  induction l generalizing b with
  | nil => simp [cellsInsert, cellsRising, hb]
  | cons hd l ih =>
    obtain ⟨j, w⟩ := hd
    simp only [cellsRising, Bool.and_eq_true, decide_eq_true_eq] at h
    have hj : j ≠ k := by
      intro e
      simp [cellsFind, e] at hk
    simp only [cellsFind, hj, if_false] at hk
    by_cases e : k < j
    · simp [cellsInsert, e, cellsRising, hb, h.2]
    · have hjk : j < k := by omega
      simpa [cellsInsert, e, cellsRising, h.1] using ih j hjk h.2 hk

theorem cellsErase_sorted {α : Type} (k : Nat) (l : List (Nat × α)) (h : CellsSorted l) : CellsSorted (cellsErase k l) := by
  induction l with
  | nil => trivial
  | cons hd l ih =>
    obtain ⟨j, v⟩ := hd
    by_cases e : j = k
    · simpa [cellsErase, e] using ih (cellsSorted_tail h)
    · simpa [cellsErase, e, CellsSorted] using cellsErase_rising j k l h

theorem cellsInsert_sorted {α : Type} (k : Nat) (v : α) (l : List (Nat × α)) (h : CellsSorted l) (hk : cellsFind k l = none) :
    CellsSorted (cellsInsert k v l) := by
  cases l with
  | nil => rfl
  | cons hd l =>
    obtain ⟨j, w⟩ := hd
    have hj : j ≠ k := by
      intro e
      simp [cellsFind, e] at hk
    simp only [cellsFind, hj, if_false] at hk
    by_cases e : k < j
    · simpa [cellsInsert, e, CellsSorted, cellsRising] using h
    · have hjk : j < k := by omega
      simpa [cellsInsert, e, CellsSorted] using cellsInsert_rising j k v l hjk h hk

theorem mem_cellsErase {α : Type} {k : Nat} {c : Nat × α} {l : List (Nat × α)} (h : c ∈ cellsErase k l) : c ∈ l := by
  induction l with
  | nil => exact h
  | cons hd l ih =>
    obtain ⟨j, v⟩ := hd
    by_cases e : j = k
    · simp only [cellsErase, e, if_true] at h
      exact List.mem_cons_of_mem _ (ih h)
    · simp only [cellsErase, e, if_false, List.mem_cons] at h
      rcases h with rfl | h
      · simp
      · exact List.mem_cons_of_mem _ (ih h)

theorem mem_cellsInsert {α : Type} {k : Nat} {v : α} {c : Nat × α} {l : List (Nat × α)} (h : c ∈ cellsInsert k v l) :
    c = (k, v) ∨ c ∈ l := by
  induction l with
  | nil => simpa [cellsInsert] using h
  | cons hd l ih =>
    obtain ⟨j, w⟩ := hd
    by_cases e : k < j
    · simpa [cellsInsert, e] using h
    · simp only [cellsInsert, e, if_false, List.mem_cons] at h ⊢
      rcases h with rfl | h
      · simp
      · rcases ih h with h | h <;> simp [h]

namespace Tbl
variable {α : Type} [DecidableEq α]

theorem wf_iff (t : Tbl α) : t.wf = true ↔ CellsSorted t.cells ∧ ∀ c ∈ t.cells, c.2 ≠ t.dflt := by
  obtain ⟨d, l⟩ := t
  cases l <;> simp [Tbl.wf, CellsSorted]

/-- Writing keeps the canonical form. -/
theorem set_wf (t : Tbl α) (k : Nat) (v : α) (h : t.wf = true) : (t.set k v).wf = true := by
  rw [wf_iff] at h ⊢
  unfold Tbl.set
  split
  · exact ⟨cellsErase_sorted k _ h.1, fun c hc => h.2 c (mem_cellsErase hc)⟩
  · rename_i hv
    refine ⟨cellsInsert_sorted k v _ (cellsErase_sorted k _ h.1) (cellsFind_erase_self k _), fun c hc => ?_⟩
    rcases mem_cellsInsert hc with rfl | hc
    · exact hv
    · exact h.2 c (mem_cellsErase hc)

theorem modify_wf (t : Tbl α) (k : Nat) (f : α → α) (h : t.wf = true) : (t.modify k f).wf = true := set_wf t k _ h

theorem mapAll_wf (t : Tbl α) (n : Nat) (f : Nat → α → α) (h : t.wf = true) : (t.mapAll n f).wf = true := by
  have gen : ∀ (ks : List Nat) (u : Tbl α), u.wf = true → (ks.foldl (fun acc k => acc.set k (f k (t.get k))) u).wf = true := by
    intro ks
    induction ks with
    | nil => exact fun u hu => hu
    | cons k ks ih => exact fun u hu => ih _ (set_wf u k _ hu)
  exact gen _ t h

end Tbl

end Sys2Proof.Machine
end

