-- ==== Sys2Proof/Laws/State.lean ====
section
/-!
SUPPORT. What each update of the state leaves alone and what it sets, as rewriting rules: no later proof unfolds a record update.
-/
namespace Sys2Proof.Machine

/-! ### Updates of one part -/

@[simp] theorem State.setConv_keeps (s : State) (k : Nat) (f : Converter → Converter) :
    (State.setConv s k f).part = s.part ∧ (State.setConv s k f).pins = s.pins ∧ (State.setConv s k f).time = s.time ∧ (State.setConv s k f).ref = s.ref ∧
    (State.setConv s k f).clk = s.clk ∧ (State.setConv s k f).spans = s.spans ∧ (State.setConv s k f).taps = s.taps ∧ (State.setConv s k f).lanes = s.lanes ∧
    (State.setConv s k f).ofdm = s.ofdm ∧ (State.setConv s k f).audio = s.audio ∧ (State.setConv s k f).ports = s.ports ∧ (State.setConv s k f).link = s.link ∧
    (State.setConv s k f).cfg = s.cfg ∧ (State.setConv s k f).cal = s.cal ∧ (State.setConv s k f).mon = s.mon ∧ (State.setConv s k f).integ = s.integ ∧
    (State.setConv s k f).mode = s.mode ∧ (State.setConv s k f).domains = s.domains ∧ (State.setConv s k f).mb = s.mb ∧ (State.setConv s k f).sec = s.sec ∧
    (State.setConv s k f).nv = s.nv ∧ (State.setConv s k f).freeCount = s.freeCount ∧ (State.setConv s k f).pending = s.pending :=
  by and_intros <;> rfl

@[simp] theorem State.setCourse_keeps (s : State) (j : Nat) (f : Course → Course) :
    (State.setCourse s j f).part = s.part ∧ (State.setCourse s j f).pins = s.pins ∧ (State.setCourse s j f).time = s.time ∧ (State.setCourse s j f).ref = s.ref ∧
    (State.setCourse s j f).clk = s.clk ∧ (State.setCourse s j f).spans = s.spans ∧ (State.setCourse s j f).taps = s.taps ∧ (State.setCourse s j f).lanes = s.lanes ∧
    (State.setCourse s j f).ofdm = s.ofdm ∧ (State.setCourse s j f).audio = s.audio ∧ (State.setCourse s j f).ports = s.ports ∧ (State.setCourse s j f).link = s.link ∧
    (State.setCourse s j f).cfg = s.cfg ∧ (State.setCourse s j f).cal = s.cal ∧ (State.setCourse s j f).mon = s.mon ∧ (State.setCourse s j f).integ = s.integ ∧
    (State.setCourse s j f).mode = s.mode ∧ (State.setCourse s j f).domains = s.domains ∧ (State.setCourse s j f).mb = s.mb ∧ (State.setCourse s j f).sec = s.sec ∧
    (State.setCourse s j f).nv = s.nv ∧ (State.setCourse s j f).freeCount = s.freeCount ∧ (State.setCourse s j f).pending = s.pending :=
  by and_intros <;> rfl

@[simp] theorem State.setClk_keeps (s : State) (d : Nat) (f : DieClk → DieClk) :
    (State.setClk s d f).part = s.part ∧ (State.setClk s d f).pins = s.pins ∧ (State.setClk s d f).time = s.time ∧ (State.setClk s d f).ref = s.ref ∧
    (State.setClk s d f).spans = s.spans ∧ (State.setClk s d f).front = s.front ∧ (State.setClk s d f).taps = s.taps ∧ (State.setClk s d f).lanes = s.lanes ∧
    (State.setClk s d f).ofdm = s.ofdm ∧ (State.setClk s d f).audio = s.audio ∧ (State.setClk s d f).ports = s.ports ∧ (State.setClk s d f).link = s.link ∧
    (State.setClk s d f).cfg = s.cfg ∧ (State.setClk s d f).cal = s.cal ∧ (State.setClk s d f).mon = s.mon ∧ (State.setClk s d f).integ = s.integ ∧
    (State.setClk s d f).mode = s.mode ∧ (State.setClk s d f).domains = s.domains ∧ (State.setClk s d f).mb = s.mb ∧ (State.setClk s d f).sec = s.sec ∧
    (State.setClk s d f).nv = s.nv ∧ (State.setClk s d f).freeCount = s.freeCount ∧ (State.setClk s d f).pending = s.pending :=
  by and_intros <;> rfl

@[simp] theorem State.setRing_keeps (s : State) (r : Nat) (f : Ring → Ring) :
    (State.setRing s r f).part = s.part ∧ (State.setRing s r f).pins = s.pins ∧ (State.setRing s r f).time = s.time ∧ (State.setRing s r f).ref = s.ref ∧
    (State.setRing s r f).clk = s.clk ∧ (State.setRing s r f).spans = s.spans ∧ (State.setRing s r f).front = s.front ∧ (State.setRing s r f).taps = s.taps ∧
    (State.setRing s r f).lanes = s.lanes ∧ (State.setRing s r f).ofdm = s.ofdm ∧ (State.setRing s r f).audio = s.audio ∧ (State.setRing s r f).ports = s.ports ∧
    (State.setRing s r f).cfg = s.cfg ∧ (State.setRing s r f).cal = s.cal ∧ (State.setRing s r f).mon = s.mon ∧ (State.setRing s r f).integ = s.integ ∧
    (State.setRing s r f).mode = s.mode ∧ (State.setRing s r f).domains = s.domains ∧ (State.setRing s r f).mb = s.mb ∧ (State.setRing s r f).sec = s.sec ∧
    (State.setRing s r f).nv = s.nv ∧ (State.setRing s r f).freeCount = s.freeCount ∧ (State.setRing s r f).pending = s.pending :=
  by and_intros <;> rfl

@[simp] theorem State.setDemod_keeps (s : State) (l : Nat) (f : Demod → Demod) :
    (State.setDemod s l f).part = s.part ∧ (State.setDemod s l f).pins = s.pins ∧ (State.setDemod s l f).time = s.time ∧ (State.setDemod s l f).ref = s.ref ∧
    (State.setDemod s l f).clk = s.clk ∧ (State.setDemod s l f).spans = s.spans ∧ (State.setDemod s l f).front = s.front ∧ (State.setDemod s l f).taps = s.taps ∧
    (State.setDemod s l f).ofdm = s.ofdm ∧ (State.setDemod s l f).audio = s.audio ∧ (State.setDemod s l f).ports = s.ports ∧ (State.setDemod s l f).link = s.link ∧
    (State.setDemod s l f).cfg = s.cfg ∧ (State.setDemod s l f).cal = s.cal ∧ (State.setDemod s l f).mon = s.mon ∧ (State.setDemod s l f).integ = s.integ ∧
    (State.setDemod s l f).mode = s.mode ∧ (State.setDemod s l f).domains = s.domains ∧ (State.setDemod s l f).mb = s.mb ∧ (State.setDemod s l f).sec = s.sec ∧
    (State.setDemod s l f).nv = s.nv ∧ (State.setDemod s l f).freeCount = s.freeCount ∧ (State.setDemod s l f).pending = s.pending :=
  by and_intros <;> rfl

@[simp] theorem State.setSpare_keeps (s : State) (c : Nat) (f : SpareSt → SpareSt) :
    (State.setSpare s c f).part = s.part ∧ (State.setSpare s c f).pins = s.pins ∧ (State.setSpare s c f).time = s.time ∧ (State.setSpare s c f).ref = s.ref ∧
    (State.setSpare s c f).clk = s.clk ∧ (State.setSpare s c f).spans = s.spans ∧ (State.setSpare s c f).front = s.front ∧ (State.setSpare s c f).taps = s.taps ∧
    (State.setSpare s c f).ofdm = s.ofdm ∧ (State.setSpare s c f).audio = s.audio ∧ (State.setSpare s c f).ports = s.ports ∧ (State.setSpare s c f).link = s.link ∧
    (State.setSpare s c f).cfg = s.cfg ∧ (State.setSpare s c f).cal = s.cal ∧ (State.setSpare s c f).mon = s.mon ∧ (State.setSpare s c f).integ = s.integ ∧
    (State.setSpare s c f).mode = s.mode ∧ (State.setSpare s c f).domains = s.domains ∧ (State.setSpare s c f).mb = s.mb ∧ (State.setSpare s c f).sec = s.sec ∧
    (State.setSpare s c f).nv = s.nv ∧ (State.setSpare s c f).freeCount = s.freeCount ∧ (State.setSpare s c f).pending = s.pending :=
  by and_intros <;> rfl

@[simp] theorem State.setWatch_keeps (s : State) (w : Nat) (f : WatchSt → WatchSt) :
    (State.setWatch s w f).part = s.part ∧ (State.setWatch s w f).pins = s.pins ∧ (State.setWatch s w f).time = s.time ∧ (State.setWatch s w f).ref = s.ref ∧
    (State.setWatch s w f).clk = s.clk ∧ (State.setWatch s w f).spans = s.spans ∧ (State.setWatch s w f).front = s.front ∧ (State.setWatch s w f).taps = s.taps ∧
    (State.setWatch s w f).ofdm = s.ofdm ∧ (State.setWatch s w f).audio = s.audio ∧ (State.setWatch s w f).ports = s.ports ∧ (State.setWatch s w f).link = s.link ∧
    (State.setWatch s w f).cfg = s.cfg ∧ (State.setWatch s w f).cal = s.cal ∧ (State.setWatch s w f).mon = s.mon ∧ (State.setWatch s w f).integ = s.integ ∧
    (State.setWatch s w f).mode = s.mode ∧ (State.setWatch s w f).domains = s.domains ∧ (State.setWatch s w f).mb = s.mb ∧ (State.setWatch s w f).sec = s.sec ∧
    (State.setWatch s w f).nv = s.nv ∧ (State.setWatch s w f).freeCount = s.freeCount ∧ (State.setWatch s w f).pending = s.pending :=
  by and_intros <;> rfl

@[simp] theorem State.setDieInteg_keeps (s : State) (d : Nat) (f : DieInteg → DieInteg) :
    (State.setDieInteg s d f).part = s.part ∧ (State.setDieInteg s d f).pins = s.pins ∧ (State.setDieInteg s d f).time = s.time ∧ (State.setDieInteg s d f).ref = s.ref ∧
    (State.setDieInteg s d f).clk = s.clk ∧ (State.setDieInteg s d f).spans = s.spans ∧ (State.setDieInteg s d f).front = s.front ∧ (State.setDieInteg s d f).taps = s.taps ∧
    (State.setDieInteg s d f).lanes = s.lanes ∧ (State.setDieInteg s d f).ofdm = s.ofdm ∧ (State.setDieInteg s d f).audio = s.audio ∧ (State.setDieInteg s d f).ports = s.ports ∧
    (State.setDieInteg s d f).link = s.link ∧ (State.setDieInteg s d f).cfg = s.cfg ∧ (State.setDieInteg s d f).cal = s.cal ∧ (State.setDieInteg s d f).mon = s.mon ∧
    (State.setDieInteg s d f).mode = s.mode ∧ (State.setDieInteg s d f).domains = s.domains ∧ (State.setDieInteg s d f).mb = s.mb ∧ (State.setDieInteg s d f).sec = s.sec ∧
    (State.setDieInteg s d f).nv = s.nv ∧ (State.setDieInteg s d f).freeCount = s.freeCount ∧ (State.setDieInteg s d f).pending = s.pending :=
  by and_intros <;> rfl

@[simp] theorem State.setEngine_keeps (s : State) (e : Nat) (f : EngineSt → EngineSt) :
    (State.setEngine s e f).part = s.part ∧ (State.setEngine s e f).pins = s.pins ∧ (State.setEngine s e f).time = s.time ∧ (State.setEngine s e f).ref = s.ref ∧
    (State.setEngine s e f).clk = s.clk ∧ (State.setEngine s e f).spans = s.spans ∧ (State.setEngine s e f).front = s.front ∧ (State.setEngine s e f).taps = s.taps ∧
    (State.setEngine s e f).lanes = s.lanes ∧ (State.setEngine s e f).audio = s.audio ∧ (State.setEngine s e f).ports = s.ports ∧ (State.setEngine s e f).link = s.link ∧
    (State.setEngine s e f).cfg = s.cfg ∧ (State.setEngine s e f).cal = s.cal ∧ (State.setEngine s e f).mon = s.mon ∧ (State.setEngine s e f).integ = s.integ ∧
    (State.setEngine s e f).mode = s.mode ∧ (State.setEngine s e f).domains = s.domains ∧ (State.setEngine s e f).mb = s.mb ∧ (State.setEngine s e f).sec = s.sec ∧
    (State.setEngine s e f).nv = s.nv ∧ (State.setEngine s e f).freeCount = s.freeCount ∧ (State.setEngine s e f).pending = s.pending :=
  by and_intros <;> rfl

@[simp] theorem State.setSignal_keeps (s : State) (e p : Nat) (f : SignalSt → SignalSt) :
    (State.setSignal s e p f).part = s.part ∧ (State.setSignal s e p f).pins = s.pins ∧ (State.setSignal s e p f).time = s.time ∧ (State.setSignal s e p f).ref = s.ref ∧
    (State.setSignal s e p f).clk = s.clk ∧ (State.setSignal s e p f).spans = s.spans ∧ (State.setSignal s e p f).front = s.front ∧ (State.setSignal s e p f).taps = s.taps ∧
    (State.setSignal s e p f).lanes = s.lanes ∧ (State.setSignal s e p f).audio = s.audio ∧ (State.setSignal s e p f).ports = s.ports ∧ (State.setSignal s e p f).link = s.link ∧
    (State.setSignal s e p f).cfg = s.cfg ∧ (State.setSignal s e p f).cal = s.cal ∧ (State.setSignal s e p f).mon = s.mon ∧ (State.setSignal s e p f).integ = s.integ ∧
    (State.setSignal s e p f).mode = s.mode ∧ (State.setSignal s e p f).domains = s.domains ∧ (State.setSignal s e p f).mb = s.mb ∧ (State.setSignal s e p f).sec = s.sec ∧
    (State.setSignal s e p f).nv = s.nv ∧ (State.setSignal s e p f).freeCount = s.freeCount ∧ (State.setSignal s e p f).pending = s.pending :=
  by and_intros <;> rfl

@[simp] theorem State.setRegion_keeps (s : State) (g : Nat) (f : RegionSt → RegionSt) :
    (State.setRegion s g f).part = s.part ∧ (State.setRegion s g f).pins = s.pins ∧ (State.setRegion s g f).time = s.time ∧ (State.setRegion s g f).ref = s.ref ∧
    (State.setRegion s g f).clk = s.clk ∧ (State.setRegion s g f).spans = s.spans ∧ (State.setRegion s g f).front = s.front ∧ (State.setRegion s g f).taps = s.taps ∧
    (State.setRegion s g f).lanes = s.lanes ∧ (State.setRegion s g f).audio = s.audio ∧ (State.setRegion s g f).ports = s.ports ∧ (State.setRegion s g f).link = s.link ∧
    (State.setRegion s g f).cfg = s.cfg ∧ (State.setRegion s g f).cal = s.cal ∧ (State.setRegion s g f).mon = s.mon ∧ (State.setRegion s g f).integ = s.integ ∧
    (State.setRegion s g f).mode = s.mode ∧ (State.setRegion s g f).domains = s.domains ∧ (State.setRegion s g f).mb = s.mb ∧ (State.setRegion s g f).sec = s.sec ∧
    (State.setRegion s g f).nv = s.nv ∧ (State.setRegion s g f).freeCount = s.freeCount ∧ (State.setRegion s g f).pending = s.pending :=
  by and_intros <;> rfl

@[simp] theorem State.setPhys_keeps (s : State) (d p : Nat) (f : PhysEngine → PhysEngine) :
    (State.setPhys s d p f).part = s.part ∧ (State.setPhys s d p f).pins = s.pins ∧ (State.setPhys s d p f).time = s.time ∧ (State.setPhys s d p f).ref = s.ref ∧
    (State.setPhys s d p f).clk = s.clk ∧ (State.setPhys s d p f).spans = s.spans ∧ (State.setPhys s d p f).front = s.front ∧ (State.setPhys s d p f).taps = s.taps ∧
    (State.setPhys s d p f).lanes = s.lanes ∧ (State.setPhys s d p f).audio = s.audio ∧ (State.setPhys s d p f).ports = s.ports ∧ (State.setPhys s d p f).link = s.link ∧
    (State.setPhys s d p f).cfg = s.cfg ∧ (State.setPhys s d p f).cal = s.cal ∧ (State.setPhys s d p f).mon = s.mon ∧ (State.setPhys s d p f).integ = s.integ ∧
    (State.setPhys s d p f).mode = s.mode ∧ (State.setPhys s d p f).domains = s.domains ∧ (State.setPhys s d p f).mb = s.mb ∧ (State.setPhys s d p f).sec = s.sec ∧
    (State.setPhys s d p f).nv = s.nv ∧ (State.setPhys s d p f).freeCount = s.freeCount ∧ (State.setPhys s d p f).pending = s.pending :=
  by and_intros <;> rfl

@[simp] theorem State.setFollow_keeps (s : State) (f : Nat) (g : FollowSt → FollowSt) :
    (State.setFollow s f g).part = s.part ∧ (State.setFollow s f g).pins = s.pins ∧ (State.setFollow s f g).time = s.time ∧ (State.setFollow s f g).ref = s.ref ∧
    (State.setFollow s f g).clk = s.clk ∧ (State.setFollow s f g).spans = s.spans ∧ (State.setFollow s f g).front = s.front ∧ (State.setFollow s f g).taps = s.taps ∧
    (State.setFollow s f g).lanes = s.lanes ∧ (State.setFollow s f g).ofdm = s.ofdm ∧ (State.setFollow s f g).ports = s.ports ∧ (State.setFollow s f g).link = s.link ∧
    (State.setFollow s f g).cfg = s.cfg ∧ (State.setFollow s f g).cal = s.cal ∧ (State.setFollow s f g).mon = s.mon ∧ (State.setFollow s f g).integ = s.integ ∧
    (State.setFollow s f g).mode = s.mode ∧ (State.setFollow s f g).domains = s.domains ∧ (State.setFollow s f g).mb = s.mb ∧ (State.setFollow s f g).sec = s.sec ∧
    (State.setFollow s f g).nv = s.nv ∧ (State.setFollow s f g).freeCount = s.freeCount ∧ (State.setFollow s f g).pending = s.pending :=
  by and_intros <;> rfl

@[simp] theorem State.setSlot_keeps (s : State) (x : Nat) (g : SlotSt → SlotSt) :
    (State.setSlot s x g).part = s.part ∧ (State.setSlot s x g).pins = s.pins ∧ (State.setSlot s x g).time = s.time ∧ (State.setSlot s x g).ref = s.ref ∧
    (State.setSlot s x g).clk = s.clk ∧ (State.setSlot s x g).spans = s.spans ∧ (State.setSlot s x g).front = s.front ∧ (State.setSlot s x g).taps = s.taps ∧
    (State.setSlot s x g).lanes = s.lanes ∧ (State.setSlot s x g).ofdm = s.ofdm ∧ (State.setSlot s x g).ports = s.ports ∧ (State.setSlot s x g).link = s.link ∧
    (State.setSlot s x g).cfg = s.cfg ∧ (State.setSlot s x g).cal = s.cal ∧ (State.setSlot s x g).mon = s.mon ∧ (State.setSlot s x g).integ = s.integ ∧
    (State.setSlot s x g).mode = s.mode ∧ (State.setSlot s x g).domains = s.domains ∧ (State.setSlot s x g).mb = s.mb ∧ (State.setSlot s x g).sec = s.sec ∧
    (State.setSlot s x g).nv = s.nv ∧ (State.setSlot s x g).freeCount = s.freeCount ∧ (State.setSlot s x g).pending = s.pending :=
  by and_intros <;> rfl

@[simp] theorem State.setContext_keeps (s : State) (k : Nat) (g : ContextSt → ContextSt) :
    (State.setContext s k g).part = s.part ∧ (State.setContext s k g).pins = s.pins ∧ (State.setContext s k g).time = s.time ∧ (State.setContext s k g).ref = s.ref ∧
    (State.setContext s k g).clk = s.clk ∧ (State.setContext s k g).spans = s.spans ∧ (State.setContext s k g).front = s.front ∧ (State.setContext s k g).taps = s.taps ∧
    (State.setContext s k g).lanes = s.lanes ∧ (State.setContext s k g).ofdm = s.ofdm ∧ (State.setContext s k g).ports = s.ports ∧ (State.setContext s k g).link = s.link ∧
    (State.setContext s k g).cfg = s.cfg ∧ (State.setContext s k g).cal = s.cal ∧ (State.setContext s k g).mon = s.mon ∧ (State.setContext s k g).integ = s.integ ∧
    (State.setContext s k g).mode = s.mode ∧ (State.setContext s k g).domains = s.domains ∧ (State.setContext s k g).mb = s.mb ∧ (State.setContext s k g).sec = s.sec ∧
    (State.setContext s k g).nv = s.nv ∧ (State.setContext s k g).freeCount = s.freeCount ∧ (State.setContext s k g).pending = s.pending :=
  by and_intros <;> rfl

@[simp] theorem State.setMon_keeps (s : State) (d : Nat) (f : MonSt → MonSt) :
    (State.setMon s d f).part = s.part ∧ (State.setMon s d f).pins = s.pins ∧ (State.setMon s d f).time = s.time ∧ (State.setMon s d f).ref = s.ref ∧
    (State.setMon s d f).clk = s.clk ∧ (State.setMon s d f).spans = s.spans ∧ (State.setMon s d f).front = s.front ∧ (State.setMon s d f).taps = s.taps ∧
    (State.setMon s d f).lanes = s.lanes ∧ (State.setMon s d f).ofdm = s.ofdm ∧ (State.setMon s d f).audio = s.audio ∧ (State.setMon s d f).ports = s.ports ∧
    (State.setMon s d f).link = s.link ∧ (State.setMon s d f).cfg = s.cfg ∧ (State.setMon s d f).cal = s.cal ∧ (State.setMon s d f).integ = s.integ ∧
    (State.setMon s d f).mode = s.mode ∧ (State.setMon s d f).domains = s.domains ∧ (State.setMon s d f).mb = s.mb ∧ (State.setMon s d f).sec = s.sec ∧
    (State.setMon s d f).nv = s.nv ∧ (State.setMon s d f).freeCount = s.freeCount ∧ (State.setMon s d f).pending = s.pending :=
  by and_intros <;> rfl

@[simp] theorem State.setMb_keeps (s : State) (f : MbSt → MbSt) :
    (State.setMb s f).part = s.part ∧ (State.setMb s f).pins = s.pins ∧ (State.setMb s f).time = s.time ∧ (State.setMb s f).ref = s.ref ∧
    (State.setMb s f).clk = s.clk ∧ (State.setMb s f).spans = s.spans ∧ (State.setMb s f).front = s.front ∧ (State.setMb s f).taps = s.taps ∧
    (State.setMb s f).lanes = s.lanes ∧ (State.setMb s f).ofdm = s.ofdm ∧ (State.setMb s f).audio = s.audio ∧ (State.setMb s f).ports = s.ports ∧
    (State.setMb s f).link = s.link ∧ (State.setMb s f).cfg = s.cfg ∧ (State.setMb s f).cal = s.cal ∧ (State.setMb s f).mon = s.mon ∧
    (State.setMb s f).integ = s.integ ∧ (State.setMb s f).mode = s.mode ∧ (State.setMb s f).domains = s.domains ∧ (State.setMb s f).sec = s.sec ∧
    (State.setMb s f).nv = s.nv ∧ (State.setMb s f).freeCount = s.freeCount ∧ (State.setMb s f).pending = s.pending :=
  by and_intros <;> rfl

@[simp] theorem send_keeps (x : Sent) (s : State) :
    (send x s).part = s.part ∧ (send x s).pins = s.pins ∧ (send x s).time = s.time ∧ (send x s).ref = s.ref ∧
    (send x s).clk = s.clk ∧ (send x s).spans = s.spans ∧ (send x s).front = s.front ∧ (send x s).taps = s.taps ∧
    (send x s).lanes = s.lanes ∧ (send x s).ofdm = s.ofdm ∧ (send x s).audio = s.audio ∧ (send x s).ports = s.ports ∧
    (send x s).cfg = s.cfg ∧ (send x s).cal = s.cal ∧ (send x s).mon = s.mon ∧ (send x s).integ = s.integ ∧
    (send x s).mode = s.mode ∧ (send x s).domains = s.domains ∧ (send x s).mb = s.mb ∧ (send x s).sec = s.sec ∧
    (send x s).nv = s.nv ∧ (send x s).freeCount = s.freeCount ∧ (send x s).pending = s.pending :=
  by and_intros <;> rfl

@[simp] theorem State.setHall_keeps (s : State) (f : HallSt → HallSt) :
    (State.setHall s f).part = s.part ∧ (State.setHall s f).pins = s.pins ∧ (State.setHall s f).time = s.time ∧ (State.setHall s f).ref = s.ref ∧
    (State.setHall s f).clk = s.clk ∧ (State.setHall s f).spans = s.spans ∧ (State.setHall s f).front = s.front ∧ (State.setHall s f).taps = s.taps ∧
    (State.setHall s f).lanes = s.lanes ∧ (State.setHall s f).ofdm = s.ofdm ∧ (State.setHall s f).audio = s.audio ∧ (State.setHall s f).ports = s.ports ∧
    (State.setHall s f).link = s.link ∧ (State.setHall s f).cfg = s.cfg ∧ (State.setHall s f).cal = s.cal ∧ (State.setHall s f).mon = s.mon ∧
    (State.setHall s f).integ = s.integ ∧ (State.setHall s f).mode = s.mode ∧ (State.setHall s f).domains = s.domains ∧ (State.setHall s f).mb = s.mb ∧
    (State.setHall s f).nv = s.nv ∧ (State.setHall s f).freeCount = s.freeCount ∧ (State.setHall s f).pending = s.pending :=
  by and_intros <;> rfl

@[simp] theorem closeSuspect_keeps (sc : SuspectScope) (s : State) :
    (closeSuspect sc s).part = s.part ∧ (closeSuspect sc s).pins = s.pins ∧ (closeSuspect sc s).time = s.time ∧ (closeSuspect sc s).ref = s.ref ∧
    (closeSuspect sc s).clk = s.clk ∧ (closeSuspect sc s).front = s.front ∧ (closeSuspect sc s).taps = s.taps ∧ (closeSuspect sc s).lanes = s.lanes ∧
    (closeSuspect sc s).ofdm = s.ofdm ∧ (closeSuspect sc s).audio = s.audio ∧ (closeSuspect sc s).ports = s.ports ∧ (closeSuspect sc s).link = s.link ∧
    (closeSuspect sc s).cfg = s.cfg ∧ (closeSuspect sc s).cal = s.cal ∧ (closeSuspect sc s).mon = s.mon ∧ (closeSuspect sc s).integ = s.integ ∧
    (closeSuspect sc s).mode = s.mode ∧ (closeSuspect sc s).domains = s.domains ∧ (closeSuspect sc s).mb = s.mb ∧ (closeSuspect sc s).sec = s.sec ∧
    (closeSuspect sc s).nv = s.nv ∧ (closeSuspect sc s).freeCount = s.freeCount ∧ (closeSuspect sc s).pending = s.pending :=
  by and_intros <;> rfl

@[simp] theorem addOcc_keeps (cls : Nat) (u : UnitRef) (s : State) :
    (addOcc cls u s).part = s.part ∧ (addOcc cls u s).pins = s.pins ∧ (addOcc cls u s).time = s.time ∧ (addOcc cls u s).ref = s.ref ∧
    (addOcc cls u s).clk = s.clk ∧ (addOcc cls u s).spans = s.spans ∧ (addOcc cls u s).front = s.front ∧ (addOcc cls u s).taps = s.taps ∧
    (addOcc cls u s).lanes = s.lanes ∧ (addOcc cls u s).ofdm = s.ofdm ∧ (addOcc cls u s).audio = s.audio ∧ (addOcc cls u s).ports = s.ports ∧
    (addOcc cls u s).link = s.link ∧ (addOcc cls u s).cfg = s.cfg ∧ (addOcc cls u s).cal = s.cal ∧ (addOcc cls u s).mon = s.mon ∧
    (addOcc cls u s).mode = s.mode ∧ (addOcc cls u s).domains = s.domains ∧ (addOcc cls u s).mb = s.mb ∧ (addOcc cls u s).sec = s.sec ∧
    (addOcc cls u s).nv = s.nv ∧ (addOcc cls u s).freeCount = s.freeCount ∧ (addOcc cls u s).pending = s.pending :=
  by and_intros <;> rfl

@[simp] theorem unretireUnit_keeps (u : UnitRef) (s : State) :
    (unretireUnit u s).part = s.part ∧ (unretireUnit u s).pins = s.pins ∧ (unretireUnit u s).time = s.time ∧ (unretireUnit u s).ref = s.ref ∧
    (unretireUnit u s).clk = s.clk ∧ (unretireUnit u s).spans = s.spans ∧ (unretireUnit u s).front = s.front ∧ (unretireUnit u s).taps = s.taps ∧
    (unretireUnit u s).lanes = s.lanes ∧ (unretireUnit u s).ofdm = s.ofdm ∧ (unretireUnit u s).audio = s.audio ∧ (unretireUnit u s).ports = s.ports ∧
    (unretireUnit u s).link = s.link ∧ (unretireUnit u s).cfg = s.cfg ∧ (unretireUnit u s).cal = s.cal ∧ (unretireUnit u s).mon = s.mon ∧
    (unretireUnit u s).integ = s.integ ∧ (unretireUnit u s).mode = s.mode ∧ (unretireUnit u s).domains = s.domains ∧ (unretireUnit u s).mb = s.mb ∧
    (unretireUnit u s).sec = s.sec ∧ (unretireUnit u s).freeCount = s.freeCount ∧ (unretireUnit u s).pending = s.pending :=
  by and_intros <;> rfl

@[simp] theorem eraseOccs_keeps (u : UnitRef) (s : State) :
    (eraseOccs u s).part = s.part ∧ (eraseOccs u s).pins = s.pins ∧ (eraseOccs u s).time = s.time ∧ (eraseOccs u s).ref = s.ref ∧
    (eraseOccs u s).clk = s.clk ∧ (eraseOccs u s).spans = s.spans ∧ (eraseOccs u s).front = s.front ∧ (eraseOccs u s).taps = s.taps ∧
    (eraseOccs u s).lanes = s.lanes ∧ (eraseOccs u s).ofdm = s.ofdm ∧ (eraseOccs u s).audio = s.audio ∧ (eraseOccs u s).ports = s.ports ∧
    (eraseOccs u s).link = s.link ∧ (eraseOccs u s).cfg = s.cfg ∧ (eraseOccs u s).cal = s.cal ∧ (eraseOccs u s).mon = s.mon ∧
    (eraseOccs u s).mode = s.mode ∧ (eraseOccs u s).domains = s.domains ∧ (eraseOccs u s).mb = s.mb ∧ (eraseOccs u s).sec = s.sec ∧
    (eraseOccs u s).nv = s.nv ∧ (eraseOccs u s).freeCount = s.freeCount ∧ (eraseOccs u s).pending = s.pending :=
  by and_intros <;> rfl

@[simp] theorem discardBlock_keeps (r : Nat) (s : State) :
    (discardBlock r s).part = s.part ∧ (discardBlock r s).pins = s.pins ∧ (discardBlock r s).time = s.time ∧ (discardBlock r s).ref = s.ref ∧
    (discardBlock r s).clk = s.clk ∧ (discardBlock r s).spans = s.spans ∧ (discardBlock r s).front = s.front ∧ (discardBlock r s).taps = s.taps ∧
    (discardBlock r s).lanes = s.lanes ∧ (discardBlock r s).ofdm = s.ofdm ∧ (discardBlock r s).audio = s.audio ∧ (discardBlock r s).ports = s.ports ∧
    (discardBlock r s).cfg = s.cfg ∧ (discardBlock r s).cal = s.cal ∧ (discardBlock r s).mon = s.mon ∧ (discardBlock r s).integ = s.integ ∧
    (discardBlock r s).mode = s.mode ∧ (discardBlock r s).domains = s.domains ∧ (discardBlock r s).mb = s.mb ∧ (discardBlock r s).sec = s.sec ∧
    (discardBlock r s).nv = s.nv ∧ (discardBlock r s).freeCount = s.freeCount ∧ (discardBlock r s).pending = s.pending :=
  by and_intros <;> rfl

@[simp] theorem taskNormal_keeps (t : Task) (s : State) :
    (taskNormal t s).part = s.part ∧ (taskNormal t s).pins = s.pins ∧ (taskNormal t s).time = s.time ∧ (taskNormal t s).ref = s.ref ∧
    (taskNormal t s).clk = s.clk ∧ (taskNormal t s).spans = s.spans ∧ (taskNormal t s).front = s.front ∧ (taskNormal t s).taps = s.taps ∧
    (taskNormal t s).lanes = s.lanes ∧ (taskNormal t s).ofdm = s.ofdm ∧ (taskNormal t s).audio = s.audio ∧ (taskNormal t s).ports = s.ports ∧
    (taskNormal t s).link = s.link ∧ (taskNormal t s).cfg = s.cfg ∧ (taskNormal t s).cal = s.cal ∧ (taskNormal t s).mon = s.mon ∧
    (taskNormal t s).mode = s.mode ∧ (taskNormal t s).domains = s.domains ∧ (taskNormal t s).mb = s.mb ∧ (taskNormal t s).sec = s.sec ∧
    (taskNormal t s).nv = s.nv ∧ (taskNormal t s).freeCount = s.freeCount ∧ (taskNormal t s).pending = s.pending :=
  by and_intros <;> rfl

@[simp] theorem State.setPort_keeps (s : State) (p : PortId) (f : PortSt → PortSt) :
    (State.setPort s p f).part = s.part ∧ (State.setPort s p f).pins = s.pins ∧ (State.setPort s p f).time = s.time ∧ (State.setPort s p f).ref = s.ref ∧
    (State.setPort s p f).clk = s.clk ∧ (State.setPort s p f).spans = s.spans ∧ (State.setPort s p f).front = s.front ∧ (State.setPort s p f).taps = s.taps ∧
    (State.setPort s p f).lanes = s.lanes ∧ (State.setPort s p f).ofdm = s.ofdm ∧ (State.setPort s p f).audio = s.audio ∧ (State.setPort s p f).link = s.link ∧
    (State.setPort s p f).cfg = s.cfg ∧ (State.setPort s p f).cal = s.cal ∧ (State.setPort s p f).mon = s.mon ∧ (State.setPort s p f).integ = s.integ ∧
    (State.setPort s p f).mode = s.mode ∧ (State.setPort s p f).domains = s.domains ∧ (State.setPort s p f).mb = s.mb ∧ (State.setPort s p f).sec = s.sec ∧
    (State.setPort s p f).nv = s.nv ∧ (State.setPort s p f).freeCount = s.freeCount ∧ (State.setPort s p f).pending = s.pending :=
  by and_intros <;> rfl

@[simp] theorem State.setAmclk_keeps (s : State) (d : Nat) (f : AmclkSt → AmclkSt) :
    (State.setAmclk s d f).part = s.part ∧ (State.setAmclk s d f).pins = s.pins ∧ (State.setAmclk s d f).time = s.time ∧ (State.setAmclk s d f).ref = s.ref ∧
    (State.setAmclk s d f).clk = s.clk ∧ (State.setAmclk s d f).spans = s.spans ∧ (State.setAmclk s d f).front = s.front ∧ (State.setAmclk s d f).taps = s.taps ∧
    (State.setAmclk s d f).lanes = s.lanes ∧ (State.setAmclk s d f).ofdm = s.ofdm ∧ (State.setAmclk s d f).audio = s.audio ∧ (State.setAmclk s d f).link = s.link ∧
    (State.setAmclk s d f).cfg = s.cfg ∧ (State.setAmclk s d f).cal = s.cal ∧ (State.setAmclk s d f).mon = s.mon ∧ (State.setAmclk s d f).integ = s.integ ∧
    (State.setAmclk s d f).mode = s.mode ∧ (State.setAmclk s d f).domains = s.domains ∧ (State.setAmclk s d f).mb = s.mb ∧ (State.setAmclk s d f).sec = s.sec ∧
    (State.setAmclk s d f).nv = s.nv ∧ (State.setAmclk s d f).freeCount = s.freeCount ∧ (State.setAmclk s d f).pending = s.pending :=
  by and_intros <;> rfl

@[simp] theorem setInject_keeps (n v : Nat) (s : State) :
    (setInject n v s).part = s.part ∧ (setInject n v s).pins = s.pins ∧ (setInject n v s).time = s.time ∧ (setInject n v s).ref = s.ref ∧
    (setInject n v s).clk = s.clk ∧ (setInject n v s).spans = s.spans ∧ (setInject n v s).taps = s.taps ∧ (setInject n v s).lanes = s.lanes ∧
    (setInject n v s).ofdm = s.ofdm ∧ (setInject n v s).audio = s.audio ∧ (setInject n v s).ports = s.ports ∧ (setInject n v s).link = s.link ∧
    (setInject n v s).cfg = s.cfg ∧ (setInject n v s).cal = s.cal ∧ (setInject n v s).mon = s.mon ∧ (setInject n v s).integ = s.integ ∧
    (setInject n v s).mode = s.mode ∧ (setInject n v s).domains = s.domains ∧ (setInject n v s).mb = s.mb ∧ (setInject n v s).sec = s.sec ∧
    (setInject n v s).nv = s.nv ∧ (setInject n v s).freeCount = s.freeCount ∧ (setInject n v s).pending = s.pending :=
  by and_intros <;> rfl

@[simp] theorem advanceFree_keeps (s : State) :
    (advanceFree s).part = s.part ∧ (advanceFree s).pins = s.pins ∧ (advanceFree s).time = s.time ∧ (advanceFree s).ref = s.ref ∧
    (advanceFree s).clk = s.clk ∧ (advanceFree s).spans = s.spans ∧ (advanceFree s).front = s.front ∧ (advanceFree s).taps = s.taps ∧
    (advanceFree s).lanes = s.lanes ∧ (advanceFree s).ofdm = s.ofdm ∧ (advanceFree s).audio = s.audio ∧ (advanceFree s).ports = s.ports ∧
    (advanceFree s).link = s.link ∧ (advanceFree s).cfg = s.cfg ∧ (advanceFree s).cal = s.cal ∧ (advanceFree s).mon = s.mon ∧
    (advanceFree s).integ = s.integ ∧ (advanceFree s).mode = s.mode ∧ (advanceFree s).domains = s.domains ∧ (advanceFree s).mb = s.mb ∧
    (advanceFree s).sec = s.sec ∧ (advanceFree s).nv = s.nv ∧ (advanceFree s).pending = s.pending :=
  by and_intros <;> rfl

@[simp] theorem State.setBandTap_keeps (s : State) (c : Nat) (f : BandTap → BandTap) :
    (State.setBandTap s c f).part = s.part ∧ (State.setBandTap s c f).pins = s.pins ∧ (State.setBandTap s c f).time = s.time ∧ (State.setBandTap s c f).ref = s.ref ∧
    (State.setBandTap s c f).clk = s.clk ∧ (State.setBandTap s c f).spans = s.spans ∧ (State.setBandTap s c f).front = s.front ∧ (State.setBandTap s c f).lanes = s.lanes ∧
    (State.setBandTap s c f).ofdm = s.ofdm ∧ (State.setBandTap s c f).audio = s.audio ∧ (State.setBandTap s c f).ports = s.ports ∧ (State.setBandTap s c f).link = s.link ∧
    (State.setBandTap s c f).cfg = s.cfg ∧ (State.setBandTap s c f).cal = s.cal ∧ (State.setBandTap s c f).mon = s.mon ∧ (State.setBandTap s c f).integ = s.integ ∧
    (State.setBandTap s c f).mode = s.mode ∧ (State.setBandTap s c f).domains = s.domains ∧ (State.setBandTap s c f).mb = s.mb ∧ (State.setBandTap s c f).sec = s.sec ∧
    (State.setBandTap s c f).nv = s.nv ∧ (State.setBandTap s c f).freeCount = s.freeCount ∧ (State.setBandTap s c f).pending = s.pending :=
  by and_intros <;> rfl

@[simp] theorem State.setAudit_keeps (s : State) (d : Nat) (f : AuditTap → AuditTap) :
    (State.setAudit s d f).part = s.part ∧ (State.setAudit s d f).pins = s.pins ∧ (State.setAudit s d f).time = s.time ∧ (State.setAudit s d f).ref = s.ref ∧
    (State.setAudit s d f).clk = s.clk ∧ (State.setAudit s d f).spans = s.spans ∧ (State.setAudit s d f).front = s.front ∧ (State.setAudit s d f).lanes = s.lanes ∧
    (State.setAudit s d f).ofdm = s.ofdm ∧ (State.setAudit s d f).audio = s.audio ∧ (State.setAudit s d f).ports = s.ports ∧ (State.setAudit s d f).link = s.link ∧
    (State.setAudit s d f).cfg = s.cfg ∧ (State.setAudit s d f).cal = s.cal ∧ (State.setAudit s d f).mon = s.mon ∧ (State.setAudit s d f).integ = s.integ ∧
    (State.setAudit s d f).mode = s.mode ∧ (State.setAudit s d f).domains = s.domains ∧ (State.setAudit s d f).mb = s.mb ∧ (State.setAudit s d f).sec = s.sec ∧
    (State.setAudit s d f).nv = s.nv ∧ (State.setAudit s d f).freeCount = s.freeCount ∧ (State.setAudit s d f).pending = s.pending :=
  by and_intros <;> rfl

@[simp] theorem State.setExport_keeps (s : State) (i : Nat) (f : ExportTap → ExportTap) :
    (State.setExport s i f).part = s.part ∧ (State.setExport s i f).pins = s.pins ∧ (State.setExport s i f).time = s.time ∧ (State.setExport s i f).ref = s.ref ∧
    (State.setExport s i f).clk = s.clk ∧ (State.setExport s i f).spans = s.spans ∧ (State.setExport s i f).front = s.front ∧ (State.setExport s i f).lanes = s.lanes ∧
    (State.setExport s i f).ofdm = s.ofdm ∧ (State.setExport s i f).audio = s.audio ∧ (State.setExport s i f).ports = s.ports ∧ (State.setExport s i f).link = s.link ∧
    (State.setExport s i f).cfg = s.cfg ∧ (State.setExport s i f).cal = s.cal ∧ (State.setExport s i f).mon = s.mon ∧ (State.setExport s i f).integ = s.integ ∧
    (State.setExport s i f).mode = s.mode ∧ (State.setExport s i f).domains = s.domains ∧ (State.setExport s i f).mb = s.mb ∧ (State.setExport s i f).sec = s.sec ∧
    (State.setExport s i f).nv = s.nv ∧ (State.setExport s i f).freeCount = s.freeCount ∧ (State.setExport s i f).pending = s.pending :=
  by and_intros <;> rfl

@[simp] theorem hostAccess_keeps (s : State) :
    (hostAccess s).part = s.part ∧ (hostAccess s).pins = s.pins ∧ (hostAccess s).time = s.time ∧ (hostAccess s).ref = s.ref ∧
    (hostAccess s).clk = s.clk ∧ (hostAccess s).spans = s.spans ∧ (hostAccess s).front = s.front ∧ (hostAccess s).taps = s.taps ∧
    (hostAccess s).lanes = s.lanes ∧ (hostAccess s).ofdm = s.ofdm ∧ (hostAccess s).audio = s.audio ∧ (hostAccess s).ports = s.ports ∧
    (hostAccess s).link = s.link ∧ (hostAccess s).cfg = s.cfg ∧ (hostAccess s).cal = s.cal ∧ (hostAccess s).mon = s.mon ∧
    (hostAccess s).integ = s.integ ∧ (hostAccess s).domains = s.domains ∧ (hostAccess s).mb = s.mb ∧ (hostAccess s).sec = s.sec ∧
    (hostAccess s).nv = s.nv ∧ (hostAccess s).freeCount = s.freeCount ∧ (hostAccess s).pending = s.pending :=
  by and_intros <;> rfl

@[simp] theorem State.setLink_keeps (s : State) (d dir : Nat) (f : LinkDir → LinkDir) :
    (State.setLink s d dir f).part = s.part ∧ (State.setLink s d dir f).pins = s.pins ∧ (State.setLink s d dir f).time = s.time ∧ (State.setLink s d dir f).ref = s.ref ∧
    (State.setLink s d dir f).clk = s.clk ∧ (State.setLink s d dir f).spans = s.spans ∧ (State.setLink s d dir f).front = s.front ∧ (State.setLink s d dir f).taps = s.taps ∧
    (State.setLink s d dir f).lanes = s.lanes ∧ (State.setLink s d dir f).ofdm = s.ofdm ∧ (State.setLink s d dir f).audio = s.audio ∧ (State.setLink s d dir f).ports = s.ports ∧
    (State.setLink s d dir f).link = s.link ∧ (State.setLink s d dir f).cfg = s.cfg ∧ (State.setLink s d dir f).cal = s.cal ∧ (State.setLink s d dir f).mon = s.mon ∧
    (State.setLink s d dir f).mode = s.mode ∧ (State.setLink s d dir f).domains = s.domains ∧ (State.setLink s d dir f).mb = s.mb ∧ (State.setLink s d dir f).sec = s.sec ∧
    (State.setLink s d dir f).nv = s.nv ∧ (State.setLink s d dir f).freeCount = s.freeCount ∧ (State.setLink s d dir f).pending = s.pending :=
  by and_intros <;> rfl

@[simp] theorem State.stage_keeps (s : State) (f : ConfigSet → ConfigSet) :
    (State.stage s f).part = s.part ∧ (State.stage s f).pins = s.pins ∧ (State.stage s f).time = s.time ∧ (State.stage s f).ref = s.ref ∧
    (State.stage s f).clk = s.clk ∧ (State.stage s f).spans = s.spans ∧ (State.stage s f).front = s.front ∧ (State.stage s f).taps = s.taps ∧
    (State.stage s f).lanes = s.lanes ∧ (State.stage s f).ofdm = s.ofdm ∧ (State.stage s f).audio = s.audio ∧ (State.stage s f).ports = s.ports ∧
    (State.stage s f).link = s.link ∧ (State.stage s f).cal = s.cal ∧ (State.stage s f).mon = s.mon ∧ (State.stage s f).integ = s.integ ∧
    (State.stage s f).mode = s.mode ∧ (State.stage s f).domains = s.domains ∧ (State.stage s f).mb = s.mb ∧ (State.stage s f).sec = s.sec ∧
    (State.stage s f).nv = s.nv ∧ (State.stage s f).freeCount = s.freeCount ∧ (State.stage s f).pending = s.pending :=
  by and_intros <;> rfl

@[simp] theorem State.setNvSec_keeps (s : State) (f : NvSec → NvSec) :
    (State.setNvSec s f).part = s.part ∧ (State.setNvSec s f).pins = s.pins ∧ (State.setNvSec s f).time = s.time ∧ (State.setNvSec s f).ref = s.ref ∧
    (State.setNvSec s f).clk = s.clk ∧ (State.setNvSec s f).spans = s.spans ∧ (State.setNvSec s f).front = s.front ∧ (State.setNvSec s f).taps = s.taps ∧
    (State.setNvSec s f).lanes = s.lanes ∧ (State.setNvSec s f).ofdm = s.ofdm ∧ (State.setNvSec s f).audio = s.audio ∧ (State.setNvSec s f).ports = s.ports ∧
    (State.setNvSec s f).link = s.link ∧ (State.setNvSec s f).cfg = s.cfg ∧ (State.setNvSec s f).cal = s.cal ∧ (State.setNvSec s f).mon = s.mon ∧
    (State.setNvSec s f).integ = s.integ ∧ (State.setNvSec s f).mode = s.mode ∧ (State.setNvSec s f).domains = s.domains ∧ (State.setNvSec s f).mb = s.mb ∧
    (State.setNvSec s f).sec = s.sec ∧ (State.setNvSec s f).freeCount = s.freeCount ∧ (State.setNvSec s f).pending = s.pending :=
  by and_intros <;> rfl

@[simp] theorem State.setConv_self (s : State) (k : Nat) (f : Converter → Converter) : (s.setConv k f).front.convs.get k = f (s.front.convs.get k) := Tbl.get_modify_self _ _ _

theorem State.setConv_of_ne (s : State) (k : Nat) (f : Converter → Converter) {i : Nat} (h : i ≠ k) : (s.setConv k f).front.convs.get i = s.front.convs.get i := Tbl.get_modify_of_ne _ h _

@[simp] theorem State.setConv_beside (s : State) (k : Nat) (f : Converter → Converter) : (s.setConv k f).front.courses = s.front.courses := rfl

@[simp] theorem State.setCourse_self (s : State) (j : Nat) (f : Course → Course) : (s.setCourse j f).front.courses.get j = f (s.front.courses.get j) := Tbl.get_modify_self _ _ _

theorem State.setCourse_of_ne (s : State) (j : Nat) (f : Course → Course) {i : Nat} (h : i ≠ j) : (s.setCourse j f).front.courses.get i = s.front.courses.get i := Tbl.get_modify_of_ne _ h _

@[simp] theorem State.setCourse_beside (s : State) (j : Nat) (f : Course → Course) : (s.setCourse j f).front.convs = s.front.convs := rfl

@[simp] theorem State.setClk_self (s : State) (d : Nat) (f : DieClk → DieClk) : (s.setClk d f).clk.get d = f (s.clk.get d) := Tbl.get_modify_self _ _ _

theorem State.setClk_of_ne (s : State) (d : Nat) (f : DieClk → DieClk) {i : Nat} (h : i ≠ d) : (s.setClk d f).clk.get i = s.clk.get i := Tbl.get_modify_of_ne _ h _

@[simp] theorem State.setRing_self (s : State) (r : Nat) (f : Ring → Ring) : (s.setRing r f).link.rings.get r = f (s.link.rings.get r) := Tbl.get_modify_self _ _ _

theorem State.setRing_of_ne (s : State) (r : Nat) (f : Ring → Ring) {i : Nat} (h : i ≠ r) : (s.setRing r f).link.rings.get i = s.link.rings.get i := Tbl.get_modify_of_ne _ h _

@[simp] theorem State.setRing_beside (s : State) (r : Nat) (f : Ring → Ring) :
    (s.setRing r f).link.captures = s.link.captures ∧ (s.setRing r f).link.pcie = s.link.pcie ∧ (s.setRing r f).link.eventSeq = s.link.eventSeq ∧ (s.setRing r f).link.events = s.link.events ∧ (s.setRing r f).link.lastEventBlock = s.link.lastEventBlock ∧ (s.setRing r f).link.configGen = s.link.configGen ∧ (s.setRing r f).link.swaps = s.link.swaps ∧ (s.setRing r f).link.marks = s.link.marks ∧ (s.setRing r f).link.sent = s.link.sent := by
  and_intros <;> rfl

@[simp] theorem State.setDemod_self (s : State) (l : Nat) (f : Demod → Demod) : (s.setDemod l f).lanes.demods.get l = f (s.lanes.demods.get l) := Tbl.get_modify_self _ _ _

theorem State.setDemod_of_ne (s : State) (l : Nat) (f : Demod → Demod) {i : Nat} (h : i ≠ l) : (s.setDemod l f).lanes.demods.get i = s.lanes.demods.get i := Tbl.get_modify_of_ne _ h _

@[simp] theorem State.setDemod_beside (s : State) (l : Nat) (f : Demod → Demod) :
    (s.setDemod l f).lanes.spares = s.lanes.spares ∧ (s.setDemod l f).lanes.watches = s.lanes.watches := by
  and_intros <;> rfl

@[simp] theorem State.setSpare_self (s : State) (c : Nat) (f : SpareSt → SpareSt) : (s.setSpare c f).lanes.spares.get c = f (s.lanes.spares.get c) := Tbl.get_modify_self _ _ _

theorem State.setSpare_of_ne (s : State) (c : Nat) (f : SpareSt → SpareSt) {i : Nat} (h : i ≠ c) : (s.setSpare c f).lanes.spares.get i = s.lanes.spares.get i := Tbl.get_modify_of_ne _ h _

@[simp] theorem State.setSpare_beside (s : State) (c : Nat) (f : SpareSt → SpareSt) :
    (s.setSpare c f).lanes.demods = s.lanes.demods ∧ (s.setSpare c f).lanes.watches = s.lanes.watches := by
  and_intros <;> rfl

@[simp] theorem State.setWatch_self (s : State) (w : Nat) (f : WatchSt → WatchSt) : (s.setWatch w f).lanes.watches.get w = f (s.lanes.watches.get w) := Tbl.get_modify_self _ _ _

theorem State.setWatch_of_ne (s : State) (w : Nat) (f : WatchSt → WatchSt) {i : Nat} (h : i ≠ w) : (s.setWatch w f).lanes.watches.get i = s.lanes.watches.get i := Tbl.get_modify_of_ne _ h _

@[simp] theorem State.setWatch_beside (s : State) (w : Nat) (f : WatchSt → WatchSt) :
    (s.setWatch w f).lanes.demods = s.lanes.demods ∧ (s.setWatch w f).lanes.spares = s.lanes.spares := by
  and_intros <;> rfl

@[simp] theorem State.setDieInteg_self (s : State) (d : Nat) (f : DieInteg → DieInteg) : (s.setDieInteg d f).integ.dies.get d = f (s.integ.dies.get d) := Tbl.get_modify_self _ _ _

theorem State.setDieInteg_of_ne (s : State) (d : Nat) (f : DieInteg → DieInteg) {i : Nat} (h : i ≠ d) : (s.setDieInteg d f).integ.dies.get i = s.integ.dies.get i := Tbl.get_modify_of_ne _ h _

@[simp] theorem State.setDieInteg_beside (s : State) (d : Nat) (f : DieInteg → DieInteg) :
    (s.setDieInteg d f).integ.occs = s.integ.occs ∧ (s.setDieInteg d f).integ.rules = s.integ.rules ∧ (s.setDieInteg d f).integ.fenced = s.integ.fenced ∧ (s.setDieInteg d f).integ.links = s.integ.links ∧ (s.setDieInteg d f).integ.tasks = s.integ.tasks ∧ (s.setDieInteg d f).integ.summary = s.integ.summary ∧ (s.setDieInteg d f).integ.flashFaults = s.integ.flashFaults ∧ (s.setDieInteg d f).integ.logWaiting = s.integ.logWaiting ∧ (s.setDieInteg d f).integ.codeCounts = s.integ.codeCounts := by
  and_intros <;> rfl

@[simp] theorem State.setEngine_self (s : State) (e : Nat) (f : EngineSt → EngineSt) : (s.setEngine e f).ofdm.engines.get e = f (s.ofdm.engines.get e) := Tbl.get_modify_self _ _ _

theorem State.setEngine_of_ne (s : State) (e : Nat) (f : EngineSt → EngineSt) {i : Nat} (h : i ≠ e) : (s.setEngine e f).ofdm.engines.get i = s.ofdm.engines.get i := Tbl.get_modify_of_ne _ h _

@[simp] theorem State.setEngine_beside (s : State) (e : Nat) (f : EngineSt → EngineSt) :
    (s.setEngine e f).ofdm.regions = s.ofdm.regions ∧ (s.setEngine e f).ofdm.phys = s.ofdm.phys := by
  and_intros <;> rfl

@[simp] theorem State.setRegion_self (s : State) (g : Nat) (f : RegionSt → RegionSt) : (s.setRegion g f).ofdm.regions.get g = f (s.ofdm.regions.get g) := Tbl.get_modify_self _ _ _

theorem State.setRegion_of_ne (s : State) (g : Nat) (f : RegionSt → RegionSt) {i : Nat} (h : i ≠ g) : (s.setRegion g f).ofdm.regions.get i = s.ofdm.regions.get i := Tbl.get_modify_of_ne _ h _

@[simp] theorem State.setRegion_beside (s : State) (g : Nat) (f : RegionSt → RegionSt) :
    (s.setRegion g f).ofdm.engines = s.ofdm.engines ∧ (s.setRegion g f).ofdm.phys = s.ofdm.phys := by
  and_intros <;> rfl

@[simp] theorem State.setFollow_self (s : State) (f : Nat) (g : FollowSt → FollowSt) : (s.setFollow f g).audio.follows.get f = g (s.audio.follows.get f) := Tbl.get_modify_self _ _ _

theorem State.setFollow_of_ne (s : State) (f : Nat) (g : FollowSt → FollowSt) {i : Nat} (h : i ≠ f) : (s.setFollow f g).audio.follows.get i = s.audio.follows.get i := Tbl.get_modify_of_ne _ h _

@[simp] theorem State.setFollow_beside (s : State) (f : Nat) (g : FollowSt → FollowSt) :
    (s.setFollow f g).audio.slots = s.audio.slots ∧ (s.setFollow f g).audio.contexts = s.audio.contexts := by
  and_intros <;> rfl

@[simp] theorem State.setSlot_self (s : State) (x : Nat) (g : SlotSt → SlotSt) : (s.setSlot x g).audio.slots.get x = g (s.audio.slots.get x) := Tbl.get_modify_self _ _ _

theorem State.setSlot_of_ne (s : State) (x : Nat) (g : SlotSt → SlotSt) {i : Nat} (h : i ≠ x) : (s.setSlot x g).audio.slots.get i = s.audio.slots.get i := Tbl.get_modify_of_ne _ h _

@[simp] theorem State.setSlot_beside (s : State) (x : Nat) (g : SlotSt → SlotSt) :
    (s.setSlot x g).audio.follows = s.audio.follows ∧ (s.setSlot x g).audio.contexts = s.audio.contexts := by
  and_intros <;> rfl

@[simp] theorem State.setContext_self (s : State) (k : Nat) (g : ContextSt → ContextSt) : (s.setContext k g).audio.contexts.get k = g (s.audio.contexts.get k) := Tbl.get_modify_self _ _ _

theorem State.setContext_of_ne (s : State) (k : Nat) (g : ContextSt → ContextSt) {i : Nat} (h : i ≠ k) : (s.setContext k g).audio.contexts.get i = s.audio.contexts.get i := Tbl.get_modify_of_ne _ h _

@[simp] theorem State.setContext_beside (s : State) (k : Nat) (g : ContextSt → ContextSt) :
    (s.setContext k g).audio.follows = s.audio.follows ∧ (s.setContext k g).audio.slots = s.audio.slots := by
  and_intros <;> rfl

@[simp] theorem State.setMon_self (s : State) (d : Nat) (f : MonSt → MonSt) : (s.setMon d f).mon.dies.get d = f (s.mon.dies.get d) := Tbl.get_modify_self _ _ _

theorem State.setMon_of_ne (s : State) (d : Nat) (f : MonSt → MonSt) {i : Nat} (h : i ≠ d) : (s.setMon d f).mon.dies.get i = s.mon.dies.get i := Tbl.get_modify_of_ne _ h _

/-! ### Shared operations -/

@[simp] theorem signalVector_keeps (v : Nat) (s : State) :
    (signalVector v s).part = s.part ∧ (signalVector v s).pins = s.pins ∧ (signalVector v s).time = s.time ∧ (signalVector v s).ref = s.ref ∧
    (signalVector v s).clk = s.clk ∧ (signalVector v s).spans = s.spans ∧ (signalVector v s).front = s.front ∧ (signalVector v s).taps = s.taps ∧
    (signalVector v s).lanes = s.lanes ∧ (signalVector v s).ofdm = s.ofdm ∧ (signalVector v s).audio = s.audio ∧ (signalVector v s).ports = s.ports ∧
    (signalVector v s).cfg = s.cfg ∧ (signalVector v s).cal = s.cal ∧ (signalVector v s).mon = s.mon ∧ (signalVector v s).integ = s.integ ∧
    (signalVector v s).mode = s.mode ∧ (signalVector v s).domains = s.domains ∧ (signalVector v s).mb = s.mb ∧ (signalVector v s).sec = s.sec ∧
    (signalVector v s).nv = s.nv ∧ (signalVector v s).freeCount = s.freeCount ∧ (signalVector v s).pending = s.pending :=
  have h := signalVector_only v s
  ⟨h .part rfl, h .pins rfl, h .time rfl, h .ref rfl, h .clk rfl, h .spans rfl, h .front rfl, h .taps rfl, h .lanes rfl, h .ofdm rfl, h .audio rfl, h .ports rfl, h .cfg rfl, h .cal rfl, h .mon rfl, h .integ rfl, h .mode rfl, h .domains rfl, h .mb rfl, h .sec rfl, h .nv rfl, h .freeCount rfl, h .pending rfl⟩

@[simp] theorem countEntry_keeps (r : Nat) (s : State) :
    (countEntry r s).part = s.part ∧ (countEntry r s).pins = s.pins ∧ (countEntry r s).time = s.time ∧ (countEntry r s).ref = s.ref ∧
    (countEntry r s).clk = s.clk ∧ (countEntry r s).spans = s.spans ∧ (countEntry r s).front = s.front ∧ (countEntry r s).taps = s.taps ∧
    (countEntry r s).lanes = s.lanes ∧ (countEntry r s).ofdm = s.ofdm ∧ (countEntry r s).audio = s.audio ∧ (countEntry r s).ports = s.ports ∧
    (countEntry r s).cfg = s.cfg ∧ (countEntry r s).cal = s.cal ∧ (countEntry r s).mon = s.mon ∧ (countEntry r s).integ = s.integ ∧
    (countEntry r s).mode = s.mode ∧ (countEntry r s).domains = s.domains ∧ (countEntry r s).mb = s.mb ∧ (countEntry r s).sec = s.sec ∧
    (countEntry r s).nv = s.nv ∧ (countEntry r s).freeCount = s.freeCount ∧ (countEntry r s).pending = s.pending :=
  have h := countEntry_only r s
  ⟨h .part rfl, h .pins rfl, h .time rfl, h .ref rfl, h .clk rfl, h .spans rfl, h .front rfl, h .taps rfl, h .lanes rfl, h .ofdm rfl, h .audio rfl, h .ports rfl, h .cfg rfl, h .cal rfl, h .mon rfl, h .integ rfl, h .mode rfl, h .domains rfl, h .mb rfl, h .sec rfl, h .nv rfl, h .freeCount rfl, h .pending rfl⟩

@[simp] theorem queueLog_keeps (ev : Ev) (s : State) :
    (queueLog ev s).part = s.part ∧ (queueLog ev s).pins = s.pins ∧ (queueLog ev s).time = s.time ∧ (queueLog ev s).ref = s.ref ∧
    (queueLog ev s).clk = s.clk ∧ (queueLog ev s).spans = s.spans ∧ (queueLog ev s).front = s.front ∧ (queueLog ev s).taps = s.taps ∧
    (queueLog ev s).lanes = s.lanes ∧ (queueLog ev s).ofdm = s.ofdm ∧ (queueLog ev s).audio = s.audio ∧ (queueLog ev s).ports = s.ports ∧
    (queueLog ev s).link = s.link ∧ (queueLog ev s).cfg = s.cfg ∧ (queueLog ev s).cal = s.cal ∧ (queueLog ev s).mon = s.mon ∧
    (queueLog ev s).mode = s.mode ∧ (queueLog ev s).domains = s.domains ∧ (queueLog ev s).mb = s.mb ∧ (queueLog ev s).sec = s.sec ∧
    (queueLog ev s).nv = s.nv ∧ (queueLog ev s).freeCount = s.freeCount ∧ (queueLog ev s).pending = s.pending :=
  have h := queueLog_only ev s
  ⟨h .part rfl, h .pins rfl, h .time rfl, h .ref rfl, h .clk rfl, h .spans rfl, h .front rfl, h .taps rfl, h .lanes rfl, h .ofdm rfl, h .audio rfl, h .ports rfl, h .link rfl, h .cfg rfl, h .cal rfl, h .mon rfl, h .mode rfl, h .domains rfl, h .mb rfl, h .sec rfl, h .nv rfl, h .freeCount rfl, h .pending rfl⟩

@[simp] theorem note_keeps (x : HallNote) (s : State) :
    (note x s).part = s.part ∧ (note x s).pins = s.pins ∧ (note x s).time = s.time ∧ (note x s).ref = s.ref ∧
    (note x s).clk = s.clk ∧ (note x s).spans = s.spans ∧ (note x s).front = s.front ∧ (note x s).taps = s.taps ∧
    (note x s).lanes = s.lanes ∧ (note x s).ofdm = s.ofdm ∧ (note x s).audio = s.audio ∧ (note x s).ports = s.ports ∧
    (note x s).link = s.link ∧ (note x s).cfg = s.cfg ∧ (note x s).cal = s.cal ∧ (note x s).mon = s.mon ∧
    (note x s).integ = s.integ ∧ (note x s).mode = s.mode ∧ (note x s).domains = s.domains ∧ (note x s).mb = s.mb ∧
    (note x s).nv = s.nv ∧ (note x s).freeCount = s.freeCount ∧ (note x s).pending = s.pending :=
  have h := note_only x s
  ⟨h .part rfl, h .pins rfl, h .time rfl, h .ref rfl, h .clk rfl, h .spans rfl, h .front rfl, h .taps rfl, h .lanes rfl, h .ofdm rfl, h .audio rfl, h .ports rfl, h .link rfl, h .cfg rfl, h .cal rfl, h .mon rfl, h .integ rfl, h .mode rfl, h .domains rfl, h .mb rfl, h .nv rfl, h .freeCount rfl, h .pending rfl⟩

@[simp] theorem raise_keeps (n : EvName) (origin : Nat) (args : List EvArg) (s : State) :
    (raise n origin args s).part = s.part ∧ (raise n origin args s).pins = s.pins ∧ (raise n origin args s).time = s.time ∧ (raise n origin args s).ref = s.ref ∧
    (raise n origin args s).clk = s.clk ∧ (raise n origin args s).spans = s.spans ∧ (raise n origin args s).front = s.front ∧ (raise n origin args s).taps = s.taps ∧
    (raise n origin args s).lanes = s.lanes ∧ (raise n origin args s).ofdm = s.ofdm ∧ (raise n origin args s).audio = s.audio ∧ (raise n origin args s).ports = s.ports ∧
    (raise n origin args s).cfg = s.cfg ∧ (raise n origin args s).cal = s.cal ∧ (raise n origin args s).mon = s.mon ∧ (raise n origin args s).mode = s.mode ∧
    (raise n origin args s).domains = s.domains ∧ (raise n origin args s).mb = s.mb ∧ (raise n origin args s).nv = s.nv ∧ (raise n origin args s).freeCount = s.freeCount ∧
    (raise n origin args s).pending = s.pending :=
  have h := raise_only n origin args s
  ⟨h .part rfl, h .pins rfl, h .time rfl, h .ref rfl, h .clk rfl, h .spans rfl, h .front rfl, h .taps rfl, h .lanes rfl, h .ofdm rfl, h .audio rfl, h .ports rfl, h .cfg rfl, h .cal rfl, h .mon rfl, h .mode rfl, h .domains rfl, h .mb rfl, h .nv rfl, h .freeCount rfl, h .pending rfl⟩

@[simp] theorem hallMode_keeps (m : OpMode) (s : State) :
    (hallMode m s).part = s.part ∧ (hallMode m s).pins = s.pins ∧ (hallMode m s).time = s.time ∧ (hallMode m s).ref = s.ref ∧
    (hallMode m s).clk = s.clk ∧ (hallMode m s).spans = s.spans ∧ (hallMode m s).front = s.front ∧ (hallMode m s).taps = s.taps ∧
    (hallMode m s).lanes = s.lanes ∧ (hallMode m s).ofdm = s.ofdm ∧ (hallMode m s).audio = s.audio ∧ (hallMode m s).ports = s.ports ∧
    (hallMode m s).link = s.link ∧ (hallMode m s).cfg = s.cfg ∧ (hallMode m s).cal = s.cal ∧ (hallMode m s).mon = s.mon ∧
    (hallMode m s).integ = s.integ ∧ (hallMode m s).mode = s.mode ∧ (hallMode m s).domains = s.domains ∧ (hallMode m s).mb = s.mb ∧
    (hallMode m s).nv = s.nv ∧ (hallMode m s).freeCount = s.freeCount ∧ (hallMode m s).pending = s.pending :=
  have h := hallMode_only m s
  ⟨h .part rfl, h .pins rfl, h .time rfl, h .ref rfl, h .clk rfl, h .spans rfl, h .front rfl, h .taps rfl, h .lanes rfl, h .ofdm rfl, h .audio rfl, h .ports rfl, h .link rfl, h .cfg rfl, h .cal rfl, h .mon rfl, h .integ rfl, h .mode rfl, h .domains rfl, h .mb rfl, h .nv rfl, h .freeCount rfl, h .pending rfl⟩

@[simp] theorem setMode_keeps (m : OpMode) (c : ModeCause) (s : State) :
    (setMode m c s).part = s.part ∧ (setMode m c s).pins = s.pins ∧ (setMode m c s).time = s.time ∧ (setMode m c s).ref = s.ref ∧
    (setMode m c s).clk = s.clk ∧ (setMode m c s).spans = s.spans ∧ (setMode m c s).front = s.front ∧ (setMode m c s).taps = s.taps ∧
    (setMode m c s).lanes = s.lanes ∧ (setMode m c s).ofdm = s.ofdm ∧ (setMode m c s).audio = s.audio ∧ (setMode m c s).ports = s.ports ∧
    (setMode m c s).cfg = s.cfg ∧ (setMode m c s).cal = s.cal ∧ (setMode m c s).mon = s.mon ∧ (setMode m c s).domains = s.domains ∧
    (setMode m c s).mb = s.mb ∧ (setMode m c s).nv = s.nv ∧ (setMode m c s).freeCount = s.freeCount ∧ (setMode m c s).pending = s.pending :=
  have h := setMode_only m c s
  ⟨h .part rfl, h .pins rfl, h .time rfl, h .ref rfl, h .clk rfl, h .spans rfl, h .front rfl, h .taps rfl, h .lanes rfl, h .ofdm rfl, h .audio rfl, h .ports rfl, h .cfg rfl, h .cal rfl, h .mon rfl, h .domains rfl, h .mb rfl, h .nv rfl, h .freeCount rfl, h .pending rfl⟩

@[simp] theorem reconcileMode_keeps (s : State) :
    (reconcileMode s).part = s.part ∧ (reconcileMode s).pins = s.pins ∧ (reconcileMode s).time = s.time ∧ (reconcileMode s).ref = s.ref ∧
    (reconcileMode s).clk = s.clk ∧ (reconcileMode s).spans = s.spans ∧ (reconcileMode s).front = s.front ∧ (reconcileMode s).taps = s.taps ∧
    (reconcileMode s).lanes = s.lanes ∧ (reconcileMode s).ofdm = s.ofdm ∧ (reconcileMode s).audio = s.audio ∧ (reconcileMode s).ports = s.ports ∧
    (reconcileMode s).cfg = s.cfg ∧ (reconcileMode s).cal = s.cal ∧ (reconcileMode s).mon = s.mon ∧ (reconcileMode s).domains = s.domains ∧
    (reconcileMode s).mb = s.mb ∧ (reconcileMode s).nv = s.nv ∧ (reconcileMode s).freeCount = s.freeCount ∧ (reconcileMode s).pending = s.pending :=
  have h := reconcileMode_only s
  ⟨h .part rfl, h .pins rfl, h .time rfl, h .ref rfl, h .clk rfl, h .spans rfl, h .front rfl, h .taps rfl, h .lanes rfl, h .ofdm rfl, h .audio rfl, h .ports rfl, h .cfg rfl, h .cal rfl, h .mon rfl, h .domains rfl, h .mb rfl, h .nv rfl, h .freeCount rfl, h .pending rfl⟩

@[simp] theorem holdSpan_keeps (s : State) :
    (holdSpan s).part = s.part ∧ (holdSpan s).pins = s.pins ∧ (holdSpan s).time = s.time ∧ (holdSpan s).ref = s.ref ∧
    (holdSpan s).clk = s.clk ∧ (holdSpan s).front = s.front ∧ (holdSpan s).taps = s.taps ∧ (holdSpan s).lanes = s.lanes ∧
    (holdSpan s).ofdm = s.ofdm ∧ (holdSpan s).audio = s.audio ∧ (holdSpan s).ports = s.ports ∧ (holdSpan s).link = s.link ∧
    (holdSpan s).cfg = s.cfg ∧ (holdSpan s).cal = s.cal ∧ (holdSpan s).mon = s.mon ∧ (holdSpan s).integ = s.integ ∧
    (holdSpan s).mode = s.mode ∧ (holdSpan s).domains = s.domains ∧ (holdSpan s).mb = s.mb ∧ (holdSpan s).sec = s.sec ∧
    (holdSpan s).nv = s.nv ∧ (holdSpan s).freeCount = s.freeCount ∧ (holdSpan s).pending = s.pending :=
  have h := holdSpan_only s
  ⟨h .part rfl, h .pins rfl, h .time rfl, h .ref rfl, h .clk rfl, h .front rfl, h .taps rfl, h .lanes rfl, h .ofdm rfl, h .audio rfl, h .ports rfl, h .link rfl, h .cfg rfl, h .cal rfl, h .mon rfl, h .integ rfl, h .mode rfl, h .domains rfl, h .mb rfl, h .sec rfl, h .nv rfl, h .freeCount rfl, h .pending rfl⟩

@[simp] theorem refresh_keeps (s : State) :
    (refresh s).part = s.part ∧ (refresh s).pins = s.pins ∧ (refresh s).time = s.time ∧ (refresh s).ref = s.ref ∧
    (refresh s).clk = s.clk ∧ (refresh s).front = s.front ∧ (refresh s).taps = s.taps ∧ (refresh s).lanes = s.lanes ∧
    (refresh s).ofdm = s.ofdm ∧ (refresh s).audio = s.audio ∧ (refresh s).ports = s.ports ∧ (refresh s).cfg = s.cfg ∧
    (refresh s).cal = s.cal ∧ (refresh s).mon = s.mon ∧ (refresh s).domains = s.domains ∧ (refresh s).mb = s.mb ∧
    (refresh s).nv = s.nv ∧ (refresh s).freeCount = s.freeCount ∧ (refresh s).pending = s.pending :=
  have h := refresh_only s
  ⟨h .part rfl, h .pins rfl, h .time rfl, h .ref rfl, h .clk rfl, h .front rfl, h .taps rfl, h .lanes rfl, h .ofdm rfl, h .audio rfl, h .ports rfl, h .cfg rfl, h .cal rfl, h .mon rfl, h .domains rfl, h .mb rfl, h .nv rfl, h .freeCount rfl, h .pending rfl⟩

@[simp] theorem openSuspect_keeps (sc : SuspectScope) (s : State) :
    (openSuspect sc s).part = s.part ∧ (openSuspect sc s).pins = s.pins ∧ (openSuspect sc s).time = s.time ∧ (openSuspect sc s).ref = s.ref ∧
    (openSuspect sc s).clk = s.clk ∧ (openSuspect sc s).front = s.front ∧ (openSuspect sc s).taps = s.taps ∧ (openSuspect sc s).lanes = s.lanes ∧
    (openSuspect sc s).ofdm = s.ofdm ∧ (openSuspect sc s).audio = s.audio ∧ (openSuspect sc s).ports = s.ports ∧ (openSuspect sc s).link = s.link ∧
    (openSuspect sc s).cfg = s.cfg ∧ (openSuspect sc s).cal = s.cal ∧ (openSuspect sc s).mon = s.mon ∧ (openSuspect sc s).integ = s.integ ∧
    (openSuspect sc s).mode = s.mode ∧ (openSuspect sc s).domains = s.domains ∧ (openSuspect sc s).mb = s.mb ∧ (openSuspect sc s).sec = s.sec ∧
    (openSuspect sc s).nv = s.nv ∧ (openSuspect sc s).freeCount = s.freeCount ∧ (openSuspect sc s).pending = s.pending :=
  have h := openSuspect_only sc s
  ⟨h .part rfl, h .pins rfl, h .time rfl, h .ref rfl, h .clk rfl, h .front rfl, h .taps rfl, h .lanes rfl, h .ofdm rfl, h .audio rfl, h .ports rfl, h .link rfl, h .cfg rfl, h .cal rfl, h .mon rfl, h .integ rfl, h .mode rfl, h .domains rfl, h .mb rfl, h .sec rfl, h .nv rfl, h .freeCount rfl, h .pending rfl⟩

@[simp] theorem declareLasting_keeps (cls : Nat) (u : UnitRef) (n : Nat) (s : State) :
    (declareLasting cls u n s).part = s.part ∧ (declareLasting cls u n s).pins = s.pins ∧ (declareLasting cls u n s).time = s.time ∧ (declareLasting cls u n s).ref = s.ref ∧
    (declareLasting cls u n s).clk = s.clk ∧ (declareLasting cls u n s).spans = s.spans ∧ (declareLasting cls u n s).front = s.front ∧ (declareLasting cls u n s).taps = s.taps ∧
    (declareLasting cls u n s).lanes = s.lanes ∧ (declareLasting cls u n s).ofdm = s.ofdm ∧ (declareLasting cls u n s).audio = s.audio ∧ (declareLasting cls u n s).ports = s.ports ∧
    (declareLasting cls u n s).cfg = s.cfg ∧ (declareLasting cls u n s).cal = s.cal ∧ (declareLasting cls u n s).mon = s.mon ∧ (declareLasting cls u n s).mode = s.mode ∧
    (declareLasting cls u n s).domains = s.domains ∧ (declareLasting cls u n s).mb = s.mb ∧ (declareLasting cls u n s).nv = s.nv ∧ (declareLasting cls u n s).freeCount = s.freeCount ∧
    (declareLasting cls u n s).pending = s.pending :=
  have h := declareLasting_only cls u n s
  ⟨h .part rfl, h .pins rfl, h .time rfl, h .ref rfl, h .clk rfl, h .spans rfl, h .front rfl, h .taps rfl, h .lanes rfl, h .ofdm rfl, h .audio rfl, h .ports rfl, h .cfg rfl, h .cal rfl, h .mon rfl, h .mode rfl, h .domains rfl, h .mb rfl, h .nv rfl, h .freeCount rfl, h .pending rfl⟩

@[simp] theorem flashFault_keeps (a : FlashArea) (s : State) :
    (flashFault a s).part = s.part ∧ (flashFault a s).pins = s.pins ∧ (flashFault a s).time = s.time ∧ (flashFault a s).ref = s.ref ∧
    (flashFault a s).clk = s.clk ∧ (flashFault a s).spans = s.spans ∧ (flashFault a s).front = s.front ∧ (flashFault a s).taps = s.taps ∧
    (flashFault a s).lanes = s.lanes ∧ (flashFault a s).ofdm = s.ofdm ∧ (flashFault a s).audio = s.audio ∧ (flashFault a s).ports = s.ports ∧
    (flashFault a s).cfg = s.cfg ∧ (flashFault a s).cal = s.cal ∧ (flashFault a s).mon = s.mon ∧ (flashFault a s).mode = s.mode ∧
    (flashFault a s).domains = s.domains ∧ (flashFault a s).mb = s.mb ∧ (flashFault a s).nv = s.nv ∧ (flashFault a s).freeCount = s.freeCount ∧
    (flashFault a s).pending = s.pending :=
  have h := flashFault_only a s
  ⟨h .part rfl, h .pins rfl, h .time rfl, h .ref rfl, h .clk rfl, h .spans rfl, h .front rfl, h .taps rfl, h .lanes rfl, h .ofdm rfl, h .audio rfl, h .ports rfl, h .cfg rfl, h .cal rfl, h .mon rfl, h .mode rfl, h .domains rfl, h .mb rfl, h .nv rfl, h .freeCount rfl, h .pending rfl⟩

@[simp] theorem retireUnit_keeps (u : UnitRef) (s : State) :
    (retireUnit u s).part = s.part ∧ (retireUnit u s).pins = s.pins ∧ (retireUnit u s).time = s.time ∧ (retireUnit u s).ref = s.ref ∧
    (retireUnit u s).clk = s.clk ∧ (retireUnit u s).spans = s.spans ∧ (retireUnit u s).front = s.front ∧ (retireUnit u s).taps = s.taps ∧
    (retireUnit u s).lanes = s.lanes ∧ (retireUnit u s).ofdm = s.ofdm ∧ (retireUnit u s).audio = s.audio ∧ (retireUnit u s).ports = s.ports ∧
    (retireUnit u s).link = s.link ∧ (retireUnit u s).cfg = s.cfg ∧ (retireUnit u s).cal = s.cal ∧ (retireUnit u s).mon = s.mon ∧
    (retireUnit u s).integ = s.integ ∧ (retireUnit u s).mode = s.mode ∧ (retireUnit u s).domains = s.domains ∧ (retireUnit u s).mb = s.mb ∧
    (retireUnit u s).sec = s.sec ∧ (retireUnit u s).freeCount = s.freeCount ∧ (retireUnit u s).pending = s.pending :=
  have h := retireUnit_only u s
  ⟨h .part rfl, h .pins rfl, h .time rfl, h .ref rfl, h .clk rfl, h .spans rfl, h .front rfl, h .taps rfl, h .lanes rfl, h .ofdm rfl, h .audio rfl, h .ports rfl, h .link rfl, h .cfg rfl, h .cal rfl, h .mon rfl, h .integ rfl, h .mode rfl, h .domains rfl, h .mb rfl, h .sec rfl, h .freeCount rfl, h .pending rfl⟩

@[simp] theorem calChanged_keeps (s : State) :
    (calChanged s).part = s.part ∧ (calChanged s).pins = s.pins ∧ (calChanged s).time = s.time ∧ (calChanged s).ref = s.ref ∧
    (calChanged s).clk = s.clk ∧ (calChanged s).spans = s.spans ∧ (calChanged s).front = s.front ∧ (calChanged s).taps = s.taps ∧
    (calChanged s).lanes = s.lanes ∧ (calChanged s).ofdm = s.ofdm ∧ (calChanged s).audio = s.audio ∧ (calChanged s).ports = s.ports ∧
    (calChanged s).link = s.link ∧ (calChanged s).cfg = s.cfg ∧ (calChanged s).mon = s.mon ∧ (calChanged s).integ = s.integ ∧
    (calChanged s).mode = s.mode ∧ (calChanged s).domains = s.domains ∧ (calChanged s).mb = s.mb ∧ (calChanged s).sec = s.sec ∧
    (calChanged s).nv = s.nv ∧ (calChanged s).freeCount = s.freeCount ∧ (calChanged s).pending = s.pending :=
  have h := calChanged_only s
  ⟨h .part rfl, h .pins rfl, h .time rfl, h .ref rfl, h .clk rfl, h .spans rfl, h .front rfl, h .taps rfl, h .lanes rfl, h .ofdm rfl, h .audio rfl, h .ports rfl, h .link rfl, h .cfg rfl, h .mon rfl, h .integ rfl, h .mode rfl, h .domains rfl, h .mb rfl, h .sec rfl, h .nv rfl, h .freeCount rfl, h .pending rfl⟩

@[simp] theorem calSuccessOf_keeps (item index origin : Nat) (s : State) :
    (calSuccessOf item index origin s).part = s.part ∧ (calSuccessOf item index origin s).pins = s.pins ∧ (calSuccessOf item index origin s).time = s.time ∧ (calSuccessOf item index origin s).ref = s.ref ∧
    (calSuccessOf item index origin s).clk = s.clk ∧ (calSuccessOf item index origin s).spans = s.spans ∧ (calSuccessOf item index origin s).front = s.front ∧ (calSuccessOf item index origin s).taps = s.taps ∧
    (calSuccessOf item index origin s).lanes = s.lanes ∧ (calSuccessOf item index origin s).ofdm = s.ofdm ∧ (calSuccessOf item index origin s).audio = s.audio ∧ (calSuccessOf item index origin s).ports = s.ports ∧
    (calSuccessOf item index origin s).link = s.link ∧ (calSuccessOf item index origin s).cfg = s.cfg ∧ (calSuccessOf item index origin s).mon = s.mon ∧ (calSuccessOf item index origin s).integ = s.integ ∧
    (calSuccessOf item index origin s).mode = s.mode ∧ (calSuccessOf item index origin s).domains = s.domains ∧ (calSuccessOf item index origin s).mb = s.mb ∧ (calSuccessOf item index origin s).sec = s.sec ∧
    (calSuccessOf item index origin s).nv = s.nv ∧ (calSuccessOf item index origin s).freeCount = s.freeCount ∧ (calSuccessOf item index origin s).pending = s.pending :=
  have h := calSuccessOf_only item index origin s
  ⟨h .part rfl, h .pins rfl, h .time rfl, h .ref rfl, h .clk rfl, h .spans rfl, h .front rfl, h .taps rfl, h .lanes rfl, h .ofdm rfl, h .audio rfl, h .ports rfl, h .link rfl, h .cfg rfl, h .mon rfl, h .integ rfl, h .mode rfl, h .domains rfl, h .mb rfl, h .sec rfl, h .nv rfl, h .freeCount rfl, h .pending rfl⟩

@[simp] theorem calFailed_keeps (item index reason : Nat) (s : State) :
    (calFailed item index reason s).part = s.part ∧ (calFailed item index reason s).pins = s.pins ∧ (calFailed item index reason s).time = s.time ∧ (calFailed item index reason s).ref = s.ref ∧
    (calFailed item index reason s).clk = s.clk ∧ (calFailed item index reason s).spans = s.spans ∧ (calFailed item index reason s).front = s.front ∧ (calFailed item index reason s).taps = s.taps ∧
    (calFailed item index reason s).lanes = s.lanes ∧ (calFailed item index reason s).ofdm = s.ofdm ∧ (calFailed item index reason s).audio = s.audio ∧ (calFailed item index reason s).ports = s.ports ∧
    (calFailed item index reason s).link = s.link ∧ (calFailed item index reason s).cfg = s.cfg ∧ (calFailed item index reason s).mon = s.mon ∧ (calFailed item index reason s).integ = s.integ ∧
    (calFailed item index reason s).mode = s.mode ∧ (calFailed item index reason s).domains = s.domains ∧ (calFailed item index reason s).mb = s.mb ∧ (calFailed item index reason s).sec = s.sec ∧
    (calFailed item index reason s).nv = s.nv ∧ (calFailed item index reason s).freeCount = s.freeCount ∧ (calFailed item index reason s).pending = s.pending :=
  have h := calFailed_only item index reason s
  ⟨h .part rfl, h .pins rfl, h .time rfl, h .ref rfl, h .clk rfl, h .spans rfl, h .front rfl, h .taps rfl, h .lanes rfl, h .ofdm rfl, h .audio rfl, h .ports rfl, h .link rfl, h .cfg rfl, h .mon rfl, h .integ rfl, h .mode rfl, h .domains rfl, h .mb rfl, h .sec rfl, h .nv rfl, h .freeCount rfl, h .pending rfl⟩

@[simp] theorem writeCpl_keeps (q : Nat) (c : Cpl) (s : State) :
    (writeCpl q c s).part = s.part ∧ (writeCpl q c s).pins = s.pins ∧ (writeCpl q c s).time = s.time ∧ (writeCpl q c s).ref = s.ref ∧
    (writeCpl q c s).clk = s.clk ∧ (writeCpl q c s).spans = s.spans ∧ (writeCpl q c s).front = s.front ∧ (writeCpl q c s).taps = s.taps ∧
    (writeCpl q c s).lanes = s.lanes ∧ (writeCpl q c s).ofdm = s.ofdm ∧ (writeCpl q c s).audio = s.audio ∧ (writeCpl q c s).ports = s.ports ∧
    (writeCpl q c s).cfg = s.cfg ∧ (writeCpl q c s).cal = s.cal ∧ (writeCpl q c s).mon = s.mon ∧ (writeCpl q c s).integ = s.integ ∧
    (writeCpl q c s).mode = s.mode ∧ (writeCpl q c s).domains = s.domains ∧ (writeCpl q c s).mb = s.mb ∧ (writeCpl q c s).sec = s.sec ∧
    (writeCpl q c s).nv = s.nv ∧ (writeCpl q c s).freeCount = s.freeCount ∧ (writeCpl q c s).pending = s.pending :=
  have h := writeCpl_only q c s
  ⟨h .part rfl, h .pins rfl, h .time rfl, h .ref rfl, h .clk rfl, h .spans rfl, h .front rfl, h .taps rfl, h .lanes rfl, h .ofdm rfl, h .audio rfl, h .ports rfl, h .cfg rfl, h .cal rfl, h .mon rfl, h .integ rfl, h .mode rfl, h .domains rfl, h .mb rfl, h .sec rfl, h .nv rfl, h .freeCount rfl, h .pending rfl⟩

@[simp] theorem postCpl_keeps (q : Nat) (c : Cpl) (s : State) :
    (postCpl q c s).part = s.part ∧ (postCpl q c s).pins = s.pins ∧ (postCpl q c s).time = s.time ∧ (postCpl q c s).ref = s.ref ∧
    (postCpl q c s).clk = s.clk ∧ (postCpl q c s).spans = s.spans ∧ (postCpl q c s).front = s.front ∧ (postCpl q c s).taps = s.taps ∧
    (postCpl q c s).lanes = s.lanes ∧ (postCpl q c s).ofdm = s.ofdm ∧ (postCpl q c s).audio = s.audio ∧ (postCpl q c s).ports = s.ports ∧
    (postCpl q c s).cfg = s.cfg ∧ (postCpl q c s).cal = s.cal ∧ (postCpl q c s).mon = s.mon ∧ (postCpl q c s).integ = s.integ ∧
    (postCpl q c s).mode = s.mode ∧ (postCpl q c s).domains = s.domains ∧ (postCpl q c s).mb = s.mb ∧ (postCpl q c s).sec = s.sec ∧
    (postCpl q c s).nv = s.nv ∧ (postCpl q c s).freeCount = s.freeCount ∧ (postCpl q c s).pending = s.pending :=
  have h := postCpl_only q c s
  ⟨h .part rfl, h .pins rfl, h .time rfl, h .ref rfl, h .clk rfl, h .spans rfl, h .front rfl, h .taps rfl, h .lanes rfl, h .ofdm rfl, h .audio rfl, h .ports rfl, h .cfg rfl, h .cal rfl, h .mon rfl, h .integ rfl, h .mode rfl, h .domains rfl, h .mb rfl, h .sec rfl, h .nv rfl, h .freeCount rfl, h .pending rfl⟩

@[simp] theorem completeOne_keeps (src : CmdSrc) (desc : List Byte) (index : Nat) (st : Status) (result : Nat) (s : State) :
    (completeOne src desc index st result s).part = s.part ∧ (completeOne src desc index st result s).pins = s.pins ∧ (completeOne src desc index st result s).time = s.time ∧ (completeOne src desc index st result s).ref = s.ref ∧
    (completeOne src desc index st result s).clk = s.clk ∧ (completeOne src desc index st result s).spans = s.spans ∧ (completeOne src desc index st result s).front = s.front ∧ (completeOne src desc index st result s).taps = s.taps ∧
    (completeOne src desc index st result s).lanes = s.lanes ∧ (completeOne src desc index st result s).ofdm = s.ofdm ∧ (completeOne src desc index st result s).audio = s.audio ∧ (completeOne src desc index st result s).ports = s.ports ∧
    (completeOne src desc index st result s).cfg = s.cfg ∧ (completeOne src desc index st result s).cal = s.cal ∧ (completeOne src desc index st result s).mon = s.mon ∧ (completeOne src desc index st result s).integ = s.integ ∧
    (completeOne src desc index st result s).mode = s.mode ∧ (completeOne src desc index st result s).domains = s.domains ∧ (completeOne src desc index st result s).sec = s.sec ∧ (completeOne src desc index st result s).nv = s.nv ∧
    (completeOne src desc index st result s).freeCount = s.freeCount ∧ (completeOne src desc index st result s).pending = s.pending :=
  have h := completeOne_only src desc index st result s
  ⟨h .part rfl, h .pins rfl, h .time rfl, h .ref rfl, h .clk rfl, h .spans rfl, h .front rfl, h .taps rfl, h .lanes rfl, h .ofdm rfl, h .audio rfl, h .ports rfl, h .cfg rfl, h .cal rfl, h .mon rfl, h .integ rfl, h .mode rfl, h .domains rfl, h .sec rfl, h .nv rfl, h .freeCount rfl, h .pending rfl⟩

@[simp] theorem complete_keeps (src : CmdSrc) (desc : List Byte) (index : Nat) (st : Status) (result : Nat) (s : State) :
    (complete src desc index st result s).part = s.part ∧ (complete src desc index st result s).pins = s.pins ∧ (complete src desc index st result s).time = s.time ∧ (complete src desc index st result s).ref = s.ref ∧
    (complete src desc index st result s).clk = s.clk ∧ (complete src desc index st result s).spans = s.spans ∧ (complete src desc index st result s).front = s.front ∧ (complete src desc index st result s).taps = s.taps ∧
    (complete src desc index st result s).lanes = s.lanes ∧ (complete src desc index st result s).ofdm = s.ofdm ∧ (complete src desc index st result s).audio = s.audio ∧ (complete src desc index st result s).ports = s.ports ∧
    (complete src desc index st result s).cfg = s.cfg ∧ (complete src desc index st result s).cal = s.cal ∧ (complete src desc index st result s).mon = s.mon ∧ (complete src desc index st result s).integ = s.integ ∧
    (complete src desc index st result s).mode = s.mode ∧ (complete src desc index st result s).domains = s.domains ∧ (complete src desc index st result s).sec = s.sec ∧ (complete src desc index st result s).nv = s.nv ∧
    (complete src desc index st result s).freeCount = s.freeCount ∧ (complete src desc index st result s).pending = s.pending :=
  have h := complete_only src desc index st result s
  ⟨h .part rfl, h .pins rfl, h .time rfl, h .ref rfl, h .clk rfl, h .spans rfl, h .front rfl, h .taps rfl, h .lanes rfl, h .ofdm rfl, h .audio rfl, h .ports rfl, h .cfg rfl, h .cal rfl, h .mon rfl, h .integ rfl, h .mode rfl, h .domains rfl, h .sec rfl, h .nv rfl, h .freeCount rfl, h .pending rfl⟩

@[simp] theorem completeWait_keeps (w : Wait → Bool) (st : Status) (result : Nat) (s : State) :
    (completeWait w st result s).part = s.part ∧ (completeWait w st result s).pins = s.pins ∧ (completeWait w st result s).time = s.time ∧ (completeWait w st result s).ref = s.ref ∧
    (completeWait w st result s).clk = s.clk ∧ (completeWait w st result s).spans = s.spans ∧ (completeWait w st result s).front = s.front ∧ (completeWait w st result s).taps = s.taps ∧
    (completeWait w st result s).lanes = s.lanes ∧ (completeWait w st result s).ofdm = s.ofdm ∧ (completeWait w st result s).audio = s.audio ∧ (completeWait w st result s).ports = s.ports ∧
    (completeWait w st result s).cfg = s.cfg ∧ (completeWait w st result s).cal = s.cal ∧ (completeWait w st result s).mon = s.mon ∧ (completeWait w st result s).integ = s.integ ∧
    (completeWait w st result s).mode = s.mode ∧ (completeWait w st result s).domains = s.domains ∧ (completeWait w st result s).sec = s.sec ∧ (completeWait w st result s).nv = s.nv ∧
    (completeWait w st result s).freeCount = s.freeCount ∧ (completeWait w st result s).pending = s.pending :=
  have h := completeWait_only w st result s
  ⟨h .part rfl, h .pins rfl, h .time rfl, h .ref rfl, h .clk rfl, h .spans rfl, h .front rfl, h .taps rfl, h .lanes rfl, h .ofdm rfl, h .audio rfl, h .ports rfl, h .cfg rfl, h .cal rfl, h .mon rfl, h .integ rfl, h .mode rfl, h .domains rfl, h .sec rfl, h .nv rfl, h .freeCount rfl, h .pending rfl⟩

@[simp] theorem completeAll_keeps (w : Wait → Bool) (st : Status) (result : Nat) (s : State) :
    (completeAll w st result s).part = s.part ∧ (completeAll w st result s).pins = s.pins ∧ (completeAll w st result s).time = s.time ∧ (completeAll w st result s).ref = s.ref ∧
    (completeAll w st result s).clk = s.clk ∧ (completeAll w st result s).spans = s.spans ∧ (completeAll w st result s).front = s.front ∧ (completeAll w st result s).taps = s.taps ∧
    (completeAll w st result s).lanes = s.lanes ∧ (completeAll w st result s).ofdm = s.ofdm ∧ (completeAll w st result s).audio = s.audio ∧ (completeAll w st result s).ports = s.ports ∧
    (completeAll w st result s).cfg = s.cfg ∧ (completeAll w st result s).cal = s.cal ∧ (completeAll w st result s).mon = s.mon ∧ (completeAll w st result s).integ = s.integ ∧
    (completeAll w st result s).mode = s.mode ∧ (completeAll w st result s).domains = s.domains ∧ (completeAll w st result s).sec = s.sec ∧ (completeAll w st result s).nv = s.nv ∧
    (completeAll w st result s).freeCount = s.freeCount ∧ (completeAll w st result s).pending = s.pending :=
  have h := completeAll_only w st result s
  ⟨h .part rfl, h .pins rfl, h .time rfl, h .ref rfl, h .clk rfl, h .spans rfl, h .front rfl, h .taps rfl, h .lanes rfl, h .ofdm rfl, h .audio rfl, h .ports rfl, h .cfg rfl, h .cal rfl, h .mon rfl, h .integ rfl, h .mode rfl, h .domains rfl, h .sec rfl, h .nv rfl, h .freeCount rfl, h .pending rfl⟩

@[simp] theorem waitFor_keeps (src : CmdSrc) (desc : List Byte) (index : Nat) (w : Wait) (s : State) :
    (waitFor src desc index w s).part = s.part ∧ (waitFor src desc index w s).pins = s.pins ∧ (waitFor src desc index w s).time = s.time ∧ (waitFor src desc index w s).ref = s.ref ∧
    (waitFor src desc index w s).clk = s.clk ∧ (waitFor src desc index w s).spans = s.spans ∧ (waitFor src desc index w s).front = s.front ∧ (waitFor src desc index w s).taps = s.taps ∧
    (waitFor src desc index w s).lanes = s.lanes ∧ (waitFor src desc index w s).ofdm = s.ofdm ∧ (waitFor src desc index w s).audio = s.audio ∧ (waitFor src desc index w s).ports = s.ports ∧
    (waitFor src desc index w s).cfg = s.cfg ∧ (waitFor src desc index w s).cal = s.cal ∧ (waitFor src desc index w s).mon = s.mon ∧ (waitFor src desc index w s).integ = s.integ ∧
    (waitFor src desc index w s).mode = s.mode ∧ (waitFor src desc index w s).domains = s.domains ∧ (waitFor src desc index w s).sec = s.sec ∧ (waitFor src desc index w s).nv = s.nv ∧
    (waitFor src desc index w s).freeCount = s.freeCount ∧ (waitFor src desc index w s).pending = s.pending :=
  have h := waitFor_only src desc index w s
  ⟨h .part rfl, h .pins rfl, h .time rfl, h .ref rfl, h .clk rfl, h .spans rfl, h .front rfl, h .taps rfl, h .lanes rfl, h .ofdm rfl, h .audio rfl, h .ports rfl, h .cfg rfl, h .cal rfl, h .mon rfl, h .integ rfl, h .mode rfl, h .domains rfl, h .sec rfl, h .nv rfl, h .freeCount rfl, h .pending rfl⟩

@[simp] theorem answerCommit_keeps (c : PendingCommit) (st : Status) (result : Nat) (s : State) :
    (answerCommit c st result s).part = s.part ∧ (answerCommit c st result s).pins = s.pins ∧ (answerCommit c st result s).time = s.time ∧ (answerCommit c st result s).ref = s.ref ∧
    (answerCommit c st result s).clk = s.clk ∧ (answerCommit c st result s).spans = s.spans ∧ (answerCommit c st result s).front = s.front ∧ (answerCommit c st result s).taps = s.taps ∧
    (answerCommit c st result s).lanes = s.lanes ∧ (answerCommit c st result s).ofdm = s.ofdm ∧ (answerCommit c st result s).audio = s.audio ∧ (answerCommit c st result s).ports = s.ports ∧
    (answerCommit c st result s).cfg = s.cfg ∧ (answerCommit c st result s).cal = s.cal ∧ (answerCommit c st result s).mon = s.mon ∧ (answerCommit c st result s).integ = s.integ ∧
    (answerCommit c st result s).mode = s.mode ∧ (answerCommit c st result s).domains = s.domains ∧ (answerCommit c st result s).sec = s.sec ∧ (answerCommit c st result s).nv = s.nv ∧
    (answerCommit c st result s).freeCount = s.freeCount ∧ (answerCommit c st result s).pending = s.pending :=
  have h := answerCommit_only c st result s
  ⟨h .part rfl, h .pins rfl, h .time rfl, h .ref rfl, h .clk rfl, h .spans rfl, h .front rfl, h .taps rfl, h .lanes rfl, h .ofdm rfl, h .audio rfl, h .ports rfl, h .cfg rfl, h .cal rfl, h .mon rfl, h .integ rfl, h .mode rfl, h .domains rfl, h .sec rfl, h .nv rfl, h .freeCount rfl, h .pending rfl⟩

@[simp] theorem finishCommits_keeps (s : State) :
    (finishCommits s).part = s.part ∧ (finishCommits s).pins = s.pins ∧ (finishCommits s).time = s.time ∧ (finishCommits s).ref = s.ref ∧
    (finishCommits s).clk = s.clk ∧ (finishCommits s).spans = s.spans ∧ (finishCommits s).front = s.front ∧ (finishCommits s).taps = s.taps ∧
    (finishCommits s).lanes = s.lanes ∧ (finishCommits s).ofdm = s.ofdm ∧ (finishCommits s).audio = s.audio ∧ (finishCommits s).ports = s.ports ∧
    (finishCommits s).cal = s.cal ∧ (finishCommits s).mon = s.mon ∧ (finishCommits s).mode = s.mode ∧ (finishCommits s).domains = s.domains ∧
    (finishCommits s).nv = s.nv ∧ (finishCommits s).freeCount = s.freeCount ∧ (finishCommits s).pending = s.pending :=
  have h := finishCommits_only s
  ⟨h .part rfl, h .pins rfl, h .time rfl, h .ref rfl, h .clk rfl, h .spans rfl, h .front rfl, h .taps rfl, h .lanes rfl, h .ofdm rfl, h .audio rfl, h .ports rfl, h .cal rfl, h .mon rfl, h .mode rfl, h .domains rfl, h .nv rfl, h .freeCount rfl, h .pending rfl⟩

@[simp] theorem endHop_keeps (d : Nat) (f : PendingCommit → PendingCommit) (s : State) :
    (endHop d f s).part = s.part ∧ (endHop d f s).pins = s.pins ∧ (endHop d f s).time = s.time ∧ (endHop d f s).ref = s.ref ∧
    (endHop d f s).clk = s.clk ∧ (endHop d f s).spans = s.spans ∧ (endHop d f s).front = s.front ∧ (endHop d f s).taps = s.taps ∧
    (endHop d f s).lanes = s.lanes ∧ (endHop d f s).ofdm = s.ofdm ∧ (endHop d f s).audio = s.audio ∧ (endHop d f s).ports = s.ports ∧
    (endHop d f s).cal = s.cal ∧ (endHop d f s).mon = s.mon ∧ (endHop d f s).mode = s.mode ∧ (endHop d f s).domains = s.domains ∧
    (endHop d f s).nv = s.nv ∧ (endHop d f s).freeCount = s.freeCount ∧ (endHop d f s).pending = s.pending :=
  have h := endHop_only d f s
  ⟨h .part rfl, h .pins rfl, h .time rfl, h .ref rfl, h .clk rfl, h .spans rfl, h .front rfl, h .taps rfl, h .lanes rfl, h .ofdm rfl, h .audio rfl, h .ports rfl, h .cal rfl, h .mon rfl, h .mode rfl, h .domains rfl, h .nv rfl, h .freeCount rfl, h .pending rfl⟩

@[simp] theorem formBlock_keeps (r : Nat) (b : BlockIn) (s : State) :
    (formBlock r b s).part = s.part ∧ (formBlock r b s).pins = s.pins ∧ (formBlock r b s).time = s.time ∧ (formBlock r b s).ref = s.ref ∧
    (formBlock r b s).clk = s.clk ∧ (formBlock r b s).spans = s.spans ∧ (formBlock r b s).front = s.front ∧ (formBlock r b s).taps = s.taps ∧
    (formBlock r b s).lanes = s.lanes ∧ (formBlock r b s).ofdm = s.ofdm ∧ (formBlock r b s).audio = s.audio ∧ (formBlock r b s).ports = s.ports ∧
    (formBlock r b s).cfg = s.cfg ∧ (formBlock r b s).cal = s.cal ∧ (formBlock r b s).mon = s.mon ∧ (formBlock r b s).integ = s.integ ∧
    (formBlock r b s).mode = s.mode ∧ (formBlock r b s).domains = s.domains ∧ (formBlock r b s).mb = s.mb ∧ (formBlock r b s).sec = s.sec ∧
    (formBlock r b s).nv = s.nv ∧ (formBlock r b s).freeCount = s.freeCount ∧ (formBlock r b s).pending = s.pending :=
  have h := formBlock_only r b s
  ⟨h .part rfl, h .pins rfl, h .time rfl, h .ref rfl, h .clk rfl, h .spans rfl, h .front rfl, h .taps rfl, h .lanes rfl, h .ofdm rfl, h .audio rfl, h .ports rfl, h .cfg rfl, h .cal rfl, h .mon rfl, h .integ rfl, h .mode rfl, h .domains rfl, h .mb rfl, h .sec rfl, h .nv rfl, h .freeCount rfl, h .pending rfl⟩

@[simp] theorem formRouted_keeps (cls : DelClass) (sel : RouteEntry → Bool) (b : BlockIn) (s : State) :
    (formRouted cls sel b s).part = s.part ∧ (formRouted cls sel b s).pins = s.pins ∧ (formRouted cls sel b s).time = s.time ∧ (formRouted cls sel b s).ref = s.ref ∧
    (formRouted cls sel b s).clk = s.clk ∧ (formRouted cls sel b s).spans = s.spans ∧ (formRouted cls sel b s).front = s.front ∧ (formRouted cls sel b s).taps = s.taps ∧
    (formRouted cls sel b s).lanes = s.lanes ∧ (formRouted cls sel b s).ofdm = s.ofdm ∧ (formRouted cls sel b s).audio = s.audio ∧ (formRouted cls sel b s).ports = s.ports ∧
    (formRouted cls sel b s).cfg = s.cfg ∧ (formRouted cls sel b s).cal = s.cal ∧ (formRouted cls sel b s).mon = s.mon ∧ (formRouted cls sel b s).integ = s.integ ∧
    (formRouted cls sel b s).mode = s.mode ∧ (formRouted cls sel b s).domains = s.domains ∧ (formRouted cls sel b s).mb = s.mb ∧ (formRouted cls sel b s).sec = s.sec ∧
    (formRouted cls sel b s).nv = s.nv ∧ (formRouted cls sel b s).freeCount = s.freeCount ∧ (formRouted cls sel b s).pending = s.pending :=
  have h := formRouted_only cls sel b s
  ⟨h .part rfl, h .pins rfl, h .time rfl, h .ref rfl, h .clk rfl, h .spans rfl, h .front rfl, h .taps rfl, h .lanes rfl, h .ofdm rfl, h .audio rfl, h .ports rfl, h .cfg rfl, h .cal rfl, h .mon rfl, h .integ rfl, h .mode rfl, h .domains rfl, h .mb rfl, h .sec rfl, h .nv rfl, h .freeCount rfl, h .pending rfl⟩

@[simp] theorem formRecordBlocks_keeps (cls : DelClass) (sel : RouteEntry → Bool) (bound : Nat) (recs : List (List Byte)) (b : BlockIn) (s : State) :
    (formRecordBlocks cls sel bound recs b s).part = s.part ∧ (formRecordBlocks cls sel bound recs b s).pins = s.pins ∧ (formRecordBlocks cls sel bound recs b s).time = s.time ∧ (formRecordBlocks cls sel bound recs b s).ref = s.ref ∧
    (formRecordBlocks cls sel bound recs b s).clk = s.clk ∧ (formRecordBlocks cls sel bound recs b s).spans = s.spans ∧ (formRecordBlocks cls sel bound recs b s).front = s.front ∧ (formRecordBlocks cls sel bound recs b s).taps = s.taps ∧
    (formRecordBlocks cls sel bound recs b s).lanes = s.lanes ∧ (formRecordBlocks cls sel bound recs b s).ofdm = s.ofdm ∧ (formRecordBlocks cls sel bound recs b s).audio = s.audio ∧ (formRecordBlocks cls sel bound recs b s).ports = s.ports ∧
    (formRecordBlocks cls sel bound recs b s).cfg = s.cfg ∧ (formRecordBlocks cls sel bound recs b s).cal = s.cal ∧ (formRecordBlocks cls sel bound recs b s).mon = s.mon ∧ (formRecordBlocks cls sel bound recs b s).integ = s.integ ∧
    (formRecordBlocks cls sel bound recs b s).mode = s.mode ∧ (formRecordBlocks cls sel bound recs b s).domains = s.domains ∧ (formRecordBlocks cls sel bound recs b s).mb = s.mb ∧ (formRecordBlocks cls sel bound recs b s).sec = s.sec ∧
    (formRecordBlocks cls sel bound recs b s).nv = s.nv ∧ (formRecordBlocks cls sel bound recs b s).freeCount = s.freeCount ∧ (formRecordBlocks cls sel bound recs b s).pending = s.pending :=
  have h := formRecordBlocks_only cls sel bound recs b s
  ⟨h .part rfl, h .pins rfl, h .time rfl, h .ref rfl, h .clk rfl, h .spans rfl, h .front rfl, h .taps rfl, h .lanes rfl, h .ofdm rfl, h .audio rfl, h .ports rfl, h .cfg rfl, h .cal rfl, h .mon rfl, h .integ rfl, h .mode rfl, h .domains rfl, h .mb rfl, h .sec rfl, h .nv rfl, h .freeCount rfl, h .pending rfl⟩

@[simp] theorem taskDue_keeps (t : Task) (s : State) :
    (taskDue t s).part = s.part ∧ (taskDue t s).pins = s.pins ∧ (taskDue t s).time = s.time ∧ (taskDue t s).ref = s.ref ∧
    (taskDue t s).clk = s.clk ∧ (taskDue t s).spans = s.spans ∧ (taskDue t s).front = s.front ∧ (taskDue t s).taps = s.taps ∧
    (taskDue t s).lanes = s.lanes ∧ (taskDue t s).ofdm = s.ofdm ∧ (taskDue t s).audio = s.audio ∧ (taskDue t s).ports = s.ports ∧
    (taskDue t s).link = s.link ∧ (taskDue t s).cfg = s.cfg ∧ (taskDue t s).cal = s.cal ∧ (taskDue t s).mon = s.mon ∧
    (taskDue t s).mode = s.mode ∧ (taskDue t s).domains = s.domains ∧ (taskDue t s).mb = s.mb ∧ (taskDue t s).sec = s.sec ∧
    (taskDue t s).nv = s.nv ∧ (taskDue t s).freeCount = s.freeCount ∧ (taskDue t s).pending = s.pending :=
  have h := taskDue_only t s
  ⟨h .part rfl, h .pins rfl, h .time rfl, h .ref rfl, h .clk rfl, h .spans rfl, h .front rfl, h .taps rfl, h .lanes rfl, h .ofdm rfl, h .audio rfl, h .ports rfl, h .link rfl, h .cfg rfl, h .cal rfl, h .mon rfl, h .mode rfl, h .domains rfl, h .mb rfl, h .sec rfl, h .nv rfl, h .freeCount rfl, h .pending rfl⟩

@[simp] theorem taskOverdue_keeps (t : Task) (s : State) :
    (taskOverdue t s).part = s.part ∧ (taskOverdue t s).pins = s.pins ∧ (taskOverdue t s).time = s.time ∧ (taskOverdue t s).ref = s.ref ∧
    (taskOverdue t s).clk = s.clk ∧ (taskOverdue t s).spans = s.spans ∧ (taskOverdue t s).front = s.front ∧ (taskOverdue t s).taps = s.taps ∧
    (taskOverdue t s).lanes = s.lanes ∧ (taskOverdue t s).ofdm = s.ofdm ∧ (taskOverdue t s).audio = s.audio ∧ (taskOverdue t s).ports = s.ports ∧
    (taskOverdue t s).cfg = s.cfg ∧ (taskOverdue t s).cal = s.cal ∧ (taskOverdue t s).mon = s.mon ∧ (taskOverdue t s).mode = s.mode ∧
    (taskOverdue t s).domains = s.domains ∧ (taskOverdue t s).mb = s.mb ∧ (taskOverdue t s).nv = s.nv ∧ (taskOverdue t s).freeCount = s.freeCount ∧
    (taskOverdue t s).pending = s.pending :=
  have h := taskOverdue_only t s
  ⟨h .part rfl, h .pins rfl, h .time rfl, h .ref rfl, h .clk rfl, h .spans rfl, h .front rfl, h .taps rfl, h .lanes rfl, h .ofdm rfl, h .audio rfl, h .ports rfl, h .cfg rfl, h .cal rfl, h .mon rfl, h .mode rfl, h .domains rfl, h .mb rfl, h .nv rfl, h .freeCount rfl, h .pending rfl⟩

@[simp] theorem seeUnits_keeps (s : State) :
    (seeUnits s).part = s.part ∧ (seeUnits s).pins = s.pins ∧ (seeUnits s).time = s.time ∧ (seeUnits s).ref = s.ref ∧
    (seeUnits s).clk = s.clk ∧ (seeUnits s).spans = s.spans ∧ (seeUnits s).front = s.front ∧ (seeUnits s).taps = s.taps ∧
    (seeUnits s).lanes = s.lanes ∧ (seeUnits s).ofdm = s.ofdm ∧ (seeUnits s).audio = s.audio ∧ (seeUnits s).ports = s.ports ∧
    (seeUnits s).link = s.link ∧ (seeUnits s).cfg = s.cfg ∧ (seeUnits s).cal = s.cal ∧ (seeUnits s).mon = s.mon ∧
    (seeUnits s).integ = s.integ ∧ (seeUnits s).mode = s.mode ∧ (seeUnits s).domains = s.domains ∧ (seeUnits s).mb = s.mb ∧
    (seeUnits s).nv = s.nv ∧ (seeUnits s).freeCount = s.freeCount ∧ (seeUnits s).pending = s.pending :=
  have h := seeUnits_only s
  ⟨h .part rfl, h .pins rfl, h .time rfl, h .ref rfl, h .clk rfl, h .spans rfl, h .front rfl, h .taps rfl, h .lanes rfl, h .ofdm rfl, h .audio rfl, h .ports rfl, h .link rfl, h .cfg rfl, h .cal rfl, h .mon rfl, h .integ rfl, h .mode rfl, h .domains rfl, h .mb rfl, h .nv rfl, h .freeCount rfl, h .pending rfl⟩

@[simp] theorem takeFront_keeps (src : CmdSrc) (s : State) :
    (takeFront src s).part = s.part ∧ (takeFront src s).pins = s.pins ∧ (takeFront src s).time = s.time ∧ (takeFront src s).ref = s.ref ∧
    (takeFront src s).clk = s.clk ∧ (takeFront src s).spans = s.spans ∧ (takeFront src s).front = s.front ∧ (takeFront src s).taps = s.taps ∧
    (takeFront src s).lanes = s.lanes ∧ (takeFront src s).ofdm = s.ofdm ∧ (takeFront src s).audio = s.audio ∧ (takeFront src s).ports = s.ports ∧
    (takeFront src s).cfg = s.cfg ∧ (takeFront src s).cal = s.cal ∧ (takeFront src s).mon = s.mon ∧ (takeFront src s).integ = s.integ ∧
    (takeFront src s).mode = s.mode ∧ (takeFront src s).domains = s.domains ∧ (takeFront src s).sec = s.sec ∧ (takeFront src s).nv = s.nv ∧
    (takeFront src s).freeCount = s.freeCount ∧ (takeFront src s).pending = s.pending :=
  have h := takeFront_only src s
  ⟨h .part rfl, h .pins rfl, h .time rfl, h .ref rfl, h .clk rfl, h .spans rfl, h .front rfl, h .taps rfl, h .lanes rfl, h .ofdm rfl, h .audio rfl, h .ports rfl, h .cfg rfl, h .cal rfl, h .mon rfl, h .integ rfl, h .mode rfl, h .domains rfl, h .sec rfl, h .nv rfl, h .freeCount rfl, h .pending rfl⟩

@[simp] theorem finish_keeps (src : CmdSrc) (f : Fetched) (st : Status) (result : Nat) (s : State) :
    (finish src f st result s).part = s.part ∧ (finish src f st result s).pins = s.pins ∧ (finish src f st result s).time = s.time ∧ (finish src f st result s).ref = s.ref ∧
    (finish src f st result s).clk = s.clk ∧ (finish src f st result s).spans = s.spans ∧ (finish src f st result s).front = s.front ∧ (finish src f st result s).taps = s.taps ∧
    (finish src f st result s).lanes = s.lanes ∧ (finish src f st result s).ofdm = s.ofdm ∧ (finish src f st result s).audio = s.audio ∧ (finish src f st result s).ports = s.ports ∧
    (finish src f st result s).cfg = s.cfg ∧ (finish src f st result s).cal = s.cal ∧ (finish src f st result s).mon = s.mon ∧ (finish src f st result s).integ = s.integ ∧
    (finish src f st result s).mode = s.mode ∧ (finish src f st result s).domains = s.domains ∧ (finish src f st result s).sec = s.sec ∧ (finish src f st result s).nv = s.nv ∧
    (finish src f st result s).freeCount = s.freeCount ∧ (finish src f st result s).pending = s.pending :=
  have h := finish_only src f st result s
  ⟨h .part rfl, h .pins rfl, h .time rfl, h .ref rfl, h .clk rfl, h .spans rfl, h .front rfl, h .taps rfl, h .lanes rfl, h .ofdm rfl, h .audio rfl, h .ports rfl, h .cfg rfl, h .cal rfl, h .mon rfl, h .integ rfl, h .mode rfl, h .domains rfl, h .sec rfl, h .nv rfl, h .freeCount rfl, h .pending rfl⟩

@[simp] theorem await_keeps (src : CmdSrc) (f : Fetched) (w : Wait) (s : State) :
    (await src f w s).part = s.part ∧ (await src f w s).pins = s.pins ∧ (await src f w s).time = s.time ∧ (await src f w s).ref = s.ref ∧
    (await src f w s).clk = s.clk ∧ (await src f w s).spans = s.spans ∧ (await src f w s).front = s.front ∧ (await src f w s).taps = s.taps ∧
    (await src f w s).lanes = s.lanes ∧ (await src f w s).ofdm = s.ofdm ∧ (await src f w s).audio = s.audio ∧ (await src f w s).ports = s.ports ∧
    (await src f w s).cfg = s.cfg ∧ (await src f w s).cal = s.cal ∧ (await src f w s).mon = s.mon ∧ (await src f w s).integ = s.integ ∧
    (await src f w s).mode = s.mode ∧ (await src f w s).domains = s.domains ∧ (await src f w s).sec = s.sec ∧ (await src f w s).nv = s.nv ∧
    (await src f w s).freeCount = s.freeCount ∧ (await src f w s).pending = s.pending :=
  have h := await_only src f w s
  ⟨h .part rfl, h .pins rfl, h .time rfl, h .ref rfl, h .clk rfl, h .spans rfl, h .front rfl, h .taps rfl, h .lanes rfl, h .ofdm rfl, h .audio rfl, h .ports rfl, h .cfg rfl, h .cal rfl, h .mon rfl, h .integ rfl, h .mode rfl, h .domains rfl, h .sec rfl, h .nv rfl, h .freeCount rfl, h .pending rfl⟩

@[simp] theorem finishOutput_keeps (src : CmdSrc) (f : Fetched) (bytes : List Byte) (s : State) :
    (finishOutput src f bytes s).part = s.part ∧ (finishOutput src f bytes s).pins = s.pins ∧ (finishOutput src f bytes s).time = s.time ∧ (finishOutput src f bytes s).ref = s.ref ∧
    (finishOutput src f bytes s).clk = s.clk ∧ (finishOutput src f bytes s).spans = s.spans ∧ (finishOutput src f bytes s).front = s.front ∧ (finishOutput src f bytes s).taps = s.taps ∧
    (finishOutput src f bytes s).lanes = s.lanes ∧ (finishOutput src f bytes s).ofdm = s.ofdm ∧ (finishOutput src f bytes s).audio = s.audio ∧ (finishOutput src f bytes s).ports = s.ports ∧
    (finishOutput src f bytes s).cfg = s.cfg ∧ (finishOutput src f bytes s).cal = s.cal ∧ (finishOutput src f bytes s).mon = s.mon ∧ (finishOutput src f bytes s).integ = s.integ ∧
    (finishOutput src f bytes s).mode = s.mode ∧ (finishOutput src f bytes s).domains = s.domains ∧ (finishOutput src f bytes s).sec = s.sec ∧ (finishOutput src f bytes s).nv = s.nv ∧
    (finishOutput src f bytes s).freeCount = s.freeCount ∧ (finishOutput src f bytes s).pending = s.pending :=
  have h := finishOutput_only src f bytes s
  ⟨h .part rfl, h .pins rfl, h .time rfl, h .ref rfl, h .clk rfl, h .spans rfl, h .front rfl, h .taps rfl, h .lanes rfl, h .ofdm rfl, h .audio rfl, h .ports rfl, h .cfg rfl, h .cal rfl, h .mon rfl, h .integ rfl, h .mode rfl, h .domains rfl, h .sec rfl, h .nv rfl, h .freeCount rfl, h .pending rfl⟩

@[simp] theorem matchZeroSpans_keeps (e : Nat) (s : State) :
    (matchZeroSpans e s).part = s.part ∧ (matchZeroSpans e s).pins = s.pins ∧ (matchZeroSpans e s).time = s.time ∧ (matchZeroSpans e s).ref = s.ref ∧
    (matchZeroSpans e s).clk = s.clk ∧ (matchZeroSpans e s).spans = s.spans ∧ (matchZeroSpans e s).front = s.front ∧ (matchZeroSpans e s).lanes = s.lanes ∧
    (matchZeroSpans e s).ofdm = s.ofdm ∧ (matchZeroSpans e s).audio = s.audio ∧ (matchZeroSpans e s).ports = s.ports ∧ (matchZeroSpans e s).link = s.link ∧
    (matchZeroSpans e s).cfg = s.cfg ∧ (matchZeroSpans e s).cal = s.cal ∧ (matchZeroSpans e s).mon = s.mon ∧ (matchZeroSpans e s).integ = s.integ ∧
    (matchZeroSpans e s).mode = s.mode ∧ (matchZeroSpans e s).domains = s.domains ∧ (matchZeroSpans e s).mb = s.mb ∧ (matchZeroSpans e s).sec = s.sec ∧
    (matchZeroSpans e s).nv = s.nv ∧ (matchZeroSpans e s).freeCount = s.freeCount ∧ (matchZeroSpans e s).pending = s.pending :=
  have h := matchZeroSpans_only e s
  ⟨h .part rfl, h .pins rfl, h .time rfl, h .ref rfl, h .clk rfl, h .spans rfl, h .front rfl, h .lanes rfl, h .ofdm rfl, h .audio rfl, h .ports rfl, h .link rfl, h .cfg rfl, h .cal rfl, h .mon rfl, h .integ rfl, h .mode rfl, h .domains rfl, h .mb rfl, h .sec rfl, h .nv rfl, h .freeCount rfl, h .pending rfl⟩

@[simp] theorem bandTapInstant_keeps (e : Nat) (c : Nat) (s : State) :
    (bandTapInstant e c s).part = s.part ∧ (bandTapInstant e c s).pins = s.pins ∧ (bandTapInstant e c s).time = s.time ∧ (bandTapInstant e c s).ref = s.ref ∧
    (bandTapInstant e c s).clk = s.clk ∧ (bandTapInstant e c s).spans = s.spans ∧ (bandTapInstant e c s).front = s.front ∧ (bandTapInstant e c s).lanes = s.lanes ∧
    (bandTapInstant e c s).ofdm = s.ofdm ∧ (bandTapInstant e c s).audio = s.audio ∧ (bandTapInstant e c s).ports = s.ports ∧ (bandTapInstant e c s).link = s.link ∧
    (bandTapInstant e c s).cfg = s.cfg ∧ (bandTapInstant e c s).cal = s.cal ∧ (bandTapInstant e c s).mon = s.mon ∧ (bandTapInstant e c s).integ = s.integ ∧
    (bandTapInstant e c s).mode = s.mode ∧ (bandTapInstant e c s).domains = s.domains ∧ (bandTapInstant e c s).mb = s.mb ∧ (bandTapInstant e c s).sec = s.sec ∧
    (bandTapInstant e c s).nv = s.nv ∧ (bandTapInstant e c s).freeCount = s.freeCount ∧ (bandTapInstant e c s).pending = s.pending :=
  have h := bandTapInstant_only e c s
  ⟨h .part rfl, h .pins rfl, h .time rfl, h .ref rfl, h .clk rfl, h .spans rfl, h .front rfl, h .lanes rfl, h .ofdm rfl, h .audio rfl, h .ports rfl, h .link rfl, h .cfg rfl, h .cal rfl, h .mon rfl, h .integ rfl, h .mode rfl, h .domains rfl, h .mb rfl, h .sec rfl, h .nv rfl, h .freeCount rfl, h .pending rfl⟩

@[simp] theorem dieInstant_keeps (e d : Nat) (s : State) :
    (dieInstant e d s).part = s.part ∧ (dieInstant e d s).pins = s.pins ∧ (dieInstant e d s).time = s.time ∧ (dieInstant e d s).ref = s.ref ∧
    (dieInstant e d s).clk = s.clk ∧ (dieInstant e d s).spans = s.spans ∧ (dieInstant e d s).front = s.front ∧ (dieInstant e d s).lanes = s.lanes ∧
    (dieInstant e d s).ofdm = s.ofdm ∧ (dieInstant e d s).audio = s.audio ∧ (dieInstant e d s).ports = s.ports ∧ (dieInstant e d s).link = s.link ∧
    (dieInstant e d s).cfg = s.cfg ∧ (dieInstant e d s).cal = s.cal ∧ (dieInstant e d s).mon = s.mon ∧ (dieInstant e d s).integ = s.integ ∧
    (dieInstant e d s).mode = s.mode ∧ (dieInstant e d s).domains = s.domains ∧ (dieInstant e d s).mb = s.mb ∧ (dieInstant e d s).sec = s.sec ∧
    (dieInstant e d s).nv = s.nv ∧ (dieInstant e d s).freeCount = s.freeCount ∧ (dieInstant e d s).pending = s.pending :=
  have h := dieInstant_only e d s
  ⟨h .part rfl, h .pins rfl, h .time rfl, h .ref rfl, h .clk rfl, h .spans rfl, h .front rfl, h .lanes rfl, h .ofdm rfl, h .audio rfl, h .ports rfl, h .link rfl, h .cfg rfl, h .cal rfl, h .mon rfl, h .integ rfl, h .mode rfl, h .domains rfl, h .mb rfl, h .sec rfl, h .nv rfl, h .freeCount rfl, h .pending rfl⟩

@[simp] theorem zeroCourse_keeps (j : Nat) (s : State) :
    (zeroCourse j s).part = s.part ∧ (zeroCourse j s).pins = s.pins ∧ (zeroCourse j s).time = s.time ∧ (zeroCourse j s).ref = s.ref ∧
    (zeroCourse j s).clk = s.clk ∧ (zeroCourse j s).spans = s.spans ∧ (zeroCourse j s).lanes = s.lanes ∧ (zeroCourse j s).ofdm = s.ofdm ∧
    (zeroCourse j s).audio = s.audio ∧ (zeroCourse j s).ports = s.ports ∧ (zeroCourse j s).link = s.link ∧ (zeroCourse j s).cfg = s.cfg ∧
    (zeroCourse j s).cal = s.cal ∧ (zeroCourse j s).mon = s.mon ∧ (zeroCourse j s).integ = s.integ ∧ (zeroCourse j s).mode = s.mode ∧
    (zeroCourse j s).domains = s.domains ∧ (zeroCourse j s).mb = s.mb ∧ (zeroCourse j s).sec = s.sec ∧ (zeroCourse j s).nv = s.nv ∧
    (zeroCourse j s).freeCount = s.freeCount ∧ (zeroCourse j s).pending = s.pending :=
  have h := zeroCourse_only j s
  ⟨h .part rfl, h .pins rfl, h .time rfl, h .ref rfl, h .clk rfl, h .spans rfl, h .lanes rfl, h .ofdm rfl, h .audio rfl, h .ports rfl, h .link rfl, h .cfg rfl, h .cal rfl, h .mon rfl, h .integ rfl, h .mode rfl, h .domains rfl, h .mb rfl, h .sec rfl, h .nv rfl, h .freeCount rfl, h .pending rfl⟩

@[simp] theorem unzeroCourse_keeps (j e : Nat) (s : State) :
    (unzeroCourse j e s).part = s.part ∧ (unzeroCourse j e s).pins = s.pins ∧ (unzeroCourse j e s).time = s.time ∧ (unzeroCourse j e s).ref = s.ref ∧
    (unzeroCourse j e s).clk = s.clk ∧ (unzeroCourse j e s).spans = s.spans ∧ (unzeroCourse j e s).lanes = s.lanes ∧ (unzeroCourse j e s).ofdm = s.ofdm ∧
    (unzeroCourse j e s).audio = s.audio ∧ (unzeroCourse j e s).ports = s.ports ∧ (unzeroCourse j e s).link = s.link ∧ (unzeroCourse j e s).cfg = s.cfg ∧
    (unzeroCourse j e s).cal = s.cal ∧ (unzeroCourse j e s).mon = s.mon ∧ (unzeroCourse j e s).integ = s.integ ∧ (unzeroCourse j e s).mode = s.mode ∧
    (unzeroCourse j e s).domains = s.domains ∧ (unzeroCourse j e s).mb = s.mb ∧ (unzeroCourse j e s).sec = s.sec ∧ (unzeroCourse j e s).nv = s.nv ∧
    (unzeroCourse j e s).freeCount = s.freeCount ∧ (unzeroCourse j e s).pending = s.pending :=
  have h := unzeroCourse_only j e s
  ⟨h .part rfl, h .pins rfl, h .time rfl, h .ref rfl, h .clk rfl, h .spans rfl, h .lanes rfl, h .ofdm rfl, h .audio rfl, h .ports rfl, h .link rfl, h .cfg rfl, h .cal rfl, h .mon rfl, h .integ rfl, h .mode rfl, h .domains rfl, h .mb rfl, h .sec rfl, h .nv rfl, h .freeCount rfl, h .pending rfl⟩

@[simp] theorem endLevelStep_keeps (n : Nat) (s : State) :
    (endLevelStep n s).part = s.part ∧ (endLevelStep n s).pins = s.pins ∧ (endLevelStep n s).time = s.time ∧ (endLevelStep n s).ref = s.ref ∧
    (endLevelStep n s).clk = s.clk ∧ (endLevelStep n s).spans = s.spans ∧ (endLevelStep n s).ofdm = s.ofdm ∧ (endLevelStep n s).audio = s.audio ∧
    (endLevelStep n s).ports = s.ports ∧ (endLevelStep n s).cfg = s.cfg ∧ (endLevelStep n s).mon = s.mon ∧ (endLevelStep n s).mode = s.mode ∧
    (endLevelStep n s).domains = s.domains ∧ (endLevelStep n s).nv = s.nv ∧ (endLevelStep n s).freeCount = s.freeCount ∧ (endLevelStep n s).pending = s.pending :=
  have h := endLevelStep_only n s
  ⟨h .part rfl, h .pins rfl, h .time rfl, h .ref rfl, h .clk rfl, h .spans rfl, h .ofdm rfl, h .audio rfl, h .ports rfl, h .cfg rfl, h .mon rfl, h .mode rfl, h .domains rfl, h .nv rfl, h .freeCount rfl, h .pending rfl⟩

@[simp] theorem endStepsOfDie_keeps (d : Nat) (s : State) :
    (endStepsOfDie d s).part = s.part ∧ (endStepsOfDie d s).pins = s.pins ∧ (endStepsOfDie d s).time = s.time ∧ (endStepsOfDie d s).ref = s.ref ∧
    (endStepsOfDie d s).clk = s.clk ∧ (endStepsOfDie d s).spans = s.spans ∧ (endStepsOfDie d s).ofdm = s.ofdm ∧ (endStepsOfDie d s).audio = s.audio ∧
    (endStepsOfDie d s).ports = s.ports ∧ (endStepsOfDie d s).cfg = s.cfg ∧ (endStepsOfDie d s).mon = s.mon ∧ (endStepsOfDie d s).mode = s.mode ∧
    (endStepsOfDie d s).domains = s.domains ∧ (endStepsOfDie d s).nv = s.nv ∧ (endStepsOfDie d s).freeCount = s.freeCount ∧ (endStepsOfDie d s).pending = s.pending :=
  have h := endStepsOfDie_only d s
  ⟨h .part rfl, h .pins rfl, h .time rfl, h .ref rfl, h .clk rfl, h .spans rfl, h .ofdm rfl, h .audio rfl, h .ports rfl, h .cfg rfl, h .mon rfl, h .mode rfl, h .domains rfl, h .nv rfl, h .freeCount rfl, h .pending rfl⟩

@[simp] theorem portsToFollower_keeps (d : Nat) (s : State) :
    (portsToFollower d s).part = s.part ∧ (portsToFollower d s).pins = s.pins ∧ (portsToFollower d s).time = s.time ∧ (portsToFollower d s).ref = s.ref ∧
    (portsToFollower d s).clk = s.clk ∧ (portsToFollower d s).spans = s.spans ∧ (portsToFollower d s).front = s.front ∧ (portsToFollower d s).taps = s.taps ∧
    (portsToFollower d s).lanes = s.lanes ∧ (portsToFollower d s).ofdm = s.ofdm ∧ (portsToFollower d s).audio = s.audio ∧ (portsToFollower d s).link = s.link ∧
    (portsToFollower d s).cfg = s.cfg ∧ (portsToFollower d s).cal = s.cal ∧ (portsToFollower d s).mon = s.mon ∧ (portsToFollower d s).integ = s.integ ∧
    (portsToFollower d s).mode = s.mode ∧ (portsToFollower d s).domains = s.domains ∧ (portsToFollower d s).mb = s.mb ∧ (portsToFollower d s).sec = s.sec ∧
    (portsToFollower d s).nv = s.nv ∧ (portsToFollower d s).freeCount = s.freeCount ∧ (portsToFollower d s).pending = s.pending :=
  have h := portsToFollower_only d s
  ⟨h .part rfl, h .pins rfl, h .time rfl, h .ref rfl, h .clk rfl, h .spans rfl, h .front rfl, h .taps rfl, h .lanes rfl, h .ofdm rfl, h .audio rfl, h .link rfl, h .cfg rfl, h .cal rfl, h .mon rfl, h .integ rfl, h .mode rfl, h .domains rfl, h .mb rfl, h .sec rfl, h .nv rfl, h .freeCount rfl, h .pending rfl⟩

@[simp] theorem abortWaits_keeps (p : Wait → Bool) (s : State) :
    (abortWaits p s).part = s.part ∧ (abortWaits p s).pins = s.pins ∧ (abortWaits p s).time = s.time ∧ (abortWaits p s).ref = s.ref ∧
    (abortWaits p s).clk = s.clk ∧ (abortWaits p s).spans = s.spans ∧ (abortWaits p s).front = s.front ∧ (abortWaits p s).taps = s.taps ∧
    (abortWaits p s).lanes = s.lanes ∧ (abortWaits p s).ofdm = s.ofdm ∧ (abortWaits p s).audio = s.audio ∧ (abortWaits p s).ports = s.ports ∧
    (abortWaits p s).cfg = s.cfg ∧ (abortWaits p s).cal = s.cal ∧ (abortWaits p s).mon = s.mon ∧ (abortWaits p s).integ = s.integ ∧
    (abortWaits p s).mode = s.mode ∧ (abortWaits p s).domains = s.domains ∧ (abortWaits p s).sec = s.sec ∧ (abortWaits p s).nv = s.nv ∧
    (abortWaits p s).freeCount = s.freeCount ∧ (abortWaits p s).pending = s.pending :=
  have h := abortWaits_only p s
  ⟨h .part rfl, h .pins rfl, h .time rfl, h .ref rfl, h .clk rfl, h .spans rfl, h .front rfl, h .taps rfl, h .lanes rfl, h .ofdm rfl, h .audio rfl, h .ports rfl, h .cfg rfl, h .cal rfl, h .mon rfl, h .integ rfl, h .mode rfl, h .domains rfl, h .sec rfl, h .nv rfl, h .freeCount rfl, h .pending rfl⟩

@[simp] theorem countUnlock_keeps (d : Nat) (l : DieLoop) (s : State) :
    (countUnlock d l s).part = s.part ∧ (countUnlock d l s).pins = s.pins ∧ (countUnlock d l s).time = s.time ∧ (countUnlock d l s).ref = s.ref ∧
    (countUnlock d l s).spans = s.spans ∧ (countUnlock d l s).front = s.front ∧ (countUnlock d l s).taps = s.taps ∧ (countUnlock d l s).lanes = s.lanes ∧
    (countUnlock d l s).ofdm = s.ofdm ∧ (countUnlock d l s).audio = s.audio ∧ (countUnlock d l s).ports = s.ports ∧ (countUnlock d l s).cfg = s.cfg ∧
    (countUnlock d l s).cal = s.cal ∧ (countUnlock d l s).mon = s.mon ∧ (countUnlock d l s).mode = s.mode ∧ (countUnlock d l s).domains = s.domains ∧
    (countUnlock d l s).mb = s.mb ∧ (countUnlock d l s).nv = s.nv ∧ (countUnlock d l s).freeCount = s.freeCount ∧ (countUnlock d l s).pending = s.pending :=
  have h := countUnlock_only d l s
  ⟨h .part rfl, h .pins rfl, h .time rfl, h .ref rfl, h .spans rfl, h .front rfl, h .taps rfl, h .lanes rfl, h .ofdm rfl, h .audio rfl, h .ports rfl, h .cfg rfl, h .cal rfl, h .mon rfl, h .mode rfl, h .domains rfl, h .mb rfl, h .nv rfl, h .freeCount rfl, h .pending rfl⟩

@[simp] theorem domainOn_keeps (d bit : Nat) (s : State) :
    (domainOn d bit s).part = s.part ∧ (domainOn d bit s).pins = s.pins ∧ (domainOn d bit s).time = s.time ∧ (domainOn d bit s).ref = s.ref ∧
    (domainOn d bit s).clk = s.clk ∧ (domainOn d bit s).spans = s.spans ∧ (domainOn d bit s).front = s.front ∧ (domainOn d bit s).taps = s.taps ∧
    (domainOn d bit s).lanes = s.lanes ∧ (domainOn d bit s).ofdm = s.ofdm ∧ (domainOn d bit s).audio = s.audio ∧ (domainOn d bit s).ports = s.ports ∧
    (domainOn d bit s).link = s.link ∧ (domainOn d bit s).cfg = s.cfg ∧ (domainOn d bit s).cal = s.cal ∧ (domainOn d bit s).mon = s.mon ∧
    (domainOn d bit s).integ = s.integ ∧ (domainOn d bit s).mode = s.mode ∧ (domainOn d bit s).mb = s.mb ∧ (domainOn d bit s).sec = s.sec ∧
    (domainOn d bit s).nv = s.nv ∧ (domainOn d bit s).freeCount = s.freeCount ∧ (domainOn d bit s).pending = s.pending :=
  have h := domainOn_only d bit s
  ⟨h .part rfl, h .pins rfl, h .time rfl, h .ref rfl, h .clk rfl, h .spans rfl, h .front rfl, h .taps rfl, h .lanes rfl, h .ofdm rfl, h .audio rfl, h .ports rfl, h .link rfl, h .cfg rfl, h .cal rfl, h .mon rfl, h .integ rfl, h .mode rfl, h .mb rfl, h .sec rfl, h .nv rfl, h .freeCount rfl, h .pending rfl⟩

@[simp] theorem domainOff_keeps (d bit : Nat) (s : State) :
    (domainOff d bit s).part = s.part ∧ (domainOff d bit s).pins = s.pins ∧ (domainOff d bit s).time = s.time ∧ (domainOff d bit s).ref = s.ref ∧
    (domainOff d bit s).front = s.front ∧ (domainOff d bit s).taps = s.taps ∧ (domainOff d bit s).lanes = s.lanes ∧ (domainOff d bit s).ofdm = s.ofdm ∧
    (domainOff d bit s).audio = s.audio ∧ (domainOff d bit s).ports = s.ports ∧ (domainOff d bit s).link = s.link ∧ (domainOff d bit s).cfg = s.cfg ∧
    (domainOff d bit s).cal = s.cal ∧ (domainOff d bit s).mon = s.mon ∧ (domainOff d bit s).integ = s.integ ∧ (domainOff d bit s).mode = s.mode ∧
    (domainOff d bit s).mb = s.mb ∧ (domainOff d bit s).sec = s.sec ∧ (domainOff d bit s).nv = s.nv ∧ (domainOff d bit s).freeCount = s.freeCount ∧
    (domainOff d bit s).pending = s.pending :=
  have h := domainOff_only d bit s
  ⟨h .part rfl, h .pins rfl, h .time rfl, h .ref rfl, h .front rfl, h .taps rfl, h .lanes rfl, h .ofdm rfl, h .audio rfl, h .ports rfl, h .link rfl, h .cfg rfl, h .cal rfl, h .mon rfl, h .integ rfl, h .mode rfl, h .mb rfl, h .sec rfl, h .nv rfl, h .freeCount rfl, h .pending rfl⟩

@[simp] theorem applyDomains_keeps (need : State → Nat → Nat) (s : State) :
    (applyDomains need s).part = s.part ∧ (applyDomains need s).pins = s.pins ∧ (applyDomains need s).time = s.time ∧ (applyDomains need s).ref = s.ref ∧
    (applyDomains need s).front = s.front ∧ (applyDomains need s).taps = s.taps ∧ (applyDomains need s).lanes = s.lanes ∧ (applyDomains need s).ofdm = s.ofdm ∧
    (applyDomains need s).audio = s.audio ∧ (applyDomains need s).ports = s.ports ∧ (applyDomains need s).link = s.link ∧ (applyDomains need s).cfg = s.cfg ∧
    (applyDomains need s).cal = s.cal ∧ (applyDomains need s).mon = s.mon ∧ (applyDomains need s).integ = s.integ ∧ (applyDomains need s).mode = s.mode ∧
    (applyDomains need s).mb = s.mb ∧ (applyDomains need s).sec = s.sec ∧ (applyDomains need s).nv = s.nv ∧ (applyDomains need s).freeCount = s.freeCount ∧
    (applyDomains need s).pending = s.pending :=
  have h := applyDomains_only need s
  ⟨h .part rfl, h .pins rfl, h .time rfl, h .ref rfl, h .front rfl, h .taps rfl, h .lanes rfl, h .ofdm rfl, h .audio rfl, h .ports rfl, h .link rfl, h .cfg rfl, h .cal rfl, h .mon rfl, h .integ rfl, h .mode rfl, h .mb rfl, h .sec rfl, h .nv rfl, h .freeCount rfl, h .pending rfl⟩

@[simp] theorem setAlert_keeps (a : AlertCond) (holds : Bool) (s : State) :
    (setAlert a holds s).part = s.part ∧ (setAlert a holds s).pins = s.pins ∧ (setAlert a holds s).time = s.time ∧ (setAlert a holds s).ref = s.ref ∧
    (setAlert a holds s).clk = s.clk ∧ (setAlert a holds s).spans = s.spans ∧ (setAlert a holds s).front = s.front ∧ (setAlert a holds s).taps = s.taps ∧
    (setAlert a holds s).lanes = s.lanes ∧ (setAlert a holds s).ofdm = s.ofdm ∧ (setAlert a holds s).audio = s.audio ∧ (setAlert a holds s).ports = s.ports ∧
    (setAlert a holds s).cfg = s.cfg ∧ (setAlert a holds s).cal = s.cal ∧ (setAlert a holds s).mon = s.mon ∧ (setAlert a holds s).mb = s.mb ∧
    (setAlert a holds s).nv = s.nv ∧ (setAlert a holds s).freeCount = s.freeCount ∧ (setAlert a holds s).pending = s.pending :=
  have h := setAlert_only a holds s
  ⟨h .part rfl, h .pins rfl, h .time rfl, h .ref rfl, h .clk rfl, h .spans rfl, h .front rfl, h .taps rfl, h .lanes rfl, h .ofdm rfl, h .audio rfl, h .ports rfl, h .cfg rfl, h .cal rfl, h .mon rfl, h .mb rfl, h .nv rfl, h .freeCount rfl, h .pending rfl⟩

@[simp] theorem failConverter_keeps (k : Nat) (cause : ConvCause) (firstMismatch : Nat) (s : State) :
    (failConverter k cause firstMismatch s).part = s.part ∧ (failConverter k cause firstMismatch s).pins = s.pins ∧ (failConverter k cause firstMismatch s).time = s.time ∧ (failConverter k cause firstMismatch s).ref = s.ref ∧
    (failConverter k cause firstMismatch s).clk = s.clk ∧ (failConverter k cause firstMismatch s).lanes = s.lanes ∧ (failConverter k cause firstMismatch s).ofdm = s.ofdm ∧ (failConverter k cause firstMismatch s).audio = s.audio ∧
    (failConverter k cause firstMismatch s).ports = s.ports ∧ (failConverter k cause firstMismatch s).cfg = s.cfg ∧ (failConverter k cause firstMismatch s).mon = s.mon ∧ (failConverter k cause firstMismatch s).nv = s.nv ∧
    (failConverter k cause firstMismatch s).freeCount = s.freeCount ∧ (failConverter k cause firstMismatch s).pending = s.pending :=
  have h := failConverter_only k cause firstMismatch s
  ⟨h .part rfl, h .pins rfl, h .time rfl, h .ref rfl, h .clk rfl, h .lanes rfl, h .ofdm rfl, h .audio rfl, h .ports rfl, h .cfg rfl, h .mon rfl, h .nv rfl, h .freeCount rfl, h .pending rfl⟩

@[simp] theorem fenceDie_keeps (d : Nat) (cause : FenceCause) (ringOk : Bool) (s : State) :
    (fenceDie d cause ringOk s).part = s.part ∧ (fenceDie d cause ringOk s).pins = s.pins ∧ (fenceDie d cause ringOk s).time = s.time ∧ (fenceDie d cause ringOk s).ref = s.ref ∧
    (fenceDie d cause ringOk s).clk = s.clk ∧ (fenceDie d cause ringOk s).ofdm = s.ofdm ∧ (fenceDie d cause ringOk s).audio = s.audio ∧ (fenceDie d cause ringOk s).mon = s.mon ∧
    (fenceDie d cause ringOk s).nv = s.nv ∧ (fenceDie d cause ringOk s).freeCount = s.freeCount ∧ (fenceDie d cause ringOk s).pending = s.pending :=
  have h := fenceDie_only d cause ringOk s
  ⟨h .part rfl, h .pins rfl, h .time rfl, h .ref rfl, h .clk rfl, h .ofdm rfl, h .audio rfl, h .mon rfl, h .nv rfl, h .freeCount rfl, h .pending rfl⟩

@[simp] theorem enterHalted_keeps (cause : Nat) (s : State) :
    (enterHalted cause s).part = s.part ∧ (enterHalted cause s).pins = s.pins ∧ (enterHalted cause s).time = s.time ∧ (enterHalted cause s).ref = s.ref ∧
    (enterHalted cause s).clk = s.clk ∧ (enterHalted cause s).cal = s.cal ∧ (enterHalted cause s).mon = s.mon ∧ (enterHalted cause s).freeCount = s.freeCount ∧
    (enterHalted cause s).pending = s.pending :=
  have h := enterHalted_only cause s
  ⟨h .part rfl, h .pins rfl, h .time rfl, h .ref rfl, h .clk rfl, h .cal rfl, h .mon rfl, h .freeCount rfl, h .pending rfl⟩

@[simp] theorem now_eq_systime (s : State) : s.time.systime.toNat = s.now := rfl

@[simp] theorem setHall_sec (s : State) (f : HallSt → HallSt) : (s.setHall f).sec = { s.sec with hall := f s.sec.hall } := rfl

/-! ### Events -/

@[simp] theorem queueLog_link (ev : Ev) (s : State) : (queueLog ev s).link = s.link := queueLog_only ev s .link rfl

/-- Raising an event puts it at the end of the span's events and counts EVENT_SEQ on. -/
@[simp] theorem raise_link (n : EvName) (o : Nat) (args : List EvArg) (s : State) :
    (raise n o args s).link = { s.link with eventSeq := s.link.eventSeq + 1, events := s.link.events ++ [⟨n, o, s.link.eventSeq, s.now, args⟩] } := by
  unfold raise
  dsimp only
  split
  · rw [queueLog_link]
    rfl
  · rfl

/-- The event just raised is new in a state that the frame joins to the one it is measured from. -/
theorem Raises.raise {as : List Aspect} {s u : State} (h : Only as s u) (he : as.contains .events = false) (ht : as.contains .systime = false)
    (n : EvName) (o : Nat) (args : List EvArg) : Raises s (raise n o args u) n o args := by
  obtain ⟨l, hl⟩ := h .events he
  have hs : u.now = s.now := congrArg BitVec.toNat (h .systime ht)
  exact ⟨l ++ [⟨n, o, u.link.eventSeq, s.now, args⟩], u.link.eventSeq, by simp [← hl, hs], by simp⟩

/-- What has been raised stays raised. -/
theorem Raises.andThen {as : List Aspect} {s t u : State} {n : EvName} {o : Nat} {args : List EvArg} (k : Only as t u)
    (he : as.contains .events = false) (h : Raises s t n o args) : Raises s u n o args := by
  obtain ⟨l, q, hl, hm⟩ := h
  obtain ⟨m, hm'⟩ := k .events he
  exact ⟨l ++ m, q, by rw [← hm', hl, List.append_assoc], List.mem_append_left m hm⟩

end Sys2Proof.Machine
end

