-- ==== Sys2Proof/Laws/Effects.lean ====
section
/-!
SUPPORT. What reporting leaves alone inside the parts that it touches: an event, a change of mode and the refresh of the fault summary.
-/
/- One proof at a time: the default arguments of `Only.ofMk` are tactics, and a proof that runs them beside others waits for those, a thread each. -/
set_option Elab.async false

namespace Sys2Proof.Machine

/-- From `s` to `t` nothing but reporting has happened: events and their numbers, log entries that wait, the fault summary, the mode code, the hallmark record, the spans of the HOLDOVER condition. -/
structure Reports (s t : State) : Prop where
  only : Only [.spans, .link, .integ, .mode, .sec, .modeCode] s t
  integ : t.integ = { s.integ with summary := t.integ.summary, lastChange := t.integ.lastChange, logWaiting := t.integ.logWaiting, codeCounts := t.integ.codeCounts }
  mode : t.mode = { s.mode with mode := t.mode.mode, prev := t.mode.prev }
  sec : t.sec = { s.sec with hall := t.sec.hall }
  link : t.link = { s.link with eventSeq := t.link.eventSeq, events := t.link.events }

theorem Reports.refl (s : State) : Reports s s := ⟨Only.refl _ s, rfl, rfl, rfl, rfl⟩

theorem Reports.trans {s t u : State} (h : Reports s t) (k : Reports t u) : Reports s u where
  only := h.only.trans k.only
  integ := k.integ.trans (by rw [h.integ])
  mode := k.mode.trans (by rw [h.mode])
  sec := k.sec.trans (by rw [h.sec])
  link := k.link.trans (by rw [h.link])

theorem Reports.ite {s t u : State} {c : Prop} [Decidable c] (h : Reports s t) (k : Reports s u) : Reports s (if c then t else u) := by
  split
  · exact h
  · exact k

theorem queueLog_reports (ev : Ev) (s : State) : Reports s (queueLog ev s) := by
  unfold queueLog
  exact Reports.ite ⟨Only.ofMk rfl (Only.refl _ s), rfl, rfl, rfl, rfl⟩ ⟨Only.ofMk rfl (Only.refl _ s), rfl, rfl, rfl, rfl⟩

theorem State.setHall_reports (s : State) (f : HallSt → HallSt) : Reports s (s.setHall f) := ⟨(State.setHall_only s f).mono rfl, rfl, rfl, rfl, rfl⟩

theorem raise_reports (n : EvName) (o : Nat) (args : List EvArg) (s : State) : Reports s (raise n o args s) := by
  have h : ∀ (ev : Ev) (q : W32), Reports s { s with link := { s.link with eventSeq := q, events := s.link.events ++ [ev] } } :=
    fun ev q => ⟨Only.ofMk rfl (Only.refl _ s), rfl, rfl, rfl, rfl⟩
  unfold raise
  dsimp only
  split
  · exact ((h _ _).trans (State.setHall_reports _ _)).trans (queueLog_reports _ _)
  · exact (h _ _).trans (State.setHall_reports _ _)

theorem hallMode_reports (m : OpMode) (s : State) : Reports s (hallMode m s) := by
  unfold hallMode
  exact State.setHall_reports _ _

theorem setMode_reports (m : OpMode) (c : ModeCause) (s : State) : Reports s (setMode m c s) := by
  have h := hallMode_reports m s
  have k : Reports s { hallMode m s with mode := { s.mode with mode := m, prev := s.mode.mode } } := ⟨Only.ofMk rfl (h.only.mono rfl), h.integ, rfl, h.sec, h.link⟩
  unfold setMode
  exact k.trans (raise_reports _ _ _ _)

theorem reconcileMode_reports (s : State) : Reports s (reconcileMode s) := by
  unfold reconcileMode
  exact Reports.ite (setMode_reports _ _ s) (Reports.refl s)

theorem holdSpan_reports (s : State) : Reports s (holdSpan s) := by
  unfold holdSpan
  exact Reports.ite ⟨Only.ofMk rfl (Only.refl _ s), rfl, rfl, rfl, rfl⟩
    (Reports.ite ⟨Only.ofMk rfl (Only.refl _ s), rfl, rfl, rfl, rfl⟩ (Reports.refl s))

theorem summary_reports (s : State) (n k : Nat) : Reports s { s with integ := { s.integ with summary := n, lastChange := k } } :=
  ⟨Only.ofMk rfl (Only.refl _ s), rfl, rfl, rfl, rfl⟩

theorem refresh_reports (s : State) : Reports s (refresh s) := by
  have h := (holdSpan_reports s).trans (reconcileMode_reports (holdSpan s))
  unfold refresh
  dsimp only
  generalize reconcileMode (holdSpan s) = u at h ⊢
  split
  · exact h
  · exact h.trans ((summary_reports _ _ _).trans (raise_reports _ _ _ _))

@[simp] theorem raise_within (n : EvName) (o : Nat) (args : List EvArg) (s : State) :
    (raise n o args s).integ.occs = s.integ.occs ∧ (raise n o args s).integ.rules = s.integ.rules ∧
    (raise n o args s).integ.lastingTotal = s.integ.lastingTotal ∧ (raise n o args s).integ.windowPeak = s.integ.windowPeak ∧
    (raise n o args s).integ.fenced = s.integ.fenced ∧ (raise n o args s).integ.haltCause = s.integ.haltCause ∧ (raise n o args s).integ.dies = s.integ.dies ∧
    (raise n o args s).integ.links = s.integ.links ∧ (raise n o args s).integ.tasks = s.integ.tasks ∧
    (raise n o args s).integ.flashFaults = s.integ.flashFaults ∧ (raise n o args s).integ.exhausted = s.integ.exhausted ∧
    (raise n o args s).integ.selfTest = s.integ.selfTest ∧ (raise n o args s).sec.stage = s.sec.stage ∧ (raise n o args s).sec.tryingB = s.sec.tryingB ∧
    (raise n o args s).sec.triedOther = s.sec.triedOther ∧ (raise n o args s).sec.failReason = s.sec.failReason ∧
    (raise n o args s).sec.runningB = s.sec.runningB ∧ (raise n o args s).sec.fallback = s.sec.fallback ∧ (raise n o args s).sec.fwVersion = s.sec.fwVersion ∧
    (raise n o args s).sec.fwLevel = s.sec.fwLevel ∧ (raise n o args s).sec.fwDigest = s.sec.fwDigest ∧ (raise n o args s).sec.bootedAt = s.sec.bootedAt ∧
    (raise n o args s).sec.debugLevel = s.sec.debugLevel ∧ (raise n o args s).sec.debugAttempts = s.sec.debugAttempts ∧
    (raise n o args s).sec.debugLocked = s.sec.debugLocked ∧ (raise n o args s).sec.challenge = s.sec.challenge ∧
    (raise n o args s).sec.update = s.sec.update := by
  and_intros <;> first | rw [(raise_reports n o args s).integ] | rw [(raise_reports n o args s).sec]

@[simp] theorem setMode_within (m : OpMode) (c : ModeCause) (s : State) :
    (setMode m c s).integ.occs = s.integ.occs ∧ (setMode m c s).integ.rules = s.integ.rules ∧ (setMode m c s).integ.lastingTotal = s.integ.lastingTotal ∧
    (setMode m c s).integ.windowPeak = s.integ.windowPeak ∧ (setMode m c s).integ.fenced = s.integ.fenced ∧
    (setMode m c s).integ.haltCause = s.integ.haltCause ∧ (setMode m c s).integ.dies = s.integ.dies ∧ (setMode m c s).integ.links = s.integ.links ∧
    (setMode m c s).integ.tasks = s.integ.tasks ∧ (setMode m c s).integ.flashFaults = s.integ.flashFaults ∧
    (setMode m c s).integ.exhausted = s.integ.exhausted ∧ (setMode m c s).integ.selfTest = s.integ.selfTest ∧
    (setMode m c s).mode.bootPhase = s.mode.bootPhase ∧ (setMode m c s).mode.change = s.mode.change ∧ (setMode m c s).mode.autoRun = s.mode.autoRun ∧
    (setMode m c s).mode.alertPty31 = s.mode.alertPty31 ∧ (setMode m c s).mode.alertTa = s.mode.alertTa ∧ (setMode m c s).mode.alertDab = s.mode.alertDab ∧
    (setMode m c s).mode.alertDrm = s.mode.alertDrm ∧ (setMode m c s).mode.alertInRun = s.mode.alertInRun ∧ (setMode m c s).mode.alerts = s.mode.alerts ∧
    (setMode m c s).mode.alertLatched = s.mode.alertLatched ∧ (setMode m c s).mode.wakeLatched = s.mode.wakeLatched ∧
    (setMode m c s).mode.lastSource = s.mode.lastSource ∧ (setMode m c s).mode.lastIndex = s.mode.lastIndex ∧
    (setMode m c s).mode.lastPosition = s.mode.lastPosition ∧ (setMode m c s).mode.alertCount = s.mode.alertCount ∧
    (setMode m c s).mode.clocksRun = s.mode.clocksRun ∧ (setMode m c s).mode.lastAccess = s.mode.lastAccess ∧
    (setMode m c s).mode.sleepDetail = s.mode.sleepDetail ∧ (setMode m c s).sec.stage = s.sec.stage ∧ (setMode m c s).sec.tryingB = s.sec.tryingB ∧
    (setMode m c s).sec.triedOther = s.sec.triedOther ∧ (setMode m c s).sec.failReason = s.sec.failReason ∧ (setMode m c s).sec.runningB = s.sec.runningB ∧
    (setMode m c s).sec.fallback = s.sec.fallback ∧ (setMode m c s).sec.fwVersion = s.sec.fwVersion ∧ (setMode m c s).sec.fwLevel = s.sec.fwLevel ∧
    (setMode m c s).sec.fwDigest = s.sec.fwDigest ∧ (setMode m c s).sec.bootedAt = s.sec.bootedAt ∧ (setMode m c s).sec.debugLevel = s.sec.debugLevel ∧
    (setMode m c s).sec.debugAttempts = s.sec.debugAttempts ∧ (setMode m c s).sec.debugLocked = s.sec.debugLocked ∧
    (setMode m c s).sec.challenge = s.sec.challenge ∧ (setMode m c s).sec.update = s.sec.update ∧ (setMode m c s).link.rings = s.link.rings ∧
    (setMode m c s).link.captures = s.link.captures ∧ (setMode m c s).link.pcie = s.link.pcie ∧ (setMode m c s).link.lastEventBlock = s.link.lastEventBlock ∧
    (setMode m c s).link.configGen = s.link.configGen ∧ (setMode m c s).link.swaps = s.link.swaps ∧ (setMode m c s).link.marks = s.link.marks ∧
    (setMode m c s).link.sent = s.link.sent := by
  and_intros <;> first | rw [(setMode_reports m c s).integ] | rw [(setMode_reports m c s).mode] | rw [(setMode_reports m c s).sec] | rw [(setMode_reports m c s).link]

@[simp] theorem reconcileMode_within (s : State) :
    (reconcileMode s).integ.occs = s.integ.occs ∧ (reconcileMode s).integ.rules = s.integ.rules ∧ (reconcileMode s).integ.lastingTotal = s.integ.lastingTotal ∧
    (reconcileMode s).integ.windowPeak = s.integ.windowPeak ∧ (reconcileMode s).integ.fenced = s.integ.fenced ∧
    (reconcileMode s).integ.haltCause = s.integ.haltCause ∧ (reconcileMode s).integ.dies = s.integ.dies ∧ (reconcileMode s).integ.links = s.integ.links ∧
    (reconcileMode s).integ.tasks = s.integ.tasks ∧ (reconcileMode s).integ.flashFaults = s.integ.flashFaults ∧
    (reconcileMode s).integ.exhausted = s.integ.exhausted ∧ (reconcileMode s).integ.selfTest = s.integ.selfTest ∧
    (reconcileMode s).mode.bootPhase = s.mode.bootPhase ∧ (reconcileMode s).mode.change = s.mode.change ∧ (reconcileMode s).mode.autoRun = s.mode.autoRun ∧
    (reconcileMode s).mode.alertPty31 = s.mode.alertPty31 ∧ (reconcileMode s).mode.alertTa = s.mode.alertTa ∧
    (reconcileMode s).mode.alertDab = s.mode.alertDab ∧ (reconcileMode s).mode.alertDrm = s.mode.alertDrm ∧
    (reconcileMode s).mode.alertInRun = s.mode.alertInRun ∧ (reconcileMode s).mode.alerts = s.mode.alerts ∧
    (reconcileMode s).mode.alertLatched = s.mode.alertLatched ∧ (reconcileMode s).mode.wakeLatched = s.mode.wakeLatched ∧
    (reconcileMode s).mode.lastSource = s.mode.lastSource ∧ (reconcileMode s).mode.lastIndex = s.mode.lastIndex ∧
    (reconcileMode s).mode.lastPosition = s.mode.lastPosition ∧ (reconcileMode s).mode.alertCount = s.mode.alertCount ∧
    (reconcileMode s).mode.clocksRun = s.mode.clocksRun ∧ (reconcileMode s).mode.lastAccess = s.mode.lastAccess ∧
    (reconcileMode s).mode.sleepDetail = s.mode.sleepDetail ∧ (reconcileMode s).sec.stage = s.sec.stage ∧ (reconcileMode s).sec.tryingB = s.sec.tryingB ∧
    (reconcileMode s).sec.triedOther = s.sec.triedOther ∧ (reconcileMode s).sec.failReason = s.sec.failReason ∧
    (reconcileMode s).sec.runningB = s.sec.runningB ∧ (reconcileMode s).sec.fallback = s.sec.fallback ∧ (reconcileMode s).sec.fwVersion = s.sec.fwVersion ∧
    (reconcileMode s).sec.fwLevel = s.sec.fwLevel ∧ (reconcileMode s).sec.fwDigest = s.sec.fwDigest ∧ (reconcileMode s).sec.bootedAt = s.sec.bootedAt ∧
    (reconcileMode s).sec.debugLevel = s.sec.debugLevel ∧ (reconcileMode s).sec.debugAttempts = s.sec.debugAttempts ∧
    (reconcileMode s).sec.debugLocked = s.sec.debugLocked ∧ (reconcileMode s).sec.challenge = s.sec.challenge ∧ (reconcileMode s).sec.update = s.sec.update ∧
    (reconcileMode s).link.rings = s.link.rings ∧ (reconcileMode s).link.captures = s.link.captures ∧ (reconcileMode s).link.pcie = s.link.pcie ∧
    (reconcileMode s).link.lastEventBlock = s.link.lastEventBlock ∧ (reconcileMode s).link.configGen = s.link.configGen ∧
    (reconcileMode s).link.swaps = s.link.swaps ∧ (reconcileMode s).link.marks = s.link.marks ∧ (reconcileMode s).link.sent = s.link.sent := by
  and_intros <;> first | rw [(reconcileMode_reports s).integ] | rw [(reconcileMode_reports s).mode] | rw [(reconcileMode_reports s).sec] | rw [(reconcileMode_reports s).link]

@[simp] theorem refresh_within (s : State) :
    (refresh s).integ.occs = s.integ.occs ∧ (refresh s).integ.rules = s.integ.rules ∧ (refresh s).integ.lastingTotal = s.integ.lastingTotal ∧
    (refresh s).integ.windowPeak = s.integ.windowPeak ∧ (refresh s).integ.fenced = s.integ.fenced ∧ (refresh s).integ.haltCause = s.integ.haltCause ∧
    (refresh s).integ.dies = s.integ.dies ∧ (refresh s).integ.links = s.integ.links ∧ (refresh s).integ.tasks = s.integ.tasks ∧
    (refresh s).integ.flashFaults = s.integ.flashFaults ∧ (refresh s).integ.exhausted = s.integ.exhausted ∧ (refresh s).integ.selfTest = s.integ.selfTest ∧
    (refresh s).mode.bootPhase = s.mode.bootPhase ∧ (refresh s).mode.change = s.mode.change ∧ (refresh s).mode.autoRun = s.mode.autoRun ∧
    (refresh s).mode.alertPty31 = s.mode.alertPty31 ∧ (refresh s).mode.alertTa = s.mode.alertTa ∧ (refresh s).mode.alertDab = s.mode.alertDab ∧
    (refresh s).mode.alertDrm = s.mode.alertDrm ∧ (refresh s).mode.alertInRun = s.mode.alertInRun ∧ (refresh s).mode.alerts = s.mode.alerts ∧
    (refresh s).mode.alertLatched = s.mode.alertLatched ∧ (refresh s).mode.wakeLatched = s.mode.wakeLatched ∧ (refresh s).mode.lastSource = s.mode.lastSource ∧
    (refresh s).mode.lastIndex = s.mode.lastIndex ∧ (refresh s).mode.lastPosition = s.mode.lastPosition ∧ (refresh s).mode.alertCount = s.mode.alertCount ∧
    (refresh s).mode.clocksRun = s.mode.clocksRun ∧ (refresh s).mode.lastAccess = s.mode.lastAccess ∧ (refresh s).mode.sleepDetail = s.mode.sleepDetail ∧
    (refresh s).sec.stage = s.sec.stage ∧ (refresh s).sec.tryingB = s.sec.tryingB ∧ (refresh s).sec.triedOther = s.sec.triedOther ∧
    (refresh s).sec.failReason = s.sec.failReason ∧ (refresh s).sec.runningB = s.sec.runningB ∧ (refresh s).sec.fallback = s.sec.fallback ∧
    (refresh s).sec.fwVersion = s.sec.fwVersion ∧ (refresh s).sec.fwLevel = s.sec.fwLevel ∧ (refresh s).sec.fwDigest = s.sec.fwDigest ∧
    (refresh s).sec.bootedAt = s.sec.bootedAt ∧ (refresh s).sec.debugLevel = s.sec.debugLevel ∧ (refresh s).sec.debugAttempts = s.sec.debugAttempts ∧
    (refresh s).sec.debugLocked = s.sec.debugLocked ∧ (refresh s).sec.challenge = s.sec.challenge ∧ (refresh s).sec.update = s.sec.update ∧
    (refresh s).link.rings = s.link.rings ∧ (refresh s).link.captures = s.link.captures ∧ (refresh s).link.pcie = s.link.pcie ∧
    (refresh s).link.lastEventBlock = s.link.lastEventBlock ∧ (refresh s).link.configGen = s.link.configGen ∧ (refresh s).link.swaps = s.link.swaps ∧
    (refresh s).link.marks = s.link.marks ∧ (refresh s).link.sent = s.link.sent := by
  and_intros <;> first | rw [(refresh_reports s).integ] | rw [(refresh_reports s).mode] | rw [(refresh_reports s).sec] | rw [(refresh_reports s).link]

@[simp] theorem setMode_mode (m : OpMode) (c : ModeCause) (s : State) : (setMode m c s).mode = { s.mode with mode := m, prev := s.mode.mode } :=
  raise_only _ _ _ _ .mode rfl

/-- What a frame says of the state that the command answers. -/
theorem Frames.only {as : List Aspect} {s t : State} (h : Frames as s (.next t)) : Only as s t := by
  obtain ⟨u, hu, h⟩ := h
  cases hu
  exact h

/-- Outside the reception modes a refresh leaves the mode alone. -/
theorem refresh_mode {s : State} (h : s.mode.mode.reception = false) : (refresh s).mode = s.mode := by
  have hk : (holdSpan s).mode = s.mode := holdSpan_only s .mode rfl
  have hm : (reconcileMode (holdSpan s)).mode = s.mode := by
    unfold reconcileMode
    simp [h]
  unfold refresh
  dsimp only
  split
  · exact hm
  · exact (raise_only _ _ _ _ .mode rfl).trans hm

/-! ### HALTED and fences -/

theorem enterHalted_mode (cause : Nat) (s : State) : (enterHalted cause s).mode.mode = .halted := by
  have hm : ∀ u : State, (setMode .halted .fault u).mode.mode = .halted := fun u => by rw [setMode_mode]
  have hs : ∀ u : State, u.mode.mode = .halted → (stopUnits u).mode.mode = .halted := fun u hu => (stopUnits_only u .modeCode rfl).trans hu
  have ha : ∀ (u : State) (xs : List AlertCond), u.mode.mode = .halted → (xs.foldl (fun acc a => setAlert a false acc) u).mode.mode = .halted :=
    fun u xs hu => (Only.foldl (fun t a => setAlert_only a false t) xs u .modeCode rfl).trans hu
  have hr : ∀ u : State, u.mode.mode = .halted → (refresh u).mode.mode = .halted := fun u hu => by rw [refresh_mode (by rw [hu]; rfl), hu]
  have hi : ∀ (c : Prop) [Decidable c] (u v : State), u.mode.mode = .halted → v.mode.mode = .halted → (if c then u else v).mode.mode = .halted := by
    intro c _ u v hu hv
    split
    · exact hu
    · exact hv
  unfold enterHalted
  split
  · assumption
  · have h := hm (endForHalted cause s)
    generalize setMode .halted .fault (endForHalted cause s) = u at h ⊢
    have hv := hs _ (ha u u.mode.alerts h)
    dsimp only
    generalize stopUnits (u.mode.alerts.foldl (fun acc a => setAlert a false acc) u) = v at hv ⊢
    exact hr _ (hi _ _ _ hv hv)

theorem fenceDie_fenced (d : Nat) (cause : FenceCause) (ringOk : Bool) (s : State) : (fenceDie d cause ringOk s).integ.fenced.contains d = true := by
  unfold fenceDie
  split
  · assumption
  · dsimp only
    refine refresh_only _ .fences rfl d ?_
    refine failConverter_only _ _ _ _ .fences rfl d ?_
    refine failConverter_only _ _ _ _ .fences rfl d ?_
    refine endHop_only _ _ _ .fences rfl d ?_
    refine fencePorts_only _ _ .fences rfl d ?_
    simp

/-! ### Failed converters -/

/-- A converter that has failed is still failed. -/
def FailsKept (s t : State) : Prop := ∀ k, (s.front.convs.get k).failed = true → (t.front.convs.get k).failed = true

theorem FailsKept.of_front {s t : State} (h : t.front.convs = s.front.convs) : FailsKept s t := fun k hk => by rw [h]; exact hk

theorem FailsKept.trans {s t u : State} (h : FailsKept s t) (k : FailsKept t u) : FailsKept s u := fun i hi => k i (h i hi)

theorem State.setConv_failsKept (s : State) (k : Nat) (f : Converter → Converter) (hf : ∀ c, c.failed = true → (f c).failed = true) :
    FailsKept s (s.setConv k f) := fun i hi => by
  show ((s.front.convs.modify k f).get i).failed = true
  rw [Tbl.get_modify]
  split
  · rename_i h
    exact hf _ (h ▸ hi)
  · exact hi

theorem zeroCourse_convs (j : Nat) (s : State) : (zeroCourse j s).front.convs = s.front.convs := by
  unfold zeroCourse
  split
  · rfl
  · dsimp only
    have h : ∀ (n : Nat) (l : List Nat) (u : State), (l.foldl (fun acc c => bandTapSpanOpen n c acc) u).front = u.front := fun n l u =>
      Only.foldl (as := [.taps]) (fun s c => bandTapSpanOpen_only n c s) l u .front rfl
    rw [h]
    rfl

theorem assignExports_convs (s : State) : (assignExports s).front.convs = s.front.convs := congrArg FrontSt.convs (assignExports_only s .front rfl)

theorem powerConv_failsKept (k : Nat) (s : State) : FailsKept s (powerConv k s) := by
  unfold powerConv
  refine FailsKept.trans (FailsKept.of_front (congrArg FrontSt.convs (domainOn_only _ _ _ .front rfl))) (State.setConv_failsKept _ _ _ fun c hc => ?_)
  split <;> exact hc

theorem startOn_failsKept (j x : Nat) (s : State) : FailsKept s (startOn j x s) := by
  refine FailsKept.of_front ?_
  have hz : ∀ (e : Nat) (u : State), (unzeroCourse j e u).front.convs = u.front.convs := by
    intro e u
    unfold unzeroCourse
    split
    · rfl
    · rw [matchZeroSpans_only e _ .front rfl]
      rfl
  have hs : ∀ (e : Nat) (u : State), (supplied j x e u).front.convs = u.front.convs := by
    intro e u
    unfold supplied
    split
    · exact zeroCourse_convs j u
    · exact hz e u
  unfold startOn
  rw [completeWait_only _ _ _ _ .front rfl, hs]
  unfold spliceTo
  rw [assignExports_convs, markCourse_only _ _ _ _ .front rfl]
  rfl

theorem fallBackTo_failsKept (j x : Nat) (cause : ConvCause) (s : State) : FailsKept s (fallBackTo j x cause s) := by
  unfold fallBackTo
  dsimp only
  have h : ∀ u, FailsKept s u → FailsKept s (if (u.front.convs.get (s.convOf j x)).sampling && !(u.front.convs.get (s.convOf j x)).restoring then startOn j x u else u) := by
    intro u hu
    split
    · exact hu.trans (startOn_failsKept j x u)
    · exact hu
  refine h _ ?_
  refine FailsKept.trans (t := powerConv (s.convOf j x) (zeroCourse j s)) ((FailsKept.of_front (zeroCourse_convs j s)).trans (powerConv_failsKept _ _)) (FailsKept.of_front ?_)
  split
  · rw [congrArg FrontSt.convs (taskDue_only _ _ .front rfl), assignExports_convs, congrArg FrontSt.convs (raise_only _ _ _ _ .front rfl)]
    rfl
  · rw [assignExports_convs, congrArg FrontSt.convs (raise_only _ _ _ _ .front rfl)]
    rfl

theorem endAttribution_failsKept (j : Nat) (s : State) : FailsKept s (endAttribution j s) := by
  unfold endAttribution
  split
  · exact FailsKept.of_front rfl
  · dsimp only
    have k : ∀ (u v : State) (n : Nat), FailsKept u v → FailsKept u (if (v.clk.get (n / 2)).hop.phase = .idle || (v.clk.get (n / 2)).hop.phase = .incomplete
        then v.setConv n fun c => { c with rotSuspended := false } else v) := by
      intro u v n h
      split
      · exact h.trans (State.setConv_failsKept _ _ _ fun _ hc => hc)
      · exact h
    exact k _ _ _ (k _ _ _ (FailsKept.of_front rfl))

theorem courseAfterFailure_failsKept (j x : Nat) (cause : ConvCause) (m : Nat) (s : State) : FailsKept s (courseAfterFailure j x cause m s) := by
  refine (endAttribution_failsKept j s).trans ?_
  unfold courseAfterFailure
  dsimp only
  generalize endAttribution j s = s
  split
  · exact FailsKept.of_front rfl
  · split
    · unfold loseCourse
      split
      · exact FailsKept.of_front rfl
      · refine FailsKept.of_front ?_
        rw [congrArg FrontSt.convs (raise_only _ _ _ _ .front rfl), assignExports_convs, zeroCourse_convs]
        rfl
    · split
      · split
        · exact FailsKept.of_front rfl
        · exact fallBackTo_failsKept _ _ _ _
      · split
        · split
          · exact FailsKept.of_front rfl
          · exact fallBackTo_failsKept _ _ _ _
        · exact FailsKept.of_front rfl

theorem failConverter_failsKept (k : Nat) (cause : ConvCause) (m : Nat) (s : State) : FailsKept s (failConverter k cause m s) := by
  unfold failConverter
  split
  · exact FailsKept.of_front rfl
  · dsimp only
    intro i hi
    have h := State.setConv_failsKept s k (fun c => { c with failed := true, sampling := false }) (fun _ _ => rfl) i hi
    simp only [refresh_keeps]
    refine courseAfterFailure_failsKept _ _ _ _ _ i ?_
    simp only [raise_keeps]
    exact h

/-- The converter has failed. -/
theorem failConverter_failed (k : Nat) (cause : ConvCause) (m : Nat) (s : State) : ((failConverter k cause m s).front.convs.get k).failed = true := by
  unfold failConverter
  split
  · assumption
  · dsimp only
    simp only [refresh_keeps]
    refine courseAfterFailure_failsKept _ _ _ _ _ k ?_
    simp only [raise_keeps]
    show ((s.front.convs.modify k _).get k).failed = true
    rw [Tbl.get_modify_self]

/-! ### Events along a command -/

theorem Raises.ite {s t u : State} {n : EvName} {o : Nat} {args : List EvArg} {c : Prop} [Decidable c] (h : Raises s t n o args) (k : Raises s u n o args) :
    Raises s (if c then t else u) n o args := by
  split
  · exact h
  · exact k

theorem Raises.itePos {s t u : State} {n : EvName} {o : Nat} {args : List EvArg} {c : Prop} [Decidable c] (hc : c) (k : Raises s t n o args) :
    Raises s (if c then t else u) n o args := by
  rw [if_pos hc]
  exact k

theorem Raises.iteNeg {s t u : State} {n : EvName} {o : Nat} {args : List EvArg} {c : Prop} [Decidable c] (hc : ¬c) (k : Raises s u n o args) :
    Raises s (if c then t else u) n o args := by
  rw [if_neg hc]
  exact k

/-! ### Retired units -/

theorem retireUnit_retired (u : UnitRef) (s : State) : (retireUnit u s).retired u = true := by
  unfold retireUnit
  by_cases h : s.retired u = true
  · rw [if_pos h]
    exact h
  · rw [if_neg h]
    simp [State.retired]

/-- What is retired stays so in whatever does not lift retirements. -/
theorem Only.retired {as : List Aspect} {s t : State} (h : Only as s t) (he : as.contains .retirement = false) {u : UnitRef} (hu : s.retired u = true) : t.retired u = true :=
  h .retirement he u hu

theorem Only.now {as : List Aspect} {s t : State} (h : Only as s t) (he : as.contains .systime = false) : t.now = s.now :=
  congrArg BitVec.toNat (h .systime he)

/-! ### Answers -/

theorem runCmd_begins {c : Cmd} {src : CmdSrc} {f : Fetched} {buf : Option (List Byte)} {s : State} (h : s.begins c src f buf) (own : Fetched → State → State) :
    runCmd c src buf own s = .next (own f (takeFront src s)) := by
  obtain ⟨h1, h2, h3⟩ := h
  unfold runCmd
  rw [h1]
  dsimp only
  rw [h2, h3, decide_eq_true rfl]
  rfl

theorem runCmd_turnsAway {c : Cmd} {src : CmdSrc} {f : Fetched} {buf : Option (List Byte)} {s : State} {st : Status} {r : Nat} (h : s.turnsAway c src f buf st r)
    (own : Fetched → State → State) : runCmd c src buf own s = .next (finish src f st r (takeFront src s)) := by
  obtain ⟨h1, h2, h3⟩ := h
  unfold runCmd
  rw [h1]
  dsimp only
  rw [h2, h3, decide_eq_true rfl]
  rfl

theorem setRing_sent (s : State) (r : Nat) (f : Ring → Ring) : (s.setRing r f).link.sent = s.link.sent := rfl

theorem Ring.self (s : State) (r : Nat) (f : Ring → Ring) : (s.setRing r f).link.rings.get r = f (s.link.rings.get r) := Tbl.get_modify_self _ _ _

theorem Ring.beside (s : State) (r : Nat) (f : Ring → Ring) {i : Nat} (h : i ≠ r) : (s.setRing r f).link.rings.get i = s.link.rings.get i := Tbl.get_modify_of_ne _ h _

theorem prefix_from {u : State} {l x : List Sent} (h : u.link.sent = l) (p : u.link.sent <+: x) : l <+: x := h ▸ p

theorem signalVector_rings (v : Nat) (s : State) : (signalVector v s).link.rings = s.link.rings := by
  unfold signalVector
  split
  · split <;> rfl
  · rfl

theorem signalVector_sent (v : Nat) (s : State) : s.link.sent <+: (signalVector v s).link.sent := by
  unfold signalVector
  split
  · split
    · exact List.prefix_rfl
    · exact ⟨_, rfl⟩
  · exact List.prefix_rfl

theorem countEntry_sent (r : Nat) (s : State) : s.link.sent <+: (countEntry r s).link.sent := by
  unfold countEntry
  dsimp only
  split
  · exact prefix_from (setRing_sent _ _ _) (signalVector_sent _ _)
  · exact List.prefix_rfl

theorem countEntry_held (r i : Nat) (s : State) : ((countEntry r s).link.rings.get i).held = (s.link.rings.get i).held := by
  unfold countEntry
  dsimp only
  split
  · rw [signalVector_rings]
    by_cases h : i = r
    · subst h; rw [Ring.self]
    · rw [Ring.beside _ _ _ h]
  · by_cases h : i = r
    · subst h; rw [Ring.self]
    · rw [Ring.beside _ _ _ h]

theorem writeCpl_sent (q : Nat) (c : Cpl) (s : State) :
    s.link.sent ++ [.completion q (s.link.rings.get q).devIndex (s.link.rings.get q).phase c] <+: (writeCpl q c s).link.sent := by
  unfold writeCpl
  dsimp only
  refine prefix_from ?_ (countEntry_sent _ _)
  rw [setRing_sent, setRing_sent]
  rfl

theorem writeCpl_held (q : Nat) (c : Cpl) (i : Nat) (s : State) : ((writeCpl q c s).link.rings.get i).held = (s.link.rings.get i).held := by
  have h : ∀ (u : State) r (f : Ring → Ring), (∀ g, (f g).held = g.held) → ((u.setRing r f).link.rings.get i).held = (u.link.rings.get i).held := by
    intro u r f hf
    by_cases hi : i = r
    · subst hi; rw [Ring.self, hf]
    · rw [Ring.beside _ _ _ hi]
  unfold writeCpl
  dsimp only
  rw [countEntry_held, h _ _ _ (by intro g; rfl), h _ _ _ (by intro g; rfl)]
  rfl

theorem postCpl_sent (q : Nat) (c : Cpl) (s : State) : s.link.sent <+: (postCpl q c s).link.sent := by
  unfold postCpl
  dsimp only
  split
  · exact prefix_from (setRing_sent _ _ _) ((List.prefix_append _ _).trans (writeCpl_sent _ _ _))
  · exact List.prefix_rfl

theorem setRing_held (s : State) (r i : Nat) (f : Ring → Ring) (hf : ∀ g, (f g).held = g.held) : ((s.setRing r f).link.rings.get i).held = (s.link.rings.get i).held := by
  by_cases hi : i = r
  · subst hi; rw [Ring.self, hf]
  · rw [Ring.beside _ _ _ hi]

theorem held_from {u : State} {i : Nat} {l x : List Cpl} (h : (u.link.rings.get i).held = l) (p : (u.link.rings.get i).held <+: x) : l <+: x := h ▸ p

theorem postCpl_held (q : Nat) (c : Cpl) (i : Nat) (s : State) : (s.link.rings.get i).held <+: ((postCpl q c s).link.rings.get i).held := by
  have h : ((s.setRing c.ring fun g => { g with cplDue := true }).link.rings.get i).held = (s.link.rings.get i).held := by
    by_cases hi : i = c.ring
    · subst hi; rw [Ring.self]
    · rw [Ring.beside _ _ _ hi]
  unfold postCpl
  dsimp only
  split
  · rw [writeCpl_held, h] <;> exact List.prefix_rfl
  · by_cases hi : i = q
    · subst hi
      rw [Ring.self, h]
      exact List.prefix_append _ _
    · rw [Ring.beside _ _ _ hi, h] <;> exact List.prefix_rfl

theorem completeOne_sent (src : CmdSrc) (d : List Byte) (i : Nat) (st : Status) (res : Nat) (s : State) : s.link.sent <+: (completeOne src d i st res s).link.sent := by
  unfold completeOne
  cases src with
  | ring r =>
    dsimp only
    split
    · exact prefix_from (setRing_sent _ _ _) ((postCpl_sent _ _ _).trans (signalVector_sent _ _))
    · exact prefix_from (setRing_sent _ _ _) (postCpl_sent _ _ _)
  | mailbox => exact List.prefix_rfl

theorem completeOne_held (src : CmdSrc) (d : List Byte) (i : Nat) (st : Status) (res k : Nat) (s : State) :
    (s.link.rings.get k).held <+: ((completeOne src d i st res s).link.rings.get k).held := by
  unfold completeOne
  cases src with
  | ring r =>
    dsimp only
    split
    · rw [signalVector_rings]
      exact held_from (setRing_held _ _ _ _ (by intro g; first | rfl | (split <;> rfl))) (postCpl_held _ _ _ _)
    · exact held_from (setRing_held _ _ _ _ (by intro g; first | rfl | (split <;> rfl))) (postCpl_held _ _ _ _)
  | mailbox => exact List.prefix_rfl

theorem pump_sent (r : Nat) : ∀ n s, s.link.sent <+: (pump r n s).link.sent := by
  intro n
  induction n with
  | zero => intro s; exact List.prefix_rfl
  | succ n ih =>
    intro s
    unfold pump
    dsimp only
    split
    · split
      · exact List.prefix_rfl
      · split
        · exact prefix_from (setRing_sent _ _ _) ((completeOne_sent _ _ _ _ _ _).trans (ih _))
        · split
          · exact prefix_from (setRing_sent _ _ _) ((completeOne_sent _ _ _ _ _ _).trans (ih _))
          · exact List.prefix_rfl
    · exact List.prefix_rfl

theorem pump_held (r k : Nat) : ∀ n s, (s.link.rings.get k).held <+: ((pump r n s).link.rings.get k).held := by
  intro n
  induction n with
  | zero => intro s; exact List.prefix_rfl
  | succ n ih =>
    intro s
    unfold pump
    dsimp only
    split
    · split
      · exact List.prefix_rfl
      · split
        · exact held_from (setRing_held _ _ _ _ (by intro g; rfl)) ((completeOne_held _ _ _ _ _ _ _).trans (ih _))
        · split
          · exact held_from (setRing_held _ _ _ _ (by intro g; rfl)) ((completeOne_held _ _ _ _ _ _ _).trans (ih _))
          · exact List.prefix_rfl
    · exact List.prefix_rfl

/-- What a completion does, once and for all commands: `before` is what has been sent since `s`, and the queue's ring and its completion ring are as in `s`. -/
theorem complete_answered {s u : State} {src : CmdSrc} {f : Fetched} (st : Status) (result : Nat) (before : List Sent) (h16 : ∀ r, src = .ring r → r < 16)
    (hs : u.link.sent = s.link.sent ++ before) (hgs : ∀ r, src = .ring r → (u.link.rings.get r).cq = (s.link.rings.get r).cq)
    (hqs : ∀ r, src = .ring r → u.link.rings.get (16 + (s.link.rings.get r).cq) = s.link.rings.get (16 + (s.link.rings.get r).cq)) :
    Answered s (complete src f.desc f.index st result u) src f st result before := by
  unfold complete Answered
  cases src with
  | mailbox => rfl
  | ring r =>
    dsimp only
    have hr16 := h16 r rfl
    have hg := hgs r rfl
    have hq := hqs r rfl
    have key : ∀ (b : Bool) (v : State), v.link.sent = u.link.sent → (v.link.rings.get (16 + (s.link.rings.get r).cq)) = u.link.rings.get (16 + (s.link.rings.get r).cq) →
        (if ((s.link.rings.get (16 + (s.link.rings.get r).cq)).enable && !(s.link.rings.get (16 + (s.link.rings.get r).cq)).err && (s.link.rings.get (16 + (s.link.rings.get r).cq)).held.isEmpty && !(s.link.rings.get (16 + (s.link.rings.get r).cq)).cqFull) = true then
          s.link.sent ++ before ++ [.completion (16 + (s.link.rings.get r).cq) (s.link.rings.get (16 + (s.link.rings.get r).cq)).devIndex (s.link.rings.get (16 + (s.link.rings.get r).cq)).phase (f.answer (.ring r) st result)]
            <+: (pump r 16 (if b = true then signalVector (u.link.rings.get r).vector (postCpl (16 + (s.link.rings.get r).cq) (f.answer (.ring r) st result) v) else postCpl (16 + (s.link.rings.get r).cq) (f.answer (.ring r) st result) v)).link.sent
        else (s.link.rings.get (16 + (s.link.rings.get r).cq)).held ++ [f.answer (.ring r) st result]
            <+: ((pump r 16 (if b = true then signalVector (u.link.rings.get r).vector (postCpl (16 + (s.link.rings.get r).cq) (f.answer (.ring r) st result) v) else postCpl (16 + (s.link.rings.get r).cq) (f.answer (.ring r) st result) v)).link.rings.get (16 + (s.link.rings.get r).cq)).held
          ∧ s.link.sent ++ before <+: (pump r 16 (if b = true then signalVector (u.link.rings.get r).vector (postCpl (16 + (s.link.rings.get r).cq) (f.answer (.ring r) st result) v) else postCpl (16 + (s.link.rings.get r).cq) (f.answer (.ring r) st result) v)).link.sent) := by
      intro b v hv1 hv2
      generalize hW : (if b = true then signalVector (u.link.rings.get r).vector (postCpl (16 + (s.link.rings.get r).cq) (f.answer (.ring r) st result) v) else postCpl (16 + (s.link.rings.get r).cq) (f.answer (.ring r) st result) v : State) = W
      have hWs : (postCpl (16 + (s.link.rings.get r).cq) (f.answer (.ring r) st result) v).link.sent <+: W.link.sent := by
        rw [← hW]
        cases b
        · exact List.prefix_rfl
        · exact signalVector_sent _ _
      have hWh : (W.link.rings) = (postCpl (16 + (s.link.rings.get r).cq) (f.answer (.ring r) st result) v).link.rings := by
        rw [← hW]
        cases b
        · rfl
        · exact signalVector_rings _ _
      split
      · rename_i hc
        refine List.IsPrefix.trans ?_ (hWs.trans (pump_sent _ _ _))
        unfold postCpl
        dsimp only
        rw [hv2, hq, if_pos hc]
        have hb : ((v.setRing (f.answer (.ring r) st result).ring fun g => { g with cplDue := true }).link.rings.get (16 + (s.link.rings.get r).cq)) = s.link.rings.get (16 + (s.link.rings.get r).cq) := by
          rw [Ring.beside _ _ _ (by show 16 + _ ≠ r; omega), hv2, hq]
        have hw := writeCpl_sent (16 + (s.link.rings.get r).cq) (f.answer (.ring r) st result) (v.setRing (f.answer (.ring r) st result).ring fun g => { g with cplDue := true })
        rw [hb, setRing_sent, hv1, hs] at hw
        exact hw
      · rename_i hc
        constructor
        · refine List.IsPrefix.trans ?_ (pump_held _ _ _ _)
          rw [hWh]
          unfold postCpl
          dsimp only
          rw [hv2, hq, if_neg hc, Ring.self, Ring.beside _ _ _ (by show 16 + _ ≠ r; omega), hv2, hq]
            <;> exact List.prefix_rfl
        · refine List.IsPrefix.trans ?_ ((postCpl_sent _ _ _).trans (hWs.trans (pump_sent _ _ _)))
          rw [hv1, hs] <;> exact List.prefix_rfl
    unfold completeOne
    dsimp only
    rw [hg]
    exact key _ _ (setRing_sent _ _ _) (Ring.beside _ _ _ (by omega))

/-- A command that ends as it begins. -/
theorem finish_answered {s u : State} {src : CmdSrc} {f : Fetched} (st : Status) (result : Nat) (before : List Sent) (h : s.ready src = some f)
    (hs : u.link.sent = s.link.sent ++ before) (hr : u.link.rings = (takeFront src s).link.rings) : Answered s (finish src f st result u) src f st result before := by
  have hr16 : ∀ r, src = .ring r → r < 16 := by
    intro r hsrc
    rw [hsrc] at h
    unfold State.ready at h
    dsimp only at h
    split at h
    · rename_i hc
      simp only [Bool.and_eq_true, isCommandRing, decide_eq_true_eq] at hc
      exact hc.1.1.1.1.2
    · cases h
  unfold finish
  refine complete_answered st result before hr16 hs (fun r hsrc => ?_) (fun r hsrc => ?_)
  · rw [hr, hsrc]
    unfold takeFront
    dsimp only
    rw [Ring.self]
  · rw [hr, hsrc]
    exact Ring.beside s r _ (by have := hr16 r hsrc; omega)

/-- What an output command does as it ends. -/
theorem finishOutput_outputs {s : State} {src : CmdSrc} {f : Fetched} (bytes : List Byte) (h : s.ready src = some f) : Outputs s (finishOutput src f bytes (takeFront src s)) src f bytes := by
  cases src with
  | ring r => exact ⟨finish_answered _ _ _ h rfl rfl, fun h => by cases h⟩
  | mailbox => exact ⟨finish_answered _ _ _ h (List.append_nil _).symm rfl, fun _ => ⟨_, rfl⟩⟩

theorem raise_sent (n : EvName) (o : Nat) (args : List EvArg) (s : State) : (raise n o args s).link.sent = s.link.sent := by
  rw [(raise_reports n o args s).link]

theorem raise_rings (n : EvName) (o : Nat) (args : List EvArg) (s : State) : (raise n o args s).link.rings = s.link.rings := by
  rw [(raise_reports n o args s).link]

theorem await_waits (src : CmdSrc) (f : Fetched) (w : Wait) (s : State) : Waits (await src f w s) src f w := by
  unfold await waitFor Waits
  cases src with
  | ring r => exact congrArg Ring.executing (Ring.self s r _)
  | mailbox => exact ⟨rfl, rfl⟩

/-! ### Which command each constructor runs -/

theorem execNop_runs (src : CmdSrc) : ∃ own, ∀ s, execNop src s = runCmd .nop src none own s := by
  unfold execNop
  exact ⟨_, fun s => rfl⟩

theorem execIdentify_runs (src : CmdSrc) : ∃ own, ∀ s, execIdentify src s = runCmd .identify src none own s := by
  unfold execIdentify
  exact ⟨_, fun s => rfl⟩

theorem execTimeSet_runs (src : CmdSrc) : ∃ own, ∀ s, execTimeSet src s = runCmd .timeSet src none own s := by
  unfold execTimeSet
  exact ⟨_, fun s => rfl⟩

theorem execRealign_runs (src : CmdSrc) : ∃ own, ∀ s, execRealign src s = runCmd .realign src none own s := by
  unfold execRealign
  exact ⟨_, fun s => rfl⟩

theorem execStageLane_runs (src : CmdSrc) : ∃ own, ∀ s, execStageLane src s = runCmd .stageLane src none own s := by
  unfold execStageLane
  exact ⟨_, fun s => rfl⟩

theorem execStageCluster_runs (src : CmdSrc) (buf : Option (List Byte)) : ∃ own, ∀ s, execStageCluster src buf s = runCmd .stageCluster src buf own s := by
  unfold execStageCluster
  exact ⟨_, fun s => rfl⟩

theorem execStageEngine_runs (src : CmdSrc) : ∃ own, ∀ s, execStageEngine src s = runCmd .stageEngine src none own s := by
  unfold execStageEngine
  exact ⟨_, fun s => rfl⟩

theorem execStageSlot_runs (src : CmdSrc) : ∃ own, ∀ s, execStageSlot src s = runCmd .stageSlot src none own s := by
  unfold execStageSlot
  exact ⟨_, fun s => rfl⟩

theorem execStagePort_runs (src : CmdSrc) : ∃ own, ∀ s, execStagePort src s = runCmd .stagePort src none own s := by
  unfold execStagePort
  exact ⟨_, fun s => rfl⟩

theorem execStageFollow_runs (src : CmdSrc) (buf : Option (List Byte)) : ∃ own, ∀ s, execStageFollow src buf s = runCmd .stageFollow src buf own s := by
  unfold execStageFollow
  exact ⟨_, fun s => rfl⟩

theorem execStageBank_runs (src : CmdSrc) (buf : Option (List Byte)) : ∃ own, ∀ s, execStageBank src buf s = runCmd .stageBank src buf own s := by
  unfold execStageBank
  exact ⟨_, fun s => rfl⟩

theorem execStagePlan_runs (src : CmdSrc) (buf : Option (List Byte)) : ∃ own, ∀ s, execStagePlan src buf s = runCmd .stagePlan src buf own s := by
  unfold execStagePlan
  exact ⟨_, fun s => rfl⟩

theorem execStageCopy_runs (src : CmdSrc) : ∃ own, ∀ s, execStageCopy src s = runCmd .stageCopy src none own s := by
  unfold execStageCopy
  exact ⟨_, fun s => rfl⟩

theorem execCommit_runs (src : CmdSrc) : ∃ own, ∀ s, execCommit src s = runCmd .commit src none own s := by
  unfold execCommit
  exact ⟨_, fun s => rfl⟩

theorem execDiscardStage_runs (src : CmdSrc) : ∃ own, ∀ s, execDiscardStage src s = runCmd .discardStage src none own s := by
  unfold execDiscardStage
  exact ⟨_, fun s => rfl⟩

theorem execPortStart_runs (src : CmdSrc) : ∃ own, ∀ s, execPortStart src s = runCmd .portStart src none own s := by
  unfold execPortStart
  exact ⟨_, fun s => rfl⟩

theorem execPortStop_runs (src : CmdSrc) : ∃ own, ∀ s, execPortStop src s = runCmd .portStop src none own s := by
  unfold execPortStop
  exact ⟨_, fun s => rfl⟩

theorem execCaptureStart_runs (src : CmdSrc) : ∃ own, ∀ s, execCaptureStart src s = runCmd .captureStart src none own s := by
  unfold execCaptureStart
  exact ⟨_, fun s => rfl⟩

theorem execCaptureStop_runs (src : CmdSrc) : ∃ own, ∀ s, execCaptureStop src s = runCmd .captureStop src none own s := by
  unfold execCaptureStop
  exact ⟨_, fun s => rfl⟩

theorem execCalStart_runs (src : CmdSrc) : ∃ own, ∀ s, execCalStart src s = runCmd .calStart src none own s := by
  unfold execCalStart
  exact ⟨_, fun s => rfl⟩

theorem execCalQuery_runs (src : CmdSrc) : ∃ own, ∀ s, execCalQuery src s = runCmd .calQuery src none own s := by
  unfold execCalQuery
  exact ⟨_, fun s => rfl⟩

theorem execCalStore_runs (src : CmdSrc) : ∃ own, ∀ s, execCalStore src s = runCmd .calStore src none own s := by
  unfold execCalStore
  exact ⟨_, fun s => rfl⟩

theorem execSyscalStep_runs (src : CmdSrc) (x : Option SyscalMeas) : ∃ own, ∀ s, execSyscalStep src x s = runCmd .syscalStep src none own s := by
  unfold execSyscalStep
  exact ⟨_, fun s => rfl⟩

theorem execMonInject_runs (src : CmdSrc) : ∃ own, ∀ s, execMonInject src s = runCmd .monInject src none own s := by
  unfold execMonInject
  exact ⟨_, fun s => rfl⟩

theorem execMonRead_runs (src : CmdSrc) : ∃ own, ∀ s, execMonRead src s = runCmd .monRead src none own s := by
  unfold execMonRead
  exact ⟨_, fun s => rfl⟩

theorem execFaultQuery_runs (src : CmdSrc) : ∃ own, ∀ s, execFaultQuery src s = runCmd .faultQuery src none own s := by
  unfold execFaultQuery
  exact ⟨_, fun s => rfl⟩

theorem execFaultClear_runs (src : CmdSrc) : ∃ own, ∀ s, execFaultClear src s = runCmd .faultClear src none own s := by
  unfold execFaultClear
  exact ⟨_, fun s => rfl⟩

theorem execUnitRetire_runs (src : CmdSrc) : ∃ own, ∀ s, execUnitRetire src s = runCmd .unitRetire src none own s := by
  unfold execUnitRetire
  exact ⟨_, fun s => rfl⟩

theorem execUnitRestore_runs (src : CmdSrc) (x : Bool) : ∃ own, ∀ s, execUnitRestore src x s = runCmd .unitRestore src none own s := by
  unfold execUnitRestore
  exact ⟨_, fun s => rfl⟩

theorem execModeSet_runs (src : CmdSrc) : ∃ own, ∀ s, execModeSet src s = runCmd .modeSet src none own s := by
  unfold execModeSet
  exact ⟨_, fun s => rfl⟩

theorem execAttest_runs (src : CmdSrc) : ∃ own, ∀ s, execAttest src s = runCmd .attest src none own s := by
  unfold execAttest
  exact ⟨_, fun s => rfl⟩

theorem execHallmarkConfig_runs (src : CmdSrc) : ∃ own, ∀ s, execHallmarkConfig src s = runCmd .hallmarkConfig src none own s := by
  unfold execHallmarkConfig
  exact ⟨_, fun s => rfl⟩

theorem execKeyInfo_runs (src : CmdSrc) : ∃ own, ∀ s, execKeyInfo src s = runCmd .keyInfo src none own s := by
  unfold execKeyInfo
  exact ⟨_, fun s => rfl⟩

theorem execUpdateBegin_runs (src : CmdSrc) : ∃ own, ∀ s, execUpdateBegin src s = runCmd .updateBegin src none own s := by
  unfold execUpdateBegin
  exact ⟨_, fun s => rfl⟩

theorem execUpdateChunk_runs (src : CmdSrc) (buf : Option (List Byte)) (x : Bool) : ∃ own, ∀ s, execUpdateChunk src buf x s = runCmd .updateChunk src buf own s := by
  unfold execUpdateChunk
  exact ⟨_, fun s => rfl⟩

theorem execUpdateFinish_runs (src : CmdSrc) : ∃ own, ∀ s, execUpdateFinish src s = runCmd .updateFinish src none own s := by
  unfold execUpdateFinish
  exact ⟨_, fun s => rfl⟩

theorem execLogRead_runs (src : CmdSrc) : ∃ own, ∀ s, execLogRead src s = runCmd .logRead src none own s := by
  unfold execLogRead
  exact ⟨_, fun s => rfl⟩

theorem commandOf_runs (i : Instr) (c : Cmd) (src : CmdSrc) (buf : Option (List Byte)) (h : commandOf i = some (c, src, buf)) :
    ∃ own, ∀ s, exec i s = runCmd c src buf own s := by
  unfold commandOf at h
  split at h
  · cases h; exact execNop_runs ..
  · cases h; exact execIdentify_runs ..
  · cases h; exact execTimeSet_runs ..
  · cases h; exact execRealign_runs ..
  · cases h; exact execStageLane_runs ..
  · cases h; exact execStageCluster_runs ..
  · cases h; exact execStageEngine_runs ..
  · cases h; exact execStageSlot_runs ..
  · cases h; exact execStagePort_runs ..
  · cases h; exact execStageFollow_runs ..
  · cases h; exact execStageBank_runs ..
  · cases h; exact execStagePlan_runs ..
  · cases h; exact execStageCopy_runs ..
  · cases h; exact execCommit_runs ..
  · cases h; exact execDiscardStage_runs ..
  · cases h; exact execPortStart_runs ..
  · cases h; exact execPortStop_runs ..
  · cases h; exact execCaptureStart_runs ..
  · cases h; exact execCaptureStop_runs ..
  · cases h; exact execCalStart_runs ..
  · cases h; exact execCalQuery_runs ..
  · cases h; exact execCalStore_runs ..
  · cases h; exact execSyscalStep_runs ..
  · cases h; exact execMonInject_runs ..
  · cases h; exact execMonRead_runs ..
  · cases h; exact execFaultQuery_runs ..
  · cases h; exact execFaultClear_runs ..
  · cases h; exact execUnitRetire_runs ..
  · cases h; exact execUnitRestore_runs ..
  · cases h; exact execModeSet_runs ..
  · cases h; exact execAttest_runs ..
  · cases h; exact execHallmarkConfig_runs ..
  · cases h; exact execKeyInfo_runs ..
  · cases h; exact execUpdateBegin_runs ..
  · cases h; exact execUpdateChunk_runs ..
  · cases h; exact execUpdateFinish_runs ..
  · cases h; exact execLogRead_runs ..
  · cases h

end Sys2Proof.Machine
end

