-- ==== Sys2Proof/Laws/OpsReception.lean ====
section
/-!
SUPPORT. What the shared operations do, said once: Ring, queue, clock, front-end, tap, lane and OFDM operations.
-/
namespace Sys2Proof.Machine

theorem formBlock_seq (r : Nat) (b : BlockIn) (s : State) (hm : s.mode.mode ≠ .halted) : ((formBlock r b s).link.rings.get r).sequence = (s.link.rings.get r).sequence + 1 ∧ ((formBlock r b s).link.rings.get r).pcmMask = (s.link.rings.get r).pcmMask ∧ ((formBlock r b s).link.rings.get r).pcmNext = (s.link.rings.get r).pcmNext ∧ ((formBlock r b s).link.rings.get r).pcmDie = (s.link.rings.get r).pcmDie
    ∧ ∀ i, i ≠ r → (formBlock r b s).link.rings.get i = s.link.rings.get i := by
  have hset : ∀ (u : State) (f : Ring → Ring), (u.setRing r f).link.rings.get r = f (u.link.rings.get r) := fun u f => Tbl.get_modify_self _ _ _
  have hne : ∀ (u : State) (f : Ring → Ring) i, i ≠ r → (u.setRing r f).link.rings.get i = u.link.rings.get i := fun u f i hi => Tbl.get_modify_of_ne _ hi _
  unfold formBlock discardBlock
  rw [if_neg hm]
  dsimp only
  split
  · split
    · simp only [hset]
      exact ⟨trivial, trivial, trivial, trivial, fun i hi => by simp only [hne _ _ i hi]⟩
    · simp only [hset]
      exact ⟨trivial, trivial, trivial, trivial, fun i hi => by simp only [hne _ _ i hi]⟩
  · simp only [hset]
    exact ⟨trivial, trivial, trivial, trivial, fun i hi => by simp only [hne _ _ i hi]⟩

theorem foldl_keep {α : Type} (P : State → Prop) (f : State → α → State) (l : List α) (hf : ∀ v a, P v → P (f v a)) : ∀ u, P u → P (l.foldl f u) := by
  induction l with
  | nil => intro u h; exact h
  | cons a l ih => intro u h; exact ih _ (hf u a h)

theorem foldl_raises {α : Type} (n : α → EvName) (o : α → Nat) (args : α → List EvArg) {as : List Aspect} {s : State} (he : as.contains .events = false) (ht : as.contains .systime = false)
     (hl : as.contains .link = true) (hi : as.contains .integ = true) (hsec : as.contains .sec = true) (l : List α) :
    ∀ u, Only as s u → Only as s (l.foldl (fun acc x => raise (n x) (o x) (args x) acc) u) ∧ ∀ a ∈ l, Raises s (l.foldl (fun acc x => raise (n x) (o x) (args x) acc) u) (n a) (o a) (args a) := by
  have hr : ∀ n o a u, Only as s u → Only as s (raise n o a u) := fun n o a u h => h.trans ((raise_only _ _ _ _).mono (by
    simp only [List.contains_eq_mem, List.mem_cons, List.not_mem_nil, or_false, decide_eq_true_eq, List.all_cons, List.all_nil] at *
    simp [hl, hi, hsec]))
  induction l with
  | nil => intro u h; exact ⟨h, fun a ha => absurd ha (by simp)⟩
  | cons a l ih =>
    intro u h
    obtain ⟨h1, h2⟩ := ih (raise (n a) (o a) (args a) u) (hr _ _ _ _ h)
    refine ⟨h1, fun b hb => ?_⟩
    rcases List.mem_cons.mp hb with rfl | hb
    · have h3 := Raises.raise h he ht (n b) (o b) (args b)
      refine Raises.andThen (as := [.link, .integ, .sec]) ?_ rfl h3
      exact Only.foldl (as := [.link, .integ, .sec]) (fun v x => raise_only _ _ _ _) l _
    · exact h2 b hb

theorem takeFront_sent (src s) : (takeFront src s).link.sent = s.link.sent := by cases src <;> rfl

theorem answered_of_begins {c : Cmd} {src : CmdSrc} {f : Fetched} {buf} {s : State} (h : s.begins c src f buf) (st r) (u : State) (hs : u.link.sent = (takeFront src s).link.sent) (hr : u.link.rings = (takeFront src s).link.rings) :
    Answered s (finish src f st r u) src f st r [] :=
  finish_answered st r [] h.1 (by rw [hs, takeFront_sent, List.append_nil]) hr

theorem finish_cfg (src f st r u) : (finish src f st r u).cfg = u.cfg := finish_only src f st r u .cfg rfl

theorem takeFront_cfg (src u) : (takeFront src u).cfg = u.cfg := takeFront_only src u .cfg rfl

theorem await_cfg (src f w u) : (await src f w u).cfg = u.cfg := await_only src f w u .cfg rfl

theorem pump_captures (r) : ∀ n s, (pump r n s).link.captures = s.link.captures := by
  have hw : ∀ v s, (signalVector v s).link.captures = s.link.captures := by
    intro v s; unfold signalVector; split
    · split <;> rfl
    · rfl
  have hr : ∀ (s : State) r f, (s.setRing r f).link.captures = s.link.captures := fun _ _ _ => rfl
  have hc : ∀ r s, (countEntry r s).link.captures = s.link.captures := by
    intro r s; unfold countEntry; dsimp only; split
    · rw [hw, hr]
    · rw [hr]
  have hwc : ∀ q c s, (writeCpl q c s).link.captures = s.link.captures := by
    intro q c s; unfold writeCpl; dsimp only; rw [hc, hr, hr]; rfl
  have hp : ∀ q c s, (postCpl q c s).link.captures = s.link.captures := by
    intro q c s; unfold postCpl; dsimp only; split
    · rw [hwc, hr]
    · rw [hr, hr]
  have ho : ∀ src d i st res s, (completeOne src d i st res s).link.captures = s.link.captures := by
    intro src d i st res s
    unfold completeOne
    cases src with
    | ring r =>
      dsimp only; split
      · rw [hw, hp, hr]
      · rw [hp, hr]
    | mailbox => rfl
  intro n
  induction n with
  | zero => intro s; rfl
  | succ n ih =>
    intro s; unfold pump; dsimp only
    split
    · split
      · rfl
      · split
        · rw [ih, ho, hr]
        · split
          · rw [ih, ho, hr]
          · rfl
    · rfl

theorem complete_captures (src d i st res s) : (complete src d i st res s).link.captures = s.link.captures := by
  have hw : ∀ v s, (signalVector v s).link.captures = s.link.captures := by
    intro v s; unfold signalVector; split
    · split <;> rfl
    · rfl
  have hr : ∀ (s : State) r f, (s.setRing r f).link.captures = s.link.captures := fun _ _ _ => rfl
  have hc : ∀ r s, (countEntry r s).link.captures = s.link.captures := by
    intro r s; unfold countEntry; dsimp only; split
    · rw [hw, hr]
    · rw [hr]
  have hwc : ∀ q c s, (writeCpl q c s).link.captures = s.link.captures := by
    intro q c s; unfold writeCpl; dsimp only; rw [hc, hr, hr]; rfl
  have hp : ∀ q c s, (postCpl q c s).link.captures = s.link.captures := by
    intro q c s; unfold postCpl; dsimp only; split
    · rw [hwc, hr]
    · rw [hr, hr]
  unfold complete completeOne
  cases src with
  | ring r =>
    dsimp only
    rw [pump_captures]
    split
    · rw [hw, hp, hr]
    · rw [hp, hr]
  | mailbox => rfl

theorem raise_captures (n o a s) : (raise n o a s).link.captures = s.link.captures := by
  rw [(raise_reports n o a s).link]

theorem outputs_of_begins {c : Cmd} {src : CmdSrc} {f : Fetched} {buf} {s : State} (h : s.begins c src f buf) {bytes bytes' : List Byte} (e : bytes = bytes') :
    Outputs s (finishOutput src f bytes (takeFront src s)) src f bytes' := by
  subst e
  exact finishOutput_outputs _ h.1

theorem maskBit_testBit (m i : Nat) : maskBit m i = m.testBit i := by
  unfold maskBit
  rw [Nat.testBit_eq_decide_div_mod_eq, Nat.shiftRight_eq_div_pow]
  rfl

theorem maskBit_succ (m i : Nat) : maskBit m (i + 1) = maskBit (m / 2) i := by
  rw [maskBit_testBit, maskBit_testBit, Nat.testBit_succ]

theorem maskBit_le {m : Nat} : ∀ {v : Nat}, maskBit m v = true → 2 ^ v ≤ m := by
  intro v h
  rw [maskBit_testBit] at h
  exact Nat.ge_two_pow_of_testBit h

theorem maskBit_clearBit : ∀ (v m i : Nat), maskBit (clearBit m v) i = (maskBit m i && i != v) := by
  intro v
  induction v with
  | zero =>
    intro m i
    cases i with
    | zero =>
      unfold clearBit maskBit
      simp only [Nat.shiftRight_zero, Nat.pow_zero]
      split <;> simp_all <;> omega
    | succ i =>
      rw [maskBit_succ, maskBit_succ]
      unfold clearBit
      have : (if maskBit m 0 = true then m - 2 ^ 0 else m) / 2 = m / 2 := by
        split
        · rename_i h
          simp only [maskBit, Nat.shiftRight_zero, beq_iff_eq] at h
          simp only [Nat.pow_zero]; omega
        · rfl
      rw [this]; simp
  | succ v ih =>
    intro m i
    have hc : clearBit m (v + 1) = 2 * clearBit (m / 2) v + m % 2 := by
      unfold clearBit
      rw [maskBit_succ]
      split
      · rename_i h
        have := maskBit_le h
        rw [Nat.pow_succ]; omega
      · omega
    cases i with
    | zero => unfold maskBit; rw [hc]; simp only [Nat.shiftRight_zero]; have : (2 * clearBit (m / 2) v + m % 2) % 2 = m % 2 := by omega
              rw [this]; simp
    | succ i =>
      rw [maskBit_succ, hc, maskBit_succ]
      have : (2 * clearBit (m / 2) v + m % 2) / 2 = clearBit (m / 2) v := by omega
      rw [this, ih]; simp

theorem maskBit_or_self (m v : Nat) : maskBit (m ||| 2 ^ v) v = true := by
  rw [maskBit_testBit, Nat.testBit_or, Nat.testBit_two_pow_self, Bool.or_true]

theorem coastRef_ref (s : State) : (coastRef s).ref = { s.ref with locked := false, coasting := true, coastAt := s.now, attempt := none } := by
  unfold coastRef openSuspect; split <;> rfl

theorem openSuspect_clk (x) (s : State) : (openSuspect x s).clk = s.clk := openSuspect_only _ _ .clk rfl

theorem closeSuspect_clk (x) (s : State) : (closeSuspect x s).clk = s.clk := closeSuspect_only _ _ .clk rfl

theorem sampCoastWork_clk (d : Nat) (s : State) : (sampCoastWork d s).clk = s.clk := sampCoastWork_only _ _ .clk rfl

theorem portsToFollower_clk (d : Nat) (s : State) : (portsToFollower d s).clk = s.clk := portsToFollower_only _ _ .clk rfl

theorem setLoop_loop (c : DieClk) (l m : DieLoop) (x : LoopSt) : (c.setLoop l x).loop m = if m = l then x else c.loop m := by
  cases l <;> cases m <;> rfl

theorem coastLoop_clk (d : Nat) (l : DieLoop) (s : State) : (coastLoop d l s).clk = (s.setClk d fun c => c.setLoop l { c.loop l with locked := false, coasting := true, coastAt := s.now, attempt := none }).clk := by
  unfold coastLoop
  dsimp only
  cases l <;> simp only [sampCoastWork_clk, openSuspect_clk, portsToFollower_clk]

theorem setClk_now (s : State) (d : Nat) (f) : (s.setClk d f).now = s.now := rfl

theorem setClk_get (s : State) (d e : Nat) (f) : (s.setClk d f).clk.get e = if e = d then f (s.clk.get d) else s.clk.get e := Tbl.get_modify _ _ _ _

theorem coastLoop_now (d : Nat) (l : DieLoop) (s : State) : (coastLoop d l s).now = s.now := congrArg BitVec.toNat (coastLoop_only d l s .systime rfl)

theorem countUnlock_clk (d e : Nat) (l m : DieLoop) (s : State) : ((countUnlock d l s).clk.get e) = s.clk.get e ∨
    (e = d ∧ (countUnlock d l s).clk.get e = (s.clk.get d).setLoop l { (s.clk.get d).loop l with held := true }) := by
  unfold countUnlock
  dsimp only
  have h : ∀ u : State, (occur 6 (loopRef d l) u).2.clk = u.clk := fun u => occur_only _ _ _ .clk rfl
  split
  · simp only [raise_keeps, setClk_get, h]
    by_cases he : e = d
    · right; subst he; simp
    · left; simp [he]
  · left; simp only [h, raise_keeps]

theorem countUnlock_raises (d : Nat) (l : DieLoop) (s : State) {as : List Aspect} {u : State} (h : Only as s u) (he : as.contains .events = false) (ht : as.contains .systime = false) :
    Raises s (countUnlock d l u) .pllUnlock d [.w d, .w l.code, .q s.now] := by
  have hn : u.now = s.now := congrArg BitVec.toNat (h .systime ht)
  unfold countUnlock
  dsimp only
  rw [hn]
  have h1 : Raises s (raise .pllUnlock d [.w d, .w l.code, .q s.now] u) .pllUnlock d [.w d, .w l.code, .q s.now] := Raises.raise h he ht _ _ _
  have h2 := h1.andThen (occur_only 6 (loopRef d l) _) rfl
  split
  · exact (h2.andThen (State.setClk_only _ _ _) rfl).andThen (raise_only _ _ _ _) rfl
  · exact h2

def coastReturn (n : Nat) (ph : List Int) (k : DieLoop) (c : DieClk) : DieClk :=
  let x := c.loop k
  if x.coasting && !x.held then c.setLoop k { x with attempt := some n, buildOut := wrapPs k.pfdPs (ph.getD k.code 0) } else c

theorem coastReturn_loop (n : Nat) (ph : List Int) (k m : DieLoop) (c : DieClk) : (coastReturn n ph k c).loop m
   = if m = k ∧ (c.loop k).coasting = true ∧ (c.loop k).held = false then { c.loop k with attempt := some n, buildOut := wrapPs k.pfdPs (ph.getD k.code 0) } else c.loop m := by
  unfold coastReturn
  by_cases h : (c.loop k).coasting = true ∧ (c.loop k).held = false
  · simp [h, setLoop_loop]
  · rw [if_neg (by simpa using h), if_neg (fun hc => h hc.2)]

theorem spliceTo_front (j x : Nat) (s : State) : (spliceTo j x s).front = (s.setCourse j fun c => { c with leader := some x, splice := none, spliceCount := satInc c.spliceCount, checkPower := (0, 0) }).front := rfl

theorem markCourse_front (j db b s) : (markCourse j db b s).front = s.front := rfl

theorem matchZeroSpans_front (e : Nat) (s : State) : (matchZeroSpans e s).front = s.front := matchZeroSpans_only _ _ .front rfl

theorem unzeroCourse_front (j e : Nat) (s : State) : (unzeroCourse j e s).front.convs = s.front.convs ∧ (∀ i, i ≠ j → (unzeroCourse j e s).front.courses.get i = s.front.courses.get i)
  ∧ ((unzeroCourse j e s).front.courses.get j = { s.front.courses.get j with zeroFrom := none } ∨ (unzeroCourse j e s).front.courses.get j = s.front.courses.get j) := by
  unfold unzeroCourse
  split
  · exact ⟨rfl, fun _ _ => rfl, Or.inr rfl⟩
  · rw [matchZeroSpans_front]
    exact ⟨rfl, fun i hi => State.setCourse_of_ne _ _ _ hi, Or.inl (State.setCourse_self _ _ _)⟩

theorem domainOff_front (d b : Nat) (s : State) : (domainOff d b s).front = s.front := domainOff_only _ _ _ .front rfl

theorem unpowerConv_front (k : Nat) (s : State) : (unpowerConv k s).front = (s.setConv k fun c => { c with powered := false, sampling := false, rotSteps := 0 }).front := by
  unfold unpowerConv
  show FrontSt.mk _ _ = _
  rw [domainOff_front]; rfl

theorem completeWait_front (w st r s) : (completeWait w st r s).front = s.front := completeWait_only _ _ _ _ .front rfl

theorem bandTapSpanOpen_front (e c : Nat) (s : State) : (bandTapSpanOpen e c s).front = s.front := bandTapSpanOpen_only _ _ _ .front rfl

theorem zeroCourse_front (j : Nat) (s : State) : (zeroCourse j s).front.convs = s.front.convs ∧ ∀ i, (zeroCourse j s).front.courses.get i = s.front.courses.get i
    ∨ (i = j ∧ (zeroCourse j s).front.courses.get i = { s.front.courses.get i with zeroFrom := some s.now }) := by
  unfold zeroCourse
  split
  · exact ⟨rfl, fun _ => Or.inl rfl⟩
  · have hf : ∀ (n : Nat) (l : List Nat) (u : State), (l.foldl (fun acc c => bandTapSpanOpen n c acc) u).front = u.front := fun n l u =>
      foldl_keep (fun v => v.front = u.front) _ _ (fun v a hv => (bandTapSpanOpen_front _ _ _).trans hv) u rfl
    dsimp only
    rw [hf]
    refine ⟨rfl, fun i => ?_⟩
    by_cases hi : i = j
    · subst hi; exact Or.inr ⟨rfl, State.setCourse_self _ _ _⟩
    · exact Or.inl (State.setCourse_of_ne _ _ _ hi)

theorem supplied_course (j x e i : Nat) (s : State) : (supplied j x e s).front.convs = s.front.convs
    ∧ ((supplied j x e s).front.courses.get i = s.front.courses.get i ∨ ∃ z, i = j ∧ (supplied j x e s).front.courses.get i = { s.front.courses.get i with zeroFrom := z }) := by
  unfold supplied
  split
  · obtain ⟨h1, h2⟩ := zeroCourse_front j s
    exact ⟨h1, (h2 i).imp id fun h => ⟨_, h⟩⟩
  · obtain ⟨h1, h2, h3⟩ := unzeroCourse_front j e s
    refine ⟨h1, ?_⟩
    by_cases hi : i = j
    · subst hi; exact h3.elim (fun h => Or.inr ⟨_, rfl, h⟩) Or.inl
    · exact Or.inl (h2 i hi)

theorem convOf_ne (s : State) (j : Nat) : s.convOf j 0 ≠ s.convOf j 1 := by
  unfold State.convOf; simp; omega

theorem endAttribution_spare (j k : Nat) (s : State) : ((endAttribution j s).front.convs.get k).failed = (s.front.convs.get k).failed := by
  unfold endAttribution
  split
  · rfl
  · dsimp only
    have key : ∀ (p : Bool) (u : State) (n : Nat), ((if p = true then u.setConv n (fun c => { c with rotSuspended := false }) else u).front.convs.get k).failed = (u.front.convs.get k).failed := by
      intro p u n
      split
      · by_cases h : k = n
        · subst h; simp
        · rw [State.setConv_of_ne _ _ _ h]
      · rfl
    rw [key, key]; rfl

theorem endAttribution_course (j : Nat) (s : State) : ((endAttribution j s).front.courses.get j).attributing = none := by
  unfold endAttribution
  split
  · rename_i h; simpa using h
  · dsimp only
    have key : ∀ (p : Bool) (u : State) (n : Nat), (if p = true then u.setConv n (fun c => { c with rotSuspended := false }) else u).front.courses = u.front.courses := by
      intro p u n; split <;> rfl
    rw [key, key]; simp

theorem leadWithSpare_convs (j : Nat) (s : State) : (leadWithSpare j s).front.convs = s.front.convs := by
  unfold leadWithSpare
  dsimp only
  split
  · split <;> rfl
  · rfl

theorem standbyReady_convs (k : Nat) (s : State) : (standbyReady k s).front.convs = s.front.convs := by
  unfold standbyReady
  dsimp only
  split
  · rw [leadWithSpare_convs]; simp
  · rfl

theorem calSuccess_front (a b s) : (calSuccess a b s).front = s.front := calSuccess_only _ _ _ .front rfl

theorem completeProbation_front (k r s) : (completeProbation k r s).front = s.front := completeProbation_only _ _ _ .front rfl

theorem completeWait_taps (w st r s) : (completeWait w st r s).taps = s.taps := completeWait_only _ _ _ _ .taps rfl

theorem bandTapSpan_bt (e1 e2 c : Nat) (s : State) : (bandTapSpan e1 e2 c s).taps.bandTaps = s.taps.bandTaps
    ∧ (bandTapSpan e1 e2 c s).taps.segments.get c = (s.taps.segments.get c).disturb s.now (.span e1 (some e2)) := by
  unfold bandTapSpan mapCluster
  exact ⟨rfl, Tbl.get_modify_self _ _ _⟩

theorem chargeTap_tail (r : UnitRef) (v s : State) (n : EvName) (o : Nat) (a : List EvArg) (h : Raises s v n o a) :
      Raises s (if (!(occur 3 r v).1) = true then (occur 3 r v).2 else if r.kind = .audit then retireAudit r.die (occur 3 r v).2 else (occur 3 r v).2.setAudit r.die fun a => { a with replace := some r }) n o a :=
  have h2 := h.andThen (occur_only 3 r v) rfl
  Raises.ite h2 (Raises.ite (h2.andThen (retireAudit_only _ _) rfl) (h2.andThen (State.setAudit_only _ _ _) rfl))

theorem chargeTap_raises {as : List Aspect} {s u : State} (h : Only as s u) (he : as.contains .events = false) (ht : as.contains .systime = false) (r : UnitRef) (first : Nat) :
   (r.kind = .audit → Raises s (chargeTap r first u) .auditMismatch r.die [.w r.die, .q first]) ∧ (r.kind ≠ .audit → Raises s (chargeTap r first u) .bandtapMismatch r.die [.w r.die, .w (tapNumber r), .q first]) := by
  have hq : ∀ v, Only [.taps] u v → Only (.taps :: as) s v := fun v hv =>
    Only.trans (as := .taps :: as) (fun a ha => h a (by simp at ha ⊢; exact ha.2)) (fun a ha => hv a (by simp at ha ⊢; exact ha.1))
  have he' : (Aspect.taps :: as).contains .events = false := by simpa using he
  have ht' : (Aspect.taps :: as).contains .systime = false := by simpa using ht
  constructor
  · intro hk
    exact chargeTap_tail _ _ _ _ _ _ (Raises.itePos hk (Raises.raise (as := .taps :: as) (by rw [hk]; exact hq _ (State.setAudit_only _ _ _)) he' ht' _ _ _))
  · intro hk
    refine chargeTap_tail _ _ _ _ _ _ (Raises.iteNeg hk (Raises.raise (as := .taps :: as) ?_ he' ht' _ _ _))
    cases hx : r.kind <;> first
      | exact absurd hx hk
      | exact hq _ (State.setExport_only _ _ _)
      | exact hq _ (State.setBandTap_only _ _ _)

theorem replaceTap_facts (u : UnitRef) (s : State) (hr : (retireUnit u s).retired u = true) : (replaceTap u s).retired u = true ∧ ((replaceTap u s).taps.audits.get u.die).replace = none
   ∧ (u.kind = .bandTap → (replaceTap u s).nv.auditCarries.get u.die = some u ∧ Raises s (replaceTap u s) .bandtapReplaced u.die [.w u.die, .w u.loc, .q s.now]) := by
  unfold replaceTap
  dsimp only
  have h1 : Only [.nv] s (retireUnit u s) := retireUnit_only u s
  have hn : (retireUnit u s).now = s.now := congrArg BitVec.toNat (h1 .systime rfl)
  generalize retireUnit u s = v at h1 hn hr ⊢
  have hv : ((v.setAudit u.die fun a => { a with replace := none, target := none, verifying := none }).taps.audits.get u.die).replace = none := by
    exact congrArg AuditTap.replace (Tbl.get_modify_self _ _ _)
  have h2 : Only [.taps, .nv] s (v.setAudit u.die fun a => { a with replace := none, target := none, verifying := none }) := (h1.mono rfl).trans ((State.setAudit_only _ _ _).mono rfl)
  have hr2 : (v.setAudit u.die fun a => { a with replace := none, target := none, verifying := none }).retired u = true := hr
  have hn2 : (v.setAudit u.die fun a => { a with replace := none, target := none, verifying := none }).now = s.now := hn
  generalize (v.setAudit u.die fun a => { a with replace := none, target := none, verifying := none }) = w at hv h2 hr2 hn2 ⊢
  simp only [refresh_keeps]
  have hrr : ∀ x : State, x.retired u = true → (refresh x).retired u = true := fun x hx => refresh_only x .retirement rfl _ hx
  have hra : ∀ (n o a) (x : State), x.retired u = true → (raise n o a x).retired u = true := fun n o a x hx => raise_only n o a x .retirement rfl _ hx
  refine ⟨hrr _ ?_, ?_, fun hk => ?_⟩
  · split
    · split
      · exact hr2
      · split
        · exact hra _ _ _ _ hr2
        · exact hr2
    · exact hra _ _ _ _ hr2
  · split
    · split
      · exact hv
      · split
        · simp only [raise_keeps]; exact hv
        · exact hv
    · simp only [raise_keeps]; exact hv
  · split
    · rename_i hx; rw [hk] at hx; cases hx
    · simp only [raise_keeps]
      refine ⟨Tbl.get_set_self _ _ _, Raises.andThen (refresh_only _) rfl ?_⟩
      rw [hn2]
      exact Raises.raise (as := [.taps, .nv]) (Only.trans h2 (Only.ofMk rfl (Only.refl _ _))) rfl rfl _ _ _

theorem chargeSpare_raises (c at_ : Nat) {as : List Aspect} {s u : State} (h : Only as s u) (he : as.contains .events = false) (ht : as.contains .systime = false) :
    Raises s (chargeSpare c at_ u) .spareCharged (clusterDie c) [.w (clusterDie c), .w (c % 4 : Nat), .q at_] := by
  have hq : Only (.lanes :: as) s (u.setSpare c fun x => { x with spareCharges := satInc x.spareCharges }) :=
    Only.trans (as := .lanes :: as) (fun a ha => h a (by simp at ha ⊢; exact ha.2)) (fun a ha => State.setSpare_only u c _ a (by simp at ha ⊢; exact ha.1))
  have hr := Raises.raise (hq) (by simpa using he) (by simpa using ht) .spareCharged (clusterDie c) [.w (clusterDie c), .w (c % 4 : Nat), .q at_]
  have hr2 := hr.andThen (occur_only 2 (spareRef c) _) rfl
  exact Raises.ite (hr2.andThen (retireSpare_only _ _) rfl) hr2

theorem chargeLane_raises (l at_ output : Nat) {as : List Aspect} {s u : State} (h : Only as s u) (he : as.contains .events = false) (ht : as.contains .systime = false) :
    Raises s (chargeLane l at_ output u) .laneAssayMismatch (laneDie l) [.w l, .q at_, .w output] := by
  have hq : Only (.lanes :: as) s (u.setDemod l fun d => { d with charges := satInc d.charges }) :=
    Only.trans (as := .lanes :: as) (fun a ha => h a (by simp at ha ⊢; exact ha.2)) (fun a ha => State.setDemod_only u l _ a (by simp at ha ⊢; exact ha.1))
  have hr := Raises.raise (hq) (by simpa using he) (by simpa using ht) .laneAssayMismatch (laneDie l) [.w l, .q at_, .w output]
  unfold chargeLane
  dsimp only
  refine Raises.ite ?_ (Raises.ite ?_ ?_)
  · exact ((hr.andThen (State.setSpare_only _ _ _) rfl).andThen (addOcc_only _ _ _) rfl).andThen (moveCharges_only _ _ _) rfl
  · exact ((hr.andThen (State.setSpare_only _ _ _) rfl).andThen (occur_only _ _ _) rfl).andThen (replaceLane_only _ _) rfl
  · exact (hr.andThen (State.setSpare_only _ _ _) rfl).andThen (occur_only _ _ _) rfl

theorem endAssay_plain (c : Nat) (s : State) (h : ∀ a, (s.lanes.spares.get c).assay = some a → a.restore = false) :
    Only [.lanes] s (endAssay c s) ∧ (endAssay c s).lanes.spares.get c =
      (if (s.lanes.spares.get c).assay.isSome ∧ (s.lanes.spares.get c).position = 7 then { (s.lanes.spares.get c).endRotation s.now with assay := none } else { s.lanes.spares.get c with assay := none })
     ∧ ∀ e, e ≠ c → (endAssay c s).lanes.spares.get e = s.lanes.spares.get e := by
  unfold endAssay
  dsimp only
  cases ha : (s.lanes.spares.get c).assay with
  | none =>
    refine ⟨Only.refl _ _, ?_, fun _ _ => rfl⟩
    simp only [Option.isSome_none, Bool.false_eq_true, false_and, if_false]
    rw [← ha]
  | some a =>
    dsimp only
    rw [h a ha, if_neg (by simp)]
    have h1 : ∀ b : Bool, Only [.lanes] s (if b = true then s.setDemod (c * 8 + (s.lanes.spares.get c).position) fun d => { d with lastAssayTick := tick32 s.now } else s)
        ∧ (if b = true then s.setDemod (c * 8 + (s.lanes.spares.get c).position) fun d => { d with lastAssayTick := tick32 s.now } else s).lanes.spares = s.lanes.spares
        ∧ (if b = true then s.setDemod (c * 8 + (s.lanes.spares.get c).position) fun d => { d with lastAssayTick := tick32 s.now } else s).now = s.now := by
      intro b; cases b
      · exact ⟨Only.refl _ _, rfl, rfl⟩
      · exact ⟨State.setDemod_only _ _ _, rfl, rfl⟩
    obtain ⟨h2, h3, h4⟩ := h1 (a.comparing && a.firstDiff.isNone)
    generalize (if (a.comparing && a.firstDiff.isNone) = true then s.setDemod (c * 8 + (s.lanes.spares.get c).position) fun d => { d with lastAssayTick := tick32 s.now } else s) = w at h2 h3 h4 ⊢
    refine ⟨h2.trans (State.setSpare_only _ _ _), ?_, fun e he => (State.setSpare_of_ne _ _ _ he).trans (by rw [h3])⟩
    rw [State.setSpare_self, h3, h4]
    by_cases hp : (s.lanes.spares.get c).position = 7
    · rw [if_pos hp, if_pos ⟨rfl, hp⟩]
    · rw [if_neg hp, if_neg (fun h => hp h.2)]

theorem completeWait_lanes (w st r s) : (completeWait w st r s).lanes = s.lanes := completeWait_only _ _ _ _ .lanes rfl

theorem State.rdsOf_setRds (s : State) (r : Rx) (f : RdsSt → RdsSt) : (s.setRds r f).rdsOf r = f (s.rdsOf r) := by
  cases r
  · exact congrArg Demod.rds (State.setDemod_self _ _ _)
  · exact congrArg WatchSt.rds (State.setWatch_self _ _ _)

theorem RdsSt.getD_setStream (q : RdsSt) (i : Nat) (f : RdsStream → RdsStream) :
   (q.setStream i f).streams.getD i {} = (if i < q.streams.length then f (q.streams.getD i {}) else {}) := by
  unfold RdsSt.setStream
  simp only [List.getD_eq_getElem?_getD, List.getElem?_set]
  by_cases h : i < q.streams.length
  · simp [h]
  · simp [h, List.getElem?_eq_none (Nat.le_of_not_lt h)]

theorem drawWeights_spec (n : Nat) (s : State) : (drawWeights n s).1.length = n ∧ (drawWeights n s).2.freeCount = s.freeCount + 2 * n := by
  unfold drawWeights
  have key : ∀ (l : List Nat) (p : List (Int × Int) × State),
     (l.foldl (fun (x : List (Int × Int) × State) _ => (x.1 ++ [(((draw x.2).1 : Int), ((draw (draw x.2).2).1 : Int))], (draw (draw x.2).2).2)) p).1.length = p.1.length + l.length
   ∧ (l.foldl (fun (x : List (Int × Int) × State) _ => (x.1 ++ [(((draw x.2).1 : Int), ((draw (draw x.2).2).1 : Int))], (draw (draw x.2).2).2)) p).2.freeCount = p.2.freeCount + 2 * l.length := by
    intro l
    induction l with
    | nil => intro p; exact ⟨rfl, rfl⟩
    | cons a l ih =>
      intro p
      obtain ⟨h1, h2⟩ := ih (p.1 ++ [(((draw p.2).1 : Int), ((draw (draw p.2).2).1 : Int))], (draw (draw p.2).2).2)
      refine ⟨?_, ?_⟩
      · rw [List.foldl_cons, h1]; simp; omega
      · rw [List.foldl_cons, h2]; simp [draw]; omega
  have := key (List.range n) ([], s)
  simpa using this

theorem rdsOf_congr {s t : State} (h : t.lanes = s.lanes) (r : Rx) : t.rdsOf r = s.rdsOf r := by
  cases r <;> (unfold State.rdsOf; dsimp only; rw [h])

theorem captureRings_nodup (s : State) (x : StreamId) (t0 : Nat) (old : Bool) : (s.captureRings x t0 old).Nodup := by
  unfold State.captureRings
  refine List.Nodup.sublist List.filter_sublist ?_
  decide

/-- A fold that gives each ring of a list its next sequence number, as long as what it needs is kept. -/
theorem foldl_ring (P : State → Prop) (f : State → Nat → State) (hP : ∀ u r, P u → P (f u r))
    (hf : ∀ u r, P u → ((f u r).link.rings.get r).sequence = (u.link.rings.get r).sequence + 1 ∧ ∀ i, i ≠ r → (f u r).link.rings.get i = u.link.rings.get i) :
    ∀ (l : List Nat) (u : State), P u → l.Nodup → (∀ r, r ∈ l → ((l.foldl f u).link.rings.get r).sequence = (u.link.rings.get r).sequence + 1)
      ∧ (∀ r, r ∉ l → (l.foldl f u).link.rings.get r = u.link.rings.get r) := by
  intro l
  induction l with
  | nil => intro u _ _; exact ⟨fun r hr => by simp at hr, fun _ _ => rfl⟩
  | cons a l ih =>
    intro u hp hn
    rw [List.nodup_cons] at hn
    obtain ⟨h1, h2⟩ := ih (f u a) (hP u a hp) hn.2
    obtain ⟨k1, k2⟩ := hf u a hp
    refine ⟨fun r hr => ?_, fun r hr => ?_⟩
    · rw [List.foldl_cons]
      by_cases hra : r = a
      · subst hra; rw [h2 _ hn.1, k1]
      · rw [h1 r (by simpa [hra] using hr), k2 r hra]
    · rw [List.mem_cons, not_or] at hr
      rw [List.foldl_cons, h2 r hr.2, k2 r hr.1]

theorem markSaturation_facts (x : StreamId) (sat : Nat) (s : State) : (markSaturation x sat s).link.rings = s.link.rings ∧
   (maskBit sat 3 = true → ((markSaturation x sat s).taps.bandTaps.get x.cluster).satSticky = true) ∧ (maskBit sat 3 = false → (markSaturation x sat s).taps.bandTaps = s.taps.bandTaps) := by
  have h0 : ∀ b : Bool, ∃ u : State, (if b = true then ({ s with taps := { s.taps with bandTaps := s.taps.bandTaps.modify x.cluster fun b => { b with satSticky := true } } } : State) else s) = u ∧ u.link.rings = s.link.rings ∧
     (b = true → (u.taps.bandTaps.get x.cluster).satSticky = true) ∧ (b = false → u.taps.bandTaps = s.taps.bandTaps) := by
    intro b
    cases b
    · exact ⟨_, rfl, rfl, fun h => (nomatch h), fun _ => rfl⟩
    · exact ⟨_, rfl, rfl, fun _ => congrArg BandTap.satSticky (Tbl.get_modify_self _ _ _), fun h => nomatch h⟩
  obtain ⟨u, hu, h1, h2, h3⟩ := h0 (maskBit sat 3)
  unfold markSaturation
  dsimp only
  rw [hu]
  cases x with
  | lane l =>
    dsimp only
    refine foldl_keep (fun v => v.link.rings = s.link.rings ∧ (maskBit sat 3 = true → (v.taps.bandTaps.get (StreamId.lane l).cluster).satSticky = true) ∧ (maskBit sat 3 = false → v.taps.bandTaps = s.taps.bandTaps)) _ _ (fun v a hv => ?_) _ ?_
    · have ht : ∀ n o ar, (raise n o ar v).taps = v.taps := fun n o ar => raise_only _ _ _ _ .taps rfl
      rw [raise_rings, ht]; exact hv
    · exact ⟨h1, h2, h3⟩
  | _ => exact ⟨h1, h2, h3⟩

theorem setRegion_self (s : State) (g : Nat) (f : RegionSt → RegionSt) : (s.setRegion g f).ofdm.regions.get g = f (s.ofdm.regions.get g) := Tbl.get_modify_self _ _ _

theorem endEngineRestore_facts (d p : Nat) (clean : Bool) (s : State) : ((endEngineRestore d p clean s).ofdm.regions.get (d * 2 + p / 2)).restore = none ∧ (clean = true → (endEngineRestore d p clean s).retired (engineRef d p) = false)
    ∧ (clean = false → (endEngineRestore d p clean s).nv = s.nv ∧ Raises s (endEngineRestore d p clean s) .engineRestored d [.w (0xFFFFFFFF : Nat)]) := by
  have hc : ∀ w st r (u : State), (completeWait w st r u).ofdm = u.ofdm ∧ (completeWait w st r u).nv = u.nv := fun w st r u => ⟨completeWait_only _ _ _ _ .ofdm rfl, completeWait_only _ _ _ _ .nv rfl⟩
  unfold endEngineRestore
  dsimp only
  cases clean
  · simp only [Bool.false_eq_true, if_false]
    refine ⟨?_, fun h => (nomatch h), fun _ => ⟨?_, ?_⟩⟩
    · rw [(hc _ _ _ _).1]; simp only [refresh_keeps, raise_keeps, setRegion_self]
    · rw [(hc _ _ _ _).2]; simp only [refresh_keeps, raise_keeps]; rfl
    · exact Raises.andThen (completeWait_only _ _ _ _) rfl (Raises.andThen (refresh_only _) rfl (Raises.raise (State.setRegion_only _ _ _) rfl rfl _ _ _))
  · simp only [if_true]
    refine ⟨?_, fun _ => ?_, fun h => (nomatch h)⟩
    · rw [(hc _ _ _ _).1]; simp only [refresh_keeps, raise_keeps]; exact congrArg RegionSt.restore (setRegion_self _ _ _)
    · unfold State.retired
      rw [(hc _ _ _ _).2]; simp only [refresh_keeps, raise_keeps]
      unfold unretireUnit
      dsimp only
      rw [List.contains_eq_mem, decide_eq_false_iff_not, List.mem_filter]
      simp

theorem chargeEngine_raises (d p c w : Nat) {as : List Aspect} {s u : State} (h : Only as s u) (he : as.contains .events = false) (ht : as.contains .systime = false) (hr : u.retired (engineRef d p) = false) :
    Raises s (chargeEngine d p c w u) .engineMismatch d [.w (d * 4 + p), .w (d * 4 + c), .q w] := by
  have hq : Only (.ofdm :: as) s (u.setPhys d p fun x => { x with charges := satInc x.charges }) :=
    Only.trans (as := .ofdm :: as) (fun a ha => h a (by simp at ha ⊢; exact ha.2)) (fun a ha => State.setPhys_only u d p _ a (by simp at ha ⊢; exact ha.1))
  have hR := Raises.raise hq (by simpa using he) (by simpa using ht) .engineMismatch d [.w (d * 4 + p), .w (d * 4 + c), .q w]
  have h2 := hR.andThen (occur_only 4 (engineRef d p) _) rfl
  unfold chargeEngine
  dsimp only
  rw [hr, if_neg (by simp)]
  exact Raises.ite (h2.andThen (retireEngine_only _ _ _ _) rfl) h2

end Sys2Proof.Machine
end

