-- ==== Sys2Proof/Laws/OpsDelivery.lean ====
section
/-!
SUPPORT. What the shared operations do, said once: programme audio, ports, rings, staging, calibration and monitor operations.
-/
namespace Sys2Proof.Machine

structure FollowAt (f : Nat) (p : Nat) (w : W32) (d : Option Fade) (k : Option Nat) (g : Bool) (u : State) : Prop where
  p : (u.audio.follows.get f).playing = p
  w : (u.audio.follows.get f).switches = w
  d : g = true → (u.audio.follows.get f).fade = d ∧ (u.audio.follows.get f).standby = k

section FollowAt

variable {f p : Nat} {w : W32} {d : Option Fade} {k : Option Nat} {g : Bool}

theorem FollowAt.of {u v : State} (h : FollowAt f p w d k g u) (ha : v.audio = u.audio) : FollowAt f p w d k g v := ⟨by rw [ha]; exact h.1, by rw [ha]; exact h.2, by rw [ha]; exact h.3⟩

theorem FollowAt.set {u : State} (h : FollowAt f p w d k g u) (q : FollowSt → FollowSt) (h1 : ∀ x, (q x).playing = x.playing) (h2 : ∀ x, (q x).switches = x.switches)
   (h3 : ∀ x, g = true → (q x).fade = x.fade ∧ (q x).standby = x.standby) : FollowAt f p w d k g (u.setFollow f q) :=
  ⟨by rw [State.setFollow_self]; exact (h1 _).trans h.1, by rw [State.setFollow_self]; exact (h2 _).trans h.2, fun hg => by rw [State.setFollow_self]; exact ⟨(h3 _ hg).1.trans (h.3 hg).1, (h3 _ hg).2.trans (h.3 hg).2⟩⟩

theorem FollowAt.ite {u v : State} {c : Prop} [Decidable c] (h : FollowAt f p w d k g u) (hv : FollowAt f p w d k g v) : FollowAt f p w d k g (if c then u else v) := by split <;> assumption

theorem FollowAt.raise {u : State} (h : FollowAt f p w d k g u) (n o a) : FollowAt f p w d k g (Machine.raise n o a u) := h.of (raise_only _ _ _ _ .audio rfl)
theorem FollowAt.measureCand {u : State} (h : FollowAt f p w d k g u) (i c) : FollowAt f p w d k g (Machine.measureCand f i c u) := by
  unfold Machine.measureCand
  have h1 : ∀ i c, FollowAt f p w d k g (retuneTap i (modActive c u)) := fun i c => h.of ((retuneTap_only _ _ .audio rfl).trans (modActive_only _ _ .audio rfl))
  dsimp only
  generalize hx : retuneTap _ _ = v
  have : FollowAt f p w d k g v := hx ▸ h1 _ _
  (repeat' (first | assumption | with_reducible refine FollowAt.raise ?_ _ _ _ | with_reducible refine FollowAt.ite ?_ ?_ | (with_reducible refine FollowAt.set ?_ _ ?_ ?_ ?_; rotate_left; (· intro x; rfl); (· intro x; rfl); (· intro x hg; first | exact ⟨rfl, rfl⟩ | cases hg)) | split))

theorem FollowAt.assignTaps {u : State} (h : FollowAt f p w d k g u) : FollowAt f p w d k g (Machine.assignTaps f u) := by
  unfold Machine.assignTaps
  refine foldl_keep (FollowAt f p w d k g) _ _ (fun v w hv => ?_) _ ?_
  · split
    · exact hv
    · split
      · exact hv.measureCand _ _
      · exact hv
  · (repeat' (first | assumption | with_reducible refine FollowAt.raise ?_ _ _ _ | with_reducible refine FollowAt.ite ?_ ?_ | (with_reducible refine FollowAt.set ?_ _ ?_ ?_ ?_; rotate_left; (· intro x; rfl); (· intro x; rfl); (· intro x hg; first | exact ⟨rfl, rfl⟩ | cases hg)) | split))

theorem FollowAt.alignStandby {u : State} (h : FollowAt f p w d k g u) : FollowAt f p w d k g (Machine.alignStandby f u) := by
  unfold Machine.alignStandby
  dsimp only
  (repeat' (first | assumption | with_reducible refine FollowAt.raise ?_ _ _ _ | with_reducible refine FollowAt.ite ?_ ?_ | (with_reducible refine FollowAt.set ?_ _ ?_ ?_ ?_; rotate_left; (· intro x; rfl); (· intro x; rfl); (· intro x hg; first | exact ⟨rfl, rfl⟩ | cases hg)) | split))

theorem FollowAt.noteReady {u : State} (h : FollowAt f p w d k g u) : FollowAt f p w d k g (Machine.noteReady f u) := by
  unfold Machine.noteReady; dsimp only; (repeat' (first | assumption | with_reducible refine FollowAt.raise ?_ _ _ _ | with_reducible refine FollowAt.ite ?_ ?_ | (with_reducible refine FollowAt.set ?_ _ ?_ ?_ ?_; rotate_left; (· intro x; rfl); (· intro x; rfl); (· intro x hg; first | exact ⟨rfl, rfl⟩ | cases hg)) | split))

theorem FollowAt.decideFade {u : State} (h : FollowAt f p w d k false u) (r a) : FollowAt f p w d k false (Machine.decideFade f r a u) := by
  unfold Machine.decideFade; dsimp only; (repeat' (first | assumption | with_reducible refine FollowAt.raise ?_ _ _ _ | with_reducible refine FollowAt.ite ?_ ?_ | (with_reducible refine FollowAt.set ?_ _ ?_ ?_ ?_; rotate_left; (· intro x; rfl); (· intro x; rfl); (· intro x hg; first | exact ⟨rfl, rfl⟩ | cases hg)) | split))

theorem FollowAt.applyRules {u : State} (h : FollowAt f p w d k false u) : FollowAt f p w d k false (Machine.applyRules f u) := by
  unfold Machine.applyRules
  dsimp only
  have h0 : ∀ (a b c : Prop) [Decidable a] [Decidable b] [Decidable c] n o ar, FollowAt f p w d k false (if a then (if b then u.setFollow f fun x => { x with noStandby := true } else Machine.raise n o ar (u.setFollow f fun x => { x with noStandby := true })) else if c then u else u.setFollow f fun x => { x with noStandby := false }) := fun a b c _ _ _ n o ar => by
    (repeat' (first | assumption | with_reducible refine FollowAt.raise ?_ _ _ _ | with_reducible refine FollowAt.ite ?_ ?_ | (with_reducible refine FollowAt.set ?_ _ ?_ ?_ ?_; rotate_left; (· intro x; rfl); (· intro x; rfl); (· intro x hg; first | exact ⟨rfl, rfl⟩ | cases hg)) | split))
  have key : ∀ (v : State), FollowAt f p w d k false v → ∀ (m : Option FadeReason) (a b : Prop) [Decidable a] [Decidable b] (c : FadeReason → Prop) [∀ r, Decidable (c r)], FollowAt f p w d k false (match m with
      | some r => if a then v else if b then Machine.decideFade f r true v else if c r then Machine.decideFade f r false v else v
      | none => v.setFollow f fun x => { x with held := none }) := by
    intro v hv m a b _ _ c _
    have := fun r a => hv.decideFade r a
    cases m with
    | some r => exact FollowAt.ite hv (FollowAt.ite (this _ _) (FollowAt.ite (this _ _) hv))
    | none => clear this h0 h; dsimp only; (repeat' (first | assumption | with_reducible refine FollowAt.raise ?_ _ _ _ | with_reducible refine FollowAt.ite ?_ ?_ | (with_reducible refine FollowAt.set ?_ _ ?_ ?_ ?_; rotate_left; (· intro x; rfl); (· intro x; rfl); (· intro x hg; first | exact ⟨rfl, rfl⟩ | cases hg)) | split))
  exact key _ (h0 _ _ _ _ _ _) _ _ _ _

theorem FollowAt.tuneMember {u : State} (h : FollowAt f p w d k g u) (i freq typ tr eid named) : FollowAt f p w d k g (Machine.tuneMember f i freq typ tr eid named u) := by
  unfold Machine.tuneMember
  dsimp only
  split
  · exact h
  · refine FollowAt.of (u := State.setFollow _ f _) ?_ (seeUnits_only _ .audio rfl)
    refine FollowAt.set ?_ _ (fun x => rfl) (fun x => rfl) (fun x _ => ⟨rfl, rfl⟩)
    have h0 : ∀ m : Option Nat, FollowAt f p w d k g (match m with
        | some c => u.setContext c fun _ => {}
        | none => u) := fun m => by cases m <;> exact ⟨h.1, h.2, h.3⟩
    have h1 : ∀ v, FollowAt f p w d k g v → ∀ l c, FollowAt f p w d k g (retuneLane l (modActive c v)) := fun v hv l c => hv.of ((retuneLane_only _ _ .audio rfl).trans (modActive_only _ _ .audio rfl))
    split
    · refine FollowAt.of ?_ (restartSignal_only _ _ _ _ .audio rfl)
      refine FollowAt.of ?_ (powerMask_only _ _ _ .audio rfl)
      exact FollowAt.of (h1 _ (h0 _) _ _) (modActive_only _ _ .audio rfl)
    · exact h1 _ (h0 _) _ _

theorem FollowAt.retuneStandby {u : State} (h : FollowAt f p w d k false u) (i c tr) : FollowAt f p w d k false (Machine.retuneStandby f i c tr u) := by
  unfold Machine.retuneStandby
  dsimp only
  have := h.tuneMember i c.freq c.typ c.trusted c.eid c.named
  generalize Machine.tuneMember f i c.freq c.typ c.trusted c.eid c.named u = v at *
  (repeat' (first | assumption | with_reducible refine FollowAt.raise ?_ _ _ _ | with_reducible refine FollowAt.ite ?_ ?_ | (with_reducible refine FollowAt.set ?_ _ ?_ ?_ ?_; rotate_left; (· intro x; rfl); (· intro x; rfl); (· intro x hg; first | exact ⟨rfl, rfl⟩ | cases hg)) | split))

theorem FollowAt.rankStandby {u : State} (h : FollowAt f p w d k false u) : FollowAt f p w d k false (Machine.rankStandby f u) := by
  unfold Machine.rankStandby
  dsimp only
  split
  · split
    · exact h.retuneStandby _ _ _
    · exact h
  · split
    · split
      · exact h.retuneStandby _ _ _
      · exact h
    · exact h
  · exact h
  · have h1 : ∀ n, FollowAt f p w d k false (u.setFollow f fun x => { x with rankRun := n }) := fun n => by (repeat' (first | assumption | with_reducible refine FollowAt.raise ?_ _ _ _ | with_reducible refine FollowAt.ite ?_ ?_ | (with_reducible refine FollowAt.set ?_ _ ?_ ?_ ?_; rotate_left; (· intro x; rfl); (· intro x; rfl); (· intro x hg; first | exact ⟨rfl, rfl⟩ | cases hg)) | split))
    have h2 : FollowAt f p w d k false (u.setFollow f fun x => { x with rankRun := 0, trial := false }) := by (repeat' (first | assumption | with_reducible refine FollowAt.raise ?_ _ _ _ | with_reducible refine FollowAt.ite ?_ ?_ | (with_reducible refine FollowAt.set ?_ _ ?_ ?_ ?_; rotate_left; (· intro x; rfl); (· intro x; rfl); (· intro x hg; first | exact ⟨rfl, rfl⟩ | cases hg)) | split))
    refine FollowAt.ite h2 (FollowAt.ite ?_ (h1 _))
    split
    · exact (h1 _).retuneStandby _ _ _
    · exact h1 _

end FollowAt

theorem noteReady_fields (f : Nat) (s : State) : (∃ r, (noteReady f s).audio.follows.get f = { s.audio.follows.get f with readySince := r }) ∧ ∀ i, i ≠ f → (noteReady f s).audio.follows.get i = s.audio.follows.get i := by
  unfold noteReady
  exact ⟨⟨_, State.setFollow_self _ _ _⟩, fun i hi => State.setFollow_of_ne _ _ _ hi⟩

theorem alignStandby_fields (f : Nat) (s : State) : ((alignStandby f s).audio.follows.get f).locked = (s.audio.follows.get f).locked ∧ ((alignStandby f s).audio.follows.get f).delta = (s.audio.follows.get f).delta ∧ ∀ i, i ≠ f → (alignStandby f s).audio.follows.get i = s.audio.follows.get i := by
  unfold alignStandby
  dsimp only
  repeat' split
  all_goals first
    | exact ⟨rfl, rfl, fun _ _ => rfl⟩
    | (simp only [raise_keeps, State.setFollow_self]; exact ⟨trivial, trivial, fun i hi => State.setFollow_of_ne _ _ _ hi⟩)

theorem routeRings_nodup (s : State) (c d) (g) : (s.routeRings c d g).Nodup := by
  unfold State.routeRings
  refine List.Nodup.sublist List.filter_sublist ?_
  decide

theorem measureCand_fields (f w : Nat) (c : Cand) (s : State) : ((measureCand f w c s).audio.follows.get f).cands = (s.audio.follows.get f).cands := by
  unfold measureCand
  dsimp only
  rw [State.setFollow_self]
  have : ∀ i g, (retuneTap i (modActive g s)).audio = s.audio := fun i g => (retuneTap_only _ _ .audio rfl).trans (modActive_only _ _ .audio rfl)
  rw [this]

theorem declareClass_contexts (x c t : Nat) (s : State) : (declareClass x c t s).audio.contexts = s.audio.contexts ∧ ∀ i, i ≠ x → (declareClass x c t s).audio.slots.get i = s.audio.slots.get i := by
  unfold declareClass
  dsimp only
  have hr : ∀ (c : Prop) [Decidable c] n o a (v : State), (if c then v else raise n o a v).audio = v.audio := fun c _ n o a v => by
    split
    · rfl
    · exact raise_only _ _ _ _ .audio rfl
  split
  · exact ⟨rfl, fun _ _ => rfl⟩
  · simp only [raise_keeps]
    refine ⟨?_, fun i hi => (State.setSlot_of_ne _ _ _ hi).trans (by rw [hr])⟩
    rw [(State.setSlot_beside _ _ _).2, hr]

theorem addSpan_audio (x : Nat) (p : SlotSpan) (s : State) : (addSpan x p s).audio.contexts = s.audio.contexts ∧ (∀ i, i ≠ x → (addSpan x p s).audio.slots.get i = s.audio.slots.get i) ∧
   (addSpan x p s).audio.slots.get x = { s.audio.slots.get x with spans := keepSpans s.now (s.audio.slots.get x).spans ++ [p] } := by
  unfold addSpan
  exact ⟨rfl, fun i hi => State.setSlot_of_ne _ _ _ hi, State.setSlot_self _ _ _⟩

theorem retireAudio_facts (u : UnitRef) (s : State) : (retireAudio u s).retired u = true := by
  unfold retireAudio
  exact refresh_only _ .retirement rfl _ (raise_only _ _ _ _ .retirement rfl _ (retireUnit_retired u s))

theorem retireAudio_raises (u : UnitRef) (s : State) : Raises s (retireAudio u s) (if decide (u.kind = .context) then .contextRetired else .slotRetired) u.die [.w (if decide (u.kind = .context) then u.die * 48 + u.loc else u.die * 64 + u.loc : Nat), .q s.now] := by
  unfold retireAudio
  have hn : (retireUnit u s).now = s.now := (retireUnit_only u s).now rfl
  dsimp only
  rw [hn]
  exact Raises.andThen (refresh_only _) rfl (Raises.raise (retireUnit_only _ _) rfl rfl _ _ _)

theorem setPort_self (s : State) (p : PortId) (f : PortSt → PortSt) : (s.setPort p f).portSt p = f (s.portSt p) := Tbl.get_modify_self _ _ _

theorem setPort_ne (s : State) (p : PortId) (f : PortSt → PortSt) {i : Nat} (h : i ≠ p.key) : (s.setPort p f).ports.ports.get i = s.ports.ports.get i := Tbl.get_modify_of_ne _ h _

theorem portSt_of_ports {s t : State} (h : t.ports = s.ports) (p : PortId) : t.portSt p = s.portSt p := by unfold State.portSt; rw [h]

theorem completeWait_ports (w st r s) : (completeWait w st r s).ports = s.ports := completeWait_only _ _ _ _ .ports rfl

theorem raise_ports (n o a s) : (raise n o a s).ports = s.ports := raise_only _ _ _ _ .ports rfl

def OutKept (p : PortId) (u v : State) : Prop :=
  v.link.sent = u.link.sent ∧ (v.portSt p).phase = (u.portSt p).phase ∧ (v.portSt p).discarded = (u.portSt p).discarded ∧ (v.portSt p).filled = (u.portSt p).filled
    ∧ (v.portSt p).mods = (u.portSt p).mods

theorem OutKept.refl (p u) : OutKept p u u := ⟨rfl, rfl, rfl, rfl, rfl⟩

theorem OutKept.trans {p u v w} (h : OutKept p u v) (k : OutKept p v w) : OutKept p u w := ⟨k.1.trans h.1, k.2.1.trans h.2.1, k.2.2.1.trans h.2.2.1, k.2.2.2.1.trans h.2.2.2.1, k.2.2.2.2.trans h.2.2.2.2⟩

theorem outKept_raise (p n o a u) : OutKept p u (raise n o a u) := ⟨raise_sent _ _ _ _, by rw [portSt_of_ports (raise_ports _ _ _ _)], by rw [portSt_of_ports (raise_ports _ _ _ _)], by rw [portSt_of_ports (raise_ports _ _ _ _)], by rw [portSt_of_ports (raise_ports _ _ _ _)]⟩

theorem outKept_set (p u) (f : PortSt → PortSt) (hf : ∀ x, (f x).phase = x.phase ∧ (f x).discarded = x.discarded ∧ (f x).filled = x.filled ∧ (f x).mods = x.mods) : OutKept p u (u.setPort p f) := by
  obtain ⟨h1, h2, h3, h4⟩ := hf (u.portSt p)
  refine ⟨rfl, ?_, ?_, ?_, ?_⟩ <;> rw [setPort_self] <;> assumption

theorem checkLine_kept (d diffs u i) : OutKept (.out d) u (checkLine d diffs u i) ∧ ((checkLine d diffs u i).portSt (.out d)).underrun = (u.portSt (.out d)).underrun := by
  unfold checkLine
  dsimp only
  split
  · split
    · exact ⟨outKept_set _ _ _ fun _ => ⟨rfl, rfl, rfl, rfl⟩, by rw [setPort_self]⟩
    · exact ⟨(outKept_set _ _ _ (by exact fun _ => ⟨rfl, rfl, rfl, rfl⟩)).trans (outKept_raise _ _ _ _ _), by rw [portSt_of_ports (raise_ports _ _ _ _), setPort_self]⟩
  · split
    · exact ⟨outKept_set _ _ _ fun _ => ⟨rfl, rfl, rfl, rfl⟩, by rw [setPort_self]⟩
    · exact ⟨OutKept.refl _ _, rfl⟩

theorem endUnderrun_kept (p u) : OutKept p u (endUnderrun p u) ∧ ((endUnderrun p u).portSt p).lineFault = (u.portSt p).lineFault := by
  unfold endUnderrun
  split
  · exact ⟨(outKept_set _ _ _ (by exact fun _ => ⟨rfl, rfl, rfl, rfl⟩)).trans (outKept_raise _ _ _ _ _), by rw [portSt_of_ports (raise_ports _ _ _ _), setPort_self]⟩
  · exact ⟨OutKept.refl _ _, rfl⟩

theorem checkLine_idle {d diffs u i} (h : (u.portSt (.out d)).lineFault = 0) (h2 : diffs.getD i 0 < 8) : checkLine d diffs u i = u := by
  unfold checkLine
  dsimp only
  rw [if_neg (by rw [decide_eq_false (by omega)]; exact Bool.false_ne_true), h, if_neg (by simp [maskBit])]

theorem foldLine_idle {d : Nat} {diffs : List Nat} {u : State} (h : (u.portSt (.out d)).lineFault = 0) : ∀ l : List Nat, (∀ j ∈ l, diffs.getD j 0 < 8) → l.foldl (checkLine d diffs) u = u := by
  intro l
  induction l with
  | nil => intro _; rfl
  | cons a l ih =>
    intro hl
    rw [List.foldl_cons, checkLine_idle h (hl a (by simp))]
    exact ih fun j hj => hl j (by simp [hj])

theorem checkLine_raises {d : Nat} {diffs : List Nat} {s u : State} (ho : Only [.ports, .link, .integ, .sec] s u) (i : Nat) (hi : i < 9)
    (h : (u.portSt (.out d)).lineFault = 0) (h8 : 8 ≤ diffs.getD i 0) (hj : ∀ j, j < i → diffs.getD j 0 < 8) :
    Raises s ((List.range 9).foldl (checkLine d diffs) u) .portLineFault d [.w (PortId.out d).word, .w i] := by
  obtain ⟨l1, l2, hl, hlt⟩ : ∃ l1 l2 : List Nat, List.range 9 = l1 ++ i :: l2 ∧ ∀ j ∈ l1, j < i := by
    refine ⟨List.range i, (List.range (9 - i - 1)).map (· + (i + 1)), ?_, fun j hj => List.mem_range.mp hj⟩
    have hh : i = 0 ∨ i = 1 ∨ i = 2 ∨ i = 3 ∨ i = 4 ∨ i = 5 ∨ i = 6 ∨ i = 7 ∨ i = 8 := by omega
    rcases hh with rfl | rfl | rfl | rfl | rfl | rfl | rfl | rfl | rfl <;> rfl
  rw [hl, List.foldl_append, List.foldl_cons, foldLine_idle h l1 fun j hjj => hj j (hlt j hjj)]
  refine Raises.andThen (as := [.ports, .link, .integ, .sec]) (Only.foldl (fun v x => checkLine_only _ _ _ _) l2 _) rfl ?_
  unfold checkLine
  dsimp only
  rw [if_pos (by simpa using h8), h, if_neg (by simp [maskBit])]
  exact Raises.andThen (as := []) (Only.refl _ _) rfl (Raises.raise (ho.trans ((State.setPort_only _ _ _).mono rfl)) rfl rfl _ _ _)

theorem slipPort_facts (p : PortId) (b : Bool) (u : State) : ((slipPort p b u).portSt p).slips = satInc (u.portSt p).slips ∧ ((slipPort p b u).portSt p).atLimit = (u.portSt p).atLimit
    ∧ ((slipPort p b u).portSt p).rateCorr = (u.portSt p).rateCorr ∧ ((slipPort p b u).portSt p).fifoLevel = (u.portSt p).fifoLevel ∧ ((slipPort p b u).portSt p).locked = (u.portSt p).locked
    ∧ ((slipPort p b u).portSt p).goodSince = (u.portSt p).goodSince ∧ ((slipPort p b u).portSt p).errSum = (u.portSt p).errSum ∧ ∀ i, i ≠ p.key → (slipPort p b u).ports.ports.get i = u.ports.ports.get i := by
  unfold slipPort
  dsimp only
  rw [portSt_of_ports (raise_ports _ _ _ _), raise_ports, setPort_self]
  exact ⟨rfl, rfl, rfl, rfl, rfl, rfl, rfl, fun i hi => setPort_ne _ _ _ hi⟩

theorem checkQuiet_facts (d : Nat) (moved : List Bool) (i : Nat) (u : State) :
    ((checkQuiet d moved u i).portSt (.inp d)).phase = (u.portSt (.inp d)).phase
    ∧ ((checkQuiet d moved u i).portSt (.inp d)).quietFrames = (u.portSt (.inp d)).quietFrames.set i (if moved.getD i true = true then 0 else (u.portSt (.inp d)).quietFrames.getD i 0 + 1)
    ∧ (∀ j, j ≠ i → (∀ k ∈ (u.portSt (.inp d)).stuck, k.line = j → k.span.stop.isSome = true) → ∀ k ∈ ((checkQuiet d moved u i).portSt (.inp d)).stuck, k.line = j → k.span.stop.isSome = true) := by
  unfold checkQuiet
  dsimp only
  split
  · rename_i hm
    have hx : ∀ (b : Bool) n a (v : State), (if b = true then raise n d a v else v).portSt (.inp d) = v.portSt (.inp d) := fun b n a v => by
      cases b
      · rfl
      · exact portSt_of_ports (raise_ports _ _ _ _) _
    rw [hx, setPort_self]
    refine ⟨rfl, rfl, fun j hj h k hk hl => ?_⟩
    obtain ⟨k', hk', rfl⟩ := List.mem_map.mp hk
    by_cases hc : (decide (k'.line = i) && k'.span.stop.isNone) = true
    · rw [if_pos hc]; rfl
    · rw [if_neg hc] at hl ⊢; exact h k' hk' hl
  · split
    · rw [portSt_of_ports (raise_ports _ _ _ _), setPort_self, setPort_self]
      refine ⟨rfl, rfl, fun j hj h k hk hl => ?_⟩
      rcases List.mem_append.mp hk with hk | hk
      · exact h k ((List.mem_filter.mp hk).1) hl
      · rw [List.mem_singleton.mp hk] at hl; exact absurd hl.symm hj
    · rw [setPort_self]
      exact ⟨rfl, rfl, fun j hj h => h⟩

theorem getD_set_self (l : List Nat) (i v : Nat) (h : i < l.length) : (l.set i v).getD i 0 = v := by
  simp [List.getD, h]

theorem getD_set_ne (l : List Nat) (i j v : Nat) (h : i ≠ j) : (l.set i v).getD j 0 = l.getD j 0 := by
  simp [List.getD, h]

theorem checkQuiet_foldl_other (d : Nat) (moved : List Bool) (j : Nat) : ∀ (l : List Nat), j ∉ l → ∀ u : State,
    ((l.foldl (checkQuiet d moved) u).portSt (.inp d)).phase = (u.portSt (.inp d)).phase
    ∧ ((l.foldl (checkQuiet d moved) u).portSt (.inp d)).quietFrames.length = (u.portSt (.inp d)).quietFrames.length
    ∧ ((l.foldl (checkQuiet d moved) u).portSt (.inp d)).quietFrames.getD j 0 = (u.portSt (.inp d)).quietFrames.getD j 0
    ∧ ((∀ k ∈ (u.portSt (.inp d)).stuck, k.line = j → k.span.stop.isSome = true) → ∀ k ∈ ((l.foldl (checkQuiet d moved) u).portSt (.inp d)).stuck, k.line = j → k.span.stop.isSome = true) := by
  intro l
  induction l with
  | nil => intro _ u; exact ⟨rfl, rfl, rfl, fun h => h⟩
  | cons a l ih =>
    intro hj u
    obtain ⟨h1, h2, h3, h4⟩ := ih (fun h => hj (List.mem_cons_of_mem _ h)) (checkQuiet d moved u a)
    obtain ⟨f1, f2, f3⟩ := checkQuiet_facts d moved a u
    have hne : a ≠ j := fun h => hj (h ▸ List.mem_cons_self)
    rw [List.foldl_cons]
    refine ⟨h1.trans f1, ?_, ?_, fun h => h4 (f3 j (Ne.symm hne) h)⟩
    · rw [h2, f2, List.length_set]
    · rw [h3, f2, getD_set_ne _ _ _ _ hne]

theorem range4_split (i : Nat) (hi : i < 4) : ∃ l1 l2 : List Nat, List.range 4 = l1 ++ i :: l2 ∧ i ∉ l1 ∧ i ∉ l2 := by
  have hh : i = 0 ∨ i = 1 ∨ i = 2 ∨ i = 3 := by omega
  rcases hh with rfl | rfl | rfl | rfl
  · exact ⟨[], [1, 2, 3], rfl, by decide, by decide⟩
  · exact ⟨[0], [2, 3], rfl, by decide, by decide⟩
  · exact ⟨[0, 1], [3], rfl, by decide, by decide⟩
  · exact ⟨[0, 1, 2], [], rfl, by decide, by decide⟩

theorem setAmclk_self (s : State) (d) (f : AmclkSt → AmclkSt) : (s.setAmclk d f).ports.amclks.get d = f (s.ports.amclks.get d) := Tbl.get_modify_self _ _ _

theorem freeze_amclks (p u) : (freezePort p u).ports.amclks = u.ports.amclks := by
  unfold freezePort
  dsimp only
  split
  · rw [raise_ports]; rfl
  · rw [raise_ports]; rfl
  · rw [raise_ports]; rfl
  · unfold stopPort; dsimp only; rw [raise_ports]; rfl
  · rfl

theorem freeze_ne (p : PortId) (u) {i : Nat} (h : i ≠ p.key) : (freezePort p u).ports.ports.get i = u.ports.ports.get i := by
  unfold freezePort
  dsimp only
  split
  · rw [raise_ports]; exact setPort_ne _ _ _ h
  · rw [raise_ports]; exact setPort_ne _ _ _ h
  · rw [raise_ports]; exact setPort_ne _ _ _ h
  · unfold stopPort; dsimp only; rw [raise_ports]; exact setPort_ne _ _ _ h
  · rfl

theorem freeze_running (p : PortId) (u) {s : State} (h : (u.portSt p).phase = .running) (ho : Only [.ports, .link, .integ, .sec] s u) : ((freezePort p u).portSt p).phase = .frozen ∧ Raises s (freezePort p u) .portFrozen p.die [.w p.word, .q s.now, .q (0 : Nat)] := by
  unfold freezePort
  dsimp only
  rw [h]
  dsimp only
  have hn : u.now = s.now := ho.now rfl
  rw [portSt_of_ports (raise_ports _ _ _ _), setPort_self, hn]
  exact ⟨rfl, Raises.raise (ho.trans ((State.setPort_only _ _ _).mono rfl)) rfl rfl _ _ _⟩

theorem PortId.key_ne (d : Nat) (h : d < 8) : (PortId.out d).key ≠ (PortId.inp d).key := by show d ≠ 8 + d; omega

theorem portsOf_nodup (s : State) (d : Nat) (h : d < s.dies) : ((s.portsOf d).map PortId.key).Nodup := by
  have hd : d < 8 := by
    refine Nat.lt_of_lt_of_le h ?_
    show s.part.dies ≤ 8
    cases s.part <;> decide
  unfold State.portsOf
  refine List.Nodup.sublist (List.Sublist.map _ List.filter_sublist) ?_
  show [d, 8 + d].Nodup
  rw [List.nodup_cons, List.mem_singleton]
  exact ⟨by omega, by simp⟩

theorem stopUnits_integ (u : State) : (stopUnits u).integ = u.integ := by
  unfold stopUnits
  exact stopConverters_only u .integ rfl

theorem setAlert_end (a : AlertCond) (s : State) : (setAlert a false s).integ.haltCause = s.integ.haltCause := by
  unfold setAlert
  simp only [Bool.false_and, Bool.false_eq_true, if_false]
  split
  · exact (raise_within _ _ _ _).2.2.2.2.2.1
  · rfl

theorem endForHalted_cause (c : Nat) (s : State) : (endForHalted c s).integ.haltCause = c := rfl

theorem enterHalted_cause (c : Nat) (s : State) (h : s.mode.mode ≠ .halted) : (enterHalted c s).integ.haltCause = c := by
  unfold enterHalted
  rw [if_neg h]
  dsimp only
  rw [(refresh_within _).2.2.2.2.2.1]
  have h1 : ∀ v : State, (if v.link.pcie.linkUp = true then send .aerFault v else v).integ = v.integ := fun v => by split <;> rfl
  rw [h1, stopUnits_integ]
  refine foldl_keep (fun v => v.integ.haltCause = c) _ _ (fun v a hv => (setAlert_end a v).trans hv) _ ?_
  rw [(setMode_within _ _ _).2.2.2.2.2.1]
  exact endForHalted_cause c s

theorem setRing_self (s : State) (r) (f : Ring → Ring) : (s.setRing r f).link.rings.get r = f (s.link.rings.get r) := Tbl.get_modify_self _ _ _

theorem setRing_ne (s : State) (r) (f : Ring → Ring) {i : Nat} (h : i ≠ r) : (s.setRing r f).link.rings.get i = s.link.rings.get i := Tbl.get_modify_of_ne _ h _

theorem resetFunction_facts (s : State) : (resetFunction s).mode.mode = s.mode.mode ∧ (resetFunction s).cfg.active = s.cfg.active ∧ (resetFunction s).link.events = s.link.events
    ∧ (resetFunction s).link.sent = s.link.sent ∧ (resetFunction s).link.pcie = { s.link.pcie with msixEnabled := false, masked := 0xFFFFFFFFFFFFFFFF, pbaPending := 0 }
    ∧ (s.cfg.commit = none → (resetFunction s).cfg.shadow = s.cfg.committed) ∧ (∀ c, s.cfg.commit = some c → (resetFunction s).cfg.shadow = c.set)
    ∧ (∀ r, r < 96 → (resetFunction s).link.rings.get r = (s.link.rings.get r).reset) := by
  unfold resetFunction
  have hr := fun i => Tbl.get_mapAll s.link.rings 96 (fun _ (g : Ring) => g.reset) i
  generalize s.link.rings.mapAll 96 (fun _ (g : Ring) => g.reset) = R at hr
  refine ⟨rfl, rfl, rfl, rfl, rfl, fun h => ?_, fun c h => ?_, fun r h => ?_⟩
  · dsimp only; rw [h]
  · dsimp only; rw [h]
  · dsimp only; rw [hr, if_pos h]

theorem raise_pcie (n o a s) : (raise n o a s).link.pcie = s.link.pcie ∧ (raise n o a s).link.rings = s.link.rings := by
  rw [(raise_reports n o a s).link]
  exact ⟨rfl, rfl⟩

theorem Only.linkThen {s t u : State} (h : Only [.link] s t) (k : Only [.link, .integ, .sec] t u) : Only [.link, .integ, .sec] s u := (h.mono rfl).trans k

theorem bne_off_of_ne {m : OpMode} (h : m ≠ .off) : (m != .off) = true := by cases m <;> simp_all

theorem prefix_of_sent_eq {u : State} {l x : List Sent} (h : u.link.sent = l) (p : u.link.sent <+: x) : l <+: x := h ▸ p

theorem pump_exec (r n : Nat) (s : State) (h : (s.link.rings.get r).executing.isSome = true) : pump r n s = s := by
  cases n with
  | zero => rfl
  | succ n =>
    unfold pump
    dsimp only
    split
    · rw [h, Bool.true_or, Bool.true_or, if_pos rfl]
    · rfl

theorem discardBlock_fold (r : Nat) {α} : ∀ (l : List α) (s : State), ((l.foldl (fun acc _ => discardBlock r acc) s).link.rings.get r).dropped = (s.link.rings.get r).dropped + l.length
    ∧ ((l.foldl (fun acc _ => discardBlock r acc) s).link.rings.get r).waiting = (s.link.rings.get r).waiting
    ∧ ((l.foldl (fun acc _ => discardBlock r acc) s).link.rings.get r).enable = (s.link.rings.get r).enable
    ∧ ((l.foldl (fun acc _ => discardBlock r acc) s).link.rings.get r).err = (s.link.rings.get r).err
    ∧ ((l.foldl (fun acc _ => discardBlock r acc) s).link.rings.get r).fenced = (s.link.rings.get r).fenced
    ∧ ((l.foldl (fun acc _ => discardBlock r acc) s).link.rings.get r).errCode = (s.link.rings.get r).errCode
    ∧ ((l.foldl (fun acc _ => discardBlock r acc) s).link.rings.get r).sequence = (s.link.rings.get r).sequence
    ∧ ∀ i, i ≠ r → (l.foldl (fun acc _ => discardBlock r acc) s).link.rings.get i = s.link.rings.get i := by
  intro l
  induction l with
  | nil => intro s; exact ⟨rfl, rfl, rfl, rfl, rfl, rfl, rfl, fun _ _ => rfl⟩
  | cons a l ih =>
    intro s
    rw [List.foldl_cons]
    obtain ⟨h1, h2, h3, h4, h5, h6, h7, h8⟩ := ih (discardBlock r s)
    rw [h1, h2, h3, h4, h5, h6, h7]
    unfold discardBlock at *
    rw [setRing_self]
    refine ⟨by simp; omega, rfl, rfl, rfl, rfl, rfl, rfl, fun i hi => ?_⟩
    rw [h8 i hi, setRing_ne _ _ _ hi]

theorem haltRing_facts (r e s) : (haltRing r e s).link.rings.get r = { s.link.rings.get r with err := true, errCode := e } ∧ (∀ i, i ≠ r → (haltRing r e s).link.rings.get i = s.link.rings.get i) := by
  unfold haltRing
  dsimp only
  have h : ∀ u : State, (if isCommandRing r = true then signalVector (s.link.rings.get r).vector u else u).link.rings = u.link.rings := fun u => by split; exact signalVector_rings _ _; rfl
  rw [h, raise_rings]
  exact ⟨setRing_self _ _ _, fun i hi => setRing_ne _ _ _ hi⟩

theorem haltRing_raises (r e) {s u : State} (as) (ho : Only as s u) (he : as.contains .events = false) (ht : as.contains .systime = false) (hl : as.contains .link = true) :
    Raises s (haltRing r e u) .ringError pkg [.w r, .w e.code, .w (u.link.rings.get r).devIndex] := by
  unfold haltRing
  dsimp only
  have := Raises.raise (ho.trans ((State.setRing_only u r (fun g => { g with err := true, errCode := e })).mono (by simp at hl ⊢; exact hl))) he ht .ringError pkg [.w r, .w e.code, .w (u.link.rings.get r).devIndex]
  split
  · exact Raises.andThen (signalVector_only _ _) rfl this
  · exact this

theorem hostAccess_rings (s) : (hostAccess s).link = s.link := rfl

theorem raise_mode (n o a s) : (raise n o a s).mode = s.mode := raise_only _ _ _ _ .mode rfl

theorem Ring.takeCtrl_disabled (g : Ring) (v : Nat) (h : g.enable = false) : g.takeCtrl v = { g with sizeLog2 := v % 32, vector := v / 64 % 64, cq := v / 4096 % 16, bufLog2 := v / 65536 % 32 } := by
  unfold Ring.takeCtrl
  dsimp only
  rw [if_neg (by rw [h]; exact Bool.false_ne_true)] <;> rfl

theorem enableError_first (s : State) (r : Nat) (g : Ring) (h : r < 96) :
    ((g.sizeLog2 < 6 ∨ 16 < g.sizeLog2) → s.enableError r g = .size)
    ∧ (6 ≤ g.sizeLog2 → g.sizeLog2 ≤ 16 → 32 ≤ r → (g.bufLog2 < 12 ∨ 22 < g.bufLog2 ∨ 2 ^ g.bufLog2 < (s.cfg.active.routes.get r).largestBlock) → s.enableError r g = .bufSize)
    ∧ (6 ≤ g.sizeLog2 → g.sizeLog2 ≤ 16 → (32 ≤ r → 12 ≤ g.bufLog2 ∧ g.bufLog2 ≤ 22 ∧ (s.cfg.active.routes.get r).largestBlock ≤ 2 ^ g.bufLog2) → s.enableError r g = .none) := by
  unfold State.enableError isDeliveryRing ConfigSet.bufferHolds
  refine ⟨fun a => ?_, fun a b c d => ?_, fun a b c => ?_⟩
  · rw [if_pos (by simpa using a)]
  · rw [if_neg (by simp; omega), if_pos (by
      simp only [Bool.and_eq_true, Bool.or_eq_true, decide_eq_true_eq, Bool.not_eq_true', decide_eq_false_iff_not]
      exact ⟨⟨c, h⟩, by rcases d with d | d | d; exact .inl (.inl d); exact .inl (.inr d); exact .inr (by omega)⟩)]
  · rw [if_neg (by simp; omega), if_neg (by
      simp only [Bool.and_eq_true, Bool.or_eq_true, decide_eq_true_eq, Bool.not_eq_true', decide_eq_false_iff_not]
      rintro ⟨⟨x, -⟩, y⟩
      obtain ⟨c1, c2, c3⟩ := c x
      rcases y with (y | y) | y
      · omega
      · omega
      · exact y c3)]

theorem doorbell_facts (r index : Nat) (resume : Bool) {s u : State} (hl : u.link = s.link) (ho : Only [.mode] s u) :
    (∀ i, i ≠ r → (doorbell r index resume u).link.rings.get i = s.link.rings.get i)
    ∧ (index < 2 ^ (s.link.rings.get r).sizeLog2 → (doorbell r index resume u).link.rings.get r = { s.link.rings.get r with doorbell := index, fenced := (s.link.rings.get r).fenced && !resume })
    ∧ (2 ^ (s.link.rings.get r).sizeLog2 ≤ index → (doorbell r index resume u).link.rings.get r = { s.link.rings.get r with err := true, errCode := .doorbell }
          ∧ Raises s (doorbell r index resume u) .ringError pkg [.w r, .w (1 : Nat), .w (s.link.rings.get r).devIndex]) := by
  unfold doorbell
  dsimp only
  rw [hl]
  refine ⟨fun i hi => ?_, fun a => ?_, fun a => ?_⟩
  · split
    · rw [setRing_ne _ _ _ hi, hl]
    · rw [(haltRing_facts _ _ _).2 i hi, hl]
  · rw [if_pos a, setRing_self, hl]
  · rw [if_neg (by omega), (haltRing_facts _ _ _).1, hl]
    have := haltRing_raises r .doorbell [.link, .mode] (ho.mono rfl) rfl rfl rfl
    rw [hl] at this
    exact ⟨rfl, this⟩

theorem discardBlock_self (r s) : (discardBlock r s).link.rings.get r = { s.link.rings.get r with discards := (s.link.rings.get r).discards + 1, dropped := (s.link.rings.get r).dropped + 1, discardsSec := (s.link.rings.get r).discardsSec + 1 } := setRing_self _ _ _

theorem discardBlock_ne (r s) {i : Nat} (h : i ≠ r) : (discardBlock r s).link.rings.get i = s.link.rings.get i := setRing_ne _ _ _ h

theorem countEntry_facts (r s) : ((countEntry r s).link.rings.get r).waiting = (s.link.rings.get r).waiting ∧ ((countEntry r s).link.rings.get r).dropped = (s.link.rings.get r).dropped
    ∧ ((countEntry r s).link.rings.get r).devIndex = (s.link.rings.get r).devIndex ∧ ((countEntry r s).link.rings.get r).written = (s.link.rings.get r).written
    ∧ ((countEntry r s).link.rings.get r).sequence = (s.link.rings.get r).sequence ∧ ∀ i, i ≠ r → (countEntry r s).link.rings.get i = s.link.rings.get i := by
  unfold countEntry
  dsimp only
  split
  · rw [signalVector_rings, setRing_self]
    exact ⟨rfl, rfl, rfl, rfl, rfl, fun i hi => setRing_ne _ _ _ hi⟩
  · rw [setRing_self]
    exact ⟨rfl, rfl, rfl, rfl, rfl, fun i hi => setRing_ne _ _ _ hi⟩

theorem dropOldest_facts (r s) {b : Block} {rest} (h : (s.link.rings.get r).waiting = b :: rest) :
    (dropOldest r s).link.rings.get r = { s.link.rings.get r with waiting := rest, discards := (s.link.rings.get r).discards + 1, dropped := (s.link.rings.get r).dropped + 1, discardsSec := (s.link.rings.get r).discardsSec + 1 }
    ∧ ∀ i, i ≠ r → (dropOldest r s).link.rings.get i = s.link.rings.get i := by
  unfold dropOldest
  rw [discardBlock_self, setRing_self, h]
  exact ⟨rfl, fun i hi => by rw [discardBlock_ne _ _ hi, setRing_ne _ _ _ hi]⟩

theorem formRouted_rings (cls : DelClass) (sel : RouteEntry → Bool) (b : BlockIn) (s : State) (h : s.dieUp b.die = true) (hm : s.mode.mode ≠ .halted) :
    (∀ r ∈ s.routeRings cls b.die sel, ((formRouted cls sel b s).link.rings.get r).sequence = (s.link.rings.get r).sequence + 1)
    ∧ ∀ r, r ∉ s.routeRings cls b.die sel → (formRouted cls sel b s).link.rings.get r = s.link.rings.get r := by
  unfold formRouted
  rw [if_pos h]
  have hn := routeRings_nodup s cls b.die sel
  generalize s.routeRings cls b.die sel = l at hn
  clear h
  induction l generalizing s with
  | nil => exact ⟨fun r hr => absurd hr (by simp), fun _ _ => rfl⟩
  | cons a l ih =>
    rw [List.nodup_cons] at hn
    obtain ⟨i1, i2⟩ := ih (formBlock a b s) (by rw [formBlock_only a b s .mode rfl]; exact hm) hn.2
    rw [List.foldl_cons]
    refine ⟨fun r hr => ?_, fun r hr => ?_⟩
    · rcases List.mem_cons.mp hr with rfl | hr'
      · rw [i2 r hn.1]; exact (formBlock_seq _ _ _ hm).1
      · rw [i1 r hr', (formBlock_seq a b s hm).2.2.2.2 r (fun h => hn.1 (h ▸ hr'))]
    · rw [i2 r (fun h => hr (by simp [h])), (formBlock_seq a b s hm).2.2.2.2 r (fun h => hr (by simp [h]))]

theorem formEvents_keep (x t0 : Nat) (es : List Ev) (s : State) : (formEvents x t0 es s).link.events = s.link.events ∧ (formEvents x t0 es s).link.lastEventBlock.get x = s.now := by
  have hb : ∀ r b (u : State), (formBlock r b u).link.events = u.link.events ∧ (formBlock r b u).link.lastEventBlock = u.link.lastEventBlock := by
    intro r b u
    have h1 : ∀ (v : State) (f : Ring → Ring), (v.setRing r f).link.events = v.link.events ∧ (v.setRing r f).link.lastEventBlock = v.link.lastEventBlock := fun _ _ => ⟨rfl, rfl⟩
    unfold formBlock discardBlock
    dsimp only
    split
    · exact ⟨rfl, rfl⟩
    split
    · split
      · exact ⟨by rw [(h1 _ _).1, (h1 _ _).1, (h1 _ _).1], by rw [(h1 _ _).2, (h1 _ _).2, (h1 _ _).2]⟩
      · exact ⟨by rw [(h1 _ _).1, (h1 _ _).1], by rw [(h1 _ _).2, (h1 _ _).2]⟩
    · exact ⟨by rw [(h1 _ _).1, (h1 _ _).1], by rw [(h1 _ _).2, (h1 _ _).2]⟩
  have hr : ∀ cls sel b (u : State), (formRouted cls sel b u).link.events = u.link.events ∧ (formRouted cls sel b u).link.lastEventBlock = u.link.lastEventBlock := by
    intro cls sel b u
    unfold formRouted
    split
    · exact foldl_keep (fun v => v.link.events = u.link.events ∧ v.link.lastEventBlock = u.link.lastEventBlock) _ _ (fun v r hv => ⟨(hb r b v).1.trans hv.1, (hb r b v).2.trans hv.2⟩) _ ⟨rfl, rfl⟩
    · exact ⟨rfl, rfl⟩
  have hs : ∀ cls sel n recs b (u : State), (formRecordBlocks cls sel n recs b u).link.events = u.link.events ∧ (formRecordBlocks cls sel n recs b u).link.lastEventBlock = u.link.lastEventBlock := by
    intro cls sel n recs b u
    unfold formRecordBlocks
    exact foldl_keep (fun v => v.link.events = u.link.events ∧ v.link.lastEventBlock = u.link.lastEventBlock) _ _ (fun v c hv => ⟨(hr _ _ _ v).1.trans hv.1, (hr _ _ _ v).2.trans hv.2⟩) _ ⟨rfl, rfl⟩
  unfold formEvents
  rw [(hs _ _ _ _ _ _).1, (hs _ _ _ _ _ _).2]
  exact ⟨rfl, Tbl.get_set_self _ _ _⟩

theorem foldSet_other {α β : Type} [DecidableEq β] (k : α → Nat) (v : α → β) (i : Nat) : ∀ (l : List α) (t : Tbl β), (∀ x ∈ l, i ≠ k x) → (l.foldl (fun t x => t.set (k x) (v x)) t).get i = t.get i := by
  intro l
  induction l with
  | nil => intro t _; rfl
  | cons a l ih =>
    intro t h
    rw [List.foldl_cons, ih _ fun x hx => h x (List.mem_cons_of_mem _ hx)]
    exact Tbl.get_set_of_ne _ (h a List.mem_cons_self) _

theorem foldSet_mem {α β : Type} [DecidableEq β] (k : α → Nat) (v : α → β) : ∀ (l : List α), (l.map k).Nodup → ∀ (t : Tbl β) (x : α), x ∈ l → (l.foldl (fun t x => t.set (k x) (v x)) t).get (k x) = v x := by
  intro l
  induction l with
  | nil => intro _ t x hx; exact absurd hx (by simp)
  | cons a l ih =>
    intro hn t x hx
    rw [List.map_cons, List.nodup_cons] at hn
    rw [List.foldl_cons]
    rcases List.mem_cons.mp hx with rfl | hx
    · rw [foldSet_other k v (k x) l _ (fun y hy h => hn.1 (h ▸ List.mem_map_of_mem hy))]
      exact Tbl.get_set_self _ _ _
    · exact ih hn.2 _ x hx

theorem maskList_nodup (n m : Nat) : (maskList n m).Nodup := List.nodup_range.sublist List.filter_sublist

theorem zipIdx_nodup {l : List Nat} (hl : l.Nodup) (g : Nat → Nat) (h : Nat → Nat) (hinj : ∀ a b, h a = h b → a = b) : ((l.zipIdx.map fun x => (g x.2, x.1)).map fun y => h y.2).Nodup := by
  have : ((l.zipIdx.map fun x => (g x.2, x.1)).map fun y => h y.2) = l.map h := by
    rw [List.map_map]
    show l.zipIdx.map (h ∘ Prod.fst) = _
    rw [← List.map_map, List.zipIdx_map_fst]
  rw [this]
  induction l with
  | nil => exact List.nodup_nil
  | cons a l ih =>
    rw [List.nodup_cons] at hl
    rw [List.map_cons, List.nodup_cons]
    refine ⟨fun hm => ?_, ih hl.2 ?_⟩
    · obtain ⟨b, hb, he⟩ := List.mem_map.mp hm
      exact hl.1 (hinj _ _ he ▸ hb)
    · rw [List.map_map]
      show l.zipIdx.map (h ∘ Prod.fst) = _
      rw [← List.map_map, List.zipIdx_map_fst]

theorem map_nodup (h : Nat → Nat) (hinj : ∀ a b, h a = h b → a = b) : ∀ l : List Nat, l.Nodup → (l.map h).Nodup := by
  intro l
  induction l with
  | nil => intro _; exact List.nodup_nil
  | cons y l ih =>
    intro hn
    rw [List.nodup_cons] at hn
    rw [List.map_cons, List.nodup_cons]
    refine ⟨fun hm => ?_, ih hn.2⟩
    obtain ⟨w, hw, he⟩ := List.mem_map.mp hm
    exact hn.1 (hinj _ _ he ▸ hw)

theorem copyEntry_bank (c : ConfigSet) (a b d x : Nat) (hd : d < 8) (hm : maskBit b d = true) (hx : x < 32) :
    (c.copyEntry 7 a b).filters.get (filterKey d (a / 256 % 8) x) = c.filters.get (filterKey (a % 8) (a / 256 % 8) x) := by
  show ((maskList 8 b).foldl (fun (t : Tbl Filter) die => (List.range 32).foldl (fun t f => t.set (filterKey die (a / 256 % 8) f) (c.filters.get (filterKey (a % 8) (a / 256 % 8) f))) t) c.filters).get _ = _
  have hmem : d ∈ maskList 8 b := List.mem_filter.mpr ⟨List.mem_range.mpr hd, hm⟩
  have hlt : a / 256 % 8 < 8 := Nat.mod_lt _ (by decide)
  have hnd := maskList_nodup 8 b
  generalize maskList 8 b = l at hmem hnd
  generalize hG : (fun (t : Tbl Filter) die => (List.range 32).foldl (fun t f => t.set (filterKey die (a / 256 % 8) f) (c.filters.get (filterKey (a % 8) (a / 256 % 8) f))) t) = G
  have hself : ∀ t, (G t d).get (filterKey d (a / 256 % 8) x) = c.filters.get (filterKey (a % 8) (a / 256 % 8) x) := by
    intro t
    rw [← hG]
    refine foldSet_mem (fun f => filterKey d (a / 256 % 8) f) (fun f => c.filters.get (filterKey (a % 8) (a / 256 % 8) f)) (List.range 32) ?_ t x (List.mem_range.mpr hx)
    have hk : ∀ f, filterKey d (a / 256 % 8) f = (d * 8 + a / 256 % 8) * 32 + f := fun _ => rfl
    generalize (d * 8 + a / 256 % 8) * 32 = z at hk
    have hfun : (fun f => filterKey d (a / 256 % 8) f) = (fun f => z + f) := funext hk
    rw [hfun]
    exact map_nodup _ (fun a b h => by omega) _ List.nodup_range
  have hother : ∀ t e, e ≠ d → (G t e).get (filterKey d (a / 256 % 8) x) = t.get (filterKey d (a / 256 % 8) x) := by
    intro t e he
    rw [← hG]
    refine foldSet_other _ _ _ _ _ fun f hf h => ?_
    have := List.mem_range.mp hf
    unfold filterKey at h
    omega
  clear hG hm
  generalize c.filters.get (filterKey (a % 8) (a / 256 % 8) x) = V at hself
  generalize c.filters = t0
  induction l generalizing t0 with
  | nil => exact absurd hmem (by simp)
  | cons y l ih =>
    rw [List.foldl_cons]
    rw [List.nodup_cons] at hnd
    rcases List.mem_cons.mp hmem with rfl | hmem
    · have hk : ∀ (l : List Nat), d ∉ l → ∀ t, (l.foldl G t).get (filterKey d (a / 256 % 8) x) = t.get (filterKey d (a / 256 % 8) x) := by
        intro l
        induction l with
        | nil => intro _ t; rfl
        | cons z l ih2 => intro hz t; rw [List.foldl_cons, ih2 (fun h => hz (List.mem_cons_of_mem _ h)), hother _ _ (fun h => hz (h ▸ List.mem_cons_self))]
      rw [hk l hnd.1, hself]
    · exact ih hmem hnd.2 _

theorem raise_cal (n o a s) : (raise n o a s).cal = s.cal := raise_only n o a s .cal rfl

theorem raise_nv (n o a s) : (raise n o a s).nv = s.nv := raise_only n o a s .nv rfl

theorem refresh_cal (s) : (refresh s).cal = s.cal := refresh_only s .cal rfl

theorem refresh_nv (s) : (refresh s).nv = s.nv := refresh_only s .nv rfl

theorem refresh_sent (s) : (refresh s).link.sent = s.link.sent := by rw [(refresh_reports s).link]

theorem refresh_rings (s) : (refresh s).link.rings = s.link.rings := by rw [(refresh_reports s).link]

theorem setCalSlot_self (v : NvSt) (b x) : (v.setCalSlot b x).calSlot b = x := by unfold NvSt.setCalSlot NvSt.calSlot; cases b <;> rfl

theorem setCalSlot_other (v : NvSt) (b x) : (v.setCalSlot b x).calSlot (!b) = v.calSlot (!b) := by unfold NvSt.setCalSlot NvSt.calSlot; cases b <;> rfl

theorem beginStore_facts (a) (u : State) : ∃ st, (beginStore a u).cal.store = some st ∧ st.seq = u.cal.storeSeq + 1 ∧ st.snap = ⟨u.cal.coefs, u.cal.items⟩ ∧ st.automatic = a ∧ ((beginStore a u).nv.calSlot (st.slot == 1)).valid = false
    ∧ (beginStore a u).nv.calSlot (st.slot != 1) = u.nv.calSlot (st.slot != 1) := by
  unfold beginStore
  dsimp only
  have hb : ∀ b, (b2n b == 1) = b := by intro b; cases b <;> rfl
  have hb2 : ∀ b, (b2n b != 1) = !b := by intro b; cases b <;> rfl
  refine ⟨_, rfl, rfl, rfl, rfl, ?_, ?_⟩
  · dsimp only
    rw [hb, setCalSlot_self]
  · dsimp only
    rw [hb2, setCalSlot_other]

theorem calOverdue_taskOverdue (t : Task) (o : Nat) (a) {s u : State} (hr : Raises s u .calOverdue o a) : Raises s (refresh (preempt (taskOverdue t u))) .calOverdue o a :=
  Raises.andThen (refresh_only _) rfl (Raises.andThen (preempt_only _) rfl (Raises.andThen (taskOverdue_only _ _) rfl hr))

theorem setCourse_self (s : State) (n) (f : Course → Course) : (s.setCourse n f).front.courses.get n = f (s.front.courses.get n) := Tbl.get_modify_self _ _ _

theorem setStep_self (n : Nat) (f : LevelStep → LevelStep) {u : State} {st : LevelStep} (h : u.cal.steps.get n = some st) : (setStep n f u).cal.steps.get n = some (f st) := by
  unfold setStep
  dsimp only
  rw [Tbl.get_modify_self, h]; rfl

theorem setStep_ne (n : Nat) (f : LevelStep → LevelStep) (u : State) {k : Nat} (h : k ≠ n) : (setStep n f u).cal.steps.get k = u.cal.steps.get k := Tbl.get_modify_of_ne _ h _

theorem setStep_coefs (n : Nat) (f : LevelStep → LevelStep) (u : State) : (setStep n f u).cal.coefs = u.cal.coefs := rfl

theorem setInject_cal (n v u) : (setInject n v u).cal = u.cal := rfl

theorem noRepeat_false {r : Bool} {a b : Nat} (h : r = true ∨ b < a) : ¬ (!r && decide (a ≤ b)) = true := by
  rcases h with h | h
  · rw [h]; exact Bool.false_ne_true
  · rw [decide_eq_false (Nat.not_le_of_lt h), Bool.and_false]; exact Bool.false_ne_true

theorem setMon_self (s : State) (d) (f : MonSt → MonSt) : (s.setMon d f).mon.dies.get d = f (s.mon.dies.get d) := Tbl.get_modify_self _ _ _

theorem setMon_ne (s : State) {d k : Nat} (f : MonSt → MonSt) (h : k ≠ d) : (s.setMon d f).mon.dies.get k = s.mon.dies.get k := Tbl.get_modify_of_ne _ h _

theorem raise_mon (n o a s) : (raise n o a s).mon = s.mon := raise_only n o a s .mon rfl

theorem feedPresence_mon (d s) : (feedPresence d s).mon = s.mon := feedPresence_only d s .mon rfl

theorem feedMeasured_mon (d c v s) : (feedMeasured d c v s).mon = s.mon := feedMeasured_only d c v s .mon rfl

theorem tempMeasured_self (d c v) (s : State) : ∃ x y, (tempMeasured d c v s).mon.dies.get d = { s.mon.dies.get d with temps := x, tempHigh := y } := by
  unfold tempMeasured; dsimp only
  split
  · refine ⟨(s.mon.dies.get d).temps.set c (some v), true, ?_⟩; rw [raise_mon, setMon_self, setMon_self]
  · split
    · refine ⟨(s.mon.dies.get d).temps.set c (some v), false, ?_⟩; rw [raise_mon, setMon_self, setMon_self]
    · refine ⟨(s.mon.dies.get d).temps.set c (some v), (s.mon.dies.get d).tempHigh, ?_⟩; rw [setMon_self]

theorem tempMeasured_ne (d c v) (s : State) {k : Nat} (h : k ≠ d) : (tempMeasured d c v s).mon.dies.get k = s.mon.dies.get k := by
  unfold tempMeasured; dsimp only
  split
  · rw [raise_mon, setMon_ne _ _ h, setMon_ne _ _ h]
  · split
    · rw [raise_mon, setMon_ne _ _ h, setMon_ne _ _ h]
    · rw [setMon_ne _ _ h]

theorem startConv_ne (d i) (s : State) {k : Nat} (h : k ≠ d) : (startConv d i s).mon.dies.get k = s.mon.dies.get k := by unfold startConv; exact setMon_ne _ _ h

theorem startConv_self (d i) (s : State) : (startConv d i s).mon.dies.get d = { s.mon.dies.get d with entry := i, converting := true, convStart := s.now, repeats := false, passDue := none } := by unfold startConv; exact setMon_self _ _ _

theorem startPass_ne (d) (s : State) {k : Nat} (h : k ≠ d) : (startPass d s).mon.dies.get k = s.mon.dies.get k := by unfold startPass; rw [startConv_ne _ _ _ h, setMon_ne _ _ h]

theorem startPass_self (d) (s : State) : (startPass d s).mon.dies.get d = { s.mon.dies.get d with periodNow := (s.mon.dies.get d).passPeriod, passStart := s.now, entry := 0, converting := true, convStart := s.now, repeats := false, passDue := none } := by
  unfold startPass; rw [startConv_self, setMon_self]; rfl

theorem duePass_ne (d at_) (s : State) {k : Nat} (h : k ≠ d) : (duePass d at_ s).mon.dies.get k = s.mon.dies.get k := by
  unfold duePass; split
  · exact startPass_ne _ _ h
  · exact setMon_ne _ _ h

theorem duePass_run (d at_) (s : State) : ((duePass d at_ s).mon.dies.get d).run = (s.mon.dies.get d).run := by
  unfold duePass; split
  · rw [startPass_self]
  · rw [setMon_self]

theorem startSequence_ne (d) (s : State) {k : Nat} (h : k ≠ d) : (startSequence d s).mon.dies.get k = s.mon.dies.get k := by unfold startSequence; exact duePass_ne _ _ _ h

theorem applyMon_ne (d) (s : State) {k : Nat} (h : k ≠ d) : (applyMon d s).mon.dies.get k = s.mon.dies.get k := by
  unfold applyMon; dsimp only; split
  · rw [raise_mon, setMon_ne _ _ h]
  · rw [feedPresence_mon, setMon_ne _ _ h]

theorem passEnd_ne (d) (s : State) {k : Nat} (h : k ≠ d) : (passEnd d s).mon.dies.get k = s.mon.dies.get k := by
  unfold passEnd; dsimp only
  have hb : ∀ u : State, (if (u.mon.dies.get d).applyPending = true then applyMon d u else u).mon.dies.get k = u.mon.dies.get k := by
    intro u; split
    · exact applyMon_ne _ _ h
    · rfl
  have hs := hb s
  revert hs
  generalize (if (s.mon.dies.get d).applyPending = true then applyMon d s else s) = U
  intro hs
  split
  · rw [duePass_ne _ _ _ h, hs]
  · split
    · rw [duePass_ne _ _ _ h, hs]
    · rw [duePass_ne _ _ _ h, setMon_ne _ _ h, hs]

theorem stopSequence_ne (d) (s : State) {k : Nat} (h : k ≠ d) : (stopSequence d s).mon.dies.get k = s.mon.dies.get k := by
  unfold stopSequence; dsimp only
  split
  · rw [applyMon_ne _ _ h, setMon_ne _ _ h]
  · exact setMon_ne _ _ h

theorem applyMon_idle (d) (s : State) : ((applyMon d s).mon.dies.get d).converting = (s.mon.dies.get d).converting ∧ ((applyMon d s).mon.dies.get d).stopping = (s.mon.dies.get d).stopping
    ∧ ((applyMon d s).mon.dies.get d).passDue = (s.mon.dies.get d).passDue ∧ ((applyMon d s).mon.dies.get d).run = (s.mon.dies.get d).run := by
  unfold applyMon; dsimp only; split
  · rw [raise_mon, setMon_self]; exact ⟨rfl, rfl, rfl, rfl⟩
  · rw [feedPresence_mon, setMon_self]; exact ⟨rfl, rfl, rfl, rfl⟩

theorem stopSequence_self (d) (s : State) : ((stopSequence d s).mon.dies.get d).converting = false ∧ ((stopSequence d s).mon.dies.get d).stopping = false ∧ ((stopSequence d s).mon.dies.get d).passDue = none
    ∧ ((stopSequence d s).mon.dies.get d).run = (s.mon.dies.get d).run := by
  unfold stopSequence; dsimp only
  split
  · refine ⟨(applyMon_idle d _).1.trans ?_, (applyMon_idle d _).2.1.trans ?_, (applyMon_idle d _).2.2.1.trans ?_, (applyMon_idle d _).2.2.2.trans ?_⟩ <;> rw [setMon_self]
  · rw [setMon_self]; exact ⟨rfl, rfl, rfl, rfl⟩

theorem MonSt.take_facts (m : MonSt) (i e v) : (m.take i e v).entry = m.entry ∧ (m.take i e v).clearPending = m.clearPending ∧ (m.take i e v).applyPending = m.applyPending ∧ (m.take i e v).periodNow = m.periodNow
    ∧ (m.take i e v).queue = m.queue ∧ (m.take i e v).accs = (if e.accEn then m.accs.modify i (·.add v) else m.accs) ∧ (m.take i e v).trks = (if e.trkEn then m.trks.modify e.trk (·.add v) else m.trks) := by
  unfold MonSt.take; dsimp only
  by_cases h1 : e.accEn = true <;> by_cases h2 : e.trkEn = true <;> simp [h1, h2]

theorem MonSt.clearIfPending_facts (m : MonSt) : m.clearIfPending.applyPending = m.applyPending ∧ m.clearIfPending.periodNow = m.periodNow ∧ m.clearIfPending.queue = m.queue
    ∧ (m.clearPending = true → m.clearIfPending = { m with clearPending := false, accs := Tbl.empty {}, trks := Tbl.empty {} }) ∧ (m.clearPending = false → m.clearIfPending = m) := by
  unfold MonSt.clearIfPending
  cases h : m.clearPending
  · exact ⟨rfl, rfl, rfl, fun a => absurd a Bool.false_ne_true, fun _ => rfl⟩
  · exact ⟨rfl, rfl, rfl, fun _ => rfl, fun a => absurd a.symm Bool.false_ne_true⟩

theorem resumeSequence_ne (d) (s : State) {k : Nat} (h : k ≠ d) : (resumeSequence d s).mon.dies.get k = s.mon.dies.get k := by
  unfold resumeSequence; dsimp only
  split
  · exact startConv_ne _ _ _ h
  · split
    · split
      · exact startPass_ne _ _ h
      · rfl
    · rfl

theorem resumeSequence_queue (d) (s : State) : ((resumeSequence d s).mon.dies.get d).queue = (s.mon.dies.get d).queue := by
  unfold resumeSequence; dsimp only
  split
  · rw [startConv_self]
  · split
    · split
      · rw [startPass_self]
      · rfl
    · rfl

theorem setMonitor_coefs (d c) (T : State) : (taskNormal (.monitor d) (calSuccess 4 d (setMonitor d c T))).cal.coefs = { T.cal.coefs with monitor := T.cal.coefs.monitor.set d c } := by
  rw [taskNormal_only _ _ .cal rfl]
  unfold calSuccess calSuccessOf calChanged setMonitor calChanged
  dsimp only
  rfl

theorem setMonitor_mon (d c) (T : State) {k : Nat} (h : k ≠ d) : (taskNormal (.monitor d) (calSuccess 4 d (setMonitor d c T))).mon.dies.get k = T.mon.dies.get k := by
  rw [taskNormal_only _ _ .mon rfl, calSuccess_only _ _ _ .mon rfl]
  unfold setMonitor calChanged
  dsimp only
  exact setMon_ne _ _ h

end Sys2Proof.Machine
end

