-- ==== Sys2Proof/Laws/OpsOfdm.lean ====
section
/-!
SUPPORT. What the shared operations of the OFDM engines do, said once.
-/
namespace Sys2Proof.Machine

theorem setEngine_ne (s : State) (e : Nat) (f : EngineSt → EngineSt) {i : Nat} (h : i ≠ e) : (s.setEngine e f).ofdm.engines.get i = s.ofdm.engines.get i := Tbl.get_modify_of_ne _ h _

theorem setEngine_self (s : State) (e : Nat) (f : EngineSt → EngineSt) : (s.setEngine e f).ofdm.engines.get e = f (s.ofdm.engines.get e) := Tbl.get_modify_self _ _ _

theorem setSignal_self (s : State) (e p : Nat) (f : SignalSt → SignalSt) : (s.setSignal e p f).signal e p = f (s.signal e p) := by
  unfold State.signal State.setSignal
  rw [setEngine_self]; exact Tbl.get_modify_self _ _ _

theorem setSignal_ne (s : State) (e p : Nat) (f : SignalSt → SignalSt) {k : Nat} (h : k ≠ p) : (s.setSignal e p f).signal e k = s.signal e k := by
  unfold State.signal State.setSignal
  rw [setEngine_self]; exact Tbl.get_modify_of_ne _ h _

theorem signal_setEngine (s : State) (e p k : Nat) (f : EngineSt → EngineSt) (hf : ∀ x, (f x).signals = x.signals) : (s.setEngine e f).signal e k = s.signal e k := by
  unfold State.signal
  rw [setEngine_self, hf]

theorem signal_of_ofdm {s t : State} (h : t.ofdm = s.ofdm) (e p : Nat) : t.signal e p = s.signal e p := by unfold State.signal; rw [h]

theorem engineAlert_ofdm (e p : Nat) (on : Bool) (s : State) : (engineAlert e p on s).ofdm = s.ofdm := engineAlert_only _ _ _ _ .ofdm rfl

/-- A restart puts the position's state at its initial values but for what the period has seen; the engine counts it; a signal in synchronisation reports its loss. -/
theorem restartSignal_facts (e p from_ : Nat) (s : State) :
    (restartSignal e p from_ s).signal e p = { acqFrom := from_, restartSeen := true, erasedSeen := (s.signal e p).erasedSeen, reconfigSeen := (s.signal e p).reconfigSeen }
    ∧ ((restartSignal e p from_ s).ofdm.engines.get e).restarts = (s.ofdm.engines.get e).restarts + 1
    ∧ (∀ i, i ≠ e → (restartSignal e p from_ s).ofdm.engines.get i = s.ofdm.engines.get i)
    ∧ ((s.signal e p).synced = true → Raises s (restartSignal e p from_ s) .ofdmSyncLost (engineDie e) [.w e, .w p]) := by
  have h0 := engineAlert_only e p false s
  have h1 := engineAlert_ofdm e p false s
  have h2 := signal_of_ofdm h1 e p
  unfold restartSignal
  dsimp only
  generalize engineAlert e p false s = u at h0 h1 h2 ⊢
  have hr : ∀ (c : Bool) n o a (v : State), (if c = true then raise n o a v else v).ofdm = v.ofdm := fun c n o a v => by
    cases c
    · rfl
    · exact raise_only _ _ _ _ .ofdm rfl
  refine ⟨?_, ?_, fun i hi => ?_, fun hs => ?_⟩
  · rw [signal_of_ofdm (hr _ _ _ _ _)]
    refine (signal_setEngine _ e p p _ ?_).trans ?_
    · intro x; rfl
    · rw [setSignal_self, h2]
  · rw [hr, setEngine_self]
    dsimp only
    unfold State.setSignal
    rw [setEngine_self, h1]
  · rw [hr, setEngine_ne _ _ _ hi]; unfold State.setSignal; rw [setEngine_ne _ _ _ hi, h1]
  · exact Raises.itePos hs (Raises.raise (as := [.ofdm, .link, .integ, .mode, .domains, .sec]) ((h0.mono rfl).trans (((State.setSignal_only _ _ _ _).mono rfl).trans ((State.setEngine_only _ _ _).mono rfl))) rfl rfl _ _ _)

/-- Synchronisation and control counts of a position, with its place in the frame. -/
def syncPart (x : SignalSt) : (Bool × Nat × Nat × Nat) × Option Int × Nat := ((x.synced, x.lostFrames, x.ctrlTotal, x.ctrlFail), x.frameAt, x.cifsDone)

/-- What a position's outputs leave alone: the above, the CIFs counted, the configuration and its reconfiguration. -/
def corePart (x : SignalSt) : ((Bool × Nat × Nat × Nat) × Option Int × Nat) × Nat × Option Nat × Bool × FigSet := (syncPart x, x.cifTotal, x.reconfigAt, x.reconfigSeen, x.current)

theorem syncPart_of_core {x y : SignalSt} (h : corePart x = corePart y) : syncPart x = syncPart y := congrArg Prod.fst h

/-- An update of a position that keeps a part of it keeps it in the state. -/
theorem setSignal_part {β : Type} (g : SignalSt → β) (s : State) (e p : Nat) (f : SignalSt → SignalSt) (hf : ∀ x, g (f x) = g x) : g ((s.setSignal e p f).signal e p) = g (s.signal e p) := by
  rw [setSignal_self, hf]

theorem part_of_ofdm {β : Type} (g : SignalSt → β) {s t : State} (h : t.ofdm = s.ofdm) (e p : Nat) : g (t.signal e p) = g (s.signal e p) := by rw [signal_of_ofdm h]

theorem addSide_signal (e p : Nat) (rs : List EngineRec) (s : State) : (addSide e rs s).signal e p = s.signal e p := signal_setEngine _ _ p _ _ (by intro x; rfl)

theorem addUnits_signal (e p : Nat) (rs : List EngineRec) (s : State) : (addUnits e rs s).signal e p = s.signal e p := signal_setEngine _ _ p _ _ (by intro x; rfl)

theorem setSub_core (e p id : Nat) (g : SubCount → SubCount) (s : State) : corePart ((setSub e p id g s).signal e p) = corePart (s.signal e p) :=
  setSignal_part corePart _ _ _ _ (by intro x; rfl)

/-- A fold of steps that each keep a position's part keeps it. -/
theorem foldl_core {α : Type} (e p : Nat) (f : State → α → State) (hf : ∀ v a, corePart ((f v a).signal e p) = corePart (v.signal e p)) (l : List α) (u : State) :
    corePart ((l.foldl f u).signal e p) = corePart (u.signal e p) :=
  foldl_keep (fun v => corePart (v.signal e p) = corePart (u.signal e p)) f l (fun v a hv => (hf v a).trans hv) u rfl

theorem ite_core (e p : Nat) (c : Bool) (a s : State) (h : corePart (a.signal e p) = corePart (s.signal e p)) : corePart ((if c = true then a else s).signal e p) = corePart (s.signal e p) := by
  cases c
  · rfl
  · exact h

theorem core_ite (e p : Nat) (c : Bool) (a s : State) (h : corePart (a.signal e p) = corePart (s.signal e p)) : corePart ((if c = true then s else a).signal e p) = corePart (s.signal e p) := by
  cases c
  · exact h
  · rfl

theorem takeUnit_core (e p : Nat) (s : State) (u : AccessUnit) : corePart ((takeUnit e p s u).signal e p) = corePart (s.signal e p) := by
  unfold takeUnit
  dsimp only
  refine (ite_core e p _ _ _ (congrArg corePart (addUnits_signal _ _ _ _))).trans ?_
  rw [setSignal_part corePart _ _ _ _ (by intro x; rfl)]
  exact part_of_ofdm corePart (Only.foldl (as := [.audio]) (fun v k => State.setContext_only _ _ _) _ _ .ofdm rfl) e p

theorem takeGroup_core (e p : Nat) (s : State) (u : DataGroup) : corePart ((takeGroup e p s u).signal e p) = corePart (s.signal e p) := by
  unfold takeGroup
  dsimp only
  refine (ite_core e p _ _ _ (congrArg corePart (addSide_signal _ _ _ _))).trans ?_
  rw [setSignal_part corePart _ _ _ _ (by intro x; rfl)]
  by_cases h : u.origin = 1
  · rw [if_pos h]
  · rw [if_neg h]; exact setSub_core _ _ _ _ _

theorem takePad_core (e : Nat) (u : AccessUnit) (s : State) : corePart ((takePad e u s).signal e 0) = corePart (s.signal e 0) := by
  unfold takePad
  dsimp only
  split
  · rfl
  · rw [foldl_core e 0 _ (fun _ _ => takeGroup_core _ _ _ _), setSub_core]

theorem takeAudio_core (e : Nat) (us : List AccessUnit) (s : State) : corePart ((takeAudio e us s).signal e 0) = corePart (s.signal e 0) :=
  foldl_core e 0 _ (fun v u => (takePad_core e u _).trans (takeUnit_core e 0 v u)) us s

theorem takeDabPlus_core (e id : Nat) (lf : LogicalFrame) (s : State) : corePart ((takeDabPlus e id lf s).signal e 0) = corePart (s.signal e 0) := by
  unfold takeDabPlus
  dsimp only
  split
  · exact setSub_core _ _ _ _ _
  · rw [takeAudio_core, setSub_core, setSub_core]

theorem takeWhole_core (e id codec : Nat) (lf : LogicalFrame) (s : State) : corePart ((takeWhole e id codec lf s).signal e 0) = corePart (s.signal e 0) := by
  unfold takeWhole
  dsimp only
  split
  · exact takeAudio_core _ _ _
  · exact takeUnit_core _ _ _ _

theorem takePackets_core (e id : Nat) (lf : LogicalFrame) (corrected failed : Bool) (ps : List Packet) (s : State) :
    corePart ((takePackets e id lf corrected failed ps s).signal e 0) = corePart (s.signal e 0) := by
  refine foldl_core e 0 _ (fun v q => ?_) ps s
  dsimp only
  split
  · rfl
  · split
    · rw [takeGroup_core, setSub_core]
    · exact setSub_core _ _ _ _ _

theorem takeFec_core (e id : Nat) (lf : LogicalFrame) (s : State) (q : Packet × List Byte) : corePart ((takeFec e id lf s q).signal e 0) = corePart (s.signal e 0) := by
  unfold takeFec
  dsimp only
  split
  · exact setSub_core _ _ _ _ _
  · split
    · split
      · rw [takePackets_core, setSub_core, setSub_core]
      · exact setSub_core _ _ _ _ _
    · exact setSub_core _ _ _ _ _

theorem takePacketFrame_core (e id : Nat) (lf : LogicalFrame) (s : State) : corePart ((takePacketFrame e id lf s).signal e 0) = corePart (s.signal e 0) := by
  have h := foldl_core e 0 (takeFec e id lf) (takeFec_core e id lf) (packetsOf lf.bytes.length lf.bytes) s
  unfold takePacketFrame
  dsimp only
  split
  · exact h
  · rw [takePackets_core]; exact h

theorem takeLogical_core (e id : Nat) (lf : LogicalFrame) (s : State) : corePart ((takeLogical e id lf s).signal e 0) = corePart (s.signal e 0) := by
  unfold takeLogical
  split
  · exact takeDabPlus_core _ _ _ _
  · exact takeWhole_core _ _ _ _ _
  · exact takeWhole_core _ _ _ _ _
  · exact takePacketFrame_core _ _ _ _
  · rfl

theorem takeStream_core (e p i airTime doneAt flags : Nat) (erased : Bool) (part : List Byte) (s : State) :
    corePart ((takeStream e p i airTime doneAt flags erased part s).signal e p) = corePart (s.signal e p) := by
  unfold takeStream
  dsimp only
  rw [foldl_core e p _ (fun _ _ => takeGroup_core _ _ _ _), setSub_core]
  split
  · exact foldl_core e p _ (fun v q => takeUnit_core _ _ _ _) _ _
  · rfl

theorem takeMultiplex_core (e p l doneAt : Nat) (s : State) : corePart ((takeMultiplex e p l doneAt s).signal e p) = corePart (s.signal e p) := by
  unfold takeMultiplex
  dsimp only
  exact core_ite e p _ _ _ (foldl_core e p _ (fun _ _ => takeStream_core _ _ _ _ _ _ _ _ _) _ _)

theorem takeFig_sync (x : SignalSt) (f : Bool × Fig) : syncPart (x.takeFig f) = syncPart x := by
  unfold SignalSt.takeFig
  dsimp only
  split
  · split <;> rfl
  · rfl

theorem takeEntries_sync (e p : Nat) (figs : List (Bool × Fig)) (dn : SignalSt → Bool) (ct : SignalSt → Nat) (s : State) : syncPart ((takeEntries e p figs dn ct s).signal e p) = syncPart (s.signal e p) := by
  have hh : ∀ (figs : List Fig) (s : State), syncPart ((hearServices e p figs s).signal e p) = syncPart (s.signal e p) := by
    intro figs s
    unfold hearServices
    dsimp only
    refine foldl_keep (fun v => syncPart (v.signal e p) = syncPart (s.signal e p)) _ _ (fun v a hv => ?_) s rfl
    split
    · rw [part_of_ofdm syncPart (followsHear_only _ _ _ _ _ _ _ _ _ .ofdm rfl), setSignal_part syncPart _ _ _ _ (by intro x; rfl)]
      exact hv
    · exact hv
  have ha : ∀ (o n : List Nat) (s : State), syncPart ((alarmEvents e p o n s).signal e p) = syncPart (s.signal e p) := by
    intro o n s
    unfold alarmEvents
    dsimp only
    rw [part_of_ofdm syncPart (engineAlert_ofdm _ _ _ _), setSignal_part syncPart _ _ _ _ (by intro x; rfl)]
    refine foldl_keep (fun v => syncPart (v.signal e p) = syncPart (s.signal e p)) _ _ (fun v a hv => ?_) _ (foldl_keep (fun v => syncPart (v.signal e p) = syncPart (s.signal e p)) _ _ (fun v a hv => ?_) _ rfl)
    · rw [part_of_ofdm syncPart (raise_only _ _ _ _ .ofdm rfl)]; exact hv
    · rw [part_of_ofdm syncPart (raise_only _ _ _ _ .ofdm rfl)]; exact hv
  have hfold : ∀ (l : List (Bool × Fig)) (x : SignalSt), syncPart (l.foldl SignalSt.takeFig x) = syncPart x := by
    intro l
    induction l with
    | nil => intro x; rfl
    | cons a l ih => intro x; rw [List.foldl_cons, ih, takeFig_sync]
  have hset := setSignal_part syncPart s e p _ (hfold figs)
  unfold takeEntries
  dsimp only
  split
  · rw [part_of_ofdm syncPart (raise_only _ _ _ _ .ofdm rfl), setSignal_part syncPart _ _ _ _ (by intro x; rfl), ha, hh]
    exact hset
  · rw [ha, hh]
    exact hset

theorem frameSync_true (e p stop : Nat) (s : State) :
    ((frameSync e p stop true s).signal e p).synced = true ∧ ((frameSync e p stop true s).signal e p).lostFrames = 0
    ∧ ((frameSync e p stop true s).signal e p).ctrlTotal = (s.signal e p).ctrlTotal ∧ ((frameSync e p stop true s).signal e p).ctrlFail = (s.signal e p).ctrlFail
    ∧ ((s.signal e p).synced = false → Raises s (frameSync e p stop true s) .ofdmSyncGained (engineDie e) [.w e, .w p]) := by
  have h : ∀ u : State, u.ofdm = (s.setSignal e p fun x => { x with synced := true, lostFrames := 0 }).ofdm →
      u.signal e p = { s.signal e p with synced := true, lostFrames := 0 } := fun u hu => (signal_of_ofdm hu e p).trans (setSignal_self _ _ _ _)
  unfold frameSync
  dsimp only
  rw [if_pos rfl]
  have hx : (if (s.signal e p).synced = true then s.setSignal e p fun x => { x with synced := true, lostFrames := 0 }
      else raise .ofdmSyncGained (engineDie e) [.w e, .w p] (s.setSignal e p fun x => { x with synced := true, lostFrames := 0 })).signal e p
      = { s.signal e p with synced := true, lostFrames := 0 } := by
    split
    · exact h _ rfl
    · exact h _ (raise_only _ _ _ _ .ofdm rfl)
  rw [hx]
  exact ⟨rfl, rfl, rfl, rfl, fun hs => Raises.iteNeg (by rw [hs]; simp) (Raises.raise (State.setSignal_only _ _ _ _) rfl rfl _ _ _)⟩

/-- A frame without synchronisation in a signal that has it: one more, or with the third in succession a restart. -/
theorem frameSync_false (e p stop : Nat) (s : State) (hs : (s.signal e p).synced = true) :
    frameSync e p stop false s = if 2 ≤ (s.signal e p).lostFrames then restartSignal e p stop s else s.setSignal e p fun x => { x with lostFrames := x.lostFrames + 1 } := by
  unfold frameSync
  simp [hs]

end Sys2Proof.Machine
end

