-- ==== Sys2Proof/Laws/OpsSystem.lean ====
section
/-!
SUPPORT. What the shared operations do, said once: repair, mode, security, link and management-bus operations.
-/
namespace Sys2Proof.Machine

theorem no_retire {s : State} (u : UnitRef) : (unretireUnit u s).nv = { s.nv with retired := s.nv.retired.filter (· != u) } := rfl

theorem filter_unretired (l : List UnitRef) (u : UnitRef) : (l.filter (· != u)).contains u = false := by
  rw [List.contains_eq_mem, decide_eq_false]
  simp

theorem retired_kept {as : List Aspect} {s t : State} (h : Only as s t) (he : as.contains .retirement = false) {u} (hu : s.retired u = true) : t.retired u = true := h.retired he hu

theorem retirePlain_retired (u c) (s : State) : (retirePlain u c s).retired u = true := by
  unfold retirePlain
  exact (refresh_only _).retired rfl ((raise_only _ _ _ _).retired rfl (retireUnit_retired u s))

theorem zero_retired (n) {u} {s : State} (h : s.retired u = true) : (matchZeroSpans n s).retired u = true := (matchZeroSpans_only _ _).retired rfl h

theorem retireUnit_only' (u) (s : State) : Only [.nv] s (retireUnit u s) := retireUnit_only u s

theorem refresh_occs (s) : (refresh s).integ.occs = s.integ.occs := by rw [(refresh_reports s).integ]

theorem raise_occs (n o a s) : (raise n o a s).integ.occs = s.integ.occs := by rw [(raise_reports n o a s).integ]

theorem refresh_clk (s) : (refresh s).clk = s.clk := refresh_only s .clk rfl

theorem raise_clk (n o a s) : (raise n o a s).clk = s.clk := raise_only n o a s .clk rfl

theorem finish_nv (src f st r u) : (finish src f st r u).nv = u.nv := finish_only src f st r u .nv rfl

theorem await_nv (src f w u) : (await src f w u).nv = u.nv := await_only src f w u .nv rfl

theorem retireUnit_link (u) (s : State) : (retireUnit u s).link = s.link := retireUnit_only u s .link rfl

theorem retirePlain_raises (u) (c : Nat) {s v : State} (h : Only [.link, .mb] s v) : Raises s (retirePlain u c v) .unitRetired u.die [.w u.kind.type, .w u.die, .w u.loc, .w c] := by
  unfold retirePlain
  exact Raises.andThen (refresh_only _) rfl (Raises.raise (as := [.link, .mb, .nv]) ((h.mono rfl).trans ((retireUnit_only u v).mono rfl)) rfl rfl _ _ _)

theorem setAlert_foldl_only {α : Type} (g : α → AlertCond) (b : α → Bool) (l : List α) (s : State) : Only [.link, .integ, .mode, .domains, .sec] s (l.foldl (fun acc a => setAlert (g a) (b a) acc) s) :=
  Only.foldl (fun v a => setAlert_only _ _ _) l s

theorem refresh_reception {s : State} (h : s.mode.mode.reception = true) : (refresh s).mode.mode.reception = true := by
  have hr : ∀ u : State, u.mode.mode.reception = true → (reconcileMode u).mode.mode.reception = true := by
    intro u hu
    unfold reconcileMode
    dsimp only
    split
    · rw [setMode_mode]
      show (receptionCode u).reception = true
      unfold receptionCode
      split
      · rfl
      · split <;> rfl
    · exact hu
  unfold refresh
  dsimp only
  have hh : (holdSpan s).mode = s.mode := holdSpan_only s .mode rfl
  have := hr (holdSpan s) (by rw [hh]; exact h)
  revert this
  generalize reconcileMode (holdSpan s) = u
  intro hu
  split
  · exact hu
  · rw [raise_only _ _ _ _ .mode rfl]
    exact hu

theorem modeInForce_mode (m : OpMode) (c : ModeCause) (s : State) : (m.reception = false → (modeInForce m c s).mode.mode = m) ∧ (m.reception = true → (modeInForce m c s).mode.mode.reception = true) := by
  unfold modeInForce
  dsimp only
  rw [show ∀ w st r u, (completeWait w st r u).mode = u.mode from fun w st r u => completeWait_only w st r u .mode rfl]
  generalize hT : seeUnits _ = T
  have hm : T.mode.mode = m := by
    rw [← hT, seeUnits_only _ .mode rfl]
    exact (reviewAlerts_only _ .modeCode rfl).trans (by rw [setMode_mode])
  refine ⟨fun h => ?_, fun h => ?_⟩
  · rw [refresh_mode (by rw [hm]; exact h)]; exact hm
  · exact refresh_reception (by rw [hm]; exact h)

theorem raises_of {s u : State} (he : s.link.events <+: u.link.events) (ht : u.time.systime = s.time.systime) (n : EvName) (o : Nat) (args : List EvArg) : Raises s (raise n o args u) n o args := by
  obtain ⟨l, hl⟩ := he
  have hs : u.now = s.now := congrArg BitVec.toNat ht
  exact ⟨l ++ [⟨n, o, u.link.eventSeq, s.now, args⟩], u.link.eventSeq, by simp [← hl, hs], by simp⟩

theorem modeInForce_raises (m : OpMode) (c : ModeCause) {as : List Aspect} {s u : State} (h : Only as s u) (he : as.contains .events = false) (ht : as.contains .systime = false) :
    Raises s (modeInForce m c u) .modeChanged pkg [.w u.mode.mode.code, .w m.code, .w c.code] := by
  unfold modeInForce
  dsimp only
  refine Raises.andThen (completeWait_only _ _ _ _) rfl (Raises.andThen (refresh_only _) rfl (Raises.andThen (seeUnits_only _) rfl (Raises.andThen (reviewAlerts_only _) rfl ?_)))
  unfold setMode
  refine raises_of ?_ ?_ _ _ _
  · show s.link.events <+: (hallMode m _).link.events
    rw [hallMode_only m _ .link rfl]
    exact h .events he
  · show (hallMode m _).time.systime = _
    rw [hallMode_only m _ .time rfl]
    exact h .systime ht

theorem targetCode_of_not_reception {t : State} {c : ModeChange} (h : c.target.reception = false) : t.targetCode c.target = c.target := by
  unfold State.targetCode
  rw [if_neg (by intro x; rw [x] at h; cases h)]

theorem targetCode_run (t : State) : (t.targetCode .run).reception = true := by
  unfold State.targetCode receptionCode
  rw [if_pos rfl]
  split
  · rfl
  · split <;> rfl

theorem reviewAlerts_link (s : State) : (reviewAlerts s).link.rings = s.link.rings ∧ (reviewAlerts s).link.sent = s.link.sent := by
  have h1 : ∀ a b (u : State), (setAlert a b u).link.rings = u.link.rings ∧ (setAlert a b u).link.sent = u.link.sent := by
    intro a b u
    unfold setAlert
    dsimp only
    split
    · split
      · rw [beginReception_only _ _ _ _ .link rfl, raise_rings, raise_sent]; exact ⟨rfl, rfl⟩
      · rw [raise_rings, raise_sent]; exact ⟨rfl, rfl⟩
    · split
      · rw [raise_rings, raise_sent]; exact ⟨rfl, rfl⟩
      · exact ⟨rfl, rfl⟩
  unfold reviewAlerts
  dsimp only
  refine foldl_keep (fun u => u.link.rings = s.link.rings ∧ u.link.sent = s.link.sent) _ _ (fun v a hv => ?_) _ (foldl_keep (fun u => u.link.rings = s.link.rings ∧ u.link.sent = s.link.sent) _ _ (fun v a hv => ?_) _ ⟨rfl, rfl⟩)
  · exact ⟨(h1 _ _ _).1.trans hv.1, (h1 _ _ _).2.trans hv.2⟩
  · exact ⟨(h1 _ _ _).1.trans hv.1, (h1 _ _ _).2.trans hv.2⟩

theorem setMode_link (m c) (s : State) : (setMode m c s).link.rings = s.link.rings ∧ (setMode m c s).link.sent = s.link.sent := by
  rw [(setMode_reports m c s).link]
  exact ⟨rfl, rfl⟩

theorem changeNow_link (m) (s : State) : (changeNow m s).link.rings = s.link.rings ∧ (changeNow m s).link.sent = s.link.sent := by
  unfold changeNow
  split
  · rw [enterSystemCal_only _ .link rfl]; exact ⟨rfl, rfl⟩
  · rw [enterSleep_only _ .link rfl]; exact ⟨rfl, rfl⟩
  · rw [leaveSystemCal_only _ .link rfl]; exact ⟨rfl, rfl⟩
  · rw [leaveSleep_only _ .link rfl]; exact ⟨rfl, rfl⟩
  · unfold abandonUpdate
    split
    · exact ⟨rfl, rfl⟩
    · rw [raise_rings, raise_sent]; exact ⟨rfl, rfl⟩
  · exact ⟨rfl, rfl⟩

theorem modeInForce_link (m c) (s : State) (hw : ∀ k e, s.execOf k = some e → e.wait ≠ .mode) : (modeInForce m c s).link.rings = s.link.rings ∧ (modeInForce m c s).link.sent = s.link.sent := by
  unfold modeInForce
  dsimp only
  generalize hT : refresh _ = T
  have hl : T.link.rings = s.link.rings ∧ T.link.sent = s.link.sent := by
    rw [← hT, refresh_rings, refresh_sent, seeUnits_only _ .link rfl, (reviewAlerts_link _).1, (reviewAlerts_link _).2, (setMode_link _ _ _).1, (setMode_link _ _ _).2]
    exact ⟨rfl, rfl⟩
  have hm : T.mb = s.mb := by
    rw [← hT, refresh_only _ .mb rfl, seeUnits_only _ .mb rfl, reviewAlerts_only _ .mb rfl, setMode_only _ _ _ .mb rfl]
  have he : ∀ k, T.execOf k = s.execOf k := by
    intro k; unfold State.execOf; cases k
    · rw [hl.1]
    · rw [hm]
  have hn : T.findWait (fun w => decide (w = .mode)) = none := by
    unfold State.findWait
    rw [List.findSome?_eq_none_iff]
    intro k _
    rw [he]
    cases hk : s.execOf k with
    | none => rfl
    | some e =>
      dsimp only
      rw [if_neg (by simpa using hw k e hk)]
  unfold completeWait
  rw [hn]
  exact hl

theorem takeFront_execOf (src : CmdSrc) (s : State) (k) : (takeFront src s).execOf k = s.execOf k := by
  cases src with
  | mailbox => cases k <;> rfl
  | ring r =>
    cases k with
    | mailbox => rfl
    | ring q =>
      show ((s.setRing r _).link.rings.get q).executing = _
      by_cases h : q = r
      · subst h; rw [Ring.self]; rfl
      · rw [Ring.beside _ _ _ h]; rfl

theorem powerDigital_mode (c) (s : State) : (powerDigital c s).mode = s.mode := powerDigital_only c s .mode rfl

theorem setMode_report (m c) (s : State) : (setMode m c s).link.rings = s.link.rings ∧ (setMode m c s).link.sent = s.link.sent ∧ (setMode m c s).sec.update = s.sec.update := by
  refine ⟨(setMode_link m c s).1, (setMode_link m c s).2, ?_⟩
  rw [(setMode_reports m c s).sec]

theorem refresh_update (s) : (refresh s).sec.update = s.sec.update := by rw [(refresh_reports s).sec]

theorem setMode_nv (m c) (s : State) : (setMode m c s).nv = s.nv := setMode_only m c s .nv rfl

theorem finish_sec (src f st r u) : (finish src f st r u).sec = u.sec := finish_only src f st r u .sec rfl

theorem finish_mode (src f st r u) : (finish src f st r u).mode = u.mode := finish_only src f st r u .mode rfl

theorem setMode_raises (m : OpMode) (c : ModeCause) {s u : State} (he : s.link.events <+: u.link.events) (ht : u.time.systime = s.time.systime) :
    Raises s (setMode m c u) .modeChanged pkg [.w u.mode.mode.code, .w m.code, .w c.code] := by
  unfold setMode
  refine raises_of ?_ ?_ _ _ _
  · show s.link.events <+: (hallMode m u).link.events
    rw [hallMode_only m _ .link rfl]; exact he
  · show (hallMode m u).time.systime = _
    rw [hallMode_only m _ .time rfl]; exact ht

theorem endUpdate_facts (u : UpdateSt) (v : State) : (endUpdate u v).sec.update = none ∧ (endUpdate u v).nv = { v.nv with sec := { v.nv.sec with updating := none } }
    ∧ (u.from_.reception = false → (endUpdate u v).mode.mode = u.from_) ∧ (endUpdate u v).link.rings = v.link.rings ∧ (endUpdate u v).link.sent = v.link.sent := by
  unfold endUpdate
  refine ⟨?_, ?_, ?_, ?_, ?_⟩
  · rw [refresh_update, (setMode_report _ _ _).2.2]; rfl
  · rw [refresh_nv, setMode_nv]; rfl
  · intro h; rw [refresh_mode (by rw [setMode_mode]; exact h), setMode_mode]
  · rw [refresh_rings, (setMode_report _ _ _).1]; rfl
  · rw [refresh_sent, (setMode_report _ _ _).2.1]; rfl

theorem NvSec.setSlot_slot (v : NvSec) (b x) : (v.setSlot b x).slot b = x := by unfold NvSec.setSlot NvSec.slot; cases b <;> rfl

theorem filter_length_succ {l : List Nat} (hl : l.Nodup) (p q : Nat → Bool) (i : Nat) (hi : i ∈ l) (hp : p i = false) (hq : ∀ j, q j = (p j || j == i)) : (l.filter q).length = (l.filter p).length + 1 := by
  induction l with
  | nil => cases hi
  | cons a l ih =>
    rw [List.nodup_cons] at hl
    by_cases ha : a = i
    · subst ha
      have hqa : q a = true := by rw [hq]; simp
      rw [List.filter_cons_of_pos hqa, List.filter_cons_of_neg (by rw [hp]; exact Bool.false_ne_true)]
      have : l.filter q = l.filter p := by
        refine List.filter_congr (fun j hj => ?_)
        rw [hq, beq_eq_false_iff_ne.mpr (fun (e : j = a) => hl.1 (by rw [← e]; exact hj)), Bool.or_false]
      rw [this]; rfl
    · have hm : i ∈ l := by
        rcases List.mem_cons.mp hi with h | h
        · exact absurd h.symm ha
        · exact h
      have hqa : q a = p a := by rw [hq, beq_eq_false_iff_ne.mpr ha, Bool.or_false]
      cases hpa : p a
      · rw [List.filter_cons_of_neg (by rw [hqa, hpa]; exact Bool.false_ne_true), List.filter_cons_of_neg (by rw [hpa]; exact Bool.false_ne_true)]
        exact ih hl.2 hm
      · rw [List.filter_cons_of_pos (by rw [hqa, hpa]), List.filter_cons_of_pos hpa, List.length_cons, List.length_cons, ih hl.2 hm]

theorem counter_bits : ∀ n k (m : W64), ((List.range 64).filter m.getLsbD).length + n ≤ 64 → ((List.range 64).filter (setCounterBits n k m).getLsbD).length = ((List.range 64).filter m.getLsbD).length + n := by
  intro n
  induction n with
  | zero => intro k m _; rfl
  | succ n ih =>
    intro k m h
    unfold setCounterBits
    dsimp only
    generalize hc : (List.range 64).filter (fun i => !m.getLsbD i) = clear
    have hsum : ((List.range 64).filter m.getLsbD).length + clear.length = 64 := by
      rw [← hc]
      have : ∀ l : List Nat, (l.filter m.getLsbD).length + (l.filter fun i => !m.getLsbD i).length = l.length := by
        intro l
        induction l with
        | nil => rfl
        | cons a l ih => cases ha : m.getLsbD a <;> simp [ha] <;> omega
      rw [this]; rfl
    have hpos : 0 < clear.length := by omega
    have hlt : Config.freeValue k % clear.length < clear.length := Nat.mod_lt _ hpos
    generalize hi : clear.getD (Config.freeValue k % clear.length) 0 = i
    have him : i ∈ clear := by
      rw [← hi, List.getD_eq_getElem?_getD, List.getElem?_eq_getElem hlt, Option.getD_some]
      exact List.getElem_mem hlt
    rw [← hc, List.mem_filter] at him
    have hone := filter_length_succ List.nodup_range m.getLsbD (m ||| BitVec.ofNat 64 (2 ^ i)).getLsbD i him.1 (by simpa using him.2) (fun j => by
      rw [BitVec.getLsbD_or]
      congr 1
      have hi64 := List.mem_range.mp him.1
      rw [BitVec.getLsbD_ofNat, Nat.testBit_two_pow]
      by_cases hj : j = i
      · rw [hj, decide_eq_true hi64]; simp
      · rw [decide_eq_false (fun e : i = j => hj e.symm)]; simp [hj])
    rw [ih _ _ (by rw [hone]; omega), hone]
    omega

theorem raise_sec (n o a s) : (raise n o a s).sec = { s.sec with hall := { s.sec.hall with acc := (raise n o a s).sec.hall.acc } } := by
  have hq : ∀ ev (u : State), (queueLog ev u).sec = u.sec := fun ev u => queueLog_only ev u .sec rfl
  unfold raise
  dsimp only
  split
  · rw [hq]; rfl
  · rfl

theorem sealInterval_last (a stop step) (s : State) : ∃ last, (sealInterval a stop step s).sec.hall.last = some last ∧ last.boot = s.nv.bootNum.toNat ∧ last.num = s.sec.hall.recordNum
    ∧ (s.sec.hall.keyNew = false → last.digest = padTo 32 (Config.sm3 (s.sealRecord a stop step (s.leaves (if step.isSome then a else a.upTo stop) stop))))
    ∧ (s.sec.hall.checkpointAt + 600 * 100000000 ≤ s.now → (sealInterval a stop step s).nv.sec.checkpoint = some last)
    ∧ (s.now < s.sec.hall.checkpointAt + 600 * 100000000 → (sealInterval a stop step s).nv = s.nv)
    ∧ (sealInterval a stop step s).sec.hall.recordNum = s.sec.hall.recordNum + 1 ∧ (sealInterval a stop step s).sec.hall.keyNew = false
    ∧ (sealInterval a stop step s).sec.hall.next_ = s.sec.hall.next_ ∧ (sealInterval a stop step s).sec.hall.enable = s.sec.hall.enable := by
  have hself : s.sec.hall.keyNew = false → (s.setHall fun h => { h with key := h.key.map fun k => if h.keyNew = true then { k with cert := s.keyCert k.pub h.recordNum a.start } else k }) = s := by
    intro h
    have hk : ∀ (g : Nat → HallKey → List Byte) (h : HallSt), h.keyNew = false → ({ h with key := h.key.map fun k => if h.keyNew = true then { k with cert := g h.recordNum k } else k } : HallSt) = h := by
      intro g h hh
      obtain ⟨e, i, n, ac, sd, c, r, l, re, k, kn, er, ch⟩ := h
      cases hh
      cases k <;> rfl
    have e := hk (fun r k => s.keyCert k.pub r a.start) _ h
    unfold State.setHall
    dsimp only at e ⊢
    rw [e]
  unfold sealInterval
  dsimp only
  revert hself
  generalize hS : (s.setHall fun h => { h with key := h.key.map fun k => if h.keyNew = true then { k with cert := s.keyCert k.pub h.recordNum a.start } else k }) = S
  intro hself
  have hSn : S.nv = s.nv := by rw [← hS]; rfl
  have hSt : S.now = s.now := by rw [← hS]; rfl
  have hSh : S.sec.hall.next_ = s.sec.hall.next_ ∧ S.sec.hall.enable = s.sec.hall.enable ∧ S.sec.hall.recordNum = s.sec.hall.recordNum := by rw [← hS]; exact ⟨rfl, rfl, rfl⟩
  clear hS
  generalize hF : formRecordBlocks _ _ _ _ _ S = F
  have hFo : Only [.link] S F := by rw [← hF]; exact formRecordBlocks_only _ _ _ _ _ _
  have hFn : F.nv = s.nv := (hFo .nv rfl).trans hSn
  have hFt : F.now = s.now := (Only.now hFo rfl).trans hSt
  have hFs : F.sec = S.sec := hFo .sec rfl
  generalize hsv : decide (s.sec.hall.checkpointAt + 600 * countsPerSecond ≤ F.now) = sv
  refine ⟨⟨S.nv.bootNum.toNat, s.sec.hall.recordNum, padTo 32 (Config.sm3 (S.sealRecord a stop step (S.leaves (if step.isSome then a else a.upTo stop) stop)))⟩, rfl, ?_, rfl, fun h => ?_, fun h => ?_, fun h => ?_, ?_, rfl, ?_, ?_⟩
  · rw [hSn]
  · rw [hself h]
  · have h' : s.sec.hall.checkpointAt + 600 * countsPerSecond ≤ s.now := h
    have hv : sv = true := by rw [← hsv, hFt]; exact decide_eq_true h'
    subst hv
    rfl
  · have h' : ¬ s.sec.hall.checkpointAt + 600 * countsPerSecond ≤ s.now := Nat.not_le_of_lt h
    have hv : sv = false := by rw [← hsv, hFt]; exact decide_eq_false h'
    subst hv
    exact hFn
  · clear hsv
    cases sv
    · show F.sec.hall.recordNum + 1 = _; rw [hFs, hSh.2.2]
    · show F.sec.hall.recordNum + 1 = _; rw [hFs, hSh.2.2]
  · clear hsv
    cases sv
    · show F.sec.hall.next_ = _; rw [hFs]; exact hSh.1
    · show F.sec.hall.next_ = _; rw [hFs]; exact hSh.1
  · clear hsv
    cases sv
    · show F.sec.hall.enable = _; rw [hFs]; exact hSh.2.1
    · show F.sec.hall.enable = _; rw [hFs]; exact hSh.2.1

theorem takeSetting_hall (s : State) : (takeSetting s).sec.hall.recordNum = s.sec.hall.recordNum ∧ (takeSetting s).sec.hall.last = s.sec.hall.last ∧ (takeSetting s).sec.hall.keyNew = s.sec.hall.keyNew
    ∧ (s.sec.hall.next_ = none → takeSetting s = s) := by
  unfold takeSetting State.setHall
  dsimp only
  cases h : s.sec.hall.next_ with
  | none => 
    dsimp only
    refine ⟨rfl, rfl, rfl, fun _ => ?_⟩
    rfl
  | some n =>
    dsimp only
    split
    · exact ⟨rfl, rfl, rfl, fun x => by cases x⟩
    · exact ⟨rfl, rfl, rfl, fun x => by cases x⟩

theorem nextInterval_hall (t) (s : State) : (nextInterval t s).sec.hall.recordNum = s.sec.hall.recordNum ∧ (nextInterval t s).sec.hall.last = s.sec.hall.last ∧ (nextInterval t s).sec.hall.keyNew = s.sec.hall.keyNew
    ∧ (s.sec.hall.next_ = none → s.sec.hall.enable = true → ∃ b, (nextInterval t s).sec.hall.acc = some b ∧ b.start = t)
    ∧ (s.sec.hall.next_ = none → s.sec.hall.enable = false → (nextInterval t s).sec.hall.acc = none) := by
  obtain ⟨t1, t2, t3, t4⟩ := takeSetting_hall s
  unfold nextInterval
  dsimp only
  refine ⟨?_, ?_, ?_, fun a b => ?_, fun a b => ?_⟩
  · rw [← t1]
    split
    · split <;> rfl
    · split <;> rfl
  · rw [← t2]
    split
    · split <;> rfl
    · split <;> rfl
  · rw [← t3]
    split
    · split <;> rfl
    · split <;> rfl
  · rw [t4 a, a]
    dsimp only
    rw [if_pos b]
    exact ⟨_, rfl, rfl⟩
  · rw [t4 a, a]
    dsimp only
    rw [if_neg (by rw [b]; exact Bool.false_ne_true)]
    rfl

theorem Reports.kept {s t : State} (h : Reports s t) : t.integ.dies = s.integ.dies ∧ t.integ.links = s.integ.links ∧ t.integ.tasks = s.integ.tasks ∧ t.integ.flashFaults = s.integ.flashFaults ∧ t.integ.exhausted = s.integ.exhausted := by
  rw [h.integ]
  exact ⟨rfl, rfl, rfl, rfl, rfl⟩

theorem raise_dies (n o a s) : (raise n o a s).integ.dies = s.integ.dies := (Reports.kept (raise_reports n o a s)).1

theorem raise_links (n o a s) : (raise n o a s).integ.links = s.integ.links := (Reports.kept (raise_reports n o a s)).2.1

theorem raise_tasks (n o a s) : (raise n o a s).integ.tasks = s.integ.tasks := (Reports.kept (raise_reports n o a s)).2.2.1

theorem raise_flashFaults (n o a s) : (raise n o a s).integ.flashFaults = s.integ.flashFaults := (Reports.kept (raise_reports n o a s)).2.2.2.1

theorem refresh_dies (s) : (refresh s).integ.dies = s.integ.dies := (Reports.kept (refresh_reports s)).1

theorem refresh_links (s) : (refresh s).integ.links = s.integ.links := (Reports.kept (refresh_reports s)).2.1

theorem refresh_tasks (s) : (refresh s).integ.tasks = s.integ.tasks := (Reports.kept (refresh_reports s)).2.2.1

theorem refresh_flashFaults (s) : (refresh s).integ.flashFaults = s.integ.flashFaults := (Reports.kept (refresh_reports s)).2.2.2.1

theorem setDieInteg_self (s : State) (d) (f : DieInteg → DieInteg) : (s.setDieInteg d f).integ.dies.get d = f (s.integ.dies.get d) := Tbl.get_modify_self _ _ _

theorem setDieInteg_ne (s : State) {d k : Nat} (f : DieInteg → DieInteg) (h : k ≠ d) : (s.setDieInteg d f).integ.dies.get k = s.integ.dies.get k := Tbl.get_modify_of_ne _ h _

theorem setLink_self (s : State) (d dir) (f : LinkDir → LinkDir) : (s.setLink d dir f).linkDir d dir = f (s.linkDir d dir) := Tbl.get_modify_self _ _ _

theorem setLink_ne (s : State) (d dir) (f : LinkDir → LinkDir) {k : Nat} (h : k ≠ d * 2 + dir) : (s.setLink d dir f).integ.links.get k = s.integ.links.get k := Tbl.get_modify_of_ne _ h _

def CountersKept (s t : State) : Prop := t.integ.links = s.integ.links ∧ ∀ k, t.integ.dies.get k = { s.integ.dies.get k with lastingDeclared := (t.integ.dies.get k).lastingDeclared }

theorem CountersKept.refl (s) : CountersKept s s := ⟨rfl, fun _ => rfl⟩

theorem CountersKept.of {s t : State} (h1 : t.integ.links = s.integ.links) (h2 : t.integ.dies = s.integ.dies) : CountersKept s t := ⟨h1, fun k => by rw [h2]⟩

theorem CountersKept.trans {s t u : State} (h : CountersKept s t) (k : CountersKept t u) : CountersKept s u := ⟨k.1.trans h.1, fun i => by rw [k.2 i, h.2 i]⟩

theorem occur_counters (c u) (s : State) : CountersKept s (occur c u s).2 := by
  unfold occur
  dsimp only
  split
  · unfold declareLasting addOcc
    dsimp only
    refine ⟨by rw [raise_links]; rfl, fun k => ?_⟩
    rw [raise_dies]
    by_cases h : k = u.die
    · subst h; rw [setDieInteg_self]
    · rw [setDieInteg_ne _ _ h]
  · exact CountersKept.of rfl rfl

theorem occur_lasting (c u) (s : State) : (occur c u s).1 = decide ((s.rule c).count ≤ s.recentOccs c u + 1) := by
  unfold occur
  dsimp only
  split
  · rename_i h; rw [decide_eq_true h]
  · rename_i h; rw [decide_eq_false h]

theorem occur_nv (c u) (s : State) : (occur c u s).2.nv = s.nv := occur_only c u s .nv rfl

theorem retireLinkLane_counters (u) (s : State) : CountersKept s (retireLinkLane u s) := by
  unfold retireLinkLane
  split
  · exact CountersKept.refl _
  · refine CountersKept.of ?_ ?_
    · rw [refresh_links, raise_links, retireUnit_only _ _ .integ rfl]
    · rw [refresh_dies, raise_dies, retireUnit_only _ _ .integ rfl]

theorem logged_queue (ev) {l : List Ev} {u : State} (h : u.integ.logWaiting = l) : l <+: (queueLog ev u).integ.logWaiting := by
  rw [← h]
  unfold queueLog; dsimp only; split
  · exact ⟨_, rfl⟩
  · exact List.prefix_rfl

theorem logged_raise (n o a) {l : List Ev} {s : State} (h : s.integ.logWaiting = l) : l <+: (raise n o a s).integ.logWaiting := by
  unfold raise
  dsimp only
  split
  · refine logged_queue _ ?_
    rw [State.setHall_only _ _ .integ rfl]; exact h
  · rw [State.setHall_only _ _ .integ rfl]; exact h ▸ List.prefix_rfl

theorem logged_refresh (s : State) : s.integ.logWaiting <+: (refresh s).integ.logWaiting := by
  have hr : ∀ u : State, u.integ.logWaiting <+: (reconcileMode u).integ.logWaiting := by
    intro u; unfold reconcileMode; dsimp only; split
    · unfold setMode
      refine logged_raise _ _ _ ?_
      show (hallMode (receptionCode u) u).integ.logWaiting = _
      rw [hallMode_only _ _ .integ rfl]
    · exact List.prefix_rfl
  unfold refresh
  dsimp only
  have hh : (holdSpan s).integ = s.integ := holdSpan_only s .integ rfl
  have := hr (holdSpan s)
  rw [hh] at this
  revert this
  generalize reconcileMode (holdSpan s) = u
  intro hu
  split
  · exact hu
  · refine hu.trans (logged_raise _ _ _ ?_)
    rfl

theorem logged_fault (a) (s : State) : s.integ.logWaiting <+: (flashFault a s).integ.logWaiting := by
  unfold flashFault; split
  · exact List.prefix_rfl
  · refine logged_raise _ _ _ ?_
    rfl

theorem flashFault_contains (a : FlashArea) (s : State) : (flashFault a s).integ.flashFaults.contains a = true := by
  unfold flashFault; split
  · assumption
  · rw [raise_flashFaults]; simp

theorem writeLog_nv (ev : Ev) {s u : State} (h : u.nv = s.nv) (ht : u.taiAt ev.raised = s.taiAt ev.raised) : (writeLog ev u).nv = { s.nv with log := (if (s.nv.log.length + 1) > 8192 then (s.nv.log ++ [(⟨s.nv.logNext, s.nv.bootNum, s.taiAt ev.raised, ev⟩ : LogEntry)]).drop 1 else s.nv.log ++ [⟨s.nv.logNext, s.nv.bootNum, s.taiAt ev.raised, ev⟩]), logNext := s.nv.logNext + 1 } := by
  unfold writeLog
  dsimp only
  rw [h, ht, List.length_append]
  rfl

theorem taskOverdue_raises (x : Task) {s u : State} (he : s.link.events <+: u.link.events) (ht : u.time.systime = s.time.systime) (ha : u.taskAge x ≠ 2) : Raises s (refresh (preempt (taskOverdue x u))) .taskOverdue x.die [.w x.code, .w x.die] := by
  refine Raises.andThen (refresh_only _) rfl (Raises.andThen (preempt_only _) rfl ?_)
  unfold taskOverdue
  rw [if_neg ha]
  dsimp only
  refine raises_of ?_ ?_ _ _ _
  · exact he
  · exact ht

theorem taskDue_tasks (x : Task) {s u : State} (h : u.integ.tasks = s.integ.tasks) (ha : s.taskAge x = 0) : (taskDue x u).integ.tasks = s.integ.tasks ++ [⟨x, none⟩] := by
  unfold taskDue
  rw [if_pos (by unfold State.taskAge at ha ⊢; rw [h]; exact ha)]
  dsimp only
  rw [h]

theorem taskAge_of_tasks {s u : State} (x : Task) (h : u.integ.tasks = s.integ.tasks) : u.taskAge x = s.taskAge x := by unfold State.taskAge; rw [h]

theorem noteReach_frame (n) (s : State) : Only [.link, .cal, .integ, .sec] s (noteReach n s) := noteReach_only n s

theorem noteReach_tasks (n) (s : State) : (noteReach n s).integ.tasks = s.integ.tasks := by
  unfold noteReach; split
  · rfl
  · split
    · rfl
    · rw [raise_tasks]

theorem raises_of_same {s u : State} (he : u.link.events = s.link.events) (ht : u.time.systime = s.time.systime) (n : EvName) (o : Nat) (args : List EvArg) : Raises s (raise n o args u) n o args :=
  raises_of (by rw [he] <;> exact List.prefix_refl _) ht n o args

theorem raise_mb (n o a s) : (raise n o a s).mb = s.mb := raise_only n o a s .mb rfl

theorem MbData.written_getD (w : MbData) (base : Nat) (old : List Byte) (i : Nat) (h : i < old.length) : (w.written base old).getD i 0 = w.byte (base + i) (old.getD i 0) := by
  unfold MbData.written
  simp [List.getD_eq_getElem?_getD, h]

theorem MbData.byte_taken (p n : Nat) (bytes : List Byte) (hl : n + 3 ≤ bytes.length) (q : Nat) (old : Byte) :
    (MbData.mk p ((bytes.drop 3).take n)).byte q old = if p ≤ q ∧ q < p + n then bytes.getD (q - p + 3) 0 else old := by
  unfold MbData.byte
  have e : ((bytes.drop 3).take n).length = n := by simp; omega
  simp only [e]
  by_cases h : p ≤ q ∧ q < p + n
  · rw [if_pos h, if_pos (by simp [h.1, h.2])]
    have h1 : q - p < n := by omega
    have h2 : q - p + 3 < bytes.length := by omega
    simp [List.getD_eq_getElem?_getD, h1, h2, Nat.add_comm]
  · rw [if_neg h, if_neg (by simpa using h)]

theorem writeBusCtrl_mb (v s) : (writeBusCtrl v s).mb.ctrlData = s.mb.ctrlData ∧ (writeBusCtrl v s).mb.mboxDesc = s.mb.mboxDesc := by
  unfold writeBusCtrl
  show (if _ then _ else _ : MbSt).ctrlData = _ ∧ (if _ then _ else _ : MbSt).mboxDesc = _
  split <;> exact ⟨rfl, rfl⟩

theorem writeTiming_mb (v s) : (writeTiming v s).mb.ctrlData = s.mb.ctrlData ∧ (writeTiming v s).mb.mboxDesc = s.mb.mboxDesc := by
  unfold writeTiming
  dsimp only
  split <;> exact ⟨rfl, rfl⟩

theorem requestGo_mb (s) : (requestGo s).mb.ctrlData = s.mb.ctrlData ∧ (requestGo s).mb.mboxDesc = s.mb.mboxDesc := by
  unfold requestGo
  dsimp only
  split
  · exact ⟨rfl, rfl⟩
  · split <;> exact ⟨rfl, rfl⟩

theorem writeTransfer_mb (v s) : (writeTransfer v s).mb.ctrlData = s.mb.ctrlData ∧ (writeTransfer v s).mb.mboxDesc = s.mb.mboxDesc := by
  unfold writeTransfer
  dsimp only
  split
  · exact ⟨(requestGo_mb _).1, (requestGo_mb _).2⟩
  · exact ⟨rfl, rfl⟩

theorem mboxGo_mb (s) : (mboxGo s).mb.ctrlData = s.mb.ctrlData ∧ (mboxGo s).mb.mboxDesc = s.mb.mboxDesc := by
  unfold mboxGo
  dsimp only
  split
  · exact ⟨rfl, rfl⟩
  · split
    · exact ⟨rfl, rfl⟩
    · split
      · exact ⟨rfl, rfl⟩
      · split <;> exact ⟨rfl, rfl⟩

theorem writeMboxCtrl_mb (v s) : (writeMboxCtrl v s).mb.ctrlData = s.mb.ctrlData ∧ (writeMboxCtrl v s).mb.mboxDesc = s.mb.mboxDesc := by
  unfold writeMboxCtrl
  dsimp only
  split
  · exact ⟨(mboxGo_mb _).1, (mboxGo_mb _).2⟩
  · exact ⟨rfl, rfl⟩

theorem ite_mb {s : State} {c : Prop} [Decidable c] {t : State} (h : t.mb.ctrlData = s.mb.ctrlData ∧ t.mb.mboxDesc = s.mb.mboxDesc) :
    (if c then t else s).mb.ctrlData = s.mb.ctrlData ∧ (if c then t else s).mb.mboxDesc = s.mb.mboxDesc := by
  split
  · exact h
  · exact ⟨rfl, rfl⟩

theorem applyData_mb (w : MbData) (s : State) : (applyData w s).mb.ctrlData = w.written 0x44 s.mb.ctrlData ∧ (applyData w s).mb.mboxDesc = w.written 0x100 s.mb.mboxDesc := by
  unfold applyData
  dsimp only
  have e : ∀ u : State, (u.setMb fun m => { m with ctrlData := w.written 0x44 m.ctrlData, mboxDesc := w.written 0x100 m.mboxDesc }).mb.ctrlData = w.written 0x44 u.mb.ctrlData
      ∧ (u.setMb fun m => { m with ctrlData := w.written 0x44 m.ctrlData, mboxDesc := w.written 0x100 m.mboxDesc }).mb.mboxDesc = w.written 0x100 u.mb.mboxDesc := fun _ => ⟨rfl, rfl⟩
  refine ⟨?_, ?_⟩
  · rw [(ite_mb (writeMboxCtrl_mb _ _)).1, (ite_mb (writeTransfer_mb _ _)).1, (e _).1, (ite_mb (writeTiming_mb _ _)).1, (ite_mb (writeBusCtrl_mb _ _)).1]
  · rw [(ite_mb (writeMboxCtrl_mb _ _)).2, (ite_mb (writeTransfer_mb _ _)).2, (e _).2, (ite_mb (writeTiming_mb _ _)).2, (ite_mb (writeBusCtrl_mb _ _)).2]

theorem touches_low (w : MbData) (base n : Nat) (h : w.pointer + w.bytes.length ≤ base) : w.touches base n = false := by
  unfold MbData.touches
  rw [decide_eq_false (show ¬ base < w.pointer + w.bytes.length by omega), Bool.and_false]

theorem MbData.written_low (w : MbData) (base : Nat) (old : List Byte) (h : w.pointer + w.bytes.length ≤ base) : w.written base old = old := by
  refine List.ext_getElem (by simp [MbData.written]) fun i h1 h2 => ?_
  simp only [MbData.written, List.getElem_map, List.getElem_zipIdx, MbData.byte]
  rw [if_neg (by simp; omega)]

theorem applyData_low (w : MbData) (s : State) (h : w.pointer + w.bytes.length ≤ 0x20) : applyData w s = s := by
  unfold applyData
  dsimp only
  rw [touches_low w 0x20 4 h, touches_low w 0x24 4 (by omega), touches_low w 0x40 4 (by omega), touches_low w 0x150 4 (by omega)]
  unfold State.setMb
  simp only [Bool.false_eq_true, if_false]
  rw [MbData.written_low w 0x44 _ (by omega), MbData.written_low w 0x100 _ (by omega)]

theorem mbByte_high (s : State) (q : Nat) (h : 0x1000 ≤ q) : s.mbByte q = 0 := by
  unfold State.mbByte
  have hd : s.dies ≤ 8 := by
    unfold State.dies Part.dies
    cases s.part <;> decide
  rw [if_neg (by omega), if_neg (by omega), if_neg (by omega), if_neg (by omega), if_neg (by omega), if_neg (by omega), if_neg (by omega), if_neg (by omega), if_neg]
  show ¬ q < 1024 + 320 * s.dies
  omega

theorem bumpMb_mb (k s) : (bumpMb k s).mb = { s.mb with counts := s.mb.counts.bump k, rises := (bumpMb k s).mb.rises } := rfl

theorem bumpMb_link (k s) : (bumpMb k s).link = s.link := rfl

theorem go_bit_set {v : Nat} (h : v / 1048576 % 2 = 1) : maskBit v 20 = true := by
  unfold maskBit
  rw [Nat.shiftRight_eq_div_pow]
  simpa using h

theorem lengths_zero {v : Nat} : (v / 256 % 64 == 0 && v / 16384 % 64 == 0) = (v / 256 % 4096 == 0) := by
  rw [Bool.eq_iff_iff]
  simp only [Bool.and_eq_true, beq_iff_eq]
  omega

theorem startTransfer_stuck {s : State} {stuck freed : Bool} (h : stuck = true ∨ s.mb.recovered = false) (hf : freed = false) :
    startTransfer stuck freed s = raise .mbBusStuck pkg [.q s.now] (bumpMb .stuck (endTransfer 4 s)) := by
  unfold startTransfer
  dsimp only
  rw [if_pos]
  rcases h with h | h <;> simp [h, hf]

theorem startTransfer_free {s : State} {stuck freed : Bool} (h : freed = true ∨ stuck = false ∧ s.mb.recovered = true) :
    startTransfer stuck freed s = (let t := s.setMb fun m => { m with recovered := true, goWaiting := false, ctrlBusy := true }
    if s.mb.wlen = 0 then t else send (.mbWrite s.mb.targetAddr s.mb.writePhase) t) := by
  unfold startTransfer
  dsimp only
  rw [if_neg]
  rcases h with h | ⟨h1, h2⟩
  · simp [h]
  · simp [h1, h2]

theorem setAlert_controls (a b) (u : State) : (setAlert a b u).mode.autoRun = u.mode.autoRun ∧ (setAlert a b u).mode.alertPty31 = u.mode.alertPty31 ∧ (setAlert a b u).mode.alertTa = u.mode.alertTa
    ∧ (setAlert a b u).mode.alertDab = u.mode.alertDab ∧ (setAlert a b u).mode.alertDrm = u.mode.alertDrm ∧ (setAlert a b u).mode.alertInRun = u.mode.alertInRun := by
  unfold setAlert
  dsimp only
  have hb : ∀ t c x (v : State), (beginReception t c x v).mode = { v.mode with change := (beginReception t c x v).mode.change } := by
    intro t c x v
    unfold beginReception
    have : ∀ f (w : State), (powerDigital f w).mode = w.mode := fun f w => powerDigital_only f w .mode rfl
    rw [this]
  split
  · split
    · rw [hb, raise_mode]; exact ⟨rfl, rfl, rfl, rfl, rfl, rfl⟩
    · rw [raise_mode]; exact ⟨rfl, rfl, rfl, rfl, rfl, rfl⟩
  · split
    · rw [raise_mode]; exact ⟨rfl, rfl, rfl, rfl, rfl, rfl⟩
    · exact ⟨rfl, rfl, rfl, rfl, rfl, rfl⟩

theorem reviewAlerts_controls (s : State) : (reviewAlerts s).mode.autoRun = s.mode.autoRun ∧ (reviewAlerts s).mode.alertPty31 = s.mode.alertPty31 ∧ (reviewAlerts s).mode.alertTa = s.mode.alertTa
    ∧ (reviewAlerts s).mode.alertDab = s.mode.alertDab ∧ (reviewAlerts s).mode.alertDrm = s.mode.alertDrm ∧ (reviewAlerts s).mode.alertInRun = s.mode.alertInRun := by
  unfold reviewAlerts
  dsimp only
  refine foldl_keep (fun u => u.mode.autoRun = s.mode.autoRun ∧ u.mode.alertPty31 = s.mode.alertPty31 ∧ u.mode.alertTa = s.mode.alertTa ∧ u.mode.alertDab = s.mode.alertDab ∧ u.mode.alertDrm = s.mode.alertDrm ∧ u.mode.alertInRun = s.mode.alertInRun) _ _ (fun v a hv => ?_) _
    (foldl_keep (fun u => u.mode.autoRun = s.mode.autoRun ∧ u.mode.alertPty31 = s.mode.alertPty31 ∧ u.mode.alertTa = s.mode.alertTa ∧ u.mode.alertDab = s.mode.alertDab ∧ u.mode.alertDrm = s.mode.alertDrm ∧ u.mode.alertInRun = s.mode.alertInRun) _ _ (fun v a hv => ?_) _ ⟨rfl, rfl, rfl, rfl, rfl, rfl⟩)
  all_goals
    obtain ⟨a1, a2, a3, a4, a5, a6⟩ := setAlert_controls a _ v
    exact ⟨a1.trans hv.1, a2.trans hv.2.1, a3.trans hv.2.2.1, a4.trans hv.2.2.2.1, a5.trans hv.2.2.2.2.1, a6.trans hv.2.2.2.2.2⟩

theorem maskBit_add : ∀ (k m : Nat), maskBit m k = false → ∀ i, maskBit (m + 2 ^ k) i = (maskBit m i || i == k) := by
  intro k
  induction k with
  | zero =>
    intro m h i
    have h0 : m % 2 = 0 := by
      simp only [maskBit, Nat.shiftRight_zero, beq_eq_false_iff_ne] at h
      omega
    cases i with
    | zero =>
      unfold maskBit
      simp only [Nat.shiftRight_zero, Nat.pow_zero]
      have : (m + 1) % 2 = 1 := by omega
      rw [this, h0]; rfl
    | succ i =>
      rw [maskBit_succ, maskBit_succ]
      have : (m + 2 ^ 0) / 2 = m / 2 := by rw [Nat.pow_zero]; omega
      rw [this]; simp
  | succ k ih =>
    intro m h i
    rw [maskBit_succ] at h
    have e : (m + 2 ^ (k + 1)) / 2 = m / 2 + 2 ^ k := by rw [Nat.pow_succ]; omega
    cases i with
    | zero =>
      unfold maskBit
      simp only [Nat.shiftRight_zero]
      have : (m + 2 ^ (k + 1)) % 2 = m % 2 := by rw [Nat.pow_succ]; omega
      rw [this]; simp
    | succ i =>
      rw [maskBit_succ, maskBit_succ, e, ih _ h]; simp

theorem zipIdx_map_set {α : Type} (l : List α) (k : Nat) (f : α → α) (i : Nat) (x : α) (h : l[i]? = some x) :
    (l.zipIdx.map fun y => if y.2 = k then f y.1 else y.1)[i]? = some (if i = k then f x else x) := by
  simp [h]

theorem le_getD (n v : Nat) : ∀ i, i < n → (le n v).getD i 0 = BitVec.ofNat 8 (v / 256 ^ i) := by
  induction n generalizing v with
  | zero => intro i h; omega
  | succ n ih =>
    intro i h
    cases i with
    | zero => simp [le]
    | succ i =>
      show (le n (v / 256)).getD i 0 = _
      rw [ih _ _ (by omega), Nat.div_div_eq_div_mul, Nat.pow_succ, Nat.mul_comm]

structure MsixSame (s t : State) : Prop where
  mode : t.mode = s.mode
  integ : t.integ = s.integ
  domains : t.domains = s.domains
  sec : t.sec = s.sec
  time : t.time = s.time
  cal : t.cal = s.cal
  mb : t.mb = s.mb

def MsixSet (p v : Nat) (s t : State) : Prop :=
  MsixSame s t ∧ t.link.sent = s.link.sent ∧ t.link.rings = s.link.rings ∧ t.link.events = s.link.events
  ∧ (∀ i, i ≠ p / 16 → t.link.pcie.msixTable.get i = s.link.pcie.msixTable.get i)
  ∧ (p % 16 = 0 → t.link.pcie.msixTable.get (p / 16) = { s.link.pcie.msixTable.get (p / 16) with addrLo := BitVec.ofNat 32 v })
  ∧ (p % 16 = 4 → t.link.pcie.msixTable.get (p / 16) = { s.link.pcie.msixTable.get (p / 16) with addrHi := BitVec.ofNat 32 v })
  ∧ (p % 16 = 8 → t.link.pcie.msixTable.get (p / 16) = { s.link.pcie.msixTable.get (p / 16) with data := BitVec.ofNat 32 v })
  ∧ ∀ i, maskBit t.link.pcie.masked i = (maskBit s.link.pcie.masked i || (p % 16 == 12 && maskBit v 0 && i == p / 16))

theorem writeMsix_set (p v : Nat) (s : State) (ha : p % 4 = 0) : MsixSet p v s (writeMsix p v s) := by
  unfold writeMsix
  dsimp only
  refine ⟨⟨rfl, rfl, rfl, rfl, rfl, rfl, rfl⟩, rfl, rfl, rfl, fun i hi => ?_, fun h => ?_, fun h => ?_, fun h => ?_, fun i => ?_⟩
  · split
    · exact Tbl.get_modify_of_ne _ hi _
    · exact Tbl.get_modify_of_ne _ hi _
  · have e4 : p % 16 / 4 = 0 := by omega
    rw [e4, if_neg (by simp)]
    exact Tbl.get_modify_self _ _ _
  · have e4 : p % 16 / 4 = 1 := by omega
    rw [e4, if_neg (by simp)]
    exact Tbl.get_modify_self _ _ _
  · have e4 : p % 16 / 4 = 2 := by omega
    rw [e4, if_neg (by simp)]
    exact Tbl.get_modify_self _ _ _
  · by_cases e4 : p % 16 / 4 = 3
    · have e5 : (p % 16 == 12) = true := beq_iff_eq.2 (by omega)
      rw [e5, decide_eq_true e4]
      show maskBit (if (true && maskBit v 0 && !maskBit s.link.pcie.masked (p / 16)) = true then _ else _ : PcieSt).masked i = _
      cases hv : maskBit v 0
      · simp only [Bool.and_false, Bool.false_and, Bool.false_eq_true, if_false, Bool.or_false]
      · cases hm : maskBit s.link.pcie.masked (p / 16)
        · simp only [Bool.true_and, Bool.not_false, if_true]
          exact maskBit_add _ _ hm i
        · simp only [Bool.true_and, Bool.not_true, Bool.false_eq_true, if_false]
          show maskBit s.link.pcie.masked i = _
          by_cases q : i = p / 16
          · rw [q, hm]; rfl
          · rw [beq_eq_false_iff_ne.2 q, Bool.or_false]
    · have e5 : (p % 16 == 12) = false := beq_eq_false_iff_ne.2 (by omega)
      rw [e5, decide_eq_false e4]
      simp only [Bool.false_and, Bool.false_eq_true, if_false, Bool.or_false]

end Sys2Proof.Machine
end

