-- ==== Sys2Proof/Laws/OpsRead.lean ====
section
/-!
SUPPORT. What accesses over the host link do: reads and writes in the window of a die, what a read of a word returns.
-/
namespace Sys2Proof.Machine

/-- A read in the window of a populated die returns its value. -/
theorem dieRead_populated {s : State} {d v : Nat} {f : State → State} (hb : s.barUp = true) (hd : d < s.dies) :
    dieRead d v f s = .next (send (.regRead v) (f (hostAccess s))) := by
  unfold dieRead onlyIf; rw [hb, if_pos rfl, if_pos hd]

/-- A read in the window of an absent die returns 0. -/
theorem dieRead_absent {s : State} {d v : Nat} {f : State → State} (hb : s.barUp = true) (hd : s.dies ≤ d) :
    dieRead d v f s = .next (send (.regRead 0) (hostAccess s)) := by
  unfold dieRead onlyIf; rw [hb, if_pos rfl, if_neg (by omega)]

/-- A write in the window of a die that takes it. -/
theorem dieWrite_takes {s : State} {d : Nat} {b : Bool} {f : State → State} (hb : s.barUp = true) (hd : s.dieUp d = true) (ht : b = true) :
    dieWrite d b f s = .next (f (hostAccess s)) := by
  unfold dieWrite onlyIf; rw [hb, hd, ht]; rfl

/-- A word of the package window. -/
theorem readBar0_package {s : State} {o : Nat} (h : o < 0x10000) : s.readBar0 o = s.readPackage o := if_pos h

/-- A word of the window of a populated die. -/
theorem readBar0_die {s : State} {d o : Nat} (hd : d < s.dies) (ho : o < 0x10000) : s.readBar0 (0x10000 * (d + 1) + o) = s.readDie d o := by
  have h1 : ¬ 0x10000 * (d + 1) + o < 0x10000 := by omega
  have h2 : (0x10000 * (d + 1) + o) / 0x10000 = d + 1 := by omega
  have h3 : (0x10000 * (d + 1) + o) % 0x10000 = o := by omega
  unfold State.readBar0
  rw [if_neg h1, h2, h3, if_pos (by omega)]; rfl

/-- The windows of absent dies read as 0. -/
theorem readBar0_absent {s : State} {o : Nat} (h : 0x10000 * (s.dies + 1) ≤ o) : s.readBar0 o = 0 := by
  unfold State.readBar0
  rw [if_neg (by omega), if_neg (by omega)]

/-- Converter k stands at 0x300 + 0x80 × x of its die's window. -/
theorem readDie_conv (s : State) (k o : Nat) (ho : o < 0x80) : s.readDie (k / 2) (0x300 + 0x80 * (k % 2) + o) = s.readConverter k o := by
  have h1 : ¬ 0x300 + 0x80 * (k % 2) + o < 0x300 := by omega
  have h2 : 0x300 + 0x80 * (k % 2) + o < 0x400 := by omega
  have h3 : k / 2 * 2 + (0x300 + 0x80 * (k % 2) + o - 0x300) / 0x80 = k := by omega
  have h4 : (0x300 + 0x80 * (k % 2) + o) % 0x80 = o := by omega
  unfold State.readDie
  rw [if_neg h1, if_pos h2, h3, h4]

/-- The band tap of cluster c stands at 0x400 + 0x20 × (c mod 4) of its die's window. -/
theorem readDie_bandTap (s : State) (c o : Nat) (ho : o < 0x20) : s.readDie (c / 4) (0x400 + 0x20 * (c % 4) + o) = s.readBandTap c o := by
  have h1 : ¬ 0x400 + 0x20 * (c % 4) + o < 0x300 := by omega
  have h2 : ¬ 0x400 + 0x20 * (c % 4) + o < 0x400 := by omega
  have h3 : 0x400 + 0x20 * (c % 4) + o < 0x480 := by omega
  have h4 : c / 4 * 4 + (0x400 + 0x20 * (c % 4) + o - 0x400) / 0x20 = c := by omega
  have h5 : (0x400 + 0x20 * (c % 4) + o) % 0x20 = o := by omega
  unfold State.readDie
  rw [if_neg h1, if_neg h2, if_pos h3, h4, h5]

/-- A word of the record of converter k. -/
theorem readBar0_conv {s : State} {k o : Nat} (hk : k < 2 * s.dies) (ho : o < 0x80) :
    s.readBar0 (0x10000 * (k / 2 + 1) + 0x300 + 0x80 * (k % 2) + o) = s.readConverter k o := by
  have e : 0x10000 * (k / 2 + 1) + 0x300 + 0x80 * (k % 2) + o = 0x10000 * (k / 2 + 1) + (0x300 + 0x80 * (k % 2) + o) := by omega
  rw [e, readBar0_die (by omega) (by omega), readDie_conv s k o ho]

/-- A word of the record of the band tap of cluster c. -/
theorem readBar0_bandTap {s : State} {c o : Nat} (hc : c < s.dies * 4) (ho : o < 0x20) :
    s.readBar0 (0x10000 * (c / 4 + 1) + 0x400 + 0x20 * (c % 4) + o) = s.readBandTap c o := by
  have e : 0x10000 * (c / 4 + 1) + 0x400 + 0x20 * (c % 4) + o = 0x10000 * (c / 4 + 1) + (0x400 + 0x20 * (c % 4) + o) := by omega
  rw [e, readBar0_die (by omega) (by omega), readDie_bandTap s c o ho]

/-- A word of the monitor registers of a die. -/
theorem readBar0_monitor {s : State} {d o : Nat} (hd : d < s.dies) (h1 : 0x3400 ≤ o) (h2 : o < 0x3590) :
    s.readBar0 (0x10000 * (d + 1) + o) = s.readMonitor d o := by
  rw [readBar0_die hd (by omega)]
  unfold State.readDie
  iterate 24 rw [if_neg (by omega)]
  rw [if_pos (by simp; omega)]

/-- The words of accumulator i: SUM_LO, and SUM_HI and COUNT as the last read of SUM_LO took them. -/
theorem readBar0_acc {s : State} {d i : Nat} (hd : d < s.dies) (hi : i < 16) :
    s.readBar0 (0x10000 * (d + 1) + 0x3450 + 0x10 * i) = ((s.mon.dies.get d).accs.get i).sum.toNat % 2 ^ 32
      ∧ s.readBar0 (0x10000 * (d + 1) + 0x3450 + 0x10 * i + 4) = ((s.mon.dies.get d).snaps.get i).1 % 2 ^ 32
      ∧ s.readBar0 (0x10000 * (d + 1) + 0x3450 + 0x10 * i + 8) = ((s.mon.dies.get d).snaps.get i).2 % 2 ^ 32 := by
  have hr : ∀ o, o < 0x10 → s.readBar0 (0x10000 * (d + 1) + 0x3450 + 0x10 * i + o) = s.readMonitor d (0x3450 + 0x10 * i + o) := by
    intro o ho
    have e : 0x10000 * (d + 1) + 0x3450 + 0x10 * i + o = 0x10000 * (d + 1) + (0x3450 + 0x10 * i + o) := by omega
    rw [e, readBar0_monitor hd (by omega) (by omega)]
  have hm : ∀ o, o < 0x10 → (0x3450 + 0x10 * i + o - 0x3450) / 0x10 = i ∧ (0x3450 + 0x10 * i + o) % 0x10 = o := by
    intro o ho; omega
  refine ⟨(hr 0 (by omega)).trans ?_, (hr 4 (by omega)).trans ?_, (hr 8 (by omega)).trans ?_⟩ <;> unfold State.readMonitor <;>
    (iterate 5 rw [if_neg (by omega)]) <;> rw [if_pos (by omega)]
  · rw [(hm 0 (by omega)).1, (hm 0 (by omega)).2] <;> rfl
  · rw [(hm 4 (by omega)).1, (hm 4 (by omega)).2] <;> rfl
  · rw [(hm 8 (by omega)).1, (hm 8 (by omega)).2] <;> rfl

/-- PWR_SUM_LO is that of the latched record, PWR_SUM_HI, PWR_COUNT and TICK_NUM are those of the snapshot (R100). -/
theorem readConverter_words (s : State) (k : Nat) :
    s.readConverter k 0x08 = (s.front.convs.get k).latched.pwrSum.toNat % 2 ^ 32 ∧ s.readConverter k 0x0C = (s.front.convs.get k).snap.pwrSum.toNat / 2 ^ 32
      ∧ s.readConverter k 0x10 = (s.front.convs.get k).snap.pwrCount.toNat ∧ s.readConverter k 0x14 = (s.front.convs.get k).snap.tickNum.toNat :=
  ⟨rfl, rfl, rfl, rfl⟩

/-- NCO_WORD_LO is that of the oscillator, NCO_WORD_HI that of the snapshot (04 band tap record). -/
theorem readBandTap_words (s : State) (c : Nat) :
    s.readBandTap c 0x04 = (s.taps.bandTaps.get c).ncoWord % 2 ^ 32 ∧ s.readBandTap c 0x08 = regWord [natField 0 16 (s.taps.bandTaps.get c).ncoHiSnap.toNat] :=
  ⟨rfl, rfl⟩

/-- An unsigned field has the low bits of its value, a signed one the same of its two's complement. -/
theorem wrapInt_nat (w v : Nat) : wrapInt w (v : Int) = v % 2 ^ w := by
  have e : (v : Int) % (2 ^ w : Int) = ((v % 2 ^ w : Nat) : Int) := by simp
  unfold wrapInt
  rw [e]; rfl

/-- A field of `w` bits that was taken as a signed value reads as it was written. -/
theorem wrapInt_signedOf (w v : Nat) : wrapInt w (signedOf w v) = v % 2 ^ w := by
  have e : signedOf w v % (2 ^ w : Int) = ((v % 2 ^ w : Nat) : Int) := by
    unfold signedOf
    split
    · simp
    · rw [Int.sub_emod_right]; simp
  unfold wrapInt
  rw [e]; rfl

/-- A word of one field at bit 0. -/
theorem regWord_single {w : Nat} (hw : w ≤ 32) (v : Int) : regWord [intField 0 w v] = wrapInt w v := by
  have hp : 2 ^ w ≤ 2 ^ 32 := Nat.pow_le_pow_right (by omega) hw
  have hm : wrapInt w v < 2 ^ w := by
    have h0 : (0 : Int) < 2 ^ w := by exact_mod_cast Nat.two_pow_pos w
    have h1 := Int.emod_lt_of_pos v h0
    have h2 := Int.emod_nonneg v (Int.ne_of_gt h0)
    unfold wrapInt
    have h3 : ((2 ^ w : Nat) : Int) = 2 ^ w := by simp
    omega
  unfold regWord intField
  simp only [List.foldl_cons, List.foldl_nil, Nat.pow_zero, Nat.mul_one, Nat.zero_add]
  exact Nat.mod_eq_of_lt (by omega)

end Sys2Proof.Machine
end

