-- ==== Sys2Proof/Tests/Slice0.lean ====
section
/-!
SUPPORT. Small tests: the checks of WellFormed, worked examples of the manual, and for every statement states and operands that meet its hypotheses.
-/
namespace Sys2Proof.Machine

/-- Other chains and taps. -/
def State.withTaps (s : State) (f : TapSt → TapSt) : State := { s with taps := f s.taps }
/-- Another set in force. -/
def State.withActive (s : State) (f : ConfigSet → ConfigSet) : State := { s with cfg := { s.cfg with active := f s.cfg.active } }
/-- Other fields of the PCI Express function. -/
def State.withPcie (s : State) (f : PcieSt → PcieSt) : State := { s with link := { s.link with pcie := f s.link.pcie } }

end Sys2Proof.Machine

namespace Sys2Proof.Tests
open Machine

/-! ### The checks of WellFormed, each on a command that it refuses -/

theorem test_wf_refuses_die : (Instr.monApply 8).wf = false := by decide
theorem test_wf_refuses_input : (Instr.plannedSplice 8).wf = false := by decide
theorem test_wf_refuses_converter : (Instr.converterSampling 16).wf = false := by decide
theorem test_wf_refuses_cluster : (Instr.coverEnd 32).wf = false := by decide
theorem test_wf_refuses_lane : (Instr.stereoSwitch 256).wf = false := by decide
theorem test_wf_refuses_watch : (Instr.watchTapKat 512 false false).wf = false := by decide
theorem test_wf_refuses_engine : (Instr.feedMissingTimeout 32 0).wf = false := by decide
theorem test_wf_refuses_slot : (Instr.nonAudioMuteEnd 512).wf = false := by decide
theorem test_wf_refuses_context : (Instr.auDue 384 false).wf = false := by decide
theorem test_wf_refuses_follow : (Instr.followRecord 128).wf = false := by decide
theorem test_wf_refuses_ring : (Instr.ringDisable 96 0).wf = false := by decide
theorem test_wf_refuses_command_ring : (Instr.descriptorFetch 16 none).wf = false := by decide
theorem test_wf_refuses_completion_ring : (Instr.completionWrite 15).wf = false ∧ (Instr.completionWrite 32).wf = false := by decide
theorem test_wf_refuses_delivery_ring : (Instr.blockHoldExpiry 31).wf = false ∧ (Instr.blockHoldExpiry 96).wf = false := by decide
theorem test_wf_refuses_event_source : (Instr.eventBlock 8).wf = false := by decide
theorem test_wf_refuses_word : (Instr.clkCtrlWrite (2 ^ 32)).wf = false := by decide
theorem test_wf_refuses_controller_word : (Instr.mbControllerGo (some (2 ^ 32)) false false).wf = false := by decide
theorem test_wf_refuses_source : (Instr.nop (.ring 16)).wf = false := by decide
theorem test_wf_refuses_loop : (Instr.lossOfLock (.die 8 .aud)).wf = false := by decide
theorem test_wf_refuses_receiver : (Instr.sideDataSpanEnd (.watch 512) {}).wf = false := by decide
theorem test_wf_refuses_port : (Instr.portResume (.inp 4)).wf = false := by decide
theorem test_wf_refuses_sat_target : (Instr.satStickyClear (.lane 0 3)).wf = false := by decide
theorem test_wf_refuses_stream : (Instr.streamBlockFormed (.segment 32) 0 {} 0 false false false).wf = false := by decide
theorem test_wf_refuses_task : (Instr.backgroundTaskAgeing (.level 8) true).wf = false := by decide
theorem test_wf_refuses_word_owner : (Instr.sramUncorrectable 0 0 (.engineCells 0 8)).wf = false := by decide
theorem test_wf_refuses_register : (Instr.registerWrite (.bar0 2) 0).wf = false ∧ (Instr.registerWrite (.bar0 (2 ^ 20)) 0).wf = false := by decide
theorem test_wf_refuses_direction : (Instr.linkRestored 0 2).wf = false := by decide
theorem test_wf_refuses_domain : (Instr.domainRampDone 0 14).wf = false := by decide
theorem test_wf_refuses_signal : (Instr.drmFrame 0 8 {}).wf = false := by decide
theorem test_wf_refuses_pair : (Instr.crossAssayWindow 0 4).wf = false := by decide
theorem test_wf_refuses_index : (Instr.doorbellWrite 0 65536).wf = false := by decide
theorem test_wf_refuses_bus_address : (Instr.mbWriteTransaction 128 []).wf = false := by decide
theorem test_wf_refuses_bus_header : (Instr.mbReadTransaction 0x4C [] true false false).wf = false := by decide
theorem test_wf_refuses_descriptor : (Instr.descriptorFetch 0 (some [0])).wf = false := by decide
theorem test_wf_refuses_vector : (Instr.msixUnmask 64).wf = false := by decide
theorem test_wf_refuses_syncpos : (Instr.perstNRelease false 16 0 false).wf = false := by decide
theorem test_wf_refuses_strap_address : (Instr.perstNRelease false 0 4 false).wf = false := by decide
theorem test_wf_refuses_response : (Instr.debugResponseWrite [0]).wf = false := by decide
theorem test_wf_refuses_position : (Instr.coverStart 0 8).wf = false := by decide
theorem test_wf_refuses_feed_limits : (Instr.feedLimitsWrite 0 65536 0).wf = false ∧ (Instr.feedLimitsWrite 0 0 65536).wf = false := by decide
theorem test_wf_refuses_ring_offset : (Instr.ringConfigWrite 0 32 0).wf = false := by decide
theorem test_wf_refuses_debug_level : (Instr.debugChallengeRead 256).wf = false := by decide
theorem test_wf_refuses_rds_stream : (Instr.rdsBlock (.lane 0) 4 {} 0).wf = false := by decide
theorem test_wf_refuses_slice : (Instr.sliceCoeffUpdate 0 9 {}).wf = false := by decide
theorem test_wf_refuses_rule : (Instr.lastingRuleWrite 7 0).wf = false := by decide
theorem test_wf_refuses_entry : (Instr.sumLoRead 0 16).wf = false := by decide
theorem test_wf_refuses_check : (Instr.fastCheckTrip 0 5).wf = false := by decide
theorem test_wf_refuses_array : (Instr.sramSingleBitError 0 112 0 0).wf = false := by decide
theorem test_wf_refuses_bar : (Instr.receivedWriteEcrcFail 1 0).wf = false := by decide
theorem test_wf_refuses_vector_check : (Instr.slotKat true 384 false false).wf = false ∧ (Instr.slotKat false 512 false false).wf = false := by decide

/-- The table gives no bits, so no word spells a command. -/
theorem test_no_word_spells_a_command : decodeTableWord 16 0 = none := rfl

/-! ### The manual's worked examples -/

/-- Lane 173 of a PD8256 is on die 5, in cluster 21; course 7 joins converters 14 and 1 (00, "locating a unit"). -/
theorem test_lane_173 : laneDie 173 = 5 ∧ laneCluster 173 = 21 ∧ 173 % 8 = 5 ∧ State.reset.convOf 7 0 = 14 ∧ State.reset.convOf 7 1 = 1 := by decide

/-- Traffic from die 4 to die 0 of a PD8256 rises over four links, to die 1 it falls over three (01, "a cross-die survey"). -/
theorem test_routes : ringPath 8 4 0 [] = [8, 10, 12, 14] ∧ ringPath 8 4 1 [] = [9, 7, 5] := by decide

/-- The tuning word of 98 MHz at 1.625 GS/s (04, "moving a band tap under a live FM lane"). -/
theorem test_tuning_word : tuningWord 2 98000000 = 16975106287781 := by decide

/-- The configuration of lane 21 after the move (04, the same example). -/
def lane21 : Tune := { plan := 2, segCode := 2, ncoWord := 16975106287781, freq := 97400000, rateClass := 2, phaseDelay := 672 }
/-- Its chain, moved at tick 5,000. -/
def chain21 : Chain :=
  { active := true, rateClass := 2, phaseDelay := 672, tunes := [(500000000, lane21), (0, { lane21 with ncoWord := 16715283283376 })]
    disturbs := [.instant 500000000 true false] }

/-- H_bt = 1,035, H_lane = 97,472 and W_l = −101,493,381 there. -/
theorem test_spans : halfBt 6 = 1035 ∧ halfLane 6 11 = 97472 ∧ lane21.laneWord = -101493381 := by decide
/-- Samples 2,559,980 to 2,560,041 are suppressed there, and no other. -/
theorem test_suppressed : chain21.deadAt 2559979 = false ∧ chain21.deadAt 2559980 = true ∧ chain21.deadAt 2560041 = true ∧ chain21.deadAt 2560042 = false := by decide
/-- The block at 500,000,000 begins with the sample that represents 499,997,949 counts and a fraction 0.21875. -/
theorem test_represented : chain21.instantAt (chain21.pointAt 500000000) / 12288 = 499997949 ∧ chain21.instantAt (chain21.pointAt 500000000) % 12288 = 2688 := by decide
/-- A feed code of 5,893 is 112.4 mA (13, "an antenna feed from telemetry"). -/
theorem test_feed_current : feedTenths 5893 = 1124 := by decide
/-- A mean square of 200,000,000 Hz² is above the reference of BS.412 by at least 0.445 dB and less than 0.455 dB (05, "reading an FM record"). -/
theorem test_mpx_power : powLe 89 2000 200000000 180500000 = true ∧ powLe 91 2000 200000000 180500000 = false := by decide +kernel

/-- −36.12 dB at 95 MHz and −36.20 dB at 100 MHz give −36.13 dB at 95.5 MHz (12, "a background step on ANT0"). -/
theorem test_interpolation : tableAt (List.replicate 19 0 ++ [-3612, -3620]) 95500000 = -3613 := by decide

/-- The PEC byte of the transaction in 16, "polling the fault summary". -/
theorem test_pec : pecOf [0x98, 0x08, 0x00, 0x84, 0x99, 0x01, 0x02, 0x00, 0x00] = 0xBE := by decide +kernel

/-- That transaction's header: pointer 8, COUNT 4, a read. -/
theorem test_read_header : mbHeader [0x08, 0x00, 0x84] = some (8, 4, true) := by decide

/-! ### Small states -/

/-- A package in the mode at SYSTIME `n`, every domain of every die in service. -/
def up (m : OpMode) (n : Nat) : State :=
  { State.reset with
    mode := { State.reset.mode with mode := m, bootPhase := 4 }
    time := { State.reset.time with systime := BitVec.ofNat 64 n, armed := .none, aligned := true }
    domains := Tbl.empty { on := 0x3FFF, ready := 0x3FFF, armed := 0x3FFF }
    sec := { State.reset.sec with stage := .done } }

/-- A descriptor of an opcode with the bytes named set, the others 0. -/
def desc (op : Nat) (bs : List (Nat × Nat)) : List Byte :=
  bs.foldl (fun d b => d.set b.1 (BitVec.ofNat 8 b.2)) (BitVec.ofNat 8 op :: List.replicate 63 0)

/-- A buffer of `n` bytes with those named set, the others 0. -/
def bytesWith (n : Nat) (bs : List (Nat × Nat)) : List Byte :=
  bs.foldl (fun d b => d.set b.1 (BitVec.ofNat 8 b.2)) (List.replicate n 0)

/-- The descriptor at the front of command ring 0. -/
def given (d : List Byte) (s : State) : State := s.setRing 0 fun g => { g with enable := true, fetched := [⟨d, 0, true⟩] }


/-! ### Witnesses: states and operands that meet the hypotheses of each clause of each statement, at the top of their ranges -/

theorem crcRun_append (c : Nat) (a b : List Byte) : crcRun c (a ++ b) = crcRun (crcRun c a) b := by
  induction a generalizing c with
  | nil => rfl
  | cons x xs ih => exact ih _

/-- A buffer of STAGE_FOLLOW whose fields are in range. -/
def followBuf : List Byte := bytesWith 264 [(12, 2), (14, 30), (15, 1), (16, 1), (17, 1), (18, 1), (19, 1), (22, 1), (23, 3), (24, 10), (26, 10), (27, 10)]
/-- Its descriptor. -/
def followDesc : List Byte := desc 0x15 [(4, 127), (44, 64), (52, 8), (53, 1), (56, 104), (57, 108), (58, 235), (59, 219)]

theorem followBuf_crc : crcRun 0xFFFFFFFF (padTo 264 followBuf) = 605328279 := by
  have e : padTo 264 followBuf = ((((followBuf.take 44 ++ (followBuf.drop 44).take 44) ++ (followBuf.drop 88).take 44)
      ++ (followBuf.drop 132).take 44) ++ (followBuf.drop 176).take 44) ++ (followBuf.drop 220).take 44 := by decide +kernel
  have h1 : crcRun 0xFFFFFFFF (followBuf.take 44) = 3728275523 := by decide +kernel
  have h2 : crcRun 3728275523 ((followBuf.drop 44).take 44) = 1875207370 := by decide +kernel
  have h3 : crcRun 1875207370 ((followBuf.drop 88).take 44) = 840517589 := by decide +kernel
  have h4 : crcRun 840517589 ((followBuf.drop 132).take 44) = 1376540057 := by decide +kernel
  have h5 : crcRun 1376540057 ((followBuf.drop 176).take 44) = 640920648 := by decide +kernel
  have h6 : crcRun 640920648 ((followBuf.drop 220).take 44) = 605328279 := by decide +kernel
  rw [e, crcRun_append, crcRun_append, crcRun_append, crcRun_append, crcRun_append, h1, h2, h3, h4, h5, h6]

theorem followBuf_good : inputFails .stageFollow followDesc (some followBuf) = false := by
  have n : bufLen followDesc = 264 := by decide
  have c : bufCrc followDesc = 3689639016 := by decide
  simp [inputFails, n, c, crc32c, followBuf_crc]

theorem witness_stageFollow : ∃ (s : State) (src : CmdSrc) (f : Fetched) (buf : Option (List Byte)), s.begins .stageFollow src f buf := by
  refine ⟨given followDesc (up .run 0), .ring 0, ⟨followDesc, 0, true⟩, some followBuf, by decide, by decide, ?_⟩
  unfold State.refuse
  dsimp only
  rw [followBuf_good]
  decide +kernel

/-- An engine whose feed has been held for longer than 400 ms. -/
def goneState : State :=
  (((up .run 100000000).withActive fun c => { c with engines := c.engines.set 31 { cls := .drm, feeds := [none, some 31] } }).withTaps
    fun t => { t with lanes := t.lanes.set 255 { active := true } }).setSpare 31 fun x => { x with log := [⟨7, true, 50000000, none⟩] }

theorem gone_missing (n : Int) (h : 28800 ≤ n) : goneState.feedMissing 255 n = true := by
  have hb : 50000000 < goneState.feedBlock 255 n + 200000 := by
    show 50000000 < (n * 400000 / 192).toNat / 200000 * 200000 + 200000
    omega
  have hh : goneState.heldIn 255 (goneState.feedBlock 255 n) (goneState.feedBlock 255 n + countsPerBlock) = true := by
    have e : (goneState.lanes.spares.get (laneCluster 255)).log = [⟨7, true, 50000000, none⟩] := by decide
    revert hb
    unfold State.heldIn State.coverSpanIn
    rw [e]
    generalize goneState.feedBlock 255 n = b
    intro hb
    have h' : 50000000 < b + countsPerBlock := hb
    simp [h']
  unfold State.feedMissing
  dsimp only
  rw [hh, Bool.or_true, Bool.true_or]

theorem gone_feed : goneState.feedGone 255 (goneState.signal 31 1) = true := by
  have hn : goneState.feedNow 255 goneState.now = 48000 := by decide
  have hk : rateHz (goneState.taps.lanes.get 255).rateClass * 2 / 5 + 1 = 19201 := by decide
  have hq : goneState.acqPoint 255 (goneState.signal 31 1) = 0 := by decide
  unfold State.feedGone
  dsimp only
  rw [hn, hk, hq, Bool.and_eq_true, List.all_eq_true, List.any_eq_true]
  exact ⟨fun i hi => gone_missing _ (by have := List.mem_range.1 hi; omega), 0, List.mem_range.2 (by decide), by decide⟩

theorem witness_stepRunsFront : ∃ (c : Instr) (rest : List Instr) (s : State), s.pending = c :: rest :=
  ⟨.pcieReset, [], { State.reset with pending := [.pcieReset] }, by decide⟩
theorem witness_idleStepCounts : ∃ (s : State), s.pending = [] :=
  ⟨State.reset, by decide⟩
theorem witness_perstNAssert : ∃ (s : State), s.pins.perstHigh = true :=
  ⟨State.reset, by decide⟩
theorem witness_suppliesAbsent : ∃ (s : State), s.pins.suppliesPresent = true :=
  ⟨State.reset, by decide⟩
theorem witness_perstNRelease : ∃ (s : State) (refsel refin : Bool) (syncpos mbAddr : Nat), s.mode.mode = .off ∧ s.pins.perstHigh = false :=
  ⟨(State.reset.offState { perstHigh := false }), true, false, 15, 3, by decide, by decide⟩
theorem witness_romCheckDone : ∃ (s : State), s.mode.mode = .boot ∧ s.sec.stage = .check :=
  ⟨State.reset, by decide, by decide⟩
theorem witness_imageCheckDone : ∃ (s : State), s.mode.mode = .boot ∧ s.sec.stage = .image :=
  ⟨{ State.reset with sec := { State.reset.sec with stage := .image } }, by decide, by decide⟩
theorem witness_dieLoadDone : ∃ (s : State), s.mode.mode = .boot ∧ s.sec.stage = .load :=
  ⟨{ State.reset with sec := { State.reset.sec with stage := .load } }, by decide, by decide⟩
theorem witness_dieSelfTestDone : ∃ (s : State) (d : Nat) (temp : Int) (bands : List Nat), s.mode.mode = .boot ∧ s.sec.stage = .test ∧ d < s.dies ∧ (s.clk.get d).band0 = none :=
  ⟨{ State.reset with sec := { State.reset.sec with stage := .test } }, 7, 0, [], by decide, by decide, by decide, by decide⟩
theorem witness_bootComplete : ∃ (s : State), s.mode.mode = .boot ∧ s.sec.stage = .test ∧ ((∀ d < s.dies, (s.clk.get d).band0.isSome = true)) ∧ ((∀ d < s.dies, s.cutOff d = false)) :=
  ⟨{ State.reset with sec := { State.reset.sec with stage := .test }, clk := Tbl.empty { band0 := some ⟨0, 0⟩ }, domains := Tbl.empty { on := 0x3FFF, ready := 0x3FFF, armed := 0x3FFF } }, by decide, by decide, by decide, by decide⟩
theorem witness_domainRampDone : ∃ (s : State) (d dom : Nat), d < s.dies ∧ dom < 14 ∧ maskBit (s.domains.get d).on dom = true ∧ maskBit (s.domains.get d).armed dom = false ∧ (s.domains.get d).onAt.getD dom 0 ≤ s.now :=
  ⟨{ (up .run 5) with domains := Tbl.empty { on := 0x2000, onAt := List.replicate 14 5 } }, 7, 13, by decide, by decide, by decide, by decide, by decide⟩
theorem witness_domainInService : ∃ (s : State) (d dom band : Nat) (temp : Int), d < s.dies ∧ dom < 14 ∧ maskBit (s.domains.get d).armed dom = true ∧ maskBit (s.domains.get d).ready dom = false :=
  ⟨{ State.reset with domains := Tbl.empty { on := 0x2000, armed := 0x2000 } }, 7, 13, 0, 0, by decide, by decide, by decide, by decide⟩
theorem witness_supplyTrip : ∃ (s : State) (d dom : Nat) (tooHigh : Bool), d < s.dies ∧ dom < 14 ∧ maskBit (s.domains.get d).armed dom = true :=
  ⟨(up .run 0), 7, 13, false, by decide, by decide, by decide⟩
theorem witness_lockstepDisagreement : ∃ (s : State) (d : Nat), s.dieUp d = true ∧ maskBit (s.domains.get d).ready 0 = true ∧ s.mode.mode ≠ .halted :=
  ⟨(up .run 0), 7, by decide, by decide, by decide⟩
theorem witness_refinLoss : ∃ (s : State), s.ref.present = true :=
  ⟨{ State.reset with ref := { present := true } }, by decide⟩
theorem witness_refinReturn : ∃ (s : State) (phase : Int), s.ref.present = false ∧ s.mode.mode ≠ .off :=
  ⟨State.reset, 0, by decide, by decide⟩
theorem witness_rootLossAtDie : ∃ (s : State) (d : Nat), d < s.dies ∧ (s.clk.get d).rootPresent = true :=
  ⟨(up .run 0), 7, by decide, by decide⟩
theorem witness_rootReturnAtDie : ∃ (s : State) (d : Nat) (phases : List Int), d < s.dies ∧ (s.clk.get d).rootPresent = false :=
  ⟨((up .run 0).setClk 7 fun c => { c with rootPresent := false }), 7, [], by decide, by decide⟩
theorem witness_refReturnTimeout : ∃ (s : State), (∃ x ∈ s.ref.ppsWait, x.1 + 150000000 ≤ s.now) :=
  ⟨{ (up .run 150000000) with ref := { ppsWait := [(0, 5)] } }, by decide⟩
theorem witness_lossOfLock : ∃ (s : State), s.ref.locked = true ∧ s.ref.coasting = false :=
  ⟨{ (up .run 0) with ref := { present := true, locked := true } }, by decide, by decide⟩
theorem witness_lossOfLock_2 : ∃ (s : State) (d : Nat) (l : DieLoop), d < s.dies ∧ ((s.clk.get d).loop l).locked = true ∧ ((s.clk.get d).loop l).coasting = false ∧ ((l = .samp → (s.clk.get d).hop.masked = false)) :=
  ⟨((up .run 0).setClk 7 fun c => { c with samp := { locked := true } }), 7, .samp, by decide, by decide, by decide, by decide⟩
theorem witness_relockAttempt : ∃ (s : State) (phase : Int), s.ref.locked = false ∧ s.ref.present = true ∧ s.ref.attempt = none ∧ s.ref.coastAt + 10000 ≤ s.now :=
  ⟨{ (up .run 10000) with ref := { present := true, coasting := true } }, 0, by decide, by decide, by decide, by decide⟩
theorem witness_relockAttempt_2 : ∃ (s : State) (d : Nat) (l : DieLoop) (phase : Int), d < s.dies ∧ ((s.clk.get d).loop l).coasting = true ∧ ((s.clk.get d).loop l).held = false ∧ (s.clk.get d).rootPresent = true ∧ ((s.clk.get d).loop l).attempt = none ∧ ((s.clk.get d).loop l).coastAt + 10000 ≤ s.now :=
  ⟨((up .run 10000).setClk 7 fun c => { c with sys := { coasting := true } }), 7, .sys, 0, by decide, by decide, by decide, by decide, by decide, by decide⟩
theorem witness_relockAttemptFailed : ∃ (s : State) (a : Nat), s.ref.attempt = some a ∧ a + 1000000 ≤ s.now :=
  ⟨{ (up .run 1000000) with ref := { coasting := true, attempt := some 0 } }, 0, by decide, by decide⟩
theorem witness_relockAttemptFailed_2 : ∃ (s : State) (d : Nat) (l : DieLoop) (a : Nat), d < s.dies ∧ ((s.clk.get d).loop l).attempt = some a ∧ a + 1000000 ≤ s.now :=
  ⟨((up .run 1000000).setClk 7 fun c => { c with aud := { coasting := true, attempt := some 0 } }), 7, .aud, 0, by decide, by decide, by decide⟩
theorem witness_pllRelock : ∃ (s : State) (temp : Int) (band : Nat), s.ref.present = true ∧ s.ref.attempt.isSome = true :=
  ⟨{ (up .run 0) with ref := { present := true, coasting := true, attempt := some 0 } }, 0, 0, by decide, by decide⟩
theorem witness_pllRelock_2 : ∃ (s : State) (d : Nat) (l : DieLoop) (temp : Int) (band : Nat), d < s.dies ∧ ((s.clk.get d).loop l).coasting = true ∧ ((s.clk.get d).loop l).attempt.isSome = true :=
  ⟨((up .run 0).setClk 7 fun c => { c with aud := { coasting := true, attempt := some 0 } }), 7, .aud, 0, 0, by decide, by decide, by decide⟩
theorem witness_sampDriftEval : ∃ (s : State) (d : Nat) (drift : Int), d < s.dies ∧ ((s.clk.get d).samp.coasting || s.ref.coasting) = true :=
  ⟨((up .run 0).setClk 7 fun c => { c with samp := { coasting := true } }), 7, 20, by decide, by decide⟩
theorem witness_sysDriftEval : ∃ (s : State) (d : Nat) (drift : Int), d < s.dies ∧ (s.clk.get d).sys.coasting = true :=
  ⟨((up .run 0).setClk 7 fun c => { c with sys := { coasting := true } }), 7, 20, by decide, by decide⟩
theorem witness_coreRestored : ∃ (s : State) (d : Nat), d < s.dies ∧ (s.clk.get d).onRoot = true ∧ (s.clk.get d).sys.locked = true ∧ s.now % 200000 = 0 :=
  ⟨((up .run 0).setClk 7 fun c => { c with onRoot := true, sys := { locked := true } }), 7, by decide, by decide, by decide, by decide⟩
theorem witness_systimeCompare : ∃ (s : State) (d : Nat), s.dieUp d = true ∧ (s.clk.get d).replica ≠ s.time.systime :=
  ⟨((up .run 0).setClk 7 fun c => { c with replica := 1 }), 7, by decide, by decide⟩
theorem witness_replicaReload : ∃ (s : State) (d r : Nat), d < s.dies ∧ (s.clk.get d).reloadAt = some r ∧ r ≤ s.now :=
  ⟨((up .run 100000).setClk 7 fun c => { c with reloadAt := some 100000 }), 7, 100000, by decide, by decide, by decide⟩
theorem witness_syncEdgeArmed : ∃ (s : State), s.time.armed ≠ .none ∧ s.mode.mode ≠ .off :=
  ⟨State.reset, by decide, by decide⟩
theorem witness_syncEdgeUnarmed : ∃ (s : State), s.time.armed = .none ∧ s.mode.mode ≠ .off :=
  ⟨(up .run 0), by decide, by decide⟩
theorem witness_syncLost : ∃ (s : State), s.mode.mode ≠ .off ∧ s.time.syncLost = false ∧ s.time.lastSync + 150000000 ≤ s.now :=
  ⟨(up .run 150000000), by decide, by decide, by decide⟩
theorem witness_ppsEdge : ∃ (s : State) (falling : Bool), s.time.ppsEnable = true ∧ falling = s.time.ppsFalling :=
  ⟨{ (up .run 0) with time := { (up .run 0).time with ppsEnable := true } }, false, by decide, by decide⟩
theorem witness_ppsEdge_2 : ∃ (s : State) (falling : Bool), (s.time.ppsEnable = false ∨ falling ≠ s.time.ppsFalling) :=
  ⟨(up .run 0), true, by decide⟩
theorem witness_ppsLost : ∃ (s : State), s.time.ppsEnable = true ∧ s.time.ppsLost = false ∧ s.time.lastPps + 150000000 ≤ s.now :=
  ⟨{ (up .run 150000000) with time := { (up .run 150000000).time with ppsEnable := true } }, by decide, by decide, by decide⟩
theorem witness_clkCtrlWrite : ∃ (s : State) (v : Nat), s.barUp = true :=
  ⟨(up .run 0), 0, by decide⟩
theorem witness_systimeLoRead : ∃ (s : State), s.barUp = true :=
  ⟨(up .run 0), by decide⟩
theorem witness_hopLock : ∃ (s : State) (d : Nat) (temp : Int) (band : Nat), d < s.dies ∧ ((s.clk.get d).hop.phase = .stored ∨ (s.clk.get d).hop.phase = .search) :=
  ⟨((up .run 0).setClk 7 fun c => { c with hop := { phase := .search } }), 7, 0, 0, by decide, by decide⟩
theorem witness_hopStoredBandTimeout : ∃ (s : State) (d : Nat), d < s.dies ∧ (s.clk.get d).hop.phase = .stored ∧ (s.clk.get d).hop.since + 5000 ≤ s.now :=
  ⟨((up .run 5000).setClk 7 fun c => { c with hop := { phase := .stored } }), 7, by decide, by decide, by decide⟩
theorem witness_hopSearchTimeout : ∃ (s : State) (d : Nat), d < s.dies ∧ (s.clk.get d).hop.phase = .search ∧ (s.clk.get d).hop.since + 300000 ≤ s.now :=
  ⟨((up .run 300000).setClk 7 fun c => { c with hop := { phase := .search } }), 7, by decide, by decide, by decide⟩
theorem witness_hopWaitTimeout : ∃ (s : State) (d : Nat), d < s.dies ∧ (s.clk.get d).hop.phase = .waiting ∧ (s.clk.get d).hop.since + 100000000 ≤ s.now :=
  ⟨((up .run 100000000).setClk 7 fun c => { c with hop := { phase := .waiting } }), 7, by decide, by decide, by decide⟩
theorem witness_dividerRephase : ∃ (s : State) (d : Nat), d < s.dies ∧ (s.clk.get d).hop.phase = .locked ∧ s.now % 32 = 0 :=
  ⟨((up .run 32).setClk 7 fun c => { c with hop := { phase := .locked } }), 7, by decide, by decide, by decide⟩
theorem witness_fastCheckTrip : ∃ (s : State) (k check : Nat), k < 2 * s.dies ∧ (s.front.convs.get k).powered = true ∧ ((s.front.convs.get k).failed = false ∨ (s.front.convs.get k).restoring = true) :=
  ⟨((up .run 0).setConv 15 fun c => { c with powered := true }), 15, 0, by decide, by decide, by decide⟩
theorem witness_checkWindowEnd : ∃ (s : State) (j : Nat) (sigs : List CheckSig), j < s.dies ∧ (s.front.courses.get j).mode = .duplex ∧ (s.front.courses.get j).standbyReady = true ∧ (s.front.courses.get j).attributing = none ∧ (s.front.courses.get j).splice = none ∧ s.crossCheckRuns j = true :=
  ⟨((up .run 0).setCourse 7 fun c => { c with mode := .duplex, leader := some 0, standbyReady := true }), 7, [], by decide, by decide, by decide, by decide, by decide, by decide⟩
theorem witness_shadowAttributionEnd : ∃ (s : State) (j mask first : Nat) (aDisagrees bDisagrees sa sb : Bool), (s.front.courses.get j).attributing = some (mask, first) ∧ (s.front.convs.get (s.convOf j 0)).spareSlice.isSome = sa ∧ (s.front.convs.get (s.convOf j 1)).spareSlice.isSome = sb :=
  ⟨((up .run 0).setCourse 7 fun c => { c with mode := .duplex, leader := some 0, attributing := some (1, 0) }), 7, 1, 0, true, false, true, true, by decide, by decide, by decide⟩
theorem witness_leaderSplice : ∃ (s : State) (j x y first : Nat) (cause : ConvCause), j < s.dies ∧ (s.front.courses.get j).splice = some (.fault x cause first) ∧ (s.front.courses.get j).leader = some y ∧ x ≠ y ∧ s.convUsable (s.convOf j x) = true :=
  ⟨((up .run 0).setCourse 7 fun c => { c with mode := .duplex, leader := some 0, splice := some (.fault 1 .codeBits 0) }), 7, 1, 0, 0, .codeBits, by decide, by decide, by decide, by decide, by decide⟩
theorem witness_plannedSplice : ∃ (s : State) (j x y : Nat) (reason : PlannedReason), j < s.dies ∧ (s.front.courses.get j).splice = some (.planned x reason) ∧ (s.front.courses.get j).leader = some y ∧ x ≠ y ∧ s.convUsable (s.convOf j x) = true ∧ (s.front.convs.get (s.convOf j x)).sampling = true ∧ (s.front.convs.get (s.convOf j x)).rotated = true :=
  ⟨(((up .run 0).setCourse 7 fun c => { c with mode := .duplex, leader := some 0, splice := some (.planned 1 .commit) }).setConv ((up .run 0).convOf 7 1) fun c => { c with powered := true, sampling := true, rotSteps := 8 }), 7, 1, 0, .commit, by decide, by decide, by decide, by decide, by decide, by decide, by decide⟩
theorem witness_converterSampling : ∃ (s : State) (k : Nat), k < 2 * s.dies ∧ (s.front.convs.get k).powered = true ∧ (s.front.convs.get k).sampling = false ∧ (s.front.convs.get k).failed = false :=
  ⟨((up .run 0).setConv 15 fun c => { c with powered := true }), 15, by decide, by decide, by decide, by decide⟩
theorem witness_sliceRotationStep : ∃ (s : State) (k : Nat), k < 2 * s.dies ∧ (s.front.convs.get k).sampling = true ∧ (s.front.convs.get k).spareSlice.isSome = true ∧ (s.front.convs.get k).rotSuspended = false :=
  ⟨((up .run 0).setConv 15 fun c => { c with powered := true, sampling := true }), 15, by decide, by decide, by decide, by decide⟩
theorem witness_shadowPhaseEnd : ∃ (s : State) (k : Nat) (rms mean : Int) (inAuthority convFault : Bool), k < 2 * s.dies ∧ (s.front.convs.get k).sampling = true ∧ (s.front.convs.get k).spareSlice.isSome = true ∧ (s.front.convs.get k).rotStandin = false ∧ (s.front.convs.get k).rotSuspended = false :=
  ⟨((up .run 0).setConv 15 fun c => { c with powered := true, sampling := true }), 15, 0, 0, true, false, by decide, by decide, by decide, by decide, by decide⟩
theorem witness_sliceCoeffUpdate : ∃ (s : State) (k i : Nat) (coef : SliceCoef), k < 2 * s.dies ∧ i < 9 ∧ (s.front.convs.get k).sampling = true ∧ (s.front.convs.get k).spareSlice.isSome = true ∧ coef.inAuthority = true :=
  ⟨((up .run 0).setConv 15 fun c => { c with powered := true, sampling := true }), 15, 8, {}, by decide, by decide, by decide, by decide, by decide⟩
theorem witness_agcWindow : ∃ (s : State) (j : Nat) (peak : Int), j < s.dies ∧ (s.front.courses.get j).agcOn = true ∧ (s.front.courses.get j).leader.isSome = true :=
  ⟨((up .run 0).setCourse 7 fun c => { c with mode := .simplex, leader := some 0, agcOn := true }), 7, 0, by decide, by decide, by decide⟩
theorem witness_agcWindow_2 : ∃ (s : State) (j : Nat) (peak : Int), j < s.dies ∧ (s.front.courses.get j).agcOn = false ∧ (s.front.courses.get j).leader.isSome = true :=
  ⟨((up .run 0).setCourse 7 fun c => { c with leader := some 0 }), 7, 0, by decide, by decide, by decide⟩
theorem witness_agcLimit : ∃ (s : State) (j : Nat) (peak : Int), j < s.dies ∧ (s.front.courses.get j).agcAtLimit = true ∧ ((s.front.courses.get j).agcLimitAt = 0 ∨ (s.front.courses.get j).agcLimitAt + 100000000 ≤ s.now) :=
  ⟨((up .run 100000001).setCourse 7 fun c => { c with agcAtLimit := true, agcLimitAt := 1 }), 7, 0, by decide, by decide, by decide⟩
theorem witness_converterRecordLatch : ∃ (s : State) (k : Nat) (codes : List SliceCode), k < 2 * s.dies ∧ (s.front.convs.get k).powered = true ∧ s.now % 100000 = 0 ∧ (s.front.convs.get k).latchedTo < s.now ∧ (codes.filter (·.output)).length = 3125 * planFrameSamples (s.clk.get (k / 2)).plan :=
  ⟨((up .run 100000).setConv 15 fun c => { c with powered := true, sampling := true }), 15, (List.replicate 1600000 ⟨0, 8191, true⟩), by decide, by decide, by decide, by decide, by rw [List.filter_replicate_of_pos rfl, List.length_replicate]; decide⟩
theorem witness_pwrSumLoRead : ∃ (s : State) (k a : Nat), s.barUp = true ∧ k < 2 * s.dies ∧ a = 0x10000 * (k / 2 + 1) + 0x300 + 0x80 * (k % 2) :=
  ⟨(up .run 0), 15, _, by decide, by decide, rfl⟩
theorem witness_pwrSumLoRead_2 : ∃ (s : State) (k : Nat), s.barUp = true ∧ 2 * s.dies ≤ k :=
  ⟨(up .run 0), 16, by decide, by decide⟩
theorem witness_clearSticky : ∃ (s : State) (k : Nat), s.barUp = true ∧ s.dieUp (k / 2) = true :=
  ⟨(up .run 0), 15, by decide, by decide⟩
theorem witness_feedLimitsWrite : ∃ (s : State) (n lo hi : Nat), s.barUp = true ∧ n < s.dies ∧ hi < 65536 :=
  ⟨(up .run 0), 7, 0, 65535, by decide, by decide, by decide⟩
theorem witness_segmentLate : ∃ (s : State) (c e1 e2 : Nat), c < s.dies * 4 ∧ (s.taps.bandTaps.get c).assigned = true ∧ (s.front.courses.get (s.taps.bandTaps.get c).course).leader.isSome = true ∧ e1 ≤ e2 :=
  ⟨(((up .run 0).setBandTap 31 fun c => { c with assigned := true }).setCourse 0 fun c => { c with leader := some 1 }), 31, 0, 0, by decide, by decide, by decide, by decide⟩
theorem witness_auditSubslot : ∃ (s : State) (d : Nat) (katFails : Bool), d < s.dies ∧ s.auditRuns d = true ∧ s.now % 5000000 = 0 :=
  ⟨(up .run 5000000), 7, false, by decide, by decide, by decide⟩
theorem witness_auditCompareMismatch : ∃ (s : State) (d : Nat) (x : AuditTarget), d < s.dies ∧ s.auditRuns d = true ∧ (s.taps.audits.get d).verifying = none ∧ (s.taps.audits.get d).target = some x ∧ ((∀ c, x ≠ .kat c)) ∧ ((∀ i, x ≠ .selfKat i)) ∧ s.auditCompares x = true :=
  ⟨((up .run 4999999).setAudit 7 fun c => { c with target := some (.bandTap 31) }), 7, (.bandTap 31), by decide, by decide, by decide, by decide, (fun _ h => nomatch h), (fun _ h => nomatch h), by decide⟩
theorem witness_auditVerifyEnd : ∃ (s : State) (d first : Nat) (x : AuditTarget) (agrees : Bool), d < s.dies ∧ s.dieRuns d = true ∧ (s.taps.audits.get d).verifying = some (first, x) ∧ first + 200000 ≤ s.now :=
  ⟨((up .run 200000).setAudit 7 fun c => { c with verifying := some (0, .bandTap 31) }), 7, 0, (.bandTap 31), true, by decide, by decide, by decide, by decide⟩
theorem witness_auditReplacementSplice : ∃ (s : State) (d : Nat) (u : UnitRef), d < s.dies ∧ (s.taps.audits.get d).replace = some u ∧ u.die = d ∧ s.now % 32 = 0 :=
  ⟨((up .run 32).setAudit 7 fun c => { c with replace := some ⟨.bandTap, 7, 3, 0⟩ }), 7, ⟨.bandTap, 7, 3, 0⟩, by decide, by decide, by decide, by decide⟩
theorem witness_ncoWordLoRead : ∃ (s : State) (c a : Nat), s.barUp = true ∧ c < s.dies * 4 ∧ a = 0x10000 * (c / 4 + 1) + 0x400 + 0x20 * (c % 4) :=
  ⟨(up .run 0), 31, _, by decide, by decide, rfl⟩
theorem witness_ncoWordLoRead_2 : ∃ (s : State) (c : Nat), s.barUp = true ∧ s.dies * 4 ≤ c :=
  ⟨(up .run 0), 32, by decide, by decide⟩
theorem witness_satStickyClear : ∃ (s : State) (c : Nat), s.barUp = true ∧ s.dieUp (c / 4) = true :=
  ⟨(up .run 0), 31, by decide, by decide⟩
theorem witness_satStickyClear_2 : ∃ (s : State) (l g : Nat), s.barUp = true ∧ s.dieUp (l / 32) = true :=
  ⟨(up .run 0), 255, 3, by decide, by decide⟩
theorem witness_satStickyClear_3 : ∃ (s : State) (c g : Nat), s.barUp = true ∧ s.dieUp (c / 4) = true :=
  ⟨(up .run 0), 31, 3, by decide, by decide⟩
theorem witness_assayStep : ∃ (s : State) (c : Nat), s.spareUp c = true ∧ (s.lanes.spares.get c).cover = none ∧ s.replacedPos c = none ∧ s.now % 10000000 = 0 ∧ ((∀ a, (s.lanes.spares.get c).assay = some a → a.restore = false ∧ a.start ≠ s.now)) :=
  ⟨(up .run 10000000), 31, by decide, by decide, by decide, by decide, fun _ h => nomatch (show none = some _ from h)⟩
theorem witness_assayStep_2 : ∃ (s : State) (c p : Nat), s.spareUp c = true ∧ (s.lanes.spares.get c).cover = none ∧ s.replacedPos c = some p ∧ s.now % 10000000 = 0 ∧ (s.lanes.spares.get c).assay = none ∧ (s.lanes.spares.get c).restoreAsked = true :=
  ⟨({ (up .run 10000000) with nv := { (up .run 0).nv with replaced := Tbl.empty (some 7) } }.setSpare 31 fun c => { c with restoreAsked := true }), 31, 7, by decide, by decide, by decide, by decide, by decide, by decide⟩
theorem witness_assayStateCopy : ∃ (s : State) (c : Nat) (a : AssaySt), s.spareUp c = true ∧ (s.lanes.spares.get c).assay = some a ∧ a.comparing = false ∧ a.testing = false ∧ a.firstDiff = none ∧ a.start + 400000 ≤ s.now ∧ s.now % 200000 = 0 :=
  ⟨((up .run 400000).setSpare 31 fun c => { c with assay := some { start := 0 } }), 31, { start := 0 }, by decide, by decide, by decide, by decide, by decide, by decide, by decide⟩
theorem witness_firstDifferingValue : ∃ (s : State) (c output : Nat) (a : AssaySt), s.spareUp c = true ∧ (s.lanes.spares.get c).assay = some a ∧ a.comparing = true :=
  ⟨((up .run 0).setSpare 31 fun c => { c with assay := some { start := 0, comparing := true } }), 31, 0, { start := 0, comparing := true }, by decide, by decide, by decide⟩
theorem witness_assayKatEnd : ∃ (s : State) (c : Nat) (fails : Bool) (a : AssaySt), s.spareUp c = true ∧ (s.lanes.spares.get c).position < 8 ∧ (s.lanes.spares.get c).assay = some a ∧ a.testing = true :=
  ⟨((up .run 600000).setSpare 31 fun c => { c with position := 7, assay := some { start := 0, testing := true } }), 31, false, { start := 0, testing := true }, by decide, by decide, by decide, by decide⟩
theorem witness_coverStart : ∃ (s : State) (c pos : Nat), s.spareUp c = true ∧ pos < 8 ∧ s.holdCover c = false ∧ (s.lanes.spares.get c).cover = none ∧ (s.lanes.spares.get c).coverTaken = false ∧ (s.lanes.spares.get c).betweenRotations s.now = true ∧ s.now % 200000 = 0 ∧ ((∀ a, (s.lanes.spares.get c).assay = some a → a.start + 10000000 + (s.laneTune (c * 8 + pos)).laneSpan ≤ s.now)) ∧ (((s.lanes.spares.get c).assay = none → (s.lanes.spares.get c).rotStart + (s.laneTune (c * 8 + pos)).laneSpan ≤ s.now)) :=
  ⟨(up .run 200000000), 31, 7, by decide, by decide, by decide, by decide, by decide, by decide, by decide, (fun _ h => nomatch (show none = some _ from h)), by decide⟩
theorem witness_coverEnd : ∃ (s : State) (c : Nat) (v : CoverSt), c < s.dies * 4 ∧ s.dieRuns (clusterDie c) = true ∧ (s.lanes.spares.get c).cover = some v ∧ s.now % 200000 = 0 ∧ v.start < s.now ∧ s.now < v.start + 30000000 ∧ s.stationRuns (c * 8 + v.pos) = true ∧ ((∀ n st, n < s.dies → s.cal.steps.get n = some st → st.lane = c * 8 + v.pos → st.phase = .return_)) :=
  ⟨((up .run 200000).setSpare 31 fun c => { c with cover := some ⟨7, false, 0⟩ }), 31, ⟨7, false, 0⟩, by decide, by decide, by decide, by decide, by decide, by decide, by decide, fun _ _ _ h => nomatch (show none = some _ from h)⟩
theorem witness_coverEnd_2 : ∃ (s : State) (c : Nat) (v : CoverSt), c < s.dies * 4 ∧ s.dieRuns (clusterDie c) = true ∧ (s.lanes.spares.get c).cover = some v ∧ s.now % 200000 = 0 ∧ v.start + 30000000 ≤ s.now :=
  ⟨((up .run 30000000).setSpare 31 fun c => { c with cover := some ⟨7, false, 0⟩ }), 31, ⟨7, false, 0⟩, by decide, by decide, by decide, by decide, by decide⟩
theorem witness_demodRestart : ∃ (s : State) (l at_ : Nat), l < s.dies * 32 ∧ s.dieRuns (laneDie l) = true ∧ ((s.taps.lanes.get l).firstValid at_ = true ∨ ((s.lanes.demods.get l).restartAt = none ∧ (s.taps.lanes.get l).validAt at_ = true)) :=
  ⟨(((up .run 0).withTaps fun t => { t with lanes := t.lanes.set 255 { active := true } }).withActive fun c => { c with lanes := c.lanes.set 255 { mode := .amEnv } }), 255, 0, by decide, by decide, by decide⟩
theorem witness_demodRestart_2 : ∃ (s : State) (w at_ : Nat), w < s.dies * 64 ∧ s.dieRuns (watchDie w) = true ∧ ((s.taps.watches.get w).firstValid at_ = true ∨ ((s.lanes.watches.get w).restartAt = none ∧ (s.taps.watches.get w).validAt at_ = true)) :=
  ⟨(((up .run 0).withTaps fun t => { t with watches := t.watches.set 511 { active := true } }).withActive fun c => { c with watches := c.watches.set 511 { mode := .fm } }), 511, 0, by decide, by decide, by decide⟩
theorem witness_combinerUpdate : ∃ (s : State) (l : Nat) (air : Air), l < s.dies * 32 ∧ s.dieRuns (laneDie l) = true ∧ (s.taps.lanes.get l).active = true ∧ 0 < (s.cfg.active.lanes.get l).branchCount ∧ (s.lanes.demods.get l).restartAt.isSome = true ∧ ((∀ n ∈ s.runPoints l, s.combinedDead l n = false)) ∧ ((∀ w, ((s.lanes.demods.get l).runs.head?) = some w → w.1 ≠ s.runNow l)) :=
  ⟨((((up .run 100000000).withTaps fun t => { t with lanes := Tbl.empty { active := true } }).withActive fun c => { c with lanes := c.lanes.set 255 { mode := .fmMono, branchCount := 1, branches := [0] } }).setDemod 255 fun x => { x with restartAt := some 0 }), 255, {}, by decide, by decide, by decide, by decide, by decide, by decide, fun _ h => nomatch (show none = some _ from h)⟩
theorem witness_pilotLockChange : ∃ (s : State) (l : Nat) (air : Air), l < s.dies * 32 ∧ s.dieRuns (laneDie l) = true ∧ (s.taps.lanes.get l).active = true ∧ (s.cfg.active.lanes.get l).mode.fm = true ∧ (s.lanes.demods.get l).restartAt.isSome = true :=
  ⟨((((up .run 0).withTaps fun t => { t with lanes := t.lanes.set 255 { active := true } }).withActive fun c => { c with lanes := c.lanes.set 255 { mode := .fmMono } }).setDemod 255 fun x => { x with restartAt := some 0 }), 255, {}, by decide, by decide, by decide, by decide, by decide⟩
theorem witness_stereoSwitch : ∃ (s : State) (l : Nat), l < s.dies * 32 ∧ s.dieRuns (laneDie l) = true ∧ (s.taps.lanes.get l).active = true ∧ (s.cfg.active.lanes.get l).mode = .fmStereo ∧ s.now % 200000 = 0 ∧ (s.lanes.demods.get l).stereo ≠ (s.lanes.demods.get l).pilot :=
  ⟨((((up .run 0).withTaps fun t => { t with lanes := t.lanes.set 255 { active := true } }).withActive fun c => { c with lanes := c.lanes.set 255 { mode := .fmStereo } }).setDemod 255 fun x => { x with pilot := true }), 255, by decide, by decide, by decide, by decide, by decide, by decide⟩
theorem witness_rdsBlock : ∃ (s : State) (r : Rx) (stream k : Nat) (air : Air), s.rdsRuns r stream = true ∧ s.dieRuns r.die = true ∧ (s.rxRestart r).isSome = true :=
  ⟨((((up .run 0).withTaps fun t => { t with lanes := t.lanes.set 255 { active := true } }).withActive fun c => { c with lanes := c.lanes.set 255 { mode := .fmMono, rdsStreams := 8 } }).setDemod 255 fun x => { x with restartAt := some 0 }), (.lane 255), 3, 0, {}, by decide, by decide, by decide⟩
theorem witness_demodulators : ∃ (s : State) (r : Rx) (i k firstBit : Nat) (p : RdsPos), i < (s.rdsOf r).streams.length ∧ p.flag = 0 :=
  ⟨(up .run 0), (.lane 255), 3, 0, 0, ⟨0, 0, 0⟩, by decide, by decide⟩
theorem witness_demodulators_2 : ∃ (s : State) (r : Rx) (i k firstBit : Nat) (slip : Bool) (p : RdsPos), i < (s.rdsOf r).streams.length :=
  ⟨(up .run 0), (.lane 255), 3, 0, 0, true, ⟨0, 0, 0⟩, by decide⟩
theorem witness_amssBlock : ∃ (s : State) (l k : Nat) (air : Air), l < s.dies * 32 ∧ s.dieRuns (laneDie l) = true ∧ (s.taps.lanes.get l).active = true ∧ (s.cfg.active.lanes.get l).mode.am = true ∧ (s.cfg.active.lanes.get l).amssOn = true ∧ (s.lanes.demods.get l).restartAt.isSome = true :=
  ⟨((((up .run 0).withTaps fun t => { t with lanes := t.lanes.set 255 { active := true } }).withActive fun c => { c with lanes := c.lanes.set 255 { mode := .amEnv, amssOn := true } }).setDemod 255 fun x => { x with restartAt := some 0 }), 255, 0, {}, by decide, by decide, by decide, by decide, by decide, by decide⟩
theorem witness_measurementPeriodEnd : ∃ (s : State) (l : Nat) (air : Air) (late : Bool), l < s.dies * 32 ∧ (s.taps.lanes.get l).active = true ∧ s.laneDead l = false ∧ s.dieUp (laneDie l) = true ∧ ((s.cfg.active.lanes.get l).mode.fm = true ∨ (s.cfg.active.lanes.get l).mode.am = true) ∧ s.now % measCounts (s.cfg.active.lanes.get l).measPeriod = 0 ∧ (s.lanes.demods.get l).measuredTo < s.now :=
  ⟨(((up .run 100000000).withTaps fun t => { t with lanes := t.lanes.set 255 { active := true } }).withActive fun c => { c with lanes := c.lanes.set 255 { mode := .fmMono } }), 255, {}, false, by decide, by decide, by decide, by decide, by decide, by decide, by decide⟩
theorem witness_sideDataSpanEnd : ∃ (s : State) (r : Rx) (air : Air), s.hasSideData r = true ∧ s.dieUp r.die = true ∧ s.now % 10000000 = 0 ∧ (s.rdsOf r).spanTo < s.now :=
  ⟨(((up .run 10000000).withTaps fun t => { t with lanes := t.lanes.set 255 { active := true } }).withActive fun c => { c with lanes := c.lanes.set 255 { mode := .amSync } }), (.lane 255), {}, by decide, by decide, by decide, by decide⟩
theorem witness_watchTapPeriodEnd : ∃ (s : State) (w : Nat) (air : Air) (late : Bool), s.watchRuns w = true ∧ ((s.cfg.active.watches.get w).mode = .level ∨ (s.cfg.active.watches.get w).mode = .fm) ∧ s.now % watchCounts (s.cfg.active.watches.get w).period = 0 ∧ (s.lanes.watches.get w).measuredTo < s.now :=
  ⟨(((up .run 100000000).withTaps fun t => { t with watches := t.watches.set 511 { active := true } }).withActive fun c => { c with watches := c.watches.set 511 { mode := .level } }), 511, {}, true, by decide, by decide, by decide, by decide⟩
theorem witness_surveyDwellEnd : ∃ (s : State) (w : Nat) (air : Air) (late : Bool), s.watchRuns w = true ∧ (s.cfg.active.watches.get w).mode = .survey ∧ s.dieRuns (watchDie w) = true ∧ s.now % 1000000 = 0 ∧ (s.lanes.watches.get w).dwellStart + (s.cfg.active.watches.get w).dwell * 1000000 ≤ s.now :=
  ⟨(((up .run 1000000).withTaps fun t => { t with watches := t.watches.set 511 { active := true } }).withActive fun c => { c with watches := c.watches.set 511 { mode := .survey } }), 511, {}, true, by decide, by decide, by decide, by decide, by decide⟩
theorem witness_watchTapKat : ∃ (s : State) (w : Nat), s.watchRuns w = true ∧ s.dieRuns (watchDie w) = true :=
  ⟨(((up .run 0).withTaps fun t => { t with watches := t.watches.set 511 { active := true } }).withActive fun c => { c with watches := c.watches.set 511 { mode := .fm } }), 511, by decide, by decide⟩
theorem witness_streamBlockFormed : ∃ (s : State) (x : StreamId) (t0 stop fault : Nat) (air : Air) (old late choked : Bool), s.streamRuns x = true ∧ s.blockEnd x.die t0 old = some stop ∧ (old = true ∨ s.frozenIn x.die t0 stop = true ∨ s.blockKnown x t0 = true) :=
  ⟨(((up .run 100000000).withTaps fun t => { t with lanes := t.lanes.set 255 { active := true } }).withActive fun c => { c with lanes := c.lanes.set 255 { mode := .fmMono } }), (.mpx 255), 0, 200000, 0, {}, false, false, false, by decide, by decide, by decide⟩
theorem witness_pcmBlockFormed : ∃ (s : State) (r t0 stop : Nat) (air : Air), s.mode.mode.receiving = true ∧ 32 ≤ r ∧ r < 96 ∧ (s.link.rings.get r).pcmNext = none ∧ (s.link.rings.get r).pcmMask ≠ 0 ∧ s.dieUp (s.link.rings.get r).pcmDie = true ∧ s.blockEnd (s.link.rings.get r).pcmDie t0 false = some stop ∧ stop ≤ s.now ∧ ((s.link.rings.get r).pcmEdges < (s.clk.get (s.link.rings.get r).pcmDie).edges ∨ (s.link.rings.get r).pcmFrom ≤ t0) :=
  ⟨((up .run 200000).setRing 95 fun g => { g with pcmMask := 1, pcmDie := 7 }), 95, 0, 200000, {}, by decide, by decide, by decide, by decide, by decide, by decide, by decide, by decide, by decide⟩
theorem witness_pcmBlockFormed_2 : ∃ (s : State) (r t0 o v : Nat) (air : Air), s.mode.mode.receiving = true ∧ 32 ≤ r ∧ r < 96 ∧ (s.link.rings.get r).pcmNext = none ∧ (s.link.rings.get r).pcmMask ≠ 0 ∧ s.dieUp (s.link.rings.get r).pcmDie = true ∧ (s.clk.get (s.link.rings.get r).pcmDie).edge = some (o, v) ∧ t0 < o ∧ o ≤ nextOf countsPerBlock t0 ∧ t0 % 200000 = 0 ∧ (s.link.rings.get r).pcmEdges + 1 = (s.clk.get (s.link.rings.get r).pcmDie).edges ∧ (s.link.rings.get r).pcmFrom ≤ t0 :=
  ⟨(((up .run 200000).setRing 95 fun g => { g with pcmMask := 1, pcmDie := 7 }).setClk 7 fun c => { c with edge := some (100000, 0), edges := 1 }), 95, 0, 100000, 0, {}, by decide, by decide, by decide, by decide, by decide, by decide, by decide, by decide, by decide, by decide, by decide, by decide⟩
theorem witness_pcmBlockFormed_3 : ∃ (s : State) (r t0 stop at_ mask die : Nat) (air : Air), s.mode.mode.receiving = true ∧ 32 ≤ r ∧ r < 96 ∧ (s.link.rings.get r).pcmNext = some (at_, mask, die) ∧ at_ ≤ t0 ∧ s.dieUp die = true ∧ s.dieUp 0 = true ∧ s.blockEnd die t0 false = some stop ∧ stop ≤ s.now ∧ ((s.link.rings.get r).pcmEdges < (s.clk.get die).edges ∨ (s.link.rings.get r).pcmFrom ≤ t0) :=
  ⟨((up .run 200000).setRing 95 fun g => { g with pcmNext := some (0, 1, 7) }), 95, 0, 200000, 0, 1, 7, {}, by decide, by decide, by decide, by decide, by decide, by decide, by decide, by decide, by decide, by decide⟩
theorem witness_inputBlockFormed : ∃ (s : State) (d : Nat) (air : Air), s.hasPort (.inp d) = true ∧ s.dieUp d = true ∧ (s.portSt (.inp d)).phase = .running ∧ (s.portSt (.inp d)).cut = none ∧ nextOf 200000 (s.portSt (.inp d)).nextBlock ≤ s.now :=
  ⟨((up .run 200000).setPort (.inp 3) fun x => { x with phase := .running }), 3, {}, by decide, by decide, by decide, by decide, by decide⟩
theorem witness_inputBlockFormed_2 : ∃ (s : State) (d : Nat) (air : Air) (c : Nat × Nat), s.hasPort (.inp d) = true ∧ s.dieUp d = true ∧ (s.portSt (.inp d)).phase = .running ∧ (s.portSt (.inp d)).cut = some c :=
  ⟨((up .run 200000).setPort (.inp 3) fun x => { x with phase := .running, cut := some (100000, 0) }), 3, {}, (100000, 0), by decide, by decide, by decide, by decide⟩
theorem witness_dabFrame : ∃ (s : State) (e l : Nat) (air : Air), s.engineRuns e .dab = true ∧ (s.cfg.active.engines.get e).positions.contains 0 = true ∧ s.feedLane e 0 = some l ∧ (s.signal e 0).cifsDone = 4 ∧ (((s.cfg.active.engines.get e).tiiOn = true → (s.ofdm.engines.get e).tii.frames < (s.cfg.active.engines.get e).tiiFrames)) :=
  ⟨((up .run 0).withActive fun c => { c with engines := c.engines.set 31 { cls := .dab, feeds := [some 31] } }), 31, 255, {}, by decide, by decide, by decide, by decide, fun h => nomatch (show false = true from h)⟩
theorem witness_cifDecoded : ∃ (s : State) (e l : Nat) (n0 : Int) (air : Air), s.engineRuns e .dab = true ∧ (s.signal e 0).synced = true ∧ s.feedLane e 0 = some l ∧ (s.signal e 0).frameAt = some n0 ∧ (s.signal e 0).cifsDone < 4 ∧ n0 + (dabOffset (cifSymbol ((s.signal e 0).cifsDone + 1)) : Nat) ≤ s.feedNow l s.now + 1 :=
  ⟨(((up .run 10000000000).withActive fun c => { c with engines := c.engines.set 31 { cls := .dab, feeds := [some 31] } }).setSignal 31 0 fun x => { x with synced := true, frameAt := some 0, cifsDone := 3 }), 31, 255, 0, {}, by decide, by decide, by decide, by decide, by decide, by decide⟩
theorem witness_tiiPeriodEnd : ∃ (s : State) (e l : Nat), s.engineRuns e .dab = true ∧ (s.engineEntryAt e (s.ofdm.engines.get e).tii.doneAt).tiiOn = true ∧ (s.signal e 0).synced = true ∧ s.feedLane e 0 = some l ∧ (s.engineEntryAt e (s.ofdm.engines.get e).tii.doneAt).tiiFrames ≤ (s.ofdm.engines.get e).tii.frames :=
  ⟨((((up .run 0).withActive fun c => { c with engines := c.engines.set 31 { cls := .dab, feeds := [some 31], tiiOn := true, tiiPeriod := 0 } }).setSignal 31 0 fun x => { x with synced := true }).setEngine 31 fun x => { x with tii := { x.tii with frames := 1000 } }), 31, 255, by decide, by decide, by decide, by decide, by decide⟩
theorem witness_drmFrame : ∃ (s : State) (e p l : Nat) (air : Air), s.engineRuns e .drm = true ∧ (s.cfg.active.engines.get e).positions.contains p = true ∧ s.feedLane e p = some l :=
  ⟨((up .run 0).withActive fun c => { c with engines := c.engines.set 31 { cls := .drm, feeds := [none, some 31] } }), 31, 1, 255, {}, by decide, by decide, by decide⟩
theorem witness_feedMissingTimeout : ∃ (s : State) (e p l : Nat), e < s.dies * 4 ∧ s.dieRuns (engineDie e) = true ∧ (s.cfg.active.engines.get e).positions.contains p = true ∧ s.feedLane e p = some l ∧ s.feedGone l (s.signal e p) = true :=
  ⟨goneState, 31, 1, 255, by decide, by decide, by decide, by decide, gone_feed⟩
theorem witness_engineRecordSpanEnd : ∃ (s : State) (e : Nat) (late : Bool), e < s.dies * 4 ∧ (s.cfg.active.engines.get e).cls ≠ .off ∧ s.dieUp (engineDie e) = true ∧ s.mode.mode ≠ .idle ∧ (s.ofdm.engines.get e).spanTo < s.engineSpanEnd e ∧ (s.engineUnserved e = true ∨ s.engineCaughtUp e (s.engineSpanEnd e) = true) :=
  ⟨((up .run 10000000).withActive fun c => { c with engines := c.engines.set 31 { cls := .dab, feeds := [some 31] } }), 31, false, by decide, by decide, by decide, by decide, by decide, by decide⟩
theorem witness_engineMeasPeriodEnd : ∃ (s : State) (e : Nat) (air : Air) (late : Bool), e < s.dies * 4 ∧ (s.cfg.active.engines.get e).cls ≠ .off ∧ s.dieUp (engineDie e) = true ∧ (s.ofdm.engines.get e).measuredTo < s.engineMeasEnd e ∧ (s.engineUnserved e = true ∨ s.engineCaughtUp e (s.engineMeasEnd e) = true) :=
  ⟨((up .run 100000000).withActive fun c => { c with engines := c.engines.set 31 { cls := .dab, feeds := [some 31] } }), 31, {}, false, by decide, by decide, by decide, by decide, by decide⟩
theorem witness_crossAssayWindow : ∃ (s : State) (d p : Nat), s.crossAssays d p = true ∧ s.checksPartner d p = true ∧ s.now % 100000000 = windowAt p :=
  ⟨((up .run 60000000).withActive fun c => { c with engines := c.engines.set 30 { cls := .dab, feeds := [some 0] } }), 7, 3, by decide, by decide, by decide⟩
theorem witness_crossAssayCompareEnd : ∃ (s : State) (d region p start : Nat) (differs : Bool), d < s.dies ∧ s.dieRuns d = true ∧ region < 2 ∧ (s.ofdm.regions.get (d * 2 + region)).checking = some (p, start) ∧ start + 2400000 ≤ s.now ∧ (s.ofdm.regions.get (d * 2 + region)).restore = none :=
  ⟨((up .run 2400000).setRegion 15 fun r => { r with checking := some (3, 0) }), 7, 1, 3, 0, true, by decide, by decide, by decide, by decide, by decide, by decide⟩
theorem witness_crossAssayCompareEnd_2 : ∃ (s : State) (d p start : Nat) (differs : Bool), d < s.dies ∧ s.dieRuns d = true ∧ p < 4 ∧ (s.ofdm.regions.get (d * 2 + p / 2)).checking = some (p, start) ∧ start + 2400000 ≤ s.now ∧ (s.ofdm.regions.get (d * 2 + p / 2)).restore = some (partnerOf p, true) :=
  ⟨((up .run 2400000).setRegion 15 fun r => { r with checking := some (3, 0), restore := some (2, true) }), 7, 3, 0, false, by decide, by decide, by decide, by decide, by decide, by decide⟩
theorem witness_engineKatVectors : ∃ (s : State) (d p : Nat) (failed : List EngineUnit), d < s.dies ∧ p < 4 ∧ s.dieRuns d = true ∧ (s.ofdm.regions.get (d * 2 + p / 2)).restore = some (p, false) :=
  ⟨((up .run 0).setRegion 15 fun r => { r with restore := some (3, false) }), 7, 3, [], by decide, by decide, by decide, by decide⟩
theorem witness_engineKatVectors_2 : ∃ (s : State) (d p : Nat) (failed : List EngineUnit), d < s.dies ∧ p < 4 ∧ s.dieRuns d = true ∧ (s.ofdm.regions.get (d * 2 + p / 2)).restore = none ∧ s.crossAssays d p = true ∧ (s.ofdm.phys.get (d * 4 + p)).katNext ≤ s.now / 100000000 ∧ (s.ofdm.regions.get (d * 2 + p / 2)).difference = none :=
  ⟨(up .run 0), 7, 3, [], by decide, by decide, by decide, by decide, by decide, by decide, by decide⟩
theorem witness_engineDifferenceResolved : ∃ (s : State) (d region : Nat) (f : EngineDiff) (cf pf : List EngineUnit) (rd : Bool), d < s.dies ∧ s.dieRuns d = true ∧ region < 2 ∧ (s.ofdm.regions.get (d * 2 + region)).difference = some f ∧ s.retired (engineRef d f.checker) = false ∧ s.retired (engineRef d f.partner) = false :=
  ⟨((up .run 0).setRegion 15 fun r => { r with difference := some ⟨3, 2, 0⟩ }), 7, 1, ⟨3, 2, 0⟩, [], [], false, by decide, by decide, by decide, by decide, by decide, by decide⟩
theorem witness_followPeriodEnd : ∃ (s : State) (f : Nat) (air : Air), s.followRuns f = true ∧ (s.audio.follows.get f).periodTo < s.now / 10000000 * 10000000 :=
  ⟨(((up .run 10000000).withActive fun c => { c with follows := c.follows.set 127 { enable := true } }).setFollow 127 fun f => { f with stage := 2 }), 127, {}, by decide, by decide⟩
theorem witness_delayEstimate : ∃ (s : State) (f k a b : Nat) (air : Air), s.followRuns f = true ∧ (s.audio.follows.get f).standby = some k ∧ ((s.audio.follows.get f).members.getD (s.audio.follows.get f).playing {}).validSince = some a ∧ ((s.audio.follows.get f).members.getD k {}).validSince = some b ∧ a + (corrSeconds (s.cfg.active.follows.get f).corrWindow + 5) * 100000000 ≤ s.now ∧ b + (corrSeconds (s.cfg.active.follows.get f).corrWindow + 5) * 100000000 ≤ s.now ∧ (s.audio.follows.get f).estimatedTo < s.now / 100000000 * 100000000 :=
  ⟨(((up .run 10000000000).withActive fun c => { c with follows := c.follows.set 127 { enable := true } }).setFollow 127 fun f => { f with stage := 2, standby := some 1, members := [{ validSince := some 0 }, { validSince := some 0 }, {}, {}] }), 127, 1, 0, 0, {}, by decide, by decide, by decide, by decide, by decide, by decide, by decide⟩
theorem witness_fadeStart : ∃ (s : State) (f k : Nat) (d : Fade), s.followRuns f = true ∧ (s.audio.follows.get f).fade = some d ∧ (s.audio.follows.get f).standby = some k ∧ d.started = false ∧ d.f0 ≤ s.now :=
  ⟨(((up .run 5).withActive fun c => { c with follows := c.follows.set 127 { enable := true } }).setFollow 127 fun f => { f with stage := 2, standby := some 1, fade := some { reason := .quality, f0 := 5, f1 := 5, aligned := false } }), 127, 1, { reason := .quality, f0 := 5, f1 := 5, aligned := false }, by decide, by decide, by decide, by decide, by decide⟩
theorem witness_fadeEnd : ∃ (s : State) (f k : Nat) (d : Fade), s.followRuns f = true ∧ (s.audio.follows.get f).fade = some d ∧ (s.audio.follows.get f).standby = some k ∧ d.started = true ∧ d.f1 ≤ s.now :=
  ⟨(((up .run 5).withActive fun c => { c with follows := c.follows.set 127 { enable := true } }).setFollow 127 fun f => { f with stage := 2, standby := some 1, fade := some { reason := .quality, f0 := 5, f1 := 5, aligned := false, started := true } }), 127, 1, { reason := .quality, f0 := 5, f1 := 5, aligned := false, started := true }, by decide, by decide, by decide, by decide, by decide⟩
theorem witness_candidateDwellEnd : ∃ (s : State) (f w freq typ : Nat) (air : Air), s.followRuns f = true ∧ (s.audio.follows.get f).measuring.find? (fun m => m.1 = w) = some (w, freq, typ) ∧ s.now % 1000000 = 0 ∧ (s.lanes.watches.get w).dwellStart + (s.cfg.active.follows.get f).candDwell * 10000000 ≤ s.now :=
  ⟨(((up .run 100000000).withActive fun c => { c with follows := c.follows.set 127 { enable := true } }).setFollow 127 fun f => { f with stage := 2, measuring := [(511, 87500000, 0)] }), 127, 511, 87500000, 0, {}, by decide, by decide, by decide, by decide⟩
theorem witness_verificationLapse : ∃ (s : State) (f : Nat), s.followRuns f = true :=
  ⟨(((up .run 0).withActive fun c => { c with follows := c.follows.set 127 { enable := true } }).setFollow 127 fun f => { f with stage := 2 }), 127, by decide⟩
theorem witness_followRecord : ∃ (s : State) (f : Nat), f < s.dies * 16 ∧ (s.cfg.active.follows.get f).enable = true ∧ s.dieUp (followDie f) = true ∧ s.mode.mode ≠ .halted ∧ (s.audio.follows.get f).recordedTo < s.now / 100000000 * 100000000 :=
  ⟨(((up .run 100000000).withActive fun c => { c with follows := c.follows.set 127 { enable := true } }).setFollow 127 fun f => { f with stage := 2 }), 127, by decide, by decide, by decide, by decide, by decide⟩
theorem witness_accessUnitReceived : ∃ (s : State) (k x : Nat) (u : AccessUnit) (rest : List AccessUnit), s.contextSlot k = some x ∧ (s.audio.contexts.get k).inbox = u :: rest ∧ k < s.dies * 48 ∧ s.slotOn x = true ∧ s.retired (contextRef k) = false :=
  ⟨(((up .run 0).withActive fun c => { c with slots := c.slots.set 511 { source := .decode, srcIndex := 31, srcSub := 5, context := 383 } }).setContext 383 fun y => { y with inbox := [⟨0, 0, 5, 0, true, false, false, false, 0, [], 0, 0, false⟩] }), 383, 511, ⟨0, 0, 5, 0, true, false, false, false, 0, [], 0, 0, false⟩, [], by decide, by decide, by decide, by decide, by decide⟩
theorem witness_auDue : ∃ (s : State) (k x : Nat) (n : Int) (finished : Bool) (h : HeldUnit) (rest : List HeldUnit), s.contextSlot k = some x ∧ k < s.dies * 48 ∧ s.slotOn x = true ∧ s.retired (contextRef k) = false ∧ s.unitDue k = some n ∧ n ≤ gridFloor s.now ∧ (s.audio.contexts.get k).nextUnit = some h ∧ (s.audio.contexts.get k).queue = h :: rest :=
  ⟨(((up .run 2000000000).withActive fun c => { c with slots := c.slots.set 511 { source := .decode, srcIndex := 31, srcSub := 5, context := 383 } }).setContext 383 fun y => { y with queue := [{ unit := ⟨0, 0, 5, 0, true, false, false, false, 0, [], 0, 0, false⟩, first := 0, rate := 48000, channels := 2, length := 1 }] }), 383, 511, _, false, { unit := ⟨0, 0, 5, 0, true, false, false, false, 0, [], 0, 0, false⟩, first := 0, rate := 48000, channels := 2, length := 1 }, [], by decide, by decide, by decide, by decide, rfl, by decide, by decide, by decide⟩
theorem witness_auDue_2 : ∃ (s : State) (k x : Nat) (n : Int) (finished : Bool) (u : PcmUnit), s.contextSlot k = some x ∧ k < s.dies * 48 ∧ s.slotOn x = true ∧ s.retired (contextRef k) = false ∧ s.unitDue k = some n ∧ n ≤ gridFloor s.now ∧ (s.audio.contexts.get k).nextUnit = none ∧ (s.audio.contexts.get k).segs ≠ [] ∧ (s.audio.contexts.get k).units.head? = some u :=
  ⟨(((up .run 2000000000).withActive fun c => { c with slots := c.slots.set 511 { source := .decode, srcIndex := 31, srcSub := 5, context := 383 } }).setContext 383 fun y => { y with units := [{ start := 0, base := 0, first := 0, rate := 48000, samples := [(0, 0)], flags := 0 }], segs := [⟨0, 0, 0⟩] }), 383, 511, _, true, { start := 0, base := 0, first := 0, rate := 48000, samples := [(0, 0)], flags := 0 }, by decide, by decide, by decide, by decide, rfl, by decide, by decide, by decide, by decide⟩
theorem witness_slotKat : ∃ (s : State) (i : Nat), i < s.dies * 48 ∧ s.dieRuns (contextRef i).die = true ∧ s.retired (contextRef i) = false :=
  ⟨(up .run 0), 383, by decide, by decide, by decide⟩
theorem witness_slotKat_2 : ∃ (s : State) (i : Nat), i < s.dies * 64 ∧ s.dieRuns (slotRef i).die = true ∧ s.retired (slotRef i) = false :=
  ⟨(up .run 0), 511, by decide, by decide, by decide⟩
theorem witness_rateFollowerUpdate : ∃ (s : State) (k x : Nat) (u : PcmUnit) (us : List PcmUnit) (q : FollowerSeg) (qs : List FollowerSeg) (z eps : Int), s.contextSlot k = some x ∧ s.slotOn x = true ∧ (s.audio.contexts.get k).fresh = true ∧ (s.audio.contexts.get k).units = u :: us ∧ (s.audio.contexts.get k).segs = q :: qs ∧ z = q.place + ((gridFloor s.now : Nat) - q.at_) * (1000000000 + q.corr) ∧ eps = s.followerError k (gridFloor s.now : Nat) z u :=
  ⟨(((up .run 0).withActive fun c => { c with slots := c.slots.set 511 { source := .decode, srcIndex := 31, srcSub := 5, context := 383 } }).setContext 383 fun y => { y with fresh := true, units := [{ start := 0, base := 0, first := 0, rate := 48000, samples := [(0, 0)], flags := 0 }], segs := [⟨0, 0, 0⟩] }), 383, 511, { start := 0, base := 0, first := 0, rate := 48000, samples := [(0, 0)], flags := 0 }, [], ⟨0, 0, 0⟩, [], _, _, by decide, by decide, by decide, by decide, by decide, rfl, rfl⟩
theorem witness_slotResync : ∃ (s : State) (k x : Nat) (u : PcmUnit) (us : List PcmUnit), s.contextSlot k = some x ∧ s.slotOn x = true ∧ (s.audio.contexts.get k).resync = true ∧ (s.audio.contexts.get k).units = u :: us ∧ s.now % 200000 = 0 :=
  ⟨(((up .run 200000).withActive fun c => { c with slots := c.slots.set 511 { source := .decode, srcIndex := 31, srcSub := 5, context := 383 } }).setContext 383 fun y => { y with resync := true, units := [{ start := 0, base := 0, first := 0, rate := 48000, samples := [(0, 0)], flags := 0 }] }), 383, 511, { start := 0, base := 0, first := 0, rate := 48000, samples := [(0, 0)], flags := 0 }, [], by decide, by decide, by decide, by decide, by decide⟩
theorem witness_loudnessBlock : ∃ (s : State) (x t1 : Nat) (air : Air) (y : SlotSt) (z : Option Nat), s.slotOn x = true ∧ t1 = s.now / 10000000 * 10000000 ∧ (s.audio.slots.get x).loudTo < t1 ∧ y = (hearSlot air x t1 s).audio.slots.get x ∧ z = y.blockPower (gridCeil t1 - 19200) (gridCeil t1) :=
  ⟨((up .run 10000000).withActive fun c => { c with slots := c.slots.set 511 { source := .lane } }), 511, 10000000, {}, _, _, by decide, by decide, by decide, rfl, rfl⟩
theorem witness_silenceWindow : ∃ (s : State) (x t1 at_ : Nat) (air : Air) (y : SlotSt) (peak : Option Int), s.slotOn x = true ∧ t1 = s.now / 1000000 * 1000000 ∧ (s.audio.slots.get x).silentTo < t1 ∧ y = (hearSlot air x t1 s).audio.slots.get x ∧ peak = peakOf (y.between (gridCeil (t1 - 1000000)) (gridCeil t1)) ∧ at_ = t1 - 1000000 - ((hearSlot air x t1 s).slotLatency x (gridCeil (t1 - 1000000))).getD 0 :=
  ⟨((up .run 1000000).withActive fun c => { c with slots := c.slots.set 511 { source := .lane } }), 511, 1000000, _, {}, _, _, by decide, by decide, by decide, rfl, rfl, rfl⟩
theorem witness_classifierWindow : ∃ (s : State) (x t1 : Nat) (air : Air) (y : SlotSt) (cls : Option Nat), s.slotOn x = true ∧ (s.cfg.active.slots.get x).classify ≠ 0 ∧ t1 = s.now / 20000000 * 20000000 ∧ (s.audio.slots.get x).classTo < t1 ∧ y = (hearSlot air x t1 s).audio.slots.get x ∧ cls = (hearSlot air x t1 s).classHeard x t1 :=
  ⟨((up .run 20000000).withActive fun c => { c with slots := c.slots.set 511 { source := .lane, classify := 1 } }), 511, 20000000, {}, _, _, by decide, by decide, by decide, by decide, rfl, rfl⟩
theorem witness_nonAudioMuteEnd : ∃ (s : State) (x e : Nat), s.slotUp x = true ∧ s.dieRuns (slotDie x) = true ∧ (s.audio.slots.get x).muteEnds = some e ∧ e ≤ s.now :=
  ⟨(((up .run 0).withActive fun c => { c with slots := c.slots.set 511 { source := .lane } }).setSlot 511 fun y => { y with muteEnds := some 0 }), 511, 0, by decide, by decide, by decide, by decide⟩
theorem witness_matchEstimate : ∃ (s : State) (x t1 : Nat) (air : Air) (y : SlotSt) (est : Option MatchEst), s.slotOn x = true ∧ (s.cfg.active.slots.get x).matchKind ≠ 0 ∧ t1 = s.now / 100000000 * 100000000 ∧ (s.audio.slots.get x).matchTo < t1 ∧ y = (hearSlot air x t1 s).audio.slots.get x ∧ est = ((hearSlot air x t1 s).setSlot x fun y => { y with matchTo := t1 }).matchFound air x t1 :=
  ⟨((up .run 100000000).withActive fun c => { c with slots := c.slots.set 511 { source := .lane, matchKind := 1 } }), 511, 100000000, {}, _, _, by decide, by decide, by decide, by decide, rfl, rfl⟩
theorem witness_slotMeasPeriodEnd : ∃ (s : State) (x p : Nat) (air : Air) (late : Bool), s.slotUp x = true ∧ s.mode.mode ≠ .halted ∧ p = (if (s.cfg.active.slots.get x).measLong then 100000000 else 10000000) ∧ (s.audio.slots.get x).measuredTo < s.now / p * p :=
  ⟨(up .run 100000000), 511, 100000000, {}, false, by decide, by decide, by decide, by decide⟩
theorem witness_portStartTick : ∃ (s : State) (p : PortId) (at_ : Nat), s.hasPort p = true ∧ (s.portSt p).startAt = some at_ ∧ at_ ≤ s.now ∧ (s.portSt p).phase.isStopped = true :=
  ⟨((up .run 0).setPort (.out 7) fun x => { x with startAt := some 0 }), (.out 7), 0, by decide, by decide, by decide, by decide⟩
theorem witness_portPrerollEnd : ∃ (s : State) (p : PortId), s.hasPort p = true ∧ (s.portSt p).phase = .preRoll ∧ (s.portSt p).dataStart + (if p.isInput = true then 0 else renderDelay) ≤ s.now :=
  ⟨((up .run 300000).setPort (.out 7) fun x => { x with phase := .preRoll }), (.out 7), by decide, by decide, by decide⟩
theorem witness_portStopTick : ∃ (s : State) (p : PortId) (at_ : Nat), s.hasPort p = true ∧ (s.portSt p).stopAt = some at_ ∧ at_ ≤ s.now :=
  ⟨((up .run 0).setPort (.inp 3) fun x => { x with stopAt := some 0 }), (.inp 3), 0, by decide, by decide, by decide⟩
theorem witness_portPostrollEnd : ∃ (s : State) (p : PortId), s.hasPort p = true ∧ (s.portSt p).phase = .postRoll ∧ (s.portSt p).postEnd ≤ s.now :=
  ⟨((up .run 0).setPort (.inp 3) fun x => { x with phase := .postRoll }), (.inp 3), by decide, by decide, by decide⟩
theorem witness_portResume : ∃ (s : State) (p : PortId), s.hasPort p = true ∧ ((s.portSt p).phase = .frozen ∨ (s.portSt p).phase = .awaitingClock) ∧ (s.ports.amclks.get p.die).qualified = true ∧ nextOf 200000 (s.ports.amclks.get p.die).qualifiedAt ≤ s.now :=
  ⟨(((up .run 200000).setPort (.inp 3) fun x => { x with phase := .frozen }).setAmclk 3 fun a => { a with qualified := true }), (.inp 3), by decide, by decide, by decide, by decide⟩
theorem witness_portRateSwitch : ∃ (s : State) (p : PortId) (n since : Nat) (back : PortPhase), s.hasPort p = true ∧ (s.portSt p).phase = .reconfiguring ∧ (s.portSt p).switchTo = some (n, back, since) ∧ nextOf 200000 since ≤ s.now :=
  ⟨((up .run 200000).setPort (.out 7) fun x => { x with phase := .reconfiguring, switchTo := some (2, .running, 0) }), (.out 7), 2, 0, .running, by decide, by decide, by decide, by decide⟩
theorem witness_portLeaveFollower : ∃ (s : State) (p : PortId), s.hasPort p = true ∧ (s.portSt p).onFollower = true ∧ (s.portSt p).entry.amclk = false ∧ (s.clk.get p.die).aud.locked = true ∧ (s.clk.get p.die).aud.coasting = false ∧ s.now % 200000 = 0 :=
  ⟨(((up .run 200000).setPort (.out 7) fun x => { x with onFollower := true }).setClk 7 fun c => { c with aud := { locked := true } }), (.out 7), by decide, by decide, by decide, by decide, by decide, by decide⟩
theorem witness_portClearCounts : ∃ (s : State) (p : PortId), s.barUp = true ∧ s.dieUp p.die = true ∧ s.hasPort p = true :=
  ⟨(up .run 0), (.inp 3), by decide, by decide, by decide⟩
theorem witness_portFrameStart : ∃ (s : State) (d late n m : Nat) (air : Air) (present due : Bool) (diffs : List Nat), s.hasPort (.out d) = true ∧ (s.portSt (.out d)).phase.clocked = true ∧ n = gridIndex (s.now - 300000) ∧ m = (s.portSt (.out d)).maskAt (gridInstant n) ∧ due = (s.portSt (.out d)).dataDue n :=
  ⟨((up .run 400000).setPort (.out 7) fun x => { x with phase := .running }), 7, 0, _, _, {}, false, _, [], by decide, by decide, rfl, rfl, rfl⟩
theorem witness_portFollowerUpdate : ∃ (s : State) (p : PortId) (err : Int), s.hasPort p = true ∧ (s.portSt p).onFollower = true ∧ (s.portSt p).phase.clocked = true :=
  ⟨((up .run 0).setPort (.out 7) fun x => { x with phase := .running, onFollower := true }), (.out 7), 0, by decide, by decide, by decide⟩
theorem witness_inputFrameReceived : ∃ (s : State) (d : Nat) (frame : Int) (air : Air), s.hasPort (.inp d) = true ∧ (s.portSt (.inp d)).phase.clocked = true :=
  ⟨((up .run 0).setPort (.inp 3) fun x => { x with phase := .running }), 3, 0, {}, by decide, by decide⟩
theorem witness_amclkStop : ∃ (s : State) (d : Nat), d < s.dies ∧ s.supervised d = true ∧ (s.ports.amclks.get d).qualified = true :=
  ⟨(((up .run 0).setPort (.out 7) fun x => { x with entry := { glitchWidth := 4, preRoll := 64, postRoll := 64, amclk := true } }).setAmclk 7 fun a => { a with qualified := true }), 7, by decide, by decide, by decide⟩
theorem witness_amclkQualified : ∃ (s : State) (d freq : Nat), d < s.dies ∧ s.supervised d = true ∧ (s.ports.amclks.get d).qualified = false ∧ (nominalOf freq).isSome = true :=
  ⟨((up .run 0).setPort (.out 7) fun x => { x with entry := { glitchWidth := 4, preRoll := 64, postRoll := 64, amclk := true } }), 7, 12288000, by decide, by decide, by decide, by decide⟩
theorem witness_amclkBlockRate : ∃ (s : State) (d freq nom : Nat), d < s.dies ∧ s.supervised d = true ∧ (s.ports.amclks.get d).qualified = true ∧ (∃ p ∈ s.portsOf d, (s.portSt p).entry.amclk = true) ∧ ((∀ p ∈ s.portsOf d, (s.portSt p).entry.amclk = true → (s.portSt p).nom = nom ∧ (s.portSt p).switchTo = none)) :=
  ⟨(((up .run 0).setPort (.out 7) fun x => { x with entry := { glitchWidth := 4, preRoll := 64, postRoll := 64, amclk := true } }).setAmclk 7 fun a => { a with qualified := true }), 7, 12288000, 1, by decide, by decide, by decide, by decide, by decide⟩
theorem witness_amclkGlitches : ∃ (s : State) (d count : Nat), d < s.dies ∧ s.supervised d = true ∧ 0 < count :=
  ⟨((up .run 0).setPort (.out 7) fun x => { x with entry := { glitchWidth := 4, preRoll := 64, postRoll := 64, amclk := true } }), 7, 1, by decide, by decide, by decide⟩
theorem witness_pcieReset : ∃ (s : State), s.mode.mode ≠ .off :=
  ⟨(up .run 0), by decide⟩
theorem witness_linkState : ∃ (s : State) (width rate : Nat), s.mode.mode ≠ .off :=
  ⟨(up .run 0), 8, 5, by decide⟩
theorem witness_linkState_2 : ∃ (s : State) (width rate : Nat), s.mode.mode ≠ .off :=
  ⟨(up .run 0), 8, 5, by decide⟩
theorem witness_receivedWriteEcrcFail : ∃ (s : State) (bar offset : Nat), s.mode.mode ≠ .off ∧ s.link.pcie.linkUp = true ∧ s.link.pcie.ecrcCheck = true :=
  ⟨((up .run 0).withPcie fun p => { p with linkUp := true, ecrcCheck := true }), 0, 0, by decide, by decide, by decide⟩
theorem witness_msixUnmask : ∃ (s : State) (v : Nat), s.barUp = true ∧ v < 64 ∧ maskBit s.link.pcie.masked v = true :=
  ⟨(up .run 0), 63, by decide, by decide, by decide⟩
theorem witness_interruptModTimer : ∃ (s : State) (r : Nat), s.barUp = true ∧ 16 ≤ r ∧ r < 96 ∧ 0 < (s.link.rings.get r).unsignalled ∧ 0 < (s.link.rings.get r).modTime ∧ (s.link.rings.get r).firstUnsignalled + (s.link.rings.get r).modTime * 100 ≤ s.now :=
  ⟨((up .run 100).setRing 95 fun g => { g with unsignalled := 1, modTime := 1 }), 95, by decide, by decide, by decide, by decide, by decide, by decide⟩
theorem witness_hostLinkFault : ∃ (s : State), s.mode.mode ≠ .off ∧ s.mode.mode ≠ .halted :=
  ⟨(up .run 0), by decide, by decide⟩
theorem witness_ringConfigWrite : ∃ (s : State) (r offset v : Nat), s.barUp = true ∧ r < 96 :=
  ⟨(up .run 0), 95, 0, 0, by decide, by decide⟩
theorem witness_ringEnable : ∃ (s : State) (r v : Nat), s.barUp = true ∧ s.mode.mode ≠ .boot ∧ r < 96 ∧ (s.link.rings.get r).enable = false ∧ maskBit v 5 = true :=
  ⟨(up .run 0), 95, 32, by decide, by decide, by decide, by decide, by decide⟩
theorem witness_ringDisable : ∃ (s : State) (r v : Nat), s.barUp = true ∧ r < 96 ∧ (s.link.rings.get r).enable = true ∧ maskBit v 5 = false :=
  ⟨((up .run 0).setRing 95 fun g => { g with enable := true }), 95, 0, by decide, by decide, by decide, by decide⟩
theorem witness_ringWritesDrained : ∃ (s : State) (r : Nat), r < 96 ∧ (s.link.rings.get r).enable = false ∧ (s.link.rings.get r).inFlight = true ∧ (s.link.rings.get r).fetched = [] ∧ (s.link.rings.get r).executing = none ∧ (s.link.rings.get r).cplDue = false :=
  ⟨((up .run 0).setRing 95 fun g => { g with inFlight := true }), 95, by decide, by decide, by decide, by decide, by decide, by decide⟩
theorem witness_doorbellWrite : ∃ (s : State) (r index : Nat), s.barUp = true ∧ r < 96 ∧ (s.link.rings.get r).enable = true ∧ (s.link.rings.get r).err = false :=
  ⟨((up .run 0).setRing 95 fun g => { g with enable := true }), 95, 0, by decide, by decide, by decide, by decide⟩
theorem witness_doorbellResume : ∃ (s : State) (r index : Nat), s.barUp = true ∧ r < 96 ∧ (s.link.rings.get r).enable = true ∧ (s.link.rings.get r).err = false :=
  ⟨((up .run 0).setRing 95 fun g => { g with enable := true }), 95, 0, by decide, by decide, by decide, by decide⟩
theorem witness_descriptorFetch : ∃ (s : State) (r : Nat), s.mayFetch r = true :=
  ⟨((up .run 0).setRing 15 fun g => { g with enable := true, doorbell := 1 }), 15, by decide⟩
theorem witness_descriptorFetch_2 : ∃ (s : State) (r : Nat) (d : List Byte), s.mayFetch r = true ∧ (s.link.rings.get r).executing.isSome = true :=
  ⟨((up .run 0).setRing 15 fun g => { g with enable := true, doorbell := 1, executing := some ⟨[], 0, .mode⟩ }), 15, [], by decide, by decide⟩
theorem witness_completionWrite : ∃ (s : State) (q : Nat) (c : Cpl) (rest : List Cpl), s.barUp = true ∧ 16 ≤ q ∧ q < 32 ∧ (s.link.rings.get q).held = c :: rest ∧ (s.link.rings.get q).enable = true ∧ (s.link.rings.get q).err = false ∧ (s.link.rings.get q).cqFull = false :=
  ⟨((up .run 0).setRing 31 fun g => { g with enable := true, held := [⟨0, 0, 0, .ok, 0, 0⟩] }), 31, ⟨0, 0, 0, .ok, 0, 0⟩, [], by decide, by decide, by decide, by decide, by decide, by decide, by decide⟩
theorem witness_blockWrite : ∃ (s : State) (r : Nat) (b : Block) (rest : List Block) (good owner : Bool), s.barUp = true ∧ 32 ≤ r ∧ r < 96 ∧ (s.link.rings.get r).waiting = b :: rest ∧ (s.link.rings.get r).takes = true ∧ (s.link.rings.get r).devIndex ≠ (s.link.rings.get r).doorbell ∧ s.mode.mode ≠ .halted ∧ s.now ≤ b.readyAt + (s.link.rings.get r).holdLimit * 100000 :=
  ⟨((up .run 0).setRing 95 fun g => { g with enable := true, waiting := [⟨0, 0, 0, 95, 7, 0, 0, 0, 0, 0, {}, 0, [], 0, false⟩], doorbell := 1 }), 95, ⟨0, 0, 0, 95, 7, 0, 0, 0, 0, 0, {}, 0, [], 0, false⟩, [], true, true, by decide, by decide, by decide, by decide, by decide, by decide, by decide, by decide⟩
theorem witness_blockWrite_2 : ∃ (s : State) (r x : Nat) (good owner : Bool), s.mode.mode = .halted :=
  ⟨(up .halted 0), 95, 0, true, true, by decide⟩
theorem witness_blockHoldExpiry : ∃ (s : State) (r : Nat) (b : Block) (rest : List Block), 32 ≤ r ∧ r < 96 ∧ (s.link.rings.get r).waiting = b :: rest ∧ b.readyAt + (s.link.rings.get r).holdLimit * 100000 ≤ s.now :=
  ⟨((up .run 1000000).setRing 95 fun g => { g with waiting := [⟨0, 0, 0, 95, 7, 0, 0, 0, 0, 0, {}, 0, [], 0, false⟩] }), 95, ⟨0, 0, 0, 95, 7, 0, 0, 0, 0, 0, {}, 0, [], 0, false⟩, [], by decide, by decide, by decide, by decide⟩
theorem witness_ringOverrun : ∃ (s : State) (r : Nat), 32 ≤ r ∧ r < 96 ∧ 0 < (s.link.rings.get r).discardsSec ∧ s.now % 100000000 = 0 :=
  ⟨((up .run 100000000).setRing 95 fun g => { g with discardsSec := 1 }), 95, by decide, by decide, by decide, by decide⟩
theorem witness_eventBlock : ∃ (s : State) (x t0 : Nat), s.eventSpan x = some t0 ∧ s.dieUp (eventDie x) = true ∧ s.mode.mode ≠ .halted :=
  ⟨{ (up .run 200000) with link := { events := [⟨.pllUnlock, 7, 0, 0, []⟩] } }, 7, 0, by decide, by decide, by decide⟩
theorem witness_telemetryRecord : ∃ (s : State) (d : Nat), s.monUp d = true ∧ (s.mon.dies.get d).telemetered < s.mon.lastLatch ∧ s.mode.mode ≠ .halted :=
  ⟨{ (up .run 0) with mon := { (up .run 0).mon with lastLatch := 100000000 } }, 7, by decide, by decide, by decide⟩
theorem witness_ringEnable_2 : ∃ (s : State) (r v : Nat), s.mode.mode = .boot ∧ maskBit v 5 = true :=
  ⟨State.reset, 95, 32, by decide, by decide⟩
theorem witness_refusedCommands : ∃ (i : Instr) (c : Cmd) (src : CmdSrc) (buf : Option (List Byte)) (s : State) (f : Fetched) (st : Status) (r : Nat), commandOf i = some (c, src, buf) ∧ s.turnsAway c src f buf st r :=
  ⟨(.nop (.ring 0)), .nop, (.ring 0), none, (given (desc 0x01 [(4, 1)]) (up .run 0)), ⟨(desc 0x01 [(4, 1)]), 0, true⟩, .badParam, 4, by decide, ⟨by decide, by decide, by decide⟩⟩
theorem witness_nop : ∃ (s : State) (src : CmdSrc) (f : Fetched), s.begins .nop src f none :=
  ⟨{ (up .run 0) with mb := { (up .run 0).mb with mboxCmd := some ⟨(desc 0x01 []), 1, true⟩ } }, .mailbox, ⟨(desc 0x01 []), 1, true⟩, ⟨by decide, by decide, by decide⟩⟩
theorem witness_identify : ∃ (s : State) (src : CmdSrc) (f : Fetched), s.begins .identify src f none :=
  ⟨(given (desc 0x02 [(44, 64), (53, 1)]) (up .run 0)), (.ring 0), ⟨(desc 0x02 [(44, 64), (53, 1)]), 0, true⟩, ⟨by decide, by decide, by decide⟩⟩
theorem witness_timeSet : ∃ (s : State) (src : CmdSrc) (f : Fetched), s.begins .timeSet src f none :=
  ⟨(given (desc 0x03 [(24, 1)]) (up .run 0)), (.ring 0), ⟨(desc 0x03 [(24, 1)]), 0, true⟩, ⟨by decide, by decide, by decide⟩⟩
theorem witness_realign : ∃ (s : State) (src : CmdSrc) (f : Fetched), s.begins .realign src f none :=
  ⟨(given (desc 0x04 []) (up .run 0)), (.ring 0), ⟨(desc 0x04 []), 0, true⟩, ⟨by decide, by decide, by decide⟩⟩
theorem witness_stageLane : ∃ (s : State) (src : CmdSrc) (f : Fetched), s.begins .stageLane src f none :=
  ⟨(given (desc 0x10 [(4, 255)]) (up .run 0)), (.ring 0), ⟨(desc 0x10 [(4, 255)]), 0, true⟩, ⟨by decide, by decide, by decide⟩⟩
theorem witness_stageCluster : ∃ (s : State) (src : CmdSrc) (f : Fetched) (buf : Option (List Byte)), s.begins .stageCluster src f buf :=
  ⟨(given (desc 0x11 [(4, 31)]) (up .run 0)), (.ring 0), ⟨(desc 0x11 [(4, 31)]), 0, true⟩, none, ⟨by decide, by decide, by decide⟩⟩
theorem witness_stageEngine : ∃ (s : State) (src : CmdSrc) (f : Fetched), s.begins .stageEngine src f none :=
  ⟨(given (desc 0x12 [(4, 31)]) (up .run 0)), (.ring 0), ⟨(desc 0x12 [(4, 31)]), 0, true⟩, ⟨by decide, by decide, by decide⟩⟩
theorem witness_stageSlot : ∃ (s : State) (src : CmdSrc) (f : Fetched), s.begins .stageSlot src f none :=
  ⟨(given (desc 0x13 [(4, 255), (5, 1)]) (up .run 0)), (.ring 0), ⟨(desc 0x13 [(4, 255), (5, 1)]), 0, true⟩, ⟨by decide, by decide, by decide⟩⟩
theorem witness_stagePort : ∃ (s : State) (src : CmdSrc) (f : Fetched), s.begins .stagePort src f none :=
  ⟨(given (desc 0x14 [(4, 7), (6, 2), (8, 8), (10, 8)]) (up .run 0)), (.ring 0), ⟨(desc 0x14 [(4, 7), (6, 2), (8, 8), (10, 8)]), 0, true⟩, ⟨by decide, by decide, by decide⟩⟩
theorem witness_stageBank : ∃ (s : State) (src : CmdSrc) (f : Fetched) (buf : Option (List Byte)), s.begins .stageBank src f buf :=
  ⟨(given (desc 0x16 [(4, 7)]) (up .run 0)), (.ring 0), ⟨(desc 0x16 [(4, 7)]), 0, true⟩, none, ⟨by decide, by decide, by decide⟩⟩
theorem witness_stagePlan : ∃ (s : State) (src : CmdSrc) (f : Fetched) (buf : Option (List Byte)), s.begins .stagePlan src f buf :=
  ⟨(given (desc 0x17 []) (up .run 0)), (.ring 0), ⟨(desc 0x17 []), 0, true⟩, none, ⟨by decide, by decide, by decide⟩⟩
theorem witness_stageCopy : ∃ (s : State) (src : CmdSrc) (f : Fetched), s.begins .stageCopy src f none :=
  ⟨(given (desc 0x18 [(4, 7), (6, 7), (8, 128)]) (up .run 0)), (.ring 0), ⟨(desc 0x18 [(4, 7), (6, 7), (8, 128)]), 0, true⟩, ⟨by decide, by decide, by decide⟩⟩
theorem witness_discardStage : ∃ (s : State) (src : CmdSrc) (f : Fetched), s.begins .discardStage src f none :=
  ⟨(given (desc 0x1F []) (up .run 0)), (.ring 0), ⟨(desc 0x1F []), 0, true⟩, ⟨by decide, by decide, by decide⟩⟩
theorem witness_ringDirection : ∃ (p : Part) (s t : Nat), s < p.dies ∧ t < p.dies :=
  ⟨.pd8256, 7, 0, by decide, by decide⟩
theorem witness_commit : ∃ (s : State) (src : CmdSrc) (f : Fetched), s.begins .commit src f none :=
  ⟨(given (desc 0x1E [(4, 0)]) (up .run 0)), (.ring 0), ⟨(desc 0x1E [(4, 0)]), 0, true⟩, ⟨by decide, by decide, by decide⟩⟩
theorem witness_pendingSetReceived : ∃ (s : State) (d : Nat) (good : Bool) (p : PendingCommit), s.cfg.commit = some p ∧ s.dieUp d = true ∧ p.confirmed = false ∧ maskBit p.acks d = false ∧ maskBit p.withheld d = false ∧ s.now < (p.tick - 1) * 100000 :=
  ⟨{ (up .run 99999) with cfg := { (up .run 99999).cfg with commit := some { set := ConfigSet.initial, tick := 2, effective := 2, src := none } } }, 7, true, { set := ConfigSet.initial, tick := 2, effective := 2, src := none }, by decide, by decide, by decide, by decide, by decide, by decide⟩
theorem witness_commitAckDeadline : ∃ (s : State) (p : PendingCommit), s.cfg.commit = some p ∧ p.confirmed = false ∧ (p.tick - 1) * 100000 ≤ s.now :=
  ⟨{ (up .run 100000) with cfg := { (up .run 100000).cfg with commit := some { set := ConfigSet.initial, tick := 2, effective := 2, src := none } } }, { set := ConfigSet.initial, tick := 2, effective := 2, src := none }, by decide, by decide, by decide⟩
theorem witness_configSwap : ∃ (s : State) (p : PendingCommit) (temps : List Int), s.cfg.commit = some p ∧ p.confirmed = true ∧ p.effective * 100000 ≤ s.now :=
  ⟨{ (up .run 200000) with cfg := { (up .run 200000).cfg with commit := some { set := ConfigSet.initial, tick := 2, effective := 2, src := none, confirmed := true } } }, { set := ConfigSet.initial, tick := 2, effective := 2, src := none, confirmed := true }, [], by decide, by decide, by decide⟩
theorem witness_portStart : ∃ (s : State) (src : CmdSrc) (f : Fetched), s.begins .portStart src f none :=
  ⟨(given (desc 0x20 [(4, 7)]) (up .run 0)), (.ring 0), ⟨(desc 0x20 [(4, 7)]), 0, true⟩, ⟨by decide, by decide, by decide⟩⟩
theorem witness_portStop : ∃ (s : State) (src : CmdSrc) (f : Fetched), s.begins .portStop src f none :=
  ⟨(given (desc 0x21 [(4, 3), (5, 1)]) (up .run 0)), (.ring 0), ⟨(desc 0x21 [(4, 3), (5, 1)]), 0, true⟩, ⟨by decide, by decide, by decide⟩⟩
theorem witness_captureStart : ∃ (s : State) (src : CmdSrc) (f : Fetched), s.begins .captureStart src f none :=
  ⟨(given (desc 0x28 [(4, 95), (5, 1), (6, 255)]) (up .run 0)), (.ring 0), ⟨(desc 0x28 [(4, 95), (5, 1), (6, 255)]), 0, true⟩, ⟨by decide, by decide, by decide⟩⟩
theorem witness_captureStartTick : ∃ (s : State) (r : Nat) (x : Capture), s.link.captures.get r = some x ∧ x.started = false ∧ x.tick * 100000 ≤ s.now :=
  ⟨{ (up .run 100000) with link := { captures := Tbl.empty (some ⟨.lane, 255, 1, false, 0, 0⟩) } }, 95, ⟨.lane, 255, 1, false, 0, 0⟩, by decide, by decide, by decide⟩
theorem witness_captureStop : ∃ (s : State) (src : CmdSrc) (f : Fetched) (x : Capture), s.begins .captureStop src f none ∧ s.link.captures.get (field f.desc 4 0 8) = some x ∧ x.started = true :=
  ⟨(given (desc 0x29 [(4, 95)]) { (up .run 0) with link := { captures := Tbl.empty (some ⟨.lane, 255, 1, true, 0, 0⟩) } }), (.ring 0), ⟨(desc 0x29 [(4, 95)]), 0, true⟩, ⟨.lane, 255, 1, true, 0, 0⟩, ⟨by decide, by decide, by decide⟩, by decide, by decide⟩
theorem witness_calStart : ∃ (s : State) (src : CmdSrc) (f : Fetched), s.begins .calStart src f none :=
  ⟨(given (desc 0x30 [(4, 4), (6, 7)]) (up .run 0)), (.ring 0), ⟨(desc 0x30 [(4, 4), (6, 7)]), 0, true⟩, ⟨by decide, by decide, by decide⟩⟩
theorem witness_calQuery : ∃ (s : State) (src : CmdSrc) (f : Fetched), s.begins .calQuery src f none :=
  ⟨(given (desc 0x31 [(4, 4), (6, 7), (44, 64), (53, 1)]) (up .run 0)), (.ring 0), ⟨(desc 0x31 [(4, 4), (6, 7), (44, 64), (53, 1)]), 0, true⟩, ⟨by decide, by decide, by decide⟩⟩
theorem witness_calStore : ∃ (s : State) (src : CmdSrc) (f : Fetched), s.begins .calStore src f none :=
  ⟨(given (desc 0x32 []) (up .run 0)), (.ring 0), ⟨(desc 0x32 []), 0, true⟩, ⟨by decide, by decide, by decide⟩⟩
theorem witness_calStoreWriteDone : ∃ (s : State) (ok : Bool) (st : StoreSt), s.cal.store = some st ∧ st.again = false :=
  ⟨{ (up .run 0) with cal := { store := some { slot := 1, seq := 1, begin_ := 0, snap := {}, automatic := true } } }, true, { slot := 1, seq := 1, begin_ := 0, snap := {}, automatic := true }, by decide, by decide⟩
theorem witness_autoStore : ∃ (s : State) (since : Nat), s.cal.autoStore = true ∧ s.cal.unsavedSince = some since ∧ since + 86400 * 100000000 ≤ s.now ∧ s.cal.store = none ∧ s.mode.mode ≠ .off ∧ s.mode.mode ≠ .boot ∧ s.mode.mode ≠ .recovery ∧ s.mode.mode ≠ .halted :=
  ⟨{ (up .run 8640000000000) with cal := { unsavedSince := some 0 } }, 0, by decide, by decide, by decide, by decide, by decide, by decide, by decide, by decide⟩
theorem witness_syscalStep : ∃ (s u : State) (src : CmdSrc) (f : Fetched) (m : SyscalMeas) (e : StepEnd), s.begins .syscalStep src f none ∧ u = injectFor (field f.desc 4 0 8) (field f.desc 5 0 8) (takeFront src s) ∧ e = sysStep (field f.desc 4 0 8) (field f.desc 5 0 8) (field f.desc 8 0 32) (sfield f.desc 12 0 32) m u :=
  ⟨(given (desc 0x33 [(4, 6), (5, 255), (9, 194), (10, 235), (11, 11)]) (up .systemCal 0)), _, (.ring 0), ⟨(desc 0x33 [(4, 6), (5, 255), (9, 194), (10, 235), (11, 11)]), 0, true⟩, {}, _, ⟨by decide, by decide, by decide⟩, rfl, rfl⟩
theorem witness_syscalStep_2 : ∃ (s u : State) (src : CmdSrc) (f : Fetched), s.begins .syscalStep src f none ∧ u = injectFor (field f.desc 4 0 8) (field f.desc 5 0 8) (takeFront src s) :=
  ⟨(given (desc 0x33 [(4, 6), (5, 255), (9, 194), (10, 235), (11, 11)]) (up .systemCal 0)), _, (.ring 0), ⟨(desc 0x33 [(4, 6), (5, 255), (9, 194), (10, 235), (11, 11)]), 0, true⟩, ⟨by decide, by decide, by decide⟩, rfl⟩
theorem witness_levelStepStart : ∃ (s : State) (n l i : Nat) (kind : CoverKind), s.levelChoice n = some (l, i, kind) ∧ n < s.dies ∧ s.levelAllowed = true ∧ 0 < s.taskAge (.level n) ∧ s.cal.steps.get n = none ∧ s.pathRuns n = true ∧ s.levelTurn n l = true :=
  ⟨((({ (up .run 0) with integ := { (up .run 0).integ with tasks := [⟨.level 7, none⟩] }, cal := { tones := [{ en := true, freq := 88000000, level := some 0 }] } }.setCourse 7 fun c => { c with mode := .simplex, leader := some 0 }).setConv ((up .run 0).convOf 7 0) fun c => { c with powered := true, sampling := true }).withActive fun c => { c with clusters := c.clusters.set 31 { btOn := true, course := 7, fBt := 88000000 } }), 7, 248, 0, .offLane, by decide, by decide, by decide, by decide, by decide, by decide, by decide⟩
theorem witness_levelPhaseEnd : ∃ (s : State) (n t1 : Nat) (air : Air) (st : LevelStep) (w : Nat × Nat) (p : Int), s.cal.steps.get n = some st ∧ st.phase ≠ .evaluate ∧ st.phase ≠ .return_ ∧ t1 = st.passStart + st.phase.ends ∧ t1 ≤ s.now ∧ w = s.tonePower air st.lane (t1 - 2000000) t1 ∧ p = s.levelUv n ((s.front.courses.get n).leader.getD 0) st.toneFreq st.start (powerLevel w) :=
  ⟨{ (up .run 6400000) with cal := { steps := Tbl.empty (some { lane := 255, kind := .native, tone := 7, toneFreq := 0, toneLevel := 0, start := 0, passStart := 0, phase := .on2 }) } }, 7, _, {}, { lane := 255, kind := .native, tone := 7, toneFreq := 0, toneLevel := 0, start := 0, passStart := 0, phase := .on2 }, _, _, by decide, by decide, by decide, rfl, by decide, rfl, rfl⟩
theorem witness_levelPhaseEnd_2 : ∃ (s : State) (n : Nat) (air : Air) (st : LevelStep), s.cal.steps.get n = some st ∧ st.phase = .return_ ∧ st.passStart + 6400000 ≤ s.now ∧ s.now % 200000 = 0 ∧ s.stationRuns st.lane = true :=
  ⟨{ (up .run 6400000) with cal := { steps := Tbl.empty (some { lane := 255, kind := .native, tone := 7, toneFreq := 0, toneLevel := 0, start := 0, passStart := 0, phase := .return_ }) } }, 7, {}, { lane := 255, kind := .native, tone := 7, toneFreq := 0, toneLevel := 0, start := 0, passStart := 0, phase := .return_ }, by decide, by decide, by decide, by decide, by decide⟩
theorem witness_levelStepEval : ∃ (s : State) (n : Nat) (mean m : Int) (st : LevelStep), s.cal.steps.get n = some st ∧ st.phase = .evaluate ∧ st.passStart + 6400000 ≤ s.now ∧ mean = s.levelUv n ((s.front.courses.get n).leader.getD 0) st.toneFreq st.start (meanOn st.on1Power st.on2Power) ∧ m = s.levelUv n ((s.front.courses.get n).leader.getD 0) st.toneFreq st.start (netOn st.offPower st.on1Power st.on2Power) :=
  ⟨{ (up .run 6400000) with cal := { steps := Tbl.empty (some { lane := 255, kind := .native, tone := 7, toneFreq := 0, toneLevel := 0, start := 0, passStart := 0, phase := .evaluate }) } }, 7, _, _, { lane := 255, kind := .native, tone := 7, toneFreq := 0, toneLevel := 0, start := 0, passStart := 0, phase := .evaluate }, by decide, by decide, by decide, rfl, rfl⟩
theorem witness_standbyDUpdate : ∃ (s : State) (j x : Nat) (lead stand : Nat) (new old : Int), j < s.dies ∧ (s.front.courses.get j).leader = some x ∧ (s.front.courses.get j).mode = .duplex ∧ (s.front.courses.get j).driftedAt + 100000000 ≤ s.now ∧ (lead, stand) = (if x = 0 then (s.front.courses.get j).checkPower else ((s.front.courses.get j).checkPower.2, (s.front.courses.get j).checkPower.1)) ∧ 0 < lead ∧ 0 < stand ∧ new = (if x = 0 then (s.cal.coefs.level.get j).dA else (s.cal.coefs.level.get j).dB) + db100 stand lead ∧ old = (if x = 0 then (s.cal.coefs.level.get j).dB else (s.cal.coefs.level.get j).dA) :=
  ⟨((up .run 100000000).setCourse 7 fun c => { c with mode := .duplex, leader := some 1, checkPower := (1, 1) }), 7, 1, 1, 1, _, _, by decide, by decide, by decide, by decide, by decide, by decide, by decide, rfl, rfl⟩
theorem witness_calinSuspectHoldEnd : ∃ (s : State), s.cal.suspect = true ∧ s.cal.suspectUntil ≤ s.now :=
  ⟨{ (up .run 0) with cal := { suspect := true } }, by decide, by decide⟩
theorem witness_monitorBackgroundCal : ∃ (s : State) (d : Nat) (ref0 ref1 loop100 loop300 : Int), s.monUp d = true ∧ 0 < s.taskAge (.monitor d) ∧ ((s.mon.dies.get d).queue = [] ∨ (s.mon.dies.get d).injStart = s.now) :=
  ⟨{ (up .run 0) with integ := { (up .run 0).integ with tasks := [⟨.monitor 7, none⟩] } }, 7, 0, 0, 0, 0, by decide, by decide, by decide⟩
theorem witness_monInject : ∃ (s : State) (src : CmdSrc) (f : Fetched), s.begins .monInject src f none :=
  ⟨(given (desc 0x38 [(4, 7), (5, 31)]) (up .run 0)), (.ring 0), ⟨(desc 0x38 [(4, 7), (5, 31)]), 0, true⟩, ⟨by decide, by decide, by decide⟩⟩
theorem witness_monRead : ∃ (s : State) (src : CmdSrc) (f : Fetched), s.begins .monRead src f none :=
  ⟨(given (desc 0x39 [(4, 7), (44, 64), (53, 2)]) (up .run 0)), (.ring 0), ⟨(desc 0x39 [(4, 7), (44, 64), (53, 2)]), 0, true⟩, ⟨by decide, by decide, by decide⟩⟩
theorem witness_monConversionEnd : ∃ (s : State) (d : Nat) (raw : Int) (m : MonSt) (e : MonEntry), s.mon.dies.get d = m ∧ m.active.entry m.entry = e ∧ s.monUp d = true ∧ m.converting = true ∧ m.convStart + monTime m.active.lowPower e.acq ≤ s.now :=
  ⟨(up .run 1000), 7, 0, ((up .run 0).mon.dies.get 7), (((up .run 0).mon.dies.get 7).active.entry 0), rfl, rfl, by decide, by decide, by decide⟩
theorem witness_monPassStart : ∃ (s : State) (d at_ : Nat), s.monUp d = true ∧ (s.mon.dies.get d).run = true ∧ (s.mon.dies.get d).queue = [] ∧ (s.mon.dies.get d).converting = false ∧ (s.mon.dies.get d).passDue = some at_ ∧ at_ ≤ s.now :=
  ⟨((up .run 5).setMon 7 fun m => { m with converting := false, passDue := some 5 }), 7, 5, by decide, by decide, by decide, by decide, by decide, by decide⟩
theorem witness_monInjectionEnd : ∃ (s : State) (d : Nat) (raw : Int) (x : MonInj) (rest : List MonInj), (s.mon.dies.get d).queue = x :: rest ∧ s.monUp d = true ∧ (s.mon.dies.get d).injStart + monTime (s.mon.dies.get d).active.lowPower x.acq ≤ s.now :=
  ⟨((up .run 2000).setMon 7 fun m => { m with queue := [⟨31, 3, false, 0, none⟩] }), 7, 0, ⟨31, 3, false, 0, none⟩, [], by decide, by decide, by decide⟩
theorem witness_monSecondLatch : ∃ (s : State), s.mon.lastLatch < s.now / 100000000 * 100000000 :=
  ⟨(up .run 100000000), by decide⟩
theorem witness_monApply : ∃ (s : State) (d : Nat) (m : MonSt), s.mon.dies.get d = m ∧ s.barUp = true ∧ s.monUp d = true :=
  ⟨(up .run 0), 7, ((up .run 0).mon.dies.get 7), rfl, by decide, by decide⟩
theorem witness_monClear : ∃ (s : State) (d : Nat) (m : MonSt), s.mon.dies.get d = m ∧ s.barUp = true ∧ s.monUp d = true :=
  ⟨(up .run 0), 7, ((up .run 0).mon.dies.get 7), rfl, by decide, by decide⟩
theorem witness_monRunSet : ∃ (s : State) (d : Nat) (m : MonSt), s.mon.dies.get d = m ∧ s.barUp = true ∧ s.monUp d = true ∧ m.run = false :=
  ⟨((up .run 0).setMon 7 fun m => { m with run := false, converting := false }), 7, (((up .run 0).setMon 7 fun m => { m with run := false, converting := false }).mon.dies.get 7), rfl, by decide, by decide, by decide⟩
theorem witness_monRunClear : ∃ (s : State) (d : Nat) (m : MonSt), s.mon.dies.get d = m ∧ s.barUp = true ∧ s.monUp d = true ∧ m.run = true :=
  ⟨(up .run 0), 7, ((up .run 0).mon.dies.get 7), rfl, by decide, by decide, by decide⟩
theorem witness_sumLoRead : ∃ (s : State) (d i : Nat), s.barUp = true ∧ s.dies ≤ d ∧ i < 16 :=
  ⟨(up .run 0), 8, 15, by decide, by decide, by decide⟩
theorem witness_sumLoRead_2 : ∃ (s : State) (d i a : Nat), s.barUp = true ∧ d < s.dies ∧ i < 16 ∧ a = 0x10000 * (d + 1) + 0x3450 + 0x10 * i :=
  ⟨(up .run 0), 7, 15, _, by decide, by decide, by decide, rfl⟩
theorem witness_faultQuery : ∃ (s : State) (src : CmdSrc) (f : Fetched), s.begins .faultQuery src f none :=
  ⟨(given (desc 0x40 [(44, 64), (52, 128)]) (up .run 0)), (.ring 0), ⟨(desc 0x40 [(44, 64), (52, 128)]), 0, true⟩, ⟨by decide, by decide, by decide⟩⟩
theorem witness_faultClear : ∃ (s : State) (src : CmdSrc) (f : Fetched), s.begins .faultClear src f none :=
  ⟨(given (desc 0x41 [(4, 1)]) (up .run 0)), (.ring 0), ⟨(desc 0x41 [(4, 1)]), 0, true⟩, ⟨by decide, by decide, by decide⟩⟩
theorem witness_unitRetire : ∃ (s : State) (src : CmdSrc) (f : Fetched) (u : UnitRef), s.begins .unitRetire src f none ∧ unitOf f.desc = u :=
  ⟨(given (desc 0x42 [(4, 1), (5, 7)]) (up .run 0)), (.ring 0), ⟨(desc 0x42 [(4, 1), (5, 7)]), 0, true⟩, (unitOf (desc 0x42 [(4, 1), (5, 7)])), ⟨by decide, by decide, by decide⟩, by decide⟩
theorem witness_unitRestore : ∃ (s : State) (src : CmdSrc) (f : Fetched) (u : UnitRef) (pass : Bool), s.begins .unitRestore src f none ∧ unitOf f.desc = u :=
  ⟨(given (desc 0x43 [(4, 1), (5, 7)]) (up .run 0)), (.ring 0), ⟨(desc 0x43 [(4, 1), (5, 7)]), 0, true⟩, (unitOf (desc 0x43 [(4, 1), (5, 7)])), false, ⟨by decide, by decide, by decide⟩, by decide⟩
theorem witness_logRead : ∃ (s : State) (src : CmdSrc) (f : Fetched), s.begins .logRead src f none :=
  ⟨(given (desc 0x60 [(44, 64), (52, 112)]) (up .run 0)), (.ring 0), ⟨(desc 0x60 [(44, 64), (52, 112)]), 0, true⟩, ⟨by decide, by decide, by decide⟩⟩
theorem witness_modeSet : ∃ (s : State) (src : CmdSrc) (f : Fetched) (m target : OpMode), s.begins .modeSet src f none ∧ OpMode.ofCode (field f.desc 4 0 4) = some m ∧ target = (if m.reception then .run else m) :=
  ⟨(given (desc 0x48 [(4, 4)]) (up .run 0)), (.ring 0), ⟨(desc 0x48 [(4, 4)]), 0, true⟩, .idle, .idle, ⟨by decide, by decide, by decide⟩, by decide, by decide⟩
theorem witness_receptionEntryTick : ∃ (s : State) (c : ModeChange), s.mode.change = some c ∧ c.isExit s.mode.mode = false ∧ c.tick * 100000 ≤ s.now :=
  ⟨{ (up .idle 100000) with mode := { (up .idle 100000).mode with change := some ⟨.run, 1, .command, none⟩ } }, ⟨.run, 1, .command, none⟩, by decide, by decide, by decide⟩
theorem witness_receptionExitTick : ∃ (s : State) (c : ModeChange), s.mode.change = some c ∧ c.isExit s.mode.mode = true ∧ c.tick * 100000 ≤ s.now ∧ s.fadeRuns = false :=
  ⟨{ (up .run 100000) with mode := { (up .run 100000).mode with change := some ⟨.idle, 1, .command, none⟩ } }, ⟨.idle, 1, .command, none⟩, by decide, by decide, by decide, by decide⟩
theorem witness_attest : ∃ (s : State) (src : CmdSrc) (f : Fetched), s.begins .attest src f none :=
  ⟨(given (desc 0x50 [(44, 64), (53, 2)]) (up .run 0)), (.ring 0), ⟨(desc 0x50 [(44, 64), (53, 2)]), 0, true⟩, ⟨by decide, by decide, by decide⟩⟩
theorem witness_keyInfo : ∃ (s : State) (src : CmdSrc) (f : Fetched), s.begins .keyInfo src f none :=
  ⟨(given (desc 0x52 [(44, 64), (53, 8)]) (up .run 0)), (.ring 0), ⟨(desc 0x52 [(44, 64), (53, 8)]), 0, true⟩, ⟨by decide, by decide, by decide⟩⟩
theorem witness_hallmarkConfig : ∃ (s : State) (src : CmdSrc) (f : Fetched), s.begins .hallmarkConfig src f none :=
  ⟨(given (desc 0x51 [(4, 60), (5, 1)]) (up .run 0)), (.ring 0), ⟨(desc 0x51 [(4, 60), (5, 1)]), 0, true⟩, ⟨by decide, by decide, by decide⟩⟩
theorem witness_updateBegin : ∃ (s : State) (src : CmdSrc) (f : Fetched), s.begins .updateBegin src f none :=
  ⟨(given (desc 0x58 [(5, 2)]) (up .idle 0)), (.ring 0), ⟨(desc 0x58 [(5, 2)]), 0, true⟩, ⟨by decide, by decide, by decide⟩⟩
theorem witness_updateChunk : ∃ (s : State) (src : CmdSrc) (f : Fetched) (buf : Option (List Byte)) (ok : Bool), s.begins .updateChunk src f buf :=
  ⟨(given (desc 0x59 [(44, 64), (52, 4), (53, 0), (56, 199), (57, 75), (58, 103), (59, 72)]) { (up .update 0) with sec := { (up .run 0).sec with update := some { slotB := true, len := 512, digest := [], from_ := .idle } } }), (.ring 0), ⟨(desc 0x59 [(44, 64), (52, 4), (53, 0), (56, 199), (57, 75), (58, 103), (59, 72)]), 0, true⟩, (some [0, 0, 0, 0]), true, ⟨by decide, by decide, by decide⟩⟩
theorem witness_updateFinish : ∃ (s : State) (src : CmdSrc) (f : Fetched) (u : UpdateSt), s.begins .updateFinish src f none ∧ s.sec.update = some u :=
  ⟨(given (desc 0x5A []) { (up .update 0) with sec := { (up .run 0).sec with update := some { slotB := true, len := 512, digest := [], from_ := .idle } } }), (.ring 0), ⟨(desc 0x5A []), 0, true⟩, { slotB := true, len := 512, digest := [], from_ := .idle }, ⟨by decide, by decide, by decide⟩, by decide⟩
theorem witness_antiRollbackRaise : ∃ (s : State), s.sec.stage = .done ∧ s.mode.mode ≠ .recovery ∧ s.mode.mode ≠ .halted ∧ s.mode.mode ≠ .off ∧ s.sec.bootedAt + 86400 * 100000000 ≤ s.now ∧ s.nv.sec.rollback < s.sec.fwLevel :=
  ⟨{ (up .run 8640000000000) with sec := { (up .run 0).sec with fwLevel := 1 } }, by decide, by decide, by decide, by decide, by decide, by decide⟩
theorem witness_hallmarkIntervalEnd : ∃ (s : State) (a : HallAcc) (stop : Nat) (ls : List (List Byte)), s.sec.hall.cut = none ∧ s.sec.hall.acc = some a ∧ s.mode.mode.sealing = true ∧ stop = s.sec.hall.endOf a.start ∧ stop ≤ s.now ∧ ls = s.leaves (a.upTo stop) stop :=
  ⟨{ (up .run 1000000000) with sec := { hall := { acc := some { start := 0, genStart := 0 } } } }, { start := 0, genStart := 0 }, _, _, by decide, by decide, by decide, rfl, by decide, rfl⟩
theorem witness_hallmarkIntervalEnd_2 : ∃ (s u : State) (a : HallAcc) (stop : Nat) (step : Int), s.sec.hall.cut = some (a, stop, step) ∧ s.mode.mode.sealing = true ∧ u = s.setHall (fun h => { h with cut := none }) :=
  ⟨{ (up .run 1000000000) with sec := { hall := { cut := some ({ start := 0, genStart := 0 }, 5, -5) } } }, _, { start := 0, genStart := 0 }, 5, (-5), by decide, by decide, rfl⟩
theorem witness_hallmarkIntervalEnd_3 : ∃ (s : State), s.sec.hall.cut = none ∧ s.sec.hall.acc = none ∧ s.sec.hall.next_ = none ∧ s.sec.hall.enable = true ∧ s.mode.mode.sealing = true ∧ s.sec.hall.startDue ≤ s.now / s.sec.hall.counts * s.sec.hall.counts :=
  ⟨{ (up .run 1000000000) with sec := { hall := { enable := true } } }, by decide, by decide, by decide, by decide, by decide, by decide⟩
theorem witness_hallmarkKeyRotation : ∃ (s : State) (k : HallKey) (a : HallAcc), s.sec.hall.key = some k ∧ s.sec.hall.acc = some a ∧ k.since + 86400 * 100000000 ≤ a.start ∧ s.sec.hall.erased = false :=
  ⟨{ (up .run 0) with sec := { hall := { acc := some { start := 8640000000000, genStart := 0 }, key := some ⟨0, [], 0, []⟩ } } }, ⟨0, [], 0, []⟩, { start := 8640000000000, genStart := 0 }, by decide, by decide, by decide, by decide⟩
theorem witness_debugChallengeRead : ∃ (s : State) (level : Nat), s.sec.debugLocked = false ∧ s.mode.mode ≠ .off :=
  ⟨(up .run 0), 2, by decide, by decide⟩
theorem witness_debugResponseWrite : ∃ (s : State) (r : List Byte) (level : Nat), s.sec.debugLocked = false ∧ s.mode.mode ≠ .off ∧ level = (s.sec.challenge.map (·.level)).getD 0 :=
  ⟨(up .run 0), [], 0, by decide, by decide, by decide⟩
theorem witness_sramSingleBitError : ∃ (s : State) (d array row word : Nat), s.dieUp d = true ∧ array < 112 ∧ s.mode.mode ≠ .off :=
  ⟨(up .run 0), 7, 111, 0, 0, by decide, by decide, by decide⟩
theorem witness_sramUncorrectable : ∃ (s : State) (d word : Nat) (o : SramOwner), s.dieUp d = true ∧ s.mode.mode ≠ .off ∧ s.mode.mode ≠ .halted :=
  ⟨(up .run 0), 7, 0, .controlMemory, by decide, by decide, by decide⟩
theorem witness_planishPassStart : ∃ (s : State) (d : Nat), s.dieUp d = true ∧ s.domainReady d 0 = true ∧ s.mode.mode ≠ .boot ∧ s.mode.mode ≠ .recovery ∧ (s.integ.dies.get d).passRunning = false ∧ s.now % 800000000 = 0 :=
  ⟨(up .run 800000000), 7, by decide, by decide, by decide, by decide, by decide, by decide⟩
theorem witness_planishPassComplete : ∃ (s : State) (d : Nat), s.dieUp d = true ∧ (s.integ.dies.get d).passRunning = true :=
  ⟨((up .run 0).setDieInteg 7 fun x => { x with passRunning := true }), 7, by decide, by decide⟩
theorem witness_backgroundTaskAgeing : ∃ (s : State) (x : Task) (overdue isOver : Bool) (a b : Nat), s.taskTimes x = some (a, b) ∧ s.mode.mode ≠ .off ∧ a ≤ s.now ∧ isOver = s.taskOver x overdue b ∧ ((isOver = true → s.taskAge x ≠ 2)) ∧ ((isOver = false → s.taskAge x = 0)) :=
  ⟨((up .run 600000000).setDieInteg 7 fun x => { x with passRunning := true }), (.planish 7), false, false, 600000000, 700000000, by decide, by decide, by decide, by decide, by decide, by decide⟩
theorem witness_flashRefresh : ∃ (s : State) (fails : Bool), s.mode.mode ≠ .off :=
  ⟨(up .run 0), true, by decide⟩
theorem witness_lastingRuleWrite : ∃ (s : State) (i v : Nat), s.barUp = true ∧ i < 7 :=
  ⟨(up .run 0), 6, 0, by decide, by decide⟩
theorem witness_faultLogWrite : ∃ (s : State) (fails : Bool) (ev : Ev) (rest : List Ev), s.integ.logWaiting = ev :: rest ∧ s.mode.mode ≠ .off :=
  ⟨{ (up .run 0) with integ := { (up .run 0).integ with logWaiting := [⟨.pllUnlock, 7, 0, 0, []⟩] } }, false, ⟨.pllUnlock, 7, 0, 0, []⟩, [], by decide, by decide⟩
theorem witness_logSuppressed : ∃ (s : State) (code : Nat), s.now % 6000000000 = 0 :=
  ⟨(up .run 6000000000), 0, by decide⟩
theorem witness_flitCrcError : ∃ (s : State) (d dir bad rep : Nat) (lanes : List Nat) (consecutive replayed : Bool), d < s.dies ∧ dir < 2 ∧ s.domainReady d 1 = true ∧ bad = (if consecutive then (s.linkDir d dir).badRun + 1 else 1) ∧ rep = (if replayed then (s.linkDir d dir).replayFails + 1 else 0) :=
  ⟨(up .run 0), 7, 1, 1, 0, [], false, false, by decide, by decide, by decide, by decide, by decide⟩
theorem witness_linkProbe : ∃ (s : State) (d dir : Nat) (trained : Bool), d < s.dies ∧ dir < 2 ∧ (s.linkDir d dir).failed = true ∧ (s.linkDir d dir).cleanSince = none ∧ (s.linkDir d dir).probeAt + 1000000000 ≤ s.now :=
  ⟨((up .run 1000000000).setLink 7 1 fun l => { l with failed := true }), 7, 1, true, by decide, by decide, by decide, by decide, by decide⟩
theorem witness_linkRestored : ∃ (s : State) (d dir since : Nat), d < s.dies ∧ dir < 2 ∧ (s.linkDir d dir).failed = true ∧ (s.linkDir d dir).cleanSince = some since ∧ since + 100000000 ≤ s.now :=
  ⟨((up .run 100000000).setLink 7 1 fun l => { l with failed := true, cleanSince := some 0 }), 7, 1, 0, by decide, by decide, by decide, by decide, by decide⟩
theorem witness_linkReceiverLockLoss : ∃ (s : State) (d dir : Nat), d < s.dies ∧ dir < 2 ∧ s.mode.mode ≠ .off :=
  ⟨(up .run 0), 7, 1, by decide, by decide, by decide⟩
theorem witness_mbWriteTransaction : ∃ (s : State) (addr : Nat) (bytes : List Byte), s.mbUp = true ∧ addr = s.mbAddr :=
  ⟨(up .run 0), 0x4C, [], by decide, by decide⟩
theorem witness_mbReadTransaction : ∃ (s : State) (addr : Nat) (hdr : List Byte) (ackLast sda scl : Bool), s.mbUp = true ∧ addr = s.mbAddr :=
  ⟨(up .run 0), 0x4C, [], true, false, false, by decide, by decide⟩
theorem witness_mbWake : ∃ (s : State) (byte : Byte), s.mode.mode = .sleep ∧ s.mode.clocksRun = false ∧ byte.toNat / 2 = s.mbAddr :=
  ⟨{ (up .sleep 0) with mode := { (up .sleep 0).mode with clocksRun := false } }, 0x99, by decide, by decide, by decide⟩
theorem witness_mbSleepClockStop : ∃ (s : State), s.mode.mode = .sleep ∧ s.mb.awake = true ∧ s.mb.lastTransaction + 100000000 ≤ s.now :=
  ⟨((up .sleep 100000000).setMb fun m => { m with awake := true }), by decide, by decide, by decide⟩
theorem witness_mbTargetTimeout : ∃ (s : State) (pointer received : Nat) (write : Bool), s.mbUp = true ∧ s.mb.timeoutEn = true :=
  ⟨(up .run 0), 0, 0, true, by decide, by decide⟩
theorem witness_mbControllerGo : ∃ (s : State) (v : Nat) (stuck freed : Bool), s.barUp = true ∧ v / 1048576 % 2 = 1 ∧ s.mb.go = false ∧ s.mb.goWaiting = false :=
  ⟨(up .run 0), 1048576, false, false, by decide, by decide, by decide, by decide⟩
theorem witness_mbControllerGo_2 : ∃ (s : State) (stuck freed : Bool), s.mbUp = true ∧ s.mb.goWaiting = true ∧ s.mb.target = none :=
  ⟨((up .run 0).setMb fun m => { m with go := true, goWaiting := true }), true, true, by decide, by decide, by decide⟩
theorem witness_mbArbitrationLost : ∃ (s : State) (byte : Option Byte), s.mb.ctrlBusy = true :=
  ⟨((up .run 0).setMb fun m => { m with go := true, ctrlBusy := true }), none, by decide⟩
theorem witness_mbControllerDone : ∃ (s : State) (ack : BusAck) (data : List Byte) (pec : Byte), s.mb.ctrlBusy = true :=
  ⟨((up .run 0).setMb fun m => { m with go := true, ctrlBusy := true }), .all, [], 0, by decide⟩
theorem witness_mbControllerTimeout : ∃ (s : State), s.mb.ctrlBusy = true ∧ s.mb.timeoutEn = true :=
  ⟨((up .run 0).setMb fun m => { m with go := true, ctrlBusy := true }), by decide, by decide⟩
theorem witness_mbTimingWrite : ∃ (s : State) (v : Nat), s.barUp = true :=
  ⟨(up .run 0), 0, by decide⟩
theorem witness_mbErrorsReport : ∃ (s : State), s.mode.mode ≠ .off ∧ s.now % 100000000 = 0 ∧ s.mb.rises ≠ {} :=
  ⟨((up .run 0).setMb fun m => { m with rises := { pecErrors := 1 } }), by decide, by decide, by decide⟩
theorem witness_mboxGo : ∃ (s : State), s.mbUp = true :=
  ⟨(up .run 0), by decide⟩
theorem witness_mboxComplete : ∃ (s : State) (c : List Byte), s.mb.mboxDue = some c :=
  ⟨((up .run 0).setMb fun m => { m with mboxDue := some [] }), [], by decide⟩
theorem witness_alertLatchedClear : ∃ (s : State), s.barUp = true :=
  ⟨(up .run 0), by decide⟩
theorem witness_wakeLatchedClear : ∃ (s : State), s.barUp = true :=
  ⟨(up .run 0), by decide⟩
theorem witness_sleepClockStop : ∃ (s : State), s.mode.mode = .sleep ∧ s.mode.clocksRun = true ∧ ((∀ src, s.execOf src = none)) ∧ s.mb.mboxCmd = none ∧ s.mode.lastAccess + 100000000 ≤ s.now ∧ s.mb.lastTransaction + 100000000 ≤ s.now :=
  ⟨(up .sleep 100000000), by decide, by decide, by intro src; cases src <;> rfl, by decide, by decide, by decide⟩
theorem witness_sleepWakeAccess : ∃ (s : State), s.mode.mode = .sleep ∧ s.mode.clocksRun = false :=
  ⟨{ (up .sleep 0) with mode := { (up .sleep 0).mode with clocksRun := false } }, by decide, by decide⟩
theorem witness_registerWrite : ∃ (s : State) (r : RegTarget) (v : Nat), s.mode.mode ≠ .off ∧ ((∀ o, r ≠ .bar0 o)) :=
  ⟨(up .run 0), .msixEnable, 1, by decide, by intro o h; cases h⟩
theorem witness_registerWrite_2 : ∃ (s : State) (o v : Nat), s.barUp = true ∧ o % 4 = 0 ∧ o < 0x10000 :=
  ⟨(up .run 0), 0xFFFC, 0, by decide, by decide, by decide⟩
theorem witness_registerWrite_3 : ∃ (s : State) (d o v : Nat), s.barUp = true ∧ o % 4 = 0 ∧ o < 0x10000 ∧ s.dieUp d = true :=
  ⟨(up .run 0), 7, 0xFFFC, 0, by decide, by decide, by decide, by decide⟩
theorem witness_readAbsent : ∃ (s : State) (o : Nat), 0x10000 * (s.dies + 1) ≤ o :=
  ⟨(up .run 0), 0x90000, by decide⟩
theorem witness_syncSkewReadBack : ∃ (s : State) (v : Nat), s.barUp = true ∧ 65535 < v :=
  ⟨(up .run 0), 4294967295, by decide, by decide⟩
theorem witness_calControlReadBack : ∃ (s : State) (v : Nat), s.barUp = true ∧ 1 ≤ v % 2048 ∧ v % 2048 ≤ 1440 :=
  ⟨(up .run 0), 1440, by decide, by decide, by decide⟩
theorem witness_toneReadBack : ∃ (s : State) (k v : Nat), s.barUp = true ∧ k < 8 ∧ k < s.cal.tones.length :=
  ⟨(up .run 0), 7, 0x18000, by decide, by decide, by decide⟩
theorem witness_monControlReadBack : ∃ (s : State) (d v : Nat), s.barUp = true ∧ s.dieUp d = true ∧ (s.mon.dies.get d).run = true ∧ (s.mon.dies.get d).applyPending = false ∧ (s.mon.dies.get d).clearPending = false :=
  ⟨(up .run 0), 7, 511, by decide, by decide, by decide, by decide, by decide⟩
theorem witness_mbReadTransaction_2 : ∃ (s : State) (hdr : List Byte) (p n : Nat) (ackLast sda scl : Bool), s.mode.mode ≠ .off ∧ ((s.mode.mode = .sleep → s.mode.clocksRun = true)) ∧ mbHeader hdr = some (p, n, true) :=
  ⟨(up .run 0), [0xFF, 0x0F, 0xA0], 0x0FFF, 32, true, false, false, by decide, by decide, by decide⟩
theorem witness_mbWake_2 : ∃ (s : State) (b : Byte), s.mode.mode = .sleep ∧ s.mode.clocksRun = false ∧ b.toNat / 2 = s.mbAddr :=
  ⟨{ (up .sleep 0) with mode := { (up .sleep 0).mode with clocksRun := false } }, 0x98, by decide, by decide, by decide⟩
theorem witness_mbReadTransaction_3 : ∃ (s : State) (addr : Nat) (hdr bytes : List Byte) (ackLast sda scl : Bool), s.mode.mode = .off :=
  ⟨(State.reset.offState { perstHigh := false }), 0x4C, [], [], true, false, false, by decide⟩

/-! ### Single commands -/

/-- A reset package that holds lane 7 of cluster 2 of die 3 in its retirement record, and die 5 fenced. -/
def marked : State :=
  { up .run 0 with nv := { State.reset.nv with retired := [laneRef 119] }, integ := { State.reset.integ with fenced := [5] } }

/-- What a command leaves. -/
def after (c : Instr) (s : State) : State :=
  match exec c s with
  | .next t => t
  | _ => s

theorem witness_retirementKept : ∃ (c : Instr) (s t : State) (u : UnitRef), exec c s = .next t ∧ s.retired u = true :=
  ⟨.monApply 7, marked, after (.monApply 7) marked, laneRef 119, rfl, by decide⟩
theorem witness_systimeMovers : ∃ (c : Instr) (s t : State), exec c s = .next t :=
  ⟨.monApply 7, marked, after (.monApply 7) marked, rfl⟩
theorem witness_fencesKept : ∃ (c : Instr) (s t : State) (d : Nat), exec c s = .next t ∧ s.integ.fenced.contains d = true :=
  ⟨.monApply 7, marked, after (.monApply 7) marked, 5, rfl, by decide⟩
theorem witness_configurationMovers : ∃ (c : Instr) (s t : State), exec c s = .next t :=
  ⟨.lastingRuleWrite 6 0, marked, after (.lastingRuleWrite 6 0) marked, rfl⟩

/-- SYSTIME wraps within its 64 bits as the block idles. -/
theorem test_idle_counts : (idle (up .run (2 ^ 64 - 1))).time.systime = 0 := by decide
/-- A lane index of 128 on a PD4128 is beyond the part (00 R8). -/
theorem test_pd4128_lane_128 :
    ({ given (desc 0x10 [(4, 128)]) (up .run 0) with part := .pd4128 }).refuse .stageLane (.ring 0) ⟨desc 0x10 [(4, 128)], 0, true⟩ none = some (.notInConfig, 0) := by
  decide
/-- NOP with a parameter byte that is not 0 (11 R315). -/
theorem test_nop_bad_param :
    (given (desc 0x01 [(4, 1)]) (up .run 0)).refuse .nop (.ring 0) ⟨desc 0x01 [(4, 1)], 0, true⟩ none = some (.badParam, 4) := by decide

end Sys2Proof.Tests
end

section
/-!
PROOFS. The ring's paths: what `risingPath`, `fallingPath` and `ringPath` are, link by link, and the direction that traffic takes (01 R21).
-/
namespace Sys2Proof.Machine

@[simp] theorem risingPath_length (n a b : Nat) : (risingPath n a b).length = (b + n - a) % n := by
  simp only [risingPath, List.length_map, List.length_range]

@[simp] theorem fallingPath_length (n a b : Nat) : (fallingPath n a b).length = (a + n - b) % n := by
  simp only [fallingPath, List.length_map, List.length_range]

/-- A rising path leaves each die on its way, in rising order from the source, by its rising link. -/
theorem risingPath_getD {n a b i : Nat} (d : Nat) (hi : i < (b + n - a) % n) :
    (risingPath n a b).getD i d = (a + i) % n * 2 := by
  simp only [risingPath, List.getD_eq_getElem?_getD, List.getElem?_map, List.getElem?_range hi,
    Option.map_some, Option.getD_some]

/-- A falling path leaves each die on its way, in falling order from the source, by its falling link. -/
theorem fallingPath_getD {n a b i : Nat} (d : Nat) (hi : i < (a + n - b) % n) :
    (fallingPath n a b).getD i d = (a + n - i) % n * 2 + 1 := by
  simp only [fallingPath, List.getD_eq_getElem?_getD, List.getElem?_map, List.getElem?_range hi,
    Option.map_some, Option.getD_some]

/-- Where neither direction meets a dead link, distance alone decides; a tie goes to the rising direction. -/
theorem ringPath_of_clear {n a b : Nat} {dead : List Nat}
    (hup : (risingPath n a b).any dead.contains = false) (hdown : (fallingPath n a b).any dead.contains = false) :
    ringPath n a b dead =
      if (b + n - a) % n ≤ (a + n - b) % n then risingPath n a b else fallingPath n a b := by
  simp only [ringPath, hup, hdown, risingPath_length, fallingPath_length, Bool.not_false, if_true]

/-- No path meets a dead link where no link is dead. -/
theorem any_contains_nil (p : List Nat) : p.any ([] : List Nat).contains = false :=
  List.any_eq_false.mpr fun _ _ h => nomatch h

/-- Settles O45: with no dead link `ringPath` compares the two distances, and each path is its die-by-die list. -/
theorem ringDirection : Obligations.RingDirection := by
  intro p s t _ _
  exact ⟨risingPath_length .., fallingPath_length ..,
    ringPath_of_clear (any_contains_nil _) (any_contains_nil _),
    fun _ hi => risingPath_getD 0 hi, fun _ hi => fallingPath_getD 0 hi⟩

end Sys2Proof.Machine
end

section
/-!
PROOFS. The management bus: when its target answers, and what the resets of the link's function leave of it (16 R416).
-/
namespace Sys2Proof.Machine

/-! ### When the target answers -/

theorem mbUp_iff (s : State) :
    s.mbUp = true ↔ s.mode.mode ≠ .off ∧ (s.mode.mode = .sleep → s.mode.clocksRun = true) := by
  simp only [State.mbUp, Bool.and_eq_true, Bool.or_eq_true, bne_iff_ne, ne_eq, Decidable.imp_iff_not_or]

theorem mbUp_of_off {s : State} (h : s.mode.mode = .off) : s.mbUp = false :=
  Bool.eq_false_iff.mpr fun hup => ((mbUp_iff s).mp hup).1 h

theorem onlyIf_of_true {c : Bool} {s t : State} (h : c = true) : onlyIf c s t = .next t := by rw [h]; rfl

theorem onlyIf_of_false {c : Bool} {s t : State} (h : c = false) : onlyIf c s t = .next s := by rw [h]; rfl

/-- The state whose window a read returns, with the levels of the lines as its snapshot took them (R420). -/
def mbSnapshot (sda scl : Bool) (s : State) : State := mbStop (s.setMb fun m => { m with sdaLow := sda, sclLow := scl })

theorem mbSnapshot_link (sda scl : Bool) (s : State) : (mbSnapshot sda scl s).link = s.link := rfl

/-- The `n` bytes of the management window from pointer `p` on. -/
def State.mbRange (s : State) (p n : Nat) : List Byte := (List.range n).map fun i => s.mbByte (p + i)

theorem State.mbRange_length (s : State) (p n : Nat) : (s.mbRange p n).length = n := by
  rw [State.mbRange, List.length_map, List.length_range]

/-- A read with an acknowledged header, addressed to a target that answers, sends the range it asks for, with its PEC byte unless the last data byte is not acknowledged (R417, R418). -/
theorem exec_mbReadTransaction_of_up {s : State} {hdr : List Byte} {p n : Nat} (ackLast sda scl : Bool)
    (hup : s.mbUp = true) (hh : mbHeader hdr = some (p, n, true)) :
    exec (.mbReadTransaction s.mbAddr hdr ackLast sda scl) s =
      let data := (mbSnapshot sda scl s).mbRange p n
      let pec := pecOf (addrByte s.mbAddr false :: hdr ++ addrByte s.mbAddr true :: data)
      .next (send (.mbRead data (if ackLast then some pec else none)) (mbSnapshot sda scl s)) := by
  have hgo : (s.mbUp && s.mbAddr == s.mbAddr) = true := by rw [hup, beq_self_eq_true, Bool.and_self]
  refine (onlyIf_of_true hgo).trans ?_
  rw [hh]
  rfl

theorem mbReadTransaction_answers {s : State} {hdr : List Byte} {p n : Nat} (ackLast sda scl : Bool)
    (hup : s.mbUp = true) (hh : mbHeader hdr = some (p, n, true)) :
    ∃ t data pec, exec (.mbReadTransaction s.mbAddr hdr ackLast sda scl) s = .next t ∧ data.length = n
      ∧ t.link.sent = s.link.sent ++ [.mbRead data pec] :=
  ⟨_, _, _, exec_mbReadTransaction_of_up ackLast sda scl hup hh, State.mbRange_length .., by rw [send, mbSnapshot_link]⟩

/-- A matching address byte starts the clocks of SLEEP; the mode and the address stay (R428). -/
theorem mbWake_starts_clocks {s : State} {b : Byte} (hm : s.mode.mode = .sleep) (hc : s.mode.clocksRun = false)
    (ha : b.toNat / 2 = s.mbAddr) :
    ∃ t, exec (.mbWake b) s = .next t ∧ t.mode.mode = .sleep ∧ t.mode.clocksRun = true ∧ t.mbAddr = s.mbAddr := by
  have hgo : (decide (s.mode.mode = .sleep) && !s.mode.clocksRun && b.toNat / 2 == s.mbAddr) = true := by
    simp only [hm, hc, ha, decide_true, Bool.not_false, beq_self_eq_true, Bool.and_self]
  refine ⟨_, onlyIf_of_true hgo, ?_, ?_, ?_⟩
  · rw [raise_mode]; exact hm
  · rw [raise_mode]
  · simp only [State.mbAddr, raise_keeps]

/-- In OFF the target takes no transaction. -/
theorem mbTransactions_of_off {s : State} (h : s.mode.mode = .off) (addr : Nat) (hdr bytes : List Byte) (ackLast sda scl : Bool) :
    exec (.mbReadTransaction addr hdr ackLast sda scl) s = .next s ∧ exec (.mbWriteTransaction addr bytes) s = .next s := by
  have hno : (s.mbUp && addr == s.mbAddr) = false := by rw [mbUp_of_off h, Bool.false_and]
  exact ⟨onlyIf_of_false hno, onlyIf_of_false hno⟩

/-! ### What outlives the link -/

/-- The bus is as it was: its registers and mailbox, its address, whether it answers. -/
def BusKept (s t : State) : Prop := t.mb = s.mb ∧ t.mbAddr = s.mbAddr ∧ t.mbUp = s.mbUp

namespace BusKept

theorem refl (s : State) : BusKept s s := ⟨rfl, rfl, rfl⟩

theorem trans {s t u : State} (h : BusKept s t) (k : BusKept t u) : BusKept s u := by
  obtain ⟨hmb, haddr, hup⟩ := h
  obtain ⟨kmb, kaddr, kup⟩ := k
  exact ⟨kmb.trans hmb, kaddr.trans haddr, kup.trans hup⟩

/-- A frame without the bus and the straps, that keeps the mode code and the clocks, keeps the bus: the straps give its address, the mode and the clocks whether it answers. -/
theorem of_only {as : List Aspect} {s t : State} (h : Only as s t) (hmb : as.contains .mb = false) (hpins : as.contains .pins = false)
    (hmode : t.mode.mode = s.mode.mode) (hclocks : t.mode.clocksRun = s.mode.clocksRun) : BusKept s t := by
  have kpins : t.pins = s.pins := h .pins hpins
  refine ⟨h .mb hmb, ?_, ?_⟩
  · rw [State.mbAddr, State.mbAddr, kpins]
  · rw [State.mbUp, State.mbUp, hmode, hclocks]

/-- An update of the host link alone. -/
theorem of_link (s : State) (l : LinkSt) : BusKept s { s with link := l } := ⟨rfl, rfl, rfl⟩

/-- Whether or not the event can occur. -/
theorem onlyIf {c : Bool} {s t : State} (h : BusKept s t) : ∃ u, onlyIf c s t = .next u ∧ BusKept s u := by
  cases c with
  | true => exact ⟨t, rfl, h⟩
  | false => exact ⟨s, rfl, refl s⟩

end BusKept

theorem resetFunction_clocksRun (s : State) : (resetFunction s).mode.clocksRun = s.mode.clocksRun := by
  rw [resetFunction]

theorem resetFunction_busKept (s : State) : BusKept s (resetFunction s) :=
  .of_only (resetFunction_only s) rfl rfl (resetFunction_facts s).1 (resetFunction_clocksRun s)

theorem raise_busKept (n : EvName) (origin : Nat) (args : List EvArg) (s : State) : BusKept s (raise n origin args s) :=
  .of_only (raise_only n origin args s) rfl rfl (congrArg _ (raise_mode ..)) (congrArg _ (raise_mode ..))

theorem pcieReset_busKept (s : State) : ∃ t, exec .pcieReset s = .next t ∧ BusKept s t :=
  (resetFunction_busKept s).onlyIf

theorem linkState_busKept (s : State) (up : Bool) (width rate : Nat) :
    ∃ t, exec (.linkState up width rate) s = .next t ∧ BusKept s t := by
  have hraise : ∀ l args, BusKept s (raise .linkState pkg args { s with link := l }) :=
    fun l _ => (BusKept.of_link s l).trans (raise_busKept ..)
  cases up with
  | true => exact (hraise _ _).onlyIf
  | false => exact ((hraise _ _).trans (resetFunction_busKept _)).onlyIf

/-- Settles O60: `mbUp` is what a transaction is gated on, and no reset of the link's function touches what it and the address are made of. -/
theorem busUntouched : Obligations.BusUntouched :=
  ⟨fun s _ _ _ ackLast sda scl hoff hsleep hh => mbReadTransaction_answers ackLast sda scl ((mbUp_iff s).mpr ⟨hoff, hsleep⟩) hh,
    fun _ _ => mbWake_starts_clocks,
    fun _ addr hdr bytes ackLast sda scl h => mbTransactions_of_off h addr hdr bytes ackLast sda scl,
    pcieReset_busKept, linkState_busKept⟩

end Sys2Proof.Machine
end

section
/-!
PROOFS. Ring enables in BOOT: the write is a host access that puts the ring back as it stands (17 R451).
-/
namespace Sys2Proof.Machine

theorem hostAccess_modeCode (s : State) : (hostAccess s).mode.mode = s.mode.mode := rfl

/-- A ring update that leaves ring `r` as it is leaves every ring as it is. -/
theorem setRing_rings_of_fixed {s : State} {r : Nat} {f : Ring → Ring}
    (hf : f (s.link.rings.get r) = s.link.rings.get r) (i : Nat) :
    (s.setRing r f).link.rings.get i = s.link.rings.get i := by
  by_cases hi : i = r
  · rw [hi, State.setRing_self, hf]
  · exact State.setRing_of_ne s r f hi

/-- What an ignored ENABLE may do: count as a host access, with the mode code, what was sent and every ring as they were. -/
def EnableIgnored (s t : State) : Prop :=
  Only [.link, .mode] s t ∧ t.mode.mode = s.mode.mode ∧ t.link.sent = s.link.sent
    ∧ ∀ i, t.link.rings.get i = s.link.rings.get i

namespace EnableIgnored

theorem refl (s : State) : EnableIgnored s s := ⟨Only.refl _ s, rfl, rfl, fun _ => rfl⟩

/-- A host access that puts ring `r` back. -/
theorem of_ring_put_back (s : State) (r : Nat) :
    EnableIgnored s ((hostAccess s).setRing r fun _ => s.link.rings.get r) :=
  ⟨(State.setRing_only _ r _).andThen rfl ((hostAccess_only s).mono rfl),
    by simp only [State.setRing_keeps, hostAccess_modeCode],
    setRing_sent (hostAccess s) r _, fun i => setRing_rings_of_fixed rfl i⟩

end EnableIgnored

/-- In BOOT a write that sets ENABLE, where it is taken at all, puts the ring back whatever the fields of its word say. -/
theorem execRingEnable_of_boot {s : State} (hboot : s.mode.mode = .boot) (r v : Nat) :
    execRingEnable r v s =
      onlyIf (s.barUp && decide (r < 96) && !(s.link.rings.get r).enable && maskBit v 5) s
        ((hostAccess s).setRing r fun _ => s.link.rings.get r) := by
  simp only [execRingEnable, if_pos hboot]

theorem ringEnable_ignored_of_boot {s : State} (hboot : s.mode.mode = .boot) (r v : Nat) :
    ∃ t, exec (.ringEnable r v) s = .next t ∧ EnableIgnored s t := by
  have hexec := execRingEnable_of_boot hboot r v
  cases htaken : s.barUp && decide (r < 96) && !(s.link.rings.get r).enable && maskBit v 5 with
  | true => exact ⟨_, hexec.trans (onlyIf_of_true htaken), .of_ring_put_back s r⟩
  | false => exact ⟨s, hexec.trans (onlyIf_of_false htaken), .refl s⟩

/-- Settles O41: in BOOT the ring that a taken ENABLE writes back is the ring that stood there. -/
theorem enableBeforeBootEnds : Obligations.EnableBeforeBootEnds := by
  intro s r v hboot _
  obtain ⟨t, hexec, honly, hmode, hsent, hrings⟩ := ringEnable_ignored_of_boot hboot r v
  exact ⟨t, hexec, honly, hmode.trans hboot, hsent, hrings⟩

end Sys2Proof.Machine
end

section
/-!
PROOFS. What no command touches but those that say so: the frame of every command, and the rules of the whole machine that follow from it.
-/
namespace Sys2Proof.Machine

/-! ### The frame of every command -/

/-- The parts of the state that commands change without a rule of the whole machine standing over it. -/
def commonAspects : List Aspect :=
  [.time, .ref, .clk, .spans, .front, .taps, .lanes, .ofdm, .audio, .ports, .link, .cfg, .cal, .mon, .integ, .mode, .domains, .mb, .sec, .nv,
    .freeCount, .shadow, .modeCode, .firmware, .events]

/-- What a command may change beyond the common parts: each guarded part has few commands that move it. -/
def movesOf : Instr → List Aspect
  | .perstNRelease .. | .perstNAssert | .suppliesAbsent =>
    [.pins, .systime, .spread, .levelInterval, .busTiming, .fences, .committed, .rules, .debugLevel]
  | .syncEdgeArmed => [.systime]
  | .clkCtrlWrite _ => [.spread]
  | .registerWrite .. => [.levelInterval]
  | .mbWriteTransaction .. | .mbTimingWrite _ => [.busTiming]
  | .configSwap _ => [.committed]
  | .lastingRuleWrite .. => [.rules]
  | .debugResponseWrite _ => [.debugLevel]
  | .unitRestore .. | .assayStep _ | .assayKatEnd .. | .coverStart .. | .levelStepStart _ | .crossAssayCompareEnd .. | .engineKatVectors ..
  | .sliceRotationStep _ | .shadowPhaseEnd .. | .fastCheckTrip .. => [.retirement]
  | _ => []

/-- Every command answers a next state, and beyond the common parts it changes only what `movesOf` names. -/
theorem exec_frames (c : Instr) (s : State) : Frames (movesOf c ++ commonAspects) s (exec c s) :=
  match c with
  | .perstNRelease .. => (execPerstNRelease_frames ..).mono rfl
  | .perstNAssert => (execPerstNAssert_frames ..).mono rfl
  | .suppliesAbsent => (execSuppliesAbsent_frames ..).mono rfl
  | .romCheckDone .. => (execRomCheckDone_frames ..).mono rfl
  | .imageCheckDone => (execImageCheckDone_frames ..).mono rfl
  | .dieLoadDone => (execDieLoadDone_frames ..).mono rfl
  | .dieSelfTestDone .. => (execDieSelfTestDone_frames ..).mono rfl
  | .bootComplete => (execBootComplete_frames ..).mono rfl
  | .domainRampDone .. => (execDomainRampDone_frames ..).mono rfl
  | .domainInService .. => (execDomainInService_frames ..).mono rfl
  | .supplyTrip .. => (execSupplyTrip_frames ..).mono rfl
  | .lockstepDisagreement .. => (execLockstepDisagreement_frames ..).mono rfl
  | .refinLoss => (execRefinLoss_frames ..).mono rfl
  | .rootLossAtDie .. => (execRootLossAtDie_frames ..).mono rfl
  | .lossOfLock .. => (execLossOfLock_frames ..).mono rfl
  | .relockAttempt .. => (execRelockAttempt_frames ..).mono rfl
  | .relockAttemptFailed .. => (execRelockAttemptFailed_frames ..).mono rfl
  | .refinReturn .. => (execRefinReturn_frames ..).mono rfl
  | .pllRelock .. => (execPllRelock_frames ..).mono rfl
  | .refReturnTimeout => (execRefReturnTimeout_frames ..).mono rfl
  | .sampDriftEval .. => (execSampDriftEval_frames ..).mono rfl
  | .sysDriftEval .. => (execSysDriftEval_frames ..).mono rfl
  | .coreRestored .. => (execCoreRestored_frames ..).mono rfl
  | .systimeCompare .. => (execSystimeCompare_frames ..).mono rfl
  | .replicaReload .. => (execReplicaReload_frames ..).mono rfl
  | .syncEdgeArmed => (execSyncEdgeArmed_frames ..).mono rfl
  | .syncEdgeUnarmed => (execSyncEdgeUnarmed_frames ..).mono rfl
  | .syncLost => (execSyncLost_frames ..).mono rfl
  | .ppsEdge .. => (execPpsEdge_frames ..).mono rfl
  | .ppsLost => (execPpsLost_frames ..).mono rfl
  | .hopLock .. => (execHopLock_frames ..).mono rfl
  | .hopStoredBandTimeout .. => (execHopStoredBandTimeout_frames ..).mono rfl
  | .hopSearchTimeout .. => (execHopSearchTimeout_frames ..).mono rfl
  | .dividerRephase .. => (execDividerRephase_frames ..).mono rfl
  | .hopWaitTimeout .. => (execHopWaitTimeout_frames ..).mono rfl
  | .fastCheckTrip .. => (execFastCheckTrip_frames ..).mono rfl
  | .checkWindowEnd .. => (execCheckWindowEnd_frames ..).mono rfl
  | .shadowAttributionEnd .. => (execShadowAttributionEnd_frames ..).mono rfl
  | .leaderSplice .. => (execLeaderSplice_frames ..).mono rfl
  | .plannedSplice .. => (execPlannedSplice_frames ..).mono rfl
  | .converterSampling .. => (execConverterSampling_frames ..).mono rfl
  | .sliceRotationStep .. => (execSliceRotationStep_frames ..).mono rfl
  | .shadowPhaseEnd .. => (execShadowPhaseEnd_frames ..).mono rfl
  | .sliceCoeffUpdate .. => (execSliceCoeffUpdate_frames ..).mono rfl
  | .agcWindow .. => (execAgcWindow_frames ..).mono rfl
  | .agcLimit .. => (execAgcLimit_frames ..).mono rfl
  | .converterRecordLatch .. => (execConverterRecordLatch_frames ..).mono rfl
  | .pwrSumLoRead .. => (execPwrSumLoRead_frames ..).mono rfl
  | .clearSticky .. => (execClearSticky_frames ..).mono rfl
  | .feedLimitsWrite .. => (execFeedLimitsWrite_frames ..).mono rfl
  | .segmentLate .. => (execSegmentLate_frames ..).mono rfl
  | .auditSubslot .. => (execAuditSubslot_frames ..).mono rfl
  | .auditVerifyEnd .. => (execAuditVerifyEnd_frames ..).mono rfl
  | .auditReplacementSplice .. => (execAuditReplacementSplice_frames ..).mono rfl
  | .ncoWordLoRead .. => (execNcoWordLoRead_frames ..).mono rfl
  | .satStickyClear .. => (execSatStickyClear_frames ..).mono rfl
  | .assayStep .. => (execAssayStep_frames ..).mono rfl
  | .assayStateCopy .. => (execAssayStateCopy_frames ..).mono rfl
  | .assayKatEnd .. => (execAssayKatEnd_frames ..).mono rfl
  | .coverStart .. => (execCoverStart_frames ..).mono rfl
  | .coverEnd .. => (execCoverEnd_frames ..).mono rfl
  | .demodRestart .. => (execDemodRestart_frames ..).mono rfl
  | .combinerUpdate .. => (execCombinerUpdate_frames ..).mono rfl
  | .pilotLockChange .. => (execPilotLockChange_frames ..).mono rfl
  | .stereoSwitch .. => (execStereoSwitch_frames ..).mono rfl
  | .rdsBlock .. => (execRdsBlock_frames ..).mono rfl
  | .amssBlock .. => (execAmssBlock_frames ..).mono rfl
  | .measurementPeriodEnd .. => (execMeasurementPeriodEnd_frames ..).mono rfl
  | .sideDataSpanEnd .. => (execSideDataSpanEnd_frames ..).mono rfl
  | .watchTapPeriodEnd .. => (execWatchTapPeriodEnd_frames ..).mono rfl
  | .surveyDwellEnd .. => (execSurveyDwellEnd_frames ..).mono rfl
  | .watchTapKat .. => (execWatchTapKat_frames ..).mono rfl
  | .streamBlockFormed .. => (execStreamBlockFormed_frames ..).mono rfl
  | .dabFrame .. => (execDabFrame_frames ..).mono rfl
  | .cifDecoded .. => (execCifDecoded_frames ..).mono rfl
  | .tiiPeriodEnd .. => (execTiiPeriodEnd_frames ..).mono rfl
  | .drmFrame .. => (execDrmFrame_frames ..).mono rfl
  | .feedMissingTimeout .. => (execFeedMissingTimeout_frames ..).mono rfl
  | .engineRecordSpanEnd .. => (execEngineRecordSpanEnd_frames ..).mono rfl
  | .engineMeasPeriodEnd .. => (execEngineMeasPeriodEnd_frames ..).mono rfl
  | .crossAssayWindow .. => (execCrossAssayWindow_frames ..).mono rfl
  | .crossAssayCompareEnd .. => (execCrossAssayCompareEnd_frames ..).mono rfl
  | .engineKatVectors .. => (execEngineKatVectors_frames ..).mono rfl
  | .engineDifferenceResolved .. => (execEngineDifferenceResolved_frames ..).mono rfl
  | .followPeriodEnd .. => (execFollowPeriodEnd_frames ..).mono rfl
  | .delayEstimate .. => (execDelayEstimate_frames ..).mono rfl
  | .fadeStart .. => (execFadeStart_frames ..).mono rfl
  | .fadeEnd .. => (execFadeEnd_frames ..).mono rfl
  | .candidateDwellEnd .. => (execCandidateDwellEnd_frames ..).mono rfl
  | .verificationLapse .. => (execVerificationLapse_frames ..).mono rfl
  | .followRecord .. => (execFollowRecord_frames ..).mono rfl
  | .accessUnitReceived .. => (execAccessUnitReceived_frames ..).mono rfl
  | .auDue .. => (execAuDue_frames ..).mono rfl
  | .rateFollowerUpdate .. => (execRateFollowerUpdate_frames ..).mono rfl
  | .slotResync .. => (execSlotResync_frames ..).mono rfl
  | .loudnessBlock .. => (execLoudnessBlock_frames ..).mono rfl
  | .silenceWindow .. => (execSilenceWindow_frames ..).mono rfl
  | .classifierWindow .. => (execClassifierWindow_frames ..).mono rfl
  | .nonAudioMuteEnd .. => (execNonAudioMuteEnd_frames ..).mono rfl
  | .matchEstimate .. => (execMatchEstimate_frames ..).mono rfl
  | .slotMeasPeriodEnd .. => (execSlotMeasPeriodEnd_frames ..).mono rfl
  | .pcmBlockFormed .. => (execPcmBlockFormed_frames ..).mono rfl
  | .slotKat .. => (execSlotKat_frames ..).mono rfl
  | .portStartTick .. => (execPortStartTick_frames ..).mono rfl
  | .portPrerollEnd .. => (execPortPrerollEnd_frames ..).mono rfl
  | .portStopTick .. => (execPortStopTick_frames ..).mono rfl
  | .portPostrollEnd .. => (execPortPostrollEnd_frames ..).mono rfl
  | .portFrameStart .. => (execPortFrameStart_frames ..).mono rfl
  | .portFollowerUpdate .. => (execPortFollowerUpdate_frames ..).mono rfl
  | .portLeaveFollower .. => (execPortLeaveFollower_frames ..).mono rfl
  | .inputFrameReceived .. => (execInputFrameReceived_frames ..).mono rfl
  | .inputBlockFormed .. => (execInputBlockFormed_frames ..).mono rfl
  | .amclkStop .. => (execAmclkStop_frames ..).mono rfl
  | .amclkQualified .. => (execAmclkQualified_frames ..).mono rfl
  | .portResume .. => (execPortResume_frames ..).mono rfl
  | .amclkBlockRate .. => (execAmclkBlockRate_frames ..).mono rfl
  | .portRateSwitch .. => (execPortRateSwitch_frames ..).mono rfl
  | .amclkGlitches .. => (execAmclkGlitches_frames ..).mono rfl
  | .portClearCounts .. => (execPortClearCounts_frames ..).mono rfl
  | .pcieReset => (execPcieReset_frames ..).mono rfl
  | .linkState .. => (execLinkState_frames ..).mono rfl
  | .receivedWriteEcrcFail .. => (execReceivedWriteEcrcFail_frames ..).mono rfl
  | .ringConfigWrite .. => (execRingConfigWrite_frames ..).mono rfl
  | .ringEnable .. => (execRingEnable_frames ..).mono rfl
  | .ringDisable .. => (execRingDisable_frames ..).mono rfl
  | .ringWritesDrained .. => (execRingWritesDrained_frames ..).mono rfl
  | .doorbellWrite .. => (execDoorbellWrite_frames ..).mono rfl
  | .doorbellResume .. => (execDoorbellResume_frames ..).mono rfl
  | .descriptorFetch .. => (execDescriptorFetch_frames ..).mono rfl
  | .completionWrite .. => (execCompletionWrite_frames ..).mono rfl
  | .blockWrite .. => (execBlockWrite_frames ..).mono rfl
  | .blockHoldExpiry .. => (execBlockHoldExpiry_frames ..).mono rfl
  | .interruptModTimer .. => (execInterruptModTimer_frames ..).mono rfl
  | .msixUnmask .. => (execMsixUnmask_frames ..).mono rfl
  | .ringOverrun .. => (execRingOverrun_frames ..).mono rfl
  | .eventBlock .. => (execEventBlock_frames ..).mono rfl
  | .telemetryRecord .. => (execTelemetryRecord_frames ..).mono rfl
  | .nop .. => (execNop_frames ..).mono rfl
  | .identify .. => (execIdentify_frames ..).mono rfl
  | .timeSet .. => (execTimeSet_frames ..).mono rfl
  | .realign .. => (execRealign_frames ..).mono rfl
  | .stageLane .. => (execStageLane_frames ..).mono rfl
  | .stageCluster .. => (execStageCluster_frames ..).mono rfl
  | .stageEngine .. => (execStageEngine_frames ..).mono rfl
  | .stageSlot .. => (execStageSlot_frames ..).mono rfl
  | .stagePort .. => (execStagePort_frames ..).mono rfl
  | .stageFollow .. => (execStageFollow_frames ..).mono rfl
  | .stageBank .. => (execStageBank_frames ..).mono rfl
  | .stagePlan .. => (execStagePlan_frames ..).mono rfl
  | .stageCopy .. => (execStageCopy_frames ..).mono rfl
  | .discardStage .. => (execDiscardStage_frames ..).mono rfl
  | .commit .. => (execCommit_frames ..).mono rfl
  | .pendingSetReceived .. => (execPendingSetReceived_frames ..).mono rfl
  | .commitAckDeadline => (execCommitAckDeadline_frames ..).mono rfl
  | .configSwap .. => (execConfigSwap_frames ..).mono rfl
  | .portStart .. => (execPortStart_frames ..).mono rfl
  | .portStop .. => (execPortStop_frames ..).mono rfl
  | .captureStart .. => (execCaptureStart_frames ..).mono rfl
  | .captureStartTick .. => (execCaptureStartTick_frames ..).mono rfl
  | .captureStop .. => (execCaptureStop_frames ..).mono rfl
  | .calStart .. => (execCalStart_frames ..).mono rfl
  | .calQuery .. => (execCalQuery_frames ..).mono rfl
  | .calStore .. => (execCalStore_frames ..).mono rfl
  | .calStoreWriteDone .. => (execCalStoreWriteDone_frames ..).mono rfl
  | .autoStore => (execAutoStore_frames ..).mono rfl
  | .syscalStep .. => (execSyscalStep_frames ..).mono rfl
  | .levelStepStart .. => (execLevelStepStart_frames ..).mono rfl
  | .levelPhaseEnd .. => (execLevelPhaseEnd_frames ..).mono rfl
  | .levelStepEval .. => (execLevelStepEval_frames ..).mono rfl
  | .standbyDUpdate .. => (execStandbyDUpdate_frames ..).mono rfl
  | .calinSuspectHoldEnd => (execCalinSuspectHoldEnd_frames ..).mono rfl
  | .monitorBackgroundCal .. => (execMonitorBackgroundCal_frames ..).mono rfl
  | .monInject .. => (execMonInject_frames ..).mono rfl
  | .monRead .. => (execMonRead_frames ..).mono rfl
  | .monConversionEnd .. => (execMonConversionEnd_frames ..).mono rfl
  | .monPassStart .. => (execMonPassStart_frames ..).mono rfl
  | .monInjectionEnd .. => (execMonInjectionEnd_frames ..).mono rfl
  | .monSecondLatch => (execMonSecondLatch_frames ..).mono rfl
  | .monApply .. => (execMonApply_frames ..).mono rfl
  | .monClear .. => (execMonClear_frames ..).mono rfl
  | .monRunSet .. => (execMonRunSet_frames ..).mono rfl
  | .monRunClear .. => (execMonRunClear_frames ..).mono rfl
  | .sumLoRead .. => (execSumLoRead_frames ..).mono rfl
  | .faultQuery .. => (execFaultQuery_frames ..).mono rfl
  | .faultClear .. => (execFaultClear_frames ..).mono rfl
  | .unitRetire .. => (execUnitRetire_frames ..).mono rfl
  | .unitRestore .. => (execUnitRestore_frames ..).mono rfl
  | .modeSet .. => (execModeSet_frames ..).mono rfl
  | .receptionEntryTick => (execReceptionEntryTick_frames ..).mono rfl
  | .receptionExitTick => (execReceptionExitTick_frames ..).mono rfl
  | .attest .. => (execAttest_frames ..).mono rfl
  | .hallmarkConfig .. => (execHallmarkConfig_frames ..).mono rfl
  | .keyInfo .. => (execKeyInfo_frames ..).mono rfl
  | .updateBegin .. => (execUpdateBegin_frames ..).mono rfl
  | .updateChunk .. => (execUpdateChunk_frames ..).mono rfl
  | .updateFinish .. => (execUpdateFinish_frames ..).mono rfl
  | .logRead .. => (execLogRead_frames ..).mono rfl
  | .sramSingleBitError .. => (execSramSingleBitError_frames ..).mono rfl
  | .sramUncorrectable .. => (execSramUncorrectable_frames ..).mono rfl
  | .planishPassStart .. => (execPlanishPassStart_frames ..).mono rfl
  | .planishPassComplete .. => (execPlanishPassComplete_frames ..).mono rfl
  | .backgroundTaskAgeing .. => (execBackgroundTaskAgeing_frames ..).mono rfl
  | .flashRefresh .. => (execFlashRefresh_frames ..).mono rfl
  | .flitCrcError .. => (execFlitCrcError_frames ..).mono rfl
  | .linkProbe .. => (execLinkProbe_frames ..).mono rfl
  | .linkRestored .. => (execLinkRestored_frames ..).mono rfl
  | .lastingRuleWrite .. => (execLastingRuleWrite_frames ..).mono rfl
  | .faultLogWrite .. => (execFaultLogWrite_frames ..).mono rfl
  | .logSuppressed .. => (execLogSuppressed_frames ..).mono rfl
  | .antiRollbackRaise => (execAntiRollbackRaise_frames ..).mono rfl
  | .hallmarkIntervalEnd => (execHallmarkIntervalEnd_frames ..).mono rfl
  | .hallmarkKeyRotation => (execHallmarkKeyRotation_frames ..).mono rfl
  | .debugChallengeRead .. => (execDebugChallengeRead_frames ..).mono rfl
  | .debugResponseWrite .. => (execDebugResponseWrite_frames ..).mono rfl
  | .mbWriteTransaction .. => (execMbWriteTransaction_frames ..).mono rfl
  | .mbReadTransaction .. => (execMbReadTransaction_frames ..).mono rfl
  | .mbWake .. => (execMbWake_frames ..).mono rfl
  | .mbSleepClockStop => (execMbSleepClockStop_frames ..).mono rfl
  | .mbTargetTimeout .. => (execMbTargetTimeout_frames ..).mono rfl
  | .mbControllerGo .. => (execMbControllerGo_frames ..).mono rfl
  | .mbArbitrationLost .. => (execMbArbitrationLost_frames ..).mono rfl
  | .mbControllerDone .. => (execMbControllerDone_frames ..).mono rfl
  | .mbControllerTimeout => (execMbControllerTimeout_frames ..).mono rfl
  | .mbTimingWrite .. => (execMbTimingWrite_frames ..).mono rfl
  | .mbErrorsReport => (execMbErrorsReport_frames ..).mono rfl
  | .mboxGo => (execMboxGo_frames ..).mono rfl
  | .mboxComplete => (execMboxComplete_frames ..).mono rfl
  | .alertLatchedClear => (execAlertLatchedClear_frames ..).mono rfl
  | .wakeLatchedClear => (execWakeLatchedClear_frames ..).mono rfl
  | .sleepClockStop => (execSleepClockStop_frames ..).mono rfl
  | .sleepWakeAccess => (execSleepWakeAccess_frames ..).mono rfl
  | .clkCtrlWrite .. => (execClkCtrlWrite_frames ..).mono rfl
  | .systimeLoRead => (execSystimeLoRead_frames ..).mono rfl
  | .registerWrite .. => (execRegisterWrite_frames ..).mono rfl
  | .rootReturnAtDie .. => (execRootReturnAtDie_frames ..).mono rfl
  | .linkReceiverLockLoss .. => (execLinkReceiverLockLoss_frames ..).mono rfl
  | .hostLinkFault => (execHostLinkFault_frames ..).mono rfl
  | .firstDifferingValue .. => (execFirstDifferingValue_frames ..).mono rfl
  | .auditCompareMismatch .. => (execAuditCompareMismatch_frames ..).mono rfl

theorem exec_only {c : Instr} {s t : State} (h : exec c s = .next t) : Only (movesOf c ++ commonAspects) s t :=
  Frames.only (h ▸ exec_frames c s)

/-- Settles O3: every command's frame is that of an answered state, and no frame names the queue or the part. -/
theorem everyCommandCompletes : Obligations.EveryCommandCompletes := by
  intro c s
  obtain ⟨t, hexec, honly⟩ := exec_frames c s
  have hpending : (movesOf c ++ commonAspects).contains .pending = false := by cases c <;> rfl
  have hpart : (movesOf c ++ commonAspects).contains .part = false := by cases c <;> rfl
  exact ⟨t, hexec, honly .pending hpending, honly .part hpart⟩

/-- Settles O7: but for the commands that can end a UNIT_RESTORE, no frame names the retirement record. -/
theorem retirementKept : Obligations.RetirementKept := by
  intro c s t u h hu
  have honly := exec_only h
  cases c
  case unitRestore | assayStep | assayKatEnd | coverStart | levelStepStart | crossAssayCompareEnd | engineKatVectors | sliceRotationStep
      | shadowPhaseEnd | fastCheckTrip => trivial
  all_goals exact honly.retired rfl hu

/-- Settles O8: but for the armed edge and the resets, no command's frame names SYSTIME. -/
theorem systimeMovers : Obligations.SystimeMovers := by
  intro c s t h
  have honly := exec_only h
  cases c
  case syncEdgeArmed | perstNRelease | perstNAssert | suppliesAbsent => trivial
  all_goals exact honly .systime rfl

/-- Settles O9: but for the resets, no command's frame names the fences. -/
theorem fencesKept : Obligations.FencesKept := by
  intro c s t d h hd
  have honly := exec_only h
  cases c
  case perstNRelease | perstNAssert | suppliesAbsent => trivial
  all_goals exact honly .fences rfl d hd

/-- Settles O10: each of the three parts is named by one command's frame beside the resets'. -/
theorem configurationMovers : Obligations.ConfigurationMovers := by
  intro c s t h
  have honly := exec_only h
  cases c
  case perstNRelease | perstNAssert | suppliesAbsent => trivial
  case configSwap => exact ⟨honly .rules rfl, honly .debugLevel rfl⟩
  case lastingRuleWrite => exact ⟨honly .committed rfl, honly .debugLevel rfl⟩
  case debugResponseWrite => exact ⟨honly .committed rfl, honly .rules rfl⟩
  all_goals exact ⟨honly .committed rfl, honly .rules rfl, honly .debugLevel rfl⟩

/-- Settles O1: by what a step is. -/
theorem stepRunsFront : Obligations.StepRunsFront := by
  intro c rest s h
  rw [step, h]

/-- A step is the root count of an empty queue, or the front command on the state without it. -/
theorem step_cases {s t : State} (h : step s = .next t) :
    t = idle s ∨ ∃ c rest, exec c { s with pending := rest } = .next t := by
  cases hp : s.pending with
  | nil =>
    rw [step, hp] at h
    exact .inl (Host.Outcome.next.inj h).symm
  | cons c rest =>
    rw [stepRunsFront c rest s hp] at h
    exact .inr ⟨c, rest, h⟩

/-- Settles O2: the count of `idle`, with its frame. -/
theorem idleStepCounts : Obligations.IdleStepCounts := by
  intro s hp
  refine ⟨idle s, by rw [step, hp], idle_only s, fun hoff => if_pos hoff, fun hon => ?_⟩
  have hidle : idle s = { s with
      time := { s.time with systime := s.time.systime + 1 }
      clk := s.clk.mapAll s.dies fun _ c => if c.rootPresent then { c with replica := c.replica + 1 } else c } := if_neg hon
  rw [hidle]
  refine ⟨rfl, fun d => (Tbl.get_mapAll ..).trans ?_⟩
  by_cases hd : d < s.dies <;> simp [hd]

/-- Settles O6: neither the root count nor any command's frame names what OTP holds. -/
theorem otpOnlySet : Obligations.OtpOnlySet := by
  intro s t h
  rcases step_cases h with rfl | ⟨c, rest, hexec⟩
  · exact idle_only s .otp rfl
  · have hotp : (movesOf c ++ commonAspects).contains .otp = false := by cases c <;> rfl
    exact exec_only hexec .otp hotp

/-! ### Registers with a range -/

/-- The spread fields of CLK_CTRL are in range (02 R48). -/
def State.SpreadLegal (s : State) : Prop := spreadOk s.time.spreadMode s.time.spreadDepth = true

/-- LEVEL_INTERVAL lies in its range (12). -/
def State.IntervalLegal (s : State) : Prop := 1 ≤ s.cal.levelInterval ∧ s.cal.levelInterval ≤ 1440

/-- The timing word of the management bus is in range (16 R431). -/
def State.TimingLegal (s : State) : Prop := s.mb.timingLegal = true

/-- The straps fit their fields (17 R447). -/
def State.StrapsFit (s : State) : Prop := s.pins.syncpos < 16 ∧ s.pins.mbAddr < 4

theorem legal_iff (s : State) : s.legal = true ↔ s.SpreadLegal ∧ s.IntervalLegal ∧ s.TimingLegal ∧ s.StrapsFit := by
  simp only [State.legal, Bool.and_eq_true, decide_eq_true_eq, State.SpreadLegal, State.IntervalLegal, State.TimingLegal, State.StrapsFit, and_assoc]

/-- Settles O4: by evaluating the reset values. -/
theorem legalAtReset : Obligations.LegalAtReset := by
  unfold Obligations.LegalAtReset
  decide

namespace Only

variable {as : List Aspect} {s t : State}

theorem spreadLegal (h : Only as s t) (hc : as.contains .spread = false) (hs : s.SpreadLegal) : t.SpreadLegal := by
  obtain ⟨hmode, hdepth⟩ := h .spread hc
  rwa [State.SpreadLegal, hmode, hdepth]

theorem intervalLegal (h : Only as s t) (hc : as.contains .levelInterval = false) (hs : s.IntervalLegal) : t.IntervalLegal := by
  rwa [State.IntervalLegal, h .levelInterval hc]

theorem timingLegal (h : Only as s t) (hc : as.contains .busTiming = false) (hs : s.TimingLegal) : t.TimingLegal := by
  obtain ⟨hlow, hhigh, hhold, hglitch⟩ := h .busTiming hc
  rwa [State.TimingLegal, MbSt.timingLegal, hlow, hhigh, hhold, hglitch]

theorem strapsFit (h : Only as s t) (hc : as.contains .pins = false) (hs : s.StrapsFit) : t.StrapsFit := by
  rwa [State.StrapsFit, h .pins hc]

/-- A frame keeps each range whose register it does not name; the other hypotheses speak of those that it names. -/
theorem legal (h : Only as s t) (hs : s.legal = true) (hspread : as.contains .spread = true → t.SpreadLegal)
    (hinterval : as.contains .levelInterval = true → t.IntervalLegal) (htiming : as.contains .busTiming = true → t.TimingLegal)
    (hpins : as.contains .pins = true → t.StrapsFit) : t.legal = true := by
  obtain ⟨sspread, sinterval, stiming, spins⟩ := (legal_iff s).mp hs
  have either : ∀ {a : Aspect} {p : Prop}, (as.contains a = true → p) → (as.contains a = false → p) → p :=
    fun {a} _ hin hout => (Bool.eq_false_or_eq_true (as.contains a)).elim hin hout
  exact (legal_iff t).mpr ⟨either hspread fun hc => h.spreadLegal hc sspread, either hinterval fun hc => h.intervalLegal hc sinterval,
    either htiming fun hc => h.timingLegal hc stiming, either hpins fun hc => h.strapsFit hc spins⟩

end Only

/-- What holds of both branches of a choice holds of the choice. -/
theorem State.ite_of {P : State → Prop} {c : Prop} [Decidable c] {s t : State} (hs : P s) (ht : P t) : P (if c then s else t) := by
  split
  · exact hs
  · exact ht

theorem onlyIf_of {P : State → Prop} {c : Bool} {s t u : State} (h : onlyIf c s t = .next u) (hs : P s) (ht : P t) : P u := by
  cases h
  exact State.ite_of ht hs

theorem execClkCtrlWrite_spread {v : Nat} {s t : State} (h : execClkCtrlWrite v s = .next t) (hs : s.SpreadLegal) : t.SpreadLegal := by
  refine onlyIf_of h hs ?_
  simp only [State.SpreadLegal]
  split
  · next htake => exact (Bool.and_eq_true_iff.mp htake).2
  · exact hs

theorem writeCalCtrl_interval (v : Nat) {s : State} (hs : s.IntervalLegal) : (writeCalCtrl v s).IntervalLegal := by
  simp only [writeCalCtrl, State.IntervalLegal] at hs ⊢
  split
  · next hin => simpa using hin
  · exact hs

theorem writePackage_interval (o v : Nat) {s : State} (hs : s.IntervalLegal) : (writePackage o v s).IntervalLegal := by
  unfold writePackage
  refine State.ite_of hs (State.ite_of ?_ (State.ite_of ?_ (State.ite_of ?_ (State.ite_of ?_ (State.ite_of (State.ite_of hs ?_)
    (State.ite_of hs (State.ite_of ?_ hs)))))))
  · exact (writeTone_only _ _ _ _).intervalLegal rfl hs
  · exact writeCalCtrl_interval v hs
  · exact (writeWatchCtrl_only _ _).intervalLegal rfl hs
  · exact (writeBusCtrl_only _ _).intervalLegal rfl hs
  · exact (writeTransfer_only _ _).intervalLegal rfl hs
  · exact (writeMsix_only _ _ _).intervalLegal rfl hs

theorem execRegisterWrite_interval {r : RegTarget} {v : Nat} {s t : State} (h : execRegisterWrite r v s = .next t) (hs : s.IntervalLegal) :
    t.IntervalLegal := by
  have hb : (hostAccess s).IntervalLegal := hs
  cases r
  case bar0 offset =>
    refine onlyIf_of h hs ?_
    exact State.ite_of hb (State.ite_of (writePackage_interval _ _ hb) (State.ite_of ((writeDie_only _ _ _ _).intervalLegal rfl hb) hb))
  all_goals exact onlyIf_of h hs hs

theorem timingLegal_iff (m : MbSt) : m.timingLegal = true ↔
    (50 ≤ m.sclLowT ∧ m.sclLowT ≤ 1000) ∧ (26 ≤ m.sclHighT ∧ m.sclHighT ≤ 1000) ∧ m.sdaHold ≤ 100 ∧ m.glitch ≤ 31
      ∧ m.sdaHold + m.glitch < m.sclLowT := by
  simp only [MbSt.timingLegal, Bool.and_eq_true, decide_eq_true_eq, and_assoc]

theorem writeTiming_legal (v : Nat) {s : State} (hs : s.TimingLegal) : (writeTiming v s).TimingLegal := by
  unfold writeTiming
  dsimp only
  split
  · next hin =>
    simp only [Bool.and_eq_true, decide_eq_true_eq] at hin
    simp only [State.TimingLegal, timingLegal_iff, State.setMb]
    omega
  · exact hs

theorem applyData_timingLegal (w : MbData) {s : State} (hs : s.TimingLegal) : (applyData w s).TimingLegal := by
  have ite_legal : ∀ {c : Prop} [Decidable c] {s t : State}, s.TimingLegal → (s.TimingLegal → t.TimingLegal) → (if c then t else s).TimingLegal :=
    fun h k => State.ite_of (k h) h
  unfold applyData
  refine ite_legal (ite_legal ?_ ((writeTransfer_only _ _).timingLegal rfl)) ((writeMboxCtrl_only _ _).timingLegal rfl)
  exact ite_legal (ite_legal hs ((writeBusCtrl_only _ _).timingLegal rfl)) (writeTiming_legal _)

theorem execMbWriteTransaction_timingLegal {addr : Nat} {bytes : List Byte} {s t : State} (h : execMbWriteTransaction addr bytes s = .next t)
    (hs : s.TimingLegal) : t.TimingLegal := by
  have hstop : (mbStop s).TimingLegal := (mbStop_only s).timingLegal rfl hs
  refine onlyIf_of h hs ?_
  dsimp only
  split
  · exact State.ite_of (applyData_timingLegal _ hstop) ((bumpMb_only _ _).timingLegal rfl hstop)
  · exact hstop

/-- After the release of PERST_N the registers have their reset values, and the straps are as latched. -/
theorem execPerstNRelease_legal {refsel : Bool} {syncpos mbAddr : Nat} {refin : Bool} {s t : State}
    (h : execPerstNRelease refsel syncpos mbAddr refin s = .next t) (hs : s.legal = true) : t.legal = true := by
  have latched : ∀ u : State, u.time = {} → u.cal = {} → u.mb = {} → u.pins = { refsel := refsel, syncpos := syncpos % 16, mbAddr := mbAddr % 4 } →
      u.legal = true := by
    intro u htime hcal hmb hpins
    rw [legal_iff, State.SpreadLegal, State.IntervalLegal, State.TimingLegal, State.StrapsFit, htime, hcal, hmb, hpins]
    exact ⟨rfl, by decide, rfl, Nat.mod_lt _ (by decide), Nat.mod_lt _ (by decide)⟩
  refine onlyIf_of (P := fun t => t.legal = true) h hs (State.ite_of (P := fun t => t.legal = true) (latched _ rfl rfl rfl rfl) ?_)
  have honly : ∀ u, Only [.ref, .spans, .link, .integ, .mode, .sec, .modeCode] u (refresh (raise .refLost pkg [.q 0] (coastRef u))) :=
    fun u => (refresh_only _).andThen rfl ((raise_only _ _ _ _).andThen rfl ((coastRef_only u).mono rfl))
  exact (honly _).legal (latched _ rfl rfl rfl rfl) nofun nofun nofun nofun

/-- In OFF every register is at its reset value; the pins that remain carry no strap. -/
theorem offState_legal (s : State) (high present : Bool) : (s.offState { perstHigh := high, suppliesPresent := present }).legal = true := by
  rw [legal_iff]
  exact ⟨rfl, ⟨Nat.le_of_ble_eq_true rfl, Nat.le_of_ble_eq_true rfl⟩, rfl, Nat.zero_lt_succ 15, Nat.zero_lt_succ 3⟩

theorem exec_legal {c : Instr} {s t : State} (h : exec c s = .next t) (hs : s.legal = true) : t.legal = true := by
  have honly := exec_only h
  obtain ⟨hspread, hinterval, htiming, -⟩ := (legal_iff s).mp hs
  cases c
  case clkCtrlWrite => exact honly.legal hs (fun _ => execClkCtrlWrite_spread h hspread) nofun nofun nofun
  case registerWrite => exact honly.legal hs nofun (fun _ => execRegisterWrite_interval h hinterval) nofun nofun
  case mbWriteTransaction => exact honly.legal hs nofun nofun (fun _ => execMbWriteTransaction_timingLegal h htiming) nofun
  case mbTimingWrite v => exact honly.legal hs nofun nofun (fun _ => onlyIf_of h htiming (writeTiming_legal v htiming)) nofun
  case perstNRelease => exact execPerstNRelease_legal h hs
  case perstNAssert => exact onlyIf_of (P := fun t => t.legal = true) h hs (offState_legal ..)
  case suppliesAbsent => exact onlyIf_of (P := fun t => t.legal = true) h hs (offState_legal ..)
  all_goals exact honly.legal hs nofun nofun nofun nofun

/-- Settles O5: a frame keeps the ranges that it does not name, and each command that writes such a register checks its range or resets it. -/
theorem legalKept : Obligations.LegalKept := by
  intro s t hs h
  rcases step_cases h with rfl | ⟨c, rest, hexec⟩
  · exact (idle_only s).legal hs nofun nofun nofun nofun
  · exact exec_legal hexec hs

end Sys2Proof.Machine
end

section
/-!
PROOFS. Power, reset and boot (17): what OFF leaves, what the release of PERST_N begins, the stages of the boot ROM, the domains and the fences.
-/
namespace Sys2Proof.Machine

/-- A command's frame, once its answer is known. -/
theorem Frames.onlyOf {as : List Aspect} {s t : State} {r : Res} (h : Frames as s r) (hr : r = .next t) : Only as s t :=
  Frames.only (hr ▸ h)

/-! ### Reset -/

theorem perstNAssert_off (s : State) (h : s.pins.perstHigh = true) :
    exec .perstNAssert s = .next (s.offState { perstHigh := false, suppliesPresent := s.pins.suppliesPresent }) := onlyIf_of_true h

theorem suppliesAbsent_off (s : State) (h : s.pins.suppliesPresent = true) :
    exec .suppliesAbsent s = .next (s.offState { perstHigh := s.pins.perstHigh, suppliesPresent := false }) := onlyIf_of_true h

theorem offState_unitsReset (s : State) (p : PinSt) : (s.offState p).unitsReset := by and_intros <;> rfl

/-- The registers right after the release of PERST_N, before the reference is looked at (17 R447). -/
def State.released (s : State) (refsel : Bool) (syncpos mbAddr : Nat) : State :=
  { part := s.part, pins := { refsel := refsel, syncpos := syncpos % 16, mbAddr := mbAddr % 4 }, link := { sent := s.link.sent }
    nv := { s.nv with bootNum := s.nv.bootNum + 1 }, freeCount := s.freeCount, pending := s.pending }

/-- The reference found absent at the release (17 R450). -/
def State.coastAtRelease (s : State) : State := refresh (raise .refLost pkg [.q 0] (coastRef s))

theorem perstNRelease_released {s : State} (hoff : s.mode.mode = .off) (hlow : s.pins.perstHigh = false) (refsel refin : Bool) (syncpos mbAddr : Nat) :
    exec (.perstNRelease refsel syncpos mbAddr refin) s = .next
      (if refin then { s.released refsel syncpos mbAddr with ref := { present := true, attempt := some 0 } }
       else (s.released refsel syncpos mbAddr).coastAtRelease) :=
  onlyIf_of_true (by simp only [hoff, hlow, decide_true, Bool.not_false, Bool.and_self])

/-- Outside the reception modes a loss of the reference reported at boot leaves units, time, mode and rings alone. -/
theorem coastAtRelease_reports {u t : State} (ht : u.coastAtRelease = t) (hm : u.mode.mode.reception = false) :
    Only [.ref, .spans, .link, .integ, .mode, .sec, .modeCode] u t ∧ t.mode = u.mode ∧ t.ref = (coastRef u).ref
      ∧ t.link.sent = u.link.sent ∧ t.link.rings = u.link.rings ∧ ∃ q ∈ t.link.events, q.name = .refLost := by
  have hcoast : (coastRef u).mode = u.mode := coastRef_only u .mode rfl
  have hlink : (coastRef u).link = u.link := coastRef_only u .link rfl
  subst ht
  refine ⟨(refresh_only _).andThen rfl ((raise_only _ _ _ _).andThen rfl ((coastRef_only u).mono rfl)), ?_, ?_, ?_, ?_,
    ⟨.refLost, pkg, (coastRef u).link.eventSeq, (coastRef u).now, [.q 0]⟩, (refresh_only _ .events rfl).subset ?_, rfl⟩
  · rw [State.coastAtRelease, refresh_mode] <;> rw [raise_mode, hcoast]
    exact hm
  · rw [State.coastAtRelease, refresh_only _ .ref rfl, raise_only _ _ _ _ .ref rfl]
  · rw [State.coastAtRelease, refresh_sent, raise_sent, hlink]
  · rw [State.coastAtRelease, refresh_rings, raise_rings, hlink]
  · rw [raise_link]
    exact List.mem_append_right _ (List.mem_singleton_self _)

/-- Settles O11: OFF and the state at the release are records of reset values; what REF_LOST adds there is a report. -/
theorem resetAndPower : Obligations.ResetAndPower := by
  refine ⟨fun s h => ⟨_, perstNAssert_off s h, rfl, rfl, rfl, rfl, rfl, offState_unitsReset .., rfl, rfl, rfl, rfl⟩,
    fun s h => ⟨_, suppliesAbsent_off s h, rfl, rfl, rfl, rfl, rfl, offState_unitsReset .., rfl, rfl, rfl, rfl⟩, ?_⟩
  intro s refsel refin syncpos mbAddr hoff hlow
  refine ⟨_, perstNRelease_released hoff hlow refsel refin syncpos mbAddr, ?_⟩
  cases refin with
  | true => exact ⟨rfl, rfl, rfl, rfl, rfl, rfl, by and_intros <;> rfl, rfl, rfl, fun _ => ⟨rfl, rfl, rfl, rfl, rfl⟩, nofun⟩
  | false =>
    rw [if_neg Bool.false_ne_true]
    generalize hrel : (s.released refsel syncpos mbAddr).coastAtRelease = t
    obtain ⟨honly, hmode, href, hsent, hrings, hlost⟩ := coastAtRelease_reports hrel rfl
    have hunits : t.unitsReset := ⟨honly .clk rfl, honly .front rfl, honly .taps rfl, honly .lanes rfl, honly .ofdm rfl, honly .audio rfl,
      honly .ports rfl, honly .cfg rfl, honly .cal rfl, honly .mon rfl, honly .domains rfl, honly .mb rfl⟩
    rw [coastRef_ref] at href
    exact ⟨honly .pins rfl, honly .nv rfl, honly .part rfl, hmode, congrArg ModeSt.mode hmode, honly .time rfl, hunits, hsent, hrings, nofun,
      fun _ => ⟨congrArg RefSt.present href, congrArg RefSt.coasting href, hlost⟩⟩

end Sys2Proof.Machine
end

section
/-!
PROOFS. The stages of the boot ROM (15 R397, 17 R448).
-/
namespace Sys2Proof.Machine

/-! ### ROM, image, load -/

theorem romCheckDone_passes {s : State} (hm : s.mode.mode = .boot) (hst : s.sec.stage = .check) :
    ∃ t, exec (.romCheckDone true true) s = .next t ∧ Only [.clk, .spans, .mon, .domains, .sec, .mode] s t
      ∧ t.sec.stage = .image ∧ t.mode.bootPhase = 1 ∧ t.mode.mode = .boot
      ∧ t.sec.tryingB = (if 2 ≤ s.nv.sec.fails s.nv.sec.preferB then !s.nv.sec.preferB else s.nv.sec.preferB) := by
  have hgo : (decide (s.mode.mode = .boot) && decide (s.sec.stage = .check)) = true := by simp [hm, hst]
  have hboot : (bootDomains 0 s).mode.mode = .boot := (congrArg ModeSt.mode (bootDomains_only 0 s .mode rfl)).trans hm
  refine ⟨_, onlyIf_of_true hgo, Only.ofMk rfl ((bootDomains_only 0 s).mono rfl) (k_modeCode := fun _ => rfl), rfl, rfl, hboot, ?_⟩
  by_cases h2 : 2 ≤ s.nv.sec.fails s.nv.sec.preferB <;> cases s.nv.sec.preferB <;> simp_all

theorem romCheckDone_halts {s : State} (hm : s.mode.mode = .boot) (hst : s.sec.stage = .check) {romOk otpOk : Bool} (hbad : (romOk && otpOk) = false) :
    ∃ t, exec (.romCheckDone romOk otpOk) s = .next t ∧ t.mode.mode = .halted := by
  have hgo : (decide (s.mode.mode = .boot) && decide (s.sec.stage = .check)) = true := by simp [hm, hst]
  refine ⟨_, onlyIf_of_true hgo, ?_⟩
  rw [hbad]
  exact enterHalted_mode 3 _

theorem NvSec.fails_setFails (v : NvSec) (b : Bool) (n : Nat) :
    (v.setFails b n).fails b = n ∧ (v.setFails b n).fails (!b) = v.fails (!b) := by
  cases b <;> exact ⟨rfl, rfl⟩

/-- The image in the slot tried, which no other stage of boot may look at. -/
theorem imageCheckDone_runs {s : State} (hm : s.mode.mode = .boot) (hst : s.sec.stage = .image) :
    exec .imageCheckDone s = .next
      (if (s.nv.sec.slot s.sec.tryingB).valid && s.imageBoots (s.nv.sec.slot s.sec.tryingB).image then bootImage s.sec.tryingB s
       else if !s.sec.triedOther then { s with sec := { s.sec with tryingB := !s.sec.tryingB, triedOther := true, failReason := 0 } }
       else enterRecovery s) :=
  onlyIf_of_true (by simp [hm, hst])

theorem imageCheckDone_boots {s : State} (hm : s.mode.mode = .boot) (hst : s.sec.stage = .image)
    (hv : (s.nv.sec.slot s.sec.tryingB).valid = true) (hb : s.imageBoots (s.nv.sec.slot s.sec.tryingB).image = true) :
    ∃ t, exec .imageCheckDone s = .next t ∧ Only [.sec, .nv, .mode] s t
      ∧ t.sec.stage = .load ∧ t.sec.runningB = s.sec.tryingB ∧ t.mode.bootPhase = 2 ∧ t.mode.mode = .boot
      ∧ t.nv.sec.fails s.sec.tryingB = s.nv.sec.fails s.sec.tryingB + 1 ∧ t.nv.sec.fails (!s.sec.tryingB) = s.nv.sec.fails (!s.sec.tryingB) := by
  refine ⟨bootImage s.sec.tryingB s, ?_, (bootImage_only _ _).mono rfl, rfl, rfl, rfl, hm, NvSec.fails_setFails ..⟩
  rw [imageCheckDone_runs hm hst, hv, hb]
  rfl

theorem imageCheckDone_triesOther {s : State} (hm : s.mode.mode = .boot) (hst : s.sec.stage = .image)
    (hv : (s.nv.sec.slot s.sec.tryingB).valid = false) (ho : s.sec.triedOther = false) :
    ∃ t, exec .imageCheckDone s = .next t ∧ Only [.sec] s t ∧ t.sec.stage = .image ∧ t.sec.tryingB = !s.sec.tryingB ∧ t.sec.triedOther = true := by
  have hrun : exec .imageCheckDone s = .next { s with sec := { s.sec with tryingB := !s.sec.tryingB, triedOther := true, failReason := 0 } } := by
    rw [imageCheckDone_runs hm hst, hv, ho]
    rfl
  exact ⟨_, hrun, Only.ofMk rfl (Only.refl _ _), hst, rfl, rfl⟩

theorem enterRecovery_mode (s : State) : (enterRecovery s).mode.mode = .recovery := by
  rw [enterRecovery, refresh_mode] <;> rw [setMode_mode]
  rfl

theorem imageCheckDone_recovers {s : State} (hm : s.mode.mode = .boot) (hst : s.sec.stage = .image)
    (hv : (s.nv.sec.slot s.sec.tryingB).valid = false) (ho : s.sec.triedOther = true) :
    ∃ t, exec .imageCheckDone s = .next t ∧ t.mode.mode = .recovery ∧ t.nv = s.nv := by
  refine ⟨enterRecovery s, ?_, enterRecovery_mode s, enterRecovery_only s .nv rfl⟩
  rw [imageCheckDone_runs hm hst, hv, ho]
  rfl

theorem dieLoadDone_loads {s : State} (hm : s.mode.mode = .boot) (hst : s.sec.stage = .load) :
    ∃ t, exec .dieLoadDone s = .next t ∧ Only [.clk, .spans, .mon, .domains, .sec, .mode] s t ∧ t.sec.stage = .test ∧ t.mode.bootPhase = 3 ∧ t.mode.mode = .boot := by
  have hgo : (decide (s.mode.mode = .boot) && decide (s.sec.stage = .load)) = true := by simp [hm, hst]
  have hrun : exec .dieLoadDone s = .next _ := onlyIf_of_true hgo
  have honly := (execDieLoadDone_frames s).onlyOf hrun
  exact ⟨_, hrun, honly.mono rfl, rfl, rfl, (honly .modeCode rfl).trans hm⟩

/-! ### Self-tests -/

/-- A domain that goes off takes nothing from the other dies' clocks, nor any band result. -/
theorem domainOff_samp_clk (d : Nat) (s : State) :
    (∀ e, e ≠ d → (domainOff d 2 s).clk.get e = s.clk.get e) ∧ ∀ p, ((domainOff d 2 s).clk.get d).band p = (s.clk.get d).band p := by
  unfold domainOff
  dsimp only
  split
  · exact ⟨fun _ _ => rfl, fun _ => rfl⟩
  · refine ⟨fun e he => ?_, fun p => ?_⟩
    · simp only [stopLoop, closeSuspect_clk, setClk_get, if_neg he]
    · simp only [stopLoop, closeSuspect_clk, setClk_get, if_true]
      rfl

theorem domainOff_on (d b : Nat) (s : State) : maskBit ((domainOff d b s).domains.get d).on b = false := by
  unfold domainOff
  dsimp only
  rw [Tbl.get_set_self, maskBit_clearBit]
  simp

/-- The die's clocks with the band results of its searches (02 R44). -/
def DieClk.withBands (c : DieClk) (temp : Int) (bands : List Nat) : DieClk :=
  (List.range 3).foldl (fun c p => c.setBand p ⟨bands.getD p 0, temp⟩) c

/-- A die that passes all its tests has its bands stored and SAMPLING off again; after the last one BOOT_PHASE is 4. -/
theorem dieSelfTest_passes {s : State} {d : Nat} {temp : Int} {bands : List Nat} (hm : s.mode.mode = .boot) (hst : s.sec.stage = .test)
    (hd : d < s.dies) (hb : (s.clk.get d).band0 = none) :
    exec (.dieSelfTestDone d true true true true true temp bands) s = .next
      (let t := domainOff d 2 (s.setClk d (·.withBands temp bands))
       if t.mode.mode = .boot && (List.range t.dies).all fun e => (t.clk.get e).band0.isSome then { t with mode := { t.mode with bootPhase := 4 } } else t) :=
  onlyIf_of_true (by simp [hm, hst, hd, hb])

theorem dieSelfTestDone_stores {s : State} {d : Nat} {temp : Int} {bands : List Nat} (hm : s.mode.mode = .boot) (hst : s.sec.stage = .test)
    (hd : d < s.dies) (hb : (s.clk.get d).band0 = none) :
    ∃ t, exec (.dieSelfTestDone d true true true true true temp bands) s = .next t ∧ Only [.clk, .spans, .mode, .domains] s t ∧ maskBit (t.domains.get d).on 2 = false
      ∧ (t.clk.get d).band0 = some ⟨bands.getD 0 0, temp⟩ ∧ (t.clk.get d).band1 = some ⟨bands.getD 1 0, temp⟩
      ∧ (t.clk.get d).band2 = some ⟨bands.getD 2 0, temp⟩ ∧ (∀ e, e ≠ d → t.clk.get e = s.clk.get e)
      ∧ ((∀ e < s.dies, e ≠ d → (s.clk.get e).band0.isSome = true) → t.mode.bootPhase = 4) := by
  refine ⟨_, dieSelfTest_passes hm hst hd hb, ?_⟩
  have honly : Only [.clk, .spans, .domains] s (domainOff d 2 (s.setClk d (·.withBands temp bands))) :=
    (domainOff_only _ _ _).andThen rfl ((State.setClk_only _ _ _).mono rfl)
  have hon := domainOff_on d 2 (s.setClk d (·.withBands temp bands))
  obtain ⟨hother, hband⟩ := domainOff_samp_clk d (s.setClk d (·.withBands temp bands))
  generalize domainOff d 2 (s.setClk d (·.withBands temp bands)) = t at honly hon hother hband ⊢
  have hbands : ∀ p, (t.clk.get d).band p = ((s.clk.get d).withBands temp bands).band p := fun p => by rw [hband, setClk_get, if_pos rfl]
  have hothers : ∀ e, e ≠ d → t.clk.get e = s.clk.get e := fun e he => by rw [hother e he, setClk_get, if_neg he]
  have hmode : t.mode = s.mode := honly .mode rfl
  have hdies : t.dies = s.dies := congrArg Part.dies (honly .part rfl)
  have h0 : (t.clk.get d).band0 = some ⟨bands.getD 0 0, temp⟩ := hbands 0
  dsimp only
  split
  · exact ⟨Only.ofMk rfl (honly.mono rfl), hon, h0, hbands 1, hbands 2, hothers, fun _ => rfl⟩
  · next hlast =>
    refine ⟨honly.mono rfl, hon, h0, hbands 1, hbands 2, hothers, fun hall => absurd ?_ hlast⟩
    rw [Bool.and_eq_true, decide_eq_true_iff, List.all_eq_true, hmode]
    refine ⟨hm, fun e he => ?_⟩
    rw [List.mem_range, hdies] at he
    by_cases hed : e = d
    · rw [hed, h0]; rfl
    · rw [hothers e hed]
      exact hall e he hed

/-! ### The end of boot -/

theorem cutOff_congr {s t : State} (hpart : t.part = s.part) (hlinks : t.integ.links = s.integ.links) (hclk : t.clk = s.clk) (hdom : t.domains = s.domains)
    (d : Nat) : t.cutOff d = s.cutOff d := by
  simp only [State.cutOff, State.deliveryPath, State.deadLinks, State.nodeLost, State.dies, hpart, hlinks, hclk, hdom]

theorem loadCal_links (s : State) : (loadCal s).integ.links = s.integ.links := by
  unfold loadCal
  split <;> rw [raise_links]

theorem applyRetired_links (s : State) : (applyRetired s).integ.links = s.integ.links := by
  have hspare : ∀ u : State, u.integ = s.integ → (((List.range (4 * u.dies)).foldl (fun acc c => match acc.replacedPos c with
    | some p => acc.setSpare c fun x => { (x.beginCover p false 0) with position := p }
    | none => acc) u).integ = s.integ) := fun u hu => by
      refine foldl_keep (fun v => v.integ = s.integ) _ _ (fun v c hv => ?_) u hu
      dsimp only
      split
      · exact hv
      · exact hv
  have hconv : ∀ (f : State → Nat → Converter → Converter) (l : List Nat), (l.foldl (fun acc k => acc.setConv k (f acc k)) s).integ = s.integ :=
    fun f l => foldl_keep (fun v => v.integ = s.integ) _ l (fun v k hv => by rw [← hv]; rfl) s rfl
  unfold applyRetired
  dsimp only
  exact congrArg IntegSt.links (hspare _ (hconv _ _))

/-- Dies that keep a route to the anchor are not fenced as boot ends. -/
theorem foldl_failCutOff_id {s : State} (h : ∀ d, d < s.dies → s.cutOff d = false) :
    (List.range s.dies).foldl (fun acc d => if acc.dieUp d && acc.cutOff d then failSelfTest d 3 acc else acc) s = s := by
  have hmem : ∀ l : List Nat, (∀ d ∈ l, s.cutOff d = false) →
      l.foldl (fun acc d => if acc.dieUp d && acc.cutOff d then failSelfTest d 3 acc else acc) s = s := by
    intro l
    induction l with
    | nil => exact fun _ => rfl
    | cons d l ih =>
      intro hl
      rw [List.foldl_cons, hl d List.mem_cons_self, Bool.and_false, if_neg Bool.false_ne_true]
      exact ih fun e he => hl e (List.mem_cons_of_mem _ he)
  exact hmem _ fun d hd => h d (List.mem_range.mp hd)

/-- What boot restores from flash before the dies' routes are looked at (17 R448). -/
def State.restored (s : State) : State := applyRetired (loadCal s)

theorem restored_only (s : State) : Only [.front, .lanes, .link, .cal, .integ, .sec] s s.restored :=
  (applyRetired_only _).andThen rfl ((loadCal_only _).mono rfl)

theorem restored_cutOff (s : State) (d : Nat) : s.restored.cutOff d = s.cutOff d :=
  cutOff_congr (restored_only s .part rfl) ((applyRetired_links _).trans (loadCal_links s)) (restored_only s .clk rfl) (restored_only s .domains rfl) d

/-- The state with the key, the boot record and the domains of IDLE, before IDLE is entered. -/
def State.bootEnded (s : State) : State :=
  let t := newHallKey s.now s
  applyDomains (State.modeDomains · .idle)
    { t with
      nv := { t.nv with sec := t.nv.sec.setFails t.sec.runningB 0 }
      sec := { t.sec with stage := .done, bootedAt := t.now }
      mode := { t.mode with bootPhase := 5 } }

/-- What boot reports leaves alone, and the update that it clears (15 R399). -/
theorem reportBoot_facts (s : State) :
    (reportBoot s).mode = s.mode ∧ (reportBoot s).time = s.time ∧ (reportBoot s).sec.stage = s.sec.stage
      ∧ (reportBoot s).sec.bootedAt = s.sec.bootedAt ∧ (∀ b, (reportBoot s).nv.sec.fails b = s.nv.sec.fails b) ∧ (reportBoot s).nv.sec.updating = none := by
  let P := fun u : State => u.mode = s.mode ∧ u.time = s.time ∧ u.sec.stage = s.sec.stage ∧ u.sec.bootedAt = s.sec.bootedAt ∧ u.nv = s.nv
  have hraise : ∀ {u : State}, P u → ∀ n o args, P (raise n o args u) := by
    rintro u ⟨hmode, htime, hstage, hat, hnv⟩ n o args
    simp only [P, raise_keeps, raise_within]
    exact ⟨hmode, htime, hstage, hat, hnv⟩
  have hfall : P (if s.sec.fallback then raise .fwFallback pkg [.w (b2n s.sec.runningB), .w (b2n (!s.sec.runningB)), .w s.sec.failReason] s else s) :=
    State.ite_of (P := P) (hraise ⟨rfl, rfl, rfl, rfl, rfl⟩ _ _ _) ⟨rfl, rfl, rfl, rfl, rfl⟩
  have htests := fun l : List (Nat × Nat) => foldl_keep P (fun acc x => raise .dieSelftestFailed x.1 [.w x.1, .w x.2] acc) l (fun _ _ hv => hraise hv _ _ _) _ hfall
  unfold reportBoot
  dsimp only
  generalize (if s.sec.fallback then raise .fwFallback pkg [.w (b2n s.sec.runningB), .w (b2n (!s.sec.runningB)), .w s.sec.failReason] s else s) = u at htests
  obtain ⟨hmode, htime, hstage, hat, hnv⟩ := htests u.integ.selfTest
  split
  · simp only [raise_keeps, raise_within]
    exact ⟨hmode, htime, hstage, hat, fun b => by rw [hnv]; cases b <;> rfl, trivial⟩
  · next hnone =>
    refine ⟨hmode, htime, hstage, hat, fun b => by rw [hnv], hnone⟩

/-- IDLE is entered and boot reports (17 R448). -/
def State.idleEntered (t : State) : State := refresh (reportBoot (setMode .idle (.unstated t.freeNat) (advanceFree t)))

theorem bootComplete_runs {s : State} (hm : s.mode.mode = .boot) (hst : s.sec.stage = .test) (hb : ∀ d < s.dies, (s.clk.get d).band0.isSome = true)
    (hc : ∀ d < s.dies, s.cutOff d = false) : exec .bootComplete s = .next s.restored.bootEnded.idleEntered := by
  have hgo : (decide (s.mode.mode = .boot) && decide (s.sec.stage = .test) && (List.range s.dies).all fun d => (s.clk.get d).band0.isSome) = true := by
    simpa [hm, hst] using hb
  have hfold := foldl_failCutOff_id (s := s.restored) fun d hd => (restored_cutOff s d).trans (hc d (by rwa [State.dies, restored_only s .part rfl] at hd))
  exact (onlyIf_of_true hgo).trans (congrArg (fun t : State => Host.Outcome.next t.bootEnded.idleEntered) hfold)

theorem idleEntered_facts (t : State) :
    t.idleEntered.mode.mode = .idle ∧ t.idleEntered.mode.bootPhase = t.mode.bootPhase ∧ t.idleEntered.sec.stage = t.sec.stage
      ∧ t.idleEntered.sec.bootedAt = t.sec.bootedAt ∧ (∀ b, t.idleEntered.nv.sec.fails b = t.nv.sec.fails b)
      ∧ t.idleEntered.nv.sec.updating = none ∧ t.idleEntered.time = t.time := by
  obtain ⟨hmode, htime, hstage, hat, hfails, hnone⟩ := reportBoot_facts (setMode .idle (.unstated t.freeNat) (advanceFree t))
  have hidle : (reportBoot (setMode .idle (.unstated t.freeNat) (advanceFree t))).mode.mode = .idle := by rw [hmode, setMode_mode]
  simp only [setMode_keeps, setMode_within, setMode_mode] at hmode htime hstage hat hfails
  simp only [State.idleEntered, refresh_keeps, refresh_within, refresh_mode (congrArg OpMode.reception hidle)]
  exact ⟨hidle, by rw [hmode]; rfl, hstage, hat, hfails, hnone, htime⟩

theorem bootEnded_facts (s : State) :
    s.bootEnded.mode.bootPhase = 5 ∧ s.bootEnded.sec.stage = .done ∧ s.bootEnded.sec.bootedAt = s.now
      ∧ s.bootEnded.nv.sec.fails s.sec.runningB = 0 ∧ s.bootEnded.time = s.time := by
  have hkey := newHallKey_only s.now s
  have hrun : (newHallKey s.now s).sec.runningB = s.sec.runningB := by
    unfold newHallKey
    simp only [raise_within]
    rfl
  have hnow : (newHallKey s.now s).now = s.now := hkey.now rfl
  have honly := fun u => applyDomains_only (State.modeDomains · .idle) u
  refine ⟨congrArg ModeSt.bootPhase (honly _ .mode rfl), congrArg SecSt.stage (honly _ .sec rfl), (congrArg SecSt.bootedAt (honly _ .sec rfl)).trans hnow,
    (congrArg (fun v : NvSt => v.sec.fails s.sec.runningB) (honly _ .nv rfl)).trans ?_, (honly _ .time rfl).trans (hkey .time rfl)⟩
  rw [hrun]
  exact (NvSec.fails_setFails ..).1

theorem restored_facts (s : State) : s.restored.sec.runningB = s.sec.runningB ∧ s.restored.now = s.now ∧ s.restored.time = s.time := by
  refine ⟨?_, (restored_only s).now rfl, restored_only s .time rfl⟩
  rw [State.restored, applyRetired_only _ .sec rfl, loadCal]
  split <;> simp only [raise_within]

theorem bootComplete_ends {s : State} (hm : s.mode.mode = .boot) (hst : s.sec.stage = .test) (hb : ∀ d < s.dies, (s.clk.get d).band0.isSome = true)
    (hc : ∀ d < s.dies, s.cutOff d = false) :
    ∃ t, exec .bootComplete s = .next t ∧ t.mode.mode = .idle ∧ t.mode.bootPhase = 5 ∧ t.sec.stage = .done ∧ t.sec.bootedAt = s.now
      ∧ t.nv.sec.fails s.sec.runningB = 0 ∧ t.nv.sec.updating = none ∧ t.time = s.time := by
  obtain ⟨hidle, hphase, hstage, hat, hfails, hnone, htime⟩ := idleEntered_facts s.restored.bootEnded
  obtain ⟨bphase, bstage, bat, bfails, btime⟩ := bootEnded_facts s.restored
  obtain ⟨rrun, rnow, rtime⟩ := restored_facts s
  exact ⟨_, bootComplete_runs hm hst hb hc, hidle, hphase.trans bphase, hstage.trans bstage, hat.trans (bat.trans rnow),
    (hfails _).trans (rrun ▸ bfails), hnone, htime.trans (btime.trans rtime)⟩

/-- Settles O12: stage by stage, what the command of each stage leaves. -/
theorem bootStages : Obligations.BootStages :=
  ⟨fun _ hm hst => ⟨romCheckDone_passes hm hst, fun _ _ => romCheckDone_halts hm hst⟩,
    fun _ hm hst => ⟨imageCheckDone_boots hm hst, imageCheckDone_triesOther hm hst, imageCheckDone_recovers hm hst⟩,
    fun _ => dieLoadDone_loads, fun _ _ _ _ => dieSelfTestDone_stores, fun _ => bootComplete_ends⟩

end Sys2Proof.Machine
end

section
/-!
PROOFS. Power domains, supply trips and lockstep (17 R435, 01 R33, R34).
-/
namespace Sys2Proof.Machine

theorem domainRampDone_arms {s : State} {d dom : Nat} (hd : d < s.dies) (hdom : dom < 14) (hon : maskBit (s.domains.get d).on dom = true)
    (ha : maskBit (s.domains.get d).armed dom = false) (hat : (s.domains.get d).onAt.getD dom 0 ≤ s.now) :
    ∃ t, exec (.domainRampDone d dom) s = .next t ∧ Only [.domains] s t
      ∧ t.domains.get d = { s.domains.get d with armed := (s.domains.get d).armed ||| 2 ^ dom } ∧ ∀ e, e ≠ d → t.domains.get e = s.domains.get e := by
  have hrun : exec (.domainRampDone d dom) s = .next _ := onlyIf_of_true (by simp [hd, hdom, hon, ha, -List.getD_eq_getElem?_getD, hat])
  exact ⟨_, hrun, (execDomainRampDone_frames d dom s).onlyOf hrun, Tbl.get_modify_self _ _ _, fun _ he => Tbl.get_modify_of_ne _ he _⟩

/-- A domain that enters service sets its READY bit; only 0, 2 and 13 start anything. -/
theorem serveDomain_facts (d dom : Nat) (s : State) :
    (serveDomain d dom s).domains = s.domains.modify d (fun x => { x with ready := x.ready ||| 2 ^ dom })
      ∧ (dom ≠ 0 → dom ≠ 2 → dom ≠ 13 → (serveDomain d dom s).clk = s.clk ∧ (serveDomain d dom s).mon = s.mon ∧ (serveDomain d dom s).spans = s.spans) := by
  have hloop : ∀ l u, (startLoop d l u).domains = u.domains := fun l u => startLoop_only d l u .domains rfl
  unfold serveDomain
  dsimp only
  split
  · exact ⟨hloop .sys _, fun h => absurd rfl h⟩
  · exact ⟨hloop .samp _, fun _ h => absurd rfl h⟩
  · exact ⟨hloop .aud _, fun _ _ h => absurd rfl h⟩
  · exact ⟨rfl, fun _ _ _ => ⟨rfl, rfl, rfl⟩⟩

theorem domainInService_serves {s : State} {d dom band : Nat} {temp : Int} (hd : d < s.dies) (hdom : dom < 14)
    (ha : maskBit (s.domains.get d).armed dom = true) (hr : maskBit (s.domains.get d).ready dom = false) :
    ∃ t, exec (.domainInService d dom temp band) s = .next t ∧ Only [.clk, .spans, .mon, .domains] s t
      ∧ t.domains.get d = { s.domains.get d with ready := (s.domains.get d).ready ||| 2 ^ dom } ∧ (∀ e, e ≠ d → t.domains.get e = s.domains.get e)
      ∧ (dom ≠ 0 → dom ≠ 2 → dom ≠ 13 → t.clk = s.clk ∧ t.mon = s.mon ∧ t.spans = s.spans) := by
  have hrun : exec (.domainInService d dom temp band) s = .next
      (let t := serveDomain d dom s
       if dom = 2 && (t.clk.get d).samp.locked then
         convertTemp2 d (t.setClk d fun c => c.setBand c.plan ⟨((c.band c.plan).map (·.band)).getD band, temp⟩)
       else t) := onlyIf_of_true (by simp [hd, hdom, ha, hr])
  obtain ⟨hready, hquiet⟩ := serveDomain_facts d dom s
  have hself : ∀ t : State, t.domains = (serveDomain d dom s).domains →
      t.domains.get d = { s.domains.get d with ready := (s.domains.get d).ready ||| 2 ^ dom } ∧ ∀ e, e ≠ d → t.domains.get e = s.domains.get e := by
    intro t ht
    rw [ht, hready]
    exact ⟨Tbl.get_modify_self _ _ _, fun _ he => Tbl.get_modify_of_ne _ he _⟩
  refine ⟨_, hrun, (execDomainInService_frames d dom temp band s).onlyOf hrun, ?_⟩
  dsimp only
  split
  · next h2 =>
    have hdom2 : dom = 2 := by simpa using (Bool.and_eq_true_iff.mp h2).1
    obtain ⟨hd1, hd2⟩ := hself (convertTemp2 d ((serveDomain d dom s).setClk d fun c => c.setBand c.plan ⟨((c.band c.plan).map (·.band)).getD band, temp⟩))
      (convertTemp2_only _ _ .domains rfl)
    exact ⟨hd1, hd2, fun _ h => absurd hdom2 h⟩
  · obtain ⟨hd1, hd2⟩ := hself (serveDomain d dom s) rfl
    exact ⟨hd1, hd2, hquiet⟩

/-- The state with a trip noted and reported (14 R376). -/
def State.tripNoted (s : State) (d dom : Nat) (tooHigh : Bool) : State :=
  raise .supplyTrip d [.w d, .w dom, .w (b2n tooHigh)] { s with domains := s.domains.modify d fun x => { x with tripped := x.tripped ||| 2 ^ dom } }

theorem tripNoted_raises (s : State) (d dom : Nat) (tooHigh : Bool) :
    Raises s (s.tripNoted d dom tooHigh) .supplyTrip d [.w d, .w dom, .w (b2n tooHigh)] :=
  Raises.raise (as := [.domains]) (Only.ofMk rfl (Only.refl _ s)) rfl rfl _ _ _

/-- The domain whose own supply tripped goes off as well. -/
theorem domainOffIf_only (c : Prop) [Decidable c] (d b : Nat) (s : State) : Only [.clk, .spans, .domains] s (if c then domainOff d b s else s) :=
  Only.ite (domainOff_only d b s) (Only.refl _ s)

theorem supplyTrip_fencesOrHalts {s : State} {d dom : Nat} {tooHigh : Bool} (hd : d < s.dies) (hdom : dom < 14)
    (ha : maskBit (s.domains.get d).armed dom = true) :
    ∃ t, exec (.supplyTrip d dom tooHigh) s = .next t ∧ Raises s t .supplyTrip d [.w d, .w dom, .w (b2n tooHigh)]
      ∧ (d ≠ 0 → t.integ.fenced.contains d = true) ∧ (d = 0 → t.mode.mode = .halted) ∧ t.time = s.time ∧ t.ref = s.ref := by
  have hgo : (decide (d < s.dies) && decide (dom < 14) && maskBit (s.domains.get d).armed dom) = true := by simp [hd, hdom, ha]
  have hnoted := tripNoted_raises s d dom tooHigh
  by_cases h0 : d = 0
  · subst h0
    have hend := domainOffIf_only (dom = 0) 0 0 (enterHalted 4 (s.tripNoted 0 dom tooHigh))
    have hrun : exec (.supplyTrip 0 dom tooHigh) s = .next _ := onlyIf_of_true hgo
    have honly := (execSupplyTrip_frames 0 dom tooHigh s).onlyOf hrun
    exact ⟨_, hrun, (hnoted.andThen (enterHalted_only 4 _) rfl).andThen hend rfl, fun h => absurd rfl h,
      fun _ => (hend .modeCode rfl).trans (enterHalted_mode 4 _), honly .time rfl, honly .ref rfl⟩
  · have hend := domainOffIf_only (dom = 1) d 1 (fenceDie d .supply (dom != 1) (s.tripNoted d dom tooHigh))
    have hrun : exec (.supplyTrip d dom tooHigh) s = .next
        (if dom = 1 then domainOff d 1 (fenceDie d .supply (dom != 1) (s.tripNoted d dom tooHigh)) else fenceDie d .supply (dom != 1) (s.tripNoted d dom tooHigh)) :=
      (onlyIf_of_true hgo).trans (congrArg Host.Outcome.next (if_pos h0))
    have honly := (execSupplyTrip_frames d dom tooHigh s).onlyOf hrun
    exact ⟨_, hrun, (hnoted.andThen (fenceDie_only d _ _ _) rfl).andThen hend rfl, fun _ => hend .fences rfl d (fenceDie_fenced d _ _ _),
      fun h => absurd h h0, honly .time rfl, honly .ref rfl⟩

theorem lockstepDisagreement_fencesOrHalts {s : State} {d : Nat} (hup : s.dieUp d = true) (hr : maskBit (s.domains.get d).ready 0 = true)
    (hm : s.mode.mode ≠ .halted) :
    ∃ t, exec (.lockstepDisagreement d) s = .next t
      ∧ (d ≠ 0 → t.integ.fenced.contains d = true ∧ Raises s t .lockstepFault d [.w d, .q s.now] ∧ t.ref = s.ref ∧ t.time = s.time ∧ t.nv = s.nv)
      ∧ (d = 0 → t.mode.mode = .halted ∧ t.integ.haltCause = 1 ∧ t.ref = s.ref ∧ t.time = s.time) := by
  have hgo : (s.dieUp d && s.domainReady d 0 && s.mode.mode != .halted) = true := by simp [hup, State.domainReady, hr, hm]
  by_cases h0 : d = 0
  · subst h0
    have hhalt := enterHalted_only 1 s
    exact ⟨enterHalted 1 s, onlyIf_of_true hgo, fun h => absurd rfl h,
      fun _ => ⟨enterHalted_mode 1 s, enterHalted_cause 1 s hm, hhalt .ref rfl, hhalt .time rfl⟩⟩
  · have hfence := fenceDie_only d .lockstep true (raise .lockstepFault d [.w d, .q s.now] s)
    have hraise := raise_only .lockstepFault d [.w d, .q s.now] s
    refine ⟨_, (onlyIf_of_true hgo).trans (congrArg Host.Outcome.next (if_neg h0)), fun _ => ⟨fenceDie_fenced d _ _ _, ?_, ?_, ?_, ?_⟩, fun h => absurd h h0⟩
    · exact (Raises.raise (Only.refl [] s) rfl rfl _ _ _).andThen hfence rfl
    · exact (hfence .ref rfl).trans (hraise .ref rfl)
    · exact (hfence .time rfl).trans (hraise .time rfl)
    · exact (hfence .nv rfl).trans (hraise .nv rfl)

/-- Settles O13: a domain's own word changes as its ramp and its clearing end; a trip or a disagreement fences the die, or halts the part for die 0. -/
theorem domainsAndFences : Obligations.DomainsAndFences :=
  ⟨fun _ _ _ => domainRampDone_arms, fun _ _ _ _ _ => domainInService_serves, fun _ _ _ _ => supplyTrip_fencesOrHalts,
    fun _ _ => lockstepDisagreement_fencesOrHalts⟩

end Sys2Proof.Machine
end

section
/-!
PROOFS. The reference and the loops (02 R56, R57, R64, R65): coast, attempt, relock.
-/
namespace Sys2Proof.Machine

/-! ### Spans and loops -/

/-- A span of CLOCK_SUSPECT outlives the refresh of the summary, which moves the HOLDOVER condition's span alone. -/
theorem refresh_spans_mem {s : State} {x : ClockSpan} (hx : x ∈ s.spans) (hs : x.scope ≠ none) : x ∈ (refresh s).spans := by
  have hhold : x ∈ (holdSpan s).spans := by
    unfold holdSpan
    dsimp only
    split
    · exact List.mem_append_left _ hx
    · split
      · refine List.mem_map.mpr ⟨x, hx, if_neg ?_⟩
        simp [hs]
      · exact hx
  have hrec : (reconcileMode (holdSpan s)).spans = (holdSpan s).spans := reconcileMode_only _ .spans rfl
  unfold refresh
  dsimp only
  split
  · rwa [hrec]
  · rw [raise_only _ _ _ _ .spans rfl]
    exact hrec ▸ hhold

theorem openSuspect_open (sc : SuspectScope) (s : State) : ∃ x ∈ (openSuspect sc s).spans, x.scope = some sc ∧ x.stop = none := by
  unfold openSuspect
  split
  · next hany =>
    obtain ⟨x, hx, hopen⟩ := List.any_eq_true.mp hany
    exact ⟨x, hx, by simpa using hopen⟩
  · exact ⟨_, List.mem_append_right _ (List.mem_singleton_self _), rfl, rfl⟩

@[simp] theorem setLoop_rootPresent (c : DieClk) (l : DieLoop) (x : LoopSt) : (c.setLoop l x).rootPresent = c.rootPresent := by cases l <;> rfl

@[simp] theorem setLoop_hop (c : DieClk) (l : DieLoop) (x : LoopSt) : (c.setLoop l x).hop = c.hop := by cases l <;> rfl

/-- A coasting loop: on its hold DAC since `n`. -/
def LoopSt.onHoldDac (x : LoopSt) (n : Nat) : LoopSt := { x with locked := false, coasting := true, coastAt := n, attempt := none }

theorem coastLoop_get (d e : Nat) (l : DieLoop) (s : State) :
    (coastLoop d l s).clk.get e = if e = d then (s.clk.get d).setLoop l (((s.clk.get d).loop l).onHoldDac s.now) else s.clk.get e := by
  rw [coastLoop_clk, setClk_get]
  rfl

/-- A counted unlock can hold its loop and changes nothing else of the clocks. -/
theorem countUnlock_get (d : Nat) (l : DieLoop) (s : State) :
    (∃ h, ((countUnlock d l s).clk.get d) = (s.clk.get d).setLoop l { (s.clk.get d).loop l with held := h })
      ∧ ∀ e, e ≠ d → (countUnlock d l s).clk.get e = s.clk.get e := by
  refine ⟨?_, fun e he => (countUnlock_clk d e l l s).elim id fun h => absurd h.1 he⟩
  rcases countUnlock_clk d d l l s with h | ⟨-, h⟩
  · exact ⟨((s.clk.get d).loop l).held, by rw [h]; cases l <;> rfl⟩
  · exact ⟨true, h⟩

/-! ### Loss and return of the reference -/

theorem refinLoss_coasts {s : State} (h : s.ref.present = true) :
    ∃ t, exec .refinLoss s = .next t ∧ Only [.ref, .spans, .link, .integ, .mode, .sec, .modeCode] s t
      ∧ t.ref = { s.ref with present := false, locked := false, coasting := true, coastAt := s.now, attempt := none }
      ∧ (∃ x ∈ t.spans, x.scope = some .refCoast ∧ x.stop = none)
      ∧ Raises s t .refLost pkg [.q s.now] := by
  have hrun : exec .refinLoss s = .next _ := onlyIf_of_true h
  refine ⟨_, hrun, (execRefinLoss_frames s).onlyOf hrun, ?_, ?_, ?_⟩
  · simp only [refresh_keeps, raise_keeps, coastRef_ref]
    rfl
  · obtain ⟨x, hx, hsc, hst⟩ := openSuspect_open .refCoast
      { s with ref := { s.ref with present := false, locked := false, coasting := true, coastAt := s.now, attempt := none } }
    refine ⟨x, refresh_spans_mem ?_ (by rw [hsc]; exact nofun), hsc, hst⟩
    rw [raise_only _ _ _ _ .spans rfl]
    exact hx
  · have hcoast : Only [.ref, .spans] s (coastRef { s with ref := { s.ref with present := false } }) :=
      (coastRef_only _).andThen rfl (Only.ofMk rfl (Only.refl _ s))
    exact (Raises.raise hcoast rfl rfl _ _ _).andThen (refresh_only _) rfl

theorem refinReturn_attempts {s : State} {phase : Int} (hp : s.ref.present = false) (hm : s.mode.mode ≠ .off) :
    ∃ t, exec (.refinReturn phase) s = .next t ∧ Only [.ref] s t
      ∧ t.ref = { s.ref with present := true, attempt := some s.now, buildOut := wrapPs s.refPs phase, returned := s.ref.returned ++ [wrapPs s.refPs phase] } := by
  have hrun : exec (.refinReturn phase) s = .next _ := onlyIf_of_true (by simp [hp, hm])
  exact ⟨_, hrun, (execRefinReturn_frames phase s).onlyOf hrun, rfl⟩

theorem rootLossAtDie_coasts {s : State} {d : Nat} (hd : d < s.dies) (hp : (s.clk.get d).rootPresent = true) :
    ∃ t, exec (.rootLossAtDie d) s = .next t ∧ Only [.clk, .spans, .front, .taps, .lanes, .ports, .link, .cal, .integ, .mode, .mb, .sec, .modeCode] s t
      ∧ (t.clk.get d).rootPresent = false
      ∧ (∀ l, ((t.clk.get d).loop l).coasting = true ∧ ((t.clk.get d).loop l).locked = false ∧ ((t.clk.get d).loop l).coastAt = s.now)
      ∧ ∀ e, e ≠ d → t.clk.get e = s.clk.get e := by
  have hrun : exec (.rootLossAtDie d) s = .next _ := onlyIf_of_true (by simp [hd, hp])
  refine ⟨_, hrun, (execRootLossAtDie_frames d s).onlyOf hrun, ?_, fun l => ?_, fun e he => ?_⟩
  · simp [coastLoop_get]
  · cases l <;> simp [coastLoop_get, setLoop_loop, LoopSt.onHoldDac, coastLoop_now, setClk_now]
  · simp [coastLoop_get, setClk_get, he]

@[simp] theorem coastReturn_rootPresent (n : Nat) (phases : List Int) (l : DieLoop) (c : DieClk) : (coastReturn n phases l c).rootPresent = c.rootPresent := by
  simp only [coastReturn, apply_ite DieClk.rootPresent, setLoop_rootPresent, ite_self]

theorem rootReturnAtDie_attempts {s : State} {d : Nat} {phases : List Int} (hd : d < s.dies) (hp : (s.clk.get d).rootPresent = false) :
    ∃ t, exec (.rootReturnAtDie d phases) s = .next t ∧ Only [.clk] s t
      ∧ (t.clk.get d).rootPresent = true
      ∧ (∀ l, (t.clk.get d).loop l = if ((s.clk.get d).loop l).coasting = true ∧ ((s.clk.get d).loop l).held = false
          then { (s.clk.get d).loop l with attempt := some s.now, buildOut := wrapPs l.pfdPs (phases.getD l.code 0) } else (s.clk.get d).loop l)
      ∧ ∀ e, e ≠ d → t.clk.get e = s.clk.get e := by
  let close := fun c : DieClk => coastReturn s.now phases .aud (coastReturn s.now phases .sys (coastReturn s.now phases .samp { c with rootPresent := true }))
  have hrun : exec (.rootReturnAtDie d phases) s = .next (s.setClk d close) := onlyIf_of_true (by simp [hd, hp])
  have hself : (s.setClk d close).clk.get d = close (s.clk.get d) := Tbl.get_modify_self _ _ _
  refine ⟨_, hrun, State.setClk_only _ _ _, ?_, fun l => ?_, fun e he => Tbl.get_modify_of_ne _ he _⟩
  · simp [hself, close]
  · have hpresent : ∀ m, ({ s.clk.get d with rootPresent := true } : DieClk).loop m = (s.clk.get d).loop m := fun m => by cases m <;> rfl
    rw [hself]
    cases l <;> simp [close, coastReturn_loop, hpresent]

theorem raiseReturns_raises {as : List Aspect} {s u : State} (h : Only as s u) (he : as.contains .events = false) (ht : as.contains .systime = false)
    (hl : as.contains .link = true) (hi : as.contains .integ = true) (hsec : as.contains .sec = true) {phases : List Int} {diff p : Int} (hp : p ∈ phases) :
    Raises s (raiseReturns phases diff u) .refReturn pkg [.w p, .w diff] :=
  (foldl_raises (fun _ => .refReturn) (fun _ => pkg) (fun p => [.w p, .w diff]) he ht hl hi hsec phases u h).2 p hp

theorem refReturnTimeout_reports {s : State} (h : ∃ x ∈ s.ref.ppsWait, x.1 + 150000000 ≤ s.now) :
    ∃ t, exec .refReturnTimeout s = .next t ∧ Only [.ref, .link, .integ, .sec] s t
      ∧ t.ref = { s.ref with ppsWait := s.ref.ppsWait.filter fun x => decide (s.now < x.1 + 150000000) }
      ∧ ∀ x ∈ s.ref.ppsWait, x.1 + 150000000 ≤ s.now → Raises s t .refReturn pkg [.w x.2, .w (2 ^ 31)] := by
  have hdue : (s.ref.ppsWait.any fun x => decide (x.1 + 150000000 ≤ s.now)) = true := by simpa using h
  have hrun : exec .refReturnTimeout s = .next _ := onlyIf_of_true hdue
  have hnot : (fun x : Nat × Int => !decide (x.1 + 150000000 ≤ s.now)) = fun x => decide (s.now < x.1 + 150000000) := by
    funext x
    rw [← decide_not]
    simp only [Nat.not_le]
  refine ⟨_, hrun, (execRefReturnTimeout_frames s).onlyOf hrun, ?_, fun x hx hx2 => ?_⟩
  · rw [raiseReturns_only _ _ _ .ref rfl, ← hnot]
  · refine raiseReturns_raises (as := [.ref, .link, .integ, .sec]) (Only.ofMk rfl (Only.refl _ s)) rfl rfl rfl rfl rfl ?_
    exact List.mem_map_of_mem (List.mem_filter.mpr ⟨hx, by simpa using hx2⟩)

/-- Settles O14: `coastRef` and `coastLoop` say what a loss leaves, `coastReturn` what a return closes. -/
theorem referenceLossAndReturn : Obligations.ReferenceLossAndReturn :=
  ⟨fun _ => refinLoss_coasts, fun _ _ => refinReturn_attempts, fun _ _ => rootLossAtDie_coasts, fun _ _ _ => rootReturnAtDie_attempts,
    fun _ => refReturnTimeout_reports⟩

end Sys2Proof.Machine
end

section
/-!
PROOFS. Loops that lose lock, try and relock, and their drift (02 R44, R56 to R60, R64, R65, R472).
-/
namespace Sys2Proof.Machine

/-! ### Loss of lock -/

theorem lossOfLock_ref {s : State} (hl : s.ref.locked = true) (hc : s.ref.coasting = false) :
    ∃ t, exec (.lossOfLock .ref) s = .next t ∧ Only [.ref, .spans, .link, .integ, .mode, .sec, .modeCode] s t
      ∧ t.ref = { s.ref with locked := false, coasting := true, coastAt := s.now, attempt := none } := by
  refine ⟨_, onlyIf_of_true (by simp [hl, hc]), (refresh_only _).andThen rfl ((coastRef_only s).mono rfl), ?_⟩
  rw [refresh_only _ .ref rfl, coastRef_ref]

/-- A die loop that unlocks: on its hold DAC, PLL_UNLOCK raised, perhaps held (R56, R57). -/
theorem unlock_facts (d : Nat) (l : DieLoop) (s : State) :
    (∃ h, (refresh (countUnlock d l (coastLoop d l s))).clk.get d = (s.clk.get d).setLoop l { ((s.clk.get d).loop l).onHoldDac s.now with held := h })
      ∧ (∀ e, e ≠ d → (refresh (countUnlock d l (coastLoop d l s))).clk.get e = s.clk.get e)
      ∧ Raises s (refresh (countUnlock d l (coastLoop d l s))) .pllUnlock d [.w d, .w l.code, .q s.now] := by
  obtain ⟨⟨h, hself⟩, hother⟩ := countUnlock_get d l (coastLoop d l s)
  rw [refresh_clk]
  refine ⟨⟨h, ?_⟩, fun e he => ?_, (countUnlock_raises d l s (coastLoop_only d l s) rfl rfl).andThen (refresh_only _) rfl⟩
  · rw [hself, coastLoop_get, if_pos rfl, setLoop_loop, if_pos rfl]
    cases l <;> rfl
  · rw [hother e he, coastLoop_get, if_neg he]

theorem lossOfLock_die {s : State} {d : Nat} {l : DieLoop} (hd : d < s.dies) (hl : ((s.clk.get d).loop l).locked = true)
    (hc : ((s.clk.get d).loop l).coasting = false) (hmask : l = .samp → (s.clk.get d).hop.masked = false) :
    ∃ t, exec (.lossOfLock (.die d l)) s = .next t ∧ Only [.clk, .spans, .front, .taps, .lanes, .ports, .link, .cal, .integ, .mode, .mb, .sec, .modeCode] s t
      ∧ ((t.clk.get d).loop l).locked = false ∧ ((t.clk.get d).loop l).coasting = true ∧ ((t.clk.get d).loop l).coastAt = s.now
      ∧ Raises s t .pllUnlock d [.w d, .w l.code, .q s.now] ∧ ∀ e, e ≠ d → t.clk.get e = s.clk.get e := by
  have hfree : (!(decide (l = .samp) && (s.clk.get d).hop.masked)) = true := by
    by_cases h : l = .samp <;> simp [h, hmask]
  obtain ⟨⟨h, hself⟩, hother, hraise⟩ := unlock_facts d l s
  have hloop : ((refresh (countUnlock d l (coastLoop d l s))).clk.get d).loop l = { ((s.clk.get d).loop l).onHoldDac s.now with held := h } := by
    rw [hself, setLoop_loop, if_pos rfl]
  refine ⟨_, onlyIf_of_true ?_, (refresh_only _).andThen rfl ((countUnlock_only _ _ _).andThen rfl ((coastLoop_only d l s).mono rfl)),
    congrArg LoopSt.locked hloop, congrArg LoopSt.coasting hloop, congrArg LoopSt.coastAt hloop, hraise, hother⟩
  rw [hfree, hl, hc, decide_eq_true hd]
  rfl

/-! ### Attempts -/

theorem relockAttempt_ref {s : State} {phase : Int} (hl : s.ref.locked = false) (hp : s.ref.present = true) (ha : s.ref.attempt = none)
    (hat : s.ref.coastAt + 10000 ≤ s.now) :
    ∃ t, exec (.relockAttempt .ref phase) s = .next t ∧ Only [.ref] s t
      ∧ t.ref = { s.ref with attempt := some s.now, buildOut := wrapPs s.refPs phase } :=
  ⟨_, onlyIf_of_true (by simp [hl, hp, ha, hat]), Only.ofMk rfl (Only.refl _ s), rfl⟩

theorem relockAttempt_die {s : State} {d : Nat} {l : DieLoop} {phase : Int} (hd : d < s.dies) (hc : ((s.clk.get d).loop l).coasting = true)
    (hh : ((s.clk.get d).loop l).held = false) (hr : (s.clk.get d).rootPresent = true) (ha : ((s.clk.get d).loop l).attempt = none)
    (hat : ((s.clk.get d).loop l).coastAt + 10000 ≤ s.now) :
    ∃ t, exec (.relockAttempt (.die d l) phase) s = .next t ∧ Only [.clk] s t
      ∧ (t.clk.get d).loop l = { (s.clk.get d).loop l with attempt := some s.now, buildOut := wrapPs l.pfdPs phase }
      ∧ ∀ e, e ≠ d → t.clk.get e = s.clk.get e := by
  refine ⟨_, onlyIf_of_true (by simp [hd, hc, hh, hr, ha, hat]), State.setClk_only _ _ _, ?_, fun e he => Tbl.get_modify_of_ne _ he _⟩
  rw [setClk_get, if_pos rfl, setLoop_loop, if_pos rfl]

theorem relockAttemptFailed_ref {s : State} {a : Nat} (ha : s.ref.attempt = some a) (hat : a + 1000000 ≤ s.now) :
    ∃ t, exec (.relockAttemptFailed .ref) s = .next t ∧ Only [.ref, .spans, .link, .integ, .mode, .sec, .modeCode] s t
      ∧ t.ref = { s.ref with locked := false, coasting := true, attempt := none, coastAt := s.now } := by
  have hrun : exec (.relockAttemptFailed .ref) s = .next (refresh (coastRef s)) := by
    simp only [exec, execRelockAttemptFailed, ha]
    exact onlyIf_of_true (decide_eq_true hat)
  refine ⟨_, hrun, (refresh_only _).andThen rfl ((coastRef_only s).mono rfl), ?_⟩
  rw [refresh_only _ .ref rfl, coastRef_ref]

theorem incompleteHop_clk (d : Nat) (s : State) :
    (incompleteHop d s).clk = (s.setClk d fun c => { c with hop := { c.hop with phase := .incomplete } }).clk := by
  unfold incompleteHop
  dsimp only
  rw [endHop_only _ _ _ .clk rfl, failConverter_only _ _ _ _ .clk rfl, failConverter_only _ _ _ _ .clk rfl]

theorem endWaitIfHeld_get (d : Nat) (s : State) :
    (∀ l, ((endWaitIfHeld d s).clk.get d).loop l = (s.clk.get d).loop l) ∧ ∀ e, e ≠ d → (endWaitIfHeld d s).clk.get e = s.clk.get e := by
  unfold endWaitIfHeld
  dsimp only
  split
  · simp only [incompleteHop_clk, setClk_get, if_true]
    exact ⟨fun l => by cases l <;> rfl, fun e he => if_neg he⟩
  · exact ⟨fun _ => rfl, fun _ _ => rfl⟩

theorem relockAttemptFailed_die {s : State} {d : Nat} {l : DieLoop} {a : Nat} (hd : d < s.dies) (ha : ((s.clk.get d).loop l).attempt = some a)
    (hat : a + 1000000 ≤ s.now) :
    ∃ t, exec (.relockAttemptFailed (.die d l)) s = .next t
      ∧ Only [.clk, .spans, .front, .taps, .link, .cfg, .cal, .integ, .mode, .domains, .mb, .sec, .modeCode] s t
      ∧ ((t.clk.get d).loop l).attempt = none ∧ ((t.clk.get d).loop l).coastAt = s.now
      ∧ Raises s t .pllUnlock d [.w d, .w l.code, .q s.now] ∧ ∀ e, e ≠ d → t.clk.get e = s.clk.get e := by
  let u := s.setClk d fun c => c.setLoop l { c.loop l with attempt := none, coastAt := s.now }
  have hu : Only [.clk] s u := State.setClk_only _ _ _
  have hrun : exec (.relockAttemptFailed (.die d l)) s = .next (refresh (endWaitIfHeld d (countUnlock d l u))) := by
    simp only [exec, execRelockAttemptFailed, ha]
    exact onlyIf_of_true (by simp [hd, hat])
  obtain ⟨hloops, hwait⟩ := endWaitIfHeld_get d (countUnlock d l u)
  obtain ⟨⟨h, hself⟩, hother⟩ := countUnlock_get d l u
  have hloop : ((refresh (endWaitIfHeld d (countUnlock d l u))).clk.get d).loop l = { (s.clk.get d).loop l with attempt := none, coastAt := s.now, held := h } := by
    rw [refresh_clk, hloops, hself, setLoop_loop, if_pos rfl, setClk_get, if_pos rfl, setLoop_loop, if_pos rfl]
  refine ⟨_, hrun, (refresh_only _).andThen rfl ((endWaitIfHeld_only _ _).andThen rfl ((countUnlock_only _ _ _).andThen rfl (hu.mono rfl))),
    congrArg LoopSt.attempt hloop, congrArg LoopSt.coastAt hloop,
    ((countUnlock_raises d l s hu rfl rfl).andThen (endWaitIfHeld_only _ _) rfl).andThen (refresh_only _) rfl, fun e he => ?_⟩
  rw [refresh_clk, hwait e he, hother e he, setClk_get, if_neg he]

/-! ### Relocks -/

theorem relockRef_facts (s : State) :
    (relockRef s).ref = { s.ref with locked := true, coasting := false, attempt := none, returned := []
                                     ppsWait := if s.time.ppsEnable then s.ref.ppsWait ++ s.ref.returned.map fun p => (s.now, p) else s.ref.ppsWait }
      ∧ (s.time.ppsEnable = false → ∀ p ∈ s.ref.returned, Raises s (relockRef s) .refReturn pkg [.w p, .w (2 ^ 31)]) := by
  let v : State := closeSuspect .refCoast { s with ref := { s.ref with locked := true, coasting := false, attempt := none } }
  let u : State := { v with clk := v.clk.mapAll v.dies fun _ c => endMute v.now false c }
  have hrelock : relockRef s = if s.time.ppsEnable then
      { u with ref := { u.ref with returned := [], ppsWait := u.ref.ppsWait ++ s.ref.returned.map fun p => (s.now, p) } }
    else raiseReturns s.ref.returned noPps { u with ref := { u.ref with returned := [] } } := rfl
  rw [hrelock]
  cases hpps : s.time.ppsEnable with
  | true => exact ⟨rfl, nofun⟩
  | false =>
    have honly : Only [.ref, .clk, .spans, .link, .integ, .sec] s { u with ref := { u.ref with returned := [] } } :=
      Only.ofMk rfl (Only.ofMk rfl ((closeSuspect_only _ _).andThen rfl (Only.ofMk rfl (Only.refl _ s))))
    refine ⟨?_, fun _ p hp => raiseReturns_raises honly rfl rfl rfl rfl rfl hp⟩
    rw [if_neg Bool.false_ne_true, raiseReturns_only _ _ _ .ref rfl]
    rfl

theorem pllRelock_ref {s : State} {temp : Int} {band : Nat} (hp : s.ref.present = true) (ha : s.ref.attempt.isSome = true) :
    ∃ t, exec (.pllRelock .ref temp band) s = .next t ∧ Only [.ref, .clk, .spans, .link, .integ, .mode, .sec, .modeCode] s t
      ∧ t.ref = { s.ref with locked := true, coasting := false, attempt := none, returned := []
                             ppsWait := if s.time.ppsEnable then s.ref.ppsWait ++ s.ref.returned.map fun p => (s.now, p) else s.ref.ppsWait }
      ∧ (s.time.ppsEnable = false → ∀ p ∈ s.ref.returned, Raises s t .refReturn pkg [.w p, .w (2 ^ 31)]) := by
  obtain ⟨href, hraise⟩ := relockRef_facts s
  exact ⟨_, onlyIf_of_true (by simp [hp, ha]), (refresh_only _).andThen rfl ((relockRef_only s).mono rfl), (refresh_only _ .ref rfl).trans href,
    fun hpps p hp => (hraise hpps p hp).andThen (refresh_only _) rfl⟩

@[simp] theorem endMute_loop (n : Nat) (r : Bool) (c : DieClk) (l : DieLoop) : (endMute n r c).loop l = c.loop l := by
  unfold endMute
  split <;> cases l <;> rfl

@[simp] theorem endMute_band (n : Nat) (r : Bool) (c : DieClk) (p : Nat) : (endMute n r c).band p = c.band p := by
  unfold endMute
  split
  · rfl
  · match p with
    | 0 => rfl
    | 1 => rfl
    | _ + 2 => rfl

@[simp] theorem setBand_loop (c : DieClk) (p : Nat) (b : BandResult) (l : DieLoop) : (c.setBand p b).loop l = c.loop l := by
  match p with
  | 0 => cases l <;> rfl
  | 1 => cases l <;> rfl
  | _ + 2 => cases l <;> rfl

@[simp] theorem setBand_band (c : DieClk) (p : Nat) (b : BandResult) : (c.setBand p b).band p = some b := by
  match p with
  | 0 => rfl
  | 1 => rfl
  | _ + 2 => rfl

@[simp] theorem convertTemp2_clk (d : Nat) (s : State) : (convertTemp2 d s).clk = s.clk := convertTemp2_only d s .clk rfl

/-- The state with loop `l` of die `d` locked, after PLL_RELOCK. -/
def State.relocked (s : State) (d : Nat) (l : DieLoop) : State :=
  let s := s.setClk d fun c => c.setLoop l { c.loop l with locked := true, coasting := false, attempt := none }
  raise .pllRelock d [.w d, .w l.code, .w ((s.clk.get d).loop l).buildOut] s

/-- A hop that ran late resumes from its lock (R46). -/
def DieClk.lateLock (late : Bool) (c : DieClk) : DieClk := if late then { c with hop := { c.hop with phase := .locked, late := true } } else c

@[simp] theorem lateLock_loop (late : Bool) (c : DieClk) (l : DieLoop) : (c.lateLock late).loop l = c.loop l := by
  cases late <;> cases l <;> rfl

@[simp] theorem lateLock_band (late : Bool) (c : DieClk) (p : Nat) : (c.lateLock late).band p = c.band p := by
  cases late <;> rfl

/-- What else a relock of the sampling loop does (R56, R64). -/
def State.sampRelocked (s : State) (d : Nat) (temp : Int) (band : Nat) : State :=
  let late := decide ((s.clk.get d).hop.phase = .waiting) || decide ((s.clk.get d).hop.phase = .incomplete)
  let s := convertTemp2 d (if late then s else closeSuspect (.convs d) s)
  s.setClk d fun c => (endMute s.now s.ref.coasting (c.setBand s.cfg.active.plan ⟨band, temp⟩)).lateLock late

theorem relockLoop_samp (d : Nat) (temp : Int) (band : Nat) (s : State) :
    relockLoop d .samp temp band s = (s.relocked d .samp).sampRelocked d temp band := by
  unfold relockLoop State.sampRelocked State.relocked DieClk.lateLock
  with_reducible rfl

theorem relockLoop_sys (d : Nat) (temp : Int) (band : Nat) (s : State) :
    relockLoop d .sys temp band s = closeSuspect (.units d) ((s.relocked d .sys).setClk d fun c => { c with sysDrift := 0 }) := by
  simp only [relockLoop, State.relocked]

theorem relockLoop_aud (d : Nat) (temp : Int) (band : Nat) (s : State) : relockLoop d .aud temp band s = s.relocked d .aud := by
  simp only [relockLoop, State.relocked]

theorem relocked_get (s : State) (d e : Nat) (l : DieLoop) :
    (s.relocked d l).clk.get e = if e = d then (s.clk.get d).setLoop l { (s.clk.get d).loop l with locked := true, coasting := false, attempt := none } else s.clk.get e := by
  unfold State.relocked
  rw [raise_clk, setClk_get]

/-- The build-out that PLL_RELOCK reports is the one that the loop keeps (R64). -/
theorem relocked_raises (s : State) (d : Nat) (l : DieLoop) :
    Raises s (s.relocked d l) .pllRelock d [.w d, .w l.code, .w ((s.clk.get d).loop l).buildOut] := by
  have hout : (((s.setClk d fun c => c.setLoop l { c.loop l with locked := true, coasting := false, attempt := none }).clk.get d).loop l).buildOut
      = ((s.clk.get d).loop l).buildOut := by rw [setClk_get, if_pos rfl, setLoop_loop, if_pos rfl]
  rw [← hout]
  exact Raises.raise (State.setClk_only s d _) rfl rfl _ _ _

/-- The loops of the die keep their state, the band result of the plan in force is stored. -/
theorem sampRelocked_facts (s : State) (d : Nat) (temp : Int) (band : Nat) :
    (∀ l, ((s.sampRelocked d temp band).clk.get d).loop l = (s.clk.get d).loop l)
      ∧ ((s.sampRelocked d temp band).clk.get d).band s.cfg.active.plan = some ⟨band, temp⟩
      ∧ (∀ e, e ≠ d → (s.sampRelocked d temp band).clk.get e = s.clk.get e)
      ∧ Only [.clk, .spans, .mon] s (s.sampRelocked d temp band) := by
  unfold State.sampRelocked
  dsimp only
  generalize (decide ((s.clk.get d).hop.phase = .waiting) || decide ((s.clk.get d).hop.phase = .incomplete)) = late
  have hconv : Only [.spans, .mon] s (convertTemp2 d (if late then s else closeSuspect (.convs d) s)) :=
    (convertTemp2_only d _).andThen rfl (Only.ite (Only.refl _ s) ((closeSuspect_only _ _).mono rfl))
  generalize convertTemp2 d (if late then s else closeSuspect (.convs d) s) = w at hconv ⊢
  have hclk : w.clk = s.clk := hconv .clk rfl
  have hcfg : w.cfg = s.cfg := hconv .cfg rfl
  simp only [setClk_get, if_true, hclk, hcfg, lateLock_loop, lateLock_band, endMute_loop, endMute_band, setBand_loop, setBand_band]
  exact ⟨fun _ => trivial, trivial, fun e he => if_neg he, (State.setClk_only _ _ _).andThen rfl (hconv.mono rfl)⟩

theorem relockLoop_facts (d : Nat) (l : DieLoop) (temp : Int) (band : Nat) (s : State) :
    ((relockLoop d l temp band s).clk.get d).loop l = { (s.clk.get d).loop l with locked := true, coasting := false, attempt := none }
      ∧ (l = .samp → ((relockLoop d l temp band s).clk.get d).band s.cfg.active.plan = some ⟨band, temp⟩)
      ∧ (∀ e, e ≠ d → (relockLoop d l temp band s).clk.get e = s.clk.get e)
      ∧ Raises s (relockLoop d l temp band s) .pllRelock d [.w d, .w l.code, .w ((s.clk.get d).loop l).buildOut] := by
  have hraise := relocked_raises s d l
  have hloop : ((s.relocked d l).clk.get d).loop l = { (s.clk.get d).loop l with locked := true, coasting := false, attempt := none } := by
    rw [relocked_get, if_pos rfl, setLoop_loop, if_pos rfl]
  have hother : ∀ e, e ≠ d → (s.relocked d l).clk.get e = s.clk.get e := fun e he => by rw [relocked_get, if_neg he]
  have hcfg : (s.relocked d l).cfg = s.cfg := raise_only _ _ _ _ .cfg rfl
  cases l with
  | samp =>
    obtain ⟨hloops, hband, hdies, honly⟩ := sampRelocked_facts (s.relocked d .samp) d temp band
    rw [relockLoop_samp]
    exact ⟨(hloops _).trans hloop, fun _ => (congrArg (fun c : CfgSt => DieClk.band _ c.active.plan) hcfg.symm).trans hband, fun e he => (hdies e he).trans (hother e he), hraise.andThen honly rfl⟩
  | sys =>
    rw [relockLoop_sys]
    simp only [closeSuspect_clk, setClk_get, if_true]
    refine ⟨hloop, nofun, fun e he => ?_, (hraise.andThen (State.setClk_only _ _ _) rfl).andThen (closeSuspect_only _ _) rfl⟩
    rw [if_neg he, hother e he]
  | aud => exact ⟨hloop, nofun, hother, hraise⟩

theorem pllRelock_die {s : State} {d : Nat} {l : DieLoop} {temp : Int} {band : Nat} (hd : d < s.dies) (hc : ((s.clk.get d).loop l).coasting = true)
    (ha : ((s.clk.get d).loop l).attempt.isSome = true) :
    ∃ t, exec (.pllRelock (.die d l) temp band) s = .next t ∧ Only [.clk, .spans, .link, .mon, .integ, .mode, .sec, .modeCode] s t
      ∧ (t.clk.get d).loop l = { (s.clk.get d).loop l with locked := true, coasting := false, attempt := none }
      ∧ Raises s t .pllRelock d [.w d, .w l.code, .w ((s.clk.get d).loop l).buildOut]
      ∧ (l = .samp → (t.clk.get d).band s.cfg.active.plan = some ⟨band, temp⟩) ∧ ∀ e, e ≠ d → t.clk.get e = s.clk.get e := by
  obtain ⟨hloop, hband, hother, hraise⟩ := relockLoop_facts d l temp band s
  refine ⟨_, onlyIf_of_true (by simp [hd, hc, ha]), (refresh_only _).andThen rfl ((relockLoop_only _ _ _ _ _).mono rfl), ?_⟩
  rw [refresh_clk]
  exact ⟨hloop, hraise.andThen (refresh_only _) rfl, hband, hother⟩

/-- Settles O15: each command of a loop through the lemma about what it does to the loop's own state. -/
theorem loopLock : Obligations.LoopLock :=
  ⟨fun _ => lossOfLock_ref, fun _ _ _ => lossOfLock_die, fun _ _ => relockAttempt_ref, fun _ _ _ _ => relockAttempt_die,
    fun _ _ => relockAttemptFailed_ref, fun _ _ _ _ => relockAttemptFailed_die, fun _ _ _ => pllRelock_ref, fun _ _ _ _ _ => pllRelock_die⟩

end Sys2Proof.Machine
end

section
/-!
PROOFS. Drift, SYSTIME and its replicas, SYNC (02 R42, R47, R50, R51, R58 to R60, R66).
-/
namespace Sys2Proof.Machine

/-! ### Drift -/

theorem mutedNow_fresh (c : DieClk) (n : Nat) : { c with driftMuted := true, mutedAt := n, muteEnds := none }.mutedNow n = true := by
  simp [DieClk.mutedNow]

theorem sampDriftEval_mutes {s : State} {d : Nat} {drift : Int} (hd : d < s.dies) (hc : ((s.clk.get d).samp.coasting || s.ref.coasting) = true) :
    ∃ t, exec (.sampDriftEval d drift) s = .next t ∧ Only [.clk, .link, .integ, .sec] s t ∧ (t.clk.get d).sampDrift = drift
      ∧ (drift.natAbs ≤ 200 → t.clk.get d = { s.clk.get d with sampDrift := drift } ∧ t.link = s.link)
      ∧ (200 < drift.natAbs → (t.clk.get d).mutedNow s.now = true)
      ∧ (200 < drift.natAbs → (s.clk.get d).mutedNow s.now = false → Raises s t .driftMute d [.w d, .w drift])
      ∧ ∀ e, e ≠ d → t.clk.get e = s.clk.get e := by
  let u := s.setClk d fun c => { c with sampDrift := drift }
  have hgo : (decide (d < s.dies) && ((s.clk.get d).samp.coasting || s.ref.coasting)) = true := by rw [decide_eq_true hd, hc]; rfl
  have hu : Only [.clk] s u := State.setClk_only _ _ _
  have hmuted : ∀ n, ({ s.clk.get d with sampDrift := drift } : DieClk).mutedNow n = (s.clk.get d).mutedNow n := fun _ => rfl
  by_cases hmute : 200 < drift.natAbs ∧ (s.clk.get d).mutedNow s.now = false
  · obtain ⟨hover, hopen⟩ := hmute
    have hrun : exec (.sampDriftEval d drift) s
        = .next (raise .driftMute d [.w d, .w drift] (u.setClk d fun c => { c with driftMuted := true, mutedAt := s.now, muteEnds := none })) :=
      (onlyIf_of_true hgo).trans (congrArg Host.Outcome.next (if_pos (by simp [hover, hopen])))
    have hv : Only [.clk] s (u.setClk d fun c => { c with driftMuted := true, mutedAt := s.now, muteEnds := none }) := (State.setClk_only _ _ _).andThen rfl hu
    refine ⟨_, hrun, (execSampDriftEval_frames d drift s).onlyOf hrun, ?_, fun h => absurd hover (Nat.not_lt.mpr h), fun _ => ?_,
      fun _ _ => Raises.raise hv rfl rfl _ _ _, fun e he => ?_⟩
    · simp [u]
    · simp only [raise_clk, State.setClk_self]
      exact mutedNow_fresh _ _
    · rw [raise_clk, State.setClk_of_ne _ _ _ he, State.setClk_of_ne _ _ _ he]
  · have hrun : exec (.sampDriftEval d drift) s = .next u :=
      (onlyIf_of_true hgo).trans (congrArg Host.Outcome.next (if_neg (by simpa using hmute)))
    have hself : u.clk.get d = { s.clk.get d with sampDrift := drift } := State.setClk_self _ _ _
    refine ⟨u, hrun, hu.mono rfl, congrArg DieClk.sampDrift hself, fun _ => ⟨hself, rfl⟩, fun hover => ?_,
      fun hover hopen => absurd ⟨hover, hopen⟩ hmute, fun e he => State.setClk_of_ne _ _ _ he⟩
    rw [hself, hmuted]
    exact eq_true_of_ne_false fun hopen => hmute ⟨hover, hopen⟩

theorem sysDriftEval_movesCore {s : State} {d : Nat} {drift : Int} (hd : d < s.dies) (hc : (s.clk.get d).sys.coasting = true) :
    ∃ t, exec (.sysDriftEval d drift) s = .next t ∧ Only [.clk, .spans, .taps, .link, .integ, .sec] s t ∧ (t.clk.get d).sysDrift = drift
      ∧ (drift.natAbs ≤ 2000 → t.clk.get d = { s.clk.get d with sysDrift := drift } ∧ t.link = s.link ∧ t.taps = s.taps)
      ∧ (2000 < drift.natAbs → (t.clk.get d).onRoot = true)
      ∧ (2000 < drift.natAbs → (s.clk.get d).onRoot = false → Raises s t .coreOnRoot d [.w d, .q s.now])
      ∧ ∀ e, e ≠ d → t.clk.get e = s.clk.get e := by
  let u := s.setClk d fun c => { c with sysDrift := drift }
  have hgo : (decide (d < s.dies) && (s.clk.get d).sys.coasting) = true := by rw [decide_eq_true hd, hc]; rfl
  have hu : Only [.clk] s u := State.setClk_only _ _ _
  by_cases hmove : 2000 < drift.natAbs ∧ (s.clk.get d).onRoot = false
  · obtain ⟨hover, hroot⟩ := hmove
    let v := openSuspect (.frozen d) (u.setClk d fun c => { c with onRoot := true, onRootAt := s.now })
    have hrun : exec (.sysDriftEval d drift) s = .next (matchZeroSpans s.now (raise .coreOnRoot d [.w d, .q s.now] v)) :=
      (onlyIf_of_true hgo).trans (congrArg Host.Outcome.next (if_pos (by simp [hover, hroot])))
    have hv : Only [.clk, .spans] s v := (openSuspect_only _ _).andThen rfl ((State.setClk_only _ _ _).andThen rfl (hu.mono rfl))
    have hclk : (matchZeroSpans s.now (raise .coreOnRoot d [.w d, .q s.now] v)).clk = v.clk := by
      rw [matchZeroSpans_only _ _ .clk rfl, raise_clk]
    have hvclk : v.clk = (u.setClk d fun c => { c with onRoot := true, onRootAt := s.now }).clk := openSuspect_clk _ _
    refine ⟨_, hrun, (execSysDriftEval_frames d drift s).onlyOf hrun, ?_, fun h => absurd hover (Nat.not_lt.mpr h), fun _ => ?_,
      fun _ _ => (Raises.raise hv rfl rfl _ _ _).andThen (matchZeroSpans_only _ _) rfl, fun e he => ?_⟩
    · rw [hclk, hvclk, State.setClk_self, State.setClk_self]
    · rw [hclk, hvclk, State.setClk_self]
    · rw [hclk, hvclk, State.setClk_of_ne _ _ _ he, State.setClk_of_ne _ _ _ he]
  · have hrun : exec (.sysDriftEval d drift) s = .next u :=
      (onlyIf_of_true hgo).trans (congrArg Host.Outcome.next (if_neg (by simpa using hmove)))
    have hself : u.clk.get d = { s.clk.get d with sysDrift := drift } := State.setClk_self _ _ _
    refine ⟨u, hrun, hu.mono rfl, congrArg DieClk.sysDrift hself, fun _ => ⟨hself, rfl, rfl⟩, fun hover => ?_,
      fun hover hroot => absurd ⟨hover, hroot⟩ hmove, fun e he => State.setClk_of_ne _ _ _ he⟩
    rw [hself]
    exact eq_true_of_ne_false fun hroot => hmove ⟨hover, hroot⟩

theorem coreRestored_ends {s : State} {d : Nat} (hd : d < s.dies) (hr : (s.clk.get d).onRoot = true) (hl : (s.clk.get d).sys.locked = true) (hn : s.now % 200000 = 0) :
    ∃ t, exec (.coreRestored d) s = .next t ∧ Only [.clk, .spans, .taps, .link, .integ, .sec] s t
      ∧ t.clk.get d = { s.clk.get d with onRoot := false } ∧ (∀ e, e ≠ d → t.clk.get e = s.clk.get e) ∧ Raises s t .coreRestored d [.w d, .q s.now] := by
  let u := closeSuspect (.frozen d) (s.setClk d fun c => { c with onRoot := false })
  have hrun : exec (.coreRestored d) s = .next (matchZeroSpans s.now (raise .coreRestored d [.w d, .q s.now] u)) :=
    onlyIf_of_true (by simp [hd, hr, hl, countsPerBlock, hn])
  have hu : Only [.clk, .spans] s u := (closeSuspect_only _ _).andThen rfl ((State.setClk_only _ _ _).mono rfl)
  have hclk : (matchZeroSpans s.now (raise .coreRestored d [.w d, .q s.now] u)).clk = (s.setClk d fun c => { c with onRoot := false }).clk := by
    rw [matchZeroSpans_only _ _ .clk rfl, raise_clk, closeSuspect_clk]
  refine ⟨_, hrun, (execCoreRestored_frames d s).onlyOf hrun, ?_, fun e he => ?_, (Raises.raise hu rfl rfl _ _ _).andThen (matchZeroSpans_only _ _) rfl⟩
  · rw [hclk, State.setClk_self]
  · rw [hclk, State.setClk_of_ne _ _ _ he]

/-- Settles O16: below its limit a drift is taken alone; above it the branch of R58 or R59 is taken unless it already holds. -/
theorem driftHandled : Obligations.DriftHandled :=
  ⟨fun _ _ _ => sampDriftEval_mutes, fun _ _ _ => sysDriftEval_movesCore, fun _ _ => coreRestored_ends⟩

/-! ### Replicas of SYSTIME -/

theorem systimeCompare_reports {s : State} {d : Nat} (hup : s.dieUp d = true) (hne : (s.clk.get d).replica ≠ s.time.systime) :
    ∃ t, exec (.systimeCompare d) s = .next t ∧ Only [.clk, .spans, .link, .integ, .mode, .sec, .modeCode] s t
      ∧ t.clk.get d = { s.clk.get d with reloadAt := some ((s.now / 100000 + 1) * 100000) } ∧ (∀ e, e ≠ d → t.clk.get e = s.clk.get e)
      ∧ Raises s t .systimeMismatch d [.w d, .w (((s.clk.get d).replica.toNat : Int) - s.now)] := by
  let u := openSuspect (.replica d) (s.setClk d fun c => { c with reloadAt := some (nextOf countsPerTick s.now) })
  have hdiff : ((s.clk.get d).replica.toNat : Int) - s.now ≠ 0 := fun h =>
    hne (BitVec.eq_of_toNat_eq (Int.ofNat_inj.mp (Int.sub_eq_zero.mp h)))
  have hrun : exec (.systimeCompare d) s = .next (refresh (raise .systimeMismatch d [.w d, .w (((s.clk.get d).replica.toNat : Int) - s.now)] u)) :=
    onlyIf_of_true (by rw [hup, decide_eq_true hdiff]; rfl)
  have hu : Only [.clk, .spans] s u := (openSuspect_only _ _).andThen rfl ((State.setClk_only _ _ _).mono rfl)
  have hclk : (refresh (raise .systimeMismatch d [.w d, .w (((s.clk.get d).replica.toNat : Int) - s.now)] u)).clk
      = (s.setClk d fun c => { c with reloadAt := some (nextOf countsPerTick s.now) }).clk := by
    rw [refresh_clk, raise_clk, openSuspect_clk]
  refine ⟨_, hrun, (execSystimeCompare_frames d s).onlyOf hrun, ?_, fun e he => ?_, (Raises.raise hu rfl rfl _ _ _).andThen (refresh_only _) rfl⟩
  · rw [hclk, State.setClk_self]
    rfl
  · rw [hclk, State.setClk_of_ne _ _ _ he]

theorem dieReload_clk (d : Nat) (s : State) : (dieReload d s).clk = (s.setClk d fun c => { c with edge := some (s.now, s.now), edges := c.edges + 1 }).clk := by
  have hfold : ∀ (l : List Nat) (v : State), Only [.taps] v (l.foldl (fun acc c => mapCluster c Chain.keepPast acc) v) :=
    fun l v => Only.foldl (fun v c => mapCluster_only c _ v) l v
  unfold dieReload
  dsimp only
  rw [hfold _ _ .clk rfl, dieInstant_only _ _ _ .clk rfl]

theorem replicaReload_loads {s : State} {d r : Nat} (hd : d < s.dies) (hreload : (s.clk.get d).reloadAt = some r) (hr : r ≤ s.now) :
    ∃ t, exec (.replicaReload d) s = .next t ∧ Only [.clk, .spans, .taps, .ports, .link, .integ, .mode, .sec, .modeCode] s t
      ∧ t.clk.get d = { s.clk.get d with replica := s.time.systime, reloadAt := none, edge := some (s.now, s.now), edges := (s.clk.get d).edges + 1 }
      ∧ ∀ e, e ≠ d → t.clk.get e = s.clk.get e := by
  let v := closeSuspect (.replica d) (s.setClk d fun c => { c with replica := s.time.systime, reloadAt := none })
  have hrun : exec (.replicaReload d) s = .next (refresh (reloadPorts d (dieReload d v))) := by
    simp only [exec, execReplicaReload, hreload]
    exact onlyIf_of_true (by simp [hd, hr])
  have hclk : (refresh (reloadPorts d (dieReload d v))).clk = (v.setClk d fun c => { c with edge := some (v.now, v.now), edges := c.edges + 1 }).clk := by
    rw [refresh_clk, reloadPorts_only _ _ .clk rfl, dieReload_clk]
  have hv : Only [.clk, .spans] s v := (closeSuspect_only _ _).andThen rfl ((State.setClk_only _ _ _).mono rfl)
  refine ⟨_, hrun, (execReplicaReload_frames d s).onlyOf hrun, ?_, fun e he => ?_⟩
  · rw [hclk, State.setClk_self, closeSuspect_clk, State.setClk_self, hv.now rfl]
  · rw [hclk, State.setClk_of_ne _ _ _ he, closeSuspect_clk, State.setClk_of_ne _ _ _ he]

/-! ### SYNC -/

/-- A fold that changes the clocks die by die changes those of the dies it visits, each once. -/
theorem foldl_clk {f : State → Nat → State} {g : DieClk → DieClk} (hf : ∀ u d, (f u d).clk = (u.setClk d g).clk) :
    ∀ (ds : List Nat) (u : State) (e : Nat), ds.Nodup → (ds.foldl f u).clk.get e = if e ∈ ds then g (u.clk.get e) else u.clk.get e
  | [], _, _, _ => by simp
  | d :: ds, u, e, hnd => by
    obtain ⟨hnot, hnd⟩ := List.nodup_cons.mp hnd
    rw [List.foldl_cons, foldl_clk hf ds _ e hnd, hf, setClk_get]
    by_cases he : e = d
    · subst he
      simp [hnot]
    · simp [he]

theorem dieEdge_clk (old new d : Nat) (s : State) :
    (dieEdge old new d s).clk = (s.setClk d fun c => { c with edge := some (old, new), edges := c.edges + 1, spreadFrom := new }).clk := by
  have hfold : ∀ (l : List Nat) (v : State), Only [.taps] v (l.foldl (fun acc c => mapCluster c (Chain.rebase old new) acc) v) :=
    fun l v => Only.foldl (fun v c => mapCluster_only c _ v) l v
  unfold dieEdge
  dsimp only
  rw [hfold _ _ .clk rfl]

/-- A die's clocks at an armed edge: its replica reloaded, the build-outs of its loops gone at a REALIGN (R50, R66). -/
def DieClk.loaded (v : Nat) (realign : Bool) (c : DieClk) : DieClk :=
  let c := { c with replica := BitVec.ofNat 64 v, reloadAt := none }
  if realign then { c with samp := c.samp.noBuildOut, sys := c.sys.noBuildOut, aud := c.aud.noBuildOut } else c

theorem loaded_false (v : Nat) (c : DieClk) : c.loaded v false = { c with replica := BitVec.ofNat 64 v, reloadAt := none } := rfl

theorem loaded_loop (v : Nat) (c : DieClk) (l : DieLoop) : (c.loaded v false).loop l = c.loop l := by cases l <;> rfl

theorem loaded_buildOut (v : Nat) (c : DieClk) (l : DieLoop) : ((c.loaded v true).loop l).buildOut = 0 := by cases l <;> rfl

theorem loaded_replica (v : Nat) (r : Bool) (c : DieClk) : (c.loaded v r).replica = BitVec.ofNat 64 v ∧ (c.loaded v r).reloadAt = none ∧ (c.loaded v r).edges = c.edges := by
  cases r <;> exact ⟨rfl, rfl, rfl⟩

/-- SYSTIME, the replicas and the build-outs as an armed edge loads them (R50, R66). -/
def State.sysLoaded (s : State) (v : Nat) (realign : Bool) : State :=
  let t : State := { s with time := { s.time with systime := BitVec.ofNat 64 v, armed := .none, aligned := true, lastSync := v, syncLost := false } }
  let t := { t with clk := t.clk.mapAll t.dies fun _ c => c.loaded v realign }
  if realign then { t with ref := { t.ref with buildOut := 0 } } else t

/-- What an armed edge ends in the dies and leaves to restart, after REALIGN_DONE. -/
def State.edgeTaken (s : State) (old v : Nat) : State :=
  let t := (List.range s.dies).foldl (fun acc d => closeSuspect (.replica d) (dieEdge old v d acc)) s
  let t := restartRotations ((List.range t.dies).foldl (fun acc n => endLevelStep n acc) t)
  refresh (passSync (resyncPorts old v (cutInterval old v t)))

theorem execSyncEdgeArmed_run {s : State} {v : Nat} (harm : s.time.armed ≠ .none) (hm : s.mode.mode ≠ .off)
    (hv : v = (if s.time.armed = .boot then s.bootDesignated else s.nearestDesignated).toNat) :
    exec .syncEdgeArmed s = .next ((raise .realignDone pkg [.w ((v : Int) - s.now)]
      (closeSuspect .unaligned (s.sysLoaded v (decide (s.time.armed = .realign))))).edgeTaken s.now v) := by
  subst hv
  exact onlyIf_of_true (by simp [harm, hm])

theorem sysLoaded_facts (s : State) (v : Nat) (realign : Bool) :
    (s.sysLoaded v realign).time = { s.time with systime := BitVec.ofNat 64 v, armed := .none, aligned := true, lastSync := v, syncLost := false }
      ∧ (s.sysLoaded v realign).clk = s.clk.mapAll s.dies (fun _ c => c.loaded v realign)
      ∧ (s.sysLoaded v realign).ref = (if realign then { s.ref with buildOut := 0 } else s.ref)
      ∧ (s.sysLoaded v realign).link = s.link ∧ (s.sysLoaded v realign).dies = s.dies := by
  cases realign <;> exact ⟨rfl, rfl, rfl, rfl, rfl⟩

theorem edgeTaken_facts (s : State) (old v : Nat) :
    Only [.clk, .spans, .front, .taps, .lanes, .ports, .link, .cal, .integ, .mode, .mb, .sec, .modeCode] s (s.edgeTaken old v)
      ∧ ∀ d, d < s.dies → (s.edgeTaken old v).clk.get d = { s.clk.get d with edge := some (old, v), edges := (s.clk.get d).edges + 1, spreadFrom := v } := by
  let t := (List.range s.dies).foldl (fun acc d => closeSuspect (.replica d) (dieEdge old v d acc)) s
  have ht : Only [.clk, .spans, .taps] s t := Only.foldl (fun u d => (closeSuspect_only _ _).andThen rfl ((dieEdge_only old v d u).mono rfl)) _ s
  have hsteps : Only [.front, .taps, .lanes, .link, .cal, .integ, .mb, .sec] t ((List.range t.dies).foldl (fun acc n => endLevelStep n acc) t) :=
    Only.foldl (fun u n => endLevelStep_only n u) _ t
  have hrest : Only [.spans, .front, .taps, .lanes, .ports, .link, .cal, .integ, .mode, .mb, .sec, .modeCode] t (s.edgeTaken old v) :=
    (refresh_only _).andThen rfl ((passSync_only _).andThen rfl ((resyncPorts_only _ _ _).andThen rfl ((cutInterval_only _ _ _).andThen rfl
      ((restartRotations_only _).andThen rfl (hsteps.mono rfl)))))
  refine ⟨(ht.mono rfl).trans (hrest.mono rfl), fun d hd => ?_⟩
  rw [hrest .clk rfl, foldl_clk (g := fun c => { c with edge := some (old, v), edges := c.edges + 1, spreadFrom := v })
    (fun u d => (closeSuspect_clk _ _).trans (dieEdge_clk old v d u)) _ _ _ List.nodup_range, if_pos (List.mem_range.mpr hd)]

theorem syncEdgeArmed_loads {s : State} (harm : s.time.armed ≠ .none) (hm : s.mode.mode ≠ .off) :
    ∃ t, exec .syncEdgeArmed s = .next t
      ∧ Only [.time, .ref, .clk, .spans, .front, .taps, .lanes, .ports, .link, .cal, .integ, .mode, .mb, .sec, .systime, .modeCode] s t
      ∧ (∃ v : Nat, v = (if s.time.armed = .boot then s.bootDesignated else s.nearestDesignated).toNat
          ∧ t.time = { s.time with systime := BitVec.ofNat 64 v, armed := .none, aligned := true, lastSync := v, syncLost := false }
          ∧ (∀ d, d < s.dies → (t.clk.get d).replica = BitVec.ofNat 64 v ∧ (t.clk.get d).reloadAt = none ∧ (t.clk.get d).edge = some (s.now, v)
              ∧ (t.clk.get d).edges = (s.clk.get d).edges + 1 ∧ (t.clk.get d).spreadFrom = v)
          ∧ ∃ l q, t.link.events = s.link.events ++ l ∧ (⟨.realignDone, pkg, q, v % 2 ^ 64, [.w ((v : Int) - s.now)]⟩ : Ev) ∈ l)
      ∧ (s.time.armed = .realign → t.ref.buildOut = 0 ∧ ∀ d, d < s.dies → ∀ l, ((t.clk.get d).loop l).buildOut = 0)
      ∧ (s.time.armed = .boot → t.ref = s.ref ∧ ∀ d, d < s.dies → ∀ l, (t.clk.get d).loop l = (s.clk.get d).loop l) := by
  obtain ⟨v, hv⟩ : ∃ v, v = (if s.time.armed = .boot then s.bootDesignated else s.nearestDesignated).toNat := ⟨_, rfl⟩
  have hrun := execSyncEdgeArmed_run harm hm hv
  obtain ⟨htime, hclk, href, hlink, hdies⟩ := sysLoaded_facts s v (decide (s.time.armed = .realign))
  let w := closeSuspect .unaligned (s.sysLoaded v (decide (s.time.armed = .realign)))
  have hw : Only [.spans] (s.sysLoaded v (decide (s.time.armed = .realign))) w := closeSuspect_only _ _
  let x := raise .realignDone pkg [.w ((v : Int) - s.now)] w
  have hx : Only [.link, .integ, .sec] w x := raise_only _ _ _ _
  obtain ⟨honly, hdie⟩ := edgeTaken_facts x s.now v
  have hxdies : x.dies = s.dies := (congrArg Part.dies ((hx .part rfl).trans (hw .part rfl))).trans hdies
  have hget : ∀ d, d < s.dies → (x.edgeTaken s.now v).clk.get d
      = { (s.clk.get d).loaded v (decide (s.time.armed = .realign)) with
          edge := some (s.now, v), edges := (s.clk.get d).edges + 1, spreadFrom := v } := fun d hd => by
    rw [hdie d (by rw [hxdies]; exact hd), hx .clk rfl, hw .clk rfl, hclk, Tbl.get_mapAll, if_pos hd, (loaded_replica _ _ _).2.2]
  have hbuild : (x.edgeTaken s.now v).ref = if decide (s.time.armed = .realign) = true then { s.ref with buildOut := 0 } else s.ref := by
    rw [honly .ref rfl, hx .ref rfl, hw .ref rfl, href]
  refine ⟨_, hrun, (execSyncEdgeArmed_frames s).onlyOf hrun, ⟨v, hv, ?_, fun d hd => ?_, ?_⟩, fun hre => ⟨?_, fun d hd l => ?_⟩, fun hboot => ⟨?_, fun d hd l => ?_⟩⟩
  · rw [honly .time rfl, hx .time rfl, hw .time rfl, htime]
  · rw [hget d hd]
    exact ⟨(loaded_replica _ _ _).1, (loaded_replica _ _ _).2.1, rfl, rfl, rfl⟩
  · obtain ⟨l, hl⟩ := honly .events rfl
    refine ⟨_, w.link.eventSeq, (?_ : _ = s.link.events ++ ([⟨.realignDone, pkg, w.link.eventSeq, w.now, [.w ((v : Int) - s.now)]⟩] ++ l)), ?_⟩
    · rw [← hl, raise_link, hw .link rfl, hlink, List.append_assoc]
    · have hnow : w.now = v % 2 ^ 64 := by
        unfold State.now
        rw [hw .time rfl, htime]
        exact BitVec.toNat_ofNat _ _
      rw [hnow]
      exact List.mem_cons_self
  · rw [hbuild, if_pos (decide_eq_true hre)]
  · rw [hget d hd, decide_eq_true hre]
    exact (show _ = (((s.clk.get d).loaded v true).loop l).buildOut by cases l <;> rfl).trans (loaded_buildOut _ _ _)
  · rw [hbuild, if_neg (by simp [hboot])]
  · rw [hget d hd, decide_eq_false (by simp [hboot])]
    cases l <;> rfl

theorem passSync_facts (s : State) :
    (passSync s).time = s.time ∧ (passSync s).clk = s.clk ∧ (passSync s).link.events = s.link.events
      ∧ (passSync s).link.sent = if s.time.syncOutEn then s.link.sent ++ [.syncOut (s.now + 4)] else s.link.sent := by
  refine ⟨passSync_only _ .time rfl, passSync_only _ .clk rfl, ?_, ?_⟩ <;> unfold passSync <;> split <;> rfl

theorem syncEdgeUnarmed_notes {s : State} (harm : s.time.armed = .none) (hm : s.mode.mode ≠ .off) :
    ∃ t, exec .syncEdgeUnarmed s = .next t ∧ Only [.time, .clk, .link, .integ, .sec] s t ∧ t.time = { s.time with lastSync := s.now, syncLost := false }
      ∧ (∀ d, t.clk.get d = if d < s.dies then { s.clk.get d with spreadFrom := s.now } else s.clk.get d)
      ∧ t.link.sent = (if s.time.syncOutEn then s.link.sent ++ [.syncOut (s.now + 4)] else s.link.sent)
      ∧ (1 < ((s.now : Int) - s.nearestDesignated).natAbs → Raises s t .syncDeviation pkg [.w ((s.now : Int) - s.nearestDesignated)])
      ∧ (((s.now : Int) - s.nearestDesignated).natAbs ≤ 1 → t.link.events = s.link.events) := by
  let u : State := { s with time := { s.time with lastSync := s.now, syncLost := false }, clk := s.clk.mapAll s.dies fun _ c => { c with spreadFrom := s.now } }
  have hu : Only [.time, .clk] s u := Only.ofMk rfl (Only.refl _ s)
  have hgo : (decide (s.time.armed = .none) && s.mode.mode != .off) = true := by simp [harm, hm]
  obtain ⟨htime, hclk, hevents, hsent⟩ := passSync_facts u
  have hget : ∀ d, (passSync u).clk.get d = if d < s.dies then { s.clk.get d with spreadFrom := s.now } else s.clk.get d := fun d => by
    rw [hclk]
    exact Tbl.get_mapAll _ _ _ _
  by_cases hdiff : 1 < ((s.now : Int) - s.nearestDesignated).natAbs
  · have hrun : exec .syncEdgeUnarmed s = .next (raise .syncDeviation pkg [.w ((s.now : Int) - s.nearestDesignated)] (passSync u)) :=
      (onlyIf_of_true hgo).trans (congrArg Host.Outcome.next (if_pos hdiff))
    refine ⟨_, hrun, (execSyncEdgeUnarmed_frames s).onlyOf hrun, ?_, fun d => ?_, ?_,
      fun _ => Raises.raise ((passSync_only u).andThen rfl (hu.mono (bs := [.time, .clk, .link]) rfl)) rfl rfl _ _ _, fun h => absurd hdiff (Nat.not_lt.mpr h)⟩
    · rw [raise_only _ _ _ _ .time rfl, htime]
    · rw [raise_clk, hget]
    · rw [raise_sent, hsent]
      rfl
  · have hrun : exec .syncEdgeUnarmed s = .next (passSync u) := (onlyIf_of_true hgo).trans (congrArg Host.Outcome.next (if_neg hdiff))
    exact ⟨_, hrun, (execSyncEdgeUnarmed_frames s).onlyOf hrun, htime, hget, hsent, fun h => absurd h hdiff, fun _ => hevents⟩

theorem syncLost_reports {s : State} (hm : s.mode.mode ≠ .off) (hlost : s.time.syncLost = false) (hnow : s.time.lastSync + 150000000 ≤ s.now) :
    ∃ t, exec .syncLost s = .next t ∧ Only [.time, .link, .integ, .sec] s t ∧ t.time = { s.time with syncLost := true }
      ∧ Raises s t .syncLost pkg [.q s.time.lastSync] := by
  have hrun : exec .syncLost s = .next (raise .syncLost pkg [.q s.time.lastSync] { s with time := { s.time with syncLost := true } }) :=
    onlyIf_of_true (by simp [hm, hlost, hnow])
  exact ⟨_, hrun, (execSyncLost_frames s).onlyOf hrun, raise_only _ _ _ _ .time rfl,
    Raises.raise (as := [.time]) (Only.ofMk rfl (Only.refl _ s)) rfl rfl _ _ _⟩

/-- Settles O17: the armed edge in two stages, what it loads before REALIGN_DONE and what it ends after it. -/
theorem systimeKeeping : Obligations.SystimeKeeping :=
  ⟨fun _ _ => systimeCompare_reports, fun _ _ _ => replicaReload_loads, fun _ => syncEdgeArmed_loads, fun _ => syncEdgeUnarmed_notes, fun _ => syncLost_reports⟩

end Sys2Proof.Machine
end

section
/-!
PROOFS. PPS, CLK_CTRL and SYSTIME_LO; the hops of a die from plan to plan (02 R44 to R46, R48, R54, R55, R62, R63, R65).
-/
namespace Sys2Proof.Machine

/-! ### PPS -/

/-- A PPS edge taken: the capture and its instant (R54). -/
def State.ppsTaken (s : State) : State :=
  { s with time := { s.time with lastPps := s.now, captures := (s.now :: s.time.captures).take 16, ppsLost := false } }

/-- What is noted of a PPS edge before it ends the wait of R65. -/
def State.ppsNoted (s : State) (diff : Int) : State := if 1 < diff.natAbs then raise .ppsDeviation pkg [.w diff] s.ppsTaken else s.ppsTaken

theorem execPpsEdge_run {s : State} {falling : Bool} (hen : s.time.ppsEnable = true) (hpol : falling = s.time.ppsFalling) {diff : Int}
    (hdiff : (s.now : Int) - nearestMul countsPerSecond s.now = diff) :
    exec (.ppsEdge falling) s = .next (raiseReturns (s.ref.ppsWait.map (·.2)) diff
      { s.ppsNoted diff with ref := { (s.ppsNoted diff).ref with ppsWait := [] } }) := by
  subst hdiff
  exact onlyIf_of_true (by simp [hen, hpol])

theorem ppsNoted_facts (s : State) (diff : Int) :
    Only [.time, .link, .integ, .sec] s (s.ppsNoted diff)
      ∧ (s.ppsNoted diff).time = { s.time with lastPps := s.now, captures := (s.now :: s.time.captures).take 16, ppsLost := false }
      ∧ (1 < diff.natAbs → Raises s (s.ppsNoted diff) .ppsDeviation pkg [.w diff])
      ∧ (diff.natAbs ≤ 1 → (s.ppsNoted diff).link = s.link) := by
  have htaken : Only [.time] s s.ppsTaken := Only.ofMk rfl (Only.refl _ s)
  have hraise := raise_only .ppsDeviation pkg [.w diff] s.ppsTaken
  unfold State.ppsNoted
  refine ⟨Only.ite (hraise.andThen rfl (htaken.mono rfl)) (htaken.mono rfl), State.ite_of (P := fun u => u.time = s.ppsTaken.time) (hraise .time rfl) rfl,
    fun h => Raises.itePos h (Raises.raise htaken rfl rfl _ _ _), fun h => ?_⟩
  rw [if_neg (Nat.not_lt.mpr h)]
  rfl

theorem ppsEdge_captures {s : State} {falling : Bool} (hen : s.time.ppsEnable = true) (hpol : falling = s.time.ppsFalling) :
    ∃ t, exec (.ppsEdge falling) s = .next t ∧ Only [.time, .ref, .link, .integ, .sec] s t
      ∧ t.time = { s.time with lastPps := s.now, captures := (s.now :: s.time.captures).take 16, ppsLost := false }
      ∧ (1 < ((s.now : Int) - nearestMul 100000000 s.now).natAbs → Raises s t .ppsDeviation pkg [.w ((s.now : Int) - nearestMul 100000000 s.now)])
      ∧ (((s.now : Int) - nearestMul 100000000 s.now).natAbs ≤ 1 → s.ref.ppsWait = [] → t.link = s.link)
      ∧ t.ref = { s.ref with ppsWait := [] }
      ∧ ∀ x ∈ s.ref.ppsWait, Raises s t .refReturn pkg [.w x.2, .w ((s.now : Int) - nearestMul 100000000 s.now)] := by
  obtain ⟨diff, hdiff⟩ : ∃ diff, (s.now : Int) - nearestMul 100000000 s.now = diff := ⟨_, rfl⟩
  rw [hdiff]
  have hrun := execPpsEdge_run hen hpol hdiff
  obtain ⟨hnoted, htime, hdev, hquiet⟩ := ppsNoted_facts s diff
  have hended : Only [.ref] (s.ppsNoted diff) { s.ppsNoted diff with ref := { (s.ppsNoted diff).ref with ppsWait := [] } } := Only.ofMk rfl (Only.refl _ _)
  have hreturns := raiseReturns_only (s.ref.ppsWait.map (·.2)) diff { s.ppsNoted diff with ref := { (s.ppsNoted diff).ref with ppsWait := [] } }
  refine ⟨_, hrun, (execPpsEdge_frames falling s).onlyOf hrun, ?_, fun h => ((hdev h).andThen hended rfl).andThen hreturns rfl, fun h hnone => ?_, ?_, fun x hx => ?_⟩
  · rw [hreturns .time rfl]
    exact htime
  · rw [hnone, List.map_nil, raiseReturns, List.foldl_nil]
    exact hquiet h
  · rw [hreturns .ref rfl, hnoted .ref rfl]
  · exact raiseReturns_raises (as := [.time, .ref, .link, .integ, .sec]) ((hnoted.mono rfl).trans (hended.mono rfl)) rfl rfl rfl rfl rfl (List.mem_map_of_mem hx)

theorem ppsEdge_ignores {s : State} {falling : Bool} (h : s.time.ppsEnable = false ∨ falling ≠ s.time.ppsFalling) : exec (.ppsEdge falling) s = .next s := by
  refine onlyIf_of_false ?_
  rcases h with h | h
  · simp [h]
  · simp [beq_eq_false_iff_ne.mpr h]

theorem ppsLost_reports {s : State} (hen : s.time.ppsEnable = true) (hlost : s.time.ppsLost = false) (hnow : s.time.lastPps + 150000000 ≤ s.now) :
    ∃ t, exec .ppsLost s = .next t ∧ Only [.time, .link, .integ, .sec] s t ∧ t.time = { s.time with ppsLost := true } ∧ Raises s t .ppsLost pkg [.q s.time.lastPps] := by
  have hrun : exec .ppsLost s = .next (raise .ppsLost pkg [.q s.time.lastPps] { s with time := { s.time with ppsLost := true } }) :=
    onlyIf_of_true (by simp [hen, hlost, hnow])
  exact ⟨_, hrun, (execPpsLost_frames s).onlyOf hrun, raise_only _ _ _ _ .time rfl,
    Raises.raise (as := [.time]) (Only.ofMk rfl (Only.refl _ s)) rfl rfl _ _ _⟩

/-! ### Registers -/

theorem clkCtrlWrite_takes {s : State} {v : Nat} (hb : s.barUp = true) :
    ∃ t, exec (.clkCtrlWrite v) s = .next t ∧ Only [.time, .mode, .spread] s t
      ∧ t.mode = { s.mode with lastAccess := s.now }
      ∧ t.time = { s.time with
          spreadMode := if s.mode.mode = .idle ∧ spreadOk (v % 4) (v / 4 % 128) = true then v % 4 else s.time.spreadMode
          spreadDepth := if s.mode.mode = .idle ∧ spreadOk (v % 4) (v / 4 % 128) = true then v / 4 % 128 else s.time.spreadDepth
          ppsEnable := maskBit v 9, ppsFalling := maskBit v 10, syncOutEn := maskBit v 11 } := by
  have hrun : exec (.clkCtrlWrite v) s = .next _ := onlyIf_of_true hb
  refine ⟨_, hrun, (execClkCtrlWrite_frames v s).onlyOf hrun, rfl, ?_⟩
  simp only [Bool.and_eq_true, decide_eq_true_eq]
  rfl

theorem systimeLoRead_snapshots {s : State} (hb : s.barUp = true) :
    ∃ t, exec .systimeLoRead s = .next t ∧ Only [.time, .link, .mode] s t
      ∧ t.mode = { s.mode with lastAccess := s.now }
      ∧ t.time = { s.time with snapLo := BitVec.ofNat 32 (s.now % 2 ^ 32), snapHi := BitVec.ofNat 32 (s.now / 2 ^ 32) }
      ∧ t.link = { s.link with sent := s.link.sent ++ [.regRead (s.now % 2 ^ 32)] } := by
  have hrun : exec .systimeLoRead s = .next _ := onlyIf_of_true hb
  exact ⟨_, hrun, (execSystimeLoRead_frames s).onlyOf hrun, rfl, rfl, rfl⟩

/-- Settles O18: what an edge notes stands before the returns that it ends; the registers by the definition of their fields. -/
theorem ppsAndClockRegisters : Obligations.PpsAndClockRegisters :=
  ⟨fun _ _ => ppsEdge_captures, fun _ _ => ppsEdge_ignores, fun _ => ppsLost_reports, fun _ _ => clkCtrlWrite_takes, fun _ => systimeLoRead_snapshots⟩

/-! ### Hops -/

theorem hopLock_stores {s : State} {d : Nat} {temp : Int} {band : Nat} (hd : d < s.dies) (hphase : (s.clk.get d).hop.phase = .stored ∨ (s.clk.get d).hop.phase = .search) :
    ∃ t, exec (.hopLock d temp band) s = .next t ∧ Only [.clk, .mon] s t
      ∧ (t.clk.get d).hop = { (s.clk.get d).hop with phase := .locked } ∧ (t.clk.get d).samp = { (s.clk.get d).samp with locked := true }
      ∧ (t.clk.get d).band s.cfg.active.plan = some ⟨band, temp⟩ ∧ ∀ e, e ≠ d → t.clk.get e = s.clk.get e := by
  let u := s.setClk d fun c => { (c.setBand s.cfg.active.plan ⟨band, temp⟩) with samp := { c.samp with locked := true }, hop := { c.hop with phase := .locked } }
  have hrun : exec (.hopLock d temp band) s = .next (convertTemp2 d u) := onlyIf_of_true (by simpa [hd] using hphase)
  have hself : u.clk.get d = _ := State.setClk_self _ _ _
  refine ⟨_, hrun, (execHopLock_frames d temp band s).onlyOf hrun, ?_, ?_, ?_, fun e he => ?_⟩
  · rw [convertTemp2_clk, hself]
  · rw [convertTemp2_clk, hself]
  · rw [convertTemp2_clk, hself]
    exact (show _ = ((s.clk.get d).setBand s.cfg.active.plan ⟨band, temp⟩).band s.cfg.active.plan from rfl).trans (setBand_band _ _ _)
  · rw [convertTemp2_clk]
    exact State.setClk_of_ne _ _ _ he

theorem hopStoredBandTimeout_searches {s : State} {d : Nat} (hd : d < s.dies) (hphase : (s.clk.get d).hop.phase = .stored)
    (hnow : (s.clk.get d).hop.since + 5000 ≤ s.now) :
    ∃ t, exec (.hopStoredBandTimeout d) s = .next t ∧ Only [.clk] s t
      ∧ t.clk.get d = { s.clk.get d with hop := { (s.clk.get d).hop with phase := .search, fresh := true } } ∧ ∀ e, e ≠ d → t.clk.get e = s.clk.get e :=
  ⟨_, onlyIf_of_true (by simp [hd, hphase, hnow]), State.setClk_only _ _ _, State.setClk_self _ _ _, fun _ he => State.setClk_of_ne _ _ _ he⟩

/-- A hop that ends incomplete: both converters of the die failed, its other clock state kept (R63). -/
theorem incompleteHop_facts (d : Nat) (s : State) :
    (incompleteHop d s).clk.get d = { s.clk.get d with hop := { (s.clk.get d).hop with phase := .incomplete } }
      ∧ (∀ e, e ≠ d → (incompleteHop d s).clk.get e = s.clk.get e)
      ∧ ((incompleteHop d s).front.convs.get (2 * d)).failed = true ∧ ((incompleteHop d s).front.convs.get (2 * d + 1)).failed = true := by
  have hfront : (incompleteHop d s).front = (failConverter (d * 2 + 1) .incompleteHop s.now (failConverter (d * 2) .incompleteHop s.now
      (s.setClk d fun c => { c with hop := { c.hop with phase := .incomplete } }))).front := by
    unfold incompleteHop
    dsimp only
    rw [endHop_only _ _ _ .front rfl, (failConverter_only _ _ _ _).now rfl]
    rfl
  rw [incompleteHop_clk, hfront, Nat.mul_comm 2 d]
  exact ⟨State.setClk_self _ _ _, fun e he => State.setClk_of_ne _ _ _ he, failConverter_failsKept _ _ _ _ _ (failConverter_failed _ _ _ _), failConverter_failed _ _ _ _⟩

theorem hopSearchTimeout_incomplete {s : State} {d : Nat} (hd : d < s.dies) (hphase : (s.clk.get d).hop.phase = .search)
    (hnow : (s.clk.get d).hop.since + 300000 ≤ s.now) :
    ∃ t, exec (.hopSearchTimeout d) s = .next t ∧ (t.clk.get d).hop.phase = .incomplete ∧ (t.clk.get d).samp.coasting = true
      ∧ (t.front.convs.get (2 * d)).failed = true ∧ (t.front.convs.get (2 * d + 1)).failed = true
      ∧ Raises s t .pllUnlock d [.w d, .w 0, .q s.now] ∧ ∀ e, e ≠ d → t.clk.get e = s.clk.get e := by
  let u := countUnlock d .samp (coastLoop d .samp s)
  have hrun : exec (.hopSearchTimeout d) s = .next (refresh (incompleteHop d u)) := onlyIf_of_true (by simp [hd, hphase, hnow])
  have hraise : Raises s u .pllUnlock d [.w d, .w 0, .q s.now] := countUnlock_raises d .samp s (coastLoop_only d .samp s) rfl rfl
  obtain ⟨⟨h, hself⟩, hother⟩ := countUnlock_get d .samp (coastLoop d .samp s)
  obtain ⟨hdie, hdies, hfirst, hsecond⟩ := incompleteHop_facts d u
  rw [refresh_only (incompleteHop d u) .front rfl |> fun hf => congrArg (fun x : FrontSt => (x.convs.get (2 * d)).failed) hf.symm] at hfirst
  rw [refresh_only (incompleteHop d u) .front rfl |> fun hf => congrArg (fun x : FrontSt => (x.convs.get (2 * d + 1)).failed) hf.symm] at hsecond
  refine ⟨_, hrun, ?_, ?_, hfirst, hsecond, (hraise.andThen (incompleteHop_only _ _) rfl).andThen (refresh_only _) rfl, fun e he => ?_⟩
  · rw [refresh_clk, hdie]
  · rw [refresh_clk, hdie]
    show (u.clk.get d).samp.coasting = true
    rw [hself, coastLoop_get, if_pos rfl]
    rfl
  · rw [refresh_clk, hdies e he, hother e he, coastLoop_get, if_neg he]

theorem hopWaitTimeout_incomplete {s : State} {d : Nat} (hd : d < s.dies) (hphase : (s.clk.get d).hop.phase = .waiting)
    (hnow : (s.clk.get d).hop.since + 100000000 ≤ s.now) :
    ∃ t, exec (.hopWaitTimeout d) s = .next t ∧ (t.clk.get d).hop.phase = .incomplete
      ∧ (t.front.convs.get (2 * d)).failed = true ∧ (t.front.convs.get (2 * d + 1)).failed = true ∧ ∀ e, e ≠ d → t.clk.get e = s.clk.get e := by
  obtain ⟨hdie, hdies, hfirst, hsecond⟩ := incompleteHop_facts d s
  refine ⟨_, onlyIf_of_true (by simp [hd, hphase, hnow]), ?_⟩
  rw [refresh_clk, refresh_only _ .front rfl, hdie]
  exact ⟨rfl, hfirst, hsecond, hdies⟩

theorem dividerRephase_plan {s : State} {d : Nat} (hd : d < s.dies) (hphase : (s.clk.get d).hop.phase = .locked) (hn : s.now % 32 = 0) :
    ∃ t, exec (.dividerRephase d) s = .next t
      ∧ t.clk.get d = { s.clk.get d with plan := s.cfg.active.plan, hop := { (s.clk.get d).hop with phase := .idle, rephasedAt := s.now, late := false } }
      ∧ ∀ e, e ≠ d → t.clk.get e = s.clk.get e := by
  let u := (if (s.clk.get d).hop.late then closeSuspect (.convs d) s else s).setClk d fun c =>
    { c with plan := s.cfg.active.plan, hop := { c.hop with phase := .idle, rephasedAt := s.now, late := false } }
  let v := dieInstant s.now d (endStepsOfDie d (restartSlices d u))
  let w := (List.range v.dies).foldl (fun acc j => if acc.leaderDie j = some d then unzeroCourse j s.now (endLevelStep j acc) else acc) v
  have hrun : exec (.dividerRephase d) s = .next (endHop d (fun c =>
       { c with latestRephase := max c.latestRephase s.now
                freshMask := if (s.clk.get d).hop.fresh then c.freshMask ||| 2 ^ d else c.freshMask
                lateTick := if (s.clk.get d).hop.late then max c.lateTick (tickOf s.now) else c.lateTick }) w) :=
    onlyIf_of_true (by simp [hd, hphase, countsPerFrame, hn])
  have hu : ∀ e, u.clk.get e = if e = d then { s.clk.get d with plan := s.cfg.active.plan, hop := { (s.clk.get d).hop with phase := .idle, rephasedAt := s.now, late := false } }
      else s.clk.get e := fun e => by
    have hclk : (if (s.clk.get d).hop.late then closeSuspect (.convs d) s else s).clk = s.clk :=
      State.ite_of (P := fun t => t.clk = s.clk) (closeSuspect_clk _ _) rfl
    rw [setClk_get, hclk]
  have hv : v.clk = u.clk := by rw [dieInstant_only _ _ _ .clk rfl, endStepsOfDie_only _ _ .clk rfl, restartSlices_only _ _ .clk rfl]
  have hw : w.clk = v.clk := foldl_keep (fun t => t.clk = v.clk) _ _
    (fun t j ht => State.ite_of (P := fun t => t.clk = v.clk) (by rw [unzeroCourse_only _ _ _ .clk rfl, endLevelStep_only _ _ .clk rfl, ht]) ht) v rfl
  refine ⟨_, hrun, ?_⟩
  rw [endHop_only _ _ _ .clk rfl, hw, hv]
  exact ⟨by rw [hu, if_pos rfl], fun e he => by rw [hu, if_neg he]⟩

/-- Settles O19: every step of a hop through what it does to its die's clocks; an incomplete hop fails both converters of the die. -/
theorem planHops : Obligations.PlanHops :=
  ⟨fun _ _ _ _ => hopLock_stores, fun _ _ => hopStoredBandTimeout_searches, fun _ _ => hopSearchTimeout_incomplete, fun _ _ => hopWaitTimeout_incomplete,
    fun _ _ => dividerRephase_plan⟩

end Sys2Proof.Machine
end

section
/-!
PROOFS. Courses and converters: leadership, the spare slice's rotation (03 R80, R81, R84, R87 to R91).
-/
namespace Sys2Proof.Machine

/-! ### Leadership -/

/-- A splice to a converter that the course is then supplied by: it leads, nothing else of the course but its zero samples changes, and no converter does. -/
theorem spliced_course (j x e : Nat) (s : State) :
    (∃ z, (supplied j x e (spliceTo j x s)).front.courses.get j
        = { s.front.courses.get j with leader := some x, splice := none, spliceCount := satInc (s.front.courses.get j).spliceCount, checkPower := (0, 0), zeroFrom := z })
      ∧ (supplied j x e (spliceTo j x s)).front.convs = s.front.convs := by
  obtain ⟨hconvs, hcourse⟩ := supplied_course j x e j (spliceTo j x s)
  rw [spliceTo_front] at hconvs hcourse
  rw [State.setCourse_self] at hcourse
  refine ⟨?_, hconvs⟩
  rcases hcourse with h | ⟨z, -, h⟩
  · exact ⟨_, h⟩
  · exact ⟨z, h⟩

theorem leaderSplice_failsOver {s : State} {j x y first : Nat} {cause : ConvCause} (hj : j < s.dies)
    (hsplice : (s.front.courses.get j).splice = some (.fault x cause first)) (hleader : (s.front.courses.get j).leader = some y) (hxy : x ≠ y)
    (husable : s.convUsable (s.convOf j x) = true) :
    ∃ t, exec (.leaderSplice j) s = .next t ∧ Only [.spans, .front, .taps, .link, .cal, .integ, .mode, .mb, .sec, .modeCode] s t
      ∧ (t.front.courses.get j).leader = some x ∧ (t.front.courses.get j).splice = none ∧ (t.front.courses.get j).standbyReady = false
      ∧ Raises s t .courseFailover j [.w j, .w (s.convOf j y), .w cause.code, .q first, .q s.now] := by
  let u := (supplied j x s.now (spliceTo j x s)).setCourse j fun c => { c with standbyReady := false }
  let v := refresh (raise .courseFailover j [.w j, .w (s.convOf j y), .w cause.code, .q first, .q s.now] u)
  have hrun : exec (.leaderSplice j) s = .next (completeWait (fun w => w = .retire (convRef (s.convOf j y))) .ok 0 v) := by
    simp only [exec, execLeaderSplice, hsplice, hleader]
    exact onlyIf_of_true (by simp [hj, hxy, husable])
  have hu : Only [.front, .taps, .link, .cal] s u :=
    (State.setCourse_only _ _ _).andThen rfl ((supplied_only _ _ _ _).andThen rfl ((spliceTo_only _ _ _).mono rfl))
  obtain ⟨z, hcourse⟩ := (spliced_course j x s.now s).1
  have hfront : (completeWait (fun w => w = .retire (convRef (s.convOf j y))) .ok 0 v).front = u.front := by
    rw [completeWait_front, refresh_only _ .front rfl, raise_only _ _ _ _ .front rfl]
  have hself : u.front.courses.get j = _ := State.setCourse_self _ _ _
  refine ⟨_, hrun, (execLeaderSplice_frames j s).onlyOf hrun, ?_, ?_, ?_,
    ((Raises.raise hu rfl rfl _ _ _).andThen (refresh_only _) rfl).andThen (completeWait_only _ _ _ _) rfl⟩
  · rw [hfront, hself, hcourse]
  · rw [hfront, hself, hcourse]
  · rw [hfront, hself]

/-- The old leader of a course in SIMPLEX is powered down, a standby is ready where it samples and has rotated (R81). -/
def State.oldLeader (s t : State) (j y : Nat) : State :=
  if (s.front.courses.get j).mode = .simplex then unpowerConv (s.convOf j y) t
  else t.setCourse j fun c => { c with standbyReady := s.convUsable (s.convOf j y) && (s.front.convs.get (s.convOf j y)).rotated }

theorem oldLeader_facts (s t : State) (j y : Nat) :
    Only [.clk, .spans, .front, .domains] t (s.oldLeader t j y)
      ∧ ((s.oldLeader t j y).front.courses.get j).leader = (t.front.courses.get j).leader
      ∧ ((s.oldLeader t j y).front.courses.get j).splice = (t.front.courses.get j).splice
      ∧ ((s.front.courses.get j).mode = .simplex → ((s.oldLeader t j y).front.convs.get (s.convOf j y)).powered = false) := by
  unfold State.oldLeader
  split
  · next h =>
    rw [unpowerConv_front]
    exact ⟨(unpowerConv_only _ _).mono rfl, rfl, rfl, fun _ => by rw [State.setConv_self]⟩
  · next h =>
    rw [State.setCourse_self]
    exact ⟨(State.setCourse_only _ _ _).mono rfl, rfl, rfl, fun hs => absurd hs h⟩

theorem plannedSplice_leads {s : State} {j x y : Nat} {reason : PlannedReason} (hj : j < s.dies)
    (hsplice : (s.front.courses.get j).splice = some (.planned x reason)) (hleader : (s.front.courses.get j).leader = some y) (hxy : x ≠ y)
    (husable : s.convUsable (s.convOf j x) = true) (hsampling : (s.front.convs.get (s.convOf j x)).sampling = true)
    (hrotated : (s.front.convs.get (s.convOf j x)).rotated = true) :
    ∃ t, exec (.plannedSplice j) s = .next t ∧ Only [.clk, .spans, .front, .taps, .link, .cal, .integ, .mode, .domains, .sec, .modeCode] s t
      ∧ (t.front.courses.get j).leader = some x ∧ (t.front.courses.get j).splice = none
      ∧ ((s.front.courses.get j).mode = .simplex → (t.front.convs.get (s.convOf j y)).powered = false)
      ∧ Raises s t .courseLeader j [.w j, .w (s.convOf j x), .w reason.code, .q s.now, .w (if (s.cfg.active.courses.get j).preferB == (x == 1) then 0 else 1)] := by
  let u := s.oldLeader (supplied j x s.now (spliceTo j x s)) j y
  have hrun : exec (.plannedSplice j) s = .next (refresh (raise .courseLeader j
      [.w j, .w (s.convOf j x), .w reason.code, .q s.now, .w (if (s.cfg.active.courses.get j).preferB == (x == 1) then 0 else 1)] u)) := by
    simp only [exec, execPlannedSplice, hsplice, hleader]
    exact onlyIf_of_true (by simp [hj, hxy, husable, hsampling, hrotated])
  obtain ⟨hold, hlead, hsp, hpower⟩ := oldLeader_facts s (supplied j x s.now (spliceTo j x s)) j y
  have hu : Only [.clk, .spans, .front, .taps, .link, .cal, .domains] s u :=
    ((supplied_only _ _ _ _).andThen rfl ((spliceTo_only _ _ _).mono rfl)).trans (hold.mono rfl)
  obtain ⟨z, hcourse⟩ := (spliced_course j x s.now s).1
  refine ⟨_, hrun, (execPlannedSplice_frames j s).onlyOf hrun, ?_⟩
  rw [refresh_only _ .front rfl, raise_only _ _ _ _ .front rfl, hlead, hsp, hcourse]
  exact ⟨rfl, rfl, hpower, (Raises.raise hu rfl rfl _ _ _).andThen (refresh_only _) rfl⟩

theorem startOn_leads (j x : Nat) (s : State) :
    ((startOn j x s).front.courses.get j).leader = some x ∧ (startOn j x s).front.convs = s.front.convs := by
  obtain ⟨⟨z, hcourse⟩, hconvs⟩ := spliced_course j x (nextOf countsPerFrame s.now) s
  unfold startOn
  rw [completeWait_front]
  exact ⟨by rw [hcourse], hconvs⟩

theorem converterSampling_leads {s : State} {k : Nat} (hk : k < 2 * s.dies) (hpowered : (s.front.convs.get k).powered = true)
    (hsampling : (s.front.convs.get k).sampling = false) (hfailed : (s.front.convs.get k).failed = false) :
    ∃ t, exec (.converterSampling k) s = .next t ∧ Only [.spans, .front, .taps, .link, .cal, .integ, .mode, .mb, .sec, .modeCode] s t
      ∧ (t.front.convs.get k).sampling = true
      ∧ ((s.front.courses.get (s.courseOf k)).mode ≠ .off → (s.front.courses.get (s.courseOf k)).leader = none → (s.front.courses.get (s.courseOf k)).lost = false →
          s.nextLeader (s.courseOf k) = k % 2 → (t.front.courses.get (s.courseOf k)).leader = some (k % 2)) := by
  let u := s.setConv k fun c => { c with sampling := true }
  have hgo : (decide (k < 2 * s.dies) && (s.front.convs.get k).powered && !(s.front.convs.get k).sampling && !(s.front.convs.get k).failed) = true := by
    simp [hk, hpowered, hsampling, hfailed]
  have hself : (u.front.convs.get k).sampling = true := by rw [State.setConv_self]
  by_cases hwaits : ((s.front.courses.get (s.courseOf k)).mode != .off && (s.front.courses.get (s.courseOf k)).leader.isNone
      && !(s.front.courses.get (s.courseOf k)).lost && s.nextLeader (s.courseOf k) == k % 2) = true
  · let v := match (s.front.courses.get (s.courseOf k)).mode, (s.front.courses.get (s.courseOf k)).splice with
      | .simplex, some (.fault ..) => taskDue (.level (s.courseOf k)) u
      | _, _ => u
    have hrun : exec (.converterSampling k) s = .next (refresh (startOn (s.courseOf k) (k % 2) v)) :=
      (onlyIf_of_true hgo).trans (congrArg Host.Outcome.next (if_pos hwaits))
    have hv : v.front = u.front := by
      unfold v
      split
      · exact taskDue_only _ _ .front rfl
      · rfl
    obtain ⟨hlead, hconvs⟩ := startOn_leads (s.courseOf k) (k % 2) v
    refine ⟨_, hrun, (execConverterSampling_frames k s).onlyOf hrun, ?_⟩
    rw [refresh_only _ .front rfl, hconvs, hv]
    exact ⟨hself, fun _ _ _ _ => hlead⟩
  · have hrun : exec (.converterSampling k) s = .next u := (onlyIf_of_true hgo).trans (congrArg Host.Outcome.next (if_neg hwaits))
    exact ⟨_, hrun, (execConverterSampling_frames k s).onlyOf hrun, hself, fun hmode hnone hlost hnext => absurd (by simp [hmode, hnone, hlost, hnext]) hwaits⟩

/-- Settles O21: each splice through what a splice and its supply make of the course. -/
theorem courseLeadership : Obligations.CourseLeadership :=
  ⟨fun _ _ _ _ _ _ => leaderSplice_failsOver, fun _ _ _ _ _ => plannedSplice_leads, fun _ _ => converterSampling_leads⟩

/-! ### The rotation of the spare slice -/

/-- A converter whose spare shadows, then stands in, then moves to the next position (R87). -/
def Converter.nextPosition (c : Converter) (n : Nat) : Converter :=
  { c with rotStandin := false, rotPosition := if c.rotPosition ≥ 7 then 0 else c.rotPosition + 1, rotSteps := c.rotSteps + 1
           rotMismatch := if c.rotPosition ≥ 7 then 0 else c.rotMismatch, rotStart := if c.rotPosition ≥ 7 then n else c.rotStart }

theorem nextPosition_below {c : Converter} {n : Nat} (h : c.rotPosition < 7) :
    c.nextPosition n = { c with rotStandin := false, rotPosition := c.rotPosition + 1, rotSteps := c.rotSteps + 1 } := by
  simp [Converter.nextPosition, Nat.not_le.mpr h]

theorem nextPosition_last {c : Converter} {n : Nat} (h : 7 ≤ c.rotPosition) :
    c.nextPosition n = { c with rotStandin := false, rotPosition := 0, rotSteps := c.rotSteps + 1, rotMismatch := 0, rotStart := n } := by
  simp [Converter.nextPosition, h]

/-- The state with the spare in its next position, a rotation's corrections noted as a calibration (12 R354). -/
def State.sparePlaced (s : State) (k : Nat) : State :=
  let t := s.setConv k fun c => c.nextPosition s.now
  if (s.front.convs.get k).rotPosition ≥ 7 && (s.front.convs.get k).slicesUpdated then
    calSuccess 5 k (t.setConv k fun c => { c with slicesUpdated := false }) else t

/-- Steps of a rotation that has just become complete, or was (R84, R474). -/
def State.rotationSeen (s : State) (k : Nat) : State :=
  let conv := s.front.convs.get k
  let t := s.sparePlaced k
  if conv.rotSteps + 1 ≥ 8 then (if conv.restoring then endConvRestore k none t else Machine.standbyReady k t) else t

/-- The conditions under which a spare rotates. -/
def State.spareRotates (s : State) (k : Nat) : Bool :=
  decide (k < 2 * s.dies) && (s.front.convs.get k).sampling && (s.front.convs.get k).spareSlice.isSome && !(s.front.convs.get k).rotSuspended

theorem execSliceRotationStep_shadow {s : State} {k : Nat} (hgo : s.spareRotates k = true) (hs : (s.front.convs.get k).rotStandin = false) :
    exec (.sliceRotationStep k) s = .next (s.setConv k fun c => { c with rotStandin := true }) :=
  (onlyIf_of_true hgo).trans (congrArg Host.Outcome.next (if_pos (by simp [hs])))

theorem execSliceRotationStep_standin {s : State} {k : Nat} (hgo : s.spareRotates k = true) (hs : (s.front.convs.get k).rotStandin = true) :
    exec (.sliceRotationStep k) s = .next (s.rotationSeen k) := by
  refine (onlyIf_of_true hgo).trans ((congrArg Host.Outcome.next (if_neg (by simp [hs]))).trans ?_)
  simp only [State.rotationSeen, State.sparePlaced, Converter.nextPosition, State.setConv]
  rfl

theorem sparePlaced_below {s : State} {k : Nat} (h : (s.front.convs.get k).rotPosition < 7) : s.sparePlaced k = s.setConv k fun c => c.nextPosition s.now := by
  unfold State.sparePlaced
  exact if_neg (by simp [Nat.not_le.mpr h])

theorem sparePlaced_last {s : State} {k : Nat} (h : 7 ≤ (s.front.convs.get k).rotPosition) :
    (s.sparePlaced k).front.convs.get k = { s.front.convs.get k with
        rotStandin := false, rotPosition := 0, rotSteps := (s.front.convs.get k).rotSteps + 1, rotMismatch := 0, rotStart := s.now, slicesUpdated := false }
      ∧ ∀ i, i ≠ k → (s.sparePlaced k).front.convs.get i = s.front.convs.get i := by
  unfold State.sparePlaced
  dsimp only
  cases hup : (s.front.convs.get k).slicesUpdated with
  | true =>
    rw [if_pos (by simp [h]), calSuccess_front]
    refine ⟨?_, fun i hi => ?_⟩
    · rw [State.setConv_self, State.setConv_self, nextPosition_last h]
    · rw [State.setConv_of_ne _ _ _ hi, State.setConv_of_ne _ _ _ hi]
  | false =>
    rw [if_neg (by simp)]
    refine ⟨?_, fun i hi => State.setConv_of_ne _ _ _ hi⟩
    rw [State.setConv_self, nextPosition_last h, ← hup]

theorem rotationSeen_convs {s : State} {k : Nat} (hr : (s.front.convs.get k).restoring = false) : (s.rotationSeen k).front.convs = (s.sparePlaced k).front.convs := by
  unfold State.rotationSeen
  dsimp only
  rw [hr, if_neg Bool.false_ne_true]
  exact State.ite_of (P := fun t => t.front.convs = (s.sparePlaced k).front.convs) (standbyReady_convs _ _) rfl

theorem sliceRotationStep_moves {s : State} {k : Nat} (hk : k < 2 * s.dies) (hsampling : (s.front.convs.get k).sampling = true)
    (hspare : (s.front.convs.get k).spareSlice.isSome = true) (hfree : (s.front.convs.get k).rotSuspended = false) :
    ((s.front.convs.get k).rotStandin = false →
      ∃ t, exec (.sliceRotationStep k) s = .next t ∧ Only [.front] s t ∧ t.front.convs.get k = { s.front.convs.get k with rotStandin := true }
        ∧ (∀ i, i ≠ k → t.front.convs.get i = s.front.convs.get i) ∧ t.front.courses = s.front.courses)
    ∧ ((s.front.convs.get k).rotStandin = true → (s.front.convs.get k).rotPosition < 7 → (s.front.convs.get k).rotSteps + 1 < 8 →
      ∃ t, exec (.sliceRotationStep k) s = .next t ∧ Only [.front] s t
        ∧ t.front.convs.get k = { s.front.convs.get k with
            rotStandin := false, rotPosition := (s.front.convs.get k).rotPosition + 1, rotSteps := (s.front.convs.get k).rotSteps + 1 }
        ∧ (∀ i, i ≠ k → t.front.convs.get i = s.front.convs.get i) ∧ t.front.courses = s.front.courses)
    ∧ ((s.front.convs.get k).rotStandin = true → 7 ≤ (s.front.convs.get k).rotPosition → (s.front.convs.get k).restoring = false →
      ∃ t, exec (.sliceRotationStep k) s = .next t
        ∧ t.front.convs.get k = { s.front.convs.get k with
            rotStandin := false, rotPosition := 0, rotSteps := (s.front.convs.get k).rotSteps + 1, rotMismatch := 0, rotStart := s.now, slicesUpdated := false }
        ∧ ∀ i, i ≠ k → t.front.convs.get i = s.front.convs.get i) := by
  have hgo : s.spareRotates k = true := by simp [State.spareRotates, hk, hsampling, hspare, hfree]
  refine ⟨fun hs => ?_, fun hs hpos hsteps => ?_, fun hs hpos hrestore => ?_⟩
  · exact ⟨_, execSliceRotationStep_shadow hgo hs, State.setConv_only _ _ _, State.setConv_self _ _ _, fun i hi => State.setConv_of_ne _ _ _ hi, rfl⟩
  · have hseen : s.rotationSeen k = s.setConv k fun c => c.nextPosition s.now := by
      unfold State.rotationSeen
      dsimp only
      rw [if_neg (by omega), sparePlaced_below hpos]
    refine ⟨_, (execSliceRotationStep_standin hgo hs).trans (congrArg Host.Outcome.next hseen), State.setConv_only _ _ _, ?_,
      fun i hi => State.setConv_of_ne _ _ _ hi, rfl⟩
    rw [State.setConv_self, nextPosition_below hpos]
  · refine ⟨_, execSliceRotationStep_standin hgo hs, ?_⟩
    rw [rotationSeen_convs hrestore]
    exact sparePlaced_last hpos

/-- What the result of a shadow phase is charged to, before a fault of the converter itself is judged (R84, R89, R91). -/
def State.shadowJudged (s : State) (k : Nat) (rms mean : Int) (bad : Bool) : State :=
  let conv := s.front.convs.get k
  if bad then
    let t := raise .sliceMismatch (k / 2) [.w k, .w (conv.sliceAt conv.rotPosition), .w rms, .w mean] s
    if conv.restoring then endConvRestore k (some .simplexShadow) t
    else sliceMismatch k (completeProbation k 1 t)
  else
    let t := s.setConv k probationPassed
    if (t.front.convs.get k).probation.isNone then completeProbation k 0 t else t

theorem shadowJudged_bad (s : State) (k : Nat) (rms mean : Int) :
    Raises s (s.shadowJudged k rms mean true) .sliceMismatch (k / 2) [.w k, .w ((s.front.convs.get k).sliceAt (s.front.convs.get k).rotPosition), .w rms, .w mean] := by
  have hraise := Raises.raise (Only.refl [] s) rfl rfl .sliceMismatch (k / 2)
    [.w k, .w ((s.front.convs.get k).sliceAt (s.front.convs.get k).rotPosition), .w rms, .w mean]
  exact Raises.ite (hraise.andThen (endConvRestore_only _ _ _) rfl) ((hraise.andThen (completeProbation_only _ _ _) rfl).andThen (sliceMismatch_only _ _) rfl)

theorem shadowJudged_clean (s : State) (k : Nat) (rms mean : Int) :
    Only [.front, .link, .mb] s (s.shadowJudged k rms mean false) ∧ (s.shadowJudged k rms mean false).front = (s.setConv k probationPassed).front := by
  have hset : Only [.front] s (s.setConv k probationPassed) := State.setConv_only _ _ _
  have hdone := completeProbation_only k 0 (s.setConv k probationPassed)
  exact ⟨Only.ite (hdone.andThen rfl (hset.mono rfl)) (hset.mono rfl),
    State.ite_of (P := fun t => t.front = (s.setConv k probationPassed).front) (hdone .front rfl) rfl⟩

theorem shadowPhaseEnd_judges {s : State} {k : Nat} {rms mean : Int} {inAuthority convFault : Bool} (hk : k < 2 * s.dies)
    (hsampling : (s.front.convs.get k).sampling = true) (hspare : (s.front.convs.get k).spareSlice.isSome = true)
    (hshadow : (s.front.convs.get k).rotStandin = false) (hfree : (s.front.convs.get k).rotSuspended = false) :
    (convFault = true → (s.front.courses.get (s.courseOf k)).leader = some (k % 2) → (s.front.courses.get (s.courseOf k)).standbyReady = false →
      ∃ t, exec (.shadowPhaseEnd k rms mean inAuthority convFault) s = .next t ∧ (t.front.convs.get k).failed = true)
    ∧ ((-6000 < rms ∨ -6600 < mean ∨ inAuthority = false) →
      ∃ t, exec (.shadowPhaseEnd k rms mean inAuthority convFault) s = .next t
        ∧ Raises s t .sliceMismatch (k / 2) [.w k, .w ((s.front.convs.get k).sliceAt (s.front.convs.get k).rotPosition), .w rms, .w mean])
    ∧ (convFault = false → rms ≤ -6000 → mean ≤ -6600 → inAuthority = true →
      ∃ t, exec (.shadowPhaseEnd k rms mean inAuthority convFault) s = .next t ∧ Only [.front, .link, .mb] s t
        ∧ t.front.convs.get k = probationPassed (s.front.convs.get k) ∧ ∀ i, i ≠ k → t.front.convs.get i = s.front.convs.get i) := by
  obtain ⟨bad, hbad⟩ : ∃ bad, (decide (-6000 < rms) || decide (-6600 < mean) || !inAuthority) = bad := ⟨_, rfl⟩
  have hrun : exec (.shadowPhaseEnd k rms mean inAuthority convFault) s = .next
      (if convFault && (s.front.courses.get (s.courseOf k)).leader == some (k % 2) && !(s.front.courses.get (s.courseOf k)).standbyReady then
        failConverter k .simplexShadow s.now (s.shadowJudged k rms mean bad) else s.shadowJudged k rms mean bad) := by
    subst hbad
    exact onlyIf_of_true (by simp [hk, hsampling, hspare, hshadow, hfree])
  refine ⟨fun hf hlead hready => ⟨_, hrun, ?_⟩, fun hover => ⟨_, hrun, ?_⟩, fun hf hrms hmean hauth => ?_⟩
  · rw [if_pos (by simp [hf, hlead, hready])]
    exact failConverter_failed _ _ _ _
  · have htrue : bad = true := by simpa [or_assoc] using hbad.symm.trans (by simpa [or_assoc] using hover)
    subst htrue
    exact Raises.ite ((shadowJudged_bad s k rms mean).andThen (failConverter_only _ _ _ _) rfl) (shadowJudged_bad s k rms mean)
  · have hfalse : bad = false := by rw [← hbad]; simp [hrms, hmean, hauth]
    subst hfalse
    obtain ⟨honly, hfront⟩ := shadowJudged_clean s k rms mean
    refine ⟨_, hrun.trans (congrArg Host.Outcome.next (if_neg (by simp [hf]))), honly, ?_⟩
    rw [hfront]
    exact ⟨State.setConv_self _ _ _, fun i hi => State.setConv_of_ne _ _ _ hi⟩

theorem sliceCoeffUpdate_takes {s : State} {k i : Nat} {coef : SliceCoef} (hk : k < 2 * s.dies) (hi : i < 9)
    (hsampling : (s.front.convs.get k).sampling = true) (hspare : (s.front.convs.get k).spareSlice.isSome = true) (hauth : coef.inAuthority = true) :
    ∃ t, exec (.sliceCoeffUpdate k i coef) s = .next t ∧ Only [.front, .cal] s t
      ∧ t.cal.coefs.slices = s.cal.coefs.slices.set (k * 27 + (s.clk.get (k / 2)).plan * 9 + i) coef
      ∧ t.front.convs = s.front.convs.modify k fun c => { c with slicesUpdated := true } := by
  have hrun : exec (.sliceCoeffUpdate k i coef) s = .next (setSliceCoef k i coef (s.setConv k fun c => { c with slicesUpdated := true })) :=
    onlyIf_of_true (by simp [hk, hi, hsampling, hspare, hauth])
  refine ⟨_, hrun, (execSliceCoeffUpdate_frames k i coef s).onlyOf hrun, ?_, ?_⟩
  · unfold setSliceCoef calChanged
    rfl
  · rw [setSliceCoef_only _ _ _ _ .front rfl]
    rfl

/-- Settles O22: where the spare moves, what a shadow phase shows, what a correction sets. -/
theorem sliceRotation : Obligations.SliceRotation :=
  ⟨fun _ _ => sliceRotationStep_moves, fun _ _ _ _ _ _ => shadowPhaseEnd_judges, fun _ _ _ _ => sliceCoeffUpdate_takes⟩

end Sys2Proof.Machine
end

section
/-!
PROOFS. Gain control and the records of converters (03 R71, R73, R93, R96, R99, R100).
-/
namespace Sys2Proof.Machine

/-! ### Gain -/

/-- A gain set: the course has it, and where it changed so have attenuator and amplifier, and the step is counted (R71). -/
theorem setGain_course (j : Nat) (g : Int) (s : State) :
    ((setGain j g s).front.courses.get j).gain = g
      ∧ (g ≠ (s.front.courses.get j).gain → ((setGain j g s).front.courses.get j).attenuator = attenuatorOf g
          ∧ ((setGain j g s).front.courses.get j).lnaOn = decide (0 < g)
          ∧ ((setGain j g s).front.courses.get j).gainStepTotal = (s.front.courses.get j).gainStepTotal + 1)
      ∧ ∀ i, i ≠ j → (setGain j g s).front.courses.get i = s.front.courses.get i := by
  unfold setGain
  dsimp only
  split
  · next h => exact ⟨h.symm, fun hne => absurd h hne, fun _ _ => rfl⟩
  · rw [markCourse_front, State.setCourse_self]
    exact ⟨rfl, fun _ => ⟨rfl, rfl, rfl⟩, fun i hi => State.setCourse_of_ne _ _ _ hi⟩

/-- What the two settings of a gain share with the gain before: every clause of R93 is one of these. -/
theorem setGain_from {j : Nat} {g : Int} {s u : State} (hu : ∀ i, i ≠ j → u.front.courses.get i = s.front.courses.get i)
    (hgain : (u.front.courses.get j).gain = (s.front.courses.get j).gain) (hsteps : (u.front.courses.get j).gainStepTotal = (s.front.courses.get j).gainStepTotal) :
    ((setGain j g u).front.courses.get j).gain = g
      ∧ (((setGain j g u).front.courses.get j).gain ≠ (s.front.courses.get j).gain →
          ((setGain j g u).front.courses.get j).attenuator = attenuatorOf ((setGain j g u).front.courses.get j).gain
          ∧ ((setGain j g u).front.courses.get j).lnaOn = decide (0 < ((setGain j g u).front.courses.get j).gain)
          ∧ ((setGain j g u).front.courses.get j).gainStepTotal = (s.front.courses.get j).gainStepTotal + 1)
      ∧ ∀ i, i ≠ j → (setGain j g u).front.courses.get i = s.front.courses.get i := by
  obtain ⟨hg, hchanged, hother⟩ := setGain_course j g u
  rw [hgain, hsteps] at hchanged
  rw [hg]
  exact ⟨rfl, hchanged, fun i hi => (hother i hi).trans (hu i hi)⟩

/-- The peak tracked and the state of AGC_LIMIT, before the gain is set (R93). -/
def State.agcTracked (s : State) (j : Nat) (peak : Int) : State :=
  let e := s.cfg.active.courses.get j
  let attack := decide (e.attack * 100 ≤ peak)
  let loudAt := if e.release * 100 ≤ peak then s.now else (s.front.courses.get j).loudAt
  s.setCourse j fun c =>
    { c with loudAt := loudAt, agcAtLimit := attack && decide (c.gain = e.gainMin), agcLimitAt := if attack && decide (c.gain = e.gainMin) then c.agcLimitAt else 0 }

/-- The conditions of a rise of the gain (R93, R96). -/
def State.agcRises (s : State) (j : Nat) (peak : Int) : Prop :=
  (if (s.cfg.active.courses.get j).release * 100 ≤ peak then s.now else (s.front.courses.get j).loudAt) + (s.cfg.active.courses.get j).hold * 10000000 ≤ s.now
    ∧ (s.front.courses.get j).riseAt + (s.cfg.active.courses.get j).releaseInterval * 1000000 ≤ s.now ∧ s.levelMeasuring j = false

theorem execAgcWindow_on {s : State} {j : Nat} {peak : Int} (hj : j < s.dies) (hon : (s.front.courses.get j).agcOn = true)
    (hlead : (s.front.courses.get j).leader.isSome = true) :
    exec (.agcWindow j peak) s = .next
      (if decide ((s.cfg.active.courses.get j).attack * 100 ≤ peak) = true then
        setGain j (max (s.cfg.active.courses.get j).gainMin ((s.front.courses.get j).gain - ceilDb (peak - (s.cfg.active.courses.get j).target * 100))) (s.agcTracked j peak)
      else if (decide ((if (s.cfg.active.courses.get j).release * 100 ≤ peak then s.now else (s.front.courses.get j).loudAt) + (s.cfg.active.courses.get j).hold * 10000000 ≤ s.now)
          && decide ((s.front.courses.get j).riseAt + (s.cfg.active.courses.get j).releaseInterval * 1000000 ≤ s.now) && !s.levelMeasuring j) = true then
        setGain j (min (s.cfg.active.courses.get j).gainMax ((s.front.courses.get j).gain + 1)) ((s.agcTracked j peak).setCourse j fun c => { c with riseAt := s.now })
      else s.agcTracked j peak) :=
  (onlyIf_of_true (by simp [hj, hlead])).trans (congrArg Host.Outcome.next (if_neg (by simp [hon])))

theorem agcTracked_facts (s : State) (j : Nat) (peak : Int) :
    ((s.agcTracked j peak).front.courses.get j).gain = (s.front.courses.get j).gain
      ∧ ((s.agcTracked j peak).front.courses.get j).gainStepTotal = (s.front.courses.get j).gainStepTotal
      ∧ ∀ i, i ≠ j → (s.agcTracked j peak).front.courses.get i = s.front.courses.get i := by
  unfold State.agcTracked
  rw [State.setCourse_self]
  exact ⟨rfl, rfl, fun i hi => State.setCourse_of_ne _ _ _ hi⟩

theorem agcWindow_tracks {s : State} {j : Nat} {peak : Int} (hj : j < s.dies) (hon : (s.front.courses.get j).agcOn = true)
    (hlead : (s.front.courses.get j).leader.isSome = true) :
    ∃ t, exec (.agcWindow j peak) s = .next t ∧ Only [.front, .link, .cal] s t
      ∧ ((s.cfg.active.courses.get j).attack * 100 ≤ peak →
          (t.front.courses.get j).gain = max (s.cfg.active.courses.get j).gainMin ((s.front.courses.get j).gain - ceilDb (peak - (s.cfg.active.courses.get j).target * 100)))
      ∧ (peak < (s.cfg.active.courses.get j).attack * 100 →
          (t.front.courses.get j).gain =
            if (if (s.cfg.active.courses.get j).release * 100 ≤ peak then s.now else (s.front.courses.get j).loudAt) + (s.cfg.active.courses.get j).hold * 10000000 ≤ s.now
              ∧ (s.front.courses.get j).riseAt + (s.cfg.active.courses.get j).releaseInterval * 1000000 ≤ s.now ∧ s.levelMeasuring j = false
            then min (s.cfg.active.courses.get j).gainMax ((s.front.courses.get j).gain + 1) else (s.front.courses.get j).gain)
      ∧ ((t.front.courses.get j).gain ≠ (s.front.courses.get j).gain →
          (t.front.courses.get j).attenuator = (if 0 < (t.front.courses.get j).gain then (14 - (t.front.courses.get j).gain).toNat else (-(t.front.courses.get j).gain).toNat)
          ∧ (t.front.courses.get j).lnaOn = decide (0 < (t.front.courses.get j).gain)
          ∧ (t.front.courses.get j).gainStepTotal = (s.front.courses.get j).gainStepTotal + 1)
      ∧ ∀ i, i ≠ j → t.front.courses.get i = s.front.courses.get i := by
  have hrun := execAgcWindow_on (peak := peak) hj hon hlead
  have honly := (execAgcWindow_frames j peak s).onlyOf hrun
  obtain ⟨hgain, hsteps, hother⟩ := agcTracked_facts s j peak
  refine ⟨_, hrun, honly, ?_⟩
  by_cases hattack : (s.cfg.active.courses.get j).attack * 100 ≤ peak
  · rw [if_pos (decide_eq_true hattack)]
    obtain ⟨hg, hchanged, hrest⟩ := setGain_from (g := max (s.cfg.active.courses.get j).gainMin
      ((s.front.courses.get j).gain - ceilDb (peak - (s.cfg.active.courses.get j).target * 100))) hother hgain hsteps
    exact ⟨fun _ => hg, fun h => absurd hattack (Int.not_le.mpr h), hchanged, hrest⟩
  · rw [if_neg (by simpa using hattack)]
    by_cases hrise : s.agcRises j peak
    · have hcond := hrise
      unfold State.agcRises at hcond
      rw [if_pos (by simpa [State.agcRises, and_assoc] using hrise)]
      obtain ⟨hg, hchanged, hrest⟩ := setGain_from (g := min (s.cfg.active.courses.get j).gainMax ((s.front.courses.get j).gain + 1))
        (u := (s.agcTracked j peak).setCourse j fun c => { c with riseAt := s.now })
        (fun i hi => (State.setCourse_of_ne _ _ _ hi).trans (hother i hi)) (by rw [State.setCourse_self]; exact hgain) (by rw [State.setCourse_self]; exact hsteps)
      exact ⟨fun h => absurd h hattack, fun _ => by rw [hg, if_pos hcond], hchanged, hrest⟩
    · have hcond := hrise
      unfold State.agcRises at hcond
      rw [if_neg (by simpa [State.agcRises, and_assoc] using hrise)]
      exact ⟨fun h => absurd h hattack, fun _ => by rw [hgain, if_neg hcond], fun h => absurd hgain h, hother⟩

theorem agcWindow_manual {s : State} {j : Nat} {peak : Int} (hj : j < s.dies) (hoff : (s.front.courses.get j).agcOn = false)
    (hlead : (s.front.courses.get j).leader.isSome = true) :
    ∃ t, exec (.agcWindow j peak) s = .next t ∧ Only [.front] s t
      ∧ t.front.courses.get j = { s.front.courses.get j with
          loudAt := if (s.cfg.active.courses.get j).release * 100 ≤ peak then s.now else (s.front.courses.get j).loudAt }
      ∧ ∀ i, i ≠ j → t.front.courses.get i = s.front.courses.get i := by
  have hrun : exec (.agcWindow j peak) s = .next (s.setCourse j fun c =>
      { c with loudAt := if (s.cfg.active.courses.get j).release * 100 ≤ peak then s.now else (s.front.courses.get j).loudAt }) :=
    (onlyIf_of_true (by simp [hj, hlead])).trans (congrArg Host.Outcome.next (if_pos (by simp [hoff])))
  exact ⟨_, hrun, State.setCourse_only _ _ _, State.setCourse_self _ _ _, fun i hi => State.setCourse_of_ne _ _ _ hi⟩

theorem agcLimit_reports {s : State} {j : Nat} {peak : Int} (hj : j < s.dies) (hlimit : (s.front.courses.get j).agcAtLimit = true)
    (hdue : (s.front.courses.get j).agcLimitAt = 0 ∨ (s.front.courses.get j).agcLimitAt + 100000000 ≤ s.now) :
    ∃ t, exec (.agcLimit j peak) s = .next t ∧ Only [.front, .link, .integ, .sec] s t ∧ t.front.courses.get j = { s.front.courses.get j with agcLimitAt := s.now }
      ∧ (∀ i, i ≠ j → t.front.courses.get i = s.front.courses.get i) ∧ Raises s t .agcLimit j [.w j, .w peak] := by
  have hrun : exec (.agcLimit j peak) s = .next (raise .agcLimit j [.w j, .w peak] (s.setCourse j fun c => { c with agcLimitAt := s.now })) :=
    onlyIf_of_true (by simp only [decide_eq_true hj, hlimit, Bool.true_and, Bool.or_eq_true, beq_iff_eq, decide_eq_true_eq]; exact hdue)
  refine ⟨_, hrun, (execAgcLimit_frames j peak s).onlyOf hrun, ?_⟩
  rw [raise_only _ _ _ _ .front rfl]
  exact ⟨State.setCourse_self _ _ _, fun i hi => State.setCourse_of_ne _ _ _ hi, Raises.raise (State.setCourse_only _ _ _) rfl rfl _ _ _⟩

/-- Settles O23: attack, rise and hold are the three branches of a window under AGC. -/
theorem gainControl : Obligations.GainControl :=
  ⟨fun _ _ _ => agcWindow_tracks, fun _ _ _ => agcWindow_manual, fun _ _ _ => agcLimit_reports⟩

/-! ### Records -/

/-- The codes of a tick that the sticky fields take in: those taken since they were cleared (R100). -/
def stickyCodes (from_ start S : Nat) (out : List SliceCode) : List Int :=
  ((out.zipIdx).filter fun x => decide (from_ ≤ start + (3125 * S - out.length + x.2) * 32 / S)).map (·.1.code)

theorem stickyCodes_all {from_ start : Nat} (S : Nat) (out : List SliceCode) (h : from_ ≤ start) : stickyCodes from_ start S out = out.map (·.code) := by
  unfold stickyCodes
  rw [List.filter_eq_self.mpr fun x _ => decide_eq_true (Nat.le_trans h (Nat.le_add_right _ _))]
  rw [show (fun x : SliceCode × Nat => x.1.code) = SliceCode.code ∘ Prod.fst from rfl, ← List.map_map, List.zipIdx_map_fst]

theorem stickyCodes_none {from_ start S : Nat} {out : List SliceCode} (hlen : out.length = 3125 * S) (h : start + 100000 ≤ from_) :
    stickyCodes from_ start S out = [] := by
  unfold stickyCodes
  rw [List.filter_eq_nil_iff.mpr, List.map_nil]
  intro x hx
  have hidx : x.2 < 3125 * S := by
    obtain ⟨-, hlt, -⟩ := List.mem_zipIdx hx
    omega
  have hdiv : (3125 * S - out.length + x.2) * 32 / S < 100000 := (Nat.div_lt_iff_lt_mul (by omega)).mpr (by omega)
  simp only [decide_eq_true_eq]
  omega

/-- Codes of the converter are 14-bit signed values. -/
def codesFit (xs : List Int) : Prop := ∀ x ∈ xs, -8192 ≤ x ∧ x ≤ 8191

theorem toInt_of_code {x : Int} (h : -8192 ≤ x ∧ x ≤ 8191) : (BitVec.ofInt 16 x).toInt = x := by
  rw [BitVec.toInt_ofInt]
  exact Int.bmod_eq_of_le (by omega) (by omega)

theorem stickyMin_toInt : ∀ (xs : List Int) (m : W16), codesFit xs →
    (xs.foldl (fun m x => if x < m.toInt then BitVec.ofInt 16 x else m) m).toInt = xs.foldl min m.toInt
  | [], _, _ => rfl
  | x :: xs, m, h => by
    have hstep : (if x < m.toInt then BitVec.ofInt 16 x else m).toInt = min m.toInt x := by
      split
      · next hlt => rw [toInt_of_code (h x List.mem_cons_self), Int.min_eq_right (Int.le_of_lt hlt)]
      · next hge => rw [Int.min_eq_left (Int.not_lt.mp hge)]
    rw [List.foldl_cons, List.foldl_cons, stickyMin_toInt xs _ fun y hy => h y (List.mem_cons_of_mem _ hy), hstep]

theorem stickyMax_toInt : ∀ (xs : List Int) (m : W16), codesFit xs →
    (xs.foldl (fun m x => if m.toInt < x then BitVec.ofInt 16 x else m) m).toInt = xs.foldl max m.toInt
  | [], _, _ => rfl
  | x :: xs, m, h => by
    have hstep : (if m.toInt < x then BitVec.ofInt 16 x else m).toInt = max m.toInt x := by
      split
      · next hlt => rw [toInt_of_code (h x List.mem_cons_self), Int.max_eq_right (Int.le_of_lt hlt)]
      · next hge => rw [Int.max_eq_left (Int.not_lt.mp hge)]
    rw [List.foldl_cons, List.foldl_cons, stickyMax_toInt xs _ fun y hy => h y (List.mem_cons_of_mem _ hy), hstep]

/-- A count that saturates at its highest value. -/
def saturated (c : W32) (n : Nat) : W32 := if c.toNat + n ≥ 0xFFFFFFFF then 0xFFFFFFFF else BitVec.ofNat 32 (c.toNat + n)

theorem saturated_toNat (c : W32) (n : Nat) : (saturated c n).toNat = min 0xFFFFFFFF (c.toNat + n) := by
  unfold saturated
  split
  · next h => exact (Nat.min_eq_left h).symm
  · next h => rw [BitVec.toNat_ofNat, Nat.mod_eq_of_lt (by omega), Nat.min_eq_right (by omega)]

theorem saturated_zero (c : W32) : saturated c 0 = c := by
  apply BitVec.eq_of_toNat_eq
  rw [saturated_toNat]
  have := c.isLt
  omega

/-- The converter with the record of the tick latched (R99, R100). -/
def Converter.latch (c : Converter) (r : ConvRecord) (n : Nat) (since : List Int) : Converter :=
  { c with
    latched := r, latchedTo := n
    stickyMin := since.foldl (fun m x => if x < m.toInt then BitVec.ofInt 16 x else m) c.stickyMin
    stickyMax := since.foldl (fun m x => if m.toInt < x then BitVec.ofInt 16 x else m) c.stickyMax
    stickyClip := saturated c.stickyClip (since.countP fun c => decide (c ≤ -8192) || decide (8191 ≤ c)) }

theorem latch_nothing (c : Converter) (r : ConvRecord) (n : Nat) :
    (c.latch r n []).stickyMin = c.stickyMin ∧ (c.latch r n []).stickyMax = c.stickyMax ∧ (c.latch r n []).stickyClip = c.stickyClip :=
  ⟨rfl, rfl, saturated_zero _⟩

theorem latch_codes (c : Converter) (r : ConvRecord) (n : Nat) {out : List SliceCode} (h : codesFit (out.map (·.code))) :
    (c.latch r n (out.map (·.code))).stickyMin.toInt = out.foldl (fun m x => min m x.code) c.stickyMin.toInt
      ∧ (c.latch r n (out.map (·.code))).stickyMax.toInt = out.foldl (fun m x => max m x.code) c.stickyMax.toInt
      ∧ (c.latch r n (out.map (·.code))).stickyClip.toNat
          = min 0xFFFFFFFF (c.stickyClip.toNat + out.countP fun x => decide (x.code ≤ -8192) || decide (8191 ≤ x.code)) := by
  refine ⟨(stickyMin_toInt _ _ h).trans List.foldl_map, (stickyMax_toInt _ _ h).trans List.foldl_map, (saturated_toNat _ _).trans ?_⟩
  rw [List.countP_map]
  rfl

theorem execConverterRecordLatch_run {s : State} {k : Nat} {codes : List SliceCode} (hk : k < 2 * s.dies) (hpowered : (s.front.convs.get k).powered = true)
    (hn : s.now % 100000 = 0) (hto : (s.front.convs.get k).latchedTo < s.now)
    (hfull : (codes.filter (·.output)).length = 3125 * planFrameSamples (s.clk.get (k / 2)).plan) :
    exec (.converterRecordLatch k codes) s = .next (s.setConv k fun c => c.latch
      (tickRecord codes (tickOf (s.now - countsPerTick)) (s.gainAt (s.courseOf k) (s.now - 1 : Nat)) (s.gainStepsIn (s.courseOf k) (tickOf (s.now - countsPerTick)))) s.now
      (stickyCodes (s.front.convs.get k).stickyFrom (s.now - countsPerTick) (planFrameSamples (s.clk.get (k / 2)).plan) (codes.filter (·.output)))) :=
  onlyIf_of_true (by simp [hk, hpowered, countsPerTick, hn, hto, hfull])

theorem converterRecordLatch_latches {s : State} {k : Nat} {codes : List SliceCode} (hk : k < 2 * s.dies) (hpowered : (s.front.convs.get k).powered = true)
    (hn : s.now % 100000 = 0) (hto : (s.front.convs.get k).latchedTo < s.now)
    (hfull : (codes.filter (·.output)).length = 3125 * planFrameSamples (s.clk.get (k / 2)).plan) :
    ∃ t, exec (.converterRecordLatch k codes) s = .next t ∧ Only [.front] s t
      ∧ (t.front.convs.get k).latched.pwrSum = BitVec.ofNat 64 (((codes.filter (·.output)).map fun x => (x.code * x.code).toNat).sum)
      ∧ (t.front.convs.get k).latched.pwrCount = BitVec.ofNat 32 (3125 * planFrameSamples (s.clk.get (k / 2)).plan)
      ∧ (t.front.convs.get k).latched.tickNum = BitVec.ofNat 32 (tickOf (s.now - 100000))
      ∧ (t.front.convs.get k).latched.lo = BitVec.ofInt 16 (levelMin ((codes.filter (·.output)).map (·.code)))
      ∧ (t.front.convs.get k).latched.hi = BitVec.ofInt 16 (levelMax ((codes.filter (·.output)).map (·.code)))
      ∧ (t.front.convs.get k).latched.clipCount = BitVec.ofNat 32 ((codes.filter (·.output)).countP fun x => decide (x.code ≤ -8192) || decide (8191 ≤ x.code))
      ∧ (t.front.convs.get k).latched.gainEnd = s.gainAt (s.courseOf k) (s.now - 1 : Nat)
      ∧ (t.front.convs.get k).latched.gainSteps = s.gainStepsIn (s.courseOf k) (tickOf (s.now - 100000))
      ∧ ((∀ x ∈ codes, -8192 ≤ x.code ∧ x.code ≤ 8191) → (s.front.convs.get k).stickyFrom + 100000 ≤ s.now →
          (t.front.convs.get k).stickyMin.toInt = (codes.filter (·.output)).foldl (fun m x => min m x.code) (s.front.convs.get k).stickyMin.toInt
          ∧ (t.front.convs.get k).stickyMax.toInt = (codes.filter (·.output)).foldl (fun m x => max m x.code) (s.front.convs.get k).stickyMax.toInt
          ∧ (t.front.convs.get k).stickyClip.toNat = min 0xFFFFFFFF ((s.front.convs.get k).stickyClip.toNat
              + (codes.filter (·.output)).countP fun x => decide (x.code ≤ -8192) || decide (8191 ≤ x.code)))
      ∧ (s.now ≤ (s.front.convs.get k).stickyFrom →
          (t.front.convs.get k).stickyMin = (s.front.convs.get k).stickyMin ∧ (t.front.convs.get k).stickyMax = (s.front.convs.get k).stickyMax
          ∧ (t.front.convs.get k).stickyClip = (s.front.convs.get k).stickyClip)
      ∧ (t.front.convs.get k).snap = (s.front.convs.get k).snap ∧ (∀ i, i ≠ k → t.front.convs.get i = s.front.convs.get i) ∧ t.front.courses = s.front.courses := by
  refine ⟨_, execConverterRecordLatch_run hk hpowered hn hto hfull, State.setConv_only _ _ _, ?_⟩
  rw [State.setConv_self]
  have hnow : 100000 ≤ s.now := Nat.le_of_dvd (by omega) (Nat.dvd_of_mod_eq_zero hn)
  have hcount : (tickRecord codes (tickOf (s.now - countsPerTick)) (s.gainAt (s.courseOf k) (s.now - 1 : Nat)) (s.gainStepsIn (s.courseOf k) (tickOf (s.now - countsPerTick)))).pwrCount
      = BitVec.ofNat 32 (3125 * planFrameSamples (s.clk.get (k / 2)).plan) := by
    rw [← hfull]
    exact congrArg (BitVec.ofNat 32) (List.length_map _)
  refine ⟨?_, hcount, rfl, rfl, rfl, ?_, rfl, rfl, fun hfit hfrom => ?_, fun hfrom => ?_, rfl, fun i hi => State.setConv_of_ne _ _ _ hi, rfl⟩
  · exact congrArg (fun l => BitVec.ofNat 64 l.sum) List.map_map
  · exact congrArg (BitVec.ofNat 32) List.countP_map
  · rw [stickyCodes_all _ _ (by rw [show countsPerTick = 100000 from rfl]; omega)]
    exact latch_codes _ _ _ fun x hx => by
      obtain ⟨y, hy, rfl⟩ := List.mem_map.mp hx
      exact hfit y (List.mem_filter.mp hy).1
  · rw [stickyCodes_none hfull (by rw [show countsPerTick = 100000 from rfl]; omega)]
    exact latch_nothing _ _ _

theorem pwrSumLoRead_snapshots {s : State} {k a : Nat} (hb : s.barUp = true) (hk : k < 2 * s.dies) (ha : a = 0x10000 * (k / 2 + 1) + 0x300 + 0x80 * (k % 2)) :
    ∃ t, exec (.pwrSumLoRead k) s = .next t ∧ Only [.front, .link, .mode] s t ∧ t.mode = { s.mode with lastAccess := s.now } ∧ t.front.convs.get k = { s.front.convs.get k with snap := (s.front.convs.get k).latched }
      ∧ (∀ i, i ≠ k → t.front.convs.get i = s.front.convs.get i) ∧ t.front.courses = s.front.courses
      ∧ t.link = { s.link with sent := s.link.sent ++ [.regRead ((s.front.convs.get k).latched.pwrSum.toNat % 2 ^ 32)] }
      ∧ s.readBar0 (a + 0x08) = (s.front.convs.get k).latched.pwrSum.toNat % 2 ^ 32 ∧ t.readBar0 (a + 0x0C) = (s.front.convs.get k).latched.pwrSum.toNat / 2 ^ 32
      ∧ t.readBar0 (a + 0x10) = (s.front.convs.get k).latched.pwrCount.toNat ∧ t.readBar0 (a + 0x14) = (s.front.convs.get k).latched.tickNum.toNat := by
  subst ha
  let t := send (.regRead ((s.front.convs.get k).latched.pwrSum.toNat % 2 ^ 32)) ((hostAccess s).setConv k fun c => { c with snap := c.latched })
  have hrun : exec (.pwrSumLoRead k) s = .next t := show execPwrSumLoRead k s = _ from dieRead_populated (d := k / 2) hb (by omega)
  have hself : t.front.convs.get k = { s.front.convs.get k with snap := (s.front.convs.get k).latched } := State.setConv_self (hostAccess s) k _
  have hkt : k < 2 * t.dies := hk
  obtain ⟨hlo, -, -, -⟩ := readConverter_words s k
  obtain ⟨-, hhi, hcount, htick⟩ := readConverter_words t k
  rw [hself] at hhi hcount htick
  exact ⟨t, hrun, (execPwrSumLoRead_frames k s).onlyOf hrun, rfl, hself, fun i hi => State.setConv_of_ne (hostAccess s) k _ hi, rfl, rfl,
    (readBar0_conv hk (by decide)).trans hlo, (readBar0_conv hkt (by decide)).trans hhi, (readBar0_conv hkt (by decide)).trans hcount,
    (readBar0_conv hkt (by decide)).trans htick⟩

theorem pwrSumLoRead_absent {s : State} {k : Nat} (hb : s.barUp = true) (hk : 2 * s.dies ≤ k) :
    exec (.pwrSumLoRead k) s = .next { s with mode := { s.mode with lastAccess := s.now }, link := { s.link with sent := s.link.sent ++ [.regRead 0] } } :=
  show execPwrSumLoRead k s = _ from dieRead_absent (d := k / 2) hb (by omega)

theorem clearSticky_clears {s : State} {k : Nat} (hb : s.barUp = true) (hup : s.dieUp (k / 2) = true) :
    ∃ t, exec (.clearSticky k) s = .next t ∧ Only [.front, .mode] s t ∧ t.mode = { s.mode with lastAccess := s.now }
      ∧ t.front.convs.get k = { s.front.convs.get k with stickyMin := 0x7FFF, stickyMax := 0x8000, stickyClip := 0, stickyFrom := s.now }
      ∧ (∀ i, i ≠ k → t.front.convs.get i = s.front.convs.get i) ∧ t.front.courses = s.front.courses := by
  have hrun : exec (.clearSticky k) s = .next _ := show execClearSticky k s = _ from dieWrite_takes hb hup rfl
  exact ⟨_, hrun, (execClearSticky_frames k s).onlyOf hrun, rfl, State.setConv_self _ _ _, fun i hi => State.setConv_of_ne _ _ _ hi, rfl⟩

theorem feedLimitsWrite_takes {s : State} {n lo hi : Nat} (hb : s.barUp = true) (hn : n < s.dies) (hhi : hi < 65536) :
    ∃ t, exec (.feedLimitsWrite n lo hi) s = .next t ∧ Only [.front, .mode] s t ∧ t.mode = { s.mode with lastAccess := s.now } ∧ (hi ≤ lo → t.front = s.front)
      ∧ (lo < hi → t.front.courses.get n = { s.front.courses.get n with openLimit := lo, overLimit := hi })
      ∧ (∀ i, i ≠ n → t.front.courses.get i = s.front.courses.get i) ∧ t.front.convs = s.front.convs := by
  by_cases h : lo < hi
  · have hrun : exec (.feedLimitsWrite n lo hi) s = .next ((hostAccess s).setCourse n fun c => { c with openLimit := lo, overLimit := hi }) :=
      (onlyIf_of_true hb).trans (congrArg Host.Outcome.next (if_pos ⟨hn, h, hhi⟩))
    exact ⟨_, hrun, (execFeedLimitsWrite_frames n lo hi s).onlyOf hrun, rfl, fun hle => absurd h (Nat.not_lt.mpr hle), fun _ => State.setCourse_self _ _ _,
      fun i hi => State.setCourse_of_ne _ _ _ hi, rfl⟩
  · have hrun : exec (.feedLimitsWrite n lo hi) s = .next (hostAccess s) :=
      (onlyIf_of_true hb).trans (congrArg Host.Outcome.next (if_neg fun hc => h hc.2.1))
    exact ⟨_, hrun, (execFeedLimitsWrite_frames n lo hi s).onlyOf hrun, rfl, fun _ => rfl, fun hlt => absurd hlt h, fun _ _ => rfl, rfl⟩

/-- Settles O24: the record is a function of the tick's codes; the sticky fields take in all of them or, cleared since, none. -/
theorem converterRecords : Obligations.ConverterRecords :=
  ⟨fun _ _ _ => converterRecordLatch_latches, fun _ _ _ => pwrSumLoRead_snapshots, fun _ _ => pwrSumLoRead_absent, fun _ _ => clearSticky_clears,
    fun _ _ _ _ => feedLimitsWrite_takes⟩

end Sys2Proof.Machine
end

section
/-!
PROOFS. Band taps and their audit (01 R20, 04 R125 to R134).
-/
namespace Sys2Proof.Machine

/-! ### The lanes of a cluster -/

/-- A fold that modifies each key of a list once. -/
theorem foldl_modify_get {α : Type} [DecidableEq α] (f : α → α) :
    ∀ (ks : List Nat) (t : Tbl α) (i : Nat), ks.Nodup → (ks.foldl (fun t k => t.modify k f) t).get i = if i ∈ ks then f (t.get i) else t.get i
  | [], _, _, _ => by simp
  | k :: ks, t, i, hnd => by
    obtain ⟨hnot, hnd⟩ := List.nodup_cons.mp hnd
    rw [List.foldl_cons, foldl_modify_get f ks _ i hnd, Tbl.get_modify]
    by_cases hi : i = k
    · subst hi
      simp [hnot]
    · simp [hi]

/-- The places of a cluster's eight lanes. -/
theorem mem_clusterLanes (c l : Nat) : l ∈ (List.range 8).map (c * 8 + ·) ↔ l / 8 = c := by
  simp only [List.mem_map, List.mem_range]
  constructor
  · rintro ⟨p, hp, rfl⟩
    omega
  · intro h
    exact ⟨l % 8, Nat.mod_lt _ (by decide), by omega⟩

theorem mapCluster_lanes (c l : Nat) (f : Chain → Chain) (s : State) :
    (mapCluster c f s).taps.lanes.get l = if l / 8 = c then f (s.taps.lanes.get l) else s.taps.lanes.get l := by
  have hnd : ((List.range 8).map (c * 8 + ·)).Nodup := List.Pairwise.map _ (fun a b hne heq => hne (Nat.add_left_cancel heq)) List.nodup_range
  have hfold := foldl_modify_get f _ s.taps.lanes l hnd
  rw [List.foldl_map] at hfold
  by_cases hin : l / 8 = c
  · rw [if_pos hin]
    exact hfold.trans (if_pos ((mem_clusterLanes c l).mpr hin))
  · rw [if_neg hin]
    exact hfold.trans (if_neg fun hmem => hin ((mem_clusterLanes c l).mp hmem))

theorem segmentLate_reports {s : State} {c e1 e2 : Nat} (hc : c < s.dies * 4) (hassigned : (s.taps.bandTaps.get c).assigned = true)
    (hlead : (s.front.courses.get (s.taps.bandTaps.get c).course).leader.isSome = true) (he : e1 ≤ e2) :
    ∃ t, exec (.segmentLate c e1 e2) s = .next t ∧ Only [.taps, .link, .integ, .sec] s t ∧ Raises s t .segmentLate (clusterDie c) [.w c, .q e1, .q e2]
      ∧ t.taps.bandTaps = s.taps.bandTaps
      ∧ t.taps.segments.get c = (s.taps.segments.get c).disturb s.now (.span e1 (some e2))
      ∧ (∀ l, l / 8 = c → t.taps.lanes.get l = (s.taps.lanes.get l).disturb s.now (.span e1 (some e2))) ∧ ∀ l, l / 8 ≠ c → t.taps.lanes.get l = s.taps.lanes.get l := by
  have hrun : exec (.segmentLate c e1 e2) s = .next (raise .segmentLate (clusterDie c) [.w c, .q e1, .q e2] (bandTapSpan e1 e2 c s)) :=
    onlyIf_of_true (by simp [hc, hassigned, he, hlead])
  obtain ⟨htaps, hsegment⟩ := bandTapSpan_bt e1 e2 c s
  refine ⟨_, hrun, (execSegmentLate_frames c e1 e2 s).onlyOf hrun, Raises.raise (bandTapSpan_only _ _ _ _) rfl rfl _ _ _, ?_⟩
  rw [raise_only _ _ _ _ .taps rfl]
  exact ⟨htaps, hsegment, fun l hl => (mapCluster_lanes _ _ _ _).trans (if_pos hl), fun l hl => (mapCluster_lanes _ _ _ _).trans (if_neg hl)⟩

/-! ### The audit -/

theorem State.setAudit_self (s : State) (d : Nat) (f : AuditTap → AuditTap) : (s.setAudit d f).taps.audits.get d = f (s.taps.audits.get d) := Tbl.get_modify_self _ _ _

theorem State.setAudit_of_ne (s : State) (d : Nat) (f : AuditTap → AuditTap) {e : Nat} (h : e ≠ d) : (s.setAudit d f).taps.audits.get e = s.taps.audits.get e :=
  Tbl.get_modify_of_ne _ h _

/-- A sub-slot begun on its target. -/
def State.subslotBegun (s : State) (d slot sub : Nat) (x : AuditTarget) : State :=
  (endSubslot d s).setAudit d fun a => { a with target := some x, slot := slot, subSlot := sub }

/-- A sub-slot with its known-answer test done, where it is one (R131, R133). -/
def State.subslotTested (s : State) (x : AuditTarget) (katFails : Bool) (u : State) : State :=
  match x with
  | .kat _ | .selfKat _ => if katFails && !s.retired x.unit then chargeTap x.unit s.now u else u
  | _ => u

theorem execAuditSubslot_run {s : State} {d slot sub : Nat} {x : AuditTarget} {katFails : Bool} (hd : d < s.dies) (hruns : s.auditRuns d = true)
    (hn : s.now % 5000000 = 0) (hslot : s.now % countsPerSecond / 100000 / 250 = slot) (hsub : s.now % countsPerSecond / 100000 % 250 / 50 = sub)
    (hx : s.auditTargetOf d slot sub = x) :
    exec (.auditSubslot d katFails) s = .next (s.subslotTested x katFails (s.subslotBegun d slot sub x)) := by
  subst hslot hsub hx
  exact onlyIf_of_true (by simp [hd, hruns, hn])

theorem subslotTested_passes (s : State) (x : AuditTarget) (u : State) : s.subslotTested x false u = u := by
  unfold State.subslotTested
  split <;> rfl

theorem auditSubslot_takes {s : State} {d : Nat} {katFails : Bool} (hd : d < s.dies) (hruns : s.auditRuns d = true) (hn : s.now % 5000000 = 0) :
    ∃ t, exec (.auditSubslot d katFails) s = .next t ∧ Only [.spans, .taps, .link, .integ, .mode, .sec, .nv, .modeCode] s t
      ∧ (katFails = false → (t.taps.audits.get d).target = some (s.auditTargetOf d (s.now % 100000000 / 100000 / 250) (s.now % 100000000 / 100000 % 250 / 50)) ∧ t.link = s.link ∧ t.nv = s.nv)
      ∧ (katFails = true → (∀ c, s.auditTargetOf d (s.now % 100000000 / 100000 / 250) (s.now % 100000000 / 100000 % 250 / 50) = .kat c → s.retired (bandTapRef c) = false →
          Raises s t .bandtapMismatch (c / 4) [.w (c / 4), .w (c % 4 : Nat), .q s.now])) := by
  obtain ⟨slot, hslot⟩ : ∃ slot, s.now % 100000000 / 100000 / 250 = slot := ⟨_, rfl⟩
  obtain ⟨sub, hsub⟩ : ∃ sub, s.now % 100000000 / 100000 % 250 / 50 = sub := ⟨_, rfl⟩
  rw [hslot, hsub]
  obtain ⟨x, hx⟩ : ∃ x, s.auditTargetOf d slot sub = x := ⟨_, rfl⟩
  rw [hx]
  have hrun := execAuditSubslot_run (katFails := katFails) hd hruns hn hslot hsub hx
  have hbegun : Only [.taps] s (s.subslotBegun d slot sub x) := (State.setAudit_only _ _ _).andThen rfl (endSubslot_only d s)
  refine ⟨_, hrun, (execAuditSubslot_frames d katFails s).onlyOf hrun, fun hpass => ?_, fun hfail c hkat hret => ?_⟩
  · subst hpass
    rw [subslotTested_passes]
    exact ⟨congrArg AuditTap.target (State.setAudit_self _ _ _), hbegun .link rfl, hbegun .nv rfl⟩
  · subst hfail hkat
    have hcharge : s.subslotTested (.kat c) true (s.subslotBegun d slot sub (.kat c)) = chargeTap (bandTapRef c) s.now (s.subslotBegun d slot sub (.kat c)) :=
      if_pos (by simp [AuditTarget.unit, hret])
    rw [hcharge]
    exact (chargeTap_raises hbegun rfl rfl (bandTapRef c) s.now).2 nofun

theorem auditCompareMismatch_verifies {s : State} {d : Nat} {x : AuditTarget} (hd : d < s.dies) (hruns : s.auditRuns d = true)
    (hverifying : (s.taps.audits.get d).verifying = none) (htarget : (s.taps.audits.get d).target = some x) (hkat : ∀ c, x ≠ .kat c)
    (hself : ∀ i, x ≠ .selfKat i) (hcompares : s.auditCompares x = true) :
    ∃ t, exec (.auditCompareMismatch d) s = .next t ∧ Only [.taps] s t
      ∧ t.taps.audits.get d = { s.taps.audits.get d with verifying := some (s.now, x), target := none, second := some (s.secondTap d x) }
      ∧ ∀ e, e ≠ d → t.taps.audits.get e = s.taps.audits.get e := by
  have hrun : exec (.auditCompareMismatch d) s
      = .next (s.setAudit d fun a => { a with verifying := some (s.now, x), target := none, second := some (s.secondTap d x) }) := by
    have hgo : (decide (d < s.dies) && s.auditRuns d && (s.taps.audits.get d).verifying.isNone && s.auditCompares x) = true := by
      simp [hd, hruns, hverifying, hcompares]
    simp only [exec, execAuditCompareMismatch, htarget]
    cases x with
    | bandTap c => exact onlyIf_of_true hgo
    | exportTap i => exact onlyIf_of_true hgo
    | kat c => exact absurd rfl (hkat c)
    | selfKat i => exact absurd rfl (hself i)
  exact ⟨_, hrun, State.setAudit_only _ _ _, State.setAudit_self _ _ _, fun e he => State.setAudit_of_ne _ _ _ he⟩

theorem auditVerifyEnd_charges {s : State} {d first : Nat} {x : AuditTarget} {agrees : Bool} (hd : d < s.dies) (hruns : s.dieRuns d = true)
    (hverifying : (s.taps.audits.get d).verifying = some (first, x)) (hnow : first + 200000 ≤ s.now) :
    ∃ t, exec (.auditVerifyEnd d agrees) s = .next t ∧ Only [.spans, .taps, .link, .integ, .mode, .sec, .nv, .modeCode] s t
      ∧ (agrees = false → Raises s t .auditMismatch d [.w d, .q first])
      ∧ (agrees = true → ∀ c, x = .bandTap c → Raises s t .bandtapMismatch (c / 4) [.w (c / 4), .w (c % 4 : Nat), .q first])
      ∧ (agrees = true → ∀ i, x = .exportTap i → Raises s t .bandtapMismatch (i / 16) [.w (i / 16), .w (4 + i % 16 : Nat), .q first]) := by
  let u := s.setAudit d fun a => { a with verifying := none, second := none }
  have hu : Only [.taps] s u := State.setAudit_only _ _ _
  have hrun : exec (.auditVerifyEnd d agrees) s = .next (chargeTap (if agrees then x.unit else auditRef d) first u) := by
    simp only [exec, execAuditVerifyEnd, hverifying]
    exact onlyIf_of_true (by simp only [decide_eq_true hd, hruns, Bool.true_and, decide_eq_true_eq]; exact hnow)
  refine ⟨_, hrun, (execAuditVerifyEnd_frames d agrees s).onlyOf hrun, ?_, ?_, ?_⟩
  · rintro rfl
    exact (chargeTap_raises hu rfl rfl (auditRef d) first).1 rfl
  · rintro rfl c rfl
    exact (chargeTap_raises hu rfl rfl (bandTapRef c) first).2 nofun
  · rintro rfl i rfl
    exact (chargeTap_raises hu rfl rfl (exportRef i) first).2 nofun

theorem auditReplacementSplice_replaces {s : State} {d : Nat} {u : UnitRef} (hd : d < s.dies) (hreplace : (s.taps.audits.get d).replace = some u)
    (hdie : u.die = d) (hn : s.now % 32 = 0) :
    ∃ t, exec (.auditReplacementSplice d) s = .next t ∧ Only [.spans, .taps, .link, .integ, .mode, .mb, .sec, .nv, .modeCode] s t
      ∧ t.retired u = true ∧ (t.taps.audits.get d).replace = none
      ∧ (u.kind = .bandTap → t.nv.auditCarries.get d = some u ∧ Raises s t .bandtapReplaced d [.w d, .w u.loc, .q s.now]) := by
  subst hdie
  have hrun : exec (.auditReplacementSplice u.die) s = .next (completeWait (fun w => w = .retire u) .ok 0 (replaceTap u s)) := by
    simp only [exec, execAuditReplacementSplice, hreplace]
    exact onlyIf_of_true (by simp [hd, countsPerFrame, hn])
  obtain ⟨hret, hgone, hcarry⟩ := replaceTap_facts u s (retireUnit_retired u s)
  have hdone := completeWait_only (fun w => w = .retire u) .ok 0 (replaceTap u s)
  refine ⟨_, hrun, (execAuditReplacementSplice_frames u.die s).onlyOf hrun, hdone.retired rfl hret, ?_, fun hk => ⟨?_, (hcarry hk).2.andThen hdone rfl⟩⟩
  · rw [hdone .taps rfl]
    exact hgone
  · rw [hdone .nv rfl]
    exact (hcarry hk).1

/-! ### Registers -/

theorem ncoWordLoRead_snapshots {s : State} {c a : Nat} (hb : s.barUp = true) (hc : c < s.dies * 4) (ha : a = 0x10000 * (c / 4 + 1) + 0x400 + 0x20 * (c % 4)) :
    ∃ t, exec (.ncoWordLoRead c) s = .next t ∧ Only [.taps, .link, .mode] s t ∧ t.mode = { s.mode with lastAccess := s.now }
      ∧ s.readBar0 (a + 0x04) = (s.taps.bandTaps.get c).ncoWord % 2 ^ 32 ∧ t.readBar0 (a + 0x08) = (s.taps.bandTaps.get c).ncoWord / 2 ^ 32 % 2 ^ 16
      ∧ t.taps.bandTaps.get c = { s.taps.bandTaps.get c with ncoHiSnap := BitVec.ofNat 16 ((s.taps.bandTaps.get c).ncoWord / 2 ^ 32) }
      ∧ (∀ e, e ≠ c → t.taps.bandTaps.get e = s.taps.bandTaps.get e) ∧ t.link.sent = s.link.sent ++ [.regRead ((s.taps.bandTaps.get c).ncoWord % 2 ^ 32)] := by
  subst ha
  let t := send (.regRead ((s.taps.bandTaps.get c).ncoWord % 2 ^ 32))
    ((hostAccess s).setBandTap c fun b => { b with ncoHiSnap := BitVec.ofNat 16 ((s.taps.bandTaps.get c).ncoWord / 2 ^ 32) })
  have hrun : exec (.ncoWordLoRead c) s  = .next t := by
    simp only [exec, execNcoWordLoRead]
    exact dieRead_populated hb (by unfold clusterDie; omega)
  have hself : t.taps.bandTaps.get c = { s.taps.bandTaps.get c with ncoHiSnap := BitVec.ofNat 16 ((s.taps.bandTaps.get c).ncoWord / 2 ^ 32) } :=
    Tbl.get_modify_self _ _ _
  have hct : c < t.dies * 4 := hc
  refine ⟨t, hrun, (execNcoWordLoRead_frames c s).onlyOf hrun, rfl, (readBar0_bandTap hc (by decide)).trans (readBandTap_words s c).1,
    (readBar0_bandTap hct (by decide)).trans ?_, hself, fun e he => Tbl.get_modify_of_ne _ he _, rfl⟩
  rw [(readBandTap_words t c).2, hself]
  exact (regWord_single (by decide) _).trans ((wrapInt_nat _ _).trans (by rw [BitVec.toNat_ofNat, Nat.mod_mod]))

theorem ncoWordLoRead_absent {s : State} {c : Nat} (hb : s.barUp = true) (hc : s.dies * 4 ≤ c) :
    exec (.ncoWordLoRead c) s = .next (send (.regRead 0) (hostAccess s)) := by
  simp only [exec, execNcoWordLoRead]
  exact dieRead_absent hb (by unfold clusterDie; omega)

theorem satStickyClear_bandTap {s : State} {c : Nat} (hb : s.barUp = true) (hup : s.dieUp (c / 4) = true) :
    ∃ t, exec (.satStickyClear (.bandTap c)) s = .next t ∧ Only [.taps, .mode] s t ∧ t.mode = { s.mode with lastAccess := s.now } ∧ t.taps.bandTaps.get c = { s.taps.bandTaps.get c with satSticky := false }
      ∧ ∀ e, e ≠ c → t.taps.bandTaps.get e = s.taps.bandTaps.get e := by
  have hrun : exec (.satStickyClear (.bandTap c)) s = .next ((hostAccess s).setBandTap c fun b => { b with satSticky := false }) := by
    simp only [exec, execSatStickyClear]
    exact dieWrite_takes (d := clusterDie c) hb hup rfl
  exact ⟨_, hrun, (execSatStickyClear_frames (.bandTap c) s).onlyOf hrun, rfl, Tbl.get_modify_self _ _ _, fun e he => Tbl.get_modify_of_ne _ he _⟩

/-- The flag named is cleared, the other two stay. -/
theorem clearSat_flags (c : Chain) (g : Nat) :
    c.clearSat g = { c with satHalving := c.satHalving && g != 0, satResampler := c.satResampler && g != 1, satFilter := c.satFilter && g != 2 } := by
  match g with
  | 0 => simp [Chain.clearSat]
  | 1 => simp [Chain.clearSat]
  | 2 => simp [Chain.clearSat]
  | n + 3 => simp [Chain.clearSat]

theorem satStickyClear_lane {s : State} {l g : Nat} (hb : s.barUp = true) (hup : s.dieUp (l / 32) = true) :
    ∃ t, exec (.satStickyClear (.lane l g)) s = .next t ∧ Only [.taps, .mode] s t ∧ t.mode = { s.mode with lastAccess := s.now }
      ∧ t.taps.lanes.get l = { s.taps.lanes.get l with
          satHalving := (s.taps.lanes.get l).satHalving && g != 0, satResampler := (s.taps.lanes.get l).satResampler && g != 1, satFilter := (s.taps.lanes.get l).satFilter && g != 2 } := by
  have hrun : exec (.satStickyClear (.lane l g)) s = .next { hostAccess s with taps := { s.taps with lanes := s.taps.lanes.modify l (·.clearSat g) } } := by
    simp only [exec, execSatStickyClear]
    exact dieWrite_takes (d := laneDie l) hb hup rfl
  exact ⟨_, hrun, (execSatStickyClear_frames (.lane l g) s).onlyOf hrun, rfl, (Tbl.get_modify_self _ _ _).trans (clearSat_flags _ _)⟩

theorem satStickyClear_spare {s : State} {c g : Nat} (hb : s.barUp = true) (hup : s.dieUp (c / 4) = true) :
    ∃ t, exec (.satStickyClear (.spare c g)) s = .next t ∧ Only [.taps, .mode] s t ∧ t.mode = { s.mode with lastAccess := s.now }
      ∧ t.taps.spares.get c = { s.taps.spares.get c with
          satHalving := (s.taps.spares.get c).satHalving && g != 0, satResampler := (s.taps.spares.get c).satResampler && g != 1, satFilter := (s.taps.spares.get c).satFilter && g != 2 } := by
  have hrun : exec (.satStickyClear (.spare c g)) s = .next { hostAccess s with taps := { s.taps with spares := s.taps.spares.modify c (·.clearSat g) } } := by
    simp only [exec, execSatStickyClear]
    exact dieWrite_takes (d := clusterDie c) hb hup rfl
  exact ⟨_, hrun, (execSatStickyClear_frames (.spare c g) s).onlyOf hrun, rfl, (Tbl.get_modify_self _ _ _).trans (clearSat_flags _ _)⟩

/-- Settles O25: a test or a verification ends in a charge of the tap it names; the registers by what a read and a write of a die's window do. -/
theorem bandTapAudit : Obligations.BandTapAudit :=
  ⟨fun _ _ _ _ => segmentLate_reports, fun _ _ _ => auditSubslot_takes, fun _ _ _ => auditCompareMismatch_verifies, fun _ _ _ _ _ => auditVerifyEnd_charges,
    fun _ _ _ => auditReplacementSplice_replaces, fun _ _ _ => ncoWordLoRead_snapshots, fun _ _ => ncoWordLoRead_absent, fun _ _ => satStickyClear_bandTap,
    fun _ _ _ => satStickyClear_lane, fun _ _ _ => satStickyClear_spare⟩

end Sys2Proof.Machine
end

section
/-!
PROOFS. The spare lane of a cluster: its assay rotation and its cover windows (05 R161 to R165, 01 R29).
-/
namespace Sys2Proof.Machine

/-! ### Assay -/

theorem loadSpare_facts (c p : Nat) (s : State) :
    (loadSpare c p s).lanes.spares.get c = { s.lanes.spares.get c with position := p, loadedAt := s.now }
      ∧ (loadSpare c p s).taps.spares.get c = s.taps.lanes.get (c * 8 + p) ∧ (loadSpare c p s).taps.lanes = s.taps.lanes
      ∧ ∀ e, e ≠ c → (loadSpare c p s).lanes.spares.get e = s.lanes.spares.get e ∧ (loadSpare c p s).taps.spares.get e = s.taps.spares.get e :=
  ⟨State.setSpare_self _ _ _, Tbl.get_set_self _ _ _, rfl, fun _ he => ⟨State.setSpare_of_ne _ _ _ he, Tbl.get_set_of_ne _ he _⟩⟩

/-- What a spare's step of 100 ms begins, once the step before it has ended (R161, R165). -/
def State.stepBegun (s : State) (s0 : State) (c : Nat) : State :=
  match s0.replacedPos c with
  | some p =>
    if (s0.lanes.spares.get c).restoreAsked then
      s0.setSpare c fun x => { x with position := p, restoreAsked := false, assay := some { start := s.now, restore := true } }
    else s0
  | none =>
    let p := (s0.lanes.spares.get c).nextAssay
    (loadSpare c p s0).setSpare c fun x => { x with nextAssay := (p + 1) % 8, assay := some { start := s.now, testing := s.nothingToCompare (c * 8 + p) } }

theorem execAssayStep_run {s : State} {c : Nat} (hup : s.spareUp c = true) (hcover : (s.lanes.spares.get c).cover = none) (hn : s.now % 10000000 = 0)
    (hfresh : ∀ a, (s.lanes.spares.get c).assay = some a → a.start ≠ s.now) :
    exec (.assayStep c) s = .next (s.stepBegun (endAssay c s) c) := by
  refine onlyIf_of_true ?_
  have hany : ((s.lanes.spares.get c).assay.any fun a => a.start == s.now) = false := by
    cases h : (s.lanes.spares.get c).assay with
    | none => rfl
    | some a => exact beq_eq_false_iff_ne.mpr (hfresh a h)
  rw [hup, hcover, hany, decide_eq_true hn]
  rfl

theorem assayStep_advances {s : State} {c : Nat} (hup : s.spareUp c = true) (hcover : (s.lanes.spares.get c).cover = none)
    (hreplaced : s.replacedPos c = none) (hn : s.now % 10000000 = 0)
    (hassay : ∀ a, (s.lanes.spares.get c).assay = some a → a.restore = false ∧ a.start ≠ s.now) :
    ∃ t, exec (.assayStep c) s = .next t ∧ Only [.taps, .lanes] s t
      ∧ (t.lanes.spares.get c).position = (s.lanes.spares.get c).nextAssay ∧ (t.lanes.spares.get c).nextAssay = ((s.lanes.spares.get c).nextAssay + 1) % 8
      ∧ (t.lanes.spares.get c).loadedAt = s.now ∧ t.taps.spares.get c = s.taps.lanes.get (c * 8 + (s.lanes.spares.get c).nextAssay)
      ∧ (t.lanes.spares.get c).assay = some { start := s.now, testing := s.nothingToCompare (c * 8 + (s.lanes.spares.get c).nextAssay) }
      ∧ (t.lanes.spares.get c).rotations = (if (s.lanes.spares.get c).assay.isSome ∧ (s.lanes.spares.get c).position = 7 then (s.lanes.spares.get c).rotations + 1 else (s.lanes.spares.get c).rotations)
      ∧ t.taps.lanes = s.taps.lanes ∧ ∀ e, e ≠ c → t.lanes.spares.get e = s.lanes.spares.get e ∧ t.taps.spares.get e = s.taps.spares.get e := by
  have hrun := execAssayStep_run hup hcover hn fun a ha => (hassay a ha).2
  obtain ⟨hended, hself, hother⟩ := endAssay_plain c s fun a ha => (hassay a ha).1
  have hnext : ((endAssay c s).lanes.spares.get c).nextAssay = (s.lanes.spares.get c).nextAssay := by
    rw [hself]
    split <;> rfl
  have hrot : ((endAssay c s).lanes.spares.get c).rotations = if (s.lanes.spares.get c).assay.isSome ∧ (s.lanes.spares.get c).position = 7
      then (s.lanes.spares.get c).rotations + 1 else (s.lanes.spares.get c).rotations := by
    rw [hself]
    split <;> rfl
  have hpos : (endAssay c s).replacedPos c = none := (congrArg (fun v : NvSt => v.replaced.get c) (hended .nv rfl)).trans hreplaced
  have hnow : (endAssay c s).now = s.now := hended.now rfl
  have htaps : (endAssay c s).taps = s.taps := hended .taps rfl
  obtain ⟨p, hp⟩ : ∃ p, (s.lanes.spares.get c).nextAssay = p := ⟨_, rfl⟩
  have hbegun : s.stepBegun (endAssay c s) c = (loadSpare c p (endAssay c s)).setSpare c fun x =>
      { x with nextAssay := (p + 1) % 8, assay := some { start := s.now, testing := s.nothingToCompare (c * 8 + p) } } := by
    unfold State.stepBegun
    simp only [hpos, hnext, hp]
  obtain ⟨hload, hchain, hlanes, hrest⟩ := loadSpare_facts c p (endAssay c s)
  rw [hbegun] at hrun
  rw [hp]
  refine ⟨_, hrun, (State.setSpare_only _ _ _).andThen rfl ((loadSpare_only _ _ _).andThen rfl (hended.mono rfl)), ?_⟩
  rw [State.setSpare_self, hload]
  refine ⟨rfl, rfl, hnow, ?_, rfl, hrot, ?_, fun e he => ⟨?_, ?_⟩⟩
  · exact hchain.trans (congrArg (fun x : TapSt => x.lanes.get (c * 8 + p)) htaps)
  · exact hlanes.trans (congrArg TapSt.lanes htaps)
  · rw [State.setSpare_of_ne _ _ _ he, (hrest e he).1, hother e he]
  · exact (hrest e he).2.trans (congrArg (fun x : TapSt => x.spares.get e) htaps)

theorem assayStep_restores {s : State} {c p : Nat} (hup : s.spareUp c = true) (hcover : (s.lanes.spares.get c).cover = none)
    (hreplaced : s.replacedPos c = some p) (hn : s.now % 10000000 = 0) (hassay : (s.lanes.spares.get c).assay = none)
    (hasked : (s.lanes.spares.get c).restoreAsked = true) :
    ∃ t, exec (.assayStep c) s = .next t ∧ Only [.lanes] s t
      ∧ t.lanes.spares.get c = { s.lanes.spares.get c with position := p, restoreAsked := false, assay := some { start := s.now, restore := true } }
      ∧ ∀ e, e ≠ c → t.lanes.spares.get e = s.lanes.spares.get e := by
  have hrun := execAssayStep_run hup hcover hn fun a ha => by rw [hassay] at ha; cases ha
  have hended : endAssay c s = s := by
    unfold endAssay
    simp only [hassay]
  have hbegun : s.stepBegun s c = s.setSpare c fun x => { x with position := p, restoreAsked := false, assay := some { start := s.now, restore := true } } := by
    unfold State.stepBegun
    simp only [hreplaced, hasked, if_true]
  rw [hended, hbegun] at hrun
  exact ⟨_, hrun, State.setSpare_only _ _ _, State.setSpare_self _ _ _, fun e he => State.setSpare_of_ne _ _ _ he⟩

theorem assayStateCopy_compares {s : State} {c : Nat} {a : AssaySt} (hup : s.spareUp c = true) (hassay : (s.lanes.spares.get c).assay = some a)
    (hcomparing : a.comparing = false) (htesting : a.testing = false) (hdiff : a.firstDiff = none) (hat : a.start + 400000 ≤ s.now)
    (hn : s.now % 200000 = 0) :
    ∃ t, exec (.assayStateCopy c) s = .next t ∧ Only [.lanes] s t ∧ t.lanes.spares.get c = { s.lanes.spares.get c with assay := some { a with comparing := true, copied := true } }
      ∧ ∀ e, e ≠ c → t.lanes.spares.get e = s.lanes.spares.get e := by
  have hrun : exec (.assayStateCopy c) s = .next (s.setSpare c fun x => { x with assay := some { a with comparing := true, copied := true } }) := by
    simp only [exec, execAssayStateCopy, hassay]
    exact onlyIf_of_true (by simp [hup, hcomparing, htesting, hdiff, hat, countsPerBlock, hn])
  exact ⟨_, hrun, State.setSpare_only _ _ _, State.setSpare_self _ _ _, fun e he => State.setSpare_of_ne _ _ _ he⟩

theorem firstDifferingValue_tests {s : State} {c output : Nat} {a : AssaySt} (hup : s.spareUp c = true)
    (hassay : (s.lanes.spares.get c).assay = some a) (hcomparing : a.comparing = true) :
    ∃ t, exec (.firstDifferingValue c output) s = .next t ∧ Only [.lanes] s t
      ∧ t.lanes.spares.get c = { s.lanes.spares.get c with assay := some { a with comparing := false, testing := true, firstDiff := some (s.now, output) } }
      ∧ ∀ e, e ≠ c → t.lanes.spares.get e = s.lanes.spares.get e := by
  have hrun : exec (.firstDifferingValue c output) s
      = .next (s.setSpare c fun x => { x with assay := some { a with comparing := false, testing := true, firstDiff := some (s.now, output) } }) := by
    simp only [exec, execFirstDifferingValue, hassay]
    exact onlyIf_of_true (by simp [hup, hcomparing])
  exact ⟨_, hrun, State.setSpare_only _ _ _, State.setSpare_self _ _ _, fun e he => State.setSpare_of_ne _ _ _ he⟩

/-- A restored lane whose step was not clean: the step is gone and LANE_RESTORED says so (R165). -/
theorem endRestore_unclean {l : Nat} {as : List Aspect} {s u : State} (h : Only as s u) (he : as.contains .events = false) (ht : as.contains .systime = false)
    (hlanes : as.contains .lanes = true) :
    ((endRestore l false u).lanes.spares.get (laneCluster l)).assay = none ∧ Raises s (endRestore l false u) .laneRestored (laneDie l) [.w l, .w 1, .q 0] := by
  let v := u.setSpare (laneCluster l) fun x => { x with assay := none, restoreAsked := false }
  have hdef : endRestore l false u = completeWait (fun x => decide (x = .restore (laneRef l))) .ok 1 (raise .laneRestored (laneDie l) [.w l, .w 1, .q 0] v) := rfl
  have hv : Only as s v := (State.setSpare_only _ _ _).andThen (by simpa using hlanes) h
  rw [hdef, completeWait_lanes, raise_only _ _ _ _ .lanes rfl]
  exact ⟨congrArg SpareSt.assay (State.setSpare_self _ _ _), (Raises.raise hv he ht _ _ _).andThen (completeWait_only _ _ _ _) rfl⟩

/-- What the end of the spare's 2 ms test leads to in `u`, where it is noted as ended: `diff` is the difference that called for it, if one did (R161, R162, R165). -/
def State.katJudged (s u : State) (c l : Nat) (fails restore : Bool) (diff : Option (Nat × Nat)) : State :=
  match diff with
  | some (at_, output) =>
    if restore then endRestore l false u
    else if fails then chargeSpare c at_ u else chargeLane l at_ output u
  | none => if fails then chargeSpare c s.now u else u

/-- The instant at which the test ends. -/
def AssaySt.katDue (a : AssaySt) : Nat :=
  match a.firstDiff with
  | some d => d.1 + 200000
  | none => a.start + 600000

theorem execAssayKatEnd_run {s : State} {c : Nat} {fails : Bool} {a : AssaySt} (hup : s.spareUp c = true) (hassay : (s.lanes.spares.get c).assay = some a)
    (htesting : a.testing = true) (hdue : a.katDue ≤ s.now) :
    exec (.assayKatEnd c fails) s = .next (s.katJudged
      (s.setSpare c fun x => { x with assay := some { a with testing := false } }) c (c * 8 + (s.lanes.spares.get c).position) fails a.restore a.firstDiff) := by
  simp only [exec, execAssayKatEnd, hassay]
  refine onlyIf_of_true ?_
  rw [hup, htesting]
  exact decide_eq_true hdue

theorem assayKatEnd_charges {s : State} {c : Nat} {fails : Bool} {a : AssaySt} (hup : s.spareUp c = true)
    (hpos : (s.lanes.spares.get c).position < 8) (hassay : (s.lanes.spares.get c).assay = some a) (htesting : a.testing = true) :
    (a.firstDiff = none → a.start + 600000 ≤ s.now →
      ∃ t, exec (.assayKatEnd c fails) s = .next t
        ∧ (fails = false → Only [.lanes] s t ∧ t.lanes.spares.get c = { s.lanes.spares.get c with assay := some { a with testing := false } })
        ∧ (fails = true → Raises s t .spareCharged (clusterDie c) [.w (clusterDie c), .w (c % 4 : Nat), .q s.now]))
    ∧ (∀ at_ output, a.firstDiff = some (at_, output) → at_ + 200000 ≤ s.now →
      ∃ t, exec (.assayKatEnd c fails) s = .next t
        ∧ (a.restore = true → (t.lanes.spares.get c).assay = none
            ∧ Raises s t .laneRestored (laneDie (c * 8 + (s.lanes.spares.get c).position)) [.w (c * 8 + (s.lanes.spares.get c).position), .w 1, .q 0])
        ∧ (a.restore = false → fails = true → Raises s t .spareCharged (clusterDie c) [.w (clusterDie c), .w (c % 4 : Nat), .q at_])
        ∧ (a.restore = false → fails = false →
            Raises s t .laneAssayMismatch (laneDie (c * 8 + (s.lanes.spares.get c).position)) [.w (c * 8 + (s.lanes.spares.get c).position), .q at_, .w output])) := by
  let u := s.setSpare c fun x => { x with assay := some { a with testing := false } }
  have hu : Only [.lanes] s u := State.setSpare_only _ _ _
  have hcluster : laneCluster (c * 8 + (s.lanes.spares.get c).position) = c := by unfold laneCluster; omega
  have hrun : a.katDue ≤ s.now → exec (.assayKatEnd c fails) s
      = .next (s.katJudged u c (c * 8 + (s.lanes.spares.get c).position) fails a.restore a.firstDiff) := execAssayKatEnd_run hup hassay htesting
  refine ⟨fun hdiff hat => ?_, fun at_ output hdiff hat => ?_⟩
  · have hdue : a.katDue ≤ s.now := by simpa only [AssaySt.katDue, hdiff] using hat
    have hjudged := hrun hdue
    rw [hdiff] at hjudged
    refine ⟨_, hjudged, ?_, ?_⟩
    · rintro rfl
      exact ⟨hu, State.setSpare_self _ _ _⟩
    · rintro rfl
      exact chargeSpare_raises c s.now hu rfl rfl
  · have hdue : a.katDue ≤ s.now := by simpa only [AssaySt.katDue, hdiff] using hat
    have hjudged := hrun hdue
    rw [hdiff] at hjudged
    refine ⟨_, hjudged, fun hr => ?_, fun hr hf => ?_, fun hr hf => ?_⟩
    · rw [hr]
      obtain ⟨hgone, hraise⟩ := endRestore_unclean (l := c * 8 + (s.lanes.spares.get c).position) hu rfl rfl rfl
      rw [hcluster] at hgone
      exact ⟨hgone, hraise⟩
    · rw [hr, hf]
      exact chargeSpare_raises c at_ hu rfl rfl
    · rw [hr, hf]
      exact chargeLane_raises _ at_ output hu rfl rfl

/-! ### Cover -/

theorem beginCover_kept (x : SpareSt) (pos n : Nat) (hold : Bool) : (x.beginCover pos hold n).position = x.position := rfl

theorem coverStart_takes {s : State} {c pos : Nat} (hup : s.spareUp c = true) (hp : pos < 8) (hhold : s.holdCover c = false)
    (hcover : (s.lanes.spares.get c).cover = none) (htaken : (s.lanes.spares.get c).coverTaken = false)
    (hbetween : (s.lanes.spares.get c).betweenRotations s.now = true) (hn : s.now % 200000 = 0)
    (hassay : ∀ a, (s.lanes.spares.get c).assay = some a → a.start + 10000000 + (s.laneTune (c * 8 + pos)).laneSpan ≤ s.now)
    (hidle : (s.lanes.spares.get c).assay = none → (s.lanes.spares.get c).rotStart + (s.laneTune (c * 8 + pos)).laneSpan ≤ s.now) :
    ∃ t, exec (.coverStart c pos) s = .next t ∧ Only [.spans, .taps, .lanes, .link, .integ, .mode, .mb, .sec, .nv, .retirement, .modeCode] s t
      ∧ (t.lanes.spares.get c).position = pos ∧ (t.lanes.spares.get c).assay = none ∧ (t.lanes.spares.get c).coverTaken = true
      ∧ (t.lanes.spares.get c).cover = some ⟨pos, false, s.now⟩ ∧ (t.lanes.spares.get c).lastCoverStart = some s.now
      ∧ ((∀ a, (s.lanes.spares.get c).assay = some a → a.restore = false) → t.taps.spares.get c = s.taps.lanes.get (c * 8 + pos)) := by
  have hspan : (match (s.lanes.spares.get c).assay with
      | some a => a.start + 10000000
      | none => (s.lanes.spares.get c).rotStart) + (s.laneTune (c * 8 + pos)).laneSpan ≤ s.now := by
    cases h : (s.lanes.spares.get c).assay with
    | none => exact hidle h
    | some a => exact hassay a h
  have hrun : exec (.coverStart c pos) s = .next ((loadSpare c pos (endAssay c s)).setSpare c fun x =>
      { (x.beginCover pos false s.now) with assay := none, coverTaken := true, lastCoverStart := some s.now, cover := some ⟨pos, false, s.now⟩ }) := by
    refine onlyIf_of_true ?_
    rw [hup, decide_eq_true hp, hhold, hcover, htaken, hbetween, decide_eq_true (show s.now % countsPerBlock = 0 from hn)]
    exact decide_eq_true hspan
  obtain ⟨hload, hchain, -, -⟩ := loadSpare_facts c pos (endAssay c s)
  refine ⟨_, hrun, (execCoverStart_frames c pos s).onlyOf hrun, ?_⟩
  rw [State.setSpare_self, beginCover_kept, hload]
  exact ⟨rfl, rfl, rfl, rfl, rfl, fun hplain => hchain.trans (congrArg (fun x : TapSt => x.lanes.get (c * 8 + pos)) ((endAssay_plain c s hplain).1 .taps rfl))⟩

/-- The lane of a cover window has its station back (R164). -/
def State.coverReturned (s : State) (c pos : Nat) : State :=
  let t : State := { s with taps := { s.taps with tones := s.taps.tones.set (c * 8 + pos) {} } }
  (t.setSpare c fun x => { (x.endCover pos s.now) with cover := none, rotStart := s.now }).setDemod (c * 8 + pos) fun d => { d with lastCoverTick := tick32 s.now }

/-- A level step on the lane that a cover window delivers is under way. -/
def State.coverBusy (s : State) (l : Nat) : Bool :=
  (List.range s.dies).any fun n => match s.cal.steps.get n with
    | some st => st.lane == l && decide (st.phase ≠ .return_)
    | none => false

theorem coverBusy_false {s : State} {l : Nat} (h : ∀ n st, n < s.dies → s.cal.steps.get n = some st → st.lane = l → st.phase = .return_) : s.coverBusy l = false := by
  refine List.any_eq_false.mpr fun n hn => ?_
  cases hst : s.cal.steps.get n with
  | none => exact Bool.false_ne_true
  | some st =>
    by_cases hl : st.lane = l
    · simp [h n st (List.mem_range.mp hn) hst hl]
    · simp [hl]

theorem coverEnd_returns {s : State} {c : Nat} {v : CoverSt} (hc : c < s.dies * 4) (hruns : s.dieRuns (clusterDie c) = true)
    (hcover : (s.lanes.spares.get c).cover = some v) (hn : s.now % 200000 = 0) (hafter : v.start < s.now) (hbefore : s.now < v.start + 30000000)
    (hstation : s.stationRuns (c * 8 + v.pos) = true)
    (hreturn : ∀ n st, n < s.dies → s.cal.steps.get n = some st → st.lane = c * 8 + v.pos → st.phase = .return_) :
    ∃ t, exec (.coverEnd c) s = .next t ∧ Only [.taps, .lanes] s t ∧ t.lanes.spares.get c = { (s.lanes.spares.get c).endCover v.pos s.now with cover := none, rotStart := s.now }
      ∧ (t.lanes.demods.get (c * 8 + v.pos)).lastCoverTick = tick32 s.now ∧ (∀ l, l ≠ c * 8 + v.pos → t.lanes.demods.get l = s.lanes.demods.get l)
      ∧ t.taps.tones = s.taps.tones.set (c * 8 + v.pos) {} ∧ t.taps.lanes = s.taps.lanes := by
  have hlate : decide (v.start + 30000000 ≤ s.now) = false := decide_eq_false (Nat.not_le.mpr hbefore)
  have hrun : exec (.coverEnd c) s = .next (s.coverReturned c v.pos) := by
    simp only [exec, execCoverEnd, hcover, hlate]
    refine onlyIf_of_true ?_
    rw [decide_eq_true hc, hruns, decide_eq_true (show s.now % countsPerBlock = 0 from hn), hstation, decide_eq_true hafter]
    exact congrArg (fun b => (!b && true && true)) (coverBusy_false hreturn)
  refine ⟨_, hrun, (State.setDemod_only _ _ _).andThen rfl ((State.setSpare_only _ _ _).andThen rfl (Only.ofMk rfl (Only.refl _ s))), State.setSpare_self _ _ _, ?_,
    fun l hl => State.setDemod_of_ne _ _ _ hl, rfl, rfl⟩
  exact congrArg Demod.lastCoverTick (State.setDemod_self _ _ _)

theorem coverEnd_last {s : State} {c : Nat} {v : CoverSt} (hc : c < s.dies * 4) (hruns : s.dieRuns (clusterDie c) = true)
    (hcover : (s.lanes.spares.get c).cover = some v) (hn : s.now % 200000 = 0) (hlate : v.start + 30000000 ≤ s.now) :
    ∃ t, exec (.coverEnd c) s = .next t ∧ Only [.front, .taps, .lanes, .link, .cal, .integ, .mb, .sec] s t ∧ (t.lanes.spares.get c).cover = none
      ∧ (t.lanes.demods.get (c * 8 + v.pos)).lastCoverTick = tick32 s.now := by
  have hrun : exec (.coverEnd c) s = .next ((endStepsOfCluster c s).coverReturned c v.pos) := by
    simp only [exec, execCoverEnd, hcover, decide_eq_true hlate]
    refine onlyIf_of_true ?_
    rw [decide_eq_true hc, hruns, decide_eq_true (show s.now % countsPerBlock = 0 from hn)]
    rfl
  refine ⟨_, hrun, (execCoverEnd_frames c s).onlyOf hrun, congrArg SpareSt.cover (State.setSpare_self _ _ _),
    (congrArg Demod.lastCoverTick (State.setDemod_self _ _ _)).trans (congrArg tick32 ((endStepsOfCluster_only c s).now rfl))⟩

/-- Settles O26: each step of the rotation and each edge of a cover window through what it sets in the spare and in the chains. -/
theorem spareLaneAssay : Obligations.SpareLaneAssay :=
  ⟨fun _ _ => assayStep_advances, fun _ _ _ => assayStep_restores, fun _ _ _ => assayStateCopy_compares, fun _ _ _ _ => firstDifferingValue_tests,
    fun _ _ _ _ => assayKatEnd_charges, fun _ _ _ => coverStart_takes, fun _ _ _ => coverEnd_returns, fun _ _ _ => coverEnd_last⟩

end Sys2Proof.Machine
end

section
/-!
PROOFS. The demodulators of lanes and watch taps: restarts, the combiner, the pilot, RDS and AMSS (05 R137 to R157).
-/
namespace Sys2Proof.Machine

/-! ### Restarts -/

theorem demodRestart_lane {s : State} {l at_ : Nat} (hl : l < s.dies * 32) (hdie : s.dieRuns (laneDie l) = true)
    (hvalid : (s.taps.lanes.get l).firstValid at_ = true ∨ ((s.lanes.demods.get l).restartAt = none ∧ (s.taps.lanes.get l).validAt at_ = true)) :
    ∃ t, exec (.demodRestart (.lane l) at_) s = .next t ∧ Only [.lanes] s t
      ∧ (∀ k, s.cfg.active.combinerOf l = some k → k ≠ l → t.lanes.demods.get k = (s.lanes.demods.get k).restart at_)
      ∧ ((∀ k, s.cfg.active.combinerOf l = some k → k ≠ l) → t.lanes.demods.get l = (s.lanes.demods.get l).restart at_)
      ∧ ∀ i, i ≠ l → s.cfg.active.combinerOf l ≠ some i → t.lanes.demods.get i = s.lanes.demods.get i := by
  have hgo : (decide (l < s.dies * 32) && s.dieRuns (laneDie l)
      && ((s.taps.lanes.get l).firstValid at_ || (s.lanes.demods.get l).restartAt.isNone && (s.taps.lanes.get l).validAt at_)) = true := by
    rcases hvalid with h | ⟨h, hv⟩
    · simp [hl, hdie, h]
    · simp [hl, hdie, h, hv]
  have hself := s.setDemod_only l fun d => d.restart at_
  cases hk : s.cfg.active.combinerOf l with
  | none =>
    have hrun : exec (.demodRestart (.lane l) at_) s = .next (s.setDemod l fun d => d.restart at_) := by
      simp only [exec, execDemodRestart, hk]
      exact onlyIf_of_true hgo
    refine ⟨_, hrun, hself, fun k h => by simp at h, fun _ => State.setDemod_self _ _ _, fun i hi _ => State.setDemod_of_ne _ _ _ hi⟩
  | some k =>
    have hrun : exec (.demodRestart (.lane l) at_) s = .next ((s.setDemod l fun d => d.restart at_).setDemod k fun d => d.restart at_) := by
      simp only [exec, execDemodRestart, hk]
      exact onlyIf_of_true hgo
    refine ⟨_, hrun, hself.trans (State.setDemod_only _ _ _), ?_, ?_, ?_⟩
    · rintro k' ⟨rfl⟩ hne
      rw [State.setDemod_self, State.setDemod_of_ne _ _ _ hne]
    · intro hne
      rw [State.setDemod_of_ne _ _ _ (hne k rfl).symm, State.setDemod_self]
    · intro i hi hik
      rw [State.setDemod_of_ne _ _ _ (fun h => hik (congrArg some h.symm)), State.setDemod_of_ne _ _ _ hi]

theorem demodRestart_watch {s : State} {w at_ : Nat} (hw : w < s.dies * 64) (hdie : s.dieRuns (watchDie w) = true)
    (hvalid : (s.taps.watches.get w).firstValid at_ = true ∨ ((s.lanes.watches.get w).restartAt = none ∧ (s.taps.watches.get w).validAt at_ = true)) :
    ∃ t, exec (.demodRestart (.watch w) at_) s = .next t ∧ Only [.lanes, .link, .integ, .mode, .domains, .sec] s t
      ∧ (t.lanes.watches.get w).rds.fields = {} ∧ (∀ x ∈ (t.lanes.watches.get w).rds.streams, x.synced = false) ∧ (t.lanes.watches.get w).restartAt = some at_
      ∧ ∀ i, i ≠ w → t.lanes.watches.get i = s.lanes.watches.get i := by
  have hgo : (decide (w < s.dies * 64) && s.dieRuns (watchDie w)
      && ((s.taps.watches.get w).firstValid at_ || (s.lanes.watches.get w).restartAt.isNone && (s.taps.watches.get w).validAt at_)) = true := by
    rcases hvalid with h | ⟨h, hv⟩
    · simp [hw, hdie, h]
    · simp [hw, hdie, h, hv]
  have hrun := (execDemodRestart_frames (.watch w) at_ s).onlyOf (onlyIf_of_true hgo)
  have hlanes : ∀ u : State, (setAlert (.ta w) false (setAlert (.pty31 w) false u)).lanes = u.lanes := fun u =>
    ((setAlert_only (.pty31 w) false u).trans (setAlert_only (.ta w) false _)) .lanes rfl
  refine ⟨_, onlyIf_of_true hgo, hrun.mono rfl, ?_⟩
  rw [hlanes, State.setWatch_self]
  exact ⟨rfl, by simp [RdsStream.restart], rfl, fun i hi => State.setWatch_of_ne _ _ _ hi⟩

/-! ### The combiner, the pilot, stereo -/

/-- The weights after a run, with the free values that R147 leaves counted. -/
def State.weighed (s : State) (ws : List (Int × Int)) (n : Nat) : Option (List (Int × Int)) → List (Int × Int) × State
  | some new => (new, s)
  | none => ((drawWeights n s).1 ++ ws.drop n, (drawWeights n s).2)

theorem execCombinerUpdate_run {s : State} {l : Nat} {air : Air} (hl : l < s.dies * 32) (hdie : s.dieRuns (laneDie l) = true)
    (hactive : (s.taps.lanes.get l).active = true) (hbranches : 0 < (s.cfg.active.lanes.get l).branchCount)
    (hstarted : (s.lanes.demods.get l).restartAt.isSome = true) (hlive : ∀ n ∈ s.runPoints l, s.combinedDead l n = false)
    (hnew : ∀ w, ((s.lanes.demods.get l).runs.head?) = some w → w.1 ≠ s.runNow l) :
    exec (.combinerUpdate l air) s = .next
      (let r := s.weighed (s.lanes.demods.get l).weights (s.branchRun air l).length (newWeights (s.lanes.demods.get l).weights (s.branchRun air l) (s.noiseOf l))
       r.2.setDemod l fun d => { d with weights := r.1, runs := (s.runNow l, r.1) :: d.runs }) := by
  have hall : (s.runPoints l).all (fun n => !s.combinedDead l n) = true := by simpa using hlive
  have hhead : ((s.lanes.demods.get l).runs.head?.map (·.1) == some (s.runNow l)) = false := by
    cases h : (s.lanes.demods.get l).runs.head? with
    | none => rfl
    | some w => simpa using hnew w h
  have hrun := onlyIf_of_true (c := decide (l < s.dies * 32) && s.dieRuns (laneDie l) && (s.taps.lanes.get l).active
    && decide (0 < (s.cfg.active.lanes.get l).branchCount) && (s.lanes.demods.get l).restartAt.isSome
    && (s.runPoints l).all (fun n => !s.combinedDead l n) && !((s.lanes.demods.get l).runs.head?.map (·.1) == some (s.runNow l))) (s := s)
    (t := let r := s.weighed (s.lanes.demods.get l).weights (s.branchRun air l).length (newWeights (s.lanes.demods.get l).weights (s.branchRun air l) (s.noiseOf l))
      r.2.setDemod l fun d => { d with weights := r.1, runs := (s.runNow l, r.1) :: d.runs })
    (by rw [hall, hhead]; simp [hl, hdie, hactive, hbranches, hstarted])
  refine Eq.trans ?_ hrun
  simp only [exec, execCombinerUpdate]
  cases newWeights (s.lanes.demods.get l).weights (s.branchRun air l) (s.noiseOf l) <;> rfl

theorem combinerUpdate_weighs {s : State} {l : Nat} {air : Air} (hl : l < s.dies * 32) (hdie : s.dieRuns (laneDie l) = true)
    (hactive : (s.taps.lanes.get l).active = true) (hbranches : 0 < (s.cfg.active.lanes.get l).branchCount)
    (hstarted : (s.lanes.demods.get l).restartAt.isSome = true) (hlive : ∀ n ∈ s.runPoints l, s.combinedDead l n = false)
    (hnew : ∀ w, ((s.lanes.demods.get l).runs.head?) = some w → w.1 ≠ s.runNow l) :
    ∃ t, exec (.combinerUpdate l air) s = .next t ∧ Only [.lanes, .freeCount] s t
      ∧ (∀ ws, newWeights (s.lanes.demods.get l).weights (s.branchRun air l) (s.noiseOf l) = some ws →
          t.lanes.demods.get l = { s.lanes.demods.get l with weights := ws, runs := (s.runNow l, ws) :: (s.lanes.demods.get l).runs } ∧ t.freeCount = s.freeCount)
      ∧ (newWeights (s.lanes.demods.get l).weights (s.branchRun air l) (s.noiseOf l) = none →
          (t.lanes.demods.get l).weights.drop (s.branchRun air l).length = (s.lanes.demods.get l).weights.drop (s.branchRun air l).length
          ∧ t.freeCount = s.freeCount + 2 * (s.branchRun air l).length)
      ∧ ∀ i, i ≠ l → t.lanes.demods.get i = s.lanes.demods.get i := by
  have hrun := execCombinerUpdate_run (air := air) hl hdie hactive hbranches hstarted hlive hnew
  have honly := (execCombinerUpdate_frames l air s).onlyOf hrun
  obtain ⟨hlength, hcount⟩ := drawWeights_spec (s.branchRun air l).length s
  have hdrawn : (drawWeights (s.branchRun air l).length s).2.lanes = s.lanes := drawWeights_only _ s .lanes rfl
  cases hw : newWeights (s.lanes.demods.get l).weights (s.branchRun air l) (s.noiseOf l) with
  | some ws =>
    rw [hw] at hrun honly
    exact ⟨_, hrun, honly.mono rfl, by rintro _ ⟨rfl⟩; exact ⟨State.setDemod_self _ _ _, rfl⟩, fun h => by simp at h, fun i hi => State.setDemod_of_ne _ _ _ hi⟩
  | none =>
    rw [hw] at hrun honly
    refine ⟨_, hrun, honly.mono rfl, fun _ h => by simp at h, fun _ => ⟨?_, hcount⟩, fun i hi => ?_⟩
    · rw [State.setDemod_self]
      exact List.drop_left' hlength
    · rw [State.setDemod_of_ne _ _ _ hi]
      exact congrArg (fun v : LaneSt => v.demods.get i) hdrawn

theorem pilotLockChange_locks {s : State} {l : Nat} {air : Air} (hl : l < s.dies * 32) (hdie : s.dieRuns (laneDie l) = true)
    (hactive : (s.taps.lanes.get l).active = true) (hfm : (s.cfg.active.lanes.get l).mode.fm = true)
    (hstarted : (s.lanes.demods.get l).restartAt.isSome = true) :
    ∃ t, exec (.pilotLockChange l air) s = .next t ∧ Only [.lanes, .link, .integ, .sec] s t
      ∧ t.lanes.demods.get l = { s.lanes.demods.get l with pilot := s.pilotInLock air l }
      ∧ ((s.lanes.demods.get l).pilot = false → s.pilotInLock air l = true → Raises s t .pilotLocked (laneDie l) [.w l])
      ∧ ((s.lanes.demods.get l).pilot = true → s.pilotInLock air l = false → Raises s t .pilotLost (laneDie l) [.w l])
      ∧ ∀ i, i ≠ l → t.lanes.demods.get i = s.lanes.demods.get i := by
  by_cases hsame : s.pilotInLock air l = (s.lanes.demods.get l).pilot
  · have hrun : exec (.pilotLockChange l air) s = .next s := onlyIf_of_false (by simp [hsame])
    refine ⟨s, hrun, Only.refl _ s, by rw [hsame], fun h k => ?_, fun h k => ?_, fun _ _ => rfl⟩
    · exact absurd (hsame.symm.trans k) (by simp [h])
    · exact absurd (hsame.symm.trans k) (by simp [h])
  · have hgo : (decide (l < s.dies * 32) && s.dieRuns (laneDie l) && (s.taps.lanes.get l).active && (s.cfg.active.lanes.get l).mode.fm
        && (s.lanes.demods.get l).restartAt.isSome && (s.pilotInLock air l != (s.lanes.demods.get l).pilot)) = true := by
      simp [hl, hdie, hactive, hfm, hstarted, hsame]
    have honly := s.setDemod_only l fun d => { d with pilot := s.pilotInLock air l }
    have hlanes := raise_only (if s.pilotInLock air l then EvName.pilotLocked else .pilotLost) (laneDie l) [.w l]
      (s.setDemod l fun d => { d with pilot := s.pilotInLock air l }) .lanes rfl
    have hraise := Raises.raise honly rfl rfl (if s.pilotInLock air l then EvName.pilotLocked else .pilotLost) (laneDie l) [.w l]
    refine ⟨_, onlyIf_of_true hgo, ((execPilotLockChange_frames l air s).onlyOf (onlyIf_of_true hgo)).mono rfl, ?_, fun _ hin => ?_, fun _ hin => ?_, fun i hi => ?_⟩
    · rw [hlanes, State.setDemod_self]
    · simpa only [hin, if_true] using hraise
    · simpa only [hin, Bool.false_eq_true, if_false] using hraise
    · rw [hlanes, State.setDemod_of_ne _ _ _ hi]

theorem stereoSwitch_follows {s : State} {l : Nat} (hl : l < s.dies * 32) (hdie : s.dieRuns (laneDie l) = true) (hactive : (s.taps.lanes.get l).active = true)
    (hm : (s.cfg.active.lanes.get l).mode = .fmStereo) (hn : s.now % 200000 = 0)
    (hpilot : (s.lanes.demods.get l).stereo ≠ (s.lanes.demods.get l).pilot) :
    ∃ t, exec (.stereoSwitch l) s = .next t ∧ Only [.lanes] s t
      ∧ t.lanes.demods.get l = { s.lanes.demods.get l with
          stereo := (s.lanes.demods.get l).pilot, stereoAll := (s.lanes.demods.get l).stereoAll && (s.lanes.demods.get l).pilot
          stereoLog := (s.now, (s.lanes.demods.get l).pilot) :: (s.lanes.demods.get l).stereoLog.take 63 }
      ∧ ∀ i, i ≠ l → t.lanes.demods.get i = s.lanes.demods.get i :=
  ⟨_, onlyIf_of_true (by rw [hm]; simp [hl, hdie, hactive, hn, hpilot, countsPerBlock]), State.setDemod_only _ _ _, State.setDemod_self _ _ _, fun _ hi => State.setDemod_of_ne _ _ _ hi⟩

/-! ### RDS -/

theorem rdsBlock_takes {s : State} {r : Rx} {stream k : Nat} {air : Air} (hruns : s.rdsRuns r stream = true) (hdie : s.dieRuns r.die = true)
    (hstarted : (s.rxRestart r).isSome = true) :
    (((s.rdsOf r).streams.getD stream {}).synced = false →
      exec (.rdsBlock r stream air k) s = .next (unsyncedPosition r stream (s.rdsSought air r stream k) k ((s.rdsBits air r stream k).2).toNat s))
    ∧ (((s.rdsOf r).streams.getD stream {}).synced = true → k = ((s.rdsOf r).streams.getD stream {}).bit →
      exec (.rdsBlock r stream air k) s = .next (syncedPosition r stream (s.rdsAt air r stream (s.rdsCorrect r) k) false k ((s.rdsBits air r stream k).2).toNat s))
    ∧ (((s.rdsOf r).streams.getD stream {}).synced = true → k = ((s.rdsOf r).streams.getD stream {}).bit + 1 ∨ k + 1 = ((s.rdsOf r).streams.getD stream {}).bit →
      exec (.rdsBlock r stream air k) s = .next (if (s.rdsAt air r stream 0 k).flag = 0 ∧ (s.rdsAt air r stream (s.rdsCorrect r) ((s.rdsOf r).streams.getD stream {}).bit).flag = 3
        then syncedPosition r stream (s.rdsAt air r stream (s.rdsCorrect r) k) true k ((s.rdsBits air r stream k).2).toNat s else s)) := by
  obtain ⟨b, hb⟩ : ∃ b, ((s.rdsOf r).streams.getD stream {}).bit = b := ⟨_, rfl⟩
  refine ⟨fun hs => ?_, fun hs hk => ?_, fun hs hk => ?_⟩
  · refine (onlyIf_of_true ?_).trans (congrArg Host.Outcome.next (if_neg (by rw [hs]; exact Bool.false_ne_true)))
    simp only [hruns, hdie, hstarted, hs, Bool.not_false, Bool.true_or, Bool.and_self]
  · refine ((onlyIf_of_true ?_).trans (congrArg Host.Outcome.next (if_pos hs))).trans ?_
    · simp only [hruns, hdie, hstarted, hk, ne_eq, not_true, decide_false, Bool.not_false, Bool.true_or, Bool.or_true, Bool.and_self]
    · simp only [hk, ne_eq, not_true, decide_false]
  · rw [hb] at hk ⊢
    have hslip : decide (k ≠ b) = true := decide_eq_true (by omega)
    by_cases hgood : (s.rdsAt air r stream 0 k).flag = 0 ∧ (s.rdsAt air r stream (s.rdsCorrect r) b).flag = 3
    · rw [if_pos hgood]
      refine ((onlyIf_of_true ?_).trans (congrArg Host.Outcome.next (if_pos hs))).trans ?_
      · simp only [hruns, hdie, hstarted, hb, hk, hgood, decide_true, Bool.and_self, Bool.or_true]
      · rw [hb, hslip]
    · rw [if_neg hgood]
      refine onlyIf_of_false ?_
      have : (decide ((s.rdsAt air r stream 0 k).flag = 0) && decide ((s.rdsAt air r stream (s.rdsCorrect r) b).flag = 3)) = false := by
        rw [← Bool.decide_and]
        exact decide_eq_false hgood
      rw [hb, hslip, hs, Bool.and_assoc (decide (k = b + 1 ∨ k + 1 = b)), this]
      simp

theorem getD_setStream_of_lt {q : RdsSt} {i : Nat} (h : i < q.streams.length) (f : RdsStream → RdsStream) : (q.setStream i f).streams.getD i {} = f (q.streams.getD i {}) := by
  rw [RdsSt.getD_setStream, if_pos h]

theorem length_setStream (q : RdsSt) (i : Nat) (f : RdsStream → RdsStream) : (q.setStream i f).streams.length = q.streams.length := List.length_set

theorem countPosition_rds (r : Rx) (stream flag : Nat) (s : State) : (countPosition r stream flag s).rdsOf r = s.rdsOf r := by
  cases r with
  | lane l =>
    unfold countPosition State.rdsOf
    dsimp only
    split
    · rw [State.setDemod_self]
    · rfl
  | watch w => rfl

theorem takeAfB_streams (r : Rx) (most : Nat) (g : List RdsPos) (s : State) : ((takeAfB r most g s).rdsOf r).streams = (s.rdsOf r).streams := by
  unfold takeAfB
  split
  · split
    · rw [State.rdsOf_setRds]
    · rfl
  · rfl

theorem hearPi_streams (r : Rx) (most : Nat) (g : List RdsPos) (old : RdsFields) (s : State) : ((hearPi r most g old s).rdsOf r).streams = (s.rdsOf r).streams := by
  unfold hearPi
  dsimp only
  split
  · split
    · rw [rdsOf_congr (followsHear_only _ _ _ _ _ _ _ _ _ .lanes rfl) r, State.rdsOf_setRds]
    · rfl
  · rfl

theorem takeFields_streams (r : Rx) (g : List RdsPos) (s : State) : ((takeFields r g s).rdsOf r).streams = (s.rdsOf r).streams := by
  unfold takeFields
  dsimp only
  rw [hearPi_streams, takeAfB_streams]
  split
  · rw [State.rdsOf_setRds]
  · rw [rdsOf_congr (fieldEvents_only _ _ _ _ .lanes rfl) r, State.rdsOf_setRds]
    rfl

/-- A position of a synchronised stream counted, and its fields taken. -/
def positionTaken (r : Rx) (i : Nat) (p : RdsPos) (slip : Bool) (k firstBit : Nat) (s : State) : State :=
  let x := (s.rdsOf r).streams.getD i {}
  let u := countPosition r i p.flag (s.setRds r fun q => q.setStream i fun y =>
    { y with group := x.group ++ [p], firstBit := if x.group.isEmpty then firstBit else x.firstBit, last50 := (decide (p.flag = 3) :: x.last50).take 50
             slips := y.slips + b2n slip, bit := k + 26 })
  if i = 0 then takeFields r (x.group ++ [p]) u else u

/-- The group record that the fourth position of a group forms. -/
def groupFormed (r : Rx) (i : Nat) (g : List RdsPos) (firstBit : Nat) (u : State) : State :=
  if g.length < 4 then u else
    u.setRds r fun q =>
      (q.push (firstBit + blockCounts19 / 19) (groupRecord i (u.rdsNrsc r) (q.streams.getD i {}) g)).setStream i fun x =>
        { x with group := [], seq := x.seq + 1, slips := 0, total := x.total + 1, good := if g.all (fun p => decide (p.flag ≤ 1)) then x.good + 1 else x.good }

theorem syncedPosition_eq (r : Rx) (i : Nat) (p : RdsPos) (slip : Bool) (k firstBit : Nat) (s : State) :
    syncedPosition r i p slip k firstBit s =
      (let u := groupFormed r i (((s.rdsOf r).streams.getD i {}).group ++ [p]) firstBit (positionTaken r i p slip k firstBit s)
       if 20 ≤ (((decide (p.flag = 3) :: ((s.rdsOf r).streams.getD i {}).last50).take 50).filter id).length then
         raise .rdsSyncLost r.die [.w r.kind, .w r.index, .w i]
           (u.setRds r fun q => q.setStream i fun x => { x with synced := false, prev := none, group := [], last50 := [] })
       else u) := rfl

theorem positionTaken_streams (r : Rx) (i : Nat) (p : RdsPos) (slip : Bool) (k firstBit : Nat) (s : State) :
    ((positionTaken r i p slip k firstBit s).rdsOf r).streams.length = (s.rdsOf r).streams.length
      ∧ (i < (s.rdsOf r).streams.length →
          (((positionTaken r i p slip k firstBit s).rdsOf r).streams.getD i {}).synced = ((s.rdsOf r).streams.getD i {}).synced) := by
  have htaken : ∀ (u : State) g, ((if i = 0 then takeFields r g u else u).rdsOf r).streams = (u.rdsOf r).streams := by
    intro u g
    split
    · exact takeFields_streams r g u
    · rfl
  unfold positionTaken
  dsimp only
  rw [htaken, countPosition_rds, State.rdsOf_setRds]
  exact ⟨length_setStream _ _ _, fun h => by rw [getD_setStream_of_lt h]⟩

theorem groupFormed_streams (r : Rx) (i : Nat) (g : List RdsPos) (firstBit : Nat) (u : State) :
    ((groupFormed r i g firstBit u).rdsOf r).streams.length = (u.rdsOf r).streams.length
      ∧ (i < (u.rdsOf r).streams.length → (((groupFormed r i g firstBit u).rdsOf r).streams.getD i {}).synced = ((u.rdsOf r).streams.getD i {}).synced) := by
  unfold groupFormed
  split
  · exact ⟨rfl, fun _ => rfl⟩
  · rw [State.rdsOf_setRds]
    refine ⟨length_setStream _ _ _, fun h => ?_⟩
    rw [getD_setStream_of_lt (q := RdsSt.push _ _ _) h]
    rfl

theorem groupFormed_only (r : Rx) (i : Nat) (g : List RdsPos) (firstBit : Nat) (u : State) : Only [.lanes] u (groupFormed r i g firstBit u) :=
  Only.ite (Only.refl _ u) (State.setRds_only _ _ _)

theorem positionTaken_only (r : Rx) (i : Nat) (p : RdsPos) (slip : Bool) (k firstBit : Nat) (s : State) :
    Only [.lanes, .audio, .link, .integ, .mode, .domains, .sec] s (positionTaken r i p slip k firstBit s) := by
  have hset := (s.setRds_only r (fun q : RdsSt => q.setStream i fun y =>
    { y with group := ((s.rdsOf r).streams.getD i {}).group ++ [p], firstBit := if ((s.rdsOf r).streams.getD i {}).group.isEmpty then firstBit else ((s.rdsOf r).streams.getD i {}).firstBit
             last50 := (decide (p.flag = 3) :: ((s.rdsOf r).streams.getD i {}).last50).take 50, slips := y.slips + b2n slip, bit := k + 26 })).trans (countPosition_only r i p.flag _)
  exact Only.ite ((hset.mono rfl).trans (takeFields_only _ _ _)) (hset.mono rfl)

theorem syncedPosition_keeps {s : State} {r : Rx} {i k firstBit : Nat} {slip : Bool} {p : RdsPos} (hi : i < (s.rdsOf r).streams.length)
    (hfew : (((decide (p.flag = 3) :: ((s.rdsOf r).streams.getD i {}).last50).take 50).filter id).length < 20) :
    (((syncedPosition r i p slip k firstBit s).rdsOf r).streams.getD i {}).synced = ((s.rdsOf r).streams.getD i {}).synced := by
  obtain ⟨hlength, hsynced⟩ := positionTaken_streams r i p slip k firstBit s
  rw [syncedPosition_eq, if_neg (Nat.not_le_of_lt hfew), (groupFormed_streams r i _ firstBit _).2 (hlength ▸ hi), hsynced hi]

theorem syncedPosition_loses {s : State} {r : Rx} {i k firstBit : Nat} {slip : Bool} {p : RdsPos} (hi : i < (s.rdsOf r).streams.length) :
    Only [.lanes, .audio, .link, .integ, .mode, .domains, .sec] s (syncedPosition r i p slip k firstBit s)
    ∧ (p.flag = 3 → 20 ≤ (((true :: ((s.rdsOf r).streams.getD i {}).last50).take 50).filter id).length →
        (((syncedPosition r i p slip k firstBit s).rdsOf r).streams.getD i {}).synced = false
        ∧ Raises s (syncedPosition r i p slip k firstBit s) .rdsSyncLost r.die [.w r.kind, .w r.index, .w i]) := by
  refine ⟨syncedPosition_only r i p slip k firstBit s, fun hp hlost => ?_⟩
  have hmany : 20 ≤ (((decide (p.flag = 3) :: ((s.rdsOf r).streams.getD i {}).last50).take 50).filter id).length := by rw [decide_eq_true hp]; exact hlost
  have hform := groupFormed_streams r i (((s.rdsOf r).streams.getD i {}).group ++ [p]) firstBit (positionTaken r i p slip k firstBit s)
  have hlength := hform.1.trans (positionTaken_streams r i p slip k firstBit s).1
  have honly := (positionTaken_only r i p slip k firstBit s).trans ((groupFormed_only r i (((s.rdsOf r).streams.getD i {}).group ++ [p]) firstBit _).mono rfl)
  rw [syncedPosition_eq, if_pos hmany]
  refine ⟨?_, Raises.raise (honly.trans ((State.setRds_only _ _ _).mono rfl)) rfl rfl _ _ _⟩
  rw [rdsOf_congr (raise_only _ _ _ _ .lanes rfl) r, State.rdsOf_setRds, getD_setStream_of_lt (by rw [hlength]; exact hi)]

/-- A stream that acquires synchronisation on the block from bit `k`. -/
def syncGained (r : Rx) (i : Nat) (p : RdsPos) (firstBit : Nat) (s : State) : State :=
  let pos := acquiredPos p.offset
  s.setRds r fun q => q.setStream i fun x =>
    { x with synced := true, prev := none, last50 := [], slips := 0, validAt := some (x.validAt.getD s.now)
             group := (List.replicate (pos - 1) noBlock) ++ (if pos = 0 then [] else x.prev.toList)
             firstBit := firstBit - pos * blockCounts19 / 19 }

theorem unsyncedPosition_gains {s : State} {r : Rx} {i k firstBit : Nat} {p : RdsPos} (hi : i < (s.rdsOf r).streams.length) (hp : p.flag = 0) :
    Only [.lanes, .audio, .link, .integ, .mode, .domains, .sec] s (unsyncedPosition r i p k firstBit s)
    ∧ (((s.rdsOf r).streams.getD i {}).prev = none →
        (unsyncedPosition r i p k firstBit s).link = s.link ∧ ((unsyncedPosition r i p k firstBit s).rdsOf r).streams.getD i {} = { (s.rdsOf r).streams.getD i {} with prev := some p, bit := k + 26 })
    ∧ (∀ a, ((s.rdsOf r).streams.getD i {}).prev = some a → k = ((s.rdsOf r).streams.getD i {}).bit → offsetOrder (s.rdsNrsc r) a.offset p.offset = true →
        Raises s (unsyncedPosition r i p k firstBit s) .rdsSyncGained r.die [.w r.kind, .w r.index, .w i]
        ∧ (((unsyncedPosition r i p k firstBit s).rdsOf r).streams.getD i {}).synced = true) := by
  refine ⟨unsyncedPosition_only r i p k firstBit s, fun hprev => ?_, fun a hprev hk horder => ?_⟩
  · have hrun : unsyncedPosition r i p k firstBit s = s.setRds r fun q => q.setStream i fun x => { x with prev := some p, bit := k + 26 } := by
      simp only [unsyncedPosition, hprev, Bool.and_false, Bool.false_eq_true, if_false, hp, if_true]
    rw [hrun, State.rdsOf_setRds, getD_setStream_of_lt hi]
    exact ⟨s.setRds_only r _ .link rfl, rfl⟩
  · have hrun : unsyncedPosition r i p k firstBit s
        = syncedPosition r i p false k firstBit (raise .rdsSyncGained r.die [.w r.kind, .w r.index, .w i] (syncGained r i p firstBit s)) := by
      simp only [unsyncedPosition, hprev, hp, ← hk, decide_true, Bool.true_and, horder, if_true]
      rfl
    have hset : Only [.lanes] s (syncGained r i p firstBit s) := State.setRds_only _ _ _
    have hraised : (raise .rdsSyncGained r.die [.w r.kind, .w r.index, .w i] (syncGained r i p firstBit s)).rdsOf r = (syncGained r i p firstBit s).rdsOf r :=
      rdsOf_congr (raise_only _ _ _ _ .lanes rfl) r
    have hgained : ((syncGained r i p firstBit s).rdsOf r).streams.length = (s.rdsOf r).streams.length
        ∧ (((syncGained r i p firstBit s).rdsOf r).streams.getD i {}).synced = true ∧ (((syncGained r i p firstBit s).rdsOf r).streams.getD i {}).last50 = [] := by
      unfold syncGained
      dsimp only
      rw [State.rdsOf_setRds, getD_setStream_of_lt hi]
      exact ⟨length_setStream _ _ _, rfl, rfl⟩
    obtain ⟨hlength, hsynced, hlast⟩ := hgained
    rw [hrun]
    refine ⟨Raises.andThen (syncedPosition_only _ _ _ _ _ _ _) rfl (Raises.raise hset rfl rfl _ _ _), ?_⟩
    rw [syncedPosition_keeps (by rw [hraised, hlength]; exact hi) (by rw [hraised, hlast, hp]; decide), hraised]
    exact hsynced

/-! ### AMSS -/

/-- The service identifier in force once a block has given `sid` with check `check`. -/
def Demod.amssIdent (d : Demod) (check : Nat) (sid : Option Nat) : Option Nat :=
  match sid with
  | some v => if decide (check ≠ 3) then some (v % 2 ^ 24) else if d.amssSidValid then some d.amssSid else none
  | none => if d.amssSidValid then some d.amssSid else none

/-- The record of an AMSS block. -/
def amssRecord (block check firstBit : Nat) (id : Option Nat) : List Byte :=
  le 1 3 ++ zeros 1 ++ le 2 24 ++ le 8 firstBit ++ le 6 (block % 2 ^ 47) ++ le 1 (check % 4) ++ zeros 1 ++ le 4 (id.getD 0 + if id.isSome then 2 ^ 31 else 0)

/-- A lane's demodulator with one AMSS block more. -/
def Demod.amssTaken (d : Demod) (block check firstBit lastBit : Nat) (id : Option Nat) : Demod :=
  { d with
    amssSync := Config.amssSynced (check :: d.amssChecks), amssChecks := check :: d.amssChecks, amssSid := id.getD 0, amssSidValid := id.isSome
    amssTotal := d.amssTotal + 1, amssGood := d.amssGood + b2n (decide (check ≠ 3))
    rds := if Config.amssSynced (check :: d.amssChecks) then d.rds.push lastBit (amssRecord block check firstBit id) else d.rds }

/-- What the follow sets hear of the identifier that a block gives without uncorrectable errors. -/
def amssHeard (l check : Nat) (sid : Option Nat) (freq : Nat) (u : State) : State :=
  match sid with
  | some v => if decide (check ≠ 3) then followsHear (some l) none false freq 0 ⟨4, v % 2 ^ 24⟩ none true (u.setDemod l fun x => { x with amssAt := u.now }) else u
  | none => u

/-- The note of a changed identifier. -/
def amssNoted (d : Demod) (l : Nat) (id : Option Nat) (u : State) : State :=
  if (match id with | some v => d.amssSidValid && v != d.amssSid | none => false) then note { kind := 1, index := l, at_ := u.now, tag := .idChange } u else u

theorem execAmssBlock_run {s : State} {l k : Nat} {air : Air} (hl : l < s.dies * 32) (hdie : s.dieRuns (laneDie l) = true)
    (hactive : (s.taps.lanes.get l).active = true) (ham : (s.cfg.active.lanes.get l).mode.am = true)
    (hon : (s.cfg.active.lanes.get l).amssOn = true) (hstarted : (s.lanes.demods.get l).restartAt.isSome = true) :
    ∃ lastBit firstBit, exec (.amssBlock l air k) s = .next
      (let id := (s.lanes.demods.get l).amssIdent (s.amssAt air l k).2.1 (s.amssAt air l k).2.2
       amssNoted (s.lanes.demods.get l) l id (amssHeard l (s.amssAt air l k).2.1 (s.amssAt air l k).2.2 (s.cfg.active.lanes.get l).fLane
         (s.setDemod l fun d => d.amssTaken (s.amssAt air l k).1 (s.amssAt air l k).2.1 firstBit lastBit id))) := by
  have hgo : (decide (l < s.dies * 32) && s.dieRuns (laneDie l) && (s.taps.lanes.get l).active && (s.cfg.active.lanes.get l).mode.am
      && (s.cfg.active.lanes.get l).amssOn && (s.lanes.demods.get l).restartAt.isSome) = true := by
    simp [hl, hdie, hactive, ham, hon, hstarted]
  exact ⟨((s.amssBits air l (k + 46)).2).toNat, ((s.amssBits air l k).2).toNat, onlyIf_of_true hgo⟩

theorem amssHeard_demods (l check : Nat) (sid : Option Nat) (freq : Nat) (u : State) :
    (amssHeard l check sid freq u).lanes.demods.get l =
        { u.lanes.demods.get l with amssAt := if sid.isSome ∧ check ≠ 3 then u.now else (u.lanes.demods.get l).amssAt }
      ∧ ∀ i, i ≠ l → (amssHeard l check sid freq u).lanes.demods.get i = u.lanes.demods.get i := by
  cases sid with
  | none => exact ⟨rfl, fun _ _ => rfl⟩
  | some v =>
    by_cases hc : check = 3
    · subst hc
      exact ⟨rfl, fun _ _ => rfl⟩
    · have hlanes : (amssHeard l check (some v) freq u).lanes = (u.setDemod l fun x => { x with amssAt := u.now }).lanes := by
        simp only [amssHeard, ne_eq, hc, not_false_eq_true, decide_true, if_true]
        exact followsHear_only _ _ _ _ _ _ _ _ _ .lanes rfl
      rw [hlanes, State.setDemod_self]
      exact ⟨by simp [hc], fun i hi => State.setDemod_of_ne _ _ _ hi⟩

theorem amssBlock_counts {s : State} {l k : Nat} {air : Air} (hl : l < s.dies * 32) (hdie : s.dieRuns (laneDie l) = true)
    (hactive : (s.taps.lanes.get l).active = true) (ham : (s.cfg.active.lanes.get l).mode.am = true)
    (hon : (s.cfg.active.lanes.get l).amssOn = true) (hstarted : (s.lanes.demods.get l).restartAt.isSome = true) :
    ∃ t, exec (.amssBlock l air k) s = .next t ∧ Only [.lanes, .audio, .link, .integ, .sec] s t
      ∧ (t.lanes.demods.get l).amssSync = Config.amssSynced ((s.amssAt air l k).2.1 :: (s.lanes.demods.get l).amssChecks)
      ∧ (t.lanes.demods.get l).amssTotal = (s.lanes.demods.get l).amssTotal + 1
      ∧ (t.lanes.demods.get l).amssGood = (s.lanes.demods.get l).amssGood + (if (s.amssAt air l k).2.1 = 3 then 0 else 1)
      ∧ (t.lanes.demods.get l).rds.records.length = (s.lanes.demods.get l).rds.records.length + b2n (Config.amssSynced ((s.amssAt air l k).2.1 :: (s.lanes.demods.get l).amssChecks))
      ∧ (∀ v, (s.amssAt air l k).2.2 = some v → (s.amssAt air l k).2.1 ≠ 3 →
          (t.lanes.demods.get l).amssSid = v % 2 ^ 24 ∧ (t.lanes.demods.get l).amssSidValid = true ∧ (t.lanes.demods.get l).amssAt = s.now)
      ∧ (((s.amssAt air l k).2.2 = none ∨ (s.amssAt air l k).2.1 = 3) → (t.lanes.demods.get l).amssSidValid = (s.lanes.demods.get l).amssSidValid)
      ∧ ∀ i, i ≠ l → t.lanes.demods.get i = s.lanes.demods.get i := by
  obtain ⟨lastBit, firstBit, hrun⟩ := execAmssBlock_run (air := air) (k := k) hl hdie hactive ham hon hstarted
  have honly := (execAmssBlock_frames l air k s).onlyOf hrun
  obtain ⟨block, hblock⟩ : ∃ b, (s.amssAt air l k).1 = b := ⟨_, rfl⟩
  obtain ⟨check, hcheck⟩ : ∃ c, (s.amssAt air l k).2.1 = c := ⟨_, rfl⟩
  obtain ⟨sid, hsid⟩ : ∃ v, (s.amssAt air l k).2.2 = v := ⟨_, rfl⟩
  rw [hblock, hcheck, hsid] at hrun honly
  rw [hcheck, hsid]
  have hnoted : ∀ id u, (amssNoted (s.lanes.demods.get l) l id u).lanes = u.lanes := fun id u =>
    Only.ite (note_only _ u) (Only.refl _ u) .lanes rfl
  obtain ⟨hself, hother⟩ := amssHeard_demods l check sid (s.cfg.active.lanes.get l).fLane
    (s.setDemod l fun d => d.amssTaken block check firstBit lastBit ((s.lanes.demods.get l).amssIdent check sid))
  refine ⟨_, hrun, honly.mono rfl, ?_⟩
  dsimp only
  rw [hnoted, hself, State.setDemod_self]
  refine ⟨rfl, rfl, ?_, ?_, ?_, ?_, fun i hi => (hother i hi).trans (State.setDemod_of_ne _ _ _ hi)⟩
  · by_cases hc : check = 3 <;> simp [Demod.amssTaken, hc, b2n]
  · by_cases hs : Config.amssSynced (check :: (s.lanes.demods.get l).amssChecks) = true <;> simp [Demod.amssTaken, hs, b2n, RdsSt.push]
  · rintro v rfl hc
    simp [Demod.amssTaken, Demod.amssIdent, hc]
    rfl
  · rintro (rfl | rfl)
    · cases hv : (s.lanes.demods.get l).amssSidValid <;> simp [Demod.amssTaken, Demod.amssIdent, hv]
    · cases hv : (s.lanes.demods.get l).amssSidValid <;> cases sid <;> simp [Demod.amssTaken, Demod.amssIdent, hv]

/-- Settles O27: each clause by the rule of its demodulator stage above. -/
theorem demodulators : Obligations.Demodulators :=
  ⟨fun _ _ _ => demodRestart_lane, fun _ _ _ => demodRestart_watch, fun _ _ _ => combinerUpdate_weighs, fun _ _ _ => pilotLockChange_locks, fun _ _ => stereoSwitch_follows,
    fun _ _ _ _ _ => rdsBlock_takes, fun _ _ _ _ _ _ => unsyncedPosition_gains, fun _ _ _ _ _ _ _ => syncedPosition_loses, fun _ _ _ _ => amssBlock_counts⟩
end Sys2Proof.Machine
end

section
/-!
PROOFS. The records of lanes and watch taps (05 R142, R149 to R151, R157 to R160, 14 R375).
-/
namespace Sys2Proof.Machine

/-! ### A lane's measurement period -/

/-- A lane's demodulator at the end of a measurement period. -/
def Demod.periodEnded (d : Demod) (fm : Bool) (m : LaneMeas) (record : List Byte) (now : Nat) (offset : Int) : Demod :=
  { d.endPeriod with
    lastRecord := record, measuredTo := now
    carrierLock := (match m with
      | .am x => x.carrierLock
      | .fm _ => false)
    offsets := if fm then (now, offset) :: d.offsets.take 4095 else d.offsets }

/-- The MPX power that a measurement gives, judged. -/
def powerJudged (l : Nat) (m : LaneMeas) (t : State) : State :=
  match m with
  | .fm x => mpxPower l x.mpxPower60s t
  | .am _ => t

theorem mpxPower_demods (l : Nat) (v : Option Int) (u : State) :
    (∃ armed, (mpxPower l v u).lanes.demods.get l = { u.lanes.demods.get l with powerArmed := armed })
      ∧ ∀ i, i ≠ l → (mpxPower l v u).lanes.demods.get i = u.lanes.demods.get i := by
  unfold mpxPower
  cases v with
  | none => exact ⟨⟨_, rfl⟩, fun _ _ => rfl⟩
  | some p =>
    dsimp only
    split
    · rw [raise_only _ _ _ _ .lanes rfl]
      exact ⟨⟨false, State.setDemod_self _ _ _⟩, fun i hi => State.setDemod_of_ne _ _ _ hi⟩
    · split
      · exact ⟨⟨true, State.setDemod_self _ _ _⟩, fun i hi => State.setDemod_of_ne _ _ _ hi⟩
      · exact ⟨⟨_, rfl⟩, fun _ _ => rfl⟩

theorem mpxPower_raises {s u : State} {l : Nat} {p : Int} (h : Only [.lanes] s u) (hp : 0 < p) (harmed : (u.lanes.demods.get l).powerArmed = true) :
    Raises s (mpxPower l (some p) u) .mpxPowerOver (laneDie l) [.w l, .w p] := by
  have hover : mpxPower l (some p) u = raise .mpxPowerOver (laneDie l) [.w l, .w p] (u.setDemod l fun d => { d with powerArmed := false }) :=
    if_pos (by rw [harmed, decide_eq_true hp]; rfl)
  rw [hover]
  exact Raises.raise (h.trans (State.setDemod_only _ _ _)) rfl rfl _ _ _

theorem powerJudged_demods (l : Nat) (m : LaneMeas) (u : State) :
    (∃ armed, (powerJudged l m u).lanes.demods.get l = { u.lanes.demods.get l with powerArmed := armed })
      ∧ ∀ i, i ≠ l → (powerJudged l m u).lanes.demods.get i = u.lanes.demods.get i := by
  cases m with
  | fm x => exact mpxPower_demods l x.mpxPower60s u
  | am x => exact ⟨⟨_, rfl⟩, fun _ _ => rfl⟩

/-- The record that a lane's period delivers: under HOLD cover the last one again. -/
def State.periodRecord (s : State) (air : Air) (l t0 : Nat) : List Byte :=
  if s.heldIn l t0 s.now && !(s.lanes.demods.get l).lastRecord.isEmpty then (s.lanes.demods.get l).lastRecord else (s.laneMeasured air l t0 s.now).bytes s l t0

theorem State.periodRecord_eq (s : State) (air : Air) (l t0 : Nat) : s.periodRecord air l t0 =
    if s.heldIn l t0 s.now = true ∧ (s.lanes.demods.get l).lastRecord ≠ [] then (s.lanes.demods.get l).lastRecord else (s.laneMeasured air l t0 s.now).bytes s l t0 := by
  simp only [State.periodRecord, Bool.and_eq_true, Bool.not_eq_true', List.isEmpty_eq_false_iff, ne_eq]

/-- A lane whose period has ended. -/
def State.periodEnded (s : State) (air : Air) (l t0 : Nat) : State :=
  s.setDemod l fun d => d.periodEnded (s.cfg.active.lanes.get l).mode.fm (s.laneMeasured air l t0 s.now) (s.periodRecord air l t0) s.now (s.periodOffset air l t0 s.now)

theorem execMeasurementPeriodEnd_run {s : State} {l : Nat} {air : Air} {late : Bool} (hl : l < s.dies * 32)
    (hactive : (s.taps.lanes.get l).active = true) (hdead : s.laneDead l = false) (hup : s.dieUp (laneDie l) = true)
    (hm : (s.cfg.active.lanes.get l).mode.fm = true ∨ (s.cfg.active.lanes.get l).mode.am = true)
    (hn : s.now % measCounts (s.cfg.active.lanes.get l).measPeriod = 0) (hto : (s.lanes.demods.get l).measuredTo < s.now) :
    ∃ sel b x, exec (.measurementPeriodEnd l air late) s = .next
      (let t0 := s.now - measCounts (s.cfg.active.lanes.get l).measPeriod
       formRouted .measurement sel b (note x (powerJudged l (s.laneMeasured air l t0 s.now) (s.periodEnded air l t0)))) := by
  obtain ⟨t0, ht0⟩ : ∃ t0, s.now - measCounts (s.cfg.active.lanes.get l).measPeriod = t0 := ⟨_, rfl⟩
  have hgo : (decide (l < s.dies * 32) && (s.taps.lanes.get l).active && ((s.cfg.active.lanes.get l).mode.fm || (s.cfg.active.lanes.get l).mode.am)
      && !s.laneDead l && s.dieUp (laneDie l) && decide (s.now % measCounts (s.cfg.active.lanes.get l).measPeriod = 0)
      && decide ((s.lanes.demods.get l).measuredTo < s.now)) = true := by
    rw [decide_eq_true hn]
    rcases hm with h | h <;> simp [hl, hactive, hdead, hup, hto, h]
  simp only [exec, execMeasurementPeriodEnd, ht0]
  exact ⟨_, _, _, onlyIf_of_true hgo⟩

theorem measurementPeriodEnd_records {s : State} {l : Nat} {air : Air} {late : Bool} (hl : l < s.dies * 32)
    (hactive : (s.taps.lanes.get l).active = true) (hdead : s.laneDead l = false) (hup : s.dieUp (laneDie l) = true)
    (hm : (s.cfg.active.lanes.get l).mode.fm = true ∨ (s.cfg.active.lanes.get l).mode.am = true)
    (hn : s.now % measCounts (s.cfg.active.lanes.get l).measPeriod = 0) (hto : (s.lanes.demods.get l).measuredTo < s.now) :
    ∃ t, exec (.measurementPeriodEnd l air late) s = .next t ∧ Only [.lanes, .link, .integ, .sec] s t
      ∧ (t.lanes.demods.get l).lastRecord =
          (if s.heldIn l (s.now - measCounts (s.cfg.active.lanes.get l).measPeriod) s.now = true ∧ (s.lanes.demods.get l).lastRecord ≠ [] then (s.lanes.demods.get l).lastRecord
           else (s.laneMeasured air l (s.now - measCounts (s.cfg.active.lanes.get l).measPeriod) s.now).bytes s l (s.now - measCounts (s.cfg.active.lanes.get l).measPeriod))
      ∧ (t.lanes.demods.get l).measuredTo = s.now ∧ (t.lanes.demods.get l).amssGood = 0 ∧ (t.lanes.demods.get l).amssTotal = 0
      ∧ (∀ x ∈ (t.lanes.demods.get l).rds.streams, x.good = 0 ∧ x.total = 0)
      ∧ ((s.cfg.active.lanes.get l).mode.fm = true → (t.lanes.demods.get l).offsets =
          (s.now, s.periodOffset air l (s.now - measCounts (s.cfg.active.lanes.get l).measPeriod) s.now) :: (s.lanes.demods.get l).offsets.take 4095)
      ∧ ((s.cfg.active.lanes.get l).mode.fm = true → (s.lanes.demods.get l).powerArmed = true →
          ∀ p, (s.fmMeasured air l (s.now - measCounts (s.cfg.active.lanes.get l).measPeriod) s.now).mpxPower60s = some p → 0 < p → Raises s t .mpxPowerOver (laneDie l) [.w l, .w p])
      ∧ ((s.cfg.active.lanes.get l).mode.fm = false →
          (t.lanes.demods.get l).carrierLock = (s.amMeasured air l (s.now - measCounts (s.cfg.active.lanes.get l).measPeriod) s.now).carrierLock)
      ∧ ∀ i, i ≠ l → t.lanes.demods.get i = s.lanes.demods.get i := by
  obtain ⟨sel, b, x, hrun⟩ := execMeasurementPeriodEnd_run (air := air) (late := late) hl hactive hdead hup hm hn hto
  have honly := (execMeasurementPeriodEnd_frames l air late s).onlyOf hrun
  obtain ⟨t0, ht0⟩ : ∃ t0, s.now - measCounts (s.cfg.active.lanes.get l).measPeriod = t0 := ⟨_, rfl⟩
  rw [ht0] at hrun honly ⊢
  have hdelivered : ∀ u : State, Only [.link, .sec] u (formRouted .measurement sel b (note x u)) := fun u => ((note_only x u).mono rfl).trans ((formRouted_only _ _ _ _).mono rfl)
  obtain ⟨⟨armed, hself⟩, hother⟩ := powerJudged_demods l (s.laneMeasured air l t0 s.now) (s.periodEnded air l t0)
  refine ⟨_, hrun, honly.mono rfl, ?_⟩
  dsimp only
  rw [hdelivered _ .lanes rfl, hself, State.periodEnded, State.setDemod_self, ← State.periodRecord_eq]
  refine ⟨rfl, rfl, rfl, rfl, ?_, fun hfm => ?_, fun hfm harmed p hpower hp => ?_, fun hfm => ?_, fun i hi => (hother i hi).trans (State.setDemod_of_ne _ _ _ hi)⟩
  · simp [Demod.periodEnded, Demod.endPeriod]
  · simp only [Demod.periodEnded, hfm, if_true]
  · have hmeas : s.laneMeasured air l t0 s.now = .fm (s.fmMeasured air l t0 s.now) := if_pos hfm
    refine Raises.andThen (hdelivered _) rfl ?_
    rw [hmeas, powerJudged, hpower]
    exact mpxPower_raises (State.setDemod_only _ _ _) hp (by rw [State.setDemod_self]; exact harmed)
  · have hmeas : s.laneMeasured air l t0 s.now = .am (s.amMeasured air l t0 s.now) := if_neg (by rw [hfm]; exact Bool.false_ne_true)
    simp only [Demod.periodEnded, hmeas]

/-! ### Side data -/

theorem sideDataSpanEnd_delivers {s : State} {r : Rx} {air : Air} (hside : s.hasSideData r = true) (hup : s.dieUp r.die = true)
    (hn : s.now % 10000000 = 0) (hto : (s.rdsOf r).spanTo < s.now) :
    ∃ t, exec (.sideDataSpanEnd r air) s = .next t ∧ Only [.lanes, .link, .sec] s t
      ∧ t.rdsOf r = { s.rdsOf r with
          spanTo := s.now, records := (s.rdsOf r).records.filter fun y => decide (s.now ≤ y.1), fields := { (s.rdsOf r).fields with changed := 0 } } := by
  have hgo : (s.hasSideData r && s.dieUp r.die && decide (s.now % 10000000 = 0) && decide ((s.rdsOf r).spanTo < s.now)) = true := by
    rw [decide_eq_true hn]
    simp [hside, hup, hto]
  refine ⟨_, onlyIf_of_true hgo, ((execSideDataSpanEnd_frames r air s).onlyOf (onlyIf_of_true hgo)).mono rfl, ?_⟩
  rw [rdsOf_congr (formRecordBlocks_only _ _ _ _ _ _ .lanes rfl) r, rdsOf_congr (sideNote_only _ _ _ _ .lanes rfl) r, State.rdsOf_setRds]

/-! ### Watch taps -/

theorem formWatchRecord_watches (w t0 t1 : Nat) (air : Air) (preempted late : Bool) (s : State) :
    (formWatchRecord w t0 t1 air preempted late s).lanes.watches.get w = { s.lanes.watches.get w with
        measuredTo := t1, rds := { (s.lanes.watches.get w).rds with streams := (s.lanes.watches.get w).rds.streams.map fun y => { y with good := 0, total := 0 } } }
      ∧ ∀ i, i ≠ w → (formWatchRecord w t0 t1 air preempted late s).lanes.watches.get i = s.lanes.watches.get i := by
  unfold formWatchRecord
  dsimp only
  rw [formRouted_only _ _ _ _ .lanes rfl]
  exact ⟨State.setWatch_self _ _ _, fun i hi => State.setWatch_of_ne _ _ _ hi⟩

theorem watchPeriodEnd_records {s : State} {w : Nat} {air : Air} {late : Bool} (hruns : s.watchRuns w = true)
    (hm : (s.cfg.active.watches.get w).mode = .level ∨ (s.cfg.active.watches.get w).mode = .fm)
    (hn : s.now % watchCounts (s.cfg.active.watches.get w).period = 0) (hto : (s.lanes.watches.get w).measuredTo < s.now) :
    ∃ t, exec (.watchTapPeriodEnd w air late) s = .next t ∧ Only [.lanes, .audio, .link] s t ∧ (∀ x ∈ (t.lanes.watches.get w).rds.streams, x.good = 0 ∧ x.total = 0)
      ∧ (t.lanes.watches.get w).measuredTo = s.now ∧ (t.lanes.watches.get w).freq = (s.lanes.watches.get w).freq ∧ ∀ i, i ≠ w → t.lanes.watches.get i = s.lanes.watches.get i := by
  have hgo : (s.watchRuns w && (decide ((s.cfg.active.watches.get w).mode = .level) || decide ((s.cfg.active.watches.get w).mode = .fm))
      && decide (s.now % watchCounts (s.cfg.active.watches.get w).period = 0) && decide ((s.lanes.watches.get w).measuredTo < s.now)) = true := by
    rw [decide_eq_true hn]
    rcases hm with h | h <;> simp [hruns, hto, h]
  refine ⟨_, onlyIf_of_true hgo, ((execWatchTapPeriodEnd_frames w air late s).onlyOf (onlyIf_of_true hgo)).mono rfl, ?_⟩
  obtain ⟨hself, hother⟩ := formWatchRecord_watches w (s.now - watchCounts (s.cfg.active.watches.get w).period) s.now air false late s
  rw [followTapMeasured_only _ _ _ _ _ .lanes rfl, hself]
  exact ⟨by simp, rfl, rfl, hother⟩

theorem surveyDwellEnd_retunes {s : State} {w : Nat} {air : Air} {late : Bool} (hruns : s.watchRuns w = true)
    (hm : (s.cfg.active.watches.get w).mode = .survey) (hdie : s.dieRuns (watchDie w) = true) (hn : s.now % 1000000 = 0)
    (hdwell : (s.lanes.watches.get w).dwellStart + (s.cfg.active.watches.get w).dwell * 1000000 ≤ s.now) :
    ∃ t, exec (.surveyDwellEnd w air late) s = .next t ∧ Only [.taps, .lanes, .link] s t
      ∧ (t.lanes.watches.get w).listIndex = (if (s.cfg.active.watches.get w).freqs.length ≤ (s.lanes.watches.get w).listIndex + 1 then 0 else (s.lanes.watches.get w).listIndex + 1)
      ∧ (t.lanes.watches.get w).freq = (s.cfg.active.watches.get w).freqs.getD (t.lanes.watches.get w).listIndex (s.lanes.watches.get w).freq
      ∧ (t.lanes.watches.get w).preempted = false ∧ (t.lanes.watches.get w).dwellStart = s.now ∧ (t.lanes.watches.get w).restartAt = none
      ∧ ∀ i, i ≠ w → t.lanes.watches.get i = s.lanes.watches.get i := by
  have hgo : (s.watchRuns w && decide ((s.cfg.active.watches.get w).mode = .survey) && s.dieRuns (watchDie w) && decide (s.now % 1000000 = 0)
      && decide ((s.lanes.watches.get w).dwellStart + (s.cfg.active.watches.get w).dwell * 1000000 ≤ s.now)) = true := by
    rw [decide_eq_true hn, decide_eq_true hdwell]
    simp [hruns, hm, hdie]
  obtain ⟨hself, hother⟩ := formWatchRecord_watches w (s.lanes.watches.get w).dwellStart s.now air (s.lanes.watches.get w).preempted late s
  have hlanes : ∀ (f : Nat) (u : State), (retuneWatch w f u).lanes = (u.setWatch w fun x => { x with freq := f, restartAt := none }).lanes :=
    fun f u => goOnWatch_only w _ .lanes rfl
  refine ⟨_, onlyIf_of_true hgo, ((execSurveyDwellEnd_frames w air late s).onlyOf (onlyIf_of_true hgo)).mono rfl, ?_⟩
  rw [hlanes, State.setWatch_self, State.setWatch_self, hself]
  exact ⟨rfl, rfl, rfl, rfl, rfl, fun i hi => (State.setWatch_of_ne _ _ _ hi).trans ((State.setWatch_of_ne _ _ _ hi).trans (hother i hi))⟩

theorem watchTapKat_retires {s : State} {w : Nat} (hruns : s.watchRuns w = true) (hdie : s.dieRuns (watchDie w) = true) :
    (∃ t, exec (.watchTapKat w true true) s = .next t ∧ Only [.spans, .link, .integ, .mode, .sec, .nv, .modeCode] s t ∧ t.retired (watchRef w) = true
      ∧ Raises s t .unitRetired (watchRef w).die [.w (watchRef w).kind.type, .w (watchRef w).die, .w (watchRef w).loc, .w 0])
    ∧ ∀ b, exec (.watchTapKat w false b) s = .next s ∧ exec (.watchTapKat w b false) s = .next s := by
  refine ⟨⟨_, onlyIf_of_true (by simp [hruns, hdie]), retirePlain_only _ _ _, retirePlain_retired _ _ _, retirePlain_raises _ _ (Only.refl _ s)⟩, fun b => ⟨?_, ?_⟩⟩
  · exact onlyIf_of_false (by simp)
  · exact onlyIf_of_false (by simp)

/-- Settles O28: each record by the rule of its period's end above. -/
theorem laneRecords : Obligations.LaneRecords :=
  ⟨fun _ _ _ _ => measurementPeriodEnd_records, fun _ _ _ => sideDataSpanEnd_delivers, fun _ _ _ _ => watchPeriodEnd_records, fun _ _ _ _ => surveyDwellEnd_retunes, fun _ _ => watchTapKat_retires⟩

end Sys2Proof.Machine
end

section
/-!
PROOFS. The 2 ms blocks of streams, PCM rings and PDM inputs (02 R42, R67, 03 R97, 04 R129, 09 R266, 10 R308).
-/
namespace Sys2Proof.Machine

/-! ### Streams -/

theorem formBlock_ne (r : Nat) (b : BlockIn) (s : State) {i : Nat} (hi : i ≠ r) : (formBlock r b s).link.rings.get i = s.link.rings.get i := by
  by_cases hm : s.mode.mode = .halted
  · rw [formBlock, if_pos hm]
  · obtain ⟨-, -, -, -, hother⟩ := formBlock_seq r b s hm
    exact hother i hi

/-- A step of a stream's delivery: the ring takes its next sequence number, and no other is touched. -/
def RingStep (r : Nat) (u v : State) : Prop :=
  Only [.link] u v ∧ (u.mode.mode ≠ .halted → (v.link.rings.get r).sequence = (u.link.rings.get r).sequence + 1) ∧ ∀ i, i ≠ r → v.link.rings.get i = u.link.rings.get i

theorem RingStep.formed {r : Nat} {u v : State} (h : Only [.link] u v) (hrings : v.link.rings = u.link.rings) (b : BlockIn) : RingStep r u (formBlock r b v) := by
  refine ⟨h.trans (formBlock_only _ _ _), fun hm => ?_, fun i hi => ?_⟩
  · rw [← hrings]
    exact (formBlock_seq r b v (by rw [h .mode rfl]; exact hm)).1
  · rw [formBlock_ne _ _ _ hi, hrings]

theorem RingStep.discarded {r : Nat} {u v : State} (h : Only [.link] u v) (hrings : v.link.rings = u.link.rings) :
    RingStep r u (discardBlock r (v.setRing r fun g => { g with sequence := g.sequence + 1 })) := by
  refine ⟨h.trans ((State.setRing_only _ _ _).trans (discardBlock_only _ _)), fun _ => ?_, fun i hi => ?_⟩
  · rw [discardBlock_self, setRing_self, hrings]
  · rw [discardBlock_ne _ _ hi, setRing_ne _ _ _ hi, hrings]

theorem foldl_ringStep {f : State → Nat → State} (hf : ∀ u r, RingStep r u (f u r)) : ∀ (rings : List Nat) (u : State), rings.Nodup →
    Only [.link] u (rings.foldl f u)
      ∧ (u.mode.mode ≠ .halted → ∀ r, r ∈ rings → ((rings.foldl f u).link.rings.get r).sequence = (u.link.rings.get r).sequence + 1)
      ∧ ∀ r, r ∉ rings → (rings.foldl f u).link.rings.get r = u.link.rings.get r := by
  intro rings
  induction rings with
  | nil => exact fun u _ => ⟨Only.refl _ u, fun _ r hr => absurd hr List.not_mem_nil, fun _ _ => rfl⟩
  | cons a rings ih =>
    intro u hnodup
    obtain ⟨ha, hrest⟩ := List.nodup_cons.mp hnodup
    obtain ⟨hstep, hseq, hne⟩ := hf u a
    obtain ⟨honly, hseqs, hother⟩ := ih (f u a) hrest
    rw [List.foldl_cons]
    refine ⟨hstep.trans honly, fun hm r hr => ?_, fun r hr => ?_⟩
    · rcases List.mem_cons.mp hr with rfl | hr
      · rw [hother r ha]
        exact hseq hm
      · rw [hseqs (by rw [hstep .mode rfl]; exact hm) r hr, hne r (fun h => ha (h ▸ hr))]
    · obtain ⟨hra, hr⟩ := not_or.mp (fun h => hr (List.mem_cons.mpr h))
      rw [hother r hr, hne r hra]

/-- The captures in place of those of a state. -/
def State.withCaptures (u : State) (c : Tbl (Option Capture)) : State := { u with link := { u.link with captures := c } }

/-- What the stages of a stream's block saturated. -/
def State.streamSat (s : State) (x : StreamId) (t0 stop : Nat) (air : Air) (fault : Nat) (old : Bool) : Nat :=
  s.blockSat x fault (s.blockSamples (if old then s.beforeEdge x.die else s) air x t0 stop)

theorem execStreamBlockFormed_run {s : State} {x : StreamId} {t0 stop fault : Nat} {air : Air} {old late choked : Bool} (hruns : s.streamRuns x = true)
    (hend : s.blockEnd x.die t0 old = some stop) (hknown : old = true ∨ s.frozenIn x.die t0 stop = true ∨ s.blockKnown x t0 = true) :
    ∃ f : State → Nat → State, exec (.streamBlockFormed x t0 air fault old late choked) s =
        .next ((s.captureRings x t0 old).foldl f (markSaturation x (s.streamSat x t0 stop air fault old) s)) ∧ ∀ u r, RingStep r u (f u r) := by
  have hgo : (s.streamRuns x && (old || s.frozenIn x.die t0 stop || s.blockKnown x t0)) = true := by
    rcases hknown with h | h | h <;> simp [hruns, h]
  have hpassed : ∀ (u : State) (c : Tbl (Option Capture)), Only [.link] u (u.withCaptures c) := fun u _ => Only.ofMk rfl (Only.refl _ u)
  change ∃ f : State → Nat → State, execStreamBlockFormed x t0 air fault old late choked s = _ ∧ _
  unfold execStreamBlockFormed
  dsimp only
  rw [hend]
  dsimp only
  rw [onlyIf_of_true hgo]
  refine ⟨_, rfl, fun u r => ?_⟩
  have hstep : ∀ (c : Bool) (b : BlockIn) (x : Tbl (Option Capture)), RingStep r u
      (if c = true then discardBlock r ((u.withCaptures x).setRing r fun g => { g with sequence := g.sequence + 1 }) else formBlock r b (u.withCaptures x)) := by
    intro c b x
    split
    · exact RingStep.discarded (hpassed u x) rfl
    · exact RingStep.formed (hpassed u x) rfl b
  cases x with
  | segment c => exact hstep _ _ _
  | lane l => exact hstep _ _ _
  | mpx l => exact hstep _ _ _
  | spare c => exact hstep _ _ _

/-- The stages of a lane whose sticky flag rises with a block that saturated in `sat`. -/
def Chain.saturationRises (c : Chain) (sat : Nat) : List Int :=
  ([c.satHalving, c.satResampler, c.satFilter].zipIdx).filterMap fun (was, g) => if maskBit sat g && !was then some (g : Int) else none

theorem Chain.saturationRises_halving {c : Chain} {sat : Nat} (hsat : maskBit sat 0 = true) (hwas : c.satHalving = false) : 0 ∈ c.saturationRises sat := by
  simp [Chain.saturationRises, hsat, hwas]

/-- A lane's stages that saturated set their sticky flags, before the events. -/
def stickyLane (l sat : Nat) (s : State) : State :=
  let t := if maskBit sat 3 then
      { s with taps := { s.taps with bandTaps := s.taps.bandTaps.modify (StreamId.lane l).cluster fun b => { b with satSticky := true } } }
    else s
  { t with taps := { t.taps with lanes := t.taps.lanes.modify l fun c =>
      { c with satHalving := c.satHalving || maskBit sat 0, satResampler := c.satResampler || maskBit sat 1, satFilter := c.satFilter || maskBit sat 2 } } }

theorem markSaturation_eq (l sat : Nat) (s : State) : markSaturation (.lane l) sat s =
    (((s.taps.lanes.get l).forBlock s.now).saturationRises sat).foldl (fun acc (g : Int) => raise .laneSaturated (laneDie l) [.w l, .w g] acc) (stickyLane l sat s) := rfl

theorem markSaturation_lane {s : State} {l sat : Nat} (hsat : maskBit sat 0 = true) (hwas : ((s.taps.lanes.get l).forBlock s.now).satHalving = false) :
    ((markSaturation (.lane l) sat s).taps.lanes.get l).satHalving = true ∧ Raises s (markSaturation (.lane l) sat s) .laneSaturated (laneDie l) [.w l, .w 0] := by
  have hrises := Chain.saturationRises_halving hsat hwas
  have hset : Only [.taps] s (stickyLane l sat s) := (Only.ite (Only.ofMk rfl (Only.refl _ s)) (Only.refl _ s)).trans (Only.ofMk rfl (Only.refl _ _))
  have hsticky : ((stickyLane l sat s).taps.lanes.get l).satHalving = true := by
    unfold stickyLane
    dsimp only
    rw [Tbl.get_modify_self, hsat, Bool.or_true]
  obtain ⟨-, hraises⟩ := foldl_raises (fun _ => EvName.laneSaturated) (fun _ => laneDie l) (fun g : Int => [EvArg.w l, .w g]) (as := [.taps, .link, .integ, .sec]) rfl rfl rfl rfl rfl
    (((s.taps.lanes.get l).forBlock s.now).saturationRises sat) (stickyLane l sat s) (hset.mono rfl)
  have hfold := foldl_keep (fun v => Only [.link, .integ, .sec] (stickyLane l sat s) v) (fun acc (g : Int) => raise .laneSaturated (laneDie l) [.w l, .w g] acc)
    (((s.taps.lanes.get l).forBlock s.now).saturationRises sat) (fun v g hv => hv.trans (raise_only _ _ _ _)) _ (Only.refl _ _)
  rw [markSaturation_eq]
  refine ⟨?_, hraises 0 hrises⟩
  rw [hfold .taps rfl]
  exact hsticky

theorem streamBlock_formed {s : State} {x : StreamId} {t0 stop fault : Nat} {air : Air} {old late choked : Bool} (hruns : s.streamRuns x = true)
    (hend : s.blockEnd x.die t0 old = some stop) (hknown : old = true ∨ s.frozenIn x.die t0 stop = true ∨ s.blockKnown x t0 = true) :
    ∃ t, exec (.streamBlockFormed x t0 air fault old late choked) s = .next t ∧ Only [.taps, .link, .integ, .sec] s t
      ∧ (s.mode.mode ≠ .halted → ∀ r, r ∈ s.captureRings x t0 old → (t.link.rings.get r).sequence = (s.link.rings.get r).sequence + 1)
      ∧ (∀ r, r ∉ s.captureRings x t0 old → t.link.rings.get r = s.link.rings.get r)
      ∧ (t.taps.bandTaps.get x.cluster).satSticky =
          ((s.taps.bandTaps.get x.cluster).satSticky || maskBit (s.blockSat x fault (s.blockSamples (if old then s.beforeEdge x.die else s) air x t0 stop)) 3)
      ∧ (∀ l, x = .lane l → maskBit (s.blockSat x fault (s.blockSamples (if old then s.beforeEdge x.die else s) air x t0 stop)) 0 = true →
          ((s.taps.lanes.get l).forBlock s.now).satHalving = false → (t.taps.lanes.get l).satHalving = true ∧ Raises s t .laneSaturated (laneDie l) [.w l, .w 0]) := by
  obtain ⟨f, hrun, hf⟩ := execStreamBlockFormed_run (air := air) (fault := fault) (late := late) (choked := choked) hruns hend hknown
  have honly := (execStreamBlockFormed_frames x t0 air fault old late choked s).onlyOf hrun
  obtain ⟨sat, hsat⟩ : ∃ sat, s.streamSat x t0 stop air fault old = sat := ⟨_, rfl⟩
  rw [hsat] at hrun honly
  obtain ⟨hrings, hset, hkeep⟩ := markSaturation_facts x sat s
  obtain ⟨hdelivered, hseq, hother⟩ := foldl_ringStep hf (s.captureRings x t0 old) (markSaturation x sat s) (captureRings_nodup s x t0 old)
  rw [hrings] at hseq hother
  refine ⟨_, hrun, honly.mono rfl, fun hm => hseq (by rw [markSaturation_only _ _ _ .mode rfl]; exact hm), hother, ?_, ?_⟩
  · rw [hdelivered .taps rfl]
    change _ = (_ || maskBit (s.streamSat x t0 stop air fault old) 3)
    rw [hsat]
    cases h3 : maskBit sat 3 with
    | true => rw [hset h3, Bool.or_true]
    | false => rw [hkeep h3, Bool.or_false]
  · rintro l rfl h0 hwas
    obtain ⟨hsticky, hraise⟩ := markSaturation_lane (s := s) (l := l) (sat := sat) (hsat ▸ h0) hwas
    exact ⟨by rw [hdelivered .taps rfl]; exact hsticky, Raises.andThen hdelivered rfl hraise⟩

/-! ### PCM rings -/

/-- A ring whose PCM block ended at `stop`. -/
def passRing (r d stop : Nat) (old : Bool) (u : State) : State :=
  u.setRing r fun g => g.passPcm (u.clk.get d).edge (u.clk.get d).edges stop old

theorem takeMask_none {r t0 : Nat} {s : State} (h : (s.link.rings.get r).pcmNext = none) : takeMask r t0 s = s := by
  unfold takeMask
  dsimp only
  rw [h]

theorem takeMask_some {r t0 at_ mask die : Nat} {s : State} (h : (s.link.rings.get r).pcmNext = some (at_, mask, die)) (hat : at_ ≤ t0) :
    takeMask r t0 s = raise .ringMaskChanged die [.w r, .q (s.link.rings.get r).sequence.toNat]
      (s.setRing r fun g => { g with pcmNext := none, pcmMask := mask, pcmDie := die }) := by
  unfold takeMask
  dsimp only
  rw [h]
  exact if_pos hat

/-- A ring's PCM block is the one that follows those already formed. -/
def State.pcmDue (s t : State) (r t0 stop : Nat) (old : Bool) : Bool :=
  let g := t.link.rings.get r
  let c := s.clk.get g.pcmDie
  s.mode.mode.receiving && decide (32 ≤ r) && decide (r < 96) && s.dieUp (if g.pcmMask = 0 then 0 else g.pcmDie)
    && (if old then decide (g.pcmEdges + 1 = c.edges) && decide (g.pcmFrom ≤ t0) else decide (g.pcmEdges < c.edges) || decide (g.pcmFrom ≤ t0))
    && (old || decide (stop ≤ s.now))

theorem execPcmBlockFormed_run {s t : State} {r t0 stop : Nat} {air : Air} {old : Bool} (ht : takeMask r t0 s = t)
    (hend : s.blockEnd (t.link.rings.get r).pcmDie t0 old = some stop) (hgo : s.pcmDue t r t0 stop old = true) :
    ∃ b m, exec (.pcmBlockFormed r t0 air old) s = .next
        (if (t.link.rings.get r).pcmMask = 0 then passRing r (t.link.rings.get r).pcmDie stop old t else formBlock r b m)
      ∧ Only [.audio] (passRing r (t.link.rings.get r).pcmDie stop old t) m := by
  have hclk : t.clk = s.clk := ht ▸ takeMask_only r t0 s .clk rfl
  change ∃ b m, execPcmBlockFormed r t0 air old s = _ ∧ _
  unfold execPcmBlockFormed
  dsimp only
  rw [ht, hend]
  dsimp only
  unfold passRing
  rw [hclk]
  refine ⟨_, _, onlyIf_of_true hgo, ?_⟩
  refine foldl_keep (fun v => Only [.audio] _ v) _ _ ?_ _ (Only.refl _ _)
  rintro v ⟨x, c⟩ hv
  exact Only.ite (hv.trans (State.setSlot_only _ _ _)) hv

theorem passRing_self (r d stop : Nat) (old : Bool) (u : State) :
    (passRing r d stop old u).link.rings.get r = (u.link.rings.get r).passPcm (u.clk.get d).edge (u.clk.get d).edges stop old := setRing_self _ _ _

theorem passRing_ne (r d stop : Nat) (old : Bool) (u : State) {i : Nat} (hi : i ≠ r) : (passRing r d stop old u).link.rings.get i = u.link.rings.get i :=
  setRing_ne _ _ _ hi

theorem formBlock_pcm (r : Nat) (b : BlockIn) (s : State) :
    ((formBlock r b s).link.rings.get r).pcmFrom = (s.link.rings.get r).pcmFrom ∧ ((formBlock r b s).link.rings.get r).pcmEdges = (s.link.rings.get r).pcmEdges := by
  unfold formBlock
  dsimp only
  split
  · exact ⟨rfl, rfl⟩
  · split
    · split
      · rw [discardBlock_self, setRing_self, setRing_self]
        exact ⟨rfl, rfl⟩
      · rw [setRing_self, setRing_self]
        exact ⟨rfl, rfl⟩
    · rw [discardBlock_self, setRing_self]
      exact ⟨rfl, rfl⟩

theorem ne_halted_of_receiving {m : OpMode} (h : m.receiving = true) : m ≠ .halted := by
  rintro rfl
  exact absurd h (by decide)

/-- What a ring's block leaves behind it, once its mask is not empty. -/
theorem pcmBlock_ring {s t m : State} {r d stop : Nat} {old : Bool} (b : BlockIn) (hmode : s.mode.mode.receiving = true) (ht : t.mode = s.mode)
    (hm : Only [.audio] (passRing r d stop old t) m) :
    ((formBlock r b m).link.rings.get r).sequence = (t.link.rings.get r).sequence + 1 ∧ ((formBlock r b m).link.rings.get r).pcmMask = (t.link.rings.get r).pcmMask
      ∧ ((formBlock r b m).link.rings.get r).pcmNext = (t.link.rings.get r).pcmNext ∧ ((formBlock r b m).link.rings.get r).pcmDie = (t.link.rings.get r).pcmDie
      ∧ ((formBlock r b m).link.rings.get r).pcmFrom = ((t.link.rings.get r).passPcm (t.clk.get d).edge (t.clk.get d).edges stop old).pcmFrom
      ∧ ((formBlock r b m).link.rings.get r).pcmEdges = ((t.link.rings.get r).passPcm (t.clk.get d).edge (t.clk.get d).edges stop old).pcmEdges
      ∧ ∀ i, i ≠ r → (formBlock r b m).link.rings.get i = t.link.rings.get i := by
  have hmode' : m.mode.mode ≠ .halted := by
    rw [hm .mode rfl]
    exact ne_halted_of_receiving (by rw [show (passRing r d stop old t).mode = s.mode from ht]; exact hmode)
  have hrings : m.link.rings = (passRing r d stop old t).link.rings := by rw [hm .link rfl]
  obtain ⟨hseq, hmask, hnext, hdie, hother⟩ := formBlock_seq r b m hmode'
  obtain ⟨hfrom, hedges⟩ := formBlock_pcm r b m
  have hkept : ∀ (g : Ring) edge edges, (g.passPcm edge edges stop old).sequence = g.sequence ∧ (g.passPcm edge edges stop old).pcmMask = g.pcmMask
      ∧ (g.passPcm edge edges stop old).pcmNext = g.pcmNext ∧ (g.passPcm edge edges stop old).pcmDie = g.pcmDie := by
    intro g edge edges
    unfold Ring.passPcm
    split
    · split <;> exact ⟨rfl, rfl, rfl, rfl⟩
    · exact ⟨rfl, rfl, rfl, rfl⟩
  obtain ⟨kseq, kmask, knext, kdie⟩ := hkept (t.link.rings.get r) (t.clk.get d).edge (t.clk.get d).edges
  rw [hrings, passRing_self] at hseq hmask hnext hdie hfrom hedges
  refine ⟨hseq.trans (by rw [kseq]), hmask.trans kmask, hnext.trans knext, hdie.trans kdie, hfrom, hedges, fun i hi => ?_⟩
  rw [hother i hi, hrings, passRing_ne _ _ _ _ _ hi]

theorem pcmBlock_formed {s : State} {r t0 stop : Nat} {air : Air} (hm : s.mode.mode.receiving = true) (hlo : 32 ≤ r) (hhi : r < 96)
    (hnext : (s.link.rings.get r).pcmNext = none) (hmask : (s.link.rings.get r).pcmMask ≠ 0) (hup : s.dieUp (s.link.rings.get r).pcmDie = true)
    (hend : s.blockEnd (s.link.rings.get r).pcmDie t0 false = some stop) (hnow : stop ≤ s.now)
    (hfrom : (s.link.rings.get r).pcmEdges < (s.clk.get (s.link.rings.get r).pcmDie).edges ∨ (s.link.rings.get r).pcmFrom ≤ t0) :
    ∃ t, exec (.pcmBlockFormed r t0 air false) s = .next t ∧ Only [.audio, .link] s t
      ∧ (t.link.rings.get r).sequence = (s.link.rings.get r).sequence + 1 ∧ (t.link.rings.get r).pcmMask = (s.link.rings.get r).pcmMask
      ∧ (t.link.rings.get r).pcmFrom = stop ∧ (t.link.rings.get r).pcmEdges = (s.clk.get (s.link.rings.get r).pcmDie).edges
      ∧ ∀ i, i ≠ r → t.link.rings.get i = s.link.rings.get i := by
  have hgo : s.pcmDue s r t0 stop false = true := by
    rcases hfrom with h | h <;> simp [State.pcmDue, hm, hlo, hhi, hmask, hup, hnow, h]
  obtain ⟨b, m, hrun, hmarked⟩ := execPcmBlockFormed_run (air := air) (takeMask_none hnext) hend hgo
  rw [if_neg hmask] at hrun
  obtain ⟨hseq, hmask', -, -, hpcm, hedges, hother⟩ := pcmBlock_ring b hm rfl hmarked
  have honly : Only [.audio, .link] s (formBlock r b m) :=
    ((State.setRing_only _ _ _).mono rfl).trans ((hmarked.mono rfl).trans ((formBlock_only _ _ _).mono rfl))
  exact ⟨_, hrun, honly, hseq, hmask', hpcm, hedges, hother⟩

theorem blockEnd_before {s : State} {d t0 o v : Nat} (hedge : (s.clk.get d).edge = some (o, v)) (hbefore : t0 < o) (hwithin : o ≤ nextOf countsPerBlock t0)
    (hgrid : t0 % 200000 = 0) : s.blockEnd d t0 true = some o := by
  have hn : t0 % countsPerBlock = 0 := hgrid
  simp only [State.blockEnd, hedge, if_true, hbefore, hn, decide_true, Bool.and_self, Nat.min_eq_left hwithin]

theorem pcmBlock_cutByEdge {s : State} {r t0 o v : Nat} {air : Air} (hm : s.mode.mode.receiving = true) (hlo : 32 ≤ r) (hhi : r < 96)
    (hnext : (s.link.rings.get r).pcmNext = none) (hmask : (s.link.rings.get r).pcmMask ≠ 0) (hup : s.dieUp (s.link.rings.get r).pcmDie = true)
    (hedge : (s.clk.get (s.link.rings.get r).pcmDie).edge = some (o, v)) (hbefore : t0 < o) (hwithin : o ≤ nextOf countsPerBlock t0) (hgrid : t0 % 200000 = 0)
    (hedges : (s.link.rings.get r).pcmEdges + 1 = (s.clk.get (s.link.rings.get r).pcmDie).edges) (hfrom : (s.link.rings.get r).pcmFrom ≤ t0) :
    ∃ t, exec (.pcmBlockFormed r t0 air true) s = .next t ∧ Only [.taps, .audio, .link, .integ, .sec] s t
      ∧ (t.link.rings.get r).sequence = (s.link.rings.get r).sequence + 1 ∧ (t.link.rings.get r).pcmFrom = v
      ∧ (t.link.rings.get r).pcmEdges = (s.clk.get (s.link.rings.get r).pcmDie).edges ∧ ∀ i, i ≠ r → t.link.rings.get i = s.link.rings.get i := by
  have hgo : s.pcmDue s r t0 o true = true := by simp [State.pcmDue, hm, hlo, hhi, hmask, hup, hedges, hfrom]
  obtain ⟨b, m, hrun, hmarked⟩ := execPcmBlockFormed_run (air := air) (takeMask_none hnext) (blockEnd_before hedge hbefore hwithin hgrid) hgo
  rw [if_neg hmask] at hrun
  obtain ⟨hseq, -, -, -, hpcm, hedges', hother⟩ := pcmBlock_ring b hm rfl hmarked
  have hpass : ∀ (g : Ring) edges, g.passPcm (some (o, v)) edges o true = { g with pcmEdges := edges, pcmFrom := v } := fun g edges => if_pos rfl
  rw [hedge, hpass] at hpcm hedges'
  have honly : Only [.audio, .link] s (formBlock r b m) :=
    ((State.setRing_only _ _ _).mono rfl).trans ((hmarked.mono rfl).trans ((formBlock_only _ _ _).mono rfl))
  exact ⟨_, hrun, honly.mono rfl, hseq, hpcm, hedges', hother⟩

theorem pcmBlock_takesMask {s : State} {r t0 stop at_ mask die : Nat} {air : Air} (hm : s.mode.mode.receiving = true) (hlo : 32 ≤ r) (hhi : r < 96)
    (hnext : (s.link.rings.get r).pcmNext = some (at_, mask, die)) (hat : at_ ≤ t0) (hup : s.dieUp die = true) (hup0 : s.dieUp 0 = true)
    (hend : s.blockEnd die t0 false = some stop) (hnow : stop ≤ s.now)
    (hfrom : (s.link.rings.get r).pcmEdges < (s.clk.get die).edges ∨ (s.link.rings.get r).pcmFrom ≤ t0) :
    ∃ t, exec (.pcmBlockFormed r t0 air false) s = .next t ∧ Only [.audio, .link, .integ, .sec] s t
      ∧ (t.link.rings.get r).pcmMask = mask ∧ (t.link.rings.get r).pcmDie = die ∧ (t.link.rings.get r).pcmNext = none
      ∧ Raises s t .ringMaskChanged die [.w r, .q (s.link.rings.get r).sequence.toNat]
      ∧ (mask = 0 → (t.link.rings.get r).sequence = (s.link.rings.get r).sequence) := by
  obtain ⟨u, hu⟩ : ∃ u, takeMask r t0 s = u := ⟨_, rfl⟩
  have htake := hu.symm.trans (takeMask_some hnext hat)
  have hring : u.link.rings.get r = { s.link.rings.get r with pcmNext := none, pcmMask := mask, pcmDie := die } := by
    rw [htake, raise_rings, setRing_self]
  have hraised : Raises s u .ringMaskChanged die [.w r, .q (s.link.rings.get r).sequence.toNat] :=
    htake ▸ Raises.raise (State.setRing_only _ _ _) rfl rfl _ _ _
  have honly : Only [.link, .integ, .sec] s u := hu ▸ takeMask_only r t0 s
  have hdie : (u.link.rings.get r).pcmDie = die := by rw [hring]
  have hmask : (u.link.rings.get r).pcmMask = mask := by rw [hring]
  have hgo : s.pcmDue u r t0 stop false = true := by
    have hany : s.dieUp (if mask = 0 then 0 else die) = true := by split <;> assumption
    have hfirst : (decide ((s.link.rings.get r).pcmEdges < (s.clk.get die).edges) || decide ((s.link.rings.get r).pcmFrom ≤ t0)) = true := by
      rcases hfrom with h | h <;> simp [h]
    simp only [State.pcmDue, hring, hm, hlo, hhi, hany, hnow, decide_true, Bool.or_true, Bool.and_true, Bool.false_eq_true, if_false, hfirst]
  obtain ⟨b, m, hrun, hmarked⟩ := execPcmBlockFormed_run (air := air) hu (hdie ▸ hend) hgo
  have hpassed : Only [.link] u (passRing r (u.link.rings.get r).pcmDie stop false u) := State.setRing_only _ _ _
  by_cases hzero : mask = 0
  · rw [if_pos (hmask.trans hzero)] at hrun
    refine ⟨_, hrun, (honly.mono rfl).trans (hpassed.mono rfl), ?_, ?_, ?_, Raises.andThen hpassed rfl hraised, fun _ => ?_⟩ <;>
      (rw [passRing_self, hring]; rfl)
  · rw [if_neg (fun h => hzero (hmask.symm.trans h))] at hrun
    obtain ⟨-, hmask', hnext', hdie', -, -, -⟩ := pcmBlock_ring b hm (honly .mode rfl) hmarked
    have hformed : Only [.audio, .link] u (formBlock r b m) := (hpassed.mono rfl).trans ((hmarked.mono rfl).trans ((formBlock_only _ _ _).mono rfl))
    exact ⟨_, hrun, (honly.mono rfl).trans (hformed.mono rfl), hmask'.trans hmask, hdie'.trans hdie, hnext'.trans (by rw [hring]),
      Raises.andThen hformed rfl hraised, fun h => absurd h hzero⟩

/-! ### Inputs -/

theorem execInputBlockFormed_run {s : State} {d : Nat} {air : Air} (hport : s.hasPort (.inp d) = true) (hup : s.dieUp d = true)
    (hrunning : (s.portSt (.inp d)).phase = .running)
    (hdue : (s.portSt (.inp d)).cut.isSome = true ∨ nextOf 200000 (s.portSt (.inp d)).nextBlock ≤ s.now) :
    ∃ sel b x, exec (.inputBlockFormed d air) s = .next (formRouted .pdmIn sel b (note x (s.setPort (.inp d) fun x =>
      { x with cut := none, nextBlock := if x.cut.isSome then x.nextBlock else nextOf countsPerBlock x.nextBlock }))) := by
  change ∃ sel b x, execInputBlockFormed d air s = _
  unfold execInputBlockFormed
  cases hcut : (s.portSt (.inp d)).cut with
  | none =>
    have hnow : nextOf countsPerBlock (s.portSt (.inp d)).nextBlock ≤ s.now := hdue.resolve_left (by rw [hcut]; exact Bool.false_ne_true)
    refine ⟨_, _, _, onlyIf_of_true ?_⟩
    simp only [hcut, hport, hup, hrunning, decide_eq_true hnow, Bool.or_true, Bool.and_self]
  | some c =>
    refine ⟨_, _, _, onlyIf_of_true ?_⟩
    simp only [hcut, hport, hup, hrunning, Option.isSome_some, Bool.true_or, Bool.and_self]

theorem inputBlock_delivered {s : State} {d : Nat} (f : PortSt → PortSt) (cls : DelClass) (sel : RouteEntry → Bool) (b : BlockIn) (x : HallNote) :
    Only [.ports, .link, .sec] s (formRouted cls sel b (note x (s.setPort (.inp d) f)))
      ∧ (formRouted cls sel b (note x (s.setPort (.inp d) f))).portSt (.inp d) = f (s.portSt (.inp d))
      ∧ ∀ i, i ≠ (PortId.inp d).key → (formRouted cls sel b (note x (s.setPort (.inp d) f))).ports.ports.get i = s.ports.ports.get i := by
  have hdelivered : Only [.link, .sec] (s.setPort (.inp d) f) (formRouted cls sel b (note x (s.setPort (.inp d) f))) :=
    ((note_only _ _).mono rfl).trans ((formRouted_only _ _ _ _).mono rfl)
  have hports := hdelivered .ports rfl
  refine ⟨((State.setPort_only _ _ _).mono rfl).trans (hdelivered.mono rfl), ?_, fun i hi => ?_⟩
  · rw [portSt_of_ports hports, setPort_self]
  · rw [hports, setPort_ne _ _ _ hi]

theorem inputBlock_formed {s : State} {d : Nat} {air : Air} (hport : s.hasPort (.inp d) = true) (hup : s.dieUp d = true)
    (hrunning : (s.portSt (.inp d)).phase = .running) (hcut : (s.portSt (.inp d)).cut = none)
    (hnow : nextOf 200000 (s.portSt (.inp d)).nextBlock ≤ s.now) :
    ∃ t, exec (.inputBlockFormed d air) s = .next t ∧ Only [.ports, .link, .sec] s t
      ∧ t.portSt (.inp d) = { s.portSt (.inp d) with nextBlock := nextOf 200000 (s.portSt (.inp d)).nextBlock }
      ∧ ∀ i, i ≠ (PortId.inp d).key → t.ports.ports.get i = s.ports.ports.get i := by
  obtain ⟨sel, b, x, hrun⟩ := execInputBlockFormed_run (air := air) hport hup hrunning (Or.inr hnow)
  obtain ⟨honly, hself, hother⟩ := inputBlock_delivered (s := s) (d := d) (fun x =>
    { x with cut := none, nextBlock := if x.cut.isSome then x.nextBlock else nextOf countsPerBlock x.nextBlock }) .pdmIn sel b x
  refine ⟨_, hrun, honly, hself.trans ?_, hother⟩
  simp only [hcut, Option.isSome_none, Bool.false_eq_true, if_false]
  rfl

theorem inputBlock_cut {s : State} {d : Nat} {air : Air} {c : Nat × Nat} (hport : s.hasPort (.inp d) = true) (hup : s.dieUp d = true)
    (hrunning : (s.portSt (.inp d)).phase = .running) (hcut : (s.portSt (.inp d)).cut = some c) :
    ∃ t, exec (.inputBlockFormed d air) s = .next t ∧ Only [.ports, .link, .sec] s t
      ∧ t.portSt (.inp d) = { s.portSt (.inp d) with cut := none } ∧ ∀ i, i ≠ (PortId.inp d).key → t.ports.ports.get i = s.ports.ports.get i := by
  obtain ⟨sel, b, x, hrun⟩ := execInputBlockFormed_run (air := air) hport hup hrunning (Or.inl (by rw [hcut]; rfl))
  obtain ⟨honly, hself, hother⟩ := inputBlock_delivered (s := s) (d := d) (fun x =>
    { x with cut := none, nextBlock := if x.cut.isSome then x.nextBlock else nextOf countsPerBlock x.nextBlock }) .pdmIn sel b x
  refine ⟨_, hrun, honly, hself.trans ?_, hother⟩
  simp only [hcut, Option.isSome_some, if_true]

/-- Settles O29: streams, PCM rings and inputs, each by the rule of its block above. -/
theorem sampleBlocks : Obligations.SampleBlocks :=
  ⟨fun _ _ _ _ _ _ _ _ _ => streamBlock_formed, fun _ _ _ _ _ => pcmBlock_formed, fun _ _ _ _ _ _ => pcmBlock_cutByEdge, fun _ _ _ _ _ _ _ _ => pcmBlock_takesMask,
    fun _ _ _ => inputBlock_formed, fun _ _ _ _ => inputBlock_cut⟩

end Sys2Proof.Machine
end

section
/-!
PROOFS. OFDM reception: frames of DAB and DRM, CIFs, TII periods, a missing feed (06 R170 to R186).
-/
namespace Sys2Proof.Machine

/-! ### Frame synchronisation -/

theorem frameSync_rules {s : State} {e p stop : Nat} :
    ((frameSync e p stop true s).signal e p).synced = true ∧ ((frameSync e p stop true s).signal e p).lostFrames = 0
    ∧ ((s.signal e p).synced = false → Raises s (frameSync e p stop true s) .ofdmSyncGained (engineDie e) [.w e, .w p])
    ∧ ((s.signal e p).synced = true → (s.signal e p).lostFrames < 2 → frameSync e p stop false s = s.setSignal e p fun x => { x with lostFrames := x.lostFrames + 1 })
    ∧ ((restartSignal e p stop s).signal e p).synced = false ∧ ((restartSignal e p stop s).signal e p).restartSeen = true ∧ ((restartSignal e p stop s).signal e p).acqFrom = stop
    ∧ ((restartSignal e p stop s).ofdm.engines.get e).restarts = (s.ofdm.engines.get e).restarts + 1
    ∧ ((s.signal e p).synced = true → Raises s (restartSignal e p stop s) .ofdmSyncLost (engineDie e) [.w e, .w p]) := by
  obtain ⟨hsynced, hlost, -, -, hgained⟩ := frameSync_true e p stop s
  obtain ⟨hsignal, hcount, -, hraises⟩ := restartSignal_facts e p stop s
  refine ⟨hsynced, hlost, hgained, fun hs hfew => ?_, ?_, ?_, ?_, hcount, hraises⟩
  · rw [frameSync_false e p stop s hs, if_neg (Nat.not_le_of_lt hfew)]
  all_goals rw [hsignal]

theorem frameSync_stays {s : State} {e p stop : Nat} {kept : Bool} (hs : (s.signal e p).synced = true) (h : (s.signal e p).lostFrames < 2 ∨ kept = true) :
    ((frameSync e p stop kept s).signal e p).synced = true := by
  cases kept with
  | true => exact (frameSync_true e p stop s).1
  | false =>
    have hfew := h.resolve_right Bool.false_ne_true
    rw [frameSync_false e p stop s hs, if_neg (Nat.not_le_of_lt hfew), setSignal_self]
    exact hs

theorem frameSync_restarts {s : State} {e p stop : Nat} {kept : Bool} (hs : (s.signal e p).synced = true) (h : 2 ≤ (s.signal e p).lostFrames) (hkept : kept = false) :
    frameSync e p stop kept s = restartSignal e p stop s := by
  rw [hkept, frameSync_false e p stop s hs, if_pos h]

/-! ### DAB frames -/

theorem execDabFrame_run {s : State} {e l : Nat} {air : Air} (hruns : s.engineRuns e .dab = true)
    (hpos : (s.cfg.active.engines.get e).positions.contains 0 = true) (hfeed : s.feedLane e 0 = some l) (hdone : (s.signal e 0).cifsDone = 4)
    (htii : (s.cfg.active.engines.get e).tiiOn = true → (s.ofdm.engines.get e).tii.frames < (s.cfg.active.engines.get e).tiiFrames) :
    exec (.dabFrame e air) s = .next (match (s.signal e 0).synced, (s.signal e 0).frameAt with
      | true, some f =>
        let (found, n0) := frameAfter f dabFrameLen (s.dabTiming air e l).1.present (s.dabTiming air e l).2
        if !decide (n0 + (dabOffset 5 : Nat) ≤ s.feedNow l s.now + 1) then s else
        let t := frameSync e 0 (s.feedInstant l (n0 + (dabFrameLen : Nat))) (found || s.dabErased l n0 0 || s.dabErased l n0 1) s
        if (t.signal e 0).synced then takeDabFrame e l air (if found then (s.dabTiming air e l).1 else { (s.dabTiming air e l).1 with offset := (s.signal e 0).freqOffset }) n0 t else t
      | _, _ =>
        if (s.dabTiming air e l).1.acquires (s.cfg.active.engines.get e).freqSearch && decide ((s.dabTiming air e l).2 + (dabOffset 5 : Nat) ≤ s.feedNow l s.now + 1)
        then takeDabFrame e l air (s.dabTiming air e l).1 (s.dabTiming air e l).2 (frameSync e 0 0 true s) else s) := by
  have hgo : (s.engineRuns e .dab && (s.cfg.active.engines.get e).positions.contains 0 && decide ((s.signal e 0).cifsDone = 4)
      && (!(s.cfg.active.engines.get e).tiiOn || decide ((s.ofdm.engines.get e).tii.frames < (s.cfg.active.engines.get e).tiiFrames))) = true := by
    rw [hpos]
    cases hon : (s.cfg.active.engines.get e).tiiOn with
    | false => simp [hruns, hdone]
    | true => simp [hruns, hdone, htii hon]
  change execDabFrame e air s = _
  unfold execDabFrame
  dsimp only
  rw [hfeed]
  exact onlyIf_of_true hgo

theorem dabFrame_syncs {s : State} {e l : Nat} {air : Air} (hruns : s.engineRuns e .dab = true)
    (hpos : (s.cfg.active.engines.get e).positions.contains 0 = true) (hfeed : s.feedLane e 0 = some l) (hdone : (s.signal e 0).cifsDone = 4)
    (htii : (s.cfg.active.engines.get e).tiiOn = true → (s.ofdm.engines.get e).tii.frames < (s.cfg.active.engines.get e).tiiFrames) :
    ((s.signal e 0).synced = false →
      exec (.dabFrame e air) s = .next (if (s.dabTiming air e l).1.acquires (s.cfg.active.engines.get e).freqSearch = true ∧ (s.dabTiming air e l).2 + (dabOffset 5 : Nat) ≤ s.feedNow l s.now + 1
        then takeDabFrame e l air (s.dabTiming air e l).1 (s.dabTiming air e l).2 (frameSync e 0 0 true s) else s))
    ∧ (∀ f n0 found, (s.signal e 0).synced = true → (s.signal e 0).frameAt = some f → frameAfter f dabFrameLen (s.dabTiming air e l).1.present (s.dabTiming air e l).2 = (found, n0) →
      n0 + (dabOffset 5 : Nat) ≤ s.feedNow l s.now + 1 → (s.signal e 0).lostFrames < 2 ∨ (found || s.dabErased l n0 0 || s.dabErased l n0 1) = true →
      exec (.dabFrame e air) s = .next (takeDabFrame e l air (if found then (s.dabTiming air e l).1 else { (s.dabTiming air e l).1 with offset := (s.signal e 0).freqOffset }) n0
        (frameSync e 0 (s.feedInstant l (n0 + (dabFrameLen : Nat))) (found || s.dabErased l n0 0 || s.dabErased l n0 1) s)))
    ∧ (∀ f n0 found, (s.signal e 0).synced = true → (s.signal e 0).frameAt = some f → frameAfter f dabFrameLen (s.dabTiming air e l).1.present (s.dabTiming air e l).2 = (found, n0) →
      n0 + (dabOffset 5 : Nat) ≤ s.feedNow l s.now + 1 → 2 ≤ (s.signal e 0).lostFrames → (found || s.dabErased l n0 0 || s.dabErased l n0 1) = false →
      exec (.dabFrame e air) s = .next (restartSignal e 0 (s.feedInstant l (n0 + (dabFrameLen : Nat))) s)) := by
  have hrun := execDabFrame_run (air := air) hruns hpos hfeed hdone htii
  refine ⟨fun hs => ?_, fun f n0 found hs hf hafter hhere hkept => ?_, fun f n0 found hs hf hafter hhere hlost hkept => ?_⟩
  · rw [hrun, hs]
    simp only [Bool.and_eq_true, decide_eq_true_eq]
  · rw [hrun, hs, hf]
    simp only [hafter, decide_eq_true hhere, Bool.not_true, Bool.false_eq_true, if_false]
    rw [if_pos (frameSync_stays hs hkept)]
  · rw [hrun, hs, hf]
    simp only [hafter, decide_eq_true hhere, Bool.not_true, Bool.false_eq_true, if_false]
    rw [frameSync_restarts hs hlost hkept, (restartSignal_facts _ _ _ _).1]
    rfl

/-- A taken frame: the position's counts and place, the impulse response, the records, the entries. -/
theorem takeDabFrame_stages (e l : Nat) (air : Air) (r : DabTiming) (n0 : Int) (s : State) :
    ∃ figs dn ct recs f g, takeDabFrame e l air r n0 s = takeEntries e 0 figs dn ct (addSide e recs ((s.setSignal e 0 f).setEngine e g))
      ∧ (∀ x, (g x).signals = x.signals)
      ∧ ∀ x, syncPart (f x) = ((x.synced, x.lostFrames, x.ctrlTotal + (s.ficOf air l r.offset n0).1.length,
          x.ctrlFail + (s.ficOf air l r.offset n0).1.countP (fun f => !f.crcOk)), some n0, 0) := by
  unfold takeDabFrame
  dsimp only
  by_cases hon : (s.cfg.active.engines.get e).tiiOn = true
  · rw [if_pos hon]
    exact ⟨_, _, _, _, _, _, rfl, fun _ => rfl, fun _ => rfl⟩
  · rw [if_neg hon]
    exact ⟨_, _, _, _, _, _, rfl, fun _ => rfl, fun _ => rfl⟩

theorem takeDabFrame_counts {s : State} {e l : Nat} {air : Air} {r : DabTiming} {n0 : Int} :
    let t := takeDabFrame e l air r n0 s
    Only [.ofdm, .audio, .link, .integ, .mode, .domains, .mb, .sec] s t
    ∧ (t.signal e 0).synced = (s.signal e 0).synced ∧ (t.signal e 0).lostFrames = (s.signal e 0).lostFrames ∧ (t.signal e 0).frameAt = some n0 ∧ (t.signal e 0).cifsDone = 0
    ∧ (t.signal e 0).ctrlTotal = (s.signal e 0).ctrlTotal + (s.ficOf air l r.offset n0).1.length
    ∧ (t.signal e 0).ctrlFail = (s.signal e 0).ctrlFail + (s.ficOf air l r.offset n0).1.countP (fun f => !f.crcOk) := by
  have honly := takeDabFrame_only e l air r n0 s
  obtain ⟨figs, dn, ct, recs, f, g, heq, hg, hf⟩ := takeDabFrame_stages e l air r n0 s
  have hsync := takeEntries_sync e 0 figs dn ct (addSide e recs ((s.setSignal e 0 f).setEngine e g))
  rw [← heq, addSide_signal, signal_setEngine _ _ 0 _ _ hg, setSignal_self, hf] at hsync
  simp only [syncPart, Prod.mk.injEq] at hsync
  obtain ⟨⟨hsynced, hlost, htotal, hfail⟩, hframe, hdone⟩ := hsync
  exact ⟨honly, hsynced, hlost, hframe, hdone, htotal, hfail⟩

/-! ### CIFs -/

/-- The reconfiguration announced for the CIF that comes next. -/
def cifReconfigured (e : Nat) (x : SignalSt) (t : State) : State :=
  match x.frameCif with
  | some c => if x.reconfigAt = some ((c + x.cifsDone) % 5000) then reconfigure e ((c + x.cifsDone) % 5000) t else t
  | none => t

/-- The logical frames that a stored CIF completes. -/
def cifOutputs (s : State) (e l : Nat) (u : State) : State :=
  let y := u.signal e 0
  if !y.complete then u else
  (y.current.accepted.filterMap Fig.place).foldl (fun acc (id, start, size, prot) =>
    if (y.sub id).since + 16 ≤ y.cifTotal then takeLogical e id (s.logicalFrame l y.cifs start size prot) acc else acc) u

theorem cifOutputs_only (s : State) (e l : Nat) (u : State) : Only [.ofdm, .audio] u (cifOutputs s e l u) := by
  refine Only.ite (Only.refl _ u) (foldl_keep (fun v => Only [.ofdm, .audio] u v) _ _ ?_ u (Only.refl _ u))
  rintro v ⟨id, start, size, prot⟩ hv
  exact Only.ite (hv.trans (takeLogical_only _ _ _ _)) hv

theorem cifOutputs_core (s : State) (e l : Nat) (u : State) : corePart ((cifOutputs s e l u).signal e 0) = corePart (u.signal e 0) := by
  refine core_ite e 0 _ _ _ (foldl_core e 0 _ ?_ _ u)
  rintro v ⟨id, start, size, prot⟩
  dsimp only
  split
  · exact takeLogical_core _ _ _ _
  · rfl

theorem reconfigure_signal (e count : Nat) (u : State) :
    syncPart ((reconfigure e count u).signal e 0) = syncPart (u.signal e 0) ∧ ((reconfigure e count u).signal e 0).cifTotal = (u.signal e 0).cifTotal
      ∧ ((reconfigure e count u).signal e 0).reconfigAt = none ∧ ((reconfigure e count u).signal e 0).reconfigSeen = true
      ∧ ∀ {as : List Aspect} {s : State}, Only as s u → as.contains .events = false → as.contains .systime = false → as.contains .ofdm = true →
        ∃ m, Raises s (reconfigure e count u) .ensembleReconfig (engineDie e) [.w e, .w (0 : Nat), .w count, .q m] := by
  unfold reconfigure
  dsimp only
  rw [signal_of_ofdm (raise_only _ _ _ _ .ofdm rfl), setSignal_self]
  refine ⟨rfl, rfl, rfl, rfl, fun h he ht ho => ⟨_, Raises.raise (h.trans ((State.setSignal_only _ _ _ _).mono ?_)) he ht _ _ _⟩⟩
  simpa using ho

theorem execCifDecoded_run {s : State} {e l : Nat} {n0 : Int} {air : Air} (hruns : s.engineRuns e .dab = true) (hsynced : (s.signal e 0).synced = true)
    (hfeed : s.feedLane e 0 = some l) (hframe : (s.signal e 0).frameAt = some n0) (hdone : (s.signal e 0).cifsDone < 4)
    (hnow : n0 + (dabOffset (cifSymbol ((s.signal e 0).cifsDone + 1)) : Nat) ≤ s.feedNow l s.now + 1) :
    ∃ f : SignalSt → SignalSt, exec (.cifDecoded e air) s = .next (cifOutputs s e l (cifReconfigured e (s.signal e 0) (s.setSignal e 0 f)))
      ∧ ∀ x, (f x).synced = x.synced ∧ (f x).cifsDone = x.cifsDone + 1 ∧ (f x).cifTotal = x.cifTotal + 1 ∧ (f x).reconfigAt = x.reconfigAt ∧ (f x).current = x.current := by
  have hgo : (s.engineRuns e .dab && (s.signal e 0).synced && decide ((s.signal e 0).cifsDone < 4)
      && decide (n0 + (dabOffset (cifSymbol ((s.signal e 0).cifsDone + 1)) : Nat) ≤ s.feedNow l s.now + 1)) = true := by
    rw [decide_eq_true hnow]
    simp [hruns, hsynced, hdone]
  change ∃ f : SignalSt → SignalSt, execCifDecoded e air s = _ ∧ _
  unfold execCifDecoded
  dsimp only
  rw [hfeed, hframe]
  exact ⟨_, onlyIf_of_true hgo, fun _ => ⟨rfl, rfl, rfl, rfl, rfl⟩⟩

theorem cifDecoded_counts {s : State} {e l : Nat} {n0 : Int} {air : Air} (hruns : s.engineRuns e .dab = true) (hsynced : (s.signal e 0).synced = true)
    (hfeed : s.feedLane e 0 = some l) (hframe : (s.signal e 0).frameAt = some n0) (hdone : (s.signal e 0).cifsDone < 4)
    (hnow : n0 + (dabOffset (cifSymbol ((s.signal e 0).cifsDone + 1)) : Nat) ≤ s.feedNow l s.now + 1) :
    ∃ t, exec (.cifDecoded e air) s = .next t ∧ Only [.ofdm, .audio, .link, .integ, .mb, .sec] s t
      ∧ (t.signal e 0).cifsDone = (s.signal e 0).cifsDone + 1 ∧ (t.signal e 0).cifTotal = (s.signal e 0).cifTotal + 1 ∧ (t.signal e 0).synced = true
      ∧ (∀ c, (s.signal e 0).frameCif = some c → (s.signal e 0).reconfigAt = some ((c + (s.signal e 0).cifsDone) % 5000) →
          (t.signal e 0).reconfigAt = none ∧ (t.signal e 0).reconfigSeen = true
          ∧ ∃ m, Raises s t .ensembleReconfig (engineDie e) [.w e, .w (0 : Nat), .w ((c + (s.signal e 0).cifsDone) % 5000 : Nat), .q m])
      ∧ ((∀ c, (s.signal e 0).frameCif = some c → (s.signal e 0).reconfigAt ≠ some ((c + (s.signal e 0).cifsDone) % 5000)) →
          (t.signal e 0).reconfigAt = (s.signal e 0).reconfigAt ∧ (t.signal e 0).current = (s.signal e 0).current) := by
  obtain ⟨f, hrun, hf⟩ := execCifDecoded_run (air := air) hruns hsynced hfeed hframe hdone hnow
  have honly := (execCifDecoded_frames e air s).onlyOf hrun
  obtain ⟨fsynced, fdone, ftotal, freconfig, fcurrent⟩ := hf (s.signal e 0)
  obtain ⟨u, hu⟩ : ∃ u, cifReconfigured e (s.signal e 0) (s.setSignal e 0 f) = u := ⟨_, rfl⟩
  rw [hu] at hrun honly
  have hset : (s.setSignal e 0 f).signal e 0 = f (s.signal e 0) := setSignal_self _ _ _ _
  have hcore := cifOutputs_core s e l u
  simp only [corePart, syncPart, Prod.mk.injEq] at hcore
  obtain ⟨⟨⟨osynced, -⟩, -, odone⟩, ototal, oreconfig, oseen, ocurrent⟩ := hcore
  have hsync : (u.signal e 0).cifsDone = (s.signal e 0).cifsDone + 1 ∧ (u.signal e 0).cifTotal = (s.signal e 0).cifTotal + 1 ∧ (u.signal e 0).synced = true := by
    have hplain : ∀ v : State, v = s.setSignal e 0 f → (v.signal e 0).cifsDone = (s.signal e 0).cifsDone + 1 ∧ (v.signal e 0).cifTotal = (s.signal e 0).cifTotal + 1 ∧ (v.signal e 0).synced = true := by
      rintro v rfl
      rw [hset]
      exact ⟨fdone, ftotal, fsynced.trans hsynced⟩
    rw [← hu]
    unfold cifReconfigured
    split
    · split
      · next c _ _ =>
        obtain ⟨hsame, htotal, -⟩ := reconfigure_signal e ((c + (s.signal e 0).cifsDone) % 5000) (s.setSignal e 0 f)
        simp only [syncPart, Prod.mk.injEq] at hsame
        obtain ⟨⟨rsynced, -⟩, -, rdone⟩ := hsame
        rw [rdone, htotal, rsynced]
        exact hplain _ rfl
      · exact hplain _ rfl
    · exact hplain _ rfl
  obtain ⟨udone, utotal, usynced⟩ := hsync
  refine ⟨_, hrun, honly.mono rfl, odone.trans udone, ototal.trans utotal, osynced.trans usynced, fun c hc hat => ?_, fun hnone => ?_⟩
  · have hrec : u = reconfigure e ((c + (s.signal e 0).cifsDone) % 5000) (s.setSignal e 0 f) := by
      rw [← hu, cifReconfigured, hc]
      exact if_pos hat
    obtain ⟨-, -, hreconfig, hseen, hraises⟩ := reconfigure_signal e ((c + (s.signal e 0).cifsDone) % 5000) (s.setSignal e 0 f)
    obtain ⟨m, hm⟩ := hraises (State.setSignal_only s e 0 f) rfl rfl rfl
    exact ⟨oreconfig.trans (hrec ▸ hreconfig), oseen.trans (hrec ▸ hseen), m, Raises.andThen (cifOutputs_only s e l u) rfl (hrec ▸ hm)⟩
  · have hplain : u = s.setSignal e 0 f := by
      rw [← hu]
      unfold cifReconfigured
      split
      · next c hc => exact if_neg (hnone c hc)
      · rfl
    rw [oreconfig, ocurrent, hplain, hset]
    exact ⟨freconfig, fcurrent⟩

/-! ### TII -/

/-- The combinations of a TII period that were not yet seen. -/
def tiiFresh (seen : List TiiSeen) (found : List TiiEntry) : List TiiEntry := found.filter fun x => !seen.any fun y => y.main == x.main && y.sub == x.sub

theorem tiiEvents_facts (e : Nat) (found : List TiiEntry) (u : State) :
    (∃ seen, (tiiEvents e found u).ofdm.engines.get e = { u.ofdm.engines.get e with tiiSeen := seen })
      ∧ ∀ s, Only [.ofdm] s u → ∀ y ∈ found, (∀ z ∈ (u.ofdm.engines.get e).tiiSeen, z.main = y.main → z.sub ≠ y.sub) →
        Raises s (tiiEvents e found u) .tiiNew (engineDie e) [.w e, .w y.main, .w y.sub, .w y.delay] := by
  have hraised : ∀ {α : Type} (n : EvName) (a : α → List EvArg) (xs : List α) (v : State),
      Only [.link, .integ, .sec] v (xs.foldl (fun acc x => raise n (engineDie e) (a x) acc) v) := fun n a xs v =>
    foldl_keep (fun w => Only [.link, .integ, .sec] v w) _ _ (fun w x hw => hw.trans (raise_only _ _ _ _)) v (Only.refl _ v)
  unfold tiiEvents
  dsimp only
  refine ⟨?_, fun s hs y hy hnew => ?_⟩
  · rw [setEngine_self, hraised _ _ _ _ .ofdm rfl, hraised _ _ _ _ .ofdm rfl]
    exact ⟨_, rfl⟩
  · have hfresh : y ∈ tiiFresh (u.ofdm.engines.get e).tiiSeen found := by
      refine List.mem_filter.mpr ⟨hy, ?_⟩
      simpa using hnew
    obtain ⟨-, hall⟩ := foldl_raises (fun _ => EvName.tiiNew) (fun _ => engineDie e) (fun x : TiiEntry => [EvArg.w e, .w x.main, .w x.sub, .w x.delay])
      (as := [.ofdm, .link, .integ, .sec]) rfl rfl rfl rfl rfl (tiiFresh (u.ofdm.engines.get e).tiiSeen found) u (hs.mono rfl)
    exact Raises.andThen (State.setEngine_only _ _ _) rfl (Raises.andThen (hraised _ _ _ _) rfl (hall y hfresh))

theorem tiiPeriodEnd_records {s : State} {e l : Nat} (hruns : s.engineRuns e .dab = true) (hon : (s.engineEntryAt e (s.ofdm.engines.get e).tii.doneAt).tiiOn = true)
    (hsynced : (s.signal e 0).synced = true) (hfeed : s.feedLane e 0 = some l)
    (hframes : (s.engineEntryAt e (s.ofdm.engines.get e).tii.doneAt).tiiFrames ≤ (s.ofdm.engines.get e).tii.frames) :
    ∃ t, exec (.tiiPeriodEnd e) s = .next t ∧ Only [.ofdm, .link, .integ, .sec] s t ∧ (t.ofdm.engines.get e).tii = {}
      ∧ (∃ r : EngineRec, (t.ofdm.engines.get e).side = (s.ofdm.engines.get e).side ++ [r] ∧ r.doneAt = (s.ofdm.engines.get e).tii.doneAt ∧ r.erased = (s.ofdm.engines.get e).tii.erased)
      ∧ (∀ y ∈ (s.engineEntryAt e (s.ofdm.engines.get e).tii.doneAt).tiiFound (s.ofdm.engines.get e).tii, y.snr.isSome = true →
          (∀ z ∈ (s.ofdm.engines.get e).tiiSeen, z.main = y.main → z.sub ≠ y.sub) → Raises s t .tiiNew (engineDie e) [.w e, .w y.main, .w y.sub, .w y.delay]) := by
  have hrun : ∃ r : EngineRec, exec (.tiiPeriodEnd e) s = .next (tiiEvents e (((s.engineEntryAt e (s.ofdm.engines.get e).tii.doneAt).tiiFound (s.ofdm.engines.get e).tii).filter fun z => z.snr.isSome)
      (addSide e [r] (s.setEngine e fun z => { z with tii := {} }))) ∧ r.doneAt = (s.ofdm.engines.get e).tii.doneAt ∧ r.erased = (s.ofdm.engines.get e).tii.erased := by
    change ∃ r : EngineRec, execTiiPeriodEnd e s = _ ∧ _
    unfold execTiiPeriodEnd
    dsimp only
    rw [hfeed]
    exact ⟨_, onlyIf_of_true (by rw [hruns, hon, hsynced, decide_eq_true hframes]; rfl), rfl, rfl⟩
  obtain ⟨r, hrun, hdone, herased⟩ := hrun
  have honly := (execTiiPeriodEnd_frames e s).onlyOf hrun
  have hside : (addSide e [r] (s.setEngine e fun z => { z with tii := {} })).ofdm.engines.get e
      = { s.ofdm.engines.get e with tii := {}, side := (s.ofdm.engines.get e).side ++ [r] } := by
    rw [addSide, setEngine_self, setEngine_self]
  obtain ⟨⟨seen, hself⟩, hraises⟩ := tiiEvents_facts e (((s.engineEntryAt e (s.ofdm.engines.get e).tii.doneAt).tiiFound (s.ofdm.engines.get e).tii).filter fun z => z.snr.isSome)
    (addSide e [r] (s.setEngine e fun z => { z with tii := {} }))
  refine ⟨_, hrun, honly.mono rfl, ?_, ⟨r, ?_, hdone, herased⟩, fun y hy hsnr hnew => hraises s ?_ y (List.mem_filter.mpr ⟨hy, hsnr⟩) ?_⟩
  · rw [hself, hside]
  · rw [hself, hside]
  · exact (State.setEngine_only _ _ _).trans (addSide_only _ _ _)
  · rw [hside]
    exact hnew

/-! ### DRM frames -/

theorem execDrmFrame_run {s : State} {e p l : Nat} {air : Air} (hruns : s.engineRuns e .drm = true)
    (hpos : (s.cfg.active.engines.get e).positions.contains p = true) (hfeed : s.feedLane e p = some l) :
    exec (.drmFrame e p air) s = .next (match (s.signal e p).synced, (s.signal e p).frameAt with
      | true, some f =>
        let (found, n0) := frameAfter f drmFrameLen ((s.drmTiming air e p l).1.present && decide ((s.drmTiming air e p l).1.mode = (s.signal e p).mode)) (s.drmTiming air e p l).2
        if !decide (n0 + (drmFrameLen : Nat) ≤ s.feedNow l s.now + 1) then s else
        let t := frameSync e p (s.feedInstant l (n0 + (drmFrameLen : Nat))) (found || s.drmErased l (s.signal e p).mode n0 0) s
        if (t.signal e p).synced then
          takeDrmFrame e p l air (if found then (s.drmTiming air e p l).1 else { (s.drmTiming air e p l).1 with mode := (s.signal e p).mode, offset := (s.signal e p).freqOffset }) n0 t
        else t
      | _, _ =>
        if (s.drmTiming air e p l).1.present && decide ((s.drmTiming air e p l).1.offset.natAbs ≤ (s.cfg.active.engines.get e).freqSearch * 10000)
          && decide ((s.drmTiming air e p l).2 + (drmFrameLen : Nat) ≤ s.feedNow l s.now + 1)
        then takeDrmFrame e p l air (s.drmTiming air e p l).1 (s.drmTiming air e p l).2 (frameSync e p 0 true s) else s) := by
  change execDrmFrame e p air s = _
  unfold execDrmFrame
  dsimp only
  rw [hfeed]
  exact onlyIf_of_true (by rw [hruns, hpos]; rfl)

theorem drmFrame_syncs {s : State} {e p l : Nat} {air : Air} (hruns : s.engineRuns e .drm = true)
    (hpos : (s.cfg.active.engines.get e).positions.contains p = true) (hfeed : s.feedLane e p = some l) :
    ((s.signal e p).synced = false →
      exec (.drmFrame e p air) s = .next (if (s.drmTiming air e p l).1.present = true ∧ (s.drmTiming air e p l).1.offset.natAbs ≤ (s.cfg.active.engines.get e).freqSearch * 10000
          ∧ (s.drmTiming air e p l).2 + (drmFrameLen : Nat) ≤ s.feedNow l s.now + 1
        then takeDrmFrame e p l air (s.drmTiming air e p l).1 (s.drmTiming air e p l).2 (frameSync e p 0 true s) else s))
    ∧ (∀ f n0 found, (s.signal e p).synced = true → (s.signal e p).frameAt = some f →
      frameAfter f drmFrameLen ((s.drmTiming air e p l).1.present && decide ((s.drmTiming air e p l).1.mode = (s.signal e p).mode)) (s.drmTiming air e p l).2 = (found, n0) →
      n0 + (drmFrameLen : Nat) ≤ s.feedNow l s.now + 1 → (s.signal e p).lostFrames < 2 ∨ (found || s.drmErased l (s.signal e p).mode n0 0) = true →
      exec (.drmFrame e p air) s = .next (takeDrmFrame e p l air
        (if found then (s.drmTiming air e p l).1 else { (s.drmTiming air e p l).1 with mode := (s.signal e p).mode, offset := (s.signal e p).freqOffset }) n0
        (frameSync e p (s.feedInstant l (n0 + (drmFrameLen : Nat))) (found || s.drmErased l (s.signal e p).mode n0 0) s))) := by
  have hrun := execDrmFrame_run (air := air) hruns hpos hfeed
  refine ⟨fun hs => ?_, fun f n0 found hs hf hafter hhere hkept => ?_⟩
  · rw [hrun, hs]
    simp only [Bool.and_eq_true, decide_eq_true_eq, and_assoc]
  · rw [hrun, hs, hf]
    simp only [hafter, decide_eq_true hhere, Bool.not_true, Bool.false_eq_true, if_false]
    rw [if_pos (frameSync_stays hs hkept)]

theorem reconfigureDrm_signal (e p n : Nat) (u : State) :
    syncPart ((reconfigureDrm e p n u).signal e p) = syncPart (u.signal e p)
      ∧ ∀ {s : State}, Only [.ofdm] s u → ∃ m, Raises s (reconfigureDrm e p n u) .ensembleReconfig (engineDie e) [.w e, .w p, .w n, .q m] := by
  unfold reconfigureDrm
  dsimp only
  rw [signal_of_ofdm (raise_only _ _ _ _ .ofdm rfl), setSignal_self]
  exact ⟨rfl, fun h => ⟨_, Raises.raise (h.trans (State.setSignal_only _ _ _ _)) rfl rfl _ _ _⟩⟩

/-- A taken DRM frame: the position's counts and place, a reconfiguration announced for it, its records and entries, its multiplex frame. -/
theorem takeDrmFrame_stages (e p l : Nat) (air : Air) (r : DrmTiming) (n0 : Int) (s : State) :
    ∃ done figs dn ct recs f, takeDrmFrame e p l air r n0 s = takeMultiplex e p l done (takeEntries e p figs dn ct (addSide e recs
        (if (s.signal e p).reconfigAt = some (s.signal e p).frameCount then reconfigureDrm e p (s.signal e p).frameCount (s.setSignal e p f) else s.setSignal e p f)))
      ∧ ∀ x, syncPart (f x) = ((x.synced, x.lostFrames, x.ctrlTotal + 1,
          x.ctrlFail + b2n (!facCrcOk (Config.drmFac r.mode (s.drmCells air l r.mode r.offset n0)).1)), some n0, x.cifsDone) := by
  unfold takeDrmFrame
  dsimp only
  exact ⟨_, _, _, _, _, _, rfl, fun _ => rfl⟩

theorem takeDrmFrame_counts {s : State} {e p l : Nat} {air : Air} {r : DrmTiming} {n0 : Int} :
    let t := takeDrmFrame e p l air r n0 s
    let ok := facCrcOk (Config.drmFac r.mode (s.drmCells air l r.mode r.offset n0)).1
    Only [.ofdm, .audio, .link, .integ, .mode, .domains, .mb, .sec] s t
    ∧ (t.signal e p).synced = (s.signal e p).synced ∧ (t.signal e p).lostFrames = (s.signal e p).lostFrames ∧ (t.signal e p).frameAt = some n0
    ∧ (t.signal e p).ctrlTotal = (s.signal e p).ctrlTotal + 1 ∧ (t.signal e p).ctrlFail = (s.signal e p).ctrlFail + (if ok then 0 else 1)
    ∧ ((s.signal e p).reconfigAt = some (s.signal e p).frameCount → ∃ m, Raises s t .ensembleReconfig (engineDie e) [.w e, .w p, .w (s.signal e p).frameCount, .q m]) := by
  have honly := takeDrmFrame_only e p l air r n0 s
  obtain ⟨done, figs, dn, ct, recs, f, heq, hf⟩ := takeDrmFrame_stages e p l air r n0 s
  obtain ⟨u, hu⟩ : ∃ u, (if (s.signal e p).reconfigAt = some (s.signal e p).frameCount then reconfigureDrm e p (s.signal e p).frameCount (s.setSignal e p f) else s.setSignal e p f) = u := ⟨_, rfl⟩
  rw [hu] at heq
  have hsignal : syncPart (u.signal e p) = syncPart (f (s.signal e p)) := by
    have hset : syncPart ((s.setSignal e p f).signal e p) = syncPart (f (s.signal e p)) := congrArg syncPart (setSignal_self _ _ _ _)
    rw [← hu]
    split
    · exact (reconfigureDrm_signal _ _ _ _).1.trans hset
    · exact hset
  have hsync := (syncPart_of_core (takeMultiplex_core e p l done (takeEntries e p figs dn ct (addSide e recs u)))).trans
    ((takeEntries_sync e p figs dn ct (addSide e recs u)).trans (congrArg syncPart (addSide_signal e p recs u)))
  rw [← heq, hsignal, hf] at hsync
  simp only [syncPart, Prod.mk.injEq] at hsync
  obtain ⟨⟨hsynced, hlost, htotal, hfail⟩, hframe, -⟩ := hsync
  refine ⟨honly, hsynced, hlost, hframe, htotal, ?_, fun hat => ?_⟩
  · rw [hfail]
    cases facCrcOk (Config.drmFac r.mode (s.drmCells air l r.mode r.offset n0)).1 <;> rfl
  · rw [if_pos hat] at hu
    obtain ⟨m, hm⟩ := (reconfigureDrm_signal e p (s.signal e p).frameCount (s.setSignal e p f)).2 (State.setSignal_only s e p f)
    refine ⟨m, ?_⟩
    rw [heq, ← hu]
    exact Raises.andThen (takeMultiplex_only _ _ _ _ _) rfl (Raises.andThen (takeEntries_only _ _ _ _ _ _) rfl (Raises.andThen (addSide_only _ _ _) rfl hm))

/-! ### A missing feed -/

theorem feedMissing_restarts {s : State} {e p l : Nat} (he : e < s.dies * 4) (hdie : s.dieRuns (engineDie e) = true)
    (hpos : (s.cfg.active.engines.get e).positions.contains p = true) (hfeed : s.feedLane e p = some l)
    (hgone : s.feedGone l (s.signal e p) = true) :
    ∃ t, exec (.feedMissingTimeout e p) s = .next t ∧ Only [.ofdm, .link, .integ, .mode, .domains, .sec] s t
      ∧ (t.signal e p).synced = false ∧ (t.signal e p).restartSeen = true ∧ (t.signal e p).acqFrom = s.feedAhead e p ∧ (t.ofdm.engines.get e).restarts = (s.ofdm.engines.get e).restarts + 1
      ∧ ((s.signal e p).synced = true → Raises s t .ofdmSyncLost (engineDie e) [.w e, .w p]) ∧ ∀ i, i ≠ e → t.ofdm.engines.get i = s.ofdm.engines.get i := by
  obtain ⟨hsignal, hcount, hother, hraises⟩ := restartSignal_facts e p (s.feedAhead e p) s
  refine ⟨_, onlyIf_of_true (by simp only [hfeed, hdie, hpos, hgone, decide_eq_true he, Bool.and_self]), restartSignal_only _ _ _ _, ?_, ?_, ?_, hcount, hraises, hother⟩
  all_goals
    unfold restartHere
    rw [hsignal]

/-- Settles O30: each clause by the rule of its frame, period or feed above. -/
theorem ofdmReception : Obligations.OfdmReception :=
  ⟨fun _ _ _ _ => dabFrame_syncs, fun _ _ _ _ => frameSync_rules, fun _ _ _ _ _ _ => takeDabFrame_counts, fun _ _ _ _ _ => cifDecoded_counts, fun _ _ _ => tiiPeriodEnd_records,
    fun _ _ _ _ _ => drmFrame_syncs, fun _ _ _ _ _ _ _ => takeDrmFrame_counts, fun _ _ _ _ => feedMissing_restarts⟩

end Sys2Proof.Machine
end

section
/-!
PROOFS. Records of the engines and the check of engines against one another (06 R187 to R195, 14 R375).
-/
namespace Sys2Proof.Machine

/-! ### Record spans and measurement periods -/

theorem execEngineRecordSpanEnd_run {s : State} {e : Nat} {late : Bool} (he : e < s.dies * 4) (hon : (s.cfg.active.engines.get e).cls ≠ .off)
    (hup : s.dieUp (engineDie e) = true) (hm : s.mode.mode ≠ .idle) (hspan : (s.ofdm.engines.get e).spanTo < s.engineSpanEnd e)
    (hready : s.engineUnserved e = true ∨ s.engineCaughtUp e (s.engineSpanEnd e) = true) :
    ∃ sel side units b c, exec (.engineRecordSpanEnd e late) s = .next (formRecordBlocks .accessUnits sel 65536 ((sortRecs units).map (·.bytes)) b
      (formRecordBlocks .sideData sel 65536 ((sortRecs side).map (·.bytes)) c
        (recNotes e (s.engineSpanEnd e - 10000000) .au units (recNotes e (s.engineSpanEnd e - 10000000) .side side (s.setEngine e fun z =>
          { z with side := z.side.filter (fun r => !decide (r.doneAt < s.engineSpanEnd e)), units := z.units.filter (fun r => !decide (r.doneAt < s.engineSpanEnd e))
                   spanTo := s.engineSpanEnd e }))))) := by
  have hidle : (s.mode.mode != .idle) = true := bne_iff_ne.mpr hm
  have hgo : (decide (e < s.dies * 4) && decide ((s.cfg.active.engines.get e).cls ≠ .off) && s.dieUp (engineDie e) && s.mode.mode != .idle
      && decide ((s.ofdm.engines.get e).spanTo < s.engineSpanEnd e) && (s.engineUnserved e || s.engineCaughtUp e (s.engineSpanEnd e))) = true := by
    rw [decide_eq_true hspan, hidle, hup, decide_eq_true hon, decide_eq_true he]
    rcases hready with h | h <;> simp [h]
  change ∃ sel side units b c, execEngineRecordSpanEnd e late s = _
  unfold execEngineRecordSpanEnd
  exact ⟨_, _, _, _, _, onlyIf_of_true hgo⟩

theorem engineSpan_delivers {s : State} {e : Nat} {late : Bool} (he : e < s.dies * 4) (hon : (s.cfg.active.engines.get e).cls ≠ .off)
    (hup : s.dieUp (engineDie e) = true) (hm : s.mode.mode ≠ .idle) (hspan : (s.ofdm.engines.get e).spanTo < s.engineSpanEnd e)
    (hready : s.engineUnserved e = true ∨ s.engineCaughtUp e (s.engineSpanEnd e) = true) :
    ∃ t, exec (.engineRecordSpanEnd e late) s = .next t ∧ Only [.ofdm, .link, .sec] s t
      ∧ (t.ofdm.engines.get e).side = (s.ofdm.engines.get e).side.filter (fun r => decide (s.engineSpanEnd e ≤ r.doneAt))
      ∧ (t.ofdm.engines.get e).units = (s.ofdm.engines.get e).units.filter (fun r => decide (s.engineSpanEnd e ≤ r.doneAt))
      ∧ (t.ofdm.engines.get e).spanTo = s.engineSpanEnd e
      ∧ (t.ofdm.engines.get e).signals = (s.ofdm.engines.get e).signals ∧ ∀ i, i ≠ e → t.ofdm.engines.get i = s.ofdm.engines.get i := by
  obtain ⟨sel, side, units, b, c, hrun⟩ := execEngineRecordSpanEnd_run (late := late) he hon hup hm hspan hready
  have honly := (execEngineRecordSpanEnd_frames e late s).onlyOf hrun
  obtain ⟨t1, ht1⟩ : ∃ t1, s.engineSpanEnd e = t1 := ⟨_, rfl⟩
  rw [ht1] at hrun honly ⊢
  have hlater : ∀ rs : List EngineRec, rs.filter (fun r => !decide (r.doneAt < t1)) = rs.filter fun r => decide (t1 ≤ r.doneAt) := fun rs => by
    simp only [← decide_not, Nat.not_lt]
  refine ⟨_, hrun, honly.mono rfl, ?_⟩
  rw [formRecordBlocks_only _ _ _ _ _ _ .ofdm rfl, formRecordBlocks_only _ _ _ _ _ _ .ofdm rfl, recNotes_only _ _ _ _ _ .ofdm rfl, recNotes_only _ _ _ _ _ .ofdm rfl, setEngine_self]
  exact ⟨hlater _, hlater _, rfl, rfl, fun i hi => setEngine_ne _ _ _ hi⟩

theorem endPeriod_clears {x : SignalSt} :
    x.endPeriod.ctrlTotal = 0 ∧ x.endPeriod.ctrlFail = 0 ∧ x.endPeriod.sdcTotal = 0 ∧ x.endPeriod.berBits = 0 ∧ x.endPeriod.merSum = (0, 0)
    ∧ x.endPeriod.synced = x.synced ∧ x.endPeriod.current = x.current ∧ ∀ y ∈ x.endPeriod.subs, y.auTotal = 0 ∧ y.auFail = 0 ∧ y.rsFail = 0 := by
  refine ⟨rfl, rfl, rfl, rfl, rfl, rfl, rfl, fun y hy => ?_⟩
  obtain ⟨z, -, rfl⟩ := List.mem_map.mp hy
  exact ⟨rfl, rfl, rfl⟩

/-- A fold that changes the position of each index of a list by `g`, once. -/
theorem foldl_setSignal {e : Nat} {g : SignalSt → SignalSt} {f : State → Nat → State} (hf : ∀ u k, (f u k).ofdm = (u.setSignal e k g).ofdm) :
    ∀ (ks : List Nat) (u : State), ks.Nodup → ((ks.foldl f u).ofdm.engines.get e).measuredTo = (u.ofdm.engines.get e).measuredTo
      ∧ (∀ k ∈ ks, (ks.foldl f u).signal e k = g (u.signal e k)) ∧ ∀ k, k ∉ ks → (ks.foldl f u).signal e k = u.signal e k := by
  intro ks
  induction ks with
  | nil => exact fun u _ => ⟨rfl, fun _ hk => absurd hk List.not_mem_nil, fun _ _ => rfl⟩
  | cons a ks ih =>
    intro u hnodup
    obtain ⟨ha, hrest⟩ := List.nodup_cons.mp hnodup
    obtain ⟨hto, hin, hout⟩ := ih (f u a) hrest
    have hother : ∀ k, k ≠ a → (f u a).signal e k = u.signal e k := fun k hk => (signal_of_ofdm (hf u a) e k).trans (setSignal_ne u e a g hk)
    have hself : (f u a).signal e a = g (u.signal e a) := (signal_of_ofdm (hf u a) e a).trans (setSignal_self u e a g)
    rw [List.foldl_cons]
    refine ⟨?_, fun k hk => ?_, fun k hk => ?_⟩
    · rw [hto, hf u a, State.setSignal, setEngine_self]
    · rcases List.mem_cons.mp hk with rfl | hk
      · rw [hout k ha, hself]
      · rw [hin k hk, hother k fun h => ha (h ▸ hk)]
    · obtain ⟨hka, hk⟩ := not_or.mp fun h => hk (List.mem_cons.mpr h)
      rw [hout k hk, hother k hka]

theorem execEngineMeasPeriodEnd_run {s : State} {e : Nat} {air : Air} {late : Bool} (he : e < s.dies * 4) (hon : (s.cfg.active.engines.get e).cls ≠ .off)
    (hup : s.dieUp (engineDie e) = true) (hspan : (s.ofdm.engines.get e).measuredTo < s.engineMeasEnd e)
    (hready : s.engineUnserved e = true ∨ s.engineCaughtUp e (s.engineMeasEnd e) = true) :
    ∃ sel b, ∃ x : Nat → HallNote, exec (.engineMeasPeriodEnd e air late) s = .next (formRouted .measurement sel b
      ((if s.engineUnserved e then [] else (s.cfg.active.engines.get e).positions).foldl (fun acc k => note (x k) (acc.setSignal e k SignalSt.endPeriod))
        (s.setEngine e fun z => { z with measuredTo := s.engineMeasEnd e }))) := by
  have hgo : (decide (e < s.dies * 4) && decide ((s.cfg.active.engines.get e).cls ≠ .off) && s.dieUp (engineDie e)
      && decide ((s.ofdm.engines.get e).measuredTo < s.engineMeasEnd e) && (s.engineUnserved e || s.engineCaughtUp e (s.engineMeasEnd e))) = true := by
    rw [decide_eq_true hspan, hup, decide_eq_true hon, decide_eq_true he]
    rcases hready with h | h <;> simp [h]
  change ∃ sel b, ∃ x : Nat → HallNote, execEngineMeasPeriodEnd e air late s = _
  unfold execEngineMeasPeriodEnd
  exact ⟨_, _, _, onlyIf_of_true hgo⟩

theorem enginePeriod_delivers {s : State} {e : Nat} {air : Air} {late : Bool} (he : e < s.dies * 4) (hon : (s.cfg.active.engines.get e).cls ≠ .off)
    (hup : s.dieUp (engineDie e) = true) (hspan : (s.ofdm.engines.get e).measuredTo < s.engineMeasEnd e)
    (hready : s.engineUnserved e = true ∨ s.engineCaughtUp e (s.engineMeasEnd e) = true) :
    ∃ t, exec (.engineMeasPeriodEnd e air late) s = .next t ∧ Only [.ofdm, .link, .sec] s t ∧ (t.ofdm.engines.get e).measuredTo = s.engineMeasEnd e
      ∧ (s.engineUnserved e = false → ∀ k ∈ (s.cfg.active.engines.get e).positions, t.signal e k = (s.signal e k).endPeriod)
      ∧ (∀ k, (s.engineUnserved e = true ∨ k ∉ (s.cfg.active.engines.get e).positions) → t.signal e k = s.signal e k) := by
  obtain ⟨sel, b, x, hrun⟩ := execEngineMeasPeriodEnd_run (air := air) (late := late) he hon hup hspan hready
  have honly := (execEngineMeasPeriodEnd_frames e air late s).onlyOf hrun
  obtain ⟨t1, ht1⟩ : ∃ t1, s.engineMeasEnd e = t1 := ⟨_, rfl⟩
  obtain ⟨ks, hks⟩ : ∃ ks, (if s.engineUnserved e = true then [] else (s.cfg.active.engines.get e).positions) = ks := ⟨_, rfl⟩
  rw [ht1, hks] at hrun honly
  rw [ht1]
  have hnodup : ks.Nodup := by
    rw [← hks]
    split
    · exact List.nodup_nil
    · exact List.nodup_range.filter _
  have hset : ∀ k, (s.setEngine e fun z => { z with measuredTo := t1 }).signal e k = s.signal e k := fun k => signal_setEngine s e 0 k _ fun _ => rfl
  obtain ⟨hto, hin, hout⟩ := foldl_setSignal (e := e) (g := SignalSt.endPeriod) (f := fun acc k => note (x k) (acc.setSignal e k SignalSt.endPeriod))
    (fun u k => note_only _ _ .ofdm rfl) ks (s.setEngine e fun z => { z with measuredTo := t1 }) hnodup
  have hformed := formRouted_only .measurement sel b (ks.foldl (fun acc k => note (x k) (acc.setSignal e k SignalSt.endPeriod)) (s.setEngine e fun z => { z with measuredTo := t1 })) .ofdm rfl
  refine ⟨_, hrun, honly.mono rfl, ?_, fun hserved k hk => ?_, fun k hk => ?_⟩
  · rw [hformed, hto, setEngine_self]
  · rw [hserved, if_neg Bool.false_ne_true] at hks
    rw [signal_of_ofdm hformed, hin k (hks ▸ hk), hset]
  · have hk : k ∉ ks := by
      rw [← hks]
      rcases hk with h | h
      · rw [if_pos h]
        exact List.not_mem_nil
      · split
        · exact List.not_mem_nil
        · exact h
    rw [signal_of_ofdm hformed, hout k hk, hset]

/-! ### The cross-assay -/

theorem crossAssayWindow_begins {s : State} {d p : Nat} (hassays : s.crossAssays d p = true) (hchecks : s.checksPartner d p = true)
    (hn : s.now % 100000000 = windowAt p) :
    ∃ t, exec (.crossAssayWindow d p) s = .next t ∧ Only [.ofdm] s t
      ∧ t.ofdm.regions.get (d * 2 + p / 2) = { s.ofdm.regions.get (d * 2 + p / 2) with
          checking := some (p, s.now), copy := some (s.ofdm.engines.get (s.indexOfPhys d (partnerOf p))), difference := none }
      ∧ t.ofdm.engines = s.ofdm.engines ∧ ∀ g, g ≠ d * 2 + p / 2 → t.ofdm.regions.get g = s.ofdm.regions.get g := by
  have hat : decide (s.now % countsPerSecond = windowAt p) = true := decide_eq_true hn
  exact ⟨_, onlyIf_of_true (by rw [hassays, hchecks, hat]; rfl), State.setRegion_only _ _ _, setRegion_self _ _ _, (State.setRegion_beside _ _ _).1, fun g hg => State.setRegion_of_ne _ _ _ hg⟩

theorem execCrossAssayCompareEnd_guard {s : State} {d region start : Nat} (hd : d < s.dies) (hdie : s.dieRuns d = true) (hregion : region < 2) (hnow : start + 2400000 ≤ s.now) :
    (decide (d < s.dies) && s.dieRuns d && decide (region < 2) && decide (start + 2400000 ≤ s.now)) = true := by
  rw [decide_eq_true hnow, decide_eq_true hregion, decide_eq_true hd, hdie]
  rfl

theorem crossAssay_compares {s : State} {d region p start : Nat} {differs : Bool} (hd : d < s.dies) (hdie : s.dieRuns d = true) (hregion : region < 2)
    (hchecking : (s.ofdm.regions.get (d * 2 + region)).checking = some (p, start)) (hnow : start + 2400000 ≤ s.now)
    (hrestore : (s.ofdm.regions.get (d * 2 + region)).restore = none) :
    ∃ t, exec (.crossAssayCompareEnd d region differs) s = .next t ∧ Only [.ofdm] s t
      ∧ (t.ofdm.regions.get (d * 2 + region)).checking = none ∧ (t.ofdm.regions.get (d * 2 + region)).copy = none
      ∧ (differs = true → (t.ofdm.regions.get (d * 2 + region)).difference = some ⟨p, partnerOf p, start⟩ ∧ t.ofdm.phys = s.ofdm.phys)
      ∧ (differs = false → (t.ofdm.phys.get (d * 4 + partnerOf p)).lastCheckTick = tick32 s.now ∧ (t.ofdm.regions.get (d * 2 + region)).difference = (s.ofdm.regions.get (d * 2 + region)).difference) := by
  have hrun : exec (.crossAssayCompareEnd d region differs) s = .next
      (let t := s.setRegion (d * 2 + region) fun x => { x with checking := none, copy := none }
       if differs then t.setRegion (d * 2 + region) fun x => { x with difference := some ⟨p, partnerOf p, start⟩ }
       else t.setPhys d (partnerOf p) fun y => { y with lastCheckTick := tick32 s.now }) := by
    change execCrossAssayCompareEnd d region differs s = _
    unfold execCrossAssayCompareEnd
    dsimp only
    rw [hchecking, hrestore]
    exact onlyIf_of_true (execCrossAssayCompareEnd_guard hd hdie hregion hnow)
  have hset := s.setRegion_only (d * 2 + region) fun x => { x with checking := none, copy := none }
  cases differs with
  | true =>
    refine ⟨_, hrun, hset.trans (State.setRegion_only _ _ _), ?_, ?_, fun _ => ⟨?_, rfl⟩, fun h => absurd h.symm Bool.false_ne_true⟩
    all_goals
      dsimp only
      rw [if_pos rfl, setRegion_self]
    all_goals rw [setRegion_self]
  | false =>
    refine ⟨_, hrun, hset.trans (State.setPhys_only _ _ _ _), ?_, ?_, fun h => absurd h Bool.false_ne_true, fun _ => ⟨congrArg PhysEngine.lastCheckTick (Tbl.get_modify_self _ _ _), ?_⟩⟩
    · exact congrArg RegionSt.checking (setRegion_self _ _ _)
    · exact congrArg RegionSt.copy (setRegion_self _ _ _)
    · refine (congrArg RegionSt.difference (setRegion_self s (d * 2 + region) fun x => { x with checking := none, copy := none })).trans ?_
      rfl

theorem partnerOf_half {p : Nat} : partnerOf p / 2 = p / 2 := by
  unfold partnerOf
  split <;> omega

theorem crossAssay_endsRestore {s : State} {d p start : Nat} {differs : Bool} (hd : d < s.dies) (hdie : s.dieRuns d = true) (hp : p < 4)
    (hchecking : (s.ofdm.regions.get (d * 2 + p / 2)).checking = some (p, start)) (hnow : start + 2400000 ≤ s.now)
    (hrestore : (s.ofdm.regions.get (d * 2 + p / 2)).restore = some (partnerOf p, true)) :
    ∃ t, exec (.crossAssayCompareEnd d (p / 2) differs) s = .next t ∧ Only [.spans, .ofdm, .link, .integ, .mode, .mb, .sec, .nv, .retirement, .modeCode] s t
      ∧ (t.ofdm.regions.get (d * 2 + p / 2)).restore = none
      ∧ (differs = false → t.retired (engineRef d (partnerOf p)) = false)
      ∧ (differs = true → t.nv = s.nv ∧ Raises s t .engineRestored d [.w (0xFFFFFFFF : Nat)]) := by
  have hrun : exec (.crossAssayCompareEnd d (p / 2) differs) s = .next
      (endEngineRestore d (partnerOf p) (!differs) (s.setRegion (d * 2 + p / 2) fun x => { x with checking := none, copy := none })) := by
    change execCrossAssayCompareEnd d (p / 2) differs s = _
    unfold execCrossAssayCompareEnd
    dsimp only
    rw [hchecking, hrestore]
    exact (onlyIf_of_true (execCrossAssayCompareEnd_guard hd hdie (by omega) hnow)).trans (congrArg Host.Outcome.next (if_pos rfl))
  have hset := s.setRegion_only (d * 2 + p / 2) fun x => { x with checking := none, copy := none }
  obtain ⟨hended, hback, hkept⟩ := endEngineRestore_facts d (partnerOf p) (!differs) (s.setRegion (d * 2 + p / 2) fun x => { x with checking := none, copy := none })
  rw [partnerOf_half] at hended
  refine ⟨_, hrun, (hset.mono rfl).trans (endEngineRestore_only _ _ _ _), hended, fun h => hback (by rw [h]; rfl), fun h => ?_⟩
  obtain ⟨hnv, l, q, hevents, hraised⟩ := hkept (by rw [h]; rfl)
  exact ⟨hnv, l, q, hevents, hraised⟩

/-! ### Vectors -/

theorem execEngineKatVectors_run {s : State} {d p : Nat} {failed : List EngineUnit} (hd : d < s.dies) (hp : p < 4) (hdie : s.dieRuns d = true) :
    exec (.engineKatVectors d p failed) s = .next
      (if (s.ofdm.regions.get (d * 2 + p / 2)).restore = some (p, false) then
         (if failed.isEmpty then s.setRegion (d * 2 + p / 2) fun x => { x with restore := some (p, true) } else endEngineRestore d p false s)
       else if !s.crossAssays d p || decide (s.now / countsPerSecond < (s.ofdm.phys.get (d * 4 + p)).katNext) then s
       else
         let t := s.setPhys d p fun y => { y with katNext := s.now / countsPerSecond + 1 }
         if !failed.isEmpty && (s.ofdm.regions.get (d * 2 + p / 2)).difference.isNone then t.setRegion (d * 2 + p / 2) fun x => { x with difference := some ⟨partnerOf p, p, t.now⟩ } else t) :=
  onlyIf_of_true (by rw [decide_eq_true hd, decide_eq_true hp, hdie]; rfl)

theorem engineVectors_endRestore {s : State} {d p : Nat} {failed : List EngineUnit} (hd : d < s.dies) (hp : p < 4) (hdie : s.dieRuns d = true)
    (hrestore : (s.ofdm.regions.get (d * 2 + p / 2)).restore = some (p, false)) :
    ∃ t, exec (.engineKatVectors d p failed) s = .next t
      ∧ (failed = [] → Only [.ofdm] s t ∧ t.ofdm.regions.get (d * 2 + p / 2) = { s.ofdm.regions.get (d * 2 + p / 2) with restore := some (p, true) })
      ∧ (failed ≠ [] → t.nv = s.nv ∧ (t.ofdm.regions.get (d * 2 + p / 2)).restore = none ∧ Raises s t .engineRestored d [.w (0xFFFFFFFF : Nat)]) := by
  have hrun := (execEngineKatVectors_run (failed := failed) hd hp hdie).trans (congrArg Host.Outcome.next (if_pos hrestore))
  cases failed with
  | nil => exact ⟨_, hrun, fun _ => ⟨State.setRegion_only _ _ _, setRegion_self _ _ _⟩, fun h => absurd rfl h⟩
  | cons x xs =>
    obtain ⟨hended, -, hkept⟩ := endEngineRestore_facts d p false s
    obtain ⟨hnv, hraised⟩ := hkept rfl
    exact ⟨endEngineRestore d p false s, hrun.trans (congrArg Host.Outcome.next (if_neg Bool.false_ne_true)), fun h => absurd h (List.cons_ne_nil _ _), fun _ => ⟨hnv, hended, hraised⟩⟩

theorem engineVectors_differ {s : State} {d p : Nat} {failed : List EngineUnit} (hd : d < s.dies) (hp : p < 4) (hdie : s.dieRuns d = true)
    (hrestore : (s.ofdm.regions.get (d * 2 + p / 2)).restore = none) (hassays : s.crossAssays d p = true)
    (hdue : (s.ofdm.phys.get (d * 4 + p)).katNext ≤ s.now / 100000000) (hnone : (s.ofdm.regions.get (d * 2 + p / 2)).difference = none) :
    ∃ t, exec (.engineKatVectors d p failed) s = .next t ∧ Only [.ofdm] s t ∧ (t.ofdm.phys.get (d * 4 + p)).katNext = s.now / 100000000 + 1
      ∧ (t.ofdm.regions.get (d * 2 + p / 2)).difference = (if failed = [] then none else some ⟨partnerOf p, p, s.now⟩) := by
  have hlate : (!s.crossAssays d p || decide (s.now / countsPerSecond < (s.ofdm.phys.get (d * 4 + p)).katNext)) = false := by
    have hnot : decide (s.now / countsPerSecond < (s.ofdm.phys.get (d * 4 + p)).katNext) = false := decide_eq_false (Nat.not_lt.mpr hdue)
    rw [hassays, hnot]
    rfl
  have hrun := execEngineKatVectors_run (failed := failed) hd hp hdie
  rw [hrestore, hlate, hnone] at hrun
  have hset := s.setPhys_only d p fun y => { y with katNext := s.now / countsPerSecond + 1 }
  cases failed with
  | nil => exact ⟨_, hrun, hset, congrArg PhysEngine.katNext (Tbl.get_modify_self _ _ _), hnone⟩
  | cons x xs => exact ⟨_, hrun, hset.trans (State.setRegion_only _ _ _), congrArg PhysEngine.katNext (Tbl.get_modify_self _ _ _), congrArg RegionSt.difference (setRegion_self _ _ _)⟩

theorem execEngineDifferenceResolved_run {s : State} {d region : Nat} {f : EngineDiff} {cf pf : List EngineUnit} {rd : Bool} (hd : d < s.dies) (hdie : s.dieRuns d = true)
    (hregion : region < 2) (hdiff : (s.ofdm.regions.get (d * 2 + region)).difference = some f) :
    exec (.engineDifferenceResolved d region cf pf rd) s = .next
      (let t := s.setRegion (d * 2 + region) fun x => { x with difference := none }
       if cf.isEmpty && pf.isEmpty then
         (if rd then chargeEngine d f.checker f.checker f.window t else chargeEngine d f.partner f.checker f.window t)
       else
         let t := if cf.isEmpty then t else chargeEngine d f.checker f.partner f.window t
         if pf.isEmpty then t else chargeEngine d f.partner f.checker f.window t) := by
  change execEngineDifferenceResolved d region cf pf rd s = _
  unfold execEngineDifferenceResolved
  dsimp only
  rw [hdiff]
  exact onlyIf_of_true (by rw [decide_eq_true hd, decide_eq_true hregion, hdie]; rfl)

theorem engineDifference_charges {s : State} {d region : Nat} {f : EngineDiff} {cf pf : List EngineUnit} {rd : Bool} (hd : d < s.dies) (hdie : s.dieRuns d = true)
    (hregion : region < 2) (hdiff : (s.ofdm.regions.get (d * 2 + region)).difference = some f) (hchecker : s.retired (engineRef d f.checker) = false)
    (hpartner : s.retired (engineRef d f.partner) = false) :
    ∃ t, exec (.engineDifferenceResolved d region cf pf rd) s = .next t ∧ Only [.spans, .ofdm, .link, .integ, .mode, .domains, .sec, .nv, .modeCode] s t
      ∧ (cf ≠ [] → Raises s t .engineMismatch d [.w (d * 4 + f.checker), .w (d * 4 + f.partner), .q f.window])
      ∧ (cf = [] → pf ≠ [] → Raises s t .engineMismatch d [.w (d * 4 + f.partner), .w (d * 4 + f.checker), .q f.window])
      ∧ (cf = [] → pf = [] → rd = true → Raises s t .engineMismatch d [.w (d * 4 + f.checker), .w (d * 4 + f.checker), .q f.window])
      ∧ (cf = [] → pf = [] → rd = false → Raises s t .engineMismatch d [.w (d * 4 + f.partner), .w (d * 4 + f.checker), .q f.window]) := by
  have hrun := execEngineDifferenceResolved_run (cf := cf) (pf := pf) (rd := rd) hd hdie hregion hdiff
  have honly := (execEngineDifferenceResolved_frames d region cf pf rd s).onlyOf hrun
  have hset := s.setRegion_only (d * 2 + region) fun x => { x with difference := none }
  have hcharge : ∀ {p c : Nat}, s.retired (engineRef d p) = false → Raises s (chargeEngine d p c f.window (s.setRegion (d * 2 + region) fun x => { x with difference := none }))
      .engineMismatch d [.w (d * 4 + p), .w (d * 4 + c), .q f.window] := fun h => chargeEngine_raises d _ _ _ hset rfl rfl h
  refine ⟨_, hrun, honly.mono rfl, fun hcf => ?_, fun hcf hpf => ?_, fun hcf hpf hrd => ?_, fun hcf hpf hrd => ?_⟩
  · obtain ⟨c, cs, rfl⟩ := List.exists_cons_of_ne_nil hcf
    cases pf with
    | nil => exact hcharge hchecker
    | cons x xs => exact Raises.andThen (chargeEngine_only _ _ _ _ _) rfl (hcharge hchecker)
  · obtain ⟨x, xs, rfl⟩ := List.exists_cons_of_ne_nil hpf
    subst hcf
    exact hcharge hpartner
  · subst hcf hpf hrd
    exact hcharge hchecker
  · subst hcf hpf hrd
    exact hcharge hpartner

/-- Settles O31: each clause by the rule of its span, period, window or vector above. -/
theorem engineChecks : Obligations.EngineChecks :=
  ⟨fun _ _ _ => engineSpan_delivers, fun _ _ _ _ => enginePeriod_delivers, fun _ => endPeriod_clears, fun _ _ _ => crossAssayWindow_begins, fun _ _ _ _ _ _ => crossAssay_compares,
    fun _ _ _ _ _ => crossAssay_endsRestore, fun _ _ _ _ => engineVectors_endRestore, fun _ _ _ _ => engineVectors_differ, fun _ _ _ _ _ _ _ => engineDifference_charges⟩

end Sys2Proof.Machine
end

section
/-!
PROOFS. Follow sets: periods, delay estimates, fades, candidate dwells, lapses, records (07 R204 to R223).
-/
namespace Sys2Proof.Machine

/-! ### What the operations of a period leave of a set -/

/-- The set `f` has ended its periods up to `n`. -/
structure FollowPeriod (f n : Nat) (u : State) : Prop where
  to_ : (u.audio.follows.get f).periodTo = n

theorem FollowPeriod.ofFollows {f n : Nat} {u v : State} (h : FollowPeriod f n u) (hv : v.audio.follows = u.audio.follows) : FollowPeriod f n v :=
  ⟨by rw [hv]; exact h.to_⟩

theorem FollowPeriod.of {f n : Nat} {u v : State} (h : FollowPeriod f n u) (hv : v.audio = u.audio) : FollowPeriod f n v := h.ofFollows (congrArg AudioSt.follows hv)

theorem FollowPeriod.set {f n : Nat} {u : State} (h : FollowPeriod f n u) (q : FollowSt → FollowSt) (hq : ∀ x, (q x).periodTo = x.periodTo) :
    FollowPeriod f n (u.setFollow f q) :=
  ⟨by rw [State.setFollow_self, hq]; exact h.to_⟩

theorem FollowPeriod.ite {f n : Nat} {u v : State} {c : Prop} [Decidable c] (h : FollowPeriod f n u) (k : FollowPeriod f n v) : FollowPeriod f n (if c then u else v) := by
  split
  · exact h
  · exact k

theorem FollowPeriod.raise {f n : Nat} {u : State} (h : FollowPeriod f n u) (e o a) : FollowPeriod f n (Machine.raise e o a u) := h.of (raise_only _ _ _ _ .audio rfl)

theorem FollowPeriod.measureCand {f n : Nat} {u : State} (h : FollowPeriod f n u) (w : Nat) (c : Cand) : FollowPeriod f n (Machine.measureCand f w c u) := by
  unfold Machine.measureCand
  exact FollowPeriod.set (h.of ((retuneTap_only _ _ .audio rfl).trans (modActive_only _ _ .audio rfl))) _ fun _ => rfl

theorem FollowPeriod.assignTaps {f n : Nat} {u : State} (h : FollowPeriod f n u) : FollowPeriod f n (Machine.assignTaps f u) := by
  unfold Machine.assignTaps
  refine foldl_keep (FollowPeriod f n) _ _ (fun v w hv => ?_) _ (h.set _ fun _ => rfl)
  split
  · exact hv
  · split
    · exact hv.measureCand _ _
    · exact hv

/-- Aligning the standby changes its delay and what is said of its alignment, nothing else of any set. -/
theorem alignStandby_follows (f : Nat) (s : State) :
    (∃ ds al out, (alignStandby f s).audio.follows.get f = { s.audio.follows.get f with dStandby := ds, aligned := al, outRaised := out })
      ∧ ∀ i, i ≠ f → (alignStandby f s).audio.follows.get i = s.audio.follows.get i := by
  refine ⟨?_, (alignStandby_fields f s).2.2⟩
  unfold alignStandby
  dsimp only
  split
  · split
    · exact ⟨_, _, _, rfl⟩
    · split
      · exact ⟨_, _, _, State.setFollow_self _ _ _⟩
      · split
        · exact ⟨_, _, _, State.setFollow_self _ _ _⟩
        · rw [raise_only _ _ _ _ .audio rfl]
          exact ⟨_, _, _, State.setFollow_self _ _ _⟩
  · exact ⟨_, _, _, rfl⟩

theorem FollowPeriod.alignStandby {f n : Nat} {u : State} (h : FollowPeriod f n u) : FollowPeriod f n (Machine.alignStandby f u) := by
  obtain ⟨⟨ds, al, out, hself⟩, -⟩ := alignStandby_follows f u
  exact ⟨by rw [hself]; exact h.to_⟩

theorem FollowPeriod.noteReady {f n : Nat} {u : State} (h : FollowPeriod f n u) : FollowPeriod f n (Machine.noteReady f u) := h.set _ fun _ => rfl

theorem FollowPeriod.decideFade {f n : Nat} {u : State} (h : FollowPeriod f n u) (r : FadeReason) (a : Bool) : FollowPeriod f n (Machine.decideFade f r a u) := by
  unfold Machine.decideFade
  dsimp only
  split
  · refine FollowPeriod.ite ?_ (FollowPeriod.raise ?_ _ _ _)
    all_goals exact h.set _ fun _ => rfl
  · exact h.set _ fun _ => rfl

theorem FollowPeriod.applyRules {f n : Nat} {u : State} (h : FollowPeriod f n u) : FollowPeriod f n (Machine.applyRules f u) := by
  have hrule : ∀ v, FollowPeriod f n v → ∀ (m : Option FadeReason) (a b : Prop) [Decidable a] [Decidable b] (c : FadeReason → Prop) [∀ r, Decidable (c r)],
      FollowPeriod f n (match m with
        | some r => if a then v else if b then Machine.decideFade f r true v else if c r then Machine.decideFade f r false v else v
        | none => v.setFollow f fun x => { x with held := none }) := by
    intro v hv m a b _ _ c _
    cases m with
    | some r => exact FollowPeriod.ite hv (FollowPeriod.ite (hv.decideFade _ _) (FollowPeriod.ite (hv.decideFade _ _) hv))
    | none => exact hv.set _ fun _ => rfl
  have hneeds : ∀ (a b c : Prop) [Decidable a] [Decidable b] [Decidable c] n' o ar, FollowPeriod f n
      (if a then (if b then u.setFollow f fun x => { x with noStandby := true } else Machine.raise n' o ar (u.setFollow f fun x => { x with noStandby := true }))
       else if c then u else u.setFollow f fun x => { x with noStandby := false }) := by
    intro a b c _ _ _ n' o ar
    have hset : ∀ b : Bool, FollowPeriod f n (u.setFollow f fun x => { x with noStandby := b }) := fun b => h.set _ fun _ => rfl
    exact FollowPeriod.ite (FollowPeriod.ite (hset true) ((hset true).raise _ _ _)) (FollowPeriod.ite h (hset false))
  unfold Machine.applyRules
  dsimp only
  exact hrule _ (hneeds _ _ _ _ _ _) _ _ _ _

theorem FollowPeriod.tuneMember {f n : Nat} {u : State} (h : FollowPeriod f n u) (k freq typ : Nat) (trusted : Bool) (eid : Option Nat) (named : Option Ident) :
    FollowPeriod f n (Machine.tuneMember f k freq typ trusted eid named u) := by
  have hlane : ∀ v, FollowPeriod f n v → ∀ l c, FollowPeriod f n (retuneLane l (modActive c v)) := fun v hv l c =>
    hv.of ((retuneLane_only _ _ .audio rfl).trans (modActive_only _ _ .audio rfl))
  have hcontext : ∀ m : Option Nat, FollowPeriod f n (match m with
      | some c => u.setContext c fun _ => {}
      | none => u) := fun m => by cases m <;> exact ⟨h.to_⟩
  unfold Machine.tuneMember
  dsimp only
  split
  · exact h
  · refine FollowPeriod.of (u := State.setFollow _ f _) ?_ (seeUnits_only _ .audio rfl)
    refine FollowPeriod.set ?_ _ fun _ => rfl
    split
    · refine FollowPeriod.of ?_ (restartSignal_only _ _ _ _ .audio rfl)
      refine FollowPeriod.of ?_ (powerMask_only _ _ _ .audio rfl)
      exact FollowPeriod.of (hlane _ (hcontext _) _ _) (modActive_only _ _ .audio rfl)
    · exact hlane _ (hcontext _) _ _

theorem FollowPeriod.retuneStandby {f n : Nat} {u : State} (h : FollowPeriod f n u) (k : Nat) (c : Cand) (trial : Bool) : FollowPeriod f n (Machine.retuneStandby f k c trial u) := by
  have htuned := h.tuneMember k c.freq c.typ c.trusted c.eid c.named
  unfold Machine.retuneStandby
  dsimp only
  refine FollowPeriod.raise ?_ _ _ _
  exact htuned.set _ fun _ => rfl

theorem FollowPeriod.rankStandby {f n : Nat} {u : State} (h : FollowPeriod f n u) : FollowPeriod f n (Machine.rankStandby f u) := by
  unfold Machine.rankStandby
  dsimp only
  split
  · split
    · exact h.retuneStandby _ _ _
    · exact h
  · split
    · split
      · exact h.retuneStandby _ _ _
      · exact h
    · exact h
  · exact h
  · have hrun : ∀ n' : Nat, FollowPeriod f n (u.setFollow f fun x => { x with rankRun := n' }) := fun _ => h.set _ fun _ => rfl
    have hfirst : FollowPeriod f n (u.setFollow f fun x => { x with rankRun := 0, trial := false }) := h.set _ fun _ => rfl
    refine FollowPeriod.ite hfirst (FollowPeriod.ite ?_ (hrun _))
    split
    · exact (hrun _).retuneStandby _ _ _
    · exact hrun _

theorem endMemberPeriod_follows (f k : Nat) (s : State) : (endMemberPeriod f k s).audio.follows = s.audio.follows := by
  have hcontext : ∀ m : Option Nat, (match m with
      | some c => s.setContext c fun y => { y with badSeen := false }
      | none => s).audio.follows = s.audio.follows := fun m => by cases m <;> rfl
  unfold endMemberPeriod
  dsimp only
  split
  · exact hcontext _
  · exact hcontext _

theorem FollowAt.ofFollows {f p : Nat} {w : W32} {d : Option Fade} {k : Option Nat} {g : Bool} {u v : State} (h : FollowAt f p w d k g u)
    (hv : v.audio.follows = u.audio.follows) : FollowAt f p w d k g v := by
  obtain ⟨hp, hw, hd⟩ := h
  exact ⟨by rw [hv]; exact hp, by rw [hv]; exact hw, fun hg => by rw [hv]; exact hd hg⟩

/-! ### The end of a period -/

/-- The state once a period's conditions, candidates and taps are taken and the standby is aligned: the period counts as ended, and neither a switch nor a change of standby has been made. -/
theorem execFollowPeriodEnd_run {s : State} {f : Nat} {air : Air} (hruns : s.followRuns f = true)
    (hdue : (s.audio.follows.get f).periodTo < s.now / 10000000 * 10000000) :
    ∃ u, exec (.followPeriodEnd f air) s = .next (if (s.audio.follows.get f).fade.isSome then u
        else if ((applyRules f u).audio.follows.get f).fade.isSome then applyRules f u else rankStandby f (applyRules f u))
      ∧ FollowPeriod f (s.now / 10000000 * 10000000) u
      ∧ FollowAt f (s.audio.follows.get f).playing (s.audio.follows.get f).switches (s.audio.follows.get f).fade (s.audio.follows.get f).standby true u := by
  have hgo : (s.followRuns f && decide ((s.audio.follows.get f).periodTo < s.now / 10000000 * 10000000)) = true := by
    rw [hruns, decide_eq_true hdue]
    rfl
  have hstart : FollowAt f (s.audio.follows.get f).playing (s.audio.follows.get f).switches (s.audio.follows.get f).fade (s.audio.follows.get f).standby true s := ⟨rfl, rfl, fun _ => ⟨rfl, rfl⟩⟩
  change ∃ u, execFollowPeriodEnd f air s = _ ∧ _
  unfold execFollowPeriodEnd
  dsimp only
  rw [onlyIf_of_true hgo]
  refine ⟨_, rfl, ?_, ?_⟩
  · refine FollowPeriod.noteReady (FollowPeriod.alignStandby (FollowPeriod.assignTaps ?_))
    refine FollowPeriod.set ?_ _ fun _ => rfl
    refine FollowPeriod.set ?_ _ fun _ => rfl
    refine foldl_keep (FollowPeriod f _) _ _ (fun v k hv => ?_) _ ?_
    · refine FollowPeriod.ofFollows ?_ (endMemberPeriod_follows _ _ _)
      exact hv.set _ fun _ => rfl
    · exact ⟨congrArg FollowSt.periodTo (State.setFollow_self _ _ _)⟩
  · refine FollowAt.noteReady (FollowAt.alignStandby (FollowAt.assignTaps ?_))
    refine FollowAt.set ?_ _ (fun _ => rfl) (fun _ => rfl) fun _ _ => ⟨rfl, rfl⟩
    refine FollowAt.set ?_ _ (fun _ => rfl) (fun _ => rfl) fun _ _ => ⟨rfl, rfl⟩
    refine foldl_keep (FollowAt f _ _ _ _ true) _ _ (fun v k hv => ?_) _ ?_
    · refine FollowAt.ofFollows ?_ (endMemberPeriod_follows _ _ _)
      exact FollowAt.set hv _ (fun _ => rfl) (fun _ => rfl) fun _ _ => ⟨rfl, rfl⟩
    · exact FollowAt.set hstart _ (fun _ => rfl) (fun _ => rfl) fun _ _ => ⟨rfl, rfl⟩

theorem followPeriod_ends {s : State} {f : Nat} {air : Air} (hruns : s.followRuns f = true)
    (hdue : (s.audio.follows.get f).periodTo < s.now / 10000000 * 10000000) :
    ∃ t, exec (.followPeriodEnd f air) s = .next t ∧ Only [.taps, .lanes, .ofdm, .audio, .link, .cfg, .integ, .mode, .domains, .sec] s t
      ∧ (t.audio.follows.get f).periodTo = s.now / 10000000 * 10000000
      ∧ (t.audio.follows.get f).playing = (s.audio.follows.get f).playing ∧ (t.audio.follows.get f).switches = (s.audio.follows.get f).switches
      ∧ (∀ d, (s.audio.follows.get f).fade = some d → (t.audio.follows.get f).fade = some d ∧ (t.audio.follows.get f).standby = (s.audio.follows.get f).standby) := by
  obtain ⟨u, hrun, hperiod, hat⟩ := execFollowPeriodEnd_run (air := air) hruns hdue
  have honly := (execFollowPeriodEnd_frames f air s).onlyOf hrun
  refine ⟨_, hrun, honly.mono rfl, ?_⟩
  by_cases hfade : (s.audio.follows.get f).fade.isSome = true
  · rw [if_pos hfade]
    obtain ⟨hplaying, hswitches, hkept⟩ := hat
    obtain ⟨hf, hs⟩ := hkept rfl
    exact ⟨hperiod.to_, hplaying, hswitches, fun d hd => ⟨hf.trans hd, hs⟩⟩
  · rw [if_neg hfade]
    have hfree : FollowAt f (s.audio.follows.get f).playing (s.audio.follows.get f).switches none none false u := ⟨hat.p, hat.w, fun h => absurd h Bool.false_ne_true⟩
    have hruled := FollowAt.ite (c := ((applyRules f u).audio.follows.get f).fade.isSome = true) hfree.applyRules hfree.applyRules.rankStandby
    have hlast := FollowPeriod.ite (c := ((applyRules f u).audio.follows.get f).fade.isSome = true) hperiod.applyRules hperiod.applyRules.rankStandby
    exact ⟨hlast.to_, hruled.p, hruled.w, fun d hd => absurd (by rw [hd]; rfl) hfade⟩

/-! ### Delay estimates -/

theorem estimate_estimatedTo (e : FollowEntry) (x : FollowSt) : (FollowSt.estimate e x).estimatedTo = x.estimatedTo := by
  unfold FollowSt.estimate
  dsimp only
  split
  · split
    · split
      · split <;> rfl
      · rfl
    · split
      · rfl
      · split
        · split
          · rfl
          · split <;> rfl
        · rfl
  · rfl

/-- Three good estimates near their median lock the delay. -/
theorem estimate_locks {e : FollowEntry} {x : FollowSt} {q q1 q2 : Int × Nat} (hests : x.ests = [q, q1, q2]) (hfree : x.locked = false)
    (hgood : ∀ z ∈ [q, q1, q2], e.corrMin * 100 ≤ z.2 ∧ (z.1 - median3 q.1 q1.1 q2.1).natAbs ≤ 32) :
    FollowSt.estimate e x = { x with locked := true, delta := median3 q.1 q1.1 q2.1 } := by
  have hall : ([q, q1, q2].all fun z => decide (e.corrMin * 100 ≤ z.2) && decide ((z.1 - median3 q.1 q1.1 q2.1).natAbs ≤ 32)) = true := by
    rw [List.all_eq_true]
    intro z hz
    obtain ⟨hmin, hnear⟩ := hgood z hz
    rw [decide_eq_true hmin, decide_eq_true hnear]
    rfl
  unfold FollowSt.estimate
  dsimp only
  rw [hests, hfree]
  exact if_pos hall

/-- A locked delay follows a good estimate within two samples of it. -/
theorem estimate_follows {e : FollowEntry} {x : FollowSt} {q : Int × Nat} {rest : List (Int × Nat)} (hests : x.ests = q :: rest) (hlocked : x.locked = true)
    (hnear : (q.1 - x.delta).natAbs ≤ 32) (hgood : e.corrMin * 100 ≤ q.2) : FollowSt.estimate e x = { x with delta := q.1 } := by
  have hhit : (decide ((q.1 - x.delta).natAbs ≤ 32) && decide (e.corrMin * 100 ≤ q.2)) = true := by
    rw [decide_eq_true hgood, decide_eq_true hnear]
    rfl
  unfold FollowSt.estimate
  dsimp only
  rw [hests, hlocked]
  exact if_pos hhit

/-- A set with an estimate that is not void. -/
def estimateTaken (f : Nat) (q : Int × Nat) (at_ : Nat) (s : State) : State :=
  s.setFollow f fun y => FollowSt.estimate (s.cfg.active.follows.get f) { y with rho := some q.2, ests := (q :: y.ests).take 3, estimatedTo := at_ }

/-- The events of a delay that locks or is lost. -/
def lockEvents (f : Nat) (q : Int × Nat) (x z : FollowSt) (t : State) : State :=
  if z.locked && !x.locked then raise .followDelayLocked (followDie f) [.w f, .w z.delta, .w q.2] t
  else if x.locked && !z.locked then raise .followDelayLost (followDie f) [.w f, .w x.delta, .w q.2] t else t

/-- The state after the second's estimate. -/
def State.estimated (s : State) (f at_ : Nat) : Option (Int × Nat) → State
  | none => s.setFollow f fun y => { y with rho := none, estimatedTo := at_ }
  | some q => noteReady f (alignStandby f (lockEvents f q (s.audio.follows.get f) ((estimateTaken f q at_ s).audio.follows.get f) (estimateTaken f q at_ s)))

theorem execDelayEstimate_run {s : State} {f k a b : Nat} {air : Air} (hruns : s.followRuns f = true) (hstandby : (s.audio.follows.get f).standby = some k)
    (hplays : ((s.audio.follows.get f).members.getD (s.audio.follows.get f).playing {}).validSince = some a)
    (hstands : ((s.audio.follows.get f).members.getD k {}).validSince = some b)
    (ha : a + (corrSeconds (s.cfg.active.follows.get f).corrWindow + 5) * 100000000 ≤ s.now)
    (hb : b + (corrSeconds (s.cfg.active.follows.get f).corrWindow + 5) * 100000000 ≤ s.now)
    (hdue : (s.audio.follows.get f).estimatedTo < s.now / 100000000 * 100000000) :
    exec (.delayEstimate f air) s = .next (s.estimated f (s.now / 100000000 * 100000000) (s.delayEstimate air f k (s.now / 100000000 * 100000000))) := by
  have ha' : decide (a + (corrSeconds (s.cfg.active.follows.get f).corrWindow + 5) * countsPerSecond ≤ s.now) = true := decide_eq_true ha
  have hb' : decide (b + (corrSeconds (s.cfg.active.follows.get f).corrWindow + 5) * countsPerSecond ≤ s.now) = true := decide_eq_true hb
  have hdue' : decide ((s.audio.follows.get f).estimatedTo < s.now / countsPerSecond * countsPerSecond) = true := decide_eq_true hdue
  change execDelayEstimate f air s = .next (s.estimated f (s.now / countsPerSecond * countsPerSecond) (s.delayEstimate air f k (s.now / countsPerSecond * countsPerSecond)))
  unfold execDelayEstimate
  dsimp only
  rw [hstandby, hruns, hdue']
  dsimp only
  rw [hplays, hstands]
  dsimp only
  rw [ha', hb', Option.getD_some]
  refine (onlyIf_of_true rfl).trans (congrArg Host.Outcome.next ?_)
  cases s.delayEstimate air f k (s.now / countsPerSecond * countsPerSecond) <;> rfl

theorem estimated_some (s : State) (f at_ : Nat) (q : Int × Nat) :
    ((s.estimated f at_ (some q)).audio.follows.get f).estimatedTo = at_
      ∧ ((s.estimated f at_ (some q)).audio.follows.get f).locked = ((estimateTaken f q at_ s).audio.follows.get f).locked
      ∧ ((s.estimated f at_ (some q)).audio.follows.get f).delta = ((estimateTaken f q at_ s).audio.follows.get f).delta
      ∧ ∀ i, i ≠ f → (s.estimated f at_ (some q)).audio.follows.get i = s.audio.follows.get i := by
  obtain ⟨u, hu⟩ : ∃ u, lockEvents f q (s.audio.follows.get f) ((estimateTaken f q at_ s).audio.follows.get f) (estimateTaken f q at_ s) = u := ⟨_, rfl⟩
  have haudio : u.audio = (estimateTaken f q at_ s).audio := by
    rw [← hu]
    exact Only.ite (raise_only _ _ _ _) (Only.ite (raise_only _ _ _ _) (Only.refl _ _)) .audio rfl
  obtain ⟨⟨r, hready⟩, hother⟩ := noteReady_fields f (alignStandby f u)
  obtain ⟨⟨ds, al, out, haligned⟩, hother'⟩ := alignStandby_follows f u
  have hrun : s.estimated f at_ (some q) = noteReady f (alignStandby f u) := by rw [← hu]; rfl
  have hto : ((estimateTaken f q at_ s).audio.follows.get f).estimatedTo = at_ := by
    rw [estimateTaken, State.setFollow_self, estimate_estimatedTo]
  rw [hrun, hready, haligned, haudio]
  refine ⟨hto, rfl, rfl, fun i hi => ?_⟩
  rw [hother i hi, hother' i hi, haudio]
  exact State.setFollow_of_ne _ _ _ hi

theorem delayEstimate_follows {s : State} {f k a b : Nat} {air : Air} (hruns : s.followRuns f = true) (hstandby : (s.audio.follows.get f).standby = some k)
    (hplays : ((s.audio.follows.get f).members.getD (s.audio.follows.get f).playing {}).validSince = some a)
    (hstands : ((s.audio.follows.get f).members.getD k {}).validSince = some b)
    (ha : a + (corrSeconds (s.cfg.active.follows.get f).corrWindow + 5) * 100000000 ≤ s.now)
    (hb : b + (corrSeconds (s.cfg.active.follows.get f).corrWindow + 5) * 100000000 ≤ s.now)
    (hdue : (s.audio.follows.get f).estimatedTo < s.now / 100000000 * 100000000) :
    ∃ t, exec (.delayEstimate f air) s = .next t ∧ Only [.audio, .link, .integ, .sec] s t
      ∧ (t.audio.follows.get f).estimatedTo = s.now / 100000000 * 100000000
      ∧ (s.delayEstimate air f k (s.now / 100000000 * 100000000) = none →
          t.audio.follows.get f = { s.audio.follows.get f with rho := none, estimatedTo := s.now / 100000000 * 100000000 } ∧ t.link = s.link)
      ∧ (∀ q q1 q2 rest, s.delayEstimate air f k (s.now / 100000000 * 100000000) = some q → (s.audio.follows.get f).locked = false → (s.audio.follows.get f).ests = q1 :: q2 :: rest →
          (∀ e ∈ [q, q1, q2], (s.cfg.active.follows.get f).corrMin * 100 ≤ e.2 ∧ (e.1 - median3 q.1 q1.1 q2.1).natAbs ≤ 32) →
          (t.audio.follows.get f).locked = true ∧ (t.audio.follows.get f).delta = median3 q.1 q1.1 q2.1
          ∧ Raises s t .followDelayLocked (followDie f) [.w f, .w (median3 q.1 q1.1 q2.1), .w q.2])
      ∧ (∀ q, s.delayEstimate air f k (s.now / 100000000 * 100000000) = some q → (s.audio.follows.get f).locked = true →
          (q.1 - (s.audio.follows.get f).delta).natAbs ≤ 32 → (s.cfg.active.follows.get f).corrMin * 100 ≤ q.2 →
          (t.audio.follows.get f).locked = true ∧ (t.audio.follows.get f).delta = q.1)
      ∧ ∀ i, i ≠ f → t.audio.follows.get i = s.audio.follows.get i := by
  have hrun := execDelayEstimate_run (air := air) hruns hstandby hplays hstands ha hb hdue
  have honly := (execDelayEstimate_frames f air s).onlyOf hrun
  obtain ⟨at_, hat⟩ : ∃ n, s.now / 100000000 * 100000000 = n := ⟨_, rfl⟩
  rw [hat] at hrun honly ⊢
  obtain ⟨est, hest⟩ : ∃ e, s.delayEstimate air f k at_ = e := ⟨_, rfl⟩
  rw [hest] at hrun honly ⊢
  refine ⟨_, hrun, honly.mono rfl, ?_⟩
  cases est with
  | none =>
    refine ⟨congrArg FollowSt.estimatedTo (State.setFollow_self _ _ _), fun _ => ⟨State.setFollow_self _ _ _, rfl⟩, fun _ _ _ _ h => by simp at h, fun _ h => by simp at h,
      fun i hi => State.setFollow_of_ne _ _ _ hi⟩
  | some q =>
    obtain ⟨hto, hlocked, hdelta, hother⟩ := estimated_some s f at_ q
    refine ⟨hto, fun h => by simp at h, ?_, ?_, hother⟩
    · rintro _ q1 q2 rest ⟨rfl⟩ hfree hests hgood
      have htaken : (estimateTaken f q at_ s).audio.follows.get f = { s.audio.follows.get f with
          rho := some q.2, ests := [q, q1, q2], estimatedTo := at_, locked := true, delta := median3 q.1 q1.1 q2.1 } := by
        rw [estimateTaken, State.setFollow_self]
        have hthree : (q :: (s.audio.follows.get f).ests).take 3 = [q, q1, q2] := by rw [hests]; rfl
        have hlock := estimate_locks (e := s.cfg.active.follows.get f) (x := { s.audio.follows.get f with
          rho := some q.2, ests := (q :: (s.audio.follows.get f).ests).take 3, estimatedTo := at_ }) hthree hfree hgood
        rw [hlock, hthree]
      rw [hlocked, hdelta, htaken]
      refine ⟨rfl, rfl, ?_⟩
      have hevents : lockEvents f q (s.audio.follows.get f) ((estimateTaken f q at_ s).audio.follows.get f) (estimateTaken f q at_ s)
          = raise .followDelayLocked (followDie f) [.w f, .w (median3 q.1 q1.1 q2.1), .w q.2] (estimateTaken f q at_ s) := by
        rw [lockEvents, htaken]
        exact if_pos (by rw [hfree]; rfl)
      refine Raises.andThen (noteReady_only _ _) rfl (Raises.andThen (alignStandby_only _ _) rfl ?_)
      rw [hevents]
      exact Raises.raise (State.setFollow_only s f _) rfl rfl _ _ _
    · rintro _ ⟨rfl⟩ hheld hnear hgood
      have htaken : (estimateTaken f q at_ s).audio.follows.get f = { s.audio.follows.get f with
          rho := some q.2, ests := (q :: (s.audio.follows.get f).ests).take 3, estimatedTo := at_, delta := q.1 } := by
        rw [estimateTaken, State.setFollow_self]
        exact estimate_follows (rest := (s.audio.follows.get f).ests.take 2) rfl hheld hnear hgood
      rw [hlocked, hdelta, htaken]
      exact ⟨hheld, rfl⟩

/-! ### Fades -/

theorem fadeStart_switches {s : State} {f k : Nat} {d : Fade} (hruns : s.followRuns f = true) (hfade : (s.audio.follows.get f).fade = some d)
    (hstandby : (s.audio.follows.get f).standby = some k) (hstarted : d.started = false) (hnow : d.f0 ≤ s.now) :
    ∃ t, exec (.fadeStart f) s = .next t ∧ Only [.audio, .link, .integ, .sec] s t
      ∧ t.audio.follows.get f = { s.audio.follows.get f with
          fade := some { d with started := true }, lastF0 := d.f0, switches := (s.audio.follows.get f).switches + 1, lastSwitchTick := tick32 d.f0 }
      ∧ Raises s t .followSwitch (followDie f) [.w f, .w d.reason.code, .w (s.audio.follows.get f).playing, .w k, .q d.f0, .q d.f1,
          .w (if (s.audio.follows.get f).locked then (s.audio.follows.get f).delta else 0x80000000), .w (b2n (!d.aligned))]
      ∧ ∀ i, i ≠ f → t.audio.follows.get i = s.audio.follows.get i := by
  have hset := s.setFollow_only f fun x => { x with fade := some { d with started := true }, lastF0 := d.f0, switches := x.switches + 1, lastSwitchTick := tick32 d.f0 }
  have hrun : exec (.fadeStart f) s = .next (raise .followSwitch (followDie f) [.w f, .w d.reason.code, .w (s.audio.follows.get f).playing, .w k, .q d.f0, .q d.f1,
      .w (if (s.audio.follows.get f).locked then (s.audio.follows.get f).delta else 0x80000000), .w (b2n (!d.aligned))]
      (s.setFollow f fun x => { x with fade := some { d with started := true }, lastF0 := d.f0, switches := x.switches + 1, lastSwitchTick := tick32 d.f0 })) := by
    simp only [exec, execFadeStart, hfade, hstandby]
    exact onlyIf_of_true (by rw [hruns, hstarted, decide_eq_true hnow]; rfl)
  refine ⟨_, hrun, (hset.mono rfl).trans ((raise_only _ _ _ _).mono rfl), ?_, Raises.raise hset rfl rfl _ _ _, fun i hi => ?_⟩
  · rw [raise_only _ _ _ _ .audio rfl, State.setFollow_self]
  · rw [raise_only _ _ _ _ .audio rfl, State.setFollow_of_ne _ _ _ hi]

theorem fadeEnd_exchanges {s : State} {f k : Nat} {d : Fade} (hruns : s.followRuns f = true) (hfade : (s.audio.follows.get f).fade = some d)
    (hstandby : (s.audio.follows.get f).standby = some k) (hstarted : d.started = true) (hnow : d.f1 ≤ s.now) :
    ∃ t, exec (.fadeEnd f) s = .next t ∧ Only [.audio] s t
      ∧ (t.audio.follows.get f).playing = k ∧ (t.audio.follows.get f).standby = some (s.audio.follows.get f).playing ∧ (t.audio.follows.get f).fade = none
      ∧ (t.audio.follows.get f).faded = some d ∧ (t.audio.follows.get f).locked = (s.audio.follows.get f).locked
      ∧ (t.audio.follows.get f).delta = -(s.audio.follows.get f).delta ∧ (t.audio.follows.get f).dPlaying = (s.audio.follows.get f).dStandby
      ∧ (t.audio.follows.get f).dStandby = (s.audio.follows.get f).dPlaying ∧ ∀ i, i ≠ f → t.audio.follows.get i = s.audio.follows.get i := by
  have hrun : ∃ g, exec (.fadeEnd f) s = .next (noteReady f (s.setFollow f g)) ∧ g = fun x =>
      { x with playing := k, standby := some x.playing, trial := false, fade := none, faded := some d, dPlaying := x.dStandby, dStandby := x.dPlaying
               delta := -x.delta, ests := x.ests.map fun q => (-q.1, q.2), betterRun := 0, rankRun := 0, readySince := none } := by
    simp only [exec, execFadeEnd, hfade, hstandby]
    exact ⟨_, onlyIf_of_true (by rw [hruns, hstarted, decide_eq_true hnow]; rfl), rfl⟩
  obtain ⟨g, hrun, hg⟩ := hrun
  obtain ⟨⟨r, hself⟩, hother⟩ := noteReady_fields f (s.setFollow f g)
  refine ⟨_, hrun, (State.setFollow_only _ _ _).trans (noteReady_only _ _), ?_⟩
  rw [hself, State.setFollow_self, hg]
  exact ⟨rfl, rfl, rfl, rfl, rfl, rfl, rfl, rfl, fun i hi => (hg ▸ hother i hi).trans (State.setFollow_of_ne _ _ _ hi)⟩

/-! ### Dwells -/

/-- One set's step of a tap's measurement: the candidate that the tap measures takes its figure. -/
def tapMeasuredAt (w t0 : Nat) (rfMean mp : Int) (acc : State) (f : Nat) : State :=
  match (acc.audio.follows.get f).measuring.find? (fun m => m.1 = w) with
  | some (_, freq, typ) =>
    acc.setFollow f fun x => { x with cands := x.cands.map fun c => if c.freq = freq && c.typ = typ then { c with fom := some ((acc.cfg.active.follows.get f).tapFom typ
      (acc.levelUv (acc.clusterCourse (watchCluster w)) (((acc.front.courses.get (acc.clusterCourse (watchCluster w))).leader).getD 0) freq t0 rfMean) mp) } else c }
  | none => acc

theorem followTapMeasured_eq (w t0 : Nat) (rfMean mp : Int) (s : State) :
    followTapMeasured w t0 rfMean mp s = (List.range (s.dies * 16)).foldl (tapMeasuredAt w t0 rfMean mp) s := rfl

/-- A state that differs from `s` in its audio alone. -/
def State.withAudio (s : State) (a : AudioSt) : State := { s with audio := a }

theorem tapMeasuredAt_audio (w t0 : Nat) (rfMean mp : Int) (s : State) (a : AudioSt) (f : Nat) :
    ∃ b, tapMeasuredAt w t0 rfMean mp (s.withAudio a) f = s.withAudio b ∧ ∀ i, i ≠ f → b.follows.get i = a.follows.get i := by
  unfold tapMeasuredAt
  split
  · exact ⟨_, rfl, fun i hi => Tbl.get_modify_of_ne _ hi _⟩
  · exact ⟨_, rfl, fun _ _ => rfl⟩

/-- A candidate after its tap's measurement. -/
def Cand.figured (c : Cand) (freq typ : Nat) (fom : Int) : Cand := if c.freq = freq && c.typ = typ then { c with fom := some fom } else c

/-- The figure that a tap's measurement gives a candidate of the set. -/
def State.tapFigure (s : State) (f w freq typ t0 : Nat) (rfMean mp : Int) : Int :=
  (s.cfg.active.follows.get f).tapFom typ
    (s.levelUv (s.clusterCourse (watchCluster w)) (((s.front.courses.get (s.clusterCourse (watchCluster w))).leader).getD 0) freq t0 rfMean) mp

theorem foldl_tapMeasured (w t0 : Nat) (rfMean mp : Int) (s : State) {f freq typ : Nat} :
    ∀ (fs : List Nat) (a : AudioSt), fs.Nodup → (a.follows.get f).measuring.find? (fun m => m.1 = w) = some (w, freq, typ) →
      ∃ b, fs.foldl (tapMeasuredAt w t0 rfMean mp) (s.withAudio a) = s.withAudio b ∧ (f ∉ fs → b.follows.get f = a.follows.get f)
        ∧ (f ∈ fs → (b.follows.get f).cands = (a.follows.get f).cands.map fun c => c.figured freq typ (s.tapFigure f w freq typ t0 rfMean mp)) := by
  intro fs
  induction fs with
  | nil => exact fun a _ _ => ⟨a, rfl, fun _ => rfl, fun h => absurd h List.not_mem_nil⟩
  | cons g fs ih =>
    intro a hnodup hfind
    obtain ⟨hg, hrest⟩ := List.nodup_cons.mp hnodup
    rw [List.foldl_cons]
    by_cases hfg : f = g
    · subst hfg
      have hstep : tapMeasuredAt w t0 rfMean mp (s.withAudio a) f = s.withAudio { a with follows := a.follows.modify f fun x =>
          { x with cands := x.cands.map fun c => c.figured freq typ (s.tapFigure f w freq typ t0 rfMean mp) } } := by
        have hfind' : ((s.withAudio a).audio.follows.get f).measuring.find? (fun m => m.1 = w) = some (w, freq, typ) := hfind
        unfold tapMeasuredAt
        rw [hfind']
        rfl
      have hself : (a.follows.modify f fun x => { x with cands := x.cands.map fun c => c.figured freq typ (s.tapFigure f w freq typ t0 rfMean mp) }).get f
          = { a.follows.get f with cands := (a.follows.get f).cands.map fun c => c.figured freq typ (s.tapFigure f w freq typ t0 rfMean mp) } := Tbl.get_modify_self _ _ _
      obtain ⟨b, hb, hout, -⟩ := ih { a with follows := a.follows.modify f fun x =>
          { x with cands := x.cands.map fun c => c.figured freq typ (s.tapFigure f w freq typ t0 rfMean mp) } } hrest (by rw [hself]; exact hfind)
      rw [hstep]
      refine ⟨b, hb, fun h => absurd List.mem_cons_self h, fun _ => ?_⟩
      rw [hout hg, hself]
    · obtain ⟨c, hc, hother⟩ := tapMeasuredAt_audio w t0 rfMean mp s a g
      obtain ⟨b, hb, hout, hin⟩ := ih c hrest (by rw [hother f hfg]; exact hfind)
      rw [hc]
      refine ⟨b, hb, fun h => ?_, fun h => ?_⟩
      · rw [hout (fun k => h (List.mem_cons_of_mem _ k)), hother f hfg]
      · rw [hin ((List.mem_cons.mp h).resolve_left hfg), hother f hfg]

theorem followTapMeasured_cands {s : State} {f w freq typ t0 : Nat} {rfMean mp : Int} (hf : f < s.dies * 16)
    (hfind : (s.audio.follows.get f).measuring.find? (fun m => m.1 = w) = some (w, freq, typ)) :
    ((followTapMeasured w t0 rfMean mp s).audio.follows.get f).cands = (s.audio.follows.get f).cands.map fun c => c.figured freq typ (s.tapFigure f w freq typ t0 rfMean mp) := by
  obtain ⟨b, hb, -, hin⟩ := foldl_tapMeasured w t0 rfMean mp s (List.range (s.dies * 16)) s.audio List.nodup_range hfind
  have heq : followTapMeasured w t0 rfMean mp s = s.withAudio b := hb
  rw [heq]
  exact hin (List.mem_range.mpr hf)

theorem ceilTo_of_multiple {m t : Nat} (hm : 0 < m) (h : t % m = 0) : ceilTo m t = t := by
  obtain ⟨k, rfl⟩ := Nat.dvd_of_mod_eq_zero h
  unfold ceilTo
  have hdiv : (m * k + m - 1) / m = k := by
    rw [Nat.add_sub_assoc hm, Nat.mul_add_div hm, Nat.div_eq_of_lt (by omega), Nat.add_zero]
  rw [hdiv, Nat.mul_comm]

theorem measureCand_dwell (f w : Nat) (c : Cand) (u : State) : ((measureCand f w c u).lanes.watches.get w).dwellStart = ceilTo 1000000 u.now := by
  have hlanes : ∀ g v, (goOnWatch w v).lanes = v.lanes → (State.setFollow (goOnWatch w v) f g).lanes = v.lanes := fun _ _ h => h
  unfold measureCand retuneTap
  dsimp only
  rw [hlanes _ _ (goOnWatch_only _ _ .lanes rfl), State.setWatch_self]
  rfl

/-- The candidate next in list order that a tap measures. -/
def State.measuresNext (t : State) (f w : Nat) (x : FollowSt) : State :=
  match x.measuredBy w with
  | some c =>
    (match t.nextCand f w (x.cands.idxOf c + 1) with
      | some d => measureCand f w d t
      | none => t)
  | none => t

theorem measuresNext_facts (t : State) (f w : Nat) (x : FollowSt) :
    ((t.measuresNext f w x).audio.follows.get f).cands = (t.audio.follows.get f).cands
      ∧ (((t.measuresNext f w x).lanes.watches.get w).dwellStart = (t.lanes.watches.get w).dwellStart
        ∨ ((t.measuresNext f w x).lanes.watches.get w).dwellStart = ceilTo 1000000 t.now) := by
  unfold State.measuresNext
  split
  · split
    · exact ⟨measureCand_fields _ _ _ _, Or.inr (measureCand_dwell _ _ _ _)⟩
    · exact ⟨rfl, Or.inl rfl⟩
  · exact ⟨rfl, Or.inl rfl⟩

theorem candidateDwell_measures {s : State} {f w freq typ : Nat} {air : Air} (hruns : s.followRuns f = true)
    (hfind : (s.audio.follows.get f).measuring.find? (fun m => m.1 = w) = some (w, freq, typ)) (hn : s.now % 1000000 = 0)
    (hdwell : (s.lanes.watches.get w).dwellStart + (s.cfg.active.follows.get f).candDwell * 10000000 ≤ s.now) :
    ∃ t, exec (.candidateDwellEnd f w air) s = .next t ∧ Only [.taps, .lanes, .audio, .cfg] s t
      ∧ (∀ c ∈ (t.audio.follows.get f).cands, c.freq = freq → c.typ = typ →
          c.fom = some ((s.cfg.active.follows.get f).tapFom typ
            (s.levelUv (s.clusterCourse (watchCluster w)) (((s.front.courses.get (s.clusterCourse (watchCluster w))).leader).getD 0) freq (s.lanes.watches.get w).dwellStart
              (s.watchMeasured air w (s.lanes.watches.get w).dwellStart ((s.lanes.watches.get w).dwellStart + (s.cfg.active.follows.get f).candDwell * 10000000)).rfMean)
            (s.watchMeasured air w (s.lanes.watches.get w).dwellStart ((s.lanes.watches.get w).dwellStart + (s.cfg.active.follows.get f).candDwell * 10000000)).mpIndex))
      ∧ (t.audio.follows.get f).cands.map (fun c => (c.freq, c.typ, c.verifiedAt)) = (s.audio.follows.get f).cands.map (fun c => (c.freq, c.typ, c.verifiedAt))
      ∧ (t.lanes.watches.get w).dwellStart = s.now := by
  have hany : ((s.audio.follows.get f).measuring.any fun m => m.1 = w) = true := by
    rw [List.any_eq_true]
    exact ⟨_, List.mem_of_find?_eq_some hfind, by simp⟩
  have hf : f < s.dies * 16 := by
    simp only [State.followRuns, Bool.and_eq_true, decide_eq_true_eq] at hruns
    exact hruns.1.1.1
  have hgo : (s.followRuns f && ((s.audio.follows.get f).measuring.any fun m => m.1 = w) && decide (s.now % 1000000 = 0)
      && decide ((s.lanes.watches.get w).dwellStart + (s.cfg.active.follows.get f).candDwell * 10000000 ≤ s.now)) = true := by
    rw [hruns, hany, decide_eq_true hn, decide_eq_true hdwell]
    rfl
  obtain ⟨t0, ht0⟩ : ∃ t0, (s.lanes.watches.get w).dwellStart = t0 := ⟨_, rfl⟩
  obtain ⟨m, hm⟩ : ∃ m, s.watchMeasured air w t0 (t0 + (s.cfg.active.follows.get f).candDwell * 10000000) = m := ⟨_, rfl⟩
  have hrun : exec (.candidateDwellEnd f w air) s = .next (((followTapMeasured w t0 m.rfMean m.mpIndex s).setWatch w fun z => { z with dwellStart := s.now }).measuresNext f w (s.audio.follows.get f)) := by
    rw [← hm, ← ht0]
    exact onlyIf_of_true hgo
  have honly := (execCandidateDwellEnd_frames f w air s).onlyOf hrun
  obtain ⟨hcands, hstart⟩ := measuresNext_facts ((followTapMeasured w t0 m.rfMean m.mpIndex s).setWatch w fun z => { z with dwellStart := s.now }) f w (s.audio.follows.get f)
  have hlist := hcands.trans (followTapMeasured_cands (t0 := t0) (rfMean := m.rfMean) (mp := m.mpIndex) hf hfind)
  rw [ht0, hm]
  refine ⟨_, hrun, honly.mono rfl, ?_, ?_, ?_⟩
  · intro c hc hfreq htyp
    rw [hlist] at hc
    obtain ⟨x, -, rfl⟩ := List.mem_map.mp hc
    unfold Cand.figured at hfreq htyp ⊢
    split at hfreq
    · next hhit => rw [if_pos hhit]; rfl
    · next hmiss => exact absurd (by rw [if_neg hmiss] at htyp; simp [hfreq, htyp]) hmiss
  · rw [hlist, List.map_map]
    refine List.map_congr_left fun c _ => ?_
    dsimp only [Function.comp, Cand.figured]
    split <;> rfl
  · have hnow : ((followTapMeasured w t0 m.rfMean m.mpIndex s).setWatch w fun z => { z with dwellStart := s.now }).now = s.now := (followTapMeasured_only _ _ _ _ s).now rfl
    rcases hstart with h | h
    · rw [h, State.setWatch_self]
    · rw [h, hnow, ceilTo_of_multiple (by decide) hn]

/-! ### Lapses and records -/

/-- A verification made at `at_` that is as old as the set allows. -/
def State.lapsed (s : State) (f : Nat) : Option Nat → Bool
  | some t => decide (t + (s.cfg.active.follows.get f).age ≤ s.now)
  | none => false

theorem State.not_lapsed {s : State} {f : Nat} {v : Nat} (h : s.lapsed f (some v) = false) : s.now < v + (s.cfg.active.follows.get f).age := by
  simpa [State.lapsed] using h

/-- A set whose old verifications have lapsed, before the events. -/
def State.lapses (s : State) (f : Nat) : State :=
  s.setFollow f fun y =>
    { y with
      cands := y.cands.map fun c => if s.lapsed f c.verifiedAt then { c with verifiedAt := none } else c
      members := y.members.map fun m => if s.lapsed f m.verifiedAt then { m with verifiedAt := none } else m }

theorem execVerificationLapse_run {s : State} {f : Nat} (hruns : s.followRuns f = true) :
    ∃ ms : List MemberSt, exec (.verificationLapse f) s = .next (noteReady f (ms.foldl (fun acc m => verifyEvent f m.freq m.ident false acc)
      (((s.audio.follows.get f).cands.filter fun c => s.lapsed f c.verifiedAt).foldl (fun acc c => verifyEvent f c.freq c.ident false acc) (s.lapses f)))) :=
  ⟨_, onlyIf_of_true hruns⟩

theorem verificationLapse_lapses {s : State} {f : Nat} (hruns : s.followRuns f = true) :
    ∃ t, exec (.verificationLapse f) s = .next t ∧ Only [.audio, .link, .integ, .sec] s t
      ∧ (∀ c ∈ (t.audio.follows.get f).cands, ∀ v, c.verifiedAt = some v → s.now < v + (s.cfg.active.follows.get f).age)
      ∧ (∀ m ∈ (t.audio.follows.get f).members, ∀ v, m.verifiedAt = some v → s.now < v + (s.cfg.active.follows.get f).age)
      ∧ (∀ c ∈ (s.audio.follows.get f).cands, ∀ v, c.verifiedAt = some v → v + (s.cfg.active.follows.get f).age ≤ s.now →
          Raises s t .followUnverified (followDie f) [.w f, .w c.freq, .w c.ident]) := by
  obtain ⟨ms, hrun⟩ := execVerificationLapse_run hruns
  have honly := (execVerificationLapse_frames f s).onlyOf hrun
  have hset : Only [.audio] s (s.lapses f) := State.setFollow_only _ _ _
  obtain ⟨u, hu⟩ : ∃ u, ((s.audio.follows.get f).cands.filter fun c => s.lapsed f c.verifiedAt).foldl (fun acc c => verifyEvent f c.freq c.ident false acc) (s.lapses f) = u := ⟨_, rfl⟩
  obtain ⟨hcands, hraises⟩ := foldl_raises (fun _ => EvName.followUnverified) (fun _ => followDie f) (fun c : Cand => [EvArg.w f, .w c.freq, .w c.ident])
    (as := [.audio, .link, .integ, .sec]) rfl rfl rfl rfl rfl ((s.audio.follows.get f).cands.filter fun c => s.lapsed f c.verifiedAt) (s.lapses f) (hset.mono rfl)
  have hevents : Only [.link, .integ, .sec] (s.lapses f) u := hu ▸ foldl_keep (fun v => Only [.link, .integ, .sec] (s.lapses f) v) _ _
    (fun v c hv => hv.trans (verifyEvent_only _ _ _ _ _)) _ (Only.refl _ _)
  have hmembers : Only [.link, .integ, .sec] u (ms.foldl (fun acc m => verifyEvent f m.freq m.ident false acc) u) :=
    foldl_keep (fun v => Only [.link, .integ, .sec] u v) _ _ (fun v c hv => hv.trans (verifyEvent_only _ _ _ _ _)) _ (Only.refl _ _)
  rw [hu] at hrun honly
  obtain ⟨⟨r, hself⟩, -⟩ := noteReady_fields f (ms.foldl (fun acc m => verifyEvent f m.freq m.ident false acc) u)
  have hfollow : (noteReady f (ms.foldl (fun acc m => verifyEvent f m.freq m.ident false acc) u)).audio.follows.get f = { (s.lapses f).audio.follows.get f with readySince := r } := by
    rw [hself, hmembers .audio rfl, hevents .audio rfl]
  refine ⟨_, hrun, honly.mono rfl, ?_, ?_, fun c hc v hv hold => ?_⟩
  · rw [hfollow, State.lapses, State.setFollow_self]
    intro c hc v hv
    obtain ⟨x, -, rfl⟩ := List.mem_map.mp hc
    by_cases hx : s.lapsed f x.verifiedAt = true
    · simp [hx] at hv
    · rw [if_neg hx] at hv
      exact State.not_lapsed (by rw [← hv]; exact Bool.eq_false_iff.mpr hx)
  · rw [hfollow, State.lapses, State.setFollow_self]
    intro m hm v hv
    obtain ⟨x, -, rfl⟩ := List.mem_map.mp hm
    by_cases hx : s.lapsed f x.verifiedAt = true
    · simp [hx] at hv
    · rw [if_neg hx] at hv
      exact State.not_lapsed (by rw [← hv]; exact Bool.eq_false_iff.mpr hx)
  · have hlapsed : s.lapsed f c.verifiedAt = true := by
      rw [hv]
      exact decide_eq_true hold
    refine Raises.andThen (noteReady_only _ _) rfl (Raises.andThen hmembers rfl ?_)
    rw [← hu]
    exact hraises c (List.mem_filter.mpr ⟨hc, hlapsed⟩)

theorem followRecord_delivers {s : State} {f : Nat} (hf : f < s.dies * 16) (henable : (s.cfg.active.follows.get f).enable = true) (hup : s.dieUp (followDie f) = true)
    (hm : s.mode.mode ≠ .halted) (hdue : (s.audio.follows.get f).recordedTo < s.now / 100000000 * 100000000) :
    ∃ t, exec (.followRecord f) s = .next t ∧ Only [.audio, .link] s t
      ∧ t.audio.follows.get f = { s.audio.follows.get f with recordedTo := s.now / 100000000 * 100000000 }
      ∧ (∀ i, i ≠ f → t.audio.follows.get i = s.audio.follows.get i)
      ∧ (∀ r ∈ s.routeRings .measurement (followDie f) (fun e => maskBit e.followMask (f % 16)), (t.link.rings.get r).sequence = (s.link.rings.get r).sequence + 1)
      ∧ (∀ r, r ∉ s.routeRings .measurement (followDie f) (fun e => maskBit e.followMask (f % 16)) → t.link.rings.get r = s.link.rings.get r) := by
  have hrun : ∃ b, exec (.followRecord f) s = .next (formRouted .measurement (fun r => maskBit r.followMask (f % 16)) b
      (s.setFollow f fun y => { y with recordedTo := s.now / 100000000 * 100000000 })) ∧ b.die = followDie f := by
    have hdue' : decide ((s.audio.follows.get f).recordedTo < s.now / countsPerSecond * countsPerSecond) = true := decide_eq_true hdue
    exact ⟨_, onlyIf_of_true (by rw [decide_eq_true hf, henable, hup, hdue']; rfl), rfl⟩
  obtain ⟨b, hrun, hb⟩ := hrun
  have hset := s.setFollow_only f fun y => { y with recordedTo := s.now / 100000000 * 100000000 }
  obtain ⟨hin, hout⟩ := formRouted_rings .measurement (fun r => maskBit r.followMask (f % 16)) b (s.setFollow f fun y => { y with recordedTo := s.now / 100000000 * 100000000 })
    (by rw [hb]; exact hup) hm
  rw [hb] at hin hout
  refine ⟨_, hrun, (hset.mono rfl).trans ((formRouted_only _ _ _ _).mono rfl), ?_, fun i hi => ?_, hin, hout⟩
  · rw [formRouted_only _ _ _ _ .audio rfl, State.setFollow_self]
  · rw [formRouted_only _ _ _ _ .audio rfl, State.setFollow_of_ne _ _ _ hi]

/-- Settles O32: each clause by the rule of its period, estimate, fade, dwell, lapse or record above. -/
theorem followSets : Obligations.FollowSets :=
  ⟨fun _ _ _ => followPeriod_ends, fun _ _ _ _ _ _ => delayEstimate_follows, fun _ _ _ _ => fadeStart_switches, fun _ _ _ _ => fadeEnd_exchanges, fun _ _ _ _ _ _ => candidateDwell_measures,
    fun _ _ => verificationLapse_lapses, fun _ _ => followRecord_delivers⟩

end Sys2Proof.Machine
end

section
/-!
PROOFS. Decode contexts: access units received and due, slot and context vectors (08 R228 to R235, R248).
-/
namespace Sys2Proof.Machine

/-! ### Units received -/

/-- What an event about a received unit says of it (R230, R232). -/
def receivedArgs (x k : Nat) (u : AccessUnit) : List EvArg :=
  [.w x, .w k, .w u.codec, .w (Config.audioFormat u.codec u.payload).1, .w (Config.audioFormat u.codec u.payload).2.1]

/-- The unit received joins the wait of context `k`. -/
def queueUnit (k : Nat) (u : AccessUnit) (rest : List AccessUnit) (s : State) : State :=
  s.setContext k fun z => { z with inbox := rest, queue := z.queue ++ [u.held], codec := some u.codec, unsupported := !codecSupported u.codec }

theorem accessUnitReceived_queues {s : State} {k x : Nat} {u : AccessUnit} {rest : List AccessUnit} (hslot : s.contextSlot k = some x)
    (hinbox : (s.audio.contexts.get k).inbox = u :: rest) (hk : k < s.dies * 48) (hon : s.slotOn x = true)
    (hretired : s.retired (contextRef k) = false) :
    ∃ t, exec (.accessUnitReceived k) s = .next t ∧ Only [.audio, .link, .integ, .sec] s t
      ∧ t.audio.contexts.get k = { s.audio.contexts.get k with
          inbox := rest, codec := some u.codec, unsupported := !codecSupported u.codec
          queue := (s.audio.contexts.get k).queue ++ [⟨u, false, u.auIndex * (Config.audioFormat u.codec u.payload).2.2,
            (Config.audioFormat u.codec u.payload).1, (Config.audioFormat u.codec u.payload).2.1, (Config.audioFormat u.codec u.payload).2.2⟩] }
      ∧ (codecSupported u.codec = false → (s.audio.contexts.get k).unsupported = false →
          Raises s t .codecUnsupported (slotDie x) [.w x, .w k, .w u.codec, .w (Config.audioFormat u.codec u.payload).1, .w (Config.audioFormat u.codec u.payload).2.1])
      ∧ (codecSupported u.codec = true → u.crcOk = true → u.erased = false → u.rsFailed = false → (s.audio.contexts.get k).lastFormat.1 ≠ 0 →
          (s.audio.contexts.get k).lastFormat ≠ ((Config.audioFormat u.codec u.payload).1, (Config.audioFormat u.codec u.payload).2.1) →
          Raises s t .codecChange (slotDie x) [.w x, .w k, .w u.codec, .w (Config.audioFormat u.codec u.payload).1, .w (Config.audioFormat u.codec u.payload).2.1])
      ∧ ∀ i, i ≠ k → t.audio.contexts.get i = s.audio.contexts.get i := by
  have hgo : (decide (k < s.dies * 48) && s.slotOn x && !s.retired (contextRef k)) = true := by rw [decide_eq_true hk, hon, hretired]; rfl
  have hrun : ∃ c₁ c₂ : Bool, exec (.accessUnitReceived k) s = .next (if c₂ = true then raise .codecChange (slotDie x) (receivedArgs x k u)
        (if c₁ = true then raise .codecUnsupported (slotDie x) (receivedArgs x k u) (queueUnit k u rest s) else queueUnit k u rest s)
        else if c₁ = true then raise .codecUnsupported (slotDie x) (receivedArgs x k u) (queueUnit k u rest s) else queueUnit k u rest s)
      ∧ c₁ = (!codecSupported u.codec && !(s.audio.contexts.get k).unsupported)
      ∧ c₂ = (codecSupported u.codec && !u.damaged && decide ((s.audio.contexts.get k).lastFormat.1 ≠ 0)
          && decide ((s.audio.contexts.get k).lastFormat ≠ (u.held.rate, u.held.channels))) := by
    refine ⟨_, _, ?_, rfl, rfl⟩
    change execAccessUnitReceived k s = _
    unfold execAccessUnitReceived
    dsimp only
    rw [hslot, hinbox]
    exact onlyIf_of_true hgo
  obtain ⟨c₁, c₂, hrun, hc₁, hc₂⟩ := hrun
  have hset : Only [.audio] s (queueUnit k u rest s) := s.setContext_only _ _
  have hfirst : ∀ (c : Prop) [Decidable c] n o a (v : State), (if c then raise n o a v else v).audio = v.audio := fun c _ n o a v => by
    split
    · exact raise_only _ _ _ _ .audio rfl
    · rfl
  refine ⟨_, hrun, ?_, ?_, fun hno hwas => ?_, fun hok hcrc herased hrs hrate hformat => ?_, fun i hi => ?_⟩
  · have hone : ∀ (c : Prop) [Decidable c] n o a (v : State), Only [.link, .integ, .sec] v (if c then raise n o a v else v) := fun c _ n o a v =>
      Only.ite ((raise_only _ _ _ _).mono rfl) (Only.refl _ _)
    exact ((hset.mono rfl).trans ((hone _ _ _ _ _).mono rfl)).trans ((hone _ _ _ _ _).mono rfl)
  · rw [hfirst, hfirst]
    exact State.setContext_self _ _ _
  · have hc₁' : c₁ = true := by rw [hc₁, hno, hwas]; rfl
    have hc₂' : c₂ = false := by rw [hc₂, hno]; rfl
    subst hc₁' hc₂'
    exact Raises.iteNeg Bool.false_ne_true (Raises.itePos rfl (Raises.raise hset rfl rfl _ _ _))
  · have hc₁' : c₁ = false := by rw [hc₁, hok]; rfl
    have hc₂' : c₂ = true := by
      rw [hc₂, hok, decide_eq_true hrate, decide_eq_true (p := _ ≠ (u.held.rate, u.held.channels)) hformat, AccessUnit.damaged, hcrc, herased, hrs]
      rfl
    subst hc₁' hc₂'
    exact Raises.itePos rfl (Raises.raise hset rfl rfl _ _ _)
  · rw [hfirst, hfirst]
    exact State.setContext_of_ne _ _ _ hi

/-! ### Units due -/

/-- The context `k` and the slot `x` have taken the unit at the front of the wait: `rest` still waits, the slot has counted one more, and no other context or slot has changed. -/
structure DueTaken (k x : Nat) (rest : List HeldUnit) (s t : State) : Prop where
  queue : (t.audio.contexts.get k).queue = rest
  counted : (t.audio.slots.get x).auTotal = (s.audio.slots.get x).auTotal + 1
  contexts : ∀ i, i ≠ k → t.audio.contexts.get i = s.audio.contexts.get i
  slots : ∀ i, i ≠ x → t.audio.slots.get i = s.audio.slots.get i

/-- A declared class changes what a slot says of its class, nothing else of it. -/
theorem declareClass_slot (x c t : Nat) (s : State) : ∃ cls run ends spans,
    (declareClass x c t s).audio.slots.get x = { s.audio.slots.get x with cls := cls, clsRun := run, muteEnds := ends, spans := spans } := by
  have hr : ∀ (c : Prop) [Decidable c] n o a (v : State), (if c then v else raise n o a v).audio = v.audio := fun c _ n o a v => by
    split
    · rfl
    · exact raise_only _ _ _ _ .audio rfl
  unfold declareClass
  dsimp only
  split
  · exact ⟨_, _, _, _, rfl⟩
  · rw [raise_only _ _ _ _ .audio rfl, State.setSlot_self, hr]
    exact ⟨_, _, _, _, rfl⟩

/-- A scrambled unit declares its class on the slot. -/
def dueClass (x t : Nat) (scrambled : Bool) (s : State) : State := if scrambled then declareClass x 4 t s else s

theorem dueClass_contexts (x t : Nat) (b : Bool) (s : State) : (dueClass x t b s).audio.contexts = s.audio.contexts := by
  cases b
  · rfl
  · exact (declareClass_contexts x 4 t s).1

theorem dueClass_slots (x t : Nat) (b : Bool) (s : State) :
    (∃ cls run ends spans, (dueClass x t b s).audio.slots.get x = { s.audio.slots.get x with cls := cls, clsRun := run, muteEnds := ends, spans := spans })
      ∧ ∀ i, i ≠ x → (dueClass x t b s).audio.slots.get i = s.audio.slots.get i := by
  cases b
  · exact ⟨⟨_, _, _, _, rfl⟩, fun _ _ => rfl⟩
  · exact ⟨declareClass_slot x 4 t s, (declareClass_contexts x 4 t s).2⟩

/-- Slot `x` counts the unit `next`, and context `k` does `f` with it. -/
def dueStep (k x : Nat) (next : Option HeldUnit) (f : ContextSt → ContextSt) (s : State) : State :=
  (s.setSlot x fun z => z.countUnit next).setContext k f

section
variable (k x : Nat) (next : Option HeldUnit) (f : ContextSt → ContextSt) (s : State)

theorem dueStep_context : (dueStep k x next f s).audio.contexts.get k = f (s.audio.contexts.get k) := by
  unfold dueStep
  rw [State.setContext_self, (State.setSlot_beside _ _ _).2]

theorem dueStep_slots : (dueStep k x next f s).audio.slots = (s.setSlot x fun z => z.countUnit next).audio.slots := (State.setContext_beside _ _ _).2

theorem dueStep_slot : (dueStep k x next f s).audio.slots.get x = (s.audio.slots.get x).countUnit next := by
  rw [dueStep_slots, State.setSlot_self]

theorem dueStep_only : Only [.audio] s (dueStep k x next f s) := (s.setSlot_only _ _).trans (State.setContext_only _ _ _)

end

theorem dueStep_taken {k x : Nat} {next : Option HeldUnit} {f : ContextSt → ContextSt} {s : State} {rest : List HeldUnit}
    (hf : (f (s.audio.contexts.get k)).queue = rest) : DueTaken k x rest s (dueStep k x next f s) where
  queue := by rw [dueStep_context, hf]
  counted := by rw [dueStep_slot]; rfl
  contexts _ h := (State.setContext_of_ne _ _ _ h).trans (by rw [(State.setSlot_beside _ _ _).2])
  slots _ h := by rw [dueStep_slots, State.setSlot_of_ne _ _ _ h]

theorem DueTaken.setSlot {k x : Nat} {rest : List HeldUnit} {s t : State} (h : DueTaken k x rest s t) (g : SlotSt → SlotSt) (hg : ∀ z, (g z).auTotal = z.auTotal) :
    DueTaken k x rest s (t.setSlot x g) where
  queue := by rw [(State.setSlot_beside _ _ _).2, h.queue]
  counted := by rw [State.setSlot_self, hg, h.counted]
  contexts i hi := by rw [(State.setSlot_beside _ _ _).2, h.contexts i hi]
  slots i hi := by rw [State.setSlot_of_ne _ _ _ hi, h.slots i hi]

theorem DueTaken.dueClass {k x : Nat} {rest : List HeldUnit} {s t : State} (h : DueTaken k x rest s t) (n : Nat) (b : Bool) :
    DueTaken k x rest s (Machine.dueClass x n b t) := by
  have hcontexts := dueClass_contexts x n b t
  obtain ⟨⟨cls, run, ends, spans, hself⟩, hslots⟩ := dueClass_slots x n b t
  exact ⟨by rw [hcontexts]; exact h.queue, by rw [hself]; exact h.counted, fun i hi => by rw [hcontexts]; exact h.contexts i hi,
    fun i hi => (hslots i hi).trans (h.slots i hi)⟩

theorem auDue_go {s : State} {k x : Nat} {n : Int} (hk : k < s.dies * 48) (hon : s.slotOn x = true) (hretired : s.retired (contextRef k) = false)
    (hnow : n ≤ gridFloor s.now) : (decide (k < s.dies * 48) && s.slotOn x && !s.retired (contextRef k) && decide (n ≤ gridFloor s.now)) = true := by
  rw [decide_eq_true hk, hon, hretired, decide_eq_true hnow]
  rfl

section
variable {s : State} {k x : Nat} {n : Int} {finished : Bool} (hslot : s.contextSlot k = some x) (hdue : s.unitDue k = some n)
    (hgo : (decide (k < s.dies * 48) && s.slotOn x && !s.retired (contextRef k) && decide (n ≤ gridFloor s.now)) = true)
include hslot hdue hgo

/-- A lost or missing unit after the follower has begun is filled (R231). -/
theorem auDue_fills {next : Option HeldUnit} (hnext : (s.audio.contexts.get k).nextUnit = next) (hlost : unitLost next = true)
    (hsegs : (s.audio.contexts.get k).segs ≠ []) :
    exec (.auDue k finished) s = .next ((dueStep k x next (fun z => z.fill next (s.unitCarried x next)) s).setSlot x fun z => { z with auLost := z.auLost + 1 }) := by
  change execAuDue k finished s = _
  unfold execAuDue
  dsimp only
  rw [hslot, hdue]
  dsimp only
  rw [hnext, onlyIf_of_true hgo, if_neg (by simp [hsegs]), if_pos hlost]
  rfl

/-- Before the follower has begun, a unit that is lost, or not finished, only leaves the wait (R236). -/
theorem auDue_drops {next : Option HeldUnit} (hnext : (s.audio.contexts.get k).nextUnit = next)
    (hbad : (!unitLost next && next.all fun h => !codecSupported h.unit.codec || finished) = false) (hsegs : (s.audio.contexts.get k).segs = []) :
    exec (.auDue k finished) s = .next ((dueStep k x next (fun z => z.take next) s).setSlot x fun z =>
      { z with auLost := if unitLost next then z.auLost + 1 else z.auLost }) := by
  change execAuDue k finished s = _
  unfold execAuDue
  dsimp only
  rw [hslot, hdue]
  dsimp only
  rw [hnext, onlyIf_of_true hgo, if_pos (by rw [hsegs, hbad]; rfl)]
  rfl

variable {h : HeldUnit} (hnext : (s.audio.contexts.get k).nextUnit = some h) (hlost : unitLost (some h) = false)
include hnext hlost

/-- A good unit whose codec the part lacks is muted (R232). -/
theorem auDue_mutes (hcodec : codecSupported h.unit.codec = false) :
    exec (.auDue k finished) s = .next (dueClass x (gridInstant n.toNat) h.unit.scrambled
      (dueStep k x (some h) (fun z => z.mutedUnit h (s.contextDelay k) (s.unitCarried x (some h))) s)) := by
  change execAuDue k finished s = _
  unfold execAuDue
  dsimp only
  rw [hslot, hdue]
  dsimp only
  rw [hnext, onlyIf_of_true hgo, if_neg (by simp [hlost, hcodec]), if_neg (by simp [hlost])]
  dsimp only
  rw [if_pos (by rw [hcodec]; rfl)]
  rfl

/-- A good unit not finished in time is late (R235). -/
theorem auDue_late (hcodec : codecSupported h.unit.codec = true) (hsegs : (s.audio.contexts.get k).segs ≠ []) :
    exec (.auDue k false) s = .next (dueClass x (gridInstant n.toNat) h.unit.scrambled
      ((dueStep k x (some h) (fun z => z.lateUnit h (s.unitCarried x (some h))) s).setSlot x fun z => { z with auLate := z.auLate + 1 })) := by
  change execAuDue k false s = _
  unfold execAuDue
  dsimp only
  rw [hslot, hdue]
  dsimp only
  rw [hnext, onlyIf_of_true hgo, if_neg (by simp [hsegs]), if_neg (by simp [hlost])]
  dsimp only
  rw [if_neg (by rw [hcodec]; simp), if_pos Bool.not_false]
  rfl

/-- A good unit finished in time is decoded (R230). -/
theorem auDue_decodes (hcodec : codecSupported h.unit.codec = true) :
    exec (.auDue k true) s = .next (dueClass x (gridInstant n.toNat) h.unit.scrambled
      (dueStep k x (some h) (fun z => z.decodedUnit h (s.contextDelay k) (s.unitCarried x (some h))) s)) := by
  change execAuDue k true s = _
  unfold execAuDue
  dsimp only
  rw [hslot, hdue]
  dsimp only
  rw [hnext, onlyIf_of_true hgo, if_neg (by simp [hlost]), if_neg (by simp [hlost])]
  dsimp only
  rw [if_neg (by rw [hcodec]; simp), if_neg (by simp)]
  rfl

end

/-! ### What the unit leaves in its context -/

section
variable {y : ContextSt} {h : HeldUnit} {rest : List HeldUnit}

theorem ContextSt.begin_queue (hq : y.queue = h :: rest) (delay : Int) : (y.begin_ h delay).queue = rest := by
  unfold ContextSt.begin_ ContextSt.anchor ContextSt.take
  split <;> simp [hq]

theorem ContextSt.begin_units (h : HeldUnit) (delay : Int) : (y.begin_ h delay).units = y.units := by
  unfold ContextSt.begin_ ContextSt.anchor ContextSt.take
  split <;> rfl

theorem ContextSt.take_queue (hq : y.queue = h :: rest) : (y.take (some h)).queue = rest := by
  simp [ContextSt.take, hq]

theorem ContextSt.take_units (next : Option HeldUnit) : (y.take next).units = y.units := by
  unfold ContextSt.take
  split <;> rfl

theorem ContextSt.fill_queue (hq : y.queue = h :: rest) (carried : Nat) : (y.fill (some h) carried).queue = rest := by
  unfold ContextSt.fill ContextSt.put ContextSt.push
  exact ContextSt.take_queue hq

theorem ContextSt.mutedUnit_queue (hq : y.queue = h :: rest) (delay : Int) (carried : Nat) : (y.mutedUnit h delay carried).queue = rest := by
  unfold ContextSt.mutedUnit ContextSt.put ContextSt.push
  exact ContextSt.begin_queue hq delay

theorem ContextSt.lateUnit_queue (hq : y.queue = h :: rest) (carried : Nat) : (y.lateUnit h carried).queue = rest := by
  unfold ContextSt.lateUnit ContextSt.put ContextSt.push
  exact ContextSt.take_queue hq

theorem ContextSt.decodedUnit_queue (hq : y.queue = h :: rest) (delay : Int) (carried : Nat) : (y.decodedUnit h delay carried).queue = rest := by
  unfold ContextSt.decodedUnit ContextSt.put ContextSt.push
  exact ContextSt.begin_queue hq delay

theorem ContextSt.put_head {z : ContextSt} (hz : z.units = y.units) (h : HeldUnit) (rate : Nat) (samples : List (Int × Int)) (fl overlap : Nat) :
    (z.put (some h) rate samples fl overlap).units.head? =
      some { start := y.stop, base := h.unit.doneAt, first := h.first, rate := rate, samples := samples, flags := fl, overlap := overlap } := by
  have hstop : z.stop = y.stop := by unfold ContextSt.stop; rw [hz]
  unfold ContextSt.put ContextSt.push
  rw [hstop]
  rfl

end

theorem unitLost_iff (h : HeldUnit) : unitLost (some h) = true ↔ h.lost = true ∨ h.unit.crcOk = false ∨ h.unit.erased = true ∨ h.unit.rsFailed = true := by
  simp [unitLost, AccessUnit.damaged, or_assoc]

theorem unitLost_eq_false {h : HeldUnit} (hgood : h.lost = false ∧ h.unit.crcOk = true ∧ h.unit.erased = false ∧ h.unit.rsFailed = false) :
    unitLost (some h) = false := by
  obtain ⟨hl, hc, he, hr⟩ := hgood
  simp [unitLost, AccessUnit.damaged, hl, hc, he, hr]

section
variable {s : State} {k x : Nat} {n : Int} {finished : Bool} {h : HeldUnit} {rest : List HeldUnit} (hslot : s.contextSlot k = some x) (hdue : s.unitDue k = some n)
    (hgo : (decide (k < s.dies * 48) && s.slotOn x && !s.retired (contextRef k) && decide (n ≤ gridFloor s.now)) = true)
    (hnext : (s.audio.contexts.get k).nextUnit = some h) (hqueue : (s.audio.contexts.get k).queue = h :: rest)
include hslot hdue hgo hnext hqueue

theorem auDue_taken {t : State} (hrun : exec (.auDue k finished) s = .next t) : DueTaken k x rest s t := by
  have htake := dueStep_taken (x := x) (next := some h) (f := fun z => z.take (some h)) (ContextSt.take_queue hqueue)
  cases hlost : unitLost (some h) with
  | true =>
    rcases List.eq_nil_or_concat (s.audio.contexts.get k).segs with hsegs | ⟨_, _, hsegs⟩
    · rw [auDue_drops hslot hdue hgo hnext (by rw [hlost]; rfl) hsegs] at hrun
      cases hrun
      exact htake.setSlot _ fun _ => rfl
    · rw [auDue_fills hslot hdue hgo hnext hlost (by simp [hsegs])] at hrun
      cases hrun
      have hfill := dueStep_taken (x := x) (next := some h) (f := fun z => z.fill (some h) (s.unitCarried x (some h))) (ContextSt.fill_queue hqueue _)
      exact hfill.setSlot _ fun _ => rfl
  | false =>
    cases hcodec : codecSupported h.unit.codec with
    | false =>
      rw [auDue_mutes hslot hdue hgo hnext hlost hcodec] at hrun
      cases hrun
      have hmuted := dueStep_taken (x := x) (next := some h) (f := fun z => z.mutedUnit h (s.contextDelay k) (s.unitCarried x (some h))) (ContextSt.mutedUnit_queue hqueue _ _)
      exact hmuted.dueClass _ _
    | true =>
      cases finished with
      | true =>
        rw [auDue_decodes hslot hdue hgo hnext hlost hcodec] at hrun
        cases hrun
        have hdecoded := dueStep_taken (x := x) (next := some h) (f := fun z => z.decodedUnit h (s.contextDelay k) (s.unitCarried x (some h)))
          (ContextSt.decodedUnit_queue hqueue _ _)
        exact hdecoded.dueClass _ _
      | false =>
        rcases List.eq_nil_or_concat (s.audio.contexts.get k).segs with hsegs | ⟨_, _, hsegs⟩
        · rw [auDue_drops hslot hdue hgo hnext (by simp [hcodec]) hsegs] at hrun
          cases hrun
          exact htake.setSlot _ fun _ => rfl
        · rw [auDue_late hslot hdue hgo hnext hlost hcodec (by simp [hsegs])] at hrun
          cases hrun
          have hlate := dueStep_taken (x := x) (next := some h) (f := fun z => z.lateUnit h (s.unitCarried x (some h))) (ContextSt.lateUnit_queue hqueue _)
          exact (hlate.setSlot (fun z => { z with auLate := z.auLate + 1 }) fun _ => rfl).dueClass _ _

end

theorem auDue_settles {s : State} {k x : Nat} {n : Int} {finished : Bool} {h : HeldUnit} {rest : List HeldUnit} (hslot : s.contextSlot k = some x)
    (hk : k < s.dies * 48) (hon : s.slotOn x = true) (hretired : s.retired (contextRef k) = false) (hdue : s.unitDue k = some n)
    (hnow : n ≤ gridFloor s.now) (hnext : (s.audio.contexts.get k).nextUnit = some h) (hqueue : (s.audio.contexts.get k).queue = h :: rest) :
    ∃ t, exec (.auDue k finished) s = .next t ∧ Only [.audio, .link, .integ, .sec] s t ∧ (t.audio.contexts.get k).queue = rest
      ∧ (t.audio.slots.get x).auTotal = (s.audio.slots.get x).auTotal + 1
      ∧ ((h.lost = false ∧ h.unit.crcOk = true ∧ h.unit.erased = false ∧ h.unit.rsFailed = false) → codecSupported h.unit.codec = true → finished = true →
          (t.audio.contexts.get k).auDecoded = (s.audio.contexts.get k).auDecoded + 1 ∧ (t.audio.contexts.get k).afterLoss = false ∧ (t.audio.contexts.get k).inRun = false
          ∧ (t.audio.contexts.get k).fOut = h.rate ∧ (t.audio.contexts.get k).channels = h.channels ∧ (t.audio.contexts.get k).decoding = true
          ∧ (t.audio.contexts.get k).memory = (Config.audioDecode h.unit.codec (s.audio.contexts.get k).memory h.unit.payload).1
          ∧ (t.audio.contexts.get k).units.head? = some
              { start := (s.audio.contexts.get k).stop, base := h.unit.doneAt, first := h.first, rate := h.rate
                samples := (Config.audioDecode h.unit.codec (s.audio.contexts.get k).memory h.unit.payload).2, flags := h.unit.flags &&& feedCarried
                overlap := if (s.audio.contexts.get k).afterLoss then Config.audioOverlap h.unit.codec h.rate else 0 }
          ∧ (t.audio.slots.get x).auLost = (s.audio.slots.get x).auLost ∧ (t.audio.slots.get x).auLate = (s.audio.slots.get x).auLate)
      ∧ ((h.lost = false ∧ h.unit.crcOk = true ∧ h.unit.erased = false ∧ h.unit.rsFailed = false) → codecSupported h.unit.codec = true → finished = false →
          (s.audio.contexts.get k).segs ≠ [] →
          (t.audio.contexts.get k).auLate = (s.audio.contexts.get k).auLate + 1 ∧ (t.audio.slots.get x).auLate = (s.audio.slots.get x).auLate + 1
          ∧ (t.audio.contexts.get k).afterLoss = true
          ∧ (t.audio.contexts.get k).units.head? = some
              { start := (s.audio.contexts.get k).stop, base := h.unit.doneAt, first := h.first, rate := h.rate
                samples := List.replicate h.length (0, 0), flags := flLate ||| (h.unit.flags &&& feedCarried) })
      ∧ ((h.lost = false ∧ h.unit.crcOk = true ∧ h.unit.erased = false ∧ h.unit.rsFailed = false) → codecSupported h.unit.codec = false →
          (t.audio.contexts.get k).decoding = false ∧ (t.audio.contexts.get k).units.head? = some
              { start := (s.audio.contexts.get k).stop, base := h.unit.doneAt, first := h.first, rate := h.rate
                samples := List.replicate h.length (0, 0), flags := flMuted ||| (h.unit.flags &&& feedCarried) })
      ∧ ((h.lost = true ∨ h.unit.crcOk = false ∨ h.unit.erased = true ∨ h.unit.rsFailed = true) →
          (t.audio.slots.get x).auLost = (s.audio.slots.get x).auLost + 1
          ∧ ((s.audio.contexts.get k).segs ≠ [] → (t.audio.contexts.get k).inRun = true ∧ (t.audio.contexts.get k).afterLoss = true
              ∧ ((t.audio.contexts.get k).units.head?.map (·.flags)) = some (flFill ||| (h.unit.flags &&& feedCarried)))
          ∧ ((s.audio.contexts.get k).segs = [] → (t.audio.contexts.get k).units = (s.audio.contexts.get k).units))
      ∧ (∀ i, i ≠ k → t.audio.contexts.get i = s.audio.contexts.get i) ∧ ∀ i, i ≠ x → t.audio.slots.get i = s.audio.slots.get i := by
  have hgo := auDue_go hk hon hretired hnow
  obtain ⟨t, hrun⟩ : ∃ t, exec (.auDue k finished) s = .next t := by
    change ∃ t, execAuDue k finished s = _
    unfold execAuDue
    dsimp only
    rw [hslot, hdue]
    exact ⟨_, rfl⟩
  have htaken := auDue_taken hslot hdue hgo hnext hqueue hrun
  refine ⟨t, hrun, (execAuDue_frames k finished s).onlyOf hrun, htaken.queue, htaken.counted, fun hgood hcodec hfin => ?_, fun hgood hcodec hfin hsegs => ?_,
    fun hgood hcodec => ?_, fun hbad => ⟨?_, fun hsegs => ?_, fun hsegs => ?_⟩, htaken.contexts, htaken.slots⟩
  · subst hfin
    rw [auDue_decodes hslot hdue hgo hnext (unitLost_eq_false hgood) hcodec] at hrun
    cases hrun
    obtain ⟨⟨cls, run, ends, spans, hself⟩, -⟩ := dueClass_slots x (gridInstant n.toNat) h.unit.scrambled
      (dueStep k x (some h) (fun z => z.decodedUnit h (s.contextDelay k) (s.unitCarried x (some h))) s)
    rw [dueClass_contexts, dueStep_context, hself, dueStep_slot]
    exact ⟨rfl, rfl, rfl, rfl, rfl, rfl, rfl, ContextSt.put_head (ContextSt.begin_units _ _) _ _ _ _ _, rfl, rfl⟩
  · subst hfin
    rw [auDue_late hslot hdue hgo hnext (unitLost_eq_false hgood) hcodec hsegs] at hrun
    cases hrun
    obtain ⟨⟨cls, run, ends, spans, hself⟩, -⟩ := dueClass_slots x (gridInstant n.toNat) h.unit.scrambled
      ((dueStep k x (some h) (fun z => z.lateUnit h (s.unitCarried x (some h))) s).setSlot x fun z => { z with auLate := z.auLate + 1 })
    rw [dueClass_contexts, (State.setSlot_beside _ _ _).2, dueStep_context, hself, State.setSlot_self, dueStep_slot]
    exact ⟨rfl, rfl, rfl, ContextSt.put_head (ContextSt.take_units _) _ _ _ _ _⟩
  · rw [auDue_mutes hslot hdue hgo hnext (unitLost_eq_false hgood) hcodec] at hrun
    cases hrun
    rw [dueClass_contexts, dueStep_context]
    exact ⟨rfl, ContextSt.put_head (ContextSt.begin_units _ _) _ _ _ _ _⟩
  · have hlost := (unitLost_iff h).mpr hbad
    rcases List.eq_nil_or_concat (s.audio.contexts.get k).segs with hsegs | ⟨_, _, hsegs⟩
    · rw [auDue_drops hslot hdue hgo hnext (by rw [hlost]; rfl) hsegs] at hrun
      cases hrun
      rw [State.setSlot_self, dueStep_slot, hlost]
      rfl
    · rw [auDue_fills hslot hdue hgo hnext hlost (by simp [hsegs])] at hrun
      cases hrun
      rw [State.setSlot_self, dueStep_slot]
      rfl
  · rw [auDue_fills hslot hdue hgo hnext ((unitLost_iff h).mpr hbad) hsegs] at hrun
    cases hrun
    rw [(State.setSlot_beside _ _ _).2, dueStep_context]
    exact ⟨rfl, rfl, rfl⟩
  · rw [auDue_drops hslot hdue hgo hnext (by rw [(unitLost_iff h).mpr hbad]; rfl) hsegs] at hrun
    cases hrun
    rw [(State.setSlot_beside _ _ _).2, dueStep_context, ContextSt.take_units]

theorem auDue_fillsMissing {s : State} {k x : Nat} {n : Int} {finished : Bool} {u : PcmUnit} (hslot : s.contextSlot k = some x) (hk : k < s.dies * 48)
    (hon : s.slotOn x = true) (hretired : s.retired (contextRef k) = false) (hdue : s.unitDue k = some n) (hnow : n ≤ gridFloor s.now)
    (hnext : (s.audio.contexts.get k).nextUnit = none) (hsegs : (s.audio.contexts.get k).segs ≠ [])
    (hhead : (s.audio.contexts.get k).units.head? = some u) :
    ∃ t, exec (.auDue k finished) s = .next t ∧ Only [.audio] s t ∧ (t.audio.slots.get x).auLost = (s.audio.slots.get x).auLost + 1
      ∧ (t.audio.contexts.get k).queue = (s.audio.contexts.get k).queue ∧ (t.audio.contexts.get k).inRun = true ∧ (t.audio.contexts.get k).afterLoss = true
      ∧ (t.audio.contexts.get k).units.head? = some
          { start := (s.audio.contexts.get k).stop, base := u.base, first := u.first + u.samples.length, rate := u.rate
            samples := if (s.audio.contexts.get k).inRun then List.replicate u.samples.length (0, 0)
              else (Config.audioConceal ((s.audio.contexts.get k).codec.getD 0) (s.audio.contexts.get k).memory u.samples.length).2
            flags := flFill ||| s.unitCarried x none } := by
  refine ⟨_, auDue_fills hslot hdue (auDue_go hk hon hretired hnow) hnext rfl hsegs, (dueStep_only _ _ _ _ _).trans (State.setSlot_only _ _ _), ?_⟩
  rw [State.setSlot_self, dueStep_slot, (State.setSlot_beside _ _ _).2, dueStep_context]
  refine ⟨rfl, rfl, rfl, rfl, ?_⟩
  unfold ContextSt.fill ContextSt.put ContextSt.take ContextSt.push
  simp only [Option.isSome_none, Bool.false_eq_true, if_false, hhead, Option.map_some, Option.map_none, Option.getD_some, Option.getD_none, List.head?_cons, apply_ite Prod.snd]

/-! ### Vectors -/

theorem slotKat_retiresContext {s : State} {i : Nat} (hi : i < s.dies * 48) (hdie : s.dieRuns (contextRef i).die = true)
    (hretired : s.retired (contextRef i) = false) :
    (∃ t, exec (.slotKat true i true true) s = .next t ∧ Only [.spans, .link, .integ, .mode, .sec, .nv, .modeCode] s t ∧ t.retired (contextRef i) = true
      ∧ Raises s t .contextRetired (contextRef i).die [.w ((contextRef i).die * 48 + (contextRef i).loc : Nat), .q s.now])
    ∧ ∀ b, exec (.slotKat true i false b) s = .next s ∧ exec (.slotKat true i b false) s = .next s := by
  refine ⟨⟨retireAudio (contextRef i) s, onlyIf_of_true ?_, retireAudio_only _ _, retireAudio_facts _ _, retireAudio_raises (contextRef i) s⟩,
    fun b => ⟨onlyIf_of_false ?_, onlyIf_of_false (Bool.and_false _)⟩⟩
  · rw [if_pos rfl, if_pos rfl, decide_eq_true hi, hdie, hretired]
    rfl
  · rw [Bool.and_false, Bool.false_and]

theorem slotKat_retiresSlot {s : State} {i : Nat} (hi : i < s.dies * 64) (hdie : s.dieRuns (slotRef i).die = true) (hretired : s.retired (slotRef i) = false) :
    (∃ t, exec (.slotKat false i true true) s = .next t ∧ Only [.spans, .link, .integ, .mode, .sec, .nv, .modeCode] s t ∧ t.retired (slotRef i) = true
      ∧ Raises s t .slotRetired (slotRef i).die [.w ((slotRef i).die * 64 + (slotRef i).loc : Nat), .q s.now])
    ∧ ∀ b, exec (.slotKat false i false b) s = .next s ∧ exec (.slotKat false i b false) s = .next s := by
  refine ⟨⟨retireAudio (slotRef i) s, onlyIf_of_true ?_, retireAudio_only _ _, retireAudio_facts _ _, retireAudio_raises (slotRef i) s⟩,
    fun b => ⟨onlyIf_of_false ?_, onlyIf_of_false (Bool.and_false _)⟩⟩
  · rw [if_neg Bool.false_ne_true, if_neg Bool.false_ne_true, decide_eq_true hi, hdie, hretired]
    rfl
  · rw [Bool.and_false, Bool.false_and]

/-- Settles O33: each clause by the rule of what becomes of a unit received, due, missing, or of a vector above. -/
theorem decodeContexts : Obligations.DecodeContexts :=
  ⟨fun _ _ _ _ _ => accessUnitReceived_queues, fun _ _ _ _ _ _ _ => auDue_settles, fun _ _ _ _ _ _ => auDue_fillsMissing, fun _ _ => slotKat_retiresContext,
    fun _ _ => slotKat_retiresSlot⟩

end Sys2Proof.Machine
end

section
/-!
PROOFS. Slot measurements: the rate follower, loudness, silence, classes, the programme match, records (08 R233 to R243).
-/
namespace Sys2Proof.Machine

/-- An event raised after a step that keeps the time and loses no event. -/
theorem Raises.after {as : List Aspect} {s u t : State} {n : EvName} {o : Nat} {args : List EvArg} (h : Only as s u) (he : as.contains .events = false)
    (ht : as.contains .systime = false) (k : Raises u t n o args) : Raises s t n o args := by
  obtain ⟨l, q, hl, hm⟩ := k
  obtain ⟨m, hm'⟩ := h .events he
  have hnow : u.now = s.now := h.now ht
  exact ⟨m ++ l, q, by rw [hl, ← hm', List.append_assoc], List.mem_append_right m (hnow ▸ hm)⟩

/-! ### The rate follower -/

theorem clampInt_bounds {lo hi : Int} (h : lo ≤ hi) (v : Int) : lo ≤ clampInt lo hi v ∧ clampInt lo hi v ≤ hi :=
  ⟨Int.le_max_left _ _, Int.max_le.mpr ⟨h, Int.min_le_left _ _⟩⟩

theorem rateFollowerUpdate_follows {s : State} {k x : Nat} {u : PcmUnit} {us : List PcmUnit} {q : FollowerSeg} {qs : List FollowerSeg} {z eps : Int}
    (hslot : s.contextSlot k = some x) (hon : s.slotOn x = true) (hfresh : (s.audio.contexts.get k).fresh = true)
    (hunits : (s.audio.contexts.get k).units = u :: us) (hsegs : (s.audio.contexts.get k).segs = q :: qs)
    (hz : z = q.place + ((gridFloor s.now : Nat) - q.at_) * (1000000000 + q.corr)) (heps : eps = s.followerError k (gridFloor s.now : Nat) z u) :
    ∃ t, exec (.rateFollowerUpdate k) s = .next t ∧ Only [.audio] s t
      ∧ (960000000000 < eps.natAbs → t.audio.contexts.get k = { s.audio.contexts.get k with fresh := false, eps := eps, resync := true })
      ∧ (eps.natAbs ≤ 960000000000 →
          (t.audio.contexts.get k).fresh = false ∧ (t.audio.contexts.get k).eps = eps ∧ (t.audio.contexts.get k).epsSum = (s.audio.contexts.get k).epsSum + eps
          ∧ -1000000 ≤ (t.audio.contexts.get k).corr ∧ (t.audio.contexts.get k).corr ≤ 1000000 ∧ (t.audio.contexts.get k).resync = (s.audio.contexts.get k).resync
          ∧ (t.audio.contexts.get k).segs.head? = some ⟨(gridFloor s.now : Nat), z, (t.audio.contexts.get k).corr⟩)
      ∧ ∀ i, i ≠ k → t.audio.contexts.get i = s.audio.contexts.get i := by
  have hlimit : (resyncLimit < eps.natAbs) = (960000000000 < eps.natAbs) := by
    unfold resyncLimit placeMs
    exact propext (by omega)
  obtain ⟨e, he, hrun⟩ : ∃ e, (-1000000 ≤ e ∧ e ≤ 1000000) ∧ exec (.rateFollowerUpdate k) s = .next (if resyncLimit < eps.natAbs
      then s.setContext k fun y => { y with fresh := false, eps := eps, resync := true }
      else s.setContext k fun y => { y with fresh := false, eps := eps, epsSum := y.epsSum + eps, corr := e, segs := (⟨(gridFloor s.now : Nat), z, e⟩ :: y.segs).take 256 }) := by
    refine ⟨clampInt (-1000000) 1000000 (roundDiv (Config.followerGains.1 * eps + Config.followerGains.2 * ((s.audio.contexts.get k).epsSum + eps)) (2 ^ 40)),
      clampInt_bounds (by decide) _, ?_⟩
    change execRateFollowerUpdate k s = _
    unfold execRateFollowerUpdate
    dsimp only
    rw [hslot, hunits, hsegs]
    rw [heps, hz]
    exact onlyIf_of_true (by rw [hon, hfresh]; rfl)
  refine ⟨_, hrun, Only.ite (State.setContext_only _ _ _) (State.setContext_only _ _ _), fun hfar => ?_, fun hnear => ?_, fun i hi => ?_⟩
  · rw [if_pos (hlimit ▸ hfar), State.setContext_self]
  · rw [if_neg (hlimit ▸ Nat.not_lt.mpr hnear), State.setContext_self]
    exact ⟨rfl, rfl, rfl, he.1, he.2, rfl, rfl⟩
  · split
    · exact State.setContext_of_ne _ _ _ hi
    · exact State.setContext_of_ne _ _ _ hi

theorem slotResync_anchors {s : State} {k x : Nat} {u : PcmUnit} {us : List PcmUnit} (hslot : s.contextSlot k = some x) (hon : s.slotOn x = true)
    (hresync : (s.audio.contexts.get k).resync = true) (hunits : (s.audio.contexts.get k).units = u :: us) (hblock : s.now % 200000 = 0) :
    ∃ t, exec (.slotResync k) s = .next t ∧ Only [.audio, .link, .integ, .sec] s t
      ∧ (t.audio.contexts.get k).resync = false ∧ (t.audio.contexts.get k).eps = 0 ∧ (t.audio.contexts.get k).epsSum = 0 ∧ (t.audio.slots.get x).resyncSeen = true
      ∧ (∃ place, (t.audio.contexts.get k).segs.head? = some ⟨(gridCeil s.now : Nat), place, (s.audio.contexts.get k).corr⟩
          ∧ t.followerError k (gridCeil s.now : Nat) place u = 0)
      ∧ Raises s t .slotResync (slotDie x) [.w x, .w ((s.audio.contexts.get k).eps / 480000), .q s.now]
      ∧ (∀ i, i ≠ k → t.audio.contexts.get i = s.audio.contexts.get i) ∧ ∀ i, i ≠ x → t.audio.slots.get i = s.audio.slots.get i := by
  obtain ⟨place, hplace⟩ : ∃ p : Int, p = u.start + ((gridCeil s.now : Nat) * placeStep - s.contextDelay k - u.air) := ⟨_, rfl⟩
  obtain ⟨v, hv⟩ : ∃ v, v = (s.setContext k fun y => { y with resync := false, eps := 0, epsSum := 0, segs := (⟨(gridCeil s.now : Nat), place, y.corr⟩ :: y.segs).take 256 }).setSlot x
      fun z => { z with resyncSeen := true } := ⟨_, rfl⟩
  have hrun : exec (.slotResync k) s = .next (raise .slotResync (slotDie x) [.w x, .w ((s.audio.contexts.get k).eps / placeCount), .q s.now] v) := by
    have hgrid : decide (s.now % countsPerBlock = 0) = true := decide_eq_true hblock
    rw [hv, hplace]
    change execSlotResync k s = _
    unfold execSlotResync
    dsimp only
    rw [hslot, hunits]
    exact onlyIf_of_true (by rw [hon, hresync, hgrid]; rfl)
  have hv' : Only [.audio] s v := hv ▸ (State.setContext_only _ _ _).trans (State.setSlot_only _ _ _)
  have hcontext : v.audio.contexts.get k = { s.audio.contexts.get k with
      resync := false, eps := 0, epsSum := 0, segs := (⟨(gridCeil s.now : Nat), place, (s.audio.contexts.get k).corr⟩ :: (s.audio.contexts.get k).segs).take 256 } := by
    rw [hv, (State.setSlot_beside _ _ _).2, State.setContext_self]
  have hraise := raise_only .slotResync (slotDie x) [.w x, .w ((s.audio.contexts.get k).eps / placeCount), .q s.now] v
  have haudio := hraise .audio rfl
  have hdelay : (raise .slotResync (slotDie x) [.w x, .w ((s.audio.contexts.get k).eps / placeCount), .q s.now] v).contextDelay k = s.contextDelay k := by
    have hcfg : (raise .slotResync (slotDie x) [.w x, .w ((s.audio.contexts.get k).eps / placeCount), .q s.now] v).cfg.active = s.cfg.active :=
      congrArg CfgSt.active ((hraise .cfg rfl).trans (hv' .cfg rfl))
    have hfollows : v.audio.follows = s.audio.follows := by rw [hv]; rfl
    unfold State.contextDelay State.contextSlot State.memberDelayOf
    rw [haudio, hcfg, hcontext, hfollows]
  refine ⟨_, hrun, (hv'.mono rfl).trans (hraise.mono rfl), ?_, ?_, ?_, ?_, ⟨place, ?_, ?_⟩, Raises.raise hv' rfl rfl _ _ _, fun i hi => ?_, fun i hi => ?_⟩
  · rw [haudio, hcontext]
  · rw [haudio, hcontext]
  · rw [haudio, hcontext]
  · rw [haudio, hv, State.setSlot_self]
  · rw [haudio, hcontext]
    rfl
  · unfold State.followerError
    rw [hdelay, hplace]
    omega
  · rw [haudio, hv, (State.setSlot_beside _ _ _).2, State.setContext_of_ne _ _ _ hi]
  · rw [haudio, hv, State.setSlot_of_ne _ _ _ hi, (State.setContext_beside _ _ _).2]

/-! ### What is heard of a slot -/

theorem hearSlot_slot (a : Air) (x t : Nat) (s : State) : ∃ pcm pcmTo sat,
    (hearSlot a x t s).audio.slots.get x = { s.audio.slots.get x with pcm := pcm, pcmTo := pcmTo, satSticky := sat } :=
  ⟨_, _, _, State.setSlot_self _ _ _⟩

theorem hearSlot_slot_of_ne (a : Air) (x t : Nat) (s : State) {i : Nat} (h : i ≠ x) : (hearSlot a x t s).audio.slots.get i = s.audio.slots.get i :=
  State.setSlot_of_ne _ _ _ h

/-- The slot `x` heard up to `t`, with `g` noted on it. -/
def heardWith (a : Air) (x t : Nat) (g : SlotSt → SlotSt) (s : State) : State := (hearSlot a x t s).setSlot x g

theorem heardWith_only (a : Air) (x t : Nat) (g : SlotSt → SlotSt) (s : State) : Only [.audio] s (heardWith a x t g s) :=
  (hearSlot_only a x t s).trans (State.setSlot_only _ _ _)

theorem heardWith_slot (a : Air) (x t : Nat) (g : SlotSt → SlotSt) (s : State) :
    (heardWith a x t g s).audio.slots.get x = g ((hearSlot a x t s).audio.slots.get x) := State.setSlot_self _ _ _

theorem heardWith_slot_of_ne (a : Air) (x t : Nat) (g : SlotSt → SlotSt) (s : State) {i : Nat} (h : i ≠ x) :
    (heardWith a x t g s).audio.slots.get i = s.audio.slots.get i := (State.setSlot_of_ne _ _ _ h).trans (hearSlot_slot_of_ne _ _ _ _ h)

/-! ### Loudness -/

theorem SlotSt.addBlock_recent (y : SlotSt) (z : Option Nat) : (y.addBlock z).recent = (z :: y.recent).take 30 ∧ (y.addBlock z).loudTo = y.loudTo := by
  cases z with
  | none => exact ⟨rfl, rfl⟩
  | some v => exact ⟨rfl, rfl⟩

theorem loudnessBlock_measures {s : State} {x t1 : Nat} {air : Air} {y : SlotSt} {z : Option Nat} (hon : s.slotOn x = true)
    (ht1 : t1 = s.now / 10000000 * 10000000) (hdue : (s.audio.slots.get x).loudTo < t1) (hy : y = (hearSlot air x t1 s).audio.slots.get x)
    (hz : z = y.blockPower (gridCeil t1 - 19200) (gridCeil t1)) :
    ∃ t, exec (.loudnessBlock x air) s = .next t ∧ Only [.audio, .sec] s t
      ∧ (t.audio.slots.get x).recent = (z :: y.recent).take 30 ∧ (t.audio.slots.get x).loudTo = t1
      ∧ (z = none → t.audio.slots.get x = { y with recent := (none :: y.recent).take 30, loudTo := t1 })
      ∧ (∀ v, z = some v → (t.audio.slots.get x).zLast = some v ∧ (t.audio.slots.get x).zMax = some (max v (y.zMax.getD 0)))
      ∧ (∀ v, z = some v → -7000 < loudOf v → (t.audio.slots.get x).integ = y.integ ++ [v] ∧ (t.audio.slots.get x).zCount = y.zCount + 1 ∧ (t.audio.slots.get x).zSum = y.zSum + v)
      ∧ (∀ v, z = some v → loudOf v ≤ -7000 → (t.audio.slots.get x).integ = y.integ ∧ (t.audio.slots.get x).zCount = y.zCount ∧ (t.audio.slots.get x).zSum = y.zSum)
      ∧ ∀ i, i ≠ x → t.audio.slots.get i = s.audio.slots.get i := by
  have hrun : exec (.loudnessBlock x air) s = .next (loudNote x t1 ((heardWith air x t1 (fun y => { y with loudTo := t1 }) s).setSlot x fun y =>
      y.addBlock (y.blockPower (gridCeil t1 - 19200) (gridCeil t1)))) := by
    subst ht1
    exact onlyIf_of_true (by rw [hon, decide_eq_true hdue]; rfl)
  have hslot : (loudNote x t1 ((heardWith air x t1 (fun y => { y with loudTo := t1 }) s).setSlot x fun y =>
      y.addBlock (y.blockPower (gridCeil t1 - 19200) (gridCeil t1)))).audio.slots.get x = SlotSt.addBlock { y with loudTo := t1 } z := by
    rw [loudNote_only _ _ _ .audio rfl, State.setSlot_self, heardWith_slot, ← hy, hz]
    rfl
  refine ⟨_, hrun, (((heardWith_only _ _ _ _ _).trans (State.setSlot_only _ _ _)).mono rfl).trans ((loudNote_only _ _ _).mono rfl), ?_⟩
  rw [hslot]
  refine ⟨(SlotSt.addBlock_recent _ _).1, (SlotSt.addBlock_recent _ _).2, ?_, ?_, ?_, ?_, fun i hi => ?_⟩
  · rintro hnone
    rw [hnone]
    rfl
  · rintro v hsome
    rw [hsome]
    exact ⟨rfl, rfl⟩
  · rintro v hsome hloud
    have hgate : decide (-7000 < loudOf v) = true := decide_eq_true hloud
    rw [hsome]
    simp only [SlotSt.addBlock, hgate, if_true, and_self]
  · rintro v hsome hloud
    have hgate : decide (-7000 < loudOf v) = false := decide_eq_false (Int.not_lt.mpr hloud)
    rw [hsome]
    simp only [SlotSt.addBlock, hgate, Bool.false_eq_true, if_false, and_self]
  · rw [loudNote_only _ _ _ .audio rfl, State.setSlot_of_ne _ _ _ hi, heardWith_slot_of_ne _ _ _ _ _ hi]

/-! ### Silence -/

section
variable (x t0 t1 : Nat) (s : State)

/-- The peak of the window of slot `x` from `t0` to `t1`, and the air instant of its first sample. -/
def windowPeak : Option Int := peakOf ((s.audio.slots.get x).between (gridCeil t0) (gridCeil t1))
def windowAir : Nat := t0 - (s.slotLatency x (gridCeil t0)).getD 0

/-- The window counted, with its words for the slot's leaf. -/
def windowCounted : State :=
  note { kind := 3, index := x, at_ := t0, tag := .silence, vals := [if (windowPeak x t0 t1 s).any (· ≤ (s.cfg.active.slots.get x).silenceLevel) then 1 else 0] }
    (note { kind := 3, index := x, at_ := t0, tag := .words, bytes := ((s.audio.slots.get x).between (gridCeil t0) (gridCeil t1)).flatMap PcmSample.words }
      (s.setSlot x fun y => y.addWindow (s.cfg.active.slots.get x) t0 (windowAir x t0 s) (windowPeak x t0 t1 s)))

theorem windowCounted_only : Only [.audio, .sec] s (windowCounted x t0 t1 s) :=
  (((s.setSlot_only _ _).mono rfl).trans ((note_only _ _).mono rfl)).trans ((note_only _ _).mono rfl)

theorem windowCounted_audio : (windowCounted x t0 t1 s).audio =
    (s.setSlot x fun y => y.addWindow (s.cfg.active.slots.get x) t0 (windowAir x t0 s) (windowPeak x t0 t1 s)).audio :=
  (note_only _ _ .audio rfl).trans (note_only _ _ .audio rfl)

theorem windowCounted_slot : (windowCounted x t0 t1 s).audio.slots.get x =
    (s.audio.slots.get x).addWindow (s.cfg.active.slots.get x) t0 (windowAir x t0 s) (windowPeak x t0 t1 s) := by
  rw [windowCounted_audio, State.setSlot_self]

theorem judgeSilence_eq : judgeSilence x t0 t1 s =
    if (!(s.audio.slots.get x).silent && ((windowCounted x t0 t1 s).audio.slots.get x).silent) = true then
      raise .silenceStart (slotDie x) [.w x, .q ((windowCounted x t0 t1 s).audio.slots.get x).runOut, .q ((windowCounted x t0 t1 s).audio.slots.get x).runAir] (windowCounted x t0 t1 s)
    else if ((s.audio.slots.get x).silent && !((windowCounted x t0 t1 s).audio.slots.get x).silent) = true then
      raise .silenceEnd (slotDie x) [.w x, .q t0, .q (windowAir x t0 s)] (windowCounted x t0 t1 s)
    else windowCounted x t0 t1 s := by
  rw [windowCounted_audio]
  rfl

theorem judgeSilence_audio : (judgeSilence x t0 t1 s).audio = (windowCounted x t0 t1 s).audio := by
  rw [judgeSilence_eq]
  split
  · exact raise_only _ _ _ _ .audio rfl
  · split
    · exact raise_only _ _ _ _ .audio rfl
    · rfl

end

theorem judgeSilence_starts {x t0 t1 : Nat} {s : State} (h0 : (s.audio.slots.get x).silent = false) (h1 : ((windowCounted x t0 t1 s).audio.slots.get x).silent = true) :
    Raises s (judgeSilence x t0 t1 s) .silenceStart (slotDie x)
      [.w x, .q ((windowCounted x t0 t1 s).audio.slots.get x).runOut, .q ((windowCounted x t0 t1 s).audio.slots.get x).runAir] := by
  rw [judgeSilence_eq]
  exact Raises.itePos (by rw [h0, h1]; rfl) (Raises.raise (windowCounted_only _ _ _ _) rfl rfl _ _ _)

theorem judgeSilence_ends {x t0 t1 : Nat} {s : State} (h0 : (s.audio.slots.get x).silent = true) (h1 : ((windowCounted x t0 t1 s).audio.slots.get x).silent = false) :
    Raises s (judgeSilence x t0 t1 s) .silenceEnd (slotDie x) [.w x, .q t0, .q (windowAir x t0 s)] := by
  rw [judgeSilence_eq]
  exact Raises.iteNeg (by rw [h0]; simp) (Raises.itePos (by rw [h0, h1]; rfl) (Raises.raise (windowCounted_only _ _ _ _) rfl rfl _ _ _))

theorem judgeSilence_quiet {x t0 t1 : Nat} {s : State} (h : ((windowCounted x t0 t1 s).audio.slots.get x).silent = (s.audio.slots.get x).silent) :
    judgeSilence x t0 t1 s = windowCounted x t0 t1 s := by
  rw [judgeSilence_eq, if_neg (by rw [h]; simp), if_neg (by rw [h]; simp)]

theorem SlotSt.addWindow_silentTo (y : SlotSt) (e : SlotEntry) (t0 at_ : Nat) (peak : Option Int) : (y.addWindow e t0 at_ peak).silentTo = y.silentTo := by
  unfold SlotSt.addWindow
  split
  · rfl
  · split <;> rfl

theorem SlotSt.addWindow_silent {e : SlotEntry} {p : Int} (h : p ≤ e.silenceLevel) (y : SlotSt) (t0 at_ : Nat) :
    y.addWindow e t0 at_ (some p) = { y with silentRun := y.silentRun + 1, runOut := if y.silentRun = 0 then t0 else y.runOut, runAir := if y.silentRun = 0 then at_ else y.runAir
                                             silentWindows := y.silentWindows + 1, silenceMap := y.silenceMap ||| 2 ^ (t0 % e.period / 1000000)
                                             silent := y.silent || decide (e.silenceMin * 10 ≤ y.silentRun + 1) } := if_pos h

theorem SlotSt.addWindow_sounding {e : SlotEntry} {p : Int} (h : e.silenceLevel < p) (y : SlotSt) (t0 at_ : Nat) :
    y.addWindow e t0 at_ (some p) = { y with silentRun := 0, silent := false } := if_neg (Int.not_le.mpr h)

theorem silenceWindow_judges {s : State} {x t1 at_ : Nat} {air : Air} {y : SlotSt} {peak : Option Int} (hon : s.slotOn x = true)
    (ht1 : t1 = s.now / 1000000 * 1000000) (hdue : (s.audio.slots.get x).silentTo < t1) (hy : y = (hearSlot air x t1 s).audio.slots.get x)
    (hpeak : peak = peakOf (y.between (gridCeil (t1 - 1000000)) (gridCeil t1)))
    (hat : at_ = t1 - 1000000 - ((hearSlot air x t1 s).slotLatency x (gridCeil (t1 - 1000000))).getD 0) :
    ∃ t, exec (.silenceWindow x air) s = .next t ∧ Only [.audio, .link, .integ, .sec] s t ∧ (t.audio.slots.get x).silentTo = t1
      ∧ (peak = none → t.audio.slots.get x = { y with silentTo := t1, unknownWindows := y.unknownWindows + 1 })
      ∧ (∀ p, peak = some p → p ≤ (s.cfg.active.slots.get x).silenceLevel →
          (t.audio.slots.get x).silentRun = y.silentRun + 1 ∧ (t.audio.slots.get x).silentWindows = y.silentWindows + 1
          ∧ (y.silent = false → (s.cfg.active.slots.get x).silenceMin * 10 ≤ y.silentRun + 1 →
              (t.audio.slots.get x).silent = true ∧ Raises s t .silenceStart (slotDie x) [.w x, .q (t.audio.slots.get x).runOut, .q (t.audio.slots.get x).runAir])
          ∧ (y.silent = false → y.silentRun + 1 < (s.cfg.active.slots.get x).silenceMin * 10 → (t.audio.slots.get x).silent = false ∧ t.link = s.link))
      ∧ (∀ p, peak = some p → (s.cfg.active.slots.get x).silenceLevel < p → (t.audio.slots.get x).silentRun = 0 ∧ (t.audio.slots.get x).silent = false
          ∧ (y.silent = true → Raises s t .silenceEnd (slotDie x) [.w x, .q (t1 - 1000000 : Nat), .q at_]))
      ∧ ∀ i, i ≠ x → t.audio.slots.get i = s.audio.slots.get i := by
  obtain ⟨u, hu⟩ : ∃ u, u = heardWith air x t1 (fun y => { y with silentTo := t1 }) s := ⟨_, rfl⟩
  have hrun : exec (.silenceWindow x air) s = .next (judgeSilence x (t1 - 1000000) t1 u) := by
    subst ht1 hu
    exact onlyIf_of_true (by rw [hon, decide_eq_true hdue]; rfl)
  have hheard : Only [.audio] s u := hu ▸ heardWith_only _ _ _ _ _
  have hslot : u.audio.slots.get x = { y with silentTo := t1 } := by rw [hu, heardWith_slot, hy]
  have hcfg : u.cfg = s.cfg := hheard .cfg rfl
  have hwas : (u.audio.slots.get x).silent = y.silent := by rw [hslot]
  have hp : windowPeak x (t1 - 1000000) t1 u = peak := by
    rw [windowPeak, hslot, hpeak]
    rfl
  have ha : windowAir x (t1 - 1000000) u = at_ := by
    rw [windowAir, hat, hu]
    rfl
  have hw : (windowCounted x (t1 - 1000000) t1 u).audio.slots.get x =
      SlotSt.addWindow { y with silentTo := t1 } (s.cfg.active.slots.get x) (t1 - 1000000) at_ peak := by
    rw [windowCounted_slot, hp, ha, hslot, hcfg]
  have hstart := judgeSilence_starts (x := x) (t0 := t1 - 1000000) (t1 := t1) (s := u)
  have hend := judgeSilence_ends (x := x) (t0 := t1 - 1000000) (t1 := t1) (s := u)
  have hquiet := judgeSilence_quiet (x := x) (t0 := t1 - 1000000) (t1 := t1) (s := u)
  rw [hwas, hw] at hstart hend hquiet
  rw [ha] at hend
  refine ⟨_, hrun, (hheard.mono rfl).trans (judgeSilence_only _ _ _ _), ?_⟩
  rw [judgeSilence_audio, hw]
  refine ⟨SlotSt.addWindow_silentTo _ _ _ _ _, ?_, ?_, ?_, fun i hi => ?_⟩
  · rintro hnone
    rw [hnone]
    rfl
  · rintro p hsome hlevel
    rw [hsome, SlotSt.addWindow_silent hlevel] at hstart hquiet ⊢
    refine ⟨rfl, rfl, fun hno hmin => ⟨?_, Raises.after hheard rfl rfl (hstart hno ?_)⟩, fun hno hmin => ⟨?_, ?_⟩⟩
    · simp [hmin]
    · simp [hmin]
    · simp [hno, Nat.not_le.mpr hmin]
    · rw [hquiet (by simp [hno, Nat.not_le.mpr hmin]), windowCounted_only _ _ _ _ .link rfl, hheard .link rfl]
  · rintro p hsome hlevel
    rw [hsome, SlotSt.addWindow_sounding hlevel] at hend ⊢
    exact ⟨rfl, rfl, fun hyes => Raises.after hheard rfl rfl (hend hyes rfl)⟩
  · rw [windowCounted_audio, State.setSlot_of_ne _ _ _ hi, hu, heardWith_slot_of_ne _ _ _ _ _ hi]

/-! ### Classes -/

theorem declareClass_declares {x c t : Nat} {s : State} (he : (s.cfg.active.slots.get x).classify ≠ 0) (hc : (s.audio.slots.get x).cls ≠ c) :
    (∃ ends spans, (declareClass x c t s).audio.slots.get x = { s.audio.slots.get x with cls := c, clsRun := 0, muteEnds := ends, spans := spans })
      ∧ Raises s (declareClass x c t s) .nonAudioStart (slotDie x) [.w x, .w c, .q t] := by
  have hfirst : ∀ (c : Prop) [Decidable c] n o a (v : State), Only [.link, .integ, .sec] v (if c then v else raise n o a v) := fun c _ n o a v =>
    Only.ite (Only.refl _ _) ((raise_only _ _ _ _).mono rfl)
  unfold declareClass
  dsimp only
  rw [if_neg (by simp [he, hc])]
  refine ⟨?_, Raises.raise (((hfirst _ _ _ _ _).mono rfl).trans ((State.setSlot_only _ _ _).mono rfl)) (as := [.link, .integ, .sec, .audio]) rfl rfl _ _ _⟩
  rw [raise_only _ _ _ _ .audio rfl, State.setSlot_self, hfirst _ _ _ _ _ .audio rfl]
  exact ⟨_, _, rfl⟩

theorem declareClass_declared {x c t : Nat} {s : State} (hc : (s.audio.slots.get x).cls = c) : declareClass x c t s = s := by
  unfold declareClass
  dsimp only
  rw [if_pos (by simp [hc])]

theorem endClass_ends {x t : Nat} {s : State} (hc : (s.audio.slots.get x).cls ≠ 0) :
    (∃ ends spans, (endClass x t s).audio.slots.get x = { s.audio.slots.get x with cls := 0, clsRun := 0, muteEnds := ends, spans := spans })
      ∧ Raises s (endClass x t s) .nonAudioEnd (slotDie x) [.w x, .w (s.audio.slots.get x).cls, .q t] := by
  unfold endClass
  dsimp only
  rw [if_neg hc]
  refine ⟨?_, Raises.andThen (State.setSlot_only _ _ _) rfl (Raises.raise (Only.refl [] s) rfl rfl _ _ _)⟩
  rw [State.setSlot_self, raise_only _ _ _ _ .audio rfl]
  exact ⟨_, _, rfl⟩

theorem endClass_ended {x t : Nat} {s : State} (hc : (s.audio.slots.get x).cls = 0) : endClass x t s = s := by
  unfold endClass
  dsimp only
  rw [if_pos hc]

theorem endClass_slot_of_ne (x t : Nat) (s : State) {i : Nat} (h : i ≠ x) : (endClass x t s).audio.slots.get i = s.audio.slots.get i := by
  unfold endClass
  dsimp only
  split
  · rfl
  · rw [State.setSlot_of_ne _ _ _ h, raise_only _ _ _ _ .audio rfl]

/-- The class of a window counted on slot `x`, before any declaration. -/
def classCounted (x c : Nat) (s : State) : State :=
  s.setSlot x fun y => { y with clsCand := c, clsRun := if c = (s.audio.slots.get x).clsCand then (s.audio.slots.get x).clsRun + 1 else 1 }

section
variable {x c : Nat} {s : State}

theorem classCounted_slot : (classCounted x c s).audio.slots.get x = { s.audio.slots.get x with
    clsCand := c, clsRun := if c = (s.audio.slots.get x).clsCand then (s.audio.slots.get x).clsRun + 1 else 1 } := State.setSlot_self _ _ _

theorem judgeClass_eq : judgeClass x c s =
    if (decide (c ≠ 0) && decide (5 ≤ if c = (s.audio.slots.get x).clsCand then (s.audio.slots.get x).clsRun + 1 else 1)) = true then declareClass x c s.now (classCounted x c s)
    else if (decide (c = 0) && decide (10 ≤ if c = (s.audio.slots.get x).clsCand then (s.audio.slots.get x).clsRun + 1 else 1)) = true then endClass x s.now (classCounted x c s)
    else classCounted x c s := rfl

theorem judgeClass_declares (h0 : 0 < c) (hc : c = (s.audio.slots.get x).clsCand) (hrun : 4 ≤ (s.audio.slots.get x).clsRun) :
    judgeClass x c s = declareClass x c s.now (classCounted x c s) := by
  rw [judgeClass_eq, if_pos hc, if_pos]
  simp only [ne_eq, Bool.and_eq_true, decide_eq_true_eq]
  omega

theorem judgeClass_ends (h0 : c = 0) (hc : c = (s.audio.slots.get x).clsCand) (hrun : 9 ≤ (s.audio.slots.get x).clsRun) :
    judgeClass x c s = endClass x s.now (classCounted x c s) := by
  rw [judgeClass_eq, if_pos hc, if_neg (by simp [h0]), if_pos]
  simp only [Bool.and_eq_true, decide_eq_true_eq]
  omega

theorem judgeClass_counts (h0 : 0 < c) (h : c ≠ (s.audio.slots.get x).clsCand ∨ (s.audio.slots.get x).clsRun < 4) : judgeClass x c s = classCounted x c s := by
  have hfew : (if c = (s.audio.slots.get x).clsCand then (s.audio.slots.get x).clsRun + 1 else 1) < 5 := by split <;> omega
  rw [judgeClass_eq, if_neg (by simp [hfew]), if_neg]
  simp only [Bool.and_eq_true, decide_eq_true_eq]
  omega

theorem judgeClass_cases : judgeClass x c s = declareClass x c s.now (classCounted x c s) ∨ judgeClass x c s = endClass x s.now (classCounted x c s)
    ∨ judgeClass x c s = classCounted x c s := by
  rw [judgeClass_eq]
  obtain ⟨n, hn⟩ : ∃ n, n = if c = (s.audio.slots.get x).clsCand then (s.audio.slots.get x).clsRun + 1 else 1 := ⟨_, rfl⟩
  rw [← hn]
  split
  · exact Or.inl rfl
  · split
    · exact Or.inr (Or.inl rfl)
    · exact Or.inr (Or.inr rfl)

/-- Judging a class changes what the slot says of its class, nothing else of it, and no other slot. -/
theorem judgeClass_slots : (∃ cls run ends spans,
      (judgeClass x c s).audio.slots.get x = { s.audio.slots.get x with clsCand := c, cls := cls, clsRun := run, muteEnds := ends, spans := spans })
    ∧ ∀ i, i ≠ x → (judgeClass x c s).audio.slots.get i = s.audio.slots.get i := by
  have hother : ∀ i, i ≠ x → (classCounted x c s).audio.slots.get i = s.audio.slots.get i := fun i hi => State.setSlot_of_ne _ _ _ hi
  rcases judgeClass_cases (x := x) (c := c) (s := s) with hj | hj | hj
  · obtain ⟨cls, run, ends, spans, h⟩ := declareClass_slot x c s.now (classCounted x c s)
    rw [hj]
    refine ⟨?_, fun i hi => ((declareClass_contexts _ _ _ _).2 i hi).trans (hother i hi)⟩
    rw [h, classCounted_slot]
    exact ⟨_, _, _, _, rfl⟩
  · rw [hj]
    refine ⟨?_, fun i hi => (endClass_slot_of_ne _ _ _ hi).trans (hother i hi)⟩
    by_cases hc : ((classCounted x c s).audio.slots.get x).cls = 0
    · rw [endClass_ended hc, classCounted_slot]
      exact ⟨_, _, _, _, rfl⟩
    · obtain ⟨ends, spans, h⟩ := (endClass_ends (t := s.now) hc).1
      rw [h, classCounted_slot]
      exact ⟨_, _, _, _, rfl⟩
  · rw [hj]
    refine ⟨?_, hother⟩
    rw [classCounted_slot]
    exact ⟨_, _, _, _, rfl⟩

end

theorem classifierWindow_judges {s : State} {x t1 : Nat} {air : Air} {y : SlotSt} {cls : Option Nat} (hon : s.slotOn x = true)
    (hclassify : (s.cfg.active.slots.get x).classify ≠ 0) (ht1 : t1 = s.now / 20000000 * 20000000) (hdue : (s.audio.slots.get x).classTo < t1)
    (hy : y = (hearSlot air x t1 s).audio.slots.get x) (hcls : cls = (hearSlot air x t1 s).classHeard x t1) :
    ∃ t, exec (.classifierWindow x air) s = .next t ∧ Only [.audio, .link, .integ, .sec] s t ∧ (t.audio.slots.get x).classTo = t1
      ∧ (cls = none → t.audio.slots.get x = { y with classTo := t1 } ∧ t.link = s.link)
      ∧ (∀ c, cls = some c → (t.audio.slots.get x).clsCand = c)
      ∧ (∀ c, cls = some c → 0 < c → c = y.clsCand → 4 ≤ y.clsRun →
          (t.audio.slots.get x).cls = c ∧ (y.cls ≠ c → Raises s t .nonAudioStart (slotDie x) [.w x, .w c, .q s.now]))
      ∧ (∀ c, cls = some c → 0 < c → (c ≠ y.clsCand ∨ y.clsRun < 4) → (t.audio.slots.get x).cls = y.cls ∧ t.link = s.link)
      ∧ (cls = some 0 → y.clsCand = 0 → 9 ≤ y.clsRun →
          (t.audio.slots.get x).cls = 0 ∧ (y.cls ≠ 0 → Raises s t .nonAudioEnd (slotDie x) [.w x, .w y.cls, .q s.now]))
      ∧ ∀ i, i ≠ x → t.audio.slots.get i = s.audio.slots.get i := by
  obtain ⟨u, hu⟩ : ∃ u, u = heardWith air x t1 (fun y => { y with classTo := t1 }) s := ⟨_, rfl⟩
  have hrun : exec (.classifierWindow x air) s = .next (judgeWindow x t1 u) := by
    subst ht1 hu
    exact onlyIf_of_true (by rw [hon, decide_eq_true hclassify, decide_eq_true hdue]; rfl)
  have hheard : Only [.audio] s u := hu ▸ heardWith_only _ _ _ _ _
  have hslot : u.audio.slots.get x = { y with classTo := t1 } := by rw [hu, heardWith_slot, hy]
  have hne : ∀ i, i ≠ x → u.audio.slots.get i = s.audio.slots.get i := fun i hi => hu ▸ heardWith_slot_of_ne _ _ _ _ _ hi
  have hnow : u.now = s.now := hheard.now rfl
  have hclassify' : (u.cfg.active.slots.get x).classify ≠ 0 := by rwa [hheard .cfg rfl]
  have hclass : u.classHeard x t1 = cls := by
    rw [hcls]
    unfold State.classHeard
    have hbetween : SlotSt.between { y with classTo := t1 } = y.between := rfl
    rw [hslot, hheard .cfg rfl, hearSlot_only _ _ _ _ .cfg rfl, ← hy, hbetween]
  refine ⟨_, hrun, (hheard.mono rfl).trans (judgeWindow_only _ _ _), ?_⟩
  unfold judgeWindow
  rw [hclass]
  cases cls with
  | none =>
    exact ⟨by rw [hslot], fun _ => ⟨hslot, hheard .link rfl⟩, fun _ h => (nomatch h), fun _ h => (nomatch h), fun _ h => (nomatch h), fun h => (nomatch h), hne⟩
  | some c =>
    dsimp only
    obtain ⟨⟨cl, run, ends, spans, hself⟩, hother⟩ := judgeClass_slots (x := x) (c := c) (s := u)
    have hcounted : (classCounted x c u).cfg = u.cfg := rfl
    have hcountedOnly : Only [.audio] u (classCounted x c u) := State.setSlot_only _ _ _
    have hcountedCls : ((classCounted x c u).audio.slots.get x).cls = y.cls := by rw [classCounted_slot, hslot]
    refine ⟨by rw [hself, hslot], fun h => (nomatch h), ?_, ?_, ?_, ?_, fun i hi => (hother i hi).trans (hne i hi)⟩
    · rintro _ ⟨rfl⟩
      rw [hself]
    · rintro _ ⟨rfl⟩ h0 hcand hfive
      rw [judgeClass_declares h0 (by rw [hslot]; exact hcand) (by rw [hslot]; exact hfive), hnow]
      by_cases hsame : y.cls = c
      · rw [declareClass_declared (hcountedCls.trans hsame)]
        exact ⟨hcountedCls.trans hsame, fun h => absurd hsame h⟩
      · obtain ⟨⟨_, _, hdeclared⟩, hraises⟩ := declareClass_declares (s := classCounted x c u) (t := s.now) (c := c) hclassify' (fun h => hsame (hcountedCls.symm.trans h))
        rw [hdeclared]
        exact ⟨rfl, fun _ => Raises.after (hheard.trans hcountedOnly) rfl rfl hraises⟩
    · rintro _ ⟨rfl⟩ h0 hfew
      rw [judgeClass_counts h0 (by rw [hslot]; exact hfew)]
      exact ⟨hcountedCls, (hcountedOnly .link rfl).trans (hheard .link rfl)⟩
    · rintro ⟨rfl⟩ hcand hten
      rw [judgeClass_ends rfl (by rw [hslot]; exact hcand.symm) (by rw [hslot]; exact hten), hnow]
      by_cases hsame : y.cls = 0
      · rw [endClass_ended (hcountedCls.trans hsame)]
        exact ⟨hcountedCls.trans hsame, fun h => absurd hsame h⟩
      · obtain ⟨⟨_, _, hended⟩, hraises⟩ := endClass_ends (t := s.now) (s := classCounted x 0 u) (x := x) (by rw [hcountedCls]; exact hsame)
        rw [hended]
        rw [hcountedCls] at hraises
        exact ⟨rfl, fun _ => Raises.after (hheard.trans hcountedOnly) rfl rfl hraises⟩

theorem nonAudioMuteEnd_ends {s : State} {x e : Nat} (hup : s.slotUp x = true) (hdie : s.dieRuns (slotDie x) = true)
    (hends : (s.audio.slots.get x).muteEnds = some e) (hnow : e ≤ s.now) :
    ∃ t, exec (.nonAudioMuteEnd x) s = .next t ∧ Only [.audio] s t
      ∧ t.audio.slots.get x = { s.audio.slots.get x with muteEnds := none, spans := closeClass e (s.audio.slots.get x).spans } ∧ ∀ i, i ≠ x → t.audio.slots.get i = s.audio.slots.get i := by
  refine ⟨s.setSlot x fun y => { y with muteEnds := none, spans := closeClass e y.spans }, ?_, State.setSlot_only _ _ _, State.setSlot_self _ _ _,
    fun i hi => State.setSlot_of_ne _ _ _ hi⟩
  change execNonAudioMuteEnd x s = _
  unfold execNonAudioMuteEnd
  rw [hends]
  exact onlyIf_of_true (by rw [hup, hdie, decide_eq_true hnow]; rfl)

/-! ### The programme match -/

theorem matchAfter_matched {min : Nat} {old : MatchSt} {a b c : MatchEst}
    (h : ∀ e ∈ [a, b, c], min * 100 ≤ e.rho ∧ (e.lag - median3 a.lag b.lag c.lag).natAbs ≤ 32) : matchAfter min old [a, b, c] = .matched := by
  refine if_pos (List.all_eq_true.mpr fun e he => ?_)
  obtain ⟨hrho, hlag⟩ := h e he
  rw [decide_eq_true hrho, decide_eq_true hlag]
  rfl

theorem matchAfter_mismatched {min : Nat} {old : MatchSt} {a b c : MatchEst} (h : ∀ e ∈ [a, b, c], e.rho < min * 100) :
    matchAfter min old [a, b, c] = .mismatched := by
  have ha : ¬ min * 100 ≤ a.rho := Nat.not_le.mpr (h a (List.mem_cons_self ..))
  exact (if_neg (by simp [ha])).trans (if_pos (List.all_eq_true.mpr fun e he => decide_eq_true (h e he)))

/-- The estimate counted on slot `x`, with the match state `m`. -/
def estimateCounted (x : Nat) (q : MatchEst) (m : MatchSt) (s : State) : State :=
  s.setSlot x fun y => { y with matchEsts := (q :: (s.audio.slots.get x).matchEsts).take 3, matchLast := some q, matchSt := m }

section
variable {x : Nat} {q : MatchEst} {s : State} {m : MatchSt}
  (hm : matchAfter (s.cfg.active.slots.get x).matchMin (s.audio.slots.get x).matchSt ((q :: (s.audio.slots.get x).matchEsts).take 3) = m)
include hm

theorem judgeMatch_eq : judgeMatch x q s =
    if (decide (m = .matched) && decide ((s.audio.slots.get x).matchSt ≠ .matched)) = true then
      raise .matchGained (slotDie x) [.w x, .w q.lag, .w q.rho, .w q.gain] (estimateCounted x q m s)
    else if (decide (m = .mismatched) && decide ((s.audio.slots.get x).matchSt ≠ .mismatched)) = true then
      raise .matchLost (slotDie x) [.w x, .w q.lag, .w q.rho, .w q.gain] (estimateCounted x q m s)
    else estimateCounted x q m s := by
  subst hm
  rfl

theorem judgeMatch_audio : (judgeMatch x q s).audio = (estimateCounted x q m s).audio := by
  rw [judgeMatch_eq hm]
  split
  · exact raise_only _ _ _ _ .audio rfl
  · split
    · exact raise_only _ _ _ _ .audio rfl
    · rfl

end

theorem judgeMatch_gains {x : Nat} {q : MatchEst} {s : State}
    (hm : matchAfter (s.cfg.active.slots.get x).matchMin (s.audio.slots.get x).matchSt ((q :: (s.audio.slots.get x).matchEsts).take 3) = .matched)
    (hwas : (s.audio.slots.get x).matchSt ≠ .matched) : Raises s (judgeMatch x q s) .matchGained (slotDie x) [.w x, .w q.lag, .w q.rho, .w q.gain] := by
  rw [judgeMatch_eq hm]
  exact Raises.itePos (by simp [hwas]) (Raises.raise (State.setSlot_only s _ _) rfl rfl _ _ _)

theorem judgeMatch_loses {x : Nat} {q : MatchEst} {s : State}
    (hm : matchAfter (s.cfg.active.slots.get x).matchMin (s.audio.slots.get x).matchSt ((q :: (s.audio.slots.get x).matchEsts).take 3) = .mismatched)
    (hwas : (s.audio.slots.get x).matchSt ≠ .mismatched) : Raises s (judgeMatch x q s) .matchLost (slotDie x) [.w x, .w q.lag, .w q.rho, .w q.gain] := by
  rw [judgeMatch_eq hm]
  exact Raises.iteNeg (by simp) (Raises.itePos (by simp [hwas]) (Raises.raise (State.setSlot_only s _ _) rfl rfl _ _ _))

theorem matchEstimate_judges {s : State} {x t1 : Nat} {air : Air} {y : SlotSt} {est : Option MatchEst} (hon : s.slotOn x = true)
    (hkind : (s.cfg.active.slots.get x).matchKind ≠ 0) (ht1 : t1 = s.now / 100000000 * 100000000) (hdue : (s.audio.slots.get x).matchTo < t1)
    (hy : y = (hearSlot air x t1 s).audio.slots.get x)
    (hest : est = ((hearSlot air x t1 s).setSlot x fun y => { y with matchTo := t1 }).matchFound air x t1) :
    ∃ t, exec (.matchEstimate x air) s = .next t ∧ Only [.audio, .link, .integ, .sec] s t ∧ (t.audio.slots.get x).matchTo = t1
      ∧ (est = none → t.audio.slots.get x = { y with matchTo := t1, matchLast := none })
      ∧ (∀ a, est = some a → (t.audio.slots.get x).matchLast = some a)
      ∧ (∀ a b c rest, est = some a → y.matchEsts = b :: c :: rest →
          (∀ e ∈ [a, b, c], (s.cfg.active.slots.get x).matchMin * 100 ≤ e.rho ∧ (e.lag - median3 a.lag b.lag c.lag).natAbs ≤ 32) →
          (t.audio.slots.get x).matchSt = .matched ∧ (y.matchSt ≠ .matched → Raises s t .matchGained (slotDie x) [.w x, .w a.lag, .w a.rho, .w a.gain]))
      ∧ (∀ a b c rest, est = some a → y.matchEsts = b :: c :: rest → (∀ e ∈ [a, b, c], e.rho < (s.cfg.active.slots.get x).matchMin * 100) →
          (t.audio.slots.get x).matchSt = .mismatched ∧ (y.matchSt ≠ .mismatched → Raises s t .matchLost (slotDie x) [.w x, .w a.lag, .w a.rho, .w a.gain]))
      ∧ ∀ i, i ≠ x → t.audio.slots.get i = s.audio.slots.get i := by
  obtain ⟨u, hu⟩ : ∃ u, u = heardWith air x t1 (fun y => { y with matchTo := t1 }) s := ⟨_, rfl⟩
  have hrun : exec (.matchEstimate x air) s = .next (judgeEstimate air x t1 u) := by
    subst ht1 hu
    have hdue' : decide ((s.audio.slots.get x).matchTo < s.now / countsPerSecond * countsPerSecond) = true := decide_eq_true hdue
    exact onlyIf_of_true (by rw [hon, decide_eq_true hkind, hdue']; rfl)
  have hheard : Only [.audio] s u := hu ▸ heardWith_only _ _ _ _ _
  have hslot : u.audio.slots.get x = { y with matchTo := t1 } := by rw [hu, heardWith_slot, hy]
  have hne : ∀ i, i ≠ x → u.audio.slots.get i = s.audio.slots.get i := fun i hi => hu ▸ heardWith_slot_of_ne _ _ _ _ _ hi
  have hcfg : u.cfg = s.cfg := hheard .cfg rfl
  have hfound : u.matchFound air x t1 = est := by rw [hest, hu]; rfl
  refine ⟨_, hrun, (hheard.mono rfl).trans (judgeEstimate_only _ _ _ _), ?_⟩
  unfold judgeEstimate
  rw [hfound]
  cases est with
  | none =>
    dsimp only
    rw [State.setSlot_self, hslot]
    exact ⟨rfl, fun _ => rfl, fun _ h => (nomatch h), fun _ _ _ _ h => (nomatch h), fun _ _ _ _ h => (nomatch h),
      fun i hi => (State.setSlot_of_ne _ _ _ hi).trans (hne i hi)⟩
  | some a =>
    dsimp only
    have hself : ∀ m, matchAfter (u.cfg.active.slots.get x).matchMin (u.audio.slots.get x).matchSt ((a :: (u.audio.slots.get x).matchEsts).take 3) = m →
        (judgeMatch x a u).audio.slots.get x = { y with matchTo := t1, matchEsts := (a :: y.matchEsts).take 3, matchLast := some a, matchSt := m } := fun m hm => by
      rw [judgeMatch_audio hm, estimateCounted, State.setSlot_self, hslot]
    have hself' := hself _ rfl
    refine ⟨by rw [hself'], fun h => (nomatch h), ?_, ?_, ?_, fun i hi => ?_⟩
    · rintro _ ⟨rfl⟩
      rw [hself']
    · rintro _ b c rest ⟨rfl⟩ hests hall
      have hm : matchAfter (u.cfg.active.slots.get x).matchMin (u.audio.slots.get x).matchSt ((a :: (u.audio.slots.get x).matchEsts).take 3) = .matched := by
        rw [hslot, hcfg, hests]
        exact matchAfter_matched hall
      refine ⟨by rw [hself _ hm], fun hwas => Raises.after hheard rfl rfl (judgeMatch_gains hm ?_)⟩
      rw [hslot]
      exact hwas
    · rintro _ b c rest ⟨rfl⟩ hests hall
      have hm : matchAfter (u.cfg.active.slots.get x).matchMin (u.audio.slots.get x).matchSt ((a :: (u.audio.slots.get x).matchEsts).take 3) = .mismatched := by
        rw [hslot, hcfg, hests]
        exact matchAfter_mismatched hall
      refine ⟨by rw [hself _ hm], fun hwas => Raises.after hheard rfl rfl (judgeMatch_loses hm ?_)⟩
      rw [hslot]
      exact hwas
    · rw [judgeMatch_audio rfl, estimateCounted, State.setSlot_of_ne _ _ _ hi, hne i hi]

/-! ### Records -/

theorem slotMeasPeriodEnd_delivers {s : State} {x p : Nat} {air : Air} {late : Bool} (hup : s.slotUp x = true) (hm : s.mode.mode ≠ .halted)
    (hp : p = (if (s.cfg.active.slots.get x).measLong then 100000000 else 10000000)) (hdue : (s.audio.slots.get x).measuredTo < s.now / p * p) :
    ∃ t, exec (.slotMeasPeriodEnd x air late) s = .next t ∧ Only [.audio, .link, .sec] s t ∧ (t.audio.slots.get x).measuredTo = s.now / p * p
      ∧ (t.audio.slots.get x).auTotal = 0 ∧ (t.audio.slots.get x).silentWindows = 0 ∧ (t.audio.slots.get x).zMax = none ∧ (t.audio.slots.get x).zCount = 0
      ∧ (t.audio.slots.get x).resyncSeen = false ∧ (t.audio.slots.get x).integ = (s.audio.slots.get x).integ
      ∧ (∀ r ∈ s.routeRings .measurement (slotDie x) (fun e => maskBit e.slotMask (x % 64)), (t.link.rings.get r).sequence = (s.link.rings.get r).sequence + 1)
      ∧ (∀ r, r ∉ s.routeRings .measurement (slotDie x) (fun e => maskBit e.slotMask (x % 64)) → t.link.rings.get r = s.link.rings.get r)
      ∧ ∀ i, i ≠ x → t.audio.slots.get i = s.audio.slots.get i := by
  obtain ⟨v, hv⟩ : ∃ v, v = if s.slotOn x then hearSlot air x (s.now / p * p) s else s := ⟨_, rfl⟩
  obtain ⟨w, hw⟩ : ∃ w, w = (v.setSlot x fun y => { y with measuredTo := s.now / p * p }).setSlot x SlotSt.endPeriod := ⟨_, rfl⟩
  have hperiod : (s.cfg.active.slots.get x).period = p := hp.symm
  obtain ⟨b, n, hrun, hb⟩ : ∃ b, ∃ n : HallNote, exec (.slotMeasPeriodEnd x air late) s =
      .next (formRouted .measurement (fun r => maskBit r.slotMask (x % 64)) b (note n w)) ∧ b.die = slotDie x := by
    rw [hw, hv]
    subst hperiod
    exact ⟨_, _, onlyIf_of_true (by rw [hup, decide_eq_true hdue]; rfl), rfl⟩
  have hheard : Only [.audio] s v := hv ▸ Only.ite (hearSlot_only _ _ _ _) (Only.refl _ _)
  have hself : ∃ pcm pcmTo sat, v.audio.slots.get x = { s.audio.slots.get x with pcm := pcm, pcmTo := pcmTo, satSticky := sat } := by
    rw [hv]
    split
    · exact hearSlot_slot _ _ _ _
    · exact ⟨_, _, _, rfl⟩
  have hother : ∀ i, i ≠ x → v.audio.slots.get i = s.audio.slots.get i := fun i hi => by
    rw [hv]
    split
    · exact hearSlot_slot_of_ne _ _ _ _ hi
    · rfl
  have hnoted : Only [.audio, .sec] s (note n w) := hw ▸ (((hheard.trans (State.setSlot_only _ _ _)).trans (State.setSlot_only _ _ _)).mono rfl).trans ((note_only _ _).mono rfl)
  have haudio : (formRouted .measurement (fun r => maskBit r.slotMask (x % 64)) b (note n w)).audio = w.audio :=
    (formRouted_only _ _ _ _ .audio rfl).trans (note_only _ _ .audio rfl)
  have hslotUp : (note n w).dieUp b.die = true := by
    have hkept : (note n w).dieUp b.die = s.dieUp (slotDie x) := by
      unfold State.dieUp State.dies
      rw [hb, hnoted .part rfl, hnoted .integ rfl]
    rw [hkept]
    exact (Bool.and_eq_true_iff.mp hup).2
  have hroute : (note n w).routeRings .measurement b.die (fun e => maskBit e.slotMask (x % 64)) = s.routeRings .measurement (slotDie x) (fun e => maskBit e.slotMask (x % 64)) := by
    unfold State.routeRings
    rw [hb, hnoted .cfg rfl]
  obtain ⟨hin, hout⟩ := formRouted_rings .measurement (fun r => maskBit r.slotMask (x % 64)) b (note n w) hslotUp (by rwa [hnoted .mode rfl])
  rw [hroute, hnoted .link rfl] at hin hout
  obtain ⟨pcm, pcmTo, sat, hself⟩ := hself
  refine ⟨_, hrun, (hnoted.mono rfl).trans ((formRouted_only _ _ _ _).mono rfl), ?_⟩
  have hw' : w.audio.slots.get x = SlotSt.endPeriod { s.audio.slots.get x with pcm := pcm, pcmTo := pcmTo, satSticky := sat, measuredTo := s.now / p * p } := by
    rw [hw, State.setSlot_self, State.setSlot_self, hself]
  rw [haudio, hw']
  exact ⟨rfl, rfl, rfl, rfl, rfl, rfl, rfl, hin, hout, fun i hi => by rw [hw, State.setSlot_of_ne _ _ _ hi, State.setSlot_of_ne _ _ _ hi, hother i hi]⟩

/-- Settles O34: each clause by the rule of its update, block, window, estimate or record above. -/
theorem slotMeasurements : Obligations.SlotMeasurements :=
  ⟨fun _ _ _ _ _ _ _ _ _ => rateFollowerUpdate_follows, fun _ _ _ _ _ => slotResync_anchors, fun _ _ _ _ _ _ => loudnessBlock_measures, fun _ _ _ _ _ _ _ => silenceWindow_judges,
    fun _ _ _ _ _ _ => classifierWindow_judges, fun _ _ _ => nonAudioMuteEnd_ends, fun _ _ _ _ _ _ => matchEstimate_judges, fun _ _ _ _ _ => slotMeasPeriodEnd_delivers⟩

end Sys2Proof.Machine
end

section
/-!
PROOFS. A port from its start to its stop: ticks, pre-roll, post-roll, resumption, rate switch, counts (09 R264, R265, R271, R273).
-/
namespace Sys2Proof.Machine

/-! ### What starting and stopping leave of the ports -/

theorem beginPreRoll_self (p : PortId) (t : Nat) (resuming : Bool) (s : State) : ∃ follow sup unl,
    (beginPreRoll p t resuming s).portSt p = { s.portSt p with
      phase := .preRoll, dataStart := dataStartFor t (s.portSt p).entry, resuming := resuming, onFollower := follow, locked := false, goodSince := none, errSum := 0
      suppressed := sup, unlocked := unl } := by
  unfold beginPreRoll
  dsimp only
  rw [setPort_self]
  exact ⟨_, _, _, rfl⟩

theorem beginPreRoll_ne (p : PortId) (t : Nat) (resuming : Bool) (s : State) {i : Nat} (h : i ≠ p.key) :
    (beginPreRoll p t resuming s).ports.ports.get i = s.ports.ports.get i := setPort_ne _ _ _ h

theorem stopPort_self (p : PortId) (ph : PortPhase) (bp : Nat) (r : PortReason) (s : State) : ((stopPort p ph bp r s).portSt p).phase = ph
    ∧ ((stopPort p ph bp r s).portSt p).stopAt = (s.portSt p).stopAt := by
  unfold stopPort
  dsimp only
  rw [portSt_of_ports (raise_ports _ _ _ _), setPort_self]
  exact ⟨rfl, rfl⟩

theorem stopPort_ne (p : PortId) (ph : PortPhase) (bp : Nat) (r : PortReason) (s : State) {i : Nat} (h : i ≠ p.key) :
    (stopPort p ph bp r s).ports.ports.get i = s.ports.ports.get i := by
  unfold stopPort
  dsimp only
  rw [raise_ports, setPort_ne _ _ _ h]

theorem stopPort_raises (p : PortId) (ph : PortPhase) (bp : Nat) (r : PortReason) (s : State) :
    Raises s (stopPort p ph bp r s) .portStopped p.die [.w p.word, .q bp, .w r.code] :=
  Raises.raise (State.setPort_only s p _) rfl rfl _ _ _

theorem stopPortAt_frozen {p : PortId} {t : Nat} {s : State} (h : (s.portSt p).phase = .frozen) :
    stopPortAt p t s = stopPort p .stopped (blockFloor t) .command s := by
  unfold stopPortAt
  dsimp only
  rw [h]

theorem stopPortAt_running {p : PortId} {t : Nat} {s : State} (h : (s.portSt p).phase = .running) :
    stopPortAt p t s = s.setPort p fun x => { x with
      phase := .postRoll, stopFrom := blockFloor t, switchTo := none
      postEnd := if decide (blockFloor t ≤ (s.portSt p).dataStart) = true then t + (s.portSt p).entry.postRoll * countsPerMs
        else blockFloor t + (s.portSt p).entry.postRoll * countsPerMs + if p.isInput then 0 else renderDelay } := by
  unfold stopPortAt
  dsimp only
  rw [h]

/-- A stop takes effect on its own port alone: at once, after a post-roll, or not at all. -/
theorem stopPortAt_cases (p : PortId) (t : Nat) (s : State) : stopPortAt p t s = stopPort p .stopped (blockFloor t) .command s
    ∨ (∃ f, stopPortAt p t s = s.setPort p f ∧ ∀ x, (f x).stopAt = x.stopAt) ∨ stopPortAt p t s = s := by
  unfold stopPortAt
  dsimp only
  cases (s.portSt p).phase with
  | frozen => exact .inl rfl
  | awaitingClock => exact .inl rfl
  | preRoll => exact .inr (.inl ⟨_, rfl, fun _ => rfl⟩)
  | running => exact .inr (.inl ⟨_, rfl, fun _ => rfl⟩)
  | reconfiguring => exact .inr (.inl ⟨_, rfl, fun _ => rfl⟩)
  | stopped => exact .inr (.inr rfl)
  | stoppedRate => exact .inr (.inr rfl)
  | postRoll => exact .inr (.inr rfl)

theorem stopPortAt_ne (p : PortId) (t : Nat) (s : State) {i : Nat} (h : i ≠ p.key) : (stopPortAt p t s).ports.ports.get i = s.ports.ports.get i := by
  rcases stopPortAt_cases p t s with hs | ⟨f, hs, -⟩ | hs
  · rw [hs, stopPort_ne _ _ _ _ _ h]
  · rw [hs, setPort_ne _ _ _ h]
  · rw [hs]

theorem stopPortAt_stopAt (p : PortId) (t : Nat) (s : State) : ((stopPortAt p t s).portSt p).stopAt = (s.portSt p).stopAt := by
  rcases stopPortAt_cases p t s with hs | ⟨f, hs, hf⟩ | hs
  · rw [hs, (stopPort_self _ _ _ _ _).2]
  · rw [hs, setPort_self, hf]
  · rw [hs]

/-! ### Ticks -/

/-- At its tick a port takes its staged parameters. -/
def takeStaged (p : PortId) (s : State) : State :=
  s.setPort p fun x => { x with startAt := none, nom := x.entry.amclkNom, mask := x.entry.mask, nextMask := none }

/-- What becomes of a port at its tick: it waits for its clock, or its pre-roll begins (R264, R271). -/
def startedPort (p : PortId) (at_ : Nat) (s : State) : State :=
  if ((s.portSt p).entry.amclk && !((takeStaged p s).ports.amclks.get p.die).qualified) = true then (takeStaged p s).setPort p fun x => { x with phase := .awaitingClock }
  else beginPreRoll p at_ false (takeStaged p s)

theorem startedPort_only (p : PortId) (at_ : Nat) (s : State) : Only [.ports] s (startedPort p at_ s) :=
  Only.ite ((State.setPort_only s p _).trans (State.setPort_only _ _ _)) ((State.setPort_only s p _).trans (beginPreRoll_only _ _ _ _))

theorem startedPort_awaits {p : PortId} {at_ : Nat} {s : State} (hamclk : (s.portSt p).entry.amclk = true) (hout : (s.ports.amclks.get p.die).qualified = false) :
    startedPort p at_ s = (takeStaged p s).setPort p fun x => { x with phase := .awaitingClock } := if_pos (by
  rw [hamclk]
  change (true && !(s.ports.amclks.get p.die).qualified) = true
  rw [hout]
  rfl)

theorem startedPort_preRolls {p : PortId} {at_ : Nat} {s : State} (h : (s.portSt p).entry.amclk = false ∨ (s.ports.amclks.get p.die).qualified = true) :
    startedPort p at_ s = beginPreRoll p at_ false (takeStaged p s) := if_neg (by
  change ¬ ((s.portSt p).entry.amclk && !(s.ports.amclks.get p.die).qualified) = true
  rcases h with h | h <;> simp [h])

theorem portStartTick_starts {s : State} {p : PortId} {at_ : Nat} (hport : s.hasPort p = true) (hat : (s.portSt p).startAt = some at_) (hnow : at_ ≤ s.now)
    (hstopped : (s.portSt p).phase.isStopped = true) :
    ∃ t, exec (.portStartTick p) s = .next t ∧ Only [.ports, .link, .mb] s t ∧ (t.portSt p).startAt = none ∧ (t.portSt p).mask = (s.portSt p).entry.mask
      ∧ ((s.portSt p).entry.amclk = true → (s.ports.amclks.get p.die).qualified = false → (t.portSt p).phase = .awaitingClock)
      ∧ (((s.portSt p).entry.amclk = false ∨ (s.ports.amclks.get p.die).qualified = true) →
          (t.portSt p).phase = .preRoll ∧ (t.portSt p).dataStart = dataStartFor at_ (s.portSt p).entry ∧ (t.portSt p).resuming = false)
      ∧ ∀ i, i ≠ p.key → t.ports.ports.get i = s.ports.ports.get i := by
  obtain ⟨w, hrun⟩ : ∃ w, exec (.portStartTick p) s = .next (completeWait w .ok (tickOf at_) (startedPort p at_ s)) := by
    change ∃ w, execPortStartTick p s = _
    unfold execPortStartTick
    dsimp only
    rw [hat]
    exact ⟨_, onlyIf_of_true (by rw [hport, decide_eq_true hnow, hstopped]; rfl)⟩
  have hstaged : (takeStaged p s).portSt p = { s.portSt p with
      startAt := none, nom := (s.portSt p).entry.amclkNom, mask := (s.portSt p).entry.mask, nextMask := none } := setPort_self _ _ _
  have hwait : ∀ q, (completeWait w .ok (tickOf at_) (startedPort p at_ s)).portSt q = (startedPort p at_ s).portSt q := fun q =>
    portSt_of_ports (completeWait_ports _ _ _ _) q
  obtain ⟨follow, sup, unl, hroll⟩ := beginPreRoll_self p at_ false (takeStaged p s)
  rw [hstaged] at hroll
  have hcases : startedPort p at_ s = (takeStaged p s).setPort p (fun x => { x with phase := .awaitingClock }) ∨ startedPort p at_ s = beginPreRoll p at_ false (takeStaged p s) := by
    unfold startedPort
    split
    · exact .inl rfl
    · exact .inr rfl
  refine ⟨_, hrun, ((startedPort_only _ _ _).mono rfl).trans ((completeWait_only _ _ _ _).mono rfl), ?_, ?_, fun hamclk hout => ?_, fun h => ?_, fun i hi => ?_⟩
  · rw [hwait]
    rcases hcases with h | h
    · rw [h, setPort_self, hstaged]
    · rw [h, hroll]
  · rw [hwait]
    rcases hcases with h | h
    · rw [h, setPort_self, hstaged]
    · rw [h, hroll]
  · rw [hwait, startedPort_awaits hamclk hout, setPort_self]
  · rw [hwait, startedPort_preRolls h, hroll]
    exact ⟨rfl, rfl, rfl⟩
  · have hkept : (takeStaged p s).ports.ports.get i = s.ports.ports.get i := setPort_ne _ _ _ hi
    rw [completeWait_ports]
    rcases hcases with h | h
    · rw [h, setPort_ne _ _ _ hi, hkept]
    · rw [h, beginPreRoll_ne _ _ _ _ hi, hkept]

/-- Data begin on the port. -/
def dataBegun (p : PortId) (s : State) : State :=
  seeUnits (s.setPort p fun x => { x with
    phase := .running, resuming := false, nextBlock := if (s.portSt p).resuming then (s.portSt p).nextBlock else (s.portSt p).dataStart })

theorem dataBegun_only (p : PortId) (s : State) : Only [.ports, .sec] s (dataBegun p s) :=
  ((State.setPort_only s p _).mono rfl).trans ((seeUnits_only _).mono rfl)

theorem portPrerollEnd_runs {s : State} {p : PortId} (hport : s.hasPort p = true) (hphase : (s.portSt p).phase = .preRoll)
    (hnow : (s.portSt p).dataStart + (if p.isInput = true then 0 else renderDelay) ≤ s.now) :
    ∃ t, exec (.portPrerollEnd p) s = .next t ∧ Only [.ports, .link, .integ, .sec] s t
      ∧ (t.portSt p).phase = .running ∧ (t.portSt p).resuming = false
      ∧ ((s.portSt p).resuming = false → (t.portSt p).nextBlock = (s.portSt p).dataStart ∧ Raises s t .portStarted p.die [.w p.word, .q (s.portSt p).dataStart, .w (0 : Nat)])
      ∧ ((s.portSt p).resuming = true → (t.portSt p).nextBlock = (s.portSt p).nextBlock ∧ Raises s t .portResumed p.die [.w p.word, .q s.now, .q (s.portSt p).dataStart])
      ∧ ∀ i, i ≠ p.key → t.ports.ports.get i = s.ports.ports.get i := by
  have hrun : exec (.portPrerollEnd p) s = .next (if (s.portSt p).resuming = true then raise .portResumed p.die [.w p.word, .q s.now, .q (s.portSt p).dataStart] (dataBegun p s)
      else raise .portStarted p.die [.w p.word, .q (s.portSt p).dataStart, .w PortReason.command.code] (dataBegun p s)) :=
    onlyIf_of_true (by rw [hport, decide_eq_true hphase, decide_eq_true hnow]; rfl)
  have hports : (dataBegun p s).ports = (s.setPort p fun x => { x with
      phase := .running, resuming := false, nextBlock := if (s.portSt p).resuming then (s.portSt p).nextBlock else (s.portSt p).dataStart }).ports := seeUnits_only _ .ports rfl
  have hself : (dataBegun p s).portSt p = { s.portSt p with
      phase := .running, resuming := false, nextBlock := if (s.portSt p).resuming then (s.portSt p).nextBlock else (s.portSt p).dataStart } :=
    (portSt_of_ports hports p).trans (setPort_self _ _ _)
  have hother : ∀ i, i ≠ p.key → (dataBegun p s).ports.ports.get i = s.ports.ports.get i := fun i hi => by rw [hports, setPort_ne _ _ _ hi]
  have honly : ∀ n a, Only [.ports, .link, .integ, .sec] s (raise n p.die a (dataBegun p s)) := fun n a =>
    ((dataBegun_only p s).mono rfl).trans ((raise_only _ _ _ _).mono rfl)
  have hraised : ∀ n a, (raise n p.die a (dataBegun p s)).portSt p = (dataBegun p s).portSt p := fun n a => portSt_of_ports (raise_ports _ _ _ _) p
  cases hres : (s.portSt p).resuming with
  | false =>
    rw [hres, if_neg Bool.false_ne_true] at hrun
    refine ⟨_, hrun, honly _ _, ?_, ?_, fun _ => ⟨?_, Raises.raise (dataBegun_only p s) rfl rfl _ _ _⟩, fun h => absurd h Bool.false_ne_true,
      fun i hi => by rw [raise_ports, hother i hi]⟩
    all_goals rw [hraised, hself]
    rw [hres, if_neg Bool.false_ne_true]
  | true =>
    rw [hres, if_pos rfl] at hrun
    refine ⟨_, hrun, honly _ _, ?_, ?_, fun h => absurd h.symm Bool.false_ne_true, fun _ => ⟨?_, Raises.raise (dataBegun_only p s) rfl rfl _ _ _⟩,
      fun i hi => by rw [raise_ports, hother i hi]⟩
    all_goals rw [hraised, hself]
    rw [hres, if_pos rfl]

theorem portStopTick_stops {s : State} {p : PortId} {at_ : Nat} (hport : s.hasPort p = true) (hat : (s.portSt p).stopAt = some at_) (hnow : at_ ≤ s.now) :
    ∃ t, exec (.portStopTick p) s = .next t ∧ Only [.ports, .link, .integ, .mb, .sec] s t ∧ (t.portSt p).stopAt = none
      ∧ ((s.portSt p).phase = .running → blockFloor at_ ≤ (s.portSt p).dataStart →
          (t.portSt p).phase = .postRoll ∧ (t.portSt p).stopFrom = blockFloor at_ ∧ (t.portSt p).postEnd = at_ + (s.portSt p).entry.postRoll * 100000)
      ∧ ((s.portSt p).phase = .running → (s.portSt p).dataStart < blockFloor at_ →
          (t.portSt p).phase = .postRoll ∧ (t.portSt p).stopFrom = blockFloor at_
          ∧ (t.portSt p).postEnd = blockFloor at_ + (s.portSt p).entry.postRoll * 100000 + (if p.isInput = true then 0 else renderDelay))
      ∧ ((s.portSt p).phase = .frozen → (t.portSt p).phase = .stopped ∧ Raises s t .portStopped p.die [.w p.word, .q (blockFloor at_), .w (0 : Nat)])
      ∧ ∀ i, i ≠ p.key → t.ports.ports.get i = s.ports.ports.get i := by
  obtain ⟨u, hu⟩ : ∃ u, u = s.setPort p fun x => { x with stopAt := none } := ⟨_, rfl⟩
  obtain ⟨w, hrun⟩ : ∃ w, exec (.portStopTick p) s = .next (completeWait w .ok (tickOf at_) (stopPortAt p at_ u)) := by
    change ∃ w, execPortStopTick p s = _
    unfold execPortStopTick
    rw [hat, hu]
    exact ⟨_, onlyIf_of_true (by rw [hport, decide_eq_true hnow]; rfl)⟩
  have hset : Only [.ports] s u := hu ▸ State.setPort_only _ _ _
  have hself : u.portSt p = { s.portSt p with stopAt := none } := by rw [hu, setPort_self]
  have hwait : (completeWait w .ok (tickOf at_) (stopPortAt p at_ u)).portSt p = (stopPortAt p at_ u).portSt p := portSt_of_ports (completeWait_ports _ _ _ _) p
  have hphase : (u.portSt p).phase = (s.portSt p).phase := by rw [hself]
  refine ⟨_, hrun, ((hset.mono rfl).trans ((stopPortAt_only _ _ _).mono rfl)).trans ((completeWait_only _ _ _ _).mono rfl), ?_, fun hr hle => ?_, fun hr hlt => ?_,
    fun hf => ?_, fun i hi => ?_⟩
  · rw [hwait, stopPortAt_stopAt, hself]
  · rw [hwait, stopPortAt_running (hphase.trans hr), setPort_self, hself]
    exact ⟨rfl, rfl, if_pos (decide_eq_true hle)⟩
  · rw [hwait, stopPortAt_running (hphase.trans hr), setPort_self, hself]
    exact ⟨rfl, rfl, if_neg (by simpa using hlt)⟩
  · rw [hwait, stopPortAt_frozen (hphase.trans hf)]
    exact ⟨(stopPort_self _ _ _ _ _).1, Raises.andThen (completeWait_only _ _ _ _) rfl (Raises.after hset rfl rfl (stopPort_raises _ _ _ _ _))⟩
  · rw [completeWait_ports, stopPortAt_ne _ _ _ hi, hu, setPort_ne _ _ _ hi]

theorem portPostrollEnd_stops {s : State} {p : PortId} (hport : s.hasPort p = true) (hphase : (s.portSt p).phase = .postRoll)
    (hnow : (s.portSt p).postEnd ≤ s.now) :
    ∃ t, exec (.portPostrollEnd p) s = .next t ∧ Only [.clk, .spans, .ports, .link, .integ, .domains, .sec] s t ∧ (t.portSt p).phase = .stopped
      ∧ Raises s t .portStopped p.die [.w p.word, .q (s.portSt p).stopFrom, .w (0 : Nat)] ∧ ∀ i, i ≠ p.key → t.ports.ports.get i = s.ports.ports.get i := by
  obtain ⟨c, hrun⟩ : ∃ c : Bool, exec (.portPostrollEnd p) s = .next (if c = true then domainOff p.die 13 (stopPort p .stopped (s.portSt p).stopFrom .command s)
      else stopPort p .stopped (s.portSt p).stopFrom .command s) :=
    ⟨_, onlyIf_of_true (by rw [hport, decide_eq_true hphase, decide_eq_true hnow]; rfl)⟩
  have hlast : Only [.clk, .spans, .domains] (stopPort p .stopped (s.portSt p).stopFrom .command s) (if c = true then domainOff p.die 13 (stopPort p .stopped (s.portSt p).stopFrom .command s)
      else stopPort p .stopped (s.portSt p).stopFrom .command s) := Only.ite (domainOff_only _ _ _) (Only.refl _ _)
  refine ⟨_, hrun, ((stopPort_only _ _ _ _ _).mono rfl).trans (hlast.mono rfl), ?_, Raises.andThen hlast rfl (stopPort_raises _ _ _ _ _), fun i hi => ?_⟩
  · rw [portSt_of_ports (hlast .ports rfl), (stopPort_self _ _ _ _ _).1]
  · rw [hlast .ports rfl, stopPort_ne _ _ _ _ _ hi]

/-! ### Resumption, rate switch, the follower, counts -/

theorem portResume_preRolls {s : State} {p : PortId} (hport : s.hasPort p = true)
    (hphase : (s.portSt p).phase = .frozen ∨ (s.portSt p).phase = .awaitingClock) (hqualified : (s.ports.amclks.get p.die).qualified = true)
    (hnow : nextOf 200000 (s.ports.amclks.get p.die).qualifiedAt ≤ s.now) :
    ∃ t, exec (.portResume p) s = .next t ∧ Only [.ports] s t ∧ (t.portSt p).phase = .preRoll ∧ (t.portSt p).dataStart = dataStartFor s.now (s.portSt p).entry
      ∧ ((t.portSt p).resuming = true ↔ (s.portSt p).phase = .frozen) ∧ (t.portSt p).mask = (s.portSt p).mask ∧ ∀ i, i ≠ p.key → t.ports.ports.get i = s.ports.ports.get i := by
  have hgo : (s.hasPort p && (decide ((s.portSt p).phase = .frozen) || decide ((s.portSt p).phase = .awaitingClock)) && (s.ports.amclks.get p.die).qualified
      && decide (nextOf countsPerBlock (s.ports.amclks.get p.die).qualifiedAt ≤ s.now)) = true := by
    have hnow' : decide (nextOf countsPerBlock (s.ports.amclks.get p.die).qualifiedAt ≤ s.now) = true := decide_eq_true hnow
    rw [hport, hqualified, hnow', ← Bool.decide_or, decide_eq_true hphase]
    rfl
  obtain ⟨follow, sup, unl, hself⟩ := beginPreRoll_self p s.now (decide ((s.portSt p).phase = .frozen)) (s.setPort p fun x => { x with suppressed := closeSpan s.now x.suppressed })
  rw [setPort_self] at hself
  refine ⟨_, onlyIf_of_true hgo, (State.setPort_only _ _ _).trans (beginPreRoll_only _ _ _ _), ?_⟩
  rw [hself]
  exact ⟨rfl, rfl, decide_eq_true_iff, rfl, fun i hi => (beginPreRoll_ne _ _ _ _ hi).trans (setPort_ne _ _ _ hi)⟩

theorem portRateSwitch_returns {s : State} {p : PortId} {n since : Nat} {back : PortPhase} (hport : s.hasPort p = true)
    (hphase : (s.portSt p).phase = .reconfiguring) (hswitch : (s.portSt p).switchTo = some (n, back, since))
    (hnow : nextOf 200000 since ≤ s.now) :
    ∃ t, exec (.portRateSwitch p) s = .next t ∧ Only [.ports] s t ∧ (t.portSt p).phase = back ∧ (t.portSt p).nom = n ∧ (t.portSt p).switchTo = none ∧ (t.portSt p).locked = false
      ∧ (t.portSt p).filled = (s.portSt p).filled ∧ ∀ i, i ≠ p.key → t.ports.ports.get i = s.ports.ports.get i := by
  obtain ⟨f, hrun, hf⟩ : ∃ f, exec (.portRateSwitch p) s = .next (s.setPort p f)
      ∧ ∀ x, (f x).phase = back ∧ (f x).nom = n ∧ (f x).switchTo = none ∧ (f x).locked = false ∧ (f x).filled = x.filled := by
    refine ⟨fun x => { x with phase := back, nom := n, switchTo := none, locked := false, goodSince := none
                              suppressed := closeSpan s.now x.suppressed, unlocked := openSpan s.now x.unlocked }, ?_, fun _ => ⟨rfl, rfl, rfl, rfl, rfl⟩⟩
    have hnow' : decide (nextOf countsPerBlock since ≤ s.now) = true := decide_eq_true hnow
    change execPortRateSwitch p s = _
    unfold execPortRateSwitch
    rw [hswitch]
    exact onlyIf_of_true (by rw [hport, decide_eq_true hphase, hnow']; rfl)
  obtain ⟨hp, hn, hs, hl, hfill⟩ := hf (s.portSt p)
  refine ⟨_, hrun, State.setPort_only _ _ _, ?_⟩
  rw [setPort_self]
  exact ⟨hp, hn, hs, hl, hfill, fun i hi => setPort_ne _ _ _ hi⟩

theorem portLeaveFollower_leaves {s : State} {p : PortId} (hport : s.hasPort p = true) (hfollower : (s.portSt p).onFollower = true)
    (hamclk : (s.portSt p).entry.amclk = false) (hl : (s.clk.get p.die).aud.locked = true) (hc : (s.clk.get p.die).aud.coasting = false)
    (hn : s.now % 200000 = 0) :
    ∃ t, exec (.portLeaveFollower p) s = .next t ∧ Only [.ports] s t ∧ (t.portSt p).onFollower = false ∧ (t.portSt p).rateCorr = 0 ∧ (t.portSt p).locked = false
      ∧ (t.portSt p).phase = (s.portSt p).phase ∧ ∀ i, i ≠ p.key → t.ports.ports.get i = s.ports.ports.get i := by
  have hgrid : decide (s.now % countsPerBlock = 0) = true := decide_eq_true hn
  refine ⟨_, onlyIf_of_true (by rw [hport, hfollower, hamclk, hl, hc, hgrid]; rfl), State.setPort_only _ _ _, ?_⟩
  rw [setPort_self]
  exact ⟨rfl, rfl, rfl, rfl, fun i hi => setPort_ne _ _ _ hi⟩

theorem portClearCounts_clears {s : State} {p : PortId} (hb : s.barUp = true) (hup : s.dieUp p.die = true) (hport : s.hasPort p = true) :
    ∃ t, exec (.portClearCounts p) s = .next t ∧ Only [.ports, .mode] s t ∧ t.mode = { s.mode with lastAccess := s.now } ∧ t.portSt p = { s.portSt p with filled := 0, discarded := 0, slips := 0 }
      ∧ t.ports.amclks.get p.die = { s.ports.amclks.get p.die with glitches := 0, stops := 0 } := by
  refine ⟨_, dieWrite_takes (f := fun t => (t.setPort p fun x => { x with filled := 0, discarded := 0, slips := 0 }).setAmclk p.die fun a => { a with glitches := 0, stops := 0 })
    hb hup hport, ?_, rfl, setPort_self _ _ _, setAmclk_self _ _ _⟩
  exact (((hostAccess_only s).mono rfl).trans ((State.setPort_only _ _ _).mono rfl)).trans ((State.setAmclk_only _ _ _).mono rfl)

/-- Settles O35: each clause by the rule of its tick, its roll, its return or its counts above. -/
theorem portLifecycle : Obligations.PortLifecycle :=
  ⟨fun _ _ _ => portStartTick_starts, fun _ _ => portPrerollEnd_runs, fun _ _ _ => portStopTick_stops, fun _ _ => portPostrollEnd_stops,
    fun _ _ => portResume_preRolls, fun _ _ _ _ _ => portRateSwitch_returns, fun _ _ => portLeaveFollower_leaves, fun _ _ => portClearCounts_clears⟩

end Sys2Proof.Machine
end

section
/-!
PROOFS. What a port carries: output frames, the follower, input frames (09 R254 to R263, R266, R270).
-/
namespace Sys2Proof.Machine

/-! ### What the channels of a frame render -/

theorem getD_map_range {α : Type} (f : Nat → α) (n i : Nat) (h : i < n) (a : α) : ((List.range n).map f).getD i a = f i := by
  simp [List.getD, h]

theorem packChannels_within {mask i : Nat} {r : Nat → Rendered} (h : i < 16) (hi : i < (maskList 128 mask).length) : (packChannels mask r).getD i .idle = r i := by
  unfold packChannels
  dsimp only
  rw [getD_map_range _ _ _ h, if_pos hi]

theorem packChannels_beyond {mask i : Nat} {r : Nat → Rendered} (h : i < 16) (hi : (maskList 128 mask).length ≤ i) : (packChannels mask r).getD i .idle = .idle := by
  unfold packChannels
  dsimp only
  rw [getD_map_range _ _ _ h, if_neg (Nat.not_lt.mpr hi)]

theorem maskList_zero (n : Nat) : maskList n 0 = [] := by
  simp [maskList, maskBit]

section
variable {s : State} {a : Air} {d n i : Nat} {present : Bool} (h : i < 16)
include h

theorem frameOf_idle (hidle : (s.portSt (.out d)).dataDue n = false ∨ (maskList 128 ((s.portSt (.out d)).maskAt (gridInstant n))).length ≤ i) :
    (s.frameOf a d n present).getD i .idle = .idle := by
  unfold State.frameOf
  dsimp only
  split
  · exact packChannels_beyond h (by rw [maskList_zero]; exact Nat.zero_le _)
  · rename_i hdue
    have hout := hidle.resolve_left fun hno => hdue (by rw [hno]; rfl)
    split
    · exact packChannels_beyond h hout
    · exact packChannels_beyond h hout

theorem frameOf_word (hdue : (s.portSt (.out d)).dataDue n = true) (hi : i < (maskList 128 ((s.portSt (.out d)).maskAt (gridInstant n))).length)
    (hpresent : present = true) (hfill : (s.portSt (.out d)).fillLeft = 0) :
    (s.frameOf a d n present).getD i .idle = s.portWord a d ((maskList 128 ((s.portSt (.out d)).maskAt (gridInstant n))).getD i 0) n := by
  unfold State.frameOf
  dsimp only
  rw [if_neg (by rw [hdue]; decide), if_neg (by simp [PortSt.fills, hpresent, hfill]), packChannels_within h hi]

theorem frameOf_fill (hdue : (s.portSt (.out d)).dataDue n = true) (hi : i < (maskList 128 ((s.portSt (.out d)).maskAt (gridInstant n))).length)
    (hfill : present = false ∨ 0 < (s.portSt (.out d)).fillLeft) :
    (s.frameOf a d n present).getD i .idle = if (s.portSt (.out d)).entry.gapSilence then .zero else .idle := by
  have hfills : (s.portSt (.out d)).fills ((s.portSt (.out d)).dataDue n) present = true := by
    rcases hfill with hfill | hfill <;> simp [PortSt.fills, hdue, hfill]
  unfold State.frameOf
  dsimp only
  rw [if_neg (by rw [hdue]; decide), if_pos hfills, packChannels_within h hi]

end

theorem renderAll_channel {x : PortSt} {chans : List Rendered} {i : Nat} (h : i < 16) :
    (((x.renderAll chans).map (·.1)).getD i {}, ((x.renderAll chans).map (·.2)).getD i []) = (x.mods.getD i {}).render x.frameBits i (chans.getD i .idle) := by
  unfold PortSt.renderAll
  rw [List.map_map, List.map_map, getD_map_range _ _ _ h, getD_map_range _ _ _ h]
  rfl

theorem renderAll_bits {x : PortSt} {chans : List Rendered} {i : Nat} (h : i < 16) (hidle : chans.getD i .idle = .idle) :
    ((x.renderAll chans).map (·.2)).getD i [] = idleBits i x.frameBits := by
  have hpair := renderAll_channel (x := x) (chans := chans) h
  rw [hidle] at hpair
  exact congrArg Prod.snd hpair

/-! ### A frame starts -/

/-- The follow-up of a frame on the port: the underrun that its content ends, what came too late, the read-back. -/
def frameChecked (d n late : Nat) (ends : Bool) (diffs : List Nat) (u : State) : State :=
  (List.range 9).foldl (checkLine d diffs)
    (if late = 0 then (if ends = true then endUnderrun (.out d) u else u)
     else raise .portOverrun d [.w (PortId.out d).word, .q (gridInstant (n - late)), .w late] (if ends = true then endUnderrun (.out d) u else u))

section
variable {d n late : Nat} {ends : Bool} {diffs : List Nat} {u : State}

theorem frameEnded_only : Only [.ports, .link, .integ, .sec] u (if ends = true then endUnderrun (.out d) u else u) := Only.ite (endUnderrun_only _ _) (Only.refl _ _)

theorem frameEnded_kept : OutKept (.out d) u (if ends = true then endUnderrun (.out d) u else u)
    ∧ ((if ends = true then endUnderrun (.out d) u else u).portSt (.out d)).lineFault = (u.portSt (.out d)).lineFault := by
  split
  · exact endUnderrun_kept _ _
  · exact ⟨OutKept.refl _ _, rfl⟩

theorem checkLines_kept (l : List Nat) (v : State) : OutKept (.out d) v (l.foldl (checkLine d diffs) v)
    ∧ ((l.foldl (checkLine d diffs) v).portSt (.out d)).underrun = (v.portSt (.out d)).underrun := by
  refine foldl_keep (fun w => OutKept (.out d) v w ∧ (w.portSt (.out d)).underrun = (v.portSt (.out d)).underrun) _ _ (fun w i hw => ?_) _ ⟨OutKept.refl _ _, rfl⟩
  exact ⟨hw.1.trans (checkLine_kept _ _ _ _).1, (checkLine_kept _ _ _ _).2.trans hw.2⟩

theorem checkLines_only (l : List Nat) (v : State) : Only [.ports, .link, .integ, .sec] v (l.foldl (checkLine d diffs) v) := Only.foldl (fun _ _ => checkLine_only _ _ _ _) l v

/-- What came too late is reported before the read-back. -/
theorem frameReported_facts (v : State) : Only [.ports, .link, .integ, .sec] v (if late = 0 then v else raise .portOverrun d [.w (PortId.out d).word, .q (gridInstant (n - late)), .w late] v)
    ∧ OutKept (.out d) v (if late = 0 then v else raise .portOverrun d [.w (PortId.out d).word, .q (gridInstant (n - late)), .w late] v)
    ∧ (if late = 0 then v else raise .portOverrun d [.w (PortId.out d).word, .q (gridInstant (n - late)), .w late] v).portSt (.out d) = v.portSt (.out d) := by
  split
  · exact ⟨Only.refl _ _, OutKept.refl _ _, rfl⟩
  · exact ⟨(raise_only _ _ _ _).mono rfl, outKept_raise _ _ _ _ _, portSt_of_ports (raise_ports _ _ _ _) _⟩

theorem frameChecked_only : Only [.ports, .link, .integ, .sec] u (frameChecked d n late ends diffs u) :=
  (frameEnded_only.trans (frameReported_facts _).1).trans (checkLines_only _ _)

theorem frameChecked_kept : OutKept (.out d) u (frameChecked d n late ends diffs u) :=
  (frameEnded_kept.1.trans (frameReported_facts _).2.1).trans (checkLines_kept _ _).1

theorem frameChecked_underrun (hends : ends = false) : ((frameChecked d n late ends diffs u).portSt (.out d)).underrun = (u.portSt (.out d)).underrun := by
  subst hends
  exact (checkLines_kept _ _).2.trans (by rw [(frameReported_facts _).2.2]; rfl)

theorem frameChecked_overrun {s : State} (hu : Only [.ports, .link, .integ, .sec] s u) (hlate : late ≠ 0) :
    Raises s (frameChecked d n late ends diffs u) .portOverrun d [.w (PortId.out d).word, .q (gridInstant (n - late)), .w late] := by
  refine Raises.andThen (checkLines_only _ _) rfl ?_
  rw [if_neg hlate]
  exact Raises.raise (hu.trans frameEnded_only) rfl rfl _ _ _

theorem frameChecked_faults {s : State} (hu : Only [.ports, .link, .integ, .sec] s u) {i : Nat} (hi : i < 9) (hclean : (u.portSt (.out d)).lineFault = 0)
    (h8 : 8 ≤ diffs.getD i 0) (hbefore : ∀ j, j < i → diffs.getD j 0 < 8) :
    Raises s (frameChecked d n late ends diffs u) .portLineFault d [.w (PortId.out d).word, .w i] := by
  refine checkLine_raises ((hu.trans frameEnded_only).trans (frameReported_facts _).1) i hi ?_ h8 hbefore
  rw [(frameReported_facts _).2.2, frameEnded_kept.2, hclean]

end

/-- The port as the start of a frame leaves it: modulators, mask, fill frames, counts, underrun (R258 to R261). -/
def PortSt.frameStarted (frame : List (Modulator × List Bool)) (n m late : Nat) (due present fill : Bool) (x : PortSt) : PortSt :=
  { x with
    mods := frame.map (·.1)
    mask := if due then m else x.mask, nextMask := if due && m == x.entry.mask then none else x.nextMask
    fillLeft := if due then x.fillLeft - 1 else x.fillLeft
    filled := x.filled + BitVec.ofNat 32 (b2n fill), discarded := x.discarded + BitVec.ofNat 32 late
    underrun := if due && !present then some (match x.underrun with
        | some r => { r with count := r.count + 1 }
        | none => ⟨n, 1⟩) else x.underrun }

theorem portFrameStart_sends {s : State} {d late n m : Nat} {air : Air} {present due : Bool} {diffs : List Nat} (hport : s.hasPort (.out d) = true)
    (hclocked : (s.portSt (.out d)).phase.clocked = true) (hn : n = gridIndex (s.now - 300000))
    (hm : m = (s.portSt (.out d)).maskAt (gridInstant n)) (hdue : due = (s.portSt (.out d)).dataDue n) :
    ∃ t, exec (.portFrameStart d air present late diffs) s = .next t ∧ Only [.ports, .link, .integ, .sec] s t
      ∧ (∃ bits, t.link.sent = s.link.sent ++ [.frame d n bits] ∧ bits.length = 16
          ∧ (∀ i < 16, (due = false ∨ (maskList 128 m).length ≤ i) →
              bits.getD i [] = idleBits i (s.portSt (.out d)).frameBits)
          ∧ (∀ i < 16, due = true → present = true → (s.portSt (.out d)).fillLeft = 0 → i < (maskList 128 m).length →
              ((t.portSt (.out d)).mods.getD i {}, bits.getD i []) =
                ((s.portSt (.out d)).mods.getD i {}).render (s.portSt (.out d)).frameBits i (s.portWord air d ((maskList 128 m).getD i 0) n))
          ∧ (∀ i < 16, due = true → (present = false ∨ 0 < (s.portSt (.out d)).fillLeft) → i < (maskList 128 m).length →
              ((t.portSt (.out d)).mods.getD i {}, bits.getD i []) =
                ((s.portSt (.out d)).mods.getD i {}).render (s.portSt (.out d)).frameBits i (if (s.portSt (.out d)).entry.gapSilence then .zero else .idle)))
      ∧ (t.portSt (.out d)).phase = (s.portSt (.out d)).phase
      ∧ (t.portSt (.out d)).discarded = (s.portSt (.out d)).discarded + BitVec.ofNat 32 late
      ∧ (due = false → (t.portSt (.out d)).filled = (s.portSt (.out d)).filled)
      ∧ (due = true → present = true → (s.portSt (.out d)).fillLeft = 0 → (t.portSt (.out d)).filled = (s.portSt (.out d)).filled)
      ∧ (due = true → present = false → (t.portSt (.out d)).filled = (s.portSt (.out d)).filled + 1 ∧ (t.portSt (.out d)).underrun.isSome = true)
      ∧ (late ≠ 0 → Raises s t .portOverrun d [.w (PortId.out d).word, .q (gridInstant (n - late)), .w late])
      ∧ (∀ i, i < 9 → (s.portSt (.out d)).lineFault = 0 → 8 ≤ diffs.getD i 0 → (∀ j, j < i → diffs.getD j 0 < 8) → Raises s t .portLineFault d [.w (PortId.out d).word, .w i]) := by
  obtain ⟨frame, hframe⟩ : ∃ f, f = (s.portSt (.out d)).renderAll (s.frameOf air d n present) := ⟨_, rfl⟩
  have hn' : n = gridIndex (s.now - renderDelay) := hn
  obtain ⟨u, hu⟩ : ∃ u, u = (send (.frame d n (frame.map (·.2))) s).setPort (.out d)
      (PortSt.frameStarted frame n m late due present ((s.portSt (.out d)).fills due present)) := ⟨_, rfl⟩
  have hrun : exec (.portFrameStart d air present late diffs) s = .next (frameChecked d n late (due && present) diffs u) := by
    subst hu hdue hframe hm hn'
    exact onlyIf_of_true (by rw [hport, hclocked]; rfl)
  have honly : Only [.ports, .link, .integ, .sec] s u := hu ▸ ((send_only _ s).mono rfl).trans ((State.setPort_only _ _ _).mono rfl)
  have hsent : u.link.sent = s.link.sent ++ [.frame d n (frame.map (·.2))] := by rw [hu]; rfl
  have hself : u.portSt (.out d) = (s.portSt (.out d)).frameStarted frame n m late due present ((s.portSt (.out d)).fills due present) := by
    rw [hu, setPort_self]
    rfl
  obtain ⟨hksent, hkphase, hkdiscarded, hkfilled, hkmods⟩ := frameChecked_kept (d := d) (n := n) (late := late) (ends := due && present) (diffs := diffs) (u := u)
  have hfilled : ((frameChecked d n late (due && present) diffs u).portSt (.out d)).filled =
      (s.portSt (.out d)).filled + BitVec.ofNat 32 (b2n ((s.portSt (.out d)).fills due present)) := by rw [hkfilled, hself]; rfl
  have hmods : ((frameChecked d n late (due && present) diffs u).portSt (.out d)).mods = frame.map (·.1) := by rw [hkmods, hself]; rfl
  refine ⟨_, hrun, honly.trans frameChecked_only, ⟨frame.map (·.2), by rw [hksent, hsent], ?_, fun i hi hidle => ?_, fun i hi hyes hpresent hzero hwithin => ?_,
    fun i hi hyes hfill hwithin => ?_⟩, by rw [hkphase, hself]; rfl, by rw [hkdiscarded, hself]; rfl, fun hno => ?_, fun hyes hpresent hzero => ?_, fun hyes hpresent => ⟨?_, ?_⟩,
    frameChecked_overrun honly, fun i hi hclean h8 hbefore => frameChecked_faults honly hi (by rw [hself]; exact hclean) h8 hbefore⟩
  · rw [hframe, PortSt.renderAll, List.length_map, List.length_map, List.length_range]
  · rw [hframe]
    exact renderAll_bits hi (frameOf_idle hi (by rwa [← hdue, ← hm]))
  · rw [hmods, hframe, renderAll_channel hi, frameOf_word hi (hdue ▸ hyes) (hm ▸ hwithin) hpresent hzero, ← hm]
  · rw [hmods, hframe, renderAll_channel hi, frameOf_fill hi (hdue ▸ hyes) (hm ▸ hwithin) hfill]
  · rw [hfilled, hno]
    exact BitVec.add_zero _
  · rw [hfilled, hyes, hpresent, PortSt.fills, hzero]
    exact BitVec.add_zero _
  · rw [hfilled, hyes, hpresent]
    rfl
  · rw [frameChecked_underrun (by rw [hpresent, Bool.and_false]), hself, hyes, hpresent]
    rfl

/-! ### The follower -/

/-- The port with its follower updated (R254). -/
def PortSt.followed (now : Nat) (err c sum : Int) (locked : Bool) (since : Option Nat) (x : PortSt) : PortSt :=
  { x with rateCorr := c, errSum := sum, atLimit := decide (c.natAbs = 1000000), fifoLevel := wrapInt 16 (roundDiv (err * 48) 6250), goodSince := since, locked := locked
           unlocked := if locked then closeSpan now x.unlocked else openSpan now x.unlocked }

/-- Since when the alignment error has been small, and whether the follower is locked then (R254). -/
def PortSt.goodAfter (x : PortSt) (now : Nat) (err : Int) : Option Nat := if decide (err.natAbs ≤ 500) then some (x.goodSince.getD now) else none
def PortSt.lockedAfter (x : PortSt) (now : Nat) (err : Int) : Bool :=
  if x.locked then decide (err.natAbs ≤ 2000) else match x.goodAfter now err with
    | some t => decide (t + countsPerSecond ≤ now)
    | none => false

section
variable {x : PortSt} {now : Nat} {err : Int}

theorem lockedAfter_locked (h : x.locked = true) : x.lockedAfter now err = true ↔ err.natAbs ≤ 2000 := by
  rw [PortSt.lockedAfter, h, if_pos rfl, decide_eq_true_iff]

theorem goodAfter_far (h : 500 < err.natAbs) : x.goodAfter now err = none := if_neg (by simpa using h)

theorem goodAfter_near (h : err.natAbs ≤ 500) : x.goodAfter now err = some (x.goodSince.getD now) := if_pos (decide_eq_true h)

theorem lockedAfter_far (hl : x.locked = false) (h : 500 < err.natAbs) : x.lockedAfter now err = false := by
  rw [PortSt.lockedAfter, hl, if_neg Bool.false_ne_true, goodAfter_far h]

theorem lockedAfter_near (hl : x.locked = false) (h : err.natAbs ≤ 500) {g : Nat} (hg : x.goodSince = some g) :
    x.lockedAfter now err = true ↔ g + 100000000 ≤ now := by
  rw [PortSt.lockedAfter, hl, if_neg Bool.false_ne_true, goodAfter_near h, hg]
  exact decide_eq_true_iff

end

/-- A slip keeps what the update of the follower has set. -/
theorem slipped_facts {p : PortId} {c b : Bool} {u : State} :
    ((if c = true then slipPort p b u else u).portSt p).atLimit = (u.portSt p).atLimit
    ∧ ((if c = true then slipPort p b u else u).portSt p).rateCorr = (u.portSt p).rateCorr
    ∧ ((if c = true then slipPort p b u else u).portSt p).fifoLevel = (u.portSt p).fifoLevel
    ∧ ((if c = true then slipPort p b u else u).portSt p).locked = (u.portSt p).locked
    ∧ ((if c = true then slipPort p b u else u).portSt p).goodSince = (u.portSt p).goodSince
    ∧ ((if c = true then slipPort p b u else u).portSt p).errSum = (u.portSt p).errSum
    ∧ ∀ i, i ≠ p.key → (if c = true then slipPort p b u else u).ports.ports.get i = u.ports.ports.get i := by
  cases c
  · exact ⟨rfl, rfl, rfl, rfl, rfl, rfl, fun _ _ => rfl⟩
  · exact (slipPort_facts p b u).2

theorem slipPort_raises (p : PortId) (b : Bool) (u : State) :
    Raises u (slipPort p b u) .portSlip p.die [.w p.word, .w (b2n (!b)), .q (gridInstant (gridIndex (u.now - if p.isInput then 0 else 300000)))] :=
  Raises.raise (State.setPort_only u p _) rfl rfl _ _ _

theorem portFollowerUpdate_steers {s : State} {p : PortId} {err : Int} (hport : s.hasPort p = true) (hfollower : (s.portSt p).onFollower = true)
    (hclocked : (s.portSt p).phase.clocked = true) :
    ∃ t, exec (.portFollowerUpdate p err) s = .next t ∧ Only [.ports, .link, .integ, .sec] s t
      ∧ -1000000 ≤ (t.portSt p).rateCorr ∧ (t.portSt p).rateCorr ≤ 1000000 ∧ (t.portSt p).errSum = (s.portSt p).errSum + err
      ∧ (t.portSt p).fifoLevel = wrapInt 16 (roundDiv (err * 48) 6250) ∧ (t.portSt p).atLimit = decide ((t.portSt p).rateCorr.natAbs = 1000000)
      ∧ ((s.portSt p).locked = true → ((t.portSt p).locked = true ↔ err.natAbs ≤ 2000))
      ∧ ((s.portSt p).locked = false → 500 < err.natAbs → (t.portSt p).locked = false ∧ (t.portSt p).goodSince = none)
      ∧ ((s.portSt p).locked = false → err.natAbs ≤ 500 → ∀ g, (s.portSt p).goodSince = some g → ((t.portSt p).locked = true ↔ g + 100000000 ≤ s.now))
      ∧ ((s.portSt p).locked = false → err.natAbs ≤ 500 → (s.portSt p).goodSince = none → (t.portSt p).goodSince = some s.now)
      ∧ ((t.portSt p).atLimit = true → 6250 ≤ 6 * err.natAbs → (t.portSt p).slips = satInc (s.portSt p).slips
          ∧ Raises s t .portSlip p.die [.w p.word, .w (b2n (!decide (0 < err))), .q (gridInstant (gridIndex (s.now - if p.isInput then 0 else 300000)))])
      ∧ (((t.portSt p).atLimit = false ∨ 6 * err.natAbs < 6250) → (t.portSt p).slips = (s.portSt p).slips ∧ t.link = s.link)
      ∧ ∀ i, i ≠ p.key → t.ports.ports.get i = s.ports.ports.get i := by
  obtain ⟨c, hc⟩ : ∃ c, c = clampInt (-1000000) 1000000 (roundDiv (Config.portGains.1 * err + Config.portGains.2 * ((s.portSt p).errSum + err)) (2 ^ 40)) := ⟨_, rfl⟩
  obtain ⟨hlo, hhi⟩ : -1000000 ≤ c ∧ c ≤ 1000000 := hc ▸ clampInt_bounds (by decide) _
  obtain ⟨u, hu⟩ : ∃ u, u = s.setPort p (PortSt.followed s.now err c ((s.portSt p).errSum + err) ((s.portSt p).lockedAfter s.now err) ((s.portSt p).goodAfter s.now err)) := ⟨_, rfl⟩
  have hrun : exec (.portFollowerUpdate p err) s = .next (if (decide (c.natAbs = 1000000) && decide (6250 ≤ 6 * err.natAbs)) = true then slipPort p (decide (0 < err)) u else u) := by
    subst hu hc
    exact onlyIf_of_true (by rw [hport, hfollower, hclocked]; rfl)
  have hset : Only [.ports] s u := hu ▸ State.setPort_only _ _ _
  have hself : u.portSt p = (s.portSt p).followed s.now err c ((s.portSt p).errSum + err) ((s.portSt p).lockedAfter s.now err) ((s.portSt p).goodAfter s.now err) := by
    rw [hu, setPort_self]
  have hother : ∀ i, i ≠ p.key → u.ports.ports.get i = s.ports.ports.get i := fun i hi => by rw [hu, setPort_ne _ _ _ hi]
  obtain ⟨hlimit, hcorr, hlevel, hlocked, hgood, hsum, hne⟩ := slipped_facts (p := p) (c := decide (c.natAbs = 1000000) && decide (6250 ≤ 6 * err.natAbs)) (b := decide (0 < err)) (u := u)
  rw [hself] at hlimit hcorr hlevel hlocked hgood hsum
  refine ⟨_, hrun, (hset.mono rfl).trans (Only.ite (slipPort_only _ _ _) (Only.refl _ _)), by rw [hcorr]; exact hlo, by rw [hcorr]; exact hhi, hsum, hlevel,
    by rw [hlimit, hcorr]; rfl, fun hyes => ?_, fun hno hfar => ⟨?_, ?_⟩, fun hno hnear g hg => ?_, fun hno hnear hg => ?_, fun hat herr => ?_, fun h => ?_,
    fun i hi => (hne i hi).trans (hother i hi)⟩
  · rw [hlocked]
    exact lockedAfter_locked hyes
  · rw [hlocked]
    exact lockedAfter_far hno hfar
  · rw [hgood]
    exact goodAfter_far hfar
  · rw [hlocked]
    exact lockedAfter_near hno hnear hg
  · rw [hgood]
    exact (goodAfter_near hnear).trans (by rw [hg]; rfl)
  · rw [hlimit] at hat
    have hslip : (decide (c.natAbs = 1000000) && decide (6250 ≤ 6 * err.natAbs)) = true := by
      rw [decide_eq_true herr, Bool.and_true]
      exact hat
    rw [if_pos hslip]
    have hraises := slipPort_raises p (decide (0 < err)) u
    rw [hset.now rfl] at hraises
    exact ⟨(slipPort_facts _ _ _).1.trans (by rw [hself]; rfl), Raises.after hset rfl rfl hraises⟩
  · rw [hlimit] at h
    have hkeep : ¬ (decide (c.natAbs = 1000000) && decide (6250 ≤ 6 * err.natAbs)) = true := by
      rcases h with h | h
      · rw [show decide (c.natAbs = 1000000) = false from h]
        exact Bool.false_ne_true
      · rw [decide_eq_false (Nat.not_le.mpr h), Bool.and_false]
        exact Bool.false_ne_true
    rw [if_neg hkeep, hself]
    exact ⟨rfl, hset .link rfl⟩

/-! ### Input frames -/

theorem checkQuiet_levels (d : Nat) (moved : List Bool) (i : Nat) (u : State) :
    ((checkQuiet d moved u i).portSt (.inp d)).levels = (u.portSt (.inp d)).levels := by
  unfold checkQuiet
  dsimp only
  split
  · have hx : ∀ (b : Bool) n a (v : State), (if b = true then raise n d a v else v).portSt (.inp d) = v.portSt (.inp d) := fun b n a v => by
      cases b
      · rfl
      · exact portSt_of_ports (raise_ports _ _ _ _) _
    rw [hx, setPort_self]
  · split
    · rw [portSt_of_ports (raise_ports _ _ _ _), setPort_self, setPort_self]
    · rw [setPort_self]

theorem checkQuiets_levels (d : Nat) (moved : List Bool) (l : List Nat) (u : State) :
    ((l.foldl (checkQuiet d moved) u).portSt (.inp d)).levels = (u.portSt (.inp d)).levels ∧ ((l.foldl (checkQuiet d moved) u).portSt (.inp d)).phase = (u.portSt (.inp d)).phase := by
  refine foldl_keep (fun v => (v.portSt (.inp d)).levels = (u.portSt (.inp d)).levels ∧ (v.portSt (.inp d)).phase = (u.portSt (.inp d)).phase) _ _ (fun v i hv => ?_) _ ⟨rfl, rfl⟩
  exact ⟨(checkQuiet_levels _ _ _ _).trans hv.1, (checkQuiet_facts _ _ _ _).1.trans hv.2⟩

/-- A line of an input counts its frames without a transition (R270). -/
theorem checkQuiets_counts {d : Nat} {moved : List Bool} {i : Nat} (hi : i < 4) (u : State) (hlen : moved.getD i true = true ∨ i < (u.portSt (.inp d)).quietFrames.length) :
    (((List.range 4).foldl (checkQuiet d moved) u).portSt (.inp d)).quietFrames.getD i 0 =
      if moved.getD i true = true then 0 else (u.portSt (.inp d)).quietFrames.getD i 0 + 1 := by
  obtain ⟨l1, l2, hl, h1, h2⟩ := range4_split i hi
  obtain ⟨-, hlength, hcount, -⟩ := checkQuiet_foldl_other d moved i l1 h1 u
  obtain ⟨-, -, hafter, -⟩ := checkQuiet_foldl_other d moved i l2 h2 (checkQuiet d moved (l1.foldl (checkQuiet d moved) u) i)
  rw [hl, List.foldl_append, List.foldl_cons, hafter, (checkQuiet_facts _ _ _ _).2.1, hcount]
  by_cases hin : i < (u.portSt (.inp d)).quietFrames.length
  · exact getD_set_self _ _ _ (hlength ▸ hin)
  · rw [List.set_eq_of_length_le (hlength ▸ Nat.not_lt.mp hin), hcount, if_pos (hlen.resolve_right hin)]
    rw [List.getD_eq_getElem?_getD, List.getElem?_eq_none (Nat.not_lt.mp hin)]
    exact Option.getD_none

theorem checkQuiet_stuck {d : Nat} {moved : List Bool} {i : Nat} {u : State} (hmoved : moved.getD i true = false) (h64 : 64 ≤ (u.portSt (.inp d)).quietFrames.getD i 0 + 1)
    (hfree : ∀ k ∈ (u.portSt (.inp d)).stuck, k.line = i → k.span.stop.isSome = true) :
    Raises u (checkQuiet d moved u i) .inputLineStuck d [.w (PortId.inp d).word, .w i, .w (0 : Nat)] := by
  have hnone : ((u.portSt (.inp d)).stuck.any fun k => k.line == i && k.span.stop.isNone) = false := by
    rw [List.any_eq_false]
    intro k hk
    by_cases hki : k.line = i
    · have hsome := hfree k hk hki
      rw [Option.isSome_iff_ne_none] at hsome
      simp [hsome]
    · simp [hki]
  unfold checkQuiet
  dsimp only
  rw [hmoved, if_neg Bool.false_ne_true, hnone, decide_eq_true h64, if_pos (by rfl)]
  exact Raises.raise ((State.setPort_only _ _ _).trans (State.setPort_only _ _ _)) rfl rfl _ _ _

theorem checkQuiets_stuck {d : Nat} {moved : List Bool} {i : Nat} (hi : i < 4) {s u : State} (hu : Only [.ports, .link, .integ, .sec] s u) (hmoved : moved.getD i true = false)
    (h64 : 64 ≤ (u.portSt (.inp d)).quietFrames.getD i 0 + 1) (hfree : ∀ k ∈ (u.portSt (.inp d)).stuck, k.line = i → k.span.stop.isSome = true) :
    Raises s ((List.range 4).foldl (checkQuiet d moved) u) .inputLineStuck d [.w (PortId.inp d).word, .w i, .w (0 : Nat)] := by
  obtain ⟨l1, l2, hl, h1, h2⟩ := range4_split i hi
  obtain ⟨-, -, hcount, hstuck⟩ := checkQuiet_foldl_other d moved i l1 h1 u
  rw [hl, List.foldl_append, List.foldl_cons]
  refine Raises.andThen (Only.foldl (fun v x => checkQuiet_only _ _ _ _) l2 _) rfl ?_
  refine Raises.after (hu.trans (Only.foldl (fun v x => checkQuiet_only d moved v x) l1 u)) rfl rfl (checkQuiet_stuck hmoved (by rwa [hcount]) (hstuck hfree))

theorem inputFrameReceived_watches {s : State} {d : Nat} {frame : Int} {air : Air} (hport : s.hasPort (.inp d) = true)
    (hclocked : (s.portSt (.inp d)).phase.clocked = true) :
    ∃ t, exec (.inputFrameReceived d frame air) s = .next t ∧ Only [.ports, .link, .integ, .sec] s t ∧ (t.portSt (.inp d)).phase = (s.portSt (.inp d)).phase
      ∧ (∀ i, i < 4 → (t.portSt (.inp d)).levels.getD i false = ((s.portSt (.inp d)).movedIn air d frame i).2)
      ∧ (∀ i, i < 4 → ((s.portSt (.inp d)).movedIn air d frame i).1 = true → (t.portSt (.inp d)).quietFrames.getD i 0 = 0)
      ∧ (∀ i, i < 4 → ((s.portSt (.inp d)).movedIn air d frame i).1 = false → i < (s.portSt (.inp d)).quietFrames.length →
          (t.portSt (.inp d)).quietFrames.getD i 0 = (s.portSt (.inp d)).quietFrames.getD i 0 + 1)
      ∧ (∀ i, i < 4 → ((s.portSt (.inp d)).movedIn air d frame i).1 = false → 64 ≤ (s.portSt (.inp d)).quietFrames.getD i 0 + 1 →
          (∀ k ∈ (s.portSt (.inp d)).stuck, k.line = i → k.span.stop.isSome = true) →
          Raises s t .inputLineStuck d [.w (PortId.inp d).word, .w i, .w (0 : Nat)]) := by
  obtain ⟨r, hr⟩ : ∃ r, r = (List.range 4).map ((s.portSt (.inp d)).movedIn air d frame) := ⟨_, rfl⟩
  obtain ⟨u, hu⟩ : ∃ u, u = s.setPort (.inp d) fun x => { x with levels := r.map (·.2) } := ⟨_, rfl⟩
  have hrun : exec (.inputFrameReceived d frame air) s = .next ((List.range 4).foldl (checkQuiet d (r.map (·.1))) u) := by
    subst hu hr
    exact onlyIf_of_true (by rw [hport, hclocked]; rfl)
  have hset : Only [.ports] s u := hu ▸ State.setPort_only _ _ _
  have hself : u.portSt (.inp d) = { s.portSt (.inp d) with levels := r.map (·.2) } := by rw [hu, setPort_self]
  have hmoved : ∀ i, i < 4 → (r.map (·.1)).getD i true = ((s.portSt (.inp d)).movedIn air d frame i).1 := fun i hi => by
    rw [hr, List.map_map, getD_map_range _ _ _ hi]
    rfl
  obtain ⟨hlevels, hphase⟩ := checkQuiets_levels d (r.map (·.1)) (List.range 4) u
  refine ⟨_, hrun, (hset.mono rfl).trans (Only.foldl (fun v x => checkQuiet_only _ _ _ _) _ _), by rw [hphase, hself], fun i hi => ?_, fun i hi hyes => ?_,
    fun i hi hno hlen => ?_, fun i hi hno h64 hfree => ?_⟩
  · rw [hlevels, hself, hr]
    dsimp only
    rw [List.map_map, getD_map_range _ _ _ hi]
    rfl
  · have hm := (hmoved i hi).trans hyes
    rw [checkQuiets_counts hi u (.inl hm), if_pos hm]
  · have hm := (hmoved i hi).trans hno
    rw [checkQuiets_counts hi u (.inr (by rw [hself]; exact hlen)), if_neg (by rw [hm]; exact Bool.false_ne_true), hself]
  · refine checkQuiets_stuck hi (hset.mono rfl) ((hmoved i hi).trans hno) ?_ ?_
    · rw [hself]
      exact h64
    · rw [hself]
      exact hfree

/-- Settles O36: each clause by the rule of a frame that starts, of the follower, or of a frame that comes in above. -/
theorem portTraffic : Obligations.PortTraffic :=
  ⟨fun _ _ _ _ _ _ _ _ _ => portFrameStart_sends, fun _ _ _ => portFollowerUpdate_steers, fun _ _ _ _ => inputFrameReceived_watches⟩

end Sys2Proof.Machine
end

section
/-!
PROOFS. External audio clocks: stop, return, rate, glitches (09 R272, R273, R275).
-/
namespace Sys2Proof.Machine

/-! ### What is done to each port of a die on AMCLK -/

/-- What is done to a port on AMCLK touches no other port, and no external clock. -/
structure PortAlone (f : PortId → State → State) : Prop where
  only : ∀ p v, Only [.ports, .link, .integ, .sec] v (f p v)
  other : ∀ p v i, i ≠ p.key → (f p v).ports.ports.get i = v.ports.ports.get i
  clocks : ∀ p v, (f p v).ports.amclks = v.ports.amclks

/-- One port of the walk over a die's ports. -/
def amclkPort (f : PortId → State → State) (acc : State) (p : PortId) : State := if (acc.portSt p).entry.amclk then f p acc else acc

section
variable {f : PortId → State → State} (hf : PortAlone f)
include hf

theorem amclkPort_only (v : State) (p : PortId) : Only [.ports, .link, .integ, .sec] v (amclkPort f v p) := by
  unfold amclkPort
  exact Only.ite (hf.only _ _) (Only.refl _ _)

theorem amclkPort_other (v : State) (p : PortId) {i : Nat} (h : i ≠ p.key) : (amclkPort f v p).ports.ports.get i = v.ports.ports.get i := by
  unfold amclkPort
  split
  · exact hf.other _ _ _ h
  · rfl

theorem amclkPort_clocks (v : State) (p : PortId) : (amclkPort f v p).ports.amclks = v.ports.amclks := by
  unfold amclkPort
  split
  · exact hf.clocks _ _
  · rfl

theorem amclkPorts_only (l : List PortId) (u : State) : Only [.ports, .link, .integ, .sec] u (l.foldl (amclkPort f) u) := Only.foldl (amclkPort_only hf) l u

theorem amclkPorts_clocks (l : List PortId) (u : State) : (l.foldl (amclkPort f) u).ports.amclks = u.ports.amclks :=
  foldl_keep (fun v => v.ports.amclks = u.ports.amclks) _ _ (fun v p hv => (amclkPort_clocks hf v p).trans hv) _ rfl

theorem amclkPorts_other {l : List PortId} {p : PortId} (h : p.key ∉ l.map PortId.key) (u : State) : (l.foldl (amclkPort f) u).portSt p = u.portSt p := by
  induction l generalizing u with
  | nil => rfl
  | cons a l ih =>
    rw [List.map_cons, List.mem_cons, not_or] at h
    rw [List.foldl_cons, ih h.2]
    exact amclkPort_other hf u a h.1

/-- A port of the walk: what is done to it is done to the port as it stood, and kept. -/
theorem amclkPorts_at {l : List PortId} (hl : (l.map PortId.key).Nodup) (u : State) {p : PortId} (hp : p ∈ l) :
    ∃ v, Only [.ports, .link, .integ, .sec] u v ∧ v.portSt p = u.portSt p
      ∧ Only [.ports, .link, .integ, .sec] (amclkPort f v p) (l.foldl (amclkPort f) u) ∧ (l.foldl (amclkPort f) u).portSt p = (amclkPort f v p).portSt p := by
  induction l generalizing u with
  | nil => exact absurd hp List.not_mem_nil
  | cons a l ih =>
    rw [List.map_cons, List.nodup_cons] at hl
    rw [List.foldl_cons]
    rcases List.mem_cons.mp hp with rfl | hp'
    · exact ⟨u, Only.refl _ _, rfl, amclkPorts_only hf _ _, amclkPorts_other hf hl.1 _⟩
    · obtain ⟨v, hv, hsame, hrest, hkept⟩ := ih hl.2 (amclkPort f u a) hp'
      have hne : p.key ≠ a.key := fun h => hl.1 (h ▸ List.mem_map_of_mem hp')
      exact ⟨v, (amclkPort_only hf u a).trans hv, hsame.trans (amclkPort_other hf u a hne), hrest, hkept⟩

/-- A port that is not on AMCLK stays as it is. -/
theorem amclkPorts_internal {l : List PortId} (hl : (l.map PortId.key).Nodup) {u : State} {p : PortId} (hp : p ∈ l) (hint : (u.portSt p).entry.amclk = false) :
    (l.foldl (amclkPort f) u).portSt p = u.portSt p := by
  obtain ⟨v, -, hsame, -, hkept⟩ := amclkPorts_at hf hl u hp
  rw [hkept, ← hsame]
  exact congrArg (State.portSt · p) (if_neg (by rw [hsame, hint]; exact Bool.false_ne_true))

/-- A port on AMCLK is as what is done to it leaves it. -/
theorem amclkPorts_external {l : List PortId} (hl : (l.map PortId.key).Nodup) {u : State} {p : PortId} (hp : p ∈ l) (hext : (u.portSt p).entry.amclk = true) :
    ∃ v, Only [.ports, .link, .integ, .sec] u v ∧ v.portSt p = u.portSt p
      ∧ Only [.ports, .link, .integ, .sec] (f p v) (l.foldl (amclkPort f) u) ∧ (l.foldl (amclkPort f) u).portSt p = (f p v).portSt p := by
  obtain ⟨v, hv, hsame, hrest, hkept⟩ := amclkPorts_at hf hl u hp
  have hstep : amclkPort f v p = f p v := if_pos (by rw [hsame, hext])
  rw [hstep] at hrest hkept
  exact ⟨v, hv, hsame, hrest, hkept⟩

end

theorem freezePort_alone : PortAlone freezePort := ⟨freezePort_only, fun p v _ h => freeze_ne p v h, freeze_amclks⟩

theorem stopPort_amclks (p : PortId) (ph : PortPhase) (bp : Nat) (r : PortReason) (s : State) : (stopPort p ph bp r s).ports.amclks = s.ports.amclks := by
  unfold stopPort
  dsimp only
  rw [raise_ports]
  rfl

theorem rateChangePort_alone (new : Option Nat) : PortAlone (rateChangePort new) where
  only := rateChangePort_only new
  other p v i h := by
    cases new with
    | some n =>
      change (if (v.portSt p).phase.clocked = true then State.setPort v p _ else State.setPort v p _).ports.ports.get i = _
      split
      · exact setPort_ne _ _ _ h
      · exact setPort_ne _ _ _ h
    | none =>
      change (if _ = true then stopPort p .stoppedRate (blockFloor v.now) .rate v else v).ports.ports.get i = _
      split
      · exact stopPort_ne _ _ _ _ _ h
      · rfl
  clocks p v := by
    cases new with
    | some n =>
      change (if (v.portSt p).phase.clocked = true then State.setPort v p _ else State.setPort v p _).ports.amclks = _
      split <;> rfl
    | none =>
      change (if _ = true then stopPort p .stoppedRate (blockFloor v.now) .rate v else v).ports.amclks = _
      split
      · exact stopPort_amclks _ _ _ _ _
      · rfl

theorem rateChangePort_switches {n : Nat} {p : PortId} {v : State} (h : (v.portSt p).phase.clocked = true) :
    ((rateChangePort (some n) p v).portSt p).phase = .reconfiguring ∧ ((rateChangePort (some n) p v).portSt p).switchTo = some (n, (v.portSt p).phase, v.now) := by
  have hgo : rateChangePort (some n) p v = v.setPort p fun x => { x with
      phase := .reconfiguring, switchTo := some (n, x.phase, v.now), suppressed := openSpan v.now x.suppressed } := if_pos h
  rw [hgo, setPort_self]
  exact ⟨rfl, rfl⟩

theorem rateChangePort_stops {p : PortId} {v : State} (h : (v.portSt p).phase.clocked = true) :
    rateChangePort none p v = stopPort p .stoppedRate (blockFloor v.now) .rate v := if_pos (by rw [h]; rfl)

/-! ### A clock stops, returns, glitches -/

section
variable {d : Nat} {g : AmclkSt → AmclkSt} {s : State}

theorem setAmclk_portSt (p : PortId) : (s.setAmclk d g).portSt p = s.portSt p := rfl

theorem setAmclk_ne {i : Nat} (h : i ≠ d) : (s.setAmclk d g).ports.amclks.get i = s.ports.amclks.get i := Tbl.get_modify_of_ne _ h _

theorem portsOf_eq {as : List Aspect} {u : State} (h : Only as s u) (hp : as.contains .part = false) : u.portsOf d = s.portsOf d := by
  unfold State.portsOf State.hasPort State.dies
  rw [h .part hp]

end

theorem amclkStop_freezes {s : State} {d : Nat} (hd : d < s.dies) (hsup : s.supervised d = true) (hq : (s.ports.amclks.get d).qualified = true) :
    ∃ t, exec (.amclkStop d) s = .next t ∧ Only [.ports, .link, .integ, .sec] s t
      ∧ t.ports.amclks.get d = { s.ports.amclks.get d with qualified := false, stopped := true, freq := 0, outRun := 0, stops := satInc (s.ports.amclks.get d).stops }
      ∧ Raises s t .amclkStop d [.w d, .q s.now]
      ∧ (∀ p ∈ s.portsOf d, (s.portSt p).entry.amclk = true → (s.portSt p).phase = .running →
          (t.portSt p).phase = .frozen ∧ Raises s t .portFrozen p.die [.w p.word, .q s.now, .q (0 : Nat)])
      ∧ (∀ p ∈ s.portsOf d, (s.portSt p).entry.amclk = false → t.portSt p = s.portSt p)
      ∧ ∀ i, i ≠ d → t.ports.amclks.get i = s.ports.amclks.get i := by
  obtain ⟨w, hw⟩ : ∃ w, w = s.setAmclk d fun a => { a with qualified := false, stopped := true, freq := 0, outRun := 0, stops := satInc a.stops } := ⟨_, rfl⟩
  obtain ⟨u, hu⟩ : ∃ u, u = raise .amclkStop d [.w d, .q s.now] w := ⟨_, rfl⟩
  have hset : Only [.ports] s w := hw ▸ State.setAmclk_only _ _ _
  have honly : Only [.ports, .link, .integ, .sec] s u := hu ▸ (hset.mono rfl).trans ((raise_only _ _ _ _).mono rfl)
  have hports : u.ports = w.ports := hu ▸ raise_ports _ _ _ _
  have hsame : ∀ p, u.portSt p = s.portSt p := fun p => by rw [portSt_of_ports hports, hw, setAmclk_portSt]
  have hrun : exec (.amclkStop d) s = .next ((s.portsOf d).foldl (amclkPort freezePort) u) := by
    rw [← portsOf_eq honly rfl, hu, hw]
    exact onlyIf_of_true (by rw [decide_eq_true hd, hsup, hq]; rfl)
  have hnodup := portsOf_nodup s d hd
  have hclocks := (amclkPorts_clocks freezePort_alone (s.portsOf d) u).trans (congrArg PortsSt.amclks hports)
  refine ⟨_, hrun, honly.trans (amclkPorts_only freezePort_alone _ _), ?_, Raises.andThen (amclkPorts_only freezePort_alone _ _) rfl ?_, fun p hp hext hrunning => ?_,
    fun p hp hint => ?_, fun i hi => ?_⟩
  · rw [hclocks, hw, setAmclk_self]
  · rw [hu]
    exact Raises.raise hset rfl rfl _ _ _
  · obtain ⟨v, hv, hsamev, hrest, hkept⟩ := amclkPorts_external freezePort_alone hnodup (u := u) hp (by rw [hsame, hext])
    obtain ⟨hphase, hraises⟩ := freeze_running p v (s := s) (by rw [hsamev, hsame, hrunning]) (honly.trans hv)
    rw [hkept]
    exact ⟨hphase, Raises.andThen hrest rfl hraises⟩
  · rw [amclkPorts_internal freezePort_alone hnodup hp (by rw [hsame, hint]), hsame]
  · rw [hclocks, hw, setAmclk_ne hi]

theorem amclkQualified_returns {s : State} {d freq : Nat} (hd : d < s.dies) (hsup : s.supervised d = true)
    (hq : (s.ports.amclks.get d).qualified = false) (hnominal : (nominalOf freq).isSome = true) :
    ∃ t, exec (.amclkQualified d freq) s = .next t ∧ Only [.ports, .link, .integ, .sec] s t
      ∧ t.ports.amclks.get d = { s.ports.amclks.get d with qualified := true, qualifiedAt := s.now, freq := freq, outRun := 0, stopped := false }
      ∧ t.ports.ports = s.ports.ports ∧ ((s.ports.amclks.get d).stopped = true → Raises s t .amclkReturn d [.w d, .q s.now])
      ∧ ((s.ports.amclks.get d).stopped = false → t.link = s.link) ∧ ∀ i, i ≠ d → t.ports.amclks.get i = s.ports.amclks.get i := by
  obtain ⟨w, hw⟩ : ∃ w, w = s.setAmclk d fun a => { a with qualified := true, qualifiedAt := s.now, freq := freq, outRun := 0, stopped := false } := ⟨_, rfl⟩
  have hrun : exec (.amclkQualified d freq) s = .next (if (s.ports.amclks.get d).stopped = true then raise .amclkReturn d [.w d, .q s.now] w else w) := by
    rw [hw]
    exact onlyIf_of_true (by rw [decide_eq_true hd, hsup, hq, hnominal]; rfl)
  have hset : Only [.ports] s w := hw ▸ State.setAmclk_only _ _ _
  have hports : (if (s.ports.amclks.get d).stopped = true then raise .amclkReturn d [.w d, .q s.now] w else w).ports = w.ports := by
    split
    · exact raise_ports _ _ _ _
    · rfl
  refine ⟨_, hrun, (hset.mono rfl).trans (Only.ite ((raise_only _ _ _ _).mono rfl) (Only.refl _ _)), by rw [hports, hw, setAmclk_self], by rw [hports, hw]; rfl,
    fun hyes => Raises.itePos hyes (Raises.raise hset rfl rfl _ _ _), fun hno => ?_, fun i hi => by rw [hports, hw, setAmclk_ne hi]⟩
  rw [if_neg (by rw [hno]; exact Bool.false_ne_true)]
  exact hset .link rfl

theorem amclkGlitches_counts {s : State} {d count : Nat} (hd : d < s.dies) (hsup : s.supervised d = true) (hcount : 0 < count) :
    ∃ t, exec (.amclkGlitches d count) s = .next t ∧ Only [.ports, .link, .integ, .sec] s t
      ∧ t.ports.amclks.get d = { s.ports.amclks.get d with glitches := satAdd (s.ports.amclks.get d).glitches count }
      ∧ t.ports.ports = s.ports.ports ∧ Raises s t .amclkGlitches d [.w d, .w count] ∧ ∀ i, i ≠ d → t.ports.amclks.get i = s.ports.amclks.get i := by
  have hset := s.setAmclk_only d fun a => { a with glitches := satAdd a.glitches count }
  refine ⟨_, onlyIf_of_true (by rw [decide_eq_true hd, hsup, decide_eq_true hcount]; rfl), (hset.mono rfl).trans ((raise_only _ _ _ _).mono rfl), ?_⟩
  rw [raise_ports]
  exact ⟨setAmclk_self _ _ _, rfl, Raises.raise hset rfl rfl _ _ _, fun i hi => setAmclk_ne hi⟩

/-! ### The rate of a clock -/

/-- The ports of a die on AMCLK. -/
def State.amclkPorts (s : State) (d : Nat) : List PortId := (s.portsOf d).filter fun p => (s.portSt p).entry.amclk

/-- What a declared rate change takes the ports to: the new nominal with AUTO_RATE, else none (R273). -/
def State.newNominal (s : State) (d freq : Nat) : Option Nat := if (s.amclkPorts d).any fun p => (s.portSt p).entry.autoRate then nominalOf freq else none

theorem newNominal_some {s : State} {d freq n : Nat} (hn : nominalOf freq = some n) (hauto : ∃ p ∈ s.portsOf d, (s.portSt p).entry.amclk = true ∧ (s.portSt p).entry.autoRate = true) :
    s.newNominal d freq = some n := by
  obtain ⟨p, hp, hext, hrate⟩ := hauto
  exact (if_pos (List.any_eq_true.mpr ⟨p, List.mem_filter.mpr ⟨hp, hext⟩, hrate⟩)).trans hn

theorem newNominal_none {s : State} {d freq : Nat}
    (h : nominalOf freq = none ∨ ∀ p ∈ s.portsOf d, (s.portSt p).entry.amclk = true → (s.portSt p).entry.autoRate = false) : s.newNominal d freq = none := by
  unfold State.newNominal
  split
  · rename_i hany
    obtain ⟨p, hp, hrate⟩ := List.any_eq_true.mp hany
    obtain ⟨hmem, hext⟩ := List.mem_filter.mp hp
    exact h.resolve_right fun hall => absurd ((hall p hmem hext).symm.trans hrate) Bool.false_ne_true
  · rfl

theorem amclkBlockRate_changes {s : State} {d freq nom : Nat} (hd : d < s.dies) (hsup : s.supervised d = true)
    (hq : (s.ports.amclks.get d).qualified = true) (hsome : ∃ p ∈ s.portsOf d, (s.portSt p).entry.amclk = true)
    (hall : ∀ p ∈ s.portsOf d, (s.portSt p).entry.amclk = true → (s.portSt p).nom = nom ∧ (s.portSt p).switchTo = none) :
    ∃ t, exec (.amclkBlockRate d freq) s = .next t ∧ Only [.ports, .link, .integ, .sec] s t ∧ (t.ports.amclks.get d).freq = freq
      ∧ (nearNominal freq nom = true → (t.ports.amclks.get d).outRun = 0 ∧ t.ports.ports = s.ports.ports ∧ t.link = s.link)
      ∧ (nearNominal freq nom = false → (s.ports.amclks.get d).outRun = 0 → (t.ports.amclks.get d).outRun = 1 ∧ t.ports.ports = s.ports.ports ∧ t.link = s.link)
      ∧ (nearNominal freq nom = false → 1 ≤ (s.ports.amclks.get d).outRun → (t.ports.amclks.get d).outRun = 0
          ∧ (∀ n, nominalOf freq = some n → (∃ p ∈ s.portsOf d, (s.portSt p).entry.amclk = true ∧ (s.portSt p).entry.autoRate = true) →
              Raises s t .amclkRateChange d [.w d, .w freq, .w n]
              ∧ ∀ p ∈ s.portsOf d, (s.portSt p).entry.amclk = true → (s.portSt p).phase.clocked = true →
                  (t.portSt p).phase = .reconfiguring ∧ (t.portSt p).switchTo = some (n, (s.portSt p).phase, s.now))
          ∧ ((nominalOf freq = none ∨ ∀ p ∈ s.portsOf d, (s.portSt p).entry.amclk = true → (s.portSt p).entry.autoRate = false) →
              Raises s t .amclkRateChange d [.w d, .w freq, .w (3 : Nat)]
              ∧ ∀ p ∈ s.portsOf d, (s.portSt p).entry.amclk = true → (s.portSt p).phase.clocked = true →
                  (t.portSt p).phase = .stoppedRate ∧ Raises s t .portStopped p.die [.w p.word, .q (blockFloor s.now), .w (2 : Nat)]))
      ∧ (∀ p ∈ s.portsOf d, (s.portSt p).entry.amclk = false → t.portSt p = s.portSt p) := by
  have hnom : ((s.amclkPorts d).head?.map fun p => (s.portSt p).nom).getD 1 = nom := by
    cases hps : s.amclkPorts d with
    | nil =>
      obtain ⟨p, hp, hext⟩ := hsome
      have hmem : p ∈ s.amclkPorts d := List.mem_filter.mpr ⟨hp, hext⟩
      rw [hps] at hmem
      exact absurd hmem List.not_mem_nil
    | cons a l =>
      have hmem : a ∈ s.amclkPorts d := hps ▸ List.mem_cons_self
      obtain ⟨ha, hext⟩ := List.mem_filter.mp hmem
      exact (hall a ha hext).1
  have hswitch : ((s.amclkPorts d).any fun p => (s.portSt p).switchTo.isSome) = false := by
    rw [List.any_eq_false]
    intro p hp
    obtain ⟨hmem, hext⟩ := List.mem_filter.mp hp
    rw [(hall p hmem hext).2]
    exact Bool.false_ne_true
  obtain ⟨w, hw⟩ : ∃ w, w = s.setAmclk d fun a => { a with freq := freq, outRun := 0 } := ⟨_, rfl⟩
  obtain ⟨u, hu⟩ : ∃ u, u = raise .amclkRateChange d [.w d, .w freq, .w ((s.newNominal d freq).getD 3)] w := ⟨_, rfl⟩
  have hset : Only [.ports] s w := hw ▸ State.setAmclk_only _ _ _
  have honly : Only [.ports, .link, .integ, .sec] s u := hu ▸ (hset.mono rfl).trans ((raise_only _ _ _ _).mono rfl)
  have hports : u.ports = w.ports := hu ▸ raise_ports _ _ _ _
  have hsame : ∀ p, u.portSt p = s.portSt p := fun p => by rw [portSt_of_ports hports, hw, setAmclk_portSt]
  have hrun : exec (.amclkBlockRate d freq) s = .next (if (!nearNominal freq nom && !false && decide (1 ≤ (s.ports.amclks.get d).outRun)) = true
      then (s.portsOf d).foldl (amclkPort (rateChangePort (s.newNominal d freq))) u
      else s.setAmclk d fun a => { a with freq := freq, outRun := if (!nearNominal freq nom && !false) = true then a.outRun + 1 else 0 }) := by
    rw [← portsOf_eq honly rfl, hu, hw, ← hnom, ← hswitch]
    exact onlyIf_of_true (by rw [decide_eq_true hd, hsup, hq]; rfl)
  have halone := rateChangePort_alone (s.newNominal d freq)
  have hnodup := portsOf_nodup s d hd
  by_cases hchange : nearNominal freq nom = false ∧ 1 ≤ (s.ports.amclks.get d).outRun
  · obtain ⟨hfar, hout⟩ := hchange
    rw [if_pos (by rw [hfar, decide_eq_true hout]; rfl)] at hrun
    have hclocks := (amclkPorts_clocks halone (s.portsOf d) u).trans (congrArg PortsSt.amclks hports)
    have hwclock : w.ports.amclks.get d = { s.ports.amclks.get d with freq := freq, outRun := 0 } := by rw [hw, setAmclk_self]
    have hraised : Raises s ((s.portsOf d).foldl (amclkPort (rateChangePort (s.newNominal d freq))) u) .amclkRateChange d [.w d, .w freq, .w ((s.newNominal d freq).getD 3)] := by
      refine Raises.andThen (amclkPorts_only halone _ _) rfl ?_
      rw [hu]
      exact Raises.raise hset rfl rfl _ _ _
    refine ⟨_, hrun, honly.trans (amclkPorts_only halone _ _), by rw [hclocks, hwclock], fun h => absurd (hfar.symm.trans h) Bool.false_ne_true,
      fun _ h => absurd hout (by rw [h]; exact Nat.not_succ_le_zero 0), fun _ _ => ⟨by rw [hclocks, hwclock], fun n hn hauto => ?_, fun hno => ?_⟩,
      fun p hp hint => by rw [amclkPorts_internal halone hnodup hp (by rw [hsame, hint]), hsame]⟩
    · rw [newNominal_some hn hauto] at hraised halone ⊢
      refine ⟨hraised, fun p hp hext hclocked => ?_⟩
      obtain ⟨v, hv, hsamev, -, hkept⟩ := amclkPorts_external halone hnodup (u := u) hp (by rw [hsame, hext])
      obtain ⟨hphase, hto⟩ := rateChangePort_switches (n := n) (p := p) (v := v) (by rw [hsamev, hsame, hclocked])
      rw [hkept, hphase, hto, hsamev, hsame, (honly.trans hv).now rfl]
      exact ⟨rfl, rfl⟩
    · rw [newNominal_none hno] at hraised halone ⊢
      refine ⟨hraised, fun p hp hext hclocked => ?_⟩
      obtain ⟨v, hv, hsamev, hrest, hkept⟩ := amclkPorts_external halone hnodup (u := u) hp (by rw [hsame, hext])
      have hstop := rateChangePort_stops (p := p) (v := v) (by rw [hsamev, hsame, hclocked])
      rw [hstop] at hrest hkept
      rw [hkept, ← (honly.trans hv).now rfl]
      exact ⟨(stopPort_self _ _ _ _ _).1, Raises.andThen hrest rfl (Raises.after (honly.trans hv) rfl rfl (stopPort_raises _ _ _ _ _))⟩
  · have hkeep : (!nearNominal freq nom && !false && decide (1 ≤ (s.ports.amclks.get d).outRun)) = false := by
      cases hnear : nearNominal freq nom with
      | true => rfl
      | false => exact decide_eq_false fun hout => hchange ⟨hnear, hout⟩
    rw [if_neg (by rw [hkeep]; exact Bool.false_ne_true)] at hrun
    refine ⟨_, hrun, (State.setAmclk_only _ _ _).mono rfl, ?_⟩
    rw [setAmclk_self]
    refine ⟨rfl, fun hnear => ⟨?_, rfl, rfl⟩, fun hfar hout => ⟨?_, rfl, rfl⟩, fun hfar hout => absurd ⟨hfar, hout⟩ hchange, fun _ _ _ => rfl⟩
    · rw [hnear]
      rfl
    · rw [hfar, hout]
      rfl

/-- Settles O37: each clause by the rule of a clock that stops, returns, changes its rate or glitches above. -/
theorem audioClocks : Obligations.AudioClocks :=
  ⟨fun _ _ => amclkStop_freezes, fun _ _ _ => amclkQualified_returns, fun _ _ _ _ => amclkBlockRate_changes, fun _ _ _ => amclkGlitches_counts⟩

end Sys2Proof.Machine
end

section
/-!
PROOFS. The PCI Express function: resets, link state, MSI-X, the moderation timer, a host link fault (10 R276, R279, R280, R297, 01 R34).
-/
namespace Sys2Proof.Machine

/-! ### Resets and link state -/

theorem pcieReset_resets {s : State} (hm : s.mode.mode ≠ .off) :
    ∃ t, exec .pcieReset s = .next t ∧ Only [.link, .cfg, .mon, .mode, .shadow] s t ∧ t.mode.mode = s.mode.mode ∧ t.cfg.active = s.cfg.active
      ∧ t.link.events = s.link.events ∧ t.link.sent = s.link.sent ∧ t.link.pcie.msixEnabled = false
      ∧ (s.cfg.commit = none → t.cfg.shadow = s.cfg.committed) ∧ (∀ c, s.cfg.commit = some c → t.cfg.shadow = c.set)
      ∧ ∀ r, r < 96 → (t.link.rings.get r).enable = false ∧ (t.link.rings.get r).err = false ∧ (t.link.rings.get r).waiting = [] ∧ (t.link.rings.get r).held = []
          ∧ (t.link.rings.get r).fetched = [] ∧ (t.link.rings.get r).executing = none
          ∧ (t.link.rings.get r).sequence = (s.link.rings.get r).sequence ∧ (t.link.rings.get r).dropped = (s.link.rings.get r).dropped + (s.link.rings.get r).waiting.length := by
  obtain ⟨hmode, hactive, hevents, hsent, hpcie, hnone, hsome, hrings⟩ := resetFunction_facts s
  refine ⟨resetFunction s, onlyIf_of_true (bne_off_of_ne hm), resetFunction_only s, hmode, hactive, hevents, hsent, by rw [hpcie], hnone, hsome, fun r hr => ?_⟩
  rw [hrings r hr]
  exact ⟨rfl, rfl, rfl, rfl, rfl, rfl, rfl, rfl⟩

/-- The link's state and speed as they now are. -/
def linkTrained (up : Bool) (width rate : Nat) (s : State) : State :=
  { s with link := { s.link with pcie := { s.link.pcie with
      linkUp := up, linkWidth := if up then width else 0, linkRate := if up then rate else 0 } } }

theorem linkTrained_only (up : Bool) (width rate : Nat) (s : State) : Only [.link] s (linkTrained up width rate s) := Only.ofMk rfl (Only.refl _ s)

theorem linkState_up {s : State} {width rate : Nat} (hm : s.mode.mode ≠ .off) :
    ∃ t, exec (.linkState true width rate) s = .next t ∧ Only [.link, .integ, .sec] s t ∧ t.link.pcie.linkUp = true ∧ t.link.pcie.linkWidth = width
      ∧ t.link.pcie.linkRate = rate ∧ t.link.rings = s.link.rings ∧ Raises s t .linkState pkg [.w (0 : Nat), .w width, .w rate] := by
  refine ⟨raise .linkState pkg [.w (0 : Nat), .w width, .w rate] (linkTrained true width rate s), onlyIf_of_true (bne_off_of_ne hm),
    (linkTrained_only _ _ _ _).linkThen (raise_only _ _ _ _), ?_⟩
  rw [(raise_pcie _ _ _ _).1, (raise_pcie _ _ _ _).2]
  exact ⟨rfl, rfl, rfl, rfl, Raises.raise (linkTrained_only true width rate s) rfl rfl _ _ _⟩

theorem linkState_down {s : State} {width rate : Nat} (hm : s.mode.mode ≠ .off) :
    ∃ t, exec (.linkState false width rate) s = .next t ∧ Only [.link, .cfg, .mon, .integ, .mode, .sec, .shadow] s t ∧ t.link.pcie.linkUp = false
      ∧ t.link.pcie.msixEnabled = false ∧ t.mode.mode = s.mode.mode ∧ t.cfg.active = s.cfg.active ∧ Raises s t .linkState pkg [.w (1 : Nat), .w (0 : Nat), .w (0 : Nat)]
      ∧ ∀ r, r < 96 → (t.link.rings.get r).enable = false ∧ (t.link.rings.get r).sequence = (s.link.rings.get r).sequence := by
  obtain ⟨u, hu⟩ : ∃ u, u = raise .linkState pkg [.w (1 : Nat), .w (0 : Nat), .w (0 : Nat)] (linkTrained false width rate s) := ⟨_, rfl⟩
  have hrun : exec (.linkState false width rate) s = .next (resetFunction u) := hu ▸ onlyIf_of_true (bne_off_of_ne hm)
  have honly : Only [.link, .integ, .sec] s u := hu ▸ (linkTrained_only _ _ _ _).linkThen (raise_only _ _ _ _)
  have hpcie : u.link.pcie = (linkTrained false width rate s).link.pcie ∧ u.link.rings = s.link.rings := hu ▸ raise_pcie _ _ _ _
  obtain ⟨hmode, hactive, -, -, hreset, -, -, hrings⟩ := resetFunction_facts u
  refine ⟨_, hrun, (honly.mono rfl).trans ((resetFunction_only u).mono rfl), by rw [hreset, hpcie.1]; rfl, by rw [hreset], by rw [hmode, honly .mode rfl],
    by rw [hactive, honly .cfg rfl], Raises.andThen (resetFunction_only u) rfl ?_, fun r hr => ?_⟩
  · rw [hu]
    exact Raises.raise (linkTrained_only false width rate s) rfl rfl _ _ _
  · rw [hrings r hr, hpcie.2]
    exact ⟨rfl, rfl⟩

theorem receivedWriteEcrcFail_reports {s : State} {bar offset : Nat} (hm : s.mode.mode ≠ .off) (hup : s.link.pcie.linkUp = true)
    (hcheck : s.link.pcie.ecrcCheck = true) :
    ∃ t, exec (.receivedWriteEcrcFail bar offset) s = .next t ∧ Only [.link] s t ∧ t.link = { s.link with sent := s.link.sent ++ [.aer bar offset] } :=
  ⟨send (.aer bar offset) s, onlyIf_of_true (by rw [bne_off_of_ne hm, hup, hcheck]; rfl), send_only _ s, rfl⟩

/-! ### Signals -/

theorem msixUnmask_sends {s : State} {v : Nat} (hb : s.barUp = true) (hv : v < 64) (hmasked : maskBit s.link.pcie.masked v = true) :
    ∃ t, exec (.msixUnmask v) s = .next t ∧ Only [.link, .mode] s t ∧ t.mode = { s.mode with lastAccess := s.now } ∧ t.link.rings = s.link.rings
      ∧ (∀ i, maskBit t.link.pcie.masked i = (maskBit s.link.pcie.masked i && i != v))
      ∧ (∀ i, maskBit t.link.pcie.pbaPending i = (maskBit s.link.pcie.pbaPending i && i != v))
      ∧ (maskBit s.link.pcie.pbaPending v = true → s.link.pcie.msixEnabled = true → t.link.sent = s.link.sent ++ [.msix v])
      ∧ (maskBit s.link.pcie.pbaPending v = false → t.link.sent = s.link.sent) := by
  obtain ⟨w, hw⟩ : ∃ w, w = { hostAccess s with link := { s.link with pcie := { s.link.pcie with
      masked := clearBit s.link.pcie.masked v, pbaPending := clearBit s.link.pcie.pbaPending v } } } := ⟨_, rfl⟩
  have hrun : exec (.msixUnmask v) s = .next (if (maskBit s.link.pcie.pbaPending v && s.link.pcie.msixEnabled) = true then send (.msix v) w else w) := by
    rw [hw]
    exact onlyIf_of_true (by rw [hb, decide_eq_true hv, hmasked]; rfl)
  have honly : Only [.link, .mode] s w := by
    rw [hw]
    exact Only.ofMk rfl (Only.ofMk rfl (Only.refl _ s))
  have hlink : w.link = { s.link with pcie := { s.link.pcie with masked := clearBit s.link.pcie.masked v, pbaPending := clearBit s.link.pcie.pbaPending v } } := by rw [hw]
  have hkept : ∀ c : Bool, (if c = true then send (.msix v) w else w).mode = w.mode ∧ (if c = true then send (.msix v) w else w).link.rings = w.link.rings
      ∧ (if c = true then send (.msix v) w else w).link.pcie = w.link.pcie := fun c => by cases c <;> exact ⟨rfl, rfl, rfl⟩
  obtain ⟨hmode, hrings, hpcie⟩ := hkept (maskBit s.link.pcie.pbaPending v && s.link.pcie.msixEnabled)
  refine ⟨_, hrun, honly.trans (Only.ite ((send_only _ _).mono rfl) (Only.refl _ _)), by rw [hmode, hw]; rfl, by rw [hrings, hlink], fun i => ?_, fun i => ?_,
    fun hpend hon => ?_, fun hno => ?_⟩
  · rw [hpcie, hlink]
    exact maskBit_clearBit _ _ _
  · rw [hpcie, hlink]
    exact maskBit_clearBit _ _ _
  · rw [if_pos (by rw [hpend, hon]; rfl)]
    change w.link.sent ++ [.msix v] = _
    rw [hlink]
  · rw [if_neg (by rw [hno]; exact Bool.false_ne_true), hlink]

theorem interruptModTimer_signals {s : State} {r : Nat} (hb : s.barUp = true) (hlo : 16 ≤ r) (hhi : r < 96) (hunsignalled : 0 < (s.link.rings.get r).unsignalled)
    (hmod : 0 < (s.link.rings.get r).modTime) (hnow : (s.link.rings.get r).firstUnsignalled + (s.link.rings.get r).modTime * 100 ≤ s.now) :
    ∃ t, exec (.interruptModTimer r) s = .next t ∧ Only [.link] s t ∧ t.link.rings.get r = { s.link.rings.get r with unsignalled := 0, firstUnsignalled := 0 }
      ∧ (∀ i, i ≠ r → t.link.rings.get i = s.link.rings.get i)
      ∧ (s.link.pcie.msixEnabled = true → maskBit s.link.pcie.masked (s.link.rings.get r).vector = false → t.link.sent = s.link.sent ++ [.msix (s.link.rings.get r).vector])
      ∧ (s.link.pcie.msixEnabled = true → maskBit s.link.pcie.masked (s.link.rings.get r).vector = true →
          maskBit t.link.pcie.pbaPending (s.link.rings.get r).vector = true ∧ t.link.sent = s.link.sent) := by
  obtain ⟨w, hw⟩ : ∃ w, w = s.setRing r fun g => { g with unsignalled := 0, firstUnsignalled := 0 } := ⟨_, rfl⟩
  have hrun : exec (.interruptModTimer r) s = .next (signalVector (s.link.rings.get r).vector w) := by
    rw [hw]
    exact onlyIf_of_true (by rw [hb, decide_eq_true hlo, decide_eq_true hhi, decide_eq_true hunsignalled, decide_eq_true hmod, decide_eq_true hnow]; rfl)
  have hpcie : w.link.pcie = s.link.pcie := by rw [hw]; rfl
  have hsent : w.link.sent = s.link.sent := by rw [hw]; rfl
  refine ⟨_, hrun, (hw ▸ State.setRing_only s r _ : Only [.link] s w).trans (signalVector_only _ _), by rw [signalVector_rings, hw, setRing_self],
    fun i hi => by rw [signalVector_rings, hw, setRing_ne _ _ _ hi], fun hon hopen => ?_, fun hon hmask => ?_⟩
  · unfold signalVector
    rw [hpcie, if_pos hon, if_neg (by rw [hopen]; exact Bool.false_ne_true)]
    change w.link.sent ++ _ = _
    rw [hsent]
  · unfold signalVector
    rw [hpcie, if_pos hon, if_pos hmask]
    exact ⟨maskBit_or_self _ _, hsent⟩

theorem hostLinkFault_halts {s : State} (hm : s.mode.mode ≠ .off) (hh : s.mode.mode ≠ .halted) :
    ∃ t, exec .hostLinkFault s = .next t ∧ Only [.spans, .front, .taps, .lanes, .ofdm, .audio, .ports, .link, .cfg, .integ, .mode, .domains, .mb, .sec, .nv, .modeCode] s t
      ∧ t.mode.mode = .halted ∧ t.integ.haltCause = 2 :=
  ⟨enterHalted 2 s, onlyIf_of_true (by rw [bne_off_of_ne hm, bne_iff_ne.mpr hh]; rfl), enterHalted_only _ _, enterHalted_mode _ _, enterHalted_cause _ _ hh⟩

/-- Settles O38: each clause by the rule of its reset, its link state or its signal above. -/
theorem hostLink : Obligations.HostLink :=
  ⟨fun _ => pcieReset_resets, fun _ _ _ => linkState_up, fun _ _ _ => linkState_down, fun _ _ _ => receivedWriteEcrcFail_reports, fun _ _ => msixUnmask_sends,
    fun _ _ => interruptModTimer_signals, fun _ => hostLinkFault_halts⟩

end Sys2Proof.Machine
end

section
/-!
PROOFS. Ring registers, doorbells, fetches, completions (10 R279, R283 to R289, R292).
-/
namespace Sys2Proof.Machine

/-! ### Ring registers -/

section
variable {s : State} {r v : Nat}

/-- A write to a ring's registers that is allowed sets the ring to what `f` makes of it. -/
def ringWritten (r : Nat) (f : Ring → Ring) (s : State) : State := (hostAccess s).setRing r f

theorem ringWritten_self (f : Ring → Ring) : (ringWritten r f s).link.rings.get r = f (s.link.rings.get r) := setRing_self _ _ _

theorem ringWritten_ne (f : Ring → Ring) {i : Nat} (h : i ≠ r) : (ringWritten r f s).link.rings.get i = s.link.rings.get i := setRing_ne _ _ _ h

theorem ringWritten_only (f : Ring → Ring) : Only [.link, .mode] s (ringWritten r f s) :=
  ((hostAccess_only s).mono rfl).trans ((State.setRing_only _ _ _).mono rfl)

theorem isDeliveryRing_of (h : 32 ≤ r) (h' : r < 96) : isDeliveryRing r = true := by
  rw [isDeliveryRing, decide_eq_true h, decide_eq_true h']
  rfl

theorem ringConfigWrite_runs {offset : Nat} (hb : s.barUp = true) (hr : r < 96) :
    ∃ t, exec (.ringConfigWrite r offset v) s = .next t ∧ ∀ i, i ≠ r → t.link.rings.get i = s.link.rings.get i := by
  change ∃ t, execRingConfigWrite r offset v s = _ ∧ _
  unfold execRingConfigWrite
  dsimp only
  rw [onlyIf_of_true (by rw [hb, decide_eq_true hr]; rfl)]
  refine ⟨_, rfl, fun i hi => ?_⟩
  split
  · exact ringWritten_ne _ hi
  · exact ringWritten_ne _ hi
  · exact ringWritten_ne _ hi
  · split
    · exact ringWritten_ne _ hi
    · rfl
  · exact ringWritten_ne _ hi
  · rfl

end

theorem ringConfigWrite_takes {s : State} {r offset v : Nat} (hb : s.barUp = true) (hr : r < 96) :
    ∃ t, exec (.ringConfigWrite r offset v) s = .next t ∧ Only [.link, .mode] s t ∧ (∀ i, i ≠ r → t.link.rings.get i = s.link.rings.get i)
      ∧ (offset = 0 → (s.link.rings.get r).enable = false → t.link.rings.get r = { s.link.rings.get r with baseLo := BitVec.ofNat 32 v })
      ∧ (offset = 4 → (s.link.rings.get r).enable = false → t.link.rings.get r = { s.link.rings.get r with baseHi := BitVec.ofNat 32 v })
      ∧ ((offset = 0 ∨ offset = 4) → (s.link.rings.get r).enable = true → t.link.rings.get r = s.link.rings.get r)
      ∧ (offset = 8 → maskBit v 5 = true → (s.link.rings.get r).enable = true → t.link.rings.get r = { s.link.rings.get r with vector := v / 64 % 64 })
      ∧ (offset = 8 → maskBit v 5 = false → (s.link.rings.get r).enable = false →
          t.link.rings.get r = { s.link.rings.get r with sizeLog2 := v % 32, vector := v / 64 % 64, cq := v / 4096 % 16, bufLog2 := v / 65536 % 32 })
      ∧ (offset = 12 → 32 ≤ r → v % 128 ≤ 100 → t.link.rings.get r = { s.link.rings.get r with holdLimit := v % 128 })
      ∧ (offset = 12 → (r < 32 ∨ 100 < v % 128) → t.link.rings.get r = s.link.rings.get r)
      ∧ (offset = 16 → t.link.rings.get r = { s.link.rings.get r with modCount := v % 65536, modTime := v / 65536 % 65536 }) := by
  obtain ⟨t, hrun, hother⟩ := ringConfigWrite_runs (v := v) (offset := offset) hb hr
  have hgo : (s.barUp && decide (r < 96)) = true := by rw [hb, decide_eq_true hr]; rfl
  have hlo : exec (.ringConfigWrite r 0 v) s = .next (ringWritten r (fun g => if g.enable then g else { g with baseLo := BitVec.ofNat 32 v }) s) := onlyIf_of_true hgo
  have hhi : exec (.ringConfigWrite r 4 v) s = .next (ringWritten r (fun g => if g.enable then g else { g with baseHi := BitVec.ofNat 32 v }) s) := onlyIf_of_true hgo
  have hctrl : exec (.ringConfigWrite r 8 v) s = .next (ringWritten r (fun g => if maskBit v 5 == g.enable then g.takeCtrl v else g) s) := onlyIf_of_true hgo
  have hlimit : exec (.ringConfigWrite r 12 v) s = .next (if (isDeliveryRing r && decide (v % 128 ≤ 100)) = true
      then ringWritten r (fun g => { g with holdLimit := v % 128 }) s else hostAccess s) := onlyIf_of_true hgo
  have hmod : exec (.ringConfigWrite r 16 v) s = .next (ringWritten r (fun g => { g with modCount := v % 65536, modTime := v / 65536 % 65536 }) s) := onlyIf_of_true hgo
  refine ⟨t, hrun, (execRingConfigWrite_frames r offset v s).onlyOf hrun, hother, ?_, ?_, ?_, ?_, ?_, ?_, ?_, ?_⟩
  · rintro rfl hoff
    rw [hlo] at hrun
    cases hrun
    rw [ringWritten_self, if_neg (by rw [hoff]; exact Bool.false_ne_true)]
  · rintro rfl hoff
    rw [hhi] at hrun
    cases hrun
    rw [ringWritten_self, if_neg (by rw [hoff]; exact Bool.false_ne_true)]
  · rintro (rfl | rfl) hon
    · rw [hlo] at hrun
      cases hrun
      rw [ringWritten_self, if_pos hon]
    · rw [hhi] at hrun
      cases hrun
      rw [ringWritten_self, if_pos hon]
  · rintro rfl hbit hon
    rw [hctrl] at hrun
    cases hrun
    rw [ringWritten_self, if_pos (by rw [hbit, hon]; rfl)]
    exact if_pos hon
  · rintro rfl hbit hoff
    rw [hctrl] at hrun
    cases hrun
    rw [ringWritten_self, if_pos (by rw [hbit, hoff]; rfl), Ring.takeCtrl_disabled _ _ hoff]
  · rintro rfl hdelivery hv
    rw [hlimit, if_pos (by rw [isDeliveryRing_of hdelivery hr, decide_eq_true hv]; rfl)] at hrun
    cases hrun
    exact ringWritten_self _
  · rintro rfl hno
    have hskip : ¬ (isDeliveryRing r && decide (v % 128 ≤ 100)) = true := by
      simp only [isDeliveryRing, Bool.and_eq_true, decide_eq_true_eq]
      omega
    rw [hlimit, if_neg hskip] at hrun
    cases hrun
    rfl
  · rintro rfl
    rw [hmod] at hrun
    cases hrun
    exact ringWritten_self _

/-- The ring as ENABLE leaves it, with the error that keeps it disabled, if there is one (R283). -/
def Ring.enabled (g : Ring) (e : RingErr) : Ring :=
  if e = .none then { g with enable := true, errCode := .none, devIndex := 0, doorbell := 0, phase := true, unsignalled := 0, firstUnsignalled := 0, retried := false }
  else { g with errCode := e }

theorem Ring.enabled_kept (g : Ring) (e : RingErr) : (g.enabled e).sequence = g.sequence ∧ (g.enabled e).dropped = g.dropped := by
  unfold Ring.enabled
  split <;> exact ⟨rfl, rfl⟩

theorem Ring.enabled_refused {g : Ring} {e : RingErr} (h : e ≠ .none) (hoff : g.enable = false) : (g.enabled e).enable = false ∧ (g.enabled e).errCode = e := by
  unfold Ring.enabled
  rw [if_neg h]
  exact ⟨hoff, rfl⟩

theorem ringEnable_starts {s : State} {r v : Nat} (hb : s.barUp = true) (hm : s.mode.mode ≠ .boot) (hr : r < 96) (hoff : (s.link.rings.get r).enable = false)
    (hbit : maskBit v 5 = true) :
    ∃ t, exec (.ringEnable r v) s = .next t ∧ Only [.link, .mode] s t ∧ (∀ i, i ≠ r → t.link.rings.get i = s.link.rings.get i)
      ∧ (t.link.rings.get r).sequence = (s.link.rings.get r).sequence ∧ (t.link.rings.get r).dropped = (s.link.rings.get r).dropped
      ∧ ((v % 32 < 6 ∨ 16 < v % 32) → (t.link.rings.get r).enable = false ∧ (t.link.rings.get r).errCode = .size)
      ∧ (6 ≤ v % 32 → v % 32 ≤ 16 → 32 ≤ r → (v / 65536 % 32 < 12 ∨ 22 < v / 65536 % 32 ∨ 2 ^ (v / 65536 % 32) < (s.cfg.active.routes.get r).largestBlock) →
          (t.link.rings.get r).enable = false ∧ (t.link.rings.get r).errCode = .bufSize)
      ∧ (6 ≤ v % 32 → v % 32 ≤ 16 → (32 ≤ r → 12 ≤ v / 65536 % 32 ∧ v / 65536 % 32 ≤ 22 ∧ (s.cfg.active.routes.get r).largestBlock ≤ 2 ^ (v / 65536 % 32)) →
          (t.link.rings.get r).enable = true ∧ (t.link.rings.get r).devIndex = 0 ∧ (t.link.rings.get r).phase = true ∧ (t.link.rings.get r).errCode = .none
          ∧ (t.link.rings.get r).sizeLog2 = v % 32 ∧ (t.link.rings.get r).cq = v / 4096 % 16) := by
  obtain ⟨g, hg⟩ : ∃ g, g = (s.link.rings.get r).takeCtrl v := ⟨_, rfl⟩
  have hgctrl := hg.trans (Ring.takeCtrl_disabled _ _ hoff)
  have hrun : exec (.ringEnable r v) s = .next (ringWritten r (fun _ => g.enabled (s.enableError r g)) s) := by
    have hring : (fun _ : Ring => if s.mode.mode = .boot then s.link.rings.get r else g.enabled (s.enableError r g)) = fun _ => g.enabled (s.enableError r g) :=
      funext fun _ => if_neg hm
    rw [← hring, hg]
    exact onlyIf_of_true (by rw [hb, decide_eq_true hr, hoff, hbit]; rfl)
  obtain ⟨hsize, hbuf, hnone⟩ := enableError_first s r g hr
  have hgsize : g.sizeLog2 = v % 32 := by rw [hgctrl]
  have hgbuf : g.bufLog2 = v / 65536 % 32 := by rw [hgctrl]
  have hgoff : g.enable = false := by rw [hgctrl]; exact hoff
  rw [hgsize] at hsize hbuf hnone
  rw [hgbuf] at hbuf hnone
  refine ⟨_, hrun, ringWritten_only _, fun i hi => ringWritten_ne _ hi, ?_⟩
  rw [ringWritten_self]
  refine ⟨by rw [(Ring.enabled_kept _ _).1, hgctrl], by rw [(Ring.enabled_kept _ _).2, hgctrl], fun h => ?_, fun h1 h2 h3 h4 => ?_, fun h1 h2 h3 => ?_⟩
  · rw [hsize h]
    exact Ring.enabled_refused (by decide) hgoff
  · rw [hbuf h1 h2 h3 h4]
    exact Ring.enabled_refused (by decide) hgoff
  · rw [hnone h1 h2 h3]
    exact ⟨rfl, rfl, rfl, rfl, hgsize, by rw [hgctrl]; rfl⟩

/-! ### A ring is disabled -/

/-- A ring with ENABLE cleared and its error state with it (R284). -/
def Ring.off (g : Ring) : Ring := { g with enable := false, inFlight := true, err := false, fenced := false, errCode := .none }

theorem discards_kept {α : Type} (r : Nat) (l : List α) (s : State) : ((l.foldl (fun acc _ => discardBlock r acc) s).link.rings.get r).vector = (s.link.rings.get r).vector
    ∧ ((l.foldl (fun acc _ => discardBlock r acc) s).link.rings.get r).inFlight = (s.link.rings.get r).inFlight := by
  refine foldl_keep (fun v => (v.link.rings.get r).vector = (s.link.rings.get r).vector ∧ (v.link.rings.get r).inFlight = (s.link.rings.get r).inFlight) _ _ (fun v _ hv => ?_) _ ⟨rfl, rfl⟩
  rw [discardBlock_self]
  exact hv

theorem cqInUse_iff {s : State} {r : Nat} : s.cqInUse r = true ↔ ∃ c, c < 16 ∧ (s.link.rings.get c).enable = true ∧ 16 + (s.link.rings.get c).cq = r := by
  simp [State.cqInUse]

theorem ringDisable_disables {s : State} {r v : Nat} (hb : s.barUp = true) (hr : r < 96) (hon : (s.link.rings.get r).enable = true) (hbit : maskBit v 5 = false) :
    ∃ t, exec (.ringDisable r v) s = .next t ∧ Only [.link, .mode] s t ∧ (∀ i, i ≠ r → t.link.rings.get i = s.link.rings.get i)
      ∧ (16 ≤ r → r < 32 → (∃ c, c < 16 ∧ (s.link.rings.get c).enable = true ∧ 16 + (s.link.rings.get c).cq = r) →
          t.link.rings.get r = { s.link.rings.get r with errCode := .cqInUse })
      ∧ ((r < 16 ∨ 32 ≤ r ∨ ∀ c, c < 16 → (s.link.rings.get c).enable = true → 16 + (s.link.rings.get c).cq ≠ r) →
          (t.link.rings.get r).enable = false ∧ (t.link.rings.get r).err = false ∧ (t.link.rings.get r).fenced = false ∧ (t.link.rings.get r).errCode = .none
          ∧ (t.link.rings.get r).inFlight = true ∧ (t.link.rings.get r).vector = v / 64 % 64 ∧ (t.link.rings.get r).sequence = (s.link.rings.get r).sequence)
      ∧ (32 ≤ r → (t.link.rings.get r).waiting = [] ∧ (t.link.rings.get r).dropped = (s.link.rings.get r).dropped + (s.link.rings.get r).waiting.length) := by
  obtain ⟨g, hg⟩ : ∃ g, g = { (s.link.rings.get r).off with vector := v / 64 % 64 } := ⟨_, rfl⟩
  have hrun : exec (.ringDisable r v) s = .next (if (isCplRing r && s.cqInUse r) = true then ringWritten r (fun g => { g with errCode := .cqInUse }) s
      else if isDeliveryRing r = true then (s.link.rings.get r).waiting.foldl (fun acc _ => discardBlock r acc)
        (State.setRing (ringWritten r (fun g => { g with vector := v / 64 % 64 }) s) r fun g => { g.off with waiting := [] })
      else State.setRing (ringWritten r (fun g => { g with vector := v / 64 % 64 }) s) r Ring.off) :=
    onlyIf_of_true (by rw [hb, decide_eq_true hr, hon, hbit]; rfl)
  have hself : ∀ f : Ring → Ring, (State.setRing (ringWritten r (fun g => { g with vector := v / 64 % 64 }) s) r f).link.rings.get r = f { s.link.rings.get r with vector := v / 64 % 64 } :=
    fun f => by rw [setRing_self, ringWritten_self]
  have hne : ∀ (f : Ring → Ring) i, i ≠ r → (State.setRing (ringWritten r (fun g => { g with vector := v / 64 % 64 }) s) r f).link.rings.get i = s.link.rings.get i :=
    fun f i hi => by rw [setRing_ne _ _ _ hi, ringWritten_ne _ hi]
  by_cases huse : (isCplRing r && s.cqInUse r) = true
  · rw [if_pos huse] at hrun
    obtain ⟨hcpl, hin⟩ := Bool.and_eq_true_iff.mp huse
    obtain ⟨c, hc, hcon, hcq⟩ := cqInUse_iff.mp hin
    have hkind : 16 ≤ r ∧ r < 32 := by simpa [isCplRing] using hcpl
    refine ⟨_, hrun, ringWritten_only _, fun i hi => ringWritten_ne _ hi, fun _ _ _ => ringWritten_self _, fun h => ?_, fun h => absurd h (Nat.not_le.mpr hkind.2)⟩
    rcases h with h | h | h
    · exact absurd hkind.1 (Nat.not_le.mpr h)
    · exact absurd h (Nat.not_le.mpr hkind.2)
    · exact absurd hcq (h c hc hcon)
  · rw [if_neg huse] at hrun
    have hcpl : 16 ≤ r → r < 32 → ¬ ∃ c, c < 16 ∧ (s.link.rings.get c).enable = true ∧ 16 + (s.link.rings.get c).cq = r := fun hlo hhi hex => huse (by
      rw [isCplRing, decide_eq_true hlo, decide_eq_true hhi, cqInUse_iff.mpr hex]
      rfl)
    have honly := (execRingDisable_frames r v s).onlyOf hrun
    by_cases hdelivery : isDeliveryRing r = true
    · rw [if_pos hdelivery] at hrun honly
      obtain ⟨hdropped, hwaiting, henable, herr, hfenced, hcode, hseq, hother⟩ := discardBlock_fold r (s.link.rings.get r).waiting
        (State.setRing (ringWritten r (fun g => { g with vector := v / 64 % 64 }) s) r fun g => { g.off with waiting := [] })
      obtain ⟨hvector, hflight⟩ := discards_kept r (s.link.rings.get r).waiting
        (State.setRing (ringWritten r (fun g => { g with vector := v / 64 % 64 }) s) r fun g => { g.off with waiting := [] })
      rw [hself] at hdropped hwaiting henable herr hfenced hcode hseq hvector hflight
      exact ⟨_, hrun, honly, fun i hi => (hother i hi).trans (hne _ i hi), fun hlo hhi hex => absurd hex (hcpl hlo hhi),
        fun _ => ⟨henable, herr, hfenced, hcode, hflight, hvector, hseq⟩, fun _ => ⟨hwaiting, hdropped⟩⟩
    · rw [if_neg hdelivery] at hrun honly
      refine ⟨_, hrun, honly, hne _, fun hlo hhi hex => absurd hex (hcpl hlo hhi), fun _ => ?_, fun h => absurd (isDeliveryRing_of h hr) hdelivery⟩
      rw [hself]
      exact ⟨rfl, rfl, rfl, rfl, rfl, rfl, rfl⟩

theorem ringWritesDrained_clears {s : State} {r : Nat} (hr : r < 96) (hoff : (s.link.rings.get r).enable = false) (hflight : (s.link.rings.get r).inFlight = true)
    (hfetched : (s.link.rings.get r).fetched = []) (hexec : (s.link.rings.get r).executing = none) (hdue : (s.link.rings.get r).cplDue = false) :
    ∃ t, exec (.ringWritesDrained r) s = .next t ∧ Only [.link] s t ∧ t.link.rings.get r = { s.link.rings.get r with inFlight := false }
      ∧ ∀ i, i ≠ r → t.link.rings.get i = s.link.rings.get i :=
  ⟨_, onlyIf_of_true (by rw [decide_eq_true hr, hoff, hflight, hfetched, hexec, hdue]; rfl), State.setRing_only _ _ _, setRing_self _ _ _, fun _ hi => setRing_ne _ _ _ hi⟩

/-! ### Doorbells -/

theorem doorbellWrite_applies {s : State} {r index : Nat} (hb : s.barUp = true) (hr : r < 96) (hon : (s.link.rings.get r).enable = true)
    (herr : (s.link.rings.get r).err = false) :
    ∃ t, exec (.doorbellWrite r index) s = .next t ∧ Only [.link, .integ, .mode, .sec] s t ∧ (∀ i, i ≠ r → t.link.rings.get i = s.link.rings.get i)
      ∧ (index % 65536 < 2 ^ (s.link.rings.get r).sizeLog2 → t.link.rings.get r = { s.link.rings.get r with doorbell := index % 65536 })
      ∧ (2 ^ (s.link.rings.get r).sizeLog2 ≤ index % 65536 → t.link.rings.get r = { s.link.rings.get r with err := true, errCode := .doorbell }
          ∧ Raises s t .ringError pkg [.w r, .w (1 : Nat), .w (s.link.rings.get r).devIndex]) := by
  obtain ⟨hother, hin, hbeyond⟩ := doorbell_facts r (index % 65536) false (hostAccess_rings s) (hostAccess_only s)
  refine ⟨_, onlyIf_of_true (by rw [hb, decide_eq_true hr, hon, herr]; rfl), ((hostAccess_only s).mono rfl).trans ((doorbell_only _ _ _ _).mono rfl), hother, fun h => ?_, hbeyond⟩
  rw [hin h, Bool.not_false, Bool.and_true]

theorem doorbellResume_applies {s : State} {r index : Nat} (hb : s.barUp = true) (hr : r < 96) (hon : (s.link.rings.get r).enable = true)
    (herr : (s.link.rings.get r).err = false) :
    ∃ t, exec (.doorbellResume r index) s = .next t ∧ Only [.link, .integ, .mode, .sec] s t ∧ (∀ i, i ≠ r → t.link.rings.get i = s.link.rings.get i)
      ∧ (index % 65536 < 2 ^ (s.link.rings.get r).sizeLog2 → t.link.rings.get r = { s.link.rings.get r with doorbell := index % 65536, fenced := false })
      ∧ (2 ^ (s.link.rings.get r).sizeLog2 ≤ index % 65536 → (t.link.rings.get r).err = true ∧ (t.link.rings.get r).errCode = .doorbell) := by
  obtain ⟨hother, hin, hbeyond⟩ := doorbell_facts r (index % 65536) true (hostAccess_rings s) (hostAccess_only s)
  refine ⟨_, onlyIf_of_true (by rw [hb, decide_eq_true hr, hon, herr]; rfl), ((hostAccess_only s).mono rfl).trans ((doorbell_only _ _ _ _).mono rfl), hother, fun h => ?_, fun h => ?_⟩
  · rw [hin h, Bool.not_true, Bool.and_false]
  · rw [(hbeyond h).1]
    exact ⟨rfl, rfl⟩

/-! ### Fetches and completions -/

theorem descriptorFetch_retries {s : State} {r : Nat} (hmay : s.mayFetch r = true) :
    ∃ t, exec (.descriptorFetch r none) s = .next t ∧ Only [.link, .integ, .mb, .sec] s t ∧ (t.link.rings.get r).devIndex = (s.link.rings.get r).devIndex
      ∧ ((s.link.rings.get r).retried = false → t.link.rings.get r = { s.link.rings.get r with retried := true })
      ∧ ((s.link.rings.get r).retried = true → (t.link.rings.get r).err = true ∧ (t.link.rings.get r).errCode = .dma
          ∧ Raises s t .ringError pkg [.w r, .w (4 : Nat), .w (s.link.rings.get r).devIndex]) := by
  have hrun : exec (.descriptorFetch r none) s = .next (if (s.link.rings.get r).retried = true then haltRing r .dma (s.setRing r fun g => { g with retried := false })
      else s.setRing r fun g => { g with retried := true }) := onlyIf_of_true hmay
  have honly := (execDescriptorFetch_frames r none s).onlyOf hrun
  cases hretried : (s.link.rings.get r).retried with
  | false =>
    rw [hretried, if_neg Bool.false_ne_true] at hrun honly
    refine ⟨_, hrun, honly, ?_⟩
    rw [setRing_self]
    exact ⟨rfl, fun _ => rfl, fun h => absurd h Bool.false_ne_true⟩
  | true =>
    rw [hretried, if_pos rfl] at hrun honly
    have hraises := haltRing_raises r .dma [.link] (State.setRing_only s r fun g => { g with retried := false }) rfl rfl rfl
    rw [setRing_self] at hraises
    refine ⟨_, hrun, honly, ?_⟩
    rw [(haltRing_facts _ _ _).1, setRing_self]
    exact ⟨rfl, fun h => absurd h.symm Bool.false_ne_true, fun _ => ⟨rfl, rfl, hraises⟩⟩

theorem descriptorFetch_takes {s : State} {r : Nat} {d : List Byte} (hmay : s.mayFetch r = true) (hexec : (s.link.rings.get r).executing.isSome = true) :
    ∃ t, exec (.descriptorFetch r (some d)) s = .next t ∧ Only [.link, .integ, .mb, .sec] s t ∧ (∀ i, i ≠ r → t.link.rings.get i = s.link.rings.get i)
      ∧ t.link.rings.get r = { s.link.rings.get r with
          devIndex := ((s.link.rings.get r).devIndex + 1) % 2 ^ (s.link.rings.get r).sizeLog2, written := (s.link.rings.get r).written + 1, retried := false
          fetched := (s.link.rings.get r).fetched ++ [⟨padTo 64 d, (s.link.rings.get r).devIndex, field (padTo 64 d) 60 0 32 == (crc32c ((padTo 64 d).take 60)).toNat⟩] }
      ∧ ((field (padTo 64 d) 60 0 32 == (crc32c ((padTo 64 d).take 60)).toNat) = false →
          (t.integ.dies.get 0).descCheckFails = (s.integ.dies.get 0).descCheckFails + 1) := by
  obtain ⟨good, hgood⟩ : ∃ b, b = (field (padTo 64 d) 60 0 32 == (crc32c ((padTo 64 d).take 60)).toNat) := ⟨_, rfl⟩
  obtain ⟨u, hu⟩ : ∃ u, u = if good = true then s else s.setDieInteg 0 fun x => { x with descCheckFails := x.descCheckFails + 1 } := ⟨_, rfl⟩
  obtain ⟨w, hw⟩ : ∃ w, w = u.setRing r fun g => { g with
      devIndex := (g.devIndex + 1) % 2 ^ g.sizeLog2, written := g.written + 1, retried := false
      fetched := g.fetched ++ [⟨padTo 64 d, g.devIndex, good⟩] } := ⟨_, rfl⟩
  have hlink : u.link = s.link := by
    rw [hu]
    split <;> rfl
  have hself : w.link.rings.get r = { s.link.rings.get r with
      devIndex := ((s.link.rings.get r).devIndex + 1) % 2 ^ (s.link.rings.get r).sizeLog2, written := (s.link.rings.get r).written + 1, retried := false
      fetched := (s.link.rings.get r).fetched ++ [⟨padTo 64 d, (s.link.rings.get r).devIndex, good⟩] } := by rw [hw, setRing_self, hlink]
  have hpump : pump r 16 w = w := pump_exec r 16 w (by rw [hself]; exact hexec)
  have hrun : exec (.descriptorFetch r (some d)) s = .next w := by
    change execDescriptorFetch r (some d) s = _
    unfold execDescriptorFetch
    dsimp only
    rw [onlyIf_of_true hmay, ← hgood, ← hu, ← hw, hpump]
  rw [← hgood]
  refine ⟨w, hrun, (execDescriptorFetch_frames r (some d) s).onlyOf hrun, fun i hi => by rw [hw, setRing_ne _ _ _ hi, hlink], hself, fun hbad => ?_⟩
  rw [hw, hu, if_neg (by rw [hbad]; exact Bool.false_ne_true)]
  exact congrArg DieInteg.descCheckFails (Tbl.get_modify_self s.integ.dies 0 fun x => { x with descCheckFails := x.descCheckFails + 1 })

theorem completionWrite_writes {s : State} {q : Nat} {c : Cpl} {rest : List Cpl} (hb : s.barUp = true) (hlo : 16 ≤ q) (hhi : q < 32)
    (hheld : (s.link.rings.get q).held = c :: rest) (hon : (s.link.rings.get q).enable = true) (herr : (s.link.rings.get q).err = false)
    (hfull : (s.link.rings.get q).cqFull = false) :
    ∃ t, exec (.completionWrite q) s = .next t ∧ Only [.link, .mb] s t
      ∧ s.link.sent ++ [.completion q (s.link.rings.get q).devIndex (s.link.rings.get q).phase c] <+: t.link.sent := by
  obtain ⟨w, hw⟩ : ∃ w, w = s.setRing q fun g => { g with held := rest } := ⟨_, rfl⟩
  have hself : w.link.rings.get q = { s.link.rings.get q with held := rest } := by rw [hw, setRing_self]
  have hsent : w.link.sent = s.link.sent := by rw [hw]; rfl
  have hrun : exec (.completionWrite q) s = .next (pump c.ring 16 (writeCpl q c w)) := by
    change execCompletionWrite q s = _
    unfold execCompletionWrite
    dsimp only
    rw [hheld, hw]
    exact onlyIf_of_true (by rw [hb, isCplRing, decide_eq_true hlo, decide_eq_true hhi, hon, herr, hfull]; rfl)
  have hwritten := writeCpl_sent q c w
  rw [hself, hsent] at hwritten
  exact ⟨_, hrun, (execCompletionWrite_frames q s).onlyOf hrun, hwritten.trans (pump_sent _ _ _)⟩

/-- Settles O39: each clause by the rule of its register, its doorbell, its fetch or its completion above. -/
theorem ringCommands : Obligations.RingCommands :=
  ⟨fun _ _ _ _ => ringConfigWrite_takes, fun _ _ _ => ringEnable_starts, fun _ _ _ => ringDisable_disables, fun _ _ => ringWritesDrained_clears,
    fun _ _ _ => doorbellWrite_applies, fun _ _ _ => doorbellResume_applies, fun _ _ => descriptorFetch_retries, fun _ _ _ => descriptorFetch_takes,
    fun _ _ _ _ => completionWrite_writes⟩

end Sys2Proof.Machine
end

section
/-!
PROOFS. Blocks, events and telemetry on rings (10 R291, R295, R296, R300, R306, 01 R34, 13 R373).
-/
namespace Sys2Proof.Machine

/-! ### A waiting block -/

/-- The block at the front of the wait, sent and its entry counted (R291). -/
def blockWritten (r : Nat) (b : Block) (rest : List Block) (s : State) : State :=
  countEntry r ((send (.block r (s.link.rings.get r).devIndex (decide (0 < (s.link.rings.get r).dropped)) (min (s.link.rings.get r).dropped 0xFFFFFFFF) b) s).setRing r fun g =>
    { g with waiting := rest, dropped := 0, devIndex := (g.devIndex + 1) % 2 ^ g.sizeLog2, written := g.written + 1 })

theorem blockWritten_facts (r : Nat) (b : Block) (rest : List Block) (s : State) :
    s.link.sent ++ [.block r (s.link.rings.get r).devIndex (decide (0 < (s.link.rings.get r).dropped)) (min (s.link.rings.get r).dropped 0xFFFFFFFF) b] <+: (blockWritten r b rest s).link.sent
    ∧ ((blockWritten r b rest s).link.rings.get r).waiting = rest ∧ ((blockWritten r b rest s).link.rings.get r).dropped = 0
    ∧ ((blockWritten r b rest s).link.rings.get r).devIndex = ((s.link.rings.get r).devIndex + 1) % 2 ^ (s.link.rings.get r).sizeLog2
    ∧ ((blockWritten r b rest s).link.rings.get r).written = (s.link.rings.get r).written + 1 ∧ ((blockWritten r b rest s).link.rings.get r).sequence = (s.link.rings.get r).sequence
    ∧ ∀ i, i ≠ r → (blockWritten r b rest s).link.rings.get i = s.link.rings.get i := by
  obtain ⟨w, hw⟩ : ∃ w, w = (send (.block r (s.link.rings.get r).devIndex (decide (0 < (s.link.rings.get r).dropped)) (min (s.link.rings.get r).dropped 0xFFFFFFFF) b) s).setRing r fun g =>
    { g with waiting := rest, dropped := 0, devIndex := (g.devIndex + 1) % 2 ^ g.sizeLog2, written := g.written + 1 } := ⟨_, rfl⟩
  have hself : w.link.rings.get r = { s.link.rings.get r with
      waiting := rest, dropped := 0, devIndex := ((s.link.rings.get r).devIndex + 1) % 2 ^ (s.link.rings.get r).sizeLog2, written := (s.link.rings.get r).written + 1 } := by
    rw [hw, setRing_self]
    rfl
  have hsent : w.link.sent = s.link.sent ++ [.block r (s.link.rings.get r).devIndex (decide (0 < (s.link.rings.get r).dropped)) (min (s.link.rings.get r).dropped 0xFFFFFFFF) b] := by
    rw [hw]
    rfl
  have hother : ∀ i, i ≠ r → w.link.rings.get i = s.link.rings.get i := fun i hi => by
    rw [hw, setRing_ne _ _ _ hi]
    rfl
  obtain ⟨hwaiting, hdropped, hindex, hwritten, hseq, hne⟩ := countEntry_facts r w
  rw [hself] at hwaiting hdropped hindex hwritten hseq
  unfold blockWritten
  rw [← hw]
  exact ⟨hsent ▸ countEntry_sent r w, hwaiting, hdropped, hindex, hwritten, hseq, fun i hi => (hne i hi).trans (hother i hi)⟩

theorem blockWrite_writes {s : State} {r : Nat} {b : Block} {rest : List Block} {good owner : Bool} (hb : s.barUp = true) (hlo : 32 ≤ r) (hhi : r < 96)
    (hwaiting : (s.link.rings.get r).waiting = b :: rest) (htakes : (s.link.rings.get r).takes = true)
    (hcredit : (s.link.rings.get r).devIndex ≠ (s.link.rings.get r).doorbell) (hm : s.mode.mode ≠ .halted)
    (hhold : s.now ≤ b.readyAt + (s.link.rings.get r).holdLimit * 100000) :
    ∃ t, exec (.blockWrite r good owner) s = .next t ∧ Only [.link, .integ, .sec] s t ∧ (∀ i, i ≠ r → t.link.rings.get i = s.link.rings.get i)
      ∧ (good = true → owner = true →
          s.link.sent ++ [.block r (s.link.rings.get r).devIndex (decide (0 < (s.link.rings.get r).dropped)) (min (s.link.rings.get r).dropped 0xFFFFFFFF) b] <+: t.link.sent
          ∧ (t.link.rings.get r).waiting = rest ∧ (t.link.rings.get r).dropped = 0
          ∧ (t.link.rings.get r).devIndex = ((s.link.rings.get r).devIndex + 1) % 2 ^ (s.link.rings.get r).sizeLog2
          ∧ (t.link.rings.get r).written = (s.link.rings.get r).written + 1 ∧ (t.link.rings.get r).sequence = (s.link.rings.get r).sequence)
      ∧ (good = false → (t.link.rings.get r).waiting = rest ∧ (t.link.rings.get r).dropped = (s.link.rings.get r).dropped + 1
          ∧ (t.link.rings.get r).discards = (s.link.rings.get r).discards + 1 ∧ (t.link.rings.get r).devIndex = (s.link.rings.get r).devIndex
          ∧ Raises s t .deliveryCheckFail b.die [.w r, .w b.die, .q b.sequence])
      ∧ (good = true → owner = false → t.link.rings.get r = { s.link.rings.get r with err := true, errCode := .owner }
          ∧ Raises s t .ringError pkg [.w r, .w (2 : Nat), .w (s.link.rings.get r).devIndex]) := by
  have hgo : (s.barUp && s.mode.mode != .halted && isDeliveryRing r && (s.link.rings.get r).takes && (s.link.rings.get r).devIndex != (s.link.rings.get r).doorbell
      && decide (s.now ≤ b.readyAt + (s.link.rings.get r).holdLimit * countsPerTick)) = true := by
    have hhold' : decide (s.now ≤ b.readyAt + (s.link.rings.get r).holdLimit * countsPerTick) = true := decide_eq_true hhold
    rw [hb, bne_iff_ne.mpr hm, isDeliveryRing_of hlo hhi, htakes, bne_iff_ne.mpr hcredit, hhold']
    rfl
  obtain ⟨d, hd⟩ : ∃ d, d = (dropOldest r s).setDieInteg b.die fun x => { x with deliveryCheckFails := x.deliveryCheckFails + 1 } := ⟨_, rfl⟩
  have hrun : exec (.blockWrite r good owner) s = .next (if (!good) = true then raise .deliveryCheckFail b.die [.w r, .w b.die, .q b.sequence] d
      else if (!owner) = true then haltRing r .owner s else blockWritten r b rest s) := by
    rw [hd]
    change execBlockWrite r good owner s = _
    unfold execBlockWrite
    dsimp only
    rw [hwaiting]
    exact onlyIf_of_true hgo
  have honly := (execBlockWrite_frames r good owner s).onlyOf hrun
  cases good with
  | false =>
    obtain ⟨hself, hother⟩ := dropOldest_facts r s hwaiting
    have hrings : d.link.rings = (dropOldest r s).link.rings := by rw [hd]; rfl
    have hdropped : Only [.link, .integ] s d := hd ▸ ((dropOldest_only r s).mono rfl).trans ((State.setDieInteg_only _ _ _).mono rfl)
    refine ⟨_, hrun, honly, fun i hi => ?_, fun h => absurd h Bool.false_ne_true, fun _ => ?_, fun h => absurd h Bool.false_ne_true⟩
    · rw [if_pos Bool.not_false, raise_rings, hrings, hother i hi]
    · rw [if_pos Bool.not_false, raise_rings, hrings, hself]
      exact ⟨rfl, rfl, rfl, rfl, Raises.raise hdropped rfl rfl _ _ _⟩
  | true =>
    cases owner with
    | false =>
      obtain ⟨hself, hother⟩ := haltRing_facts r .owner s
      exact ⟨_, hrun, honly, hother, fun _ h => absurd h Bool.false_ne_true, fun h => absurd h.symm Bool.false_ne_true,
        fun _ _ => ⟨hself, haltRing_raises r .owner [.link] (Only.refl _ s) rfl rfl rfl⟩⟩
    | true =>
      obtain ⟨hsent, hwait, hdropped, hindex, hwritten, hseq, hother⟩ := blockWritten_facts r b rest s
      exact ⟨_, hrun, honly, hother, fun _ _ => ⟨hsent, hwait, hdropped, hindex, hwritten, hseq⟩, fun h => absurd h.symm Bool.false_ne_true,
        fun _ h => absurd h.symm Bool.false_ne_true⟩

theorem halted_writesNothing {s : State} {r x : Nat} {good owner : Bool} (hm : s.mode.mode = .halted) :
    exec (.blockWrite r good owner) s = .next s ∧ exec (.eventBlock x) s = .next s := by
  have hhalted : (s.mode.mode != .halted) = false := bne_eq_false_iff_eq.mpr hm
  constructor
  · change execBlockWrite r good owner s = _
    unfold execBlockWrite
    dsimp only
    split
    · rfl
    · exact onlyIf_of_false (by rw [hhalted, Bool.and_false]; rfl)
  · change execEventBlock x s = _
    unfold execEventBlock
    split
    · exact onlyIf_of_false (by rw [hhalted, Bool.and_false])
    · exact onlyIf_of_false (by rw [hhalted, Bool.and_false]; rfl)

theorem blockHoldExpiry_discards {s : State} {r : Nat} {b : Block} {rest : List Block} (hlo : 32 ≤ r) (hhi : r < 96)
    (hwaiting : (s.link.rings.get r).waiting = b :: rest) (hnow : b.readyAt + (s.link.rings.get r).holdLimit * 100000 ≤ s.now) :
    ∃ t, exec (.blockHoldExpiry r) s = .next t ∧ Only [.link] s t ∧ (t.link.rings.get r).waiting = rest
      ∧ (t.link.rings.get r).dropped = (s.link.rings.get r).dropped + 1 ∧ (t.link.rings.get r).discards = (s.link.rings.get r).discards + 1
      ∧ (t.link.rings.get r).discardsSec = (s.link.rings.get r).discardsSec + 1 ∧ t.link.sent = s.link.sent ∧ ∀ i, i ≠ r → t.link.rings.get i = s.link.rings.get i := by
  have hrun : exec (.blockHoldExpiry r) s = .next (dropOldest r s) := by
    have hnow' : decide (b.readyAt + (s.link.rings.get r).holdLimit * countsPerTick ≤ s.now) = true := decide_eq_true hnow
    change execBlockHoldExpiry r s = _
    unfold execBlockHoldExpiry
    dsimp only
    rw [hwaiting]
    exact onlyIf_of_true (by rw [isDeliveryRing_of hlo hhi, hnow']; rfl)
  obtain ⟨hself, hother⟩ := dropOldest_facts r s hwaiting
  refine ⟨_, hrun, dropOldest_only r s, ?_⟩
  rw [hself]
  exact ⟨rfl, rfl, rfl, rfl, rfl, hother⟩

theorem ringOverrun_reports {s : State} {r : Nat} (hlo : 32 ≤ r) (hhi : r < 96) (hsec : 0 < (s.link.rings.get r).discardsSec) (hn : s.now % 100000000 = 0) :
    ∃ t, exec (.ringOverrun r) s = .next t ∧ Only [.link, .integ, .sec] s t ∧ t.link.rings.get r = { s.link.rings.get r with discardsSec := 0 }
      ∧ (∀ i, i ≠ r → t.link.rings.get i = s.link.rings.get i) ∧ Raises s t .ringOverrun pkg [.w r, .w (s.link.rings.get r).discardsSec] := by
  have hsecond : decide (s.now % countsPerSecond = 0) = true := decide_eq_true hn
  have hset := State.setRing_only s r fun g => { g with discardsSec := 0 }
  refine ⟨_, onlyIf_of_true (by rw [isDeliveryRing_of hlo hhi, decide_eq_true hsec, hsecond]; rfl), hset.linkThen (raise_only _ _ _ _), ?_⟩
  rw [raise_rings]
  exact ⟨setRing_self _ _ _, fun i hi => setRing_ne _ _ _ hi, Raises.raise hset rfl rfl _ _ _⟩

/-! ### Events and telemetry -/

theorem eventBlock_delivers {s : State} {x t0 : Nat} (hspan : s.eventSpan x = some t0) (hup : s.dieUp (eventDie x) = true) (hm : s.mode.mode ≠ .halted) :
    ∃ t, exec (.eventBlock x) s = .next t ∧ Only [.link, .events] s t ∧ t.link.lastEventBlock.get x = s.now
      ∧ (∀ e ∈ s.link.events, (e.origin ≠ x ∨ t0 + 200000 ≤ e.raised) → e ∈ t.link.events)
      ∧ (∀ e ∈ t.link.events, e ∈ s.link.events ∧ (e.origin ≠ x ∨ t0 + 200000 ≤ e.raised)) := by
  obtain ⟨f, hf⟩ : ∃ f : Ev → Bool, f = fun e => e.origin == x && decide (e.raised < t0 + countsPerBlock) := ⟨_, rfl⟩
  have hrun : exec (.eventBlock x) s = .next (formEvents x t0 (s.link.events.filter f) { s with link := { s.link with events := s.link.events.filter fun e => !f e } }) := by
    rw [hf]
    change execEventBlock x s = _
    unfold execEventBlock
    rw [hspan]
    exact onlyIf_of_true (by rw [hup, bne_iff_ne.mpr hm]; rfl)
  have hkeep : ∀ e, (!f e) = true ↔ e.origin ≠ x ∨ t0 + 200000 ≤ e.raised := fun e => by
    have hspan2 : (e.raised < t0 + countsPerBlock) = (e.raised < t0 + 200000) := rfl
    rw [hf]
    simp only [Bool.not_eq_true', Bool.and_eq_false_iff, beq_eq_false_iff_ne, decide_eq_false_iff_not, hspan2, Nat.not_lt, ne_eq]
  obtain ⟨hevents, hlast⟩ := formEvents_keep x t0 (s.link.events.filter f) { s with link := { s.link with events := s.link.events.filter fun e => !f e } }
  refine ⟨_, hrun, (execEventBlock_frames x s).onlyOf hrun, hlast, fun e he h => ?_, fun e he => ?_⟩
  · rw [hevents]
    exact List.mem_filter.mpr ⟨he, (hkeep e).mpr h⟩
  · rw [hevents] at he
    obtain ⟨hmem, hout⟩ := List.mem_filter.mp he
    exact ⟨hmem, (hkeep e).mp hout⟩

theorem mem_telemetryRings {s : State} {d r : Nat} :
    r ∈ s.routeRings .telemetry d (fun _ => true) ↔ 32 ≤ r ∧ r < 96 ∧ (s.cfg.active.routes.get r).cls = some .telemetry ∧ (s.cfg.active.routes.get r).die = d := by
  unfold State.routeRings
  simp only [List.mem_filter, List.mem_map, List.mem_range, Bool.and_true, Bool.and_eq_true, decide_eq_true_eq, beq_iff_eq]
  constructor
  · rintro ⟨⟨i, hi, rfl⟩, hcls, hdie⟩
    exact ⟨by omega, by omega, hcls, hdie⟩
  · rintro ⟨hlo, hhi, hcls, hdie⟩
    exact ⟨⟨r - 32, by omega, by omega⟩, hcls, hdie⟩

theorem telemetryRecord_delivers {s : State} {d : Nat} (hup : s.monUp d = true) (hdue : (s.mon.dies.get d).telemetered < s.mon.lastLatch)
    (hm : s.mode.mode ≠ .halted) :
    ∃ t, exec (.telemetryRecord d) s = .next t ∧ Only [.link, .mon] s t ∧ t.mon.dies.get d = { s.mon.dies.get d with telemetered := s.mon.lastLatch }
      ∧ (∀ i, i ≠ d → t.mon.dies.get i = s.mon.dies.get i)
      ∧ (∀ r, 32 ≤ r → r < 96 → (s.cfg.active.routes.get r).cls = some .telemetry → (s.cfg.active.routes.get r).die = d →
          (t.link.rings.get r).sequence = (s.link.rings.get r).sequence + 1)
      ∧ ∀ i, (i < 32 ∨ 96 ≤ i ∨ (s.cfg.active.routes.get i).cls ≠ some .telemetry ∨ (s.cfg.active.routes.get i).die ≠ d) → t.link.rings.get i = s.link.rings.get i := by
  obtain ⟨b, hrun, hb⟩ : ∃ b, exec (.telemetryRecord d) s = .next (formRouted .telemetry (fun _ => true) b (s.setMon d fun m => { m with telemetered := s.mon.lastLatch })) ∧ b.die = d :=
    ⟨_, onlyIf_of_true (by rw [hup, decide_eq_true hdue]; rfl), rfl⟩
  have hset := s.setMon_only d fun m => { m with telemetered := s.mon.lastLatch }
  have hdie : (s.setMon d fun m => { m with telemetered := s.mon.lastLatch }).dieUp b.die = true := by
    rw [hb]
    exact (Bool.and_eq_true_iff.mp (Bool.and_eq_true_iff.mp hup).1).1
  obtain ⟨hin, hout⟩ := formRouted_rings .telemetry (fun _ => true) b (s.setMon d fun m => { m with telemetered := s.mon.lastLatch }) hdie hm
  rw [hb] at hin hout
  refine ⟨_, hrun, (hset.mono rfl).trans ((formRouted_only _ _ _ _).mono rfl), ?_, fun i hi => ?_, fun r hlo hhi hcls hd => hin r (mem_telemetryRings.mpr ⟨hlo, hhi, hcls, hd⟩),
    fun i hi => hout i fun hmem => ?_⟩
  · rw [formRouted_only _ _ _ _ .mon rfl]
    exact Tbl.get_modify_self _ _ _
  · rw [formRouted_only _ _ _ _ .mon rfl]
    exact Tbl.get_modify_of_ne _ hi _
  · obtain ⟨hlo, hhi, hcls, hd⟩ := mem_telemetryRings.mp hmem
    rcases hi with hi | hi | hi | hi
    · exact absurd hlo (Nat.not_le.mpr hi)
    · exact absurd hi (Nat.not_le.mpr hhi)
    · exact hi hcls
    · exact hi hd

/-- Settles O40: each clause by the rule of the block, the event span or the record above. -/
theorem ringBlocks : Obligations.RingBlocks :=
  ⟨fun _ _ _ _ _ _ => blockWrite_writes, fun _ _ _ _ _ => halted_writesNothing, fun _ _ _ _ => blockHoldExpiry_discards, fun _ _ => ringOverrun_reports,
    fun _ _ _ => eventBlock_delivers, fun _ _ => telemetryRecord_delivers⟩

end Sys2Proof.Machine
end

section
/-!
PROOFS. Commands: a refused one, NOP, IDENTIFY, TIME_SET, REALIGN (11 R314, R315, R317, R329, 02 R54, R66).
-/
namespace Sys2Proof.Machine

/-! ### Refused commands -/

/-- Settles O42: every command of the opcode table runs through the same checks, and a refused one is finished with what they give. -/
theorem refusedCommands : Obligations.RefusedCommands := by
  intro i c src buf s f st r hcommand haway
  obtain ⟨own, hrun⟩ := commandOf_runs i c src buf hcommand
  exact ⟨finish src f st r (takeFront src s), (hrun s).trans (runCmd_turnsAway haway own), (takeFront_only src s).trans (finish_only src f st r _),
    finish_answered st r [] haway.1 (by rw [takeFront_sent, List.append_nil]) rfl⟩

/-! ### Simple commands -/

section
variable {s : State} {src : CmdSrc} {f : Fetched}

theorem nop_answers (h : s.begins .nop src f none) :
    ∃ t, exec (.nop src) s = .next t ∧ Only [.link, .mb] s t ∧ Answered s t src f .ok 0 [] :=
  ⟨_, runCmd_begins h _, (takeFront_only src s).trans (finish_only _ _ _ _ _), answered_of_begins h .ok 0 _ rfl rfl⟩

theorem takeFront_identity (src : CmdSrc) (s : State) : (takeFront src s).identity = s.identity := by
  cases src <;> rfl

theorem padTo_length (n : Nat) (bs : List Byte) : (padTo n bs).length = n := by
  simp [padTo, zeros]
  omega

theorem identity_take (s : State) : s.identity.take 4 = le 2 s.part.deviceId ++ le 1 s.part.dies ++ le 1 s.part.siliconRev := by
  rw [State.identity, padTo, List.take_take]
  rfl

theorem identify_writes (h : s.begins .identify src f none) :
    ∃ t, exec (.identify src) s = .next t ∧ Only [.link, .mb] s t ∧ Outputs s t src f s.identity ∧ s.identity.length = 256
      ∧ s.identity.take 4 = le 2 s.part.deviceId ++ le 1 s.part.dies ++ le 1 s.part.siliconRev := by
  have hrun : exec (.identify src) s = .next (finishOutput src f (takeFront src s).identity (takeFront src s)) := runCmd_begins h fun f s => finishOutput src f s.identity s
  exact ⟨_, hrun, (takeFront_only src s).trans (finishOutput_only _ _ _ _), outputs_of_begins h (takeFront_identity src s), padTo_length _ _, identity_take s⟩

/-- What a simple command leaves of the time: `g` of it. -/
def timeTaken (g : TimeSt → TimeSt) (s : State) : State := { s with time := g s.time }

theorem timeTaken_facts (h : s.ready src = some f) (g : TimeSt → TimeSt) (hg : ∀ x, (g x).systime = x.systime ∧ (g x).spreadMode = x.spreadMode ∧ (g x).spreadDepth = x.spreadDepth) :
    Only [.time, .link, .mb] s (finish src f .ok 0 (timeTaken g (takeFront src s)))
      ∧ Answered s (finish src f .ok 0 (timeTaken g (takeFront src s))) src f .ok 0 [] ∧ (finish src f .ok 0 (timeTaken g (takeFront src s))).time = g s.time := by
  refine ⟨?_, finish_answered .ok 0 [] h (by rw [List.append_nil]; exact takeFront_sent src s) rfl, ?_⟩
  · exact (((takeFront_only src s).mono rfl).trans (Only.ofMk rfl (Only.refl _ _) (k_systime := fun _ => (hg _).1) (k_spread := fun _ => (hg _).2))).trans ((finish_only _ _ _ _ _).mono rfl)
  · rw [finish_only _ _ _ _ _ .time rfl]
    exact congrArg g (takeFront_only src s .time rfl)

theorem timeSet_pairs (h : s.begins .timeSet src f none) :
    ∃ t, exec (.timeSet src) s = .next t ∧ Only [.time, .link, .mb] s t ∧ Answered s t src f .ok 0 []
      ∧ t.time = { s.time with wall := some ⟨field f.desc 4 0 64, field f.desc 12 0 64, sfield f.desc 20 0 32⟩ } :=
  ⟨_, runCmd_begins h fun f s => finish src f .ok 0 (timeTaken (fun x => { x with wall := some ⟨field f.desc 4 0 64, field f.desc 12 0 64, sfield f.desc 20 0 32⟩ }) s),
    timeTaken_facts h.1 _ fun _ => ⟨rfl, rfl, rfl⟩⟩

theorem realign_arms (h : s.begins .realign src f none) :
    ∃ t, exec (.realign src) s = .next t ∧ Only [.time, .link, .mb] s t ∧ Answered s t src f .ok 0 []
      ∧ (s.time.armed = .boot → t.time = s.time) ∧ (s.time.armed ≠ .boot → t.time = { s.time with armed := .realign }) := by
  obtain ⟨honly, hanswered, htime⟩ := timeTaken_facts (s := s) h.1 (fun x => { x with armed := if x.armed = .boot then .boot else .realign }) fun _ => ⟨rfl, rfl, rfl⟩
  refine ⟨_, runCmd_begins h fun f s => finish src f .ok 0 (timeTaken (fun x => { x with armed := if x.armed = .boot then .boot else .realign }) s), honly, hanswered,
    fun hboot => ?_, fun hno => ?_⟩
  · rw [htime, if_pos hboot, ← hboot]
  · rw [htime, if_neg hno]

end

/-- Settles O43: each clause by the rule of its command above. -/
theorem simpleCommands : Obligations.SimpleCommands :=
  ⟨fun _ _ _ => nop_answers, fun _ _ _ => identify_writes, fun _ _ _ => timeSet_pairs, fun _ _ _ => realign_arms⟩

end Sys2Proof.Machine
end

section
/-!
PROOFS. COMMIT from its snapshot to the swap (11 R320, R322 to R326, 14 R392).
-/
namespace Sys2Proof.Machine

/-! ### The command -/

theorem takeFront_tickOf0 (src : CmdSrc) (s : State) (n : Nat) : (takeFront src s).tickOf0 n = s.tickOf0 n := by
  cases src <;> rfl

/-- A command that is answered with what it took from its queue and no more. -/
theorem finish_takeFront {s : State} {src : CmdSrc} {f : Fetched} (h : s.ready src = some f) (st : Status) (r : Nat) :
    Only [.link, .mb] s (finish src f st r (takeFront src s)) ∧ Answered s (finish src f st r (takeFront src s)) src f st r [] :=
  ⟨(takeFront_only src s).trans (finish_only _ _ _ _ _), finish_answered st r [] h (by rw [List.append_nil]; exact takeFront_sent src s) rfl⟩

theorem commit_snapshots {s : State} {src : CmdSrc} {f : Fetched} (h : s.begins .commit src f none) :
    ∃ t, exec (.commit src) s = .next t ∧ Only [.link, .cfg, .domains, .mb] s t
      ∧ (bitAt f.desc 10 0 = true → t.cfg = s.cfg ∧ t.domains = s.domains
          ∧ (((takeFront src s).liveFollows s.cfg.shadow).invalid (takeFront src s) = none → Answered s t src f .ok 0 [])
          ∧ ∀ r, ((takeFront src s).liveFollows s.cfg.shadow).invalid (takeFront src s) = some r → Answered s t src f .stageInvalid r [])
      ∧ (bitAt f.desc 10 0 = false → s.cfg.commit.isSome = true → t.cfg = s.cfg ∧ Answered s t src f .resourceBusy 0 [])
      ∧ (bitAt f.desc 10 0 = false → s.cfg.commit = none → ∀ r, ((takeFront src s).liveFollows s.cfg.shadow).invalid (takeFront src s) = some r → t.cfg = s.cfg ∧ Answered s t src f .stageInvalid r [])
      ∧ (bitAt f.desc 10 0 = false → s.cfg.commit = none → ((takeFront src s).liveFollows s.cfg.shadow).invalid (takeFront src s) = none →
          Waits t src f .commit
          ∧ t.cfg = { s.cfg with commit := some { set := s.cfg.shadow, tick := s.tickOf0 (field f.desc 4 0 48), effective := s.tickOf0 (field f.desc 4 0 48), src := some src } }) := by
  change ∃ t, execCommit src s = _ ∧ _
  unfold execCommit
  rw [runCmd_begins h]
  dsimp only
  rw [takeFront_cfg, takeFront_tickOf0]
  cases hdry : bitAt f.desc 10 0 with
  | true =>
    cases hinvalid : ((takeFront src s).liveFollows s.cfg.shadow).invalid (takeFront src s) with
    | none =>
      obtain ⟨honly, hanswered⟩ := finish_takeFront h.1 .ok 0
      exact ⟨_, rfl, honly.mono rfl, fun _ => ⟨honly .cfg rfl, honly .domains rfl, fun _ => hanswered, fun _ => nofun⟩, nofun, nofun, nofun⟩
    | some r =>
      obtain ⟨honly, hanswered⟩ := finish_takeFront h.1 .stageInvalid r
      exact ⟨_, rfl, honly.mono rfl, fun _ => ⟨honly .cfg rfl, honly .domains rfl, nofun, by rintro _ ⟨rfl⟩; exact hanswered⟩, nofun, nofun, nofun⟩
  | false =>
    cases hpending : s.cfg.commit with
    | some p =>
      obtain ⟨honly, hanswered⟩ := finish_takeFront h.1 .resourceBusy 0
      exact ⟨_, rfl, honly.mono rfl, nofun, fun _ _ => ⟨honly .cfg rfl, hanswered⟩, nofun, nofun⟩
    | none =>
      cases hinvalid : ((takeFront src s).liveFollows s.cfg.shadow).invalid (takeFront src s) with
      | some r =>
        obtain ⟨honly, hanswered⟩ := finish_takeFront h.1 .stageInvalid r
        exact ⟨_, rfl, honly.mono rfl, nofun, nofun, fun _ _ => by rintro _ ⟨rfl⟩; exact ⟨honly .cfg rfl, hanswered⟩, nofun⟩
      | none =>
        refine ⟨await src f .commit _, rfl, ?_, nofun, nofun, nofun, fun _ _ _ => ⟨await_waits _ _ _ _, ?_⟩⟩
        · refine Only.trans (Only.trans (((takeFront_only src s).mono rfl).trans ?_) ((powerDigital_only _ _).mono rfl)) ((await_only src f .commit _).mono rfl)
          exact Only.ofMk rfl (Only.refl _ _) (k_committed := fun _ => (congrArg CfgSt.committed (takeFront_cfg src s)).symm)
            (k_shadow := fun _ => (congrArg CfgSt.shadow (takeFront_cfg src s)).symm)
        · rw [await_only _ _ _ _ .cfg rfl, powerDigital_only _ _ .cfg rfl]

/-! ### Acknowledgements -/

theorem setCommit_commit {s : State} {p : PendingCommit} (h : s.cfg.commit = some p) (f : PendingCommit → PendingCommit) : (setCommit f s).cfg.commit = some (f p) := by
  unfold setCommit
  dsimp only
  rw [h]
  rfl

theorem pendingSetReceived_acknowledges {s : State} {d : Nat} {good : Bool} {p : PendingCommit} (hcommit : s.cfg.commit = some p) (hup : s.dieUp d = true)
    (hconfirmed : p.confirmed = false) (hacks : maskBit p.acks d = false) (hwithheld : maskBit p.withheld d = false)
    (htick : s.now < (p.tick - 1) * 100000) :
    ∃ t, exec (.pendingSetReceived d good) s = .next t ∧ Only [.cfg] s t ∧ t.cfg.active = s.cfg.active ∧ t.cfg.committed = s.cfg.committed ∧ t.cfg.shadow = s.cfg.shadow
      ∧ ∃ q, t.cfg.commit = some q ∧ q.set = p.set ∧ q.tick = p.tick ∧ q.confirmed = false
        ∧ (good = true → maskBit q.acks d = true ∧ q.holdTick = max p.holdTick (s.holdOf p d) ∧ q.withheld = p.withheld)
        ∧ (good = false → maskBit p.retried d = false → maskBit q.retried d = true ∧ q.acks = p.acks ∧ q.withheld = p.withheld)
        ∧ (good = false → maskBit p.retried d = true → maskBit q.withheld d = true ∧ q.acks = p.acks) := by
  have hguard : (decide (d < s.dies) && s.dieUp d && !p.confirmed && !maskBit p.acks d && !maskBit p.withheld d && decide (s.now < (p.tick - 1) * countsPerTick)) = true := by
    have hd : d < s.dies := of_decide_eq_true (Bool.and_eq_true _ _ ▸ hup).1
    have htick' : decide (s.now < (p.tick - 1) * countsPerTick) = true := decide_eq_true htick
    rw [decide_eq_true hd, hup, hconfirmed, hacks, hwithheld, htick']
    rfl
  change ∃ t, execPendingSetReceived d good s = _ ∧ _
  unfold execPendingSetReceived
  rw [hcommit]
  refine ⟨_, onlyIf_of_true hguard, setCommit_only _ _, rfl, rfl, rfl, _, setCommit_commit hcommit _, ?_⟩
  cases good with
  | true => exact ⟨rfl, rfl, hconfirmed, fun _ => ⟨maskBit_or_self _ _, rfl, rfl⟩, nofun, nofun⟩
  | false =>
    cases hretried : maskBit p.retried d with
    | true => exact ⟨rfl, rfl, hconfirmed, nofun, nofun, fun _ _ => ⟨maskBit_or_self _ _, rfl⟩⟩
    | false => exact ⟨rfl, rfl, hconfirmed, nofun, fun _ _ => ⟨maskBit_or_self _ _, rfl, rfl⟩, nofun⟩

/-! ### The deadline -/

theorem commitAckDeadline_decides {s : State} {p : PendingCommit} (hcommit : s.cfg.commit = some p) (hconfirmed : p.confirmed = false)
    (hnow : (p.tick - 1) * 100000 ≤ s.now) :
    ∃ t, exec .commitAckDeadline s = .next t ∧ Only [.link, .cfg, .mb] s t ∧ t.cfg.active = s.cfg.active ∧ t.cfg.committed = s.cfg.committed ∧ t.cfg.shadow = s.cfg.shadow
      ∧ ((∀ d, d < s.dies → s.dieUp d = true → maskBit p.acks d = true) → t.cfg.commit = some { p with confirmed := true, effective := max p.tick p.holdTick } ∧ t.link = s.link)
      ∧ (∀ d, d < s.dies → s.dieUp d = true → maskBit p.acks d = false → t.cfg.commit = none) := by
  have hguard : (!p.confirmed && decide ((p.tick - 1) * countsPerTick ≤ s.now)) = true := by
    have hnow' : decide ((p.tick - 1) * countsPerTick ≤ s.now) = true := decide_eq_true hnow
    rw [hconfirmed, hnow']
    rfl
  change ∃ t, execCommitAckDeadline s = _ ∧ _
  unfold execCommitAckDeadline
  rw [hcommit]
  dsimp only
  cases hfind : (List.range s.dies).find? fun d => s.dieUp d && !maskBit p.acks d with
  | none =>
    refine ⟨_, onlyIf_of_true hguard, (setCommit_only _ _).mono rfl, rfl, rfl, rfl, fun _ => ⟨setCommit_commit hcommit _, rfl⟩, fun d hd hup hack => ?_⟩
    have hno := List.find?_eq_none.mp hfind d (List.mem_range.mpr hd)
    rw [hup, hack] at hno
    exact absurd rfl hno
  | some e =>
    have hwithdrawn : (answerCommit p .timeout e { s with cfg := { s.cfg with commit := none } }).cfg = { s.cfg with commit := none } := answerCommit_only p .timeout e _ .cfg rfl
    refine ⟨_, onlyIf_of_true hguard, (Only.ofMk rfl (Only.refl _ _)).trans ((answerCommit_only _ _ _ _).mono rfl), ?_, ?_, ?_, fun hall => ?_, fun _ _ _ _ => ?_⟩
    · rw [hwithdrawn]
    · rw [hwithdrawn]
    · rw [hwithdrawn]
    · have he := List.find?_some hfind
      rw [Bool.and_eq_true] at he
      have hack := hall e (List.mem_range.mp (List.mem_of_find?_eq_some hfind)) he.1
      rw [hack] at he
      exact absurd he.2 Bool.false_ne_true
    · rw [hwithdrawn]

/-! ### The swap -/

theorem finishCommits_commit (s : State) : (finishCommits s).cfg.commit = s.cfg.commit := by
  unfold finishCommits
  dsimp only
  refine foldl_keep (fun v => v.cfg.commit = s.cfg.commit) _ _ (fun v c hv => ?_) _ rfl
  rw [answerCommit_only _ _ _ _ .cfg rfl, ← hv]
  split
  · rw [raise_only _ _ _ _ .cfg rfl]
  · rfl

theorem endHop_commit (d : Nat) (f : PendingCommit → PendingCommit) (s : State) : (endHop d f s).cfg.commit = s.cfg.commit :=
  finishCommits_commit _

theorem incompleteHop_commit (d : Nat) (s : State) : (incompleteHop d s).cfg.commit = s.cfg.commit := by
  unfold incompleteHop
  dsimp only
  rw [endHop_commit, failConverter_only _ _ _ _ .cfg rfl, failConverter_only _ _ _ _ .cfg rfl]
  rfl

theorem endWaitIfHeld_commit (d : Nat) (s : State) : (endWaitIfHeld d s).cfg.commit = s.cfg.commit := by
  unfold endWaitIfHeld
  dsimp only
  split
  · exact incompleteHop_commit d s
  · rfl

theorem beginHop_commit (plan : Nat) (temps : List Int) (d : Nat) (s : State) : (beginHop plan temps d s).cfg.commit = s.cfg.commit := by
  unfold beginHop
  split
  · rfl
  · dsimp only
    have hzeroed : ∀ (x : DieClk → DieClk) (b : Prop) [Decidable b], Only [.clk, .mon, .front, .taps] s (if b then
          (List.range (stopRotations d (convertTemp2 d (s.setClk d x))).dies).foldl (fun acc j => if acc.leaderDie j = some d then zeroCourse j acc else acc) (stopRotations d (convertTemp2 d (s.setClk d x)))
        else stopRotations d (convertTemp2 d (s.setClk d x))) := fun x b _ =>
      (((State.setClk_only s d x).mono rfl).trans (((convertTemp2_only d _).mono rfl).trans ((stopRotations_only d _).mono rfl))).trans
        (Only.ite (Only.foldl (fun _ _ => Only.ite ((zeroCourse_only _ _).mono rfl) (Only.refl _ _)) _ _) (Only.refl _ _))
    rw [endWaitIfHeld_commit]
    exact congrArg CfgSt.commit (hzeroed _ _ .cfg rfl)

/-- What the swap leaves of the sets: the committed set is the pending one, nothing pends, the shadow set is `shadow`. -/
structure State.Swapped (set shadow : ConfigSet) (t : State) : Prop where
  committed : t.cfg.committed = set
  commit : t.cfg.commit = none
  shadow : t.cfg.shadow = shadow

theorem State.Swapped.of_only {set shadow : ConfigSet} {as : List Aspect} {s t : State} (h : s.Swapped set shadow) (honly : Only as s t) (hcommitted : as.contains .committed = false)
    (hshadow : as.contains .shadow = false) (hcommit : t.cfg.commit = s.cfg.commit) : t.Swapped set shadow :=
  ⟨(honly .committed hcommitted).trans h.committed, hcommit.trans h.commit, (honly .shadow hshadow).trans h.shadow⟩

theorem State.Swapped.beginHops {set shadow : ConfigSet} {s : State} (h : s.Swapped set shadow) (hop : Bool) (plan : Nat) (temps : List Int) (dies : List Nat) :
    (if hop = true then dies.foldl (fun acc d => beginHop plan temps d acc) s else s).Swapped set shadow := by
  split
  · exact foldl_keep (State.Swapped set shadow) _ _ (fun _ _ hv => hv.of_only (beginHop_only _ _ _ _) rfl rfl (beginHop_commit _ _ _ _)) _ h
  · exact h

theorem State.Swapped.finished {set shadow : ConfigSet} {s : State} (h : s.Swapped set shadow) : (refresh (finishCommits (seeUnits s))).Swapped set shadow :=
  ((h.of_only (seeUnits_only s) rfl rfl (congrArg CfgSt.commit (seeUnits_only s .cfg rfl))).of_only (finishCommits_only _) rfl rfl (finishCommits_commit _)).of_only
    (refresh_only _) rfl rfl (congrArg CfgSt.commit (refresh_only _ .cfg rfl))

theorem configSwap_swaps {s : State} {p : PendingCommit} {temps : List Int} (hcommit : s.cfg.commit = some p) (hconfirmed : p.confirmed = true)
    (hnow : p.effective * 100000 ≤ s.now) :
    ∃ t, exec (.configSwap temps) s = .next t
      ∧ Only [.clk, .spans, .front, .taps, .lanes, .ofdm, .audio, .ports, .link, .cfg, .cal, .mon, .integ, .mode, .domains, .mb, .sec, .committed, .modeCode] s t
      ∧ t.cfg.committed = p.set ∧ t.cfg.commit = none ∧ t.cfg.shadow = s.cfg.shadow := by
  have hguard : (p.confirmed && decide (p.effective * countsPerTick ≤ s.now)) = true := by
    have hnow' : decide (p.effective * countsPerTick ≤ s.now) = true := decide_eq_true hnow
    rw [hconfirmed, hnow']
    rfl
  suffices hrun : ∃ t, execConfigSwap temps s = .next t ∧ t.Swapped p.set s.cfg.shadow by
    obtain ⟨t, hrun, hswapped⟩ := hrun
    exact ⟨t, hrun, (execConfigSwap_frames temps s).onlyOf hrun, hswapped.committed, hswapped.commit, hswapped.shadow⟩
  unfold execConfigSwap
  rw [hcommit]
  dsimp only
  obtain ⟨u, hu⟩ : ∃ u, u = bringSet (if s.mode.mode.receiving = true then State.setDomains else State.exitDomains s.mode.mode) s.cfg.active (p.set.forceSet s.dies s.mode.mode) (s.touchedMembers p.set) s :=
    ⟨_, rfl⟩
  have hshadow : u.cfg.shadow = s.cfg.shadow := hu ▸ bringSet_only _ _ _ _ s .shadow rfl
  rw [← hu]
  refine ⟨_, onlyIf_of_true hguard, State.Swapped.finished (State.Swapped.beginHops ?_ _ _ _ _)⟩
  exact ⟨rfl, rfl, hshadow⟩

/-- Settles O46: each clause by what its step does to the pending COMMIT, above. -/
theorem commitSwap : Obligations.CommitSwap :=
  ⟨fun _ _ _ => commit_snapshots, fun _ _ _ _ => pendingSetReceived_acknowledges, fun _ _ => commitAckDeadline_decides, fun _ _ _ => configSwap_swaps⟩

end Sys2Proof.Machine
end

section
/-!
PROOFS. Commands that start and stop ports and captures (09 R264, R265, 10 R295, R308).
-/
namespace Sys2Proof.Machine

/-! ### Ports -/

section
variable {s : State} {src : CmdSrc} {f : Fetched}

theorem takeFront_portSt (src : CmdSrc) (s : State) (p : PortId) : (takeFront src s).portSt p = s.portSt p :=
  portSt_of_ports (takeFront_only src s .ports rfl) p

/-- A port command that waits: its port takes `g`, the others stay. -/
theorem await_setPort (src : CmdSrc) (f : Fetched) (w : Wait) (p : PortId) (g : PortSt → PortSt) (s : State) :
    Only [.ports, .link, .mb] s (await src f w ((takeFront src s).setPort p g))
      ∧ (await src f w ((takeFront src s).setPort p g)).portSt p = g (s.portSt p)
      ∧ ∀ i, i ≠ p.key → (await src f w ((takeFront src s).setPort p g)).ports.ports.get i = s.ports.ports.get i := by
  have hports : (await src f w ((takeFront src s).setPort p g)).ports = ((takeFront src s).setPort p g).ports := await_only _ _ _ _ .ports rfl
  refine ⟨?_, ?_, fun i hi => ?_⟩
  · exact ((takeFront_only src s).mono rfl).trans ((Only.ofMk rfl (Only.refl _ _)).trans ((await_only _ _ _ _).mono rfl))
  · rw [portSt_of_ports hports, setPort_self, takeFront_portSt]
  · rw [hports]
    exact (Tbl.get_modify_of_ne _ hi _).trans (congrArg (fun x : PortsSt => x.ports.get i) (takeFront_only src s .ports rfl))

theorem portStart_waits (h : s.begins .portStart src f none) :
    ∃ t, exec (.portStart src) s = .next t ∧ Only [.ports, .link, .mb] s t
      ∧ ((s.portSt (portOf f.desc)).phase.isStopped = false → t.ports = s.ports ∧ Answered s t src f .stateRefused s.mode.mode.code [])
      ∧ ((s.portSt (portOf f.desc)).phase.isStopped = true → (s.portSt (portOf f.desc)).startAt.isSome = true → t.ports = s.ports ∧ Answered s t src f .resourceBusy 0 [])
      ∧ ((s.portSt (portOf f.desc)).phase.isStopped = true → (s.portSt (portOf f.desc)).startAt = none →
          Waits t src f (.portStart (portOf f.desc) (s.tickOf0 (field f.desc 6 0 48)))
          ∧ t.portSt (portOf f.desc) = { s.portSt (portOf f.desc) with startAt := some (s.tickOf0 (field f.desc 6 0 48) * 100000) }
          ∧ ∀ i, i ≠ (portOf f.desc).key → t.ports.ports.get i = s.ports.ports.get i) := by
  change ∃ t, execPortStart src s = _ ∧ _
  unfold execPortStart
  rw [runCmd_begins h]
  dsimp only
  rw [takeFront_portSt, takeFront_tickOf0, takeFront_only src s .mode rfl]
  cases hstopped : (s.portSt (portOf f.desc)).phase.isStopped with
  | false =>
    obtain ⟨honly, hanswered⟩ := finish_takeFront h.1 .stateRefused s.mode.mode.code
    exact ⟨_, rfl, honly.mono rfl, fun _ => ⟨honly .ports rfl, hanswered⟩, nofun, nofun⟩
  | true =>
    cases hwaits : (s.portSt (portOf f.desc)).startAt with
    | some at_ =>
      obtain ⟨honly, hanswered⟩ := finish_takeFront h.1 .resourceBusy 0
      exact ⟨_, rfl, honly.mono rfl, nofun, fun _ _ => ⟨honly .ports rfl, hanswered⟩, nofun⟩
    | none =>
      obtain ⟨honly, hself, hothers⟩ := await_setPort src f (.portStart (portOf f.desc) (s.tickOf0 (field f.desc 6 0 48))) (portOf f.desc)
        (fun x => { x with startAt := some (s.tickOf0 (field f.desc 6 0 48) * countsPerTick) }) s
      exact ⟨_, rfl, honly, nofun, nofun, fun _ _ => ⟨await_waits _ _ _ _, hself, hothers⟩⟩

theorem portStop_waits (h : s.begins .portStop src f none) :
    ∃ t, exec (.portStop src) s = .next t ∧ Only [.ports, .link, .mb] s t
      ∧ (((s.portSt (portOf f.desc)).phase.isStopped = true ∨ (s.portSt (portOf f.desc)).phase = .postRoll) → t.ports = s.ports ∧ Answered s t src f .stateRefused s.mode.mode.code [])
      ∧ ((s.portSt (portOf f.desc)).phase.isStopped = false → (s.portSt (portOf f.desc)).phase ≠ .postRoll → (s.portSt (portOf f.desc)).stopAt.isSome = true →
          t.ports = s.ports ∧ Answered s t src f .resourceBusy 0 [])
      ∧ ((s.portSt (portOf f.desc)).phase.isStopped = false → (s.portSt (portOf f.desc)).phase ≠ .postRoll → (s.portSt (portOf f.desc)).stopAt = none →
          Waits t src f (.portStop (portOf f.desc) (s.tickOf0 (field f.desc 6 0 48)))
          ∧ t.portSt (portOf f.desc) = { s.portSt (portOf f.desc) with stopAt := some (s.tickOf0 (field f.desc 6 0 48) * 100000) }
          ∧ ∀ i, i ≠ (portOf f.desc).key → t.ports.ports.get i = s.ports.ports.get i) := by
  change ∃ t, execPortStop src s = _ ∧ _
  unfold execPortStop
  rw [runCmd_begins h]
  dsimp only
  rw [takeFront_portSt, takeFront_tickOf0, takeFront_only src s .mode rfl]
  by_cases hstops : (s.portSt (portOf f.desc)).phase.isStopped = true ∨ (s.portSt (portOf f.desc)).phase = .postRoll
  · have hguard : ((s.portSt (portOf f.desc)).phase.isStopped || decide ((s.portSt (portOf f.desc)).phase = .postRoll)) = true := by
      rw [Bool.or_eq_true, decide_eq_true_eq]
      exact hstops
    obtain ⟨honly, hanswered⟩ := finish_takeFront h.1 .stateRefused s.mode.mode.code
    refine ⟨_, congrArg Host.Outcome.next (if_pos hguard), honly.mono rfl, fun _ => ⟨honly .ports rfl, hanswered⟩, fun hno hphase => ?_, fun hno hphase => ?_⟩
    · exact absurd hstops (not_or.mpr ⟨Bool.eq_false_iff.mp hno, hphase⟩)
    · exact absurd hstops (not_or.mpr ⟨Bool.eq_false_iff.mp hno, hphase⟩)
  · have hguard : ¬ ((s.portSt (portOf f.desc)).phase.isStopped || decide ((s.portSt (portOf f.desc)).phase = .postRoll)) = true := by
      rw [Bool.or_eq_true, decide_eq_true_eq]
      exact hstops
    rw [if_neg hguard]
    cases hwaits : (s.portSt (portOf f.desc)).stopAt with
    | some at_ =>
      obtain ⟨honly, hanswered⟩ := finish_takeFront h.1 .resourceBusy 0
      exact ⟨_, rfl, honly.mono rfl, fun hno => absurd hno hstops, fun _ _ _ => ⟨honly .ports rfl, hanswered⟩, fun _ _ => nofun⟩
    | none =>
      obtain ⟨honly, hself, hothers⟩ := await_setPort src f (.portStop (portOf f.desc) (s.tickOf0 (field f.desc 6 0 48))) (portOf f.desc)
        (fun x => { x with stopAt := some (s.tickOf0 (field f.desc 6 0 48) * countsPerTick) }) s
      exact ⟨_, rfl, honly, fun hno => absurd hno hstops, fun _ _ => nofun, fun _ _ _ => ⟨await_waits _ _ _ _, hself, hothers⟩⟩

/-! ### Captures -/

theorem takeFront_captures (src : CmdSrc) (s : State) : (takeFront src s).link.captures = s.link.captures := by
  cases src <;> rfl

theorem finish_captures (src : CmdSrc) (f : Fetched) (st : Status) (r : Nat) (s : State) : (finish src f st r s).link.captures = s.link.captures :=
  complete_captures _ _ _ _ _ _

theorem await_captures (src : CmdSrc) (f : Fetched) (w : Wait) (s : State) : (await src f w s).link.captures = s.link.captures := by
  cases src <;> rfl

theorem completeWait_captures (w : Wait → Bool) (st : Status) (r : Nat) (s : State) : (completeWait w st r s).link.captures = s.link.captures := by
  unfold completeWait
  split
  · exact complete_captures _ _ _ _ _ _
  · rfl

theorem takeFront_captureFits (src : CmdSrc) (s : State) (r : Nat) (x : Capture) : (takeFront src s).captureFits r x = s.captureFits r x := by
  cases src <;> rfl

theorem takeFront_sequence (src : CmdSrc) (s : State) (r : Nat) : ((takeFront src s).link.rings.get r).sequence = (s.link.rings.get r).sequence := by
  cases src with
  | mailbox => rfl
  | ring q =>
    by_cases hr : r = q
    · rw [hr, takeFront, setRing_self]
    · rw [takeFront, setRing_ne _ _ _ hr]

/-- The capture of ring `r` is `x` from here on. -/
def State.setCapture (s : State) (r : Nat) (x : Option Capture) : State := { s with link := { s.link with captures := s.link.captures.set r x } }

theorem setCapture_only (s : State) (r : Nat) (x : Option Capture) : Only [.link] s (s.setCapture r x) := Only.ofMk rfl (Only.refl _ _)

theorem captureStart_waits (h : s.begins .captureStart src f none) :
    ∃ t, exec (.captureStart src) s = .next t ∧ Only [.link, .mb] s t
      ∧ (s.cfg.active.captureOk (captureOf f.desc (s.tickOf0 (field f.desc 8 0 48))) = false → t.link.captures = s.link.captures ∧ Answered s t src f .badParam 6 [])
      ∧ (s.cfg.active.captureOk (captureOf f.desc (s.tickOf0 (field f.desc 8 0 48))) = true →
          s.captureFits (field f.desc 4 0 8) (captureOf f.desc (s.tickOf0 (field f.desc 8 0 48))) = false → t.link.captures = s.link.captures ∧ Answered s t src f .resourceBusy 0 [])
      ∧ (s.cfg.active.captureOk (captureOf f.desc (s.tickOf0 (field f.desc 8 0 48))) = true →
          s.captureFits (field f.desc 4 0 8) (captureOf f.desc (s.tickOf0 (field f.desc 8 0 48))) = true →
          Waits t src f (.capture (field f.desc 4 0 8) (s.tickOf0 (field f.desc 8 0 48)))
          ∧ t.link.captures.get (field f.desc 4 0 8) = some (captureOf f.desc (s.tickOf0 (field f.desc 8 0 48)))
          ∧ ∀ i, i ≠ field f.desc 4 0 8 → t.link.captures.get i = s.link.captures.get i) := by
  change ∃ t, execCaptureStart src s = _ ∧ _
  unfold execCaptureStart
  rw [runCmd_begins h]
  dsimp only
  rw [takeFront_cfg, takeFront_tickOf0, takeFront_captureFits]
  cases hok : s.cfg.active.captureOk (captureOf f.desc (s.tickOf0 (field f.desc 8 0 48))) with
  | false =>
    obtain ⟨honly, hanswered⟩ := finish_takeFront h.1 .badParam 6
    exact ⟨_, rfl, honly, fun _ => ⟨(finish_captures _ _ _ _ _).trans (takeFront_captures _ _), hanswered⟩, nofun, nofun⟩
  | true =>
    cases hfits : s.captureFits (field f.desc 4 0 8) (captureOf f.desc (s.tickOf0 (field f.desc 8 0 48))) with
    | false =>
      obtain ⟨honly, hanswered⟩ := finish_takeFront h.1 .resourceBusy 0
      exact ⟨_, rfl, honly, nofun, fun _ _ => ⟨(finish_captures _ _ _ _ _).trans (takeFront_captures _ _), hanswered⟩, nofun⟩
    | true =>
      obtain ⟨x, hx⟩ : ∃ x, x = captureOf f.desc (s.tickOf0 (field f.desc 8 0 48)) := ⟨_, rfl⟩
      obtain ⟨r, hr⟩ : ∃ r, r = field f.desc 4 0 8 := ⟨_, rfl⟩
      rw [← hx, ← hr]
      refine ⟨await src f (.capture r (s.tickOf0 (field f.desc 8 0 48))) ((takeFront src s).setCapture r (some x)), by rw [← takeFront_cfg src s]; rfl, ?_, nofun, nofun, fun _ _ => ⟨await_waits _ _ _ _, ?_, fun i hi => ?_⟩⟩
      · exact (takeFront_only src s).trans (((setCapture_only _ _ _).mono rfl).trans (await_only _ _ _ _))
      · rw [await_captures]
        exact Tbl.get_set_self _ _ _
      · rw [await_captures]
        exact (Tbl.get_set_of_ne _ hi _).trans (congrArg (Tbl.get · i) (takeFront_captures src s))

end

theorem endCapture_ends {s : State} {r : Nat} {x : Capture} (hget : s.link.captures.get r = some x) :
    endCapture r s = raise .captureEnded x.die [.w r, .w x.kind.sourceType, .w x.source, .q ((s.link.rings.get r).sequence - 1).toNat] (s.setCapture r none) := by
  unfold endCapture
  rw [hget]
  rfl

theorem endCapture_captures {s : State} {r : Nat} {x : Capture} (hget : s.link.captures.get r = some x) : (endCapture r s).link.captures = s.link.captures.set r none := by
  rw [endCapture_ends hget, raise_captures]
  rfl

theorem captureStartTick_begins {s : State} {r : Nat} {x : Capture} (hget : s.link.captures.get r = some x) (hstarted : x.started = false)
    (hnow : x.tick * 100000 ≤ s.now) :
    ∃ t, exec (.captureStartTick r) s = .next t ∧ Only [.link, .integ, .mb, .sec] s t
      ∧ (s.cfg.active.captureOk x = true → t.link.captures.get r = some { x with started := true, edges := (s.clk.get x.die).edges })
      ∧ (s.cfg.active.captureOk x = false → t.link.captures.get r = none)
      ∧ ∀ i, i ≠ r → t.link.captures.get i = s.link.captures.get i := by
  have hguard : (!x.started && decide (x.tick * countsPerTick ≤ s.now)) = true := by
    have hnow' : decide (x.tick * countsPerTick ≤ s.now) = true := decide_eq_true hnow
    rw [hstarted, hnow']
    rfl
  obtain ⟨u, hu⟩ : ∃ u, u = completeWait (fun w => w = .capture r x.tick) .ok x.tick (s.setCapture r (some { x with started := true, edges := (s.clk.get x.die).edges })) := ⟨_, rfl⟩
  have hrun : exec (.captureStartTick r) s = .next (if u.cfg.active.captureOk x then u else endCapture r u) := by
    change execCaptureStartTick r s = _
    unfold execCaptureStartTick
    rw [hget, hu]
    exact onlyIf_of_true hguard
  have hself : u.link.captures.get r = some { x with started := true, edges := (s.clk.get x.die).edges } := by
    rw [hu, completeWait_captures]
    exact Tbl.get_set_self _ _ _
  have hothers : ∀ i, i ≠ r → u.link.captures.get i = s.link.captures.get i := fun i hi => by
    rw [hu, completeWait_captures]
    exact Tbl.get_set_of_ne _ hi _
  have hcfg : u.cfg = s.cfg := by
    rw [hu]
    exact completeWait_only _ _ _ _ .cfg rfl
  refine ⟨_, hrun, (execCaptureStartTick_frames r s).onlyOf hrun, fun hok => ?_, fun hok => ?_, fun i hi => ?_⟩
  · rw [hcfg, hok]
    exact hself
  · rw [hcfg, hok]
    exact (congrArg (Tbl.get · r) (endCapture_captures hself)).trans (Tbl.get_set_self _ _ _)
  · split
    · exact hothers i hi
    · exact ((congrArg (Tbl.get · i) (endCapture_captures hself)).trans (Tbl.get_set_of_ne _ hi _)).trans (hothers i hi)

theorem captureStop_ends {s : State} {src : CmdSrc} {f : Fetched} {x : Capture} (h : s.begins .captureStop src f none)
    (hget : s.link.captures.get (field f.desc 4 0 8) = some x) (hstarted : x.started = true) :
    ∃ t, exec (.captureStop src) s = .next t ∧ Only [.link, .integ, .mb, .sec] s t ∧ t.link.captures.get (field f.desc 4 0 8) = none
      ∧ (∀ i, i ≠ field f.desc 4 0 8 → t.link.captures.get i = s.link.captures.get i)
      ∧ Answered s t src f .ok ((s.link.rings.get (field f.desc 4 0 8)).sequence - 1).toNat []
      ∧ Raises s t .captureEnded x.die [.w (field f.desc 4 0 8), .w x.kind.sourceType, .w x.source, .q ((s.link.rings.get (field f.desc 4 0 8)).sequence - 1).toNat] := by
  obtain ⟨r, hr⟩ : ∃ r, r = field f.desc 4 0 8 := ⟨_, rfl⟩
  rw [← hr] at hget ⊢
  have hfront : (takeFront src s).link.captures.get r = some x := (congrArg (Tbl.get · r) (takeFront_captures src s)).trans hget
  have hsequence : ((takeFront src s).link.rings.get r).sequence = (s.link.rings.get r).sequence := takeFront_sequence src s r
  have hrun : exec (.captureStop src) s = .next (finish src f .ok ((s.link.rings.get r).sequence - 1).toNat (endCapture r (takeFront src s))) := by
    change execCaptureStop src s = _
    unfold execCaptureStop
    rw [runCmd_begins h]
    dsimp only
    rw [← hr, hfront, hsequence, if_pos]
    exact hstarted
  have hended := endCapture_ends hfront
  have hcaptures : (finish src f .ok ((s.link.rings.get r).sequence - 1).toNat (endCapture r (takeFront src s))).link.captures = s.link.captures.set r none := by
    rw [finish_captures, endCapture_captures hfront, takeFront_captures]
  refine ⟨_, hrun, ?_, ?_, fun i hi => ?_, ?_, ?_⟩
  · exact ((takeFront_only src s).mono rfl).trans (((endCapture_only _ _).mono rfl).trans ((finish_only _ _ _ _ _).mono rfl))
  · rw [hcaptures]
    exact Tbl.get_set_self _ _ _
  · rw [hcaptures]
    exact Tbl.get_set_of_ne _ hi _
  · refine answered_of_begins h .ok _ _ ?_ ?_
    · rw [hended, raise_sent]
      rfl
    · rw [hended, raise_rings]
      rfl
  · rw [hended, hsequence]
    exact Raises.andThen (finish_only _ _ _ _ _) rfl (Raises.raise ((takeFront_only src s).trans ((setCapture_only _ _ _).mono rfl)) rfl rfl _ _ _)

/-- Settles O47: the port commands by their phase and what waits, the captures by the one table that they change. -/
theorem portAndCaptureCommands : Obligations.PortAndCaptureCommands :=
  ⟨fun _ _ _ => portStart_waits, fun _ _ _ => portStop_waits, fun _ _ _ => captureStart_waits, fun _ _ _ => captureStartTick_begins, fun _ _ _ _ => captureStop_ends⟩

end Sys2Proof.Machine
end

section
/-!
PROOFS. Calibration commands and stores (03 R72, 12 R349, R350, R352, R354, R355, R357).
-/
namespace Sys2Proof.Machine

/-! ### CAL_START and CAL_QUERY -/

/-- What has been sent and every ring stay. -/
structure QueuesKept (s t : State) : Prop where
  sent : t.link.sent = s.link.sent
  rings : t.link.rings = s.link.rings

theorem QueuesKept.of_link {s t : State} (h : t.link = s.link) : QueuesKept s t := ⟨congrArg LinkSt.sent h, congrArg LinkSt.rings h⟩

theorem QueuesKept.trans {s t u : State} (h : QueuesKept s t) (k : QueuesKept t u) : QueuesKept s u := ⟨k.sent.trans h.sent, k.rings.trans h.rings⟩

theorem QueuesKept.answered {s u : State} {c : Cmd} {src : CmdSrc} {f : Fetched} {buf : Option (List Byte)} (h : s.begins c src f buf) (k : QueuesKept (takeFront src s) u) (st : Status) (r : Nat) :
    Answered s (finish src f st r u) src f st r [] :=
  answered_of_begins h st r u k.sent k.rings

theorem raise_queues (n : EvName) (o : Nat) (args : List EvArg) (s : State) : QueuesKept s (raise n o args s) := ⟨raise_sent _ _ _ _, raise_rings _ _ _ _⟩

theorem noteReach_queues (n : Nat) (s : State) : QueuesKept s (noteReach n s) := by
  unfold noteReach
  split
  · exact ⟨rfl, rfl⟩
  · split
    · exact ⟨rfl, rfl⟩
    · exact ⟨raise_sent _ _ _ _, raise_rings _ _ _ _⟩

theorem noteReach_unreachable {s : State} {n : Nat} (h : s.levelReachable n = false) : (noteReach n s).cal.unreachable.contains n = true := by
  unfold noteReach
  rw [h]
  cases hnoted : s.cal.unreachable.contains n with
  | true => exact hnoted
  | false =>
    rw [if_neg Bool.false_ne_true, if_neg Bool.false_ne_true, raise_cal]
    dsimp only
    rw [List.contains_iff_mem]
    exact List.mem_append_right _ (List.mem_singleton.mpr rfl)

theorem noteReach_reachable {s : State} {n : Nat} (h : s.levelReachable n = true) : (noteReach n s).cal.unreachable.contains n = false := by
  unfold noteReach
  rw [if_pos h, ← Bool.not_eq_true, List.contains_iff_mem]
  exact fun hmem => absurd (List.mem_filter.mp hmem).2 (by rw [bne_self_eq_false]; exact Bool.false_ne_true)

theorem takeFront_taskAge (src : CmdSrc) (s : State) (t : Task) : (takeFront src s).taskAge t = s.taskAge t := by
  cases src <;> rfl

theorem calStart_starts {s : State} {src : CmdSrc} {f : Fetched} (h : s.begins .calStart src f none) :
    ∃ t, exec (.calStart src) s = .next t ∧ Only [.spans, .lanes, .link, .cal, .integ, .mode, .mb, .sec, .modeCode] s t
      ∧ (field f.desc 4 0 8 = 0 → (takeFront src s).levelReachable (field f.desc 6 0 16) = false →
          Answered s t src f .resourceBusy 0 [] ∧ t.cal.unreachable.contains (field f.desc 6 0 16) = true)
      ∧ (field f.desc 4 0 8 = 0 → (takeFront src s).levelReachable (field f.desc 6 0 16) = true → Waits t src f (.level (field f.desc 6 0 16)))
      ∧ (field f.desc 4 0 8 ≠ 0 → Waits t src f (.monitor (field f.desc 6 0 16))
          ∧ (s.taskAge (.monitor (field f.desc 6 0 16)) ≠ 2 → Raises s t .calOverdue (field f.desc 6 0 16) [.w (4 : Nat), .w (field f.desc 6 0 16)])) := by
  obtain ⟨i, hi⟩ : ∃ i, i = field f.desc 6 0 16 := ⟨_, rfl⟩
  rw [← hi]
  suffices hrun : ∃ t, execCalStart src s = .next t
      ∧ (field f.desc 4 0 8 = 0 → (takeFront src s).levelReachable i = false → Answered s t src f .resourceBusy 0 [] ∧ t.cal.unreachable.contains i = true)
      ∧ (field f.desc 4 0 8 = 0 → (takeFront src s).levelReachable i = true → Waits t src f (.level i))
      ∧ (field f.desc 4 0 8 ≠ 0 → Waits t src f (.monitor i) ∧ (s.taskAge (.monitor i) ≠ 2 → Raises s t .calOverdue i [.w (4 : Nat), .w i])) by
    obtain ⟨t, hrun, hclauses⟩ := hrun
    exact ⟨t, hrun, (execCalStart_frames src s).onlyOf hrun, hclauses⟩
  unfold execCalStart
  rw [runCmd_begins h]
  dsimp only
  rw [← hi, takeFront_taskAge]
  by_cases hitem : field f.desc 4 0 8 = 0
  · rw [if_pos hitem]
    cases hreach : (takeFront src s).levelReachable i with
    | false =>
      have hnoted := noteReach_unreachable hreach
      refine ⟨finish src f .resourceBusy 0 (noteReach i (takeFront src s)), by rw [if_pos hnoted], fun _ _ => ⟨(noteReach_queues _ _).answered h _ _, ?_⟩, fun _ => nofun,
        fun hno => absurd hitem hno⟩
      rw [finish_only _ _ _ _ _ .cal rfl]
      exact hnoted
    | true =>
      have hnoted := noteReach_reachable hreach
      rw [hnoted]
      exact ⟨_, rfl, fun _ => nofun, fun _ _ => await_waits _ _ _ _, fun hno => absurd hitem hno⟩
  · rw [if_neg hitem]
    refine ⟨_, rfl, fun hyes => absurd hyes hitem, fun hyes => absurd hyes hitem, fun _ => ⟨await_waits _ _ _ _, fun hage => ?_⟩⟩
    rw [if_neg hage]
    exact Raises.andThen (await_only _ _ _ _) rfl (calOverdue_taskOverdue _ _ _ (Raises.raise (takeFront_only src s) rfl rfl _ _ _))

theorem takeFront_calRecord (src : CmdSrc) (s : State) (item index : Nat) : (takeFront src s).calRecord item index = s.calRecord item index := by
  cases src <;> rfl

theorem calQuery_writes {s : State} {src : CmdSrc} {f : Fetched} (h : s.begins .calQuery src f none) :
    ∃ t, exec (.calQuery src) s = .next t ∧ Only [.link, .mb] s t ∧ Outputs s t src f (s.calRecord (field f.desc 4 0 8) (field f.desc 6 0 16)) := by
  have hrun : exec (.calQuery src) s = .next (finishOutput src f ((takeFront src s).calRecord (field f.desc 4 0 8) (field f.desc 6 0 16)) (takeFront src s)) :=
    runCmd_begins h fun f s => finishOutput src f (s.calRecord (field f.desc 4 0 8) (field f.desc 6 0 16)) s
  exact ⟨_, hrun, (takeFront_only src s).trans (finishOutput_only _ _ _ _), outputs_of_begins h (takeFront_calRecord src s _ _)⟩

/-! ### The store -/

theorem beginStore_coefs (a : Bool) (s : State) : (beginStore a s).cal.coefs = s.cal.coefs := rfl

theorem calStore_begins {s : State} {src : CmdSrc} {f : Fetched} (h : s.begins .calStore src f none) :
    ∃ t, exec (.calStore src) s = .next t ∧ Only [.link, .cal, .mb, .nv] s t ∧ t.cal.coefs = s.cal.coefs
      ∧ (s.cal.store = none → Waits t src f .calStore
          ∧ ∃ st, t.cal.store = some st ∧ st.seq = s.cal.storeSeq + 1 ∧ st.snap = ⟨s.cal.coefs, s.cal.items⟩ ∧ st.automatic = false ∧ (t.nv.calSlot (st.slot == 1)).valid = false
            ∧ t.nv.calSlot (st.slot != 1) = s.nv.calSlot (st.slot != 1))
      ∧ (∀ st, s.cal.store = some st → st.automatic = true → st.again = false → Waits t src f .calStore ∧ t.cal = { s.cal with store := some { st with again := true } } ∧ t.nv = s.nv)
      ∧ (∀ st, s.cal.store = some st → (st.automatic = false ∨ st.again = true) → Answered s t src f .resourceBusy 0 [] ∧ t.cal = s.cal ∧ t.nv = s.nv) := by
  have hfront := takeFront_only src s
  have hcal : (takeFront src s).cal = s.cal := hfront .cal rfl
  have hnv : (takeFront src s).nv = s.nv := hfront .nv rfl
  change ∃ t, execCalStore src s = _ ∧ _
  unfold execCalStore
  rw [runCmd_begins h]
  dsimp only
  cases hstore : s.cal.store with
  | none =>
    have hnone : (takeFront src s).cal.store = none := (congrArg CalSt.store hcal).trans hstore
    rw [hnone]
    have hkept := await_only src f .calStore (beginStore false (takeFront src s))
    obtain ⟨st, hst, hseq, hsnap, hauto, hvalid, hother⟩ := beginStore_facts false (takeFront src s)
    refine ⟨await src f .calStore (beginStore false (takeFront src s)), rfl, (hfront.mono rfl).trans (((beginStore_only _ _).mono rfl).trans (hkept.mono rfl)), ?_, fun _ => ⟨await_waits _ _ _ _, st, ?_, ?_, ?_, hauto, ?_, ?_⟩, fun _ hno => (nomatch hno), fun _ hno => (nomatch hno)⟩
    · rw [hkept .cal rfl, beginStore_coefs, hcal]
    · rw [hkept .cal rfl, hst]
    · rw [hseq, hcal]
    · rw [hsnap, hcal]
    · rw [hkept .nv rfl, hvalid]
    · rw [hkept .nv rfl, hother, hnv]
  | some st =>
    have hsome : (takeFront src s).cal.store = some st := (congrArg CalSt.store hcal).trans hstore
    rw [hsome]
    dsimp only
    by_cases hfree : st.automatic = true ∧ st.again = false
    · have hguard : (st.automatic && !st.again) = true := by
        rw [hfree.1, hfree.2]
        rfl
      rw [if_pos hguard, hcal]
      obtain ⟨v, hv⟩ : ∃ v : State, v = { takeFront src s with cal := { s.cal with store := some { st with again := true } } } := ⟨_, rfl⟩
      have hmarked : Only [.cal] (takeFront src s) v := hv ▸ Only.ofMk rfl (Only.refl _ _) (k_levelInterval := fun _ => (congrArg CalSt.levelInterval hcal.symm : s.cal.levelInterval = _))
      have hvcal : v.cal = { s.cal with store := some { st with again := true } } := by rw [hv]
      have hkept := await_only src f .calStore v
      refine ⟨await src f .calStore v, by rw [hv], (hfront.mono rfl).trans ((hmarked.mono rfl).trans (hkept.mono rfl)), ?_, fun hno => (nomatch hno), ?_, ?_⟩
      · rw [hkept .cal rfl, hvcal]
      · rintro _ ⟨rfl⟩ _ _
        exact ⟨await_waits _ _ _ _, (hkept .cal rfl).trans hvcal, ((hkept .nv rfl).trans (hmarked .nv rfl)).trans hnv⟩
      · rintro _ ⟨rfl⟩ hbusy
        rw [hfree.1, hfree.2] at hbusy
        exact absurd hbusy (by decide)
    · have hguard : ¬ (st.automatic && !st.again) = true := by
        rw [Bool.and_eq_true, Bool.not_eq_true']
        exact hfree
      rw [if_neg hguard]
      obtain ⟨honly, hanswered⟩ := finish_takeFront h.1 .resourceBusy 0
      refine ⟨_, rfl, honly.mono rfl, congrArg CalSt.coefs (honly .cal rfl), nofun, ?_, ?_⟩
      · rintro _ ⟨rfl⟩ hauto hagain
        exact absurd ⟨hauto, hagain⟩ hfree
      · rintro _ ⟨rfl⟩ _
        exact ⟨hanswered, honly .cal rfl, honly .nv rfl⟩

/-- The state once a slot is read back well: the store is in force and nothing is left of the last flash fault of its area. -/
def storeWritten (st : StoreSt) (s : State) : State :=
  { s with
    cal := { s.cal with store := none, storeSlot := st.slot, storeValid := true, storeSeq := st.seq, unsavedSince := st.changed }
    nv := s.nv.setCalSlot (st.slot == 1) ⟨st.seq, true, st.snap⟩
    integ := { s.integ with flashFaults := s.integ.flashFaults.filter (· != .calibration) } }

theorem storeWritten_only (st : StoreSt) (s : State) : Only [.cal, .nv, .integ] s (storeWritten st s) := by
  refine Only.ofMk rfl (Only.refl _ _) (k_otp := fun _ => ?_) (k_retirement := fun _ u h => ?_) (k_firmware := fun _ => ?_)
  · rw [(NvSt.setCalSlot_keeps _ _ _).1]
    exact OtpKept.refl _
  · rw [(NvSt.setCalSlot_keeps _ _ _).2]
    exact h
  · rw [(NvSt.setCalSlot_keeps _ _ _).1]
    exact ⟨rfl, rfl, rfl⟩

/-- A state after a store that ends, with what waits for it answered if nothing is begun again. -/
theorem storeEnd_only (automatic : Bool) (w : Wait → Bool) (st : Status) (r : Nat) (s : State) : Only [.link, .mb] s (if automatic then s else completeWait w st r s) :=
  Only.ite (Only.refl _ _) (completeWait_only _ _ _ _)

theorem calStoreWriteDone_ends {s : State} {ok : Bool} {st : StoreSt} (hstore : s.cal.store = some st) (hagain : st.again = false) :
    ∃ t, exec (.calStoreWriteDone ok) s = .next t ∧ Only [.spans, .link, .cal, .integ, .mode, .mb, .sec, .nv, .modeCode] s t ∧ t.cal.coefs = s.cal.coefs
      ∧ (ok = true → t.nv = s.nv.setCalSlot (st.slot == 1) ⟨st.seq, true, st.snap⟩ ∧ t.cal.store = none ∧ t.cal.storeValid = true ∧ t.cal.storeSlot = st.slot ∧ t.cal.storeSeq = st.seq
          ∧ t.cal.unsavedSince = st.changed ∧ Raises s t .calStored pkg [.w st.slot, .w st.seq.toNat, .w (b2n (!st.automatic))])
      ∧ (ok = false → st.rewritten = false → t.cal = { s.cal with store := some { st with rewritten := true } } ∧ t.nv = s.nv ∧ t.link = s.link)
      ∧ (ok = false → st.rewritten = true → t.cal.store = none ∧ t.nv = s.nv ∧ Raises s t .calStoreFailed pkg [.w st.slot]) := by
  suffices hrun : ∃ t, execCalStoreWriteDone ok s = .next t ∧ t.cal.coefs = s.cal.coefs
      ∧ (ok = true → t.nv = s.nv.setCalSlot (st.slot == 1) ⟨st.seq, true, st.snap⟩ ∧ t.cal.store = none ∧ t.cal.storeValid = true ∧ t.cal.storeSlot = st.slot ∧ t.cal.storeSeq = st.seq
          ∧ t.cal.unsavedSince = st.changed ∧ Raises s t .calStored pkg [.w st.slot, .w st.seq.toNat, .w (b2n (!st.automatic))])
      ∧ (ok = false → st.rewritten = false → t.cal = { s.cal with store := some { st with rewritten := true } } ∧ t.nv = s.nv ∧ t.link = s.link)
      ∧ (ok = false → st.rewritten = true → t.cal.store = none ∧ t.nv = s.nv ∧ Raises s t .calStoreFailed pkg [.w st.slot]) by
    obtain ⟨t, hrun, hclauses⟩ := hrun
    exact ⟨t, hrun, (execCalStoreWriteDone_frames ok s).onlyOf hrun, hclauses⟩
  unfold execCalStoreWriteDone
  rw [hstore]
  dsimp only
  rw [hagain]
  cases ok with
  | true =>
    obtain ⟨u, hu⟩ : ∃ u, u = refresh (taskNormal .store (raise .calStored pkg [.w st.slot, .w st.seq.toNat, .w (b2n (!st.automatic))] (storeWritten st s))) := ⟨_, rfl⟩
    have hkept : Only [.spans, .link, .integ, .mode, .sec, .mb, .modeCode] (storeWritten st s) (if st.automatic then u else completeWait (fun x => decide (x = .calStore)) .ok st.seq.toNat u) := by
      rw [hu]
      exact (((raise_only _ _ _ _).mono rfl).trans (((taskNormal_only _ _).mono rfl).trans ((refresh_only _).mono rfl))).trans ((storeEnd_only _ _ _ _ _).mono rfl)
    have hraises : Raises s u .calStored pkg [.w st.slot, .w st.seq.toNat, .w (b2n (!st.automatic))] := by
      rw [hu]
      exact Raises.andThen (refresh_only _) rfl (Raises.andThen (taskNormal_only _ _) rfl (Raises.raise (storeWritten_only st s) rfl rfl _ _ _))
    have hcal := hkept .cal rfl
    refine ⟨if st.automatic then u else completeWait (fun x => decide (x = .calStore)) .ok st.seq.toNat u, by rw [hu]; rfl, ?_,
      fun _ => ⟨hkept .nv rfl, ?_, ?_, ?_, ?_, ?_, Raises.andThen (storeEnd_only _ _ _ _ _) rfl hraises⟩, nofun, nofun⟩ <;> rw [hcal] <;> rfl
  | false =>
    cases hrewritten : st.rewritten with
    | false => exact ⟨_, rfl, rfl, nofun, fun _ _ => ⟨rfl, rfl, rfl⟩, fun _ => nofun⟩
    | true =>
      obtain ⟨v, hv⟩ : ∃ v : State, v = { s with cal := { s.cal with store := none } } := ⟨_, rfl⟩
      have hfreed : Only [.cal] s v := hv ▸ Only.ofMk rfl (Only.refl _ _)
      obtain ⟨u, hu⟩ : ∃ u, u = refresh (flashFault .calibration (raise .calStoreFailed pkg [.w st.slot] v)) := ⟨_, rfl⟩
      have hkept : Only [.spans, .link, .integ, .mode, .sec, .mb, .modeCode] v (if st.automatic then u else completeWait (fun x => decide (x = .calStore)) .timeout 0xFF u) := by
        rw [hu]
        exact (((raise_only _ _ _ _).mono rfl).trans (((flashFault_only _ _).mono rfl).trans ((refresh_only _).mono rfl))).trans ((storeEnd_only _ _ _ _ _).mono rfl)
      have hraises : Raises s u .calStoreFailed pkg [.w st.slot] := by
        rw [hu]
        exact Raises.andThen (refresh_only _) rfl (Raises.andThen (flashFault_only _ _) rfl (Raises.raise hfreed rfl rfl _ _ _))
      refine ⟨if st.automatic then u else completeWait (fun x => decide (x = .calStore)) .timeout 0xFF u, by rw [hu, hv]; rfl, ?_, nofun, fun _ => nofun,
        fun _ _ => ⟨?_, (hkept .nv rfl).trans (hfreed .nv rfl), Raises.andThen (storeEnd_only _ _ _ _ _) rfl hraises⟩⟩
      · rw [hkept .cal rfl, hv]
      · rw [hkept .cal rfl, hv]

theorem autoStore_begins {s : State} {since : Nat} (hauto : s.cal.autoStore = true) (hunsaved : s.cal.unsavedSince = some since)
    (hnow : since + 86400 * 100000000 ≤ s.now) (hstore : s.cal.store = none) (hoff : s.mode.mode ≠ .off) (hboot : s.mode.mode ≠ .boot)
    (hrecovery : s.mode.mode ≠ .recovery) (hhalted : s.mode.mode ≠ .halted) :
    ∃ t, exec .autoStore s = .next t ∧ Only [.cal, .nv] s t ∧ t.cal.coefs = s.cal.coefs ∧ ∃ st, t.cal.store = some st ∧ st.automatic = true ∧ st.seq = s.cal.storeSeq + 1 ∧ st.snap = ⟨s.cal.coefs, s.cal.items⟩ := by
  have hnow' : decide (since + 86400 * countsPerSecond ≤ s.now) = true := decide_eq_true hnow
  have hrun : exec .autoStore s = .next (beginStore true s) := by
    change execAutoStore s = _
    unfold execAutoStore
    dsimp only
    rw [hunsaved]
    refine onlyIf_of_true ?_
    dsimp only
    rw [hauto, hnow', hstore, bne_off_of_ne hoff, bne_iff_ne.mpr hboot, bne_iff_ne.mpr hrecovery, bne_iff_ne.mpr hhalted]
    rfl
  obtain ⟨st, hst, hseq, hsnap, hautomatic, -, -⟩ := beginStore_facts true s
  exact ⟨_, hrun, beginStore_only _ _, rfl, st, hst, hautomatic, hseq, hsnap⟩

/-! ### SYSCAL_STEP -/

theorem foldl_setInject_off (n : Nat) : ∀ (l : List Nat) (s : State), n ∈ l ∨ (s.front.courses.get n).inject = 0 →
    ((l.foldl (fun acc k => setInject k 0 acc) s).front.courses.get n).inject = 0
  | [], s, h => h.resolve_left (List.not_mem_nil)
  | k :: l, s, h => by
    refine foldl_setInject_off n l _ ?_
    by_cases hn : n = k
    · right
      rw [hn]
      exact congrArg Course.inject (setCourse_self s k _)
    · refine h.imp (fun hmem => (List.mem_cons.mp hmem).resolve_left hn) fun hzero => ?_
      exact (congrArg Course.inject (Tbl.get_modify_of_ne s.front.courses hn _)).trans hzero

theorem injectOff_off (s : State) {n : Nat} (hn : n < s.dies) : ((injectOff s).front.courses.get n).inject = 0 :=
  foldl_setInject_off n _ s (.inl (List.mem_range.mpr hn))

theorem setGainSteps_queues (n : Nat) (c : GainStepCoef) (s : State) : QueuesKept s (setGainSteps n c s) := ⟨rfl, rfl⟩

theorem gainSteps_queues {n : Nat} {rs : List ToneRead} {delay : Int} {s : State} {c : Int} {t : State} (h : gainSteps n rs delay s = .sets c t) : QueuesKept s t := by
  unfold gainSteps at h
  dsimp only at h
  repeat' split at h
  all_goals simp only [StepEnd.sets.injEq, reduceCtorEq] at h
  rw [← h.2]
  exact (setGainSteps_queues _ _ _).trans (.of_link (stepDone_only _ _ _ .link rfl))

/-- A step that succeeds sends nothing and leaves every ring. -/
theorem sysStep_queues {step target a : Nat} {b : Int} {m : SyscalMeas} {s : State} {c : Int} {t : State} (h : sysStep step target a b m s = .sets c t) : QueuesKept s t := by
  unfold sysStep at h
  extract_lets r ka kb both at h
  split at h
  · exact .of_link (antDirect_only (State.withTone_sets h) .link rfl)
  · exact .of_link (through_only (State.withTone_sets h) .link rfl)
  · exact .of_link (throughTransfer_only (State.withTone_sets h) .link rfl)
  · exact .of_link (coupling_only (State.withTone_sets h) .link rfl)
  · exact gainSteps_queues (State.withTone_sets h)
  · exact .of_link (pathTrim_only (State.withTone_sets h) .link rfl)
  · exact .of_link (auxZero_only h .link rfl)
  · exact .of_link (auxFull_only h .link rfl)

section
variable {s u : State} {src : CmdSrc} {f : Fetched}

theorem injecting_only (step target : Nat) (src : CmdSrc) (s : State) : Only [.front, .link, .mb] s (injectFor step target (takeFront src s)) :=
  ((takeFront_only src s).mono rfl).trans ((injectFor_only _ _ _).mono rfl)

theorem injecting_queues (step target : Nat) (src : CmdSrc) (s : State) : QueuesKept (takeFront src s) (injectFor step target (takeFront src s)) :=
  .of_link (injectFor_only _ _ _ .link rfl)

theorem finish_inject (src : CmdSrc) (f : Fetched) (st : Status) (r : Nat) (v : State) {n : Nat} (hn : n < v.dies) : ((finish src f st r (injectOff v)).front.courses.get n).inject = 0 := by
  rw [finish_only _ _ _ _ _ .front rfl]
  exact injectOff_off v hn

theorem calFailed_item (item index reason : Nat) (s : State) : (calFailed item index reason s).cal.items.get (item * 16 + index) =
    { s.cal.items.get (item * 16 + index) with lastFail := reason, failCount := satInc (s.cal.items.get (item * 16 + index)).failCount } :=
  Tbl.get_modify_self _ _ _

/-- A step that ends without success: its injection is Off, its command answered; of `cal` and `mon` what `v` has. -/
theorem stepFailed_facts {step target : Nat} {v : State} {as : List Aspect} (h : s.begins .syscalStep src f none) (hu : u = injectFor step target (takeFront src s))
    (hv : Only as u v) (hpart : as.contains .part = false) (hlink : as.contains .link = false) (st : Status) (r : Nat) :
    (∀ n, n < s.dies → ((finish src f st r (injectOff v)).front.courses.get n).inject = 0) ∧ Answered s (finish src f st r (injectOff v)) src f st r []
      ∧ (finish src f st r (injectOff v)).cal = v.cal ∧ (finish src f st r (injectOff v)).mon = v.mon := by
  have hdies : v.dies = s.dies := congrArg Part.dies ((hv .part hpart).trans (hu ▸ injecting_only step target src s .part rfl))
  refine ⟨fun n hn => finish_inject _ _ _ _ _ (by rw [hdies]; exact hn), ?_, ?_, ?_⟩
  · exact ((hu ▸ injecting_queues step target src s : QueuesKept (takeFront src s) u).trans (.of_link ((injectOff_only v .link rfl).trans (hv .link hlink)))).answered h st r
  · exact (finish_only _ _ _ _ _ .cal rfl).trans (injectOff_only v .cal rfl)
  · exact (finish_only _ _ _ _ _ .mon rfl).trans (injectOff_only v .mon rfl)

theorem syscalStep_steps {m : SyscalMeas} {e : StepEnd} (h : s.begins .syscalStep src f none)
    (hu : u = injectFor (field f.desc 4 0 8) (field f.desc 5 0 8) (takeFront src s))
    (he : e = sysStep (field f.desc 4 0 8) (field f.desc 5 0 8) (field f.desc 8 0 32) (sfield f.desc 12 0 32) m u) :
    ∃ t, exec (.syscalStep src (some m)) s = .next t ∧ Only [.spans, .front, .taps, .lanes, .link, .cal, .mon, .integ, .mode, .mb, .sec, .freeCount, .modeCode] s t
      ∧ (∀ n, n < s.dies → (t.front.courses.get n).inject = 0)
      ∧ (∀ reason dev, e = .fails reason dev → Answered s t src f .calImplausible (implausible dev reason) [] ∧ t.cal.coefs = s.cal.coefs ∧ t.mon = s.mon
          ∧ t.cal.items.get ((stepItem (field f.desc 4 0 8) (field f.desc 5 0 8)).1 * 16 + (stepItem (field f.desc 4 0 8) (field f.desc 5 0 8)).2)
            = { s.cal.items.get ((stepItem (field f.desc 4 0 8) (field f.desc 5 0 8)).1 * 16 + (stepItem (field f.desc 4 0 8) (field f.desc 5 0 8)).2) with
                lastFail := reason
                failCount := satInc (s.cal.items.get ((stepItem (field f.desc 4 0 8) (field f.desc 5 0 8)).1 * 16 + (stepItem (field f.desc 4 0 8) (field f.desc 5 0 8)).2)).failCount })
      ∧ (e = .failsDelay → Answered s t src f .calImplausible (implausible u.freeNat 2) [] ∧ t.cal.coefs = s.cal.coefs ∧ t.mon = s.mon)
      ∧ (∀ change v, e = .sets change v →
          Answered s t src f .ok (sysResult change (v.calCount (stepItem (field f.desc 4 0 8) (field f.desc 5 0 8)).1 (stepItem (field f.desc 4 0 8) (field f.desc 5 0 8)).2)) []
          ∧ t.cal = v.cal ∧ t.mon = v.mon) := by
  have hframes := execSyscalStep_frames src (some m) s
  have hinjecting : Only [.front, .link, .mb] s u := hu ▸ injecting_only _ _ src s
  have hcal : u.cal = s.cal := hinjecting .cal rfl
  have hmon : u.mon = s.mon := hinjecting .mon rfl
  change ∃ t, execSyscalStep src (some m) s = _ ∧ _
  unfold execSyscalStep at hframes ⊢
  rw [runCmd_begins h] at hframes ⊢
  dsimp only at hframes ⊢
  rw [← hu, ← he] at hframes ⊢
  cases hend : e with
  | fails reason dev =>
    rw [hend] at hframes
    obtain ⟨hoff, hanswered, htcal, htmon⟩ := stepFailed_facts h hu (calFailed_only _ _ reason u) rfl rfl .calImplausible (implausible dev reason)
    refine ⟨_, rfl, hframes.onlyOf rfl, hoff, ?_, fun hno => (nomatch hno), fun _ _ hno => (nomatch hno)⟩
    rintro _ _ ⟨rfl, rfl⟩
    refine ⟨hanswered, ?_, htmon.trans hmon, ?_⟩
    · rw [htcal]
      exact (congrArg CalSt.coefs hcal : u.cal.coefs = _)
    · rw [htcal, calFailed_item, hcal]
  | failsDelay =>
    rw [hend] at hframes
    obtain ⟨hoff, hanswered, htcal, htmon⟩ := stepFailed_facts h hu ((Only.trans ((advanceFree_only u).mono rfl) ((calFailed_only _ _ 2 _).mono rfl) : Only [.freeCount, .cal] u _)) rfl rfl
      .calImplausible (implausible u.freeNat 2)
    refine ⟨finish src f .calImplausible (implausible u.freeNat 2) (injectOff (calFailed _ _ 2 (advanceFree u))), rfl, hframes.onlyOf rfl, hoff, fun _ _ hno => (nomatch hno), fun _ => ⟨hanswered, ?_, htmon.trans hmon⟩, fun _ _ hno => (nomatch hno)⟩
    rw [htcal]
    exact (congrArg CalSt.coefs hcal : u.cal.coefs = _)
  | sets change v =>
    rw [hend] at hframes he
    have hstep := sysStep_only he.symm
    have hqueues : QueuesKept (takeFront src s) (refresh (injectOff v)) :=
      (((hu ▸ injecting_queues _ _ src s : QueuesKept (takeFront src s) u).trans (sysStep_queues he.symm)).trans (.of_link (injectOff_only v .link rfl))).trans
        ⟨refresh_sent _, refresh_rings _⟩
    have hdies : v.dies = s.dies := congrArg Part.dies ((hstep .part rfl).trans (hinjecting .part rfl))
    refine ⟨_, rfl, hframes.onlyOf rfl, fun n hn => ?_, fun _ _ hno => (nomatch hno), fun hno => (nomatch hno), ?_⟩
    · rw [finish_only _ _ _ _ _ .front rfl, refresh_only _ .front rfl]
      exact injectOff_off v (by rw [hdies]; exact hn)
    · rintro _ _ ⟨rfl, rfl⟩
      refine ⟨hqueues.answered h _ _, ?_, ?_⟩
      · rw [finish_only _ _ _ _ _ .cal rfl, refresh_cal, injectOff_only _ .cal rfl]
      · rw [finish_only _ _ _ _ _ .mon rfl, refresh_only _ .mon rfl, injectOff_only _ .mon rfl]

theorem syscalStep_interrupted (h : s.begins .syscalStep src f none) (hu : u = injectFor (field f.desc 4 0 8) (field f.desc 5 0 8) (takeFront src s)) :
    ∃ t, exec (.syscalStep src none) s = .next t ∧ Only [.spans, .front, .taps, .lanes, .link, .cal, .mon, .integ, .mode, .mb, .sec, .freeCount, .modeCode] s t
      ∧ Answered s t src f .abortedFault u.abortResult [] ∧ t.cal = s.cal ∧ t.mon = s.mon ∧ ∀ n, n < s.dies → (t.front.courses.get n).inject = 0 := by
  have hinjecting : Only [.front, .link, .mb] s u := hu ▸ injecting_only _ _ src s
  have hrun : exec (.syscalStep src none) s = .next (finish src f .abortedFault u.abortResult (injectOff u)) := by
    change execSyscalStep src none s = _
    unfold execSyscalStep
    rw [runCmd_begins h, hu]
  obtain ⟨hoff, hanswered, htcal, htmon⟩ := stepFailed_facts h hu (Only.refl [] u) rfl rfl .abortedFault u.abortResult
  exact ⟨_, hrun, (execSyscalStep_frames src none s).onlyOf hrun, hanswered, htcal.trans (hinjecting .cal rfl), htmon.trans (hinjecting .mon rfl), hoff⟩

end

/-- Settles O48: the commands by their branches, the store by what waits for it, SYSCAL_STEP by the three ends of its step. -/
theorem calibrationCommands : Obligations.CalibrationCommands :=
  ⟨fun _ _ _ => calStart_starts, fun _ _ _ => calQuery_writes, fun _ _ _ => calStore_begins, fun _ _ _ => calStoreWriteDone_ends, fun _ _ => autoStore_begins,
    fun _ _ _ _ _ _ => syscalStep_steps, fun _ _ _ _ => syscalStep_interrupted⟩

end Sys2Proof.Machine
end

section
/-!
PROOFS. The background level step (12 R342, R344 to R347, R351, R352).
-/
namespace Sys2Proof.Machine

/-! ### What keeps the coefficients and the steps in progress -/

/-- The coefficients and the level steps in progress stay. -/
structure StepsKept (s t : State) : Prop where
  coefs : t.cal.coefs = s.cal.coefs
  steps : t.cal.steps = s.cal.steps

theorem StepsKept.of_cal {s t : State} (h : t.cal = s.cal) : StepsKept s t := ⟨congrArg CalSt.coefs h, congrArg CalSt.steps h⟩

theorem StepsKept.after {s u t : State} (h : t.cal = u.cal) (hcoefs : u.cal.coefs = s.cal.coefs) (hsteps : u.cal.steps = s.cal.steps) : StepsKept s t :=
  ⟨(congrArg CalSt.coefs h).trans hcoefs, (congrArg CalSt.steps h).trans hsteps⟩

theorem StepsKept.trans {s t u : State} (h : StepsKept s t) (k : StepsKept t u) : StepsKept s u := ⟨k.coefs.trans h.coefs, k.steps.trans h.steps⟩

theorem noteReach_stepsKept (n : Nat) (s : State) : StepsKept s (noteReach n s) := by
  unfold noteReach
  split
  · exact ⟨rfl, rfl⟩
  · split
    · exact ⟨rfl, rfl⟩
    · exact .after (raise_cal _ _ _ _) rfl rfl

theorem takeWindow_stepsKept (k lane : Nat) (kind : CoverKind) (s : State) : StepsKept s (takeWindow k lane kind s) := by
  unfold takeWindow
  dsimp only
  split
  · exact .after ((State.setSpare_only _ _ _ .cal rfl).trans (endAssay_only k _ .cal rfl)) rfl rfl
  · exact ⟨rfl, rfl⟩

theorem abandonStep_stepsKept (n lane : Nat) (s : State) : StepsKept s (abandonStep n lane s) := by
  unfold abandonStep
  dsimp only
  split
  · exact .after ((completeAll_only _ _ _ _ .cal rfl).trans (raise_cal _ _ _ _)) rfl rfl
  · exact ⟨rfl, rfl⟩

theorem checkFailed_stepsKept (item index reason origin : Nat) (dev : Int) (w : Wait → Bool) (s : State) : StepsKept s (checkFailed item index reason origin dev w s) :=
  .after (u := calFailed item index reason s) ((completeAll_only _ _ _ _ .cal rfl).trans (raise_cal _ _ _ _)) rfl rfl

theorem checkFailed_raises (item index reason origin : Nat) (dev : Int) (w : Wait → Bool) (s : State) :
    Raises s (checkFailed item index reason origin dev w s) .calCheckFailed origin [.w item, .w index, .w reason, .w dev] := by
  unfold checkFailed
  exact Raises.andThen (completeAll_only _ _ _ _) rfl (Raises.raise (calFailed_only item index reason s) rfl rfl _ _ _)

theorem noteAbsent_stepsKept (n : Nat) (s : State) : StepsKept s (noteAbsent n s) := by
  unfold noteAbsent
  dsimp only
  split
  · exact .after ((refresh_cal _).trans (raise_cal _ _ _ _)) rfl rfl
  · exact ⟨rfl, rfl⟩

theorem calSuccess_stepsKept (item index : Nat) (s : State) : StepsKept s (calSuccess item index s) := ⟨rfl, rfl⟩

theorem setInject_inject (n v : Nat) (s : State) : ((setInject n v s).front.courses.get n).inject = v := congrArg Course.inject (setCourse_self s n _)

/-! ### The start -/

theorem levelStepStart_starts {s : State} {n l i : Nat} {kind : CoverKind} (hchoice : s.levelChoice n = some (l, i, kind)) (hdie : n < s.dies)
    (hallowed : s.levelAllowed = true) (hage : 0 < s.taskAge (.level n)) (hnone : s.cal.steps.get n = none) (hruns : s.pathRuns n = true) (hturn : s.levelTurn n l = true) :
    ∃ t, exec (.levelStepStart n) s = .next t ∧ Only [.spans, .taps, .lanes, .link, .cal, .integ, .mode, .mb, .sec, .nv, .retirement, .modeCode] s t
      ∧ t.cal.steps.get n = some { lane := l, kind := kind, tone := i, toneFreq := (s.cal.tones.getD i {}).freq, toneLevel := (s.cal.tones.getD i {}).level.getD 0,
                                   coupled := tableAt (s.cal.coefs.transfer.get n).q (s.cal.tones.getD i {}).freq, start := s.now, passStart := s.now }
      ∧ t.cal.coefs = s.cal.coefs := by
  have hdue : (decide (n < s.dies) && s.levelAllowed && decide (0 < s.taskAge (.level n))) = true := by
    rw [decide_eq_true hdie, hallowed, decide_eq_true hage]
    rfl
  have hguard : (decide (n < s.dies) && s.levelAllowed && decide (0 < s.taskAge (.level n)) && (s.cal.steps.get n).isNone && s.pathRuns n && s.levelTurn n l) = true := by
    rw [hdue, hnone, hruns, hturn]
    rfl
  obtain ⟨v, hv⟩ : ∃ v, v = tuneTone l (s.cal.tones.getD i {}).freq (takeWindow (laneCluster l) l kind (noteReach n s)) := ⟨_, rfl⟩
  have hkept : StepsKept s v := by
    rw [hv]
    exact ((noteReach_stepsKept n s).trans (takeWindow_stepsKept _ _ _ _)).trans (.of_cal (tuneTone_only _ _ _ .cal rfl))
  have hrun : exec (.levelStepStart n) s = .next { v with cal := { v.cal with
      steps := v.cal.steps.set n (some { lane := l, kind := kind, tone := i, toneFreq := (s.cal.tones.getD i {}).freq, toneLevel := (s.cal.tones.getD i {}).level.getD 0,
                                         coupled := tableAt (v.cal.coefs.transfer.get n).q (s.cal.tones.getD i {}).freq, start := s.now, passStart := s.now })
      windowsUsed := v.cal.windowsUsed.modify n (· + 1), toneUse := v.cal.toneUse.set (n * 8 + i) (v.cal.toneClock + 1), toneClock := v.cal.toneClock + 1 } } := by
    change execLevelStepStart n s = _
    unfold execLevelStepStart
    rw [hchoice]
    dsimp only
    rw [if_pos hdue, onlyIf_of_true hguard, hv]
  refine ⟨_, hrun, (execLevelStepStart_frames n s).onlyOf hrun, ?_, hkept.coefs⟩
  dsimp only
  rw [Tbl.get_set_self, hkept.coefs]

/-! ### The windows -/

theorem levelPhaseEnd_goesOn {s : State} {n t1 : Nat} {air : Air} {st : LevelStep} {w : Nat × Nat} {p : Int} (hstep : s.cal.steps.get n = some st)
    (hevaluate : st.phase ≠ .evaluate) (hreturn : st.phase ≠ .return_) (hends : t1 = st.passStart + st.phase.ends) (hnow : t1 ≤ s.now)
    (hw : w = s.tonePower air st.lane (t1 - 2000000) t1)
    (hp : p = s.levelUv n ((s.front.courses.get n).leader.getD 0) st.toneFreq st.start (powerLevel w)) :
    ∃ t, exec (.levelPhaseEnd n air) s = .next t ∧ Only [.front, .taps, .lanes, .link, .cal, .integ, .mb, .sec] s t ∧ t.cal.coefs = s.cal.coefs
      ∧ (st.phase = .retune → t.cal.steps.get n = some { st with phase := .offWindow } ∧ t.front = s.front)
      ∧ (st.phase = .offWindow → (t.front.courses.get n).inject = 1 ∧ t.cal.steps.get n = some { st with phase := .switch, pOff := p, offPower := w })
      ∧ (st.phase = .switch → t.cal.steps.get n = some { st with phase := .on1 } ∧ t.front = s.front)
      ∧ (st.phase = .on1 → t.cal.steps.get n = some { st with phase := .on2, pOn1 := p, on1Power := w })
      ∧ (st.phase = .on2 → t.cal.steps.get n = some { st with phase := .evaluate, pOn2 := p, on2Power := w })
      ∧ ∀ k, k ≠ n → t.cal.steps.get k = s.cal.steps.get k := by
  have hframes := execLevelPhaseEnd_frames n air s
  have hguard : (decide (st.phase ≠ .evaluate) && decide (t1 ≤ s.now) && (decide (st.phase ≠ .return_) || (decide (s.now % countsPerBlock = 0) && s.stationRuns st.lane))) = true := by
    rw [decide_eq_true hevaluate, decide_eq_true hnow, decide_eq_true hreturn]
    rfl
  change ∃ t, execLevelPhaseEnd n air s = _ ∧ _
  unfold execLevelPhaseEnd at hframes ⊢
  rw [hstep] at hframes ⊢
  dsimp only at hframes ⊢
  rw [← hends, ← hw, ← hp, onlyIf_of_true hguard] at hframes ⊢
  refine ⟨_, rfl, hframes.onlyOf rfl, ?_⟩
  cases hphase : st.phase with
  | retune => exact ⟨rfl, fun _ => ⟨setStep_self n _ hstep, rfl⟩, nofun, nofun, nofun, nofun, fun _ hk => setStep_ne n _ s hk⟩
  | offWindow => exact ⟨rfl, nofun, fun _ => ⟨setInject_inject _ _ _, setStep_self n _ hstep⟩, nofun, nofun, nofun, fun _ hk => setStep_ne n _ s hk⟩
  | switch => exact ⟨rfl, nofun, nofun, fun _ => ⟨setStep_self n _ hstep, rfl⟩, nofun, nofun, fun _ hk => setStep_ne n _ s hk⟩
  | on1 => exact ⟨rfl, nofun, nofun, nofun, fun _ => setStep_self n _ hstep, nofun, fun _ hk => setStep_ne n _ s hk⟩
  | on2 => exact ⟨rfl, nofun, nofun, nofun, nofun, fun _ => setStep_self n _ hstep, fun _ hk => setStep_ne n _ s hk⟩
  | evaluate => exact absurd hphase hevaluate
  | return_ => exact absurd hphase hreturn

theorem endLevelStep_ends {s : State} {n : Nat} {st : LevelStep} (hstep : s.cal.steps.get n = some st) :
    (endLevelStep n s).cal.coefs = s.cal.coefs ∧ (endLevelStep n s).cal.steps.get n = none := by
  unfold endLevelStep
  rw [hstep]
  dsimp only
  have hkept := abandonStep_stepsKept n st.lane
  rw [(hkept _).coefs, (hkept _).steps]
  split
  · exact ⟨rfl, Tbl.get_set_self _ _ _⟩
  · exact ⟨rfl, Tbl.get_set_self _ _ _⟩

theorem levelPhaseEnd_returns {s : State} {n : Nat} {air : Air} {st : LevelStep} (hstep : s.cal.steps.get n = some st) (hreturn : st.phase = .return_)
    (hnow : st.passStart + 6400000 ≤ s.now) (hblock : s.now % 200000 = 0) (hruns : s.stationRuns st.lane = true) :
    ∃ t, exec (.levelPhaseEnd n air) s = .next t ∧ Only [.front, .taps, .lanes, .link, .cal, .integ, .mb, .sec] s t ∧ t.cal.coefs = s.cal.coefs ∧ t.cal.steps.get n = none := by
  have hguard : (decide (st.phase ≠ .evaluate) && decide (st.passStart + st.phase.ends ≤ s.now)
      && (decide (st.phase ≠ .return_) || (decide (s.now % countsPerBlock = 0) && s.stationRuns st.lane))) = true := by
    have hblock' : decide (s.now % countsPerBlock = 0) = true := decide_eq_true hblock
    have hends : decide (st.passStart + st.phase.ends ≤ s.now) = true := decide_eq_true (by rw [hreturn]; exact hnow)
    rw [hends, hblock', hruns, hreturn]
    rfl
  have hrun : exec (.levelPhaseEnd n air) s = .next (endLevelStep n s) := by
    change execLevelPhaseEnd n air s = _
    unfold execLevelPhaseEnd
    rw [hstep]
    dsimp only
    rw [onlyIf_of_true hguard, hreturn]
  obtain ⟨hcoefs, hended⟩ := endLevelStep_ends hstep
  exact ⟨_, hrun, (execLevelPhaseEnd_frames n air s).onlyOf hrun, hcoefs, hended⟩

/-! ### The evaluation -/

theorem toReturn_facts {s : State} {n : Nat} {st : LevelStep} (hstep : s.cal.steps.get n = some st) :
    (toReturn n st s).cal.coefs = s.cal.coefs ∧ (toReturn n st s).cal.steps.get n = some { st with phase := .return_ }
      ∧ (toReturn n st s).front.courses.get n = { s.front.courses.get n with inject := 0 } := by
  have hkept := reloadStation_only st.lane (setInject n 0 (setStep n (fun y => { y with phase := .return_ }) s))
  unfold toReturn
  rw [hkept .cal rfl, hkept .front rfl]
  exact ⟨rfl, setStep_self n _ hstep, setCourse_self _ n _⟩

/-- The state in which a sound pass is judged: the step returns, the windows it used no longer count. -/
def judging (n : Nat) (st : LevelStep) (s : State) : State := toReturn n st { s with cal := { s.cal with windowsUsed := s.cal.windowsUsed.set n 0 } }

theorem judging_only (n : Nat) (st : LevelStep) (s : State) : Only [.front, .taps, .cal] s (judging n st s) := (Only.ofMk rfl (Only.refl _ _)).trans (toReturn_only n st _)

theorem evaluateStep_fails {s : State} {n reason : Nat} {st : LevelStep} {mean m dev : Int} (hstep : s.cal.steps.get n = some st)
    (hcheck : levelCheck st st.expected mean m = some (reason, dev)) :
    ((evaluateStep n st mean m s).front.courses.get n).inject = 0 ∧ (evaluateStep n st mean m s).cal.coefs = s.cal.coefs
      ∧ (evaluateStep n st mean m s).cal.steps.get n = some { st with phase := .return_ }
      ∧ Raises s (evaluateStep n st mean m s) .calCheckFailed pkg [.w (0 : Nat), .w n, .w reason, .w dev] := by
  obtain ⟨hcoefs, hsteps, hcourse⟩ := toReturn_facts (s := { s with cal := { s.cal with windowsUsed := s.cal.windowsUsed.set n 0 } }) hstep
  obtain ⟨u, hu⟩ : ∃ u, u = (if reason = 1 then noteAbsent n (judging n st s) else judging n st s) := ⟨_, rfl⟩
  have hrun : evaluateStep n st mean m s = checkFailed 0 n reason pkg dev (fun w => w = .level n) u := by
    unfold evaluateStep
    dsimp only
    rw [hcheck, hu]
    rfl
  have hnoted : StepsKept (judging n st s) u := by
    rw [hu]
    split
    · exact noteAbsent_stepsKept n _
    · exact ⟨rfl, rfl⟩
  have honly : Only [.spans, .link, .cal, .integ, .mode, .sec, .modeCode] (judging n st s) u := by
    rw [hu]
    exact Only.ite (noteAbsent_only n _) (Only.refl _ _)
  have hkept := hnoted.trans (checkFailed_stepsKept 0 n reason pkg dev (fun w => w = .level n) u)
  have hfront := (checkFailed_only 0 n reason pkg dev (fun w => w = .level n) u .front rfl).trans (honly .front rfl)
  rw [hrun]
  refine ⟨?_, hkept.coefs.trans hcoefs, (congrArg (Tbl.get · n) hkept.steps).trans hsteps, ?_⟩
  · rw [hfront]
    exact congrArg Course.inject hcourse
  · exact Raises.after (((judging_only n st s).mono rfl).trans (honly.mono rfl) : Only [.front, .taps, .spans, .link, .cal, .integ, .mode, .sec, .modeCode] s u) rfl rfl
      (checkFailed_raises _ _ _ _ _ _ _)

/-- What ends a step whose error is taken off. -/
def stepSettled (n : Nat) (s : State) : State :=
  let u := taskNormal (.level n) (calSuccess 0 n s)
  refresh (completeAll (fun w => w = .level n) .ok (u.calCount 0 n) u)

theorem stepSettled_kept (n : Nat) (s : State) : StepsKept s (stepSettled n s) ∧ (stepSettled n s).front = s.front := by
  unfold stepSettled
  dsimp only
  obtain ⟨u, hu⟩ : ∃ u, u = taskNormal (.level n) (calSuccess 0 n s) := ⟨_, rfl⟩
  have hcal : u.cal = (calSuccess 0 n s).cal := hu ▸ taskNormal_only _ _ .cal rfl
  have hfront : u.front = s.front := hu ▸ (taskNormal_only _ _ .front rfl).trans (calSuccess_only 0 n s .front rfl)
  rw [← hu]
  exact ⟨.after (((refresh_cal _).trans (completeAll_only _ _ _ _ .cal rfl)).trans hcal) rfl rfl, ((refresh_only _ .front rfl).trans (completeAll_only _ _ _ _ .front rfl)).trans hfront⟩

theorem setDrift_coefs (n : Nat) (dA dB : Int) (s : State) :
    (setDrift n dA dB s).cal.coefs = { s.cal.coefs with level := s.cal.coefs.level.set n { s.cal.coefs.level.get n with dA := dA, dB := dB } } := rfl

/-- The error `e` taken off D of the leading converter. -/
def LevelCoef.correct (l : LevelCoef) (leadsB : Prop) [Decidable leadsB] (e : Int) : LevelCoef := if leadsB then { l with dB := l.dB - e } else { l with dA := l.dA - e }

theorem evaluateStep_corrects {s : State} {n : Nat} {st : LevelStep} {mean m : Int} (hstep : s.cal.steps.get n = some st) (hcheck : levelCheck st st.expected mean m = none) :
    ((evaluateStep n st mean m s).front.courses.get n).inject = 0 ∧ (evaluateStep n st mean m s).cal.steps.get n = some { st with phase := .return_ }
      ∧ (evaluateStep n st mean m s).cal.coefs = { s.cal.coefs with
          level := s.cal.coefs.level.set n ((s.cal.coefs.level.get n).correct ((s.front.courses.get n).leader = some 1) (m - st.expected)) } := by
  obtain ⟨hcoefs, hsteps, hcourse⟩ := toReturn_facts (s := { s with cal := { s.cal with windowsUsed := s.cal.windowsUsed.set n 0 } }) hstep
  obtain ⟨v, hv⟩ : ∃ v, v = judging n st s := ⟨_, rfl⟩
  have hcoefs' : v.cal.coefs = s.cal.coefs := hv ▸ hcoefs
  have hsteps' : v.cal.steps.get n = some { st with phase := .return_ } := hv ▸ hsteps
  have hcourse' : v.front.courses.get n = { s.front.courses.get n with inject := 0 } := hv ▸ hcourse
  have hrun : evaluateStep n st mean m s = stepSettled n (if (v.front.courses.get n).leader = some 1
      then setDrift n (v.cal.coefs.level.get n).dA ((v.cal.coefs.level.get n).dB - (m - st.expected)) v
      else setDrift n ((v.cal.coefs.level.get n).dA - (m - st.expected)) (v.cal.coefs.level.get n).dB v) := by
    unfold evaluateStep
    dsimp only
    rw [hcheck, hv]
    rfl
  have hdrift : ∀ dA dB, ((stepSettled n (setDrift n dA dB v)).front.courses.get n).inject = 0 ∧ (stepSettled n (setDrift n dA dB v)).cal.steps.get n = some { st with phase := .return_ }
      ∧ (stepSettled n (setDrift n dA dB v)).cal.coefs = { s.cal.coefs with level := s.cal.coefs.level.set n { s.cal.coefs.level.get n with dA := dA, dB := dB } } := by
    intro dA dB
    obtain ⟨hkept, hfront⟩ := stepSettled_kept n (setDrift n dA dB v)
    rw [hfront, hkept.steps, hkept.coefs, setDrift_coefs, hcoefs', setDrift_only n dA dB v .front rfl, hcourse']
    exact ⟨rfl, hsteps', rfl⟩
  rw [hrun, hcourse', hcoefs']
  unfold LevelCoef.correct
  dsimp only
  split
  · exact hdrift _ _
  · exact hdrift _ _

theorem levelStepEval_judges {s : State} {n : Nat} {mean m : Int} {st : LevelStep} (hstep : s.cal.steps.get n = some st) (hevaluate : st.phase = .evaluate)
    (hnow : st.passStart + 6400000 ≤ s.now)
    (hmean : mean = s.levelUv n ((s.front.courses.get n).leader.getD 0) st.toneFreq st.start (meanOn st.on1Power st.on2Power))
    (hm : m = s.levelUv n ((s.front.courses.get n).leader.getD 0) st.toneFreq st.start (netOn st.offPower st.on1Power st.on2Power)) :
    ∃ t, exec (.levelStepEval n) s = .next t ∧ Only [.spans, .front, .taps, .link, .cal, .integ, .mode, .mb, .sec, .modeCode] s t
      ∧ (t.front.courses.get n).inject = 0
      ∧ (st.spoiled = true → st.repeated = false → s.now + 6600000 ≤ st.start + 30000000 → t.cal.coefs = s.cal.coefs
          ∧ t.cal.steps.get n = some { st with phase := .offWindow, passStart := s.now - 200000, spoiled := false, repeated := true })
      ∧ (st.spoiled = true → (st.repeated = true ∨ st.start + 30000000 < s.now + 6600000) → t.cal.coefs = s.cal.coefs ∧ t.cal.steps.get n = some { st with phase := .return_ })
      ∧ (∀ reason dev, st.spoiled = false → levelCheck st st.expected mean m = some (reason, dev) → t.cal.coefs = s.cal.coefs
          ∧ t.cal.steps.get n = some { st with phase := .return_ } ∧ Raises s t .calCheckFailed pkg [.w (0 : Nat), .w n, .w reason, .w dev])
      ∧ (st.spoiled = false → levelCheck st st.expected mean m = none → t.cal.steps.get n = some { st with phase := .return_ }
          ∧ t.cal.coefs = { s.cal.coefs with level := t.cal.coefs.level } ∧ (∀ k, k ≠ n → t.cal.coefs.level.get k = s.cal.coefs.level.get k)
          ∧ ((s.front.courses.get n).leader = some 1 → t.cal.coefs.level.get n = { s.cal.coefs.level.get n with dB := (s.cal.coefs.level.get n).dB - (m - st.expected) })
          ∧ ((s.front.courses.get n).leader ≠ some 1 → t.cal.coefs.level.get n = { s.cal.coefs.level.get n with dA := (s.cal.coefs.level.get n).dA - (m - st.expected) })) := by
  have hframes := execLevelStepEval_frames n s
  have hguard : (decide (st.phase = .evaluate) && decide (st.passStart + 6400000 ≤ s.now)) = true := by
    rw [decide_eq_true hevaluate, decide_eq_true hnow]
    rfl
  change ∃ t, execLevelStepEval n s = _ ∧ _
  unfold execLevelStepEval at hframes ⊢
  rw [hstep] at hframes ⊢
  dsimp only at hframes ⊢
  rw [← hmean, ← hm, onlyIf_of_true hguard] at hframes ⊢
  refine ⟨_, rfl, hframes.onlyOf rfl, ?_⟩
  by_cases hspoiled : st.spoiled = true
  · rw [if_pos hspoiled]
    by_cases hagain : st.repeated = false ∧ s.now + 6600000 ≤ st.start + 30000000
    · have hrepeats : (!st.repeated && decide (s.now + 6600000 ≤ st.start + 30000000)) = true := by
        rw [hagain.1, decide_eq_true hagain.2]
        rfl
      rw [if_pos hrepeats]
      refine ⟨setInject_inject _ _ _, fun _ _ _ => ⟨rfl, setStep_self n _ hstep⟩, fun _ hno => ?_, fun _ _ hno => absurd hspoiled (Bool.eq_false_iff.mp hno), fun hno => absurd hspoiled (Bool.eq_false_iff.mp hno)⟩
      exact absurd hagain (not_and.mpr fun hrepeated => hno.elim (fun h => absurd (hrepeated.symm.trans h) Bool.false_ne_true) Nat.not_le_of_lt)
    · have hrepeats : ¬ (!st.repeated && decide (s.now + 6600000 ≤ st.start + 30000000)) = true := by
        rw [Bool.and_eq_true, Bool.not_eq_true', decide_eq_true_eq]
        exact hagain
      rw [if_neg hrepeats]
      obtain ⟨hcoefs, hsteps, hcourse⟩ := toReturn_facts hstep
      exact ⟨congrArg Course.inject hcourse, fun _ hrepeated hlate => absurd ⟨hrepeated, hlate⟩ hagain, fun _ _ => ⟨hcoefs, hsteps⟩, fun _ _ hno => absurd hspoiled (Bool.eq_false_iff.mp hno),
        fun hno => absurd hspoiled (Bool.eq_false_iff.mp hno)⟩
  · rw [if_neg hspoiled]
    cases hcheck : levelCheck st st.expected mean m with
    | some e =>
      obtain ⟨reason, dev⟩ := e
      obtain ⟨hinject, hcoefs, hsteps, hraises⟩ := evaluateStep_fails hstep hcheck
      refine ⟨hinject, fun hno => absurd hno hspoiled, fun hno => absurd hno hspoiled, ?_, fun _ hno => (nomatch hno)⟩
      rintro _ _ _ ⟨rfl, rfl⟩
      exact ⟨hcoefs, hsteps, hraises⟩
    | none =>
      obtain ⟨hinject, hsteps, hcoefs⟩ := evaluateStep_corrects hstep hcheck
      refine ⟨hinject, fun hno => absurd hno hspoiled, fun hno => absurd hno hspoiled, fun _ _ _ hno => (nomatch hno), fun _ _ => ⟨hsteps, ?_, fun k hk => ?_, fun hleads => ?_, fun hleads => ?_⟩⟩
      · rw [hcoefs]
      · rw [hcoefs]
        exact Tbl.get_set_of_ne _ hk _
      · rw [hcoefs]
        exact (Tbl.get_set_self _ _ _).trans (if_pos hleads)
      · rw [hcoefs]
        exact (Tbl.get_set_self _ _ _).trans (if_neg hleads)

/-! ### The standby, and the pause -/

theorem standbyDUpdate_follows {s : State} {j x : Nat} {lead stand : Nat} {new old : Int} (hdie : j < s.dies) (hleader : (s.front.courses.get j).leader = some x)
    (hmode : (s.front.courses.get j).mode = .duplex) (hnow : (s.front.courses.get j).driftedAt + 100000000 ≤ s.now)
    (hpower : (lead, stand) = (if x = 0 then (s.front.courses.get j).checkPower else ((s.front.courses.get j).checkPower.2, (s.front.courses.get j).checkPower.1)))
    (hlead : 0 < lead) (hstand : 0 < stand) (hnew : new = (if x = 0 then (s.cal.coefs.level.get j).dA else (s.cal.coefs.level.get j).dB) + db100 stand lead)
    (hold : old = (if x = 0 then (s.cal.coefs.level.get j).dB else (s.cal.coefs.level.get j).dA)) :
    ∃ t, exec (.standbyDUpdate j) s = .next t ∧ Only [.front, .cal] s t ∧ t.front.courses.get j = { s.front.courses.get j with checkPower := (0, 0), driftedAt := s.now }
      ∧ (∀ k, k ≠ j → t.front.courses.get k = s.front.courses.get k ∧ t.cal.coefs.level.get k = s.cal.coefs.level.get k)
      ∧ ((new - old).natAbs ≤ 50 → x = 0 → t.cal.coefs.level.get j = { s.cal.coefs.level.get j with dB := new })
      ∧ ((new - old).natAbs ≤ 50 → x ≠ 0 → t.cal.coefs.level.get j = { s.cal.coefs.level.get j with dA := new })
      ∧ (50 < (new - old).natAbs → t.cal = s.cal) := by
  have hguard : (decide (j < s.dies) && decide ((s.front.courses.get j).mode = .duplex) && decide ((s.front.courses.get j).driftedAt + countsPerSecond ≤ s.now)
      && decide (0 < lead) && decide (0 < stand)) = true := by
    have hnow' : decide ((s.front.courses.get j).driftedAt + countsPerSecond ≤ s.now) = true := decide_eq_true hnow
    rw [decide_eq_true hdie, decide_eq_true hmode, hnow', decide_eq_true hlead, decide_eq_true hstand]
    rfl
  obtain ⟨u, hu⟩ : ∃ u, u = s.setCourse j fun c => { c with checkPower := (0, 0), driftedAt := s.now } := ⟨_, rfl⟩
  have hcal : u.cal = s.cal := hu ▸ rfl
  have hself : u.front.courses.get j = { s.front.courses.get j with checkPower := (0, 0), driftedAt := s.now } := hu ▸ setCourse_self _ _ _
  have hothers : ∀ k, k ≠ j → u.front.courses.get k = s.front.courses.get k := fun k hk => hu ▸ Tbl.get_modify_of_ne s.front.courses hk _
  have hrun : exec (.standbyDUpdate j) s = .next (if 50 < (new - old).natAbs then u
      else if x = 0 then setDrift j (s.cal.coefs.level.get j).dA new u else setDrift j new (s.cal.coefs.level.get j).dB u) := by
    change execStandbyDUpdate j s = _
    unfold execStandbyDUpdate
    dsimp only
    rw [hleader]
    dsimp only
    rw [← hpower]
    dsimp only
    rw [← hnew, ← hold, onlyIf_of_true hguard, ← hu]
  have hdrift : ∀ dA dB, (∀ k, k ≠ j → (setDrift j dA dB u).cal.coefs.level.get k = s.cal.coefs.level.get k)
      ∧ (setDrift j dA dB u).cal.coefs.level.get j = { s.cal.coefs.level.get j with dA := dA, dB := dB } := by
    intro dA dB
    rw [setDrift_coefs, hcal]
    exact ⟨fun k hk => Tbl.get_set_of_ne _ hk _, Tbl.get_set_self _ _ _⟩
  refine ⟨_, hrun, (execStandbyDUpdate_frames j s).onlyOf hrun, ?_⟩
  by_cases hfar : 50 < (new - old).natAbs
  · rw [if_pos hfar]
    exact ⟨hself, fun k hk => ⟨hothers k hk, by rw [hcal]⟩, fun hnear => absurd hfar (Nat.not_lt_of_le hnear), fun hnear => absurd hfar (Nat.not_lt_of_le hnear), fun _ => hcal⟩
  · rw [if_neg hfar]
    by_cases hx : x = 0
    · rw [if_pos hx, setDrift_only _ _ _ _ .front rfl]
      obtain ⟨hbeside, hset⟩ := hdrift (s.cal.coefs.level.get j).dA new
      exact ⟨hself, fun k hk => ⟨hothers k hk, hbeside k hk⟩, fun _ _ => hset, fun _ hno => absurd hx hno, fun hno => absurd hno hfar⟩
    · rw [if_neg hx, setDrift_only _ _ _ _ .front rfl]
      obtain ⟨hbeside, hset⟩ := hdrift new (s.cal.coefs.level.get j).dB
      exact ⟨hself, fun k hk => ⟨hothers k hk, hbeside k hk⟩, fun _ hno => absurd hno hx, fun _ _ => hset, fun hno => absurd hno hfar⟩

theorem calinSuspectHoldEnd_ends {s : State} (hsuspect : s.cal.suspect = true) (hnow : s.cal.suspectUntil ≤ s.now) :
    ∃ t, exec .calinSuspectHoldEnd s = .next t ∧ Only [.spans, .link, .cal, .integ, .mode, .sec, .modeCode] s t ∧ t.cal = { s.cal with suspect := false, toneAbsent := [] } := by
  have hrun : exec .calinSuspectHoldEnd s = .next (refresh { s with cal := { s.cal with suspect := false, toneAbsent := [] } }) := by
    change execCalinSuspectHoldEnd s = _
    unfold execCalinSuspectHoldEnd
    rw [onlyIf_of_true (by rw [hsuspect, decide_eq_true hnow]; rfl)]
  exact ⟨_, hrun, (execCalinSuspectHoldEnd_frames s).onlyOf hrun, refresh_cal _⟩

/-- Settles O49: the step by its phases, its end by what the evaluation finds, the standby by its difference. -/
theorem levelSteps : Obligations.LevelSteps :=
  ⟨fun _ _ _ _ _ => levelStepStart_starts, fun _ _ _ _ _ _ _ => levelPhaseEnd_goesOn, fun _ _ _ _ => levelPhaseEnd_returns, fun _ _ _ _ _ => levelStepEval_judges,
    fun _ _ _ _ _ _ _ => standbyDUpdate_follows, fun _ => calinSuspectHoldEnd_ends⟩

end Sys2Proof.Machine
end

section
/-!
PROOFS. Monitor conversions and their commands (12 R353, 13 R364, R365, R367 to R372).
-/
namespace Sys2Proof.Machine

/-! ### The background calibration -/

/-- The conversion that runs on die `d` stays as it is, and so does all of every other die. -/
structure ConvKept (d : Nat) (s t : State) : Prop where
  converting : (t.mon.dies.get d).converting = (s.mon.dies.get d).converting
  entry : (t.mon.dies.get d).entry = (s.mon.dies.get d).entry
  convStart : (t.mon.dies.get d).convStart = (s.mon.dies.get d).convStart
  others : ∀ k, k ≠ d → t.mon.dies.get k = s.mon.dies.get k

theorem ConvKept.of_mon {d : Nat} {s t : State} (h : t.mon = s.mon) : ConvKept d s t := by
  constructor <;> rw [h]
  exact fun _ _ => rfl

theorem ConvKept.trans {d : Nat} {s t u : State} (h : ConvKept d s t) (k : ConvKept d t u) : ConvKept d s u :=
  ⟨k.converting.trans h.converting, k.entry.trans h.entry, k.convStart.trans h.convStart, fun i hi => (k.others i hi).trans (h.others i hi)⟩

theorem setMon_convKept (d : Nat) (f : MonSt → MonSt) (s : State) (hf : ∀ m, (f m).converting = m.converting ∧ (f m).entry = m.entry ∧ (f m).convStart = m.convStart) :
    ConvKept d s (s.setMon d f) := by
  obtain ⟨hconverting, hentry, hstart⟩ := hf (s.mon.dies.get d)
  refine ⟨?_, ?_, ?_, fun k hk => setMon_ne s f hk⟩ <;> rw [setMon_self]
  · exact hconverting
  · exact hentry
  · exact hstart

theorem setMonitor_convKept (d : Nat) (c : MonCoef) (s : State) : ConvKept d s (setMonitor d c s) :=
  (setMon_convKept d (fun m => { m with oldOffset := (s.monCorr d s.now).1, oldGain := (s.monCorr d s.now).2, corrFrom := ceilTo countsPerBlock s.now }) s fun _ => ⟨rfl, rfl, rfl⟩).trans (.of_mon rfl)

/-- The regular conversion that the background calibration interrupts begins again. -/
def restartConv (d : Nat) (s : State) : State := if (s.mon.dies.get d).converting then startConv d (s.mon.dies.get d).entry s else s

theorem restartConv_only (d : Nat) (s : State) : Only [.mon] s (restartConv d s) := Only.ite (startConv_only _ _ _) (Only.refl _ _)

theorem restartConv_others (d : Nat) (s : State) {k : Nat} (hk : k ≠ d) : (restartConv d s).mon.dies.get k = s.mon.dies.get k := by
  unfold restartConv
  split
  · exact startConv_ne _ _ _ hk
  · rfl

theorem restartConv_restarts {d : Nat} {s : State} (h : (s.mon.dies.get d).converting = true) :
    ((restartConv d s).mon.dies.get d).converting = true ∧ ((restartConv d s).mon.dies.get d).entry = (s.mon.dies.get d).entry ∧ ((restartConv d s).mon.dies.get d).convStart = s.now := by
  unfold restartConv
  rw [if_pos h, startConv_self]
  exact ⟨rfl, rfl, rfl⟩

/-- The two ends of a background calibration that keeps offset and gain, and the one that sets them. -/
def loopbackFailed (d : Nat) (args : List EvArg) (s : State) : State :=
  let u := raise .monLoopbackFail d args s
  completeAll (fun x => decide (x = .monitor d)) .calImplausible (u.freeNat % 2 ^ 24) (advanceFree u)

theorem loopbackFailed_facts (d : Nat) (args : List EvArg) (s : State) :
    ConvKept d s (loopbackFailed d args s) ∧ (loopbackFailed d args s).cal.coefs = s.cal.coefs ∧ Raises s (loopbackFailed d args s) .monLoopbackFail d args := by
  unfold loopbackFailed
  dsimp only
  have hfree := advanceFree_only (raise .monLoopbackFail d args s)
  refine ⟨.of_mon ?_, ?_, Raises.andThen (completeAll_only _ _ _ _) rfl (Raises.andThen hfree rfl (Raises.raise (Only.refl [] s) rfl rfl _ _ _))⟩
  · rw [completeAll_only _ _ _ _ .mon rfl, hfree .mon rfl, raise_mon]
  · rw [completeAll_only _ _ _ _ .cal rfl, hfree .cal rfl, raise_cal]

theorem checkFailed_convKept (d item index reason origin : Nat) (dev : Int) (w : Wait → Bool) (s : State) : ConvKept d s (checkFailed item index reason origin dev w s) :=
  .of_mon (checkFailed_only _ _ _ _ _ _ _ .mon rfl)

def offsetSet (d : Nat) (c : MonCoef) (s : State) : State :=
  let u := taskNormal (.monitor d) (calSuccess 4 d (setMonitor d c s))
  refresh (completeAll (fun x => decide (x = .monitor d)) .ok (u.calCount 4 d) u)

theorem offsetSet_facts (d : Nat) (c : MonCoef) (s : State) :
    ConvKept d s (offsetSet d c s) ∧ (offsetSet d c s).cal.coefs = { s.cal.coefs with monitor := s.cal.coefs.monitor.set d c } := by
  unfold offsetSet
  dsimp only
  have hcoefs := setMonitor_coefs d c s
  have hmon : (taskNormal (.monitor d) (calSuccess 4 d (setMonitor d c s))).mon = (setMonitor d c s).mon :=
    (taskNormal_only _ _ .mon rfl).trans (calSuccess_only _ _ _ .mon rfl)
  obtain ⟨u, hu⟩ : ∃ u, u = taskNormal (.monitor d) (calSuccess 4 d (setMonitor d c s)) := ⟨_, rfl⟩
  rw [← hu] at hcoefs hmon ⊢
  refine ⟨(setMonitor_convKept d c s).trans (.of_mon ?_), ?_⟩
  · rw [refresh_only _ .mon rfl, completeAll_only _ _ _ _ .mon rfl, hmon]
  · rw [refresh_cal, completeAll_only _ _ _ _ .cal rfl, hcoefs]

theorem monitorBackgroundCal_ends {s : State} {d : Nat} {ref0 ref1 loop100 loop300 : Int} (hup : s.monUp d = true) (hage : 0 < s.taskAge (.monitor d))
    (hfree : (s.mon.dies.get d).queue = [] ∨ (s.mon.dies.get d).injStart = s.now) :
    ∃ t, exec (.monitorBackgroundCal d ref0 ref1 loop100 loop300) s = .next t
      ∧ Only [.spans, .link, .cal, .mon, .integ, .mode, .mb, .sec, .freeCount, .modeCode] s t
      ∧ (loopFails 0x100 (s.monCode d (s.monCorr d s.now) 20 loop100) = true → t.cal.coefs = s.cal.coefs
          ∧ Raises s t .monLoopbackFail d [.w d, .w (0x100 : Nat), .w (s.monCode d (s.monCorr d s.now) 20 loop100)])
      ∧ (loopFails 0x100 (s.monCode d (s.monCorr d s.now) 20 loop100) = false → loopFails 0x300 (s.monCode d (s.monCorr d s.now) 20 loop300) = true →
          t.cal.coefs = s.cal.coefs ∧ Raises s t .monLoopbackFail d [.w d, .w (0x300 : Nat), .w (s.monCode d (s.monCorr d s.now) 20 loop300)])
      ∧ (loopFails 0x100 (s.monCode d (s.monCorr d s.now) 20 loop100) = false → loopFails 0x300 (s.monCode d (s.monCorr d s.now) 20 loop300) = false →
          (refDeviation (s.monCode d (s.monCorr d s.now) 18 ref0) (s.cal.coefs.monitor.get d).ref0).natAbs ≤ 1000 →
          (refDeviation (s.monCode d (s.monCorr d s.now) 19 ref1) (s.cal.coefs.monitor.get d).ref1).natAbs ≤ 1000 →
          t.cal.coefs = { s.cal.coefs with monitor := s.cal.coefs.monitor.set d { s.cal.coefs.monitor.get d with
            offset := (Config.towardRefs ref0 ref1 (s.cal.coefs.monitor.get d).ref0 (s.cal.coefs.monitor.get d).ref1).1
            gain := (Config.towardRefs ref0 ref1 (s.cal.coefs.monitor.get d).ref0 (s.cal.coefs.monitor.get d).ref1).2 } })
      ∧ (loopFails 0x100 (s.monCode d (s.monCorr d s.now) 20 loop100) = false → loopFails 0x300 (s.monCode d (s.monCorr d s.now) 20 loop300) = false →
          1000 < (refDeviation (s.monCode d (s.monCorr d s.now) 18 ref0) (s.cal.coefs.monitor.get d).ref0).natAbs →
          t.cal.coefs = s.cal.coefs ∧ Raises s t .calCheckFailed d
            [.w (4 : Nat), .w d, .w (2 : Nat), .w (refDeviation (s.monCode d (s.monCorr d s.now) 18 ref0) (s.cal.coefs.monitor.get d).ref0)])
      ∧ (loopFails 0x100 (s.monCode d (s.monCorr d s.now) 20 loop100) = false → loopFails 0x300 (s.monCode d (s.monCorr d s.now) 20 loop300) = false →
          (refDeviation (s.monCode d (s.monCorr d s.now) 18 ref0) (s.cal.coefs.monitor.get d).ref0).natAbs ≤ 1000 →
          1000 < (refDeviation (s.monCode d (s.monCorr d s.now) 19 ref1) (s.cal.coefs.monitor.get d).ref1).natAbs →
          t.cal.coefs = s.cal.coefs ∧ Raises s t .calCheckFailed d
            [.w (4 : Nat), .w d, .w (2 : Nat), .w (refDeviation (s.monCode d (s.monCorr d s.now) 19 ref1) (s.cal.coefs.monitor.get d).ref1)])
      ∧ ((s.mon.dies.get d).converting = true → (t.mon.dies.get d).converting = true ∧ (t.mon.dies.get d).entry = (s.mon.dies.get d).entry ∧ (t.mon.dies.get d).convStart = s.now)
      ∧ ∀ k, k ≠ d → t.mon.dies.get k = s.mon.dies.get k := by
  have hguard : (s.monUp d && decide (0 < s.taskAge (.monitor d)) && ((s.mon.dies.get d).queue.isEmpty || (s.mon.dies.get d).injStart == s.now)) = true := by
    have hfree' : ((s.mon.dies.get d).queue.isEmpty || (s.mon.dies.get d).injStart == s.now) = true := by
      rw [Bool.or_eq_true, List.isEmpty_iff, beq_iff_eq]
      exact hfree
    rw [hup, decide_eq_true hage, hfree']
    rfl
  obtain ⟨a, ha⟩ : ∃ a, a = s.monCode d (s.monCorr d s.now) 20 loop100 := ⟨_, rfl⟩
  obtain ⟨b, hb⟩ : ∃ b, b = s.monCode d (s.monCorr d s.now) 20 loop300 := ⟨_, rfl⟩
  obtain ⟨c, hc⟩ : ∃ c, c = s.cal.coefs.monitor.get d := ⟨_, rfl⟩
  obtain ⟨v0, hv0⟩ : ∃ v, v = refDeviation (s.monCode d (s.monCorr d s.now) 18 ref0) c.ref0 := ⟨_, rfl⟩
  obtain ⟨v1, hv1⟩ : ∃ v, v = refDeviation (s.monCode d (s.monCorr d s.now) 19 ref1) c.ref1 := ⟨_, rfl⟩
  obtain ⟨u, hu⟩ : ∃ u, u = restartConv d s := ⟨_, rfl⟩
  have hrun : exec (.monitorBackgroundCal d ref0 ref1 loop100 loop300) s = .next (
      if loopFails 0x100 a || loopFails 0x300 b then loopbackFailed d (if loopFails 0x100 a then [.w d, .w (0x100 : Nat), .w a] else [.w d, .w (0x300 : Nat), .w b]) u
      else if 1000 < v0.natAbs then checkFailed 4 d 2 d v0 (fun x => decide (x = .monitor d)) u
      else if 1000 < v1.natAbs then checkFailed 4 d 2 d v1 (fun x => decide (x = .monitor d)) u
      else offsetSet d { c with offset := (Config.towardRefs ref0 ref1 c.ref0 c.ref1).1, gain := (Config.towardRefs ref0 ref1 c.ref0 c.ref1).2 } u) := by
    change execMonitorBackgroundCal d ref0 ref1 loop100 loop300 s = _
    unfold execMonitorBackgroundCal
    dsimp only
    rw [onlyIf_of_true hguard, ← ha, ← hb, ← hc, ← hv0, ← hv1, hu]
    rfl
  refine ⟨_, hrun, (execMonitorBackgroundCal_frames d ref0 ref1 loop100 loop300 s).onlyOf hrun, ?_⟩
  rw [← ha, ← hb, ← hc, ← hv0, ← hv1]
  have honly : Only [.mon] s u := hu ▸ restartConv_only d s
  have hcoefs : u.cal.coefs = s.cal.coefs := congrArg CalSt.coefs (honly .cal rfl)
  have hconv : ∀ {t : State}, ConvKept d u t →
      ((s.mon.dies.get d).converting = true → (t.mon.dies.get d).converting = true ∧ (t.mon.dies.get d).entry = (s.mon.dies.get d).entry ∧ (t.mon.dies.get d).convStart = s.now)
      ∧ ∀ k, k ≠ d → t.mon.dies.get k = s.mon.dies.get k := by
    intro t hkept
    refine ⟨fun hconverting => ?_, fun k hk => (hkept.others k hk).trans (hu ▸ restartConv_others d s hk)⟩
    rw [hkept.converting, hkept.entry, hkept.convStart, hu]
    exact restartConv_restarts hconverting
  by_cases hloop1 : loopFails 0x100 a = true
  · obtain ⟨hkept, hstay, hraises⟩ := loopbackFailed_facts d [.w d, .w (0x100 : Nat), .w a] u
    rw [if_pos (by rw [hloop1]; rfl), if_pos hloop1]
    exact ⟨fun _ => ⟨hstay.trans hcoefs, Raises.after honly rfl rfl hraises⟩, fun hno => absurd hloop1 (Bool.eq_false_iff.mp hno), fun hno => absurd hloop1 (Bool.eq_false_iff.mp hno),
      fun hno => absurd hloop1 (Bool.eq_false_iff.mp hno), fun hno => absurd hloop1 (Bool.eq_false_iff.mp hno), hconv hkept⟩
  · by_cases hloop3 : loopFails 0x300 b = true
    · obtain ⟨hkept, hstay, hraises⟩ := loopbackFailed_facts d [.w d, .w (0x300 : Nat), .w b] u
      rw [if_pos (by rw [hloop3, Bool.or_true]), if_neg hloop1]
      exact ⟨fun hyes => absurd hyes hloop1, fun _ _ => ⟨hstay.trans hcoefs, Raises.after honly rfl rfl hraises⟩, fun _ hno => absurd hloop3 (Bool.eq_false_iff.mp hno),
        fun _ hno => absurd hloop3 (Bool.eq_false_iff.mp hno), fun _ hno => absurd hloop3 (Bool.eq_false_iff.mp hno), hconv hkept⟩
    · rw [if_neg (by rw [Bool.or_eq_true]; exact not_or.mpr ⟨hloop1, hloop3⟩)]
      by_cases hfar0 : 1000 < v0.natAbs
      · rw [if_pos hfar0]
        refine ⟨fun hyes => absurd hyes hloop1, fun _ hyes => absurd hyes hloop3, fun _ _ hno => absurd hfar0 (Nat.not_lt_of_le hno), fun _ _ _ => ⟨?_, ?_⟩,
          fun _ _ hno => absurd hfar0 (Nat.not_lt_of_le hno), hconv (checkFailed_convKept _ _ _ _ _ _ _ _)⟩
        · exact (checkFailed_stepsKept _ _ _ _ _ _ _).coefs.trans hcoefs
        · exact Raises.after honly rfl rfl (checkFailed_raises 4 d 2 d v0 _ u)
      · rw [if_neg hfar0]
        by_cases hfar1 : 1000 < v1.natAbs
        · rw [if_pos hfar1]
          refine ⟨fun hyes => absurd hyes hloop1, fun _ hyes => absurd hyes hloop3, fun _ _ _ hno => absurd hfar1 (Nat.not_lt_of_le hno), fun _ _ hyes => absurd hyes hfar0,
            fun _ _ _ _ => ⟨?_, ?_⟩, hconv (checkFailed_convKept _ _ _ _ _ _ _ _)⟩
          · exact (checkFailed_stepsKept _ _ _ _ _ _ _).coefs.trans hcoefs
          · exact Raises.after honly rfl rfl (checkFailed_raises 4 d 2 d v1 _ u)
        · rw [if_neg hfar1]
          have hset := fun c => offsetSet_facts d c u
          refine ⟨fun hyes => absurd hyes hloop1, fun _ hyes => absurd hyes hloop3, fun _ _ _ _ => ?_, fun _ _ hyes => absurd hyes hfar0, fun _ _ _ hyes => absurd hyes hfar1,
            hconv (hset _).1⟩
          exact (hset _).2.trans (by rw [hcoefs])

/-! ### MON_INJECT and MON_READ -/

section
variable {s : State} {src : CmdSrc} {f : Fetched}

theorem queueInjection_queues (d : Nat) (x : MonInj) (s : State) :
    ((queueInjection d x s).mon.dies.get d).queue = (s.mon.dies.get d).queue ++ [x]
      ∧ ((s.mon.dies.get d).queue = [] → ((queueInjection d x s).mon.dies.get d).injStart = s.now ∧ ((queueInjection d x s).mon.dies.get d).converting = false
          ∧ ((s.mon.dies.get d).converting = true → ((queueInjection d x s).mon.dies.get d).repeats = true))
      ∧ ∀ k, k ≠ d → (queueInjection d x s).mon.dies.get k = s.mon.dies.get k := by
  unfold queueInjection
  dsimp only
  split
  · unfold startInjection
    rw [setMon_self, setMon_self]
    refine ⟨rfl, fun _ => ⟨rfl, rfl, fun hconverting => ?_⟩, fun k hk => ?_⟩
    · dsimp only
      rw [hconverting, Bool.or_true]
    · rw [setMon_ne _ _ hk, setMon_ne _ _ hk]
  · next hbusy =>
    rw [setMon_self]
    exact ⟨rfl, fun hempty => absurd (by rw [hempty]; rfl) hbusy, fun k hk => setMon_ne _ _ hk⟩

theorem monInject_queues (h : s.begins .monInject src f none) :
    ∃ t, exec (.monInject src) s = .next t ∧ Only [.link, .mon, .mb] s t
      ∧ (4 ≤ (s.mon.dies.get (field f.desc 4 0 3)).queue.length → t.mon = s.mon ∧ Answered s t src f .resourceBusy 0 [])
      ∧ ((s.mon.dies.get (field f.desc 4 0 3)).queue.length < 4 → Waits t src f (.injection (field f.desc 4 0 3))
          ∧ (t.mon.dies.get (field f.desc 4 0 3)).queue = (s.mon.dies.get (field f.desc 4 0 3)).queue ++
              [{ channel := field f.desc 5 0 5, acq := field f.desc 6 0 2, testDac := bitAt f.desc 7 0, dacCode := field f.desc 8 0 10, src := some src }]
          ∧ ((s.mon.dies.get (field f.desc 4 0 3)).queue = [] → (t.mon.dies.get (field f.desc 4 0 3)).injStart = s.now ∧ (t.mon.dies.get (field f.desc 4 0 3)).converting = false
              ∧ ((s.mon.dies.get (field f.desc 4 0 3)).converting = true → (t.mon.dies.get (field f.desc 4 0 3)).repeats = true))
          ∧ ∀ k, k ≠ field f.desc 4 0 3 → t.mon.dies.get k = s.mon.dies.get k) := by
  obtain ⟨d, hd⟩ : ∃ d, d = field f.desc 4 0 3 := ⟨_, rfl⟩
  have hmon : (takeFront src s).mon = s.mon := takeFront_only src s .mon rfl
  have hnow : (takeFront src s).now = s.now := (takeFront_only src s).now rfl
  rw [← hd]
  change ∃ t, execMonInject src s = _ ∧ _
  unfold execMonInject
  rw [runCmd_begins h]
  dsimp only
  rw [← hd, hmon]
  by_cases hfull : 4 ≤ (s.mon.dies.get d).queue.length
  · rw [if_pos hfull]
    obtain ⟨honly, hanswered⟩ := finish_takeFront h.1 .resourceBusy 0
    exact ⟨_, rfl, honly.mono rfl, fun _ => ⟨honly .mon rfl, hanswered⟩, fun hno => absurd hfull (Nat.not_le_of_lt hno)⟩
  · rw [if_neg hfull]
    obtain ⟨x, hx⟩ : ∃ x : MonInj, x = { channel := field f.desc 5 0 5, acq := field f.desc 6 0 2, testDac := bitAt f.desc 7 0, dacCode := field f.desc 8 0 10, src := some src } := ⟨_, rfl⟩
    obtain ⟨hqueue, hfirst, hothers⟩ := queueInjection_queues d x (takeFront src s)
    rw [hmon] at hqueue hfirst hothers
    rw [hnow] at hfirst
    rw [← hx]
    refine ⟨await src f (.injection d) (queueInjection d x (takeFront src s)), rfl, ?_, fun hno => absurd hno hfull, fun _ => ⟨await_waits _ _ _ _, ?_⟩⟩
    · exact ((takeFront_only src s).mono rfl).trans (((queueInjection_only _ _ _).mono rfl).trans ((await_only _ _ _ _).mono rfl))
    · rw [await_only _ _ _ _ .mon rfl]
      exact ⟨hqueue, hfirst, hothers⟩

theorem monRead_writes (h : s.begins .monRead src f none) :
    ∃ t, exec (.monRead src) s = .next t ∧ Only [.link, .mb] s t ∧ Outputs s t src f (s.mon.dies.get (field f.desc 4 0 3)).readRecord := by
  have hrun : exec (.monRead src) s = .next (finishOutput src f ((takeFront src s).mon.dies.get (field f.desc 4 0 3)).readRecord (takeFront src s)) :=
    runCmd_begins h fun f s => finishOutput src f (s.mon.dies.get (field f.desc 4 0 3)).readRecord s
  exact ⟨_, hrun, (takeFront_only src s).trans (finishOutput_only _ _ _ _), outputs_of_begins h (by rw [takeFront_only src s .mon rfl])⟩

end

/-! ### Regular conversions -/

/-- What a conversion's result leaves of its die's monitor: its sums and pairs, and then what the feed and temperature limits note. -/
def measured (d : Nat) (e : MonEntry) (code : Int) (m : MonSt) (s : State) : State :=
  let t := s.setMon d fun _ => m
  let t := if e.channel = 14 || e.channel = 15 then feedMeasured d e.channel code t else t
  if e.channel < 4 then tempMeasured d e.channel code t else t

theorem measured_only (d : Nat) (e : MonEntry) (code : Int) (m : MonSt) (s : State) : Only [.front, .link, .mon, .integ, .sec] s (measured d e code m s) := by
  unfold measured
  dsimp only
  have hset : Only [.front, .link, .mon, .integ, .sec] s (s.setMon d fun _ => m) := (State.setMon_only _ _ _).mono rfl
  have hfeed := hset.trans (Only.ite (c := (e.channel = 14 || e.channel = 15) = true) ((feedMeasured_only d e.channel code _).mono rfl) (Only.refl _ _))
  exact hfeed.trans (Only.ite ((tempMeasured_only _ _ _ _).mono rfl) (Only.refl _ _))

theorem measured_feed (d : Nat) (e : MonEntry) (code : Int) (s : State) : (if e.channel = 14 || e.channel = 15 then feedMeasured d e.channel code s else s).mon = s.mon := by
  split
  · exact feedMeasured_mon _ _ _ _
  · rfl

theorem measured_self (d : Nat) (e : MonEntry) (code : Int) (m : MonSt) (s : State) : ∃ x y, (measured d e code m s).mon.dies.get d = { m with temps := x, tempHigh := y } := by
  have hfeed := measured_feed d e code (s.setMon d fun _ => m)
  unfold measured
  dsimp only
  split
  · obtain ⟨x, y, htemp⟩ := tempMeasured_self d e.channel code (if e.channel = 14 || e.channel = 15 then feedMeasured d e.channel code (s.setMon d fun _ => m) else s.setMon d fun _ => m)
    exact ⟨x, y, htemp.trans (by rw [hfeed, setMon_self])⟩
  · exact ⟨m.temps, m.tempHigh, by rw [hfeed, setMon_self]⟩

theorem measured_ne (d : Nat) (e : MonEntry) (code : Int) (m : MonSt) (s : State) {k : Nat} (hk : k ≠ d) : (measured d e code m s).mon.dies.get k = s.mon.dies.get k := by
  have hfeed := measured_feed d e code (s.setMon d fun _ => m)
  unfold measured
  dsimp only
  split
  · rw [tempMeasured_ne _ _ _ _ hk, hfeed, setMon_ne _ _ hk]
  · rw [hfeed, setMon_ne _ _ hk]

/-- A pass that ends with nothing to apply, without a period and without injections begins again at once. -/
theorem passEnd_repeats {d : Nat} {s : State} (happly : (s.mon.dies.get d).applyPending = false) (hperiod : (s.mon.dies.get d).periodNow = 0) (hqueue : (s.mon.dies.get d).queue = []) :
    passEnd d s = startPass d s := by
  unfold passEnd
  dsimp only
  rw [happly, if_neg Bool.false_ne_true, hperiod, Nat.zero_mul, if_pos rfl]
  unfold duePass
  rw [hqueue, decide_eq_true (Nat.le_refl _)]
  rfl

theorem monConversionEnd_goesOn {s : State} {d : Nat} {raw : Int} {m : MonSt} {e : MonEntry} (hm : s.mon.dies.get d = m) (he : m.active.entry m.entry = e)
    (hup : s.monUp d = true) (hconverting : m.converting = true) (hnow : m.convStart + monTime m.active.lowPower e.acq ≤ s.now) :
    ∃ t, exec (.monConversionEnd d raw) s = .next t ∧ Only [.front, .link, .mon, .integ, .sec] s t ∧ (∀ k, k ≠ d → t.mon.dies.get k = s.mon.dies.get k)
      ∧ (m.stopping = false → m.entry ≠ m.active.seqLast →
          (t.mon.dies.get d).converting = true ∧ (t.mon.dies.get d).entry = m.entry + 1 ∧ (t.mon.dies.get d).convStart = s.now
          ∧ (m.clearPending = true → (t.mon.dies.get d).accs = Tbl.empty {} ∧ (t.mon.dies.get d).trks = Tbl.empty {} ∧ (t.mon.dies.get d).clearPending = false)
          ∧ (m.clearPending = false → (t.mon.dies.get d).accs
              = (if e.accEn then m.accs.modify m.entry (·.add (m.active.present (monResult m.active (s.monCorr d m.convStart) e.channel raw))) else m.accs)
            ∧ (t.mon.dies.get d).trks
              = if e.trkEn then m.trks.modify e.trk (·.add (m.active.present (monResult m.active (s.monCorr d m.convStart) e.channel raw))) else m.trks))
      ∧ (m.stopping = false → m.entry = m.active.seqLast → m.applyPending = false → m.periodNow = 0 → m.queue = [] →
          (t.mon.dies.get d).converting = true ∧ (t.mon.dies.get d).entry = 0 ∧ (t.mon.dies.get d).convStart = s.now)
      ∧ (m.stopping = true → m.run = false → (t.mon.dies.get d).converting = false ∧ (t.mon.dies.get d).stopping = false) := by
  have hguard : (s.monUp d && m.converting && decide (m.convStart + monTime m.active.lowPower e.acq ≤ s.now)) = true := by
    rw [hup, hconverting, decide_eq_true hnow]
    rfl
  obtain ⟨r, hr⟩ : ∃ r, r = monResult m.active (s.monCorr d m.convStart) e.channel raw := ⟨_, rfl⟩
  obtain ⟨n, hn⟩ : ∃ n, n = m.take m.entry e (m.active.present r) := ⟨_, rfl⟩
  obtain ⟨u, hu⟩ : ∃ u, u = measured d e (m.active.code16 r) n.clearIfPending s := ⟨_, rfl⟩
  have hrun : exec (.monConversionEnd d raw) s = .next (if m.stopping then (if m.run then startSequence d (stopSequence d u) else stopSequence d u)
      else if m.entry = m.active.seqLast then passEnd d u else startConv d (m.entry + 1) u) := by
    change execMonConversionEnd d raw s = _
    have hset : (s.setMon d fun m => (m.take m.entry e (m.active.present r)).clearIfPending) = s.setMon d fun _ => n.clearIfPending := by
      unfold State.setMon Tbl.modify
      rw [hn, hm]
    unfold execMonConversionEnd
    dsimp only
    rw [← hm] at he hr hguard
    rw [he, ← hr, hset, onlyIf_of_true hguard, hm, hu]
    rfl
  have hunow : u.now = s.now := hu ▸ (measured_only d e _ _ s).now rfl
  have hothers : ∀ k, k ≠ d → u.mon.dies.get k = s.mon.dies.get k := fun k hk => hu ▸ measured_ne d e _ _ s hk
  obtain ⟨temps, high, hself⟩ : ∃ x y, u.mon.dies.get d = { n.clearIfPending with temps := x, tempHigh := y } := hu ▸ measured_self d e _ _ s
  obtain ⟨-, hclear, happly, hperiod, hqueue, haccs, htrks⟩ := MonSt.take_facts m m.entry e (m.active.present r)
  rw [← hn] at hclear happly hperiod hqueue haccs htrks
  obtain ⟨happly', hperiod', hqueue', hcleared, hkept⟩ := MonSt.clearIfPending_facts n
  refine ⟨_, hrun, (execMonConversionEnd_frames d raw s).onlyOf hrun, fun k hk => ?_, fun hgo hmore => ?_, fun hgo hlast hnone hfree hempty => ?_, fun hstop hoff => ?_⟩
  · rw [← hothers k hk]
    split
    · split
      · rw [startSequence_ne _ _ hk, stopSequence_ne _ _ hk]
      · exact stopSequence_ne _ _ hk
    · split
      · exact passEnd_ne _ _ hk
      · exact startConv_ne _ _ _ hk
  · rw [hgo, if_neg Bool.false_ne_true, if_neg hmore, startConv_self, hself]
    refine ⟨rfl, rfl, hunow, fun hclears => ?_, fun hno => ?_⟩
    · rw [hcleared (hclear.trans hclears)]
      exact ⟨rfl, rfl, rfl⟩
    · rw [hkept (hclear.trans hno), ← hr]
      exact ⟨haccs, htrks⟩
  · have hrepeats : passEnd d u = startPass d u := by
      refine passEnd_repeats ?_ ?_ ?_ <;> rw [hself]
      · exact (happly'.trans happly).trans hnone
      · exact (hperiod'.trans hperiod).trans hfree
      · exact (hqueue'.trans hqueue).trans hempty
    rw [hgo, if_neg Bool.false_ne_true, if_pos hlast, hrepeats, startPass_self]
    exact ⟨rfl, rfl, hunow⟩
  · obtain ⟨hidle, hstopped, -, -⟩ := stopSequence_self d u
    rw [if_pos hstop, hoff]
    exact ⟨hidle, hstopped⟩

theorem monPassStart_starts {s : State} {d at_ : Nat} (hup : s.monUp d = true) (hruns : (s.mon.dies.get d).run = true) (hqueue : (s.mon.dies.get d).queue = [])
    (hidle : (s.mon.dies.get d).converting = false) (hdue : (s.mon.dies.get d).passDue = some at_) (hnow : at_ ≤ s.now) :
    ∃ t, exec (.monPassStart d) s = .next t ∧ Only [.mon] s t ∧ (∀ k, k ≠ d → t.mon.dies.get k = s.mon.dies.get k)
      ∧ t.mon.dies.get d = { s.mon.dies.get d with periodNow := (s.mon.dies.get d).passPeriod, passStart := s.now, entry := 0, converting := true, convStart := s.now, repeats := false, passDue := none } := by
  have hrun : exec (.monPassStart d) s = .next (startPass d s) := by
    change execMonPassStart d s = _
    unfold execMonPassStart
    dsimp only
    rw [hdue]
    refine onlyIf_of_true ?_
    dsimp only
    rw [hup, hruns, hqueue, hidle, decide_eq_true hnow]
    rfl
  exact ⟨_, hrun, startPass_only _ _, fun k hk => startPass_ne _ _ hk, startPass_self _ _⟩

/-! ### Injected conversions -/

theorem clearIfPending_place (m : MonSt) : m.clearIfPending.repeats = m.repeats ∧ m.clearIfPending.entry = m.entry := by
  unfold MonSt.clearIfPending
  split <;> exact ⟨rfl, rfl⟩

/-- The next injection, or the sequence, goes on after one that ended. -/
def nextInjection (d : Nat) (rest : List MonInj) (s : State) : State :=
  let t := s.setMon d fun m => ({ m with queue := rest } : MonSt).clearIfPending
  if rest.isEmpty then resumeSequence d t else startInjection d t

theorem nextInjection_only (d : Nat) (rest : List MonInj) (s : State) : Only [.mon] s (nextInjection d rest s) :=
  (State.setMon_only s d fun m => ({ m with queue := rest } : MonSt).clearIfPending).trans (Only.ite (resumeSequence_only _ _) (startInjection_only _ _))

theorem nextInjection_facts (d : Nat) (rest : List MonInj) (s : State) :
    (∀ k, k ≠ d → (nextInjection d rest s).mon.dies.get k = s.mon.dies.get k) ∧ ((nextInjection d rest s).mon.dies.get d).queue = rest
      ∧ (rest ≠ [] → ((nextInjection d rest s).mon.dies.get d).injStart = s.now)
      ∧ (rest = [] → (s.mon.dies.get d).repeats = true → ((nextInjection d rest s).mon.dies.get d).converting = true
          ∧ ((nextInjection d rest s).mon.dies.get d).entry = (s.mon.dies.get d).entry ∧ ((nextInjection d rest s).mon.dies.get d).convStart = s.now) := by
  obtain ⟨t, ht⟩ : ∃ t, t = s.setMon d fun m => ({ m with queue := rest } : MonSt).clearIfPending := ⟨_, rfl⟩
  have hself : t.mon.dies.get d = ({ s.mon.dies.get d with queue := rest } : MonSt).clearIfPending := ht ▸ setMon_self _ _ _
  have hothers : ∀ k, k ≠ d → t.mon.dies.get k = s.mon.dies.get k := fun k hk => ht ▸ setMon_ne _ _ hk
  have htnow : t.now = s.now := ht ▸ rfl
  obtain ⟨-, -, hqueue, -, -⟩ := MonSt.clearIfPending_facts { s.mon.dies.get d with queue := rest }
  obtain ⟨hrepeats, hentry⟩ := clearIfPending_place { s.mon.dies.get d with queue := rest }
  have hnext : nextInjection d rest s = if rest.isEmpty then resumeSequence d t else startInjection d t := by rw [ht]; rfl
  rw [hnext]
  cases rest with
  | nil =>
    rw [if_pos List.isEmpty_nil]
    refine ⟨fun k hk => (resumeSequence_ne _ _ hk).trans (hothers k hk), ?_, fun hno => absurd rfl hno, fun _ hrepeat => ?_⟩
    · rw [resumeSequence_queue, hself, hqueue]
    · unfold resumeSequence
      dsimp only
      rw [hself, if_pos (hrepeats.trans hrepeat), startConv_self, hentry]
      exact ⟨rfl, rfl, htnow⟩
  | cons y rest =>
    rw [if_neg (by rw [List.isEmpty_cons]; exact Bool.false_ne_true)]
    unfold startInjection
    rw [setMon_self, hself]
    exact ⟨fun k hk => (setMon_ne _ _ hk).trans (hothers k hk), hqueue, fun _ => htnow, fun hno => (nomatch hno)⟩

/-- An injected conversion answers the command that waits for it, if one does. -/
def answerInjection (d : Nat) (x : MonInj) (s : State) (result : Nat) (t : State) : State :=
  match x.src, x.src.bind s.execOf with
  | some src, some ex => if ex.wait = .injection d then complete src ex.desc ex.index .ok result t else t
  | _, _ => t

theorem answerInjection_only (d : Nat) (x : MonInj) (s : State) (result : Nat) (t : State) : Only [.link, .mb] t (answerInjection d x s result t) := by
  unfold answerInjection
  split
  · exact Only.ite (complete_only _ _ _ _ _ _) (Only.refl _ _)
  · exact Only.refl _ _

theorem monInjectionEnd_answers {s : State} {d : Nat} {raw : Int} {x : MonInj} {rest : List MonInj} (hqueue : (s.mon.dies.get d).queue = x :: rest)
    (hup : s.monUp d = true) (hnow : (s.mon.dies.get d).injStart + monTime (s.mon.dies.get d).active.lowPower x.acq ≤ s.now) :
    ∃ t, exec (.monInjectionEnd d raw) s = .next t ∧ Only [.link, .mon, .mb] s t ∧ (∀ k, k ≠ d → t.mon.dies.get k = s.mon.dies.get k)
      ∧ (t.mon.dies.get d).queue = rest
      ∧ (rest ≠ [] → (t.mon.dies.get d).injStart = s.now)
      ∧ (rest = [] → (s.mon.dies.get d).repeats = true → (t.mon.dies.get d).converting = true ∧ (t.mon.dies.get d).entry = (s.mon.dies.get d).entry ∧ (t.mon.dies.get d).convStart = s.now)
      ∧ ∀ src ex, x.src = some src → s.execOf src = some ex → ex.wait = .injection d → (∀ r, src = .ring r → r < 16) →
          Answered s t src ⟨ex.desc, ex.index, true⟩ .ok
            (wrapInt 16 ((s.mon.dies.get d).active.present (monResult (s.mon.dies.get d).active (s.monCorr d (s.mon.dies.get d).injStart) x.channel raw))
              + ((s.mon.dies.get d).injStart % 2 ^ 32) * 65536) [] := by
  obtain ⟨result, hresult⟩ : ∃ n, n = wrapInt 16 ((s.mon.dies.get d).active.present (monResult (s.mon.dies.get d).active (s.monCorr d (s.mon.dies.get d).injStart) x.channel raw))
      + ((s.mon.dies.get d).injStart % 2 ^ 32) * 65536 := ⟨_, rfl⟩
  have hrun : exec (.monInjectionEnd d raw) s = .next (answerInjection d x s result (nextInjection d rest s)) := by
    change execMonInjectionEnd d raw s = _
    unfold execMonInjectionEnd
    dsimp only
    rw [hqueue]
    dsimp only
    rw [← hresult, onlyIf_of_true (by rw [hup, decide_eq_true hnow]; rfl)]
    rfl
  have hlink : (nextInjection d rest s).link = s.link := nextInjection_only d rest s .link rfl
  refine ⟨_, hrun, (execMonInjectionEnd_frames d raw s).onlyOf hrun, ?_⟩
  rw [answerInjection_only _ _ _ _ _ .mon rfl, ← hresult]
  obtain ⟨hothers, hrest, hnext, hresumes⟩ := nextInjection_facts d rest s
  refine ⟨hothers, hrest, hnext, hresumes, fun src ex hsrc hexec hwait h16 => ?_⟩
  have hanswer : answerInjection d x s result (nextInjection d rest s) = complete src ex.desc ex.index .ok result (nextInjection d rest s) := by
    unfold answerInjection
    rw [hsrc, Option.bind_some, hexec]
    exact if_pos hwait
  rw [hanswer]
  exact complete_answered (f := ⟨ex.desc, ex.index, true⟩) .ok result [] h16 (by rw [hlink, List.append_nil]) (fun r _ => by rw [hlink]) (fun r _ => by rw [hlink])

/-! ### The second -/

theorem monSecondLatch_latches {s : State} (hlatch : s.mon.lastLatch < s.now / 100000000 * 100000000) :
    ∃ t, exec .monSecondLatch s = .next t ∧ Only [.mon] s t ∧ t.mon.lastLatch = s.now / 100000000 * 100000000
      ∧ (∀ d, d < s.dies → s.monUp d = true → t.mon.dies.get d = { s.mon.dies.get d with latched := s.monRecord d, secAccs := Tbl.empty {}, secTrks := Tbl.empty {} })
      ∧ (∀ d, (s.dies ≤ d ∨ s.monUp d = false) → t.mon.dies.get d = s.mon.dies.get d) := by
  have hlatch' : decide (s.mon.lastLatch < s.now / countsPerSecond * countsPerSecond) = true := decide_eq_true hlatch
  refine ⟨_, onlyIf_of_true hlatch', Only.ofMk rfl (Only.refl _ _), rfl, fun d hd hup => ?_, fun d hno => ?_⟩
  · exact (Tbl.get_mapAll _ _ _ d).trans ((if_pos hd).trans (if_pos hup))
  · refine (Tbl.get_mapAll _ _ _ d).trans ?_
    split
    · next hd => exact if_neg (hno.elim (fun h => absurd hd (Nat.not_lt_of_le h)) (fun h => by rw [h]; exact Bool.false_ne_true))
    · rfl

/-- Settles O50: the background calibration by its checks, a conversion by what follows it. -/
theorem monitorConversions : Obligations.MonitorConversions :=
  ⟨fun _ _ _ _ _ _ => monitorBackgroundCal_ends, fun _ _ _ => monInject_queues, fun _ _ _ => monRead_writes, fun _ _ _ _ _ => monConversionEnd_goesOn,
    fun _ _ _ => monPassStart_starts, fun _ _ _ _ _ => monInjectionEnd_answers, fun _ => monSecondLatch_latches⟩

end Sys2Proof.Machine
end

section
/-!
PROOFS. Monitor registers (00 R4, 13 R364, R365, R369, R370, R372).
-/
namespace Sys2Proof.Machine

/-! ### APPLY and CLEAR -/

theorem clearKeys_get {α : Type} [DecidableEq α] (t : Tbl α) (ks : List Nat) (i : Nat) : (t.clearKeys ks).get i = if i ∈ ks then t.dflt else t.get i :=
  Tbl.get_foldl_set t t (fun _ _ => t.dflt) ks i

theorem applyMon_rejects {d j : Nat} {l : List Nat} {s : State} (h : (s.mon.dies.get d).staged.mixedPairs = j :: l) :
    (applyMon d s).mon.dies.get d = { s.mon.dies.get d with applyPending := false, seqRejected := true } ∧ Raises s (applyMon d s) .monSeqRejected d [.w d, .w j] := by
  unfold applyMon
  dsimp only
  rw [h]
  refine ⟨?_, Raises.raise (State.setMon_only _ _ _) rfl rfl _ _ _⟩
  rw [raise_mon, setMon_self]

theorem applyMon_applies {d : Nat} {s : State} (h : (s.mon.dies.get d).staged.mixedPairs = []) :
    ((applyMon d s).mon.dies.get d).active = (s.mon.dies.get d).staged ∧ ((applyMon d s).mon.dies.get d).applyPending = false
      ∧ ((applyMon d s).mon.dies.get d).accs = (s.mon.dies.get d).accs.clearKeys ((s.mon.dies.get d).active.affects (s.mon.dies.get d).staged).1
      ∧ ((applyMon d s).mon.dies.get d).trks = (s.mon.dies.get d).trks.clearKeys ((s.mon.dies.get d).active.affects (s.mon.dies.get d).staged).2 := by
  unfold applyMon
  dsimp only
  rw [h]
  dsimp only
  rw [feedPresence_mon, setMon_self]
  exact ⟨rfl, rfl, rfl, rfl⟩

theorem State.monUp_dieUp {s : State} {d : Nat} (h : s.monUp d = true) : s.dieUp d = true := by
  unfold State.monUp at h
  simp only [Bool.and_eq_true] at h
  exact h.1.1

theorem monApply_applies {s : State} {d : Nat} {m : MonSt} (hm : s.mon.dies.get d = m) (hb : s.barUp = true) (hup : s.monUp d = true) :
    ∃ t, exec (.monApply d) s = .next t ∧ Only [.front, .link, .mon, .integ, .mode, .sec] s t ∧ t.mode = { s.mode with lastAccess := s.now } ∧ (∀ k, k ≠ d → t.mon.dies.get k = s.mon.dies.get k)
      ∧ (m.run = true ∨ m.converting = true → t.mon.dies.get d = { m with applyPending := true } ∧ t.front = s.front ∧ t.link = s.link)
      ∧ (m.run = false → m.converting = false → m.staged.mixedPairs = [] → (t.mon.dies.get d).active = m.staged ∧ (t.mon.dies.get d).applyPending = false
          ∧ (∀ i, (t.mon.dies.get d).accs.get i = if i ∈ (m.active.affects m.staged).1 then m.accs.dflt else m.accs.get i)
          ∧ ∀ j, (t.mon.dies.get d).trks.get j = if j ∈ (m.active.affects m.staged).2 then m.trks.dflt else m.trks.get j)
      ∧ ∀ j l, m.run = false → m.converting = false → m.staged.mixedPairs = j :: l →
          t.mon.dies.get d = { m with applyPending := false, seqRejected := true } ∧ Raises s t .monSeqRejected d [.w d, .w j] := by
  have hrun : exec (.monApply d) s = .next (if !m.run && !m.converting then applyMon d (hostAccess s) else (hostAccess s).setMon d fun m => { m with applyPending := true }) := by
    rw [← hm]
    exact dieWrite_takes (f := fun t => if !(s.mon.dies.get d).run && !(s.mon.dies.get d).converting then applyMon d t else t.setMon d fun m => { m with applyPending := true })
      hb (State.monUp_dieUp hup) hup
  have hm' : (hostAccess s).mon.dies.get d = m := hm
  refine ⟨_, hrun, (execMonApply_frames d s).onlyOf hrun, ?_⟩
  by_cases hidle : m.run = false ∧ m.converting = false
  · rw [if_pos (by rw [hidle.1, hidle.2]; rfl)]
    refine ⟨applyMon_only d (hostAccess s) .mode rfl, fun k hk => applyMon_ne _ _ hk, fun hno => ?_, fun _ _ hclean => ?_, fun j l _ _ hmixed => ?_⟩
    · rw [hidle.1, hidle.2] at hno
      exact absurd hno (by decide)
    · obtain ⟨hactive, hpending, haccs, htrks⟩ := applyMon_applies (d := d) (s := hostAccess s) (by rw [hm']; exact hclean)
      rw [hm'] at hactive haccs htrks
      rw [haccs, htrks]
      exact ⟨hactive, hpending, clearKeys_get _ _, clearKeys_get _ _⟩
    · obtain ⟨hself, hraises⟩ := applyMon_rejects (d := d) (s := hostAccess s) (by rw [hm']; exact hmixed)
      rw [hm'] at hself
      exact ⟨hself, Raises.after (hostAccess_only s) rfl rfl hraises⟩
  · have hbusy : ¬ (!m.run && !m.converting) = true := by
      rw [Bool.and_eq_true, Bool.not_eq_true', Bool.not_eq_true']
      exact hidle
    rw [if_neg hbusy]
    refine ⟨rfl, fun k hk => setMon_ne (hostAccess s) _ hk, fun _ => ⟨?_, rfl, rfl⟩, fun hoff hconv => absurd ⟨hoff, hconv⟩ hidle, fun _ _ hoff hconv => absurd ⟨hoff, hconv⟩ hidle⟩
    rw [setMon_self, hm']

theorem monClear_clears {s : State} {d : Nat} {m : MonSt} (hm : s.mon.dies.get d = m) (hb : s.barUp = true) (hup : s.monUp d = true) :
    ∃ t, exec (.monClear d) s = .next t ∧ Only [.mon, .mode] s t ∧ t.mode = { s.mode with lastAccess := s.now } ∧ (∀ k, k ≠ d → t.mon.dies.get k = s.mon.dies.get k)
      ∧ (m.converting = true ∨ m.queue ≠ [] → t.mon.dies.get d = { m with clearPending := true })
      ∧ (m.converting = false → m.queue = [] → t.mon.dies.get d = { m with clearPending := false, accs := Tbl.empty {}, trks := Tbl.empty {} }) := by
  have hrun : exec (.monClear d) s = .next ((hostAccess s).setMon d fun m => if m.converting || !m.queue.isEmpty then { m with clearPending := true } else ({ m with clearPending := true } : MonSt).clearIfPending) :=
    dieWrite_takes (f := fun t => t.setMon d fun m => if m.converting || !m.queue.isEmpty then { m with clearPending := true } else ({ m with clearPending := true } : MonSt).clearIfPending)
      hb (State.monUp_dieUp hup) hup
  have hself := setMon_self (hostAccess s) d fun m => if m.converting || !m.queue.isEmpty then { m with clearPending := true } else ({ m with clearPending := true } : MonSt).clearIfPending
  have hm' : (hostAccess s).mon.dies.get d = m := hm
  rw [hm'] at hself
  refine ⟨_, hrun, (execMonClear_frames d s).onlyOf hrun, rfl, fun k hk => setMon_ne (hostAccess s) _ hk, fun hbusy => ?_, fun hidle hempty => ?_⟩
  · have hwaits : (m.converting || !m.queue.isEmpty) = true := by
      rw [Bool.or_eq_true, Bool.not_eq_true', ← Bool.not_eq_true, List.isEmpty_iff]
      exact hbusy
    rw [hself, if_pos hwaits]
  · rw [hself, hidle, hempty]
    rfl

/-! ### RUN -/

theorem monRunSet_starts {s : State} {d : Nat} {m : MonSt} (hm : s.mon.dies.get d = m) (hb : s.barUp = true) (hup : s.monUp d = true) (hoff : m.run = false) :
    ∃ t, exec (.monRunSet d) s = .next t ∧ Only [.mon, .mode] s t ∧ t.mode = { s.mode with lastAccess := s.now } ∧ (∀ k, k ≠ d → t.mon.dies.get k = s.mon.dies.get k) ∧ (t.mon.dies.get d).run = true
      ∧ (m.stopping = true → t.mon.dies.get d = { m with run := true })
      ∧ (m.stopping = false → m.passPeriod = 0 → m.queue = [] →
          t.mon.dies.get d = { m with run := true, periodNow := 0, passStart := s.now, entry := 0, converting := true, convStart := s.now, repeats := false, passDue := none })
      ∧ (m.stopping = false → m.passPeriod ≠ 0 → s.now < ceilTo (m.passPeriod * 100) s.now →
          t.mon.dies.get d = { m with run := true, converting := false, entry := 0, passDue := some (ceilTo (m.passPeriod * 100) s.now) }) := by
  obtain ⟨u, hu⟩ : ∃ u, u = (hostAccess s).setMon d fun m => { m with run := true } := ⟨_, rfl⟩
  have hself : u.mon.dies.get d = { m with run := true } := by
    rw [hu, setMon_self]
    exact congrArg (fun m : MonSt => { m with run := true }) hm
  have hrun : exec (.monRunSet d) s = .next (if m.stopping then u else startSequence d u) := by
    rw [hu, ← hm]
    exact dieWrite_takes (f := fun t => if (s.mon.dies.get d).stopping then t.setMon d fun m => { m with run := true } else startSequence d (t.setMon d fun m => { m with run := true }))
      hb (State.monUp_dieUp hup) (by rw [hup, hm, hoff]; rfl)
  have hunow : u.now = s.now := hu ▸ rfl
  have hothers : ∀ k, k ≠ d → u.mon.dies.get k = s.mon.dies.get k := fun k hk => hu ▸ setMon_ne (hostAccess s) _ hk
  have hmode : u.mode = { s.mode with lastAccess := s.now } := hu ▸ rfl
  refine ⟨_, hrun, (execMonRunSet_frames d s).onlyOf hrun, ?_⟩
  by_cases hstopping : m.stopping = true
  · rw [if_pos hstopping]
    exact ⟨hmode, hothers, congrArg MonSt.run hself, fun _ => hself, fun hno => absurd hstopping (Bool.eq_false_iff.mp hno), fun hno => absurd hstopping (Bool.eq_false_iff.mp hno)⟩
  · rw [if_neg hstopping]
    refine ⟨(startSequence_only d u .mode rfl).trans hmode, fun k hk => (startSequence_ne _ _ hk).trans (hothers k hk), ?_, fun hyes => absurd hyes hstopping,
      fun _ hperiod hqueue => ?_, fun _ hperiod hlater => ?_⟩
    · exact (duePass_run d _ u).trans (congrArg MonSt.run hself)
    · have hstarts : startSequence d u = startPass d u := by
        unfold startSequence duePass
        dsimp only
        rw [hself]
        dsimp only
        rw [hperiod, Nat.zero_mul, if_pos rfl, hqueue, decide_eq_true (Nat.le_refl _)]
        rfl
      rw [hstarts, startPass_self, hself, hunow, ← hperiod]
    · have hwaits : startSequence d u = u.setMon d fun x => { x with converting := false, entry := 0, passDue := some (ceilTo (m.passPeriod * 100) s.now) } := by
        unfold startSequence duePass
        dsimp only
        rw [hself, hunow]
        dsimp only
        rw [if_neg (Nat.mul_ne_zero hperiod (by decide)), decide_eq_false (Nat.not_le_of_lt hlater)]
        rfl
      rw [hwaits, setMon_self, hself]

/-- Clearing RUN on a sequence at rest stops it. -/
theorem stopSequence_rests {d : Nat} {s : State} (h : (s.mon.dies.get d).applyPending = false) :
    (stopSequence d s).mon.dies.get d = { s.mon.dies.get d with converting := false, stopping := false, repeats := false, passDue := none } := by
  unfold stopSequence
  dsimp only
  rw [setMon_self]
  dsimp only
  rw [if_neg (by rw [h]; exact Bool.false_ne_true), setMon_self]

theorem monRunClear_stops {s : State} {d : Nat} {m : MonSt} (hm : s.mon.dies.get d = m) (hb : s.barUp = true) (hup : s.monUp d = true) (hon : m.run = true) :
    ∃ t, exec (.monRunClear d) s = .next t ∧ Only [.front, .link, .mon, .integ, .mode, .sec] s t ∧ t.mode = { s.mode with lastAccess := s.now } ∧ (∀ k, k ≠ d → t.mon.dies.get k = s.mon.dies.get k) ∧ (t.mon.dies.get d).run = false
      ∧ (m.converting = true → t.mon.dies.get d = { m with run := false, stopping := true } ∧ t.front = s.front ∧ t.link = s.link)
      ∧ (m.converting = false → (t.mon.dies.get d).converting = false ∧ (t.mon.dies.get d).passDue = none)
      ∧ (m.converting = false → m.applyPending = false → t.mon.dies.get d = { m with run := false, stopping := false, repeats := false, passDue := none })
      ∧ ∀ j l, m.converting = false → m.applyPending = true → m.staged.mixedPairs = j :: l → Raises s t .monSeqRejected d [.w d, .w j] := by
  obtain ⟨u, hu⟩ : ∃ u, u = (hostAccess s).setMon d fun m => { m with run := false } := ⟨_, rfl⟩
  have hself : u.mon.dies.get d = { m with run := false } := by
    rw [hu, setMon_self]
    exact congrArg (fun m : MonSt => { m with run := false }) hm
  have hrun : exec (.monRunClear d) s = .next (if m.converting then u.setMon d fun m => { m with stopping := true } else stopSequence d u) := by
    rw [hu, ← hm]
    exact dieWrite_takes (f := fun t => if (s.mon.dies.get d).converting then (t.setMon d fun m => { m with run := false }).setMon d fun m => { m with stopping := true }
        else stopSequence d (t.setMon d fun m => { m with run := false }))
      hb (State.monUp_dieUp hup) (by rw [hup, hm, hon]; rfl)
  have hothers : ∀ k, k ≠ d → u.mon.dies.get k = s.mon.dies.get k := fun k hk => hu ▸ setMon_ne (hostAccess s) _ hk
  have hmode : u.mode = { s.mode with lastAccess := s.now } := hu ▸ rfl
  have honly : Only [.mon, .mode] s u := hu ▸ ((hostAccess_only s).mono rfl).trans ((State.setMon_only _ _ _).mono rfl)
  refine ⟨_, hrun, (execMonRunClear_frames d s).onlyOf hrun, ?_⟩
  by_cases hconverting : m.converting = true
  · rw [if_pos hconverting]
    have hstops : (u.setMon d fun m => { m with stopping := true }).mon.dies.get d = { m with run := false, stopping := true } := by rw [setMon_self, hself]
    exact ⟨hmode, fun k hk => (setMon_ne u _ hk).trans (hothers k hk), congrArg MonSt.run hstops, fun _ => ⟨hstops, honly .front rfl, honly .link rfl⟩,
      fun hno => absurd hconverting (Bool.eq_false_iff.mp hno), fun hno => absurd hconverting (Bool.eq_false_iff.mp hno), fun _ _ hno => absurd hconverting (Bool.eq_false_iff.mp hno)⟩
  · rw [if_neg hconverting]
    obtain ⟨hidle, -, hdue, hoff⟩ := stopSequence_self d u
    refine ⟨(stopSequence_only d u .mode rfl).trans hmode, fun k hk => (stopSequence_ne _ _ hk).trans (hothers k hk), hoff.trans (congrArg MonSt.run hself), fun hyes => absurd hyes hconverting, fun _ => ⟨hidle, hdue⟩,
      fun hno hpending => ?_, fun j l _ hpending hmixed => ?_⟩
    · rw [stopSequence_rests (by rw [hself]; exact hpending), hself, hno]
    · have hstopped : stopSequence d u = applyMon d (u.setMon d fun m => { m with converting := false, stopping := false, repeats := false, passDue := none }) := by
        unfold stopSequence
        dsimp only
        rw [setMon_self, hself]
        exact if_pos hpending
      have hmixed' : ((u.setMon d fun m => { m with converting := false, stopping := false, repeats := false, passDue := none }).mon.dies.get d).staged.mixedPairs = j :: l := by
        rw [setMon_self, hself]
        exact hmixed
      rw [hstopped]
      exact Raises.after (honly.trans ((State.setMon_only _ _ _).mono rfl)) rfl rfl (applyMon_rejects hmixed').2

/-! ### SUM_LO -/

theorem sumLoRead_absent {s : State} {d i : Nat} (hb : s.barUp = true) (hd : s.dies ≤ d) (hi : i < 16) :
    exec (.sumLoRead d i) s = .next { s with mode := { s.mode with lastAccess := s.now }, link := { s.link with sent := s.link.sent ++ [.regRead 0] } } := by
  change execSumLoRead d i s = _
  unfold execSumLoRead
  dsimp only
  rw [if_neg (Nat.not_le_of_lt hi)]
  exact dieRead_absent hb hd

theorem sumLoRead_snapshots {s : State} {d i a : Nat} (hb : s.barUp = true) (hd : d < s.dies) (hi : i < 16) (ha : a = 0x10000 * (d + 1) + 0x3450 + 0x10 * i) :
    ∃ t, exec (.sumLoRead d i) s = .next t ∧ Only [.link, .mon, .mode] s t ∧ t.mode = { s.mode with lastAccess := s.now }
      ∧ s.readBar0 a = ((s.mon.dies.get d).accs.get i).sum.toNat % 2 ^ 32 ∧ t.readBar0 (a + 4) = ((s.mon.dies.get d).accs.get i).sum.toNat / 2 ^ 32
      ∧ t.readBar0 (a + 8) = ((s.mon.dies.get d).accs.get i).count.toNat ∧ (∀ k, k ≠ d → t.mon.dies.get k = s.mon.dies.get k)
      ∧ t.link = { s.link with sent := s.link.sent ++ [.regRead (((s.mon.dies.get d).accs.get i).sum.toNat % 2 ^ 32)] }
      ∧ t.mon.dies.get d = { s.mon.dies.get d with
          snaps := (s.mon.dies.get d).snaps.set i (((s.mon.dies.get d).accs.get i).sum.toNat / 2 ^ 32, ((s.mon.dies.get d).accs.get i).count.toNat) } := by
  subst ha
  obtain ⟨x, hx⟩ : ∃ x, x = (s.mon.dies.get d).accs.get i := ⟨_, rfl⟩
  rw [← hx]
  obtain ⟨t, ht⟩ : ∃ t, t = send (.regRead (x.sum.toNat % 2 ^ 32)) ((hostAccess s).setMon d fun m => { m with snaps := m.snaps.set i (x.sum.toNat / 2 ^ 32, x.count.toNat) }) := ⟨_, rfl⟩
  have hrun : exec (.sumLoRead d i) s = .next t := by
    change execSumLoRead d i s = _
    unfold execSumLoRead
    dsimp only
    rw [if_neg (Nat.not_le_of_lt hi), ← hx, ht]
    exact dieRead_populated hb hd
  have hself : t.mon.dies.get d = { s.mon.dies.get d with snaps := (s.mon.dies.get d).snaps.set i (x.sum.toNat / 2 ^ 32, x.count.toNat) } := ht ▸ setMon_self (hostAccess s) d _
  have hdt : d < t.dies := ht ▸ hd
  obtain ⟨hlo, -, -⟩ := readBar0_acc hd hi
  obtain ⟨-, hhi, hcount⟩ := readBar0_acc hdt hi
  rw [hself] at hhi hcount
  dsimp only at hhi hcount
  rw [Tbl.get_set_self] at hhi hcount
  refine ⟨t, hrun, (execSumLoRead_frames d i s).onlyOf hrun, ht ▸ rfl, hlo.trans (by rw [← hx]), hhi.trans (Nat.mod_eq_of_lt ?_), hcount.trans (Nat.mod_eq_of_lt x.count.isLt),
    fun k hk => ht ▸ setMon_ne (hostAccess s) _ hk, ht ▸ rfl, hself⟩
  have := x.sum.isLt
  omega

/-- Settles O51: the writes by what the sequence is doing, the read by the words that it fills. -/
theorem monitorRegisters : Obligations.MonitorRegisters :=
  ⟨fun _ _ _ => monApply_applies, fun _ _ _ => monClear_clears, fun _ _ _ => monRunSet_starts, fun _ _ _ => monRunClear_stops, fun _ _ _ => sumLoRead_absent,
    fun _ _ _ _ => sumLoRead_snapshots⟩

end Sys2Proof.Machine
end

section
/-!
PROOFS. Fault commands (11 R339, 14 R380, R381, R389 to R392).
-/
namespace Sys2Proof.Machine

theorem Reports.queues {s t : State} (h : Reports s t) : QueuesKept s t := by
  constructor <;> rw [h.link]

/-! ### FAULT_QUERY, LOG_READ, FAULT_CLEAR -/

section
variable {s : State} {src : CmdSrc} {f : Fetched}

theorem faultQuery_writes (h : s.begins .faultQuery src f none) :
    ∃ t, exec (.faultQuery src) s = .next t ∧ Only [.link, .mb] s t
      ∧ Outputs s t src f (if field f.desc 4 0 8 = 0 then (takeFront src s).packageSummary else (takeFront src s).detailOf (field f.desc 5 0 3)) := by
  have hrun : exec (.faultQuery src) s = .next (finishOutput src f (if field f.desc 4 0 8 = 0 then (takeFront src s).packageSummary else (takeFront src s).detailOf (field f.desc 5 0 3)) (takeFront src s)) :=
    runCmd_begins h fun f s => finishOutput src f (if field f.desc 4 0 8 = 0 then s.packageSummary else s.detailOf (field f.desc 5 0 3)) s
  exact ⟨_, hrun, (takeFront_only src s).trans (finishOutput_only _ _ _ _), outputs_of_begins h rfl⟩

theorem takeFront_logOutput (src : CmdSrc) (s : State) (first most : Nat) : (takeFront src s).logOutput first most = s.logOutput first most := by
  cases src <;> rfl

theorem logRead_writes (h : s.begins .logRead src f none) :
    ∃ t, exec (.logRead src) s = .next t ∧ Only [.link, .mb] s t
      ∧ Outputs s t src f (s.logOutput (field f.desc 4 0 32) (min (field f.desc 8 0 16) ((bufLen f.desc - 16) / 96))) := by
  have hrun : exec (.logRead src) s = .next (finishOutput src f ((takeFront src s).logOutput (field f.desc 4 0 32) (min (field f.desc 8 0 16) ((bufLen f.desc - 16) / 96))) (takeFront src s)) :=
    runCmd_begins h fun f s => finishOutput src f (s.logOutput (field f.desc 4 0 32) (min (field f.desc 8 0 16) ((bufLen f.desc - 16) / 96))) s
  exact ⟨_, hrun, (takeFront_only src s).trans (finishOutput_only _ _ _ _), outputs_of_begins h (takeFront_logOutput src s _ _)⟩

theorem releaseLoop_clk {u : UnitRef} (hu : u.kind ≠ .clockLoop) (s : State) : releaseLoop u s = s :=
  if_pos (bne_iff_ne.mpr hu)

theorem faultClear_clears (h : s.begins .faultClear src f none) :
    ∃ t, exec (.faultClear src) s = .next t ∧ Only [.clk, .spans, .link, .integ, .mode, .mb, .sec, .modeCode] s t ∧ Answered s t src f .ok 0 []
      ∧ t.integ.occs = s.integ.occs.filter (fun o => o.unit != unitOf f.desc)
      ∧ ((unitOf f.desc).kind ≠ .clockLoop → t.clk = s.clk)
      ∧ Raises s t .faultCleared (unitOf f.desc).die [.w (unitOf f.desc).kind.type, .w (unitOf f.desc).die, .w (unitOf f.desc).loc] := by
  obtain ⟨u, hu⟩ : ∃ u, u = unitOf f.desc := ⟨_, rfl⟩
  obtain ⟨v, hv⟩ : ∃ v, v = releaseLoop u (eraseOccs u (takeFront src s)) := ⟨_, rfl⟩
  have hfront := takeFront_only src s
  have hreleased := releaseLoop_only u (eraseOccs u (takeFront src s))
  have honly : Only [.link, .mb, .integ, .clk] s v := by
    rw [hv]
    exact (hfront.mono rfl).trans (((eraseOccs_only u _).mono rfl).trans (hreleased.mono rfl))
  have hlink : v.link = (takeFront src s).link := by
    rw [hv, hreleased .link rfl]
    rfl
  have hoccs : v.integ.occs = s.integ.occs.filter fun o => o.unit != u := by
    rw [hv, hreleased .integ rfl]
    exact congrArg (fun x : IntegSt => x.occs.filter fun o => o.unit != u) (hfront .integ rfl)
  have hrun : exec (.faultClear src) s = .next (finish src f .ok 0 (refresh (raise .faultCleared u.die [.w u.kind.type, .w u.die, .w u.loc] v))) := by
    rw [hv, hu]
    exact runCmd_begins h fun f s => finish src f .ok 0 (refresh (raise .faultCleared (unitOf f.desc).die [.w (unitOf f.desc).kind.type, .w (unitOf f.desc).die, .w (unitOf f.desc).loc]
      (releaseLoop (unitOf f.desc) (eraseOccs (unitOf f.desc) s))))
  have hreports : Reports v (refresh (raise .faultCleared u.die [.w u.kind.type, .w u.die, .w u.loc] v)) := (raise_reports _ _ _ _).trans (refresh_reports _)
  rw [← hu]
  refine ⟨_, hrun, (execFaultClear_frames src s).onlyOf hrun, ((QueuesKept.of_link hlink).trans hreports.queues).answered h _ _, ?_, fun hloop => ?_, ?_⟩
  · rw [finish_only _ _ _ _ _ .integ rfl, refresh_occs, raise_occs, hoccs]
  · rw [finish_only _ _ _ _ _ .clk rfl, refresh_clk, raise_clk, hv, releaseLoop_clk hloop]
    exact hfront .clk rfl
  · exact Raises.andThen (finish_only _ _ _ _ _) rfl (Raises.andThen (refresh_only _) rfl (Raises.raise honly rfl rfl _ _ _))

end

/-! ### UNIT_RETIRE -/

theorem retirePlain_queues (u : UnitRef) (cause : Nat) (s : State) : QueuesKept s (retirePlain u cause s) := by
  unfold retirePlain
  exact (QueuesKept.of_link (retireUnit_link u s)).trans ((raise_reports _ _ _ _).trans (refresh_reports _)).queues

theorem retireForced_retired {u : UnitRef} (hu : u.kind = .watchTap ∨ u.kind = .bandTap) (s : State) : (retireForced u s).retired u = true := by
  unfold retireForced
  rcases hu with hu | hu <;> rw [hu]
  · exact retirePlain_retired u 2 s
  · exact zero_retired _ (retirePlain_retired u 2 s)

theorem retireByCommand_audio {u : UnitRef} (hu : u.kind = .context ∨ u.kind = .slot) (s : State) : retireByCommand u s = (false, retireAudio u s) := by
  unfold retireByCommand
  rcases hu with hu | hu <;> rw [hu]

theorem retireByCommand_waits {u : UnitRef} {s : State} (hu : u.kind = .bandTap ∨ u.kind = .exportTap) (hworks : s.unitWorks u = true) :
    retireByCommand u s = (true, s.setAudit u.die fun a => { a with replace := some u }) := by
  unfold retireByCommand
  rcases hu with hu | hu <;> rw [hu]
  · exact if_pos hworks
  · exact if_pos hworks

theorem retireByCommand_plain {u : UnitRef} (hu : u.kind = .watchTap ∨ u.kind = .clockLoop ∨ u.kind = .sramWord) (s : State) : retireByCommand u s = (false, retirePlain u 2 s) := by
  unfold retireByCommand
  rcases hu with hu | hu | hu <;> rw [hu]

/-- A unit that is retired although nothing can take its work over (11 R339). -/
def retireAnyway (src : CmdSrc) (f : Fetched) (u : UnitRef) (s : State) : State :=
  match u.kind with
  | .converter | .slice | .engine | .context | .slot => finish src f .ok 0 (retireByCommand u s).2
  | _ => finish src f .ok 0 (retireForced u s)

theorem retireAnyway_retired {u : UnitRef} (hu : u.kind = .watchTap ∨ u.kind = .bandTap ∨ u.kind = .context ∨ u.kind = .slot) (src : CmdSrc) (f : Fetched) (s : State) :
    (retireAnyway src f u s).retired u = true := by
  have hforced : u.kind = .watchTap ∨ u.kind = .bandTap → (finish src f .ok 0 (retireForced u s)).retired u = true :=
    fun hkind => (finish_only _ _ _ _ _).retired rfl (retireForced_retired hkind s)
  have haudio : u.kind = .context ∨ u.kind = .slot → (finish src f .ok 0 (retireByCommand u s).2).retired u = true :=
    fun hkind => by
      rw [retireByCommand_audio hkind]
      exact (finish_only _ _ _ _ _).retired rfl (retireAudio_facts u s)
  unfold retireAnyway
  rcases hu with hu | hu | hu | hu <;> rw [hu]
  · exact hforced (.inl hu)
  · exact hforced (.inr hu)
  · exact haudio (.inl hu)
  · exact haudio (.inr hu)

section
variable {s : State} {src : CmdSrc} {f : Fetched} {u : UnitRef}

theorem unitRetire_retires (h : s.begins .unitRetire src f none) (hu : unitOf f.desc = u) :
    ∃ t, exec (.unitRetire src) s = .next t ∧ Only [.spans, .front, .taps, .lanes, .ofdm, .link, .cal, .integ, .mode, .domains, .mb, .sec, .nv, .modeCode] s t
      ∧ ((takeFront src s).replaceable u = false → bitAt f.desc 9 0 = false → Only [.link, .mb] s t ∧ Answered s t src f .resourceBusy 0 [])
      ∧ ((takeFront src s).replaceable u = false → bitAt f.desc 9 0 = true → u.kind = .watchTap ∨ u.kind = .bandTap ∨ u.kind = .context ∨ u.kind = .slot →
          t.retired u = true)
      ∧ ((takeFront src s).replaceable u = true → u.kind = .bandTap ∨ u.kind = .exportTap → (takeFront src s).unitWorks u = true →
          Waits t src f (.retire u) ∧ (t.taps.audits.get u.die).replace = some u ∧ t.nv = s.nv)
      ∧ ((takeFront src s).replaceable u = true → u.kind = .watchTap ∨ u.kind = .clockLoop ∨ u.kind = .sramWord →
          t.retired u = true ∧ Raises s t .unitRetired u.die [.w u.kind.type, .w u.die, .w u.loc, .w (2 : Nat)] ∧ Answered s t src f .ok 0 []) := by
  have hfront := takeFront_only src s
  have hrun : exec (.unitRetire src) s = .next (if !(takeFront src s).replaceable u then (if bitAt f.desc 9 0 then retireAnyway src f u (takeFront src s) else finish src f .resourceBusy 0 (takeFront src s))
      else if (retireByCommand u (takeFront src s)).1 then await src f (.retire u) (retireByCommand u (takeFront src s)).2 else finish src f .ok 0 (retireByCommand u (takeFront src s)).2) := by
    rw [← hu]
    exact runCmd_begins h fun f s => if !s.replaceable (unitOf f.desc) then (if bitAt f.desc 9 0 then retireAnyway src f (unitOf f.desc) s else finish src f .resourceBusy 0 s)
      else if (retireByCommand (unitOf f.desc) s).1 then await src f (.retire (unitOf f.desc)) (retireByCommand (unitOf f.desc) s).2 else finish src f .ok 0 (retireByCommand (unitOf f.desc) s).2
  refine ⟨_, hrun, (execUnitRetire_frames src s).onlyOf hrun, ?_⟩
  cases hreplaceable : (takeFront src s).replaceable u with
  | false =>
    cases hforce : bitAt f.desc 9 0 with
    | false => exact ⟨fun _ _ => finish_takeFront h.1 .resourceBusy 0, fun _ => nofun, nofun, nofun⟩
    | true => exact ⟨fun _ => nofun, fun _ _ hkind => retireAnyway_retired hkind src f _, nofun, nofun⟩
  | true =>
    refine ⟨nofun, nofun, fun _ hkind hworks => ?_, fun _ hkind => ?_⟩
    · rw [retireByCommand_waits hkind hworks]
      refine ⟨await_waits _ _ _ _, ?_, (await_nv _ _ _ _).trans (hfront .nv rfl)⟩
      change ((await src f (.retire u) ((takeFront src s).setAudit u.die fun a => { a with replace := some u })).taps.audits.get u.die).replace = _
      rw [await_only _ _ _ _ .taps rfl]
      exact congrArg AuditTap.replace (Tbl.get_modify_self _ _ _)
    · rw [retireByCommand_plain hkind]
      simp only [Bool.not_true, Bool.false_eq_true, ↓reduceIte]
      refine ⟨(finish_only _ _ _ _ _).retired rfl (retirePlain_retired u 2 _), ?_, (retirePlain_queues u 2 _).answered h .ok 0⟩
      exact Raises.andThen (finish_only _ _ _ _ _) rfl (retirePlain_raises u 2 hfront)

/-! ### UNIT_RESTORE -/

theorem restorePlain_facts (u : UnitRef) (s : State) :
    QueuesKept s (restorePlain u s) ∧ (restorePlain u s).nv = { s.nv with retired := s.nv.retired.filter (· != u) }
      ∧ Raises s (restorePlain u s) .unitRestored u.die [.w u.kind.type, .w u.die, .w u.loc, .w (2 : Nat)] := by
  unfold restorePlain
  refine ⟨(QueuesKept.of_link rfl : QueuesKept s (unretireUnit u s)).trans ((raise_reports _ _ _ _).trans (refresh_reports _)).queues, ?_, ?_⟩
  · rw [refresh_nv, raise_nv, no_retire]
  · exact Raises.andThen (refresh_only _) rfl (Raises.raise (unretireUnit_only u s) rfl rfl _ _ _)

/-- UNIT_RESTORE of a unit that the trial alone decides. -/
theorem restorePlain_ends (h : s.begins .unitRestore src f none) {pass : Bool} {t : State}
    (ht : t = if pass then finish src f .ok 0 (restorePlain u (takeFront src s)) else finish src f .ok 1 (takeFront src s)) :
    (pass = false → Only [.link, .mb] s t ∧ Answered s t src f .ok 1 [])
      ∧ (pass = true → t.nv = { s.nv with retired := s.nv.retired.filter (· != u) } ∧ t.retired u = false ∧ Answered s t src f .ok 0 []
          ∧ Raises s t .unitRestored u.die [.w u.kind.type, .w u.die, .w u.loc, .w (2 : Nat)]) := by
  subst ht
  cases pass with
  | false => exact ⟨fun _ => finish_takeFront h.1 .ok 1, nofun⟩
  | true =>
    obtain ⟨hqueues, hnv, hraises⟩ := restorePlain_facts u (takeFront src s)
    have hkept : (finish src f .ok 0 (restorePlain u (takeFront src s))).nv = { s.nv with retired := s.nv.retired.filter (· != u) } := by
      rw [finish_nv, hnv, takeFront_only src s .nv rfl]
    refine ⟨nofun, fun _ => ⟨hkept, ?_, hqueues.answered h _ _, ?_⟩⟩
    · exact (congrArg (fun x : NvSt => x.retired.contains u) hkept).trans (filter_unretired _ _)
    · exact Raises.andThen (finish_only _ _ _ _ _) rfl (Raises.after (takeFront_only src s) rfl rfl hraises)

theorem unitRestore_restores {pass : Bool} (h : s.begins .unitRestore src f none) (hu : unitOf f.desc = u) :
    ∃ t, exec (.unitRestore src pass) s = .next t
      ∧ Only [.clk, .spans, .front, .taps, .lanes, .ofdm, .link, .cal, .integ, .mode, .domains, .mb, .sec, .nv, .retirement, .modeCode] s t
      ∧ ((takeFront src s).restorable u = false → Only [.link, .mb] s t ∧ Answered s t src f .badParam 6 [])
      ∧ ((takeFront src s).restorable u = true → u.kind = .engine → Waits t src f (.restore u)
          ∧ (t.ofdm.regions.get (u.die * 2 + u.loc / 2)).restore = some (u.loc, false) ∧ t.nv = s.nv)
      ∧ ((takeFront src s).restorable u = true → u.kind = .audit ∨ u.kind = .context ∨ u.kind = .slot ∨ u.kind = .watchTap ∨ u.kind = .linkLane ∨ u.kind = .clockLoop ∨ u.kind = .sramWord →
          (pass = false → Only [.link, .mb] s t ∧ Answered s t src f .ok 1 [])
          ∧ (pass = true → t.nv = { s.nv with retired := s.nv.retired.filter (· != u) } ∧ t.retired u = false ∧ Answered s t src f .ok 0 []
              ∧ Raises s t .unitRestored u.die [.w u.kind.type, .w u.die, .w u.loc, .w (2 : Nat)]))
      ∧ ((takeFront src s).restorable u = true → u.kind = .lane → (takeFront src s).replacedPos (laneCluster (u.global 32)) ≠ some (u.global 32 % 8) →
          (pass = false → Answered s t src f .ok 1 [] ∧ t.nv = s.nv ∧ Raises s t .laneRestored u.die [.w (u.global 32), .w (1 : Nat), .q (0 : Nat)])
          ∧ (pass = true → Answered s t src f .ok 0 [] ∧ t.nv = { s.nv with retired := s.nv.retired.filter (· != u) }
              ∧ Raises s t .laneRestored u.die [.w (u.global 32), .w (0 : Nat), .q (nextOf 200000 s.now)])) := by
  have hfront := takeFront_only src s
  have hframes := execUnitRestore_frames src pass s
  change ∃ t, execUnitRestore src pass s = _ ∧ _
  unfold execUnitRestore at hframes ⊢
  rw [runCmd_begins h] at hframes ⊢
  dsimp only at hframes ⊢
  rw [hu] at hframes ⊢
  refine ⟨_, rfl, hframes.onlyOf rfl, ?_⟩
  clear hframes
  cases hrestorable : (takeFront src s).restorable u with
  | false => exact ⟨fun _ => finish_takeFront h.1 .badParam 6, nofun, nofun, nofun⟩
  | true =>
    rw [if_neg (show ¬ (!true) = true from Bool.false_ne_true)]
    refine ⟨nofun, fun _ hkind => ?_, fun _ hkind => ?_, fun _ hkind hplace => ?_⟩
    · rw [hkind]
      refine ⟨await_waits _ _ _ _, ?_, (await_nv _ _ _ _).trans (hfront .nv rfl)⟩
      change ((await src f (.restore u) ((takeFront src s).setRegion (u.die * 2 + u.loc / 2) fun x => { x with restore := some (u.loc, false) })).ofdm.regions.get (u.die * 2 + u.loc / 2)).restore = _
      rw [await_only _ _ _ _ .ofdm rfl]
      exact congrArg RegionSt.restore (Tbl.get_modify_self _ _ _)
    · refine restorePlain_ends h ?_
      rcases hkind with hkind | hkind | hkind | hkind | hkind | hkind | hkind <;> rw [hkind]
    · have hplaced : ((takeFront src s).replacedPos (laneCluster (u.global 32)) == some (u.global 32 % 8)) = false := beq_eq_false_iff_ne.mpr hplace
      rw [hkind, hplaced]
      cases pass with
      | false =>
        simp only [Bool.false_and, Bool.false_eq_true, Bool.not_false, ↓reduceIte]
        refine ⟨fun _ => ⟨(raise_queues _ _ _ _).answered h .ok 1, ?_, Raises.andThen (finish_only _ _ _ _ _) rfl (Raises.raise hfront rfl rfl _ _ _)⟩, nofun⟩
        rw [finish_nv, raise_nv]
        exact hfront .nv rfl
      | true =>
        simp only [Bool.false_and, Bool.false_eq_true, Bool.not_true, ↓reduceIte]
        have hreports := fun n a => (raise_reports n u.die a (unretireUnit u (takeFront src s))).trans (refresh_reports _)
        have honly : Only [.link, .mb, .nv, .retirement] s (unretireUnit u (takeFront src s)) := (hfront.mono rfl).trans ((unretireUnit_only u _).mono rfl)
        refine ⟨nofun, fun _ => ⟨((QueuesKept.of_link rfl : QueuesKept (takeFront src s) (unretireUnit u (takeFront src s))).trans (hreports _ _).queues).answered h .ok 0, ?_,
          Raises.andThen (finish_only _ _ _ _ _) rfl (Raises.andThen (refresh_only _) rfl ?_)⟩⟩
        · rw [finish_nv, refresh_nv, raise_nv, no_retire, hfront .nv rfl]
        · rw [← hfront.now rfl]
          exact Raises.raise honly rfl rfl _ _ _

end

/-- Settles O52: each command by its branches, the retirements by the lemma of the operation that its unit's kind gives. -/
theorem faultCommands : Obligations.FaultCommands :=
  ⟨fun _ _ _ => faultQuery_writes, fun _ _ _ => faultClear_clears, fun _ _ _ _ => unitRetire_retires, fun _ _ _ _ _ => unitRestore_restores, fun _ _ _ => logRead_writes⟩

end Sys2Proof.Machine
end

section
/-!
PROOFS. Security commands (15 R399, R400, R402, R404, R405).
-/
namespace Sys2Proof.Machine

section
variable {s : State} {src : CmdSrc} {f : Fetched}

/-! ### Records and settings -/

theorem attest_writes (h : s.begins .attest src f none) :
    ∃ t, exec (.attest src) s = .next t ∧ Only [.link, .mb] s t ∧ Outputs s t src f ((takeFront src s).attestation (part f.desc 4 32)) := by
  have hrun : exec (.attest src) s = .next (finishOutput src f ((takeFront src s).attestation (part f.desc 4 32)) (takeFront src s)) :=
    runCmd_begins h fun f s => finishOutput src f (s.attestation (part f.desc 4 32)) s
  exact ⟨_, hrun, (takeFront_only src s).trans (finishOutput_only _ _ _ _), outputs_of_begins h rfl⟩

theorem takeFront_keyRecord (src : CmdSrc) (s : State) (k : Nat) : (takeFront src s).keyRecord k = s.keyRecord k := by
  cases src <;> rfl

theorem keyInfo_writes (h : s.begins .keyInfo src f none) :
    ∃ t, exec (.keyInfo src) s = .next t ∧ Only [.link, .mb] s t ∧ Outputs s t src f (s.keyRecord (field f.desc 4 0 8)) := by
  have hrun : exec (.keyInfo src) s = .next (finishOutput src f ((takeFront src s).keyRecord (field f.desc 4 0 8)) (takeFront src s)) :=
    runCmd_begins h fun f s => finishOutput src f (s.keyRecord (field f.desc 4 0 8)) s
  exact ⟨_, hrun, (takeFront_only src s).trans (finishOutput_only _ _ _ _), outputs_of_begins h (takeFront_keyRecord src s _)⟩

theorem takeFront_settingAt (src : CmdSrc) (s : State) (interval : Nat) : (takeFront src s).settingAt interval = s.settingAt interval := by
  cases src <;> rfl

theorem hallmarkConfig_sets (h : s.begins .hallmarkConfig src f none) :
    ∃ t, exec (.hallmarkConfig src) s = .next t ∧ Only [.link, .mb, .sec] s t ∧ Answered s t src f .ok (s.settingAt (field f.desc 4 0 8) / 100000) []
      ∧ t.sec = { s.sec with hall := { s.sec.hall with next_ := some ⟨s.settingAt (field f.desc 4 0 8), field f.desc 4 0 8, bitAt f.desc 5 0⟩ } } := by
  have hfront := takeFront_only src s
  change ∃ t, execHallmarkConfig src s = _ ∧ _
  unfold execHallmarkConfig
  rw [runCmd_begins h]
  dsimp only
  rw [takeFront_settingAt]
  refine ⟨_, rfl, (hfront.mono rfl).trans (((State.setHall_only _ _).mono rfl).trans ((finish_only _ _ _ _ _).mono rfl)), answered_of_begins h .ok _ _ rfl rfl, ?_⟩
  rw [finish_only _ _ _ _ _ .sec rfl]
  exact congrArg (fun x : SecSt => { x with hall := { x.hall with next_ := some ⟨s.settingAt (field f.desc 4 0 8), field f.desc 4 0 8, bitAt f.desc 5 0⟩ } }) (hfront .sec rfl)

/-! ### UPDATE_BEGIN and UPDATE_CHUNK -/

/-- An update begun: its slot is erased and marked. -/
def updateBegun (u : UpdateSt) (s : State) : State :=
  { s with sec := { s.sec with update := some u } }.setNvSec fun v => { v.setSlot u.slotB {} with updating := some u.slotB }

/-- The mode UPDATE entered with the update's slot erased. -/
theorem updateBegun_enters {v : State} {u : UpdateSt} (hv : Only [.link, .mb, .freeCount] s v) :
    (refresh (setMode .update .update (updateBegun u v))).mode.mode = .update
      ∧ (refresh (setMode .update .update (updateBegun u v))).nv = { s.nv with sec := { s.nv.sec.setSlot u.slotB {} with updating := some u.slotB } }
      ∧ (refresh (setMode .update .update (updateBegun u v))).sec.update = some u
      ∧ Raises s (refresh (setMode .update .update (updateBegun u v))) .modeChanged pkg [.w s.mode.mode.code, .w OpMode.update.code, .w ModeCause.update.code] := by
  obtain ⟨w, hw⟩ : ∃ w, w = updateBegun u v := ⟨_, rfl⟩
  have hmode : w.mode = s.mode := hw ▸ hv .mode rfl
  have hnv : w.nv = { s.nv with sec := { s.nv.sec.setSlot u.slotB {} with updating := some u.slotB } } :=
    hw ▸ congrArg (fun x : NvSt => { x with sec := { x.sec.setSlot u.slotB {} with updating := some u.slotB } }) (hv .nv rfl)
  have hupdate : w.sec.update = some u := hw ▸ rfl
  have hevents : s.link.events <+: w.link.events := hw ▸ hv .events rfl
  have htime : w.time.systime = s.time.systime := hw ▸ hv .systime rfl
  rw [← hw]
  refine ⟨?_, ?_, ?_, Raises.andThen (refresh_only _) rfl ?_⟩
  · rw [refresh_mode (by rw [setMode_mode]; rfl), setMode_mode]
  · rw [refresh_nv, setMode_nv, hnv]
  · rw [refresh_update, (setMode_report _ _ _).2.2, hupdate]
  · rw [← hmode]
    exact setMode_raises _ _ hevents htime

theorem updateBegin_begins (h : s.begins .updateBegin src f none) :
    ∃ t, exec (.updateBegin src) s = .next t ∧ Only [.spans, .audio, .link, .integ, .mode, .mb, .sec, .nv, .freeCount, .modeCode, .firmware] s t
      ∧ (s.mode.change.isSome = true → Only [.link, .mb] s t ∧ Answered s t src f .resourceBusy 0 [])
      ∧ (s.mode.change = none → ∃ b, (s.mode.mode ≠ .recovery → b = !s.sec.runningB) ∧ Answered s t src f .ok (b2n b) [] ∧ t.mode.mode = .update
          ∧ t.nv = { s.nv with sec := { s.nv.sec.setSlot b {} with updating := some b } }
          ∧ t.sec.update = some { slotB := b, len := field f.desc 4 0 32, digest := part f.desc 8 32, from_ := s.mode.mode }
          ∧ Raises s t .modeChanged pkg [.w s.mode.mode.code, .w OpMode.update.code, .w ModeCause.update.code]) := by
  have hfront := takeFront_only src s
  have hmode : (takeFront src s).mode = s.mode := hfront .mode rfl
  obtain ⟨v, hv⟩ : ∃ v, v = if s.mode.mode = .recovery then advanceFree (takeFront src s) else takeFront src s := ⟨_, rfl⟩
  have hfree : Only [.freeCount] (takeFront src s) v := hv ▸ Only.ite (advanceFree_only _) (Only.refl _ _)
  obtain ⟨u, hu⟩ : ∃ u : UpdateSt, u = { slotB := (takeFront src s).updateSlot, len := field f.desc 4 0 32, digest := part f.desc 8 32, from_ := s.mode.mode } := ⟨_, rfl⟩
  have hrun : exec (.updateBegin src) s = .next (if s.mode.change.isSome then finish src f .resourceBusy 0 (takeFront src s)
      else finish src f .ok (b2n u.slotB) (refresh (setMode .update .update (updateBegun u v)))) := by
    change execUpdateBegin src s = _
    unfold execUpdateBegin
    rw [runCmd_begins h]
    dsimp only
    rw [hmode, hu, hv]
    rfl
  obtain ⟨hmode', hnv, hupdate, hraises⟩ := updateBegun_enters (u := u) ((hfront.mono rfl).trans (hfree.mono rfl) : Only [.link, .mb, .freeCount] s v)
  have hqueues : QueuesKept (takeFront src s) (refresh (setMode .update .update (updateBegun u v))) :=
    (QueuesKept.of_link (hfree .link rfl) : QueuesKept (takeFront src s) (updateBegun u v)).trans ((setMode_reports .update .update (updateBegun u v)).trans (refresh_reports _)).queues
  refine ⟨_, hrun, (execUpdateBegin_frames src s).onlyOf hrun, ?_⟩
  cases hchange : s.mode.change with
  | some c => exact ⟨fun _ => finish_takeFront h.1 .resourceBusy 0, nofun⟩
  | none =>
    rw [if_neg (show ¬ (none : Option ModeChange).isSome = true from Bool.false_ne_true)]
    have hkept := finish_only src f .ok (b2n u.slotB) (refresh (setMode .update .update (updateBegun u v)))
    refine ⟨nofun, fun _ => ⟨u.slotB, fun hno => ?_, hqueues.answered h _ _, ?_, ?_, ?_, Raises.andThen hkept rfl hraises⟩⟩
    · rw [hu]
      dsimp only
      unfold State.updateSlot
      rw [if_neg (by rw [hmode]; exact hno), hfront .sec rfl]
    · rw [hkept .mode rfl, hmode']
    · rw [hkept .nv rfl, hnv]
    · rw [hkept .sec rfl, hupdate, hu]

theorem updateChunk_writes {buf : Option (List Byte)} {ok : Bool} (h : s.begins .updateChunk src f buf) :
    ∃ t, exec (.updateChunk src buf ok) s = .next t ∧ Only [.link, .mb, .sec] s t
      ∧ (ok = false → t.sec = s.sec ∧ Answered s t src f .timeout 0xFF [])
      ∧ (ok = true → Answered s t src f .ok 0 []
          ∧ t.sec = { s.sec with update := s.sec.update.map fun u => { u with chunks := u.chunks ++ [(field f.desc 4 0 32, inputBytes f.desc buf)] } }) := by
  have hfront := takeFront_only src s
  change ∃ t, execUpdateChunk src buf ok s = _ ∧ _
  unfold execUpdateChunk
  rw [runCmd_begins h]
  dsimp only
  cases ok with
  | false =>
    obtain ⟨honly, hanswered⟩ := finish_takeFront h.1 .timeout 0xFF
    exact ⟨_, rfl, honly.mono rfl, fun _ => ⟨honly .sec rfl, hanswered⟩, nofun⟩
  | true =>
    obtain ⟨c, hc⟩ : ∃ c, c = (field f.desc 4 0 32, inputBytes f.desc buf) := ⟨_, rfl⟩
    rw [← hc]
    refine ⟨finish src f .ok 0 _, rfl, (hfront.mono rfl).trans ((Only.ofMk rfl (Only.refl _ _)).trans ((finish_only _ _ _ _ _).mono rfl)), nofun,
      fun _ => ⟨answered_of_begins h .ok _ _ rfl rfl, ?_⟩⟩
    rw [finish_only _ _ _ _ _ .sec rfl]
    exact congrArg (fun x : SecSt => { x with update := x.update.map fun u : UpdateSt => { u with chunks := u.chunks ++ [c] } }) (hfront .sec rfl)

/-! ### UPDATE_FINISH -/

theorem takeFront_accepts (src : CmdSrc) (s : State) (img : List Byte) : (takeFront src s).accepts img = s.accepts img := by
  cases src <;> rfl

/-- An update that ends after `v`, which differs from `s` in nothing that an ended update leaves: its slot stays marked no more, the mode is the one from which it came. -/
theorem endUpdate_answers {v : State} {u : UpdateSt} {c : Cmd} {buf : Option (List Byte)} (h : s.begins c src f buf) (hqueues : QueuesKept (takeFront src s) v) (st : Status) (r : Nat) :
    (finish src f st r (endUpdate u v)).sec.update = none ∧ (finish src f st r (endUpdate u v)).nv = { v.nv with sec := { v.nv.sec with updating := none } }
      ∧ (u.from_.reception = false → (finish src f st r (endUpdate u v)).mode.mode = u.from_) ∧ Answered s (finish src f st r (endUpdate u v)) src f st r [] := by
  obtain ⟨hupdate, hnv, hmode, hrings, hsent⟩ := endUpdate_facts u v
  have hkept := finish_only src f st r (endUpdate u v)
  refine ⟨?_, ?_, fun hback => ?_, (hqueues.trans ⟨hsent, hrings⟩).answered h st r⟩
  · rw [hkept .sec rfl, hupdate]
  · rw [hkept .nv rfl, hnv]
  · rw [hkept .mode rfl, hmode hback]

theorem takeImage_queues (u : UpdateSt) (activate : Bool) (s : State) : QueuesKept s (takeImage u activate s) := by
  unfold takeImage
  dsimp only
  split
  · exact ⟨raise_sent _ _ _ _, raise_rings _ _ _ _⟩
  · exact ⟨rfl, rfl⟩

theorem takeImage_enrols {u : UpdateSt} (hclass : field u.image 6 0 8 = 1) (activate : Bool) (s : State) :
    (takeImage u activate s).nv = { s.nv with sec := { s.nv.sec with ownerHash := some (padTo 32 (Config.sm3 (slice u.image 128 64))) } } := by
  unfold takeImage
  dsimp only
  rw [if_pos hclass, raise_nv]
  rfl

theorem takeImage_enrolRaises {u : UpdateSt} (hclass : field u.image 6 0 8 = 1) (activate : Bool) {s v : State} (hv : Only [.link, .mb] s v) :
    Raises s (takeImage u activate v) .ownerEnrolled pkg [.q s.now] := by
  unfold takeImage
  dsimp only
  rw [if_pos hclass, ← hv.now rfl]
  exact raises_of (u := v.setNvSec _) (hv .events rfl) (hv .systime rfl) _ _ _

theorem takeImage_slots {u : UpdateSt} (hclass : field u.image 6 0 8 ≠ 1) (activate : Bool) (s : State) :
    (takeImage u activate s).nv.sec.slot u.slotB = ⟨true, u.image⟩ ∧ (takeImage u activate s).nv.sec.slot (!u.slotB) = s.nv.sec.slot (!u.slotB)
      ∧ (takeImage u activate s).nv.sec.ownerHash = s.nv.sec.ownerHash
      ∧ (activate = true → (takeImage u activate s).nv.sec.preferB = u.slotB ∧ (takeImage u activate s).nv.sec.bootSeq = s.nv.sec.bootSeq + 1)
      ∧ (activate = false → (takeImage u activate s).nv.sec.preferB = s.nv.sec.preferB ∧ (takeImage u activate s).nv.sec.bootSeq = s.nv.sec.bootSeq) := by
  obtain ⟨img, himg⟩ : ∃ img, img = u.image := ⟨_, rfl⟩
  unfold takeImage
  dsimp only
  rw [if_neg hclass, ← himg]
  unfold State.setNvSec NvSec.setSlot NvSec.slot
  dsimp only
  cases u.slotB <;> cases activate <;> exact ⟨rfl, rfl, rfl, fun h => by simp_all, fun h => by simp_all⟩

theorem updateFinish_ends {u : UpdateSt} (h : s.begins .updateFinish src f none) (hupdate : s.sec.update = some u) :
    ∃ t, exec (.updateFinish src) s = .next t ∧ Only [.spans, .audio, .link, .integ, .mode, .mb, .sec, .nv, .freeCount, .modeCode, .firmware] s t
      ∧ t.sec.update = none ∧ t.nv.sec.updating = none ∧ (u.from_.reception = false → t.mode.mode = u.from_)
      ∧ (u.complete = false → t.nv = { s.nv with sec := { s.nv.sec with updating := none } } ∧ ∃ r, Answered s t src f .badParam r [])
      ∧ (u.complete = true → padTo 32 (Config.sm3 u.image) ≠ u.digest → t.nv = { s.nv with sec := { s.nv.sec with updating := none } } ∧ Answered s t src f .checkFail 0 [])
      ∧ (u.complete = true → padTo 32 (Config.sm3 u.image) = u.digest → s.accepts u.image = false →
          t.nv = { s.nv with sec := { s.nv.sec with updating := none } } ∧ Answered s t src f .denied 0 [])
      ∧ (u.complete = true → padTo 32 (Config.sm3 u.image) = u.digest → s.accepts u.image = true → Answered s t src f .ok 0 []
          ∧ (field u.image 6 0 8 = 1 → t.nv.sec.ownerHash = some (padTo 32 (Config.sm3 (slice u.image 128 64))) ∧ t.nv.sec.slotA = s.nv.sec.slotA ∧ t.nv.sec.slotB = s.nv.sec.slotB
              ∧ Raises s t .ownerEnrolled pkg [.q s.now])
          ∧ (field u.image 6 0 8 ≠ 1 → t.nv.sec.slot u.slotB = ⟨true, u.image⟩ ∧ t.nv.sec.slot (!u.slotB) = s.nv.sec.slot (!u.slotB) ∧ t.nv.sec.ownerHash = s.nv.sec.ownerHash
              ∧ (bitAt f.desc 4 0 = true → t.nv.sec.preferB = u.slotB ∧ t.nv.sec.bootSeq = s.nv.sec.bootSeq + 1)
              ∧ (bitAt f.desc 4 0 = false → t.nv.sec.preferB = s.nv.sec.preferB ∧ t.nv.sec.bootSeq = s.nv.sec.bootSeq))) := by
  have hfront := takeFront_only src s
  have hnv : (takeFront src s).nv = s.nv := hfront .nv rfl
  obtain ⟨image, himage⟩ : ∃ x, x = padTo 32 (Config.sm3 u.image) := ⟨_, rfl⟩
  have hrun : exec (.updateFinish src) s = .next (if !u.complete then finish src f .badParam (takeFront src s).freeNat (endUpdate u (advanceFree (takeFront src s)))
      else if image != u.digest then finish src f .checkFail 0 (endUpdate u (takeFront src s))
      else if !s.accepts u.image then finish src f .denied 0 (endUpdate u (takeFront src s))
      else finish src f .ok 0 (endUpdate u (takeImage u (bitAt f.desc 4 0) (takeFront src s)))) := by
    change execUpdateFinish src s = _
    unfold execUpdateFinish
    rw [runCmd_begins h, hfront .sec rfl, hupdate]
    dsimp only
    rw [takeFront_accepts, himage]
  refine ⟨_, hrun, (execUpdateFinish_frames src s).onlyOf hrun, ?_⟩
  rw [← himage]
  have hfails : ∀ (v : State) (st : Status) (r : Nat), v.nv = s.nv → v.link = (takeFront src s).link →
      (finish src f st r (endUpdate u v)).sec.update = none ∧ (finish src f st r (endUpdate u v)).nv = { s.nv with sec := { s.nv.sec with updating := none } }
      ∧ (u.from_.reception = false → (finish src f st r (endUpdate u v)).mode.mode = u.from_) ∧ Answered s (finish src f st r (endUpdate u v)) src f st r [] := by
    intro v st r hvnv hvlink
    rw [← hvnv]
    exact endUpdate_answers h (.of_link hvlink) st r
  by_cases hcomplete : u.complete = true
  · rw [if_neg (by rw [hcomplete]; exact Bool.false_ne_true)]
    by_cases hdigest : image = u.digest
    · rw [if_neg (by rw [hdigest, bne_self_eq_false]; exact Bool.false_ne_true)]
      by_cases haccepts : s.accepts u.image = true
      · rw [if_neg (by rw [haccepts]; exact Bool.false_ne_true)]
        obtain ⟨hended, htnv, hmode, hanswered⟩ := endUpdate_answers (u := u) h (takeImage_queues u (bitAt f.desc 4 0) (takeFront src s)) .ok 0
        refine ⟨hended, congrArg (fun x : NvSt => x.sec.updating) htnv, hmode, fun hno => absurd hcomplete (Bool.eq_false_iff.mp hno), fun _ hno => absurd hdigest hno,
          fun _ _ hno => absurd haccepts (Bool.eq_false_iff.mp hno), fun _ _ _ => ⟨hanswered, fun hclass => ?_, fun hclass => ?_⟩⟩
        · rw [htnv, takeImage_enrols hclass, hnv]
          exact ⟨rfl, rfl, rfl, Raises.andThen (finish_only _ _ _ _ _) rfl (Raises.andThen (endUpdate_only _ _) rfl (takeImage_enrolRaises hclass _ hfront))⟩
        · rw [htnv, ← hnv]
          exact takeImage_slots hclass _ _
      · rw [if_pos (by rw [Bool.not_eq_true', ← Bool.not_eq_true]; exact haccepts)]
        obtain ⟨hended, htnv, hmode, hanswered⟩ := hfails (takeFront src s) .denied 0 hnv rfl
        exact ⟨hended, congrArg (fun x : NvSt => x.sec.updating) htnv, hmode, fun hno => absurd hcomplete (Bool.eq_false_iff.mp hno), fun _ hno => absurd hdigest hno,
          fun _ _ _ => ⟨htnv, hanswered⟩, fun _ _ hyes => absurd hyes haccepts⟩
    · rw [if_pos (bne_iff_ne.mpr hdigest)]
      obtain ⟨hended, htnv, hmode, hanswered⟩ := hfails (takeFront src s) .checkFail 0 hnv rfl
      exact ⟨hended, congrArg (fun x : NvSt => x.sec.updating) htnv, hmode, fun hno => absurd hcomplete (Bool.eq_false_iff.mp hno), fun _ _ => ⟨htnv, hanswered⟩,
        fun _ hyes => absurd hyes hdigest, fun _ hyes => absurd hyes hdigest⟩
  · rw [if_pos (by rw [Bool.not_eq_true', ← Bool.not_eq_true]; exact hcomplete)]
    obtain ⟨hended, htnv, hmode, hanswered⟩ := hfails (advanceFree (takeFront src s)) .badParam (takeFront src s).freeNat hnv rfl
    exact ⟨hended, congrArg (fun x : NvSt => x.sec.updating) htnv, hmode, fun _ => ⟨htnv, _, hanswered⟩, fun hyes => absurd hyes hcomplete, fun hyes => absurd hyes hcomplete,
      fun hyes => absurd hyes hcomplete⟩

end

/-- Settles O54: the records as they are written, the update by what each of its commands leaves of slots and mode. -/
theorem securityCommands : Obligations.SecurityCommands :=
  ⟨fun _ _ _ => attest_writes, fun _ _ _ => keyInfo_writes, fun _ _ _ => hallmarkConfig_sets, fun _ _ _ => updateBegin_begins, fun _ _ _ _ _ => updateChunk_writes,
    fun _ _ _ _ => updateFinish_ends⟩

end Sys2Proof.Machine
end

section
/-!
PROOFS. Security events (15 R398, R405 to R413).
-/
namespace Sys2Proof.Machine

section
variable {s : State}

/-! ### The anti-rollback counter (R398) -/

/-- The counter's missing levels are set, one bit each. -/
theorem rollback_setCounterBits {v : NvSec} {level : Nat} (k : Nat) (hlow : v.rollback < level) (hlevel : level ≤ 64) :
    NvSec.rollback { v with rollbackBits := setCounterBits (level - v.rollback) k v.rollbackBits } = level := by
  have hbits := counter_bits (level - v.rollback) k v.rollbackBits (by change v.rollback + _ ≤ 64; omega)
  change _ = v.rollback + _ at hbits
  change ((List.range 64).filter _).length = level
  rw [hbits]
  omega

theorem antiRollbackRaise_raises (hdone : s.sec.stage = .done) (hrecovery : s.mode.mode ≠ .recovery) (hhalted : s.mode.mode ≠ .halted)
    (hoff : s.mode.mode ≠ .off) (hday : s.sec.bootedAt + 86400 * 100000000 ≤ s.now) (hlow : s.nv.sec.rollback < s.sec.fwLevel) :
    ∃ t, exec .antiRollbackRaise s = .next t ∧ Only [.link, .integ, .sec, .nv, .freeCount] s t
      ∧ t.nv = { s.nv with sec := { s.nv.sec with rollbackBits := t.nv.sec.rollbackBits } }
      ∧ (s.sec.fwLevel ≤ 64 → t.nv.sec.rollback = s.sec.fwLevel) ∧ Raises s t .rollbackRaised pkg [.w s.sec.fwLevel] := by
  have hguard : (decide (s.sec.stage = .done) && decide (s.mode.mode ≠ .recovery) && decide (s.mode.mode ≠ .halted) && decide (s.mode.mode ≠ .off)
      && decide (s.sec.bootedAt + 86400 * countsPerSecond ≤ s.now) && decide (s.nv.sec.rollback < s.sec.fwLevel)) = true := by
    rw [decide_eq_true hdone, decide_eq_true hrecovery, decide_eq_true hhalted, decide_eq_true hoff, decide_eq_true hlow,
      decide_eq_true (show s.sec.bootedAt + 86400 * countsPerSecond ≤ s.now from hday)]
    rfl
  have hframes := execAntiRollbackRaise_frames s
  change ∃ t, execAntiRollbackRaise s = _ ∧ _
  unfold execAntiRollbackRaise at hframes ⊢
  dsimp only at hframes ⊢
  rw [onlyIf_of_true hguard] at hframes ⊢
  refine ⟨_, rfl, hframes.onlyOf rfl, ?_, fun hlevel => ?_, raises_of (List.prefix_refl _) rfl _ _ _⟩
  · rw [raise_nv]
  · rw [raise_nv]
    exact rollback_setCounterBits _ hlow hlevel

/-! ### Hallmark intervals (R405 to R412) -/

/-- A seal leaves the interval in progress and what an armed edge cut off. -/
theorem sealInterval_keeps (a : HallAcc) (stop : Nat) (step : Option Int) (s : State) :
    (sealInterval a stop step s).sec.hall.cut = s.sec.hall.cut ∧ (sealInterval a stop step s).sec.hall.acc = s.sec.hall.acc := by
  unfold sealInterval
  dsimp only
  obtain ⟨u, hu⟩ : ∃ u, u = s.setHall fun h => { h with key := h.key.map fun k => if h.keyNew then { k with cert := s.keyCert k.pub h.recordNum a.start } else k } :=
    ⟨_, rfl⟩
  have hcut : u.sec.hall.cut = s.sec.hall.cut := hu ▸ rfl
  have hacc : u.sec.hall.acc = s.sec.hall.acc := hu ▸ rfl
  rw [← hu, ← hcut, ← hacc]
  obtain ⟨v, hv⟩ : ∃ v, v = formRecordBlocks .hallmark (fun _ => true) 65536
      ((if s.sec.hall.keyNew && !s.sec.hall.erased then (u.sec.hall.key.map (·.cert)).toList else [])
        ++ u.sealRecord a stop step (u.leaves (if step.isSome then a else a.upTo stop) stop) :: u.leaves (if step.isSome then a else a.upTo stop) stop)
      { format := 0x0701, srcType := 9, srcIndex := 0, die := 0, timestamp := a.start, sampleCount := 0, flags := u.clockFlags 0 [] a.start stop, payload := [] } u :=
    ⟨_, rfl⟩
  have hsec : v.sec = u.sec := hv ▸ formRecordBlocks_only _ _ _ _ _ u .sec rfl
  rw [← hv, ← hsec]
  split <;> exact ⟨rfl, rfl⟩

/-- With no new key there is no certificate to renew. -/
theorem setHall_certs_of_old (hold : s.sec.hall.keyNew = false) (cert : HallKey → Nat → List Byte) :
    (s.setHall fun h => { h with key := h.key.map fun k => if h.keyNew then { k with cert := cert k h.recordNum } else k }) = s := by
  have hkeys : (s.sec.hall.key.map fun k => if s.sec.hall.keyNew then { k with cert := cert k s.sec.hall.recordNum } else k) = s.sec.hall.key := by
    rw [hold]
    exact Option.map_id'
  unfold State.setHall
  dsimp only
  rw [hkeys]

/-- The blocks a seal delivers where its key is not new: the seal record and the leaves. -/
theorem sealInterval_link (hold : s.sec.hall.keyNew = false) (a : HallAcc) (stop : Nat) (step : Option Int) {ls : List (List Byte)}
    (hls : ls = s.leaves (if step.isSome then a else a.upTo stop) stop) :
    (sealInterval a stop step s).link = (formRecordBlocks .hallmark (fun _ => true) 65536 (s.sealRecord a stop step ls :: ls)
      { format := 0x0701, srcType := 9, srcIndex := 0, die := 0, timestamp := a.start, sampleCount := 0, flags := s.clockFlags 0 [] a.start stop, payload := [] } s).link := by
  unfold sealInterval
  dsimp only
  rw [setHall_certs_of_old hold (fun k n => s.keyCert k.pub n a.start), ← hls, hold]
  simp only [Bool.false_and, Bool.false_eq_true, if_false, List.nil_append]
  generalize formRecordBlocks _ _ _ _ _ s = v
  split <;> rfl

theorem takeSetting_cut (s : State) : (takeSetting s).sec.hall.cut = s.sec.hall.cut := by
  unfold takeSetting State.setHall
  dsimp only
  split
  · split <;> rfl
  · rfl

theorem nextInterval_cut (t : Nat) (s : State) : (nextInterval t s).sec.hall.cut = s.sec.hall.cut := by
  rw [← takeSetting_cut s]
  unfold nextInterval
  dsimp only
  split <;> split <;> rfl

/-- With no setting waiting the next interval of an enabled feature begins with nothing in it. -/
theorem nextInterval_begins (t : Nat) (hnext : s.sec.hall.next_ = none) (henable : s.sec.hall.enable = true) :
    nextInterval t s = beginInterval t s := by
  unfold nextInterval
  dsimp only
  rw [(takeSetting_hall s).2.2.2 hnext, hnext]
  exact if_pos henable

/-- The seal of an interval that ended, and the next one with what came since. -/
theorem hallmarkIntervalEnd_seals {a : HallAcc} {stop : Nat} {ls : List (List Byte)} (hcut : s.sec.hall.cut = none) (hacc : s.sec.hall.acc = some a)
    (hm : s.mode.mode.sealing = true) (hstop : stop = s.sec.hall.endOf a.start) (hnow : stop ≤ s.now) (hls : ls = s.leaves (a.upTo stop) stop) :
    ∃ t, exec .hallmarkIntervalEnd s = .next t ∧ Only [.link, .sec, .nv] s t
      ∧ t.sec.hall.recordNum = s.sec.hall.recordNum + 1 ∧ t.sec.hall.keyNew = false ∧ t.sec.hall.cut = none
      ∧ (∃ last, t.sec.hall.last = some last ∧ last.boot = s.nv.bootNum.toNat ∧ last.num = s.sec.hall.recordNum
          ∧ (s.sec.hall.keyNew = false → last.digest = padTo 32 (Config.sm3 (s.sealRecord a stop none ls)))
          ∧ (s.sec.hall.checkpointAt + 600 * 100000000 ≤ s.now → t.nv.sec.checkpoint = some last)
          ∧ (s.now < s.sec.hall.checkpointAt + 600 * 100000000 → t.nv = s.nv))
      ∧ (s.sec.hall.keyNew = false → t.link = (formRecordBlocks .hallmark (fun _ => true) 65536 (s.sealRecord a stop none ls :: ls)
          { format := 0x0701, srcType := 9, srcIndex := 0, die := 0, timestamp := a.start, sampleCount := 0, flags := s.clockFlags 0 [] a.start stop, payload := [] } s).link)
      ∧ (s.sec.hall.next_ = none → s.sec.hall.enable = true → ∃ b, t.sec.hall.acc = some b ∧ b.start = stop ∧ b.events = a.eventsAfter stop)
      ∧ (s.sec.hall.next_ = none → s.sec.hall.enable = false → t.sec.hall.acc = none) := by
  obtain ⟨u, hu⟩ : ∃ u, u = sealInterval a stop none s := ⟨_, rfl⟩
  obtain ⟨v, hv⟩ : ∃ v, v = nextInterval stop u := ⟨_, rfl⟩
  have hrun : exec .hallmarkIntervalEnd s = .next (carryInterval a stop v) := by
    change execHallmarkIntervalEnd s = _
    unfold execHallmarkIntervalEnd
    dsimp only
    rw [hcut, hacc]
    dsimp only
    rw [← hstop, ← hu, ← hv]
    exact onlyIf_of_true (by rw [hm, decide_eq_true hnow]; rfl)
  obtain ⟨last, hlast, hboot, hnum, hdigest, hsave, hskip, hrec, hkey, hnext, henable⟩ := hu ▸ sealInterval_last a stop none s
  obtain ⟨hrec', hlast', hkey', hbegun, hidle⟩ := hv ▸ nextInterval_hall stop u
  have hseq : Only [.sec] u v := hv ▸ nextInterval_only stop u
  have hcut' : v.sec.hall.cut = none := by rw [hv, nextInterval_cut, hu, (sealInterval_keeps _ _ _ _).1, hcut]
  have hnv : (carryInterval a stop v).nv = u.nv := (carryInterval_only a stop v .nv rfl).trans (hseq .nv rfl)
  have hlink : (carryInterval a stop v).link = u.link := (carryInterval_only a stop v .link rfl).trans (hseq .link rfl)
  refine ⟨_, hrun, (execHallmarkIntervalEnd_frames s).onlyOf hrun, hrec'.trans hrec, hkey'.trans hkey, hcut',
    ⟨last, hlast'.trans hlast, hboot, hnum, fun hold => hls ▸ hdigest hold, fun hdue => ?_, fun hdue => ?_⟩, fun hold => ?_, fun hn he => ?_, fun hn he => ?_⟩
  · rw [hnv]
    exact hsave hdue
  · rw [hnv]
    exact hskip hdue
  · rw [hlink, hu]
    exact sealInterval_link hold a stop none hls
  · obtain ⟨b, hb, hstart⟩ := hbegun (hnext.trans hn) (henable.trans he)
    exact ⟨_, congrArg (Option.map _) hb, hstart, rfl⟩
  · exact congrArg (Option.map _) (hidle (hnext.trans hn) (henable.trans he))

theorem hallmarkIntervalEnd_seals_cut {u : State} {a : HallAcc} {stop : Nat} {step : Int} (hcut : s.sec.hall.cut = some (a, stop, step))
    (hm : s.mode.mode.sealing = true) (hu : u = s.setHall (fun h => { h with cut := none })) :
    ∃ t, exec .hallmarkIntervalEnd s = .next t ∧ Only [.link, .sec, .nv] s t ∧ t.sec.hall.cut = none ∧ t.sec.hall.acc = s.sec.hall.acc ∧ t.sec.hall.recordNum = s.sec.hall.recordNum + 1
      ∧ ∃ last, t.sec.hall.last = some last ∧ last.boot = s.nv.bootNum.toNat ∧ last.num = s.sec.hall.recordNum
        ∧ (s.sec.hall.keyNew = false → last.digest = padTo 32 (Config.sm3 (u.sealRecord a stop (some step) (u.leaves a stop)))) := by
  have hrun : exec .hallmarkIntervalEnd s = .next (sealInterval a stop (some step) u) := by
    change execHallmarkIntervalEnd s = _
    unfold execHallmarkIntervalEnd
    dsimp only
    rw [hcut, hu]
    exact onlyIf_of_true hm
  obtain ⟨last, hlast, hboot, hnum, hdigest, -, -, hrec, -⟩ := sealInterval_last a stop (some step) u
  obtain ⟨hcut', hacc'⟩ := sealInterval_keeps a stop (some step) u
  have hframes := (execHallmarkIntervalEnd_frames s).onlyOf hrun
  subst hu
  exact ⟨_, hrun, hframes, hcut', hacc', hrec, last, hlast, hboot, hnum, hdigest⟩

theorem hallmarkIntervalEnd_begins (hcut : s.sec.hall.cut = none) (hacc : s.sec.hall.acc = none) (hnext : s.sec.hall.next_ = none)
    (henable : s.sec.hall.enable = true) (hm : s.mode.mode.sealing = true)
    (hdue : s.sec.hall.startDue ≤ s.now / s.sec.hall.counts * s.sec.hall.counts) :
    ∃ t b, exec .hallmarkIntervalEnd s = .next t ∧ t.sec.hall.acc = some b ∧ b.start = s.now / s.sec.hall.counts * s.sec.hall.counts ∧ b.events = [] ∧ t.link = s.link ∧ t.nv = s.nv := by
  have hrun : exec .hallmarkIntervalEnd s = .next (beginInterval (s.now / s.sec.hall.counts * s.sec.hall.counts) s) := by
    change execHallmarkIntervalEnd s = _
    unfold execHallmarkIntervalEnd
    dsimp only
    rw [hcut, hacc]
    dsimp only
    rw [(takeSetting_hall s).2.2.2 hnext, nextInterval_begins _ hnext henable]
    exact onlyIf_of_true (by rw [hm, henable, decide_eq_true hdue]; rfl)
  exact ⟨_, _, hrun, rfl, rfl, rfl, rfl, rfl⟩

theorem hallmarkKeyRotation_replaces {k : HallKey} {a : HallAcc} (hkey : s.sec.hall.key = some k) (hacc : s.sec.hall.acc = some a)
    (hday : k.since + 86400 * 100000000 ≤ a.start) (herased : s.sec.hall.erased = false) :
    ∃ t, exec .hallmarkKeyRotation s = .next t ∧ Only [.link, .integ, .sec, .freeCount] s t ∧ t.sec.hall.keyNew = true
      ∧ ∃ k', t.sec.hall.key = some k' ∧ k'.since = s.now ∧ k'.number = s.freeCount + 1
        ∧ Raises s t .hallmarkKeyNew pkg [.w (leNat ((keyId k'.pub).take 4)), .w s.sec.hall.recordNum] := by
  have hrun : exec .hallmarkKeyRotation s = .next (newHallKey a.start s) := by
    change execHallmarkKeyRotation s = _
    unfold execHallmarkKeyRotation
    rw [hkey, hacc]
    exact onlyIf_of_true (by rw [decide_eq_true (show k.since + 86400 * countsPerSecond ≤ a.start from hday), herased]; rfl)
  refine ⟨_, hrun, (execHallmarkKeyRotation_frames s).onlyOf hrun, ?_, ⟨s.freeCount + 1, le 64 s.freeNat, s.now, (advanceFree s).keyCert (le 64 s.freeNat) s.sec.hall.recordNum a.start⟩, ?_, rfl, rfl, ?_⟩
  · unfold newHallKey
    dsimp only
    rw [raise_sec]
    rfl
  · unfold newHallKey
    dsimp only
    rw [raise_sec]
    rfl
  · unfold newHallKey
    exact raises_of (List.prefix_refl _) rfl _ _ _

/-! ### The debug port (R413) -/

theorem debugChallengeRead_takes_nonce {level : Nat} (hlocked : s.sec.debugLocked = false) (hoff : s.mode.mode ≠ .off) :
    ∃ t, exec (.debugChallengeRead level) s = .next t ∧ Only [.link, .sec, .freeCount] s t ∧ t.freeCount = s.freeCount + 1
      ∧ ∃ b, t.sec = { s.sec with challenge := some ⟨b, level, s.now⟩ } ∧ t.link = { s.link with sent := s.link.sent ++ [.debugOut b] }
        ∧ b = le 8 s.nv.sec.serial.toNat ++ le 4 s.nv.bootNum.toNat ++ le 1 level ++ zeros 3 ++ le 32 (Config.freeValue s.freeCount) := by
  have hguard : (!s.sec.debugLocked && decide (s.mode.mode ≠ .off)) = true := by
    rw [hlocked, decide_eq_true hoff]
    rfl
  have hframes := execDebugChallengeRead_frames level s
  change ∃ t, execDebugChallengeRead level s = _ ∧ _
  unfold execDebugChallengeRead at hframes ⊢
  dsimp only at hframes ⊢
  rw [onlyIf_of_true hguard] at hframes ⊢
  exact ⟨_, rfl, hframes.onlyOf rfl, rfl, _, rfl, rfl, rfl⟩

/-- An opened level: the key is the price of level 2. -/
theorem openDebug_opens (level : Nat) (s : State) :
    (openDebug level s).sec.challenge = none ∧ (openDebug level s).sec.debugLevel = max s.sec.debugLevel level
      ∧ (openDebug level s).sec.debugAttempts = s.sec.debugAttempts ∧ (openDebug level s).sec.hall.key = (if level = 2 then none else s.sec.hall.key)
      ∧ (level = 2 → (openDebug level s).sec.hall.erased = true) ∧ Raises s (openDebug level s) .debugOpened pkg [.w level] := by
  unfold openDebug State.setHall
  dsimp only
  rw [raise_sec]
  dsimp only
  refine ⟨rfl, rfl, rfl, ?_, fun h2 => ?_, raises_of (List.prefix_refl _) rfl _ _ _⟩
  · split <;> rfl
  · rw [if_pos h2]

theorem debugResponseWrite_answers {r : List Byte} {level : Nat} (hlocked : s.sec.debugLocked = false) (hoff : s.mode.mode ≠ .off)
    (hlevel : level = (s.sec.challenge.map (·.level)).getD 0) :
    ∃ t, exec (.debugResponseWrite r) s = .next t ∧ Only [.link, .integ, .sec, .debugLevel] s t ∧ t.sec.challenge = none
      ∧ (s.responseValid r = true → level = 2 → s.mode.mode ≠ .diagnostic → t.sec = { s.sec with challenge := none } ∧ t.link = s.link)
      ∧ (s.responseValid r = true → (level ≠ 2 ∨ s.mode.mode = .diagnostic) → t.sec.debugLevel = max s.sec.debugLevel level ∧ t.sec.debugAttempts = s.sec.debugAttempts
          ∧ t.sec.hall.key = (if level = 2 then none else s.sec.hall.key) ∧ (level = 2 → t.sec.hall.erased = true) ∧ Raises s t .debugOpened pkg [.w level])
      ∧ (s.responseValid r = false → t.sec.debugLevel = s.sec.debugLevel ∧ t.sec.debugAttempts = s.sec.debugAttempts + 1
          ∧ t.sec.debugLocked = decide (3 ≤ s.sec.debugAttempts + 1) ∧ t.sec.hall.key = s.sec.hall.key
          ∧ Raises s t .debugDenied pkg [.w (s.sec.debugAttempts + 1 : Nat)]) := by
  have hguard : (!s.sec.debugLocked && decide (s.mode.mode ≠ .off)) = true := by
    rw [hlocked, decide_eq_true hoff]
    rfl
  have hframes := execDebugResponseWrite_frames r s
  change ∃ t, execDebugResponseWrite r s = _ ∧ _
  unfold execDebugResponseWrite at hframes ⊢
  dsimp only at hframes ⊢
  rw [onlyIf_of_true hguard, ← hlevel] at hframes ⊢
  refine ⟨_, rfl, hframes.onlyOf rfl, ?_⟩
  by_cases hvalid : s.responseValid r = true
  · rw [if_pos hvalid]
    have hno : s.responseValid r ≠ false := fun hf => Bool.false_ne_true (hf.symm.trans hvalid)
    by_cases hdiag : level = 2 ∧ s.mode.mode ≠ .diagnostic
    · rw [if_pos (by simpa using hdiag)]
      exact ⟨rfl, fun _ _ _ => ⟨rfl, rfl⟩, fun _ hyes => absurd hdiag fun x => hyes.elim (fun h2 => h2 x.1) fun hd => x.2 hd, fun hf => absurd hf hno⟩
    · rw [if_neg (by simpa using hdiag)]
      obtain ⟨hchallenge, htop, hattempts, hkey, herased, hraises⟩ := openDebug_opens level s
      exact ⟨hchallenge, fun _ h2 hd => absurd ⟨h2, hd⟩ hdiag, fun _ _ => ⟨htop, hattempts, hkey, herased, hraises⟩, fun hf => absurd hf hno⟩
  · rw [if_neg hvalid, raise_sec]
    exact ⟨rfl, fun hyes => absurd hyes hvalid, fun hyes => absurd hyes hvalid,
      fun _ => ⟨rfl, rfl, rfl, rfl, raises_of (List.prefix_refl _) rfl _ _ _⟩⟩

end

/-- Settles O55: the counter's missing bits are set one by one; a seal is a function of the state before it, and the interval after it starts with what came since. -/
theorem securityEvents : Obligations.SecurityEvents :=
  ⟨fun _ => antiRollbackRaise_raises, fun _ _ _ _ => hallmarkIntervalEnd_seals, fun _ _ _ _ _ => hallmarkIntervalEnd_seals_cut, fun _ => hallmarkIntervalEnd_begins,
    fun _ _ _ => hallmarkKeyRotation_replaces, fun _ _ => debugChallengeRead_takes_nonce, fun _ _ _ => debugResponseWrite_answers⟩

end Sys2Proof.Machine
end

section
/-!
PROOFS. Memory, tasks, lasting rules and the fault log (14 R378 to R389).
-/
namespace Sys2Proof.Machine

section
variable {s : State}

/-! ### Memory (R378, R382, R383) -/

theorem remapRow_dies (d array row : Nat) (s : State) : (remapRow d array row s).integ.dies = s.integ.dies := by
  unfold remapRow
  dsimp only
  split
  · rfl
  · split
    · rw [refresh_dies, raise_dies]
      exact raise_dies ..
    · exact raise_dies ..

theorem remapRow_of_none {d array : Nat} (row : Nat) (hnone : s.rowsLeft d array = 0) : remapRow d array row s = s := by
  unfold remapRow
  exact if_pos hnone

/-- One spare row of an array's `n` taken for a row. -/
def spareTaken (d array row n : Nat) (s : State) : State :=
  { s with nv := { s.nv with spareRows := s.nv.spareRows.set (d * 112 + array) (n - 1), remapped := s.nv.remapped ++ [(d, array, row)] } }

/-- An array noted as without spare rows. -/
def rowsNotedGone (d array : Nat) (s : State) : State :=
  { s with integ := { s.integ with exhausted := s.integ.exhausted ++ [d * 112 + array] } }

theorem spareTaken_only (d array row n : Nat) (s : State) : Only [.nv] s (spareTaken d array row n s) := Only.ofMk rfl (Only.refl _ s)

theorem rowsNotedGone_only (d array : Nat) (s : State) : Only [.integ] s (rowsNotedGone d array s) := Only.ofMk rfl (Only.refl _ s)

theorem remapRow_of_some {d array : Nat} (row : Nat) (hleft : 0 < s.rowsLeft d array) :
    remapRow d array row s =
      if s.rowsLeft d array = 1 then
        refresh (raise .sramRowsExhausted d [.w d, .w array] (rowsNotedGone d array
          (raise .sramRowRemapped d [.w d, .w array, .w row, .w ((s.rowsLeft d array : Int) - 1)] (spareTaken d array row (s.rowsLeft d array) s))))
      else raise .sramRowRemapped d [.w d, .w array, .w row, .w ((s.rowsLeft d array : Int) - 1)] (spareTaken d array row (s.rowsLeft d array) s) := by
  unfold remapRow
  exact if_neg (Nat.ne_of_gt hleft)

/-- A row remapped takes one spare row; the last one taken is reported. -/
theorem remapRow_takes {d array : Nat} (row : Nat) {v : State} (hv : Only [.link, .integ, .sec] s v) (hleft : 0 < s.rowsLeft d array) :
    (remapRow d array row v).nv = { s.nv with spareRows := s.nv.spareRows.set (d * 112 + array) (s.rowsLeft d array - 1), remapped := s.nv.remapped ++ [(d, array, row)] }
      ∧ Raises s (remapRow d array row v) .sramRowRemapped d [.w d, .w array, .w row, .w ((s.rowsLeft d array : Int) - 1)]
      ∧ (s.rowsLeft d array = 1 → Raises s (remapRow d array row v) .sramRowsExhausted d [.w d, .w array]) := by
  have hnv : v.nv = s.nv := hv .nv rfl
  have hrows : v.rowsLeft d array = s.rowsLeft d array := congrArg (fun x : NvSt => x.spareRows.get (d * 112 + array)) hnv
  have htaken : Only [.link, .integ, .sec, .nv] s (spareTaken d array row (s.rowsLeft d array) v) := (hv.mono rfl).trans ((spareTaken_only _ _ _ _ _).mono rfl)
  obtain ⟨w, hw⟩ : ∃ w, w = raise .sramRowRemapped d [.w d, .w array, .w row, .w ((s.rowsLeft d array : Int) - 1)] (spareTaken d array row (s.rowsLeft d array) v) :=
    ⟨_, rfl⟩
  have hremapped : Raises s w .sramRowRemapped d [.w d, .w array, .w row, .w ((s.rowsLeft d array : Int) - 1)] := hw ▸ Raises.raise htaken rfl rfl _ _ _
  have hwnv : w.nv = (spareTaken d array row (s.rowsLeft d array) s).nv := by
    rw [hw, raise_nv]
    unfold spareTaken
    rw [hnv]
  have hgone : Only [.link, .integ, .sec, .nv] s (rowsNotedGone d array w) :=
    (hw ▸ htaken.trans ((raise_only _ _ _ _).mono rfl) : Only [.link, .integ, .sec, .nv] s w).trans ((rowsNotedGone_only _ _ _).mono rfl)
  rw [remapRow_of_some row (hrows.symm ▸ hleft), hrows, ← hw]
  by_cases hlast : s.rowsLeft d array = 1
  · rw [if_pos hlast]
    exact ⟨by rw [refresh_nv, raise_nv]; exact hwnv,
      Raises.andThen (refresh_only _) rfl (Raises.andThen (raise_only _ _ _ _) rfl (Raises.andThen (rowsNotedGone_only d array w) rfl hremapped)),
      fun _ => Raises.andThen (refresh_only _) rfl (Raises.raise hgone rfl rfl _ _ _)⟩
  · rw [if_neg hlast]
    exact ⟨hwnv, hremapped, fun hno => absurd hno hlast⟩

theorem sramSingleBitError_counts {d array row word : Nat} (hup : s.dieUp d = true) (harray : array < 112) (hm : s.mode.mode ≠ .off) :
    ∃ t, exec (.sramSingleBitError d array row word) s = .next t ∧ Only [.spans, .link, .integ, .mode, .sec, .nv, .modeCode] s t
      ∧ (t.integ.dies.get d).secCount = (s.integ.dies.get d).secCount + 1
      ∧ (s.recentOccs 0 (wordRef d word) + 1 < (s.rule 0).count → t.nv = s.nv)
      ∧ ((s.rule 0).count ≤ s.recentOccs 0 (wordRef d word) + 1 → s.rowsLeft d array = 0 → t.nv = s.nv)
      ∧ ((s.rule 0).count ≤ s.recentOccs 0 (wordRef d word) + 1 → 0 < s.rowsLeft d array →
          t.nv = { s.nv with spareRows := s.nv.spareRows.set (d * 112 + array) (s.rowsLeft d array - 1), remapped := s.nv.remapped ++ [(d, array, row)] }
          ∧ Raises s t .sramRowRemapped d [.w d, .w array, .w row, .w ((s.rowsLeft d array : Int) - 1)]
          ∧ (s.rowsLeft d array = 1 → Raises s t .sramRowsExhausted d [.w d, .w array])) := by
  obtain ⟨u, hu⟩ : ∃ u, u = s.setDieInteg d fun x => { x with secCount := x.secCount + 1 } := ⟨_, rfl⟩
  obtain ⟨v, hv⟩ : ∃ v, v = (occur 0 (wordRef d word) u).2 := ⟨_, rfl⟩
  have hrun : exec (.sramSingleBitError d array row word) s = .next (if (occur 0 (wordRef d word) u).1 then remapRow d array row v else v) := by
    change execSramSingleBitError d array row word s = _
    unfold execSramSingleBitError
    rw [hv, hu]
    exact onlyIf_of_true (by rw [hup, decide_eq_true harray, bne_off_of_ne hm]; rfl)
  have hlasting : (occur 0 (wordRef d word) u).1 = decide ((s.rule 0).count ≤ s.recentOccs 0 (wordRef d word) + 1) := by
    rw [occur_lasting, hu]
    rfl
  have honly : Only [.link, .integ, .sec] s v := by
    rw [hv]
    exact Only.trans (hu ▸ (State.setDieInteg_only s d _).mono rfl) (occur_only _ _ _)
  have hcount : (v.integ.dies.get d).secCount = (s.integ.dies.get d).secCount + 1 := by
    rw [hv, (occur_counters 0 (wordRef d word) u).2 d, hu, setDieInteg_self]
  refine ⟨_, hrun, (execSramSingleBitError_frames ..).onlyOf hrun, ?_, fun hfew => ?_, fun hmany hnone => ?_, fun hmany hleft => ?_⟩
  · split
    · rw [remapRow_dies, hcount]
    · exact hcount
  · rw [hlasting, decide_eq_false (Nat.not_le.mpr hfew), if_neg Bool.false_ne_true]
    exact honly .nv rfl
  · rw [hlasting, decide_eq_true hmany, if_pos rfl, remapRow_of_none row ((congrArg (fun x : NvSt => x.spareRows.get _) (honly .nv rfl)).trans hnone)]
    exact honly .nv rfl
  · rw [hlasting, decide_eq_true hmany, if_pos rfl]
    exact remapRow_takes row honly hleft

theorem sramUncorrectable_treats {d word : Nat} {o : SramOwner} (hup : s.dieUp d = true) (hoff : s.mode.mode ≠ .off) (hhalted : s.mode.mode ≠ .halted) :
    ∃ t, exec (.sramUncorrectable d word o) s = .next t
      ∧ Only [.spans, .front, .taps, .lanes, .ofdm, .audio, .ports, .link, .cfg, .cal, .integ, .mode, .domains, .mb, .sec, .nv, .modeCode] s t
      ∧ Raises s t .sramUncorrectable d [.w d, .w o.region.code, .w word, .q s.now]
      ∧ (o = .flitControl → (t.integ.dies.get d).dedCount = satInc (s.integ.dies.get d).dedCount ∧ Only [.link, .integ, .sec] s t)
      ∧ (o = .controlMemory → d = 0 → t.mode.mode = .halted)
      ∧ (o = .controlMemory → d ≠ 0 → t.integ.fenced.contains d = true) := by
  obtain ⟨u, hu⟩ : ∃ u, u = raise .sramUncorrectable d [.w d, .w o.region.code, .w word, .q s.now]
      (s.setDieInteg d fun x => { x with dedCount := satInc x.dedCount }) := ⟨_, rfl⟩
  have hrun : exec (.sramUncorrectable d word o) s = .next (loseData d o u) := by
    change execSramUncorrectable d word o s = _
    unfold execSramUncorrectable
    rw [hu]
    exact onlyIf_of_true (by rw [hup, bne_off_of_ne hoff, bne_iff_ne.mpr hhalted]; rfl)
  have hraises : Raises s u .sramUncorrectable d [.w d, .w o.region.code, .w word, .q s.now] := hu ▸ raises_of_same rfl rfl _ _ _
  have honly : Only [.link, .integ, .sec] s u := by
    rw [hu]
    exact ((State.setDieInteg_only s d _).mono rfl).trans (raise_only _ _ _ _)
  refine ⟨_, hrun, (execSramUncorrectable_frames ..).onlyOf hrun, Raises.andThen (loseData_only d o u) rfl hraises, fun ho => ?_, fun ho hd => ?_, fun ho hd => ?_⟩
  · subst ho
    refine ⟨?_, honly⟩
    change (u.integ.dies.get d).dedCount = _
    rw [hu, raise_dies, setDieInteg_self]
  · subst ho
    unfold loseData
    dsimp only
    rw [if_pos hd]
    exact enterHalted_mode _ _
  · subst ho
    unfold loseData
    dsimp only
    rw [if_neg hd]
    exact fenceDie_fenced _ _ _ _

theorem planishPassStart_starts {d : Nat} (hup : s.dieUp d = true) (hready : s.domainReady d 0 = true) (hboot : s.mode.mode ≠ .boot)
    (hrecovery : s.mode.mode ≠ .recovery) (hidle : (s.integ.dies.get d).passRunning = false) (hn : s.now % 800000000 = 0) :
    ∃ t, exec (.planishPassStart d) s = .next t ∧ Only [.integ] s t
      ∧ t.integ = { s.integ with dies := s.integ.dies.set d { s.integ.dies.get d with passRunning := true, passStart := s.now, passAge := 0 } } := by
  have hrun : exec (.planishPassStart d) s = .next (s.setDieInteg d fun x => { x with passRunning := true, passStart := s.now, passAge := 0 }) := by
    change execPlanishPassStart d s = _
    unfold execPlanishPassStart
    exact onlyIf_of_true (by
      rw [hup, hready, bne_iff_ne.mpr hboot, bne_iff_ne.mpr hrecovery, hidle, decide_eq_true (show s.now % (8 * countsPerSecond) = 0 from hn)]
      rfl)
  exact ⟨_, hrun, (execPlanishPassStart_frames d s).onlyOf hrun, rfl⟩

theorem planishPassComplete_reports {d : Nat} (hup : s.dieUp d = true) (hrunning : (s.integ.dies.get d).passRunning = true) :
    ∃ t, exec (.planishPassComplete d) s = .next t ∧ Only [.spans, .link, .integ, .mode, .sec, .modeCode] s t
      ∧ t.integ.dies.get d = { s.integ.dies.get d with passRunning := false, passAge := 0, lastPassMs := BitVec.ofNat 16 ((s.now - (s.integ.dies.get d).passStart) / 100000), passCount := (s.integ.dies.get d).passCount + 1 }
      ∧ t.integ.tasks = s.integ.tasks.filter (fun a => a.task != .planish d) ∧ ∀ k, k ≠ d → t.integ.dies.get k = s.integ.dies.get k := by
  have hguard : (s.dieUp d && (s.integ.dies.get d).passRunning) = true := by
    rw [hup, hrunning]
    rfl
  have hframes := execPlanishPassComplete_frames d s
  change ∃ t, execPlanishPassComplete d s = _ ∧ _
  unfold execPlanishPassComplete at hframes ⊢
  dsimp only at hframes ⊢
  rw [onlyIf_of_true hguard] at hframes ⊢
  refine ⟨_, rfl, hframes.onlyOf rfl, ?_, ?_, fun k hk => ?_⟩
  · rw [refresh_dies]
    exact setDieInteg_self ..
  · rw [refresh_tasks]
    rfl
  · rw [refresh_dies]
    exact setDieInteg_ne _ _ hk

/-! ### Background tasks (R386 to R388) -/

/-- A planish pass keeps its own age; an overdue level step notes what it reaches. -/
def taskAged (x : Task) (isOver : Bool) (s : State) : State :=
  match x with
  | .planish d => s.setDieInteg d fun x => { x with passAge := if isOver then 2 else 1 }
  | .level n => noteReach n s
  | _ => s

/-- The calibration tasks report CAL_OVERDUE as well. -/
def calOverdueNoted (x : Task) (s : State) : State :=
  match x with
  | .level n => raise .calOverdue pkg [.w 0, .w n] s
  | .monitor d => raise .calOverdue d [.w 4, .w d] s
  | _ => s

theorem taskAged_only (x : Task) (isOver : Bool) (s : State) : Only [.link, .cal, .integ, .sec] s (taskAged x isOver s) := by
  unfold taskAged
  split
  · exact (State.setDieInteg_only s _ _).mono rfl
  · exact noteReach_only _ _
  · exact Only.refl _ _

theorem taskAged_tasks (x : Task) (isOver : Bool) (s : State) : (taskAged x isOver s).integ.tasks = s.integ.tasks := by
  unfold taskAged
  split
  · rfl
  · exact noteReach_tasks ..
  · rfl

theorem calOverdueNoted_only (x : Task) (s : State) : Only [.link, .integ, .sec] s (calOverdueNoted x s) := by
  unfold calOverdueNoted
  split
  · exact raise_only _ _ _ _
  · exact raise_only _ _ _ _
  · exact Only.refl _ _

theorem calOverdueNoted_tasks (x : Task) (s : State) : (calOverdueNoted x s).integ.tasks = s.integ.tasks := by
  unfold calOverdueNoted
  split
  · exact raise_tasks ..
  · exact raise_tasks ..
  · rfl

theorem execBackgroundTaskAgeing_run {x : Task} {overdue isOver : Bool} {a b : Nat} (htimes : s.taskTimes x = some (a, b)) (hm : s.mode.mode ≠ .off)
    (hnow : a ≤ s.now) (hover : isOver = s.taskOver x overdue b) (hlate : isOver = true → s.taskAge x ≠ 2) (hdue : isOver = false → s.taskAge x = 0) :
    execBackgroundTaskAgeing x overdue s
      = .next (if isOver then refresh (preempt (taskOverdue x (calOverdueNoted x (taskAged x isOver s)))) else taskDue x (taskAged x isOver s)) := by
  have hguard : (s.mode.mode != .off && decide (a ≤ s.now) && (if isOver then s.taskAge x != 2 else s.taskAge x == 0)) = true := by
    rw [bne_off_of_ne hm, decide_eq_true hnow]
    cases isOver
    · simpa using hdue rfl
    · simpa using hlate rfl
  unfold execBackgroundTaskAgeing
  rw [htimes]
  dsimp only
  rw [← hover]
  exact onlyIf_of_true hguard

theorem backgroundTaskAgeing_ages {x : Task} {overdue isOver : Bool} {a b : Nat} (htimes : s.taskTimes x = some (a, b)) (hm : s.mode.mode ≠ .off)
    (hnow : a ≤ s.now) (hover : isOver = s.taskOver x overdue b) (hlate : isOver = true → s.taskAge x ≠ 2) (hdue : isOver = false → s.taskAge x = 0) :
    ∃ t, exec (.backgroundTaskAgeing x overdue) s = .next t ∧ Only [.spans, .lanes, .link, .cal, .integ, .mode, .sec, .modeCode] s t
      ∧ (isOver = true → Raises s t .taskOverdue x.die [.w x.code, .w x.die] ∧ ∀ d, x = .monitor d → Raises s t .calOverdue d [.w (4 : Nat), .w d])
      ∧ (isOver = false → t.integ.tasks = s.integ.tasks ++ [⟨x, none⟩]) := by
  have hrun := execBackgroundTaskAgeing_run htimes hm hnow hover hlate hdue
  have haged := taskAged_only x isOver s
  refine ⟨_, hrun, (execBackgroundTaskAgeing_frames x overdue s).onlyOf hrun, fun hyes => ?_, fun hno => ?_⟩
  · subst hyes
    rw [if_pos rfl]
    have hnoted : Only [.link, .cal, .integ, .sec] s (calOverdueNoted x (taskAged x true s)) := haged.trans ((calOverdueNoted_only _ _).mono rfl)
    have hage : (calOverdueNoted x (taskAged x true s)).taskAge x ≠ 2 := by
      rw [taskAge_of_tasks x ((calOverdueNoted_tasks _ _).trans (taskAged_tasks _ _ _))]
      exact hlate rfl
    refine ⟨taskOverdue_raises x (hnoted .events rfl) (hnoted .systime rfl) hage, fun d hx => ?_⟩
    subst hx
    exact calOverdue_taskOverdue _ _ _ (raises_of_same rfl rfl _ _ _)
  · subst hno
    exact taskDue_tasks x (taskAged_tasks x false s) (hdue rfl)

theorem flashRefresh_ends {fails : Bool} (hm : s.mode.mode ≠ .off) :
    ∃ t, exec (.flashRefresh fails) s = .next t ∧ Only [.spans, .link, .integ, .mode, .sec, .modeCode] s t
      ∧ (fails = false → t.integ.tasks = s.integ.tasks.filter (fun a => a.task != .flashRefresh) ∧ t.integ.flashFaults = s.integ.flashFaults.filter (· != .refresh))
      ∧ (fails = true → t.integ.flashFaults.contains .refresh = true ∧ t.integ.tasks = s.integ.tasks
          ∧ (s.integ.flashFaults.contains .refresh = false → Raises s t .flashFault pkg [.w FlashArea.refresh.code])) := by
  have hframes := execFlashRefresh_frames fails s
  change ∃ t, execFlashRefresh fails s = _ ∧ _
  unfold execFlashRefresh at hframes ⊢
  rw [onlyIf_of_true (bne_off_of_ne hm)] at hframes ⊢
  refine ⟨_, rfl, hframes.onlyOf rfl, fun hgood => ?_, fun hbad => ?_⟩
  · rw [hgood, if_neg Bool.false_ne_true, refresh_tasks, refresh_flashFaults]
    exact ⟨rfl, rfl⟩
  · rw [hbad, if_pos rfl, refresh_tasks, refresh_flashFaults]
    refine ⟨flashFault_contains _ _, ?_, fun hnew => Raises.andThen (refresh_only _) rfl ?_⟩
    · unfold flashFault
      split
      · rfl
      · exact raise_tasks ..
    · unfold flashFault
      rw [hnew, if_neg Bool.false_ne_true]
      exact raises_of_same rfl rfl _ _ _

/-! ### Lasting rules (R379) -/

theorem lastingRuleWrite_takes {i v : Nat} (hb : s.barUp = true) (hi : i < 7) :
    ∃ t, exec (.lastingRuleWrite i v) s = .next t ∧ Only [.integ, .mode, .rules] s t ∧ t.mode = { s.mode with lastAccess := s.now }
      ∧ ((ruleLimits i).1.1 ≤ v % 256 ∧ v % 256 ≤ (ruleLimits i).1.2 ∧ (ruleLimits i).2.1 ≤ v / 256 % 65536 ∧ v / 256 % 65536 ≤ (ruleLimits i).2.2 →
          t.integ = { s.integ with rules := s.integ.rules.set i ⟨v % 256, v / 256 % 65536⟩ })
      ∧ (¬((ruleLimits i).1.1 ≤ v % 256 ∧ v % 256 ≤ (ruleLimits i).1.2 ∧ (ruleLimits i).2.1 ≤ v / 256 % 65536 ∧ v / 256 % 65536 ≤ (ruleLimits i).2.2) → t.integ = s.integ) := by
  have hguard : (s.barUp && decide (i < 7)) = true := by
    rw [hb, decide_eq_true hi]
    rfl
  have hcond : (decide ((ruleLimits i).1.1 ≤ v % 256) && decide (v % 256 ≤ (ruleLimits i).1.2) && decide ((ruleLimits i).2.1 ≤ v / 256 % 65536)
      && decide (v / 256 % 65536 ≤ (ruleLimits i).2.2)) = true
      ↔ (ruleLimits i).1.1 ≤ v % 256 ∧ v % 256 ≤ (ruleLimits i).1.2 ∧ (ruleLimits i).2.1 ≤ v / 256 % 65536 ∧ v / 256 % 65536 ≤ (ruleLimits i).2.2 := by
    simp only [Bool.and_eq_true, decide_eq_true_eq, and_assoc]
  have hframes := execLastingRuleWrite_frames i v s
  change ∃ t, execLastingRuleWrite i v s = _ ∧ _
  unfold execLastingRuleWrite at hframes ⊢
  dsimp only at hframes ⊢
  rw [onlyIf_of_true hguard] at hframes ⊢
  refine ⟨_, rfl, hframes.onlyOf rfl, ?_, fun hin => ?_, fun hout => ?_⟩
  · split <;> rfl
  · rw [if_pos (hcond.mpr hin)]
    rfl
  · rw [if_neg (fun hyes => hout (hcond.mp hyes))]
    rfl

/-! ### The fault log (R389) -/

theorem faultLogWrite_writes {fails : Bool} {ev : Ev} {rest : List Ev} (hwaiting : s.integ.logWaiting = ev :: rest) (hm : s.mode.mode ≠ .off) :
    ∃ t, exec (.faultLogWrite fails) s = .next t ∧ Only [.spans, .link, .integ, .mode, .sec, .nv, .modeCode] s t ∧ rest <+: t.integ.logWaiting
      ∧ (fails = false → t.nv = { s.nv with log := (if (s.nv.log.length + 1) > 8192 then (s.nv.log ++ [(⟨s.nv.logNext, s.nv.bootNum, s.taiAt ev.raised, ev⟩ : LogEntry)]).drop 1 else s.nv.log ++ [⟨s.nv.logNext, s.nv.bootNum, s.taiAt ev.raised, ev⟩]), logNext := s.nv.logNext + 1 })
      ∧ (fails = true → t.nv = s.nv ∧ t.integ.flashFaults.contains .log = true) := by
  have hframes := execFaultLogWrite_frames fails s
  change ∃ t, execFaultLogWrite fails s = _ ∧ _
  unfold execFaultLogWrite at hframes ⊢
  rw [hwaiting] at hframes ⊢
  dsimp only at hframes ⊢
  rw [onlyIf_of_true (bne_off_of_ne hm)] at hframes ⊢
  refine ⟨_, rfl, hframes.onlyOf rfl, ?_⟩
  obtain ⟨u, hu⟩ : ∃ u, u = if rest.isEmpty then taskNormal .log { s with integ := { s.integ with logWaiting := rest } }
      else { s with integ := { s.integ with logWaiting := rest } } := ⟨_, rfl⟩
  have hqueue : u.integ.logWaiting = rest := by
    rw [hu]
    split <;> rfl
  have honly : Only [.integ] s u := by
    rw [hu]
    exact (Only.ofMk rfl (Only.refl _ s) : Only [.integ] s { s with integ := { s.integ with logWaiting := rest } }).trans
      (Only.ite (taskNormal_only _ _) (Only.refl _ _))
  have hnv : u.nv = s.nv := honly .nv rfl
  have htai : u.taiAt ev.raised = s.taiAt ev.raised := by
    unfold State.taiAt
    rw [honly .time rfl]
  rw [← hu]
  cases fails with
  | false =>
    obtain ⟨w, hw⟩ : ∃ w, w = writeLog ev { u with integ := { u.integ with flashFaults := u.integ.flashFaults.filter (· != FlashArea.log) } } := ⟨_, rfl⟩
    have hwqueue : w.integ.logWaiting = rest := hw ▸ hqueue
    have hwnv := hw ▸ writeLog_nv (u := { u with integ := { u.integ with flashFaults := u.integ.flashFaults.filter (· != FlashArea.log) } }) ev hnv htai
    rw [if_neg Bool.false_ne_true, ← hw]
    exact ⟨hwqueue ▸ logged_refresh w, fun _ => (refresh_nv w).trans hwnv, fun hno => absurd hno Bool.false_ne_true⟩
  | true =>
    rw [if_pos rfl]
    refine ⟨hqueue ▸ (logged_fault _ _).trans (logged_refresh _), fun hno => absurd hno.symm Bool.false_ne_true, fun _ => ⟨?_, ?_⟩⟩
    · rw [refresh_nv, flashFault_only _ _ .nv rfl, hnv]
    · rw [refresh_flashFaults]
      exact flashFault_contains _ _

theorem logSuppressed_reports {code : Nat} (hn : s.now % 6000000000 = 0) :
    ∃ t, exec (.logSuppressed code) s = .next t ∧ Only [.link, .integ, .sec] s t
      ∧ ((s.integ.codeCounts.get code).suppressed = 0 → t.integ = { s.integ with codeCounts := s.integ.codeCounts.set code {} } ∧ t.link = s.link)
      ∧ ((s.integ.codeCounts.get code).suppressed ≠ 0 → Raises s t .logSuppressed pkg [.w code, .w (s.integ.codeCounts.get code).suppressed]) := by
  have hframes := execLogSuppressed_frames code s
  change ∃ t, execLogSuppressed code s = _ ∧ _
  unfold execLogSuppressed at hframes ⊢
  dsimp only at hframes ⊢
  rw [onlyIf_of_true (decide_eq_true (show s.now % (60 * countsPerSecond) = 0 from hn))] at hframes ⊢
  refine ⟨_, rfl, hframes.onlyOf rfl, fun hnone => ?_, fun hsome => ?_⟩
  · rw [if_pos hnone]
    exact ⟨rfl, rfl⟩
  · rw [if_neg hsome]
    exact raises_of_same rfl rfl _ _ _

end

/-- Settles O56: each event against the counter, the queue or the table that it moves. -/
theorem repairEvents : Obligations.RepairEvents :=
  ⟨fun _ _ _ _ _ => sramSingleBitError_counts, fun _ _ _ _ => sramUncorrectable_treats, fun _ _ => planishPassStart_starts, fun _ _ => planishPassComplete_reports,
    fun _ _ _ _ _ _ => backgroundTaskAgeing_ages, fun _ _ => flashRefresh_ends, fun _ _ _ => lastingRuleWrite_takes, fun _ _ _ _ => faultLogWrite_writes,
    fun _ _ => logSuppressed_reports⟩

end Sys2Proof.Machine
end

section
/-!
PROOFS. Ring link failure and return (14 R378, R385, 01 R23, R24).
-/
namespace Sys2Proof.Machine

section
variable {s : State} {d dir : Nat}

/-! ### A failed link -/

theorem failLink_of_failed (hfailed : (s.linkDir d dir).failed = true) : failLink d dir s = s.setLink d dir fun x => { x with cleanSince := none } := by
  unfold failLink
  exact if_pos hfailed

theorem failLink_of_running (hrunning : (s.linkDir d dir).failed = false) :
    failLink d dir s = refresh (raise .linkFailed d [.w d, .w dir, .q s.now] (s.setLink d dir fun _ => { failed := true, probeAt := s.now })) := by
  unfold failLink
  rw [hrunning]
  exact if_neg Bool.false_ne_true

theorem failLink_links (s : State) {k : Nat} (hk : k ≠ d * 2 + dir) : (failLink d dir s).integ.links.get k = s.integ.links.get k := by
  unfold failLink
  split
  · exact setLink_ne _ _ _ _ hk
  · rw [refresh_links, raise_links]
    exact setLink_ne _ _ _ _ hk

theorem failLink_dies (d dir : Nat) (s : State) : (failLink d dir s).integ.dies = s.integ.dies := by
  unfold failLink
  split
  · rfl
  · rw [refresh_dies, raise_dies]
    rfl

/-- A link that ran is failed from now on, and reported. -/
theorem failLink_fails {as : List Aspect} {u : State} (hu : Only as s u) (he : as.contains .events = false) (ht : as.contains .systime = false)
    (hrunning : (u.linkDir d dir).failed = false) :
    (failLink d dir u).linkDir d dir = { failed := true, probeAt := s.now } ∧ Raises s (failLink d dir u) .linkFailed d [.w d, .w dir, .q s.now] := by
  have hnow : u.now = s.now := congrArg BitVec.toNat (hu .systime ht)
  rw [failLink_of_running hrunning, hnow]
  refine ⟨?_, Raises.andThen (refresh_only _) rfl (raises_of ?_ ?_ _ _ _)⟩
  · unfold State.linkDir
    rw [refresh_links, raise_links]
    exact setLink_self ..
  · exact hu .events he
  · exact hu .systime ht

/-! ### Flit errors -/

/-- A flit error counted at its receiver and its replay at the sender. -/
def flitCounted (d dir : Nat) (s : State) : State :=
  (s.setDieInteg (s.linkEnd d dir) fun y =>
    if dir = 0 then { y with flitErrRising := y.flitErrRising + 1 } else { y with flitErrFalling := y.flitErrFalling + 1 }).setDieInteg d fun y =>
      { y with replays := y.replays + 1 }

/-- A lane of a link charged with a flit error. -/
def laneCharged (d dir : Nat) (s : State) (l : Nat) : State :=
  if (occur 5 (linkLaneRef d dir l) s).1 then retireLinkLane (linkLaneRef d dir l) (occur 5 (linkLaneRef d dir l) s).2 else (occur 5 (linkLaneRef d dir l) s).2

theorem flitCounted_only (d dir : Nat) (s : State) : Only [.integ] s (flitCounted d dir s) :=
  (State.setDieInteg_only s _ _).trans (State.setDieInteg_only _ _ _)

theorem flitCounted_replays (d dir : Nat) (s : State) : ((flitCounted d dir s).integ.dies.get d).replays = (s.integ.dies.get d).replays + 1 := by
  unfold flitCounted
  rw [setDieInteg_self]
  by_cases hself : d = s.linkEnd d dir
  · rw [← hself, setDieInteg_self]
    split <;> rfl
  · rw [setDieInteg_ne _ _ hself]

/-- At the receiving die the error's direction is counted, whether or not it is the sender as well. -/
theorem flitCounted_end (d dir : Nat) (s : State) :
    ∃ n, (flitCounted d dir s).integ.dies.get (s.linkEnd d dir) =
      { (if dir = 0 then { s.integ.dies.get (s.linkEnd d dir) with flitErrRising := (s.integ.dies.get (s.linkEnd d dir)).flitErrRising + 1 }
          else { s.integ.dies.get (s.linkEnd d dir) with flitErrFalling := (s.integ.dies.get (s.linkEnd d dir)).flitErrFalling + 1 }) with replays := n } := by
  unfold flitCounted
  by_cases hself : s.linkEnd d dir = d
  · rw [hself, setDieInteg_self, setDieInteg_self]
    exact ⟨_, rfl⟩
  · rw [setDieInteg_ne _ _ hself, setDieInteg_self]
    exact ⟨_, rfl⟩

theorem laneCharged_only (d dir : Nat) (s : State) (l : Nat) : Only [.spans, .link, .integ, .mode, .sec, .nv, .modeCode] s (laneCharged d dir s l) := by
  unfold laneCharged
  exact Only.trans ((occur_only _ _ _).mono rfl) (Only.ite (retireLinkLane_only _ _) (Only.refl _ _))

theorem laneCharged_counters (d dir : Nat) (s : State) (l : Nat) : CountersKept s (laneCharged d dir s l) := by
  unfold laneCharged
  split
  · exact (occur_counters _ _ _).trans (retireLinkLane_counters _ _)
  · exact occur_counters _ _ _

theorem lanesCharged_counters (d dir : Nat) : ∀ (lanes : List Nat) (s : State), CountersKept s (lanes.foldl (laneCharged d dir) s)
  | [], _ => CountersKept.refl _
  | l :: lanes, s => (laneCharged_counters d dir s l).trans (lanesCharged_counters d dir lanes (laneCharged d dir s l))

/-- The lanes charged: those whose parity fails, or all eight. -/
def chargedLanes (lanes : List Nat) : List Nat := if lanes.isEmpty then List.range 8 else lanes.filter (decide <| · < 8)

theorem execFlitCrcError_run {bad rep : Nat} {lanes : List Nat} {consecutive replayed : Bool} (hd : d < s.dies) (hdir : dir < 2)
    (hready : s.domainReady d 1 = true) (hbad : bad = (if consecutive then (s.linkDir d dir).badRun + 1 else 1))
    (hrep : rep = (if replayed then (s.linkDir d dir).replayFails + 1 else 0)) :
    execFlitCrcError d dir lanes consecutive replayed s =
      .next (if 4 ≤ bad || 3 ≤ rep || (s.linkDir d dir).failed then
          failLink d dir (((chargedLanes lanes).foldl (laneCharged d dir) (flitCounted d dir s)).setLink d dir fun y => { y with badRun := bad, replayFails := rep })
        else ((chargedLanes lanes).foldl (laneCharged d dir) (flitCounted d dir s)).setLink d dir fun y => { y with badRun := bad, replayFails := rep }) := by
  have hguard : (decide (d < s.dies) && decide (dir < 2) && s.domainReady d 1) = true := by
    rw [decide_eq_true hd, decide_eq_true hdir, hready]
    rfl
  unfold execFlitCrcError
  dsimp only
  rw [onlyIf_of_true hguard, ← hbad, ← hrep]
  rfl

theorem flitCrcError_counts {bad rep : Nat} {lanes : List Nat} {consecutive replayed : Bool} (hd : d < s.dies) (hdir : dir < 2)
    (hready : s.domainReady d 1 = true) (hbad : bad = (if consecutive then (s.linkDir d dir).badRun + 1 else 1))
    (hrep : rep = (if replayed then (s.linkDir d dir).replayFails + 1 else 0)) :
    ∃ t, exec (.flitCrcError d dir lanes consecutive replayed) s = .next t ∧ Only [.spans, .link, .integ, .mode, .sec, .nv, .modeCode] s t
      ∧ (dir = 0 → (t.integ.dies.get (s.linkEnd d dir)).flitErrRising = (s.integ.dies.get (s.linkEnd d dir)).flitErrRising + 1)
      ∧ (dir = 1 → (t.integ.dies.get (s.linkEnd d dir)).flitErrFalling = (s.integ.dies.get (s.linkEnd d dir)).flitErrFalling + 1)
      ∧ (t.integ.dies.get d).replays = (s.integ.dies.get d).replays + 1
      ∧ (bad < 4 → rep < 3 → (s.linkDir d dir).failed = false → t.linkDir d dir = { s.linkDir d dir with badRun := bad, replayFails := rep })
      ∧ ((4 ≤ bad ∨ 3 ≤ rep) → (s.linkDir d dir).failed = false → t.linkDir d dir = { failed := true, probeAt := s.now } ∧ Raises s t .linkFailed d [.w d, .w dir, .q s.now])
      ∧ ((s.linkDir d dir).failed = true → (t.linkDir d dir).failed = true ∧ (t.linkDir d dir).cleanSince = none)
      ∧ ∀ k, k ≠ d * 2 + dir → t.integ.links.get k = s.integ.links.get k := by
  have hrun := execFlitCrcError_run (lanes := lanes) hd hdir hready hbad hrep
  have hframes := (execFlitCrcError_frames d dir lanes consecutive replayed s).onlyOf hrun
  obtain ⟨u, hu⟩ : ∃ u, u = (chargedLanes lanes).foldl (laneCharged d dir) (flitCounted d dir s) := ⟨_, rfl⟩
  obtain ⟨hlinks, hdies⟩ := hu ▸ lanesCharged_counters d dir (chargedLanes lanes) (flitCounted d dir s)
  obtain ⟨v, hv⟩ : ∃ v, v = u.setLink d dir fun y => { y with badRun := bad, replayFails := rep } := ⟨_, rfl⟩
  obtain ⟨t, ht⟩ : ∃ t, t = if 4 ≤ bad || 3 ≤ rep || (s.linkDir d dir).failed then failLink d dir v else v := ⟨_, rfl⟩
  rw [← hu, ← hv, ← ht] at hrun hframes
  have hlink : u.linkDir d dir = s.linkDir d dir := congrArg (fun x : Tbl LinkDir => x.get (d * 2 + dir)) hlinks
  have hself : v.linkDir d dir = { s.linkDir d dir with badRun := bad, replayFails := rep } := by rw [hv, setLink_self, hlink]
  have htdies : t.integ.dies = u.integ.dies := by
    rw [ht]
    split
    · rw [failLink_dies, hv]
      rfl
    · rw [hv]
      rfl
  obtain ⟨n, hend⟩ := flitCounted_end d dir s
  have honly : Only [.spans, .link, .integ, .mode, .sec, .nv, .modeCode] s v := by
    rw [hv, hu]
    exact ((flitCounted_only d dir s).mono rfl).trans ((Only.foldl (laneCharged_only d dir) _ _).trans ((State.setLink_only _ _ _ _).mono rfl))
  refine ⟨t, hrun, hframes, fun h0 => ?_, fun h1 => ?_, ?_, fun hfew hreps hrunning => ?_, fun hmany hrunning => ?_, fun hfailed => ?_, fun k hk => ?_⟩
  · rw [htdies, hdies, hend, if_pos h0]
  · rw [htdies, hdies, hend, if_neg (by omega)]
  · rw [htdies, hdies]
    exact flitCounted_replays d dir s
  · rw [ht, if_neg (by simp [hrunning]; omega)]
    exact hself
  · rw [ht, if_pos (by simp [hmany])]
    exact failLink_fails honly rfl rfl (by rw [hself]; exact hrunning)
  · rw [ht, if_pos (by simp [hfailed]), failLink_of_failed (by rw [hself]; exact hfailed), setLink_self, hself]
    exact ⟨hfailed, rfl⟩
  · have hvk : v.integ.links.get k = s.integ.links.get k := by
      rw [hv, setLink_ne _ _ _ _ hk, hlinks]
      rfl
    rw [ht, ← hvk]
    split
    · exact failLink_links v hk
    · rfl

/-! ### Probes, the return, loss of lock -/

theorem linkProbe_trains {trained : Bool} (hd : d < s.dies) (hdir : dir < 2) (hfailed : (s.linkDir d dir).failed = true)
    (hclean : (s.linkDir d dir).cleanSince = none) (hnow : (s.linkDir d dir).probeAt + 1000000000 ≤ s.now) :
    ∃ t, exec (.linkProbe d dir trained) s = .next t ∧ Only [.integ] s t
      ∧ t.linkDir d dir = { s.linkDir d dir with probeAt := s.now, cleanSince := if trained then some s.now else none } ∧ ∀ k, k ≠ d * 2 + dir → t.integ.links.get k = s.integ.links.get k := by
  have hrun : exec (.linkProbe d dir trained) s = .next (s.setLink d dir fun y => { y with probeAt := s.now, cleanSince := if trained then some s.now else none }) := by
    change execLinkProbe d dir trained s = _
    unfold execLinkProbe
    exact onlyIf_of_true (by
      rw [decide_eq_true hd, decide_eq_true hdir, hfailed, hclean, decide_eq_true (show (s.linkDir d dir).probeAt + 10 * countsPerSecond ≤ s.now from hnow)]
      rfl)
  exact ⟨_, hrun, (execLinkProbe_frames ..).onlyOf hrun, setLink_self .., fun k hk => setLink_ne _ _ _ _ hk⟩

theorem linkRestored_returns {since : Nat} (hd : d < s.dies) (hdir : dir < 2) (hfailed : (s.linkDir d dir).failed = true)
    (hclean : (s.linkDir d dir).cleanSince = some since) (hnow : since + 100000000 ≤ s.now) :
    ∃ t, exec (.linkRestored d dir) s = .next t ∧ Only [.spans, .link, .integ, .mode, .sec, .modeCode] s t
      ∧ t.linkDir d dir = {} ∧ Raises s t .linkRestored d [.w d, .w dir, .q s.now] ∧ ∀ k, k ≠ d * 2 + dir → t.integ.links.get k = s.integ.links.get k := by
  have hrun : exec (.linkRestored d dir) s = .next (refresh (raise .linkRestored d [.w d, .w dir, .q s.now] (s.setLink d dir fun _ => {}))) := by
    change execLinkRestored d dir s = _
    unfold execLinkRestored
    rw [hclean]
    exact onlyIf_of_true (by
      rw [decide_eq_true hd, decide_eq_true hdir, hfailed, decide_eq_true (show since + countsPerSecond ≤ s.now from hnow)]
      rfl)
  refine ⟨_, hrun, (execLinkRestored_frames ..).onlyOf hrun, ?_, Raises.andThen (refresh_only _) rfl (raises_of_same rfl rfl _ _ _), fun k hk => ?_⟩
  · unfold State.linkDir
    rw [refresh_links, raise_links]
    exact setLink_self ..
  · rw [refresh_links, raise_links]
    exact setLink_ne _ _ _ _ hk

theorem linkReceiverLockLoss_fails (hd : d < s.dies) (hdir : dir < 2) (hm : s.mode.mode ≠ .off) :
    ∃ t, exec (.linkReceiverLockLoss d dir) s = .next t ∧ Only [.spans, .link, .integ, .mode, .sec, .modeCode] s t
      ∧ ((s.linkDir d dir).failed = false → t.linkDir d dir = { failed := true, probeAt := s.now } ∧ Raises s t .linkFailed d [.w d, .w dir, .q s.now])
      ∧ ((s.linkDir d dir).failed = true → t.linkDir d dir = { s.linkDir d dir with cleanSince := none } ∧ t.link = s.link)
      ∧ ∀ k, k ≠ d * 2 + dir → t.integ.links.get k = s.integ.links.get k := by
  have hrun : exec (.linkReceiverLockLoss d dir) s = .next (failLink d dir s) := by
    change execLinkReceiverLockLoss d dir s = _
    unfold execLinkReceiverLockLoss
    exact onlyIf_of_true (by rw [decide_eq_true hd, decide_eq_true hdir, bne_off_of_ne hm]; rfl)
  refine ⟨_, hrun, failLink_only d dir s, failLink_fails (Only.refl [] s) rfl rfl, fun hfailed => ?_, fun k hk => failLink_links s hk⟩
  rw [failLink_of_failed hfailed]
  exact ⟨setLink_self .., rfl⟩

end

/-- Settles O57: the lanes charged keep every link and counter, so that the run of failures alone decides. -/
theorem linkEvents : Obligations.LinkEvents :=
  ⟨fun _ _ _ _ _ _ _ _ => flitCrcError_counts, fun _ _ _ _ => linkProbe_trains, fun _ _ _ _ => linkRestored_returns, fun _ _ _ => linkReceiverLockLoss_fails⟩

end Sys2Proof.Machine
end

section
/-!
PROOFS. The management bus (16 R415 to R431).
-/
namespace Sys2Proof.Machine

section
variable {s : State}

/-! ### The target (R417 to R420, R428, R429) -/

theorem target_guard {addr : Nat} (hup : s.mbUp = true) (haddr : addr = s.mbAddr) : (s.mbUp && addr == s.mbAddr) = true := by
  rw [hup, haddr]
  simp

/-- A header that names a range is three bytes long. -/
theorem three_le_of_mbHeader {bytes : List Byte} {x : Nat × Nat × Bool} (h : mbHeader (bytes.take 3) = some x) : 3 ≤ bytes.length := by
  refine Nat.le_of_not_lt fun hshort => ?_
  have hlen : (bytes.take 3).length < 3 := by
    rw [List.length_take]
    omega
  generalize bytes.take 3 = l at h hlen
  match l with
  | [] => exact nomatch h
  | [_] => exact nomatch h
  | [_, _] => exact nomatch h
  | _ :: _ :: _ :: _ =>
    simp only [List.length_cons] at hlen
    omega

/-- A write is taken at STOP with its exact count where no PEC is required, or with a PEC that matches. -/
def writeTaken (s : State) (addr n : Nat) (bytes : List Byte) : Prop :=
  bytes.length = n + 3 ∧ s.mb.pecReq = false ∨ bytes.length = n + 4 ∧ bytes.getD (n + 3) 0 = pecOf (addrByte addr false :: bytes.take (n + 3))

/-- What a write with a header leaves. -/
theorem execMbWriteTransaction_header {addr p n : Nat} {bytes : List Byte} (hup : s.mbUp = true) (haddr : addr = s.mbAddr)
    (hheader : mbHeader (bytes.take 3) = some (p, n, false)) :
    (writeTaken s addr n bytes → execMbWriteTransaction addr bytes s = .next (applyData ⟨p, (bytes.drop 3).take n⟩ (mbStop s)))
      ∧ (¬ writeTaken s addr n bytes → execMbWriteTransaction addr bytes s = .next (bumpMb .pec (mbStop s))) := by
  have hlen := three_le_of_mbHeader hheader
  have hwhole : ((bytes.drop 3).length == n && !s.mb.pecReq || (bytes.drop 3).length == n + 1
      && (bytes.drop 3).getD n 0 == pecOf (addrByte addr false :: bytes.take (3 + n))) = true ↔ writeTaken s addr n bytes := by
    have hdrop : (bytes.drop 3).getD n 0 = bytes.getD (n + 3) 0 := by simp [List.getD_eq_getElem?_getD, Nat.add_comm]
    have hexact : bytes.length - 3 = n ↔ bytes.length = n + 3 := by omega
    have hmore : bytes.length - 3 = n + 1 ↔ bytes.length = n + 4 := by omega
    rw [hdrop, Nat.add_comm 3 n, List.length_drop]
    simp only [Bool.or_eq_true, Bool.and_eq_true, beq_iff_eq, Bool.not_eq_true', hexact, hmore]
    rfl
  have hrun : execMbWriteTransaction addr bytes s = .next (if ((bytes.drop 3).length == n && !s.mb.pecReq || (bytes.drop 3).length == n + 1
      && (bytes.drop 3).getD n 0 == pecOf (addrByte addr false :: bytes.take (3 + n))) then applyData ⟨p, (bytes.drop 3).take n⟩ (mbStop s) else bumpMb .pec (mbStop s)) := by
    unfold execMbWriteTransaction
    dsimp only
    rw [onlyIf_of_true (target_guard hup haddr), hheader]
  exact ⟨fun htaken => by rw [hrun, if_pos (hwhole.mpr htaken)], fun hnot => by rw [hrun, if_neg (fun hyes => hnot (hwhole.mp hyes))]⟩

theorem execMbWriteTransaction_noHeader {addr : Nat} {bytes : List Byte} (hup : s.mbUp = true) (haddr : addr = s.mbAddr)
    (hheader : mbHeader (bytes.take 3) = none) : execMbWriteTransaction addr bytes s = .next (mbStop s) := by
  unfold execMbWriteTransaction
  dsimp only
  rw [onlyIf_of_true (target_guard hup haddr), hheader]

/-- The bytes of a write that was taken, in the descriptor and in CTRL_DATA. -/
theorem applyData_bytes {p n : Nat} {bytes : List Byte} (hlen : n + 3 ≤ bytes.length) (u : State) :
    (∀ i, i < u.mb.mboxDesc.length → (applyData ⟨p, (bytes.drop 3).take n⟩ u).mb.mboxDesc.getD i 0
        = (if p ≤ 0x100 + i ∧ 0x100 + i < p + n then bytes.getD (0x100 + i - p + 3) 0 else u.mb.mboxDesc.getD i 0))
      ∧ (∀ i, i < u.mb.ctrlData.length → (applyData ⟨p, (bytes.drop 3).take n⟩ u).mb.ctrlData.getD i 0
        = (if p ≤ 0x44 + i ∧ 0x44 + i < p + n then bytes.getD (0x44 + i - p + 3) 0 else u.mb.ctrlData.getD i 0)) := by
  obtain ⟨hctrl, hdesc⟩ := applyData_mb ⟨p, (bytes.drop 3).take n⟩ u
  refine ⟨fun i hi => ?_, fun i hi => ?_⟩
  · rw [hdesc, MbData.written_getD _ _ _ _ hi, MbData.byte_taken _ _ _ hlen]
  · rw [hctrl, MbData.written_getD _ _ _ _ hi, MbData.byte_taken _ _ _ hlen]

theorem mbWriteTransaction_takes {addr : Nat} {bytes : List Byte} (hup : s.mbUp = true) (haddr : addr = s.mbAddr) :
    ∃ t, exec (.mbWriteTransaction addr bytes) s = .next t ∧ Only [.link, .mb, .busTiming] s t
      ∧ (mbHeader (bytes.take 3) = none → t.mb = { s.mb with target := none, lastTransaction := s.now } ∧ t.link = s.link)
      ∧ ∀ p n, mbHeader (bytes.take 3) = some (p, n, false) →
          (bytes.length ≠ n + 3 ∨ s.mb.pecReq = true → bytes.length ≠ n + 4 ∨ bytes.getD (n + 3) 0 ≠ pecOf (addrByte addr false :: bytes.take (n + 3)) →
            t.mb = { s.mb with target := none, lastTransaction := s.now, counts := s.mb.counts.bump .pec, rises := t.mb.rises } ∧ t.link = s.link)
          ∧ (bytes.length = n + 3 ∧ s.mb.pecReq = false ∨ bytes.length = n + 4 ∧ bytes.getD (n + 3) 0 = pecOf (addrByte addr false :: bytes.take (n + 3)) →
            (∀ i, i < s.mb.mboxDesc.length → t.mb.mboxDesc.getD i 0 = (if p ≤ 0x100 + i ∧ 0x100 + i < p + n then bytes.getD (0x100 + i - p + 3) 0 else s.mb.mboxDesc.getD i 0))
            ∧ (∀ i, i < s.mb.ctrlData.length → t.mb.ctrlData.getD i 0 = (if p ≤ 0x44 + i ∧ 0x44 + i < p + n then bytes.getD (0x44 + i - p + 3) 0 else s.mb.ctrlData.getD i 0))
            ∧ (p + n ≤ 0x20 → t.mb = { s.mb with target := none, lastTransaction := s.now } ∧ t.link = s.link)) := by
  have hframes : ∀ {t}, exec (.mbWriteTransaction addr bytes) s = .next t → Only [.link, .mb, .busTiming] s t := (execMbWriteTransaction_frames addr bytes s).onlyOf
  rcases hheader : mbHeader (bytes.take 3) with - | ⟨p, n, read⟩
  · have hrun := execMbWriteTransaction_noHeader hup haddr hheader
    exact ⟨_, hrun, hframes hrun, fun _ => ⟨rfl, rfl⟩, fun _ _ hno => (nomatch hno)⟩
  · cases read with
    | true =>
      have hrun : execMbWriteTransaction addr bytes s = .next (mbStop s) := by
        unfold execMbWriteTransaction
        dsimp only
        rw [onlyIf_of_true (target_guard hup haddr), hheader]
      exact ⟨_, hrun, hframes hrun, fun hno => (nomatch hno), fun _ _ hno => (nomatch hno)⟩
    | false =>
      obtain ⟨htakes, hdiscards⟩ := execMbWriteTransaction_header hup haddr hheader
      by_cases htaken : writeTaken s addr n bytes
      · have hrun := htakes htaken
        refine ⟨_, hrun, hframes hrun, fun hno => (nomatch hno), fun p' n' hsame => ?_⟩
        cases hsame
        refine ⟨fun hcount hpec => ?_, fun _ => ?_⟩
        · rcases htaken with ⟨hl, hp⟩ | ⟨hl, hp⟩
          · exact absurd hcount (by simp [hl, hp])
          · exact absurd hpec (by simp only [hl, hp]; simp)
        · have hlen : n + 3 ≤ bytes.length := by rcases htaken with ⟨hl, -⟩ | ⟨hl, -⟩ <;> omega
          obtain ⟨hdesc, hctrl⟩ := applyData_bytes (p := p) hlen (mbStop s)
          refine ⟨hdesc, hctrl, fun hlow => ?_⟩
          rw [applyData_low _ _ (by simp; omega)]
          exact ⟨rfl, rfl⟩
      · have hrun := hdiscards htaken
        refine ⟨_, hrun, hframes hrun, fun hno => (nomatch hno), fun p' n' hsame => ?_⟩
        cases hsame
        exact ⟨fun _ _ => ⟨rfl, rfl⟩, fun hyes => absurd hyes htaken⟩

theorem mbReadTransaction_returns {addr : Nat} {hdr : List Byte} {ackLast sda scl : Bool} (hup : s.mbUp = true) (haddr : addr = s.mbAddr) :
    ∃ t, exec (.mbReadTransaction addr hdr ackLast sda scl) s = .next t ∧ Only [.link, .mb] s t
      ∧ t.mb = { s.mb with sdaLow := sda, sclLow := scl, target := none, lastTransaction := s.now }
      ∧ (mbHeader hdr = none → t.link = s.link)
      ∧ (∀ p n, mbHeader hdr = some (p, n, true) →
          t.link = { s.link with sent := s.link.sent ++ [.mbRead ((List.range n).map fun i => t.mbByte (p + i))
            (if ackLast then some (pecOf (addrByte addr false :: hdr ++ addrByte addr true :: (List.range n).map fun i => t.mbByte (p + i))) else none)] })
      ∧ ∀ q, 0x1000 ≤ q → t.mbByte q = 0 := by
  have hframes := execMbReadTransaction_frames addr hdr ackLast sda scl s
  change ∃ t, execMbReadTransaction addr hdr ackLast sda scl s = _ ∧ _
  unfold execMbReadTransaction at hframes ⊢
  dsimp only at hframes ⊢
  rw [onlyIf_of_true (target_guard hup haddr)] at hframes ⊢
  rcases hheader : mbHeader hdr with - | ⟨p, n, read⟩
  · rw [hheader] at hframes
    exact ⟨_, rfl, hframes.onlyOf rfl, rfl, fun _ => rfl, fun _ _ hno => (nomatch hno), fun q hq => mbByte_high _ q hq⟩
  · rw [hheader] at hframes
    cases read with
    | true =>
      refine ⟨_, rfl, hframes.onlyOf rfl, rfl, fun hno => (nomatch hno), fun p' n' hsame => ?_, fun q hq => mbByte_high _ q hq⟩
      cases hsame
      rfl
    | false => exact ⟨_, rfl, hframes.onlyOf rfl, rfl, fun hno => (nomatch hno), fun _ _ hno => (nomatch hno), fun q hq => mbByte_high _ q hq⟩

theorem mbWake_starts {byte : Byte} (hm : s.mode.mode = .sleep) (hstopped : s.mode.clocksRun = false) (haddr : byte.toNat / 2 = s.mbAddr) :
    ∃ t, exec (.mbWake byte) s = .next t ∧ Only [.link, .integ, .mode, .mb, .sec, .modeCode] s t ∧ t.mbUp = true ∧ t.mode = { s.mode with clocksRun := true }
      ∧ t.mb = { s.mb with awake := true, target := some ⟨0, 0⟩, lastTransaction := s.now } ∧ Raises s t .mbWake pkg [.q s.now] := by
  have hrun : exec (.mbWake byte) s = .next (raise .mbWake pkg [.q s.now]
      { s with mode := { s.mode with clocksRun := true }, mb := { s.mb with awake := true, target := some ⟨0, 0⟩, lastTransaction := s.now } }) := by
    change execMbWake byte s = _
    unfold execMbWake
    exact onlyIf_of_true (by rw [hm, hstopped, haddr]; simp)
  have hmode := raise_mode .mbWake pkg [.q s.now] { s with mode := { s.mode with clocksRun := true }, mb := { s.mb with awake := true, target := some ⟨0, 0⟩, lastTransaction := s.now } }
  refine ⟨_, hrun, (execMbWake_frames byte s).onlyOf hrun |>.mono rfl, ?_, hmode, raise_mb _ _ _ _, raises_of_same rfl rfl _ _ _⟩
  unfold State.mbUp
  rw [hmode, hm]
  rfl

theorem mbSleepClockStop_stops (hm : s.mode.mode = .sleep) (hawake : s.mb.awake = true) (hnow : s.mb.lastTransaction + 100000000 ≤ s.now) :
    ∃ t, exec .mbSleepClockStop s = .next t ∧ Only [.mode, .mb] s t ∧ t.mb = { s.mb with awake := false, target := none }
      ∧ t.mode = { s.mode with clocksRun := s.mode.clocksRun && decide (s.now < s.mode.lastAccess + 100000000) } := by
  have hguard : (decide (s.mode.mode = .sleep) && s.mb.awake && decide (s.mb.lastTransaction + countsPerSecond ≤ s.now)) = true := by
    rw [hm, hawake, decide_eq_true (show s.mb.lastTransaction + countsPerSecond ≤ s.now from hnow)]
    rfl
  have hframes := execMbSleepClockStop_frames s
  change ∃ t, execMbSleepClockStop s = _ ∧ _
  unfold execMbSleepClockStop at hframes ⊢
  rw [onlyIf_of_true hguard] at hframes ⊢
  exact ⟨_, rfl, hframes.onlyOf rfl, rfl, rfl⟩

theorem mbTargetTimeout_counts {pointer received : Nat} {write : Bool} (hup : s.mbUp = true) (hen : s.mb.timeoutEn = true) :
    ∃ t, exec (.mbTargetTimeout pointer received write) s = .next t ∧ Only [.link, .integ, .mb, .sec] s t
      ∧ t.mb = { s.mb with target := none, lastTransaction := s.now, counts := (if write then (s.mb.counts.bump .timeout).bump .pec else s.mb.counts.bump .timeout), rises := t.mb.rises }
      ∧ Raises s t .mbTargetTimeout pkg [.w pointer, .w received] := by
  obtain ⟨u, hu⟩ : ∃ u, u = if write then bumpMb .pec (bumpMb .timeout (mbStop s)) else bumpMb .timeout (mbStop s) := ⟨_, rfl⟩
  have hrun : exec (.mbTargetTimeout pointer received write) s = .next (raise .mbTargetTimeout pkg [.w pointer, .w received] u) := by
    change execMbTargetTimeout pointer received write s = _
    unfold execMbTargetTimeout
    rw [hu]
    exact onlyIf_of_true (by rw [hup, hen]; rfl)
  have hmb : u.mb = { s.mb with target := none, lastTransaction := s.now, counts := (if write then (s.mb.counts.bump .timeout).bump .pec else s.mb.counts.bump .timeout), rises := u.mb.rises } := by
    rw [hu]
    cases write <;> rfl
  have honly : Only [.mb] s u := by
    rw [hu]
    exact ((mbStop_only s).trans (bumpMb_only .timeout _)).trans (Only.ite (bumpMb_only _ _) (Only.refl _ _))
  refine ⟨_, hrun, (execMbTargetTimeout_frames ..).onlyOf hrun, ?_, Raises.raise honly rfl rfl _ _ _⟩
  rw [raise_mb]
  exact hmb

/-! ### The controller (R424 to R426, R430) -/

/-- The transfer word as written, before its GO. -/
def transferLoaded (v : Nat) (s : State) : State :=
  s.setMb fun m => { m with targetAddr := v % 128, usePec := maskBit v 7, wlen := v / 256 % 64, rlen := v / 16384 % 64, done := m.done && !maskBit v 24 }

theorem transferLoaded_only (v : Nat) (s : State) : Only [.mb] s (transferLoaded v s) := State.setMb_only _ _ fun _ => ⟨rfl, rfl, rfl, rfl⟩

theorem writeTransfer_go {v : Nat} (hgo : maskBit v 20 = true) (s : State) : writeTransfer v s = requestGo (transferLoaded v s) := by
  unfold writeTransfer
  exact if_pos hgo

theorem requestGo_ignored (h : s.mb.ctrlEnable = false ∨ s.mode.mode = .halted ∨ (s.mb.wlen == 0 && s.mb.rlen == 0) = true) : requestGo s = s := by
  unfold requestGo
  refine if_pos ?_
  rcases h with h | h | h <;> simp [h]

/-- A GO that asks for a transfer. -/
theorem requestGo_taken (hen : s.mb.ctrlEnable = true) (hm : s.mode.mode ≠ .halted) (hgo : s.mb.go = false) (hlen : (s.mb.wlen == 0 && s.mb.rlen == 0) = false) :
    requestGo s = if s.mb.targetAddr = s.mbAddr then endTransfer 1 s
      else s.setMb fun m => { m with go := true, goWaiting := true, retriesLeft := m.arbRetries } := by
  unfold requestGo
  exact if_neg (by simp only [hm, hen, hgo, hlen]; simp)

/-- What the start and the end of a transfer leave: the transfer word's fields, CTRL_DATA and the mode. -/
structure TransferKept (s t : State) : Prop where
  targetAddr : t.mb.targetAddr = s.mb.targetAddr
  usePec : t.mb.usePec = s.mb.usePec
  wlen : t.mb.wlen = s.mb.wlen
  rlen : t.mb.rlen = s.mb.rlen
  ctrlData : t.mb.ctrlData = s.mb.ctrlData
  mode : t.mode = s.mode

theorem TransferKept.trans {s t u : State} (h : TransferKept s t) (k : TransferKept t u) : TransferKept s u :=
  ⟨k.targetAddr.trans h.targetAddr, k.usePec.trans h.usePec, k.wlen.trans h.wlen, k.rlen.trans h.rlen, k.ctrlData.trans h.ctrlData, k.mode.trans h.mode⟩

theorem requestGo_kept (s : State) : TransferKept s (requestGo s) := by
  unfold requestGo
  dsimp only
  split
  · exact ⟨rfl, rfl, rfl, rfl, rfl, rfl⟩
  · split <;> exact ⟨rfl, rfl, rfl, rfl, rfl, rfl⟩

theorem startTransfer_kept (stuck freed : Bool) (s : State) : TransferKept s (startTransfer stuck freed s) := by
  unfold startTransfer
  dsimp only
  split
  · have hmb := raise_mb .mbBusStuck pkg [.q s.now] (bumpMb .stuck (endTransfer 4 s))
    exact ⟨by rw [hmb]; rfl, by rw [hmb]; rfl, by rw [hmb]; rfl, by rw [hmb]; rfl, by rw [hmb]; rfl, raise_mode _ _ _ _⟩
  · split <;> exact ⟨rfl, rfl, rfl, rfl, rfl, rfl⟩

theorem startTransfer_failed {stuck freed : Bool} (h : stuck = true ∨ s.mb.recovered = false) (hf : freed = false) :
    (startTransfer stuck freed s).mb = { s.mb with go := false, goWaiting := false, ctrlBusy := false, result := 4, done := true, counts := s.mb.counts.bump .stuck, rises := (startTransfer stuck freed s).mb.rises }
      ∧ Raises s (startTransfer stuck freed s) .mbBusStuck pkg [.q s.now] := by
  rw [startTransfer_stuck h hf, raise_mb]
  exact ⟨rfl, raises_of_same rfl rfl _ _ _⟩

theorem startTransfer_sends {stuck freed : Bool} (h : freed = true ∨ stuck = false ∧ s.mb.recovered = true) :
    (startTransfer stuck freed s).mb = { s.mb with recovered := true, goWaiting := false, ctrlBusy := true }
      ∧ (s.mb.wlen = 0 → (startTransfer stuck freed s).link = s.link)
      ∧ (s.mb.wlen ≠ 0 → (startTransfer stuck freed s).link = { s.link with sent := s.link.sent ++ [.mbWrite s.mb.targetAddr s.mb.writePhase] }) := by
  rw [startTransfer_free h]
  dsimp only
  by_cases hw : s.mb.wlen = 0
  · rw [if_pos hw]
    exact ⟨rfl, fun _ => rfl, fun hno => absurd hw hno⟩
  · rw [if_neg hw]
    exact ⟨rfl, fun hno => absurd hno hw, fun _ => rfl⟩

theorem mbControllerGo_starts {v : Nat} {stuck freed : Bool} (hb : s.barUp = true) (hbit : v / 1048576 % 2 = 1) (hgo : s.mb.go = false)
    (hwaiting : s.mb.goWaiting = false) :
    ∃ t, exec (.mbControllerGo (some v) stuck freed) s = .next t ∧ Only [.link, .integ, .mode, .mb, .sec] s t ∧ t.mode = { s.mode with lastAccess := s.now }
      ∧ t.mb.targetAddr = v % 128 ∧ t.mb.usePec = maskBit v 7 ∧ t.mb.wlen = v / 256 % 64 ∧ t.mb.rlen = v / 16384 % 64 ∧ t.mb.ctrlData = s.mb.ctrlData
      ∧ (s.mb.ctrlEnable = false ∨ s.mode.mode = .halted ∨ v / 256 % 4096 = 0 → t.mb.go = false ∧ t.mb.ctrlBusy = s.mb.ctrlBusy ∧ t.link = s.link)
      ∧ (s.mb.ctrlEnable = true → s.mode.mode ≠ .halted → v / 256 % 4096 ≠ 0 →
          (v % 128 = s.mbAddr → t.mb.done = true ∧ t.mb.result = 1 ∧ t.mb.go = false ∧ t.link = s.link)
          ∧ (v % 128 ≠ s.mbAddr →
              (s.mb.target ≠ none → t.mb.go = true ∧ t.mb.goWaiting = true ∧ t.link = s.link)
              ∧ (s.mb.target = none → stuck = true ∨ s.mb.recovered = false → freed = false →
                  t.mb.done = true ∧ t.mb.result = 4 ∧ t.mb.go = false ∧ t.mb.counts = s.mb.counts.bump .stuck ∧ Raises s t .mbBusStuck pkg [.q s.now])
              ∧ (s.mb.target = none → freed = true ∨ stuck = false ∧ s.mb.recovered = true →
                  t.mb.go = true ∧ t.mb.ctrlBusy = true ∧ t.mb.goWaiting = false ∧ t.mb.retriesLeft = s.mb.arbRetries
                  ∧ (v / 256 % 64 = 0 → t.link = s.link) ∧ (v / 256 % 64 ≠ 0 → t.link = { s.link with sent := s.link.sent ++ [.mbWrite (v % 128) t.mb.writePhase] })))) := by
  obtain ⟨u, hu⟩ : ∃ u, u = transferLoaded v (hostAccess s) := ⟨_, rfl⟩
  have hset := go_bit_set hbit
  have hrun : exec (.mbControllerGo (some v) stuck freed) s = .next (if (requestGo u).mayStart then startTransfer stuck freed (requestGo u) else requestGo u) := by
    change execMbControllerGo (some v) stuck freed s = _
    unfold execMbControllerGo
    dsimp only
    rw [onlyIf_of_true (by rw [hb, hset]; rfl), writeTransfer_go hset, hwaiting, ← hu, Bool.not_false, Bool.and_true]
  obtain ⟨t, ht⟩ : ∃ t, t = if (requestGo u).mayStart then startTransfer stuck freed (requestGo u) else requestGo u := ⟨_, rfl⟩
  have hkept : TransferKept u t := by
    rw [ht]
    split
    · exact (requestGo_kept u).trans (startTransfer_kept ..)
    · exact requestGo_kept u
  have hlen : (u.mb.wlen == 0 && u.mb.rlen == 0) = (v / 256 % 4096 == 0) := hu ▸ lengths_zero
  have henable : u.mb.ctrlEnable = s.mb.ctrlEnable := hu ▸ rfl
  have hmode : u.mode = { s.mode with lastAccess := s.now } := hu ▸ rfl
  have hlink : u.link = s.link := hu ▸ rfl
  rw [← ht] at hrun
  refine ⟨t, hrun, (execMbControllerGo_frames (some v) stuck freed s).onlyOf hrun, hkept.mode.trans hmode, hkept.targetAddr.trans (hu ▸ rfl), hkept.usePec.trans (hu ▸ rfl),
    hkept.wlen.trans (hu ▸ rfl), hkept.rlen.trans (hu ▸ rfl), hkept.ctrlData.trans (hu ▸ rfl), fun hnothing => ?_, fun hen hm hsome => ?_⟩
  · have hignored : requestGo u = u := requestGo_ignored (by
      rw [henable, hmode, hlen, beq_iff_eq]
      exact hnothing)
    have hidle : u.mayStart = false := hu ▸ (by unfold State.mayStart; exact congrArg (· && s.mb.target.isNone) hwaiting)
    rw [ht, hignored, hidle, if_neg Bool.false_ne_true, hu]
    exact ⟨hgo, rfl, rfl⟩
  · have htaken := requestGo_taken (s := u) (henable.trans hen) (by rw [hmode]; exact hm) (hu ▸ hgo) (hlen.trans (by simpa using hsome))
    have haddr : u.mb.targetAddr = v % 128 := hu ▸ rfl
    have hown : u.mbAddr = s.mbAddr := hu ▸ rfl
    rw [haddr, hown] at htaken
    refine ⟨fun hself => ?_, fun hother => ?_⟩
    · rw [if_pos hself] at htaken
      rw [ht, htaken, if_neg (by exact Bool.false_ne_true)]
      exact ⟨rfl, rfl, rfl, hlink⟩
    · rw [if_neg hother] at htaken
      obtain ⟨w, hw⟩ : ∃ w, w = u.setMb fun m => { m with go := true, goWaiting := true, retriesLeft := m.arbRetries } := ⟨_, rfl⟩
      have hstart : w.mayStart = s.mb.target.isNone := hw ▸ hu ▸ rfl
      have hrecovered : w.mb.recovered = s.mb.recovered := hw ▸ hu ▸ rfl
      have hloaded : Only [.mode, .mb] s u := hu ▸ ((hostAccess_only s).mono rfl).trans ((transferLoaded_only v _).mono rfl)
      have hwaits : Only [.mb] u w := by
        rw [hw]
        exact State.setMb_only u _ fun _ => ⟨rfl, rfl, rfl, rfl⟩
      have hsame : Only [.mode, .mb] s w := hloaded.trans (hwaits.mono rfl)
      have hnow : w.now = s.now := Only.now hsame rfl
      rw [ht, htaken, ← hw, hstart]
      refine ⟨fun hbusy => ?_, fun hfree hfail hkeeps => ?_, fun hfree hgood => ?_⟩
      · rw [if_neg (by simpa using hbusy), hw]
        exact ⟨rfl, rfl, hlink⟩
      · rw [if_pos (by rw [hfree]; rfl)]
        obtain ⟨hmb, hraises⟩ := startTransfer_failed (hrecovered ▸ hfail : stuck = true ∨ w.mb.recovered = false) hkeeps
        rw [hmb]
        refine ⟨rfl, rfl, rfl, congrArg (MbCounts.bump .stuck) (hw ▸ hu ▸ rfl : w.mb.counts = s.mb.counts), ?_⟩
        exact hnow ▸ Raises.after hsame rfl rfl hraises
      · rw [if_pos (by rw [hfree]; rfl)]
        obtain ⟨hmb, hshort, hlong⟩ := startTransfer_sends (hrecovered ▸ hgood : freed = true ∨ stuck = false ∧ w.mb.recovered = true)
        have hwlink : w.link = s.link := hw ▸ hlink
        have hwlen : w.mb.wlen = v / 256 % 64 := hw ▸ hu ▸ rfl
        rw [hmb]
        refine ⟨hw ▸ rfl, rfl, rfl, hw ▸ hu ▸ rfl, fun h0 => (hshort (hwlen.trans h0)).trans hwlink, fun h0 => ?_⟩
        rw [hlong (by rw [hwlen]; exact h0), hwlink]
        have hwaddr : w.mb.targetAddr = v % 128 := hw ▸ haddr
        rw [hwaddr]
        rfl

theorem mbControllerGo_afterWait {stuck freed : Bool} (hup : s.mbUp = true) (hwaiting : s.mb.goWaiting = true) (htarget : s.mb.target = none) :
    ∃ t, exec (.mbControllerGo none stuck freed) s = .next t ∧ Only [.link, .integ, .mb, .sec] s t ∧ t.mb.goWaiting = false
      ∧ ((stuck = true ∨ s.mb.recovered = false) → freed = false → t.mb.done = true ∧ t.mb.result = 4 ∧ t.mb.counts = s.mb.counts.bump .stuck ∧ Raises s t .mbBusStuck pkg [.q s.now])
      ∧ (freed = true ∨ stuck = false ∧ s.mb.recovered = true → t.mb = { s.mb with recovered := true, goWaiting := false, ctrlBusy := true }
          ∧ (s.mb.wlen ≠ 0 → t.link = { s.link with sent := s.link.sent ++ [.mbWrite s.mb.targetAddr s.mb.writePhase] })) := by
  have hmay : s.mayStart = true := by
    unfold State.mayStart
    rw [hwaiting, htarget]
    rfl
  have hrun : exec (.mbControllerGo none stuck freed) s = .next (startTransfer stuck freed s) := by
    change execMbControllerGo none stuck freed s = _
    unfold execMbControllerGo
    exact onlyIf_of_true (by rw [hup, hmay]; rfl)
  refine ⟨_, hrun, startTransfer_only stuck freed s, ?_, fun hfail hkeeps => ?_, fun hgood => ?_⟩
  · by_cases hfail : (stuck = true ∨ s.mb.recovered = false) ∧ freed = false
    · rw [(startTransfer_failed hfail.1 hfail.2).1]
    · have hgood : freed = true ∨ stuck = false ∧ s.mb.recovered = true := by
        revert hfail
        cases stuck <;> cases freed <;> cases s.mb.recovered <;> decide
      rw [(startTransfer_sends hgood).1]
  · obtain ⟨hmb, hraises⟩ := startTransfer_failed hfail hkeeps
    rw [hmb]
    exact ⟨rfl, rfl, rfl, hraises⟩
  · obtain ⟨hmb, -, hlong⟩ := startTransfer_sends hgood
    exact ⟨hmb, hlong⟩

theorem mbArbitrationLost_repeats {byte : Option Byte} (hbusy : s.mb.ctrlBusy = true) :
    ∃ t, exec (.mbArbitrationLost byte) s = .next t ∧ Only [.mb] s t ∧ t.mb.counts = s.mb.counts.bump .arb
      ∧ (∀ b, byte = some b → b.toNat / 2 = s.mbAddr → t.mb.target = some ⟨0, 0⟩)
      ∧ (s.mb.retriesLeft = 0 → t.mb.done = true ∧ t.mb.result = 3 ∧ t.mb.ctrlBusy = false ∧ t.mb.go = false)
      ∧ (s.mb.retriesLeft ≠ 0 → t.mb.retriesLeft = s.mb.retriesLeft - 1 ∧ t.mb.goWaiting = true ∧ t.mb.ctrlBusy = false ∧ t.mb.done = s.mb.done) := by
  obtain ⟨u, hu⟩ : ∃ u, u = if byte.any fun b => b.toNat / 2 == s.mbAddr then (bumpMb .arb s).setMb fun m => { m with target := some ⟨0, 0⟩ } else bumpMb .arb s := ⟨_, rfl⟩
  have hcounts : u.mb.counts = s.mb.counts.bump .arb := by
    rw [hu]
    split <;> rfl
  have hdone : u.mb.done = s.mb.done ∧ u.mb.retriesLeft = s.mb.retriesLeft := by
    rw [hu]
    split <;> exact ⟨rfl, rfl⟩
  have htarget : ∀ b, byte = some b → b.toNat / 2 = s.mbAddr → u.mb.target = some ⟨0, 0⟩ := by
    intro b hb haddr
    rw [hu, if_pos (by rw [hb]; simpa using haddr)]
    rfl
  have hrun : exec (.mbArbitrationLost byte) s = .next (if s.mb.retriesLeft = 0 then endTransfer 3 u
      else u.setMb fun m => { m with retriesLeft := m.retriesLeft - 1, goWaiting := true, ctrlBusy := false }) := by
    change execMbArbitrationLost byte s = _
    unfold execMbArbitrationLost
    rw [hu]
    exact onlyIf_of_true hbusy
  refine ⟨_, hrun, (execMbArbitrationLost_frames byte s).onlyOf hrun, ?_, fun b hb haddr => ?_, fun hlast => ?_, fun hmore => ?_⟩
  · split <;> exact hcounts
  · split <;> exact htarget b hb haddr
  · rw [if_pos hlast]
    exact ⟨rfl, rfl, rfl, rfl⟩
  · rw [if_neg hmore]
    exact ⟨congrArg (· - 1) hdone.2, rfl, rfl, hdone.1⟩

theorem padTo_full {n : Nat} {bs : List Byte} (h : bs.length = n) : padTo n bs = bs := by
  unfold padTo
  rw [List.take_append_of_le_length (Nat.le_of_eq h.symm), ← h, List.take_length]

/-- RESULT of a transfer whose bytes were all acknowledged: 5 where a PEC of a read phase differs. -/
theorem outcome_all (m : MbSt) (data : List Byte) (pec : Byte) :
    (m.usePec = false ∨ m.rlen = 0 → m.outcome .all data pec = 0)
      ∧ (m.usePec = true → m.rlen ≠ 0 → m.wlen ≠ 0 → m.outcome .all data pec =
          if pec = pecOf (addrByte m.targetAddr false :: m.ctrlData.take m.wlen ++ addrByte m.targetAddr true :: data) then 0 else 5) := by
  unfold MbSt.outcome
  dsimp only
  refine ⟨fun hnone => ?_, fun hpec hr hw => ?_⟩
  · rcases hnone with h | h <;> simp [h]
  · rw [if_neg hw, hpec]
    by_cases heq : pec = pecOf (addrByte m.targetAddr false :: m.ctrlData.take m.wlen ++ addrByte m.targetAddr true :: data)
    · rw [if_pos heq, if_neg (by rw [← heq]; simp)]
    · rw [if_neg heq, if_pos (by simp only [Bool.true_and, Bool.and_eq_true, bne_iff_ne]; exact ⟨hr, heq⟩)]

theorem mbControllerDone_ends {ack : BusAck} {data : List Byte} {pec : Byte} (hbusy : s.mb.ctrlBusy = true) :
    ∃ t, exec (.mbControllerDone ack data pec) s = .next t ∧ Only [.mb] s t ∧ t.mb.done = true ∧ t.mb.go = false ∧ t.mb.ctrlBusy = false
      ∧ (ack = .addressNack → t.mb.result = 1 ∧ t.mb.ctrlData = s.mb.ctrlData) ∧ (ack = .dataNack → t.mb.result = 2 ∧ t.mb.ctrlData = s.mb.ctrlData)
      ∧ (ack = .all → data.length = s.mb.rlen → s.mb.rlen ≤ 32 →
          t.mb.ctrlData = data ++ s.mb.ctrlData.drop s.mb.rlen
          ∧ (s.mb.usePec = false ∨ s.mb.rlen = 0 → t.mb.result = 0)
          ∧ (s.mb.usePec = true → s.mb.rlen ≠ 0 → s.mb.wlen ≠ 0 →
              t.mb.result = if pec = pecOf (addrByte s.mb.targetAddr false :: s.mb.ctrlData.take s.mb.wlen ++ addrByte s.mb.targetAddr true :: data) then 0 else 5)) := by
  have hframes := execMbControllerDone_frames ack data pec s
  change ∃ t, execMbControllerDone ack data pec s = _ ∧ _
  unfold execMbControllerDone at hframes ⊢
  dsimp only at hframes ⊢
  rw [onlyIf_of_true hbusy] at hframes ⊢
  refine ⟨_, rfl, hframes.onlyOf rfl, rfl, rfl, rfl, fun hack => ?_, fun hack => ?_, fun hack hlen hmost => ?_⟩
  · subst hack
    exact ⟨rfl, rfl⟩
  · subst hack
    exact ⟨rfl, rfl⟩
  · subst hack
    have hpad : padTo (min 32 s.mb.rlen) data = data := padTo_full (by rw [hlen, Nat.min_eq_right hmost])
    rw [if_pos rfl, hpad]
    refine ⟨?_, (outcome_all s.mb data pec).1, (outcome_all s.mb data pec).2⟩
    rw [← hlen]
    rfl

theorem mbControllerTimeout_ends (hbusy : s.mb.ctrlBusy = true) (hen : s.mb.timeoutEn = true) :
    ∃ t, exec .mbControllerTimeout s = .next t ∧ Only [.mb] s t ∧ t.mb = { s.mb with go := false, goWaiting := false, ctrlBusy := false, result := 6, done := true } := by
  have hrun : exec .mbControllerTimeout s = .next (endTransfer 6 s) := by
    change execMbControllerTimeout s = _
    unfold execMbControllerTimeout
    exact onlyIf_of_true (by rw [hbusy, hen]; rfl)
  exact ⟨_, hrun, (execMbControllerTimeout_frames s).onlyOf hrun, rfl⟩

/-! ### Timing and the report of a second -/

/-- The timing words that are taken (R431). -/
def timingValid (v : Nat) : Prop :=
  50 ≤ v % 1024 ∧ v % 1024 ≤ 1000 ∧ 26 ≤ v / 1024 % 1024 ∧ v / 1024 % 1024 ≤ 1000 ∧ v / 1048576 % 128 ≤ 100 ∧ v / 1048576 % 128 + v / 134217728 % 32 < v % 1024

theorem writeTiming_valid {v : Nat} (h : timingValid v) (s : State) :
    writeTiming v s = s.setMb fun m => { m with sclLowT := v % 1024, sclHighT := v / 1024 % 1024, sdaHold := v / 1048576 % 128, glitch := v / 134217728 % 32 } := by
  obtain ⟨h1, h2, h3, h4, h5, h6⟩ := h
  unfold writeTiming
  exact if_pos (by simp [h1, h2, h3, h4, h5, h6])

theorem writeTiming_invalid {v : Nat} (h : ¬ timingValid v) (s : State) : writeTiming v s = s := by
  unfold writeTiming
  refine if_neg fun hyes => h ?_
  simpa [timingValid, and_assoc] using hyes

theorem mbTimingWrite_takes {v : Nat} (hb : s.barUp = true) :
    ∃ t, exec (.mbTimingWrite v) s = .next t ∧ Only [.mode, .mb, .busTiming] s t ∧ t.mode = { s.mode with lastAccess := s.now }
      ∧ (50 ≤ v % 1024 ∧ v % 1024 ≤ 1000 ∧ 26 ≤ v / 1024 % 1024 ∧ v / 1024 % 1024 ≤ 1000 ∧ v / 1048576 % 128 ≤ 100 ∧ v / 1048576 % 128 + v / 134217728 % 32 < v % 1024 →
          t.mb = { s.mb with sclLowT := v % 1024, sclHighT := v / 1024 % 1024, sdaHold := v / 1048576 % 128, glitch := v / 134217728 % 32 })
      ∧ (¬(50 ≤ v % 1024 ∧ v % 1024 ≤ 1000 ∧ 26 ≤ v / 1024 % 1024 ∧ v / 1024 % 1024 ≤ 1000 ∧ v / 1048576 % 128 ≤ 100 ∧ v / 1048576 % 128 + v / 134217728 % 32 < v % 1024) → t.mb = s.mb) := by
  have hrun : exec (.mbTimingWrite v) s = .next (writeTiming v (hostAccess s)) := by
    change execMbTimingWrite v s = _
    unfold execMbTimingWrite
    exact onlyIf_of_true hb
  refine ⟨_, hrun, (execMbTimingWrite_frames v s).onlyOf hrun, ?_, fun hin => ?_, fun hout => ?_⟩
  · rw [writeTiming_only v _ .mode rfl]
    rfl
  · rw [writeTiming_valid hin]
    rfl
  · rw [writeTiming_invalid hout]
    rfl

theorem mbErrorsReport_reports (hm : s.mode.mode ≠ .off) (hn : s.now % 100000000 = 0) (hrises : s.mb.rises ≠ {}) :
    ∃ t, exec .mbErrorsReport s = .next t ∧ Only [.link, .integ, .mb, .sec] s t ∧ t.mb = { s.mb with rises := {} }
      ∧ Raises s t .mbErrors pkg [.w s.mb.rises.pecErrors.toNat, .w s.mb.rises.timeouts.toNat, .w s.mb.rises.arbLost.toNat, .w s.mb.rises.stuck.toNat] := by
  have hguard : (s.mode.mode != .off && decide (s.now % countsPerSecond = 0) && decide (s.mb.rises ≠ {})) = true := by
    rw [bne_off_of_ne hm, decide_eq_true (show s.now % countsPerSecond = 0 from hn), decide_eq_true hrises]
    rfl
  have hframes := execMbErrorsReport_frames s
  change ∃ t, execMbErrorsReport s = _ ∧ _
  unfold execMbErrorsReport at hframes ⊢
  dsimp only at hframes ⊢
  rw [onlyIf_of_true hguard] at hframes ⊢
  exact ⟨_, rfl, hframes.onlyOf rfl, raise_mb _ _ _ _, raises_of_same rfl rfl _ _ _⟩

end

/-- Settles O58: a write's judgement is one proposition, and a transfer's start has two outcomes. -/
theorem managementBus : Obligations.ManagementBus :=
  ⟨fun _ _ _ => mbWriteTransaction_takes, fun _ _ _ _ _ _ => mbReadTransaction_returns, fun _ _ => mbWake_starts, fun _ => mbSleepClockStop_stops,
    fun _ _ _ _ => mbTargetTimeout_counts, fun _ _ _ _ => mbControllerGo_starts, fun _ _ _ => mbControllerGo_afterWait, fun _ _ => mbArbitrationLost_repeats,
    fun _ _ _ _ => mbControllerDone_ends, fun _ => mbControllerTimeout_ends, fun _ _ => mbTimingWrite_takes, fun _ => mbErrorsReport_reports⟩

end Sys2Proof.Machine
end

section
/-!
PROOFS. Mailbox, latches, sleep clocks, registers without a row of their own (16 R421 to R423, 17 R442, R444, R445, 00 R4, R13).
-/
namespace Sys2Proof.Machine

section
variable {s : State}

/-! ### The mailbox (16 R421 to R423) -/

/-- A descriptor taken at GO. -/
def mboxTaken (s : State) : State := s.setMb fun m => { m with mboxPhase := .busy, mboxSeq := m.mboxSeq + 1 }

theorem mboxGo_of_boot (hm : s.mode.mode = .boot) : mboxGo s = s := by
  unfold mboxGo
  exact if_pos hm

theorem mboxGo_of_busy (hm : s.mode.mode ≠ .boot) (hbusy : s.mb.mboxPhase = .busy) : mboxGo s = s.setMb fun m => { m with mboxOverrun := true } := by
  unfold mboxGo
  dsimp only
  rw [if_neg hm, if_pos hbusy]

/-- GO of an idle mailbox: the checksum is judged before the opcode. -/
theorem mboxGo_takes (hm : s.mode.mode ≠ .boot) (hidle : s.mb.mboxPhase ≠ .busy) :
    mboxGo s =
      if !(field s.mb.mboxDesc 60 0 32 == (crc32c (s.mb.mboxDesc.take 60)).toNat) then
        completeOne .mailbox s.mb.mboxDesc (s.mb.mboxSeq + 1).toNat .checkFail 0 (mboxTaken s)
      else if (Cmd.ofOpcode (field s.mb.mboxDesc 0 0 8)).isNone then completeOne .mailbox s.mb.mboxDesc (s.mb.mboxSeq + 1).toNat .badOpcode 0 (mboxTaken s)
      else (mboxTaken s).setMb fun m => { m with mboxCmd := some ⟨s.mb.mboxDesc, (s.mb.mboxSeq + 1).toNat, true⟩ } := by
  unfold mboxGo
  dsimp only
  rw [if_neg hm, if_neg hidle]
  rfl

theorem mboxGo_answers (hup : s.mbUp = true) :
    ∃ t, exec .mboxGo s = .next t ∧ Only [.link, .mb] s t
      ∧ (s.mode.mode = .boot → t.mb = { s.mb with target := none, lastTransaction := s.now })
      ∧ (s.mode.mode ≠ .boot → s.mb.mboxPhase = .busy → t.mb = { s.mb with target := none, lastTransaction := s.now, mboxOverrun := true })
      ∧ (s.mode.mode ≠ .boot → s.mb.mboxPhase ≠ .busy → t.mb.mboxPhase = .busy ∧ t.mb.mboxSeq = s.mb.mboxSeq + 1
          ∧ (field s.mb.mboxDesc 60 0 32 ≠ (crc32c (s.mb.mboxDesc.take 60)).toNat →
              t.mb.mboxDue = some ((Cpl.mk (field s.mb.mboxDesc 2 0 16) 0 (field s.mb.mboxDesc 0 0 8) .checkFail (s.mb.mboxSeq + 1).toNat 0).bytes true) ∧ t.mb.mboxCmd = s.mb.mboxCmd)
          ∧ (field s.mb.mboxDesc 60 0 32 = (crc32c (s.mb.mboxDesc.take 60)).toNat → Cmd.ofOpcode (field s.mb.mboxDesc 0 0 8) = none →
              t.mb.mboxDue = some ((Cpl.mk (field s.mb.mboxDesc 2 0 16) 0 (field s.mb.mboxDesc 0 0 8) .badOpcode (s.mb.mboxSeq + 1).toNat 0).bytes true) ∧ t.mb.mboxCmd = s.mb.mboxCmd)
          ∧ (field s.mb.mboxDesc 60 0 32 = (crc32c (s.mb.mboxDesc.take 60)).toNat → Cmd.ofOpcode (field s.mb.mboxDesc 0 0 8) ≠ none →
              t.mb.mboxCmd = some ⟨s.mb.mboxDesc, (s.mb.mboxSeq + 1).toNat, true⟩ ∧ t.mb.mboxDue = s.mb.mboxDue)) := by
  have hrun : exec .mboxGo s = .next (mboxGo (mbStop s)) := by
    change execMboxGo s = _
    unfold execMboxGo
    exact onlyIf_of_true hup
  refine ⟨_, hrun, (execMboxGo_frames s).onlyOf hrun, fun hm => ?_, fun hm hbusy => ?_, fun hm hidle => ?_⟩
  · rw [mboxGo_of_boot (s := mbStop s) hm]
    rfl
  · rw [mboxGo_of_busy (s := mbStop s) hm hbusy]
    rfl
  · rw [mboxGo_takes (s := mbStop s) hm hidle]
    by_cases hgood : field s.mb.mboxDesc 60 0 32 = (crc32c (s.mb.mboxDesc.take 60)).toNat
    · rw [if_neg (by rw [show (mbStop s).mb.mboxDesc = s.mb.mboxDesc from rfl, hgood]; simp)]
      by_cases hlisted : Cmd.ofOpcode (field s.mb.mboxDesc 0 0 8) = none
      · rw [if_pos (by rw [show (mbStop s).mb.mboxDesc = s.mb.mboxDesc from rfl, hlisted]; rfl)]
        exact ⟨rfl, rfl, fun hno => absurd hgood hno, fun _ _ => ⟨rfl, rfl⟩, fun _ hno => absurd hlisted hno⟩
      · rw [if_neg (by rw [show (mbStop s).mb.mboxDesc = s.mb.mboxDesc from rfl, Option.isNone_iff_eq_none]; exact hlisted)]
        exact ⟨rfl, rfl, fun hno => absurd hgood hno, fun _ hno => absurd hno hlisted, fun _ _ => ⟨rfl, rfl⟩⟩
    · rw [if_pos (by rw [show (mbStop s).mb.mboxDesc = s.mb.mboxDesc from rfl]; simpa using hgood)]
      exact ⟨rfl, rfl, fun _ => ⟨rfl, rfl⟩, fun hno => absurd hno hgood, fun hno => absurd hno hgood⟩

theorem mboxComplete_shows {c : List Byte} (hdue : s.mb.mboxDue = some c) :
    ∃ t, exec .mboxComplete s = .next t ∧ Only [.mb] s t ∧ t.mb = { s.mb with mboxCpl := c, mboxDue := none, mboxPhase := .done } := by
  have hrun : exec .mboxComplete s = .next (s.setMb fun m => { m with mboxCpl := c, mboxDue := none, mboxPhase := .done }) := by
    change execMboxComplete s = _
    unfold execMboxComplete
    rw [hdue]
  exact ⟨_, hrun, (execMboxComplete_frames s).onlyOf hrun, rfl⟩

/-! ### Latches and the clocks of SLEEP (17 R442, R444, R445) -/

theorem alertLatchedClear_clears (hb : s.barUp = true) :
    ∃ t, exec .alertLatchedClear s = .next t ∧ Only [.mode] s t
      ∧ t.mode = { s.mode with lastAccess := s.now, alertLatched := s.mode.alertLatched && !s.mode.alerts.isEmpty } := by
  have hframes := execAlertLatchedClear_frames s
  change ∃ t, execAlertLatchedClear s = _ ∧ _
  unfold execAlertLatchedClear at hframes ⊢
  dsimp only at hframes ⊢
  rw [onlyIf_of_true hb] at hframes ⊢
  refine ⟨_, rfl, hframes.onlyOf rfl, ?_⟩
  by_cases hquiet : s.mode.alerts.isEmpty = true
  · rw [if_pos hquiet, hquiet, Bool.not_true, Bool.and_false]
    rfl
  · rw [if_neg hquiet, Bool.eq_false_iff.mpr hquiet, Bool.not_false, Bool.and_true]
    rfl

theorem wakeLatchedClear_clears (hb : s.barUp = true) :
    ∃ t, exec .wakeLatchedClear s = .next t ∧ Only [.mode] s t ∧ t.mode = { s.mode with lastAccess := s.now, wakeLatched := false } := by
  have hframes := execWakeLatchedClear_frames s
  change ∃ t, execWakeLatchedClear s = _ ∧ _
  unfold execWakeLatchedClear at hframes ⊢
  dsimp only at hframes ⊢
  rw [onlyIf_of_true hb] at hframes ⊢
  exact ⟨_, rfl, hframes.onlyOf rfl, rfl⟩

theorem sleepClockStop_stops (hm : s.mode.mode = .sleep) (hrun : s.mode.clocksRun = true) (hfree : ∀ src, s.execOf src = none)
    (hcmd : s.mb.mboxCmd = none) (haccess : s.mode.lastAccess + 100000000 ≤ s.now) (hbus : s.mb.lastTransaction + 100000000 ≤ s.now) :
    ∃ t, exec .sleepClockStop s = .next t ∧ Only [.mode, .mb] s t ∧ t.mode = { s.mode with clocksRun := false } ∧ t.mb = { s.mb with awake := false } := by
  have hidle : cmdSources.all (fun src => (s.execOf src).isNone) = true := List.all_eq_true.mpr fun src _ => by rw [hfree src]; rfl
  have hguard : (cmdSources.all (fun src => (s.execOf src).isNone) && s.mb.mboxCmd.isNone && decide (s.mode.mode = .sleep) && s.mode.clocksRun
      && decide (s.mode.lastAccess + countsPerSecond ≤ s.now) && decide (s.mb.lastTransaction + countsPerSecond ≤ s.now)) = true := by
    rw [hidle, hcmd, decide_eq_true hm, hrun, decide_eq_true (show s.mode.lastAccess + countsPerSecond ≤ s.now from haccess),
      decide_eq_true (show s.mb.lastTransaction + countsPerSecond ≤ s.now from hbus)]
    rfl
  have hframes := execSleepClockStop_frames s
  change ∃ t, execSleepClockStop s = _ ∧ _
  unfold execSleepClockStop at hframes ⊢
  rw [onlyIf_of_true hguard] at hframes ⊢
  exact ⟨_, rfl, hframes.onlyOf rfl, rfl, rfl⟩

theorem sleepWakeAccess_starts (hm : s.mode.mode = .sleep) (hstopped : s.mode.clocksRun = false) :
    ∃ t, exec .sleepWakeAccess s = .next t ∧ Only [.mode] s t ∧ t.mode = { s.mode with clocksRun := true, lastAccess := s.now } := by
  have hguard : (decide (s.mode.mode = .sleep) && !s.mode.clocksRun) = true := by
    rw [hm, hstopped]
    rfl
  have hframes := execSleepWakeAccess_frames s
  change ∃ t, execSleepWakeAccess s = _ ∧ _
  unfold execSleepWakeAccess at hframes ⊢
  rw [onlyIf_of_true hguard] at hframes ⊢
  exact ⟨_, rfl, hframes.onlyOf rfl, rfl⟩

/-! ### Writes of configuration space -/

theorem registerWrite_pcie {r : RegTarget} {v : Nat} (hm : s.mode.mode ≠ .off) (hbar : ∀ o, r ≠ .bar0 o) :
    ∃ t, exec (.registerWrite r v) s = .next t ∧ Only [.link] s t
      ∧ t.link = { s.link with pcie := { s.link.pcie with
          msixEnabled := (if r = .msixEnable then maskBit v 0 else s.link.pcie.msixEnabled)
          relaxed := (if r = .relaxedOrdering then maskBit v 0 else s.link.pcie.relaxed)
          ecrcGen := (if r = .ecrcGeneration then maskBit v 0 else s.link.pcie.ecrcGen)
          ecrcCheck := (if r = .ecrcCheck then maskBit v 0 else s.link.pcie.ecrcCheck) } } := by
  have hup := bne_off_of_ne hm
  change ∃ t, execRegisterWrite r v s = _ ∧ _
  unfold execRegisterWrite
  dsimp only
  cases r with
  | bar0 o => exact absurd rfl (hbar o)
  | msixEnable => exact ⟨_, onlyIf_of_true hup, Only.ofMk rfl (Only.refl _ s), rfl⟩
  | relaxedOrdering => exact ⟨_, onlyIf_of_true hup, Only.ofMk rfl (Only.refl _ s), rfl⟩
  | ecrcGeneration => exact ⟨_, onlyIf_of_true hup, Only.ofMk rfl (Only.refl _ s), rfl⟩
  | ecrcCheck => exact ⟨_, onlyIf_of_true hup, Only.ofMk rfl (Only.refl _ s), rfl⟩

/-! ### Writes of the package window -/

theorem registerWrite_package {o v : Nat} (hb : s.barUp = true) (ho : o % 4 = 0) (hlow : o < 0x10000) :
    exec (.registerWrite (.bar0 o) v) s = .next (writePackage o v (hostAccess s)) := by
  change execRegisterWrite (.bar0 o) v s = _
  unfold execRegisterWrite writeBar0
  dsimp only
  rw [onlyIf_of_true hb, if_neg (by simp [ho]), if_pos (Nat.div_eq_of_lt hlow)]

/-- What a write of a word of the package window can change. -/
def packageAspects (o : Nat) : List Aspect :=
  if o = 0x0208 then [.time]
  else if 0x0600 ≤ o ∧ o < 0x0640 then [.cal]
  else if o = 0x0640 then [.cal, .levelInterval]
  else if o = 0x0904 then [.link, .integ, .mode, .domains, .sec]
  else if 0x0A20 ≤ o ∧ o < 0x0A64 then [.mb]
  else if 0xE000 ≤ o ∧ o < 0xE400 then [.link]
  else []

theorem writePackage_changes (o v : Nat) (s : State) : Only (packageAspects o) s (writePackage o v s) := by
  unfold writePackage packageAspects
  simp only [Bool.and_eq_true, decide_eq_true_eq]
  by_cases hskew : o = 0x0208
  · rw [if_pos hskew, if_pos hskew]
    exact Only.ofMk rfl (Only.refl _ s)
  rw [if_neg hskew, if_neg hskew]
  by_cases htone : 0x0600 ≤ o ∧ o < 0x0640
  · rw [if_pos htone, if_pos htone]
    exact writeTone_only _ _ _ _
  rw [if_neg htone, if_neg htone]
  by_cases hcal : o = 0x0640
  · rw [if_pos hcal, if_pos hcal]
    exact writeCalCtrl_only _ _
  rw [if_neg hcal, if_neg hcal]
  by_cases hwatch : o = 0x0904
  · rw [if_pos hwatch, if_pos hwatch]
    exact writeWatchCtrl_only _ _
  rw [if_neg hwatch, if_neg hwatch]
  by_cases hbus : 0x0A20 ≤ o ∧ o < 0x0A64
  · rw [if_pos hbus, if_neg (show ¬ (0xE000 ≤ o ∧ o < 0xE400) by omega)]
    exact Only.ite (writeBusCtrl_only _ _) (Only.ite (Only.ite (Only.refl _ _) (writeTransfer_only _ _))
      (Only.ite (State.setMb_only _ _ fun _ => ⟨rfl, rfl, rfl, rfl⟩) (Only.refl _ _)))
  rw [if_neg hbus, if_neg (show o ≠ 0x0A20 by omega), if_neg (show o ≠ 0x0A40 by omega), if_neg (show ¬ (0x0A44 ≤ o ∧ o < 0x0A64) by omega)]
  by_cases hmsix : 0xE000 ≤ o ∧ o < 0xE400
  · rw [if_pos hmsix, if_pos hmsix]
    exact writeMsix_only _ _ _
  · rw [if_neg hmsix, if_neg hmsix]
    exact Only.refl _ _

theorem packageAspects_time {o : Nat} (h : o ≠ 0x0208) : (packageAspects o).contains .time = false := by
  unfold packageAspects
  rw [if_neg h]
  (repeat' split) <;> rfl

theorem packageAspects_control {o : Nat} (h : o ≠ 0x0904) :
    (packageAspects o).contains .mode = false ∧ (packageAspects o).contains .integ = false ∧ (packageAspects o).contains .domains = false
      ∧ (packageAspects o).contains .sec = false := by
  unfold packageAspects
  rw [if_neg h]
  (repeat' split) <;> exact ⟨rfl, rfl, rfl, rfl⟩

theorem packageAspects_cal {o : Nat} (h : o < 0x0600 ∨ 0x0644 ≤ o) : (packageAspects o).contains .cal = false := by
  unfold packageAspects
  rw [if_neg (show ¬ (0x0600 ≤ o ∧ o < 0x0640) by omega), if_neg (show o ≠ 0x0640 by omega)]
  (repeat' split) <;> rfl

theorem packageAspects_mb {o : Nat} (h : o < 0x0A20 ∨ 0x0A64 ≤ o) : (packageAspects o).contains .mb = false := by
  unfold packageAspects
  rw [if_neg (show ¬ (0x0A20 ≤ o ∧ o < 0x0A64) by omega)]
  (repeat' split) <;> rfl

theorem packageAspects_link {o : Nat} (h : o < 0xE000 ∨ 0xE400 ≤ o) (hwatch : o ≠ 0x0904) : (packageAspects o).contains .link = false := by
  unfold packageAspects
  rw [if_neg hwatch, if_neg (show ¬ (0xE000 ≤ o ∧ o < 0xE400) by omega)]
  (repeat' split) <;> rfl

theorem writePackage_tone {o : Nat} (v : Nat) (hlo : 0x0600 ≤ o) (hhi : o < 0x0640) (s : State) :
    writePackage o v s = writeTone ((o - 0x0600) / 8) (o % 8 == 4) v s := by
  unfold writePackage
  rw [if_neg (by omega), if_pos (by simp; omega)]

/-- A write of TONE_FREQ. -/
theorem writePackage_toneFreq {k : Nat} (v : Nat) (hk : k < 8) (s : State) :
    writePackage (0x600 + 8 * k) v s
      = { s with cal := { s.cal with tones := s.cal.tones.zipIdx.map fun x => if x.2 = k then { x.1 with freq := v % 4294967296 } else x.1 } } := by
  rw [writePackage_tone v (by omega) (by omega), show (0x600 + 8 * k - 0x600) / 8 = k by omega, show ((0x600 + 8 * k) % 8 == 4) = false by
    rw [show (0x600 + 8 * k) % 8 = 0 by omega]; rfl]
  rfl

/-- A write of TONE_LEVEL and TONE_EN. -/
theorem writePackage_toneLevel {k : Nat} (v : Nat) (hk : k < 8) (s : State) :
    writePackage (0x604 + 8 * k) v s
      = { s with cal := { s.cal with tones := s.cal.tones.zipIdx.map fun x =>
          if x.2 = k then { x.1 with level := if v % 65536 = 0x8000 then none else some (signedOf 16 v), en := maskBit v 16 } else x.1 } } := by
  rw [writePackage_tone v (by omega) (by omega), show (0x604 + 8 * k - 0x600) / 8 = k by omega, show ((0x604 + 8 * k) % 8 == 4) = true by
    rw [show (0x604 + 8 * k) % 8 = 4 by omega]; rfl]
  rfl

theorem writePackage_calCtrl (v : Nat) (s : State) :
    writePackage 0x640 v s = { s with cal := { s.cal with
      levelInterval := if 1 ≤ v % 2048 ∧ v % 2048 ≤ 1440 then v % 2048 else s.cal.levelInterval, autoStore := maskBit v 11 } } := by
  change writeCalCtrl v s = _
  unfold writeCalCtrl
  simp only [Bool.and_eq_true, decide_eq_true_eq]

theorem writePackage_busCtrl (v : Nat) (s : State) :
    (writePackage 0xA20 v s).mb = { s.mb with pecReq := maskBit v 2, timeoutEn := maskBit v 3, ctrlEnable := maskBit v 4, arbRetries := v / 32 % 8
                                              counts := if maskBit v 12 then {} else s.mb.counts } := by
  change (writeBusCtrl v s).mb = _
  unfold writeBusCtrl State.setMb
  dsimp only
  split <;> rfl

theorem writePackage_transfer {v : Nat} (hgo : maskBit v 20 = false) (s : State) :
    (writePackage 0xA40 v s).mb = { s.mb with targetAddr := v % 128, usePec := maskBit v 7, wlen := v / 256 % 64, rlen := v / 16384 % 64, done := s.mb.done && !maskBit v 24 } := by
  change (if maskBit v 20 then s else writeTransfer v s).mb = _
  unfold writeTransfer
  rw [hgo, if_neg Bool.false_ne_true, if_neg Bool.false_ne_true]
  rfl

theorem writePackage_ctrlData {p : Nat} (v : Nat) (hp : p < 32) (hp4 : p % 4 = 0) (s : State) :
    writePackage (0xA44 + p) v s = s.setMb fun m => { m with ctrlData := (⟨0x44 + p, le 4 v⟩ : MbData).written 0x44 m.ctrlData } := by
  unfold writePackage
  rw [if_neg (by omega), if_neg (by simp; omega), if_neg (by omega), if_neg (by omega), if_neg (by omega), if_neg (by omega), if_pos (by simp; omega),
    show 0xA44 + p - 0xA00 = 0x44 + p by omega]

theorem le_length (n v : Nat) : (le n v).length = n := by
  induction n generalizing v with
  | zero => rfl
  | succ n ih => exact congrArg (· + 1) (ih _)

/-- The bytes of CTRL_DATA after a write of one of its words. -/
theorem ctrlData_written {p v : Nat} {old : List Byte} {i : Nat} (hi : i < old.length) :
    ((⟨0x44 + p, le 4 v⟩ : MbData).written 0x44 old).getD i 0 = if p ≤ i ∧ i < p + 4 then (le 4 v).getD (i - p) 0 else old.getD i 0 := by
  rw [MbData.written_getD _ _ _ _ hi]
  unfold MbData.byte
  dsimp only
  rw [le_length]
  by_cases hin : p ≤ i ∧ i < p + 4
  · have hidx : i - p < (le 4 v).length := by
      rw [le_length]
      omega
    rw [if_pos hin, if_pos (by simp; omega), show 0x44 + i - (0x44 + p) = i - p by omega]
    simp only [List.getD_eq_getElem?_getD, List.getElem?_eq_getElem hidx, Option.getD_some]
  · rw [if_neg hin, if_neg (by simp; omega)]

theorem writePackage_msix {p : Nat} (v : Nat) (hp : p < 1024) (s : State) : writePackage (0xE000 + p) v s = writeMsix p v s := by
  unfold writePackage
  rw [if_neg (by omega), if_neg (by simp; omega), if_neg (by omega), if_neg (by omega), if_neg (by omega), if_neg (by omega), if_neg (by simp; omega),
    if_pos (by simp; omega), show 0xE000 + p - 0xE000 = p by omega]

/-- WATCH_CTRL: its fields, whatever the review of the alerts does. -/
theorem writePackage_watchCtrl (v : Nat) (s : State) :
    (writePackage 0x904 v s).mode.autoRun = maskBit v 0 ∧ (writePackage 0x904 v s).mode.alertPty31 = maskBit v 1 ∧ (writePackage 0x904 v s).mode.alertTa = maskBit v 2
      ∧ (writePackage 0x904 v s).mode.alertDab = maskBit v 3 ∧ (writePackage 0x904 v s).mode.alertDrm = maskBit v 4 ∧ (writePackage 0x904 v s).mode.alertInRun = maskBit v 5
      ∧ (writePackage 0x904 v s).mode.mode = s.mode.mode := by
  obtain ⟨u, hu⟩ : ∃ u, u = { s with mode := { s.mode with
      autoRun := maskBit v 0, alertPty31 := maskBit v 1, alertTa := maskBit v 2, alertDab := maskBit v 3, alertDrm := maskBit v 4, alertInRun := maskBit v 5 } } := ⟨_, rfl⟩
  have hwrite : writePackage 0x904 v s = reviewAlerts u := by
    rw [hu]
    rfl
  obtain ⟨hrun, hpty, hta, hdab, hdrm, hinRun⟩ := reviewAlerts_controls u
  rw [hwrite, hrun, hpty, hta, hdab, hdrm, hinRun]
  exact ⟨hu ▸ rfl, hu ▸ rfl, hu ▸ rfl, hu ▸ rfl, hu ▸ rfl, hu ▸ rfl, (reviewAlerts_only u .modeCode rfl).trans (hu ▸ rfl)⟩

theorem registerWrite_packageWord {o v : Nat} (hb : s.barUp = true) (ho : o % 4 = 0) (hlow : o < 0x10000) :
    ∃ t, exec (.registerWrite (.bar0 o) v) s = .next t ∧ Only [.time, .link, .cal, .integ, .mode, .domains, .mb, .sec, .levelInterval] s t
      ∧ (o ≠ 0x904 → t.mode = { s.mode with lastAccess := s.now } ∧ t.integ = s.integ ∧ t.domains = s.domains ∧ t.sec = s.sec)
      ∧ (o = 0x208 → t.time = { s.time with syncSkew := signedOf 16 v }) ∧ (o ≠ 0x208 → t.time = s.time)
      ∧ (∀ k, k < 8 → o = 0x600 + 8 * k → t.cal = { s.cal with tones := t.cal.tones }
          ∧ ∀ i x, s.cal.tones[i]? = some x → t.cal.tones[i]? = some (if i = k then { x with freq := v % 4294967296 } else x))
      ∧ (∀ k, k < 8 → o = 0x604 + 8 * k → t.cal = { s.cal with tones := t.cal.tones }
          ∧ ∀ i x, s.cal.tones[i]? = some x →
              t.cal.tones[i]? = some (if i = k then { x with level := if v % 65536 = 0x8000 then none else some (signedOf 16 v), en := maskBit v 16 } else x))
      ∧ (o = 0x640 → t.cal = { s.cal with levelInterval := (if 1 ≤ v % 2048 ∧ v % 2048 ≤ 1440 then v % 2048 else s.cal.levelInterval), autoStore := maskBit v 11 })
      ∧ (o < 0x600 ∨ 0x644 ≤ o → t.cal = s.cal)
      ∧ (o = 0x904 → t.mode.autoRun = maskBit v 0 ∧ t.mode.alertPty31 = maskBit v 1 ∧ t.mode.alertTa = maskBit v 2 ∧ t.mode.alertDab = maskBit v 3
          ∧ t.mode.alertDrm = maskBit v 4 ∧ t.mode.alertInRun = maskBit v 5 ∧ t.mode.mode = s.mode.mode)
      ∧ (o = 0xA20 → t.mb = { s.mb with pecReq := maskBit v 2, timeoutEn := maskBit v 3, ctrlEnable := maskBit v 4, arbRetries := v / 32 % 8
                                        counts := if maskBit v 12 then {} else s.mb.counts })
      ∧ (o = 0xA40 → maskBit v 20 = false → t.mb = { s.mb with targetAddr := v % 128, usePec := maskBit v 7, wlen := v / 256 % 64, rlen := v / 16384 % 64, done := s.mb.done && !maskBit v 24 })
      ∧ (∀ p, p < 32 → o = 0xA44 + p → t.mb = { s.mb with ctrlData := t.mb.ctrlData }
          ∧ ∀ i, i < s.mb.ctrlData.length → t.mb.ctrlData.getD i 0 = (if p ≤ i ∧ i < p + 4 then (le 4 v).getD (i - p) 0 else s.mb.ctrlData.getD i 0))
      ∧ (o < 0xA20 ∨ 0xA64 ≤ o → t.mb = s.mb)
      ∧ (∀ p, p < 1024 → o = 0xE000 + p → t.link.sent = s.link.sent ∧ t.link.rings = s.link.rings ∧ t.link.events = s.link.events
          ∧ (∀ i, i ≠ p / 16 → t.link.pcie.msixTable.get i = s.link.pcie.msixTable.get i)
          ∧ (p % 16 = 0 → t.link.pcie.msixTable.get (p / 16) = { s.link.pcie.msixTable.get (p / 16) with addrLo := BitVec.ofNat 32 v })
          ∧ (p % 16 = 4 → t.link.pcie.msixTable.get (p / 16) = { s.link.pcie.msixTable.get (p / 16) with addrHi := BitVec.ofNat 32 v })
          ∧ (p % 16 = 8 → t.link.pcie.msixTable.get (p / 16) = { s.link.pcie.msixTable.get (p / 16) with data := BitVec.ofNat 32 v })
          ∧ ∀ i, maskBit t.link.pcie.masked i = (maskBit s.link.pcie.masked i || (p % 16 == 12 && maskBit v 0 && i == p / 16)))
      ∧ (o < 0xE000 ∨ 0xE400 ≤ o → o ≠ 0x904 → t.link = s.link) := by
  have hkeeps := writePackage_changes o v (hostAccess s)
  refine ⟨_, registerWrite_package hb ho hlow, ((hostAccess_only s).mono rfl).trans (writePackage_only o v _), fun hwatch => ?_, fun hskew => ?_, fun hskew => ?_,
    fun k hk hfreq => ?_, fun k hk hlevel => ?_, fun hcal => ?_, fun hcal => ?_, fun hwatch => ?_, fun hbus => ?_, fun htransfer hgo => ?_, fun p hp hdata => ?_,
    fun hmb => ?_, fun p hp hmsix => ?_, fun hlink hwatch => ?_⟩
  · obtain ⟨hmode, hinteg, hdomains, hsec⟩ := packageAspects_control hwatch
    exact ⟨hkeeps .mode hmode, hkeeps .integ hinteg, hkeeps .domains hdomains, hkeeps .sec hsec⟩
  · rw [hskew]
    rfl
  · exact hkeeps .time (packageAspects_time hskew)
  · rw [hfreq, writePackage_toneFreq v hk]
    exact ⟨rfl, fun i x hx => zipIdx_map_set _ k (fun x : Tone => { x with freq := v % 4294967296 }) i x hx⟩
  · rw [hlevel, writePackage_toneLevel v hk]
    exact ⟨rfl, fun i x hx =>
      zipIdx_map_set _ k (fun x : Tone => { x with level := if v % 65536 = 0x8000 then none else some (signedOf 16 v), en := maskBit v 16 }) i x hx⟩
  · rw [hcal, writePackage_calCtrl]
    rfl
  · exact hkeeps .cal (packageAspects_cal hcal)
  · rw [hwatch]
    exact writePackage_watchCtrl v _
  · rw [hbus]
    exact writePackage_busCtrl v _
  · rw [htransfer]
    exact writePackage_transfer hgo _
  · rw [hdata, writePackage_ctrlData v hp (by omega)]
    exact ⟨rfl, fun i hi => ctrlData_written hi⟩
  · exact hkeeps .mb (packageAspects_mb hmb)
  · rw [hmsix, writePackage_msix v hp]
    exact (writeMsix_set p v (hostAccess s) (by omega)).2
  · exact hkeeps .link (packageAspects_link hlink hwatch)

/-! ### Writes of a die's window -/

theorem registerWrite_die {d o v : Nat} (hb : s.barUp = true) (ho : o % 4 = 0) (hlow : o < 0x10000) (hup : s.dieUp d = true) :
    exec (.registerWrite (.bar0 (0x10000 * (d + 1) + o)) v) s = .next (writeDie d o v (hostAccess s)) := by
  change execRegisterWrite (.bar0 (0x10000 * (d + 1) + o)) v s = _
  unfold execRegisterWrite writeBar0
  dsimp only
  have hdie : (0x10000 * (d + 1) + o) / 0x10000 = d + 1 := by omega
  have hword : (0x10000 * (d + 1) + o) % 0x10000 = o := by omega
  have halign : ((0x10000 * (d + 1) + o) % 4 != 0) = false := by
    rw [show (0x10000 * (d + 1) + o) % 4 = 0 by omega]
    rfl
  rw [onlyIf_of_true hb, hdie, hword, halign, if_neg Bool.false_ne_true, if_neg (by omega), Nat.add_sub_cancel, if_pos (show (hostAccess s).dieUp d = true from hup)]

theorem writeDie_ne {d k : Nat} (o v : Nat) (hk : k ≠ d) (s : State) : (writeDie d o v s).mon.dies.get k = s.mon.dies.get k := by
  unfold writeDie
  dsimp only
  repeat' split
  · exact Tbl.get_modify_of_ne _ hk _
  · exact Tbl.get_modify_of_ne _ hk _
  · rfl
  · exact Tbl.get_modify_of_ne _ hk _
  · exact Tbl.get_modify_of_ne _ hk _
  · rfl

theorem writeDie_beside {d o : Nat} (v : Nat) (h : o < 0x3400 ∨ 0x340C ≤ o ∧ o < 0x3410 ∨ 0x3450 ≤ o) (s : State) : writeDie d o v s = s := by
  unfold writeDie
  rw [if_neg (by omega), if_neg (by omega), if_neg (by omega), if_neg (by simp; omega)]

theorem writeDie_passPeriod (d v : Nat) (s : State) :
    (writeDie d 0x3404 v s).mon.dies.get d = { s.mon.dies.get d with
      passPeriod := if v % 16384 = 0 ∨ 10 ≤ v % 16384 ∧ v % 16384 ≤ 10000 then v % 16384 else (s.mon.dies.get d).passPeriod } := by
  change (if v % 16384 = 0 || (10 ≤ v % 16384 && v % 16384 ≤ 10000) then s.setMon d fun m => { m with passPeriod := v % 16384 } else s).mon.dies.get d = _
  simp only [Bool.or_eq_true, Bool.and_eq_true, decide_eq_true_eq]
  by_cases hin : v % 16384 = 0 ∨ 10 ≤ v % 16384 ∧ v % 16384 ≤ 10000
  · rw [if_pos hin, if_pos hin]
    exact setMon_self ..
  · rw [if_neg hin, if_neg hin]

theorem writeDie_entry {d k : Nat} (v : Nat) (hk : k < 16) (s : State) :
    (writeDie d (0x3410 + 4 * k) v s).mon.dies.get d = (s.mon.dies.get d).stageEntry k v := by
  unfold writeDie
  rw [if_neg (by omega), if_neg (by omega), if_neg (by omega), if_pos (by simp; omega), show (0x3410 + 4 * k - 0x3410) / 4 = k by omega]
  exact setMon_self ..

theorem registerWrite_dieWord {d o v : Nat} (hb : s.barUp = true) (ho : o % 4 = 0) (hlow : o < 0x10000) (hup : s.dieUp d = true) :
    ∃ t, exec (.registerWrite (.bar0 (0x10000 * (d + 1) + o)) v) s = .next t ∧ Only [.mon, .mode] s t ∧ t.mode = { s.mode with lastAccess := s.now }
      ∧ (∀ k, k ≠ d → t.mon.dies.get k = s.mon.dies.get k)
      ∧ (o = 0x3400 → t.mon.dies.get d = { s.mon.dies.get d with staged := { (s.mon.dies.get d).staged with
          lowPower := maskBit v 1, align := maskBit v 2, diff01 := maskBit v 3, diff23 := maskBit v 4, seqLast := v / 32 % 16 } })
      ∧ (o = 0x3404 → t.mon.dies.get d = { s.mon.dies.get d with
          passPeriod := if v % 16384 = 0 ∨ 10 ≤ v % 16384 ∧ v % 16384 ≤ 10000 then v % 16384 else (s.mon.dies.get d).passPeriod })
      ∧ (o = 0x3408 → t.mon.dies.get d = { s.mon.dies.get d with
          seqRejected := (s.mon.dies.get d).seqRejected && !maskBit v 10, paceOverrun := (s.mon.dies.get d).paceOverrun && !maskBit v 11 })
      ∧ (∀ k, k < 16 → o = 0x3410 + 4 * k →
          t.mon.dies.get d = { s.mon.dies.get d with staged := { (s.mon.dies.get d).staged with entries := (t.mon.dies.get d).staged.entries } }
          ∧ ∀ i x, (s.mon.dies.get d).staged.entries[i]? = some x → (t.mon.dies.get d).staged.entries[i]? = some (
              if i = k then ⟨v % 32, v / 32 % 4, maskBit v 7, v / 256 % 8, maskBit v 11⟩ else x))
      ∧ (o < 0x3400 ∨ 0x340C ≤ o ∧ o < 0x3410 ∨ 0x3450 ≤ o → t.mon = s.mon) := by
  have hmon := writeDie_only d o v (hostAccess s)
  refine ⟨_, registerWrite_die hb ho hlow hup, ((hostAccess_only s).mono rfl).trans (hmon.mono rfl), hmon .mode rfl, fun k hk => writeDie_ne o v hk _,
    fun hctrl => ?_, fun hpace => ?_, fun hstatus => ?_, fun k hk hentry => ?_, fun hbeside => ?_⟩
  · rw [hctrl]
    exact setMon_self ..
  · rw [hpace]
    exact writeDie_passPeriod ..
  · rw [hstatus]
    exact setMon_self ..
  · rw [hentry, writeDie_entry v hk]
    exact ⟨rfl, fun i x hx => zipIdx_map_set _ k (fun _ : MonEntry => ⟨v % 32, v / 32 % 4, maskBit v 7, v / 256 % 8, maskBit v 11⟩) i x hx⟩
  · rw [writeDie_beside v hbeside]
    rfl

/-! ### What a read gives after a write -/

theorem dies_le_eight (s : State) : s.dies ≤ 8 := by
  unfold State.dies Part.dies
  cases s.part <;> decide

theorem b2n_maskBit (v i : Nat) : b2n (maskBit v i) = v / 2 ^ i % 2 := by
  unfold maskBit b2n
  rw [Nat.shiftRight_eq_div_pow]
  rcases Nat.mod_two_eq_zero_or_one (v / 2 ^ i) with h | h <;> simp [h]

theorem registerWrite_reads_syncSkew {v : Nat} (hb : s.barUp = true) :
    ∃ t, exec (.registerWrite (.bar0 0x208) v) s = .next t ∧ t.readBar0 0x208 = v % 65536 := by
  refine ⟨_, registerWrite_package hb rfl (by decide), ?_⟩
  rw [readBar0_package (by decide)]
  change regWord [intField 0 16 (signedOf 16 v)] = _
  exact (regWord_single (by decide) _).trans (wrapInt_signedOf 16 v)

theorem readPackage_cal {o : Nat} (hlo : 0x600 ≤ o) (hhi : o < 0x700) (s : State) : s.readBar0 o = s.readCal o := by
  have hdies := dies_le_eight s
  rw [readBar0_package (by omega)]
  unfold State.readPackage
  rw [if_neg (by omega), if_neg (by omega), if_neg (by omega), if_neg (by omega), if_pos hhi]

theorem registerWrite_reads_calCtrl {v : Nat} (hb : s.barUp = true) (hlo : 1 ≤ v % 2048) (hhi : v % 2048 ≤ 1440) :
    ∃ t, exec (.registerWrite (.bar0 0x640) v) s = .next t ∧ t.readBar0 0x640 = v % 4096 + if s.cal.suspect then 4096 else 0 := by
  refine ⟨_, registerWrite_package hb rfl (by decide), ?_⟩
  rw [readPackage_cal (by decide) (by decide), writePackage_calCtrl, if_pos ⟨hlo, hhi⟩]
  change regWord [natField 0 11 (v % 2048), bitField 11 (maskBit v 11), bitField 12 s.cal.suspect] = _
  unfold regWord natField bitField
  simp only [List.foldl_cons, List.foldl_nil, wrapInt_nat, b2n_maskBit]
  cases s.cal.suspect <;> simp [b2n] <;> omega

theorem getD_zipIdx_map_set {α : Type} {l : List α} {k : Nat} (f : α → α) (x : α) (hk : k < l.length) :
    (l.zipIdx.map fun y => if y.2 = k then f y.1 else y.1).getD k x = f (l.getD k x) := by
  rw [List.getD_eq_getElem?_getD, zipIdx_map_set l k f k l[k] (List.getElem?_eq_getElem hk), if_pos rfl, Option.getD_some, List.getD_eq_getElem?_getD,
    List.getElem?_eq_getElem hk, Option.getD_some]

theorem wrapInt_toneLevel (v : Nat) : wrapInt 16 ((if v % 65536 = 0x8000 then none else some (signedOf 16 v)).getD 0x8000) = v % 65536 := by
  by_cases hnone : v % 65536 = 0x8000
  · rw [if_pos hnone, hnone]
    rfl
  · rw [if_neg hnone]
    exact wrapInt_signedOf 16 v

/-- TONE_LEVEL and TONE_EN read as written. -/
theorem toneLevel_word (v : Nat) :
    regWord [intField 0 16 ((if v % 65536 = 0x8000 then none else some (signedOf 16 v)).getD 0x8000), bitField 16 (maskBit v 16)] = v % 2 ^ 17 := by
  unfold regWord intField bitField
  simp only [List.foldl_cons, List.foldl_nil, wrapInt_nat, b2n_maskBit, wrapInt_toneLevel]
  omega

theorem registerWrite_reads_tone {k v : Nat} (hb : s.barUp = true) (hk : k < 8) (hlen : k < s.cal.tones.length) :
    ∃ t u, exec (.registerWrite (.bar0 (0x600 + 8 * k)) v) s = .next t ∧ t.readBar0 (0x600 + 8 * k) = v % 2 ^ 32
      ∧ exec (.registerWrite (.bar0 (0x604 + 8 * k)) v) s = .next u ∧ u.readBar0 (0x604 + 8 * k) = v % 2 ^ 17 := by
  refine ⟨_, _, registerWrite_package hb (by omega) (by omega), ?_, registerWrite_package hb (by omega) (by omega), ?_⟩
  · rw [readPackage_cal (by omega) (by omega), writePackage_toneFreq v hk]
    unfold State.readCal
    dsimp only
    rw [if_pos (by omega), if_pos (by omega), show (0x600 + 8 * k - 0x600) / 8 = k by omega,
      getD_zipIdx_map_set (fun x : Tone => { x with freq := v % 4294967296 }) {} (show k < (hostAccess s).cal.tones.length from hlen)]
    exact Nat.mod_mod _ _
  · rw [readPackage_cal (by omega) (by omega), writePackage_toneLevel v hk]
    unfold State.readCal
    dsimp only
    rw [if_pos (by omega), if_neg (by omega), show (0x604 + 8 * k - 0x600) / 8 = k by omega,
      getD_zipIdx_map_set (fun x : Tone => { x with level := if v % 65536 = 0x8000 then none else some (signedOf 16 v), en := maskBit v 16 }) {} (show k < (hostAccess s).cal.tones.length from hlen)]
    exact toneLevel_word v

theorem registerWrite_reads_monCtrl {d v : Nat} (hb : s.barUp = true) (hup : s.dieUp d = true) (hrun : (s.mon.dies.get d).run = true)
    (happly : (s.mon.dies.get d).applyPending = false) (hclear : (s.mon.dies.get d).clearPending = false) :
    ∃ t, exec (.registerWrite (.bar0 (0x10000 * (d + 1) + 0x3400)) v) s = .next t ∧ t.readBar0 (0x10000 * (d + 1) + 0x3400) = v % 512 / 2 * 2 + 1 := by
  have hdie : d < s.dies := of_decide_eq_true (Bool.and_eq_true_iff.mp hup).1
  obtain ⟨u, hu⟩ : ∃ u, u = writeDie d 0x3400 v (hostAccess s) := ⟨_, rfl⟩
  have hself : u.mon.dies.get d = (s.mon.dies.get d).stageCtrl v := by
    rw [hu]
    exact setMon_self ..
  refine ⟨u, hu ▸ registerWrite_die hb rfl (by decide) hup, ?_⟩
  rw [readBar0_monitor (show d < u.dies from hu ▸ hdie) (by decide) (by decide)]
  unfold State.readMonitor
  dsimp only
  rw [hself, if_pos rfl]
  change regWord [bitField 0 (s.mon.dies.get d).run, bitField 1 (maskBit v 1), bitField 2 (maskBit v 2), bitField 3 (maskBit v 3), bitField 4 (maskBit v 4),
    natField 5 4 (v / 32 % 16), bitField 9 (s.mon.dies.get d).applyPending, bitField 10 (s.mon.dies.get d).clearPending] = _
  rw [hrun, happly, hclear]
  unfold regWord natField bitField
  simp only [List.foldl_cons, List.foldl_nil, wrapInt_nat, b2n_maskBit]
  simp only [show b2n true = 1 from rfl, show b2n false = 0 from rfl]
  omega

end

/-- Settles O59: every word of a window is one equation, and a table of aspects says what the others leave. -/
theorem mailboxAndRegisters : Obligations.MailboxAndRegisters :=
  ⟨fun _ => mboxGo_answers, fun _ _ => mboxComplete_shows, fun _ => alertLatchedClear_clears, fun _ => wakeLatchedClear_clears, fun _ => sleepClockStop_stops,
    fun _ => sleepWakeAccess_starts, fun _ _ _ => registerWrite_pcie, fun _ _ _ => registerWrite_packageWord, fun _ _ _ _ => registerWrite_dieWord, fun _ _ => readBar0_absent,
    fun _ _ => registerWrite_reads_syncSkew, fun _ _ => registerWrite_reads_calCtrl, fun _ _ _ => registerWrite_reads_tone, fun _ _ _ => registerWrite_reads_monCtrl⟩

end Sys2Proof.Machine
end
